-- ==== Sys2Proof/Word.lean ====
section
/-!
DEFINITION. The word types of the part and the shapes its register tables are written in.
-/

namespace Sys2Proof

/-- A BAR0 register is 32 bits wide (R6). -/
abbrev Word := BitVec 32

/-- One byte of a memory or of a message. -/
abbrev Byte := BitVec 8

/-- One field of one register: the register's key (its BAR0 byte offset, or its stage key) and the field's bits. -/
structure Field where
  addr : Nat
  hi : Nat
  lo : Nat
deriving DecidableEq, Repr

/-- The bits of one register by access type (R9), as 32-bit masks. `own` holds the bits whose write is a row of its own in
the table of commands; a plain register write leaves them alone. -/
structure Masks where
  rw : Nat
  rwp : Nat
  rwl : Nat
  w1c : Nat
  w1s : Nat
  rc : Nat
  own : Nat
deriving DecidableEq, Repr

/-- One line of the register map: `n1` by `n2` registers from `base` at strides `s1` and `s2`, their masks, whether their
reset value is a dash (R11, R12), and their reset word. -/
structure RegRow where
  base : Nat
  n1 : Nat
  s1 : Nat
  n2 : Nat
  s2 : Nat
  masks : Masks
  dash : Bool
  reset : Nat
deriving DecidableEq, Repr

/-- Bits hi to lo of a natural number. -/
def bits (w hi lo : Nat) : Nat := (w >>> lo) % 2 ^ (hi + 1 - lo)

/-- Whether bit b of a natural number is set. -/
def bit (w b : Nat) : Bool := w.testBit b

/-- The two's complement value of the low n bits. -/
def sval (n v : Nat) : Int :=
  let m := v % 2 ^ n
  if m < 2 ^ (n - 1) then (m : Int) else (m : Int) - (2 ^ n : Nat)

/-- The low n bits of an integer, two's complement. -/
def ofSval (n : Nat) (v : Int) : Nat := (v % ((2 ^ n : Nat) : Int)).toNat

/-- Integer v kept between lo and hi (R5). -/
def clampI (lo hi v : Int) : Int := if v < lo then lo else if hi < v then hi else v

/-- Natural quotient rounded up. -/
def ceilDiv (a b : Nat) : Nat := (a + b - 1) / b

/-- v divided by 2^k, rounded to nearest with ties to even (R4). -/
def rhe (k : Nat) (v : Int) : Int :=
  let d : Int := ((2 ^ k : Nat) : Int)
  let q := v / d
  let r := v % d
  if 2 * r < d then q else if d < 2 * r then q + 1 else if q % 2 = 0 then q else q + 1

/-- n divided by d, rounded to nearest with ties to even (R4), d positive. -/
def rheDiv (n : Int) (d : Nat) : Int :=
  let q := n / (d : Int)
  let r := n % (d : Int)
  if 2 * r < (d : Int) then q else if (d : Int) < 2 * r then q + 1 else if q % 2 = 0 then q else q + 1

end Sys2Proof
end

