-- ==== Sys2Proof/Syntax.lean ====
section
/-!
DEFINITION. The commands of the block: one constructor per row of the table of operations and events, with the data that
the outside world brings to it.
-/

namespace Sys2Proof

/-- Who writes or reads a register: the Purser, PF0 (function 0) or VF f (function f) (R424). -/
inductive Writer where
  | purser
  | fn (f : Fin 32)
deriving DecidableEq, Repr

/-- An access to one Hold word, as a master presents it at the bank gate (R239, R240): master ID, the word's address, the
rotate, the byte enables by word byte, the direction, and the 32 source bytes of a write. -/
structure HoldAccess where
  master : BitVec 8
  addr : BitVec 30
  rotate : Fin 32
  enable : Word
  write : Bool
  data : BitVec 256
deriving DecidableEq, Repr

/-- An access as it comes to a bank gate: the fabric cycle in which its master issued the request (R236), the memory's own ECC
verdict on a read (0 clean, 1 corrected, 2 uncorrectable, R234), whether its answer stays outstanding once the bank has accepted it. -/
structure Peer where
  acc : HoldAccess
  issued : Nat
  ecc : Fin 3
  stalled : Bool
deriving DecidableEq, Repr

/-- What an access comes to its bank gate with: its own issue cycle, ECC verdict and stall, and the accesses that other masters
present at the same bank in the same cycle (R235). -/
structure Arbitration where
  issued : Nat
  ecc : Fin 3
  stalled : Bool
  others : List Peer
deriving DecidableEq, Repr

/-- A word that a march test works on: one with an address, a word of a relief row, or a word of a relief bank (R233, R246). -/
inductive MarchUnit where
  | word (addr : BitVec 30)
  | reliefRow (bank : Fin 256) (row : Fin 16) (word : Fin 128)
  | reliefBank (spare : Fin 16) (word : Fin 133120)
deriving DecidableEq, Repr

/-- What the memory array answered to one read of a march test when that was not what the test wrote there: the word, the element and
the place of the read in it, the raw 266 bits, and whether the cell lost the owner's data (R245, R251). -/
structure MarchFail where
  unit : MarchUnit
  element : Fin 8
  op : Fin 4
  read : BitVec 266
  lost : Bool
deriving DecidableEq, Repr

/-- How a read request of the host link or an access of the Hold is answered (R274): with its data, with Completer Abort status,
with Unsupported Request status, or poisoned. -/
inductive BusReply where
  | ok
  | completer
  | unsupported
  | poisoned
deriving DecidableEq, Repr

/-- What the accesses that a command makes to the Hold meet there (R234 to R238, R265): the cycles that each master waited at a gate or port, the
fabric cycle in which they were issued, the words whose reads were corrected, those found uncorrectable, and the accesses that other masters present
in the same cycles. -/
structure HoldPort where
  waits : List (BitVec 8 × Nat)
  issued : Nat
  corrected : List (BitVec 30)
  lost : List (BitVec 30)
  others : List Peer
deriving DecidableEq, Repr

/-- Whose transition density a span measures (R224, R229): a panel lane's, whose symbols the part sends itself, or a chain receive slice's (4 the
relief slice) with the transitions received and the idle symbols that did not regenerate. -/
inductive SpanOf where
  | lane (n : Fin 96)
  | slice (p : Fin 3) (k : Fin 5) (count errors : BitVec 17)
deriving DecidableEq, Repr

/-- A configuration write, or a write of an MSI-X table entry through BAR4 (R352 to R357, R360, R362, R383): the Command register, the D-state,
MSI-X control, the sizes of Device Control (as powers of two of 128 bytes), the tags enabled (0 5-bit, 1 8-bit, 2 10-bit, 3 14-bit), LTR
Mechanism Enable, ASPM L1 and its substates with the latency (ns) of L1.2, the width of L0p (as a power of two), VF Enable with NumVFs, a BAR of
PF0 or of the VFs (0 BAR0, 1 BAR2, 2 BAR4), the System Page Size, the bus number, the AER status bits cleared, and the Mask bit, or the address and
data, of a table entry. -/
inductive ConfigChange where
  | command (memSpace busMaster : Bool)
  | power (d3hot : Bool)
  | msix (enable mask : Bool)
  | sizes (payload : Fin 3) (readReq : Fin 6)
  | tags (mode : Fin 4)
  | ltr (enable : Bool)
  | aspm (l1 l11 l12 : Bool) (threshold : Nat)
  | l0p (width : Fin 4)
  | sriov (enable : Bool) (numVfs : BitVec 16)
  | bar (i : Fin 3) (base : BitVec 64)
  | vfBar (i : Fin 3) (base : BitVec 64)
  | pageSize (size : Word)
  | bus (number : BitVec 8)
  | aer (cor unc : Word)
  | maskVector (v : Fin 2048)
  | entry (v : Fin 2048) (addr : BitVec 64) (data : Word)
deriving DecidableEq, Repr

/-- A violation that meets a thaw or an acknowledgement in one clock (R371): its code, its address, whether it is a write, and for code 0x207 the
address of the originating unit. -/
structure Meeting where
  code : BitVec 12
  addr : BitVec 64
  write : Bool
  src : BitVec 16
deriving DecidableEq, Repr

/-- A PLL (18_power_clocks_reset.md): of an output, the relief PLL, of the fabric and the Hold, of the Purser, of the tick. -/
inductive Pll where
  | out (n : Fin 4)
  | relief
  | fabric
  | purser
  | tick
deriving DecidableEq, Repr

/-- The commands: one constructor per row of the table. -/
inductive Instr where
  /-- REGISTER_WRITE (R9): A BAR0 write to a register field without a row of its own acts by its access type, after the function's partition check. -/
  | registerWrite (w : Writer) (addr : BitVec 26) (data : Word) (hwSet : Word)
  /-- MISALIGNED_BAR0_ACCESS (R6): A BAR0 access that is not a naturally aligned 32-bit access is discarded, or a read completes with all-ones data. -/
  | misalignedBar0Access (w : Writer) (addr : BitVec 26) (size : Nat) (write : Bool)
  /-- LOW_WORD_READ (R8): Reading the low word of a 64-bit counter copies the high word into the holding register. -/
  | lowWordRead (w : Writer) (addr : BitVec 26)
  /-- RC_READ (R10): A read of an RC field returns the value and clears it, keeping any increment of the same clock. -/
  | rcRead (w : Writer) (addr : BitVec 26) (increments : Word)
  /-- SST_LOAD (R41): SST_CMD OP LOAD starts fetching SSTn_LEN bytes from host memory into a staging slot. -/
  | sstLoad (w : Writer) (slot : Fin 4)
  /-- SST_FETCH_COMPLETE (R42): The staged stream has been fetched and every validation check is run in order, leaving the slot VALID or REJECTED. -/
  | sstFetchComplete (ok : Bool) (words : List Word)
  /-- SST_APPLY (R45): SST_CMD OP APPLY repeats the APPLY checks and moves the slot to PENDING, installing idle outputs and output-independent parts at once. -/
  | sstApply (w : Writer) (slot : Fin 4) (hold : Bool) (copyCycle : BitVec 4)
  /-- SST_DISCARD (R41): SST_CMD OP DISCARD returns a VALID or REJECTED slot to EMPTY. -/
  | sstDiscard (w : Writer) (slot : Fin 4)
  /-- STORE_BOOT (R41): SST_CMD OP STORE_BOOT copies a VALID or ACTIVE slot of at most 64 KiB into the calibration store as the boot stream. -/
  | storeBoot (w : Writer) (slot : Fin 4)
  /-- CLEAR_BOOT (R41): SST_CMD OP CLEAR_BOOT erases the stored boot stream. -/
  | clearBoot (w : Writer) (slot : Fin 4)
  /-- CMD_INVALID (R41): SST_CMD OP 0x6-0xF while idle starts nothing, is refused with 0x12B and raises SST_REJECTED. -/
  | cmdInvalid (w : Writer) (op : Fin 16) (slot : Fin 4)
  /-- SLOT_READY (R61): A write of READY to a slot marks it as holding a frame awaiting display, sampled at the Landing point. -/
  | slotReady (w : Writer) (n k : Fin 4)
  /-- SLOT_WITHDRAW (R61): A write of WITHDRAW clears a slot's READY bit. -/
  | slotWithdraw (w : Writer) (n k : Fin 4)
  /-- LINE_GROUP_READ (R65): The scan-out engine issues the first read of a source line group and UNPK takes the group, checking chase completion and data arrival. -/
  | lineGroupRead (n : Fin 4) (late : Bool) (port : HoldPort)
  /-- LANDING_POINT (R161): At pixel 0 of line Q the output makes a Landing if GO or AUTO, copying shadows, advancing FRAME_ID and taking slot, ladder and structure decisions. -/
  | landingPoint (n : Fin 4)
  /-- LAND_GO (R162): A write of TGn_LAND.GO requests a Landing at this or the next Landing point. -/
  | landGo (w : Writer) (n : Fin 4) (copyCycle : Bool)
  /-- LAND_CANCEL (R162): A write of TGn_LAND.CANCEL clears a pending or held GO. -/
  | landCancel (w : Writer) (n : Fin 4)
  /-- FRAME_START (R146): The timing generator begins pixel 0 of line 0, latching the dither epoch, the wear stripe and frame-end work of the previous frame. -/
  | frameStart (n : Fin 4) (edge : Int) (low : BitVec 4)
  /-- LINE_START (R195): A line begins, placing its MARK, packet, beacon or order and its gate pulses. -/
  | lineStart (n : Fin 4) (low : BitVec 4)
  /-- TABLE_DATA_WRITE (R77): A write of xxx_TBL_DATA writes the table entry at the pointer and advances INDEX. -/
  | tableDataWrite (w : Writer) (addr : BitVec 26) (data : Word)
  /-- TABLE_DATA_READ (R78): A read of xxx_TBL_DATA returns the entry at the pointer and advances INDEX. -/
  | tableDataRead (w : Writer) (addr : BitVec 26)
  /-- UNIF_ADDRESS_WRITE (R108): A write of a map address shadow clears VALID and abandons a check in progress. -/
  | unifAddressWrite (w : Writer) (addr : BitVec 26) (data : Word)
  /-- UNIF_CHECK_BASE (R108): Writing UNIF_CHECK.BASE starts a check of the base map container. -/
  | unifCheckBase (w : Writer) (addr : BitVec 26)
  /-- UNIF_CHECK_FIELD (R108): Writing UNIF_CHECK.FIELD starts a check of the field map container. -/
  | unifCheckField (w : Writer) (addr : BitVec 26)
  /-- UNIF_CHECK_COMPLETE (R108): A map check ends, recording its cause and setting VALID for cause 0. -/
  | unifCheckComplete (n : Fin 4) (field : Bool)
  /-- BASE_LOCK (R112): Writing UNIF_BASE_LOCK.LOCK locks the base map banks against writes and starts hashing. -/
  | baseLock (w : Writer) (addr : BitVec 26)
  /-- BASE_MAP_HASH_DONE (R113): The Purser finishes the SHA-256 of a locked base map and sets the lock STATE. -/
  | baseMapHashDone (n : Fin 4)
  /-- WEAR_ROW_START (R121): A stripe row's first pixel reaches WEAR and the row is sampled or skipped. -/
  | wearRowStart (n : Fin 4) (row : Nat) (met : Bool)
  /-- WEAR_LEDGER_READ_DONE (R120): A ledger row read by the stage's DMA channel completes. -/
  | wearLedgerReadDone (n : Fin 4) (row : Nat) (gen : Bool) (data : List Byte) (reply : BusReply)
  /-- WEAR_LEDGER_WRITE_DONE (R120): A ledger row write-back completes at its flush read. -/
  | wearLedgerWriteDone (n : Fin 4) (row : Nat) (reply : BusReply)
  /-- WEAR_GEN_GROUP (R125): The generation period elapses and the next wear map group is regenerated. -/
  | wearGenGroup (n : Fin 4)
  /-- EDDY_INTERNAL_JOB_DONE (R295): An engine finishes a WEAR generator compression job. -/
  | eddyInternalJobDone (e : Fin 4) (port : HoldPort)
  /-- ODRV_PANEL_TEMP_WRITE (R133): A write of ODRV_PANEL_TEMP is accepted and restarts the temperature timer. -/
  | odrvPanelTempWrite (w : Writer) (addr : BitVec 26) (data : BitVec 16)
  /-- TEMPERATURE_TIMER_EXPIRY (R133): The ODRV temperature timer expires and the last value is kept as stale; `met`: a temperature came in
  that very clock. -/
  | temperatureTimerExpiry (n : Fin 4) (met : Bool)
  /-- TG_ENABLE (R149): Writing TGn_CTRL.EN = 1 on an idle output starts it and its lanes' training. -/
  | tgEnable (w : Writer) (n : Fin 4)
  /-- TG_DISABLE (R150): Writing TGn_CTRL.EN = 0 makes the output finish its frame and stop. -/
  | tgDisable (w : Writer) (n : Fin 4)
  /-- TG_STOPPED (R150): The last line of a stopping output ends and it becomes idle. -/
  | tgStopped (n : Fin 4)
  /-- SYNC_IN_EDGE (R151): A qualified edge on a SYNC_IN pin is judged as a reference edge and captured. -/
  | syncInEdge (pin : Fin 4) (rising : Bool) (t : Int) (sub : BitVec 35)
  /-- SYNC_WINDOW_CLOSE (R152): A reference window closes without an accepted edge, counting a missed edge. -/
  | syncWindowClose (n : Fin 4) (t : Int) (met : Bool)
  /-- TE_EDGE (R159): A qualified TE edge schedules the next frame edge or is counted as early. -/
  | teEdge (n : Fin 4) (falling : Bool) (t : Int)
  /-- TE_TIMEOUT (R159): No TE edge arrives within the timeout and the frame starts at the timeout. -/
  | teTimeout (n : Fin 4) (met : Bool) (low : BitVec 4)
  /-- CHAIN_EPOCH (R157): A chain-time epoch of the output falls and is treated as a reference edge. -/
  | chainEpoch (n : Fin 4) (t : Int)
  /-- RGN_PUSH (R179): Writing SCNn_RGN_CMD.PUSH queues a region update after checks. -/
  | rgnPush (w : Writer) (n : Fin 4) (flush : Bool)
  /-- RGN_FLUSH (R182): Writing SCNn_RGN_CMD.FLUSH discards queued regions whose copy has not begun. -/
  | rgnFlush (w : Writer) (n : Fin 4)
  /-- REGION_SEED_DONE (R180): The copy of the current slot into the back slot ends and SYNCED is set. -/
  | regionSeedDone (n : Fin 4) (port : HoldPort)
  /-- REGION_COPY_DONE (R181): A region copy from staging completes and COPIED_TAG advances. -/
  | regionCopyDone (n : Fin 4) (port : HoldPort)
  /-- REGION_MERGE_DONE (R182): A landed batch's merge into the new back slot ends. -/
  | regionMergeDone (n : Fin 4) (port : HoldPort)
  /-- PFAIL_N_FALL (R183): PFAIL_N goes low and its 100 ns qualification starts. -/
  | pfailNFall
  /-- PFAIL_RECOGNISED (R183): PFAIL_N has stayed low 100 ns; Landings stop and the discharge sequence starts. -/
  | pfailRecognised
  /-- PFAIL_N_RISE (R185): PFAIL_N returns high, ending a glitch or allowing outputs to be restarted. -/
  | pfailNRise
  /-- DISCHARGE_CUT (R184): The line under way ends and gate outputs take the discharge pattern with DCHGn_N asserted. -/
  | dischargeCut (n : Fin 4)
  /-- DISCHARGE_HOLD_EXPIRY (R184): HOLD_US elapses; gates go off and lanes go to electrical idle. -/
  | dischargeHoldExpiry (n : Fin 4)
  /-- DISCHARGE_COMPLETE (R184): The discharge sequence completes 10 µs after its hold and the output stops. -/
  | dischargeComplete (n : Fin 4)
  /-- TRAINING_SEQUENCE_END (R201): Stage B of a lane's training sequence ends and the lane enters LISTEN. -/
  | trainingSequenceEnd (lane : Fin 96)
  /-- SIDEBAND_POLL (R207): The poll interval of a lane elapses and the part sends POLL on the sideband. -/
  | sidebandPoll (lane : Fin 96) (low : BitVec 4)
  /-- SIDEBAND_REPLY (R206): A driver's STATUS or HIST frame is received and its counts and state are taken. -/
  | sidebandReply (group : Fin 4) (frame : List Byte) (low : BitVec 4)
  /-- REPLY_TIMEOUT (R206): No reply starts within 20 µs of a sideband frame, counting an unanswered poll. -/
  | replyTimeout (group : Fin 4) (met : Bool) (low : BitVec 4)
  /-- SIDEBAND_REPEAT (R206): 50 µs after a collision the abandoned sideband frame is sent again. -/
  | sidebandRepeat (group : Fin 4) (low : BitVec 4)
  /-- LISTEN_TIMEOUT (R203): A listen window of 20 ms ends without a good STATUS and the lane becomes ABSENT. -/
  | listenTimeout (lane : Fin 96) (met : Bool)
  /-- RETRY_START (R203): The back-off of an ABSENT lane elapses and a retry training sequence begins. -/
  | retryStart (lane : Fin 96)
  /-- RETRAIN (R201): Writing PLNn_CTRL.RETRAIN starts a training sequence and restarts the back-off. -/
  | retrain (w : Writer) (lane : Fin 96)
  /-- TX_OFF (R226): Writing PLNn_CTRL.TX_OFF puts the lane in electrical idle and aborts its calibration. -/
  | txOff (w : Writer) (lane : Fin 96) (off : Bool)
  /-- CAL_REQUEST (R220): Writing PLNn_CAL_CMD.REQUEST makes the lane due for calibration. -/
  | calRequest (w : Writer) (lane : Fin 96)
  /-- CAL_MEASURE (R227): Writing PLNn_CAL_CMD.MEASURE takes one histogram at the coefficients in force. -/
  | calMeasure (w : Writer) (lane : Fin 96) (low : BitVec 4)
  /-- CAL_TRIAL_WINDOW_END (R219): A trial window ends and the best coefficients are restored before HIST_READ. -/
  | calTrialWindowEnd (lane : Fin 96) (low : BitVec 4)
  /-- CAL_HISTOGRAM_RECEIVED (R218): A calibration histogram arrives, is checked and judged, and the next trial or the end follows. -/
  | calHistogramReceived (lane : Fin 96) (low : BitVec 4)
  /-- DENSITY_SPAN_END (R224): A 2^16-symbol span ends and adaptation freezes or resumes by its density. -/
  | densitySpanEnd (t : SpanOf) (low : BitVec 4)
  /-- FFE_FORCE (R225): A write of PLNn_FFE_FORCE forces or releases the lane's transmit taps. -/
  | ffeForce (w : Writer) (lane : Fin 96) (force : Bool) (cm1 c1 c2 : BitVec 8)
  /-- CHAIN_RX_FORCE (R229): A write of CHNp_RXk_FORCE forces or releases a chain slice's equalizer. -/
  | chainRxForce (w : Writer) (p : Fin 3) (k : Fin 5) (force : Bool) (eq : BitVec 28)
  /-- CTLE_INTERVAL (R228): Each 2^20 idle symbols the chain receiver compares HF and LF and steps its CTLE peaking. -/
  | ctleInterval (p : Fin 3) (k : Fin 5) (hf lf : Nat)
  /-- DFE_STEP (R228): A DFE accumulator reaches ±1,024 and its tap steps. -/
  | dfeStep (p : Fin 3) (k : Fin 5) (symbols : List (Option Bool × Fin 4))
  /-- CHAIN_STATS_STARVED (R229): Fewer than 2^16 idle symbols arrive in 100 ms and the CTLE holds with 0x524. -/
  | chainStatsStarved (p : Fin 3) (k : Fin 5) (met : Bool)
  /-- EYE_SCAN (R230): Every 2^24 idle symbols the auxiliary slicer measures the chain eye. -/
  | eyeScan (p : Fin 3) (k : Fin 5) (heights : List (BitVec 8)) (widths : List (BitVec 16))
  /-- HOLD_ACCESS (R240): An access is presented at a bank gate and is judged, arbitrated and performed. -/
  | holdAccess (a : HoldAccess) (arb : Arbitration)
  /-- HOLD_BUSY_N_RELEASE (R237): 40 ns after the last collision HOLD_BUSY_N is released. -/
  | holdBusyNRelease
  /-- FERRY_START (R241): A write of HOLD_FERRYn.TARGET starts a ferry of the bank, or is refused. -/
  | ferryStart (w : Writer) (bank : Fin 256) (target : BitVec 8)
  /-- FERRY_DRAINED (R242): The last access accepted before a ferry answers and ownership passes to the target. -/
  | ferryDrained (bank : Fin 256)
  /-- FERRY_DRAIN_LIMIT (R242): 2 µs after the write, outstanding accesses are cut off and the ferry is forced to complete. -/
  | ferryDrainLimit (bank : Fin 256) (met : Bool)
  /-- HOLD_GROUP_READY (R244): A Hold group becomes ready during Thaw, kept or cleared. -/
  | holdGroupReady (group : Fin 16)
  /-- MARCH_REQUEST (R247): HOLD_MARCH_CTRL.OP = 1 starts a requested destructive or preserving march test, or is refused. -/
  | marchRequest (w : Writer) (preserving variant14 checker : Bool)
  /-- MARCH_ABANDON (R251): HOLD_MARCH_CTRL.OP = 2 abandons a requested test after its current window or element. -/
  | marchAbandon (w : Writer) (preserving variant14 checker : Bool) (fails : List MarchFail)
  /-- MARCH_BACKGROUND_WINDOW (R250): The background interval elapses and a preserving test runs on the next window. -/
  | marchBackgroundWindow
  /-- MARCH_HOLD_LIMIT (R248): A held access has waited 1,000 ns before restore, so the engine abandons the window. -/
  | marchHoldLimit (met : Bool)
  /-- MARCH_TEST_END (R251): A march test finishes and reports its faults. -/
  | marchTestEnd (fails : List MarchFail)
  /-- REPAIR_ROW (R253): HOLD_REPAIR_CMD.OP = 1 starts mapping a relief row into a bank. -/
  | repairRow (w : Writer) (bank : Fin 256) (row : Fin 1024)
  /-- REPAIR_BANK (R254): HOLD_REPAIR_CMD.OP = 2 starts mirroring a bank into a relief bank. -/
  | repairBank (w : Writer) (bank : Fin 256) (row : Fin 1024)
  /-- REPAIR_COPY_DONE (R254): A repair copy completes, the decode switches and a repair record is stored. -/
  | repairCopyDone
  /-- DMA_START (R259): DMAn_CTRL.START on an IDLE channel fetches the first descriptor. -/
  | dmaStart (w : Writer) (ch : Fin 32) (data : Word)
  /-- DMA_ABORT (R273): DMAn_CTRL.ABORT stops a running or halted chain after draining issued reads. -/
  | dmaAbort (w : Writer) (ch : Fin 32) (data : Word)
  /-- DMA_RESUME (R275): DMAn_CTRL.RESUME returns a HALTED channel to RUNNING at its residue. -/
  | dmaResume (w : Writer) (ch : Fin 32) (data : Word)
  /-- DESCRIPTOR_FETCHED (R261): A descriptor arrives and its start checks are run before any byte moves. -/
  | descriptorFetched (ch : Fin 32) (reply : BusReply) (data : List Byte) (port : HoldPort)
  /-- DMA_READ_COMPLETION (R265): A read completion returns to a channel and its data is written on. -/
  | dmaReadCompletion (ch : Fin 32) (idx : Nat) (reply : BusReply) (data : List Byte) (port : HoldPort)
  /-- DMA_HOLD_RESPONSE (R268): A Hold write response reaches a channel, completing data or status writes. -/
  | dmaHoldResponse (ch : Fin 32) (idx : Nat) (port : HoldPort)
  /-- FLUSH_READ_COMPLETE (R268): A flush read completes and the descriptor or half point is complete. -/
  | flushReadComplete (ch : Fin 32) (reply : BusReply)
  /-- COMPLETION_TIMEOUT (R274): A host read's completion timeout expires and the channel halts with 0x312. -/
  | completionTimeout (ch : Fin 32) (idx : Nat) (met : Bool)
  /-- RATE_WINDOW (R267): A 1 µs window begins and each rate-limited bucket gains tokens. -/
  | rateWindow
  /-- EDDY_START (R281): EDDYn_CMD START samples the configuration and runs a job. -/
  | eddyStart (w : Writer) (e : Fin 4)
  /-- EDDY_RESUME (R293): EDDYn_CMD RESUME continues a job stopped in OUT_FULL with new output space. -/
  | eddyResume (w : Writer) (e : Fin 4)
  /-- EDDY_ABORT (R297): EDDYn_CMD ABORT ends a running or stopped job with ERR 0x6. -/
  | eddyAbort (w : Writer) (e : Fin 4)
  /-- CTX_SAVE (R294): EDDYn_CMD CTX_SAVE writes the engine context to CTX_ADDR. -/
  | ctxSave (w : Writer) (e : Fin 4)
  /-- CTX_RESTORE (R294): EDDYn_CMD CTX_RESTORE reads and checks a context and installs it. -/
  | ctxRestore (w : Writer) (e : Fin 4)
  /-- EDDY_JOB_COMPLETE (R281): A job finishes and the engine returns to IDLE. -/
  | eddyJobComplete (e : Fin 4) (port : HoldPort)
  /-- EDDY_OUTPUT_EXHAUSTED (R292): The next code word does not fit and the engine stops in OUT_FULL. -/
  | eddyOutputExhausted (e : Fin 4) (port : HoldPort)
  /-- EDDY_JOB_ERROR (R297): A job ends in ERROR on a fault, corrupt code or length mismatch. -/
  | eddyJobError (e : Fin 4) (cut : Option (BitVec 30)) (port : HoldPort)
  /-- EDDY_CTX_COMPLETE (R294): A context save or restore ends. -/
  | eddyCtxComplete (e : Fin 4) (cut : Option (BitVec 30)) (port : HoldPort)
  /-- LINK_FLIT_DUE (R303): At least every 1 µs an enabled chain port sends a LINK flit. -/
  | linkFlitDue (p : Fin 3)
  /-- TIME_FLIT_DUE (R304): Every 16 rounds an UP port sends a TIME flit with its stamps. -/
  | timeFlitDue (p : Fin 3)
  /-- SHORT_FLIT_RECEIVED (R308): A short flit is received whole, checked and consumed or forwarded. -/
  | shortFlitReceived (p : Fin 3) (marks : List (Option (BitVec 8))) (skew : Nat) (flit : List Byte) (sub : BitVec 35)
  /-- PIXEL_GROUP_RECEIVED (R302): A round's pixel group is corrected and its five pixel flits forwarded or consumed. -/
  | pixelGroupReceived (p : Fin 3) (lanes : List (List (BitVec 10)))
  /-- MARKER_LOSS_TIMEOUT (R303): A lane shows no valid marker for 1 µs and the port goes DOWN. -/
  | markerLossTimeout (p : Fin 3) (met : Bool)
  /-- LINK_FLIT_TIMEOUT (R303): No good LINK flit arrives for 4 µs and the port goes DOWN. -/
  | linkFlitTimeout (p : Fin 3) (met : Bool)
  /-- BOARD_START (R309): Writing CHN_BOARD.START makes the unit root and starts Boarding. -/
  | boardStart (w : Writer) (timeoutMs : BitVec 16)
  /-- BOARD_TIMEOUT (R310): Boarding is not finished within TIMEOUT_MS and ends with 0x541. -/
  | boardTimeout (met : Bool)
  /-- RING_RESTORE (R312): Writing CHN_RING.RESTORE sends RESTORE to return to closed-ring routes. -/
  | ringRestore (w : Writer)
  /-- DATA_VIEW_LAPSE (R313): An address's data view lapses after 1 s without flits. -/
  | dataViewLapse (a : BitVec 16) (met : Bool)
  /-- RA_READ (R316): CHN_RA_CMD OP 1 sends a remote Hold read after rights checks. -/
  | raRead (w : Writer)
  /-- RA_WRITE (R316): CHN_RA_CMD OP 2 sends a remote Hold write after rights checks. -/
  | raWrite (w : Writer)
  /-- RA_TIMEOUT (R317): No HOLD_RSP arrives within CHN_RA_TIMEOUT and the command ends with 0x546. -/
  | raTimeout (met : Bool)
  /-- SENSOR_TX (R318): Writing CHN_SENSOR_TX sends a SENSOR flit. -/
  | sensorTx (w : Writer) (temp : BitVec 16) (sensor : BitVec 8)
  /-- CHAIN_SLICE_SWAP (R322): At a marker boundary the chain relief slice replaces a lane. -/
  | chainSliceSwap (p : Fin 3) (k : Fin 4)
  /-- TIME_TICK (R325): Each 4 ns tick adds TIME_INCR and slew to time and opens or closes windows. -/
  | timeTick
  /-- TIME_BOUNDARY (R328): At the time boundary a pending step or jump is applied. -/
  | timeBoundary
  /-- TIME_INCR_WRITE (R326): A write of TIME_INCR_HI applies a new clamped increment. -/
  | timeIncrWrite (w : Writer) (data : Word)
  /-- TIME_SLEW_WRITE (R327): A write of TIME_SLEW replaces the amount remaining to slew. -/
  | timeSlewWrite (w : Writer) (data : Word)
  /-- TIME_STEP_ARM (R329): A write of TIME_STEP_HI arms a step for the next time boundary. -/
  | timeStepArm (w : Writer) (data : Word)
  /-- DISCIPLINE_INTERVAL_END (R333): A discipline interval ends and the averaged offset is slewed or jumped. -/
  | disciplineIntervalEnd
  /-- INCR_CORRECTION (R333): Once per second the part corrects TIME_INCR by the offset trend. -/
  | incrCorrection
  /-- PTM_DIALOG (R333): PTM_PERIOD_MS elapses and a PTM dialog starts. -/
  | ptmDialog
  /-- PTM_DIALOG_COMPLETE (R333): A PTM dialog ends with an offset sample or a failure. -/
  | ptmDialogComplete (r : Option (BitVec 96 × BitVec 96 × BitVec 64 × Word))
  /-- LTC_IN_WORD (R346): A valid LTC_IN word is decoded and captured. -/
  | ltcInWord (word : BitVec 80) (rate : Fin 6) (sub : BitVec 35)
  /-- LTC_IN_WORD_MISSING (R346): An expected LTC_IN word is missing or invalid. -/
  | ltcInWordMissing (met : Bool)
  /-- LTC_WORD_START (R344): An LTC_OUT word begins at its computed bit-0 time. -/
  | ltcWordStart (k : Fin 2)
  /-- LTC_JAM (R346): Writing TIME_LTCOk_CFG.JAM sets BASE_NS and BASE_FRAMES from LTC_IN. -/
  | ltcJam (w : Writer) (k : Fin 2) (en : Bool) (rate : BitVec 4)
  /-- HOLDOVER_END (R337): The 2 s holdover after a reroute ends and the offset is applied. -/
  | holdoverEnd (met : Bool)
  /-- CAPTURE_LO_READ (R339): Reading TIME_CAPk_LO latches the rest of the capture entry. -/
  | captureLoRead (w : Writer) (k : Fin 5)
  /-- CAPTURE_META_READ (R339): Reading TIME_CAPk_META clears NEW unless a newer capture arrived. -/
  | captureMetaRead (w : Writer) (k : Fin 5)
  /-- PURSER_STAMP_READ (R340): The Purser's handler reads time 30 ns after an event arrives and logs a software stamp. -/
  | purserStampRead (sub : BitVec 35)
  /-- SWLOG_POP (R340): Writing TIME_SWLOG_POP removes the head software stamp. -/
  | swlogPop (w : Writer)
  /-- TXQ_POP (R341): Writing TIME_TXQ_POP removes the head transmit stamp. -/
  | txqPop (w : Writer)
  /-- WINDOW_ARM (R342): Writing TIME_WINk_CTRL.EN = 1 arms a time window, or is refused with 0x606. -/
  | windowArm (w : Writer) (k : Fin 4) (epoch : BitVec 16)
  /-- REFIN_LOSS (R347): REFIN shows no edge for 1 µs or strays out of range and counts as lost. -/
  | refinLoss (met : Bool)
  /-- REFIN_RESTORE (R347): REFIN has been in range for 100 ms and counts as restored. -/
  | refinRestore
  /-- LINK_TRAINED (R351): The host link completes training and enters L0. -/
  | linkTrained (rate width : Nat) (flit : Bool)
  /-- LINK_FAILURE (R373): The host link leaves L0 other than for a power state. -/
  | linkFailure
  /-- ASPM_L1_ENTRY (R362): With no TLP to send the part enters an enabled L1 substate. -/
  | aspmL1Entry
  /-- BAR2_ACCESS (R359): A host access through BAR2 is made on port B of the Hold and judged at the gate: `a` its first word's; a read
  asks for `len` bytes from the byte that the rotate names (R352), and `more` is what its following words come to their gates with. -/
  | bar2Access (f : Fin 32) (a : HoldAccess) (arb : Arbitration) (len : Fin 4097) (more : List Arbitration)
  /-- CONFIG_WRITE (R356): A configuration write changes a function's enables, VF Enable or MSI-X control. -/
  | configWrite (f : Fin 32) (c : ConfigChange)
  /-- MSIX_VECTOR_UNMASK (R383): Unmasking a vector sends a message held in the PBA. -/
  | msixVectorUnmask (v : Fin 2048)
  /-- FUNCTION_LEVEL_RESET (R363): An FLR of a function starts resetting it, thawing it and aborting its running channels. -/
  | functionLevelReset (f : Fin 32)
  /-- FLR_COMPLETE (R363): A Function Level Reset completes. -/
  | flrComplete (f : Fin 32)
  /-- MST_THAW (R370): A write of MST_THAW.ID thaws the named master or is refused. -/
  | mstThaw (w : Writer) (id : BitVec 8) (meets : Option Meeting)
  /-- CAUSE_ACK (R370): A write of ACK clears a master's latched cause unless a new violation meets it. -/
  | causeAck (w : Writer) (m : BitVec 8) (meets : Option Meeting)
  /-- PURSER_WATCHDOG (R375): The Purser's watchdog expires and the Purser restarts, aborting mailbox commands. -/
  | purserWatchdog
  /-- DOORBELL_RING (R377): Writing PURSk_DOORBELL.RING queues the slot's command. -/
  | doorbellRing (w : Writer) (k : Fin 16)
  /-- MAILBOX_TAKE_UP (R377): The Purser takes up the next queued mailbox slot. -/
  | mailboxTakeUp
  /-- GET_INFO (R380): Mailbox opcode 0x0001 returns firmware, stepping, status and serial. -/
  | getInfo
  /-- EVENT_TEST (R380): Mailbox opcode 0x0002 raises a chosen event source. -/
  | eventTest
  /-- UNKNOWN_OP (R379): A mailbox command with an unlisted opcode completes with UNKNOWN_OP. -/
  | unknownOp
  /-- CAL_READ (R406): Mailbox opcode 0x0010 reads a calibration record kind to host memory. -/
  | calRead (ok : Bool)
  /-- CAL_STORE (R406): Mailbox opcode 0x0011 stores a writable record kind from host memory. -/
  | calStore (data : Option (List Byte))
  /-- CAL_CLEAR (R406): Mailbox opcode 0x0012 blanks both copies of a record kind. -/
  | calClear
  /-- CAL_SET_DIGEST (R406): Mailbox opcode 0x0013 stores an output's base-map digest once. -/
  | calSetDigest
  /-- CAL_STATUS (R406): Mailbox opcode 0x0014 returns the sequence and copy of every record kind. -/
  | calStatus
  /-- OTP_FUSE (R406): Mailbox opcode 0x0015 fuses unfused customer fields in Test state. -/
  | otpFuse
  /-- RELIEF_SWAP (R419): Mailbox opcode 0x0020 commands a swap of a unit for a spare. -/
  | reliefSwap
  /-- MAILBOX_TIMEOUT (R378): A taken-up command exceeds PURS_MBOX_TIMEOUT and completes with TIMEOUT; `met`: it completed in that very
  clock. -/
  | mailboxTimeout (met : Bool)
  /-- EVT_SOFT_RAISE (R386): Writing EVT_SOFT.RAISE raises source 597. -/
  | evtSoftRaise (w : Writer)
  /-- MANIFEST_REQUEST (R387): Writing GLB_MANIFEST_REQ.GO requests a Manifest at a host address. -/
  | manifestRequest (w : Writer) (addr : BitVec 20)
  /-- MANIFEST_FLUSH_COMPLETE (R387): The Manifest's flush read completes, or its writes fail. -/
  | manifestFlushComplete (ok : Bool)
  /-- POWER_REQUEST_RUN (R391): GLB_POWER_CTRL.REQ = 0 requests Run, leaving Slack or starting Thaw. -/
  | powerRequestRun (w : Writer)
  /-- POWER_REQUEST_SLACK (R392): GLB_POWER_CTRL.REQ = 1 requests Slack, or Thaw into Slack from Winter. -/
  | powerRequestSlack (w : Writer)
  /-- POWER_REQUEST_WINTER (R393): GLB_POWER_CTRL.REQ = 2 starts Winter entry by stopping outputs. -/
  | powerRequestWinter (w : Writer)
  /-- POWER_REQUEST_INVALID (R391): REQ = 3 or a request during a transition is refused. -/
  | powerRequestInvalid (w : Writer) (req : Fin 4)
  /-- WINTER_QUIESCED (R393): All transfers, jobs and stores have ended and Winter entry continues to retention. -/
  | winterQuiesced
  /-- WINTER_ENTRY_TIMEOUT (R393): Winter entry is not quiesced within 100 ms and is abandoned; `met`: step 2 was reached in that very
  clock. -/
  | winterEntryTimeout (met : Bool)
  /-- THAW_SWITCHES_CLOSE (R395): 250 µs into Thaw the core, Purser and SerDes switches close and PLLs start. -/
  | thawSwitchesClose (lost : Bool)
  /-- THAW_PLLS_LOCKED (R395): Fabric, Hold, Purser and tick PLLs lock and the Purser resumes. -/
  | thawPllsLocked
  /-- THAW_COMPLETE (R395): Output PLLs lock, recorded outputs restart and the requested state is reached. -/
  | thawComplete
  /-- VDD_HOLD_LATE (R433): VDD_HOLD is not in range 250 µs into Thaw and Thaw waits for it. -/
  | vddHoldLate (met : Bool)
  /-- REFCLK_LOSS (R397): PE_REFCLK stops or strays and its PLLs hold their control values. -/
  | refclkLoss
  /-- REFCLK_RESTORE (R397): A lost reference is back in range for 100 ms and PLLs slew back to it. -/
  | refclkRestore
  /-- AON_CRYSTAL_STOP (R398): The AON crystal stops for 1 ms and the domain switches to its internal oscillator. -/
  | aonCrystalStop
  /-- PLL_LOSS_OF_LOCK (R397): A PLL loses lock. -/
  | pllLossOfLock (p : Pll)
  /-- PLL_LOCK_REGAINED (R410): A PLL that lost lock locks again. -/
  | pllLockRegained (p : Pll)
  /-- OUTPUT_PLL_RELOCK_TIMEOUT (R417): A running output's PLL has not relocked in 100 µs; the output idles and may restart on the relief PLL;
  `met`: it relocked in that very clock. -/
  | outputPllRelockTimeout (n : Fin 4) (met : Bool)
  /-- POWER_ON (R400): All supplies reach range from Off and cold start-up begins. -/
  | powerOn
  /-- STARTUP_MARCH_COMPLETE (R246): The start-up destructive march over 272 banks finishes. -/
  | startupMarchComplete (fails : List MarchFail)
  /-- STARTUP_COMPLETE (R400): Start-up finishes: store scanned, boot stream applied, GLB_STATE leaves Start-up and outputs start. -/
  | startupComplete (refclk refin otpError : Bool)
  /-- PERST_ASSERT (R399): PERST_N is asserted and the PCIe core and functions reset, or a WARM reset follows. -/
  | perstAssert
  /-- PERST_RELEASE (R399): PERST_N is released and the link trains from 20 ms later. -/
  | perstRelease
  /-- WARM_RESET (R399): Writing GLB_RESET.WARM discharges outputs and resets every block except the always-on domain. -/
  | warmReset (w : Writer)
  /-- THERMAL_OVERTEMP (R399): The junction has been at 135 °C for 1 ms and the THERMAL reset begins. -/
  | thermalOvertemp
  /-- THERMAL_COOLDOWN (R399): The junction falls below 115 °C after a THERMAL reset and a WARM start follows. -/
  | thermalCooldown
  /-- STATE_REQUEST (R401): A write of GLB_STATE_REQ changes GLB_STATE or is refused with 0x713. -/
  | stateRequest (w : Writer) (req : Fin 4)
  /-- RECORD_STORE_COMPLETE (R404): A calibration store finishes writing and reading back its copy and commits or faults. -/
  | recordStoreComplete (bad : List (Fin 58))
  /-- TRIM_EFFECTIVE (R408): 1 µs after a USER_TRIM commit the effective trims update. -/
  | trimEffective
  /-- SUPPLY_OUT_OF_RANGE (R432): A monitored supply lies outside its range for 10 µs. -/
  | supplyOutOfRange
  /-- SUPPLY_COLLAPSE (R432): VDD_CORE or VDD_AON falls below 90 % of its minimum; outputs float and the next return is a cold start. -/
  | supplyCollapse
  /-- AGING_MEASUREMENT (R413): Once per second the Purser measures every ring oscillator against its factory frequency. -/
  | agingMeasurement (reaches regions : List (BitVec 16))
  /-- SWAP_LOCK_TIMEOUT (R415): A swapped lane is not ACTIVE 20 ms after the switch moved and the swap fails. -/
  | swapLockTimeout (lane : Fin 96) (met : Bool)
  /-- THERMAL_THRESHOLD (R444): The junction temperature reading reaches a warning or critical threshold. -/
  | thermalThreshold (temp : BitVec 16)
  /-- SLACK_EXIT_DEADLINE (R177): 20 µs after a Slack exit request, fabric gating is lifted on every output whose next Landing point lies further away. -/
  | slackExitDeadline
  /-- CHAIN_SUB_ROUND (R305): An outgoing chain sub-round begins: its short slot sends the first available flit in priority order, and its share of the pixel group sends queued or transmit-stream pixel flits under credit. -/
  | chainSubRound (p : Fin 3) (sub : BitVec 35)
  /-- PPS_LOSS (R338): Under TIMEROLE SOURCE 3, missing PPS edges on SYNC_IN0 mark the source as failed, and the unit enters holdover with 0x602. -/
  | ppsLoss (met : Bool)
  /-- PURSER_RESTART_COMPLETE (R375): Within 5 ms of a watchdog restart the Purser is serving again, and it begins regathering any interrupted Manifest and taking up mailbox commands. -/
  | purserRestartComplete
deriving DecidableEq, Repr

end Sys2Proof
end

