-- ==== Sys2Proof/Machine/RegMap.lean ====
section
/-!
DEFINITION. Every register of the part (R421, R422, R425): its address, its fields, its access types and its reset word,
written out from the register tables of the chapters and of 20_register_map.md.

A register's key is its BAR0 byte offset. The registers of a pipeline stage belong to the stage and not to one reach
(R76, R425), so their key is `0x400_0000 + 0x1_0000 * output + offset in the reach block`, beyond the 64 MiB of BAR0.
-/

namespace Sys2Proof.Machine

/-! Registers of 02_structure_stream.md. -/

/-- SST_CMD. -/
def R.sstCmd : Nat := 0x60000
def F.sstCmdApplyHold : Field := ⟨R.sstCmd, 8, 8⟩
def F.sstCmdSlot : Field := ⟨R.sstCmd, 5, 4⟩
def F.sstCmdOp : Field := ⟨R.sstCmd, 3, 0⟩
/-- SST_STATUS. -/
def R.sstStatus : Nat := 0x60004
def F.sstStatusBusy : Field := ⟨R.sstStatus, 31, 31⟩
def F.sstStatusLastCode : Field := ⟨R.sstStatus, 27, 16⟩
def F.sstStatusKeyHashFused : Field := ⟨R.sstStatus, 9, 9⟩
def F.sstStatusSignRequired : Field := ⟨R.sstStatus, 8, 8⟩
def F.sstStatusLastSlot : Field := ⟨R.sstStatus, 5, 4⟩
def F.sstStatusLastOp : Field := ⟨R.sstStatus, 3, 0⟩
/-- SST_ACTIVE_SEQ. -/
def R.sstActiveSeq : Nat := 0x60008
def F.sstActiveSeqSeq : Field := ⟨R.sstActiveSeq, 31, 0⟩
/-- SST_PENDING. -/
def R.sstPending : Nat := 0x6000c
def F.sstPendingPending : Field := ⟨R.sstPending, 8, 8⟩
def F.sstPendingSlot : Field := ⟨R.sstPending, 5, 4⟩
def F.sstPendingOutputsLeft : Field := ⟨R.sstPending, 3, 0⟩
/-- SST_ACTIVE. -/
def R.sstActive : Nat := 0x60010
def F.sstActiveBoot : Field := ⟨R.sstActive, 8, 8⟩
def F.sstActiveNull : Field := ⟨R.sstActive, 4, 4⟩
def F.sstActiveSlot : Field := ⟨R.sstActive, 1, 0⟩
/-- SSTn_ADDR_LO. -/
def R.sstslotAddrLo (i : Nat) : Nat := 0x60100 + 0x20 * i
def F.sstslotAddrLoAddr (i : Nat) : Field := ⟨R.sstslotAddrLo i, 31, 5⟩
/-- SSTn_ADDR_HI. -/
def R.sstslotAddrHi (i : Nat) : Nat := 0x60104 + 0x20 * i
def F.sstslotAddrHiAddr (i : Nat) : Field := ⟨R.sstslotAddrHi i, 31, 0⟩
/-- SSTn_LEN. -/
def R.sstslotLen (i : Nat) : Nat := 0x60108 + 0x20 * i
def F.sstslotLenBytes (i : Nat) : Field := ⟨R.sstslotLen i, 18, 0⟩
/-- SSTn_STATE. -/
def R.sstslotState (i : Nat) : Nat := 0x6010c + 0x20 * i
def F.sstslotStateCode (i : Nat) : Field := ⟨R.sstslotState i, 27, 16⟩
def F.sstslotStateState (i : Nat) : Field := ⟨R.sstslotState i, 2, 0⟩
/-- SSTn_SEQ. -/
def R.sstslotSeq (i : Nat) : Nat := 0x60110 + 0x20 * i
def F.sstslotSeqSeq (i : Nat) : Field := ⟨R.sstslotSeq i, 31, 0⟩
/-- SSTn_ERR_OFFSET. -/
def R.sstslotErrOffset (i : Nat) : Nat := 0x60114 + 0x20 * i
def F.sstslotErrOffsetWord (i : Nat) : Field := ⟨R.sstslotErrOffset i, 15, 0⟩
/-- SSTn_TARGET. -/
def R.sstslotTarget (i : Nat) : Nat := 0x60118 + 0x20 * i
def F.sstslotTargetMask (i : Nat) : Field := ⟨R.sstslotTarget i, 3, 0⟩

/-! Registers of 03_ingest_and_frame_slots.md. -/

/-- UNPK_FORMAT. -/
def R.unpkFormat (i : Nat) : Nat := 0x4000100 + 0x10000 * i
def F.unpkFormatRecon (i : Nat) : Field := ⟨R.unpkFormat i, 16, 16⟩
def F.unpkFormatSite (i : Nat) : Field := ⟨R.unpkFormat i, 13, 12⟩
def F.unpkFormatDepth (i : Nat) : Field := ⟨R.unpkFormat i, 9, 8⟩
def F.unpkFormatContainer (i : Nat) : Field := ⟨R.unpkFormat i, 6, 4⟩
def F.unpkFormatSampling (i : Nat) : Field := ⟨R.unpkFormat i, 3, 2⟩
def F.unpkFormatLayout (i : Nat) : Field := ⟨R.unpkFormat i, 1, 0⟩
/-- UNPK_SRC_SIZE. -/
def R.unpkSrcSize (i : Nat) : Nat := 0x4000104 + 0x10000 * i
def F.unpkSrcSizeSrcHeight (i : Nat) : Field := ⟨R.unpkSrcSize i, 31, 16⟩
def F.unpkSrcSizeSrcWidth (i : Nat) : Field := ⟨R.unpkSrcSize i, 15, 0⟩
/-- UNPK_EXPECT. -/
def R.unpkExpect (i : Nat) : Nat := 0x4000108 + 0x10000 * i
def F.unpkExpectAny (i : Nat) : Field := ⟨R.unpkExpect i, 8, 8⟩
def F.unpkExpectRange (i : Nat) : Field := ⟨R.unpkExpect i, 4, 4⟩
def F.unpkExpectColourimetry (i : Nat) : Field := ⟨R.unpkExpect i, 2, 0⟩
/-- UNPK_TAG_MISMATCHES. -/
def R.unpkTagMismatches (i : Nat) : Nat := 0x400010c + 0x10000 * i
def F.unpkTagMismatchesCount (i : Nat) : Field := ⟨R.unpkTagMismatches i, 31, 0⟩
/-- SCNn_SLOT_CFG. -/
def R.scnSlotCfg (i : Nat) : Nat := 0x1401f0 + 0x10000 * i
def F.scnSlotCfgChaseMargin (i : Nat) : Field := ⟨R.scnSlotCfg i, 25, 16⟩
def F.scnSlotCfgChaseEn (i : Nat) : Field := ⟨R.scnSlotCfg i, 8, 8⟩
def F.scnSlotCfgSlotCount (i : Nat) : Field := ⟨R.scnSlotCfg i, 2, 0⟩
/-- SCNn_SRC_STATUS. -/
def R.scnSrcStatus (i : Nat) : Nat := 0x1401f4 + 0x10000 * i
def F.scnSrcStatusCause (i : Nat) : Field := ⟨R.scnSrcStatus i, 7, 4⟩
def F.scnSrcStatusCurSlot (i : Nat) : Field := ⟨R.scnSrcStatus i, 1, 0⟩
/-- SCNn_CHASE_SLIPS. -/
def R.scnChaseSlips (i : Nat) : Nat := 0x1401f8 + 0x10000 * i
def F.scnChaseSlipsCount (i : Nat) : Field := ⟨R.scnChaseSlips i, 31, 0⟩
/-- SCNn_SLOTk_BASE0. -/
def R.scnSlotBase0 (i : Nat) (j : Nat) : Nat := 0x140200 + 0x10000 * i + 0x40 * j
def F.scnSlotBase0Addr (i : Nat) (j : Nat) : Field := ⟨R.scnSlotBase0 i j, 29, 5⟩
/-- SCNn_SLOTk_BASE1. -/
def R.scnSlotBase1 (i : Nat) (j : Nat) : Nat := 0x140204 + 0x10000 * i + 0x40 * j
def F.scnSlotBase1Addr (i : Nat) (j : Nat) : Field := ⟨R.scnSlotBase1 i j, 29, 5⟩
/-- SCNn_SLOTk_BASE2. -/
def R.scnSlotBase2 (i : Nat) (j : Nat) : Nat := 0x140208 + 0x10000 * i + 0x40 * j
def F.scnSlotBase2Addr (i : Nat) (j : Nat) : Field := ⟨R.scnSlotBase2 i j, 29, 5⟩
/-- SCNn_SLOTk_STRIDE0. -/
def R.scnSlotStride0 (i : Nat) (j : Nat) : Nat := 0x14020c + 0x10000 * i + 0x40 * j
def F.scnSlotStride0Bytes (i : Nat) (j : Nat) : Field := ⟨R.scnSlotStride0 i j, 19, 5⟩
/-- SCNn_SLOTk_STRIDE12. -/
def R.scnSlotStride12 (i : Nat) (j : Nat) : Nat := 0x140210 + 0x10000 * i + 0x40 * j
def F.scnSlotStride12Bytes (i : Nat) (j : Nat) : Field := ⟨R.scnSlotStride12 i j, 19, 5⟩
/-- SCNn_SLOTk_TAG. -/
def R.scnSlotTag (i : Nat) (j : Nat) : Nat := 0x140214 + 0x10000 * i + 0x40 * j
def F.scnSlotTagRange (i : Nat) (j : Nat) : Field := ⟨R.scnSlotTag i j, 4, 4⟩
def F.scnSlotTagColourimetry (i : Nat) (j : Nat) : Field := ⟨R.scnSlotTag i j, 2, 0⟩
/-- SCNn_SLOTk_CTRL. -/
def R.scnSlotCtrl (i : Nat) (j : Nat) : Nat := 0x140218 + 0x10000 * i + 0x40 * j
def F.scnSlotCtrlCurrent (i : Nat) (j : Nat) : Field := ⟨R.scnSlotCtrl i j, 8, 8⟩
def F.scnSlotCtrlWithdraw (i : Nat) (j : Nat) : Field := ⟨R.scnSlotCtrl i j, 1, 1⟩
def F.scnSlotCtrlReady (i : Nat) (j : Nat) : Field := ⟨R.scnSlotCtrl i j, 0, 0⟩

/-! Registers of 04_colour_scaling_dual_cell.md. -/

/-- SCAL_CTRL. -/
def R.scalCtrl (i : Nat) : Nat := 0x4000200 + 0x10000 * i
def F.scalCtrlCoefBank (i : Nat) : Field := ⟨R.scalCtrl i, 8, 8⟩
def F.scalCtrlBypass (i : Nat) : Field := ⟨R.scalCtrl i, 0, 0⟩
/-- SCAL_DST_POS. -/
def R.scalDstPos (i : Nat) : Nat := 0x4000204 + 0x10000 * i
def F.scalDstPosDstY (i : Nat) : Field := ⟨R.scalDstPos i, 31, 16⟩
def F.scalDstPosDstX (i : Nat) : Field := ⟨R.scalDstPos i, 15, 0⟩
/-- SCAL_DST_SIZE. -/
def R.scalDstSize (i : Nat) : Nat := 0x4000208 + 0x10000 * i
def F.scalDstSizeDstH (i : Nat) : Field := ⟨R.scalDstSize i, 31, 16⟩
def F.scalDstSizeDstW (i : Nat) : Field := ⟨R.scalDstSize i, 15, 0⟩
/-- SCAL_H_STEP. -/
def R.scalHStep (i : Nat) : Nat := 0x400020c + 0x10000 * i
def F.scalHStepStep (i : Nat) : Field := ⟨R.scalHStep i, 19, 0⟩
/-- SCAL_V_STEP. -/
def R.scalVStep (i : Nat) : Nat := 0x4000210 + 0x10000 * i
def F.scalVStepStep (i : Nat) : Field := ⟨R.scalVStep i, 19, 0⟩
/-- SCAL_H_INIT. -/
def R.scalHInit (i : Nat) : Nat := 0x4000214 + 0x10000 * i
def F.scalHInitInit (i : Nat) : Field := ⟨R.scalHInit i, 31, 0⟩
/-- SCAL_V_INIT. -/
def R.scalVInit (i : Nat) : Nat := 0x4000218 + 0x10000 * i
def F.scalVInitInit (i : Nat) : Field := ⟨R.scalVInit i, 31, 0⟩
/-- SCAL_FILL0. -/
def R.scalFill0 (i : Nat) : Nat := 0x400021c + 0x10000 * i
def F.scalFill0Value (i : Nat) : Field := ⟨R.scalFill0 i, 19, 0⟩
/-- SCAL_FILL1. -/
def R.scalFill1 (i : Nat) : Nat := 0x4000220 + 0x10000 * i
def F.scalFill1Value (i : Nat) : Field := ⟨R.scalFill1 i, 19, 0⟩
/-- SCAL_FILL2. -/
def R.scalFill2 (i : Nat) : Nat := 0x4000224 + 0x10000 * i
def F.scalFill2Value (i : Nat) : Field := ⟨R.scalFill2 i, 19, 0⟩
/-- SCAL_TBL_ADDR. -/
def R.scalTblAddr (i : Nat) : Nat := 0x4000228 + 0x10000 * i
def F.scalTblAddrTable (i : Nat) : Field := ⟨R.scalTblAddr i, 23, 20⟩
def F.scalTblAddrBank (i : Nat) : Field := ⟨R.scalTblAddr i, 19, 19⟩
def F.scalTblAddrIndex (i : Nat) : Field := ⟨R.scalTblAddr i, 17, 0⟩
/-- SCAL_TBL_DATA. -/
def R.scalTblData (i : Nat) : Nat := 0x400022c + 0x10000 * i
def F.scalTblDataCoef (i : Nat) : Field := ⟨R.scalTblData i, 11, 0⟩
/-- SCAL_STATUS. -/
def R.scalStatus (i : Nat) : Nat := 0x4000230 + 0x10000 * i
def F.scalStatusClamped (i : Nat) : Field := ⟨R.scalStatus i, 1, 1⟩
def F.scalStatusActiveBank (i : Nat) : Field := ⟨R.scalStatus i, 0, 0⟩
/-- COLR_CTRL. -/
def R.colrCtrl (i : Nat) : Nat := 0x4000300 + 0x10000 * i
def F.colrCtrlTblBank (i : Nat) : Field := ⟨R.colrCtrl i, 16, 16⟩
def F.colrCtrlPostSpan (i : Nat) : Field := ⟨R.colrCtrl i, 13, 12⟩
def F.colrCtrlLut3Span (i : Nat) : Field := ⟨R.colrCtrl i, 11, 10⟩
def F.colrCtrlPreSpan (i : Nat) : Field := ⟨R.colrCtrl i, 9, 8⟩
def F.colrCtrlPostEn (i : Nat) : Field := ⟨R.colrCtrl i, 3, 3⟩
def F.colrCtrlLut3En (i : Nat) : Field := ⟨R.colrCtrl i, 2, 2⟩
def F.colrCtrlPreEn (i : Nat) : Field := ⟨R.colrCtrl i, 1, 1⟩
def F.colrCtrlMatEn (i : Nat) : Field := ⟨R.colrCtrl i, 0, 0⟩
/-- COLR_Mij. -/
def R.colrM (i : Nat) (j : Nat) : Nat := 0x4000304 + 0x10000 * i + 0x4 * j
def F.colrMCoef (i : Nat) (j : Nat) : Field := ⟨R.colrM i j, 19, 0⟩
/-- COLR_PRE_OFFj. -/
def R.colrPreOff (i : Nat) (j : Nat) : Nat := 0x4000328 + 0x10000 * i + 0x4 * j
def F.colrPreOffOffset (i : Nat) (j : Nat) : Field := ⟨R.colrPreOff i j, 20, 0⟩
/-- COLR_POST_OFFi. -/
def R.colrPostOff (i : Nat) (j : Nat) : Nat := 0x4000334 + 0x10000 * i + 0x4 * j
def F.colrPostOffOffset (i : Nat) (j : Nat) : Field := ⟨R.colrPostOff i j, 20, 0⟩
/-- COLR_TBL_ADDR. -/
def R.colrTblAddr (i : Nat) : Nat := 0x4000340 + 0x10000 * i
def F.colrTblAddrTable (i : Nat) : Field := ⟨R.colrTblAddr i, 23, 20⟩
def F.colrTblAddrBank (i : Nat) : Field := ⟨R.colrTblAddr i, 19, 19⟩
def F.colrTblAddrIndex (i : Nat) : Field := ⟨R.colrTblAddr i, 17, 0⟩
/-- COLR_TBL_DATA. -/
def R.colrTblData (i : Nat) : Nat := 0x4000344 + 0x10000 * i
def F.colrTblDataValue (i : Nat) : Field := ⟨R.colrTblData i, 19, 0⟩
/-- COLR_STATUS. -/
def R.colrStatus (i : Nat) : Nat := 0x4000348 + 0x10000 * i
def F.colrStatusActiveBank (i : Nat) : Field := ⟨R.colrStatus i, 0, 0⟩
/-- DUAL_CTRL. -/
def R.dualCtrl (i : Nat) : Nat := 0x4000400 + 0x10000 * i
def F.dualCtrlBlutEn (i : Nat) : Field := ⟨R.dualCtrl i, 18, 18⟩
def F.dualCtrlFlutEn (i : Nat) : Field := ⟨R.dualCtrl i, 17, 17⟩
def F.dualCtrlTblBank (i : Nat) : Field := ⟨R.dualCtrl i, 16, 16⟩
def F.dualCtrlIter (i : Nat) : Field := ⟨R.dualCtrl i, 15, 14⟩
def F.dualCtrlPsfRy (i : Nat) : Field := ⟨R.dualCtrl i, 13, 11⟩
def F.dualCtrlPsfRx (i : Nat) : Field := ⟨R.dualCtrl i, 10, 8⟩
def F.dualCtrlMaxRy (i : Nat) : Field := ⟨R.dualCtrl i, 6, 4⟩
def F.dualCtrlMaxRx (i : Nat) : Field := ⟨R.dualCtrl i, 2, 0⟩
/-- DUAL_PSF_Hk. -/
def R.dualPsfH (i : Nat) (j : Nat) : Nat := 0x4000404 + 0x10000 * i + 0x4 * j
def F.dualPsfHTapOdd (i : Nat) (j : Nat) : Field := ⟨R.dualPsfH i j, 31, 16⟩
def F.dualPsfHTapEven (i : Nat) (j : Nat) : Field := ⟨R.dualPsfH i j, 15, 0⟩
/-- DUAL_PSF_Vk. -/
def R.dualPsfV (i : Nat) (j : Nat) : Nat := 0x4000414 + 0x10000 * i + 0x4 * j
def F.dualPsfVTapOdd (i : Nat) (j : Nat) : Field := ⟨R.dualPsfV i j, 31, 16⟩
def F.dualPsfVTapEven (i : Nat) (j : Nat) : Field := ⟨R.dualPsfV i j, 15, 0⟩
/-- DUAL_L_MIN. -/
def R.dualLMin (i : Nat) : Nat := 0x4000424 + 0x10000 * i
def F.dualLMinValue (i : Nat) : Field := ⟨R.dualLMin i, 19, 0⟩
/-- DUAL_FIELD_BASE. -/
def R.dualFieldBase (i : Nat) : Nat := 0x4000428 + 0x10000 * i
def F.dualFieldBaseAddr (i : Nat) : Field := ⟨R.dualFieldBase i, 29, 5⟩
/-- DUAL_FIELD_STRIDE. -/
def R.dualFieldStride (i : Nat) : Nat := 0x400042c + 0x10000 * i
def F.dualFieldStrideBytes (i : Nat) : Field := ⟨R.dualFieldStride i, 19, 5⟩
/-- DUAL_TBL_ADDR. -/
def R.dualTblAddr (i : Nat) : Nat := 0x4000430 + 0x10000 * i
def F.dualTblAddrTable (i : Nat) : Field := ⟨R.dualTblAddr i, 23, 20⟩
def F.dualTblAddrBank (i : Nat) : Field := ⟨R.dualTblAddr i, 19, 19⟩
def F.dualTblAddrIndex (i : Nat) : Field := ⟨R.dualTblAddr i, 17, 0⟩
/-- DUAL_TBL_DATA. -/
def R.dualTblData (i : Nat) : Nat := 0x4000434 + 0x10000 * i
def F.dualTblDataValue (i : Nat) : Field := ⟨R.dualTblData i, 19, 0⟩
/-- DUAL_STATUS. -/
def R.dualStatus (i : Nat) : Nat := 0x4000438 + 0x10000 * i
def F.dualStatusActiveBank (i : Nat) : Field := ⟨R.dualStatus i, 16, 16⟩
def F.dualStatusIterEff (i : Nat) : Field := ⟨R.dualStatus i, 15, 14⟩
def F.dualStatusPsfRyEff (i : Nat) : Field := ⟨R.dualStatus i, 13, 11⟩
def F.dualStatusMaxRyEff (i : Nat) : Field := ⟨R.dualStatus i, 10, 8⟩
def F.dualStatusVupEff (i : Nat) : Field := ⟨R.dualStatus i, 7, 7⟩
def F.dualStatusAheadRows (i : Nat) : Field := ⟨R.dualStatus i, 4, 0⟩
/-- DUAL_CLIPS. -/
def R.dualClips (i : Nat) : Nat := 0x400043c + 0x10000 * i
def F.dualClipsCount (i : Nat) : Field := ⟨R.dualClips i, 31, 0⟩

/-! Registers of 05_uniformity_and_wear.md. -/

/-- UNIF_CTRL. -/
def R.unifCtrl (i : Nat) : Nat := 0x4000500 + 0x10000 * i
def F.unifCtrlFieldEn (i : Nat) : Field := ⟨R.unifCtrl i, 1, 1⟩
def F.unifCtrlBaseEn (i : Nat) : Field := ⟨R.unifCtrl i, 0, 0⟩
/-- UNIF_BASE_ADDR. -/
def R.unifBaseAddr (i : Nat) : Nat := 0x4000504 + 0x10000 * i
def F.unifBaseAddrAddr (i : Nat) : Field := ⟨R.unifBaseAddr i, 29, 5⟩
/-- UNIF_FIELD_ADDR. -/
def R.unifFieldAddr (i : Nat) : Nat := 0x4000508 + 0x10000 * i
def F.unifFieldAddrAddr (i : Nat) : Field := ⟨R.unifFieldAddr i, 29, 5⟩
/-- UNIF_CHECK. -/
def R.unifCheck (i : Nat) : Nat := 0x400050c + 0x10000 * i
def F.unifCheckField (i : Nat) : Field := ⟨R.unifCheck i, 1, 1⟩
def F.unifCheckBase (i : Nat) : Field := ⟨R.unifCheck i, 0, 0⟩
/-- UNIF_BASE_STATUS. -/
def R.unifBaseStatus (i : Nat) : Nat := 0x4000510 + 0x10000 * i
def F.unifBaseStatusBusy (i : Nat) : Field := ⟨R.unifBaseStatus i, 31, 31⟩
def F.unifBaseStatusCause (i : Nat) : Field := ⟨R.unifBaseStatus i, 19, 16⟩
def F.unifBaseStatusValid (i : Nat) : Field := ⟨R.unifBaseStatus i, 8, 8⟩
def F.unifBaseStatusApplied (i : Nat) : Field := ⟨R.unifBaseStatus i, 0, 0⟩
/-- UNIF_FIELD_STATUS. -/
def R.unifFieldStatus (i : Nat) : Nat := 0x4000514 + 0x10000 * i
def F.unifFieldStatusBusy (i : Nat) : Field := ⟨R.unifFieldStatus i, 31, 31⟩
def F.unifFieldStatusCause (i : Nat) : Field := ⟨R.unifFieldStatus i, 19, 16⟩
def F.unifFieldStatusValid (i : Nat) : Field := ⟨R.unifFieldStatus i, 8, 8⟩
def F.unifFieldStatusApplied (i : Nat) : Field := ⟨R.unifFieldStatus i, 0, 0⟩
/-- UNIF_BASE_LOCK. -/
def R.unifBaseLock (i : Nat) : Nat := 0x4000518 + 0x10000 * i
def F.unifBaseLockState (i : Nat) : Field := ⟨R.unifBaseLock i, 18, 16⟩
def F.unifBaseLockLock (i : Nat) : Field := ⟨R.unifBaseLock i, 0, 0⟩
/-- UNIF_LOCK_RANGE. -/
def R.unifLockRange (i : Nat) : Nat := 0x400051c + 0x10000 * i
def F.unifLockRangeBankCount (i : Nat) : Field := ⟨R.unifLockRange i, 16, 8⟩
def F.unifLockRangeFirstBank (i : Nat) : Field := ⟨R.unifLockRange i, 7, 0⟩
/-- UNIF_DECODE_ERRS. -/
def R.unifDecodeErrs (i : Nat) : Nat := 0x4000520 + 0x10000 * i
def F.unifDecodeErrsCount (i : Nat) : Field := ⟨R.unifDecodeErrs i, 31, 0⟩
/-- WEAR_CTRL. -/
def R.wearCtrl (i : Nat) : Nat := 0x4000600 + 0x10000 * i
def F.wearCtrlTblBank (i : Nat) : Field := ⟨R.wearCtrl i, 24, 24⟩
def F.wearCtrlEddy (i : Nat) : Field := ⟨R.wearCtrl i, 17, 16⟩
def F.wearCtrlDmaCh (i : Nat) : Field := ⟨R.wearCtrl i, 12, 8⟩
def F.wearCtrlGenEn (i : Nat) : Field := ⟨R.wearCtrl i, 4, 4⟩
def F.wearCtrlSlackPolicy (i : Nat) : Field := ⟨R.wearCtrl i, 3, 3⟩
def F.wearCtrlShuffle (i : Nat) : Field := ⟨R.wearCtrl i, 2, 2⟩
def F.wearCtrlSampleEn (i : Nat) : Field := ⟨R.wearCtrl i, 1, 1⟩
def F.wearCtrlLiftEn (i : Nat) : Field := ⟨R.wearCtrl i, 0, 0⟩
/-- WEAR_LEDGER_LO. -/
def R.wearLedgerLo (i : Nat) : Nat := 0x4000604 + 0x10000 * i
def F.wearLedgerLoAddr (i : Nat) : Field := ⟨R.wearLedgerLo i, 31, 5⟩
/-- WEAR_LEDGER_HI. -/
def R.wearLedgerHi (i : Nat) : Nat := 0x4000608 + 0x10000 * i
def F.wearLedgerHiAddr (i : Nat) : Field := ⟨R.wearLedgerHi i, 31, 0⟩
/-- WEAR_LEDGER_STRIDE. -/
def R.wearLedgerStride (i : Nat) : Nat := 0x400060c + 0x10000 * i
def F.wearLedgerStrideBytes (i : Nat) : Field := ⟨R.wearLedgerStride i, 19, 5⟩
/-- WEAR_MAP_BASE. -/
def R.wearMapBase (i : Nat) : Nat := 0x4000610 + 0x10000 * i
def F.wearMapBaseAddr (i : Nat) : Field := ⟨R.wearMapBase i, 29, 5⟩
/-- WEAR_MAP_BYTES. -/
def R.wearMapBytes (i : Nat) : Nat := 0x4000614 + 0x10000 * i
def F.wearMapBytesBytes (i : Nat) : Field := ⟨R.wearMapBytes i, 29, 5⟩
/-- WEAR_TEMP_FACTOR. -/
def R.wearTempFactor (i : Nat) : Nat := 0x4000618 + 0x10000 * i
def F.wearTempFactorFactor (i : Nat) : Field := ⟨R.wearTempFactor i, 15, 0⟩
/-- WEAR_PEAK_CAP. -/
def R.wearPeakCap (i : Nat) : Nat := 0x400061c + 0x10000 * i
def F.wearPeakCapCap (i : Nat) : Field := ⟨R.wearPeakCap i, 19, 0⟩
/-- WEAR_LIFT_MAX. -/
def R.wearLiftMax (i : Nat) : Nat := 0x4000620 + 0x10000 * i
def F.wearLiftMaxCode (i : Nat) : Field := ⟨R.wearLiftMax i, 7, 0⟩
/-- WEAR_CURVE_SEL. -/
def R.wearCurveSel (i : Nat) : Nat := 0x4000624 + 0x10000 * i
def F.wearCurveSelCurveC2 (i : Nat) : Field := ⟨R.wearCurveSel i, 11, 8⟩
def F.wearCurveSelCurveC1 (i : Nat) : Field := ⟨R.wearCurveSel i, 7, 4⟩
def F.wearCurveSelCurveC0 (i : Nat) : Field := ⟨R.wearCurveSel i, 3, 0⟩
/-- WEAR_GEN_PERIOD. -/
def R.wearGenPeriod (i : Nat) : Nat := 0x4000628 + 0x10000 * i
def F.wearGenPeriodSeconds (i : Nat) : Field := ⟨R.wearGenPeriod i, 11, 0⟩
/-- WEAR_TBL_ADDR. -/
def R.wearTblAddr (i : Nat) : Nat := 0x400062c + 0x10000 * i
def F.wearTblAddrTable (i : Nat) : Field := ⟨R.wearTblAddr i, 23, 20⟩
def F.wearTblAddrBank (i : Nat) : Field := ⟨R.wearTblAddr i, 19, 19⟩
def F.wearTblAddrIndex (i : Nat) : Field := ⟨R.wearTblAddr i, 17, 0⟩
/-- WEAR_TBL_DATA. -/
def R.wearTblData (i : Nat) : Nat := 0x4000630 + 0x10000 * i
def F.wearTblDataValue (i : Nat) : Field := ⟨R.wearTblData i, 15, 0⟩
/-- WEAR_STATUS. -/
def R.wearStatus (i : Nat) : Nat := 0x4000634 + 0x10000 * i
def F.wearStatusRotate (i : Nat) : Field := ⟨R.wearStatus i, 21, 16⟩
def F.wearStatusStripe (i : Nat) : Field := ⟨R.wearStatus i, 13, 8⟩
def F.wearStatusHalted (i : Nat) : Field := ⟨R.wearStatus i, 2, 2⟩
def F.wearStatusLedgerIdle (i : Nat) : Field := ⟨R.wearStatus i, 1, 1⟩
def F.wearStatusActiveBank (i : Nat) : Field := ⟨R.wearStatus i, 0, 0⟩
/-- WEAR_GEN_STATUS. -/
def R.wearGenStatus (i : Nat) : Nat := 0x4000638 + 0x10000 * i
def F.wearGenStatusLastPass (i : Nat) : Field := ⟨R.wearGenStatus i, 31, 16⟩
def F.wearGenStatusNextGroup (i : Nat) : Field := ⟨R.wearGenStatus i, 15, 0⟩
/-- WEAR_PIN_LIFT. -/
def R.wearPinLift (i : Nat) : Nat := 0x400063c + 0x10000 * i
def F.wearPinLiftCount (i : Nat) : Field := ⟨R.wearPinLift i, 31, 0⟩
/-- WEAR_PIN_PEAK. -/
def R.wearPinPeak (i : Nat) : Nat := 0x4000640 + 0x10000 * i
def F.wearPinPeakCount (i : Nat) : Field := ⟨R.wearPinPeak i, 31, 0⟩
/-- WEAR_MAP_SATS. -/
def R.wearMapSats (i : Nat) : Nat := 0x4000644 + 0x10000 * i
def F.wearMapSatsCount (i : Nat) : Field := ⟨R.wearMapSats i, 31, 0⟩
/-- WEAR_LEDGER_SKIPS. -/
def R.wearLedgerSkips (i : Nat) : Nat := 0x4000648 + 0x10000 * i
def F.wearLedgerSkipsCount (i : Nat) : Field := ⟨R.wearLedgerSkips i, 31, 0⟩
/-- WEAR_LEDGER_LOST. -/
def R.wearLedgerLost (i : Nat) : Nat := 0x400064c + 0x10000 * i
def F.wearLedgerLostCount (i : Nat) : Field := ⟨R.wearLedgerLost i, 31, 0⟩
/-- WEAR_UNSAMPLED. -/
def R.wearUnsampled (i : Nat) : Nat := 0x4000650 + 0x10000 * i
def F.wearUnsampledCount (i : Nat) : Field := ⟨R.wearUnsampled i, 31, 0⟩
/-- WEAR_LEDGER_SATS. -/
def R.wearLedgerSats (i : Nat) : Nat := 0x4000654 + 0x10000 * i
def F.wearLedgerSatsCount (i : Nat) : Field := ⟨R.wearLedgerSats i, 31, 0⟩
/-- WEAR_GEN_SKIPS. -/
def R.wearGenSkips (i : Nat) : Nat := 0x4000658 + 0x10000 * i
def F.wearGenSkipsCount (i : Nat) : Field := ⟨R.wearGenSkips i, 31, 0⟩

/-! Registers of 06_overdrive_and_dither.md. -/

/-- ODRV_CTRL. -/
def R.odrvCtrl (i : Nat) : Nat := 0x4000700 + 0x10000 * i
def F.odrvCtrlTblBank (i : Nat) : Field := ⟨R.odrvCtrl i, 24, 24⟩
def F.odrvCtrlTempSrc (i : Nat) : Field := ⟨R.odrvCtrl i, 16, 16⟩
def F.odrvCtrlRateComp (i : Nat) : Field := ⟨R.odrvCtrl i, 8, 8⟩
def F.odrvCtrlMode (i : Nat) : Field := ⟨R.odrvCtrl i, 1, 1⟩
def F.odrvCtrlEn (i : Nat) : Field := ⟨R.odrvCtrl i, 0, 0⟩
/-- ODRV_HIST_BASE0. -/
def R.odrvHistBase0 (i : Nat) : Nat := 0x4000704 + 0x10000 * i
def F.odrvHistBase0Addr (i : Nat) : Field := ⟨R.odrvHistBase0 i, 29, 5⟩
/-- ODRV_HIST_BASE1. -/
def R.odrvHistBase1 (i : Nat) : Nat := 0x4000708 + 0x10000 * i
def F.odrvHistBase1Addr (i : Nat) : Field := ⟨R.odrvHistBase1 i, 29, 5⟩
/-- ODRV_HIST_STRIDE. -/
def R.odrvHistStride (i : Nat) : Nat := 0x400070c + 0x10000 * i
def F.odrvHistStrideBytes (i : Nat) : Field := ⟨R.odrvHistStride i, 19, 5⟩
/-- ODRV_BANDk. -/
def R.odrvBand (i : Nat) (j : Nat) : Nat := 0x4000710 + 0x10000 * i + 0x4 * j
def F.odrvBandTOdd (i : Nat) (j : Nat) : Field := ⟨R.odrvBand i j, 31, 16⟩
def F.odrvBandTEven (i : Nat) (j : Nat) : Field := ⟨R.odrvBand i j, 15, 0⟩
/-- ODRV_PANEL_TEMP. -/
def R.odrvPanelTemp (i : Nat) : Nat := 0x4000720 + 0x10000 * i
def F.odrvPanelTempTemp (i : Nat) : Field := ⟨R.odrvPanelTemp i, 15, 0⟩
/-- ODRV_TEMP_PEER. -/
def R.odrvTempPeer (i : Nat) : Nat := 0x4000724 + 0x10000 * i
def F.odrvTempPeerAddr (i : Nat) : Field := ⟨R.odrvTempPeer i, 31, 16⟩
def F.odrvTempPeerSensor (i : Nat) : Field := ⟨R.odrvTempPeer i, 7, 0⟩
/-- ODRV_TEMP_TIMEOUT. -/
def R.odrvTempTimeout (i : Nat) : Nat := 0x4000728 + 0x10000 * i
def F.odrvTempTimeoutMs (i : Nat) : Field := ⟨R.odrvTempTimeout i, 15, 0⟩
/-- ODRV_TEMP_USED. -/
def R.odrvTempUsed (i : Nat) : Nat := 0x400072c + 0x10000 * i
def F.odrvTempUsedStale (i : Nat) : Field := ⟨R.odrvTempUsed i, 16, 16⟩
def F.odrvTempUsedTemp (i : Nat) : Field := ⟨R.odrvTempUsed i, 15, 0⟩
/-- ODRV_TBL_ADDR. -/
def R.odrvTblAddr (i : Nat) : Nat := 0x4000730 + 0x10000 * i
def F.odrvTblAddrTable (i : Nat) : Field := ⟨R.odrvTblAddr i, 23, 20⟩
def F.odrvTblAddrBank (i : Nat) : Field := ⟨R.odrvTblAddr i, 19, 19⟩
def F.odrvTblAddrIndex (i : Nat) : Field := ⟨R.odrvTblAddr i, 17, 0⟩
/-- ODRV_TBL_DATA. -/
def R.odrvTblData (i : Nat) : Nat := 0x4000734 + 0x10000 * i
def F.odrvTblDataValue (i : Nat) : Field := ⟨R.odrvTblData i, 19, 0⟩
/-- ODRV_STATUS. -/
def R.odrvStatus (i : Nat) : Nat := 0x4000738 + 0x10000 * i
def F.odrvStatusBand (i : Nat) : Field := ⟨R.odrvStatus i, 18, 16⟩
def F.odrvStatusHistAge (i : Nat) : Field := ⟨R.odrvStatus i, 9, 8⟩
def F.odrvStatusActiveBank (i : Nat) : Field := ⟨R.odrvStatus i, 0, 0⟩
/-- DITH_CTRL. -/
def R.dithCtrl (i : Nat) : Nat := 0x4000800 + 0x10000 * i
def F.dithCtrlTblBank (i : Nat) : Field := ⟨R.dithCtrl i, 16, 16⟩
def F.dithCtrlFrcEn (i : Nat) : Field := ⟨R.dithCtrl i, 12, 12⟩
def F.dithCtrlPhaseSrc (i : Nat) : Field := ⟨R.dithCtrl i, 8, 8⟩
def F.dithCtrlMode (i : Nat) : Field := ⟨R.dithCtrl i, 5, 4⟩
def F.dithCtrlPhaseOff (i : Nat) : Field := ⟨R.dithCtrl i, 3, 2⟩
/-- DITH_SNAP. -/
def R.dithSnap (i : Nat) : Nat := 0x4000804 + 0x10000 * i
def F.dithSnapLimit (i : Nat) : Field := ⟨R.dithSnap i, 11, 0⟩
/-- DITH_ORIGIN. -/
def R.dithOrigin (i : Nat) : Nat := 0x4000808 + 0x10000 * i
def F.dithOriginY (i : Nat) : Field := ⟨R.dithOrigin i, 31, 16⟩
def F.dithOriginX (i : Nat) : Field := ⟨R.dithOrigin i, 15, 0⟩
/-- DITH_PHASE01. -/
def R.dithPhase01 (i : Nat) : Nat := 0x400080c + 0x10000 * i
def F.dithPhase01Py1 (i : Nat) : Field := ⟨R.dithPhase01 i, 29, 24⟩
def F.dithPhase01Px1 (i : Nat) : Field := ⟨R.dithPhase01 i, 21, 16⟩
def F.dithPhase01Py0 (i : Nat) : Field := ⟨R.dithPhase01 i, 13, 8⟩
def F.dithPhase01Px0 (i : Nat) : Field := ⟨R.dithPhase01 i, 5, 0⟩
/-- DITH_PHASE23. -/
def R.dithPhase23 (i : Nat) : Nat := 0x4000810 + 0x10000 * i
def F.dithPhase23Py3 (i : Nat) : Field := ⟨R.dithPhase23 i, 29, 24⟩
def F.dithPhase23Px3 (i : Nat) : Field := ⟨R.dithPhase23 i, 21, 16⟩
def F.dithPhase23Py2 (i : Nat) : Field := ⟨R.dithPhase23 i, 13, 8⟩
def F.dithPhase23Px2 (i : Nat) : Field := ⟨R.dithPhase23 i, 5, 0⟩
/-- DITH_COMP_OFF. -/
def R.dithCompOff (i : Nat) : Nat := 0x4000814 + 0x10000 * i
def F.dithCompOffCy2 (i : Nat) : Field := ⟨R.dithCompOff i, 29, 24⟩
def F.dithCompOffCx2 (i : Nat) : Field := ⟨R.dithCompOff i, 21, 16⟩
def F.dithCompOffCy1 (i : Nat) : Field := ⟨R.dithCompOff i, 13, 8⟩
def F.dithCompOffCx1 (i : Nat) : Field := ⟨R.dithCompOff i, 5, 0⟩
/-- DITH_TBL_ADDR. -/
def R.dithTblAddr (i : Nat) : Nat := 0x4000818 + 0x10000 * i
def F.dithTblAddrTable (i : Nat) : Field := ⟨R.dithTblAddr i, 23, 20⟩
def F.dithTblAddrBank (i : Nat) : Field := ⟨R.dithTblAddr i, 19, 19⟩
def F.dithTblAddrIndex (i : Nat) : Field := ⟨R.dithTblAddr i, 17, 0⟩
/-- DITH_TBL_DATA. -/
def R.dithTblData (i : Nat) : Nat := 0x400081c + 0x10000 * i
def F.dithTblDataM (i : Nat) : Field := ⟨R.dithTblData i, 11, 0⟩
/-- DITH_STATUS. -/
def R.dithStatus (i : Nat) : Nat := 0x4000820 + 0x10000 * i
def F.dithStatusPhase (i : Nat) : Field := ⟨R.dithStatus i, 9, 8⟩
def F.dithStatusLocal (i : Nat) : Field := ⟨R.dithStatus i, 4, 4⟩
def F.dithStatusActiveBank (i : Nat) : Field := ⟨R.dithStatus i, 0, 0⟩
/-- DITH_EPOCH. -/
def R.dithEpoch (i : Nat) : Nat := 0x4000824 + 0x10000 * i
def F.dithEpochE (i : Nat) : Field := ⟨R.dithEpoch i, 31, 0⟩

/-! Registers of 07_timing_generators_and_landing.md. -/

/-- TGn_CTRL. -/
def R.tgCtrl (i : Nat) : Nat := 0x100000 + 0x10000 * i
def F.tgCtrlAuto (i : Nat) : Field := ⟨R.tgCtrl i, 8, 8⟩
def F.tgCtrlPace (i : Nat) : Field := ⟨R.tgCtrl i, 5, 4⟩
def F.tgCtrlEn (i : Nat) : Field := ⟨R.tgCtrl i, 0, 0⟩
/-- TGn_HRASTER. -/
def R.tgHraster (i : Nat) : Nat := 0x100004 + 0x10000 * i
def F.tgHrasterHTotal (i : Nat) : Field := ⟨R.tgHraster i, 31, 16⟩
def F.tgHrasterHActive (i : Nat) : Field := ⟨R.tgHraster i, 15, 0⟩
/-- TGn_VRASTER. -/
def R.tgVraster (i : Nat) : Nat := 0x100008 + 0x10000 * i
def F.tgVrasterVTotal (i : Nat) : Field := ⟨R.tgVraster i, 31, 16⟩
def F.tgVrasterVActive (i : Nat) : Field := ⟨R.tgVraster i, 15, 0⟩
/-- TGn_RATE_NUM. -/
def R.tgRateNum (i : Nat) : Nat := 0x10000c + 0x10000 * i
def F.tgRateNumNum (i : Nat) : Field := ⟨R.tgRateNum i, 31, 0⟩
/-- TGn_RATE_DEN. -/
def R.tgRateDen (i : Nat) : Nat := 0x100010 + 0x10000 * i
def F.tgRateDenDen (i : Nat) : Field := ⟨R.tgRateDen i, 15, 0⟩
/-- TGn_HSYNC. -/
def R.tgHsync (i : Nat) : Nat := 0x100014 + 0x10000 * i
def F.tgHsyncHsWidth (i : Nat) : Field := ⟨R.tgHsync i, 31, 16⟩
def F.tgHsyncHsStart (i : Nat) : Field := ⟨R.tgHsync i, 15, 0⟩
/-- TGn_VSYNC. -/
def R.tgVsync (i : Nat) : Nat := 0x100018 + 0x10000 * i
def F.tgVsyncVsWidth (i : Nat) : Field := ⟨R.tgVsync i, 31, 16⟩
def F.tgVsyncVsStart (i : Nat) : Field := ⟨R.tgVsync i, 15, 0⟩
/-- TGn_POLARITY. -/
def R.tgPolarity (i : Nat) : Nat := 0x10001c + 0x10000 * i
def F.tgPolarityTeEdge (i : Nat) : Field := ⟨R.tgPolarity i, 9, 9⟩
def F.tgPolaritySyncEdge (i : Nat) : Field := ⟨R.tgPolarity i, 8, 8⟩
def F.tgPolarityVsPol (i : Nat) : Field := ⟨R.tgPolarity i, 1, 1⟩
def F.tgPolarityHsPol (i : Nat) : Field := ⟨R.tgPolarity i, 0, 0⟩
/-- TGn_LAND. -/
def R.tgLand (i : Nat) : Nat := 0x100020 + 0x10000 * i
def F.tgLandFrameId (i : Nat) : Field := ⟨R.tgLand i, 31, 8⟩
def F.tgLandCancel (i : Nat) : Field := ⟨R.tgLand i, 1, 1⟩
def F.tgLandGo (i : Nat) : Field := ⟨R.tgLand i, 0, 0⟩
/-- TGn_LAND_LINE. -/
def R.tgLandLine (i : Nat) : Nat := 0x100024 + 0x10000 * i
def F.tgLandLineLine (i : Nat) : Field := ⟨R.tgLandLine i, 15, 0⟩
/-- TGn_LAST_GO. -/
def R.tgLastGo (i : Nat) : Nat := 0x100028 + 0x10000 * i
def F.tgLastGoFrameId (i : Nat) : Field := ⟨R.tgLastGo i, 31, 0⟩
/-- TGn_FRAME_ID_LO. -/
def R.tgFrameIdLo (i : Nat) : Nat := 0x10002c + 0x10000 * i
def F.tgFrameIdLoCount (i : Nat) : Field := ⟨R.tgFrameIdLo i, 31, 0⟩
/-- TGn_FRAME_ID_HI. -/
def R.tgFrameIdHi (i : Nat) : Nat := 0x100030 + 0x10000 * i
def F.tgFrameIdHiCount (i : Nat) : Field := ⟨R.tgFrameIdHi i, 31, 0⟩
/-- TGn_POSITION. -/
def R.tgPosition (i : Nat) : Nat := 0x100034 + 0x10000 * i
def F.tgPositionLine (i : Nat) : Field := ⟨R.tgPosition i, 31, 16⟩
def F.tgPositionPixel (i : Nat) : Field := ⟨R.tgPosition i, 15, 0⟩
/-- TGn_STATUS. -/
def R.tgStatus (i : Nat) : Nat := 0x100038 + 0x10000 * i
def F.tgStatusModeCause (i : Nat) : Field := ⟨R.tgStatus i, 11, 8⟩
def F.tgStatusLandClamped (i : Nat) : Field := ⟨R.tgStatus i, 2, 2⟩
def F.tgStatusBlankFrame (i : Nat) : Field := ⟨R.tgStatus i, 1, 1⟩
def F.tgStatusRun (i : Nat) : Field := ⟨R.tgStatus i, 0, 0⟩
/-- TGn_LATE_COUNT. -/
def R.tgLateCount (i : Nat) : Nat := 0x10003c + 0x10000 * i
def F.tgLateCountCount (i : Nat) : Field := ⟨R.tgLateCount i, 31, 0⟩
/-- TGn_SYNC_CFG. -/
def R.tgSyncCfg (i : Nat) : Nat := 0x100040 + 0x10000 * i
def F.tgSyncCfgPin (i : Nat) : Field := ⟨R.tgSyncCfg i, 9, 8⟩
def F.tgSyncCfgDiv (i : Nat) : Field := ⟨R.tgSyncCfg i, 3, 0⟩
/-- TGn_SYNC_OFFSET. -/
def R.tgSyncOffset (i : Nat) : Nat := 0x100044 + 0x10000 * i
def F.tgSyncOffsetOffset (i : Nat) : Field := ⟨R.tgSyncOffset i, 31, 0⟩
/-- TGn_SLEW. -/
def R.tgSlew (i : Nat) : Nat := 0x100048 + 0x10000 * i
def F.tgSlewCoarseLines (i : Nat) : Field := ⟨R.tgSlew i, 25, 16⟩
def F.tgSlewTrimPpm (i : Nat) : Field := ⟨R.tgSlew i, 9, 0⟩
/-- TGn_LOCK_STATUS. -/
def R.tgLockStatus (i : Nat) : Nat := 0x10004c + 0x10000 * i
def F.tgLockStatusMissed (i : Nat) : Field := ⟨R.tgLockStatus i, 7, 4⟩
def F.tgLockStatusState (i : Nat) : Field := ⟨R.tgLockStatus i, 2, 0⟩
/-- TGn_PHASE_ERR. -/
def R.tgPhaseErr (i : Nat) : Nat := 0x100050 + 0x10000 * i
def F.tgPhaseErrNs (i : Nat) : Field := ⟨R.tgPhaseErr i, 31, 0⟩
/-- TGn_FREQ_TRIM. -/
def R.tgFreqTrim (i : Nat) : Nat := 0x100054 + 0x10000 * i
def F.tgFreqTrimTrim (i : Nat) : Field := ⟨R.tgFreqTrim i, 31, 0⟩
/-- TGn_TE_CFG. -/
def R.tgTeCfg (i : Nat) : Nat := 0x100058 + 0x10000 * i
def F.tgTeCfgTimeout (i : Nat) : Field := ⟨R.tgTeCfg i, 31, 16⟩
def F.tgTeCfgDelay (i : Nat) : Field := ⟨R.tgTeCfg i, 15, 0⟩
/-- TGn_TIME_OFFSET. -/
def R.tgTimeOffset (i : Nat) : Nat := 0x10005c + 0x10000 * i
def F.tgTimeOffsetOffset (i : Nat) : Field := ⟨R.tgTimeOffset i, 31, 0⟩
/-- TGn_TE_COUNTS. -/
def R.tgTeCounts (i : Nat) : Nat := 0x100060 + 0x10000 * i
def F.tgTeCountsEarly (i : Nat) : Field := ⟨R.tgTeCounts i, 31, 16⟩
def F.tgTeCountsMissed (i : Nat) : Field := ⟨R.tgTeCounts i, 15, 0⟩

/-! Registers of 08_scan_out_and_slack.md. -/

/-- SCNn_LADDER_CTRL. -/
def R.scnLadderCtrl (i : Nat) : Nat := 0x140000 + 0x10000 * i
def F.scnLadderCtrlStaticFrames (i : Nat) : Field := ⟨R.scnLadderCtrl i, 23, 16⟩
def F.scnLadderCtrlRefreshHoldEn (i : Nat) : Field := ⟨R.scnLadderCtrl i, 11, 11⟩
def F.scnLadderCtrlRefreshHold (i : Nat) : Field := ⟨R.scnLadderCtrl i, 10, 8⟩
def F.scnLadderCtrlRefreshFloor (i : Nat) : Field := ⟨R.scnLadderCtrl i, 6, 4⟩
def F.scnLadderCtrlRungCount (i : Nat) : Field := ⟨R.scnLadderCtrl i, 3, 0⟩
/-- SCNn_RUNGi. -/
def R.scnRung (i : Nat) (j : Nat) : Nat := 0x140004 + 0x10000 * i + 0x4 * j
def F.scnRungDOdd (i : Nat) (j : Nat) : Field := ⟨R.scnRung i j, 31, 16⟩
def F.scnRungDEven (i : Nat) (j : Nat) : Field := ⟨R.scnRung i j, 15, 0⟩
/-- SCNn_LADDER_STATUS. -/
def R.scnLadderStatus (i : Nat) : Nat := 0x140014 + 0x10000 * i
def F.scnLadderStatusStaticCount (i : Nat) : Field := ⟨R.scnLadderStatus i, 31, 24⟩
def F.scnLadderStatusCause (i : Nat) : Field := ⟨R.scnLadderStatus i, 19, 16⟩
def F.scnLadderStatusWant (i : Nat) : Field := ⟨R.scnLadderStatus i, 10, 8⟩
def F.scnLadderStatusRung (i : Nat) : Field := ⟨R.scnLadderStatus i, 2, 0⟩
/-- SCNn_FRAME_CRC. -/
def R.scnFrameCrc (i : Nat) : Nat := 0x140018 + 0x10000 * i
def F.scnFrameCrcCrc (i : Nat) : Field := ⟨R.scnFrameCrc i, 31, 0⟩
/-- SCNn_REPEATS. -/
def R.scnRepeats (i : Nat) : Nat := 0x14001c + 0x10000 * i
def F.scnRepeatsCount (i : Nat) : Field := ⟨R.scnRepeats i, 31, 0⟩
/-- SCNn_UNDERRUNS. -/
def R.scnUnderruns (i : Nat) : Nat := 0x140020 + 0x10000 * i
def F.scnUnderrunsCount (i : Nat) : Field := ⟨R.scnUnderruns i, 31, 0⟩
/-- SCNn_RGN_SRCp. -/
def R.scnRgnSrc (i : Nat) (j : Nat) : Nat := 0x140040 + 0x10000 * i + 0x4 * j
def F.scnRgnSrcAddr (i : Nat) (j : Nat) : Field := ⟨R.scnRgnSrc i j, 29, 5⟩
/-- SCNn_RGN_STRIDE0. -/
def R.scnRgnStride0 (i : Nat) : Nat := 0x14004c + 0x10000 * i
def F.scnRgnStride0Bytes (i : Nat) : Field := ⟨R.scnRgnStride0 i, 19, 5⟩
/-- SCNn_RGN_STRIDE12. -/
def R.scnRgnStride12 (i : Nat) : Nat := 0x140050 + 0x10000 * i
def F.scnRgnStride12Bytes (i : Nat) : Field := ⟨R.scnRgnStride12 i, 19, 5⟩
/-- SCNn_RGN_POS. -/
def R.scnRgnPos (i : Nat) : Nat := 0x140054 + 0x10000 * i
def F.scnRgnPosY (i : Nat) : Field := ⟨R.scnRgnPos i, 31, 16⟩
def F.scnRgnPosX (i : Nat) : Field := ⟨R.scnRgnPos i, 15, 0⟩
/-- SCNn_RGN_SIZE. -/
def R.scnRgnSize (i : Nat) : Nat := 0x140058 + 0x10000 * i
def F.scnRgnSizeH (i : Nat) : Field := ⟨R.scnRgnSize i, 31, 16⟩
def F.scnRgnSizeW (i : Nat) : Field := ⟨R.scnRgnSize i, 15, 0⟩
/-- SCNn_RGN_CMD. -/
def R.scnRgnCmd (i : Nat) : Nat := 0x14005c + 0x10000 * i
def F.scnRgnCmdFlush (i : Nat) : Field := ⟨R.scnRgnCmd i, 1, 1⟩
def F.scnRgnCmdPush (i : Nat) : Field := ⟨R.scnRgnCmd i, 0, 0⟩
/-- SCNn_RGN_STATUS. -/
def R.scnRgnStatus (i : Nat) : Nat := 0x140060 + 0x10000 * i
def F.scnRgnStatusLastTag (i : Nat) : Field := ⟨R.scnRgnStatus i, 31, 24⟩
def F.scnRgnStatusCopiedTag (i : Nat) : Field := ⟨R.scnRgnStatus i, 23, 16⟩
def F.scnRgnStatusMergedTag (i : Nat) : Field := ⟨R.scnRgnStatus i, 15, 8⟩
def F.scnRgnStatusDepth (i : Nat) : Field := ⟨R.scnRgnStatus i, 7, 3⟩
def F.scnRgnStatusSynced (i : Nat) : Field := ⟨R.scnRgnStatus i, 2, 2⟩
/-- SCNn_RGN_RESULT. -/
def R.scnRgnResult (i : Nat) : Nat := 0x140064 + 0x10000 * i
def F.scnRgnResultResult (i : Nat) : Field := ⟨R.scnRgnResult i, 2, 0⟩
/-- SCNn_GCk_CFG. -/
def R.scnGcCfg (i : Nat) (j : Nat) : Nat := 0x140400 + 0x10000 * i + 0x10 * j
def F.scnGcCfgMode (i : Nat) (j : Nat) : Field := ⟨R.scnGcCfg i j, 5, 4⟩
def F.scnGcCfgPol (i : Nat) (j : Nat) : Field := ⟨R.scnGcCfg i j, 0, 0⟩
/-- SCNn_GCk_LINES. -/
def R.scnGcLines (i : Nat) (j : Nat) : Nat := 0x140404 + 0x10000 * i + 0x10 * j
def F.scnGcLinesLast (i : Nat) (j : Nat) : Field := ⟨R.scnGcLines i j, 31, 16⟩
def F.scnGcLinesFirst (i : Nat) (j : Nat) : Field := ⟨R.scnGcLines i j, 15, 0⟩
/-- SCNn_GCk_PULSE. -/
def R.scnGcPulse (i : Nat) (j : Nat) : Nat := 0x140408 + 0x10000 * i + 0x10 * j
def F.scnGcPulseWidth (i : Nat) (j : Nat) : Field := ⟨R.scnGcPulse i j, 31, 16⟩
def F.scnGcPulseStart (i : Nat) (j : Nat) : Field := ⟨R.scnGcPulse i j, 15, 0⟩
/-- SCNn_GCk_REPEAT. -/
def R.scnGcRepeat (i : Nat) (j : Nat) : Nat := 0x14040c + 0x10000 * i + 0x10 * j
def F.scnGcRepeatPhase (i : Nat) (j : Nat) : Field := ⟨R.scnGcRepeat i j, 11, 8⟩
def F.scnGcRepeatPeriod (i : Nat) (j : Nat) : Field := ⟨R.scnGcRepeat i j, 3, 0⟩
/-- SCNn_DCHG_CFG. -/
def R.scnDchgCfg (i : Nat) : Nat := 0x140500 + 0x10000 * i
def F.scnDchgCfgHoldUs (i : Nat) : Field := ⟨R.scnDchgCfg i, 26, 16⟩
def F.scnDchgCfgEn (i : Nat) : Field := ⟨R.scnDchgCfg i, 0, 0⟩
/-- SCNn_DCHG_PATTERN. -/
def R.scnDchgPattern (i : Nat) : Nat := 0x140504 + 0x10000 * i
def F.scnDchgPatternLevels (i : Nat) : Field := ⟨R.scnDchgPattern i, 15, 0⟩
/-- SCNn_DCHG_STATUS. -/
def R.scnDchgStatus (i : Nat) : Nat := 0x140508 + 0x10000 * i
def F.scnDchgStatusState (i : Nat) : Field := ⟨R.scnDchgStatus i, 1, 0⟩

/-! Registers of 09_lararn_panel_link.md. -/

/-- PLNn_CTRL. -/
def R.plnCtrl (i : Nat) : Nat := 0x300000 + 0x400 * i
def F.plnCtrlRetrain (i : Nat) : Field := ⟨R.plnCtrl i, 8, 8⟩
def F.plnCtrlTxOff (i : Nat) : Field := ⟨R.plnCtrl i, 0, 0⟩
/-- PLNn_STATUS. -/
def R.plnStatus (i : Nat) : Nat := 0x300004 + 0x400 * i
def F.plnStatusRetries (i : Nat) : Field := ⟨R.plnStatus i, 31, 24⟩
def F.plnStatusFault (i : Nat) : Field := ⟨R.plnStatus i, 19, 16⟩
def F.plnStatusReliefSlot (i : Nat) : Field := ⟨R.plnStatus i, 10, 9⟩
def F.plnStatusRelief (i : Nat) : Field := ⟨R.plnStatus i, 8, 8⟩
def F.plnStatusState (i : Nat) : Field := ⟨R.plnStatus i, 3, 0⟩
/-- PLNn_ROLE. -/
def R.plnRole (i : Nat) : Nat := 0x300008 + 0x400 * i
def F.plnRoleOutput (i : Nat) : Field := ⟨R.plnRole i, 21, 20⟩
def F.plnRoleRole (i : Nat) : Field := ⟨R.plnRole i, 17, 16⟩
def F.plnRolePrecode (i : Nat) : Field := ⟨R.plnRole i, 12, 12⟩
def F.plnRoleBaud (i : Nat) : Field := ⟨R.plnRole i, 7, 0⟩
/-- PLNn_SEGMENT. -/
def R.plnSegment (i : Nat) : Nat := 0x30000c + 0x400 * i
def F.plnSegmentColumns (i : Nat) : Field := ⟨R.plnSegment i, 31, 16⟩
def F.plnSegmentFirst (i : Nat) : Field := ⟨R.plnSegment i, 15, 0⟩
/-- PLNn_CRC_ERRS. -/
def R.plnCrcErrs (i : Nat) : Nat := 0x300010 + 0x400 * i
def F.plnCrcErrsCount (i : Nat) : Field := ⟨R.plnCrcErrs i, 31, 0⟩
/-- PLNn_HDR_ERRS. -/
def R.plnHdrErrs (i : Nat) : Nat := 0x300014 + 0x400 * i
def F.plnHdrErrsCount (i : Nat) : Field := ⟨R.plnHdrErrs i, 31, 0⟩
/-- PLNn_LATE. -/
def R.plnLate (i : Nat) : Nat := 0x300018 + 0x400 * i
def F.plnLateDrvLate (i : Nat) : Field := ⟨R.plnLate i, 31, 16⟩
def F.plnLateDeferred (i : Nat) : Field := ⟨R.plnLate i, 15, 0⟩
/-- PLNn_RETRY_MS. -/
def R.plnRetryMs (i : Nat) : Nat := 0x30001c + 0x400 * i
def F.plnRetryMsMs (i : Nat) : Field := ⟨R.plnRetryMs i, 10, 0⟩
/-- PLNn_DRV_STATUS. -/
def R.plnDrvStatus (i : Nat) : Nat := 0x300020 + 0x400 * i
def F.plnDrvStatusTemp (i : Nat) : Field := ⟨R.plnDrvStatus i, 31, 24⟩
def F.plnDrvStatusState (i : Nat) : Field := ⟨R.plnDrvStatus i, 23, 16⟩
def F.plnDrvStatusFlags (i : Nat) : Field := ⟨R.plnDrvStatus i, 7, 0⟩
/-- PLGg_SB_CTRL. -/
def R.plgSbCtrl (i : Nat) : Nat := 0x370000 + 0x100 * i
def F.plgSbCtrlSbEn (i : Nat) : Field := ⟨R.plgSbCtrl i, 8, 8⟩
def F.plgSbCtrlPollMs (i : Nat) : Field := ⟨R.plgSbCtrl i, 7, 0⟩
/-- PLGg_SB_ERRS. -/
def R.plgSbErrs (i : Nat) : Nat := 0x370004 + 0x100 * i
def F.plgSbErrsCollisions (i : Nat) : Field := ⟨R.plgSbErrs i, 31, 16⟩
def F.plgSbErrsCrc (i : Nat) : Field := ⟨R.plgSbErrs i, 15, 0⟩
/-- PLGg_RELIEF. -/
def R.plgRelief (i : Nat) : Nat := 0x370008 + 0x100 * i
def F.plgRelief (i : Nat) : Field := ⟨R.plgRelief i, 31, 0⟩

/-! Registers of 10_lane_calibration.md. -/

/-- PLNn_FFE. -/
def R.plnFfe (i : Nat) : Nat := 0x300100 + 0x400 * i
def F.plnFfeC0 (i : Nat) : Field := ⟨R.plnFfe i, 31, 24⟩
def F.plnFfeC2 (i : Nat) : Field := ⟨R.plnFfe i, 23, 16⟩
def F.plnFfeC1 (i : Nat) : Field := ⟨R.plnFfe i, 15, 8⟩
def F.plnFfeCm1 (i : Nat) : Field := ⟨R.plnFfe i, 7, 0⟩
/-- PLNn_FFE_FORCE. -/
def R.plnFfeForce (i : Nat) : Nat := 0x300104 + 0x400 * i
def F.plnFfeForceForce (i : Nat) : Field := ⟨R.plnFfeForce i, 31, 31⟩
def F.plnFfeForceC2 (i : Nat) : Field := ⟨R.plnFfeForce i, 23, 16⟩
def F.plnFfeForceC1 (i : Nat) : Field := ⟨R.plnFfeForce i, 15, 8⟩
def F.plnFfeForceCm1 (i : Nat) : Field := ⟨R.plnFfeForce i, 7, 0⟩
/-- PLNn_CAL_STATUS. -/
def R.plnCalStatus (i : Nat) : Nat := 0x300108 + 0x400 * i
def F.plnCalStatusLastCode (i : Nat) : Field := ⟨R.plnCalStatus i, 31, 20⟩
def F.plnCalStatusAdopted (i : Nat) : Field := ⟨R.plnCalStatus i, 11, 8⟩
def F.plnCalStatusForceRefused (i : Nat) : Field := ⟨R.plnCalStatus i, 3, 3⟩
def F.plnCalStatusFrozen (i : Nat) : Field := ⟨R.plnCalStatus i, 2, 2⟩
def F.plnCalStatusDue (i : Nat) : Field := ⟨R.plnCalStatus i, 1, 1⟩
def F.plnCalStatusBusy (i : Nat) : Field := ⟨R.plnCalStatus i, 0, 0⟩
/-- PLNn_CAL_AGE. -/
def R.plnCalAge (i : Nat) : Nat := 0x30010c + 0x400 * i
def F.plnCalAgeSeconds (i : Nat) : Field := ⟨R.plnCalAge i, 31, 0⟩
/-- PLNn_Q_EYE. -/
def R.plnQEye (i : Nat) : Nat := 0x300110 + 0x400 * i
def F.plnQEyeHUpper (i : Nat) : Field := ⟨R.plnQEye i, 31, 24⟩
def F.plnQEyeHMid (i : Nat) : Field := ⟨R.plnQEye i, 23, 16⟩
def F.plnQEyeHLower (i : Nat) : Field := ⟨R.plnQEye i, 15, 8⟩
/-- PLNn_Q_WIDTH. -/
def R.plnQWidth (i : Nat) : Nat := 0x300114 + 0x400 * i
def F.plnQWidthWMid (i : Nat) : Field := ⟨R.plnQWidth i, 31, 16⟩
def F.plnQWidthWLower (i : Nat) : Field := ⟨R.plnQWidth i, 15, 0⟩
/-- PLNn_Q_WIDTH_UP. -/
def R.plnQWidthUp (i : Nat) : Nat := 0x300118 + 0x400 * i
def F.plnQWidthUpWUpper (i : Nat) : Field := ⟨R.plnQWidthUp i, 15, 0⟩
/-- PLNn_Q_MERIT. -/
def R.plnQMerit (i : Nat) : Nat := 0x30011c + 0x400 * i
def F.plnQMeritQ (i : Nat) : Field := ⟨R.plnQMerit i, 31, 0⟩
/-- PLNn_RESID. -/
def R.plnResid (i : Nat) : Nat := 0x300120 + 0x400 * i
def F.plnResidCount (i : Nat) : Field := ⟨R.plnResid i, 31, 0⟩
/-- PLNn_RESID_PERIOD. -/
def R.plnResidPeriod (i : Nat) : Nat := 0x300124 + 0x400 * i
def F.plnResidPeriodCount (i : Nat) : Field := ⟨R.plnResidPeriod i, 31, 0⟩
/-- PLNn_DENSITY. -/
def R.plnDensity (i : Nat) : Nat := 0x300128 + 0x400 * i
def F.plnDensityDensity (i : Nat) : Field := ⟨R.plnDensity i, 7, 0⟩
/-- PLNn_CAL_CMD. -/
def R.plnCalCmd (i : Nat) : Nat := 0x30012c + 0x400 * i
def F.plnCalCmdMeasure (i : Nat) : Field := ⟨R.plnCalCmd i, 1, 1⟩
def F.plnCalCmdRequest (i : Nat) : Field := ⟨R.plnCalCmd i, 0, 0⟩
/-- PLOn_CAL_CTRL. -/
def R.ploCalCtrl (i : Nat) : Nat := 0x370800 + 0x100 * i
def F.ploCalCtrlTdMin (i : Nat) : Field := ⟨R.ploCalCtrl i, 23, 16⟩
def F.ploCalCtrlWindow (i : Nat) : Field := ⟨R.ploCalCtrl i, 12, 8⟩
def F.ploCalCtrlRounds (i : Nat) : Field := ⟨R.ploCalCtrl i, 7, 4⟩
def F.ploCalCtrlMode (i : Nat) : Field := ⟨R.ploCalCtrl i, 1, 0⟩
/-- PLOn_CAL_PERIOD. -/
def R.ploCalPeriod (i : Nat) : Nat := 0x370804 + 0x100 * i
def F.ploCalPeriodResidLimit (i : Nat) : Field := ⟨R.ploCalPeriod i, 31, 16⟩
def F.ploCalPeriodSeconds (i : Nat) : Field := ⟨R.ploCalPeriod i, 15, 0⟩
/-- PLOn_CAL_SPACING. -/
def R.ploCalSpacing (i : Nat) : Nat := 0x370808 + 0x100 * i
def F.ploCalSpacingFrames (i : Nat) : Field := ⟨R.ploCalSpacing i, 15, 0⟩
/-- PLOn_CAL_FRAMES. -/
def R.ploCalFrames (i : Nat) : Nat := 0x37080c + 0x100 * i
def F.ploCalFramesCount (i : Nat) : Field := ⟨R.ploCalFrames i, 31, 0⟩
/-- CHNp_RXk_EQ. -/
def R.chnrxEq (i : Nat) (j : Nat) : Nat := 0x384000 + 0x10000 * i + 0x100 * j
def F.chnrxEqCtle (i : Nat) (j : Nat) : Field := ⟨R.chnrxEq i j, 27, 24⟩
def F.chnrxEqH3 (i : Nat) (j : Nat) : Field := ⟨R.chnrxEq i j, 23, 16⟩
def F.chnrxEqH2 (i : Nat) (j : Nat) : Field := ⟨R.chnrxEq i j, 15, 8⟩
def F.chnrxEqH1 (i : Nat) (j : Nat) : Field := ⟨R.chnrxEq i j, 7, 0⟩
/-- CHNp_RXk_FORCE. -/
def R.chnrxForce (i : Nat) (j : Nat) : Nat := 0x384004 + 0x10000 * i + 0x100 * j
def F.chnrxForceForce (i : Nat) (j : Nat) : Field := ⟨R.chnrxForce i j, 31, 31⟩
def F.chnrxForceEq (i : Nat) (j : Nat) : Field := ⟨R.chnrxForce i j, 27, 0⟩
/-- CHNp_RXk_STATUS. -/
def R.chnrxStatus (i : Nat) (j : Nat) : Nat := 0x384008 + 0x10000 * i + 0x100 * j
def F.chnrxStatusLastCode (i : Nat) (j : Nat) : Field := ⟨R.chnrxStatus i j, 31, 20⟩
def F.chnrxStatusFrozen (i : Nat) (j : Nat) : Field := ⟨R.chnrxStatus i j, 2, 2⟩
def F.chnrxStatusForced (i : Nat) (j : Nat) : Field := ⟨R.chnrxStatus i j, 1, 1⟩
def F.chnrxStatusAdapting (i : Nat) (j : Nat) : Field := ⟨R.chnrxStatus i j, 0, 0⟩
/-- CHNp_RXk_Q_EYE. -/
def R.chnrxQEye (i : Nat) (j : Nat) : Nat := 0x38400c + 0x10000 * i + 0x100 * j
def F.chnrxQEye (i : Nat) (j : Nat) : Field := ⟨R.chnrxQEye i j, 31, 0⟩
/-- CHNp_RXk_Q_WIDTH. -/
def R.chnrxQWidth (i : Nat) (j : Nat) : Nat := 0x384010 + 0x10000 * i + 0x100 * j
def F.chnrxQWidth (i : Nat) (j : Nat) : Field := ⟨R.chnrxQWidth i j, 31, 0⟩
/-- CHNp_RXk_Q_WIDTH_UP. -/
def R.chnrxQWidthUp (i : Nat) (j : Nat) : Nat := 0x384014 + 0x10000 * i + 0x100 * j
def F.chnrxQWidthUp (i : Nat) (j : Nat) : Field := ⟨R.chnrxQWidthUp i j, 31, 0⟩
/-- CHNp_RXk_RESID. -/
def R.chnrxResid (i : Nat) (j : Nat) : Nat := 0x384018 + 0x10000 * i + 0x100 * j
def F.chnrxResidCount (i : Nat) (j : Nat) : Field := ⟨R.chnrxResid i j, 31, 0⟩
/-- CHNp_RXk_DENSITY. -/
def R.chnrxDensity (i : Nat) (j : Nat) : Nat := 0x38401c + 0x10000 * i + 0x100 * j
def F.chnrxDensity (i : Nat) (j : Nat) : Field := ⟨R.chnrxDensity i j, 31, 0⟩

/-! Registers of 11_the_hold.md. -/

/-- HOLD_ECC_CORR. -/
def R.holdEccCorr : Nat := 0xa0000
def F.holdEccCorrCount : Field := ⟨R.holdEccCorr, 31, 0⟩
/-- HOLD_ECC_UNCORR. -/
def R.holdEccUncorr : Nat := 0xa0004
def F.holdEccUncorrCount : Field := ⟨R.holdEccUncorr, 31, 0⟩
/-- HOLD_ECC_ADDR. -/
def R.holdEccAddr : Nat := 0xa0008
def F.holdEccAddrAddr : Field := ⟨R.holdEccAddr, 29, 5⟩
/-- HOLD_COLLISIONS. -/
def R.holdCollisions : Nat := 0xa000c
def F.holdCollisionsCount : Field := ⟨R.holdCollisions, 31, 0⟩
/-- HOLD_COLL_ADDR. -/
def R.holdCollAddr : Nat := 0xa0010
def F.holdCollAddrAddr : Field := ⟨R.holdCollAddr, 29, 5⟩
/-- HOLD_COLL_MASTERS. -/
def R.holdCollMasters : Nat := 0xa0014
def F.holdCollMastersLater : Field := ⟨R.holdCollMasters, 15, 8⟩
def F.holdCollMastersEarlier : Field := ⟨R.holdCollMasters, 7, 0⟩
/-- HOLD_GROUP_STATUS. -/
def R.holdGroupStatus : Nat := 0xa0018
def F.holdGroupStatusLost : Field := ⟨R.holdGroupStatus, 31, 16⟩
def F.holdGroupStatusKept : Field := ⟨R.holdGroupStatus, 15, 0⟩
/-- HOLD_MARCH_CTRL. -/
def R.holdMarchCtrl : Nat := 0xa0100
def F.holdMarchCtrlBg : Field := ⟨R.holdMarchCtrl, 6, 6⟩
def F.holdMarchCtrlAlg : Field := ⟨R.holdMarchCtrl, 5, 5⟩
def F.holdMarchCtrlMode : Field := ⟨R.holdMarchCtrl, 4, 4⟩
def F.holdMarchCtrlOp : Field := ⟨R.holdMarchCtrl, 1, 0⟩
/-- HOLD_MARCH_RANGE. -/
def R.holdMarchRange : Nat := 0xa0104
def F.holdMarchRangeCount : Field := ⟨R.holdMarchRange, 16, 8⟩
def F.holdMarchRangeFirst : Field := ⟨R.holdMarchRange, 7, 0⟩
/-- HOLD_MARCH_BKG. -/
def R.holdMarchBkg : Nat := 0xa0108
def F.holdMarchBkgEn : Field := ⟨R.holdMarchBkg, 16, 16⟩
def F.holdMarchBkgIntervalUs : Field := ⟨R.holdMarchBkg, 15, 0⟩
/-- HOLD_MARCH_STATUS. -/
def R.holdMarchStatus : Nat := 0xa010c
def F.holdMarchStatusBusy : Field := ⟨R.holdMarchStatus, 31, 31⟩
def F.holdMarchStatusLastCode : Field := ⟨R.holdMarchStatus, 27, 16⟩
/-- HOLD_MARCH_POS. -/
def R.holdMarchPos : Nat := 0xa0110
def F.holdMarchPosWindow : Field := ⟨R.holdMarchPos, 18, 8⟩
def F.holdMarchPosBank : Field := ⟨R.holdMarchPos, 7, 0⟩
/-- HOLD_MARCH_FAIL. -/
def R.holdMarchFail : Nat := 0xa0114
def F.holdMarchFailAddr : Field := ⟨R.holdMarchFail, 29, 5⟩
/-- HOLD_MARCH_FAIL_BIT. -/
def R.holdMarchFailBit : Nat := 0xa0118
def F.holdMarchFailBitElement : Field := ⟨R.holdMarchFailBit, 11, 9⟩
def F.holdMarchFailBitBit : Field := ⟨R.holdMarchFailBit, 8, 0⟩
/-- HOLD_MARCH_FAULTS. -/
def R.holdMarchFaults : Nat := 0xa011c
def F.holdMarchFaultsCount : Field := ⟨R.holdMarchFaults, 31, 0⟩
/-- HOLD_MARCH_YIELDS. -/
def R.holdMarchYields : Nat := 0xa0120
def F.holdMarchYieldsCount : Field := ⟨R.holdMarchYields, 31, 0⟩
/-- HOLD_MARCH_SKIPS. -/
def R.holdMarchSkips : Nat := 0xa0124
def F.holdMarchSkipsCount : Field := ⟨R.holdMarchSkips, 31, 0⟩
/-- HOLD_REPAIR_CMD. -/
def R.holdRepairCmd : Nat := 0xa0200
def F.holdRepairCmdRow : Field := ⟨R.holdRepairCmd, 19, 10⟩
def F.holdRepairCmdBank : Field := ⟨R.holdRepairCmd, 9, 2⟩
def F.holdRepairCmdOp : Field := ⟨R.holdRepairCmd, 1, 0⟩
/-- HOLD_REPAIR_STATUS. -/
def R.holdRepairStatus : Nat := 0xa0204
def F.holdRepairStatusBusy : Field := ⟨R.holdRepairStatus, 31, 31⟩
def F.holdRepairStatusLastCode : Field := ⟨R.holdRepairStatus, 27, 16⟩
def F.holdRepairStatusBanksFree : Field := ⟨R.holdRepairStatus, 4, 0⟩
/-- HOLD_OWNERn. -/
def R.holdOwner (i : Nat) : Nat := 0xa1000 + 0x4 * i
def F.holdOwnerReliefBank (i : Nat) : Field := ⟨R.holdOwner i, 21, 21⟩
def F.holdOwnerRowsUsed (i : Nat) : Field := ⟨R.holdOwner i, 20, 16⟩
def F.holdOwnerLocked (i : Nat) : Field := ⟨R.holdOwner i, 10, 10⟩
def F.holdOwnerWinterKeep (i : Nat) : Field := ⟨R.holdOwner i, 9, 9⟩
def F.holdOwnerNoBorrow (i : Nat) : Field := ⟨R.holdOwner i, 8, 8⟩
def F.holdOwnerOwner (i : Nat) : Field := ⟨R.holdOwner i, 7, 0⟩
/-- HOLD_FERRYn. -/
def R.holdFerry (i : Nat) : Nat := 0xa1400 + 0x4 * i
def F.holdFerryPending (i : Nat) : Field := ⟨R.holdFerry i, 31, 31⟩
def F.holdFerryLastCode (i : Nat) : Field := ⟨R.holdFerry i, 27, 16⟩
def F.holdFerryTarget (i : Nat) : Field := ⟨R.holdFerry i, 7, 0⟩
/-- HOLD_CONFLICTm. -/
def R.holdConflict (i : Nat) : Nat := 0xa2000 + 0x4 * i
def F.holdConflictCount (i : Nat) : Field := ⟨R.holdConflict i, 31, 0⟩

/-! Registers of 12_dma.md. -/

/-- DMAn_CTRL. -/
def R.dmaCtrl (i : Nat) : Nat := 0x80000 + 0x400 * i
def F.dmaCtrlResume (i : Nat) : Field := ⟨R.dmaCtrl i, 2, 2⟩
def F.dmaCtrlAbort (i : Nat) : Field := ⟨R.dmaCtrl i, 1, 1⟩
def F.dmaCtrlStart (i : Nat) : Field := ⟨R.dmaCtrl i, 0, 0⟩
/-- DMAn_DESC_LO. -/
def R.dmaDescLo (i : Nat) : Nat := 0x80004 + 0x400 * i
def F.dmaDescLoAddr (i : Nat) : Field := ⟨R.dmaDescLo i, 31, 6⟩
def F.dmaDescLoSpace (i : Nat) : Field := ⟨R.dmaDescLo i, 0, 0⟩
/-- DMAn_DESC_HI. -/
def R.dmaDescHi (i : Nat) : Nat := 0x80008 + 0x400 * i
def F.dmaDescHiAddr (i : Nat) : Field := ⟨R.dmaDescHi i, 31, 0⟩
/-- DMAn_STATUS. -/
def R.dmaStatus (i : Nat) : Nat := 0x8000c + 0x400 * i
def F.dmaStatusLastCode (i : Nat) : Field := ⟨R.dmaStatus i, 27, 16⟩
def F.dmaStatusHeld (i : Nat) : Field := ⟨R.dmaStatus i, 9, 9⟩
def F.dmaStatusFrozen (i : Nat) : Field := ⟨R.dmaStatus i, 8, 8⟩
def F.dmaStatusDescending (i : Nat) : Field := ⟨R.dmaStatus i, 5, 5⟩
def F.dmaStatusFunnel (i : Nat) : Field := ⟨R.dmaStatus i, 4, 4⟩
def F.dmaStatusState (i : Nat) : Field := ⟨R.dmaStatus i, 2, 0⟩
/-- DMAn_CUR_LO. -/
def R.dmaCurLo (i : Nat) : Nat := 0x80010 + 0x400 * i
def F.dmaCurLoAddr (i : Nat) : Field := ⟨R.dmaCurLo i, 31, 6⟩
def F.dmaCurLoSpace (i : Nat) : Field := ⟨R.dmaCurLo i, 0, 0⟩
/-- DMAn_CUR_HI. -/
def R.dmaCurHi (i : Nat) : Nat := 0x80014 + 0x400 * i
def F.dmaCurHiAddr (i : Nat) : Field := ⟨R.dmaCurHi i, 31, 0⟩
/-- DMAn_RESIDUE. -/
def R.dmaResidue (i : Nat) : Nat := 0x80018 + 0x400 * i
def F.dmaResidueBytes (i : Nat) : Field := ⟨R.dmaResidue i, 31, 0⟩
/-- DMAn_NP_CAP. -/
def R.dmaNpCap (i : Nat) : Nat := 0x8001c + 0x400 * i
def F.dmaNpCapCap (i : Nat) : Field := ⟨R.dmaNpCap i, 11, 0⟩
/-- DMAn_RATE. -/
def R.dmaRate (i : Nat) : Nat := 0x80020 + 0x400 * i
def F.dmaRateEn (i : Nat) : Field := ⟨R.dmaRate i, 16, 16⟩
def F.dmaRateShare (i : Nat) : Field := ⟨R.dmaRate i, 8, 0⟩
/-- DMAn_FUNC. -/
def R.dmaFunc (i : Nat) : Nat := 0x80024 + 0x400 * i
def F.dmaFuncFunc (i : Nat) : Field := ⟨R.dmaFunc i, 4, 0⟩
/-- DMAn_WIN_BASE_LO. -/
def R.dmaWinBaseLo (i : Nat) : Nat := 0x80028 + 0x400 * i
def F.dmaWinBaseLoAddr (i : Nat) : Field := ⟨R.dmaWinBaseLo i, 31, 5⟩
/-- DMAn_WIN_BASE_HI. -/
def R.dmaWinBaseHi (i : Nat) : Nat := 0x8002c + 0x400 * i
def F.dmaWinBaseHiAddr (i : Nat) : Field := ⟨R.dmaWinBaseHi i, 31, 0⟩
/-- DMAn_WIN_LIMIT_LO. -/
def R.dmaWinLimitLo (i : Nat) : Nat := 0x80030 + 0x400 * i
def F.dmaWinLimitLoAddr (i : Nat) : Field := ⟨R.dmaWinLimitLo i, 31, 5⟩
/-- DMAn_WIN_LIMIT_HI. -/
def R.dmaWinLimitHi (i : Nat) : Nat := 0x80034 + 0x400 * i
def F.dmaWinLimitHiAddr (i : Nat) : Field := ⟨R.dmaWinLimitHi i, 31, 0⟩
/-- DMAn_FAULT_ADDR_LO. -/
def R.dmaFaultAddrLo (i : Nat) : Nat := 0x80038 + 0x400 * i
def F.dmaFaultAddrLoAddr (i : Nat) : Field := ⟨R.dmaFaultAddrLo i, 31, 0⟩
/-- DMAn_FAULT_ADDR_HI. -/
def R.dmaFaultAddrHi (i : Nat) : Nat := 0x8003c + 0x400 * i
def F.dmaFaultAddrHiAddr (i : Nat) : Field := ⟨R.dmaFaultAddrHi i, 31, 0⟩
/-- DMAn_FAULT_DIR. -/
def R.dmaFaultDir (i : Nat) : Nat := 0x80040 + 0x400 * i
def F.dmaFaultDirDesc (i : Nat) : Field := ⟨R.dmaFaultDir i, 8, 8⟩
def F.dmaFaultDirSpace (i : Nat) : Field := ⟨R.dmaFaultDir i, 1, 1⟩
def F.dmaFaultDirDir (i : Nat) : Field := ⟨R.dmaFaultDir i, 0, 0⟩
/-- DMAn_DONE_COUNT. -/
def R.dmaDoneCount (i : Nat) : Nat := 0x80044 + 0x400 * i
def F.dmaDoneCountCount (i : Nat) : Field := ⟨R.dmaDoneCount i, 31, 0⟩
/-- DMAn_LAST_USER. -/
def R.dmaLastUser (i : Nat) : Nat := 0x80048 + 0x400 * i
def F.dmaLastUserUser (i : Nat) : Field := ⟨R.dmaLastUser i, 31, 0⟩
/-- DMAn_NP_INFLIGHT. -/
def R.dmaNpInflight (i : Nat) : Nat := 0x8004c + 0x400 * i
def F.dmaNpInflightCount (i : Nat) : Field := ⟨R.dmaNpInflight i, 11, 0⟩

/-! Registers of 13_eddy_codec.md. -/

/-- EDDYn_CMD. -/
def R.eddyCmd (i : Nat) : Nat := 0xc0000 + 0x1000 * i
def F.eddyCmdOp (i : Nat) : Field := ⟨R.eddyCmd i, 3, 0⟩
/-- EDDYn_CFG. -/
def R.eddyCfg (i : Nat) : Nat := 0xc0004 + 0x1000 * i
def F.eddyCfgDepth (i : Nat) : Field := ⟨R.eddyCfg i, 13, 12⟩
def F.eddyCfgMode (i : Nat) : Field := ⟨R.eddyCfg i, 8, 8⟩
def F.eddyCfgDir (i : Nat) : Field := ⟨R.eddyCfg i, 4, 4⟩
def F.eddyCfgCarry (i : Nat) : Field := ⟨R.eddyCfg i, 3, 3⟩
def F.eddyCfgFinal (i : Nat) : Field := ⟨R.eddyCfg i, 2, 2⟩
def F.eddyCfgRawIn (i : Nat) : Field := ⟨R.eddyCfg i, 1, 1⟩
/-- EDDYn_IN_ADDR. -/
def R.eddyInAddr (i : Nat) : Nat := 0xc0008 + 0x1000 * i
def F.eddyInAddrAddr (i : Nat) : Field := ⟨R.eddyInAddr i, 29, 0⟩
/-- EDDYn_IN_LEN. -/
def R.eddyInLen (i : Nat) : Nat := 0xc000c + 0x1000 * i
def F.eddyInLenBytes (i : Nat) : Field := ⟨R.eddyInLen i, 31, 0⟩
/-- EDDYn_OUT_ADDR. -/
def R.eddyOutAddr (i : Nat) : Nat := 0xc0010 + 0x1000 * i
def F.eddyOutAddrAddr (i : Nat) : Field := ⟨R.eddyOutAddr i, 29, 0⟩
/-- EDDYn_OUT_LEN. -/
def R.eddyOutLen (i : Nat) : Nat := 0xc0014 + 0x1000 * i
def F.eddyOutLenBytes (i : Nat) : Field := ⟨R.eddyOutLen i, 31, 0⟩
/-- EDDYn_GEOM. -/
def R.eddyGeom (i : Nat) : Nat := 0xc0018 + 0x1000 * i
def F.eddyGeomRows (i : Nat) : Field := ⟨R.eddyGeom i, 31, 16⟩
def F.eddyGeomWidth (i : Nat) : Field := ⟨R.eddyGeom i, 15, 0⟩
/-- EDDYn_CTX_ADDR. -/
def R.eddyCtxAddr (i : Nat) : Nat := 0xc001c + 0x1000 * i
def F.eddyCtxAddrAddr (i : Nat) : Field := ⟨R.eddyCtxAddr i, 29, 5⟩
/-- EDDYn_STATUS. -/
def R.eddyStatus (i : Nat) : Nat := 0xc0020 + 0x1000 * i
def F.eddyStatusErr (i : Nat) : Field := ⟨R.eddyStatus i, 11, 8⟩
def F.eddyStatusFrozen (i : Nat) : Field := ⟨R.eddyStatus i, 7, 7⟩
def F.eddyStatusInternal (i : Nat) : Field := ⟨R.eddyStatus i, 6, 6⟩
def F.eddyStatusPending (i : Nat) : Field := ⟨R.eddyStatus i, 5, 5⟩
def F.eddyStatusRaw (i : Nat) : Field := ⟨R.eddyStatus i, 4, 4⟩
def F.eddyStatusCtxValid (i : Nat) : Field := ⟨R.eddyStatus i, 3, 3⟩
def F.eddyStatusState (i : Nat) : Field := ⟨R.eddyStatus i, 2, 0⟩
/-- EDDYn_IN_DONE. -/
def R.eddyInDone (i : Nat) : Nat := 0xc0024 + 0x1000 * i
def F.eddyInDoneBytes (i : Nat) : Field := ⟨R.eddyInDone i, 31, 0⟩
/-- EDDYn_OUT_DONE. -/
def R.eddyOutDone (i : Nat) : Nat := 0xc0028 + 0x1000 * i
def F.eddyOutDoneBytes (i : Nat) : Field := ⟨R.eddyOutDone i, 31, 0⟩
/-- EDDYn_BITS. -/
def R.eddyBits (i : Nat) : Nat := 0xc002c + 0x1000 * i
def F.eddyBitsOutBits (i : Nat) : Field := ⟨R.eddyBits i, 10, 8⟩
def F.eddyBitsInBits (i : Nat) : Field := ⟨R.eddyBits i, 2, 0⟩
/-- EDDYn_FAULT_ADDR. -/
def R.eddyFaultAddr (i : Nat) : Nat := 0xc0030 + 0x1000 * i
def F.eddyFaultAddrAddr (i : Nat) : Field := ⟨R.eddyFaultAddr i, 29, 0⟩
/-- EDDYn_JOBS. -/
def R.eddyJobs (i : Nat) : Nat := 0xc0034 + 0x1000 * i
def F.eddyJobsCount (i : Nat) : Field := ⟨R.eddyJobs i, 31, 0⟩

/-! Registers of 14_ndoben_chain.md. -/

/-- CHNp_CTRL. -/
def R.chnpCtrl (i : Nat) : Nat := 0x380000 + 0x10000 * i
def F.chnpCtrlEn (i : Nat) : Field := ⟨R.chnpCtrl i, 0, 0⟩
/-- CHNp_STATUS. -/
def R.chnpStatus (i : Nat) : Nat := 0x380004 + 0x10000 * i
def F.chnpStatusPeer (i : Nat) : Field := ⟨R.chnpStatus i, 31, 16⟩
def F.chnpStatusRole (i : Nat) : Field := ⟨R.chnpStatus i, 9, 8⟩
def F.chnpStatusFrozen (i : Nat) : Field := ⟨R.chnpStatus i, 4, 4⟩
def F.chnpStatusRelief (i : Nat) : Field := ⟨R.chnpStatus i, 3, 3⟩
def F.chnpStatusState (i : Nat) : Field := ⟨R.chnpStatus i, 2, 0⟩
/-- CHNp_FEC_CORR. -/
def R.chnpFecCorr (i : Nat) : Nat := 0x380008 + 0x10000 * i
def F.chnpFecCorrCount (i : Nat) : Field := ⟨R.chnpFecCorr i, 31, 0⟩
/-- CHNp_FEC_UNCORR. -/
def R.chnpFecUncorr (i : Nat) : Nat := 0x38000c + 0x10000 * i
def F.chnpFecUncorrCount (i : Nat) : Field := ⟨R.chnpFecUncorr i, 31, 0⟩
/-- CHNp_SHORT_ERRS. -/
def R.chnpShortErrs (i : Nat) : Nat := 0x380010 + 0x10000 * i
def F.chnpShortErrsDrops (i : Nat) : Field := ⟨R.chnpShortErrs i, 31, 16⟩
def F.chnpShortErrsCrc (i : Nat) : Field := ⟨R.chnpShortErrs i, 15, 0⟩
/-- CHNp_DOWNS. -/
def R.chnpDowns (i : Nat) : Nat := 0x380014 + 0x10000 * i
def F.chnpDownsCount (i : Nat) : Field := ⟨R.chnpDowns i, 31, 0⟩
/-- CHNp_CREDITS. -/
def R.chnpCredits (i : Nat) : Nat := 0x380018 + 0x10000 * i
def F.chnpCreditsOutstanding (i : Nat) : Field := ⟨R.chnpCredits i, 8, 0⟩
/-- CHN_ADDR. -/
def R.chnAddr : Nat := 0x3b0000
def F.chnAddrRoot : Field := ⟨R.chnAddr, 16, 16⟩
def F.chnAddrAddr : Field := ⟨R.chnAddr, 15, 0⟩
/-- CHN_TOPO. -/
def R.chnTopo : Nat := 0x3b0004
def F.chnTopoUpstream : Field := ⟨R.chnTopo, 5, 4⟩
def F.chnTopoRingState : Field := ⟨R.chnTopo, 3, 2⟩
def F.chnTopoTopology : Field := ⟨R.chnTopo, 1, 0⟩
/-- CHN_BOARD. -/
def R.chnBoard : Nat := 0x3b0008
def F.chnBoardTimeoutMs : Field := ⟨R.chnBoard, 31, 16⟩
def F.chnBoardStart : Field := ⟨R.chnBoard, 0, 0⟩
/-- CHN_BOARD_STATUS. -/
def R.chnBoardStatus : Nat := 0x3b000c
def F.chnBoardStatusBusy : Field := ⟨R.chnBoardStatus, 31, 31⟩
def F.chnBoardStatusLastCode : Field := ⟨R.chnBoardStatus, 27, 16⟩
def F.chnBoardStatusUnits : Field := ⟨R.chnBoardStatus, 15, 0⟩
/-- CHN_RING. -/
def R.chnRing : Nat := 0x3b0010
def F.chnRingRestore : Field := ⟨R.chnRing, 0, 0⟩
/-- CHN_SERIAL_LO. -/
def R.chnSerialLo : Nat := 0x3b0014
def F.chnSerialLoSerial : Field := ⟨R.chnSerialLo, 31, 0⟩
/-- CHN_SERIAL_HI. -/
def R.chnSerialHi : Nat := 0x3b0018
def F.chnSerialHiSerial : Field := ⟨R.chnSerialHi, 31, 0⟩
/-- CHN_RA_DST. -/
def R.chnRaDst : Nat := 0x3b0020
def F.chnRaDstDst : Field := ⟨R.chnRaDst, 15, 0⟩
/-- CHN_RA_HOLD. -/
def R.chnRaHold : Nat := 0x3b0024
def F.chnRaHoldAddr : Field := ⟨R.chnRaHold, 29, 5⟩
/-- CHN_RA_CMD. -/
def R.chnRaCmd : Nat := 0x3b0028
def F.chnRaCmdOp : Field := ⟨R.chnRaCmd, 1, 0⟩
/-- CHN_RA_STATUS. -/
def R.chnRaStatus : Nat := 0x3b002c
def F.chnRaStatusBusy : Field := ⟨R.chnRaStatus, 31, 31⟩
def F.chnRaStatusCode : Field := ⟨R.chnRaStatus, 27, 16⟩
/-- CHN_RA_TIMEOUT. -/
def R.chnRaTimeout : Nat := 0x3b0030
def F.chnRaTimeoutUs : Field := ⟨R.chnRaTimeout, 15, 0⟩
/-- CHN_RA_DATAk. -/
def R.chnRaData (i : Nat) : Nat := 0x3b0040 + 0x4 * i
def F.chnRaDataData (i : Nat) : Field := ⟨R.chnRaData i, 31, 0⟩
/-- CHN_SENSOR_TX. -/
def R.chnSensorTx : Nat := 0x3b0060
def F.chnSensorTxTemp : Field := ⟨R.chnSensorTx, 31, 16⟩
def F.chnSensorTxSensor : Field := ⟨R.chnSensorTx, 7, 0⟩
/-- CHN_SENSOR_DST. -/
def R.chnSensorDst : Nat := 0x3b0064
def F.chnSensorDstDst : Field := ⟨R.chnSensorDst, 15, 0⟩
/-- CHN_TBL_INDEX. -/
def R.chnTblIndex : Nat := 0x3b0070
def F.chnTblIndexAddr : Field := ⟨R.chnTblIndex, 15, 0⟩
/-- CHN_TBL_MGMT. -/
def R.chnTblMgmt : Nat := 0x3b0074
def F.chnTblMgmtPresent : Field := ⟨R.chnTblMgmt, 31, 31⟩
def F.chnTblMgmtDisagree : Field := ⟨R.chnTblMgmt, 30, 30⟩
def F.chnTblMgmtPort : Field := ⟨R.chnTblMgmt, 25, 24⟩
def F.chnTblMgmtHops : Field := ⟨R.chnTblMgmt, 23, 16⟩
/-- CHN_TBL_DATA. -/
def R.chnTblData : Nat := 0x3b0078
def F.chnTblDataLive : Field := ⟨R.chnTblData, 31, 31⟩
def F.chnTblDataPort : Field := ⟨R.chnTblData, 25, 24⟩
def F.chnTblDataHops : Field := ⟨R.chnTblData, 23, 16⟩
def F.chnTblDataAgeMs : Field := ⟨R.chnTblData, 15, 0⟩
/-- CHN_DISAGREE_COUNT. -/
def R.chnDisagreeCount : Nat := 0x3b007c
def F.chnDisagreeCountCount : Field := ⟨R.chnDisagreeCount, 31, 0⟩
/-- CHN_TXSn_CTRL. -/
def R.chnTxsCtrl (i : Nat) : Nat := 0x3b0100 + 0x20 * i
def F.chnTxsCtrlStream (i : Nat) : Field := ⟨R.chnTxsCtrl i, 23, 16⟩
def F.chnTxsCtrlEn (i : Nat) : Field := ⟨R.chnTxsCtrl i, 0, 0⟩
/-- CHN_TXSn_DST. -/
def R.chnTxsDst (i : Nat) : Nat := 0x3b0104 + 0x20 * i
def F.chnTxsDstDst (i : Nat) : Field := ⟨R.chnTxsDst i, 15, 0⟩
/-- CHN_TXSn_STATUS. -/
def R.chnTxsStatus (i : Nat) : Nat := 0x3b0108 + 0x20 * i
def F.chnTxsStatusLastCode (i : Nat) : Field := ⟨R.chnTxsStatus i, 27, 16⟩
def F.chnTxsStatusFrameSeq (i : Nat) : Field := ⟨R.chnTxsStatus i, 15, 0⟩
/-- CHN_TXSn_SKIPS. -/
def R.chnTxsSkips (i : Nat) : Nat := 0x3b010c + 0x20 * i
def F.chnTxsSkipsCount (i : Nat) : Field := ⟨R.chnTxsSkips i, 31, 0⟩
/-- CHN_RXSm_CTRL. -/
def R.chnRxsCtrl (i : Nat) : Nat := 0x3b0200 + 0x20 * i
def F.chnRxsCtrlStream (i : Nat) : Field := ⟨R.chnRxsCtrl i, 23, 16⟩
def F.chnRxsCtrlEn (i : Nat) : Field := ⟨R.chnRxsCtrl i, 0, 0⟩
/-- CHN_RXSm_SRC. -/
def R.chnRxsSrc (i : Nat) : Nat := 0x3b0204 + 0x20 * i
def F.chnRxsSrcSrc (i : Nat) : Field := ⟨R.chnRxsSrc i, 15, 0⟩
/-- CHN_RXSm_STATUS. -/
def R.chnRxsStatus (i : Nat) : Nat := 0x3b0208 + 0x20 * i
def F.chnRxsStatusLastCode (i : Nat) : Field := ⟨R.chnRxsStatus i, 27, 16⟩
def F.chnRxsStatusFrameSeq (i : Nat) : Field := ⟨R.chnRxsStatus i, 15, 0⟩
/-- CHN_RXSm_DROPS. -/
def R.chnRxsDrops (i : Nat) : Nat := 0x3b020c + 0x20 * i
def F.chnRxsDropsCount (i : Nat) : Field := ⟨R.chnRxsDrops i, 31, 0⟩
/-- CHN_RXSm_FRAMES. -/
def R.chnRxsFrames (i : Nat) : Nat := 0x3b0210 + 0x20 * i
def F.chnRxsFramesCount (i : Nat) : Field := ⟨R.chnRxsFrames i, 31, 0⟩

/-! Registers of 15_time_reference.md. -/

/-- TIME_CTRL. -/
def R.timeCtrl : Nat := 0x50000
def F.timeCtrlFrameOut : Field := ⟨R.timeCtrl, 9, 8⟩
def F.timeCtrlSecond : Field := ⟨R.timeCtrl, 0, 0⟩
/-- TIME_STATUS. -/
def R.timeStatus : Nat := 0x50004
def F.timeStatusLastCode : Field := ⟨R.timeStatus, 27, 16⟩
def F.timeStatusTimePort : Field := ⟨R.timeStatus, 9, 8⟩
def F.timeStatusDegraded : Field := ⟨R.timeStatus, 7, 7⟩
def F.timeStatusHoldover : Field := ⟨R.timeStatus, 6, 6⟩
def F.timeStatusLocked : Field := ⟨R.timeStatus, 5, 5⟩
def F.timeStatusDisciplined : Field := ⟨R.timeStatus, 4, 4⟩
def F.timeStatusStepPending : Field := ⟨R.timeStatus, 3, 3⟩
def F.timeStatusJumpPending : Field := ⟨R.timeStatus, 2, 2⟩
/-- TIME_NS_LO. -/
def R.timeNsLo : Nat := 0x50008
def F.timeNsLoNs : Field := ⟨R.timeNsLo, 31, 0⟩
/-- TIME_NS_HI. -/
def R.timeNsHi : Nat := 0x5000c
def F.timeNsHiNs : Field := ⟨R.timeNsHi, 31, 0⟩
/-- TIME_FRAC. -/
def R.timeFrac : Nat := 0x50010
def F.timeFracFrac : Field := ⟨R.timeFrac, 31, 0⟩
/-- TIME_EPOCH. -/
def R.timeEpoch : Nat := 0x50014
def F.timeEpochEpoch : Field := ⟨R.timeEpoch, 15, 0⟩
/-- TIME_INCR_LO. -/
def R.timeIncrLo : Nat := 0x50018
def F.timeIncrLoFrac : Field := ⟨R.timeIncrLo, 31, 0⟩
/-- TIME_INCR_HI. -/
def R.timeIncrHi : Nat := 0x5001c
def F.timeIncrHiNs : Field := ⟨R.timeIncrHi, 31, 0⟩
/-- TIME_SLEW. -/
def R.timeSlew : Nat := 0x50020
def F.timeSlewNs : Field := ⟨R.timeSlew, 31, 0⟩
/-- TIME_SLEW_MAX. -/
def R.timeSlewMax : Nat := 0x50024
def F.timeSlewMaxNsPerS : Field := ⟨R.timeSlewMax, 19, 0⟩
/-- TIME_STEP_LO. -/
def R.timeStepLo : Nat := 0x50028
def F.timeStepLoNs : Field := ⟨R.timeStepLo, 31, 0⟩
/-- TIME_STEP_HI. -/
def R.timeStepHi : Nat := 0x5002c
def F.timeStepHiNs : Field := ⟨R.timeStepHi, 31, 0⟩
/-- TIME_JUMP_LIMIT. -/
def R.timeJumpLimit : Nat := 0x50030
def F.timeJumpLimitNs : Field := ⟨R.timeJumpLimit, 31, 0⟩
/-- TIME_OFFSET. -/
def R.timeOffset : Nat := 0x50034
def F.timeOffsetOffset : Field := ⟨R.timeOffset, 31, 0⟩
/-- TIME_ASYMp. -/
def R.timeAsym (i : Nat) : Nat := 0x50040 + 0x4 * i
def F.timeAsymAsym (i : Nat) : Field := ⟨R.timeAsym i, 31, 0⟩
/-- TIME_DELAYp. -/
def R.timeDelay (i : Nat) : Nat := 0x50050 + 0x4 * i
def F.timeDelayDelay (i : Nat) : Field := ⟨R.timeDelay i, 31, 0⟩
/-- TIME_PTM_CTRL. -/
def R.timePtmCtrl : Nat := 0x50060
def F.timePtmCtrlEn : Field := ⟨R.timePtmCtrl, 16, 16⟩
def F.timePtmCtrlPeriodMs : Field := ⟨R.timePtmCtrl, 15, 0⟩
/-- TIME_PTM_OFFSET_LO. -/
def R.timePtmOffsetLo : Nat := 0x50064
def F.timePtmOffsetLoNs : Field := ⟨R.timePtmOffsetLo, 31, 0⟩
/-- TIME_PTM_OFFSET_HI. -/
def R.timePtmOffsetHi : Nat := 0x50068
def F.timePtmOffsetHiNs : Field := ⟨R.timePtmOffsetHi, 31, 0⟩
/-- TIME_CAPk_LO. -/
def R.timeCapLo (i : Nat) : Nat := 0x50080 + 0x10 * i
def F.timeCapLoNs (i : Nat) : Field := ⟨R.timeCapLo i, 31, 0⟩
/-- TIME_CAPk_HI. -/
def R.timeCapHi (i : Nat) : Nat := 0x50084 + 0x10 * i
def F.timeCapHiNs (i : Nat) : Field := ⟨R.timeCapHi i, 31, 0⟩
/-- TIME_CAPk_FRAC. -/
def R.timeCapFrac (i : Nat) : Nat := 0x50088 + 0x10 * i
def F.timeCapFracFrac (i : Nat) : Field := ⟨R.timeCapFrac i, 31, 0⟩
/-- TIME_CAPk_META. -/
def R.timeCapMeta (i : Nat) : Nat := 0x5008c + 0x10 * i
def F.timeCapMetaEpoch (i : Nat) : Field := ⟨R.timeCapMeta i, 31, 16⟩
def F.timeCapMetaInWin (i : Nat) : Field := ⟨R.timeCapMeta i, 11, 8⟩
def F.timeCapMetaNew (i : Nat) : Field := ⟨R.timeCapMeta i, 0, 0⟩
/-- TIME_SWLOG_HEAD. -/
def R.timeSwlogHead : Nat := 0x500d0
def F.timeSwlogHeadEpoch : Field := ⟨R.timeSwlogHead, 31, 16⟩
def F.timeSwlogHeadSource : Field := ⟨R.timeSwlogHead, 9, 0⟩
/-- TIME_SWLOG_LO. -/
def R.timeSwlogLo : Nat := 0x500d4
def F.timeSwlogLoNs : Field := ⟨R.timeSwlogLo, 31, 0⟩
/-- TIME_SWLOG_HI. -/
def R.timeSwlogHi : Nat := 0x500d8
def F.timeSwlogHiNs : Field := ⟨R.timeSwlogHi, 31, 0⟩
/-- TIME_SWLOG_FRAC. -/
def R.timeSwlogFrac : Nat := 0x500dc
def F.timeSwlogFracFrac : Field := ⟨R.timeSwlogFrac, 31, 0⟩
/-- TIME_SWLOG_COUNT. -/
def R.timeSwlogCount : Nat := 0x500e0
def F.timeSwlogCountCount : Field := ⟨R.timeSwlogCount, 5, 0⟩
/-- TIME_SWLOG_POP. -/
def R.timeSwlogPop : Nat := 0x500e4
def F.timeSwlogPopPop : Field := ⟨R.timeSwlogPop, 0, 0⟩
/-- TIME_SWLOG_DROPS. -/
def R.timeSwlogDrops : Nat := 0x500e8
def F.timeSwlogDropsCount : Field := ⟨R.timeSwlogDrops, 31, 0⟩
/-- TIME_TXQ_HEAD. -/
def R.timeTxqHead : Nat := 0x500f0
def F.timeTxqHeadEpoch : Field := ⟨R.timeTxqHead, 31, 16⟩
def F.timeTxqHeadId : Field := ⟨R.timeTxqHead, 15, 0⟩
/-- TIME_TXQ_LO. -/
def R.timeTxqLo : Nat := 0x500f4
def F.timeTxqLoNs : Field := ⟨R.timeTxqLo, 31, 0⟩
/-- TIME_TXQ_HI. -/
def R.timeTxqHi : Nat := 0x500f8
def F.timeTxqHiNs : Field := ⟨R.timeTxqHi, 31, 0⟩
/-- TIME_TXQ_FRAC. -/
def R.timeTxqFrac : Nat := 0x500fc
def F.timeTxqFracFrac : Field := ⟨R.timeTxqFrac, 31, 0⟩
/-- TIME_TXQ_CTRL. -/
def R.timeTxqCtrl : Nat := 0x50100
def F.timeTxqCtrlEn : Field := ⟨R.timeTxqCtrl, 8, 8⟩
def F.timeTxqCtrlCount : Field := ⟨R.timeTxqCtrl, 4, 0⟩
/-- TIME_TXQ_POP. -/
def R.timeTxqPop : Nat := 0x50104
def F.timeTxqPopPop : Field := ⟨R.timeTxqPop, 0, 0⟩
/-- TIME_TXQ_OVERFLOW. -/
def R.timeTxqOverflow : Nat := 0x50108
def F.timeTxqOverflowCount : Field := ⟨R.timeTxqOverflow, 31, 0⟩
/-- TIME_WINk_OPEN_LO. -/
def R.timeWinOpenLo (i : Nat) : Nat := 0x50140 + 0x20 * i
def F.timeWinOpenLoNs (i : Nat) : Field := ⟨R.timeWinOpenLo i, 31, 0⟩
/-- TIME_WINk_OPEN_HI. -/
def R.timeWinOpenHi (i : Nat) : Nat := 0x50144 + 0x20 * i
def F.timeWinOpenHiNs (i : Nat) : Field := ⟨R.timeWinOpenHi i, 31, 0⟩
/-- TIME_WINk_CLOSE_LO. -/
def R.timeWinCloseLo (i : Nat) : Nat := 0x50148 + 0x20 * i
def F.timeWinCloseLoNs (i : Nat) : Field := ⟨R.timeWinCloseLo i, 31, 0⟩
/-- TIME_WINk_CLOSE_HI. -/
def R.timeWinCloseHi (i : Nat) : Nat := 0x5014c + 0x20 * i
def F.timeWinCloseHiNs (i : Nat) : Field := ⟨R.timeWinCloseHi i, 31, 0⟩
/-- TIME_WINk_CTRL. -/
def R.timeWinCtrl (i : Nat) : Nat := 0x50150 + 0x20 * i
def F.timeWinCtrlEpoch (i : Nat) : Field := ⟨R.timeWinCtrl i, 31, 16⟩
def F.timeWinCtrlOpen (i : Nat) : Field := ⟨R.timeWinCtrl i, 1, 1⟩
def F.timeWinCtrlEn (i : Nat) : Field := ⟨R.timeWinCtrl i, 0, 0⟩
/-- TIME_REFk_CFG. -/
def R.timeRefCfg (i : Nat) : Nat := 0x50200 + 0x10 * i
def F.timeRefCfgEn (i : Nat) : Field := ⟨R.timeRefCfg i, 31, 31⟩
def F.timeRefCfgMode (i : Nat) : Field := ⟨R.timeRefCfg i, 30, 28⟩
def F.timeRefCfgOut (i : Nat) : Field := ⟨R.timeRefCfg i, 25, 24⟩
def F.timeRefCfgPol (i : Nat) : Field := ⟨R.timeRefCfg i, 20, 20⟩
def F.timeRefCfgWinEn (i : Nat) : Field := ⟨R.timeRefCfg i, 16, 16⟩
def F.timeRefCfgWin (i : Nat) : Field := ⟨R.timeRefCfg i, 1, 0⟩
/-- TIME_REFk_WIDTH. -/
def R.timeRefWidth (i : Nat) : Nat := 0x50204 + 0x10 * i
def F.timeRefWidthNs (i : Nat) : Field := ⟨R.timeRefWidth i, 31, 0⟩
/-- TIME_REFk_DIV. -/
def R.timeRefDiv (i : Nat) : Nat := 0x50208 + 0x10 * i
def F.timeRefDivDiv (i : Nat) : Field := ⟨R.timeRefDiv i, 15, 0⟩
/-- TIME_LTCOk_CFG. -/
def R.timeLtcoCfg (i : Nat) : Nat := 0x50300 + 0x20 * i
def F.timeLtcoCfgEn (i : Nat) : Field := ⟨R.timeLtcoCfg i, 31, 31⟩
def F.timeLtcoCfgRate (i : Nat) : Field := ⟨R.timeLtcoCfg i, 19, 16⟩
def F.timeLtcoCfgJam (i : Nat) : Field := ⟨R.timeLtcoCfg i, 8, 8⟩
/-- TIME_LTCOk_BASE_NS_LO. -/
def R.timeLtcoBaseNsLo (i : Nat) : Nat := 0x50304 + 0x20 * i
def F.timeLtcoBaseNsLoNs (i : Nat) : Field := ⟨R.timeLtcoBaseNsLo i, 31, 0⟩
/-- TIME_LTCOk_BASE_NS_HI. -/
def R.timeLtcoBaseNsHi (i : Nat) : Nat := 0x50308 + 0x20 * i
def F.timeLtcoBaseNsHiNs (i : Nat) : Field := ⟨R.timeLtcoBaseNsHi i, 31, 0⟩
/-- TIME_LTCOk_BASE_FRAMES. -/
def R.timeLtcoBaseFrames (i : Nat) : Nat := 0x5030c + 0x20 * i
def F.timeLtcoBaseFramesFrames (i : Nat) : Field := ⟨R.timeLtcoBaseFrames i, 31, 0⟩
/-- TIME_LTCOk_USER. -/
def R.timeLtcoUser (i : Nat) : Nat := 0x50310 + 0x20 * i
def F.timeLtcoUserUser (i : Nat) : Field := ⟨R.timeLtcoUser i, 31, 0⟩
/-- TIME_LTCOk_TC. -/
def R.timeLtcoTc (i : Nat) : Nat := 0x50314 + 0x20 * i
def F.timeLtcoTcHh (i : Nat) : Field := ⟨R.timeLtcoTc i, 28, 24⟩
def F.timeLtcoTcMm (i : Nat) : Field := ⟨R.timeLtcoTc i, 21, 16⟩
def F.timeLtcoTcSs (i : Nat) : Field := ⟨R.timeLtcoTc i, 13, 8⟩
def F.timeLtcoTcDf (i : Nat) : Field := ⟨R.timeLtcoTc i, 7, 7⟩
def F.timeLtcoTcFf (i : Nat) : Field := ⟨R.timeLtcoTc i, 5, 0⟩
/-- TIME_LTCI_STATUS. -/
def R.timeLtciStatus : Nat := 0x50380
def F.timeLtciStatusLocked : Field := ⟨R.timeLtciStatus, 31, 31⟩
def F.timeLtciStatusRate : Field := ⟨R.timeLtciStatus, 19, 16⟩
/-- TIME_LTCI_TC. -/
def R.timeLtciTc : Nat := 0x50384
def F.timeLtciTc : Field := ⟨R.timeLtciTc, 31, 0⟩
/-- TIME_LTCI_USER. -/
def R.timeLtciUser : Nat := 0x50388
def F.timeLtciUserUser : Field := ⟨R.timeLtciUser, 31, 0⟩
/-- TIME_LTCI_FRAMES. -/
def R.timeLtciFrames : Nat := 0x5038c
def F.timeLtciFramesFrames : Field := ⟨R.timeLtciFrames, 31, 0⟩

/-! Registers of 16_host_interface.md. -/

/-- MST_THAW. -/
def R.mstThaw : Nat := 0x20000
def F.mstThawId : Field := ⟨R.mstThaw, 7, 0⟩
/-- MST_THAW_STATUS. -/
def R.mstThawStatus : Nat := 0x20004
def F.mstThawStatusLastCode : Field := ⟨R.mstThawStatus, 27, 16⟩
def F.mstThawStatusLastId : Field := ⟨R.mstThawStatus, 7, 0⟩
/-- MST_VIOLATIONS. -/
def R.mstViolations : Nat := 0x20008
def F.mstViolationsCount : Field := ⟨R.mstViolations, 31, 0⟩
/-- MST_FROZENk. -/
def R.mstFrozen (i : Nat) : Nat := 0x20010 + 0x4 * i
def F.mstFrozenFrozen (i : Nat) : Field := ⟨R.mstFrozen i, 31, 0⟩
/-- MST_FREEZE_CAUSEm. -/
def R.mstFreezeCause (i : Nat) : Nat := 0x21000 + 0x10 * i
def F.mstFreezeCauseFrozen (i : Nat) : Field := ⟨R.mstFreezeCause i, 31, 31⟩
def F.mstFreezeCauseMore (i : Nat) : Field := ⟨R.mstFreezeCause i, 30, 30⟩
def F.mstFreezeCauseCode (i : Nat) : Field := ⟨R.mstFreezeCause i, 27, 16⟩
def F.mstFreezeCauseAck (i : Nat) : Field := ⟨R.mstFreezeCause i, 0, 0⟩
/-- MST_CAUSE_ADDR_LOm. -/
def R.mstCauseAddrLo (i : Nat) : Nat := 0x21004 + 0x10 * i
def F.mstCauseAddrLoAddr (i : Nat) : Field := ⟨R.mstCauseAddrLo i, 31, 0⟩
/-- MST_CAUSE_ADDR_HIm. -/
def R.mstCauseAddrHi (i : Nat) : Nat := 0x21008 + 0x10 * i
def F.mstCauseAddrHiAddr (i : Nat) : Field := ⟨R.mstCauseAddrHi i, 31, 0⟩
/-- MST_CAUSE_DETAILm. -/
def R.mstCauseDetail (i : Nat) : Nat := 0x2100c + 0x10 * i
def F.mstCauseDetailChainSrc (i : Nat) : Field := ⟨R.mstCauseDetail i, 31, 16⟩
def F.mstCauseDetailOwner (i : Nat) : Field := ⟨R.mstCauseDetail i, 15, 8⟩
def F.mstCauseDetailDir (i : Nat) : Field := ⟨R.mstCauseDetail i, 0, 0⟩

/-! Registers of 17_purser_events_manifest.md. -/

/-- EVT_STATUSg. -/
def R.evtStatus (i : Nat) : Nat := 0x10000 + 0x4 * i
def F.evtStatusPending (i : Nat) : Field := ⟨R.evtStatus i, 31, 0⟩
/-- EVT_ENABLEg. -/
def R.evtEnable (i : Nat) : Nat := 0x10080 + 0x4 * i
def F.evtEnableEn (i : Nat) : Field := ⟨R.evtEnable i, 31, 0⟩
/-- EVT_IMPLg. -/
def R.evtImpl (i : Nat) : Nat := 0x10100 + 0x4 * i
def F.evtImplImpl (i : Nat) : Field := ⟨R.evtImpl i, 31, 0⟩
/-- EVT_SOFT. -/
def R.evtSoft : Nat := 0x10180
def F.evtSoftRaise : Field := ⟨R.evtSoft, 0, 0⟩
/-- EVT_ROUTEs. -/
def R.evtRoute (i : Nat) : Nat := 0x11000 + 0x4 * i
def F.evtRouteMsixEn (i : Nat) : Field := ⟨R.evtRoute i, 31, 31⟩
def F.evtRoutePurser (i : Nat) : Field := ⟨R.evtRoute i, 30, 30⟩
def F.evtRouteAutoclr (i : Nat) : Field := ⟨R.evtRoute i, 29, 29⟩
def F.evtRouteVector (i : Nat) : Field := ⟨R.evtRoute i, 10, 0⟩
/-- PURSk_CMD. -/
def R.pursmCmd (i : Nat) : Nat := 0x30000 + 0x1000 * i
def F.pursmCmdTag (i : Nat) : Field := ⟨R.pursmCmd i, 23, 16⟩
def F.pursmCmdOpcode (i : Nat) : Field := ⟨R.pursmCmd i, 15, 0⟩
/-- PURSk_RESP. -/
def R.pursmResp (i : Nat) : Nat := 0x30004 + 0x1000 * i
def F.pursmRespCode (i : Nat) : Field := ⟨R.pursmResp i, 27, 16⟩
def F.pursmRespTag (i : Nat) : Field := ⟨R.pursmResp i, 15, 8⟩
def F.pursmRespResult (i : Nat) : Field := ⟨R.pursmResp i, 2, 0⟩
/-- PURSk_ARGi. -/
def R.pursmArg (i : Nat) (j : Nat) : Nat := 0x30008 + 0x1000 * i + 0x4 * j
def F.pursmArgValue (i : Nat) (j : Nat) : Field := ⟨R.pursmArg i j, 31, 0⟩
/-- PURSk_DOORBELL. -/
def R.pursmDoorbell (i : Nat) : Nat := 0x30040 + 0x1000 * i
def F.pursmDoorbellRing (i : Nat) : Field := ⟨R.pursmDoorbell i, 0, 0⟩
/-- PURSk_STATUS. -/
def R.pursmStatus (i : Nat) : Nat := 0x30044 + 0x1000 * i
def F.pursmStatusQueued (i : Nat) : Field := ⟨R.pursmStatus i, 2, 2⟩
def F.pursmStatusDone (i : Nat) : Field := ⟨R.pursmStatus i, 1, 1⟩
def F.pursmStatusBusy (i : Nat) : Field := ⟨R.pursmStatus i, 0, 0⟩
/-- PURS_INFO. -/
def R.pursInfo : Nat := 0x30f00
def F.pursInfoMajor : Field := ⟨R.pursInfo, 31, 24⟩
def F.pursInfoMinor : Field := ⟨R.pursInfo, 23, 16⟩
def F.pursInfoBuild : Field := ⟨R.pursInfo, 15, 0⟩
/-- PURS_STATUS. -/
def R.pursStatus : Nat := 0x30f04
def F.pursStatusRestarts : Field := ⟨R.pursStatus, 15, 8⟩
def F.pursStatusRunning : Field := ⟨R.pursStatus, 0, 0⟩
/-- PURS_MBOX_TIMEOUT. -/
def R.pursMboxTimeout : Nat := 0x30f08
def F.pursMboxTimeoutMs : Field := ⟨R.pursMboxTimeout, 15, 0⟩
/-- GLB_MANIFEST_ADDR_HI. -/
def R.glbManifestAddrHi : Nat := 0x100
def F.glbManifestAddrHiAddr : Field := ⟨R.glbManifestAddrHi, 31, 0⟩
/-- GLB_MANIFEST_REQ. -/
def R.glbManifestReq : Nat := 0x104
def F.glbManifestReqAddr : Field := ⟨R.glbManifestReq, 31, 12⟩
def F.glbManifestReqGo : Field := ⟨R.glbManifestReq, 0, 0⟩
/-- GLB_MANIFEST_STATUS. -/
def R.glbManifestStatus : Nat := 0x108
def F.glbManifestStatusBusy : Field := ⟨R.glbManifestStatus, 31, 31⟩
def F.glbManifestStatusWaiting : Field := ⟨R.glbManifestStatus, 30, 30⟩
def F.glbManifestStatusResult : Field := ⟨R.glbManifestStatus, 25, 24⟩
def F.glbManifestStatusSeq : Field := ⟨R.glbManifestStatus, 15, 0⟩

/-! Registers of 18_power_clocks_reset.md. -/

/-- GLB_ID. -/
def R.glbId : Nat := 0x0
def F.glbIdDevice : Field := ⟨R.glbId, 31, 16⟩
def F.glbIdStepping : Field := ⟨R.glbId, 15, 8⟩
/-- GLB_STATE. -/
def R.glbState : Nat := 0x4
def F.glbStateState : Field := ⟨R.glbState, 1, 0⟩
/-- GLB_STATE_REQ. -/
def R.glbStateReq : Nat := 0x8
def F.glbStateReqState : Field := ⟨R.glbStateReq, 1, 0⟩
/-- GLB_POWER_CTRL. -/
def R.glbPowerCtrl : Nat := 0x10
def F.glbPowerCtrlReq : Field := ⟨R.glbPowerCtrl, 1, 0⟩
/-- GLB_POWER_STATUS. -/
def R.glbPowerStatus : Nat := 0x14
def F.glbPowerStatusLastCode : Field := ⟨R.glbPowerStatus, 27, 16⟩
def F.glbPowerStatusWakeOutputs : Field := ⟨R.glbPowerStatus, 11, 8⟩
def F.glbPowerStatusPfailSeen : Field := ⟨R.glbPowerStatus, 3, 3⟩
def F.glbPowerStatusState : Field := ⟨R.glbPowerStatus, 2, 0⟩
/-- GLB_WINTER_DROPS. -/
def R.glbWinterDrops : Nat := 0x18
def F.glbWinterDropsCount : Field := ⟨R.glbWinterDrops, 31, 0⟩
/-- GLB_RESET. -/
def R.glbReset : Nat := 0x20
def F.glbResetWarm : Field := ⟨R.glbReset, 0, 0⟩
/-- GLB_RESET_CFG. -/
def R.glbResetCfg : Nat := 0x24
def F.glbResetCfgPerstFull : Field := ⟨R.glbResetCfg, 0, 0⟩
/-- GLB_RESET_CAUSE. -/
def R.glbResetCause : Nat := 0x28
def F.glbResetCauseThermal : Field := ⟨R.glbResetCause, 3, 3⟩
def F.glbResetCauseWarm : Field := ⟨R.glbResetCause, 2, 2⟩
def F.glbResetCausePerst : Field := ⟨R.glbResetCause, 1, 1⟩
def F.glbResetCausePowerOn : Field := ⟨R.glbResetCause, 0, 0⟩
/-- CLK_STATUS. -/
def R.clkStatus : Nat := 0x40000
def F.clkStatusReliefFor : Field := ⟨R.clkStatus, 26, 24⟩
def F.clkStatusAonFault : Field := ⟨R.clkStatus, 18, 18⟩
def F.clkStatusRefinOk : Field := ⟨R.clkStatus, 17, 17⟩
def F.clkStatusRefclkOk : Field := ⟨R.clkStatus, 16, 16⟩
def F.clkStatusReliefLock : Field := ⟨R.clkStatus, 8, 8⟩
def F.clkStatusOutLock : Field := ⟨R.clkStatus, 7, 4⟩
def F.clkStatusTickLock : Field := ⟨R.clkStatus, 2, 2⟩
def F.clkStatusPurserLock : Field := ⟨R.clkStatus, 1, 1⟩
def F.clkStatusFabricLock : Field := ⟨R.clkStatus, 0, 0⟩
/-- CLK_REF_LOSSES. -/
def R.clkRefLosses : Nat := 0x40004
def F.clkRefLossesRefin : Field := ⟨R.clkRefLosses, 31, 16⟩
def F.clkRefLossesRefclk : Field := ⟨R.clkRefLosses, 15, 0⟩
/-- CAL_OTPw. -/
def R.calOtp (i : Nat) : Nat := 0x3c0000 + 0x4 * i
def F.calOtpFuses (i : Nat) : Field := ⟨R.calOtp i, 31, 0⟩
/-- CAL_STATUS. -/
def R.calStatus : Nat := 0x3c2000
def F.calStatusBusy : Field := ⟨R.calStatus, 31, 31⟩
def F.calStatusLastCode : Field := ⟨R.calStatus, 27, 16⟩
def F.calStatusReliefSectors : Field := ⟨R.calStatus, 2, 0⟩
/-- CAL_SEQk. -/
def R.calSeq (i : Nat) : Nat := 0x3c2100 + 0x4 * i
def F.calSeqSequence (i : Nat) : Field := ⟨R.calSeq i, 31, 0⟩
/-- CAL_TRIMi. -/
def R.calTrim (i : Nat) : Nat := 0x3c2200 + 0x4 * i
def F.calTrimSat (i : Nat) : Field := ⟨R.calTrim i, 31, 31⟩
def F.calTrimValue (i : Nat) : Field := ⟨R.calTrim i, 15, 0⟩

/-! Registers of 19_relief_and_aging.md. -/

/-- RLF_LANE. -/
def R.rlfLane : Nat := 0x3f0000
def F.rlfLaneResidMax : Field := ⟨R.rlfLane, 31, 16⟩
def F.rlfLaneEyeMin : Field := ⟨R.rlfLane, 7, 0⟩
/-- RLF_HOLD. -/
def R.rlfHold : Nat := 0x3f0004
def F.rlfHoldEccMax : Field := ⟨R.rlfHold, 15, 0⟩
/-- RLF_AGE. -/
def R.rlfAge : Nat := 0x3f0008
def F.rlfAgeSwap : Field := ⟨R.rlfAge, 31, 16⟩
def F.rlfAgeWarn : Field := ⟨R.rlfAge, 15, 0⟩
/-- RLF_TEMP. -/
def R.rlfTemp : Nat := 0x3f000c
def F.rlfTempWarn : Field := ⟨R.rlfTemp, 31, 16⟩
def F.rlfTempNow : Field := ⟨R.rlfTemp, 15, 0⟩
/-- RLF_LAST. -/
def R.rlfLast : Nat := 0x3f0010
def F.rlfLastSpare : Field := ⟨R.rlfLast, 31, 24⟩
def F.rlfLastKind : Field := ⟨R.rlfLast, 23, 20⟩
def F.rlfLastResult : Field := ⟨R.rlfLast, 19, 16⟩
def F.rlfLastUnit : Field := ⟨R.rlfLast, 15, 0⟩
/-- RLF_SWAPS. -/
def R.rlfSwaps : Nat := 0x3f0014
def F.rlfSwapsCount : Field := ⟨R.rlfSwaps, 31, 0⟩
/-- RLF_ROr. -/
def R.rlfRo (i : Nat) : Nat := 0x3f0020 + 0x4 * i
def F.rlfRoSlow (i : Nat) : Field := ⟨R.rlfRo i, 15, 0⟩
/-- RLF_REACHn. -/
def R.rlfReach (i : Nat) : Nat := 0x3f0100 + 0x4 * i
def F.rlfReachInUse (i : Nat) : Field := ⟨R.rlfReach i, 31, 31⟩
def F.rlfReachReplaces (i : Nat) : Field := ⟨R.rlfReach i, 29, 24⟩
def F.rlfReachReplaced (i : Nat) : Field := ⟨R.rlfReach i, 17, 17⟩
def F.rlfReachWorn (i : Nat) : Field := ⟨R.rlfReach i, 16, 16⟩
def F.rlfReachSlow (i : Nat) : Field := ⟨R.rlfReach i, 15, 0⟩

/-! Registers of 12_dma.md. -/

/-- DMA_NP_TOTAL. -/
def R.dmaNpTotal : Nat := 0x88000
def F.dmaNpTotalCount : Field := ⟨R.dmaNpTotal, 11, 0⟩

/-! Registers of 20_register_map.md. -/

/-- REACHn_INFO. -/
def R.reachInfo (i : Nat) : Nat := 0x200000 + 0x1000 * i
def F.reachInfoHosting (i : Nat) : Field := ⟨R.reachInfo i, 31, 31⟩
def F.reachInfoStageType (i : Nat) : Field := ⟨R.reachInfo i, 19, 16⟩
def F.reachInfoOutput (i : Nat) : Field := ⟨R.reachInfo i, 9, 8⟩
def F.reachInfoSplit (i : Nat) : Field := ⟨R.reachInfo i, 3, 0⟩

/-! The table of every register. -/

/-- The GLB block. -/
def rowsGlb : List RegRow := [
  ⟨0x100, 1, 0x0, 1, 0x0, ⟨0x0, 0xffffffff, 0x0, 0x0, 0x0, 0x0, 0x0⟩, false, 0x0⟩,
  ⟨0x104, 1, 0x0, 1, 0x0, ⟨0x0, 0xfffff001, 0x0, 0x0, 0x0, 0x0, 0xfffff001⟩, false, 0x0⟩,
  ⟨0x108, 1, 0x0, 1, 0x0, ⟨0x0, 0x0, 0x0, 0x0, 0x0, 0x0, 0x0⟩, false, 0x0⟩,
  ⟨0x0, 1, 0x0, 1, 0x0, ⟨0x0, 0x0, 0x0, 0x0, 0x0, 0x0, 0x0⟩, false, 0x9608c200⟩,
  ⟨0x4, 1, 0x0, 1, 0x0, ⟨0x0, 0x0, 0x0, 0x0, 0x0, 0x0, 0x0⟩, false, 0x0⟩,
  ⟨0x8, 1, 0x0, 1, 0x0, ⟨0x0, 0x3, 0x0, 0x0, 0x0, 0x0, 0x3⟩, false, 0x0⟩,
  ⟨0x10, 1, 0x0, 1, 0x0, ⟨0x0, 0x3, 0x0, 0x0, 0x0, 0x0, 0x3⟩, false, 0x0⟩,
  ⟨0x14, 1, 0x0, 1, 0x0, ⟨0x0, 0x0, 0x0, 0x8, 0x0, 0x0, 0x0⟩, false, 0x0⟩,
  ⟨0x18, 1, 0x0, 1, 0x0, ⟨0x0, 0x0, 0x0, 0x0, 0x0, 0xffffffff, 0x0⟩, false, 0x0⟩,
  ⟨0x20, 1, 0x0, 1, 0x0, ⟨0x0, 0x1, 0x0, 0x0, 0x0, 0x0, 0x1⟩, false, 0x0⟩,
  ⟨0x24, 1, 0x0, 1, 0x0, ⟨0x0, 0x1, 0x0, 0x0, 0x0, 0x0, 0x0⟩, false, 0x0⟩,
  ⟨0x28, 1, 0x0, 1, 0x0, ⟨0x0, 0x0, 0x0, 0xf, 0x0, 0x0, 0x0⟩, false, 0x1⟩]

/-- The EVT block. -/
def rowsEvt_0 : List RegRow := [
  ⟨0x10000, 24, 0x4, 1, 0x0, ⟨0x0, 0x0, 0x0, 0xffffffff, 0x0, 0x0, 0x0⟩, false, 0x0⟩,
  ⟨0x10080, 24, 0x4, 1, 0x0, ⟨0xffffffff, 0x0, 0x0, 0x0, 0x0, 0x0, 0x0⟩, false, 0x0⟩,
  ⟨0x10100, 1, 0x0, 1, 0x0, ⟨0x0, 0x0, 0x0, 0x0, 0x0, 0x0, 0x0⟩, false, 0x1fffffff⟩,
  ⟨0x10104, 1, 0x0, 1, 0x0, ⟨0x0, 0x0, 0x0, 0x0, 0x0, 0x0, 0x0⟩, false, 0x7f⟩,
  ⟨0x10108, 1, 0x0, 1, 0x0, ⟨0x0, 0x0, 0x0, 0x0, 0x0, 0x0, 0x0⟩, false, 0x1ff⟩,
  ⟨0x1010c, 1, 0x0, 1, 0x0, ⟨0x0, 0x0, 0x0, 0x0, 0x0, 0x0, 0x0⟩, false, 0xffffffff⟩,
  ⟨0x10110, 1, 0x0, 1, 0x0, ⟨0x0, 0x0, 0x0, 0x0, 0x0, 0x0, 0x0⟩, false, 0xffffffff⟩,
  ⟨0x10114, 1, 0x0, 1, 0x0, ⟨0x0, 0x0, 0x0, 0x0, 0x0, 0x0, 0x0⟩, false, 0xffffffff⟩,
  ⟨0x10118, 1, 0x0, 1, 0x0, ⟨0x0, 0x0, 0x0, 0x0, 0x0, 0x0, 0x0⟩, false, 0x1ff⟩,
  ⟨0x1011c, 1, 0x0, 1, 0x0, ⟨0x0, 0x0, 0x0, 0x0, 0x0, 0x0, 0x0⟩, false, 0xfffff⟩,
  ⟨0x10120, 1, 0x0, 1, 0x0, ⟨0x0, 0x0, 0x0, 0x0, 0x0, 0x0, 0x0⟩, false, 0xffffffff⟩,
  ⟨0x10124, 1, 0x0, 1, 0x0, ⟨0x0, 0x0, 0x0, 0x0, 0x0, 0x0, 0x0⟩, false, 0xffffffff⟩,
  ⟨0x10128, 1, 0x0, 1, 0x0, ⟨0x0, 0x0, 0x0, 0x0, 0x0, 0x0, 0x0⟩, false, 0xffffffff⟩,
  ⟨0x1012c, 1, 0x0, 1, 0x0, ⟨0x0, 0x0, 0x0, 0x0, 0x0, 0x0, 0x0⟩, false, 0xffffffff⟩,
  ⟨0x10130, 1, 0x0, 1, 0x0, ⟨0x0, 0x0, 0x0, 0x0, 0x0, 0x0, 0x0⟩, false, 0xffffffff⟩,
  ⟨0x10134, 1, 0x0, 1, 0x0, ⟨0x0, 0x0, 0x0, 0x0, 0x0, 0x0, 0x0⟩, false, 0xffffffff⟩,
  ⟨0x10138, 1, 0x0, 1, 0x0, ⟨0x0, 0x0, 0x0, 0x0, 0x0, 0x0, 0x0⟩, false, 0xffffffff⟩,
  ⟨0x1013c, 1, 0x0, 1, 0x0, ⟨0x0, 0x0, 0x0, 0x0, 0x0, 0x0, 0x0⟩, false, 0x7f⟩,
  ⟨0x10140, 1, 0x0, 1, 0x0, ⟨0x0, 0x0, 0x0, 0x0, 0x0, 0x0, 0x0⟩, false, 0x1ff⟩,
  ⟨0x10144, 1, 0x0, 1, 0x0, ⟨0x0, 0x0, 0x0, 0x0, 0x0, 0x0, 0x0⟩, false, 0xfff⟩,
  ⟨0x10148, 1, 0x0, 1, 0x0, ⟨0x0, 0x0, 0x0, 0x0, 0x0, 0x0, 0x0⟩, false, 0x3fffff⟩,
  ⟨0x1014c, 1, 0x0, 1, 0x0, ⟨0x0, 0x0, 0x0, 0x0, 0x0, 0x0, 0x0⟩, false, 0xffffffff⟩,
  ⟨0x10150, 1, 0x0, 1, 0x0, ⟨0x0, 0x0, 0x0, 0x0, 0x0, 0x0, 0x0⟩, false, 0xffffffff⟩,
  ⟨0x10154, 1, 0x0, 1, 0x0, ⟨0x0, 0x0, 0x0, 0x0, 0x0, 0x0, 0x0⟩, false, 0xf⟩]

def rowsEvt_1 : List RegRow := [
  ⟨0x10158, 1, 0x0, 1, 0x0, ⟨0x0, 0x0, 0x0, 0x0, 0x0, 0x0, 0x0⟩, false, 0xfffffff⟩,
  ⟨0x1015c, 1, 0x0, 1, 0x0, ⟨0x0, 0x0, 0x0, 0x0, 0x0, 0x0, 0x0⟩, false, 0x0⟩,
  ⟨0x10180, 1, 0x0, 1, 0x0, ⟨0x0, 0x0, 0x0, 0x0, 0x0, 0x0, 0x1⟩, false, 0x0⟩,
  ⟨0x11000, 768, 0x4, 1, 0x0, ⟨0x0, 0xe00007ff, 0x0, 0x0, 0x0, 0x0, 0x0⟩, false, 0x0⟩]

def rowsEvt : List RegRow := rowsEvt_0 ++ rowsEvt_1

/-- The MST block. -/
def rowsMst : List RegRow := [
  ⟨0x20000, 1, 0x0, 1, 0x0, ⟨0x0, 0xff, 0x0, 0x0, 0x0, 0x0, 0xff⟩, false, 0x0⟩,
  ⟨0x20004, 1, 0x0, 1, 0x0, ⟨0x0, 0x0, 0x0, 0x0, 0x0, 0x0, 0x0⟩, false, 0x0⟩,
  ⟨0x20008, 1, 0x0, 1, 0x0, ⟨0x0, 0x0, 0x0, 0x0, 0x0, 0xffffffff, 0x0⟩, false, 0x0⟩,
  ⟨0x20010, 8, 0x4, 1, 0x0, ⟨0x0, 0x0, 0x0, 0x0, 0x0, 0x0, 0x0⟩, false, 0x0⟩,
  ⟨0x21000, 256, 0x10, 1, 0x0, ⟨0x0, 0x1, 0x0, 0x0, 0x0, 0x0, 0x1⟩, false, 0x0⟩,
  ⟨0x21004, 256, 0x10, 1, 0x0, ⟨0x0, 0x0, 0x0, 0x0, 0x0, 0x0, 0x0⟩, false, 0x0⟩,
  ⟨0x21008, 256, 0x10, 1, 0x0, ⟨0x0, 0x0, 0x0, 0x0, 0x0, 0x0, 0x0⟩, false, 0x0⟩,
  ⟨0x2100c, 256, 0x10, 1, 0x0, ⟨0x0, 0x0, 0x0, 0x0, 0x0, 0x0, 0x0⟩, false, 0x0⟩]

/-- The PURS block. -/
def rowsPurs : List RegRow := [
  ⟨0x30000, 16, 0x1000, 1, 0x0, ⟨0xffffff, 0x0, 0x0, 0x0, 0x0, 0x0, 0x0⟩, false, 0x0⟩,
  ⟨0x30004, 16, 0x1000, 1, 0x0, ⟨0x0, 0x0, 0x0, 0x0, 0x0, 0x0, 0x0⟩, false, 0x0⟩,
  ⟨0x30008, 16, 0x1000, 14, 0x4, ⟨0xffffffff, 0x0, 0x0, 0x0, 0x0, 0x0, 0x0⟩, false, 0x0⟩,
  ⟨0x30040, 16, 0x1000, 1, 0x0, ⟨0x0, 0x0, 0x0, 0x0, 0x0, 0x0, 0x1⟩, false, 0x0⟩,
  ⟨0x30044, 16, 0x1000, 1, 0x0, ⟨0x0, 0x0, 0x0, 0x0, 0x0, 0x0, 0x0⟩, false, 0x0⟩,
  ⟨0x30f00, 1, 0x0, 1, 0x0, ⟨0x0, 0x0, 0x0, 0x0, 0x0, 0x0, 0x0⟩, false, 0x0⟩,
  ⟨0x30f04, 1, 0x0, 1, 0x0, ⟨0x0, 0x0, 0x0, 0x0, 0x0, 0x0, 0x0⟩, false, 0x0⟩,
  ⟨0x30f08, 1, 0x0, 1, 0x0, ⟨0x0, 0xffff, 0x0, 0x0, 0x0, 0x0, 0x0⟩, false, 0x3e8⟩]

/-- The CLK block. -/
def rowsClk : List RegRow := [
  ⟨0x40000, 1, 0x0, 1, 0x0, ⟨0x0, 0x0, 0x0, 0x0, 0x0, 0x0, 0x0⟩, false, 0x0⟩,
  ⟨0x40004, 1, 0x0, 1, 0x0, ⟨0x0, 0x0, 0x0, 0x0, 0x0, 0xffffffff, 0x0⟩, false, 0x0⟩]

/-- The TIME block. -/
def rowsTime_0 : List RegRow := [
  ⟨0x50000, 1, 0x0, 1, 0x0, ⟨0x301, 0x0, 0x0, 0x0, 0x0, 0x0, 0x0⟩, false, 0x0⟩,
  ⟨0x50004, 1, 0x0, 1, 0x0, ⟨0x0, 0x0, 0x0, 0x0, 0x0, 0x0, 0x0⟩, false, 0x380⟩,
  ⟨0x50008, 1, 0x0, 1, 0x0, ⟨0x0, 0x0, 0x0, 0x0, 0x0, 0x0, 0x0⟩, false, 0x0⟩,
  ⟨0x5000c, 1, 0x0, 1, 0x0, ⟨0x0, 0x0, 0x0, 0x0, 0x0, 0x0, 0x0⟩, false, 0x0⟩,
  ⟨0x50010, 1, 0x0, 1, 0x0, ⟨0x0, 0x0, 0x0, 0x0, 0x0, 0x0, 0x0⟩, false, 0x0⟩,
  ⟨0x50014, 1, 0x0, 1, 0x0, ⟨0x0, 0x0, 0x0, 0x0, 0x0, 0x0, 0x0⟩, false, 0x0⟩,
  ⟨0x50018, 1, 0x0, 1, 0x0, ⟨0xffffffff, 0x0, 0x0, 0x0, 0x0, 0x0, 0x0⟩, false, 0x0⟩,
  ⟨0x5001c, 1, 0x0, 1, 0x0, ⟨0xffffffff, 0x0, 0x0, 0x0, 0x0, 0x0, 0xffffffff⟩, false, 0x4⟩,
  ⟨0x50020, 1, 0x0, 1, 0x0, ⟨0xffffffff, 0x0, 0x0, 0x0, 0x0, 0x0, 0xffffffff⟩, false, 0x0⟩,
  ⟨0x50024, 1, 0x0, 1, 0x0, ⟨0xfffff, 0x0, 0x0, 0x0, 0x0, 0x0, 0x0⟩, false, 0x0⟩,
  ⟨0x50028, 1, 0x0, 1, 0x0, ⟨0xffffffff, 0x0, 0x0, 0x0, 0x0, 0x0, 0x0⟩, false, 0x0⟩,
  ⟨0x5002c, 1, 0x0, 1, 0x0, ⟨0xffffffff, 0x0, 0x0, 0x0, 0x0, 0x0, 0xffffffff⟩, false, 0x0⟩,
  ⟨0x50030, 1, 0x0, 1, 0x0, ⟨0xffffffff, 0x0, 0x0, 0x0, 0x0, 0x0, 0x0⟩, false, 0x0⟩,
  ⟨0x50034, 1, 0x0, 1, 0x0, ⟨0x0, 0x0, 0x0, 0x0, 0x0, 0x0, 0x0⟩, false, 0x0⟩,
  ⟨0x50040, 3, 0x4, 1, 0x0, ⟨0xffffffff, 0x0, 0x0, 0x0, 0x0, 0x0, 0x0⟩, false, 0x0⟩,
  ⟨0x50050, 3, 0x4, 1, 0x0, ⟨0x0, 0x0, 0x0, 0x0, 0x0, 0x0, 0x0⟩, false, 0x0⟩,
  ⟨0x50060, 1, 0x0, 1, 0x0, ⟨0x1ffff, 0x0, 0x0, 0x0, 0x0, 0x0, 0x0⟩, false, 0xa⟩,
  ⟨0x50064, 1, 0x0, 1, 0x0, ⟨0xffffffff, 0x0, 0x0, 0x0, 0x0, 0x0, 0x0⟩, false, 0x0⟩,
  ⟨0x50068, 1, 0x0, 1, 0x0, ⟨0xffffffff, 0x0, 0x0, 0x0, 0x0, 0x0, 0x0⟩, false, 0x0⟩,
  ⟨0x50080, 5, 0x10, 1, 0x0, ⟨0x0, 0x0, 0x0, 0x0, 0x0, 0x0, 0x0⟩, false, 0x0⟩,
  ⟨0x50084, 5, 0x10, 1, 0x0, ⟨0x0, 0x0, 0x0, 0x0, 0x0, 0x0, 0x0⟩, false, 0x0⟩,
  ⟨0x50088, 5, 0x10, 1, 0x0, ⟨0x0, 0x0, 0x0, 0x0, 0x0, 0x0, 0x0⟩, false, 0x0⟩,
  ⟨0x5008c, 5, 0x10, 1, 0x0, ⟨0x0, 0x0, 0x0, 0x0, 0x0, 0x1, 0x0⟩, false, 0x0⟩,
  ⟨0x500d0, 1, 0x0, 1, 0x0, ⟨0x0, 0x0, 0x0, 0x0, 0x0, 0x0, 0x0⟩, false, 0x0⟩]

def rowsTime_1 : List RegRow := [
  ⟨0x500d4, 1, 0x0, 1, 0x0, ⟨0x0, 0x0, 0x0, 0x0, 0x0, 0x0, 0x0⟩, false, 0x0⟩,
  ⟨0x500d8, 1, 0x0, 1, 0x0, ⟨0x0, 0x0, 0x0, 0x0, 0x0, 0x0, 0x0⟩, false, 0x0⟩,
  ⟨0x500dc, 1, 0x0, 1, 0x0, ⟨0x0, 0x0, 0x0, 0x0, 0x0, 0x0, 0x0⟩, false, 0x0⟩,
  ⟨0x500e0, 1, 0x0, 1, 0x0, ⟨0x0, 0x0, 0x0, 0x0, 0x0, 0x0, 0x0⟩, false, 0x0⟩,
  ⟨0x500e4, 1, 0x0, 1, 0x0, ⟨0x0, 0x0, 0x0, 0x0, 0x0, 0x0, 0x1⟩, false, 0x0⟩,
  ⟨0x500e8, 1, 0x0, 1, 0x0, ⟨0x0, 0x0, 0x0, 0x0, 0x0, 0xffffffff, 0x0⟩, false, 0x0⟩,
  ⟨0x500f0, 1, 0x0, 1, 0x0, ⟨0x0, 0x0, 0x0, 0x0, 0x0, 0x0, 0x0⟩, false, 0x0⟩,
  ⟨0x500f4, 1, 0x0, 1, 0x0, ⟨0x0, 0x0, 0x0, 0x0, 0x0, 0x0, 0x0⟩, false, 0x0⟩,
  ⟨0x500f8, 1, 0x0, 1, 0x0, ⟨0x0, 0x0, 0x0, 0x0, 0x0, 0x0, 0x0⟩, false, 0x0⟩,
  ⟨0x500fc, 1, 0x0, 1, 0x0, ⟨0x0, 0x0, 0x0, 0x0, 0x0, 0x0, 0x0⟩, false, 0x0⟩,
  ⟨0x50100, 1, 0x0, 1, 0x0, ⟨0x100, 0x0, 0x0, 0x0, 0x0, 0x0, 0x0⟩, false, 0x0⟩,
  ⟨0x50104, 1, 0x0, 1, 0x0, ⟨0x0, 0x0, 0x0, 0x0, 0x0, 0x0, 0x1⟩, false, 0x0⟩,
  ⟨0x50108, 1, 0x0, 1, 0x0, ⟨0x0, 0x0, 0x0, 0x0, 0x0, 0xffffffff, 0x0⟩, false, 0x0⟩,
  ⟨0x50140, 4, 0x20, 1, 0x0, ⟨0xffffffff, 0x0, 0x0, 0x0, 0x0, 0x0, 0x0⟩, false, 0x0⟩,
  ⟨0x50144, 4, 0x20, 1, 0x0, ⟨0xffffffff, 0x0, 0x0, 0x0, 0x0, 0x0, 0x0⟩, false, 0x0⟩,
  ⟨0x50148, 4, 0x20, 1, 0x0, ⟨0xffffffff, 0x0, 0x0, 0x0, 0x0, 0x0, 0x0⟩, false, 0x0⟩,
  ⟨0x5014c, 4, 0x20, 1, 0x0, ⟨0xffffffff, 0x0, 0x0, 0x0, 0x0, 0x0, 0x0⟩, false, 0x0⟩,
  ⟨0x50150, 4, 0x20, 1, 0x0, ⟨0xffff0001, 0x0, 0x0, 0x0, 0x0, 0x0, 0x0⟩, false, 0x0⟩,
  ⟨0x50200, 8, 0x10, 1, 0x0, ⟨0xf3110003, 0x0, 0x0, 0x0, 0x0, 0x0, 0x0⟩, false, 0x0⟩,
  ⟨0x50204, 8, 0x10, 1, 0x0, ⟨0xffffffff, 0x0, 0x0, 0x0, 0x0, 0x0, 0x0⟩, false, 0x3e8⟩,
  ⟨0x50208, 8, 0x10, 1, 0x0, ⟨0xffff, 0x0, 0x0, 0x0, 0x0, 0x0, 0x0⟩, false, 0x1⟩,
  ⟨0x50300, 2, 0x20, 1, 0x0, ⟨0x800f0000, 0x0, 0x0, 0x0, 0x0, 0x0, 0x100⟩, false, 0x0⟩,
  ⟨0x50304, 2, 0x20, 1, 0x0, ⟨0xffffffff, 0x0, 0x0, 0x0, 0x0, 0x0, 0x0⟩, false, 0x0⟩,
  ⟨0x50308, 2, 0x20, 1, 0x0, ⟨0xffffffff, 0x0, 0x0, 0x0, 0x0, 0x0, 0x0⟩, false, 0x0⟩]

def rowsTime_2 : List RegRow := [
  ⟨0x5030c, 2, 0x20, 1, 0x0, ⟨0xffffffff, 0x0, 0x0, 0x0, 0x0, 0x0, 0x0⟩, false, 0x0⟩,
  ⟨0x50310, 2, 0x20, 1, 0x0, ⟨0xffffffff, 0x0, 0x0, 0x0, 0x0, 0x0, 0x0⟩, false, 0x0⟩,
  ⟨0x50314, 2, 0x20, 1, 0x0, ⟨0x0, 0x0, 0x0, 0x0, 0x0, 0x0, 0x0⟩, false, 0x0⟩,
  ⟨0x50380, 1, 0x0, 1, 0x0, ⟨0x0, 0x0, 0x0, 0x0, 0x0, 0x0, 0x0⟩, false, 0x0⟩,
  ⟨0x50384, 1, 0x0, 1, 0x0, ⟨0x0, 0x0, 0x0, 0x0, 0x0, 0x0, 0x0⟩, false, 0x0⟩,
  ⟨0x50388, 1, 0x0, 1, 0x0, ⟨0x0, 0x0, 0x0, 0x0, 0x0, 0x0, 0x0⟩, false, 0x0⟩,
  ⟨0x5038c, 1, 0x0, 1, 0x0, ⟨0x0, 0x0, 0x0, 0x0, 0x0, 0x0, 0x0⟩, false, 0x0⟩]

def rowsTime : List RegRow := rowsTime_0 ++ rowsTime_1 ++ rowsTime_2

/-- The SST block. -/
def rowsSst : List RegRow := [
  ⟨0x60000, 1, 0x0, 1, 0x0, ⟨0x0, 0x13f, 0x0, 0x0, 0x0, 0x0, 0x13f⟩, false, 0x0⟩,
  ⟨0x60004, 1, 0x0, 1, 0x0, ⟨0x0, 0x0, 0x0, 0x0, 0x0, 0x0, 0x0⟩, false, 0x0⟩,
  ⟨0x60008, 1, 0x0, 1, 0x0, ⟨0x0, 0x0, 0x0, 0x0, 0x0, 0x0, 0x0⟩, false, 0x0⟩,
  ⟨0x6000c, 1, 0x0, 1, 0x0, ⟨0x0, 0x0, 0x0, 0x0, 0x0, 0x0, 0x0⟩, false, 0x0⟩,
  ⟨0x60010, 1, 0x0, 1, 0x0, ⟨0x0, 0x0, 0x0, 0x0, 0x0, 0x0, 0x0⟩, false, 0x0⟩,
  ⟨0x60100, 4, 0x20, 1, 0x0, ⟨0x0, 0xffffffe0, 0x0, 0x0, 0x0, 0x0, 0x0⟩, true, 0x0⟩,
  ⟨0x60104, 4, 0x20, 1, 0x0, ⟨0x0, 0xffffffff, 0x0, 0x0, 0x0, 0x0, 0x0⟩, true, 0x0⟩,
  ⟨0x60108, 4, 0x20, 1, 0x0, ⟨0x0, 0x7ffff, 0x0, 0x0, 0x0, 0x0, 0x0⟩, true, 0x0⟩,
  ⟨0x6010c, 4, 0x20, 1, 0x0, ⟨0x0, 0x0, 0x0, 0x0, 0x0, 0x0, 0x0⟩, false, 0x0⟩,
  ⟨0x60110, 4, 0x20, 1, 0x0, ⟨0x0, 0x0, 0x0, 0x0, 0x0, 0x0, 0x0⟩, false, 0x0⟩,
  ⟨0x60114, 4, 0x20, 1, 0x0, ⟨0x0, 0x0, 0x0, 0x0, 0x0, 0x0, 0x0⟩, false, 0x0⟩,
  ⟨0x60118, 4, 0x20, 1, 0x0, ⟨0x0, 0x0, 0x0, 0x0, 0x0, 0x0, 0x0⟩, false, 0x0⟩]

/-- The DMA block. -/
def rowsDma : List RegRow := [
  ⟨0x80000, 32, 0x400, 1, 0x0, ⟨0x0, 0x0, 0x0, 0x0, 0x0, 0x0, 0x7⟩, false, 0x0⟩,
  ⟨0x80004, 32, 0x400, 1, 0x0, ⟨0xffffffc1, 0x0, 0x0, 0x0, 0x0, 0x0, 0x0⟩, true, 0x0⟩,
  ⟨0x80008, 32, 0x400, 1, 0x0, ⟨0xffffffff, 0x0, 0x0, 0x0, 0x0, 0x0, 0x0⟩, true, 0x0⟩,
  ⟨0x8000c, 32, 0x400, 1, 0x0, ⟨0x0, 0x0, 0x0, 0x0, 0x0, 0x0, 0x0⟩, false, 0x0⟩,
  ⟨0x80010, 32, 0x400, 1, 0x0, ⟨0x0, 0x0, 0x0, 0x0, 0x0, 0x0, 0x0⟩, false, 0x0⟩,
  ⟨0x80014, 32, 0x400, 1, 0x0, ⟨0x0, 0x0, 0x0, 0x0, 0x0, 0x0, 0x0⟩, false, 0x0⟩,
  ⟨0x80018, 32, 0x400, 1, 0x0, ⟨0x0, 0x0, 0x0, 0x0, 0x0, 0x0, 0x0⟩, false, 0x0⟩,
  ⟨0x8001c, 32, 0x400, 1, 0x0, ⟨0xfff, 0x0, 0x0, 0x0, 0x0, 0x0, 0x0⟩, false, 0x60⟩,
  ⟨0x80020, 32, 0x400, 1, 0x0, ⟨0x101ff, 0x0, 0x0, 0x0, 0x0, 0x0, 0x0⟩, false, 0x100⟩,
  ⟨0x80024, 32, 0x400, 1, 0x0, ⟨0x0, 0x1f, 0x0, 0x0, 0x0, 0x0, 0x0⟩, false, 0x0⟩,
  ⟨0x80028, 32, 0x400, 1, 0x0, ⟨0x0, 0xffffffe0, 0x0, 0x0, 0x0, 0x0, 0x0⟩, false, 0x0⟩,
  ⟨0x8002c, 32, 0x400, 1, 0x0, ⟨0x0, 0xffffffff, 0x0, 0x0, 0x0, 0x0, 0x0⟩, false, 0x0⟩,
  ⟨0x80030, 32, 0x400, 1, 0x0, ⟨0x0, 0xffffffe0, 0x0, 0x0, 0x0, 0x0, 0x0⟩, false, 0xffffffff⟩,
  ⟨0x80034, 32, 0x400, 1, 0x0, ⟨0x0, 0xffffffff, 0x0, 0x0, 0x0, 0x0, 0x0⟩, false, 0xffffffff⟩,
  ⟨0x80038, 32, 0x400, 1, 0x0, ⟨0x0, 0x0, 0x0, 0x0, 0x0, 0x0, 0x0⟩, false, 0x0⟩,
  ⟨0x8003c, 32, 0x400, 1, 0x0, ⟨0x0, 0x0, 0x0, 0x0, 0x0, 0x0, 0x0⟩, false, 0x0⟩,
  ⟨0x80040, 32, 0x400, 1, 0x0, ⟨0x0, 0x0, 0x0, 0x0, 0x0, 0x0, 0x0⟩, false, 0x0⟩,
  ⟨0x80044, 32, 0x400, 1, 0x0, ⟨0x0, 0x0, 0x0, 0x0, 0x0, 0xffffffff, 0x0⟩, false, 0x0⟩,
  ⟨0x80048, 32, 0x400, 1, 0x0, ⟨0x0, 0x0, 0x0, 0x0, 0x0, 0x0, 0x0⟩, false, 0x0⟩,
  ⟨0x8004c, 32, 0x400, 1, 0x0, ⟨0x0, 0x0, 0x0, 0x0, 0x0, 0x0, 0x0⟩, false, 0x0⟩,
  ⟨0x88000, 1, 0x0, 1, 0x0, ⟨0x0, 0x0, 0x0, 0x0, 0x0, 0x0, 0x0⟩, false, 0x0⟩]

/-- The HOLD block. -/
def rowsHold : List RegRow := [
  ⟨0xa0000, 1, 0x0, 1, 0x0, ⟨0x0, 0x0, 0x0, 0x0, 0x0, 0xffffffff, 0x0⟩, false, 0x0⟩,
  ⟨0xa0004, 1, 0x0, 1, 0x0, ⟨0x0, 0x0, 0x0, 0x0, 0x0, 0xffffffff, 0x0⟩, false, 0x0⟩,
  ⟨0xa0008, 1, 0x0, 1, 0x0, ⟨0x0, 0x0, 0x0, 0x0, 0x0, 0x0, 0x0⟩, false, 0x0⟩,
  ⟨0xa000c, 1, 0x0, 1, 0x0, ⟨0x0, 0x0, 0x0, 0x0, 0x0, 0xffffffff, 0x0⟩, false, 0x0⟩,
  ⟨0xa0010, 1, 0x0, 1, 0x0, ⟨0x0, 0x0, 0x0, 0x0, 0x0, 0x0, 0x0⟩, false, 0x0⟩,
  ⟨0xa0014, 1, 0x0, 1, 0x0, ⟨0x0, 0x0, 0x0, 0x0, 0x0, 0x0, 0x0⟩, false, 0x0⟩,
  ⟨0xa0018, 1, 0x0, 1, 0x0, ⟨0x0, 0x0, 0x0, 0x0, 0x0, 0x0, 0x0⟩, false, 0x0⟩,
  ⟨0xa0100, 1, 0x0, 1, 0x0, ⟨0x70, 0x0, 0x0, 0x0, 0x0, 0x0, 0x3⟩, false, 0x10⟩,
  ⟨0xa0104, 1, 0x0, 1, 0x0, ⟨0x1ffff, 0x0, 0x0, 0x0, 0x0, 0x0, 0x0⟩, false, 0x100⟩,
  ⟨0xa0108, 1, 0x0, 1, 0x0, ⟨0x1ffff, 0x0, 0x0, 0x0, 0x0, 0x0, 0x0⟩, false, 0x64⟩,
  ⟨0xa010c, 1, 0x0, 1, 0x0, ⟨0x0, 0x0, 0x0, 0x0, 0x0, 0x0, 0x0⟩, false, 0x0⟩,
  ⟨0xa0110, 1, 0x0, 1, 0x0, ⟨0x0, 0x0, 0x0, 0x0, 0x0, 0x0, 0x0⟩, false, 0x0⟩,
  ⟨0xa0114, 1, 0x0, 1, 0x0, ⟨0x0, 0x0, 0x0, 0x0, 0x0, 0x0, 0x0⟩, false, 0x0⟩,
  ⟨0xa0118, 1, 0x0, 1, 0x0, ⟨0x0, 0x0, 0x0, 0x0, 0x0, 0x0, 0x0⟩, false, 0x0⟩,
  ⟨0xa011c, 1, 0x0, 1, 0x0, ⟨0x0, 0x0, 0x0, 0x0, 0x0, 0xffffffff, 0x0⟩, false, 0x0⟩,
  ⟨0xa0120, 1, 0x0, 1, 0x0, ⟨0x0, 0x0, 0x0, 0x0, 0x0, 0xffffffff, 0x0⟩, false, 0x0⟩,
  ⟨0xa0124, 1, 0x0, 1, 0x0, ⟨0x0, 0x0, 0x0, 0x0, 0x0, 0xffffffff, 0x0⟩, false, 0x0⟩,
  ⟨0xa0200, 1, 0x0, 1, 0x0, ⟨0x0, 0xfffff, 0x0, 0x0, 0x0, 0x0, 0xfffff⟩, false, 0x0⟩,
  ⟨0xa0204, 1, 0x0, 1, 0x0, ⟨0x0, 0x0, 0x0, 0x0, 0x0, 0x0, 0x0⟩, false, 0x0⟩,
  ⟨0xa1000, 256, 0x4, 1, 0x0, ⟨0x0, 0x0, 0x0, 0x0, 0x0, 0x0, 0x0⟩, false, 0x0⟩,
  ⟨0xa1400, 256, 0x4, 1, 0x0, ⟨0xff, 0x0, 0x0, 0x0, 0x0, 0x0, 0xff⟩, false, 0x0⟩,
  ⟨0xa2000, 256, 0x4, 1, 0x0, ⟨0x0, 0x0, 0x0, 0xffffffff, 0x0, 0x0, 0x0⟩, false, 0x0⟩]

/-- The EDDY block. -/
def rowsEddy : List RegRow := [
  ⟨0xc0000, 4, 0x1000, 1, 0x0, ⟨0x0, 0x0, 0x0, 0x0, 0x0, 0x0, 0xf⟩, false, 0x0⟩,
  ⟨0xc0004, 4, 0x1000, 1, 0x0, ⟨0x311e, 0x0, 0x0, 0x0, 0x0, 0x0, 0x0⟩, false, 0x4⟩,
  ⟨0xc0008, 4, 0x1000, 1, 0x0, ⟨0x3fffffff, 0x0, 0x0, 0x0, 0x0, 0x0, 0x0⟩, true, 0x0⟩,
  ⟨0xc000c, 4, 0x1000, 1, 0x0, ⟨0xffffffff, 0x0, 0x0, 0x0, 0x0, 0x0, 0x0⟩, true, 0x0⟩,
  ⟨0xc0010, 4, 0x1000, 1, 0x0, ⟨0x3fffffff, 0x0, 0x0, 0x0, 0x0, 0x0, 0x0⟩, true, 0x0⟩,
  ⟨0xc0014, 4, 0x1000, 1, 0x0, ⟨0xffffffff, 0x0, 0x0, 0x0, 0x0, 0x0, 0x0⟩, true, 0x0⟩,
  ⟨0xc0018, 4, 0x1000, 1, 0x0, ⟨0xffffffff, 0x0, 0x0, 0x0, 0x0, 0x0, 0x0⟩, false, 0x0⟩,
  ⟨0xc001c, 4, 0x1000, 1, 0x0, ⟨0x3fffffe0, 0x0, 0x0, 0x0, 0x0, 0x0, 0x0⟩, true, 0x0⟩,
  ⟨0xc0020, 4, 0x1000, 1, 0x0, ⟨0x0, 0x0, 0x0, 0x0, 0x0, 0x0, 0x0⟩, false, 0x0⟩,
  ⟨0xc0024, 4, 0x1000, 1, 0x0, ⟨0x0, 0x0, 0x0, 0x0, 0x0, 0x0, 0x0⟩, false, 0x0⟩,
  ⟨0xc0028, 4, 0x1000, 1, 0x0, ⟨0x0, 0x0, 0x0, 0x0, 0x0, 0x0, 0x0⟩, false, 0x0⟩,
  ⟨0xc002c, 4, 0x1000, 1, 0x0, ⟨0x0, 0x0, 0x0, 0x0, 0x0, 0x0, 0x0⟩, false, 0x0⟩,
  ⟨0xc0030, 4, 0x1000, 1, 0x0, ⟨0x0, 0x0, 0x0, 0x0, 0x0, 0x0, 0x0⟩, false, 0x0⟩,
  ⟨0xc0034, 4, 0x1000, 1, 0x0, ⟨0x0, 0x0, 0x0, 0x0, 0x0, 0xffffffff, 0x0⟩, false, 0x0⟩]

/-- The TG block. -/
def rowsTg_0 : List RegRow := [
  ⟨0x100000, 4, 0x10000, 1, 0x0, ⟨0x101, 0x0, 0x30, 0x0, 0x0, 0x0, 0x1⟩, false, 0x100⟩,
  ⟨0x100004, 4, 0x10000, 1, 0x0, ⟨0x0, 0x0, 0xffffffff, 0x0, 0x0, 0x0, 0x0⟩, false, 0x0⟩,
  ⟨0x100008, 4, 0x10000, 1, 0x0, ⟨0x0, 0x0, 0xffffffff, 0x0, 0x0, 0x0, 0x0⟩, false, 0x0⟩,
  ⟨0x10000c, 4, 0x10000, 1, 0x0, ⟨0x0, 0x0, 0xffffffff, 0x0, 0x0, 0x0, 0x0⟩, false, 0x0⟩,
  ⟨0x100010, 4, 0x10000, 1, 0x0, ⟨0x0, 0x0, 0xffff, 0x0, 0x0, 0x0, 0x0⟩, false, 0x0⟩,
  ⟨0x100014, 4, 0x10000, 1, 0x0, ⟨0x0, 0x0, 0xffffffff, 0x0, 0x0, 0x0, 0x0⟩, false, 0x100000⟩,
  ⟨0x100018, 4, 0x10000, 1, 0x0, ⟨0x0, 0x0, 0xffffffff, 0x0, 0x0, 0x0, 0x0⟩, false, 0x10000⟩,
  ⟨0x10001c, 4, 0x10000, 1, 0x0, ⟨0x0, 0x0, 0x303, 0x0, 0x0, 0x0, 0x0⟩, false, 0x0⟩,
  ⟨0x100020, 4, 0x10000, 1, 0x0, ⟨0x0, 0x0, 0x0, 0x0, 0x1, 0x0, 0x3⟩, false, 0x0⟩,
  ⟨0x100024, 4, 0x10000, 1, 0x0, ⟨0x0, 0x0, 0xffff, 0x0, 0x0, 0x0, 0x0⟩, false, 0x0⟩,
  ⟨0x100028, 4, 0x10000, 1, 0x0, ⟨0x0, 0x0, 0x0, 0x0, 0x0, 0x0, 0x0⟩, false, 0x0⟩,
  ⟨0x10002c, 4, 0x10000, 1, 0x0, ⟨0x0, 0x0, 0x0, 0x0, 0x0, 0x0, 0x0⟩, false, 0x0⟩,
  ⟨0x100030, 4, 0x10000, 1, 0x0, ⟨0x0, 0x0, 0x0, 0x0, 0x0, 0x0, 0x0⟩, false, 0x0⟩,
  ⟨0x100034, 4, 0x10000, 1, 0x0, ⟨0x0, 0x0, 0x0, 0x0, 0x0, 0x0, 0x0⟩, false, 0x0⟩,
  ⟨0x100038, 4, 0x10000, 1, 0x0, ⟨0x0, 0x0, 0x0, 0x0, 0x0, 0x0, 0x0⟩, false, 0x0⟩,
  ⟨0x10003c, 4, 0x10000, 1, 0x0, ⟨0x0, 0x0, 0x0, 0x0, 0x0, 0xffffffff, 0x0⟩, false, 0x0⟩,
  ⟨0x100040, 1, 0x0, 1, 0x0, ⟨0x0, 0x0, 0x30f, 0x0, 0x0, 0x0, 0x0⟩, false, 0x1⟩,
  ⟨0x100044, 4, 0x10000, 1, 0x0, ⟨0x0, 0x0, 0xffffffff, 0x0, 0x0, 0x0, 0x0⟩, false, 0x0⟩,
  ⟨0x100048, 4, 0x10000, 1, 0x0, ⟨0x0, 0x0, 0x3ff03ff, 0x0, 0x0, 0x0, 0x0⟩, false, 0xc8⟩,
  ⟨0x10004c, 4, 0x10000, 1, 0x0, ⟨0x0, 0x0, 0x0, 0x0, 0x0, 0x0, 0x0⟩, false, 0x0⟩,
  ⟨0x100050, 4, 0x10000, 1, 0x0, ⟨0x0, 0x0, 0x0, 0x0, 0x0, 0x0, 0x0⟩, false, 0x0⟩,
  ⟨0x100054, 4, 0x10000, 1, 0x0, ⟨0x0, 0x0, 0x0, 0x0, 0x0, 0x0, 0x0⟩, false, 0x0⟩,
  ⟨0x100058, 4, 0x10000, 1, 0x0, ⟨0x0, 0x0, 0xffffffff, 0x0, 0x0, 0x0, 0x0⟩, false, 0x0⟩,
  ⟨0x10005c, 4, 0x10000, 1, 0x0, ⟨0x0, 0x0, 0xffffffff, 0x0, 0x0, 0x0, 0x0⟩, false, 0x0⟩]

def rowsTg_1 : List RegRow := [
  ⟨0x100060, 4, 0x10000, 1, 0x0, ⟨0x0, 0x0, 0x0, 0x0, 0x0, 0xffffffff, 0x0⟩, false, 0x0⟩,
  ⟨0x110040, 1, 0x0, 1, 0x0, ⟨0x0, 0x0, 0x30f, 0x0, 0x0, 0x0, 0x0⟩, false, 0x101⟩,
  ⟨0x120040, 1, 0x0, 1, 0x0, ⟨0x0, 0x0, 0x30f, 0x0, 0x0, 0x0, 0x0⟩, false, 0x201⟩,
  ⟨0x130040, 1, 0x0, 1, 0x0, ⟨0x0, 0x0, 0x30f, 0x0, 0x0, 0x0, 0x0⟩, false, 0x301⟩]

def rowsTg : List RegRow := rowsTg_0 ++ rowsTg_1

/-- The SCN block. -/
def rowsScn_0 : List RegRow := [
  ⟨0x1401f0, 4, 0x10000, 1, 0x0, ⟨0x0, 0x0, 0x3ff0107, 0x0, 0x0, 0x0, 0x0⟩, false, 0x100002⟩,
  ⟨0x1401f4, 4, 0x10000, 1, 0x0, ⟨0x0, 0x0, 0x0, 0x0, 0x0, 0x0, 0x0⟩, false, 0x0⟩,
  ⟨0x1401f8, 4, 0x10000, 1, 0x0, ⟨0x0, 0x0, 0x0, 0x0, 0x0, 0xffffffff, 0x0⟩, false, 0x0⟩,
  ⟨0x140200, 4, 0x10000, 4, 0x40, ⟨0x0, 0x0, 0x3fffffe0, 0x0, 0x0, 0x0, 0x0⟩, true, 0x0⟩,
  ⟨0x140204, 4, 0x10000, 4, 0x40, ⟨0x0, 0x0, 0x3fffffe0, 0x0, 0x0, 0x0, 0x0⟩, true, 0x0⟩,
  ⟨0x140208, 4, 0x10000, 4, 0x40, ⟨0x0, 0x0, 0x3fffffe0, 0x0, 0x0, 0x0, 0x0⟩, true, 0x0⟩,
  ⟨0x14020c, 4, 0x10000, 4, 0x40, ⟨0x0, 0x0, 0xfffe0, 0x0, 0x0, 0x0, 0x0⟩, true, 0x0⟩,
  ⟨0x140210, 4, 0x10000, 4, 0x40, ⟨0x0, 0x0, 0xfffe0, 0x0, 0x0, 0x0, 0x0⟩, true, 0x0⟩,
  ⟨0x140214, 4, 0x10000, 4, 0x40, ⟨0x0, 0x0, 0x17, 0x0, 0x0, 0x0, 0x0⟩, false, 0x0⟩,
  ⟨0x140218, 4, 0x10000, 4, 0x40, ⟨0x0, 0x0, 0x0, 0x0, 0x1, 0x0, 0x3⟩, false, 0x0⟩,
  ⟨0x140000, 4, 0x10000, 1, 0x0, ⟨0x0, 0x0, 0xff0f7f, 0x0, 0x0, 0x0, 0x0⟩, false, 0x71⟩,
  ⟨0x140004, 4, 0x10000, 4, 0x4, ⟨0x0, 0x0, 0xffffffff, 0x0, 0x0, 0x0, 0x0⟩, false, 0x1000100⟩,
  ⟨0x140014, 4, 0x10000, 1, 0x0, ⟨0x0, 0x0, 0x0, 0x0, 0x0, 0x0, 0x0⟩, false, 0x0⟩,
  ⟨0x140018, 4, 0x10000, 1, 0x0, ⟨0x0, 0x0, 0x0, 0x0, 0x0, 0x0, 0x0⟩, false, 0x0⟩,
  ⟨0x14001c, 4, 0x10000, 1, 0x0, ⟨0x0, 0x0, 0x0, 0x0, 0x0, 0xffffffff, 0x0⟩, false, 0x0⟩,
  ⟨0x140020, 4, 0x10000, 1, 0x0, ⟨0x0, 0x0, 0x0, 0x0, 0x0, 0xffffffff, 0x0⟩, false, 0x0⟩,
  ⟨0x140040, 4, 0x10000, 3, 0x4, ⟨0x3fffffe0, 0x0, 0x0, 0x0, 0x0, 0x0, 0x0⟩, true, 0x0⟩,
  ⟨0x14004c, 4, 0x10000, 1, 0x0, ⟨0xfffe0, 0x0, 0x0, 0x0, 0x0, 0x0, 0x0⟩, true, 0x0⟩,
  ⟨0x140050, 4, 0x10000, 1, 0x0, ⟨0xfffe0, 0x0, 0x0, 0x0, 0x0, 0x0, 0x0⟩, true, 0x0⟩,
  ⟨0x140054, 4, 0x10000, 1, 0x0, ⟨0xffffffff, 0x0, 0x0, 0x0, 0x0, 0x0, 0x0⟩, false, 0x0⟩,
  ⟨0x140058, 4, 0x10000, 1, 0x0, ⟨0xffffffff, 0x0, 0x0, 0x0, 0x0, 0x0, 0x0⟩, false, 0x0⟩,
  ⟨0x14005c, 4, 0x10000, 1, 0x0, ⟨0x0, 0x0, 0x0, 0x0, 0x0, 0x0, 0x3⟩, false, 0x0⟩,
  ⟨0x140060, 4, 0x10000, 1, 0x0, ⟨0x0, 0x0, 0x0, 0x0, 0x0, 0x0, 0x0⟩, false, 0x0⟩,
  ⟨0x140064, 4, 0x10000, 1, 0x0, ⟨0x0, 0x0, 0x0, 0x0, 0x0, 0x0, 0x0⟩, false, 0x0⟩]

def rowsScn_1 : List RegRow := [
  ⟨0x140400, 4, 0x10000, 16, 0x10, ⟨0x0, 0x0, 0x31, 0x0, 0x0, 0x0, 0x0⟩, false, 0x0⟩,
  ⟨0x140404, 4, 0x10000, 16, 0x10, ⟨0x0, 0x0, 0xffffffff, 0x0, 0x0, 0x0, 0x0⟩, false, 0x0⟩,
  ⟨0x140408, 4, 0x10000, 16, 0x10, ⟨0x0, 0x0, 0xffffffff, 0x0, 0x0, 0x0, 0x0⟩, false, 0x0⟩,
  ⟨0x14040c, 4, 0x10000, 16, 0x10, ⟨0x0, 0x0, 0xf0f, 0x0, 0x0, 0x0, 0x0⟩, false, 0x1⟩,
  ⟨0x140500, 4, 0x10000, 1, 0x0, ⟨0x7ff0001, 0x0, 0x0, 0x0, 0x0, 0x0, 0x0⟩, false, 0x3e80001⟩,
  ⟨0x140504, 4, 0x10000, 1, 0x0, ⟨0xffff, 0x0, 0x0, 0x0, 0x0, 0x0, 0x0⟩, false, 0xffff⟩,
  ⟨0x140508, 4, 0x10000, 1, 0x0, ⟨0x0, 0x0, 0x0, 0x0, 0x0, 0x0, 0x0⟩, false, 0x0⟩]

def rowsScn : List RegRow := rowsScn_0 ++ rowsScn_1

/-- The REACH block. -/
def rowsReach : List RegRow := [
  ⟨0x200000, 68, 0x1000, 1, 0x0, ⟨0x0, 0x0, 0x0, 0x0, 0x0, 0x0, 0x0⟩, false, 0x0⟩]

/-- The PLN block. -/
def rowsPln : List RegRow := [
  ⟨0x300000, 96, 0x400, 1, 0x0, ⟨0x1, 0x0, 0x0, 0x0, 0x0, 0x0, 0x101⟩, false, 0x0⟩,
  ⟨0x300004, 96, 0x400, 1, 0x0, ⟨0x0, 0x0, 0x0, 0x0, 0x0, 0x0, 0x0⟩, false, 0x0⟩,
  ⟨0x300008, 96, 0x400, 1, 0x0, ⟨0x0, 0x0, 0x0, 0x0, 0x0, 0x0, 0x0⟩, false, 0x0⟩,
  ⟨0x30000c, 96, 0x400, 1, 0x0, ⟨0x0, 0x0, 0x0, 0x0, 0x0, 0x0, 0x0⟩, false, 0x0⟩,
  ⟨0x300010, 96, 0x400, 1, 0x0, ⟨0x0, 0x0, 0x0, 0x0, 0x0, 0xffffffff, 0x0⟩, false, 0x0⟩,
  ⟨0x300014, 96, 0x400, 1, 0x0, ⟨0x0, 0x0, 0x0, 0x0, 0x0, 0xffffffff, 0x0⟩, false, 0x0⟩,
  ⟨0x300018, 96, 0x400, 1, 0x0, ⟨0x0, 0x0, 0x0, 0x0, 0x0, 0xffffffff, 0x0⟩, false, 0x0⟩,
  ⟨0x30001c, 96, 0x400, 1, 0x0, ⟨0x0, 0x0, 0x0, 0x0, 0x0, 0x0, 0x0⟩, false, 0x0⟩,
  ⟨0x300020, 96, 0x400, 1, 0x0, ⟨0x0, 0x0, 0x0, 0x0, 0x0, 0x0, 0x0⟩, false, 0x0⟩,
  ⟨0x300100, 96, 0x400, 1, 0x0, ⟨0x0, 0x0, 0x0, 0x0, 0x0, 0x0, 0x0⟩, false, 0x6c00f0fc⟩,
  ⟨0x300104, 96, 0x400, 1, 0x0, ⟨0x80ffffff, 0x0, 0x0, 0x0, 0x0, 0x0, 0x80ffffff⟩, false, 0xf0fc⟩,
  ⟨0x300108, 96, 0x400, 1, 0x0, ⟨0x0, 0x0, 0x0, 0x0, 0x0, 0x0, 0x0⟩, false, 0x0⟩,
  ⟨0x30010c, 96, 0x400, 1, 0x0, ⟨0x0, 0x0, 0x0, 0x0, 0x0, 0x0, 0x0⟩, false, 0x0⟩,
  ⟨0x300110, 96, 0x400, 1, 0x0, ⟨0x0, 0x0, 0x0, 0x0, 0x0, 0x0, 0x0⟩, false, 0x0⟩,
  ⟨0x300114, 96, 0x400, 1, 0x0, ⟨0x0, 0x0, 0x0, 0x0, 0x0, 0x0, 0x0⟩, false, 0x0⟩,
  ⟨0x300118, 96, 0x400, 1, 0x0, ⟨0x0, 0x0, 0x0, 0x0, 0x0, 0x0, 0x0⟩, false, 0x0⟩,
  ⟨0x30011c, 96, 0x400, 1, 0x0, ⟨0x0, 0x0, 0x0, 0x0, 0x0, 0x0, 0x0⟩, false, 0x0⟩,
  ⟨0x300120, 96, 0x400, 1, 0x0, ⟨0x0, 0x0, 0x0, 0x0, 0x0, 0x0, 0x0⟩, false, 0x0⟩,
  ⟨0x300124, 96, 0x400, 1, 0x0, ⟨0x0, 0x0, 0x0, 0x0, 0x0, 0x0, 0x0⟩, false, 0x0⟩,
  ⟨0x300128, 96, 0x400, 1, 0x0, ⟨0x0, 0x0, 0x0, 0x0, 0x0, 0x0, 0x0⟩, false, 0x0⟩,
  ⟨0x30012c, 96, 0x400, 1, 0x0, ⟨0x0, 0x0, 0x0, 0x0, 0x0, 0x0, 0x3⟩, false, 0x0⟩]

/-- The PLG block. -/
def rowsPlg : List RegRow := [
  ⟨0x370000, 4, 0x100, 1, 0x0, ⟨0x1ff, 0x0, 0x0, 0x0, 0x0, 0x0, 0x0⟩, false, 0x10a⟩,
  ⟨0x370004, 4, 0x100, 1, 0x0, ⟨0x0, 0x0, 0x0, 0x0, 0x0, 0xffffffff, 0x0⟩, false, 0x0⟩,
  ⟨0x370008, 4, 0x100, 1, 0x0, ⟨0x0, 0x0, 0x0, 0x0, 0x0, 0x0, 0x0⟩, false, 0x0⟩,
  ⟨0x370800, 4, 0x100, 1, 0x0, ⟨0xff1ff3, 0x0, 0x0, 0x0, 0x0, 0x0, 0x0⟩, false, 0x801240⟩,
  ⟨0x370804, 4, 0x100, 1, 0x0, ⟨0xffffffff, 0x0, 0x0, 0x0, 0x0, 0x0, 0x0⟩, false, 0x400258⟩,
  ⟨0x370808, 4, 0x100, 1, 0x0, ⟨0xffff, 0x0, 0x0, 0x0, 0x0, 0x0, 0x0⟩, false, 0x4b0⟩,
  ⟨0x37080c, 4, 0x100, 1, 0x0, ⟨0x0, 0x0, 0x0, 0x0, 0x0, 0xffffffff, 0x0⟩, false, 0x0⟩]

/-- The CHNP block. -/
def rowsChnp : List RegRow := [
  ⟨0x384000, 3, 0x10000, 5, 0x100, ⟨0x0, 0x0, 0x0, 0x0, 0x0, 0x0, 0x0⟩, false, 0x6000000⟩,
  ⟨0x384004, 3, 0x10000, 5, 0x100, ⟨0x8fffffff, 0x0, 0x0, 0x0, 0x0, 0x0, 0x8fffffff⟩, false, 0x6000000⟩,
  ⟨0x384008, 3, 0x10000, 5, 0x100, ⟨0x0, 0x0, 0x0, 0x0, 0x0, 0x0, 0x0⟩, false, 0x0⟩,
  ⟨0x38400c, 3, 0x10000, 5, 0x100, ⟨0x0, 0x0, 0x0, 0x0, 0x0, 0x0, 0x0⟩, false, 0x0⟩,
  ⟨0x384010, 3, 0x10000, 5, 0x100, ⟨0x0, 0x0, 0x0, 0x0, 0x0, 0x0, 0x0⟩, false, 0x0⟩,
  ⟨0x384014, 3, 0x10000, 5, 0x100, ⟨0x0, 0x0, 0x0, 0x0, 0x0, 0x0, 0x0⟩, false, 0x0⟩,
  ⟨0x384018, 3, 0x10000, 5, 0x100, ⟨0x0, 0x0, 0x0, 0x0, 0x0, 0x0, 0x0⟩, false, 0x0⟩,
  ⟨0x38401c, 3, 0x10000, 5, 0x100, ⟨0x0, 0x0, 0x0, 0x0, 0x0, 0x0, 0x0⟩, false, 0x0⟩,
  ⟨0x380000, 3, 0x10000, 1, 0x0, ⟨0x1, 0x0, 0x0, 0x0, 0x0, 0x0, 0x0⟩, false, 0x1⟩,
  ⟨0x380004, 3, 0x10000, 1, 0x0, ⟨0x0, 0x0, 0x0, 0x0, 0x0, 0x0, 0x0⟩, false, 0x0⟩,
  ⟨0x380008, 3, 0x10000, 1, 0x0, ⟨0x0, 0x0, 0x0, 0x0, 0x0, 0xffffffff, 0x0⟩, false, 0x0⟩,
  ⟨0x38000c, 3, 0x10000, 1, 0x0, ⟨0x0, 0x0, 0x0, 0x0, 0x0, 0xffffffff, 0x0⟩, false, 0x0⟩,
  ⟨0x380010, 3, 0x10000, 1, 0x0, ⟨0x0, 0x0, 0x0, 0x0, 0x0, 0xffffffff, 0x0⟩, false, 0x0⟩,
  ⟨0x380014, 3, 0x10000, 1, 0x0, ⟨0x0, 0x0, 0x0, 0x0, 0x0, 0xffffffff, 0x0⟩, false, 0x0⟩,
  ⟨0x380018, 3, 0x10000, 1, 0x0, ⟨0x0, 0x0, 0x0, 0x0, 0x0, 0x0, 0x0⟩, false, 0x0⟩]

/-- The CHN block. -/
def rowsChn_0 : List RegRow := [
  ⟨0x3b0000, 1, 0x0, 1, 0x0, ⟨0x0, 0x0, 0x0, 0x0, 0x0, 0x0, 0x0⟩, false, 0x0⟩,
  ⟨0x3b0004, 1, 0x0, 1, 0x0, ⟨0x0, 0x0, 0x0, 0x0, 0x0, 0x0, 0x0⟩, false, 0x30⟩,
  ⟨0x3b0008, 1, 0x0, 1, 0x0, ⟨0xffff0000, 0x0, 0x0, 0x0, 0x0, 0x0, 0x1⟩, false, 0x640000⟩,
  ⟨0x3b000c, 1, 0x0, 1, 0x0, ⟨0x0, 0x0, 0x0, 0x0, 0x0, 0x0, 0x0⟩, false, 0x0⟩,
  ⟨0x3b0010, 1, 0x0, 1, 0x0, ⟨0x0, 0x0, 0x0, 0x0, 0x0, 0x0, 0x1⟩, false, 0x0⟩,
  ⟨0x3b0014, 1, 0x0, 1, 0x0, ⟨0x0, 0x0, 0x0, 0x0, 0x0, 0x0, 0x0⟩, false, 0x0⟩,
  ⟨0x3b0018, 1, 0x0, 1, 0x0, ⟨0x0, 0x0, 0x0, 0x0, 0x0, 0x0, 0x0⟩, false, 0x0⟩,
  ⟨0x3b0020, 1, 0x0, 1, 0x0, ⟨0xffff, 0x0, 0x0, 0x0, 0x0, 0x0, 0x0⟩, false, 0x0⟩,
  ⟨0x3b0024, 1, 0x0, 1, 0x0, ⟨0x3fffffe0, 0x0, 0x0, 0x0, 0x0, 0x0, 0x0⟩, false, 0x0⟩,
  ⟨0x3b0028, 1, 0x0, 1, 0x0, ⟨0x0, 0x0, 0x0, 0x0, 0x0, 0x0, 0x3⟩, false, 0x0⟩,
  ⟨0x3b002c, 1, 0x0, 1, 0x0, ⟨0x0, 0x0, 0x0, 0x0, 0x0, 0x0, 0x0⟩, false, 0x0⟩,
  ⟨0x3b0030, 1, 0x0, 1, 0x0, ⟨0xffff, 0x0, 0x0, 0x0, 0x0, 0x0, 0x0⟩, false, 0x64⟩,
  ⟨0x3b0040, 8, 0x4, 1, 0x0, ⟨0xffffffff, 0x0, 0x0, 0x0, 0x0, 0x0, 0x0⟩, false, 0x0⟩,
  ⟨0x3b0060, 1, 0x0, 1, 0x0, ⟨0x0, 0x0, 0x0, 0x0, 0x0, 0x0, 0xffff00ff⟩, false, 0x0⟩,
  ⟨0x3b0064, 1, 0x0, 1, 0x0, ⟨0xffff, 0x0, 0x0, 0x0, 0x0, 0x0, 0x0⟩, false, 0xffff⟩,
  ⟨0x3b0070, 1, 0x0, 1, 0x0, ⟨0xffff, 0x0, 0x0, 0x0, 0x0, 0x0, 0x0⟩, false, 0x0⟩,
  ⟨0x3b0074, 1, 0x0, 1, 0x0, ⟨0x0, 0x0, 0x0, 0x0, 0x0, 0x0, 0x0⟩, false, 0x0⟩,
  ⟨0x3b0078, 1, 0x0, 1, 0x0, ⟨0x0, 0x0, 0x0, 0x0, 0x0, 0x0, 0x0⟩, false, 0x0⟩,
  ⟨0x3b007c, 1, 0x0, 1, 0x0, ⟨0x0, 0x0, 0x0, 0x0, 0x0, 0xffffffff, 0x0⟩, false, 0x0⟩,
  ⟨0x3b0100, 4, 0x20, 1, 0x0, ⟨0xff0001, 0x0, 0x0, 0x0, 0x0, 0x0, 0x0⟩, false, 0x0⟩,
  ⟨0x3b0104, 4, 0x20, 1, 0x0, ⟨0xffff, 0x0, 0x0, 0x0, 0x0, 0x0, 0x0⟩, false, 0xffff⟩,
  ⟨0x3b0108, 4, 0x20, 1, 0x0, ⟨0x0, 0x0, 0x0, 0x0, 0x0, 0x0, 0x0⟩, false, 0x0⟩,
  ⟨0x3b010c, 4, 0x20, 1, 0x0, ⟨0x0, 0x0, 0x0, 0x0, 0x0, 0xffffffff, 0x0⟩, false, 0x0⟩,
  ⟨0x3b0200, 4, 0x20, 1, 0x0, ⟨0xff0001, 0x0, 0x0, 0x0, 0x0, 0x0, 0x0⟩, false, 0x0⟩]

def rowsChn_1 : List RegRow := [
  ⟨0x3b0204, 4, 0x20, 1, 0x0, ⟨0xffff, 0x0, 0x0, 0x0, 0x0, 0x0, 0x0⟩, false, 0x0⟩,
  ⟨0x3b0208, 4, 0x20, 1, 0x0, ⟨0x0, 0x0, 0x0, 0x0, 0x0, 0x0, 0x0⟩, false, 0x0⟩,
  ⟨0x3b020c, 4, 0x20, 1, 0x0, ⟨0x0, 0x0, 0x0, 0x0, 0x0, 0xffffffff, 0x0⟩, false, 0x0⟩,
  ⟨0x3b0210, 4, 0x20, 1, 0x0, ⟨0x0, 0x0, 0x0, 0x0, 0x0, 0xffffffff, 0x0⟩, false, 0x0⟩]

def rowsChn : List RegRow := rowsChn_0 ++ rowsChn_1

/-- The CAL block. -/
def rowsCal : List RegRow := [
  ⟨0x3c0000, 2048, 0x4, 1, 0x0, ⟨0x0, 0x0, 0x0, 0x0, 0x0, 0x0, 0x0⟩, false, 0x0⟩,
  ⟨0x3c2000, 1, 0x0, 1, 0x0, ⟨0x0, 0x0, 0x0, 0x0, 0x0, 0x0, 0x0⟩, false, 0x0⟩,
  ⟨0x3c2100, 16, 0x4, 1, 0x0, ⟨0x0, 0x0, 0x0, 0x0, 0x0, 0x0, 0x0⟩, false, 0xffffffff⟩,
  ⟨0x3c2200, 64, 0x4, 1, 0x0, ⟨0x0, 0x0, 0x0, 0x0, 0x0, 0x0, 0x0⟩, false, 0x0⟩]

/-- The RLF block. -/
def rowsRlf : List RegRow := [
  ⟨0x3f0000, 1, 0x0, 1, 0x0, ⟨0xffff00ff, 0x0, 0x0, 0x0, 0x0, 0x0, 0x0⟩, false, 0x4000014⟩,
  ⟨0x3f0004, 1, 0x0, 1, 0x0, ⟨0xffff, 0x0, 0x0, 0x0, 0x0, 0x0, 0x0⟩, false, 0x40⟩,
  ⟨0x3f0008, 1, 0x0, 1, 0x0, ⟨0xffffffff, 0x0, 0x0, 0x0, 0x0, 0x0, 0x0⟩, false, 0x1f4012c⟩,
  ⟨0x3f000c, 1, 0x0, 1, 0x0, ⟨0xffff0000, 0x0, 0x0, 0x0, 0x0, 0x0, 0x0⟩, false, 0x7300000⟩,
  ⟨0x3f0010, 1, 0x0, 1, 0x0, ⟨0x0, 0x0, 0x0, 0x0, 0x0, 0x0, 0x0⟩, false, 0x0⟩,
  ⟨0x3f0014, 1, 0x0, 1, 0x0, ⟨0x0, 0x0, 0x0, 0x0, 0x0, 0x0, 0x0⟩, false, 0x0⟩,
  ⟨0x3f0020, 16, 0x4, 1, 0x0, ⟨0x0, 0x0, 0x0, 0x0, 0x0, 0x0, 0x0⟩, false, 0x0⟩,
  ⟨0x3f0100, 68, 0x4, 1, 0x0, ⟨0x0, 0x0, 0x0, 0x0, 0x0, 0x0, 0x0⟩, false, 0x0⟩]

/-- The STAGE block. -/
def rowsStage_0 : List RegRow := [
  ⟨0x4000100, 4, 0x10000, 1, 0x0, ⟨0x0, 0x0, 0x1337f, 0x0, 0x0, 0x0, 0x0⟩, false, 0x10110⟩,
  ⟨0x4000104, 4, 0x10000, 1, 0x0, ⟨0x0, 0x0, 0xffffffff, 0x0, 0x0, 0x0, 0x0⟩, true, 0x0⟩,
  ⟨0x4000108, 4, 0x10000, 1, 0x0, ⟨0x0, 0x0, 0x117, 0x0, 0x0, 0x0, 0x0⟩, false, 0x100⟩,
  ⟨0x400010c, 4, 0x10000, 1, 0x0, ⟨0x0, 0x0, 0x0, 0x0, 0x0, 0xffffffff, 0x0⟩, false, 0x0⟩,
  ⟨0x4000200, 4, 0x10000, 1, 0x0, ⟨0x0, 0x0, 0x101, 0x0, 0x0, 0x0, 0x0⟩, false, 0x1⟩,
  ⟨0x4000204, 4, 0x10000, 1, 0x0, ⟨0x0, 0x0, 0xffffffff, 0x0, 0x0, 0x0, 0x0⟩, false, 0x0⟩,
  ⟨0x4000208, 4, 0x10000, 1, 0x0, ⟨0x0, 0x0, 0xffffffff, 0x0, 0x0, 0x0, 0x0⟩, false, 0x0⟩,
  ⟨0x400020c, 4, 0x10000, 1, 0x0, ⟨0x0, 0x0, 0xfffff, 0x0, 0x0, 0x0, 0x0⟩, false, 0x10000⟩,
  ⟨0x4000210, 4, 0x10000, 1, 0x0, ⟨0x0, 0x0, 0xfffff, 0x0, 0x0, 0x0, 0x0⟩, false, 0x10000⟩,
  ⟨0x4000214, 4, 0x10000, 1, 0x0, ⟨0x0, 0x0, 0xffffffff, 0x0, 0x0, 0x0, 0x0⟩, false, 0x0⟩,
  ⟨0x4000218, 4, 0x10000, 1, 0x0, ⟨0x0, 0x0, 0xffffffff, 0x0, 0x0, 0x0, 0x0⟩, false, 0x0⟩,
  ⟨0x400021c, 4, 0x10000, 1, 0x0, ⟨0x0, 0x0, 0xfffff, 0x0, 0x0, 0x0, 0x0⟩, false, 0x0⟩,
  ⟨0x4000220, 4, 0x10000, 1, 0x0, ⟨0x0, 0x0, 0xfffff, 0x0, 0x0, 0x0, 0x0⟩, false, 0x0⟩,
  ⟨0x4000224, 4, 0x10000, 1, 0x0, ⟨0x0, 0x0, 0xfffff, 0x0, 0x0, 0x0, 0x0⟩, false, 0x0⟩,
  ⟨0x4000228, 4, 0x10000, 1, 0x0, ⟨0xfbffff, 0x0, 0x0, 0x0, 0x0, 0x0, 0x0⟩, false, 0x0⟩,
  ⟨0x400022c, 4, 0x10000, 1, 0x0, ⟨0xfff, 0x0, 0x0, 0x0, 0x0, 0x0, 0xfff⟩, true, 0x0⟩,
  ⟨0x4000230, 4, 0x10000, 1, 0x0, ⟨0x0, 0x0, 0x0, 0x0, 0x0, 0x0, 0x0⟩, false, 0x0⟩,
  ⟨0x4000300, 4, 0x10000, 1, 0x0, ⟨0x0, 0x0, 0x13f0f, 0x0, 0x0, 0x0, 0x0⟩, false, 0x0⟩,
  ⟨0x4000304, 4, 0x10000, 1, 0x0, ⟨0x0, 0x0, 0xfffff, 0x0, 0x0, 0x0, 0x0⟩, false, 0x10000⟩,
  ⟨0x4000308, 4, 0x10000, 1, 0x0, ⟨0x0, 0x0, 0xfffff, 0x0, 0x0, 0x0, 0x0⟩, false, 0x0⟩,
  ⟨0x400030c, 4, 0x10000, 1, 0x0, ⟨0x0, 0x0, 0xfffff, 0x0, 0x0, 0x0, 0x0⟩, false, 0x0⟩,
  ⟨0x4000310, 4, 0x10000, 1, 0x0, ⟨0x0, 0x0, 0xfffff, 0x0, 0x0, 0x0, 0x0⟩, false, 0x0⟩,
  ⟨0x4000314, 4, 0x10000, 1, 0x0, ⟨0x0, 0x0, 0xfffff, 0x0, 0x0, 0x0, 0x0⟩, false, 0x10000⟩,
  ⟨0x4000318, 4, 0x10000, 1, 0x0, ⟨0x0, 0x0, 0xfffff, 0x0, 0x0, 0x0, 0x0⟩, false, 0x0⟩]

def rowsStage_1 : List RegRow := [
  ⟨0x400031c, 4, 0x10000, 1, 0x0, ⟨0x0, 0x0, 0xfffff, 0x0, 0x0, 0x0, 0x0⟩, false, 0x0⟩,
  ⟨0x4000320, 4, 0x10000, 1, 0x0, ⟨0x0, 0x0, 0xfffff, 0x0, 0x0, 0x0, 0x0⟩, false, 0x0⟩,
  ⟨0x4000324, 4, 0x10000, 1, 0x0, ⟨0x0, 0x0, 0xfffff, 0x0, 0x0, 0x0, 0x0⟩, false, 0x10000⟩,
  ⟨0x4000328, 4, 0x10000, 3, 0x4, ⟨0x0, 0x0, 0x1fffff, 0x0, 0x0, 0x0, 0x0⟩, false, 0x0⟩,
  ⟨0x4000334, 4, 0x10000, 3, 0x4, ⟨0x0, 0x0, 0x1fffff, 0x0, 0x0, 0x0, 0x0⟩, false, 0x0⟩,
  ⟨0x4000340, 4, 0x10000, 1, 0x0, ⟨0xfbffff, 0x0, 0x0, 0x0, 0x0, 0x0, 0x0⟩, false, 0x0⟩,
  ⟨0x4000344, 4, 0x10000, 1, 0x0, ⟨0xfffff, 0x0, 0x0, 0x0, 0x0, 0x0, 0xfffff⟩, true, 0x0⟩,
  ⟨0x4000348, 4, 0x10000, 1, 0x0, ⟨0x0, 0x0, 0x0, 0x0, 0x0, 0x0, 0x0⟩, false, 0x0⟩,
  ⟨0x4000400, 4, 0x10000, 1, 0x0, ⟨0x0, 0x0, 0x7ff77, 0x0, 0x0, 0x0, 0x0⟩, false, 0x8011⟩,
  ⟨0x4000404, 4, 0x10000, 1, 0x0, ⟨0x0, 0x0, 0xffffffff, 0x0, 0x0, 0x0, 0x0⟩, false, 0x8000⟩,
  ⟨0x4000408, 4, 0x10000, 1, 0x0, ⟨0x0, 0x0, 0xffffffff, 0x0, 0x0, 0x0, 0x0⟩, false, 0x0⟩,
  ⟨0x400040c, 4, 0x10000, 1, 0x0, ⟨0x0, 0x0, 0xffffffff, 0x0, 0x0, 0x0, 0x0⟩, false, 0x0⟩,
  ⟨0x4000410, 4, 0x10000, 1, 0x0, ⟨0x0, 0x0, 0xffffffff, 0x0, 0x0, 0x0, 0x0⟩, false, 0x0⟩,
  ⟨0x4000414, 4, 0x10000, 1, 0x0, ⟨0x0, 0x0, 0xffffffff, 0x0, 0x0, 0x0, 0x0⟩, false, 0x8000⟩,
  ⟨0x4000418, 4, 0x10000, 1, 0x0, ⟨0x0, 0x0, 0xffffffff, 0x0, 0x0, 0x0, 0x0⟩, false, 0x0⟩,
  ⟨0x400041c, 4, 0x10000, 1, 0x0, ⟨0x0, 0x0, 0xffffffff, 0x0, 0x0, 0x0, 0x0⟩, false, 0x0⟩,
  ⟨0x4000420, 4, 0x10000, 1, 0x0, ⟨0x0, 0x0, 0xffffffff, 0x0, 0x0, 0x0, 0x0⟩, false, 0x0⟩,
  ⟨0x4000424, 4, 0x10000, 1, 0x0, ⟨0x0, 0x0, 0xfffff, 0x0, 0x0, 0x0, 0x0⟩, false, 0x40⟩,
  ⟨0x4000428, 4, 0x10000, 1, 0x0, ⟨0x0, 0x0, 0x3fffffe0, 0x0, 0x0, 0x0, 0x0⟩, true, 0x0⟩,
  ⟨0x400042c, 4, 0x10000, 1, 0x0, ⟨0x0, 0x0, 0xfffe0, 0x0, 0x0, 0x0, 0x0⟩, true, 0x0⟩,
  ⟨0x4000430, 4, 0x10000, 1, 0x0, ⟨0xfbffff, 0x0, 0x0, 0x0, 0x0, 0x0, 0x0⟩, false, 0x0⟩,
  ⟨0x4000434, 4, 0x10000, 1, 0x0, ⟨0xfffff, 0x0, 0x0, 0x0, 0x0, 0x0, 0xfffff⟩, true, 0x0⟩,
  ⟨0x4000438, 4, 0x10000, 1, 0x0, ⟨0x0, 0x0, 0x0, 0x0, 0x0, 0x0, 0x0⟩, false, 0x0⟩,
  ⟨0x400043c, 4, 0x10000, 1, 0x0, ⟨0x0, 0x0, 0x0, 0x0, 0x0, 0xffffffff, 0x0⟩, false, 0x0⟩]

def rowsStage_2 : List RegRow := [
  ⟨0x4000500, 4, 0x10000, 1, 0x0, ⟨0x0, 0x0, 0x3, 0x0, 0x0, 0x0, 0x0⟩, false, 0x0⟩,
  ⟨0x4000504, 4, 0x10000, 1, 0x0, ⟨0x0, 0x0, 0x3fffffe0, 0x0, 0x0, 0x0, 0x3fffffe0⟩, true, 0x0⟩,
  ⟨0x4000508, 4, 0x10000, 1, 0x0, ⟨0x0, 0x0, 0x3fffffe0, 0x0, 0x0, 0x0, 0x3fffffe0⟩, true, 0x0⟩,
  ⟨0x400050c, 4, 0x10000, 1, 0x0, ⟨0x0, 0x0, 0x0, 0x0, 0x0, 0x0, 0x3⟩, false, 0x0⟩,
  ⟨0x4000510, 4, 0x10000, 1, 0x0, ⟨0x0, 0x0, 0x0, 0x0, 0x0, 0x0, 0x0⟩, false, 0x0⟩,
  ⟨0x4000514, 4, 0x10000, 1, 0x0, ⟨0x0, 0x0, 0x0, 0x0, 0x0, 0x0, 0x0⟩, false, 0x0⟩,
  ⟨0x4000518, 4, 0x10000, 1, 0x0, ⟨0x0, 0x1, 0x0, 0x0, 0x0, 0x0, 0x1⟩, false, 0x0⟩,
  ⟨0x400051c, 4, 0x10000, 1, 0x0, ⟨0x0, 0x0, 0x0, 0x0, 0x0, 0x0, 0x0⟩, false, 0x0⟩,
  ⟨0x4000520, 4, 0x10000, 1, 0x0, ⟨0x0, 0x0, 0x0, 0x0, 0x0, 0xffffffff, 0x0⟩, false, 0x0⟩,
  ⟨0x4000600, 4, 0x10000, 1, 0x0, ⟨0x0, 0x0, 0x1031f1f, 0x0, 0x0, 0x0, 0x0⟩, false, 0x4⟩,
  ⟨0x4000604, 4, 0x10000, 1, 0x0, ⟨0x0, 0x0, 0xffffffe0, 0x0, 0x0, 0x0, 0x0⟩, true, 0x0⟩,
  ⟨0x4000608, 4, 0x10000, 1, 0x0, ⟨0x0, 0x0, 0xffffffff, 0x0, 0x0, 0x0, 0x0⟩, true, 0x0⟩,
  ⟨0x400060c, 4, 0x10000, 1, 0x0, ⟨0x0, 0x0, 0xfffe0, 0x0, 0x0, 0x0, 0x0⟩, true, 0x0⟩,
  ⟨0x4000610, 4, 0x10000, 1, 0x0, ⟨0x0, 0x0, 0x3fffffe0, 0x0, 0x0, 0x0, 0x0⟩, true, 0x0⟩,
  ⟨0x4000614, 4, 0x10000, 1, 0x0, ⟨0x0, 0x0, 0x3fffffe0, 0x0, 0x0, 0x0, 0x0⟩, true, 0x0⟩,
  ⟨0x4000618, 4, 0x10000, 1, 0x0, ⟨0x0, 0x0, 0xffff, 0x0, 0x0, 0x0, 0x0⟩, false, 0x1000⟩,
  ⟨0x400061c, 4, 0x10000, 1, 0x0, ⟨0x0, 0x0, 0xfffff, 0x0, 0x0, 0x0, 0x0⟩, false, 0x40000⟩,
  ⟨0x4000620, 4, 0x10000, 1, 0x0, ⟨0x0, 0x0, 0xff, 0x0, 0x0, 0x0, 0x0⟩, false, 0x0⟩,
  ⟨0x4000624, 4, 0x10000, 1, 0x0, ⟨0x0, 0x0, 0xfff, 0x0, 0x0, 0x0, 0x0⟩, false, 0x0⟩,
  ⟨0x4000628, 4, 0x10000, 1, 0x0, ⟨0xfff, 0x0, 0x0, 0x0, 0x0, 0x0, 0x0⟩, false, 0x3c⟩,
  ⟨0x400062c, 4, 0x10000, 1, 0x0, ⟨0xfbffff, 0x0, 0x0, 0x0, 0x0, 0x0, 0x0⟩, false, 0x0⟩,
  ⟨0x4000630, 4, 0x10000, 1, 0x0, ⟨0xffff, 0x0, 0x0, 0x0, 0x0, 0x0, 0xffff⟩, true, 0x0⟩,
  ⟨0x4000634, 4, 0x10000, 1, 0x0, ⟨0x0, 0x0, 0x0, 0x0, 0x0, 0x0, 0x0⟩, false, 0x2⟩,
  ⟨0x4000638, 4, 0x10000, 1, 0x0, ⟨0x0, 0x0, 0x0, 0x0, 0x0, 0x0, 0x0⟩, false, 0x0⟩]

def rowsStage_3 : List RegRow := [
  ⟨0x400063c, 4, 0x10000, 1, 0x0, ⟨0x0, 0x0, 0x0, 0x0, 0x0, 0xffffffff, 0x0⟩, false, 0x0⟩,
  ⟨0x4000640, 4, 0x10000, 1, 0x0, ⟨0x0, 0x0, 0x0, 0x0, 0x0, 0xffffffff, 0x0⟩, false, 0x0⟩,
  ⟨0x4000644, 4, 0x10000, 1, 0x0, ⟨0x0, 0x0, 0x0, 0x0, 0x0, 0xffffffff, 0x0⟩, false, 0x0⟩,
  ⟨0x4000648, 4, 0x10000, 1, 0x0, ⟨0x0, 0x0, 0x0, 0x0, 0x0, 0xffffffff, 0x0⟩, false, 0x0⟩,
  ⟨0x400064c, 4, 0x10000, 1, 0x0, ⟨0x0, 0x0, 0x0, 0x0, 0x0, 0xffffffff, 0x0⟩, false, 0x0⟩,
  ⟨0x4000650, 4, 0x10000, 1, 0x0, ⟨0x0, 0x0, 0x0, 0x0, 0x0, 0xffffffff, 0x0⟩, false, 0x0⟩,
  ⟨0x4000654, 4, 0x10000, 1, 0x0, ⟨0x0, 0x0, 0x0, 0x0, 0x0, 0xffffffff, 0x0⟩, false, 0x0⟩,
  ⟨0x4000658, 4, 0x10000, 1, 0x0, ⟨0x0, 0x0, 0x0, 0x0, 0x0, 0xffffffff, 0x0⟩, false, 0x0⟩,
  ⟨0x4000700, 4, 0x10000, 1, 0x0, ⟨0x0, 0x0, 0x1010103, 0x0, 0x0, 0x0, 0x0⟩, false, 0x0⟩,
  ⟨0x4000704, 4, 0x10000, 1, 0x0, ⟨0x0, 0x0, 0x3fffffe0, 0x0, 0x0, 0x0, 0x0⟩, true, 0x0⟩,
  ⟨0x4000708, 4, 0x10000, 1, 0x0, ⟨0x0, 0x0, 0x3fffffe0, 0x0, 0x0, 0x0, 0x0⟩, true, 0x0⟩,
  ⟨0x400070c, 4, 0x10000, 1, 0x0, ⟨0x0, 0x0, 0xfffe0, 0x0, 0x0, 0x0, 0x0⟩, true, 0x0⟩,
  ⟨0x4000710, 4, 0x10000, 1, 0x0, ⟨0x0, 0x0, 0xffffffff, 0x0, 0x0, 0x0, 0x0⟩, false, 0xffb0ff10⟩,
  ⟨0x4000714, 4, 0x10000, 1, 0x0, ⟨0x0, 0x0, 0xffffffff, 0x0, 0x0, 0x0, 0x0⟩, false, 0xf00050⟩,
  ⟨0x4000718, 4, 0x10000, 1, 0x0, ⟨0x0, 0x0, 0xffffffff, 0x0, 0x0, 0x0, 0x0⟩, false, 0x2300190⟩,
  ⟨0x400071c, 4, 0x10000, 1, 0x0, ⟨0x0, 0x0, 0xffffffff, 0x0, 0x0, 0x0, 0x0⟩, false, 0x37002d0⟩,
  ⟨0x4000720, 4, 0x10000, 1, 0x0, ⟨0xffff, 0x0, 0x0, 0x0, 0x0, 0x0, 0xffff⟩, false, 0x190⟩,
  ⟨0x4000724, 4, 0x10000, 1, 0x0, ⟨0x0, 0x0, 0xffff00ff, 0x0, 0x0, 0x0, 0x0⟩, false, 0x0⟩,
  ⟨0x4000728, 4, 0x10000, 1, 0x0, ⟨0xffff, 0x0, 0x0, 0x0, 0x0, 0x0, 0x0⟩, false, 0x3e8⟩,
  ⟨0x400072c, 4, 0x10000, 1, 0x0, ⟨0x0, 0x0, 0x0, 0x0, 0x0, 0x0, 0x0⟩, false, 0x190⟩,
  ⟨0x4000730, 4, 0x10000, 1, 0x0, ⟨0xfbffff, 0x0, 0x0, 0x0, 0x0, 0x0, 0x0⟩, false, 0x0⟩,
  ⟨0x4000734, 4, 0x10000, 1, 0x0, ⟨0xfffff, 0x0, 0x0, 0x0, 0x0, 0x0, 0xfffff⟩, true, 0x0⟩,
  ⟨0x4000738, 4, 0x10000, 1, 0x0, ⟨0x0, 0x0, 0x0, 0x0, 0x0, 0x0, 0x0⟩, false, 0x0⟩,
  ⟨0x4000800, 4, 0x10000, 1, 0x0, ⟨0x0, 0x0, 0x1113c, 0x0, 0x0, 0x0, 0x0⟩, false, 0x120⟩]

def rowsStage_4 : List RegRow := [
  ⟨0x4000804, 4, 0x10000, 1, 0x0, ⟨0x0, 0x0, 0xfff, 0x0, 0x0, 0x0, 0x0⟩, false, 0x400⟩,
  ⟨0x4000808, 4, 0x10000, 1, 0x0, ⟨0x0, 0x0, 0xffffffff, 0x0, 0x0, 0x0, 0x0⟩, false, 0x0⟩,
  ⟨0x400080c, 4, 0x10000, 1, 0x0, ⟨0x0, 0x0, 0x3f3f3f3f, 0x0, 0x0, 0x0, 0x0⟩, false, 0x2f1d0000⟩,
  ⟨0x4000810, 4, 0x10000, 1, 0x0, ⟨0x0, 0x0, 0x3f3f3f3f, 0x0, 0x0, 0x0, 0x0⟩, false, 0x22120d33⟩,
  ⟨0x4000814, 4, 0x10000, 1, 0x0, ⟨0x0, 0x0, 0x3f3f3f3f, 0x0, 0x0, 0x0, 0x0⟩, false, 0x152b2b15⟩,
  ⟨0x4000818, 4, 0x10000, 1, 0x0, ⟨0xfbffff, 0x0, 0x0, 0x0, 0x0, 0x0, 0x0⟩, false, 0x0⟩,
  ⟨0x400081c, 4, 0x10000, 1, 0x0, ⟨0xfff, 0x0, 0x0, 0x0, 0x0, 0x0, 0xfff⟩, false, 0x0⟩,
  ⟨0x4000820, 4, 0x10000, 1, 0x0, ⟨0x0, 0x0, 0x0, 0x0, 0x0, 0x0, 0x0⟩, false, 0x0⟩,
  ⟨0x4000824, 4, 0x10000, 1, 0x0, ⟨0x0, 0x0, 0x0, 0x0, 0x0, 0x0, 0x0⟩, false, 0x0⟩]

def rowsStage : List RegRow := rowsStage_0 ++ rowsStage_1 ++ rowsStage_2 ++ rowsStage_3 ++ rowsStage_4

/-- The rows of the block an address lies in. -/
def blockRows (addr : Nat) : List RegRow :=
  let b := addr / 0x10000
  if b < 0x1 then rowsGlb else
  if b < 0x2 then rowsEvt else
  if b < 0x3 then rowsMst else
  if b < 0x4 then rowsPurs else
  if b < 0x5 then rowsClk else
  if b < 0x6 then rowsTime else
  if b < 0x8 then rowsSst else
  if b < 0xa then rowsDma else
  if b < 0xc then rowsHold else
  if b < 0x10 then rowsEddy else
  if b < 0x14 then rowsTg else
  if b < 0x18 then rowsScn else
  if b < 0x27 then rowsReach else
  if b < 0x37 then rowsPln else
  if b < 0x38 then rowsPlg else
  if b < 0x3b then rowsChnp else
  if b < 0x3c then rowsChn else
  if b < 0x3d then rowsCal else
  if b < 0x40 then rowsRlf else
  if b < 0x404 then rowsStage else []

end Sys2Proof.Machine
end

