-- ==== Sys2Proof/Config.lean ====
section
/-!
DEFINITION. What an implementation of the part fixes and the spec does not: free values, each without a body, so that no
proof can rest on a number for it.
-/

namespace Sys2Proof

/-- The firmware version word of PURS_INFO (R374): the signed firmware's own. -/
opaque Config.pursInfo : Word

/-- The blue-noise mask the Purser loads from its firmware into the dither table banks (R142), entry by entry. -/
opaque Config.ditherMask : Nat → BitVec 12

/-- A free value: whatever the hardware shows where the spec gives no value. The argument counts the uses. -/
opaque Config.freeValue : Nat → Nat

/-- A byte of a Hold bank whose contents an abandoned destructive test left open, by the stamp of the abandonment and the
byte's address. -/
opaque Config.unknownByte : Nat → Nat → Byte

/-- The factory value of trim i, from OTP (R408). -/
opaque Config.factoryTrim : Nat → BitVec 16

/-- OTP word w after so many customer fusings: where the OTP keeps each value is not given (CAL_OTPw). -/
opaque Config.otpWord : Nat → Nat → Word

/-- The 64-bit serial number in OTP (CHN_SERIAL). -/
opaque Config.serial : BitVec 64

/-- The payload bytes of a HOLD_REPAIR record for the repairs it lists: the spec gives the payload no layout. -/
opaque Config.repairRecord : List Nat → List Byte

/-- The 32-byte header of the RELIEF_LOG payload for the swaps logged, the index of the next entry and the wrap bit (R419):
the spec does not place them. -/
opaque Config.reliefHeader : Nat → Nat → Bool → List Byte

/-- The payload bytes of an AGING record for the slowdowns measured, and of a PURSER_LOG record for the restarts counted: the spec gives neither a
layout. -/
opaque Config.agingRecord : List Nat → List Byte
opaque Config.purserLog : Nat → List Byte

/-- What DUAL's division gives for a target when both the light and DUAL_L_MIN are 0 (R95). -/
opaque Config.dualByZero : Nat → Nat

/-- The state of the additive scrambler of a lane of a chain port when the port begins to transmit (R301). -/
opaque Config.chainScramble : Nat → Nat → Nat

/-- A token of a general-mode parse (R287): a literal byte, or a match of a length at a distance. -/
inductive EddyToken where
  | lit (b : Byte)
  | copy (len dist : Nat)
deriving DecidableEq, Repr

/-- A block of a general-mode parse (R288): its TYPE, its 317 code lengths when dynamic, its tokens. -/
structure EddyBlock where
  type : Nat
  lens : List Nat
  tokens : List EddyToken
deriving DecidableEq, Repr

/-- The blocks and matches a compressor chooses (R289), from the history, the last dynamic tables and the input: a fixed
function of them that the spec does not give. -/
opaque Config.eddyParse : List Byte → List Nat → List Byte → List EddyBlock

/-- The tokens that end the open block, and the blocks after it, that a compressor chooses from a restored context which is not the one
its job would have reached by itself: from the history, the tables, the input left, and whether the job ends the stream. -/
opaque Config.eddyRest : List Byte → List Nat → List Byte → Bool → List EddyToken × List EddyBlock

/-- The code words (bits of input, bits of output) of such a job where no blocks spell the input left behind the context, so that the spec states no
result: a context that stands in a FINAL block, or in a stored block longer than that input. -/
opaque Config.eddyLoose : List Byte → List Nat → List Byte → Bool → List (Nat × List Bool)

/-- The history and the last row of an Eddy context that Winter has lost under a job stopped for output space (R394): what the engine goes
on with is not given. -/
opaque Config.lostHistory : Nat → List Byte
opaque Config.lostRow : Nat → List Nat

/-- The code lengths and the held bits of such a context. -/
opaque Config.lostLens : Nat → List Nat
opaque Config.lostBits : Nat → List Bool

end Sys2Proof
end

