-- ==== Sys2Proof/Machine/Types.lean ====
section
/-!
DEFINITION. The kinds of state the part holds beside its registers: the shapes of its queues, buffers, units and links.
-/

namespace Sys2Proof.Machine

/-- One LPL block: its header value and its 32 payload bytes before scrambling (R190, R193). -/
structure LaneBlock where
  header : Nat
  payload : List Byte
deriving DecidableEq, Repr

/-- What the part sends or drives to the outside. -/
inductive Out where
  /-- A read completion returned to a host function through a BAR. -/
  | completion (w : Word)
  /-- A BAR2 read completion of a function: its data, poisoned, or ended with Completer Abort (R359). -/
  | bar2 (fn : Nat) (data : List Byte) (poisoned abort : Bool)
  /-- An MSI-X message on a pool vector: a write by its function of its table entry's data at its address (R360, R383). -/
  | msix (vector fn addr data : Nat)
  /-- A memory write request under a function's requester ID. -/
  | hostWrite (fn addr : Nat) (data : List Byte)
  /-- A memory read request under a function's requester ID. -/
  | hostRead (fn addr len : Nat)
  /-- A Latency Tolerance Reporting message of so many ns (R362). -/
  | ltr (ns : Nat)
  /-- A PTM dialog request (R333). -/
  | ptmRequest
  /-- The response to an access of a master that is no host function at a Hold bank gate: master, status code, BUSY, data. -/
  | holdResponse (master code : Nat) (busy : Bool) (data : List Byte)
  /-- A sub-round on a chain port: its short flit, and the levels of its four lanes. -/
  | subRound (port : Nat) (flit : List Byte) (levels : List (List Nat))
  /-- The five pixel flits of the round begun on a chain port. -/
  | pixelGroup (port : Nat) (flits : List (List Byte))
  /-- A frame sent on a sideband group. -/
  | sideband (group : Nat) (frame : List Byte)
  /-- A block placed on a panel lane, and its 132 levels (R190 to R192). -/
  | lane (lane : Nat) (block : LaneBlock) (levels : List Nat)
  /-- The raw symbols of a panel lane that form no block: stage A of a training sequence (R200). -/
  | stageA (lane : Nat) (levels : List Nat)
  /-- A panel lane in electrical idle. -/
  | laneIdle (lane : Nat)
  /-- A gate-control pin at the off level, its inactive level, or its active level, from a pixel of a line on. -/
  | gate (output pin : Nat) (level : Bool) (line pixel : Int)
  /-- The level of a DCHGn_N pin. -/
  | dchg (output : Nat) (high : Bool)
  /-- A PLRL_TXgk output: whether it carries its relief slice's signal, or is in electrical idle (R442). -/
  | plrl (group slot : Nat) (driven : Bool)
  /-- Every output pin high-impedance (R430, R432), until the supplies return; the part's own pull-downs hold the GC and DCHG pins while VDD_IO is
  there (R441). -/
  | float
  /-- The start of an LTC word: pin, the 80 bits. -/
  | ltc (pin : Nat) (word : Nat)
  /-- A reference pulse begun on a REF_OUT pin: its width in ns, whether active low. -/
  | refOut (pin width : Nat) (low : Bool)
deriving DecidableEq, Repr

/-! The Hold (11_the_hold.md). -/

/-- A ferry in flight (R242): its bank, the owner it takes the bank from, the owner it gives it to. -/
structure Ferry where
  bank : Nat
  oldOwner : Nat
  target : Nat
deriving DecidableEq, Repr

/-- A requested march test under way (R247, R248): its settings, and of a preserving one the window it works on (bank * 2048 +
window) and the fabric cycle in which it began that. -/
structure MarchTest where
  preserving : Bool
  variant14 : Bool
  checker : Bool
  first : Nat
  count : Nat
  at_ : Nat
  since : Int
deriving DecidableEq, Repr

/-- A repair under way (R253, R254): a row, or a whole bank. -/
inductive Repair where
  | row (bank row : Nat)
  | bank (bank : Nat)
deriving DecidableEq, Repr

/-- An access that waits at a bank gate since a fabric cycle (R238). -/
structure HeldAccess where
  peer : Peer
  since : Int
deriving DecidableEq, Repr

/-- A write of several words that the gate of the Hold holds: its master, its first address, its bytes, the fabric cycle in which it came. -/
structure HeldRun where
  master : Nat
  addr : Nat
  data : List Byte
  since : Int
deriving DecidableEq, Repr

/-- The state of the Hold beside its registers. `bytes` is the memory, an unlisted byte reading 0 (the start-up march
leaves every word zero, R246); `uncorr` holds the word addresses that read as uncorrectable, `unknownBanks` the banks, each with
the stamp of its free contents, that an abandoned destructive test left with contents the spec does not give, but for the words of `knownWords`, stored since;
`served` holds the master that each bank's port served last of each class of R235, `wave` the groups that a Thaw is waking (R244), `badRows` and
`badBanks` the relief rows (bank, row) and relief banks that a march test found failing; `heldRuns` are the writes of several words that the gate holds,
`port` what the accesses of the command under way meet. -/
structure HoldState where
  bytes : List Host.Cell
  uncorr : List Nat
  unknownBanks : List (Nat × Nat)
  knownWords : List Nat
  held : List HeldAccess
  heldRuns : List HeldRun
  port : HoldPort
  outstanding : List Peer
  served : List (Nat × Nat)
  ferries : List Ferry
  structFerries : List (Nat × Nat)
  busyPin : Bool
  test : Option MarchTest
  window : Option Nat
  yieldsInRow : Nat
  repair : Option Repair
  repairCause : Nat
  repairSlot : Option Nat
  reliefRows : List (Nat × Nat)
  reliefBanks : List Nat
  badRows : List (Nat × Nat)
  badBanks : List Nat
  unready : List Nat
  wave : List Nat
deriving DecidableEq, Repr

/-! The structure stream (02_structure_stream.md). -/

/-- What the active structure says of one output: the payloads of its OUTPUT, ROUTE and LANEMAP records (empty when it
has none), its SSC depth, and the SEQUENCE under which it last landed (R50). -/
structure OutConfig where
  output : List Word
  route : List Word
  lanemap : List Word
  ssc : Nat
  seq : Nat
deriving DecidableEq, Repr

/-- A command of the SST block under way: its OP and slot, and how many of its read requests it keeps in flight (R353). -/
structure SstRun where
  op : Nat
  slot : Nat
  reads : Nat
deriving DecidableEq, Repr

/-- The state of the structure-stream loader beside its registers: the four staging slots, the command under way, the
active structure, the banks that the pending structure has still to give their owner (R46), and whether the pending APPLY
waits for GO. -/
structure SstState where
  slots : List (List Word)
  running : Option SstRun
  outs : List OutConfig
  rights : List (List Word)
  banksLeft : List Nat
  relief : Nat
  clocks : Word
  timerole : List Word
  applyHold : Bool
deriving DecidableEq, Repr

/-! The host interface (16_host_interface.md) and the Purser (17_purser_events_manifest.md). -/

/-- The identity a function presents in its configuration space (R1, R354). -/
structure FnId where
  vendor : Nat
  device : Nat
  revision : Nat
  classCode : Nat
  subVendor : Nat
  subsystem : Nat
deriving DecidableEq, Repr

/-- A host read through BAR2 under way (R352): its function, first byte and length, and the words answered, each with its code and its
bytes from the first that the read asks for. -/
structure BarRead where
  fn : Nat
  start : Nat
  len : Nat
  got : List (Nat × Nat × List Byte)
deriving DecidableEq, Repr

/-- One function's configuration space, as far as software sets it (R352, R353, R354, R356, R361, R362): its enables, its sizes, the status
bits that it logs errors in. -/
structure FnConfig where
  memSpace : Bool
  busMaster : Bool
  d3hot : Bool
  msixEnable : Bool
  fnMask : Bool
  maxPayload : Nat
  maxReadReq : Nat
  tagMode : Nat
  ltrEnable : Bool
  flrBusy : Bool
  aerCor : Nat
  aerUnc : Nat
deriving DecidableEq, Repr

/-- The address and the data of an MSI-X table entry (R357, R360). -/
structure MsixEntry where
  vector : Nat
  addr : Nat
  data : Nat
deriving DecidableEq, Repr

/-- What software gives the link's power states (R362): ASPM L1, L1.1 and L1.2 enabled, and the latency in ns from which L1.2 may be
entered. -/
structure L1Config where
  l1 : Bool
  l11 : Bool
  l12 : Bool
  threshold : Nat
deriving DecidableEq, Repr

/-- The host link and the functions. `rate` and `width` are those of the last training, `active` the lanes in use since a change under
L0p; `inL1` says whether the link rests, in the substate `sub` (0 L1, 1 L1.1, 2 L1.2); `pfBars` and `vfBars` are the addresses in the BARs 0, 2
and 4 of PF0 and of the VFs, `pageSize` the System Page Size, `bus` the bus number that PF0's routing ID carries. `unmasked` lists the MSI-X vectors whose Mask bit is
clear, `entries` the table entries written, `pba` the vectors that hold a message, `ids` the identity of each function, `reads` the BAR2 reads
under way. -/
structure HostState where
  linkUp : Bool
  rate : Nat
  width : Nat
  active : Nat
  flitMode : Bool
  trainedBefore : Bool
  inL1 : Bool
  sub : Nat
  aspm : L1Config
  vfEnable : Bool
  numVfs : Nat
  pageSize : Nat
  bus : Nat
  pfBars : List Nat
  vfBars : List Nat
  fns : List FnConfig
  unmasked : List Nat
  entries : List MsixEntry
  pba : List Nat
  perst : Bool
  ids : List FnId
  reads : List BarRead
deriving DecidableEq, Repr

/-- The Purser: whether it serves, its queue of doorbells (slot and master), the slot taken up, the master that rang it, whether its
command has been begun; the events waiting for its stamp; the host address of the Manifest under way, whether its flush read is in
flight, and the address of the request that waits. -/
structure PurserState where
  serving : Bool
  queue : List (Nat × Nat)
  current : Option Nat
  caller : Nat
  begun : Bool
  stamps : List Nat
  manifest : Option Nat
  flushing : Bool
  manifestWaiting : Option Nat
deriving DecidableEq, Repr

/-! The outputs: timing generators, scan-out engines and pixel routes (03 to 08). -/

/-- One line of pixels: its three components, each a list over the columns. -/
structure Row where
  c0 : List Nat
  c1 : List Nat
  c2 : List Nat
deriving DecidableEq, Repr

/-- A queued region update (R179): its tag, its staging planes and strides, its rectangle in source coordinates. -/
structure Region where
  tag : Nat
  src : List Nat
  stride0 : Nat
  stride12 : Nat
  x : Nat
  y : Nat
  w : Nat
  h : Nat
deriving DecidableEq, Repr

/-- The timing a frame runs at: totals, active size, refresh as a rational, pacing source. -/
structure Timing where
  hTotal : Nat
  vTotal : Nat
  hActive : Nat
  vActive : Nat
  num : Nat
  den : Nat
  pace : Nat
deriving DecidableEq, Repr

/-- The pacing of a timing generator (R145 to R159). Times are in picoseconds of local time. `origin` is the frame edge from which free-run
counts `frames` periods, `startAt` the write that enabled the output; `frameEdge` and `alignedEdge` the last frame edge and the last aligned
one, `alignCount` the frames since and `every` the frames from one to the next; `phase` the error that the edges to come will show,
`pulled` what has been pulled since the last aligned edge, `trim` (in 10^-9) and `pull` what the frame under way lasts by. -/
structure SyncState where
  origin : Int
  frames : Nat
  startAt : Int
  every : Nat
  trim : Int
  pull : Int
  pulled : Int
  lastRef : Option Int
  periodKnown : Bool
  predicted : Int
  good : Nat
  frameEdge : Int
  alignedEdge : Int
  alignCount : Nat
  phase : Int
  scheduled : Option Int
deriving DecidableEq, Repr

/-- The region engine of an output (R179 to R182): queued entries, the copy under way, copied entries waiting for a
Landing, the batch being merged, whether the whole slot is being seeded, whether copying waits for a Landing, and whether
the READY of the back slot is the engine's own. -/
structure RegionState where
  queue : List Region
  copying : Option Region
  copied : List Region
  merging : List Region
  seeding : Bool
  closed : Bool
  ownReady : Bool
deriving DecidableEq, Repr

/-- What a stage has read of a correction map for a line group (R105 to R107): the group, its decoded rows and the two rows of the grid under it (none
where they contribute 0), the anchors. -/
structure MapGroup where
  group : Nat
  rows : List (List Nat)
  grid : List (List Byte)
  anchors : List Nat
deriving DecidableEq, Repr

/-- A correction map of an output (R108 to R110): WIDTH and HEIGHT of the container last found valid and of the one in use,
whether it stopped matching the raster, and the line group read last. -/
structure MapUse where
  checked : Nat × Nat
  used : Nat × Nat
  dead : Bool
  layer : Option MapGroup
deriving DecidableEq, Repr

/-- An index entry of the wear map that waits for the next Landing (R126): group, offset, length, CRC, RAW. -/
structure WearEntry where
  group : Nat
  off : Nat
  len : Nat
  crc : Nat
  raw : Bool
deriving DecidableEq, Repr

/-- A ledger row on its way from the host (R120, R125, R265), for a sample or for the generator: the bytes requested, the requests in flight, the bytes
that have come. -/
structure LedgerRead where
  row : Nat
  gen : Bool
  next : Nat
  out : Nat
  got : List Byte
deriving DecidableEq, Repr

/-- WEAR beside its registers (R118 to R126): the rotation of the cycle, the owed rows, the ledger rows read, on their way,
waiting for a write-back, and on their way back with whether the flush read is in flight; the rows of the group that the generator
is reading which have come; the rows of the frame's stripe still to pass, those that
have begun in the clock in which their read completes (R19); whether a pin count advanced for the frame being read and for the one before it; the generated map's base, the
place of its next record, the entries that wait, the start of the pass in ticks; the line group decoded last. -/
structure WearState where
  rho : Nat
  owed : List Nat
  ready : List (Nat × List Byte)
  reading : List LedgerRead
  wanted : List Nat
  writing : List (Nat × Bool)
  genRows : List (Nat × List Byte)
  rowsLeft : List Nat
  begun : List Nat
  pinned : Bool
  pinnedEnd : Bool
  base : Option Nat
  place : Nat
  entries : List WearEntry
  passStart : Nat
  layer : Option (Nat × List (List Nat))
deriving DecidableEq, Repr

/-- ODRV beside its registers (R133 to R139): the temperature last accepted, the parity of the history buffers, whether the
refusal of the history group has been told, whether this frame writes history, the rate factor. -/
structure OdrvState where
  temp : Nat
  phi : Nat
  told : Bool
  wrote : Bool
  g : Nat
deriving DecidableEq, Repr

/-- The pictures under way in a route: the source lines UNPK delivered, the group it sent last, the groups taken in this
frame, the rows through COLR, the front rows up to DITH, the rows of drive WEAR put out, the rows of back codes,
the bytes read of each plane, FRAME_CRC of the frame before; the sixteen rows that each of COLR, DUAL, UNIF, WEAR, ODRV and PACK delivered last and
the back rows of the same group (R368). -/
structure PixState where
  source : List Row
  lastGroup : List Row
  groups : Nat
  colr : List Row
  front : List Row
  drive : List Row
  back : List (List Nat)
  bytes : List (List Byte)
  crcBefore : Nat
  tails : List (List Row)
  backTail : List (List Nat)
deriving DecidableEq, Repr

/-- A gate pulse under way (R175): its pin; a frame pulse lasts up to a pixel of a line, a line pulse from a pixel to a pixel
counted from the start of the line to begin. -/
structure Pulse where
  pin : Nat
  frame : Bool
  a : Int
  b : Int
deriving DecidableEq, Repr

/-- One output beside its registers. `waiting`: enabled, frame 0 not begun. `timing` and `rate`
are those that the frame under way runs at, `edge` when it began, `lastFrame` the fabric cycles of the one before it. `kind` is the kind of the frame under way and
`nextKind` of the next one: 0 a normal frame, 1 a blank frame, 2 a calibration frame. `line` is the next line to begin of the
`frameLines` lines of the frame, `prev` the structure whose lanes the frame under way uses. `heldLanes` says whether its lanes have been sent HOLD
and no RESUME since, `cutAt` when its discharge was recognised. `chaseDone` holds the plane rows that are
complete, `chaseAgain` the planes of complete lines written again since, `chaseRead` the line groups read in the current frame. `routeHeld` says
that the frame under way is held; `froze` that the scan-out engine or a reach of the route has been frozen since the last Landing with none frozen, and
`stall` is the stage at which the route stalls until then (0: it does not). -/
structure OutState where
  waiting : Bool
  stopping : Bool
  timing : Timing
  rate : Nat × Nat
  frameLines : Nat
  line : Nat
  landLine : Nat
  landed : Bool
  kind : Nat
  nextKind : Nat
  prev : OutConfig
  lanesChange : Bool
  frameZero : Bool
  calLanes : List Nat
  heldLanes : Bool
  lastCal : Option Nat
  sync : SyncState
  edge : Int
  lastFrame : Int
  srcLanded : Bool
  changed : Bool
  routeHeld : Bool
  froze : Bool
  stall : Nat
  rungPending : Option Nat
  rateHeld : Bool
  modePending : Bool
  chaseDone : List Nat
  chaseAgain : List Nat
  chaseRead : List Nat
  region : RegionState
  inSlack : Bool
  pulses : List Pulse
  dchgN : Bool
  dchgRan : Bool
  cut : Bool
  cutAt : Int
  restart : Bool
  pix : PixState
  base : MapUse
  field : MapUse
  wear : WearState
  odrv : OdrvState
  dithE : Nat
deriving DecidableEq, Repr

/-! The DMA channels (12_dma.md). -/

/-- One source read request of a transfer: its place in run order, its length, how far it has come (0 the read in flight, 1 its
data held, 2 its Hold write in flight, 3 written, 4 failed), its data. -/
structure DmaChunk where
  off : Nat
  len : Nat
  phase : Nat
  data : List Byte
deriving DecidableEq, Repr

/-- A descriptor taken up: its 64 bytes, whether it was taken up in Service, whether its checks have passed, the bytes
requested and the prefix moved, both in run order, its requests after that prefix, the data moved in transfer order (for the
CRC), the end of the furthest host write in run order, the half-point flush (0 not issued, 1 in flight, 2 done), its end (0 not
begun, 1 the flush read in flight, 2 its status in flight to the Hold, 3 its status waiting at the gate of the Hold), its code, the addresses of the
flush reads of its end and of its half point. -/
structure DmaXfer where
  bytes : List Byte
  service : Bool
  started : Bool
  next : Nat
  moved : Nat
  chunks : List DmaChunk
  crc : List Byte
  wrote : Nat
  half : Nat
  phase : Nat
  code : Nat
  flush : Nat
  halfFlush : Nat
deriving DecidableEq, Repr

/-- A channel beside its registers: the descriptor to fetch and whether its fetch is in flight, the descriptor fetched (or the
code its fetch failed with) and where it lay, the one taken up, whether the chain stops after it, the code of the halt, the
host reads in flight of a transfer that was restarted or ended, the fetches in flight given up (whether from the Hold), oldest first, the
tokens of the bucket in 1/2048. -/
structure DmaState where
  fetch : Option (Nat × Bool)
  fetching : Bool
  got : Option ((Nat × Bool) × Nat × List Byte)
  xfer : Option DmaXfer
  stopAfter : Bool
  halt : Nat
  orphans : Nat
  lost : List Bool
  tokens : Nat
deriving DecidableEq, Repr

/-! The Eddy engines (13_eddy_codec.md). -/

/-- The context of an engine (R290, R294): the general-mode history newest byte first, the last dynamic tables, the bits held
(of an unfinished output byte, or of an unfinished input code word), a formed code word not yet written, the bit position of
the stream, where its decoder stands (0 between blocks, 1 and 2 in a stored block, 3 and 4 in a coded block, the even one in
the last block, 5 at the end) with the bytes left of a stored block; of pixel mode the last row, its WIDTH and N, A and C. -/
structure EddyCtx where
  hist : List Byte
  lens : List Nat
  held : List Bool
  pend : List Bool
  pos : Nat
  mode : Nat
  left : Nat
  row : List Nat
  width : Nat
  depth : Nat
  a : Nat
  c : Nat
deriving DecidableEq, Repr

/-- A job of an engine as its START sampled it (R281), and its progress over output spaces: the code words written, the
bits of an unfinished output byte held now, the position that a context restored while it was stopped put in its place, with the bits of its input used
there: the code words then count from it. -/
structure EddyJob where
  pixel : Bool
  decompress : Bool
  carry : Bool
  final : Bool
  rawIn : Bool
  depth : Nat
  width : Nat
  rows : Nat
  inAddr : Nat
  inLen : Nat
  outAddr : Nat
  outLen : Nat
  words : Nat
  held : List Bool
  resumed : Option (EddyCtx × Nat)
deriving DecidableEq, Repr

/-- An internal job (R295): the output whose wear map it is for, the line group, its rows of lift codes. -/
structure EddyInternal where
  output : Nat
  group : Nat
  width : Nat
  rows : List (List Nat)
deriving DecidableEq, Repr

/-- One engine beside its registers: its context, its driver job, the command (1 START, 2 RESUME) that waits for an internal job, the context command under
way (4 save, 5 restore) with the state it was accepted in, the internal jobs in order. -/
structure EddyState where
  ctx : EddyCtx
  job : Option EddyJob
  waits : Option Nat
  ctxCmd : Option (Nat × Nat)
  internal : List EddyInternal
deriving DecidableEq, Repr

/-! Panel lanes and sidebands (09, 10). -/

/-- The taps of a transmit equalizer (R214); the main tap is derived. -/
structure Taps where
  cm1 : Int
  c1 : Int
  c2 : Int
deriving DecidableEq, Repr

/-- A calibration or a measurement of a lane (R217 to R219): the round, the tap (0 C1, 1 CM1, 2 C2) and the direction under
trial, whether it is at its baseline; where the trial stands (0 not begun, 1 window asked for, 4 window open, 2 histogram asked for,
3 histogram received, 5 abandoned: the next one waits for a dense span); the best set and its merit as a ratio, the set it began with, the first trial of the tap when it
qualified, the counts adopted, the window asked for, the block with which the window ended, what the window met, the histogram. -/
structure LaneCal where
  measure : Bool
  baseline : Bool
  round : Nat
  tap : Nat
  raise : Bool
  phase : Nat
  best : Taps
  qBest : Nat × Nat
  start : Taps
  first : Option (Taps × Nat × Nat)
  adopted : Nat
  inRound : Nat
  window : Nat
  endAt : Nat
  sparse : Bool
  unlocked : Bool
  hist : List Byte
deriving DecidableEq, Repr

/-- A panel lane beside its registers: its counts of training sequences and orders, polls unanswered and replies corrupt in a
row, the retry number and its start in ticks, whether it has been ACTIVE since start-up, whether a swap makes it due when it is ACTIVE
next, whether a REQUEST and whether R215 made it due, the scrambler's last 58 bits and the last level; the instant (ps) of the first symbol of its
training sequence, the blocks sent since stage B of it began, the blocks still to send of the packet and beacon under way, the block it fills with
instead of IDLE, the block whose turn a HIST_START waits for; the symbols sent and the transitions counted of the span under way (R224), and the counts of the spans
that have ended, and how many were judged; the TRAIN payload announced last, forced taps waiting for a BLANK mark, the calibration under way, the tick of the last calibration that ended with 0x000, whether it is WORN. -/
structure LaneState where
  tseq : Nat
  orderSeq : Nat
  silent : Nat
  corrupt : Nat
  retry : Nat
  retryAt : Option Nat
  everUp : Bool
  dueOnUp : Bool
  dueReq : Bool
  dueAuto : Bool
  scr : Nat
  last : Nat
  base : Int
  sent : Nat
  queue : List LaneBlock
  fill : Option LaneBlock
  histAt : Option Nat
  spanAt : Nat
  spanCount : Nat
  spans : List Nat
  spansDone : Nat
  train : List Byte
  forceWaits : Option Taps
  cal : Option LaneCal
  lastCal : Nat
  worn : Bool
deriving DecidableEq, Repr

/-- A frame the part sends on a sideband: the lane, TYPE, payload. -/
structure SbFrame where
  lane : Nat
  type : Nat
  payload : List Byte
deriving DecidableEq, Repr

/-- A sideband group (R206): the frame sent last whose reply is awaited, the frame abandoned at a collision, the frames that
wait. -/
structure SbState where
  sent : Option SbFrame
  abandoned : Option SbFrame
  queue : List SbFrame
deriving DecidableEq, Repr

/-! The calibration store, the OTP fuses and the spares (18_power_clocks_reset.md, 19_relief_and_aging.md). -/

/-- One entry of the swap log (R419): the 96-bit time and the epoch at completion, then its fields. -/
structure SwapEntry where
  time : Nat
  epoch : Nat
  kind : Nat
  result : Nat
  unit : Nat
  row : Nat
  spare : Nat
  cause : Nat
deriving DecidableEq, Repr

/-- One copy of a record in the FeRAM (R403): its header words and its payload. `repairs`, `log` and `swaps` are what the
payload of a HOLD_REPAIR or RELIEF_LOG record says; of a BASE_DIGEST record `swaps` says which outputs it holds a digest of, one bit each. -/
structure CalCopy where
  magic : Nat
  kindVer : Nat
  length : Nat
  seq : Nat
  crc : Nat
  payload : List Byte
  repairs : List Repair
  log : List SwapEntry
  swaps : Nat
deriving DecidableEq, Repr

/-- Who waits for a store to end: nobody, the SST loader, a mailbox slot. -/
inductive StoreOrigin where
  | part
  | sst
  | mailbox (slot : Nat)
deriving DecidableEq, Repr

/-- A store or a clear of a record kind, under way or queued behind one. -/
structure StoreJob where
  kind : Nat
  clear : Bool
  payload : List Byte
  repairs : List Repair
  log : List SwapEntry
  swaps : Nat
  origin : StoreOrigin
deriving DecidableEq, Repr

/-- The calibration store: its 24 copies (A of kind k at 2k, B at 2k + 1), the jobs (the first one running), whether the first one is
being retried (R418), whether a committed USER_TRIM waits for its effect, the sectors that relief sectors replace, in the order of
the relief sectors. -/
structure CalState where
  copies : List CalCopy
  jobs : List StoreJob
  retried : Bool
  trimDue : Bool
  sectors : List Nat
deriving DecidableEq, Repr

/-- The fuses (R39, R40, R252, R354, R406): SST_SIGN_REQUIRED, the key hash, the subsystem IDs; `fusings` counts the
OTP_FUSE commands that blew one; `repairs` are the factory repairs of the Hold. -/
structure OtpState where
  signRequired : Bool
  keyHash : Option Nat
  subsys : Option Nat
  fusings : Nat
  repairs : List Repair
deriving DecidableEq, Repr

/-- A swap that waits for its swap-in point (R415, R416): its kind (R419), unit, row, spare, cause, the mailbox slot that
commanded it, how far a lane swap has come (0 waiting, 1 switched and training), and whether it waits on a freeze. -/
structure PendingSwap where
  kind : Nat
  unit : Nat
  row : Nat
  spare : Nat
  cause : Nat
  slot : Option Nat
  stage : Nat
  onFreeze : Bool
deriving DecidableEq, Repr

/-- The spares and what is known of the units in service: the swap log in force, lanes on relief slices (lane, slice of its
group), chain lanes on relief slices (port, lane), reaches on relief reaches, the output on the relief PLL, the WORN units,
the corrected reads counted per row (bank * 1024 + row, time in units of 2^-32 ns), the regions that have warned, swaps waiting. -/
structure ReliefState where
  log : List SwapEntry
  swaps : Nat
  lanes : List (Nat × Nat)
  chain : List (Nat × Nat)
  reaches : List (Nat × Nat)
  pll : Option Nat
  wornLanes : List Nat
  wornChain : List Nat
  wornRows : List (Nat × Nat)
  wornBanks : List Nat
  wornPlls : List Nat
  ecc : List (Nat × Nat)
  chainResid : List (Nat × Nat × Nat)
  warned : List Nat
  waiting : List PendingSwap
  repairQueue : List (Repair × Nat)
  thermalWarn : Bool
  thermalCrit : Bool
deriving DecidableEq, Repr

/-! Power, clocks and reset. -/

/-- Where the part stands in a start-up, a discharge or a Thaw, beside GLB_STATE and GLB_POWER_STATUS: whether the supplies are off, whether
the start-up march has run, whether this start keeps the Hold, follows a THERMAL reset, waits for a discharge, whether the switched
domains are off, the power state a Thaw (or an abandoned entry) leads to, PFAIL_N low, recognised, recognised in a Thaw or in Winter, a start-up
halted by it, a record kind that no store committed before is damaged (R401), PWR_RET_N low. -/
structure PowerState where
  off : Bool
  coldMarchDone : Bool
  warmStart : Bool
  thermal : Bool
  warmPending : Bool
  fabricOff : Bool
  thawTarget : Nat
  vddHoldLate : Bool
  switchesClosed : Bool
  pfailLow : Bool
  pfail : Bool
  pfailThaw : Bool
  halted : Bool
  recoverNeeded : Bool
  pwrRetLow : Bool
deriving DecidableEq, Repr

/-! Time (15_time_reference.md). All times are in units of 2^-32 ns. -/

/-- A stamp in one of the two stamp queues: its time, epoch, and event source or flit SEQ. -/
structure Stamp where
  time : Nat
  epoch : Nat
  id : Nat
deriving DecidableEq, Repr

/-- A capture (R339): whether it has not been read, whether it came after the last read of its low word. -/
structure Capture where
  time : Nat
  epoch : Nat
  inWin : Nat
  isNew : Bool
  since : Bool
deriving DecidableEq, Repr

/-- The time counter and its discipline. `now` is the 96-bit time, `ticks` the 4 ns ticks counted, `incrLo` the holding register
of TIME_INCR_LO, `slew` the amount remaining, `step` an armed step in ns, `jump` a pending discipline correction; `samples` the offsets
of the interval under way in units of 2^-33 ns, `offset` the last average, `good` the intervals in a row with an offset of at
most 4 ns, `secondOffset` the offset at the last correction of TIME_INCR and `slewed` the slew applied since; `ptmFails` the PTM dialogs failed in
a row, `ptmOpen` whether one is under way, `ptmPrev` the stamps of the request and the response of the last one completed; `holdSource` and `holdRoute` the reasons for holdover; `epochNext` the
upstream's epoch; `delays` the delays of each port under average, in 2^-33 ns; the counts of good and of missing LTC_IN words in a row and
their rate; whether LOCKED has ever been 1, whether REFIN and PE_REFCLK are lost, whether an interval has ended
since the last switch of routes. -/
structure TimeState where
  now : Nat
  ticks : Nat
  incrLo : Word
  slew : Int
  step : Option Int
  jump : Option Int
  caps : List Capture
  swlog : List Stamp
  txq : List Stamp
  txqTold : Bool
  samples : List Int
  offset : Int
  good : Nat
  secondOffset : Option Int
  slewed : Int
  ptmFails : Nat
  ptmOpen : Bool
  ptmPrev : Option (BitVec 96 × BitVec 96)
  holdSource : Bool
  holdRoute : Bool
  epochNext : Option Nat
  delays : List (List Int)
  ltcGood : Nat
  ltcBad : Nat
  ltcRate : Nat
  everLocked : Bool
  refinLost : Bool
  refclkLost : Bool
  fresh : Bool
deriving DecidableEq, Repr

/-! The chain (14_ndoben_chain.md). -/

/-- A short flit that waits in a port's queue: its class in R305's order (0 BREAK or RESTORE, 1 forwarded, 2 local), whether a host
function originated it (R341), its 48 bytes. -/
structure QueuedFlit where
  cls : Nat
  host : Bool
  bytes : List Byte
deriving DecidableEq, Repr

/-- The equalizer of a chain receive slice beside its registers (R228): the accumulators of its three taps, the decided levels (0 to 3) of the last
three idle symbols, latest first. -/
structure DfeState where
  acc : List Int
  past : List Nat
deriving DecidableEq, Repr

/-- A chain port beside its registers: the sub-round and the round to send next, the sub-rounds in a row with valid markers and the
last of them, whether a good LINK flit has come since the port began to look for its partner, the receiving generators of its lanes (none before the first IDLE), whether an
IDLE has confirmed them, and where they stood at the group chunks of the last five sub-rounds (R301), whether a LINK or a TIME flit is due, the queue, the last TIME flit received (arrival, SEQ), the TIME flits sent, the pixel
flits sent, freed, and freed by the peer (modulo 2^16), the pixel flits in its input buffer with the ports they still leave on, the RS slots
of the round being sent, the scramblers of its lanes. -/
structure PortState where
  sub : Nat
  round : Nat
  goodMarks : Nat
  lastMark : Option Nat
  linkSeen : Bool
  rxGen : List (Option Nat)
  rxOk : Bool
  rxKeys : List (List Nat)
  linkDue : Bool
  timeDue : Bool
  queue : List QueuedFlit
  seen : Option Stamp
  sentTimes : List Stamp
  sent : Nat
  freed : Nat
  peerFreed : Nat
  pixIn : List (List Nat × List Byte)
  group : List (List Nat)
  scr : List Nat
deriving DecidableEq, Repr

/-- An entry of the management view: an address, a port it is reached through, the hops. -/
structure ChainRoute where
  addr : Nat
  port : Nat
  hops : Nat
deriving DecidableEq, Repr

/-- An entry of the data view: an address, the arrival port and HOPS of its last flit, the tick it came at. -/
structure ChainSeen where
  addr : Nat
  port : Nat
  hops : Nat
  at_ : Nat
deriving DecidableEq, Repr

/-- A remote access in flight: its op, DST. -/
structure RemoteAccess where
  op : Nat
  dst : Nat
deriving DecidableEq, Repr

/-- A frame that a transmit stream is sending (R319, R320): its slot, FRAME_SEQ, DST, STREAM, the index of its next record, the
records sent, the bytes not yet in flits, whether its end record has been made, and with ABANDONED. -/
structure TxFrame where
  slot : Nat
  seq : Nat
  dst : Nat
  stream : Nat
  next : Nat
  records : Nat
  buf : List Byte
  ended : Bool
  abandoned : Bool
deriving DecidableEq, Repr

/-- A transmit stream: its frames, oldest first, all but the last one ended; the SEQ of its next flit. -/
structure TxStream where
  frames : List TxFrame
  flitSeq : Nat
deriving DecidableEq, Repr

/-- A frame that a receive stream is taking (R321): SRC and STREAM, the port, FRAME_SEQ, the slot written, the SEQ of the next flit, the
index of the next record, the bytes received and not yet used. -/
structure RxFrame where
  src : Nat
  stream : Nat
  port : Nat
  seq : Nat
  slot : Nat
  flitSeq : Nat
  next : Nat
  buf : List Byte
deriving DecidableEq, Repr

/-- The chain beside its registers: its ports, the Boarding epoch, the serial of the root whose token this unit took, whether
it waits for a token on port C, the root of the token it held when a newer epoch came (R310), whether another root's token prevailed, whether a unit has reported a branch; the management view,
the one of the closed ring, the data view, the addresses flagged DISAGREE, the ports at a break, the SEQ counters per type, the access
in flight, the streams, what each receive stream has met last of a dropped frame that it passes over (R321), the pixel flits of local streams with the ports they
still leave on, the remote accesses (port, flit, whether a write) that wait at the gate of the Hold, the equalizers of the receive slices (slice k of port p at 5p + k). -/
structure ChainState where
  ports : List PortState
  epoch : Nat
  root : Nat
  onC : Bool
  heldRoot : Option Nat
  conflict : Bool
  branches : Bool
  mgmt : List ChainRoute
  closed : List ChainRoute
  data : List ChainSeen
  disagree : List Nat
  broken : List Nat
  seqs : List (Nat × Nat)
  access : Option RemoteAccess
  tx : List TxStream
  rx : List (Option RxFrame)
  rxSkip : List (Option (List Byte))
  local_ : List (List Nat × List Byte)
  remote : List (Nat × List Byte × Bool)
  dfe : List DfeState
deriving DecidableEq, Repr

end Sys2Proof.Machine
end

