-- ==== Sys2Proof/Machine/State.lean ====
section
/-!
DEFINITION. The state of the block, the reasons a command can stop, and the state after reset.
-/

namespace Sys2Proof.Machine

/-- Why a command stops with a fault: for no reason. Every command the spec lists has an effect in every state, if only
that of being turned away with a code and an event (R21, R94, R289); the register window reads 0 in its holes (R423) and
the Hold fills its 30-bit address space, so no address is outside either. Nobody raises it; safe. -/
inductive Fault
deriving DecidableEq, Repr

/-- Why a command has no meaning. -/
inductive Refusal where
  /-- The command is not modelled yet. Raised by an arm of the dispatch alone; no arm of this model raises it. Safe. -/
  | notModelled (mnemonic : String)
deriving DecidableEq, Repr

/-- The state of the block. `regs` holds every register that differs from its reset word, `active` the landed values of
the landed registers that differ from theirs, `written` the registers of R12 that have been written, `landed` those of
them whose group has landed, `high` the
holding registers of R8, `tables` the entries written into the stages' tables (one more than their value). -/
structure State where
  regs : List (Nat × Word)
  active : List (Nat × Word)
  written : List Nat
  landed : List Nat
  high : List (Nat × Word)
  tables : List (Nat × Nat)
  hold : HoldState
  sst : SstState
  host : HostState
  purser : PurserState
  outs : List OutState
  lanes : List LaneState
  sidebands : List SbState
  dma : List DmaState
  dmaTurn : Nat
  eddys : List EddyState
  cal : CalState
  otp : OtpState
  relief : ReliefState
  power : PowerState
  time : TimeState
  chain : ChainState
  freeCount : Nat
  out : List Out
  pending : List Instr
deriving DecidableEq, Repr

/-- No structure. -/
def OutConfig.empty : OutConfig := ⟨[], [], [], 0, 0⟩

/-- A function after reset: every enable clear, the smallest sizes (the PCI Express base specification's reset values). -/
def FnConfig.reset : FnConfig :=
  ⟨false, false, false, false, false, 128, 512, 0, false, false, 0, 0⟩

/-- The Hold after reset: nothing listed. -/
def HoldState.reset : HoldState :=
  ⟨[], [], [], [], [], [], ⟨[], 0, [], [], []⟩, [], [], [], [], false, none, none, 0, none, 0, none, [], [], [], [], [], []⟩

/-- The structure-stream loader after reset. -/
def SstState.reset : SstState :=
  ⟨List.replicate 4 [], none, List.replicate 4 OutConfig.empty, [], [], 0, 0, [], false⟩

/-- The identity of a function of stepping C2 (R1, R354), its subsystem IDs those fused, one dword with the vendor in its low half as
configuration space has it, or the part's own where none are. -/
def FnId.of (vf : Bool) (subsys : Option Nat) : FnId :=
  let sub := subsys.getD 0x96081D9A
  ⟨0x1D9A, if vf then 0x9609 else 0x9608, 0xC2, 0x038000, sub % 2 ^ 16, sub / 2 ^ 16⟩

/-- The identities of PF0 and the 31 VFs. -/
def fnIds (subsys : Option Nat) : List FnId := (List.range 32).map fun f => FnId.of (f != 0) subsys

/-- No link power state enabled. -/
def L1Config.reset : L1Config := ⟨false, false, false, 0⟩

/-- The host interface after reset: the link down, PERST_N asserted, every MSI-X vector masked. -/
def HostState.reset : HostState where
  linkUp := false
  rate := 0
  width := 0
  active := 0
  flitMode := false
  trainedBefore := false
  inL1 := false
  sub := 0
  aspm := L1Config.reset
  vfEnable := false
  numVfs := 0
  pageSize := 1
  bus := 0
  pfBars := [0, 0, 0]
  vfBars := [0, 0, 0]
  fns := List.replicate 32 FnConfig.reset
  unmasked := []
  entries := []
  pba := []
  perst := true
  ids := fnIds none
  reads := []

/-- The Purser after reset. -/
def PurserState.reset : PurserState := ⟨false, [], none, 0, false, [], none, false, none⟩

/-- No timing. -/
def Timing.zero : Timing := ⟨0, 0, 0, 0, 0, 0, 0⟩

/-- No genlock. -/
def SyncState.reset : SyncState := ⟨0, 0, 0, 1, 0, 0, 0, none, false, 0, 0, 0, 0, 0, 0, none⟩

/-- No region. -/
def RegionState.reset : RegionState := ⟨[], none, [], [], false, false, false⟩

/-- No map. -/
def MapUse.reset : MapUse := ⟨(0, 0), (0, 0), false, none⟩

/-- WEAR with nothing under way. -/
def WearState.reset : WearState := ⟨0, [], [], [], [], [], [], [], [], false, false, none, 0, [], 0, none⟩

/-- ODRV at 25 degrees, rate factor 2^15. -/
def OdrvState.reset : OdrvState := ⟨0x190, 0, false, false, 0x8000⟩

/-- No picture. -/
def PixState.reset : PixState := ⟨[], [], 0, [], [], [], [], [[], [], []], 0, [], []⟩

/-- An idle output: gates at the off level, lanes in electrical idle, DCHGn_N high. -/
def OutState.reset : OutState where
  waiting := false
  stopping := false
  timing := Timing.zero
  rate := (0, 1)
  frameLines := 0
  line := 0
  landLine := 0
  landed := false
  kind := 0
  nextKind := 0
  prev := OutConfig.empty
  lanesChange := false
  frameZero := false
  calLanes := []
  heldLanes := false
  lastCal := none
  sync := SyncState.reset
  edge := 0
  lastFrame := 0
  srcLanded := false
  changed := false
  routeHeld := false
  froze := false
  stall := 0
  rungPending := none
  rateHeld := false
  modePending := false
  chaseDone := []
  chaseAgain := []
  chaseRead := []
  region := RegionState.reset
  inSlack := false
  pulses := []
  dchgN := true
  dchgRan := false
  cut := false
  cutAt := 0
  restart := false
  pix := PixState.reset
  base := MapUse.reset
  field := MapUse.reset
  wear := WearState.reset
  odrv := OdrvState.reset
  dithE := 0

/-- A channel with no chain. -/
def DmaState.reset : DmaState := ⟨none, false, none, none, false, 0, 0, [], 0⟩

/-- An empty context. -/
def EddyCtx.empty : EddyCtx := ⟨[], [], [], [], 0, 0, 0, [], 0, 0, 4, 1⟩

/-- An idle engine. -/
def EddyState.reset : EddyState := ⟨EddyCtx.empty, none, none, none, []⟩

/-- A lane in electrical idle that has never trained. -/
def LaneState.reset : LaneState where
  tseq := 0
  orderSeq := 0
  silent := 0
  corrupt := 0
  retry := 0
  retryAt := none
  everUp := false
  dueOnUp := false
  dueReq := false
  dueAuto := false
  scr := 0
  last := 0
  base := 0
  sent := 0
  queue := []
  fill := none
  histAt := none
  spanAt := 0
  spanCount := 0
  spans := []
  spansDone := 0
  train := []
  forceWaits := none
  cal := none
  lastCal := 0
  worn := false

/-- A copy never written (MAGIC 0). -/
def CalCopy.blank : CalCopy := ⟨0, 0, 0, 0, 0, [], [], [], 0⟩

/-- A calibration store as it leaves the factory. -/
def CalState.reset : CalState := ⟨List.replicate 24 CalCopy.blank, [], false, false, []⟩

/-- No customer fuse blown. -/
def OtpState.reset : OtpState := ⟨false, none, none, 0, []⟩

/-- No spare in use. -/
def ReliefState.reset : ReliefState := ⟨[], 0, [], [], [], none, [], [], [], [], [], [], [], [], [], [], false, false⟩

/-- Cold start-up, every supply in range. -/
def PowerState.reset : PowerState :=
  ⟨false, false, false, false, false, false, 0, false, false, false, false, false, false, false, false⟩

/-- Time after cold start-up (R325). -/
def TimeState.reset : TimeState where
  now := 0
  ticks := 0
  incrLo := 0
  slew := 0
  step := none
  jump := none
  caps := List.replicate 5 ⟨0, 0, 0, false, false⟩
  swlog := []
  txq := []
  txqTold := false
  samples := []
  offset := 0
  good := 0
  secondOffset := none
  slewed := 0
  ptmFails := 0
  ptmOpen := false
  ptmPrev := none
  holdSource := false
  holdRoute := false
  epochNext := none
  delays := [[], [], []]
  ltcGood := 0
  ltcBad := 0
  ltcRate := 0
  everLocked := false
  refinLost := false
  refclkLost := false
  fresh := false

/-- A chain port after reset. -/
def PortState.reset (p : Nat) : PortState :=
  ⟨0, 0, 0, none, false, List.replicate 4 none, false, [], false, false, [], none, [], 0, 0, 0, [], List.replicate 4 (List.replicate 272 0),
    (List.range 4).map (Config.chainScramble p)⟩

/-- The chain after reset: an unaddressed unit. -/
def ChainState.reset : ChainState where
  ports := (List.range 3).map PortState.reset
  epoch := 0
  root := 0
  onC := false
  heldRoot := none
  conflict := false
  branches := false
  mgmt := []
  closed := []
  data := []
  disagree := []
  broken := []
  seqs := []
  access := none
  tx := List.replicate 4 ⟨[], 0⟩
  rx := List.replicate 4 none
  rxSkip := List.replicate 4 none
  local_ := []
  remote := []
  dfe := List.replicate 15 ⟨[0, 0, 0], [0, 0, 0]⟩

/-- The block at the start of cold start-up (R400, R422): every register at its reset word (a blank OTP leaves all
16 relief banks free, R422), every queue empty. -/
def State.reset : State where
  regs := [(0xA0204, 16)]
  active := []
  written := []
  landed := []
  high := []
  tables := []
  hold := HoldState.reset
  sst := SstState.reset
  host := HostState.reset
  purser := PurserState.reset
  outs := List.replicate 4 OutState.reset
  lanes := List.replicate 96 LaneState.reset
  sidebands := List.replicate 4 ⟨none, none, []⟩
  dma := List.replicate 32 DmaState.reset
  dmaTurn := 31
  eddys := List.replicate 4 EddyState.reset
  cal := CalState.reset
  otp := OtpState.reset
  relief := ReliefState.reset
  power := PowerState.reset
  time := TimeState.reset
  chain := ChainState.reset
  freeCount := 0
  out := []
  pending := []

end Sys2Proof.Machine
end

