-- ==== Sys2Proof/Machine/Ops.lean ====
section
/-!
DEFINITION. The named operations on registers, sparse memories and lists that every meaning is written with.
-/

namespace Sys2Proof.Machine

/-! Sparse memories: a list of address and value pairs, addresses strictly rising, holding no default value. -/

/-- The value at an address: the listed one, or what an unlisted address reads as. -/
def sparseGet {α : Type} (dflt : α) : List (Nat × α) → Nat → α
  | [], _ => dflt
  | (k, v) :: rest, a => if a = k then v else sparseGet dflt rest a

/-- The list with an address's entry removed. -/
def sparseErase {α : Type} (m : List (Nat × α)) (a : Nat) : List (Nat × α) := m.filter fun p => p.1 != a

/-- The list with an address's entry put in its place. -/
def sparseInsert {α : Type} : List (Nat × α) → Nat → α → List (Nat × α)
  | [], a, x => [(a, x)]
  | (k, v) :: rest, a, x =>
    if a = k then (a, x) :: rest else if a < k then (a, x) :: (k, v) :: rest else (k, v) :: sparseInsert rest a x

/-- A write: an entry equal to the default is removed, so that equal memories are equal lists. -/
def sparseSet {α : Type} [DecidableEq α] (dflt : α) (m : List (Nat × α)) (a : Nat) (x : α) : List (Nat × α) :=
  if x = dflt then sparseErase m a else sparseInsert m a x

/-- The canonical form: addresses strictly rising from `lo`, and no entry equal to what its address reads as unlisted. -/
def sparseWf {α : Type} [DecidableEq α] (dflt : Nat → α) : Nat → List (Nat × α) → Bool
  | _, [] => true
  | lo, (k, v) :: rest => decide (lo ≤ k) && !(decide (v = dflt k)) && sparseWf dflt (k + 1) rest

/-! The register file. -/

/-- Whether a register-map row holds the register at a key. -/
def rowHolds (r : RegRow) (a : Nat) : Bool :=
  if a < r.base then false
  else if r.n2 = 1 then
    (if r.n1 = 1 then a == r.base else (a - r.base) % r.s1 == 0 && decide ((a - r.base) / r.s1 < r.n1))
  else
    let d := a - r.base
    let i := if r.n1 = 1 then 0 else d / r.s1
    let e := d - i * (if r.n1 = 1 then 0 else r.s1)
    decide (i < r.n1) && e % r.s2 == 0 && decide (e / r.s2 < r.n2)

/-- The row of the register map that holds the register at a key, if any (R423: most keys hold none). -/
def rowOf (a : Nat) : Option RegRow := (blockRows a).find? (rowHolds · a)

/-- The reset word of the register at a key (R422). -/
def resetOf (a : Nat) : Word := match rowOf a with
  | some r => BitVec.ofNat 32 r.reset
  | none => 0

/-- The value of a register: of a landed field its shadow, of any other field its current value. -/
def State.reg (s : State) (a : Nat) : Word := sparseGet (resetOf a) s.regs a

/-- The register at a key set to a word. -/
def State.setReg (s : State) (a : Nat) (w : Word) : State :=
  { s with regs := sparseSet (resetOf a) s.regs a w }

/-- The landed value of a register's RWL fields: the active set (R9). -/
def State.actReg (s : State) (a : Nat) : Word := sparseGet (resetOf a) s.active a

/-- The active set of a register set to a word. -/
def State.setActReg (s : State) (a : Nat) (w : Word) : State :=
  { s with active := sparseSet (resetOf a) s.active a w }

/-- The mask of a field's bits in its register. -/
def fieldMask (f : Field) : Word := BitVec.ofNat 32 ((2 ^ (f.hi + 1 - f.lo) - 1) <<< f.lo)

/-- A field's value in a register word. -/
def fieldOf (f : Field) (w : Word) : Nat := bits w.toNat f.hi f.lo

/-- A register word with one field replaced by the low bits of a value. -/
def withField (f : Field) (w : Word) (v : Nat) : Word :=
  (w &&& ~~~ (fieldMask f)) ||| (BitVec.ofNat 32 ((v % 2 ^ (f.hi + 1 - f.lo)) <<< f.lo))

/-- A field's value (of an RWL field, its shadow). -/
def State.get (s : State) (f : Field) : Nat := fieldOf f (s.reg f.addr)

/-- A one-bit field as a truth value. -/
def State.on (s : State) (f : Field) : Bool := s.get f == 1

/-- A field set by the hardware. -/
def State.put (s : State) (f : Field) (v : Nat) : State := s.setReg f.addr (withField f (s.reg f.addr) v)

/-- Several fields set, in order. -/
def State.puts (s : State) (l : List (Field × Nat)) : State := l.foldl (fun t p => t.put p.1 p.2) s

/-- The landed value of an RWL field. -/
def State.act (s : State) (f : Field) : Nat := fieldOf f (s.actReg f.addr)

/-- The landed value of a one-bit RWL field, as a truth value. -/
def State.actOn (s : State) (f : Field) : Bool := s.act f == 1

/-- The landed value of an RWL field set. -/
def State.putAct (s : State) (f : Field) (v : Nat) : State :=
  s.setActReg f.addr (withField f (s.actReg f.addr) v)

/-- The largest value of a field. -/
def fieldMax (f : Field) : Nat := 2 ^ (f.hi + 1 - f.lo) - 1

/-- A count advanced by n, saturating at its field's largest value. -/
def State.count (s : State) (f : Field) (n : Nat) : State := s.put f (min (fieldMax f) (s.get f + n))

/-- Whether a register whose reset value is a dash has been written (R12). -/
def State.isWritten (s : State) (a : Nat) : Bool := s.written.contains a

/-- A key put into a rising list of keys. -/
def keyInsert : List Nat → Nat → List Nat
  | [], a => [a]
  | k :: rest, a => if a = k then k :: rest else if a < k then a :: k :: rest else k :: keyInsert rest a

/-- The written flag of a register set (R12). -/
def State.setWritten (s : State) (a : Nat) : State := { s with written := keyInsert s.written a }

/-- Whether the group of a register has landed since its first write (R12). -/
def State.hasLanded (s : State) (a : Nat) : Bool := s.landed.contains a

/-- A register's group noted as landed. -/
def State.setLanded (s : State) (a : Nat) : State := { s with landed := keyInsert s.landed a }

/-- The written flags of a register cleared (R12, R48). -/
def State.clearWritten (s : State) (a : Nat) : State := { s with written := s.written.filter (· != a) }

/-! Messages to the outside, newest first. -/

/-- A message put out. -/
def State.emit (s : State) (m : Out) : State := { s with out := m :: s.out }

/-- A free value taken: one that the spec does not give. -/
def State.free (s : State) : Nat := Config.freeValue s.freeCount

/-- The count of free values advanced. -/
def State.bumpFree (s : State) : State := { s with freeCount := s.freeCount + 1 }

/-- One element of a list replaced by a function of it. -/
def updAt {α : Type} (l : List α) (i : Nat) (f : α → α) : List α := l.modify i f

end Sys2Proof.Machine
end

