-- ==== Sys2Proof/Machine/Operands.lean ====
section
/-!
DEFINITION. The operand forms of the commands: bytes and words, checksums, the hash and the signature the spec names.
-/

namespace Sys2Proof.Machine

/-! Bytes, words and bits. -/

/-- The n low bytes of a number, least significant first (every multi-byte field of the part is little-endian). -/
def leBytes : Nat → Nat → List Byte
  | 0, _ => []
  | n + 1, v => BitVec.ofNat 8 v :: leBytes n (v / 256)

/-- The number that little-endian bytes spell. -/
def ofLe : List Byte → Nat
  | [] => 0
  | b :: rest => b.toNat + 256 * ofLe rest

/-- The n low bytes of a number, most significant first. -/
def beBytes (n v : Nat) : List Byte := (leBytes n v).reverse

/-- The number that big-endian bytes spell. -/
def ofBe (l : List Byte) : Nat := ofLe l.reverse

/-- Little-endian bytes of a list of 32-bit words. -/
def bytesOfWords (ws : List Word) : List Byte := (ws.map fun w => leBytes 4 w.toNat).flatten

/-- The 32-bit words that little-endian bytes spell; n words. -/
def wordsOfBytes : Nat → List Byte → List Word
  | 0, _ => []
  | n + 1, l => BitVec.ofNat 32 (ofLe (l.take 4)) :: wordsOfBytes n (l.drop 4)

/-- The little-endian 16- or 32-bit field at a byte offset. -/
def leAt (l : List Byte) (off n : Nat) : Nat := ofLe ((l.drop off).take n)

/-- The number of ones among the low n bits. -/
def popcount : Nat → Nat → Nat
  | 0, _ => 0
  | n + 1, v => v % 2 + popcount n (v / 2)

/-- The numbers below n whose bit is set, ascending. -/
def setBits (n v : Nat) : List Nat := (List.range n).filter fun i => v.testBit i

/-- A bit list, least significant first, as a number. -/
def ofBits : List Bool → Nat
  | [] => 0
  | b :: rest => b.toNat + 2 * ofBits rest

/-- The n low bits of a number, least significant first. -/
def toBits (n v : Nat) : List Bool := (List.range n).map fun i => v.testBit i

/-- Values of equal width packed as one little-endian bit string, least significant bit first (R55, R189). -/
def packBits (width : Nat) (vs : List Nat) : Nat :=
  vs.foldr (fun v acc => v % 2 ^ width + 2 ^ width * acc) 0

/-- Two lists of bits with exclusive or, as bytes. -/
def xorBytes (a b : List Byte) : List Byte := List.zipWith (· ^^^ ·) a b

/-! Checksums. -/

/-- Eight steps of a reflected CRC register of polynomial p. -/
def crcStep (p : Nat) : Nat → Nat → Nat
  | 0, c => c
  | n + 1, c => crcStep p n (if c % 2 = 1 then (c / 2) ^^^ p else c / 2)

/-- CRC-32C over bytes (R23): polynomial 0x1EDC_6F41 reflected, initial value and final XOR 0xFFFF_FFFF. -/
def crc32c (l : List Byte) : Nat :=
  (l.foldl (fun c b => crcStep 0x82F63B78 8 (c ^^^ b.toNat)) 0xFFFFFFFF) ^^^ 0xFFFFFFFF

/-- One byte into a non-reflected CRC-16 of polynomial 0x1021. -/
def crc16Step (c : Nat) (b : Byte) : Nat :=
  (List.range 8).foldl (fun c _ => if 0x8000 ≤ c then ((c * 2) % 0x10000) ^^^ 0x1021 else (c * 2) % 0x10000)
    (c ^^^ (b.toNat * 256))

/-- CRC-16 of R197: polynomial 0x1021, initial value 0xFFFF, no reflection, no final XOR. -/
def crc16 (l : List Byte) : Nat := l.foldl crc16Step 0xFFFF

/-! SHA-256 (R39, R113), as FIPS 180-4 sets it down: its constants are the bits of roots of primes, its schedule runs beside its rounds. -/

/-- The integer root of a degree, its bits found from the highest of so many down. -/
def rootFrom (degree n : Nat) : Nat → Nat → Nat
  | 0, x => x
  | b + 1, x => rootFrom degree n b (if (x + 2 ^ b) ^ degree ≤ n then x + 2 ^ b else x)

/-- The first 32 bits of the fraction of the root of a number below 2^9. -/
def rootFraction (degree n : Nat) : Word := BitVec.ofNat 32 (rootFrom degree (n * 2 ^ (32 * degree)) 41 0)

/-- The primes up to the 64th, ascending. -/
def sha256Primes : List Nat := (List.range 312).filter fun p => decide (2 ≤ p) && (List.range p).all fun d => decide (d < 2) || p % d != 0

/-- Three rotations of a word combined. -/
def rotations (x : Word) (a b c : Nat) : Word := x.rotateRight a ^^^ x.rotateRight b ^^^ x.rotateRight c

/-- Two rotations of a word and a shift combined. -/
def rotationsShift (x : Word) (a b c : Nat) : Word := x.rotateRight a ^^^ x.rotateRight b ^^^ (x >>> c)

/-- The sixteen words of the schedule moved on by one. -/
def scheduleOn (w : List Word) : List Word :=
  let at' := fun i => w.getD i 0
  w.drop 1 ++ [at' 0 + rotationsShift (at' 1) 7 18 3 + at' 9 + rotationsShift (at' 14) 17 19 10]

/-- A round: the eight working words take the sum of its constant and its schedule word. -/
def hashRound (v : List Word) (x : Word) : List Word :=
  let at' := fun i => v.getD i 0
  let choice := (at' 4 &&& at' 5) ||| (~~~(at' 4) &&& at' 6)
  let most := (at' 0 &&& (at' 1 ||| at' 2)) ||| (at' 1 &&& at' 2)
  let into := at' 7 + rotations (at' 4) 6 11 25 + choice + x
  (into + rotations (at' 0) 2 13 22 + most) :: v.take 3 ++ (at' 3 + into) :: (v.drop 4).take 3

/-- The rounds of a block: the constants left, the sixteen words of the schedule under way, the working words. -/
def hashRounds : List Word → List Word → List Word → List Word
  | [], _, v => v
  | k :: ks, w, v => hashRounds ks (scheduleOn w) (hashRound v (k + w.headD 0))

/-- So many 64-byte blocks taken into the hash. -/
def hashBlocks (constants : List Word) : Nat → List Word → List Byte → List Word
  | 0, h, _ => h
  | n + 1, h, l =>
    let w := (List.range 16).map fun i => BitVec.ofNat 32 (ofBe ((l.drop (4 * i)).take 4))
    hashBlocks constants n (List.zipWith (· + ·) h (hashRounds constants w h)) (l.drop 64)

/-- The SHA-256 of bytes, as a 256-bit number (big-endian). -/
def sha256 (l : List Byte) : Nat :=
  let n := l.length
  let padLen := (119 - n % 64) % 64
  let m := l ++ [0x80] ++ List.replicate padLen 0 ++ beBytes 8 (8 * n)
  (hashBlocks (sha256Primes.map (rootFraction 3)) (m.length / 64) ((sha256Primes.take 8).map (rootFraction 2)) m).foldl (fun acc w => acc * 2 ^ 32 + w.toNat) 0

/-! ECDSA verification over NIST P-256 (R39, R40), as FIPS 186-4 sets it down. -/

/-- The field prime of P-256. -/
def p256P : Nat := 0xffffffff00000001000000000000000000000000ffffffffffffffffffffffff
/-- The group order of P-256. -/
def p256N : Nat := 0xffffffff00000000ffffffffffffffffbce6faada7179e84f3b9cac2fc632551
/-- The curve coefficient b. -/
def p256B : Nat := 0x5ac635d8aa3a93e7b3ebbd55769886bc651d06b0cc53b0f63bce3c3e27d2604b
/-- The base point. -/
def p256G : Nat × Nat :=
  (0x6b17d1f2e12c4247f8bce6e563a440f277037d812deb33a0f4a13945d898c296,
   0x4fe342e2fe1a7f9b8ee7eb4a7c0f9e162bce33576b315ececbb6406837bf51f5)

/-- b^e mod m by square and multiply over the low k bits of e. -/
def powMod (m : Nat) : Nat → Nat → Nat → Nat
  | 0, _, _ => 1 % m
  | k + 1, b, e =>
    let r := powMod m k (b * b % m) (e / 2)
    if e % 2 = 1 then b * r % m else r

/-- The inverse modulo a prime. -/
def invMod (m a : Nat) : Nat := powMod m 256 (a % m) (m - 2)

/-- Point addition on P-256; none is the point at infinity. -/
def p256Add (a b : Option (Nat × Nat)) : Option (Nat × Nat) :=
  match a, b with
  | none, q => q
  | p, none => p
  | some (x1, y1), some (x2, y2) =>
    let P := p256P
    if x1 = x2 ∧ (y1 + y2) % P = 0 then none
    else
      let l := if x1 = x2 then (3 * x1 * x1 + (P - 3)) * invMod P (2 * y1) % P
        else (y2 + P - y1) * invMod P (x2 + P - x1) % P
      let x3 := (l * l + 2 * P - x1 - x2) % P
      some (x3, (l * (x1 + P - x3) + P - y1) % P)

/-- k times a point, over the low n bits of k. -/
def p256Mul : Nat → Nat → Option (Nat × Nat) → Option (Nat × Nat)
  | 0, _, _ => none
  | n + 1, k, p =>
    let r := p256Mul n (k / 2) (p256Add p p)
    if k % 2 = 1 then p256Add p r else r

/-- ECDSA verification of the hash z with public key (x, y) and signature (r, s). -/
def ecdsaVerify (x y r s z : Nat) : Bool :=
  let onCurve := decide (x < p256P) && decide (y < p256P) &&
    (y * y % p256P == (x * x * x + (p256P - 3) * x + p256B) % p256P)
  if !onCurve || r == 0 || s == 0 || decide (p256N ≤ r) || decide (p256N ≤ s) then false
  else
    let w := invMod p256N s
    match p256Add (p256Mul 256 (z * w % p256N) (some p256G)) (p256Mul 256 (r * w % p256N) (some (x, y))) with
    | none => false
    | some (px, _) => px % p256N == r

/-- A list without the elements of another, each taken out once. -/
def listMinus {α : Type} [BEq α] (l m : List α) : List α := m.foldl List.erase l

end Sys2Proof.Machine
end

