-- ==== Sys2Proof/Machine/Structure.lean ====
section
/-!
DEFINITION. Reading the structure: the fields of the OUTPUT, ROUTE, LANEMAP and RIGHTS records (R22 to R36), the stage a
reach hosts, the owner of a bank, and who may reach what.
-/

namespace Sys2Proof.Machine

/-- Payload word i of a record, as a number. -/
def pw (l : List Word) (i : Nat) : Nat := (l.getD i 0).toNat

/-! OUTPUT. -/
/-- Whether the output has an OUTPUT record. -/
def OutConfig.present (c : OutConfig) : Bool := !c.output.isEmpty
/-- PANEL_TYPE: 0 OLED, 1 LCD, 2 dual-cell. -/
def OutConfig.panelType (c : OutConfig) : Nat := bits (pw c.output 0) 23 16
/-- TIMING_CLASS: the pacing source at start. -/
def OutConfig.timingClass (c : OutConfig) : Nat := bits (pw c.output 0) 15 8
/-- V_ACTIVE of the OUTPUT record. -/
def OutConfig.vActive (c : OutConfig) : Nat := bits (pw c.output 1) 31 16
/-- H_ACTIVE of the OUTPUT record. -/
def OutConfig.hActive (c : OutConfig) : Nat := bits (pw c.output 1) 15 0
/-- V_TOTAL of the OUTPUT record. -/
def OutConfig.vTotal (c : OutConfig) : Nat := bits (pw c.output 2) 31 16
/-- H_TOTAL of the OUTPUT record. -/
def OutConfig.hTotal (c : OutConfig) : Nat := bits (pw c.output 2) 15 0
/-- REFRESH_NUM. -/
def OutConfig.num (c : OutConfig) : Nat := pw c.output 3
/-- REFRESH_DEN. -/
def OutConfig.den (c : OutConfig) : Nat := bits (pw c.output 4) 15 0
/-- VTOTAL_MAX. -/
def OutConfig.vTotalMax (c : OutConfig) : Nat := bits (pw c.output 5) 31 16
/-- VTOTAL_MIN. -/
def OutConfig.vTotalMin (c : OutConfig) : Nat := bits (pw c.output 5) 15 0
/-- HTOTAL_MAX. -/
def OutConfig.hTotalMax (c : OutConfig) : Nat := bits (pw c.output 6) 31 16
/-- HTOTAL_MIN. -/
def OutConfig.hTotalMin (c : OutConfig) : Nat := bits (pw c.output 6) 15 0
/-- REFRESH_MIN_MHZ. -/
def OutConfig.minMhz (c : OutConfig) : Nat := pw c.output 7
/-- REFRESH_MAX_MHZ. -/
def OutConfig.maxMhz (c : OutConfig) : Nat := pw c.output 8
/-- GATE_COUNT. -/
def OutConfig.gateCount (c : OutConfig) : Nat := bits (pw c.output 9) 23 16
/-- BACK_VDIV. -/
def OutConfig.backVdiv (c : OutConfig) : Nat := bits (pw c.output 9) 11 10
/-- BACK_HDIV. -/
def OutConfig.backHdiv (c : OutConfig) : Nat := bits (pw c.output 9) 9 8
/-- DRIVE_DEPTH. -/
def OutConfig.driveDepth (c : OutConfig) : Nat := bits (pw c.output 9) 7 0
/-- Whether the panel is a dual-cell LCD. -/
def OutConfig.dual (c : OutConfig) : Bool := c.panelType == 2
/-- Columns of the back field. -/
def OutConfig.backCols (c : OutConfig) : Nat := ceilDiv c.hActive (2 ^ c.backHdiv)
/-- Rows of the back field. -/
def OutConfig.backRows (c : OutConfig) : Nat := ceilDiv c.vActive (2 ^ c.backVdiv)

/-! LANEMAP. -/
/-- The lanes of the mask in words i, i + 1, i + 2, ascending. -/
def lanesOf (l : List Word) (i : Nat) : List Nat :=
  setBits 96 (pw l i + pw l (i + 1) * 2 ^ 32 + pw l (i + 2) * 2 ^ 64)
/-- Front lanes, ascending. -/
def OutConfig.front (c : OutConfig) : List Nat := if c.lanemap.isEmpty then [] else lanesOf c.lanemap 1
/-- Back lanes, ascending. -/
def OutConfig.back (c : OutConfig) : List Nat := if c.lanemap.isEmpty then [] else lanesOf c.lanemap 4
/-- Watch lanes, ascending. -/
def OutConfig.watch (c : OutConfig) : List Nat := if c.lanemap.isEmpty then [] else lanesOf c.lanemap 7
/-- All lanes of the output. -/
def OutConfig.lanes (c : OutConfig) : List Nat := c.front ++ c.back
/-- BAUD in units of 0.25 GBd. -/
def OutConfig.baud (c : OutConfig) : Nat := bits (pw c.lanemap 0) 23 16
/-- PRECODE. -/
def OutConfig.precode (c : OutConfig) : Bool := bit (pw c.lanemap 0) 24

/-! ROUTE. -/
/-- One stage of a route: its type (1 UNPK to 9 PACK), its SRC_RATIO in sixteenths, its REACH_COUNT, its reaches. -/
structure RouteStage where
  type : Nat
  ratio : Nat
  reachCount : Nat
  reaches : List Nat
deriving DecidableEq, Repr

/-- The stages a ROUTE payload lists, n of them. -/
def routeStages (l : List Word) : List RouteStage :=
  (List.range ((l.length - 1) / 3)).map fun k =>
    let w := pw l (1 + 3 * k)
    ⟨bits w 31 24, bits w 19 8, bits w 7 0, setBits 64 (pw l (2 + 3 * k) + pw l (3 + 3 * k) * 2 ^ 32)⟩

/-- The stages of the output's route, in route order. -/
def OutConfig.stages (c : OutConfig) : List RouteStage := routeStages c.route
/-- Whether the route holds a stage of a type. -/
def OutConfig.has (c : OutConfig) (t : Nat) : Bool := c.stages.any (·.type == t)
/-- The stage of a type. -/
def OutConfig.stage (c : OutConfig) (t : Nat) : Option RouteStage := c.stages.find? (·.type == t)
/-- Every reach of the route. -/
def OutConfig.reaches (c : OutConfig) : List Nat := (c.stages.map (·.reaches)).flatten
/-- The masters the structure gives an output: its scan-out engine and its reaches (R34). -/
def OutConfig.masters (c : OutConfig) (n : Nat) : List Nat := (0xC0 + n) :: c.reaches.map (0x60 + ·)

/-- The active structure of output n. -/
def State.cfg (s : State) (n : Nat) : OutConfig := s.sst.outs.getD n OutConfig.empty

/-- Whether output n runs: its timing generator is enabled or finishing (TGn_STATUS.RUN). -/
def State.running (s : State) (n : Nat) : Bool := s.on (F.tgStatusRun n)

/-! Streams. -/
/-- One record of a stream: the word offset of its header, its TYPE, its declared LENGTH, its payload. -/
structure Record where
  off : Nat
  type : Nat
  len : Nat
  pay : List Word
deriving DecidableEq, Repr

/-- The records of a stream from a word offset on, at most so many; the flag says whether one ran past the end (R24). -/
def recordsFrom : Nat → Nat → List Word → List Record × Bool
  | 0, _, _ => ([], false)
  | fuel + 1, off, ws =>
    match ws with
    | [] => ([], false)
    | h :: rest =>
      let len := bits h.toNat 31 16
      if rest.length < len then ([⟨off, bits h.toNat 15 0, len, rest⟩], true)
      else
        let r := recordsFrom fuel (off + 1 + len) (rest.drop len)
        (⟨off, bits h.toNat 15 0, len, rest.take len⟩ :: r.1, r.2)

/-- The records of a whole stream, after its 8 header words. -/
def streamRecords (ws : List Word) : List Record := (recordsFrom ws.length 8 (ws.drop 8)).1

/-- The records of a type. -/
def ofType (rs : List Record) (t : Nat) : List Record := rs.filter (·.type == t)
/-- The output number an OUTPUT, ROUTE or LANEMAP record names. -/
def recOutput (r : Record) : Nat := bits (pw r.pay 0) 1 0
/-- The payload of the record of a type for an output; empty when there is none. -/
def payFor (rs : List Record) (t n : Nat) : List Word :=
  match rs.find? (fun r => r.type == t && recOutput r == n) with
  | some r => r.pay
  | none => []
/-- The payload of the record of a type; empty when there is none. -/
def payOf (rs : List Record) (t : Nat) : List Word :=
  match rs.find? (·.type == t) with
  | some r => r.pay
  | none => []

/-- What a stream says of output n. -/
def streamCfg (ws : List Word) (n : Nat) : OutConfig :=
  let rs := streamRecords ws
  ⟨payFor rs 1 n, payFor rs 2 n, payFor rs 3 n, bits (pw (payOf rs 6) 1) (4 * n + 3) (4 * n), pw ws 4⟩

/-- The three-word entries of a RIGHTS payload. -/
def rightsEntries (l : List Word) : List (List Word) :=
  (List.range ((l.length - 1) / 3)).map fun k => (l.drop (1 + 3 * k)).take 3

/-- The words of the staging slot whose APPLY is pending. -/
def State.pendingStream (s : State) : List Word := s.sst.slots.getD (s.get F.sstPendingSlot) []

/-- Whether an applied structure has not landed on every targeted output. -/
def State.applyPending (s : State) : Bool := s.on F.sstPendingPending

/-- Whether output n still has to take the pending structure. -/
def State.landLeft (s : State) (n : Nat) : Bool :=
  s.applyPending && bit (s.get F.sstPendingOutputsLeft) n

/-- The route of output n that register accesses see: the new one from the accepted APPLY on (R48). -/
def State.progCfg (s : State) (n : Nat) : OutConfig :=
  if s.landLeft n then streamCfg s.pendingStream n else s.cfg n

/-- The stage of an output that a set of configurations puts on a reach: output and type. -/
def stageOn (cfgs : List OutConfig) (r : Nat) : Option (Nat × Nat) :=
  (List.range 4).findSome? fun o =>
    ((cfgs.getD o OutConfig.empty).stages.find? (fun st => st.reaches.contains r)).map fun st => (o, st.type)

/-- The stage whose registers answer in reach r's block (R48, R425): the one the new ROUTE gives it, else its old one. -/
def State.reachStage (s : State) (r : Nat) : Option (Nat × Nat) :=
  match stageOn ((List.range 4).map s.progCfg) r with
  | some x => some x
  | none => stageOn s.sst.outs r

/-- The key of the register at a BAR0 offset: the offset itself, or in a reach's block the key of the stage's register;
none where R423 and R425 say that no register answers. -/
def State.keyOf (s : State) (addr : Nat) : Option Nat :=
  if 0x200000 ≤ addr ∧ addr < 0x244000 then
    let r := (addr - 0x200000) / 0x1000
    let off := addr % 0x1000
    if off = 0 then some addr
    else if 64 ≤ r then none
    else match s.reachStage r with
      | some (o, t) =>
        if off / 0x100 = t ∧ (rowOf (0x4000000 + 0x10000 * o + off)).isSome then some (0x4000000 + 0x10000 * o + off)
        else none
      | none => none
  else if addr < 0x4000000 ∧ (rowOf addr).isSome then some addr else none

/-! Rights (R36, R240). -/

/-- The bank of a Hold address. -/
def bankOf (a : Nat) : Nat := a / 0x400000

/-- The owner of a bank. -/
def State.owner (s : State) (bank : Nat) : Nat := s.get (F.holdOwnerOwner bank)

/-- Whether a RIGHTS entry grants a master a KIND 0 right to a bank in a direction. -/
def grantsBank (e : List Word) (m bank : Nat) (write : Bool) : Bool :=
  bits (pw e 0) 31 24 == m && bits (pw e 0) 23 20 == 0 && bit (pw e 0) (if write then 17 else 16) &&
    decide (bits (pw e 1) 7 0 ≤ bank) && decide (bank < bits (pw e 1) 7 0 + bits (pw e 1) 16 8)

/-- Whether a master may reach a bank in a direction: as its owner, or under a KIND 0 right, and never to write a locked
base map (R36, R112, R240). -/
def State.mayHold (s : State) (m bank : Nat) (write : Bool) : Bool :=
  (s.owner bank == m || s.sst.rights.any (grantsBank · m bank write)) &&
    !(write && s.on (F.holdOwnerLocked bank))

/-- Whether a RIGHTS entry's KIND 1 window covers a BAR0 offset for a master in a direction. -/
def grantsReg (e : List Word) (m addr : Nat) (write : Bool) : Bool :=
  bits (pw e 0) 31 24 == m && bits (pw e 0) 23 20 == 1 && bit (pw e 0) (if write then 17 else 16) &&
    decide (bits (pw e 1) 25 12 * 0x1000 ≤ addr) && decide (addr < bits (pw e 1) 25 12 * 0x1000 + pw e 2)

/-- The master ID of a writer. -/
def masterOf : Writer → Nat
  | .purser => 1
  | .fn f => 0x40 + f.val

/-- Whether a writer is PF0 or the Purser (R9, RWP). -/
def privileged : Writer → Bool
  | .purser => true
  | .fn f => f.val == 0

/-- Whether a BAR0 offset lies in a writer's register partition in a direction (R36): PF0 and the Purser reach all of it. -/
def State.inPartition (s : State) (w : Writer) (addr : Nat) (write : Bool) : Bool :=
  privileged w || s.sst.rights.any (grantsReg · (masterOf w) addr write)

/-- Whether a master may originate chain accesses through a port to a chain address in a direction (R36, KIND 2). -/
def State.mayChain (s : State) (m port dst : Nat) (write : Bool) : Bool :=
  s.sst.rights.any fun e =>
    bits (pw e 0) 31 24 == m && bits (pw e 0) 23 20 == 2 && bit (pw e 0) (if write then 17 else 16) &&
      bit (pw e 1) port && decide (bits (pw e 2) 15 0 ≤ dst) && decide (dst ≤ bits (pw e 2) 31 16)

/-- Whether a chain address lies in the range of a chain entry of a master for a direction, whatever its ports (R316). -/
def State.inChainRange (s : State) (m dst : Nat) (write : Bool) : Bool :=
  s.sst.rights.any fun e =>
    bits (pw e 0) 31 24 == m && bits (pw e 0) 23 20 == 2 && bit (pw e 0) (if write then 17 else 16) &&
      decide (bits (pw e 2) 15 0 ≤ dst) && decide (dst ≤ bits (pw e 2) 31 16)

/-! Fabric cycles of 1.2 GHz: 12 in 10,000 ps. -/

/-- The fabric cycles begun at an instant. -/
def fabricCycle (t : Int) : Int := t * 12 / 10000

/-- The first fabric cycle that begins at or after an instant. -/
def nextCycle (t : Int) : Int := (t * 12 + 9999) / 10000

/-- When a fabric cycle begins, in ps. -/
def cycleAt (c : Int) : Int := rheDiv (c * 10000) 12

/-- The instant of the tick counted last, in ps of local time. -/
def State.nowPs (s : State) : Int := 4000 * (s.time.ticks : Int)

/-- The fabric cycle of that instant. -/
def State.cycleNow (s : State) : Int := fabricCycle s.nowPs

/-- Whether chain time is usable (R143). -/
def State.timeUsable (s : State) : Bool :=
  !s.on F.timeStatusDegraded && (bits (pw s.sst.timerole 0) 1 0 != 2 || s.time.everLocked)

end Sys2Proof.Machine
end

