-- ==== Sys2Proof/Machine/Flags.lean ====
section
/-!
DEFINITION. The flags of the part: event sources and their messages (R381 to R386), the violation and freeze flags of the
masters (R364 to R371).
-/

namespace Sys2Proof.Machine

/-! Event sources: source = 32 * group + bit. -/

/-- An event of output n's group (groups 8 to 11). -/
def evOut (n b : Nat) : Nat := 32 * (8 + n) + b

/-- Whether a source is implemented (R381). -/
def implemented (src : Nat) : Bool := bit (resetOf (R.evtImpl (src / 32))).toNat (src % 32)

/-- Whether a source is pending (R382). -/
def State.pendingSrc (s : State) (src : Nat) : Bool := bit (s.reg (R.evtStatus (src / 32))).toNat (src % 32)

/-- Whether a source's message gate is open (EVT_ENABLEg). -/
def State.enabledSrc (s : State) (src : Nat) : Bool := bit (s.reg (R.evtEnable (src / 32))).toNat (src % 32)

/-- One bit of a register set or cleared by the hardware. -/
def State.setBit (s : State) (a b : Nat) (v : Bool) : State :=
  s.put ⟨a, b, b⟩ v.toNat

/-- The function that owns a pool vector (R360): 0 for PF0, f for VF f. -/
def vectorFn (v : Nat) : Nat := if v < 1056 then 0 else (v - 1056) / 32 + 1

/-- Configuration of function f. -/
def State.fnCfg (s : State) (f : Nat) : FnConfig := s.host.fns.getD f FnConfig.reset

/-- Whether function f exists: PF0 always, VF f while VF Enable is 1 and NumVFs is f or more (R356). -/
def State.fnExists (s : State) (f : Nat) : Bool := f == 0 || (s.host.vfEnable && decide (f ≤ s.host.numVfs))

/-- Whether function f can send messages (R384): none in Winter, nor before the Thaw from it ends (R394). -/
def State.fnSends (s : State) (f : Nat) : Bool :=
  let c := s.fnCfg f
  s.get F.glbPowerStatusState != 5 && s.get F.glbPowerStatusState != 6 && s.fnExists f && !c.d3hot && c.msixEnable && c.busMaster && s.host.linkUp

/-- A vector put into or out of the PBA. -/
def State.setPba (s : State) (v : Nat) (b : Bool) : State :=
  { s with host := { s.host with pba := if b then keyInsert s.host.pba v else s.host.pba.filter (· != v) } }

/-- Whether a vector is masked: by its own Mask bit or by its function's Function Mask. -/
def State.maskedVec (s : State) (v : Nat) : Bool := (s.fnCfg (vectorFn v)).fnMask || !s.host.unmasked.contains v

/-- The AUTOCLR sources of a vector lose their pending bits in the clock its message goes out (R383). -/
def State.autoClear (s : State) (v : Nat) : State :=
  (List.range 768).foldl (fun t src =>
    if t.pendingSrc src && t.enabledSrc src && t.on (F.evtRouteMsixEn src) && t.get (F.evtRouteVector src) == v
        && t.on (F.evtRouteAutoclr src)
    then t.setBit (R.evtStatus (src / 32)) (src % 32) false else t) s

/-- The message on a vector: a write by its function under its table entry (R360). -/
def State.msixOut (s : State) (v : Nat) : Out :=
  let e := (s.host.entries.find? (·.vector == v)).getD ⟨v, 0, 0⟩
  .msix v (vectorFn v) e.addr e.data

/-- A message due for one source (R383, R384): nothing when the owning function cannot send, held in the PBA when the vector
is masked, else issued, which a message still held there is merged into, the source cleared when AUTOCLR is set. -/
def State.messageDue (s : State) (src : Nat) : State :=
  let v := s.get (F.evtRouteVector src)
  if !s.fnSends (vectorFn v) then s
  else if s.maskedVec v then s.setPba v true
  else
    let t := (s.setPba v false).emit (s.msixOut v)
    if t.on (F.evtRouteAutoclr src) then t.setBit (R.evtStatus (src / 32)) (src % 32) false else t

/-- Whether a source's messages are routed and gated open. -/
def State.routed (s : State) (src : Nat) : Bool := s.enabledSrc src && s.on (F.evtRouteMsixEn src)

/-- A source raised (R382, R383, R385): its bit set, its stamp asked for when routed to the Purser, its message due when
the bit was clear, or when a W1C clear of the bit falls in the same clock. -/
def State.raiseWith (s : State) (src : Nat) (clearedNow : Bool) : State :=
  if !implemented src then s
  else
    let was := s.pendingSrc src
    let s1 := s.setBit (R.evtStatus (src / 32)) (src % 32) true
    let s2 := if s1.on (F.evtRoutePurser src)
      then { s1 with purser := { s1.purser with stamps := s1.purser.stamps ++ [src] } } else s1
    if s2.routed src && (!was || clearedNow) then s2.messageDue src else s2

/-- A source raised. -/
def State.raise (s : State) (src : Nat) : State := s.raiseWith src false

/-- A source raised when a condition holds. -/
def State.raiseIf (s : State) (c : Bool) (src : Nat) : State := if c then s.raise src else s

/-- The messages that fall due when function f can send again: one on each of its vectors with an enabled, pending,
routed source (R384). -/
def State.sendWaiting (s : State) (f : Nat) : State :=
  let due := (List.range 768).filter fun src =>
    s.pendingSrc src && s.routed src && vectorFn (s.get (F.evtRouteVector src)) == f
  (due.foldl (fun (st : State × List Nat) src =>
    let v := st.1.get (F.evtRouteVector src)
    if st.2.contains v then
      (if st.1.fnSends f && !st.1.maskedVec v && st.1.on (F.evtRouteAutoclr src)
        then st.1.setBit (R.evtStatus (src / 32)) (src % 32) false else st.1, st.2)
    else (st.1.messageDue src, v :: st.2)) (s, [])).1

/-- The messages held in the PBA for the vectors of a list go out, as far as nothing masks them (R383). -/
def State.sendHeld (s : State) (vs : List Nat) : State :=
  vs.foldl (fun t v =>
    if t.host.pba.contains v && !t.maskedVec v && t.fnSends (vectorFn v)
    then ((t.setPba v false).emit (t.msixOut v)).autoClear v else t) s

/-- The vectors that hold a message for no source any more lose it (the PCI Express base specification's rule for the Pending bits). -/
def State.settlePba (s : State) : State :=
  let due := fun (v : Nat) => (List.range 768).any fun src => s.pendingSrc src && s.routed src && s.get (F.evtRouteVector src) == v
  { s with host := { s.host with pba := s.host.pba.filter due } }

/-- Errors of a function logged in its AER status registers (R354, R373): AER_CORRECTABLE and AER_UNCORRECTABLE. -/
def State.logAer (s : State) (f cor unc : Nat) : State :=
  let note := fun (x : FnConfig) => { x with aerCor := x.aerCor ||| cor, aerUnc := x.aerUnc ||| unc }
  (({ s with host := { s.host with fns := updAt s.host.fns f note } }).raiseIf (cor != 0) 36).raiseIf (unc != 0) 37

/-- A poisoned completion that function f received (R373): Poisoned TLP Received. -/
def State.aerReply (s : State) (f : Nat) (r : BusReply) : State := if r == .poisoned then s.logAer f 0 0x1000 else s

/-! Panel lanes and the ends of their calibrations (R217, R226, R231). -/

/-- Lane n's state. -/
def State.lane (s : State) (n : Nat) : LaneState := s.lanes.getD n LaneState.reset

/-- Lane n's state changed. -/
def State.setLane (s : State) (n : Nat) (f : LaneState → LaneState) : State := { s with lanes := updAt s.lanes n f }

/-- The coefficients in force of a lane. -/
def State.taps (s : State) (n : Nat) : Taps :=
  ⟨sval 8 (s.get (F.plnFfeCm1 n)), sval 8 (s.get (F.plnFfeC1 n)), sval 8 (s.get (F.plnFfeC2 n))⟩

/-- The coefficients in force set; the main tap derived. -/
def State.setTaps (s : State) (n : Nat) (t : Taps) : State :=
  s.puts [(F.plnFfeCm1 n, ofSval 8 t.cm1), (F.plnFfeC1 n, ofSval 8 t.c1), (F.plnFfeC2 n, ofSval 8 t.c2),
    (F.plnFfeC0 n, 128 - t.cm1.natAbs - t.c1.natAbs - t.c2.natAbs)]

/-- A calibration of a lane ended with a code at coefficients; BUSY clear, ADOPTED saturated at its 4 bits (R5). A measurement changes no
coefficient (R227). -/
def State.endCal (s : State) (n code : Nat) (t : Taps) : State :=
  match (s.lane n).cal with
  | none => s
  | some c =>
    let s1 := s.setLane n fun l => { l with cal := none, histAt := none }
    if c.measure then (if code = 0 then s1 else s1.put (F.plnCalStatusLastCode n) code)
    else (s1.setTaps n t).puts
      [(F.plnCalStatusBusy n, 0), (F.plnCalStatusLastCode n, code), (F.plnCalStatusAdopted n, min 15 c.adopted)]

/-- A calibration aborted: back to the coefficients it began with, 0x520 (R226). -/
def State.abortCal (s : State) (n : Nat) : State :=
  match (s.lane n).cal with
  | none => s
  | some c => s.endCal n 0x520 c.start

/-- The calibrations that a reach that freezes ends (R226): those of the lanes of an output whose route holds it. -/
def State.abortRoute (s : State) (r : Nat) : State :=
  (List.range 4).foldl (fun t o => if (t.cfg o).reaches.contains r then (t.cfg o).lanes.foldl State.abortCal t else t) s

/-! Violations and freezing. -/

/-- Whether master m is frozen. -/
def State.frozen (s : State) (m : Nat) : Bool := s.on (F.mstFreezeCauseFrozen m)

/-- The freeze event of a master's kind (R373): host function, DMA channel, reach, scan-out, Eddy engine, chain port. -/
def freezeEvent (m : Nat) : Nat :=
  if 0x40 ≤ m ∧ m < 0x60 then 64
  else if 0x10 ≤ m ∧ m < 0x30 then 65
  else if 0x60 ≤ m ∧ m < 0xA4 then 66
  else if 0xC0 ≤ m ∧ m < 0xC4 then 67
  else if 0x08 ≤ m ∧ m < 0x0C then 68
  else 69

/-- The stage at which output n's route stalls (R367): the last one that a frozen reach hosts, UNPK under a frozen scan-out engine, 0 where nothing
is frozen. -/
def State.stallNow (s : State) (n : Nat) : Nat :=
  (s.cfg n).stages.foldl (fun k st => if st.reaches.any (fun r => s.frozen (0x60 + r)) then max k st.type else k)
    (if s.frozen (0xC0 + n) then 1 else 0)

/-- The stall of output n's route noted, until a Landing finds it running again (R138, R368). -/
def State.noteStall (s : State) (n : Nat) : State :=
  let k := s.stallNow n
  { s with outs := updAt s.outs n fun o => { o with stall := max o.stall k, froze := o.froze || decide (k ≠ 0) } }

/-- The FROZEN flags of a master: in its cause entry, in MST_FROZENk, and in the status register of its unit. A reach
that freezes ends the calibrations of its route's lanes (R226); a reach or a scan-out engine stalls its route (R367). -/
def State.setFrozen (s : State) (m : Nat) (b : Bool) : State :=
  let t := (s.put (F.mstFreezeCauseFrozen m) b.toNat).setBit (R.mstFrozen (m / 32)) (m % 32) b
  if 0x10 ≤ m ∧ m < 0x30 then t.put (F.dmaStatusFrozen (m - 0x10)) b.toNat
  else if 0x08 ≤ m ∧ m < 0x0C then t.put (F.eddyStatusFrozen (m - 0x08)) b.toNat
  else if 0xB0 ≤ m ∧ m < 0xB3 then t.put (F.chnpStatusFrozen (m - 0xB0)) b.toNat
  else if 0x60 ≤ m ∧ m < 0xA4 ∧ b then (List.range 4).foldl State.noteStall (t.abortRoute (m - 0x60))
  else if 0xC0 ≤ m ∧ m < 0xC4 ∧ b then t.noteStall (m - 0xC0)
  else t

/-- A violation's code, address and detail latched in the master's cause entry (R364). -/
def State.latchCause (s : State) (m code addr : Nat) (write : Bool) (chainSrc : Nat) : State :=
  let own := if code == 0x201 || code == 0x202 || code == 0x205 || code == 0x207 then s.owner (bankOf (addr % 2 ^ 30)) else 0
  ((((((s.put (F.mstFreezeCauseCode m) code).setReg (R.mstCauseAddrLo m) (BitVec.ofNat 32 addr)).setReg
    (R.mstCauseAddrHi m) (BitVec.ofNat 32 (addr / 2 ^ 32))).put (F.mstCauseDetailDir m) write.toNat).put
    (F.mstCauseDetailOwner m) own).put (F.mstCauseDetailChainSrc m) chainSrc).count F.mstViolationsCount 1

/-- A violation by master m (R364 to R366): the first one freezes it and latches, a further one sets MORE; the trusted
masters 0x01 to 0x03 are never frozen. -/
def State.violate (s : State) (m code addr : Nat) (write : Bool) (chainSrc : Nat := 0) : State :=
  if 1 ≤ m ∧ m ≤ 3 then
    if s.get (F.mstFreezeCauseCode m) ≠ 0 then s.put (F.mstFreezeCauseMore m) 1
    else (s.latchCause m code addr write chainSrc).raise 70
  else if s.frozen m then s.put (F.mstFreezeCauseMore m) 1
  else ((s.latchCause m code addr write chainSrc).setFrozen m true).raise (freezeEvent m)

/-- The non-posted requests of the part that no channel makes, in flight: so many more, or fewer (R266, R353). -/
def State.npPart (s : State) (n : Int) : State := s.put F.dmaNpTotalCount ((s.get F.dmaNpTotalCount : Int) + n).toNat

end Sys2Proof.Machine
end

