-- ==== Sys2Proof/Machine/Access.lean ====
section
/-!
DEFINITION. How a register access is judged (R6 to R9, R358, R365, R367, R369, R394) and what a plain write does by access
type (R9, R10, R12).
-/

namespace Sys2Proof.Machine

/-- Power states of GLB_POWER_STATUS.STATE. -/
def State.powerState (s : State) : Nat := s.get F.glbPowerStatusState

/-- Whether the part is in Winter. -/
def State.inWinter (s : State) : Bool := s.powerState == 5

/-- Whether a writer's function answers at all: the Purser always, a function that exists, has Memory Space Enable set and is not
in D3hot (R356, R362); nobody while the supplies are off or a THERMAL reset has every domain off (R399). -/
def State.answers (s : State) (w : Writer) : Bool :=
  !s.power.off && !(s.power.thermal && s.power.fabricOff) && match w with
  | .purser => true
  | .fn f => s.fnExists f.val && (s.fnCfg f.val).memSpace && !(s.fnCfg f.val).d3hot

/-- The offsets a frozen PF0 may still write (R369): MST_THAW, every ACK, the Manifest request registers. -/
def recoveryAddr (addr : Nat) : Bool :=
  addr == R.mstThaw || addr == R.glbManifestAddrHi || addr == R.glbManifestReq ||
    (decide (0x21000 ≤ addr) && decide (addr < 0x22000) && addr % 16 == 0)

/-- Whether the register at an offset has an RWP field: only PF0 and the Purser may write it. -/
def State.isRwp (s : State) (addr : Nat) : Bool :=
  match s.keyOf addr with
  | some k => match rowOf k with
    | some r => r.masks.rwp != 0
    | none => false
  | none => false

/-- Whether a write would be a violation (R358): outside the partition, or to an RWP field by another than PF0 and the
Purser. -/
def State.writeViolates (s : State) (w : Writer) (addr : Nat) : Bool :=
  !s.inPartition w addr true || (s.isRwp addr && !privileged w)

/-- An access dropped in Winter and counted (R394). -/
def State.winterDrop (s : State) : State := s.count F.glbWinterDropsCount 1

/-- Whether Winter drops an access to an offset: every one outside the GLB block (R394, R426). -/
def State.winterDrops (s : State) (w : Writer) (addr : Nat) : Bool :=
  s.inWinter && decide (0x10000 ≤ addr) && !(w == .purser)

/-- A register write by a writer, judged in the clock in which it reaches the block; `k` is its effect when it is accepted.
A write outside the partition, or to an RWP field, freezes its function with 0x203 (R358, R364); a frozen function's write
is dropped, a violation among them setting MORE (R365, R367), but for PF0's recovery path (R369). -/
def State.writeBy (s : State) (w : Writer) (addr : Nat) (k : State → State) : State :=
  if !s.answers w then s
  else if s.winterDrops w addr then s.winterDrop
  else if s.frozen (masterOf w) && !((masterOf w) == 0x40 && recoveryAddr addr) then
    (if s.writeViolates w addr then s.violate (masterOf w) 0x203 addr true else s)
  else if s.writeViolates w addr then s.violate (masterOf w) 0x203 addr true
  else k s

/-- A register write that a further check `bad` can make a violation with a code and an address to latch: of a frozen function it
sets MORE, as every violation does (R367). -/
def State.writeJudged (s : State) (w : Writer) (addr : Nat) (bad : State → Bool) (code latch : Nat) (k : State → State) : State :=
  if s.answers w && !s.winterDrops w addr && s.frozen (masterOf w) && !s.writeViolates w addr && bad s then
    s.violate (masterOf w) code latch true
  else s.writeBy w addr fun t => if bad t then t.violate (masterOf w) code latch true else k t

/-- Whether a read by a writer answers with the register; otherwise it completes with all-ones data (R358, R367, R394). -/
def State.readAllowed (s : State) (w : Writer) (addr : Nat) : Bool :=
  !s.winterDrops w addr && !s.frozen (masterOf w) && s.inPartition w addr false

/-- All-ones data. -/
def allOnes : Word := 0xFFFFFFFF

/-- A read by a writer: nothing when its function does not answer, all-ones data when it may not read, else the data and
the effect `k` gives. -/
def State.readBy (s : State) (w : Writer) (addr : Nat) (k : State → Word × State) : State :=
  if !s.answers w then s
  else if s.winterDrops w addr then (s.winterDrop).emit (.completion allOnes)
  else if !s.readAllowed w addr then s.emit (.completion allOnes)
  else let r := k s; r.2.emit (.completion r.1)

/-- The register word after a plain write by access type (R9): RW, RWP and RWL fields take the data, a 1 clears a W1C bit
and sets a W1S bit, every other bit stays; fields whose write is a row of its own stay too; the W1C bits the part sets in
the same clock stay set (R10). -/
def writeWord (m : Masks) (old data hwSet : Word) : Word :=
  let own := BitVec.ofNat 32 m.own
  let take := BitVec.ofNat 32 (m.rw ||| m.rwp ||| m.rwl) &&& ~~~own
  let w1c := BitVec.ofNat 32 m.w1c &&& ~~~own
  let w1s := BitVec.ofNat 32 m.w1s &&& ~~~own
  ((old &&& ~~~take &&& ~~~(w1c &&& data)) ||| (data &&& take) ||| (data &&& w1s)) ||| (hwSet &&& w1c)

/-- A plain write of the register at a key: by access type, and its written flag set where its reset value is a dash
(R12). -/
def State.plainWrite (s : State) (key : Nat) (data hwSet : Word) : State :=
  match rowOf key with
  | none => s
  | some r =>
    let t := s.setReg key (writeWord r.masks (s.reg key) data hwSet)
    if r.dash then t.setWritten key else t

end Sys2Proof.Machine
end

