-- ==== Sys2Proof/Machine/Chase.lean ====
section
/-!
DEFINITION. Frame slots as data in the Hold: source formats (R54 to R59) and the tracking of completed lines in chase mode
(R64, R67).
-/

namespace Sys2Proof.Machine

/-- The bank of a Hold address is bits [29:22]; the word address a byte lies in. -/
def wordOf (a : Nat) : Nat := a / 32 * 32

/-- Output n's state. -/
def State.outp (s : State) (n : Nat) : OutState := s.outs.getD n OutState.reset

/-- Output n's state changed. -/
def State.setOut (s : State) (n : Nat) (f : OutState → OutState) : State := { s with outs := updAt s.outs n f }

/-! Source formats. A source format is judged on a set of register values: the shadows at a Landing, the active set at
scan-out. -/

/-- The source format a set of values gives: LAYOUT, SAMPLING, CONTAINER, DEPTH, SITE, RECON, width, height. -/
structure SrcFormat where
  layout : Nat
  sampling : Nat
  container : Nat
  depth : Nat
  site : Nat
  recon : Nat
  width : Nat
  height : Nat
deriving DecidableEq, Repr

/-- The source format read through a field reader. -/
def srcFormat (g : Field → Nat) (n : Nat) : SrcFormat :=
  ⟨g (F.unpkFormatLayout n), g (F.unpkFormatSampling n), g (F.unpkFormatContainer n), g (F.unpkFormatDepth n),
   g (F.unpkFormatSite n), g (F.unpkFormatRecon n), g (F.unpkSrcSizeSrcWidth n), g (F.unpkSrcSizeSrcHeight n)⟩

/-- Bits per stored sample (R55). -/
def SrcFormat.bitsPer (f : SrcFormat) : Nat :=
  if f.container = 0 then 8 else if f.container = 1 then 10 else if f.container = 2 then 12 else 16

/-- Sample depth in bits (R55). -/
def SrcFormat.depthBits (f : SrcFormat) : Nat :=
  if f.container = 0 then 8 else if f.container = 1 then 10 else if f.container = 2 then 12
  else if f.depth = 0 then 8 else if f.depth = 1 then 10 else 12

/-- Planes of a layout (R54). LAYOUT 3 is invalid and names no planes: its descriptors are judged for an unwritten field as those of three
planes, before the format is refused (R73; DESIGN CHOICE, log 88). -/
def SrcFormat.planes (f : SrcFormat) : Nat := if f.layout = 1 then 2 else 3

/-- Samples per line of a plane. -/
def SrcFormat.samples (f : SrcFormat) (p : Nat) : Nat :=
  if p = 0 ∨ f.layout = 2 then f.width
  else
    let c := if f.sampling = 0 then f.width else f.width / 2
    if f.layout = 1 then 2 * c else c

/-- Rows of a plane. -/
def SrcFormat.rows (f : SrcFormat) (p : Nat) : Nat :=
  if p = 0 ∨ f.layout = 2 ∨ f.sampling ≠ 2 then f.height else ceilDiv f.height 2

/-- Bytes of a plane's line. -/
def SrcFormat.lineBytes (f : SrcFormat) (p : Nat) : Nat := f.samples p * f.bitsPer / 8

/-- The base of plane p of slot k, through a field reader. -/
def slotBase (g : Field → Nat) (n k p : Nat) : Nat :=
  32 * (if p = 0 then g (F.scnSlotBase0Addr n k) else if p = 1 then g (F.scnSlotBase1Addr n k)
    else g (F.scnSlotBase2Addr n k))

/-- The stride of plane p of slot k, through a field reader. -/
def slotStride (g : Field → Nat) (n k p : Nat) : Nat :=
  32 * (if p = 0 then g (F.scnSlotStride0Bytes n k) else g (F.scnSlotStride12Bytes n k))

/-- The current slot of output n. -/
def State.curSlot (s : State) (n : Nat) : Nat := s.get (F.scnSrcStatusCurSlot n)

/-- Whether chase mode is on in the active set (R64). -/
def State.chaseOn (s : State) (n : Nat) : Bool :=
  s.actOn (F.scnSlotCfgChaseEn n) && s.act (F.scnSlotCfgSlotCount n) == 1

/-! Chase mode: the completion of lines (R64 to R67). Completion is kept by plane and plane row. -/

/-- The plane row that serves a source line. -/
def SrcFormat.rowFor (f : SrcFormat) (p y : Nat) : Nat :=
  if p = 0 ∨ f.layout = 2 ∨ f.sampling ≠ 2 then y else y / 2

/-- The key of a plane row. -/
def rowKey (p row : Nat) : Nat := p * 0x10000 + row

/-- Whether every plane row that serves a line is among the keys. -/
def lineComplete (f : SrcFormat) (keys : List Nat) (y : Nat) : Bool :=
  (List.range f.planes).all fun p => keys.contains (rowKey p (f.rowFor p y))

/-- The plane row whose final 32-byte word is the word at an address, if any, with the address of the line's last byte. -/
def finalWordRow (f : SrcFormat) (g : Field → Nat) (n p w : Nat) : Option (Nat × Nat) :=
  let base := slotBase g n 0 p
  let stride := slotStride g n 0 p
  let off := base + f.lineBytes p - 1
  if stride = 0 ∨ w + 32 ≤ off then none
  else
    let row := (w + 31 - off) / stride
    if row < f.rows p ∧ wordOf (off + row * stride) = w then some (row, off + row * stride) else none

/-- The source lines a plane row serves. -/
def SrcFormat.linesOf (f : SrcFormat) (p row : Nat) : List Nat :=
  if p = 0 ∨ f.layout = 2 ∨ f.sampling ≠ 2 then [row] else [2 * row, 2 * row + 1]

/-- Whether every plane of a complete line has been written again: the keys name planes and source lines. -/
def lineAgain (f : SrcFormat) (keys : List Nat) (y : Nat) : Bool := (List.range f.planes).all fun p => keys.contains (rowKey p y)

/-- A plane row of output n completed by a write (R64). A line that is still complete is completed again once each of its planes has been
written again; before it is read in the current frame, the producer has then overtaken scan-out (R67). -/
def State.completeRow (s : State) (n : Nat) (f : SrcFormat) (p row : Nat) : State :=
  let o := s.outp n
  let was := (f.linesOf p row).filter fun y => y < f.height && lineComplete f o.chaseDone y
  let again := was.foldl (fun l y => keyInsert l (rowKey p y)) o.chaseAgain
  let twice := was.filter fun y => lineAgain f again y
  let t := s.setOut n fun o => { o with
    chaseDone := keyInsert o.chaseDone (rowKey p row)
    chaseAgain := again.filter fun k => !twice.contains (k % 0x10000) }
  t.raiseIf (twice.any fun y => !o.chaseRead.contains (y / 16)) (evOut n 20)

/-- A write of the bytes of a Hold word that `hit` tells, seen by the chase tracking of every output: it completes a plane row when it brings the line's
last byte (DESIGN CHOICE, log 88). The tracking goes on with the flags it has when chase mode starts or
ends and when other descriptors or another format land: nothing says that those clear them (DESIGN CHOICE, log 88). -/
def State.chaseWrite (s : State) (w : Nat) (hit : Nat → Bool) : State :=
  (List.range 4).foldl (fun t n =>
    if t.chaseOn n then
      let f := srcFormat t.act n
      (List.range f.planes).foldl (fun u p =>
        match finalWordRow f u.act n p w with
        | some r => if hit r.2 then u.completeRow n f p r.1 else u
        | none => u) t
    else t) s

end Sys2Proof.Machine
end

