-- ==== Sys2Proof/Machine/Hold.lean ====
section
/-!
DEFINITION. The Hold: its bytes and words, the bank gate, collisions, ferries and waiting accesses (11_the_hold.md).
-/

namespace Sys2Proof.Machine

/-! Bytes. -/

/-- The stamp of the free contents of a byte's word, when the spec does not give them (an abandoned destructive test). -/
def State.unknownAt (s : State) (a : Nat) : Option Nat :=
  if s.hold.knownWords.contains (wordOf a) then none
  else (s.hold.unknownBanks.find? (·.1 == bankOf a)).map (·.2)

/-- One byte of the Hold. -/
def State.holdByte (s : State) (a : Nat) : Byte :=
  match s.unknownAt a with
  | some stamp => Config.unknownByte stamp a
  | none => sparseGet 0 s.hold.bytes a

/-- One byte of the Hold stored. -/
def State.setHoldByte (s : State) (a : Nat) (b : Byte) : State :=
  { s with hold := { s.hold with bytes := sparseSet 0 s.hold.bytes a b } }

/-- n bytes of the Hold from an address. -/
def State.holdBytes (s : State) (a : Nat) : Nat → List Byte
  | 0 => []
  | n + 1 => s.holdByte a :: s.holdBytes (a + 1) n

/-- Bytes stored from an address on. -/
def State.setHoldBytes (s : State) (a : Nat) : List Byte → State
  | [] => s
  | b :: rest => (s.setHoldByte a b).setHoldBytes (a + 1) rest

/-- A word whose contents were unknown made known: its bytes take what a read of them gives. -/
def State.knowWord (s : State) (w : Nat) : State :=
  if (s.unknownAt w).isSome then
    let l := s.holdBytes w 32
    let t := { s with hold := { s.hold with knownWords := keyInsert s.hold.knownWords w } }
    t.setHoldBytes w l
  else s

/-- The words a run of n bytes from an address touches, ascending. -/
def wordsTouched (a n : Nat) : List Nat :=
  if n = 0 then [] else (List.range ((a + n - 1) / 32 - a / 32 + 1)).map fun i => wordOf a + 32 * i

/-- A word marked uncorrectable, or clean again (R234). -/
def State.setUncorr (s : State) (w : Nat) (b : Bool) : State :=
  { s with hold := { s.hold with
      uncorr := if b then keyInsert s.hold.uncorr w else s.hold.uncorr.filter (· != w) } }

/-- The bytes of a word with unknown contents: one free value for each byte. -/
def freeBytes (n : Nat) : Nat → List Byte
  | 0 => []
  | k + 1 => BitVec.ofNat 8 (Config.freeValue n) :: freeBytes (n + 1) k

/-- A word lost: free contents, uncorrectable. -/
def State.loseWord (s : State) (w : Nat) : State :=
  let t := (s.knowWord w).setHoldBytes w (freeBytes s.freeCount 32)
  ({ t with freeCount := t.freeCount + 32 }).setUncorr w true

/-! Whole-run access of a master that has passed the gate. -/

/-- Bytes written by a master that may: full words clean an uncorrectable word, part words leave it so (R234); lines that
the write completes are marked (R64). -/
def State.storeRun (s : State) (a : Nat) (l : List Byte) : State :=
  let s1 := (wordsTouched a l.length).foldl (fun t w => t.knowWord w) s
  let s2 := s1.setHoldBytes a l
  (wordsTouched a l.length).foldl
    (fun t w => (if a ≤ w ∧ w + 32 ≤ a + l.length then t.setUncorr w false else t).chaseWrite w
      fun b => decide (a ≤ b) && decide (b < a + l.length)) s2

/-- Whether a run of bytes meets an uncorrectable word; the first such word. -/
def State.runFault (s : State) (a n : Nat) : Option Nat :=
  (wordsTouched a n).find? fun w => s.hold.uncorr.contains w

/-- The fault indication of a read of an uncorrectable word: address, count, event (R234). -/
def State.noteUncorr (s : State) (w : Nat) : State :=
  ((s.put F.holdEccAddrAddr (w / 32)).count F.holdEccUncorrCount 1).raise 195

/-- The fault indications of the read of a run: one for each uncorrectable word of it, ascending. -/
def State.noteRun (s : State) (a n : Nat) : State :=
  ((wordsTouched a n).filter fun w => s.hold.uncorr.contains w).foldl State.noteUncorr s

/-- The banks a run of n bytes touches. -/
def banksTouched (a n : Nat) : List Nat :=
  if n = 0 then [] else (List.range ((a + n - 1) / 0x400000 - a / 0x400000 + 1)).map fun i => bankOf a + i

/-- The first address of a run in a bank the master may not reach in a direction. -/
def State.firstBarred (s : State) (m a n : Nat) (write : Bool) : Option Nat :=
  ((banksTouched a n).find? fun b => decide (256 ≤ b) || !s.mayHold m b write).map fun b => max a (b * 0x400000)

/-- The code of a barred access: 0x202 for a write the rights allow into a locked base map, else 0x201 (R364). -/
def State.barCode (s : State) (m a : Nat) (write : Bool) : Nat :=
  let b := bankOf a
  if write && s.on (F.holdOwnerLocked b) && (s.owner b == m || s.sst.rights.any (grantsBank · m b write)) then 0x202
  else 0x201

/-! One access at the gate (R235 to R242, R248, R253). -/

/-- The port a master reaches the Hold through: true for port A (R235). -/
def portA (m : Nat) : Bool := (decide (0xC0 ≤ m) && decide (m < 0xC4)) || (decide (0x60 ≤ m) && decide (m < 0xA4))

/-- The enabled byte lanes of an access: source index i and word byte (i + r) mod 32 (R239). -/
def laneList (a : HoldAccess) : List (Nat × Nat) :=
  ((List.range 32).map fun i => (i, (i + a.rotate.val) % 32)).filter fun p => a.enable.getLsbD p.2

/-- An access's write performed: source byte i into word byte (i + r) mod 32 wherever that word byte is enabled. -/
def State.performWrite (s : State) (a : HoldAccess) : State :=
  let w := wordOf a.addr.toNat
  let t := (laneList a).foldl (fun t p => t.setHoldByte (w + p.2) (a.data.extractLsb' (8 * p.1) 8)) (s.knowWord w)
  (if a.enable = 0xFFFFFFFF then t.setUncorr w false else t).chaseWrite w fun b => a.enable.getLsbD (b - w)

/-- The 32 result bytes of an access's read: word byte (i + r) mod 32 as result byte i. -/
def State.readResult (s : State) (a : HoldAccess) : List Byte :=
  let w := wordOf a.addr.toNat
  (List.range 32).map fun i => s.holdByte (w + (i + a.rotate.val) % 32)

/-- The cycles a master waited at a bank port (R238). -/
def State.conflict (s : State) (m n : Nat) : State := s.count (F.holdConflictCount m) n

/-- A collision recorded (R237): the pin pulses, the count, the address and both masters, the event, and the later master's
BUSY in its conflict count (R238). -/
def State.noteCollision (s : State) (w earlier later : Nat) : State :=
  let t := ((((s.count F.holdCollisionsCount 1).put F.holdCollAddrAddr (w / 32)).put F.holdCollMastersEarlier
    earlier).put F.holdCollMastersLater later).conflict later 1
  ({ t with hold := { t.hold with busyPin := true } }).raise 194

/-- Whether two accesses of one cycle collide: the same word, different ports, at least one a write (R236). -/
def collides (a b : HoldAccess) : Bool :=
  wordOf a.addr.toNat == wordOf b.addr.toNat && (portA a.master.toNat != portA b.master.toNat) && (a.write || b.write)

/-! Rows and banks that wear (R414). -/

/-- The relief rows of a bank still free: those that a march test found failing are not. -/
def State.rowsFree (s : State) (b : Nat) : Nat :=
  16 - (s.hold.badRows.countP (·.1 == b)) - s.get (F.holdOwnerRowsUsed b)

/-- A repair begun: its unit noted, BUSY shown. -/
def State.beginRepair (s : State) (r : Repair) (cause : Nat) (slot : Option Nat) : State :=
  { (s.put F.holdRepairStatusBusy 1) with
      hold := { s.hold with repair := some r, repairCause := cause, repairSlot := slot } }

/-- The next automatic repair begun when none runs; one whose spare has gone meanwhile raises RELIEF_EXHAUSTED. -/
def State.nextRepair (s : State) : State :=
  if s.hold.repair.isSome then s
  else match s.relief.repairQueue with
    | [] => s
    | (r, cause) :: rest =>
      let t := { s with relief := { s.relief with repairQueue := rest } }
      match r with
      | .row b _ => if s.rowsFree b = 0 then t.raise 728 else t.beginRepair r cause none
      | .bank _ => if s.get F.holdRepairStatusBanksFree = 0 then t.raise 728 else t.beginRepair r cause none

/-- An automatic repair of a WORN row or bank asked for (R414). -/
def State.wantRepair (s : State) (r : Repair) (cause : Nat) : State :=
  if s.sst.relief.testBit 2 && !s.relief.repairQueue.any (·.1 == r) then
    ({ s with relief := { s.relief with repairQueue := s.relief.repairQueue ++ [(r, cause)] } }).nextRepair
  else s

/-- A bank that has more WORN rows than free relief rows is WORN (R414), and says so once. -/
def State.judgeBank (s : State) (b cause : Nat) : State :=
  if s.relief.wornBanks.contains b || decide ((s.relief.wornRows.filter (·.1 == b)).length ≤ s.rowsFree b) then s
  else
    let t := ({ s with relief := { s.relief with wornBanks := s.relief.wornBanks ++ [b] } }).raise 724
    if s.get F.holdRepairStatusBanksFree = 0 then t.raise 728 else t.wantRepair (.bank b) cause

/-- Whether a WORN row is left to the repair of its bank, which is WORN too. -/
def State.bankServes (s : State) (b : Nat) : Bool := s.relief.wornBanks.contains b && s.get F.holdRepairStatusBanksFree != 0

/-- A row that has become WORN (R414), and with it its bank when that has too many of them. -/
def State.rowWorn (s : State) (b r cause : Nat) : State :=
  if s.relief.wornRows.contains (b, r) then s
  else
    let t := (({ s with relief := { s.relief with wornRows := s.relief.wornRows ++ [(b, r)] } }).raise 724).judgeBank b cause
    if t.bankServes b then t else if t.rowsFree b = 0 then t.raise 728 else t.wantRepair (.row b r) cause

/-- The row of its bank that a Hold address lies in (R233). -/
def rowOfAddr (a : Nat) : Nat := a / 0x1000 % 1024

/-- One hour, in the units of time. -/
def hour : Nat := 3600000000000 * 2 ^ 32

/-- A corrected read counted against its row (R234, R414). -/
def State.noteCorrected (s : State) (w : Nat) : State :=
  let row := bankOf w * 1024 + rowOfAddr w
  let kept := s.relief.ecc.filter fun p => decide (s.time.now ≤ p.2 + hour)
  let all := kept ++ [(row, s.time.now)]
  let t := { (s.count F.holdEccCorrCount 1) with relief := { s.relief with ecc := all } }
  if max 1 (s.get F.rlfHoldEccMax) ≤ (all.filter (·.1 == row)).length then t.rowWorn (bankOf w) (rowOfAddr w) 5 else t

/-- The outcome of a read's own ECC check: data of the word, the fault indication, the counts (R234). -/
def State.eccRead (s : State) (a : HoldAccess) (ecc : Nat) : State × Nat :=
  let w := wordOf a.addr.toNat
  let s1 := if ecc = 2 ∧ !s.hold.uncorr.contains w then s.loseWord w else s
  if s1.hold.uncorr.contains w then (s1.noteUncorr w, 0x401)
  else if ecc = 1 then (s1.noteCorrected w, 0) else (s1, 0)

/-- The completions that n bytes from a Hold address take (R352): each ends at a 64-byte boundary or with the bytes, none is longer
than `most`. -/
def completionPieces (most : Nat) : Nat → Nat → Nat → List (Nat × Nat)
  | 0, _, _ => []
  | fuel + 1, a, n =>
    if n = 0 then []
    else
      let k := min n ((a + max 64 most) / 64 * 64 - a)
      (a, k) :: completionPieces most fuel (a + k) (n - k)

/-- The code a word of a read was answered with. -/
def BarRead.code (r : BarRead) (w : Nat) : Nat := ((r.got.find? (·.1 == w)).map (·.2.1)).getD 0

/-- The bytes of a read whose words are all answered. -/
def BarRead.data (r : BarRead) : List Byte :=
  (((wordsTouched r.start r.len).map fun w => (((r.got.find? (·.1 == w)).map (·.2.2)).getD []).take (32 - (r.start - w))).flatten).take r.len

/-- A request of function f ended with Completer Abort: the function logs it, as an advisory error too (R373). -/
def State.completerAbort (s : State) (f : Nat) (c : Bool) : State := if c then s.logAer f 0x2000 0x8000 else s

/-- A BAR2 read ends (R352, R359): its completions, one with an uncorrectable word poisoned; one that meets status 0x404 is Completer
Abort and ends the request. -/
def State.completeRead (s : State) (r : BarRead) : State :=
  let pieces := completionPieces (s.fnCfg r.fn).maxPayload r.len r.start r.len
  let meets := fun (p : Nat × Nat) c => (wordsTouched p.1 p.2).any fun w => r.code w == c
  let good := pieces.takeWhile fun p => !meets p 0x404
  let t := good.foldl (fun t p => t.emit (.bar2 r.fn ((r.data.drop (p.1 - r.start)).take p.2) (meets p 0x401) false)) s
  if good.length < pieces.length then (t.emit (.bar2 r.fn [] false true)).completerAbort r.fn true else t

/-- A word of a host function's read is answered: the first of its reads under way that lacks it takes it. -/
def State.barAnswer (s : State) (f w code : Nat) (data : List Byte) : State :=
  match s.host.reads.find? fun r => r.fn == f && (wordsTouched r.start r.len).contains w && !r.got.any (·.1 == w) with
  | none => (s.emit (.bar2 f data (code == 0x401) (code == 0x404))).completerAbort f (code == 0x404)
  | some r =>
    let q := { r with got := r.got ++ [(w, code, data)] }
    if q.got.length < (wordsTouched r.start r.len).length then { s with host := { s.host with reads := s.host.reads.replace r q } }
    else { s with host := { s.host with reads := s.host.reads.erase r } }.completeRead q

/-- The response to an access (R240, R359): a word of a host function's read goes into its completion, but not while it reads again on
BUSY (R236), and not with the link down; its write is posted. -/
def State.respond (s : State) (a : HoldAccess) (code : Nat) (busy : Bool) (data : List Byte) : State :=
  let m := a.master.toNat
  if 0x40 ≤ m ∧ m < 0x60 then (if a.write || busy || !s.host.linkUp then s else s.barAnswer (m - 0x40) (wordOf a.addr.toNat) code data)
  else s.emit (.holdResponse m code busy data)

/-- An access performed alone: its write, or its read and response. -/
def State.performOne (s : State) (a : HoldAccess) (ecc : Nat) (busy : Bool) : State :=
  if a.write then (s.performWrite a).respond a 0 busy []
  else
    let r := s.eccRead a ecc
    r.1.respond a r.2 busy (r.1.readResult a)

/-- Each byte of a colliding read: the old or the new one, as a free value decides (R236). -/
def mixBytes (n : Nat) : List Byte → List Byte → List Byte
  | o :: os, w :: ws => (if Config.freeValue n % 2 = 0 then o else w) :: mixBytes (n + 1) os ws
  | _, _ => []

/-- Two colliding accesses performed, `e` the earlier and `l` the later (R236): writes in order; a read with a write
returns any mix of old and new bytes, its ECC verdict that of the word as its order finds it; the later response carries BUSY. -/
def State.performPair (s : State) (e l : Peer) : State :=
  let w := wordOf e.acc.addr.toNat
  let s1 :=
    if e.acc.write && l.acc.write then (s.performOne e.acc 0 false).performOne l.acc 0 true
    else if e.acc.write then
      let t := s.performWrite e.acc
      let r := t.eccRead l.acc l.ecc.val
      let u := { r.1 with freeCount := r.1.freeCount + 32 }
      (u.respond e.acc 0 false []).respond l.acc r.2 true (mixBytes r.1.freeCount (s.readResult l.acc) (r.1.readResult l.acc))
    else
      let r := s.eccRead e.acc e.ecc.val
      let t := r.1.performWrite l.acc
      let u := { t with freeCount := t.freeCount + 32 }
      (u.respond e.acc r.2 false (mixBytes t.freeCount (r.1.readResult e.acc) (t.readResult e.acc))).respond l.acc 0 true []
  s1.noteCollision w e.acc.master.toNat l.acc.master.toNat

/-! Arbitration (R235). -/

/-- The class of a master at its port, the highest priority first: on port A scan-out engines 0 and reaches 1, on port B the Purser
0, the march engine 1 and every other master 2. -/
def portClass (m : Nat) : Nat :=
  if 0xC0 ≤ m ∧ m < 0xC4 then 0 else if 0x60 ≤ m ∧ m < 0xA4 then 1 else if m = 1 then 0 else if m = 2 then 1 else 2

/-- The round robin a master takes part in at a bank: by bank, port and class. -/
def servedKey (bank m : Nat) : Nat := 6 * bank + 3 * (portA m).toNat + portClass m

/-- A master's place in the order of its port: by class, then in the round robin after the master served last (DESIGN CHOICE, log
97: the scan-out engines take turns as well). -/
def State.portTurn (s : State) (p : Peer) : Nat :=
  let m := p.acc.master.toNat
  let last := ((s.hold.served.find? (·.1 == servedKey (bankOf p.acc.addr.toNat) m)).map (·.2)).getD 255
  256 * portClass m + (m + 255 - last) % 256

/-- The access that a port takes of those presented. -/
def State.portWinner (s : State) (a : Bool) (l : List Peer) : Option Peer :=
  (l.filter fun p => portA p.acc.master.toNat == a).foldl (fun best p => match best with
    | none => some p
    | some q => if s.portTurn p < s.portTurn q then some p else some q) none

/-- The round robin moved on to the master of an access taken. -/
def State.servedNow (s : State) (p : Peer) : State :=
  let m := p.acc.master.toNat
  let k := servedKey (bankOf p.acc.addr.toNat) m
  { s with hold := { s.hold with served := (k, m) :: s.hold.served.filter (·.1 != k) } }

/-- An access that the bank has accepted: performed, or outstanding. -/
def State.servePeer (s : State) (p : Peer) : State :=
  let t := s.servedNow p
  if p.stalled then { t with hold := { t.hold with outstanding := t.hold.outstanding ++ [p] } }
  else t.performOne p.acc p.ecc.val false

/-- Whether the port A access of two that collide is the earlier: by the issue cycles, on equal ones it is (R236). -/
def earlierA (a b : Peer) : Bool := decide (a.issued ≤ b.issued)

/-- The accesses presented at one bank, cycle by cycle over at most so many: each port takes one, the others wait a cycle (R238); a
read that has had BUSY is presented again (R236). -/
def State.contend : Nat → List Peer → State → State
  | 0, _, s => s
  | n + 1, l, s =>
    match s.portWinner true l, s.portWinner false l with
    | some x, some y =>
      let rest := (l.erase x).erase y
      let t := rest.foldl (fun t p => t.conflict p.acc.master.toNat 1) s
      if collides x.acc y.acc && !x.stalled && !y.stalled then
        let e := if earlierA x y then x else y
        let f := if earlierA x y then y else x
        State.contend n (if f.acc.write then rest else rest ++ [{ f with ecc := 0 }]) (((t.servedNow x).servedNow y).performPair e f)
      else State.contend n rest ((t.servePeer x).servePeer y)
    | some x, none | none, some x =>
      let rest := l.erase x
      State.contend n rest ((rest.foldl (fun t p => t.conflict p.acc.master.toNat 1) s).servePeer x)
    | none, none => s

/-- The march window a word lies in: bank * 2048 + window of 64 words (R248). -/
def marchWindowOf (a : Nat) : Nat := a / 2048

/-- Whether a ferry of the bank holds a master's new accesses: the old owner's and the new owner's (R242). -/
def State.ferryHolds (s : State) (m bank : Nat) : Bool :=
  s.hold.ferries.any fun f => f.bank == bank && (f.oldOwner == m || f.target == m)

/-- Whether a march window under test holds a run of a master's (R248): on either port when it meets the window's words, and on
port B, which serves only the engine and the Purser, in all of the window's bank. -/
def State.windowHolds (s : State) (m a n : Nat) : Bool :=
  match s.hold.window with
  | none => false
  | some w => m != 2 && ((decide (2048 * w < a + n) && decide (a < 2048 * (w + 1))) ||
      (!portA m && m != 1 && decide (0x400000 * (w / 2048) < a + n) && decide (a < 0x400000 * (w / 2048 + 1))))

/-- Whether a row copy holds a run: it meets the row that is copied (R253). -/
def State.rowCopyHolds (s : State) (a n : Nat) : Bool :=
  match s.hold.repair with
  | some (.row b r) => decide (0x400000 * b + 0x1000 * r < a + n) && decide (a < 0x400000 * b + 0x1000 * (r + 1))
  | _ => false

/-- Whether the gate holds a run of n bytes of a master's: a group of it is not ready (R244), a ferry of a bank concerns the master
(R242), a march window under test holds it (R248), or a row copy does (R253). -/
def State.runHeld (s : State) (m a n : Nat) : Bool :=
  (banksTouched a n).any (fun b => s.hold.unready.contains (b / 16) || s.ferryHolds m b) || s.windowHolds m a n ||
    s.rowCopyHolds a n

/-- Whether the gate holds one of several runs of a master's. -/
def State.runsHeld (s : State) (m : Nat) (l : List (Nat × Nat)) : Bool := l.any fun r => s.runHeld m r.1 r.2

/-- Whether the gate holds an access. -/
def State.gateHolds (s : State) (a : HoldAccess) : Bool := s.runHeld a.master.toNat a.addr.toNat 32

/-- An access judged at the gate in the cycle in which it is presented (R240, R244, R365): held, discarded and a violation when the
master has no right, else it goes on to its port. -/
def State.passGate (s : State) (p : Peer) : State × List Peer :=
  let m := p.acc.master.toNat
  let ad := p.acc.addr.toNat
  let host := decide (0x40 ≤ m) && decide (m < 0x60)
  if s.gateHolds p.acc then ({ s with hold := { s.hold with held := s.hold.held ++ [⟨p, s.cycleNow⟩] } }, [])
  else if !s.mayHold m (bankOf ad) p.acc.write then
    let t := s.violate m (s.barCode m ad p.acc.write) ad p.acc.write
    (if host then t.respond p.acc 0 false (List.replicate 32 0xFF) else t, [])
  else if s.frozen m then (if host then s.respond p.acc 0 false (List.replicate 32 0xFF) else s, [])
  else (s, [p])

/-- A march window given up so that an access may pass: the window restored, the yield counted (R248, R249); only those of background windows lead to
a skip (R250). -/
def State.yieldWindow (s : State) : State :=
  let t := s.count F.holdMarchYieldsCount 1
  { t with hold := { t.hold with window := none, yieldsInRow := t.hold.yieldsInRow + if t.hold.test.isNone then 1 else 0 } }

/-- A Purser access that comes to the bank of a window under test (R249): one to the window makes the engine yield, one to another
word takes a cycle of port B from a requested test's window. -/
def State.purserMeets (s : State) (p : Peer) : State :=
  if p.acc.master.toNat ≠ 1 then s
  else match s.hold.window with
    | none => s
    | some w =>
      if w = marchWindowOf p.acc.addr.toNat then s.yieldWindow
      else if w / 2048 = bankOf p.acc.addr.toNat then
        { s with hold := { s.hold with test := s.hold.test.map fun t => { t with since := t.since + 1 } } }
      else s

/-- Accesses presented at one bank gate in one cycle: each judged, those that pass arbitrated and performed. -/
def State.presentAll (s : State) (l : List Peer) : State :=
  let r := l.foldl (fun (q : State × List Peer) p => let t := q.1.passGate p; (t.1, q.2 ++ t.2)) (l.foldl State.purserMeets s, [])
  State.contend r.2.length r.2 r.1

/-! Runs of several words: what they meet at the ports (R234 to R238). -/

/-- Whether a word is one of a run's. -/
def runMeets (a n w : Nat) : Bool := decide (n ≠ 0) && decide (wordOf a ≤ w) && decide (w < a + n)

/-- The accesses of other masters that collide with a run of m's (R236), taken from those of the cycle and judged at their gate. -/
def State.takePeers (s : State) (m a n : Nat) (write : Bool) : State × List Peer :=
  let hits := fun (p : Peer) => portA p.acc.master.toNat != portA m && (write || p.acc.write) && runMeets a n (wordOf p.acc.addr.toNat)
  let l := s.hold.port.others.filter hits
  let s1 := { s with hold := { s.hold with port := { s.hold.port with others := s.hold.port.others.filter fun p => !hits p } } }
  l.foldl (fun (r : State × List Peer) p => let g := r.1.passGate p; (g.1, r.2 ++ g.2)) (s1, [])

/-- Whether a peer is the earlier of the two against a run of m's (R236). -/
def State.peerFirst (s : State) (m : Nat) (p : Peer) : Bool :=
  decide (p.issued < s.hold.port.issued) || (p.issued == s.hold.port.issued && portA p.acc.master.toNat && !portA m)

/-- The memory's own verdicts on the reads of a run (R234): words found uncorrectable, words corrected; each counts once in a command. -/
def State.eccRun (s : State) (a n : Nat) : State :=
  let mine := fun (x : BitVec 30) => runMeets a n (wordOf x.toNat)
  let q := s.hold.port
  let s1 := { s with hold := { s.hold with port := { q with corrected := q.corrected.filter fun x => !mine x, lost := q.lost.filter fun x => !mine x } } }
  let s2 := (q.lost.filter mine).foldl (fun t x => if t.hold.uncorr.contains (wordOf x.toNat) then t else t.loseWord (wordOf x.toNat)) s1
  (q.corrected.filter mine).foldl (fun t x => if t.hold.uncorr.contains (wordOf x.toNat) then t else t.noteCorrected (wordOf x.toNat)) s2

/-- A write that collides with a read of m's that is the earlier (R236): the word that the read returns as any mix of old and new bytes. -/
def State.mixedRead (r : State × List (Nat × List Byte)) (m : Nat) (p : Peer) : State × List (Nat × List Byte) :=
  let w := wordOf p.acc.addr.toNat
  let t := r.1.performWrite p.acc
  let mix := mixBytes t.freeCount (r.1.holdBytes w 32) (t.holdBytes w 32)
  ((({ t with freeCount := t.freeCount + 32 }).respond p.acc 0 true []).noteCollision w m p.acc.master.toNat, r.2 ++ [(w, mix)])

/-- A run of n bytes read by a master that has passed the gate: the state after it, and the words that it returns otherwise than that state holds them.
Where it is the later of two it has had BUSY and reads again (R236). -/
def State.readRun (s : State) (m a n : Nat) : State × List (Nat × List Byte) :=
  let r := s.takePeers m a n false
  let first := r.2.filter (s.peerFirst m)
  let s1 := first.foldl (fun t p => (t.performOne p.acc 0 false).noteCollision (wordOf p.acc.addr.toNat) p.acc.master.toNat m) (r.1.eccRun a n)
  (r.2.filter fun p => !s.peerFirst m p).foldl (fun q p => State.mixedRead q m p) (s1, [])

/-- Several runs read: the state after them, and the words that they return otherwise than it holds them. -/
def State.readRuns (s : State) (m : Nat) (l : List (Nat × Nat)) : State × List (Nat × List Byte) :=
  l.foldl (fun q r => let t := q.1.readRun m r.1 r.2; (t.1, q.2 ++ t.2)) (s, [])

/-- The state whose bytes a read returns: the one after it, with the words that it returns otherwise. -/
def readView (r : State × List (Nat × List Byte)) : State := r.2.foldl (fun t e => t.setHoldBytes e.1 e.2) r.1

/-- A run of bytes that a master reads under its own rights (R58, R240): nothing when it is frozen or has no right, which is a violation; the data of an
uncorrectable word with its fault indication (R234). -/
def State.readAs (s : State) (m a n : Nat) : Option (List Byte) × State :=
  if s.frozen m then (none, s)
  else match s.firstBarred m a n false with
    | some x => (none, s.violate m (s.barCode m x false) x false)
    | none =>
      let r := s.readRun m a n
      (some ((readView r).holdBytes a n), r.1.noteRun a n)

/-- A run of bytes read by a master that has passed the gate: its bytes, or the first word that is uncorrectable, with the fault indications (R234). -/
def State.readWhole (s : State) (m a n : Nat) : Except Nat (List Byte) × State :=
  let r := s.readRun m a n
  match r.1.runFault a n with
  | some w => (.error w, r.1.noteRun a n)
  | none => (.ok ((readView r).holdBytes a n), r.1)

/-- A read of another master that collides with a write (R236): answered with any mix of the bytes before and after it; the later one, which has BUSY,
reads again. -/
def State.peerRead (s before : State) (p : Peer) (first : Bool) : State :=
  let r := s.eccRead p.acc p.ecc.val
  let t := { r.1 with freeCount := r.1.freeCount + 32 }
  let u := t.respond p.acc r.2 (!first) (mixBytes r.1.freeCount (before.readResult p.acc) (r.1.readResult p.acc))
  if first then u else u.performOne p.acc 0 false

/-- A run of bytes written by a master that has passed the gate, in order with the accesses it collides with (R236). -/
def State.writeRun (s : State) (m a : Nat) (l : List Byte) : State :=
  let r := s.takePeers m a l.length true
  let first := r.2.filter (s.peerFirst m)
  let note := fun (t : State) (p : Peer) (e : Bool) =>
    if e then t.noteCollision (wordOf p.acc.addr.toNat) p.acc.master.toNat m else t.noteCollision (wordOf p.acc.addr.toNat) m p.acc.master.toNat
  let s1 := (first.filter (·.acc.write)).foldl (fun t p => note (t.performOne p.acc 0 false) p true) r.1
  let s2 := s1.storeRun a l
  let s3 := (first.filter (!·.acc.write)).foldl (fun t p => note (t.peerRead s1 p true) p true) s2
  (r.2.filter fun p => !s.peerFirst m p).foldl (fun t p =>
    note (if p.acc.write then t.performOne p.acc 0 true else t.peerRead s1 p false) p false) s3

/-- A run of bytes written to the Hold by a master under its own rights: the bytes below the first barred address are
written, which is a violation (R58, R240); a frozen master writes nothing. -/
def State.storeNow (s : State) (m a : Nat) (l : List Byte) : State :=
  if s.frozen m then s
  else match s.firstBarred m a l.length true with
    | some x => (s.writeRun m a (l.take (x - a))).violate m (s.barCode m x true) x true
    | none => s.writeRun m a l

/-- A run of bytes that a master writes: at once, or once the gate lets it pass (R242, R244, R248, R253). -/
def State.storeAs (s : State) (m a : Nat) (l : List Byte) : State :=
  if !s.frozen m && s.runHeld m a l.length then { s with hold := { s.hold with heldRuns := s.hold.heldRuns ++ [⟨m, a, l, s.cycleNow⟩] } }
  else s.storeNow m a l

/-- The writes of several words that the gate no longer holds presented, in arrival order: their masters have waited since they came (R238). -/
def State.releaseRuns (s : State) : State :=
  let free := fun (h : HeldRun) => !s.runHeld h.master h.addr h.data.length
  (s.hold.heldRuns.filter free).foldl (fun t h => (t.conflict h.master (s.cycleNow - h.since).toNat).storeNow h.master h.addr h.data)
    { s with hold := { s.hold with heldRuns := s.hold.heldRuns.filter fun h => !free h } }

/-- The accesses of a list that come k-th in their queue: of their bank and port. -/
def queuedAt (go : List HeldAccess) (bank k : Nat) : List HeldAccess :=
  let mine := go.filter fun h => bankOf h.peer.acc.addr.toNat == bank
  ((mine.filter fun h => portA h.peer.acc.master.toNat)[k]?).toList ++ ((mine.filter fun h => !portA h.peer.acc.master.toNat)[k]?).toList

/-- The held accesses that a condition selects presented again, in arrival order, one a cycle on each port of a bank: their masters have waited since
they came (R238). Held writes of several words follow. -/
def State.releaseHeld (s : State) (sel : HoldAccess → Bool) : State :=
  let go := s.hold.held.filter fun h => sel h.peer.acc
  let s1 := { s with hold := { s.hold with held := s.hold.held.filter fun h => !sel h.peer.acc } }
  let banks := (go.map fun h => bankOf h.peer.acc.addr.toNat).foldl keyInsert []
  (banks.foldl (fun t b => (List.range go.length).foldl (fun u k =>
    let now := queuedAt go b k
    (now.foldl (fun u h => u.conflict h.peer.acc.master.toNat ((s.cycleNow - h.since).toNat + k)) u).presentAll (now.map (·.peer))) t) s1).releaseRuns

/-- The accesses of a command come to the ports of the Hold: the waits of the masters that act in it are counted (R238). -/
def State.openPort (s : State) (acts : Nat → Bool) (port : HoldPort) : State :=
  let t := (port.waits.filter fun p => acts p.1.toNat).foldl (fun t p => t.conflict p.1.toNat p.2) s
  { t with hold := { t.hold with port := port } }

/-- The accesses of a command are made: those of other masters that met none of them are presented. -/
def State.closePort (s : State) : State :=
  s.hold.port.others.foldl (fun t p => t.presentAll [p]) { s with hold := { s.hold with port := ⟨[], 0, [], [], []⟩ } }

/-- A command whose accesses meet what `port` says. -/
def State.throughPort (s : State) (acts : Nat → Bool) (port : HoldPort) (k : State → State) : State := (k (s.openPort acts port)).closePort

/-- An access presented at a bank gate, with the others of its cycle. -/
def State.presentAccess (s : State) (a : HoldAccess) (arb : Arbitration) : State :=
  let t := s.presentAll (⟨a, arb.issued, arb.ecc, arb.stalled⟩ :: arb.others)
  if s.hold.window.isSome && t.hold.window.isNone
    then t.releaseHeld (fun h => some (marchWindowOf h.addr.toNat) == s.hold.window || some (bankOf h.addr.toNat) == s.hold.window.map (· / 2048)) else t

/-! Ferries (R241, R242, R46). -/

/-- Whether a ferry of a bank is in flight. -/
def State.ferryOn (s : State) (bank : Nat) : Bool := s.hold.ferries.any (·.bank == bank)

/-- A ferry started: PENDING set, the old and the new owner noted. -/
def State.beginFerry (s : State) (bank target : Nat) : State :=
  let t := s.put (F.holdFerryPending bank) 1
  { t with hold := { t.hold with ferries := t.hold.ferries ++ [⟨bank, s.owner bank, target⟩] } }

/-- A ferry that completes at once: the target owns the bank already. -/
def State.ferryAtOnce (s : State) (bank : Nat) : State := (s.put (F.holdFerryLastCode bank) 0).raise 192

/-- A structure's ferry of a bank (R46): it waits for a ferry in flight and then starts. -/
def State.structFerry (s : State) (bank target : Nat) : State :=
  if s.ferryOn bank then
    { s with hold := { s.hold with structFerries := s.hold.structFerries ++ [(bank, target)] } }
  else if s.owner bank = target then s.ferryAtOnce bank
  else s.beginFerry bank target

/-- A ferry completed: the owner changes, PENDING clears, the code and the event, the accesses held for it, then the structure's
waiting ferry of the bank. -/
def State.endFerry (s : State) (f : Ferry) (code : Nat) : State :=
  let s1 := (((s.put (F.holdOwnerOwner f.bank) f.target).put (F.holdFerryPending f.bank) 0).put
    (F.holdFerryLastCode f.bank) code).raise 192
  let s2 := { s1 with hold := { s1.hold with ferries := s1.hold.ferries.filter (· != f) } }
  match s2.hold.structFerries.find? (·.1 == f.bank) with
  | some q =>
    let s3 := ({ s2 with hold := { s2.hold with structFerries := s2.hold.structFerries.erase q } }).releaseHeld fun a =>
      bankOf a.addr.toNat == f.bank
    if s3.owner f.bank = q.2 then s3.ferryAtOnce f.bank else s3.beginFerry f.bank q.2
  | none => s2.releaseHeld fun a => bankOf a.addr.toNat == f.bank

/-- The outstanding accesses of a bank answered in order. -/
def State.drainBank (s : State) (bank : Nat) : State :=
  let mine := s.hold.outstanding.filter fun p => bankOf p.acc.addr.toNat == bank
  let s1 := { s with hold := { s.hold with
    outstanding := s.hold.outstanding.filter fun p => bankOf p.acc.addr.toNat != bank } }
  mine.foldl (fun t p => t.performOne p.acc p.ecc.val false) s1

/-- The outstanding accesses of a bank cut off at the drain limit (R242): writes of the old owner not performed, reads
completed with 0x404. -/
def State.cutBank (s : State) (bank oldOwner : Nat) : State :=
  let mine := s.hold.outstanding.filter fun p => bankOf p.acc.addr.toNat == bank
  let s1 := { s with hold := { s.hold with
    outstanding := s.hold.outstanding.filter fun p => bankOf p.acc.addr.toNat != bank } }
  mine.foldl (fun t p =>
    if p.acc.write then (if p.acc.master.toNat = oldOwner then t else t.performOne p.acc 0 false)
    else t.respond p.acc 0x404 false []) s1

/-! Whole banks. -/

/-- Every byte of a range of addresses cleared to zero with valid check bits. -/
def State.clearRange (s : State) (lo hi : Nat) : State :=
  { s with hold := { s.hold with
      bytes := s.hold.bytes.filter (fun c => decide (c.1 < lo) || decide (hi ≤ c.1))
      uncorr := s.hold.uncorr.filter (fun w => decide (w < lo) || decide (hi ≤ w))
      unknownBanks := s.hold.unknownBanks.filter (fun b => decide (b.1 * 0x400000 < lo) || decide (hi ≤ b.1 * 0x400000))
      knownWords := s.hold.knownWords.filter (fun w => decide (w < lo) || decide (hi ≤ w)) } }

/-- A bank's contents made unknown. -/
def State.losebank (s : State) (b : Nat) : State :=
  let t := s.clearRange (b * 0x400000) ((b + 1) * 0x400000)
  { t with freeCount := t.freeCount + 1
           hold := { t.hold with unknownBanks := (b, t.freeCount) :: t.hold.unknownBanks } }

end Sys2Proof.Machine
end

