-- ==== Sys2Proof/Machine/Channel.lean ====
section
/-!
DEFINITION. What every transfer of a DMA channel goes through, its own and a stage's (R261, R265, R274, R277, R361, R362): the
host window, the function's enables, the halt on a bus error.
-/

namespace Sys2Proof.Machine

/-- Channel ch beside its registers. -/
def State.chan (s : State) (ch : Nat) : DmaState := s.dma.getD ch DmaState.reset

/-- Channel ch changed. -/
def State.setChan (s : State) (ch : Nat) (f : DmaState → DmaState) : State := { s with dma := updAt s.dma ch f }

/-- The function a channel's host requests carry. -/
def State.chanFn (s : State) (ch : Nat) : Nat := s.get (F.dmaFuncFunc ch)

/-- The first byte of the host window. -/
def State.winBase (s : State) (ch : Nat) : Nat := 32 * s.get (F.dmaWinBaseLoAddr ch) + 2 ^ 32 * s.get (F.dmaWinBaseHiAddr ch)

/-- The last byte of the host window. -/
def State.winLimit (s : State) (ch : Nat) : Nat :=
  32 * s.get (F.dmaWinLimitLoAddr ch) + 31 + 2 ^ 32 * s.get (F.dmaWinLimitHiAddr ch)

/-- The first byte of a host extent that lies outside the channel's window. -/
def State.outsideWindow (s : State) (ch a n : Nat) : Option Nat :=
  if a < s.winBase ch then some a
  else if s.winLimit ch < a + n - 1 then some (max a (s.winLimit ch + 1)) else none

/-- Whether a channel may issue host requests: its function exists and has Bus Master Enable set (R361). -/
def State.chanMay (s : State) (ch : Nat) : Bool := s.fnExists (s.chanFn ch) && (s.fnCfg (s.chanFn ch)).busMaster

/-- The code of a reply (R274), 0 for a good one. -/
def replyCode (hold : Bool) : BusReply → Nat
  | .ok => 0
  | .completer => if hold then 0x314 else 0x310
  | .unsupported => if hold then 0x314 else 0x311
  | .poisoned => if hold then 0x314 else 0x313

/-- A channel halted on a bus error (R274): only the first error is latched. -/
def State.chanHalt (s : State) (ch code addr : Nat) (write hold desc : Bool) : State :=
  if s.get (F.dmaStatusState ch) = 3 then s
  else
    let t := s.puts [(F.dmaFaultAddrLoAddr ch, addr), (F.dmaFaultAddrHiAddr ch, addr / 2 ^ 32), (F.dmaFaultDirDesc ch, desc.toNat),
      (F.dmaFaultDirSpace ch, hold.toNat), (F.dmaFaultDirDir ch, write.toNat), (F.dmaStatusLastCode ch, code),
      (F.dmaStatusState ch, 3)]
    (t.setChan ch fun c => { c with halt := code }).raise (160 + ch)

/-- An LTR message of so many ns when the mechanism is enabled (R362). -/
def State.sendLtr (s : State) (ns : Nat) : State := if (s.fnCfg 0).ltrEnable then s.emit (.ltr ns) else s

/-- A host request put out: it brings the link out of L1. -/
def State.toHost (s : State) (m : Out) : State := ({ s with host := { s.host with inL1 := false } }).emit m

/-- A host request of a channel judged (R261, R361): `k` is its issue when it may go out; outside the window it freezes the
channel with 0x204, without its function's enables the channel halts with 0x311. -/
def State.chanRequest (s : State) (ch a n : Nat) (write desc : Bool) (k : State → State) : State :=
  match s.outsideWindow ch a n with
  | some b => s.violate (0x10 + ch) 0x204 b write
  | none => if s.chanMay ch then k s else s.chanHalt ch 0x311 a write false desc

/-! Requests on the link (R265, R266, R352, R353). -/

/-- The requests that n bytes from a host address take: none longer than `most`, none across a 4 KiB boundary. -/
def linkPieces (most : Nat) : Nat → Nat → Nat → List (Nat × Nat)
  | 0, _, _ => []
  | fuel + 1, a, n =>
    if n = 0 then []
    else
      let k := min (min n (max 1 most)) (4096 - a % 4096)
      (a, k) :: linkPieces most fuel (a + k) (n - k)

/-- The most bytes of a read request of function f. -/
def State.readMost (s : State) (f : Nat) : Nat := min 4096 (max 1 (s.fnCfg f).maxReadReq)

/-- The most bytes of a write of function f. -/
def State.writeMost (s : State) (f : Nat) : Nat := min 512 (max 1 (s.fnCfg f).maxPayload)

/-- Bytes written to the host under function f's requester ID. -/
def State.hostWrites (s : State) (f a : Nat) (l : List Byte) : State :=
  (linkPieces (s.writeMost f) l.length a l.length).foldl (fun t p =>
    t.toHost (.hostWrite f p.1 ((l.drop (p.1 - a)).take p.2))) s

/-- Bytes read from the host under function f's requester ID. -/
def State.hostReads (s : State) (f a n : Nat) : State :=
  (linkPieces (s.readMost f) n a n).foldl (fun t p => t.toHost (.hostRead f p.1 p.2)) s

/-- The tags that the channels of a function may use (R353): PF0 holds 16 back. -/
def State.tagSpace (s : State) (f : Nat) : Nat :=
  let m := (s.fnCfg f).tagMode
  let n := if m = 3 ∧ s.host.flitMode then 16384 else if 2 ≤ m then 768 else if m = 1 then 256 else 32
  min 3072 (if f = 0 then n - 16 else n)

/-- NP_CAP as it acts. -/
def State.npCap (s : State) (ch : Nat) : Nat := min 3072 (max 1 (s.get (F.dmaNpCapCap ch)))

/-- Whether a channel may issue a non-posted request now. -/
def State.npFree (s : State) (ch : Nat) : Bool :=
  let f := s.chanFn ch
  let used := ((List.range 32).map fun i => if s.chanFn i = f then s.get (F.dmaNpInflightCount i) else 0).sum
  decide (s.get (F.dmaNpInflightCount ch) < s.npCap ch) && decide (s.get F.dmaNpTotalCount < 3072) &&
    decide (used < s.tagSpace f)

/-- A non-posted request issued. -/
def State.npIssue (s : State) (ch addr n : Nat) : State :=
  (s.puts [(F.dmaNpInflightCount ch, s.get (F.dmaNpInflightCount ch) + 1),
    (F.dmaNpTotalCount, s.get F.dmaNpTotalCount + 1)]).toHost (.hostRead (s.chanFn ch) addr n)

/-- A non-posted request answered. -/
def State.npEnd (s : State) (ch : Nat) : State :=
  s.puts [(F.dmaNpInflightCount ch, s.get (F.dmaNpInflightCount ch) - 1),
    (F.dmaNpTotalCount, s.get F.dmaNpTotalCount - 1)]

/-- A non-posted request of a channel that timed out: Completion Timeout is logged (R373). -/
def State.timedOut (s : State) (ch : Nat) : State := s.logAer (s.chanFn ch) 0 0x4000

/-- Whether the bucket of a channel covers so many bytes (R267). -/
def State.hasTokens (s : State) (ch n : Nat) : Bool := !s.on (F.dmaRateEn ch) || decide (2048 * n ≤ (s.chan ch).tokens)

/-- So many bytes charged to a channel's bucket. -/
def State.charge (s : State) (ch n : Nat) : State :=
  if s.on (F.dmaRateEn ch) then s.setChan ch fun c => { c with tokens := c.tokens - 2048 * n } else s

/-- Whether a channel has a transfer in progress: its own, or a stage's ledger rows. -/
def State.chanBusy (s : State) (ch : Nat) : Bool :=
  s.get (F.dmaStatusState ch) == 1 || s.get (F.dmaStatusState ch) == 2 ||
    (List.range 4).any fun n =>
      let w := (s.outs.getD n OutState.reset).wear
      (!w.reading.isEmpty || !w.writing.isEmpty) && s.act (F.wearCtrlDmaCh n) == ch

/-- Whether any channel has a transfer in progress. -/
def State.anyChanBusy (s : State) : Bool := (List.range 32).any s.chanBusy

/-- The LTR message sent when the last transfer in progress has ended (R362). -/
def State.idleLtr (s : State) (before : Bool) : State := if before && !s.anyChanBusy then s.sendLtr 1000000 else s

end Sys2Proof.Machine
end

