-- ==== Sys2Proof/Machine/Slots.lean ====
section
/-!
DEFINITION. Frame slots, the source group and UNPK (03_ingest_and_frame_slots.md).
-/

namespace Sys2Proof.Machine

/-! The source group (R73, R74). -/

/-- The keys of the source group of output n: its UNPK and SCAL shadows, its slot descriptors, its SLOT_CFG. -/
def inSourceGroup (n a : Nat) : Bool :=
  (decide (0x4000100 + 0x10000 * n ≤ a) && decide (a < 0x4000300 + 0x10000 * n)) ||
    a == R.scnSlotCfg n ||
    (decide (0x140200 + 0x10000 * n ≤ a) && decide (a < 0x140300 + 0x10000 * n))

/-- Whether every judged field of a slot and the source size has been written (R12). -/
def State.sourceWritten (s : State) (n : Nat) (slots : List Nat) (planes : Nat) : Bool :=
  s.isWritten (R.unpkSrcSize n) && slots.all fun k =>
    s.isWritten (R.scnSlotBase0 n k) && s.isWritten (R.scnSlotBase1 n k) && s.isWritten (R.scnSlotStride0 n k) &&
      s.isWritten (R.scnSlotStride12 n k) && (planes < 3 || s.isWritten (R.scnSlotBase2 n k))

/-- The ratio check (R74) of a source size against an active size, on the route the output has. -/
def ratioOk (c : OutConfig) (f : SrcFormat) (hActive vActive : Nat) : Bool :=
  match c.stage 1, c.stage 2 with
  | some u, some sc => decide (f.width * f.height * 16 ≤ min u.ratio sc.ratio * hActive * vActive)
  | some _, none => f.width == hActive && f.height == vActive
  | none, _ => false

/-- The cause the source group fails with at a Landing, 0 when it lands (R73): shadows judged, for the slots given, on the
route and the active size that land with them. -/
def State.sourceCause (s : State) (n : Nat) (slots : List Nat) (c : OutConfig) (hActive vActive : Nat) : Nat :=
  let g := s.get
  let f := srcFormat g n
  let count := g (F.scnSlotCfgSlotCount n)
  let planes := List.range f.planes
  if !s.sourceWritten n slots f.planes then 0x9
  else if f.layout = 3 ∨ 6 ≤ f.container ∨ f.site = 3 ∨ f.sampling = 3 ∨ (f.layout = 2 ∧ f.sampling ≠ 0) ∨
      ((f.container = 3 ∨ f.container = 4) ∧ f.depth = 3) ∨ (f.container = 5 ∧ (f.layout ≠ 2 ∨ f.sampling ≠ 0)) then 0x1
  else if f.width % 2 = 1 ∨ f.width < 64 ∨ 15360 < f.width ∨ f.height < 16 ∨ 8640 < f.height then 0x2
  else if planes.any (fun p => f.samples p * f.bitsPer % 8 != 0) then 0x3
  else if slots.any (fun k => planes.any fun p => decide (slotStride g n k p < f.lineBytes p)) then 0x4
  else if slots.any (fun k => planes.any fun p =>
      decide (0x3FFFFFFF < slotBase g n k p + slotStride g n k p * (f.rows p - 1) + f.lineBytes p - 1)) then 0x5
  else if count < 1 ∨ 4 < count ∨ (g (F.scnSlotCfgChaseEn n) = 1 ∧ count ≠ 1) then 0x6
  else if !ratioOk c f hActive vActive then 0x7
  else if slots.any (fun k => decide (5 ≤ g (F.scnSlotTagColourimetry n k))) then 0x8
  else 0

/-! Moving between slots (R60 to R63, R72). -/

/-- The next slot in ring order after the current one. -/
def nextSlot (cur count : Nat) : Nat := if count ≤ cur then 0 else (cur + 1) % count

/-- Whether a slot's READY bit is set. -/
def State.slotReady (s : State) (n k : Nat) : Bool := s.on (F.scnSlotCtrlReady n k)

/-- Slot k made current: CUR_SLOT, the CURRENT bits, its READY cleared; its tag compared with UNPK_EXPECT (R72). -/
def State.makeCurrent (s : State) (n k : Nat) : State :=
  let old := s.curSlot n
  let s1 := (((s.put (F.scnSlotCtrlCurrent n old) 0).put (F.scnSlotCtrlCurrent n k) 1).put (F.scnSlotCtrlReady n k) 0).put
    (F.scnSrcStatusCurSlot n) k
  let differs := s1.act (F.unpkExpectAny n) == 0 &&
    (s1.act (F.scnSlotTagColourimetry n k) != s1.act (F.unpkExpectColourimetry n) ||
      s1.act (F.scnSlotTagRange n k) != s1.act (F.unpkExpectRange n))
  (if differs then s1.count (F.unpkTagMismatchesCount n) 1 else s1).raiseIf differs (evOut n 18)

/-- The driver's write of READY and WITHDRAW to slot k (R61, R63, R180): READY wins over WITHDRAW, a READY of the current slot
is ignored, and both have no effect while SLOT_COUNT is 1 (in chase mode too: DESIGN CHOICE, log 88) or the region engine owns the ring. From reset CUR_SLOT names slot 0 and no
CURRENT bit is set, while one slot is always current: slot 0 is the current one until a Landing moves the ring (DESIGN CHOICE, log 88). -/
def State.slotWrite (s : State) (n k : Nat) (ready withdraw : Bool) : State :=
  if s.get (F.scnRgnStatusDepth n) ≠ 0 ∨ s.act (F.scnSlotCfgSlotCount n) = 1 then s
  else if ready then (if s.curSlot n = k then s else s.put (F.scnSlotCtrlReady n k) 1)
  else if withdraw then s.put (F.scnSlotCtrlReady n k) 0 else s

/-! UNPK: from codes to u2.18 (R68 to R71). -/

/-- The u2.18 value of an integer sample of depth N (R68). -/
def unpkInt (depth v : Nat) : Nat := (rheDiv (v * 2 ^ 18 : Nat) (2 ^ depth - 1)).toNat

/-- The u2.18 value of a half-float sample (R69). -/
def unpkHalf (h : Nat) : Nat :=
  let e := bits h 14 10
  let m := bits h 9 0
  if bit h 15 then 0
  else if e = 31 then (if m = 0 then 0xFFFFF else 0)
  else if e = 0 then 0
  else
    -- (1024 + m) * 2^(e - 25), times 2^18
    let v : Int := if 7 ≤ e then ((1024 + m) * 2 ^ (e - 7) : Nat) else rhe (7 - e) ((1024 + m : Nat) : Int)
    min 0xFFFFF v.toNat

/-- One stored sample as u2.18. -/
def SrcFormat.toU218 (f : SrcFormat) (stored : Nat) : Nat :=
  if f.container = 5 then unpkHalf stored
  else
    let n := f.depthBits
    unpkInt n (if f.container = 4 then stored / 2 ^ (16 - n) % 2 ^ n else stored % 2 ^ n)

/-- The samples of a plane line, as u2.18: consecutive fields of one little-endian bit string (R55). -/
def SrcFormat.decodeLine (f : SrcFormat) (count : Nat) (l : List Byte) : List Nat :=
  let v := ofLe l
  (List.range count).map fun i => f.toU218 (v >>> (f.bitsPer * i) % 2 ^ f.bitsPer)

/-- An element at an index clamped to the list. -/
def clampAt (l : List Nat) (i : Int) : Nat := l.getD (min (l.length - 1) i.toNat) 0

/-- Chroma at luma position p on an axis (R71): replicated, or linear with the siting given (true: at luma 2j + 0.5). -/
def chromaAt (recon : Nat) (half : Bool) (c : Int → Nat) (p : Nat) : Nat :=
  let j : Int := (p / 2 : Nat)
  if recon = 0 then c j
  else if half then
    (rhe 2 (3 * (c j : Int) + (c (if p % 2 = 0 then j - 1 else j + 1) : Int))).toNat
  else if p % 2 = 0 then c j
  else (rhe 1 ((c j : Int) + (c (j + 1) : Int))).toNat

/-- The even or odd members of a list: the Cb or Cr samples of an interleaved line. -/
def everyOther (odd : Bool) (l : List Nat) : List Nat :=
  (List.range (l.length / 2)).map fun i => l.getD (2 * i + odd.toNat) 0

/-- The bytes of row r of plane p of the current slot in the active set. -/
def State.planeLine (s : State) (n p row : Nat) : List Byte :=
  let f := srcFormat s.act n
  s.holdBytes (slotBase s.act n (s.curSlot n) p + slotStride s.act n (s.curSlot n) p * row) (f.lineBytes p)

/-- The chroma samples of row j (clamped to the plane) of component c (1 Cb, 2 Cr), before reconstruction. -/
def State.chromaLine (s : State) (n c : Nat) (j : Int) : List Nat :=
  let f := srcFormat s.act n
  let p := if f.layout = 1 then 1 else c
  let row := min (f.rows p - 1) j.toNat
  let l := f.decodeLine (f.samples p) (s.planeLine n p row)
  if f.layout = 1 then everyOther (c == 2) l else l

/-- Component c of source line y at full resolution (R70): the vertical pass, then the horizontal pass. A chroma row of the neighbouring
line group is read from the Hold when y's own group is read, complete or not (DESIGN CHOICE, log 88). -/
def State.chromaFull (s : State) (n c y : Nat) : List Nat :=
  let f := srcFormat s.act n
  let vhalf := f.site != 2
  let hhalf := f.site == 1
  if f.sampling = 0 then s.chromaLine n c y
  else
    let col : List Nat :=
      if f.sampling = 2 then
        let j : Int := (y / 2 : Nat)
        let l0 := s.chromaLine n c j
        let lm := s.chromaLine n c (j - 1)
        let lp := s.chromaLine n c (j + 1)
        (List.range l0.length).map fun i =>
          chromaAt f.recon vhalf (fun k => (if k < j then lm else if j < k then lp else l0).getD i 0) y
      else s.chromaLine n c y
    (List.range f.width).map fun x => chromaAt f.recon hhalf (clampAt col) x

/-- Source line y of the current slot, normalised (R68 to R71). -/
def State.unpkLine (s : State) (n y : Nat) : Row :=
  let f := srcFormat s.act n
  let first := f.decodeLine f.width (s.planeLine n 0 y)
  if f.layout = 2 then
    ⟨first, f.decodeLine f.width (s.planeLine n 1 y), f.decodeLine f.width (s.planeLine n 2 y)⟩
  else ⟨first, s.chromaFull n 1 y, s.chromaFull n 2 y⟩

end Sys2Proof.Machine
end

