-- ==== Sys2Proof/Machine/Picture.lean ====
section
/-!
DEFINITION. SCAL, COLR and DUAL: their tables, what lands, and the pictures they form (04_colour_scaling_dual_cell.md).
-/

namespace Sys2Proof.Machine

/-! Table memories (R76 to R78). -/

/-- The prefix of the keys of one stage's tables. -/
def tablePrefix (n type : Nat) : Nat := n * 16 + type

/-- The key of a table entry. -/
def tableKey (n type table bank idx : Nat) : Nat :=
  (tablePrefix n type * 32 + table * 2 + bank) * 0x40000 + idx

/-- What an entry holds before it is written: 0, or in the dither table the firmware's mask (R48, R142). -/
def tableInit (type table idx : Nat) : Nat :=
  if type = 8 ∧ table = 0 then (Config.ditherMask idx).toNat else 0

/-- An entry of a table of stage `type` of output n. -/
def State.tbl (s : State) (n type table bank idx : Nat) : Nat :=
  match sparseGet 0 s.tables (tableKey n type table bank idx) with
  | 0 => tableInit type table idx
  | v + 1 => v

/-- An entry of a table written. -/
def State.setTbl (s : State) (n type table bank idx v : Nat) : State :=
  { s with tables := sparseSet 0 s.tables (tableKey n type table bank idx) (v + 1) }

/-- Every table of a stage back at its first contents (R48). -/
def State.clearTables (s : State) (n type : Nat) : State :=
  { s with tables := s.tables.filter fun p => p.1 / 0x800000 != tablePrefix n type }

/-! Landing helpers. -/

/-- The active raster of output n: active columns and lines, as the timing group landed them. -/
def State.hActive (s : State) (n : Nat) : Nat := s.act (F.tgHrasterHActive n)
/-- Active lines. -/
def State.vActive (s : State) (n : Nat) : Nat := s.act (F.tgVrasterVActive n)
/-- Total lines. -/
def State.vTotal (s : State) (n : Nat) : Nat := s.act (F.tgVrasterVTotal n)
/-- Total pixels of a line. -/
def State.hTotal (s : State) (n : Nat) : Nat := s.act (F.tgHrasterHTotal n)

/-- The Landing line Q that the active set gives (R160). -/
def State.landQ (s : State) (n : Nat) : Nat :=
  let l := s.act (F.tgLandLineLine n)
  let v := s.vActive n
  if l = 0 then v else if l < v then v else if s.vTotal n - 2 < l then s.vTotal n - 2 else l

/-- Whether R160 adjusts LINE. -/
def State.landQClamped (s : State) (n : Nat) : Bool :=
  let l := s.act (F.tgLandLineLine n)
  l != 0 && l != s.landQ n

/-! SCAL. -/

/-- The values of SCAL kept valid as they land (R83). CLAMPED tells of the values as they stand at this Landing: where the source group
is refused while a STEP brought into range stays active, that STEP needs no adjustment any more and CLAMPED shows the rectangle alone
(DESIGN CHOICE, log 89). -/
def State.scalLand (s : State) (n : Nat) : State :=
  let c := s.cfg n
  if !c.has 2 then s
  else
    let hs := s.act (F.scalHStepStep n)
    let vs := s.act (F.scalVStepStep n)
    let clampStep := fun v => if v < 0x2000 then 0x2000 else if 0x80000 < v then 0x80000 else v
    let x := s.act (F.scalDstPosDstX n)
    let y := s.act (F.scalDstPosDstY n)
    let w := s.act (F.scalDstSizeDstW n)
    let h := s.act (F.scalDstSizeDstH n)
    let adjusted := decide (clampStep hs ≠ hs ∨ clampStep vs ≠ vs ∨ w = 0 ∨ h = 0 ∨ s.hActive n < x + w ∨ s.vActive n < y + h)
    let t := (s.putAct (F.scalHStepStep n) (clampStep hs)).putAct (F.scalVStepStep n) (clampStep vs)
    (t.puts [(F.scalStatusClamped n, adjusted.toNat), (F.scalStatusActiveBank n, s.act (F.scalCtrlCoefBank n))]).raiseIf
      adjusted (evOut n 21)

/-- A row's component. -/
def Row.comp (r : Row) : Nat → List Nat
  | 0 => r.c0
  | 1 => r.c1
  | _ => r.c2

/-- A row made from a function of component and column. -/
def mkRow (w : Nat) (f : Nat → Nat → Nat) : Row :=
  ⟨(List.range w).map (f 0), (List.range w).map (f 1), (List.range w).map (f 2)⟩

/-- A row of zeros. -/
def zeroRow (w : Nat) : Row := mkRow w fun _ _ => 0

/-- A filter coefficient, s2.10. -/
def State.scalCoef (s : State) (n table idx : Nat) : Int := sval 12 (s.tbl n 2 table (s.act (F.scalCtrlCoefBank n)) idx)

/-- Position of a destination column or row: INIT + i × STEP in s16.16 (R79), saturated to that format (R5). -/
def scalPos (init step i : Nat) : Int := clampI (-2147483648) 2147483647 (sval 32 init + (i * step : Nat))

/-- The tap centre of a position. -/
def posInt (p : Int) : Int := p / 65536
/-- The phase of a position. -/
def posPhase (p : Int) : Nat := ((p % 65536) / 1024).toNat

/-- An index kept within a picture of n rows or columns (R80). -/
def edgeIdx (n : Nat) (i : Int) : Nat := min (n - 1) i.toNat

/-- The vertical pass for one source column: the result for destination row j (R80, R81). -/
def State.scalV (s : State) (n j rows : Nat) (sample : Nat → Nat) : Int :=
  let p := scalPos (s.act (F.scalVInitInit n)) (s.act (F.scalVStepStep n)) j
  let sum := (List.range 6).foldl (fun (acc : Int) t =>
    acc + s.scalCoef n 1 (6 * posPhase p + t) * (sample (edgeIdx rows (posInt p - 2 + t)) : Int)) 0
  clampI (-2097152) 2097151 (rhe 10 sum)

/-- The horizontal pass for destination column i over the vertical results (R80, R81). -/
def State.scalH (s : State) (n i cols : Nat) (sample : Nat → Int) : Nat :=
  let p := scalPos (s.act (F.scalHInitInit n)) (s.act (F.scalHStepStep n)) i
  let sum := (List.range 8).foldl (fun (acc : Int) t =>
    acc + s.scalCoef n 0 (8 * posPhase p + t) * sample (edgeIdx cols (posInt p - 3 + t))) 0
  (clampI 0 0xFFFFF (rhe 10 sum)).toNat

/-- The fill of a component. -/
def State.scalFill (s : State) (n : Nat) : Nat → Nat
  | 0 => s.act (F.scalFill0Value n)
  | 1 => s.act (F.scalFill1Value n)
  | _ => s.act (F.scalFill2Value n)

/-- The source format that the route works on: the landed one, or, before any source group has landed, a picture of the
active size (R12). -/
def State.pictureFormat (s : State) (n : Nat) : SrcFormat :=
  let f := srcFormat s.act n
  if (s.outp n).srcLanded then f else { f with width := s.hActive n, height := s.vActive n }

/-- Output row y of SCAL from the source rows (R79 to R83); without SCAL in the route, source row y. -/
def State.scalRow (s : State) (n y : Nat) (src : Nat → Row) : Row :=
  let f := s.pictureFormat n
  if !(s.cfg n).has 2 then src y
  else
    let dx := s.act (F.scalDstPosDstX n)
    let dy := s.act (F.scalDstPosDstY n)
    let dw := s.act (F.scalDstSizeDstW n)
    let dh := s.act (F.scalDstSizeDstH n)
    let bypass := s.actOn (F.scalCtrlBypass n)
    if y < dy ∨ dy + dh ≤ y then mkRow (s.hActive n) fun c _ => s.scalFill n c
    else
      let j := y - dy
      let vrow := fun c => if bypass then [] else
        (List.range f.width).map fun k => s.scalV n j f.height fun r => ((src r).comp c).getD k 0
      let v0 := vrow 0
      let v1 := vrow 1
      let v2 := vrow 2
      mkRow (s.hActive n) fun c x =>
        if x < dx ∨ dx + dw ≤ x then s.scalFill n c
        else if bypass then
          (if x - dx < f.width ∧ j < f.height then ((src j).comp c).getD (x - dx) 0 else s.scalFill n c)
        else s.scalH n (x - dx) f.width fun k => (if c = 0 then v0 else if c = 1 then v1 else v2).getD k 0

/-- The source rows that output row y of SCAL needs: none, or all up to the last. -/
def State.scalNeeds (s : State) (n y : Nat) : Option Nat :=
  let f := s.pictureFormat n
  if !(s.cfg n).has 2 then some y
  else
    let dy := s.act (F.scalDstPosDstY n)
    let dh := s.act (F.scalDstSizeDstH n)
    if y < dy ∨ dy + dh ≤ y then none
    else if s.actOn (F.scalCtrlBypass n) then (if y - dy < f.height then some (y - dy) else none)
    else some (edgeIdx f.height
      (posInt (scalPos (s.act (F.scalVInitInit n)) (s.act (F.scalVStepStep n)) (y - dy)) + 3))

/-! COLR (R84 to R88). -/

/-- The shift a SPAN field adds: 0, 1 or 2, 3 acting as 2. -/
def spanOf (v : Nat) : Nat := min 2 v

/-- A 1D LUT of 4,096 entries at shift t (R86). -/
def lut1d (t : Nat) (l : Nat → Nat) (x0 : Nat) : Nat :=
  let x := min x0 (2 ^ (t + 12))
  let k := min (x / 2 ^ t) 4095
  let f := x - k * 2 ^ t
  let a : Int := l k
  let b : Int := if k = 4095 then 2 * (l 4095 : Int) - (l 4094 : Int) else l (k + 1)
  (clampI 0 0xFFFFF (a + rhe t ((b - a) * f))).toNat

/-- The node a fraction's axis steps to, and the interpolation over the fractions sorted in falling order (R88). -/
def tetra (t : Nat) (node : Nat → Nat → Nat → Nat) (i f : List Nat) : Nat :=
  let axes := [0, 1, 2]
  let fr := fun a => f.getD a 0
  let first := axes.foldl (fun b a => if fr b < fr a then a else b) 0
  let rest := axes.filter (· != first)
  let second := rest.foldl (fun b a => if fr b < fr a then a else b) (rest.getD 0 0)
  let third := (rest.filter (· != second)).getD 0 0
  let at' := fun (on : List Nat) =>
    (node (i.getD 0 0 + (on.contains 0).toNat) (i.getD 1 0 + (on.contains 1).toNat) (i.getD 2 0 + (on.contains 2).toNat) : Int)
  let v0 := at' []
  let v1 := at' [first]
  let v2 := at' [first, second]
  let v3 := at' [0, 1, 2]
  let num := (fr first : Int) * (v1 - v0) + (fr second : Int) * (v2 - v1) + (fr third : Int) * (v3 - v2)
  (clampI 0 0xFFFFF (rhe t (v0 * ((2 ^ t : Nat) : Int) + num))).toNat

/-- The 3D LUT at shift t: component c of the output (R87). -/
def lut3d (t : Nat) (entry : Nat → Nat) (x : List Nat) (c : Nat) : Nat :=
  let cx := x.map fun v => min v (32 * 2 ^ t)
  let i := cx.map fun v => min (v / 2 ^ t) 31
  let f := List.zipWith (fun v k => v - k * 2 ^ t) cx i
  tetra t (fun r g b => entry (3 * ((33 * r + g) * 33 + b) + c)) i f

/-- One pixel through COLR. -/
def State.colrPixel (s : State) (n : Nat) (x : List Nat) : List Nat :=
  let bank := s.act (F.colrCtrlTblBank n)
  let m := if s.actOn (F.colrCtrlMatEn n) then
      (List.range 3).map fun i =>
        let sum := (List.range 3).foldl (fun (acc : Int) j =>
          acc + sval 20 (s.act (F.colrMCoef n (3 * i + j))) *
            ((x.getD j 0 : Int) + sval 21 (s.act (F.colrPreOffOffset n j)))) 0
        (clampI 0 0xFFFFF (rhe 16 (sum + sval 21 (s.act (F.colrPostOffOffset n i)) * 65536))).toNat
    else x
  let p := if s.actOn (F.colrCtrlPreEn n) then
      (List.range 3).map fun c => lut1d (6 + spanOf (s.act (F.colrCtrlPreSpan n)))
        (fun k => s.tbl n 3 0 bank (4096 * c + k)) (m.getD c 0)
    else m
  let q := if s.actOn (F.colrCtrlLut3En n) then
      (List.range 3).map fun c => lut3d (13 + spanOf (s.act (F.colrCtrlLut3Span n))) (s.tbl n 3 1 bank) p c
    else p
  if s.actOn (F.colrCtrlPostEn n) then
    (List.range 3).map fun c => lut1d (6 + spanOf (s.act (F.colrCtrlPostSpan n)))
      (fun k => s.tbl n 3 2 bank (4096 * c + k)) (q.getD c 0)
  else q

/-- A row through a pixel function. -/
def Row.mapPixels (r : Row) (f : List Nat → List Nat) : Row :=
  let px := (List.range r.c0.length).map fun x => f [r.c0.getD x 0, r.c1.getD x 0, r.c2.getD x 0]
  ⟨px.map (·.getD 0 0), px.map (·.getD 1 0), px.map (·.getD 2 0)⟩

/-- A row through COLR, when the route has it. -/
def State.colrRow (s : State) (n : Nat) (r : Row) : Row :=
  if (s.cfg n).has 3 then r.mapPixels (s.colrPixel n) else r

/-- What COLR shows of its active set. -/
def State.colrLand (s : State) (n : Nat) : State :=
  if (s.cfg n).has 3 then s.put (F.colrStatusActiveBank n) (s.act (F.colrCtrlTblBank n)) else s

/-! DUAL (R89 to R98). -/

/-- The parameters of the split in force: refinements, radii, vertical upsampling. -/
structure DualEff where
  iter : Nat
  maxRy : Nat
  psfRy : Nat
  vup : Nat
deriving DecidableEq, Repr

/-- The back rows of lookahead a split needs (R97). -/
def DualEff.ahead (e : DualEff) : Nat := e.maxRy + (e.iter + 1) * e.psfRy + e.vup

/-- The reductions of R97, one step at a time, until the split fits in so many rows. -/
def DualEff.fit (rows : Nat) : Nat → DualEff → DualEff
  | 0, e => e
  | k + 1, e =>
    if e.ahead ≤ rows then e
    else if e.iter ≠ 0 then ({ e with iter := e.iter - 1 }).fit rows k
    else if e.maxRy ≠ 0 then ({ e with maxRy := e.maxRy - 1 }).fit rows k
    else if e.psfRy ≠ 0 then ({ e with psfRy := e.psfRy - 1 }).fit rows k
    else { e with vup := 0 }

/-- The split as programmed. -/
def State.dualAsked (s : State) (n : Nat) : DualEff :=
  ⟨min 2 (s.act (F.dualCtrlIter n)), s.act (F.dualCtrlMaxRy n), s.act (F.dualCtrlPsfRy n),
    if (s.cfg n).backVdiv = 0 then 0 else 1⟩

/-- The split in force, as DUAL_STATUS shows it. -/
def State.dualEff (s : State) (n : Nat) : DualEff :=
  ⟨s.get (F.dualStatusIterEff n), s.get (F.dualStatusMaxRyEff n), s.get (F.dualStatusPsfRyEff n),
    s.get (F.dualStatusVupEff n)⟩

/-- The effective split evaluated at a Landing (R97), for a frame of `total` lines. -/
def State.dualLand (s : State) (n total : Nat) : State :=
  let c := s.cfg n
  if !c.has 4 then s
  else
    let want := s.dualAsked n
    let rows := (total - s.landQ n - 1) / 2 ^ c.backVdiv
    let e := want.fit rows 32
    (s.puts [(F.dualStatusActiveBank n, s.act (F.dualCtrlTblBank n)), (F.dualStatusIterEff n, e.iter),
      (F.dualStatusPsfRyEff n, e.psfRy), (F.dualStatusMaxRyEff n, e.maxRy), (F.dualStatusVupEff n, e.vup),
      (F.dualStatusAheadRows n, e.ahead)]).raiseIf (e != want) (evOut n 23)

/-- The back rows and columns of output n at its active raster. -/
def State.backCols (s : State) (n : Nat) : Nat := ceilDiv (s.hActive n) (2 ^ (s.cfg n).backHdiv)
/-- Back rows. -/
def State.backRows (s : State) (n : Nat) : Nat := ceilDiv (s.vActive n) (2 ^ (s.cfg n).backVdiv)

/-- Whether the field buffer that the shadows give is valid (R98). -/
def State.dualFieldOk (s : State) (n : Nat) : Bool :=
  let line := 2 * s.backCols n
  let stride := 32 * s.get (F.dualFieldStrideBytes n)
  decide (line ≤ stride) &&
    decide (32 * s.get (F.dualFieldBaseAddr n) + stride * (s.backRows n - 1) + line ≤ 0x40000000)

/-- The field buffer registers at a Landing (R12, R98): once both have been written, both land, or both keep their active
values. -/
def State.dualFieldLand (s : State) (n : Nat) : State :=
  if !(s.cfg n).has 4 || !s.isWritten (R.dualFieldBase n) || !s.isWritten (R.dualFieldStride n) then s
  else if s.dualFieldOk n then
    ((s.putAct (F.dualFieldBaseAddr n) (s.get (F.dualFieldBaseAddr n))).putAct (F.dualFieldStrideBytes n)
      (s.get (F.dualFieldStrideBytes n))).setLanded (R.dualFieldBase n)
  else s.raise (evOut n 24)

/-- A field of samples by rows. -/
abbrev Plane := List (List Nat)

/-- A sample of a field, its indices kept at the nearest edge. -/
def Plane.at (p : Plane) (v u : Int) : Nat :=
  let row := p.getD (min (p.length - 1) v.toNat) []
  row.getD (min (row.length - 1) u.toNat) 0

/-- A field made from a function of row and column. -/
def mkPlane (rows cols : Nat) (f : Nat → Nat → Nat) : Plane :=
  (List.range rows).map fun v => (List.range cols).map (f v)

/-- The largest of a list, 0 when empty. -/
def maxOf (l : List Nat) : Nat := l.foldl max 0

/-- Offsets −r to r. -/
def around (r : Nat) : List Int := (List.range (2 * r + 1)).map fun (k : Nat) => (k : Int) - (r : Int)

/-- The target field of R90 from the rows of the picture: back rows that the rows given reach. -/
def backTarget (hdiv vdiv cols : Nat) (rows : List Row) : Plane :=
  mkPlane (ceilDiv rows.length (2 ^ vdiv)) cols fun v u =>
    maxOf (((rows.drop (2 ^ vdiv * v)).take (2 ^ vdiv)).map fun r =>
      max (maxOf ((r.c0.drop (2 ^ hdiv * u)).take (2 ^ hdiv)))
        (max (maxOf ((r.c1.drop (2 ^ hdiv * u)).take (2 ^ hdiv))) (maxOf ((r.c2.drop (2 ^ hdiv * u)).take (2 ^ hdiv)))))

/-- The max filter (R91). -/
def maxFilter (rx ry : Nat) (t : Plane) : Plane :=
  mkPlane t.length (t.getD 0 []).length fun v u =>
    min 0x40000 (maxOf ((around ry).map fun dv => maxOf ((around rx).map fun du => t.at (v + dv) (u + du))))

/-- One pass of the point-spread model along an axis (R92). -/
def blurPass (r : Nat) (tap : Nat → Nat) (get : Int → Nat) : Nat :=
  min 0xFFFFF (rhe 15 ((around r).foldl (fun (acc : Int) k => acc + (tap k.natAbs : Int) * (get k : Int)) 0)).toNat

/-- The blur P ⊗ d (R92): vertical, then horizontal. -/
def blur (rx ry : Nat) (tapH tapV : Nat → Nat) (d : Plane) : Plane :=
  let w := (d.getD 0 []).length
  let v1 : Plane := mkPlane d.length w fun v u => blurPass ry tapV fun k => d.at (v + k) u
  mkPlane d.length w fun v u => blurPass rx tapH fun k => v1.at v (u + k)

/-- One refinement (R93). -/
def refine (m p d : Plane) : Plane :=
  mkPlane d.length (d.getD 0 []).length fun v u =>
    let dv := d.at v u
    let pv := p.at v u
    if pv = 0 then dv else min 0x40000 (max dv (rheDiv (dv * m.at v u : Nat) pv).toNat)

/-- ITER refinements from d_0 = m. -/
def refineN (rx ry : Nat) (tapH tapV : Nat → Nat) (m : Plane) : Nat → Plane
  | 0 => m
  | k + 1 =>
    let d := refineN rx ry tapH tapV m k
    refine m (blur rx ry tapH tapV d) d

/-- The two samples and weights (over 2a) that an output position takes on an axis (R94). -/
def upTaps (div : Nat) (interp : Bool) (x : Nat) : Int × Int × Nat × Nat :=
  let a : Int := (2 ^ div : Nat)
  if div = 0 then (x, x, 1, 0)
  else if !interp then ((x : Int) / a, (x : Int) / a, 2 * 2 ^ div, 0)
  else
    let pos : Int := 2 * (x : Int) - (a - 1)
    let u := pos / (2 * a)
    let r := (pos % (2 * a)).toNat
    (u, u + 1, 2 * 2 ^ div - r, r)

/-- The modelled light at an output pixel (R94). -/
def upsample (hdiv vdiv : Nat) (vup : Bool) (l : Plane) (y x : Nat) : Nat :=
  let (u0, u1, wu0, wu1) := upTaps hdiv true x
  let (v0, v1, wv0, wv1) := upTaps vdiv vup y
  let num : Nat := wv0 * (wu0 * l.at v0 u0 + wu1 * l.at v0 u1) + wv1 * (wu0 * l.at v1 u0 + wu1 * l.at v1 u1)
  (rheDiv num ((wu0 + wu1) * (wv0 + wv1))).toNat

/-- The tap of a kernel held in pairs. -/
def State.psfTap (s : State) (even odd : Nat → Field) (k : Nat) : Nat :=
  if k % 2 = 0 then s.act (even (k / 2)) else s.act (odd (k / 2))

/-- The final back drive d and the modelled light L at back resolution, from the rows of COLR's picture. -/
def State.dualField (s : State) (n : Nat) (rows : List Row) : Plane × Plane :=
  let c := s.cfg n
  let e := s.dualEff n
  let rx := s.act (F.dualCtrlPsfRx n)
  let tapH := s.psfTap (F.dualPsfHTapEven n) (F.dualPsfHTapOdd n)
  let tapV := s.psfTap (F.dualPsfVTapEven n) (F.dualPsfVTapOdd n)
  let m := maxFilter (s.act (F.dualCtrlMaxRx n)) e.maxRy (backTarget c.backHdiv c.backVdiv (s.backCols n) rows)
  let d := refineN rx e.psfRy tapH tapV m e.iter
  (d, blur rx e.psfRy tapH tapV d)

/-- Front row y of DUAL and the number of its samples that clip (R95, R96). -/
def State.dualFront (s : State) (n : Nat) (l : Plane) (y : Nat) (target : Row) : Row × Nat :=
  let c := s.cfg n
  let e := s.dualEff n
  let lmin := s.act (F.dualLMinValue n)
  let raw := fun comp x =>
    let light := max (upsample c.backHdiv c.backVdiv (e.vup == 1) l y x) lmin
    let t := (target.comp comp).getD x 0
    if light = 0 then Config.dualByZero t else (rheDiv (t * 2 ^ 18 : Nat) light).toNat
  let w := target.c0.length
  let un := mkRow w raw
  let clips := fun l : List Nat => (l.filter (decide <| 0x40000 < ·)).length
  let cut := mkRow w fun comp x => min 0x40000 ((un.comp comp).getD x 0)
  let drive := if s.actOn (F.dualCtrlFlutEn n) then
      mkRow w fun comp x => lut1d 6 (fun k => s.tbl n 4 0 (s.act (F.dualCtrlTblBank n)) (4096 * comp + k))
        ((cut.comp comp).getD x 0)
    else cut
  (drive, clips un.c0 + clips un.c1 + clips un.c2)

/-- The 12-bit codes of back row v (R96). -/
def State.dualCodes (s : State) (n : Nat) (d : Plane) (v : Nat) : List Nat :=
  (d.getD v []).map fun x =>
    let y := if s.actOn (F.dualCtrlBlutEn n) then lut1d 6 (s.tbl n 4 1 (s.act (F.dualCtrlTblBank n))) x else x
    (rhe 18 ((min 0x40000 y * 4095 : Nat) : Int)).toNat

/-- Where back row v of `cols` codes is written to the field buffer, and by which reach: master, address, bytes. -/
def State.dualRun (s : State) (n v cols : Nat) : Nat × Nat × Nat :=
  let reaches := match (s.cfg n).stage 4 with
    | some st => st.reaches
    | none => []
  (0x60 + reaches.getD (v % max 1 reaches.length) 0, 32 * s.act (F.dualFieldBaseAddr n) + 32 * s.act (F.dualFieldStrideBytes n) * v, 2 * cols)

/-- Back row v's codes written to the field buffer by the reach that forms it (R96). -/
def State.dualStore (s : State) (n v : Nat) (codes : List Nat) : State :=
  if !(s.cfg n).has 4 || !s.hasLanded (R.dualFieldBase n) then s
  else
    let r := s.dualRun n v codes.length
    s.storeAs r.1 r.2.1 ((codes.map fun q => leBytes 2 q).flatten)

end Sys2Proof.Machine
end

