-- ==== Sys2Proof/Machine/Codec.lean ====
section
/-!
DEFINITION. The Eddy codec as pure functions (R282 to R291): pixel mode, general mode, the code words of both.
-/

namespace Sys2Proof.Machine

/-! Bit strings (R285): fields most significant bit first, bit b being bit b mod 8 of byte b / 8. -/

/-- The n low bits of a value, most significant first. -/
def msbBits (n v : Nat) : List Bool := (List.range n).map fun i => v.testBit (n - 1 - i)

/-- The value of bits, most significant first. -/
def ofMsb (l : List Bool) : Nat := l.foldl (fun acc b => 2 * acc + b.toNat) 0

/-- The bits of bytes in order. -/
def bitsOfBytes (l : List Byte) : List Bool := (l.map fun b => toBits 8 b.toNat).flatten

/-- Bits as whole bytes, n of them. -/
def bytesOfBits : Nat → List Bool → List Byte
  | 0, _ => []
  | n + 1, l => BitVec.ofNat 8 (ofBits (l.take 8)) :: bytesOfBits n (l.drop 8)

/-- Zero bits that fill a bit string of so many bits to a whole byte. -/
def padBits (n : Nat) : List Bool := List.replicate ((8 - n % 8) % 8) false

/-! Pixel mode (R282 to R286). -/

/-- The prediction from left, above and above-left (R283). -/
def predict (a b c : Nat) : Nat :=
  if max a b ≤ c then min a b else if c ≤ min a b then max a b else a + b - c

/-- The error of a sample mapped to a natural number (R283). -/
def mapError (n x p : Nat) : Nat :=
  let e := sval n (ofSval n ((x : Int) - (p : Int)))
  if 0 ≤ e then (2 * e).toNat else (-2 * e - 1).toNat

/-- The sample that a mapped error and its prediction give. -/
def unmapError (n m p : Nat) : Nat :=
  let e : Int := if m % 2 = 0 then (m / 2 : Nat) else -((m + 1) / 2 : Nat)
  ofSval n ((p : Int) + e)

/-- The adaptive parameters A and C (R284). -/
structure Golomb where
  a : Nat
  c : Nat
deriving DecidableEq, Repr

/-- The parameters of a job without carried context. -/
def Golomb.start : Golomb := ⟨4, 1⟩

/-- The parameter k. -/
def Golomb.k (g : Golomb) (n : Nat) : Nat :=
  ((List.range (n + 1)).find? fun k => decide (g.a ≤ g.c * 2 ^ k)).getD n

/-- The parameters after a sample. -/
def Golomb.next (g : Golomb) (m : Nat) : Golomb :=
  if g.c + 1 = 64 then ⟨(g.a + m) / 2, 32⟩ else ⟨g.a + m, g.c + 1⟩

/-- The code word of a mapped error (R284). -/
def golombWord (n k m : Nat) : List Bool :=
  if m / 2 ^ k < 24 then List.replicate (m / 2 ^ k) false ++ [true] ++ msbBits k m
  else List.replicate 24 false ++ [true] ++ msbBits n m

/-- The prediction of a sample: `left` the sample before it in its row (none at column 0), `up` and `upLeft` those above. -/
def predictAt (left : Option Nat) (up upLeft : Nat) : Nat :=
  match left with
  | some a => predict a up upLeft
  | none => up

/-- A row coded: its bits and the parameters after it. `up` is the row above from this column on, `upLeft` the sample above
left. -/
def codeRow (n : Nat) (g : Golomb) (left : Option Nat) (upLeft : Nat) : List Nat → List Nat → List Bool × Golomb
  | [], _ => ([], g)
  | x :: rest, up =>
    let b := up.headD 0
    let m := mapError n x (predictAt left b upLeft)
    let r := codeRow n (g.next m) (some x) b rest up.tail
    (golombWord n (g.k n) m ++ r.1, r.2)

/-- Rows coded in order, each under the one before; `above` is the row above the first. -/
def codeRows (n : Nat) (g : Golomb) (above : List Nat) : List (List Nat) → List Bool × Golomb
  | [] => ([], g)
  | row :: rest =>
    let r := codeRow n g none 0 row above
    let t := codeRows n r.2 row rest
    (r.1 ++ t.1, t.2)

/-- Why a decode fails: corrupt code (ERR 0x3) or length mismatch (ERR 0x4). -/
inductive CodecErr where
  | corrupt
  | length
deriving DecidableEq, Repr

/-- ERR of R297. -/
def CodecErr.code : CodecErr → Nat
  | .corrupt => 3
  | .length => 4

/-- Zero bits before a one bit, at most 24, and the bits after it. -/
def readUnary : Nat → List Bool → Except CodecErr (Nat × List Bool)
  | _, [] => .error .length
  | _, true :: rest => .ok (0, rest)
  | 0, false :: _ => .error .corrupt
  | z + 1, false :: rest =>
    match readUnary z rest with
    | .ok (q, l) => .ok (q + 1, l)
    | .error e => .error e

/-- A mapped error read (R284). -/
def readGolomb (n k : Nat) (l : List Bool) : Except CodecErr (Nat × List Bool) :=
  match readUnary 24 l with
  | .error e => .error e
  | .ok (q, rest) =>
    let w := if q < 24 then k else n
    if rest.length < w then .error .length
    else
      let low := ofMsb (rest.take w)
      .ok (if q < 24 then q * 2 ^ k + low else low, rest.drop w)

/-- A row of so many samples decoded. -/
def decodeRow (n : Nat) : Nat → Golomb → Option Nat → Nat → List Nat → List Bool →
    Except CodecErr (List Nat × Golomb × List Bool)
  | 0, g, _, _, _, l => .ok ([], g, l)
  | w + 1, g, left, upLeft, up, l =>
    match readGolomb n (g.k n) l with
    | .error e => .error e
    | .ok (m, rest) =>
      let b := up.headD 0
      let x := unmapError n m (predictAt left b upLeft)
      match decodeRow n w (g.next m) (some x) b up.tail rest with
      | .error e => .error e
      | .ok (row, g', l') => .ok (x :: row, g', l')

/-- So many rows decoded. -/
def decodeRows (n w : Nat) : Nat → Golomb → List Nat → List Bool → Except CodecErr (List (List Nat) × Golomb × List Bool)
  | 0, g, _, l => .ok ([], g, l)
  | r + 1, g, above, l =>
    match decodeRow n w g none 0 above l with
    | .error e => .error e
    | .ok (row, g', l') =>
      match decodeRows n w r g' row l' with
      | .error e => .error e
      | .ok (rows, g'', l'') => .ok (row :: rows, g'', l'')

/-- A whole coded body decoded (R285): exactly so many samples, zero padding, no byte more. -/
def decodeBody (n w rows : Nat) (g : Golomb) (above : List Nat) (body : List Byte) :
    Except CodecErr (List (List Nat) × Golomb) :=
  match decodeRows n w rows g above (bitsOfBytes body) with
  | .error e => .error e
  | .ok (r, g', rest) => if 8 ≤ rest.length ∨ rest.contains true then .error .length else .ok (r, g')

/-- The raw size of an image in bytes (R282). -/
def rawSize (n w rows : Nat) : Nat := ceilDiv (w * rows * n) 8

/-- Rows of samples from raw bytes. -/
def rowsOfRaw (n w rows : Nat) (l : List Byte) : List (List Nat) :=
  let v := ofLe l
  (List.range rows).map fun y => (List.range w).map fun x => v / 2 ^ (n * (y * w + x)) % 2 ^ n

/-- Raw bytes of rows of samples. -/
def rawOfRows (n : Nat) (rows : List (List Nat)) : List Byte :=
  let all := rows.flatten
  leBytes (ceilDiv (all.length * n) 8) (packBits n all)

/-- The longest body that decodes to an image of so many samples: every code word an escape of 25 + N bits, or 24 + N for one that is none (R284,
R285); a body may be longer than the raw size. -/
def longestBody (n w rows : Nat) : Nat := ceilDiv (w * rows * (25 + n)) 8

/-- A record as an in-fabric decoder takes it (R296): raw, or a coded body with no history. -/
def decodeRecord (raw : Bool) (n w rows : Nat) (l : List Byte) : Option (List (List Nat)) :=
  if raw then (if l.length = rawSize n w rows then some (rowsOfRaw n w rows l) else none)
  else match decodeBody n w rows Golomb.start [] l with
    | .ok r => some r.1
    | .error _ => none

/-- A record as a compressor writes it (R286): whether it is raw, its bytes, the parameters after it. A coded body of as many bytes as the raw
data, or more, is never written. -/
def encodeRecord (n : Nat) (g : Golomb) (above : List Nat) (rows : List (List Nat)) : Bool × List Byte × Golomb :=
  let r := codeRows n g above rows
  let raw := rawOfRows n rows
  if raw.length ≤ ceilDiv r.1.length 8 then (true, raw, r.2)
  else (false, bytesOfBits (ceilDiv r.1.length 8) r.1, r.2)

/-! General mode (R287 to R289). -/

/-- floor(log2 v) for v of at most 16 bits. -/
def ilog2 (v : Nat) : Nat := Nat.log2 v

/-- The length code of L: code, extra bits, their value. -/
def lengthCode (len : Nat) : Nat × Nat × Nat :=
  let v := len - 3
  if v < 8 then (v, 0, 0)
  else
    let e := ilog2 v - 2
    (8 + 4 * (e - 1) + v / 2 ^ e - 4, e, v % 2 ^ e)

/-- The distance code of D. -/
def distCode (dist : Nat) : Nat × Nat × Nat :=
  let v := dist - 1
  if v < 4 then (v, 0, 0)
  else
    let e := ilog2 v - 1
    (4 + 2 * (e - 1) + v / 2 ^ e - 2, e, v % 2 ^ e)

/-- Extra bits of a length code and the smallest v. -/
def lengthOf (c : Nat) : Nat × Nat :=
  if c < 8 then (0, c) else
    let e := (c - 8) / 4 + 1
    (e, (4 + (c - 8) % 4) * 2 ^ e)

/-- Extra bits of a distance code and the smallest v. -/
def distOf (c : Nat) : Nat × Nat :=
  if c < 4 then (0, c) else
    let e := (c - 4) / 2 + 1
    (e, (2 + (c - 4) % 2) * 2 ^ e)

/-- The canonical codes of an alphabet from its code lengths: symbol, length, code (R288). -/
def canonical (lens : List Nat) : List (Nat × Nat × Nat) :=
  let syms := (List.range 15).map fun l =>
    ((List.range lens.length).filter fun i => lens.getD i 0 == l + 1).map fun i => (i, l + 1)
  (syms.flatten.foldl (fun (acc : List (Nat × Nat × Nat) × Nat × Nat) p =>
    let code := acc.2.1 * 2 ^ (p.2 - acc.2.2)
    (acc.1 ++ [(p.1, p.2, code)], code + 1, p.2)) ([], 0, 0)).1

/-- Whether an alphabet's lengths make a complete code, or a single symbol of length 1. -/
def lensOk (lens : List Nat) : Bool :=
  let used := lens.filter (· != 0)
  used == [1] || used.foldl (fun acc l => acc + 2 ^ (15 - l)) 0 == 2 ^ 15

/-- Whether the 317 lengths of a dynamic block make valid tables. -/
def tablesOk (lens : List Nat) : Bool :=
  lens.length == 317 && lens.all (decide <| · ≤ 15) && lens.getD 256 0 != 0 && lensOk (lens.take 285) &&
    lensOk (lens.drop 285)

/-- The code word of a symbol; none when it is unused. -/
def symbolBits (lens : List Nat) (sym : Nat) : Option (List Bool) :=
  ((canonical lens).find? (·.1 == sym)).map fun p => msbBits p.2.1 p.2.2

/-- A symbol read: the symbol and the bits after it; none when the bits run out first. -/
def readSymbol (lens : List Nat) (l : List Bool) : Option (Nat × List Bool) :=
  ((canonical lens).find? fun p => decide (p.2.1 ≤ l.length) && ofMsb (l.take p.2.1) == p.2.2).map fun p =>
    (p.1, l.drop p.2.1)

/-- A match copied behind a history held newest byte first. -/
def copyMatch (dist : Nat) : Nat → List Byte → List Byte
  | 0, h => h
  | n + 1, h => copyMatch dist n (h.getD (dist - 1) 0 :: h)

/-- One code word of a job (R292): the bits it takes from the input, the bits it puts out, the history after it (newest
first). -/
structure CodeWord where
  inBits : Nat
  outBits : List Bool
deriving DecidableEq, Repr

/-- The history a job can reach: its last 64 KiB. -/
def trimHist (h : List Byte) : List Byte := h.take 65536

/-! Decompression. -/

/-- Where a general-mode decoder stands: between blocks, in a stored block with bytes left, in a coded block; whether the
block is the stream's last. -/
inductive GenMode where
  | between
  | stored (left : Nat) (final : Bool)
  | coded (final : Bool)
  | done
deriving DecidableEq, Repr

/-- The decoder's state: mode, tables, history (newest first), the bits used of the stream so far. -/
structure GenDec where
  mode : GenMode
  lens : List Nat
  hist : List Byte
  pos : Nat
deriving DecidableEq, Repr

/-- One code word decoded: the word, the state after it and the bits left; `none` when the bits run out first. -/
def genStep (d : GenDec) (l : List Bool) : Except CodecErr (Option (CodeWord × GenDec × List Bool)) :=
  match d.mode with
  | .done => .ok none
  | .stored left final =>
    if l.length < 8 then .ok none
    else
      let b : Byte := BitVec.ofNat 8 (ofMsb (l.take 8))
      let m := if left ≤ 1 then (if final then GenMode.done else .between) else .stored (left - 1) final
      .ok (some (⟨8, toBits 8 b.toNat⟩, ⟨m, d.lens, trimHist (b :: d.hist), d.pos + 8⟩, l.drop 8))
  | .between =>
    if l.length < 3 then .ok none
    else
      let final := l.headD false
      let type := ofMsb ((l.drop 1).take 2)
      if type = 3 then .error .corrupt
      else if type = 0 then
        let pad := (8 - (d.pos + 3) % 8) % 8
        if l.length < 3 + pad + 16 then .ok none
        else
          let len := ofMsb ((l.drop (3 + pad)).take 16) + 1
          .ok (some (⟨3 + pad + 16, []⟩, ⟨.stored len final, d.lens, d.hist, d.pos + 3 + pad + 16⟩, l.drop (3 + pad + 16)))
      else if type = 1 then
        if l.length < 3 + 1268 then .ok none
        else
          let lens := (List.range 317).map fun i => ofMsb ((l.drop (3 + 4 * i)).take 4)
          if tablesOk lens then
            .ok (some (⟨1271, []⟩, ⟨.coded final, lens, d.hist, d.pos + 1271⟩, l.drop 1271))
          else .error .corrupt
      else if d.lens.isEmpty then .error .corrupt
      else .ok (some (⟨3, []⟩, ⟨.coded final, d.lens, d.hist, d.pos + 3⟩, l.drop 3))
  | .coded final =>
    match readSymbol (d.lens.take 285) l with
    | none => if 15 ≤ l.length then .error .corrupt else .ok none
    | some (sym, r1) =>
      let used := l.length - r1.length
      if sym < 256 then
        let b : Byte := BitVec.ofNat 8 sym
        .ok (some (⟨used, toBits 8 sym⟩, ⟨d.mode, d.lens, trimHist (b :: d.hist), d.pos + used⟩, r1))
      else if sym = 256 then
        .ok (some (⟨used, []⟩, ⟨if final then .done else .between, d.lens, d.hist, d.pos + used⟩, r1))
      else
        let (e1, v1) := lengthOf (sym - 257)
        if r1.length < e1 then .ok none
        else
          let len := v1 + ofMsb (r1.take e1) + 3
          let r2 := r1.drop e1
          match readSymbol (d.lens.drop 285) r2 with
          | none => if 15 ≤ r2.length then .error .corrupt else .ok none
          | some (dc, r3) =>
            let (e2, v2) := distOf dc
            if r3.length < e2 then .ok none
            else
              let dist := v2 + ofMsb (r3.take e2) + 1
              let r4 := r3.drop e2
              if d.hist.length < dist then .error .corrupt
              else
                let h := copyMatch dist len d.hist
                let out := (h.take len).reverse
                let n := l.length - r4.length
                .ok (some (⟨n, bitsOfBytes out⟩, ⟨d.mode, d.lens, trimHist h, d.pos + n⟩, r4))

/-- The code words of a stream, the decoder after them, the bits left, and the corrupt code met, if any. -/
def genWords : Nat → GenDec → List Bool → List CodeWord × GenDec × List Bool × Bool
  | 0, d, l => ([], d, l, false)
  | fuel + 1, d, l =>
    match genStep d l with
    | .error _ => ([], d, l, true)
    | .ok none => ([], d, l, false)
    | .ok (some (w, d', l')) =>
      let r := genWords fuel d' l'
      (w :: r.1, r.2)

/-! Compression. -/

/-- What tokens expand to behind a history (newest first); none when a match is out of reach. -/
def expand : List EddyToken → List Byte → Option (List Byte)
  | [], h => some h
  | .lit b :: rest, h => expand rest (b :: h)
  | .copy len dist :: rest, h =>
    if 3 ≤ len ∧ len ≤ 258 ∧ 1 ≤ dist ∧ dist ≤ 65536 ∧ dist ≤ h.length then expand rest (copyMatch dist len h) else none

/-- Input bytes of a token. -/
def tokenSpan : EddyToken → Nat
  | .lit _ => 1
  | .copy len _ => len

/-- The bits of a token under tables; none when a symbol is unused. -/
def tokenCode (lens : List Nat) : EddyToken → Option (List Bool)
  | .lit b => symbolBits (lens.take 285) b.toNat
  | .copy len dist =>
    let (lc, le, lv) := lengthCode len
    let (dc, de, dv) := distCode dist
    match symbolBits (lens.take 285) (257 + lc), symbolBits (lens.drop 285) dc with
    | some a, some b => some (a ++ msbBits le lv ++ b ++ msbBits de dv)
    | _, _ => none

/-- Input bytes of a block. -/
def blockSpan (b : EddyBlock) : Nat := (b.tokens.map tokenSpan).foldl (· + ·) 0

/-- A list of optional values, all present. -/
def allSome {α : Type} : List (Option α) → Option (List α)
  | [] => some []
  | none :: _ => none
  | some a :: rest => (allSome rest).map (a :: ·)

/-- The code words of a block that starts at a bit position, the tables after it; `bytes` are its input bytes. A dynamic
block longer than the stored block is no choice of the compressor (R289), and no block is of another type than those of R288. -/
def blockWords (b : EddyBlock) (final : Bool) (pos : Nat) (lens : List Nat) (bytes : List Byte) :
    Option (List CodeWord × List Nat) :=
  let pad := (8 - (pos + 3) % 8) % 8
  let stored : List CodeWord :=
    ⟨0, final :: msbBits 2 0 ++ List.replicate pad false ++ msbBits 16 (bytes.length - 1)⟩ ::
      bytes.map fun x => ⟨8, msbBits 8 x.toNat⟩
  let storedBits := 19 + pad + 8 * bytes.length
  if bytes.isEmpty ∨ 65536 < bytes.length ∨ 2 < b.type then none
  else if b.type = 0 then some (stored, lens)
  else
    let t := if b.type = 1 then b.lens else lens
    if !tablesOk t then none
    else match allSome (b.tokens.map (tokenCode t)), symbolBits (t.take 285) 256 with
      | some ws, some eob =>
        let head := final :: msbBits 2 b.type ++ (if b.type = 1 then (t.map fun v => msbBits 4 v).flatten else [])
        let all : List CodeWord := ⟨0, head⟩ :: (List.zipWith (fun (k : EddyToken) w => ⟨8 * tokenSpan k, w⟩) b.tokens ws) ++ [⟨0, eob⟩]
        if storedBits < (all.map (·.outBits.length)).foldl (· + ·) 0 then some (stored, lens) else some (all, t)
      | _, _ => none

/-- The code words of a parse, the tables after it. -/
def parseWords (final : Bool) : List EddyBlock → Nat → List Nat → List Byte → Option (List CodeWord × List Nat)
  | [], _, lens, input => if input.isEmpty then some ([], lens) else none
  | b :: rest, pos, lens, input =>
    match blockWords b (final && rest.isEmpty) pos lens (input.take (blockSpan b)) with
    | none => none
    | some (ws, lens') =>
      match parseWords final rest (pos + (ws.map (·.outBits.length)).foldl (· + ·) 0) lens' (input.drop (blockSpan b)) with
      | none => none
      | some (more, lens'') => some (ws ++ more, lens'')

/-- The parse that stores every block. -/
def storedParse : Nat → List Byte → List EddyBlock
  | 0, _ => []
  | n + 1, l => if l.isEmpty then [] else ⟨0, [], (l.take 65536).map .lit⟩ :: storedParse n (l.drop 65536)

/-- The most bytes that a job over so many input bytes puts out (R289). -/
def mostOut (n : Nat) : Nat := n + 4 * ceilDiv n 65536 + 1

/-- The parse a compressor chooses, when that parse spells the input under R287 to R289 and stays within their bound, else stored blocks,
which always do. -/
def chosenParse (final : Bool) (hist : List Byte) (lens : List Nat) (pos : Nat) (input : List Byte) : List EddyBlock :=
  let parse := Config.eddyParse hist lens input
  let good := expand (parse.map (·.tokens)).flatten hist == some (input.reverse ++ hist)
  match (if good then parseWords final parse pos lens input else none) with
  | some r =>
    if ceilDiv (pos % 8 + (r.1.map (·.outBits.length)).foldl (· + ·) 0) 8 ≤ mostOut input.length then parse
    else storedParse input.length input
  | none => storedParse input.length input

/-- The code words a compressor writes, the tables after them. -/
def compressWords (final : Bool) (hist : List Byte) (lens : List Nat) (pos : Nat) (input : List Byte) :
    List CodeWord × List Nat :=
  (parseWords final (chosenParse final hist lens pos input) pos lens input).getD ([], lens)

/-- The tables in force after so many code words of a parse: a block's from its header on. -/
def parseTables (final : Bool) : List EddyBlock → Nat → List Nat → List Byte → Nat → List Nat
  | [], _, lens, _, _ => lens
  | b :: rest, pos, lens, input, k =>
    if k = 0 then lens
    else match blockWords b (final && rest.isEmpty) pos lens (input.take (blockSpan b)) with
      | none => lens
      | some (ws, lens') =>
        if k ≤ ws.length then lens'
        else parseTables final rest (pos + (ws.map (·.outBits.length)).foldl (· + ·) 0) lens' (input.drop (blockSpan b)) (k - ws.length)

/-- Where a parse stands after so many code words: in no block (0, or 5 behind a FINAL one), in a stored one (1, FINAL 2) with so many bytes to come, in
a coded one (3, FINAL 4). -/
def parseMode (final : Bool) : List EddyBlock → Nat → List Nat → List Byte → Nat → Nat × Nat
  | [], _, _, _, _ => (if final then 5 else 0, 0)
  | b :: rest, pos, lens, input, k =>
    if k = 0 then (0, 0)
    else match blockWords b (final && rest.isEmpty) pos lens (input.take (blockSpan b)) with
      | none => (0, 0)
      | some (ws, lens') =>
        let last := (final && rest.isEmpty).toNat
        let stored := (((ws.headD ⟨0, []⟩).outBits.drop 1).take 2).all (!·)
        if k < ws.length then (if stored then (1 + last, ws.length - k) else (3 + last, 0))
        else parseMode final rest (pos + (ws.map (·.outBits.length)).foldl (· + ·) 0) lens' (input.drop (blockSpan b)) (k - ws.length)

/-- The code words that end an open block over its bytes: the rest of a stored block, or tokens and the end of a coded one; none when they cannot. -/
def openWords (mode left : Nat) (lens : List Nat) (tokens : List EddyToken) (bytes : List Byte) : Option (List CodeWord) :=
  if mode = 1 ∨ mode = 2 then (if bytes.length = left then some (bytes.map fun x => ⟨8, msbBits 8 x.toNat⟩) else none)
  else if mode = 3 ∨ mode = 4 then
    match allSome (tokens.map (tokenCode lens)), symbolBits (lens.take 285) 256 with
    | some ws, some eob => some ((List.zipWith (fun (k : EddyToken) w => ⟨8 * tokenSpan k, w⟩) tokens ws) ++ [⟨0, eob⟩])
    | _, _ => none
  else if tokens.isEmpty then some [] else none

/-- The bytes of the open block under a plan. -/
def planSpan (mode left : Nat) (plan : List EddyToken × List EddyBlock) : Nat :=
  if mode = 1 ∨ mode = 2 then left else (plan.1.map tokenSpan).foldl (· + ·) 0

/-- The code words of the rest of a stream from within a parse, and the tables after them: the open block ended with some tokens, then blocks. None when
they do not spell the input under R287 to R289, FINAL included. -/
def restWords (final : Bool) (mode left : Nat) (hist : List Byte) (lens : List Nat) (pos : Nat) (input : List Byte)
    (plan : List EddyToken × List EddyBlock) : Option (List CodeWord × List Nat) :=
  let n := planSpan mode left plan
  let all := (if mode = 1 ∨ mode = 2 then (input.take n).map EddyToken.lit else plan.1) ++ (plan.2.map (·.tokens)).flatten
  let ends := mode == 2 || mode == 4 || mode == 5
  if expand all hist ≠ some (input.reverse ++ hist) ∨ (ends ∧ (!plan.2.isEmpty || !final)) ∨ (final ∧ !ends ∧ plan.2.isEmpty) then none
  else match openWords mode left lens plan.1 (input.take n) with
    | none => none
    | some ws =>
      match parseWords final plan.2 (pos + (ws.map (·.outBits.length)).foldl (· + ·) 0) lens (input.drop n) with
      | none => none
      | some (more, lens') => some (ws ++ more, lens')

/-- The plan that ends an open block as soon as it can and stores the rest. -/
def storedRest (mode left : Nat) (input : List Byte) : List EddyToken × List EddyBlock :=
  let n := if mode = 1 ∨ mode = 2 then left else 0
  ([], storedParse input.length (input.drop n))

end Sys2Proof.Machine
end

