-- ==== Sys2Proof/Machine/Maps.lean ====
section
/-!
DEFINITION. Map containers, UNIF and WEAR: checks, corrections, the ledger and the wear gain map
(05_uniformity_and_wear.md).
-/

namespace Sys2Proof.Machine

/-! Map containers (R104 to R107). -/

/-- A container's header. -/
structure MapHead where
  magic : Nat
  layers : Nat
  kind : Nat
  major : Nat
  minor : Nat
  height : Nat
  width : Nat
  groups : Nat
  total : Nat
  indexOff : Nat
  gridOff : Nat
  gridStride : Nat
  dataOff : Nat
  anchors : List Nat
  indexCrc : Nat
  gridCrc : Nat
  headerCrc : Nat
deriving DecidableEq, Repr

/-- The header that 128 bytes spell. -/
def headOf (l : List Byte) : MapHead :=
  let w := fun o => leAt l o 4
  ⟨w 0, bits (w 4) 25 24, bits (w 4) 23 16, bits (w 4) 15 8, bits (w 4) 7 0, bits (w 8) 31 16, bits (w 8) 15 0,
   bits (w 0xC) 15 0, w 0x10, w 0x14, w 0x18, w 0x1C, w 0x20, (List.range 9).map (fun k => bits (w (0x24 + 4 * k)) 19 0),
   w 0x48, w 0x4C, w 0x7C⟩

/-- The header of the container at a Hold address. -/
def State.mapHead (s : State) (a : Nat) : MapHead := headOf (s.holdBytes a 128)

/-- Whether a full-resolution layer is present. -/
def MapHead.full (h : MapHead) : Bool := bit h.layers 0
/-- Whether a grid is present. -/
def MapHead.grid (h : MapHead) : Bool := bit h.layers 1

/-- Columns of grid nodes (R102). -/
def gridCols (hActive : Nat) : Nat := (hActive - 1) / 16 + 2
/-- Rows of grid nodes. -/
def gridRows (vActive : Nat) : Nat := (vActive - 1) / 16 + 2

/-- An index entry (R105): offset, length, CRC, RAW, IDENT. -/
structure MapEntry where
  off : Nat
  len : Nat
  crc : Nat
  raw : Bool
  ident : Bool
deriving DecidableEq, Repr

/-- The index entry that 16 bytes spell. -/
def entryOf (l : List Byte) : MapEntry :=
  ⟨leAt l 0 4, leAt l 4 4, leAt l 8 4, bit (leAt l 12 4) 0, bit (leAt l 12 4) 1⟩

/-- Index entry g of a container. -/
def State.mapEntry (s : State) (a : Nat) (h : MapHead) (g : Nat) : MapEntry := entryOf (s.holdBytes (a + h.indexOff + 16 * g) 16)

/-- Whether two ranges of bytes (start, length) meet. -/
def rangesMeet (a b : Nat × Nat) : Bool := decide (a.1 < b.1 + b.2) && decide (b.1 < a.1 + a.2)

/-- The ranges a container's header, index and grid take. -/
def MapHead.ranges (h : MapHead) : List (Nat × Nat) :=
  [(0, 128), (h.indexOff, 16 * h.groups)] ++
    (if h.grid then [(h.gridOff, h.gridStride * gridRows h.height)] else [])

/-- The end of the data area: the start of the next part above it, or the end of the container. -/
def MapHead.dataEnd (h : MapHead) : Nat :=
  (h.ranges.map (·.1)).foldl (fun e x => if h.dataOff < x ∧ x < e then x else e) h.total

/-- Whether offsets and sizes fit together (R108, cause 0x5); without a grid, its offset and stride are not judged (DESIGN CHOICE, log 105). -/
def MapHead.layoutOk (h : MapHead) : Bool :=
  let rs := h.ranges
  h.indexOff % 32 == 0 && (!h.grid || (h.gridOff % 32 == 0 && h.gridStride % 32 == 0 &&
      decide (54 * gridCols h.width ≤ h.gridStride))) && h.dataOff % 32 == 0 && decide (h.dataOff ≤ h.total) &&
    rs.all (fun r => decide (r.1 + r.2 ≤ h.total)) && rs.all (fun r => !rangesMeet r (h.dataOff, 1)) &&
    (List.range rs.length).all fun i => (List.range i).all fun j => !rangesMeet (rs.getD i (0, 0)) (rs.getD j (0, 0))

/-- Whether a list of numbers strictly rises. -/
def strictlyRising : List Nat → Bool
  | [] => true
  | [_] => true
  | a :: b :: rest => decide (a < b) && strictlyRising (b :: rest)

/-- The reaches of a stage of output n. -/
def State.stageReaches (s : State) (n type : Nat) : List Nat :=
  match (s.cfg n).stage type with
  | some st => st.reaches
  | none => []

/-- The cause a container check ends with (R108), 0 when the map is valid. -/
def State.mapCause (s : State) (n : Nat) (field : Bool) : Nat :=
  let a := 32 * s.get (if field then F.unifFieldAddrAddr n else F.unifBaseAddrAddr n)
  let h := s.mapHead a
  let entries := (List.range h.groups).map (s.mapEntry a h)
  let lockedAt := 32 * s.act (F.unifBaseAddrAddr n)
  if h.magic ≠ 0x50414D55 ∨ h.major ≠ 1 ∨ h.minor ≠ 0 then 0x1
  else if h.kind ≠ field.toNat ∨ h.layers = 0 then 0x2
  else if h.width ≠ s.hActive n ∨ h.height ≠ s.vActive n then 0x3
  else if h.groups ≠ ceilDiv h.height 16 then 0x4
  else if !h.layoutOk then 0x5
  else if 0x40000000 < a + h.total then 0x6
  else if !strictlyRising h.anchors then 0x7
  else if h.headerCrc ≠ crc32c (s.holdBytes a 124) then 0x8
  else if h.indexCrc ≠ crc32c (s.holdBytes (a + h.indexOff) (16 * h.groups)) then 0x9
  else if h.grid ∧ h.gridCrc ≠ crc32c (s.holdBytes (a + h.gridOff) (h.gridStride * gridRows h.height)) then 0xA
  else if entries.any (fun e => !e.ident && (e.off % 32 != 0 || decide (e.off < h.dataOff) || decide (h.dataEnd < e.off + e.len)))
    then 0xB
  else if (s.stageReaches n 5).any (fun r => (s.firstBarred (0x60 + r) a h.total false).isSome) then 0xC
  else if !field && s.get (F.unifBaseLockState n) != 0 && a != lockedAt then 0xD
  else 0

/-! Bringing maps into use (R108, R109). -/

/-- The state of a map of output n. -/
def State.mapUse (s : State) (n : Nat) (field : Bool) : MapUse := if field then (s.outp n).field else (s.outp n).base

/-- The state of a map changed. -/
def State.setMapUse (s : State) (n : Nat) (field : Bool) (f : MapUse → MapUse) : State :=
  s.setOut n fun o => if field then { o with field := f o.field } else { o with base := f o.base }

/-- The fields of a map's registers: its address, VALID, APPLIED, enable. -/
def mapAddrF (n : Nat) (field : Bool) : Field := if field then F.unifFieldAddrAddr n else F.unifBaseAddrAddr n
/-- VALID. -/
def mapValidF (n : Nat) (field : Bool) : Field := if field then F.unifFieldStatusValid n else F.unifBaseStatusValid n
/-- BUSY. -/
def mapBusyF (n : Nat) (field : Bool) : Field := if field then F.unifFieldStatusBusy n else F.unifBaseStatusBusy n
/-- CAUSE. -/
def mapCauseF (n : Nat) (field : Bool) : Field := if field then F.unifFieldStatusCause n else F.unifBaseStatusCause n
/-- APPLIED. -/
def mapAppliedF (n : Nat) (field : Bool) : Field := if field then F.unifFieldStatusApplied n else F.unifBaseStatusApplied n
/-- The layer enable. -/
def mapEnF (n : Nat) (field : Bool) : Field := if field then F.unifCtrlFieldEn n else F.unifCtrlBaseEn n

/-- Whether a map's layers contribute (R109, R111, R113). -/
def State.mapApplies (s : State) (n : Nat) (field : Bool) : Bool :=
  (s.cfg n).has 5 && s.actOn (mapEnF n field) && s.hasLanded (mapAddrF n field).addr && !(s.mapUse n field).dead &&
    (field || s.get (F.unifBaseLockState n) != 4)

/-- APPLIED as it stands. -/
def State.showApplied (s : State) (n : Nat) (field : Bool) : State :=
  s.put (mapAppliedF n field) (s.mapApplies n field).toNat

/-- A map address at a Landing (R12, R109): a written shadow that differs from the address in use, or has never landed,
lands when VALID. -/
def State.mapAddrLand (s : State) (n : Nat) (field : Bool) : State :=
  let f := mapAddrF n field
  if !s.isWritten f.addr then s
  else if s.on (mapValidF n field) then
    ((s.putAct f (s.get f)).setLanded f.addr).setMapUse n field fun m =>
      { m with used := m.checked, dead := false, layer := if s.act f = s.get f then m.layer else none }
  else if s.act f = s.get f ∧ s.hasLanded f.addr then s
  else s.raise (evOut n 25)

/-- A map whose size no longer matches the raster that landed stops contributing (R109). -/
def State.mapRasterLand (s : State) (n : Nat) (field : Bool) : State :=
  let m := s.mapUse n field
  if s.hasLanded (mapAddrF n field).addr && !m.dead && m.used != (s.hActive n, s.vActive n) then
    ((s.put (mapValidF n field) 0).setMapUse n field fun m => { m with dead := true }).raise (evOut n 25)
  else s

/-- UNIF at a Landing. -/
def State.unifLand (s : State) (n : Nat) : State :=
  if !(s.cfg n).has 5 then s
  else
    let t := ((((s.mapAddrLand n false).mapAddrLand n true).mapRasterLand n false).mapRasterLand n true)
    (t.showApplied n false).showApplied n true

/-! The correction (R100 to R103). -/

/-- The reach of a stage that takes line group g, as a master (R76). -/
def State.groupMaster (s : State) (n type g : Nat) : Nat :=
  let r := s.stageReaches n type
  0x60 + r.getD (g % max 1 r.length) 0

/-- A record of a container read and decoded by the reach that takes the group, its index entry before it: `per` rows of samples for each line; none
when the reach's rights, an uncorrectable word, the CRC or the decode fail (R58, R110), every value 0 for an IDENT entry. -/
def State.readRecord (s : State) (m a : Nat) (h : MapHead) (g per : Nat) : Option (List (List Nat)) × State :=
  let rows := per * min 16 (h.height - 16 * g)
  let i := s.readAs m (a + h.indexOff + 16 * g) 16
  match i.1.map entryOf with
  | none => (none, i.2)
  | some e =>
    if e.ident then (some (List.replicate rows (List.replicate h.width 0)), i.2)
    else
      let r := i.2.readAs m (a + e.off) e.len
      match r.1 with
      | none => (none, r.2)
      | some l =>
        if (r.2.runFault (a + e.off) e.len).isNone ∧ crc32c l = e.crc then (decodeRecord e.raw 8 h.width rows l, r.2) else (none, r.2)

/-- The two grid rows under line group g read by the reach that takes it (R102, R107); none of one that it may not read. -/
def State.readGrid (s : State) (m a : Nat) (h : MapHead) (g : Nat) : List (List Byte) × State :=
  if !h.grid then ([], s)
  else
    let r0 := s.readAs m (a + h.gridOff + g * h.gridStride) (54 * gridCols h.width)
    let r1 := r0.2.readAs m (a + h.gridOff + (g + 1) * h.gridStride) (54 * gridCols h.width)
    ((match r0.1, r1.1 with
      | some x, some y => [x, y]
      | _, _ => []), r1.2)

/-- A group that contributes 0, counted and told (R110). -/
def State.noteDecodeErr (s : State) (n : Nat) : State := (s.count (F.unifDecodeErrsCount n) 1).raise (evOut n 26)

/-- The layers of a uniformity map for line group g, read once for each frame and group by the reach that takes it: header, index entry and record, grid
rows (R105 to R107). -/
def State.loadLayer (s : State) (n : Nat) (field : Bool) (g : Nat) : State :=
  let a := 32 * s.act (mapAddrF n field)
  let m := s.groupMaster n 5 g
  if !s.mapApplies n field || ((s.mapUse n field).layer.map (·.group)) == some g then s
  else
    let hr := s.readAs m a 128
    match hr.1.map headOf with
    | none => hr.2.setMapUse n field fun u => { u with layer := some ⟨g, [], [], []⟩ }
    | some h =>
      let r := if h.full then hr.2.readRecord m a h g 6 else (some [], hr.2)
      let q := r.2.readGrid m a h g
      let t := q.2.setMapUse n field fun u => { u with layer := some ⟨g, r.1.getD [], q.1, h.anchors⟩ }
      if r.1.isNone then t.noteDecodeErr n else t

/-- The gain and offset contribution of a full-resolution layer to component c of a pixel (R101). -/
def layerPart (layer : List (List Nat)) (l c x : Nat) : Int × Int :=
  match layer[6 * l + c]?, layer[6 * l + 3 + c]? with
  | some gains, some offs => (sval 8 (gains.getD x 0) * 2048, sval 6 (offs.getD x 0) * 64)
  | _, _ => (0, 0)

/-- The exact spatial sums of a grid at an anchor: gains and offsets (R102). -/
def gridSums (entry : Nat → Nat → Nat) (x y : Nat) : Int × Int :=
  let fx := x % 16
  let fy := y % 16
  let nodes : List (Nat × Nat × Nat) :=
    [((16 - fx) * (16 - fy), x / 16, y / 16), (fx * (16 - fy), x / 16 + 1, y / 16),
     ((16 - fx) * fy, x / 16, y / 16 + 1), (fx * fy, x / 16 + 1, y / 16 + 1)]
  nodes.foldl (fun (acc : Int × Int) p =>
    let e := entry p.2.1 p.2.2
    (acc.1 + (p.1 : Int) * sval 10 (e / 64), acc.2 + (p.1 : Int) * sval 6 e)) (0, 0)

/-- The contribution of a grid to a component at level v (R102). -/
def gridPart (entry : Nat → Nat → Nat → Nat) (anchors : List Nat) (v x y : Nat) : Int × Int :=
  let a := fun k => anchors.getD k 0
  let at' := fun k => gridSums (entry k) x y
  if v ≤ a 0 then (2 * (at' 0).1, rheDiv (at' 0).2 4)
  else if a 8 ≤ v then (2 * (at' 8).1, rheDiv (at' 8).2 4)
  else
    let k := ((List.range 8).find? fun k => decide (a k ≤ v) && decide (v < a (k + 1))).getD 0
    let d := a (k + 1) - a k
    let lo : Int := (a (k + 1) - v : Nat)
    let hi : Int := (v - a k : Nat)
    let p := at' k
    let q := at' (k + 1)
    (rheDiv ((lo * p.1 + hi * q.1) * 2) d, rheDiv (lo * p.2 + hi * q.2) (4 * d))

/-- The contributions of a map to component c of pixel (x, y) at level v. -/
def State.mapPart (s : State) (n : Nat) (field : Bool) (c x y v : Nat) : Int × Int :=
  match (if s.mapApplies n field then (s.mapUse n field).layer else none) with
  | none => (0, 0)
  | some u =>
    let full := layerPart u.rows (y % 16) c x
    let grid := if u.grid.isEmpty then (0, 0)
      else gridPart (fun k gx gy => leAt (u.grid.getD (gy - u.group) []) (54 * gx + 2 * (3 * k + c)) 2) u.anchors v x y
    (full.1 + grid.1, full.2 + grid.2)

/-- Line y through UNIF (R103). -/
def State.unifRow (s : State) (n y : Nat) (r : Row) : Row × State :=
  if !(s.cfg n).has 5 then (r, s)
  else
    let t := (s.loadLayer n false (y / 16)).loadLayer n true (y / 16)
    (mkRow r.c0.length fun c x =>
      let v := (r.comp c).getD x 0
      let b := t.mapPart n false c x y v
      let f := t.mapPart n true c x y v
      let gain := clampI 0 0x200000 (0x100000 + b.1 + f.1)
      (clampI 0 0xFFFFF (rhe 20 ((v : Int) * gain) + b.2 + f.2)).toNat, t)

/-! Locking the base map (R112 to R114). -/

/-- The bank locks of a range set or cleared. -/
def State.setLocked (s : State) (first count : Nat) (b : Bool) : State :=
  (List.range count).foldl (fun t k => t.put (F.holdOwnerLocked (first + k)) b.toNat) s

/-- The active base map of output n locked. -/
def State.lockBase (s : State) (n : Nat) : State :=
  let a := 32 * s.act (F.unifBaseAddrAddr n)
  let total := (s.mapHead a).total
  let first := bankOf a
  let count := bankOf (a + total - 1) - first + 1
  (s.puts [(F.unifBaseLockState n, 1), (F.unifBaseLockLock n, 1), (F.unifLockRangeFirstBank n, first),
    (F.unifLockRangeBankCount n, count)]).setLocked first count true

/-- A lock that has ended (R114): STATE 0, VALID clear, the base layer contributing 0; banks under no other output's lock are
free to be written again. -/
def State.unlockBase (s : State) (n : Nat) : State :=
  let first := s.get (F.unifLockRangeFirstBank n)
  let count := s.get (F.unifLockRangeBankCount n)
  let t := ((s.setLocked first count false).puts [(F.unifBaseLockState n, 0), (F.unifBaseLockLock n, 0),
    (F.unifLockRangeFirstBank n, 0), (F.unifLockRangeBankCount n, 0), (F.unifBaseStatusValid n, 0)]).setMapUse n false
      fun m => { m with dead := true }
  let u := (List.range 4).foldl (fun u k =>
    if u.get (F.unifBaseLockState k) ≠ 0 then
      u.setLocked (u.get (F.unifLockRangeFirstBank k)) (u.get (F.unifLockRangeBankCount k)) true else u) t
  u.showApplied n false

/-! The wear lift (R115, R116). -/

/-- WEAR's state of output n. -/
def State.wearOf (s : State) (n : Nat) : WearState := (s.outp n).wear

/-- WEAR's state changed. -/
def State.setWear (s : State) (n : Nat) (f : WearState → WearState) : State :=
  s.setOut n fun o => { o with wear := f o.wear }

/-- Whether a header is that of a wear map of output n's size: the tests of R108 that a KIND 2 container can be put to (DESIGN CHOICE, log 105: the spec gives
no check for it). -/
def State.wearHeadOk (s : State) (n : Nat) (l : List Byte) : Bool :=
  let h := headOf l
  h.magic == 0x50414D55 && h.major == 1 && h.minor == 0 && h.kind == 2 && h.full && h.width == s.hActive n && h.height == s.vActive n &&
    h.headerCrc == crc32c (l.take 124)

/-- The lift codes of line group g, read and decoded once for each frame and group. -/
def State.loadWear (s : State) (n g : Nat) : State :=
  if !s.actOn (F.wearCtrlLiftEn n) || ((s.wearOf n).layer.map (·.1)) == some g then s
  else if !s.hasLanded (R.wearMapBase n) then s.setWear n fun w => { w with layer := some (g, []) }
  else
    let a := 32 * s.act (F.wearMapBaseAddr n)
    let m := s.groupMaster n 6 g
    let hr := s.readAs m a 128
    match hr.1 with
    | none => hr.2.setWear n fun w => { w with layer := some (g, []) }
    | some l =>
      if !hr.2.wearHeadOk n l then hr.2.setWear n fun w => { w with layer := some (g, []) }
      else
        let r := hr.2.readRecord m a (headOf l) g 3
        let t := r.2.setWear n fun w => { w with layer := some (g, r.1.getD []) }
        if r.1.isNone then t.noteDecodeErr n else t

/-- The lift code of a subpixel. -/
def State.liftCode (s : State) (n c x y : Nat) : Nat :=
  if !s.actOn (F.wearCtrlLiftEn n) then 0
  else match (s.wearOf n).layer with
    | some (_, rows) => (rows.getD (3 * (y % 16) + c) []).getD x 0
    | none => 0

/-- A subpixel lifted (R115). -/
def lift (cap w v : Nat) : Nat := max v (min (rhe 10 ((v * (1024 + w) : Nat) : Int)).toNat cap)

/-- Line y through WEAR, its pins counted. -/
def State.wearRow (s : State) (n y : Nat) (r : Row) : Row × State :=
  if !(s.cfg n).has 6 then (r, s)
  else
    let t := s.loadWear n (y / 16)
    let cap := t.act (F.wearPeakCapCap n)
    let most := t.act (F.wearLiftMaxCode n)
    let out := mkRow r.c0.length fun c x => lift cap (min (t.liftCode n c x y) most) ((r.comp c).getD x 0)
    let subs := ((List.range 3).map fun c => (List.range r.c0.length).map fun x =>
      (t.liftCode n c x y, (r.comp c).getD x 0)).flatten
    let pinLift := (subs.filter fun p => decide (most < p.1)).length
    let pinPeak := (subs.filter fun p =>
      decide (0 < min p.1 most) && decide (cap * 1024 < p.2 * (1024 + min p.1 most))).length
    let u := (t.count (F.wearPinLiftCount n) pinLift).count (F.wearPinPeakCount n) pinPeak
    (out, if pinLift + pinPeak = 0 then u else u.setWear n fun w => { w with pinned := true })

/-- The maps at the Landing point from which a new frame is read: every group is decoded anew, the pins of the frame that
closes are kept for its end. -/
def State.mapsFrame (s : State) (n : Nat) : State :=
  s.setOut n fun o => { o with
    base := { o.base with layer := none }, field := { o.field with layer := none },
    wear := { o.wear with layer := none, pinnedEnd := o.wear.pinned, pinned := false } }

/-- WEAR as its output stops (R116): the frame that ends tells of its pins; rows read behind its Landing point belong to a frame that does not
begin. -/
def State.wearStop (s : State) (n : Nat) : State :=
  let w := s.wearOf n
  let pins := if (s.outp n).landed then w.pinnedEnd else w.pinned
  (s.raiseIf pins (evOut n 28)).setWear n fun w => { w with pinned := false, pinnedEnd := false }

/-! The ledger (R117 to R122). -/

/-- Whether WEAR's ledger and map registers have been written (R12). -/
def State.wearReady (s : State) (n : Nat) : Bool :=
  [R.wearLedgerLo n, R.wearLedgerHi n, R.wearLedgerStride n, R.wearMapBase n, R.wearMapBytes n].all s.isWritten

/-- The DMA channel of the stage. -/
def State.wearCh (s : State) (n : Nat) : Nat := s.act (F.wearCtrlDmaCh n)

/-- Whether a stage of an active set names DMA channel ch (R277). -/
def State.channelNamed (s : State) (ch : Nat) : Bool :=
  (List.range 4).any fun n =>
    (s.cfg n).has 6 && (s.actOn (F.wearCtrlSampleEn n) || s.actOn (F.wearCtrlGenEn n)) && s.wearCh n == ch

/-- HELD of a channel as the active sets name it (R277): it begins when the channel is IDLE. -/
def State.holdChannel (s : State) (ch : Nat) : State :=
  if s.channelNamed ch then
    (if s.get (F.dmaStatusState ch) = 0 then s.put (F.dmaStatusHeld ch) 1 else s)
  else s.put (F.dmaStatusHeld ch) 0

/-- HELD of every channel. -/
def State.holdChannels (s : State) : State := (List.range 32).foldl (fun t ch => t.holdChannel ch) s

/-- Whether SLACK_POLICY keeps the ledger's traffic off the host link (R122). -/
def State.slackStops (s : State) (n : Nat) : Bool := (s.outp n).inSlack && s.actOn (F.wearCtrlSlackPolicy n)

/-- Whether the stage samples: enabled, its registers written, not halted, not stopped by Slack. -/
def State.wearSamples (s : State) (n : Nat) : Bool :=
  (s.cfg n).has 6 && s.actOn (F.wearCtrlSampleEn n) && s.wearReady n && !s.on (F.wearStatusHalted n) &&
    !s.slackStops n

/-- The host address of a ledger row. -/
def State.ledgerRow (s : State) (n y : Nat) : Nat :=
  32 * s.act (F.wearLedgerLoAddr n) + 2 ^ 32 * s.act (F.wearLedgerHiAddr n) + y * (32 * s.act (F.wearLedgerStrideBytes n))

/-- Bytes of a ledger row. -/
def State.ledgerBytes (s : State) (n : Nat) : Nat := 12 * s.hActive n

/-- LEDGER_IDLE as it stands. -/
def State.showLedger (s : State) (n : Nat) : State :=
  let w := s.wearOf n
  s.put (F.wearStatusLedgerIdle n) (w.reading.isEmpty && w.writing.isEmpty && w.wanted.isEmpty).toNat

/-- Reads of ledger rows given up: their requests in flight come back for nothing. -/
def State.dropReads (s : State) (n : Nat) (sel : LedgerRead → Bool) : State :=
  let gone := (s.wearOf n).reading.filter sel
  (s.setChan (s.wearCh n) fun c => { c with orphans := c.orphans + (gone.map (·.out)).sum }).setWear n fun w =>
    { w with reading := w.reading.filter fun r => !sel r }

/-- Sampling stopped (R122); the transfers already issued complete (R274). A frame with rows left to sample counts as not sampled. -/
def State.wearHalt (s : State) (n : Nat) (tell : Bool) : State :=
  let lost := if (s.wearOf n).rowsLeft.isEmpty then 0 else 1
  let t := (((s.put (F.wearStatusHalted n) 1).count (F.wearUnsampledCount n) lost).dropReads n fun _ => true).setWear n fun w =>
    { w with owed := [], ready := [], wanted := [], rowsLeft := [], begun := [] }
  (t.showLedger n).raiseIf tell (evOut n 30)

/-- Whether a channel has halted or is frozen. -/
def State.chanStopped (s : State) (ch : Nat) : Bool := s.frozen (0x10 + ch) || s.get (F.dmaStatusState ch) == 3

/-- Sampling stopped on every output that samples through a channel that has halted or is frozen (R122). -/
def State.ledgerStop (s : State) (ch : Nat) : State :=
  if s.chanStopped ch then
    (List.range 4).foldl (fun t n =>
      if (t.cfg n).has 6 && t.actOn (F.wearCtrlSampleEn n) && t.wearCh n == ch && !t.on (F.wearStatusHalted n)
        then t.wearHalt n true else t) s
  else s

/-- A host request of a stage through the channel it holds (R277): `k` is its issue. -/
def State.stageRequest (s : State) (ch a n : Nat) (write : Bool) (k : State → State) : State :=
  if !s.on (F.dmaStatusHeld ch) || s.chanStopped ch then s
  else (s.chanRequest ch a n write false k).ledgerStop ch

/-- Whether the generator's read of a row may go out: none while the row is on its way back to the host (R120), none that would wake the link in Slack
(R122). -/
def State.genMay (s : State) (n y : Nat) : Bool := !(s.wearOf n).writing.any (·.1 == y) && !s.slackStops n

/-- The next host request of output n's ledger (R120, R265, R277), if one may be issued: the flush read of a row written back, else a read of
the next bytes of a row, under the caps of the channel that the stage holds and its rate. -/
def State.ledgerNext (s : State) (n : Nat) : Option State :=
  let ch := s.wearCh n
  let w := s.wearOf n
  let size := s.ledgerBytes n
  if !s.on (F.dmaStatusHeld ch) || s.chanStopped ch || !s.npFree ch then none
  else match w.writing.find? (!·.2) with
    | some p =>
      let a := (s.ledgerRow n p.1 + size - 1) / 4 * 4
      some (s.stageRequest ch a 4 false fun t => (t.npIssue ch a 4).setWear n fun w => { w with
        writing := w.writing.map fun q => if q.1 = p.1 then (q.1, true) else q })
    | none => match w.reading.find? fun r => decide (r.next < size) && (!r.gen || s.genMay n r.row) with
      | none => none
      | some r =>
        let a := s.ledgerRow n r.row + r.next
        let k := ((linkPieces (s.readMost (s.chanFn ch)) size a (size - r.next)).headD (a, 0)).2
        if !s.hasTokens ch k then none
        else some (s.stageRequest ch a k false fun t => ((t.npIssue ch a k).charge ch k).setWear n fun w => { w with
          reading := w.reading.map fun q => if q.row = r.row ∧ q.gen = r.gen then { q with next := q.next + k, out := q.out + 1 } else q })

/-- Output n's ledger issues whatever it may, over at most so many requests. -/
def State.ledgerRun : Nat → State → Nat → State
  | 0, s, _ => s
  | fuel + 1, s, n =>
    match s.ledgerNext n with
    | some t => t.ledgerRun fuel n
    | none => s

/-- The read of a ledger row asked for, a transfer that starts (R362), or kept until its write-back has completed (R120); nothing while the stage does
not hold its channel (R277). -/
def State.askLedger (s : State) (n y : Nat) : State :=
  if (s.wearOf n).writing.any (·.1 == y) then s.setWear n fun w => { w with wanted := w.wanted ++ [y] }
  else if !s.on (F.dmaStatusHeld (s.wearCh n)) || s.chanStopped (s.wearCh n) then s
  else (s.setWear n fun w => { w with reading := w.reading ++ [⟨y, false, 0, 0, []⟩] }).sendLtr 20000

/-- The read of a ledger row asked for, and issued as far as it may be. -/
def State.readLedger (s : State) (n y : Nat) : State := (s.askLedger n y).ledgerRun 4096 n

/-- A transfer of a ledger row that a bus error ended, on its read or on its flush read (R122, R274, R277). -/
def State.ledgerError (s : State) (n addr code : Nat) (flush : Bool) : State :=
  (s.chanHalt (s.wearCh n) code addr false false flush).ledgerStop (s.wearCh n)

/-- The rows of the stripe of the current frame. -/
def State.stripeRows (s : State) (n : Nat) : List Nat :=
  (List.range (s.vActive n)).filter fun y => (y + s.get (F.wearStatusRotate n)) % 64 == s.get (F.wearStatusStripe n)

/-- A row that was not sampled: owed, or lost when owed already (R118, R121). -/
def State.oweRow (s : State) (n y : Nat) : State :=
  if (s.wearOf n).owed.contains y then s.count (F.wearLedgerLostCount n) 1
  else s.setWear n fun w => { w with owed := keyInsert w.owed y }

/-- FRAME_ID of output n, 64 bits. -/
def State.frameId (s : State) (n : Nat) : Nat :=
  s.get (F.tgFrameIdLoCount n) + 2 ^ 32 * s.get (F.tgFrameIdHiCount n)

/-- WEAR at a frame start: the end of the frame before, the stripe, the rotation of a new cycle, the reads of the stripe's
rows. `kind` is the frame's kind, `held` whether a freeze holds it. SHUFFLE that lands within a cycle takes the value drawn last (DESIGN CHOICE,
log 104), and while SAMPLE_EN is 0 no frame is counted or owed (DESIGN CHOICE, log 109). -/
def State.wearFrame (s : State) (n kind : Nat) (held : Bool) : State :=
  if !(s.cfg n).has 6 then s
  else
    let s0 := (s.raiseIf (s.wearOf n).pinnedEnd (evOut n 28)).setWear n fun w => { w with pinnedEnd := false }
    if kind ≠ 0 then (if s.actOn (F.wearCtrlSampleEn n) then s0.count (F.wearUnsampledCount n) 1 else s0)
    else
      let f := s.frameId n
      let draws := f % 64 = 0 ∧ s.actOn (F.wearCtrlShuffle n)
      let s1 := if draws then (s0.setWear n fun w => { w with rho := s.free % 64 }).bumpFree else s0
      let rho := if s1.actOn (F.wearCtrlShuffle n) then (s1.wearOf n).rho else 0
      let s2 := (s1.puts [(F.wearStatusStripe n, f % 64), (F.wearStatusRotate n, rho)]).setWear n fun w =>
        { w with ready := [], rowsLeft := [], begun := [] }
      if !s2.actOn (F.wearCtrlSampleEn n) then s2
      else if !s2.wearSamples n then
        (if s2.slackStops n && !s2.on (F.wearStatusHalted n) then s2.wearHalt n false
          else s2).count (F.wearUnsampledCount n) 1
      else if s2.chanStopped (s2.wearCh n) then (s2.wearHalt n true).count (F.wearUnsampledCount n) 1
      else if held then
        ((s2.stripeRows n).foldl (fun t y => t.oweRow n y) s2).count (F.wearUnsampledCount n) 1
      else ((s2.stripeRows n).foldl (fun t y => t.readLedger n y) (s2.setWear n fun w =>
        { w with rowsLeft := s2.stripeRows n })).showLedger n

/-- The stress rate of a drive value (R119). -/
def State.stress (s : State) (n c d : Nat) : Nat :=
  let l := fun i => s.tbl n 6 0 (s.act (F.wearCtrlTblBank n)) (257 * c + min i 256)
  let i := d / 1024
  ((l i : Int) + rhe 10 (((l (i + 1) : Int) - (l i : Int)) * ((d % 1024 : Nat) : Int))).toNat

/-- The increment of a subpixel, at weight 64 or, owed, 128. -/
def State.increment (s : State) (n c d : Nat) (owed : Bool) : Nat :=
  (rhe (if owed then 5 else 6) ((s.stress n c d * s.act (F.wearTempFactorFactor n) : Nat) : Int)).toNat

/-- A ledger row with the increments of a row of drive added, and the words that saturated. -/
def State.ledgerAdd (s : State) (n : Nat) (row : List Byte) (drive : Row) (owed : Bool) : List Byte × Nat :=
  let sums := ((List.range drive.c0.length).map fun x => (List.range 3).map fun c =>
    leAt row (12 * x + 4 * c) 4 + s.increment n c (min 0x40000 ((drive.comp c).getD x 0)) owed).flatten
  ((sums.map fun v => leBytes 4 (min v 0xFFFFFFFF)).flatten, (sums.filter fun v => decide (0xFFFFFFFF < v)).length)

/-! Building the wear gain map (R123 to R126). -/

/-- The efficiency of a ledger value under the curve of component c (R123). -/
def State.efficiency (s : State) (n c l : Nat) : Nat :=
  let bank := s.act (F.wearCtrlTblBank n)
  let curve := s.act (if c = 0 then F.wearCurveSelCurveC0 n else if c = 1 then F.wearCurveSelCurveC1 n else F.wearCurveSelCurveC2 n)
  let e := fun j => s.tbl n 6 1 bank (65 * curve + j)
  let h := min 25 (s.tbl n 6 2 bank curve % 32)
  let x := min l (64 * 2 ^ h)
  let j := x / 2 ^ h
  if 64 ≤ j then e 64 else ((e j : Int) + rhe h (((e (j + 1) : Int) - (e j : Int)) * ((x - j * 2 ^ h : Nat) : Int))).toNat

/-- The lift code before it is held to 255 (R124). -/
def liftOf (e0 : Nat) : Nat :=
  let e := max 1 (min 0x8000 e0)
  (rheDiv (1024 * (0x8000 - e) : Nat) e).toNat

/-- The rows of lift codes of a group from its ledger rows, and the codes above 255. -/
def State.liftRows (s : State) (n : Nat) (rows : List (List Byte)) : List (List Nat) × Nat :=
  let all := (rows.map fun l => (List.range 3).map fun c => (List.range (s.hActive n)).map fun x =>
    liftOf (s.efficiency n c (leAt l (12 * x + 4 * c) 4))).flatten
  (all.map fun r => r.map (min 255), ((all.flatten).filter fun v => decide (255 < v)).length)

/-- The lowest-numbered reach hosting WEAR, as a master. -/
def State.wearMaster (s : State) (n : Nat) : Nat := 0x60 + (s.stageReaches n 6).headD 0

/-- The groups of the wear map. -/
def State.wearGroups (s : State) (n : Nat) : Nat := ceilDiv (s.vActive n) 16

/-- The data offset of a generated wear map. -/
def wearData (groups : Nat) : Nat := ceilDiv (128 + 16 * groups) 32 * 32

/-- The header of a generated wear map (R126). -/
def wearHeader (w h groups total : Nat) : List Byte :=
  let l := leBytes 4 0x50414D55 ++ leBytes 4 0x01020100 ++ leBytes 2 w ++ leBytes 2 h ++ leBytes 4 groups ++ leBytes 4 total ++
    leBytes 4 128 ++ leBytes 4 0 ++ leBytes 4 0 ++ leBytes 4 (wearData groups) ++ List.replicate 88 0
  l ++ leBytes 4 (crc32c l)

/-- An index entry's bytes. -/
def entryBytes (e : WearEntry) : List Byte := leBytes 4 e.off ++ leBytes 4 e.len ++ leBytes 4 e.crc ++ leBytes 4 e.raw.toNat

/-- Generation at a Landing (R12, R126): a new base takes a header and an index of IDENT entries. -/
def State.genStart (s : State) (n : Nat) : State :=
  let base := 32 * s.act (F.wearMapBaseAddr n)
  if !s.actOn (F.wearCtrlGenEn n) || !s.wearReady n || (s.wearOf n).base == some base then s
  else
    let g := s.wearGroups n
    let head := wearHeader (s.hActive n) (s.vActive n) g (32 * s.act (F.wearMapBytesBytes n))
    let index := (List.replicate g (leBytes 12 0 ++ leBytes 4 2)).flatten
    (((s.storeAs (s.wearMaster n) base (head ++ index)).dropReads n (·.gen)).setWear n fun w =>
      { w with base := some base, place := wearData g, entries := [], genRows := [], passStart := s.time.ticks }).put (F.wearGenStatusNextGroup n) 0

/-- The entries that waited take effect (R126). -/
def State.genEntries (s : State) (n : Nat) : State :=
  match (s.wearOf n).base with
  | none => s
  | some base =>
    if !s.wearReady n then s else
    ((s.wearOf n).entries.foldl (fun t e => t.storeAs (s.wearMaster n) (base + 128 + 16 * e.group) (entryBytes e)) s).setWear n
      fun w => { w with entries := [] }

/-- WEAR at a Landing: the entries, the channel's hold, the bank shown, HALTED, which goes once the channel runs again (R122). -/
def State.wearLand (s : State) (n : Nat) : State :=
  if !(s.cfg n).has 6 then s
  else
    let ch := s.wearCh n
    let wants := s.actOn (F.wearCtrlSampleEn n) || s.actOn (F.wearCtrlGenEn n)
    let off := wants && (!s.wearReady n || s.chanStopped ch || s.slackStops n)
    let s0 := if s.isWritten (R.wearMapBase n) then s.setLanded (R.wearMapBase n) else s
    let s1 := s0.puts [(F.wearStatusActiveBank n, s.act (F.wearCtrlTblBank n)),
      (F.wearStatusHalted n, (wants && (off && (s.on (F.wearStatusHalted n) || !s.wearReady n))).toNat)]
    (s1.genEntries n).genStart n

/-- The records of the wear map that an index entry, active or waiting, references. -/
def State.wearRecords (s : State) (n base : Nat) : List (Nat × Nat) :=
  let h := s.mapHead base
  let act := (List.range h.groups).filterMap fun g =>
    let e := s.mapEntry base h g
    if e.ident then none else some (e.off, e.len)
  act ++ (s.wearOf n).entries.map fun e => (e.off, e.len)

/-- A place for a record of so many bytes (R126): in order of writing from the place of the last one, wrapping, clear of
every record referenced. -/
def State.wearPlace (s : State) (n base len : Nat) : Option Nat :=
  let used := s.wearRecords n base
  let total := 32 * s.act (F.wearMapBytesBytes n)
  let lo := wearData (s.wearGroups n)
  let place := (s.wearOf n).place
  let spots := place :: lo :: used.map fun r => ceilDiv (r.1 + r.2) 32 * 32
  let free := spots.filter fun p => decide (lo ≤ p) && decide (p + len ≤ total) && used.all fun r => !rangesMeet (p, len) r
  let rank := fun p => if place ≤ p then p - place else p + total
  match free with
  | [] => none
  | p :: rest => some (rest.foldl (fun b q => if rank q < rank b then q else b) p)

end Sys2Proof.Machine
end

