-- ==== Sys2Proof/Machine/Drive.lean ====
section
/-!
DEFINITION. ODRV, DITH and PACK, and the rows of a frame from source to codes (06_overdrive_and_dither.md).
-/

namespace Sys2Proof.Machine

/-! ODRV (R128 to R139). -/

/-- ODRV's state of output n. -/
def State.odrvOf (s : State) (n : Nat) : OdrvState := (s.outp n).odrv

/-- ODRV's state changed. -/
def State.setOdrv (s : State) (n : Nat) (f : OdrvState → OdrvState) : State :=
  s.setOut n fun o => { o with odrv := f o.odrv }

/-- Band temperature k of a set of values. -/
def bandTemp (g : Field → Nat) (n k : Nat) : Int :=
  sval 16 (if k % 2 = 0 then g (F.odrvBandTEven n (k / 2)) else g (F.odrvBandTOdd n (k / 2)))

/-- Whether the band temperatures strictly rise (R132). -/
def bandsOk (g : Field → Nat) (n : Nat) : Bool :=
  (List.range 7).all fun k => decide (bandTemp g n k < bandTemp g n (k + 1))

/-- Bytes of a history row (R135). -/
def State.histRowBytes (s : State) (n : Nat) : Nat := ceilDiv (30 * s.hActive n) 8

/-- The keys of the history group. -/
def histKeys (n : Nat) : List Nat := [R.odrvHistBase0 n, R.odrvHistBase1 n, R.odrvHistStride n]

/-- The registers of the history group that a MODE uses (R137). -/
def histUsed (n mode : Nat) : List Nat :=
  if mode = 0 then [R.odrvHistBase0 n, R.odrvHistStride n] else histKeys n

/-- Whether a history buffer fits (R137). -/
def State.histFits (s : State) (n base stride : Nat) : Bool :=
  decide (s.histRowBytes n ≤ stride) && decide (base + stride * (s.vActive n - 1) + s.histRowBytes n ≤ 0x40000000)

/-- The history group at a Landing (R137); `modeChanged` says whether MODE has changed there. -/
def State.histLand (s : State) (n : Nat) (modeChanged : Bool) : State :=
  let mode := s.act (F.odrvCtrlMode n)
  let used := histUsed n mode
  let differs := (histKeys n).filter fun k => used.contains k && (s.reg k != s.actReg k || !s.hasLanded k)
  if !modeChanged && differs.isEmpty then s
  else if used.any (fun k => !s.isWritten k) then s
  else
    let stride := 32 * s.get (F.odrvHistStrideBytes n)
    let ok := s.histFits n (32 * s.get (F.odrvHistBase0Addr n)) stride &&
      (mode = 0 || s.histFits n (32 * s.get (F.odrvHistBase1Addr n)) stride)
    if ok then
      let t := (histKeys n).foldl (fun t k =>
        let u := t.setActReg k (t.reg k)
        if u.isWritten k then u.setLanded k else u) s
      if differs.isEmpty then t else t.put (F.odrvStatusHistAge n) 0
    else if (s.odrvOf n).told && !modeChanged then s
    else (s.setOdrv n fun o => { o with told := true }).raise (evOut n 13)

/-- The band temperatures at a Landing (R132). -/
def State.bandsLand (s : State) (n : Nat) : State :=
  if (List.range 4).all fun k => s.reg (R.odrvBand n k) == s.actReg (R.odrvBand n k) then s
  else if bandsOk s.get n then (List.range 4).foldl (fun t k => t.setActReg (R.odrvBand n k) (t.reg (R.odrvBand n k))) s
  else s.raise (evOut n 14)

/-- The band whose temperature lies at or below the frame's (R131). -/
def State.bandOf (s : State) (n : Nat) (t : Int) : Nat :=
  ((List.range 7).reverse.find? fun k => decide (bandTemp s.act n k ≤ t)).getD 0

/-- The temperature latched at a Landing point (R134). -/
def State.latchTemp (s : State) (n : Nat) : State :=
  if !(s.cfg n).has 7 then s
  else
    let t := (s.odrvOf n).temp
    s.puts [(F.odrvTempUsedTemp n, t), (F.odrvStatusBand n, min 6 (s.bandOf n (sval 16 t)))]

/-- A temperature accepted (R133): the timer restarts, STALE clears. -/
def State.acceptTemp (s : State) (n v : Nat) : State :=
  (s.setOdrv n fun o => { o with temp := v % 65536 }).put (F.odrvTempUsedStale n) 0

/-- The rate factor for a frame at refresh num / den (R139), against the nominal refresh of the OUTPUT record. -/
def State.rateFactor (s : State) (n num den : Nat) : Nat :=
  let c := s.cfg n
  if !s.actOn (F.odrvCtrlRateComp n) ∨ den * c.num = 0 then 0x8000
  else min 0x8000 (rheDiv (0x8000 * num * c.den : Nat) (den * c.num)).toNat

/-- What ODRV shows and forgets at a Landing (R138): `wasOn` and `wasMode` are EN and MODE before it, `raster` whether the
raster changed, `thawed` whether the route resumes after a freeze. -/
def State.odrvLand (s : State) (n : Nat) (wasOn : Bool) (wasMode : Nat) (raster thawed : Bool) : State :=
  if !(s.cfg n).has 7 then s
  else
    let modeChanged := s.act (F.odrvCtrlMode n) != wasMode
    let fresh := (s.actOn (F.odrvCtrlEn n) && !wasOn) || modeChanged || raster || thawed
    let s1 := (s.bandsLand n).histLand n modeChanged
    let s2 := if fresh then s1.put (F.odrvStatusHistAge n) 0 else s1
    s2.put (F.odrvStatusActiveBank n) (s.act (F.odrvCtrlTblBank n))

/-- Whether the buffers that the active MODE uses have landed (R12, R137). -/
def State.histReady (s : State) (n : Nat) : Bool := (histUsed n (s.act (F.odrvCtrlMode n))).all s.hasLanded

/-- The base of history buffer b. -/
def State.histBase (s : State) (n b : Nat) : Nat :=
  32 * (if b = 0 then s.act (F.odrvHistBase0Addr n) else s.act (F.odrvHistBase1Addr n))

/-- The reach that takes row y, as a master. -/
def State.odrvMaster (s : State) (n y : Nat) : Nat :=
  let r := s.stageReaches n 7
  0x60 + r.getD (y % max 1 r.length) 0

/-- The address of a history row. -/
def State.histRow (s : State) (n b y : Nat) : Nat := s.histBase n b + 32 * s.act (F.odrvHistStrideBytes n) * y

/-- A history row read by the stage: the targets stored in it (R135), those of an uncorrectable word as it reads, with its fault indication (DESIGN
CHOICE, log 106); a barred read is a violation and reads nothing. -/
def State.readHist (s : State) (n b y : Nat) : List Nat × State :=
  let r := s.readAs (s.odrvMaster n y) (s.histRow n b y) (s.histRowBytes n)
  match r.1 with
  | none => ([], r.2)
  | some l => ((List.range (3 * s.hActive n)).map fun i => (rheDiv (ofLe l / 2 ^ (10 * i) % 1024 * 2 ^ 18 : Nat) 1023).toNat, r.2)

/-- A history row written (R135). -/
def State.writeHist (s : State) (n b y : Nat) (target : Row) : State :=
  let qs := ((List.range target.c0.length).map fun x => (List.range 3).map fun c =>
    (rhe 18 (((target.comp c).getD x 0 * 1023 : Nat) : Int)).toNat).flatten
  s.storeAs (s.odrvMaster n y) (s.histRow n b y) (leBytes (s.histRowBytes n) (packBits 10 qs))

/-- The bilinear numerator of a band (R131). -/
def State.odrvN (s : State) (n table b c xi xj : Nat) : Nat :=
  let i := min (xi / 8192) 31
  let j := min (xj / 8192) 31
  let fi := xi - 8192 * i
  let fj := xj - 8192 * j
  let v := fun p q => s.tbl n 7 table (s.act (F.odrvCtrlTblBank n)) (1089 * (3 * b + c) + 33 * p + q)
  (8192 - fi) * (8192 - fj) * v i j + fi * (8192 - fj) * v (i + 1) j + (8192 - fi) * fj * v i (j + 1) +
    fi * fj * v (i + 1) (j + 1)

/-- A table looked up at two values and the frame's temperature (R131). -/
def State.odrvLookup (s : State) (n table c xi xj : Nat) : Nat :=
  let t := sval 16 (s.get (F.odrvTempUsedTemp n))
  let tb := bandTemp s.act n
  if t ≤ tb 0 then (rhe 26 (s.odrvN n table 0 c xi xj : Int)).toNat
  else if tb 7 ≤ t then (rhe 26 (s.odrvN n table 7 c xi xj : Int)).toNat
  else
    let k := s.bandOf n t
    let num := (tb (k + 1) - t) * (s.odrvN n table k c xi xj : Int) + (t - tb k) * (s.odrvN n table (k + 1) c xi xj : Int)
    (rheDiv num ((tb (k + 1) - tb k).toNat * 2 ^ 26)).toNat

/-- One component through ODRV: its clamped target c and its start state's inputs p1, p2 (R128, R129). -/
def State.odrvPixel (s : State) (n c target p1 p2 : Nat) : Nat :=
  let start := if s.act (F.odrvCtrlMode n) = 0 then p1 else min 0x40000 (s.odrvLookup n 1 c p1 p2)
  let d := s.odrvLookup n 0 c target start
  (clampI 0 0x40000 ((target : Int) + rhe 15 (((d : Int) - (target : Int)) * ((s.odrvOf n).g : Int)))).toNat

/-- Line y through ODRV, its history read and written; unchanged while EN is 0 or a buffer of the MODE has never landed (R128, R137). -/
def State.odrvRow (s : State) (n y : Nat) (r : Row) : Row × State :=
  if !(s.cfg n).has 7 ∨ !s.actOn (F.odrvCtrlEn n) ∨ !s.histReady n then (r, s)
  else
    let target := mkRow r.c0.length fun c x => min 0x40000 ((r.comp c).getD x 0)
    let mode := s.act (F.odrvCtrlMode n)
    let phi := if mode = 0 then 0 else (s.odrvOf n).phi
    let age := s.get (F.odrvStatusHistAge n)
    let h1 := s.readHist n phi y
    let h2 := if mode = 0 then h1 else h1.2.readHist n (1 - phi) y
    let p1 := fun c x => h1.1.getD (3 * x + c) 0
    let p2 := fun c x => if age = 1 then p1 c x else h2.1.getD (3 * x + c) 0
    let out := if age = 0 then target
      else mkRow r.c0.length fun c x => s.odrvPixel n c ((target.comp c).getD x 0) (p1 c x) (p2 c x)
    let t := h2.2.writeHist n (if mode = 0 then 0 else 1 - phi) y target
    (out, t.setOdrv n fun o => { o with wrote := true })

/-- The history at the end of a frame (R136, R138): the picture of a frame has ended at its Landing point, behind its last active line,
where the reads of the next one begin (DEDUCED, log 91). -/
def State.odrvFrameEnd (s : State) (n : Nat) : State :=
  if (s.odrvOf n).wrote then
    (s.setOdrv n fun o => { o with wrote := false, phi := if s.act (F.odrvCtrlMode n) = 0 then o.phi else 1 - o.phi }).put
      (F.odrvStatusHistAge n) (min 2 (s.get (F.odrvStatusHistAge n) + 1))
  else s

/-- The history of rows that were read for a frame that the panel is not shown (R136, R138): it does not advance. -/
def State.odrvForget (s : State) (n : Nat) : State := s.setOdrv n fun o => { o with wrote := false }

/-- The history as output n stops: the frame that ends counts, rows read behind its Landing point belong to a frame that does not begin. -/
def State.odrvStop (s : State) (n : Nat) : State := if (s.outp n).landed then s.odrvForget n else s.odrvFrameEnd n

/-! DITH (R140 to R143) and PACK (R446). -/

/-- The epoch of a frame at its start (R143): from FRAME_ID, or from the integer part of TIME_NS. -/
def State.dithEpochOf (s : State) (n : Nat) (local' : Bool) : Nat :=
  let c := s.cfg n
  if local' ∨ c.den = 0 then s.frameId n
  else (s.time.now / 2 ^ 32 * c.num + 500000000 * c.den) / (1000000000 * c.den)

/-- DITH at a frame start: the epoch, the phase, the fallback, told as it begins (R143; DESIGN CHOICE, log 110). -/
def State.dithFrame (s : State) (n : Nat) : State :=
  if !(s.cfg n).has 8 then s
  else
    let chain := s.actOn (F.dithCtrlPhaseSrc n)
    let lost := chain && !s.timeUsable
    let e := s.dithEpochOf n (!chain || lost)
    let phase := if 2 ≤ s.act (F.dithCtrlMode n) then (e + s.act (F.dithCtrlPhaseOff n)) % 4 else 0
    let t := (s.setOut n fun o => { o with dithE := e }).puts [(F.dithStatusPhase n, phase), (F.dithStatusLocal n, lost.toNat),
      (F.dithEpochE n, e)]
    t.raiseIf (lost && !s.on (F.dithStatusLocal n)) (evOut n 15)

/-- The offset of phase p on an axis. -/
def State.phaseOff (s : State) (n p : Nat) : Nat × Nat :=
  if p = 0 then (s.act (F.dithPhase01Px0 n), s.act (F.dithPhase01Py0 n))
  else if p = 1 then (s.act (F.dithPhase01Px1 n), s.act (F.dithPhase01Py1 n))
  else if p = 2 then (s.act (F.dithPhase23Px2 n), s.act (F.dithPhase23Py2 n))
  else (s.act (F.dithPhase23Px3 n), s.act (F.dithPhase23Py3 n))

/-- The offset of component k. -/
def State.compOff (s : State) (n k : Nat) : Nat × Nat :=
  if k = 0 then (0, 0)
  else if k = 1 then (s.act (F.dithCompOffCx1 n), s.act (F.dithCompOffCy1 n))
  else (s.act (F.dithCompOffCx2 n), s.act (F.dithCompOffCy2 n))

/-- The mask entry of a component of a pixel (R142). -/
def State.dithMask (s : State) (n k x y : Nat) : Nat :=
  let p := s.phaseOff n (s.get (F.dithStatusPhase n))
  let o := s.compOff n k
  let mx := (x + s.act (F.dithOriginX n) + p.1 + o.1) % 64
  let my := (y + s.act (F.dithOriginY n) + p.2 + o.2) % 64
  s.tbl n 8 0 (s.act (F.dithCtrlTblBank n)) (64 * my + mx)

/-- The code of a component (R141). -/
def State.dithCode (s : State) (n k x y v0 : Nat) : Nat :=
  let top := 2 ^ (s.cfg n).driveDepth - 1
  let v := min 0x40000 v0
  let f := s.act (F.dithCtrlFrcEn n)
  let r := v * top % 2 ^ 18
  let snap := s.act (F.dithSnapLimit n)
  if r ≤ snap ∨ 2 ^ 18 ≤ r + snap then (rhe 18 ((v * top : Nat) : Int)).toNat
  else
    let kk := top * 2 ^ f
    let q0 := if s.act (F.dithCtrlMode n) = 0 then (rhe 18 ((v * kk : Nat) : Int)).toNat
      else (2 * (v * kk) + (2 * s.dithMask n k x y + 1) * 64) / 2 ^ 19
    let q := min kk q0
    if f = 0 then q
    else q / 2 + q % 2 * (((s.outp n).dithE + x + y + s.act (F.dithOriginX n) + s.act (F.dithOriginY n)) % 2)

/-- The code PACK takes without DITH (R446). -/
def packCode (depth v : Nat) : Nat := (rhe 18 ((min 0x40000 v * (2 ^ depth - 1) : Nat) : Int)).toNat

/-- Line y as codes of the panel's drive depth. -/
def State.codeRow (s : State) (n y : Nat) (r : Row) : Row :=
  mkRow r.c0.length fun c x =>
    let v := (r.comp c).getD x 0
    if (s.cfg n).has 8 then s.dithCode n c x y v else packCode (s.cfg n).driveDepth v

/-! The rows of a frame. -/

/-- The pictures of output n changed. -/
def State.setPix (s : State) (n : Nat) (f : PixState → PixState) : State :=
  s.setOut n fun o => { o with pix := f o.pix }

/-- Rows of COLR formed as far as the source lines delivered allow, from row y on, at most so many. -/
def State.colrRows (s : State) (n : Nat) : Nat → Nat → List Row
  | 0, _ => []
  | fuel + 1, y =>
    let src := (s.outp n).pix.source
    let ready := match s.scalNeeds n y with
      | none => true
      | some last => decide (last < src.length)
    if decide (y < s.vActive n) && ready then
      s.colrRow n (s.scalRow n y fun k => src.getD k (zeroRow 0)) :: s.colrRows n fuel (y + 1)
    else []

/-- A row of w pixels that repeats a row of another picture: pixels it does not have are free. -/
def fitRow (w free : Nat) (r : Row) : Row :=
  mkRow w fun c x => (r.comp c).getD x (Config.freeValue (free + 3 * x + c) % 2 ^ 20)

/-- The rows that a stage delivered last. -/
def PixState.tail (p : PixState) (stage : Nat) : List Row := p.tails.getD stage []

/-- A row that a stage delivers, kept with the fifteen before it. -/
def PixState.deliver (p : PixState) (stage : Nat) (r : Row) : PixState :=
  let kept := (p.tail stage ++ [r]).drop ((p.tail stage).length - 15)
  { p with tails := (p.tails ++ List.replicate (stage + 1 - p.tails.length) []).set stage kept }

/-- The row that a stalled stage delivers again (R169, R368): that of sixteen rows before, components of 0 before any (R66). -/
def PixState.again (p : PixState) (stage w free : Nat) : Row :=
  match p.tail stage with
  | [] => zeroRow w
  | r :: _ => fitRow w free r

/-- A row of a stage of output n's route: its own (`f`), or, where the route stalls at it or behind it, the one that it delivered sixteen rows before; a
stalled stage reads and writes nothing. -/
def State.stageRow (s : State) (n stage w : Nat) (f : State → Row × State) : Row × State :=
  let r := if (s.outp n).stall < stage then f s
    else ((s.outp n).pix.again stage w s.freeCount, { s with freeCount := s.freeCount + 3 * w })
  (r.1, r.2.setPix n fun p => p.deliver stage r.1)

/-- Front row y finished up to DITH: UNIF, WEAR, ODRV; its drive after WEAR kept for the ledger. -/
def State.finishRow (s : State) (n y : Nat) (r : Row) : State :=
  let wide := r.c0.length
  let u := s.stageRow n 5 wide fun t => t.unifRow n y r
  let w := u.2.stageRow n 6 wide fun t => t.wearRow n y u.1
  let o := w.2.stageRow n 7 wide fun t => t.odrvRow n y w.1
  o.2.setPix n fun p => { p with front := p.front ++ [o.1], drive := p.drive ++ [w.1] }

/-- The back rows of a line group. -/
def OutConfig.backGroup (c : OutConfig) : Nat := max 1 (16 / 2 ^ c.backVdiv)

/-- Back row v of output n delivered: formed from the field, or, where the route stalls at DUAL or behind it, the one of sixteen rows before. -/
def State.backRow (s : State) (n v : Nat) (field : Plane) : State :=
  let stalled := decide (4 ≤ (s.outp n).stall)
  let codes := if stalled then (s.outp n).pix.backTail.headD [] else s.dualCodes n field v
  let k := (s.cfg n).backGroup
  (if stalled then s else s.dualStore n v codes).setPix n fun p => { p with
    back := p.back ++ [codes], backTail := (p.backTail ++ [codes]).drop (p.backTail.length + 1 - k) }

/-- The rows of COLR that must exist before front row y of DUAL can be formed (R97). -/
def State.dualNeeds (s : State) (n y : Nat) : Nat :=
  let b := 2 ^ (s.cfg n).backVdiv
  min (s.vActive n) (b * (y / b + (s.dualEff n).ahead + 1))

/-- The rows finished, in order, as far as the picture allows; at most so many. -/
def State.finishRows (s : State) (n : Nat) : Nat → State
  | 0 => s
  | fuel + 1 =>
    let p := (s.outp n).pix
    let y := p.front.length
    if p.colr.length ≤ y then s
    else if !(s.cfg n).has 4 then (s.finishRow n y (p.colr.getD y (zeroRow 0))).finishRows n fuel
    else if p.colr.length < s.dualNeeds n y then s
    else
      let b := 2 ^ (s.cfg n).backVdiv
      let field := s.dualField n p.colr
      let front := s.dualFront n field.2 y (p.colr.getD y (zeroRow 0))
      let d := s.stageRow n 4 (s.hActive n) fun t => (front.1, t.count (F.dualClipsCount n) front.2)
      let s2 := if y % b = 0 then d.2.backRow n (y / b) field.1 else d.2
      (s2.finishRow n y d.1).finishRows n fuel

/-- Rows that COLR delivers: those it forms, or, where the route stalls at SCAL, COLR or behind them, as many repeated. -/
def State.colrTake (s : State) (n : Nat) (more : List Row) : State :=
  more.foldl (fun t r =>
    let d := t.stageRow n 3 r.c0.length fun u => (r, u)
    d.2.setPix n fun p => { p with colr := p.colr ++ [d.1] }) s

/-- A source line group taken by UNPK (R65, R66): its lines go down the route as far as they reach. -/
def State.takeGroup (s : State) (n : Nat) (rows : List Row) : State :=
  let s1 := s.setPix n fun p => { p with source := p.source ++ rows, lastGroup := rows, groups := p.groups + 1 }
  let more := s1.colrRows n (s.vActive n) (s1.outp n).pix.colr.length
  (s1.colrTake n more).finishRows n (s.vActive n)

/-! The accesses of the reaches (R235, R238). -/

/-- The runs that the stages read of a map for line group g, each with the reach that reads it: the header, the group's index entry and record, the grid
rows. -/
def State.mapRuns (s : State) (n type a g : Nat) : List (Nat × Nat × Nat) :=
  let h := s.mapHead a
  let e := s.mapEntry a h g
  let m := s.groupMaster n type g
  ([(a, 128)] ++ (if h.full then (a + h.indexOff + 16 * g, 16) :: (if e.ident then [] else [(a + e.off, e.len)]) else []) ++
    (if type = 5 ∧ h.grid then (List.range 2).map fun i => (a + h.gridOff + (g + i) * h.gridStride, 54 * gridCols h.width) else [])).map fun r => (m, r)

/-- The runs that the reaches of output n's route read or write for row y. -/
def State.rowRuns (s : State) (n y : Nat) : List (Nat × Nat × Nat) :=
  let g := y / 16
  let unif := fun field => if s.mapApplies n field && ((s.mapUse n field).layer.map (·.group)) != some g
    then s.mapRuns n 5 (32 * s.act (mapAddrF n field)) g else []
  let wear := if (s.cfg n).has 6 && s.actOn (F.wearCtrlLiftEn n) && s.hasLanded (R.wearMapBase n) && ((s.wearOf n).layer.map (·.1)) != some g
    then s.mapRuns n 6 (32 * s.act (F.wearMapBaseAddr n)) g else []
  let hist := if (s.cfg n).has 7 && s.actOn (F.odrvCtrlEn n) && s.histReady n
    then (List.range (if s.act (F.odrvCtrlMode n) = 0 then 1 else 2)).map fun b => (s.odrvMaster n y, s.histRow n b y, s.histRowBytes n) else []
  let b := 2 ^ (s.cfg n).backVdiv
  let field := if (s.cfg n).has 4 && y % b == 0 && s.hasLanded (R.dualFieldBase n) then [s.dualRun n (y / b) (s.backCols n)] else []
  unif false ++ unif true ++ wear ++ hist ++ field

/-- Whether the gate of the Hold holds an access that the reaches make to form the rows of output n between two states. -/
def State.reachesHeld (s t : State) (n : Nat) : Bool :=
  let first := (s.outp n).pix.front.length
  (List.range ((t.outp n).pix.front.length - first)).any fun i => (s.rowRuns n (first + i)).any fun r => s.runHeld r.1 r.2.1 r.2.2

/-- Whether a master acts for output n's picture: its scan-out engine, or a reach of its route. -/
def State.routeActs (s : State) (n m : Nat) : Bool :=
  m == 0xC0 + n || (List.range 9).any fun type => (s.stageReaches n type).any fun r => 0x60 + r == m

/-- The codes of line y of output n, as PACK delivers them. -/
def State.packRow (s : State) (n y : Nat) : Row × State :=
  let r := (s.outp n).pix.front.getD y (zeroRow 0)
  s.stageRow n 8 r.c0.length fun t => (t.codeRow n y r, t)

/-- The sixteen PLRL_TXgk outputs (R442). -/
def State.plrlPins (s : State) (driven : Bool) : State :=
  (List.range 16).foldl (fun t i => t.emit (.plrl (i / 4) (i % 4) driven)) s

end Sys2Proof.Machine
end

