-- ==== Sys2Proof/Machine/Store.lean ====
section
/-!
DEFINITION. How commands of the Purser's mailboxes and of the SST block end (R41, R377), the calibration store (R402 to
R408, R418) and the swap log (R419).
-/

namespace Sys2Proof.Machine

/-! Ends of commands. -/

/-- The mailbox command of slot k completed (R377, R379): results, response, DONE, its event. -/
def State.mboxDone (s : State) (k result code : Nat) (args : List Nat) : State :=
  let s1 := ((List.range args.length).foldl (fun t i => t.put (F.pursmArgValue k i) (args.getD i 0)) s).puts
    [(F.pursmRespCode k, code), (F.pursmRespTag k, s.get (F.pursmCmdTag k)), (F.pursmRespResult k, result),
     (F.pursmStatusQueued k, 0), (F.pursmStatusDone k, 1), (F.pursmStatusBusy k, 0)]
  ({ s1 with purser := { s1.purser with
      current := if s1.purser.current = some k then none else s1.purser.current
      begun := s1.purser.begun && s1.purser.current != some k } }).raise (576 + k)

/-- The SST command under way ended with a code: its read requests in flight no longer count, LAST_CODE, BUSY, and SST_REJECTED for a nonzero code (R41). -/
def State.sstEnd (s : State) (code : Nat) : State :=
  let t := s.puts [(F.sstStatusBusy, 0), (F.sstStatusLastCode, code)]
  let reads := (s.sst.running.map (·.reads)).getD 0
  (({ t with sst := { t.sst with running := none } }).npPart (-(reads : Int))).raiseIf (code != 0) 241

/-! Record kinds (R402). -/

/-- The largest payload of a record kind, 0 for a reserved kind. -/
def maxPayload (k : Nat) : Nat :=
  [65536, 256, 128, 4064, 8160, 4064, 64, 4064, 4064, 4064, 4064, 4064].getD k 0

/-- The FeRAM sectors per copy of a record kind. -/
def kindSectors (k : Nat) : Nat := [17, 1, 1, 1, 2, 1, 1, 1, 1, 1, 1, 1].getD k 0

/-- MAGIC of a written copy. -/
def magicRec : Nat := 0x4345524C
/-- MAGIC of a copy being rewritten. -/
def magicBlank : Nat := 0x4B4E4C42

/-- Header bytes 0x00 to 0x0F of a copy. -/
def CalCopy.head (c : CalCopy) : List Byte :=
  leBytes 4 c.magic ++ leBytes 4 c.kindVer ++ leBytes 4 c.length ++ leBytes 4 0

/-- Whether a copy of kind k is valid (R407). -/
def copyValid (k : Nat) (c : CalCopy) : Bool :=
  c.magic == magicRec && c.kindVer == k + 0x100 && decide (c.length ≤ maxPayload k) && decide (1 ≤ c.seq) &&
    decide (c.seq ≤ 0xFFFFFFFE) && c.crc == crc32c (c.head ++ c.payload)

/-- Copy A (0) or B (1) of kind k. -/
def State.copy (s : State) (k ab : Nat) : CalCopy := s.cal.copies.getD (2 * k + ab) CalCopy.blank

/-- The copy in force of kind k: the valid one with the higher SEQUENCE, A when both are equal (R407). -/
def State.inForce (s : State) (k : Nat) : Option Nat :=
  if 12 ≤ k then none
  else
    let a := copyValid k (s.copy k 0)
    let b := copyValid k (s.copy k 1)
    if a && b then (if (s.copy k 0).seq < (s.copy k 1).seq then some 1 else some 0)
    else if a then some 0 else if b then some 1 else none

/-- SEQUENCE of the copy in force; 0xFFFFFFFF when the kind is absent. -/
def State.seqOf (s : State) (k : Nat) : Nat :=
  match s.inForce k with
  | some ab => (s.copy k ab).seq
  | none => 0xFFFFFFFF

/-- The payload of the copy in force. -/
def State.recordOf (s : State) (k : Nat) : Option (List Byte) := (s.inForce k).map fun ab => (s.copy k ab).payload

/-- The outputs that a stored digest exists for, one bit each (R402, R406). -/
def State.digests (s : State) : Nat :=
  match s.inForce 2 with
  | some ab => (s.copy 2 ab).swaps
  | none => 0

/-- One copy replaced. -/
def State.setCopy (s : State) (k ab : Nat) (c : CalCopy) : State :=
  { s with cal := { s.cal with copies := updAt s.cal.copies (2 * k + ab) fun _ => c } }

/-- CAL_SEQk shown as the store stands. -/
def State.showSeq (s : State) (k : Nat) : State := s.put (F.calSeqSequence k) (s.seqOf k)

/-- The copy a store of kind k rewrites (R404): one that is not valid, or else the one with the lower SEQUENCE. -/
def State.target (s : State) (k : Nat) : Nat :=
  if !copyValid k (s.copy k 0) then 0
  else if !copyValid k (s.copy k 1) then 1
  else if (s.copy k 0).seq ≤ (s.copy k 1).seq then 0 else 1

/-- The SEQUENCE a store of kind k takes. -/
def State.nextSeq (s : State) (k : Nat) : Nat :=
  match s.inForce k with
  | some ab => (s.copy k ab).seq + 1
  | none => 1

/-- Both copies of a kind set to BLNK (R406). -/
def State.blankKind (s : State) (k : Nat) : State :=
  ((s.setCopy k 0 { s.copy k 0 with magic := magicBlank }).setCopy k 1 { s.copy k 1 with magic := magicBlank }).showSeq k

/-- The first job of the store begun: its target marked BLNK, BUSY shown (R404). -/
def State.beginStore (s : State) : State :=
  match s.cal.jobs with
  | [] => s.put F.calStatusBusy 0
  | j :: _ =>
    let t := s.put F.calStatusBusy 1
    if j.clear then t
    else
      let ab := t.target j.kind
      (t.setCopy j.kind ab { t.copy j.kind ab with magic := magicBlank }).showSeq j.kind

/-- A record as a store writes it. -/
def recordCopy (j : StoreJob) (seq : Nat) : CalCopy :=
  let c : CalCopy := ⟨magicRec, j.kind + 0x100, j.payload.length, seq, 0, j.payload, j.repairs, j.log, j.swaps⟩
  { c with crc := crc32c (c.head ++ c.payload) }

/-- The record of the first job committed (R404): the copy, CAL_SEQk, a user trim's effect due (R408). -/
def State.commitStore (s : State) (j : StoreJob) : State :=
  if j.clear then
    let t := s.blankKind j.kind
    if j.kind = 1 then { t with cal := { t.cal with trimDue := true } } else t
  else
    let t := (s.setCopy j.kind (s.target j.kind) (recordCopy j (s.nextSeq j.kind))).showSeq j.kind
    let u := if j.kind = 1 then { t with cal := { t.cal with trimDue := true } } else t
    u.raise 16

/-- The result of an ended store told to whoever waits for it: results for a mailbox, the code. -/
def State.tellStore (s : State) (j : StoreJob) (code : Nat) : State :=
  let t := s.put F.calStatusLastCode code
  match j.origin with
  | .part => t
  | .sst => t.sstEnd code
  | .mailbox k =>
    if t.purser.current = some k then
      (if code = 0 then t.mboxDone k 0 0 (if j.kind = 2 ∨ j.clear then [] else [t.seqOf j.kind]) else t.mboxDone k 3 code [])
    else t

/-- A job handed to the store: it begins at once, or behind those under way; a kind whose SEQUENCE is exhausted stores nothing (0x707). -/
def State.queueStore (s : State) (j : StoreJob) : State :=
  let ahead := (s.cal.jobs.filter fun q => q.kind == j.kind && !q.clear).length
  if !j.clear && decide (0xFFFFFFFE < s.nextSeq j.kind + ahead) then s.tellStore j 0x707
  else
    let t := { s with cal := { s.cal with jobs := s.cal.jobs ++ [j] } }
    if s.cal.jobs.isEmpty then t.beginStore else t

/-- The next job of the store begun after the first has ended. -/
def State.nextStore (s : State) : State :=
  ({ s with cal := { s.cal with jobs := s.cal.jobs.drop 1, retried := false } }).beginStore

/-- The first job of the store abandoned (R405): how far it had come is a free value: its commit word already begun, its header and
payload written, or only its BLNK. -/
def State.abandonFirst (s : State) (j : StoreJob) : State :=
  let f := s.free
  let s1 := s.bumpFree
  if j.clear then s1.tellStore j 0x706
  else if f % 3 = 0 then (s1.commitStore j).tellStore j 0
  else
    let ab := s1.target j.kind
    let old := s1.copy j.kind ab
    let new := if f % 3 = 1 then old else { recordCopy j old.seq with crc := old.crc }
    ((s1.setCopy j.kind ab new).showSeq j.kind).tellStore j 0x706

/-- Every store under way or queued abandoned (R405). -/
def State.abandonStores (s : State) : State :=
  match s.cal.jobs with
  | [] => s
  | j :: rest =>
    let t := rest.foldl (fun t q => t.tellStore q 0x706) (s.abandonFirst j)
    ({ t with cal := { t.cal with jobs := [], retried := false } }).beginStore

/-- A record of the part's own with no layout in the spec stored, within the largest payload of its kind (R402). -/
def State.storeOwn (s : State) (kind : Nat) (payload : List Byte) : State :=
  s.queueStore ⟨kind, false, payload.take (maxPayload kind), [], [], 0, .part⟩

/-! The swap log (R419). -/

/-- The 32 bytes of an entry. -/
def SwapEntry.bytes (e : SwapEntry) : List Byte :=
  leBytes 8 (e.time / 2 ^ 32) ++ leBytes 4 e.time ++ leBytes 2 e.epoch ++ leBytes 1 e.kind ++ leBytes 1 e.result ++
    leBytes 2 e.unit ++ leBytes 2 e.row ++ leBytes 1 e.spare ++ leBytes 1 e.cause ++ List.replicate 10 0

/-- The RELIEF_LOG payload of a log of so many swaps: its header, then 254 entries, entry j of all those logged at place
j mod 254. -/
def reliefPayload (log : List SwapEntry) (swaps : Nat) : List Byte :=
  let head := Config.reliefHeader swaps (swaps % 254) (decide (254 < swaps))
  let first := swaps - log.length
  (head ++ List.replicate 32 0).take 32 ++
    ((List.range 254).map fun p =>
      match log[(p + 254 - first % 254) % 254]? with
      | some e => e.bytes
      | none => List.replicate 32 0).flatten

/-- A swap logged when it has completed or failed (R419): the entry, RLF_LAST, RLF_SWAPS, its events, the record stored. -/
def State.logSwap (s : State) (kind result unit row spare cause : Nat) : State :=
  let e : SwapEntry := ⟨s.time.now, s.get F.timeEpochEpoch, kind, result, unit, row, spare, cause⟩
  let full := s.relief.log.length = 254
  let log := (if full then s.relief.log.drop 1 else s.relief.log) ++ [e]
  let swaps := min 0xFFFFFFFF (s.relief.swaps + 1)
  let s1 := ({ s with relief := { s.relief with log := log, swaps := swaps } }).puts
    [(F.rlfLastSpare, spare), (F.rlfLastKind, kind), (F.rlfLastResult, result), (F.rlfLastUnit, unit),
     (F.rlfSwapsCount, swaps)]
  let s2 := (s1.raiseIf (full && s.relief.swaps == 254) 731).raiseIf (result == 0) 725
  (s2.raiseIf (result == 3) 726).queueStore ⟨4, false, reliefPayload log swaps, [], log, swaps, .part⟩

/-! Hold repairs as records (R252 to R254). -/

/-- A repair as one number. -/
def Repair.code : Repair → Nat
  | .row b r => b * 1024 + r
  | .bank b => 0x40000 + b

/-- Every repair in force: the factory's and the field's. -/
def State.repairsInForce (s : State) : List Repair :=
  (s.hold.reliefRows.map fun p => .row p.1 p.2) ++ s.hold.reliefBanks.map .bank

/-- A repair record stored (R253, R254): the field repairs, those that no fuse makes (R252). -/
def State.storeRepairs (s : State) : State :=
  let l := listMinus s.repairsInForce s.otp.repairs
  s.queueStore ⟨3, false, (Config.repairRecord (l.map Repair.code)).take 4064, l, [], 0, .part⟩

end Sys2Proof.Machine
end

