-- ==== Sys2Proof/Machine/Lanes.lean ====
section
/-!
DEFINITION. The Lararn Panel Link: symbols, blocks, orders, training, the states of a lane, the sideband
(09_lararn_panel_link.md).
-/

namespace Sys2Proof.Machine

/-- The group of a lane (R187). -/
def laneGroup (n : Nat) : Nat := n / 24

/-! Column segments (R188). -/

/-- FIRST and COLUMNS of rank i among n lanes over so many columns. -/
def segment (columns n i : Nat) : Nat × Nat :=
  let w := 2 * ceilDiv columns (2 * n)
  (i * w, min w (columns - i * w))

/-- The rank of a lane in a list. -/
def rankOf (l : List Nat) (n : Nat) : Nat := (l.findIdx? (· == n)).getD 0

/-- The segment of lane n of output o, over the columns of its cell. -/
def State.laneSegment (s : State) (o n : Nat) : Nat × Nat :=
  let c := s.cfg o
  if c.back.contains n then segment (s.backCols o) c.back.length (rankOf c.back n)
  else segment (s.hActive o) c.front.length (rankOf c.front n)

/-- PLNn_ROLE and PLNn_SEGMENT of every lane as output o's structure gives them; lanes it no longer has become unused. -/
def State.showRoles (s : State) (o : Nat) : State :=
  let c := s.cfg o
  (List.range 96).foldl (fun t n =>
    if c.lanes.contains n then
      let g := t.laneSegment o n
      t.puts [(F.plnRoleOutput n, o), (F.plnRoleRole n, if c.back.contains n then 2 else 1),
        (F.plnRolePrecode n, c.precode.toNat), (F.plnRoleBaud n, c.baud), (F.plnSegmentColumns n, g.2),
        (F.plnSegmentFirst n, g.1)]
    else if t.get (F.plnRoleRole n) ≠ 0 ∧ t.get (F.plnRoleOutput n) = o then
      (t.setReg (R.plnRole n) 0).setReg (R.plnSegment n) 0
    else t) s

/-- STATE of a lane: 0 OFF, 1 TRAINING, 2 LISTEN, 3 ACTIVE, 4 ABSENT, 5 HELD, 6 DISCHARGE. -/
def State.laneSt (s : State) (n : Nat) : Nat := s.get (F.plnStatusState n)

/-! Symbols (R190 to R193). -/

/-- The level of a bit pair, the first bit more significant, in Gray code. -/
def grayLevel (hi lo : Bool) : Nat := if hi then (if lo then 2 else 3) else (if lo then 1 else 0)

/-- The levels of a bit string. -/
def levelsOf : List Bool → List Nat
  | a :: b :: rest => grayLevel a b :: levelsOf rest
  | _ => []

/-- Precoding from the level before (R191). -/
def precodeLevels : Nat → List Nat → List Nat
  | _, [] => []
  | y, x :: rest =>
    let z := (x + 4 - y) % 4
    z :: precodeLevels z rest

/-- Payload bits scrambled from the last 58 transmitted bits (bit j - 1 the bit sent j ago): the bits and the new 58
(R192). -/
def scramble : Nat → List Bool → List Bool × Nat
  | st, [] => ([], st)
  | st, d :: rest =>
    let t := (d != st.testBit 38) != st.testBit 57
    let r := scramble ((2 * st + t.toNat) % 2 ^ 58) rest
    (t :: r.1, r.2)

/-- The seed of lane n. -/
def laneSeed (n : Nat) : Nat := 0x155555555555555 / 128 * 128 + n % 128

/-- DATA. -/
def hData : Nat := 0x0F
/-- MARK. -/
def hMark : Nat := 0xF0
/-- IDLE. -/
def hIdle : Nat := 0x33
/-- ORDER. -/
def hOrder : Nat := 0xCC
/-- TRAIN. -/
def hTrain : Nat := 0x55

/-- The 132 levels of a block, and the scrambler and the last level after it. -/
def blockLevels (precode : Bool) (scr last : Nat) (b : LaneBlock) : List Nat × Nat × Nat :=
  let r := scramble scr (bitsOfBytes b.payload)
  let x := levelsOf (toBits 8 b.header ++ r.1)
  let y := if precode then precodeLevels last x else x
  (y, r.2, y.getLastD last)

/-- A payload of 30 bytes closed with its CRC-16 (R197). -/
def withCrc16 (l : List Byte) : List Byte :=
  let p := (l ++ List.replicate 30 0).take 30
  p ++ leBytes 2 (crc16 p)

/-- The symbols of a list of levels that differ from the one before (R224). -/
def transitions : Nat → List Nat → Nat
  | _, [] => 0
  | y, x :: rest => (x != y).toNat + transitions x rest

/-- Levels counted into the span under way of a lane, whose last level was `last` (R224): a span that they fill ends there. -/
def LaneState.spanOver (l : LaneState) (last : Nat) (levels : List Nat) : LaneState :=
  let room := 65536 - l.spanAt
  let head := levels.take room
  let n := l.spanCount + transitions last head
  if levels.length < room then { l with spanAt := l.spanAt + levels.length, spanCount := n }
  else
    let tail := levels.drop room
    { l with spanAt := tail.length, spanCount := transitions (head.getLastD last) tail, spans := l.spans ++ [n] }

/-- A block placed on a lane: the next one of its block stream. -/
def State.sendBlock (s : State) (n : Nat) (b : LaneBlock) : State :=
  let l := s.lane n
  let r := blockLevels (s.on (F.plnRolePrecode n)) l.scr l.last b
  (s.setLane n fun l => { l.spanOver l.last r.1 with scr := r.2.1, last := r.2.2, sent := l.sent + 1 }).emit (.lane n b r.1)

/-- An order of a lane under a SEQ (R199). -/
def orderBlock (opcode seq : Nat) (args : List Byte) : LaneBlock :=
  ⟨hOrder, withCrc16 (BitVec.ofNat 8 opcode :: BitVec.ofNat 8 seq :: args)⟩

/-- The SEQ of the next new order of a lane. -/
def LaneState.nextSeq (l : LaneState) : Nat := (l.orderSeq + 1) % 256

/-- The block whose turn it is on a lane where no MARK begins: what is left of a packet or beacon, a HIST_START that has come due, the
TRAIN blocks of stage B, then the block that fills, IDLE for want of another (R196, R201, R211). -/
def State.sendNext (s : State) (n : Nat) : State :=
  let l := s.lane n
  match l.queue with
  | b :: rest => (s.setLane n fun l => { l with queue := rest }).sendBlock n b
  | [] =>
    if l.histAt.any fun k => decide (k ≤ l.sent) then
      (s.setLane n fun l => { l with histAt := none, orderSeq := l.nextSeq }).sendBlock n (orderBlock 4 l.nextSeq [])
    else match l.fill with
      | some b => s.sendBlock n b
      | none => s.sendBlock n (if l.sent < 2048 then ⟨hTrain, l.train⟩ else ⟨hIdle, List.replicate 32 0⟩)

/-- So many blocks on a lane. -/
def State.sendBlocks (s : State) (n : Nat) : Nat → State
  | 0 => s
  | k + 1 => (s.sendNext n).sendBlocks n k

/-! The place of a lane in time (R195, R200). Its symbols last 4,000 / BAUD ps; stage A is the first 65,536 of a sequence, block k of its
stream begins 132 k symbols after that. -/

/-- The symbol with which a lane's next block begins. -/
def LaneState.symbol (l : LaneState) : Int := 65536 + 132 * (l.sent : Int)

/-- The first symbol boundary of a lane at or after an instant, as a number of symbols from the start of its training sequence. -/
def State.symbolAt (s : State) (n : Nat) (t : Int) : Int :=
  -(-((t - (s.lane n).base) * (max 1 (s.get (F.plnRoleBaud n)) : Nat)) / 4000)

/-- The blocks that a lane sends before the first block boundary at or after a symbol. -/
def State.blocksTo (s : State) (n : Nat) (sym : Int) : Nat := (-(-(sym - (s.lane n).symbol) / 132)).toNat

/-- The blocks of a lane that begin before an instant, and were not sent yet. -/
def State.laneTo (s : State) (n : Nat) (t : Int) : State := s.sendBlocks n (s.blocksTo n (s.symbolAt n t))

/-- A lane's blocks up to the tick counted last, and the rest of the packet under way then. -/
def State.laneClear (s : State) (n : Nat) : State :=
  let t := s.laneTo n s.nowPs
  t.sendBlocks n (t.lane n).queue.length

/-- An order sent on a lane under its next SEQ, between packets (R199). -/
def State.sendOrder (s : State) (n opcode : Nat) (args : List Byte) : State :=
  let t := s.laneClear n
  let q := (t.lane n).nextSeq
  (t.setLane n fun l => { l with orderSeq := q }).sendBlock n (orderBlock opcode q args)

/-! Training (R200, R201). -/

/-- The TRAIN payload of a lane under its TSEQ. -/
def State.trainPayload (s : State) (n tseq : Nat) : List Byte :=
  let o := s.get (F.plnRoleOutput n)
  let c := s.cfg o
  let back := s.get (F.plnRoleRole n) = 2
  let depth := if c.driveDepth = 8 then 0 else if c.driveDepth = 10 then 1 else 2
  let flags := (s.get (F.plnRolePrecode n)) + 2 * (decide back).toNat + 4 * depth
  withCrc16 ([0x4C, 0x50, BitVec.ofNat 8 n, BitVec.ofNat 8 flags] ++ leBytes 2 (s.get (F.plnSegmentFirst n)) ++
    leBytes 2 (s.get (F.plnSegmentColumns n)) ++ leBytes 1 (s.get (F.plnRoleBaud n)) ++
    leBytes 1 (if back then c.backVdiv else 0) ++ leBytes 1 o ++ leBytes 1 tseq ++
    leBytes 2 (if back then s.backRows o else s.vActive o))

/-- The raw symbols of stage A (R200): 65,536 of 0, 3 or of 0, 3, 3, 0. -/
def stageA (precode : Bool) : List Nat :=
  if precode then (List.replicate 16384 [0, 3, 3, 0]).flatten else (List.replicate 32768 [0, 3]).flatten

/-- The transitions of stage A, which is one span of R224. -/
def stageATransitions (precode : Bool) : Nat := if precode then 32768 else 65535

/-- A lane's training sequence begun (R200, R201): stage A, then stage B from the seed of R192; its residual count restarts (R227). The last symbol of stage A is the one before stage B. Where within
the tick its first symbol falls is a free value. -/
def State.startTraining (s0 : State) (n : Nat) : State :=
  let s := if s0.laneSt n = 0 then s0 else s0.laneTo n s0.nowPs
  let q := ((s.lane n).tseq + 1) % 256
  let p := s.trainPayload n q
  let pre := s.on (F.plnRolePrecode n)
  let t := (s.setLane n fun l => { l with
    tseq := q, train := p, fill := none, silent := 0, corrupt := 0, retryAt := none, scr := laneSeed n, last := if pre then 0 else 3,
    base := s.nowPs + ((s.free % 4000 : Nat) : Int), sent := 0, queue := [], histAt := none, spanAt := 0, spanCount := 0,
    spans := [stageATransitions pre], spansDone := 0 }).bumpFree
  (t.puts [(F.plnStatusState n, 1), (F.plnResidCount n, 0)]).emit (.stageA n (stageA pre))

/-- A lane whose service begins, or whose back-off restarts: FAULT clear, retry count 0, a training sequence. -/
def State.beginService (s : State) (n : Nat) : State :=
  ((s.setLane n fun l => { l with retry := 0 }).puts [(F.plnStatusFault n, 0), (F.plnStatusRetries n, 0)]).startTraining n

/-- LISTEN entered when stage B ends, its 2,048 blocks sent. -/
def State.endTraining (s : State) (n : Nat) : State := (s.sendBlocks n (2048 - (s.lane n).sent)).put (F.plnStatusState n) 2

/-- Whether a lane carries marks, packets and beacons: after stage B, not in electrical idle (R201, R203). -/
def State.laneCarries (s : State) (n : Nat) : Bool :=
  let st := s.laneSt n
  st == 2 || st == 3 || st == 4 || st == 5

/-! Transmit taps (R214, R215). -/

/-- Whether taps meet R214. -/
def Taps.ok (t : Taps) : Bool :=
  let inR := fun v : Int => decide (-32 ≤ v) && decide (v ≤ 31)
  inR t.cm1 && inR t.c1 && inR t.c2 && decide (t.cm1.natAbs + t.c1.natAbs + t.c2.natAbs ≤ 64)

/-! Lanes in and out of service. -/

/-- The frames of a lane that wait on its sideband dropped; one that awaits its answer asks for no more than a STATUS now. -/
def State.dropFrames (s : State) (n : Nat) : State :=
  { s with sidebands := updAt s.sidebands (laneGroup n) fun g => { g with
      queue := g.queue.filter (·.lane != n), sent := g.sent.map fun f => if f.lane = n then { f with type := 1 } else f } }

/-- A lane put in electrical idle, STATE OFF, after the blocks of it that have begun: its calibration ends. -/
def State.laneOff (s : State) (n : Nat) : State :=
  let t := (((if s.laneSt n = 0 then s else s.laneTo n s.nowPs).abortCal n).dropFrames n).setLane n fun l =>
    { l with retryAt := none, fill := none, queue := [], histAt := none }
  (t.put (F.plnStatusState n) 0).emit (.laneIdle n)

/-- The forced taps of a lane that wait for a BLANK mark in force now (R225). -/
def State.applyForced (s : State) (n : Nat) : State :=
  match (s.lane n).forceWaits with
  | some taps => (s.setLane n fun l => { l with forceWaits := none }).setTaps n taps
  | none => s

/-- A lane's service begun, unless TX_OFF holds it off. -/
def State.laneServe (s : State) (n : Nat) : State :=
  if s.on (F.plnCtrlTxOff n) then s else s.beginService n

/-- LANE_FAULT of lane n (R213). -/
def evLane (n : Nat) : Nat := 32 * (12 + n / 32) + n % 32

/-- A lane lost (R204): FAULT, the event, its calibration ended, a training sequence at once. -/
def State.loseLane (s : State) (n fault : Nat) : State :=
  let t := ((s.abortCal n).dropFrames n).raise (evLane n)
  (t.beginService n).put (F.plnStatusFault n) fault

/-! Relief slices of a group (R212, R414, R415). -/

/-- The relief slices of a group that no swap has taken or waits for. -/
def State.freeSlices (s : State) (g : Nat) : List Nat :=
  (List.range 4).filter fun k => !(s.relief.lanes.any fun p => laneGroup p.1 == g && p.2 == k) &&
    !(s.relief.waiting.any fun p => p.kind == 0 && laneGroup p.unit == g && p.spare == k)

/-- The slice that serves a lane, if a relief slice does. -/
def State.sliceOf (s : State) (n : Nat) : Option Nat :=
  (s.relief.lanes.reverse.find? (·.1 == n)).map (·.2)

/-- PLGg_RELIEF and the RELIEF fields of a group's lanes as the swaps stand. -/
def State.showRelief (s : State) (g : Nat) : State :=
  let w := (List.range 4).foldl (fun acc k =>
    match (List.range 24).find? fun i => s.sliceOf (24 * g + i) == some k with
    | some i => acc + (0x80 + (24 * g + i)) * 2 ^ (8 * k)
    | none => acc) 0
  (List.range 24).foldl (fun t i =>
    let n := 24 * g + i
    match s.sliceOf n with
    | some k => t.puts [(F.plnStatusRelief n, 1), (F.plnStatusReliefSlot n, k)]
    | none => t) (s.setReg (R.plgRelief g) (BitVec.ofNat 32 w))

/-- The pad switch of a lane moved to a relief slice (R212): its own slice idle, the relief slice training from the same
coefficients, the lane due for calibration once ACTIVE. -/
def State.switchLane (s : State) (n slice : Nat) : State :=
  let s1 := ((if s.laneSt n = 0 then s else s.laneTo n s.nowPs).abortCal n).emit (.laneIdle n)
  let s2 := { s1 with relief := { s1.relief with
    lanes := s1.relief.lanes ++ [(n, slice)], wornLanes := s1.relief.wornLanes.filter (· != n) } }
  (((s2.showRelief (laneGroup n)).setLane n fun l => { l with dueOnUp := true, worn := false }).put (F.plnStatusState n) 0).laneServe n

/-- Whether a swap of a lane waits or is under way. -/
def State.laneSwap (s : State) (n : Nat) : Option PendingSwap := s.relief.waiting.find? fun p => p.kind == 0 && p.unit == n

/-- A swap that waits replaced. -/
def State.setSwap (s : State) (p q : PendingSwap) : State :=
  { s with relief := { s.relief with waiting := s.relief.waiting.map fun x => if x = p then q else x } }

/-- A swap that waits removed. -/
def State.dropSwap (s : State) (p : PendingSwap) : State :=
  { s with relief := { s.relief with waiting := s.relief.waiting.filter (· != p) } }

/-- A swap ended (R419): logged, and its mailbox answered. -/
def State.endSwap (s : State) (p : PendingSwap) (result : Nat) : State :=
  let t := (s.dropSwap p).logSwap p.kind result p.unit p.row p.spare p.cause
  match p.slot with
  | some k => if t.purser.current = some k then t.mboxDone k (if result = 0 then 0 else 3) 0 [result] else t
  | none => t

/-- A swap of a lane that no running output drives made at once (R415); one whose switch has moved already is done. -/
def State.idleSwap (s : State) (p : PendingSwap) : State :=
  if p.stage ≠ 0 then s.endSwap p 0
  else
    let t := { s with relief := { s.relief with
      lanes := s.relief.lanes ++ [(p.unit, p.spare)], wornLanes := s.relief.wornLanes.filter (· != p.unit) } }
    ((t.showRelief (laneGroup p.unit)).setLane p.unit fun l => { l with dueOnUp := true, worn := false }).endSwap p 0

/-- Whether no running output drives a lane. -/
def State.laneIdles (s : State) (n : Nat) : Bool := s.get (F.plnRoleRole n) == 0 || !s.running (s.get (F.plnRoleOutput n))

/-- The swaps that wait on lanes that no running output drives any more made (R415). -/
def State.settleLanes (s : State) : State :=
  (s.relief.waiting.filter fun p => p.kind == 0 && s.laneIdles p.unit).foldl State.idleSwap s

/-- A lane swap asked for: at once on an idle output, else at its output's next calibration or blank frame (R415). -/
def State.askLaneSwap (s : State) (n cause : Nat) (slot : Option Nat) : State :=
  match (s.freeSlices (laneGroup n)).head? with
  | none => s
  | some k =>
    let p : PendingSwap := ⟨0, n, 0, k, cause, slot, 0, false⟩
    let t := { s with relief := { s.relief with waiting := s.relief.waiting ++ [p] } }
    if t.laneIdles n then t.idleSwap p else t

/-- A panel lane that has become WORN (R414). -/
def State.laneWorn (s : State) (n cause : Nat) : State :=
  if (s.lane n).worn then s
  else
    let t := ({ s with relief := { s.relief with wornLanes := s.relief.wornLanes ++ [n] } }.setLane n
      fun l => { l with worn := true }).raise 722
    if (t.freeSlices (laneGroup n)).isEmpty then t.raise 728
    else if t.sst.relief.testBit 0 && (t.laneSwap n).isNone then t.askLaneSwap n cause none
    else t

/-! The sideband (R205 to R207). -/

/-- A sideband frame as bytes: address, TYPE, LEN, payload, CRC-16. -/
def sbBytes (addr type : Nat) (payload : List Byte) : List Byte :=
  let l := [BitVec.ofNat 8 addr, BitVec.ofNat 8 type, BitVec.ofNat 8 payload.length] ++ payload
  l ++ leBytes 2 (crc16 l)

/-- Group g's sideband. -/
def State.sideband (s : State) (g : Nat) : SbState := s.sidebands.getD g ⟨none, none, []⟩

/-- Group g's sideband changed. -/
def State.setSideband (s : State) (g : Nat) (f : SbState → SbState) : State :=
  { s with sidebands := updAt s.sidebands g f }

/-- A collision counted and told (R206, R213). -/
def State.noteSbCollision (s : State) (g : Nat) : State := (s.count (F.plgSbErrsCollisions g) 1).raise 481

/-- The next frame that waits on a group sent; where the part reads a 0 it released, the frame is abandoned for a repeat.
`low` says in which groups it reads one. -/
def State.pumpSideband (s : State) (g : Nat) (low : BitVec 4) : State :=
  let b := s.sideband g
  if b.sent.isSome || b.abandoned.isSome then s
  else match b.queue with
    | [] => s
    | f :: rest =>
      if low.getLsbD g then
        (s.setSideband g fun b => { b with abandoned := some f, queue := rest }).noteSbCollision g
      else (s.setSideband g fun b => { b with sent := some f, queue := rest }).emit
        (.sideband g (sbBytes f.lane f.type f.payload))

/-- A frame given to a lane's sideband. -/
def State.sbSend (s : State) (f : SbFrame) (low : BitVec 4) : State :=
  (s.setSideband (laneGroup f.lane) fun b => { b with queue := b.queue ++ [f] }).pumpSideband (laneGroup f.lane) low

/-- POLL of a lane. -/
def sbPoll (n : Nat) : SbFrame := ⟨n, 1, []⟩
/-- HIST_REQ of a lane. -/
def sbHistReq (n window : Nat) (wait : Bool) : SbFrame := ⟨n, 2, [BitVec.ofNat 8 window, BitVec.ofNat 8 wait.toNat]⟩
/-- HIST_READ of a lane. -/
def sbHistRead (n : Nat) : SbFrame := ⟨n, 3, []⟩

/-- Whether a lane counts unanswered polls and corrupt replies as losses: ACTIVE or HELD. -/
def State.laneUp (s : State) (n : Nat) : Bool := s.laneSt n == 3 || s.laneSt n == 5

/-- A frame without a good reply counted (R204): unanswered, or answered by a corrupt reply, which ends a row of unanswered ones; three in a row lose an
ACTIVE lane. A histogram frame is sent again while the lane stays. -/
def State.noteNoReply (s : State) (f : SbFrame) (corrupt : Bool) : State :=
  let n := f.lane
  let l := s.lane n
  let c := if corrupt then l.corrupt + 1 else l.silent + 1
  let t := s.setLane n fun l => if corrupt then { l with corrupt := c, silent := 0 } else { l with silent := c }
  if 3 ≤ c ∧ s.laneUp n then t.loseLane n (if corrupt then 4 else 2)
  else if f.type ≠ 1 ∧ l.cal.isSome then t.setSideband (laneGroup n) fun b => { b with queue := f :: b.queue }
  else t

/-! Orders to all lanes of an output (R221). -/

/-- HOLD sent on every lane of output o that carries traffic, with a limit in 100 µs. -/
def State.holdLanes (s : State) (o limit : Nat) : State :=
  ((s.outp o).prev.lanes).foldl (fun t n =>
    if t.laneCarries n then
      let u := t.sendOrder n 2 (leBytes 2 limit)
      if u.laneSt n = 3 then u.put (F.plnStatusState n) 5 else u
    else t) (s.setOut o fun p => { p with heldLanes := true })

/-- RESUME sent on every lane of output o that carries traffic. -/
def State.resumeLanes (s : State) (o : Nat) : State :=
  ((s.outp o).prev.lanes).foldl (fun t n =>
    if t.laneCarries n then
      let u := t.sendOrder n 3 []
      if u.laneSt n = 5 then u.put (F.plnStatusState n) 3 else u
    else t) (s.setOut o fun p => { p with heldLanes := false })

end Sys2Proof.Machine
end

