-- ==== Sys2Proof/Machine/LaneCal.lean ====
section
/-!
DEFINITION. Calibration of panel lanes: when a lane is due, trials, the judging of histograms (10_lane_calibration.md).
-/

namespace Sys2Proof.Machine

/-! Frame and line times. -/

/-- The divisor of rung i of a set of ladder values (R172). -/
def rungDiv (g : Field → Nat) (n i : Nat) : Nat :=
  if i % 2 = 0 then g (F.scnRungDEven n (i / 2)) else g (F.scnRungDOdd n (i / 2))

/-- The rung in force of output n. -/
def State.rung (s : State) (n : Nat) : Nat := s.get (F.scnLadderStatusRung n)

/-- The refresh of output n at a rung and a nominal refresh, as a ratio (R172). -/
def rungRate (g : Field → Nat) (n i num den : Nat) : Nat × Nat := (num * 256, den * rungDiv g n i)

/-- The frame period in picoseconds of the frame under way, as a ratio. -/
def State.framePs (s : State) (n : Nat) : Nat × Nat :=
  let r := (s.outp n).rate
  (1000000000000 * r.2, max 1 r.1)

/-- The instant at which the frame under way ends: in free-run on the exact multiple of its period; under a TE after its V_TOTAL lines; else
after its lines at the line period that trim and pull give. -/
def State.frameEnd (s : State) (n : Nat) : Int :=
  let o := s.outp n
  let p := s.framePs n
  let v := max 1 o.timing.vTotal
  if o.timing.pace = 0 then o.sync.origin + rheDiv (((o.sync.frames + 1) * p.1 : Nat) : Int) p.2
  else if o.timing.pace = 3 then o.edge + rheDiv (p.1 : Nat) p.2
  else o.sync.frameEdge + rheDiv (((o.frameLines * p.1 : Nat) : Int) * (1000000000 - o.sync.trim)) (p.2 * v * 1000000000) + o.sync.pull

/-- The instant at which line y of the frame under way begins: its lines have one length. -/
def State.lineAt (s : State) (n y : Nat) : Int :=
  let o := s.outp n
  let p := s.framePs n
  let v := max 1 o.timing.vTotal
  let lines := if o.timing.pace = 1 ∨ o.timing.pace = 2 then max 1 o.frameLines else v
  let start := if o.timing.pace = 0 then o.sync.origin + rheDiv ((o.sync.frames * p.1 : Nat) : Int) p.2
    else if o.timing.pace = 3 then o.edge else o.sync.frameEdge
  start + rheDiv ((s.frameEnd n - start) * (y : Int)) lines

/-- Whether so many lines of the frame under way last at least so many picoseconds. -/
def State.linesLast (s : State) (n lines ps : Nat) : Bool :=
  let p := s.framePs n
  decide (ps * p.2 * max 1 (s.outp n).timing.vTotal ≤ lines * p.1)

/-! When a lane is due (R215, R220). -/

/-- The number of 4 ns ticks in a second. -/
def tickHz : Nat := 250000000

/-- PLNn_CAL_AGE: seconds since the last calibration that ended with 0x000. -/
def State.calAge (s : State) (n : Nat) : Nat := min 0xFFFFFFFF ((s.time.ticks - (s.lane n).lastCal) / tickHz)

/-- The calibration mode of an output. -/
def State.calMode (s : State) (o : Nat) : Nat := min 2 (s.get (F.ploCalCtrlMode o))

/-- Whether forced taps hold lane n (R225). -/
def State.forced (s : State) (n : Nat) : Bool := s.on (F.plnFfeForceForce n) && !s.on (F.plnCalStatusForceRefused n)

/-- PLNn_CAL_STATUS.DUE: whether lane n is due. -/
def State.laneDue (s : State) (n : Nat) : Bool :=
  let o := s.get (F.plnRoleOutput n)
  let l := s.lane n
  let mode := s.calMode o
  s.get (F.plnRoleRole n) != 0 && !s.forced n &&
    ((mode == 0 && (l.dueAuto || decide (max 1 (s.get (F.ploCalPeriodSeconds o)) ≤ s.calAge n) ||
        decide (s.get (F.ploCalPeriodResidLimit o) ≤ s.get (F.plnResidPeriodCount n)))) ||
      (mode != 2 && l.dueReq))

/-- Whether a reach of output o's route is frozen (R226). -/
def State.reachFrozen (s : State) (o : Nat) : Bool := (s.cfg o).reaches.any fun r => s.frozen (0x60 + r)

/-- Whether lane n may begin a calibration: due, ACTIVE or HELD, nothing running on it, its route not frozen. -/
def State.calReady (s : State) (n : Nat) : Bool :=
  s.laneDue n && s.laneUp n && (s.lane n).cal.isNone && !s.reachFrozen (s.get (F.plnRoleOutput n))

/-! Trials (R218, R219). -/

/-- The window of an output's calibrations, log2 of symbols. -/
def State.calWindow (s : State) (o : Nat) : Nat :=
  let w := s.get (F.ploCalCtrlWindow o)
  if 16 ≤ w ∧ w ≤ 24 then w else 18

/-- The rounds of an output's calibrations. -/
def State.calRounds (s : State) (o : Nat) : Nat := min 8 (max 1 (s.get (F.ploCalCtrlRounds o)))

/-- The taps with one tap (0 C1, 1 CM1, 2 C2) moved by one. -/
def Taps.move (t : Taps) (tap : Nat) (d : Int) : Taps :=
  if tap = 0 then { t with c1 := t.c1 + d } else if tap = 1 then { t with cm1 := t.cm1 + d } else { t with c2 := t.c2 + d }

/-- The coefficients of the trial a calibration stands at. -/
def LaneCal.trial (c : LaneCal) : Taps :=
  if c.baseline || c.measure then c.best else c.best.move c.tap (if c.raise then 1 else -1)

/-- Whether a merit qualifies against the best (R218). -/
def qualifies (q best : Nat × Nat) : Bool := decide (q.1 * best.2 * 64 < best.1 * q.2 * 63)

/-- The calibration after the trial it stands at, with the trial's merit if it was made: the next trial, or the end. -/
def LaneCal.settle (c : LaneCal) (rounds : Nat) (q : Option (Nat × Nat)) : LaneCal × Bool :=
  if c.baseline then
    match q with
    | some m => ({ c with baseline := false, qBest := m, phase := 0 }, false)
    | none => ({ c with phase := 0 }, false)
  else
    let good := q.filter fun m => qualifies m c.qBest
    if !c.raise then
      ({ c with raise := true, phase := 0, first := good.map fun m => (c.trial, m.1, m.2) }, false)
    else
      let kept : Option (Taps × Nat × Nat) := match c.first, good with
        | some (t, a, b), some m => if m.1 * b < a * m.2 then some (c.trial, m.1, m.2) else some (t, a, b)
        | some f, none => some f
        | none, some m => some (c.trial, m.1, m.2)
        | none, none => none
      let c1 : LaneCal := match kept with
        | some (t, a, b) => { c with best := t, qBest := (a, b), adopted := c.adopted + 1, inRound := c.inRound + 1 }
        | none => c
      let c2 := { c1 with raise := false, first := none, phase := 0 }
      if c2.tap < 2 then ({ c2 with tap := c2.tap + 1 }, false)
      else if c2.inRound = 0 ∨ rounds ≤ c2.round then (c2, true)
      else ({ c2 with tap := 0, round := c2.round + 1, inRound := 0 }, false)

/-- Trials that would break R214 passed over, at most so many. -/
def LaneCal.skip (rounds : Nat) : Nat → LaneCal × Bool → LaneCal × Bool
  | 0, r => r
  | k + 1, (c, done) => if done || c.trial.ok then (c, done) else LaneCal.skip rounds k (c.settle rounds none)

/-- The calibration of a lane changed. -/
def State.setCal (s : State) (n : Nat) (f : LaneCal → LaneCal) : State := s.setLane n fun l => { l with cal := l.cal.map f }

/-- The window of a trial opened (R219): its taps come into force at the next block boundary b and HIST_START goes out in block b + 8. -/
def State.openWindow (s : State) (n : Nat) (c : LaneCal) : State :=
  let t := s.setCal n fun c => { c with phase := 4 }
  if c.measure then t
  else
    let u := t.laneTo n s.nowPs
    (u.setTaps n c.trial).setLane n fun l => { l with histAt := some (l.sent + 8) }

/-- The trial a lane's calibration stands at begun (R219): HIST_REQ. The window follows when the driver has answered, so that the lane carries the
trial's taps around it alone; on a watch lane it opens at once, at the MARK of line V_ACTIVE (R223); a measurement has no taps of its own (R227). -/
def State.beginTrial (s : State) (n : Nat) (low : BitVec 4) : State :=
  match (s.lane n).cal with
  | none => s
  | some c =>
    let t := s.setCal n fun c => { c with phase := 1, sparse := false, unlocked := false, hist := [] }
    let u := if (s.cfg (s.get (F.plnRoleOutput n))).watch.contains n && !c.measure then t.openWindow n c else t
    u.sbSend (sbHistReq n c.window (!c.measure)) low

/-- A new calibration or measurement of a lane. -/
def State.newCal (s : State) (n : Nat) (measure : Bool) : LaneCal :=
  ⟨measure, !measure, 1, 0, false, 0, s.taps n, (0, 1), s.taps n, none, 0, 0,
    s.calWindow (s.get (F.plnRoleOutput n)), 0, false, false, []⟩

/-- Whether a watch lane's window fits in the blanking (R223): the symbols of the window and 72 blocks, 1 µs to spare. -/
def State.watchFits (s : State) (n : Nat) : Bool :=
  let o := s.get (F.plnRoleOutput n)
  let symbols := 2 ^ s.calWindow o + 72 * 132
  s.linesLast o ((s.outp o).frameLines - s.vActive o) (1000000 + symbols * 4000 / max 1 (s.get (F.plnRoleBaud n)))

/-- A calibration ended with 0x000 (R217, R218): its lane no longer due, its period count restarted, CAL_DONE; WORN
where it leaves the middle eye too low (R414). -/
def State.calDone (s : State) (n : Nat) (c : LaneCal) : State :=
  let t := (s.endCal n 0 c.best).setLane n fun l =>
    { l with dueReq := false, dueAuto := false, lastCal := s.time.ticks }
  let u := (t.put (F.plnResidPeriodCount n) 0).raise 482
  if u.get (F.plnQEyeHMid n) < u.get F.rlfLaneEyeMin then u.laneWorn n 2 else u

/-- A calibration that a calibration frame left unfinished (R222). -/
def State.calUnfinished (s : State) (n : Nat) (c : LaneCal) : State := (s.endCal n 0x528 c.best).raise 482

/-- Whether the frame under way leaves time for a trial of a lane that is no watch lane (R222): a calibration or blank frame with 200 µs left, from now,
which is no earlier than the line begun last, to its last line. -/
def State.trialTime (s : State) (o : Nat) : Bool :=
  let f := s.outp o
  f.kind != 0 && decide (max s.nowPs (s.lineAt o (f.line - 1)) + 200000000 ≤ s.lineAt o (f.frameLines - 1))

/-- The next trial of a lane's calibration, or its end, the best taps in force at once (R218, R219): a watch lane waits for the next blanking, a sparse
lane for a dense span (R224). -/
def State.nextTrial (s : State) (n : Nat) (c : LaneCal) (done : Bool) (low : BitVec 4) : State :=
  let o := s.get (F.plnRoleOutput n)
  let r := LaneCal.skip (s.calRounds o) 64 (c, done)
  let t := s.setCal n fun _ => r.1
  if r.2 then t.calDone n r.1
  else
    let u := t.setTaps n r.1.best
    if (s.cfg o).watch.contains n || s.on (F.plnCalStatusFrozen n) then u
    else if u.trialTime o then u.beginTrial n low
    else u.calUnfinished n r.1

/-- A calibration of a lane begun. -/
def State.startCal (s : State) (n : Nat) (low : BitVec 4) : State :=
  ((s.setLane n fun l => { l with cal := some (s.newCal n false) }).put (F.plnCalStatusBusy n) 1).beginTrial n low

/-- The lanes that a calibration or blank frame calibrates (R222): per group, the ready lane of largest age that is no watch
lane. -/
def State.calLanes (s : State) (o : Nat) : List Nat :=
  let c := s.cfg o
  let ready := c.lanes.filter fun n => !c.watch.contains n && s.calReady n && !s.on (F.plnCalStatusFrozen n)
  (List.range 4).filterMap fun g =>
    (ready.filter fun n => laneGroup n == g).foldl (fun (b : Option Nat) n =>
      match b with
      | none => some n
      | some m => if s.calAge m < s.calAge n ∨ (s.calAge m = s.calAge n ∧ n < m) then some n else b) none

/-- Watch lanes at the start of their blanking (R223): one trial each. -/
def State.watchTrials (s : State) (o : Nat) (low : BitVec 4) : State :=
  ((s.cfg o).watch).foldl (fun t n =>
    if t.on (F.plnCalStatusFrozen n) then t
    else if t.laneUp n && (t.lane n).cal.any (fun c => !c.measure && c.phase == 0) then
      (if t.watchFits n then t.beginTrial n low else t.put (F.plnCalStatusLastCode n) 0x527)
    else if t.calReady n then
      (if t.watchFits n then t.startCal n low else t.put (F.plnCalStatusLastCode n) 0x527)
    else t) s

/-! Judging a histogram (R216, R217). -/

/-- The 64 counts of a HIST payload. -/
def histCounts (l : List Byte) : List Nat := (List.range 64).map fun i => leAt l (2 * i) 2

/-- The sum of counts. -/
def sumOf (l : List Nat) : Nat := l.foldl (· + ·) 0

/-- The merit of a histogram as a ratio. -/
def merit (counts : List Nat) : Nat × Nat :=
  (sumOf ((List.range 64).map fun i => counts.getD i 0 * (2 * (i % 16 : Nat) - 15 : Int).natAbs ^ 2), sumOf counts)

/-- The code of the first check of R217 that a histogram fails, 0 when it is usable. -/
def histCode (c : LaneCal) (l : List Byte) : Nat :=
  let counts := histCounts l
  let n := sumOf counts
  let w := leAt l 137 1
  let level := fun k => sumOf ((counts.drop (16 * k)).take 16)
  if n * 16 < 15 * 2 ^ w ∨ w ≠ c.window then 0x521
  else if (List.range 4).any (fun k => decide (16 * level k < 3 * n) || decide (5 * n < 16 * level k)) then 0x522
  else if c.sparse then 0x523
  else if c.unlocked then 0x520
  else 0

/-- The quality registers of a lane from a histogram (R227). -/
def State.quality (s : State) (n : Nat) (l : List Byte) : State :=
  let q := merit (histCounts l)
  s.puts [(F.plnQEyeHLower n, leAt l 128 1), (F.plnQEyeHMid n, leAt l 129 1), (F.plnQEyeHUpper n, leAt l 130 1),
    (F.plnQWidthWLower n, leAt l 131 2), (F.plnQWidthWMid n, leAt l 133 2), (F.plnQWidthUpWUpper n, leAt l 135 2),
    (F.plnQMeritQ n, min 0xFFFFFFFF (rheDiv (q.1 * 65536 : Nat) (max 1 q.2)).toNat)]

/-- A usable histogram judged: the quality registers, then the next trial. -/
def State.judgeHist (s : State) (n : Nat) (c : LaneCal) (l : List Byte) (low : BitVec 4) : State :=
  let t := if c.baseline || c.measure then s.quality n l else s
  if c.measure then t.endCal n 0 c.start
  else
    let r := c.settle (s.calRounds (s.get (F.plnRoleOutput n))) (some (merit (histCounts l)))
    t.nextTrial n r.1 r.2 low

end Sys2Proof.Machine
end

