-- ==== Sys2Proof/Machine/Rs.lean ====
section
/-!
DEFINITION. The line code of the chain: the RS(272,256) codewords of a pixel group, markers, the additive scrambler, the levels
of a sub-round (R299 to R302).
-/

namespace Sys2Proof.Machine

/-! GF(2^10) with the field polynomial x^10 + x^3 + 1. -/

/-- A product, over the low n bits of b. -/
def gfMulBits : Nat → Nat → Nat → Nat
  | 0, _, _ => 0
  | n + 1, a, b =>
    let twice := if 512 ≤ a then (2 * a - 1024) ^^^ 9 else 2 * a
    (if b % 2 = 1 then a else 0) ^^^ gfMulBits n twice (b / 2)

/-- The product of two field elements. -/
def gfMul (a b : Nat) : Nat := gfMulBits 10 a b

/-- The power of an element, over the low n bits of the exponent. -/
def gfPowBits : Nat → Nat → Nat → Nat
  | 0, _, _ => 1
  | n + 1, a, e => gfMul (if e % 2 = 1 then a else 1) (gfPowBits n (gfMul a a) (e / 2))

/-- The power of an element. -/
def gfPow (a e : Nat) : Nat := gfPowBits 10 a (e % 1023)

/-- The inverse of an element. -/
def gfInv (a : Nat) : Nat := gfPow a 1022

/-- The value of a polynomial, highest coefficient first. -/
def gfEval (p : List Nat) (x : Nat) : Nat := p.foldl (fun acc c => gfMul acc x ^^^ c) 0

/-- A polynomial, highest coefficient first, times x plus a root. -/
def gfTimesRoot (p : List Nat) (r : Nat) : List Nat :=
  List.zipWith (· ^^^ ·) (p ++ [0]) (0 :: p.map (gfMul r))

/-- The generator polynomial: the product of (x - α^i) for i = 0 to 15, highest coefficient first. -/
def rsGenerator : List Nat := (List.range 16).foldl (fun p i => gfTimesRoot p (gfPow 2 i)) [1]

/-- One step of the division by the generator: the remainder so far, the next data symbol. -/
def rsStep (gen rem : List Nat) (d : Nat) : List Nat :=
  let f := rem.headD 0 ^^^ d
  List.zipWith (· ^^^ ·) (rem.drop 1 ++ [0]) (gen.map (gfMul f))

/-- The 16 parity symbols of 256 data symbols (R302). -/
def rsParity (data : List Nat) : List Nat :=
  data.foldl (rsStep (rsGenerator.drop 1)) (List.replicate 16 0)

/-- A codeword: 256 data symbols, then the parity. -/
def rsEncode (data : List Nat) : List Nat := data ++ rsParity data

/-- The 16 syndromes of a received word. -/
def rsSyndromes (w : List Nat) : List Nat := (List.range 16).map fun i => gfEval w (gfPow 2 i)

/-- The sum of two polynomials, lowest coefficient first. -/
def gfAdd : List Nat → List Nat → List Nat
  | [], q => q
  | p, [] => p
  | a :: p, b :: q => (a ^^^ b) :: gfAdd p q

/-- The Berlekamp-Massey recursion over the syndromes: the error locator and its degree, lowest coefficient first. -/
def rsLocator (syn : List Nat) : Nat → Nat → List Nat → List Nat → Nat → Nat → Nat → List Nat × Nat
  | 0, _, c, _, l, _, _ => (c, l)
  | fuel + 1, n, c, b, l, m, bd =>
    let d := ((List.range (l + 1)).map fun i => gfMul (c.getD i 0) (syn.getD (n - i) 0)).foldl (· ^^^ ·) 0
    if d = 0 then rsLocator syn fuel (n + 1) c b l (m + 1) bd
    else
      let k := gfMul d (gfInv bd)
      let c' := gfAdd c (List.replicate m 0 ++ b.map (gfMul k))
      if 2 * l ≤ n then rsLocator syn fuel (n + 1) c' c (n + 1 - l) 1 d
      else rsLocator syn fuel (n + 1) c' b l (m + 1) bd

/-- The value of a polynomial, lowest coefficient first. -/
def gfEvalLow (p : List Nat) (x : Nat) : Nat := p.foldr (fun c acc => gfMul acc x ^^^ c) 0

/-- A received word corrected (R302): the codeword within 8 symbols of it and the symbols corrected; none when there is none. -/
def rsDecode (w : List Nat) : Option (List Nat × Nat) :=
  let syn := rsSyndromes w
  if syn.all (· == 0) then some (w, 0)
  else
    let r := rsLocator syn 16 0 [1] [1] 0 1 1
    let loc := r.1
    -- position i of the word is the coefficient of x^(271 - i)
    let bad := (List.range 272).filter fun i => gfEvalLow loc (gfInv (gfPow 2 (271 - i))) == 0
    if 8 < r.2 ∨ bad.length ≠ r.2 then none
    else
      let omega := (List.range 16).map fun k =>
        ((List.range (k + 1)).map fun i => gfMul (loc.getD i 0) (syn.getD (k - i) 0)).foldl (· ^^^ ·) 0
      let deriv := (List.range loc.length).map fun i => if i % 2 = 0 then loc.getD (i + 1) 0 else 0
      let fixed := bad.foldl (fun u i =>
        let x := gfPow 2 (271 - i)
        let xi := gfInv x
        let e := gfMul x (gfMul (gfEvalLow omega xi) (gfInv (gfEvalLow deriv xi)))
        u.modify i (· ^^^ e)) w
      if (rsSyndromes fixed).all (· == 0) then some (fixed, bad.length) else none

/-! A pixel group (R302). -/

/-- The 1,024 data symbols of five pixel flits: string bits 10i to 10i + 9, the lowest-numbered the most significant. -/
def groupSymbols (flits : List (List Byte)) : List Nat :=
  let str := flits.flatten
  (List.range 1024).map fun i => ((List.range 10).map fun k =>
    let j := 10 * i + k
    (bit (str.getD (j / 8) 0).toNat (j % 8)).toNat).foldl (fun acc b => 2 * acc + b) 0

/-- The five pixel flits that 1,024 data symbols spell. -/
def flitsOfSymbols (sym : List Nat) : List (List Byte) :=
  let byteAt := fun m => BitVec.ofNat 8 (ofBits ((List.range 8).map fun k =>
    let j := 8 * m + k
    (sym.getD (j / 10) 0).testBit (9 - j % 10)))
  (List.range 5).map fun f => (List.range 256).map fun b => byteAt (256 * f + b)

/-- The four codewords of a group. -/
def groupWords (flits : List (List Byte)) : List (List Nat) :=
  let sym := groupSymbols flits
  (List.range 4).map fun c => rsEncode ((sym.drop (256 * c)).take 256)

/-- The RS slots of the four lanes: slot s of lane L carries position s of codeword (L + s) mod 4. -/
def lanesOfWords (words : List (List Nat)) : List (List Nat) :=
  (List.range 4).map fun l => (List.range 272).map fun i => (words.getD ((l + i) % 4) []).getD i 0

/-- The codewords that the RS slots of the four lanes carry. -/
def wordsOfLanes (lanes : List (List Nat)) : List (List Nat) :=
  (List.range 4).map fun c => (List.range 272).map fun i => (lanes.getD ((c + 4 - i % 4) % 4) []).getD i 0

/-- What a received group gives: its five flits when every codeword was corrected, the symbols corrected, the codewords that
could not be. -/
def groupDecode (lanes : List (List Nat)) : Option (List (List Byte)) × Nat × Nat :=
  let r := (wordsOfLanes lanes).map rsDecode
  let bad := (r.filter Option.isNone).length
  let fixed := (r.map fun x => match x with | some p => p.2 | none => 0).sum
  let sym := (r.map fun x => match x with | some p => p.1.take 256 | none => []).flatten
  (if bad = 0 then some (flitsOfSymbols sym) else none, fixed, bad)

/-! A sub-round on a lane (R299 to R301). -/

/-- The marker's levels: 3, 0, 3, 0, then the byte, first symbol most significant. -/
def markerLevels (b : Nat) : List Nat :=
  [3, 0, 3, 0] ++ levelsOf ((List.range 8).map fun i => b.testBit (7 - i))

/-- The byte of a marker: sub-round, lane, round count (R300). -/
def markerByte (sub lane round : Nat) : Nat := sub % 8 + 8 * (lane % 4) + 32 * (round % 8)

/-- Bits through the additive scrambler of polynomial x^58 + x^39 + 1, `g` its last 58 output bits, the latest lowest. -/
def additive : Nat → List Bool → List Bool × Nat
  | g, [] => ([], g)
  | g, d :: rest =>
    let k := g.testBit 57 != g.testBit 38
    let r := additive ((2 * g + k.toNat) % 2 ^ 58) rest
    ((d != k) :: r.1, r.2)

/-- The generator moved on by so many bits. -/
def additiveSkip (g n : Nat) : Nat := (additive g (List.replicate n false)).2

/-- The generator that 58 bits of its output give, the first one sent first. -/
def additiveLoad (l : List Bool) : Nat := l.foldl (fun g b => 2 * g + b.toNat) 0

/-- The generator of a lane after bits that may be its scrambled zeros (R301): loaded from the first 58; none where the bits after those are not
what it gives, or where it would stand still. -/
def idleSync (l : List Bool) : Option Nat :=
  let g := additiveLoad (l.take 58)
  let r := additive g (l.drop 58)
  if g = 0 || r.1.any id then none else some r.2

/-- The bits of a lane's part of a short flit. -/
def shortBits (flit : List Byte) (lane : Nat) : List Bool := (((flit.drop (12 * lane)).take 12).map fun b => toBits 8 b.toNat).flatten

/-- The bits of RS slots, five symbols each, most significant pair first. -/
def slotBits (slots : List Nat) : List Bool := (slots.map fun v => (List.range 10).map fun i => v.testBit (9 - i)).flatten

/-- The RS slots that bits spell. -/
def slotsOfBits (l : List Bool) : List Nat :=
  (List.range 272).map fun i => ((l.drop (10 * i)).take 10).foldl (fun acc b => 2 * acc + b.toNat) 0

/-- The RS slots of a lane descrambled: `keys` gives its generator at each of the five group chunks of the round. -/
def descrambleSlots (keys : List Nat) (slots : List Nat) : List Nat :=
  let l := slotBits slots
  slotsOfBits ((List.range 5).map fun j => (additive (keys.getD j 0) ((l.drop (544 * j)).take 544)).1).flatten

/-- The bits of a lane's part of a sub-round after the marker: its 12 bytes of the short flit, then its share of the group. -/
def subRoundBits (flit : List Byte) (lane sub : Nat) (slots : List Nat) : List Bool :=
  -- five chunks of 272 symbols of the lane's 1,360
  shortBits flit lane ++ ((slotBits slots).drop (544 * sub)).take 544

/-- The levels of a sub-round on a lane and the scrambler after it. -/
def subRoundLevels (flit : List Byte) (lane sub round g : Nat) (slots : List Nat) : List Nat × Nat :=
  let r := additive g (subRoundBits flit lane sub slots)
  (markerLevels (markerByte sub lane round) ++ levelsOf r.1, r.2)

end Sys2Proof.Machine
end

