-- ==== Sys2Proof/Machine/Routes.lean ====
section
/-!
DEFINITION. The chain's ports, its views of every address and the routes they give (R313 to R315, R335).
-/

namespace Sys2Proof.Machine

/-- Port p of the chain (0 A, 1 B, 2 C) beside its registers. -/
def State.port (s : State) (p : Nat) : PortState := s.chain.ports.getD p (PortState.reset p)

/-- Port p changed. -/
def State.setPort (s : State) (p : Nat) (f : PortState → PortState) : State :=
  { s with chain := { s.chain with ports := updAt s.chain.ports p f } }

/-- STATE of port p: 0 OFF, 1 TRAINING, 2 UP, 3 STANDBY, 4 DOWN. -/
def State.portSt (s : State) (p : Nat) : Nat := s.get (F.chnpStatusState p)

/-- Whether port p is UP. -/
def State.portUp (s : State) (p : Nat) : Bool := s.portSt p == 2

/-- The unit's own address. -/
def State.chainAddr (s : State) : Nat := s.get F.chnAddrAddr

/-- Whether the unit is in a closed ring. -/
def State.ringClosed (s : State) : Bool := s.get F.chnTopoTopology == 2 && s.get F.chnTopoRingState == 0

/-- The data view of an address, while it is live (R313). -/
def State.dataView (s : State) (a : Nat) : Option ChainSeen := s.chain.data.find? (·.addr == a)

/-- The management view of an address: the ports it is reached through. -/
def State.mgmtView (s : State) (a : Nat) : List ChainRoute := s.chain.mgmt.filter (·.addr == a)

/-- The better of two entries: fewer hops, port B on a tie (R315). -/
def ChainRoute.better (x y : ChainRoute) : ChainRoute :=
  if x.hops < y.hops then x else if y.hops < x.hops then y else if y.port = 1 then y else x

/-- The entry of the management view that routes go by. -/
def State.mgmtBest (s : State) (a : Nat) : Option ChainRoute :=
  match s.mgmtView a with
  | [] => none
  | x :: rest => some (rest.foldl ChainRoute.better x)

/-- The port on the way to an address (R315): the data view while it is live, else the management view; the root is reached
upstream when neither view knows it. -/
def State.routeTo (s : State) (a : Nat) : Option Nat :=
  match s.dataView a with
  | some d => some d.port
  | none =>
    match s.mgmtBest a with
    | some r => some r.port
    | none => if a = 1 ∧ s.get F.chnTopoUpstream < 3 then some (s.get F.chnTopoUpstream) else none

/-- ROLE of TIMEROLE: 0 standalone, 1 chain time root, 2 follower. -/
def State.timeRole (s : State) : Nat := bits (pw s.sst.timerole 0) 1 0

/-- SOURCE of TIMEROLE. -/
def State.timeSource (s : State) : Nat := bits (pw s.sst.timerole 0) 10 8

/-- JUMP_POLICY of TIMEROLE: true for slew. -/
def State.jumpSlews (s : State) : Bool := bit (pw s.sst.timerole 0) 12

/-- The port a follower takes time from, 3 for none (R335). -/
def State.timePort (s : State) : Nat :=
  if s.timeRole ≠ 2 then 3
  else
    let up := bits (pw s.sst.timerole 0) 5 4
    if s.get F.chnTopoRingState = 1 ∧ up < 2 then
      match s.routeTo 1 with
      | some p => if p < 2 then p else up
      | none => up
    else up

/-- TIME_PORT as it stands; a change of it leaves the samples of the old port behind. -/
def State.showTimePort (s : State) : State :=
  let p := s.timePort
  if s.get F.timeStatusTimePort = p then s
  else { (s.put F.timeStatusTimePort p) with time := { s.time with samples := [] } }

end Sys2Proof.Machine
end

