-- ==== Sys2Proof/Machine/Clock.lean ====
section
/-!
DEFINITION. The time counter, its corrections, holdover, stamps, windows and reference outputs (15_time_reference.md). Times are in
units of 2^-32 ns.
-/

namespace Sys2Proof.Machine

/-- The time state changed. -/
def State.setTime (s : State) (f : TimeState → TimeState) : State := { s with time := f s.time }

/-- One nanosecond. -/
def nsUnit : Nat := 2 ^ 32

/-- One second. -/
def secUnit : Nat := 1000000000 * 2 ^ 32

/-- The epoch. -/
def State.epoch (s : State) : Nat := s.get F.timeEpochEpoch

/-- TIME_INCR in force. -/
def State.timeIncr (s : State) : Nat := s.get F.timeIncrHiNs * 2 ^ 32 + s.get F.timeIncrLoFrac

/-- TIME_INCR set, clamped to 3.996 ns to 4.004 ns (R326). -/
def State.setIncr (s : State) (v : Int) : State :=
  let c := (clampI 17162689315 17197049053 v).toNat
  s.puts [(F.timeIncrHiNs, c / 2 ^ 32), (F.timeIncrLoFrac, c)]

/-- The slew per tick at most (R327). -/
def State.slewLimit (s : State) : Nat :=
  (rheDiv ((4 * min 1000000 (max 1 (s.get F.timeSlewMaxNsPerS)) * 2 ^ 32 : Nat) : Int) 1000000000).toNat

/-- The slew adjustment of a tick (R327). -/
def State.slewStep (s : State) : Int :=
  let l : Int := s.slewLimit
  clampI (-l) l s.time.slew

/-- TIME_JUMP_LIMIT. -/
def State.jumpLimit (s : State) : Nat := s.get F.timeJumpLimitNs * nsUnit

/-! Windows (R342). -/

/-- OPEN of window k, in ns. -/
def State.winOpen (s : State) (k : Nat) : Nat := s.get (F.timeWinOpenLoNs k) + 2 ^ 32 * s.get (F.timeWinOpenHiNs k)

/-- CLOSE of window k, in ns. -/
def State.winClose (s : State) (k : Nat) : Nat := s.get (F.timeWinCloseLoNs k) + 2 ^ 32 * s.get (F.timeWinCloseHiNs k)

/-- Whether a stamp lies inside window k. -/
def State.inWindow (s : State) (k time epoch : Nat) : Bool :=
  s.on (F.timeWinCtrlEn k) && s.get (F.timeWinCtrlEpoch k) == epoch && decide (s.winOpen k ≤ time / nsUnit) &&
    decide (time / nsUnit < s.winClose k)

/-- The windows opened and closed as the time stands, with their events. -/
def State.checkWindows (s : State) : State :=
  (List.range 4).foldl (fun t k =>
    let now := t.inWindow k t.time.now t.epoch
    if now = t.on (F.timeWinCtrlOpen k) then t
    else (t.put (F.timeWinCtrlOpen k) now.toNat).raise (if now then 551 else 552)) s

/-- The windows that contain a stamp, as a mask. -/
def State.windowMask (s : State) (time epoch : Nat) : Nat :=
  ofBits ((List.range 4).map fun k => s.inWindow k time epoch)

/-! Reference outputs (R343). -/

/-- Whether the REF_OUT and LTC_OUT pins may leave their inactive level (R441): not in start-up, not in Winter. -/
def State.pinsDrive (s : State) : Bool := s.get F.glbStateState != 0 && !s.inWinter

/-- A pulse begun at a time on every REF_OUT pin of a mode (for modes 0 and 1, of an output), cut at a period; a pin that is gated shows
it only if that time lies inside its window. -/
def State.refPulse (s : State) (mode out : Nat) (begun : Int) (period : Option Nat) : State :=
  if !s.pinsDrive then s else
  (List.range 8).foldl (fun t k =>
    if t.on (F.timeRefCfgEn k) && t.get (F.timeRefCfgMode k) == mode && (decide (2 ≤ mode) || t.get (F.timeRefCfgOut k) == out) &&
        (!t.on (F.timeRefCfgWinEn k) || t.inWindow (t.get (F.timeRefCfgWin k)) begun.toNat t.epoch) then
      let w := if mode = 3 then 50 else if mode = 4 then 4 * max 1 (t.get (F.timeRefDivDiv k)) else t.get (F.timeRefWidthNs k)
      t.emit (.refOut k (match period with | some p => min w p | none => w) (t.on (F.timeRefCfgPol k)))
    else t) s

/-- The cycles of mode 4 that begin at this tick. -/
def State.refDivide (s : State) : State :=
  if !s.pinsDrive then s else
  (List.range 8).foldl (fun t k =>
    let d := max 1 (t.get (F.timeRefDivDiv k))
    if t.on (F.timeRefCfgEn k) && t.get (F.timeRefCfgMode k) == 4 && t.time.ticks % (2 * d) == 0 &&
        (!t.on (F.timeRefCfgWinEn k) || t.inWindow (t.get (F.timeRefCfgWin k)) t.time.now t.epoch) then
      t.emit (.refOut k (4 * d) (t.on (F.timeRefCfgPol k)))
    else t) s

/-! Corrections (R327 to R333). -/

/-- A correction larger than TIME_JUMP_LIMIT told; a backward one advances the epoch, except on a follower, whose epoch is its
upstream's (R331). -/
def State.noteJump (s : State) (amount : Int) : State :=
  if s.jumpLimit < amount.natAbs then
    let t := if amount < 0 ∧ s.timeRole ≠ 2 then s.put F.timeEpochEpoch (s.epoch + 1) else s
    t.raise 546
  else s

/-- An average offset acted on (R333, R332): slewed out, or pending for the next time boundary. -/
def State.correct (s : State) (o : Int) : State :=
  if o.natAbs ≤ s.jumpLimit then
    ((s.setTime fun x => { x with slew := -o, jump := none }).puts [(F.timeStatusDegraded, 0), (F.timeStatusJumpPending, 0)])
  else (s.setTime fun x => { x with jump := some (-o) }).put F.timeStatusJumpPending 1

/-- A 96-bit time moved by a signed amount, saturated at its ends (R5). -/
def addTime (t : Nat) (d : Int) : Nat := (clampI 0 ((2 ^ 96 - 1 : Nat) : Int) ((t : Int) + d)).toNat

/-- The time boundary (R328, R329, R331, R332): a pending step, a pending jump, the upstream's epoch. -/
def State.boundary (s : State) : State :=
  let s1 := match s.time.step with
    | none => s
    | some d =>
      let t := (s.setTime fun x => { x with step := none, now := addTime x.now (d * (nsUnit : Int)) }).put
        F.timeStatusStepPending 0
      (if t.on F.timeStatusDisciplined then t else t.put F.timeStatusDegraded 0).noteJump (d * (nsUnit : Int))
  let s2 := match s1.time.jump with
    | none => s1
    | some d =>
      let t := (s1.setTime fun x =>
        if s1.jumpSlews then { x with jump := none, slew := d, samples := [], secondOffset := none }
        else { x with jump := none, samples := [], secondOffset := none, now := addTime x.now d }).puts
          [(F.timeStatusJumpPending, 0), (F.timeStatusDegraded, 0)]
      t.noteJump d
  let s3 := match s2.time.epochNext with
    | none => s2
    | some e => (s2.setTime fun x => { x with epochNext := none }).put F.timeEpochEpoch e
  s3.checkWindows

/-! Holdover (R337, R338). -/

/-- HOLDOVER as its reasons stand; TIME_HOLDOVER when it becomes 1, LOCKED lost with it. -/
def State.showHoldover (s : State) : State :=
  let h := s.time.holdSource || s.time.holdRoute
  let was := s.on F.timeStatusHoldover
  let t := s.put F.timeStatusHoldover h.toNat
  if h then ((t.put F.timeStatusLocked 0).setTime fun x => { x with good := 0 }).raiseIf (!was) 545 else t

/-- Holdover for a source or a time port that is lost. -/
def State.loseSource (s : State) (code : Nat) : State :=
  let t := (s.put F.timeStatusLastCode code).setTime fun x => { x with holdSource := true, samples := [] }
  (t.raise 547).showHoldover

/-- Holdover for a switch of routes: every unit but the time root; delays and samples from before it are discarded. -/
def State.holdRoute (s : State) : State :=
  if s.timeRole = 1 then s.showTimePort
  else
    let t := (s.showTimePort).setTime fun x => { x with holdRoute := true, samples := [], delays := [[], [], []], jump := none, fresh := false }
    t.showHoldover.put F.timeStatusJumpPending 0

/-! The structure's role (R330, R38). -/

/-- DISCIPLINED and TIME_PORT as the role says; a change of source begins anew. -/
def State.showRole (s : State) : State :=
  let d := s.timeRole = 2 ∨ (s.timeRole < 2 ∧ s.timeSource ≠ 0)
  let t := s.put F.timeStatusDisciplined (decide d).toNat
  let u := if d then t else (t.setTime fun x => { x with samples := [], holdSource := false, jump := none }).put F.timeStatusJumpPending 0
  let v := if d then u else (u.put F.timeStatusLocked 0).showHoldover
  v.showTimePort

/-! Stamps (R339 to R341). -/

/-- A stamp of now, `sub` after the tick. -/
def State.stampNow (s : State) (sub : Nat) : Nat := addTime s.time.now sub

/-- A capture (R339). -/
def State.capture (s : State) (k sub : Nat) : State :=
  let t := s.stampNow sub
  ((s.setTime fun x => { x with caps := updAt x.caps k fun _ => ⟨t, s.epoch, s.windowMask t s.epoch, true, true⟩ }).put
    (F.timeCapLoNs k) (t / nsUnit)).raise 553

/-- The head of the software stamp log shown. -/
def State.showSwlog (s : State) : State :=
  let l := s.time.swlog
  let h := l.headD ⟨0, 0, 0⟩
  s.puts [(F.timeSwlogHeadEpoch, h.epoch), (F.timeSwlogHeadSource, h.id), (F.timeSwlogLoNs, h.time / nsUnit),
    (F.timeSwlogHiNs, h.time / 2 ^ 64), (F.timeSwlogFracFrac, h.time), (F.timeSwlogCountCount, l.length)]

/-- The head of the transmit stamp queue shown. -/
def State.showTxq (s : State) : State :=
  let l := s.time.txq
  let h := l.headD ⟨0, 0, 0⟩
  s.puts [(F.timeTxqHeadEpoch, h.epoch), (F.timeTxqHeadId, h.id), (F.timeTxqLoNs, h.time / nsUnit),
    (F.timeTxqHiNs, h.time / 2 ^ 64), (F.timeTxqFracFrac, h.time), (F.timeTxqCtrlCount, l.length)]

/-- The stamp of a short flit that a host function originated (R341). -/
def State.txStamp (s : State) (seq sub : Nat) : State :=
  if !s.on F.timeTxqCtrlEn then s
  else if 16 ≤ s.time.txq.length then
    ((s.count F.timeTxqOverflowCount 1).raiseIf (!s.time.txqTold) 549).setTime fun x => { x with txqTold := true }
  else (s.setTime fun x => { x with txq := x.txq ++ [⟨s.stampNow sub, s.epoch, seq⟩] }).showTxq

/-! The chain exchange (R334). -/

/-- A signed difference of two stamps. -/
def stampDiff (a b : Nat) : Int := sval 96 (a + 2 ^ 96 - b % 2 ^ 96)

/-- A complete exchange on port p: the departure and arrival of the peer's flit, the departure of the local flit it names and its
arrival at the peer. -/
def State.exchange (s : State) (p t1 t2 t3 t4 : Nat) : State :=
  let asym := sval 32 (s.get (F.timeAsymAsym p)) * ((2 ^ 24 : Nat) : Int)
  let o := stampDiff t2 t1 - stampDiff t4 t3 - asym
  let d := stampDiff t2 t1 + stampDiff t4 t3 + asym
  let l := (s.time.delays.getD p []) ++ [d]
  let s1 := if l.length < 64 then s.setTime fun x => { x with delays := updAt x.delays p fun _ => l }
    else (s.put (F.timeDelayDelay p) (clampI 0 (2 ^ 32 - 1) (rheDiv l.sum (64 * 2 ^ 25))).toNat).setTime fun x =>
      { x with delays := updAt x.delays p fun _ => [] }
  if s.timeRole = 2 ∧ s.timePort = p then s1.setTime fun x => { x with samples := x.samples ++ [o] } else s1

end Sys2Proof.Machine
end

