-- ==== Sys2Proof/Machine/Streams.lean ====
section
/-!
DEFINITION. Pixel streams on the chain: the records of a frame, a transmit stream, a receive stream (R319 to R321).
-/

namespace Sys2Proof.Machine

/-- The 32-byte header of a record (R320). -/
def recHeader (kind flags stream plane seq group len raw crc : Nat) : List Byte :=
  let l := leBytes 1 kind ++ leBytes 1 flags ++ leBytes 1 stream ++ leBytes 1 plane ++ leBytes 2 seq ++ leBytes 2 group ++
    leBytes 4 len ++ leBytes 4 raw ++ List.replicate 8 0 ++ leBytes 4 crc
  l ++ leBytes 4 (crc32c l)

/-- The rows of a plane per line group (R320). -/
def SrcFormat.groupHeight (f : SrcFormat) (p : Nat) : Nat := if p = 0 ∨ f.layout = 2 ∨ f.sampling ≠ 2 then 16 else 8

/-- The line-group records of a frame. -/
def SrcFormat.records (f : SrcFormat) : Nat := ceilDiv f.height 16 * f.planes

/-- The rows of line group g of plane p: the first, and how many. -/
def SrcFormat.recordRows (f : SrcFormat) (p g : Nat) : Nat × Nat :=
  let h := f.groupHeight p
  (h * g, min h (f.rows p - h * g))

/-! Transmit streams. -/

/-- Transmit stream n changed. -/
def State.setTx (s : State) (n : Nat) (f : TxStream → TxStream) : State :=
  { s with chain := { s.chain with tx := updAt s.chain.tx n f } }

/-- Transmit stream n. -/
def State.txs (s : State) (n : Nat) : TxStream := s.chain.tx.getD n ⟨[], 0⟩

/-- The end record of a frame. -/
def TxFrame.endRec (f : TxFrame) (abandoned : Bool) : List Byte :=
  recHeader 2 (2 * abandoned.toNat) f.stream 0 f.seq 0 f.records 0 0

/-- A frame stopped before its end (R319). -/
def State.abandonTx (s : State) (n : Nat) : State :=
  if (s.txs n).frames.any (!·.ended) then
    ((s.setTx n fun x => { x with frames := x.frames.map fun f =>
      if f.ended then f else { f with ended := true, abandoned := true, buf := f.buf ++ f.endRec true } }).count (F.chnTxsSkipsCount n) 1).raise 519
  else s

/-- Whether output n can feed its stream: running, in ring mode (R319). -/
def State.txMay (s : State) (n : Nat) : Bool :=
  let c := s.act (F.scnSlotCfgSlotCount n)
  s.running n && decide (2 ≤ c) && decide (c ≤ 4) && !s.chaseOn n

/-- A transmit stream that may not send says so. -/
def State.txCheck (s : State) (n : Nat) : State :=
  if s.on (F.chnTxsCtrlEn n) && !s.txMay n then s.put (F.chnTxsStatusLastCode n) 0x54D else s

/-- A stream whose output can no longer feed it leaves the frame under way (R319). -/
def State.txStop (s : State) (n : Nat) : State := if s.txMay n then s else (s.abandonTx n).txCheck n

/-- A Landing of output n: when its current slot has moved, the stream leaves the frame under way and takes the new slot
(R319). -/
def State.txLanding (s : State) (n : Nat) (moved : Bool) : State :=
  let t := if moved then s.abandonTx n else s
  if !t.on (F.chnTxsCtrlEn n) then t
  else if !t.txMay n then t.txCheck n
  else if !moved then t
  else
    let y : TxFrame :=
      ⟨t.curSlot n, t.get (F.tgFrameIdLoCount n) % 65536, t.get (F.chnTxsDstDst n), t.get (F.chnTxsCtrlStream n), 0, 0, [], false, false⟩
    t.setTx n fun x => { x with frames := x.frames ++ [y] }

/-- The rows of a plane of a slot as samples. -/
def State.planeRows (s : State) (n k p first count : Nat) (f : SrcFormat) : List (List Nat) :=
  (List.range count).map fun i =>
    let v := ofLe (s.holdBytes (slotBase s.act n k p + slotStride s.act n k p * (first + i)) (f.lineBytes p))
    (List.range (f.samples p)).map fun x => v / 2 ^ (f.bitsPer * x) % 2 ^ f.bitsPer

/-- The runs of lines of a slot of output n in a plane's line group: an address and a length each. -/
def State.recordRuns (s : State) (n slot p g : Nat) : List (Nat × Nat) :=
  let f := srcFormat s.act n
  let r := f.recordRows p g
  (List.range r.2).map fun i => (slotBase s.act n slot p + slotStride s.act n slot p * (r.1 + i), f.lineBytes p)

/-- The runs of lines that the next record of a frame of stream n holds; none of a frame start or a frame end. -/
def State.txRuns (s : State) (n : Nat) (x : TxFrame) : List (Nat × Nat) :=
  let f := srcFormat s.act n
  if x.ended ∨ x.next = 0 ∨ f.records < x.next then []
  else s.recordRuns n x.slot ((x.next - 1) % f.planes) ((x.next - 1) / f.planes)

/-- The next record of a frame of stream n appended to its bytes, its lines read as the output's scan-out engine, an uncorrectable word with its fault
indication (R234); an address that the engine may not read instead. -/
def State.nextRecord (s : State) (n : Nat) (x : TxFrame) : Except Nat (State × TxFrame) :=
  let f := srcFormat s.act n
  let m := 0xC0 + n
  let runs := s.txRuns n x
  if x.next = 0 then
    let h := recHeader 0 0 x.stream 0 x.seq 0 ((s.actReg (R.unpkFormat n)).toNat % 2 ^ 17) (s.actReg (R.unpkSrcSize n)).toNat 0
    .ok (s, { x with next := 1, buf := x.buf ++ h })
  else if f.records < x.next then .ok (s, { x with ended := true, buf := x.buf ++ x.endRec false })
  else match runs.findSome? fun r => s.firstBarred m r.1 r.2 false with
    | some b => .error b
    | none =>
      let g := (x.next - 1) / f.planes
      let p := (x.next - 1) % f.planes
      let r := f.recordRows p g
      let rows := s.planeRows n x.slot p r.1 r.2 f
      let raw := rawOfRows f.bitsPer rows
      let e := encodeRecord f.bitsPer Golomb.start [] rows
      let h := recHeader 1 e.1.toNat x.stream p x.seq g e.2.1.length raw.length (crc32c raw)
      .ok (runs.foldl (fun t r => t.noteRun r.1 r.2) s, { x with next := x.next + 1, records := x.records + 1, buf := x.buf ++ h ++ e.2.1 })

/-- Whether a frame of stream n has a flit's bytes ready, or its end. -/
def TxFrame.ready (x : TxFrame) : Bool := x.ended || decide (248 ≤ x.buf.length)

/-- A frame with a flit's bytes ready, or its end, or as far as the gate of the Hold lets its reads pass (R242, R244, R248, R253). -/
def State.fillTx (s : State) (n : Nat) : Nat → TxFrame → Except Nat (State × TxFrame)
  | 0, x => .ok (s, x)
  | fuel + 1, x =>
    if x.ready || s.runsHeld (0xC0 + n) (s.txRuns n x) then .ok (s, x)
    else match s.nextRecord n x with
      | .error b => .error b
      | .ok r => r.1.fillTx n fuel r.2

/-- The frame at the head of stream n with what can be made ready of it; at an address that its scan-out engine may not read it is abandoned. -/
def State.feedTx (s : State) (n : Nat) (x : TxFrame) (rest : List TxFrame) : State :=
  match s.fillTx n 12 x with
  | .ok r => r.1.setTx n fun t => { t with frames := r.2 :: rest }
  | .error b => (s.abandonTx n).violate (0xC0 + n) (s.barCode (0xC0 + n) b false) b false

/-- Whether stream n waits at the gate of the Hold for its next record. -/
def State.txWaits (s : State) (n : Nat) : Bool :=
  match (s.txs n).frames with
  | [] => false
  | x :: _ => !x.ready && !s.frozen (0xC0 + n) && s.runsHeld (0xC0 + n) (s.txRuns n x)

/-- The next pixel flit of stream n (R306, R319): none when it has nothing to send, or waits at the gate of the Hold for the rest of a flit. A frame that
its output or its engine, frozen, can no longer feed ends with ABANDONED. -/
def State.nextTxFlit (s0 : State) (n : Nat) : Option (Nat × List Byte × State) :=
  let s := if s0.frozen (0xC0 + n) then s0.abandonTx n else if (s0.txs n).frames.isEmpty then s0 else s0.txStop n
  match (s.txs n).frames with
  | [] => none
  | x :: rest =>
      let s1 := s.feedTx n x rest
      match (s1.txs n).frames with
      | [] => none
      | y :: rest =>
        if !y.ready then none
        else
        let done := y.ended && decide (y.buf.length ≤ 248)
        let flit := leBytes 2 y.dst ++ leBytes 2 s.chainAddr ++ leBytes 1 y.stream ++ leBytes 1 0 ++ leBytes 2 (s1.txs n).flitSeq ++
          (y.buf.take 248 ++ List.replicate 248 0).take 248
        let s2 := s1.setTx n fun t =>
          { t with flitSeq := (t.flitSeq + 1) % 65536, frames := if done then rest else { y with buf := y.buf.drop 248 } :: rest }
        some (y.dst, flit, if done && !y.abandoned then s2.puts [(F.chnTxsStatusFrameSeq n, y.seq), (F.chnTxsStatusLastCode n, 0)] else s2)

/-! Receive streams (R321). -/

/-- Receive stream m's frame. -/
def State.rxs (s : State) (m : Nat) : Option RxFrame := s.chain.rx.getD m none

/-- Receive stream m's frame set. -/
def State.setRx (s : State) (m : Nat) (f : Option RxFrame) : State :=
  { s with chain := { s.chain with rx := updAt s.chain.rx m fun _ => f } }

/-- Whether bytes of a stream hold a sound frame-end record. -/
def endsFrame : List Byte → Bool
  | [] => false
  | b :: l => (b == 2 && leAt (b :: l) 28 4 == crc32c ((b :: l).take 28) && decide (31 ≤ l.length)) || endsFrame l

/-- What receive stream m keeps of a dropped frame after further bytes of it: nothing once its end has come, else as many as may belong to a record that
goes on. -/
def State.skipRx (s : State) (m : Nat) (l : List Byte) : State :=
  { s with chain := { s.chain with rxSkip := updAt s.chain.rxSkip m fun _ => if endsFrame l then none else some (l.drop (l.length - 31)) } }

/-- A frame dropped with a code, some bytes of it not yet used; what is still to come of it is passed over. -/
def State.dropRx (s : State) (m code : Nat) (left : List Byte) : State :=
  ((((s.setRx m none).skipRx m left).put (F.chnRxsStatusLastCode m) code).count (F.chnRxsDropsCount m) 1).raise 520

/-- Whether a frame-start record fits output m (R321). -/
def State.rxFits (s : State) (m len size : Nat) : Bool :=
  let a := (s.actReg (R.unpkFormat m)).toNat
  let same := fun (f : Field) => fieldOf f (BitVec.ofNat 32 len) == fieldOf f (BitVec.ofNat 32 a)
  same (F.unpkFormatLayout m) && same (F.unpkFormatContainer m) && same (F.unpkFormatDepth m) && same (F.unpkFormatSampling m) &&
    size == (s.actReg (R.unpkSrcSize m)).toNat && s.get (F.scnRgnStatusDepth m) == 0

/-- A frame-start record taken: the frame fits, its slot is chosen, an unshown frame there withdrawn; else the frame is
dropped. -/
def State.rxStart (s : State) (m : Nat) (x : RxFrame) (h : List Byte) : State :=
  if !s.rxFits m (leAt h 8 4) (leAt h 12 4) then s.dropRx m 0x54A x.buf
  else
    let count := s.act (F.scnSlotCfgSlotCount m)
    let slot := if s.chaseOn m then 0 else nextSlot (s.curSlot m) count
    let t := if !s.chaseOn m && s.slotReady m slot then (s.put (F.scnSlotCtrlReady m slot) 0).count (F.chnRxsDropsCount m) 1 else s
    t.setRx m (some { x with slot := slot, seq := leAt h 4 2, next := 1, buf := x.buf.drop 32 })

/-- A line group written into the slot, line by line, as the port's master; the frame is dropped when a write fails. -/
def State.rxWrite (s : State) (m : Nat) (x : RxFrame) (p first : Nat) (f : SrcFormat) (rows : List (List Byte)) : State :=
  let base := slotBase s.act m x.slot p
  let stride := slotStride s.act m x.slot p
  (List.range rows.length).foldl (fun t i => t.storeNow (0xB0 + x.port) (base + stride * (first + i)) ((rows.getD i []).take (f.lineBytes p))) s

/-- One record of a frame used up: a line group, or the end of the frame. None when the bytes received do not hold all of it, or while the gate of the
Hold lets its lines not pass (R242, R244, R248, R253). -/
def State.rxRecord (s : State) (m : Nat) (x : RxFrame) : Option State :=
  let h := x.buf.take 32
  if h.length < 32 then none
  else if leAt h 28 4 ≠ crc32c (h.take 28) ∨ leAt h 2 1 ≠ x.stream then some (s.dropRx m 0x54B x.buf)
  else if x.next = 0 then (if leAt h 0 1 = 0 then some (s.rxStart m x h) else some (s.dropRx m 0x54B x.buf))
  else
    let f := srcFormat s.act m
    let kind := leAt h 0 1
    if leAt h 4 2 ≠ x.seq then some (s.dropRx m 0x54B x.buf)
    else if kind = 2 then
      (if bit (leAt h 1 1) 1 then some (s.dropRx m 0x54C x.buf)
      else if x.next ≠ f.records + 1 ∨ leAt h 8 4 ≠ f.records then some (s.dropRx m 0x54B x.buf)
      else
        let t := (s.setRx m none).puts [(F.chnRxsStatusFrameSeq m, x.seq), (F.chnRxsStatusLastCode m, 0)]
        let u := t.count (F.chnRxsFramesCount m) 1
        some (if s.chaseOn m then u else u.put (F.scnSlotCtrlReady m x.slot) 1))
    else
      let g := (x.next - 1) / f.planes
      let p := (x.next - 1) % f.planes
      let len := leAt h 8 4
      if kind ≠ 1 ∨ f.records < x.next ∨ leAt h 6 2 ≠ g ∨ leAt h 3 1 ≠ p ∨ longestBody f.bitsPer (f.samples p) (f.recordRows p g).2 < len then
        some (s.dropRx m 0x54B x.buf)
      else if x.buf.length < 32 + len ∨ (!s.frozen (0xB0 + x.port) && s.runsHeld (0xB0 + x.port) (s.recordRuns m x.slot p g)) then none
      else
        let r := f.recordRows p g
        let body := (x.buf.drop 32).take len
        match decodeRecord (bit (leAt h 1 1) 0) f.bitsPer (f.samples p) r.2 body with
        | none => some (s.dropRx m 0x54B x.buf)
        | some rows =>
          let raw := rawOfRows f.bitsPer rows
          if leAt h 12 4 ≠ raw.length ∨ leAt h 24 4 ≠ crc32c raw then some (s.dropRx m 0x54B x.buf)
          else
            let n := f.lineBytes p
            let t := s.rxWrite m x p r.1 f ((List.range r.2).map fun i => (raw.drop (n * i)).take n)
            some (if t.frozen (0xB0 + x.port) then t.dropRx m 0x54B x.buf
              else t.setRx m (some { x with next := x.next + 1, buf := x.buf.drop (32 + len) }))

/-- Records that the bytes received hold used up, at most so many. -/
def State.rxRecords (s : State) (m : Nat) : Nat → State
  | 0 => s
  | fuel + 1 =>
    match s.rxs m with
    | none => s
    | some x =>
      match s.rxRecord m x with
      | none => s
      | some t => t.rxRecords m fuel

/-- The records that the bytes received by stream m hold used up. -/
def State.rxUse (s : State) (m : Nat) : State :=
  match s.rxs m with
  | none => s
  | some x => s.rxRecords m (x.buf.length / 32 + 1)

/-- Whether a line group that receive stream m has whole waits at the gate of the Hold. -/
def State.rxWaits (s : State) (m : Nat) : Bool :=
  match s.rxs m with
  | none => false
  | some x =>
    let f := srcFormat s.act m
    x.next != 0 && decide (32 ≤ x.buf.length) && leAt x.buf 0 1 == 1 && decide (32 + leAt x.buf 8 4 ≤ x.buf.length) &&
      !s.frozen (0xB0 + x.port) && s.runsHeld (0xB0 + x.port) (s.recordRuns m x.slot ((x.next - 1) % f.planes) ((x.next - 1) / f.planes))

/-- What time moves on at the streams: the cycles of a wait at the gate of the Hold are counted (R238), and records that waited there are used up;
`before` is the state before it. -/
def State.streamGo (s before : State) : State :=
  let cycles := (s.cycleNow - before.cycleNow).toNat
  (List.range 4).foldl (fun t n =>
    let u := if before.txWaits n then t.conflict (0xC0 + n) cycles else t
    if before.rxWaits n then (match u.rxs n with
      | none => u
      | some x => (u.conflict (0xB0 + x.port) cycles).rxUse n) else u) s

/-- Whether a pixel flit begins a frame: its payload opens with a sound frame-start record. -/
def startsFrame (payload : List Byte) : Bool :=
  leAt payload 0 1 == 0 && leAt payload 28 4 == crc32c (payload.take 28) && (payload.take 28).any (· != 0)

/-- A flit of the source and stream that the registers name while no frame is open: it begins a frame; one that opens with no sound frame start belongs
to a frame whose start is lost or corrupt, which is dropped once (R321). -/
def State.rxBegin (s : State) (m p : Nat) (flit : List Byte) : State :=
  let src := leAt flit 2 2
  let stream := leAt flit 4 1
  let payload := flit.drop 8
  if s.on (F.chnRxsCtrlEn m) && src == s.get (F.chnRxsSrcSrc m) && stream == s.get (F.chnRxsCtrlStream m) then
    (if startsFrame payload then
      (s.setRx m (some ⟨src, stream, p, 0, 0, (leAt flit 6 2 + 1) % 65536, 0, payload⟩)).rxUse m
    else match s.chain.rxSkip.getD m none with
      | some tail => s.skipRx m (tail ++ payload)
      | none => s.dropRx m 0x54B payload)
  else s

/-- A pixel flit for this unit taken by receive stream m through port p: the next one of its frame, by whichever port it comes, one after a gap, or the
beginning of a frame. -/
def State.rxFlit (s : State) (m p : Nat) (flit : List Byte) : State :=
  match s.rxs m with
  | some x =>
    if x.src ≠ leAt flit 2 2 ∨ x.stream ≠ leAt flit 4 1 then s
    else if x.flitSeq ≠ leAt flit 6 2 then (s.dropRx m 0x54B x.buf).rxBegin m p flit
    else (s.setRx m (some { x with port := p, flitSeq := (x.flitSeq + 1) % 65536, buf := x.buf ++ flit.drop 8 })).rxUse m
  | none => s.rxBegin m p flit

end Sys2Proof.Machine
end

