-- ==== Sys2Proof/Machine/Flits.lean ====
section
/-!
DEFINITION. Short flits of the chain: their layout, the queues of the ports, LINK flits, and what the views learn from flits
(R303 to R308, R313 to R315).
-/

namespace Sys2Proof.Machine

/-! Layout (R304). Multi-byte fields of a body are little-endian, in the order the table lists them. -/

/-- A short flit closed with its CRC. -/
def shortFlit (type hops dst src seq : Nat) (body : List Byte) : List Byte :=
  let l := leBytes 1 type ++ leBytes 1 hops ++ leBytes 2 dst ++ leBytes 2 src ++ leBytes 2 seq ++
    (body ++ List.replicate 36 0).take 36
  l ++ leBytes 4 (crc32c l)

/-- IDLE: 48 zero bytes (R301). -/
def idleFlit : List Byte := List.replicate 48 0

/-- TYPE of a short flit. -/
def flitType (f : List Byte) : Nat := leAt f 0 1

/-- HOPS. -/
def flitHops (f : List Byte) : Nat := leAt f 1 1

/-- DST. -/
def flitDst (f : List Byte) : Nat := leAt f 2 2

/-- SRC. -/
def flitSrc (f : List Byte) : Nat := leAt f 4 2

/-- SEQ. -/
def flitSeq (f : List Byte) : Nat := leAt f 6 2

/-- n bytes of the BODY, from an offset in it. -/
def flitBody (f : List Byte) (off n : Nat) : Nat := leAt f (8 + off) n

/-- Whether a short flit is whole and sound: 48 bytes, IDLE or a good CRC. -/
def flitGood (f : List Byte) : Bool :=
  f.length == 48 && (f == idleFlit || leAt f 44 4 == crc32c (f.take 44))

/-- A short flit with HOPS incremented at a forwarding. -/
def hopped (f : List Byte) : List Byte :=
  shortFlit (flitType f) (min 255 (flitHops f + 1)) (flitDst f) (flitSrc f) (flitSeq f) ((f.drop 8).take 36)

/-- The next SEQ of a type. -/
def State.takeSeq (s : State) (type : Nat) : Nat × State :=
  let q := ((s.chain.seqs.find? (·.1 == type)).map (·.2)).getD 1
  (q, { s with chain := { s.chain with seqs := (type, (q + 1) % 65536) :: s.chain.seqs.filter (·.1 != type) } })

/-! The ports' queues (R305). -/

/-- A flit put in the queue of a port; dropped and counted when the queue is full. -/
def State.queueFlit (s : State) (p cls : Nat) (host : Bool) (f : List Byte) : State :=
  if 64 ≤ (s.port p).queue.length then s.count (F.chnpShortErrsDrops p) 1
  else s.setPort p fun x => { x with queue := x.queue ++ [⟨cls, host, f⟩] }

/-- The class of a flit that this unit passes on: BREAK and RESTORE before the others. -/
def flitClass (f : List Byte) (forwarded : Bool) : Nat :=
  if flitType f = 5 ∨ flitType f = 6 then 0 else if forwarded then 1 else 2

/-- A flit of the unit's own queued on ports. -/
def State.sendOwn (s : State) (ports : List Nat) (host : Bool) (f : List Byte) : State :=
  ports.foldl (fun t p => t.queueFlit p (flitClass f false) host f) s

/-- The ports that are UP. -/
def State.upPorts (s : State) : List Nat := (List.range 3).filter s.portUp

/-- The ports on which the unit originates a broadcast (R308): at the end of an open ring, the one that is UP. -/
def State.castPorts (s : State) : List Nat :=
  if s.get F.chnTopoTopology = 2 then (if s.ringClosed then [1] else [0, 1].filter s.portUp) else s.upPorts

/-! Straight on, and the ports a flit leaves on (R308). -/

/-- The port opposite an arrival port; a flit from port C goes upstream. -/
def State.opposite (s : State) (p : Nat) : Nat :=
  if p = 0 then 1 else if p = 1 then 0 else if s.get F.chnTopoUpstream < 2 then s.get F.chnTopoUpstream else 1

/-- The ports on which a flit that arrived at p leaves. -/
def State.leavesOn (s : State) (p dst src : Nat) : List Nat :=
  if s.chainAddr = 0 then [s.opposite p]
  else if dst = 0xFFFF then (if src = s.chainAddr then [] else s.upPorts.filter (· != p))
  else if dst = s.chainAddr then []
  else match s.routeTo dst with
    | some q => [q]
    | none => [s.opposite p]

/-- Whether a flit is for this unit. -/
def State.consumes (s : State) (dst src : Nat) : Bool :=
  s.chainAddr != 0 && (dst == s.chainAddr || (dst == 0xFFFF && src != s.chainAddr))

/-! The views (R313 to R315). -/

/-- Whether the management view has an address at a port and a number of hops. -/
def State.mgmtHas (s : State) (a p hops : Nat) : Bool := s.chain.mgmt.any fun r => r.addr == a && r.port == p && r.hops == hops

/-- The flag of an address as its two views stand (R314, R315): counted and told when it is set. -/
def State.judgeViews (s : State) (a : Nat) : State :=
  match s.dataView a with
  | none => { s with chain := { s.chain with disagree := s.chain.disagree.filter (· != a) } }
  | some d =>
    if s.mgmtHas a d.port d.hops then { s with chain := { s.chain with disagree := s.chain.disagree.filter (· != a) } }
    else if s.chain.disagree.contains a then s
    else
      (({ s with chain := { s.chain with disagree := a :: s.chain.disagree } }).count F.chnDisagreeCountCount 1).raise 517

/-- A flit from an address that was consumed or forwarded (R313). -/
def State.noteData (s : State) (a p hops : Nat) : State :=
  if a = 0 then s
  else
    ({ s with chain := { s.chain with
        data := ⟨a, p, hops, s.time.ticks⟩ :: s.chain.data.filter (·.addr != a) } }).judgeViews a

/-- An entry of the management view learnt. -/
def State.learn (s : State) (a p hops : Nat) : State :=
  if a = 0 ∨ a = s.chainAddr then s
  else
    let l := s.chain.mgmt.filter fun r => !(r.addr == a && r.port == p)
    ({ s with chain := { s.chain with mgmt := l ++ [(⟨a, p, hops⟩ : ChainRoute)] } }).judgeViews a

/-! LINK and TIME flits (R303, R304, R306). -/

/-- The states of the three ports as one number. -/
def State.portStates (s : State) : Nat := s.portSt 0 + 8 * s.portSt 1 + 64 * s.portSt 2

/-- The topology a LINK flit on a port tells: what lies behind a branch is no part of the ring. -/
def State.toldTopology (s : State) (p : Nat) : Nat :=
  if s.get F.chnTopoTopology = 2 ∧ s.get (F.chnpStatusRole p) = 3 then 3 else s.get F.chnTopoTopology

/-- The LINK flit of port p: address, role, ring state and topology, port states, FREED, Boarding epoch. -/
def State.linkFlit (s : State) (p : Nat) : List Byte × State :=
  let q := s.takeSeq 2
  (shortFlit 2 0 0 s.chainAddr q.1 (leBytes 2 s.chainAddr ++ leBytes 1 (s.get (F.chnpStatusRole p)) ++
    leBytes 1 (4 * s.get F.chnTopoRingState + s.toldTopology p) ++ leBytes 2 s.portStates ++ leBytes 2 (s.port p).freed ++
    leBytes 2 s.chain.epoch), q.2)

/-- The TIME flit of port p, departing `sub` after the tick; it is kept to be named by the peer. -/
def State.timeFlit (s : State) (p sub : Nat) : List Byte × State :=
  let q := s.takeSeq 1
  let now := s.stampNow sub
  let seen := ((s.port p).seen).getD ⟨0, 0, 0⟩
  (shortFlit 1 0 0 s.chainAddr q.1 (leBytes 12 now ++ leBytes 12 seen.time ++ leBytes 2 seen.id ++ leBytes 2 s.epoch),
    q.2.setPort p fun x => { x with sentTimes := (⟨now, s.epoch, q.1⟩ :: x.sentTimes).take 16 })

/-- Pixel flits sent on a port and not yet freed (R306). -/
def State.outstanding (s : State) (p : Nat) : Nat := ((s.port p).sent + 65536 - (s.port p).peerFreed % 65536) % 65536

/-- CREDITS of a port shown. -/
def State.showCredits (s : State) (p : Nat) : State := s.put (F.chnpCreditsOutstanding p) (min 511 (s.outstanding p))

end Sys2Proof.Machine
end

