-- ==== Sys2Proof/Machine/Board.lean ====
section
/-!
DEFINITION. Boarding, ring breaks and their reroutes (R309 to R312).
-/

namespace Sys2Proof.Machine

/-! Boarding (R309, R310). -/

/-- A LINK flit made due on every port. -/
def State.linksDue (s : State) : State :=
  { s with chain := { s.chain with ports := s.chain.ports.map fun x => { x with linkDue := true } } }

/-- A newer Boarding epoch: the unit is unaddressed again, its views forgotten. A token that it holds, that of a Boarding of its own among them, is
remembered by its root until a token of the new epoch comes (R310). -/
def State.newEpoch (s : State) (e : Nat) : State :=
  let busy := s.on F.chnBoardStatusBusy
  let c := s.chain
  let held := if c.onC || (busy && s.on F.chnAddrRoot) then some c.root else c.heldRoot
  let t := { s with chain := { c with
    epoch := e, root := 0, onC := false, heldRoot := held, branches := false, mgmt := [], closed := [], data := [],
    disagree := [], broken := [] } }
  let u := t.puts [(F.chnAddrAddr, 0), (F.chnAddrRoot, 0), (F.chnTopoUpstream, 3), (F.chnTopoTopology, 0), (F.chnTopoRingState, 0),
    (F.chnpStatusRole 0, 0), (F.chnpStatusRole 1, 0), (F.chnpStatusRole 2, 0)]
  u.linksDue

/-- Whether a Boarding epoch is newer than the unit's (modulo 2^16). -/
def State.epochNewer (s : State) (e : Nat) : Bool :=
  let d := (e + 65536 - s.chain.epoch % 65536) % 65536
  d != 0 && decide (d < 32768)

/-- A BOARD token sent on a port. -/
def State.sendToken (s : State) (p next : Nat) (ret full : Bool) : State :=
  let q := s.takeSeq 3
  q.2.queueFlit p 2 false (shortFlit 3 0 0 s.chainAddr q.1
    (leBytes 8 s.chain.root ++ leBytes 2 s.chain.epoch ++ leBytes 2 next ++ leBytes 1 (ret.toNat + 2 * full.toNat)))

/-- A Boarding of this root ended with a code; BUSY clear. -/
def State.boardEnd (s : State) (code : Nat) : State :=
  s.puts [(F.chnBoardStatusBusy, 0), (F.chnBoardStatusLastCode, code)]

/-- The downstream port of the unit: the other of A and B than its upstream port; of the root, B, or A while B is not UP. -/
def State.downPort (s : State) : Nat :=
  if s.on F.chnAddrRoot then (if s.portUp 1 || !s.portUp 0 then 1 else 0)
  else if s.get F.chnTopoUpstream = 0 then 1 else if s.get F.chnTopoUpstream = 1 then 0 else 1

/-- The management view of a closed ring at its root, completed with the way round through the port the token came back on:
units in address order, the units of the ring those on the path to the last one. -/
def State.ringViews (s : State) (q : Nat) : State :=
  let via := s.downPort
  let hopsOf := fun a => ((s.chain.mgmt.find? fun r => r.addr == a && r.port == via).map (·.hops))
  let last := s.get (F.chnpStatusPeer q)
  match hopsOf last with
  | none => s
  | some lastHops =>
    -- the last unit at each depth before `last` is its ancestor
    let onRing := fun a h => (List.range (last + 1)).all fun b => !(decide (a < b)) || (match hopsOf b with
      | some hb => decide (h < hb)
      | none => true)
    let units := (List.range (s.get F.chnBoardStatusUnits - 1)).map (· + 2)
    (units.foldl (fun (acc : State × Nat) a =>
      match hopsOf a with
      | none => acc
      | some h =>
        let m := if decide (a ≤ last) && onRing a h then h else acc.2
        (acc.1.learn a q (lastHops - m + (h - m)), m)) (s, 0)).1

/-- The Boarding of this root finished: in a ring, a tree or a line. -/
def State.boardDone (s : State) (next : Nat) (ring : Option Nat) : State :=
  let topology := if ring.isSome then 2 else if s.chain.branches then 3 else 1
  let t := ((s.boardEnd 0).puts [(F.chnBoardStatusUnits, next - 1), (F.chnTopoTopology, topology)]).raise 516
  match ring with
  | some q => (t.ringViews q).linksDue
  | none => t.linksDue

/-- The token sent on from a unit that has taken its address and whose port C is done: to the downstream port, or back with
RET; the root then has finished. -/
def State.tokenDown (s : State) (next : Nat) : State :=
  let d := s.downPort
  if s.portUp d then (s.put (F.chnpStatusRole d) 2).sendToken d next false false
  else if s.on F.chnAddrRoot then s.boardDone next none
  else s.sendToken (s.get F.chnTopoUpstream) next true false

/-- The token sent on from a unit that has just taken its address: on port C while it is UP and not upstream, else
downstream. -/
def State.tokenOn (s : State) (next : Nat) : State :=
  if s.portUp 2 ∧ s.get F.chnTopoUpstream ≠ 2 then
    (({ s with chain := { s.chain with onC := true, branches := true } }).put (F.chnpStatusRole 2) 3).sendToken 2 next false false
  else s.tokenDown next

/-- A forward token taken by an unaddressed unit on port p from a neighbour: its address, its upstream port, BOARDED to the root, the token on. An
address 0xFFFF is never handed out. BOARDED's HOPS from root counts the units between: none next to the root; no rule tells a unit farther off how
many there are, so the number is free between one and the addresses before its neighbour's. -/
def State.takeAddress (s : State) (p serial next from_ : Nat) : State :=
  let s0 := { s with chain := { s.chain with root := serial, heldRoot := none } }
  if 0xFFFF ≤ next then s0.sendToken p next true true
  else
    let s1 := s0.puts [(F.chnAddrAddr, next), (F.chnTopoUpstream, p), (F.chnpStatusRole p, 1)]
    let q := s1.takeSeq 4
    let hops := if from_ ≤ 1 then 0 else min 255 (1 + Config.freeValue s1.freeCount % (from_ - 1))
    let f := shortFlit 4 0 1 next q.1 (leBytes 8 Config.serial.toNat ++ leBytes 2 next ++ leBytes 1 p ++ leBytes 1 hops ++
      leBytes 2 s1.portStates)
    ((q.2.bumpFree.queueFlit p 2 false f).linksDue).tokenOn (next + 1)

/-- A returning token at an addressed unit on port p. -/
def State.tokenBack (s : State) (p next : Nat) (full : Bool) : State :=
  if full then
    (if s.on F.chnAddrRoot then s.boardEnd 0x543 else s.sendToken (s.get F.chnTopoUpstream) next true true)
  else if p = 2 ∧ s.chain.onC then ({ s with chain := { s.chain with onC := false } }).tokenDown next
  else if p = s.downPort then
    (if s.on F.chnAddrRoot then s.boardDone next none else s.sendToken (s.get F.chnTopoUpstream) next true false)
  else s

/-- The root of the token that the unit holds: its own Boarding runs, or it waits for the token on port C; or it held one when a newer epoch came. -/
def State.heldToken (s : State) : Option Nat :=
  if s.chain.onC || (s.on F.chnBoardStatusBusy && s.on F.chnAddrRoot) then some s.chain.root else s.chain.heldRoot

/-- A BOARD token received on port p (R309, R310). -/
def State.rxToken (s : State) (p : Nat) (f : List Byte) : State :=
  let serial := flitBody f 0 8
  let e := flitBody f 8 2
  let next := flitBody f 10 2
  let ret := bit (flitBody f 12 1) 0
  let full := bit (flitBody f 12 1) 1
  let t := if s.epochNewer e then s.newEpoch e else s
  let running := t.on F.chnBoardStatusBusy
  if t.chain.epoch ≠ e then
    -- a token of an older epoch meets a Boarding of a higher serial, which is the one that ends
    { t with chain := { t.chain with conflict := t.chain.conflict || (running && t.on F.chnAddrRoot && decide (serial < t.chain.root)) } }
  else if t.heldToken.any (· != serial) then
    -- two roots: neither token goes on; the token of the lower serial is taken
    let u := { t with chain := { t.chain with onC := false, heldRoot := none } }
    let held := t.heldToken.getD 0
    if serial < held ∧ !ret ∧ next < 0xFFFF then
      let v := { u with chain := { u.chain with root := serial, conflict := u.chain.conflict || running } }
      v.puts [(F.chnAddrRoot, 0), (F.chnAddrAddr, next), (F.chnTopoUpstream, p), (F.chnpStatusRole p, 1)]
    else { u with chain := { u.chain with root := held } }
  else if t.chainAddr = 0 then (if ret then t else t.takeAddress p serial next (flitSrc f))
  else if serial ≠ t.chain.root then t
  else if ret then (if t.on F.chnAddrRoot && !t.on F.chnBoardStatusBusy then t else t.tokenBack p next full)
  else if t.on F.chnAddrRoot ∧ t.on F.chnBoardStatusBusy ∧ p < 2 ∧ p ≠ t.downPort then t.boardDone next (some p)
  else t

/-! Ring breaks (R311, R312). -/

/-- The routes through port p that crossed a break, as `cross` says, switched to the opposite port, those that the data view alone knew among them; the hops
are those the closed ring gives that way, free where it gives none. -/
def State.switchRoutes (s : State) (p : Nat) (cross : Nat → Bool) : State :=
  let q := 1 - p
  let c := s.chain
  let moved := c.mgmt.filter fun r => r.port == p && cross r.addr
  let kept := c.mgmt.filter fun r => !(r.port == p && cross r.addr)
  let known := fun a => c.mgmt.any fun r => r.addr == a
  let seen := (c.data.filter fun d => d.port == p && cross d.addr && !known d.addr).map fun d => d.addr
  let root := s.get F.chnTopoUpstream == p && cross 1 && !known 1 && !seen.contains 1
  let far := (moved.map fun r => r.addr) ++ seen ++ (if root then [1] else [])
  let addrs := far.filter fun a => !(kept.any fun r => r.addr == a && r.port == q)
  let t := { s with chain := { c with mgmt := kept, data := c.data.filter fun d => !(d.port == p && cross d.addr) } }
  addrs.foldl (fun t a =>
    match c.closed.find? (fun r => r.addr == a && r.port == q) with
    | some r => t.learn a q r.hops
    | none => (t.learn a q (Config.freeValue t.freeCount % 256)).bumpFree) t

/-- The short and pixel flits queued for a port discarded. -/
def State.dropQueued (s : State) (p : Nat) : State :=
  let t := s.setPort p fun x => { x with queue := [] }
  let u := { t with chain := { t.chain with
    local_ := (t.chain.local_.map fun e => (e.1.filter (· != p), e.2)).filter fun e => !e.1.isEmpty
    ports := t.chain.ports.map fun x =>
      let l := x.pixIn.map fun e => (e.1.filter (· != p), e.2)
      let stay := l.filter fun e => !e.1.isEmpty
      { x with pixIn := stay, freed := (x.freed + (l.length - stay.length)) % 65536 } } }
  u

/-- The ring state set to OPEN; the routes of the closed ring are kept. -/
def State.openRing (s : State) : State :=
  let t := if s.ringClosed then { s with chain := { s.chain with closed := s.chain.mgmt } } else s
  (t.put F.chnTopoRingState 1).raise 514

/-- The unit at a break: port p has gone DOWN between two units of a ring, closed or already open (R311). -/
def State.ringBreak (s : State) (p : Nat) : State :=
  if s.get F.chnTopoTopology ≠ 2 ∨ 2 ≤ p then s
  else
    let s1 := { s.openRing with chain := { s.openRing.chain with broken := s.openRing.chain.broken ++ [p] } }
    let s2 := ((s1.switchRoutes p fun _ => true).dropQueued p).raise 515
    let q := s2.takeSeq 5
    let f := shortFlit 5 0 0xFFFF s.chainAddr q.1 (leBytes 2 s.chainAddr ++ leBytes 2 (s.get (F.chnpStatusPeer p)))
    (q.2.sendOwn [1 - p] false f).holdRoute

/-- BREAK received on port p from the unit x at one side of the break, y at the other. -/
def State.rxBreak (s : State) (p x y : Nat) : State :=
  let first := s.get F.chnTopoRingState = 0
  let s1 := if first then s.openRing else s
  let own := s.chainAddr
  let down := fun (a from_ : Nat) => (a + 65536 - from_) % 65536
  -- downstream of the unit the break lies before y, the whole ring away where y is this unit; upstream of it, everything but the units from x down
  -- to this one
  let far := if y = own then 65536 else down y own
  let cross := fun a => if p = s.downPort then decide (far ≤ down a own) else !(decide (down a x < down own x))
  let member := s.get F.chnTopoTopology = 2 ∧ p < 2
  let s2 := if member then (s1.switchRoutes p cross) else s1
  let moved := s2.chain.mgmt != s1.chain.mgmt
  if first ∨ moved then (s2.raise 515).holdRoute else s2

/-- The closed ring's routes taken again (R312); the ports kept in STANDBY are UP. -/
def State.closeRing (s : State) : State :=
  if s.get F.chnTopoRingState = 0 then s
  else
    let c := s.chain
    let same := fun a => (c.mgmt.filter (·.addr == a)) == (c.closed.filter (·.addr == a))
    let mgmt := c.closed ++ c.mgmt.filter fun r => !c.closed.any (·.addr == r.addr)
    let t := { s with chain := { c with mgmt := mgmt, data := c.data.filter (fun d => same d.addr), closed := [], broken := [] } }
    let u := (t.put F.chnTopoRingState 0).raise 515
    (c.broken.foldl (fun v p => if v.portSt p = 3 then (v.put (F.chnpStatusState p) 2).raise 512 else v) u).holdRoute

/-! Ports (R303). -/

/-- A port that has met the criteria comes UP (R303): 64 sub-rounds of good markers, little skew, a good LINK flit; at the break of an open ring it waits in
STANDBY (R312). The flits sent and FREED go on counting (R306); where they do not fit a buffer of 256, since an end has begun anew, the flits sent begin at
FREED (DESIGN CHOICE, log 107). -/
def State.portComes (s : State) (p skew : Nat) : State :=
  let st := s.portSt p
  if (st = 1 ∨ st = 3 ∨ st = 4) ∧ (s.port p).linkSeen ∧ 64 ≤ (s.port p).goodMarks ∧ skew ≤ 64 then
    if s.get F.chnTopoRingState = 1 ∧ s.chain.broken.contains p then s.put (F.chnpStatusState p) 3
    else
      let t := s.setPort p fun x => { x with sent := if s.outstanding p ≤ 256 then x.sent else x.peerFreed, linkDue := true }
      ((t.put (F.chnpStatusState p) 2).raise 512).showCredits p
  else s

/-- A port looks for its partner anew (R303): its markers, its LINK flit and its generators count from here (R301), and so do the residual errors of its
slices (R230). -/
def State.portSeeks (s : State) (p : Nat) : State :=
  (List.range 5).foldl (fun t k => t.put (F.chnrxResidCount p k) 0)
    (s.setPort p fun x => { x with
      goodMarks := 0, lastMark := none, linkSeen := false, rxGen := List.replicate 4 none, rxOk := false, rxKeys := [], linkDue := true })

/-- A port that is UP or in STANDBY goes DOWN. -/
def State.portFalls (s : State) (p : Nat) : State :=
  let st := s.portSt p
  if st ≠ 2 ∧ st ≠ 3 then s
  else
    let s1 := ((s.put (F.chnpStatusState p) 4).portSeeks p).setPort p fun x => { x with seen := none, sentTimes := [] }
    let s2 := if st = 2 then ((s1.count (F.chnpDownsCount p) 1).raise 513).ringBreak p else s1
    -- a follower whose time port has gone with no other way to the root
    if st = 2 ∧ s.timeRole = 2 ∧ s.timePort = p ∧ s2.portSt s2.timePort ≠ 2 then s2.loseSource 0x603 else s2

end Sys2Proof.Machine
end

