-- ==== Sys2Proof/Machine/March.lean ====
section
/-!
DEFINITION. The march engine (R245 to R251): its algorithms over the raw 266-bit word, what a failing read shows, its windows.
-/

namespace Sys2Proof.Machine

/-! The algorithms (R245). -/

/-- An operation of a march element: a read or a write of the data background (0) or its complement (1). -/
inductive MarchOp where
  | r0
  | r1
  | w0
  | w1
deriving DecidableEq, Repr

/-- An element of an algorithm: whether it runs from the highest word down, and its operations on each word; "either" order runs
up (DESIGN CHOICE, log 98). -/
def marchElement (variant14 : Bool) : Nat → Bool × List MarchOp
  | 1 => (false, [.w0])
  | 2 => (false, [.r0, .w1])
  | 3 => (false, [.r1, .w0])
  | 4 => (true, [.r0, .w1])
  | 5 => (true, [.r1, .w0])
  | 6 => (false, if variant14 then [.r0, .w1, .r1, .w0] else [])
  | 7 => (false, [.r0])
  | _ => (false, [])

/-- The bits 0101… of a raw word, and their complement. -/
def checkerWord (odd : Bool) : BitVec 266 :=
  BitVec.ofNat 266 (if odd then (2 ^ 267 - 2) / 3 else (2 ^ 266 - 1) / 3)

/-- The data background of a row: solid, or a checkerboard that changes from row to row. -/
def background (checker : Bool) (row : Nat) : BitVec 266 := if checker then checkerWord (row % 2 == 1) else 0

/-- What a read expects; a write expects nothing. -/
def MarchOp.expects (checker : Bool) (row : Nat) : MarchOp → Option (BitVec 266)
  | .r0 => some (background checker row)
  | .r1 => some (~~~ background checker row)
  | .w0 | .w1 => none

/-- The operations of an algorithm on one word: 10 or 14. -/
def marchOps (variant14 : Bool) : Nat := ((List.range 8).map fun e => (marchElement variant14 e).2.length).sum

/-! What the test found (R251). -/

/-- The row of a word within its bank: relief rows follow the 1,024 addressed ones, in a relief bank as well (DESIGN CHOICE, log 98). -/
def unitRow : MarchUnit → Nat
  | .word a => rowOfAddr a.toNat
  | .reliefRow _ r _ => 1024 + r
  | .reliefBank _ w => w / 128

/-- The place of a word within its bank. -/
def unitPlace : MarchUnit → Nat
  | .word a => a.toNat % 0x400000 / 32
  | .reliefRow _ r w => (1024 + r) * 128 + w
  | .reliefBank _ w => w

/-- The bank of a word, relief bank k following the 256 addressed ones. -/
def unitBank : MarchUnit → Nat
  | .word a => bankOf a.toNat
  | .reliefRow b _ _ => b
  | .reliefBank k _ => 256 + k

/-- The failing bit of a read: the lowest one that is not as expected (DESIGN CHOICE, log 98); none when the algorithm has no such read
or the value is the expected one. -/
def failBit (f : MarchFail) (variant14 checker : Bool) : Option Nat :=
  match (marchElement variant14 f.element).2[f.op.val]? with
  | some op => match op.expects checker (unitRow f.unit) with
    | some v => (List.range 266).find? fun i => (f.read ^^^ v).getLsbD i
    | none => none
  | none => none

/-- The moment of a read in a test, as a number that grows with it: windows one after the other in a preserving test, the banks of a
destructive one in parallel and told apart by number. -/
def failMoment (f : MarchFail) (preserving variant14 : Bool) : Nat :=
  let (down, _) := marchElement variant14 f.element
  let size := if preserving then 64 else 133120
  let p := unitPlace f.unit % size
  let place := if down then size - 1 - p else p
  let win := if preserving then unitBank f.unit * 2048 + unitPlace f.unit / 64 else 0
  (((win * 8 + f.element) * 262144 + place) * 4 + f.op) * 512 + (if preserving then 0 else unitBank f.unit)

/-- A failing read put in its place among later ones. -/
def insertFail (preserving variant14 : Bool) (f : MarchFail) : List MarchFail → List MarchFail
  | [] => [f]
  | g :: rest =>
    if failMoment f preserving variant14 ≤ failMoment g preserving variant14 then f :: g :: rest
    else g :: insertFail preserving variant14 f rest

/-- The reads that failed, in the order in which the engine made them; what no read of the test can have shown is no failure. -/
def orderFails (preserving variant14 checker : Bool) (fails : List MarchFail) : List MarchFail :=
  (fails.filter fun f => (failBit f variant14 checker).isSome).foldr (insertFail preserving variant14) []

/-- The words that failed, in the order of their first failures. -/
def failWords (l : List MarchFail) : List MarchUnit := (l.map (·.unit)).foldl (fun acc u => if acc.contains u then acc else acc ++ [u]) []

/-- The first failure of a test shown; a relief row or bank has no address, which leaves a free value (R233). -/
def State.showFail (s : State) (variant14 checker : Bool) : List MarchFail → State
  | [] => s
  | f :: _ =>
    let bit := (failBit f variant14 checker).getD 0
    let t := s.puts [(F.holdMarchFailBitElement, f.element), (F.holdMarchFailBitBit, bit)]
    match f.unit with
    | .word a => t.put F.holdMarchFailAddr (a.toNat / 32)
    | .reliefRow .. | .reliefBank .. => (t.put F.holdMarchFailAddr t.free).bumpFree

/-- The spares of 16 that no march test found failing, in the order in which repairs take them. -/
def goodSpares (bad : List Nat) : List Nat := (List.range 16).filter fun i => !bad.contains i

/-- The relief rows of a bank that march tests found failing. -/
def State.badRowsOf (s : State) (bank : Nat) : List Nat := (s.hold.badRows.filter (·.1 == bank)).map (·.2)

/-- A spare that a test found failing: a relief row or bank that serves is not one, it answers under the number it replaces. -/
def State.badSpare (s : State) : MarchUnit → State
  | .word _ => s
  | .reliefRow b r _ =>
    if s.hold.badRows.contains (b.val, r.val) ||
        ((goodSpares (s.badRowsOf b)).take (s.get (F.holdOwnerRowsUsed b))).contains r.val then s
    else ({ s with hold := { s.hold with badRows := s.hold.badRows ++ [(b.val, r.val)] } }).judgeBank b 4
  | .reliefBank k _ =>
    if s.hold.badBanks.contains k.val || ((goodSpares s.hold.badBanks).take s.hold.reliefBanks.length).contains k.val then s
    else { (s.put F.holdRepairStatusBanksFree (s.get F.holdRepairStatusBanksFree - 1)) with
        hold := { s.hold with badBanks := s.hold.badBanks ++ [k.val] } }

/-- The failures of a test recorded (R251, R414): the first in HOLD_MARCH_FAIL, every failing word counted, the words that no longer
hold their owner's data marked, their rows WORN, spares that fail no longer free. -/
def State.noteFails (s : State) (fails : List MarchFail) (preserving variant14 checker : Bool) : State :=
  let l := orderFails preserving variant14 checker fails
  (failWords l).foldl (fun t u =>
    let v := t.count F.holdMarchFaultsCount 1
    match u with
    | .word a =>
      let x := if preserving && l.any (fun f => f.unit == u && f.lost) then v.loseWord (wordOf a.toNat) else v
      x.rowWorn (bankOf a.toNat) (rowOfAddr a.toNat) 4
    | .reliefRow .. | .reliefBank .. => v.badSpare u) (s.showFail variant14 checker l)

/-- The failures that lie in a range of words, of spares only where a destructive test works on them. -/
def failsIn (destructive : Bool) (lo hi : Nat) (fails : List MarchFail) : List MarchFail :=
  fails.filter fun f => match f.unit with
    | .word a => decide (lo ≤ a.toNat) && decide (a.toNat < hi)
    | .reliefRow b .. => destructive && decide (lo ≤ b * 0x400000) && decide (b * 0x400000 < hi)
    | .reliefBank .. => destructive

/-! Windows (R248 to R250). -/

/-- The accesses that a given-up or finished window held, presented. -/
def State.afterWindow (s : State) (w : Option Nat) : State :=
  s.releaseHeld fun a => some (marchWindowOf a.addr.toNat) == w || some (bankOf a.addr.toNat) == w.map (· / 2048)

/-- The windows of a requested test's range that lie beyond the last. -/
def MarchTest.last (t : MarchTest) : Nat := 2048 * (t.first + t.count)

/-- The fabric cycles of a window: save, the algorithm, restore (R248). -/
def MarchTest.cycles (t : MarchTest) : Nat := 128 + 64 * marchOps t.variant14

/-- A requested preserving test as far as it has come by now: its window ends when its cycles have passed, and the next one begins; a
window that was given up begins again (R248, R251). -/
def State.marchGo (s : State) : State :=
  match s.hold.test with
  | none => s
  | some t =>
    if !t.preserving then s
    else match s.hold.window with
      | none =>
        if t.at_ < t.last then
          { s with hold := { s.hold with window := some t.at_, test := some { t with since := s.cycleNow } } }
        else s
      | some w =>
        if s.cycleNow - t.since < (t.cycles : Int) then s
        else
          let more := decide (w + 1 < t.last)
          ({ s with hold := { s.hold with
              window := if more then some (w + 1) else none
              test := some { t with at_ := w + 1, since := t.since + (t.cycles : Int) } } }).afterWindow (some w)

end Sys2Proof.Machine
end

