-- ==== Sys2Proof/Machine/SstCheck.lean ====
section
/-!
DEFINITION. The validation of a structure stream (R21 to R40, R42, R43): the checks in their fixed order, each with its code
and the record it fails in.
-/

namespace Sys2Proof.Machine

/-- A verdict: a code and a word offset. -/
abbrev Verdict := Option (Nat × Nat)

/-- The first record that fails a test, under a code. -/
def failAt (code : Nat) (rs : List Record) (bad : Record → Bool) : Verdict := (rs.find? bad).map fun r => (code, r.off)

/-- The first record that fails a test of itself and the records before it. -/
def failAfter (code : Nat) (bad : List Record → Record → Bool) : List Record → List Record → Verdict
  | _, [] => none
  | before, r :: rest => if bad before r then some (code, r.off) else failAfter code bad (before ++ [r]) rest

/-- A failure that lies in no record. -/
def failIf (code : Nat) (c : Bool) : Verdict := if c then some (code, 0) else none

/-- The first verdict of a list. -/
def firstFail (l : List Verdict) : Verdict := l.findSome? id

/-- An OUTPUT, ROUTE or LANEMAP record as part of a configuration. -/
def recCfg (r : Record) : OutConfig :=
  ⟨if r.type = 1 then r.pay else [], if r.type = 2 then r.pay else [], if r.type = 3 then r.pay else [], 0, 0⟩

/-! The form of a stream (checks 2 to 11, R21 to R25). -/

/-- The CRC of a stream, header word 5 taken as 0 (R23). -/
def streamCrc (ws : List Word) : Nat := crc32c (bytesOfWords (ws.set 5 0))

/-- The record types of R25. -/
def recordTypes : List Nat := [1, 2, 3, 4, 5, 6, 7, 8, 0xF0]

/-- Whether a record's payload has the length its type and entry count ask for. -/
def lengthOk (r : Record) : Bool :=
  let n := bits (pw r.pay 0) 15 0
  if r.type = 1 ∨ r.type = 3 then r.len == 10
  else if r.type = 2 then r.len == 1 + 3 * bits (pw r.pay 0) 15 8
  else if r.type = 4 then r.len == 1 + n && decide (1 ≤ n) && decide (n ≤ 256)
  else if r.type = 5 then r.len == 1 + 3 * n && decide (n ≤ 1024)
  else if r.type = 6 then r.len == 2
  else if r.type = 7 then r.len == 1
  else if r.type = 8 then r.len == 3
  else r.len == 33

/-- Whether a record occurs more often than R25 allows, given those before it. -/
def duplicate (all before : List Record) (r : Record) : Bool :=
  if r.type = 1 then before.any fun p => p.type == 1 && recOutput p == recOutput r
  else if r.type = 2 ∨ r.type = 3 then
    !(all.any fun p => p.type == 1 && recOutput p == recOutput r) ||
      before.any fun p => p.type == r.type && recOutput p == recOutput r
  else before.any (·.type == r.type)

/-- Whether a required record is absent. -/
def missing (rs : List Record) : Bool :=
  [4, 6, 8].any (fun t => (ofType rs t).isEmpty) ||
    (ofType rs 1).any fun o => [2, 3].any fun t => !(rs.any fun p => p.type == t && recOutput p == recOutput o)

/-! Signature and reserved fields (checks 12 to 14, R39, R40). -/

/-- Whether a SIGNATURE record verifies against a key hash (R39). -/
def signatureOk (ws : List Word) (r : Record) (hash : Nat) : Bool :=
  let pub := bytesOfWords ((r.pay.drop 1).take 16)
  let sig := bytesOfWords ((r.pay.drop 17).take 16)
  let msg := bytesOfWords ((ws.set 5 0).take (r.off + 1 + 17))
  bits (pw r.pay 0) 7 0 == 1 && sha256 pub == hash &&
    ecdsaVerify (ofBe (pub.take 32)) (ofBe (pub.drop 32)) (ofBe (sig.take 32)) (ofBe (sig.drop 32)) (sha256 msg)

/-- Whether a word meets a mask of reserved bits. -/
def hits (w mask : Nat) : Bool := w &&& mask != 0

/-- Whether a RIGHTS entry has a reserved bit set (R36). Which bits of words 1 and 2 of an entry with an invalid KIND are reserved is not
said; the model counts none, so that such an entry is refused for its KIND, with 0x120 (DESIGN CHOICE, log 87). -/
def rightsReserved (e : List Word) : Bool :=
  let k := bits (pw e 0) 23 20
  hits (pw e 0) 0x000CFFFF ||
    (k == 0 && (hits (pw e 1) 0xFFFE0000 || pw e 2 != 0)) || (k == 1 && hits (pw e 1) 0xFC000FFF) ||
    (k == 2 && hits (pw e 1) 0xFFFFFFF8)

/-- Whether a record has a reserved field or an unused SRC_RATIO set. -/
def reservedSet (r : Record) : Bool :=
  let w := pw r.pay
  if r.type = 1 then hits (w 0) 0xFF0000FC || hits (w 4) 0xFFFF0000 || hits (w 9) 0xFF00F000
  else if r.type = 2 then
    hits (w 0) 0xFFFF00FC || (List.range ((r.len - 1) / 3)).any fun k =>
      hits (w (1 + 3 * k)) 0x00F00000 ||
        (bits (w (1 + 3 * k)) 31 24 != 1 && bits (w (1 + 3 * k)) 31 24 != 2 && bits (w (1 + 3 * k)) 19 8 != 0)
  else if r.type = 3 then hits (w 0) 0xFE00FFFC
  else if r.type = 4 then hits (w 0) 0xFFFF0000 || (r.pay.drop 1).any fun e => hits e.toNat 0x00F80000
  else if r.type = 5 then hits (w 0) 0xFFFF0000 || (rightsEntries r.pay).any rightsReserved
  else if r.type = 6 then hits (w 0) 0xFFFFFEEC || hits (w 1) 0xFFFF0000
  else if r.type = 7 then hits (w 0) 0xFFFFFFF0
  else if r.type = 8 then hits (w 0) 0xFFFFE8CC
  else hits (w 0) 0xFFFFFF00

/-- Whether the header has a reserved field set. -/
def headerReserved (ws : List Word) : Bool :=
  hits (pw ws 1) 0xFFFF0000 || hits (pw ws 3) 0xFFFFFFF0 || hits (pw ws 6) 0xFFFF0000 || pw ws 7 != 0

/-! OUTPUT (checks 16 to 19, R27, R28). -/

/-- Invalid fields of an OUTPUT record. -/
def outputFieldBad (c : OutConfig) : Bool :=
  decide (2 < c.panelType) || decide (3 < c.timingClass) || !([8, 10, 12].contains c.driveDepth) || decide (16 < c.gateCount) ||
    c.backVdiv == 3 || c.backHdiv == 3 || (!c.dual && (c.backVdiv != 0 || c.backHdiv != 0))

/-- A raster outside its ranges. -/
def rasterBad (c : OutConfig) : Bool :=
  decide (c.vActive < 16) || decide (8640 < c.vActive) || c.hActive % 2 == 1 || decide (c.hActive < 64) ||
    decide (15360 < c.hActive) || decide (c.vTotal < c.vActive + 2) || decide (16384 < c.vTotal) ||
    decide (c.hTotal < c.hActive + 32) || decide (32768 < c.hTotal)

/-- A nominal refresh outside 1 to 480 Hz. -/
def refreshBad (c : OutConfig) : Bool := c.den == 0 || decide (c.num < c.den) || decide (480 * c.den < c.num)

/-- Totals or refresh outside the panel's declared range. -/
def panelBad (c : OutConfig) : Bool :=
  decide (c.hTotal < c.hTotalMin) || decide (c.hTotalMax < c.hTotal) || decide (c.vTotal < c.vTotalMin) ||
    decide (c.vTotalMax < c.vTotal) || decide (1000 * c.num < c.minMhz * c.den) || decide (c.maxMhz * c.den < 1000 * c.num)

/-! ROUTE (checks 20, 21, 23, 24, R29 to R31). -/

/-- Whether numbers strictly rise. -/
def rising : List Nat → Bool
  | a :: b :: rest => decide (a < b) && rising (b :: rest)
  | _ => true

/-- Whether a stage type is valid. -/
def typeOk (t : Nat) : Bool := decide (1 ≤ t) && decide (t ≤ 9)

/-- Whether a route breaks R29, given whether its panel is dual-cell. -/
def routeOrderBad (c : OutConfig) (dual : Bool) : Bool :=
  let ts := c.stages.map (·.type)
  ts.all typeOk && !(rising ts && c.has 1 && c.has 9 && c.has 4 == dual)

/-- Whether a stage entry is invalid. -/
def stageBad (t : RouteStage) : Bool :=
  !typeOk t.type || t.reachCount == 0 || decide (8 < t.reachCount) || t.reachCount != t.reaches.length ||
    ((t.type == 1 || t.type == 2) && decide (t.ratio < 0x10))

/-- Active pixels of the raster and of the back field; times refresh they are F and B of R31. -/
def frontPixels (c : OutConfig) : Nat := c.hActive * c.vActive
/-- Samples of the back field. -/
def backPixels (c : OutConfig) : Nat := if c.dual then c.backCols * c.backRows else 0

/-- Whether a stage has too few reaches (R31); c is the OUTPUT of its route. -/
def stageShort (c : OutConfig) (t : RouteStage) : Bool :=
  let px := if t.type = 1 ∨ t.type = 2 then frontPixels c * t.ratio
    else if t.type = 4 ∨ t.type = 8 ∨ t.type = 9 then (frontPixels c + backPixels c) * 16 else frontPixels c * 16
  decide (t.reachCount * 2400000000 * 16 * c.den < px * c.num)

/-- The sum of rates of R18 as a ratio. -/
def rateSum (cs : List OutConfig) : Nat × Nat :=
  cs.foldl (fun a c => (a.1 * c.den + (frontPixels c + backPixels c) * c.num * a.2, a.2 * c.den)) (0, 1)

/-! LANEMAP (checks 22, 26 to 28, R32, R33). -/

/-- Every lane a LANEMAP puts in its front and back masks, twice when in both. -/
def maskLanes (c : OutConfig) : List Nat := c.front ++ c.back

/-- Whether a LANEMAP conflicts with those before it or with itself. -/
def laneConflict (before : List OutConfig) (c : OutConfig) : Bool :=
  c.front.any (fun l => c.back.contains l) || c.watch.any (fun l => !(maskLanes c).contains l) ||
    (maskLanes c).any fun l => before.any fun b => (maskLanes b).contains l

/-- Whether an output's lanes carry too little (R33). -/
def capacityBad (c : OutConfig) : Bool :=
  let carried := fun n : Nat => n * c.baud * 500000000 * 32 * 100 * c.den
  decide (c.baud < 4) || decide (32 < c.baud) ||
    decide (carried c.front.length < 101 * 33 * c.hActive * 3 * c.driveDepth * c.vTotal * c.num) ||
    (c.dual && decide (carried c.back.length < 101 * 33 * c.backCols * 12 * ceilDiv c.vTotal (2 ^ c.backVdiv) * c.num))

/-! HOLDMAP and RIGHTS (checks 29 to 32, R34, R36). -/

/-- Whether a master ID may own a bank (R34). -/
def ownerOk (m : Nat) : Bool :=
  m == 1 || (decide (8 ≤ m) && decide (m ≤ 0x0B)) || (decide (0x10 ≤ m) && decide (m ≤ 0x2F)) ||
    (decide (0x40 ≤ m) && decide (m ≤ 0x9F)) || (decide (0xB0 ≤ m) && decide (m ≤ 0xB2)) ||
    (decide (0xC0 ≤ m) && decide (m ≤ 0xC3))

/-- The entries of a HOLDMAP payload. -/
def mapEntries (l : List Word) : List Nat := (l.drop 1).map (·.toNat)

/-- Whether HOLDMAP entries overlap, pass bank 255 or are empty. -/
def overcommit : List Nat → Bool
  | [] => false
  | e :: rest =>
    let a := bits e 7 0
    let n := bits e 16 8
    n == 0 || decide (256 < a + n) ||
      rest.any (fun f => decide (a < bits f 7 0 + bits f 16 8) && decide (bits f 7 0 < a + n)) || overcommit rest

/-- Whether a RIGHTS entry names a master its KIND does not allow. -/
def rightsMasterBad (e : List Word) : Bool :=
  let m := bits (pw e 0) 31 24
  let k := bits (pw e 0) 23 20
  (k == 0 && !ownerOk m) || (k == 1 && !(decide (0x41 ≤ m) && decide (m ≤ 0x5F))) ||
    (k == 2 && !(m == 1 || (decide (0x10 ≤ m) && decide (m ≤ 0x2F)) || (decide (0x40 ≤ m) && decide (m ≤ 0x5F))))

/-- Whether a HOLDMAP gives the Purser fewer than two banks, or one without NO_BORROW. -/
def purserBad (es : List Nat) : Bool :=
  let mine := es.filter fun e => bits e 31 24 == 1
  decide ((mine.map fun e => bits e 16 8).foldl (· + ·) 0 < 2) || mine.any fun e => !bit e 17

/-- Whether a RIGHTS entry has an invalid KIND or range. -/
def rightsRangeBad (e : List Word) : Bool :=
  let k := bits (pw e 0) 23 20
  let size := pw e 2
  if k = 0 then bits (pw e 1) 16 8 == 0 || decide (256 < bits (pw e 1) 7 0 + bits (pw e 1) 16 8)
  else if k = 1 then size == 0 || size % 0x1000 != 0 || decide (0x4000000 < bits (pw e 1) 25 12 * 0x1000 + size)
  else if k = 2 then decide (bits (pw e 2) 31 16 < bits (pw e 2) 15 0)
  else true

/-! TIMEROLE (check 34, R38). -/

/-- Whether a TIMEROLE record is invalid. -/
def timeroleBad (l : List Word) : Bool :=
  let role := bits (pw l 0) 1 0
  let port := bits (pw l 0) 5 4
  let src := bits (pw l 0) 10 8
  role == 3 || decide (3 < src) || port == 3 || (role == 2 && src != 0) || (role != 2 && port != 0) || pw l 2 == 0 ||
    decide (1000000 < pw l 2)

/-! Checks against the part (33, 35 to 37; R37, R43, R47). -/

/-- The owner a HOLDMAP gives a bank: None when it is not listed (R26). -/
def mapOwner (map : List Word) (b : Nat) : Nat :=
  (((mapEntries map).find? fun e => decide (bits e 7 0 ≤ b) && decide (b < bits e 7 0 + bits e 16 8)).map fun e =>
    bits e 31 24).getD 0

/-- The offset of the first record of a type for an output, 0 when there is none. -/
def offOf (rs : List Record) (t : Nat) (o : Option Nat) : Nat :=
  ((rs.find? fun r => r.type == t && (o.isNone || o == some (recOutput r))).map (·.off)).getD 0

/-- Check 33: R37. -/
def State.clocksBad (s : State) (l : List Word) : Bool :=
  (bit (pw l 0) 8 && bits (pw l 0) 1 0 == 0) ||
    (List.range 4).any (fun n => decide (8 < bits (pw l 1) (4 * n + 3) (4 * n))) ||
    (l.getD 0 0 != s.sst.clocks && (List.range 4).any s.running)

/-- The offsets of the records in which a stream changes something of an output outside its TARGET_MASK (R43); 0 stands for an
absent record. -/
def State.untargetedAt (s : State) (rs : List Record) (n : Nat) : List Nat :=
  let old := s.cfg n
  let new : OutConfig := ⟨payFor rs 1 n, payFor rs 2 n, payFor rs 3 n, bits (pw (payOf rs 6) 1) (4 * n + 3) (4 * n), 0⟩
  let map := payOf rs 4
  let masters := old.masters n
  let mine := fun es : List (List Word) => es.filter fun e => masters.contains (bits (pw e 0) 31 24)
  let rNew := mine (rightsEntries (payOf rs 5))
  let rOld := mine s.sst.rights
  (if old.output != new.output then [offOf rs 1 (some n)] else []) ++ (if old.route != new.route then [offOf rs 2 (some n)] else []) ++
    (if old.lanemap != new.lanemap then [offOf rs 3 (some n)] else []) ++ (if old.ssc != new.ssc then [offOf rs 6 none] else []) ++
    (if (List.range 256).any fun b => s.owner b != mapOwner map b && (masters.contains (s.owner b) || masters.contains (mapOwner map b))
      then [offOf rs 4 none] else []) ++
    (if rNew.any (fun e => !rOld.contains e) || rOld.any (fun e => !rNew.contains e) then [offOf rs 5 none] else [])

/-- A verdict that names the first of some offsets in stream order; 0 only when no record is among them. -/
def failFirst (code : Nat) (offs : List Nat) : Verdict :=
  match offs with
  | [] => none
  | _ =>
    let real := offs.filter (· != 0)
    some (code, match real with
      | [] => 0
      | a :: rest => rest.foldl min a)

/-- Check 35. -/
def State.untargeted (s : State) (ws : List Word) (rs : List Record) : Verdict :=
  failFirst 0x123 (((List.range 4).map fun n => if bit (pw ws 3) n then [] else s.untargetedAt rs n).flatten)

/-- What output n's new structure needs of what output o has: the offsets of the records concerned. -/
def State.needsOf (s : State) (rs : List Record) (n o : Nat) : List Nat :=
  let new : OutConfig := ⟨payFor rs 1 n, payFor rs 2 n, payFor rs 3 n, 0, 0⟩
  let map := payOf rs 4
  (if new.reaches.any fun r => (s.cfg o).reaches.contains r then [offOf rs 2 (some n)] else []) ++
    (if (List.range 256).any fun b => (new.masters n).contains (mapOwner map b) && ((s.cfg o).masters o).contains (s.owner b)
      then [offOf rs 4 none] else [])

/-- Check 36: two targeted running outputs that each need what the other holds. -/
def State.crossed (s : State) (ws : List Word) (rs : List Record) : Verdict :=
  let outs := (List.range 4).filter fun n => bit (pw ws 3) n && s.running n
  failFirst 0x12A ((outs.map fun n => (outs.filter (n < ·)).map fun o =>
    if !(s.needsOf rs n o).isEmpty && !(s.needsOf rs o n).isEmpty then s.needsOf rs n o ++ s.needsOf rs o n else []).flatten.flatten)

/-- Check 37: a bank that the stream reassigns has a ferry in flight. -/
def State.ferryPending (s : State) (rs : List Record) : Verdict :=
  failFirst 0x127 (if (List.range 256).any fun b => s.owner b != mapOwner (payOf rs 4) b && s.hold.ferries.any (·.bank == b)
    then [offOf rs 4 none] else [])

/-! The whole table (R42). -/

/-- Checks 2 to 14 of a stream of so many bytes. -/
def formVerdict (otp : OtpState) (bytes : Nat) (ws : List Word) : Verdict :=
  let rr := recordsFrom ws.length 8 (ws.drop 8)
  let rs := rr.1
  let sig := ofType rs 0xF0
  firstFail
    [failIf 0x101 (decide (pw ws 2 < 8) || decide (65536 < pw ws 2) || pw ws 2 != bytes / 4), failIf 0x102 (pw ws 0 != 0x53534E4C),
     failIf 0x103 (bits (pw ws 1) 15 0 != 0x0100), failIf 0x104 (pw ws 5 != streamCrc ws),
     (if rr.2 then some (0x105, (rs.getLast?.map (·.off)).getD 0) else none),
     failIf 0x105 (rs.length != bits (pw ws 6) 15 0),
     failAt 0x106 rs fun r => !recordTypes.contains r.type, failAt 0x107 rs fun r => !lengthOk r,
     failAfter 0x108 (duplicate rs) [] rs, failIf 0x109 (missing rs),
     failAt 0x10A (rs.take (rs.length - 1)) fun r => r.type == 0xF0,
     failIf 0x10B (otp.signRequired && sig.isEmpty),
     (match otp.keyHash with
      | some h => failAt 0x10C sig fun r => !signatureOk ws r h
      | none => none),
     failIf 0x10D (headerReserved ws), failAt 0x10D rs reservedSet]

/-- Checks 15 to 34 of a stream whose form is right. -/
def State.contentVerdict (s : State) (ws : List Word) : Verdict :=
  let rs := streamRecords ws
  let outs := ofType rs 1
  let routes := ofType rs 2
  let maps := ofType rs 3
  let outOf := fun r : Record => (⟨payFor rs 1 (recOutput r), [], payFor rs 3 (recOutput r), 0, 0⟩ : OutConfig)
  firstFail
    [failIf 0x10E (decide (pw ws 4 ≤ s.get F.sstActiveSeqSeq)),
     failAt 0x110 outs fun r => outputFieldBad (recCfg r), failAt 0x111 outs fun r => rasterBad (recCfg r),
     failAt 0x112 outs fun r => refreshBad (recCfg r), failAt 0x113 outs fun r => panelBad (recCfg r),
     failAt 0x114 routes fun r => routeOrderBad (recCfg r) (outOf r).dual,
     failAt 0x115 routes fun r => (recCfg r).stages.any stageBad,
     failAt 0x116 maps fun r => (recCfg r).back.isEmpty == (outOf r).dual,
     failAfter 0x117 (fun before r =>
       let mine := (recCfg r).reaches
       !mine.Nodup || mine.any fun x => before.any fun p => (recCfg p).reaches.contains x) [] routes,
     failAt 0x118 routes fun r => (recCfg r).stages.any (stageShort (outOf r)),
     failAfter 0x119 (fun before r =>
       let q := rateSum ((before ++ [r]).map recCfg)
       decide (8400000000 * q.2 < q.1)) [] outs] <|>
  firstFail
    [failAfter 0x11A (fun before r => laneConflict (before.map recCfg) (recCfg r)) [] maps,
     failAt 0x11B maps fun r => capacityBad (outOf r),
     failAfter 0x11C (fun before r => decide (8 < (((before ++ [r]).map fun p => (recCfg p).watch.length).foldl (· + ·) 0))) [] maps,
     failAt 0x11D (ofType rs 4) fun r => overcommit (mapEntries r.pay),
     failAt 0x11E rs fun r => (r.type == 4 && (mapEntries r.pay).any fun e => !ownerOk (bits e 31 24)) ||
       (r.type == 5 && (rightsEntries r.pay).any rightsMasterBad),
     failAt 0x11F (ofType rs 4) fun r => purserBad (mapEntries r.pay),
     failAt 0x120 (ofType rs 5) fun r => (rightsEntries r.pay).any rightsRangeBad,
     failAt 0x121 (ofType rs 6) fun r => s.clocksBad r.pay,
     failAt 0x122 (ofType rs 8) fun r => timeroleBad r.pay]

/-- The verdict of a LOAD (R42): every check in order. -/
def State.loadVerdict (s : State) (bytes : Nat) (ws : List Word) : Verdict :=
  formVerdict s.otp bytes ws <|> s.contentVerdict ws <|> s.untargeted ws (streamRecords ws)

/-- The verdict of an APPLY (R41, R42): the checks repeated against the part, then its own. -/
def State.applyVerdict (s : State) (ws : List Word) : Verdict :=
  let rs := streamRecords ws
  firstFail
    [failIf 0x10E (decide (pw ws 4 ≤ s.get F.sstActiveSeqSeq)),
     failAt 0x121 (ofType rs 6) fun r => s.clocksBad r.pay, s.untargeted ws rs, s.crossed ws rs, s.ferryPending rs]

end Sys2Proof.Machine
end

