-- ==== Sys2Proof/Machine/HoldCmd.lean ====
section
/-!
DEFINITION. The commands of the Hold: accesses, ferries, march tests and repairs (11_the_hold.md).
-/

namespace Sys2Proof.Machine

/-- The outcome type of a command. -/
abbrev Result := Host.Outcome State Fault Refusal

/-- HOLD_ACCESS (R234 to R240): an access presented at its bank gate. An access of the Purser to a window under test makes
the march engine yield, and the accesses the window held follow (R249). No access reaches the Hold in Winter (R243). -/
def execHoldAccess (a : HoldAccess) (arb : Arbitration) (s : State) : Result :=
  if s.inWinter || s.power.off || s.power.fabricOff then .next s
  else .next (s.presentAccess a arb)

/-- HOLD_BUSY_N_RELEASE (R237): the pin returns high 40 ns after the last collision. -/
def execHoldBusyNRelease (s : State) : Result := .next { s with hold := { s.hold with busyPin := false } }

/-! Ferries. -/

/-- A ferry asked for by a write that may ask for one (R241). -/
def State.askFerry (s : State) (bank target : Nat) : State :=
  if !(target == 0 || target == 2 || ownerOk target) then s.put (F.holdFerryLastCode bank) 0x403
  else if s.on (F.holdFerryPending bank) then s.put (F.holdFerryLastCode bank) 0x402
  else
    let t := s.put (F.holdFerryTarget bank) target
    if t.owner bank = target then t.ferryAtOnce bank else t.beginFerry bank target

/-- FERRY_START (R241, R242): a write of HOLD_FERRYn.TARGET. -/
def execFerryStart (w : Writer) (bank : Fin 256) (target : BitVec 8) (s : State) : Result :=
  .next (s.writeJudged w (R.holdFerry bank) (fun t => !(privileged w || t.owner bank == masterOf w)) 0x208 bank fun t =>
    t.askFerry bank target.toNat)

/-! March tests. -/

/-- The next background position (R250): the next window, or the next bank in ascending order. -/
def State.nextWindow (s : State) : State :=
  let w := s.get F.holdMarchPosWindow
  let b := s.get F.holdMarchPosBank
  { (s.puts [(F.holdMarchPosWindow, (w + 1) % 2048), (F.holdMarchPosBank, if w = 2047 then (b + 1) % 256 else b)]) with
      hold := { s.hold with yieldsInRow := 0 } }

/-- The background position moved past banks that NO_BORROW shuts out, over at most so many banks; none when every bank
is shut out. -/
def State.openBank (s : State) : Nat → Option State
  | 0 => none
  | n + 1 =>
    let b := s.get F.holdMarchPosBank
    if s.on (F.holdOwnerNoBorrow b) then
      ({ (s.puts [(F.holdMarchPosWindow, 0), (F.holdMarchPosBank, (b + 1) % 256)]) with
          hold := { s.hold with yieldsInRow := 0 } }).openBank n
    else some s

/-- The control fields of HOLD_MARCH_CTRL written with its OP. -/
def State.marchFields (s : State) (preserving variant14 checker : Bool) : State :=
  s.puts [(F.holdMarchCtrlMode, preserving.toNat), (F.holdMarchCtrlAlg, variant14.toNat),
    (F.holdMarchCtrlBg, checker.toNat)]

/-- The code a requested test is refused with, 0 when it starts (R247, R250, R251). No master may write a bank that holds a locked base map (R112):
the march engine has no more of it than of a bank it does not own, 0x412 (DESIGN CHOICE, log 98). -/
def State.marchRefusal (s : State) (preserving : Bool) : Nat :=
  let first := s.get F.holdMarchRangeFirst
  let count := s.get F.holdMarchRangeCount
  let banks := (List.range count).map (first + ·)
  if s.on F.holdMarchStatusBusy then 0x410
  else if count = 0 ∨ 256 < first + count then 0x411
  else if !preserving && banks.any (fun b => s.owner b != 2 || s.on (F.holdOwnerLocked b)) then 0x412
  else if preserving && banks.any (fun b => s.on (F.holdOwnerNoBorrow b)) then 0x413
  else 0

/-- A requested test started: a background window yields to it, a destructive test takes the contents of its banks. -/
def State.startTest (s : State) (preserving variant14 checker : Bool) : State :=
  let first := s.get F.holdMarchRangeFirst
  let count := s.get F.holdMarchRangeCount
  let win := s.hold.window
  let s1 := if win.isSome then (s.yieldWindow).afterWindow win else s
  let s2 := s1.put F.holdMarchStatusBusy 1
  let s3 := { s2 with hold := { s2.hold with test := some ⟨preserving, variant14, checker, first, count, 2048 * first, s2.cycleNow⟩ } }
  if preserving then s3.marchGo else (List.range count).foldl (fun t i => t.losebank (first + i)) s3

/-- MARCH_REQUEST (R247 to R251): a write of HOLD_MARCH_CTRL with OP = 1. -/
def execMarchRequest (w : Writer) (preserving variant14 checker : Bool) (s : State) : Result :=
  .next (s.writeBy w R.holdMarchCtrl fun t =>
    let u := t.marchFields preserving variant14 checker
    let c := u.marchRefusal preserving
    if c ≠ 0 then u.put F.holdMarchStatusLastCode c else u.startTest preserving variant14 checker)

/-- The failures of a requested test: in the banks of its range. -/
def MarchTest.fails (t : MarchTest) (fails : List MarchFail) : List MarchFail :=
  orderFails t.preserving t.variant14 t.checker (failsIn (!t.preserving) (t.first * 0x400000) ((t.first + t.count) * 0x400000) fails)

/-- A requested test ended with a code: its failures recorded, BUSY clear, MARCH_FAULT or MARCH_DONE, the accesses its window held
presented. -/
def State.endTest (s : State) (t : MarchTest) (fails : List MarchFail) (code : Nat) : State :=
  let l := t.fails fails
  let win := s.hold.window
  let s1 := s.noteFails l t.preserving t.variant14 t.checker
  let s2 := s1.puts [(F.holdMarchStatusBusy, 0), (F.holdMarchStatusLastCode, code)]
  (({ s2 with hold := { s2.hold with test := none, window := none } }).raise (if l.isEmpty then 196 else 197)).afterWindow win

/-- MARCH_ABANDON (R251): a write of HOLD_MARCH_CTRL with OP = 2; the test under way ends with 0x415, with the failures it
had met. -/
def execMarchAbandon (w : Writer) (preserving variant14 checker : Bool) (fails : List MarchFail) (s : State) : Result :=
  .next (s.writeBy w R.holdMarchCtrl fun t =>
    let u := t.marchFields preserving variant14 checker
    match u.hold.test with
    | some m => u.endTest m fails 0x415
    | none => u)

/-- MARCH_BACKGROUND_WINDOW (R250): the interval elapses; a window yielded eight times in a row is skipped for this pass,
and the test of the next window that NO_BORROW leaves open begins, unless a requested test runs. -/
def execMarchBackgroundWindow (s : State) : Result :=
  if !s.on F.holdMarchBkgEn || s.hold.test.isSome || s.hold.window.isSome || s.inWinter then .next s
  else
    let s1 := if 8 ≤ s.hold.yieldsInRow then (s.count F.holdMarchSkipsCount 1).nextWindow else s
    match s1.openBank 256 with
    | none => .next s1
    | some t => .next { t with hold := { t.hold with
        window := some (t.get F.holdMarchPosBank * 2048 + t.get F.holdMarchPosWindow) } }

/-- MARCH_TEST_END (R246, R250, R251): the requested test, all its windows done, or the test of the background window ends with its failing
words; a destructive test leaves every word of its banks zero, of those that have not been locked since (R112). A background window tests with ALG and BG of HOLD_MARCH_CTRL (DESIGN CHOICE,
log 98). -/
def execMarchTestEnd (fails : List MarchFail) (s : State) : Result :=
  if s.inWinter || s.power.off || s.power.fabricOff then .next s
  else match s.hold.test, s.hold.window with
  | some t, _ =>
    if t.preserving && decide (t.at_ < t.last) then .next s
    else
      let s1 := if t.preserving then s else (List.range t.count).foldl (fun u i =>
        if u.on (F.holdOwnerLocked (t.first + i)) then u
        else u.clearRange ((t.first + i) * 0x400000) ((t.first + i + 1) * 0x400000)) s
      .next (s1.endTest t fails (if (t.fails fails).isEmpty then 0 else 0x414))
  | none, some w =>
    let l := orderFails true (s.on F.holdMarchCtrlAlg) (s.on F.holdMarchCtrlBg) (failsIn false (2048 * w) (2048 * (w + 1)) fails)
    let s1 := ({ s with hold := { s.hold with window := none } }).noteFails l true (s.on F.holdMarchCtrlAlg) (s.on F.holdMarchCtrlBg)
    let s2 := if l.isEmpty then s1.put F.holdMarchStatusLastCode 0 else (s1.put F.holdMarchStatusLastCode 0x414).raise 197
    .next ((s2.nextWindow).afterWindow (some w))
  | none, none => .next s

/-! Repairs. -/

/-- The command fields of HOLD_REPAIR_CMD written. -/
def State.repairFields (s : State) (op bank row : Nat) : State :=
  s.puts [(F.holdRepairCmdOp, op), (F.holdRepairCmdBank, bank), (F.holdRepairCmdRow, row)]

/-- The code a repair is refused with, 0 when it starts (R253, R254). -/
def State.repairRefusal (s : State) : Repair → Nat
  | .row b _ => if s.hold.repair.isSome then 0x422 else if s.rowsFree b = 0 then 0x420 else 0
  | .bank _ => if s.hold.repair.isSome then 0x422 else if s.get F.holdRepairStatusBanksFree = 0 then 0x421 else 0

/-- A commanded repair begun or refused. -/
def State.askRepair (s : State) (r : Repair) : State :=
  let c := s.repairRefusal r
  if c ≠ 0 then s.put F.holdRepairStatusLastCode c else s.beginRepair r 0 none

/-- REPAIR_ROW (R253): a write of HOLD_REPAIR_CMD with OP = 1. -/
def execRepairRow (w : Writer) (bank : Fin 256) (row : Fin 1024) (s : State) : Result :=
  .next (s.writeBy w R.holdRepairCmd fun t => (t.repairFields 1 bank row).askRepair (.row bank row))

/-- REPAIR_BANK (R254): a write of HOLD_REPAIR_CMD with OP = 2. -/
def execRepairBank (w : Writer) (bank : Fin 256) (row : Fin 1024) (s : State) : Result :=
  .next (s.writeBy w R.holdRepairCmd fun t => (t.repairFields 2 bank row).askRepair (.bank bank))

/-- A repair applied: the spare counted, its unit no longer WORN. -/
def State.applyRepair (s : State) : Repair → State
  | .row b r =>
    { (s.put (F.holdOwnerRowsUsed b) (s.get (F.holdOwnerRowsUsed b) + 1)) with
        hold := { s.hold with reliefRows := s.hold.reliefRows ++ [(b, r)] }
        relief := { s.relief with wornRows := s.relief.wornRows.filter (· != (b, r))
                                  ecc := s.relief.ecc.filter (·.1 != b * 1024 + r) } }
  | .bank b =>
    { (s.puts [(F.holdOwnerReliefBank b, 1),
        (F.holdRepairStatusBanksFree, s.get F.holdRepairStatusBanksFree - 1)]) with
        hold := { s.hold with reliefBanks := s.hold.reliefBanks ++ [b] }
        relief := { s.relief with wornRows := s.relief.wornRows.filter (·.1 != b), wornBanks := s.relief.wornBanks.filter (· != b) } }

/-- The k-th of 16 spares that no march test found failing. -/
def goodSpare (bad : List Nat) (k : Nat) : Nat := (goodSpares bad).getD k 16

/-- The spare a repair takes: the lowest one that is free and good. -/
def State.repairSpare (s : State) : Repair → Nat
  | .row b _ => goodSpare (s.badRowsOf b) (s.get (F.holdOwnerRowsUsed b))
  | .bank _ => goodSpare s.hold.badBanks s.hold.reliefBanks.length

/-- A repair logged as a swap (R419). -/
def State.logRepair (s : State) (r : Repair) (spare cause : Nat) : State :=
  match r with
  | .row b row => s.logSwap 3 0 b row spare cause
  | .bank b => s.logSwap 4 0 b 0 spare cause

/-- A repair finished: decode switched, record stored, swap logged, REPAIR_DONE, the accesses the row copy held presented,
the mailbox that commanded it answered, a bank left with too few free rows judged (R414), the next automatic repair begun. -/
def State.finishRepair (s : State) (r : Repair) : State :=
  let spare := s.repairSpare r
  let cause := s.hold.repairCause
  let slot := s.hold.repairSlot
  let s1 := (s.applyRepair r).puts [(F.holdRepairStatusBusy, 0), (F.holdRepairStatusLastCode, 0)]
  let s2 := { s1 with hold := { s1.hold with repair := none, repairSlot := none } }
  let s3 := (((s2.storeRepairs).logRepair r spare cause).raise 200).releaseHeld fun a =>
    match r with
    | .row b row => bankOf a.addr.toNat == b && rowOfAddr a.addr.toNat == row
    | .bank _ => false
  let s4 := match slot with
    | some k => if s3.purser.current = some k then s3.mboxDone k 0 0 [0] else s3
    | none => s3
  (match r with
    | .row b _ => s4.judgeBank b cause
    | .bank _ => s4).nextRepair

/-- REPAIR_COPY_DONE (R253, R254): the copy of the repair under way completes. -/
def execRepairCopyDone (s : State) : Result :=
  match s.hold.repair with
  | some r => .next (s.finishRepair r)
  | none => .next s

end Sys2Proof.Machine
end

