-- ==== Sys2Proof/Machine/Chain.lean ====
section
/-!
DEFINITION. The commands of the Ndoben chain (14_ndoben_chain.md).
-/

namespace Sys2Proof.Machine

/-! Remote Hold accesses (R316, R317) and SENSOR flits (R318). -/

/-- A remote access ended with a code. -/
def State.raEnd (s : State) (code : Nat) : State :=
  (({ s with chain := { s.chain with access := none } }).puts [(F.chnRaStatusBusy, 0), (F.chnRaStatusCode, code)]).raise 518

/-- HOLD_RSP to the unit that asked. -/
def State.answerRemote (s : State) (p : Nat) (f : List Byte) (code : Nat) (data : List Byte) : State :=
  let src := flitSrc f
  let q := s.takeSeq 9
  q.2.sendOwn [(s.routeTo src).getD p] false (shortFlit 9 0 src s.chainAddr q.1 (leBytes 2 code ++ data))

/-- A remote access made at this unit by the chain port's master: one whole word, judged at the gate, at which it may wait. -/
def State.remoteHold (s : State) (p : Nat) (f : List Byte) (write : Bool) : State :=
  let m := 0xB0 + p
  let a := bits (flitBody f 0 4) 29 5 * 32
  if s.runHeld m a 32 then { s with chain := { s.chain with remote := s.chain.remote ++ [(p, f, write)] } }
  else if !s.mayHold m (bankOf a) write then
    let code := if s.barCode m a write = 0x202 then 0x202 else 0x207
    (s.violate m code a write (flitSrc f)).answerRemote p f 0x548 []
  else if s.frozen m then s.answerRemote p f 0x548 []
  else if write then (s.storeRun a ((f.drop 12).take 32)).answerRemote p f 0 []
  else match s.runFault a 32 with
    | some w => (s.noteUncorr w).answerRemote p f 0x401 (s.holdBytes a 32)
    | none => s.answerRemote p f 0 (s.holdBytes a 32)

/-- The remote accesses that waited at the gate presented again, in the order in which they came, the cycles of their wait counted (R238). -/
def State.remoteGo (s before : State) : State :=
  let cycles := (s.cycleNow - before.cycleNow).toNat
  s.chain.remote.foldl (fun t r => (t.conflict (0xB0 + r.1) cycles).remoteHold r.1 r.2.1 r.2.2)
    { s with chain := { s.chain with remote := [] } }

/-- HOLD_RSP received: it ends the access in flight to the unit it comes from; one access is in flight at a time, and the SEQ of a HOLD_RSP counts its
own type (R304). -/
def State.rxAnswer (s : State) (f : List Byte) : State :=
  match s.chain.access with
  | none => s
  | some x =>
    if x.dst ≠ flitSrc f then s
    else
      let code := flitBody f 0 2 % 4096
      let t := if x.op = 1 ∧ code = 0 then
          (List.range 8).foldl (fun t k => t.put (F.chnRaDataData k) (flitBody f (2 + 4 * k) 4)) s
        else s
      t.raEnd code

/-- SENSOR received: passed to the ODRV stages that name its source and sensor (R133). -/
def State.rxSensor (s : State) (f : List Byte) : State :=
  (List.range 4).foldl (fun t n =>
    if (t.cfg n).has 7 && t.act (F.odrvCtrlTempSrc n) == 1 && t.act (F.odrvTempPeerAddr n) == flitSrc f &&
        t.act (F.odrvTempPeerSensor n) == flitBody f 0 1
    then t.acceptTemp n (flitBody f 1 2) else t) s

/-! A short flit received (R303 to R308). -/

/-- BOARDED: the management view learns the address at its arrival port (R313), the root that there is a branch. -/
def State.rxBoarded (s : State) (p : Nat) (f : List Byte) : State :=
  let t := s.learn (flitSrc f) p (flitHops f)
  if flitBody f 10 1 ≠ 2 ∧ bits (flitBody f 12 2) 8 6 = 2 then { t with chain := { t.chain with branches := true } } else t

/-- The flits queued for a port that is DOWN discarded (R311). -/
def State.dropDown (s : State) : State :=
  (List.range 3).foldl (fun t p => if t.portSt p = 4 then t.dropQueued p else t) s

/-- A flit that is not hop-scoped, at port p: the data view notes it, it is consumed, it leaves again. -/
def State.passFlit (s : State) (p : Nat) (f : List Byte) : State :=
  let type := flitType f
  let dst := flitDst f
  let src := flitSrc f
  if dst = 0xFFFF ∧ src = s.chainAddr ∧ s.chainAddr ≠ 0 then s
  else
    let s1 := if type = 4 ∧ s.chainAddr ≠ 0 then s.rxBoarded p f else s
    let s2 := s1.noteData src p (flitHops f)
    let s3 := if !s2.consumes dst src then s2
      else if type = 5 then (s2.rxBreak p src (if flitBody f 0 2 = src then flitBody f 2 2 else flitBody f 0 2)).dropDown
      else if type = 6 then s2.closeRing
      else if type = 7 then s2.remoteHold p f false
      else if type = 8 then s2.remoteHold p f true
      else if type = 9 then s2.rxAnswer f
      else if type = 10 then s2.rxSensor f
      else s2
    (s3.leavesOn p dst src).foldl (fun t q => t.queueFlit q (flitClass f true) false (hopped f)) s3

/-- A TIME flit on port p (R334): its arrival kept, the exchange with the flit it names, the upstream's epoch. -/
def State.rxTime (s : State) (p : Nat) (f : List Byte) (sub : Nat) : State :=
  let now := s.stampNow sub
  let e := flitBody f 26 2
  let s1 := s.setPort p fun x => { x with seen := some ⟨now, s.epoch, flitSeq f⟩ }
  let s2 := match (s.port p).sentTimes.find? (·.id == flitBody f 24 2) with
    | some d => if s.portUp p ∧ e = s.epoch ∧ d.epoch = s.epoch then s1.exchange p (flitBody f 0 12) now d.time (flitBody f 12 12) else s1
    | none => s1
  if s2.timeRole = 2 ∧ s2.timePort = p then s2.setTime fun x => { x with epochNext := if e = s.epoch then none else some e } else s2

/-- A LINK flit on port p (R303, R306, R309, R313). -/
def State.rxLink (s : State) (p skew : Nat) (f : List Byte) : State :=
  let peer := flitBody f 0 2
  let e := flitBody f 8 2
  let s1 := (s.put (F.chnpStatusPeer p) peer).setPort p fun x => { x with peerFreed := flitBody f 6 2, linkSeen := true }
  let s2 := if s1.epochNewer e then s1.newEpoch e else s1
  let s3 := if e = s2.chain.epoch ∧ s2.chainAddr ≠ 0 then
      let t := s2.learn peer p 0
      if t.get F.chnTopoUpstream = p then t.put F.chnTopoTopology (flitBody f 3 1 % 4) else t
    else s2
  (s3.portComes p skew).showCredits p

/-- The place of valid, consistent markers in the cycle of 40 sub-rounds (R300); none when a lane's is missing or differs. -/
def markPlace (marks : List (Option (BitVec 8))) : Option Nat :=
  match marks with
  | [some a, some b, some c, some d] =>
    let ok := fun (m : BitVec 8) (lane : Nat) =>
      m.toNat % 8 == a.toNat % 8 && m.toNat / 32 == a.toNat / 32 && m.toNat / 8 % 4 == lane
    if ok a 0 && ok b 1 && ok c 2 && ok d 3 && decide (a.toNat % 8 < 5) then some (5 * (a.toNat / 32) + a.toNat % 8) else none
  | _ => none

/-- The markers of a sub-round counted. -/
def State.noteMarks (s : State) (p : Nat) (marks : List (Option (BitVec 8))) : State :=
  s.setPort p fun x => match markPlace marks with
    | none => { x with goodMarks := 0, lastMark := none }
    | some k =>
      let next := match x.lastMark with
        | some l => (l + 1) % 40 == k
        | none => false
      { x with goodMarks := if next then min 64 (x.goodMarks + 1) else 1, lastMark := some k }

/-- A short slot received on port p, scrambled (R301): the generators load from an IDLE flit, the next one confirms them; the plain flit once they are
confirmed, and the generators moved on past the group chunk. -/
def State.descramble (s : State) (p : Nat) (raw : List Byte) : Option (List Byte) × State :=
  let x := s.port p
  let lanes := (List.range 4).map fun l => shortBits raw l
  let plain := (List.range 4).map fun l => (x.rxGen.getD l none).map fun g => additive g (lanes.getD l [])
  let known := plain.all Option.isSome
  let idle := known && plain.all fun r => r.any fun r => !(r.1.any id)
  let fresh := lanes.map idleSync
  let next := if !x.rxOk && !idle && fresh.all Option.isSome then fresh else plain.map (·.map (·.2))
  let bytes := (plain.map fun r => match r with
    | some r => bytesOfBits 12 r.1
    | none => []).flatten
  (if x.rxOk then some bytes else none, s.setPort p fun x => { x with
    rxOk := x.rxOk || idle
    rxGen := next.map (·.map fun g => additiveSkip g 544)
    rxKeys := (if 5 ≤ x.rxKeys.length then x.rxKeys.drop 1 else x.rxKeys) ++ [next.map (·.getD 0)] })

/-- A plain short flit of a sub-round taken on port p (R303, R304, R308). -/
def State.takeShort (s : State) (p skew : Nat) (flit : List Byte) (sub : Nat) : State :=
  let type := flitType flit
  let up := s.portSt p = 2
  if !flitGood flit then s.count (F.chnpShortErrsCrc p) 1
  else if type = 2 then s.rxLink p skew flit
  else if type = 1 then (if up ∨ s.portSt p = 3 then s.rxTime p flit sub else s)
  else if !up then s
  else if type = 3 then s.rxToken p flit
  else if 4 ≤ type ∧ type ≤ 10 then s.passFlit p flit
  else s

/-- SHORT_FLIT_RECEIVED (R301, R303, R304, R308): a sub-round has come in on port p: the marker bytes of its lanes, the lane skew, its
short slot as the lanes carry it, and the time of its marker after the tick. -/
def execShortFlitReceived (p : Fin 3) (marks : List (Option (BitVec 8))) (skew : Nat) (flit : List Byte) (sub : BitVec 35)
    (s : State) : Result :=
  if s.portSt p = 0 ∨ s.power.off ∨ s.inWinter then .next s
  else
    let r := ((s.noteMarks p marks).portComes p skew).descramble p flit
    .next (match r.1 with
      | none => r.2
      | some plain => (r.2.takeShort p skew plain sub.toNat).showTimePort)

/-- LINK_FLIT_DUE (R303): an enabled port owes a LINK flit, in every state but OFF. -/
def execLinkFlitDue (p : Fin 3) (s : State) : Result :=
  .next (if s.portSt p = 0 then s else s.setPort p fun x => { x with linkDue := true })

/-- TIME_FLIT_DUE (R304, R312): 16 rounds have passed on a port that is UP or in STANDBY. -/
def execTimeFlitDue (p : Fin 3) (s : State) : Result :=
  .next (if s.portSt p = 2 ∨ s.portSt p = 3 then s.setPort p fun x => { x with timeDue := true } else s)

/-- MARKER_LOSS_TIMEOUT (R303): a lane of port p has shown no valid marker for 1 µs; `met` says that one comes in that clock (R19). -/
def execMarkerLossTimeout (p : Fin 3) (met : Bool) (s : State) : Result := .next (if met then s else s.portFalls p)

/-- LINK_FLIT_TIMEOUT (R303): no good LINK flit has come on port p for 4 µs; `met` says that one comes in that clock (R19). -/
def execLinkFlitTimeout (p : Fin 3) (met : Bool) (s : State) : Result := .next (if met then s else s.portFalls p)

/-! Pixel flits (R302, R306, R308). -/

/-- A pixel flit with HOPS incremented. -/
def hoppedPixel (f : List Byte) : List Byte := f.take 5 ++ leBytes 1 (min 255 (leAt f 5 1 + 1)) ++ f.drop 6

/-- One pixel flit that has come in on port p: for this unit, to go on, or both; it holds a place of the port's buffer until it
has left on its last port. -/
def State.rxPixel (s : State) (p : Nat) (f : List Byte) : State :=
  let dst := leAt f 0 2
  let src := leAt f 2 2
  let own := dst = 0xFFFF ∧ src = s.chainAddr ∧ s.chainAddr ≠ 0
  let s1 := if own then s else s.noteData src p (leAt f 5 1)
  let s2 := if s1.consumes dst src then (List.range 4).foldl (fun t m => t.rxFlit m p f) s1 else s1
  match (if own then [] else s2.leavesOn p dst src) with
  | [] => s2.setPort p fun x => { x with freed := (x.freed + 1) % 65536 }
  | l => s2.setPort p fun x => { x with pixIn := x.pixIn ++ [(l, hoppedPixel f)] }

/-- PIXEL_GROUP_RECEIVED (R301, R302): the RS slots of the four lanes of the round whose fifth sub-round has come in, as the lanes carry them; a group that
cannot be corrected is lost whole. -/
def execPixelGroupReceived (p : Fin 3) (lanes : List (List (BitVec 10))) (s : State) : Result :=
  if s.portSt p ≠ 2 ∨ s.power.off ∨ s.inWinter then .next s
  else
    let keys := (s.port p).rxKeys
    let r := groupDecode ((List.range 4).map fun l => descrambleSlots (keys.map (·.getD l 0)) ((lanes.getD l []).map (·.toNat)))
    let t := (s.count (F.chnpFecCorrCount p) r.2.1).count (F.chnpFecUncorrCount p) r.2.2
    .next (match r.1 with
      | none => t
      | some flits => (flits.foldl (fun t f => if leAt f 0 2 = 0 then t else t.rxPixel p f) t).showTimePort)

/-! What a port sends (R305, R306). -/

/-- The next forwarded pixel flit that leaves on port p, from the inputs in turn. -/
def State.forwardPixel (s : State) (p : Nat) : Option (List Byte × State) :=
  (List.range 3).findSome? fun q =>
    let x := s.port q
    match x.pixIn.findIdx? fun e => e.1.contains p with
    | none => none
    | some i =>
      let e := x.pixIn.getD i ([], [])
      let left := e.1.filter (· != p)
      some (e.2, s.setPort q fun x =>
        if left.isEmpty then { x with pixIn := x.pixIn.eraseIdx i, freed := (x.freed + 1) % 65536 }
        else { x with pixIn := x.pixIn.modify i fun _ => (left, e.2) })

/-- The ports on which a local stream's flits leave. -/
def State.streamPorts (s : State) (dst : Nat) : List Nat :=
  if dst = 0xFFFF then s.castPorts else match s.routeTo dst with
    | some q => [q]
    | none => []

/-- The frames of the unit's own streams to which no route leads refused (R308): 0x545. -/
def State.dropRouteless (s : State) : State :=
  (List.range 4).foldl (fun t n =>
    if (t.txs n).frames.any fun x => (t.streamPorts x.dst).isEmpty then
      (t.setTx n fun y => { y with frames := y.frames.filter fun x => !(t.streamPorts x.dst).isEmpty }).put (F.chnTxsStatusLastCode n) 0x545
    else t) s

/-- The next pixel flit of the unit's own streams that leaves on port p; a broadcast waits for its other ports. -/
def State.localPixel (s : State) (p : Nat) : Option (List Byte × State) :=
  match s.chain.local_.findIdx? fun e => e.1.contains p with
  | some i =>
    let e := s.chain.local_.getD i ([], [])
    let left := e.1.filter (· != p)
    let l := if left.isEmpty then s.chain.local_.eraseIdx i else s.chain.local_.modify i fun _ => (left, e.2)
    some (e.2, { s with chain := { s.chain with local_ := l } })
  | none =>
    (List.range 4).findSome? fun n =>
      match (s.txs n).frames with
      | [] => none
      | x :: _ =>
        if !(s.streamPorts x.dst).contains p then none
        else match s.nextTxFlit n with
          | none => none
          | some r =>
            let left := (s.streamPorts r.1).filter (· != p)
            let t := r.2.2
            some (r.2.1, if left.isEmpty then t else { t with chain := { t.chain with local_ := t.chain.local_ ++ [(left, r.2.1)] } })

/-- So many pixel flits for port p's next group, under credit; IDLE flits after the last. -/
def State.fillGroup (s : State) (p : Nat) : Nat → List (List Byte) × State
  | 0 => ([], s)
  | k + 1 =>
    let next := if s.portUp p && decide (s.outstanding p < 256) then
        (match s.forwardPixel p with
        | some r => some r
        | none => s.localPixel p)
      else none
    match next with
    | some r =>
      let t := r.2.setPort p fun x => { x with sent := (x.sent + 1) % 65536 }
      let u := t.fillGroup p k
      (r.1 :: u.1, u.2)
    | none =>
      let u := s.fillGroup p k
      (List.replicate 256 0 :: u.1, u.2)

/-- The short flit of the sub-round begun on port p, `sub` after the tick. -/
def State.nextShort (s : State) (p sub : Nat) : List Byte × State :=
  let x := s.port p
  let st := s.portSt p
  if x.timeDue ∧ (st = 2 ∨ st = 3) then (s.setPort p fun x => { x with timeDue := false }).timeFlit p sub
  else if x.linkDue then (s.setPort p fun x => { x with linkDue := false }).linkFlit p
  else if st ≠ 2 then (idleFlit, s)
  else
    let best := (List.range 3).findSome? fun c => x.queue.findIdx? (·.cls == c)
    match best with
    | none => (idleFlit, s)
    | some i =>
      let q := x.queue.getD i ⟨0, false, []⟩
      let t := s.setPort p fun x => { x with queue := x.queue.eraseIdx i }
      (q.bytes, if q.host then t.txStamp (flitSeq q.bytes) sub else t)

/-- CHAIN_SUB_ROUND (R299 to R302, R305, R306): port p begins its next sub-round, `sub` after the tick. The first of a round takes
the five pixel flits of its group. -/
def execChainSubRound (p : Fin 3) (sub : BitVec 35) (s : State) : Result :=
  if s.portSt p = 0 ∨ s.power.off ∨ s.inWinter then .next s
  else
    let s1 := if (s.port p).sub = 0 then
        let g := s.dropRouteless.fillGroup p 5
        let slots := lanesOfWords (groupWords g.1)
        ((g.2.setPort p fun x => { x with group := slots }).showCredits p).emit (.pixelGroup p g.1)
      else s
    let f := s1.nextShort p sub.toNat
    let x := f.2.port p
    let lanes := (List.range 4).map fun l => subRoundLevels f.1 l x.sub x.round (x.scr.getD l 0) (x.group.getD l [])
    let t := f.2.emit (.subRound p f.1 (lanes.map (·.1)))
    .next (t.setPort p fun x =>
      { x with scr := lanes.map (·.2), sub := (x.sub + 1) % 5, round := if x.sub = 4 then (x.round + 1) % 8 else x.round })

/-! Commands written to registers, and timers. -/

/-- BOARD_START (R309): a write of CHN_BOARD with START = 1 and TIMEOUT_MS: the unit becomes the root, or 0x542. -/
def execBoardStart (w : Writer) (timeoutMs : BitVec 16) (s : State) : Result :=
  .next (s.writeBy w R.chnBoard fun s0 =>
    let t := s0.put F.chnBoardTimeoutMs timeoutMs.toNat
    if t.on F.chnBoardStatusBusy then t.put F.chnBoardStatusLastCode 0x542
    else
      let u := t.newEpoch ((t.chain.epoch + 1) % 65536)
      let v := { u with chain := { u.chain with root := Config.serial.toNat, conflict := false, heldRoot := none } }
      ((v.puts [(F.chnAddrAddr, 1), (F.chnAddrRoot, 1), (F.chnBoardStatusBusy, 1), (F.chnBoardStatusUnits, 0)]).tokenOn 2).showTimePort)

/-- BOARD_TIMEOUT (R310): TIMEOUT_MS has passed since the Boarding began; `met` says that it finishes in that clock (R19). -/
def execBoardTimeout (met : Bool) (s : State) : Result :=
  if met || !s.on F.chnBoardStatusBusy then .next s
  else
    let t := s.boardEnd (if s.chain.conflict then 0x544 else 0x541)
    .next { t with chain := { t.chain with conflict := false, onC := false, heldRoot := none } }

/-- RING_RESTORE (R312): CHN_RING.RESTORE written at an end of the break whose port waits in STANDBY: RESTORE goes round the open
ring, and this unit's routes close. -/
def execRingRestore (w : Writer) (s : State) : Result :=
  .next (s.writeBy w R.chnRing fun t =>
    match t.chain.broken.find? fun p => t.portSt p == 3 with
    | none => t
    | some p =>
      let q := t.takeSeq 6
      let f := shortFlit 6 0 0xFFFF t.chainAddr q.1 (leBytes 2 t.chainAddr ++ leBytes 2 (t.get (F.chnpStatusPeer p)))
      (q.2.sendOwn [1 - p] false f).closeRing)

/-- DATA_VIEW_LAPSE (R313): no flit has come from an address for 1 s; `met` says that one comes in that clock (R19). -/
def execDataViewLapse (a : BitVec 16) (met : Bool) (s : State) : Result :=
  match s.dataView a.toNat with
  | none => .next s
  | some d =>
    if met ∨ s.time.ticks < d.at_ + 250000000 then .next s
    else .next ((({ s with chain := { s.chain with data := s.chain.data.filter fun x => x.addr != a.toNat } }).judgeViews a.toNat).showTimePort)

/-- A remote access begun by a write of CHN_RA_CMD (R316). -/
def State.raStart (s : State) (w : Writer) (write : Bool) : State :=
  let dst := s.get F.chnRaDstDst
  let m := masterOf w
  s.writeJudged w R.chnRaCmd (fun t => !t.inChainRange m dst write) 0x206 dst fun t =>
    if t.on F.chnRaStatusBusy then t.put F.chnRaStatusCode 0x549
    else match (if dst = t.chainAddr then none else t.routeTo dst) with
      | none => t.raEnd 0x545
      | some p =>
        if !t.mayChain m p dst write then t.raEnd 0x547
        else
          let type := if write then 8 else 7
          let q := t.takeSeq type
          let data := ((List.range 8).map fun k => leBytes 4 (t.get (F.chnRaDataData k))).flatten
          let f := shortFlit type 0 dst t.chainAddr q.1 (leBytes 4 (32 * t.get F.chnRaHoldAddr) ++ (if write then data else []))
          let u := q.2.puts [(F.chnRaStatusBusy, 1)]
          let v := { u with chain := { u.chain with access := some ⟨if write then 2 else 1, dst⟩ } }
          v.sendOwn [p] (w != .purser) f

/-- RA_READ (R316): CHN_RA_CMD with OP 1. -/
def execRaRead (w : Writer) (s : State) : Result := .next (s.raStart w false)

/-- RA_WRITE (R316): CHN_RA_CMD with OP 2. -/
def execRaWrite (w : Writer) (s : State) : Result := .next (s.raStart w true)

/-- RA_TIMEOUT (R317): no answer within CHN_RA_TIMEOUT; `met` says that it comes in that clock (R19). -/
def execRaTimeout (met : Bool) (s : State) : Result :=
  .next (if !met && s.on F.chnRaStatusBusy then s.raEnd 0x546 else s)

/-- SENSOR_TX (R318): CHN_SENSOR_TX written: a SENSOR flit to CHN_SENSOR_DST; without a route to it, 0x545 (R308), which the model shows in the one
register the chain has for a code of this unit, CHN_RA_STATUS. -/
def execSensorTx (w : Writer) (temp : BitVec 16) (sensor : BitVec 8) (s : State) : Result :=
  .next (s.writeBy w R.chnSensorTx fun t =>
    let dst := t.get F.chnSensorDstDst
    if (t.streamPorts dst).isEmpty then t.put F.chnRaStatusCode 0x545
    else
    let q := t.takeSeq 10
    let f := shortFlit 10 0 dst t.chainAddr q.1 (leBytes 1 sensor.toNat ++ leBytes 2 temp.toNat)
    q.2.sendOwn (q.2.streamPorts dst) (w != .purser) f)

/-- Whether the chain ports may transmit (R441): from the end of start-up on, in Winter not before every Hold group is ready again (R395). -/
def State.portsMay (s : State) : Bool := s.get F.glbStateState != 0 && s.hold.unready.isEmpty

/-- CHNp_CTRL.EN written: a port switched off, or on again; one enabled before the ports may transmit begins with them. -/
def State.portEnable (s : State) (p : Nat) (was : Bool) : State :=
  let now := s.on (F.chnpCtrlEn p)
  if now = was ∨ (now && !s.portsMay) then s
  else if now then (s.put (F.chnpStatusState p) 1).portSeeks p
  else s.put (F.chnpStatusState p) 0

/-- The ports that are enabled begin to send: at start-up, and at the end of Winter. -/
def State.portsStart (s : State) : State :=
  (List.range 3).foldl (fun t p => if t.on (F.chnpCtrlEn p) && t.portSt p == 0 then
    (t.put (F.chnpStatusState p) 1).portSeeks p else t) s

/-- The ports stopped (R303). -/
def State.portsStop (s : State) : State := (List.range 3).foldl (fun t p => t.put (F.chnpStatusState p) 0) s

end Sys2Proof.Machine
end

