-- ==== Sys2Proof/Machine/ConfigSpace.lean ====
section
/-!
DEFINITION. The configuration space that no software changes (R354 to R357, R360): capabilities, BARs, MSI-X tables; and what follows from it.
-/

namespace Sys2Proof.Machine

/-- A capability of a function with the values that R354 and R356 give it. -/
inductive Capability where
  | powerManagement (d1 d2 d3hot pmeD0 pmeD3hot pmeD3cold noSoftReset : Bool)
  | pciExpress (maxPayload : Nat) (flitMode : Bool) (maxSpeed maxWidth : Nat) (aspmL0s aspmL1 : Bool) (l1ExitFrom l1ExitTo : Nat)
      (flr roleBased : Bool) (timeoutRanges : List Char) (timeoutDisable tag10 ltr : Bool)
  | msix (tableSize bir table pba : Nat)
  | errorReporting (ecrc headers : Bool)
  | serialNumber
  | ari (next : Nat)
  | sriov (initialVfs totalVfs firstOffset stride pageSizes vfDevice : Nat)
  | latencyTolerance
  | l1Substates (l11 l12 aspm pciPm : Bool) (powerOnUs commonModeUs : Nat)
  | secondary (lanes : Nat)
  | dataLink (scaledFlowControl : Bool)
  | physical (gts : Nat)
  | margining (voltage timing independentSides : Bool)
  | precisionTime (requester : Bool) (granularityNs : Nat)
  | device3 (tag14 l0p : Bool) (l0pLeast : Nat)
  | flitLogging
deriving DecidableEq, Repr

/-- The most VFs (R356). -/
def totalVfs : Nat := 31

/-- The MSI-X vectors of function f in the pool: the first one and how many (R360). -/
def vectorRange (f : Nat) : Nat × Nat := if f = 0 then (0, 1056) else (1056 + 32 * (f - 1), 32)

/-- The vectors of function f. -/
def fnVectors (f : Nat) : List Nat := (List.range (vectorRange f).2).map ((vectorRange f).1 + ·)

/-- The capabilities of every function, at their offsets (R354); the Table Size field is one less than the entries (R360). -/
def commonCaps (f : Nat) : List (Nat × Capability) :=
  [(0x40, .powerManagement false false true true true false true),
   (0x50, .pciExpress 512 true 64 8 false true 4 8 true true ['A', 'B', 'C', 'D'] true true true),
   (0xA0, .msix ((vectorRange f).2 - 1) 4 0x0000 0x8000),
   (0x100, .errorReporting true true),
   (0x190, .ari 0),
   (0x3A0, .device3 true true 1)]

/-- The capabilities of PF0 alone (R354, R356). -/
def pfCaps : List (Nat × Capability) :=
  [(0x180, .serialNumber),
   (0x1A0, .sriov 31 totalVfs 1 1 0x11 0x9609),
   (0x200, .latencyTolerance),
   (0x210, .l1Substates true true true true 50 40),
   (0x220, .secondary 8),
   (0x260, .dataLink true),
   (0x280, .physical 16),
   (0x2C0, .physical 32),
   (0x300, .physical 64),
   (0x340, .margining true true true),
   (0x380, .precisionTime true 4),
   (0x3C0, .flitLogging)]

/-- The capabilities of function f. -/
def capabilities (f : Nat) : List (Nat × Capability) := commonCaps f ++ if f = 0 then pfCaps else []

/-- The capability of function f at an offset: the enable bits of one that is absent do not exist (R355). -/
def capAt (f offset : Nat) : Option Capability := ((capabilities f).find? (·.1 == offset)).map (·.2)

/-- A BAR, all of which are 64-bit memory BARs (R357). -/
structure Bar where
  size : Nat
  prefetchable : Bool
deriving DecidableEq, Repr

/-- The BARs 0, 2 and 4 of PF0, and of each VF: the registers, the Hold, the MSI-X table and PBA (R357). -/
def bars : List Bar := [⟨2 ^ 26, false⟩, ⟨2 ^ 30, true⟩, ⟨2 ^ 16, false⟩]

/-- An address as a BAR keeps it: its bits below the size read 0. -/
def barBase (i base : Nat) : Nat :=
  let n := ((bars[i]?).map (·.size)).getD 1
  base / n * n

/-- Where BAR i of function f begins: a VF's lies at its place in the VFs' range (R357). -/
def State.barAddr (s : State) (f i : Nat) : Nat :=
  if f = 0 then s.host.pfBars.getD i 0 else s.host.vfBars.getD i 0 + (f - 1) * ((bars[i]?).map (·.size)).getD 0

/-- The routing ID of function f: PF0's and f (R356). -/
def State.routingId (s : State) (f : Nat) : Nat := 256 * s.host.bus + f

end Sys2Proof.Machine
end

