-- ==== Sys2Proof/Machine/Install.lean ====
section
/-!
DEFINITION. How an applied structure comes down on an output (R45 to R50), and swaps of reaches that land with it (R416).
-/

namespace Sys2Proof.Machine

/-! Stage register sets (R48). -/

/-- Whether a key lies in the register set of stage `type` of output n. -/
def stageKey (n type a : Nat) : Bool :=
  decide (0x4000000 + 0x10000 * n + 0x100 * type ≤ a) && decide (a < 0x4000000 + 0x10000 * n + 0x100 * (type + 1))

/-- The registers of UNIF that make a base lock: the lock, its range, the base map's address and its check. -/
def lockKeys (n : Nat) : List Nat := [R.unifBaseLock n, R.unifLockRange n, R.unifBaseAddr n, R.unifBaseStatus n]

/-- Whether a base map of output n is locked. -/
def State.baseLocked (s : State) (n : Nat) : Bool := s.get (F.unifBaseLockState n) != 0

/-- What output n holds of a stage beside its registers, forgotten when the stage is cleared: whether the source group has landed, and the state of the
wear map's generation. -/
def State.forgetStage (s : State) (n type : Nat) : State :=
  if type = 1 then s.setOut n fun o => { o with srcLanded := false }
  else if type = 6 then
    s.setOut n fun o => { o with wear := { o.wear with base := none, place := 0, entries := [], genRows := [], layer := none } }
  else s

/-- A stage's shadows, active values, written flags and tables as they are at cold start-up (R12, R48); a base lock stays (R114).
Without its UNPK an output has no landed source group: it scans no slot until one lands (R12); a WEAR that comes anew has generated no map. What
the stages hold beside their registers stays otherwise (DESIGN CHOICE, log 104). -/
def State.clearStage (s : State) (n type : Nat) : State :=
  let gone := fun a => stageKey n type a && !(s.baseLocked n && (lockKeys n).contains a)
  let t := s.forgetStage n type
  { t.clearTables n type with
    regs := t.regs.filter fun p => !gone p.1
    active := t.active.filter fun p => !gone p.1
    written := t.written.filter fun a => !gone a
    landed := t.landed.filter fun a => !gone a }

/-- A stage that a new ROUTE introduces (R48): its reset values, those from the OUTPUT record among them. The reset value of
SCAL_DST_SIZE is that of its landed value too, which no source group has replaced yet (R11, R83). -/
def State.introStage (s : State) (n type : Nat) (c : OutConfig) : State :=
  let t := s.clearStage n type
  if type = 2 then
    ((t.puts [(F.scalDstSizeDstW n, c.hActive), (F.scalDstSizeDstH n, c.vActive)]).putAct (F.scalDstSizeDstW n) c.hActive).putAct
      (F.scalDstSizeDstH n) c.vActive
  else t

/-- The timing group's shadows taken from an OUTPUT record (R48, R165). -/
def State.loadTiming (s : State) (n : Nat) (c : OutConfig) : State :=
  s.puts [(F.tgHrasterHActive n, c.hActive), (F.tgHrasterHTotal n, c.hTotal), (F.tgVrasterVActive n, c.vActive),
    (F.tgVrasterVTotal n, c.vTotal), (F.tgRateNumNum n, c.num), (F.tgRateDenDen n, c.den),
    (F.tgCtrlPace n, c.timingClass)]

/-! Owners and rights (R46). -/

/-- The HOLDMAP entry of a bank. -/
def bankEntry (map : List Word) (b : Nat) : Option Nat :=
  ((map.drop 1).map (·.toNat)).find? fun e =>
    decide (bits e 7 0 ≤ b) && decide (b < bits e 7 0 + bits e 16 8)

/-- The masters of the targeted outputs that still run under their old structure, under both structures. -/
def State.deferredMasters (s : State) : List Nat :=
  ((List.range 4).map fun o =>
    if s.landLeft o && s.running o then (s.cfg o).masters o ++ (streamCfg s.pendingStream o).masters o else []).flatten

/-- The owners and bank flags that are due take effect (R46): each change of owner as a ferry. -/
def State.landBanks (s : State) : State :=
  let map := payOf (streamRecords s.pendingStream) 4
  let later := s.deferredMasters
  s.sst.banksLeft.foldl (fun t b =>
    let target := mapOwner map b
    if later.contains (t.owner b) || later.contains target then t
    else
      let e := (bankEntry map b).getD 0
      let u := ({ t with sst := { t.sst with banksLeft := t.sst.banksLeft.filter (· != b) } }).puts
        [(F.holdOwnerNoBorrow b, bits e 17 17), (F.holdOwnerWinterKeep b, bits e 18 18)]
      if u.owner b = target ∧ !u.ferryOn b then u else u.structFerry b target) s

/-- The rights that are due take effect (R46). -/
def State.landRights (s : State) : State :=
  let new := rightsEntries (payOf (streamRecords s.pendingStream) 5)
  let later := s.deferredMasters
  let owner := fun e : List Word => bits (pw e 0) 31 24
  { s with sst := { s.sst with
      rights := new.filter (fun e => !later.contains (owner e)) ++ s.sst.rights.filter fun e => later.contains (owner e) } }

/-! Completion (R50). -/

/-- The pending slot made ACTIVE once no output is left. SSTn_SEQ and SSTn_TARGET of the slot that becomes EMPTY by it keep what they read:
the spec says nothing of them there (DESIGN CHOICE, log 87). -/
def State.completeApply (s : State) : State :=
  if s.applyPending && s.get F.sstPendingOutputsLeft == 0 then
    let k := s.get F.sstPendingSlot
    let old := s.get F.sstActiveSlot
    let s1 := if s.on F.sstActiveBoot ∨ s.on F.sstActiveNull ∨ s.get (F.sstslotStateState old) ≠ 5 then s
      else ({ (s.put (F.sstslotStateState old) 0) with sst := { s.sst with slots := updAt s.sst.slots old fun _ => [] } }).raise 243
    (s1.puts [(F.sstPendingPending, 0), (F.sstPendingSlot, 0), (F.sstslotStateState k, 5), (F.sstActiveSlot, k),
      (F.sstActiveBoot, 0), (F.sstActiveNull, 0), (F.sstActiveSeqSeq, s.get (F.sstslotSeqSeq k))]).raise 242
  else s

/-! An output takes its structure. -/

/-- REACHn_INFO as the active structure stands. -/
def State.showReaches (s : State) : State :=
  (List.range 64).foldl (fun t r =>
    match stageOn t.sst.outs r with
    | some (o, ty) => t.puts [(F.reachInfoHosting r, 1), (F.reachInfoOutput r, o), (F.reachInfoStageType r, ty),
        (F.reachInfoSplit r, (((t.cfg o).stage ty).map (·.reachCount)).getD 0)]
    | none => t.setReg (R.reachInfo r) 0) s

/-- Output n takes what the pending stream gives it: its records, its stages; the parts of others that it held up. -/
def State.installOut (s : State) (n : Nat) : State :=
  let new := streamCfg s.pendingStream n
  let old := s.cfg n
  let s1 := (List.range 10).foldl (fun t ty => if old.has ty && !new.has ty then t.clearStage n ty else t) s
  let left := s1.get F.sstPendingOutputsLeft
  let s2 := ({ s1 with sst := { s1.sst with outs := updAt s1.sst.outs n fun _ => new } }).put F.sstPendingOutputsLeft
    (left - left / 2 ^ n % 2 * 2 ^ n)
  ((s2.landRights).landBanks).showReaches.completeApply

/-- Whether another targeted running output still has a reach or bank that output n's new structure needs (R47). -/
def State.heldBack (s : State) (n : Nat) : Bool :=
  let new := streamCfg s.pendingStream n
  let map := payOf (streamRecords s.pendingStream) 4
  (List.range 4).any fun o =>
    o != n && s.landLeft o && s.running o &&
      ((new.reaches.any fun r => (s.cfg o).reaches.contains r) ||
        (List.range 256).any fun b =>
          (new.masters n).contains (mapOwner map b) && ((s.cfg o).masters o).contains (s.owner b))

/-! Reach swaps (R412, R416). -/

/-- The relief reaches that no swap has taken or waits for. -/
def State.freeReaches (s : State) : List Nat :=
  (List.range 4).filter fun k =>
    !(s.relief.reaches.any (·.2 == k)) && !(s.relief.waiting.any fun p => p.kind == 2 && p.spare == k)

/-- The output whose route holds reach r, if one does. -/
def State.reachOutput (s : State) (r : Nat) : Option Nat := (List.range 4).find? fun o => (s.cfg o).reaches.contains r

/-- Whether a swap of reach r waits for a thaw: it, or a reach of its route, is frozen. -/
def State.swapFrozen (s : State) (r : Nat) : Bool :=
  s.frozen (0x60 + r) || (match s.reachOutput r with
    | some o => s.reachFrozen o
    | none => false)

/-- Whether reach r hosts a stage of a running output. -/
def State.reachRuns (s : State) (r : Nat) : Bool :=
  match s.reachOutput r with
  | some o => s.running o
  | none => false

/-- A reach put on its relief reach. -/
def State.switchReach (s : State) (r k : Nat) : State :=
  { (s.puts [(F.rlfReachReplaced r, 1), (F.rlfReachInUse (64 + k), 1), (F.rlfReachReplaces (64 + k), r)]) with
    relief := { s.relief with reaches := s.relief.reaches ++ [(r, k)] } }

/-- A reach swap made. -/
def State.makeReachSwap (s : State) (p : PendingSwap) : State := (s.switchReach p.unit p.spare).endSwap p 0

/-- A reach swap that meets a freeze waits for the thaw, and says so once; a command is answered now. -/
def State.swapOnFreeze (s : State) (p : PendingSwap) : State :=
  if p.onFreeze then s
  else
    let t := (s.endSwap p 4).raise 727
    { t with relief := { t.relief with waiting := t.relief.waiting ++ [{ p with slot := none, onFreeze := true }] } }

/-- A waiting swap of a reach that hosts no stage of a running output: made at once, unless a freeze holds it. -/
def State.settleReach (s : State) (p : PendingSwap) : State :=
  if s.reachRuns p.unit then s else if s.swapFrozen p.unit then s.swapOnFreeze p else s.makeReachSwap p

/-- Every reach swap that waits and need not: after a thaw, when an output stops, when a structure has landed. -/
def State.settleReaches (s : State) : State := (s.relief.waiting.filter fun p => p.kind == 2).foldl State.settleReach s

/-- A reach swap asked for: at once on a reach with no stage of a running output, else at its output's next Landing; behind a freeze
it waits for the thaw. -/
def State.askReachSwap (s : State) (r k cause : Nat) (slot : Option Nat) : State :=
  let p : PendingSwap := ⟨2, r, 0, k, cause, slot, 0, false⟩
  let t := { s with relief := { s.relief with waiting := s.relief.waiting ++ [p] } }
  if t.swapFrozen r then t.swapOnFreeze p else t.settleReach p

/-- The reach swaps of output n at its Landing (R416): those of its route take effect unless a reach of it is frozen, and those of reaches that
a structure has just taken off every running route. -/
def State.landReachSwaps (s : State) (n : Nat) : State :=
  ((s.relief.waiting.filter fun p => p.kind == 2 && (s.cfg n).reaches.contains p.unit).foldl
    (if s.reachFrozen n then State.swapOnFreeze else State.makeReachSwap) s).settleReaches

/-! Swaps of chain slices wait for a marker boundary (R322). -/

/-- The number of slice k of port p: the unit a swap log entry names. -/
def chainUnit (p k : Nat) : Nat := 4 * p + k

/-- The lane of port p that its relief slice serves, if any. -/
def State.chainRelieved (s : State) (p : Nat) : Option Nat := (s.relief.chain.find? (·.1 == p)).map (·.2)

/-- Whether receive slice k of port p (4 the relief slice) is in service. -/
def State.sliceServes (s : State) (p k : Nat) : Bool :=
  if k = 4 then (s.chainRelieved p).isSome else s.chainRelieved p != some k

/-- Whether a swap of a chain slice waits for its marker boundary. -/
def State.chainSwap (s : State) (p : Nat) : Option PendingSwap :=
  s.relief.waiting.find? fun x => x.kind == 1 && x.unit / 4 == p

/-- A swap of a chain slice asked for: it is made at the next marker boundary. -/
def State.askChainSwap (s : State) (p k cause : Nat) (slot : Option Nat) : State :=
  { s with relief := { s.relief with waiting := s.relief.waiting ++ [⟨1, chainUnit p k, 0, 0, cause, slot, 0, false⟩] } }

end Sys2Proof.Machine
end

