-- ==== Sys2Proof/Machine/Pacing.lean ====
section
/-!
DEFINITION. Where the edges of an output's frames fall: periods, epochs, trim and pull (R145 to R159 of
07_timing_generators_and_landing.md). Instants are picoseconds of local time, of which the time clock counts 4,000 a tick.
-/

namespace Sys2Proof.Machine

/-- The timing group as a set of values gives it. -/
def timingOf (g : Field → Nat) (n : Nat) : Timing :=
  ⟨g (F.tgHrasterHTotal n), g (F.tgVrasterVTotal n), g (F.tgHrasterHActive n), g (F.tgVrasterVActive n),
    g (F.tgRateNumNum n), g (F.tgRateDenDen n), g (F.tgCtrlPace n)⟩

/-- The timing that output n follows now (R166): that of its frame under way, and before frame 0 the landed one. -/
def State.timingNow (s : State) (n : Nat) : Timing := if (s.outp n).waiting then timingOf s.act n else (s.outp n).timing

/-- The pacing source that output n follows now. -/
def State.paceOf (s : State) (n : Nat) : Nat := (s.timingNow n).pace

/-- The refresh that output n's frames have at its rung, from a timing. -/
def State.rateAt (s : State) (n : Nat) (t : Timing) : Nat × Nat := rungRate s.act n (s.rung n) t.num t.den

/-- The refresh in force: of the frame under way, and before frame 0 the landed one. -/
def State.rateNow (s : State) (n : Nat) : Nat × Nat := if (s.outp n).waiting then s.rateAt n (timingOf s.act n) else (s.outp n).rate

/-- The period of a refresh in ps, as a ratio. -/
def ratePs (r : Nat × Nat) : Nat × Nat := (1000000000000 * r.2, max 1 r.1)

/-- DIV of a set of values. -/
def syncDiv (g : Field → Nat) (n : Nat) : Nat := max 1 (g (F.tgSyncCfgDiv n))

/-! The output's own time (R156). -/

/-- TIME_NS at an instant, in units of 2^-32 ns: the counter, interpolated at the pace of the tick to come. -/
def State.timeAt (s : State) (t : Int) : Int :=
  (s.time.now : Int) + rheDiv ((t - s.nowPs) * ((s.timeIncr : Int) + s.slewStep)) 4000

/-- TGn_TIME_OFFSET in units of 2^-32 ns. -/
def State.timeOffset (s : State) (n : Nat) : Int := sval 32 (s.act (F.tgTimeOffsetOffset n)) * (nsUnit : Int)

/-- An instant as time after the epoch of index 0 of output n (R157). -/
def State.sinceEpoch (s : State) (n : Nat) (t : Int) : Int := s.timeAt t - s.timeOffset n

/-- The index of the epoch of a refresh that lies nearest to a time after epoch 0. -/
def epochIndex (x : Int) (r : Nat × Nat) : Int := rheDiv (x * (r.1 : Int)) (max 1 (r.2 * secUnit))

/-- Whether a time after epoch 0 is an epoch of a refresh, to within 0.2 ns (R156, R157). -/
def onEpoch (x : Int) (r : Nat × Nat) : Bool :=
  decide ((x * (r.1 : Int) - epochIndex x r * ((r.2 * secUnit : Nat) : Int)).natAbs * 5 ≤ r.1 * nsUnit)

/-- Whether two refreshes have a common epoch within 1 s of a time after epoch 0 (R158): they meet at the multiples of the least common
multiple of their periods, l / d seconds. -/
def epochsMeet (x : Int) (p q : Nat × Nat) : Bool :=
  let l : Nat := Nat.lcm (p.2 * q.1) (q.2 * p.1) * secUnit
  let d : Nat := p.1 * q.1
  let k := -(-(x * (d : Int)) / (l : Int))
  decide (l ≠ 0 ∧ k * (l : Int) ≤ (x + (secUnit : Int)) * (d : Int))

/-- Whether the epoch of refresh p nearest to a time after epoch 0 is an epoch of refresh q too. -/
def epochShared (x : Int) (p q : Nat × Nat) : Bool :=
  (epochIndex x p * ((p.2 * q.1 : Nat) : Int)) % ((p.1 * max 1 q.2 : Nat) : Int) == 0

/-! The frame under way (R145, R154, R159). -/

/-- The longest a frame may wait for its TE, in ps (R159): TIMEOUT, or the panel's slowest refresh. -/
def State.teLimit (s : State) (n : Nat) : Option Int :=
  let t := s.act (F.tgTeCfgTimeout n) * 100000000
  let mhz := (s.cfg n).minMhz
  if mhz = 0 then (if t = 0 then none else some t)
  else
    let slow := 1000000000000000 / mhz
    some (if t = 0 then slow else min t slow : Nat)

/-- The instant of the TE timeout of output n. -/
def State.teDeadline (s : State) (n : Nat) : Option Int :=
  (s.teLimit n).map fun d => (if (s.outp n).waiting then (s.outp n).sync.startAt else (s.outp n).edge) + d

/-- The frame edge that a TE at an instant asks for (R159): TE_DELAY after it, or the first fabric cycle after its recognition when that is
later. -/
def State.teEdgeAt (s : State) (n : Nat) (t : Int) : Int :=
  let want := t + (s.act (F.tgTeCfgDelay n) : Int) * 1000
  if want < t + 5000 then cycleAt (nextCycle (t + 5000)) else want

/-- The next frame edge of output n, as far as its pacing has fixed it: of a waiting output (R149), or the end of the frame under way. -/
def State.nextEdge (s : State) (n : Nat) : Option Int :=
  let o := s.outp n
  let pace := s.paceOf n
  if o.waiting then (if pace = 0 then some (o.sync.startAt + 50000000) else o.sync.scheduled)
  else if pace = 3 then o.sync.scheduled.map fun t => max t (s.frameEnd n)
  else some (s.frameEnd n)

/-- How far a frame edge may lie before and after the one that pacing has fixed, in ps: free-run within one pixel period (R145), a started
free-run output within the tick that times its 50 µs, a TE within a fabric cycle, else 0.2 ns (R153, R156). -/
def State.edgeSlack (s : State) (n : Nat) : Int × Int :=
  let o := s.outp n
  let pace := s.paceOf n
  if pace = 0 then
    (if o.waiting then (0, 4000)
    else
      let p := s.framePs n
      let px : Int := ceilDiv p.1 (p.2 * max 1 (o.timing.vTotal * o.timing.hTotal))
      (px, px))
  else if pace = 3 then (0, 834)
  else (200, 200)

/-- Whether a frame edge of output n may fall at an instant (R145 to R159): where its pacing has fixed it; a waiting output under PACE 2 takes the
first epoch that lies 50 µs or more after the write. -/
def State.edgeDue (s : State) (n : Nat) (t : Int) : Bool :=
  if (s.outp n).waiting && s.paceOf n == 2 then
    let r := s.rateNow n
    let first := (s.outp n).sync.startAt + 50000000
    decide (first ≤ t) && onEpoch (s.sinceEpoch n t) r && decide ((t - first - 200) * ((ratePs r).2 : Int) < ((ratePs r).1 : Int))
  else match s.nextEdge n with
    | none => false
    | some x => decide (x - (s.edgeSlack n).1 ≤ t) && decide (t ≤ x + (s.edgeSlack n).2)

/-! Coarse lines and the fine pull (R154, R155). -/

/-- Lines that the phase calls for. -/
def State.linesWanted (s : State) (n : Nat) : Nat :=
  let o := s.outp n
  let p := s.framePs n
  (rheDiv (o.sync.phase.natAbs * p.2 * o.timing.vTotal : Nat) (max 1 p.1)).toNat

/-- Whether the phase of output n is pulled by lines: more than half a line period away, with COARSE_LINES above 0. -/
def State.pullsCoarse (s : State) (n : Nat) : Bool :=
  let o := s.outp n
  let p := s.framePs n
  (o.timing.pace == 1 || o.timing.pace == 2) && decide (0 < s.act (F.tgSlewCoarseLines n)) &&
    decide (p.1 < o.sync.phase.natAbs * 2 * p.2 * o.timing.vTotal)

/-- The shortest frame that the panel's declared range and the nominal refresh allow, in ps (R27). -/
def OutConfig.shortest (c : OutConfig) : Nat :=
  max (1000000000000000 / max 1 c.maxMhz) (1000000000000 * c.den / max 1 c.num)

/-- The longest frame that the panel's declared range allows, in ps (R27): none where it declares no slowest refresh. -/
def OutConfig.longest (c : OutConfig) : Option Nat := if c.minMhz = 0 then none else some (ceilDiv 1000000000000000 c.minMhz)

/-- The lines of the frame under way (R154, R155): V_TOTAL, with coarse lines added or removed to pull the phase; the frame keeps its own Landing line,
its active lines and, with its trim and fine pull, the panel's declared range. -/
def State.coarseTotal (s : State) (n : Nat) : Nat :=
  let o := s.outp n
  let c := s.cfg n
  let v := o.timing.vTotal
  let p := s.framePs n
  -- a line lasts lineOf / linesOf ps
  let lineOf : Nat := p.1 * (1000000000 - o.sync.trim).toNat
  let linesOf : Nat := p.2 * v * 1000000000
  let k := min (s.act (F.tgSlewCoarseLines n)) (s.linesWanted n)
  if !s.pullsCoarse n then v
  else if o.sync.phase < 0 then
    let slow := match c.longest with
      | none => v + k
      | some t => ((t : Int) - o.sync.pull).toNat * linesOf / max 1 lineOf
    max v (min (v + k) (min c.vTotalMax slow))
  else
    let fast := ceilDiv (((c.shortest : Int) - o.sync.pull).toNat * linesOf) (max 1 lineOf)
    let dual := if c.dual then o.landLine + 1 + s.get (F.dualStatusAheadRows n) * 2 ^ c.backVdiv else 0
    min v (max (v - k) (max (max c.vTotalMin (o.timing.vActive + 2)) (max (max (o.landLine + 2) fast) dual)))

/-- The coarse lines of the frame under way chosen; the phase they leave. -/
def State.chooseLines (s : State) (n : Nat) : State :=
  let v := (s.outp n).timing.vTotal
  let lines := s.coarseTotal n
  let p := s.framePs n
  let gain := rheDiv (((lines : Int) - (v : Int)) * p.1) (max 1 (p.2 * v))
  s.setOut n fun o => { o with frameLines := lines, sync := { o.sync with phase := o.sync.phase + gain, pulled := o.sync.pulled + gain } }

/-- A trim, in 10^-9, that keeps a frame of V_TOTAL lines within the panel's declared range (R27, R52, R154). -/
def State.trimWithin (s : State) (n : Nat) (trim : Int) : Int :=
  let c := s.cfg n
  let p := s.framePs n
  let up : Int := ((p.1 - c.shortest * p.2) * 1000000000 / max 1 p.1 : Nat)
  if 0 ≤ trim then min trim up
  else match c.longest with
    | none => trim
    | some t => max trim (-(((t * p.2 - p.1) * 1000000000 / max 1 p.1 : Nat) : Int))

/-- The trim and the fine pull of the frame that has begun (R151, R155): the trim measured last, and where no lines pull, the phase moved by up
to TRIM_PPM less the reference's measured offset, both within the panel's declared range, which wins over lock (R27, R52, R154). -/
def State.choosePull (s0 : State) (n : Nat) : State :=
  let o := s0.outp n
  if o.timing.pace = 0 ∨ o.timing.pace = 3 then s0.setOut n fun o => { o with sync := { o.sync with trim := 0, pull := 0 } }
  else
    let measured := sval 32 (s0.get (F.tgFreqTrimTrim n))
    let trim := s0.trimWithin n measured
    let s := s0.setOut n fun o => { o with sync := { o.sync with trim := trim, pull := 0 } }
    if s.coarseTotal n ≠ o.timing.vTotal then s
    else
      let c := s.cfg n
      let p := s.framePs n
      let most : Int := (1000 * s.act (F.tgSlewTrimPpm n) - measured.natAbs : Nat)
      let room := most * (p.1 : Int) / ((p.2 * 1000000000 : Nat) : Int)
      -- the frame without the pull lasts whole / unit ps
      let unit : Int := ((p.2 * 1000000000 : Nat) : Int)
      let whole : Int := (p.1 : Int) * (1000000000 - trim)
      let least := min 0 (max (-room) (-((whole - (c.shortest : Int) * unit) / unit)))
      let longest := max 0 (c.longest.elim room fun t => min room (((t : Int) * unit - whole) / unit))
      let pull := clampI least longest (-o.sync.phase)
      s.setOut n fun o => { o with sync := { o.sync with
        pull := pull, phase := o.sync.phase + pull, pulled := o.sync.pulled + pull } }

/-! Lock state (R148). -/

/-- TGn_LOCK_STATUS.STATE taken, LOCK_CHANGE on a change. -/
def State.setLock (s : State) (n st : Nat) : State :=
  if s.get (F.tgLockStatusState n) = st then s else (s.put (F.tgLockStatusState n) st).raise (evOut n 3)

/-- Every output that follows chain time in HOLDOVER while that is not usable (R157). -/
def State.holdEpochs (s : State) : State :=
  if s.timeUsable then s
  else (List.range 4).foldl (fun t n => if t.running n && t.paceOf n == 2 then t.setLock n 3 else t) s

end Sys2Proof.Machine
end

