-- ==== Sys2Proof/Machine/Landing.lean ====
section
/-!
DEFINITION. Landings: the groups that land whole or not at all, the copy of the shadows, the ladder, coarse lines, the choice
of the next frame (07_timing_generators_and_landing.md, 08_scan_out_and_slack.md).
-/

namespace Sys2Proof.Machine

/-! The timing group (R165, R166). -/

/-- Whether refresh a is at most refresh b. -/
def rateLe (a b : Nat × Nat) : Bool := decide (a.1 * b.2 ≤ b.1 * a.2)

/-- The cause a timing group fails with, 0 when it lands: `old` is the active group, `meets` says that a common epoch of its refresh and the
new one falls within 1 s of the request (R158), as it must for a running output. -/
def timingCause (c : OutConfig) (t old : Timing) (div : Nat) (meets : Bool) : Nat :=
  let r := (t.num, t.den)
  let nom := (c.num, c.den)
  if t.hActive % 2 = 1 ∨ t.hActive < 64 ∨ c.hActive < t.hActive ∨ t.vActive < 16 ∨ c.vActive < t.vActive then 1
  else if t.hTotal < t.hActive + 32 ∨ t.hTotal < c.hTotalMin ∨ c.hTotalMax < t.hTotal ∨ t.vTotal < t.vActive + 2 ∨
      t.vTotal < c.vTotalMin ∨ c.vTotalMax < t.vTotal then 2
  else if t.den = 0 ∨ t.num = 0 ∨ !rateLe (1, 1) r ∨ !rateLe r nom ∨ !rateLe (c.minMhz, 1000) r ∨
      !rateLe r (c.maxMhz, 1000) then 3
  else if c.hActive * c.vTotal * c.num * t.den < t.hActive * t.vTotal * t.num * c.den then 4
  else if t.pace = 2 ∧ old.pace = 2 ∧ t.num * old.den ≠ old.num * t.den ∧ !meets then 5
  else if t.pace = 1 ∧ 2 * t.num < div * t.den then 6
  else 0

/-- Whether two timing groups differ in raster or pace (R166). -/
def Timing.modeDiffers (a b : Timing) : Bool :=
  a.hTotal != b.hTotal || a.vTotal != b.vTotal || a.hActive != b.hActive || a.vActive != b.vActive || a.pace != b.pace

/-- The registers of the timing group. -/
def timingKeys (n : Nat) : List Nat := [R.tgHraster n, R.tgVraster n, R.tgRateNum n, R.tgRateDen n, R.tgCtrl n]

/-- The landed fields of a register. -/
def landMask (a : Nat) : Word := match rowOf a with
  | some r => BitVec.ofNat 32 r.masks.rwl
  | none => 0

/-- One register's shadow copied to the active set. -/
def State.landReg (s : State) (a : Nat) : State :=
  s.setActReg a ((s.actReg a &&& ~~~(landMask a)) ||| (s.reg a &&& landMask a))

/-- Several registers' shadows copied. -/
def State.landRegs (s : State) (l : List Nat) : State := l.foldl State.landReg s

/-- The timing group at a Landing on an output's configuration (R158, R165); `edges` are, when the output runs, the time of the next frame edge and that
of the one after a blank frame, at which a change of mode brings its refresh. A Landing that finds the group changed is its request; a group that
waits has been judged and meets the epoch it waits for. -/
def State.timingLand (s : State) (n : Nat) (edges : Option (Int × Int)) : State :=
  let t := timingOf s.get n
  let old := timingOf s.act n
  let meets := edges.isNone || epochsMeet (s.sinceEpoch n s.nowPs) (s.rateNow n) (s.rateAt n t)
  let cause := timingCause (s.cfg n) t old (syncDiv s.get n) meets
  if !(s.cfg n).present then s
  else if cause ≠ 0 then ((s.put (F.tgStatusModeCause n) cause).setOut n fun o => { o with modePending := false }).raise (evOut n 2)
  else
    let waits := match edges with
      | none => false
      | some e => t.pace == 2 && old.pace == 2 && t.num * old.den != old.num * t.den &&
          !epochShared (s.sinceEpoch n (if t.modeDiffers old then e.2 else e.1)) (s.rateNow n) (s.rateAt n t)
    if waits then s.setOut n fun o => { o with modePending := true }
    else ((s.landRegs (timingKeys n)).put (F.tgStatusModeCause n) 0).setOut n fun o => { o with modePending := false }

/-! The ladder group (R172). -/

/-- The registers of the ladder group. -/
def ladderKeys (n : Nat) : List Nat := R.scnLadderCtrl n :: (List.range 4).map (R.scnRung n)

/-- The cause a ladder group fails with, 0 when it lands. -/
def State.ladderCause (s : State) (n : Nat) : Nat :=
  let g := s.get
  let t := timingOf s.act n
  let count := g (F.scnLadderCtrlRungCount n)
  let ds := (List.range count).map (rungDiv g n)
  let rates := ds.map fun d => (t.num * 256, t.den * d)
  if count = 0 ∨ 8 < count ∨ rungDiv g n 0 ≠ 0x100 ∨ !strictlyRising ds then 1
  else if rates.any fun r => !rateLe (1, 1) r || !rateLe ((s.cfg n).minMhz, 1000) r then 2
  else if g (F.scnLadderCtrlRefreshHoldEn n) = 1 ∧ count ≤ g (F.scnLadderCtrlRefreshHold n) then 3
  else if t.pace = 1 ∧ ds.any (fun d => 256 * syncDiv g n % d != 0) then 4
  else if t.pace = 2 ∧ rates.any (fun p => rates.any fun q => !epochsMeet (s.sinceEpoch n s.nowPs) p q) then 5
  else 0

/-- The ladder group at a Landing; changed values restart the ladder from rung 0. -/
def State.ladderLand (s : State) (n : Nat) : State :=
  let cause := s.ladderCause n
  if cause ≠ 0 then (s.put (F.scnLadderStatusCause n) cause).raise (evOut n 11)
  else
    let t := (s.landRegs (ladderKeys n)).put (F.scnLadderStatusCause n) 0
    if (ladderKeys n).any fun a => t.actReg a != s.actReg a then
      (t.puts [(F.scnLadderStatusWant n, 0), (F.scnLadderStatusStaticCount n, 0)]).setOut n fun o => { o with rateHeld := false }
    else t

/-! The copy of the shadows (R161). -/

/-- Whether a register lands with output n under the general rule: the output's TG and SCN blocks and the stages of its route,
but for the groups with rules of their own. -/
def State.landsPlainly (s : State) (n a : Nat) : Bool :=
  let own := (decide (0x100000 + 0x10000 * n ≤ a) && decide (a < 0x110000 + 0x10000 * n)) ||
    (decide (0x140000 + 0x10000 * n ≤ a) && decide (a < 0x150000 + 0x10000 * n)) ||
    (decide (0x4000000 + 0x10000 * n ≤ a) && decide (a < 0x4010000 + 0x10000 * n) && (s.cfg n).has (a / 0x100 % 0x100))
  own && !inSourceGroup n a && !(timingKeys n).contains a && !(ladderKeys n).contains a && !(histKeys n).contains a &&
    a != R.unifBaseAddr n && a != R.unifFieldAddr n && a != R.dualFieldBase n && a != R.dualFieldStride n &&
    !((List.range 4).map (R.odrvBand n)).contains a

/-- Every register that lands plainly copied; TRIM_PPM lands as 110 to 500 (R154). -/
def State.copyShadows (s : State) (n : Nat) : State :=
  let keys := ((s.regs.map (·.1)) ++ s.active.map (·.1)).filter (s.landsPlainly n)
  let t := s.landRegs keys
  t.putAct (F.tgSlewTrimPpm n) (min 500 (max 110 (t.act (F.tgSlewTrimPpm n))))

/-- LAND_CLAMPED as LINE and the raster that have landed give it (R160). -/
def State.showClamped (s : State) (n : Nat) : State := s.put (F.tgStatusLandClamped n) (s.landQClamped n).toNat

/-! The source group (R60, R73). -/

/-- The registers of the source group that differ from what they were. -/
def sourceKeys (s : State) (n : Nat) : List Nat :=
  ((s.regs.map (·.1)) ++ s.active.map (·.1)).filter (inSourceGroup n)

/-- Slot 0 made current under SLOT_COUNT 1 (R60, R63), unless it is. -/
def State.slotZero (s : State) (n : Nat) : State :=
  if s.curSlot n = 0 ∧ s.on (F.scnSlotCtrlCurrent n 0) then s else s.makeCurrent n 0

/-- Whether a ring of `count` slots, after one of `old`, leaves the current slot out for the first time (R60): it then stays current for
the frame that follows. -/
def State.slotLeaves (s : State) (n old count : Nat) : Bool :=
  count != 1 && decide (count ≤ s.curSlot n) && (old == 1 || decide (s.curSlot n < old))

/-- The source group at a Landing: all of it, or nothing with the cause told. A landing of changed values clears SYNCED
(R180). The current slot is judged too when it stays current outside the ring (R73); on an idle output, which moves no slot, it always
does, unless SLOT_COUNT 1 makes slot 0 current. -/
def State.sourceLand (s : State) (n : Nat) (idle : Bool) : State :=
  let count := s.get (F.scnSlotCfgSlotCount n)
  let cur := s.curSlot n
  let stays := count != 1 && decide (count ≤ cur) &&
    (idle || s.slotLeaves n (s.act (F.scnSlotCfgSlotCount n)) count || !s.slotReady n (nextSlot cur count))
  let slots := (List.range (min 4 count)) ++ (if stays then [cur] else [])
  let cause := s.sourceCause n slots (s.cfg n) (s.hActive n) (s.vActive n)
  if cause ≠ 0 then (s.put (F.scnSrcStatusCause n) cause).raise (evOut n 17)
  else
    let t := ((s.landRegs (sourceKeys s n)).put (F.scnSrcStatusCause n) 0).setOut n fun o => { o with srcLanded := true }
    let u := if (sourceKeys s n).any fun a => t.actReg a != s.actReg a then t.put (F.scnRgnStatusSynced n) 0 else t
    if idle && count == 1 then u.slotZero n else u

/-- The ring at a Landing (R60, R63): the next slot becomes current when READY, unless the current one has just fallen out of a ring of
`old` slots; whether it moved. -/
def State.moveSlot (s : State) (n old : Nat) : State × Bool :=
  let count := s.act (F.scnSlotCfgSlotCount n)
  let cur := s.curSlot n
  if count = 1 then (s.slotZero n, cur != 0)
  else if s.slotLeaves n old count then (s, false)
  else
    let next := nextSlot cur count
    if s.slotReady n next then
      let t := (s.makeCurrent n next).raise (evOut n 19)
      (if (s.outp n).region.ownReady then t else t.put (F.scnRgnStatusSynced n) 0, true)
    else (s, false)

/-! The stages and a whole Landing. -/

/-- The V_TOTAL from which DUAL counts its rows at a Landing (R97, R154): of the frame under way with the lines it adds, unless a change of
mode follows. -/
def State.dualTotal (s : State) (n : Nat) : Nat :=
  let o := s.outp n
  if s.running n && !o.waiting && o.timing.vTotal == s.vTotal n then max o.timing.vTotal o.frameLines else s.vTotal n

/-- What the stages keep valid, show and forget at a Landing; `s0` is the state before it, `thawed` whether the route resumes. -/
def State.stagesLand (s s0 : State) (n : Nat) (thawed : Bool) : State :=
  let raster := s.hActive n != s0.hActive n || s.vActive n != s0.vActive n || s.hTotal n != s0.hTotal n ||
    s.vTotal n != s0.vTotal n
  let t := (((s.scalLand n).colrLand n).dualFieldLand n).dualLand n (s.dualTotal n)
  let u := (((t.unifLand n).wearLand n).odrvLand n (s0.actOn (F.odrvCtrlEn n)) (s0.act (F.odrvCtrlMode n)) raster thawed)
  let v := if (u.cfg n).has 8 then u.put (F.dithStatusActiveBank n) (u.act (F.dithCtrlTblBank n)) else u
  v.holdChannels

/-- The effective rung for a content rung. -/
def State.effRung (s : State) (n w : Nat) : Nat :=
  if s.act (F.scnLadderCtrlRefreshHoldEn n) = 1 then s.act (F.scnLadderCtrlRefreshHold n)
  else min w (min (s.act (F.scnLadderCtrlRefreshFloor n)) (s.act (F.scnLadderCtrlRungCount n) - 1))

/-- An idle output stands at the effective rung of its content rung, at rung 0 under PACE 3 (R172, R174): no frame runs at another, and it
takes no step. -/
def State.idleRung (s : State) (n : Nat) : State :=
  s.put (F.scnLadderStatusRung n) (if s.act (F.tgCtrlPace n) = 3 then 0 else s.effRung n (s.get (F.scnLadderStatusWant n)))

/-- Whether the scan-out engine or a reach of output n's route is frozen (R368). -/
def State.routeFrozen (s : State) (n : Nat) : Bool := decide (s.stallNow n ≠ 0)

/-- Every group of output n landed: `edges` are the next frame edge, and that after a blank frame, when the output runs. A route that froze since
the last Landing and runs again resumes here (R138, R368). -/
def State.landAll (s : State) (n : Nat) (edges : Option (Int × Int)) : State :=
  let t := ((s.copyShadows n).timingLand n edges).showClamped n
  let u := (t.sourceLand n edges.isNone).ladderLand n
  let thawed := ((s.outp n).froze || (s.outp n).routeHeld) && !s.routeFrozen n
  ((if edges.isNone then u.idleRung n else u).stagesLand s n thawed).setOut n fun o => { o with
    froze := s.routeFrozen n, stall := s.stallNow n, routeHeld := o.routeHeld && !thawed }

/-- A write of a landed field while its output is idle lands in the clock after (R163): its segments follow H_ACTIVE (R188). -/
def State.idleLand (s : State) (n : Nat) : State := if s.running n then s else (s.landAll n none).showRoles n

/-! Frames. -/

/-- The frame period of output n at the rung in force and the active timing, in ps, as a ratio. -/
def State.periodPs (s : State) (n : Nat) : Nat × Nat :=
  let r := s.rateAt n (timingOf s.act n)
  (1000000000000 * r.2, max 1 r.1)

/-! The ladder's steps (R173, R174). -/

/-- Whether the frame edge at which the next normal frame begins allows a step to rung b: under PACE 1 an aligned edge, under PACE 2 a common
epoch of the refresh in force and that of the rung; `blank` says that a blank frame comes first. -/
def State.stepAllowed (s : State) (n b : Nat) (edge : Int) (blank : Bool) : Bool :=
  let t := timingOf s.act n
  let y := (s.outp n).sync
  if t.pace = 1 then (y.alignCount + (if blank then 2 else 1)) % max 1 y.every == 0
  else if t.pace = 2 then epochShared (s.sinceEpoch n edge) (s.rateNow n) (rungRate s.act n b t.num t.den)
  else true

/-- Whether the refresh in force is that of rung b of the active ladder. -/
def State.atRung (s : State) (n b : Nat) : Bool :=
  let t := (s.outp n).timing
  (s.rateNow n).1 * (rungRate s.act n b t.num t.den).2 == (rungRate s.act n b t.num t.den).1 * (s.rateNow n).2

/-- The ladder at a Landing point: the content rung, the effective rung, the rung in force. Under PACE 3 it counts static Landing points
(R171) and does not act (R172). While a freeze holds the output the rung in force stays (R368); a refresh that new divisors give the rung in force
waits like a step. `edge` is where the next normal frame begins, `blank` whether a blank frame comes first. -/
def State.ladderStep (s : State) (n : Nat) (changed : Bool) (edge : Int) (blank : Bool) : State :=
  if s.act (F.tgCtrlPace n) = 3 then
    (s.puts [(F.scnLadderStatusRung n, 0), (F.scnLadderStatusWant n, 0), (F.scnLadderStatusStaticCount n,
      if changed then 0 else min 255 (s.get (F.scnLadderStatusStaticCount n) + 1))]).setOut n fun o =>
        { o with rungPending := none, rateHeld := false }
  else
    let count := min 255 (s.get (F.scnLadderStatusStaticCount n) + 1)
    let frames := s.act (F.scnLadderCtrlStaticFrames n)
    let up := frames != 0 && decide (frames ≤ count)
    let top := s.act (F.scnLadderCtrlRungCount n) - 1
    let w := if changed ∨ frames = 0 then 0 else if up then min top (s.get (F.scnLadderStatusWant n) + 1)
      else s.get (F.scnLadderStatusWant n)
    let s1 := s.puts [(F.scnLadderStatusWant n, w),
      (F.scnLadderStatusStaticCount n, if changed || up then 0 else count)]
    let eff := s1.effRung n w
    let held := decide (eff < w)
    let s2 := (s1.raiseIf (held && !(s1.outp n).rateHeld) (evOut n 7)).setOut n fun o => { o with rateHeld := held }
    if eff = s2.rung n ∧ s2.atRung n eff then s2.setOut n fun o => { o with rungPending := none }
    else if (s2.outp n).stall = 0 ∧ !(s2.outp n).routeHeld ∧ s2.stepAllowed n eff edge blank then
      ((s2.put (F.scnLadderStatusRung n) eff).setOut n fun o => { o with rungPending := none }).raiseIf (eff != s2.rung n) (evOut n 6)
    else s2.setOut n fun o => { o with rungPending := some eff }

/-- The rate factor of the next frame (R139): under PACE 3 of a refresh of 1.2 × 10^9 / N Hz, N the fabric cycles of the last frame, the nominal
rate while none is complete (DESIGN CHOICE, log 110). -/
def State.rateLand (s : State) (n : Nat) : State :=
  if !(s.cfg n).has 7 then s
  else
    let t := timingOf s.act n
    let last := (s.outp n).lastFrame
    let g := if t.pace = 3 then (if last ≤ 0 then 0x8000 else s.rateFactor n 1200000000 last.toNat)
      else
        let r := s.rateAt n t
        s.rateFactor n r.1 r.2
    s.setOdrv n fun o => { o with g := g }

/-! Regions at a Landing point (R181, R182). -/

/-- The region engine in the Landing-point cycle: whether the back slot is READY with its batch. -/
def State.regionReady (s : State) (n : Nat) : State :=
  if s.get (F.scnRgnStatusDepth n) = 0 then s
  else
    let r := (s.outp n).region
    let ready := !r.copied.isEmpty && r.copying.isNone && !r.seeding && r.merging.isEmpty
    let back := nextSlot (s.curSlot n) (s.act (F.scnSlotCfgSlotCount n))
    (s.put (F.scnSlotCtrlReady n back) ready.toNat).setOut n fun o =>
      { o with region := { r with ownReady := ready, closed := r.copying.isSome } }

/-- A batch that has landed begins its merge. -/
def State.regionLanded (s : State) (n : Nat) : State :=
  s.setOut n fun o => { o with region := { o.region with
    merging := o.region.copied, copied := [], ownReady := false, closed := false } }

/-- The region engine changed. -/
def State.setRegion (s : State) (n : Nat) (f : RegionState → RegionState) : State :=
  s.setOut n fun o => { o with region := f o.region }

/-- The next copy begun: none while one is under way, while the slots are being made equal or merged, or while copying waits
for a Landing point. -/
def State.regionGo (s : State) (n : Nat) : State :=
  let r := (s.outp n).region
  if r.copying.isSome || r.seeding || r.closed || !r.merging.isEmpty then s
  else match r.queue with
    | [] => s
    | e :: rest => s.setRegion n fun r => { r with queue := rest, copying := some e }

/-! Calibration frames (R221). -/

/-- Whether a lane swap waits for a calibration frame of output n (R415). -/
def State.swapWaits (s : State) (n : Nat) : Bool :=
  s.relief.waiting.any fun p => p.kind == 0 && p.stage == 0 && (s.cfg n).lanes.contains p.unit && !(s.cfg n).watch.contains p.unit

/-- Whether the next frame of output n becomes a calibration frame, `id` its FRAME_ID: a lane of it, no watch lane (R223), is due and ACTIVE, and
CAL_SPACING has passed; which lanes then calibrate is R222's matter. -/
def State.wantsCal (s : State) (n id : Nat) : Bool :=
  let due := (s.cfg n).lanes.any fun l => !(s.cfg n).watch.contains l && s.laneSt l == 3 && s.laneDue l
  let spaced := match (s.outp n).lastCal with
    | none => true
    | some k => decide (s.get (F.ploCalSpacingFrames n) ≤ id - k)
  (s.swapWaits n || (due && spaced)) && !(s.outp n).cut

/-- HOLD's limit for output n (R221): two frame periods in 100 µs. -/
def State.holdLimit (s : State) (n : Nat) : Nat :=
  let p := s.periodPs n
  min 65535 (ceilDiv (2 * p.1) (p.2 * 100000000))

/-- The next frame made a calibration frame. -/
def State.takeCal (s : State) (n id : Nat) : State :=
  let t := ((s.setOut n fun o => { o with nextKind := 2, lastCal := some id }).raise 485).count (F.ploCalFramesCount n) 1
  t.holdLanes n (s.holdLimit n)

/-! The Landing point. -/

/-- FRAME_ID advanced (R161, R164). -/
def State.advanceFrame (s : State) (n : Nat) : State :=
  let id := (s.frameId n + 1) % 2 ^ 64
  s.puts [(F.tgFrameIdLoCount n, id), (F.tgFrameIdHiCount n, id / 2 ^ 32), (F.tgLandFrameId n, id)]

/-- Whether the part is in Run. -/
def State.inRun (s : State) : Bool := s.powerState == 0

/-- The CRC of the frame that ended shown (R171). -/
def State.closeCrc (s : State) (n : Nat) : State :=
  let p := (s.outp n).pix
  let crc := crc32c p.bytes.flatten
  (s.put (F.scnFrameCrcCrc n) crc).setPix n fun p => { p with crcBefore := crc }

/-- A new frame begun in the pictures and the chase tracking: the reads of its lines start from nothing. -/
def State.beginRead (s : State) (n : Nat) : State :=
  ((s.mapsFrame n).setOut n fun o => { o with chaseRead := [] }).setPix n fun p =>
    { p with source := [], groups := 0, colr := [], front := [], drive := [], back := [], bytes := [[], [], []] }

/-- The structure that is due on output n taken down (R45, R47), and whether the output's lanes, pace class or record
changed with it. -/
def State.structureLand (s : State) (n : Nat) (go landing : Bool) : State × Bool :=
  if s.landLeft n ∧ (if s.sst.applyHold then go else landing) ∧ !s.heldBack n then
    let old := s.cfg n
    let t := s.installOut n
    let new := t.cfg n
    (t, old.timingClass != new.timingClass || old.lanemap != new.lanemap || old.driveDepth != new.driveDepth ||
      old.backVdiv != new.backVdiv || old.backHdiv != new.backHdiv)
  else (s, false)

/-! Slack (R177). -/

/-- Slack in force once every output is in it, Run in force again once none is: GLB_POWER_STATUS.STATE and its events. -/
def State.slackCheck (s : State) : State :=
  if s.powerState = 2 ∧ s.outs.all (·.inSlack) then (s.put F.glbPowerStatusState 1).raise 2
  else if s.powerState = 3 ∧ !(s.outs.any (·.inSlack)) then (s.put F.glbPowerStatusState 0).raise 3
  else s

/-- Output n entering or leaving Slack, as the transition under way has it. -/
def State.slackStep (s : State) (n : Nat) : State :=
  if s.powerState = 2 then (s.setOut n fun o => { o with inSlack := true }).slackCheck
  else if s.powerState = 3 then (s.setOut n fun o => { o with inSlack := false }).slackCheck
  else s

/-- The frame edges after the frame under way: the next one, and that of the frame after a blank frame at the refresh in force. -/
def State.edgesNext (s : State) (n : Nat) : Int × Int :=
  let p := s.framePs n
  (s.frameEnd n, s.frameEnd n + rheDiv (p.1 : Nat) p.2)

/-- The Landing point of output n (R161): the coarse lines of the frame under way are chosen (R154); a Landing when GO or AUTO asks for one; then
what every Landing point does. -/
def State.landingPoint (s0 : State) (n : Nat) : State :=
  let s := s0.chooseLines n
  let go := s.on (F.tgLandGo n)
  let landing := go || s.on (F.tgCtrlAuto n)
  let next := s.edgesNext n
  let s1 := ((s.odrvFrameEnd n).regionReady n).closeCrc n
  let st := s1.structureLand n go landing
  let edges := if st.2 then (next.2, next.2) else next
  let s2 := st.1
  let s3 := if landing then (s2.landReachSwaps n).landAll n (some edges)
    else if (s2.outp n).modePending then (s2.timingLand n (some edges)).showClamped n else s2
  let count := s3.act (F.scnSlotCfgSlotCount n)
  let ready := s3.slotReady n (nextSlot (s3.curSlot n) count)
  let mv := if landing then s3.moveSlot n (s.act (F.scnSlotCfgSlotCount n)) else (s3, false)
  let batch := mv.2 && (s3.outp n).region.ownReady
  let s4 := if batch then mv.1.regionLanded n else mv.1
  let repeated := !ready && decide (2 ≤ count) && !s4.chaseOn n && s4.inRun && !mv.2
  let s5 := (if repeated then s4.count (F.scnRepeatsCount n) 1 else s4).raiseIf repeated (evOut n 5)
  let changed := mv.2 || decide (s3.active ≠ s.active) ||
    (s.outp n).pix.crcBefore != (s5.outp n).pix.crcBefore
  let s6 := s5.advanceFrame n
  let s6b := if landing then s6.txLanding n mv.2 else s6
  let s7 := (if go then (s6b.puts [(F.tgLandGo n, 0), (F.tgLastGoFrameId n, s6b.frameId n)]).raise (evOut n 0) else s6b)
  let mode := st.2 || (timingOf s7.act n).modeDiffers (timingOf s.act n)
  let s8 := ((s7.latchTemp n).ladderStep n changed (if mode then edges.2 else edges.1) mode).rateLand n
  let s9 := s8.setOut n fun o => { o with landed := true }
  let stops := !(s9.cfg n).present
  let s10 := if stops then (s9.put (F.tgCtrlEn n) 0).setOut n fun o => { o with stopping := true } else s9
  let s11 := if mode && !stops then s10.setOut n fun o => { o with nextKind := 1, lanesChange := true }
    else if s10.wantsCal n (s10.frameId n) && !stops then s10.takeCal n (s10.frameId n)
    else s10.setOut n fun o => { o with nextKind := 0 }
  ((s11.regionGo n).beginRead n).slackStep n

end Sys2Proof.Machine
end

