-- ==== Sys2Proof/Machine/Stage.lean ====
section
/-!
DEFINITION. The commands of the pixel stages: table accesses, map checks, the base lock, the wear ledger, the panel
temperature (04_colour_scaling_dual_cell.md, 05_uniformity_and_wear.md, 06_overdrive_and_dither.md).
-/

namespace Sys2Proof.Machine

/-- The output of a stage register's key. -/
def keyOut (k : Nat) : Nat := (k - 0x4000000) / 0x10000
/-- The stage type of a stage register's key. -/
def keyType (k : Nat) : Nat := k / 0x100 % 0x100

/-! Tables (R76 to R78). -/

/-- The key of TBL_DATA of stage `type` of output n; 0 where the stage has no tables. -/
def tblDataKey (n type : Nat) : Nat :=
  if type = 2 then R.scalTblData n else if type = 3 then R.colrTblData n else if type = 4 then R.dualTblData n
  else if type = 6 then R.wearTblData n else if type = 7 then R.odrvTblData n else if type = 8 then R.dithTblData n else 0

/-- Entries of a table of a stage; 0 for a table it does not have. -/
def tableSize (type table : Nat) : Nat :=
  (if type = 2 then [512, 384] else if type = 3 then [12288, 107811, 12288] else if type = 4 then [12288, 4096]
   else if type = 6 then [771, 1040, 16] else if type = 7 then [26136, 26136] else if type = 8 then [4096] else []).getD table 0

/-- Bits of a table entry of a stage. -/
def tableBits (type : Nat) : Nat := if type = 2 ∨ type = 8 then 12 else if type = 6 then 16 else 20

/-- The bank that the active set of a stage selects. -/
def State.activeBank (s : State) (n type : Nat) : Nat :=
  if type = 2 then s.act (F.scalCtrlCoefBank n) else if type = 3 then s.act (F.colrCtrlTblBank n)
  else if type = 4 then s.act (F.dualCtrlTblBank n) else if type = 6 then s.act (F.wearCtrlTblBank n)
  else if type = 7 then s.act (F.odrvCtrlTblBank n) else s.act (F.dithCtrlTblBank n)

/-- TABLE, BANK and INDEX of a stage's pointer; the pointer lies one word below TBL_DATA. -/
def tblTableF (n type : Nat) : Field := ⟨tblDataKey n type - 4, 23, 20⟩
/-- BANK. -/
def tblBankF (n type : Nat) : Field := ⟨tblDataKey n type - 4, 19, 19⟩
/-- INDEX. -/
def tblIndexF (n type : Nat) : Field := ⟨tblDataKey n type - 4, 17, 0⟩

/-- INDEX advanced by an access; it wraps. -/
def State.nextIndex (s : State) (n type : Nat) : State := s.put (tblIndexF n type) (s.get (tblIndexF n type) + 1)

/-- A table access: the stage whose TBL_DATA answers at an offset. -/
def State.tableAt (s : State) (addr : Nat) : Option (Nat × Nat) :=
  match s.keyOf addr with
  | some k => if k ≠ 0 ∧ k = tblDataKey (keyOut k) (keyType k) then some (keyOut k, keyType k) else none
  | none => none

/-- A table write at the pointer (R77, R78): discarded in the active bank, with the event, and past the last entry. A write that is both is
past the end: it raises nothing (DESIGN CHOICE, log 89). -/
def State.tableWrite (s : State) (n type v : Nat) : State :=
  let table := s.get (tblTableF n type)
  let bank := s.get (tblBankF n type)
  let idx := s.get (tblIndexF n type)
  if tableSize type table ≤ idx then s
  else if bank = s.activeBank n type then s.raise (evOut n 22)
  else s.setTbl n type table bank idx (v % 2 ^ tableBits type)

/-- What a read at the pointer returns (R78). -/
def State.tableRead (s : State) (n type : Nat) : Nat :=
  let table := s.get (tblTableF n type)
  let idx := s.get (tblIndexF n type)
  if tableSize type table ≤ idx then 0 else s.tbl n type table (s.get (tblBankF n type)) idx

/-- TABLE_DATA_WRITE (R77): a write of xxx_TBL_DATA. -/
def execTableDataWrite (w : Writer) (addr : BitVec 26) (data : Word) (s : State) : Result :=
  .next (s.writeBy w addr.toNat fun t =>
    match t.tableAt addr.toNat with
    | some (n, type) => (t.tableWrite n type data.toNat).nextIndex n type
    | none => t)

/-- TABLE_DATA_READ (R78): a read of xxx_TBL_DATA. -/
def execTableDataRead (w : Writer) (addr : BitVec 26) (s : State) : Result :=
  .next (s.readBy w addr.toNat fun t =>
    match t.tableAt addr.toNat with
    | some (n, type) => (BitVec.ofNat 32 (t.tableRead n type), t.nextIndex n type)
    | none => (0, t))

/-! Map checks (R108). -/

/-- Whether an offset is that of a register of a stage, and of which output. -/
def State.outAt (s : State) (addr : Nat) (key : Nat → Nat) : Option Nat :=
  match s.keyOf addr with
  | some k => if k = key (keyOut k) then some (keyOut k) else none
  | none => none

/-- A check in progress abandoned, VALID clear. -/
def State.dropCheck (s : State) (n : Nat) (field : Bool) : State :=
  s.puts [(mapValidF n field, 0), (mapBusyF n field, 0)]

/-- A map address shadow written (R12, R108). -/
def State.writeMapAddr (s : State) (n : Nat) (field : Bool) (data : Word) : State :=
  ((s.put (mapAddrF n field) (fieldOf (mapAddrF n field) data)).setWritten (mapAddrF n field).addr).dropCheck n field

/-- UNIF_ADDRESS_WRITE (R108): a write of a map address shadow; on an idle output it lands in the clock after (R163). -/
def execUnifAddressWrite (w : Writer) (addr : BitVec 26) (data : Word) (s : State) : Result :=
  .next (s.writeBy w addr.toNat fun t =>
    match t.outAt addr.toNat R.unifBaseAddr, t.outAt addr.toNat R.unifFieldAddr with
    | some n, _ => (t.writeMapAddr n false data).idleLand n
    | none, some n => (t.writeMapAddr n true data).idleLand n
    | none, none => t)

/-- A check started, one in progress abandoned; a container address never written has none to check (R12). VALID is clear while a check runs,
also when the shadow was valid before: R108 says it of an address write and of a restart (DESIGN CHOICE, log 90). -/
def State.startCheck (s : State) (n : Nat) (field : Bool) : State :=
  (s.dropCheck n field).put (mapBusyF n field) (s.isWritten (mapAddrF n field).addr).toNat

/-- UNIF_CHECK_BASE (R108): a write of UNIF_CHECK.BASE. -/
def execUnifCheckBase (w : Writer) (addr : BitVec 26) (s : State) : Result :=
  .next (s.writeBy w addr.toNat fun t =>
    match t.outAt addr.toNat R.unifCheck with
    | some n => t.startCheck n false
    | none => t)

/-- UNIF_CHECK_FIELD (R108): a write of UNIF_CHECK.FIELD. -/
def execUnifCheckField (w : Writer) (addr : BitVec 26) (s : State) : Result :=
  .next (s.writeBy w addr.toNat fun t =>
    match t.outAt addr.toNat R.unifCheck with
    | some n => t.startCheck n true
    | none => t)

/-- UNIF_CHECK_COMPLETE (R108): a check ends. -/
def execUnifCheckComplete (n : Fin 4) (field : Bool) (s : State) : Result :=
  if s.on (mapBusyF n field) then
    let cause := s.mapCause n field
    let h := s.mapHead (32 * s.get (mapAddrF n field))
    .next ((s.puts [(mapBusyF n field, 0), (mapCauseF n field, cause), (mapValidF n field, (decide (cause = 0)).toNat)]).setMapUse n
      field fun m => { m with checked := (h.width, h.height) })
  else .next s

/-! The base lock (R112, R113). -/

/-- BASE_LOCK (R112): a write of UNIF_BASE_LOCK.LOCK = 1. -/
def execBaseLock (w : Writer) (addr : BitVec 26) (s : State) : Result :=
  .next (s.writeBy w addr.toNat fun t =>
    match t.outAt addr.toNat R.unifBaseLock with
    | some n =>
      if t.get (F.unifBaseLockState n) = 0 ∧ t.on (F.unifBaseStatusValid n) ∧ t.hasLanded (R.unifBaseAddr n) ∧
        t.act (F.unifBaseAddrAddr n) = t.get (F.unifBaseAddrAddr n) then t.lockBase n else t
    | none => t)

/-- The digest that the calibration store holds for output n: none when the record is absent or the output's place is all
zeros. -/
def State.baseDigest (s : State) (n : Nat) : Option Nat :=
  match s.recordOf 2 with
  | some p => if bit s.digests n then some (ofBe ((p.drop (32 * n)).take 32)) else none
  | none => none

/-- BASE_MAP_HASH_DONE (R113): the Purser compares the SHA-256 of the locked container with the stored digest. -/
def execBaseMapHashDone (n : Fin 4) (s : State) : Result :=
  if s.get (F.unifBaseLockState n) = 1 then
    let a := 32 * s.act (F.unifBaseAddrAddr n)
    let hash := sha256 (s.holdBytes a (s.mapHead a).total)
    let st := match s.baseDigest n with
      | none => 3
      | some d => if d = hash then 2 else 4
    .next (((s.put (F.unifBaseLockState n) st).showApplied n false).raiseIf (st == 4) (evOut n 27))
  else .next s

/-! The wear ledger (R118 to R122). -/

/-- A stripe row sampled (R119): the increments of the drive added, the row written back, with its flush read to follow (R277), its owed flag cleared. -/
def State.sampleRow (s : State) (n row : Nat) (old : List Byte) : State :=
  let w := s.wearOf n
  let r := s.ledgerAdd n old ((s.outp n).pix.drive.getD row (zeroRow 0)) (w.owed.contains row)
  let t := (s.count (F.wearLedgerSatsCount n) r.2).setWear n fun w => { w with
    owed := w.owed.filter (· != row), ready := w.ready.filter (·.1 != row), rowsLeft := w.rowsLeft.filter (· != row),
    begun := w.begun.filter (· != row) }
  (t.stageRequest (s.wearCh n) (s.ledgerRow n row) r.1.length true fun u =>
    ((u.setWear n fun w => { w with writing := w.writing ++ [(row, false)] }).sendLtr 20000).hostWrites (s.chanFn (s.wearCh n)) (s.ledgerRow n row)
      r.1)

/-- A stripe row whose read has not completed skipped (R121). -/
def State.skipRow (s : State) (n row : Nat) : State :=
  let t := ((s.count (F.wearLedgerSkipsCount n) 1).dropReads n (fun r => r.row == row && !r.gen)).setWear n fun w => { w with
    rowsLeft := w.rowsLeft.filter (· != row), wanted := w.wanted.filter (· != row), begun := w.begun.filter (· != row) }
  (t.oweRow n row).raise (evOut n 29)

/-- A stripe row of a frame that WEAR's stalled route does not take (R118, R367): owed, as a row that the stage does not sample. -/
def State.stallRow (s : State) (n row : Nat) : State :=
  ((s.dropReads n (fun r => r.row == row && !r.gen)).setWear n fun w => { w with
    ready := w.ready.filter (·.1 != row), rowsLeft := w.rowsLeft.filter (· != row), wanted := w.wanted.filter (· != row),
    begun := w.begun.filter (· != row) }).oweRow n row

/-- WEAR_ROW_START (R119, R121): the first pixel of a row of the frame's stripe reaches WEAR; `met` says that the read of the row completes in that
clock (R19): the row is then sampled as its last bytes come. -/
def execWearRowStart (n : Fin 4) (row : Nat) (met : Bool) (s : State) : Result :=
  let w := s.wearOf n
  if !w.rowsLeft.contains row || decide ((s.outp n).pix.drive.length ≤ row) then .next s
  else if 6 ≤ (s.outp n).stall then .next ((s.stallRow n row).showLedger n)
  else match w.ready.find? (·.1 == row) with
    | some p => .next (((s.sampleRow n row p.2).ledgerRun 4096 n).showLedger n)
    | none =>
      if met && w.reading.any (fun r => r.row == row && !r.gen) then .next (s.setWear n fun w => { w with begun := keyInsert w.begun row })
      else .next ((s.skipRow n row).showLedger n)

/-! The panel temperature (R133). -/

/-- ODRV_PANEL_TEMP_WRITE (R133): a write of ODRV_PANEL_TEMP, accepted when TEMP_SRC selects the host (DESIGN CHOICE, log 110). -/
def execOdrvPanelTempWrite (w : Writer) (addr : BitVec 26) (data : BitVec 16) (s : State) : Result :=
  .next (s.writeBy w addr.toNat fun t =>
    match t.outAt addr.toNat R.odrvPanelTemp with
    | some n =>
      let u := t.put (F.odrvPanelTempTemp n) data.toNat
      if u.act (F.odrvCtrlTempSrc n) = 0 then u.acceptTemp n data.toNat else u
    | none => t)

/-- TEMPERATURE_TIMER_EXPIRY (R133): the temperature timer of output n expires; a temperature accepted in that very clock is in time
(R19). -/
def execTemperatureTimerExpiry (n : Fin 4) (met : Bool) (s : State) : Result :=
  if !met ∧ (s.cfg n).has 7 ∧ s.get (F.odrvTempTimeoutMs n) ≠ 0 ∧ !s.on (F.odrvTempUsedStale n) then
    .next ((s.put (F.odrvTempUsedStale n) 1).raise (evOut n 12))
  else .next s

end Sys2Proof.Machine
end

