-- ==== Sys2Proof/Machine/Dma.lean ====
section
/-!
DEFINITION. The DMA engine (12_dma.md): descriptors, checks, runs, completion, abort, halt, the rate limiter.
-/

namespace Sys2Proof.Machine

/-! Descriptors (R257, R258). -/

/-- Word k of a descriptor. -/
def DmaXfer.word (x : DmaXfer) (k : Nat) : Nat := leAt x.bytes (4 * k) 4
/-- Whether a flag bit of the first word is set. -/
def DmaXfer.flag (x : DmaXfer) (b : Nat) : Bool := bit (x.word 0) b
/-- PATTERN. -/
def DmaXfer.pattern (x : DmaXfer) : Nat := bits (x.word 0) 1 0
/-- SRC_SPACE: true for the Hold. -/
def DmaXfer.srcHold (x : DmaXfer) : Bool := x.flag 3
/-- DST_SPACE: true for the Hold. -/
def DmaXfer.dstHold (x : DmaXfer) : Bool := x.flag 4
/-- SRC_WRAP. -/
def DmaXfer.srcWrap (x : DmaXfer) : Nat := bits (x.word 0) 21 16
/-- DST_WRAP. -/
def DmaXfer.dstWrap (x : DmaXfer) : Nat := bits (x.word 0) 27 22
/-- LENGTH. -/
def DmaXfer.len (x : DmaXfer) : Nat := x.word 1
/-- LINES. -/
def DmaXfer.lines (x : DmaXfer) : Nat := bits (x.word 2) 15 0
/-- SRC. -/
def DmaXfer.src (x : DmaXfer) : Nat := x.word 4 + 2 ^ 32 * x.word 5
/-- DST. -/
def DmaXfer.dst (x : DmaXfer) : Nat := x.word 6 + 2 ^ 32 * x.word 7
/-- SRC_STRIDE. -/
def DmaXfer.srcStride (x : DmaXfer) : Nat := x.word 8
/-- DST_STRIDE. -/
def DmaXfer.dstStride (x : DmaXfer) : Nat := x.word 9
/-- The next descriptor: address and space. -/
def DmaXfer.nextPtr (x : DmaXfer) : Nat × Bool := (x.word 10 / 64 * 64 + 2 ^ 32 * x.word 11, x.flag 9)
/-- The bytes of the whole transfer. -/
def DmaXfer.total (x : DmaXfer) : Nat := if x.pattern = 1 then x.len * x.lines else x.len

/-- The address of byte k of the transfer on a side. -/
def DmaXfer.at (x : DmaXfer) (a wrap stride k : Nat) : Nat :=
  if x.pattern = 1 then a + stride * (k / max 1 x.len) + k % max 1 x.len
  else if wrap ≠ 0 then a - a % 2 ^ wrap + (a + k) % 2 ^ wrap
  else a + k

/-- The source address of byte k. -/
def DmaXfer.srcAt (x : DmaXfer) (k : Nat) : Nat := x.at x.src x.srcWrap x.srcStride k
/-- The destination address of byte k. -/
def DmaXfer.dstAt (x : DmaXfer) (k : Nat) : Nat := x.at x.dst x.dstWrap x.dstStride k

/-- The extent of a side, from its lowest byte to its highest (R263). -/
def DmaXfer.extent (x : DmaXfer) (a wrap stride : Nat) : Nat × Nat :=
  if x.pattern = 1 then (a, a + stride * (x.lines - 1) + x.len - 1)
  else if wrap ≠ 0 ∧ 2 ^ wrap < a % 2 ^ wrap + x.len then (a - a % 2 ^ wrap, a - a % 2 ^ wrap + 2 ^ wrap - 1)
  else if wrap ≠ 0 ∧ x.len = 2 ^ wrap then (a - a % 2 ^ wrap, a - a % 2 ^ wrap + 2 ^ wrap - 1)
  else (a, a + x.len - 1)

/-- The source's extent. -/
def DmaXfer.srcExtent (x : DmaXfer) : Nat × Nat := x.extent x.src x.srcWrap x.srcStride
/-- The destination's extent. -/
def DmaXfer.dstExtent (x : DmaXfer) : Nat × Nat := x.extent x.dst x.dstWrap x.dstStride

/-- Whether the extents overlap in one space (R263). -/
def DmaXfer.overlaps (x : DmaXfer) : Bool :=
  x.srcHold == x.dstHold && decide (x.srcExtent.1 ≤ x.dstExtent.2) && decide (x.dstExtent.1 ≤ x.srcExtent.2)

/-- Whether the run descends (R263). -/
def DmaXfer.descends (x : DmaXfer) : Bool :=
  x.pattern == 0 && x.srcWrap == 0 && x.dstWrap == 0 && x.overlaps && decide (x.src < x.dst)

/-- The transfer offset of the first byte of a request at run-order offset r of n bytes. -/
def DmaXfer.place (x : DmaXfer) (r n : Nat) : Nat := if x.descends then x.total - r - n else r

/-- Whether every address, length and stride is a multiple of 32 bytes (R262). -/
def DmaXfer.aligned (x : DmaXfer) : Bool :=
  x.src % 32 == 0 && x.dst % 32 == 0 && x.len % 32 == 0 &&
    (x.pattern != 1 || (x.srcStride % 32 == 0 && x.dstStride % 32 == 0))

/-- Whether a WRAP field is valid on its side (R257, R261). -/
def wrapValid (w : Nat) (hold : Bool) : Bool := w == 0 || (decide (12 ≤ w) && decide (w ≤ (if hold then 30 else 32)))

/-- Whether the fields of a descriptor are valid: check 2 of R261. -/
def DmaXfer.valid (x : DmaXfer) : Bool :=
  decide (x.pattern < 2) && bits (x.word 0) 31 28 == 0 && bits (x.word 0) 15 10 == 0 && !x.flag 2 &&
    bits (x.word 2) 31 16 == 0 && x.word 3 == 0 && decide (1 ≤ x.len) &&
    (if x.pattern = 1 then
      decide (x.len ≤ 0xFFFFF) && decide (1 ≤ x.lines) && decide (x.len ≤ x.srcStride) && decide (x.len ≤ x.dstStride) &&
        x.srcWrap == 0 && x.dstWrap == 0
    else x.lines == 0 && x.srcStride == 0 && x.dstStride == 0) &&
    wrapValid x.srcWrap x.srcHold && wrapValid x.dstWrap x.dstHold &&
    (!x.srcHold || decide (x.src < 0x40000000)) && (!x.dstHold || decide (x.dst < 0x40000000))

/-- The code of checks 2 to 5 of R261, 0 when they pass. -/
def DmaXfer.checkCode (x : DmaXfer) (service : Bool) : Nat :=
  let top := fun hold => if hold then 0x40000000 else 2 ^ 64
  if !x.valid then 0x302
  else if service && !x.aligned then 0x303
  else if top x.srcHold ≤ x.srcExtent.2 ∨ top x.dstHold ≤ x.dstExtent.2 then 0x304
  else if x.overlaps && (x.pattern == 1 || x.srcWrap != 0 || x.dstWrap != 0) then 0x305
  else 0

/-- The runs of consecutive bytes of a side: address and length; a wrapping side that does not fill its buffer has the bytes up to the
buffer's end and those from its start. -/
def DmaXfer.runs (x : DmaXfer) (a wrap stride : Nat) : List (Nat × Nat) :=
  if x.pattern = 1 then (List.range x.lines).map fun j => (a + stride * j, x.len)
  else if wrap ≠ 0 ∧ 2 ^ wrap ≤ x.len then [(a - a % 2 ^ wrap, 2 ^ wrap)]
  else if wrap ≠ 0 ∧ 2 ^ wrap < a % 2 ^ wrap + x.len then
    [(a, 2 ^ wrap - a % 2 ^ wrap), (a - a % 2 ^ wrap, a % 2 ^ wrap + x.len - 2 ^ wrap)]
  else [(a, x.len)]

/-- The violation of check 6 of R261: its code, the address, whether on a write; none when both sides pass. -/
def State.xferBarred (s : State) (ch : Nat) (x : DmaXfer) : Option (Nat × Nat × Bool) :=
  let side := fun (a wrap stride : Nat) (hold write : Bool) =>
    if hold then
      ((x.runs a wrap stride).findSome? fun r => s.firstBarred (0x10 + ch) r.1 r.2 write).map fun b => (0x205, b, write)
    else
      let e := x.extent a wrap stride
      ((if x.pattern = 1 then [(e.1, e.2 + 1 - e.1)] else x.runs a wrap stride).findSome? fun r => s.outsideWindow ch r.1 r.2).map
        fun b => (0x204, b, write)
  (side x.src x.srcWrap x.srcStride x.srcHold false).orElse fun _ => side x.dst x.dstWrap x.dstStride x.dstHold true

/-! Registers of the descriptor in progress. -/

/-- The descriptor pointer shown in DMAn_CUR. -/
def State.curPtr (s : State) (ch : Nat) : Nat × Bool :=
  (64 * s.get (F.dmaCurLoAddr ch) + 2 ^ 32 * s.get (F.dmaCurHiAddr ch), s.on (F.dmaCurLoSpace ch))

/-- DMAn_CUR set. -/
def State.setCur (s : State) (ch : Nat) (p : Nat × Bool) : State :=
  s.puts [(F.dmaCurLoAddr ch, p.1 / 64), (F.dmaCurHiAddr ch, p.1 / 2 ^ 32), (F.dmaCurLoSpace ch, p.2.toNat)]

/-- The transfer under way changed. -/
def State.setXfer (s : State) (ch : Nat) (f : DmaXfer → DmaXfer) : State :=
  s.setChan ch fun c => { c with xfer := c.xfer.map f }

/-- DMAn_RESIDUE as the transfer stands (R272), saturated at its 32 bits (R5). -/
def State.showResidue (s : State) (ch : Nat) : State :=
  match (s.chan ch).xfer with
  | none => s
  | some x => s.put (F.dmaResidueBytes ch) (min 0xFFFFFFFF (x.total - x.moved))

/-- A channel's fetch given up: one in flight comes back for nothing. -/
def DmaState.dropFetch (c : DmaState) : DmaState :=
  { c with
      fetch := none
      fetching := false
      lost := match c.fetch with
        | some p => if c.fetching then c.lost ++ [p.2] else c.lost
        | none => c.lost }

/-- A channel become IDLE; a stage's hold of it begins (R277). -/
def State.chanIdle (s : State) (ch : Nat) : State :=
  ((s.puts [(F.dmaStatusState ch, 0), (F.dmaStatusDescending ch, 0), (F.dmaStatusFunnel ch, 0)]).setChan ch fun c =>
    { c.dropFetch with got := none, xfer := none, stopAfter := false }).holdChannel ch

/-- A chain stopped with a code and DMA_ERROR. -/
def State.chanStop (s : State) (ch code : Nat) : State := ((s.put (F.dmaStatusLastCode ch) code).chanIdle ch).raise (160 + ch)

/-! The end of a descriptor (R268, R273). -/

/-- A descriptor whose status has been written ends: counts, events, then the next one, or the end of the chain. -/
def State.xferEnd (s : State) (ch : Nat) (x : DmaXfer) : State :=
  let s1 := s.puts [(F.dmaLastUserUser ch, x.word 15), (F.dmaStatusLastCode ch, x.code)]
  if x.code ≠ 0 then (s1.chanIdle ch).raise (160 + ch)
  else
    let s2 := (s1.count (F.dmaDoneCountCount ch) 1).raiseIf (x.flag 6) (96 + ch)
    if (s.chan ch).stopAfter then
      let t := s2.setChan ch fun c => { c with xfer := none, got := none, fetch := if c.fetching then c.fetch else none }
      if (s.chan ch).fetching then t.put (F.dmaStatusLastCode ch) 0x301 else t.chanStop ch 0x301
    else if x.flag 8 then s2.chanIdle ch
    else
      ((s2.puts [(F.dmaStatusDescending ch, 0), (F.dmaStatusFunnel ch, 0)]).setCur ch x.nextPtr).setChan ch fun c =>
        { c with xfer := none, fetch := if c.got.isSome then none else some (c.fetch.getD x.nextPtr) }

/-- Bytes 0x30 to 0x3B of a descriptor at its end (R257). -/
def State.statusBytes (s : State) (ch : Nat) (x : DmaXfer) : List Byte :=
  leBytes 4 (2 ^ 31 + x.code * 2 ^ 16) ++ leBytes 4 (s.get (F.dmaResidueBytes ch)) ++
    leBytes 4 (if x.code = 0 && x.flag 5 then crc32c x.crc else 0)

/-- Whether the gate holds a run of bytes of a channel (R242, R244, R248, R253). -/
def State.dmaHeld (s : State) (ch a n : Nat) : Bool := s.runHeld (0x10 + ch) a n

/-- The status of the descriptor under way written: to the host at once, to the Hold when its response arrives, which the gate may make wait. -/
def State.writeStatus (s : State) (ch : Nat) (x : DmaXfer) : State :=
  let p := s.curPtr ch
  let a := p.1 + 0x30
  if p.2 then
    if s.dmaHeld ch a 12 then s.setXfer ch fun y => { y with phase := 3, code := x.code }
    else match s.firstBarred (0x10 + ch) a 12 true with
      | some b => (s.violate (0x10 + ch) (s.barCode (0x10 + ch) b true) b true).setXfer ch fun y => { y with phase := 0 }
      | none => s.setXfer ch fun y => { y with phase := 2, code := x.code }
  else s.chanRequest ch a 12 true true fun t =>
    (t.toHost (.hostWrite (t.chanFn ch) a (t.statusBytes ch x))).xferEnd ch x

/-! Taking a descriptor up (R261). -/

/-- The checks of the descriptor under way run, and its transfer begun when they pass. -/
def State.startXfer (s : State) (ch : Nat) : State :=
  match (s.chan ch).xfer with
  | none => s
  | some x =>
    let service := s.get F.glbStateState == 1
    let s1 := (s.setXfer ch fun y => { y with service := service }).showResidue ch
    let c := x.checkCode service
    if c ≠ 0 then s1.writeStatus ch { x with code := c }
    else match s1.xferBarred ch x with
      | some v => s1.violate (0x10 + ch) v.1 v.2.1 v.2.2
      | none => (s1.setXfer ch fun y => { y with started := true }).puts [(F.dmaStatusDescending ch, x.descends.toNat),
          (F.dmaStatusFunnel ch, (!service && !x.aligned).toNat)]

/-- A descriptor as it is taken up. -/
def DmaXfer.fresh (b : List Byte) : DmaXfer := ⟨b, false, false, 0, 0, [], [], 0, 0, 0, 0, 0, 0⟩

/-- The descriptor fetched taken up: a fetch that failed halts the channel now (R260). -/
def State.takeUp (s : State) (ch : Nat) : State :=
  match (s.chan ch).got with
  | none => s
  | some (p, code, b) =>
    let s1 := (s.setCur ch p).setChan ch fun c => { c with got := none }
    if code ≠ 0 then s1.chanHalt ch code p.1 false p.2 true
    else (s1.setChan ch fun c => { c with xfer := some (DmaXfer.fresh b) }).startXfer ch

/-! Requests (R264 to R270). -/

/-- The bytes of the next source read at run-order offset `next`: it crosses no 4 KiB boundary of either side, nor the end of a
line; in a 2D run to the Hold a line's final word is a request of its own (R270). -/
def State.readLen (s : State) (ch : Nat) (x : DmaXfer) : Nat :=
  let lim := min 4096 (if x.srcHold then 4096 else max 1 (s.fnCfg (s.chanFn ch)).maxReadReq)
  if x.descends then
    let k := x.total - x.next
    min (min lim k) (min ((x.src + k - 1) % 4096 + 1) ((x.dst + k - 1) % 4096 + 1))
  else
    let a := x.srcAt x.next
    let d := x.dstAt x.next
    let rest := if x.pattern = 1 then x.len - x.next % x.len else x.len - x.next
    let n := min (min lim rest) (min (4096 - a % 4096) (4096 - d % 4096))
    let word := (d + rest - 1) / 32 * 32
    if x.pattern = 1 ∧ x.dstHold ∧ d < word then min n (word - d) else n

/-- A chunk of the transfer changed. -/
def State.setChunk (s : State) (ch i : Nat) (f : DmaChunk → DmaChunk) : State :=
  s.setXfer ch fun x => { x with chunks := updAt x.chunks i f }

/-- The prefix of the transfer that has been written moved out of its chunks (R272), its data kept for the CRC (R271). -/
def State.advance (s : State) (ch : Nat) : State :=
  (s.setXfer ch fun x =>
    let l := x.chunks.takeWhile (·.phase == 3)
    let d := (l.map (·.data))
    { x with
        moved := x.moved + (l.map (·.len)).sum
        chunks := x.chunks.drop l.length
        crc := if !x.flag 5 then [] else if x.descends then d.reverse.flatten ++ x.crc else x.crc ++ d.flatten }).showResidue ch

/-- The write of chunk i issued. -/
def State.writeChunk (s : State) (ch : Nat) (x : DmaXfer) (i : Nat) (c : DmaChunk) : State :=
  let a := x.dstAt (x.place c.off c.len)
  if x.dstHold then
    match s.firstBarred (0x10 + ch) a c.len true with
    | some b => (s.violate (0x10 + ch) (s.barCode (0x10 + ch) b true) b true).setChunk ch i fun c => { c with phase := 4 }
    | none => s.setChunk ch i fun c => { c with phase := 2 }
  else
    (s.setChunk ch i fun c => { c with phase := 4 }).chanRequest ch a c.len true false fun t =>
      let t1 := t.hostWrites (t.chanFn ch) a c.data
      ((t1.setChunk ch i fun c => { c with phase := 3 }).setXfer ch fun y =>
        { y with wrote := max y.wrote (c.off + c.len) }).advance ch

/-- Whether a chunk of a 2D run reaches the final 32-byte word of its line at the destination (R270). -/
def DmaXfer.lineEnd (x : DmaXfer) (c : DmaChunk) : Bool :=
  let last := x.dstAt (c.off / max 1 x.len * x.len) + x.len - 1
  decide (last / 32 * 32 < x.dstAt c.off + c.len)

/-- Whether the write of a chunk may be issued: in a descending run after every read issued (R264); in an ascending run over overlapping extents after
every earlier write, so that it lands on no source byte still to be read, also when answers come out of order (R263); in a 2D run to the Hold in
order, a line's final word after every other write of the line has been answered (R270). -/
def DmaXfer.mayWrite (x : DmaXfer) (i : Nat) (c : DmaChunk) : Bool :=
  let before := x.chunks.take i
  c.phase == 1 &&
    (if x.descends then x.chunks.all (·.phase != 0)
    else if x.overlaps then before.all (fun b => b.phase == 2 || b.phase == 3)
    else if x.pattern = 1 ∧ x.dstHold then
      before.all (fun b => b.phase == 2 || b.phase == 3) &&
        (!x.lineEnd c || before.all (fun b => b.phase == 3 || b.off / x.len != c.off / x.len || x.lineEnd b))
    else true)

/-- The chunk whose write comes next, whether or not the gate of the Hold holds it. -/
def DmaXfer.nextWrite (x : DmaXfer) : Option (Nat × DmaChunk) :=
  (List.range x.chunks.length).findSome? fun i =>
    match x.chunks[i]? with
    | some c => if x.mayWrite i c then some (i, c) else none
    | none => none

/-- A write issued, if one may be. -/
def State.tryWrite (s : State) (ch : Nat) (x : DmaXfer) : Option State :=
  match x.nextWrite with
  | none => none
  | some p =>
    if x.dstHold && s.dmaHeld ch (x.dstAt (x.place p.2.off p.2.len)) p.2.len then none else some (s.writeChunk ch x p.1 p.2)

/-- The status that waited at the gate of the Hold issued, once the gate lets it pass. -/
def State.tryStatus (s : State) (ch : Nat) (x : DmaXfer) : Option State :=
  if x.phase == 3 && !s.dmaHeld ch ((s.curPtr ch).1 + 0x30) 12 then some (s.writeStatus ch x) else none

/-- The half point of a transfer to the Hold, reached when its first half in run order has been answered, also once the channel has
halted (R269). -/
def State.tryHalfHold (s : State) (ch : Nat) (x : DmaXfer) : Option State :=
  if x.flag 7 && x.half == 0 && x.started && x.dstHold && decide ((x.total + 1) / 2 ≤ x.moved) then
    some ((s.setXfer ch fun y => { y with half := 2 }).raise (128 + ch))
  else none

/-- The DWORD that holds the last byte written to the host, in run order (R268). -/
def DmaXfer.flushAt (x : DmaXfer) : Nat :=
  (x.dstAt (if x.descends then x.total - x.wrote else x.wrote - 1)) / 4 * 4

/-- The flush read of the half point issued, when the first half in run order has been written to the host (R269). -/
def State.tryHalf (s : State) (ch : Nat) (x : DmaXfer) : Option State :=
  if x.flag 7 && x.half == 0 && x.started && !x.dstHold && decide ((x.total + 1) / 2 ≤ x.moved) && s.npFree ch then
    some (s.chanRequest ch x.flushAt 4 false true fun t =>
      (t.npIssue ch x.flushAt 4).setXfer ch fun y => { y with half := 1, halfFlush := x.flushAt })
  else none

/-- The end of the transfer begun when every write has been issued and answered: the flush read, or the status (R268). -/
def State.tryEnd (s : State) (ch : Nat) (x : DmaXfer) : Option State :=
  let stopped := s.get (F.dmaStatusState ch) == 2 && !(s.chan ch).stopAfter
  if x.started && x.phase == 0 && x.chunks.isEmpty && x.moved == (if stopped then x.next else x.total) then
    (if x.dstHold || x.wrote == 0 then some (s.writeStatus ch { x with code := if stopped then 0x301 else 0 })
    else if s.npFree ch then some (s.chanRequest ch x.flushAt 4 false true fun t =>
        (t.npIssue ch x.flushAt 4).setXfer ch fun y =>
          { y with phase := 1, flush := x.flushAt, code := if stopped then 0x301 else 0 })
    else none)
  else none

/-- A source read issued, if one may be: to the host under the caps, from the Hold at its gate, its bytes charged to the
bucket (R266, R267). -/
def State.tryRead (s : State) (ch : Nat) (x : DmaXfer) : Option State :=
  let n := s.readLen ch x
  let a := x.srcAt (x.place x.next n)
  if s.get (F.dmaStatusState ch) != 1 || !x.started || x.phase != 0 || decide (x.total ≤ x.next) ||
      decide (s.npCap ch ≤ (x.chunks.filter (·.phase == 0)).length) || (x.descends && x.chunks.any (·.phase != 0)) ||
      !s.hasTokens ch n then none
  else
    let issue := fun (t : State) => (t.charge ch n).setXfer ch fun y =>
        { y with next := y.next + n, chunks := y.chunks ++ [⟨x.next, n, 0, []⟩] }
    if x.srcHold then
      (if s.dmaHeld ch a n then none
      else match s.firstBarred (0x10 + ch) a n false with
        | some b => some (s.violate (0x10 + ch) (s.barCode (0x10 + ch) b false) b false)
        | none => some (issue s))
    else if s.npFree ch then some (s.chanRequest ch a n false false fun t => issue (t.npIssue ch a n))
    else none

/-- The fetch of a descriptor issued, if one may be (R260, R261): an early one whose function may not issue it keeps the error
for later. -/
def State.tryFetch (s : State) (ch : Nat) : Option State :=
  match (s.chan ch).fetch with
  | none => none
  | some (a, hold) =>
    if (s.chan ch).fetching || s.get (F.dmaStatusState ch) != 1 then none
    else if hold then
      (if s.dmaHeld ch a 64 then none
      else match s.firstBarred (0x10 + ch) a 64 false with
        | some b => some (s.violate (0x10 + ch) (s.barCode (0x10 + ch) b false) b false)
        | none => some (s.setChan ch fun c => { c with fetching := true }))
    else if !s.npFree ch then none
    else if (s.chan ch).xfer.isSome && (s.outsideWindow ch a 64).isNone && !s.chanMay ch then
      some (s.setChan ch fun c => { c with fetch := none, got := some ((a, false), 0x311, []) })
    else some (s.chanRequest ch a 64 false true fun t => (t.npIssue ch a 64).setChan ch fun c => { c with fetching := true })

/-- The next descriptor wanted, once every data request of this one, the reads of its source, has been issued (R260). -/
def State.tryNext (s : State) (ch : Nat) (x : DmaXfer) : Option State :=
  let c := s.chan ch
  if s.get (F.dmaStatusState ch) == 1 && x.started && x.next == x.total && !x.flag 8 && !c.stopAfter && c.fetch.isNone &&
      c.got.isNone then
    some (s.setChan ch fun c => { c with fetch := some x.nextPtr })
  else none

/-- The next ledger request of a stage that holds a channel (R277). -/
def State.stageStep (s : State) (ch : Nat) : Option State :=
  (List.range 4).findSome? fun n => if s.wearCh n = ch then s.ledgerNext n else none

/-- One request or step of a channel, if one may be made. A channel that has halted or is frozen issues nothing but the writes of
the data its reads brought (R274, R276). -/
def State.dmaStep (s : State) (ch : Nat) : Option State :=
  let st := s.get (F.dmaStatusState ch)
  let run := (st == 1 || st == 2) && !s.frozen (0x10 + ch)
  match (s.chan ch).xfer with
  | some x =>
    (s.tryWrite ch x).orElse fun _ => (s.tryHalfHold ch x).orElse fun _ =>
      if run then
        (s.tryStatus ch x).orElse fun _ => (s.tryHalf ch x).orElse fun _ => (s.tryEnd ch x).orElse fun _ => (s.tryRead ch x).orElse fun _ =>
          (s.tryNext ch x).orElse fun _ => s.tryFetch ch
      else none
  | none =>
    if !run then s.stageStep ch
    else if st == 1 && (s.chan ch).got.isSome then some (s.takeUp ch)
    else s.tryFetch ch

/-- The channels issue whatever they may, a step at a time, in round-robin order of channel number, which moves on with each non-posted
request (R266). -/
def State.dmaRun : Nat → State → State
  | 0, s => s
  | n + 1, s =>
    match (List.range 32).findSome? (fun i =>
      let ch := (s.dmaTurn + 1 + i) % 32
      (s.dmaStep ch).map fun t =>
        if s.get F.dmaNpTotalCount < t.get F.dmaNpTotalCount then { t with dmaTurn := ch } else t) with
    | some t => t.dmaRun n
    | none => s

/-- The channels run on after a change of the state `before`. -/
def State.dmaGo (s before : State) : State := (s.dmaRun 1000000).idleLtr before.anyChanBusy

/-! Commands of the driver. -/

/-- A command refused (R278). -/
def State.dmaRefuse (s : State) (ch code : Nat) : State := s.put (F.dmaStatusLastCode ch) code

/-- The host reads in flight of a transfer. -/
def DmaXfer.readsOut (x : DmaXfer) : Nat :=
  (if x.srcHold then 0 else (x.chunks.filter (·.phase == 0)).length) + (x.half == 1).toNat + (x.phase == 1).toNat

/-- The requests of a transfer beyond its prefix given up: Hold writes in flight are performed, host reads come back later
for nothing. -/
def State.dropChunks (s : State) (ch : Nat) (x : DmaXfer) : State :=
  let t := (x.chunks.filter (·.phase == 2)).foldl (fun u c =>
    let a := x.dstAt (x.place c.off c.len)
    if (u.firstBarred (0x10 + ch) a c.len true).isNone then u.storeRun a c.data else u) s
  (t.setChan ch fun c => { c with orphans := c.orphans + x.readsOut }).setXfer ch fun y =>
    { y with chunks := [], next := y.moved, half := if y.half = 1 then 0 else y.half, phase := 0 }

/-- A running channel told to abort (R273). -/
def State.abortRun (s : State) (ch : Nat) : State :=
  let t := s.put (F.dmaStatusState ch) 2
  match (s.chan ch).xfer with
  | some x =>
    if x.started && x.next == x.total then t.setChan ch fun c =>
      { c with stopAfter := true, got := none, fetch := if c.fetching then c.fetch else none }
    else t
  | none =>
    if (s.chan ch).fetching then t.put (F.dmaStatusLastCode ch) 0x301 else t.chanStop ch 0x301

/-- A halted channel told to abort (R275): the descriptor's status with the halt code and the residue when the fault was not on the
descriptor. -/
def State.abortHalt (s : State) (ch : Nat) : State :=
  let code := (s.chan ch).halt
  match (s.chan ch).xfer with
  | some x =>
    if s.on (F.dmaFaultDirDesc ch) then ((s.dropChunks ch x).chanStop ch code)
    else ((s.put (F.dmaStatusState ch) 2).dropChunks ch x).writeStatus ch { x with code := code }
  | none => s.chanStop ch code

/-- A halted channel resumed (R275, R276): a held one goes back to its stage, one whose fault was on the descriptor fetches it
again, one whose checks did not pass runs them again, any other restarts at the residue. -/
def State.resumeHalt (s : State) (ch : Nat) : State :=
  if s.on (F.dmaStatusHeld ch) then s.put (F.dmaStatusState ch) 0
  else
    let t := (s.put (F.dmaStatusState ch) 1).sendLtr 20000
    let again := fun (u : State) => u.setChan ch fun c =>
      { c.dropFetch with xfer := none, got := none, fetch := some (s.curPtr ch) }
    match (s.chan ch).xfer with
    | some x =>
      if s.on (F.dmaFaultDirDesc ch) then again (t.dropChunks ch x)
      else if !x.started then t.startXfer ch
      else t.dropChunks ch x
    | none => if (s.chan ch).fetching then t else again t

/-- START (R259): the chain begins at DMAn_DESC, or is refused. -/
def State.dmaStart (s : State) (ch : Nat) : State :=
  if s.on (F.dmaStatusHeld ch) then s.dmaRefuse ch 0x321
  else if s.get (F.dmaStatusState ch) ≠ 0 then s.dmaRefuse ch 0x320
  else if !s.isWritten (R.dmaDescLo ch) || !s.isWritten (R.dmaDescHi ch) then s.dmaRefuse ch 0x302
  else
    let p := (64 * s.get (F.dmaDescLoAddr ch) + 2 ^ 32 * s.get (F.dmaDescHiAddr ch), s.on (F.dmaDescLoSpace ch))
    ((((s.put (F.dmaStatusState ch) 1).setCur ch p).setChan ch fun c => { c with fetch := some p }).sendLtr 20000).dmaGo s

/-- ABORT (R273, R275): it acts on a RUNNING or HALTED channel. -/
def State.dmaAbort (s : State) (ch : Nat) : State :=
  let st := s.get (F.dmaStatusState ch)
  if st = 3 then (s.abortHalt ch).dmaGo s else if st = 1 then (s.abortRun ch).dmaGo s else s

/-- RESUME (R275): it acts on a HALTED channel, unless its run descends. -/
def State.dmaResume (s : State) (ch : Nat) : State :=
  if s.get (F.dmaStatusState ch) ≠ 3 || (match (s.chan ch).xfer with | some x => x.started && x.descends | none => false)
    then s.dmaRefuse ch 0x322
  else (s.resumeHalt ch).dmaGo s

/-- A write of DMAn_CTRL (R259, R276): of the bits set, ABORT acts, else RESUME, else START; none while the channel is frozen. -/
def State.dmaCtrl (s : State) (w : Writer) (ch : Nat) (data : Word) : State :=
  s.writeBy w (R.dmaCtrl ch) fun t =>
    if data.toNat % 8 = 0 then t
    else if t.frozen (0x10 + ch) then t.dmaRefuse ch 0x323
    else if data.getLsbD 1 then t.dmaAbort ch
    else if data.getLsbD 2 then t.dmaResume ch
    else t.dmaStart ch

/-- DMA_START (R259): a write of DMAn_CTRL with START set. -/
def execDmaStart (w : Writer) (ch : Fin 32) (data : Word) (s : State) : Result := .next (s.dmaCtrl w ch (data ||| 1))

/-- DMA_ABORT (R273, R275): a write of DMAn_CTRL with ABORT set. -/
def execDmaAbort (w : Writer) (ch : Fin 32) (data : Word) (s : State) : Result := .next (s.dmaCtrl w ch (data ||| 2))

/-- DMA_RESUME (R275): a write of DMAn_CTRL with RESUME set. -/
def execDmaResume (w : Writer) (ch : Fin 32) (data : Word) (s : State) : Result := .next (s.dmaCtrl w ch (data ||| 4))

/-- A channel thawed (R276): HALTED with 0x323. -/
def State.dmaThaw (s : State) (ch : Nat) : State :=
  (s.puts [(F.dmaStatusState ch, 3), (F.dmaStatusLastCode ch, 0x323)]).setChan ch fun c => { c with halt := 0x323 }

/-! Answers from the bus. -/

/-- The descriptor's fetch ended with a code (R260, R261, R273): taken up, kept for later, or discarded by an abort. -/
def State.fetchEnd (s : State) (ch : Nat) (p : Nat × Bool) (code : Nat) (b : List Byte) : State :=
  let s1 := s.setChan ch fun c => { c with fetch := none, fetching := false }
  let st := s.get (F.dmaStatusState ch)
  if (s.chan ch).xfer.isNone && st == 2 then s1.chanStop ch 0x301
  else if (s.chan ch).xfer.isSome && (s.chan ch).stopAfter then s1
  else if (s.chan ch).xfer.isNone && code ≠ 0 then s1.chanHalt ch code p.1 false p.2 true
  else s1.setChan ch fun c => { c with got := some (p, code, b) }

/-- A command of a channel whose accesses to the Hold meet what `port` says (R234 to R238, R265). -/
def State.metPort (s : State) (ch : Nat) (port : HoldPort) (k : State → State) : State := s.throughPort (· == 0x10 + ch) port k

/-- DESCRIPTOR_FETCHED (R261): a descriptor arrives; from the Hold its bytes are what the Hold gives, read again on BUSY. The answer to a fetch
since given up is discarded. -/
def execDescriptorFetched (ch : Fin 32) (reply : BusReply) (data : List Byte) (port : HoldPort) (s : State) : Result :=
  match (s.chan ch).lost with
  | hold :: rest =>
    let gone := fun (t : State) => t.setChan ch fun c => { c with lost := rest }
    .next ((gone (if hold then s else (s.aerReply (s.chanFn ch) reply).npEnd ch)).dmaGo s)
  | [] => match (s.chan ch).fetch, (s.chan ch).fetching with
    | some (a, hold), true =>
      if hold then
        .next ((s.metPort ch port fun t =>
          let r := t.readWhole (0x10 + ch) a 64
          match r.1 with
          | .error w => r.2.fetchEnd ch (w, hold) 0x314 []
          | .ok b => r.2.fetchEnd ch (a, hold) 0 b).dmaGo s)
      else
        let c := replyCode false reply
        let code := if c = 0 ∧ data.length ≠ 64 then 0x310 else c
        .next ((((s.aerReply (s.chanFn ch) reply).npEnd ch).fetchEnd ch (a, hold) code data).dmaGo s)
    | _, _ => .next s

/-- The chunks of a transfer that are in a phase. -/
def DmaXfer.inPhase (x : DmaXfer) (p : Nat) : List Nat :=
  (List.range x.chunks.length).filter fun i => match x.chunks[i]? with
    | some c => c.phase == p
    | none => false

/-- The read of chunk i answered with a code, its data, or the address that failed. -/
def State.readEnd (s : State) (ch i : Nat) (x : DmaXfer) (addr code : Nat) (data : List Byte) : State :=
  if code ≠ 0 then
    (s.setChunk ch i fun k => { k with phase := 4 }).chanHalt ch code addr false x.srcHold false
  else s.setChunk ch i fun k => { k with phase := 1, data := data }

/-- DMA_READ_COMPLETION (R265, R274): read i of those in flight is answered, in the order of issue; its data is written on as soon as
it may be. A read of the Hold that meets BUSY has been made again. The answer to a read of a transfer since restarted is discarded. -/
def execDmaReadCompletion (ch : Fin 32) (i : Nat) (reply : BusReply) (data : List Byte) (port : HoldPort) (s : State) : Result :=
  let o := (s.chan ch).orphans
  if i < o then .next ((((s.aerReply (s.chanFn ch) reply).npEnd ch).setChan ch fun c => { c with orphans := c.orphans - 1 }).dmaGo s)
  else match (s.chan ch).xfer with
    | none => .next s
    | some x =>
      match (x.inPhase 0)[i - o]? with
      | none => .next s
      | some j =>
        match x.chunks[j]? with
        | none => .next s
        | some c =>
          let a := x.srcAt (x.place c.off c.len)
          if x.srcHold then
            .next ((s.metPort ch port fun t =>
              let r := t.readWhole (0x10 + ch) a c.len
              match r.1 with
              | .error w => r.2.readEnd ch j x (max a w) 0x314 []
              | .ok b => r.2.readEnd ch j x a 0 b).dmaGo s)
          else
            let r := replyCode false reply
            let code := if r = 0 ∧ data.length ≠ c.len then 0x310 else r
            .next ((((s.aerReply (s.chanFn ch) reply).npEnd ch).readEnd ch j x a code data).dmaGo s)

/-- DMA_HOLD_RESPONSE (R265, R268, R274): write i of those in flight to the Hold is answered, or the descriptor's status; a response that
carries BUSY says that the write was the later of two, which stands (R236). -/
def execDmaHoldResponse (ch : Fin 32) (i : Nat) (port : HoldPort) (s : State) : Result :=
  match (s.chan ch).xfer with
  | none => .next s
  | some x =>
    if x.phase = 2 then
      let a := (s.curPtr ch).1 + 0x30
      .next ((s.metPort ch port fun t =>
        if (t.firstBarred (0x10 + ch.val) a 12 true).isSome then
          (t.setXfer ch fun y => { y with phase := 0 }).chanHalt ch 0x314 a true true true
        else (t.writeRun (0x10 + ch) a (t.statusBytes ch x)).xferEnd ch x).dmaGo s)
    else match (x.inPhase 2)[i]? with
      | none => .next s
      | some j =>
        match x.chunks[j]? with
        | none => .next s
        | some c =>
          let a := x.dstAt (x.place c.off c.len)
          .next ((s.metPort ch port fun t =>
            if (t.firstBarred (0x10 + ch.val) a c.len true).isSome then
              (t.setChunk ch j fun k => { k with phase := 4 }).chanHalt ch 0x314 a true true false
            else ((t.writeRun (0x10 + ch) a c.data).setChunk ch j fun k => { k with phase := 3 }).advance ch).dmaGo s)

/-- The flush read of the half point or of the end answered with a code. -/
def State.flushEnd (s : State) (ch : Nat) (x : DmaXfer) (code : Nat) : State :=
  let halfOne := x.half == 1
  let t := s.npEnd ch
  if code ≠ 0 then
    (t.setXfer ch fun y => if halfOne then { y with half := 0 } else { y with phase := 0 }).chanHalt ch code
      (if halfOne then x.halfFlush else x.flush) false false true
  else if halfOne then (t.setXfer ch fun y => { y with half := 2 }).raise (128 + ch)
  else if s.chanStopped ch then t.setXfer ch fun y => { y with phase := 0 }
  else (t.setXfer ch fun y => { y with phase := 0 }).writeStatus ch x

/-- FLUSH_READ_COMPLETE (R268, R269): a flush read is answered: the half point's first, else that of the end. -/
def execFlushReadComplete (ch : Fin 32) (reply : BusReply) (s : State) : Result :=
  match (s.chan ch).xfer with
  | none => .next s
  | some x =>
    if x.half = 1 ∨ x.phase = 1 then .next (((s.aerReply (s.chanFn ch) reply).flushEnd ch x (replyCode false reply)).dmaGo s) else .next s

/-- The ledger transfers in flight through a channel: output, row, and its read (of the generator or not), or none for its flush read. -/
def State.ledgerOut (s : State) (ch : Nat) : List (Nat × Nat × Option Bool) :=
  ((List.range 4).map fun n =>
    if s.wearCh n = ch then ((s.wearOf n).reading.filter (·.out != 0)).map (fun r => (n, r.row, some r.gen)) ++
      ((s.wearOf n).writing.filter (·.2)).map (fun p => (n, p.1, none))
    else []).flatten

/-- A ledger transfer in flight that times out: the oldest request of a row's read, or a row's flush read. -/
def State.ledgerTimeout (s : State) (n y : Nat) (read : Option Bool) : State :=
  let ch := s.wearCh n
  let t := s.npEnd ch
  match read with
  | none => (t.setWear n fun w => { w with writing := w.writing.erase (y, true) }).ledgerError n
      ((s.ledgerRow n y + s.ledgerBytes n - 1) / 4 * 4) 0x312 true
  | some gen =>
    let mine := fun (q : LedgerRead) => q.row == y && q.gen == gen
    let a := s.ledgerRow n y + (((s.wearOf n).reading.find? mine).map (·.got.length)).getD 0
    ((t.setWear n fun w => { w with reading := w.reading.map fun q => if mine q then { q with out := q.out - 1 } else q }).dropReads n
      mine).ledgerError n a 0x312 false

/-- COMPLETION_TIMEOUT (R19, R274): host read i in flight of a channel times out: the fetches given up, its fetch, the reads given
up, the data reads in order, the flush read, the ledger rows of a stage that holds it; not when its completion is recognised in this clock. The timeout is logged as an error of the
channel's function (R373). -/
def execCompletionTimeout (ch : Fin 32) (i : Nat) (met : Bool) (s : State) : Result :=
  if met then .next s else
  let c := s.chan ch
  let gone := c.lost.countP (!·)
  let f := gone + match c.fetch with
    | some p => if c.fetching && !p.2 then 1 else 0
    | none => 0
  let reads := match c.xfer with
    | some x => if x.srcHold then [] else x.inPhase 0
    | none => []
  let flushes := match c.xfer with
    | some x => (x.half == 1).toNat + (x.phase == 1).toNat
    | none => 0
  if i < gone then .next ((((s.timedOut ch).npEnd ch).setChan ch fun k => { k with lost := k.lost.erase false }).dmaGo s)
  else if i < f then .next ((((s.timedOut ch).npEnd ch).fetchEnd ch (c.fetch.getD (0, false)) 0x312 []).dmaGo s)
  else if i < f + c.orphans then .next ((((s.timedOut ch).npEnd ch).setChan ch fun k => { k with orphans := k.orphans - 1 }).dmaGo s)
  else match c.xfer, reads[i - f - c.orphans]? with
    | some x, some j =>
      match x.chunks[j]? with
      | some k => .next ((((s.timedOut ch).npEnd ch).readEnd ch j x (x.srcAt (x.place k.off k.len)) 0x312 []).dmaGo s)
      | none => .next s
    | x, _ =>
      let rest := i - f - c.orphans - reads.length
      match x with
      | some x => if rest < flushes then .next (((s.timedOut ch).flushEnd ch x 0x312).dmaGo s) else .next s
      | none =>
        match (s.ledgerOut ch)[rest]? with
        | some (n, y, read) => .next (((s.timedOut ch).ledgerTimeout n y read).dmaGo s)
        | none => .next s

/-! The rate limiter (R267). -/

/-- What a bucket gains in a window, in 1/2048 tokens. -/
def State.bucketGain (s : State) (ch : Nat) : Nat :=
  min 256 (max 1 (s.get (F.dmaRateShare ch))) * (if s.host.linkUp then s.host.rate * s.host.active else 0)

/-- The most a bucket holds. -/
def State.bucketMax (s : State) (ch : Nat) : Nat := s.bucketGain ch + 4096 * 2048

/-- A channel's bucket after EN has changed from 0 to 1: full. -/
def State.fillBucket (s : State) (ch : Nat) : State := s.setChan ch fun c => { c with tokens := s.bucketMax ch }

/-- RATE_WINDOW (R267): a 1 µs window begins: every bucket gains its share. -/
def execRateWindow (s : State) : Result :=
  .next (((List.range 32).foldl (fun t ch =>
    if t.on (F.dmaRateEn ch) then t.setChan ch fun c => { c with tokens := min (s.bucketMax ch) (c.tokens + s.bucketGain ch) }
    else t) s).dmaGo s)

end Sys2Proof.Machine
end

