-- ==== Sys2Proof/Machine/Eddy.lean ====
section
/-!
DEFINITION. The Eddy engines: jobs, contexts and internal jobs (13_eddy_codec.md), and the wear map generator that uses them
(05_uniformity_and_wear.md).
-/

namespace Sys2Proof.Machine

/-- Engine e's state. -/
def State.eddy (s : State) (e : Nat) : EddyState := s.eddys.getD e EddyState.reset

/-- Engine e's state changed. -/
def State.setEddy (s : State) (e : Nat) (f : EddyState → EddyState) : State := { s with eddys := updAt s.eddys e f }

/-- The master ID of engine e. -/
def eddyMaster (e : Nat) : Nat := 0x08 + e

/-- An event of engine e (R298): 0 EDDY_DONE, 1 EDDY_OUT_FULL, 2 EDDY_ERROR, 3 EDDY_CTX_DONE. -/
def evEddy (e b : Nat) : Nat := 224 + 4 * e + b

/-- STATE of engine e: 0 IDLE, 1 RUNNING, 2 OUT_FULL, 3 ERROR, 4 CTX_BUSY. -/
def State.eddySt (s : State) (e : Nat) : Nat := s.get (F.eddyStatusState e)

/-- INTERNAL as the engine stands: an internal job runs between driver jobs or while one is stopped (R295). -/
def State.showInternal (s : State) (e : Nat) : State :=
  let x := s.eddy e
  s.put (F.eddyStatusInternal e) (!x.internal.isEmpty && (x.waits.isSome || (s.eddySt e != 1 && s.eddySt e != 4))).toNat

/-! The code words of a general-mode job (R287 to R293). -/

/-- The decoder that a context holds. -/
def EddyCtx.decoder (c : EddyCtx) : GenDec :=
  ⟨if c.mode = 1 then .stored c.left false else if c.mode = 2 then .stored c.left true else if c.mode = 3 then .coded false
    else if c.mode = 4 then .coded true else if c.mode = 5 then .done else .between, c.lens, c.hist, c.pos⟩

/-- A decoder's position put into a context. -/
def EddyCtx.withDecoder (c : EddyCtx) (d : GenDec) : EddyCtx :=
  let (m, l) : Nat × Nat := match d.mode with
    | .between => (0, 0)
    | .stored left final => (1 + final.toNat, left)
    | .coded final => (3 + final.toNat, 0)
    | .done => (5, 0)
  { c with mode := m, left := l, lens := d.lens, hist := d.hist, pos := d.pos }

/-- The context a job starts from (R290): the carried one, or an empty one: no history, no tables, no held bits, A 4 and C 1. -/
def EddyJob.startCtx (j : EddyJob) (c : EddyCtx) : EddyCtx := if j.carry then c else EddyCtx.empty

/-- How a job ends when every code word of it is written: a code, or the context after it. -/
abbrev JobEnd := Except Nat EddyCtx

/-- Bits of output of code words. -/
def wordBits (ws : List CodeWord) : List Bool := (ws.map (·.outBits)).flatten

/-- The end of a decompression job (R291): `r` what the decoder made of its input bits. -/
def decodeEnd (final : Bool) (c : EddyCtx) (r : List CodeWord × GenDec × List Bool × Bool) : JobEnd :=
  let d := r.2.1
  let left := r.2.2.1
  if r.2.2.2 then .error 3
  else if final then (if d.mode = .done ∧ left.length < 8 then .ok { c.withDecoder d with held := [], pend := [] } else .error 4)
  else .ok { c.withDecoder d with held := left.take 2048, pend := [] }

/-- The code words of a decompression from a context over input bits, and its end. -/
def decompressRun (final : Bool) (c : EddyCtx) (bits : List Bool) : List CodeWord × JobEnd :=
  let r := genWords (bits.length + 1) c.decoder bits
  (r.1, decodeEnd final c r)

/-- The last of some code words padded so that all the bits fill whole bytes (R291). -/
def padLast (held : Nat) (ws : List CodeWord) : List CodeWord :=
  match ws.getLast? with
  | none => ws
  | some w => ws.dropLast ++ [{ w with outBits := w.outBits ++ padBits (held + (wordBits ws).length) }]

/-- The code words of a compression from a context, and its end. -/
def compressRun (final : Bool) (c : EddyCtx) (input : List Byte) : List CodeWord × JobEnd :=
  let r := compressWords final c.hist c.lens c.pos input
  let ws := if final then padLast c.held.length r.1 else r.1
  let bits := c.held ++ wordBits ws
  (ws, .ok { c with hist := trimHist (input.reverse ++ c.hist), lens := r.2, pos := c.pos + (wordBits ws).length,
                    mode := if final then 5 else 0, held := bits.drop (bits.length / 8 * 8), pend := [] })

/-- The bytes that a formed code word of a decompression spells, newest first. -/
def pendBytes (pend : List Bool) : List Byte := (bytesOfBits (pend.length / 8) pend).reverse

/-- The tokens and blocks with which a compressor goes on from a restored context that is no place of its own run (R293, R294): as it chooses them, where
they spell the input left, else stored blocks, where these do. -/
def foreignPlan (final : Bool) (q : EddyCtx) (rest : List Byte) : Option (List EddyToken × List EddyBlock) :=
  let words := restWords final q.mode q.left q.hist q.lens (q.pos + q.pend.length) rest
  let own := Config.eddyRest q.hist q.lens rest final
  let stored := storedRest q.mode q.left rest
  if (words own).isSome then some own else if (words stored).isSome then some stored else none

/-- The tables and the decoder's mode, with the bytes left of a stored block, after so many code words of such a run. -/
def foreignStand (final : Bool) (q : EddyCtx) (rest : List Byte) (k : Nat) : List Nat × Nat × Nat :=
  match foreignPlan final q rest with
  | none => (q.lens, q.mode, q.left)
  | some p =>
    let n := planSpan q.mode q.left p
    let ws := (openWords q.mode q.left q.lens p.1 (rest.take n)).getD []
    if k < ws.length then (q.lens, q.mode, if q.mode = 1 ∨ q.mode = 2 then q.left - k else q.left)
    else
      let pos := q.pos + q.pend.length + (wordBits ws).length
      (parseTables final p.2 pos q.lens (rest.drop n) (k - ws.length), parseMode final p.2 pos q.lens (rest.drop n) (k - ws.length))

/-- The run of such a compressor: the pending code word, then those of its plan; the context after it. -/
def foreignRun (final : Bool) (q : EddyCtx) (rest : List Byte) : List CodeWord × JobEnd :=
  let head : List CodeWord := if q.pend.isEmpty then [] else [⟨0, q.pend⟩]
  let r := match (foreignPlan final q rest).bind (restWords final q.mode q.left q.hist q.lens (q.pos + q.pend.length) rest) with
    | some w => w
    | none => ((Config.eddyLoose q.hist q.lens rest final).map fun (p : Nat × List Bool) => CodeWord.mk p.1 p.2, q.lens)
  let all := head ++ r.1
  let ws := if final then padLast q.held.length all else all
  let bits := q.held ++ wordBits ws
  (ws, .ok { q with hist := trimHist (rest.reverse ++ q.hist), lens := r.2, pos := q.pos + (wordBits ws).length,
                    mode := if final then 5 else 0, left := 0, held := bits.drop (bits.length / 8 * 8), pend := [] })

/-- The run of a general-mode job over its input: its code words and its end. A job whose position was replaced by a restored
context goes on from there. -/
def generalRun (j : EddyJob) (c0 : EddyCtx) (input : List Byte) : List CodeWord × JobEnd :=
  let c := j.startCtx c0
  match j.resumed with
  | none => if j.decompress then decompressRun j.final c (c.held ++ bitsOfBytes input) else compressRun j.final c input
  | some (q, used) =>
    if j.decompress then
      let r := decompressRun j.final { q with hist := trimHist (pendBytes q.pend ++ q.hist) } ((bitsOfBytes input).drop used)
      ((if q.pend.isEmpty then [] else [⟨0, q.pend⟩]) ++ r.1, r.2)
    else foreignRun j.final q (input.drop (used / 8))

/-- A decoder over bits, after so many code words: the context with the next one formed and held (R292): its input is consumed, its bytes are not in the
history yet, its tables are in force. -/
def decoderStop (c : EddyCtx) (d : GenDec) (bits : List Bool) (words : Nat) : EddyCtx :=
  let ws := (genWords (bits.length + 1) d bits).1
  let after := (genWords (words + 1) d bits).2.1
  let before := (genWords words d bits).2.1
  { c.withDecoder { after with hist := before.hist } with held := [], pend := ((ws[words]?).map (·.outBits)).getD [] }

/-- The context of a stopped job: after so many code words of its run, the next one formed and held (R292). -/
def stopCtx (j : EddyJob) (c0 : EddyCtx) (input : List Byte) : EddyCtx :=
  let c := j.startCtx c0
  match j.resumed with
  | some (q, used) =>
    if j.words = 0 && !q.pend.isEmpty then { q with held := j.held }
    else
      let own := if q.pend.isEmpty then j.words else j.words - 1
      if j.decompress then
        let d := { q with hist := trimHist (pendBytes q.pend ++ q.hist) }
        decoderStop d d.decoder ((bitsOfBytes input).drop used) own
      else
        let ws := (generalRun j c0 input).1
        let rest := input.drop (used / 8)
        let n := ((ws.take (j.words + 1)).map (·.inBits)).foldl (· + ·) 0 / 8
        let st := foreignStand j.final q rest (own + 1)
        { q with hist := trimHist ((rest.take n).reverse ++ q.hist), lens := st.1, mode := st.2.1, left := st.2.2
                 pos := q.pos + (wordBits (ws.take j.words)).length,
                 held := j.held, pend := ((ws[j.words]?).map (·.outBits)).getD [] }
  | none =>
    if j.decompress then decoderStop c c.decoder (c.held ++ bitsOfBytes input) j.words
    else
      let r := compressRun j.final c input
      let parse := chosenParse j.final c.hist c.lens c.pos input
      let n := ((r.1.take (j.words + 1)).map (·.inBits)).foldl (· + ·) 0 / 8
      let m := parseMode j.final parse c.pos c.lens input (j.words + 1)
      { c with hist := trimHist ((input.take n).reverse ++ c.hist)
               lens := parseTables j.final parse c.pos c.lens input (j.words + 1)
               mode := m.1, left := m.2
               pos := c.pos + (wordBits (r.1.take j.words)).length, held := j.held, pend := ((r.1[j.words]?).map (·.outBits)).getD [] }

/-- The place in a compression's own run that a restored context is, if it is one: after how many code words. -/
def samePlace (j : EddyJob) (c0 q : EddyCtx) (input : List Byte) : Option Nat :=
  let own := { j with resumed := none, held := q.held }
  (List.range ((generalRun own c0 input).1.length + 1)).find? fun k =>
    let p := stopCtx { own with words := k } c0 input
    p.hist == q.hist && p.pos == q.pos && p.pend == q.pend

/-- A job stopped for output space whose position a restored context replaces (R294): a compressor that stands at a place of its own run goes on with
that run (R293). -/
def EddyJob.replaced (j : EddyJob) (c0 q : EddyCtx) (used : Nat) (input : List Byte) : EddyJob :=
  match (if j.decompress then none else samePlace j c0 q input) with
  | some k => { j with words := k, held := q.held, resumed := none }
  | none => { j with words := 0, held := q.held, resumed := some (q, used) }

/-- How many of some code words fit in so many bytes after so many held bits (R292). -/
def fitWords (space : Nat) : Nat → List CodeWord → Nat
  | _, [] => 0
  | bits, w :: rest =>
    if (bits + w.outBits.length) / 8 ≤ space then 1 + fitWords space (bits + w.outBits.length) rest else 0

/-! Outcomes of a job. -/

/-- What becomes of a job over its output space: it completes with bytes, bits held, a context and (pixel mode) whether it
came out raw; it stops after so many code words; it ends in an error; it meets an uncorrectable word; a read is barred. -/
inductive EddyOutcome where
  | done (out : List Byte) (bits : Nat) (ctx : EddyCtx) (raw : Option Bool)
  | full (words : Nat) (out : List Byte) (held : List Bool) (inBits need : Nat)
  | err (code : Nat) (out : List Byte)
  | fault (addr : Nat) (out : List Byte)
  | barred (addr : Nat)
deriving DecidableEq, Repr

/-- N of a DEPTH. -/
def eddyN (depth : Nat) : Nat := [8, 10, 12, 16].getD depth 8

/-- The outcome of a pixel-mode job over its input (R282 to R286); the parameters after a raw body are free. -/
def pixelOutcome (j : EddyJob) (c0 : EddyCtx) (free : Nat) (input : List Byte) : EddyOutcome :=
  let n := eddyN j.depth
  let c := j.startCtx c0
  let g : Golomb := ⟨c.a, c.c⟩
  let after := fun (rows : List (List Nat)) (a k : Nat) =>
    { c with row := rows.getLastD [], width := j.width, depth := j.depth, a := a, c := k }
  if j.decompress then
    if j.rawIn then
      .done input 0 (after (rowsOfRaw n j.width j.rows input) (Config.freeValue free) (Config.freeValue (free + 1))) (some false)
    else match decodeBody n j.width j.rows g c.row input with
      | .ok r => .done (rawOfRows n r.1) 0 (after r.1 r.2.a r.2.c) (some false)
      | .error e => .err e.code []
  else
    let rows := rowsOfRaw n j.width j.rows input
    let r := encodeRecord n g c.row rows
    if r.1 then .done input 0 (after rows (Config.freeValue free) (Config.freeValue (free + 1))) (some true)
    else .done r.2.1 0 (after rows r.2.2.a r.2.2.c) (some false)

/-- The bits of its input used where the position of a job was replaced. -/
def EddyJob.usedBefore (j : EddyJob) : Nat := (j.resumed.map (·.2)).getD 0

/-- The outcome of a general-mode job over its output space. -/
def generalOutcome (j : EddyJob) (c0 : EddyCtx) (input : List Byte) : EddyOutcome :=
  let r := generalRun j c0 input
  let ws := r.1.drop j.words
  let k := fitWords j.outLen j.held.length ws
  let bits := j.held ++ wordBits (ws.take k)
  let out := bytesOfBits (bits.length / 8) bits
  let held := bits.drop (bits.length / 8 * 8)
  if k < ws.length then
    let inBits := ((r.1.take (j.words + k + 1)).map (·.inBits)).foldl (· + ·) 0
    let past := ceilDiv (j.usedBefore + inBits) 8
    .full (j.words + k) out held inBits (min j.inLen (if j.decompress then past else past + 65536))
  else match r.2 with
    | .ok c => .done out held.length c none
    | .error code => .err code out

/-- What engine e's job makes of its input as the Hold stands, and how many bytes of it it has read: a job that runs out of space has read no further
than its pending code word, a compressor to the end of a block of 64 KiB beyond it (DESIGN CHOICE, log 100). -/
def State.eddyPlan (s : State) (e : Nat) (j : EddyJob) : EddyOutcome × Nat :=
  let input := s.holdBytes j.inAddr j.inLen
  let o := if j.pixel then pixelOutcome j (s.eddy e).ctx s.freeCount input else generalOutcome j (s.eddy e).ctx input
  (o, match o with
    | .full _ _ _ _ n => n
    | _ => j.inLen)

/-- The outcome of engine e's job as the Hold stands: only what it has read can be barred or uncorrectable. -/
def State.eddyOutcome (s : State) (e : Nat) (j : EddyJob) : EddyOutcome :=
  let p := s.eddyPlan e j
  match s.firstBarred (eddyMaster e) j.inAddr p.2 false with
  | some x => .barred x
  | none =>
    match s.runFault j.inAddr p.2 with
    | some w => .fault w (match p.1 with
      | .done out _ _ _ => out
      | .full _ out _ _ _ => out
      | .err _ out => out
      | _ => [])
    | none => p.1

/-- Engine e's job with its reads made: its outcome, and the state after them. What other masters write in the cycles of its reads, and what the memory
finds there, goes into it (R234, R236). -/
def State.eddyRead (s : State) (e : Nat) (j : EddyJob) : EddyOutcome × State :=
  let n := (s.eddyPlan e j).2
  if (s.firstBarred (eddyMaster e) j.inAddr n false).isSome then (s.eddyOutcome e j, s)
  else
    let r := s.readRun (eddyMaster e) j.inAddr n
    ((readView r).eddyOutcome e j, r.1)

/-- The bits of the input that a job's first code words did not take from its own input: those held from the job before. -/
def EddyJob.heldIn (j : EddyJob) (c : EddyCtx) : Nat :=
  if j.decompress && j.carry && !j.pixel && j.resumed.isNone then c.held.length else 0

/-! Ends of jobs (R281, R292, R297). -/

/-- A job ended in ERROR with a code. -/
def State.eddyFail (s : State) (e code : Nat) : State :=
  let t := s.puts [(F.eddyStatusState e, 3), (F.eddyStatusErr e, code), (F.eddyStatusPending e, 0), (F.eddyStatusCtxValid e, 0)]
  (((t.setEddy e fun x => { x with job := none, waits := none, ctxCmd := none }).showInternal e).raise (evEddy e 2))

/-- The bytes of a job's next output that it may write: those below the first bank that is barred to it. -/
def State.eddyRoom (s : State) (e : Nat) (j : EddyJob) (n : Nat) : Nat :=
  match s.firstBarred (eddyMaster e) j.outAddr n true with
  | some x => x - j.outAddr
  | none => n

/-- Output bytes written and counted (R292); those that the engine has no right to write are not, and freeze it. -/
def State.eddyWrite (s : State) (e : Nat) (j : EddyJob) (out : List Byte) : State :=
  (s.storeAs (eddyMaster e) j.outAddr out).put (F.eddyOutDoneBytes e) (s.get (F.eddyOutDoneBytes e) + s.eddyRoom e j out.length)

/-- A free number of a job's next output bytes written: how far it had come. -/
def State.eddyPartial (s : State) (e : Nat) (j : EddyJob) (out : List Byte) : State :=
  (s.bumpFree).eddyWrite e j (out.take (s.free % (out.length + 1)))

/-- A job ended in ERROR with a code, unless its last write has frozen the engine: the job is then held until the thaw (R297). -/
def State.eddyFailUnless (s : State) (e code : Nat) : State := if s.frozen (eddyMaster e) then s else s.eddyFail e code

/-- A job completed: its output written, the counters, the context; a barred write leaves the job held. -/
def State.eddyDone (s : State) (e : Nat) (j : EddyJob) (out : List Byte) (bits : Nat) (ctx : EddyCtx) (raw : Option Bool) : State :=
  let t := s.storeAs (eddyMaster e) j.outAddr out
  if t.frozen (eddyMaster e) then t
  else
    let u := t.puts [(F.eddyStatusState e, 0), (F.eddyStatusCtxValid e, 1), (F.eddyStatusPending e, 0), (F.eddyInDoneBytes e, j.inLen),
      (F.eddyOutDoneBytes e, t.get (F.eddyOutDoneBytes e) + out.length), (F.eddyBitsInBits e, 0), (F.eddyBitsOutBits e, bits)]
    let v := match raw with
      | some b => { u.put (F.eddyStatusRaw e) b.toNat with freeCount := u.freeCount + 2 }
      | none => u
    ((((v.setEddy e fun x => { x with job := none, ctx := ctx }).count (F.eddyJobsCount e) 1).showInternal e).raise (evEddy e 0))

/-- A job stopped for output space. -/
def State.eddyFull (s : State) (e : Nat) (j : EddyJob) (words : Nat) (out : List Byte) (held : List Bool) (inBits : Nat) : State :=
  let t := s.storeAs (eddyMaster e) j.outAddr out
  if t.frozen (eddyMaster e) then t
  else
    let n := j.usedBefore + inBits - j.heldIn (s.eddy e).ctx
    let u := t.puts [(F.eddyStatusState e, 2), (F.eddyStatusPending e, 1), (F.eddyInDoneBytes e, n / 8), (F.eddyBitsInBits e, n % 8),
      (F.eddyOutDoneBytes e, t.get (F.eddyOutDoneBytes e) + out.length), (F.eddyBitsOutBits e, held.length)]
    ((u.setEddy e fun x => { x with job := some { j with words := words, held := held } }).showInternal e).raise (evEddy e 1)

/-- The job of engine e that runs now, if one does: not while the gate of the Hold holds its accesses. -/
def State.eddyRuns (s : State) (e : Nat) : Option EddyJob :=
  match (s.eddy e).job with
  | none => none
  | some j =>
    if s.eddySt e = 1 ∧ (s.eddy e).waits.isNone ∧ !s.frozen (eddyMaster e) ∧
      !s.runsHeld (eddyMaster e) [(j.inAddr, j.inLen), (j.outAddr, j.outLen)] then some j else none

/-- A barred read of a job: a violation, the job held (R297). -/
def State.eddyBarred (s : State) (e x : Nat) : State := s.violate (eddyMaster e) (s.barCode (eddyMaster e) x false) x false

/-- A command of engine e whose job runs: its accesses meet what `port` says, its reads are made, then `k` of the outcome. -/
def State.eddyMeets (s : State) (e : Nat) (port : HoldPort) (k : EddyJob → EddyOutcome → State → State) : State :=
  match s.eddyRuns e with
  | none => s
  | some j => s.throughPort (· == eddyMaster e) port fun t =>
    let r := t.eddyRead e j
    match r.1 with
    | .barred x => r.2.eddyBarred e x
    | o => k j o r.2

/-- EDDY_JOB_COMPLETE (R281): the job of engine e finishes. -/
def execEddyJobComplete (e : Fin 4) (port : HoldPort) (s : State) : Result :=
  .next (s.eddyMeets e port fun j o t => match o with
    | .done out bits ctx raw => t.eddyDone e j out bits ctx raw
    | _ => t)

/-- EDDY_OUTPUT_EXHAUSTED (R292): the next code word does not fit. -/
def execEddyOutputExhausted (e : Fin 4) (port : HoldPort) (s : State) : Result :=
  .next (s.eddyMeets e port fun j o t => match o with
    | .full words out held n _ => t.eddyFull e j words out held n
    | _ => t)

/-- A job that meets a fault indication or an access cut off (R297): what it had written so far, the address latched, ERR 0x2. -/
def State.eddyFault (s : State) (e : Nat) (j : EddyJob) (out : List Byte) (a : Nat) : State :=
  ((s.eddyPartial e j out).put (F.eddyFaultAddrAddr e) a).eddyFailUnless e 2

/-- EDDY_JOB_ERROR (R297): a corrupt code or a length mismatch, an uncorrectable word, or an access `cut` off by a ferry. -/
def execEddyJobError (e : Fin 4) (cut : Option (BitVec 30)) (port : HoldPort) (s : State) : Result :=
  .next (s.eddyMeets e port fun j o t => match cut, o with
    | some a, .done out _ _ _ => t.eddyFault e j out a.toNat
    | some a, .full _ out _ _ _ => t.eddyFault e j out a.toNat
    | some a, .err _ out => t.eddyFault e j out a.toNat
    | _, .fault w out => (t.noteUncorr w).eddyFault e j out w
    | none, .err code out => (t.eddyWrite e j out).eddyFailUnless e code
    | _, _ => t)

/-! Commands (R281, R290, R293, R294). -/

/-- A command refused in the state the engine is in. -/
def State.eddyRefuse (s : State) (e : Nat) : State := s.put (F.eddyStatusErr e) 7

/-- The job that the registers of engine e describe. -/
def State.eddyAsked (s : State) (e : Nat) : EddyJob :=
  ⟨s.get (F.eddyCfgMode e) == 0, s.on (F.eddyCfgDir e), s.on (F.eddyCfgCarry e), s.on (F.eddyCfgFinal e), s.on (F.eddyCfgRawIn e),
    s.get (F.eddyCfgDepth e), s.get (F.eddyGeomWidth e), s.get (F.eddyGeomRows e), s.get (F.eddyInAddrAddr e),
    s.get (F.eddyInLenBytes e), s.get (F.eddyOutAddrAddr e), s.get (F.eddyOutLenBytes e), 0, [], none⟩

/-- Whether a START is refused with ERR 0x1 (R12, R282, R286, R290). -/
def State.eddyInvalid (s : State) (e : Nat) (j : EddyJob) : Bool :=
  let c := (s.eddy e).ctx
  let raw := rawSize (eddyN j.depth) j.width j.rows
  !([R.eddyInAddr e, R.eddyInLen e, R.eddyOutAddr e, R.eddyOutLen e].all s.isWritten) || j.inLen == 0 ||
    decide (2 ^ 30 < j.inLen) || decide (2 ^ 30 < j.outLen) ||
    (j.pixel && (j.width == 0 || decide (15360 < j.width) || j.rows == 0 || decide (j.outLen < raw) ||
      ((!j.decompress || j.rawIn) && j.inLen != raw))) ||
    (j.carry && (!s.on (F.eddyStatusCtxValid e) || (j.pixel && (j.width != c.width || j.depth != c.depth))))

/-- EDDY_START (R281, R290): the configuration sampled, the job run, or held back by an internal job. -/
def execEddyStart (w : Writer) (e : Fin 4) (s : State) : Result :=
  .next (s.writeBy w (R.eddyCmd e) fun t =>
    if t.eddySt e ≠ 0 ∧ t.eddySt e ≠ 3 then t.eddyRefuse e
    else
      let j := t.eddyAsked e
      let u := t.puts [(F.eddyInDoneBytes e, 0), (F.eddyOutDoneBytes e, 0), (F.eddyBitsInBits e, 0), (F.eddyBitsOutBits e, 0)]
      if t.eddyInvalid e j then (u.puts [(F.eddyStatusState e, 3), (F.eddyStatusErr e, 1)]).raise (evEddy e 2)
      else
        let c := (t.eddy e).ctx
        let held := if !j.pixel && !j.decompress && j.carry then c.held else []
        let waits := if t.on (F.eddyStatusInternal e) then some 1 else none
        ((u.puts [(F.eddyStatusState e, 1), (F.eddyStatusErr e, 0), (F.eddyStatusPending e, 0)]).setEddy e fun x =>
          { x with job := some { j with held := held }, waits := waits }).showInternal e)

/-- EDDY_RESUME (R293): new output space; a space too small for the pending code word stops the job again at once. -/
def execEddyResume (w : Writer) (e : Fin 4) (s : State) : Result :=
  .next (s.writeBy w (R.eddyCmd e) fun t =>
    match t.eddySt e, (t.eddy e).job with
    | 2, some j =>
      let j' := { j with outAddr := t.get (F.eddyOutAddrAddr e), outLen := t.get (F.eddyOutLenBytes e) }
      let waits := if t.on (F.eddyStatusInternal e) then some 2 else none
      let u := ((t.puts [(F.eddyStatusState e, 1), (F.eddyStatusErr e, 0)]).setEddy e fun x =>
        { x with job := some j', waits := waits }).showInternal e
      if waits.isSome || u.frozen (eddyMaster e) then u
      else match u.eddyOutcome e j' with
        | .full words out held n _ => if words = j.words then u.eddyFull e j' words out held n else u
        | _ => u
    | _, _ => t.eddyRefuse e)

/-- EDDY_ABORT (R281, R297): a running or stopped job, also one that a freeze holds, ends with ERR 0x6, what it had written staying written. -/
def execEddyAbort (w : Writer) (e : Fin 4) (s : State) : Result :=
  .next (s.writeBy w (R.eddyCmd e) fun t =>
    if t.eddySt e = 1 ∨ t.eddySt e = 2 then
      let u := match t.eddyRuns e with
        | some j => match t.eddyOutcome e j with
          | .done out _ _ _ => t.eddyPartial e j out
          | .full _ out _ _ _ => t.eddyPartial e j out
          | .err _ out => t.eddyPartial e j out
          | _ => t
        | none => t
      u.eddyFail e 6
    else t.eddyRefuse e)

/-- A context command accepted in IDLE, OUT_FULL or ERROR (R294), or refused. -/
def State.eddyCtxCmd (s : State) (e op : Nat) : State :=
  let st := s.eddySt e
  if st ≠ 0 ∧ st ≠ 2 ∧ st ≠ 3 then s.eddyRefuse e
  else if !s.isWritten (R.eddyCtxAddr e) then s.put (F.eddyStatusErr e) 1
  else (((s.put (F.eddyStatusState e) 4).setEddy e fun x => { x with ctxCmd := some (op, st) }).showInternal e)

/-- CTX_SAVE (R294): OP 0x4. -/
def execCtxSave (w : Writer) (e : Fin 4) (s : State) : Result := .next (s.writeBy w (R.eddyCmd e) fun t => t.eddyCtxCmd e 4)

/-- CTX_RESTORE (R294): OP 0x5. -/
def execCtxRestore (w : Writer) (e : Fin 4) (s : State) : Result := .next (s.writeBy w (R.eddyCmd e) fun t => t.eddyCtxCmd e 5)

/-! Contexts in the Hold (R294). -/

/-- Bits as so many bytes, zero filled. -/
def bitBytes (n : Nat) (l : List Bool) : List Byte := leBytes n (ofBits l)

/-- The first 2,044 bytes of the state area; the places of all but MAGIC and version are the model's own. -/
def ctxState (c : EddyCtx) (inDone outDone bits : Nat) : List Byte :=
  (leBytes 4 0x58435445 ++ leBytes 4 0x0100 ++ leBytes 4 c.hist.length ++ leBytes 2 c.width ++ leBytes 1 c.depth ++
    leBytes 1 c.mode ++ leBytes 4 c.left ++ leBytes 8 c.pos ++ leBytes 4 c.a ++ leBytes 4 c.c ++ leBytes 2 c.held.length ++
    leBytes 2 c.pend.length ++ leBytes 4 inDone ++ leBytes 4 outDone ++ leBytes 2 bits ++ leBytes 2 c.lens.length ++
    bitBytes 256 c.held ++ bitBytes 512 c.pend ++ (c.lens.map fun v => leBytes 1 v).flatten ++ List.replicate 2044 0).take 2044

/-- The 96 KiB of a context. -/
def ctxBytes (c : EddyCtx) (inDone outDone bits : Nat) : List Byte :=
  let st := ctxState c inDone outDone bits
  (c.hist.reverse ++ List.replicate 0x10000 0).take 0x10000 ++
    ((c.row.map fun v => leBytes 2 v).flatten ++ List.replicate 0x7800 0).take 0x7800 ++ st ++ leBytes 4 (crc32c st)

/-- The context that bytes spell, with the counters IN_DONE, OUT_DONE and BITS; none when a check fails. -/
def ctxOf (l : List Byte) : Option (EddyCtx × Nat × Nat × Nat) :=
  let st := (l.drop 0x17800).take 2044
  let f := leAt st
  let held := toBits (f 36 2) (ofLe ((st.drop 52).take 256))
  let pend := toBits (f 38 2) (ofLe ((st.drop 308).take 512))
  let lens := (List.range (f 50 2)).map fun i => f (820 + i) 1
  let row := (List.range (f 12 2)).map fun i => leAt l (0x10000 + 2 * i) 2
  if f 0 4 = 0x58435445 ∧ f 4 4 = 0x0100 ∧ leAt l 0x17FFC 4 = crc32c st then
    some (⟨(l.take (f 8 4)).reverse, lens, held, pend, f 20 8, f 15 1, f 16 4, row, f 12 2, f 14 1, f 28 4, f 32 4⟩,
      f 40 4, f 44 4, f 48 2)
  else none

/-- The context an engine saves: its own, or that of the job stopped in OUT_FULL. -/
def State.eddyPosition (s : State) (e : Nat) : EddyCtx :=
  match (s.eddy e).job with
  | some j => stopCtx j (s.eddy e).ctx (s.holdBytes j.inAddr j.inLen)
  | none => (s.eddy e).ctx

/-- A context command ended: the state it was accepted in, EDDY_CTX_DONE. -/
def State.endCtx (s : State) (e st : Nat) : State :=
  (((s.put (F.eddyStatusState e) st).setEddy e fun x => { x with ctxCmd := none }).showInternal e).raise (evEddy e 3)

/-- A context command that ends in ERROR. -/
def State.failCtx (s : State) (e code : Nat) : State := (s.eddyFail e code).raise (evEddy e 3)

/-- The words of a save: the bytes written under the engine's rights. -/
def State.saveCtx (s : State) (e st : Nat) : State :=
  let bits := 256 * s.get (F.eddyBitsOutBits e) + s.get (F.eddyBitsInBits e)
  let l := ctxBytes (s.eddyPosition e) (s.get (F.eddyInDoneBytes e)) (s.get (F.eddyOutDoneBytes e)) bits
  let t := s.storeAs (eddyMaster e) (32 * s.get (F.eddyCtxAddrAddr e)) l
  if t.frozen (eddyMaster e) then t else t.endCtx e st

/-- What a restore makes of the bytes it read (R294): the context installed, in OUT_FULL in place of the stopped job's position; ERR 0x5 where
they hold none. -/
def State.installCtx (s : State) (e st : Nat) (bytes : List Byte) : State :=
  match ctxOf bytes with
  | none => s.failCtx e 5
  | some (c, inDone, outDone, bits) =>
    let t := s.put (F.eddyStatusCtxValid e) 1
    let u := if st = 2 then
        (t.puts [(F.eddyInDoneBytes e, inDone), (F.eddyOutDoneBytes e, outDone), (F.eddyBitsInBits e, bits),
          (F.eddyBitsOutBits e, bits / 256), (F.eddyStatusPending e, (!c.pend.isEmpty).toNat)]).setEddy e fun x =>
            { x with job := x.job.map fun j =>
              j.replaced x.ctx c (8 * inDone + bits % 8) (s.holdBytes j.inAddr j.inLen) }
      else t.setEddy e fun x => { x with ctx := c }
    u.endCtx e st

/-- A restore: the context read and checked, then installed. -/
def State.restoreCtx (s : State) (e st : Nat) : State :=
  let a := 32 * s.get (F.eddyCtxAddrAddr e)
  match s.firstBarred (eddyMaster e) a 98304 false with
  | some x => s.eddyBarred e x
  | none =>
    let r := s.readWhole (eddyMaster e) a 98304
    match r.1 with
    | .error w => (r.2.put (F.eddyFaultAddrAddr e) w).failCtx e 2
    | .ok l => r.2.installCtx e st l

/-- EDDY_CTX_COMPLETE (R294): a save or a restore ends; `cut` an access answered with 0x404. -/
def execEddyCtxComplete (e : Fin 4) (cut : Option (BitVec 30)) (port : HoldPort) (s : State) : Result :=
  if s.frozen (eddyMaster e) || s.runHeld (eddyMaster e) (32 * s.get (F.eddyCtxAddrAddr e)) 98304 then .next s
  else match (s.eddy e).ctxCmd, cut with
    | none, _ => .next s
    | some _, some a => .next ((s.put (F.eddyFaultAddrAddr e) a.toNat).failCtx e 2)
    | some (op, st), none => .next (s.throughPort (· == eddyMaster e) port fun t => if op = 4 then t.saveCtx e st else t.restoreCtx e st)

/-- An engine thawed (R297): the job or the context command it held ends with ERR 0x7. -/
def State.eddyThaw (s : State) (e : Nat) : State :=
  if s.eddySt e = 1 ∨ s.eddySt e = 4 then s.eddyFail e 7 else s.showInternal e

/-! The wear map generator (R125, R126, R295). -/

/-- The lines of group g of output n. -/
def State.groupLines (s : State) (n g : Nat) : Nat := min 16 (s.vActive n - 16 * g)

/-- A generated record put into the wear map (R126): in a free place, its entry waiting for the next Landing; skipped when there
is no place, nothing when the reach may not read the index or write there. -/
def State.placeRecord (s0 : State) (n base : Nat) (j : EddyInternal) : State :=
  let i := s0.readAs (s0.wearMaster n) base (wearData (s0.wearGroups n))
  let s := i.2
  let r := encodeRecord 8 Golomb.start [] j.rows
  if i.1.isNone then s
  else match s.wearPlace n base r.2.1.length with
  | none => s.count (F.wearGenSkipsCount n) 1
  | some p =>
    let t := s.storeAs (s.wearMaster n) (base + p) r.2.1
    if t.frozen (s.wearMaster n) then t
    else t.setWear n fun w => { w with
      place := ceilDiv (p + r.2.1.length) 32 * 32,
      entries := w.entries.filter (·.group != j.group) ++ [⟨j.group, p, r.2.1.length, crc32c r.2.1, r.1⟩] }

/-- The end of a generation pass (R125). -/
def State.endPass (s : State) (n : Nat) : State :=
  let seconds := (rheDiv ((s.time.ticks - (s.wearOf n).passStart : Nat) : Int) 250000000).toNat
  ((s.put (F.wearGenStatusLastPass n) (min 65535 seconds)).setWear n fun w =>
    { w with passStart := s.time.ticks }).raise (evOut n 31)

/-- EDDY_INTERNAL_JOB_DONE (R295): the engine has coded a group of a wear map; its next job, the driver's first, goes on. The accesses are those of the
generating reach; while the gate holds them the job goes on. -/
def execEddyInternalJobDone (e : Fin 4) (port : HoldPort) (s : State) : Result :=
  match (s.eddy e).internal with
  | [] => .next s
  | j :: rest =>
    let m := s.wearMaster j.output
    if !s.on (F.eddyStatusInternal e) || s.frozen (eddyMaster e) || (match (s.wearOf j.output).base with
        | some base => s.runHeld m base (32 * s.act (F.wearMapBytesBytes j.output))
        | none => false) then .next s
    else
      let t := ((s.setEddy e fun x => { x with internal := rest, waits := none }).count (F.eddyJobsCount e) 1).showInternal e
      let u := match (t.wearOf j.output).base with
        | some base => t.throughPort (· == m) port fun v => v.placeRecord j.output base j
        | none => t
      .next (if j.group + 1 = u.wearGroups j.output then u.endPass j.output else u)

end Sys2Proof.Machine
end

