-- ==== Sys2Proof/Machine/Panel.lean ====
section
/-!
DEFINITION. The commands of panel lanes and sidebands (09_lararn_panel_link.md, 10_lane_calibration.md).
-/

namespace Sys2Proof.Machine

/-! Service and training. -/

/-- TRAINING_SEQUENCE_END (R201): stage B ends. -/
def execTrainingSequenceEnd (lane : Fin 96) (s : State) : Result :=
  .next (if s.laneSt lane = 1 then s.endTraining lane else s)

/-- The listen window of a lane ended without a good STATUS (R203): the lane is ABSENT, told on entry only, and its next retry
is 20 ms times 2^(k - 1) away, at most 1,280 ms. -/
def State.listenEnds (s : State) (n : Nat) : State :=
  if s.laneSt n ≠ 2 ∧ s.laneSt n ≠ 1 then s
  else
    let k := (s.lane n).retry
    let delay := min 1280 (20 * 2 ^ k)
    let t := (s.setLane n fun l => { l with retryAt := some (s.time.ticks + delay * 250000) }).put (F.plnStatusState n) 4
    if k = 0 then (t.put (F.plnStatusFault n) 1).raise (evLane n) else t

/-- LISTEN_TIMEOUT (R203): 20 ms from the start of the training sequence; `met` says that the good STATUS is recognised in that clock (R19). -/
def execListenTimeout (lane : Fin 96) (met : Bool) (s : State) : Result := .next (if met then s else s.listenEnds lane)

/-- RETRY_START (R203): the back-off of an ABSENT lane elapses. -/
def execRetryStart (lane : Fin 96) (s : State) : Result :=
  let n := lane.val
  .next (if s.laneSt n = 4 then
    ((s.setLane n fun l => { l with retry := min 16 (l.retry + 1) }).count (F.plnStatusRetries n) 1).startTraining n else s)

/-- Whether a lane is in service: its output runs and its transmitter is not off (R201, R226). -/
def State.inService (s : State) (n : Nat) : Bool :=
  s.get (F.plnRoleRole n) != 0 && s.running (s.get (F.plnRoleOutput n)) && !s.on (F.plnCtrlTxOff n) && s.laneSt n != 6 &&
    !(s.outp (s.get (F.plnRoleOutput n))).cut

/-- A trial or measurement of a lane whose window or transfer its training breaks into (R217, the check of 0x520): INSUFFICIENT_STATS. -/
def State.breakTrial (s : State) (n : Nat) : State :=
  match (s.lane n).cal with
  | some c => if c.phase = 0 ∨ c.phase = 5 then s else (s.endCal n 0x520 c.start).raise 484
  | none => s

/-- RETRAIN (R201): a write of PLNn_CTRL with RETRAIN = 1. -/
def execRetrain (w : Writer) (lane : Fin 96) (s : State) : Result :=
  .next (s.writeBy w (R.plnCtrl lane) fun t =>
    if t.inService lane then ((t.breakTrial lane).dropFrames lane).beginService lane else t)

/-- TX_OFF (R226): a write of PLNn_CTRL.TX_OFF: electrical idle, or the return to service. -/
def execTxOff (w : Writer) (lane : Fin 96) (off : Bool) (s : State) : Result :=
  .next (s.writeBy w (R.plnCtrl lane) fun t =>
    let was := t.on (F.plnCtrlTxOff lane)
    let u := t.put (F.plnCtrlTxOff lane) off.toNat
    if off && !was then u.laneOff lane
    else if was && !off && u.inService lane then u.beginService lane
    else u)

/-! The sideband. -/

/-- SIDEBAND_POLL (R207): the poll interval of a LISTEN, ACTIVE or HELD lane elapses. -/
def execSidebandPoll (lane : Fin 96) (low : BitVec 4) (s : State) : Result :=
  let st := s.laneSt lane
  .next (if s.on (F.plgSbCtrlSbEn (laneGroup lane)) ∧ (st = 2 ∨ st = 3 ∨ st = 5) then s.sbSend (sbPoll lane) low else s)

/-- The counts of a STATUS added to a lane's registers (R207, R227); its period count may make the lane WORN (R414). -/
def State.statusCounts (s : State) (n : Nat) (p : List Byte) : State :=
  let crc := leAt p 2 2
  let hdr := leAt p 4 2
  let t := (((((s.puts [(F.plnDrvStatusFlags n, leAt p 0 1), (F.plnDrvStatusState n, leAt p 1 1),
    (F.plnDrvStatusTemp n, leAt p 7 1)]).count (F.plnCrcErrsCount n) crc).count (F.plnHdrErrsCount n) hdr).count
    (F.plnLateDrvLate n) (leAt p 6 1)).count (F.plnResidCount n) (crc + hdr)).count (F.plnResidPeriodCount n) (crc + hdr)
  if s.get F.rlfLaneResidMax ≤ t.get (F.plnResidPeriodCount n) then t.laneWorn n 3 else t

/-- A lane that becomes ACTIVE (R203, R215, R415). -/
def State.laneComesUp (s : State) (n : Nat) : State :=
  let l := s.lane n
  let due := l.dueAuto || !l.everUp || l.dueOnUp
  let t := ((s.setLane n fun l => { l with retry := 0, everUp := true, dueOnUp := false, dueAuto := due }).puts [(F.plnStatusState n, 3), (F.plnStatusRetries n, 0),
      (F.plnStatusFault n, 0)]).raise 480
  match t.laneSwap n with
  | some p => if p.stage = 1 ∧ l.dueOnUp then t.endSwap p 0 else t
  | none => t

/-- A STATUS of a lane taken (R203, R204): its counts, ACTIVE, or lost. -/
def State.takeStatus (s : State) (n : Nat) (p : List Byte) : State :=
  let t := (s.statusCounts n p).setLane n fun l => { l with silent := 0, corrupt := 0 }
  let locked := bit (leAt p 0 1) 0
  let conf := bit (leAt p 0 1) 1
  if t.laneSt n = 2 then (if locked && conf then t.laneComesUp n else t)
  else if t.laneSt n = 3 ∧ !locked then t.loseLane n 3
  else if !locked then t.setCal n fun c => { c with unlocked := true }
  else t

/-- What follows a STATUS that answers a histogram frame: the window of a trial that still waits for it, a read that was not
ready sent again. -/
def State.afterStatus (s : State) (f : SbFrame) : State :=
  let n := f.lane
  match (s.lane n).cal with
  | none => s
  | some c =>
    if f.type = 2 ∧ c.phase = 1 then s.openWindow n c
    else if f.type = 3 then s.setSideband (laneGroup n) fun b => { b with queue := f :: b.queue }
    else s

/-- SIDEBAND_REPLY (R206): a reply to the frame sent last on a group. -/
def execSidebandReply (group : Fin 4) (frame : List Byte) (low : BitVec 4) (s : State) : Result :=
  let g := group.val
  match (s.sideband g).sent with
  | none => .next s
  | some f =>
    let t := s.setSideband g fun b => { b with sent := none }
    let len := leAt frame 2 1
    let good := decide (frame.length = len + 5) && (leAt frame (len + 3) 2 == crc16 (frame.take (len + 3))) &&
      (leAt frame 0 1 == 0x80 + f.lane)
    let p := (frame.drop 3).take len
    let u :=
      if !good then (t.count (F.plgSbErrsCrc g) 1).noteNoReply f true
      else if leAt frame 1 1 = 0x82 then
        (t.setLane f.lane fun l => { l with silent := 0, corrupt := 0 }).setCal f.lane fun c =>
          if c.phase = 2 then { c with phase := 3, hist := p } else c
      else (t.takeStatus f.lane p).afterStatus f
    .next (u.pumpSideband g low)

/-- REPLY_TIMEOUT (R206): no reply starts within 20 µs of the frame sent last; `met` says that a start bit is recognised in that clock. -/
def execReplyTimeout (group : Fin 4) (met : Bool) (low : BitVec 4) (s : State) : Result :=
  match (s.sideband group).sent with
  | none => .next s
  | some f => .next (if met then s else ((s.setSideband group fun b => { b with sent := none }).noteNoReply f false).pumpSideband group low)

/-- SIDEBAND_REPEAT (R206): the abandoned frame is sent again, once; a second collision leaves it unanswered. -/
def execSidebandRepeat (group : Fin 4) (low : BitVec 4) (s : State) : Result :=
  let g := group.val
  match (s.sideband g).abandoned with
  | none => .next s
  | some f =>
    let t := s.setSideband g fun b => { b with abandoned := none }
    .next (if low.getLsbD g then ((t.noteSbCollision g).noteNoReply f false).pumpSideband g low
      else (t.setSideband g fun b => { b with sent := some f }).emit (.sideband g (sbBytes f.lane f.type f.payload)))

/-! Calibration. -/

/-- CAL_REQUEST (R220, R225): a write of PLNn_CAL_CMD.REQUEST. -/
def execCalRequest (w : Writer) (lane : Fin 96) (s : State) : Result :=
  .next (s.writeBy w (R.plnCalCmd lane) fun t =>
    if t.forced lane then t.put (F.plnCalStatusLastCode lane) 0x525
    else if t.calMode (t.get (F.plnRoleOutput lane)) = 2 then t
    else t.setLane lane fun l => { l with dueReq := true })

/-- CAL_MEASURE (R227): a write of PLNn_CAL_CMD.MEASURE: one histogram at the coefficients in force. -/
def execCalMeasure (w : Writer) (lane : Fin 96) (low : BitVec 4) (s : State) : Result :=
  .next (s.writeBy w (R.plnCalCmd lane) fun t =>
    if t.laneUp lane ∧ (t.lane lane).cal.isNone then
      (t.setLane lane fun l => { l with cal := some (t.newCal lane true) }).beginTrial lane low
    else t)

/-- CAL_TRIAL_WINDOW_END (R219): the best coefficients are restored and the histogram is read; the blocks up to HIST_START have gone out by
now. A measurement has changed none (R227). -/
def execCalTrialWindowEnd (lane : Fin 96) (low : BitVec 4) (s : State) : Result :=
  match (s.lane lane).cal with
  | none => .next s
  | some c =>
    if c.phase ≠ 4 then .next s
    else
      let t := s.laneTo lane s.nowPs
      let l := t.lane lane
      let u := t.sendBlocks lane (match l.histAt with
        | some k => l.queue.length + max 1 (k + 1 - (l.sent + l.queue.length))
        | none => 0)
      let v := u.setCal lane fun c => { c with phase := 2, endAt := (u.lane lane).sent }
      .next ((if c.measure then v else v.setTaps lane c.best).sbSend (sbHistRead lane) low)

/-- CAL_HISTOGRAM_RECEIVED (R217, R218): the histogram of a trial is checked and judged. -/
def execCalHistogramReceived (lane : Fin 96) (low : BitVec 4) (s : State) : Result :=
  match (s.lane lane).cal with
  | none => .next s
  | some c =>
    if c.phase ≠ 3 then .next s
    else
      let code := histCode c c.hist
      .next (if code ≠ 0 then (s.endCal lane code c.start).raise 484 else s.judgeHist lane c c.hist low)

/-- A density span of a lane (R224): the density shown; a sparse span freezes adaptation and abandons a trial in progress, whose histogram is not used, the
best taps back in force; the first dense one lets the calibration go on with the next trial. A sparse span spoils the histogram of a measurement whose window
it reached into (R217). -/
def State.laneSpan (s : State) (n count : Nat) (low : BitVec 4) : State :=
  let o := s.get (F.plnRoleOutput n)
  let s1 := s.put (F.plnDensityDensity n) (min 255 (rhe 8 (count : Int)).toNat)
  if count ≤ s.get (F.ploCalCtrlTdMin o) * 256 then
    let s2 := if s.on (F.plnCalStatusFrozen n) then s1 else (s1.put (F.plnCalStatusFrozen n) 1).raise 483
    match (s2.lane n).cal with
    | none => s2
    | some c =>
      let into := c.phase = 4 ∨ ((c.phase = 2 ∨ c.phase = 3) ∧ 65536 * ((s2.lane n).spansDone - 1 : Nat) < 65536 + 132 * c.endAt)
      if c.phase = 0 ∨ c.phase = 5 then s2
      else if c.measure then (if into then s2.setCal n fun c => { c with sparse := true } else s2)
      else ((s2.dropFrames n).setLane n fun l => { l with cal := some { c with phase := 5 }, histAt := none }).setTaps n c.best
  else if s.on (F.plnCalStatusFrozen n) then
    let s2 := s1.put (F.plnCalStatusFrozen n) 0
    match (s2.lane n).cal with
    | some c =>
      if c.measure then s2
      else if c.phase = 5 then
        let r := c.settle (s2.calRounds o) none
        s2.nextTrial n r.1 r.2 low
      else if c.phase = 0 then s2.nextTrial n c false low
      else s2
    | none => s2
  else s1

/-- FFE_FORCE (R225): a write of PLNn_FFE_FORCE. -/
def execFfeForce (w : Writer) (lane : Fin 96) (force : Bool) (cm1 c1 c2 : BitVec 8) (s : State) : Result :=
  .next (s.writeBy w (R.plnFfeForce lane) fun t =>
    let n := lane.val
    let was := t.forced n
    let u := t.puts [(F.plnFfeForceForce n, force.toNat), (F.plnFfeForceCm1 n, cm1.toNat), (F.plnFfeForceC1 n, c1.toNat),
      (F.plnFfeForceC2 n, c2.toNat)]
    let taps : Taps := ⟨cm1.toInt, c1.toInt, c2.toInt⟩
    if !force then
      (u.put (F.plnCalStatusForceRefused n) 0).setLane n fun l =>
        { l with forceWaits := none, dueAuto := l.dueAuto || was }
    else if !taps.ok then (u.puts [(F.plnCalStatusForceRefused n, 1), (F.plnCalStatusLastCode n, 0x526)]).raise 486
    else
      let v := (u.put (F.plnCalStatusForceRefused n) 0).abortCal n
      if v.get (F.plnRoleRole n) ≠ 0 ∧ v.running (v.get (F.plnRoleOutput n)) then
        v.setLane n fun l => { l with forceWaits := some taps }
      else v.setTaps n taps)

end Sys2Proof.Machine
end

