-- ==== Sys2Proof/Machine/Relief.lean ====
section
/-!
DEFINITION. Adaptation of the chain receivers, transition density (10_lane_calibration.md), aging, and the swaps of worn units
(19_relief_and_aging.md).
-/

namespace Sys2Proof.Machine

/-! Worn chain slices (R322, R414). -/

/-- A chain slice that has become WORN (R414). -/
def State.chainWorn (s : State) (p k cause : Nat) : State :=
  let id := 5 * p + k
  if s.relief.wornChain.contains id || !s.sliceServes p k then s
  else
    let t := ({ s with relief := { s.relief with wornChain := s.relief.wornChain ++ [id] } }).raise 723
    if k = 4 ∨ (t.chainRelieved p).isSome ∨ (t.chainSwap p).isSome then t.raise 728
    else if t.sst.relief.testBit 0 then t.askChainSwap p k cause none else t

/-- CHAIN_SLICE_SWAP (R322): at a marker boundary the relief slice of port p takes the place of lane k, when a swap of it
waits. The port stays UP. -/
def execChainSliceSwap (p : Fin 3) (k : Fin 4) (s : State) : Result :=
  match s.relief.waiting.find? fun x => x.kind == 1 && x.unit == chainUnit p k with
  | none => .next s
  | some x =>
    let r := { s.relief with chain := s.relief.chain ++ [(p.val, k.val)],
                             wornChain := s.relief.wornChain.filter (· != 5 * p.val + k.val) }
    .next ((({ s with relief := r }).put (F.chnpStatusRelief p) 1).endSwap x 0)

/-! Transition density (R224, R229). -/

/-- Whether chain slice k of port p adapts: not frozen, not forced, its idle content as assumed; starved, it holds the CTLE alone (R229). -/
def State.showAdapting (s : State) (p k : Nat) : State :=
  let c := s.get (F.chnrxStatusLastCode p k)
  s.put (F.chnrxStatusAdapting p k)
    (!s.on (F.chnrxStatusFrozen p k) && !s.on (F.chnrxStatusForced p k) && c != 0x522).toNat

/-- A code of chain slice k of port p; INSUFFICIENT_STATS when it is new. -/
def State.sliceCode (s : State) (p k code : Nat) : State :=
  let was := s.get (F.chnrxStatusLastCode p k)
  ((s.put (F.chnrxStatusLastCode p k) code).showAdapting p k).raiseIf (code != 0 && was != code) 484

/-- Decision errors on idle symbols counted (R230); WORN when they advance too far within one second (R414). -/
def State.sliceErrors (s : State) (p k errors : Nat) : State :=
  if errors = 0 then s
  else
    let id := 5 * p + k
    let kept := s.relief.chainResid.filter fun e => decide (s.time.now < e.2.1 + secUnit)
    let all := kept ++ [(id, s.time.now, errors)]
    let t := ({ s with relief := { s.relief with chainResid := all } }).count (F.chnrxResidCount p k) errors
    if t.get F.rlfLaneResidMax ≤ ((all.filter (·.1 == id)).map (·.2.2)).sum then t.chainWorn p k 3 else t

/-- A span of idle symbols of a chain slice. -/
def State.sliceSpan (s : State) (p k count errors : Nat) : State :=
  if 65536 < errors * 256 then s.sliceCode p k 0x522
  else
    let s1 := (s.sliceCode p k 0).put (F.chnrxDensity p k) (min 255 (rhe 8 (count : Int)).toNat)
    let sparse := decide (count ≤ 256 * s.get (F.ploCalCtrlTdMin 0))
    let was := s1.on (F.chnrxStatusFrozen p k)
    let s2 := ((s1.put (F.chnrxStatusFrozen p k) sparse.toNat).showAdapting p k).raiseIf (sparse && !was) 483
    s2.sliceErrors p k errors

/-- The oldest span of a panel lane that has ended and was not judged (R224): the part counts what it sends. -/
def State.judgeSpan (s : State) (n : Nat) (low : BitVec 4) : State :=
  let t := if s.laneSt n = 0 then s else s.laneTo n s.nowPs
  match (t.lane n).spans with
  | [] => t
  | count :: rest => (t.setLane n fun l => { l with spans := rest, spansDone := l.spansDone + 1 }).laneSpan n count low

/-- DENSITY_SPAN_END (R224, R229): a span of 2^16 symbols ends: of a panel lane, with the transitions that the part has sent; of a chain slice,
with so many received. -/
def execDensitySpanEnd (t : SpanOf) (low : BitVec 4) (s : State) : Result :=
  match t with
  | .lane n => .next (s.judgeSpan n low)
  | .slice p k count errors => .next (if s.portSt p = 0 then s else s.sliceSpan p k count.toNat errors.toNat)

/-! Chain receive equalizers (R228 to R230). -/

/-- The equalizer of slice k of port p changed. -/
def State.setDfe (s : State) (p k : Nat) (f : DfeState → DfeState) : State :=
  { s with chain := { s.chain with dfe := updAt s.chain.dfe (5 * p + k) f } }

/-- Peaking P of slice k of port p set; a change of it restarts every accumulator of the DFE (R228). -/
def State.setCtle (s : State) (p k v : Nat) : State :=
  if s.get (F.chnrxEqCtle p k) = v then s
  else (s.put (F.chnrxEqCtle p k) v).setDfe p k fun d => { d with acc := [0, 0, 0] }

/-- CHAIN_RX_FORCE (R229): CHNp_RXk_FORCE written: its values hold, or adaptation resumes from them. -/
def execChainRxForce (w : Writer) (p : Fin 3) (k : Fin 5) (force : Bool) (eq : BitVec 28) (s : State) : Result :=
  .next (s.writeBy w (R.chnrxForce p k) fun t =>
    let u := t.puts [(F.chnrxForceForce p k, force.toNat), (F.chnrxForceEq p k, eq.toNat), (F.chnrxStatusForced p k, force.toNat)]
    (if force then (u.setCtle p k (fieldOf (F.chnrxEqCtle p k) (eq.setWidth 32))).setReg (R.chnrxEq p k) (eq.setWidth 32)
      else u).showAdapting p k)

/-- CTLE_INTERVAL (R228): 2^20 idle symbols have passed: the mean magnitudes of outer levels after a transition and after the
same level compared, and the peaking stepped; a starved slice holds it (R229). -/
def execCtleInterval (p : Fin 3) (k : Fin 5) (hf lf : Nat) (s : State) : Result :=
  if !s.on (F.chnrxStatusAdapting p k) ∨ s.portSt p = 0 ∨ s.get (F.chnrxStatusLastCode p k) = 0x524 then .next s
  else
    let c := s.get (F.chnrxEqCtle p k)
    .next (if hf * 32 < lf * 31 then s.setCtle p k (min 15 (c + 1))
      else if lf * 33 < hf * 32 then s.setCtle p k (c - 1) else s)

/-- The sign of a decided level: the levels 0 to 3 are -3, -1, +1, +3. -/
def levelSign (d : Nat) : Int := if d < 2 then -1 else 1

/-- Tap i of slice k of port p. -/
def dfeTap (p k i : Nat) : Field := if i = 0 then F.chnrxEqH1 p k else if i = 1 then F.chnrxEqH2 p k else F.chnrxEqH3 p k

/-- One idle symbol of slice k of port p (R228): the sign of its error, its decided level. Each accumulator takes the sign of the error times that of the
level i symbols ago; at ±1,024 its tap steps, and it restarts at 0. -/
def State.dfeSymbol (s : State) (p k : Nat) (e : Int) (d : Nat) : State :=
  let x := s.chain.dfe.getD (5 * p + k) ⟨[0, 0, 0], [0, 0, 0]⟩
  let sums := (List.range 3).map fun i => x.acc.getD i 0 + e * levelSign (x.past.getD i 0)
  let t := (List.range 3).foldl (fun t i =>
    let a := sums.getD i 0
    if a.natAbs < 1024 then t
    else t.put (dfeTap p k i) (ofSval 8 (clampI (-128) 127 (sval 8 (t.get (dfeTap p k i)) + a.sign)))) s
  t.setDfe p k fun x => ⟨sums.map fun a => if a.natAbs < 1024 then a else 0, d :: x.past.take 2⟩

/-- DFE_STEP (R228): idle symbols of a slice, the last of which brings an accumulator to ±1,024: for each, whether its error is positive, zero (none) or
negative, and its decided level. -/
def execDfeStep (p : Fin 3) (k : Fin 5) (symbols : List (Option Bool × Fin 4)) (s : State) : Result :=
  if !s.on (F.chnrxStatusAdapting p k) ∨ s.portSt p = 0 then .next s
  else .next (symbols.foldl (fun t x => t.dfeSymbol p k (match x.1 with
    | none => 0
    | some up => if up then 1 else -1) x.2) s)

/-- CHAIN_STATS_STARVED (R229): fewer than 2^16 idle symbols have come in 100 ms; `met` says that the last of them comes in that clock (R19). -/
def execChainStatsStarved (p : Fin 3) (k : Fin 5) (met : Bool) (s : State) : Result :=
  .next (if met ∨ s.portSt p = 0 then s else s.sliceCode p k 0x524)

/-- EYE_SCAN (R230): the auxiliary slicer has found the eye: heights and widths, lowest eye first. -/
def execEyeScan (p : Fin 3) (k : Fin 5) (heights : List (BitVec 8)) (widths : List (BitVec 16)) (s : State) : Result :=
  if s.portSt p = 0 then .next s
  else
    let h := fun i => (heights.getD i 0).toNat
    let v := fun i => (widths.getD i 0).toNat
    let t := s.puts [(F.chnrxQEye p k, h 0 * 2 ^ 8 + h 1 * 2 ^ 16 + h 2 * 2 ^ 24),
      (F.chnrxQWidth p k, v 0 + v 1 * 2 ^ 16), (F.chnrxQWidthUp p k, v 2)]
    .next (if h 1 < t.get F.rlfLaneEyeMin then t.chainWorn p k 2 else t)

/-! Reaches (R413, R416). -/

/-- REACH_WORN of reach n (R420). -/
def evReach (n : Nat) : Nat := 32 * (19 + n / 32) + n % 32

/-- A reach whose oscillator has slowed to RLF_AGE.SWAP (R413, R414). A relief reach that serves has no spare; one that a relief reach has replaced
needs none. -/
def State.reachWorn (s : State) (n : Nat) : State :=
  if s.on (F.rlfReachWorn n) then s
  else
    let t := (s.put (F.rlfReachWorn n) 1).raise (evReach n)
    if 64 ≤ n then t.raiseIf (t.on (F.rlfReachInUse n)) 728
    else if t.on (F.rlfReachReplaced n) then t
    else match t.freeReaches with
      | [] => t.raise 728
      | k :: _ => if t.sst.relief.testBit 1 then t.askReachSwap n k 1 none else t

/-- Whether a reach has become WORN, or a region begun to warn, since an earlier state. -/
def State.agedSince (s before : State) : Bool :=
  ((List.range 68).any fun n => s.on (F.rlfReachWorn n) && !before.on (F.rlfReachWorn n)) ||
    s.relief.warned.any fun r => !before.relief.warned.contains r

/-- AGING_MEASUREMENT (R413, R402): the slowdown of the 68 reach and 16 region oscillators, in 0.01 %. One that makes a reach WORN or a region warn is
stored as the AGING record (log 103). -/
def execAgingMeasurement (reaches regions : List (BitVec 16)) (s : State) : Result :=
  if s.inWinter ∨ !s.purser.serving then .next s
  else
    let s1 := (List.range (min 68 reaches.length)).foldl (fun t n =>
      let v := reaches.getD n 0
      let u := t.put (F.rlfReachSlow n) v.toNat
      if (u.get F.rlfAgeSwap : Int) ≤ v.toInt then u.reachWorn n else u) s
    let s2 := (List.range (min 16 regions.length)).foldl (fun t r =>
      let v := regions.getD r 0
      let u := t.put (F.rlfRoSlow r) v.toNat
      let high := decide ((u.get F.rlfAgeWarn : Int) ≤ v.toInt)
      let told := u.relief.warned.contains r
      let w := if high then keyInsert u.relief.warned r else u.relief.warned.filter (· != r)
      ({ u with relief := { u.relief with warned := w } }).raiseIf (high && !told) (704 + r)) s1
    .next (if s2.agedSince s then s2.storeOwn 5 (Config.agingRecord ((reaches ++ regions).map (·.toNat))) else s2)

/-! Lanes (R415) and temperature (R444). -/

/-- SWAP_LOCK_TIMEOUT (R415): 20 ms after the switch of a lane's swap moved: not ACTIVE, the swap fails; the lane is ABSENT on
the relief slice, as its listen window ends in the same clock (R203). `met` says that its good STATUS is recognised in that clock (R19). -/
def execSwapLockTimeout (lane : Fin 96) (met : Bool) (s : State) : Result :=
  match s.laneSwap lane with
  | none => .next s
  | some p => .next (if met ∨ p.stage = 0 ∨ s.laneUp lane then s else (s.listenEnds lane).endSwap p 3)

/-- THERMAL_THRESHOLD (R444): a reading of the junction temperature, in 1/16 °C: THERMAL_WARN at RLF_TEMP.WARN, THERMAL_CRIT at
125 °C, each when it is reached. -/
def execThermalThreshold (temp : BitVec 16) (s : State) : Result :=
  let warn := decide (sval 16 (s.get F.rlfTempWarn) ≤ temp.toInt)
  let crit := decide ((2000 : Int) ≤ temp.toInt)
  let t := { s.put F.rlfTempNow temp.toNat with relief := { s.relief with thermalWarn := warn, thermalCrit := crit } }
  .next ((t.raiseIf (warn && !s.relief.thermalWarn) 720).raiseIf (crit && !s.relief.thermalCrit) 721)

end Sys2Proof.Machine
end

