-- ==== Sys2Proof/Machine/HostCmd.lean ====
section
/-!
DEFINITION. The commands of the host interface: the link, configuration, BAR2, Function Level Reset, thaw and acknowledgement
(16_host_interface.md).
-/

namespace Sys2Proof.Machine

/-- The host interface changed. -/
def State.setHost (s : State) (f : HostState → HostState) : State := { s with host := f s.host }

/-- Function f's configuration changed. -/
def State.setFn (s : State) (f : Nat) (g : FnConfig → FnConfig) : State :=
  s.setHost fun h => { h with fns := updAt h.fns f g }

/-! The link (R351, R362). -/

/-- Messages that function f may send after a change of its enables. -/
def State.wake (s : State) (f : Nat) (before : Bool) : State := if !before && s.fnSends f then s.sendWaiting f else s

/-- Whether a rate in MT/s, a width and flit mode are a row of R351. -/
def linkRowOk (rate width : Nat) (flit : Bool) : Bool :=
  [2500, 5000, 8000, 16000, 32000, 64000].contains rate && [1, 2, 4, 8].contains width && (rate != 64000 || flit)

/-- LINK_TRAINED (R351, R373): training has ended in L0 at a rate, a width, in flit mode or not. -/
def execLinkTrained (rate width : Nat) (flit : Bool) (s : State) : Result :=
  if !linkRowOk rate width flit ∨ s.host.perst ∨ s.power.off then .next s
  else
    let h := s.host
    let changed := h.trainedBefore && (h.rate != rate || h.width != width || h.flitMode != flit)
    let t := s.setHost fun h =>
      { h with linkUp := true, rate := rate, width := width, active := width, flitMode := flit, trainedBefore := true, inL1 := false }
    let u := (List.range 32).foldl (fun v f => v.wake f (s.fnSends f)) t
    .next ((u.raise 32).raiseIf changed 34)

/-- LINK_FAILURE (R373): the link leaves L0 other than for a power state. -/
def execLinkFailure (s : State) : Result :=
  if !s.host.linkUp then .next s
  else .next ((s.setHost fun h => { h with linkUp := false, inL1 := false, reads := [] }).raise 33)

/-- The latency in ns that the part tolerates, as its LTR messages report it. -/
def State.tolerance (s : State) : Nat := if s.anyChanBusy then 20000 else 1000000

/-- The deepest substate of L1 that is enabled: L1.2 when the latency reported lets the link enter it. -/
def State.l1Substate (s : State) : Nat :=
  let a := s.host.aspm
  if a.l12 && (!(s.fnCfg 0).ltrEnable || decide (a.threshold ≤ s.tolerance)) then 2 else if a.l11 then 1 else 0

/-- ASPM_L1_ENTRY (R362): the part has no TLP to send and L1 is enabled: the link rests in its deepest enabled substate. -/
def execAspmL1Entry (s : State) : Result :=
  .next (if s.host.linkUp && s.host.aspm.l1 then s.setHost fun h => { h with inL1 := true, sub := s.l1Substate } else s)

/-! BAR2 (R359, R367, R394). -/

/-- The read that an access begins: its bytes from the one the rotate names. -/
def barReadOf (f : Nat) (a : HoldAccess) (len : Nat) : BarRead := ⟨f, wordOf a.addr.toNat + a.rotate.val, len, []⟩

/-- An access of a host function discarded: a read ends with all-ones data. -/
def State.discardHost (s : State) (f : Nat) (a : HoldAccess) (len : Nat) : State :=
  if a.write then s
  else
    let r := barReadOf f a len
    s.completeRead { r with got := (wordsTouched r.start r.len).map fun w => (w, 0, List.replicate 32 0xFF) }

/-- A host read at the bank gates: one access for each of its words, in ascending order. -/
def State.readBar (s : State) (f : Nat) (a : HoldAccess) (arb : Arbitration) (len : Nat) (more : List Arbitration) : State :=
  let r := barReadOf f a len
  let t := s.setHost fun h => { h with reads := h.reads ++ [r] }
  (List.range (wordsTouched r.start r.len).length).foldl (fun t i =>
    t.presentAccess { a with addr := a.addr + BitVec.ofNat 30 (32 * i), rotate := if i = 0 then a.rotate else 0 }
      ((arb :: more).getD i { arb with others := [] })) t

/-- BAR2_ACCESS (R352, R359): an access of function f through BAR2, made by its master; dropped and counted in Winter, and in a Thaw
where its group is not ready; a frozen function's is discarded, a violation among them setting MORE. -/
def execBar2Access (f : Fin 32) (a : HoldAccess) (arb : Arbitration) (len : Fin 4097) (more : List Arbitration) (s : State) : Result :=
  if !s.answers (.fn f) ∨ !s.host.linkUp then .next s
  else
    let t := s.setHost fun h => { h with inL1 := false }
    let x := { a with master := BitVec.ofNat 8 (0x40 + f.val) }
    if s.inWinter || s.hold.unready.contains (bankOf a.addr.toNat / 16) then .next ((t.winterDrop).discardHost f a len)
    else if s.frozen (0x40 + f.val) then
      .next ((if s.mayHold (0x40 + f.val) (bankOf a.addr.toNat) a.write then t
        else t.violate (0x40 + f.val) (t.barCode (0x40 + f.val) a.addr.toNat a.write) a.addr.toNat a.write).discardHost f a len)
    else .next (if a.write then t.presentAccess x arb else t.readBar f x arb len more)

/-! Configuration (R352 to R356, R360, R383). -/

/-- The configuration of function f as a reset leaves it, its MSI-X table masked, its PBA empty. -/
def State.resetFn (s : State) (f : Nat) : State :=
  (s.setFn f fun _ => FnConfig.reset).setHost fun h =>
    { h with
        reads := h.reads.filter (·.fn != f)
        unmasked := h.unmasked.filter fun v => vectorFn v != f
        entries := h.entries.filter fun e => vectorFn e.vector != f
        pba := h.pba.filter fun v => vectorFn v != f }

/-- Every VF removed. -/
def State.dropVfs (s : State) : State :=
  ((List.range 31).foldl (fun t i => t.resetFn (i + 1)) s).setHost fun h => { h with vfEnable := false }

/-- An MSI-X table entry with its address and data written. -/
def putEntry (l : List MsixEntry) (e : MsixEntry) : List MsixEntry := e :: l.filter (·.vector != e.vector)

/-- A write of the MSI-X table of function f through BAR4 (R357, R394): it meets what every BAR access meets. -/
def State.tableEntryWrite (s : State) (f v : Nat) (k : State → State) : State :=
  if !s.answers (.fn (Fin.ofNat 32 f)) || vectorFn v != f then s else if s.inWinter then s.winterDrop else k s

/-- CONFIG_WRITE (R354 to R357, R360, R362, R384): a configuration write to function f, or a write of its MSI-X table. A field of a
capability that the function lacks does not exist (R355). -/
def execConfigWrite (f : Fin 32) (c : ConfigChange) (s : State) : Result :=
  if !s.fnExists f ∨ s.power.off ∨ s.host.perst then .next s
  else
    let n := f.val
    let before := s.fnSends n
    match c with
    | .command m b => .next ((s.setFn n fun x => { x with memSpace := m, busMaster := b }).wake n before)
    | .power d => .next ((s.setFn n fun x => { x with d3hot := d }).wake n before)
    | .msix e k =>
      let t := (s.setFn n fun x => { x with msixEnable := e, fnMask := k }).wake n before
      .next (if k then t else t.sendHeld (fnVectors n))
    | .sizes p r => .next (s.setFn n fun x => { x with maxPayload := 128 * 2 ^ p.val, maxReadReq := 128 * 2 ^ r.val })
    | .tags m => .next (s.setFn n fun x => { x with tagMode := m })
    | .ltr e => .next (if (capAt n 0x200).isNone then s else s.setFn n fun x => { x with ltrEnable := e })
    | .aspm l1 l11 l12 k =>
      .next (if (capAt n 0x210).isNone then s else s.setHost fun h => { h with aspm := ⟨l1, l11, l12, k⟩ })
    | .l0p k => .next (if n ≠ 0 ∨ !s.host.flitMode then s else s.setHost fun h => { h with active := min h.width (2 ^ k.val) })
    | .sriov e k =>
      .next (if (capAt n 0x1A0).isNone then s
        else if e then s.setHost fun h => { h with vfEnable := true, numVfs := min totalVfs k.toNat }
        else s.dropVfs.setHost fun h => { h with numVfs := min totalVfs k.toNat })
    | .bar i a => .next (if n ≠ 0 then s else s.setHost fun h => { h with pfBars := updAt h.pfBars i fun _ => barBase i a.toNat })
    | .vfBar i a => .next (if n ≠ 0 then s else s.setHost fun h => { h with vfBars := updAt h.vfBars i fun _ => barBase i a.toNat })
    | .pageSize k => .next (if n ≠ 0 then s else s.setHost fun h => { h with pageSize := k.toNat })
    | .bus b => .next (if n ≠ 0 then s else s.setHost fun h => { h with bus := b.toNat })
    | .aer c u => .next (s.setFn n fun x =>
      { x with aerCor := x.aerCor &&& (0xFFFFFFFF - c.toNat), aerUnc := x.aerUnc &&& (0xFFFFFFFF - u.toNat) })
    | .maskVector v =>
      .next (s.tableEntryWrite n v fun t => t.setHost fun h => { h with unmasked := h.unmasked.filter (· != v.val) })
    | .entry v a d =>
      .next (s.tableEntryWrite n v fun t => t.setHost fun h => { h with entries := putEntry h.entries ⟨v, a.toNat, d.toNat⟩ })

/-- MSIX_VECTOR_UNMASK (R357, R383): the Mask bit of a vector cleared through BAR4: a message held for it goes out. -/
def execMsixVectorUnmask (v : Fin 2048) (s : State) : Result :=
  .next (s.tableEntryWrite (vectorFn v) v fun t => (t.setHost fun h => { h with unmasked := keyInsert h.unmasked v }).sendHeld [v])

/-! Thaw and Function Level Reset (R363, R370, R371). -/

/-- The cause entry of a master cleared. -/
def State.clearCause (s : State) (m : Nat) : State :=
  ((((s.puts [(F.mstFreezeCauseCode m, 0), (F.mstFreezeCauseMore m, 0)]).setReg (R.mstCauseAddrLo m) 0).setReg (R.mstCauseAddrHi m) 0).setReg
    (R.mstCauseDetail m) 0)

/-- A master thawed, as its own chapter sets down. -/
def State.thawMaster (s : State) (m : Nat) : State :=
  let t := s.setFrozen m false
  if 0x10 ≤ m ∧ m < 0x30 then t.dmaThaw (m - 0x10)
  else if 0x08 ≤ m ∧ m < 0x0C then t.eddyThaw (m - 0x08)
  else if 0x60 ≤ m ∧ m < 0xA4 then t.settleReaches
  else t

/-- Whether an ID is an assigned master's that can be frozen. -/
def thawable (m : Nat) : Bool :=
  (decide (8 ≤ m) && decide (m < 0x0C)) || (decide (0x10 ≤ m) && decide (m < 0x30)) || (decide (0x40 ≤ m) && decide (m < 0xA4)) ||
    (decide (0xB0 ≤ m) && decide (m < 0xB3)) || (decide (0xC0 ≤ m) && decide (m < 0xC4))

/-- A violation that meets a thaw or an ACK prevails (R371): its cause is latched anew, MORE as it stood, and a trusted master's raises
TRUSTED_FAULT (R366). -/
def State.meetViolation (s : State) (m : Nat) (v : Meeting) : State :=
  let t := s.latchCause m v.code.toNat v.addr.toNat v.write v.src.toNat
  if 1 ≤ m ∧ m ≤ 3 then t.raise 70
  else if s.frozen m then t
  else s.violate m v.code.toNat v.addr.toNat v.write v.src.toNat

/-- MST_THAW (R370, R371): MST_THAW written: the master is thawed, or the thaw is refused with a code. -/
def execMstThaw (w : Writer) (id : BitVec 8) (meets : Option Meeting) (s : State) : Result :=
  .next (s.writeBy w R.mstThaw fun t0 =>
    let m := id.toNat
    let t := t0.puts [(F.mstThawId, m), (F.mstThawStatusLastId, m)]
    let refuse := fun (u : State) (code : Nat) => (u.put F.mstThawStatusLastCode code).raise 72
    match meets with
      | some v =>
        if thawable m then refuse (t.meetViolation m v) 0x212
        else refuse (if 1 ≤ m ∧ m ≤ 3 then t.violate m v.code.toNat v.addr.toNat v.write v.src.toNat else t) 0x213
      | none =>
        if !thawable m then refuse t 0x213
        else if !t.frozen m then refuse t 0x211
        else if t.get (F.mstFreezeCauseCode m) ≠ 0 then refuse t 0x210
        else ((t.thawMaster m).put F.mstThawStatusLastCode 0).raise 71)

/-- CAUSE_ACK (R370, R371): ACK of a master's cause entry written with 1; a violation in the same clock prevails. -/
def execCauseAck (w : Writer) (m : BitVec 8) (meets : Option Meeting) (s : State) : Result :=
  .next (s.writeBy w (R.mstFreezeCause m.toNat) fun t =>
    match meets with
    | some v => if thawable m.toNat || (decide (1 ≤ m.toNat) && decide (m.toNat ≤ 3)) then t.meetViolation m.toNat v else t.clearCause m.toNat
    | none => t.clearCause m.toNat)

/-- The effects of a reset of function n (R363): its configuration, its freeze and cause, the transfers of its channels; the VFs of PF0. -/
def State.resetFunction (s : State) (n : Nat) : State :=
  let s1 := s.resetFn n
  let s2 := if s1.frozen (0x40 + n) then (s1.setFrozen (0x40 + n) false).clearCause (0x40 + n) else s1.clearCause (0x40 + n)
  let s3 := (List.range 32).foldl (fun t ch =>
    if t.get (F.dmaFuncFunc ch) == n && t.get (F.dmaStatusState ch) == 1 then (t.abortRun ch).dmaGo t else t) s2
  if n = 0 then s3.dropVfs.setHost fun h =>
    { h with aspm := L1Config.reset, numVfs := 0, pageSize := 1, bus := 0, pfBars := [0, 0, 0], vfBars := [0, 0, 0] }
  else s3

/-- FUNCTION_LEVEL_RESET (R363): a reset of function f begins. -/
def execFunctionLevelReset (f : Fin 32) (s : State) : Result :=
  if !s.fnExists f ∨ s.power.off then .next s
  else .next ((s.resetFunction f).setFn f fun x => { x with flrBusy := true })

/-- FLR_COMPLETE (R363): the Function Level Reset of function f completes. -/
def execFlrComplete (f : Fin 32) (s : State) : Result :=
  if !(s.fnCfg f).flrBusy then .next s
  else .next ((s.setFn f fun x => { x with flrBusy := false }).raise 38)

end Sys2Proof.Machine
end

