-- ==== Sys2Proof/Machine/Views.lean ====
section
/-!
DEFINITION. What a read of a register returns (R8, R9): the word held for it, or, where the part forms the value as it is
read, that value.
-/

namespace Sys2Proof.Machine

/-- CHN_TBL_MGMT for an address: whether the management view knows it, its flag, its best route. -/
def State.tblMgmt (s : State) (a : Nat) : Nat :=
  (match s.mgmtBest a with
    | some r => 2 ^ 31 + (r.port % 4) * 2 ^ 24 + (min 255 r.hops) * 2 ^ 16
    | none => 0) + (s.chain.disagree.contains a).toNat * 2 ^ 30

/-- CHN_TBL_DATA for an address: whether the data view is live, the port and hops of its last flit, its age in ms. -/
def State.tblData (s : State) (a : Nat) : Nat :=
  match s.dataView a with
  | some d => 2 ^ 31 + (d.port % 4) * 2 ^ 24 + (min 255 d.hops) * 2 ^ 16 + min 65535 ((s.time.ticks - d.at_) / 250000)
  | none => 0

/-- PLNn_RETRY_MS: the ms left to the next retry of an ABSENT lane (R203). -/
def State.retryMs (s : State) (n : Nat) : Nat :=
  match (s.lane n).retryAt with
  | some t => if s.laneSt n = 4 then ceilDiv (t - s.time.ticks) 250000 else 0
  | none => 0

/-- The value that a read of the register at a key returns, RC fields not yet cleared. -/
def State.readReg (s : State) (a : Nat) : Word :=
  if a = R.timeNsLo then BitVec.ofNat 32 (s.time.now / nsUnit)
  else if a = R.timeNsHi ∨ a = R.timeFrac then sparseGet 0 s.high a
  else if a = R.timeSlew then BitVec.ofInt 32 (clampI (-2147483648) 2147483647 (s.time.slew.tdiv (nsUnit : Int)))
  else if a = R.pursInfo then Config.pursInfo
  else if a = R.chnSerialLo then BitVec.ofNat 32 Config.serial.toNat
  else if a = R.chnSerialHi then BitVec.ofNat 32 (Config.serial.toNat / 2 ^ 32)
  else if a = R.chnTblMgmt then BitVec.ofNat 32 (s.tblMgmt (s.get F.chnTblIndexAddr))
  else if a = R.chnTblData then BitVec.ofNat 32 (s.tblData (s.get F.chnTblIndexAddr))
  else if R.calOtp 0 ≤ a ∧ a < R.calStatus then Config.otpWord s.otp.fusings ((a - R.calOtp 0) / 4)
  else if R.plnCtrl 0 ≤ a ∧ a < R.plnCtrl 96 then
    let n := (a - R.plnCtrl 0) / 0x400
    if a = R.plnRetryMs n then BitVec.ofNat 32 (s.retryMs n)
    else if a = R.plnCalAge n then BitVec.ofNat 32 (s.calAge n)
    else if a = R.plnCalStatus n then withField (F.plnCalStatusDue n) (s.reg a) (s.laneDue n).toNat
    else s.reg a
  else if R.tgCtrl 0 ≤ a ∧ a < R.tgCtrl 4 ∧ a = R.tgFrameIdHi ((a - R.tgCtrl 0) / 0x10000) then sparseGet 0 s.high a
  else s.reg a

/-- A read of a register's word as a number. -/
def State.word (s : State) (a : Nat) : Nat := (s.readReg a).toNat

end Sys2Proof.Machine
end

