-- ==== Sys2Proof/Machine/Purser.lean ====
section
/-!
DEFINITION. The Purser: its queue of mailbox commands, its restarts, and the Manifest (17_purser_events_manifest.md).
-/

namespace Sys2Proof.Machine

/-- The Purser's state changed. -/
def State.setPurser (s : State) (f : PurserState → PurserState) : State := { s with purser := f s.purser }

/-! The Manifest (R387 to R389). -/

/-- Bytes filled up with zeros, or cut, to a length. -/
def padTo (n : Nat) (l : List Byte) : List Byte := (l ++ List.replicate (n - l.length) 0).take n

/-- The power state the header reports: Slack from SLACK_ENTERED to SLACK_EXITED, else Run; of a transition to or from Winter the
state it leads to. -/
def State.manifestPower (s : State) : Nat :=
  match s.powerState with
  | 1 => 1
  | 3 => 1
  | 4 => s.power.thawTarget
  | 6 => s.power.thawTarget
  | _ => 0

/-- The 64 bytes of output n. -/
def State.manifestOutput (s : State) (n : Nat) : List Byte :=
  let ready := ofBits ((List.range 4).map (s.slotReady n))
  let w0 := s.get (F.tgCtrlEn n) + 2 * s.get (F.tgStatusRun n) + 4 * s.get (F.tgStatusBlankFrame n) + 16 * s.get (F.tgCtrlPace n) +
    2 ^ 8 * s.get (F.tgLockStatusState n) + 2 ^ 16 * s.rung n + 2 ^ 24 * s.curSlot n + 2 ^ 28 * ready
  padTo 64 (bytesOfWords ([BitVec.ofNat 32 w0, s.reg (R.tgHraster n), s.reg (R.tgVraster n), s.reg (R.tgRateNum n), s.reg (R.tgRateDen n),
    s.reg (R.tgFrameIdLo n), s.reg (R.tgFrameIdHi n), s.reg (R.tgLastGo n), BitVec.ofNat 32 (s.cfg n).seq, s.reg (R.tgPhaseErr n),
    BitVec.ofNat 32 (s.get (F.scnDchgStatusState n) + 16 * s.get (F.scnSrcStatusCause n) + 2 ^ 8 * s.get (F.tgStatusModeCause n) +
      2 ^ 12 * s.get (F.scnLadderStatusCause n)),
    s.reg (R.scnRgnStatus n)]))

/-- The 8 bytes of panel lane n. -/
def State.manifestLane (s : State) (n : Nat) : List Byte :=
  leBytes 1 (s.laneSt n + 16 * s.get (F.plnStatusFault n)) ++
  leBytes 1 (s.get (F.plnStatusRelief n) + 2 * s.get (F.plnStatusReliefSlot n) + 8 * (s.laneDue n).toNat +
    16 * s.get (F.plnCalStatusFrozen n) + 32 * s.get (F.plnFfeForceForce n)) ++
  leBytes 1 (s.get (F.plnQEyeHMid n)) ++ leBytes 1 (s.get (F.plnRoleOutput n) + 4 * s.get (F.plnRoleRole n)) ++
  leBytes 2 (s.get (F.plnQWidthWMid n)) ++ leBytes 2 (min 65535 (s.get (F.plnResidCount n)))

/-- The 4 bytes of receive slice k of chain port p. -/
def State.manifestSlice (s : State) (p k : Nat) : List Byte :=
  leBytes 4 ((s.reg (R.chnrxEq p k)).toNat % 2 ^ 28 + 2 ^ 28 * s.get (F.chnrxStatusFrozen p k) + 2 ^ 29 * s.get (F.chnrxStatusForced p k))

/-- The 16 bytes of DMA channel n. -/
def State.manifestDma (s : State) (n : Nat) : List Byte :=
  leBytes 1 (s.get (F.dmaStatusState n) + 8 * s.get (F.dmaStatusHeld n) + 16 * s.get (F.dmaStatusFrozen n) +
    32 * s.get (F.dmaStatusDescending n)) ++ leBytes 1 (s.get (F.dmaFuncFunc n)) ++ leBytes 2 (s.get (F.dmaStatusLastCode n)) ++
  leBytes 4 (s.word (R.dmaCurLo n)) ++ leBytes 4 (s.word (R.dmaCurHi n)) ++ leBytes 4 (s.word (R.dmaResidue n))

/-- The 16 bytes of the cause latched for master m. -/
def State.manifestCause (s : State) (m : Nat) : List Byte :=
  leBytes 1 m ++ leBytes 1 (s.get (F.mstFreezeCauseFrozen m) + 2 * s.get (F.mstFreezeCauseMore m)) ++
  leBytes 2 (s.get (F.mstFreezeCauseCode m)) ++ leBytes 4 (s.word (R.mstCauseAddrLo m)) ++ leBytes 4 (s.word (R.mstCauseAddrHi m)) ++
  leBytes 4 (s.word (R.mstCauseDetail m))

/-- The 8 bytes of a chain address. -/
def State.manifestAddr (s : State) (a : Nat) : List Byte :=
  let m := s.mgmtBest a
  let d := s.dataView a
  leBytes 2 a ++ leBytes 2 (m.isSome.toNat + 2 * d.isSome.toNat + 4 * (s.chain.disagree.contains a).toNat) ++
  leBytes 1 ((m.map (·.port)).getD 0) ++ leBytes 1 (min 255 ((m.map (·.hops)).getD 0)) ++ leBytes 1 ((d.map (·.port)).getD 0) ++
  leBytes 1 (min 255 ((d.map (·.hops)).getD 0))

/-- Relief in use: 64 bytes. -/
def State.manifestRelief (s : State) : List Byte :=
  padTo 64 (((List.range 4).map fun g => leBytes 4 (s.word (R.plgRelief g))).flatten ++
    padTo 4 ((List.range 3).map fun p => match s.chainRelieved p with
      | some k => BitVec.ofNat 8 (0x80 + k)
      | none => 0) ++
    ((List.range 4).map fun k => BitVec.ofNat 8 (0x80 * s.get (F.rlfReachInUse (64 + k)) + s.get (F.rlfReachReplaces (64 + k)))) ++
    leBytes 4 (s.get F.holdRepairStatusBanksFree + 256 * s.relief.pll.isSome.toNat) ++ leBytes 4 (s.get F.rlfSwapsCount))

/-- The masters with a latched cause, lowest first. -/
def State.latched (s : State) : List Nat := (List.range 256).filter fun m => s.get (F.mstFreezeCauseCode m) != 0

/-- The banks with a ferry in flight, lowest first, with their targets. -/
def State.ferriesUp (s : State) : List (Nat × Nat) :=
  (List.range 256).filterMap fun b => (s.hold.ferries.find? (·.bank == b)).map fun f => (b, f.target)

/-- The chain addresses of either view, flagged ones first, each part ascending. -/
def State.chainAddrs (s : State) : List Nat :=
  let flagged := s.chain.disagree.foldl keyInsert []
  let rest := ((s.chain.mgmt.map (·.addr)) ++ s.chain.data.map (·.addr)).foldl keyInsert []
  flagged ++ rest.filter fun a => !flagged.contains a

/-- A bitmap of 256 bits as 32 bytes. -/
def bitmap (f : Nat → Bool) : List Byte := leBytes 32 (ofBits ((List.range 256).map f))

/-- The 64 bytes of the header, all gathered at one time. -/
def State.manifestHead (s : State) (causes ferries entries : Nat) : List Byte :=
  let now := s.time.now
  let at' := leBytes 4 (now / nsUnit) ++ leBytes 4 (now / 2 ^ 64) ++ leBytes 4 now
  leBytes 4 0x464E414D ++ leBytes 4 0x0100 ++ leBytes 4 ((s.get F.glbManifestStatusSeq + 1) % 65536) ++
  leBytes 4 (s.get F.glbStateState + 16 * s.manifestPower + 0xC200 + 2 ^ 16 * s.get F.pursStatusRestarts) ++
  leBytes 4 (s.word R.sstActiveSeq) ++ leBytes 4 (s.word R.sstPending) ++ leBytes 4 (s.word R.pursInfo) ++
  leBytes 4 (min 14 causes + 2 ^ 8 * min 16 ferries + 2 ^ 16 * min 150 entries + 2 ^ 24 * (decide (14 < causes)).toNat +
    2 ^ 25 * (decide (16 < ferries)).toNat + 2 ^ 26 * (decide (150 < entries)).toNat) ++
  at' ++ at' ++ leBytes 2 s.epoch ++ leBytes 2 s.epoch ++ leBytes 4 0

/-- The first 0xFFC bytes of the Manifest. -/
def State.manifestBody (s : State) : List Byte :=
  let causes := s.latched
  let ferries := s.ferriesUp
  let entries := s.chainAddrs
  padTo 0x0FFC (
    s.manifestHead causes.length ferries.length entries.length ++
    ((List.range 4).map s.manifestOutput).flatten ++
    ((List.range 96).map s.manifestLane).flatten ++
    ((List.range 3).map fun p => leBytes 4 (s.word (R.chnpStatus p)) ++ leBytes 4 (s.word (R.chnpFecUncorr p))).flatten ++
    padTo 0x68 (((List.range 15).map fun i => s.manifestSlice (i / 5) (i % 5)).flatten) ++
    ((List.range 32).map s.manifestDma).flatten ++
    ((List.range 256).map fun b => BitVec.ofNat 8 (s.owner b)) ++
    bitmap (fun b => s.on (F.holdFerryPending b)) ++
    padTo 32 (((ferries.take 16).map fun f => [BitVec.ofNat 8 f.1, BitVec.ofNat 8 f.2]).flatten) ++
    bitmap s.frozen ++
    padTo 0xE0 (((causes.take 14).map s.manifestCause).flatten) ++
    padTo 64 (bytesOfWords [s.reg R.timeStatus, s.reg R.timeEpoch, s.reg R.timeOffset, s.reg (R.timeDelay 0), s.reg (R.timeDelay 1),
      s.reg (R.timeDelay 2), s.reg R.timeLtciStatus]) ++
    bytesOfWords [s.reg R.chnAddr, s.reg R.chnTopo, s.reg R.chnBoardStatus, BitVec.ofNat 32 s.chain.disagree.length] ++
    padTo 0x4B0 (((entries.take 150).map s.manifestAddr).flatten) ++
    ((List.range 16).map fun k => leBytes 4 (s.word (R.calSeq k))).flatten ++
    s.manifestRelief ++
    ((List.range 24).map fun g => leBytes 4 (s.word (R.evtStatus g))).flatten)

/-- The 4,096 bytes of the Manifest (R389). -/
def State.manifestBytes (s : State) : List Byte := s.manifestBody ++ leBytes 4 (crc32c s.manifestBody)

/-- Bytes written to the host under PF0's requester ID, and the flush read of their last DWORD (R387, R268). -/
def State.purserWrite (s : State) (a : Nat) (l : List Byte) : State :=
  if l.isEmpty then s
  else (s.hostWrites 0 a l).toHost (.hostRead 0 ((a + l.length - 1) / 4 * 4) 4)

/-- A Manifest request ended with a RESULT other than 0. -/
def State.manifestFail (s : State) (result : Nat) : State :=
  ((s.setPurser fun p => { p with manifest := none, flushing := false }).puts
    [(F.glbManifestStatusBusy, 0), (F.glbManifestStatusResult, result)]).raise 593

/-- The Manifest under way gathered, written and its flush read issued; without Bus Master Enable it fails. -/
def State.gather (s : State) : State :=
  match s.purser.manifest with
  | none => s
  | some a =>
    if !(s.fnCfg 0).busMaster then s.manifestFail 1
    else ((s.purserWrite a s.manifestBytes).npPart 1).setPurser fun p => { p with flushing := true }

/-- The request that waits taken up, when the Purser serves and gathers no other. -/
def State.takeManifest (s : State) : State :=
  match s.purser.manifestWaiting with
  | none => s
  | some a =>
    if !s.purser.serving || s.purser.manifest.isSome then s
    else ((s.setPurser fun p => { p with manifest := some a, manifestWaiting := none }).puts
      [(F.glbManifestStatusWaiting, 0), (F.glbManifestStatusBusy, 1)]).gather

/-- MANIFEST_REQUEST (R387): a write of GLB_MANIFEST_REQ with GO = 1: the request is taken up, or waits in place of one that
waits. -/
def execManifestRequest (w : Writer) (addr : BitVec 20) (s : State) : Result :=
  .next (s.writeBy w R.glbManifestReq fun t =>
    let u := t.put F.glbManifestReqAddr addr.toNat
    let a := 0x1000 * addr.toNat + 2 ^ 32 * u.get F.glbManifestAddrHiAddr
    ((u.setPurser fun p => { p with manifestWaiting := some a }).put F.glbManifestStatusWaiting 1).takeManifest)

/-- MANIFEST_FLUSH_COMPLETE (R387): the flush read of the Manifest has completed, or a bus error has met its writes; the next
request is taken up. -/
def execManifestFlushComplete (ok : Bool) (s : State) : Result :=
  if !s.purser.flushing then .next s
  else
    let s := s.npPart (-1)
    let t := if ok then
        ((s.setPurser fun p => { p with manifest := none, flushing := false }).puts
          [(F.glbManifestStatusBusy, 0), (F.glbManifestStatusResult, 0), (F.glbManifestStatusSeq, s.get F.glbManifestStatusSeq + 1)]).raise
          592
      else s.manifestFail 2
    .next t.takeManifest

/-! Mailboxes (R376 to R380). -/

/-- DOORBELL_RING (R377): a write of PURSk_DOORBELL with RING = 1: the slot joins the queue; a BUSY slot refuses it. -/
def execDoorbellRing (w : Writer) (k : Fin 16) (s : State) : Result :=
  .next (s.writeBy w (R.pursmDoorbell k) fun t =>
    if t.on (F.pursmStatusBusy k) then t.raise 594
    else (t.puts [(F.pursmStatusBusy k, 1), (F.pursmStatusDone k, 0), (F.pursmStatusQueued k, 1)]).setPurser fun p =>
      { p with queue := p.queue ++ [(k.val, masterOf w)] })

/-- MAILBOX_TAKE_UP (R377): the Purser takes up the slot whose doorbell came first. -/
def execMailboxTakeUp (s : State) : Result :=
  match s.purser.queue with
  | [] => .next s
  | (k, m) :: rest =>
    .next (if !s.purser.serving || s.purser.current.isSome then s
      else (s.put (F.pursmStatusQueued k) 0).setPurser fun p => { p with queue := rest, current := some k, caller := m, begun := false })

/-- What a slot's command has set going stops at its next safe point (R378): a store or a clear that runs goes on with nobody waiting for it, one
that waits and a swap that has not begun are given up. -/
def State.detach (s : State) (k : Nat) : State :=
  { s with
    cal := { s.cal with jobs := (s.cal.jobs.take 1).map (fun j => if j.origin == StoreOrigin.mailbox k then { j with origin := .part } else j) ++
      (s.cal.jobs.drop 1).filter (fun j => j.origin != StoreOrigin.mailbox k) }
    hold := { s.hold with repairSlot := if s.hold.repairSlot == some k then none else s.hold.repairSlot }
    relief := { s.relief with
      waiting := (s.relief.waiting.filter fun p => !(p.slot == some k && p.stage == 0)).map fun p =>
        if p.slot == some k then { p with slot := none } else p } }

/-- MAILBOX_TIMEOUT (R378): the command taken up has not completed in PURS_MBOX_TIMEOUT ms: it ends with TIMEOUT,
unless it completed in that very clock (R19). -/
def execMailboxTimeout (met : Bool) (s : State) : Result :=
  match s.purser.current with
  | none => .next s
  | some k => if met then .next s else .next (((s.detach k).raise 595).mboxDone k 4 0 [])

/-! Restarts (R375). -/

/-- PURSER_WATCHDOG (R375): the Purser restarts: mailbox commands end with ABORTED, stores and calibrations in progress are
abandoned, a Boarding and the discipline interval too. -/
def execPurserWatchdog (s : State) : Result :=
  if !s.purser.serving then .next s
  else
    let slots := s.purser.current.toList ++ s.purser.queue.map (·.1)
    let s1 := slots.foldl (fun t k => (t.detach k).mboxDone k 5 0 []) s
    let s2 := (s1.setPurser fun p => { p with serving := false, queue := [], current := none, begun := false, flushing := false }).put
      F.pursStatusRunning 0
    let s3 := (((if s.purser.flushing then s2.npPart (-1) else s2).count F.pursStatusRestarts 1).raise 596).abandonStores
    let s4 := (List.range 96).foldl State.abortCal s3
    let s5 := if s4.on F.chnBoardStatusBusy then s4.boardEnd (if s4.chain.conflict then 0x544 else 0x541) else s4
    let s6 := { s5 with chain := { s5.chain with conflict := false, onC := false, heldRoot := none } }
    .next (s6.setTime fun x => { x with samples := [], ptmOpen := false, ptmPrev := none })

/-- The Purser serving: a Manifest it was gathering is gathered anew, one that waits is taken up. -/
def State.serve (s : State) : State :=
  let t := (s.setPurser fun p => { p with serving := true }).put F.pursStatusRunning 1
  (if t.purser.manifest.isSome then t.gather else t).takeManifest

/-- PURSER_RESTART_COMPLETE (R375, R402): the Purser serves again, and stores its log (log 103). -/
def execPurserRestartComplete (s : State) : Result :=
  .next (if s.purser.serving || s.power.off || s.power.fabricOff || s.get F.glbStateState == 0 then s
    else s.serve.storeOwn 7 (Config.purserLog (s.get F.pursStatusRestarts)))

end Sys2Proof.Machine
end

