-- ==== Sys2Proof/Machine/Tg.lean ====
section
/-!
DEFINITION. The commands of the timing generators: starting and stopping, frames, lines, Landings, genlock
(07_timing_generators_and_landing.md; lines as 08 and 09 place them).
-/

namespace Sys2Proof.Machine

/-- Genlock state of output n changed. -/
def State.setSync (s : State) (n : Nat) (f : SyncState → SyncState) : State :=
  s.setOut n fun o => { o with sync := f o.sync }

/-- The frames from one aligned edge to the next, of a timing at a refresh (R153, R172): a reference period has DIV periods of the timing. -/
def State.alignEvery (s : State) (n : Nat) (t : Timing) (r : Nat × Nat) : Nat :=
  if t.pace = 2 then 1 else max 1 (syncDiv s.act n * t.den * r.1 / max 1 (t.num * r.2))

/-- The pacing of output n begun anew for its active PACE; without usable chain time PACE 2 begins in HOLDOVER (R157). -/
def State.resetPacing (s : State) (n : Nat) : State :=
  let pace := s.act (F.tgCtrlPace n)
  ((s.setSync n fun y => { SyncState.reset with
    frameEdge := y.frameEdge, alignedEdge := y.frameEdge, origin := y.frameEdge, startAt := y.startAt,
    every := s.alignEvery n (s.timingNow n) (s.rateNow n) }).puts
    [(F.tgLockStatusMissed n, 0), (F.tgFreqTrimTrim n, 0)]).setLock n
      (if pace = 0 then 0 else if pace = 2 ∧ !s.timeUsable then 3 else 1)

/-! Gate outputs (R175). -/

/-- The inactive level of gate output k. -/
def State.gateIdle (s : State) (n k : Nat) : Bool := s.actOn (F.scnGcCfgPol n k)

/-- The gate outputs in use: GATE_COUNT of the structure. -/
def OutConfig.gates (c : OutConfig) : List Nat := List.range (min 16 c.gateCount)

/-- Every gate output at the off level. -/
def State.gatesOff (s : State) (n : Nat) : State :=
  (List.range 16).foldl (fun t k => t.emit (.gate n k false 0 0)) (s.setOut n fun o => { o with pulses := [] })

/-- The gate outputs in use at their inactive levels, the others off. -/
def State.gatesIdle (s : State) (n : Nat) : State :=
  (List.range 16).foldl (fun t k =>
    t.emit (.gate n k (if k < (s.cfg n).gateCount then s.gateIdle n k else false) 0 0))
    (s.setOut n fun o => { o with pulses := [] })

/-- Whether line y lies in the window of gate output k. -/
def State.gateWindow (s : State) (n k y : Nat) : Bool :=
  let a := s.act (F.scnGcLinesFirst n k)
  let b := s.act (F.scnGcLinesLast n k)
  if a ≤ b then decide (a ≤ y) && decide (y ≤ b) else decide (a ≤ y) || decide (y ≤ b)

/-- Whether a line pulse of gate output k starts on line y of a frame of so many lines. -/
def State.gateFires (s : State) (n k y lines : Nat) : Bool :=
  let a := s.act (F.scnGcLinesFirst n k)
  let p := max 1 (s.act (F.scnGcRepeatPeriod n k))
  let d := if a ≤ y then y - a else lines - a + y
  s.gateWindow n k y && d % p == s.act (F.scnGcRepeatPhase n k)

/-- The edges of one pin within a line of h pixels, from the pulses that touch it (start, end from the line's first pixel):
each time and whether the pin becomes active there. -/
def gateEdges (h : Int) (ps : List (Int × Int)) : List (Int × Bool) :=
  let covered := fun (t : Int) (p : Int × Int) => ps.any fun q => decide (q ≠ p) && decide (q.1 ≤ t) && decide (t < q.2)
  (ps.filter fun p => decide (0 ≤ p.1) && decide (p.1 < h) && decide (p.1 < p.2) && !ps.any fun q =>
      decide (q.1 < p.1) && decide (p.1 ≤ q.2)).map (fun p => (p.1, true)) ++
    (ps.filter fun p => decide (0 ≤ p.2) && decide (p.2 < h) && decide (p.1 < p.2) && !covered p.2 p).map fun p => (p.2, false)

/-- Gate outputs at the edge of a frame (R49, R175): those that the structure in force has lost, against the one whose frame has just ended,
at the off level; those it has gained at their inactive levels. -/
def State.turnGates (s : State) (n : Nat) : State :=
  let kept := (s.cfg n).gateCount
  let had := (s.outp n).prev.gateCount
  (List.range 16).foldl (fun t k =>
    if kept ≤ k ∧ k < had then t.emit (.gate n k false 0 0)
    else if had ≤ k ∧ k < kept then t.emit (.gate n k (t.gateIdle n k) 0 0) else t)
    (s.setOut n fun o => { o with pulses := o.pulses.filter fun p => p.pin < kept })

/-- The pulses of gate output k that start on line y of a frame of so many lines, at a pixel from lo on and before hi (R175). -/
def State.gateStarts (s : State) (n k y lines lo hi : Nat) : List Pulse :=
  let mode := s.act (F.scnGcCfgMode n k)
  let start := s.act (F.scnGcPulseStart n k)
  let first := s.act (F.scnGcLinesFirst n k)
  let last := s.act (F.scnGcLinesLast n k)
  if start < lo ∨ hi ≤ start then []
  else if mode = 1 ∧ s.gateFires n k y lines then [⟨k, false, start, (start + s.act (F.scnGcPulseWidth n k) : Nat)⟩]
  else if mode = 2 ∧ first = y ∧ first ≠ last then [⟨k, true, last, start⟩]
  else []

/-- The level of gate output k where no pulse is active. -/
def State.gateRest (s : State) (n k : Nat) : Bool := if s.act (F.scnGcCfgMode n k) = 3 then !s.gateIdle n k else s.gateIdle n k

/-- The gate outputs over line y of a frame that is driven: those of the structure that the frame runs under. On the landing line `landed`
gives the state before the Landing and the first pixel after the copy cycle: pulses that start before it are the old values', those from it on
the new values', a level before it is that of the old POL, and a level that no pulse holds moves there (R176). -/
def State.gateLine (s : State) (n y : Nat) (landed : Option (State × Nat)) : State :=
  let o := s.outp n
  let h : Int := o.timing.hTotal
  (o.prev.gates).foldl (fun t k =>
    let before := fun (x : Int) => match landed with
      | none => t
      | some (b, px) => if x < (px : Int) then b else t
    let starts := match landed with
      | none => t.gateStarts n k y o.frameLines 0 0x10000
      | some (b, px) => b.gateStarts n k y o.frameLines 0 px ++ t.gateStarts n k y o.frameLines px 0x10000
    let mine := (t.outp n).pulses.filter (·.pin == k)
    let others := (t.outp n).pulses.filter (·.pin != k)
    let ending := mine.filter fun p => p.frame && p.a == (y : Int)
    let lines := ((mine ++ starts).filter fun p => !p.frame).map fun p => (p.a, p.b)
    let opens := starts.filter (·.frame)
    let edges := gateEdges h lines ++ ending.map (fun p => (p.b, false)) ++ opens.map fun p => (p.b, true)
    let rests := decide (y = 0) && mine.isEmpty && !edges.any fun e => decide (e.1 = 0)
    let t1 := if rests then t.emit (.gate n k ((before 0).gateRest n k) y 0) else t
    let t2 := edges.foldl (fun u e =>
      u.emit (.gate n k (if e.2 then !(before e.1).gateIdle n k else (before e.1).gateRest n k) y e.1)) t1
    let t3 := match landed with
      | none => t2
      | some (b, px) =>
        let held := lines.any (fun p => decide (p.1 < (px : Int)) && decide ((px : Int) < p.2)) ||
          (mine.any fun p => p.frame && !(ending.contains p && decide (p.b ≤ (px : Int)))) || opens.any fun p => decide (p.b < (px : Int))
        if b.gateRest n k = t.gateRest n k ∨ held then t2 else t2.emit (.gate n k (t.gateRest n k) y px)
    let left := (lines.filter fun p => decide (h ≤ p.2)).map fun p => (⟨k, false, p.1 - h, p.2 - h⟩ : Pulse)
    let kept := mine.filter fun p => p.frame && !ending.contains p
    t3.setOut n fun o => { o with pulses := others ++ left ++ kept ++ opens }) s

/-! Starting and stopping (R149, R150). -/

/-- The relief PLL put on output n (R417). -/
def State.switchPll (s : State) (n : Nat) : State :=
  ({ (s.put F.clkStatusReliefFor n) with
    relief := { s.relief with pll := some n, wornPlls := s.relief.wornPlls.filter (· != n) } }).raise 729

/-- A WORN output PLL replaced as its output starts: by command, or automatically. -/
def State.pllAtStart (s : State) (n : Nat) : State :=
  match s.relief.waiting.find? fun p => p.kind == 5 && p.unit == n with
  | some p => if s.relief.pll.isNone then (s.switchPll n).endSwap p 0 else s.endSwap p 1
  | none =>
    if s.relief.wornPlls.contains n && s.sst.relief.testBit 3 && s.relief.pll.isNone then
      (s.switchPll n).logSwap 5 0 n 0 0 6
    else s

/-- The lock of output n's PLL shown: its own, or the relief PLL's where that serves it. -/
def State.showPll (s : State) (n : Nat) (lock : Bool) : State :=
  if s.relief.pll = some n then s.put F.clkStatusReliefLock lock.toNat else s.setBit R.clkStatus (4 + n) lock

/-- An idle output started: its PLL starts, its lanes train, its pacing begins, its content rung is 0 (R173), frame 0 is awaited. The PLL locks within the 50 µs before frame 0
(R149): it shows locked at once (log 40). -/
def State.startOut (s : State) (n : Nat) : State :=
  let t := ((((s.pllAtStart n).showPll n true).puts [(F.scnLadderStatusWant n, 0), (F.scnLadderStatusStaticCount n, 0)]).idleRung n).puts
    [(F.tgCtrlEn n, 1), (F.tgStatusRun n, 1), (F.tgStatusBlankFrame n, 0)]
  let u := (t.setOut n fun o => { o with
    waiting := true, stopping := false, kind := 0, nextKind := 0, landed := false, line := 0, frameLines := 0, lastFrame := 0,
    prev := t.cfg n, restart := false, cut := false, dchgRan := false, lastCal := none, modePending := false, routeHeld := false,
    stall := t.stallNow n, rateHeld := false, rungPending := none, pix := { PixState.reset with crcBefore := o.pix.crcBefore }, sync := { o.sync with startAt := s.nowPs } }).resetPacing n
  ((u.cfg n).lanes).foldl (fun t l => t.laneServe l) (u.showRoles n)

/-- Whether the PLL that serves output n is locked. -/
def State.pllLocked (s : State) (n : Nat) : Bool :=
  if s.relief.pll = some n then s.on F.clkStatusReliefLock else bit (s.reg R.clkStatus).toNat (4 + n)

/-- An output that has become idle (R150, R163, R211): its lanes and gates, its pacing, its PLL (R397), the structure it still had to take
(R45), the swaps that waited for it (R415, R416). -/
def State.stopOut (s0 : State) (n : Nat) : State :=
  let s := (s0.odrvStop n).wearStop n
  let lanes := (s.outp n).prev.lanes ++ (s.cfg n).lanes
  let t := (lanes.foldl (fun t l => if t.laneSt l = 0 then t else t.laneOff l) s).gatesOff n
  let u := (t.puts [(F.tgCtrlEn n, 0), (F.tgStatusRun n, 0), (F.tgStatusBlankFrame n, 0), (F.tgLandGo n, 0),
    (F.tgLockStatusMissed n, 0)]).setLock n 0
  let v := (u.setSync n fun _ => SyncState.reset).setOut n fun o => { o with
    waiting := false, stopping := false, kind := 0, nextKind := 0, landed := false, line := 0, routeHeld := false, heldLanes := false }
  let w := if v.landLeft n then (v.installOut n).landAll n none else v
  let x := (lanes.foldl State.applyForced (w.showPll n false)).showRoles n
  -- an idle output enters and leaves Slack at once (R177)
  ((x.settleLanes.settleReaches).txStop n).slackStep n

/-- Whether an output may be enabled: it has an OUTPUT record, PFAIL_N is high, neither a discharge nor a
reset of the part is under way (R184, R185, R399). -/
def State.mayEnable (s : State) (n : Nat) : Bool :=
  (s.cfg n).present && !s.power.pfailLow && !(s.outp n).cut && !s.power.warmPending

/-- TG_ENABLE (R149, R150): a write of TGn_CTRL with EN = 1: an idle output starts, a stopping one goes on; one that waits for its PLL, or
for the end of a start-up or a Thaw, keeps EN and starts then (R417, R400, R395). -/
def execTgEnable (w : Writer) (n : Fin 4) (s : State) : Result :=
  .next (s.writeBy w (R.tgCtrl n) fun t =>
    if !t.mayEnable n then t
    else if t.running n then (t.put (F.tgCtrlEn n) 1).setOut n fun o => { o with stopping := false }
    else if (t.outp n).restart || t.power.fabricOff || t.get F.glbStateState == 0 then t.put (F.tgCtrlEn n) 1
    else t.startOut n)

/-- EN = 0 on output n (R150): the output finishes its frame; before frame 0 it stops at once. -/
def State.disable (s : State) (n : Nat) : State :=
  let t := (s.put (F.tgCtrlEn n) 0).setOut n fun o => { o with restart := false }
  if !t.running n then t
  else if (t.outp n).waiting then t.stopOut n
  else t.setOut n fun o => { o with stopping := true }

/-- TG_DISABLE (R150): a write of TGn_CTRL with EN = 0. -/
def execTgDisable (w : Writer) (n : Fin 4) (s : State) : Result := .next (s.writeBy w (R.tgCtrl n) fun t => t.disable n)

/-- TG_STOPPED (R150): the last line of a stopping output has ended. -/
def execTgStopped (n : Fin 4) (s : State) : Result :=
  let o := s.outp n
  .next (if s.running n && o.stopping && o.line == o.frameLines && !o.cut then s.stopOut n else s)

/-! Landings. -/

/-- LAND_GO (R162, R163): a write of TGn_LAND with GO = 1; `copyCycle` whether it arrives in the copy cycle. -/
def execLandGo (w : Writer) (n : Fin 4) (copyCycle : Bool) (s : State) : Result :=
  .next (s.writeBy w (R.tgLand n) fun t =>
    if !t.running n then t
    else
      let u := t.put (F.tgLandGo n) 1
      if copyCycle then (u.count (F.tgLateCountCount n) 1).raise (evOut n 1) else u)

/-- LAND_CANCEL (R162): a write of TGn_LAND with CANCEL = 1 and GO = 0. -/
def execLandCancel (w : Writer) (n : Fin 4) (s : State) : Result :=
  .next (s.writeBy w (R.tgLand n) fun t => t.put (F.tgLandGo n) 0)

/-- The first pixel of the landing line that begins after the copy cycle (R160, R176): the Landing-point cycle is the first one to begin at or
after pixel 0, the copy cycle the next. -/
def State.copyPixel (s : State) (n : Nat) : Nat :=
  let o := s.outp n
  let p := s.framePs n
  let t := s.lineAt n o.landLine
  let gap := (cycleAt (nextCycle t + 2) - t).toNat
  ceilDiv (gap * p.2 * o.timing.vTotal * o.timing.hTotal) (max 1 p.1)

/-- LANDING_POINT (R161): pixel 0 of line Q of a frame that has one; the gate outputs follow over that line (R176). -/
def execLandingPoint (n : Fin 4) (s : State) : Result :=
  let o := s.outp n
  .next (if s.running n && !o.waiting && o.kind == 0 && !o.landed && o.line == o.landLine + 1 && !o.cut then
      let t := s.landingPoint n
      if o.routeHeld then t else t.gateLine n o.landLine (some (s, s.copyPixel n))
    else s)

/-! Frames. -/

/-- The lanes at the start of a blank frame (R49, R211): lost lanes idle, gained ones in service, kept ones whose
configuration changes told of it in TRAIN blocks. -/
def State.changeLanes (s : State) (n : Nat) : State :=
  let old := (s.outp n).prev
  let new := s.cfg n
  let before := s
  let s0 := old.lanes.foldl (fun t l => if t.laneSt l = 0 then t else t.laneTo l s.nowPs) s
  let s1 := old.lanes.foldl (fun t l => if new.lanes.contains l then t else (t.laneOff l).applyForced l) s0
  let s2 := (s1.showRoles n).settleLanes
  let swift := old.baud != new.baud || old.precode != new.precode
  new.lanes.foldl (fun t l =>
    if !old.lanes.contains l || swift then (t.abortCal l).laneServe l
    else
      let p := t.trainPayload l (t.lane l).tseq
      if p = (before.lane l).train then t else t.setLane l fun x => { x with train := p, fill := some ⟨hTrain, p⟩ }) s2

/-- The lane swaps of output n that begin with this frame (R415): in a calibration frame lanes other than watch lanes, in a
blank frame every lane, under a HOLD of its own (R212). -/
def State.beginSwaps (s : State) (n : Nat) (blank : Bool) : State :=
  let swaps := s.relief.waiting.filter fun p => p.kind == 0 && p.stage == 0 && (s.cfg n).lanes.contains p.unit &&
    (blank || !(s.cfg n).watch.contains p.unit)
  swaps.foldl (fun t p => (t.setSwap p { p with stage := 1 }).switchLane p.unit p.spare)
    (if blank && !swaps.isEmpty then s.holdLanes n (s.holdLimit n) else s)

/-- The groups in which a swap of output n is under way. -/
def State.swapGroups (s : State) (n : Nat) : List Nat :=
  (s.relief.waiting.filter fun p => p.kind == 0 && p.stage == 1 && (s.cfg n).lanes.contains p.unit).map fun p => laneGroup p.unit

/-- Swaps and calibrations begun in a calibration or blank frame (R222, R415). -/
def State.beginCals (s : State) (n : Nat) (blank : Bool) (low : BitVec 4) : State :=
  let t := s.beginSwaps n blank
  let lanes := (t.calLanes n).filter fun l => !(t.swapGroups n).contains (laneGroup l)
  lanes.foldl (fun u l => u.startCal l low) (t.setOut n fun o => { o with calLanes := lanes })

/-- Frame 0 of output n: FRAME_ID 0, its values those in force, DCHGn_N released (R149, R185). -/
def State.frameZero (s : State) (n : Nat) : State :=
  let t := s.puts [(F.tgFrameIdLoCount n, 0), (F.tgFrameIdHiCount n, 0), (F.tgLandFrameId n, 0)]
  let u := if (t.outp n).dchgN then t else (t.setOut n fun o => { o with dchgN := true }).emit (.dchg n true)
  (((u.put (F.scnDchgStatusState n) 0).latchTemp n).rateLand n).beginRead n

/-- The epochs of a new refresh awaited (R157, R158): `epoch` is the common epoch at which it begins, the last one accepted or the one to come. -/
def State.retimeEpochs (s : State) (n : Nat) (epoch : Int) : State :=
  let p := ratePs (s.outp n).rate
  let period := rheDiv (p.1 : Nat) p.2
  let met := match (s.outp n).sync.lastRef with
    | some l => decide ((l - epoch).natAbs ≤ 1000000)
    | none => false
  s.setSync n fun y => { y with
    lastRef := some (if met then epoch else epoch - period), predicted := if met then epoch + period else epoch }

/-- A frame of output n begun at a time (ps): its kind, timing, refresh, lines. A refresh that waits for its edge stays as it was (R173). -/
def State.beginFrame (s : State) (n kind : Nat) (edge : Int) : State :=
  let o := s.outp n
  let first := o.waiting
  let t := if kind = 1 then o.timing else timingOf s.act n
  let rate := if !first && (kind == 1 || (o.rungPending.isSome && t.num == o.timing.num && t.den == o.timing.den)) then o.rate
    else s.rateAt n t
  let newMode := o.kind == 1 && kind != 1
  let aligned := first || o.sync.every ≤ o.sync.alignCount + 1
  let base := if first || o.timing.pace == 3 then edge else s.frameEnd n
  let retimed := !first && t.pace == 2 && o.timing.pace == 2 && o.sync.periodKnown && rate.1 * o.rate.2 != o.rate.1 * rate.2
  let counts := !first && o.timing.pace == 0 && t.pace == 0 && rate == o.rate
  let u := s.setOut n fun o => { o with
    waiting := false, timing := t, rate := rate, frameLines := t.vTotal, line := 0, landed := false, landLine := s.landQ n, kind := kind,
    nextKind := 0, lastFrame := if first then 0 else fabricCycle edge - fabricCycle o.edge, edge := edge, frameZero := first,
    routeHeld := o.routeHeld || decide (o.stall ≠ 0),
    sync := { o.sync with
      frameEdge := base, alignCount := if aligned then 0 else o.sync.alignCount + 1, every := s.alignEvery n t rate,
      alignedEdge := if aligned then base else o.sync.alignedEdge, pulled := if aligned then 0 else o.sync.pulled, scheduled := none,
      origin := if counts then o.sync.origin else base, frames := if counts then o.sync.frames + 1 else 0 } }
  let v := u.put (F.tgStatusBlankFrame n) (decide (kind = 1)).toNat
  (if newMode && o.timing.pace != t.pace then v.resetPacing n else if retimed then v.retimeEpochs n (base - o.sync.phase) else v).choosePull n

/-- The frame of output n that its next edge begins, at that edge: frame 0 of a started output, or the frame after the last line of one
that goes on. A calibration frame has no Landing point: its coarse lines are chosen as it begins (R155). -/
def State.startFrame (s : State) (n : Nat) (edge : Int) (low : BitVec 4) : State :=
  let o := s.outp n
  let kind := if o.waiting then 0 else o.nextKind
  let s1 := if o.waiting then s.frameZero n else s
  let s2 := (s1.beginFrame n kind edge).turnGates n
  let held := (s2.outp n).routeHeld
  let s3 := if kind = 1 then ((s2.changeLanes n).gatesIdle n).beginCals n true low
    else if kind = 2 then ((s2.chooseLines n).gatesIdle n).beginCals n false low
    else
      let t := if o.kind ≠ 0 then ((s2.cfg n).lanes).foldl (fun t l => t.setLane l fun x => { x with fill := none }) (s2.beginRead n)
        else s2
      if held then (t.gatesIdle n).odrvForget n else if o.waiting then t.gatesIdle n else t
  let s4 := (s3.setOut n fun o => { o with prev := s3.cfg n }).dithFrame n
  let p := s4.framePs n
  let s5 := if kind = 1 then s4 else s4.refPulse 0 n (s4.timeAt edge) (some (rheDiv (p.1 : Nat) (max 1 p.2 * 1000)).toNat)
  s5.wearFrame n kind held

/-- Whether the next frame of output n may begin: it is awaited, or the last line of the one under way has begun, and the output goes on. -/
def State.frameReady (s : State) (n : Nat) : Bool :=
  let o := s.outp n
  s.running n && !o.cut && (o.waiting || (!o.stopping && o.line == o.frameLines))

/-- FRAME_START (R146): pixel 0 of line 0 at a time in ps, where the output's pacing places its next frame edge (R145, R149, R153, R156, R159);
`low` says in which sideband groups the line reads 0 where released. -/
def execFrameStart (n : Fin 4) (edge : Int) (low : BitVec 4) (s : State) : Result :=
  .next (if s.frameReady n && s.edgeDue n edge then (s.startFrame n edge low).holdEpochs else s)

/-! Lines (R194 to R202). -/

/-- The packet bytes of a lane's segment of a line, from KIND and LINE_LO: the data, then the CRC (R196, R197). -/
def packetOf (kind lineLo : Nat) (data : List Byte) : List Byte :=
  data ++ leBytes 2 (crc16 (BitVec.ofNat 8 kind :: BitVec.ofNat 8 lineLo :: data))

/-- DATA blocks of so many bytes, the last one padded. -/
def dataBlocks : Nat → List Byte → List LaneBlock
  | 0, _ => []
  | k + 1, l => if l.isEmpty then [] else ⟨hData, (l.take 32 ++ List.replicate 32 0).take 32⟩ :: dataBlocks k (l.drop 32)

/-- The data of a front lane's segment of line y: codes packed (R189). -/
def frontData (depth first cols : Nat) (r : Row) : List Byte :=
  let vals := ((List.range cols).map fun x => [r.c0.getD (first + x) 0, r.c1.getD (first + x) 0, r.c2.getD (first + x) 0]).flatten
  leBytes (ceilDiv (cols * 3 * depth) 8) (packBits depth vals)

/-- The data of a back lane's segment of a back row. -/
def backData (first cols : Nat) (l : List Nat) : List Byte :=
  leBytes (ceilDiv (cols * 12) 8) (packBits 12 ((l.drop first).take cols))

/-- A MARK with its packet on a lane (R194 to R198), for the line reference `ref`: it begins the first block at or after it that finds no packet
of the lane under way, and its packet follows. -/
def State.sendMark (s : State) (l : Nat) (ref : Int) (kind lineLo : Nat) (packet : List Byte) : State :=
  let sym := s.symbolAt l ref
  let t := s.sendBlocks l (s.blocksTo l sym)
  let u := t.sendBlocks l (t.lane l).queue.length
  let skew := ((u.lane l).symbol - sym).toNat
  let head := leBytes 2 (min 0xFFFF skew) ++ leBytes 1 kind ++ leBytes 1 lineLo
  let mark : LaneBlock := ⟨hMark, (head ++ packet.take 28 ++ List.replicate 28 0).take 32⟩
  ((if 132 ≤ skew then u.count (F.plnLateDeferred l) 1 else u).sendBlock l mark).setLane l fun x =>
    { x with queue := dataBlocks packet.length (packet.drop 28) }

/-- The beacon (R202): four TRAIN blocks follow a BLANK mark. -/
def State.sendBeacon (s : State) (l : Nat) : State :=
  s.setLane l fun x => { x with queue := x.queue ++ List.replicate 4 ⟨hTrain, x.train⟩ }

/-- Line y on front lane l of output n. -/
def State.frontLine (s : State) (n l y : Nat) (ref : Int) (r : Row) : State :=
  let v := (s.outp n).timing.vActive
  let kind := (decide (y = 0)).toNat + 2 * (decide (v ≤ y)).toNat
  let cols := s.get (F.plnSegmentColumns l)
  if v ≤ y then
    let t := s.sendMark l ref kind (y % 256) []
    if y = v then t.sendBeacon l else t
  else if cols = 0 then s.sendMark l ref kind (y % 256) []
  else s.sendMark l ref kind (y % 256) (packetOf kind (y % 256) (frontData (s.cfg n).driveDepth (s.get (F.plnSegmentFirst l)) cols r))

/-- Line y on back lane l of output n. -/
def State.backLine (s : State) (n l y : Nat) (ref : Int) : State :=
  let b := 2 ^ (s.outp n).prev.backVdiv
  if y % b ≠ 0 then s
  else
    let v := y / b
    let rows := ceilDiv (s.outp n).timing.vActive b
    let kind := (decide (v = 0)).toNat + 2 * (decide (rows ≤ v)).toNat
    let cols := s.get (F.plnSegmentColumns l)
    if rows ≤ v then
      let t := s.sendMark l ref kind (v % 256) []
      if v = rows then t.sendBeacon l else t
    else if cols = 0 then s.sendMark l ref kind (v % 256) []
    else s.sendMark l ref kind (v % 256) (packetOf kind (v % 256)
      (backData (s.get (F.plnSegmentFirst l)) cols ((s.outp n).pix.back.getD v [])))

/-- The line reference of line y of output n before it is rounded to a lane's symbols (R195): 24.0 ns after the line starts. -/
def State.lineRef (s : State) (n y : Nat) : Int := s.lineAt n y + 24000

/-- The lane traffic of line y: for each lane in service the blocks up to the line reference, and its MARK with the packet when the frame is
driven. After a BLANK mark of the output the forced taps that wait for it come into force (R225). -/
def State.laneLine (s : State) (n y : Nat) (driven : Bool) : State :=
  let p := (s.outp n).prev
  let ref := s.lineRef n y
  let v := (s.outp n).timing.vActive
  let d := if driven ∧ y < v then s.packRow n y else (zeroRow 0, s)
  let t := p.lanes.foldl (fun t l =>
    if !t.laneCarries l then t
    else if !driven then t.laneTo l ref
    else if p.back.contains l then t.backLine n l y ref
    else t.frontLine n l y ref d.1) d.2
  if driven && decide (v ≤ y) then p.lanes.foldl State.applyForced t else t

/-- Whether line y of a driven frame has its picture: its front row, and on a dual-cell output its back row. -/
def State.lineReady (s : State) (n y : Nat) : Bool :=
  let o := s.outp n
  let b := 2 ^ o.prev.backVdiv
  decide (o.timing.vActive ≤ y) || (decide (y < o.pix.front.length) &&
    (!(s.cfg n).has 4 || y % b != 0 || decide (y / b < o.pix.back.length)))

/-- Whether a swap begun on output n has not brought its lane up yet. -/
def State.swapOpen (s : State) (n : Nat) : Bool := !(s.swapGroups n).isEmpty

/-- The last line of a frame under HOLD (R221, R212, R415): RESUME, or a second calibration frame, with HOLD renewed, while a swapped lane is not
up. -/
def State.endCalFrame (s : State) (n : Nat) : State := if s.swapOpen n then s.takeCal n (s.frameId n) else s.resumeLanes n

/-- The calibrations of a frame that has no time for another trial left (R222): those that wait with trials left, for density is low, stop. -/
def State.closeCals (s : State) (n : Nat) : State :=
  (s.outp n).calLanes.foldl (fun t l =>
    match (t.lane l).cal with
    | some c => if (c.phase == 0 || c.phase == 5) && !c.measure then t.calUnfinished l c else t
    | none => t) s

/-- LINE_START (R195): the next line of the frame under way begins; the gate outputs of its landing line follow with the Landing. -/
def execLineStart (n : Fin 4) (low : BitVec 4) (s : State) : Result :=
  let o := s.outp n
  let y := o.line
  let driven := o.kind == 0 && !o.routeHeld
  if !s.running n || o.waiting || o.cut || decide (o.frameLines ≤ y) ||
      (o.kind == 0 && !o.landed && decide (o.landLine < y)) || (driven && !s.lineReady n y) then .next s
  else
    let s1 := (s.setOut n fun o => { o with line := y + 1 }).puts [(F.tgPositionLine n, y), (F.tgPositionPixel n, 0)]
    let s2 := s1.laneLine n y driven
    let s3 := if driven && !(o.kind == 0 && !o.landed && y == o.landLine) then s2.gateLine n y none else s2
    let p := s3.framePs n
    let s4 := (if driven && y == o.timing.vActive then s3.watchTrials n low else s3).refPulse 1 n
      (s3.timeAt (s3.lineAt n y)) (some (rheDiv (p.1 : Nat) (max 1 p.2 * 1000 * max 1 o.timing.vTotal)).toNat)
    let s5 := if o.kind ≠ 0 ∧ !s4.trialTime n then s4.closeCals n else s4
    .next (if o.kind ≠ 0 ∧ o.heldLanes ∧ y + 1 = o.frameLines then s5.endCalFrame n else s5)

/-! Genlock (R151 to R157). -/

/-- A time reduced into (-r/2, r/2]. -/
def reduceInto (r x : Int) : Int :=
  let m := x % r
  if m * 2 ≤ r then m else m - r

/-- The reference period of output n under PACE 1 or 2, in ps: DIV frame periods (R151), the period of the refresh in force (R157). -/
def State.refPeriod (s : State) (n : Nat) : Int :=
  let t := s.timingNow n
  if t.pace = 1 then rheDiv ((syncDiv s.act n * t.den * 1000000000000 : Nat) : Int) (max 1 t.num)
  else
    let p := ratePs (s.rateNow n)
    rheDiv (p.1 : Nat) p.2

/-- The frame edge that belongs to a reference edge (R153, R157). -/
def State.targetEdge (s : State) (n : Nat) (t : Int) : Int :=
  if s.paceOf n = 1 then t + 4500 + reduceInto (max 1 (s.refPeriod n)) (sval 32 (s.act (F.tgSyncOffsetOffset n)) * 1000) else t

/-- The aligned edge that comes after the last one (R153): the end of the frame under way, or frames of its period later. -/
def State.alignedNext (s : State) (n : Nat) : Int :=
  let y := (s.outp n).sync
  let p := s.framePs n
  s.frameEnd n + rheDiv (((y.every - y.alignCount - 1 : Nat) : Int) * (p.1 : Int) * (1000000000 - y.trim)) (p.2 * 1000000000)

/-- The aligned edge chosen at the start of an acquisition: the frame edge nearest the reference edge (R153). -/
def State.alignTo (s : State) (n : Nat) (t : Int) : State :=
  let y := (s.outp n).sync
  let next := s.frameEnd n
  if (s.outp n).waiting then s
  else if (t - y.frameEdge).natAbs ≤ (next - t).natAbs then
    s.setSync n fun y => { y with alignedEdge := y.frameEdge, alignCount := 0, pulled := y.pull }
  else s.setSync n fun y => { y with alignedEdge := next, alignCount := y.every - 1, pulled := 0 }

/-- PHASE_ERR measured at an accepted edge (R153), and the state it leads to: the aligned edge nearest to the target is judged, the last one or
the one to come; what has been pulled since the last one counts for the edges to come. -/
def State.judgePhase (s : State) (n : Nat) (t : Int) : State :=
  let y := (s.outp n).sync
  let target := s.targetEdge n t
  let next := s.alignedNext n
  let past := decide ((y.alignedEdge - target).natAbs ≤ (next - target).natAbs)
  let at' := if (s.outp n).waiting then y.scheduled.getD target else if past then y.alignedEdge else next
  let r := max 1 (s.refPeriod n)
  let err := reduceInto r (at' - target)
  let left := if !(s.outp n).waiting && past then reduceInto r (err + y.pulled) else err
  let st := s.get (F.tgLockStatusState n)
  let good := if err.natAbs ≤ 1000 then y.good + 1 else 0
  let u := (s.setSync n fun y => { y with phase := left, good := if st = 2 ∧ 100000 < err.natAbs then 0 else good }).put
    (F.tgPhaseErrNs n) (ofSval 32 (clampI (-2147483648) 2147483647 (rheDiv err 1000)))
  if st = 2 then (if 100000 < err.natAbs then u.setLock n 1 else u)
  else if 4 ≤ good then u.setLock n 2 else u

/-- The half width W of the window of a known period (R152). -/
def State.refWindow (s : State) (n : Nat) : Int := max 1000000 (rheDiv (s.refPeriod n * 200) 1000000)

/-- A reference edge at a time (ps) judged by output n (R151, R152). -/
def State.refEdge (s : State) (n : Nat) (t : Int) : State :=
  let y := (s.outp n).sync
  let st := s.get (F.tgLockStatusState n)
  let r := s.refPeriod n
  match y.lastRef with
  | none =>
    let u := (s.setSync n fun y => { y with lastRef := some t, good := 0 }).alignTo n t
    if st = 3 then (u.put (F.tgLockStatusMissed n) 0).setLock n 1 else u
  | some l =>
    if st = 3 then
      (((s.setSync n fun y => { y with lastRef := some t, periodKnown := false, good := 0 }).put (F.tgLockStatusMissed n) 0).setLock n
        1).alignTo n t
    else if y.periodKnown ∧ st ≠ 4 ∧ s.refWindow n < (t - y.predicted).natAbs then s
    else
      let gap := t - l
      let k : Int := if y.periodKnown ∧ st ≠ 4 then max 1 (rheDiv gap r.toNat) else 1
      let inside := decide ((gap - k * r).natAbs * 10000 ≤ (k * r).natAbs)
      if !inside then
        ((s.setSync n fun y => { y with
          lastRef := some t, periodKnown := false, good := 0, phase := 0
          scheduled := if (s.outp n).waiting && y.scheduled.isNone then some (s.targetEdge n (t + gap)) else y.scheduled }).puts
          [(F.tgFreqTrimTrim n, 0), (F.tgLockStatusMissed n, 0)]).setLock n 4
      else
        let trim := rheDiv ((k * r - gap) * 1000000000) (k * r).toNat
        let next := t + rheDiv gap k.toNat
        let s1 := (s.setSync n fun y => { y with
          lastRef := some t, periodKnown := true, predicted := next,
          scheduled := if (s.outp n).waiting && y.scheduled.isNone then some (s.targetEdge n next) else y.scheduled }).puts
            [(F.tgFreqTrimTrim n, ofSval 32 trim), (F.tgLockStatusMissed n, 0)]
        let s2 := if st = 4 then (s1.setLock n 1).alignTo n t else s1
        if (s.outp n).waiting && y.scheduled.isNone then s2 else s2.judgePhase n t

/-- SYNC_WINDOW_CLOSE (R152): at a time in ps the window of a known period has closed without an accepted edge; `met` says that an edge is
recognised in the clock in which it closes (R19). -/
def execSyncWindowClose (n : Fin 4) (t : Int) (met : Bool) (s : State) : Result :=
  let y := (s.outp n).sync
  let st := s.get (F.tgLockStatusState n)
  if s.running n ∧ y.periodKnown ∧ (st = 1 ∨ st = 2) ∧ y.predicted + s.refWindow n ≤ t ∧ met = false then
    let trim := sval 32 (s.get (F.tgFreqTrimTrim n))
    let r := s.refPeriod n
    let per := r - rheDiv (r * trim) 1000000000
    let t := (s.setSync n fun y => { y with predicted := y.predicted + per, good := 0 }).count (F.tgLockStatusMissed n) 1
    .next (if 2 ≤ t.get (F.tgLockStatusMissed n) then t.setLock n 3 else t)
  else .next s

/-- CHAIN_EPOCH (R157): an epoch of output n under PACE 2 at a local time in ps, a reference edge; without usable chain time, HOLDOVER. -/
def execChainEpoch (n : Fin 4) (t : Int) (s : State) : Result :=
  .next (if !s.running n ∨ s.paceOf n ≠ 2 then s
    else if !s.timeUsable then s.setLock n 3
    else if onEpoch (s.sinceEpoch n t) (s.rateNow n) then s.refEdge n t else s)

/-! Panel pacing (R159). -/

/-- TE_EDGE (R149, R159): a qualified TE edge of the programmed polarity at a time in ps: it schedules the next frame edge unless one is
scheduled; a waiting output takes none before 50 µs from its start. -/
def execTeEdge (n : Fin 4) (falling : Bool) (t : Int) (s : State) : Result :=
  let o := s.outp n
  .next (if !s.running n ∨ s.paceOf n ≠ 3 ∨ s.actOn (F.tgPolarityTeEdge n) ≠ falling then s
    else if !o.waiting ∧ !o.landed ∧ (o.kind = 0 ∨ o.line ≤ o.landLine) then s.count (F.tgTeCountsEarly n) 1
    else if o.sync.scheduled.isSome ∨ (o.waiting ∧ t < o.sync.startAt + 50000000) then s
    else (s.setSync n fun y => { y with scheduled := some (s.teEdgeAt n t) }).setLock n 2)

/-- TE_TIMEOUT (R149, R159, R167): no TE edge within the timeout of the current frame edge, or of the start of the output: the next frame
starts at the timeout, or after its V_TOTAL lines when these last longer; `met` says that an edge is recognised in that clock (R19). -/
def execTeTimeout (n : Fin 4) (met : Bool) (low : BitVec 4) (s : State) : Result :=
  match s.teDeadline n with
  | none => .next s
  | some t =>
    if met ∨ !s.running n ∨ s.paceOf n ≠ 3 ∨ (s.outp n).sync.scheduled.isSome then .next s
    else
      let u := ((s.count (F.tgTeCountsMissed n) 1).setLock n 3).raise (evOut n 4)
      .next (if u.frameReady n then u.startFrame n ((if (s.outp n).waiting then t else max t (s.frameEnd n))) low
        else u.setSync n fun y => { y with scheduled := some t })

end Sys2Proof.Machine
end

