-- ==== Sys2Proof/Machine/Mailbox.lean ====
section
/-!
DEFINITION. The mailbox commands of the Purser (17_purser_events_manifest.md, 18_power_clocks_reset.md, 19_relief_and_aging.md) and the
software event.
-/

namespace Sys2Proof.Machine

/-- Argument i of mailbox slot k. -/
def State.arg (s : State) (k i : Nat) : Nat := s.get (F.pursmArgValue k i)

/-- The command taken up begun, when its OPCODE satisfies a condition: REFUSED when only PF0 may give it and another master rang
(R380). -/
def State.mailboxCmd (s : State) (op : Nat → Bool) (pf0 : Bool) (run : Nat → State → State) : State :=
  match s.purser.current with
  | none => s
  | some k =>
    if !s.purser.serving || s.purser.begun || !op (s.get (F.pursmCmdOpcode k)) then s
    else
      let t := s.setPurser fun p => { p with begun := true }
      if pf0 && s.purser.caller != 0x40 then t.mboxDone k 6 0 [] else run k t

/-- Whether an opcode is a command (R380, R406, R419). -/
def listedOp (op : Nat) : Bool := [1, 2, 0x10, 0x11, 0x12, 0x13, 0x14, 0x15, 0x20].contains op

/-- GET_INFO (R380): firmware, stepping, status and serial. -/
def execGetInfo (s : State) : Result :=
  .next (s.mailboxCmd (· == 1) false fun k t =>
    t.mboxDone k 0 0 [t.word R.pursInfo, 0xC2, t.word R.pursStatus, t.word R.chnSerialLo, t.word R.chnSerialHi])

/-- EVENT_TEST (R380): the source of ARG0 raised as its mechanism would; BAD_ARGS for one that is not implemented. -/
def execEventTest (s : State) : Result :=
  .next (s.mailboxCmd (· == 2) true fun k t =>
    let src := t.arg k 0 % 1024
    if src < 768 && implemented src then (t.raise src).mboxDone k 0 0 [] else t.mboxDone k 2 0 [])

/-- Whether an opcode lies in the ranges of PF0's commands (R380). -/
def pf0Range (op : Nat) : Bool := decide (0x10 ≤ op) && decide (op < 0x30)

/-- UNKNOWN_OP (R379, R380): an opcode that names no command; one in the ranges of PF0's commands is refused to any other function. -/
def execUnknownOp (s : State) : Result :=
  .next (s.mailboxCmd (fun op => !listedOp op) false fun k t =>
    if pf0Range (t.get (F.pursmCmdOpcode k)) && s.purser.caller != 0x40 then t.mboxDone k 6 0 [] else t.mboxDone k 1 0 [])

/-- EVT_SOFT_RAISE (R386): a write of EVT_SOFT with RAISE = 1 raises SOFT_EVENT. -/
def execEvtSoftRaise (w : Writer) (s : State) : Result := .next (s.writeBy w R.evtSoft fun t => t.raise 597)

/-! The calibration store (R406). -/

/-- The host address in two arguments. -/
def State.argAddr (s : State) (k i : Nat) : Nat := s.arg k i + 2 ^ 32 * s.arg k (i + 1)

/-- CAL_READ (R406): the record in force of a kind written to the host, as far as the bytes available go; `ok` whether no bus error
met it. -/
def execCalRead (ok : Bool) (s : State) : Result :=
  .next (s.mailboxCmd (· == 0x10) true fun k t =>
    let kind := t.arg k 0
    if 16 ≤ kind then t.mboxDone k 2 0 []
    else match t.inForce kind with
      | none => t.mboxDone k 3 0x708 []
      | some ab =>
        let c := t.copy kind ab
        if !(t.fnCfg 0).busMaster then t.mboxDone k 3 0x703 []
        else
          let u := t.purserWrite (t.argAddr k 1) (c.payload.take (t.arg k 3))
          if ok then u.mboxDone k 0 0 [c.length, c.seq, ab] else u.mboxDone k 3 0x703 [])

/-- Whether a kind is one that CAL_STORE and CAL_CLEAR may write. -/
def kindWritable (kind : Nat) : Bool := kind == 1 || kind == 6 || (decide (8 ≤ kind) && decide (kind ≤ 11))

/-- A store for a mailbox slot queued, unless the kind's SEQUENCE is exhausted. -/
def State.mailboxStore (s : State) (k kind : Nat) (payload : List Byte) (digests : Nat := 0) : State :=
  if 0xFFFFFFFE < s.nextSeq kind then s.mboxDone k 3 0x707 []
  else s.queueStore ⟨kind, false, payload, [], [], digests, .mailbox k⟩

/-- CAL_STORE (R406): a record of a kind fetched from the host and stored; `data` what the fetch brought, none on a bus error. Its reads follow one
another on the mailbox's tag of PF0 (R353), each issued when the one before has ended, and all have ended with the command (log 99). -/
def execCalStore (data : Option (List Byte)) (s : State) : Result :=
  .next (s.mailboxCmd (· == 0x11) true fun k t =>
    let kind := t.arg k 0
    let len := t.arg k 3
    if 16 ≤ kind then t.mboxDone k 2 0 []
    else if !kindWritable kind then t.mboxDone k 3 0x701 []
    else if maxPayload kind < len then t.mboxDone k 3 0x702 []
    else if 0xFFFFFFFE < t.nextSeq kind then t.mboxDone k 3 0x707 []
    else if len = 0 then t.mailboxStore k kind []
    else if !(t.fnCfg 0).busMaster then t.mboxDone k 3 0x703 []
    else
      let u := t.hostReads 0 (t.argAddr k 1) len
      match data with
      | some l => if l.length = len then u.mailboxStore k kind l else u.mboxDone k 3 0x703 []
      | none => u.mboxDone k 3 0x703 [])

/-- CAL_CLEAR (R406): both copies of a kind set to BLNK. -/
def execCalClear (s : State) : Result :=
  .next (s.mailboxCmd (· == 0x12) true fun k t =>
    let kind := t.arg k 0
    if 16 ≤ kind then t.mboxDone k 2 0 []
    else if !kindWritable kind then t.mboxDone k 3 0x701 []
    else t.queueStore ⟨kind, true, [], [], [], 0, .mailbox k⟩)

/-- CAL_SET_DIGEST (R406): the base-map digest of an output stored, once. -/
def execCalSetDigest (s : State) : Result :=
  .next (s.mailboxCmd (· == 0x13) true fun k t =>
    let n := t.arg k 0
    if 4 ≤ n then t.mboxDone k 2 0 []
    else
      let old := padTo 128 ((t.recordOf 2).getD [])
      if bit t.digests n then t.mboxDone k 3 0x704 []
      else
        let d := ((List.range 8).map fun i => leBytes 4 (t.arg k (1 + i))).flatten
        t.mailboxStore k 2 (old.take (32 * n) ++ d ++ old.drop (32 * n + 32)) (t.digests ||| 2 ^ n))

/-- CAL_STATUS (R406): the SEQUENCE and the copy in force of every kind; of an absent kind no copy is in force, and its bit is free. -/
def execCalStatus (s : State) : Result :=
  .next (s.mailboxCmd (· == 0x14) true fun k t =>
    let f := t.free
    let ab := ofBits ((List.range 12).map fun kind => match t.inForce kind with
      | some c => c == 1
      | none => f.testBit kind)
    t.bumpFree.mboxDone k 0 0 ((List.range 12).map t.seqOf ++ [ab, t.word R.calStatus]))

/-- The fuses asked for blown where they are not yet; one fusing when any is. -/
def OtpState.fuse (o : OtpState) (sign : Bool) (key sub : Nat) : OtpState :=
  let new : OtpState := ⟨o.signRequired || sign, o.keyHash <|> (if key = 0 then none else some key),
    o.subsys <|> (if sub = 0 then none else some sub), o.fusings, o.repairs⟩
  if new = o then o else { new with fusings := o.fusings + 1 }

/-- OTP_FUSE (R406, R410): in Test, the fields asked for and not yet fused are fused; one fused before ends it with 0x704. FUSE_DONE comes with
one that completes, and with fuses blown. -/
def execOtpFuse (s : State) : Result :=
  .next (s.mailboxCmd (· == 0x15) true fun k t =>
    if t.get F.glbStateState ≠ 2 then t.mboxDone k 3 0 []
    else
      let o := t.otp
      let sign := t.arg k 0 % 2 == 1
      let key := ofBe (((List.range 8).map fun i => leBytes 4 (t.arg k (1 + i))).flatten)
      let sub := t.arg k 9
      let again := (sign && o.signRequired) || (decide (key ≠ 0) && o.keyHash.isSome) || (decide (sub ≠ 0) && o.subsys.isSome)
      let new := o.fuse sign key sub
      let u := ({ t with otp := new }).raiseIf (!again || decide (new ≠ o)) 22
      if again then u.mboxDone k 3 0x704 [] else u.mboxDone k 0 0 [])

/-! RELIEF_SWAP (R419). -/

/-- A commanded swap that cannot be made: its RESULT logged and answered. -/
def State.swapRefused (s : State) (k kind unit row result : Nat) : State :=
  (s.logSwap kind result unit row 0 0).mboxDone k 3 0 [result]

/-- A commanded repair of the Hold begun, or refused. -/
def State.commandRepair (s : State) (k kind unit row : Nat) (r : Repair) (again : Bool) (free : Nat) : State :=
  if again then s.swapRefused k kind unit row 5
  else if free = 0 then s.swapRefused k kind unit row 1
  else if s.hold.repair.isSome then s.swapRefused k kind unit row 3
  else s.beginRepair r 0 (some k)

/-- RELIEF_SWAP (R419): ARG0 the KIND, ARG1 the unit, ARG2 the row: the unit swapped at its swap-in point. -/
def execReliefSwap (s : State) : Result :=
  .next (s.mailboxCmd (· == 0x20) true fun k t =>
    let kind := t.arg k 0
    let unit := t.arg k 1
    let row := t.arg k 2
    let no := t.swapRefused k kind unit row
    match kind with
    | 0 =>
      if 96 ≤ unit ∨ t.get (F.plnRoleRole unit) = 0 then no 2
      else if (t.laneSwap unit).isSome || (t.sliceOf unit).isSome then no 5
      else if (t.freeSlices (laneGroup unit)).isEmpty then no 1
      else t.askLaneSwap unit 0 (some k)
    | 1 =>
      if 12 ≤ unit then no 2
      else if t.chainRelieved (unit / 4) = some (unit % 4) then no 5
      else if (t.chainRelieved (unit / 4)).isSome || (t.chainSwap (unit / 4)).isSome then no 1
      else t.askChainSwap (unit / 4) (unit % 4) 0 (some k)
    | 2 =>
      if 64 ≤ unit then no 2
      else if t.on (F.rlfReachReplaced unit) || t.relief.waiting.any (fun p => p.kind == 2 && p.unit == unit) then no 5
      else match t.freeReaches with
        | [] => no 1
        | r :: _ => t.askReachSwap unit r 0 (some k)
    | 3 =>
      if 256 ≤ unit ∨ 1024 ≤ row then no 2
      else t.commandRepair k kind unit row (.row unit row) (t.hold.reliefRows.contains (unit, row)) (t.rowsFree unit)
    | 4 =>
      if 256 ≤ unit then no 2
      else t.commandRepair k kind unit row (.bank unit) (t.hold.reliefBanks.contains unit) (t.get F.holdRepairStatusBanksFree)
    | 5 =>
      if 4 ≤ unit then no 2
      else if t.relief.pll = some unit then no 5
      else if t.relief.pll.isSome then no 1
      else { t with relief := { t.relief with waiting := t.relief.waiting ++ [⟨5, unit, 0, 0, 0, some k, 0, false⟩] } }
    | _ => t.mboxDone k 2 0 [])

end Sys2Proof.Machine
end

