-- ==== Sys2Proof/Machine/Sst.lean ====
section
/-!
DEFINITION. The structure-stream loader: its commands, the acceptance of an APPLY, the boot stream and the null structure
(02_structure_stream.md).
-/

namespace Sys2Proof.Machine

/-! Commands of SST_CMD (R41). -/

/-- A write of SST_CMD with a nonzero OP: refused while a command runs, else noted and started. APPLY_HOLD takes part in an APPLY alone; after
any other OP it reads 0 whatever was written (DESIGN CHOICE, log 87). -/
def State.sstCommand (s : State) (w : Writer) (op slot : Nat) (hold : Bool) (k : State → State) : State :=
  s.writeBy w R.sstCmd fun t =>
    if t.on F.sstStatusBusy then (t.put F.sstStatusLastCode 0x128).raise 241
    else
      let u := t.puts [(F.sstCmdApplyHold, hold.toNat), (F.sstCmdSlot, slot), (F.sstCmdOp, op), (F.sstStatusLastOp, op),
        (F.sstStatusLastSlot, slot), (F.sstStatusBusy, 1)]
      k { u with sst := { u.sst with running := some ⟨op, slot, 0⟩ } }

/-- STATE of a staging slot: 0 EMPTY, 1 LOADING, 2 VALID, 3 REJECTED, 4 PENDING, 5 ACTIVE. -/
def State.slotSt (s : State) (k : Nat) : Nat := s.get (F.sstslotStateState k)

/-- The words of a staging slot replaced. -/
def State.setSlot (s : State) (k : Nat) (ws : List Word) : State :=
  { s with sst := { s.sst with slots := updAt s.sst.slots k fun _ => ws } }

/-- The verdict of a LOAD recorded (R42): the slot VALID or REJECTED, its code, offset, SEQUENCE and mask; the command ends. -/
def State.sstVerdict (s : State) (k : Nat) (ws : List Word) (v : Verdict) : State :=
  let code := (v.map (·.1)).getD 0
  let t := (s.setSlot k ws).puts [(F.sstslotStateState k, if code = 0 then 2 else 3), (F.sstslotStateCode k, code),
    (F.sstslotErrOffsetWord k, (v.map (·.2)).getD 0), (F.sstslotSeqSeq k, pw ws 4), (F.sstslotTargetMask k, pw ws 3)]
  (t.sstEnd code).raiseIf (code == 0) 240

/-- Whether the registers of a slot allow a fetch (R12, R42): all written, the length in its range. -/
def State.fetchOk (s : State) (k : Nat) : Bool :=
  let n := s.get (F.sstslotLenBytes k)
  s.isWritten (R.sstslotAddrLo k) && s.isWritten (R.sstslotAddrHi k) && s.isWritten (R.sstslotLen k) && n % 4 == 0 &&
    decide (32 ≤ n) && decide (n ≤ 262144)

/-- The read requests of a LOAD (R352, R353): each within the sizes of PF0; of the 16 tags that PF0 holds back the loader has at most 13 in flight, so
that the Manifest, the mailboxes and PTM have theirs, and no more than the part's limit of 3,072 leaves (DESIGN CHOICE, log 99; the later ones follow as
the earlier ones end, which no row of the table reports). -/
def State.sstReads (s : State) (k : Nat) : State :=
  let a := 32 * s.get (F.sstslotAddrLoAddr k) + 2 ^ 32 * s.get (F.sstslotAddrHiAddr k)
  let len := s.get (F.sstslotLenBytes k)
  let n := min (min 13 (3072 - s.get F.dmaNpTotalCount)) (linkPieces (s.readMost 0) len a len).length
  ({ s with sst := { s.sst with running := some ⟨1, k, n⟩ } }.npPart n).hostReads 0 a len

/-- SST_LOAD (R41): OP 0x1: the fetch begins, or is refused. -/
def execSstLoad (w : Writer) (slot : Fin 4) (s : State) : Result :=
  .next (s.sstCommand w 1 slot false fun t =>
    let k := slot.val
    if t.slotSt k = 4 ∨ t.slotSt k = 5 then t.sstEnd 0x124
    else if !t.fetchOk k then t.sstVerdict k [] (some (0x101, 0))
    else if !(t.fnCfg 0).busMaster then t.sstVerdict k [] (some (0x126, 0))
    else ((t.setSlot k []).put (F.sstslotStateState k) 1).sstReads k)

/-- SST_FETCH_COMPLETE (R42): the stream has been fetched, or a completion failed; every check is run. -/
def execSstFetchComplete (ok : Bool) (words : List Word) (s : State) : Result :=
  match s.sst.running with
  | some ⟨1, k, _⟩ =>
    .next (if ok then s.sstVerdict k words (s.loadVerdict (s.get (F.sstslotLenBytes k)) words)
      else s.sstVerdict k [] (some (0x126, 0)))
  | _ => .next s

/-- SST_DISCARD (R41): OP 0x3: a VALID or REJECTED slot returns to EMPTY. -/
def execSstDiscard (w : Writer) (slot : Fin 4) (s : State) : Result :=
  .next (s.sstCommand w 3 slot false fun t =>
    let k := slot.val
    if t.slotSt k = 4 ∨ t.slotSt k = 5 then t.sstEnd 0x124
    else ((t.setSlot k []).puts [(F.sstslotStateState k, 0), (F.sstslotSeqSeq k, 0), (F.sstslotTargetMask k, 0)]).sstEnd 0)

/-- STORE_BOOT (R41): OP 0x4: a VALID or ACTIVE slot of at most 64 KiB stored as the boot stream. -/
def execStoreBoot (w : Writer) (slot : Fin 4) (s : State) : Result :=
  .next (s.sstCommand w 4 slot false fun t =>
    let ws := t.sst.slots.getD slot []
    if t.slotSt slot ≠ 2 ∧ t.slotSt slot ≠ 5 then t.sstEnd 0x124
    else if 65536 < 4 * ws.length then t.sstEnd 0x129
    else t.queueStore ⟨0, false, bytesOfWords ws, [], [], 0, .sst⟩)

/-- CLEAR_BOOT (R41): OP 0x5: the stored boot stream erased. -/
def execClearBoot (w : Writer) (slot : Fin 4) (s : State) : Result :=
  .next (s.sstCommand w 5 slot false fun t => t.queueStore ⟨0, true, [], [], [], 0, .sst⟩)

/-- CMD_INVALID (R41): a write of SST_CMD with an OP of 0x6 to 0xF. -/
def execCmdInvalid (w : Writer) (op : Fin 16) (slot : Fin 4) (s : State) : Result :=
  .next (if op.val < 6 then s else s.sstCommand w op slot false fun t => t.sstEnd 0x12B)

/-! The parts of a structure that belong to no output (R46). -/

/-- TIMEROLE in force: its words, the limits it loads, what the role makes of the clock (R38, R330). -/
def State.takeRole (s : State) (l : List Word) : State :=
  (({ s with sst := { s.sst with timerole := l } }).puts [(F.timeJumpLimitNs, pw l 1), (F.timeSlewMaxNsPerS, pw l 2)]).showRole.holdEpochs

/-- The causes under which units that are WORN already are swapped (R419): a lane or a chain slice by its eye when that is too low, else by its residual
errors; a row by its ECC corrections when these reach ECC_MAX, else by a march test. -/
def State.laneCause (s : State) (n : Nat) : Nat := if s.get (F.plnQEyeHMid n) < s.get F.rlfLaneEyeMin then 2 else 3

/-- The cause of a chain slice. -/
def State.sliceCause (s : State) (p k : Nat) : Nat :=
  if bits (s.get (F.chnrxQEye p k)) 23 16 < s.get F.rlfLaneEyeMin then 2 else 3

/-- The cause of a row. -/
def State.rowCause (s : State) (b r : Nat) : Nat :=
  if max 1 (s.get F.rlfHoldEccMax) ≤ s.relief.ecc.countP (·.1 == b * 1024 + r) then 5 else 4

/-- The WORN units whose kind RELIEF makes automatic swapped, as far as spares are free (R414): lanes and chain slices, reaches, banks and rows; an output PLL
when its output starts next. -/
def State.autoSwaps (s : State) : State :=
  let auto := fun (i : Nat) (l : List Nat) => if s.sst.relief.testBit i then l else []
  let s1 := (auto 0 s.relief.wornLanes).foldl (fun t n =>
    if (t.laneSwap n).isSome then t else t.askLaneSwap n (t.laneCause n) none) s
  let s2 := (auto 0 s.relief.wornChain).foldl (fun t id =>
    let p := id / 5
    let k := id % 5
    if k = 4 || (t.chainRelieved p).isSome || (t.chainSwap p).isSome then t else t.askChainSwap p k (t.sliceCause p k) none) s1
  let s3 := (auto 1 (List.range 64)).foldl (fun t n =>
    if !t.on (F.rlfReachWorn n) || t.on (F.rlfReachReplaced n) || t.relief.waiting.any (fun p => p.kind == 2 && p.unit == n) then t
    else match t.freeReaches with
      | [] => t
      | k :: _ => t.askReachSwap n k 1 none) s2
  let s4 := s3.relief.wornBanks.foldl (fun t b => if t.bankServes b then t.wantRepair (.bank b) 4 else t) s3
  s3.relief.wornRows.foldl (fun t p =>
    if t.bankServes p.1 || t.rowsFree p.1 == 0 then t else t.wantRepair (.row p.1 p.2) (t.rowCause p.1 p.2)) s4

/-- RELIEF, CLOCKS and TIMEROLE of a stream in force. -/
def State.takeGlobal (s : State) (ws : List Word) : State :=
  let rs := streamRecords ws
  ({ s with sst := { s.sst with relief := pw (payOf rs 7) 0, clocks := (payOf rs 6).getD 0 0 } }.takeRole (payOf rs 8)).autoSwaps

/-! APPLY (R45 to R50). -/

/-- The stages that a new route introduces to output n, and its timing shadows (R48); the pulse starts of an output that had
no structure: their reset values are marked SST, and the spec does not say that an APPLY loads them (DESIGN CHOICE, log 87). -/
def State.introOutput (s : State) (n : Nat) (new : OutConfig) : State :=
  let old := s.cfg n
  let t := (List.range 10).foldl (fun t ty => if new.has ty && !old.has ty then t.introStage n ty new else t) s
  if !new.present then t
  else
    let u := t.loadTiming n new
    if old.present then u else u.puts [(F.tgHsyncHsStart n, new.hActive), (F.tgVsyncVsStart n, new.vActive)]

/-- The GO that an accepted APPLY counts as on a running output (R45). -/
def State.applyGo (s : State) (n : Nat) (late : Bool) : State :=
  let t := s.put (F.tgLandGo n) 1
  if late then (t.count (F.tgLateCountCount n) 1).raise (evOut n 1) else t

/-- An accepted APPLY of a slot's stream: the slot PENDING, what belongs to no output, then each targeted output: an idle one
at once, a running one at its Landing. `copyCycle` says which outputs are in their copy cycle. -/
def State.acceptApply (s : State) (k : Nat) (hold : Bool) (copyCycle : BitVec 4) : State :=
  let ws := s.sst.slots.getD k []
  let mask := bits (pw ws 3) 3 0
  let targets := setBits 4 mask
  let s1 := (s.puts [(F.sstslotStateState k, 4), (F.sstslotStateCode k, 0), (F.sstslotErrOffsetWord k, 0), (F.sstPendingPending, 1),
    (F.sstPendingSlot, k), (F.sstPendingOutputsLeft, mask)]).sstEnd 0
  let s2 := { s1 with sst := { s1.sst with applyHold := hold, banksLeft := List.range 256 } }
  let s3 := ((s2.takeGlobal ws).landRights).landBanks
  let s4 := targets.foldl (fun t n => t.introOutput n (streamCfg ws n)) s3
  let s5 := targets.foldl (fun t n => if t.running n then t else ((t.installOut n).landAll n none).showRoles n) s4
  let s6 := targets.foldl (fun t n => if t.running n && !hold then t.applyGo n (copyCycle.getLsbD n) else t) s5
  s6.completeApply

/-- SST_APPLY (R41, R45): OP 0x2: the checks repeated, then the acceptance. -/
def execSstApply (w : Writer) (slot : Fin 4) (hold : Bool) (copyCycle : BitVec 4) (s : State) : Result :=
  .next (s.sstCommand w 2 slot hold fun t =>
    let k := slot.val
    if t.slotSt k ≠ 2 then t.sstEnd 0x124
    else if t.applyPending then t.sstEnd 0x125
    else match t.applyVerdict (t.sst.slots.getD k []) with
      | some v => (t.puts [(F.sstslotStateCode k, v.1), (F.sstslotErrOffsetWord k, v.2)]).sstEnd v.1
      | none => t.acceptApply k hold copyCycle)

/-! Start-up: the boot stream and the null structure (R51). -/

/-- The null structure as a stream. -/
def nullStream : List Word :=
  [0x53534E4C, 0x00000100, 18, 0xF, 0, 0, 3, 0,
   0x00020004, 1, 0x010604FC,
   0x00020006, 0, 0,
   0x00030008, 0, 1000000, 10000]

/-- A structure applied to a part whose outputs are idle and that has no structure: owners, rights, and every
output, whose EN resets to 1 when it has an OUTPUT record (TGn_CTRL). -/
def State.bootWith (s : State) (ws : List Word) (null : Bool) : State :=
  let rs := streamRecords ws
  let map := payOf rs 4
  let s1 := (List.range 256).foldl (fun t b =>
    let e := (bankEntry map b).getD 0
    t.puts [(F.holdOwnerOwner b, bits e 31 24), (F.holdOwnerNoBorrow b, bits e 17 17), (F.holdOwnerWinterKeep b, bits e 18 18)]) s
  let s2 := ({ s1 with sst := { s1.sst with
    rights := rightsEntries (payOf rs 5), banksLeft := [], applyHold := false } }).takeGlobal ws
  let s3 := (List.range 4).foldl (fun t n => t.introOutput n (streamCfg ws n)) s2
  let s4 := ({ s3 with sst := { s3.sst with outs := (List.range 4).map (streamCfg ws) } }).showReaches
  let s5 := (List.range 4).foldl (fun t n => if (t.cfg n).present then ((t.landAll n none).showRoles n).put (F.tgCtrlEn n) 1 else t) s4
  s5.puts [(F.sstActiveSeqSeq, pw ws 4), (F.sstActiveBoot, (!null).toNat), (F.sstActiveNull, null.toNat), (F.sstActiveSlot, 0),
    (F.sstPendingPending, 0), (F.sstPendingOutputsLeft, 0)]

/-- The structure that start-up applies: the stored boot stream when every check passes, else the null structure with the code
of the failing check, 0x12C when none is stored. -/
def State.bootStructure (s : State) : State :=
  match s.recordOf 0 with
  | none => ((s.bootWith nullStream true).put F.sstStatusLastCode 0x12C).raise 241
  | some p =>
    let ws := wordsOfBytes (p.length / 4) p
    match s.loadVerdict p.length ws with
    | none => s.bootWith ws false
    | some v => ((s.bootWith nullStream true).put F.sstStatusLastCode v.1).raise 241

end Sys2Proof.Machine
end

