-- ==== Sys2Proof/Machine/FerryCmd.lean ====
section
/-!
DEFINITION. The end of a ferry (R242), with the accesses that the DMA channels have in flight at the bank; what a tick moves on.
-/

namespace Sys2Proof.Machine

/-- Whether a run of bytes meets a bank. -/
def inBank (bank a n : Nat) : Bool := (banksTouched a n).contains bank

/-- The reads of a transfer from a bank that the bank has accepted and not answered. -/
def DmaXfer.readsAt (x : DmaXfer) (bank : Nat) : List Nat :=
  if x.srcHold then (x.inPhase 0).filter fun j => match x.chunks[j]? with
    | some c => inBank bank (x.srcAt (x.place c.off c.len)) c.len
    | none => false
  else []

/-- The writes of a transfer to a bank that the bank has accepted and not answered. -/
def DmaXfer.writesAt (x : DmaXfer) (bank : Nat) : List Nat :=
  if x.dstHold then (x.inPhase 2).filter fun j => match x.chunks[j]? with
    | some c => inBank bank (x.dstAt (x.place c.off c.len)) c.len
    | none => false
  else []

/-- Whether a channel fetches a descriptor from a bank. -/
def State.fetchesAt (s : State) (ch bank : Nat) : Bool :=
  match (s.chan ch).fetch with
  | some (a, hold) => (s.chan ch).fetching && hold && inBank bank a 64
  | none => false

/-- Whether a channel's status write to a bank is in flight. -/
def State.statusAt (s : State) (ch bank : Nat) : Bool :=
  match (s.chan ch).xfer with
  | some x => x.phase == 2 && inBank bank ((s.curPtr ch).1 + 0x30) 12
  | none => false

/-- Whether a channel has an access in flight at a bank. -/
def State.dmaAt (s : State) (ch bank : Nat) : Bool :=
  s.fetchesAt ch bank || s.statusAt ch bank || (match (s.chan ch).xfer with
    | some x => !(x.readsAt bank).isEmpty || !(x.writesAt bank).isEmpty
    | none => false)

/-- A channel's accesses in flight at a bank cut off at the drain limit (R242, R274): reads end with 0x404, which halts the channel, and so do
the old owner's writes, which are not performed; the writes of another master are. -/
def State.cutChan (s : State) (ch bank oldOwner : Nat) : State :=
  let old := decide (0x10 + ch = oldOwner)
  let s1 := match (s.chan ch).fetch with
    | some (a, hold) => if s.fetchesAt ch bank then s.fetchEnd ch (a, hold) 0x314 [] else s
    | none => s
  match (s.chan ch).xfer with
  | none => s1
  | some x =>
    let s2 := (x.readsAt bank).foldl (fun t j => match x.chunks[j]? with
      | some c => t.readEnd ch j x (x.srcAt (x.place c.off c.len)) 0x314 []
      | none => t) s1
    let s3 := (x.writesAt bank).foldl (fun t j => match x.chunks[j]? with
      | some c =>
        let a := x.dstAt (x.place c.off c.len)
        if old then (t.setChunk ch j fun k => { k with phase := 4 }).chanHalt ch 0x314 a true true false
        else (t.storeRun a c.data).setChunk ch j fun k => { k with phase := 3 }
      | none => t) s2
    let s4 := s3.advance ch
    if s.statusAt ch bank then
      (if old then (s4.setXfer ch fun y => { y with phase := 0 }).chanHalt ch 0x314 ((s.curPtr ch).1 + 0x30) true true true
      else (s4.storeRun ((s.curPtr ch).1 + 0x30) (s.statusBytes ch x)).xferEnd ch x)
    else s4

/-- FERRY_DRAINED (R242): the last access accepted before the ferry has answered. -/
def execFerryDrained (bank : Fin 256) (s : State) : Result :=
  match s.hold.ferries.find? (·.bank == bank.val) with
  | some f =>
    if (List.range 32).any fun ch => s.dmaAt ch bank then .next s
    else .next (((s.drainBank bank).endFerry f 0).dmaGo s)
  | none => .next s

/-- FERRY_DRAIN_LIMIT (R19, R242): the ferry completes 2 µs after its write, accesses still outstanding cut off; one whose last access
answers in this clock has drained. -/
def execFerryDrainLimit (bank : Fin 256) (met : Bool) (s : State) : Result :=
  match s.hold.ferries.find? (·.bank == bank.val) with
  | some f =>
    if !met && (s.hold.outstanding.any (fun p => bankOf p.acc.addr.toNat == bank.val) ||
        (List.range 32).any fun ch => s.dmaAt ch bank) then
      .next (((((List.range 32).foldl (fun t ch => t.cutChan ch bank f.oldOwner) (s.cutBank bank f.oldOwner)).raise 193).endFerry f
        0x404).dmaGo s)
    else .next (((s.drainBank bank).endFerry f 0).dmaGo s)
  | none => .next s

/-- The runs of the Hold that a channel asks for next: its next write, its next read, its status write, a descriptor's fetch. -/
def State.dmaRuns (s : State) (ch : Nat) : List (Nat × Nat) :=
  let c := s.chan ch
  (match c.xfer with
    | some x =>
      (match x.nextWrite with
        | some p => if x.dstHold then [(x.dstAt (x.place p.2.off p.2.len), p.2.len)] else []
        | none => []) ++
      (if x.srcHold && x.started && decide (x.next < x.total) && x.phase == 0 then
        [(x.srcAt (x.place x.next (s.readLen ch x)), s.readLen ch x)] else []) ++
      (if x.phase = 3 then [((s.curPtr ch).1 + 0x30, 12)] else [])
    | none => []) ++
  (match c.fetch with
    | some (a, hold) => if !c.fetching && hold then [(a, 64)] else []
    | none => [])

/-- Whether a request of a channel, its status write among them, waits at the gate of the Hold. -/
def State.dmaWaits (s : State) (ch : Nat) : Bool := (s.dmaRuns ch).any fun r => s.dmaHeld ch r.1 r.2

/-- What a tick moves on beside the time: a requested preserving test (R248), and the channels, whose requests that wait at the gate count the
cycles of the tick (R238); `before` is the state before it. -/
def State.holdGo (s before : State) : State :=
  let cycles := (s.cycleNow - before.cycleNow).toNat
  let t := s.marchGo
  if !before.anyChanBusy then t
  else ((List.range 32).foldl (fun u ch => if before.dmaWaits ch then u.conflict (0x10 + ch) cycles else u) t).dmaGo before

end Sys2Proof.Machine
end

