-- ==== Sys2Proof/Machine/TimeCmd.lean ====
section
/-!
DEFINITION. The commands of the time unit: ticks, discipline, holdover, captures, stamps, windows and timecode
(15_time_reference.md).
-/

namespace Sys2Proof.Machine

/-! Ticks and the time boundary (R325 to R329). -/

/-- 30,517.578125 ns: the step of the always-on count in Winter (R348). -/
def winterStep : Nat := 131072000000000

/-- The pulses of a mode whose beginnings are the multiples of a period, when a tick has reached or passed one: begun at that multiple
(R343). -/
def State.pulseAt (s : State) (mode period before now : Nat) : State :=
  if before / period = now / period then s else s.refPulse mode 0 (now / period * period : Nat) none

/-- Time moved on by one tick: the windows, the pulses and the cycles it meets. -/
def State.tick (s : State) (add : Int) (ticks : Nat) : State :=
  let before := s.time.now
  let now := addTime before add
  let t := (s.setTime fun x => { x with now := now, ticks := x.ticks + ticks }).checkWindows
  ((t.pulseAt 2 secUnit before now).pulseAt 3 (100 * nsUnit) before now).refDivide

/-- TIME_TICK (R325, R327, R348): one 4 ns tick; in Winter, one step of the always-on count. -/
def execTimeTick (s : State) : Result :=
  if s.power.off then .next s
  else if s.inWinter || s.power.fabricOff then .next (s.setTime fun x => { x with now := addTime x.now winterStep, ticks := x.ticks + 7629 })
  else
    let a := s.slewStep
    .next (((s.tick ((s.timeIncr : Int) + a) 1).setTime fun x => { x with slew := x.slew - a, slewed := x.slewed + a }).holdGo s |>.remoteGo s |>.streamGo s)

/-- TIME_BOUNDARY (R328): the frame edge of TIME_CTRL.FRAME_OUT while it runs, else the first tick at or after a whole second. -/
def execTimeBoundary (s : State) : Result :=
  if (!s.on F.timeCtrlSecond && s.running (s.get F.timeCtrlFrameOut)) || decide (s.time.now % secUnit < 5 * nsUnit) then .next s.boundary
  else .next s

/-- A driver write that a discipline forbids (R330): discarded, 0x601. -/
def State.unlessDisciplined (s : State) (allow : Bool) (k : State → State) : State :=
  if s.on F.timeStatusDisciplined && !allow then s.put F.timeStatusLastCode 0x601 else k s

/-- TIME_INCR_WRITE (R326): TIME_INCR_HI written. -/
def execTimeIncrWrite (w : Writer) (data : Word) (s : State) : Result :=
  .next (s.writeBy w R.timeIncrHi fun t => t.unlessDisciplined false fun t =>
    t.setIncr (data.toNat * 2 ^ 32 + t.time.incrLo.toNat : Nat))

/-- TIME_SLEW_WRITE (R327): TIME_SLEW written. -/
def execTimeSlewWrite (w : Writer) (data : Word) (s : State) : Result :=
  .next (s.writeBy w R.timeSlew fun t => t.unlessDisciplined false fun t =>
    t.setTime fun x => { x with slew := data.toInt * (nsUnit : Int) })

/-- TIME_STEP_ARM (R329, R330): TIME_STEP_HI written. -/
def execTimeStepArm (w : Writer) (data : Word) (s : State) : Result :=
  .next (s.writeBy w R.timeStepHi fun t =>
    t.unlessDisciplined (t.timeRole != 2 && t.timeSource == 3 && !t.on F.timeStatusLocked) fun t =>
      let u := t.setReg R.timeStepHi data
      (u.setTime fun x => { x with step := some (sval 64 (data.toNat * 2 ^ 32 + (u.reg R.timeStepLo).toNat)) }).put
        F.timeStatusStepPending 1)

/-! Discipline (R333, R337, R338). -/

/-- The samples of an interval, 0 without a source. -/
def State.intervalSize (s : State) : Nat :=
  if s.timeRole = 2 then 64 else if s.timeSource = 1 then 8 else if s.timeSource = 0 then 0 else 1

/-- LOCKED after an interval of offset o. -/
def State.judgeLock (s : State) (o : Int) : State :=
  let good := if o.natAbs ≤ 4 * nsUnit then s.time.good + 1 else 0
  let t := s.setTime fun x => { x with good := good }
  if 20 * nsUnit < o.natAbs then t.put F.timeStatusLocked 0
  else if 16 ≤ good ∧ !t.on F.timeStatusLocked then
    ((t.put F.timeStatusLocked 1).setTime fun x => { x with everLocked := true }).raise 544
  else t

/-- Whether the reference of the tick (TICK_REF: 0 PE_REFCLK, 1 REFIN) is lost. -/
def State.tickRefLost (s : State) : Bool := if bit s.sst.clocks.toNat 8 then s.time.refinLost else s.time.refclkLost

/-- Whether the samples of an interval are complete. -/
def State.intervalFull (s : State) : Bool := decide (s.intervalSize ≠ 0) && decide (s.intervalSize ≤ s.time.samples.length)

/-- The average of an interval's samples taken and shown (R333). -/
def State.takeInterval (s : State) : State :=
  let n := s.intervalSize
  let o := rheDiv ((s.time.samples.take n).foldl (· + ·) 0) (2 * n)
  let shown := clampI (-2147483648) 2147483647 (rhe 24 o)
  (s.setTime fun x => { x with offset := o, samples := x.samples.drop n, fresh := true }).put F.timeOffsetOffset (ofSval 32 shown)

/-- DISCIPLINE_INTERVAL_END (R333): an interval's samples are complete: their average is shown and acted on; a switch of routes holds
the action back until its holdover ends (R337), a lost reference of the tick until it is back (R338, R397). -/
def execDisciplineIntervalEnd (s : State) : Result :=
  if !s.intervalFull then .next s
  else
    let t := s.takeInterval
    if t.time.holdRoute || t.tickRefLost then .next t
    else
      let v := ((t.setTime fun x => { x with holdSource := false }).showHoldover).correct t.time.offset
      .next (if v.on F.timeStatusHoldover then v else v.judgeLock t.time.offset)

/-- INCR_CORRECTION (R333): once per second, TIME_INCR follows the change of the offset, net of the slew applied. Holdover holds
TIME_INCR: the first second after it has no offset to compare with. -/
def execIncrCorrection (s : State) : Result :=
  if !s.on F.timeStatusDisciplined ∨ s.on F.timeStatusHoldover then
    .next (s.setTime fun x => { x with secondOffset := none, slewed := 0 })
  else
    let o := s.time.offset
    let t := match s.time.secondOffset with
      | none => s
      | some p => s.setIncr ((s.timeIncr : Int) - rheDiv (o - p - s.time.slewed) 250000000)
    .next (t.setTime fun x => { x with secondOffset := some o, slewed := 0 })

/-- HOLDOVER_END (R337): the 2 s after a switch of routes are over: the offset measured in them is applied; `met` says that an interval completes
in that clock: it is in time (R19). -/
def execHoldoverEnd (met : Bool) (s : State) : Result :=
  if !s.time.holdRoute then .next s
  else
    let u := if met && s.intervalFull then s.takeInterval else s
    let t := (u.setTime fun x => { x with holdRoute := false }).showHoldover
    .next (if t.time.fresh && t.on F.timeStatusDisciplined && !t.time.holdSource then t.correct t.time.offset else t)

/-- Whether the unit takes its time from a source of its own (R333). -/
def State.hasSource (s : State) (k : Nat) : Bool := s.timeRole < 2 && s.timeSource == k

/-- A sample of the unit's own source, in 2^-33 ns. -/
def State.sample (s : State) (o : Int) : State := s.setTime fun x => { x with samples := x.samples ++ [o] }

/-- A PTM dialog that failed, the third in a row losing the source (R338). -/
def State.ptmFailed (s : State) : State :=
  let u := s.setTime fun x => { x with ptmFails := min 3 (x.ptmFails + 1), ptmPrev := none }
  if s.time.ptmFails = 2 then u.loseSource 0x604 else u

/-- PTM_DIALOG (R333): the period elapses and a dialog starts; with the link down it fails. -/
def execPtmDialog (s : State) : Result :=
  if s.hasSource 1 && s.on F.timePtmCtrlEn && !s.time.ptmOpen && !s.inWinter then
    .next (if s.host.linkUp then (s.setTime fun x => { x with ptmOpen := true }).toHost .ptmRequest else s.ptmFailed)
  else .next s

/-- PTM_DIALOG_COMPLETE (R333, R338): the stamps of the request and of its response, the master time and the delay of the ResponseD
content; or a failure, the third in a row losing the source. As in the PCI Express base specification, the master time is that of
this request's arrival, and the delay is the responder's own of the dialog before: with that dialog's stamps it gives the way's
length. A dialog with none before it gives no sample (log 92). -/
def execPtmDialogComplete (r : Option (BitVec 96 × BitVec 96 × BitVec 64 × Word)) (s : State) : Result :=
  if !s.time.ptmOpen then .next s
  else
    let t := s.setTime fun x => { x with ptmOpen := false }
    match r with
    | some (t1, t4, master, delay) =>
      let off := sval 64 (t.get F.timePtmOffsetLoNs + 2 ^ 32 * t.get F.timePtmOffsetHiNs)
      let m := addTime (master.toNat * nsUnit) (off * (nsUnit : Int))
      let u := t.setTime fun x => { x with ptmFails := 0, ptmPrev := some (t1, t4) }
      .next (match s.time.ptmPrev with
        | some (p1, p4) => u.sample (2 * stampDiff t1.toNat m + (stampDiff p4.toNat p1.toNat - (delay.toNat * nsUnit : Nat)))
        | none => u)
    | none => .next t.ptmFailed

/-- A failed source of the unit's own (R338). -/
def State.sourceFails (s : State) (k : Nat) : State :=
  if s.hasSource k && !s.time.holdSource then s.loseSource 0x602 else s

/-- PPS_LOSS (R338): edges of SYNC_IN0 are missing under SOURCE 3, unless one came in the very clock of the wait's end (R19). -/
def execPpsLoss (met : Bool) (s : State) : Result := .next (if met then s else s.sourceFails 3)

/-- A reference of the tick is back (R338): a unit that nothing disciplines leaves holdover, another one measures afresh. -/
def State.tickRefBack (s : State) : State :=
  if s.tickRefLost then s
  else if s.on F.timeStatusDisciplined then s.setTime fun x => { x with samples := [] }
  else (s.setTime fun x => { x with holdSource := false }).showHoldover

/-- REFIN_LOSS (R347, R397): REFIN has shown no edge for 1 µs, or strays; `met` says that an edge is recognised in that clock (R19). In Winter REFIN is
off (R441). -/
def execRefinLoss (met : Bool) (s : State) : Result :=
  if met ∨ bits s.sst.clocks.toNat 1 0 = 0 ∨ s.time.refinLost ∨ s.power.off ∨ s.inWinter then .next s
  else
    let t := ((((s.setTime fun x => { x with refinLost := true }).put F.clkStatusRefinOk 0).count F.clkRefLossesRefin 1).raise 548)
    .next (if t.tickRefLost then t.loseSource 0x602 else t)

/-- REFIN_RESTORE (R347, R397): REFIN has been in range for 100 ms. -/
def execRefinRestore (s : State) : Result :=
  if bits s.sst.clocks.toNat 1 0 = 0 ∨ s.power.off ∨ s.inWinter then .next s
  else
    let t := (s.setTime fun x => { x with refinLost := false }).put F.clkStatusRefinOk 1
    .next (if s.time.refinLost then (t.raise 11).tickRefBack else t)

/-- Time in Winter (R348). -/
def State.timeWinter (s : State) : State := (s.put F.timeStatusDegraded 1).raise 555

/-! Captures and stamps (R339 to R341). -/

/-- Whether an edge of SYNC_IN pin k is captured: of the polarity of the lowest timing generator that selects the pin. -/
def State.syncEdgeCounts (s : State) (k : Nat) (rising : Bool) : Bool :=
  match (List.range 4).find? fun n => s.act (F.tgSyncCfgPin n) == k with
  | some n => rising != s.actOn (F.tgPolaritySyncEdge n)
  | none => rising

/-- SYNC_IN_EDGE (R151, R339, R333): a qualified edge on a SYNC_IN pin, at a time in ps for the timing generators, and `sub` after the
tick for its stamp; of two seconds equally near, the later one is the nearest (DESIGN CHOICE, log 108). -/
def execSyncInEdge (pin : Fin 4) (rising : Bool) (t : Int) (sub : BitVec 35) (s : State) : Result :=
  if s.inWinter ∨ s.power.off then .next s
  else
    let s1 := if s.syncEdgeCounts pin rising then s.capture pin sub.toNat else s
    let s2 := if pin = 0 ∧ rising ∧ s1.hasSource 3 then
        let now := s1.stampNow sub.toNat
        let near := (now + secUnit / 2) / secUnit * secUnit
        s1.sample (2 * ((now : Int) - (near : Int)))
      else s1
    .next ((List.range 4).foldl (fun u n =>
      if u.running n && u.paceOf n == 1 && u.act (F.tgSyncCfgPin n) == pin.val && rising != u.actOn (F.tgPolaritySyncEdge n) then
        u.refEdge n t else u) s2)

/-- Capture k. -/
def State.cap (s : State) (k : Nat) : Capture := s.time.caps.getD k ⟨0, 0, 0, false, false⟩

/-- CAPTURE_LO_READ (R339): TIME_CAPk_LO read: the rest of the entry is latched. -/
def execCaptureLoRead (w : Writer) (k : Fin 5) (s : State) : Result :=
  .next (s.readBy w (R.timeCapLo k) fun t =>
    let c := t.cap k
    let u := t.puts [(F.timeCapHiNs k, c.time / 2 ^ 64), (F.timeCapFracFrac k, c.time), (F.timeCapMetaEpoch k, c.epoch),
      (F.timeCapMetaInWin k, c.inWin), (F.timeCapMetaNew k, c.isNew.toNat)]
    (t.reg (R.timeCapLo k), u.setTime fun x => { x with caps := updAt x.caps k fun c => { c with since := false } }))

/-- CAPTURE_META_READ (R339): TIME_CAPk_META read: the latched copy; NEW clears unless a newer capture has come. -/
def execCaptureMetaRead (w : Writer) (k : Fin 5) (s : State) : Result :=
  .next (s.readBy w (R.timeCapMeta k) fun t =>
    (t.reg (R.timeCapMeta k), t.setTime fun x => { x with caps := updAt x.caps k fun c =>
      if c.since then c else { c with isNew := false } }))

/-- PURSER_STAMP_READ (R340): the Purser's handler reads time, `sub` after the tick, for the first event that asks for a stamp; the
stamp is 30 ns earlier. -/
def execPurserStampRead (sub : BitVec 35) (s : State) : Result :=
  match s.purser.stamps with
  | [] => .next s
  | src :: rest =>
    if !s.purser.serving then .next s
    else
      let t := { s with purser := { s.purser with stamps := rest } }
      .next (if 32 ≤ t.time.swlog.length then (t.count F.timeSwlogDropsCount 1).raise 550
        else
          let time := addTime (t.stampNow sub.toNat) (-(30 * (nsUnit : Int)))
          (t.setTime fun x => { x with swlog := x.swlog ++ [⟨time, t.epoch, src⟩] }).showSwlog)

/-- SWLOG_POP (R340, R341): the head of the software stamp log removed. -/
def execSwlogPop (w : Writer) (s : State) : Result :=
  .next (s.writeBy w R.timeSwlogPop fun t => (t.setTime fun x => { x with swlog := x.swlog.drop 1 }).showSwlog)

/-- TXQ_POP (R341): the head of the transmit stamp queue removed. -/
def execTxqPop (w : Writer) (s : State) : Result :=
  .next (s.writeBy w R.timeTxqPop fun t => (t.setTime fun x => { x with txq := x.txq.drop 1, txqTold := false }).showTxq)

/-- WINDOW_ARM (R342): TIME_WINk_CTRL written with EN = 1 and EPOCH: the window is armed, or refused with 0x606. -/
def execWindowArm (w : Writer) (k : Fin 4) (epoch : BitVec 16) (s : State) : Result :=
  .next (s.writeBy w (R.timeWinCtrl k) fun t =>
    let u := t.put (F.timeWinCtrlEpoch k) epoch.toNat
    if u.winClose k ≤ u.winOpen k then u.put F.timeStatusLastCode 0x606
    else (u.put (F.timeWinCtrlEn k) 1).checkWindows)

/-! Timecode (R344 to R346). -/

/-- Words per second of a rate as a ratio, labels per second, labels per day; none for an invalid rate. -/
def ltcRateOf (r : Nat) : Option (Nat × Nat × Nat × Nat) :=
  [(24000, 1001, 24, 2073600), (24, 1, 24, 2073600), (25, 1, 25, 2160000), (30000, 1001, 30, 2592000),
   (30000, 1001, 30, 2589408), (30, 1, 30, 2592000)][r]?

/-- The count a label is displayed as (R345). -/
def ltcDisplayed (rate label : Nat) : Nat :=
  if rate ≠ 4 then label
  else
    let d := label / 17982
    let m := label % 17982
    label + 18 * d + (if 2 ≤ m then 2 * ((m - 2) / 1798) else 0)

/-- The label of a displayed count, the inverse of R345. -/
def ltcLabel (rate shown : Nat) : Nat :=
  if rate ≠ 4 then shown
  else
    let minutes := shown / 1800
    shown - 2 * (minutes - minutes / 10)

/-- A displayed count in the layout of TIME_LTCOk_TC. -/
def ltcTc (rate per shown : Nat) : Nat :=
  let sec := shown / per
  shown % per + 2 ^ 7 * (if rate = 4 then 1 else 0) + 2 ^ 8 * (sec % 60) + 2 ^ 16 * (sec / 60 % 60) + 2 ^ 24 * (sec / 3600 % 24)

/-- The 80 bits of a word (SMPTE ST 12-1), bit 0 the least significant: BCD time address, binary groups, the sync word, and the polarity
bit that makes the number of zeros even. -/
def ltcWord (rate tc user : Nat) : Nat :=
  let g := fun i => 2 ^ (8 * i + 4) * bits user (4 * i + 3) (4 * i)
  let ff := bits tc 5 0
  let ss := bits tc 13 8
  let mm := bits tc 21 16
  let hh := bits tc 28 24
  let w := ff % 10 + 2 ^ 8 * (ff / 10) + 2 ^ 10 * bits tc 7 7 + 2 ^ 16 * (ss % 10) + 2 ^ 24 * (ss / 10) + 2 ^ 32 * (mm % 10) +
    2 ^ 40 * (mm / 10) + 2 ^ 48 * (hh % 10) + 2 ^ 56 * (hh / 10) + 2 ^ 64 * 0xBFFC +
    (g 0 + g 1 + g 2 + g 3 + g 4 + g 5 + g 6 + g 7)
  if popcount 80 w % 2 = 0 then w else w + 2 ^ (if rate = 2 then 59 else 27)

/-- BASE_NS of LTC_OUTk. -/
def State.ltcBase (s : State) (k : Nat) : Nat := s.get (F.timeLtcoBaseNsLoNs k) + 2 ^ 32 * s.get (F.timeLtcoBaseNsHiNs k)

/-- 0x608 for an LTC output enabled at an invalid rate. -/
def State.ltcCheck (s : State) (k : Nat) : State :=
  if s.on (F.timeLtcoCfgEn k) && (ltcRateOf (s.get (F.timeLtcoCfgRate k))).isNone then s.put F.timeStatusLastCode 0x608 else s

/-- LTC_WORD_START (R344): the word of LTC_OUTk whose bit 0 begins now. -/
def execLtcWordStart (k : Fin 2) (s : State) : Result :=
  if !s.on (F.timeLtcoCfgEn k) ∨ !s.pinsDrive then .next s
  else match ltcRateOf (s.get (F.timeLtcoCfgRate k)) with
    | none => .next (s.put F.timeStatusLastCode 0x608)
    | some (num, den, per, day) =>
      let rate := s.get (F.timeLtcoCfgRate k)
      let f := ((s.time.now : Int) - (s.ltcBase k * nsUnit : Nat)) * (num : Int) / ((den * secUnit : Nat) : Int)
      let label := (((s.get (F.timeLtcoBaseFramesFrames k) : Int) + f) % (day : Int)).toNat
      let tc := ltcTc rate per (ltcDisplayed rate label)
      .next ((s.setReg (R.timeLtcoTc k) (BitVec.ofNat 32 tc)).emit (.ltc k (ltcWord rate tc (s.get (F.timeLtcoUserUser k)))))

/-- The offset of an LTC_IN word against LTC_OUT0's mapping (R333), in 2^-33 ns. -/
def State.ltcOffset (s : State) (num den day label stamp : Nat) : Int :=
  let base : Int := (s.ltcBase 0 * nsUnit : Nat)
  let period : Nat := den * secUnit
  -- the frame number of that label nearest the stamp
  let f0 := rheDiv (((stamp : Int) - base) * (num : Int)) period
  let want := ((label : Int) - (s.get (F.timeLtcoBaseFramesFrames 0) : Int) - f0) % (day : Int)
  let d := if (day : Int) < 2 * want then want - (day : Int) else want
  rheDiv (2 * (((stamp : Int) - base) * (num : Int) - (f0 + d) * (period : Int))) num

/-- LTC_IN_WORD (R346): a valid word at a rate, its bit 0 `sub` after the tick. -/
def execLtcInWord (word : BitVec 80) (rate : Fin 6) (sub : BitVec 35) (s : State) : Result :=
  if s.inWinter ∨ s.power.off then .next s
  else match ltcRateOf rate with
    | none => .next s
    | some (num, den, per, day) =>
      let w := word.toNat
      let two := fun lo n => bits w (lo + 3) lo + 10 * bits w (lo + 8 + n) (lo + 8)
      let ff := two 0 1
      let ss := two 16 2
      let mm := two 32 2
      let hh := two 48 1
      let tc := ff + 2 ^ 7 * bits w 10 10 + 2 ^ 8 * ss + 2 ^ 16 * mm + 2 ^ 24 * hh
      let user := (List.range 8).foldl (fun acc i => acc + 2 ^ (4 * i) * bits w (8 * i + 7) (8 * i + 4)) 0
      let label := ltcLabel rate ((hh * 3600 + mm * 60 + ss) * per + ff)
      let good := if s.time.ltcRate = rate.val then s.time.ltcGood + 1 else 1
      let s1 := (s.setTime fun x => { x with ltcGood := min 4 good, ltcBad := 0, ltcRate := rate }).capture 4 sub.toNat
      let s2 := ((s1.setReg R.timeLtciTc (BitVec.ofNat 32 tc)).puts [(F.timeLtciUserUser, user), (F.timeLtciFramesFrames, label),
        (F.timeLtciStatusRate, rate)])
      let lock := decide (4 ≤ good) && !s2.on F.timeLtciStatusLocked
      let s3 := if lock then (s2.put F.timeLtciStatusLocked 1).raise 554 else s2
      .next (if !s3.hasSource 2 then s3
        else if s3.on (F.timeLtcoCfgEn 0) && s3.get (F.timeLtcoCfgRate 0) == rate.val then
          s3.sample (s3.ltcOffset num den day label (s3.cap 4).time)
        else s3.put F.timeStatusLastCode 0x605)

/-- LTC_IN_WORD_MISSING (R346): an expected word is missing or invalid; the second in a row clears LOCKED. A word that came in the very
clock of the wait's end meets it (R19). -/
def execLtcInWordMissing (met : Bool) (s : State) : Result :=
  if met then .next s else
  let t := s.setTime fun x => { x with ltcGood := 0, ltcBad := min 2 (x.ltcBad + 1) }
  .next (if t.time.ltcBad = 2 ∧ t.on F.timeLtciStatusLocked then ((t.put F.timeLtciStatusLocked 0).raise 554).sourceFails 2 else t)

/-- LTC_JAM (R346): TIME_LTCOk_CFG written with JAM = 1: with LOCKED = 1 the incoming count goes on in LTC_OUTk. -/
def execLtcJam (w : Writer) (k : Fin 2) (en : Bool) (rate : BitVec 4) (s : State) : Result :=
  .next (s.writeBy w (R.timeLtcoCfg k) fun t =>
    let u := (t.puts [(F.timeLtcoCfgEn k, en.toNat), (F.timeLtcoCfgRate k, rate.toNat)]).ltcCheck k
    if !u.on F.timeLtciStatusLocked then u
    else
      let ns := (rhe 32 ((u.cap 4).time : Int)).toNat
      u.puts [(F.timeLtcoBaseNsLoNs k, ns), (F.timeLtcoBaseNsHiNs k, ns / 2 ^ 32),
        (F.timeLtcoBaseFramesFrames k, u.get F.timeLtciFramesFrames)])

end Sys2Proof.Machine
end

