-- ==== Sys2Proof/Machine/Restart.lean ====
section
/-!
DEFINITION. Resets and start-up: what a reset keeps, the scan of the calibration store, the records applied, the end of start-up
(18_power_clocks_reset.md, 19_relief_and_aging.md).
-/

namespace Sys2Proof.Machine

/-- The power state changed. -/
def State.setPower (s : State) (f : PowerState → PowerState) : State := { s with power := f s.power }

/-! Records applied at start-up (R252, R408, R411). -/

/-- The field repairs of the HOLD_REPAIR record. -/
def State.recordRepairs (s : State) : List Repair :=
  match s.inForce 3 with
  | some ab => (s.copy 3 ab).repairs
  | none => []

/-- The user deltas and the factory trims added up, saturated (R408). -/
def State.applyTrims (s : State) : State :=
  let user := (s.recordOf 1).getD []
  let r := (List.range 13).foldl (fun (p : State × Bool) i =>
    let lim : Int := if i < 12 then 2000 else 160
    let v := sval 16 (Config.factoryTrim i).toNat + sval 16 (leAt user (2 * i) 2)
    let c := clampI (-lim) lim v
    (p.1.puts [(F.calTrimValue i, ofSval 16 c), (F.calTrimSat i, (decide (c ≠ v)).toNat)], p.2 || decide (c ≠ v))) (s, false)
  r.1.raiseIf r.2 20

/-- The swap log of the RELIEF_LOG record, and its count. -/
def State.recordLog (s : State) : List SwapEntry × Nat :=
  match s.inForce 4 with
  | some ab => ((s.copy 4 ab).log, (s.copy 4 ab).swaps)
  | none => ([], 0)

/-- One swap of the log in force again (R411): slices, reaches, the relief PLL, FeRAM sectors; rows and banks have records of their own. A lane
whose swap failed is on its relief slice all the same (R415). -/
def State.reapply (s : State) (e : SwapEntry) : State :=
  if e.result ≠ 0 ∧ !(e.kind = 0 ∧ e.result = 3) then s
  else match e.kind with
    | 0 => ({ s with relief := { s.relief with lanes := s.relief.lanes ++ [(e.unit, e.spare)] } }).showRelief (laneGroup e.unit)
    | 1 => ({ s with relief := { s.relief with chain := s.relief.chain ++ [(e.unit / 4, e.unit % 4)] } }).put
        (F.chnpStatusRelief (e.unit / 4)) 1
    | 2 => s.switchReach e.unit e.spare
    | 5 => ({ s with relief := { s.relief with pll := some e.unit } }).put F.clkStatusReliefFor e.unit
    | 6 => ({ s with cal := { s.cal with sectors := s.cal.sectors ++ [e.unit] } }).put F.calStatusReliefSectors
        (s.cal.sectors.length + 1)
    | _ => s

/-- The swaps of the RELIEF_LOG record in force again, the log itself shown. -/
def State.reapplySwaps (s : State) : State :=
  let l := s.recordLog
  let t := l.1.foldl State.reapply { s with cal := { s.cal with sectors := [] } }
  let last := l.1.getLast?
  ({ t with relief := { t.relief with log := l.1, swaps := l.2 } }).puts
    ([(F.rlfSwapsCount, l.2)] ++ (match last with
      | some e => [(F.rlfLastSpare, e.spare), (F.rlfLastKind, e.kind), (F.rlfLastResult, e.result), (F.rlfLastUnit, e.unit)]
      | none => []))

/-- TIME_CAL: the defaults of TIME_ASYM and TIME_PTM_OFFSET. -/
def State.timeDefaults (s : State) : State :=
  match s.recordOf 6 with
  | none => s
  | some p => ((List.range 3).foldl (fun t i => t.put (F.timeAsymAsym i) (leAt p (4 * i) 4)) s).puts
      [(F.timePtmOffsetLoNs, leAt p 12 4), (F.timePtmOffsetHiNs, leAt p 16 4)]

/-- One copy of the store checked (R407): an abandoned store, a damaged record. -/
def State.scanCopy (s : State) (k : Nat) (c : CalCopy) : State :=
  if c.magic = magicBlank then (s.put F.calStatusLastCode 0x706).raise 17
  else if c.magic = magicRec ∧ !copyValid k c then (s.put F.calStatusLastCode 0x709).raise 18
  else s

/-- The store scanned (R407): every copy checked, CAL_SEQ shown, whether a record kind other than the boot stream is left without a valid
copy. -/
def State.scanStore (s : State) : State :=
  let t := (List.range 12).foldl (fun t k => ((t.scanCopy k (t.copy k 0)).scanCopy k (t.copy k 1)).showSeq k) s
  let lost := (List.range 12).any fun k =>
    k != 0 && (t.inForce k).isNone && ((t.copy k 0).magic != 0 || (t.copy k 1).magic != 0)
  t.setPower fun p => { p with recoverNeeded := lost }

/-! What a reset keeps (R399). -/

/-- Every pin as it is in start-up (R441): lanes and PLRL outputs idle, gate outputs at the off level, DCHGn_N high. -/
def State.releasePins (s : State) : State :=
  let t := (List.range 96).foldl (fun t l => if t.laneSt l = 0 then t else t.emit (.laneIdle l)) s
  let u := if s.get F.glbStateState = 2 then t.plrlPins false else t
  let v := (List.range 4).foldl (fun t n => if t.running n then t.gatesOff n else t) u
  (List.range 4).foldl (fun t n => if (t.outp n).dchgN then t else t.emit (.dchg n true)) v

/-- A register kept over a reset. -/
def State.keepReg (s old : State) (a : Nat) : State := s.setReg a (old.reg a)

/-- A base lock kept over a WARM reset (R114): its registers, its locked banks, the map as last found valid. -/
def State.keepLock (s old : State) (n : Nat) : State :=
  if !old.baseLocked n then s
  else
    let t := (lockKeys n).foldl (fun t a =>
      let u := (t.keepReg old a).setActReg a (old.actReg a)
      let v := if old.isWritten a then u.setWritten a else u
      if old.hasLanded a then v.setLanded a else v) s
    (t.setLocked (old.get (F.unifLockRangeFirstBank n)) (old.get (F.unifLockRangeBankCount n)) true).setOut n fun o =>
      { o with base := { (old.outp n).base with layer := none } }

/-- What every reset keeps: the FeRAM, the fuses, the pins, the commands that wait. -/
def State.coldState (s : State) : State :=
  let p := s.releasePins
  { State.reset with
    cal := { s.cal with jobs := [], retried := false, trimDue := false, sectors := [] }
    otp := s.otp
    host := { HostState.reset with perst := s.host.perst, ids := fnIds s.otp.subsys }
    power := { PowerState.reset with pfailLow := s.power.pfailLow, pfail := s.power.pfail }
    freeCount := s.freeCount
    out := p.out
    pending := s.pending }

/-- The state a WARM or THERMAL reset leaves (R399, R422): beside that, time, the reset registers, and the contents and repairs of the Hold. Every other
register is at its reset value again, and the written flags of R12 are clear (log 79). -/
def State.warmState (s : State) : State :=
  let c := s.coldState
  let t := { c with
    hold := { HoldState.reset with
      bytes := s.hold.bytes
      uncorr := s.hold.uncorr
      unknownBanks := s.hold.unknownBanks
      knownWords := s.hold.knownWords
      badRows := s.hold.badRows
      badBanks := s.hold.badBanks }
    lanes := List.replicate 96 { LaneState.reset with lastCal := s.time.ticks }
    time := { TimeState.reset with
      now := s.time.now
      ticks := s.time.ticks
      refinLost := s.time.refinLost
      refclkLost := s.time.refclkLost }
    power := { c.power with warmStart := true, thermal := s.power.thermal, fabricOff := s.power.thermal } }
  let u := [R.glbResetCfg, R.glbResetCause].foldl (fun t a => t.keepReg s a) t
  let w := u.put F.holdRepairStatusBanksFree (16 - s.hold.badBanks.length)
  (List.range 4).foldl (fun t n => t.keepLock s n) ((s.repairsInForce ++ listMinus s.recordRepairs s.repairsInForce).foldl State.applyRepair w)

/-- The groups that Winter has powered down, and no Thaw has cleared yet, lose their contents (R243). -/
def State.loseGroups (s : State) : State :=
  (s.hold.unready.filter fun g => bit (s.get F.holdGroupStatusLost) g).foldl (fun t g =>
    (List.range 16).foldl (fun u i => u.losebank (16 * g + i)) t) s

/-- A THERMAL reset switches the Hold off (R399): its contents are lost, and with them the base locks (R114). -/
def State.loseHold (s : State) : State :=
  (List.range 256).foldl State.losebank ((List.range 4).foldl (fun t n => if t.baseLocked n then t.unlockBase n else t) s)

/-- The reset that waited for a discharge made (R399): GLB_STATE is Start-up. -/
def State.doReset (s : State) : State :=
  ((if s.power.thermal then s.loseHold else s.loseGroups).warmState).raiseIf (s.get F.glbStateState != 0) 1

/-! The discharge sequence (R184). -/

/-- Output n cut off: its discharge sequence begins, or, running without one, its lines end. -/
def State.cutOut (s : State) (n : Nat) : State :=
  if (s.outp n).cut then s
  else if (s.cfg n).present && s.on (F.scnDchgCfgEn n) then
    (s.put (F.scnDchgStatusState n) 1).setOut n fun o => { o with dchgRan := true, cut := true, cutAt := s.nowPs, restart := false }
  else if s.running n then s.setOut n fun o => { o with dchgRan := false, cut := true, cutAt := s.nowPs }
  else s

/-- An output that is no longer cut off: the reset that waits is made once none is. -/
def State.uncut (s : State) (n : Nat) : State :=
  let t := s.setOut n fun o => { o with cut := false }
  if t.power.warmPending && !(t.outs.any (·.cut)) then t.doReset else t

/-- A WARM or THERMAL reset begun (R399, R405): the stores abandoned, every running output discharged, then the reset. -/
def State.beginReset (s : State) (thermal : Bool) : State :=
  let t := (s.abandonStores).setPower fun p => { p with warmPending := true, thermal := thermal }
  let u := (List.range 4).foldl (fun t n => if t.running n then t.cutOut n else t) t
  if u.outs.any (·.cut) then u else u.doReset

/-! Cold start-up (R400, R246). -/

/-- The PLLs of the switched domains locked (R400, R395). -/
def State.lockPlls (s : State) : State :=
  s.puts [(F.clkStatusFabricLock, 1), (F.clkStatusPurserLock, 1), (F.clkStatusTickLock, 1)]

/-- The repairs that a start applies before it tests (R252): the factory's, then those of the record. -/
def State.knownRepairs (s : State) : List Repair := s.otp.repairs ++ s.recordRepairs

/-- The outputs of a part that was Off driven again, at their start-up levels (R430, R441): lanes and PLRL outputs in electrical idle, gate outputs at the off
level, DCHGn_N high. -/
def State.pinsUp (s : State) : State :=
  if !s.power.off then s
  else
    let t := ((List.range 96).foldl (fun t l => t.emit (.laneIdle l)) s).plrlPins false
    (List.range 4).foldl (fun t n => (t.gatesOff n).emit (.dchg n true)) t

/-- POWER_ON (R400, R430): all supplies are in range: cold start-up begins, the Hold repaired as its fuses and its record say (R252). -/
def execPowerOn (s : State) : Result := .next (s.knownRepairs.foldl State.applyRepair s.pinsUp.coldState)

/-- A row with failing words repaired (R246, R414): by a relief row, else a relief bank, also where a spare serves it already; the banks that
this start-up has moved are on good spares. -/
def State.repairAtStart (s : State) (moved : List Nat) (b r : Nat) : State × List Nat :=
  if moved.contains b then (s, moved)
  else
    let u := s.raise 724
    if u.rowsFree b ≠ 0 then ((u.applyRepair (.row b r)).raise 200, moved)
    else if u.get F.holdRepairStatusBanksFree ≠ 0 then ((u.applyRepair (.bank b)).raise 200, moved ++ [b])
    else (u.raise 728, moved)

/-- The rows that hold failing words, in the order of their first failures. -/
def failRows (l : List MarchUnit) : List (Nat × Nat) :=
  l.foldl (fun acc u => match u with
    | .word a => let p := (bankOf a.toNat, rowOfAddr a.toNat); if acc.contains p then acc else acc ++ [p]
    | .reliefRow .. | .reliefBank .. => acc) []

/-- STARTUP_MARCH_COMPLETE (R246): the destructive March C− with background 0 over 272 banks ends with its failing words: the first is shown,
all are counted, spares that fail are not free, and the rows that fail are repaired; every word is left zero. -/
def execStartupMarchComplete (fails : List MarchFail) (s : State) : Result :=
  if s.power.off || s.get F.glbStateState != 0 || s.power.warmStart || s.power.coldMarchDone then .next s
  else
    let l := orderFails false false false fails
    let words := failWords l
    let s1 := s.showFail false false l
    let s2 := if l.isEmpty then s1 else (s1.put F.holdMarchStatusLastCode 0x414).raise 197
    let s3 := words.foldl (fun t u => (t.count F.holdMarchFaultsCount 1).badSpare u) s2
    let s4 := ((failRows words).foldl (fun (q : State × List Nat) p => q.1.repairAtStart q.2 p.1 p.2) (s3, [])).1
    .next (((s4.clearRange 0 0x40000000).lockPlls).setPower fun p => { p with coldMarchDone := true })

/-! The end of start-up. -/

/-- The spare that a new repair took, later ones of its bank, or of banks, standing behind it. -/
def State.spareTaken (s : State) (r : Repair) (behind : List Repair) : Nat :=
  match r with
  | .row b _ =>
    let later := behind.countP fun q => match q with
      | .row c _ => c == b
      | .bank _ => false
    goodSpare (s.badRowsOf b) (s.get (F.holdOwnerRowsUsed b) - 1 - later)
  | .bank _ =>
    let later := behind.countP fun q => match q with
      | .row .. => false
      | .bank _ => true
    goodSpare s.hold.badBanks (s.hold.reliefBanks.length - 1 - later)

/-- Repairs logged one after the other. -/
def State.logNew (s : State) : List Repair → State
  | [] => s
  | r :: rest => (s.logRepair r (s.spareTaken r rest) 4).logNew rest

/-- Repairs that have no record yet stored and logged. -/
def State.storeNewRepairs (s : State) : State :=
  let new := listMinus s.repairsInForce s.knownRepairs
  if new.isEmpty then s
  else
    let t := s.storeRepairs
    if s.power.warmStart then t else t.logNew new

/-- Whether a boot stream is stored and fails a check; an absent one, its copies damaged or not, does not count (R407). -/
def State.bootFails (s : State) : Bool :=
  match s.recordOf 0 with
  | some p => (s.loadVerdict p.length (wordsOfBytes (p.length / 4) p)).isSome
  | none => false

/-- Step 8 of R400: GLB_STATE leaves Start-up, the outputs with EN start, the chain ports transmit. -/
def State.finishStart (s : State) : State :=
  let st := if s.power.recoverNeeded then 3 else 1
  let t := ((((s.put F.glbStateState st).raise 0).raise 1).raiseIf (st == 3) 23).raiseIf (s.power.warmStart && st == 1) 24
  let u := (t.raiseIf t.power.thermal 26).setPower fun p => { p with halted := false, thermal := false, warmStart := false }
  ((List.range 4).foldl (fun t n =>
    if t.on (F.tgCtrlEn n) && !t.running n && t.mayEnable n then t.startOut n else t) u).portsStart

/-- STARTUP_COMPLETE (R400, R407, R51, R432): the store is scanned, its records and the boot stream applied, and GLB_STATE leaves Start-up,
unless PFAIL_N is low; whether PE_REFCLK and REFIN are in range, and whether the OTP read found an error. -/
def execStartupComplete (refclk refin otpError : Bool) (s : State) : Result :=
  if s.power.off || s.power.fabricOff || s.power.halted || s.get F.glbStateState != 0 ||
      !(s.power.warmStart || s.power.coldMarchDone) || s.power.warmPending then .next s
  else
    let s1 := ((s.lockPlls).raiseIf otpError 21).puts [(F.sstStatusSignRequired, s.otp.signRequired.toNat),
      (F.sstStatusKeyHashFused, s.otp.keyHash.isSome.toNat), (F.clkStatusRefclkOk, refclk.toNat)]
    let bad := s1.bootFails
    let s2 := ((s1.reapplySwaps).scanStore.applyTrims).storeNewRepairs
    let s3 := (s2.bootStructure).timeDefaults
    let s4 := s3.put F.clkStatusRefinOk (refin && bits s3.sst.clocks.toNat 1 0 != 0).toNat
    let s5 := (s4.setPower fun p => { p with recoverNeeded := p.recoverNeeded || bad || otpError }).serve
    .next (if s5.power.pfailLow then s5.setPower fun p => { p with halted := true } else s5.finishStart)

end Sys2Proof.Machine
end

