-- ==== Sys2Proof/Machine/Pfail.lean ====
section
/-!
DEFINITION. Power-fail discharge (08_scanout_gate_slack_discharge.md, R183 to R185; R210, R396, R432).
-/

namespace Sys2Proof.Machine

/-- PFAIL_N_FALL (R183): PFAIL_N goes low. -/
def execPfailNFall (s : State) : Result := .next (s.setPower fun p => { p with pfailLow := true })

/-- Winter entry abandoned with 0x712 (R393, R396): the power state it came from, WINTER_ABANDONED. -/
def State.abandonEntry (s : State) : State :=
  (s.puts [(F.glbPowerStatusLastCode, 0x712), (F.glbPowerStatusState, s.power.thawTarget)]).raise 5

/-- PFAIL_N_RECOGNISED: the lanes' calibrations end, the stores are abandoned, outputs are cut off: all of them, or those that run. -/
def State.discharge (s : State) (idle : Bool) : State :=
  let t := (List.range 96).foldl State.abortCal s.abandonStores
  (List.range 4).foldl (fun t n => if idle || t.running n then t.cutOut n else t) t

/-- PFAIL_RECOGNISED (R183, R396, R405): PFAIL_N has stayed low 100 ns: the discharge begins; an entry into Winter is abandoned; in Winter and
in a Thaw it is latched, and the Thaw restarts no output. -/
def execPfailRecognised (s : State) : Result :=
  if !s.power.pfailLow || s.power.pfail || s.power.off then .next s
  else
    let t := s.setPower fun p => { p with pfail := true }
    let st := s.powerState
    .next (if st = 5 ∨ st = 6 then
        ((t.put F.glbPowerStatusPfailSeen 1).setPower fun p => { p with pfailThaw := true }).discharge false
      else if st = 4 then ((t.abandonEntry).raise 8).discharge false
      else (t.raise 8).discharge true)

/-- PFAIL_N_RISE (R185, R432): PFAIL_N returns high; a start-up that it halted goes on. -/
def execPfailNRise (s : State) : Result :=
  let t := s.setPower fun p => { p with pfailLow := false, pfail := false }
  let u := if s.power.pfail && !s.power.off then t.raise 9 else t
  .next (if u.power.halted && !u.power.off then u.finishStart else u)

/-- The lanes that output n drives. -/
def State.drivenLanes (s : State) (n : Nat) : List Nat :=
  if !s.running n then []
  else
    let a := (s.outp n).prev.lanes
    (a ++ (s.cfg n).lanes.filter fun l => !a.contains l).filter fun l => s.laneSt l != 0

/-- The gate outputs at the discharge pattern (R184): bit k at 1 the active level of output k, at 0 the inactive one. -/
def State.gatePattern (s : State) (n : Nat) : State :=
  ((s.cfg n).gates).foldl (fun t k =>
    t.emit (.gate n k (t.gateIdle n k != bit (t.get (F.scnDchgPatternLevels n)) k) 0 0)) (s.setOut n fun o => { o with pulses := [] })

/-- The packet under way on a lane of output n closed (R210): it completes, but of its blocks those that would begin 20 µs or more after
recognition are not sent, nor is its CRC; then IDLE until now. -/
def State.closePacket (s : State) (n l : Nat) : State :=
  let limit := s.blocksTo l (s.symbolAt l ((s.outp n).cutAt + 20000000))
  let t := s.sendBlocks l (min (s.lane l).queue.length limit)
  ((t.setLane l fun x => { x with queue := [], histAt := none }).laneTo l s.nowPs)

/-- The lanes of output n in the discharge order (R210): from now on every block of them is the same order, which fills them to step 4. -/
def State.orderLanes (s : State) (n : Nat) : State :=
  (s.drivenLanes n).foldl (fun t l =>
    let u := (t.dropFrames l).closePacket n l
    ((u.setLane l fun x => { x with orderSeq := x.nextSeq, fill := some (orderBlock 1 x.nextSeq []) }).sendNext l).put
      (F.plnStatusState l) 6) s

/-- DISCHARGE_CUT (R184): the line under way has ended: step 2 and step 3; an output without the sequence stops. -/
def execDischargeCut (n : Fin 4) (s : State) : Result :=
  let o := s.outp n
  if !o.cut then .next s
  else if !o.dchgRan then .next ((s.stopOut n).uncut n)
  else if s.get (F.scnDchgStatusState n) ≠ 1 then .next s
  else
    let t := (s.orderLanes n).gatePattern n
    let u := (t.setOut n fun o => { o with dchgN := false }).put (F.scnDchgStatusState n) 2
    .next (if o.dchgN then u.emit (.dchg n false) else u)

/-- DISCHARGE_HOLD_EXPIRY (R184): HOLD_US has elapsed: gates at the off level, lanes in electrical idle. -/
def execDischargeHoldExpiry (n : Fin 4) (s : State) : Result :=
  if !(s.outp n).cut || s.get (F.scnDchgStatusState n) ≠ 2 then .next s
  else
    let t := (s.drivenLanes n).foldl State.laneOff (s.gatesOff n)
    .next (t.put (F.scnDchgStatusState n) 3)

/-- DISCHARGE_COMPLETE (R184, R185): the sequence ends 10 µs later: the output is stopped, EN = 0. -/
def execDischargeComplete (n : Fin 4) (s : State) : Result :=
  if !(s.outp n).cut || !(s.outp n).dchgRan || s.get (F.scnDchgStatusState n) ≠ 3 then .next s
  else
    let t := if s.running n then s.stopOut n else s.put (F.tgCtrlEn n) 0
    .next (t.uncut n)

end Sys2Proof.Machine
end

