-- ==== Sys2Proof/Machine/Winter.lean ====
section
/-!
DEFINITION. Power states: Slack, Winter, Thaw (18_power_clocks_reset.md, R391 to R396; R177, R243, R244, R433).
-/

namespace Sys2Proof.Machine

/-! Requests (R391, R392). -/

/-- Whether a request is refused: an invalid one, or any during a transition. -/
def State.powerRefuses (s : State) (req : Nat) : Bool :=
  req == 3 || s.powerState == 2 || s.powerState == 3 || s.powerState == 4 || s.powerState == 6

/-- A write of GLB_POWER_CTRL.REQ: refused with 0x711 and POWER_REFUSED, or taken up. -/
def State.powerRequest (s : State) (w : Writer) (req : Nat) (k : State → State) : State :=
  s.writeBy w R.glbPowerCtrl fun t =>
    let u := t.put F.glbPowerCtrlReq req
    if u.powerRefuses req then (u.put F.glbPowerStatusLastCode 0x711).raise 7
    else k (u.put F.glbPowerStatusLastCode 0)

/-- A transition of Slack begun (R177): idle outputs make it at once, running ones at their next Landing points. -/
def State.beginSlack (s : State) (enter : Bool) : State :=
  let t := s.put F.glbPowerStatusState (if enter then 2 else 3)
  ((List.range 4).foldl (fun t n => if t.running n then t else t.setOut n fun o => { o with inSlack := enter }) t).slackCheck

/-- Thaw begun (R395): PWR_RET_N released, the state requested noted. -/
def State.beginThaw (s : State) (target : Nat) : State :=
  (s.put F.glbPowerStatusState 6).setPower fun p =>
    { p with thawTarget := target, pwrRetLow := false, vddHoldLate := false, switchesClosed := false }

/-- POWER_REQUEST_RUN (R391, R392, R395): REQ = 0. -/
def execPowerRequestRun (w : Writer) (s : State) : Result :=
  .next (s.powerRequest w 0 fun t =>
    if t.powerState = 1 then t.beginSlack false else if t.inWinter then t.beginThaw 0 else t)

/-- POWER_REQUEST_SLACK (R391, R392, R395): REQ = 1. -/
def execPowerRequestSlack (w : Writer) (s : State) : Result :=
  .next (s.powerRequest w 1 fun t =>
    if t.powerState = 0 then t.beginSlack true else if t.inWinter then t.beginThaw 1 else t)

/-- POWER_REQUEST_WINTER (R391, R393): REQ = 2: the running outputs are noted and stopped as if EN were written 0. -/
def execPowerRequestWinter (w : Writer) (s : State) : Result :=
  .next (s.powerRequest w 2 fun t =>
    if t.inWinter then t
    else
      let wake := ofBits ((List.range 4).map t.running)
      let u := (t.puts [(F.glbPowerStatusWakeOutputs, wake), (F.glbPowerStatusState, 4)]).setPower fun p =>
        { p with thawTarget := t.powerState }
      (List.range 4).foldl (fun u n => if u.running n then u.disable n else u) u)

/-- POWER_REQUEST_INVALID (R391): REQ = 3, or a request during a transition: refused. -/
def execPowerRequestInvalid (w : Writer) (req : Fin 4) (s : State) : Result :=
  .next (if s.powerRefuses req then s.powerRequest w req id else s)

/-- SLACK_EXIT_DEADLINE (R177): 20 µs after a request that leaves Slack, gating ends on every output. -/
def execSlackExitDeadline (s : State) : Result :=
  .next (if s.powerState = 3 then
    ((List.range 4).foldl (fun t n => t.setOut n fun o => { o with inSlack := false }) s).slackCheck else s)

/-! Entry into Winter (R393). -/

/-- Whether everything that step 2 of R393 waits for has ended. -/
def State.quiesced (s : State) : Bool :=
  (List.range 4).all (fun n => !s.running n) &&
  (List.range 32).all (fun ch => s.get (F.dmaStatusState ch) == 0 || s.get (F.dmaStatusState ch) == 3) &&
  (List.range 4).all (fun e => s.eddySt e != 1) &&
  s.hold.ferries.isEmpty && s.hold.structFerries.isEmpty && s.purser.manifest.isNone && s.cal.jobs.isEmpty && s.hold.repair.isNone

/-- The groups kept, and lost, as masks (R35, R243). -/
def State.keptGroups (s : State) : Nat :=
  ofBits ((List.range 16).map fun g => (List.range 16).any fun i => s.on (F.holdOwnerWinterKeep (16 * g + i)))

/-- Whether a base lock of output n has a bank in a lost group (R114). -/
def State.lockLost (s : State) (n : Nat) (kept : Nat) : Bool :=
  s.baseLocked n && (List.range (s.get (F.unifLockRangeBankCount n))).any fun i =>
    !bit kept ((s.get (F.unifLockRangeFirstBank n) + i) / 16)

/-- The context that a job stopped for output space has left: a free one (R394). -/
def State.lostCtx (s : State) (j : EddyJob) : EddyCtx :=
  let k := s.freeCount
  ⟨Config.lostHistory k, Config.lostLens k, Config.lostBits k, [], Config.freeValue k, 0, 0, Config.lostRow k, j.width, j.depth,
    Config.freeValue (k + 1), Config.freeValue (k + 2)⟩

/-- The contexts of an Eddy engine lost (R394). -/
def State.loseCtx (s : State) (e : Nat) : State :=
  let t := (s.setEddy e fun x => { x with ctx := EddyCtx.empty }).put (F.eddyStatusCtxValid e) 0
  match (s.eddy e).job with
  | none => t
  | some j => { t.setEddy e fun x => { x with job := some { j with words := 0, resumed := some (s.lostCtx j, 8 * s.get (F.eddyInDoneBytes e) + s.get (F.eddyBitsInBits e)) } } with
      freeCount := t.freeCount + 3 }

/-- The data views lapse (R394). -/
def State.lapseViews (s : State) : State :=
  let t := { s with chain := { s.chain with data := [] } }
  s.chain.disagree.foldl State.judgeViews t

/-- The switched domains off: the Purser stops, no PLL is locked. -/
def State.fabricDown (s : State) : State :=
  ((s.setPurser fun p => { p with serving := false }).puts [(F.pursStatusRunning, 0), (F.clkStatusFabricLock, 0),
    (F.clkStatusPurserLock, 0), (F.clkStatusTickLock, 0), (F.clkStatusOutLock, 0), (F.clkStatusReliefLock, 0)]).setPower fun p =>
      { p with fabricOff := true }

/-- Steps 3 to 5 of R393. -/
def State.intoWinter (s : State) : State :=
  let win := s.hold.window
  let s1 := if win.isSome then (s.yieldWindow).afterWindow win else s
  let kept := s1.keptGroups
  let s2 := ((s1.portsStop).timeWinter).puts [(F.holdGroupStatusKept, kept), (F.holdGroupStatusLost, 65535 - kept)]
  let s3 := (List.range 4).foldl (fun t n => if t.lockLost n kept then t.unlockBase n else t) s2
  let s4 := (List.range 4).foldl State.loseCtx s3
  let s5 := ((if s4.get F.glbStateState = 2 then s4.plrlPins false else s4).lapseViews.fabricDown).setPower fun p => { p with pwrRetLow := true }
  ({ s5 with hold := { s5.hold with unready := List.range 16, wave := [] } }).put F.glbPowerStatusState 5

/-- WINTER_QUIESCED (R393): everything has ended; entry goes on to retention. -/
def execWinterQuiesced (s : State) : Result := .next (if s.powerState = 4 && s.quiesced then s.intoWinter else s)

/-- The outputs of WAKE_OUTPUTS restarted (R149). -/
def State.wakeOutputs (s : State) : State :=
  (List.range 4).foldl (fun t n =>
    if !bit (s.get F.glbPowerStatusWakeOutputs) n || !t.mayEnable n then t
    else if t.running n then (t.put (F.tgCtrlEn n) 1).setOut n fun o => { o with stopping := false }
    else t.startOut n) s

/-- WINTER_ENTRY_TIMEOUT (R393): 100 ms after the request step 2 is not reached: entry is abandoned, the outputs restart. A step 2
reached in that very clock is in time (R19). -/
def execWinterEntryTimeout (met : Bool) (s : State) : Result := .next (if s.powerState = 4 && !met then (s.abandonEntry).wakeOutputs else s)

/-! Thaw (R395, R433). -/

/-- VDD_HOLD_LATE (R433): VDD_HOLD is not in range 250 µs into Thaw, which waits for it; `met` says that it is recognised in range in that clock
(R19). -/
def execVddHoldLate (met : Bool) (s : State) : Result :=
  .next (if met = false && s.powerState = 6 && !s.power.switchesClosed && !s.power.vddHoldLate then
    (s.setPower fun p => { p with vddHoldLate := true }).raise 28 else s)

/-- THAW_SWITCHES_CLOSE (R395, R433): VDD_HOLD is in range: the switches close, the PLLs start; in Test the PLRL outputs carry their signal
again (R442). `lost` says that VDD_HOLD fell below 0.475 V in retention: the kept groups have lost their contents, and nothing reports it. -/
def execThawSwitchesClose (lost : Bool) (s : State) : Result :=
  .next (if s.powerState ≠ 6 || s.power.switchesClosed then s
    else
      let t := if lost then ((List.range 256).filter fun b => bit (s.get F.holdGroupStatusKept) (b / 16)).foldl State.losebank s else s
      (if t.get F.glbStateState = 2 then t.plrlPins true else t).setPower fun p => { p with switchesClosed := true })

/-- The groups that wake together next (R244): at most four, kept ones first, then lost ones, each in ascending order. -/
def State.nextWave (s : State) : List Nat :=
  let kept := s.hold.unready.filter fun g => bit (s.get F.holdGroupStatusKept) g
  (if kept.isEmpty then s.hold.unready else kept).take 4

/-- The next wave of groups begun. -/
def State.beginWave (s : State) : State := { s with hold := { s.hold with wave := s.nextWave } }

/-- THAW_PLLS_LOCKED (R395): the fabric, Hold, Purser and tick PLLs are locked; the Purser resumes. -/
def execThawPllsLocked (s : State) : Result :=
  .next (if s.powerState = 6 && s.power.switchesClosed && s.power.fabricOff then
    (((s.setPower fun p => { p with fabricOff := false }).lockPlls).serve).beginWave else s)

/-- HOLD_GROUP_READY (R244, R395): a group of banks becomes ready, cleared to zero when it was lost, and its held accesses are
presented; after the last of its wave the next wave begins, with the last group THAW_DONE, GROUP_LOST when one was lost, and the chain ports transmit. -/
def execHoldGroupReady (group : Fin 16) (s : State) : Result :=
  if s.hold.wave.contains group.val && !s.power.fabricOff then
    let s1 := if s.get F.holdGroupStatusLost / 2 ^ group.val % 2 = 1
      then s.clearRange (group * 0x4000000) ((group + 1) * 0x4000000) else s
    let s2 := { s1 with hold := { s1.hold with
      unready := s1.hold.unready.filter (· != group.val), wave := s1.hold.wave.filter (· != group.val) } }
    let s3 := (if s2.hold.wave.isEmpty then s2.beginWave else s2).releaseHeld fun a => bankOf a.addr.toNat / 16 == group.val
    .next (if s3.hold.unready.isEmpty then ((s3.raise 198).raiseIf (s3.get F.holdGroupStatusLost != 0) 199).portsStart else s3)
  else .next s

/-- THAW_COMPLETE (R395, R394, R396): the output PLLs are locked: the outputs that Winter stopped restart, unless PFAIL_N was recognised; the
state requested is in force, and the sources that waited over Winter send their messages; then the events of the Thaw's end. -/
def execThawComplete (s : State) : Result :=
  if s.powerState ≠ 6 ∨ s.power.fabricOff ∨ !s.hold.unready.isEmpty then .next s
  else
    let slack := decide (s.power.thawTarget = 1)
    let s1 := (List.range 4).foldl (fun t n => t.setOut n fun o => { o with inSlack := slack }) s
    let s2 := (List.range 32).foldl State.sendWaiting
      ((s1.put F.glbPowerStatusState s.power.thawTarget).setPower fun p => { p with pfailThaw := false })
    let s3 := if s.power.pfailThaw then s2
      else (List.range 4).foldl (fun t n => if t.on (F.tgCtrlEn n) && !t.running n && t.mayEnable n then t.startOut n else t) s2.wakeOutputs
    .next ((s3.raise 4).raiseIf (s3.get F.glbWinterDropsCount != 0) 6)

end Sys2Proof.Machine
end

