-- ==== Sys2Proof/Machine/Clocks.lean ====
section
/-!
DEFINITION. Clocks, PLLs and supplies (18_power_clocks_reset.md, R397, R398; 19_relief_and_aging.md, R417; 21_electrical_and_package.md,
R432).
-/

namespace Sys2Proof.Machine

/-! References (R397, R398). -/

/-- REFCLK_LOSS (R397, R338): PE_REFCLK stops or strays. -/
def execRefclkLoss (s : State) : Result :=
  if s.time.refclkLost ∨ s.power.off then .next s
  else
    let t := (((s.setTime fun x => { x with refclkLost := true }).put F.clkStatusRefclkOk 0).count F.clkRefLossesRefclk 1).raise 10
    .next (if t.tickRefLost then t.loseSource 0x602 else t)

/-- REFCLK_RESTORE (R397): PE_REFCLK has been in range for 100 ms. -/
def execRefclkRestore (s : State) : Result :=
  if s.power.off then .next s
  else
    let t := (s.setTime fun x => { x with refclkLost := false }).put F.clkStatusRefclkOk 1
    .next (if s.time.refclkLost then (t.raise 11).tickRefBack else t)

/-- AON_CRYSTAL_STOP (R398): the always-on domain runs on its internal oscillator. -/
def execAonCrystalStop (s : State) : Result :=
  .next (if s.on F.clkStatusAonFault || s.power.off then s else (s.put F.clkStatusAonFault 1).raise 14)

/-! PLLs (R397, R410, R417). -/

/-- The bit of CLK_STATUS that shows a PLL's lock. -/
def pllBit : Pll → Nat
  | .fabric => 0
  | .purser => 1
  | .tick => 2
  | .out n => 4 + n
  | .relief => 8

/-- Whether a PLL is on (R397): those of the switched domains while these are, an output's own while it runs, from its start on, or waits to
restart, and no relief PLL serves it; the relief PLL while it serves such an output. -/
def State.pllOn (s : State) (p : Pll) : Bool :=
  let uses := fun n => s.running n || (s.outp n).restart
  !s.power.off && match p with
  | .out n => uses n && s.relief.pll != some n.val
  | .relief => match s.relief.pll with
    | some n => uses n
    | none => false
  | _ => !s.power.fabricOff

/-- PLL_LOSS_OF_LOCK (R397, R410): a PLL loses lock. -/
def execPllLossOfLock (p : Pll) (s : State) : Result :=
  .next (if s.pllOn p && bit (s.reg R.clkStatus).toNat (pllBit p) then (s.setBit R.clkStatus (pllBit p) false).raise 12 else s)

/-- An output that waits for its PLL started, now that it is locked. -/
def State.restartOut (s : State) (n : Nat) : State :=
  if (s.outp n).restart && s.mayEnable n && s.pllLocked n then s.startOut n else s

/-- PLL_LOCK_REGAINED (R410, R417): a PLL that lost lock locks again; an output that waits for it restarts. -/
def execPllLockRegained (p : Pll) (s : State) : Result :=
  if !s.pllOn p || bit (s.reg R.clkStatus).toNat (pllBit p) then .next s
  else
    let t := (s.setBit R.clkStatus (pllBit p) true).raise 13
    .next (match p with
      | .out n => t.restartOut n
      | .relief => (List.range 4).foldl (fun t n => if t.relief.pll = some n then t.restartOut n else t) t
      | _ => t)

/-- OUTPUT_PLL_RELOCK_TIMEOUT (R417, R414): 100 µs after its PLL lost lock a running output goes idle; it restarts on the relief PLL when
AUTO_PLL is 1 and that is free, else once its own PLL relocks. A lock in that very clock is in time (R19). -/
def execOutputPllRelockTimeout (n : Fin 4) (met : Bool) (s : State) : Result :=
  let o := s.outp n
  if met || !s.running n || o.cut || s.pllLocked n then .next s
  else
    let t := s.stopOut n
    if o.stopping then .next t
    else
      let auto := t.sst.relief.testBit 3
      let u := { t.put (F.tgCtrlEn n) 1 with relief := { t.relief with wornPlls := keyInsert t.relief.wornPlls n } }
      .next (if auto && u.relief.pll.isNone && u.mayEnable n then u.startOut n
        else (u.raiseIf u.relief.pll.isSome 728).setOut n fun o => { o with restart := true })

/-! Supplies (R432). -/

/-- SUPPLY_OUT_OF_RANGE (R432): a supply lies outside its range for 10 µs. -/
def execSupplyOutOfRange (s : State) : Result := .next (if s.power.off then s else s.raise 27)

/-- SUPPLY_COLLAPSE (R432, R405): VDD_CORE or VDD_AON below 90 % of its minimum: the stores are abandoned, the part is Off, its outputs
float; the next return is a cold start. -/
def execSupplyCollapse (s : State) : Result :=
  if s.power.off then .next s
  else
    let t := s.abandonStores.emit .float
    .next { State.reset with
      cal := { t.cal with sectors := [] }
      otp := t.otp
      host := { HostState.reset with perst := t.host.perst }
      power := { PowerState.reset with off := true, pfailLow := t.power.pfailLow }
      freeCount := t.freeCount
      out := t.out
      pending := t.pending }

end Sys2Proof.Machine
end

