-- ==== Sys2Proof/Machine/Scan.lean ====
section
/-!
DEFINITION. The commands of frame slots, line groups and region updates (03_ingest_and_frame_slots.md,
08_scan_out_and_slack.md).
-/

namespace Sys2Proof.Machine

/-! Slots (R61, R180). -/

/-- SLOT_READY (R61): a write of SCNn_SLOTk_CTRL with READY = 1; WITHDRAW in the same write is ignored. -/
def execSlotReady (w : Writer) (n k : Fin 4) (s : State) : Result :=
  .next (s.writeBy w (R.scnSlotCtrl n k) fun t => t.slotWrite n k true false)

/-- SLOT_WITHDRAW (R61): a write of SCNn_SLOTk_CTRL with WITHDRAW = 1. -/
def execSlotWithdraw (w : Writer) (n k : Fin 4) (s : State) : Result :=
  .next (s.writeBy w (R.scnSlotCtrl n k) fun t => t.slotWrite n k false true)

/-! Line groups (R65, R66, R168, R169). -/

/-- A master that reads and writes on behalf of output n: its scan-out engine. -/
def scanMaster (n : Nat) : Nat := 0xC0 + n

/-- The source lines that front row y of the route needs, as a count from the top (R79, R97): all of them behind the active lines. -/
def State.linesFor (s : State) (n y : Nat) : Nat :=
  if s.vActive n ≤ y then (s.pictureFormat n).height
  else
    let last := if (s.cfg n).has 4 then s.dualNeeds n y else y + 1
    (List.range last).foldl (fun m r => match s.scalNeeds n r with
      | some k => max m (k + 1)
      | none => m) 0

/-- The line group that the route is consuming: of the next panel line to begin, or of line 0 of the frame to come (R168). -/
def State.groupNow (s : State) (n : Nat) : Nat :=
  let o := s.outp n
  (s.linesFor n (if o.landed then 0 else o.line) - 1) / 16

/-- Whether the scan-out engine of output n has a group to read: of the frame under way, or past its Landing point of the
next one, when that one is scanned (R368); at most two groups ahead of the one that the route is consuming (R168). -/
def State.groupDue (s : State) (n : Nat) : Bool :=
  let o := s.outp n
  s.running n && !o.waiting && !o.cut && !o.routeHeld && (o.kind == 0 || o.landed) &&
    (!o.landed || (o.nextKind == 0 && !o.stopping && o.stall == 0)) && decide (16 * o.pix.groups < (s.pictureFormat n).height) &&
    decide (o.pix.groups ≤ s.groupNow n + 2)

/-- The lines of a group that complete chase tracking requires (R65): up to CHASE_MARGIN beyond it. -/
def State.chaseMet (s : State) (n g : Nat) : Bool :=
  let f := srcFormat s.act n
  (List.range (min (16 * g + 16 + s.act (F.scnSlotCfgChaseMargin n)) f.height - 16 * g)).all fun i =>
    lineComplete f (s.outp n).chaseDone (16 * g + i)

/-- The rows of plane p that group g reads: first and count. -/
def SrcFormat.groupRows (f : SrcFormat) (p g : Nat) : Nat × Nat :=
  let lo := f.rowFor p (16 * g)
  let hi := f.rowFor p (min (16 * g + 15) (f.height - 1))
  (lo, hi + 1 - lo)

/-- The runs of bytes that group g reads: plane, address, length. -/
def State.groupRuns (s : State) (n g : Nat) : List (Nat × Nat × Nat) :=
  let f := srcFormat s.act n
  ((List.range f.planes).map fun p =>
    let r := f.groupRows p g
    (List.range r.2).map fun i =>
      (p, slotBase s.act n (s.curSlot n) p + slotStride s.act n (s.curSlot n) p * (r.1 + i), f.lineBytes p)).flatten

/-- The completion of the lines read cleared (R64). -/
def State.clearRead (s : State) (n g : Nat) : State :=
  let f := srcFormat s.act n
  let keys := ((List.range f.planes).map fun p =>
    let r := f.groupRows p g
    (List.range r.2).map fun i => rowKey p (r.1 + i)).flatten
  s.setOut n fun o => { o with
    chaseDone := o.chaseDone.filter fun k => !keys.contains k
    chaseAgain := o.chaseAgain.filter fun k => k % 0x10000 / 16 != g
    chaseRead := g :: o.chaseRead }

/-- The chroma rows of the neighbouring line groups that the vertical pass of group g takes under linear reconstruction of 4:2:0 (R70,
R71), as runs of bytes: the engine reads them with the group, under the same checks (R58), and they are no bytes of its own for FRAME_CRC. -/
def State.neighbourRuns (s : State) (n g : Nat) : List (Nat × Nat × Nat) :=
  let f := srcFormat s.act n
  if f.sampling ≠ 2 ∨ f.recon = 0 ∨ f.layout = 2 then []
  else
    (List.range (f.planes - 1)).flatMap fun i =>
      let p := i + 1
      let r := f.groupRows p g
      let rows := (if f.site != 2 ∧ r.1 ≠ 0 then [r.1 - 1] else []) ++ (if r.1 + r.2 < f.rows p then [r.1 + r.2] else [])
      rows.map fun y =>
        (p, slotBase s.act n (s.curSlot n) p + slotStride s.act n (s.curSlot n) p * y, f.lineBytes p)

/-- Group g repeated from UNPK's buffer (R66): the group sent last; components of 0 before any. Rows that the group sent last
does not have are free. -/
def State.repeatGroup (s : State) (n g : Nat) : State :=
  let f := s.pictureFormat n
  let last := (s.outp n).pix.lastGroup
  let count := min 16 (f.height - 16 * g)
  let rows := if last.isEmpty then List.replicate count (zeroRow f.width)
    else (List.range count).map fun i => fitRow f.width (s.freeCount + 3 * f.width * i) (last.getD i ⟨[], [], []⟩)
  ({ s with freeCount := s.freeCount + 3 * f.width * count }).takeGroup n rows

/-- Group g, read as `view` shows it, taken: its bytes into the frame's CRC, its lines no longer complete. -/
def State.readGroup (s view : State) (n g : Nat) : State :=
  let f := srcFormat s.act n
  let runs := s.groupRuns n g
  let rows := (List.range (min 16 (f.height - 16 * g))).map fun i => view.unpkLine n (16 * g + i)
  let t := s.setPix n fun p => { p with
    bytes := (List.range 3).map fun k => p.bytes.getD k [] ++
      ((runs.filter (·.1 == k)).map fun r => view.holdBytes r.2.1 r.2.2).flatten }
  (t.clearRead n g).takeGroup n rows

/-- A group that reaches UNPK incomplete (R169); the completion of its lines stays (DESIGN CHOICE, log 88). -/
def State.underrun (s : State) (n g : Nat) : State :=
  ((s.count (F.scnUnderrunsCount n) 1).raise (evOut n 8)).repeatGroup n g

/-- The read of line group g by the scan-out engine (R58, R169, R234): what it reads, the group taken, or an underrun where its data is late, barred or
uncorrectable. The group waits while the gate holds an access that the reaches make for its rows, unless it is due: it goes on then, its accesses made as
the gate opens (DESIGN CHOICE, log 106). -/
def State.scanGroup (s : State) (n g : Nat) (late : Bool) : State :=
  let runs := s.groupRuns n g ++ s.neighbourRuns n g
  if s.runsHeld (scanMaster n) (runs.map (·.2)) then (if late then s.underrun n g else s)
  else match runs.findSome? fun r => s.firstBarred (scanMaster n) r.2.1 r.2.2 false with
  | some x => (s.violate (scanMaster n) (s.barCode (scanMaster n) x false) x false).underrun n g
  | none =>
    let r := s.readRuns (scanMaster n) (runs.map (·.2))
    match runs.findSome? fun q => r.1.runFault q.2.1 q.2.2 with
    | some _ => (runs.foldl (fun t q => t.noteRun q.2.1 q.2.2) r.1).underrun n g
    | none =>
      if late then r.1.underrun n g
      else
        let t := r.1.readGroup (readView r) n g
        if s.reachesHeld t n then s else t

/-- LINE_GROUP_READ (R65, R66, R169): the engine comes to the next line group; `late` says that its data is incomplete in the
cycle in which UNPK must take it, `port` what the accesses of the engine and of the route's reaches meet (R234 to R238). A read that the gate of the Hold
holds waits: unless the group is due, nothing comes of it yet. -/
def execLineGroupRead (n : Fin 4) (late : Bool) (port : HoldPort) (s : State) : Result :=
  let o := s.outp n
  let g := o.pix.groups
  if !s.groupDue n then .next s
  else .next (s.throughPort (s.routeActs n) port fun t =>
    if !o.srcLanded then t.takeGroup n (List.replicate (min 16 (s.vActive n - 16 * g)) (zeroRow (s.hActive n)))
    else if o.stall ≠ 0 then t.underrun n g
    else if s.chaseOn n && !s.chaseMet n g then ((t.count (F.scnChaseSlipsCount n) 1).raise (evOut n 16)).repeatGroup n g
    else t.scanGroup n g late)

/-! Region updates (R179 to R182). -/

/-- The back slot of a two-slot ring. -/
def State.backSlot (s : State) (n : Nat) : Nat := nextSlot (s.curSlot n) 2

/-- Bits before column x of plane p's line. -/
def SrcFormat.bitsTo (f : SrcFormat) (p x : Nat) : Nat := ({ f with width := x }).samples p * f.bitsPer

/-- Whether column x starts a 32-byte word of plane p. -/
def SrcFormat.aligned (f : SrcFormat) (p x : Nat) : Bool := x % 2 == 0 && f.bitsTo p x % 256 == 0

/-- The plane rows of rectangle rows y to y + h: first and count. -/
def SrcFormat.rectRows (f : SrcFormat) (p y h : Nat) : Nat × Nat :=
  if p = 0 ∨ f.layout = 2 ∨ f.sampling ≠ 2 then (y, h) else (y / 2, ceilDiv h 2)

/-- The runs of a region's staging plane p: row j of the rectangle, its address, its bytes. -/
def Region.stageRuns (r : Region) (f : SrcFormat) (p : Nat) : List (Nat × Nat) :=
  (List.range (f.rectRows p r.y r.h).2).map fun j =>
    (r.src.getD p 0 + j * (if p = 0 then r.stride0 else r.stride12), f.bitsTo p r.w / 8)

/-- The runs of a region in plane p of a slot. -/
def State.slotRuns (s : State) (n k : Nat) (r : Region) (f : SrcFormat) (p : Nat) : List (Nat × Nat) :=
  let rr := f.rectRows p r.y r.h
  (List.range rr.2).map fun j =>
    (slotBase s.act n k p + slotStride s.act n k p * (rr.1 + j) + f.bitsTo p r.x / 8, f.bitsTo p r.w / 8)

/-- The whole of a slot as a region. -/
def wholeRegion (f : SrcFormat) : Region := ⟨0, [], 0, 0, 0, 0, f.width, f.height⟩

/-- The entry that a PUSH takes from the registers, under a tag. -/
def State.regionAsked (s : State) (n tag : Nat) : Region :=
  ⟨tag, (List.range 3).map (fun p => 32 * s.get (F.scnRgnSrcAddr n p)), 32 * s.get (F.scnRgnStride0Bytes n),
    32 * s.get (F.scnRgnStride12Bytes n), s.get (F.scnRgnPosX n), s.get (F.scnRgnPosY n), s.get (F.scnRgnSizeW n),
    s.get (F.scnRgnSizeH n)⟩

/-- Whether the staging registers that a layout uses have been written (R12). -/
def State.regionWritten (s : State) (n : Nat) (f : SrcFormat) : Bool :=
  ((List.range f.planes).all fun p => s.isWritten (R.scnRgnSrc n p)) && s.isWritten (R.scnRgnStride0 n) &&
    s.isWritten (R.scnRgnStride12 n)

/-- RESULT of a push (R179). -/
def State.pushResult (s : State) (n : Nat) : Nat :=
  let f := srcFormat s.act n
  let r := s.regionAsked n 0
  let planes := List.range f.planes
  let back := s.backSlot n
  if !s.running n ∨ s.act (F.scnSlotCfgSlotCount n) ≠ 2 ∨ s.actOn (F.scnSlotCfgChaseEn n) ∨
      (s.slotReady n back ∧ !(s.outp n).region.ownReady) then 1
  else if 16 ≤ s.get (F.scnRgnStatusDepth n) then 2
  else if !s.regionWritten n f ∨ r.w = 0 ∨ r.h = 0 ∨ f.width < r.x + r.w ∨ f.height < r.y + r.h ∨
      planes.any (fun p => !f.aligned p r.x || (r.x + r.w != f.width && !f.aligned p (r.x + r.w))) ∨
      (f.sampling = 2 ∧ (r.y % 2 = 1 ∨ (r.h % 2 = 1 ∧ r.y + r.h ≠ f.height))) ∨
      planes.any (fun p => decide ((if p = 0 then r.stride0 else r.stride12) < f.bitsTo p r.w / 8)) then 3
  else if planes.any (fun p => (r.stageRuns f p).any fun a => [s.curSlot n, back].any fun k => planes.any fun q =>
      (s.slotRuns n k (wholeRegion f) f q).any fun b => rangesMeet a b) then 4
  else 0

/-- A push judged and, when accepted, queued. -/
def State.regionPush (s : State) (n : Nat) : State :=
  let code := s.pushResult n
  let t := s.put (F.scnRgnResultResult n) code
  if code ≠ 0 then t.raiseIf (code == 2) (evOut n 10)
  else
    let tag := (t.get (F.scnRgnStatusLastTag n) + 1) % 256
    let depth := t.get (F.scnRgnStatusDepth n)
    let seeds := depth == 0 && !t.on (F.scnRgnStatusSynced n)
    ((t.puts [(F.scnRgnStatusLastTag n, tag), (F.scnRgnStatusDepth n, depth + 1)]).setRegion n fun r =>
      { r with queue := r.queue ++ [t.regionAsked n tag], seeding := r.seeding || seeds }).regionGo n

/-- The entries whose copy has not begun discarded. -/
def State.regionFlush (s : State) (n : Nat) : State :=
  let count := (s.outp n).region.queue.length
  (s.put (F.scnRgnStatusDepth n) (s.get (F.scnRgnStatusDepth n) - count)).setRegion n fun r => { r with queue := [] }

/-- RGN_PUSH (R179): a write of SCNn_RGN_CMD with PUSH = 1, after a FLUSH in the same write. -/
def execRgnPush (w : Writer) (n : Fin 4) (flush : Bool) (s : State) : Result :=
  .next (s.writeBy w (R.scnRgnCmd n) fun t => (if flush then t.regionFlush n else t).regionPush n)

/-- RGN_FLUSH (R182): a write of SCNn_RGN_CMD with FLUSH = 1 and PUSH = 0. -/
def execRgnFlush (w : Writer) (n : Fin 4) (s : State) : Result :=
  .next (s.writeBy w (R.scnRgnCmd n) fun t => t.regionFlush n)

/-- One run copied by a master under its own rights (R182); a barred access is a violation, and a frozen master copies
nothing. -/
def State.copyRun (s : State) (m src dst len : Nat) : State :=
  if s.frozen m then s
  else match s.firstBarred m src len false with
    | some x => s.violate m (s.barCode m x false) x false
    | none =>
      let r := s.readRun m src len
      (r.1.noteRun src len).storeAs m dst ((readView r).holdBytes src len)

/-- Runs copied onto runs, in order. -/
def State.copyRuns (s : State) (m : Nat) : List (Nat × Nat) → List (Nat × Nat) → State
  | a :: as, b :: bs => (s.copyRun m a.1 b.1 a.2).copyRuns m as bs
  | _, _ => s

/-- A region copied from its staging planes into a slot. -/
def State.copyStage (s : State) (n k : Nat) (r : Region) : State :=
  let f := srcFormat s.act n
  (List.range f.planes).foldl (fun t p => t.copyRuns (scanMaster n) (r.stageRuns f p) (s.slotRuns n k r f p)) s

/-- A region copied from one slot into another. -/
def State.copySlots (s : State) (n a b : Nat) (r : Region) : State :=
  let f := srcFormat s.act n
  (List.range f.planes).foldl (fun t p => t.copyRuns (scanMaster n) (s.slotRuns n a r f p) (s.slotRuns n b r f p)) s

/-- Whether the gate of the Hold holds an access of a region's copy between two slots, or, from staging, into one. -/
def State.copyHeld (s : State) (n : Nat) (l : List Region) (src : Region → SrcFormat → Nat → List (Nat × Nat)) (dst : Nat) : Bool :=
  let f := srcFormat s.act n
  l.any fun r => (List.range f.planes).any fun p => s.runsHeld (scanMaster n) (src r f p ++ s.slotRuns n dst r f p)

/-- REGION_SEED_DONE (R180): the current slot has been copied into the back slot. -/
def execRegionSeedDone (n : Fin 4) (port : HoldPort) (s : State) : Result :=
  if !(s.outp n).region.seeding || s.frozen (scanMaster n) ||
      s.copyHeld n [wholeRegion (srcFormat s.act n)] (fun r f p => s.slotRuns n (s.curSlot n) r f p) (s.backSlot n) then .next s
  else .next (s.throughPort (· == scanMaster n) port fun s =>
    let t := s.copySlots n (s.curSlot n) (s.backSlot n) (wholeRegion (srcFormat s.act n))
    if t.frozen (scanMaster n) then t
      else ((t.put (F.scnRgnStatusSynced n) 1).setRegion n fun r => { r with seeding := false }).regionGo n)

/-- REGION_COPY_DONE (R181): the last write of a copy from staging is answered. -/
def execRegionCopyDone (n : Fin 4) (port : HoldPort) (s : State) : Result :=
  match (s.outp n).region.copying with
  | none => .next s
  | some e =>
    if s.frozen (scanMaster n) || s.copyHeld n [e] (fun r f p => r.stageRuns f p) (s.backSlot n) then .next s
    else .next (s.throughPort (· == scanMaster n) port fun s =>
      let t := s.copyStage n (s.backSlot n) e
      if t.frozen (scanMaster n) then t
        else ((t.put (F.scnRgnStatusCopiedTag n) e.tag).setRegion n fun r =>
          { r with copying := none, copied := r.copied ++ [e] }).regionGo n)

/-- REGION_MERGE_DONE (R182): the rectangles of a landed batch have been copied into the new back slot. -/
def execRegionMergeDone (n : Fin 4) (port : HoldPort) (s : State) : Result :=
  let batch := (s.outp n).region.merging
  if batch.isEmpty || s.frozen (scanMaster n) ||
      s.copyHeld n batch (fun r f p => s.slotRuns n (s.curSlot n) r f p) (s.backSlot n) then .next s
  else .next (s.throughPort (· == scanMaster n) port fun s =>
    let t := batch.foldl (fun t e => t.copySlots n (s.curSlot n) (s.backSlot n) e) s
    if t.frozen (scanMaster n) then t
      else (((t.puts [(F.scnRgnStatusMergedTag n, (batch.getLast?.map (·.tag)).getD 0),
        (F.scnRgnStatusDepth n, t.get (F.scnRgnStatusDepth n) - batch.length)]).setRegion n fun r =>
          { r with merging := [] }).regionGo n).raise (evOut n 9))

end Sys2Proof.Machine
end

