-- ==== Sys2Proof/Machine/Gate.lean ====
section
/-!
DEFINITION. The accesses of every master that may wait at the gate of the Hold, and the limit of their wait for a window under test (R248).
-/

namespace Sys2Proof.Machine

/-- The accesses that wait as they were presented: single ones, writes of several words, remote ones (master, address, length). -/
def State.heldAccesses (s : State) : List (Nat × Nat × Nat) :=
  (s.hold.held.map fun h => (h.peer.acc.master.toNat, h.peer.acc.addr.toNat, 32)) ++
    (s.hold.heldRuns.map fun h => (h.master, h.addr, h.data.length)) ++
    s.chain.remote.map fun r => (0xB0 + r.1, bits (flitBody r.2.1 0 4) 29 5 * 32, 32)

/-- The accesses that the streams of the chain make next. -/
def State.streamRuns (s : State) : List (Nat × Nat × Nat) :=
  (List.range 4).flatMap fun n =>
    (match (s.txs n).frames with
      | x :: _ => if s.txWaits n then (s.txRuns n x).map fun r => (0xC0 + n, r) else []
      | [] => []) ++
    (match s.rxs n with
      | some x =>
        let f := srcFormat s.act n
        if s.rxWaits n then (s.recordRuns n x.slot ((x.next - 1) % f.planes) ((x.next - 1) / f.planes)).map fun r => (0xB0 + x.port, r) else []
      | none => [])

/-- The accesses that the Eddy engines make next: of a job, a context command, a wear map's record. -/
def State.engineRuns (s : State) : List (Nat × Nat × Nat) :=
  (List.range 4).flatMap fun e =>
    let m := eddyMaster e
    let x := s.eddy e
    if s.frozen m then []
    else
      (match x.job with
        | some j => if s.eddySt e = 1 ∧ x.waits.isNone then [(m, j.inAddr, j.inLen), (m, j.outAddr, j.outLen)] else []
        | none => []) ++
      (if x.ctxCmd.isSome then [(m, 32 * s.get (F.eddyCtxAddrAddr e), 98304)] else []) ++
      (match x.internal with
        | j :: _ => (match (s.wearOf j.output).base with
          | some base => [(s.wearMaster j.output, base, 32 * s.act (F.wearMapBytesBytes j.output))]
          | none => [])
        | [] => [])

/-- The accesses that the outputs make next: the engine's of the line group that is due and of a region's copy, the reaches' for the rows of that
group. -/
def State.outputRuns (s : State) : List (Nat × Nat × Nat) :=
  (List.range 4).flatMap fun n =>
    let m := scanMaster n
    let g := (s.outp n).pix.groups
    let q := (s.outp n).region
    let f := srcFormat s.act n
    let back := s.backSlot n
    let copy := fun (r : Region) (src : Nat → List (Nat × Nat)) => (List.range f.planes).flatMap fun p => src p ++ s.slotRuns n back r f p
    (if s.groupDue n then
      ((s.groupRuns n g ++ s.neighbourRuns n g).map fun r => (m, r.2)) ++ (List.range 16).flatMap fun i => s.rowRuns n (16 * g + i) else []) ++
    ((if q.seeding then copy (wholeRegion f) (s.slotRuns n (s.curSlot n) (wholeRegion f) f) else []) ++
      (match q.copying with
        | some e => copy e (e.stageRuns f)
        | none => []) ++
      q.merging.flatMap fun e => copy e (s.slotRuns n (s.curSlot n) e f)).map fun r => (m, r)

/-- Whether a window under test holds an access of any master. -/
def State.windowWaited (s : State) : Bool :=
  (s.heldAccesses ++ ((List.range 32).flatMap fun ch => (s.dmaRuns ch).map fun r => (0x10 + ch, r)) ++ s.streamRuns ++ s.engineRuns ++
    s.outputRuns).any fun r => s.windowHolds r.1 r.2.1 r.2.2

/-- MARCH_HOLD_LIMIT (R19, R248): an access held for 1,000 ns before the restore makes the engine give the window up, unless its restore
completes in this clock. -/
def execMarchHoldLimit (met : Bool) (s : State) : Result :=
  match s.hold.window with
  | some w => .next (if met || !s.windowWaited then s else (s.yieldWindow).afterWindow (some w))
  | none => .next s

end Sys2Proof.Machine
end

