-- ==== Sys2Proof/Machine/Ledger.lean ====
section
/-!
DEFINITION. The answers to the wear ledger's transfers, and the rows that the wear map generator reads (05_uniformity_and_wear.md).
-/

namespace Sys2Proof.Machine

/-- A request of output n's ledger answered: the read of a row, with its bytes, or an error that ends it. -/
def State.rowAnswered (s : State) (n row : Nat) (gen : Bool) (data : List Byte) : State :=
  s.setWear n fun w => { w with reading := w.reading.map fun q =>
    if q.row = row ∧ q.gen = gen then { q with out := q.out - 1, got := q.got ++ data } else q }

/-- The rows of a group that the generator still has to read: neither there nor on their way (R125). A row of another size, from before a change of
the raster, is read anew. -/
def State.genMissing (s : State) (n g : Nat) : List Nat :=
  let w := s.wearOf n
  ((List.range (s.groupLines n g)).map (16 * g + ·)).filter fun y =>
    !w.genRows.any (fun p => p.1 == y && p.2.length == s.ledgerBytes n) && !w.reading.any (fun r => r.row == y && r.gen)

/-- The rows of a group asked for by the generator, transfers that start (R362). -/
def State.genAsk (s : State) (n g : Nat) : State :=
  let l := s.genMissing n g
  if l.isEmpty then s
  else (s.setWear n fun w => { w with
    genRows := w.genRows.filter fun p => p.1 / 16 == g && p.2.length == s.ledgerBytes n
    reading := w.reading ++ l.map fun y => ⟨y, true, 0, 0, []⟩ }).sendLtr 20000

/-- The group regenerated once all its rows are there (R125): its lift codes go to the engine as an internal job. -/
def State.genReady (s : State) (n : Nat) : State :=
  let g := s.get (F.wearGenStatusNextGroup n)
  let w := s.wearOf n
  if w.base.isNone || w.genRows.isEmpty || w.reading.any (·.gen) || !(s.genMissing n g).isEmpty then s
  else
    let rows := (List.range (s.groupLines n g)).map fun i => ((w.genRows.find? (·.1 == 16 * g + i)).map (·.2)).getD []
    let r := s.liftRows n rows
    let e := s.act (F.wearCtrlEddy n)
    ((((s.setWear n fun w => { w with genRows := [] }).count (F.wearMapSatsCount n) r.2).put (F.wearGenStatusNextGroup n)
      ((g + 1) % max 1 (s.wearGroups n))).setEddy e fun x => { x with internal := x.internal ++ [⟨n, g, s.hActive n, r.1⟩] }).showInternal e

/-- A ledger row that has come whole: to the generator, or to the frame whose stripe has it still to pass, where a row begun in this clock is sampled. -/
def State.rowCame (s : State) (n row : Nat) (gen : Bool) (l : List Byte) : State :=
  let w := s.wearOf n
  let t := s.setWear n fun w => { w with reading := w.reading.filter fun r => !(r.row == row && r.gen == gen) }
  if gen then (t.setWear n fun w => { w with genRows := w.genRows.filter (·.1 != row) ++ [(row, l)] }).genReady n
  else
    let u := if w.rowsLeft.contains row then t.setWear n fun w => { w with ready := w.ready ++ [(row, l)] } else t
    if w.begun.contains row then u.sampleRow n row l else u

/-- WEAR_LEDGER_READ_DONE (R120, R122, R125, R265): the oldest request in flight of a ledger row's read, the stage's or its generator's, is answered,
with its bytes or with an error; the row is there with its last bytes. -/
def execWearLedgerReadDone (n : Fin 4) (row : Nat) (gen : Bool) (data : List Byte) (reply : BusReply) (s : State) : Result :=
  match (s.wearOf n).reading.find? fun r => r.row == row && r.gen == gen with
  | none => .next s
  | some r =>
    if r.out = 0 then .next s
    else
      let ch := s.wearCh n
      let size := s.ledgerBytes n
      let a := s.ledgerRow n row + r.got.length
      let k := ((linkPieces (s.readMost (s.chanFn ch)) size a (size - r.got.length)).headD (a, 0)).2
      let code := if replyCode false reply = 0 ∧ data.length ≠ k then 0x310 else replyCode false reply
      let s1 := ((s.npEnd ch).aerReply (s.chanFn ch) reply).rowAnswered n row gen data
      let s2 :=
        if code ≠ 0 then (s1.dropReads n fun q => q.row == row && q.gen == gen).ledgerError n a code false
        else if (r.got ++ data).length < size then (if !gen && (s.wearOf n).begun.contains row then s1.skipRow n row else s1)
        else s1.rowCame n row gen (r.got ++ data)
      .next ((s2.showLedger n).dmaGo s)

/-- WEAR_LEDGER_WRITE_DONE (R120, R122): the write-back of a ledger row completes at its flush read, or fails; a read of the row
that waits for it is issued. -/
def execWearLedgerWriteDone (n : Fin 4) (row : Nat) (reply : BusReply) (s : State) : Result :=
  if !(s.wearOf n).writing.contains (row, true) then .next s
  else
    let t := ((s.npEnd (s.wearCh n)).aerReply (s.chanFn (s.wearCh n)) reply).setWear n fun w => { w with writing := w.writing.erase (row, true) }
    let u :=
      if replyCode false reply ≠ 0 then t.ledgerError n ((s.ledgerRow n row + s.ledgerBytes n - 1) / 4 * 4) (replyCode false reply) true
      else if (s.wearOf n).wanted.contains row
        then (t.setWear n fun w => { w with wanted := w.wanted.filter (· != row) }).askLedger n row else t
    .next ((u.showLedger n).dmaGo s)

/-- Whether the generator may read the ledger: enabled, its registers written (R12), its base in use, the channel held and neither halted nor frozen
(R122, R277), the link not asleep under SLACK_POLICY. -/
def State.genOn (s : State) (n : Nat) : Bool :=
  (s.cfg n).has 6 && s.actOn (F.wearCtrlGenEn n) && s.wearReady n && (s.wearOf n).base.isSome && s.on (F.dmaStatusHeld (s.wearCh n)) &&
    !s.chanStopped (s.wearCh n) && !s.on (F.wearStatusHalted n) && !s.slackStops n

/-- WEAR_GEN_GROUP (R122, R125): the generation period elapses: the ledger rows of the next group that are not on their way yet are read through the
stage's channel, under its caps and its rate (R277). -/
def execWearGenGroup (n : Fin 4) (s : State) : Result :=
  let g := s.get (F.wearGenStatusNextGroup n)
  if !s.genOn n || decide (s.wearGroups n ≤ g) then .next s
  else .next (((s.genAsk n g).showLedger n).dmaGo s)

end Sys2Proof.Machine
end

