-- ==== Sys2Proof/Machine/ResetCmd.lean ====
section
/-!
DEFINITION. The commands of reset, of GLB_STATE and of the calibration store's ends (18_power_clocks_reset.md, R399, R401, R404, R408;
R418).
-/

namespace Sys2Proof.Machine

/-! Resets (R399). -/

/-- WARM_RESET (R399): GLB_RESET.WARM written 1. -/
def execWarmReset (w : Writer) (s : State) : Result :=
  .next (s.writeBy w R.glbReset fun t =>
    let u := t.put F.glbResetCauseWarm 1
    if u.power.warmPending then u else u.beginReset false)

/-- PERST_ASSERT (R399, R363): PERST_N asserted: the PCIe core and every function reset, or, with PERST_FULL, as WARM. -/
def execPerstAssert (s : State) : Result :=
  if s.host.perst then .next s
  else if s.power.off then .next (s.setHost fun h => { h with perst := true })
  else
    let up := s.host.linkUp
    let t := (s.setHost fun h => { h with perst := true }).put F.glbResetCausePerst 1
    .next (if t.power.warmPending then t
      else if t.on F.glbResetCfgPerstFull then t.beginReset false
      else
        let u := ((List.range 32).reverse.foldl (fun t f => if t.fnExists f then t.resetFunction f else t) t).setHost fun h =>
          { h with linkUp := false, inL1 := false, trainedBefore := false, reads := [] }
        u.raiseIf up 33)

/-- PERST_RELEASE (R399): PERST_N released; PERST_SEEN when outputs ran. -/
def execPerstRelease (s : State) : Result :=
  if !s.host.perst then .next s
  else .next ((s.setHost fun h => { h with perst := false }).raiseIf ((List.range 4).any s.running && !s.power.off) 15)

/-- THERMAL_OVERTEMP (R399): the junction has been at 135 °C for 1 ms. -/
def execThermalOvertemp (s : State) : Result :=
  if s.power.off || s.power.thermal then .next s
  else .next (((s.put F.glbResetCauseThermal 1).raise 25).beginReset true)

/-- THERMAL_COOLDOWN (R399): the junction is below 115 °C after a THERMAL reset: a WARM start follows. -/
def execThermalCooldown (s : State) : Result :=
  .next (if s.power.thermal && s.power.fabricOff then s.setPower fun p => { p with fabricOff := false } else s)

/-! Service states (R401). -/

/-- STATE_REQUEST (R401): GLB_STATE_REQ written: Service, Test and Recovery lead to one another. Test alone drives the relief slices onto
the PLRL outputs (R442). -/
def execStateRequest (w : Writer) (req : Fin 4) (s : State) : Result :=
  .next (s.writeBy w R.glbStateReq fun t =>
    let u := t.put F.glbStateReqState req
    let old := u.get F.glbStateState
    if old = 0 ∨ req = 0 then u.put F.glbPowerStatusLastCode 0x713
    else if old = req.val then u
    else
      let v := ((u.put F.glbStateState req).raise 1).raiseIf (req == 3) 23
      if old = 2 ∨ req = 2 then v.plrlPins (req == 2) else v)

/-! The calibration store (R404, R408, R418). -/

/-- A mismatch of the read-back (R404): the target stays invalid. -/
def State.storeFault (s : State) (j : StoreJob) : State :=
  let ab := s.target j.kind
  let c := recordCopy j (s.copy j.kind ab).seq
  ((s.setCopy j.kind ab { c with crc := c.crc ^^^ 1 }).put F.calStatusLastCode 0x705).raise 19

/-- Relief sectors mapped in place of the sectors that mismatched, each logged (R418, R419). -/
def State.mapSectors (s : State) (bad : List Nat) : State :=
  bad.foldl (fun t x =>
    let k := t.cal.sectors.length
    let u := ({ t with cal := { t.cal with sectors := t.cal.sectors ++ [x] } }).put F.calStatusReliefSectors (k + 1)
    (u.logSwap 6 0 x 0 k 7).raise 730) s

/-- RECORD_STORE_COMPLETE (R404, R418): the first store has been written and read back; `bad` the sectors that mismatched. The first time
they are replaced and the store retried, while relief sectors are free. -/
def execRecordStoreComplete (bad : List (Fin 58)) (s : State) : Result :=
  match s.cal.jobs with
  | [] => .next s
  | j :: _ =>
    let l := (bad.map (·.val)).foldl keyInsert []
    if l.isEmpty || j.clear then .next ((s.commitStore j).tellStore j 0).nextStore
    else
      let t := s.storeFault j
      let free := 6 - t.cal.sectors.length
      .next (if !s.cal.retried && decide (l.length ≤ free) then
          let m := t.mapSectors l
          ({ m with cal := { m.cal with retried := true } }).beginStore
        else ((t.raiseIf (!s.cal.retried) 728).tellStore j 0x705).nextStore)

/-- TRIM_EFFECTIVE (R408): 1 µs after the commit word of a USER_TRIM, or its clearing, the trims follow. -/
def execTrimEffective (s : State) : Result :=
  .next (if s.cal.trimDue then ({ s with cal := { s.cal with trimDue := false } }).applyTrims else s)

end Sys2Proof.Machine
end

