-- ==== Sys2Proof/Machine/Registers.lean ====
section
/-!
DEFINITION. Register accesses without a row of their own: plain writes and what follows from them, misaligned accesses, reads of low
words and of RC registers (R6 to R12, R326, R377, R381 to R383).
-/

namespace Sys2Proof.Machine

/-! Plain writes whose register has a rule of its own. -/

/-- The output whose TG, SCN or stage block a register lies in. -/
def outOf (key : Nat) : Nat := key / 0x10000 % 4

/-- The index of a register in an array of them, when it is one of so many. -/
def indexIn (f : Nat → Nat) (n key : Nat) : Option Nat := (List.range n).find? fun i => f i == key

/-- A write of EVT_STATUSg (R10, R382, R383): W1C, which takes the messages held for no source any more out of the PBA, then the sources
raised in the same clock. -/
def State.writePending (s : State) (g : Nat) (data hwSet : Word) : State :=
  (List.range 32).foldl (fun t b =>
    if bit hwSet.toNat b then t.raiseWith (32 * g + b) (bit data.toNat b) else t) (s.plainWrite (R.evtStatus g) data 0).settlePba

/-- A write of EVT_ENABLEg (R383): pending sources that it enables have their messages due. -/
def State.writeEnable (s : State) (g : Nat) (data : Word) : State :=
  (List.range 32).foldl (fun t b =>
    let src := 32 * g + b
    if !s.enabledSrc src && t.pendingSrc src && t.routed src then t.messageDue src else t) (s.plainWrite (R.evtEnable g) data 0)

/-- A write of EVT_ROUTEs (R381, R383): ignored for a reserved source; a pending source has its message due. -/
def State.writeRoute (s : State) (src : Nat) (data : Word) : State :=
  if !implemented src then s
  else
    let t := s.plainWrite (R.evtRoute src) data 0
    if t.pendingSrc src && t.routed src then t.messageDue src else t

/-- A write of a mailbox slot's CMD or ARG (R377): discarded and told while BUSY. -/
def State.writeSlot (s : State) (k key : Nat) (data : Word) : State :=
  if s.on (F.pursmStatusBusy k) then s.raise 594 else s.plainWrite key data 0

/-- A write of TIME_WINk_CTRL with EN = 0 (R342): the window closed to captures; with EN = 1 it is WINDOW_ARM's. -/
def State.writeWindow (s : State) (k : Nat) (data : Word) : State :=
  if bit data.toNat (F.timeWinCtrlEn k).lo then s else (s.plainWrite (R.timeWinCtrl k) data 0).checkWindows

/-- A register with command fields written with an operation that is no command: its fields take the data. -/
def State.writeFields (s : State) (key : Nat) (data : Word) (mask : Nat) : State :=
  s.setReg key (data &&& BitVec.ofNat 32 mask)

/-- The registers that a plain write alone does not describe; none for any other register. -/
def State.specialWrite (s : State) (key : Nat) (data hwSet : Word) : Option State :=
  if key = R.timeIncrLo then some (s.setTime fun x => { x with incrLo := data })
  else if key = R.sstCmd then some (if bits data.toNat 3 0 = 0 then s.writeFields key data 0x13F else s)
  else if key = R.holdRepairCmd then some (if bits data.toNat 1 0 = 0 ∨ bits data.toNat 1 0 = 3 then s.writeFields key data 0xFFFFF else s)
  else if key = R.glbManifestReq then some (if bit data.toNat 0 then s else s.writeFields key data 0xFFFFF000)
  else if R.evtStatus 0 ≤ key ∧ key < R.evtStatus 24 then some (s.writePending ((key - R.evtStatus 0) / 4) data hwSet)
  else if R.evtEnable 0 ≤ key ∧ key < R.evtEnable 24 then some (s.writeEnable ((key - R.evtEnable 0) / 4) data)
  else if R.evtRoute 0 ≤ key ∧ key < R.evtRoute 768 then some (s.writeRoute ((key - R.evtRoute 0) / 4) data)
  else match indexIn R.timeWinCtrl 4 key with
    | some k => some (s.writeWindow k data)
    | none =>
      match (List.range 16).find? fun k => key == R.pursmCmd k || (List.range 14).any fun i => key == R.pursmArg k i with
      | some k => some (s.writeSlot k key data)
      | none => none

/-- What follows from a plain write of a register: `old` is the state before it. -/
def State.afterWrite (s old : State) (key : Nat) : State :=
  match rowOf key with
  | none => s
  | some r =>
    -- an RWL field of an idle output lands in the clock after (R163); a written history group may be refused anew (R137)
    if r.masks.rwl ≠ 0 then
      let n := outOf key
      ((if (histKeys n).contains key then s.setOdrv n fun o => { o with told := false } else s)).idleLand n
    else match indexIn R.dmaRate 32 key with
      | some ch => if s.on (F.dmaRateEn ch) && !old.on (F.dmaRateEn ch) then s.fillBucket ch else s
      | none => match indexIn R.chnTxsCtrl 4 key with
        | some n => s.txCheck n
        | none => match indexIn R.chnpCtrl 3 key with
          | some p => s.portEnable p (old.on (F.chnpCtrlEn p))
          | none => match indexIn R.timeLtcoCfg 2 key with
            | some k => s.ltcCheck k
            | none => s

/-- A plain write and what follows from it. -/
def State.registerWrite (s : State) (key : Nat) (data hwSet : Word) : State :=
  match s.specialWrite key data hwSet with
  | some t => t
  | none => (s.plainWrite key data hwSet).afterWrite s key

/-- REGISTER_WRITE (R9, R10, R12, R358, R423): a BAR0 write: fields without a row of their own act by their access types; `hwSet` the W1C bits
that the part sets in the same clock. -/
def execRegisterWrite (w : Writer) (addr : BitVec 26) (data hwSet : Word) (s : State) : Result :=
  if addr.toNat % 4 ≠ 0 then .next s
  else .next (s.writeBy w addr.toNat fun t =>
    match t.keyOf addr.toNat with
    | some key => t.registerWrite key data hwSet
    | none => t)

/-- MISALIGNED_BAR0_ACCESS (R6): a write is discarded, a read completes with all-ones data; REG_ACCESS_SIZE. -/
def execMisalignedBar0Access (w : Writer) (addr : BitVec 26) (size : Nat) (write : Bool) (s : State) : Result :=
  if (size = 4 ∧ addr.toNat % 4 = 0) ∨ !s.answers w then .next s
  else
    let t := if s.winterDrops w addr.toNat then s.winterDrop else s.raise 35
    .next (if write then t else t.emit (.completion allOnes))

/-! Reads. -/

/-- The word of the register at an offset as a read returns it, 0 where no register lies (R423) and for a field never written (R12). -/
def State.readAt (s : State) (addr : Nat) : Word :=
  match s.keyOf addr with
  | some key => s.readReg key
  | none => 0

/-- LOW_WORD_READ (R8): a low word read: its high word is copied into the holding register. -/
def execLowWordRead (w : Writer) (addr : BitVec 26) (s : State) : Result :=
  .next (s.readBy w addr.toNat fun t =>
    let v := t.readAt addr.toNat
    match t.keyOf addr.toNat with
    | some key =>
      if key = R.timeNsLo then
        let hi := sparseSet 0 t.high R.timeNsHi (BitVec.ofNat 32 (t.time.now / 2 ^ 64))
        (v, { t with high := sparseSet 0 hi R.timeFrac (BitVec.ofNat 32 t.time.now) })
      else match indexIn R.tgFrameIdLo 4 key with
        | some n => (v, { t with high := sparseSet 0 t.high (R.tgFrameIdHi n) (t.reg (R.tgFrameIdHi n)) })
        | none => (v, t)
    | none => (v, t))

/-- RC_READ (R9, R10): a register read: its RC fields return their values and then hold only what the part sets or counts in that clock. -/
def execRcRead (w : Writer) (addr : BitVec 26) (increments : Word) (s : State) : Result :=
  .next (s.readBy w addr.toNat fun t =>
    let v := t.readAt addr.toNat
    match t.keyOf addr.toNat with
    | some key => match rowOf key with
      | some r =>
        let rc := BitVec.ofNat 32 r.masks.rc
        (v, if rc = 0 then t else t.setReg key ((t.reg key &&& ~~~rc) ||| (increments &&& rc)))
      | none => (v, t)
    | none => (v, t))

end Sys2Proof.Machine
end

