-- ==== Sys2Proof/Machine/Dispatch.lean ====
section
/-!
DEFINITION. The dispatch: one arm per command, each a call of its meaning.
-/

namespace Sys2Proof.Machine

/-- The effect of a command on everything but the queue of waiting commands. -/
def exec (i : Instr) (s : State) : Host.Outcome State Fault Refusal :=
  match i with
  | .registerWrite w addr data hwSet => Sys2Proof.Machine.execRegisterWrite w addr data hwSet s
  | .misalignedBar0Access w addr size write => Sys2Proof.Machine.execMisalignedBar0Access w addr size write s
  | .lowWordRead w addr => Sys2Proof.Machine.execLowWordRead w addr s
  | .rcRead w addr increments => Sys2Proof.Machine.execRcRead w addr increments s
  | .sstLoad w slot => Sys2Proof.Machine.execSstLoad w slot s
  | .sstFetchComplete ok words => Sys2Proof.Machine.execSstFetchComplete ok words s
  | .sstApply w slot hold copyCycle => Sys2Proof.Machine.execSstApply w slot hold copyCycle s
  | .sstDiscard w slot => Sys2Proof.Machine.execSstDiscard w slot s
  | .storeBoot w slot => Sys2Proof.Machine.execStoreBoot w slot s
  | .clearBoot w slot => Sys2Proof.Machine.execClearBoot w slot s
  | .cmdInvalid w op slot => Sys2Proof.Machine.execCmdInvalid w op slot s
  | .slotReady w n k => Sys2Proof.Machine.execSlotReady w n k s
  | .slotWithdraw w n k => Sys2Proof.Machine.execSlotWithdraw w n k s
  | .lineGroupRead n late port => Sys2Proof.Machine.execLineGroupRead n late port s
  | .landingPoint n => Sys2Proof.Machine.execLandingPoint n s
  | .landGo w n copyCycle => Sys2Proof.Machine.execLandGo w n copyCycle s
  | .landCancel w n => Sys2Proof.Machine.execLandCancel w n s
  | .frameStart n edge low => Sys2Proof.Machine.execFrameStart n edge low s
  | .lineStart n low => Sys2Proof.Machine.execLineStart n low s
  | .tableDataWrite w addr data => Sys2Proof.Machine.execTableDataWrite w addr data s
  | .tableDataRead w addr => Sys2Proof.Machine.execTableDataRead w addr s
  | .unifAddressWrite w addr data => Sys2Proof.Machine.execUnifAddressWrite w addr data s
  | .unifCheckBase w addr => Sys2Proof.Machine.execUnifCheckBase w addr s
  | .unifCheckField w addr => Sys2Proof.Machine.execUnifCheckField w addr s
  | .unifCheckComplete n field => Sys2Proof.Machine.execUnifCheckComplete n field s
  | .baseLock w addr => Sys2Proof.Machine.execBaseLock w addr s
  | .baseMapHashDone n => Sys2Proof.Machine.execBaseMapHashDone n s
  | .wearRowStart n row met => Sys2Proof.Machine.execWearRowStart n row met s
  | .wearLedgerReadDone n row gen data reply => Sys2Proof.Machine.execWearLedgerReadDone n row gen data reply s
  | .wearLedgerWriteDone n row reply => Sys2Proof.Machine.execWearLedgerWriteDone n row reply s
  | .wearGenGroup n => Sys2Proof.Machine.execWearGenGroup n s
  | .eddyInternalJobDone e port => Sys2Proof.Machine.execEddyInternalJobDone e port s
  | .odrvPanelTempWrite w addr data => Sys2Proof.Machine.execOdrvPanelTempWrite w addr data s
  | .temperatureTimerExpiry n met => Sys2Proof.Machine.execTemperatureTimerExpiry n met s
  | .tgEnable w n => Sys2Proof.Machine.execTgEnable w n s
  | .tgDisable w n => Sys2Proof.Machine.execTgDisable w n s
  | .tgStopped n => Sys2Proof.Machine.execTgStopped n s
  | .syncInEdge pin rising t sub => Sys2Proof.Machine.execSyncInEdge pin rising t sub s
  | .syncWindowClose n t met => Sys2Proof.Machine.execSyncWindowClose n t met s
  | .teEdge n falling t => Sys2Proof.Machine.execTeEdge n falling t s
  | .teTimeout n met low => Sys2Proof.Machine.execTeTimeout n met low s
  | .chainEpoch n t => Sys2Proof.Machine.execChainEpoch n t s
  | .rgnPush w n flush => Sys2Proof.Machine.execRgnPush w n flush s
  | .rgnFlush w n => Sys2Proof.Machine.execRgnFlush w n s
  | .regionSeedDone n port => Sys2Proof.Machine.execRegionSeedDone n port s
  | .regionCopyDone n port => Sys2Proof.Machine.execRegionCopyDone n port s
  | .regionMergeDone n port => Sys2Proof.Machine.execRegionMergeDone n port s
  | .pfailNFall => Sys2Proof.Machine.execPfailNFall s
  | .pfailRecognised => Sys2Proof.Machine.execPfailRecognised s
  | .pfailNRise => Sys2Proof.Machine.execPfailNRise s
  | .dischargeCut n => Sys2Proof.Machine.execDischargeCut n s
  | .dischargeHoldExpiry n => Sys2Proof.Machine.execDischargeHoldExpiry n s
  | .dischargeComplete n => Sys2Proof.Machine.execDischargeComplete n s
  | .trainingSequenceEnd lane => Sys2Proof.Machine.execTrainingSequenceEnd lane s
  | .sidebandPoll lane low => Sys2Proof.Machine.execSidebandPoll lane low s
  | .sidebandReply group frame low => Sys2Proof.Machine.execSidebandReply group frame low s
  | .replyTimeout group met low => Sys2Proof.Machine.execReplyTimeout group met low s
  | .sidebandRepeat group low => Sys2Proof.Machine.execSidebandRepeat group low s
  | .listenTimeout lane met => Sys2Proof.Machine.execListenTimeout lane met s
  | .retryStart lane => Sys2Proof.Machine.execRetryStart lane s
  | .retrain w lane => Sys2Proof.Machine.execRetrain w lane s
  | .txOff w lane off => Sys2Proof.Machine.execTxOff w lane off s
  | .calRequest w lane => Sys2Proof.Machine.execCalRequest w lane s
  | .calMeasure w lane low => Sys2Proof.Machine.execCalMeasure w lane low s
  | .calTrialWindowEnd lane low => Sys2Proof.Machine.execCalTrialWindowEnd lane low s
  | .calHistogramReceived lane low => Sys2Proof.Machine.execCalHistogramReceived lane low s
  | .densitySpanEnd t low => Sys2Proof.Machine.execDensitySpanEnd t low s
  | .ffeForce w lane force cm1 c1 c2 => Sys2Proof.Machine.execFfeForce w lane force cm1 c1 c2 s
  | .chainRxForce w p k force eq => Sys2Proof.Machine.execChainRxForce w p k force eq s
  | .ctleInterval p k hf lf => Sys2Proof.Machine.execCtleInterval p k hf lf s
  | .dfeStep p k symbols => Sys2Proof.Machine.execDfeStep p k symbols s
  | .chainStatsStarved p k met => Sys2Proof.Machine.execChainStatsStarved p k met s
  | .eyeScan p k heights widths => Sys2Proof.Machine.execEyeScan p k heights widths s
  | .holdAccess a arb => Sys2Proof.Machine.execHoldAccess a arb s
  | .holdBusyNRelease => Sys2Proof.Machine.execHoldBusyNRelease s
  | .ferryStart w bank target => Sys2Proof.Machine.execFerryStart w bank target s
  | .ferryDrained bank => Sys2Proof.Machine.execFerryDrained bank s
  | .ferryDrainLimit bank met => Sys2Proof.Machine.execFerryDrainLimit bank met s
  | .holdGroupReady group => Sys2Proof.Machine.execHoldGroupReady group s
  | .marchRequest w preserving variant14 checker => Sys2Proof.Machine.execMarchRequest w preserving variant14 checker s
  | .marchAbandon w preserving variant14 checker fails => Sys2Proof.Machine.execMarchAbandon w preserving variant14 checker fails s
  | .marchBackgroundWindow => Sys2Proof.Machine.execMarchBackgroundWindow s
  | .marchHoldLimit met => Sys2Proof.Machine.execMarchHoldLimit met s
  | .marchTestEnd fails => Sys2Proof.Machine.execMarchTestEnd fails s
  | .repairRow w bank row => Sys2Proof.Machine.execRepairRow w bank row s
  | .repairBank w bank row => Sys2Proof.Machine.execRepairBank w bank row s
  | .repairCopyDone => Sys2Proof.Machine.execRepairCopyDone s
  | .dmaStart w ch data => Sys2Proof.Machine.execDmaStart w ch data s
  | .dmaAbort w ch data => Sys2Proof.Machine.execDmaAbort w ch data s
  | .dmaResume w ch data => Sys2Proof.Machine.execDmaResume w ch data s
  | .descriptorFetched ch reply data port => Sys2Proof.Machine.execDescriptorFetched ch reply data port s
  | .dmaReadCompletion ch idx reply data port => Sys2Proof.Machine.execDmaReadCompletion ch idx reply data port s
  | .dmaHoldResponse ch idx port => Sys2Proof.Machine.execDmaHoldResponse ch idx port s
  | .flushReadComplete ch reply => Sys2Proof.Machine.execFlushReadComplete ch reply s
  | .completionTimeout ch idx met => Sys2Proof.Machine.execCompletionTimeout ch idx met s
  | .rateWindow => Sys2Proof.Machine.execRateWindow s
  | .eddyStart w e => Sys2Proof.Machine.execEddyStart w e s
  | .eddyResume w e => Sys2Proof.Machine.execEddyResume w e s
  | .eddyAbort w e => Sys2Proof.Machine.execEddyAbort w e s
  | .ctxSave w e => Sys2Proof.Machine.execCtxSave w e s
  | .ctxRestore w e => Sys2Proof.Machine.execCtxRestore w e s
  | .eddyJobComplete e port => Sys2Proof.Machine.execEddyJobComplete e port s
  | .eddyOutputExhausted e port => Sys2Proof.Machine.execEddyOutputExhausted e port s
  | .eddyJobError e cut port => Sys2Proof.Machine.execEddyJobError e cut port s
  | .eddyCtxComplete e cut port => Sys2Proof.Machine.execEddyCtxComplete e cut port s
  | .linkFlitDue p => Sys2Proof.Machine.execLinkFlitDue p s
  | .timeFlitDue p => Sys2Proof.Machine.execTimeFlitDue p s
  | .shortFlitReceived p marks skew flit sub => Sys2Proof.Machine.execShortFlitReceived p marks skew flit sub s
  | .pixelGroupReceived p lanes => Sys2Proof.Machine.execPixelGroupReceived p lanes s
  | .markerLossTimeout p met => Sys2Proof.Machine.execMarkerLossTimeout p met s
  | .linkFlitTimeout p met => Sys2Proof.Machine.execLinkFlitTimeout p met s
  | .boardStart w timeoutMs => Sys2Proof.Machine.execBoardStart w timeoutMs s
  | .boardTimeout met => Sys2Proof.Machine.execBoardTimeout met s
  | .ringRestore w => Sys2Proof.Machine.execRingRestore w s
  | .dataViewLapse a met => Sys2Proof.Machine.execDataViewLapse a met s
  | .raRead w => Sys2Proof.Machine.execRaRead w s
  | .raWrite w => Sys2Proof.Machine.execRaWrite w s
  | .raTimeout met => Sys2Proof.Machine.execRaTimeout met s
  | .sensorTx w temp sensor => Sys2Proof.Machine.execSensorTx w temp sensor s
  | .chainSliceSwap p k => Sys2Proof.Machine.execChainSliceSwap p k s
  | .timeTick => Sys2Proof.Machine.execTimeTick s
  | .timeBoundary => Sys2Proof.Machine.execTimeBoundary s
  | .timeIncrWrite w data => Sys2Proof.Machine.execTimeIncrWrite w data s
  | .timeSlewWrite w data => Sys2Proof.Machine.execTimeSlewWrite w data s
  | .timeStepArm w data => Sys2Proof.Machine.execTimeStepArm w data s
  | .disciplineIntervalEnd => Sys2Proof.Machine.execDisciplineIntervalEnd s
  | .incrCorrection => Sys2Proof.Machine.execIncrCorrection s
  | .ptmDialog => Sys2Proof.Machine.execPtmDialog s
  | .ptmDialogComplete r => Sys2Proof.Machine.execPtmDialogComplete r s
  | .ltcInWord word rate sub => Sys2Proof.Machine.execLtcInWord word rate sub s
  | .ltcInWordMissing met => Sys2Proof.Machine.execLtcInWordMissing met s
  | .ltcWordStart k => Sys2Proof.Machine.execLtcWordStart k s
  | .ltcJam w k en rate => Sys2Proof.Machine.execLtcJam w k en rate s
  | .holdoverEnd met => Sys2Proof.Machine.execHoldoverEnd met s
  | .captureLoRead w k => Sys2Proof.Machine.execCaptureLoRead w k s
  | .captureMetaRead w k => Sys2Proof.Machine.execCaptureMetaRead w k s
  | .purserStampRead sub => Sys2Proof.Machine.execPurserStampRead sub s
  | .swlogPop w => Sys2Proof.Machine.execSwlogPop w s
  | .txqPop w => Sys2Proof.Machine.execTxqPop w s
  | .windowArm w k epoch => Sys2Proof.Machine.execWindowArm w k epoch s
  | .refinLoss met => Sys2Proof.Machine.execRefinLoss met s
  | .refinRestore => Sys2Proof.Machine.execRefinRestore s
  | .linkTrained rate width flit => Sys2Proof.Machine.execLinkTrained rate width flit s
  | .linkFailure => Sys2Proof.Machine.execLinkFailure s
  | .aspmL1Entry => Sys2Proof.Machine.execAspmL1Entry s
  | .bar2Access f a arb len more => Sys2Proof.Machine.execBar2Access f a arb len more s
  | .configWrite f c => Sys2Proof.Machine.execConfigWrite f c s
  | .msixVectorUnmask v => Sys2Proof.Machine.execMsixVectorUnmask v s
  | .functionLevelReset f => Sys2Proof.Machine.execFunctionLevelReset f s
  | .flrComplete f => Sys2Proof.Machine.execFlrComplete f s
  | .mstThaw w id meets => Sys2Proof.Machine.execMstThaw w id meets s
  | .causeAck w m meets => Sys2Proof.Machine.execCauseAck w m meets s
  | .purserWatchdog => Sys2Proof.Machine.execPurserWatchdog s
  | .doorbellRing w k => Sys2Proof.Machine.execDoorbellRing w k s
  | .mailboxTakeUp => Sys2Proof.Machine.execMailboxTakeUp s
  | .getInfo => Sys2Proof.Machine.execGetInfo s
  | .eventTest => Sys2Proof.Machine.execEventTest s
  | .unknownOp => Sys2Proof.Machine.execUnknownOp s
  | .calRead ok => Sys2Proof.Machine.execCalRead ok s
  | .calStore data => Sys2Proof.Machine.execCalStore data s
  | .calClear => Sys2Proof.Machine.execCalClear s
  | .calSetDigest => Sys2Proof.Machine.execCalSetDigest s
  | .calStatus => Sys2Proof.Machine.execCalStatus s
  | .otpFuse => Sys2Proof.Machine.execOtpFuse s
  | .reliefSwap => Sys2Proof.Machine.execReliefSwap s
  | .mailboxTimeout met => Sys2Proof.Machine.execMailboxTimeout met s
  | .evtSoftRaise w => Sys2Proof.Machine.execEvtSoftRaise w s
  | .manifestRequest w addr => Sys2Proof.Machine.execManifestRequest w addr s
  | .manifestFlushComplete ok => Sys2Proof.Machine.execManifestFlushComplete ok s
  | .powerRequestRun w => Sys2Proof.Machine.execPowerRequestRun w s
  | .powerRequestSlack w => Sys2Proof.Machine.execPowerRequestSlack w s
  | .powerRequestWinter w => Sys2Proof.Machine.execPowerRequestWinter w s
  | .powerRequestInvalid w req => Sys2Proof.Machine.execPowerRequestInvalid w req s
  | .winterQuiesced => Sys2Proof.Machine.execWinterQuiesced s
  | .winterEntryTimeout met => Sys2Proof.Machine.execWinterEntryTimeout met s
  | .thawSwitchesClose lost => Sys2Proof.Machine.execThawSwitchesClose lost s
  | .thawPllsLocked => Sys2Proof.Machine.execThawPllsLocked s
  | .thawComplete => Sys2Proof.Machine.execThawComplete s
  | .vddHoldLate met => Sys2Proof.Machine.execVddHoldLate met s
  | .refclkLoss => Sys2Proof.Machine.execRefclkLoss s
  | .refclkRestore => Sys2Proof.Machine.execRefclkRestore s
  | .aonCrystalStop => Sys2Proof.Machine.execAonCrystalStop s
  | .pllLossOfLock p => Sys2Proof.Machine.execPllLossOfLock p s
  | .pllLockRegained p => Sys2Proof.Machine.execPllLockRegained p s
  | .outputPllRelockTimeout n met => Sys2Proof.Machine.execOutputPllRelockTimeout n met s
  | .powerOn => Sys2Proof.Machine.execPowerOn s
  | .startupMarchComplete fails => Sys2Proof.Machine.execStartupMarchComplete fails s
  | .startupComplete refclk refin otpError => Sys2Proof.Machine.execStartupComplete refclk refin otpError s
  | .perstAssert => Sys2Proof.Machine.execPerstAssert s
  | .perstRelease => Sys2Proof.Machine.execPerstRelease s
  | .warmReset w => Sys2Proof.Machine.execWarmReset w s
  | .thermalOvertemp => Sys2Proof.Machine.execThermalOvertemp s
  | .thermalCooldown => Sys2Proof.Machine.execThermalCooldown s
  | .stateRequest w req => Sys2Proof.Machine.execStateRequest w req s
  | .recordStoreComplete bad => Sys2Proof.Machine.execRecordStoreComplete bad s
  | .trimEffective => Sys2Proof.Machine.execTrimEffective s
  | .supplyOutOfRange => Sys2Proof.Machine.execSupplyOutOfRange s
  | .supplyCollapse => Sys2Proof.Machine.execSupplyCollapse s
  | .agingMeasurement reaches regions => Sys2Proof.Machine.execAgingMeasurement reaches regions s
  | .swapLockTimeout lane met => Sys2Proof.Machine.execSwapLockTimeout lane met s
  | .thermalThreshold temp => Sys2Proof.Machine.execThermalThreshold temp s
  | .slackExitDeadline => Sys2Proof.Machine.execSlackExitDeadline s
  | .chainSubRound p sub => Sys2Proof.Machine.execChainSubRound p sub s
  | .ppsLoss met => Sys2Proof.Machine.execPpsLoss met s
  | .purserRestartComplete => Sys2Proof.Machine.execPurserRestartComplete s

end Sys2Proof.Machine
end

