-- ==== Sys2Proof/Safety.lean ====
section
/-!
DEFINITION. What claims about runs are stated in: the canonical form of the state, and what a command may do to the state
whatever it is.
-/

namespace Sys2Proof.Machine

/-- The Hold's bytes in canonical form: addresses strictly rising, no byte listed that reads 0 unlisted. -/
def Memory.wf (m : List Host.Cell) : Bool := sparseWf (fun _ => 0) 0 m

/-- Whether every sparse store of the state is in canonical form: the registers and the active set, the holding registers, the
tables, the Hold. -/
def State.canonical (s : State) : Bool :=
  sparseWf resetOf 0 s.regs && sparseWf resetOf 0 s.active && sparseWf (fun _ => 0) 0 s.high && sparseWf (fun _ => 0) 0 s.tables &&
    Memory.wf s.hold.bytes

/-- How many units of each kind the state holds: outputs, lanes, sideband groups, channels, engines, functions, staging slots,
structures of outputs, copies of records, captures, chain ports, transmit and receive streams. -/
def State.shape (s : State) : List Nat :=
  [s.outs.length, s.lanes.length, s.sidebands.length, s.dma.length, s.eddys.length, s.host.fns.length, s.sst.slots.length,
    s.sst.outs.length, s.cal.copies.length, s.time.caps.length, s.chain.ports.length, s.chain.tx.length, s.chain.rx.length]

/-- The units of the part (R17): 4 outputs, 96 lanes in 4 groups, 32 channels, 4 engines, 32 functions, 4 staging slots, 12 records
in two copies, 5 captures, 3 ports, 4 streams each way. -/
def partShape : List Nat := [4, 96, 4, 32, 4, 32, 4, 4, 24, 5, 3, 4, 4]

/-- The invariant of the part: every store canonical, every unit there. -/
def State.Inv (s : State) : Prop := s.canonical = true ∧ s.shape = partShape

/-- A customer fuse never goes back: what is blown stays as it is. -/
def OtpState.kept (a b : OtpState) : Prop :=
  (a.signRequired = true → b.signRequired = true) ∧ (∀ k, a.keyHash = some k → b.keyHash = some k) ∧
    (∀ v, a.subsys = some v → b.subsys = some v) ∧ a.fusings ≤ b.fusings

/-- What every operation of the part keeps, from a state on: the queue of waiting commands, the invariant, the blown fuses, the
messages already sent, the free values already taken. -/
structure Keeps (r s : State) : Prop where
  queue : s.pending = r.pending
  inv : r.Inv → s.Inv
  fuses : r.otp.kept s.otp
  sent : ∃ new, s.out = new ++ r.out
  free : r.freeCount ≤ s.freeCount

/-! Frames: what a command leaves alone. -/

/-- A piece of the state beside the registers, by the field of State that holds it; units by their numbers. `active` is the landed
values, `free` the count of free values taken, `out` the messages put out. -/
inductive Part where
  | active | written | landed | high | tables | hold | sst | host | purser
  | output (n : Nat)
  | lane (n : Nat)
  | sideband (n : Nat)
  | channel (n : Nat)
  | turn
  | engine (n : Nat)
  | cal | otp | relief | power | time | chain | free | out
deriving DecidableEq, Repr

/-- A piece is the same in two states. -/
def Part.same (s t : State) : Part → Prop
  | .active => t.active = s.active
  | .written => t.written = s.written
  | .landed => t.landed = s.landed
  | .high => t.high = s.high
  | .tables => t.tables = s.tables
  | .hold => t.hold = s.hold
  | .sst => t.sst = s.sst
  | .host => t.host = s.host
  | .purser => t.purser = s.purser
  | .output n => t.outs[n]? = s.outs[n]?
  | .lane n => t.lanes[n]? = s.lanes[n]?
  | .sideband n => t.sidebands[n]? = s.sidebands[n]?
  | .channel n => t.dma[n]? = s.dma[n]?
  | .turn => t.dmaTurn = s.dmaTurn
  | .engine n => t.eddys[n]? = s.eddys[n]?
  | .cal => t.cal = s.cal
  | .otp => t.otp = s.otp
  | .relief => t.relief = s.relief
  | .power => t.power = s.power
  | .time => t.time = s.time
  | .chain => t.chain = s.chain
  | .free => t.freeCount = s.freeCount
  | .out => t.out = s.out

/-- A bit of a register lies in one of a list of fields. -/
def Covers (touched : List Field) (a b : Nat) : Prop := ∃ f ∈ touched, f.addr = a ∧ f.lo ≤ b ∧ b ≤ f.hi

/-- A whole register as one field. -/
def whole (a : Nat) : Field := ⟨a, 31, 0⟩

/-- What stays the same from one state to another: every register bit outside the fields of `touched`, every piece of the state that
is not one of `parts`, and the queue of waiting commands. -/
structure Frame (touched : List Field) (parts : List Part) (s t : State) : Prop where
  regs : ∀ a b, b < 32 → ¬ Covers touched a b → (t.reg a).getLsbD b = (s.reg a).getLsbD b
  rest : ∀ p, p ∉ parts → p.same s t
  queue : t.pending = s.pending

/-- A command completes: it answers a next state, which is a state u with the listed event sources raised in order; u differs from the
state before in the fields of `touched` and the pieces of `parts` alone and has `post`. -/
def Yields (c : Instr) (s : State) (events : List Nat) (touched : List Field) (parts : List Part) (post : State → Prop) : Prop :=
  ∃ u, exec c s = .next (events.foldl State.raise u) ∧ Frame touched parts s u ∧ post u

/-- A register write at an offset by a writer is accepted (R356, R358, R365, R367, R369, R394): its function answers, Winter drops it not,
it is no violation, and the function is not frozen, or PF0 writes a register of its recovery path. -/
def State.accepts (s : State) (w : Writer) (addr : Nat) : Bool :=
  s.answers w && !s.winterDrops w addr && (!s.frozen (masterOf w) || (masterOf w == 0x40 && recoveryAddr addr)) &&
    !s.writeViolates w addr

/-! Where claims look. -/

/-- The bit of an event source. -/
def pendingField (src : Nat) : Field := ⟨R.evtStatus (src / 32), src % 32, src % 32⟩

/-- The bits that the chase tracking may raise: CHASE_OVERTAKE of every output (R67). -/
def chaseFields : List Field := (List.range 4).map fun n => pendingField (evOut n 20)

/-- The pieces that the chase tracking may change. -/
def chaseParts : List Part := [.purser, .host, .out, .output 0, .output 1, .output 2, .output 3]

/-- SST_CMD's fields and what SST_STATUS notes of a command (R41). -/
def sstFields : List Field :=
  [F.sstCmdApplyHold, F.sstCmdSlot, F.sstCmdOp, F.sstStatusLastOp, F.sstStatusLastSlot, F.sstStatusBusy, F.sstStatusLastCode]

/-- The state in which an SST command is judged: noted in SST_CMD and SST_STATUS, under way. -/
def State.sstNoted (s : State) (op slot : Nat) (hold : Bool) : State :=
  let u := s.puts [(F.sstCmdApplyHold, hold.toNat), (F.sstCmdSlot, slot), (F.sstCmdOp, op), (F.sstStatusLastOp, op),
    (F.sstStatusLastSlot, slot), (F.sstStatusBusy, 1)]
  { u with sst := { u.sst with running := some ⟨op, slot, 0⟩ } }

/-- The state in which an SST command has ended with a code: BUSY clear, none under way, its reads no longer counted in flight (R41, R266). -/
def State.sstOver (s : State) (code : Nat) : State :=
  let t := s.puts [(F.sstStatusBusy, 0), (F.sstStatusLastCode, code)]
  let reads : Nat := (s.sst.running.map fun (r : SstRun) => r.reads).getD 0
  ({ t with sst := { t.sst with running := none } }).npPart (-(reads : Int))

/-- What the calibration store shows of a job of kind k that begins (R404). -/
def storeFields (k : Nat) : List Field := [F.calStatusBusy, F.calSeqSequence k]

/-- A store that can begin at once: none under way, the kind's SEQUENCE not exhausted (R404, 0x707). -/
def State.storeFree (s : State) (k : Nat) : Prop := s.cal.jobs = [] ∧ s.nextSeq k ≤ 0xFFFFFFFE

/-- A job begins in an idle store (R404): BUSY, the job under way; a store's target copy marked BLNK and CAL_SEQk shown; a clear's copies
as they were until it completes (R406). -/
def StoreBegins (j : StoreJob) (s u : State) : Prop :=
  u.get F.calStatusBusy = 1 ∧
    u.cal.jobs = [j] ∧ u.cal.retried = s.cal.retried ∧ u.cal.trimDue = s.cal.trimDue ∧ u.cal.sectors = s.cal.sectors ∧
    u.cal.copies = (if j.clear then s.cal.copies
      else updAt s.cal.copies (2 * j.kind + s.target j.kind) fun _ => { s.copy j.kind (s.target j.kind) with magic := magicBlank }) ∧
    (j.clear = false → u.get (F.calSeqSequence j.kind) = u.seqOf j.kind % 2 ^ 32)

/-- The bytes of the Hold after a write access: every enabled byte of its word from its rotated source byte, every other byte as before. -/
def State.storedBy (s u : State) (a : HoldAccess) : Prop :=
  ∀ b, u.holdByte b =
    if wordOf b = wordOf a.addr.toNat ∧ a.enable.getLsbD (b - wordOf a.addr.toNat) = true then
      a.data.extractLsb' (8 * ((b - wordOf a.addr.toNat + 32 - a.rotate.val) % 32)) 8
    else s.holdByte b

/-- An access meets the gate as an ordinary one: of the Purser no march window of its bank is under test
(R249). -/
def State.plainAt (s : State) (a : HoldAccess) : Prop :=
  a.master.toNat = 1 → ∀ w, s.hold.window = some w → w / 2048 ≠ bankOf a.addr.toNat

/-- A host function's access, through BAR2. -/
def hostAccess (a : HoldAccess) : Prop := 0x40 ≤ a.master.toNat ∧ a.master.toNat < 0x60

/-- What the end of a descriptor's fetch does (R260, R261, R273), from the state t in which its answer is noted: aborted, discarded, a
halt, or the descriptor kept to be taken up. -/
def State.fetchEnds (t : State) (ch : Nat) (c : DmaState) (p : Nat × Bool) (code : Nat) (b : List Byte) (x : State) : Prop :=
  ∃ u, Frame [] [.channel ch] t u ∧ u.dma[ch]? = some { c with fetch := none, fetching := false } ∧
    let aborting := t.get (F.dmaStatusState ch) = 2
    (c.xfer = none → aborting → x = u.chanStop ch 0x301) ∧
    (c.xfer = none → ¬ aborting → code ≠ 0 → x = u.chanHalt ch code p.1 false p.2 true) ∧
    (c.xfer = none → ¬ aborting → code = 0 → x = u.setChan ch fun c => { c with got := some (p, code, b) }) ∧
    (c.xfer ≠ none → c.stopAfter = true → x = u) ∧
    (c.xfer ≠ none → c.stopAfter = false → x = u.setChan ch fun c => { c with got := some (p, code, b) })

/-- A non-posted request of a channel answered: one less in flight. -/
def State.answered (s : State) (ch : Nat) (P : List Part) (u : State) : Prop :=
  Frame [F.dmaNpInflightCount ch, F.dmaNpTotalCount] P s u ∧
    u.get (F.dmaNpInflightCount ch) = s.get (F.dmaNpInflightCount ch) - 1 ∧ u.get F.dmaNpTotalCount = s.get F.dmaNpTotalCount - 1

/-- The fields of the windows' OPEN bits and the pending bits of their events (R342). -/
def windowFields : List Field := [F.timeWinCtrlOpen 0, F.timeWinCtrlOpen 1, F.timeWinCtrlOpen 2, F.timeWinCtrlOpen 3, pendingField 551, pendingField 552]

/-- A driver's write of time that a discipline forbids: discarded with 0x601 (R330). -/
def State.timeRefuses (s : State) (c : Instr) : Prop := Yields c s [] [F.timeStatusLastCode] [] fun u => u.get F.timeStatusLastCode = 0x601

/-- The displayed count an LTC word gives in the layout of TIME_LTCIN_TC: units and tens of frames, seconds, minutes, hours, and the
drop-frame flag (R346). -/
def ltcTcOf (w : Nat) : Nat :=
  let two := fun lo n => bits w (lo + 3) lo + 10 * bits w (lo + 8 + n) (lo + 8)
  two 0 1 + 2 ^ 7 * bits w 10 10 + 2 ^ 8 * two 16 2 + 2 ^ 16 * two 32 2 + 2 ^ 24 * two 48 1

/-- The frame label an LTC word stands for at a rate of `per` labels per second (R345, R346). -/
def ltcLabelOf (w rate per : Nat) : Nat :=
  let two := fun lo n => bits w (lo + 3) lo + 10 * bits w (lo + 8 + n) (lo + 8)
  ltcLabel rate ((two 48 1 * 3600 + two 32 2 * 60 + two 16 2) * per + two 0 1)

/-- Function f's configuration as it is, but for a change. -/
def State.withFn (s : State) (f : Nat) (g : FnConfig → FnConfig) (u : State) : Prop :=
  Frame [] [.host] s u ∧ u.host = { s.host with fns := updAt s.host.fns f g }

/-- The messages that function f's enables have let go, sent when a change lets it send (R384). -/
def State.woken (s u : State) (f : Nat) : State := if s.fnSends f = false ∧ u.fnSends f = true then u.sendWaiting f else u

/-- The cause entry of master m (R370): the code, MORE, the address, the detail. -/
def causeFields (m : Nat) : List Field :=
  [F.mstFreezeCauseCode m, F.mstFreezeCauseMore m, whole (R.mstCauseAddrLo m), whole (R.mstCauseAddrHi m), whole (R.mstCauseDetail m)]

/-- The FROZEN flags of a master: its cause entry's, its bit of MST_FROZENk, and its unit's (R365). -/
def frozenFields (m : Nat) : List Field :=
  [F.mstFreezeCauseFrozen m, ⟨R.mstFrozen (m / 32), m % 32, m % 32⟩] ++
    (if 0x10 ≤ m ∧ m < 0x30 then [F.dmaStatusFrozen (m - 0x10)] else if 0x08 ≤ m ∧ m < 0x0C then [F.eddyStatusFrozen (m - 0x08)]
      else if 0xB0 ≤ m ∧ m < 0xB3 then [F.chnpStatusFrozen (m - 0xB0)] else [])

/-- The Purser has taken up the command of mailbox slot k and not begun it (R377); t is the state in which it has begun. -/
def State.begins (s : State) (k : Nat) (t : State) : Prop :=
  s.purser.current = some k ∧ s.purser.serving = true ∧ s.purser.begun = false ∧ Frame [] [.purser] s t ∧
    t.purser = { s.purser with begun := true }

/-- Where a mailbox command's end shows: its slot's argument registers as far as there are results, its response, its status (R376). -/
def mailboxFields (k results : Nat) : List Field :=
  (List.range results).map (F.pursmArgValue k) ++ [F.pursmRespCode k, F.pursmRespTag k, F.pursmRespResult k, F.pursmStatusQueued k, F.pursmStatusDone k, F.pursmStatusBusy k]

/-- The ten mailbox commands, with what a fetch or a write of theirs meets. -/
def mailboxCommands (ok : Bool) (data : Option (List Byte)) : List Instr :=
  [.getInfo, .eventTest, .unknownOp, .calRead ok, .calStore data, .calClear, .calSetDigest, .calStatus, .otpFuse, .reliefSwap]

/-- The lock bit of a PLL in CLK_STATUS. -/
def lockField (p : Pll) : Field := ⟨R.clkStatus, pllBit p, pllBit p⟩

/-- A channel that a stage holds may issue a request of len bytes at a host address: not stopped, inside its window, its function able
(R261, R277). -/
def State.Issues (s : State) (ch a len : Nat) : Prop :=
  s.get (F.dmaStatusHeld ch) = 1 ∧ s.chanStopped ch = false ∧ s.outsideWindow ch a len = none ∧ s.chanMay ch = true

/-- Whether bytes are a good reply to a frame: as long as LEN says, its CRC right, from the lane asked (R206). -/
def SbFrame.answeredBy (f : SbFrame) (r : List Byte) : Bool :=
  r.length == leAt r 2 1 + 5 && leAt r (leAt r 2 1 + 3) 2 == crc16 (r.take (leAt r 2 1 + 3)) && leAt r 0 1 == 0x80 + f.lane

end Sys2Proof.Machine

namespace Sys2Proof

open Machine

/-- The register a command writes, and the writer: none for a command that is no register write (a misaligned write is discarded first,
R6, R358). -/
def Instr.writes : Instr → Option (Writer × Nat)
  | .registerWrite w a _ _ => if a.toNat % 4 = 0 then some (w, a.toNat) else none
  | .sstLoad w _ | .sstApply w _ _ _ | .sstDiscard w _ | .storeBoot w _ | .clearBoot w _ => some (w, R.sstCmd)
  | .cmdInvalid w op _ => if 6 ≤ op.val then some (w, R.sstCmd) else none
  | .slotReady w n k | .slotWithdraw w n k => some (w, R.scnSlotCtrl n k)
  | .landGo w n _ | .landCancel w n => some (w, R.tgLand n)
  | .tableDataWrite w a _ | .unifAddressWrite w a _ | .unifCheckBase w a | .unifCheckField w a | .baseLock w a |
    .odrvPanelTempWrite w a _ => some (w, a.toNat)
  | .tgEnable w n | .tgDisable w n => some (w, R.tgCtrl n)
  | .rgnPush w n _ | .rgnFlush w n => some (w, R.scnRgnCmd n)
  | .retrain w l | .txOff w l _ => some (w, R.plnCtrl l)
  | .calRequest w l | .calMeasure w l _ => some (w, R.plnCalCmd l)
  | .ffeForce w l _ _ _ _ => some (w, R.plnFfeForce l)
  | .chainRxForce w p k _ _ => some (w, R.chnrxForce p k)
  | .ferryStart w b _ => some (w, R.holdFerry b)
  | .marchRequest w _ _ _ | .marchAbandon w _ _ _ _ => some (w, R.holdMarchCtrl)
  | .repairRow w _ _ | .repairBank w _ _ => some (w, R.holdRepairCmd)
  | .dmaStart w ch _ | .dmaAbort w ch _ | .dmaResume w ch _ => some (w, R.dmaCtrl ch)
  | .eddyStart w e | .eddyResume w e | .eddyAbort w e | .ctxSave w e | .ctxRestore w e => some (w, R.eddyCmd e)
  | .boardStart w _ => some (w, R.chnBoard)
  | .ringRestore w => some (w, R.chnRing)
  | .raRead w | .raWrite w => some (w, R.chnRaCmd)
  | .sensorTx w _ _ => some (w, R.chnSensorTx)
  | .timeIncrWrite w _ => some (w, R.timeIncrHi)
  | .timeSlewWrite w _ => some (w, R.timeSlew)
  | .timeStepArm w _ => some (w, R.timeStepHi)
  | .ltcJam w k _ _ => some (w, R.timeLtcoCfg k)
  | .swlogPop w => some (w, R.timeSwlogPop)
  | .txqPop w => some (w, R.timeTxqPop)
  | .windowArm w k _ => some (w, R.timeWinCtrl k)
  | .mstThaw w _ _ => some (w, R.mstThaw)
  | .causeAck w m _ => some (w, R.mstFreezeCause m.toNat)
  | .doorbellRing w k => some (w, R.pursmDoorbell k)
  | .evtSoftRaise w => some (w, R.evtSoft)
  | .manifestRequest w _ => some (w, R.glbManifestReq)
  | .powerRequestRun w | .powerRequestSlack w | .powerRequestWinter w => some (w, R.glbPowerCtrl)
  | .powerRequestInvalid w req => if req = 3 then some (w, R.glbPowerCtrl) else none
  | .warmReset w => some (w, R.glbReset)
  | .stateRequest w _ => some (w, R.glbStateReq)
  | _ => none

/-- The register a read command reads, and the reader. -/
def Instr.reads : Instr → Option (Writer × Nat)
  | .lowWordRead w a | .rcRead w a _ | .tableDataRead w a => some (w, a.toNat)
  | .captureLoRead w k => some (w, R.timeCapLo k)
  | .captureMetaRead w k => some (w, R.timeCapMeta k)
  | _ => none

end Sys2Proof

namespace Sys2Proof.Machine

/-- What becomes of a register write that is not accepted, whatever it would do (R356, R358, R364, R365, R369, R394). -/
def State.turnsAway (s : State) (w : Writer) (a : Nat) (r : Host.Outcome State Fault Refusal) : Prop :=
  (s.answers w = false → r = .next s) ∧
  (s.answers w = true → s.winterDrops w a = true → r = .next s.winterDrop) ∧
  (s.answers w = true → s.winterDrops w a = false → s.writeViolates w a = true → r = .next (s.violate (masterOf w) 0x203 a true)) ∧
  (s.answers w = true → s.winterDrops w a = false → s.writeViolates w a = false → s.frozen (masterOf w) = true →
    (masterOf w = 0x40 → recoveryAddr a = false) → masterOf w ≠ 1 → r = .next s ∨ r = .next (s.put (F.mstFreezeCauseMore (masterOf w)) 1))

end Sys2Proof.Machine
end

