-- ==== Sys2Proof/Certificates/Slice0/Obligations.lean ====
section
/-! DEFINITION. The statements for the provers: sixty obligations over the machine, in the vocabulary of Sys2Proof.Safety. Each docstring
says what the statement says and the rules of spec/ it rests on. A value or a choice of the model is called so there. -/

open Sys2Proof Sys2Proof.Machine

/-- With a command c at the front of the queue, step answers exec of c on the state whose queue is the rest. With an empty queue step answers the
state itself: the idling is the model's own choice (DESIGN CHOICE, notes/assumptions/3.md). [00_scope.md] -/
def Obligations.StepServesTheFront : Prop :=
  (∀ (s : State) (c : Instr) (rest : List Instr), s.pending = c :: rest → step s = exec c { s with pending := rest }) ∧
  (∀ s : State, s.pending = [] → step s = .next s)

/-- State.reset has every sparse store in canonical form and every unit there; no command waits and no message is out; every register reads its reset
word, but HOLD_REPAIR_STATUS, whose BANKS_FREE is 16 (a part without factory repairs, the model's choice, notes/assumptions/101.md); GLB_STATE.STATE
and GLB_POWER_STATUS.STATE are 0; no event source is pending; every chain port has EN = 1; every output has EN = 0, AUTO = 1 and is not running;
RLF_TEMP.WARN is 1,840; no register has been written, every byte of the Hold reads 0 (the model's choice, notes/assumptions/24.md). [00_scope.md R11,
R12; 20_register_map.md R422] -/
def Obligations.ResetState : Prop :=
  State.reset.Inv ∧ State.reset.pending = [] ∧ State.reset.out = [] ∧ (∀ a, a ≠ R.holdRepairStatus → State.reset.reg a = resetOf a) ∧
    State.reset.get F.holdRepairStatusBanksFree = 16 ∧ State.reset.get F.glbStateState = 0 ∧ State.reset.get F.glbPowerStatusState = 0 ∧
    (∀ src, src < 768 → State.reset.get (pendingField src) = 0) ∧ (∀ p < 3, State.reset.get (F.chnpCtrlEn p) = 1) ∧
    (∀ n < 4, State.reset.get (F.tgCtrlEn n) = 0 ∧ State.reset.get (F.tgCtrlAuto n) = 1 ∧ State.reset.running n = false) ∧
    State.reset.get F.rlfTempWarn = 1840 ∧ (∀ a, State.reset.isWritten a = false ∧ State.reset.holdByte a = 0)

/-- For every command c and every state s, exec c s is a next state whose queue of waiting commands is that of s; and every step answers a next state. No
command faults or refuses. That none does is the model's choice, no rule of the spec: a command that the part cannot meet leaves the state as it is
(DESIGN CHOICE, notes/assumptions/2.md), an empty queue idles (DESIGN CHOICE, notes/assumptions/3.md). [00_scope.md; 20_register_map.md] -/
def Obligations.EveryCommandCompletes : Prop :=
  (∀ (c : Instr) (s : State), ∃ t, exec c s = .next t ∧ t.pending = s.pending) ∧ (∀ s : State, ∃ t, step s = .next t)

/-- From every state that meets the invariant (the registers, the landed values, the holding registers, the tables and the bytes of the Hold in
canonical form; 4 outputs, 96 lanes in 4 groups, 32 channels, 4 engines, 32 functions, 4 staging slots, 24 copies of records, 5 captures, 3 chain
ports, 4 streams each way), whatever command a step serves, the state it answers meets it too. [01_lararn_in_the_system.md; 11_the_hold.md;
12_dma.md; 13_eddy_codec.md; 14_ndoben_chain.md; 20_register_map.md] -/
def Obligations.StepKeepsTheInvariant : Prop :=
  ∀ s t : State, s.Inv → step s = .next t → t.Inv

/-- If a step answers a next state: its queue is the old one without its front; every customer fuse that was blown is as it was and the count of
fusings has not fallen; the messages already put out stay, new ones before them; the count of free values taken has not fallen.
[17_purser_events_manifest.md; 18_power_clocks_reset.md] -/
def Obligations.WhatNoStepUndoes : Prop :=
  ∀ s t : State, step s = .next t → t.pending = s.pending.tail ∧ s.otp.kept t.otp ∧ (∃ new, t.out = new ++ s.out) ∧ s.freeCount ≤ t.freeCount

/-- A register set reads the word written and every other register reads as before; a field set reads the value modulo its width, and every bit
outside it stays; a table entry reads back and leaves other entries of its table and bank alone; a byte of the Hold with known contents reads
back and every other byte stays; storing a byte keeps the canonical form of the Hold. [04_colour_scaling_dual_cell.md R77, R78] -/
def Obligations.StoresReadBack : Prop :=
  (∀ (s : State) (a b : Nat) (v : Word), (s.setReg a v).reg b = if b = a then v else s.reg b) ∧
  (∀ (s : State) (f : Field) (v : Nat), f.lo ≤ f.hi → f.hi < 32 → (s.put f v).get f = v % 2 ^ (f.hi + 1 - f.lo)) ∧
  (∀ (s : State) (f : Field) (v a b : Nat), b < 32 → ¬(f.addr = a ∧ f.lo ≤ b ∧ b ≤ f.hi) → ((s.put f v).reg a).getLsbD b = (s.reg a).getLsbD b) ∧
  (∀ (s : State) (n type table bank idx k v : Nat), (s.setTbl n type table bank idx v).tbl n type table bank idx = v ∧
    (tableKey n type table bank k ≠ tableKey n type table bank idx →
      (s.setTbl n type table bank idx v).tbl n type table bank k = s.tbl n type table bank k)) ∧
  (∀ (s : State) (a b : Nat) (v : Byte), s.unknownAt a = none → (s.setHoldByte a v).holdByte b = if b = a then v else s.holdByte b) ∧
  (∀ (s : State) (a : Nat) (v : Byte), Memory.wf s.hold.bytes = true → Memory.wf (s.setHoldByte a v).hold.bytes = true)

/-- For every command that writes a register: nothing happens when the writer's function does not answer; Winter drops and counts it; a violation becomes
a violation of the writer with code 0x203; a frozen function's write outside the recovery path of PF0 has no effect but that a further violation may
set MORE. For every command that reads a register: nothing when the function does not answer; all-ones data in Winter (counted), for a frozen
function, and outside the partition. The model's choice: that a function without Memory Space Enable or in D3hot does not answer (PRESUMED,
notes/assumptions/11.md), which accesses Winter drops (DEDUCED, notes/assumptions/15.md), and the directions of a register window (DEDUCED,
notes/assumptions/13.md). [16_host_interface.md R356, R358, R364, R365, R367, R369; 18_power_clocks_reset.md R394] -/
def Obligations.AccessesTurnedAway : Prop :=
  (∀ (c : Instr) (w : Writer) (a : Nat) (s : State), c.writes = some (w, a) → s.turnsAway w a (exec c s)) ∧
  (∀ (c : Instr) (w : Writer) (a : Nat) (s : State), c.reads = some (w, a) →
    (s.answers w = false → exec c s = .next s) ∧
    (s.answers w = true → s.winterDrops w a = true → exec c s = .next (s.winterDrop.emit (.completion allOnes))) ∧
    (s.answers w = true → s.winterDrops w a = false → s.frozen (masterOf w) = true ∨ s.inPartition w a false = false →
      exec c s = .next (s.emit (.completion allOnes))))

/-- Raising a source that is not implemented changes nothing. Raising an implemented one touches its pending bit, the Purser's stamps, the PBA and the
messages alone. The stamp is asked for exactly when EVT_ROUTE.PURSER is 1. A message is due when the bit was clear, the source enabled and routed, and
the vector's function able to send; not due, the bit is set and nothing is sent; due on a masked vector, the vector enters the PBA; due on an unmasked
one, its function's write under the vector's table entry is put out, a message held there merged into it, and the bit stays set unless AUTOCLR is 1,
which clears it. The bits of the PBA are the base specification's (PRESUMED, notes/assumptions/111.md). [16_host_interface.md R360;
17_purser_events_manifest.md R381, R382, R383, R384, R385] -/
def Obligations.EventSources : Prop :=
  ∀ (s : State) (src : Nat), src < 768 →
    (implemented src = false → s.raise src = s) ∧
    (implemented src = true →
      let u := s.raise src
      let v := s.get (F.evtRouteVector src)
      let due := s.get (pendingField src) = 0 ∧ s.routed src = true ∧ s.fnSends (vectorFn v) = true
      Frame [pendingField src] [.purser, .host, .out] s u ∧
      u.purser = { s.purser with stamps := if s.get (F.evtRoutePurser src) = 1 then s.purser.stamps ++ [src] else s.purser.stamps } ∧
      (¬due → u.get (pendingField src) = 1 ∧ u.host = s.host ∧ u.out = s.out) ∧
      (due → s.maskedVec v = true → u.get (pendingField src) = 1 ∧ u.host = { s.host with pba := keyInsert s.host.pba v } ∧ u.out = s.out) ∧
      (due → s.maskedVec v = false → u.get (pendingField src) = (if s.get (F.evtRouteAutoclr src) = 1 then 0 else 1) ∧
        u.host = { s.host with pba := s.host.pba.filter (· != v) } ∧
        ∃ addr data, u.out = .msix v (vectorFn v) addr data :: s.out ∧
          (∀ e, s.host.entries.find? (·.vector == v) = some e → addr = e.addr ∧ data = e.data)))

/-- An unaligned REGISTER_WRITE changes nothing (it is MISALIGNED_BAR0_ACCESS's). An accepted aligned write of a register that no rule of its own names
touches that register and the written flags alone, before what follows from it: a bit of an RW, RWP or RWL field takes the data; a W1C bit is cleared
by a 1, but for the bits the part sets in the same clock; a W1S bit is set by a 1; every other bit, those of command fields among them, stays. The
written flag is set exactly for a register whose reset value is a dash. The model's choice: what a REGISTER_WRITE leaves to commands of their own
(DEDUCED, notes/assumptions/8.md). [00_scope.md R9, R10, R12] -/
def Obligations.RegisterWriteByAccessType : Prop :=
  (∀ (s : State) (w : Writer) (addr : BitVec 26) (data hw : Word), addr.toNat % 4 ≠ 0 → exec (.registerWrite w addr data hw) s = .next s) ∧
  ∀ (s : State) (w : Writer) (addr : BitVec 26) (data hw : Word) (key : Nat) (r : RegRow),
    addr.toNat % 4 = 0 → s.accepts w addr.toNat = true → s.keyOf addr.toNat = some key → rowOf key = some r →
    s.specialWrite key data hw = none →
    ∃ u, exec (.registerWrite w addr data hw) s = .next (u.afterWrite s key) ∧ Frame [whole key] [.written] s u ∧
      u.written = (if r.dash then keyInsert s.written key else s.written) ∧
      ∀ b, b < 32 →
        let own := bit r.masks.own b
        let takes := (bit r.masks.rw b || bit r.masks.rwp b || bit r.masks.rwl b) && !own
        let old := (s.reg key).getLsbD b
        let new := (u.reg key).getLsbD b
        let d := data.getLsbD b
        (takes = true → bit r.masks.w1c b = false → bit r.masks.w1s b = false → new = d) ∧
        (takes = false → bit r.masks.w1c b = true → own = false → bit r.masks.w1s b = false →
          new = ((old && !d) || hw.getLsbD b)) ∧
        (takes = false → bit r.masks.w1s b = true → own = false → bit r.masks.w1c b = false → new = (old || d)) ∧
        (takes = false → (bit r.masks.w1c b = false ∧ bit r.masks.w1s b = false ∨ own = true) → new = old)

/-- An accepted REGISTER_WRITE of TIME_INCR_LO, SST_CMD, HOLD_REPAIR_CMD, GLB_MANIFEST_REQ, an EVT_STATUS, EVT_ENABLE or EVT_ROUTE register, a
TIME_WINk_CTRL, or a mailbox slot's CMD or ARG registers does what its rule says: an operation that is a command of its own is left to that command
(no change), a BUSY slot is not written and raises MBOX_REFUSED, sources that a write of EVT_ENABLE or EVT_ROUTE enables have their messages due, a
W1C clear is overtaken by the sources raised in the same clock and takes the PBA bits of vectors that no source holds any more (the base
specification's rule, PRESUMED, notes/assumptions/111.md), a disarmed window is checked. The model's choice: command fields left to their commands and
written codes that are none (DEDUCED, notes/assumptions/8.md, 10.md), the disarmed window's EPOCH (DEDUCED, notes/assumptions/9.md), the low word of
the increment held apart (DEDUCED, notes/assumptions/67.md). [00_scope.md R10; 15_time_reference.md R326, R342; 17_purser_events_manifest.md R377,
R381, R382, R383] -/
def Obligations.WritesWithRulesOfTheirOwn : Prop :=
  ∀ (s : State) (w : Writer) (addr : BitVec 26) (data hw : Word) (key : Nat),
    addr.toNat % 4 = 0 → s.accepts w addr.toNat = true → s.keyOf addr.toNat = some key →
    let c := Instr.registerWrite w addr data hw
    (key = R.timeIncrLo → Yields c s [] [] [.time] fun u => u.time = { s.time with incrLo := data }) ∧
    (key = R.sstCmd →
      (bits data.toNat 3 0 = 0 → Yields c s [] [whole key] [] fun u => u.reg key = data &&& 0x13F) ∧
      (bits data.toNat 3 0 ≠ 0 → exec c s = .next s)) ∧
    (key = R.holdRepairCmd →
      (bits data.toNat 1 0 = 0 ∨ bits data.toNat 1 0 = 3 → Yields c s [] [whole key] [] fun u => u.reg key = data &&& 0xFFFFF) ∧
      (bits data.toNat 1 0 ≠ 0 → bits data.toNat 1 0 ≠ 3 → exec c s = .next s)) ∧
    (key = R.glbManifestReq →
      (bit data.toNat 0 = false → Yields c s [] [whole key] [] fun u => u.reg key = data &&& 0xFFFFF000) ∧
      (bit data.toNat 0 = true → exec c s = .next s)) ∧
    (∀ g < 24, key = R.evtStatus g → exec c s = .next ((List.range 32).foldl (fun t b =>
      if bit hw.toNat b = true then t.raiseWith (32 * g + b) (bit data.toNat b) else t) (s.plainWrite key data 0).settlePba)) ∧
    (∀ g < 24, key = R.evtEnable g → exec c s = .next ((List.range 32).foldl (fun t b =>
      if s.enabledSrc (32 * g + b) = false ∧ t.pendingSrc (32 * g + b) = true ∧ t.routed (32 * g + b) = true then t.messageDue (32 * g + b) else t)
        (s.plainWrite key data 0))) ∧
    (∀ src < 768, key = R.evtRoute src →
      (implemented src = false → exec c s = .next s) ∧
      (implemented src = true → let u := s.plainWrite key data 0
        (u.pendingSrc src = true → u.routed src = true → exec c s = .next (u.messageDue src)) ∧
        (u.pendingSrc src = false ∨ u.routed src = false → exec c s = .next u))) ∧
    (∀ k < 4, key = R.timeWinCtrl k →
      (bit data.toNat (F.timeWinCtrlEn k).lo = true → exec c s = .next s) ∧
      (bit data.toNat (F.timeWinCtrlEn k).lo = false → exec c s = .next (s.plainWrite key data 0).checkWindows)) ∧
    (∀ k < 16, (key = R.pursmCmd k ∨ ∃ i < 14, key = R.pursmArg k i) →
      (s.get (F.pursmStatusBusy k) = 1 → exec c s = .next (s.raise 594)) ∧
      (s.get (F.pursmStatusBusy k) = 0 → exec c s = .next (s.plainWrite key data 0)))

/-- Allowed reads. A read of TGn_FRAME_ID_LO returns it and copies the high word into the holding register that a read of the high word returns. A
read of TIME_NS_LO returns bits 63..32 of the count in u96.32 terms and holds the upper word and the fraction. A read-to-clear read returns the
register and leaves in its RC bits only what the part counts in that clock. Any other register's read returns it and changes nothing.
[00_scope.md R8, R9, R10; 15_time_reference.md R326] -/
def Obligations.RegisterReads : Prop :=
  (∀ (s : State) (w : Writer) (n : Fin 4) (addr : BitVec 26), s.answers w = true → s.readAllowed w addr.toNat = true →
    addr.toNat = R.tgFrameIdLo n →
    Yields (.lowWordRead w addr) s [] [] [.high, .out] fun u =>
      u.out = .completion (s.reg addr.toNat) :: s.out ∧
      u.high = sparseSet 0 s.high (R.tgFrameIdHi n) (s.reg (R.tgFrameIdHi n)) ∧
      u.readReg (R.tgFrameIdHi n) = s.reg (R.tgFrameIdHi n)) ∧
  (∀ (s : State) (w : Writer) (addr : BitVec 26), s.answers w = true → s.readAllowed w addr.toNat = true →
    addr.toNat = R.timeNsLo →
    Yields (.lowWordRead w addr) s [] [] [.high, .out] fun u =>
      u.out = .completion (BitVec.ofNat 32 (s.time.now / 2 ^ 32)) :: s.out ∧
      u.readReg R.timeNsHi = BitVec.ofNat 32 (s.time.now / 2 ^ 64) ∧ u.readReg R.timeFrac = BitVec.ofNat 32 s.time.now) ∧
  (∀ (s : State) (w : Writer) (addr : BitVec 26) (inc : Word) (key : Nat) (r : RegRow), s.answers w = true →
    s.readAllowed w addr.toNat = true → s.keyOf addr.toNat = some key → rowOf key = some r →
    (BitVec.ofNat 32 r.masks.rc = 0 → exec (.rcRead w addr inc) s = .next (s.emit (.completion (s.readReg key)))) ∧
    (BitVec.ofNat 32 r.masks.rc ≠ 0 → Yields (.rcRead w addr inc) s [] [whole key] [.out] fun u =>
      u.out = .completion (s.readReg key) :: s.out ∧
      ∀ b, b < 32 → (u.reg key).getLsbD b = if bit r.masks.rc b then inc.getLsbD b else (s.reg key).getLsbD b)) ∧
  (∀ (s : State) (w : Writer) (addr : BitVec 26) (key : Nat), s.answers w = true → s.readAllowed w addr.toNat = true →
    s.keyOf addr.toNat = some key → key ≠ R.timeNsLo → (∀ n < 4, key ≠ R.tgFrameIdLo n) →
    exec (.lowWordRead w addr) s = .next (s.emit (.completion (s.readReg key))))

/-- At an offset in no register: a write inside the partition changes nothing; an allowed read returns 0 and changes nothing else; outside the
partition a write is a violation with code 0x203 and a read returns all ones. [R423] -/
def Obligations.UnlistedOffsets : Prop :=
  ∀ (s : State) (w : Writer) (addr : BitVec 26), s.keyOf addr.toNat = none → s.answers w = true → s.winterDrops w addr.toNat = false →
    (∀ data hw, addr.toNat % 4 = 0 → s.inPartition w addr.toNat true = true → exec (.registerWrite w addr data hw) s = .next s) ∧
    (∀ inc, s.frozen (masterOf w) = false → s.inPartition w addr.toNat false = true →
      exec (.lowWordRead w addr) s = .next (s.emit (.completion 0)) ∧ exec (.rcRead w addr inc) s = .next (s.emit (.completion 0))) ∧
    (∀ data hw, addr.toNat % 4 = 0 → s.inPartition w addr.toNat true = false →
      exec (.registerWrite w addr data hw) s = .next (s.violate (masterOf w) 0x203 addr.toNat true)) ∧
    (∀ inc, s.inPartition w addr.toNat false = false →
      exec (.lowWordRead w addr) s = .next (s.emit (.completion 0xFFFFFFFF)) ∧
      exec (.rcRead w addr inc) s = .next (s.emit (.completion 0xFFFFFFFF)))

/-- A write of another size or alignment changes nothing but raises REG_ACCESS_SIZE (source 35); such a read completes with all-ones data and raises it
too. In Winter outside the GLB block the access is dropped and counted in place of the event (R394). An aligned 32-bit access, or one of a function
that does not answer, is not this command's. The model's choice: the access in Winter (DEDUCED, notes/assumptions/14.md), and the function that does
not answer (PRESUMED, notes/assumptions/11.md). [00_scope.md R6; 18_power_clocks_reset.md R394] -/
def Obligations.MisalignedAccesses : Prop :=
  ∀ (s : State) (w : Writer) (addr : BitVec 26) (size : Nat) (write : Bool),
    (¬(size = 4 ∧ addr.toNat % 4 = 0) → s.answers w = true → s.winterDrops w addr.toNat = false →
      exec (.misalignedBar0Access w addr size true) s = .next (s.raise 35) ∧
      exec (.misalignedBar0Access w addr size false) s = .next ((s.raise 35).emit (.completion 0xFFFFFFFF))) ∧
    (¬(size = 4 ∧ addr.toNat % 4 = 0) → s.answers w = true → s.winterDrops w addr.toNat = true →
      exec (.misalignedBar0Access w addr size true) s = .next s.winterDrop ∧
      exec (.misalignedBar0Access w addr size false) s = .next (s.winterDrop.emit (.completion 0xFFFFFFFF))) ∧
    ((size = 4 ∧ addr.toNat % 4 = 0) ∨ s.answers w = false → exec (.misalignedBar0Access w addr size write) s = .next s)

/-- With SST_CMD accepted and no command running: LOAD of a slot neither PENDING nor ACTIVE, with its registers written and in range and PF0 able to
master the bus, empties the slot, sets it LOADING, BUSY 1, and puts out the read requests that LEN bytes at its address take under PF0's sizes, of
which at most 13, and no more than the part's limit of 3,072 leaves, count as in flight (the model's choice, notes/assumptions/99.md); DISCARD of such
a slot makes it EMPTY with SEQ and TARGETS 0 and ends with 0x000; an operation of 6 or more ends at once with 0x12B and SST_REJECTED. The model's
choice: that DISCARD zeroes SEQ and TARGET (DESIGN CHOICE, notes/assumptions/87.md), and what an unwritten length or address is (DEDUCED,
notes/assumptions/18.md). [02_structure_stream.md R41, R42; 16_host_interface.md R352, R353] -/
def Obligations.SstSlotCommands : Prop :=
  ∀ (s : State) (w : Writer) (slot : Fin 4), s.accepts w R.sstCmd = true → s.get F.sstStatusBusy = 0 →
    (s.slotSt slot ≠ 4 → s.slotSt slot ≠ 5 → s.fetchOk slot = true → (s.fnCfg 0).busMaster = true →
      let a := 32 * s.get (F.sstslotAddrLoAddr slot) + 2 ^ 32 * s.get (F.sstslotAddrHiAddr slot)
      let len := s.get (F.sstslotLenBytes slot)
      let requests := linkPieces (s.readMost 0) len a len
      let n := min (min 13 (3072 - s.get F.dmaNpTotalCount)) requests.length
      Yields (.sstLoad w slot) s [] (F.sstslotStateState slot :: F.dmaNpTotalCount :: sstFields) [.sst, .host, .out] fun u =>
        u.slotSt slot = 1 ∧ u.get F.sstStatusBusy = 1 ∧ u.get F.sstStatusLastOp = 1 ∧ u.get F.sstStatusLastSlot = slot ∧
        u.get F.dmaNpTotalCount = s.get F.dmaNpTotalCount + n ∧
        u.sst = { s.sst with running := some ⟨1, slot, n⟩, slots := updAt s.sst.slots slot fun _ => [] } ∧
        u.host = { s.host with inL1 := false } ∧ u.out = (requests.map fun p => Out.hostRead 0 p.1 p.2).reverse ++ s.out) ∧
    (s.slotSt slot ≠ 4 → s.slotSt slot ≠ 5 →
      Yields (.sstDiscard w slot) s []
        (F.sstslotStateState slot :: F.sstslotSeqSeq slot :: F.sstslotTargetMask slot :: F.dmaNpTotalCount :: sstFields) [.sst] fun u =>
        u.slotSt slot = 0 ∧ u.get (F.sstslotSeqSeq slot) = 0 ∧ u.get (F.sstslotTargetMask slot) = 0 ∧
        u.get F.sstStatusLastCode = 0 ∧ u.get F.sstStatusBusy = 0 ∧ u.get F.sstStatusLastOp = 3 ∧
        u.get F.sstStatusLastSlot = slot ∧ u.get F.dmaNpTotalCount = s.get F.dmaNpTotalCount ∧
        u.sst = { s.sst with running := none, slots := updAt s.sst.slots slot fun _ => [] }) ∧
    (∀ op : Fin 16, 6 ≤ op.val →
      Yields (.cmdInvalid w op slot) s [241] (F.dmaNpTotalCount :: sstFields) [.sst] fun u =>
        u.get F.sstStatusLastCode = 0x12B ∧ u.get F.sstStatusBusy = 0 ∧ u.get F.sstStatusLastOp = op ∧
        u.get F.sstStatusLastSlot = slot ∧ u.get F.dmaNpTotalCount = s.get F.dmaNpTotalCount ∧
        u.sst = { s.sst with running := none })

/-- When the fetch of a LOAD ends well, the slot becomes VALID, its code 0, SEQ and TARGETS from the header, SST_VALID raised, if every check passes, and
REJECTED with the code and the offset of the first failing check, SST_REJECTED raised, if one fails; a failed fetch rejects the slot with 0x126. The
command ends, its reads no longer counted in flight; other slots stay. The count of reads in flight is the model's choice (DEDUCED,
notes/assumptions/99.md), as is which fuses the signature's check reads (DEDUCED, notes/assumptions/19.md). [02_structure_stream.md R42, R43] -/
def Obligations.SstVerdicts : Prop :=
  ∀ (s : State) (k reads : Nat), k < 4 → s.sst.running = some ⟨1, k, reads⟩ →
    let fields := F.sstslotStateState k :: F.sstslotStateCode k :: F.sstslotErrOffsetWord k :: F.sstslotSeqSeq k :: F.sstslotTargetMask k ::
      F.dmaNpTotalCount :: sstFields
    let ended (u : State) (code : Nat) (words : List Word) : Prop :=
      u.get F.sstStatusLastCode = code ∧ u.get F.sstStatusBusy = 0 ∧ u.get F.dmaNpTotalCount = s.get F.dmaNpTotalCount - reads ∧
        u.sst = { s.sst with running := none, slots := updAt s.sst.slots k fun _ => words }
    (∀ words, s.loadVerdict (s.get (F.sstslotLenBytes k)) words = none →
      Yields (.sstFetchComplete true words) s [240] fields [.sst] fun u =>
        u.slotSt k = 2 ∧ u.get (F.sstslotStateCode k) = 0 ∧ u.get (F.sstslotErrOffsetWord k) = 0 ∧
        u.get (F.sstslotSeqSeq k) = pw words 4 ∧ u.get (F.sstslotTargetMask k) = pw words 3 % 16 ∧ ended u 0 words) ∧
    (∀ words code off, s.loadVerdict (s.get (F.sstslotLenBytes k)) words = some (code, off) → code ≠ 0 → code < 0x1000 → off < 0x10000 →
      Yields (.sstFetchComplete true words) s [241] fields [.sst] fun u =>
        u.slotSt k = 3 ∧ u.get (F.sstslotStateCode k) = code ∧ u.get (F.sstslotErrOffsetWord k) = off ∧ ended u code words) ∧
    (∀ words, Yields (.sstFetchComplete false words) s [241] fields [.sst] fun u =>
        u.slotSt k = 3 ∧ u.get (F.sstslotStateCode k) = 0x126 ∧ ended u 0x126 [])

/-- STORE_BOOT of a VALID or ACTIVE slot of at most 64 KiB, the store free, begins a store of its words as record 0 and stays BUSY; CLEAR_BOOT with no
store under way begins the clearing; an APPLY of a VALID slot, with none pending, that passes every check of acceptance is accepted: the command ends
with 0x000, and the slot is ACTIVE at once when no targeted output runs, PENDING while one does. The model's choice: that a clearing blanks both
copies (DESIGN CHOICE, notes/assumptions/28.md), and the order of judgement of an APPLY (DEDUCED, notes/assumptions/17.md). [02_structure_stream.md
R41, R45, R46, R50; 18_power_clocks_reset.md R404, R406] -/
def Obligations.SstStoreAndApply : Prop :=
  ∀ (s : State) (w : Writer) (slot : Fin 4), s.accepts w R.sstCmd = true → s.get F.sstStatusBusy = 0 →
    ((s.slotSt slot = 2 ∨ s.slotSt slot = 5) → 4 * (s.sst.slots.getD slot []).length ≤ 65536 → s.storeFree 0 →
      Yields (.storeBoot w slot) s [] (sstFields ++ storeFields 0) [.sst, .cal] fun u =>
        StoreBegins ⟨0, false, bytesOfWords (s.sst.slots.getD slot []), [], [], 0, .sst⟩ s u ∧
        u.get F.sstStatusBusy = 1 ∧ u.get F.sstStatusLastOp = 4 ∧ u.get F.sstStatusLastSlot = slot ∧
        u.sst = { s.sst with running := some ⟨4, slot, 0⟩ }) ∧
    (s.cal.jobs = [] →
      Yields (.clearBoot w slot) s [] (sstFields ++ storeFields 0) [.sst, .cal] fun u =>
        StoreBegins ⟨0, true, [], [], [], 0, .sst⟩ s u ∧
        u.get F.sstStatusBusy = 1 ∧ u.get F.sstStatusLastOp = 5 ∧ u.get F.sstStatusLastSlot = slot ∧
        u.sst = { s.sst with running := some ⟨5, slot, 0⟩ }) ∧
    (∀ hold copyCycle, s.slotSt slot = 2 → s.applyPending = false →
      let ws := s.sst.slots.getD slot []
      (s.sstNoted 2 slot hold).applyVerdict ws = none →
      ∃ u, exec (.sstApply w slot hold copyCycle) s = .next u ∧ u = (s.sstNoted 2 slot hold).acceptApply slot hold copyCycle ∧
        u.get F.sstStatusBusy = 0 ∧ u.get F.sstStatusLastCode = 0 ∧ u.get F.sstStatusLastOp = 2 ∧ u.get F.sstStatusLastSlot = slot ∧
        u.sst.running = none ∧ u.sst.applyHold = hold ∧
        ((∀ n < 4, pw ws 3 / 2 ^ n % 2 = 1 → s.running n = false) →
          u.slotSt slot = 5 ∧ u.get F.sstActiveSlot = slot ∧ u.get F.sstPendingPending = 0) ∧
        ((∃ n < 4, pw ws 3 / 2 ^ n % 2 = 1 ∧ s.running n = true) →
          u.slotSt slot = 4 ∧ u.get F.sstPendingSlot = slot ∧ u.get F.sstPendingPending = 1))

/-- With a ring of several slots and no regions queued, READY of a slot that is not the current one sets its bit, READY of the current one has no
effect, and WITHDRAW clears the bit; with regions queued, or with SLOT_COUNT 1 in chase mode or not (the model's choice, notes/assumptions/88.md), both
have no effect. The read of a line group that is due hands the route the group's lines: lines of zero of the picture's size while no source group
has landed (the model's choice, notes/assumptions/41.md); in chase mode with a source line not complete, the group sent last again, with CHASE_SLIP
and the counter up by one; with its runs readable and not held at the gate, its own lines; with its data late, barred (a violation of the engine's) or
uncorrectable, or with its route stalled, the group sent last again with the underrun told and counted. The group sent last is repeated row for row, a
row of it that has the picture's width as it is, free components where it has another, rows of zero where none was sent before (the model's choice, notes/assumptions/42.md). A group held at
the gate waits. The accesses meet what the ports of the Hold hold for them (notes/assumptions/106.md). [00_scope.md R12;
03_ingest_and_frame_slots.md R58, R61, R63, R64, R65, R66; 08_scan_out_and_slack.md R169; 11_the_hold.md R234, R240; 16_host_interface.md R367] -/
def Obligations.FrameSlotsAndLineGroups : Prop :=
  (∀ (s : State) (w : Writer) (n k : Fin 4), s.accepts w (R.scnSlotCtrl n k) = true →
    (s.get (F.scnRgnStatusDepth n) = 0 → s.act (F.scnSlotCfgSlotCount n) ≠ 1 →
      (s.curSlot n ≠ k →
        Yields (.slotReady w n k) s [] [F.scnSlotCtrlReady n k] [] fun u => u.get (F.scnSlotCtrlReady n k) = 1) ∧
      (s.curSlot n = k → exec (.slotReady w n k) s = .next s) ∧
      Yields (.slotWithdraw w n k) s [] [F.scnSlotCtrlReady n k] [] fun u => u.get (F.scnSlotCtrlReady n k) = 0) ∧
    (s.get (F.scnRgnStatusDepth n) ≠ 0 ∨ s.act (F.scnSlotCfgSlotCount n) = 1 →
      exec (.slotReady w n k) s = .next s ∧ exec (.slotWithdraw w n k) s = .next s)) ∧
  (∀ (s : State) (n : Fin 4) (late : Bool) (port : HoldPort),
    let c := Instr.lineGroupRead n late port
    let g := (s.outp n).pix.groups
    let t := s.openPort (s.routeActs n) port
    let runs := t.groupRuns n g ++ t.neighbourRuns n g
    let m := scanMaster n
    let again (u x : State) : Prop :=
      let f := u.pictureFormat n
      let last := (u.outp n).pix.lastGroup
      let lines := min 16 (f.height - 16 * g)
      let rows := if last.isEmpty then List.replicate lines (zeroRow f.width)
        else (List.range lines).map fun i => fitRow f.width (u.freeCount + 3 * f.width * i) (last.getD i ⟨[], [], []⟩)
      x = ({ u with freeCount := u.freeCount + 3 * f.width * lines } : State).takeGroup n rows ∧
        ∀ (i : Nat) (r : Row), i < lines → last[i]? = some r → r.c0.length = f.width → r.c1.length = f.width → r.c2.length = f.width →
          rows[i]? = some r
    let counted (f : Field) (ev : Nat) (u v : State) : Prop :=
      ∃ w, v = w.raise (evOut n ev) ∧ Frame [f] [] u w ∧ w.get f = min (fieldMax f) (u.get f + 1)
    let answers (x : State) : Prop := exec c s = .next x.closePort
    let underrun (u : State) : Prop := ∃ v x, counted (F.scnUnderrunsCount n) 8 u v ∧ again v x ∧ answers x
    (s.groupDue n = false → exec c s = .next s) ∧
    (s.groupDue n = true → (s.outp n).srcLanded = false →
      answers (t.takeGroup n (List.replicate (min 16 (s.vActive n - 16 * g)) (zeroRow (s.hActive n))))) ∧
    (s.groupDue n = true → (s.outp n).srcLanded = true → (s.outp n).stall ≠ 0 → underrun t) ∧
    (s.groupDue n = true → (s.outp n).srcLanded = true → (s.outp n).stall = 0 →
      (s.chaseOn n = true → s.chaseMet n g = false → ∃ v x, counted (F.scnChaseSlipsCount n) 16 t v ∧ again v x ∧ answers x) ∧
      (s.chaseOn n = false ∨ s.chaseMet n g = true →
        (t.runsHeld m (runs.map (·.2)) = true → (late = false → answers t) ∧ (late = true → underrun t)) ∧
        (t.runsHeld m (runs.map (·.2)) = false →
          (∀ x, runs.findSome? (fun r => t.firstBarred m r.2.1 r.2.2 false) = some x → underrun (t.violate m (t.barCode m x false) x false)) ∧
          (runs.findSome? (fun r => t.firstBarred m r.2.1 r.2.2 false) = none →
            let r := t.readRuns m (runs.map (·.2))
            let f := srcFormat r.1.act n
            ((∃ q ∈ runs, r.1.runFault q.2.1 q.2.2 ≠ none) → underrun (runs.foldl (fun u q => u.noteRun q.2.1 q.2.2) r.1)) ∧
            ((∀ q ∈ runs, r.1.runFault q.2.1 q.2.2 = none) →
              (late = true → underrun r.1) ∧
              (late = false → ∃ u x, x = u.takeGroup n ((List.range (min 16 (f.height - 16 * g))).map fun i => (readView r).unpkLine n (16 * g + i)) ∧
                Frame [] [.output n] r.1 u ∧ (t.reachesHeld x n = false → answers x) ∧ (t.reachesHeld x n = true → answers t))) ∧
            (port.others = [] → port.corrected = [] → port.lost = [] → r = (t, [])))))))

/-- A PUSH that passes takes the next tag, queues the region and raises the depth; one that fails notes its result; PUSH with FLUSH first flushes; FLUSH
empties the queue. The end of the seeding copies the whole picture and sets SYNCED, of a copy moves the region's pixels and notes its tag, of a merge
copies every region of the batch, notes the last tag and raises the merge event. The model's choice: the engine's rights to staging (DEDUCED,
notes/assumptions/43.md), a staging register never written (DEDUCED, notes/assumptions/44.md), and that an end of a copy that is not under way is
nothing (DESIGN CHOICE, notes/assumptions/2.md). [08_scan_out_and_slack.md R179, R180, R181, R182] -/
def Obligations.RegionUpdates : Prop :=
  ∀ (s : State) (n : Fin 4),
    (∀ w, s.accepts w (R.scnRgnCmd n) = true → s.pushResult n = 0 →
      ∃ u, exec (.rgnPush w n false) s = .next (u.regionGo n) ∧
        Frame [F.scnRgnResultResult n, F.scnRgnStatusLastTag n, F.scnRgnStatusDepth n] [.output n] s u ∧
        u.get (F.scnRgnResultResult n) = 0 ∧ u.get (F.scnRgnStatusLastTag n) = (s.get (F.scnRgnStatusLastTag n) + 1) % 256 ∧
        u.get (F.scnRgnStatusDepth n) = s.get (F.scnRgnStatusDepth n) + 1 ∧
        ∀ o, s.outs[n.val]? = some o → ∃ o', u.outs[n.val]? = some o' ∧
          o'.region.queue = o.region.queue ++ [s.regionAsked n ((s.get (F.scnRgnStatusLastTag n) + 1) % 256)] ∧
          o'.region.copying = o.region.copying) ∧
    (∀ w, s.accepts w (R.scnRgnCmd n) = true → s.pushResult n ≠ 0 → s.pushResult n < 8 →
      Yields (.rgnPush w n false) s (if s.pushResult n = 2 then [evOut n 10] else []) [F.scnRgnResultResult n] [] fun u =>
        u.get (F.scnRgnResultResult n) = s.pushResult n) ∧
    (∀ w, s.accepts w (R.scnRgnCmd n) = true →
      exec (.rgnPush w n true) s = .next ((s.regionFlush n).regionPush n) ∧
      Yields (.rgnFlush w n) s [] [F.scnRgnStatusDepth n] [.output n] fun u =>
        u.get (F.scnRgnStatusDepth n) = (s.get (F.scnRgnStatusDepth n) - (s.outp n).region.queue.length) ∧
        ∀ o, s.outs[n.val]? = some o → ∃ o', u.outs[n.val]? = some o' ∧ o'.region = { o.region with queue := [] }) ∧
    (∀ port : HoldPort, s.frozen (scanMaster n) = false →
      let slotOf := fun k (r : Region) (f : SrcFormat) (p : Nat) => s.slotRuns n k r f p
      let v := s.openPort (· == scanMaster n) port
      ((s.outp n).region.seeding = true →
        s.copyHeld n [wholeRegion (srcFormat s.act n)] (slotOf (s.curSlot n)) (s.backSlot n) = true → exec (.regionSeedDone n port) s = .next s) ∧
      ((s.outp n).region.seeding = true →
        s.copyHeld n [wholeRegion (srcFormat s.act n)] (slotOf (s.curSlot n)) (s.backSlot n) = false →
        (v.copySlots n (v.curSlot n) (v.backSlot n) (wholeRegion (srcFormat v.act n))).frozen (scanMaster n) = false →
        ∃ u, exec (.regionSeedDone n port) s = .next (u.regionGo n).closePort ∧
          Frame [F.scnRgnStatusSynced n] [.output n]
            (v.copySlots n (v.curSlot n) (v.backSlot n) (wholeRegion (srcFormat v.act n))) u ∧
          u.get (F.scnRgnStatusSynced n) = 1) ∧
      (∀ e, (s.outp n).region.copying = some e →
        s.copyHeld n [e] (fun r f p => r.stageRuns f p) (s.backSlot n) = true → exec (.regionCopyDone n port) s = .next s) ∧
      (∀ e, (s.outp n).region.copying = some e →
        s.copyHeld n [e] (fun r f p => r.stageRuns f p) (s.backSlot n) = false → (v.copyStage n (v.backSlot n) e).frozen (scanMaster n) = false →
        ∃ u, exec (.regionCopyDone n port) s = .next (u.regionGo n).closePort ∧
          Frame [F.scnRgnStatusCopiedTag n] [.output n] (v.copyStage n (v.backSlot n) e) u ∧
          u.get (F.scnRgnStatusCopiedTag n) = e.tag % 256) ∧
      (∀ e batch, (s.outp n).region.merging = batch ++ [e] →
        s.copyHeld n (batch ++ [e]) (slotOf (s.curSlot n)) (s.backSlot n) = true → exec (.regionMergeDone n port) s = .next s) ∧
      (∀ e batch, (s.outp n).region.merging = batch ++ [e] →
        s.copyHeld n (batch ++ [e]) (slotOf (s.curSlot n)) (s.backSlot n) = false →
        ((batch ++ [e]).foldl (fun t r => t.copySlots n (v.curSlot n) (v.backSlot n) r) v).frozen (scanMaster n) = false →
        ∃ u, exec (.regionMergeDone n port) s = .next ((u.regionGo n).raise (evOut n 9)).closePort ∧
          Frame [F.scnRgnStatusMergedTag n, F.scnRgnStatusDepth n] [.output n]
            ((batch ++ [e]).foldl (fun t r => t.copySlots n (v.curSlot n) (v.backSlot n) r) v) u ∧
          u.get (F.scnRgnStatusMergedTag n) = e.tag % 256))

/-- A write of a table data register at an index beyond the table moves the index alone; into the active bank it is refused with its event and the index
moves; into the other bank it stores the entry and changes no other entry. A read returns the entry, or 0 beyond the table; the index moves. A write
of ODRV_PANEL_TEMP is stored, and taken as the temperature in use, no longer stale, when TEMP_SRC selects the host. The expiry of the temperature
timer of an ODRV stage with a timeout sets STALE and raises its event, but for a temperature that comes in the very clock. The model's choice: a write
beyond the table while BANK is the active bank raises no event (DESIGN CHOICE, notes/assumptions/89.md), a temperature of the source not selected is
not taken (DESIGN CHOICE, notes/assumptions/110.md). [04_colour_scaling_dual_cell.md R77, R78; 06_overdrive_and_dither.md R133, R134;
01_lararn_in_the_system.md R19] -/
def Obligations.TablesAndPanelTemperature : Prop :=
  (∀ (s : State) (w : Writer) (addr : BitVec 26) (n type : Nat), n < 4 → s.tableAt addr.toNat = some (n, type) →
    let table := s.get (tblTableF n type)
    let bank := s.get (tblBankF n type)
    let idx := s.get (tblIndexF n type)
    (∀ data : Word, s.accepts w addr.toNat = true →
      (tableSize type table ≤ idx →
        Yields (.tableDataWrite w addr data) s [] [tblIndexF n type] [] fun u =>
          u.get (tblIndexF n type) = (idx + 1) % 2 ^ 18) ∧
      (idx < tableSize type table → bank = s.activeBank n type →
        exec (.tableDataWrite w addr data) s = .next ((s.raise (evOut n 22)).nextIndex n type)) ∧
      (idx < tableSize type table → bank ≠ s.activeBank n type →
        Yields (.tableDataWrite w addr data) s [] [tblIndexF n type] [.tables] fun u =>
          u.get (tblIndexF n type) = (idx + 1) % 2 ^ 18 ∧ u.tbl n type table bank idx = data.toNat % 2 ^ tableBits type ∧
          ∀ n' type' table' bank' idx', tableKey n' type' table' bank' idx' ≠ tableKey n type table bank idx →
            u.tbl n' type' table' bank' idx' = s.tbl n' type' table' bank' idx')) ∧
    (s.answers w = true → s.readAllowed w addr.toNat = true →
      Yields (.tableDataRead w addr) s [] [tblIndexF n type] [.out] fun u =>
        u.get (tblIndexF n type) = (idx + 1) % 2 ^ 18 ∧
        u.out = .completion (BitVec.ofNat 32 (if tableSize type table ≤ idx then 0 else s.tbl n type table bank idx)) :: s.out)) ∧
  ((∀ (s : State) (w : Writer) (n : Fin 4) (addr : BitVec 26) (data : BitVec 16), s.accepts w addr.toNat = true →
    s.keyOf addr.toNat = some (R.odrvPanelTemp n) →
    (s.act (F.odrvCtrlTempSrc n) = 0 →
      Yields (.odrvPanelTempWrite w addr data) s [] [F.odrvPanelTempTemp n, F.odrvTempUsedStale n] [.output n] fun u =>
        u.get (F.odrvPanelTempTemp n) = data.toNat ∧ u.get (F.odrvTempUsedStale n) = 0 ∧
        ∀ o, s.outs[n.val]? = some o → u.outs[n.val]? = some { o with odrv := { o.odrv with temp := data.toNat } }) ∧
    (s.act (F.odrvCtrlTempSrc n) ≠ 0 →
      Yields (.odrvPanelTempWrite w addr data) s [] [F.odrvPanelTempTemp n] [] fun u =>
        u.get (F.odrvPanelTempTemp n) = data.toNat)) ∧
  (∀ (s : State) (n : Fin 4), (s.cfg n).has 7 = true → s.get (F.odrvTempTimeoutMs n) ≠ 0 → s.get (F.odrvTempUsedStale n) = 0 →
    Yields (.temperatureTimerExpiry n false) s [evOut n 12] [F.odrvTempUsedStale n] [] fun u => u.get (F.odrvTempUsedStale n) = 1) ∧
  (∀ (s : State) (n : Fin 4), exec (.temperatureTimerExpiry n true) s = .next s))

/-- A write of a map address shadow abandons a check and clears VALID (landing at once on an idle output). A write of UNIF_CHECK starts the check if the
address has been written. The check's end gives CAUSE and VALID. BASE_LOCK locks the checked, landed, unchanged base map with its banks, and does
nothing otherwise. The hash's end sets STATE 3 without a stored digest, 2 when it agrees, 4 with its event when it does not. The ends answer nothing
while no check or hash runs. The model's choice: a check that starts clears VALID at once (DESIGN CHOICE, notes/assumptions/90.md), an address never
written starts none (DEDUCED, notes/assumptions/52.md), a lock is asked for only while STATE is 0 (DEDUCED, notes/assumptions/51.md), and an end
without its check or hash is nothing (DESIGN CHOICE, notes/assumptions/2.md). [05_uniformity_and_wear.md R108, R112, R113] -/
def Obligations.MapChecksAndBaseLock : Prop :=
  ∀ (s : State) (n : Fin 4),
    (∀ (w : Writer) (addr : BitVec 26), s.accepts w addr.toNat = true →
      (∀ (data : Word) (field : Bool), s.keyOf addr.toNat = some (mapAddrF n field).addr →
        ∃ u, exec (.unifAddressWrite w addr data) s = .next (u.idleLand n) ∧
          Frame [whole (mapAddrF n field).addr, mapValidF n field, mapBusyF n field] [.written] s u ∧
          u.get (mapAddrF n field) = fieldOf (mapAddrF n field) data ∧ u.written = keyInsert s.written (mapAddrF n field).addr ∧
          u.get (mapValidF n field) = 0 ∧ u.get (mapBusyF n field) = 0 ∧ (s.running n = true → u.idleLand n = u)) ∧
      (s.keyOf addr.toNat = some (R.unifCheck n) →
        (Yields (.unifCheckBase w addr) s [] [F.unifBaseStatusValid n, F.unifBaseStatusBusy n] [] fun u =>
          u.get (F.unifBaseStatusValid n) = 0 ∧ u.get (F.unifBaseStatusBusy n) = (s.isWritten (R.unifBaseAddr n)).toNat) ∧
        (Yields (.unifCheckField w addr) s [] [F.unifFieldStatusValid n, F.unifFieldStatusBusy n] [] fun u =>
          u.get (F.unifFieldStatusValid n) = 0 ∧ u.get (F.unifFieldStatusBusy n) = (s.isWritten (R.unifFieldAddr n)).toNat)) ∧
      (s.keyOf addr.toNat = some (R.unifBaseLock n) →
        (s.get (F.unifBaseLockState n) = 0 → s.get (F.unifBaseStatusValid n) = 1 → s.hasLanded (R.unifBaseAddr n) = true →
          s.act (F.unifBaseAddrAddr n) = s.get (F.unifBaseAddrAddr n) →
          let a := 32 * s.act (F.unifBaseAddrAddr n)
          let first := bankOf a
          ∃ u, exec (.baseLock w addr) s = .next (u.setLocked first (bankOf (a + (s.mapHead a).total - 1) - first + 1) true) ∧
            Frame [F.unifBaseLockState n, F.unifBaseLockLock n, F.unifLockRangeFirstBank n, F.unifLockRangeBankCount n] [] s u ∧
            u.get (F.unifBaseLockState n) = 1) ∧
        (¬(s.get (F.unifBaseLockState n) = 0 ∧ s.get (F.unifBaseStatusValid n) = 1 ∧ s.hasLanded (R.unifBaseAddr n) = true ∧
          s.act (F.unifBaseAddrAddr n) = s.get (F.unifBaseAddrAddr n)) → exec (.baseLock w addr) s = .next s))) ∧
    (∀ field, s.get (mapBusyF n field) ≠ 1 → exec (.unifCheckComplete n field) s = .next s) ∧
    (s.get (F.unifBaseLockState n) ≠ 1 → exec (.baseMapHashDone n) s = .next s) ∧
    (∀ field, s.get (mapBusyF n field) = 1 →
      Yields (.unifCheckComplete n field) s [] [mapBusyF n field, mapCauseF n field, mapValidF n field] [.output n] fun u =>
        u.get (mapBusyF n field) = 0 ∧ u.get (mapCauseF n field) = s.mapCause n field ∧
        (u.get (mapValidF n field) = 1 ↔ s.mapCause n field = 0) ∧
        ∀ o, s.outs[n.val]? = some o → u.outs[n.val]? = some (
          let h := s.mapHead (32 * s.get (mapAddrF n field))
          if field then { o with field := { o.field with checked := (h.width, h.height) } }
          else { o with base := { o.base with checked := (h.width, h.height) } })) ∧
    (s.get (F.unifBaseLockState n) = 1 →
      let a := 32 * s.act (F.unifBaseAddrAddr n)
      let same := s.baseDigest n = some (sha256 (s.holdBytes a (s.mapHead a).total))
      Yields (.baseMapHashDone n) s (if s.baseDigest n ≠ none ∧ ¬ same then [evOut n 27] else [])
        [F.unifBaseLockState n, F.unifBaseStatusApplied n] [] fun u =>
        u.get (F.unifBaseLockState n) = (if s.baseDigest n = none then 3 else if same then 2 else 4) ∧
        u.get (F.unifBaseStatusApplied n) = (u.mapApplies n false).toNat)

/-- A row of a frame that is sampled, its old ledger row read: the sums are written to the host through the stage's channel in requests of PF0's or the
function's size, saturated additions counted, its flush read then to be issued; a row whose read completes in the very clock waits for its bytes;
without the old row the row is skipped, owed or lost, its read given up and its late data discarded (the model's choice, notes/assumptions/54.md); a
row of a stalled route is owed or lost. An answer, in the order of the requests (the model's choice, notes/assumptions/50.md), takes its bytes, and
the last one makes the row ready when it is still due, samples a row begun in its clock, or gives the generator its row; a bad answer is a ledger
error. The end of a write frees the row, is a ledger error, or lets a reread that waited go out. A poisoned answer is logged in AER (PRESUMED,
notes/assumptions/86.md). That an answer to no request is nothing is the model's choice too (DESIGN CHOICE, notes/assumptions/2.md).
[01_lararn_in_the_system.md R19; 05_uniformity_and_wear.md R118, R119, R120, R121, R122, R125; 12_dma.md R265, R274, R277; 16_host_interface.md R373] -/
def Obligations.WearLedgerRows : Prop :=
  ∀ (s : State) (n : Fin 4) (o : OutState), s.outs[n.val]? = some o →
    let ch := s.wearCh n
    let fn := s.chanFn ch
    (∀ row met, row ∈ o.wear.rowsLeft → row < o.pix.drive.length →
      let c := Instr.wearRowStart n row met
      let reads := fun (r : LedgerRead) => r.row == row && !r.gen
      let owes (u : State) : Prop :=
        u.get (F.wearLedgerLostCount n) = (if row ∈ o.wear.owed then min (fieldMax (F.wearLedgerLostCount n)) (s.get (F.wearLedgerLostCount n) + 1)
            else s.get (F.wearLedgerLostCount n)) ∧
        u.outs[n.val]? = some { o with wear := { o.wear with
            reading := o.wear.reading.filter (fun r => !reads r), rowsLeft := o.wear.rowsLeft.filter (· != row),
            wanted := o.wear.wanted.filter (· != row), begun := o.wear.begun.filter (· != row),
            ready := o.wear.ready.filter (·.1 != row),
            owed := if row ∈ o.wear.owed then o.wear.owed else keyInsert o.wear.owed row } }
      (o.stall < 6 → ∀ old, o.wear.ready.find? (·.1 == row) = some (row, old) →
        let r := s.ledgerAdd n old (o.pix.drive.getD row (zeroRow 0)) (o.wear.owed.contains row)
        let a := s.ledgerRow n row
        State.Issues s ch a r.1.length →
        ∃ u, exec c s = .next ((u.ledgerRun 4096 n).showLedger n) ∧
          Frame [F.wearLedgerSatsCount n] [.output n, .host, .out] s u ∧
          u.get (F.wearLedgerSatsCount n) = min (fieldMax (F.wearLedgerSatsCount n)) (s.get (F.wearLedgerSatsCount n) + r.2) ∧
          u.out = ((linkPieces (s.writeMost fn) r.1.length a r.1.length).map fun p =>
            Out.hostWrite fn p.1 ((r.1.drop (p.1 - a)).take p.2)).reverse ++ (s.sendLtr 20000).out ∧
          u.outs[n.val]? = some { o with wear := { o.wear with
            owed := o.wear.owed.filter (· != row), ready := o.wear.ready.filter (·.1 != row),
            rowsLeft := o.wear.rowsLeft.filter (· != row), begun := o.wear.begun.filter (· != row),
            writing := o.wear.writing ++ [(row, false)] } }) ∧
      (o.stall < 6 → o.wear.ready.find? (·.1 == row) = none →
        (met = true → (∃ r ∈ o.wear.reading, reads r = true) →
          Yields c s [] [] [.output n] fun u =>
            u.outs[n.val]? = some { o with wear := { o.wear with begun := keyInsert o.wear.begun row } }) ∧
        (met = false ∨ (∀ r ∈ o.wear.reading, reads r = false) →
          ∃ u, exec c s = .next ((u.raise (evOut n 29)).showLedger n) ∧
            Frame [F.wearLedgerSkipsCount n, F.wearLedgerLostCount n] [.output n, .channel ch] s u ∧ owes u ∧
            u.get (F.wearLedgerSkipsCount n) = min (fieldMax (F.wearLedgerSkipsCount n)) (s.get (F.wearLedgerSkipsCount n) + 1))) ∧
      (6 ≤ o.stall → ∃ u, exec c s = .next (u.showLedger n) ∧ Frame [F.wearLedgerLostCount n] [.output n, .channel ch] s u ∧ owes u)) ∧
    (∀ row gen data reply r, o.wear.reading.find? (fun q => q.row == row && q.gen == gen) = some r → 0 < r.out →
      let c := Instr.wearLedgerReadDone n row gen data reply
      let size := s.ledgerBytes n
      let a := s.ledgerRow n row + r.got.length
      let asked := ((linkPieces (s.readMost fn) size a (size - r.got.length)).headD (a, 0)).2
      let got := r.got ++ data
      let others := o.wear.reading.filter fun q => !(q.row == row && q.gen == gen)
      (replyCode false reply = 0 → data.length = asked → ∃ u, s.answered ch [.output n] u ∧
        (got.length < size →
          u.outs[n.val]? = some { o with wear := { o.wear with reading := o.wear.reading.map fun q =>
            if q.row = row ∧ q.gen = gen then { q with out := q.out - 1, got := q.got ++ data } else q } } ∧
          exec c s = .next (((if gen = false ∧ row ∈ o.wear.begun then u.skipRow n row else u).showLedger n).dmaGo s)) ∧
        (size ≤ got.length → gen = false →
          u.outs[n.val]? = some { o with wear := { o.wear with
            reading := others, ready := if row ∈ o.wear.rowsLeft then o.wear.ready ++ [(row, got)] else o.wear.ready } } ∧
          exec c s = .next (((if row ∈ o.wear.begun then u.sampleRow n row got else u).showLedger n).dmaGo s)) ∧
        (size ≤ got.length → gen = true →
          u.outs[n.val]? = some { o with wear := { o.wear with
            reading := others, genRows := o.wear.genRows.filter (·.1 != row) ++ [(row, got)] } } ∧
          exec c s = .next (((u.genReady n).showLedger n).dmaGo s))) ∧
      (replyCode false reply ≠ 0 ∨ data.length ≠ asked →
        let code := if replyCode false reply = 0 then 0x310 else replyCode false reply
        ∃ v u, s.answered ch [] v ∧ Frame [] [.output n, .channel ch] (v.aerReply fn reply) u ∧
          u.outs[n.val]? = some { o with wear := { o.wear with reading := others } } ∧
          exec c s = .next (((u.ledgerError n a code false).showLedger n).dmaGo s))) ∧
    (∀ row reply, (row, true) ∈ o.wear.writing →
      let c := Instr.wearLedgerWriteDone n row reply
      let left := o.wear.writing.erase (row, true)
      (replyCode false reply ≠ 0 →
        ∃ v u, s.answered ch [] v ∧ Frame [] [.output n] (v.aerReply fn reply) u ∧
          u.outs[n.val]? = some { o with wear := { o.wear with writing := left } } ∧
          exec c s = .next (((u.ledgerError n ((s.ledgerRow n row + s.ledgerBytes n - 1) / 4 * 4) (replyCode false reply) true).showLedger n).dmaGo s)) ∧
      (replyCode false reply = 0 → row ∉ o.wear.wanted →
        ∃ u, exec c s = .next ((u.showLedger n).dmaGo s) ∧
          s.answered ch [.output n] u ∧ u.outs[n.val]? = some { o with wear := { o.wear with writing := left } }) ∧
      (replyCode false reply = 0 → row ∈ o.wear.wanted →
        ∃ u, exec c s = .next (((u.askLedger n row).showLedger n).dmaGo s) ∧
          s.answered ch [.output n] u ∧
          u.outs[n.val]? = some { o with wear := { o.wear with writing := left, wanted := o.wear.wanted.filter (· != row) } })) ∧
    (∀ row gen data reply, (∀ r, o.wear.reading.find? (fun q => q.row == row && q.gen == gen) = some r → r.out = 0) →
      exec (.wearLedgerReadDone n row gen data reply) s = .next s) ∧
    (∀ row reply, (row, true) ∉ o.wear.writing → exec (.wearLedgerWriteDone n row reply) s = .next s)

/-- START in IDLE or ERROR clears the counts and begins the job asked for, or, invalid, is an ERROR 0x1; RESUME in OUT_FULL takes the new output space and
goes on; ABORT of a job, also of one that a freeze holds, ends it with ERROR 0x6; a context save or restore begins when its address has been written
and fails with 0x1 otherwise; in any other state each is refused with ERR 0x7 and no other effect. The model's choice: how far an aborted job had come
is a free value (DESIGN CHOICE, notes/assumptions/55.md). [13_eddy_codec.md R281, R293, R294, R297] -/
def Obligations.EddyCommands : Prop :=
  ∀ (s : State) (w : Writer) (e : Fin 4) (x : EddyState), s.accepts w (R.eddyCmd e) = true → s.eddys[e.val]? = some x →
    let refused (c : Instr) : Prop := Yields c s [] [F.eddyStatusErr e] [] fun u => u.get (F.eddyStatusErr e) = 7
    let waits (k : Nat) : Option Nat := if s.on (F.eddyStatusInternal e) then some k else none
    (s.eddySt e = 0 ∨ s.eddySt e = 3 →
      (s.eddyInvalid e (s.eddyAsked e) = false →
        Yields (.eddyStart w e) s [] [F.eddyInDoneBytes e, F.eddyOutDoneBytes e, F.eddyBitsInBits e, F.eddyBitsOutBits e,
          F.eddyStatusState e, F.eddyStatusErr e, F.eddyStatusPending e, F.eddyStatusInternal e] [.engine e] fun u =>
          u.get (F.eddyInDoneBytes e) = 0 ∧ u.get (F.eddyOutDoneBytes e) = 0 ∧ u.get (F.eddyBitsInBits e) = 0 ∧
          u.get (F.eddyBitsOutBits e) = 0 ∧ u.get (F.eddyStatusState e) = 1 ∧ u.get (F.eddyStatusErr e) = 0 ∧
          u.get (F.eddyStatusPending e) = 0 ∧
          u.eddys[e.val]? = some { x with
            job := some { s.eddyAsked e with
              held := if !(s.eddyAsked e).pixel && !(s.eddyAsked e).decompress && (s.eddyAsked e).carry then x.ctx.held else [] }
            waits := waits 1 }) ∧
      (s.eddyInvalid e (s.eddyAsked e) = true →
        Yields (.eddyStart w e) s [evEddy e 2] [F.eddyInDoneBytes e, F.eddyOutDoneBytes e, F.eddyBitsInBits e, F.eddyBitsOutBits e,
          F.eddyStatusState e, F.eddyStatusErr e] [] fun u =>
          u.get (F.eddyInDoneBytes e) = 0 ∧ u.get (F.eddyOutDoneBytes e) = 0 ∧ u.get (F.eddyBitsInBits e) = 0 ∧
          u.get (F.eddyBitsOutBits e) = 0 ∧ u.get (F.eddyStatusState e) = 3 ∧ u.get (F.eddyStatusErr e) = 1)) ∧
    (s.eddySt e ≠ 0 → s.eddySt e ≠ 3 → refused (.eddyStart w e)) ∧
    (∀ j, s.eddySt e = 2 → x.job = some j →
      let j' := { j with outAddr := s.get (F.eddyOutAddrAddr e), outLen := s.get (F.eddyOutLenBytes e) }
      ∃ u, Frame [F.eddyStatusState e, F.eddyStatusErr e, F.eddyStatusInternal e] [.engine e] s u ∧
        u.get (F.eddyStatusState e) = 1 ∧ u.get (F.eddyStatusErr e) = 0 ∧
        u.eddys[e.val]? = some { x with job := some j', waits := waits 2 } ∧
        ((s.get (F.eddyStatusInternal e) = 1 ∨ s.frozen (eddyMaster e) = true) → exec (.eddyResume w e) s = .next u) ∧
        (s.get (F.eddyStatusInternal e) = 0 → s.frozen (eddyMaster e) = false →
          exec (.eddyResume w e) s = .next (match u.eddyOutcome e j' with
            | .full words out held n _ => if words = j.words then u.eddyFull e j' words out held n else u
            | _ => u))) ∧
    (s.eddySt e ≠ 2 → refused (.eddyResume w e)) ∧
    (s.eddySt e = 2 ∨ s.eddySt e = 1 ∧ s.eddyRuns e = none →
      Yields (.eddyAbort w e) s [evEddy e 2] [F.eddyStatusState e, F.eddyStatusErr e, F.eddyStatusPending e, F.eddyStatusCtxValid e,
        F.eddyStatusInternal e] [.engine e] fun u =>
        u.get (F.eddyStatusState e) = 3 ∧ u.get (F.eddyStatusErr e) = 6 ∧ u.get (F.eddyStatusPending e) = 0 ∧
        u.get (F.eddyStatusCtxValid e) = 0 ∧ u.eddys[e.val]? = some { x with job := none, waits := none, ctxCmd := none }) ∧
    (∀ j out, s.eddySt e = 1 → s.eddyRuns e = some j →
      ((∃ bits ctx raw, s.eddyOutcome e j = .done out bits ctx raw) ∨ (∃ words held n need, s.eddyOutcome e j = .full words out held n need) ∨
        (∃ code, s.eddyOutcome e j = .err code out)) →
      exec (.eddyAbort w e) s = .next ((s.eddyPartial e j out).eddyFail e 6)) ∧
    (s.eddySt e ≠ 1 → s.eddySt e ≠ 2 → refused (.eddyAbort w e)) ∧
    (s.eddySt e = 0 ∨ s.eddySt e = 2 ∨ s.eddySt e = 3 →
      (s.isWritten (R.eddyCtxAddr e) = true → ∀ op, op = 4 ∨ op = 5 →
        Yields (if op = 4 then .ctxSave w e else .ctxRestore w e) s [] [F.eddyStatusState e, F.eddyStatusInternal e] [.engine e] fun u =>
          u.get (F.eddyStatusState e) = 4 ∧ u.get (F.eddyStatusInternal e) = (!x.internal.isEmpty && x.waits.isSome).toNat ∧
          u.eddys[e.val]? = some { x with ctxCmd := some (op, s.eddySt e) }) ∧
      (s.isWritten (R.eddyCtxAddr e) = false →
        Yields (.ctxSave w e) s [] [F.eddyStatusErr e] [] (fun u => u.get (F.eddyStatusErr e) = 1) ∧
        Yields (.ctxRestore w e) s [] [F.eddyStatusErr e] [] fun u => u.get (F.eddyStatusErr e) = 1)) ∧
    (s.eddySt e = 1 ∨ s.eddySt e = 4 → refused (.ctxSave w e) ∧ refused (.ctxRestore w e))

/-- A running job, its master not frozen, its reads made: done, its output is in the Hold, the engine is IDLE with a valid context, nothing pending, the
byte and bit counts, JOBS up by one (saturating), the raw byte if there is one, and the done event; output exhausted, the engine is OUT_FULL with the
words and bits it holds kept and its event; an error keeps the output so far and fails the job with its code; a bus or Hold fault fails it with 0x2
and its address, a free part of its output written; a barred read is a violation of the engine's. A job whose last write is barred is held by the
freeze in place of its end. Where nothing meets its accesses at the ports, its reads return the Hold as it stands. A context save writes the context
record at its address and returns to the state before; a restore of a good record takes it, sets CTX_VALID and returns. Each frame is stated. The
model's choice: the compressor's parse, the layout of the state area and the free part of a failed job (DESIGN CHOICE, notes/assumptions/55.md), how
far a job has read its input and that a held access makes it wait (DESIGN CHOICE, notes/assumptions/100.md), and what the accesses meet comes with the
command (DESIGN CHOICE, notes/assumptions/97.md). [11_the_hold.md R234, R236; 13_eddy_codec.md R281, R285, R288, R289, R290, R292, R294, R297, R298] -/
def Obligations.EddyEnds : Prop :=
  ∀ (s : State) (e : Fin 4) (port : HoldPort),
    let s0 := s.openPort (· == eddyMaster e) port
    let quiet : Prop := port.others = [] ∧ port.corrected = [] ∧ port.lost = []
    (∀ j, s.eddyRuns e = some j →
      let q := s0.eddyRead e j
      let v := q.2
      (quiet → q = (s0.eddyOutcome e j, s0)) ∧
      (∀ out bits ctx raw, q.1 = .done out bits ctx raw →
        let t := v.storeAs (eddyMaster e) j.outAddr out
        (t.frozen (eddyMaster e) = true → exec (.eddyJobComplete e port) s = .next t.closePort) ∧
        (t.frozen (eddyMaster e) = false →
        ∃ u, exec (.eddyJobComplete e port) s = .next (u.raise (evEddy e 0)).closePort ∧
          Frame [F.eddyStatusState e, F.eddyStatusCtxValid e, F.eddyStatusPending e, F.eddyStatusRaw e, F.eddyStatusInternal e,
            F.eddyInDoneBytes e, F.eddyOutDoneBytes e, F.eddyBitsInBits e, F.eddyBitsOutBits e, F.eddyJobsCount e]
            [.engine e, .free] t u ∧
          u.get (F.eddyStatusState e) = 0 ∧ u.get (F.eddyStatusCtxValid e) = 1 ∧ u.get (F.eddyStatusPending e) = 0 ∧
          u.get (F.eddyInDoneBytes e) = j.inLen % 2 ^ 32 ∧
          u.get (F.eddyOutDoneBytes e) = (t.get (F.eddyOutDoneBytes e) + out.length) % 2 ^ 32 ∧
          u.get (F.eddyBitsInBits e) = 0 ∧ u.get (F.eddyBitsOutBits e) = bits % 8 ∧
          u.get (F.eddyJobsCount e) = min (fieldMax (F.eddyJobsCount e)) (t.get (F.eddyJobsCount e) + 1) ∧
          (∀ b, raw = some b → u.get (F.eddyStatusRaw e) = b.toNat) ∧
          ∀ x, t.eddys[e.val]? = some x → u.eddys[e.val]? = some { x with job := none, ctx := ctx })) ∧
      (∀ words out held n need, q.1 = .full words out held n need →
        let t := v.storeAs (eddyMaster e) j.outAddr out
        let used := j.usedBefore + n - j.heldIn (v.eddy e).ctx
        (t.frozen (eddyMaster e) = true → exec (.eddyOutputExhausted e port) s = .next t.closePort) ∧
        (t.frozen (eddyMaster e) = false →
        ∃ u, exec (.eddyOutputExhausted e port) s = .next (u.raise (evEddy e 1)).closePort ∧
          Frame [F.eddyStatusState e, F.eddyStatusPending e, F.eddyStatusInternal e, F.eddyInDoneBytes e, F.eddyOutDoneBytes e,
            F.eddyBitsInBits e, F.eddyBitsOutBits e] [.engine e] t u ∧
          u.get (F.eddyStatusState e) = 2 ∧ u.get (F.eddyStatusPending e) = 1 ∧
          u.get (F.eddyOutDoneBytes e) = (t.get (F.eddyOutDoneBytes e) + out.length) % 2 ^ 32 ∧
          u.get (F.eddyInDoneBytes e) = used / 8 % 2 ^ 32 ∧
          u.get (F.eddyBitsInBits e) = used % 8 ∧ u.get (F.eddyBitsOutBits e) = held.length % 8 ∧
          ∀ x, t.eddys[e.val]? = some x → u.eddys[e.val]? = some { x with job := some { j with words := words, held := held } })) ∧
      (∀ code out, q.1 = .err code out →
        let t := (v.storeAs (eddyMaster e) j.outAddr out).put (F.eddyOutDoneBytes e) (v.get (F.eddyOutDoneBytes e) + v.eddyRoom e j out.length)
        (t.frozen (eddyMaster e) = false → exec (.eddyJobError e none port) s = .next (t.eddyFail e code).closePort) ∧
        (t.frozen (eddyMaster e) = true → exec (.eddyJobError e none port) s = .next t.closePort)) ∧
      (∀ (a : BitVec 30) out, ((∃ bits ctx raw, q.1 = .done out bits ctx raw) ∨ (∃ words held n need, q.1 = .full words out held n need) ∨
          (∃ code, q.1 = .err code out)) →
        let t := (v.eddyPartial e j out).put (F.eddyFaultAddrAddr e) a.toNat
        (t.frozen (eddyMaster e) = false → exec (.eddyJobError e (some a) port) s = .next (t.eddyFail e 2).closePort) ∧
        (t.frozen (eddyMaster e) = true → exec (.eddyJobError e (some a) port) s = .next t.closePort)) ∧
      (∀ w out cut, q.1 = .fault w out →
        let t := ((v.noteUncorr w).eddyPartial e j out).put (F.eddyFaultAddrAddr e) w
        (t.frozen (eddyMaster e) = false → exec (.eddyJobError e cut port) s = .next (t.eddyFail e 2).closePort) ∧
        (t.frozen (eddyMaster e) = true → exec (.eddyJobError e cut port) s = .next t.closePort)) ∧
      (∀ x cut, q.1 = .barred x →
        let t := v.violate (eddyMaster e) (v.barCode (eddyMaster e) x false) x false
        exec (.eddyJobComplete e port) s = .next t.closePort ∧ exec (.eddyOutputExhausted e port) s = .next t.closePort ∧
        exec (.eddyJobError e cut port) s = .next t.closePort)) ∧
    (s.eddyRuns e = none → exec (.eddyJobComplete e port) s = .next s ∧ exec (.eddyOutputExhausted e port) s = .next s ∧
      ∀ cut, exec (.eddyJobError e cut port) s = .next s) ∧
    (s.frozen (eddyMaster e) = false → s.runHeld (eddyMaster e) (32 * s.get (F.eddyCtxAddrAddr e)) 98304 = false →
      let a := 32 * s0.get (F.eddyCtxAddrAddr e)
      (∀ st, (s.eddy e).ctxCmd = some (4, st) →
        let t := s0.storeAs (eddyMaster e) a
          (ctxBytes (s0.eddyPosition e) (s0.get (F.eddyInDoneBytes e)) (s0.get (F.eddyOutDoneBytes e))
            (256 * s0.get (F.eddyBitsOutBits e) + s0.get (F.eddyBitsInBits e)))
        t.frozen (eddyMaster e) = false →
        ∃ u, exec (.eddyCtxComplete e none port) s = .next (u.raise (evEddy e 3)).closePort ∧
          Frame [F.eddyStatusState e, F.eddyStatusInternal e] [.engine e] t u ∧ u.get (F.eddyStatusState e) = st % 8 ∧
          ∀ x, t.eddys[e.val]? = some x → u.eddys[e.val]? = some { x with ctxCmd := none }) ∧
      (∀ st c inDone outDone bits, quiet → (s.eddy e).ctxCmd = some (5, st) → st ≠ 2 →
        s0.firstBarred (eddyMaster e) a 98304 false = none →
        s0.runFault a 98304 = none →
        ctxOf (s0.holdBytes a 98304) = some (c, inDone, outDone, bits) →
        ∃ u, exec (.eddyCtxComplete e none port) s = .next (u.raise (evEddy e 3)).closePort ∧
          Frame [F.eddyStatusCtxValid e, F.eddyStatusState e, F.eddyStatusInternal e] [.engine e] s0 u ∧
          u.get (F.eddyStatusCtxValid e) = 1 ∧ u.get (F.eddyStatusState e) = st % 8 ∧
          ∀ x, s0.eddys[e.val]? = some x → u.eddys[e.val]? = some { x with ctx := c, ctxCmd := none }))

/-- When a group is due, the generator on, and its channel held and not stopped, the ledger rows of the group that are neither there nor on their way are
asked for; the channel then issues what its caps and its rate allow. Once all rows of the group are there the lifted rows become an internal job of
the engine, saturated entries are counted, and the next group follows. An internal job done, its accesses let through the gate, leaves the engine's
queue, raises JOBS by one, and its record is placed in the generated map; the pass ends after the last group. The model's choice: how the rows are
read (DEDUCED, notes/assumptions/50.md), the generated container's magic, version and index (DESIGN CHOICE, notes/assumptions/53.md), and that a
command without its group or job is nothing (DESIGN CHOICE, notes/assumptions/2.md). [05_uniformity_and_wear.md R120, R122, R123, R124, R125, R126;
12_dma.md R277; 13_eddy_codec.md R295] -/
def Obligations.WearGenerator : Prop :=
  (∀ (s : State) (n : Fin 4) (o : OutState), s.outs[n.val]? = some o →
    let g := s.get (F.wearGenStatusNextGroup n)
    let ch := s.wearCh n
    let missing := s.genMissing n g
    let on : Prop := (s.cfg n).has 6 = true ∧ s.actOn (F.wearCtrlGenEn n) = true ∧ s.wearReady n = true ∧ o.wear.base ≠ none ∧
      s.get (F.dmaStatusHeld ch) = 1 ∧ s.chanStopped ch = false ∧ s.get (F.wearStatusHalted n) ≠ 1 ∧ s.slackStops n = false
    (on → g < s.wearGroups n → missing = [] → exec (.wearGenGroup n) s = .next ((s.showLedger n).dmaGo s)) ∧
    (on → g < s.wearGroups n → missing ≠ [] →
      ∃ u, exec (.wearGenGroup n) s = .next (((u.sendLtr 20000).showLedger n).dmaGo s) ∧ Frame [] [.output n] s u ∧
        u.outs[n.val]? = some { o with wear := { o.wear with
          genRows := o.wear.genRows.filter fun p => p.1 / 16 == g && p.2.length == s.ledgerBytes n
          reading := o.wear.reading ++ missing.map fun y => ⟨y, true, 0, 0, []⟩ } }) ∧
    (¬on ∨ s.wearGroups n ≤ g → exec (.wearGenGroup n) s = .next s) ∧
    (o.wear.base ≠ none → o.wear.genRows ≠ [] → (∀ r ∈ o.wear.reading, r.gen = false) → missing = [] →
      let r := s.liftRows n ((List.range (s.groupLines n g)).map fun i => ((o.wear.genRows.find? (·.1 == 16 * g + i)).map (·.2)).getD [])
      let e := s.act (F.wearCtrlEddy n)
      let u := s.genReady n
      Frame [F.wearMapSatsCount n, F.wearGenStatusNextGroup n, F.eddyStatusInternal e] [.output n, .engine e] s u ∧
        u.get (F.wearMapSatsCount n) = min (fieldMax (F.wearMapSatsCount n)) (s.get (F.wearMapSatsCount n) + r.2) ∧
        u.get (F.wearGenStatusNextGroup n) = (g + 1) % max 1 (s.wearGroups n) % (fieldMax (F.wearGenStatusNextGroup n) + 1) ∧
        u.outs[n.val]? = some { o with wear := { o.wear with genRows := [] } } ∧
        ∀ x, s.eddys[e]? = some x → u.eddys[e]? = some { x with internal := x.internal ++ [⟨n, g, s.hActive n, r.1⟩] })) ∧
  (∀ (s : State) (e : Fin 4) (port : HoldPort) (x : EddyState) (j : EddyInternal) (rest : List EddyInternal), s.eddys[e.val]? = some x →
    x.internal = j :: rest → s.get (F.eddyStatusInternal e) = 1 → s.frozen (eddyMaster e) = false →
    let m := s.wearMaster j.output
    (∀ base, (s.wearOf j.output).base = some base → s.runHeld m base (32 * s.act (F.wearMapBytesBytes j.output)) = true →
      exec (.eddyInternalJobDone e port) s = .next s) ∧
    ∃ t, Frame [F.eddyJobsCount e, F.eddyStatusInternal e] [.engine e] s t ∧
      t.get (F.eddyJobsCount e) = min (fieldMax (F.eddyJobsCount e)) (s.get (F.eddyJobsCount e) + 1) ∧
      t.eddys[e.val]? = some { x with internal := rest, waits := none } ∧
      ∀ base, (s.wearOf j.output).base = some base → s.runHeld m base (32 * s.act (F.wearMapBytesBytes j.output)) = false →
        let u := ((t.openPort (· == m) port).placeRecord j.output base j).closePort
        (j.group + 1 ≠ u.wearGroups j.output → exec (.eddyInternalJobDone e port) s = .next u) ∧
        (j.group + 1 = u.wearGroups j.output → exec (.eddyInternalJobDone e port) s = .next (u.endPass j.output)))

/-- An accepted write of EN = 1: refused whole when the output may not be enabled; otherwise EN is 1, and a stopping output goes on, an idle one starts,
or waits when a restart, the power state or Start-up keeps it. EN = 0: an idle output stays idle; a running one stops at the end of its frame, at once
when it waits for its first edge. At the last line of its frame a stopping output stops; TG_STOPPED does nothing otherwise. The model's choice: that a
TG_STOPPED of no stopping output is nothing (DESIGN CHOICE, notes/assumptions/2.md), and which enables wait in a power transition (DEDUCED,
notes/assumptions/83.md). [07_timing_generators_and_landing.md R149, R150; 18_power_clocks_reset.md R393] -/
def Obligations.OutputStartStop : Prop :=
  ∀ (s : State) (n : Fin 4) (o : OutState), s.outs[n.val]? = some o →
    (∀ w, s.accepts w (R.tgCtrl n) = true →
      (s.mayEnable n = true →
        (s.running n = true →
          Yields (.tgEnable w n) s [] [F.tgCtrlEn n] [.output n] fun u =>
            u.get (F.tgCtrlEn n) = 1 ∧ u.outs[n.val]? = some { o with stopping := false }) ∧
        (s.running n = false → (o.restart = true ∨ s.power.fabricOff = true ∨ s.get F.glbStateState = 0) →
          Yields (.tgEnable w n) s [] [F.tgCtrlEn n] [] fun u => u.get (F.tgCtrlEn n) = 1) ∧
        (s.running n = false → o.restart = false → s.power.fabricOff = false → s.get F.glbStateState ≠ 0 →
          exec (.tgEnable w n) s = .next (s.startOut n))) ∧
      (s.mayEnable n = false → exec (.tgEnable w n) s = .next s) ∧
      (s.running n = false →
        Yields (.tgDisable w n) s [] [F.tgCtrlEn n] [.output n] fun u =>
          u.get (F.tgCtrlEn n) = 0 ∧ u.outs[n.val]? = some { o with restart := false }) ∧
      (s.running n = true → o.waiting = false →
        Yields (.tgDisable w n) s [] [F.tgCtrlEn n] [.output n] fun u =>
          u.get (F.tgCtrlEn n) = 0 ∧ u.outs[n.val]? = some { o with restart := false, stopping := true }) ∧
      (s.running n = true → o.waiting = true →
        ∃ u, exec (.tgDisable w n) s = .next (u.stopOut n) ∧ Frame [F.tgCtrlEn n] [.output n] s u ∧
          u.get (F.tgCtrlEn n) = 0 ∧ u.outs[n.val]? = some { o with restart := false })) ∧
    (s.running n = true → o.stopping = true → o.line = o.frameLines → o.cut = false →
      exec (.tgStopped n) s = .next (s.stopOut n)) ∧
    ((s.running n = false ∨ o.stopping = false ∨ o.line ≠ o.frameLines) → exec (.tgStopped n) s = .next s)

/-- On a running output LAND.GO sets GO, and a late one counts and raises the late event; on an idle output GO has no effect; CANCEL clears GO. In a
visible frame whose Landing has not happened, at its Landing line, the Landing point performs the Landing of the output, and the gate outputs of a
driven frame follow over that line with the old values before the copy cycle and the new ones after it; nowhere else is there a Landing. The model's
choice: the Landing point is met when the landing line has begun (DEDUCED, notes/assumptions/32.md), a Landing anywhere else is nothing (DESIGN
CHOICE, notes/assumptions/2.md), and which gate edges of the landing line are the old values' (DESIGN CHOICE, notes/assumptions/93.md).
[07_timing_generators_and_landing.md R160, R161, R162, R163, R164; 08_scan_out_and_slack.md R176] -/
def Obligations.Landings : Prop :=
  ∀ (s : State) (n : Fin 4),
    (∀ w, s.accepts w (R.tgLand n) = true →
      (s.running n = true →
        Yields (.landGo w n false) s [] [F.tgLandGo n] [] (fun u => u.get (F.tgLandGo n) = 1) ∧
        Yields (.landGo w n true) s [evOut n 1] [F.tgLandGo n, F.tgLateCountCount n] [] fun u => u.get (F.tgLandGo n) = 1 ∧
          u.get (F.tgLateCountCount n) = min (fieldMax (F.tgLateCountCount n)) (s.get (F.tgLateCountCount n) + 1)) ∧
      (s.running n = false → ∀ c, exec (.landGo w n c) s = .next s) ∧
      Yields (.landCancel w n) s [] [F.tgLandGo n] [] fun u => u.get (F.tgLandGo n) = 0) ∧
    (s.running n = true → (s.outp n).waiting = false → (s.outp n).kind = 0 → (s.outp n).landed = false →
      (s.outp n).line = (s.outp n).landLine + 1 → (s.outp n).cut = false →
      ((s.outp n).routeHeld = true → exec (.landingPoint n) s = .next (s.landingPoint n)) ∧
      ((s.outp n).routeHeld = false → exec (.landingPoint n) s =
        .next ((s.landingPoint n).gateLine n (s.outp n).landLine (some (s, s.copyPixel n))))) ∧
    (s.running n = false ∨ (s.outp n).waiting = true ∨ (s.outp n).kind ≠ 0 ∨ (s.outp n).landed = true ∨
      (s.outp n).line ≠ (s.outp n).landLine + 1 ∨ (s.outp n).cut = true → exec (.landingPoint n) s = .next s)

/-- A frame start, due where the output's pacing places its next edge, begins a frame of the kind that is next: a blank frame changes the lanes, idles the
gates and calibrates with link patterns; a calibration frame idles the gates and calibrates; every frame begins its dither frame; the frame pulse is
begun in visible and calibration frames. Under PACE 0 frame 0 begins 50 µs after the write, within a tick (the model's choice, DESIGN CHOICE,
notes/assumptions/93.md), and a later frame within a pixel of the exact multiple of the period, which the frame begun counts on. Beginning a frame
takes the timing now active (the old one in a blank frame), line 0, no Landing yet, its Landing line and kind, and sets BLANK_FRAME exactly in a blank
frame. A line start counts the line up, notes the position, sends the line's lane words, drives the gates of a driven line but for the landing line,
and pulses the line signal; the last line of a frame under HOLD ends it. The model's choice: the tolerances of an edge (DESIGN CHOICE,
notes/assumptions/93.md), times in picoseconds (DESIGN CHOICE, notes/assumptions/31.md), what the lanes send in order up to a line (DEDUCED,
notes/assumptions/39.md), and that the dither fallback is told as it begins (DESIGN CHOICE, notes/assumptions/110.md). [06_overdrive_and_dither.md
R143; 07_timing_generators_and_landing.md R145, R146, R147, R160, R166; 08_scan_out_and_slack.md R175, R176; 09_lararn_panel_link.md R195, R202;
10_lane_calibration.md R221, R222] -/
def Obligations.FramesAndLines : Prop :=
  ∀ (s : State) (n : Fin 4) (o : OutState), s.outs[n.val]? = some o → s.running n = true → o.cut = false →
    (∀ edge low, o.waiting = true ∨ (o.stopping = false ∧ o.line = o.frameLines) → s.edgeDue n edge = true →
      let kind := if o.waiting then 0 else o.nextKind
      let b := ((if o.waiting then s.frameZero n else s).beginFrame n kind edge).turnGates n
      let held := (b.outp n).routeHeld
      let ends (t : State) : State := (t.setOut n fun x => { x with prev := t.cfg n }).dithFrame n
      let pulse (t : State) : State :=
        t.refPulse 0 n (t.timeAt edge) (some (rheDiv ((t.framePs n).1 : Nat) (max 1 (t.framePs n).2 * 1000)).toNat)
      let shown := if o.kind ≠ 0 then ((b.cfg n).lanes).foldl (fun t l => t.setLane l fun x => { x with fill := none }) (b.beginRead n) else b
      (kind = 1 → exec (.frameStart n edge low) s =
        .next ((ends (((b.changeLanes n).gatesIdle n).beginCals n true low)).wearFrame n 1 held).holdEpochs) ∧
      (kind = 2 → exec (.frameStart n edge low) s =
        .next ((pulse (ends (((b.chooseLines n).gatesIdle n).beginCals n false low))).wearFrame n 2 held).holdEpochs) ∧
      (kind = 0 → exec (.frameStart n edge low) s =
        .next ((pulse (ends (if held = true then (shown.gatesIdle n).odrvForget n else if o.waiting = true then shown.gatesIdle n else shown))).wearFrame n 0 held).holdEpochs)) ∧
    (∀ edge low, o.waiting = false ∧ (o.stopping = true ∨ o.line ≠ o.frameLines) ∨ s.edgeDue n edge = false →
      exec (.frameStart n edge low) s = .next s) ∧
    (o.waiting = true → s.act (F.tgCtrlPace n) = 0 → ∀ edge,
      s.edgeDue n edge = true ↔ o.sync.startAt + 50000000 ≤ edge ∧ edge ≤ o.sync.startAt + 50000000 + 4000) ∧
    (o.waiting = false → o.timing.pace = 0 → ∀ edge,
      let p := s.framePs n
      s.edgeDue n edge = true → (edge - (o.sync.origin + rheDiv (((o.sync.frames + 1) * p.1 : Nat) : Int) p.2)).natAbs ≤
        ceilDiv p.1 (p.2 * max 1 (o.timing.vTotal * o.timing.hTotal))) ∧
    (∀ kind edge, o.kind ≠ 1 ∨ kind = 1 ∨ o.timing.pace = (timingOf s.act n).pace →
      let b := s.beginFrame n kind edge
      let t := if kind = 1 then o.timing else timingOf s.act n
      Frame [F.tgStatusBlankFrame n] [.output n] s b ∧ (b.get (F.tgStatusBlankFrame n) = 1 ↔ kind = 1) ∧
        ∃ x, b.outs[n.val]? = some x ∧ x.waiting = false ∧ x.timing = t ∧ x.frameLines = t.vTotal ∧ x.line = 0 ∧
          x.landed = false ∧ x.landLine = s.landQ n ∧ x.kind = kind ∧ x.edge = edge ∧ x.frameZero = o.waiting ∧
          x.routeHeld = (o.routeHeld || decide (o.stall ≠ 0)) ∧
          (o.waiting = false → o.timing.pace = 0 → t.pace = 0 → (kind = 1 ∨ s.rateAt n t = o.rate) →
            x.sync.origin = o.sync.origin ∧ x.sync.frames = o.sync.frames + 1)) ∧
    (∀ low, o.waiting = false → o.line < o.frameLines → (o.kind = 0 → o.landed = true ∨ o.line ≤ o.landLine) →
      (o.kind = 0 → o.routeHeld = false → s.lineReady n o.line = true) →
      let driven := o.kind == 0 && !o.routeHeld
      let b := ((s.setOut n fun x => { x with line := o.line + 1 }).puts
        [(F.tgPositionLine n, o.line), (F.tgPositionPixel n, 0)]).laneLine n o.line driven
      let g := if driven && !(!o.landed && o.line == o.landLine) then b.gateLine n o.line none else b
      let v := (if driven && o.line == o.timing.vActive then g.watchTrials n low else g).refPulse 1 n (g.timeAt (g.lineAt n o.line))
        (some (rheDiv ((g.framePs n).1 : Nat) (max 1 (g.framePs n).2 * 1000 * max 1 o.timing.vTotal)).toNat)
      let c := if o.kind ≠ 0 ∧ v.trialTime n = false then v.closeCals n else v
      (o.kind ≠ 0 → o.heldLanes = true → o.line + 1 = o.frameLines → exec (.lineStart n low) s = .next (c.endCalFrame n)) ∧
      (o.kind = 0 ∨ o.heldLanes = false ∨ o.line + 1 ≠ o.frameLines → exec (.lineStart n low) s = .next c)) ∧
    (∀ low, o.waiting = true ∨ o.frameLines ≤ o.line ∨ (o.kind = 0 ∧ o.landed = false ∧ o.landLine < o.line) ∨
      (o.kind = 0 ∧ o.routeHeld = false ∧ s.lineReady n o.line = false) → exec (.lineStart n low) s = .next s)

/-- A counted SYNC_IN edge is captured, a rising edge of pin 0 is a pulse-per-second sample when that source is selected, and every running output paced
by that pin and edge takes it as a reference. A window of a known period that has passed without an edge counts MISSED, predicts the next edge, and at
the second miss raises LOCK_LOST with STATE 3. An epoch of the output's chain time is a reference when the time is usable and otherwise loses the lock
once; another instant is nothing. A TE edge of the right polarity schedules the frame TE_DELAY after it, when that is not before its recognition, or,
too early, counts EARLY; a TE timeout counts MISSED, raises its event, sets STATE 3, and starts the frame that is awaited, or the one to come, at the
timeout. A window or a timeout that an edge meets in its clock does nothing. The model's choice: a TE timeout before frame 0 raises TE_MISSING
(DEDUCED, notes/assumptions/36.md), the tolerances of epochs, windows and edges (DESIGN CHOICE, notes/assumptions/93.md), and the second nearest to a
PPS stamp half-way between two (DESIGN CHOICE, notes/assumptions/108.md). [01_lararn_in_the_system.md R19; 07_timing_generators_and_landing.md R148,
R149, R151, R152, R156, R157, R159; 15_time_reference.md R333, R339] -/
def Obligations.Genlock : Prop :=
  (∀ (s : State) (pin : Fin 4) (rising : Bool) (t : Int) (sub : BitVec 35), s.inWinter = false → s.power.off = false →
    let s1 := if s.syncEdgeCounts pin rising then s.capture pin sub.toNat else s
    let now := s1.stampNow sub.toNat
    let s2 := if pin = 0 ∧ rising ∧ s1.hasSource 3 then s1.sample (2 * ((now : Int) - (((now + secUnit / 2) / secUnit * secUnit : Nat) : Int))) else s1
    exec (.syncInEdge pin rising t sub) s = .next ((List.range 4).foldl (fun u n =>
      if u.running n && u.paceOf n == 1 && u.act (F.tgSyncCfgPin n) == pin.val && rising != u.actOn (F.tgPolaritySyncEdge n) then
        u.refEdge n t else u) s2)) ∧
  (∀ (s : State) (n : Fin 4) (o : OutState), s.outs[n.val]? = some o → s.running n = true →
    (∀ t, o.sync.periodKnown = true → (s.get (F.tgLockStatusState n) = 1 ∨ s.get (F.tgLockStatusState n) = 2) →
      (o.sync.predicted + s.refWindow n ≤ t →
        let r := s.refPeriod n
        let per := r - rheDiv (r * sval 32 (s.get (F.tgFreqTrimTrim n))) 1000000000
        let missed := min (fieldMax (F.tgLockStatusMissed n)) (s.get (F.tgLockStatusMissed n) + 1)
        Yields (.syncWindowClose n t false) s (if 2 ≤ missed then [evOut n 3] else []) [F.tgLockStatusMissed n, F.tgLockStatusState n]
          [.output n] fun u => u.get (F.tgLockStatusMissed n) = missed ∧
            u.get (F.tgLockStatusState n) = (if 2 ≤ missed then 3 else s.get (F.tgLockStatusState n)) ∧
            u.outs[n.val]? = some { o with sync := { o.sync with predicted := o.sync.predicted + per, good := 0 } }) ∧
      (t < o.sync.predicted + s.refWindow n → exec (.syncWindowClose n t false) s = .next s)) ∧
    (∀ t, exec (.syncWindowClose n t true) s = .next s) ∧
    (s.paceOf n = 2 → ∀ t,
      (s.timeUsable = true → onEpoch (s.sinceEpoch n t) (s.rateNow n) = true → exec (.chainEpoch n t) s = .next (s.refEdge n t)) ∧
      (s.timeUsable = true → onEpoch (s.sinceEpoch n t) (s.rateNow n) = false → exec (.chainEpoch n t) s = .next s) ∧
      (s.timeUsable = false → s.get (F.tgLockStatusState n) ≠ 3 →
        Yields (.chainEpoch n t) s [evOut n 3] [F.tgLockStatusState n] [] fun u => u.get (F.tgLockStatusState n) = 3) ∧
      (s.timeUsable = false → s.get (F.tgLockStatusState n) = 3 → exec (.chainEpoch n t) s = .next s)) ∧
    (s.paceOf n = 3 →
      (∀ falling t, s.actOn (F.tgPolarityTeEdge n) = falling →
        ((o.waiting = true ∨ o.landed = true ∨ (o.kind ≠ 0 ∧ o.landLine < o.line)) → o.sync.scheduled = none →
          (o.waiting = true → o.sync.startAt + 50000000 ≤ t) →
          ∃ u at', exec (.teEdge n falling t) s = .next (u.setLock n 2) ∧ Frame [] [.output n] s u ∧
            (5 ≤ s.act (F.tgTeCfgDelay n) → at' = t + (s.act (F.tgTeCfgDelay n) : Int) * 1000) ∧
            u.outs[n.val]? = some { o with sync := { o.sync with scheduled := some at' } }) ∧
        (o.waiting = false → o.landed = false → (o.kind = 0 ∨ o.line ≤ o.landLine) →
          Yields (.teEdge n falling t) s [] [F.tgTeCountsEarly n] [] fun u =>
            u.get (F.tgTeCountsEarly n) = min (fieldMax (F.tgTeCountsEarly n)) (s.get (F.tgTeCountsEarly n) + 1))) ∧
      (∀ d low, o.sync.scheduled = none → s.teDeadline n = some d →
        ∃ u, Frame [F.tgTeCountsMissed n, F.tgLockStatusState n] [] s u ∧
          u.get (F.tgTeCountsMissed n) = min (fieldMax (F.tgTeCountsMissed n)) (s.get (F.tgTeCountsMissed n) + 1) ∧
          u.get (F.tgLockStatusState n) = 3 ∧
          let v := (if s.get (F.tgLockStatusState n) = 3 then [evOut n 4] else [evOut n 3, evOut n 4]).foldl State.raise u
          (s.frameReady n = true → exec (.teTimeout n false low) s =
            .next (v.startFrame n (if o.waiting then d else max d (v.frameEnd n)) low)) ∧
          (s.frameReady n = false → exec (.teTimeout n false low) s = .next (v.setSync n fun y => { y with scheduled := some d })))) ∧
    (∀ low, exec (.teTimeout n true low) s = .next s))

/-- A fall of PFAIL_N is noted; recognised, it starts the discharge of every output, raises PFAIL (event 8), abandons a Winter entry under way, and in
Winter or a thaw is kept with PFAIL_SEEN for the thaw in place of the event. The rise clears it with event 9, and a start that PFAIL halted goes on. A
cut output without a discharge image stops; with one it goes through its states 1, 2 and 3: lanes and gates given the pattern and DCHG_N low, then
gates and driven lanes off, then the output stopped. The commands do nothing on an output that is not cut. The model's choice: a failure in a Thaw or
in the entry of Winter (DEDUCED, notes/assumptions/78.md), and commands on an output that is not cut (DESIGN CHOICE, notes/assumptions/2.md).
[08_scan_out_and_slack.md R183, R184, R185; 18_power_clocks_reset.md R395, R396] -/
def Obligations.PowerFailDischarge : Prop :=
  ∀ (s : State),
    Yields .pfailNFall s [] [] [.power] (fun u => u.power = { s.power with pfailLow := true }) ∧
    (s.power.off = false →
      (s.power.pfailLow = true → s.power.pfail = false →
        let t := s.setPower fun p => { p with pfail := true }
        (s.powerState = 5 ∨ s.powerState = 6 →
          ∃ u, exec .pfailRecognised s = .next (u.discharge false) ∧ Frame [F.glbPowerStatusPfailSeen] [.power] s u ∧
            u.get F.glbPowerStatusPfailSeen = 1 ∧ u.power = { s.power with pfail := true, pfailThaw := true }) ∧
        (s.powerState = 4 → exec .pfailRecognised s = .next (((t.abandonEntry).raise 8).discharge false)) ∧
        (s.powerState ≠ 4 → s.powerState ≠ 5 → s.powerState ≠ 6 → exec .pfailRecognised s = .next ((t.raise 8).discharge true))) ∧
      (s.power.pfailLow = false ∨ s.power.pfail = true → exec .pfailRecognised s = .next s) ∧
      (s.power.halted = false →
        Yields .pfailNRise s (if s.power.pfail then [9] else []) [] [.power] fun u =>
          u.power = { s.power with pfailLow := false, pfail := false }) ∧
      (s.power.halted = true → s.power.pfail = true →
        ∃ u, exec .pfailNRise s = .next ((u.raise 9).finishStart) ∧ Frame [] [.power] s u ∧
          u.power = { s.power with pfailLow := false, pfail := false })) ∧
    (∀ (n : Fin 4) (o : OutState), s.outs[n.val]? = some o →
      (o.cut = false → exec (.dischargeCut n) s = .next s ∧ exec (.dischargeHoldExpiry n) s = .next s ∧
        exec (.dischargeComplete n) s = .next s) ∧
      (o.cut = true →
        (o.dchgRan = false → exec (.dischargeCut n) s = .next ((s.stopOut n).uncut n)) ∧
        (o.dchgRan = true → s.get (F.scnDchgStatusState n) = 1 →
          let t := (s.orderLanes n).gatePattern n
          ∃ u, exec (.dischargeCut n) s = .next (if o.dchgN then u.emit (.dchg n false) else u) ∧
            Frame [F.scnDchgStatusState n] [.output n] t u ∧ u.get (F.scnDchgStatusState n) = 2 ∧
            ∀ x, t.outs[n.val]? = some x → u.outs[n.val]? = some { x with dchgN := false }) ∧
        (s.get (F.scnDchgStatusState n) = 2 →
          let t := (s.drivenLanes n).foldl State.laneOff (s.gatesOff n)
          ∃ u, exec (.dischargeHoldExpiry n) s = .next u ∧ Frame [F.scnDchgStatusState n] [] t u ∧
            u.get (F.scnDchgStatusState n) = 3) ∧
        (o.dchgRan = true → s.get (F.scnDchgStatusState n) = 3 →
          exec (.dischargeComplete n) s =
            .next ((if s.running n then s.stopOut n else s.put (F.tgCtrlEn n) 0).uncut n))))

/-- A training sequence that ends takes the lane from state 1 to 2, the blocks of stage B sent: 2,048 of them, TRAIN where nothing else is due. A listen
timeout in state 1 or 2 is state 4 with a retry after min(1280, 20*2^n) ms, and FAULT with its event the first time; met in its clock by a good
STATUS, it is nothing. A retry counts RETRIES, puts out stage A of the next sequence, whose first symbol falls within the tick, and is state 1.
RETRAIN of a lane in service breaks a trial off and begins its service again; TX_OFF = 1 puts the lane off, TX_OFF = 0 begins the service of a lane in
service; a write that does not change TX_OFF changes nothing else. The model's choice: where within the tick the first symbol falls (DESIGN CHOICE,
notes/assumptions/95.md), what RETRAIN ends (DEDUCED, notes/assumptions/96.md), and when blocks stand in the messages (DEDUCED,
notes/assumptions/39.md). [01_lararn_in_the_system.md R19; 09_lararn_panel_link.md R192, R199, R200, R201, R203, R204; 10_lane_calibration.md R217] -/
def Obligations.LaneService : Prop :=
  ∀ (s : State) (n : Fin 96) (l : LaneState), s.lanes[n.val]? = some l →
    (s.laneSt n = 1 →
      ∃ u l' new, exec (.trainingSequenceEnd n) s = .next u ∧ Frame [F.plnStatusState n] [.lane n, .out] s u ∧
        u.laneSt n = 2 ∧ u.lanes[n.val]? = some l' ∧ l'.sent = l.sent + (2048 - l.sent) ∧ l'.retry = l.retry ∧ l'.train = l.train ∧
        u.out = new ++ s.out ∧ new.length = 2048 - l.sent ∧
        (l.queue = [] → l.histAt = none → l.fill = none → ∀ m ∈ new, ∃ levels, m = .lane n ⟨hTrain, l.train⟩ levels)) ∧
    (s.laneSt n ≠ 1 → exec (.trainingSequenceEnd n) s = .next s) ∧
    (s.laneSt n = 1 ∨ s.laneSt n = 2 →
      Yields (.listenTimeout n false) s (if l.retry = 0 then [evLane n] else [])
        (F.plnStatusState n :: (if l.retry = 0 then [F.plnStatusFault n] else [])) [.lane n] fun u =>
        u.laneSt n = 4 ∧ (l.retry = 0 → u.get (F.plnStatusFault n) = 1) ∧
        u.lanes[n.val]? = some { l with retryAt := some (s.time.ticks + min 1280 (20 * 2 ^ l.retry) * 250000) }) ∧
    exec (.listenTimeout n true) s = .next s ∧
    (s.laneSt n = 4 →
      let q := (l.tseq + 1) % 256
      ∃ u l' new, exec (.retryStart n) s = .next u ∧
        Frame [F.plnStatusRetries n, F.plnStatusState n, F.plnResidCount n] [.lane n, .out, .free] s u ∧
        u.laneSt n = 1 ∧ u.get (F.plnResidCount n) = 0 ∧
        u.get (F.plnStatusRetries n) = min (fieldMax (F.plnStatusRetries n)) (s.get (F.plnStatusRetries n) + 1) ∧
        u.out = .stageA n (stageA (s.on (F.plnRolePrecode n))) :: (new ++ s.out) ∧
        u.lanes[n.val]? = some l' ∧ l'.retry = min 16 (l.retry + 1) ∧ l'.tseq = q ∧ l'.train = s.trainPayload n q ∧
        l'.silent = 0 ∧ l'.corrupt = 0 ∧ l'.retryAt = none ∧ l'.sent = 0 ∧ l'.queue = [] ∧ l'.fill = none ∧
        l'.scr = laneSeed n ∧ l'.last = (if s.get (F.plnRolePrecode n) = 1 then 0 else 3) ∧ s.nowPs ≤ l'.base ∧ l'.base < s.nowPs + 4000) ∧
    (s.laneSt n ≠ 4 → exec (.retryStart n) s = .next s) ∧
    (∀ w, s.accepts w (R.plnCtrl n) = true →
      (s.inService n = true → exec (.retrain w n) s = .next (((s.breakTrial n).dropFrames n).beginService n)) ∧
      (s.inService n = false → exec (.retrain w n) s = .next s) ∧
      (∀ off, s.get (F.plnCtrlTxOff n) = off.toNat → exec (.txOff w n off) s = .next (s.put (F.plnCtrlTxOff n) off.toNat)) ∧
      (s.get (F.plnCtrlTxOff n) = 0 → exec (.txOff w n true) s = .next ((s.put (F.plnCtrlTxOff n) 1).laneOff n)) ∧
      (s.get (F.plnCtrlTxOff n) = 1 →
        let u := s.put (F.plnCtrlTxOff n) 0
        exec (.txOff w n false) s = .next (if u.inService n then u.beginService n else u)))

/-- A poll of a lane that listens goes on the sideband of its group; sent when the wire is free, its bytes are put out; on a collision it is abandoned,
counted and raises event 481. With a frame out: a timeout is a missing reply, unless a reply begins in its clock; a damaged or foreign reply counts a
CRC error and is a missing reply, a histogram reply is kept for the calibration that waits, a status reply is taken as the lane's status. A repeat
sends the abandoned frame again or, colliding again, gives it up as a missing reply. Each command does nothing without its frame. The model's choice:
a repeat that collides counts as unanswered, and a reply whose TYPE is not HIST is taken as STATUS (DEDUCED, notes/assumptions/47.md), and commands
without their frame are nothing (DESIGN CHOICE, notes/assumptions/2.md). [01_lararn_in_the_system.md R19; 09_lararn_panel_link.md R204, R205, R206,
R207] -/
def Obligations.SidebandExchange : Prop :=
  (∀ (s : State) (n : Fin 96) (b : SbState) (low : BitVec 4), s.sidebands[laneGroup n]? = some b →
    (s.get (F.plgSbCtrlSbEn (laneGroup n)) = 1 → (s.laneSt n = 2 ∨ s.laneSt n = 3 ∨ s.laneSt n = 5) →
      exec (.sidebandPoll n low) s = .next (s.sbSend (sbPoll n) low) ∧
      (b = ⟨none, none, []⟩ → low.getLsbD (laneGroup n) = false →
        Yields (.sidebandPoll n low) s [] [] [.sideband (laneGroup n), .out] fun u =>
          u.sidebands[laneGroup n]? = some ⟨some (sbPoll n), none, []⟩ ∧
          u.out = .sideband (laneGroup n) (sbBytes n 1 []) :: s.out) ∧
      (b = ⟨none, none, []⟩ → low.getLsbD (laneGroup n) = true →
        Yields (.sidebandPoll n low) s [481] [F.plgSbErrsCollisions (laneGroup n)] [.sideband (laneGroup n)] fun u =>
          u.sidebands[laneGroup n]? = some ⟨none, some (sbPoll n), []⟩ ∧
          u.get (F.plgSbErrsCollisions (laneGroup n)) =
            min (fieldMax (F.plgSbErrsCollisions (laneGroup n))) (s.get (F.plgSbErrsCollisions (laneGroup n)) + 1))) ∧
    (s.get (F.plgSbCtrlSbEn (laneGroup n)) = 0 → exec (.sidebandPoll n low) s = .next s)) ∧
  (∀ (s : State) (g : Fin 4) (b : SbState) (f : SbFrame) (low : BitVec 4), s.sidebands[g.val]? = some b →
    (b.sent = some f →
      ∃ t, Frame [] [.sideband g] s t ∧ t.sidebands[g.val]? = some { b with sent := none } ∧
        exec (.replyTimeout g false low) s = .next ((t.noteNoReply f false).pumpSideband g low) ∧
        (∀ r, f.answeredBy r = false →
          exec (.sidebandReply g r low) s = .next (((t.count (F.plgSbErrsCrc g) 1).noteNoReply f true).pumpSideband g low)) ∧
        (∀ r, f.answeredBy r = true → leAt r 1 1 = 0x82 →
          exec (.sidebandReply g r low) s = .next (((t.setLane f.lane fun l => { l with silent := 0, corrupt := 0 }).setCal f.lane
            fun c => if c.phase = 2 then { c with phase := 3, hist := (r.drop 3).take (leAt r 2 1) } else c).pumpSideband g low)) ∧
        (∀ r, f.answeredBy r = true → leAt r 1 1 ≠ 0x82 →
          exec (.sidebandReply g r low) s =
            .next (((t.takeStatus f.lane ((r.drop 3).take (leAt r 2 1))).afterStatus f).pumpSideband g low))) ∧
    exec (.replyTimeout g true low) s = .next s ∧
    (b.sent = none → exec (.replyTimeout g false low) s = .next s ∧ ∀ r, exec (.sidebandReply g r low) s = .next s) ∧
    (b.abandoned = some f →
      (low.getLsbD g = false →
        Yields (.sidebandRepeat g low) s [] [] [.sideband g, .out] fun u =>
          u.sidebands[g.val]? = some { b with sent := some f, abandoned := none } ∧
          u.out = .sideband g (sbBytes f.lane f.type f.payload) :: s.out) ∧
      (low.getLsbD g = true →
        ∃ t, Frame [] [.sideband g] s t ∧ t.sidebands[g.val]? = some { b with abandoned := none } ∧
          exec (.sidebandRepeat g low) s = .next (((t.noteSbCollision g).noteNoReply f false).pumpSideband g low))) ∧
    (b.abandoned = none → exec (.sidebandRepeat g low) s = .next s))

/-- CAL_REQUEST notes the lane as due, is nothing in mode 2, and is 0x525 on a forced lane; a MEASURE of a lane that is up with no calibration asks for
its histogram, changing no tap. The end of a trial window, its HIST_START sent, restores the best taps, but for a measurement, and reads the
histogram; an unusable histogram ends the calibration with its code and event 484, a usable one is judged. FFE_FORCE writes the fields; off, it makes
the lane due again; with taps out of range it is refused with 0x526 and event 486; in range the taps are set, at the next BLANK mark for a lane of a
running output. A span of the symbols sent updates DENSITY, and one too sparse freezes the adaptation with event 483. The model's choice: an FFE_FORCE
in range first aborts a running calibration of the lane with 0x520, and an abandoned trial counts as not made (DEDUCED, notes/assumptions/49.md); when
trial taps are in force, and what a span spoils (DEDUCED, notes/assumptions/96.md). [10_lane_calibration.md R214, R216, R217, R218, R219, R220, R224,
R225, R227] -/
def Obligations.LaneCalibration : Prop :=
  ∀ (s : State) (n : Fin 96) (l : LaneState) (low : BitVec 4), s.lanes[n.val]? = some l →
    (∀ w, s.accepts w (R.plnCalCmd n) = true →
      (s.forced n = true →
        Yields (.calRequest w n) s [] [F.plnCalStatusLastCode n] [] fun u => u.get (F.plnCalStatusLastCode n) = 0x525) ∧
      (s.forced n = false → s.calMode (s.get (F.plnRoleOutput n)) ≠ 2 →
        Yields (.calRequest w n) s [] [] [.lane n] fun u => u.lanes[n.val]? = some { l with dueReq := true }) ∧
      (s.forced n = false → s.calMode (s.get (F.plnRoleOutput n)) = 2 → exec (.calRequest w n) s = .next s) ∧
      (s.laneUp n = true → l.cal = none →
        ∃ t, Frame [] [.lane n] s t ∧ t.lanes[n.val]? = some { l with cal := some { s.newCal n true with phase := 1 } } ∧
          exec (.calMeasure w n low) s = .next (t.sbSend (sbHistReq n (s.calWindow (s.get (F.plnRoleOutput n))) false) low)) ∧
      (s.laneUp n = false ∨ l.cal ≠ none → exec (.calMeasure w n low) s = .next s)) ∧
    (∀ c, l.cal = some c →
      (c.phase = 4 →
        ∃ u l', Frame [] [.lane n, .out] s u ∧ u.lanes[n.val]? = some l' ∧ l'.cal = some c ∧ l'.histAt = none ∧
          let v := u.setLane n fun x => { x with cal := some { c with phase := 2, endAt := l'.sent } }
          exec (.calTrialWindowEnd n low) s = .next ((if c.measure then v else v.setTaps n c.best).sbSend (sbHistRead n) low)) ∧
      (c.phase ≠ 4 → exec (.calTrialWindowEnd n low) s = .next s) ∧
      (c.phase = 3 → histCode c c.hist ≠ 0 →
        exec (.calHistogramReceived n low) s = .next ((s.endCal n (histCode c c.hist) c.start).raise 484)) ∧
      (c.phase = 3 → histCode c c.hist = 0 →
        exec (.calHistogramReceived n low) s = .next (s.judgeHist n c c.hist low))) ∧
    (∀ w (cm1 c1 c2 : BitVec 8), s.accepts w (R.plnFfeForce n) = true →
      let fields := [F.plnFfeForceForce n, F.plnFfeForceCm1 n, F.plnFfeForceC1 n, F.plnFfeForceC2 n, F.plnCalStatusForceRefused n]
      let held (force : Bool) (u : State) : Prop := u.get (F.plnFfeForceForce n) = force.toNat ∧
        u.get (F.plnFfeForceCm1 n) = cm1.toNat ∧ u.get (F.plnFfeForceC1 n) = c1.toNat ∧ u.get (F.plnFfeForceC2 n) = c2.toNat
      let taps : Taps := ⟨cm1.toInt, c1.toInt, c2.toInt⟩
      Yields (.ffeForce w n false cm1 c1 c2) s [] fields [.lane n] (fun u => held false u ∧
        u.get (F.plnCalStatusForceRefused n) = 0 ∧
        u.lanes[n.val]? = some { l with forceWaits := none, dueAuto := l.dueAuto || s.forced n }) ∧
      (taps.ok = false →
        Yields (.ffeForce w n true cm1 c1 c2) s [486] (F.plnCalStatusLastCode n :: fields) [] fun u => held true u ∧
          u.get (F.plnCalStatusForceRefused n) = 1 ∧ u.get (F.plnCalStatusLastCode n) = 0x526) ∧
      (taps.ok = true →
        ∃ t, Frame fields [] s t ∧ held true t ∧ t.get (F.plnCalStatusForceRefused n) = 0 ∧
          exec (.ffeForce w n true cm1 c1 c2) s = .next (
            let v := t.abortCal n
            if v.get (F.plnRoleRole n) ≠ 0 ∧ v.running (v.get (F.plnRoleOutput n)) then
              v.setLane n fun l => { l with forceWaits := some taps }
            else v.setTaps n taps))) ∧
    (∃ t, t = (if s.laneSt n = 0 then s else s.laneTo n s.nowPs) ∧ Frame [] [.lane n, .out] s t ∧
      ∀ l', t.lanes[n.val]? = some l' →
        (l'.spans = [] → exec (.densitySpanEnd (.lane n) low) s = .next t) ∧
        ∀ count rest, l'.spans = count :: rest →
          let taken (u : State) (l' : LaneState) : Prop := u.lanes[n.val]? = some { l' with spans := rest, spansDone := l'.spansDone + 1 }
          (256 * s.get (F.ploCalCtrlTdMin (s.get (F.plnRoleOutput n))) < count → s.get (F.plnCalStatusFrozen n) = 0 →
            ∃ u, exec (.densitySpanEnd (.lane n) low) s = .next u ∧ Frame [F.plnDensityDensity n] [.lane n] t u ∧ taken u l' ∧
              u.get (F.plnDensityDensity n) = min 255 (rhe 8 (count : Int)).toNat) ∧
          (count ≤ 256 * s.get (F.ploCalCtrlTdMin (s.get (F.plnRoleOutput n))) → s.get (F.plnCalStatusFrozen n) = 0 → l'.cal = none →
            ∃ u, exec (.densitySpanEnd (.lane n) low) s = .next (u.raise 483) ∧
              Frame [F.plnDensityDensity n, F.plnCalStatusFrozen n] [.lane n] t u ∧ taken u l' ∧
              u.get (F.plnDensityDensity n) = min 255 (rhe 8 (count : Int)).toNat ∧ u.get (F.plnCalStatusFrozen n) = 1))

/-- FORCE sets the equalizer and stops the adaptation; off, the adaptation starts again unless the slice is frozen or its idle content failed. While a
slice adapts, a CTLE interval moves CTLE one step when the energies differ by more than 1/32, but for a starved slice, and a change of it restarts the
accumulators of the DFE; each idle symbol adds to each accumulator the sign of its error times that of the level so many symbols before, and one that
reaches 1,024 steps its tap by one, in range, and restarts; so symbol by symbol. Starved statistics end with 0x524 and hold the CTLE, too many errors
stop the adaptation with 0x522, each with event 484 once; a good span ends both and takes the density. An eye scan keeps its heights and widths and
wears the slice when the eye is below the limit. The model's choice: DFE_STEP brings the symbols since the last one (DEDUCED,
notes/assumptions/70.md). [01_lararn_in_the_system.md R19; 10_lane_calibration.md R224, R228, R229, R230] -/
def Obligations.ChainReceivers : Prop :=
  ∀ (s : State) (p : Fin 3) (k : Fin 5) (x : DfeState), s.chain.dfe[5 * p.val + k.val]? = some x →
    (∀ (w : Writer) (eq : BitVec 28), s.accepts w (R.chnrxForce p k) = true →
      (Yields (.chainRxForce w p k true eq) s [] [F.chnrxForceForce p k, F.chnrxForceEq p k, F.chnrxStatusForced p k,
        F.chnrxStatusAdapting p k, whole (R.chnrxEq p k)] [.chain] fun u =>
        u.get (F.chnrxForceForce p k) = 1 ∧ u.get (F.chnrxForceEq p k) = eq.toNat ∧ u.get (F.chnrxStatusForced p k) = 1 ∧
        u.get (F.chnrxStatusAdapting p k) = 0 ∧ u.reg (R.chnrxEq p k) = eq.setWidth 32) ∧
      (Yields (.chainRxForce w p k false eq) s [] [F.chnrxForceForce p k, F.chnrxForceEq p k, F.chnrxStatusForced p k,
        F.chnrxStatusAdapting p k] [] fun u =>
        u.get (F.chnrxForceForce p k) = 0 ∧ u.get (F.chnrxForceEq p k) = eq.toNat ∧ u.get (F.chnrxStatusForced p k) = 0 ∧
        (u.get (F.chnrxStatusAdapting p k) = 1 ↔ s.get (F.chnrxStatusFrozen p k) = 0 ∧ s.get (F.chnrxStatusLastCode p k) ≠ 0x522))) ∧
    (s.get (F.chnrxStatusAdapting p k) = 1 → s.portSt p ≠ 0 →
      (s.get (F.chnrxStatusLastCode p k) ≠ 0x524 → ∀ hf lf,
        let now := s.get (F.chnrxEqCtle p k)
        let next := if hf * 32 < lf * 31 then min 15 (now + 1) else if lf * 33 < hf * 32 then now - 1 else now
        Yields (.ctleInterval p k hf lf) s [] [F.chnrxEqCtle p k] [.chain] fun u => u.get (F.chnrxEqCtle p k) = next ∧
          u.chain = { s.chain with dfe := updAt s.chain.dfe (5 * p.val + k.val) fun x =>
            if next = now then x else { x with acc := [0, 0, 0] } }) ∧
      (∀ (e : Option Bool) (d : Fin 4),
        let sign : Int := match e with
          | none => 0
          | some up => if up then 1 else -1
        let sum (i : Nat) : Int := x.acc.getD i 0 + sign * levelSign (x.past.getD i 0)
        Yields (.dfeStep p k [(e, d)]) s [] [F.chnrxEqH1 p k, F.chnrxEqH2 p k, F.chnrxEqH3 p k] [.chain] fun u =>
          (∀ i < 3, sval 8 (u.get (dfeTap p k i)) = if (sum i).natAbs < 1024 then sval 8 (s.get (dfeTap p k i))
            else clampI (-128) 127 (sval 8 (s.get (dfeTap p k i)) + (sum i).sign)) ∧
          u.chain = { s.chain with dfe := updAt s.chain.dfe (5 * p.val + k.val) fun _ =>
            ⟨(List.range 3).map fun i => if (sum i).natAbs < 1024 then sum i else 0, d.val :: x.past.take 2⟩ }) ∧
      (∀ symbol rest, ∃ u, exec (.dfeStep p k [symbol]) s = .next u ∧
        exec (.dfeStep p k (symbol :: rest)) s = exec (.dfeStep p k rest) u)) ∧
    (s.get (F.chnrxStatusAdapting p k) = 0 ∨ s.portSt p = 0 →
      (∀ hf lf, exec (.ctleInterval p k hf lf) s = .next s) ∧ ∀ symbols, exec (.dfeStep p k symbols) s = .next s) ∧
    (s.get (F.chnrxStatusLastCode p k) = 0x524 → ∀ hf lf, exec (.ctleInterval p k hf lf) s = .next s) ∧
    exec (.chainStatsStarved p k true) s = .next s ∧
    (s.portSt p ≠ 0 →
      (Yields (.chainStatsStarved p k false) s (if s.get (F.chnrxStatusLastCode p k) = 0x524 then [] else [484])
        [F.chnrxStatusLastCode p k, F.chnrxStatusAdapting p k] [] fun u =>
        u.get (F.chnrxStatusLastCode p k) = 0x524 ∧
        (u.get (F.chnrxStatusAdapting p k) = 1 ↔ s.get (F.chnrxStatusFrozen p k) = 0 ∧ s.get (F.chnrxStatusForced p k) = 0)) ∧
      (∀ heights widths,
        let h (i : Nat) : Nat := (heights.getD i (0 : BitVec 8)).toNat
        let v (i : Nat) : Nat := (widths.getD i (0 : BitVec 16)).toNat
        ∃ u, exec (.eyeScan p k heights widths) s = .next (if h 1 < s.get F.rlfLaneEyeMin then u.chainWorn p k 2 else u) ∧
          Frame [F.chnrxQEye p k, F.chnrxQWidth p k, F.chnrxQWidthUp p k] [] s u ∧
          u.get (F.chnrxQEye p k) = h 0 * 2 ^ 8 + h 1 * 2 ^ 16 + h 2 * 2 ^ 24 ∧
          u.get (F.chnrxQWidth p k) = v 0 + v 1 * 2 ^ 16 ∧ u.get (F.chnrxQWidthUp p k) = v 2) ∧
      (∀ (count errors : BitVec 17) (low : BitVec 4),
        (65536 < errors.toNat * 256 →
          Yields (.densitySpanEnd (.slice p k count errors) low) s (if s.get (F.chnrxStatusLastCode p k) = 0x522 then [] else [484])
            [F.chnrxStatusLastCode p k, F.chnrxStatusAdapting p k] [] fun u =>
            u.get (F.chnrxStatusLastCode p k) = 0x522 ∧ u.get (F.chnrxStatusAdapting p k) = 0) ∧
        (errors = 0 → 256 * s.get (F.ploCalCtrlTdMin 0) < count.toNat →
          Yields (.densitySpanEnd (.slice p k count errors) low) s []
            [F.chnrxStatusLastCode p k, F.chnrxStatusAdapting p k, F.chnrxStatusFrozen p k, F.chnrxDensity p k] [] fun u =>
            u.get (F.chnrxStatusLastCode p k) = 0 ∧ u.get (F.chnrxStatusFrozen p k) = 0 ∧
            u.get (F.chnrxDensity p k) = min 255 (rhe 8 (count.toNat : Int)).toNat)))

/-- A temperature sample sets NOW; the thresholds WARN and 2,000 are told once each time they are reached (720, 721). A lane swap whose new lane is not up
at its timeout ends with code 3, the lane in state 4 with FAULT and its event the first time, unless its good STATUS comes in that clock; a chain
slice swap ends with code 0, the port's relief noted. An aging measurement keeps each reach, a reach at or above the swap limit is worn, a ring
oscillator at or above the warning limit is told once (704), and one that makes a reach worn or an oscillator warn is stored as the AGING record (its
moment and its layout the model's choice, notes/assumptions/103.md). So is that a timeout of no swap is nothing (DESIGN CHOICE,
notes/assumptions/2.md). [01_lararn_in_the_system.md R19; 09_lararn_panel_link.md R203; 19_relief_and_aging.md R411, R412, R413, R414, R415, R416,
R420] -/
def Obligations.AgingSwapsAndTemperature : Prop :=
  ∀ (s : State),
    (∀ temp : BitVec 16,
      let warn := decide (sval 16 (s.get F.rlfTempWarn) ≤ temp.toInt)
      let crit := decide ((2000 : Int) ≤ temp.toInt)
      Yields (.thermalThreshold temp) s
        ((if warn && !s.relief.thermalWarn then [720] else []) ++ (if crit && !s.relief.thermalCrit then [721] else []))
        [F.rlfTempNow] [.relief] fun u =>
        u.get F.rlfTempNow = temp.toNat ∧ u.relief = { s.relief with thermalWarn := warn, thermalCrit := crit }) ∧
    (∀ (lane : Fin 96) p, s.laneSwap lane = some p →
      (p.stage ≠ 0 → (s.laneSt lane = 1 ∨ s.laneSt lane = 2) →
        let first := (s.lane lane).retry = 0
        ∃ u, exec (.swapLockTimeout lane false) s = .next ((if first then u.raise (evLane lane) else u).endSwap p 3) ∧
          Frame (F.plnStatusState lane :: (if first then [F.plnStatusFault lane] else [])) [.lane lane] s u ∧ u.laneSt lane = 4 ∧
          (first → u.get (F.plnStatusFault lane) = 1)) ∧
      (p.stage ≠ 0 → s.laneUp lane = false → s.laneSt lane ≠ 1 → s.laneSt lane ≠ 2 →
        exec (.swapLockTimeout lane false) s = .next (s.endSwap p 3)) ∧
      (p.stage = 0 ∨ s.laneUp lane = true → exec (.swapLockTimeout lane false) s = .next s)) ∧
    (∀ lane : Fin 96, s.laneSwap lane = none → exec (.swapLockTimeout lane false) s = .next s) ∧
    (∀ lane : Fin 96, exec (.swapLockTimeout lane true) s = .next s) ∧
    (∀ (p : Fin 3) (k : Fin 4),
      (∀ x, (s.relief.waiting.find? fun x => x.kind == 1 && x.unit == chainUnit p k) = some x →
        ∃ u, exec (.chainSliceSwap p k) s = .next (u.endSwap x 0) ∧ Frame [F.chnpStatusRelief p] [.relief] s u ∧
          u.get (F.chnpStatusRelief p) = 1 ∧ u.chainRelieved p = ((s.relief.chain ++ [(p.val, k.val)]).find? (·.1 == p.val)).map (·.2) ∧
          u.relief.waiting = s.relief.waiting) ∧
      ((s.relief.waiting.find? fun x => x.kind == 1 && x.unit == chainUnit p k) = none →
        exec (.chainSliceSwap p k) s = .next s)) ∧
    (s.inWinter = false → s.purser.serving = true →
      (∀ reaches : List (BitVec 16), exec (.agingMeasurement reaches []) s =
        let t := (List.range (min 68 reaches.length)).foldl (fun t n =>
          let u := t.put (F.rlfReachSlow n) (reaches.getD n 0).toNat
          if (u.get F.rlfAgeSwap : Int) ≤ (reaches.getD n 0).toInt then u.reachWorn n else u) s
        .next (if t.agedSince s then t.storeOwn 5 (Config.agingRecord (reaches.map (·.toNat))) else t)) ∧
      (∀ v : BitVec 16, v.toInt < s.get F.rlfAgeSwap →
        Yields (.agingMeasurement [v] []) s [] [F.rlfReachSlow 0] [] fun u => u.get (F.rlfReachSlow 0) = v.toNat) ∧
      (∀ v : BitVec 16, (s.get F.rlfAgeSwap : Int) ≤ v.toInt → exec (.agingMeasurement [v] []) s =
        let t := (s.put (F.rlfReachSlow 0) v.toNat).reachWorn 0
        .next (if t.agedSince s then t.storeOwn 5 (Config.agingRecord [v.toNat]) else t)) ∧
      (∀ v : BitVec 16, (s.get F.rlfAgeWarn : Int) ≤ v.toInt → 0 ∉ s.relief.warned →
        ∃ u, exec (.agingMeasurement [] [v]) s = .next ((u.raise 704).storeOwn 5 (Config.agingRecord [v.toNat])) ∧
          Frame [F.rlfRoSlow 0] [.relief] s u ∧ u.get (F.rlfRoSlow 0) = v.toNat ∧
          u.relief = { s.relief with warned := keyInsert s.relief.warned 0 }))

/-- Nothing in Winter or without power. Of one access in its cycle: at a gate that holds it waits; one without right is a violation, all ones for the
host; a frozen master's own access is nothing, all ones for the host; a stalled one is outstanding; a write stores its bytes and is answered; a read
returns the rotated word of 32 bytes as stored; a read of an uncorrectable word returns it with code 0x401, event 195, its address and count. Of two
admitted accesses of one port, the one of the better class, or whose turn it is, is served first, and the other waits one cycle, counted. The model's
choice: a stalled access counts as outstanding (DEDUCED, notes/assumptions/26.md), and the scan-out engines take turns at a bank (DESIGN CHOICE,
notes/assumptions/97.md). [11_the_hold.md R234, R235, R238, R239, R240] -/
def Obligations.HoldAccessAtGate : Prop :=
  (∀ (s : State) (a : HoldAccess) (arb : Arbitration), s.inWinter = true ∨ s.power.off = true ∨ s.power.fabricOff = true →
    exec (.holdAccess a arb) s = .next s) ∧
  (∀ (s : State) (a : HoldAccess) (arb : Arbitration), s.inWinter = false → s.power.off = false → s.power.fabricOff = false →
    s.plainAt a → arb.others = [] →
    let m := a.master.toNat
    let w := wordOf a.addr.toNat
    let p : Peer := ⟨a, arb.issued, arb.ecc, arb.stalled⟩
    let right := s.mayHold m (bankOf a.addr.toNat) a.write = true
    let ones := List.replicate 32 (0xFF : Byte)
    (s.gateHolds a = true →
      Yields (.holdAccess a arb) s [] [] [.hold] fun u => u.hold = { s.hold with held := s.hold.held ++ [⟨p, s.cycleNow⟩] }) ∧
    (s.gateHolds a = false →
      (¬ right →
        let t := s.violate m (s.barCode m a.addr.toNat a.write) a.addr.toNat a.write
        (hostAccess a → exec (.holdAccess a arb) s = .next (t.respond a 0 false ones)) ∧
        (¬ hostAccess a → exec (.holdAccess a arb) s = .next t)) ∧
      (right → s.frozen m = true →
        (hostAccess a → exec (.holdAccess a arb) s = .next (s.respond a 0 false ones)) ∧
        (¬ hostAccess a → exec (.holdAccess a arb) s = .next s)) ∧
      (right → s.frozen m = false →
        (arb.stalled = true → Yields (.holdAccess a arb) s [] [] [.hold] fun u =>
          u.hold = { (s.servedNow p).hold with outstanding := s.hold.outstanding ++ [p] }) ∧
        (arb.stalled = false →
          (a.write = true → ∃ u, exec (.holdAccess a arb) s = .next (u.respond a 0 false []) ∧
            Frame chaseFields (.hold :: chaseParts) s u ∧ s.storedBy u a) ∧
          (a.write = false → arb.ecc = 0 → w ∉ s.hold.uncorr → ∃ u data,
            exec (.holdAccess a arb) s = .next (u.respond a 0 false data) ∧ Frame [] [.hold] s u ∧ data.length = 32 ∧
            ∀ i, i < 32 → data.getD i 0 = s.holdByte (w + (i + a.rotate.val) % 32)) ∧
          (a.write = false → w ∈ s.hold.uncorr → ∃ u data,
            exec (.holdAccess a arb) s = .next ((u.raise 195).respond a 0x401 false data) ∧
            Frame [F.holdEccAddrAddr, F.holdEccUncorrCount] [.hold] s u ∧
            u.get F.holdEccAddrAddr = w / 32 ∧
            u.get F.holdEccUncorrCount = min (fieldMax F.holdEccUncorrCount) (s.get F.holdEccUncorrCount + 1) ∧
            data.length = 32 ∧ ∀ i, i < 32 → data.getD i 0 = s.holdByte (w + (i + a.rotate.val) % 32)))))) ∧
  (∀ (s : State) (a : HoldAccess) (arb : Arbitration) (q first second : Peer), s.inWinter = false → s.power.off = false →
    s.power.fabricOff = false → s.hold.window = none → arb.others = [q] →
    let p : Peer := ⟨a, arb.issued, arb.ecc, arb.stalled⟩
    (first = p ∧ second = q ∨ first = q ∧ second = p) →
    (∀ x ∈ [p, q], s.gateHolds x.acc = false ∧ s.mayHold x.acc.master.toNat (bankOf x.acc.addr.toNat) x.acc.write = true ∧
      s.frozen x.acc.master.toNat = false) →
    portA first.acc.master.toNat = portA second.acc.master.toNat → s.portTurn first < s.portTurn second →
    exec (.holdAccess a arb) s = .next (((s.conflict second.acc.master.toNat 1).servePeer first).servePeer second)) ∧
  (∀ (s : State) (p q : Peer), portClass p.acc.master.toNat < portClass q.acc.master.toNat → s.portTurn p < s.portTurn q)

/-- A collision of an access x of port A and y of port B, both admitted, raises event 194, drives the BUSY pin, keeps the address and both masters,
counts COLLISIONS and one wait for the later: the one issued later, y when both were issued in one cycle. Two writes: the earlier stores and then
the later. A read and a write: the write stores, and every byte that the read returns is the byte before or the byte after; a read that is the
later one is answered BUSY and made again; a later write is answered BUSY. An earlier read of an uncorrectable word is answered 0x401 and counted.
HOLD_BUSY_N_RELEASE releases the pin. [R236] -/
def Obligations.HoldCollisions : Prop :=
  ∀ (s : State),
    Yields .holdBusyNRelease s [] [] [.hold] (fun u => u.hold = { s.hold with busyPin := false }) ∧
    ∀ (a : HoldAccess) (arb : Arbitration) (x y : Peer),
      let w := wordOf x.acc.addr.toNat
      let earlier := if x.issued ≤ y.issued then x else y
      let later := if x.issued ≤ y.issued then y else x
      let count := F.holdConflictCount later.acc.master.toNat
      s.inWinter = false → s.power.off = false → s.power.fabricOff = false → s.hold.window = none →
      (⟨a, arb.issued, arb.ecc, arb.stalled⟩ :: arb.others = [x, y] ∨ ⟨a, arb.issued, arb.ecc, arb.stalled⟩ :: arb.others = [y, x]) →
      portA x.acc.master.toNat = true → portA y.acc.master.toNat = false →
      (∀ p ∈ [x, y], s.gateHolds p.acc = false ∧ s.mayHold p.acc.master.toNat (bankOf p.acc.addr.toNat) p.acc.write = true ∧
        s.frozen p.acc.master.toNat = false ∧ p.stalled = false) →
      collides x.acc y.acc = true →
      ∃ u, exec (.holdAccess a arb) s =
          .next (if later.acc.write then u.raise 194 else (u.raise 194).servePeer { later with ecc := 0 }) ∧
        u.hold.busyPin = true ∧ u.get F.holdCollAddrAddr = w / 32 ∧
        u.get F.holdCollMastersEarlier = earlier.acc.master.toNat ∧ u.get F.holdCollMastersLater = later.acc.master.toNat ∧
        u.get F.holdCollisionsCount = min (fieldMax F.holdCollisionsCount) (s.get F.holdCollisionsCount + 1) ∧
        u.get count = min (fieldMax count) (s.get count + 1) ∧
        (earlier.acc.write = true → later.acc.write = true → ∃ t, s.storedBy t earlier.acc ∧ t.storedBy u later.acc) ∧
        (later.acc.write = true → ¬ hostAccess later.acc → ∃ data, .holdResponse later.acc.master.toNat 0 true data ∈ u.out) ∧
        (x.ecc = 0 → y.ecc = 0 → w ∉ s.hold.uncorr →
          Frame ([count, F.holdCollisionsCount, F.holdCollAddrAddr, F.holdCollMastersEarlier, F.holdCollMastersLater] ++ chaseFields)
            ([.hold, .free] ++ chaseParts) s u ∧
          ∀ rd wr, (rd = x ∧ wr = y ∨ rd = y ∧ wr = x) → rd.acc.write = false → wr.acc.write = true →
            s.storedBy u wr.acc ∧
            (¬ hostAccess rd.acc → ∃ data, .holdResponse rd.acc.master.toNat 0 (decide (rd = later)) data ∈ u.out ∧ data.length = 32 ∧
              ∀ i, i < 32 → let at_ := w + (i + rd.acc.rotate.val) % 32
                data.getD i 0 = s.holdByte at_ ∨ data.getD i 0 = u.holdByte at_)) ∧
        (w ∈ s.hold.uncorr → earlier.acc.write = false →
          u.get F.holdEccAddrAddr = w / 32 ∧
          u.get F.holdEccUncorrCount = min (fieldMax F.holdEccUncorrCount) (s.get F.holdEccUncorrCount + 1) ∧
          (¬ hostAccess earlier.acc → ∃ data, .holdResponse earlier.acc.master.toNat 0x401 false data ∈ u.out))

/-- A START by a master that neither owns the bank nor is privileged is a violation with code 0x208; with an invalid target 0x403; while one is pending
0x402; to the present owner it is done at once with event 192; else it is pending with its gate closed. Drained, the bank has its new owner, code 0
and event 192, but not while a channel has an access in flight there; at the drain limit with accesses outstanding, those of channels too, they are
cut, event 193 and code 0x404, unless the last one answers in that clock; the accesses held go on, and a ferry that a structure has queued follows.
Nothing without a ferry. The model's choice: which accesses are outstanding (DEDUCED, notes/assumptions/26.md), the order in which held ones go on
(DESIGN CHOICE, notes/assumptions/97.md), and the free bytes of a write that was cut (DESIGN CHOICE, notes/assumptions/25.md).
[01_lararn_in_the_system.md R19; 11_the_hold.md R241, R242] -/
def Obligations.Ferries : Prop :=
  ∀ (s : State) (bank : Fin 256),
    (∀ (w : Writer) (target : BitVec 8), s.accepts w (R.holdFerry bank) = true →
      let start := Instr.ferryStart w bank target
      let valid := target.toNat = 0 ∨ target.toNat = 2 ∨ ownerOk target.toNat = true
      (privileged w = false → s.owner bank ≠ masterOf w → exec start s = .next (s.violate (masterOf w) 0x208 bank true)) ∧
      (privileged w = true ∨ s.owner bank = masterOf w →
        (¬ valid → Yields start s [] [F.holdFerryLastCode bank] [] fun u => u.get (F.holdFerryLastCode bank) = 0x403) ∧
        (valid → s.get (F.holdFerryPending bank) = 1 →
          Yields start s [] [F.holdFerryLastCode bank] [] fun u => u.get (F.holdFerryLastCode bank) = 0x402) ∧
        (valid → s.get (F.holdFerryPending bank) = 0 →
          (s.owner bank = target.toNat →
            Yields start s [192] [F.holdFerryTarget bank, F.holdFerryLastCode bank] [] fun u =>
              u.get (F.holdFerryTarget bank) = target.toNat ∧ u.get (F.holdFerryLastCode bank) = 0) ∧
          (s.owner bank ≠ target.toNat →
            Yields start s [] [F.holdFerryTarget bank, F.holdFerryPending bank] [.hold] fun u =>
              u.get (F.holdFerryTarget bank) = target.toNat ∧ u.get (F.holdFerryPending bank) = 1 ∧
              u.hold = { s.hold with ferries := s.hold.ferries ++ [⟨bank, s.owner bank, target.toNat⟩] })))) ∧
    (∀ f, s.hold.ferries.find? (·.bank == bank.val) = some f → f.target < 256 →
      let busy := ∃ p ∈ s.hold.outstanding, bankOf p.acc.addr.toNat = bank.val
      let dma := ∃ ch < 32, s.dmaAt ch bank = true
      let over_ (t : State) (code : Nat) (x : State) : Prop := ∃ u,
        Frame [F.holdOwnerOwner bank, F.holdFerryPending bank, F.holdFerryLastCode bank] [] t u ∧
        u.owner bank = f.target ∧ u.get (F.holdFerryPending bank) = 0 ∧ u.get (F.holdFerryLastCode bank) = code ∧
        let r := u.raise 192
        let v := { r with hold := { r.hold with ferries := r.hold.ferries.filter (· != f) } }
        (t.hold.structFerries.find? (·.1 == bank.val) = none → x = v.releaseHeld fun a => bankOf a.addr.toNat == bank.val) ∧
        (∀ q, t.hold.structFerries.find? (·.1 == bank.val) = some q →
          let y := ({ v with hold := { v.hold with structFerries := v.hold.structFerries.erase q } }).releaseHeld fun a =>
            bankOf a.addr.toNat == bank.val
          x = if y.owner bank = q.2 then y.ferryAtOnce bank else y.beginFerry bank q.2)
      (¬ dma → ∃ x, exec (.ferryDrained bank) s = .next (x.dmaGo s) ∧ over_ (s.drainBank bank) 0 x) ∧
      (dma → exec (.ferryDrained bank) s = .next s) ∧
      (busy ∨ dma → ∃ x, exec (.ferryDrainLimit bank false) s = .next (x.dmaGo s) ∧
        over_ (((List.range 32).foldl (fun t ch => t.cutChan ch bank f.oldOwner) (s.cutBank bank f.oldOwner)).raise 193) 0x404 x) ∧
      (¬ busy → ¬ dma → ∃ x, exec (.ferryDrainLimit bank false) s = .next (x.dmaGo s) ∧ over_ (s.drainBank bank) 0 x) ∧
      (∃ x, exec (.ferryDrainLimit bank true) s = .next (x.dmaGo s) ∧ over_ (s.drainBank bank) 0 x)) ∧
    (s.hold.ferries.find? (·.bank == bank.val) = none →
      exec (.ferryDrained bank) s = .next s ∧ ∀ met, exec (.ferryDrainLimit bank met) s = .next s)

/-- A request writes MODE, ALG and BG. While BUSY it is 0x410; with a bad range 0x411; destructive over a bank that the march engine does not own or that
a base lock holds 0x412; preserving over a NO_BORROW bank 0x413; otherwise the test begins, BUSY 1, a background window yielding first; a preserving
test takes its first window, a destructive one loses the contents of its banks. ABANDON ends a test under way with 0x415. A background window is taken
at the position, past a NO_BORROW bank, skipped and counted after eight yields in a row of its own. An access of any master held to the limit makes
the engine give the window up, unless it restores in that clock. The end of a clean background window moves the position and is 0x000; of a clean test
raises event 196, BUSY 0, and a destructive one leaves its banks 0, those locked since aside; failing reads are 0x414, the first of them in the order
of the test shown, each failing word counted; a read that is what the algorithm wrote is none. March C- has 10 operations on a word, the other
algorithm 14. The model's choice: the order of the elements, the failing bit shown, ALG and BG of a background window, a locked base map's banks
(DESIGN CHOICE, notes/assumptions/98.md), the free contents that a destructive test leaves (DESIGN CHOICE, notes/assumptions/25.md), and which event
an abandoned test raises (DEDUCED, notes/assumptions/27.md). [01_lararn_in_the_system.md R19; 11_the_hold.md R245, R246, R247, R248, R249, R250, R251] -/
def Obligations.MarchTests : Prop :=
  ∀ (s : State),
    (∀ (w : Writer) (pres alg bg : Bool), s.accepts w R.holdMarchCtrl = true →
      let fields := [F.holdMarchCtrlMode, F.holdMarchCtrlAlg, F.holdMarchCtrlBg]
      let set_ (u : State) : Prop := u.get F.holdMarchCtrlMode = pres.toNat ∧ u.get F.holdMarchCtrlAlg = alg.toNat ∧
        u.get F.holdMarchCtrlBg = bg.toNat
      let first := s.get F.holdMarchRangeFirst
      let count := s.get F.holdMarchRangeCount
      let inRange (b : Nat) : Prop := first ≤ b ∧ b < first + count
      let sound := 0 < count ∧ first + count ≤ 256
      (s.get F.holdMarchStatusBusy = 1 → Yields (.marchRequest w pres alg bg) s [] (F.holdMarchStatusLastCode :: fields) [] fun u =>
        set_ u ∧ u.get F.holdMarchStatusLastCode = 0x410) ∧
      (s.get F.holdMarchStatusBusy = 0 →
        (¬ sound → Yields (.marchRequest w pres alg bg) s [] (F.holdMarchStatusLastCode :: fields) [] fun u =>
          set_ u ∧ u.get F.holdMarchStatusLastCode = 0x411) ∧
        (sound → pres = false → (∃ b, inRange b ∧ (s.owner b ≠ 2 ∨ s.get (F.holdOwnerLocked b) = 1)) →
          Yields (.marchRequest w pres alg bg) s [] (F.holdMarchStatusLastCode :: fields) [] fun u =>
            set_ u ∧ u.get F.holdMarchStatusLastCode = 0x412) ∧
        (sound → pres = true → (∃ b, inRange b ∧ s.get (F.holdOwnerNoBorrow b) = 1) →
          Yields (.marchRequest w pres alg bg) s [] (F.holdMarchStatusLastCode :: fields) [] fun u =>
            set_ u ∧ u.get F.holdMarchStatusLastCode = 0x413) ∧
        (sound → (pres = false → ∀ b, inRange b → s.owner b = 2 ∧ s.get (F.holdOwnerLocked b) ≠ 1) → (pres = true → ∀ b, inRange b → s.get (F.holdOwnerNoBorrow b) = 0) →
          (∃ u, Frame fields [] s u ∧ set_ u ∧
            let v := if s.hold.window.isSome then (u.yieldWindow).afterWindow s.hold.window else u
            let x := v.put F.holdMarchStatusBusy 1
            let y := { x with hold := { x.hold with test := some ⟨pres, alg, bg, first, count, 2048 * first, x.cycleNow⟩ } }
            exec (.marchRequest w pres alg bg) s =
              .next (if pres then y.marchGo else (List.range count).foldl (fun t i => t.losebank (first + i)) y)) ∧
          (pres = true → s.hold.window = none →
            Yields (.marchRequest w pres alg bg) s [] (F.holdMarchStatusBusy :: fields) [.hold] fun u => set_ u ∧
              u.get F.holdMarchStatusBusy = 1 ∧ u.hold = { s.hold with
                window := some (2048 * first), test := some ⟨pres, alg, bg, first, count, 2048 * first, s.cycleNow⟩ }))) ∧
      ∀ fails, ∃ u, Frame fields [] s u ∧ set_ u ∧
        (s.hold.test = none → exec (.marchAbandon w pres alg bg fails) s = .next u) ∧
        (∀ m, s.hold.test = some m → exec (.marchAbandon w pres alg bg fails) s = .next (u.endTest m fails 0x415))) ∧
    (s.inWinter = false → s.get F.holdMarchBkgEn = 1 → s.hold.test = none → s.hold.window = none →
      let next_ (k : Nat) (u : State) : Prop := u.hold = { s.hold with
        yieldsInRow := k, window := some (u.get F.holdMarchPosBank * 2048 + u.get F.holdMarchPosWindow) }
      (s.get (F.holdOwnerNoBorrow (s.get F.holdMarchPosBank)) = 0 →
        (s.hold.yieldsInRow < 8 → Yields .marchBackgroundWindow s [] [] [.hold] (next_ s.hold.yieldsInRow)) ∧
        (8 ≤ s.hold.yieldsInRow → s.get F.holdMarchPosWindow < 2047 →
          Yields .marchBackgroundWindow s [] [F.holdMarchSkipsCount, F.holdMarchPosWindow, F.holdMarchPosBank] [.hold] fun u =>
            u.get F.holdMarchSkipsCount = min (fieldMax F.holdMarchSkipsCount) (s.get F.holdMarchSkipsCount + 1) ∧
            u.get F.holdMarchPosWindow = s.get F.holdMarchPosWindow + 1 ∧ u.get F.holdMarchPosBank = s.get F.holdMarchPosBank ∧
            next_ 0 u)) ∧
      (s.hold.yieldsInRow < 8 → s.get (F.holdOwnerNoBorrow (s.get F.holdMarchPosBank)) = 1 → ∀ t, s.openBank 256 = some t →
        Yields .marchBackgroundWindow s [] [F.holdMarchPosWindow, F.holdMarchPosBank] [.hold] fun u =>
          u.on (F.holdOwnerNoBorrow (u.get F.holdMarchPosBank)) = false ∧ next_ 0 u) ∧
      (s.hold.yieldsInRow < 8 → s.openBank 256 = none → exec .marchBackgroundWindow s = .next s)) ∧
    (s.get F.holdMarchBkgEn = 0 ∨ s.hold.test ≠ none ∨ s.hold.window ≠ none → exec .marchBackgroundWindow s = .next s) ∧
    (∀ w, s.hold.window = some w →
      let waits := s.windowWaited = true
      ((∃ h ∈ s.hold.held, s.windowHolds h.peer.acc.master.toNat h.peer.acc.addr.toNat 32 = true) → waits) ∧
      (∀ ch < 32, (∃ r ∈ s.dmaRuns ch, s.windowHolds (0x10 + ch) r.1 r.2 = true) → waits) ∧
      (waits → ∃ u, Frame [F.holdMarchYieldsCount] [.hold] s u ∧
        u.get F.holdMarchYieldsCount = min (fieldMax F.holdMarchYieldsCount) (s.get F.holdMarchYieldsCount + 1) ∧
        u.hold = { s.hold with window := none, yieldsInRow := s.hold.yieldsInRow + (if s.hold.test = none then 1 else 0) } ∧
        exec (.marchHoldLimit false) s = .next (u.afterWindow (some w))) ∧
      (¬ waits → exec (.marchHoldLimit false) s = .next s)) ∧
    exec (.marchHoldLimit true) s = .next s ∧
    (s.inWinter = false → s.power.off = false → s.power.fabricOff = false → ∀ fails,
      (∀ w, s.hold.test = none → s.hold.window = some w →
        let alg := s.on F.holdMarchCtrlAlg
        let bg := s.on F.holdMarchCtrlBg
        let l := orderFails true alg bg (failsIn false (2048 * w) (2048 * (w + 1)) fails)
        (l = [] → ∃ u, Frame [F.holdMarchPosWindow, F.holdMarchPosBank, F.holdMarchStatusLastCode] [.hold] s u ∧
          u.get F.holdMarchPosWindow = (s.get F.holdMarchPosWindow + 1) % 2048 ∧
          u.get F.holdMarchPosBank = (if s.get F.holdMarchPosWindow = 2047 then (s.get F.holdMarchPosBank + 1) % 256
            else s.get F.holdMarchPosBank) ∧
          u.get F.holdMarchStatusLastCode = 0 ∧ u.hold = { s.hold with window := none, yieldsInRow := 0 } ∧
          exec (.marchTestEnd fails) s = .next (u.afterWindow (some w))) ∧
        (l ≠ [] → exec (.marchTestEnd fails) s =
          let t := { s with hold := { s.hold with window := none } }
          .next ((((((t.noteFails l true alg bg).put F.holdMarchStatusLastCode 0x414).raise 197).nextWindow).afterWindow (some w))))) ∧
      (∀ m, s.hold.test = some m →
        (m.preserving = true → m.at_ < m.last → exec (.marchTestEnd fails) s = .next s) ∧
        (m.preserving = false ∨ m.last ≤ m.at_ → m.fails fails = [] →
          ∃ u, exec (.marchTestEnd fails) s = .next ((u.raise 196).afterWindow s.hold.window) ∧
            Frame [F.holdMarchStatusBusy, F.holdMarchStatusLastCode] [.hold] s u ∧
            u.get F.holdMarchStatusBusy = 0 ∧ u.get F.holdMarchStatusLastCode = 0 ∧ u.hold.test = none ∧ u.hold.window = none ∧
            (m.preserving = true → u.hold = { s.hold with test := none, window := none }) ∧
            ∀ a, u.holdByte a = if m.preserving = false ∧ m.first * 0x400000 ≤ a ∧ a < (m.first + m.count) * 0x400000 ∧
              s.get (F.holdOwnerLocked (a / 0x400000)) ≠ 1 then 0 else s.holdByte a) ∧
        (m.preserving = true → m.last ≤ m.at_ → m.fails fails ≠ [] →
          exec (.marchTestEnd fails) s = .next (s.endTest m fails 0x414)) ∧
        (m.preserving = false → m.fails fails ≠ [] → exec (.marchTestEnd fails) s =
          .next (((List.range m.count).foldl (fun u i => if u.on (F.holdOwnerLocked (m.first + i)) then u
            else u.clearRange ((m.first + i) * 0x400000) ((m.first + i + 1) * 0x400000)) s).endTest m fails 0x414)))) ∧
    (∀ fails pres alg bg f rest a, orderFails pres alg bg fails = f :: rest → f.unit = .word a →
      ∃ u, Frame [F.holdMarchFailAddr, F.holdMarchFailBitElement, F.holdMarchFailBitBit] [] s u ∧
        u.get F.holdMarchFailAddr = a.toNat / 32 ∧ u.get F.holdMarchFailBitElement = f.element ∧
        (∀ b, failBit f alg bg = some b → u.get F.holdMarchFailBitBit = b) ∧
        s.noteFails fails pres alg bg = (failWords (f :: rest)).foldl (fun t x =>
          let v := t.count F.holdMarchFaultsCount 1
          match x with
          | .word c =>
            (if pres && (f :: rest).any (fun g => g.unit == x && g.lost) then v.loseWord (wordOf c.toNat) else v).rowWorn
              (bankOf c.toNat) (rowOfAddr c.toNat) 4
          | .reliefRow .. | .reliefBank .. => v.badSpare x) u) ∧
    (∀ (f : MarchFail) alg bg op, (marchElement alg f.element).2[f.op.val]? = some op → op.expects bg (unitRow f.unit) = some f.read →
      failBit f alg bg = none) ∧
    marchOps false = 10 ∧ marchOps true = 14

/-- A repair command writes its fields. While one is under way it is refused with 0x422; a row in whose bank no good relief row is free 0x420; a bank with
no relief bank left 0x421; otherwise the repair begins, BUSY 1. The end of the copy puts the relief row or bank in service, changes ROWS_USED or
BANKS_FREE and RELIEF_BANK, forgets the worn rows and corrected reads it mends, ends with code 0, stores and logs the repair with the lowest good
spare not in use, raises event 200, lets the held accesses go, answers the mailbox that waits, finds a bank worn that has more worn rows than free
ones, and takes the next repair. The model's choice: relief rows and banks that failed are not free, and the lowest good spare is taken (DESIGN
CHOICE, notes/assumptions/98.md). [11_the_hold.md R252, R253, R254; 19_relief_and_aging.md R411, R414, R419] -/
def Obligations.Repairs : Prop :=
  ∀ (s : State),
    (∀ (w : Writer) (bank : Fin 256) (row : Fin 1024), s.accepts w R.holdRepairCmd = true →
      let free : Nat := 16 - s.hold.badRows.countP (·.1 == bank.val) - s.get (F.holdOwnerRowsUsed bank)
      let fields := [F.holdRepairCmdOp, F.holdRepairCmdBank, F.holdRepairCmdRow]
      let set_ (op : Nat) (u : State) : Prop := u.get F.holdRepairCmdOp = op ∧ u.get F.holdRepairCmdBank = bank ∧
        u.get F.holdRepairCmdRow = row
      let refused (c : Instr) (op code : Nat) : Prop := Yields c s [] (F.holdRepairStatusLastCode :: fields) [] fun u =>
        set_ op u ∧ u.get F.holdRepairStatusLastCode = code
      let begins (c : Instr) (op : Nat) (r : Repair) : Prop := Yields c s [] (F.holdRepairStatusBusy :: fields) [.hold] fun u =>
        set_ op u ∧ u.get F.holdRepairStatusBusy = 1 ∧ u.hold = { s.hold with repair := some r, repairCause := 0, repairSlot := none }
      (s.hold.repair ≠ none → refused (.repairRow w bank row) 1 0x422 ∧ refused (.repairBank w bank row) 2 0x422) ∧
      (s.hold.repair = none →
        (free = 0 → refused (.repairRow w bank row) 1 0x420) ∧
        (0 < free → begins (.repairRow w bank row) 1 (.row bank row)) ∧
        (s.get F.holdRepairStatusBanksFree = 0 → refused (.repairBank w bank row) 2 0x421) ∧
        (s.get F.holdRepairStatusBanksFree ≠ 0 → begins (.repairBank w bank row) 2 (.bank bank)))) ∧
    (s.hold.repair = none → exec .repairCopyDone s = .next s) ∧
    (∀ r, s.hold.repair = some r →
      let spareOf (bad : List Nat) (used : Nat) : Nat := ((List.range 16).filter fun i => !bad.contains i).getD used 16
      let done (u : State) (spare : Nat) (sel : HoldAccess → Bool) (judge : State → State) : Prop :=
        let x := (((u.storeRepairs).logRepair r spare s.hold.repairCause).raise 200).releaseHeld sel
        let y := match s.hold.repairSlot with
          | some k => if x.purser.current = some k then x.mboxDone k 0 0 [0] else x
          | none => x
        exec .repairCopyDone s = .next (judge y).nextRepair
      let ended (u : State) : Prop := u.get F.holdRepairStatusBusy = 0 ∧ u.get F.holdRepairStatusLastCode = 0
      (∀ (b : Fin 256) row, r = .row b row → s.get (F.holdOwnerRowsUsed b) < 16 →
        ∃ u, Frame [F.holdOwnerRowsUsed b, F.holdRepairStatusBusy, F.holdRepairStatusLastCode] [.hold, .relief] s u ∧ ended u ∧
          u.get (F.holdOwnerRowsUsed b) = s.get (F.holdOwnerRowsUsed b) + 1 ∧
          u.hold = { s.hold with repair := none, repairSlot := none, reliefRows := s.hold.reliefRows ++ [(b.val, row)] } ∧
          u.relief = { s.relief with wornRows := s.relief.wornRows.filter (· != (b.val, row)),
                                     ecc := s.relief.ecc.filter (·.1 != b.val * 1024 + row) } ∧
          done u (spareOf (s.badRowsOf b) (s.get (F.holdOwnerRowsUsed b))) (fun a =>
            bankOf a.addr.toNat == b.val && rowOfAddr a.addr.toNat == row) fun y => y.judgeBank b s.hold.repairCause) ∧
      (∀ b : Fin 256, r = .bank b → 0 < s.get F.holdRepairStatusBanksFree →
        ∃ u, Frame [F.holdOwnerReliefBank b, F.holdRepairStatusBanksFree, F.holdRepairStatusBusy, F.holdRepairStatusLastCode] [.hold, .relief] s u ∧
          ended u ∧ u.get (F.holdOwnerReliefBank b) = 1 ∧ u.get F.holdRepairStatusBanksFree = s.get F.holdRepairStatusBanksFree - 1 ∧
          u.hold = { s.hold with repair := none, repairSlot := none, reliefBanks := s.hold.reliefBanks ++ [b.val] } ∧
          u.relief = { s.relief with wornRows := s.relief.wornRows.filter (·.1 != b.val), wornBanks := s.relief.wornBanks.filter (· != b.val) } ∧
          done u (spareOf s.hold.badBanks s.hold.reliefBanks.length) (fun _ => false) fun y => y))

/-- A write of DMAn_CTRL obeys one of the bits it sets: ABORT, else RESUME, else START; a frozen channel refuses it with 0x323. START of a held channel is
0x321, of a busy one 0x320, without a written descriptor address 0x302; of an IDLE one it is RUNNING with its current descriptor and a fetch of it.
ABORT of an IDLE or ABORTING channel does nothing; of a RUNNING one it is ABORTING; of a HALTED one it drops what is left and writes the status, or
stops. RESUME is 0x322 unless the channel is HALTED in no descending run; a held one goes back to its stage; otherwise the channel runs again from the
descriptor or the transfer it halted on. The model's choice: what is wanted next and how a chain is left (DEDUCED, notes/assumptions/59.md), the codes
of unwritten pointers and the state of a held channel that has ended (DEDUCED, notes/assumptions/60.md), and that requests go out as early as the
rules allow (DESIGN CHOICE, notes/assumptions/58.md). [12_dma.md R257, R259, R273, R275, R276, R277, R278] -/
def Obligations.DmaCommands : Prop :=
  ∀ (s : State) (w : Writer) (ch : Fin 32) (c : DmaState) (data : Word), s.accepts w (R.dmaCtrl ch) = true → s.dma[ch.val]? = some c →
    let start := Instr.dmaStart w ch data
    let abort := Instr.dmaAbort w ch data
    let resume := Instr.dmaResume w ch data
    let refused (i : Instr) (code : Nat) : Prop := Yields i s [] [F.dmaStatusLastCode ch] [] fun u => u.get (F.dmaStatusLastCode ch) = code
    let ready := s.isWritten (R.dmaDescLo ch) = true ∧ s.isWritten (R.dmaDescHi ch) = true
    let descends := ∃ x, c.xfer = some x ∧ x.started = true ∧ x.descends = true
    let state := s.get (F.dmaStatusState ch)
    let dropped : DmaState := { c with
      fetch := none, fetching := false,
      lost := c.lost ++ (if c.fetching then (match c.fetch with | some p => [p.2] | none => []) else []) }
    (data.getLsbD 1 = true → exec start s = exec abort s ∧ exec resume s = exec abort s) ∧
    (data.getLsbD 2 = true → exec start s = exec resume s) ∧
    (s.frozen (0x10 + ch) = true → refused start 0x323 ∧ refused abort 0x323 ∧ refused resume 0x323) ∧
    (s.frozen (0x10 + ch) = false →
      (data.getLsbD 1 = false → data.getLsbD 2 = false →
        (s.get (F.dmaStatusHeld ch) = 1 → refused start 0x321) ∧
        (s.get (F.dmaStatusHeld ch) = 0 →
          (state ≠ 0 → refused start 0x320) ∧
          (state = 0 → ¬ ready → refused start 0x302) ∧
          (state = 0 → ready → ∃ u, exec start s = .next (u.dmaGo s) ∧
            Frame [F.dmaStatusState ch, F.dmaCurLoAddr ch, F.dmaCurHiAddr ch, F.dmaCurLoSpace ch] [.channel ch, .out] s u ∧
            u.get (F.dmaStatusState ch) = 1 ∧ u.get (F.dmaCurLoAddr ch) = s.get (F.dmaDescLoAddr ch) ∧
            u.get (F.dmaCurHiAddr ch) = s.get (F.dmaDescHiAddr ch) ∧ u.get (F.dmaCurLoSpace ch) = s.get (F.dmaDescLoSpace ch) ∧
            u.dma[ch.val]? = some { c with fetch := some (64 * s.get (F.dmaDescLoAddr ch) + 2 ^ 32 * s.get (F.dmaDescHiAddr ch), s.on (F.dmaDescLoSpace ch)) }))) ∧
      (state = 0 ∨ state = 2 → exec abort s = .next s) ∧
      (state = 1 →
        (c.xfer = none → c.fetching = false → ∃ u, exec abort s = .next (u.dmaGo s) ∧ ∃ v, Frame [F.dmaStatusState ch] [] s v ∧
          v.get (F.dmaStatusState ch) = 2 ∧ u = v.chanStop ch 0x301) ∧
        (c.xfer = none → c.fetching = true → ∃ u, exec abort s = .next (u.dmaGo s) ∧
          Frame [F.dmaStatusState ch, F.dmaStatusLastCode ch] [] s u ∧ u.get (F.dmaStatusState ch) = 2 ∧ u.get (F.dmaStatusLastCode ch) = 0x301) ∧
        (∀ x, c.xfer = some x → ∃ u, exec abort s = .next (u.dmaGo s) ∧
          Frame [F.dmaStatusState ch] [.channel ch] s u ∧ u.get (F.dmaStatusState ch) = 2 ∧
          u.dma[ch.val]? = some (if x.started = true ∧ x.next = x.total
            then { c with stopAfter := true, got := none, fetch := if c.fetching then c.fetch else none } else c))) ∧
      (state = 3 →
        (c.xfer = none → exec abort s = .next ((s.chanStop ch c.halt).dmaGo s)) ∧
        (∀ x, c.xfer = some x → s.get (F.dmaFaultDirDesc ch) = 1 → exec abort s = .next (((s.dropChunks ch x).chanStop ch c.halt).dmaGo s)) ∧
        (∀ x, c.xfer = some x → s.get (F.dmaFaultDirDesc ch) = 0 → ∃ u, Frame [F.dmaStatusState ch] [] s u ∧ u.get (F.dmaStatusState ch) = 2 ∧
          exec abort s = .next (((u.dropChunks ch x).writeStatus ch { x with code := c.halt }).dmaGo s))) ∧
      (data.getLsbD 1 = false →
        (state ≠ 3 ∨ descends → refused resume 0x322) ∧
        (state = 3 → ¬ descends →
          (s.get (F.dmaStatusHeld ch) = 1 → ∃ u, exec resume s = .next (u.dmaGo s) ∧ Frame [F.dmaStatusState ch] [] s u ∧
            u.get (F.dmaStatusState ch) = 0) ∧
          (s.get (F.dmaStatusHeld ch) = 0 → ∃ t, Frame [F.dmaStatusState ch] [.out] s t ∧ t.get (F.dmaStatusState ch) = 1 ∧
            t.out = (s.sendLtr 20000).out ∧
            let again (u v : State) : Prop := Frame [] [.channel ch] u v ∧
              ∃ k, u.dma[ch.val]? = some k ∧ v.dma[ch.val]? = some { k with
                xfer := none, got := none, fetch := some (s.curPtr ch), fetching := false, lost := dropped.lost }
            (c.xfer = none → c.fetching = true → exec resume s = .next (t.dmaGo s)) ∧
            (c.xfer = none → c.fetching = false → ∃ u, again t u ∧ exec resume s = .next (u.dmaGo s)) ∧
            (∀ x, c.xfer = some x → s.get (F.dmaFaultDirDesc ch) = 1 → ∃ u, again (t.dropChunks ch x) u ∧ exec resume s = .next (u.dmaGo s)) ∧
            (∀ x, c.xfer = some x → s.get (F.dmaFaultDirDesc ch) = 0 →
              exec resume s = .next ((if x.started then t.dropChunks ch x else t.startXfer ch).dmaGo s))))))

/-- The answer to a fetch since given up is discarded. A fetched descriptor goes on when it is good, from the host or the Hold, and halts with its code
otherwise. A read completion gives its chunk the data, or halts with 0x310 and the like; an orphan is dropped; a read in the Hold takes the bytes that
the Hold gives or halts with 0x314 at its uncorrectable word, with what its accesses meet at the ports, where a later one, which has BUSY, has read
again. A Hold response stores the chunk or the status, or halts. A flush read raises DMA_HALF at the half point and lets the status go out at the end,
or halts at the address it read. A completion timeout halts with 0x312, unless the completion comes in that clock; it and a poisoned completion are
logged as errors of the channel's function. A rate window fills the bucket of a limited channel. The model's choice: the code of a wrong length
(DEDUCED, notes/assumptions/60.md), requests and what they meet (DESIGN CHOICE, notes/assumptions/58.md), poisoned data is discarded (DEDUCED,
notes/assumptions/84.md), the bits logged in AER (PRESUMED, notes/assumptions/86.md). [01_lararn_in_the_system.md R19; 11_the_hold.md R234;
12_dma.md R260, R261, R265, R267, R268, R269, R274, R276, R277; 16_host_interface.md R373] -/
def Obligations.DmaAnswers : Prop :=
  ∀ (s : State) (ch : Fin 32) (c : DmaState), s.dma[ch.val]? = some c →
    let go (i : Instr) (u : State) : Prop := exec i s = .next (u.dmaGo s)
    let chunked (x : DmaXfer) (j : Nat) (g : DmaChunk → DmaChunk) : DmaState := { c with xfer := some { x with chunks := updAt x.chunks j g } }
    let hostCode (reply : BusReply) (data : List Byte) (n : Nat) : Nat :=
      if replyCode false reply = 0 ∧ data.length ≠ n then 0x310 else replyCode false reply
    let m := 0x10 + ch.val
    let met (i : Instr) (u : State) : Prop := go i u.closePort
    let logged (reply : BusReply) : State := s.aerReply (s.chanFn ch) reply
    let late := s.timedOut ch
    (∀ reply data port hold rest, c.lost = hold :: rest →
      ∃ u, (if hold then Frame [] [.channel ch] s u else (logged reply).answered ch [.channel ch] u) ∧ u.dma[ch.val]? = some { c with lost := rest } ∧
        go (.descriptorFetched ch reply data port) u) ∧
    (∀ reply data port a, c.lost = [] → c.fetch = some (a, false) → c.fetching = true →
      ∃ t x, (logged reply).answered ch [] t ∧ t.fetchEnds ch c (a, false) (hostCode reply data 64) data x ∧
        go (.descriptorFetched ch reply data port) x) ∧
    (∀ reply data port a, c.lost = [] → c.fetch = some (a, true) → c.fetching = true →
      let cmd := Instr.descriptorFetched ch reply data port
      let r := (s.openPort (· == m) port).readWhole m a 64
      (∀ b, r.1 = .ok b → ∃ x, r.2.fetchEnds ch c (a, true) 0 b x ∧ met cmd x) ∧
      (∀ w, r.1 = .error w → ∃ x, r.2.fetchEnds ch c (w, true) 0x314 [] x ∧ met cmd x)) ∧
    (∀ i reply data port, i < c.orphans → ∃ u, (logged reply).answered ch [.channel ch] u ∧
      u.dma[ch.val]? = some { c with orphans := c.orphans - 1 } ∧ go (.dmaReadCompletion ch i reply data port) u) ∧
    (∀ i reply data port x j k, c.orphans ≤ i → c.xfer = some x → (x.inPhase 0)[i - c.orphans]? = some j → x.chunks[j]? = some k →
      let a := x.srcAt (x.place k.off k.len)
      let cmd := Instr.dmaReadCompletion ch i reply data port
      let failed (u : State) : Prop := u.dma[ch.val]? = some (chunked x j fun k => { k with phase := 4 })
      (x.srcHold = false → ∃ u, (logged reply).answered ch [.channel ch] u ∧
        (hostCode reply data k.len = 0 → u.dma[ch.val]? = some (chunked x j fun k => { k with phase := 1, data := data }) ∧ go cmd u) ∧
        (hostCode reply data k.len ≠ 0 → failed u ∧ go cmd (u.chanHalt ch (hostCode reply data k.len) a false false false))) ∧
      (x.srcHold = true →
        let r := (s.openPort (· == m) port).readWhole m a k.len
        (∀ b, r.1 = .ok b → ∃ u, Frame [] [.channel ch] r.2 u ∧
          u.dma[ch.val]? = some (chunked x j fun y => { y with phase := 1, data := b }) ∧ met cmd u) ∧
        (∀ w, r.1 = .error w → ∃ u, Frame [] [.channel ch] r.2 u ∧ failed u ∧ met cmd (u.chanHalt ch 0x314 (max a w) false true false)))) ∧
    (∀ i port x, c.xfer = some x →
      let cmd := Instr.dmaHoldResponse ch i port
      let t := s.openPort (· == m) port
      let barred (a n : Nat) : Prop := t.firstBarred m a n true ≠ none
      (x.phase = 2 →
        let a := (s.curPtr ch).1 + 0x30
        (barred a 12 → ∃ u, Frame [] [.channel ch] t u ∧ u.dma[ch.val]? = some { c with xfer := some { x with phase := 0 } } ∧
          met cmd (u.chanHalt ch 0x314 a true true true)) ∧
        (¬ barred a 12 → met cmd ((t.writeRun m a (s.statusBytes ch x)).xferEnd ch x))) ∧
      (∀ j k, x.phase ≠ 2 → (x.inPhase 2)[i]? = some j → x.chunks[j]? = some k →
        let a := x.dstAt (x.place k.off k.len)
        (barred a k.len → ∃ u, Frame [] [.channel ch] t u ∧ u.dma[ch.val]? = some (chunked x j fun k => { k with phase := 4 }) ∧
          met cmd (u.chanHalt ch 0x314 a true true false)) ∧
        (¬ barred a k.len → met cmd (((t.writeRun m a k.data).setChunk ch j fun k => { k with phase := 3 }).advance ch)))) ∧
    (∀ reply x, c.xfer = some x →
      let cmd := Instr.flushReadComplete ch reply
      let code := replyCode false reply
      (x.half = 1 → ∃ u, (logged reply).answered ch [.channel ch] u ∧
        (code = 0 → u.dma[ch.val]? = some { c with xfer := some { x with half := 2 } } ∧ go cmd (u.raise (128 + ch))) ∧
        (code ≠ 0 → u.dma[ch.val]? = some { c with xfer := some { x with half := 0 } } ∧
          go cmd (u.chanHalt ch code x.halfFlush false false true))) ∧
      (x.half ≠ 1 → x.phase = 1 → ∃ u, (logged reply).answered ch [.channel ch] u ∧
        u.dma[ch.val]? = some { c with xfer := some { x with phase := 0 } } ∧
        (code = 0 → s.chanStopped ch = false → go cmd (u.writeStatus ch x)) ∧
        (code = 0 → s.chanStopped ch = true → go cmd u) ∧
        (code ≠ 0 → go cmd (u.chanHalt ch code x.flush false false true))) ∧
      (x.half ≠ 1 → x.phase ≠ 1 → exec cmd s = .next s)) ∧
    (∀ i, exec (.completionTimeout ch i true) s = .next s) ∧
    (∀ i, i < c.lost.countP (!·) → ∃ u, late.answered ch [.channel ch] u ∧ u.dma[ch.val]? = some { c with lost := c.lost.erase false } ∧
      go (.completionTimeout ch i false) u) ∧
    (∀ a, c.lost.countP (!·) = 0 → c.fetch = some (a, false) → c.fetching = true →
      ∃ t x, late.answered ch [] t ∧ t.fetchEnds ch c (a, false) 0x312 [] x ∧ go (.completionTimeout ch 0 false) x) ∧
    (∀ i, c.lost.countP (!·) = 0 → c.fetching = false →
      let cmd := Instr.completionTimeout ch i false
      (i < c.orphans → ∃ u, late.answered ch [.channel ch] u ∧ u.dma[ch.val]? = some { c with orphans := c.orphans - 1 } ∧ go cmd u) ∧
      (∀ x j k, c.orphans ≤ i → c.xfer = some x → x.srcHold = false → (x.inPhase 0)[i - c.orphans]? = some j → x.chunks[j]? = some k →
        ∃ u, late.answered ch [.channel ch] u ∧ u.dma[ch.val]? = some (chunked x j fun k => { k with phase := 4 }) ∧
          go cmd (u.chanHalt ch 0x312 (x.srcAt (x.place k.off k.len)) false false false)) ∧
      (∀ x, i = 0 → c.orphans = 0 → c.xfer = some x → x.srcHold = true → x.half = 1 → ∃ u, late.answered ch [.channel ch] u ∧
        u.dma[ch.val]? = some { c with xfer := some { x with half := 0 } } ∧
        go cmd (u.chanHalt ch 0x312 x.halfFlush false false true)) ∧
      (∀ n y read, c.xfer = none → c.orphans ≤ i → (s.ledgerOut ch)[i - c.orphans]? = some (n, y, read) →
        go cmd (late.ledgerTimeout n y read))) ∧
    (∃ t, Frame [] ((List.range 32).map .channel) s t ∧ go .rateWindow t ∧
      t.dma[ch.val]? = some (if s.on (F.dmaRateEn ch) then { c with tokens := min (s.bucketMax ch) (c.tokens + s.bucketGain ch) } else c)) ∧
    (∀ a l b, (s.storeRun a l).holdByte b = if a ≤ b ∧ b < a + l.length then l.getD (b - a) 0 else s.holdByte b)

/-- LINK and TIME flits are due on ports that are active, and up or in standby. A lost marker or LINK flit, unless it comes in that clock, takes an UP
port DOWN, counted, with event 513, the ring broken there and the time source lost if it was there and no other port leads to it; a STANDBY port goes
DOWN silently; either looks for its partner anew, its markers, LINK flit, generators and residual counts begun again. START of a Boarding while one
runs is 0x542; else the unit is the root with address 1, a raised epoch, cleared views and BUSY. Its timeout ends with 0x541, or 0x544 after a
conflict. RESTORE of a broken ring whose port is in STANDBY sends the flit and closes the ring. A data view lapses one second after its last data, and
is judged. The model's choice: a second break and lost frames (DESIGN CHOICE, notes/assumptions/94.md), the flits sent when a port comes UP again
(DESIGN CHOICE, notes/assumptions/107.md), HOPS of BOARDED (DEDUCED, notes/assumptions/69.md). [01_lararn_in_the_system.md R19; 10_lane_calibration.md
R230; 14_ndoben_chain.md R301, R303, R304, R309, R310, R311, R312, R313, R314] -/
def Obligations.ChainPortsAndBoarding : Prop :=
  ∀ (s : State),
    (∀ p : Fin 3,
      let residues := (List.range 5).map fun k => F.chnrxResidCount p k
      (s.portSt p ≠ 0 → Yields (.linkFlitDue p) s [] [] [.chain] fun u =>
        u.chain = { s.chain with ports := updAt s.chain.ports p fun x => { x with linkDue := true } }) ∧
      (s.portSt p = 0 → exec (.linkFlitDue p) s = .next s) ∧
      (s.portSt p = 2 ∨ s.portSt p = 3 → Yields (.timeFlitDue p) s [] [] [.chain] fun u =>
        u.chain = { s.chain with ports := updAt s.chain.ports p fun x => { x with timeDue := true } }) ∧
      (s.portSt p ≠ 2 → s.portSt p ≠ 3 → exec (.timeFlitDue p) s = .next s) ∧
      ∀ c ∈ [Instr.markerLossTimeout p, Instr.linkFlitTimeout p],
        let down := updAt s.chain.ports p fun x => { x with
          goodMarks := 0, lastMark := none, linkSeen := false, rxGen := List.replicate 4 none, rxOk := false, rxKeys := [], linkDue := true,
          seen := none, sentTimes := [] }
        let seeks (u : State) : Prop := u.portSt p = 4 ∧ u.chain = { s.chain with ports := down } ∧ ∀ f ∈ residues, u.get f = 0
        exec (c true) s = .next s ∧
        (s.portSt p = 2 → ∃ u, Frame (F.chnpStatusState p :: F.chnpDownsCount p :: residues) [.chain] s u ∧ seeks u ∧
          u.get (F.chnpDownsCount p) = min (fieldMax (F.chnpDownsCount p)) (s.get (F.chnpDownsCount p) + 1) ∧
          let x := (u.raise 513).ringBreak p
          exec (c false) s = .next (if s.timeRole = 2 ∧ s.timePort = p ∧ x.portSt x.timePort ≠ 2 then x.loseSource 0x603 else x)) ∧
        (s.portSt p = 3 → Yields (c false) s [] (F.chnpStatusState p :: residues) [.chain] seeks) ∧
        (s.portSt p ≠ 2 → s.portSt p ≠ 3 → exec (c false) s = .next s)) ∧
    (∀ (w : Writer) (ms : BitVec 16), s.accepts w R.chnBoard = true →
      (s.get F.chnBoardStatusBusy = 1 → Yields (.boardStart w ms) s [] [F.chnBoardTimeoutMs, F.chnBoardStatusLastCode] [] fun u =>
        u.get F.chnBoardTimeoutMs = ms.toNat ∧ u.get F.chnBoardStatusLastCode = 0x542) ∧
      (s.get F.chnBoardStatusBusy = 0 → ∃ u, exec (.boardStart w ms) s = .next ((u.tokenOn 2).showTimePort) ∧
        Frame [F.chnBoardTimeoutMs, F.chnAddrAddr, F.chnAddrRoot, F.chnTopoUpstream, F.chnTopoTopology, F.chnTopoRingState, F.chnpStatusRole 0,
          F.chnpStatusRole 1, F.chnpStatusRole 2, F.chnBoardStatusBusy, F.chnBoardStatusUnits] [.chain] s u ∧
        u.get F.chnBoardTimeoutMs = ms.toNat ∧ u.chainAddr = 1 ∧ u.get F.chnAddrRoot = 1 ∧ u.get F.chnBoardStatusBusy = 1 ∧
        u.get F.chnBoardStatusUnits = 0 ∧ u.get F.chnTopoUpstream = 3 ∧ u.get F.chnTopoRingState = 0 ∧
        u.chain.epoch = (s.chain.epoch + 1) % 65536 ∧ u.chain.root = Config.serial.toNat ∧ u.chain.mgmt = [] ∧ u.chain.data = [] ∧
        u.chain.broken = [] ∧ u.chain.conflict = false ∧ u.chain.heldRoot = none ∧
        u.chain.ports = s.chain.ports.map fun x => { x with linkDue := true })) ∧
    exec (.boardTimeout true) s = .next s ∧
    (s.get F.chnBoardStatusBusy = 1 → Yields (.boardTimeout false) s [] [F.chnBoardStatusBusy, F.chnBoardStatusLastCode] [.chain] fun u =>
      u.get F.chnBoardStatusBusy = 0 ∧ u.get F.chnBoardStatusLastCode = (if s.chain.conflict then 0x544 else 0x541) ∧
      u.chain = { s.chain with conflict := false, onC := false, heldRoot := none }) ∧
    (s.get F.chnBoardStatusBusy = 0 → exec (.boardTimeout false) s = .next s) ∧
    (∀ w, s.accepts w R.chnRing = true →
      ((∀ p ∈ s.chain.broken, s.portSt p ≠ 3) → exec (.ringRestore w) s = .next s) ∧
      (∀ p, s.chain.broken.find? (fun p => s.portSt p == 3) = some p → exec (.ringRestore w) s =
        let q := s.takeSeq 6
        .next ((q.2.sendOwn [1 - p] false (shortFlit 6 0 0xFFFF s.chainAddr q.1
          (leBytes 2 s.chainAddr ++ leBytes 2 (s.get (F.chnpStatusPeer p))))).closeRing))) ∧
    (∀ a : BitVec 16,
      exec (.dataViewLapse a true) s = .next s ∧
      (s.dataView a.toNat = none → exec (.dataViewLapse a false) s = .next s) ∧
      (∀ d, s.dataView a.toNat = some d →
        (s.time.ticks < d.at_ + 250000000 → exec (.dataViewLapse a false) s = .next s) ∧
        (d.at_ + 250000000 ≤ s.time.ticks → ∃ u, Frame [] [.chain] s u ∧
          exec (.dataViewLapse a false) s = .next ((u.judgeViews a.toNat).showTimePort) ∧
          u.chain = { s.chain with data := s.chain.data.filter fun x => x.addr != a.toNat } ∧ u.dataView a.toNat = none)))

/-- With the part powered and out of Winter: a port not active receives nothing. A received slot follows the markers, and may bring the port UP; its bits
are descrambled once the generators are loaded and confirmed, and lost before. A bad flit counts a CRC error; a good one goes by its type to the link,
time, Boarding or data handling, the latter on an UP port only; types 0 and above 10 are dropped. A pixel group is descrambled, counts its corrected
and uncorrectable codewords and delivers its flits, empty ones apart. A sub-round puts out the due flit's levels with the scrambler run on, idle when
nothing is due, and moves the round on; the first of a round takes a group of flits, all IDLE on a port that is not UP. The additive scrambler undoes
itself. The model's choice: where the scrambler stands as a port begins (DESIGN CHOICE, notes/assumptions/71.md), when the receive generators load
together (DESIGN CHOICE, notes/assumptions/94.md), the flits sent when a port comes UP again (DESIGN CHOICE, notes/assumptions/107.md), the byte order
of flits (DEDUCED, notes/assumptions/69.md). [14_ndoben_chain.md R299, R300, R301, R302, R303, R304, R305, R306, R308] -/
def Obligations.ChainSubRounds : Prop :=
  (∀ g l, additive g (additive g l).1 = (l, (additive g l).2)) ∧
  ∀ (s : State) (p : Fin 3) (x : PortState), s.power.off = false → s.inWinter = false → s.chain.ports[p.val]? = some x →
    (∀ raw,
      (x.rxOk = false → (s.descramble p raw).1 = none) ∧
      (∀ gens : List Nat, gens.length = 4 → x.rxOk = true → x.rxGen = gens.map some →
        (s.descramble p raw).1 = some ((List.range 4).map fun l => bytesOfBits 12 (additive (gens.getD l 0) (shortBits raw l)).1).flatten) ∧
      Frame [] [.chain] s (s.descramble p raw).2) ∧
    (∀ marks skew raw (sub : BitVec 35),
      let cmd := Instr.shortFlitReceived p marks skew raw sub
      (s.portSt p = 0 → exec cmd s = .next s) ∧
      (s.portSt p ≠ 0 → ∃ m, Frame [] [.chain] s m ∧
        m.chain.ports[p.val]? = some (match markPlace marks with
          | none => { x with goodMarks := 0, lastMark := none }
          | some k =>
            let next := x.lastMark.any fun l => (l + 1) % 40 == k
            { x with goodMarks := if next then min 64 (x.goodMarks + 1) else 1, lastMark := some k }) ∧
        let r := (m.portComes p skew).descramble p raw
        (r.1 = none → exec cmd s = .next r.2) ∧
        (∀ flit, r.1 = some flit →
          let t := r.2
          let type := flitType flit
          let leaves (u : State) : Prop := exec cmd s = .next u.showTimePort
          (flitGood flit = false → ∃ u, Frame [F.chnpShortErrsCrc p] [] t u ∧ leaves u ∧
            u.get (F.chnpShortErrsCrc p) = min (fieldMax (F.chnpShortErrsCrc p)) (t.get (F.chnpShortErrsCrc p) + 1)) ∧
          (flitGood flit = true →
            (type = 2 → leaves (t.rxLink p skew flit)) ∧
            (type = 1 → t.portSt p = 2 ∨ t.portSt p = 3 → leaves (t.rxTime p flit sub.toNat)) ∧
            (type = 3 → t.portSt p = 2 → leaves (t.rxToken p flit)) ∧
            (4 ≤ type → type ≤ 10 → t.portSt p = 2 → leaves (t.passFlit p flit)) ∧
            (type = 0 ∨ 10 < type → leaves t) ∧
            (type ≠ 1 → type ≠ 2 → t.portSt p ≠ 2 → leaves t))))) ∧
    (∀ lanes : List (List (BitVec 10)),
      let cmd := Instr.pixelGroupReceived p lanes
      let plain := (List.range 4).map fun l => descrambleSlots (x.rxKeys.map (·.getD l 0)) ((lanes.getD l []).map (·.toNat))
      let r := groupDecode plain
      (s.portSt p ≠ 2 → exec cmd s = .next s) ∧
      (s.portSt p = 2 → ∃ t, Frame [F.chnpFecCorrCount p, F.chnpFecUncorrCount p] [] s t ∧
        t.get (F.chnpFecCorrCount p) = min (fieldMax (F.chnpFecCorrCount p)) (s.get (F.chnpFecCorrCount p) + r.2.1) ∧
        t.get (F.chnpFecUncorrCount p) = min (fieldMax (F.chnpFecUncorrCount p)) (s.get (F.chnpFecUncorrCount p) + r.2.2) ∧
        (r.1 = none → exec cmd s = .next t) ∧
        (∀ l, r.1 = some l → (∀ f ∈ l, leAt f 0 2 = 0) → exec cmd s = .next t.showTimePort) ∧
        (∀ l, r.1 = some l → exec cmd s = .next ((l.filter fun f => leAt f 0 2 != 0).foldl (fun t f => t.rxPixel p f) t).showTimePort))) ∧
    (∀ sub : BitVec 35,
      let cmd := Instr.chainSubRound p sub
      let levels (y : PortState) (f : List Byte) (l : Nat) : List Nat × Nat := subRoundLevels f l y.sub y.round (y.scr.getD l 0) (y.group.getD l [])
      let sent (y : PortState) (f : List Byte) (before : List Out) (u : State) : Prop :=
        u.out = .subRound p f ((List.range 4).map fun l => (levels y f l).1) :: before ∧
        u.chain.ports[p.val]? = some { y with scr := (List.range 4).map (fun l => (levels y f l).2), sub := (y.sub + 1) % 5, round := if y.sub = 4 then (y.round + 1) % 8 else y.round }
      let empty : List (List Byte) := List.replicate 5 (List.replicate 256 0)
      (s.portSt p = 0 → exec cmd s = .next s) ∧
      (s.portSt p ≠ 0 → x.sub ≠ 0 →
        (x.linkDue = false → s.portSt p ≠ 2 → s.portSt p ≠ 3 → Yields cmd s [] [] [.chain, .out] (sent x idleFlit s.out)) ∧
        (x.linkDue = false → x.timeDue = false → x.queue = [] → Yields cmd s [] [] [.chain, .out] (sent x idleFlit s.out)) ∧
        (x.linkDue = false → x.timeDue = false → s.portSt p = 2 → ∀ q rest, x.queue = q :: rest → q.cls = 0 → q.host = false →
          Yields cmd s [] [] [.chain, .out] (sent { x with queue := rest } q.bytes s.out))) ∧
      (s.portSt p ≠ 0 → s.portSt p ≠ 2 → x.sub = 0 → x.linkDue = false → x.timeDue = false → (∀ n, n < 4 → (s.txs n).frames = []) →
        Yields cmd s [] [F.chnpCreditsOutstanding p] [.chain, .out]
          (sent { x with group := lanesOfWords (groupWords empty) } idleFlit (.pixelGroup p empty :: s.out))))

/-- A remote READ or WRITE to an address in no range that a rights entry of the master gives is a violation with code 0x206; while one is under way it is
0x549; to no route it ends with 0x545 and event 518; over a port without right 0x547; otherwise the flit with the next sequence number goes out and
the access waits. RA_TIMEOUT ends it with 0x546, unless the answer comes in that clock. SENSOR_TX sends its flit with the temperature and the index;
without a route it is refused with 0x545, shown where the model chooses (DESIGN CHOICE, notes/assumptions/94.md). Sequence numbers of a type go up by
one, modulo 65,536. The model's choice: an answer carries a number of its own and is matched by the unit that answers, byte order (DEDUCED,
notes/assumptions/69.md). [01_lararn_in_the_system.md R19; 14_ndoben_chain.md R304, R308, R316, R317, R318, R323] -/
def Obligations.RemoteAccessAndSensors : Prop :=
  ∀ (s : State) (w : Writer),
    (s.accepts w R.chnRaCmd = true →
      let m := masterOf w
      let dst := s.get F.chnRaDstDst
      ∀ c ∈ [(Instr.raRead w, false), (Instr.raWrite w, true)],
        let ends (code : Nat) : Prop := Yields c.1 s [518] [F.chnRaStatusBusy, F.chnRaStatusCode] [.chain] fun u =>
          u.get F.chnRaStatusBusy = 0 ∧ u.get F.chnRaStatusCode = code ∧ u.chain = { s.chain with access := none }
        let reached := if dst = s.chainAddr then none else s.routeTo dst
        (s.inChainRange m dst c.2 = false → exec c.1 s = .next (s.violate m 0x206 dst true)) ∧
        (s.inChainRange m dst c.2 = true → s.get F.chnRaStatusBusy = 1 →
          Yields c.1 s [] [F.chnRaStatusCode] [] fun u => u.get F.chnRaStatusCode = 0x549) ∧
        (s.inChainRange m dst c.2 = true → s.get F.chnRaStatusBusy = 0 →
          (reached = none → ends 0x545) ∧
          (∀ p, reached = some p → s.mayChain m p dst c.2 = false → ends 0x547) ∧
          (∀ p, reached = some p → s.mayChain m p dst c.2 = true → ∃ u seq data,
            exec c.1 s = .next (u.sendOwn [p] (w != .purser) (shortFlit (if c.2 then 8 else 7) 0 dst s.chainAddr seq
              (leBytes 4 (32 * s.get F.chnRaHoldAddr) ++ data))) ∧
            Frame [F.chnRaStatusBusy] [.chain] s u ∧ u.get F.chnRaStatusBusy = 1 ∧
            u.chain.access = some ⟨if c.2 then 2 else 1, dst⟩ ∧
            seq = (s.takeSeq (if c.2 then 8 else 7)).1 ∧ u.chain.seqs = (s.takeSeq (if c.2 then 8 else 7)).2.chain.seqs ∧
            data = (if c.2 then ((List.range 8).map fun k => leBytes 4 (s.get (F.chnRaDataData k))).flatten else [])))) ∧
    exec (.raTimeout true) s = .next s ∧
    (s.get F.chnRaStatusBusy = 1 → Yields (.raTimeout false) s [518] [F.chnRaStatusBusy, F.chnRaStatusCode] [.chain] fun u =>
      u.get F.chnRaStatusBusy = 0 ∧ u.get F.chnRaStatusCode = 0x546 ∧ u.chain = { s.chain with access := none }) ∧
    (s.get F.chnRaStatusBusy = 0 → exec (.raTimeout false) s = .next s) ∧
    (s.accepts w R.chnSensorTx = true → ∀ temp sensor,
      let dests := s.streamPorts (s.get F.chnSensorDstDst)
      (dests = [] → Yields (.sensorTx w temp sensor) s [] [F.chnRaStatusCode] [] fun u => u.get F.chnRaStatusCode = 0x545) ∧
      (dests ≠ [] → ∃ u, Frame [] [.chain] s u ∧
        exec (.sensorTx w temp sensor) s = .next (u.sendOwn dests (w != .purser)
          (shortFlit 10 0 (s.get F.chnSensorDstDst) s.chainAddr (s.takeSeq 10).1 (leBytes 1 sensor.toNat ++ leBytes 2 temp.toNat))) ∧
        u = (s.takeSeq 10).2)) ∧
    (∀ type, ((s.takeSeq type).2.takeSeq type).1 = ((s.takeSeq type).1 + 1) % 65536)

/-- A tick adds the 32.768 kHz step in Winter, and otherwise TIME_INCR and a part of the slew within its limit, and the windows open and close as their
bounds say; a test under way, the channels at work, and the remote accesses and streams that wait at the gate go on with it. At the boundary a waiting
step, jump or new epoch is applied and its pending bit cleared, and a correction that moves time back by more than the limit raises the epoch and
event 546; at another time the boundary does nothing. INCR, SLEW and STEP writes are refused with 0x601 on a disciplined unit (STEP with its
exemption), and otherwise set the increment in its range, the slew, or the step that waits. The model's choice: Winter's slow step (DESIGN CHOICE,
notes/assumptions/65.md), the epoch at a step (DEDUCED, notes/assumptions/64.md), the low word of the increment held apart (DEDUCED,
notes/assumptions/67.md). [15_time_reference.md R326, R327, R328, R329, R330, R331, R332, R342, R348] -/
def Obligations.TimeTicksAndCorrections : Prop :=
  ∀ (s : State),
    (s.power.off = true → exec .timeTick s = .next s) ∧
    (s.power.off = false → s.inWinter = true ∨ s.power.fabricOff = true → Yields .timeTick s [] [] [.time] fun u =>
      u.time = { s.time with now := addTime s.time.now 131072000000000, ticks := s.time.ticks + 7629 }) ∧
    (s.power.off = false → s.inWinter = false → s.power.fabricOff = false →
      ∃ u, exec .timeTick s = .next (((u.holdGo s).remoteGo s).streamGo s) ∧ Frame windowFields [.time, .purser, .host, .out] s u ∧
        (s.hold.test = none → s.anyChanBusy = false → s.chain.remote = [] → (∀ n, n < 4 → s.txWaits n = false ∧ s.rxWaits n = false) →
          exec .timeTick s = .next u) ∧
        let a := s.slewStep
        u.time = { s.time with now := addTime s.time.now (s.timeIncr + a), ticks := s.time.ticks + 1, slew := s.time.slew - a, slewed := s.time.slewed + a } ∧
        a.natAbs ≤ s.slewLimit ∧ (s.time.slew.natAbs ≤ s.slewLimit → a = s.time.slew) ∧
        ∀ k, k < 4 → (u.get (F.timeWinCtrlOpen k) = 1 ↔ s.inWindow k u.time.now s.epoch = true)) ∧
    (let due := (s.get F.timeCtrlSecond = 0 ∧ s.running (s.get F.timeCtrlFrameOut) = true) ∨ s.time.now % secUnit < 5 * nsUnit;
      (¬ due → exec .timeBoundary s = .next s) ∧
      (due → s.time.step = none → s.time.jump = none → s.time.epochNext = none → exec .timeBoundary s = .next s.checkWindows) ∧
      (due → ∀ d, s.time.step = some d → s.time.jump = none → s.time.epochNext = none →
        ∃ u, exec .timeBoundary s = .next ((u.noteJump (d * (nsUnit : Int))).checkWindows) ∧
          Frame [F.timeStatusStepPending, F.timeStatusDegraded] [.time] s u ∧ u.get F.timeStatusStepPending = 0 ∧
          u.get F.timeStatusDegraded = (if s.on F.timeStatusDisciplined then s.get F.timeStatusDegraded else 0) ∧
          u.time = { s.time with step := none, now := addTime s.time.now (d * (nsUnit : Int)) }) ∧
      (due → ∀ d, s.time.step = none → s.time.jump = some d → s.time.epochNext = none →
        ∃ u, exec .timeBoundary s = .next ((u.noteJump d).checkWindows) ∧
          Frame [F.timeStatusJumpPending, F.timeStatusDegraded] [.time] s u ∧ u.get F.timeStatusJumpPending = 0 ∧
          u.get F.timeStatusDegraded = 0 ∧
          u.time = (if s.jumpSlews then { s.time with jump := none, slew := d, samples := [], secondOffset := none }
            else { s.time with jump := none, samples := [], secondOffset := none, now := addTime s.time.now d })) ∧
      (due → ∀ e, s.time.step = none → s.time.jump = none → s.time.epochNext = some e →
        ∃ u, exec .timeBoundary s = .next u.checkWindows ∧ Frame [F.timeEpochEpoch] [.time] s u ∧ u.epoch = e % 65536 ∧
          u.time = { s.time with epochNext := none })) ∧
    (∀ d : Int,
      (d.natAbs ≤ s.jumpLimit → s.noteJump d = s) ∧
      (s.jumpLimit < d.natAbs → 0 ≤ d ∨ s.timeRole = 2 → s.noteJump d = s.raise 546) ∧
      (s.jumpLimit < d.natAbs → d < 0 → s.timeRole ≠ 2 →
        ∃ u, s.noteJump d = u.raise 546 ∧ Frame [F.timeEpochEpoch] [] s u ∧ u.epoch = (s.epoch + 1) % 65536)) ∧
    (∀ (w : Writer) (data : Word), s.accepts w R.timeIncrHi = true →
      (s.get F.timeStatusDisciplined = 1 → s.timeRefuses (.timeIncrWrite w data)) ∧
      (s.get F.timeStatusDisciplined = 0 → Yields (.timeIncrWrite w data) s [] [F.timeIncrHiNs, F.timeIncrLoFrac] [] fun u =>
        (u.timeIncr : Int) = clampI 17162689315 17197049053 (data.toNat * 2 ^ 32 + s.time.incrLo.toNat : Nat))) ∧
    (∀ (w : Writer) (data : Word), s.accepts w R.timeSlew = true →
      (s.get F.timeStatusDisciplined = 1 → s.timeRefuses (.timeSlewWrite w data)) ∧
      (s.get F.timeStatusDisciplined = 0 → Yields (.timeSlewWrite w data) s [] [] [.time] fun u =>
        u.time = { s.time with slew := data.toInt * (nsUnit : Int) })) ∧
    (∀ (w : Writer) (data : Word), s.accepts w R.timeStepHi = true →
      let exempt := s.timeRole ≠ 2 ∧ s.timeSource = 3 ∧ s.get F.timeStatusLocked = 0
      (s.get F.timeStatusDisciplined = 1 → ¬ exempt → s.timeRefuses (.timeStepArm w data)) ∧
      (s.get F.timeStatusDisciplined = 0 ∨ exempt →
        Yields (.timeStepArm w data) s [] [whole R.timeStepHi, F.timeStatusStepPending] [.time] fun u =>
          u.get F.timeStatusStepPending = 1 ∧ u.reg R.timeStepHi = data ∧
          u.time = { s.time with step := some (sval 64 (data.toNat * 2 ^ 32 + (s.reg R.timeStepLo).toNat)) }))

/-- The end of an interval with enough samples averages them, shows the offset, and slews it or, beyond TIME_JUMP_LIMIT, sets a jump pending; 16 intervals
within 4 ns lock, an offset beyond 20 ns unlocks. Holdover shows in HOLDOVER with its event and clears LOCKED. A lost source gives its code, event
547, no samples and holdover. Once a second INCR is corrected by the change of the offset since the last such second out of holdover. A PTM dialog
opens on the selected source, and fails with the link down; its answer after another's is a sample, by the delay of the dialog before (PRESUMED,
notes/assumptions/92.md), and the third failure loses the source with 0x604. While the tick's reference is lost an interval is shown and not acted on.
The losses of REFIN and PPS and their ends are stated too; an edge of theirs in the clock of its wait's end meets it, an interval that of a switch's
holdover. The model's choice as well: the counter runs on when the tick's reference is back (DEDUCED, notes/assumptions/68.md).
[01_lararn_in_the_system.md R19; 15_time_reference.md R332, R333, R337, R338, R347] -/
def Obligations.TimeDiscipline : Prop :=
  ∀ (s : State),
    (let n := s.intervalSize;
      (n = 0 ∨ s.time.samples.length < n → exec .disciplineIntervalEnd s = .next s) ∧
      (n ≠ 0 → n ≤ s.time.samples.length →
        let o := rheDiv ((s.time.samples.take n).foldl (· + ·) 0) (2 * n)
        ∃ u, Frame [F.timeOffsetOffset] [.time] s u ∧
          u.get F.timeOffsetOffset = ofSval 32 (clampI (-2147483648) 2147483647 (rhe 24 o)) % 2 ^ 32 ∧
          u.time = { s.time with offset := o, samples := s.time.samples.drop n, fresh := true } ∧ u = s.takeInterval ∧
          (s.time.holdRoute = true ∨ u.tickRefLost = true → exec .disciplineIntervalEnd s = .next u) ∧
          (s.time.holdRoute = false → u.tickRefLost = false →
            let v := ((u.setTime fun x => { x with holdSource := false }).showHoldover).correct o
            exec .disciplineIntervalEnd s = .next (if v.on F.timeStatusHoldover then v else v.judgeLock o)))) ∧
    (∀ o : Int, ∃ u, s.correct o = u ∧ Frame [F.timeStatusDegraded, F.timeStatusJumpPending] [.time] s u ∧
      (o.natAbs ≤ s.jumpLimit → u.get F.timeStatusDegraded = 0 ∧ u.get F.timeStatusJumpPending = 0 ∧ u.time = { s.time with slew := -o, jump := none }) ∧
      (s.jumpLimit < o.natAbs → u.get F.timeStatusDegraded = s.get F.timeStatusDegraded ∧ u.get F.timeStatusJumpPending = 1 ∧
        u.time = { s.time with jump := some (-o) })) ∧
    (∀ o : Int, let good := if o.natAbs ≤ 4 * nsUnit then s.time.good + 1 else 0
      ∃ u, Frame [F.timeStatusLocked] [.time] s u ∧ u.time.good = good ∧
        (20 * nsUnit < o.natAbs → s.judgeLock o = u ∧ u.get F.timeStatusLocked = 0) ∧
        (o.natAbs ≤ 20 * nsUnit → 16 ≤ good → s.get F.timeStatusLocked = 0 → s.judgeLock o = u.raise 544 ∧ u.get F.timeStatusLocked = 1) ∧
        (o.natAbs ≤ 20 * nsUnit → good < 16 ∨ s.get F.timeStatusLocked = 1 → s.judgeLock o = u ∧ u.get F.timeStatusLocked = s.get F.timeStatusLocked)) ∧
    (let h := s.time.holdSource || s.time.holdRoute
      ∃ u, Frame [F.timeStatusHoldover, F.timeStatusLocked] [.time] s u ∧ u.get F.timeStatusHoldover = h.toNat ∧
        (h = false → s.showHoldover = u ∧ u.get F.timeStatusLocked = s.get F.timeStatusLocked ∧ u.time = s.time) ∧
        (h = true → u.get F.timeStatusLocked = 0 ∧ u.time = { s.time with good := 0 } ∧
          (s.get F.timeStatusHoldover = 0 → s.showHoldover = u.raise 545) ∧ (s.get F.timeStatusHoldover = 1 → s.showHoldover = u))) ∧
    (∀ code, ∃ u, s.loseSource code = (u.raise 547).showHoldover ∧ Frame [F.timeStatusLastCode] [.time] s u ∧
      u.get F.timeStatusLastCode = code % 2 ^ 12 ∧ u.time = { s.time with holdSource := true, samples := [] }) ∧
    (s.get F.timeStatusDisciplined = 0 ∨ s.get F.timeStatusHoldover = 1 → Yields .incrCorrection s [] [] [.time] fun u =>
      u.time = { s.time with secondOffset := none, slewed := 0 }) ∧
    (s.get F.timeStatusDisciplined = 1 → s.get F.timeStatusHoldover = 0 →
      Yields .incrCorrection s [] [F.timeIncrHiNs, F.timeIncrLoFrac] [.time] fun u =>
        u.time = { s.time with secondOffset := some s.time.offset, slewed := 0 } ∧
        (s.time.secondOffset = none → u.timeIncr = s.timeIncr) ∧
        ∀ p, s.time.secondOffset = some p → (u.timeIncr : Int) =
          clampI 17162689315 17197049053 ((s.timeIncr : Int) - rheDiv (s.time.offset - p - s.time.slewed) 250000000)) ∧
    (let open' := s.timeRole < 2 ∧ s.timeSource = 1 ∧ s.get F.timePtmCtrlEn = 1 ∧ s.time.ptmOpen = false ∧ s.inWinter = false;
      (open' → s.host.linkUp = false → ∃ u, Frame [] [.time] s u ∧
        u.time = { s.time with ptmFails := min 3 (s.time.ptmFails + 1), ptmPrev := none } ∧
        exec .ptmDialog s = .next (if s.time.ptmFails = 2 then u.loseSource 0x604 else u)) ∧
      (open' → s.host.linkUp = true → ∃ u, exec .ptmDialog s = .next (u.toHost .ptmRequest) ∧ Frame [] [.time] s u ∧ u.time = { s.time with ptmOpen := true }) ∧
      (¬ open' → exec .ptmDialog s = .next s)) ∧
    (∀ r, s.time.ptmOpen = false → exec (.ptmDialogComplete r) s = .next s) ∧
    (∀ (t1 t4 : BitVec 96) (master : BitVec 64) (delay : Word), s.time.ptmOpen = true →
      let m := addTime (master.toNat * nsUnit) (sval 64 (s.get F.timePtmOffsetLoNs + 2 ^ 32 * s.get F.timePtmOffsetHiNs) * (nsUnit : Int))
      let o (p : BitVec 96 × BitVec 96) : Int := 2 * stampDiff t1.toNat m + (stampDiff p.2.toNat p.1.toNat - (delay.toNat * nsUnit : Nat))
      Yields (.ptmDialogComplete (some (t1, t4, master, delay))) s [] [] [.time] fun u =>
        u.time = { s.time with
          ptmOpen := false, ptmFails := 0, ptmPrev := some (t1, t4),
          samples := s.time.samples ++ (match s.time.ptmPrev with | some p => [o p] | none => []) }) ∧
    (s.time.ptmOpen = true → ∃ u, Frame [] [.time] s u ∧
      u.time = { s.time with ptmOpen := false, ptmFails := min 3 (s.time.ptmFails + 1), ptmPrev := none } ∧
      exec (.ptmDialogComplete none) s = .next (if s.time.ptmFails = 2 then u.loseSource 0x604 else u)) ∧
    (s.time.holdRoute = false → ∀ met, exec (.holdoverEnd met) s = .next s) ∧
    (s.time.holdRoute = true → ∀ met, let w := if met = true ∧ s.intervalFull = true then s.takeInterval else s
      ∃ u t, t = u.showHoldover ∧ Frame [] [.time] w u ∧ u.time = { w.time with holdRoute := false } ∧
      exec (.holdoverEnd met) s = .next (if t.time.fresh && t.on F.timeStatusDisciplined && !t.time.holdSource then t.correct t.time.offset else t)) ∧
    exec (.ppsLoss true) s = .next s ∧
    (exec (.ppsLoss false) s = .next (if s.timeRole < 2 ∧ s.timeSource = 3 ∧ s.time.holdSource = false then s.loseSource 0x602 else s)) ∧
    (let absent := bits s.sst.clocks.toNat 1 0 = 0 ∨ s.power.off = true ∨ s.inWinter = true;
      exec (.refinLoss true) s = .next s ∧
      (absent ∨ s.time.refinLost = true → exec (.refinLoss false) s = .next s) ∧
      (¬ absent → s.time.refinLost = false → ∃ u, Frame [F.clkStatusRefinOk, F.clkRefLossesRefin] [.time] s u ∧
        u.get F.clkStatusRefinOk = 0 ∧ u.get F.clkRefLossesRefin = min 65535 (s.get F.clkRefLossesRefin + 1) ∧ u.time = { s.time with refinLost := true } ∧
        exec (.refinLoss false) s = .next (if s.tickRefLost ∨ bit s.sst.clocks.toNat 8 = true then (u.raise 548).loseSource 0x602 else u.raise 548)) ∧
      (absent → exec .refinRestore s = .next s) ∧
      (¬ absent → ∃ u, Frame [F.clkStatusRefinOk] [.time] s u ∧ u.get F.clkStatusRefinOk = 1 ∧ u.time = { s.time with refinLost := false } ∧
        (s.time.refinLost = false → exec .refinRestore s = .next u) ∧ (s.time.refinLost = true → exec .refinRestore s = .next (u.raise 11).tickRefBack)))

/-- A capture keeps the time, the epoch and the windows it lies in, with event 553. A read of its low word returns it and copies the rest; a read of META
clears NEW unless captured again since. The Purser takes the oldest stamp asked for, 30 ns earlier than its reading, into a queue of 32, or counts a
drop with event 550. Each queue shows its head and count; POP drops the head. A window armed with CLOSE not after OPEN is 0x606 and else enabled. The
model's choice: EPOCH of a window is taken also where the arming is refused (DEDUCED, notes/assumptions/9.md). [15_time_reference.md R339, R340, R341,
R342] -/
def Obligations.StampsAndWindows : Prop :=
  ∀ (s : State),
    (∀ k sub, ∃ u, s.capture k sub = u.raise 553 ∧ Frame [F.timeCapLoNs k] [.time] s u ∧
      u.get (F.timeCapLoNs k) = s.stampNow sub / nsUnit % 2 ^ 32 ∧
      u.time = { s.time with caps := updAt s.time.caps k fun _ => ⟨s.stampNow sub, s.epoch, s.windowMask (s.stampNow sub) s.epoch, true, true⟩ }) ∧
    (∀ (w : Writer) (k : Fin 5) (c : Capture), s.answers w = true → s.readAllowed w (R.timeCapLo k) = true → s.time.caps[k.val]? = some c →
      Yields (.captureLoRead w k) s [] [F.timeCapHiNs k, F.timeCapFracFrac k, F.timeCapMetaEpoch k, F.timeCapMetaInWin k, F.timeCapMetaNew k] [.time, .out] fun u =>
        u.out = .completion (s.reg (R.timeCapLo k)) :: s.out ∧ u.time.caps[k.val]? = some { c with since := false } ∧
        u.get (F.timeCapHiNs k) = c.time / 2 ^ 64 % 2 ^ 32 ∧ u.get (F.timeCapFracFrac k) = c.time % 2 ^ 32 ∧
        u.get (F.timeCapMetaEpoch k) = c.epoch % 2 ^ 16 ∧ u.get (F.timeCapMetaInWin k) = c.inWin % 2 ^ 4 ∧ u.get (F.timeCapMetaNew k) = c.isNew.toNat) ∧
    (∀ (w : Writer) (k : Fin 5) (c : Capture), s.answers w = true → s.readAllowed w (R.timeCapMeta k) = true → s.time.caps[k.val]? = some c →
      Yields (.captureMetaRead w k) s [] [] [.time, .out] fun u =>
        u.out = .completion (s.reg (R.timeCapMeta k)) :: s.out ∧
        u.time.caps[k.val]? = some (if c.since then c else { c with isNew := false })) ∧
    (∀ sub, s.purser.stamps = [] ∨ s.purser.serving = false → exec (.purserStampRead sub) s = .next s) ∧
    (∀ (sub : BitVec 35) src rest, s.purser.stamps = src :: rest → s.purser.serving = true →
      (s.time.swlog.length < 32 → ∃ u, exec (.purserStampRead sub) s = .next u.showSwlog ∧ Frame [] [.purser, .time] s u ∧
        u.purser = { s.purser with stamps := rest } ∧
        u.time = { s.time with swlog := s.time.swlog ++ [⟨addTime (s.stampNow sub.toNat) (-(30 * (nsUnit : Int))), s.epoch, src⟩] }) ∧
      (32 ≤ s.time.swlog.length → Yields (.purserStampRead sub) s [550] [F.timeSwlogDropsCount] [.purser] fun u =>
        u.purser = { s.purser with stamps := rest } ∧ u.get F.timeSwlogDropsCount = min 0xFFFFFFFF (s.get F.timeSwlogDropsCount + 1))) ∧
    (∃ u, s.showSwlog = u ∧
      Frame [F.timeSwlogHeadEpoch, F.timeSwlogHeadSource, F.timeSwlogLoNs, F.timeSwlogHiNs, F.timeSwlogFracFrac, F.timeSwlogCountCount] [] s u ∧
      u.get F.timeSwlogCountCount = s.time.swlog.length % 2 ^ 6 ∧
      ∀ e rest, s.time.swlog = e :: rest → u.get F.timeSwlogHeadEpoch = e.epoch % 2 ^ 16 ∧ u.get F.timeSwlogHeadSource = e.id % 2 ^ 10 ∧
        u.get F.timeSwlogLoNs = e.time / nsUnit % 2 ^ 32 ∧ u.get F.timeSwlogHiNs = e.time / 2 ^ 64 % 2 ^ 32 ∧ u.get F.timeSwlogFracFrac = e.time % 2 ^ 32) ∧
    (∃ u, s.showTxq = u ∧
      Frame [F.timeTxqHeadEpoch, F.timeTxqHeadId, F.timeTxqLoNs, F.timeTxqHiNs, F.timeTxqFracFrac, F.timeTxqCtrlCount] [] s u ∧
      u.get F.timeTxqCtrlCount = s.time.txq.length % 2 ^ 5 ∧
      ∀ e rest, s.time.txq = e :: rest → u.get F.timeTxqHeadEpoch = e.epoch % 2 ^ 16 ∧ u.get F.timeTxqHeadId = e.id % 2 ^ 16 ∧
        u.get F.timeTxqLoNs = e.time / nsUnit % 2 ^ 32 ∧ u.get F.timeTxqHiNs = e.time / 2 ^ 64 % 2 ^ 32 ∧ u.get F.timeTxqFracFrac = e.time % 2 ^ 32) ∧
    (∀ w, s.accepts w R.timeSwlogPop = true → ∃ u, exec (.swlogPop w) s = .next u.showSwlog ∧ Frame [] [.time] s u ∧
      u.time = { s.time with swlog := s.time.swlog.drop 1 }) ∧
    (∀ w, s.accepts w R.timeTxqPop = true → ∃ u, exec (.txqPop w) s = .next u.showTxq ∧ Frame [] [.time] s u ∧
      u.time = { s.time with txq := s.time.txq.drop 1, txqTold := false }) ∧
    (∀ (w : Writer) (k : Fin 4) (e : BitVec 16), s.accepts w (R.timeWinCtrl k) = true →
      (s.winClose k ≤ s.winOpen k → Yields (.windowArm w k e) s [] [F.timeWinCtrlEpoch k, F.timeStatusLastCode] [] fun u =>
        u.get (F.timeWinCtrlEpoch k) = e.toNat ∧ u.get F.timeStatusLastCode = 0x606) ∧
      (s.winOpen k < s.winClose k → ∃ u, exec (.windowArm w k e) s = .next u.checkWindows ∧ Frame [F.timeWinCtrlEpoch k, F.timeWinCtrlEn k] [] s u ∧
        u.get (F.timeWinCtrlEpoch k) = e.toNat ∧ u.get (F.timeWinCtrlEn k) = 1))

/-- A word that starts on an enabled output, past start-up and out of Winter, shows and sends the label of the frame count of that time at its rate, under
drop-frame as displayed; a bad rate is 0x608. A received word is captured, shown with its label and rate; four good ones at one rate lock with event
554, and the word is a sample when LTC is the source and output 0 runs at that rate (0x605 otherwise). The second missing word in a row unlocks; a
word in the clock of its wait's end is not missing. JAM takes base, rounded to the nearest ns, and label of the last word when locked. The model's
choice: the polarity correction bit and the bit places of a word (DEDUCED, notes/assumptions/66.md; PRESUMED, notes/assumptions/20.md). [00_scope.md
R4; 01_lararn_in_the_system.md R19; 15_time_reference.md R333, R344, R345, R346] -/
def Obligations.Timecode : Prop :=
  ∀ (s : State),
    (∀ (k : Fin 2),
      (s.get (F.timeLtcoCfgEn k) = 0 ∨ s.inWinter = true ∨ s.get F.glbStateState = 0 → exec (.ltcWordStart k) s = .next s) ∧
      (s.get (F.timeLtcoCfgEn k) = 1 → s.inWinter = false → s.get F.glbStateState ≠ 0 →
        (ltcRateOf (s.get (F.timeLtcoCfgRate k)) = none → Yields (.ltcWordStart k) s [] [F.timeStatusLastCode] [] fun u => u.get F.timeStatusLastCode = 0x608) ∧
        ∀ num den per day, ltcRateOf (s.get (F.timeLtcoCfgRate k)) = some (num, den, per, day) →
          let rate := s.get (F.timeLtcoCfgRate k)
          let f := ((s.time.now : Int) - (s.ltcBase k * nsUnit : Nat)) * (num : Int) / ((den * secUnit : Nat) : Int)
          let label := (((s.get (F.timeLtcoBaseFramesFrames k) : Int) + f) % (day : Int)).toNat
          let tc := ltcTc rate per (ltcDisplayed rate label)
          Yields (.ltcWordStart k) s [] [whole (R.timeLtcoTc k)] [.out] fun u =>
            u.reg (R.timeLtcoTc k) = BitVec.ofNat 32 tc ∧ u.out = .ltc k (ltcWord rate tc (s.get (F.timeLtcoUserUser k))) :: s.out)) ∧
    (∀ (word : BitVec 80) (rate : Fin 6) (sub : BitVec 35),
      (s.inWinter = true ∨ s.power.off = true → exec (.ltcInWord word rate sub) s = .next s) ∧
      (s.inWinter = false → s.power.off = false → ∀ num den per day, ltcRateOf rate = some (num, den, per, day) →
        let good := if s.time.ltcRate = rate.val then s.time.ltcGood + 1 else 1
        let t := (s.setTime fun x => { x with ltcGood := min 4 good, ltcBad := 0, ltcRate := rate }).capture 4 sub.toNat
        let label := ltcLabelOf word.toNat rate per
        ∃ u, Frame [whole R.timeLtciTc, F.timeLtciUserUser, F.timeLtciFramesFrames, F.timeLtciStatusRate, F.timeLtciStatusLocked] [] t u ∧
          u.reg R.timeLtciTc = BitVec.ofNat 32 (ltcTcOf word.toNat) ∧ u.get F.timeLtciFramesFrames = label % 2 ^ 32 ∧
          u.get F.timeLtciStatusRate = rate.val ∧ u.get F.timeLtciStatusLocked = (if 4 ≤ good then 1 else t.get F.timeLtciStatusLocked) ∧
          let v := if 4 ≤ good ∧ t.get F.timeLtciStatusLocked = 0 then u.raise 554 else u
          (¬ (s.timeRole < 2 ∧ s.timeSource = 2) → exec (.ltcInWord word rate sub) s = .next v) ∧
          (s.timeRole < 2 ∧ s.timeSource = 2 → v.get (F.timeLtcoCfgEn 0) = 1 → v.get (F.timeLtcoCfgRate 0) = rate.val →
            exec (.ltcInWord word rate sub) s = .next (v.sample (v.ltcOffset num den day label (v.cap 4).time))) ∧
          (s.timeRole < 2 ∧ s.timeSource = 2 → ¬ (v.get (F.timeLtcoCfgEn 0) = 1 ∧ v.get (F.timeLtcoCfgRate 0) = rate.val) →
            exec (.ltcInWord word rate sub) s = .next (v.put F.timeStatusLastCode 0x605)))) ∧
    exec (.ltcInWordMissing true) s = .next s ∧
    (∃ u, Frame [F.timeLtciStatusLocked] [.time] s u ∧ u.time = { s.time with ltcGood := 0, ltcBad := min 2 (s.time.ltcBad + 1) } ∧
      (s.time.ltcBad = 0 ∨ s.get F.timeLtciStatusLocked = 0 →
        exec (.ltcInWordMissing false) s = .next u ∧ u.get F.timeLtciStatusLocked = s.get F.timeLtciStatusLocked) ∧
      (s.time.ltcBad ≠ 0 → s.get F.timeLtciStatusLocked = 1 →
        exec (.ltcInWordMissing false) s = .next ((u.raise 554).sourceFails 2) ∧ u.get F.timeLtciStatusLocked = 0)) ∧
    (∀ (w : Writer) (k : Fin 2) (en : Bool) (rate : BitVec 4), s.accepts w (R.timeLtcoCfg k) = true →
      let bad := en = true ∧ ltcRateOf rate.toNat = none;
      (s.get F.timeLtciStatusLocked = 0 → Yields (.ltcJam w k en rate) s [] [F.timeLtcoCfgEn k, F.timeLtcoCfgRate k, F.timeStatusLastCode] [] fun u =>
        u.get (F.timeLtcoCfgEn k) = en.toNat ∧ u.get (F.timeLtcoCfgRate k) = rate.toNat ∧
        (bad → u.get F.timeStatusLastCode = 0x608) ∧ (¬ bad → u.get F.timeStatusLastCode = s.get F.timeStatusLastCode)) ∧
      (s.get F.timeLtciStatusLocked = 1 →
        Yields (.ltcJam w k en rate) s [] [F.timeLtcoCfgEn k, F.timeLtcoCfgRate k, F.timeStatusLastCode, F.timeLtcoBaseNsLoNs k, F.timeLtcoBaseNsHiNs k, F.timeLtcoBaseFramesFrames k] [] fun u =>
          u.get (F.timeLtcoCfgEn k) = en.toNat ∧ u.get (F.timeLtcoCfgRate k) = rate.toNat ∧
          u.get (F.timeLtcoBaseFramesFrames k) = s.get F.timeLtciFramesFrames ∧ u.ltcBase k = (rhe 32 ((s.cap 4).time : Int)).toNat % 2 ^ 64 ∧
          (bad → u.get F.timeStatusLastCode = 0x608) ∧ (¬ bad → u.get F.timeStatusLastCode = s.get F.timeStatusLastCode)))

/-- At every rate of the table and for every label of a day, the label read back from the displayed count is the label itself, and the displayed
count lies within the day. [15_time_reference.md R344, R345] -/
def Obligations.LabelsComeBack : Prop :=
  ∀ rate num den per day : Nat, ltcRateOf rate = some (num, den, per, day) →
    ∀ label, label < day → ltcLabel rate (ltcDisplayed rate label) = label ∧ ltcDisplayed rate label / per < 86400

/-- In a transition (STATE 2, 3, 4 or 6) every request, and REQ = 3 always, is refused with LAST_CODE 0x711 and event 7 POWER_REFUSED, nothing else
changed. Otherwise REQ is taken with code 0x000: for the state in force nothing else happens; Run from Slack and Slack from Run begin the exit and the
entry of Slack; Run or Slack from Winter begins the thaw; Winter from Run or Slack is ENTERING, keeps the running outputs and disables them. The ends
of the Slack transitions, with events 2 and 3, are stated too. The model's choice: the code of REQ = 3 (DEDUCED, notes/assumptions/114.md), which
outputs the entry keeps (DEDUCED, notes/assumptions/83.md), and an end without its transition is nothing (DESIGN CHOICE, notes/assumptions/2.md).
[18_power_clocks_reset.md R391, R392, R393, R395; 08_scan_out_and_slack.md R177] -/
def Obligations.PowerRequests : Prop :=
  (∀ (s : State) (w : Writer), s.accepts w R.glbPowerCtrl = true →
    let request (r : Fin 3) : Instr := match r with
      | 0 => .powerRequestRun w
      | 1 => .powerRequestSlack w
      | 2 => .powerRequestWinter w
    let inTransition := s.powerState = 2 ∨ s.powerState = 3 ∨ s.powerState = 4 ∨ s.powerState = 6;
    let refusedBy := fun (c : Instr) (r : Nat) => Yields c s [7] [F.glbPowerCtrlReq, F.glbPowerStatusLastCode] [] fun u =>
      u.get F.glbPowerCtrlReq = r ∧ u.get F.glbPowerStatusLastCode = 0x711;
    (∀ r : Fin 4, inTransition ∨ r.val = 3 → refusedBy (.powerRequestInvalid w r) r) ∧
    (∀ r : Fin 3, inTransition → refusedBy (request r) r) ∧
    (∀ r : Fin 4, ¬ inTransition → r.val ≠ 3 → exec (.powerRequestInvalid w r) s = .next s) ∧
    (¬ inTransition → ∀ r : Fin 3, ∃ u, Frame [F.glbPowerCtrlReq, F.glbPowerStatusLastCode] [] s u ∧
      u.get F.glbPowerCtrlReq = r.val ∧ u.get F.glbPowerStatusLastCode = 0 ∧
      (s.powerState = r.val ∨ (s.powerState = 5 ∧ r.val = 2) → exec (request r) s = .next u) ∧
      (s.powerState = 1 → r.val = 0 → exec (request r) s = .next (u.beginSlack false)) ∧
      (s.powerState = 0 → r.val = 1 → exec (request r) s = .next (u.beginSlack true)) ∧
      (s.powerState = 5 → r.val < 2 → exec (request r) s = .next (u.beginThaw r)) ∧
      (s.powerState < 2 → r.val = 2 → ∃ v, Frame [F.glbPowerStatusWakeOutputs, F.glbPowerStatusState] [.power] u v ∧
        v.get F.glbPowerStatusState = 4 ∧ v.power = { s.power with thawTarget := s.powerState } ∧
        (∀ n, n < 4 → bit (v.get F.glbPowerStatusWakeOutputs) n = s.running n) ∧
        exec (request r) s = .next ((List.range 4).foldl (fun x n => if x.running n then x.disable n else x) v)))) ∧
  (∀ (s : State) (target : Nat), ∃ u, s.beginThaw target = u ∧ Frame [F.glbPowerStatusState] [.power] s u ∧ u.get F.glbPowerStatusState = 6 ∧
    u.power = { s.power with thawTarget := target, pwrRetLow := false, vddHoldLate := false, switchesClosed := false }) ∧
  (∀ (s : State) (enter : Bool), ∃ u, s.beginSlack enter = u.slackCheck ∧
    Frame [F.glbPowerStatusState] [.output 0, .output 1, .output 2, .output 3] s u ∧ u.get F.glbPowerStatusState = (if enter then 2 else 3) ∧
    ∀ n o, n < 4 → s.outs[n]? = some o → u.outs[n]? = some (if s.running n then o else { o with inSlack := enter })) ∧
  (∀ s : State,
    (s.powerState ≠ 3 → exec .slackExitDeadline s = .next s) ∧
    (s.powerState = 3 → ∃ u, exec .slackExitDeadline s = .next u.slackCheck ∧ Frame [] [.output 0, .output 1, .output 2, .output 3] s u ∧
      ∀ n o, n < 4 → s.outs[n]? = some o → u.outs[n]? = some { o with inSlack := false }) ∧
    (let all := ∀ o ∈ s.outs, o.inSlack = true;
      let none' := ∀ o ∈ s.outs, o.inSlack = false;
      (s.powerState = 2 → all → ∃ u, s.slackCheck = u.raise 2 ∧ Frame [F.glbPowerStatusState] [] s u ∧ u.get F.glbPowerStatusState = 1) ∧
      (s.powerState = 3 → none' → ∃ u, s.slackCheck = u.raise 3 ∧ Frame [F.glbPowerStatusState] [] s u ∧ u.get F.glbPowerStatusState = 0) ∧
      (¬ (s.powerState = 2 ∧ all) → ¬ (s.powerState = 3 ∧ none') → s.slackCheck = s)))

/-- ENTERING with everything quiesced is Winter: power off but for the always-on domain, every Hold group unready. The entry timeout abandons it with
0x712, event 5, and wakes the outputs, unless step 2 is reached in that clock. The thaw: VDD_HOLD late told once (28), unless it is in range in that
clock; the switches closed, the contents of the kept groups unknown where VDD_HOLD had fallen too low for them, in Test with the PLRL outputs driven,
the PLLs locked and the Purser serving, the Hold groups ready in waves of at most four, kept ones first in ascending order (a lost one reads 0
afterwards), events 198 and 199, and its end in the requested state with the waiting messages sent, the outputs woken, and event 4 and, after drops,
6. Each command does nothing out of its state. The model's choice: pending tests and the background window at the entry (DEDUCED,
notes/assumptions/82.md), the free contents of a group that was lost (DESIGN CHOICE, notes/assumptions/25.md), commands out of their state (DESIGN
CHOICE, notes/assumptions/2.md). [01_lararn_in_the_system.md R19; 08_scan_out_and_slack.md R178; 11_the_hold.md R243, R244; 18_power_clocks_reset.md
R393, R394, R395, R396; 21_electrical_and_package.md R433, R442] -/
def Obligations.WinterAndThaw : Prop :=
  ∀ (s : State),
    let wave (t : State) (l : List Nat) : List Nat :=
      let kept := l.filter fun g => bit (t.get F.holdGroupStatusKept) g
      (if kept.isEmpty then l else kept).take 4
    (s.powerState = 4 → s.quiesced = true → exec .winterQuiesced s = .next s.intoWinter) ∧
    (s.powerState ≠ 4 ∨ s.quiesced = false → exec .winterQuiesced s = .next s) ∧
    (s.intoWinter.powerState = 5 ∧ s.intoWinter.hold.unready = List.range 16 ∧ s.intoWinter.hold.wave = [] ∧ s.intoWinter.power.fabricOff = true ∧
      s.intoWinter.power.pwrRetLow = true) ∧
    exec (.winterEntryTimeout true) s = .next s ∧
    (s.powerState = 4 → exec (.winterEntryTimeout false) s = .next s.abandonEntry.wakeOutputs) ∧
    (s.powerState ≠ 4 → exec (.winterEntryTimeout false) s = .next s) ∧
    (∃ u, s.abandonEntry = u.raise 5 ∧ Frame [F.glbPowerStatusLastCode, F.glbPowerStatusState] [] s u ∧
      u.get F.glbPowerStatusLastCode = 0x712 ∧ u.get F.glbPowerStatusState = s.power.thawTarget % 8) ∧
    exec (.vddHoldLate true) s = .next s ∧
    (s.powerState = 6 → s.power.switchesClosed = false → s.power.vddHoldLate = false → Yields (.vddHoldLate false) s [28] [] [.power] fun u =>
      u.power = { s.power with vddHoldLate := true }) ∧
    (s.powerState ≠ 6 ∨ s.power.switchesClosed = true ∨ s.power.vddHoldLate = true → exec (.vddHoldLate false) s = .next s) ∧
    (s.powerState = 6 → s.power.switchesClosed = false → ∀ lost,
      let kept := (List.range 256).filter fun b => bit (s.get F.holdGroupStatusKept) (b / 16)
      let t := if lost then kept.foldl State.losebank s else s
      ∃ u, exec (.thawSwitchesClose lost) s = .next u ∧ Frame [] [.power, .out] t u ∧ u.power = { s.power with switchesClosed := true } ∧
        u.out = (if s.get F.glbStateState = 2 then ((List.range 16).map fun i => Out.plrl (i / 4) (i % 4) true).reverse else []) ++ s.out) ∧
    (s.powerState ≠ 6 ∨ s.power.switchesClosed = true → ∀ lost, exec (.thawSwitchesClose lost) s = .next s) ∧
    (∀ b, Frame [] [.hold, .free] s (s.losebank b) ∧
      (s.losebank b).hold.unknownBanks = (b, s.freeCount) :: (s.clearRange (b * 0x400000) ((b + 1) * 0x400000)).hold.unknownBanks) ∧
    (s.powerState = 6 → s.power.switchesClosed = true → s.power.fabricOff = true →
      ∃ u v, exec .thawPllsLocked s = .next v ∧ Frame [] [.hold] u.serve v ∧
        v.hold = { u.serve.hold with wave := wave u.serve u.serve.hold.unready } ∧ Frame [F.clkStatusFabricLock, F.clkStatusPurserLock, F.clkStatusTickLock] [.power] s u ∧
        u.get F.clkStatusFabricLock = 1 ∧ u.get F.clkStatusPurserLock = 1 ∧ u.get F.clkStatusTickLock = 1 ∧ u.power = { s.power with fabricOff := false }) ∧
    (s.powerState ≠ 6 ∨ s.power.switchesClosed = false ∨ s.power.fabricOff = false → exec .thawPllsLocked s = .next s) ∧
    (∀ g : Fin 16,
      (g.val ∉ s.hold.wave ∨ s.power.fabricOff = true → exec (.holdGroupReady g) s = .next s) ∧
      (g.val ∈ s.hold.wave → s.power.fabricOff = false →
        ∃ u, Frame [] [.hold] s u ∧ u.hold.unready = s.hold.unready.filter (· != g.val) ∧ u.hold.held = s.hold.held ∧
          u.hold.wave = (let rest := s.hold.wave.filter (· != g.val); if rest.isEmpty then wave s u.hold.unready else rest) ∧
          (∀ a, u.holdByte a = if s.get F.holdGroupStatusLost / 2 ^ g.val % 2 = 1 ∧ g.val * 0x4000000 ≤ a ∧ a < (g.val + 1) * 0x4000000
            then 0 else s.holdByte a) ∧
          let v := u.releaseHeld fun a => bankOf a.addr.toNat / 16 == g.val
          (v.hold.unready ≠ [] → exec (.holdGroupReady g) s = .next v) ∧
          (v.hold.unready = [] → exec (.holdGroupReady g) s =
            .next ((if v.get F.holdGroupStatusLost = 0 then v.raise 198 else (v.raise 198).raise 199).portsStart)))) ∧
    (s.powerState ≠ 6 ∨ s.power.fabricOff = true ∨ s.hold.unready ≠ [] → exec .thawComplete s = .next s) ∧
    (s.powerState = 6 → s.power.fabricOff = false → s.hold.unready = [] →
      ∃ u, Frame [F.glbPowerStatusState] [.output 0, .output 1, .output 2, .output 3, .power] s u ∧
        u.get F.glbPowerStatusState = s.power.thawTarget % 8 ∧ u.power = { s.power with pfailThaw := false } ∧
        (∀ n o, n < 4 → s.outs[n]? = some o → u.outs[n]? = some { o with inSlack := decide (s.power.thawTarget = 1) }) ∧
        let w := (List.range 32).foldl State.sendWaiting u
        let v := if s.power.pfailThaw then w
          else (List.range 4).foldl (fun t n => if t.on (F.tgCtrlEn n) && !t.running n && t.mayEnable n then t.startOut n else t) w.wakeOutputs
        exec .thawComplete s = .next (if v.get F.glbWinterDropsCount = 0 then v.raise 4 else (v.raise 4).raise 6))

/-- A trained link of a row of the table is up, sends what waits, raises LINK_UP, and LINK_CHANGE when it differs from before; a failure takes it down
with LINK_DOWN and its reads lost; ASPM L1 is entered when enabled, in its deepest substate that the latency reported lets it enter. A BAR2 access is
dropped and counted in Winter, is made as master 0x40 + f otherwise, a read word by word, and, frozen, has no effect but a violation and all ones;
completions end at 64-byte boundaries, none longer than the function's payload. Each configuration write sets its own fields of its function and sends
what waits; fields of a capability that a VF lacks do not exist. VF enable cleared resets the VFs. A write of the MSI-X table meets what a BAR access
meets: its entry is what the vector's message carries, and an unmasked vector sends what its PBA bit holds. The model's choice: which functions answer
(PRESUMED, notes/assumptions/11.md), reset values of configuration space (PRESUMED, notes/assumptions/12.md), which substate of L1 is entered and
which fields exist (PRESUMED, notes/assumptions/72.md), how a read completes (PRESUMED, notes/assumptions/86.md). [16_host_interface.md R351, R352,
R354, R355, R356, R357, R359, R360, R361, R362; 17_purser_events_manifest.md R384; 18_power_clocks_reset.md R394] -/
def Obligations.LinkAndConfiguration : Prop :=
  (∀ (s : State) (rate width : Nat) (flit : Bool),
    let row := (rate = 2500 ∨ rate = 5000 ∨ rate = 8000 ∨ rate = 16000 ∨ rate = 32000 ∨ rate = 64000) ∧
      (width = 1 ∨ width = 2 ∨ width = 4 ∨ width = 8) ∧ (rate = 64000 → flit = true);
    (¬ row ∨ s.host.perst = true ∨ s.power.off = true → exec (.linkTrained rate width flit) s = .next s) ∧
    (row → s.host.perst = false → s.power.off = false → ∃ u, Frame [] [.host] s u ∧
      u.host = { s.host with linkUp := true, rate := rate, width := width, active := width, flitMode := flit, trainedBefore := true, inL1 := false } ∧
      let v := ((List.range 32).foldl (fun t f => if s.fnSends f = false ∧ t.fnSends f = true then t.sendWaiting f else t) u).raise 32
      exec (.linkTrained rate width flit) s =
        .next (if s.host.trainedBefore = true ∧ ¬ (s.host.rate = rate ∧ s.host.width = width ∧ s.host.flitMode = flit) then v.raise 34 else v))) ∧
  (∀ s : State,
    (s.host.linkUp = false → exec .linkFailure s = .next s) ∧
    (s.host.linkUp = true → Yields .linkFailure s [33] [] [.host] fun u => u.host = { s.host with linkUp := false, inL1 := false, reads := [] }) ∧
    (let a := s.host.aspm
      let low := (s.fnCfg 0).ltrEnable = false ∨ a.threshold ≤ (if s.anyChanBusy then 20000 else 1000000)
      s.host.linkUp = true → a.l1 = true → Yields .aspmL1Entry s [] [] [.host] fun u =>
        u.host = { s.host with inL1 := true, sub := if a.l12 = true ∧ low then 2 else if a.l11 = true then 1 else 0 }) ∧
    (s.host.linkUp = false ∨ s.host.aspm.l1 = false → exec .aspmL1Entry s = .next s)) ∧
  (∀ (s : State) (f : Fin 32) (a : HoldAccess) (arb : Arbitration) (len : Fin 4097) (more : List Arbitration),
    let cmd := Instr.bar2Access f a arb len more
    let x := { a with master := BitVec.ofNat 8 (0x40 + f.val) }
    let start := wordOf a.addr.toNat + a.rotate.val
    (s.answers (.fn f) = false ∨ s.host.linkUp = false → exec cmd s = .next s) ∧
    (s.answers (.fn f) = true → s.host.linkUp = true →
      let dropped := s.inWinter = true ∨ bankOf a.addr.toNat / 16 ∈ s.hold.unready;
      ∃ u, Frame [] [.host] s u ∧ u.host = { s.host with inL1 := false } ∧
        (dropped → exec cmd s = .next ((u.count F.glbWinterDropsCount 1).discardHost f a len)) ∧
        (¬ dropped → s.get (F.mstFreezeCauseFrozen (0x40 + f)) = 0 → a.write = true → exec cmd s = .next (u.presentAccess x arb)) ∧
        (¬ dropped → s.get (F.mstFreezeCauseFrozen (0x40 + f)) = 0 → a.write = false → ∃ v, Frame [] [.host] u v ∧
          v.host = { u.host with reads := u.host.reads ++ [⟨f.val, start, len.val, []⟩] } ∧
          exec cmd s = .next ((List.range (wordsTouched start len).length).foldl (fun t i =>
            t.presentAccess { x with addr := a.addr + BitVec.ofNat 30 (32 * i), rotate := if i = 0 then a.rotate else 0 }
              ((arb :: more).getD i { arb with others := [] })) v)) ∧
        (¬ dropped → s.get (F.mstFreezeCauseFrozen (0x40 + f)) = 1 → exec cmd s =
          .next ((if s.mayHold (0x40 + f) (bankOf a.addr.toNat) a.write then u
            else u.violate (0x40 + f) (s.barCode (0x40 + f) a.addr.toNat a.write) a.addr.toNat a.write).discardHost f a len))) ∧
    (a.write = true → s.discardHost f a len = s) ∧
    (a.write = false → Frame [] [.out] s (s.discardHost f a len) ∧ (s.discardHost f a len).out =
      ((completionPieces (s.fnCfg f).maxPayload len start len).map fun p => Out.bar2 f (List.replicate p.2 0xFF) false false).reverse ++ s.out)) ∧
  (∀ most fuel a n : Nat, n ≤ fuel → ((completionPieces most fuel a n).map (·.2)).sum = n ∧
    ∀ p ∈ completionPieces most fuel a n, 1 ≤ p.2 ∧ p.2 ≤ max 64 most ∧ ((p.1 + p.2) % 64 = 0 ∨ p.1 + p.2 = a + n)) ∧
  (∀ (s : State) (f : Fin 32) (c : ConfigChange), s.fnExists f = false ∨ s.power.off = true ∨ s.host.perst = true →
    exec (.configWrite f c) s = .next s) ∧
  (∀ (s : State) (f : Fin 32), s.fnExists f = true → s.power.off = false → s.host.perst = false →
    (∀ m b, ∃ u, s.withFn f (fun x => { x with memSpace := m, busMaster := b }) u ∧ exec (.configWrite f (.command m b)) s = .next (s.woken u f)) ∧
    (∀ d, ∃ u, s.withFn f (fun x => { x with d3hot := d }) u ∧ exec (.configWrite f (.power d)) s = .next (s.woken u f)) ∧
    (∀ e k, ∃ u, s.withFn f (fun x => { x with msixEnable := e, fnMask := k }) u ∧
      exec (.configWrite f (.msix e k)) s = .next (if k then s.woken u f else (s.woken u f).sendHeld (fnVectors f))) ∧
    (∀ p r, ∃ u, s.withFn f (fun x => { x with maxPayload := 128 * 2 ^ p.val, maxReadReq := 128 * 2 ^ r.val }) u ∧
      exec (.configWrite f (.sizes p r)) s = .next u) ∧
    (∀ m : Fin 4, ∃ u, s.withFn f (fun x => { x with tagMode := m }) u ∧ exec (.configWrite f (.tags m)) s = .next u) ∧
    (∀ e, f.val = 0 → ∃ u, s.withFn 0 (fun x => { x with ltrEnable := e }) u ∧ exec (.configWrite f (.ltr e)) s = .next u) ∧
    (∀ (l1 l11 l12 : Bool) (k i : Nat) (w : Fin 4) (b : Fin 3) (a : BitVec 64) (p : Word) (n : BitVec 8),
      let host (c : ConfigChange) (h : HostState) : Prop := Yields (.configWrite f c) s [] [] [.host] fun u => u.host = h
      let based (l : List Nat) : List Nat := updAt l b fun _ =>
        let size := [2 ^ 26, 2 ^ 30, 2 ^ 16].getD b 1
        a.toNat / size * size
      f.val = 0 → host (.aspm l1 l11 l12 k) { s.host with aspm := ⟨l1, l11, l12, k⟩ } ∧
        (s.host.flitMode = true → host (.l0p w) { s.host with active := min s.host.width (2 ^ w.val) }) ∧
        (s.host.flitMode = false → exec (.configWrite f (.l0p w)) s = .next s) ∧
        host (.bar b a) { s.host with pfBars := based s.host.pfBars } ∧ host (.vfBar b a) { s.host with vfBars := based s.host.vfBars } ∧
        host (.pageSize p) { s.host with pageSize := p.toNat } ∧ host (.bus n) { s.host with bus := n.toNat } ∧
        (∀ g, 1 ≤ g → s.barAddr g b = s.host.vfBars.getD b 0 + (g - 1) * [2 ^ 26, 2 ^ 30, 2 ^ 16].getD b 1) ∧ s.routingId i = 256 * s.host.bus + i) ∧
    (∀ c u, ∃ v, s.withFn f (fun x => { x with aerCor := x.aerCor &&& (2 ^ 32 - 1 - c.toNat), aerUnc := x.aerUnc &&& (2 ^ 32 - 1 - u.toNat) }) v ∧
      exec (.configWrite f (.aer c u)) s = .next v) ∧
    (∀ e l1 l11 l12 t k w b a p n, f.val ≠ 0 →
      ∀ c ∈ [ConfigChange.ltr e, .aspm l1 l11 l12 t, .sriov e k, .l0p w, .bar b a, .vfBar b a, .pageSize p, .bus n],
      exec (.configWrite f c) s = .next s) ∧
    (∀ k, f.val = 0 → Yields (.configWrite f (.sriov true k)) s [] [] [.host] fun u =>
      u.host = { s.host with vfEnable := true, numVfs := min 31 k.toNat }) ∧
    (∀ k, f.val = 0 → Yields (.configWrite f (.sriov false k)) s [] [] [.host] fun u => u.host.vfEnable = false ∧ u.host.numVfs = min 31 k.toNat ∧
      u.fnCfg 0 = s.fnCfg 0 ∧ (∀ n, 1 ≤ n → n < 32 → u.fnCfg n = FnConfig.reset) ∧ u.host.linkUp = s.host.linkUp ∧
      (∀ v, v ∈ u.host.unmasked ↔ v ∈ s.host.unmasked ∧ (vectorFn v = 0 ∨ 32 ≤ vectorFn v))) ∧
    (∀ (v : Fin 2048) a d, ∀ c ∈ [ConfigChange.maskVector v, .entry v a d],
      (s.answers (.fn f) = false ∨ vectorFn v.val ≠ f.val → exec (.configWrite f c) s = .next s) ∧
      (s.answers (.fn f) = true → vectorFn v.val = f.val → s.inWinter = true → exec (.configWrite f c) s = .next (s.count F.glbWinterDropsCount 1)) ∧
      (s.answers (.fn f) = true → vectorFn v.val = f.val → s.inWinter = false →
        Yields (.configWrite f (.maskVector v)) s [] [] [.host] (fun u =>
          u.host = { s.host with unmasked := s.host.unmasked.filter (· != v.val) }) ∧
        Yields (.configWrite f (.entry v a d)) s [] [] [.host] fun u =>
          u.host = { s.host with entries := ⟨v, a.toNat, d.toNat⟩ :: s.host.entries.filter (·.vector != v.val) } ∧
          u.msixOut v = .msix v f a.toNat d.toNat))) ∧
  (∀ (s : State) (v : Fin 2048) (f : Fin 32), vectorFn v.val = f.val →
    (s.answers (.fn f) = false → exec (.msixVectorUnmask v) s = .next s) ∧
    (s.answers (.fn f) = true → s.inWinter = true → exec (.msixVectorUnmask v) s = .next (s.count F.glbWinterDropsCount 1)) ∧
    (s.answers (.fn f) = true → s.inWinter = false → ∃ u, exec (.msixVectorUnmask v) s = .next (u.sendHeld [v.val]) ∧ Frame [] [.host] s u ∧
      u.host = { s.host with unmasked := keyInsert s.host.unmasked v })) ∧
  (∀ f < 32, ∃ first n, vectorRange f = (first, n) ∧ (∀ v < 2048, first ≤ v ∧ v < first + n ↔ vectorFn v = f) ∧
    capAt f 0xA0 = some (.msix (n - 1) 4 0x0000 0x8000) ∧
    ∀ c ∈ capabilities f, f ≠ 0 → c.1 ∈ [0x40, 0x50, 0xA0, 0x100, 0x190, 0x3A0])

/-- A violation of a master not frozen latches the cause, its code, address, direction and owner, counts, freezes it with its status bits and raises its
event, a reach's with the calibrations on its route ended with 0x520; a reach or a scan-out engine stalls its route at its last frozen stage; of a
frozen one it sets MORE; of a trusted master (1 to 3) it is kept without a freeze and told with event 70. A thaw is refused with 0x213, 0x211 or 0x210
and event 72, or thaws with event 71; a violation met in that clock prevails with 0x212, its cause latched anew. ACK clears the cause, unless a
violation of an assigned master meets it. An FLR resets the function and its vectors, thaws it, and its end raises event 38. The model's choice: an
FLR aborts a frozen RUNNING channel too (DEDUCED, notes/assumptions/63.md), and a function shows its configuration's reset values (PRESUMED,
notes/assumptions/12.md). [16_host_interface.md R363, R364, R365, R366, R367, R370, R371, R372] -/
def Obligations.FreezeAndThaw : Prop :=
  (∀ (s : State) (m code addr : Nat) (write : Bool) (src : Nat), m < 256 → ¬ (1 ≤ m ∧ m ≤ 3) →
    (s.frozen m = false → ∃ t u, s.violate m code addr write src =
        (if 0x60 ≤ m ∧ m < 0xA4 then (List.range 4).foldl State.noteStall (u.abortRoute (m - 0x60))
          else if 0xC0 ≤ m ∧ m < 0xC4 then u.noteStall (m - 0xC0) else u).raise (freezeEvent m) ∧
      t = s.latchCause m code addr write src ∧ Frame (frozenFields m) [] t u ∧ u.frozen m = true ∧
      u.get ⟨R.mstFrozen (m / 32), m % 32, m % 32⟩ = 1 ∧
      (0x10 ≤ m → m < 0x30 → u.get (F.dmaStatusFrozen (m - 0x10)) = 1) ∧ (0x08 ≤ m → m < 0x0C → u.get (F.eddyStatusFrozen (m - 0x08)) = 1) ∧
      (0xB0 ≤ m → m < 0xB3 → u.get (F.chnpStatusFrozen (m - 0xB0)) = 1)) ∧
    (s.frozen m = true → ∃ u, s.violate m code addr write src = u ∧ Frame [F.mstFreezeCauseMore m] [] s u ∧ u.get (F.mstFreezeCauseMore m) = 1)) ∧
  (∀ (s : State) (m code addr : Nat) (write : Bool) (src : Nat), 1 ≤ m → m ≤ 3 →
    (s.get (F.mstFreezeCauseCode m) = 0 → s.violate m code addr write src = (s.latchCause m code addr write src).raise 70) ∧
    (s.get (F.mstFreezeCauseCode m) ≠ 0 → ∃ u, s.violate m code addr write src = u ∧ Frame [F.mstFreezeCauseMore m] [] s u ∧
      u.get (F.mstFreezeCauseMore m) = 1)) ∧
  (∀ (s : State) (m code addr : Nat) (write : Bool) (src : Nat), m < 256 → ∃ u, s.latchCause m code addr write src = u ∧
    Frame (F.mstViolationsCount :: causeFields m) [] s u ∧ u.get (F.mstFreezeCauseCode m) = code % 4096 ∧
    u.reg (R.mstCauseAddrLo m) = BitVec.ofNat 32 addr ∧ u.reg (R.mstCauseAddrHi m) = BitVec.ofNat 32 (addr / 2 ^ 32) ∧
    u.get (F.mstCauseDetailDir m) = write.toNat ∧ u.get (F.mstCauseDetailChainSrc m) = src % 65536 ∧
    u.get (F.mstCauseDetailOwner m) = (if code = 0x201 ∨ code = 0x202 ∨ code = 0x205 ∨ code = 0x207 then s.owner (bankOf (addr % 2 ^ 30)) else 0) % 256 ∧
    u.get F.mstViolationsCount = min 0xFFFFFFFF (s.get F.mstViolationsCount + 1)) ∧
  (∀ (s : State) (n : Nat) (o : OutState), n < 4 → s.outs[n]? = some o → ∃ u k, s.noteStall n = u ∧ Frame [] [.output n] s u ∧
    u.outs[n]? = some { o with stall := max o.stall k, froze := o.froze || decide (k ≠ 0) } ∧ k = s.stallNow n ∧
    (k = 0 → s.frozen (0xC0 + n) = false ∧ ∀ x ∈ (s.cfg n).stages, x.type ≠ 0 → ∀ r ∈ x.reaches, s.frozen (0x60 + r) = false) ∧
    (∀ x ∈ (s.cfg n).stages, ∀ r ∈ x.reaches, s.frozen (0x60 + r) = true → x.type ≤ k) ∧ (s.frozen (0xC0 + n) = true → 1 ≤ k)) ∧
  (∀ (s : State) (r : Nat), s.abortRoute r =
    (List.range 4).foldl (fun t o => if r ∈ (t.cfg o).reaches then (t.cfg o).lanes.foldl State.abortCal t else t) s) ∧
  (∀ (s : State) (l : Nat), ((s.lane l).cal = none → s.abortCal l = s) ∧ ∀ c, (s.lane l).cal = some c → s.abortCal l = s.endCal l 0x520 c.start) ∧
  (∀ (s : State) (w : Writer) (id : BitVec 8), s.accepts w R.mstThaw = true →
    let m := id.toNat
    ∃ t, Frame [F.mstThawId, F.mstThawStatusLastId] [] s t ∧ t.get F.mstThawId = m ∧ t.get F.mstThawStatusLastId = m ∧
      let refused := fun (c : Instr) (x : State) (code : Nat) => exec c s = .next ((x.put F.mstThawStatusLastCode code).raise 72)
      (thawable m = false → refused (.mstThaw w id none) t 0x213) ∧
      (∀ v : Meeting, thawable m = false → refused (.mstThaw w id (some v))
        (if 1 ≤ m ∧ m ≤ 3 then t.violate m v.code.toNat v.addr.toNat v.write v.src.toNat else t) 0x213) ∧
      (∀ v : Meeting, thawable m = true → refused (.mstThaw w id (some v)) (t.meetViolation m v) 0x212) ∧
      (thawable m = true → s.frozen m = false → refused (.mstThaw w id none) t 0x211) ∧
      (thawable m = true → s.frozen m = true → s.get (F.mstFreezeCauseCode m) ≠ 0 → refused (.mstThaw w id none) t 0x210) ∧
      (thawable m = true → s.frozen m = true → s.get (F.mstFreezeCauseCode m) = 0 →
        exec (.mstThaw w id none) s = .next (((t.thawMaster m).put F.mstThawStatusLastCode 0).raise 71))) ∧
  (∀ (s : State) (w : Writer) (m : BitVec 8), s.accepts w (R.mstFreezeCause m.toNat) = true →
    (Yields (.causeAck w m none) s [] (causeFields m.toNat) [] fun u =>
      u.get (F.mstFreezeCauseCode m.toNat) = 0 ∧ u.get (F.mstFreezeCauseMore m.toNat) = 0 ∧ u.reg (R.mstCauseAddrLo m.toNat) = 0 ∧
      u.reg (R.mstCauseAddrHi m.toNat) = 0 ∧ u.reg (R.mstCauseDetail m.toNat) = 0) ∧
    (let trusted := 1 ≤ m.toNat ∧ m.toNat ≤ 3
      ∀ v, (thawable m.toNat = true ∨ trusted → exec (.causeAck w m (some v)) s = .next (s.meetViolation m.toNat v)) ∧
        (thawable m.toNat = false → ¬ trusted → exec (.causeAck w m (some v)) s = exec (.causeAck w m none) s))) ∧
  (∀ (s : State) (m : Nat) (v : Meeting),
    let t := s.latchCause m v.code.toNat v.addr.toNat v.write v.src.toNat
    (1 ≤ m → m ≤ 3 → s.meetViolation m v = t.raise 70) ∧
    (¬ (1 ≤ m ∧ m ≤ 3) → s.frozen m = true → s.meetViolation m v = t) ∧
    (¬ (1 ≤ m ∧ m ≤ 3) → s.frozen m = false → s.meetViolation m v = s.violate m v.code.toNat v.addr.toNat v.write v.src.toNat)) ∧
  (∀ (s : State) (f : Fin 32),
    (s.fnExists f = false ∨ s.power.off = true → exec (.functionLevelReset f) s = .next s) ∧
    (s.fnExists f = true → s.power.off = false → exec (.functionLevelReset f) s = .next ((s.resetFunction f).setFn f fun x => { x with flrBusy := true })) ∧
    (s.fnExists f = true → s.power.off = false → f.val ≠ 0 →
      (∀ ch, ch < 32 → ¬ (s.get (F.dmaFuncFunc ch) = f.val ∧ s.get (F.dmaStatusState ch) = 1)) →
      Yields (.functionLevelReset f) s [] (frozenFields (0x40 + f) ++ causeFields (0x40 + f)) [.host] fun u =>
        u.frozen (0x40 + f) = false ∧ u.get (F.mstFreezeCauseCode (0x40 + f)) = 0 ∧ u.get (F.mstFreezeCauseMore (0x40 + f)) = 0 ∧
        (f.val < s.host.fns.length → u.fnCfg f = { FnConfig.reset with flrBusy := true }) ∧
        (∀ g, g ≠ f.val → u.fnCfg g = s.fnCfg g) ∧ (∀ v, v ∈ u.host.unmasked ↔ v ∈ s.host.unmasked ∧ vectorFn v ≠ f.val) ∧
        (∀ e, e ∈ u.host.entries ↔ e ∈ s.host.entries ∧ vectorFn e.vector ≠ f.val) ∧
        (∀ v, v ∈ u.host.pba ↔ v ∈ s.host.pba ∧ vectorFn v ≠ f.val)) ∧
    ((s.fnCfg f).flrBusy = false → exec (.flrComplete f) s = .next s) ∧
    ((s.fnCfg f).flrBusy = true → Yields (.flrComplete f) s [38] [] [.host] fun u =>
      u.host = { s.host with fns := updAt s.host.fns f fun x => { x with flrBusy := false } }))

/-- RING of an idle slot makes it BUSY and QUEUED at the end of the queue; of a BUSY one it raises MBOX_REFUSED. The Purser takes up the first of the
queue; a completion writes results, response and tag, clears BUSY, sets DONE and raises MBOX_DONEk; the time limit completes with RESULT 4 and event
595, the mechanism going on, unless it completed in that clock. GET_INFO and EVENT_TEST answer as their rules say, an unknown opcode 1, a command of
PF0 by another master 6. EVT_SOFT raises 597. The model's choice: what goes on after a time limit (DEDUCED, notes/assumptions/74.md), opcodes that the
table does not list (DEDUCED, notes/assumptions/75.md), two doorbells of one clock (DEDUCED, notes/assumptions/76.md). [01_lararn_in_the_system.md
R19; 17_purser_events_manifest.md R376, R377, R378, R379, R380, R386] -/
def Obligations.MailboxSlots : Prop :=
  (∀ (s : State) (k result code : Nat) (args : List Nat), k < 16 → args.length ≤ 14 →
    ∃ u, s.mboxDone k result code args = u.raise (576 + k) ∧ Frame (mailboxFields k args.length) [.purser] s u ∧
      (∀ i v, args[i]? = some v → u.get (F.pursmArgValue k i) = v % 2 ^ 32) ∧
      u.get (F.pursmRespCode k) = code % 2 ^ 12 ∧ u.get (F.pursmRespTag k) = s.get (F.pursmCmdTag k) ∧ u.get (F.pursmRespResult k) = result % 8 ∧
      u.get (F.pursmStatusBusy k) = 0 ∧ u.get (F.pursmStatusDone k) = 1 ∧ u.get (F.pursmStatusQueued k) = 0 ∧
      (s.purser.current = some k → u.purser = { s.purser with current := none, begun := false })) ∧
  (∀ (s : State) (w : Writer) (k : Fin 16), s.accepts w (R.pursmDoorbell k) = true →
    (s.get (F.pursmStatusBusy k) = 1 → exec (.doorbellRing w k) s = .next (s.raise 594)) ∧
    (s.get (F.pursmStatusBusy k) = 0 → Yields (.doorbellRing w k) s [] [F.pursmStatusBusy k, F.pursmStatusDone k, F.pursmStatusQueued k] [.purser] fun u =>
      u.get (F.pursmStatusBusy k) = 1 ∧ u.get (F.pursmStatusDone k) = 0 ∧ u.get (F.pursmStatusQueued k) = 1 ∧
      u.purser = { s.purser with queue := s.purser.queue ++ [(k.val, masterOf w)] })) ∧
  (∀ s : State,
    (s.purser.queue = [] ∨ s.purser.serving = false ∨ s.purser.current ≠ none → exec .mailboxTakeUp s = .next s) ∧
    (∀ k m rest, k < 16 → s.purser.queue = (k, m) :: rest → s.purser.serving = true → s.purser.current = none →
      Yields .mailboxTakeUp s [] [F.pursmStatusQueued k] [.purser] fun u =>
        u.get (F.pursmStatusQueued k) = 0 ∧ u.purser = { s.purser with queue := rest, current := some k, caller := m, begun := false }) ∧
    exec (.mailboxTimeout true) s = .next s ∧
    (s.purser.current = none → exec (.mailboxTimeout false) s = .next s) ∧
    (∀ k, s.purser.current = some k → ∃ u, exec (.mailboxTimeout false) s = .next ((u.raise 595).mboxDone k 4 0 []) ∧ Frame [] [.cal, .hold, .relief] s u ∧
      u.cal = { s.cal with jobs := ((s.cal.jobs.take 1).map fun j => if j.origin = .mailbox k then { j with origin := .part } else j) ++
        (s.cal.jobs.drop 1).filter (·.origin != .mailbox k) } ∧
      u.hold = { s.hold with repairSlot := if s.hold.repairSlot = some k then none else s.hold.repairSlot } ∧
      u.relief = { s.relief with waiting := (s.relief.waiting.filter fun p => !(p.slot == some k && p.stage == 0)).map fun p => if p.slot = some k then { p with slot := none } else p })) ∧
  (∀ s : State, s.purser.current = none ∨ s.purser.serving = false ∨ s.purser.begun = true → ∀ ok data, ∀ c ∈ mailboxCommands ok data, exec c s = .next s) ∧
  (∀ (s : State) (k : Nat), s.purser.current = some k → s.purser.serving = true → s.purser.begun = false → ∃ t, s.begins k t ∧
    let op := s.get (F.pursmCmdOpcode k)
    (op = 1 → exec .getInfo s = .next (t.mboxDone k 0 0 [s.word R.pursInfo, 0xC2, s.word R.pursStatus, s.word R.chnSerialLo, s.word R.chnSerialHi])) ∧
    (op = 2 → s.purser.caller = 0x40 → let src := s.arg k 0 % 1024
      (src < 768 → implemented src = true → exec .eventTest s = .next ((t.raise src).mboxDone k 0 0 [])) ∧
      (768 ≤ src ∨ implemented src = false → exec .eventTest s = .next (t.mboxDone k 2 0 []))) ∧
    (op ∉ [1, 2, 0x10, 0x11, 0x12, 0x13, 0x14, 0x15, 0x20] →
      let barred := 0x10 ≤ op ∧ op < 0x30 ∧ s.purser.caller ≠ 0x40;
      (¬ barred → exec .unknownOp s = .next (t.mboxDone k 1 0 [])) ∧ (barred → exec .unknownOp s = .next (t.mboxDone k 6 0 []))) ∧
    (s.purser.caller ≠ 0x40 → ∀ ok data, ∀ p ∈ [(2, Instr.eventTest), (0x10, .calRead ok), (0x11, .calStore data), (0x12, .calClear), (0x13, .calSetDigest),
      (0x14, .calStatus), (0x15, .otpFuse), (0x20, .reliefSwap)], op = p.1 → exec p.2 s = .next (t.mboxDone k 6 0 []))) ∧
  (∀ (s : State) (w : Writer), s.accepts w R.evtSoft = true → exec (.evtSoftRaise w) s = .next (s.raise 597))

/-- CAL_READ, CAL_STORE, CAL_CLEAR, CAL_SET_DIGEST and CAL_STATUS answer each case of their table with the result and the code given (2, 3 with 0x701 to
0x708, or 0), or queue the store asked for. OTP_FUSE needs Test, blows what is not blown, and is 0x704 when something was blown already, and else
raises FUSE_DONE. What is read from the host goes out in requests of at most Max_Read_Request_Size that cross no 4 KiB boundary. RELIEF_SWAP of each
kind is refused with 1, 2, 3 or 5, logged, or begins the swap or repair. The model's choice: results and codes that the tables leave open (DEDUCED,
notes/assumptions/75.md), the spacing of the reads (DEDUCED, notes/assumptions/99.md). [16_host_interface.md R352; 17_purser_events_manifest.md R380;
18_power_clocks_reset.md R401, R406; 19_relief_and_aging.md R411, R419] -/
def Obligations.MailboxStoreCommands : Prop :=
  ∀ (s : State) (k : Nat), s.purser.current = some k → s.purser.serving = true → s.purser.begun = false → s.purser.caller = 0x40 →
    (∀ (t : State) f a n, Frame [] [.host, .out] t (t.hostReads f a n) ∧
      (t.hostReads f a n).out = ((linkPieces (t.readMost f) n a n).map fun p => Out.hostRead f p.1 p.2).reverse ++ t.out) ∧
    (∀ most fuel a n : Nat, n ≤ fuel → ((linkPieces most fuel a n).map (·.2)).sum = n ∧
      ∀ p ∈ linkPieces most fuel a n, 1 ≤ p.2 ∧ p.2 ≤ max 1 most ∧ p.1 % 4096 + p.2 ≤ 4096) ∧
    ∃ t, s.begins k t ∧
    let op := s.get (F.pursmCmdOpcode k)
    let kind := s.arg k 0
    let ends := fun (c : Instr) (result code : Nat) => exec c s = .next (t.mboxDone k result code [])
    (op = 0x10 →
      (∀ ok, 16 ≤ kind → ends (.calRead ok) 2 0) ∧
      (∀ ok, kind < 16 → s.inForce kind = none → ends (.calRead ok) 3 0x708) ∧
      (∀ ok ab, kind < 16 → s.inForce kind = some ab → (s.fnCfg 0).busMaster = false → ends (.calRead ok) 3 0x703) ∧
      (∀ ab, kind < 16 → s.inForce kind = some ab → (s.fnCfg 0).busMaster = true →
        let u := t.purserWrite (s.argAddr k 1) ((s.copy kind ab).payload.take (s.arg k 3))
        exec (.calRead true) s = .next (u.mboxDone k 0 0 [(s.copy kind ab).length, (s.copy kind ab).seq, ab]) ∧
        exec (.calRead false) s = .next (u.mboxDone k 3 0x703 []))) ∧
    (op = 0x11 → ∀ data,
      (16 ≤ kind → ends (.calStore data) 2 0) ∧
      (kind < 16 → kindWritable kind = false → ends (.calStore data) 3 0x701) ∧
      (kindWritable kind = true → maxPayload kind < s.arg k 3 → ends (.calStore data) 3 0x702) ∧
      (kindWritable kind = true → s.arg k 3 ≤ maxPayload kind → 0xFFFFFFFE < s.nextSeq kind → ends (.calStore data) 3 0x707) ∧
      (kindWritable kind = true → s.arg k 3 ≤ maxPayload kind → s.nextSeq kind ≤ 0xFFFFFFFE →
        (s.arg k 3 = 0 → exec (.calStore data) s = .next (t.queueStore ⟨kind, false, [], [], [], 0, .mailbox k⟩)) ∧
        (s.arg k 3 ≠ 0 → (s.fnCfg 0).busMaster = false → ends (.calStore data) 3 0x703) ∧
        (s.arg k 3 ≠ 0 → (s.fnCfg 0).busMaster = true →
          let u := t.hostReads 0 (s.argAddr k 1) (s.arg k 3)
          (∀ l, data = some l → l.length = s.arg k 3 →
            exec (.calStore data) s = .next (u.queueStore ⟨kind, false, l, [], [], 0, .mailbox k⟩)) ∧
          (data = none → exec (.calStore data) s = .next (u.mboxDone k 3 0x703 []))))) ∧
    (op = 0x12 →
      (16 ≤ kind → ends .calClear 2 0) ∧
      (kind < 16 → kindWritable kind = false → ends .calClear 3 0x701) ∧
      (kindWritable kind = true → exec .calClear s = .next (t.queueStore ⟨kind, true, [], [], [], 0, .mailbox k⟩))) ∧
    (op = 0x13 →
      let old := padTo 128 ((s.recordOf 2).getD [])
      let digest := ((List.range 8).map fun i => leBytes 4 (s.arg k (1 + i))).flatten
      (4 ≤ kind → ends .calSetDigest 2 0) ∧
      (kind < 4 → bit s.digests kind = true → ends .calSetDigest 3 0x704) ∧
      (kind < 4 → bit s.digests kind = false → 0xFFFFFFFE < s.nextSeq 2 → ends .calSetDigest 3 0x707) ∧
      (kind < 4 → bit s.digests kind = false → s.nextSeq 2 ≤ 0xFFFFFFFE →
        exec .calSetDigest s =
          .next (t.queueStore ⟨2, false, old.take (32 * kind) ++ digest ++ old.drop (32 * kind + 32), [], [], s.digests ||| 2 ^ kind, .mailbox k⟩))) ∧
    (op = 0x14 → ∃ ab u, exec .calStatus s = .next (u.mboxDone k 0 0 ((List.range 12).map s.seqOf ++ [ab, s.word R.calStatus])) ∧
      Frame [] [.free] t u ∧ u.freeCount = s.freeCount + 1 ∧
      ∀ kind c, kind < 12 → s.inForce kind = some c → bit ab kind = (c == 1)) ∧
    (op = 0x15 →
      (s.get F.glbStateState ≠ 2 → ends .otpFuse 3 0) ∧
      (s.get F.glbStateState = 2 →
        let sign := s.arg k 0 % 2 = 1
        let key := ofBe (((List.range 8).map fun i => leBytes 4 (s.arg k (1 + i))).flatten)
        let sub := s.arg k 9
        let again := (sign ∧ s.otp.signRequired = true) ∨ (key ≠ 0 ∧ s.otp.keyHash ≠ none) ∨ (sub ≠ 0 ∧ s.otp.subsys ≠ none);
        let new := (sign ∧ s.otp.signRequired = false) ∨ (key ≠ 0 ∧ s.otp.keyHash = none) ∨ (sub ≠ 0 ∧ s.otp.subsys = none);
        ∃ u, Frame [] [.otp] t u ∧
          (sign ∨ s.otp.signRequired = true ↔ u.otp.signRequired = true) ∧
          u.otp.keyHash = (if s.otp.keyHash = none ∧ key ≠ 0 then some key else s.otp.keyHash) ∧
          u.otp.subsys = (if s.otp.subsys = none ∧ sub ≠ 0 then some sub else s.otp.subsys) ∧
          let v := if new ∨ ¬ again then u.raise 22 else u
          (again → exec .otpFuse s = .next (v.mboxDone k 3 0x704 [])) ∧
          (¬ again → exec .otpFuse s = .next (v.mboxDone k 0 0 [])))) ∧
    (op = 0x20 → let unit := s.arg k 1
      let row := s.arg k 2
      let refused := fun (result : Nat) => exec .reliefSwap s = .next ((t.logSwap kind result unit row 0 0).mboxDone k 3 0 [result])
      (kind = 0 →
        (96 ≤ unit ∨ s.get (F.plnRoleRole unit) = 0 → refused 2) ∧
        (unit < 96 → s.get (F.plnRoleRole unit) ≠ 0 → s.laneSwap unit = none → s.sliceOf unit = none → s.freeSlices (laneGroup unit) = [] → refused 1) ∧
        (unit < 96 → s.get (F.plnRoleRole unit) ≠ 0 → s.laneSwap unit ≠ none ∨ s.sliceOf unit ≠ none → refused 5) ∧
        (unit < 96 → s.get (F.plnRoleRole unit) ≠ 0 → s.laneSwap unit = none → s.sliceOf unit = none → s.freeSlices (laneGroup unit) ≠ [] →
          exec .reliefSwap s = .next (t.askLaneSwap unit 0 (some k)))) ∧
      (kind = 1 →
        (12 ≤ unit → refused 2) ∧
        (unit < 12 → s.chainRelieved (unit / 4) = some (unit % 4) → refused 5) ∧
        (unit < 12 → s.chainRelieved (unit / 4) ≠ some (unit % 4) → s.chainRelieved (unit / 4) ≠ none ∨ s.chainSwap (unit / 4) ≠ none → refused 1) ∧
        (unit < 12 → s.chainRelieved (unit / 4) = none → s.chainSwap (unit / 4) = none →
          exec .reliefSwap s = .next (t.askChainSwap (unit / 4) (unit % 4) 0 (some k)))) ∧
      (kind = 2 → 64 ≤ unit → refused 2) ∧
      (kind = 2 → unit < 64 → let taken := s.get (F.rlfReachReplaced unit) = 1 ∨ ∃ p ∈ s.relief.waiting, p.kind = 2 ∧ p.unit = unit;
        (taken → refused 5) ∧ (¬ taken → s.freeReaches = [] → refused 1) ∧
        ∀ r rest, ¬ taken → s.freeReaches = r :: rest → exec .reliefSwap s = .next (t.askReachSwap unit r 0 (some k))) ∧
      (kind = 3 → 256 ≤ unit ∨ 1024 ≤ row → refused 2) ∧
      (kind = 3 → unit < 256 → row < 1024 →
        ((unit, row) ∈ s.hold.reliefRows → refused 5) ∧ ((unit, row) ∉ s.hold.reliefRows → s.rowsFree unit = 0 → refused 1) ∧
        ((unit, row) ∉ s.hold.reliefRows → s.rowsFree unit ≠ 0 → s.hold.repair ≠ none → refused 3) ∧
        ((unit, row) ∉ s.hold.reliefRows → s.rowsFree unit ≠ 0 → s.hold.repair = none → exec .reliefSwap s = .next (t.beginRepair (.row unit row) 0 (some k)))) ∧
      (kind = 4 → 256 ≤ unit → refused 2) ∧
      (kind = 4 → unit < 256 → let free := s.get F.holdRepairStatusBanksFree
        (unit ∈ s.hold.reliefBanks → refused 5) ∧ (unit ∉ s.hold.reliefBanks → free = 0 → refused 1) ∧
        (unit ∉ s.hold.reliefBanks → free ≠ 0 → s.hold.repair ≠ none → refused 3) ∧
        (unit ∉ s.hold.reliefBanks → free ≠ 0 → s.hold.repair = none → exec .reliefSwap s = .next (t.beginRepair (.bank unit) 0 (some k)))) ∧
      (kind = 5 → (4 ≤ unit → refused 2) ∧ (unit < 4 → s.relief.pll = some unit → refused 5) ∧
        (unit < 4 → s.relief.pll ≠ some unit → s.relief.pll ≠ none → refused 1) ∧
        (unit < 4 → s.relief.pll = none → ∃ u, exec .reliefSwap s = .next u ∧ Frame [] [.relief] t u ∧
          u.relief = { s.relief with waiting := s.relief.waiting ++ [⟨5, unit, 0, 0, 0, some k, 0, false⟩] })) ∧
      (6 ≤ kind → ends .reliefSwap 2 0))

/-- The watchdog completes every slot with RESULT 5, counts RESTARTS, raises event 596, abandons stores, calibrations and a Boarding, and the Purser does
not serve until the restart is complete, which stores its log (the moment is the model's choice, log 103). A Manifest request keeps its address and is
taken up when the Purser serves and none is under way; without bus mastering it fails with 1; otherwise its 4,096 bytes are written and a flush read
follows, counted in flight, whose end raises 592 with the next sequence number, or 593 with result 2. The model's choice: what a restart ends and
leaves (DEDUCED, notes/assumptions/74.md), the times in a Manifest and a request that waits (DESIGN CHOICE, notes/assumptions/73.md).
[17_purser_events_manifest.md R374, R375, R387, R388, R389] -/
def Obligations.PurserAndManifest : Prop :=
  ∀ (s : State),
    (s.purser.serving = false → exec .purserWatchdog s = .next s) ∧
    (s.purser.serving = true →
      let slots := s.purser.current.toList ++ s.purser.queue.map (·.1)
      let t := slots.foldl (fun t k => (t.detach k).mboxDone k 5 0 []) s
      ∃ u, Frame [F.pursStatusRunning, F.pursStatusRestarts, F.dmaNpTotalCount] [.purser] t u ∧ u.get F.pursStatusRunning = 0 ∧
        u.get F.dmaNpTotalCount = (if s.purser.flushing then t.get F.dmaNpTotalCount - 1 else t.get F.dmaNpTotalCount) ∧
        u.get F.pursStatusRestarts = min 255 (t.get F.pursStatusRestarts + 1) ∧
        u.purser = { t.purser with serving := false, queue := [], current := none, begun := false, flushing := false } ∧
        let v := (List.range 96).foldl State.abortCal (u.raise 596).abandonStores
        ∃ x, exec .purserWatchdog s = .next x ∧ Frame [F.chnBoardStatusBusy, F.chnBoardStatusLastCode] [.chain, .time] v x ∧
          x.get F.chnBoardStatusBusy = 0 ∧
          x.get F.chnBoardStatusLastCode = (if v.get F.chnBoardStatusBusy = 1 then (if v.chain.conflict then 0x544 else 0x541) else v.get F.chnBoardStatusLastCode) ∧
          x.chain = { v.chain with conflict := false, onC := false, heldRoot := none } ∧ x.time = { v.time with samples := [], ptmOpen := false, ptmPrev := none }) ∧
    (let idle := s.purser.serving = true ∨ s.power.off = true ∨ s.power.fabricOff = true ∨ s.get F.glbStateState = 0;
      (idle → exec .purserRestartComplete s = .next s) ∧ (¬ idle → exec .purserRestartComplete s = .next (s.serve.storeOwn 7 (Config.purserLog (s.get F.pursStatusRestarts))))) ∧
    (∃ u, s.serve = (if s.purser.manifest.isSome then u.gather else u).takeManifest ∧ Frame [F.pursStatusRunning] [.purser] s u ∧
      u.get F.pursStatusRunning = 1 ∧ u.purser = { s.purser with serving := true }) ∧
    (∀ (w : Writer) (addr : BitVec 20), s.accepts w R.glbManifestReq = true →
      ∃ u, exec (.manifestRequest w addr) s = .next u.takeManifest ∧ Frame [F.glbManifestReqAddr, F.glbManifestStatusWaiting] [.purser] s u ∧
        u.get F.glbManifestReqAddr = addr.toNat ∧ u.get F.glbManifestStatusWaiting = 1 ∧
        u.purser = { s.purser with manifestWaiting := some (0x1000 * addr.toNat + 2 ^ 32 * s.get F.glbManifestAddrHiAddr) }) ∧
    (s.purser.manifestWaiting = none ∨ s.purser.serving = false ∨ s.purser.manifest ≠ none → s.takeManifest = s) ∧
    (∀ a, s.purser.manifestWaiting = some a → s.purser.serving = true → s.purser.manifest = none →
      ∃ u, s.takeManifest = u.gather ∧ Frame [F.glbManifestStatusWaiting, F.glbManifestStatusBusy] [.purser] s u ∧
        u.get F.glbManifestStatusWaiting = 0 ∧ u.get F.glbManifestStatusBusy = 1 ∧ u.purser = { s.purser with manifest := some a, manifestWaiting := none }) ∧
    (∀ a, s.purser.manifest = some a →
      ((s.fnCfg 0).busMaster = false → s.gather = s.manifestFail 1) ∧
      ((s.fnCfg 0).busMaster = true → ∃ u, s.gather = u ∧ Frame [F.dmaNpTotalCount] [.purser] (s.purserWrite a s.manifestBytes) u ∧
        u.get F.dmaNpTotalCount = (s.get F.dmaNpTotalCount + 1) % (fieldMax F.dmaNpTotalCount + 1) ∧
        u.purser = { (s.purserWrite a s.manifestBytes).purser with flushing := true })) ∧
    s.manifestBytes.length = 4096 ∧
    (∀ r, ∃ u, s.manifestFail r = u.raise 593 ∧ Frame [F.glbManifestStatusBusy, F.glbManifestStatusResult] [.purser] s u ∧
      u.get F.glbManifestStatusBusy = 0 ∧ u.get F.glbManifestStatusResult = r % 4 ∧ u.purser = { s.purser with manifest := none, flushing := false }) ∧
    (∀ ok, s.purser.flushing = false → exec (.manifestFlushComplete ok) s = .next s) ∧
    (s.purser.flushing = true →
      (∃ v, Frame [F.dmaNpTotalCount] [] s v ∧ v.get F.dmaNpTotalCount = s.get F.dmaNpTotalCount - 1 ∧
        exec (.manifestFlushComplete false) s = .next (v.manifestFail 2).takeManifest) ∧
      ∃ u, exec (.manifestFlushComplete true) s = .next (u.raise 592).takeManifest ∧
        Frame [F.glbManifestStatusBusy, F.glbManifestStatusResult, F.glbManifestStatusSeq, F.dmaNpTotalCount] [.purser] s u ∧
        u.get F.dmaNpTotalCount = s.get F.dmaNpTotalCount - 1 ∧
        u.get F.glbManifestStatusBusy = 0 ∧ u.get F.glbManifestStatusResult = 0 ∧
        u.get F.glbManifestStatusSeq = (s.get F.glbManifestStatusSeq + 1) % 65536 ∧ u.purser = { s.purser with manifest := none, flushing := false })

/-- A store that verifies commits its record in the other copy with the next sequence number and event 16, a clear blanks both copies; whoever asked is
told, and the next store follows. Sectors that mismatch are replaced by relief sectors and the store is tried once more, else it ends with 0x705. The
effective trims are the factory values plus the deltas, clamped, with the clamped ones marked and event 20. The model's choice: sectors and events of
a failed read-back (DEDUCED, notes/assumptions/81.md), the clear (DESIGN CHOICE, notes/assumptions/28.md), record layouts that the spec does not give
(DESIGN CHOICE, notes/assumptions/29.md). [18_power_clocks_reset.md R402, R403, R404, R405, R408; 19_relief_and_aging.md R418] -/
def Obligations.RecordStores : Prop :=
  ∀ (s : State),
    (∀ bad, s.cal.jobs = [] → exec (.recordStoreComplete bad) s = .next s) ∧
    (∀ bad j rest, s.cal.jobs = j :: rest → bad = [] ∨ j.clear = true →
      exec (.recordStoreComplete bad) s = .next ((s.commitStore j).tellStore j 0).nextStore) ∧
    (∀ bad j rest, s.cal.jobs = j :: rest → bad ≠ [] → j.clear = false →
      let l := (bad.map fun b : Fin 58 => b.val).foldl keyInsert []
      let t := s.storeFault j
      (∀ x, x ∈ l ↔ ∃ b ∈ bad, b.val = x) ∧
      (s.cal.retried = false → l.length + t.cal.sectors.length ≤ 6 → ∃ u, exec (.recordStoreComplete bad) s = .next u.beginStore ∧
        Frame [] [.cal] (t.mapSectors l) u ∧ u.cal = { (t.mapSectors l).cal with retried := true }) ∧
      (s.cal.retried = false → 6 < l.length + t.cal.sectors.length →
        exec (.recordStoreComplete bad) s = .next ((t.raise 728).tellStore j 0x705).nextStore) ∧
      (s.cal.retried = true → exec (.recordStoreComplete bad) s = .next (t.tellStore j 0x705).nextStore)) ∧
    (∀ j : StoreJob, j.kind < 12 → j.clear = false → ∃ u, s.commitStore j = u.raise 16 ∧ Frame [F.calSeqSequence j.kind] [.cal] s u ∧
      u.cal = { s.cal with copies := updAt s.cal.copies (2 * j.kind + s.target j.kind) fun _ => recordCopy j (s.nextSeq j.kind), trimDue := s.cal.trimDue || j.kind == 1 } ∧
      u.get (F.calSeqSequence j.kind) = u.seqOf j.kind % 2 ^ 32) ∧
    (∀ j : StoreJob, j.kind < 12 → j.clear = true → ∃ u, s.commitStore j = u ∧ Frame [F.calSeqSequence j.kind] [.cal] s u ∧
      (∀ ab c, ab < 2 → s.cal.copies[2 * j.kind + ab]? = some c → u.cal.copies[2 * j.kind + ab]? = some { c with magic := magicBlank }) ∧
      (∀ i, i / 2 ≠ j.kind → u.cal.copies[i]? = s.cal.copies[i]?) ∧ u.cal.jobs = s.cal.jobs ∧ u.cal.trimDue = (s.cal.trimDue || j.kind == 1)) ∧
    (s.cal.trimDue = false → exec .trimEffective s = .next s) ∧
    (s.cal.trimDue = true →
      let trim := fun i => sval 16 (Config.factoryTrim i).toNat + sval 16 (leAt ((s.recordOf 1).getD []) (2 * i) 2)
      let limit : Nat → Int := fun i => if i < 12 then 2000 else 160
      let clamped := fun i => clampI (-(limit i)) (limit i) (trim i)
      ∃ u, ((∀ i, i < 13 → clamped i = trim i) → exec .trimEffective s = .next u) ∧
        ((∃ i, i < 13 ∧ clamped i ≠ trim i) → exec .trimEffective s = .next (u.raise 20)) ∧
        Frame ((List.range 13).flatMap fun i => [F.calTrimValue i, F.calTrimSat i]) [.cal] s u ∧ u.cal = { s.cal with trimDue := false } ∧
        ∀ i, i < 13 → u.get (F.calTrimValue i) = ofSval 16 (clamped i) % 65536 ∧ u.get (F.calTrimSat i) = (if clamped i = trim i then 0 else 1))

/-- Losses of REFCLK are counted and told (10), its return told (11); the crystal's stop is told once (14). A PLL in use that loses lock is told (12), and
when it locks again (13) an output that waited for it goes on; an output whose PLL does not lock again in time, that clock included, stops, its PLL
worn, and starts again with the relief PLL or waits. SUPPLY out of range is 27. A collapse of the supplies leaves the part off, its outputs floating,
all but the fuses, the records and the host's PERST# at their reset values. The model's choice: an output's PLL shows its lock from EN on (DESIGN
CHOICE, notes/assumptions/40.md), 728 and a WORN PLL (DEDUCED, notes/assumptions/81.md). [01_lararn_in_the_system.md R19; 15_time_reference.md R347;
18_power_clocks_reset.md R397, R398, R399; 19_relief_and_aging.md R417] -/
def Obligations.ClocksAndSupplies : Prop :=
  ∀ (s : State),
    (s.time.refclkLost = true ∨ s.power.off = true → exec .refclkLoss s = .next s) ∧
    (s.time.refclkLost = false → s.power.off = false → ∃ u, Frame [F.clkStatusRefclkOk, F.clkRefLossesRefclk] [.time] s u ∧
      u.get F.clkStatusRefclkOk = 0 ∧ u.get F.clkRefLossesRefclk = min 65535 (s.get F.clkRefLossesRefclk + 1) ∧ u.time = { s.time with refclkLost := true } ∧
      (bit s.sst.clocks.toNat 8 = true → s.time.refinLost = false → exec .refclkLoss s = .next (u.raise 10)) ∧
      (bit s.sst.clocks.toNat 8 = false ∨ s.time.refinLost = true → exec .refclkLoss s = .next ((u.raise 10).loseSource 0x602))) ∧
    (s.power.off = true → exec .refclkRestore s = .next s) ∧
    (s.power.off = false → ∃ u, Frame [F.clkStatusRefclkOk] [.time] s u ∧ u.get F.clkStatusRefclkOk = 1 ∧ u.time = { s.time with refclkLost := false } ∧
      (s.time.refclkLost = false → exec .refclkRestore s = .next u) ∧ (s.time.refclkLost = true → exec .refclkRestore s = .next (u.raise 11).tickRefBack)) ∧
    (s.get F.clkStatusAonFault = 0 → s.power.off = false → Yields .aonCrystalStop s [14] [F.clkStatusAonFault] [] fun u => u.get F.clkStatusAonFault = 1) ∧
    (s.get F.clkStatusAonFault = 1 ∨ s.power.off = true → exec .aonCrystalStop s = .next s) ∧
    (∀ p : Pll,
      (s.pllOn p = true → s.get (lockField p) = 1 → Yields (.pllLossOfLock p) s [12] [lockField p] [] fun u => u.get (lockField p) = 0) ∧
      (s.pllOn p = false ∨ s.get (lockField p) = 0 → exec (.pllLossOfLock p) s = .next s) ∧
      (s.pllOn p = false ∨ s.get (lockField p) = 1 → exec (.pllLockRegained p) s = .next s) ∧
      (s.pllOn p = true → s.get (lockField p) = 0 → ∃ u, Frame [lockField p] [] s u ∧ u.get (lockField p) = 1 ∧
        (∀ n, p = .out n → exec (.pllLockRegained p) s = .next ((u.raise 13).restartOut n)) ∧
        (∀ n, n < 4 → p = .relief → s.relief.pll = some n → ∃ v, exec (.pllLockRegained p) s = .next v ∧
          v = (List.range 4).foldl (fun t m => if t.relief.pll = some m then t.restartOut m else t) (u.raise 13)) ∧
        (p = .fabric ∨ p = .purser ∨ p = .tick → exec (.pllLockRegained p) s = .next (u.raise 13)))) ∧
    (∀ n : Fin 4,
      let late := Instr.outputPllRelockTimeout n false
      exec (.outputPllRelockTimeout n true) s = .next s ∧
      (s.running n = false ∨ (s.outp n).cut = true ∨ s.pllLocked n = true → exec late s = .next s) ∧
      (s.running n = true → (s.outp n).cut = false → s.pllLocked n = false →
        let t := s.stopOut n
        ((s.outp n).stopping = true → exec late s = .next t) ∧
        ((s.outp n).stopping = false → ∃ u, Frame [F.tgCtrlEn n] [.relief] t u ∧ u.get (F.tgCtrlEn n) = 1 ∧
          u.relief = { t.relief with wornPlls := keyInsert t.relief.wornPlls n } ∧
          let auto := t.sst.relief.testBit 3
          (auto = true → t.relief.pll = none → u.mayEnable n = true → exec late s = .next (u.startOut n)) ∧
          (auto = false ∨ t.relief.pll ≠ none ∨ u.mayEnable n = false → ∃ v, exec late s = .next v ∧
            let w := if t.relief.pll ≠ none then u.raise 728 else u
            Frame [] [.output n] w v ∧ ∀ o, w.outs[n.val]? = some o → v.outs[n.val]? = some { o with restart := true })))) ∧
    (s.power.off = true → exec .supplyOutOfRange s = .next s ∧ exec .supplyCollapse s = .next s) ∧
    (s.power.off = false → exec .supplyOutOfRange s = .next (s.raise 27)) ∧
    (s.power.off = false → let t := s.abandonStores
      ∃ u, exec .supplyCollapse s = .next u ∧ u.power = { PowerState.reset with off := true, pfailLow := t.power.pfailLow } ∧ u.cal = { t.cal with sectors := [] } ∧
        u.otp = t.otp ∧ u.host = { HostState.reset with perst := t.host.perst } ∧ u.out = .float :: t.out ∧ u.freeCount = t.freeCount ∧ u.pending = t.pending ∧
        (∀ a, u.reg a = State.reset.reg a) ∧ u.hold = HoldState.reset ∧ u.outs = State.reset.outs ∧ u.time = TimeState.reset)

/-- A WARM write notes its cause and begins a reset unless one waits; PERST# notes its cause and begins one with PERST_FULL, and else resets the functions
and takes the link down; an overtemperature notes its cause, raises 25 and begins one; the cooldown lets the part start. A reset abandons stores and
discharges the running outputs first, and the state it leaves keeps the time, the records, the fuses and, unless it is THERMAL, the bytes of the Hold.
GLB_STATE_REQ goes between Service, Test and Recovery with events 1 and 23, the PLRL outputs driven in Test alone, and is refused with 0x713 in
Start-up or for state 0. The model's choice: what a reset keeps and clears, the order of pins and events (DESIGN CHOICE, notes/assumptions/79.md), the
events of THERMAL and the register that shows 0x713 (DEDUCED, notes/assumptions/81.md), one cause at a time (DEDUCED, notes/assumptions/77.md).
[08_scan_out_and_slack.md R184; 18_power_clocks_reset.md R399, R401, R405; 21_electrical_and_package.md R442] -/
def Obligations.Resets : Prop :=
  (∀ (s : State) (w : Writer), s.accepts w R.glbReset = true →
    ∃ u, Frame [F.glbResetCauseWarm] [] s u ∧ u.get F.glbResetCauseWarm = 1 ∧
      (s.power.warmPending = true → exec (.warmReset w) s = .next u) ∧
      (s.power.warmPending = false → exec (.warmReset w) s = .next (u.beginReset false))) ∧
  (∀ s : State,
    (s.host.perst = true → exec .perstAssert s = .next s) ∧
    (s.host.perst = false → s.power.off = true → Yields .perstAssert s [] [] [.host] fun u => u.host = { s.host with perst := true }) ∧
    (s.host.perst = false → s.power.off = false → ∃ t, Frame [F.glbResetCausePerst] [.host] s t ∧ t.get F.glbResetCausePerst = 1 ∧
      t.host = { s.host with perst := true } ∧
      (s.power.warmPending = true → exec .perstAssert s = .next t) ∧
      (s.power.warmPending = false → s.get F.glbResetCfgPerstFull = 1 → exec .perstAssert s = .next (t.beginReset false)) ∧
      (s.power.warmPending = false → s.get F.glbResetCfgPerstFull = 0 →
        let v := (List.range 32).reverse.foldl (fun t f => if t.fnExists f then t.resetFunction f else t) t
        ∃ u, Frame [] [.host] v u ∧ u.host = { v.host with linkUp := false, inL1 := false, trainedBefore := false, reads := [] } ∧
          exec .perstAssert s = .next (if s.host.linkUp then u.raise 33 else u))) ∧
    (s.host.perst = false → exec .perstRelease s = .next s) ∧
    (s.host.perst = true → Yields .perstRelease s
      (if s.power.off = false ∧ (s.running 0 ∨ s.running 1 ∨ s.running 2 ∨ s.running 3) then [15] else []) [] [.host] fun u =>
        u.host = { s.host with perst := false }) ∧
    (s.power.off = true ∨ s.power.thermal = true → exec .thermalOvertemp s = .next s) ∧
    (s.power.off = false → s.power.thermal = false → ∃ u, exec .thermalOvertemp s = .next ((u.raise 25).beginReset true) ∧
      Frame [F.glbResetCauseThermal] [] s u ∧ u.get F.glbResetCauseThermal = 1) ∧
    (s.power.thermal = true → s.power.fabricOff = true → Yields .thermalCooldown s [] [] [.power] fun u => u.power = { s.power with fabricOff := false }) ∧
    (s.power.thermal = false ∨ s.power.fabricOff = false → exec .thermalCooldown s = .next s)) ∧
  (∀ (s : State) (w : Writer) (req : Fin 4), s.accepts w R.glbStateReq = true →
    (s.get F.glbStateState = 0 ∨ req = 0 → Yields (.stateRequest w req) s [] [F.glbStateReqState, F.glbPowerStatusLastCode] [] fun u =>
      u.get F.glbStateReqState = req ∧ u.get F.glbPowerStatusLastCode = 0x713 ∧ u.get F.glbStateState = s.get F.glbStateState) ∧
    (s.get F.glbStateState ≠ 0 → req ≠ 0 → s.get F.glbStateState = req → Yields (.stateRequest w req) s [] [F.glbStateReqState] [] fun u =>
      u.get F.glbStateReqState = req) ∧
    (s.get F.glbStateState ≠ 0 → req ≠ 0 → s.get F.glbStateState ≠ req →
      (s.get F.glbStateState ≠ 2 → req ≠ 2 →
        Yields (.stateRequest w req) s (if req = 3 then [1, 23] else [1]) [F.glbStateReqState, F.glbStateState] [] fun u =>
          u.get F.glbStateReqState = req ∧ u.get F.glbStateState = req) ∧
      (s.get F.glbStateState = 2 ∨ req = 2 → ∃ u, Frame [F.glbStateReqState, F.glbStateState] [] s u ∧ u.get F.glbStateReqState = req ∧
        u.get F.glbStateState = req ∧
        exec (.stateRequest w req) s = .next ((if req = 3 then (u.raise 1).raise 23 else u.raise 1).plrlPins (req == 2))))) ∧
  (∀ (s : State) (driven : Bool), Frame [] [.out] s (s.plrlPins driven) ∧
    (s.plrlPins driven).out = ((List.range 16).map fun i => Out.plrl (i / 4) (i % 4) driven).reverse ++ s.out) ∧
  (∀ (s : State) (thermal : Bool), ∃ t, Frame [] [.power] s.abandonStores t ∧
    t.power = { s.abandonStores.power with warmPending := true, thermal := thermal } ∧
    let u := (List.range 4).foldl (fun t n => if t.running n then t.cutOut n else t) t
    ((∃ o ∈ u.outs, o.cut = true) → s.beginReset thermal = u) ∧ ((∀ o ∈ u.outs, o.cut = false) → s.beginReset thermal = u.doReset)) ∧
  (∀ s : State, let w := (if s.power.thermal then s.loseHold else s.loseGroups).warmState
    s.doReset = (if s.get F.glbStateState = 0 then w else w.raise 1) ∧
    (∀ b, b < 256 → ∃ k, (b, k) ∈ s.loseHold.hold.unknownBanks) ∧ ∀ c ∈ s.loseHold.hold.bytes, 0x40000000 ≤ c.1) ∧
  (∀ s : State, let w := s.warmState
    w.time = { TimeState.reset with now := s.time.now, ticks := s.time.ticks, refinLost := s.time.refinLost, refclkLost := s.time.refclkLost } ∧
    w.cal = { s.cal with jobs := [], retried := false, trimDue := false, sectors := [] } ∧ w.otp = s.otp ∧ w.pending = s.pending ∧
    w.host = { HostState.reset with perst := s.host.perst, ids := fnIds s.otp.subsys } ∧ w.purser = PurserState.reset ∧ w.sst = SstState.reset ∧ w.chain = State.reset.chain ∧
    w.dma = State.reset.dma ∧ w.eddys = State.reset.eddys ∧ w.lanes = List.replicate 96 { LaneState.reset with lastCal := s.time.ticks } ∧
    (∀ a, w.holdByte a = s.holdByte a) ∧ w.hold.badRows = s.hold.badRows ∧ w.hold.badBanks = s.hold.badBanks ∧
    (w.power.warmStart = true ∧ w.power.warmPending = false ∧ w.power.pfailLow = s.power.pfailLow))

/-- Power-on drives the outputs of a part that was Off again, at their start-up levels, and leaves reset values with the fuses and the records kept and
the repairs of both applied, the factory's first. The start-up march notes the first failure with event 197, counts the failing words, keeps the
spares that fail from use, repairs each row that fails, by a relief row, a relief bank, or not at all with event 728, and clears the Hold to 0.
Start-up's end shows the fuses and clocks, reapplies the swaps, scans the store, applies the trims, stores the repairs, boots the structure, sets the
time defaults and has the Purser serve; then, unless PFAIL holds it, GLB_STATE is Service or Recovery with events 0, 1, 23, 24 and 26 as due, and the
enabled outputs and the ports start. The model's choice: repairs and logs of the start-up march (DEDUCED, notes/assumptions/80.md), the boot
structure's owners (DEDUCED, notes/assumptions/23.md), a part without factory repairs (DESIGN CHOICE, notes/assumptions/101.md), spares that fail
(DESIGN CHOICE, notes/assumptions/98.md), one power-on for all supplies (DESIGN CHOICE, notes/assumptions/113.md). [11_the_hold.md R246, R251, R252;
15_time_reference.md R325; 18_power_clocks_reset.md R400, R401, R407, R408; 19_relief_and_aging.md R411] -/
def Obligations.StartUp : Prop :=
  (∀ s : State, (s.power.off = false → s.pinsUp = s) ∧
    (s.power.off = true → (∀ n, n < 4 → Out.dchg n true ∈ s.pinsUp.out) ∧ (∀ l, l < 96 → Out.laneIdle l ∈ s.pinsUp.out) ∧
      (∀ i, i < 16 → Out.plrl (i / 4) (i % 4) false ∈ s.pinsUp.out) ∧ ∀ x ∈ s.out, x ∈ s.pinsUp.out)) ∧
  (∀ s : State, ∃ w, exec .powerOn s = .next w ∧ w = (s.otp.repairs ++ s.recordRepairs).foldl State.applyRepair s.pinsUp.coldState ∧
    (∀ x ∈ s.pinsUp.out, x ∈ w.out) ∧
    w.cal = { s.cal with jobs := [], retried := false, trimDue := false, sectors := [] } ∧ w.otp = s.otp ∧ w.pending = s.pending ∧
    w.host = { HostState.reset with perst := s.host.perst, ids := fnIds s.otp.subsys } ∧ w.purser = PurserState.reset ∧ w.sst = SstState.reset ∧ w.chain = State.reset.chain ∧
    w.dma = State.reset.dma ∧ w.eddys = State.reset.eddys ∧ w.lanes = State.reset.lanes ∧ w.time = TimeState.reset ∧
    w.power = { PowerState.reset with pfailLow := s.power.pfailLow, pfail := s.power.pfail }) ∧
  (∀ (s : State) (fails : List MarchFail),
    (s.power.off = true ∨ s.get F.glbStateState ≠ 0 ∨ s.power.warmStart = true ∨ s.power.coldMarchDone = true →
      exec (.startupMarchComplete fails) s = .next s) ∧
    (s.power.off = false → s.get F.glbStateState = 0 → s.power.warmStart = false → s.power.coldMarchDone = false →
      let l := orderFails false false false fails
      ∃ t u, exec (.startupMarchComplete fails) s = .next u ∧
        (l = [] → t = s) ∧
        (∀ f rest, l = f :: rest → ∃ v, t = v.raise 197 ∧
          Frame [F.holdMarchFailAddr, F.holdMarchFailBitElement, F.holdMarchFailBitBit, F.holdMarchStatusLastCode] [.free] s v ∧
          v.get F.holdMarchStatusLastCode = 0x414 ∧ v.get F.holdMarchFailBitElement = f.element.val ∧
          (∀ b, failBit f false false = some b → v.get F.holdMarchFailBitBit = b % 2 ^ 9) ∧
          (∀ a, f.unit = .word a → v.get F.holdMarchFailAddr = a.toNat / 32)) ∧
        let counted := (failWords l).foldl (fun t x => (t.count F.holdMarchFaultsCount 1).badSpare x) t
        let v := ((failRows (failWords l)).foldl (fun (q : State × List Nat) p => q.1.repairAtStart q.2 p.1 p.2) (counted, [])).1
        Frame [F.clkStatusFabricLock, F.clkStatusPurserLock, F.clkStatusTickLock] [.hold, .power] v u ∧
        u.get F.clkStatusFabricLock = 1 ∧ u.get F.clkStatusPurserLock = 1 ∧ u.get F.clkStatusTickLock = 1 ∧
        u.power = { v.power with coldMarchDone := true } ∧ ∀ a, u.holdByte a = if a < 0x40000000 then 0 else v.holdByte a)) ∧
  (∀ (s : State) (moved : List Nat) (b r : Nat),
    let t := s.raise 724
    (b ∈ moved → s.repairAtStart moved b r = (s, moved)) ∧
    (b ∉ moved → t.rowsFree b ≠ 0 → s.repairAtStart moved b r = ((t.applyRepair (.row b r)).raise 200, moved)) ∧
    (b ∉ moved → t.rowsFree b = 0 → t.get F.holdRepairStatusBanksFree ≠ 0 →
      s.repairAtStart moved b r = ((t.applyRepair (.bank b)).raise 200, moved ++ [b])) ∧
    (b ∉ moved → t.rowsFree b = 0 → t.get F.holdRepairStatusBanksFree = 0 → s.repairAtStart moved b r = (t.raise 728, moved))) ∧
  (∀ (s : State) (refclk refin otpError : Bool),
    (s.power.off = true ∨ s.power.fabricOff = true ∨ s.power.halted = true ∨ s.get F.glbStateState ≠ 0 ∨
      (s.power.warmStart = false ∧ s.power.coldMarchDone = false) ∨ s.power.warmPending = true →
        exec (.startupComplete refclk refin otpError) s = .next s) ∧
    (s.power.off = false → s.power.fabricOff = false → s.power.halted = false → s.get F.glbStateState = 0 →
      (s.power.warmStart = true ∨ s.power.coldMarchDone = true) → s.power.warmPending = false →
      ∃ a b c, Frame [F.clkStatusFabricLock, F.clkStatusPurserLock, F.clkStatusTickLock] [] s a ∧
        a.get F.clkStatusFabricLock = 1 ∧ a.get F.clkStatusPurserLock = 1 ∧ a.get F.clkStatusTickLock = 1 ∧
        Frame [F.sstStatusSignRequired, F.sstStatusKeyHashFused, F.clkStatusRefclkOk] [] (if otpError then a.raise 21 else a) b ∧
        b.get F.sstStatusSignRequired = s.otp.signRequired.toNat ∧ b.get F.sstStatusKeyHashFused = s.otp.keyHash.isSome.toNat ∧
        b.get F.clkStatusRefclkOk = refclk.toNat ∧
        let d := (((b.reapplySwaps).scanStore.applyTrims).storeNewRepairs.bootStructure).timeDefaults
        Frame [F.clkStatusRefinOk] [.power] d c ∧
        c.get F.clkStatusRefinOk = (refin && bits d.sst.clocks.toNat 1 0 != 0).toNat ∧
        c.power = { d.power with recoverNeeded := d.power.recoverNeeded || b.bootFails || otpError } ∧
        (c.serve.power.pfailLow = true → ∃ u, exec (.startupComplete refclk refin otpError) s = .next u ∧ Frame [] [.power] c.serve u ∧
          u.power = { c.serve.power with halted := true }) ∧
        (c.serve.power.pfailLow = false → exec (.startupComplete refclk refin otpError) s = .next c.serve.finishStart))) ∧
  (∀ s : State, let st := if s.power.recoverNeeded then 3 else 1
    ∃ t u v, Frame [F.glbStateState] [] s t ∧ t.get F.glbStateState = st ∧
      u = ((t.raise 0).raise 1).raiseIf s.power.recoverNeeded 23 ∧
      Frame [] [.power] ((u.raiseIf (s.power.warmStart && !s.power.recoverNeeded) 24).raiseIf s.power.thermal 26) v ∧
      v.power = { s.power with halted := false, thermal := false, warmStart := false } ∧
      s.finishStart = ((List.range 4).foldl (fun t n =>
        if t.get (F.tgCtrlEn n) = 1 ∧ t.running n = false ∧ t.mayEnable n = true then t.startOut n else t) v).portsStart)
end

