-- ==== Sys2Proof/Laws/Sparse.lean ====
section
/-!
SUPPORT. The laws of the sparse stores: what a write leaves at every address, and that it keeps the canonical form.
-/

set_option Elab.async false
set_option linter.all false

namespace Sys2Proof.Machine

variable {α : Type} (d x : α) (m : List (Nat × α)) (a b : Nat)

theorem sparseGet_insert_same : sparseGet d (sparseInsert m a x) a = x := by
  induction m with
  | nil => simp [sparseInsert, sparseGet]
  | cons p rest ih =>
    obtain ⟨k, v⟩ := p
    by_cases h1 : a = k
    · simp [sparseInsert, sparseGet, h1]
    · by_cases h2 : a < k <;> simp [sparseInsert, sparseGet, h1, h2, ih]

theorem sparseGet_insert_other (h : b ≠ a) : sparseGet d (sparseInsert m a x) b = sparseGet d m b := by
  induction m with
  | nil => simp [sparseInsert, sparseGet, h]
  | cons p rest ih =>
    obtain ⟨k, v⟩ := p
    by_cases h1 : a = k
    · subst h1; simp [sparseInsert, sparseGet, h]
    · by_cases h2 : a < k <;> simp [sparseInsert, sparseGet, h1, h2, h, ih]

/-- Entries removed by address leave every other address as it was. -/
theorem sparseGet_filter_other (p : Nat × α → Bool) (h : ∀ v, p (b, v) = true) :
    sparseGet d (m.filter p) b = sparseGet d m b := by
  induction m with
  | nil => rfl
  | cons q rest ih =>
    obtain ⟨k, v⟩ := q
    by_cases hk : b = k
    · subst hk; simp [List.filter, h, sparseGet]
    · cases hp : p (k, v) <;> simp [List.filter, hp, sparseGet, hk, ih]

/-- An address whose entries are removed reads as unlisted. -/
theorem sparseGet_filter_gone (p : Nat × α → Bool) (h : ∀ v, p (b, v) = false) :
    sparseGet d (m.filter p) b = d := by
  induction m with
  | nil => rfl
  | cons q rest ih =>
    obtain ⟨k, v⟩ := q
    by_cases hk : b = k
    · subst hk; simp [List.filter, h, ih]
    · cases hp : p (k, v) <;> simp [List.filter, hp, sparseGet, hk, ih]

variable [DecidableEq α]

/-- A write is read back. -/
@[simp] theorem sparseGet_set_same : sparseGet d (sparseSet d m a x) a = x := by
  unfold sparseSet sparseErase
  split
  · next h => rw [sparseGet_filter_gone _ _ _ _ (by simp)]; exact h.symm
  · exact sparseGet_insert_same _ _ _ _

/-- A write leaves every other address as it was. -/
theorem sparseGet_set_other (e : α) {a b : Nat} (h : b ≠ a) : sparseGet e (sparseSet d m a x) b = sparseGet e m b := by
  unfold sparseSet sparseErase
  split
  · exact sparseGet_filter_other _ _ _ _ (by simp [h])
  · exact sparseGet_insert_other _ _ _ _ _ h

/-- A lower bound of the addresses may be lowered. -/
theorem sparseWf_mono {f : Nat → α} {m : List (Nat × α)} {lo lo' : Nat} (h : lo' ≤ lo) (w : sparseWf f lo m = true) :
    sparseWf f lo' m = true := by
  cases m with
  | nil => rfl
  | cons p rest =>
    simp only [sparseWf, Bool.and_eq_true, decide_eq_true_eq] at w ⊢
    exact ⟨⟨by omega, w.1.2⟩, w.2⟩

/-- Removing entries keeps the canonical form. -/
theorem sparseWf_filter {f : Nat → α} (p : Nat × α → Bool) {m : List (Nat × α)} {lo : Nat} (w : sparseWf f lo m = true) :
    sparseWf f lo (m.filter p) = true := by
  induction m generalizing lo with
  | nil => rfl
  | cons q rest ih =>
    obtain ⟨k, v⟩ := q
    simp only [sparseWf, Bool.and_eq_true, decide_eq_true_eq] at w
    cases hp : p (k, v)
    · simp only [List.filter, hp]; exact sparseWf_mono (by omega) (ih w.2)
    · simp only [List.filter, hp, sparseWf, Bool.and_eq_true, decide_eq_true_eq]
      exact ⟨w.1, ih w.2⟩

theorem sparseWf_insert {f : Nat → α} {m : List (Nat × α)} {lo : Nat} (hx : x ≠ f a) (hl : lo ≤ a)
    (w : sparseWf f lo m = true) : sparseWf f lo (sparseInsert m a x) = true := by
  induction m generalizing lo with
  | nil => simp [sparseInsert, sparseWf, hx, hl]
  | cons q rest ih =>
    obtain ⟨k, v⟩ := q
    simp only [sparseWf, Bool.and_eq_true, decide_eq_true_eq, Bool.not_eq_true', decide_eq_false_iff_not] at w
    by_cases h1 : a = k
    · subst h1
      simp [sparseInsert, sparseWf, hl, hx, w.2]
    · by_cases h2 : a < k
      · simp only [sparseInsert, h1, h2, if_true, if_false, sparseWf, Bool.and_eq_true, decide_eq_true_eq, Bool.not_eq_true',
          decide_eq_false_iff_not]
        exact ⟨⟨hl, hx⟩, ⟨⟨by omega, w.1.2⟩, w.2⟩⟩
      · simp only [sparseInsert, h1, h2, if_false, sparseWf, Bool.and_eq_true, decide_eq_true_eq, Bool.not_eq_true',
          decide_eq_false_iff_not]
        exact ⟨w.1, ih (by omega) w.2⟩

/-- A write keeps the canonical form. -/
theorem sparseWf_set {f : Nat → α} {m : List (Nat × α)} (w : sparseWf f 0 m = true) :
    sparseWf f 0 (sparseSet (f a) m a x) = true := by
  unfold sparseSet sparseErase
  split
  · exact sparseWf_filter _ w
  · next h => exact sparseWf_insert _ _ h (by omega) w

end Sys2Proof.Machine
end

