-- ==== Sys2Proof/Laws/State.lean ====
section
/-!
SUPPORT. The laws of the state's named updates: one lemma for each field of the state under each update, and what registers, fields
of registers and their landed values read as after a write.
-/

set_option Elab.async false
set_option linter.all false

namespace Sys2Proof.Machine

variable (s : State)

/-! Updates leave the other fields of the state alone. -/


@[simp] theorem State.setReg_active (a : Nat) (w : Word) : (s.setReg a w).active = s.active := rfl
@[simp] theorem State.setReg_written (a : Nat) (w : Word) : (s.setReg a w).written = s.written := rfl
@[simp] theorem State.setReg_landed (a : Nat) (w : Word) : (s.setReg a w).landed = s.landed := rfl
@[simp] theorem State.setReg_high (a : Nat) (w : Word) : (s.setReg a w).high = s.high := rfl
@[simp] theorem State.setReg_tables (a : Nat) (w : Word) : (s.setReg a w).tables = s.tables := rfl
@[simp] theorem State.setReg_hold (a : Nat) (w : Word) : (s.setReg a w).hold = s.hold := rfl
@[simp] theorem State.setReg_sst (a : Nat) (w : Word) : (s.setReg a w).sst = s.sst := rfl
@[simp] theorem State.setReg_host (a : Nat) (w : Word) : (s.setReg a w).host = s.host := rfl
@[simp] theorem State.setReg_purser (a : Nat) (w : Word) : (s.setReg a w).purser = s.purser := rfl
@[simp] theorem State.setReg_outs (a : Nat) (w : Word) : (s.setReg a w).outs = s.outs := rfl
@[simp] theorem State.setReg_lanes (a : Nat) (w : Word) : (s.setReg a w).lanes = s.lanes := rfl
@[simp] theorem State.setReg_sidebands (a : Nat) (w : Word) : (s.setReg a w).sidebands = s.sidebands := rfl
@[simp] theorem State.setReg_dma (a : Nat) (w : Word) : (s.setReg a w).dma = s.dma := rfl
@[simp] theorem State.setReg_dmaTurn (a : Nat) (w : Word) : (s.setReg a w).dmaTurn = s.dmaTurn := rfl
@[simp] theorem State.setReg_eddys (a : Nat) (w : Word) : (s.setReg a w).eddys = s.eddys := rfl
@[simp] theorem State.setReg_cal (a : Nat) (w : Word) : (s.setReg a w).cal = s.cal := rfl
@[simp] theorem State.setReg_otp (a : Nat) (w : Word) : (s.setReg a w).otp = s.otp := rfl
@[simp] theorem State.setReg_relief (a : Nat) (w : Word) : (s.setReg a w).relief = s.relief := rfl
@[simp] theorem State.setReg_power (a : Nat) (w : Word) : (s.setReg a w).power = s.power := rfl
@[simp] theorem State.setReg_time (a : Nat) (w : Word) : (s.setReg a w).time = s.time := rfl
@[simp] theorem State.setReg_chain (a : Nat) (w : Word) : (s.setReg a w).chain = s.chain := rfl
@[simp] theorem State.setReg_freeCount (a : Nat) (w : Word) : (s.setReg a w).freeCount = s.freeCount := rfl
@[simp] theorem State.setReg_out (a : Nat) (w : Word) : (s.setReg a w).out = s.out := rfl
@[simp] theorem State.setReg_pending (a : Nat) (w : Word) : (s.setReg a w).pending = s.pending := rfl

@[simp] theorem State.put_active (f : Field) (v : Nat) : (s.put f v).active = s.active := rfl
@[simp] theorem State.put_written (f : Field) (v : Nat) : (s.put f v).written = s.written := rfl
@[simp] theorem State.put_landed (f : Field) (v : Nat) : (s.put f v).landed = s.landed := rfl
@[simp] theorem State.put_high (f : Field) (v : Nat) : (s.put f v).high = s.high := rfl
@[simp] theorem State.put_tables (f : Field) (v : Nat) : (s.put f v).tables = s.tables := rfl
@[simp] theorem State.put_hold (f : Field) (v : Nat) : (s.put f v).hold = s.hold := rfl
@[simp] theorem State.put_sst (f : Field) (v : Nat) : (s.put f v).sst = s.sst := rfl
@[simp] theorem State.put_host (f : Field) (v : Nat) : (s.put f v).host = s.host := rfl
@[simp] theorem State.put_purser (f : Field) (v : Nat) : (s.put f v).purser = s.purser := rfl
@[simp] theorem State.put_outs (f : Field) (v : Nat) : (s.put f v).outs = s.outs := rfl
@[simp] theorem State.put_lanes (f : Field) (v : Nat) : (s.put f v).lanes = s.lanes := rfl
@[simp] theorem State.put_sidebands (f : Field) (v : Nat) : (s.put f v).sidebands = s.sidebands := rfl
@[simp] theorem State.put_dma (f : Field) (v : Nat) : (s.put f v).dma = s.dma := rfl
@[simp] theorem State.put_dmaTurn (f : Field) (v : Nat) : (s.put f v).dmaTurn = s.dmaTurn := rfl
@[simp] theorem State.put_eddys (f : Field) (v : Nat) : (s.put f v).eddys = s.eddys := rfl
@[simp] theorem State.put_cal (f : Field) (v : Nat) : (s.put f v).cal = s.cal := rfl
@[simp] theorem State.put_otp (f : Field) (v : Nat) : (s.put f v).otp = s.otp := rfl
@[simp] theorem State.put_relief (f : Field) (v : Nat) : (s.put f v).relief = s.relief := rfl
@[simp] theorem State.put_power (f : Field) (v : Nat) : (s.put f v).power = s.power := rfl
@[simp] theorem State.put_time (f : Field) (v : Nat) : (s.put f v).time = s.time := rfl
@[simp] theorem State.put_chain (f : Field) (v : Nat) : (s.put f v).chain = s.chain := rfl
@[simp] theorem State.put_freeCount (f : Field) (v : Nat) : (s.put f v).freeCount = s.freeCount := rfl
@[simp] theorem State.put_out (f : Field) (v : Nat) : (s.put f v).out = s.out := rfl
@[simp] theorem State.put_pending (f : Field) (v : Nat) : (s.put f v).pending = s.pending := rfl

@[simp] theorem State.count_active (f : Field) (n : Nat) : (s.count f n).active = s.active := rfl
@[simp] theorem State.count_written (f : Field) (n : Nat) : (s.count f n).written = s.written := rfl
@[simp] theorem State.count_landed (f : Field) (n : Nat) : (s.count f n).landed = s.landed := rfl
@[simp] theorem State.count_high (f : Field) (n : Nat) : (s.count f n).high = s.high := rfl
@[simp] theorem State.count_tables (f : Field) (n : Nat) : (s.count f n).tables = s.tables := rfl
@[simp] theorem State.count_hold (f : Field) (n : Nat) : (s.count f n).hold = s.hold := rfl
@[simp] theorem State.count_sst (f : Field) (n : Nat) : (s.count f n).sst = s.sst := rfl
@[simp] theorem State.count_host (f : Field) (n : Nat) : (s.count f n).host = s.host := rfl
@[simp] theorem State.count_purser (f : Field) (n : Nat) : (s.count f n).purser = s.purser := rfl
@[simp] theorem State.count_outs (f : Field) (n : Nat) : (s.count f n).outs = s.outs := rfl
@[simp] theorem State.count_lanes (f : Field) (n : Nat) : (s.count f n).lanes = s.lanes := rfl
@[simp] theorem State.count_sidebands (f : Field) (n : Nat) : (s.count f n).sidebands = s.sidebands := rfl
@[simp] theorem State.count_dma (f : Field) (n : Nat) : (s.count f n).dma = s.dma := rfl
@[simp] theorem State.count_dmaTurn (f : Field) (n : Nat) : (s.count f n).dmaTurn = s.dmaTurn := rfl
@[simp] theorem State.count_eddys (f : Field) (n : Nat) : (s.count f n).eddys = s.eddys := rfl
@[simp] theorem State.count_cal (f : Field) (n : Nat) : (s.count f n).cal = s.cal := rfl
@[simp] theorem State.count_otp (f : Field) (n : Nat) : (s.count f n).otp = s.otp := rfl
@[simp] theorem State.count_relief (f : Field) (n : Nat) : (s.count f n).relief = s.relief := rfl
@[simp] theorem State.count_power (f : Field) (n : Nat) : (s.count f n).power = s.power := rfl
@[simp] theorem State.count_time (f : Field) (n : Nat) : (s.count f n).time = s.time := rfl
@[simp] theorem State.count_chain (f : Field) (n : Nat) : (s.count f n).chain = s.chain := rfl
@[simp] theorem State.count_freeCount (f : Field) (n : Nat) : (s.count f n).freeCount = s.freeCount := rfl
@[simp] theorem State.count_out (f : Field) (n : Nat) : (s.count f n).out = s.out := rfl
@[simp] theorem State.count_pending (f : Field) (n : Nat) : (s.count f n).pending = s.pending := rfl

@[simp] theorem State.setActReg_regs (a : Nat) (w : Word) : (s.setActReg a w).regs = s.regs := rfl
@[simp] theorem State.setActReg_written (a : Nat) (w : Word) : (s.setActReg a w).written = s.written := rfl
@[simp] theorem State.setActReg_landed (a : Nat) (w : Word) : (s.setActReg a w).landed = s.landed := rfl
@[simp] theorem State.setActReg_high (a : Nat) (w : Word) : (s.setActReg a w).high = s.high := rfl
@[simp] theorem State.setActReg_tables (a : Nat) (w : Word) : (s.setActReg a w).tables = s.tables := rfl
@[simp] theorem State.setActReg_hold (a : Nat) (w : Word) : (s.setActReg a w).hold = s.hold := rfl
@[simp] theorem State.setActReg_sst (a : Nat) (w : Word) : (s.setActReg a w).sst = s.sst := rfl
@[simp] theorem State.setActReg_host (a : Nat) (w : Word) : (s.setActReg a w).host = s.host := rfl
@[simp] theorem State.setActReg_purser (a : Nat) (w : Word) : (s.setActReg a w).purser = s.purser := rfl
@[simp] theorem State.setActReg_outs (a : Nat) (w : Word) : (s.setActReg a w).outs = s.outs := rfl
@[simp] theorem State.setActReg_lanes (a : Nat) (w : Word) : (s.setActReg a w).lanes = s.lanes := rfl
@[simp] theorem State.setActReg_sidebands (a : Nat) (w : Word) : (s.setActReg a w).sidebands = s.sidebands := rfl
@[simp] theorem State.setActReg_dma (a : Nat) (w : Word) : (s.setActReg a w).dma = s.dma := rfl
@[simp] theorem State.setActReg_dmaTurn (a : Nat) (w : Word) : (s.setActReg a w).dmaTurn = s.dmaTurn := rfl
@[simp] theorem State.setActReg_eddys (a : Nat) (w : Word) : (s.setActReg a w).eddys = s.eddys := rfl
@[simp] theorem State.setActReg_cal (a : Nat) (w : Word) : (s.setActReg a w).cal = s.cal := rfl
@[simp] theorem State.setActReg_otp (a : Nat) (w : Word) : (s.setActReg a w).otp = s.otp := rfl
@[simp] theorem State.setActReg_relief (a : Nat) (w : Word) : (s.setActReg a w).relief = s.relief := rfl
@[simp] theorem State.setActReg_power (a : Nat) (w : Word) : (s.setActReg a w).power = s.power := rfl
@[simp] theorem State.setActReg_time (a : Nat) (w : Word) : (s.setActReg a w).time = s.time := rfl
@[simp] theorem State.setActReg_chain (a : Nat) (w : Word) : (s.setActReg a w).chain = s.chain := rfl
@[simp] theorem State.setActReg_freeCount (a : Nat) (w : Word) : (s.setActReg a w).freeCount = s.freeCount := rfl
@[simp] theorem State.setActReg_out (a : Nat) (w : Word) : (s.setActReg a w).out = s.out := rfl
@[simp] theorem State.setActReg_pending (a : Nat) (w : Word) : (s.setActReg a w).pending = s.pending := rfl

@[simp] theorem State.putAct_regs (f : Field) (v : Nat) : (s.putAct f v).regs = s.regs := rfl
@[simp] theorem State.putAct_written (f : Field) (v : Nat) : (s.putAct f v).written = s.written := rfl
@[simp] theorem State.putAct_landed (f : Field) (v : Nat) : (s.putAct f v).landed = s.landed := rfl
@[simp] theorem State.putAct_high (f : Field) (v : Nat) : (s.putAct f v).high = s.high := rfl
@[simp] theorem State.putAct_tables (f : Field) (v : Nat) : (s.putAct f v).tables = s.tables := rfl
@[simp] theorem State.putAct_hold (f : Field) (v : Nat) : (s.putAct f v).hold = s.hold := rfl
@[simp] theorem State.putAct_sst (f : Field) (v : Nat) : (s.putAct f v).sst = s.sst := rfl
@[simp] theorem State.putAct_host (f : Field) (v : Nat) : (s.putAct f v).host = s.host := rfl
@[simp] theorem State.putAct_purser (f : Field) (v : Nat) : (s.putAct f v).purser = s.purser := rfl
@[simp] theorem State.putAct_outs (f : Field) (v : Nat) : (s.putAct f v).outs = s.outs := rfl
@[simp] theorem State.putAct_lanes (f : Field) (v : Nat) : (s.putAct f v).lanes = s.lanes := rfl
@[simp] theorem State.putAct_sidebands (f : Field) (v : Nat) : (s.putAct f v).sidebands = s.sidebands := rfl
@[simp] theorem State.putAct_dma (f : Field) (v : Nat) : (s.putAct f v).dma = s.dma := rfl
@[simp] theorem State.putAct_dmaTurn (f : Field) (v : Nat) : (s.putAct f v).dmaTurn = s.dmaTurn := rfl
@[simp] theorem State.putAct_eddys (f : Field) (v : Nat) : (s.putAct f v).eddys = s.eddys := rfl
@[simp] theorem State.putAct_cal (f : Field) (v : Nat) : (s.putAct f v).cal = s.cal := rfl
@[simp] theorem State.putAct_otp (f : Field) (v : Nat) : (s.putAct f v).otp = s.otp := rfl
@[simp] theorem State.putAct_relief (f : Field) (v : Nat) : (s.putAct f v).relief = s.relief := rfl
@[simp] theorem State.putAct_power (f : Field) (v : Nat) : (s.putAct f v).power = s.power := rfl
@[simp] theorem State.putAct_time (f : Field) (v : Nat) : (s.putAct f v).time = s.time := rfl
@[simp] theorem State.putAct_chain (f : Field) (v : Nat) : (s.putAct f v).chain = s.chain := rfl
@[simp] theorem State.putAct_freeCount (f : Field) (v : Nat) : (s.putAct f v).freeCount = s.freeCount := rfl
@[simp] theorem State.putAct_out (f : Field) (v : Nat) : (s.putAct f v).out = s.out := rfl
@[simp] theorem State.putAct_pending (f : Field) (v : Nat) : (s.putAct f v).pending = s.pending := rfl

@[simp] theorem State.setWritten_regs (a : Nat) : (s.setWritten a).regs = s.regs := rfl
@[simp] theorem State.setWritten_active (a : Nat) : (s.setWritten a).active = s.active := rfl
@[simp] theorem State.setWritten_landed (a : Nat) : (s.setWritten a).landed = s.landed := rfl
@[simp] theorem State.setWritten_high (a : Nat) : (s.setWritten a).high = s.high := rfl
@[simp] theorem State.setWritten_tables (a : Nat) : (s.setWritten a).tables = s.tables := rfl
@[simp] theorem State.setWritten_hold (a : Nat) : (s.setWritten a).hold = s.hold := rfl
@[simp] theorem State.setWritten_sst (a : Nat) : (s.setWritten a).sst = s.sst := rfl
@[simp] theorem State.setWritten_host (a : Nat) : (s.setWritten a).host = s.host := rfl
@[simp] theorem State.setWritten_purser (a : Nat) : (s.setWritten a).purser = s.purser := rfl
@[simp] theorem State.setWritten_outs (a : Nat) : (s.setWritten a).outs = s.outs := rfl
@[simp] theorem State.setWritten_lanes (a : Nat) : (s.setWritten a).lanes = s.lanes := rfl
@[simp] theorem State.setWritten_sidebands (a : Nat) : (s.setWritten a).sidebands = s.sidebands := rfl
@[simp] theorem State.setWritten_dma (a : Nat) : (s.setWritten a).dma = s.dma := rfl
@[simp] theorem State.setWritten_dmaTurn (a : Nat) : (s.setWritten a).dmaTurn = s.dmaTurn := rfl
@[simp] theorem State.setWritten_eddys (a : Nat) : (s.setWritten a).eddys = s.eddys := rfl
@[simp] theorem State.setWritten_cal (a : Nat) : (s.setWritten a).cal = s.cal := rfl
@[simp] theorem State.setWritten_otp (a : Nat) : (s.setWritten a).otp = s.otp := rfl
@[simp] theorem State.setWritten_relief (a : Nat) : (s.setWritten a).relief = s.relief := rfl
@[simp] theorem State.setWritten_power (a : Nat) : (s.setWritten a).power = s.power := rfl
@[simp] theorem State.setWritten_time (a : Nat) : (s.setWritten a).time = s.time := rfl
@[simp] theorem State.setWritten_chain (a : Nat) : (s.setWritten a).chain = s.chain := rfl
@[simp] theorem State.setWritten_freeCount (a : Nat) : (s.setWritten a).freeCount = s.freeCount := rfl
@[simp] theorem State.setWritten_out (a : Nat) : (s.setWritten a).out = s.out := rfl
@[simp] theorem State.setWritten_pending (a : Nat) : (s.setWritten a).pending = s.pending := rfl

@[simp] theorem State.setLanded_regs (a : Nat) : (s.setLanded a).regs = s.regs := rfl
@[simp] theorem State.setLanded_active (a : Nat) : (s.setLanded a).active = s.active := rfl
@[simp] theorem State.setLanded_written (a : Nat) : (s.setLanded a).written = s.written := rfl
@[simp] theorem State.setLanded_high (a : Nat) : (s.setLanded a).high = s.high := rfl
@[simp] theorem State.setLanded_tables (a : Nat) : (s.setLanded a).tables = s.tables := rfl
@[simp] theorem State.setLanded_hold (a : Nat) : (s.setLanded a).hold = s.hold := rfl
@[simp] theorem State.setLanded_sst (a : Nat) : (s.setLanded a).sst = s.sst := rfl
@[simp] theorem State.setLanded_host (a : Nat) : (s.setLanded a).host = s.host := rfl
@[simp] theorem State.setLanded_purser (a : Nat) : (s.setLanded a).purser = s.purser := rfl
@[simp] theorem State.setLanded_outs (a : Nat) : (s.setLanded a).outs = s.outs := rfl
@[simp] theorem State.setLanded_lanes (a : Nat) : (s.setLanded a).lanes = s.lanes := rfl
@[simp] theorem State.setLanded_sidebands (a : Nat) : (s.setLanded a).sidebands = s.sidebands := rfl
@[simp] theorem State.setLanded_dma (a : Nat) : (s.setLanded a).dma = s.dma := rfl
@[simp] theorem State.setLanded_dmaTurn (a : Nat) : (s.setLanded a).dmaTurn = s.dmaTurn := rfl
@[simp] theorem State.setLanded_eddys (a : Nat) : (s.setLanded a).eddys = s.eddys := rfl
@[simp] theorem State.setLanded_cal (a : Nat) : (s.setLanded a).cal = s.cal := rfl
@[simp] theorem State.setLanded_otp (a : Nat) : (s.setLanded a).otp = s.otp := rfl
@[simp] theorem State.setLanded_relief (a : Nat) : (s.setLanded a).relief = s.relief := rfl
@[simp] theorem State.setLanded_power (a : Nat) : (s.setLanded a).power = s.power := rfl
@[simp] theorem State.setLanded_time (a : Nat) : (s.setLanded a).time = s.time := rfl
@[simp] theorem State.setLanded_chain (a : Nat) : (s.setLanded a).chain = s.chain := rfl
@[simp] theorem State.setLanded_freeCount (a : Nat) : (s.setLanded a).freeCount = s.freeCount := rfl
@[simp] theorem State.setLanded_out (a : Nat) : (s.setLanded a).out = s.out := rfl
@[simp] theorem State.setLanded_pending (a : Nat) : (s.setLanded a).pending = s.pending := rfl

@[simp] theorem State.clearWritten_regs (a : Nat) : (s.clearWritten a).regs = s.regs := rfl
@[simp] theorem State.clearWritten_active (a : Nat) : (s.clearWritten a).active = s.active := rfl
@[simp] theorem State.clearWritten_landed (a : Nat) : (s.clearWritten a).landed = s.landed := rfl
@[simp] theorem State.clearWritten_high (a : Nat) : (s.clearWritten a).high = s.high := rfl
@[simp] theorem State.clearWritten_tables (a : Nat) : (s.clearWritten a).tables = s.tables := rfl
@[simp] theorem State.clearWritten_hold (a : Nat) : (s.clearWritten a).hold = s.hold := rfl
@[simp] theorem State.clearWritten_sst (a : Nat) : (s.clearWritten a).sst = s.sst := rfl
@[simp] theorem State.clearWritten_host (a : Nat) : (s.clearWritten a).host = s.host := rfl
@[simp] theorem State.clearWritten_purser (a : Nat) : (s.clearWritten a).purser = s.purser := rfl
@[simp] theorem State.clearWritten_outs (a : Nat) : (s.clearWritten a).outs = s.outs := rfl
@[simp] theorem State.clearWritten_lanes (a : Nat) : (s.clearWritten a).lanes = s.lanes := rfl
@[simp] theorem State.clearWritten_sidebands (a : Nat) : (s.clearWritten a).sidebands = s.sidebands := rfl
@[simp] theorem State.clearWritten_dma (a : Nat) : (s.clearWritten a).dma = s.dma := rfl
@[simp] theorem State.clearWritten_dmaTurn (a : Nat) : (s.clearWritten a).dmaTurn = s.dmaTurn := rfl
@[simp] theorem State.clearWritten_eddys (a : Nat) : (s.clearWritten a).eddys = s.eddys := rfl
@[simp] theorem State.clearWritten_cal (a : Nat) : (s.clearWritten a).cal = s.cal := rfl
@[simp] theorem State.clearWritten_otp (a : Nat) : (s.clearWritten a).otp = s.otp := rfl
@[simp] theorem State.clearWritten_relief (a : Nat) : (s.clearWritten a).relief = s.relief := rfl
@[simp] theorem State.clearWritten_power (a : Nat) : (s.clearWritten a).power = s.power := rfl
@[simp] theorem State.clearWritten_time (a : Nat) : (s.clearWritten a).time = s.time := rfl
@[simp] theorem State.clearWritten_chain (a : Nat) : (s.clearWritten a).chain = s.chain := rfl
@[simp] theorem State.clearWritten_freeCount (a : Nat) : (s.clearWritten a).freeCount = s.freeCount := rfl
@[simp] theorem State.clearWritten_out (a : Nat) : (s.clearWritten a).out = s.out := rfl
@[simp] theorem State.clearWritten_pending (a : Nat) : (s.clearWritten a).pending = s.pending := rfl

@[simp] theorem State.emit_regs (m : Out) : (s.emit m).regs = s.regs := rfl
@[simp] theorem State.emit_active (m : Out) : (s.emit m).active = s.active := rfl
@[simp] theorem State.emit_written (m : Out) : (s.emit m).written = s.written := rfl
@[simp] theorem State.emit_landed (m : Out) : (s.emit m).landed = s.landed := rfl
@[simp] theorem State.emit_high (m : Out) : (s.emit m).high = s.high := rfl
@[simp] theorem State.emit_tables (m : Out) : (s.emit m).tables = s.tables := rfl
@[simp] theorem State.emit_hold (m : Out) : (s.emit m).hold = s.hold := rfl
@[simp] theorem State.emit_sst (m : Out) : (s.emit m).sst = s.sst := rfl
@[simp] theorem State.emit_host (m : Out) : (s.emit m).host = s.host := rfl
@[simp] theorem State.emit_purser (m : Out) : (s.emit m).purser = s.purser := rfl
@[simp] theorem State.emit_outs (m : Out) : (s.emit m).outs = s.outs := rfl
@[simp] theorem State.emit_lanes (m : Out) : (s.emit m).lanes = s.lanes := rfl
@[simp] theorem State.emit_sidebands (m : Out) : (s.emit m).sidebands = s.sidebands := rfl
@[simp] theorem State.emit_dma (m : Out) : (s.emit m).dma = s.dma := rfl
@[simp] theorem State.emit_dmaTurn (m : Out) : (s.emit m).dmaTurn = s.dmaTurn := rfl
@[simp] theorem State.emit_eddys (m : Out) : (s.emit m).eddys = s.eddys := rfl
@[simp] theorem State.emit_cal (m : Out) : (s.emit m).cal = s.cal := rfl
@[simp] theorem State.emit_otp (m : Out) : (s.emit m).otp = s.otp := rfl
@[simp] theorem State.emit_relief (m : Out) : (s.emit m).relief = s.relief := rfl
@[simp] theorem State.emit_power (m : Out) : (s.emit m).power = s.power := rfl
@[simp] theorem State.emit_time (m : Out) : (s.emit m).time = s.time := rfl
@[simp] theorem State.emit_chain (m : Out) : (s.emit m).chain = s.chain := rfl
@[simp] theorem State.emit_freeCount (m : Out) : (s.emit m).freeCount = s.freeCount := rfl
@[simp] theorem State.emit_pending (m : Out) : (s.emit m).pending = s.pending := rfl

@[simp] theorem State.bumpFree_regs : (s.bumpFree).regs = s.regs := rfl
@[simp] theorem State.bumpFree_active : (s.bumpFree).active = s.active := rfl
@[simp] theorem State.bumpFree_written : (s.bumpFree).written = s.written := rfl
@[simp] theorem State.bumpFree_landed : (s.bumpFree).landed = s.landed := rfl
@[simp] theorem State.bumpFree_high : (s.bumpFree).high = s.high := rfl
@[simp] theorem State.bumpFree_tables : (s.bumpFree).tables = s.tables := rfl
@[simp] theorem State.bumpFree_hold : (s.bumpFree).hold = s.hold := rfl
@[simp] theorem State.bumpFree_sst : (s.bumpFree).sst = s.sst := rfl
@[simp] theorem State.bumpFree_host : (s.bumpFree).host = s.host := rfl
@[simp] theorem State.bumpFree_purser : (s.bumpFree).purser = s.purser := rfl
@[simp] theorem State.bumpFree_outs : (s.bumpFree).outs = s.outs := rfl
@[simp] theorem State.bumpFree_lanes : (s.bumpFree).lanes = s.lanes := rfl
@[simp] theorem State.bumpFree_sidebands : (s.bumpFree).sidebands = s.sidebands := rfl
@[simp] theorem State.bumpFree_dma : (s.bumpFree).dma = s.dma := rfl
@[simp] theorem State.bumpFree_dmaTurn : (s.bumpFree).dmaTurn = s.dmaTurn := rfl
@[simp] theorem State.bumpFree_eddys : (s.bumpFree).eddys = s.eddys := rfl
@[simp] theorem State.bumpFree_cal : (s.bumpFree).cal = s.cal := rfl
@[simp] theorem State.bumpFree_otp : (s.bumpFree).otp = s.otp := rfl
@[simp] theorem State.bumpFree_relief : (s.bumpFree).relief = s.relief := rfl
@[simp] theorem State.bumpFree_power : (s.bumpFree).power = s.power := rfl
@[simp] theorem State.bumpFree_time : (s.bumpFree).time = s.time := rfl
@[simp] theorem State.bumpFree_chain : (s.bumpFree).chain = s.chain := rfl
@[simp] theorem State.bumpFree_out : (s.bumpFree).out = s.out := rfl
@[simp] theorem State.bumpFree_pending : (s.bumpFree).pending = s.pending := rfl

@[simp] theorem State.emit_out (m : Out) : (s.emit m).out = m :: s.out := rfl
@[simp] theorem State.bumpFree_freeCount : s.bumpFree.freeCount = s.freeCount + 1 := rfl

/-! Registers. -/

@[simp] theorem State.reg_setReg_same (a : Nat) (w : Word) : (s.setReg a w).reg a = w := sparseGet_set_same _ _ _ _

theorem State.reg_setReg_other {a b : Nat} (w : Word) (h : b ≠ a) : (s.setReg a w).reg b = s.reg b :=
  sparseGet_set_other _ _ _ _ h

@[simp] theorem State.actReg_setActReg_same (a : Nat) (w : Word) : (s.setActReg a w).actReg a = w := sparseGet_set_same _ _ _ _

theorem State.actReg_setActReg_other {a b : Nat} (w : Word) (h : b ≠ a) : (s.setActReg a w).actReg b = s.actReg b :=
  sparseGet_set_other _ _ _ _ h

/-- A register reads what the list of registers says. -/
theorem State.reg_of_regs {s t : State} (h : t.regs = s.regs) (a : Nat) : t.reg a = s.reg a := by
  unfold State.reg; rw [h]

theorem State.get_of_reg {s t : State} {f : Field} (h : t.reg f.addr = s.reg f.addr) : t.get f = s.get f := by
  unfold State.get; rw [h]

theorem State.get_of_regs {s t : State} (h : t.regs = s.regs) (f : Field) : t.get f = s.get f :=
  State.get_of_reg (State.reg_of_regs h _)

/-- A state written out in its fields reads its registers. -/
@[simp] theorem State.reg_mk {active : List (Nat × Word)} {written landed : List Nat} {high : List (Nat × Word)}
    {tables : List (Nat × Nat)} {hold : HoldState} {sst : SstState} {host : HostState} {purser : PurserState}
    {outs : List OutState} {lanes : List LaneState} {sidebands : List SbState} {dma : List DmaState} {dmaTurn : Nat}
    {eddys : List EddyState} {cal : CalState} {otp : OtpState} {relief : ReliefState} {power : PowerState} {time : TimeState}
    {chain : ChainState} {freeCount : Nat} {out : List Out} {pending : List Instr} (a : Nat) :
    State.reg ⟨s.regs, active, written, landed, high, tables, hold, sst, host, purser, outs, lanes, sidebands, dma, dmaTurn,
      eddys, cal, otp, relief, power, time, chain, freeCount, out, pending⟩ a = s.reg a := (rfl)

@[simp] theorem State.get_mk {active : List (Nat × Word)} {written landed : List Nat} {high : List (Nat × Word)}
    {tables : List (Nat × Nat)} {hold : HoldState} {sst : SstState} {host : HostState} {purser : PurserState}
    {outs : List OutState} {lanes : List LaneState} {sidebands : List SbState} {dma : List DmaState} {dmaTurn : Nat}
    {eddys : List EddyState} {cal : CalState} {otp : OtpState} {relief : ReliefState} {power : PowerState} {time : TimeState}
    {chain : ChainState} {freeCount : Nat} {out : List Out} {pending : List Instr} (f : Field) :
    State.get ⟨s.regs, active, written, landed, high, tables, hold, sst, host, purser, outs, lanes, sidebands, dma, dmaTurn,
      eddys, cal, otp, relief, power, time, chain, freeCount, out, pending⟩ f = s.get f := (rfl)

@[simp] theorem State.reg_emit (m : Out) (a : Nat) : (s.emit m).reg a = s.reg a := (rfl)
@[simp] theorem State.get_emit (m : Out) (f : Field) : (s.emit m).get f = s.get f := (rfl)
@[simp] theorem State.reg_bumpFree (a : Nat) : (s.bumpFree).reg a = s.reg a := (rfl)
@[simp] theorem State.get_bumpFree (f : Field) : (s.bumpFree).get f = s.get f := (rfl)
@[simp] theorem State.reg_setActReg (b : Nat) (w : Word) (a : Nat) : (s.setActReg b w).reg a = s.reg a := (rfl)
@[simp] theorem State.get_setActReg (b : Nat) (w : Word) (f : Field) : (s.setActReg b w).get f = s.get f := (rfl)
@[simp] theorem State.reg_putAct (h : Field) (v : Nat) (a : Nat) : (s.putAct h v).reg a = s.reg a := (rfl)
@[simp] theorem State.get_putAct (h : Field) (v : Nat) (f : Field) : (s.putAct h v).get f = s.get f := (rfl)
@[simp] theorem State.reg_setWritten (b : Nat) (a : Nat) : (s.setWritten b).reg a = s.reg a := (rfl)
@[simp] theorem State.get_setWritten (b : Nat) (f : Field) : (s.setWritten b).get f = s.get f := (rfl)
@[simp] theorem State.reg_setLanded (b : Nat) (a : Nat) : (s.setLanded b).reg a = s.reg a := (rfl)
@[simp] theorem State.get_setLanded (b : Nat) (f : Field) : (s.setLanded b).get f = s.get f := (rfl)
@[simp] theorem State.reg_clearWritten (b : Nat) (a : Nat) : (s.clearWritten b).reg a = s.reg a := (rfl)
@[simp] theorem State.get_clearWritten (b : Nat) (f : Field) : (s.clearWritten b).get f = s.get f := (rfl)

/-! Fields. -/

/-- A bit of a register word with one field replaced. -/
theorem withField_bit (f : Field) (w : Word) (v b : Nat) (h : b < 32) :
    (withField f w v).getLsbD b = if f.lo ≤ b ∧ b ≤ f.hi then v.testBit (b - f.lo) else w.getLsbD b := by
  unfold withField fieldMask
  simp only [BitVec.getLsbD_or, BitVec.getLsbD_and, BitVec.getLsbD_not, BitVec.getLsbD_ofNat, Nat.testBit_shiftLeft,
    Nat.testBit_two_pow_sub_one, Nat.testBit_mod_two_pow, h, decide_true, Bool.true_and]
  by_cases h1 : f.lo ≤ b
  · by_cases h2 : b ≤ f.hi
    · have e : b - f.lo < f.hi + 1 - f.lo := by omega
      simp [h1, h2, e]
    · have e : ¬ b - f.lo < f.hi + 1 - f.lo := by omega
      simp [h1, h2, e]
  · simp [h1]

/-- Two fields that share no bit. -/
def Apart (f g : Field) : Prop := f.addr ≠ g.addr ∨ f.hi < g.lo ∨ g.hi < f.lo

/-- A field that lies in a register. -/
def InWord (f : Field) : Prop := f.lo ≤ f.hi ∧ f.hi < 32

theorem fieldOf_withField {f : Field} (h : InWord f) (w : Word) (v : Nat) :
    fieldOf f (withField f w v) = v % 2 ^ (f.hi + 1 - f.lo) := by
  obtain ⟨h1, h2⟩ := h
  apply Nat.eq_of_testBit_eq
  intro i
  simp only [fieldOf, bits, Nat.testBit_mod_two_pow, Nat.testBit_shiftRight]
  by_cases hi : i < f.hi + 1 - f.lo
  · have e := withField_bit f w v (f.lo + i) (by omega)
    rw [← BitVec.testBit_toNat] at e
    simp only [hi, decide_true, Bool.true_and, e]
    rw [if_pos (by omega)]
    congr 1; omega
  · simp [hi]

theorem fieldOf_withField_apart {f g : Field} (h : g.hi < f.lo ∨ f.hi < g.lo) (hg : InWord g) (w : Word) (v : Nat) :
    fieldOf g (withField f w v) = fieldOf g w := by
  obtain ⟨h1, h2⟩ := hg
  apply Nat.eq_of_testBit_eq
  intro i
  simp only [fieldOf, bits, Nat.testBit_mod_two_pow, Nat.testBit_shiftRight]
  by_cases hi : i < g.hi + 1 - g.lo
  · have e := withField_bit f w v (g.lo + i) (by omega)
    rw [← BitVec.testBit_toNat, if_neg (by omega), ← BitVec.testBit_toNat] at e
    simp [hi, e]
  · simp [hi]

/-- A field set by the hardware reads as the low bits of the value. -/
theorem State.get_put_same {f : Field} (h : InWord f) (v : Nat) : (s.put f v).get f = v % 2 ^ (f.hi + 1 - f.lo) := by
  unfold State.get State.put
  rw [State.reg_setReg_same, fieldOf_withField h]

/-- A field set leaves every field alone that shares no bit with it. -/
theorem State.get_put_other {f g : Field} (h : Apart f g) (hg : InWord g) (v : Nat) : (s.put f v).get g = s.get g := by
  unfold State.get State.put
  by_cases e : g.addr = f.addr
  · rw [e, State.reg_setReg_same, fieldOf_withField_apart _ hg]
    rcases h with h | h | h
    · exact absurd e.symm h
    · exact .inr h
    · exact .inl h
  · rw [State.reg_setReg_other _ _ e]

theorem State.reg_put_other {f : Field} {a : Nat} (h : a ≠ f.addr) (v : Nat) : (s.put f v).reg a = s.reg a :=
  State.reg_setReg_other _ _ h

theorem State.act_putAct_same {f : Field} (h : InWord f) (v : Nat) : (s.putAct f v).act f = v % 2 ^ (f.hi + 1 - f.lo) := by
  unfold State.act State.putAct
  rw [State.actReg_setActReg_same, fieldOf_withField h]

theorem State.act_putAct_other {f g : Field} (h : Apart f g) (hg : InWord g) (v : Nat) : (s.putAct f v).act g = s.act g := by
  unfold State.act State.putAct
  by_cases e : g.addr = f.addr
  · rw [e, State.actReg_setActReg_same, fieldOf_withField_apart _ hg]
    rcases h with h | h | h
    · exact absurd e.symm h
    · exact .inr h
    · exact .inl h
  · rw [State.actReg_setActReg_other _ _ e]

/-- A field holds no more than its width lets it. -/
theorem State.get_lt (f : Field) : s.get f < 2 ^ (f.hi + 1 - f.lo) := Nat.mod_lt _ (Nat.two_pow_pos _)

@[simp] theorem State.puts_nil : s.puts [] = s := rfl
@[simp] theorem State.puts_cons (p : Field × Nat) (l : List (Field × Nat)) : s.puts (p :: l) = (s.put p.1 p.2).puts l := rfl

theorem State.setBit_eq (a b : Nat) (v : Bool) : s.setBit a b v = s.put ⟨a, b, b⟩ v.toNat := rfl

end Sys2Proof.Machine
end

