-- ==== Sys2Proof/Laws/Frame.lean ====
section
/-!
SUPPORT. The laws of frames: how they compose, what each named update leaves alone, and what a frame says about a field.
-/

set_option Elab.async false
set_option linter.all false

namespace Sys2Proof.Machine

variable {T : List Field} {P : List Part} {s t u : State}

@[simp] theorem Part.same_refl (s : State) (p : Part) : p.same s s := by cases p <;> rfl

theorem Part.same_trans {p : Part} (h : p.same s t) (k : p.same t u) : p.same s u := by
  cases p <;> exact Eq.trans k h

theorem Frame.refl (T : List Field) (P : List Part) (s : State) : Frame T P s s := ⟨fun _ _ _ _ => rfl, fun _ _ => Part.same_refl _ _, rfl⟩

theorem Frame.trans (h : Frame T P s t) (k : Frame T P t u) : Frame T P s u :=
  ⟨fun a b l c => (k.regs a b l c).trans (h.regs a b l c), fun p n => Part.same_trans (h.rest p n) (k.rest p n),
    k.queue.trans h.queue⟩

theorem Frame.mono {T' : List Field} {P' : List Part} (h : Frame T P s t) (hT : ∀ f ∈ T, f ∈ T') (hP : ∀ p ∈ P, p ∈ P') :
    Frame T' P' s t :=
  ⟨fun a b l c => h.regs a b l fun ⟨f, m, e⟩ => c ⟨f, hT f m, e⟩, fun p n => h.rest p fun m => n (hP p m), h.queue⟩

/-- A change of the state that leaves the registers and the queue alone. -/
theorem Frame.upd (h : Frame T P s t) (hr : u.regs = t.regs) (hp : ∀ p, p ∉ P → p.same t u) (hq : u.pending = t.pending) :
    Frame T P s u :=
  ⟨fun a b l c => by rw [State.reg_of_regs hr]; exact h.regs a b l c, fun p n => Part.same_trans (h.rest p n) (hp p n), hq.trans h.queue⟩

/-- The same for a state written out in its fields. -/
theorem Frame.fields (h : Frame T P s t) {active : List (Nat × Word)} {written landed : List Nat} {high : List (Nat × Word)}
    {tables : List (Nat × Nat)} {hold : HoldState} {sst : SstState} {host : HostState} {purser : PurserState}
    {outs : List OutState} {lanes : List LaneState} {sidebands : List SbState} {dma : List DmaState} {dmaTurn : Nat}
    {eddys : List EddyState} {cal : CalState} {otp : OtpState} {relief : ReliefState} {power : PowerState} {time : TimeState}
    {chain : ChainState} {freeCount : Nat} {out : List Out}
    (hp : ∀ p, p ∉ P → p.same t ⟨t.regs, active, written, landed, high, tables, hold, sst, host, purser, outs, lanes, sidebands,
      dma, dmaTurn, eddys, cal, otp, relief, power, time, chain, freeCount, out, t.pending⟩) :
    Frame T P s ⟨t.regs, active, written, landed, high, tables, hold, sst, host, purser, outs, lanes, sidebands, dma, dmaTurn,
      eddys, cal, otp, relief, power, time, chain, freeCount, out, t.pending⟩ := h.upd rfl hp rfl

theorem Frame.setReg (h : Frame T P s t) {a : Nat} {w : Word} (m : whole a ∈ T) : Frame T P s (t.setReg a w) := by
  refine ⟨fun x b l c => ?_, fun p n => ?_, h.queue⟩
  · by_cases e : x = a
    · exact absurd ⟨whole a, m, e.symm, Nat.zero_le _, by simp only [whole]; omega⟩ c
    · rw [State.reg_setReg_other _ _ e]; exact h.regs x b l c
  · refine Part.same_trans (h.rest p n) ?_
    cases p <;> rfl

theorem Frame.put (h : Frame T P s t) {f : Field} {v : Nat} (m : f ∈ T) : Frame T P s (t.put f v) := by
  refine ⟨fun x b l c => ?_, fun p n => ?_, h.queue⟩
  · by_cases e : x = f.addr
    · subst e
      rw [State.put, State.reg_setReg_same, withField_bit _ _ _ _ l, if_neg fun k => c ⟨f, m, rfl, k⟩]
      exact h.regs _ b l c
    · rw [State.reg_put_other _ e]; exact h.regs x b l c
  · refine Part.same_trans (h.rest p n) ?_
    cases p <;> rfl

theorem Frame.puts (h : Frame T P s t) {l : List (Field × Nat)} (m : ∀ p ∈ l, p.1 ∈ T) : Frame T P s (t.puts l) := by
  induction l generalizing t with
  | nil => exact h
  | cons p l ih => exact ih (h.put (m p (List.mem_cons_self ..))) fun q k => m q (List.mem_cons_of_mem _ k)

theorem Frame.count (h : Frame T P s t) {f : Field} {n : Nat} (m : f ∈ T) : Frame T P s (t.count f n) := h.put m

theorem Frame.setActReg (h : Frame T P s t) {a : Nat} {w : Word} (m : .active ∈ P) : Frame T P s (t.setActReg a w) :=
  h.upd rfl (fun p n => by cases p <;> first | rfl | exact absurd m n) rfl

theorem Frame.putAct (h : Frame T P s t) {f : Field} {v : Nat} (m : .active ∈ P) : Frame T P s (t.putAct f v) := h.setActReg m

theorem Frame.emit (h : Frame T P s t) {x : Out} (m : .out ∈ P) : Frame T P s (t.emit x) :=
  h.upd rfl (fun p n => by cases p <;> first | rfl | exact absurd m n) rfl

theorem Frame.setWritten (h : Frame T P s t) {a : Nat} (m : .written ∈ P) : Frame T P s (t.setWritten a) :=
  h.upd rfl (fun p n => by cases p <;> first | rfl | exact absurd m n) rfl

/-- A field that shares no bit with the fields touched reads as before. -/
theorem Frame.get {g : Field} (h : Frame T P s t) (hg : InWord g) (a : ∀ f ∈ T, Apart f g) : t.get g = s.get g := by
  apply Nat.eq_of_testBit_eq
  intro i
  simp only [State.get, fieldOf, bits, Nat.testBit_mod_two_pow, Nat.testBit_shiftRight]
  by_cases hi : i < g.hi + 1 - g.lo
  · have e := h.regs g.addr (g.lo + i) (by have := hg.2; omega) fun ⟨f, m, x, y⟩ => by
      rcases a f m with k | k | k
      · exact k x
      · omega
      · omega
    rw [← BitVec.testBit_toNat, ← BitVec.testBit_toNat] at e
    simp [hi, e]
  · simp [hi]

/-- A register of which no bit is touched reads as before. -/
theorem Frame.reg {a : Nat} (h : Frame T P s t) (n : ∀ f ∈ T, f.addr ≠ a) : t.reg a = s.reg a := by
  apply BitVec.eq_of_getLsbD_eq
  intro i hi
  exact h.regs a i hi fun ⟨f, m, e, _⟩ => n f m e

/-- One element of a list of units replaced: every other one is the same. -/
@[simp] theorem updAt_other {α : Type} (l : List α) (i j : Nat) (f : α → α) (h : i ≠ j) : (updAt l i f)[j]? = l[j]? := by
  unfold updAt; rw [List.getElem?_modify]; simp [h]

@[simp] theorem updAt_same {α : Type} (l : List α) (i : Nat) (f : α → α) : (updAt l i f)[i]? = l[i]?.map f := by
  unfold updAt; rw [List.getElem?_modify]; simp

/-! Events. -/

/-- A message due changes at most its source's bit, the PBA and the messages put out. -/
theorem State.messageDue_frame (h : Frame T P s t) (src : Nat) (m : pendingField src ∈ T) (m1 : .host ∈ P) (m2 : .out ∈ P) :
    Frame T P s (t.messageDue src) := by
  unfold State.messageDue
  dsimp only
  have pba : ∀ b, Frame T P s (t.setPba (t.get (F.evtRouteVector src)) b) := fun _ =>
    h.upd rfl (fun p n => by cases p <;> first | rfl | exact absurd m1 n) rfl
  split
  · exact h
  · split
    · exact pba _
    · split
      · exact Frame.put ((pba _).emit m2) m
      · exact (pba _).emit m2

/-- A raised source changes at most its own bit, the stamps that wait for the Purser, the PBA and the messages put out. -/
theorem State.raiseWith_frame (h : Frame T P s t) (src : Nat) (c : Bool) (m : pendingField src ∈ T) (m0 : .purser ∈ P)
    (m1 : .host ∈ P) (m2 : .out ∈ P) : Frame T P s (t.raiseWith src c) := by
  unfold State.raiseWith
  dsimp only
  have h1 : Frame T P s (t.setBit (R.evtStatus (src / 32)) (src % 32) true) := Frame.put h m
  split
  · exact h
  · split
    · have h2 : Frame T P s { t.setBit (R.evtStatus (src / 32)) (src % 32) true with
          purser := { (t.setBit (R.evtStatus (src / 32)) (src % 32) true).purser with
            stamps := (t.setBit (R.evtStatus (src / 32)) (src % 32) true).purser.stamps ++ [src] } } :=
        h1.upd rfl (fun p n => by cases p <;> first | rfl | exact absurd m0 n) rfl
      split
      · exact State.messageDue_frame h2 src m m1 m2
      · exact h2
    · split
      · exact State.messageDue_frame h1 src m m1 m2
      · exact h1

theorem State.raise_frame (h : Frame T P s t) (src : Nat) (m : pendingField src ∈ T) (m0 : .purser ∈ P)
    (m1 : .host ∈ P) (m2 : .out ∈ P) : Frame T P s (t.raise src) := State.raiseWith_frame h src false m m0 m1 m2

theorem State.raiseIf_eq (c : Bool) (src : Nat) : s.raiseIf c src = (if c then [src] else []).foldl State.raise s := by
  cases c <;> rfl

/-! Accepted writes. -/

/-- An accepted register write has its effect. -/
theorem State.writeBy_accepts {w : Writer} {addr : Nat} {k : State → State} (h : s.accepts w addr = true) :
    s.writeBy w addr k = k s := by
  unfold State.accepts at h
  simp only [Bool.and_eq_true, Bool.not_eq_true', Bool.or_eq_true] at h
  obtain ⟨⟨⟨h1, h2⟩, h3⟩, h4⟩ := h
  unfold State.writeBy
  rw [h1, h2, h4]
  rcases h3 with h3 | h3
  · simp [h3]
  · simp [h3]

end Sys2Proof.Machine
end

