-- ==== Sys2Proof/Laws/Setters.lean ====
section
/-!
SUPPORT. The laws of the updates of one piece of the state: what each leaves alone, what it sets, its frame.
-/

set_option Elab.async false
set_option linter.all false

namespace Sys2Proof.Machine

variable (s : State)

@[simp] theorem State.setChan_regs (ch : Nat) (g : DmaState → DmaState) : (s.setChan ch g).regs = s.regs := rfl
@[simp] theorem State.setChan_active (ch : Nat) (g : DmaState → DmaState) : (s.setChan ch g).active = s.active := rfl
@[simp] theorem State.setChan_written (ch : Nat) (g : DmaState → DmaState) : (s.setChan ch g).written = s.written := rfl
@[simp] theorem State.setChan_landed (ch : Nat) (g : DmaState → DmaState) : (s.setChan ch g).landed = s.landed := rfl
@[simp] theorem State.setChan_high (ch : Nat) (g : DmaState → DmaState) : (s.setChan ch g).high = s.high := rfl
@[simp] theorem State.setChan_tables (ch : Nat) (g : DmaState → DmaState) : (s.setChan ch g).tables = s.tables := rfl
@[simp] theorem State.setChan_hold (ch : Nat) (g : DmaState → DmaState) : (s.setChan ch g).hold = s.hold := rfl
@[simp] theorem State.setChan_sst (ch : Nat) (g : DmaState → DmaState) : (s.setChan ch g).sst = s.sst := rfl
@[simp] theorem State.setChan_host (ch : Nat) (g : DmaState → DmaState) : (s.setChan ch g).host = s.host := rfl
@[simp] theorem State.setChan_purser (ch : Nat) (g : DmaState → DmaState) : (s.setChan ch g).purser = s.purser := rfl
@[simp] theorem State.setChan_outs (ch : Nat) (g : DmaState → DmaState) : (s.setChan ch g).outs = s.outs := rfl
@[simp] theorem State.setChan_lanes (ch : Nat) (g : DmaState → DmaState) : (s.setChan ch g).lanes = s.lanes := rfl
@[simp] theorem State.setChan_sidebands (ch : Nat) (g : DmaState → DmaState) : (s.setChan ch g).sidebands = s.sidebands := rfl
@[simp] theorem State.setChan_dmaTurn (ch : Nat) (g : DmaState → DmaState) : (s.setChan ch g).dmaTurn = s.dmaTurn := rfl
@[simp] theorem State.setChan_eddys (ch : Nat) (g : DmaState → DmaState) : (s.setChan ch g).eddys = s.eddys := rfl
@[simp] theorem State.setChan_cal (ch : Nat) (g : DmaState → DmaState) : (s.setChan ch g).cal = s.cal := rfl
@[simp] theorem State.setChan_otp (ch : Nat) (g : DmaState → DmaState) : (s.setChan ch g).otp = s.otp := rfl
@[simp] theorem State.setChan_relief (ch : Nat) (g : DmaState → DmaState) : (s.setChan ch g).relief = s.relief := rfl
@[simp] theorem State.setChan_power (ch : Nat) (g : DmaState → DmaState) : (s.setChan ch g).power = s.power := rfl
@[simp] theorem State.setChan_time (ch : Nat) (g : DmaState → DmaState) : (s.setChan ch g).time = s.time := rfl
@[simp] theorem State.setChan_chain (ch : Nat) (g : DmaState → DmaState) : (s.setChan ch g).chain = s.chain := rfl
@[simp] theorem State.setChan_freeCount (ch : Nat) (g : DmaState → DmaState) : (s.setChan ch g).freeCount = s.freeCount := rfl
@[simp] theorem State.setChan_out (ch : Nat) (g : DmaState → DmaState) : (s.setChan ch g).out = s.out := rfl
@[simp] theorem State.setChan_pending (ch : Nat) (g : DmaState → DmaState) : (s.setChan ch g).pending = s.pending := rfl
@[simp] theorem State.setChan_dma (ch : Nat) (g : DmaState → DmaState) : (s.setChan ch g).dma = updAt s.dma ch g := rfl
@[simp] theorem State.setChan_reg (ch : Nat) (g : DmaState → DmaState) (x : Nat) : (s.setChan ch g).reg x = s.reg x := (rfl)
@[simp] theorem State.setChan_get (ch : Nat) (g : DmaState → DmaState) (x : Field) : (s.setChan ch g).get x = s.get x := (rfl)
theorem State.setChan_frame {T : List Field} {P : List Part} {s t : State} (h : Frame T P s t) (ch : Nat) (g : DmaState → DmaState) (m : .channel ch ∈ P) :
    Frame T P s (t.setChan ch g) := by
  refine Frame.fields h fun p hp => ?_
  cases p <;> first | rfl | exact updAt_other _ _ _ _ fun e => by subst e; exact hp m

@[simp] theorem State.setOut_regs (n : Nat) (g : OutState → OutState) : (s.setOut n g).regs = s.regs := rfl
@[simp] theorem State.setOut_active (n : Nat) (g : OutState → OutState) : (s.setOut n g).active = s.active := rfl
@[simp] theorem State.setOut_written (n : Nat) (g : OutState → OutState) : (s.setOut n g).written = s.written := rfl
@[simp] theorem State.setOut_landed (n : Nat) (g : OutState → OutState) : (s.setOut n g).landed = s.landed := rfl
@[simp] theorem State.setOut_high (n : Nat) (g : OutState → OutState) : (s.setOut n g).high = s.high := rfl
@[simp] theorem State.setOut_tables (n : Nat) (g : OutState → OutState) : (s.setOut n g).tables = s.tables := rfl
@[simp] theorem State.setOut_hold (n : Nat) (g : OutState → OutState) : (s.setOut n g).hold = s.hold := rfl
@[simp] theorem State.setOut_sst (n : Nat) (g : OutState → OutState) : (s.setOut n g).sst = s.sst := rfl
@[simp] theorem State.setOut_host (n : Nat) (g : OutState → OutState) : (s.setOut n g).host = s.host := rfl
@[simp] theorem State.setOut_purser (n : Nat) (g : OutState → OutState) : (s.setOut n g).purser = s.purser := rfl
@[simp] theorem State.setOut_lanes (n : Nat) (g : OutState → OutState) : (s.setOut n g).lanes = s.lanes := rfl
@[simp] theorem State.setOut_sidebands (n : Nat) (g : OutState → OutState) : (s.setOut n g).sidebands = s.sidebands := rfl
@[simp] theorem State.setOut_dma (n : Nat) (g : OutState → OutState) : (s.setOut n g).dma = s.dma := rfl
@[simp] theorem State.setOut_dmaTurn (n : Nat) (g : OutState → OutState) : (s.setOut n g).dmaTurn = s.dmaTurn := rfl
@[simp] theorem State.setOut_eddys (n : Nat) (g : OutState → OutState) : (s.setOut n g).eddys = s.eddys := rfl
@[simp] theorem State.setOut_cal (n : Nat) (g : OutState → OutState) : (s.setOut n g).cal = s.cal := rfl
@[simp] theorem State.setOut_otp (n : Nat) (g : OutState → OutState) : (s.setOut n g).otp = s.otp := rfl
@[simp] theorem State.setOut_relief (n : Nat) (g : OutState → OutState) : (s.setOut n g).relief = s.relief := rfl
@[simp] theorem State.setOut_power (n : Nat) (g : OutState → OutState) : (s.setOut n g).power = s.power := rfl
@[simp] theorem State.setOut_time (n : Nat) (g : OutState → OutState) : (s.setOut n g).time = s.time := rfl
@[simp] theorem State.setOut_chain (n : Nat) (g : OutState → OutState) : (s.setOut n g).chain = s.chain := rfl
@[simp] theorem State.setOut_freeCount (n : Nat) (g : OutState → OutState) : (s.setOut n g).freeCount = s.freeCount := rfl
@[simp] theorem State.setOut_out (n : Nat) (g : OutState → OutState) : (s.setOut n g).out = s.out := rfl
@[simp] theorem State.setOut_pending (n : Nat) (g : OutState → OutState) : (s.setOut n g).pending = s.pending := rfl
@[simp] theorem State.setOut_outs (n : Nat) (g : OutState → OutState) : (s.setOut n g).outs = updAt s.outs n g := rfl
@[simp] theorem State.setOut_reg (n : Nat) (g : OutState → OutState) (x : Nat) : (s.setOut n g).reg x = s.reg x := (rfl)
@[simp] theorem State.setOut_get (n : Nat) (g : OutState → OutState) (x : Field) : (s.setOut n g).get x = s.get x := (rfl)
theorem State.setOut_frame {T : List Field} {P : List Part} {s t : State} (h : Frame T P s t) (n : Nat) (g : OutState → OutState) (m : .output n ∈ P) :
    Frame T P s (t.setOut n g) := by
  refine Frame.fields h fun p hp => ?_
  cases p <;> first | rfl | exact updAt_other _ _ _ _ fun e => by subst e; exact hp m

@[simp] theorem State.setTime_regs (g : TimeState → TimeState) : (s.setTime g).regs = s.regs := rfl
@[simp] theorem State.setTime_active (g : TimeState → TimeState) : (s.setTime g).active = s.active := rfl
@[simp] theorem State.setTime_written (g : TimeState → TimeState) : (s.setTime g).written = s.written := rfl
@[simp] theorem State.setTime_landed (g : TimeState → TimeState) : (s.setTime g).landed = s.landed := rfl
@[simp] theorem State.setTime_high (g : TimeState → TimeState) : (s.setTime g).high = s.high := rfl
@[simp] theorem State.setTime_tables (g : TimeState → TimeState) : (s.setTime g).tables = s.tables := rfl
@[simp] theorem State.setTime_hold (g : TimeState → TimeState) : (s.setTime g).hold = s.hold := rfl
@[simp] theorem State.setTime_sst (g : TimeState → TimeState) : (s.setTime g).sst = s.sst := rfl
@[simp] theorem State.setTime_host (g : TimeState → TimeState) : (s.setTime g).host = s.host := rfl
@[simp] theorem State.setTime_purser (g : TimeState → TimeState) : (s.setTime g).purser = s.purser := rfl
@[simp] theorem State.setTime_outs (g : TimeState → TimeState) : (s.setTime g).outs = s.outs := rfl
@[simp] theorem State.setTime_lanes (g : TimeState → TimeState) : (s.setTime g).lanes = s.lanes := rfl
@[simp] theorem State.setTime_sidebands (g : TimeState → TimeState) : (s.setTime g).sidebands = s.sidebands := rfl
@[simp] theorem State.setTime_dma (g : TimeState → TimeState) : (s.setTime g).dma = s.dma := rfl
@[simp] theorem State.setTime_dmaTurn (g : TimeState → TimeState) : (s.setTime g).dmaTurn = s.dmaTurn := rfl
@[simp] theorem State.setTime_eddys (g : TimeState → TimeState) : (s.setTime g).eddys = s.eddys := rfl
@[simp] theorem State.setTime_cal (g : TimeState → TimeState) : (s.setTime g).cal = s.cal := rfl
@[simp] theorem State.setTime_otp (g : TimeState → TimeState) : (s.setTime g).otp = s.otp := rfl
@[simp] theorem State.setTime_relief (g : TimeState → TimeState) : (s.setTime g).relief = s.relief := rfl
@[simp] theorem State.setTime_power (g : TimeState → TimeState) : (s.setTime g).power = s.power := rfl
@[simp] theorem State.setTime_chain (g : TimeState → TimeState) : (s.setTime g).chain = s.chain := rfl
@[simp] theorem State.setTime_freeCount (g : TimeState → TimeState) : (s.setTime g).freeCount = s.freeCount := rfl
@[simp] theorem State.setTime_out (g : TimeState → TimeState) : (s.setTime g).out = s.out := rfl
@[simp] theorem State.setTime_pending (g : TimeState → TimeState) : (s.setTime g).pending = s.pending := rfl
@[simp] theorem State.setTime_time (g : TimeState → TimeState) : (s.setTime g).time = g s.time := rfl
@[simp] theorem State.setTime_reg (g : TimeState → TimeState) (x : Nat) : (s.setTime g).reg x = s.reg x := (rfl)
@[simp] theorem State.setTime_get (g : TimeState → TimeState) (x : Field) : (s.setTime g).get x = s.get x := (rfl)
theorem State.setTime_frame {T : List Field} {P : List Part} {s t : State} (h : Frame T P s t) (g : TimeState → TimeState) (m : .time ∈ P) :
    Frame T P s (t.setTime g) := by
  refine Frame.fields h fun p hp => ?_
  cases p <;> first | rfl | exact absurd m hp

@[simp] theorem State.setEddy_regs (e : Nat) (g : EddyState → EddyState) : (s.setEddy e g).regs = s.regs := rfl
@[simp] theorem State.setEddy_active (e : Nat) (g : EddyState → EddyState) : (s.setEddy e g).active = s.active := rfl
@[simp] theorem State.setEddy_written (e : Nat) (g : EddyState → EddyState) : (s.setEddy e g).written = s.written := rfl
@[simp] theorem State.setEddy_landed (e : Nat) (g : EddyState → EddyState) : (s.setEddy e g).landed = s.landed := rfl
@[simp] theorem State.setEddy_high (e : Nat) (g : EddyState → EddyState) : (s.setEddy e g).high = s.high := rfl
@[simp] theorem State.setEddy_tables (e : Nat) (g : EddyState → EddyState) : (s.setEddy e g).tables = s.tables := rfl
@[simp] theorem State.setEddy_hold (e : Nat) (g : EddyState → EddyState) : (s.setEddy e g).hold = s.hold := rfl
@[simp] theorem State.setEddy_sst (e : Nat) (g : EddyState → EddyState) : (s.setEddy e g).sst = s.sst := rfl
@[simp] theorem State.setEddy_host (e : Nat) (g : EddyState → EddyState) : (s.setEddy e g).host = s.host := rfl
@[simp] theorem State.setEddy_purser (e : Nat) (g : EddyState → EddyState) : (s.setEddy e g).purser = s.purser := rfl
@[simp] theorem State.setEddy_outs (e : Nat) (g : EddyState → EddyState) : (s.setEddy e g).outs = s.outs := rfl
@[simp] theorem State.setEddy_lanes (e : Nat) (g : EddyState → EddyState) : (s.setEddy e g).lanes = s.lanes := rfl
@[simp] theorem State.setEddy_sidebands (e : Nat) (g : EddyState → EddyState) : (s.setEddy e g).sidebands = s.sidebands := rfl
@[simp] theorem State.setEddy_dma (e : Nat) (g : EddyState → EddyState) : (s.setEddy e g).dma = s.dma := rfl
@[simp] theorem State.setEddy_dmaTurn (e : Nat) (g : EddyState → EddyState) : (s.setEddy e g).dmaTurn = s.dmaTurn := rfl
@[simp] theorem State.setEddy_cal (e : Nat) (g : EddyState → EddyState) : (s.setEddy e g).cal = s.cal := rfl
@[simp] theorem State.setEddy_otp (e : Nat) (g : EddyState → EddyState) : (s.setEddy e g).otp = s.otp := rfl
@[simp] theorem State.setEddy_relief (e : Nat) (g : EddyState → EddyState) : (s.setEddy e g).relief = s.relief := rfl
@[simp] theorem State.setEddy_power (e : Nat) (g : EddyState → EddyState) : (s.setEddy e g).power = s.power := rfl
@[simp] theorem State.setEddy_time (e : Nat) (g : EddyState → EddyState) : (s.setEddy e g).time = s.time := rfl
@[simp] theorem State.setEddy_chain (e : Nat) (g : EddyState → EddyState) : (s.setEddy e g).chain = s.chain := rfl
@[simp] theorem State.setEddy_freeCount (e : Nat) (g : EddyState → EddyState) : (s.setEddy e g).freeCount = s.freeCount := rfl
@[simp] theorem State.setEddy_out (e : Nat) (g : EddyState → EddyState) : (s.setEddy e g).out = s.out := rfl
@[simp] theorem State.setEddy_pending (e : Nat) (g : EddyState → EddyState) : (s.setEddy e g).pending = s.pending := rfl
@[simp] theorem State.setEddy_eddys (e : Nat) (g : EddyState → EddyState) : (s.setEddy e g).eddys = updAt s.eddys e g := rfl
@[simp] theorem State.setEddy_reg (e : Nat) (g : EddyState → EddyState) (x : Nat) : (s.setEddy e g).reg x = s.reg x := (rfl)
@[simp] theorem State.setEddy_get (e : Nat) (g : EddyState → EddyState) (x : Field) : (s.setEddy e g).get x = s.get x := (rfl)
theorem State.setEddy_frame {T : List Field} {P : List Part} {s t : State} (h : Frame T P s t) (e : Nat) (g : EddyState → EddyState) (m : .engine e ∈ P) :
    Frame T P s (t.setEddy e g) := by
  refine Frame.fields h fun p hp => ?_
  cases p <;> first | rfl | exact updAt_other _ _ _ _ fun e => by subst e; exact hp m

@[simp] theorem State.setHost_regs (g : HostState → HostState) : (s.setHost g).regs = s.regs := rfl
@[simp] theorem State.setHost_active (g : HostState → HostState) : (s.setHost g).active = s.active := rfl
@[simp] theorem State.setHost_written (g : HostState → HostState) : (s.setHost g).written = s.written := rfl
@[simp] theorem State.setHost_landed (g : HostState → HostState) : (s.setHost g).landed = s.landed := rfl
@[simp] theorem State.setHost_high (g : HostState → HostState) : (s.setHost g).high = s.high := rfl
@[simp] theorem State.setHost_tables (g : HostState → HostState) : (s.setHost g).tables = s.tables := rfl
@[simp] theorem State.setHost_hold (g : HostState → HostState) : (s.setHost g).hold = s.hold := rfl
@[simp] theorem State.setHost_sst (g : HostState → HostState) : (s.setHost g).sst = s.sst := rfl
@[simp] theorem State.setHost_purser (g : HostState → HostState) : (s.setHost g).purser = s.purser := rfl
@[simp] theorem State.setHost_outs (g : HostState → HostState) : (s.setHost g).outs = s.outs := rfl
@[simp] theorem State.setHost_lanes (g : HostState → HostState) : (s.setHost g).lanes = s.lanes := rfl
@[simp] theorem State.setHost_sidebands (g : HostState → HostState) : (s.setHost g).sidebands = s.sidebands := rfl
@[simp] theorem State.setHost_dma (g : HostState → HostState) : (s.setHost g).dma = s.dma := rfl
@[simp] theorem State.setHost_dmaTurn (g : HostState → HostState) : (s.setHost g).dmaTurn = s.dmaTurn := rfl
@[simp] theorem State.setHost_eddys (g : HostState → HostState) : (s.setHost g).eddys = s.eddys := rfl
@[simp] theorem State.setHost_cal (g : HostState → HostState) : (s.setHost g).cal = s.cal := rfl
@[simp] theorem State.setHost_otp (g : HostState → HostState) : (s.setHost g).otp = s.otp := rfl
@[simp] theorem State.setHost_relief (g : HostState → HostState) : (s.setHost g).relief = s.relief := rfl
@[simp] theorem State.setHost_power (g : HostState → HostState) : (s.setHost g).power = s.power := rfl
@[simp] theorem State.setHost_time (g : HostState → HostState) : (s.setHost g).time = s.time := rfl
@[simp] theorem State.setHost_chain (g : HostState → HostState) : (s.setHost g).chain = s.chain := rfl
@[simp] theorem State.setHost_freeCount (g : HostState → HostState) : (s.setHost g).freeCount = s.freeCount := rfl
@[simp] theorem State.setHost_out (g : HostState → HostState) : (s.setHost g).out = s.out := rfl
@[simp] theorem State.setHost_pending (g : HostState → HostState) : (s.setHost g).pending = s.pending := rfl
@[simp] theorem State.setHost_host (g : HostState → HostState) : (s.setHost g).host = g s.host := rfl
@[simp] theorem State.setHost_reg (g : HostState → HostState) (x : Nat) : (s.setHost g).reg x = s.reg x := (rfl)
@[simp] theorem State.setHost_get (g : HostState → HostState) (x : Field) : (s.setHost g).get x = s.get x := (rfl)
theorem State.setHost_frame {T : List Field} {P : List Part} {s t : State} (h : Frame T P s t) (g : HostState → HostState) (m : .host ∈ P) :
    Frame T P s (t.setHost g) := by
  refine Frame.fields h fun p hp => ?_
  cases p <;> first | rfl | exact absurd m hp

@[simp] theorem State.setLane_regs (n : Nat) (g : LaneState → LaneState) : (s.setLane n g).regs = s.regs := rfl
@[simp] theorem State.setLane_active (n : Nat) (g : LaneState → LaneState) : (s.setLane n g).active = s.active := rfl
@[simp] theorem State.setLane_written (n : Nat) (g : LaneState → LaneState) : (s.setLane n g).written = s.written := rfl
@[simp] theorem State.setLane_landed (n : Nat) (g : LaneState → LaneState) : (s.setLane n g).landed = s.landed := rfl
@[simp] theorem State.setLane_high (n : Nat) (g : LaneState → LaneState) : (s.setLane n g).high = s.high := rfl
@[simp] theorem State.setLane_tables (n : Nat) (g : LaneState → LaneState) : (s.setLane n g).tables = s.tables := rfl
@[simp] theorem State.setLane_hold (n : Nat) (g : LaneState → LaneState) : (s.setLane n g).hold = s.hold := rfl
@[simp] theorem State.setLane_sst (n : Nat) (g : LaneState → LaneState) : (s.setLane n g).sst = s.sst := rfl
@[simp] theorem State.setLane_host (n : Nat) (g : LaneState → LaneState) : (s.setLane n g).host = s.host := rfl
@[simp] theorem State.setLane_purser (n : Nat) (g : LaneState → LaneState) : (s.setLane n g).purser = s.purser := rfl
@[simp] theorem State.setLane_outs (n : Nat) (g : LaneState → LaneState) : (s.setLane n g).outs = s.outs := rfl
@[simp] theorem State.setLane_sidebands (n : Nat) (g : LaneState → LaneState) : (s.setLane n g).sidebands = s.sidebands := rfl
@[simp] theorem State.setLane_dma (n : Nat) (g : LaneState → LaneState) : (s.setLane n g).dma = s.dma := rfl
@[simp] theorem State.setLane_dmaTurn (n : Nat) (g : LaneState → LaneState) : (s.setLane n g).dmaTurn = s.dmaTurn := rfl
@[simp] theorem State.setLane_eddys (n : Nat) (g : LaneState → LaneState) : (s.setLane n g).eddys = s.eddys := rfl
@[simp] theorem State.setLane_cal (n : Nat) (g : LaneState → LaneState) : (s.setLane n g).cal = s.cal := rfl
@[simp] theorem State.setLane_otp (n : Nat) (g : LaneState → LaneState) : (s.setLane n g).otp = s.otp := rfl
@[simp] theorem State.setLane_relief (n : Nat) (g : LaneState → LaneState) : (s.setLane n g).relief = s.relief := rfl
@[simp] theorem State.setLane_power (n : Nat) (g : LaneState → LaneState) : (s.setLane n g).power = s.power := rfl
@[simp] theorem State.setLane_time (n : Nat) (g : LaneState → LaneState) : (s.setLane n g).time = s.time := rfl
@[simp] theorem State.setLane_chain (n : Nat) (g : LaneState → LaneState) : (s.setLane n g).chain = s.chain := rfl
@[simp] theorem State.setLane_freeCount (n : Nat) (g : LaneState → LaneState) : (s.setLane n g).freeCount = s.freeCount := rfl
@[simp] theorem State.setLane_out (n : Nat) (g : LaneState → LaneState) : (s.setLane n g).out = s.out := rfl
@[simp] theorem State.setLane_pending (n : Nat) (g : LaneState → LaneState) : (s.setLane n g).pending = s.pending := rfl
@[simp] theorem State.setLane_lanes (n : Nat) (g : LaneState → LaneState) : (s.setLane n g).lanes = updAt s.lanes n g := rfl
@[simp] theorem State.setLane_reg (n : Nat) (g : LaneState → LaneState) (x : Nat) : (s.setLane n g).reg x = s.reg x := (rfl)
@[simp] theorem State.setLane_get (n : Nat) (g : LaneState → LaneState) (x : Field) : (s.setLane n g).get x = s.get x := (rfl)
theorem State.setLane_frame {T : List Field} {P : List Part} {s t : State} (h : Frame T P s t) (n : Nat) (g : LaneState → LaneState) (m : .lane n ∈ P) :
    Frame T P s (t.setLane n g) := by
  refine Frame.fields h fun p hp => ?_
  cases p <;> first | rfl | exact updAt_other _ _ _ _ fun e => by subst e; exact hp m

@[simp] theorem State.setSideband_regs (k : Nat) (g : SbState → SbState) : (s.setSideband k g).regs = s.regs := rfl
@[simp] theorem State.setSideband_active (k : Nat) (g : SbState → SbState) : (s.setSideband k g).active = s.active := rfl
@[simp] theorem State.setSideband_written (k : Nat) (g : SbState → SbState) : (s.setSideband k g).written = s.written := rfl
@[simp] theorem State.setSideband_landed (k : Nat) (g : SbState → SbState) : (s.setSideband k g).landed = s.landed := rfl
@[simp] theorem State.setSideband_high (k : Nat) (g : SbState → SbState) : (s.setSideband k g).high = s.high := rfl
@[simp] theorem State.setSideband_tables (k : Nat) (g : SbState → SbState) : (s.setSideband k g).tables = s.tables := rfl
@[simp] theorem State.setSideband_hold (k : Nat) (g : SbState → SbState) : (s.setSideband k g).hold = s.hold := rfl
@[simp] theorem State.setSideband_sst (k : Nat) (g : SbState → SbState) : (s.setSideband k g).sst = s.sst := rfl
@[simp] theorem State.setSideband_host (k : Nat) (g : SbState → SbState) : (s.setSideband k g).host = s.host := rfl
@[simp] theorem State.setSideband_purser (k : Nat) (g : SbState → SbState) : (s.setSideband k g).purser = s.purser := rfl
@[simp] theorem State.setSideband_outs (k : Nat) (g : SbState → SbState) : (s.setSideband k g).outs = s.outs := rfl
@[simp] theorem State.setSideband_lanes (k : Nat) (g : SbState → SbState) : (s.setSideband k g).lanes = s.lanes := rfl
@[simp] theorem State.setSideband_dma (k : Nat) (g : SbState → SbState) : (s.setSideband k g).dma = s.dma := rfl
@[simp] theorem State.setSideband_dmaTurn (k : Nat) (g : SbState → SbState) : (s.setSideband k g).dmaTurn = s.dmaTurn := rfl
@[simp] theorem State.setSideband_eddys (k : Nat) (g : SbState → SbState) : (s.setSideband k g).eddys = s.eddys := rfl
@[simp] theorem State.setSideband_cal (k : Nat) (g : SbState → SbState) : (s.setSideband k g).cal = s.cal := rfl
@[simp] theorem State.setSideband_otp (k : Nat) (g : SbState → SbState) : (s.setSideband k g).otp = s.otp := rfl
@[simp] theorem State.setSideband_relief (k : Nat) (g : SbState → SbState) : (s.setSideband k g).relief = s.relief := rfl
@[simp] theorem State.setSideband_power (k : Nat) (g : SbState → SbState) : (s.setSideband k g).power = s.power := rfl
@[simp] theorem State.setSideband_time (k : Nat) (g : SbState → SbState) : (s.setSideband k g).time = s.time := rfl
@[simp] theorem State.setSideband_chain (k : Nat) (g : SbState → SbState) : (s.setSideband k g).chain = s.chain := rfl
@[simp] theorem State.setSideband_freeCount (k : Nat) (g : SbState → SbState) : (s.setSideband k g).freeCount = s.freeCount := rfl
@[simp] theorem State.setSideband_out (k : Nat) (g : SbState → SbState) : (s.setSideband k g).out = s.out := rfl
@[simp] theorem State.setSideband_pending (k : Nat) (g : SbState → SbState) : (s.setSideband k g).pending = s.pending := rfl
@[simp] theorem State.setSideband_sidebands (k : Nat) (g : SbState → SbState) : (s.setSideband k g).sidebands = updAt s.sidebands k g := rfl
@[simp] theorem State.setSideband_reg (k : Nat) (g : SbState → SbState) (x : Nat) : (s.setSideband k g).reg x = s.reg x := (rfl)
@[simp] theorem State.setSideband_get (k : Nat) (g : SbState → SbState) (x : Field) : (s.setSideband k g).get x = s.get x := (rfl)
theorem State.setSideband_frame {T : List Field} {P : List Part} {s t : State} (h : Frame T P s t) (k : Nat) (g : SbState → SbState) (m : .sideband k ∈ P) :
    Frame T P s (t.setSideband k g) := by
  refine Frame.fields h fun p hp => ?_
  cases p <;> first | rfl | exact updAt_other _ _ _ _ fun e => by subst e; exact hp m

@[simp] theorem State.setPurser_regs (g : PurserState → PurserState) : (s.setPurser g).regs = s.regs := rfl
@[simp] theorem State.setPurser_active (g : PurserState → PurserState) : (s.setPurser g).active = s.active := rfl
@[simp] theorem State.setPurser_written (g : PurserState → PurserState) : (s.setPurser g).written = s.written := rfl
@[simp] theorem State.setPurser_landed (g : PurserState → PurserState) : (s.setPurser g).landed = s.landed := rfl
@[simp] theorem State.setPurser_high (g : PurserState → PurserState) : (s.setPurser g).high = s.high := rfl
@[simp] theorem State.setPurser_tables (g : PurserState → PurserState) : (s.setPurser g).tables = s.tables := rfl
@[simp] theorem State.setPurser_hold (g : PurserState → PurserState) : (s.setPurser g).hold = s.hold := rfl
@[simp] theorem State.setPurser_sst (g : PurserState → PurserState) : (s.setPurser g).sst = s.sst := rfl
@[simp] theorem State.setPurser_host (g : PurserState → PurserState) : (s.setPurser g).host = s.host := rfl
@[simp] theorem State.setPurser_outs (g : PurserState → PurserState) : (s.setPurser g).outs = s.outs := rfl
@[simp] theorem State.setPurser_lanes (g : PurserState → PurserState) : (s.setPurser g).lanes = s.lanes := rfl
@[simp] theorem State.setPurser_sidebands (g : PurserState → PurserState) : (s.setPurser g).sidebands = s.sidebands := rfl
@[simp] theorem State.setPurser_dma (g : PurserState → PurserState) : (s.setPurser g).dma = s.dma := rfl
@[simp] theorem State.setPurser_dmaTurn (g : PurserState → PurserState) : (s.setPurser g).dmaTurn = s.dmaTurn := rfl
@[simp] theorem State.setPurser_eddys (g : PurserState → PurserState) : (s.setPurser g).eddys = s.eddys := rfl
@[simp] theorem State.setPurser_cal (g : PurserState → PurserState) : (s.setPurser g).cal = s.cal := rfl
@[simp] theorem State.setPurser_otp (g : PurserState → PurserState) : (s.setPurser g).otp = s.otp := rfl
@[simp] theorem State.setPurser_relief (g : PurserState → PurserState) : (s.setPurser g).relief = s.relief := rfl
@[simp] theorem State.setPurser_power (g : PurserState → PurserState) : (s.setPurser g).power = s.power := rfl
@[simp] theorem State.setPurser_time (g : PurserState → PurserState) : (s.setPurser g).time = s.time := rfl
@[simp] theorem State.setPurser_chain (g : PurserState → PurserState) : (s.setPurser g).chain = s.chain := rfl
@[simp] theorem State.setPurser_freeCount (g : PurserState → PurserState) : (s.setPurser g).freeCount = s.freeCount := rfl
@[simp] theorem State.setPurser_out (g : PurserState → PurserState) : (s.setPurser g).out = s.out := rfl
@[simp] theorem State.setPurser_pending (g : PurserState → PurserState) : (s.setPurser g).pending = s.pending := rfl
@[simp] theorem State.setPurser_purser (g : PurserState → PurserState) : (s.setPurser g).purser = g s.purser := rfl
@[simp] theorem State.setPurser_reg (g : PurserState → PurserState) (x : Nat) : (s.setPurser g).reg x = s.reg x := (rfl)
@[simp] theorem State.setPurser_get (g : PurserState → PurserState) (x : Field) : (s.setPurser g).get x = s.get x := (rfl)
theorem State.setPurser_frame {T : List Field} {P : List Part} {s t : State} (h : Frame T P s t) (g : PurserState → PurserState) (m : .purser ∈ P) :
    Frame T P s (t.setPurser g) := by
  refine Frame.fields h fun p hp => ?_
  cases p <;> first | rfl | exact absurd m hp

@[simp] theorem State.setPower_regs (g : PowerState → PowerState) : (s.setPower g).regs = s.regs := rfl
@[simp] theorem State.setPower_active (g : PowerState → PowerState) : (s.setPower g).active = s.active := rfl
@[simp] theorem State.setPower_written (g : PowerState → PowerState) : (s.setPower g).written = s.written := rfl
@[simp] theorem State.setPower_landed (g : PowerState → PowerState) : (s.setPower g).landed = s.landed := rfl
@[simp] theorem State.setPower_high (g : PowerState → PowerState) : (s.setPower g).high = s.high := rfl
@[simp] theorem State.setPower_tables (g : PowerState → PowerState) : (s.setPower g).tables = s.tables := rfl
@[simp] theorem State.setPower_hold (g : PowerState → PowerState) : (s.setPower g).hold = s.hold := rfl
@[simp] theorem State.setPower_sst (g : PowerState → PowerState) : (s.setPower g).sst = s.sst := rfl
@[simp] theorem State.setPower_host (g : PowerState → PowerState) : (s.setPower g).host = s.host := rfl
@[simp] theorem State.setPower_purser (g : PowerState → PowerState) : (s.setPower g).purser = s.purser := rfl
@[simp] theorem State.setPower_outs (g : PowerState → PowerState) : (s.setPower g).outs = s.outs := rfl
@[simp] theorem State.setPower_lanes (g : PowerState → PowerState) : (s.setPower g).lanes = s.lanes := rfl
@[simp] theorem State.setPower_sidebands (g : PowerState → PowerState) : (s.setPower g).sidebands = s.sidebands := rfl
@[simp] theorem State.setPower_dma (g : PowerState → PowerState) : (s.setPower g).dma = s.dma := rfl
@[simp] theorem State.setPower_dmaTurn (g : PowerState → PowerState) : (s.setPower g).dmaTurn = s.dmaTurn := rfl
@[simp] theorem State.setPower_eddys (g : PowerState → PowerState) : (s.setPower g).eddys = s.eddys := rfl
@[simp] theorem State.setPower_cal (g : PowerState → PowerState) : (s.setPower g).cal = s.cal := rfl
@[simp] theorem State.setPower_otp (g : PowerState → PowerState) : (s.setPower g).otp = s.otp := rfl
@[simp] theorem State.setPower_relief (g : PowerState → PowerState) : (s.setPower g).relief = s.relief := rfl
@[simp] theorem State.setPower_time (g : PowerState → PowerState) : (s.setPower g).time = s.time := rfl
@[simp] theorem State.setPower_chain (g : PowerState → PowerState) : (s.setPower g).chain = s.chain := rfl
@[simp] theorem State.setPower_freeCount (g : PowerState → PowerState) : (s.setPower g).freeCount = s.freeCount := rfl
@[simp] theorem State.setPower_out (g : PowerState → PowerState) : (s.setPower g).out = s.out := rfl
@[simp] theorem State.setPower_pending (g : PowerState → PowerState) : (s.setPower g).pending = s.pending := rfl
@[simp] theorem State.setPower_power (g : PowerState → PowerState) : (s.setPower g).power = g s.power := rfl
@[simp] theorem State.setPower_reg (g : PowerState → PowerState) (x : Nat) : (s.setPower g).reg x = s.reg x := (rfl)
@[simp] theorem State.setPower_get (g : PowerState → PowerState) (x : Field) : (s.setPower g).get x = s.get x := (rfl)
theorem State.setPower_frame {T : List Field} {P : List Part} {s t : State} (h : Frame T P s t) (g : PowerState → PowerState) (m : .power ∈ P) :
    Frame T P s (t.setPower g) := by
  refine Frame.fields h fun p hp => ?_
  cases p <;> first | rfl | exact absurd m hp

@[simp] theorem State.setSlot_regs (k : Nat) (ws : List Word) : (s.setSlot k ws).regs = s.regs := rfl
@[simp] theorem State.setSlot_active (k : Nat) (ws : List Word) : (s.setSlot k ws).active = s.active := rfl
@[simp] theorem State.setSlot_written (k : Nat) (ws : List Word) : (s.setSlot k ws).written = s.written := rfl
@[simp] theorem State.setSlot_landed (k : Nat) (ws : List Word) : (s.setSlot k ws).landed = s.landed := rfl
@[simp] theorem State.setSlot_high (k : Nat) (ws : List Word) : (s.setSlot k ws).high = s.high := rfl
@[simp] theorem State.setSlot_tables (k : Nat) (ws : List Word) : (s.setSlot k ws).tables = s.tables := rfl
@[simp] theorem State.setSlot_hold (k : Nat) (ws : List Word) : (s.setSlot k ws).hold = s.hold := rfl
@[simp] theorem State.setSlot_host (k : Nat) (ws : List Word) : (s.setSlot k ws).host = s.host := rfl
@[simp] theorem State.setSlot_purser (k : Nat) (ws : List Word) : (s.setSlot k ws).purser = s.purser := rfl
@[simp] theorem State.setSlot_outs (k : Nat) (ws : List Word) : (s.setSlot k ws).outs = s.outs := rfl
@[simp] theorem State.setSlot_lanes (k : Nat) (ws : List Word) : (s.setSlot k ws).lanes = s.lanes := rfl
@[simp] theorem State.setSlot_sidebands (k : Nat) (ws : List Word) : (s.setSlot k ws).sidebands = s.sidebands := rfl
@[simp] theorem State.setSlot_dma (k : Nat) (ws : List Word) : (s.setSlot k ws).dma = s.dma := rfl
@[simp] theorem State.setSlot_dmaTurn (k : Nat) (ws : List Word) : (s.setSlot k ws).dmaTurn = s.dmaTurn := rfl
@[simp] theorem State.setSlot_eddys (k : Nat) (ws : List Word) : (s.setSlot k ws).eddys = s.eddys := rfl
@[simp] theorem State.setSlot_cal (k : Nat) (ws : List Word) : (s.setSlot k ws).cal = s.cal := rfl
@[simp] theorem State.setSlot_otp (k : Nat) (ws : List Word) : (s.setSlot k ws).otp = s.otp := rfl
@[simp] theorem State.setSlot_relief (k : Nat) (ws : List Word) : (s.setSlot k ws).relief = s.relief := rfl
@[simp] theorem State.setSlot_power (k : Nat) (ws : List Word) : (s.setSlot k ws).power = s.power := rfl
@[simp] theorem State.setSlot_time (k : Nat) (ws : List Word) : (s.setSlot k ws).time = s.time := rfl
@[simp] theorem State.setSlot_chain (k : Nat) (ws : List Word) : (s.setSlot k ws).chain = s.chain := rfl
@[simp] theorem State.setSlot_freeCount (k : Nat) (ws : List Word) : (s.setSlot k ws).freeCount = s.freeCount := rfl
@[simp] theorem State.setSlot_out (k : Nat) (ws : List Word) : (s.setSlot k ws).out = s.out := rfl
@[simp] theorem State.setSlot_pending (k : Nat) (ws : List Word) : (s.setSlot k ws).pending = s.pending := rfl
@[simp] theorem State.setSlot_sst (k : Nat) (ws : List Word) : (s.setSlot k ws).sst = { s.sst with slots := updAt s.sst.slots k fun _ => ws } := rfl
@[simp] theorem State.setSlot_reg (k : Nat) (ws : List Word) (x : Nat) : (s.setSlot k ws).reg x = s.reg x := (rfl)
@[simp] theorem State.setSlot_get (k : Nat) (ws : List Word) (x : Field) : (s.setSlot k ws).get x = s.get x := (rfl)
theorem State.setSlot_frame {T : List Field} {P : List Part} {s t : State} (h : Frame T P s t) (k : Nat) (ws : List Word) (m : .sst ∈ P) :
    Frame T P s (t.setSlot k ws) := by
  refine Frame.fields h fun p hp => ?_
  cases p <;> first | rfl | exact absurd m hp

@[simp] theorem State.setCopy_regs (k ab : Nat) (c : CalCopy) : (s.setCopy k ab c).regs = s.regs := rfl
@[simp] theorem State.setCopy_active (k ab : Nat) (c : CalCopy) : (s.setCopy k ab c).active = s.active := rfl
@[simp] theorem State.setCopy_written (k ab : Nat) (c : CalCopy) : (s.setCopy k ab c).written = s.written := rfl
@[simp] theorem State.setCopy_landed (k ab : Nat) (c : CalCopy) : (s.setCopy k ab c).landed = s.landed := rfl
@[simp] theorem State.setCopy_high (k ab : Nat) (c : CalCopy) : (s.setCopy k ab c).high = s.high := rfl
@[simp] theorem State.setCopy_tables (k ab : Nat) (c : CalCopy) : (s.setCopy k ab c).tables = s.tables := rfl
@[simp] theorem State.setCopy_hold (k ab : Nat) (c : CalCopy) : (s.setCopy k ab c).hold = s.hold := rfl
@[simp] theorem State.setCopy_sst (k ab : Nat) (c : CalCopy) : (s.setCopy k ab c).sst = s.sst := rfl
@[simp] theorem State.setCopy_host (k ab : Nat) (c : CalCopy) : (s.setCopy k ab c).host = s.host := rfl
@[simp] theorem State.setCopy_purser (k ab : Nat) (c : CalCopy) : (s.setCopy k ab c).purser = s.purser := rfl
@[simp] theorem State.setCopy_outs (k ab : Nat) (c : CalCopy) : (s.setCopy k ab c).outs = s.outs := rfl
@[simp] theorem State.setCopy_lanes (k ab : Nat) (c : CalCopy) : (s.setCopy k ab c).lanes = s.lanes := rfl
@[simp] theorem State.setCopy_sidebands (k ab : Nat) (c : CalCopy) : (s.setCopy k ab c).sidebands = s.sidebands := rfl
@[simp] theorem State.setCopy_dma (k ab : Nat) (c : CalCopy) : (s.setCopy k ab c).dma = s.dma := rfl
@[simp] theorem State.setCopy_dmaTurn (k ab : Nat) (c : CalCopy) : (s.setCopy k ab c).dmaTurn = s.dmaTurn := rfl
@[simp] theorem State.setCopy_eddys (k ab : Nat) (c : CalCopy) : (s.setCopy k ab c).eddys = s.eddys := rfl
@[simp] theorem State.setCopy_otp (k ab : Nat) (c : CalCopy) : (s.setCopy k ab c).otp = s.otp := rfl
@[simp] theorem State.setCopy_relief (k ab : Nat) (c : CalCopy) : (s.setCopy k ab c).relief = s.relief := rfl
@[simp] theorem State.setCopy_power (k ab : Nat) (c : CalCopy) : (s.setCopy k ab c).power = s.power := rfl
@[simp] theorem State.setCopy_time (k ab : Nat) (c : CalCopy) : (s.setCopy k ab c).time = s.time := rfl
@[simp] theorem State.setCopy_chain (k ab : Nat) (c : CalCopy) : (s.setCopy k ab c).chain = s.chain := rfl
@[simp] theorem State.setCopy_freeCount (k ab : Nat) (c : CalCopy) : (s.setCopy k ab c).freeCount = s.freeCount := rfl
@[simp] theorem State.setCopy_out (k ab : Nat) (c : CalCopy) : (s.setCopy k ab c).out = s.out := rfl
@[simp] theorem State.setCopy_pending (k ab : Nat) (c : CalCopy) : (s.setCopy k ab c).pending = s.pending := rfl
@[simp] theorem State.setCopy_cal (k ab : Nat) (c : CalCopy) : (s.setCopy k ab c).cal = { s.cal with copies := updAt s.cal.copies (2 * k + ab) fun _ => c } := rfl
@[simp] theorem State.setCopy_reg (k ab : Nat) (c : CalCopy) (x : Nat) : (s.setCopy k ab c).reg x = s.reg x := (rfl)
@[simp] theorem State.setCopy_get (k ab : Nat) (c : CalCopy) (x : Field) : (s.setCopy k ab c).get x = s.get x := (rfl)
theorem State.setCopy_frame {T : List Field} {P : List Part} {s t : State} (h : Frame T P s t) (k ab : Nat) (c : CalCopy) (m : .cal ∈ P) :
    Frame T P s (t.setCopy k ab c) := by
  refine Frame.fields h fun p hp => ?_
  cases p <;> first | rfl | exact absurd m hp

@[simp] theorem State.setPort_regs (p : Nat) (g : PortState → PortState) : (s.setPort p g).regs = s.regs := rfl
@[simp] theorem State.setPort_active (p : Nat) (g : PortState → PortState) : (s.setPort p g).active = s.active := rfl
@[simp] theorem State.setPort_written (p : Nat) (g : PortState → PortState) : (s.setPort p g).written = s.written := rfl
@[simp] theorem State.setPort_landed (p : Nat) (g : PortState → PortState) : (s.setPort p g).landed = s.landed := rfl
@[simp] theorem State.setPort_high (p : Nat) (g : PortState → PortState) : (s.setPort p g).high = s.high := rfl
@[simp] theorem State.setPort_tables (p : Nat) (g : PortState → PortState) : (s.setPort p g).tables = s.tables := rfl
@[simp] theorem State.setPort_hold (p : Nat) (g : PortState → PortState) : (s.setPort p g).hold = s.hold := rfl
@[simp] theorem State.setPort_sst (p : Nat) (g : PortState → PortState) : (s.setPort p g).sst = s.sst := rfl
@[simp] theorem State.setPort_host (p : Nat) (g : PortState → PortState) : (s.setPort p g).host = s.host := rfl
@[simp] theorem State.setPort_purser (p : Nat) (g : PortState → PortState) : (s.setPort p g).purser = s.purser := rfl
@[simp] theorem State.setPort_outs (p : Nat) (g : PortState → PortState) : (s.setPort p g).outs = s.outs := rfl
@[simp] theorem State.setPort_lanes (p : Nat) (g : PortState → PortState) : (s.setPort p g).lanes = s.lanes := rfl
@[simp] theorem State.setPort_sidebands (p : Nat) (g : PortState → PortState) : (s.setPort p g).sidebands = s.sidebands := rfl
@[simp] theorem State.setPort_dma (p : Nat) (g : PortState → PortState) : (s.setPort p g).dma = s.dma := rfl
@[simp] theorem State.setPort_dmaTurn (p : Nat) (g : PortState → PortState) : (s.setPort p g).dmaTurn = s.dmaTurn := rfl
@[simp] theorem State.setPort_eddys (p : Nat) (g : PortState → PortState) : (s.setPort p g).eddys = s.eddys := rfl
@[simp] theorem State.setPort_cal (p : Nat) (g : PortState → PortState) : (s.setPort p g).cal = s.cal := rfl
@[simp] theorem State.setPort_otp (p : Nat) (g : PortState → PortState) : (s.setPort p g).otp = s.otp := rfl
@[simp] theorem State.setPort_relief (p : Nat) (g : PortState → PortState) : (s.setPort p g).relief = s.relief := rfl
@[simp] theorem State.setPort_power (p : Nat) (g : PortState → PortState) : (s.setPort p g).power = s.power := rfl
@[simp] theorem State.setPort_time (p : Nat) (g : PortState → PortState) : (s.setPort p g).time = s.time := rfl
@[simp] theorem State.setPort_freeCount (p : Nat) (g : PortState → PortState) : (s.setPort p g).freeCount = s.freeCount := rfl
@[simp] theorem State.setPort_out (p : Nat) (g : PortState → PortState) : (s.setPort p g).out = s.out := rfl
@[simp] theorem State.setPort_pending (p : Nat) (g : PortState → PortState) : (s.setPort p g).pending = s.pending := rfl
@[simp] theorem State.setPort_chain (p : Nat) (g : PortState → PortState) : (s.setPort p g).chain = { s.chain with ports := updAt s.chain.ports p g } := rfl
@[simp] theorem State.setPort_reg (p : Nat) (g : PortState → PortState) (x : Nat) : (s.setPort p g).reg x = s.reg x := (rfl)
@[simp] theorem State.setPort_get (p : Nat) (g : PortState → PortState) (x : Field) : (s.setPort p g).get x = s.get x := (rfl)
theorem State.setPort_frame {T : List Field} {P : List Part} {s t : State} (h : Frame T P s t) (p : Nat) (g : PortState → PortState) (m : .chain ∈ P) :
    Frame T P s (t.setPort p g) := by
  refine Frame.fields h fun p hp => ?_
  cases p <;> first | rfl | exact absurd m hp

@[simp] theorem State.setTx_regs (n : Nat) (g : TxStream → TxStream) : (s.setTx n g).regs = s.regs := rfl
@[simp] theorem State.setTx_active (n : Nat) (g : TxStream → TxStream) : (s.setTx n g).active = s.active := rfl
@[simp] theorem State.setTx_written (n : Nat) (g : TxStream → TxStream) : (s.setTx n g).written = s.written := rfl
@[simp] theorem State.setTx_landed (n : Nat) (g : TxStream → TxStream) : (s.setTx n g).landed = s.landed := rfl
@[simp] theorem State.setTx_high (n : Nat) (g : TxStream → TxStream) : (s.setTx n g).high = s.high := rfl
@[simp] theorem State.setTx_tables (n : Nat) (g : TxStream → TxStream) : (s.setTx n g).tables = s.tables := rfl
@[simp] theorem State.setTx_hold (n : Nat) (g : TxStream → TxStream) : (s.setTx n g).hold = s.hold := rfl
@[simp] theorem State.setTx_sst (n : Nat) (g : TxStream → TxStream) : (s.setTx n g).sst = s.sst := rfl
@[simp] theorem State.setTx_host (n : Nat) (g : TxStream → TxStream) : (s.setTx n g).host = s.host := rfl
@[simp] theorem State.setTx_purser (n : Nat) (g : TxStream → TxStream) : (s.setTx n g).purser = s.purser := rfl
@[simp] theorem State.setTx_outs (n : Nat) (g : TxStream → TxStream) : (s.setTx n g).outs = s.outs := rfl
@[simp] theorem State.setTx_lanes (n : Nat) (g : TxStream → TxStream) : (s.setTx n g).lanes = s.lanes := rfl
@[simp] theorem State.setTx_sidebands (n : Nat) (g : TxStream → TxStream) : (s.setTx n g).sidebands = s.sidebands := rfl
@[simp] theorem State.setTx_dma (n : Nat) (g : TxStream → TxStream) : (s.setTx n g).dma = s.dma := rfl
@[simp] theorem State.setTx_dmaTurn (n : Nat) (g : TxStream → TxStream) : (s.setTx n g).dmaTurn = s.dmaTurn := rfl
@[simp] theorem State.setTx_eddys (n : Nat) (g : TxStream → TxStream) : (s.setTx n g).eddys = s.eddys := rfl
@[simp] theorem State.setTx_cal (n : Nat) (g : TxStream → TxStream) : (s.setTx n g).cal = s.cal := rfl
@[simp] theorem State.setTx_otp (n : Nat) (g : TxStream → TxStream) : (s.setTx n g).otp = s.otp := rfl
@[simp] theorem State.setTx_relief (n : Nat) (g : TxStream → TxStream) : (s.setTx n g).relief = s.relief := rfl
@[simp] theorem State.setTx_power (n : Nat) (g : TxStream → TxStream) : (s.setTx n g).power = s.power := rfl
@[simp] theorem State.setTx_time (n : Nat) (g : TxStream → TxStream) : (s.setTx n g).time = s.time := rfl
@[simp] theorem State.setTx_freeCount (n : Nat) (g : TxStream → TxStream) : (s.setTx n g).freeCount = s.freeCount := rfl
@[simp] theorem State.setTx_out (n : Nat) (g : TxStream → TxStream) : (s.setTx n g).out = s.out := rfl
@[simp] theorem State.setTx_pending (n : Nat) (g : TxStream → TxStream) : (s.setTx n g).pending = s.pending := rfl
@[simp] theorem State.setTx_chain (n : Nat) (g : TxStream → TxStream) : (s.setTx n g).chain = { s.chain with tx := updAt s.chain.tx n g } := rfl
@[simp] theorem State.setTx_reg (n : Nat) (g : TxStream → TxStream) (x : Nat) : (s.setTx n g).reg x = s.reg x := (rfl)
@[simp] theorem State.setTx_get (n : Nat) (g : TxStream → TxStream) (x : Field) : (s.setTx n g).get x = s.get x := (rfl)
theorem State.setTx_frame {T : List Field} {P : List Part} {s t : State} (h : Frame T P s t) (n : Nat) (g : TxStream → TxStream) (m : .chain ∈ P) :
    Frame T P s (t.setTx n g) := by
  refine Frame.fields h fun p hp => ?_
  cases p <;> first | rfl | exact absurd m hp

@[simp] theorem State.setRx_regs (i : Nat) (y : Option RxFrame) : (s.setRx i y).regs = s.regs := rfl
@[simp] theorem State.setRx_active (i : Nat) (y : Option RxFrame) : (s.setRx i y).active = s.active := rfl
@[simp] theorem State.setRx_written (i : Nat) (y : Option RxFrame) : (s.setRx i y).written = s.written := rfl
@[simp] theorem State.setRx_landed (i : Nat) (y : Option RxFrame) : (s.setRx i y).landed = s.landed := rfl
@[simp] theorem State.setRx_high (i : Nat) (y : Option RxFrame) : (s.setRx i y).high = s.high := rfl
@[simp] theorem State.setRx_tables (i : Nat) (y : Option RxFrame) : (s.setRx i y).tables = s.tables := rfl
@[simp] theorem State.setRx_hold (i : Nat) (y : Option RxFrame) : (s.setRx i y).hold = s.hold := rfl
@[simp] theorem State.setRx_sst (i : Nat) (y : Option RxFrame) : (s.setRx i y).sst = s.sst := rfl
@[simp] theorem State.setRx_host (i : Nat) (y : Option RxFrame) : (s.setRx i y).host = s.host := rfl
@[simp] theorem State.setRx_purser (i : Nat) (y : Option RxFrame) : (s.setRx i y).purser = s.purser := rfl
@[simp] theorem State.setRx_outs (i : Nat) (y : Option RxFrame) : (s.setRx i y).outs = s.outs := rfl
@[simp] theorem State.setRx_lanes (i : Nat) (y : Option RxFrame) : (s.setRx i y).lanes = s.lanes := rfl
@[simp] theorem State.setRx_sidebands (i : Nat) (y : Option RxFrame) : (s.setRx i y).sidebands = s.sidebands := rfl
@[simp] theorem State.setRx_dma (i : Nat) (y : Option RxFrame) : (s.setRx i y).dma = s.dma := rfl
@[simp] theorem State.setRx_dmaTurn (i : Nat) (y : Option RxFrame) : (s.setRx i y).dmaTurn = s.dmaTurn := rfl
@[simp] theorem State.setRx_eddys (i : Nat) (y : Option RxFrame) : (s.setRx i y).eddys = s.eddys := rfl
@[simp] theorem State.setRx_cal (i : Nat) (y : Option RxFrame) : (s.setRx i y).cal = s.cal := rfl
@[simp] theorem State.setRx_otp (i : Nat) (y : Option RxFrame) : (s.setRx i y).otp = s.otp := rfl
@[simp] theorem State.setRx_relief (i : Nat) (y : Option RxFrame) : (s.setRx i y).relief = s.relief := rfl
@[simp] theorem State.setRx_power (i : Nat) (y : Option RxFrame) : (s.setRx i y).power = s.power := rfl
@[simp] theorem State.setRx_time (i : Nat) (y : Option RxFrame) : (s.setRx i y).time = s.time := rfl
@[simp] theorem State.setRx_freeCount (i : Nat) (y : Option RxFrame) : (s.setRx i y).freeCount = s.freeCount := rfl
@[simp] theorem State.setRx_out (i : Nat) (y : Option RxFrame) : (s.setRx i y).out = s.out := rfl
@[simp] theorem State.setRx_pending (i : Nat) (y : Option RxFrame) : (s.setRx i y).pending = s.pending := rfl
@[simp] theorem State.setRx_chain (i : Nat) (y : Option RxFrame) : (s.setRx i y).chain = { s.chain with rx := updAt s.chain.rx i fun _ => y } := rfl
@[simp] theorem State.setRx_reg (i : Nat) (y : Option RxFrame) (x : Nat) : (s.setRx i y).reg x = s.reg x := (rfl)
@[simp] theorem State.setRx_get (i : Nat) (y : Option RxFrame) (x : Field) : (s.setRx i y).get x = s.get x := (rfl)
theorem State.setRx_frame {T : List Field} {P : List Part} {s t : State} (h : Frame T P s t) (i : Nat) (y : Option RxFrame) (m : .chain ∈ P) :
    Frame T P s (t.setRx i y) := by
  refine Frame.fields h fun p hp => ?_
  cases p <;> first | rfl | exact absurd m hp

@[simp] theorem State.setSwap_regs (p q : PendingSwap) : (s.setSwap p q).regs = s.regs := rfl
@[simp] theorem State.setSwap_active (p q : PendingSwap) : (s.setSwap p q).active = s.active := rfl
@[simp] theorem State.setSwap_written (p q : PendingSwap) : (s.setSwap p q).written = s.written := rfl
@[simp] theorem State.setSwap_landed (p q : PendingSwap) : (s.setSwap p q).landed = s.landed := rfl
@[simp] theorem State.setSwap_high (p q : PendingSwap) : (s.setSwap p q).high = s.high := rfl
@[simp] theorem State.setSwap_tables (p q : PendingSwap) : (s.setSwap p q).tables = s.tables := rfl
@[simp] theorem State.setSwap_hold (p q : PendingSwap) : (s.setSwap p q).hold = s.hold := rfl
@[simp] theorem State.setSwap_sst (p q : PendingSwap) : (s.setSwap p q).sst = s.sst := rfl
@[simp] theorem State.setSwap_host (p q : PendingSwap) : (s.setSwap p q).host = s.host := rfl
@[simp] theorem State.setSwap_purser (p q : PendingSwap) : (s.setSwap p q).purser = s.purser := rfl
@[simp] theorem State.setSwap_outs (p q : PendingSwap) : (s.setSwap p q).outs = s.outs := rfl
@[simp] theorem State.setSwap_lanes (p q : PendingSwap) : (s.setSwap p q).lanes = s.lanes := rfl
@[simp] theorem State.setSwap_sidebands (p q : PendingSwap) : (s.setSwap p q).sidebands = s.sidebands := rfl
@[simp] theorem State.setSwap_dma (p q : PendingSwap) : (s.setSwap p q).dma = s.dma := rfl
@[simp] theorem State.setSwap_dmaTurn (p q : PendingSwap) : (s.setSwap p q).dmaTurn = s.dmaTurn := rfl
@[simp] theorem State.setSwap_eddys (p q : PendingSwap) : (s.setSwap p q).eddys = s.eddys := rfl
@[simp] theorem State.setSwap_cal (p q : PendingSwap) : (s.setSwap p q).cal = s.cal := rfl
@[simp] theorem State.setSwap_otp (p q : PendingSwap) : (s.setSwap p q).otp = s.otp := rfl
@[simp] theorem State.setSwap_power (p q : PendingSwap) : (s.setSwap p q).power = s.power := rfl
@[simp] theorem State.setSwap_time (p q : PendingSwap) : (s.setSwap p q).time = s.time := rfl
@[simp] theorem State.setSwap_chain (p q : PendingSwap) : (s.setSwap p q).chain = s.chain := rfl
@[simp] theorem State.setSwap_freeCount (p q : PendingSwap) : (s.setSwap p q).freeCount = s.freeCount := rfl
@[simp] theorem State.setSwap_out (p q : PendingSwap) : (s.setSwap p q).out = s.out := rfl
@[simp] theorem State.setSwap_pending (p q : PendingSwap) : (s.setSwap p q).pending = s.pending := rfl
@[simp] theorem State.setSwap_relief (p q : PendingSwap) : (s.setSwap p q).relief = { s.relief with waiting := s.relief.waiting.map fun x => if x = p then q else x } := rfl
@[simp] theorem State.setSwap_reg (p q : PendingSwap) (x : Nat) : (s.setSwap p q).reg x = s.reg x := (rfl)
@[simp] theorem State.setSwap_get (p q : PendingSwap) (x : Field) : (s.setSwap p q).get x = s.get x := (rfl)
theorem State.setSwap_frame {T : List Field} {P : List Part} {s t : State} (h : Frame T P s t) (p q : PendingSwap) (m : .relief ∈ P) :
    Frame T P s (t.setSwap p q) := by
  refine Frame.fields h fun p hp => ?_
  cases p <;> first | rfl | exact absurd m hp

@[simp] theorem State.setHoldByte_regs (a : Nat) (b : Byte) : (s.setHoldByte a b).regs = s.regs := rfl
@[simp] theorem State.setHoldByte_active (a : Nat) (b : Byte) : (s.setHoldByte a b).active = s.active := rfl
@[simp] theorem State.setHoldByte_written (a : Nat) (b : Byte) : (s.setHoldByte a b).written = s.written := rfl
@[simp] theorem State.setHoldByte_landed (a : Nat) (b : Byte) : (s.setHoldByte a b).landed = s.landed := rfl
@[simp] theorem State.setHoldByte_high (a : Nat) (b : Byte) : (s.setHoldByte a b).high = s.high := rfl
@[simp] theorem State.setHoldByte_tables (a : Nat) (b : Byte) : (s.setHoldByte a b).tables = s.tables := rfl
@[simp] theorem State.setHoldByte_sst (a : Nat) (b : Byte) : (s.setHoldByte a b).sst = s.sst := rfl
@[simp] theorem State.setHoldByte_host (a : Nat) (b : Byte) : (s.setHoldByte a b).host = s.host := rfl
@[simp] theorem State.setHoldByte_purser (a : Nat) (b : Byte) : (s.setHoldByte a b).purser = s.purser := rfl
@[simp] theorem State.setHoldByte_outs (a : Nat) (b : Byte) : (s.setHoldByte a b).outs = s.outs := rfl
@[simp] theorem State.setHoldByte_lanes (a : Nat) (b : Byte) : (s.setHoldByte a b).lanes = s.lanes := rfl
@[simp] theorem State.setHoldByte_sidebands (a : Nat) (b : Byte) : (s.setHoldByte a b).sidebands = s.sidebands := rfl
@[simp] theorem State.setHoldByte_dma (a : Nat) (b : Byte) : (s.setHoldByte a b).dma = s.dma := rfl
@[simp] theorem State.setHoldByte_dmaTurn (a : Nat) (b : Byte) : (s.setHoldByte a b).dmaTurn = s.dmaTurn := rfl
@[simp] theorem State.setHoldByte_eddys (a : Nat) (b : Byte) : (s.setHoldByte a b).eddys = s.eddys := rfl
@[simp] theorem State.setHoldByte_cal (a : Nat) (b : Byte) : (s.setHoldByte a b).cal = s.cal := rfl
@[simp] theorem State.setHoldByte_otp (a : Nat) (b : Byte) : (s.setHoldByte a b).otp = s.otp := rfl
@[simp] theorem State.setHoldByte_relief (a : Nat) (b : Byte) : (s.setHoldByte a b).relief = s.relief := rfl
@[simp] theorem State.setHoldByte_power (a : Nat) (b : Byte) : (s.setHoldByte a b).power = s.power := rfl
@[simp] theorem State.setHoldByte_time (a : Nat) (b : Byte) : (s.setHoldByte a b).time = s.time := rfl
@[simp] theorem State.setHoldByte_chain (a : Nat) (b : Byte) : (s.setHoldByte a b).chain = s.chain := rfl
@[simp] theorem State.setHoldByte_freeCount (a : Nat) (b : Byte) : (s.setHoldByte a b).freeCount = s.freeCount := rfl
@[simp] theorem State.setHoldByte_out (a : Nat) (b : Byte) : (s.setHoldByte a b).out = s.out := rfl
@[simp] theorem State.setHoldByte_pending (a : Nat) (b : Byte) : (s.setHoldByte a b).pending = s.pending := rfl
@[simp] theorem State.setHoldByte_hold (a : Nat) (b : Byte) : (s.setHoldByte a b).hold = { s.hold with bytes := sparseSet 0 s.hold.bytes a b } := rfl
@[simp] theorem State.setHoldByte_reg (a : Nat) (b : Byte) (x : Nat) : (s.setHoldByte a b).reg x = s.reg x := (rfl)
@[simp] theorem State.setHoldByte_get (a : Nat) (b : Byte) (x : Field) : (s.setHoldByte a b).get x = s.get x := (rfl)
theorem State.setHoldByte_frame {T : List Field} {P : List Part} {s t : State} (h : Frame T P s t) (a : Nat) (b : Byte) (m : .hold ∈ P) :
    Frame T P s (t.setHoldByte a b) := by
  refine Frame.fields h fun p hp => ?_
  cases p <;> first | rfl | exact absurd m hp

@[simp] theorem State.setTbl_regs (n type table bank idx v : Nat) : (s.setTbl n type table bank idx v).regs = s.regs := rfl
@[simp] theorem State.setTbl_active (n type table bank idx v : Nat) : (s.setTbl n type table bank idx v).active = s.active := rfl
@[simp] theorem State.setTbl_written (n type table bank idx v : Nat) : (s.setTbl n type table bank idx v).written = s.written := rfl
@[simp] theorem State.setTbl_landed (n type table bank idx v : Nat) : (s.setTbl n type table bank idx v).landed = s.landed := rfl
@[simp] theorem State.setTbl_high (n type table bank idx v : Nat) : (s.setTbl n type table bank idx v).high = s.high := rfl
@[simp] theorem State.setTbl_hold (n type table bank idx v : Nat) : (s.setTbl n type table bank idx v).hold = s.hold := rfl
@[simp] theorem State.setTbl_sst (n type table bank idx v : Nat) : (s.setTbl n type table bank idx v).sst = s.sst := rfl
@[simp] theorem State.setTbl_host (n type table bank idx v : Nat) : (s.setTbl n type table bank idx v).host = s.host := rfl
@[simp] theorem State.setTbl_purser (n type table bank idx v : Nat) : (s.setTbl n type table bank idx v).purser = s.purser := rfl
@[simp] theorem State.setTbl_outs (n type table bank idx v : Nat) : (s.setTbl n type table bank idx v).outs = s.outs := rfl
@[simp] theorem State.setTbl_lanes (n type table bank idx v : Nat) : (s.setTbl n type table bank idx v).lanes = s.lanes := rfl
@[simp] theorem State.setTbl_sidebands (n type table bank idx v : Nat) : (s.setTbl n type table bank idx v).sidebands = s.sidebands := rfl
@[simp] theorem State.setTbl_dma (n type table bank idx v : Nat) : (s.setTbl n type table bank idx v).dma = s.dma := rfl
@[simp] theorem State.setTbl_dmaTurn (n type table bank idx v : Nat) : (s.setTbl n type table bank idx v).dmaTurn = s.dmaTurn := rfl
@[simp] theorem State.setTbl_eddys (n type table bank idx v : Nat) : (s.setTbl n type table bank idx v).eddys = s.eddys := rfl
@[simp] theorem State.setTbl_cal (n type table bank idx v : Nat) : (s.setTbl n type table bank idx v).cal = s.cal := rfl
@[simp] theorem State.setTbl_otp (n type table bank idx v : Nat) : (s.setTbl n type table bank idx v).otp = s.otp := rfl
@[simp] theorem State.setTbl_relief (n type table bank idx v : Nat) : (s.setTbl n type table bank idx v).relief = s.relief := rfl
@[simp] theorem State.setTbl_power (n type table bank idx v : Nat) : (s.setTbl n type table bank idx v).power = s.power := rfl
@[simp] theorem State.setTbl_time (n type table bank idx v : Nat) : (s.setTbl n type table bank idx v).time = s.time := rfl
@[simp] theorem State.setTbl_chain (n type table bank idx v : Nat) : (s.setTbl n type table bank idx v).chain = s.chain := rfl
@[simp] theorem State.setTbl_freeCount (n type table bank idx v : Nat) : (s.setTbl n type table bank idx v).freeCount = s.freeCount := rfl
@[simp] theorem State.setTbl_out (n type table bank idx v : Nat) : (s.setTbl n type table bank idx v).out = s.out := rfl
@[simp] theorem State.setTbl_pending (n type table bank idx v : Nat) : (s.setTbl n type table bank idx v).pending = s.pending := rfl
@[simp] theorem State.setTbl_tables (n type table bank idx v : Nat) : (s.setTbl n type table bank idx v).tables = sparseSet 0 s.tables (tableKey n type table bank idx) (v + 1) := rfl
@[simp] theorem State.setTbl_reg (n type table bank idx v : Nat) (x : Nat) : (s.setTbl n type table bank idx v).reg x = s.reg x := (rfl)
@[simp] theorem State.setTbl_get (n type table bank idx v : Nat) (x : Field) : (s.setTbl n type table bank idx v).get x = s.get x := (rfl)
theorem State.setTbl_frame {T : List Field} {P : List Part} {s t : State} (h : Frame T P s t) (n type table bank idx v : Nat) (m : .tables ∈ P) :
    Frame T P s (t.setTbl n type table bank idx v) := by
  refine Frame.fields h fun p hp => ?_
  cases p <;> first | rfl | exact absurd m hp

@[simp] theorem State.setXfer_reg (ch : Nat) (g : DmaXfer → DmaXfer) (x : Nat) : (s.setXfer ch g).reg x = s.reg x := (rfl)
@[simp] theorem State.setXfer_get (ch : Nat) (g : DmaXfer → DmaXfer) (x : Field) : (s.setXfer ch g).get x = s.get x := (rfl)
theorem State.setXfer_frame {T : List Field} {P : List Part} {s t : State} (h : Frame T P s t) (ch : Nat) (g : DmaXfer → DmaXfer) (m : .channel ch ∈ P) :
    Frame T P s (t.setXfer ch g) := State.setChan_frame h ch _ m

@[simp] theorem State.setChunk_reg (ch i : Nat) (g : DmaChunk → DmaChunk) (x : Nat) : (s.setChunk ch i g).reg x = s.reg x := (rfl)
@[simp] theorem State.setChunk_get (ch i : Nat) (g : DmaChunk → DmaChunk) (x : Field) : (s.setChunk ch i g).get x = s.get x := (rfl)
theorem State.setChunk_frame {T : List Field} {P : List Part} {s t : State} (h : Frame T P s t) (ch i : Nat) (g : DmaChunk → DmaChunk) (m : .channel ch ∈ P) :
    Frame T P s (t.setChunk ch i g) := State.setXfer_frame h ch _ m

@[simp] theorem State.setOdrv_reg (n : Nat) (g : OdrvState → OdrvState) (x : Nat) : (s.setOdrv n g).reg x = s.reg x := (rfl)
@[simp] theorem State.setOdrv_get (n : Nat) (g : OdrvState → OdrvState) (x : Field) : (s.setOdrv n g).get x = s.get x := (rfl)
theorem State.setOdrv_frame {T : List Field} {P : List Part} {s t : State} (h : Frame T P s t) (n : Nat) (g : OdrvState → OdrvState) (m : .output n ∈ P) :
    Frame T P s (t.setOdrv n g) := State.setOut_frame h n _ m

@[simp] theorem State.setPix_reg (n : Nat) (g : PixState → PixState) (x : Nat) : (s.setPix n g).reg x = s.reg x := (rfl)
@[simp] theorem State.setPix_get (n : Nat) (g : PixState → PixState) (x : Field) : (s.setPix n g).get x = s.get x := (rfl)
theorem State.setPix_frame {T : List Field} {P : List Part} {s t : State} (h : Frame T P s t) (n : Nat) (g : PixState → PixState) (m : .output n ∈ P) :
    Frame T P s (t.setPix n g) := State.setOut_frame h n _ m

@[simp] theorem State.setRegion_reg (n : Nat) (g : RegionState → RegionState) (x : Nat) : (s.setRegion n g).reg x = s.reg x := (rfl)
@[simp] theorem State.setRegion_get (n : Nat) (g : RegionState → RegionState) (x : Field) : (s.setRegion n g).get x = s.get x := (rfl)
theorem State.setRegion_frame {T : List Field} {P : List Part} {s t : State} (h : Frame T P s t) (n : Nat) (g : RegionState → RegionState) (m : .output n ∈ P) :
    Frame T P s (t.setRegion n g) := State.setOut_frame h n _ m

@[simp] theorem State.setMapUse_reg (n : Nat) (field : Bool) (g : MapUse → MapUse) (x : Nat) : (s.setMapUse n field g).reg x = s.reg x := (rfl)
@[simp] theorem State.setMapUse_get (n : Nat) (field : Bool) (g : MapUse → MapUse) (x : Field) : (s.setMapUse n field g).get x = s.get x := (rfl)
theorem State.setMapUse_frame {T : List Field} {P : List Part} {s t : State} (h : Frame T P s t) (n : Nat) (field : Bool) (g : MapUse → MapUse) (m : .output n ∈ P) :
    Frame T P s (t.setMapUse n field g) := State.setOut_frame h n _ m

@[simp] theorem State.setWear_reg (n : Nat) (g : WearState → WearState) (x : Nat) : (s.setWear n g).reg x = s.reg x := (rfl)
@[simp] theorem State.setWear_get (n : Nat) (g : WearState → WearState) (x : Field) : (s.setWear n g).get x = s.get x := (rfl)
theorem State.setWear_frame {T : List Field} {P : List Part} {s t : State} (h : Frame T P s t) (n : Nat) (g : WearState → WearState) (m : .output n ∈ P) :
    Frame T P s (t.setWear n g) := State.setOut_frame h n _ m

@[simp] theorem State.setSync_reg (n : Nat) (g : SyncState → SyncState) (x : Nat) : (s.setSync n g).reg x = s.reg x := (rfl)
@[simp] theorem State.setSync_get (n : Nat) (g : SyncState → SyncState) (x : Field) : (s.setSync n g).get x = s.get x := (rfl)
theorem State.setSync_frame {T : List Field} {P : List Part} {s t : State} (h : Frame T P s t) (n : Nat) (g : SyncState → SyncState) (m : .output n ∈ P) :
    Frame T P s (t.setSync n g) := State.setOut_frame h n _ m

@[simp] theorem State.setFn_reg (k : Nat) (g : FnConfig → FnConfig) (x : Nat) : (s.setFn k g).reg x = s.reg x := (rfl)
@[simp] theorem State.setFn_get (k : Nat) (g : FnConfig → FnConfig) (x : Field) : (s.setFn k g).get x = s.get x := (rfl)
theorem State.setFn_frame {T : List Field} {P : List Part} {s t : State} (h : Frame T P s t) (k : Nat) (g : FnConfig → FnConfig) (m : .host ∈ P) :
    Frame T P s (t.setFn k g) := State.setHost_frame h  _ m

@[simp] theorem State.setCal_reg (n : Nat) (g : LaneCal → LaneCal) (x : Nat) : (s.setCal n g).reg x = s.reg x := (rfl)
@[simp] theorem State.setCal_get (n : Nat) (g : LaneCal → LaneCal) (x : Field) : (s.setCal n g).get x = s.get x := (rfl)
theorem State.setCal_frame {T : List Field} {P : List Part} {s t : State} (h : Frame T P s t) (n : Nat) (g : LaneCal → LaneCal) (m : .lane n ∈ P) :
    Frame T P s (t.setCal n g) := State.setLane_frame h n _ m

end Sys2Proof.Machine
end

