-- ==== Sys2Proof/Laws/Ops.lean ====
section
/-! SUPPORT. What the operations over registers, fields and parts do, and what reads see through them. -/

set_option Elab.async false
set_option linter.all false

open Sys2Proof

namespace Sys2Proof.Machine

theorem Yields.intro {c : Instr} {s u : State} {e : List Nat} {T : List Field} {P : List Part} {post : State → Prop}
    (h : exec c s = .next (e.foldl State.raise u)) (hf : Frame T P s u) (hp : post u) : Yields c s e T P post := ⟨u, h, hf, hp⟩

theorem on_eq (s : State) (f : Field) : s.on f = (s.get f == 1) := rfl

theorem readBy_allowed {s : State} {w : Writer} {a : Nat} {k : State → Word × State} (h1 : s.answers w = true) (h2 : s.readAllowed w a = true) :
    s.readBy w a k = (k s).2.emit (.completion (k s).1) := by
  unfold State.readBy
  have h3 : s.winterDrops w a = false := by
    unfold State.readAllowed at h2
    cases h : s.winterDrops w a <;> simp_all
  simp [h1, h2, h3]

theorem count_frame (s : State) (f : Field) : Frame [f] [] s (s.count f 1) := (Frame.refl _ _ _).count (by simp)

theorem count_get (s : State) (f : Field) (n : Nat) (h : InWord f) : (s.count f n).get f = min (fieldMax f) (s.get f + n) := by
  unfold State.count; rw [State.get_put_same _ h]
  apply Nat.mod_eq_of_lt
  have : 0 < 2 ^ (f.hi + 1 - f.lo) := Nat.two_pow_pos _
  have : fieldMax f < 2 ^ (f.hi + 1 - f.lo) := by unfold fieldMax; omega
  omega

theorem count_get_other (s : State) {f g : Field} (n : Nat) (h : Apart f g) (hg : InWord g) : (s.count f n).get g = s.get g := 
  State.get_put_other _ h hg _

theorem updAt_some {α : Type} {l : List α} {i : Nat} {f : α → α} {x : α} (h : l[i]? = some x) : (updAt l i f)[i]? = some (f x) := by
  rw [updAt_same, h]; rfl

theorem outAt_of {s : State} {a : Nat} {key : Nat → Nat} {n : Fin 4} (h : s.keyOf a = some (key n)) (hk : keyOut (key n) = n) :
    s.outAt a key = some n.val := by
  unfold State.outAt; rw [h]; simp [hk]

theorem fieldOf_congr {f : Field} {w v : Word} (h : ∀ b, f.lo ≤ b → b ≤ f.hi → w.getLsbD b = v.getLsbD b) : fieldOf f w = fieldOf f v := by
  apply Nat.eq_of_testBit_eq
  intro i
  simp only [fieldOf, bits, Nat.testBit_mod_two_pow, Nat.testBit_shiftRight]
  by_cases hi : i < f.hi + 1 - f.lo
  · have := h (f.lo + i) (by omega) (by omega)
    simp only [BitVec.getLsbD] at this
    simp [hi, this]
  · simp [hi]

theorem plainWrite_row {s : State} {k : Nat} {r : RegRow} {d hw : Word} (h : rowOf k = some r) :
    s.plainWrite k d hw = if r.dash then (s.setReg k (writeWord r.masks (s.reg k) d hw)).setWritten k
      else s.setReg k (writeWord r.masks (s.reg k) d hw) := by
  unfold State.plainWrite; rw [h]

theorem plainWrite_frame {T : List Field} {P : List Part} {s t : State} {k : Nat} {d hw : Word} (h : Frame T P s t) (hT : whole k ∈ T)
    (hP : .written ∈ P) : Frame T P s (t.plainWrite k d hw) := by
  unfold State.plainWrite
  split
  · exact h
  · dsimp only; split
    · exact (h.setReg hT).setWritten hP
    · exact h.setReg hT

theorem plainWrite_reg {s : State} {k : Nat} {r : RegRow} {d hw : Word} (h : rowOf k = some r) :
    (s.plainWrite k d hw).reg k = writeWord r.masks (s.reg k) d hw := by
  rw [plainWrite_row h]
  split
  · exact State.reg_setReg_same _ _ _
  · exact State.reg_setReg_same _ _ _

theorem plainWrite_get_other {s : State} {k : Nat} {d hw : Word} {f : Field} (h : f.addr ≠ k) : (s.plainWrite k d hw).get f = s.get f := by
  apply State.get_of_reg
  unfold State.plainWrite
  split
  · rfl
  · dsimp only; split
    · exact State.reg_setReg_other _ _ h
    · exact State.reg_setReg_other _ _ h

theorem plainWrite_written {s : State} {k : Nat} {r : RegRow} {d hw : Word} (h : rowOf k = some r) :
    (s.plainWrite k d hw).written = if r.dash then keyInsert s.written k else s.written := by
  rw [plainWrite_row h]; split <;> simp [State.setWritten]

theorem plainWrite_get {s : State} {k : Nat} {r : RegRow} {d : Word} {f : Field} (h : rowOf k = some r) (hf : f.addr = k)
    (hw : f.hi < 32)
    (hm : ∀ b, f.lo ≤ b → b ≤ f.hi → (bit r.masks.rw b || bit r.masks.rwp b || bit r.masks.rwl b) = true ∧ bit r.masks.own b = false ∧
      bit r.masks.w1c b = false ∧ bit r.masks.w1s b = false) : (s.plainWrite k d 0).get f = fieldOf f d := by
  unfold State.get
  rw [hf, plainWrite_reg h]
  apply fieldOf_congr
  intro b h1 h2
  obtain ⟨m1, m2, m3, m4⟩ := hm b h1 h2
  simp only [bit] at m1 m2 m3 m4
  have hb : b < 32 := by omega
  simp only [writeWord, BitVec.getLsbD_or, BitVec.getLsbD_and, BitVec.getLsbD_not, BitVec.getLsbD_ofNat, hb, decide_true, Bool.true_and,
    Nat.testBit_or, m1, m2, m3, m4]
  simp

def plainField (f : Field) : Bool := match rowOf f.addr with
  | some r => r.dash && (List.range 32).all fun b => decide (b < f.lo) || decide (f.hi < b) ||
      ((bit r.masks.rw b || bit r.masks.rwp b || bit r.masks.rwl b) && !bit r.masks.own b && !bit r.masks.w1c b && !bit r.masks.w1s b)
  | none => false

theorem plainWrite_plain {s : State} {d : Word} {f : Field} (h : plainField f = true) (hh : f.hi < 32) :
    (s.plainWrite f.addr d 0).get f = fieldOf f d ∧ (s.plainWrite f.addr d 0).written = keyInsert s.written f.addr := by
  unfold plainField at h
  split at h
  · rename_i r hr
    simp only [Bool.and_eq_true, List.all_eq_true, List.mem_range, Bool.or_eq_true, decide_eq_true_eq, Bool.not_eq_true'] at h
    refine ⟨plainWrite_get hr rfl hh ?_, by rw [plainWrite_written hr, h.1]; rfl⟩
    intro b h1 h2
    rcases h.2 b (by omega) with (h3 | h3) | h3
    · omega
    · omega
    · simp only [Bool.or_eq_true]; tauto
  · cases h

theorem on_of (s : State) (f : Field) (h : s.get f = 1) : s.on f = true := by simp [on_eq, h]

theorem on_off (s : State) (f : Field) (h : s.get f = 0) : s.on f = false := by simp [on_eq, h]

theorem ite_lt {p : Prop} [Decidable p] {a b c : Nat} (h : a < c) (k : b < c) : (if p then a else b) < c := by split <;> assumption

theorem raiseF (s : State) (k : Nat) : Frame [pendingField k] [.purser, .host, .out] s (s.raise k) :=
  State.raise_frame (Frame.refl _ _ s) k (by simp) (by simp) (by simp) (by simp)

theorem raise_power (s : State) (k : Nat) : (s.raise k).power = s.power := (raiseF s k).rest .power (by simp)

theorem raise_sst (s : State) (k : Nat) : (s.raise k).sst = s.sst := (raiseF s k).rest .sst (by simp)

theorem raise_time (s : State) (k : Nat) : (s.raise k).time = s.time := (raiseF s k).rest .time (by simp)

theorem raise_relief (s : State) (k : Nat) : (s.raise k).relief = s.relief := (raiseF s k).rest .relief (by simp)

theorem raise_chain (s : State) (k : Nat) : (s.raise k).chain = s.chain := (raiseF s k).rest .chain (by simp)

theorem raise_active (s : State) (k : Nat) : (s.raise k).active = s.active := (raiseF s k).rest .active (by simp)

theorem raise_hold (s : State) (k : Nat) : (s.raise k).hold = s.hold := (raiseF s k).rest .hold (by simp)

theorem raise_lane (s : State) (k n : Nat) : (s.raise k).lane n = s.lane n := by
  have := (raiseF s k).rest (.lane n) (by simp)
  simp only [Part.same] at this
  unfold State.lane; rw [List.getD_eq_getElem?_getD, this, ← List.getD_eq_getElem?_getD]

theorem raise_outp (s : State) (k n : Nat) : (s.raise k).outp n = s.outp n := by
  have := (raiseF s k).rest (.output n) (by simp)
  simp only [Part.same] at this
  unfold State.outp; rw [List.getD_eq_getElem?_getD, this, ← List.getD_eq_getElem?_getD]

theorem raise_get (s : State) (k : Nat) {f : Field} (hf : InWord f) (h : Apart (pendingField k) f) : (s.raise k).get f = s.get f :=
  (raiseF s k).get hf (by intro g hg; simp at hg; subst hg; exact h)

theorem outp_of {s : State} {n : Nat} {o : OutState} (h : s.outs[n]? = some o) : s.outp n = o := by
  unfold State.outp; simp [List.getD, h]

theorem lane_of {s : State} {n : Nat} {o : LaneState} (h : s.lanes[n]? = some o) : s.lane n = o := by
  unfold State.lane; simp [List.getD, h]

theorem eddy_of {s : State} {n : Nat} {o : EddyState} (h : s.eddys[n]? = some o) : s.eddy n = o := by
  unfold State.eddy; simp [List.getD, h]

theorem chan_of {s : State} {n : Nat} {o : DmaState} (h : s.dma[n]? = some o) : s.chan n = o := by
  unfold State.chan; simp [List.getD, h]

theorem get_lt (s : State) (f : Field) : s.get f < 2 ^ (f.hi + 1 - f.lo) := by
  unfold State.get fieldOf bits; exact Nat.mod_lt _ (Nat.two_pow_pos _)

theorem sendLtr_frame {T : List Field} {P : List Part} {s t : State} (h : Frame T P s t) (k : Nat) (m : .out ∈ P) : Frame T P s (t.sendLtr k) := by
  unfold State.sendLtr; split
  · exact h.emit m
  · exact h

theorem toHost_frame {T : List Field} {P : List Part} {s t : State} (h : Frame T P s t) (x : Out) (m : .out ∈ P) (m2 : .host ∈ P) : Frame T P s (t.toHost x) := by
  unfold State.toHost
  refine Frame.emit (State.setHost_frame h (fun y => { y with inL1 := false }) m2) m

theorem sendLtr_get (s : State) (k : Nat) (f : Field) : (s.sendLtr k).get f = s.get f := by
  unfold State.sendLtr; split <;> rfl

theorem sendLtr_dma (s : State) (k : Nat) : (s.sendLtr k).dma = s.dma := by unfold State.sendLtr; split <;> rfl

theorem sendLtr_outs (s : State) (k : Nat) : (s.sendLtr k).outs = s.outs := by unfold State.sendLtr; split <;> rfl

theorem sendLtr_out_of {s t : State} (h1 : t.host = s.host) (h2 : t.out = s.out) (k : Nat) : (t.sendLtr k).out = (s.sendLtr k).out := by
  unfold State.sendLtr State.fnCfg; rw [h1]; split <;> simp [h2]

theorem writeJudged_accepts {s : State} {w : Writer} {a : Nat} {bad : State → Bool} {code latch : Nat} {k : State → State} (h : s.accepts w a = true)
    (hr : recoveryAddr a = false) : s.writeJudged w a bad code latch k = if bad s then s.violate (masterOf w) code latch true else k s := by
  unfold State.writeJudged
  rw [if_neg, State.writeBy_accepts h]
  intro hx
  unfold State.accepts at h
  simp only [Bool.and_eq_true, Bool.not_eq_true', Bool.or_eq_true] at h hx
  obtain ⟨⟨⟨h1, h2⟩, h3⟩, h4⟩ := h
  rcases h3 with h3 | h3
  · simp [h3] at hx
  · rw [hr] at h3; cases h3.2

theorem chainPart {T : List Field} {P : List Part} {s t : State} (h : Frame T P s t) (x : ChainState) (hm : .chain ∈ P) : Frame T P s { t with chain := x } := by
  refine Frame.fields h ?_
  intro p hp; cases p <;> first | (with_reducible rfl) | exact absurd hm hp | rfl

theorem count_eddys (s : State) (f : Field) (n : Nat) : (s.count f n).eddys = s.eddys := rfl

theorem wearOf_of {s : State} {n : Nat} {o : OutState} (h : s.outs[n]? = some o) : s.wearOf n = o.wear := by
  unfold State.wearOf State.outp; simp [List.getD, h]

theorem sideband_of {s : State} {n : Nat} {o : SbState} (h : s.sidebands[n]? = some o) : s.sideband n = o := by
  unfold State.sideband; simp [List.getD, h]

theorem port_of {s : State} {p : Nat} {x : PortState} (h : s.chain.ports[p]? = some x) : s.port p = x := by
  unfold State.port; simp [List.getD, h]

theorem setPort_get' {s : State} {p : Nat} {x : PortState} (h : s.chain.ports[p]? = some x) (g : PortState → PortState) : (s.setPort p g).chain.ports[p]? = some (g x) := by
  simp [State.setPort, h]

theorem foldl_filter {α β : Type} (q : β → Prop) [DecidablePred q] (f : α → β → α) (l : List β) (a : α) :
    l.foldl (fun t x => if q x then t else f t x) a = (l.filter fun x => !decide (q x)).foldl f a := by
  induction l generalizing a with
  | nil => rfl
  | cons x r ih =>
    rw [List.foldl_cons, ih]
    by_cases h : q x <;> simp [h]

theorem find_unique {p : Nat → Bool} {n k : Nat} (hk : k < n) (h : p k = true) (u : ∀ j, j < n → p j = true → j = k) :
    (List.range n).find? p = some k := by
  cases e : (List.range n).find? p with
  | none => exact absurd h (by have := List.find?_eq_none.1 e k (by simpa using hk); simpa using this)
  | some j =>
    have hj := List.find?_some e
    have hm := List.mem_of_find?_eq_some e
    rw [u j (by simpa using hm) hj]

theorem keyInsert_mem (l : List Nat) (a b : Nat) : b ∈ keyInsert l a ↔ b = a ∨ b ∈ l := by
  induction l with
  | nil => simp [keyInsert]
  | cons k t ih =>
    unfold keyInsert
    split
    · next h => subst h; simp
    · split
      · simp
      · simp only [List.mem_cons, ih]; tauto

theorem calPart {T : List Field} {P : List Part} {s t : State} (h : Frame T P s t) (x : CalState) (hm : .cal ∈ P) : Frame T P s { t with cal := x } :=
  h.fields (by intro p hp; cases p <;> first | (with_reducible rfl) | exact absurd hm hp | rfl)

theorem setCopy_frame' {T : List Field} {P : List Part} {s t : State} (h : Frame T P s t) (k ab : Nat) (c : CalCopy) (hm : .cal ∈ P) : Frame T P s (t.setCopy k ab c) :=
  State.setCopy_frame h _ _ _ hm

theorem fold_mem (l : List Nat) (acc : List Nat) (x : Nat) : x ∈ l.foldl keyInsert acc ↔ x ∈ acc ∨ x ∈ l := by
  induction l generalizing acc with
  | nil => simp
  | cons a l ih => rw [List.foldl_cons, ih, keyInsert_mem, List.mem_cons]; tauto

theorem hostPart {T : List Field} {P : List Part} {s t : State} (h : Frame T P s t) (x : HostState) (hm : .host ∈ P) : Frame T P s { t with host := x } :=
  h.fields (by intro p hp; cases p <;> first | (with_reducible rfl) | exact absurd hm hp | rfl)

theorem ofBits4 (f : Nat → Bool) : ofBits ((List.range 4).map f) < 16 ∧ ∀ n, n < 4 → bit (ofBits ((List.range 4).map f)) n = f n := by
  have : (List.range 4).map f = [f 0, f 1, f 2, f 3] := rfl
  rw [this]
  refine ⟨?_, ?_⟩
  · generalize f 0 = a; generalize f 1 = b; generalize f 2 = c; generalize f 3 = d
    revert a b c d; decide
  · intro n hn
    have : n = 0 ∨ n = 1 ∨ n = 2 ∨ n = 3 := by omega
    rcases this with rfl | rfl | rfl | rfl <;>
      (generalize f 0 = a; generalize f 1 = b; generalize f 2 = c; generalize f 3 = d; revert a b c d; decide)

theorem setXfer_dma {s : State} {ch : Nat} {c : DmaState} {x : DmaXfer} (hc : s.dma[ch]? = some c) (hx : c.xfer = some x) (g : DmaXfer → DmaXfer) :
    (s.setXfer ch g).dma[ch]? = some { c with xfer := some (g x) } := by
  unfold State.setXfer; simp [hc, hx]

theorem setXfer_frame' {T : List Field} {P : List Part} {s t : State} (h : Frame T P s t) (ch : Nat) (g : DmaXfer → DmaXfer) (m : .channel ch ∈ P) : Frame T P s (t.setXfer ch g) := by
  unfold State.setXfer; exact State.setChan_frame h _ _ m

theorem tbl_setTbl_same (s : State) (n ty t b i v : Nat) : (s.setTbl n ty t b i v).tbl n ty t b i = v := by
  unfold State.setTbl State.tbl; rw [sparseGet_set_same]

theorem tbl_setTbl_other (s : State) {n ty t b i n' ty' t' b' i' v : Nat} (h : tableKey n' ty' t' b' i' ≠ tableKey n ty t b i) :
    (s.setTbl n ty t b i v).tbl n' ty' t' b' i' = s.tbl n' ty' t' b' i' := by
  unfold State.setTbl State.tbl; rw [sparseGet_set_other _ _ _ _ h]

theorem tbl_nextIndex (s : State) (n ty a b c d e : Nat) : (s.nextIndex n ty).tbl a b c d e = s.tbl a b c d e := rfl

theorem nextIndex_get (s : State) (n ty : Nat) : (s.nextIndex n ty).get (tblIndexF n ty) = (s.get (tblIndexF n ty) + 1) % 2 ^ 18 := by
  unfold State.nextIndex; rw [State.get_put_same _ (by simp [InWord, tblIndexF])]; rfl

theorem keyOf_tgFrameIdLo (s : State) (n : Fin 4) : s.keyOf (R.tgFrameIdLo n) = some (R.tgFrameIdLo n) := by
  fin_cases n <;> rfl

theorem keyOf_timeNsLo (s : State) : s.keyOf (R.timeNsLo) = some (R.timeNsLo) := by rfl

theorem readReg_tgFrameIdLo (s : State) (n : Fin 4) : s.readReg (R.tgFrameIdLo n) = s.reg (R.tgFrameIdLo n) := by
  fin_cases n <;> rfl

theorem readReg_tgFrameIdHi (s : State) (n : Fin 4) : s.readReg (R.tgFrameIdHi n) = sparseGet 0 s.high (R.tgFrameIdHi n) := by
  fin_cases n <;> rfl

theorem pendingSrc_eq (s : State) (src : Nat) : s.pendingSrc src = (s.get (pendingField src) == 1) := by
  unfold State.pendingSrc State.get pendingField fieldOf bits bit
  dsimp only
  rw [show src % 32 + 1 - src % 32 = 1 by omega, Nat.shiftRight_eq_div_pow, Nat.testBit_eq_decide_div_mod_eq]
  simp [Nat.beq_eq, beq_eq_decide]

theorem psame (s : State) (src v : Nat) : (s.put (pendingField src) v).get (pendingField src) = v % 2 := by
  have := State.get_put_same s (f := pendingField src) (by unfold pendingField; constructor <;> dsimp only <;> omega) v
  rw [this]; unfold pendingField; dsimp only; rw [show src % 32 + 1 - src % 32 = 1 by omega, Nat.pow_one]

theorem showInternal_eq (s : State) (e : Nat) : ∃ v, v < 2 ∧ s.showInternal e = s.put (F.eddyStatusInternal e) v ∧
    v = (!(s.eddy e).internal.isEmpty && ((s.eddy e).waits.isSome || (s.eddySt e != 1 && s.eddySt e != 4))).toNat := ⟨_, Bool.toNat_lt _, rfl, rfl⟩

theorem showAdapting_eq (s : State) (p k : Nat) : s.showAdapting p k = s.put (F.chnrxStatusAdapting p k)
    (!s.on (F.chnrxStatusFrozen p k) && !s.on (F.chnrxStatusForced p k) && s.get (F.chnrxStatusLastCode p k) != 0x522).toNat := rfl

theorem sval8 (z : Int) (h1 : -128 ≤ z) (h2 : z ≤ 127) : sval 8 (ofSval 8 z % 256) = z := by
  unfold sval ofSval
  norm_num
  split <;> omega

/-- The register a command writes, and the writer: none for a command that is no register write (a misaligned write is discarded first,
R6, R358). -/
def Sys2Proof.Instr.writes : Instr → Option (Writer × Nat)
  | .registerWrite w a _ _ => if a.toNat % 4 = 0 then some (w, a.toNat) else none
  | .sstLoad w _ | .sstApply w _ _ _ | .sstDiscard w _ | .storeBoot w _ | .clearBoot w _ => some (w, R.sstCmd)
  | .cmdInvalid w op _ => if 6 ≤ op.val then some (w, R.sstCmd) else none
  | .slotReady w n k | .slotWithdraw w n k => some (w, R.scnSlotCtrl n k)
  | .landGo w n _ | .landCancel w n => some (w, R.tgLand n)
  | .tableDataWrite w a _ | .unifAddressWrite w a _ | .unifCheckBase w a | .unifCheckField w a | .baseLock w a |
    .odrvPanelTempWrite w a _ => some (w, a.toNat)
  | .tgEnable w n | .tgDisable w n => some (w, R.tgCtrl n)
  | .rgnPush w n _ | .rgnFlush w n => some (w, R.scnRgnCmd n)
  | .retrain w l | .txOff w l _ => some (w, R.plnCtrl l)
  | .calRequest w l | .calMeasure w l _ => some (w, R.plnCalCmd l)
  | .ffeForce w l _ _ _ _ => some (w, R.plnFfeForce l)
  | .chainRxForce w p k _ _ => some (w, R.chnrxForce p k)
  | .ferryStart w b _ => some (w, R.holdFerry b)
  | .marchRequest w _ _ _ | .marchAbandon w _ _ _ _ => some (w, R.holdMarchCtrl)
  | .repairRow w _ _ | .repairBank w _ _ => some (w, R.holdRepairCmd)
  | .dmaStart w ch _ | .dmaAbort w ch _ | .dmaResume w ch _ => some (w, R.dmaCtrl ch)
  | .eddyStart w e | .eddyResume w e | .eddyAbort w e | .ctxSave w e | .ctxRestore w e => some (w, R.eddyCmd e)
  | .boardStart w _ => some (w, R.chnBoard)
  | .ringRestore w => some (w, R.chnRing)
  | .raRead w | .raWrite w => some (w, R.chnRaCmd)
  | .sensorTx w _ _ => some (w, R.chnSensorTx)
  | .timeIncrWrite w _ => some (w, R.timeIncrHi)
  | .timeSlewWrite w _ => some (w, R.timeSlew)
  | .timeStepArm w _ => some (w, R.timeStepHi)
  | .ltcJam w k _ _ => some (w, R.timeLtcoCfg k)
  | .swlogPop w => some (w, R.timeSwlogPop)
  | .txqPop w => some (w, R.timeTxqPop)
  | .windowArm w k _ => some (w, R.timeWinCtrl k)
  | .mstThaw w _ _ => some (w, R.mstThaw)
  | .causeAck w m _ => some (w, R.mstFreezeCause m.toNat)
  | .doorbellRing w k => some (w, R.pursmDoorbell k)
  | .evtSoftRaise w => some (w, R.evtSoft)
  | .manifestRequest w _ => some (w, R.glbManifestReq)
  | .powerRequestRun w | .powerRequestSlack w | .powerRequestWinter w => some (w, R.glbPowerCtrl)
  | .powerRequestInvalid w req => if req = 3 then some (w, R.glbPowerCtrl) else none
  | .warmReset w => some (w, R.glbReset)
  | .stateRequest w _ => some (w, R.glbStateReq)
  | _ => none

/-- The register a read command reads, and the reader. -/
def Sys2Proof.Instr.reads : Instr → Option (Writer × Nat)
  | .lowWordRead w a | .rcRead w a _ | .tableDataRead w a => some (w, a.toNat)
  | .captureLoRead w k => some (w, R.timeCapLo k)
  | .captureMetaRead w k => some (w, R.timeCapMeta k)
  | _ => none

/-- What becomes of a register write that is not accepted, whatever it would do (R356, R358, R364, R365, R369, R394). -/
def Sys2Proof.Machine.State.turnsAway (s : State) (w : Writer) (a : Nat) (r : Host.Outcome State Fault Refusal) : Prop :=
  (s.answers w = false → r = .next s) ∧
  (s.answers w = true → s.winterDrops w a = true → r = .next s.winterDrop) ∧
  (s.answers w = true → s.winterDrops w a = false → s.writeViolates w a = true → r = .next (s.violate (masterOf w) 0x203 a true)) ∧
  (s.answers w = true → s.winterDrops w a = false → s.writeViolates w a = false → s.frozen (masterOf w) = true →
    (masterOf w = 0x40 → recoveryAddr a = false) → masterOf w ≠ 1 → r = .next s ∨ r = .next (s.put (F.mstFreezeCauseMore (masterOf w)) 1))

theorem writeBy_turns (s : State) (w : Writer) (a : Nat) (k : State → State) : s.turnsAway w a (.next (s.writeBy w a k)) := by
  refine ⟨?_, ?_, ?_, ?_⟩
  · intro h; unfold State.writeBy; rw [if_pos (by rw [h]; rfl)]
  · intro h h1; unfold State.writeBy; rw [if_neg (by rw [h]; decide), if_pos h1]
  · intro h h1 h2; unfold State.writeBy; rw [if_neg (by rw [h]; decide), if_neg (by rw [h1]; decide), if_pos h2]
    split
    · rfl
    · rfl
  · intro h h1 h2 h3 h4 _; unfold State.writeBy
    rw [if_neg (by rw [h]; decide), if_neg (by rw [h1]; decide), if_pos, if_neg (by rw [h2]; decide)]
    · exact .inl rfl
    · rw [h3]
      by_cases c : masterOf w = 0x40
      · rw [h4 c]; simp
      · simp [c]

theorem writeJudged_turns (s : State) (w : Writer) (a : Nat) (bad : State → Bool) (code latch : Nat) (k : State → State) :
    s.turnsAway w a (.next (s.writeJudged w a bad code latch k)) := by
  have e := writeBy_turns s w a (fun t => if bad t then t.violate (masterOf w) code latch true else k t)
  refine ⟨?_, ?_, ?_, ?_⟩
  · intro h; unfold State.writeJudged; rw [if_neg (by rw [h]; simp)]; exact e.1 h
  · intro h h1; unfold State.writeJudged; rw [if_neg (by rw [h1]; simp)]; exact e.2.1 h h1
  · intro h h1 h2; unfold State.writeJudged; rw [if_neg (by rw [h2]; simp)]; exact e.2.2.1 h h1 h2
  · intro h h1 h2 h3 h4 h5
    unfold State.writeJudged
    by_cases c : bad s = true
    · rw [if_pos (by rw [h, h1, h2, h3, c]; rfl)]
      have m : ¬(1 ≤ masterOf w ∧ masterOf w ≤ 3) := by
        intro x
        cases w with
        | purser => exact h5 rfl
        | fn f => have : masterOf (.fn f) = 0x40 + f.val := rfl
                  omega
      unfold State.violate; rw [if_neg m, if_pos h3]; exact .inr rfl
    · rw [if_neg (by rw [Bool.not_eq_true] at c; rw [c]; simp)]; exact e.2.2.2 h h1 h2 h3 h4 h5

theorem readBy_turns (s : State) (w : Writer) (a : Nat) (k : State → Word × State) :
    (s.answers w = false → s.readBy w a k = s) ∧
    (s.answers w = true → s.winterDrops w a = true → s.readBy w a k = s.winterDrop.emit (.completion allOnes)) ∧
    (s.answers w = true → s.winterDrops w a = false → s.frozen (masterOf w) = true ∨ s.inPartition w a false = false →
      s.readBy w a k = s.emit (.completion allOnes)) := by
  refine ⟨?_, ?_, ?_⟩
  · intro h; unfold State.readBy; rw [if_pos (by rw [h]; rfl)]
  · intro h h1; unfold State.readBy; rw [if_neg (by rw [h]; decide), if_pos h1]
  · intro h h1 h2; unfold State.readBy; rw [if_neg (by rw [h]; decide), if_neg (by rw [h1]; decide), if_pos]
    unfold State.readAllowed; rcases h2 with h2 | h2 <;> rw [h2] <;> simp

end Sys2Proof.Machine
end

