-- ==== Sys2Proof/Laws/Hold.lean ====
section
/-! SUPPORT. What the accesses, the stores, the collisions and the ferries of the Hold do. -/

set_option Elab.async false
set_option linter.all false

open Sys2Proof

namespace Sys2Proof.Machine

theorem wordOf_add {w i : Nat} (hw : wordOf w = w) (hi : i < 32) : wordOf (w + i) = w := by
  unfold wordOf at *; omega

theorem wordOf_idem (a : Nat) : wordOf (wordOf a) = wordOf a := by unfold wordOf; omega

theorem bankOf_word (a : Nat) : bankOf (wordOf a) = bankOf a := by unfold bankOf wordOf; omega

theorem bankOf_of_word {a b : Nat} (h : wordOf a = wordOf b) : bankOf a = bankOf b := by rw [← bankOf_word a, h, bankOf_word]

/-- the byte reads depend on the Hold alone -/
theorem holdByte_of {s t : State} (h : t.hold = s.hold) (a : Nat) : t.holdByte a = s.holdByte a := by
  unfold State.holdByte State.unknownAt; rw [h]

theorem unknownAt_word (s : State) {a b : Nat} (h : wordOf a = wordOf b) : s.unknownAt a = s.unknownAt b := by
  unfold State.unknownAt; rw [h, bankOf_of_word h]

@[simp] theorem setHoldByte_unknownAt (s : State) (a b : Nat) (v : Byte) : (s.setHoldByte a v).unknownAt b = s.unknownAt b := rfl

theorem setHoldByte_same {s : State} {a : Nat} {v : Byte} (h : s.unknownAt a = none) : (s.setHoldByte a v).holdByte a = v := by
  unfold State.holdByte; rw [setHoldByte_unknownAt, h]; simp [State.setHoldByte]

theorem setHoldByte_other (s : State) {a b : Nat} (v : Byte) (h : b ≠ a) : (s.setHoldByte a v).holdByte b = s.holdByte b := by
  unfold State.holdByte; rw [setHoldByte_unknownAt]
  split
  · rfl
  · simp [State.setHoldByte, sparseGet_set_other _ _ _ _ h]

@[simp] theorem setHoldBytes_unknownAt (s : State) (l : List Byte) (a b : Nat) : (s.setHoldBytes a l).unknownAt b = s.unknownAt b := by
  induction l generalizing s a with
  | nil => rfl
  | cons x t ih => simp [State.setHoldBytes, ih]

theorem setHoldBytes_byte (s : State) (l : List Byte) (a b : Nat) (hk : ∀ i, i < l.length → s.unknownAt (a + i) = none) :
    (s.setHoldBytes a l).holdByte b = if a ≤ b ∧ b < a + l.length then l.getD (b - a) 0 else s.holdByte b := by
  induction l generalizing s a with
  | nil => simp [State.setHoldBytes]
  | cons x t ih =>
    rw [State.setHoldBytes, ih]
    · by_cases h : b = a
      · subst h
        rw [if_neg (by omega), setHoldByte_same (by simpa using hk 0 (by simp)), if_pos (by simp)]; simp
      · rw [setHoldByte_other _ _ h]
        simp only [List.length_cons]
        by_cases h2 : a + 1 ≤ b ∧ b < a + 1 + t.length
        · rw [if_pos h2, if_pos (by omega)]
          obtain ⟨d, rfl⟩ : ∃ d, b = a + 1 + d := ⟨b - (a + 1), by omega⟩
          rw [show a + 1 + d - (a + 1) = d by omega, show a + 1 + d - a = d + 1 by omega]; simp
        · rw [if_neg h2, if_neg (by omega)]
    · intro i hi
      rw [setHoldByte_unknownAt]
      have := hk (i + 1) (by simp; omega)
      rwa [show a + 1 + i = a + (i + 1) by omega]

theorem holdBytes_get (s : State) (a n i : Nat) (h : i < n) : (s.holdBytes a n).getD i 0 = s.holdByte (a + i) := by
  induction n generalizing a i with
  | zero => omega
  | succ n ih =>
    cases i with
    | zero => simp [State.holdBytes]
    | succ i => simp only [State.holdBytes, List.getD_cons_succ]; rw [ih _ _ (by omega)]; congr 1; omega

@[simp] theorem holdBytes_length (s : State) (a n : Nat) : (s.holdBytes a n).length = n := by
  induction n generalizing a with
  | zero => rfl
  | succ n ih => simp [State.holdBytes, ih]

/-- knowing a word changes no byte, and its bytes are known after -/
theorem knowWord_byte (s : State) {w : Nat} (hw : wordOf w = w) (b : Nat) : (s.knowWord w).holdByte b = s.holdByte b := by
  unfold State.knowWord
  split
  · dsimp only
    rw [setHoldBytes_byte]
    · simp only [holdBytes_length]
      split
      · next h =>
        rw [holdBytes_get _ _ _ _ (by omega)]; congr 1; omega
      · next h =>
        have : wordOf b ≠ w := by unfold wordOf at *; omega
        have e : ({ s with hold := { s.hold with knownWords := keyInsert s.hold.knownWords w } } : State).unknownAt b = s.unknownAt b := by
          unfold State.unknownAt
          simp only [List.contains_eq_mem, keyInsert_mem]
          simp [this]
        unfold State.holdByte
        rw [e]
    · intro i hi
      simp only [holdBytes_length] at hi
      unfold State.unknownAt
      rw [if_pos]
      simp [List.contains_eq_mem, keyInsert_mem, wordOf_add hw hi]
  · rfl

theorem knowWord_known (s : State) {w b : Nat} (hw : wordOf w = w) (hb : wordOf b = w) : (s.knowWord w).unknownAt b = none := by
  unfold State.knowWord
  split
  · dsimp only
    rw [setHoldBytes_unknownAt]
    unfold State.unknownAt
    rw [if_pos]
    simp [List.contains_eq_mem, keyInsert_mem, hb]
  · next h => rw [unknownAt_word s (show wordOf b = wordOf w by rw [hb, hw])]; simpa using h

theorem setHoldBytes_frame {T : List Field} {P : List Part} {s t : State} (h : Frame T P s t) (hm : .hold ∈ P) (a : Nat) (l : List Byte) :
    Frame T P s (t.setHoldBytes a l) := by
  induction l generalizing t a with
  | nil => exact h
  | cons x r ih => exact ih (State.setHoldByte_frame h _ _ hm) _

theorem holdPart {T : List Field} {P : List Part} {s t : State} (h : Frame T P s t) (x : HoldState) (hm : .hold ∈ P) :
    Frame T P s { t with hold := x } := by
  refine Frame.fields h ?_
  intro p hp; cases p <;> first | (with_reducible rfl) | exact absurd hm hp | rfl

theorem knowWord_frame {T : List Field} {P : List Part} {s t : State} (h : Frame T P s t) (hm : .hold ∈ P) (w : Nat) :
    Frame T P s (t.knowWord w) := by
  unfold State.knowWord; split
  · exact setHoldBytes_frame (holdPart h _ hm) hm _ _
  · exact h

theorem raiseIf_hold (s : State) (c : Bool) (k : Nat) : (s.raiseIf c k).hold = s.hold := by
  rw [State.raiseIf_eq]; cases c
  · rfl
  · exact raise_hold _ _

theorem foldl_inv {α β : Type} (I : α → Prop) (f : α → β → α) (l : List β) (a : α) (h : I a) (st : ∀ a b, b ∈ l → I a → I (f a b)) :
    I (l.foldl f a) := by
  induction l generalizing a with
  | nil => exact h
  | cons x r ih => exact ih _ (st _ _ (by simp) h) fun a b hb => st a b (by simp [hb])

theorem chaseWrite_hold (s : State) (w : Nat) (hit : Nat → Bool) : (s.chaseWrite w hit).hold = s.hold := by
  unfold State.chaseWrite
  refine foldl_inv (fun (t : State) => t.hold = s.hold) _ _ _ rfl ?_
  intro t n _ ht
  split
  · refine foldl_inv (fun (t : State) => t.hold = s.hold) _ _ _ ht ?_
    intro u p _ hu
    split
    · split
      · unfold State.completeRow; rw [raiseIf_hold]; exact hu
      · exact hu
    · exact hu
  · exact ht

theorem raiseIf_frame {T : List Field} {P : List Part} {s t : State} (h : Frame T P s t) (c : Bool) (k : Nat) (m : pendingField k ∈ T) (m0 : .purser ∈ P)
    (m1 : .host ∈ P) (m2 : .out ∈ P) : Frame T P s (t.raiseIf c k) := by
  rw [State.raiseIf_eq]; cases c
  · exact h
  · exact State.raise_frame h k m m0 m1 m2

theorem chaseWrite_frame {T : List Field} {P : List Part} {s t : State} (h : Frame T P s t) (w : Nat) (hit : Nat → Bool)
    (hT : ∀ f ∈ chaseFields, f ∈ T) (hP : ∀ p ∈ chaseParts, p ∈ P) : Frame T P s (t.chaseWrite w hit) := by
  unfold State.chaseWrite
  refine foldl_inv (fun t => Frame T P s t) _ _ _ h ?_
  intro t n hn ht
  have hn : n < 4 := by simpa using hn
  have hp : Part.output n ∈ P := by
    apply hP; unfold chaseParts
    have : n = 0 ∨ n = 1 ∨ n = 2 ∨ n = 3 := by omega
    rcases this with rfl | rfl | rfl | rfl <;> simp
  have hf : pendingField (evOut n 20) ∈ T := hT _ (by unfold chaseFields; simp; exact ⟨n, hn, rfl⟩)
  split
  · refine foldl_inv (fun t => Frame T P s t) _ _ _ ht ?_
    intro u p _ hu
    split
    · split
      case isFalse => exact hu
      unfold State.completeRow
      exact raiseIf_frame (State.setOut_frame hu _ _ hp) _ _ hf (hP _ (by simp [chaseParts])) (hP _ (by simp [chaseParts])) (hP _ (by simp [chaseParts]))
    · exact hu
  · exact ht

theorem lanes_byte (s : State) (w : Nat) (v : Nat → Byte) (g : Nat × Nat → Byte) (l : List (Nat × Nat)) (b : Nat)
    (hk : ∀ p ∈ l, s.unknownAt (w + p.2) = none) (hg : ∀ p ∈ l, g p = v p.2) :
    (l.foldl (fun t p => t.setHoldByte (w + p.2) (g p)) s).holdByte b = if (∃ p ∈ l, w + p.2 = b) then v (b - w) else s.holdByte b := by
  induction l generalizing s with
  | nil => simp
  | cons x r ih =>
    rw [List.foldl_cons, ih]
    · by_cases h : ∃ p ∈ r, w + p.2 = b
      · rw [if_pos h, if_pos]
        obtain ⟨p, h1, h2⟩ := h; exact ⟨p, by simp [h1], h2⟩
      · rw [if_neg h]
        by_cases h2 : w + x.2 = b
        · rw [if_pos ⟨x, by simp, h2⟩]; subst h2
          rw [setHoldByte_same (hk x (by simp)), hg x (by simp)]; simp
        · rw [if_neg, setHoldByte_other _ _ (Ne.symm h2)]
          rintro ⟨p, hp, e⟩
          rcases List.mem_cons.1 hp with rfl | hp
          · exact h2 e
          · exact h ⟨p, hp, e⟩
    · intro p hp; rw [setHoldByte_unknownAt]; exact hk p (by simp [hp])
    · intro p hp; exact hg p (by simp [hp])

theorem lanes_frame {T : List Field} {P : List Part} {s t : State} (h : Frame T P s t) (hm : .hold ∈ P) (w : Nat) (g : Nat × Nat → Byte) (l : List (Nat × Nat)) :
    Frame T P s (l.foldl (fun t p => t.setHoldByte (w + p.2) (g p)) t) :=
  foldl_inv (fun t => Frame T P s t) _ _ _ h fun _ _ _ h => State.setHoldByte_frame h _ _ hm

theorem performWrite_stored (s : State) (a : HoldAccess) : s.storedBy (s.performWrite a) a := by
  intro b
  unfold State.performWrite
  dsimp only
  rw [holdByte_of (chaseWrite_hold _ _ _)]
  have hw := wordOf_idem a.addr.toNat
  set w := wordOf a.addr.toNat
  have key : ∀ x : State, (if a.enable = 0xFFFFFFFF then x.setUncorr w false else x).holdByte b = x.holdByte b := by
    intro x; split
    · rfl
    · rfl
  rw [key, lanes_byte _ w (fun i => a.data.extractLsb' (8 * ((i + 32 - a.rotate.val) % 32)) 8)]
  · rw [knowWord_byte s hw]
    congr 1
    apply propext
    constructor
    · rintro ⟨p, hp, rfl⟩
      unfold laneList at hp
      simp only [List.mem_filter, List.mem_map, List.mem_range] at hp
      obtain ⟨⟨i, hi, rfl⟩, he⟩ := hp
      refine ⟨wordOf_add hw (by omega), ?_⟩
      simpa using he
    · rintro ⟨h1, h2⟩
      have hb : w ≤ b ∧ b < w + 32 := by unfold wordOf at *; omega
      refine ⟨((b - w + 32 - a.rotate.val) % 32, b - w), ?_, by simp; omega⟩
      unfold laneList
      simp only [List.mem_filter, List.mem_map, List.mem_range]
      refine ⟨⟨(b - w + 32 - a.rotate.val) % 32, by omega, ?_⟩, by simpa using h2⟩
      have := a.rotate.isLt
      simp only [Prod.mk.injEq, true_and]; omega
  · intro p hp
    unfold laneList at hp
    simp only [List.mem_filter, List.mem_map, List.mem_range] at hp
    obtain ⟨⟨i, hi, rfl⟩, he⟩ := hp
    exact knowWord_known s hw (wordOf_add hw (by omega))
  · intro p hp
    unfold laneList at hp
    simp only [List.mem_filter, List.mem_map, List.mem_range] at hp
    obtain ⟨⟨i, hi, rfl⟩, he⟩ := hp
    have := a.rotate.isLt
    simp only
    congr 2; omega

theorem performWrite_frame {T : List Field} {P : List Part} {s t : State} (h : Frame T P s t) (hm : .hold ∈ P) (hT : ∀ f ∈ chaseFields, f ∈ T)
    (hP : ∀ p ∈ chaseParts, p ∈ P) (a : HoldAccess) : Frame T P s (t.performWrite a) := by
  unfold State.performWrite
  refine chaseWrite_frame ?_ _ _ hT hP
  have := lanes_frame (knowWord_frame h hm (wordOf a.addr.toNat)) hm (wordOf a.addr.toNat) (fun p => a.data.extractLsb' (8 * p.1) 8) (laneList a)
  split
  · exact holdPart this _ hm
  · exact this

theorem knowWord_window (s : State) (w : Nat) : (s.knowWord w).hold.window = s.hold.window := by
  have h : ∀ (l : List Byte) (t : State) (x : Nat), (t.setHoldBytes x l).hold.window = t.hold.window := by
    intro l
    induction l with
    | nil => intro t x; rfl
    | cons y r ih => intro t x; rw [State.setHoldBytes, ih]; rfl
  unfold State.knowWord; split
  · dsimp only; rw [h]
  · rfl

theorem performWrite_window (s : State) (a : HoldAccess) : (s.performWrite a).hold.window = s.hold.window := by
  unfold State.performWrite
  dsimp only
  rw [chaseWrite_hold]
  have : ∀ x : State, (if a.enable = 0xFFFFFFFF then x.setUncorr (wordOf a.addr.toNat) false else x).hold.window = x.hold.window := by
    intro x; split
    · rfl
    · rfl
  rw [this]
  refine foldl_inv (fun (t : State) => t.hold.window = s.hold.window) _ _ _ (knowWord_window _ _) ?_
  intro t p _ h; exact h

theorem completerAbort_hold (s : State) (f : Nat) (c : Bool) : (s.completerAbort f c).hold = s.hold := by
  unfold State.completerAbort; split
  · unfold State.logAer; rw [raiseIf_hold, raiseIf_hold]
  · rfl

theorem barAnswer_hold (s : State) (f w c : Nat) (d : List Byte) : (s.barAnswer f w c d).hold = s.hold := by
  have e : ∀ (l : List (Nat × Nat)) (g : Nat × Nat → Out) (t : State), (l.foldl (fun t p => t.emit (g p)) t).hold = t.hold :=
    fun l g t => foldl_inv (fun u : State => u.hold = t.hold) _ _ _ rfl fun u b _ h => h
  have c (t : State) (r : BarRead) : (t.completeRead r).hold = t.hold := by
    unfold State.completeRead; dsimp only; split
    · rw [completerAbort_hold]; exact e _ _ _
    · exact e _ _ _
  unfold State.barAnswer; split
  · exact completerAbort_hold _ _ _
  · dsimp only; split
    · rfl
    · exact c _ _

theorem respond_hold (s : State) (a : HoldAccess) (c : Nat) (b : Bool) (d : List Byte) : (s.respond a c b d).hold = s.hold := by
  unfold State.respond; dsimp only; split
  · split
    · rfl
    · exact barAnswer_hold _ _ _ _ _
  · rfl

theorem abortRoute_hold (s : State) (r : Nat) : (s.abortRoute r).hold = s.hold := by
  have c : ∀ (t : State) (n : Nat), (t.abortCal n).hold = t.hold := by
    intro t n; unfold State.abortCal; split
    · rfl
    · unfold State.endCal; split
      · rfl
      · dsimp only; split
        · split <;> rfl
        · rfl
  unfold State.abortRoute
  refine foldl_inv (fun u : State => u.hold = s.hold) _ _ _ rfl ?_
  intro u o _ h
  split
  · exact foldl_inv (fun x : State => x.hold = s.hold) _ _ _ h fun x n _ k => (c x n).trans k
  · exact h

theorem noteStall_hold (s : State) (n : Nat) : (s.noteStall n).hold = s.hold := by unfold State.noteStall; rfl

theorem setFrozen_hold (s : State) (m : Nat) (b : Bool) : (s.setFrozen m b).hold = s.hold := by
  unfold State.setFrozen
  have e : ((s.put (F.mstFreezeCauseFrozen m) b.toNat).setBit (R.mstFrozen (m / 32)) (m % 32) b).hold = s.hold := by
    unfold State.setBit; rw [State.put_hold, State.put_hold]
  generalize (s.put (F.mstFreezeCauseFrozen m) b.toNat).setBit (R.mstFrozen (m / 32)) (m % 32) b = t at e ⊢
  dsimp only
  repeat' split
  · exact e
  · exact e
  · exact e
  · exact foldl_inv (fun u : State => u.hold = s.hold) _ _ _ ((abortRoute_hold _ _).trans e) fun u n _ k => (noteStall_hold u n).trans k
  · exact (noteStall_hold _ _).trans e
  · exact e

theorem violate_hold (s : State) (m c a : Nat) (w : Bool) (x : Nat) : (s.violate m c a w x).hold = s.hold := by
  have l : ∀ m c a w x, (s.latchCause m c a w x).hold = s.hold := by intros; rfl
  unfold State.violate
  split
  · split
    · rfl
    · rw [raise_hold, l]
  · split
    · rfl
    · rw [raise_hold, setFrozen_hold, l]

/-- an ordinary access takes no march window -/
theorem purserMeets_plain {s : State} {p : Peer} (h : s.plainAt p.acc) : s.purserMeets p = s := by
  unfold State.purserMeets
  split
  · rfl
  · next hm =>
    split
    · rfl
    · next w hw =>
      have n := h (by simpa using hm) w hw
      rw [if_neg (by rintro rfl; apply n; unfold marchWindowOf bankOf; omega), if_neg n]

/-- an access that meets no other access and no march window: judged at its gate, and served when that lets it pass -/
theorem present_alone {s : State} {p : Peer} (h : s.plainAt p.acc) : s.presentAll [p] =
    match (s.passGate p).2 with
    | [] => (s.passGate p).1
    | _ => (s.passGate p).1.servePeer p := by
  have k : (s.passGate p).2 = [] ∨ (s.passGate p).2 = [p] := by
    unfold State.passGate; dsimp only; repeat' split
    all_goals simp
  unfold State.presentAll
  simp only [List.foldl_cons, List.foldl_nil, purserMeets_plain h, List.nil_append]
  rcases k with k | k
  · rw [k]; rfl
  · rw [k]
    simp only [List.length_singleton, State.contend, State.portWinner, List.filter_cons, List.filter_nil]
    cases portA p.acc.master.toNat <;> simp

theorem exec_holdAccess {s : State} {a : HoldAccess} {arb : Arbitration} (h1 : s.inWinter = false) (h2 : s.power.off = false) (h3 : s.power.fabricOff = false) :
    exec (.holdAccess a arb) s = .next (s.presentAccess a arb) := by
  simp only [exec, execHoldAccess, h1, h2, h3]
  rw [if_neg (by simp)]

theorem eccRead_clean {s : State} {a : HoldAccess} (h : wordOf a.addr.toNat ∉ s.hold.uncorr) : s.eccRead a 0 = (s, 0) := by
  unfold State.eccRead
  dsimp only
  have n1 : ¬ (0 = 2 ∧ (!s.hold.uncorr.contains (wordOf a.addr.toNat)) = true) := by simp
  have n2 : ¬ s.hold.uncorr.contains (wordOf a.addr.toNat) = true := by simp [h]
  rw [if_neg n1, if_neg n2, if_neg (by simp)]

theorem eccRead_bad {s : State} {a : HoldAccess} (e : Nat) (h : wordOf a.addr.toNat ∈ s.hold.uncorr) :
    s.eccRead a e = (s.noteUncorr (wordOf a.addr.toNat), 0x401) := by
  unfold State.eccRead
  dsimp only
  have : ¬ (e = 2 ∧ (!s.hold.uncorr.contains (wordOf a.addr.toNat)) = true) := by simp [h]
  rw [if_neg this, if_pos (by simpa using h)]

/-- What the log of an error of a function may change: the two AER events. -/
def aerFields : List Field := [pendingField 36, pendingField 37]

theorem completerAbort_frame {T : List Field} {P : List Part} {s t : State} (h : Frame T P s t) (hT : ∀ f ∈ aerFields, f ∈ T) (hm : .out ∈ P)
    (hh : .host ∈ P) (hp : .purser ∈ P) (f : Nat) (c : Bool) : Frame T P s (t.completerAbort f c) := by
  unfold State.completerAbort; split
  · exact raiseIf_frame (raiseIf_frame (hostPart h _ hh) _ _ (hT _ (by simp [aerFields])) hp hh hm) _ _ (hT _ (by simp [aerFields])) hp hh hm
  · exact h

theorem barAnswer_frame {T : List Field} {P : List Part} {s t : State} (h : Frame T P s t) (hT : ∀ f ∈ aerFields, f ∈ T) (hm : .out ∈ P)
    (hh : .host ∈ P) (hp : .purser ∈ P) (f w c : Nat) (d : List Byte) : Frame T P s (t.barAnswer f w c d) := by
  have e : ∀ (l : List (Nat × Nat)) (g : Nat × Nat → Out) (t : State), Frame T P s t → Frame T P s (l.foldl (fun t p => t.emit (g p)) t) :=
    fun l g t k => foldl_inv (fun u : State => Frame T P s u) _ _ _ k fun u b _ h => h.emit hm
  have c (t : State) (r : BarRead) (k : Frame T P s t) : Frame T P s (t.completeRead r) := by
    unfold State.completeRead; dsimp only; split
    · exact completerAbort_frame ((e _ _ _ k).emit hm) hT hm hh hp _ _
    · exact e _ _ _ k
  unfold State.barAnswer; split
  · exact completerAbort_frame (h.emit hm) hT hm hh hp _ _
  · dsimp only; split
    · exact hostPart h _ hh
    · exact c _ _ (hostPart h _ hh)

theorem respond_frame {T : List Field} {P : List Part} {s t : State} (h : Frame T P s t) (hT : ∀ f ∈ aerFields, f ∈ T) (hm : .out ∈ P)
    (hh : .host ∈ P) (hp : .purser ∈ P) (a : HoldAccess) (c : Nat) (b : Bool) (d : List Byte) : Frame T P s (t.respond a c b d) := by
  unfold State.respond; dsimp only; split
  · split
    · exact h
    · exact barAnswer_frame h hT hm hh hp _ _ _ _
  · exact h.emit hm

theorem messageDue_mem (t : State) (k : Nat) {x : Out} (h : x ∈ t.out) : x ∈ (t.messageDue k).out := by
  unfold State.messageDue; dsimp only
  split
  · exact h
  · split
    · exact h
    · split
      · simp [State.emit, State.setPba, State.setBit, h]
      · simp [State.emit, State.setPba, h]

theorem raiseWith_mem (t : State) (k : Nat) (c : Bool) {x : Out} (h : x ∈ t.out) : x ∈ (t.raiseWith k c).out := by
  unfold State.raiseWith; dsimp only
  repeat' split
  all_goals first | exact h | exact messageDue_mem _ _ h

theorem raiseIf_mem (t : State) (c : Bool) (k : Nat) {x : Out} (h : x ∈ t.out) : x ∈ (t.raiseIf c k).out := by
  unfold State.raiseIf
  split
  · exact raiseWith_mem t k false h
  · exact h

theorem completerAbort_mem (t : State) (f : Nat) (c : Bool) {x : Out} (h : x ∈ t.out) : x ∈ (t.completerAbort f c).out := by
  unfold State.completerAbort; split
  · exact raiseIf_mem _ _ _ (raiseIf_mem _ _ _ h)
  · exact h

theorem barAnswer_mem (t : State) (f w c : Nat) (d : List Byte) {x : Out} (h : x ∈ t.out) : x ∈ (t.barAnswer f w c d).out := by
  have e : ∀ (l : List (Nat × Nat)) (g : Nat × Nat → Out) (t : State), x ∈ t.out → x ∈ (l.foldl (fun t p => t.emit (g p)) t).out :=
    fun l g t k => foldl_inv (fun u : State => x ∈ u.out) _ _ _ k fun u b _ h => by simp [State.emit, h]
  have c (t : State) (r : BarRead) (k : x ∈ t.out) : x ∈ (t.completeRead r).out := by
    unfold State.completeRead; dsimp only; split
    · exact completerAbort_mem _ _ _ (List.mem_cons_of_mem _ (e _ _ _ k))
    · exact e _ _ _ k
  unfold State.barAnswer; split
  · exact completerAbort_mem _ _ _ (List.mem_cons_of_mem _ h)
  · dsimp only; split
    · exact h
    · exact c _ _ h

theorem respond_mem (t : State) (a : HoldAccess) (c : Nat) (b : Bool) (d : List Byte) {x : Out} (h : x ∈ t.out) : x ∈ (t.respond a c b d).out := by
  unfold State.respond; dsimp only; split
  · split
    · exact h
    · exact barAnswer_mem _ _ _ _ _ h
  · simp [State.emit, h]

theorem respond_self (t : State) (a : HoldAccess) (c : Nat) (b : Bool) (d : List Byte) (h : ¬ hostAccess a) : .holdResponse a.master.toNat c b d ∈ (t.respond a c b d).out := by
  unfold State.respond; dsimp only
  rw [if_neg (show ¬ (64 ≤ a.master.toNat ∧ a.master.toNat < 96) from h)]
  simp [State.emit]

theorem mixBytes_get (n : Nat) (l k : List Byte) (h : l.length = k.length) :
    (mixBytes n l k).length = l.length ∧ ∀ i, i < l.length → (mixBytes n l k).getD i 0 = l.getD i 0 ∨ (mixBytes n l k).getD i 0 = k.getD i 0 := by
  induction l generalizing n k with
  | nil => cases k <;> simp [mixBytes]
  | cons x r ih =>
    cases k with
    | nil => simp at h
    | cons y q =>
      obtain ⟨h1, h2⟩ := ih (n + 1) q (by simpa using h)
      refine ⟨by simp [mixBytes, h1], ?_⟩
      intro i hi
      cases i with
      | zero => simp only [mixBytes, List.getD_cons_zero]; split <;> simp
      | succ i => simp only [mixBytes, List.getD_cons_succ]; exact h2 i (by simpa using hi)

theorem storedBy_congr {s t u v : State} {a : HoldAccess} (h1 : ∀ b, t.holdByte b = s.holdByte b) (h2 : ∀ b, v.holdByte b = u.holdByte b)
    (h : s.storedBy u a) : t.storedBy v a := by
  intro b; rw [h2, h1]; exact h b

theorem conflict_right {s : State} (k n m b : Nat) (w : Bool) (hb : b < 256) (hm : m < 256) :
    (s.conflict k n).mayHold m b w = s.mayHold m b w ∧ (s.conflict k n).frozen m = s.frozen m := by
  have ho : (s.conflict k n).owner b = s.owner b := count_get_other _ _ (by ((first | unfold Apart | unfold InWord | skip); (try dsimp only [F.holdConflictCount, F.holdOwnerOwner, R.holdConflict, R.holdOwner, F.holdOwnerLocked, F.mstFreezeCauseFrozen, R.mstFreezeCause]); (try dsimp only [evOut]); (first | decide | omega | (simp only [ne_eq]; omega) | (simp; omega)))) (by ((first | unfold Apart | unfold InWord | skip); (try dsimp only [F.holdConflictCount, F.holdOwnerOwner, R.holdConflict, R.holdOwner, F.holdOwnerLocked, F.mstFreezeCauseFrozen, R.mstFreezeCause]); (try dsimp only [evOut]); (first | decide | omega | (simp only [ne_eq]; omega) | (simp; omega))))
  have hl : (s.conflict k n).on (F.holdOwnerLocked b) = s.on (F.holdOwnerLocked b) := by
    unfold State.on; rw [show (s.conflict k n).get _ = _ from count_get_other _ _ (by ((first | unfold Apart | unfold InWord | skip); (try dsimp only [F.holdConflictCount, F.holdOwnerOwner, R.holdConflict, R.holdOwner, F.holdOwnerLocked, F.mstFreezeCauseFrozen, R.mstFreezeCause]); (try dsimp only [evOut]); (first | decide | omega | (simp only [ne_eq]; omega) | (simp; omega)))) (by ((first | unfold Apart | unfold InWord | skip); (try dsimp only [F.holdConflictCount, F.holdOwnerOwner, R.holdConflict, R.holdOwner, F.holdOwnerLocked, F.mstFreezeCauseFrozen, R.mstFreezeCause]); (try dsimp only [evOut]); (first | decide | omega | (simp only [ne_eq]; omega) | (simp; omega))))]
  refine ⟨?_, ?_⟩
  · unfold State.mayHold; rw [ho, hl]; rfl
  · unfold State.frozen State.on
    rw [show (s.conflict k n).get _ = _ from count_get_other _ _ (by ((first | unfold Apart | unfold InWord | skip); (try dsimp only [F.holdConflictCount, F.holdOwnerOwner, R.holdConflict, R.holdOwner, F.holdOwnerLocked, F.mstFreezeCauseFrozen, R.mstFreezeCause]); (try dsimp only [evOut]); (first | decide | omega | (simp only [ne_eq]; omega) | (simp; omega)))) (by ((first | unfold Apart | unfold InWord | skip); (try dsimp only [F.holdConflictCount, F.holdOwnerOwner, R.holdConflict, R.holdOwner, F.holdOwnerLocked, F.mstFreezeCauseFrozen, R.mstFreezeCause]); (try dsimp only [evOut]); (first | decide | omega | (simp only [ne_eq]; omega) | (simp; omega))))]

/-- a collision recorded, before its event -/
def State.collisionNoted (v : State) (w e l : Nat) : State :=
  let x := ((((v.count F.holdCollisionsCount 1).put F.holdCollAddrAddr (w / 32)).put F.holdCollMastersEarlier e).put F.holdCollMastersLater l).conflict l 1
  { x with hold := { x.hold with busyPin := true } }

theorem noteCollision_eq (v : State) (w e l : Nat) : v.noteCollision w e l = (v.collisionNoted w e l).raise 194 := by
  unfold State.noteCollision State.collisionNoted
  with_reducible rfl

theorem noted_frame {T : List Field} {P : List Part} {s v : State} (h : Frame T P s v) (w e l : Nat)
   (m : ∀ f ∈ [F.holdConflictCount l, F.holdCollisionsCount, F.holdCollAddrAddr, F.holdCollMastersEarlier, F.holdCollMastersLater], f ∈ T) (mp : .hold ∈ P) :
   Frame T P s (v.collisionNoted w e l) := by
  unfold State.collisionNoted State.conflict
  apply holdPart _ _ mp
  refine Frame.count (Frame.put (Frame.put (Frame.put (Frame.count h ?_) ?_) ?_) ?_) ?_
  all_goals exact m _ (by simp)

theorem noted_hold (v : State) (w e l : Nat) : (v.collisionNoted w e l).hold = { v.hold with busyPin := true } := rfl

theorem noted_out (v : State) (w e l : Nat) : (v.collisionNoted w e l).out = v.out := rfl

theorem noted_byte (v : State) (w e l b : Nat) : (v.collisionNoted w e l).holdByte b = v.holdByte b := rfl

theorem noted_vals (v : State) (w e l : Nat) (hw : w / 32 < 2 ^ 25) (he : e < 256) (hl : l < 256) :
   let u := v.collisionNoted w e l
   u.get F.holdCollAddrAddr = w / 32 ∧ u.get F.holdCollMastersEarlier = e ∧ u.get F.holdCollMastersLater = l ∧
   u.get F.holdCollisionsCount = min (fieldMax F.holdCollisionsCount) (v.get F.holdCollisionsCount + 1) ∧
   u.get (F.holdConflictCount l) = min (fieldMax (F.holdConflictCount l)) (v.get (F.holdConflictCount l) + 1) := by
  dsimp only
  unfold State.collisionNoted State.conflict
  simp only [State.get_mk]
  refine ⟨?_, ?_, ?_, ?_, ?_⟩
  · rw [count_get_other _ _ (by ((first | unfold Apart | unfold InWord | skip); (try dsimp only [F.holdConflictCount, F.holdCollAddrAddr, R.holdConflict, R.holdCollAddr, F.holdCollMastersLater, R.holdCollMasters, F.holdCollMastersEarlier, F.holdCollisionsCount, R.holdCollisions]); (try dsimp only [evOut]); (first | decide | omega | (simp only [ne_eq]; omega) | (simp; omega)))) (by ((first | unfold Apart | unfold InWord | skip); (try dsimp only [F.holdConflictCount, F.holdCollAddrAddr, R.holdConflict, R.holdCollAddr, F.holdCollMastersLater, R.holdCollMasters, F.holdCollMastersEarlier, F.holdCollisionsCount, R.holdCollisions]); (try dsimp only [evOut]); (first | decide | omega | (simp only [ne_eq]; omega) | (simp; omega)))), State.get_put_other _ (by ((first | unfold Apart | unfold InWord | skip); (try dsimp only [F.holdConflictCount, F.holdCollAddrAddr, R.holdConflict, R.holdCollAddr, F.holdCollMastersLater, R.holdCollMasters, F.holdCollMastersEarlier, F.holdCollisionsCount, R.holdCollisions]); (try dsimp only [evOut]); (first | decide | omega | (simp only [ne_eq]; omega) | (simp; omega)))) (by ((first | unfold Apart | unfold InWord | skip); (try dsimp only [F.holdConflictCount, F.holdCollAddrAddr, R.holdConflict, R.holdCollAddr, F.holdCollMastersLater, R.holdCollMasters, F.holdCollMastersEarlier, F.holdCollisionsCount, R.holdCollisions]); (try dsimp only [evOut]); (first | decide | omega | (simp only [ne_eq]; omega) | (simp; omega)))), State.get_put_other _ (by ((first | unfold Apart | unfold InWord | skip); (try dsimp only [F.holdConflictCount, F.holdCollAddrAddr, R.holdConflict, R.holdCollAddr, F.holdCollMastersLater, R.holdCollMasters, F.holdCollMastersEarlier, F.holdCollisionsCount, R.holdCollisions]); (try dsimp only [evOut]); (first | decide | omega | (simp only [ne_eq]; omega) | (simp; omega)))) (by ((first | unfold Apart | unfold InWord | skip); (try dsimp only [F.holdConflictCount, F.holdCollAddrAddr, R.holdConflict, R.holdCollAddr, F.holdCollMastersLater, R.holdCollMasters, F.holdCollMastersEarlier, F.holdCollisionsCount, R.holdCollisions]); (try dsimp only [evOut]); (first | decide | omega | (simp only [ne_eq]; omega) | (simp; omega)))), State.get_put_same _ (by ((first | unfold Apart | unfold InWord | skip); (try dsimp only [F.holdConflictCount, F.holdCollAddrAddr, R.holdConflict, R.holdCollAddr, F.holdCollMastersLater, R.holdCollMasters, F.holdCollMastersEarlier, F.holdCollisionsCount, R.holdCollisions]); (try dsimp only [evOut]); (first | decide | omega | (simp only [ne_eq]; omega) | (simp; omega))))]
    exact Nat.mod_eq_of_lt hw
  · rw [count_get_other _ _ (by ((first | unfold Apart | unfold InWord | skip); (try dsimp only [F.holdConflictCount, F.holdCollAddrAddr, R.holdConflict, R.holdCollAddr, F.holdCollMastersLater, R.holdCollMasters, F.holdCollMastersEarlier, F.holdCollisionsCount, R.holdCollisions]); (try dsimp only [evOut]); (first | decide | omega | (simp only [ne_eq]; omega) | (simp; omega)))) (by ((first | unfold Apart | unfold InWord | skip); (try dsimp only [F.holdConflictCount, F.holdCollAddrAddr, R.holdConflict, R.holdCollAddr, F.holdCollMastersLater, R.holdCollMasters, F.holdCollMastersEarlier, F.holdCollisionsCount, R.holdCollisions]); (try dsimp only [evOut]); (first | decide | omega | (simp only [ne_eq]; omega) | (simp; omega)))), State.get_put_other _ (by ((first | unfold Apart | unfold InWord | skip); (try dsimp only [F.holdConflictCount, F.holdCollAddrAddr, R.holdConflict, R.holdCollAddr, F.holdCollMastersLater, R.holdCollMasters, F.holdCollMastersEarlier, F.holdCollisionsCount, R.holdCollisions]); (try dsimp only [evOut]); (first | decide | omega | (simp only [ne_eq]; omega) | (simp; omega)))) (by ((first | unfold Apart | unfold InWord | skip); (try dsimp only [F.holdConflictCount, F.holdCollAddrAddr, R.holdConflict, R.holdCollAddr, F.holdCollMastersLater, R.holdCollMasters, F.holdCollMastersEarlier, F.holdCollisionsCount, R.holdCollisions]); (try dsimp only [evOut]); (first | decide | omega | (simp only [ne_eq]; omega) | (simp; omega)))), State.get_put_same _ (by ((first | unfold Apart | unfold InWord | skip); (try dsimp only [F.holdConflictCount, F.holdCollAddrAddr, R.holdConflict, R.holdCollAddr, F.holdCollMastersLater, R.holdCollMasters, F.holdCollMastersEarlier, F.holdCollisionsCount, R.holdCollisions]); (try dsimp only [evOut]); (first | decide | omega | (simp only [ne_eq]; omega) | (simp; omega))))]
    exact Nat.mod_eq_of_lt he
  · rw [count_get_other _ _ (by ((first | unfold Apart | unfold InWord | skip); (try dsimp only [F.holdConflictCount, F.holdCollAddrAddr, R.holdConflict, R.holdCollAddr, F.holdCollMastersLater, R.holdCollMasters, F.holdCollMastersEarlier, F.holdCollisionsCount, R.holdCollisions]); (try dsimp only [evOut]); (first | decide | omega | (simp only [ne_eq]; omega) | (simp; omega)))) (by ((first | unfold Apart | unfold InWord | skip); (try dsimp only [F.holdConflictCount, F.holdCollAddrAddr, R.holdConflict, R.holdCollAddr, F.holdCollMastersLater, R.holdCollMasters, F.holdCollMastersEarlier, F.holdCollisionsCount, R.holdCollisions]); (try dsimp only [evOut]); (first | decide | omega | (simp only [ne_eq]; omega) | (simp; omega)))), State.get_put_same _ (by ((first | unfold Apart | unfold InWord | skip); (try dsimp only [F.holdConflictCount, F.holdCollAddrAddr, R.holdConflict, R.holdCollAddr, F.holdCollMastersLater, R.holdCollMasters, F.holdCollMastersEarlier, F.holdCollisionsCount, R.holdCollisions]); (try dsimp only [evOut]); (first | decide | omega | (simp only [ne_eq]; omega) | (simp; omega))))]
    exact Nat.mod_eq_of_lt hl
  · rw [count_get_other _ _ (by ((first | unfold Apart | unfold InWord | skip); (try dsimp only [F.holdConflictCount, F.holdCollAddrAddr, R.holdConflict, R.holdCollAddr, F.holdCollMastersLater, R.holdCollMasters, F.holdCollMastersEarlier, F.holdCollisionsCount, R.holdCollisions]); (try dsimp only [evOut]); (first | decide | omega | (simp only [ne_eq]; omega) | (simp; omega)))) (by ((first | unfold Apart | unfold InWord | skip); (try dsimp only [F.holdConflictCount, F.holdCollAddrAddr, R.holdConflict, R.holdCollAddr, F.holdCollMastersLater, R.holdCollMasters, F.holdCollMastersEarlier, F.holdCollisionsCount, R.holdCollisions]); (try dsimp only [evOut]); (first | decide | omega | (simp only [ne_eq]; omega) | (simp; omega)))), State.get_put_other _ (by ((first | unfold Apart | unfold InWord | skip); (try dsimp only [F.holdConflictCount, F.holdCollAddrAddr, R.holdConflict, R.holdCollAddr, F.holdCollMastersLater, R.holdCollMasters, F.holdCollMastersEarlier, F.holdCollisionsCount, R.holdCollisions]); (try dsimp only [evOut]); (first | decide | omega | (simp only [ne_eq]; omega) | (simp; omega)))) (by ((first | unfold Apart | unfold InWord | skip); (try dsimp only [F.holdConflictCount, F.holdCollAddrAddr, R.holdConflict, R.holdCollAddr, F.holdCollMastersLater, R.holdCollMasters, F.holdCollMastersEarlier, F.holdCollisionsCount, R.holdCollisions]); (try dsimp only [evOut]); (first | decide | omega | (simp only [ne_eq]; omega) | (simp; omega)))), State.get_put_other _ (by ((first | unfold Apart | unfold InWord | skip); (try dsimp only [F.holdConflictCount, F.holdCollAddrAddr, R.holdConflict, R.holdCollAddr, F.holdCollMastersLater, R.holdCollMasters, F.holdCollMastersEarlier, F.holdCollisionsCount, R.holdCollisions]); (try dsimp only [evOut]); (first | decide | omega | (simp only [ne_eq]; omega) | (simp; omega)))) (by ((first | unfold Apart | unfold InWord | skip); (try dsimp only [F.holdConflictCount, F.holdCollAddrAddr, R.holdConflict, R.holdCollAddr, F.holdCollMastersLater, R.holdCollMasters, F.holdCollMastersEarlier, F.holdCollisionsCount, R.holdCollisions]); (try dsimp only [evOut]); (first | decide | omega | (simp only [ne_eq]; omega) | (simp; omega)))), State.get_put_other _ (by ((first | unfold Apart | unfold InWord | skip); (try dsimp only [F.holdConflictCount, F.holdCollAddrAddr, R.holdConflict, R.holdCollAddr, F.holdCollMastersLater, R.holdCollMasters, F.holdCollMastersEarlier, F.holdCollisionsCount, R.holdCollisions]); (try dsimp only [evOut]); (first | decide | omega | (simp only [ne_eq]; omega) | (simp; omega)))) (by ((first | unfold Apart | unfold InWord | skip); (try dsimp only [F.holdConflictCount, F.holdCollAddrAddr, R.holdConflict, R.holdCollAddr, F.holdCollMastersLater, R.holdCollMasters, F.holdCollMastersEarlier, F.holdCollisionsCount, R.holdCollisions]); (try dsimp only [evOut]); (first | decide | omega | (simp only [ne_eq]; omega) | (simp; omega)))), count_get _ _ _ (by ((first | unfold Apart | unfold InWord | skip); (try dsimp only [F.holdConflictCount, F.holdCollAddrAddr, R.holdConflict, R.holdCollAddr, F.holdCollMastersLater, R.holdCollMasters, F.holdCollMastersEarlier, F.holdCollisionsCount, R.holdCollisions]); (try dsimp only [evOut]); (first | decide | omega | (simp only [ne_eq]; omega) | (simp; omega))))]
  · rw [count_get _ _ _ (by ((first | unfold Apart | unfold InWord | skip); (try dsimp only [F.holdConflictCount, F.holdCollAddrAddr, R.holdConflict, R.holdCollAddr, F.holdCollMastersLater, R.holdCollMasters, F.holdCollMastersEarlier, F.holdCollisionsCount, R.holdCollisions]); (try dsimp only [evOut]); (first | decide | omega | (simp only [ne_eq]; omega) | (simp; omega)))), State.get_put_other _ (by ((first | unfold Apart | unfold InWord | skip); (try dsimp only [F.holdConflictCount, F.holdCollAddrAddr, R.holdConflict, R.holdCollAddr, F.holdCollMastersLater, R.holdCollMasters, F.holdCollMastersEarlier, F.holdCollisionsCount, R.holdCollisions]); (try dsimp only [evOut]); (first | decide | omega | (simp only [ne_eq]; omega) | (simp; omega)))) (by ((first | unfold Apart | unfold InWord | skip); (try dsimp only [F.holdConflictCount, F.holdCollAddrAddr, R.holdConflict, R.holdCollAddr, F.holdCollMastersLater, R.holdCollMasters, F.holdCollMastersEarlier, F.holdCollisionsCount, R.holdCollisions]); (try dsimp only [evOut]); (first | decide | omega | (simp only [ne_eq]; omega) | (simp; omega)))), State.get_put_other _ (by ((first | unfold Apart | unfold InWord | skip); (try dsimp only [F.holdConflictCount, F.holdCollAddrAddr, R.holdConflict, R.holdCollAddr, F.holdCollMastersLater, R.holdCollMasters, F.holdCollMastersEarlier, F.holdCollisionsCount, R.holdCollisions]); (try dsimp only [evOut]); (first | decide | omega | (simp only [ne_eq]; omega) | (simp; omega)))) (by ((first | unfold Apart | unfold InWord | skip); (try dsimp only [F.holdConflictCount, F.holdCollAddrAddr, R.holdConflict, R.holdCollAddr, F.holdCollMastersLater, R.holdCollMasters, F.holdCollMastersEarlier, F.holdCollisionsCount, R.holdCollisions]); (try dsimp only [evOut]); (first | decide | omega | (simp only [ne_eq]; omega) | (simp; omega)))), State.get_put_other _ (by ((first | unfold Apart | unfold InWord | skip); (try dsimp only [F.holdConflictCount, F.holdCollAddrAddr, R.holdConflict, R.holdCollAddr, F.holdCollMastersLater, R.holdCollMasters, F.holdCollMastersEarlier, F.holdCollisionsCount, R.holdCollisions]); (try dsimp only [evOut]); (first | decide | omega | (simp only [ne_eq]; omega) | (simp; omega)))) (by ((first | unfold Apart | unfold InWord | skip); (try dsimp only [F.holdConflictCount, F.holdCollAddrAddr, R.holdConflict, R.holdCollAddr, F.holdCollMastersLater, R.holdCollMasters, F.holdCollMastersEarlier, F.holdCollisionsCount, R.holdCollisions]); (try dsimp only [evOut]); (first | decide | omega | (simp only [ne_eq]; omega) | (simp; omega)))), count_get_other _ _ (by ((first | unfold Apart | unfold InWord | skip); (try dsimp only [F.holdConflictCount, F.holdCollAddrAddr, R.holdConflict, R.holdCollAddr, F.holdCollMastersLater, R.holdCollMasters, F.holdCollMastersEarlier, F.holdCollisionsCount, R.holdCollisions]); (try dsimp only [evOut]); (first | decide | omega | (simp only [ne_eq]; omega) | (simp; omega)))) (by ((first | unfold Apart | unfold InWord | skip); (try dsimp only [F.holdConflictCount, F.holdCollAddrAddr, R.holdConflict, R.holdCollAddr, F.holdCollMastersLater, R.holdCollMasters, F.holdCollMastersEarlier, F.holdCollisionsCount, R.holdCollisions]); (try dsimp only [evOut]); (first | decide | omega | (simp only [ne_eq]; omega) | (simp; omega))))]

def fin (r : State) (f : Ferry) : State :=
  let s2 := { r with hold := { r.hold with ferries := r.hold.ferries.filter (· != f) } }
  match s2.hold.structFerries.find? (·.1 == f.bank) with
  | some q =>
    let s3 := ({ s2 with hold := { s2.hold with structFerries := s2.hold.structFerries.erase q } }).releaseHeld fun a =>
      bankOf a.addr.toNat == f.bank
    if s3.owner f.bank = q.2 then s3.ferryAtOnce f.bank else s3.beginFerry f.bank q.2
  | none => s2.releaseHeld fun a => bankOf a.addr.toNat == f.bank

theorem fin_eq (t : State) (f : Ferry) (code : Nat) : t.endFerry f code = fin ((((t.put (F.holdOwnerOwner f.bank) f.target).put (F.holdFerryPending f.bank) 0).put
    (F.holdFerryLastCode f.bank) code).raise 192) f := by
  unfold State.endFerry fin
  generalize (((t.put (F.holdOwnerOwner f.bank) f.target).put (F.holdFerryPending f.bank) 0).put (F.holdFerryLastCode f.bank) code).raise 192 = r
  rfl

theorem fin_spec (r : State) (f : Ferry) (b : Nat) (hb : f.bank = b) :
        let v := { r with hold := { r.hold with ferries := r.hold.ferries.filter (· != f) } }
        (r.hold.structFerries.find? (·.1 == b) = none → fin r f = v.releaseHeld fun a => bankOf a.addr.toNat == b) ∧
        (∀ q, r.hold.structFerries.find? (·.1 == b) = some q →
          let y := ({ v with hold := { v.hold with structFerries := v.hold.structFerries.erase q } }).releaseHeld fun a => bankOf a.addr.toNat == b
          fin r f = if y.owner b = q.2 then y.ferryAtOnce b else y.beginFerry b q.2) := by
  subst hb
  refine ⟨?_, ?_⟩
  · intro h
    unfold fin; dsimp only; rw [h]
  · intro q h
    unfold fin; dsimp only; rw [h]

theorem ends (t : State) (f : Ferry) (bank : Fin 256) (code : Nat) (hb : f.bank = bank) (ht : f.target < 256) (hc : code < 4096) : ∃ u,
        Frame [F.holdOwnerOwner bank, F.holdFerryPending bank, F.holdFerryLastCode bank] [] t u ∧
        u.owner bank = f.target ∧ u.get (F.holdFerryPending bank) = 0 ∧ u.get (F.holdFerryLastCode bank) = code ∧
        let r := u.raise 192
        let v := { r with hold := { r.hold with ferries := r.hold.ferries.filter (· != f) } }
        (t.hold.structFerries.find? (·.1 == bank.val) = none → t.endFerry f code = v.releaseHeld fun a => bankOf a.addr.toNat == bank.val) ∧
        (∀ q, t.hold.structFerries.find? (·.1 == bank.val) = some q →
          let y := ({ v with hold := { v.hold with structFerries := v.hold.structFerries.erase q } }).releaseHeld fun a =>
            bankOf a.addr.toNat == bank.val
          t.endFerry f code = if y.owner bank = q.2 then y.ferryAtOnce bank else y.beginFerry bank q.2) := by
  refine ⟨((t.put (F.holdOwnerOwner bank) f.target).put (F.holdFerryPending bank) 0).put (F.holdFerryLastCode bank) code, ?_, ?_, ?_, ?_, ?_⟩
  · (repeat' (first | with_reducible exact Frame.refl _ _ _ | with_reducible assumption | (with_reducible refine Frame.puts ?_ ?hm; case hm => (simp; done)) | (with_reducible refine Frame.put ?_ ?hm; case hm => (simp; done)) | (with_reducible refine Frame.count ?_ ?hm; case hm => (simp; done)) | (with_reducible refine Frame.emit ?_ ?hm; case hm => (simp; done)) | (with_reducible refine Frame.setActReg ?_ ?hm; case hm => (simp; done)) | (with_reducible refine Frame.putAct ?_ ?hm; case hm => (simp; done)) | (with_reducible refine Frame.setWritten ?_ ?hm; case hm => (simp; done)) | (with_reducible refine Frame.setReg ?_ ?hm; case hm => (simp [whole]; done)) | (with_reducible refine State.setChan_frame ?_ _ _ ?hm; case hm => (simp; done)) | (with_reducible refine State.setOut_frame ?_ _ _ ?hm; case hm => (simp; done)) | (with_reducible refine State.setTime_frame ?_ _ ?hm; case hm => (simp; done)) | (with_reducible refine State.setEddy_frame ?_ _ _ ?hm; case hm => (simp; done)) | (with_reducible refine State.setHost_frame ?_ _ ?hm; case hm => (simp; done)) | (with_reducible refine State.setLane_frame ?_ _ _ ?hm; case hm => (simp; done)) | (with_reducible refine State.setSideband_frame ?_ _ _ ?hm; case hm => (simp; done)) | (with_reducible refine State.setPurser_frame ?_ _ ?hm; case hm => (simp; done)) | (with_reducible refine State.setPower_frame ?_ _ ?hm; case hm => (simp; done)) | (with_reducible refine State.setSlot_frame ?_ _ _ ?hm; case hm => (simp; done)) | (with_reducible refine State.setCopy_frame ?_ _ _ _ ?hm; case hm => (simp; done)) | (with_reducible refine State.setPort_frame ?_ _ _ ?hm; case hm => (simp; done)) | (with_reducible refine State.setTx_frame ?_ _ _ ?hm; case hm => (simp; done)) | (with_reducible refine State.setRx_frame ?_ _ _ ?hm; case hm => (simp; done)) | (with_reducible refine State.setSwap_frame ?_ _ _ ?hm; case hm => (simp; done)) | (with_reducible refine State.setHoldByte_frame ?_ _ _ ?hm; case hm => (simp; done)) | (with_reducible refine State.setTbl_frame ?_ _ _ _ _ _ _ ?hm; case hm => (simp; done)) | (with_reducible refine State.setXfer_frame ?_ _ _ ?hm; case hm => (simp; done)) | (with_reducible refine State.setChunk_frame ?_ _ _ _ ?hm; case hm => (simp; done)) | (with_reducible refine State.setOdrv_frame ?_ _ _ ?hm; case hm => (simp; done)) | (with_reducible refine State.setPix_frame ?_ _ _ ?hm; case hm => (simp; done)) | (with_reducible refine State.setRegion_frame ?_ _ _ ?hm; case hm => (simp; done)) | (with_reducible refine State.setMapUse_frame ?_ _ _ _ ?hm; case hm => (simp; done)) | (with_reducible refine State.setWear_frame ?_ _ _ ?hm; case hm => (simp; done)) | (with_reducible refine State.setSync_frame ?_ _ _ ?hm; case hm => (simp; done)) | (with_reducible refine State.setFn_frame ?_ _ _ ?hm; case hm => (simp; done)) | (with_reducible refine State.setCal_frame ?_ _ _ ?hm; case hm => (simp; done)) | (refine Frame.fields ?_ ?hm; case hm => (intro p hp; cases p <;> first | (with_reducible rfl) | (refine absurd ?_ hp; simp; done) | rfl | (simp only [List.mem_cons, List.not_mem_nil, not_or, or_false, Part.output.injEq, Part.lane.injEq, Part.sideband.injEq, Part.channel.injEq, Part.engine.injEq, reduceCtorEq, not_false_eq_true, true_and, and_true] at hp; simp only [Part.same]; first | exact updAt_other _ _ _ _ (Ne.symm hp) | (simp [Ne.symm hp]; done))))))
  · unfold State.owner; ((try simp only [on_eq]); (try simp (disch := ((first | unfold Apart | unfold InWord | skip); (try dsimp only [F.holdFerryLastCode, F.holdOwnerOwner, R.holdFerry, R.holdOwner, F.holdFerryPending]); (try dsimp only [evOut]); (first | decide | omega | (simp only [ne_eq]; omega) | (simp; omega)))) only [State.get_put_same, State.get_put_other, State.get_mk, State.get_emit, State.get_bumpFree, State.get_setActReg, State.get_putAct, State.get_setWritten, State.get_setLanded, State.get_clearWritten, State.setChan_get, State.setOut_get, State.setTime_get, State.setEddy_get, State.setHost_get, State.setLane_get, State.setSideband_get, State.setPurser_get, State.setPower_get, State.setSlot_get, State.setCopy_get, State.setPort_get, State.setTx_get, State.setRx_get, State.setSwap_get, State.setHoldByte_get, State.setTbl_get, State.setXfer_get, State.setChunk_get, State.setOdrv_get, State.setPix_get, State.setRegion_get, State.setMapUse_get, State.setWear_get, State.setSync_get, State.setFn_get, State.setCal_get, State.puts_cons, State.puts_nil])); exact Nat.mod_eq_of_lt ht
  · (((try simp only [on_eq]); (try simp (disch := ((first | unfold Apart | unfold InWord | skip); (try dsimp only [F.holdFerryLastCode, F.holdOwnerOwner, R.holdFerry, R.holdOwner, F.holdFerryPending]); (try dsimp only [evOut]); (first | decide | omega | (simp only [ne_eq]; omega) | (simp; omega)))) only [State.get_put_same, State.get_put_other, State.get_mk, State.get_emit, State.get_bumpFree, State.get_setActReg, State.get_putAct, State.get_setWritten, State.get_setLanded, State.get_clearWritten, State.setChan_get, State.setOut_get, State.setTime_get, State.setEddy_get, State.setHost_get, State.setLane_get, State.setSideband_get, State.setPurser_get, State.setPower_get, State.setSlot_get, State.setCopy_get, State.setPort_get, State.setTx_get, State.setRx_get, State.setSwap_get, State.setHoldByte_get, State.setTbl_get, State.setXfer_get, State.setChunk_get, State.setOdrv_get, State.setPix_get, State.setRegion_get, State.setMapUse_get, State.setWear_get, State.setSync_get, State.setFn_get, State.setCal_get, State.puts_cons, State.puts_nil])); (try dsimp only [F.holdFerryLastCode, F.holdOwnerOwner, R.holdFerry, R.holdOwner, F.holdFerryPending]); first | done | rfl | decide | omega | (simp; done) | (simp; omega))
  · ((try simp only [on_eq]); (try simp (disch := ((first | unfold Apart | unfold InWord | skip); (try dsimp only [F.holdFerryLastCode, F.holdOwnerOwner, R.holdFerry, R.holdOwner, F.holdFerryPending]); (try dsimp only [evOut]); (first | decide | omega | (simp only [ne_eq]; omega) | (simp; omega)))) only [State.get_put_same, State.get_put_other, State.get_mk, State.get_emit, State.get_bumpFree, State.get_setActReg, State.get_putAct, State.get_setWritten, State.get_setLanded, State.get_clearWritten, State.setChan_get, State.setOut_get, State.setTime_get, State.setEddy_get, State.setHost_get, State.setLane_get, State.setSideband_get, State.setPurser_get, State.setPower_get, State.setSlot_get, State.setCopy_get, State.setPort_get, State.setTx_get, State.setRx_get, State.setSwap_get, State.setHoldByte_get, State.setTbl_get, State.setXfer_get, State.setChunk_get, State.setOdrv_get, State.setPix_get, State.setRegion_get, State.setMapUse_get, State.setWear_get, State.setSync_get, State.setFn_get, State.setCal_get, State.puts_cons, State.puts_nil])); (try dsimp only [F.holdFerryLastCode, F.holdOwnerOwner, R.holdFerry, R.holdOwner, F.holdFerryPending]); exact Nat.mod_eq_of_lt hc
  · intro r v
    have := fin_spec r f bank hb
    have hr : r.hold.structFerries = t.hold.structFerries := by rw [show r.hold = t.hold from raise_hold _ _]
    rw [fin_eq, hb]
    refine ⟨fun h => ?_, fun q h => ?_⟩
    · exact this.1 (by rw [hr]; exact h)
    · exact this.2 q (by rw [hr]; exact h)

theorem clear_byte (s : State) (x y a : Nat) : (s.clearRange (x * 0x400000) (y * 0x400000)).holdByte a =
    if x * 0x400000 ≤ a ∧ a < y * 0x400000 then 0 else s.holdByte a := by
  have hin : ∀ w, wordOf w = w → (w < x * 0x400000 ↔ ∀ i, i < 32 → w + i < x * 0x400000) := by
    intro w hw
    constructor
    · intro h i hi; unfold wordOf at hw; omega
    · intro h; exact h 0 (by omega)
  unfold State.holdByte State.unknownAt State.clearRange
  dsimp only
  by_cases h : x * 0x400000 ≤ a ∧ a < y * 0x400000
  · rw [if_pos h]
    have k1 : ¬ (List.filter (fun w => decide (w < x * 0x400000) || decide (y * 0x400000 ≤ w)) s.hold.knownWords).contains (wordOf a) = true := by
      simp [List.contains_eq_mem]; unfold wordOf; omega
    rw [if_neg k1]
    have k2 : (List.filter (fun b : Nat × Nat => decide (b.1 * 0x400000 < x * 0x400000) || decide (y * 0x400000 ≤ b.1 * 0x400000)) s.hold.unknownBanks).find? (fun b => b.1 == bankOf a) = none := by
      rw [List.find?_eq_none]
      intro p hp
      simp only [List.mem_filter, Bool.or_eq_true, decide_eq_true_eq] at hp
      simp only [beq_iff_eq]
      unfold bankOf; omega
    rw [k2]
    dsimp only [Option.map]
    apply sparseGet_filter_gone
    intro v; simp; omega
  · rw [if_neg h]
    have k1 : (List.filter (fun w => decide (w < x * 0x400000) || decide (y * 0x400000 ≤ w)) s.hold.knownWords).contains (wordOf a) = s.hold.knownWords.contains (wordOf a) := by
      simp [List.contains_eq_mem]; intro _; unfold wordOf; omega
    have k2 : (List.filter (fun b : Nat × Nat => decide (b.1 * 0x400000 < x * 0x400000) || decide (y * 0x400000 ≤ b.1 * 0x400000)) s.hold.unknownBanks).find? (fun b => b.1 == bankOf a) = s.hold.unknownBanks.find? (fun b => b.1 == bankOf a) := by
      rw [List.find?_filter]
      congr 1; funext p
      by_cases hp : p.1 = bankOf a
      · simp [hp]; unfold bankOf; omega
      · simp [hp]
    rw [k1, k2]
    have k3 : sparseGet 0 (List.filter (fun c : Nat × Byte => decide (c.1 < x * 0x400000) || decide (y * 0x400000 ≤ c.1)) s.hold.bytes) a = sparseGet 0 s.hold.bytes a := by
      apply sparseGet_filter_other
      intro v; simp; omega
    rw [k3]

theorem openBank_spec (s : State) (n : Nat) (t : State) (h : s.openBank n = some t) :
    Frame [F.holdMarchPosWindow, F.holdMarchPosBank] [.hold] s t ∧ t.on (F.holdOwnerNoBorrow (t.get F.holdMarchPosBank)) = false := by
  induction n generalizing s with
  | zero => cases h
  | succ n ih =>
    unfold State.openBank at h
    dsimp only at h
    split at h
    · obtain ⟨h1, h2⟩ := ih _ h
      refine ⟨Frame.trans (holdPart (Frame.puts (Frame.refl _ _ _) ?_) _ (by simp)) h1, h2⟩
      simp
    · next hn =>
      cases h
      exact ⟨Frame.refl _ _ _, by simpa using hn⟩

theorem openBank_here (s : State) (n : Nat) (h : s.get (F.holdOwnerNoBorrow (s.get F.holdMarchPosBank)) = 0) : s.openBank (n + 1) = some s := by
  simp only [State.openBank]; rw [if_neg (by rw [on_off _ _ h]; simp)]

theorem openBank_hold (s : State) (n : Nat) (t : State) (h : s.openBank n = some t) :
    t.hold = s.hold ∨ t.hold = { s.hold with yieldsInRow := 0 } := by
  induction n generalizing s with
  | zero => cases h
  | succ n ih =>
    unfold State.openBank at h
    dsimp only at h
    split at h
    · rcases ih _ h with k | k <;> exact .inr k
    · cases h; exact .inl rfl

theorem mem_words {a n b : Nat} (h1 : a ≤ b) (h2 : b < a + n) : wordOf b ∈ wordsTouched a n := by
  unfold wordsTouched
  rw [if_neg (by omega), List.mem_map]
  refine ⟨b / 32 - a / 32, ?_, ?_⟩
  · rw [List.mem_range]; omega
  · unfold wordOf; omega

theorem words_word {a n w : Nat} (h : w ∈ wordsTouched a n) : wordOf w = w := by
  unfold wordsTouched at h
  split at h
  · simp at h
  · simp only [List.mem_map] at h
    obtain ⟨i, _, rfl⟩ := h
    unfold wordOf; omega

theorem know_fold (l : List Nat) (s : State) (hl : ∀ w ∈ l, wordOf w = w) :
    (∀ b, (l.foldl (fun t w => t.knowWord w) s).holdByte b = s.holdByte b) ∧
    (∀ b, s.unknownAt b = none ∨ wordOf b ∈ l → (l.foldl (fun t w => t.knowWord w) s).unknownAt b = none) := by
  induction l generalizing s with
  | nil => simp
  | cons x r ih =>
    obtain ⟨h1, h2⟩ := ih (s.knowWord x) (fun w hw => hl w (by simp [hw]))
    have hx := hl x (by simp)
    refine ⟨fun b => by rw [List.foldl_cons, h1, knowWord_byte s hx], ?_⟩
    intro b hb
    rw [List.foldl_cons]
    apply h2
    by_cases hw : wordOf b = x
    · left; exact knowWord_known s hx hw
    · rcases hb with hb | hb
      · left
        unfold State.knowWord
        split
        · dsimp only; rw [setHoldBytes_unknownAt]
          unfold State.unknownAt at hb ⊢
          dsimp only
          split at hb
          · next h => rw [if_pos]; simp [keyInsert_mem] at h ⊢; exact Or.inr h
          · next h => split
                      · rfl
                      · exact hb
        · exact hb
      · right; simp at hb; tauto

theorem storeRun_byte (s : State) (a : Nat) (l : List Byte) (b : Nat) :
    (s.storeRun a l).holdByte b = if a ≤ b ∧ b < a + l.length then l.getD (b - a) 0 else s.holdByte b := by
  unfold State.storeRun
  dsimp only
  have hl : ∀ w ∈ wordsTouched a l.length, wordOf w = w := fun w h => words_word h
  obtain ⟨k1, k2⟩ := know_fold _ s hl
  have key : ∀ (x : State), ((wordsTouched a l.length).foldl (fun t w => (if a ≤ w ∧ w + 32 ≤ a + l.length then t.setUncorr w false else t).chaseWrite w
      fun b => decide (a ≤ b) && decide (b < a + l.length)) x).holdByte b = x.holdByte b := by
    intro x
    refine foldl_inv (fun (t : State) => t.holdByte b = x.holdByte b) _ _ _ rfl ?_
    intro t w _ h
    rw [holdByte_of (chaseWrite_hold _ _ _), ← h]
    split
    · rfl
    · rfl
  rw [key, setHoldBytes_byte]
  · rw [k1]
  · intro i hi
    apply k2; right
    exact mem_words (by omega) (by omega)

end Sys2Proof.Machine
end

