-- ==== Sys2Proof/Laws/Host.lean ====
section
/-! SUPPORT. What violations, freezes, the power states and the resets do. -/

set_option Elab.async false
set_option linter.all false

open Sys2Proof

namespace Sys2Proof.Machine

theorem resetFns (s : State) (l : List Nat) : ∃ h, l.foldl (fun t i => t.resetFn (i + 1)) s = { s with host := h } ∧ h.linkUp = s.host.linkUp ∧
    (∀ n, h.fns.getD n FnConfig.reset = if n ∈ l.map (· + 1) then FnConfig.reset else s.host.fns.getD n FnConfig.reset) ∧
    (∀ v, v ∈ h.unmasked ↔ v ∈ s.host.unmasked ∧ vectorFn v ∉ l.map (· + 1)) := by
  induction l generalizing s with
  | nil => exact ⟨s.host, rfl, rfl, fun n => by rw [if_neg (by simp)], fun v => by simp⟩
  | cons i l ih =>
    obtain ⟨h, h1, h2, h3, h4⟩ := ih (s.resetFn (i + 1))
    refine ⟨h, ?_, ?_, ?_, ?_⟩
    · rw [List.foldl_cons, h1]; rfl
    · rw [h2]; rfl
    · intro n; rw [h3]
      have : (s.resetFn (i + 1)).host.fns.getD n FnConfig.reset = if n = i + 1 then FnConfig.reset else s.host.fns.getD n FnConfig.reset := by
        show (updAt s.host.fns (i + 1) fun _ => FnConfig.reset).getD n FnConfig.reset = _
        by_cases c : n = i + 1
        · subst c; rw [if_pos rfl, List.getD_eq_getElem?_getD]
          cases hx : s.host.fns[i + 1]? with
          | some x => rw [updAt_some hx]; rfl
          | none =>
            have := List.getElem?_eq_none_iff.1 hx
            rw [List.getElem?_eq_none_iff.2]; rfl
            simpa [updAt] using this
        · rw [if_neg c, List.getD_eq_getElem?_getD, updAt_other _ _ _ _ (fun e => c e.symm), ← List.getD_eq_getElem?_getD]
      rw [this]
      by_cases c : n = i + 1
      · subst c; simp
      · simp [c]
    · intro v; rw [h4]
      have : v ∈ (s.resetFn (i + 1)).host.unmasked ↔ v ∈ s.host.unmasked ∧ vectorFn v ≠ i + 1 := by
        show v ∈ s.host.unmasked.filter (fun v => vectorFn v != i + 1) ↔ _
        simp
      rw [this]; simp only [List.map_cons, List.mem_cons, not_or, and_assoc]

/-- freezing a master that is no reach and no scan-out, or thawing any: its flags -/
theorem setFrozen_spec (s : State) (m : Nat) (b : Bool) (hm : m < 256) (hr : ¬(0x60 ≤ m ∧ m < 0xA4 ∧ b = true))
    (hr2 : ¬(0xC0 ≤ m ∧ m < 0xC4 ∧ b = true)) : Frame (frozenFields m) [] s (s.setFrozen m b) ∧ (s.setFrozen m b).frozen m = b ∧
    (s.setFrozen m b).get ⟨R.mstFrozen (m / 32), m % 32, m % 32⟩ = b.toNat ∧
    (0x10 ≤ m → m < 0x30 → (s.setFrozen m b).get (F.dmaStatusFrozen (m - 0x10)) = b.toNat) ∧
    (0x08 ≤ m → m < 0x0C → (s.setFrozen m b).get (F.eddyStatusFrozen (m - 0x08)) = b.toNat) ∧
    (0xB0 ≤ m → m < 0xB3 → (s.setFrozen m b).get (F.chnpStatusFrozen (m - 0xB0)) = b.toNat) := by
  have hb : b.toNat % 2 = b.toNat := by cases b <;> rfl
  have one : ∀ (t : State) (f : Field), f.hi = f.lo → InWord f → (t.put f b.toNat).get f = b.toNat := by
    intro t f h1 h2; rw [State.get_put_same _ h2, h1, show f.lo + 1 - f.lo = 1 by omega]; exact hb
  have iw : InWord ⟨R.mstFrozen (m / 32), m % 32, m % 32⟩ := ⟨Nat.le_refl _, by show m % 32 < 32; omega⟩
  obtain ⟨t, ht⟩ : ∃ t, t = (s.put (F.mstFreezeCauseFrozen m) b.toNat).setBit (R.mstFrozen (m / 32)) (m % 32) b := exists_eq
  have t1 : t.get (F.mstFreezeCauseFrozen m) = b.toNat := by
    rw [ht]; unfold State.setBit
    rw [State.get_put_other _ (by unfold Apart; (try dsimp only [R.mstFrozen, F.mstFreezeCauseFrozen, R.mstFreezeCause, F.dmaStatusFrozen, R.dmaStatus, F.eddyStatusFrozen, R.eddyStatus, F.chnpStatusFrozen, R.chnpStatus]); left; simp only [ne_eq]; omega) (by ((first | unfold Apart | unfold InWord | skip); (try dsimp only [R.mstFrozen, F.mstFreezeCauseFrozen, R.mstFreezeCause, F.dmaStatusFrozen, R.dmaStatus, F.eddyStatusFrozen, R.eddyStatus, F.chnpStatusFrozen, R.chnpStatus]); (try dsimp only [evOut]); (first | decide | omega | (simp only [ne_eq]; omega) | (simp; omega))))]
    exact one _ _ rfl (by ((first | unfold Apart | unfold InWord | skip); (try dsimp only [R.mstFrozen, F.mstFreezeCauseFrozen, R.mstFreezeCause, F.dmaStatusFrozen, R.dmaStatus, F.eddyStatusFrozen, R.eddyStatus, F.chnpStatusFrozen, R.chnpStatus]); (try dsimp only [evOut]); (first | decide | omega | (simp only [ne_eq]; omega) | (simp; omega))))
  have t2 : t.get ⟨R.mstFrozen (m / 32), m % 32, m % 32⟩ = b.toNat := by rw [ht]; exact one _ _ rfl iw
  have e : s.setFrozen m b = if 0x10 ≤ m ∧ m < 0x30 then t.put (F.dmaStatusFrozen (m - 0x10)) b.toNat
      else if 0x08 ≤ m ∧ m < 0x0C then t.put (F.eddyStatusFrozen (m - 0x08)) b.toNat
      else if 0xB0 ≤ m ∧ m < 0xB3 then t.put (F.chnpStatusFrozen (m - 0xB0)) b.toNat else t := by
    unfold State.setFrozen; rw [ht]; dsimp only; rw [if_neg hr, if_neg hr2]
  have hfr : (s.setFrozen m b).frozen m = ((s.setFrozen m b).get (F.mstFreezeCauseFrozen m) == 1) := rfl
  have hf : (b.toNat == 1) = b := by cases b <;> rfl
  have tf : ∀ T, (F.mstFreezeCauseFrozen m) ∈ T → ⟨R.mstFrozen (m / 32), m % 32, m % 32⟩ ∈ T → Frame T [] s t := by
    intro T h1 h2; rw [ht]; exact ((Frame.refl T [] s).put h1).put h2
  rw [hfr, e]
  unfold frozenFields
  split
  · next c =>
    refine ⟨(tf _ (by simp) (by simp)).put (by simp), ?_, ?_, fun _ _ => one _ _ rfl (by ((first | unfold Apart | unfold InWord | skip); (try dsimp only [R.mstFrozen, F.mstFreezeCauseFrozen, R.mstFreezeCause, F.dmaStatusFrozen, R.dmaStatus, F.eddyStatusFrozen, R.eddyStatus, F.chnpStatusFrozen, R.chnpStatus]); (try dsimp only [evOut]); (first | decide | omega | (simp only [ne_eq]; omega) | (simp; omega)))), fun a b => by omega, fun a b => by omega⟩
    · rw [State.get_put_other _ (by ((first | unfold Apart | unfold InWord | skip); (try dsimp only [R.mstFrozen, F.mstFreezeCauseFrozen, R.mstFreezeCause, F.dmaStatusFrozen, R.dmaStatus, F.eddyStatusFrozen, R.eddyStatus, F.chnpStatusFrozen, R.chnpStatus]); (try dsimp only [evOut]); (first | decide | omega | (simp only [ne_eq]; omega) | (simp; omega)))) (by ((first | unfold Apart | unfold InWord | skip); (try dsimp only [R.mstFrozen, F.mstFreezeCauseFrozen, R.mstFreezeCause, F.dmaStatusFrozen, R.dmaStatus, F.eddyStatusFrozen, R.eddyStatus, F.chnpStatusFrozen, R.chnpStatus]); (try dsimp only [evOut]); (first | decide | omega | (simp only [ne_eq]; omega) | (simp; omega)))), t1, hf]
    · rw [State.get_put_other _ (by unfold Apart; (try dsimp only [R.mstFrozen, F.mstFreezeCauseFrozen, R.mstFreezeCause, F.dmaStatusFrozen, R.dmaStatus, F.eddyStatusFrozen, R.eddyStatus, F.chnpStatusFrozen, R.chnpStatus]); left; simp only [ne_eq]; omega) iw, t2]
  · split
    · next c =>
      refine ⟨(tf _ (by simp) (by simp)).put (by simp), ?_, ?_, fun a b => by omega, fun _ _ => one _ _ rfl (by ((first | unfold Apart | unfold InWord | skip); (try dsimp only [R.mstFrozen, F.mstFreezeCauseFrozen, R.mstFreezeCause, F.dmaStatusFrozen, R.dmaStatus, F.eddyStatusFrozen, R.eddyStatus, F.chnpStatusFrozen, R.chnpStatus]); (try dsimp only [evOut]); (first | decide | omega | (simp only [ne_eq]; omega) | (simp; omega)))), fun a b => by omega⟩
      · rw [State.get_put_other _ (by ((first | unfold Apart | unfold InWord | skip); (try dsimp only [R.mstFrozen, F.mstFreezeCauseFrozen, R.mstFreezeCause, F.dmaStatusFrozen, R.dmaStatus, F.eddyStatusFrozen, R.eddyStatus, F.chnpStatusFrozen, R.chnpStatus]); (try dsimp only [evOut]); (first | decide | omega | (simp only [ne_eq]; omega) | (simp; omega)))) (by ((first | unfold Apart | unfold InWord | skip); (try dsimp only [R.mstFrozen, F.mstFreezeCauseFrozen, R.mstFreezeCause, F.dmaStatusFrozen, R.dmaStatus, F.eddyStatusFrozen, R.eddyStatus, F.chnpStatusFrozen, R.chnpStatus]); (try dsimp only [evOut]); (first | decide | omega | (simp only [ne_eq]; omega) | (simp; omega)))), t1, hf]
      · rw [State.get_put_other _ (by unfold Apart; (try dsimp only [R.mstFrozen, F.mstFreezeCauseFrozen, R.mstFreezeCause, F.dmaStatusFrozen, R.dmaStatus, F.eddyStatusFrozen, R.eddyStatus, F.chnpStatusFrozen, R.chnpStatus]); left; simp only [ne_eq]; omega) iw, t2]
    · split
      · next c =>
        refine ⟨(tf _ (by simp) (by simp)).put (by simp), ?_, ?_, fun a b => by omega, fun a b => by omega, fun _ _ => one _ _ rfl (by ((first | unfold Apart | unfold InWord | skip); (try dsimp only [R.mstFrozen, F.mstFreezeCauseFrozen, R.mstFreezeCause, F.dmaStatusFrozen, R.dmaStatus, F.eddyStatusFrozen, R.eddyStatus, F.chnpStatusFrozen, R.chnpStatus]); (try dsimp only [evOut]); (first | decide | omega | (simp only [ne_eq]; omega) | (simp; omega))))⟩
        · rw [State.get_put_other _ (by ((first | unfold Apart | unfold InWord | skip); (try dsimp only [R.mstFrozen, F.mstFreezeCauseFrozen, R.mstFreezeCause, F.dmaStatusFrozen, R.dmaStatus, F.eddyStatusFrozen, R.eddyStatus, F.chnpStatusFrozen, R.chnpStatus]); (try dsimp only [evOut]); (first | decide | omega | (simp only [ne_eq]; omega) | (simp; omega)))) (by ((first | unfold Apart | unfold InWord | skip); (try dsimp only [R.mstFrozen, F.mstFreezeCauseFrozen, R.mstFreezeCause, F.dmaStatusFrozen, R.dmaStatus, F.eddyStatusFrozen, R.eddyStatus, F.chnpStatusFrozen, R.chnpStatus]); (try dsimp only [evOut]); (first | decide | omega | (simp only [ne_eq]; omega) | (simp; omega)))), t1, hf]
        · rw [State.get_put_other _ (by unfold Apart; (try dsimp only [R.mstFrozen, F.mstFreezeCauseFrozen, R.mstFreezeCause, F.dmaStatusFrozen, R.dmaStatus, F.eddyStatusFrozen, R.eddyStatus, F.chnpStatusFrozen, R.chnpStatus]); left; simp only [ne_eq]; omega) iw, t2]
      · refine ⟨tf _ (by simp) (by simp), ?_, t2, fun a b => by omega, fun a b => by omega, fun a b => by omega⟩
        rw [t1, hf]

theorem clearCause_spec (s : State) (m : Nat) : Frame (causeFields m) [] s (s.clearCause m) ∧
    (s.clearCause m).get (F.mstFreezeCauseCode m) = 0 ∧ (s.clearCause m).get (F.mstFreezeCauseMore m) = 0 ∧ (s.clearCause m).reg (R.mstCauseAddrLo m) = 0 ∧
    (s.clearCause m).reg (R.mstCauseAddrHi m) = 0 ∧ (s.clearCause m).reg (R.mstCauseDetail m) = 0 := by
  have rg : ∀ (t : State) (f : Field) a w, a ≠ f.addr → (t.setReg a w).get f = t.get f := by
    intro t f a w h; unfold State.get; rw [State.reg_setReg_other _ _ (fun c => h c.symm)]
  refine ⟨?_, ?_, ?_, ?_, ?_, ?_⟩
  · unfold State.clearCause causeFields
    refine Frame.setReg (Frame.setReg (Frame.setReg (Frame.puts (Frame.refl _ _ _) (by simp)) (by simp [whole])) (by simp [whole])) (by simp [whole])
  · unfold State.clearCause
    rw [rg _ _ _ _ (by (try dsimp only [R.mstCauseDetail, F.mstFreezeCauseCode, R.mstFreezeCause, R.mstCauseAddrHi, R.mstCauseAddrLo, F.mstFreezeCauseMore]); simp only [ne_eq]; omega), rg _ _ _ _ (by (try dsimp only [R.mstCauseDetail, F.mstFreezeCauseCode, R.mstFreezeCause, R.mstCauseAddrHi, R.mstCauseAddrLo, F.mstFreezeCauseMore]); simp only [ne_eq]; omega), rg _ _ _ _ (by (try dsimp only [R.mstCauseDetail, F.mstFreezeCauseCode, R.mstFreezeCause, R.mstCauseAddrHi, R.mstCauseAddrLo, F.mstFreezeCauseMore]); simp only [ne_eq]; omega)]; (((try simp only [on_eq]); (try simp (disch := ((first | unfold Apart | unfold InWord | skip); (try dsimp only [R.mstCauseDetail, F.mstFreezeCauseCode, R.mstFreezeCause, R.mstCauseAddrHi, R.mstCauseAddrLo, F.mstFreezeCauseMore]); (try dsimp only [evOut]); (first | decide | omega | (simp only [ne_eq]; omega) | (simp; omega)))) only [State.get_put_same, State.get_put_other, State.get_mk, State.get_emit, State.get_bumpFree, State.get_setActReg, State.get_putAct, State.get_setWritten, State.get_setLanded, State.get_clearWritten, State.setChan_get, State.setOut_get, State.setTime_get, State.setEddy_get, State.setHost_get, State.setLane_get, State.setSideband_get, State.setPurser_get, State.setPower_get, State.setSlot_get, State.setCopy_get, State.setPort_get, State.setTx_get, State.setRx_get, State.setSwap_get, State.setHoldByte_get, State.setTbl_get, State.setXfer_get, State.setChunk_get, State.setOdrv_get, State.setPix_get, State.setRegion_get, State.setMapUse_get, State.setWear_get, State.setSync_get, State.setFn_get, State.setCal_get, State.puts_cons, State.puts_nil])); (try dsimp only [R.mstCauseDetail, F.mstFreezeCauseCode, R.mstFreezeCause, R.mstCauseAddrHi, R.mstCauseAddrLo, F.mstFreezeCauseMore]); first | done | rfl | decide | omega | (simp; done) | (simp; omega))
  · unfold State.clearCause
    rw [rg _ _ _ _ (by (try dsimp only [R.mstCauseDetail, F.mstFreezeCauseCode, R.mstFreezeCause, R.mstCauseAddrHi, R.mstCauseAddrLo, F.mstFreezeCauseMore]); simp only [ne_eq]; omega), rg _ _ _ _ (by (try dsimp only [R.mstCauseDetail, F.mstFreezeCauseCode, R.mstFreezeCause, R.mstCauseAddrHi, R.mstCauseAddrLo, F.mstFreezeCauseMore]); simp only [ne_eq]; omega), rg _ _ _ _ (by (try dsimp only [R.mstCauseDetail, F.mstFreezeCauseCode, R.mstFreezeCause, R.mstCauseAddrHi, R.mstCauseAddrLo, F.mstFreezeCauseMore]); simp only [ne_eq]; omega)]; (((try simp only [on_eq]); (try simp (disch := ((first | unfold Apart | unfold InWord | skip); (try dsimp only [R.mstCauseDetail, F.mstFreezeCauseCode, R.mstFreezeCause, R.mstCauseAddrHi, R.mstCauseAddrLo, F.mstFreezeCauseMore]); (try dsimp only [evOut]); (first | decide | omega | (simp only [ne_eq]; omega) | (simp; omega)))) only [State.get_put_same, State.get_put_other, State.get_mk, State.get_emit, State.get_bumpFree, State.get_setActReg, State.get_putAct, State.get_setWritten, State.get_setLanded, State.get_clearWritten, State.setChan_get, State.setOut_get, State.setTime_get, State.setEddy_get, State.setHost_get, State.setLane_get, State.setSideband_get, State.setPurser_get, State.setPower_get, State.setSlot_get, State.setCopy_get, State.setPort_get, State.setTx_get, State.setRx_get, State.setSwap_get, State.setHoldByte_get, State.setTbl_get, State.setXfer_get, State.setChunk_get, State.setOdrv_get, State.setPix_get, State.setRegion_get, State.setMapUse_get, State.setWear_get, State.setSync_get, State.setFn_get, State.setCal_get, State.puts_cons, State.puts_nil])); (try dsimp only [R.mstCauseDetail, F.mstFreezeCauseCode, R.mstFreezeCause, R.mstCauseAddrHi, R.mstCauseAddrLo, F.mstFreezeCauseMore]); first | done | rfl | decide | omega | (simp; done) | (simp; omega))
  · unfold State.clearCause
    rw [State.reg_setReg_other _ _ (by (try dsimp only [R.mstCauseDetail, F.mstFreezeCauseCode, R.mstFreezeCause, R.mstCauseAddrHi, R.mstCauseAddrLo, F.mstFreezeCauseMore]); omega), State.reg_setReg_other _ _ (by (try dsimp only [R.mstCauseDetail, F.mstFreezeCauseCode, R.mstFreezeCause, R.mstCauseAddrHi, R.mstCauseAddrLo, F.mstFreezeCauseMore]); omega), State.reg_setReg_same]
  · unfold State.clearCause
    rw [State.reg_setReg_other _ _ (by (try dsimp only [R.mstCauseDetail, F.mstFreezeCauseCode, R.mstFreezeCause, R.mstCauseAddrHi, R.mstCauseAddrLo, F.mstFreezeCauseMore]); omega), State.reg_setReg_same]
  · unfold State.clearCause
    rw [State.reg_setReg_same]

theorem latch_spec (s : State) (m code addr : Nat) (write : Bool) (src : Nat) (hm : m < 256) : ∃ u, s.latchCause m code addr write src = u ∧
    Frame (F.mstViolationsCount :: causeFields m) [] s u ∧ u.get (F.mstFreezeCauseCode m) = code % 4096 ∧
    u.reg (R.mstCauseAddrLo m) = BitVec.ofNat 32 addr ∧ u.reg (R.mstCauseAddrHi m) = BitVec.ofNat 32 (addr / 2 ^ 32) ∧
    u.get (F.mstCauseDetailDir m) = write.toNat ∧ u.get (F.mstCauseDetailChainSrc m) = src % 65536 ∧
    u.get (F.mstCauseDetailOwner m) = (if code = 0x201 ∨ code = 0x202 ∨ code = 0x205 ∨ code = 0x207 then s.owner (bankOf (addr % 2 ^ 30)) else 0) % 256 ∧
    u.get F.mstViolationsCount = min 0xFFFFFFFF (s.get F.mstViolationsCount + 1) := by
  obtain ⟨own, ho⟩ : ∃ own, own = (if code == 0x201 || code == 0x202 || code == 0x205 || code == 0x207 then s.owner (bankOf (addr % 2 ^ 30)) else 0) := exists_eq
  have ho2 : own = (if code = 0x201 ∨ code = 0x202 ∨ code = 0x205 ∨ code = 0x207 then s.owner (bankOf (addr % 2 ^ 30)) else 0) := by
    rw [ho]
    by_cases c : code = 0x201 ∨ code = 0x202 ∨ code = 0x205 ∨ code = 0x207
    · rw [if_pos c, if_pos]; simp only [Bool.or_eq_true, beq_iff_eq, or_assoc]; exact c
    · rw [if_neg c, if_neg]; simp only [Bool.or_eq_true, beq_iff_eq, or_assoc]; exact c
  obtain ⟨a1, h1⟩ : ∃ a1, a1 = s.put (F.mstFreezeCauseCode m) code := exists_eq
  obtain ⟨a3, h3⟩ : ∃ a3, a3 = (a1.setReg (R.mstCauseAddrLo m) (BitVec.ofNat 32 addr)).setReg (R.mstCauseAddrHi m) (BitVec.ofNat 32 (addr / 2 ^ 32)) := exists_eq
  obtain ⟨a6, h6⟩ : ∃ a6, a6 = ((a3.put (F.mstCauseDetailDir m) write.toNat).put (F.mstCauseDetailOwner m) own).put (F.mstCauseDetailChainSrc m) src := exists_eq
  have rg : ∀ (t : State) (f : Field) a w, a ≠ f.addr → (t.setReg a w).get f = t.get f := by
    intro t f a w h; unfold State.get; rw [State.reg_setReg_other _ _ (fun c => h c.symm)]
  have g3 : ∀ f : Field, f.addr ≠ R.mstCauseAddrLo m → f.addr ≠ R.mstCauseAddrHi m → a3.get f = a1.get f := by
    intro f x y; rw [h3, rg _ _ _ _ (fun c => y c.symm), rg _ _ _ _ (fun c => x c.symm)]
  have r6 : ∀ a, a ≠ R.mstCauseDetail m → a6.reg a = a3.reg a := by
    intro a x; rw [h6, State.reg_put_other _ (f := F.mstCauseDetailChainSrc m) x, State.reg_put_other _ (f := F.mstCauseDetailOwner m) x, State.reg_put_other _ (f := F.mstCauseDetailDir m) x]
  have rc : ∀ (t : State) (a : Nat), a ≠ R.mstViolations → (t.count F.mstViolationsCount 1).reg a = t.reg a := by
    intro t a x
    apply BitVec.eq_of_getLsbD_eq; intro b hb
    refine (count_frame t F.mstViolationsCount).regs _ _ hb ?_
    rintro ⟨f, hf, h, _⟩
    rw [List.mem_singleton.1 hf] at h; exact x h.symm
  refine ⟨a6.count F.mstViolationsCount 1, ?_, ?_, ?_, ?_, ?_, ?_, ?_, ?_, ?_⟩
  · unfold State.latchCause; dsimp only; rw [← ho, h6, h3, h1]
  · have f1 : Frame (F.mstViolationsCount :: causeFields m) [] s a6 := by
      have w : ∀ (t : State) (f : Field) v, f.addr = R.mstCauseDetail m → Frame (F.mstViolationsCount :: causeFields m) [] s t →
          Frame (F.mstViolationsCount :: causeFields m) [] s (t.put f v) := by
        intro t f v hf ht
        refine ht.setReg ?_
        rw [hf]; simp [causeFields, whole]
      rw [h6]
      refine w _ _ _ rfl (w _ _ _ rfl (w _ _ _ rfl ?_))
      rw [h3]
      refine Frame.setReg (Frame.setReg ?_ (by simp [causeFields, whole])) (by simp [causeFields, whole])
      rw [h1]; exact (Frame.refl _ _ _).put (by simp [causeFields])
    exact f1.count (by simp)
  · rw [count_get_other _ _ (by ((first | unfold Apart | unfold InWord | skip); (try dsimp only [F.mstViolationsCount, F.mstFreezeCauseCode, R.mstViolations, R.mstFreezeCause, R.mstCauseDetail, R.mstCauseAddrLo, R.mstCauseAddrHi, F.mstCauseDetailDir, F.mstCauseDetailChainSrc, F.mstCauseDetailOwner]); (try dsimp only [evOut]); (first | decide | omega | (simp only [ne_eq]; omega) | (simp; omega)))) (by ((first | unfold Apart | unfold InWord | skip); (try dsimp only [F.mstViolationsCount, F.mstFreezeCauseCode, R.mstViolations, R.mstFreezeCause, R.mstCauseDetail, R.mstCauseAddrLo, R.mstCauseAddrHi, F.mstCauseDetailDir, F.mstCauseDetailChainSrc, F.mstCauseDetailOwner]); (try dsimp only [evOut]); (first | decide | omega | (simp only [ne_eq]; omega) | (simp; omega))))]
    have : a6.get (F.mstFreezeCauseCode m) = a3.get (F.mstFreezeCauseCode m) := by unfold State.get; rw [r6 _ (by (try dsimp only [F.mstViolationsCount, F.mstFreezeCauseCode, R.mstViolations, R.mstFreezeCause, R.mstCauseDetail, R.mstCauseAddrLo, R.mstCauseAddrHi, F.mstCauseDetailDir, F.mstCauseDetailChainSrc, F.mstCauseDetailOwner]); simp only [ne_eq]; omega)]
    rw [this]
    rw [g3 _ (by (try dsimp only [F.mstViolationsCount, F.mstFreezeCauseCode, R.mstViolations, R.mstFreezeCause, R.mstCauseDetail, R.mstCauseAddrLo, R.mstCauseAddrHi, F.mstCauseDetailDir, F.mstCauseDetailChainSrc, F.mstCauseDetailOwner]); simp only [ne_eq]; omega) (by (try dsimp only [F.mstViolationsCount, F.mstFreezeCauseCode, R.mstViolations, R.mstFreezeCause, R.mstCauseDetail, R.mstCauseAddrLo, R.mstCauseAddrHi, F.mstCauseDetailDir, F.mstCauseDetailChainSrc, F.mstCauseDetailOwner]); simp only [ne_eq]; omega), h1]; ((try simp only [on_eq]); (try simp (disch := ((first | unfold Apart | unfold InWord | skip); (try dsimp only [F.mstViolationsCount, F.mstFreezeCauseCode, R.mstViolations, R.mstFreezeCause, R.mstCauseDetail, R.mstCauseAddrLo, R.mstCauseAddrHi, F.mstCauseDetailDir, F.mstCauseDetailChainSrc, F.mstCauseDetailOwner]); (try dsimp only [evOut]); (first | decide | omega | (simp only [ne_eq]; omega) | (simp; omega)))) only [State.get_put_same, State.get_put_other, State.get_mk, State.get_emit, State.get_bumpFree, State.get_setActReg, State.get_putAct, State.get_setWritten, State.get_setLanded, State.get_clearWritten, State.setChan_get, State.setOut_get, State.setTime_get, State.setEddy_get, State.setHost_get, State.setLane_get, State.setSideband_get, State.setPurser_get, State.setPower_get, State.setSlot_get, State.setCopy_get, State.setPort_get, State.setTx_get, State.setRx_get, State.setSwap_get, State.setHoldByte_get, State.setTbl_get, State.setXfer_get, State.setChunk_get, State.setOdrv_get, State.setPix_get, State.setRegion_get, State.setMapUse_get, State.setWear_get, State.setSync_get, State.setFn_get, State.setCal_get, State.puts_cons, State.puts_nil])); rfl
  · rw [rc _ _ (by (try dsimp only [F.mstViolationsCount, F.mstFreezeCauseCode, R.mstViolations, R.mstFreezeCause, R.mstCauseDetail, R.mstCauseAddrLo, R.mstCauseAddrHi, F.mstCauseDetailDir, F.mstCauseDetailChainSrc, F.mstCauseDetailOwner]); omega), r6 _ (by (try dsimp only [F.mstViolationsCount, F.mstFreezeCauseCode, R.mstViolations, R.mstFreezeCause, R.mstCauseDetail, R.mstCauseAddrLo, R.mstCauseAddrHi, F.mstCauseDetailDir, F.mstCauseDetailChainSrc, F.mstCauseDetailOwner]); omega), h3, State.reg_setReg_other _ _ (by (try dsimp only [F.mstViolationsCount, F.mstFreezeCauseCode, R.mstViolations, R.mstFreezeCause, R.mstCauseDetail, R.mstCauseAddrLo, R.mstCauseAddrHi, F.mstCauseDetailDir, F.mstCauseDetailChainSrc, F.mstCauseDetailOwner]); omega), State.reg_setReg_same]
  · rw [rc _ _ (by (try dsimp only [F.mstViolationsCount, F.mstFreezeCauseCode, R.mstViolations, R.mstFreezeCause, R.mstCauseDetail, R.mstCauseAddrLo, R.mstCauseAddrHi, F.mstCauseDetailDir, F.mstCauseDetailChainSrc, F.mstCauseDetailOwner]); omega), r6 _ (by (try dsimp only [F.mstViolationsCount, F.mstFreezeCauseCode, R.mstViolations, R.mstFreezeCause, R.mstCauseDetail, R.mstCauseAddrLo, R.mstCauseAddrHi, F.mstCauseDetailDir, F.mstCauseDetailChainSrc, F.mstCauseDetailOwner]); omega), h3, State.reg_setReg_same]
  · rw [count_get_other _ _ (by ((first | unfold Apart | unfold InWord | skip); (try dsimp only [F.mstViolationsCount, F.mstFreezeCauseCode, R.mstViolations, R.mstFreezeCause, R.mstCauseDetail, R.mstCauseAddrLo, R.mstCauseAddrHi, F.mstCauseDetailDir, F.mstCauseDetailChainSrc, F.mstCauseDetailOwner]); (try dsimp only [evOut]); (first | decide | omega | (simp only [ne_eq]; omega) | (simp; omega)))) (by ((first | unfold Apart | unfold InWord | skip); (try dsimp only [F.mstViolationsCount, F.mstFreezeCauseCode, R.mstViolations, R.mstFreezeCause, R.mstCauseDetail, R.mstCauseAddrLo, R.mstCauseAddrHi, F.mstCauseDetailDir, F.mstCauseDetailChainSrc, F.mstCauseDetailOwner]); (try dsimp only [evOut]); (first | decide | omega | (simp only [ne_eq]; omega) | (simp; omega)))), h6]; ((try simp only [on_eq]); (try simp (disch := ((first | unfold Apart | unfold InWord | skip); (try dsimp only [F.mstViolationsCount, F.mstFreezeCauseCode, R.mstViolations, R.mstFreezeCause, R.mstCauseDetail, R.mstCauseAddrLo, R.mstCauseAddrHi, F.mstCauseDetailDir, F.mstCauseDetailChainSrc, F.mstCauseDetailOwner]); (try dsimp only [evOut]); (first | decide | omega | (simp only [ne_eq]; omega) | (simp; omega)))) only [State.get_put_same, State.get_put_other, State.get_mk, State.get_emit, State.get_bumpFree, State.get_setActReg, State.get_putAct, State.get_setWritten, State.get_setLanded, State.get_clearWritten, State.setChan_get, State.setOut_get, State.setTime_get, State.setEddy_get, State.setHost_get, State.setLane_get, State.setSideband_get, State.setPurser_get, State.setPower_get, State.setSlot_get, State.setCopy_get, State.setPort_get, State.setTx_get, State.setRx_get, State.setSwap_get, State.setHoldByte_get, State.setTbl_get, State.setXfer_get, State.setChunk_get, State.setOdrv_get, State.setPix_get, State.setRegion_get, State.setMapUse_get, State.setWear_get, State.setSync_get, State.setFn_get, State.setCal_get, State.puts_cons, State.puts_nil])); cases write <;> rfl
  · rw [count_get_other _ _ (by ((first | unfold Apart | unfold InWord | skip); (try dsimp only [F.mstViolationsCount, F.mstFreezeCauseCode, R.mstViolations, R.mstFreezeCause, R.mstCauseDetail, R.mstCauseAddrLo, R.mstCauseAddrHi, F.mstCauseDetailDir, F.mstCauseDetailChainSrc, F.mstCauseDetailOwner]); (try dsimp only [evOut]); (first | decide | omega | (simp only [ne_eq]; omega) | (simp; omega)))) (by ((first | unfold Apart | unfold InWord | skip); (try dsimp only [F.mstViolationsCount, F.mstFreezeCauseCode, R.mstViolations, R.mstFreezeCause, R.mstCauseDetail, R.mstCauseAddrLo, R.mstCauseAddrHi, F.mstCauseDetailDir, F.mstCauseDetailChainSrc, F.mstCauseDetailOwner]); (try dsimp only [evOut]); (first | decide | omega | (simp only [ne_eq]; omega) | (simp; omega)))), h6]; ((try simp only [on_eq]); (try simp (disch := ((first | unfold Apart | unfold InWord | skip); (try dsimp only [F.mstViolationsCount, F.mstFreezeCauseCode, R.mstViolations, R.mstFreezeCause, R.mstCauseDetail, R.mstCauseAddrLo, R.mstCauseAddrHi, F.mstCauseDetailDir, F.mstCauseDetailChainSrc, F.mstCauseDetailOwner]); (try dsimp only [evOut]); (first | decide | omega | (simp only [ne_eq]; omega) | (simp; omega)))) only [State.get_put_same, State.get_put_other, State.get_mk, State.get_emit, State.get_bumpFree, State.get_setActReg, State.get_putAct, State.get_setWritten, State.get_setLanded, State.get_clearWritten, State.setChan_get, State.setOut_get, State.setTime_get, State.setEddy_get, State.setHost_get, State.setLane_get, State.setSideband_get, State.setPurser_get, State.setPower_get, State.setSlot_get, State.setCopy_get, State.setPort_get, State.setTx_get, State.setRx_get, State.setSwap_get, State.setHoldByte_get, State.setTbl_get, State.setXfer_get, State.setChunk_get, State.setOdrv_get, State.setPix_get, State.setRegion_get, State.setMapUse_get, State.setWear_get, State.setSync_get, State.setFn_get, State.setCal_get, State.puts_cons, State.puts_nil])); rfl
  · rw [count_get_other _ _ (by ((first | unfold Apart | unfold InWord | skip); (try dsimp only [F.mstViolationsCount, F.mstFreezeCauseCode, R.mstViolations, R.mstFreezeCause, R.mstCauseDetail, R.mstCauseAddrLo, R.mstCauseAddrHi, F.mstCauseDetailDir, F.mstCauseDetailChainSrc, F.mstCauseDetailOwner]); (try dsimp only [evOut]); (first | decide | omega | (simp only [ne_eq]; omega) | (simp; omega)))) (by ((first | unfold Apart | unfold InWord | skip); (try dsimp only [F.mstViolationsCount, F.mstFreezeCauseCode, R.mstViolations, R.mstFreezeCause, R.mstCauseDetail, R.mstCauseAddrLo, R.mstCauseAddrHi, F.mstCauseDetailDir, F.mstCauseDetailChainSrc, F.mstCauseDetailOwner]); (try dsimp only [evOut]); (first | decide | omega | (simp only [ne_eq]; omega) | (simp; omega)))), h6, ← ho2]; ((try simp only [on_eq]); (try simp (disch := ((first | unfold Apart | unfold InWord | skip); (try dsimp only [F.mstViolationsCount, F.mstFreezeCauseCode, R.mstViolations, R.mstFreezeCause, R.mstCauseDetail, R.mstCauseAddrLo, R.mstCauseAddrHi, F.mstCauseDetailDir, F.mstCauseDetailChainSrc, F.mstCauseDetailOwner]); (try dsimp only [evOut]); (first | decide | omega | (simp only [ne_eq]; omega) | (simp; omega)))) only [State.get_put_same, State.get_put_other, State.get_mk, State.get_emit, State.get_bumpFree, State.get_setActReg, State.get_putAct, State.get_setWritten, State.get_setLanded, State.get_clearWritten, State.setChan_get, State.setOut_get, State.setTime_get, State.setEddy_get, State.setHost_get, State.setLane_get, State.setSideband_get, State.setPurser_get, State.setPower_get, State.setSlot_get, State.setCopy_get, State.setPort_get, State.setTx_get, State.setRx_get, State.setSwap_get, State.setHoldByte_get, State.setTbl_get, State.setXfer_get, State.setChunk_get, State.setOdrv_get, State.setPix_get, State.setRegion_get, State.setMapUse_get, State.setWear_get, State.setSync_get, State.setFn_get, State.setCal_get, State.puts_cons, State.puts_nil])); rfl
  · rw [count_get _ _ _ (by ((first | unfold Apart | unfold InWord | skip); (try dsimp only [F.mstViolationsCount, F.mstFreezeCauseCode, R.mstViolations, R.mstFreezeCause, R.mstCauseDetail, R.mstCauseAddrLo, R.mstCauseAddrHi, F.mstCauseDetailDir, F.mstCauseDetailChainSrc, F.mstCauseDetailOwner]); (try dsimp only [evOut]); (first | decide | omega | (simp only [ne_eq]; omega) | (simp; omega)))), h6]
    rw [State.get_put_other _ (by ((first | unfold Apart | unfold InWord | skip); (try dsimp only [F.mstViolationsCount, F.mstFreezeCauseCode, R.mstViolations, R.mstFreezeCause, R.mstCauseDetail, R.mstCauseAddrLo, R.mstCauseAddrHi, F.mstCauseDetailDir, F.mstCauseDetailChainSrc, F.mstCauseDetailOwner]); (try dsimp only [evOut]); (first | decide | omega | (simp only [ne_eq]; omega) | (simp; omega)))) (by ((first | unfold Apart | unfold InWord | skip); (try dsimp only [F.mstViolationsCount, F.mstFreezeCauseCode, R.mstViolations, R.mstFreezeCause, R.mstCauseDetail, R.mstCauseAddrLo, R.mstCauseAddrHi, F.mstCauseDetailDir, F.mstCauseDetailChainSrc, F.mstCauseDetailOwner]); (try dsimp only [evOut]); (first | decide | omega | (simp only [ne_eq]; omega) | (simp; omega)))), State.get_put_other _ (by ((first | unfold Apart | unfold InWord | skip); (try dsimp only [F.mstViolationsCount, F.mstFreezeCauseCode, R.mstViolations, R.mstFreezeCause, R.mstCauseDetail, R.mstCauseAddrLo, R.mstCauseAddrHi, F.mstCauseDetailDir, F.mstCauseDetailChainSrc, F.mstCauseDetailOwner]); (try dsimp only [evOut]); (first | decide | omega | (simp only [ne_eq]; omega) | (simp; omega)))) (by ((first | unfold Apart | unfold InWord | skip); (try dsimp only [F.mstViolationsCount, F.mstFreezeCauseCode, R.mstViolations, R.mstFreezeCause, R.mstCauseDetail, R.mstCauseAddrLo, R.mstCauseAddrHi, F.mstCauseDetailDir, F.mstCauseDetailChainSrc, F.mstCauseDetailOwner]); (try dsimp only [evOut]); (first | decide | omega | (simp only [ne_eq]; omega) | (simp; omega)))), State.get_put_other _ (by ((first | unfold Apart | unfold InWord | skip); (try dsimp only [F.mstViolationsCount, F.mstFreezeCauseCode, R.mstViolations, R.mstFreezeCause, R.mstCauseDetail, R.mstCauseAddrLo, R.mstCauseAddrHi, F.mstCauseDetailDir, F.mstCauseDetailChainSrc, F.mstCauseDetailOwner]); (try dsimp only [evOut]); (first | decide | omega | (simp only [ne_eq]; omega) | (simp; omega)))) (by ((first | unfold Apart | unfold InWord | skip); (try dsimp only [F.mstViolationsCount, F.mstFreezeCauseCode, R.mstViolations, R.mstFreezeCause, R.mstCauseDetail, R.mstCauseAddrLo, R.mstCauseAddrHi, F.mstCauseDetailDir, F.mstCauseDetailChainSrc, F.mstCauseDetailOwner]); (try dsimp only [evOut]); (first | decide | omega | (simp only [ne_eq]; omega) | (simp; omega)))),
      g3 _ (by (try dsimp only [F.mstViolationsCount, F.mstFreezeCauseCode, R.mstViolations, R.mstFreezeCause, R.mstCauseDetail, R.mstCauseAddrLo, R.mstCauseAddrHi, F.mstCauseDetailDir, F.mstCauseDetailChainSrc, F.mstCauseDetailOwner]); simp only [ne_eq]; omega) (by (try dsimp only [F.mstViolationsCount, F.mstFreezeCauseCode, R.mstViolations, R.mstFreezeCause, R.mstCauseDetail, R.mstCauseAddrLo, R.mstCauseAddrHi, F.mstCauseDetailDir, F.mstCauseDetailChainSrc, F.mstCauseDetailOwner]); simp only [ne_eq]; omega), h1, State.get_put_other _ (by ((first | unfold Apart | unfold InWord | skip); (try dsimp only [F.mstViolationsCount, F.mstFreezeCauseCode, R.mstViolations, R.mstFreezeCause, R.mstCauseDetail, R.mstCauseAddrLo, R.mstCauseAddrHi, F.mstCauseDetailDir, F.mstCauseDetailChainSrc, F.mstCauseDetailOwner]); (try dsimp only [evOut]); (first | decide | omega | (simp only [ne_eq]; omega) | (simp; omega)))) (by ((first | unfold Apart | unfold InWord | skip); (try dsimp only [F.mstViolationsCount, F.mstFreezeCauseCode, R.mstViolations, R.mstFreezeCause, R.mstCauseDetail, R.mstCauseAddrLo, R.mstCauseAddrHi, F.mstCauseDetailDir, F.mstCauseDetailChainSrc, F.mstCauseDetailOwner]); (try dsimp only [evOut]); (first | decide | omega | (simp only [ne_eq]; omega) | (simp; omega))))]; rfl

theorem fabricDown_power (s : State) : s.fabricDown.power = { s.power with fabricOff := true } := by
  unfold State.fabricDown; simp only [State.puts_cons, State.puts_nil, State.setPower, State.put_power, State.setPurser]

def slackOne (enter : Bool) (t : State) (n : Nat) : State := if t.running n then t else t.setOut n fun o => { o with inSlack := enter }

theorem slackOne_spec (e : Bool) {s t : State} {P : List Part} (h : Frame [] P s t) (n : Nat) (hn : n < 4) (hm : ∀ n, n < 4 → Part.output n ∈ P) :
    Frame [] P s (slackOne e t n) ∧ (∀ k, (slackOne e t n).running k = t.running k) ∧
      ∀ m, (slackOne e t n).outs[m]? = if m = n ∧ t.running n = false then t.outs[m]?.map fun o => { o with inSlack := e } else t.outs[m]? := by
  unfold slackOne
  cases hr : t.running n with
  | true => rw [if_pos rfl]; exact ⟨h, fun _ => rfl, fun m => by rw [if_neg (by simp)]⟩
  | false =>
    rw [if_neg (by decide)]
    refine ⟨State.setOut_frame h _ _ (hm n hn), ?_, ?_⟩
    · intro k; unfold State.running State.on; rw [State.setOut_get]
    · intro m
      show (updAt t.outs n fun o => { o with inSlack := e })[m]? = _
      by_cases hmn : m = n
      · subst hmn; rw [if_pos ⟨rfl, rfl⟩]
        cases ho : t.outs[m]? with
        | some o => rw [updAt_some ho]; rfl
        | none =>
          have := List.getElem?_eq_none_iff.1 ho
          rw [List.getElem?_eq_none_iff.2]; rfl
          simpa [updAt] using this
      · rw [if_neg (fun c => hmn c.1)]
        exact updAt_other _ _ _ _ (fun c => hmn c.symm)

theorem slackFold (e : Bool) (s : State) : ∃ u, (List.range 4).foldl (slackOne e) s = u ∧ Frame [] [.output 0, .output 1, .output 2, .output 3] s u ∧
    ∀ n o, n < 4 → s.outs[n]? = some o → u.outs[n]? = some (if s.running n then o else { o with inSlack := e }) := by
  refine ⟨_, rfl, ?_⟩
  rw [show List.range 4 = [0, 1, 2, 3] from rfl]
  simp only [List.foldl_cons, List.foldl_nil]
  have hm : ∀ n, n < 4 → Part.output n ∈ [Part.output 0, .output 1, .output 2, .output 3] := by
    intro n hn
    have : n = 0 ∨ n = 1 ∨ n = 2 ∨ n = 3 := by omega
    rcases this with rfl | rfl | rfl | rfl <;> simp
  obtain ⟨f0, r0, o0⟩ := slackOne_spec e (Frame.refl [] _ s) 0 (by omega) hm
  obtain ⟨f1, r1, o1⟩ := slackOne_spec e f0 1 (by omega) hm
  obtain ⟨f2, r2, o2⟩ := slackOne_spec e f1 2 (by omega) hm
  obtain ⟨f3, r3, o3⟩ := slackOne_spec e f2 3 (by omega) hm
  refine ⟨f3, ?_⟩
  intro n o hn ho
  have : n = 0 ∨ n = 1 ∨ n = 2 ∨ n = 3 := by omega
  rcases this with rfl | rfl | rfl | rfl
  · cases hr : s.running 0 <;> simp [o3, o2, o1, o0, ho, hr]
  · cases hr : s.running 1 <;> simp [o3, o2, o1, o0, r0, ho, hr]
  · cases hr : s.running 2 <;> simp [o3, o2, o1, o0, r0, r1, ho, hr]
  · cases hr : s.running 3 <;> simp [o3, o2, o1, o0, r0, r1, r2, ho, hr]

structure Alike (u w : State) : Prop where
  time : w.time = u.time
  cal : w.cal = u.cal
  otp : w.otp = u.otp
  host : w.host = u.host
  purser : w.purser = u.purser
  sst : w.sst = u.sst
  chain : w.chain = u.chain
  dma : w.dma = u.dma
  eddys : w.eddys = u.eddys
  lanes : w.lanes = u.lanes
  power : w.power = u.power
  pending : w.pending = u.pending
  bytes : w.hold.bytes = u.hold.bytes
  unk : w.hold.unknownBanks = u.hold.unknownBanks
  known : w.hold.knownWords = u.hold.knownWords

theorem Alike.refl (s : State) : Alike s s := ⟨rfl, rfl, rfl, rfl, rfl, rfl, rfl, rfl, rfl, rfl, rfl, rfl, rfl, rfl, rfl⟩

theorem Alike.trans {a b c : State} (h : Alike a b) (k : Alike b c) : Alike a c :=
  ⟨k.1.trans h.1, k.2.trans h.2, k.3.trans h.3, k.4.trans h.4, k.5.trans h.5, k.6.trans h.6, k.7.trans h.7, k.8.trans h.8, k.9.trans h.9, k.10.trans h.10,
    k.11.trans h.11, k.12.trans h.12, k.13.trans h.13, k.14.trans h.14, k.15.trans h.15⟩

theorem Alike.setReg (s : State) (a : Nat) (w : Word) : Alike s (s.setReg a w) := ⟨rfl, rfl, rfl, rfl, rfl, rfl, rfl, rfl, rfl, rfl, rfl, rfl, rfl, rfl, rfl⟩

theorem Alike.put (s : State) (f : Field) (v : Nat) : Alike s (s.put f v) := Alike.setReg _ _ _

theorem Alike.foldl {α : Type} {f : State → α → State} (hf : ∀ t x, Alike t (f t x)) (l : List α) (s : State) : Alike s (l.foldl f s) := by
  induction l generalizing s with
  | nil => exact Alike.refl s
  | cons a l ih => exact (hf s a).trans (ih (f s a))

theorem Alike.puts (s : State) (l : List (Field × Nat)) : Alike s (s.puts l) := by
  induction l generalizing s with
  | nil => rw [State.puts_nil]; exact Alike.refl s
  | cons a l ih => rw [State.puts_cons]; exact (Alike.put s a.1 a.2).trans (ih _)

theorem Alike.repair (s : State) (r : Repair) : Alike s (s.applyRepair r) := by
  cases r with
  | row b r =>
    unfold State.applyRepair; dsimp only
    have := Alike.put s (F.holdOwnerRowsUsed b) (s.get (F.holdOwnerRowsUsed b) + 1)
    generalize s.put (F.holdOwnerRowsUsed b) (s.get (F.holdOwnerRowsUsed b) + 1) = t at this ⊢
    exact ⟨this.1, this.2, this.3, this.4, this.5, this.6, this.7, this.8, this.9, this.10, this.11, this.12, rfl, rfl, rfl⟩
  | bank b =>
    unfold State.applyRepair; dsimp only
    have := Alike.puts s [(F.holdOwnerReliefBank b, 1), (F.holdRepairStatusBanksFree, s.get F.holdRepairStatusBanksFree - 1)]
    generalize s.puts [(F.holdOwnerReliefBank b, 1), (F.holdRepairStatusBanksFree, s.get F.holdRepairStatusBanksFree - 1)] = t at this ⊢
    exact ⟨this.1, this.2, this.3, this.4, this.5, this.6, this.7, this.8, this.9, this.10, this.11, this.12, rfl, rfl, rfl⟩

theorem Alike.act (s : State) (a : Nat) (w : Word) : Alike s (s.setActReg a w) := ⟨rfl, rfl, rfl, rfl, rfl, rfl, rfl, rfl, rfl, rfl, rfl, rfl, rfl, rfl, rfl⟩

theorem Alike.lock (s old : State) (n : Nat) : Alike s (s.keepLock old n) := by
  unfold State.keepLock; split
  · exact Alike.refl s
  · dsimp only
    have h1 : Alike s ((lockKeys n).foldl (fun t a =>
      let u := (t.keepReg old a).setActReg a (old.actReg a)
      let v := if old.isWritten a then u.setWritten a else u
      if old.hasLanded a then v.setLanded a else v) s) := by
      apply Alike.foldl
      intro t a
      have h : Alike t ((t.keepReg old a).setActReg a (old.actReg a)) := (Alike.setReg _ _ _).trans (Alike.act _ _ _)
      dsimp only
      have hw : ∀ u : State, Alike u (u.setWritten a) := fun u => ⟨rfl, rfl, rfl, rfl, rfl, rfl, rfl, rfl, rfl, rfl, rfl, rfl, rfl, rfl, rfl⟩
      have hl : ∀ u : State, Alike u (u.setLanded a) := fun u => ⟨rfl, rfl, rfl, rfl, rfl, rfl, rfl, rfl, rfl, rfl, rfl, rfl, rfl, rfl, rfl⟩
      split <;> split
      · exact (h.trans (hw _)).trans (hl _)
      · exact h.trans (hl _)
      · exact h.trans (hw _)
      · exact h
    refine h1.trans ?_
    generalize (lockKeys n).foldl (fun t a =>
      let u := (t.keepReg old a).setActReg a (old.actReg a)
      let v := if old.isWritten a then u.setWritten a else u
      if old.hasLanded a then v.setLanded a else v) s = t
    have h2 : ∀ a b, Alike t (t.setLocked a b true) := by
      intro a b; unfold State.setLocked; exact Alike.foldl (fun t k => Alike.put _ _ _) _ _
    refine (h2 (old.get (F.unifLockRangeFirstBank n)) (old.get (F.unifLockRangeBankCount n))).trans ?_
    exact ⟨rfl, rfl, rfl, rfl, rfl, rfl, rfl, rfl, rfl, rfl, rfl, rfl, rfl, rfl, rfl⟩

end Sys2Proof.Machine
end

