-- ==== Sys2Proof/Laws/Keeps.lean ====
section
/-!
SUPPORT. What every operation keeps (Keeps): its base, for changes of the state's fields and for the shapes programs are written
in. Each operation has its own lemma after that, in the files of Laws/Keeps.
-/

set_option Elab.async false
set_option linter.all false

namespace Sys2Proof.Machine

theorem OtpState.kept_refl (a : OtpState) : a.kept a := ⟨id, fun _ h => h, fun _ h => h, Nat.le_refl _⟩

theorem OtpState.kept_trans {a b c : OtpState} (h : a.kept b) (k : b.kept c) : a.kept c :=
  ⟨fun x => k.1 (h.1 x), fun v x => k.2.1 v (h.2.1 v x), fun v x => k.2.2.1 v (h.2.2.1 v x), Nat.le_trans h.2.2.2 k.2.2.2⟩

theorem Keeps.refl (s : State) : Keeps s s := ⟨rfl, id, OtpState.kept_refl _, ⟨[], rfl⟩, Nat.le_refl _⟩

theorem Keeps.trans {r s t : State} (h : Keeps r s) (k : Keeps s t) : Keeps r t :=
  ⟨k.queue.trans h.queue, fun i => k.inv (h.inv i), OtpState.kept_trans h.fuses k.fuses,
    let ⟨a, ha⟩ := h.sent
    let ⟨b, hb⟩ := k.sent
    ⟨b ++ a, by rw [hb, ha, List.append_assoc]⟩, Nat.le_trans h.free k.free⟩

variable {r s : State}

@[simp] theorem updAt_length {β : Type} (l : List β) (i : Nat) (f : β → β) : (updAt l i f).length = l.length := by
  simp [updAt]

/-- Fields of the state changed that are neither stores in canonical form nor lists of units. -/
theorem Keeps.upd (h : Keeps r s) {written landed : List Nat} {hold : HoldState} {sst : SstState} {host : HostState}
    {purser : PurserState} {outs : List OutState} {lanes : List LaneState} {sidebands : List SbState} {dma : List DmaState}
    {dmaTurn : Nat} {eddys : List EddyState} {cal : CalState} {relief : ReliefState} {power : PowerState} {time : TimeState}
    {chain : ChainState} {freeCount : Nat}
    (hb : hold.bytes = s.hold.bytes := by rfl)
    (hf : s.freeCount ≤ freeCount := by first | exact Nat.le_refl _ | exact Nat.le_add_right _ _)
    (ho : outs.length = s.outs.length := by first | rfl | simp | (simp; rfl))
    (hl : lanes.length = s.lanes.length := by first | rfl | simp | (simp; rfl))
    (hs : sidebands.length = s.sidebands.length := by first | rfl | simp | (simp; rfl))
    (hd : dma.length = s.dma.length := by first | rfl | simp | (simp; rfl))
    (he : eddys.length = s.eddys.length := by first | rfl | simp | (simp; rfl))
    (hh : host.fns.length = s.host.fns.length := by first | rfl | simp | (simp; rfl))
    (hss : sst.slots.length = s.sst.slots.length := by first | rfl | simp | (simp; rfl))
    (hso : sst.outs.length = s.sst.outs.length := by first | rfl | simp | (simp; rfl))
    (hc : cal.copies.length = s.cal.copies.length := by first | rfl | simp | (simp; rfl))
    (ht : time.caps.length = s.time.caps.length := by first | rfl | simp | (simp; rfl))
    (hp : chain.ports.length = s.chain.ports.length := by first | rfl | simp | (simp; rfl))
    (hx : chain.tx.length = s.chain.tx.length := by first | rfl | simp | (simp; rfl))
    (hr : chain.rx.length = s.chain.rx.length := by first | rfl | simp | (simp; rfl)) :
    Keeps r ⟨s.regs, s.active, written, landed, s.high, s.tables, hold, sst, host, purser, outs, lanes, sidebands, dma, dmaTurn,
      eddys, cal, s.otp, relief, power, time, chain, freeCount, s.out, s.pending⟩ :=
  ⟨h.queue, fun i => by
    have j := h.inv i
    refine ⟨?_, ?_⟩
    · simpa only [State.canonical, hb] using j.1
    · simpa only [State.shape, ho, hl, hs, hd, he, hh, hss, hso, hc, ht, hp, hx, hr] using j.2,
    h.fuses, h.sent, Nat.le_trans h.free hf⟩

/-- The register file set to a canonical one. -/
theorem Keeps.setRegs (h : Keeps r s) {m : List (Nat × Word)} (w : sparseWf resetOf 0 s.regs = true → sparseWf resetOf 0 m = true) :
    Keeps r { s with regs := m } :=
  ⟨h.queue, fun i => by
    obtain ⟨a, b⟩ := h.inv i
    refine ⟨?_, b⟩
    simp only [State.canonical, Bool.and_eq_true] at a ⊢
    exact ⟨⟨⟨⟨w a.1.1.1.1, a.1.1.1.2⟩, a.1.1.2⟩, a.1.2⟩, a.2⟩, h.fuses, h.sent, h.free⟩

/-- The active set set to a canonical one. -/
theorem Keeps.setActive (h : Keeps r s) {m : List (Nat × Word)}
    (w : sparseWf resetOf 0 s.active = true → sparseWf resetOf 0 m = true) : Keeps r { s with active := m } :=
  ⟨h.queue, fun i => by
    obtain ⟨a, b⟩ := h.inv i
    refine ⟨?_, b⟩
    simp only [State.canonical, Bool.and_eq_true] at a ⊢
    exact ⟨⟨⟨⟨a.1.1.1.1, w a.1.1.1.2⟩, a.1.1.2⟩, a.1.2⟩, a.2⟩, h.fuses, h.sent, h.free⟩

/-- The holding registers set to canonical ones. -/
theorem Keeps.setHigh (h : Keeps r s) {m : List (Nat × Word)}
    (w : sparseWf (fun _ => 0) 0 s.high = true → sparseWf (fun _ => 0) 0 m = true) : Keeps r { s with high := m } :=
  ⟨h.queue, fun i => by
    obtain ⟨a, b⟩ := h.inv i
    refine ⟨?_, b⟩
    simp only [State.canonical, Bool.and_eq_true] at a ⊢
    exact ⟨⟨⟨⟨a.1.1.1.1, a.1.1.1.2⟩, w a.1.1.2⟩, a.1.2⟩, a.2⟩, h.fuses, h.sent, h.free⟩

/-- The tables set to canonical ones. -/
theorem Keeps.setTables (h : Keeps r s) {m : List (Nat × Nat)}
    (w : sparseWf (fun _ => 0) 0 s.tables = true → sparseWf (fun _ => 0) 0 m = true) : Keeps r { s with tables := m } :=
  ⟨h.queue, fun i => by
    obtain ⟨a, b⟩ := h.inv i
    refine ⟨?_, b⟩
    simp only [State.canonical, Bool.and_eq_true] at a ⊢
    exact ⟨⟨⟨⟨a.1.1.1.1, a.1.1.1.2⟩, a.1.1.2⟩, w a.1.2⟩, a.2⟩, h.fuses, h.sent, h.free⟩

/-- The Hold changed, its bytes to canonical ones. -/
theorem Keeps.setHold (h : Keeps r s) {x : HoldState} (w : Memory.wf s.hold.bytes = true → Memory.wf x.bytes = true) :
    Keeps r { s with hold := x } :=
  ⟨h.queue, fun i => by
    obtain ⟨a, b⟩ := h.inv i
    refine ⟨?_, b⟩
    simp only [State.canonical, Bool.and_eq_true] at a ⊢
    exact ⟨⟨⟨⟨a.1.1.1.1, a.1.1.1.2⟩, a.1.1.2⟩, a.1.2⟩, w a.2⟩, h.fuses, h.sent, h.free⟩

/-- The Hold's state set to one with canonical bytes. -/
theorem Keeps.setHoldTo (h : Keeps r s) {x : HoldState} (w : r.Inv → Memory.wf x.bytes = true) : Keeps r { s with hold := x } :=
  ⟨h.queue, fun i => by
    obtain ⟨a, b⟩ := h.inv i
    refine ⟨?_, b⟩
    simp only [State.canonical, Bool.and_eq_true] at a ⊢
    exact ⟨a.1, w i⟩, h.fuses, h.sent, h.free⟩

/-- The fuses set to ones that keep what is blown. -/
theorem Keeps.setOtp (h : Keeps r s) {o : OtpState} (k : s.otp.kept o) : Keeps r { s with otp := o } :=
  ⟨h.queue, h.inv, OtpState.kept_trans h.fuses k, h.sent, h.free⟩

/-! The shapes programs are written in. -/

theorem Keeps.ite {a b : State} (h : Keeps r a) (k : Keeps r b) {c : Prop} [Decidable c] : Keeps r (if c then a else b) := by
  split <;> assumption

theorem Keeps.foldl {β : Type} {f : State → β → State} {l : List β} (h : Keeps r s)
    (hf : ∀ t x, Keeps r t → Keeps r (f t x)) : Keeps r (l.foldl f s) := by
  induction l generalizing s with
  | nil => exact h
  | cons x l ih => exact ih (hf _ _ h)

/-- A fold that carries something beside the state. -/
theorem Keeps.foldl_fst {β γ : Type} {f : State × γ → β → State × γ} {l : List β} {p : State × γ} (h : Keeps r p.1)
    (hf : ∀ q x, Keeps r q.1 → Keeps r (f q x).1) : Keeps r (l.foldl f p).1 := by
  induction l generalizing p with
  | nil => exact h
  | cons x l ih => exact ih (hf _ _ h)

/-- An outcome that is a next state from which everything is kept: every command's. -/
def KeepsOut (r : State) (o : Host.Outcome State Fault Refusal) : Prop := ∃ t, o = .next t ∧ Keeps r t

theorem KeepsOut.next {t : State} (h : Keeps r t) : KeepsOut r (.next t) := ⟨t, rfl, h⟩

/-- An optional state that, when it is there, keeps everything. -/
def KeepsOpt (r : State) (o : Option State) : Prop := ∀ t, o = some t → Keeps r t

theorem KeepsOpt.none : KeepsOpt r none := fun _ e => nomatch e

theorem KeepsOpt.some {t : State} (h : Keeps r t) : KeepsOpt r (some t) := fun _ e => Option.some.inj e ▸ h

theorem KeepsOut.ite {a b : Host.Outcome State Fault Refusal} (h : KeepsOut r a) (k : KeepsOut r b) {c : Prop} [Decidable c] :
    KeepsOut r (if c then a else b) := by
  split <;> assumption

theorem KeepsOpt.ite {a b : Option State} (h : KeepsOpt r a) (k : KeepsOpt r b) {c : Prop} [Decidable c] :
    KeepsOpt r (if c then a else b) := by
  split <;> assumption

theorem KeepsOpt.orElse {a : Option State} {b : Option State} (h : KeepsOpt r a) (k : KeepsOpt r b) :
    KeepsOpt r (a.orElse fun _ => b) := by
  cases a with
  | none => exact k
  | some x => exact fun t e => h t e

end Sys2Proof.Machine
end

