-- ==== Sys2Proof/Laws/Keeps/Ops.lean ====
section
/-!
SUPPORT. What the operations of Machine/Ops.lean keep.
-/

set_option Elab.async false
set_option linter.all false

namespace Sys2Proof.Machine

theorem State.setReg_keeps {r s : State} (h : Keeps r s) (a : Nat) (w : Word) : Keeps r (s.setReg a w) :=
  h.setRegs fun i => sparseWf_set _ _ i

theorem State.setActReg_keeps {r s : State} (h : Keeps r s) (a : Nat) (w : Word) : Keeps r (s.setActReg a w) :=
  h.setActive fun i => sparseWf_set _ _ i

theorem State.put_keeps {r s : State} (h : Keeps r s) (f : Field) (v : Nat) :
    Keeps r (State.put s f v) := by
  unfold State.put
  repeat' first
    | with_reducible assumption
    | with_reducible apply State.setReg_keeps
    | with_reducible refine Keeps.ite ?_ ?_
    | with_reducible refine Keeps.foldl ?_ ?_
    | with_reducible refine Keeps.foldl_fst ?_ ?_
    | intro _
    | split
    | dsimp only
    | rfl
    | refine Keeps.upd ?_
    | simp only [updAt_length, List.length_map]

theorem State.puts_keeps {r s : State} (h : Keeps r s) (l : List (Field × Nat)) :
    Keeps r (State.puts s l) := by
  unfold State.puts
  repeat' first
    | with_reducible assumption
    | with_reducible apply State.put_keeps
    | with_reducible refine Keeps.ite ?_ ?_
    | with_reducible refine Keeps.foldl ?_ ?_
    | with_reducible refine Keeps.foldl_fst ?_ ?_
    | intro _
    | split
    | dsimp only
    | rfl
    | refine Keeps.upd ?_
    | simp only [updAt_length, List.length_map]

theorem State.putAct_keeps {r s : State} (h : Keeps r s) (f : Field) (v : Nat) :
    Keeps r (State.putAct s f v) := by
  unfold State.putAct
  repeat' first
    | with_reducible assumption
    | with_reducible apply State.setActReg_keeps
    | with_reducible refine Keeps.ite ?_ ?_
    | with_reducible refine Keeps.foldl ?_ ?_
    | with_reducible refine Keeps.foldl_fst ?_ ?_
    | intro _
    | split
    | dsimp only
    | rfl
    | refine Keeps.upd ?_
    | simp only [updAt_length, List.length_map]

theorem State.count_keeps {r s : State} (h : Keeps r s) (f : Field) (n : Nat) :
    Keeps r (State.count s f n) := by
  unfold State.count
  repeat' first
    | with_reducible assumption
    | with_reducible apply State.put_keeps
    | with_reducible refine Keeps.ite ?_ ?_
    | with_reducible refine Keeps.foldl ?_ ?_
    | with_reducible refine Keeps.foldl_fst ?_ ?_
    | intro _
    | split
    | dsimp only
    | rfl
    | refine Keeps.upd ?_
    | simp only [updAt_length, List.length_map]

theorem State.setWritten_keeps {r s : State} (h : Keeps r s) (a : Nat) :
    Keeps r (State.setWritten s a) := by
  unfold State.setWritten
  repeat' first
    | with_reducible assumption
    | with_reducible refine Keeps.ite ?_ ?_
    | with_reducible refine Keeps.foldl ?_ ?_
    | with_reducible refine Keeps.foldl_fst ?_ ?_
    | intro _
    | split
    | dsimp only
    | rfl
    | refine Keeps.upd ?_
    | simp only [updAt_length, List.length_map]

theorem State.setLanded_keeps {r s : State} (h : Keeps r s) (a : Nat) :
    Keeps r (State.setLanded s a) := by
  unfold State.setLanded
  repeat' first
    | with_reducible assumption
    | with_reducible refine Keeps.ite ?_ ?_
    | with_reducible refine Keeps.foldl ?_ ?_
    | with_reducible refine Keeps.foldl_fst ?_ ?_
    | intro _
    | split
    | dsimp only
    | rfl
    | refine Keeps.upd ?_
    | simp only [updAt_length, List.length_map]

theorem State.clearWritten_keeps {r s : State} (h : Keeps r s) (a : Nat) :
    Keeps r (State.clearWritten s a) := by
  unfold State.clearWritten
  repeat' first
    | with_reducible assumption
    | with_reducible refine Keeps.ite ?_ ?_
    | with_reducible refine Keeps.foldl ?_ ?_
    | with_reducible refine Keeps.foldl_fst ?_ ?_
    | intro _
    | split
    | dsimp only
    | rfl
    | refine Keeps.upd ?_
    | simp only [updAt_length, List.length_map]

theorem State.emit_keeps {r s : State} (h : Keeps r s) (m : Out) : Keeps r (s.emit m) :=
  ⟨h.queue, h.inv, h.fuses, let ⟨a, ha⟩ := h.sent; ⟨m :: a, by simp [State.emit, ha]⟩, h.free⟩

theorem State.bumpFree_keeps {r s : State} (h : Keeps r s) :
    Keeps r (State.bumpFree s) := by
  unfold State.bumpFree
  repeat' first
    | with_reducible assumption
    | with_reducible refine Keeps.ite ?_ ?_
    | with_reducible refine Keeps.foldl ?_ ?_
    | with_reducible refine Keeps.foldl_fst ?_ ?_
    | intro _
    | split
    | dsimp only
    | rfl
    | refine Keeps.upd ?_
    | simp only [updAt_length, List.length_map]

end Sys2Proof.Machine
end

