-- ==== Sys2Proof/Laws/Keeps/Flags.lean ====
section
/-!
SUPPORT. What the operations of Machine/Flags.lean keep.
-/

set_option Elab.async false
set_option linter.all false

namespace Sys2Proof.Machine

theorem State.setBit_keeps {r s : State} (h : Keeps r s) (a : Nat) (b : Nat) (v : Bool) :
    Keeps r (State.setBit s a b v) := by
  unfold State.setBit
  repeat' first
    | with_reducible assumption
    | with_reducible apply State.put_keeps
    | with_reducible refine Keeps.ite ?_ ?_
    | with_reducible refine Keeps.foldl ?_ ?_
    | with_reducible refine Keeps.foldl_fst ?_ ?_
    | intro _
    | split
    | dsimp only
    | rfl
    | refine Keeps.upd ?_
    | simp only [updAt_length, List.length_map]

theorem State.setPba_keeps {r s : State} (h : Keeps r s) (v : Nat) (b : Bool) :
    Keeps r (State.setPba s v b) := by
  unfold State.setPba
  repeat' first
    | with_reducible assumption
    | with_reducible refine Keeps.ite ?_ ?_
    | with_reducible refine Keeps.foldl ?_ ?_
    | with_reducible refine Keeps.foldl_fst ?_ ?_
    | intro _
    | split
    | dsimp only
    | rfl
    | refine Keeps.upd ?_
    | simp only [updAt_length, List.length_map]

theorem State.autoClear_keeps {r s : State} (h : Keeps r s) (v : Nat) :
    Keeps r (State.autoClear s v) := by
  unfold State.autoClear
  repeat' first
    | with_reducible assumption
    | with_reducible apply State.setBit_keeps
    | with_reducible refine Keeps.ite ?_ ?_
    | with_reducible refine Keeps.foldl ?_ ?_
    | with_reducible refine Keeps.foldl_fst ?_ ?_
    | intro _
    | split
    | dsimp only
    | rfl
    | refine Keeps.upd ?_
    | simp only [updAt_length, List.length_map]

theorem State.messageDue_keeps {r s : State} (h : Keeps r s) (src : Nat) :
    Keeps r (State.messageDue s src) := by
  unfold State.messageDue
  repeat' first
    | with_reducible assumption
    | with_reducible apply State.setPba_keeps
    | with_reducible apply State.emit_keeps
    | with_reducible apply State.setBit_keeps
    | with_reducible refine Keeps.ite ?_ ?_
    | with_reducible refine Keeps.foldl ?_ ?_
    | with_reducible refine Keeps.foldl_fst ?_ ?_
    | intro _
    | split
    | dsimp only
    | rfl
    | refine Keeps.upd ?_
    | simp only [updAt_length, List.length_map]

theorem State.raiseWith_keeps {r s : State} (h : Keeps r s) (src : Nat) (clearedNow : Bool) :
    Keeps r (State.raiseWith s src clearedNow) := by
  unfold State.raiseWith
  repeat' first
    | with_reducible assumption
    | with_reducible apply State.setBit_keeps
    | with_reducible apply State.messageDue_keeps
    | with_reducible refine Keeps.ite ?_ ?_
    | with_reducible refine Keeps.foldl ?_ ?_
    | with_reducible refine Keeps.foldl_fst ?_ ?_
    | intro _
    | split
    | dsimp only
    | rfl
    | refine Keeps.upd ?_
    | simp only [updAt_length, List.length_map]

theorem State.raise_keeps {r s : State} (h : Keeps r s) (src : Nat) :
    Keeps r (State.raise s src) := by
  unfold State.raise
  repeat' first
    | with_reducible assumption
    | with_reducible apply State.raiseWith_keeps
    | with_reducible refine Keeps.ite ?_ ?_
    | with_reducible refine Keeps.foldl ?_ ?_
    | with_reducible refine Keeps.foldl_fst ?_ ?_
    | intro _
    | split
    | dsimp only
    | rfl
    | refine Keeps.upd ?_
    | simp only [updAt_length, List.length_map]

theorem State.raiseIf_keeps {r s : State} (h : Keeps r s) (c : Bool) (src : Nat) :
    Keeps r (State.raiseIf s c src) := by
  unfold State.raiseIf
  repeat' first
    | with_reducible assumption
    | with_reducible apply State.raise_keeps
    | with_reducible refine Keeps.ite ?_ ?_
    | with_reducible refine Keeps.foldl ?_ ?_
    | with_reducible refine Keeps.foldl_fst ?_ ?_
    | intro _
    | split
    | dsimp only
    | rfl
    | refine Keeps.upd ?_
    | simp only [updAt_length, List.length_map]

theorem State.sendWaiting_keeps {r s : State} (h : Keeps r s) (f : Nat) :
    Keeps r (State.sendWaiting s f) := by
  unfold State.sendWaiting
  repeat' first
    | with_reducible assumption
    | with_reducible apply State.setBit_keeps
    | with_reducible apply State.messageDue_keeps
    | with_reducible refine Keeps.ite ?_ ?_
    | with_reducible refine Keeps.foldl ?_ ?_
    | with_reducible refine Keeps.foldl_fst ?_ ?_
    | intro _
    | split
    | dsimp only
    | rfl
    | refine Keeps.upd ?_
    | simp only [updAt_length, List.length_map]

theorem State.sendHeld_keeps {r s : State} (h : Keeps r s) (vs : List Nat) :
    Keeps r (State.sendHeld s vs) := by
  unfold State.sendHeld
  repeat' first
    | with_reducible assumption
    | with_reducible apply State.setPba_keeps
    | with_reducible apply State.emit_keeps
    | with_reducible apply State.autoClear_keeps
    | with_reducible refine Keeps.ite ?_ ?_
    | with_reducible refine Keeps.foldl ?_ ?_
    | with_reducible refine Keeps.foldl_fst ?_ ?_
    | intro _
    | split
    | dsimp only
    | rfl
    | refine Keeps.upd ?_
    | simp only [updAt_length, List.length_map]

theorem State.settlePba_keeps {r s : State} (h : Keeps r s) :
    Keeps r (State.settlePba s) := by
  unfold State.settlePba
  repeat' first
    | with_reducible assumption
    | with_reducible refine Keeps.ite ?_ ?_
    | with_reducible refine Keeps.foldl ?_ ?_
    | with_reducible refine Keeps.foldl_fst ?_ ?_
    | intro _
    | split
    | dsimp only
    | rfl
    | refine Keeps.upd ?_
    | simp only [updAt_length, List.length_map]

theorem State.logAer_keeps {r s : State} (h : Keeps r s) (f : Nat) (cor : Nat) (unc : Nat) :
    Keeps r (State.logAer s f cor unc) := by
  unfold State.logAer
  repeat' first
    | with_reducible assumption
    | with_reducible apply State.raiseIf_keeps
    | with_reducible refine Keeps.ite ?_ ?_
    | with_reducible refine Keeps.foldl ?_ ?_
    | with_reducible refine Keeps.foldl_fst ?_ ?_
    | intro _
    | split
    | dsimp only
    | rfl
    | refine Keeps.upd ?_
    | simp only [updAt_length, List.length_map]

theorem State.aerReply_keeps {r s : State} (h : Keeps r s) (f : Nat) (r' : BusReply) :
    Keeps r (State.aerReply s f r') := by
  unfold State.aerReply
  repeat' first
    | with_reducible assumption
    | with_reducible apply State.logAer_keeps
    | with_reducible refine Keeps.ite ?_ ?_
    | with_reducible refine Keeps.foldl ?_ ?_
    | with_reducible refine Keeps.foldl_fst ?_ ?_
    | intro _
    | split
    | dsimp only
    | rfl
    | refine Keeps.upd ?_
    | simp only [updAt_length, List.length_map]

theorem State.setLane_keeps {r s : State} (h : Keeps r s) (n : Nat) (f : LaneState → LaneState) :
    Keeps r (State.setLane s n f) := by
  unfold State.setLane
  repeat' first
    | with_reducible assumption
    | with_reducible refine Keeps.ite ?_ ?_
    | with_reducible refine Keeps.foldl ?_ ?_
    | with_reducible refine Keeps.foldl_fst ?_ ?_
    | intro _
    | split
    | dsimp only
    | rfl
    | refine Keeps.upd ?_
    | simp only [updAt_length, List.length_map]

theorem State.setTaps_keeps {r s : State} (h : Keeps r s) (n : Nat) (t : Taps) :
    Keeps r (State.setTaps s n t) := by
  unfold State.setTaps
  repeat' first
    | with_reducible assumption
    | with_reducible apply State.puts_keeps
    | with_reducible refine Keeps.ite ?_ ?_
    | with_reducible refine Keeps.foldl ?_ ?_
    | with_reducible refine Keeps.foldl_fst ?_ ?_
    | intro _
    | split
    | dsimp only
    | rfl
    | refine Keeps.upd ?_
    | simp only [updAt_length, List.length_map]

theorem State.endCal_keeps {r s : State} (h : Keeps r s) (n : Nat) (code : Nat) (t : Taps) :
    Keeps r (State.endCal s n code t) := by
  unfold State.endCal
  repeat' first
    | with_reducible assumption
    | with_reducible apply State.setLane_keeps
    | with_reducible apply State.put_keeps
    | with_reducible apply State.setTaps_keeps
    | with_reducible apply State.puts_keeps
    | with_reducible refine Keeps.ite ?_ ?_
    | with_reducible refine Keeps.foldl ?_ ?_
    | with_reducible refine Keeps.foldl_fst ?_ ?_
    | intro _
    | split
    | dsimp only
    | rfl
    | refine Keeps.upd ?_
    | simp only [updAt_length, List.length_map]

theorem State.abortCal_keeps {r s : State} (h : Keeps r s) (n : Nat) :
    Keeps r (State.abortCal s n) := by
  unfold State.abortCal
  repeat' first
    | with_reducible assumption
    | with_reducible apply State.endCal_keeps
    | with_reducible refine Keeps.ite ?_ ?_
    | with_reducible refine Keeps.foldl ?_ ?_
    | with_reducible refine Keeps.foldl_fst ?_ ?_
    | intro _
    | split
    | dsimp only
    | rfl
    | refine Keeps.upd ?_
    | simp only [updAt_length, List.length_map]

theorem State.abortRoute_keeps {r s : State} (h : Keeps r s) (r' : Nat) :
    Keeps r (State.abortRoute s r') := by
  unfold State.abortRoute
  repeat' first
    | with_reducible assumption
    | with_reducible apply State.abortCal_keeps
    | with_reducible refine Keeps.ite ?_ ?_
    | with_reducible refine Keeps.foldl ?_ ?_
    | with_reducible refine Keeps.foldl_fst ?_ ?_
    | intro _
    | split
    | dsimp only
    | rfl
    | refine Keeps.upd ?_
    | simp only [updAt_length, List.length_map]

theorem State.noteStall_keeps {r s : State} (h : Keeps r s) (n : Nat) :
    Keeps r (State.noteStall s n) := by
  unfold State.noteStall
  repeat' first
    | with_reducible assumption
    | with_reducible refine Keeps.ite ?_ ?_
    | with_reducible refine Keeps.foldl ?_ ?_
    | with_reducible refine Keeps.foldl_fst ?_ ?_
    | intro _
    | split
    | dsimp only
    | rfl
    | refine Keeps.upd ?_
    | simp only [updAt_length, List.length_map]

theorem State.setFrozen_keeps {r s : State} (h : Keeps r s) (m : Nat) (b : Bool) :
    Keeps r (State.setFrozen s m b) := by
  unfold State.setFrozen
  repeat' first
    | with_reducible assumption
    | with_reducible apply State.put_keeps
    | with_reducible apply State.setBit_keeps
    | with_reducible apply State.noteStall_keeps
    | with_reducible apply State.abortRoute_keeps
    | with_reducible refine Keeps.ite ?_ ?_
    | with_reducible refine Keeps.foldl ?_ ?_
    | with_reducible refine Keeps.foldl_fst ?_ ?_
    | intro _
    | split
    | dsimp only
    | rfl
    | refine Keeps.upd ?_
    | simp only [updAt_length, List.length_map]

theorem State.latchCause_keeps {r s : State} (h : Keeps r s) (m : Nat) (code : Nat) (addr : Nat) (write : Bool) (chainSrc : Nat) :
    Keeps r (State.latchCause s m code addr write chainSrc) := by
  unfold State.latchCause
  repeat' first
    | with_reducible assumption
    | with_reducible apply State.put_keeps
    | with_reducible apply State.setReg_keeps
    | with_reducible apply State.count_keeps
    | with_reducible refine Keeps.ite ?_ ?_
    | with_reducible refine Keeps.foldl ?_ ?_
    | with_reducible refine Keeps.foldl_fst ?_ ?_
    | intro _
    | split
    | dsimp only
    | rfl
    | refine Keeps.upd ?_
    | simp only [updAt_length, List.length_map]

theorem State.violate_keeps {r s : State} (h : Keeps r s) (m : Nat) (code : Nat) (addr : Nat) (write : Bool) (chainSrc : Nat) :
    Keeps r (State.violate s m code addr write chainSrc) := by
  unfold State.violate
  repeat' first
    | with_reducible assumption
    | with_reducible apply State.put_keeps
    | with_reducible apply State.latchCause_keeps
    | with_reducible apply State.raise_keeps
    | with_reducible apply State.setFrozen_keeps
    | with_reducible refine Keeps.ite ?_ ?_
    | with_reducible refine Keeps.foldl ?_ ?_
    | with_reducible refine Keeps.foldl_fst ?_ ?_
    | intro _
    | split
    | dsimp only
    | rfl
    | refine Keeps.upd ?_
    | simp only [updAt_length, List.length_map]

theorem State.npPart_keeps {r s : State} (h : Keeps r s) (n : Int) :
    Keeps r (State.npPart s n) := by
  unfold State.npPart
  repeat' first
    | with_reducible assumption
    | with_reducible apply State.put_keeps
    | with_reducible refine Keeps.ite ?_ ?_
    | with_reducible refine Keeps.foldl ?_ ?_
    | with_reducible refine Keeps.foldl_fst ?_ ?_
    | intro _
    | split
    | dsimp only
    | rfl
    | refine Keeps.upd ?_
    | simp only [updAt_length, List.length_map]

end Sys2Proof.Machine
end

