-- ==== Sys2Proof/Laws/Keeps/Access.lean ====
section
/-!
SUPPORT. What the operations of Machine/Access.lean keep.
-/

set_option Elab.async false
set_option linter.all false

namespace Sys2Proof.Machine

theorem State.winterDrop_keeps {r s : State} (h : Keeps r s) :
    Keeps r (State.winterDrop s) := by
  unfold State.winterDrop
  repeat' first
    | with_reducible assumption
    | with_reducible apply State.count_keeps
    | with_reducible refine Keeps.ite ?_ ?_
    | with_reducible refine Keeps.foldl ?_ ?_
    | with_reducible refine Keeps.foldl_fst ?_ ?_
    | intro _
    | split
    | dsimp only
    | rfl
    | refine Keeps.upd ?_
    | simp only [updAt_length, List.length_map]

theorem State.writeBy_keeps {r s : State} (h : Keeps r s) (w : Writer) (addr : Nat) (k : State → State) (hk : ∀ t, Keeps r t → Keeps r (k t)) :
    Keeps r (State.writeBy s w addr k) := by
  unfold State.writeBy
  repeat' first
    | with_reducible assumption
    | apply hk
    | with_reducible apply State.winterDrop_keeps
    | with_reducible apply State.violate_keeps
    | with_reducible refine Keeps.ite ?_ ?_
    | with_reducible refine Keeps.foldl ?_ ?_
    | with_reducible refine Keeps.foldl_fst ?_ ?_
    | intro _
    | split
    | dsimp only
    | rfl
    | refine Keeps.upd ?_
    | simp only [updAt_length, List.length_map]

theorem State.writeJudged_keeps {r s : State} (h : Keeps r s) (w : Writer) (addr : Nat) (bad : State → Bool) (code : Nat) (latch : Nat) (k : State → State) (hk : ∀ t, Keeps r t → Keeps r (k t)) :
    Keeps r (State.writeJudged s w addr bad code latch k) := by
  unfold State.writeJudged
  repeat' first
    | with_reducible assumption
    | apply hk
    | with_reducible apply State.violate_keeps
    | with_reducible apply State.writeBy_keeps
    | with_reducible refine Keeps.ite ?_ ?_
    | with_reducible refine Keeps.foldl ?_ ?_
    | with_reducible refine Keeps.foldl_fst ?_ ?_
    | intro _
    | split
    | dsimp only
    | rfl
    | refine Keeps.upd ?_
    | simp only [updAt_length, List.length_map]

theorem State.readBy_keeps {r s : State} (h : Keeps r s) (w : Writer) (addr : Nat) (k : State → Word × State) (hk : ∀ t, Keeps r t → Keeps r (k t).2) :
    Keeps r (State.readBy s w addr k) := by
  unfold State.readBy
  repeat' first
    | with_reducible assumption
    | apply hk
    | with_reducible apply State.winterDrop_keeps
    | with_reducible apply State.emit_keeps
    | with_reducible refine Keeps.ite ?_ ?_
    | with_reducible refine Keeps.foldl ?_ ?_
    | with_reducible refine Keeps.foldl_fst ?_ ?_
    | intro _
    | split
    | dsimp only
    | rfl
    | refine Keeps.upd ?_
    | simp only [updAt_length, List.length_map]

theorem State.plainWrite_keeps {r s : State} (h : Keeps r s) (key : Nat) (data : Word) (hwSet : Word) :
    Keeps r (State.plainWrite s key data hwSet) := by
  unfold State.plainWrite
  repeat' first
    | with_reducible assumption
    | with_reducible apply State.setReg_keeps
    | with_reducible apply State.setWritten_keeps
    | with_reducible refine Keeps.ite ?_ ?_
    | with_reducible refine Keeps.foldl ?_ ?_
    | with_reducible refine Keeps.foldl_fst ?_ ?_
    | intro _
    | split
    | dsimp only
    | rfl
    | refine Keeps.upd ?_
    | simp only [updAt_length, List.length_map]

end Sys2Proof.Machine
end

