-- ==== Sys2Proof/Laws/Keeps/Chase.lean ====
section
/-!
SUPPORT. What the operations of Machine/Chase.lean keep.
-/

set_option Elab.async false
set_option linter.all false

namespace Sys2Proof.Machine

theorem State.setOut_keeps {r s : State} (h : Keeps r s) (n : Nat) (f : OutState → OutState) :
    Keeps r (State.setOut s n f) := by
  unfold State.setOut
  repeat' first
    | with_reducible assumption
    | with_reducible refine Keeps.ite ?_ ?_
    | with_reducible refine Keeps.foldl ?_ ?_
    | with_reducible refine Keeps.foldl_fst ?_ ?_
    | intro _
    | split
    | dsimp only
    | rfl
    | refine Keeps.upd ?_
    | simp only [updAt_length, List.length_map]

theorem State.completeRow_keeps {r s : State} (h : Keeps r s) (n : Nat) (f : SrcFormat) (p : Nat) (row : Nat) :
    Keeps r (State.completeRow s n f p row) := by
  unfold State.completeRow
  repeat' first
    | with_reducible assumption
    | with_reducible apply State.setOut_keeps
    | with_reducible apply State.raiseIf_keeps
    | with_reducible refine Keeps.ite ?_ ?_
    | with_reducible refine Keeps.foldl ?_ ?_
    | with_reducible refine Keeps.foldl_fst ?_ ?_
    | intro _
    | split
    | dsimp only
    | rfl
    | refine Keeps.upd ?_
    | simp only [updAt_length, List.length_map]

theorem State.chaseWrite_keeps {r s : State} (h : Keeps r s) (w : Nat) (hit : Nat → Bool) :
    Keeps r (State.chaseWrite s w hit) := by
  unfold State.chaseWrite
  repeat' first
    | with_reducible assumption
    | with_reducible apply State.completeRow_keeps
    | with_reducible refine Keeps.ite ?_ ?_
    | with_reducible refine Keeps.foldl ?_ ?_
    | with_reducible refine Keeps.foldl_fst ?_ ?_
    | intro _
    | split
    | dsimp only
    | rfl
    | refine Keeps.upd ?_
    | simp only [updAt_length, List.length_map]

end Sys2Proof.Machine
end

