-- ==== Sys2Proof/Laws/Keeps/Hold.lean ====
section
/-!
SUPPORT. What the operations of Machine/Hold.lean keep.
-/

set_option Elab.async false
set_option linter.all false

namespace Sys2Proof.Machine

theorem State.setHoldByte_keeps {r s : State} (h : Keeps r s) (a : Nat) (b : Byte) : Keeps r (s.setHoldByte a b) :=
  h.setHold fun w => sparseWf_set (f := fun _ => 0) _ _ w

theorem State.setHoldBytes_keeps {r s : State} (h : Keeps r s) (a : Nat) (l : List Byte) : Keeps r (s.setHoldBytes a l) := by
  induction l generalizing s a with
  | nil => exact h
  | cons b l ih => exact ih (State.setHoldByte_keeps h a b) (a + 1)

theorem State.knowWord_keeps {r s : State} (h : Keeps r s) (w : Nat) :
    Keeps r (State.knowWord s w) := by
  unfold State.knowWord
  repeat' first
    | with_reducible assumption
    | with_reducible apply State.setHoldBytes_keeps
    | with_reducible refine Keeps.ite ?_ ?_
    | with_reducible refine Keeps.foldl ?_ ?_
    | with_reducible refine Keeps.foldl_fst ?_ ?_
    | intro _
    | split
    | dsimp only
    | rfl
    | refine Keeps.upd ?_
    | simp only [updAt_length, List.length_map]

theorem State.setUncorr_keeps {r s : State} (h : Keeps r s) (w : Nat) (b : Bool) :
    Keeps r (State.setUncorr s w b) := by
  unfold State.setUncorr
  repeat' first
    | with_reducible assumption
    | with_reducible refine Keeps.ite ?_ ?_
    | with_reducible refine Keeps.foldl ?_ ?_
    | with_reducible refine Keeps.foldl_fst ?_ ?_
    | intro _
    | split
    | dsimp only
    | rfl
    | refine Keeps.upd ?_
    | simp only [updAt_length, List.length_map]

theorem State.loseWord_keeps {r s : State} (h : Keeps r s) (w : Nat) :
    Keeps r (State.loseWord s w) := by
  unfold State.loseWord
  repeat' first
    | with_reducible assumption
    | with_reducible apply State.knowWord_keeps
    | with_reducible apply State.setHoldBytes_keeps
    | with_reducible apply State.setUncorr_keeps
    | with_reducible refine Keeps.ite ?_ ?_
    | with_reducible refine Keeps.foldl ?_ ?_
    | with_reducible refine Keeps.foldl_fst ?_ ?_
    | intro _
    | split
    | dsimp only
    | rfl
    | refine Keeps.upd ?_
    | simp only [updAt_length, List.length_map]

theorem State.storeRun_keeps {r s : State} (h : Keeps r s) (a : Nat) (l : List Byte) :
    Keeps r (State.storeRun s a l) := by
  unfold State.storeRun
  repeat' first
    | with_reducible assumption
    | with_reducible apply State.knowWord_keeps
    | with_reducible apply State.setHoldBytes_keeps
    | with_reducible apply State.setUncorr_keeps
    | with_reducible apply State.chaseWrite_keeps
    | with_reducible refine Keeps.ite ?_ ?_
    | with_reducible refine Keeps.foldl ?_ ?_
    | with_reducible refine Keeps.foldl_fst ?_ ?_
    | intro _
    | split
    | dsimp only
    | rfl
    | refine Keeps.upd ?_
    | simp only [updAt_length, List.length_map]

theorem State.noteUncorr_keeps {r s : State} (h : Keeps r s) (w : Nat) :
    Keeps r (State.noteUncorr s w) := by
  unfold State.noteUncorr
  repeat' first
    | with_reducible assumption
    | with_reducible apply State.put_keeps
    | with_reducible apply State.count_keeps
    | with_reducible apply State.raise_keeps
    | with_reducible refine Keeps.ite ?_ ?_
    | with_reducible refine Keeps.foldl ?_ ?_
    | with_reducible refine Keeps.foldl_fst ?_ ?_
    | intro _
    | split
    | dsimp only
    | rfl
    | refine Keeps.upd ?_
    | simp only [updAt_length, List.length_map]

theorem State.noteRun_keeps {r s : State} (h : Keeps r s) (a : Nat) (n : Nat) :
    Keeps r (State.noteRun s a n) := by
  unfold State.noteRun
  repeat' first
    | with_reducible assumption
    | with_reducible apply State.noteUncorr_keeps
    | with_reducible refine Keeps.ite ?_ ?_
    | with_reducible refine Keeps.foldl ?_ ?_
    | with_reducible refine Keeps.foldl_fst ?_ ?_
    | intro _
    | split
    | dsimp only
    | rfl
    | refine Keeps.upd ?_
    | simp only [updAt_length, List.length_map]

theorem State.performWrite_keeps {r s : State} (h : Keeps r s) (a : HoldAccess) :
    Keeps r (State.performWrite s a) := by
  unfold State.performWrite
  repeat' first
    | with_reducible assumption
    | with_reducible apply State.setHoldByte_keeps
    | with_reducible apply State.knowWord_keeps
    | with_reducible apply State.setUncorr_keeps
    | with_reducible apply State.chaseWrite_keeps
    | with_reducible refine Keeps.ite ?_ ?_
    | with_reducible refine Keeps.foldl ?_ ?_
    | with_reducible refine Keeps.foldl_fst ?_ ?_
    | intro _
    | split
    | dsimp only
    | rfl
    | refine Keeps.upd ?_
    | simp only [updAt_length, List.length_map]

theorem State.conflict_keeps {r s : State} (h : Keeps r s) (m : Nat) (n : Nat) :
    Keeps r (State.conflict s m n) := by
  unfold State.conflict
  repeat' first
    | with_reducible assumption
    | with_reducible apply State.count_keeps
    | with_reducible refine Keeps.ite ?_ ?_
    | with_reducible refine Keeps.foldl ?_ ?_
    | with_reducible refine Keeps.foldl_fst ?_ ?_
    | intro _
    | split
    | dsimp only
    | rfl
    | refine Keeps.upd ?_
    | simp only [updAt_length, List.length_map]

theorem State.noteCollision_keeps {r s : State} (h : Keeps r s) (w : Nat) (earlier : Nat) (later : Nat) :
    Keeps r (State.noteCollision s w earlier later) := by
  unfold State.noteCollision
  repeat' first
    | with_reducible assumption
    | with_reducible apply State.count_keeps
    | with_reducible apply State.put_keeps
    | with_reducible apply State.conflict_keeps
    | with_reducible apply State.raise_keeps
    | with_reducible refine Keeps.ite ?_ ?_
    | with_reducible refine Keeps.foldl ?_ ?_
    | with_reducible refine Keeps.foldl_fst ?_ ?_
    | intro _
    | split
    | dsimp only
    | rfl
    | refine Keeps.upd ?_
    | simp only [updAt_length, List.length_map]

theorem State.beginRepair_keeps {r s : State} (h : Keeps r s) (r' : Repair) (cause : Nat) (slot : Option Nat) :
    Keeps r (State.beginRepair s r' cause slot) := by
  unfold State.beginRepair
  repeat' first
    | with_reducible assumption
    | with_reducible apply State.put_keeps
    | with_reducible refine Keeps.ite ?_ ?_
    | with_reducible refine Keeps.foldl ?_ ?_
    | with_reducible refine Keeps.foldl_fst ?_ ?_
    | intro _
    | split
    | dsimp only
    | rfl
    | refine Keeps.upd ?_
    | simp only [updAt_length, List.length_map]

theorem State.nextRepair_keeps {r s : State} (h : Keeps r s) :
    Keeps r (State.nextRepair s) := by
  unfold State.nextRepair
  repeat' first
    | with_reducible assumption
    | with_reducible apply State.raise_keeps
    | with_reducible apply State.beginRepair_keeps
    | with_reducible refine Keeps.ite ?_ ?_
    | with_reducible refine Keeps.foldl ?_ ?_
    | with_reducible refine Keeps.foldl_fst ?_ ?_
    | intro _
    | split
    | dsimp only
    | rfl
    | refine Keeps.upd ?_
    | simp only [updAt_length, List.length_map]

theorem State.wantRepair_keeps {r s : State} (h : Keeps r s) (r' : Repair) (cause : Nat) :
    Keeps r (State.wantRepair s r' cause) := by
  unfold State.wantRepair
  repeat' first
    | with_reducible assumption
    | with_reducible apply State.nextRepair_keeps
    | with_reducible refine Keeps.ite ?_ ?_
    | with_reducible refine Keeps.foldl ?_ ?_
    | with_reducible refine Keeps.foldl_fst ?_ ?_
    | intro _
    | split
    | dsimp only
    | rfl
    | refine Keeps.upd ?_
    | simp only [updAt_length, List.length_map]

theorem State.judgeBank_keeps {r s : State} (h : Keeps r s) (b : Nat) (cause : Nat) :
    Keeps r (State.judgeBank s b cause) := by
  unfold State.judgeBank
  repeat' first
    | with_reducible assumption
    | with_reducible apply State.raise_keeps
    | with_reducible apply State.wantRepair_keeps
    | with_reducible refine Keeps.ite ?_ ?_
    | with_reducible refine Keeps.foldl ?_ ?_
    | with_reducible refine Keeps.foldl_fst ?_ ?_
    | intro _
    | split
    | dsimp only
    | rfl
    | refine Keeps.upd ?_
    | simp only [updAt_length, List.length_map]

theorem State.rowWorn_keeps {r s : State} (h : Keeps r s) (b : Nat) (r' : Nat) (cause : Nat) :
    Keeps r (State.rowWorn s b r' cause) := by
  unfold State.rowWorn
  repeat' first
    | with_reducible assumption
    | with_reducible apply State.raise_keeps
    | with_reducible apply State.judgeBank_keeps
    | with_reducible apply State.wantRepair_keeps
    | with_reducible refine Keeps.ite ?_ ?_
    | with_reducible refine Keeps.foldl ?_ ?_
    | with_reducible refine Keeps.foldl_fst ?_ ?_
    | intro _
    | split
    | dsimp only
    | rfl
    | refine Keeps.upd ?_
    | simp only [updAt_length, List.length_map]

theorem State.noteCorrected_keeps {r s : State} (h : Keeps r s) (w : Nat) :
    Keeps r (State.noteCorrected s w) := by
  unfold State.noteCorrected
  repeat' first
    | with_reducible assumption
    | with_reducible apply State.count_keeps
    | with_reducible apply State.rowWorn_keeps
    | with_reducible refine Keeps.ite ?_ ?_
    | with_reducible refine Keeps.foldl ?_ ?_
    | with_reducible refine Keeps.foldl_fst ?_ ?_
    | intro _
    | split
    | dsimp only
    | rfl
    | refine Keeps.upd ?_
    | simp only [updAt_length, List.length_map]

theorem State.eccRead_keeps {r s : State} (h : Keeps r s) (a : HoldAccess) (ecc : Nat) :
    Keeps r (State.eccRead s a ecc).1 := by
  unfold State.eccRead
  repeat' first
    | with_reducible assumption
    | with_reducible apply State.loseWord_keeps
    | with_reducible apply State.noteUncorr_keeps
    | with_reducible apply State.noteCorrected_keeps
    | with_reducible refine Keeps.ite ?_ ?_
    | with_reducible refine Keeps.foldl ?_ ?_
    | with_reducible refine Keeps.foldl_fst ?_ ?_
    | intro _
    | split
    | dsimp only
    | rfl
    | refine Keeps.upd ?_
    | simp only [updAt_length, List.length_map]

theorem State.completerAbort_keeps {r s : State} (h : Keeps r s) (f : Nat) (c : Bool) :
    Keeps r (State.completerAbort s f c) := by
  unfold State.completerAbort
  repeat' first
    | with_reducible assumption
    | with_reducible apply State.logAer_keeps
    | with_reducible refine Keeps.ite ?_ ?_
    | with_reducible refine Keeps.foldl ?_ ?_
    | with_reducible refine Keeps.foldl_fst ?_ ?_
    | intro _
    | split
    | dsimp only
    | rfl
    | refine Keeps.upd ?_
    | simp only [updAt_length, List.length_map]

theorem State.completeRead_keeps {r s : State} (h : Keeps r s) (r' : BarRead) :
    Keeps r (State.completeRead s r') := by
  unfold State.completeRead
  repeat' first
    | with_reducible assumption
    | with_reducible apply State.emit_keeps
    | with_reducible apply State.completerAbort_keeps
    | with_reducible refine Keeps.ite ?_ ?_
    | with_reducible refine Keeps.foldl ?_ ?_
    | with_reducible refine Keeps.foldl_fst ?_ ?_
    | intro _
    | split
    | dsimp only
    | rfl
    | refine Keeps.upd ?_
    | simp only [updAt_length, List.length_map]

theorem State.barAnswer_keeps {r s : State} (h : Keeps r s) (f : Nat) (w : Nat) (code : Nat) (data : List Byte) :
    Keeps r (State.barAnswer s f w code data) := by
  unfold State.barAnswer
  repeat' first
    | with_reducible assumption
    | with_reducible apply State.emit_keeps
    | with_reducible apply State.completerAbort_keeps
    | with_reducible apply State.completeRead_keeps
    | with_reducible refine Keeps.ite ?_ ?_
    | with_reducible refine Keeps.foldl ?_ ?_
    | with_reducible refine Keeps.foldl_fst ?_ ?_
    | intro _
    | split
    | dsimp only
    | rfl
    | refine Keeps.upd ?_
    | simp only [updAt_length, List.length_map]

theorem State.respond_keeps {r s : State} (h : Keeps r s) (a : HoldAccess) (code : Nat) (busy : Bool) (data : List Byte) :
    Keeps r (State.respond s a code busy data) := by
  unfold State.respond
  repeat' first
    | with_reducible assumption
    | with_reducible apply State.barAnswer_keeps
    | with_reducible apply State.emit_keeps
    | with_reducible refine Keeps.ite ?_ ?_
    | with_reducible refine Keeps.foldl ?_ ?_
    | with_reducible refine Keeps.foldl_fst ?_ ?_
    | intro _
    | split
    | dsimp only
    | rfl
    | refine Keeps.upd ?_
    | simp only [updAt_length, List.length_map]

theorem State.performOne_keeps {r s : State} (h : Keeps r s) (a : HoldAccess) (ecc : Nat) (busy : Bool) :
    Keeps r (State.performOne s a ecc busy) := by
  unfold State.performOne
  repeat' first
    | with_reducible assumption
    | with_reducible apply State.performWrite_keeps
    | with_reducible apply State.respond_keeps
    | with_reducible apply State.eccRead_keeps
    | with_reducible refine Keeps.ite ?_ ?_
    | with_reducible refine Keeps.foldl ?_ ?_
    | with_reducible refine Keeps.foldl_fst ?_ ?_
    | intro _
    | split
    | dsimp only
    | rfl
    | refine Keeps.upd ?_
    | simp only [updAt_length, List.length_map]

theorem State.performPair_keeps {r s : State} (h : Keeps r s) (e : Peer) (l : Peer) :
    Keeps r (State.performPair s e l) := by
  unfold State.performPair
  repeat' first
    | with_reducible assumption
    | with_reducible apply State.performOne_keeps
    | with_reducible apply State.performWrite_keeps
    | with_reducible apply State.eccRead_keeps
    | with_reducible apply State.respond_keeps
    | with_reducible apply State.noteCollision_keeps
    | with_reducible refine Keeps.ite ?_ ?_
    | with_reducible refine Keeps.foldl ?_ ?_
    | with_reducible refine Keeps.foldl_fst ?_ ?_
    | intro _
    | split
    | dsimp only
    | rfl
    | refine Keeps.upd ?_
    | simp only [updAt_length, List.length_map]

theorem State.servedNow_keeps {r s : State} (h : Keeps r s) (p : Peer) :
    Keeps r (State.servedNow s p) := by
  unfold State.servedNow
  repeat' first
    | with_reducible assumption
    | with_reducible refine Keeps.ite ?_ ?_
    | with_reducible refine Keeps.foldl ?_ ?_
    | with_reducible refine Keeps.foldl_fst ?_ ?_
    | intro _
    | split
    | dsimp only
    | rfl
    | refine Keeps.upd ?_
    | simp only [updAt_length, List.length_map]

theorem State.servePeer_keeps {r s : State} (h : Keeps r s) (p : Peer) :
    Keeps r (State.servePeer s p) := by
  unfold State.servePeer
  repeat' first
    | with_reducible assumption
    | with_reducible apply State.servedNow_keeps
    | with_reducible apply State.performOne_keeps
    | with_reducible refine Keeps.ite ?_ ?_
    | with_reducible refine Keeps.foldl ?_ ?_
    | with_reducible refine Keeps.foldl_fst ?_ ?_
    | intro _
    | split
    | dsimp only
    | rfl
    | refine Keeps.upd ?_
    | simp only [updAt_length, List.length_map]

theorem State.contend_keeps {r s : State} (h : Keeps r s) (n : Nat) (l : List Peer) : Keeps r (State.contend n l s) := by
  induction n generalizing s l with
  | zero => exact h
  | succ n ih =>
    unfold State.contend
    repeat' first
      | with_reducible assumption
      | with_reducible refine ih ?_ _
      | with_reducible apply State.performPair_keeps
      | with_reducible apply State.servedNow_keeps
      | with_reducible apply State.servePeer_keeps
      | with_reducible apply State.conflict_keeps
      | with_reducible refine Keeps.ite ?_ ?_
      | with_reducible refine Keeps.foldl ?_ ?_
      | intro _
      | split
      | dsimp only

theorem State.passGate_keeps {r s : State} (h : Keeps r s) (p : Peer) :
    Keeps r (State.passGate s p).1 := by
  unfold State.passGate
  repeat' first
    | with_reducible assumption
    | with_reducible apply State.violate_keeps
    | with_reducible apply State.respond_keeps
    | with_reducible refine Keeps.ite ?_ ?_
    | with_reducible refine Keeps.foldl ?_ ?_
    | with_reducible refine Keeps.foldl_fst ?_ ?_
    | intro _
    | split
    | dsimp only
    | rfl
    | refine Keeps.upd ?_
    | simp only [updAt_length, List.length_map]

theorem State.yieldWindow_keeps {r s : State} (h : Keeps r s) :
    Keeps r (State.yieldWindow s) := by
  unfold State.yieldWindow
  repeat' first
    | with_reducible assumption
    | with_reducible apply State.count_keeps
    | with_reducible refine Keeps.ite ?_ ?_
    | with_reducible refine Keeps.foldl ?_ ?_
    | with_reducible refine Keeps.foldl_fst ?_ ?_
    | intro _
    | split
    | dsimp only
    | rfl
    | refine Keeps.upd ?_
    | simp only [updAt_length, List.length_map]

theorem State.purserMeets_keeps {r s : State} (h : Keeps r s) (p : Peer) :
    Keeps r (State.purserMeets s p) := by
  unfold State.purserMeets
  repeat' first
    | with_reducible assumption
    | with_reducible apply State.yieldWindow_keeps
    | with_reducible refine Keeps.ite ?_ ?_
    | with_reducible refine Keeps.foldl ?_ ?_
    | with_reducible refine Keeps.foldl_fst ?_ ?_
    | intro _
    | split
    | dsimp only
    | rfl
    | refine Keeps.upd ?_
    | simp only [updAt_length, List.length_map]

theorem State.presentAll_keeps {r s : State} (h : Keeps r s) (l : List Peer) :
    Keeps r (State.presentAll s l) := by
  unfold State.presentAll
  repeat' first
    | with_reducible assumption
    | with_reducible apply State.passGate_keeps
    | with_reducible apply State.purserMeets_keeps
    | with_reducible apply State.contend_keeps
    | with_reducible refine Keeps.ite ?_ ?_
    | with_reducible refine Keeps.foldl ?_ ?_
    | with_reducible refine Keeps.foldl_fst ?_ ?_
    | intro _
    | split
    | dsimp only
    | rfl
    | refine Keeps.upd ?_
    | simp only [updAt_length, List.length_map]

theorem State.takePeers_keeps {r s : State} (h : Keeps r s) (m : Nat) (a : Nat) (n : Nat) (write : Bool) :
    Keeps r (State.takePeers s m a n write).1 := by
  unfold State.takePeers
  repeat' first
    | with_reducible assumption
    | with_reducible apply State.passGate_keeps
    | with_reducible refine Keeps.ite ?_ ?_
    | with_reducible refine Keeps.foldl ?_ ?_
    | with_reducible refine Keeps.foldl_fst ?_ ?_
    | intro _
    | split
    | dsimp only
    | rfl
    | refine Keeps.upd ?_
    | simp only [updAt_length, List.length_map]

theorem State.eccRun_keeps {r s : State} (h : Keeps r s) (a : Nat) (n : Nat) :
    Keeps r (State.eccRun s a n) := by
  unfold State.eccRun
  repeat' first
    | with_reducible assumption
    | with_reducible apply State.loseWord_keeps
    | with_reducible apply State.noteCorrected_keeps
    | with_reducible refine Keeps.ite ?_ ?_
    | with_reducible refine Keeps.foldl ?_ ?_
    | with_reducible refine Keeps.foldl_fst ?_ ?_
    | intro _
    | split
    | dsimp only
    | rfl
    | refine Keeps.upd ?_
    | simp only [updAt_length, List.length_map]

theorem State.mixedRead_keeps {r : State} {q : State × List (Nat × List Byte)} (h : Keeps r q.1) (m : Nat) (p : Peer) :
    Keeps r (State.mixedRead q m p).1 :=
  State.noteCollision_keeps (State.respond_keeps (Keeps.upd (State.performWrite_keeps h _)) _ _ _ _) _ _ _

theorem State.readRun_keeps {r s : State} (h : Keeps r s) (m : Nat) (a : Nat) (n : Nat) :
    Keeps r (State.readRun s m a n).1 := by
  unfold State.readRun
  repeat' first
    | with_reducible assumption
    | with_reducible apply State.takePeers_keeps
    | with_reducible apply State.performOne_keeps
    | with_reducible apply State.noteCollision_keeps
    | with_reducible apply State.eccRun_keeps
    | with_reducible apply State.mixedRead_keeps
    | with_reducible refine Keeps.ite ?_ ?_
    | with_reducible refine Keeps.foldl ?_ ?_
    | with_reducible refine Keeps.foldl_fst ?_ ?_
    | intro _
    | split
    | dsimp only
    | rfl
    | refine Keeps.upd ?_
    | simp only [updAt_length, List.length_map]

theorem State.readRuns_keeps {r s : State} (h : Keeps r s) (m : Nat) (l : List (Nat × Nat)) :
    Keeps r (State.readRuns s m l).1 := by
  unfold State.readRuns
  repeat' first
    | with_reducible assumption
    | with_reducible apply State.readRun_keeps
    | with_reducible refine Keeps.ite ?_ ?_
    | with_reducible refine Keeps.foldl ?_ ?_
    | with_reducible refine Keeps.foldl_fst ?_ ?_
    | intro _
    | split
    | dsimp only
    | rfl
    | refine Keeps.upd ?_
    | simp only [updAt_length, List.length_map]

theorem readView_keeps {r : State} {q : State × List (Nat × List Byte)} (h : Keeps r q.1) : Keeps r (readView q) :=
  Keeps.foldl h fun _ _ k => State.setHoldBytes_keeps k _ _

theorem State.readAs_keeps {r s : State} (h : Keeps r s) (m : Nat) (a : Nat) (n : Nat) :
    Keeps r (State.readAs s m a n).2 := by
  unfold State.readAs
  repeat' first
    | with_reducible assumption
    | with_reducible apply State.violate_keeps
    | with_reducible apply State.readRun_keeps
    | with_reducible apply readView_keeps
    | with_reducible apply State.noteRun_keeps
    | with_reducible refine Keeps.ite ?_ ?_
    | with_reducible refine Keeps.foldl ?_ ?_
    | with_reducible refine Keeps.foldl_fst ?_ ?_
    | intro _
    | split
    | dsimp only
    | rfl
    | refine Keeps.upd ?_
    | simp only [updAt_length, List.length_map]

theorem State.readWhole_keeps {r s : State} (h : Keeps r s) (m : Nat) (a : Nat) (n : Nat) :
    Keeps r (State.readWhole s m a n).2 := by
  unfold State.readWhole
  repeat' first
    | with_reducible assumption
    | with_reducible apply State.readRun_keeps
    | with_reducible apply State.noteRun_keeps
    | with_reducible apply readView_keeps
    | with_reducible refine Keeps.ite ?_ ?_
    | with_reducible refine Keeps.foldl ?_ ?_
    | with_reducible refine Keeps.foldl_fst ?_ ?_
    | intro _
    | split
    | dsimp only
    | rfl
    | refine Keeps.upd ?_
    | simp only [updAt_length, List.length_map]

theorem State.peerRead_keeps {r s : State} (h : Keeps r s) (before : State) (p : Peer) (first : Bool) :
    Keeps r (State.peerRead s before p first) := by
  unfold State.peerRead
  repeat' first
    | with_reducible assumption
    | with_reducible apply State.eccRead_keeps
    | with_reducible apply State.respond_keeps
    | with_reducible apply State.performOne_keeps
    | with_reducible refine Keeps.ite ?_ ?_
    | with_reducible refine Keeps.foldl ?_ ?_
    | with_reducible refine Keeps.foldl_fst ?_ ?_
    | intro _
    | split
    | dsimp only
    | rfl
    | refine Keeps.upd ?_
    | simp only [updAt_length, List.length_map]

theorem State.writeRun_keeps {r s : State} (h : Keeps r s) (m : Nat) (a : Nat) (l : List Byte) :
    Keeps r (State.writeRun s m a l) := by
  unfold State.writeRun
  repeat' first
    | with_reducible assumption
    | with_reducible apply State.takePeers_keeps
    | with_reducible apply State.noteCollision_keeps
    | with_reducible apply State.performOne_keeps
    | with_reducible apply State.storeRun_keeps
    | with_reducible apply State.peerRead_keeps
    | with_reducible refine Keeps.ite ?_ ?_
    | with_reducible refine Keeps.foldl ?_ ?_
    | with_reducible refine Keeps.foldl_fst ?_ ?_
    | intro _
    | split
    | dsimp only
    | rfl
    | refine Keeps.upd ?_
    | simp only [updAt_length, List.length_map]

theorem State.storeNow_keeps {r s : State} (h : Keeps r s) (m : Nat) (a : Nat) (l : List Byte) :
    Keeps r (State.storeNow s m a l) := by
  unfold State.storeNow
  repeat' first
    | with_reducible assumption
    | with_reducible apply State.writeRun_keeps
    | with_reducible apply State.violate_keeps
    | with_reducible refine Keeps.ite ?_ ?_
    | with_reducible refine Keeps.foldl ?_ ?_
    | with_reducible refine Keeps.foldl_fst ?_ ?_
    | intro _
    | split
    | dsimp only
    | rfl
    | refine Keeps.upd ?_
    | simp only [updAt_length, List.length_map]

theorem State.storeAs_keeps {r s : State} (h : Keeps r s) (m : Nat) (a : Nat) (l : List Byte) :
    Keeps r (State.storeAs s m a l) := by
  unfold State.storeAs
  repeat' first
    | with_reducible assumption
    | with_reducible apply State.storeNow_keeps
    | with_reducible refine Keeps.ite ?_ ?_
    | with_reducible refine Keeps.foldl ?_ ?_
    | with_reducible refine Keeps.foldl_fst ?_ ?_
    | intro _
    | split
    | dsimp only
    | rfl
    | refine Keeps.upd ?_
    | simp only [updAt_length, List.length_map]

theorem State.releaseRuns_keeps {r s : State} (h : Keeps r s) :
    Keeps r (State.releaseRuns s) := by
  unfold State.releaseRuns
  repeat' first
    | with_reducible assumption
    | with_reducible apply State.conflict_keeps
    | with_reducible apply State.storeNow_keeps
    | with_reducible refine Keeps.ite ?_ ?_
    | with_reducible refine Keeps.foldl ?_ ?_
    | with_reducible refine Keeps.foldl_fst ?_ ?_
    | intro _
    | split
    | dsimp only
    | rfl
    | refine Keeps.upd ?_
    | simp only [updAt_length, List.length_map]

theorem State.releaseHeld_keeps {r s : State} (h : Keeps r s) (sel : HoldAccess → Bool) :
    Keeps r (State.releaseHeld s sel) := by
  unfold State.releaseHeld
  repeat' first
    | with_reducible assumption
    | with_reducible apply State.conflict_keeps
    | with_reducible apply State.presentAll_keeps
    | with_reducible apply State.releaseRuns_keeps
    | with_reducible refine Keeps.ite ?_ ?_
    | with_reducible refine Keeps.foldl ?_ ?_
    | with_reducible refine Keeps.foldl_fst ?_ ?_
    | intro _
    | split
    | dsimp only
    | rfl
    | refine Keeps.upd ?_
    | simp only [updAt_length, List.length_map]

theorem State.openPort_keeps {r s : State} (h : Keeps r s) (acts : Nat → Bool) (port : HoldPort) :
    Keeps r (State.openPort s acts port) := by
  unfold State.openPort
  repeat' first
    | with_reducible assumption
    | with_reducible apply State.conflict_keeps
    | with_reducible refine Keeps.ite ?_ ?_
    | with_reducible refine Keeps.foldl ?_ ?_
    | with_reducible refine Keeps.foldl_fst ?_ ?_
    | intro _
    | split
    | dsimp only
    | rfl
    | refine Keeps.upd ?_
    | simp only [updAt_length, List.length_map]

theorem State.closePort_keeps {r s : State} (h : Keeps r s) :
    Keeps r (State.closePort s) := by
  unfold State.closePort
  repeat' first
    | with_reducible assumption
    | with_reducible apply State.presentAll_keeps
    | with_reducible refine Keeps.ite ?_ ?_
    | with_reducible refine Keeps.foldl ?_ ?_
    | with_reducible refine Keeps.foldl_fst ?_ ?_
    | intro _
    | split
    | dsimp only
    | rfl
    | refine Keeps.upd ?_
    | simp only [updAt_length, List.length_map]

theorem State.throughPort_keeps {r s : State} (h : Keeps r s) (acts : Nat → Bool) (port : HoldPort) (k : State → State) (hk : ∀ t, Keeps r t → Keeps r (k t)) :
    Keeps r (State.throughPort s acts port k) := by
  unfold State.throughPort
  repeat' first
    | with_reducible assumption
    | apply hk
    | with_reducible apply State.openPort_keeps
    | with_reducible apply State.closePort_keeps
    | with_reducible refine Keeps.ite ?_ ?_
    | with_reducible refine Keeps.foldl ?_ ?_
    | with_reducible refine Keeps.foldl_fst ?_ ?_
    | intro _
    | split
    | dsimp only
    | rfl
    | refine Keeps.upd ?_
    | simp only [updAt_length, List.length_map]

theorem State.presentAccess_keeps {r s : State} (h : Keeps r s) (a : HoldAccess) (arb : Arbitration) :
    Keeps r (State.presentAccess s a arb) := by
  unfold State.presentAccess
  repeat' first
    | with_reducible assumption
    | with_reducible apply State.presentAll_keeps
    | with_reducible apply State.releaseHeld_keeps
    | with_reducible refine Keeps.ite ?_ ?_
    | with_reducible refine Keeps.foldl ?_ ?_
    | with_reducible refine Keeps.foldl_fst ?_ ?_
    | intro _
    | split
    | dsimp only
    | rfl
    | refine Keeps.upd ?_
    | simp only [updAt_length, List.length_map]

theorem State.beginFerry_keeps {r s : State} (h : Keeps r s) (bank : Nat) (target : Nat) :
    Keeps r (State.beginFerry s bank target) := by
  unfold State.beginFerry
  repeat' first
    | with_reducible assumption
    | with_reducible apply State.put_keeps
    | with_reducible refine Keeps.ite ?_ ?_
    | with_reducible refine Keeps.foldl ?_ ?_
    | with_reducible refine Keeps.foldl_fst ?_ ?_
    | intro _
    | split
    | dsimp only
    | rfl
    | refine Keeps.upd ?_
    | simp only [updAt_length, List.length_map]

theorem State.ferryAtOnce_keeps {r s : State} (h : Keeps r s) (bank : Nat) :
    Keeps r (State.ferryAtOnce s bank) := by
  unfold State.ferryAtOnce
  repeat' first
    | with_reducible assumption
    | with_reducible apply State.put_keeps
    | with_reducible apply State.raise_keeps
    | with_reducible refine Keeps.ite ?_ ?_
    | with_reducible refine Keeps.foldl ?_ ?_
    | with_reducible refine Keeps.foldl_fst ?_ ?_
    | intro _
    | split
    | dsimp only
    | rfl
    | refine Keeps.upd ?_
    | simp only [updAt_length, List.length_map]

theorem State.structFerry_keeps {r s : State} (h : Keeps r s) (bank : Nat) (target : Nat) :
    Keeps r (State.structFerry s bank target) := by
  unfold State.structFerry
  repeat' first
    | with_reducible assumption
    | with_reducible apply State.ferryAtOnce_keeps
    | with_reducible apply State.beginFerry_keeps
    | with_reducible refine Keeps.ite ?_ ?_
    | with_reducible refine Keeps.foldl ?_ ?_
    | with_reducible refine Keeps.foldl_fst ?_ ?_
    | intro _
    | split
    | dsimp only
    | rfl
    | refine Keeps.upd ?_
    | simp only [updAt_length, List.length_map]

theorem State.endFerry_keeps {r s : State} (h : Keeps r s) (f : Ferry) (code : Nat) : Keeps r (s.endFerry f code) := by
  have h1 : Keeps r ((((s.put (F.holdOwnerOwner f.bank) f.target).put (F.holdFerryPending f.bank) 0).put
      (F.holdFerryLastCode f.bank) code).raise 192) :=
    State.raise_keeps (State.put_keeps (State.put_keeps (State.put_keeps h _ _) _ _) _ _) _
  unfold State.endFerry
  generalize ((((s.put (F.holdOwnerOwner f.bank) f.target).put (F.holdFerryPending f.bank) 0).put
      (F.holdFerryLastCode f.bank) code).raise 192) = s1 at h1 ⊢
  repeat' first
    | with_reducible assumption
    | with_reducible apply State.ferryAtOnce_keeps
    | with_reducible apply State.beginFerry_keeps
    | with_reducible apply State.releaseHeld_keeps
    | with_reducible refine Keeps.ite ?_ ?_
    | with_reducible refine Keeps.foldl ?_ ?_
    | intro _
    | split
    | dsimp only
    | rfl
    | refine Keeps.upd ?_

theorem State.drainBank_keeps {r s : State} (h : Keeps r s) (bank : Nat) :
    Keeps r (State.drainBank s bank) := by
  unfold State.drainBank
  repeat' first
    | with_reducible assumption
    | with_reducible apply State.performOne_keeps
    | with_reducible refine Keeps.ite ?_ ?_
    | with_reducible refine Keeps.foldl ?_ ?_
    | with_reducible refine Keeps.foldl_fst ?_ ?_
    | intro _
    | split
    | dsimp only
    | rfl
    | refine Keeps.upd ?_
    | simp only [updAt_length, List.length_map]

theorem State.cutBank_keeps {r s : State} (h : Keeps r s) (bank : Nat) (oldOwner : Nat) :
    Keeps r (State.cutBank s bank oldOwner) := by
  unfold State.cutBank
  repeat' first
    | with_reducible assumption
    | with_reducible apply State.performOne_keeps
    | with_reducible apply State.respond_keeps
    | with_reducible refine Keeps.ite ?_ ?_
    | with_reducible refine Keeps.foldl ?_ ?_
    | with_reducible refine Keeps.foldl_fst ?_ ?_
    | intro _
    | split
    | dsimp only
    | rfl
    | refine Keeps.upd ?_
    | simp only [updAt_length, List.length_map]

theorem State.clearRange_keeps {r s : State} (h : Keeps r s) (lo hi : Nat) : Keeps r (s.clearRange lo hi) :=
  h.setHold fun w => sparseWf_filter _ w

theorem State.losebank_keeps {r s : State} (h : Keeps r s) (b : Nat) :
    Keeps r (State.losebank s b) := by
  unfold State.losebank
  repeat' first
    | with_reducible assumption
    | with_reducible apply State.clearRange_keeps
    | with_reducible refine Keeps.ite ?_ ?_
    | with_reducible refine Keeps.foldl ?_ ?_
    | with_reducible refine Keeps.foldl_fst ?_ ?_
    | intro _
    | split
    | dsimp only
    | rfl
    | refine Keeps.upd ?_
    | simp only [updAt_length, List.length_map]

end Sys2Proof.Machine
end

