-- ==== Sys2Proof/Laws/Keeps/Channel.lean ====
section
/-!
SUPPORT. What the operations of Machine/Channel.lean keep.
-/

set_option Elab.async false
set_option linter.all false

namespace Sys2Proof.Machine

theorem State.setChan_keeps {r s : State} (h : Keeps r s) (ch : Nat) (f : DmaState → DmaState) :
    Keeps r (State.setChan s ch f) := by
  unfold State.setChan
  repeat' first
    | with_reducible assumption
    | with_reducible refine Keeps.ite ?_ ?_
    | with_reducible refine Keeps.foldl ?_ ?_
    | with_reducible refine Keeps.foldl_fst ?_ ?_
    | intro _
    | split
    | dsimp only
    | rfl
    | refine Keeps.upd ?_
    | simp only [updAt_length, List.length_map]

theorem State.chanHalt_keeps {r s : State} (h : Keeps r s) (ch : Nat) (code : Nat) (addr : Nat) (write : Bool) (hold : Bool) (desc : Bool) :
    Keeps r (State.chanHalt s ch code addr write hold desc) := by
  unfold State.chanHalt
  repeat' first
    | with_reducible assumption
    | with_reducible apply State.puts_keeps
    | with_reducible apply State.setChan_keeps
    | with_reducible apply State.raise_keeps
    | with_reducible refine Keeps.ite ?_ ?_
    | with_reducible refine Keeps.foldl ?_ ?_
    | with_reducible refine Keeps.foldl_fst ?_ ?_
    | intro _
    | split
    | dsimp only
    | rfl
    | refine Keeps.upd ?_
    | simp only [updAt_length, List.length_map]

theorem State.sendLtr_keeps {r s : State} (h : Keeps r s) (ns : Nat) :
    Keeps r (State.sendLtr s ns) := by
  unfold State.sendLtr
  repeat' first
    | with_reducible assumption
    | with_reducible apply State.emit_keeps
    | with_reducible refine Keeps.ite ?_ ?_
    | with_reducible refine Keeps.foldl ?_ ?_
    | with_reducible refine Keeps.foldl_fst ?_ ?_
    | intro _
    | split
    | dsimp only
    | rfl
    | refine Keeps.upd ?_
    | simp only [updAt_length, List.length_map]

theorem State.toHost_keeps {r s : State} (h : Keeps r s) (m : Out) :
    Keeps r (State.toHost s m) := by
  unfold State.toHost
  repeat' first
    | with_reducible assumption
    | with_reducible apply State.emit_keeps
    | with_reducible refine Keeps.ite ?_ ?_
    | with_reducible refine Keeps.foldl ?_ ?_
    | with_reducible refine Keeps.foldl_fst ?_ ?_
    | intro _
    | split
    | dsimp only
    | rfl
    | refine Keeps.upd ?_
    | simp only [updAt_length, List.length_map]

theorem State.chanRequest_keeps {r s : State} (h : Keeps r s) (ch : Nat) (a : Nat) (n : Nat) (write : Bool) (desc : Bool) (k : State → State) (hk : ∀ t, Keeps r t → Keeps r (k t)) :
    Keeps r (State.chanRequest s ch a n write desc k) := by
  unfold State.chanRequest
  repeat' first
    | with_reducible assumption
    | apply hk
    | with_reducible apply State.violate_keeps
    | with_reducible apply State.chanHalt_keeps
    | with_reducible refine Keeps.ite ?_ ?_
    | with_reducible refine Keeps.foldl ?_ ?_
    | with_reducible refine Keeps.foldl_fst ?_ ?_
    | intro _
    | split
    | dsimp only
    | rfl
    | refine Keeps.upd ?_
    | simp only [updAt_length, List.length_map]

theorem State.hostWrites_keeps {r s : State} (h : Keeps r s) (f : Nat) (a : Nat) (l : List Byte) :
    Keeps r (State.hostWrites s f a l) := by
  unfold State.hostWrites
  repeat' first
    | with_reducible assumption
    | with_reducible apply State.toHost_keeps
    | with_reducible refine Keeps.ite ?_ ?_
    | with_reducible refine Keeps.foldl ?_ ?_
    | with_reducible refine Keeps.foldl_fst ?_ ?_
    | intro _
    | split
    | dsimp only
    | rfl
    | refine Keeps.upd ?_
    | simp only [updAt_length, List.length_map]

theorem State.hostReads_keeps {r s : State} (h : Keeps r s) (f : Nat) (a : Nat) (n : Nat) :
    Keeps r (State.hostReads s f a n) := by
  unfold State.hostReads
  repeat' first
    | with_reducible assumption
    | with_reducible apply State.toHost_keeps
    | with_reducible refine Keeps.ite ?_ ?_
    | with_reducible refine Keeps.foldl ?_ ?_
    | with_reducible refine Keeps.foldl_fst ?_ ?_
    | intro _
    | split
    | dsimp only
    | rfl
    | refine Keeps.upd ?_
    | simp only [updAt_length, List.length_map]

theorem State.npIssue_keeps {r s : State} (h : Keeps r s) (ch : Nat) (addr : Nat) (n : Nat) :
    Keeps r (State.npIssue s ch addr n) := by
  unfold State.npIssue
  repeat' first
    | with_reducible assumption
    | with_reducible apply State.puts_keeps
    | with_reducible apply State.toHost_keeps
    | with_reducible refine Keeps.ite ?_ ?_
    | with_reducible refine Keeps.foldl ?_ ?_
    | with_reducible refine Keeps.foldl_fst ?_ ?_
    | intro _
    | split
    | dsimp only
    | rfl
    | refine Keeps.upd ?_
    | simp only [updAt_length, List.length_map]

theorem State.npEnd_keeps {r s : State} (h : Keeps r s) (ch : Nat) :
    Keeps r (State.npEnd s ch) := by
  unfold State.npEnd
  repeat' first
    | with_reducible assumption
    | with_reducible apply State.puts_keeps
    | with_reducible refine Keeps.ite ?_ ?_
    | with_reducible refine Keeps.foldl ?_ ?_
    | with_reducible refine Keeps.foldl_fst ?_ ?_
    | intro _
    | split
    | dsimp only
    | rfl
    | refine Keeps.upd ?_
    | simp only [updAt_length, List.length_map]

theorem State.timedOut_keeps {r s : State} (h : Keeps r s) (ch : Nat) :
    Keeps r (State.timedOut s ch) := by
  unfold State.timedOut
  repeat' first
    | with_reducible assumption
    | with_reducible apply State.logAer_keeps
    | with_reducible refine Keeps.ite ?_ ?_
    | with_reducible refine Keeps.foldl ?_ ?_
    | with_reducible refine Keeps.foldl_fst ?_ ?_
    | intro _
    | split
    | dsimp only
    | rfl
    | refine Keeps.upd ?_
    | simp only [updAt_length, List.length_map]

theorem State.charge_keeps {r s : State} (h : Keeps r s) (ch : Nat) (n : Nat) :
    Keeps r (State.charge s ch n) := by
  unfold State.charge
  repeat' first
    | with_reducible assumption
    | with_reducible apply State.setChan_keeps
    | with_reducible refine Keeps.ite ?_ ?_
    | with_reducible refine Keeps.foldl ?_ ?_
    | with_reducible refine Keeps.foldl_fst ?_ ?_
    | intro _
    | split
    | dsimp only
    | rfl
    | refine Keeps.upd ?_
    | simp only [updAt_length, List.length_map]

theorem State.idleLtr_keeps {r s : State} (h : Keeps r s) (before : Bool) :
    Keeps r (State.idleLtr s before) := by
  unfold State.idleLtr
  repeat' first
    | with_reducible assumption
    | with_reducible apply State.sendLtr_keeps
    | with_reducible refine Keeps.ite ?_ ?_
    | with_reducible refine Keeps.foldl ?_ ?_
    | with_reducible refine Keeps.foldl_fst ?_ ?_
    | intro _
    | split
    | dsimp only
    | rfl
    | refine Keeps.upd ?_
    | simp only [updAt_length, List.length_map]

end Sys2Proof.Machine
end

