-- ==== Sys2Proof/Laws/Keeps/Slots.lean ====
section
/-!
SUPPORT. What the operations of Machine/Slots.lean keep.
-/

set_option Elab.async false
set_option linter.all false

namespace Sys2Proof.Machine

theorem State.makeCurrent_keeps {r s : State} (h : Keeps r s) (n : Nat) (k : Nat) :
    Keeps r (State.makeCurrent s n k) := by
  unfold State.makeCurrent
  repeat' first
    | with_reducible assumption
    | with_reducible apply State.put_keeps
    | with_reducible apply State.count_keeps
    | with_reducible apply State.raiseIf_keeps
    | with_reducible refine Keeps.ite ?_ ?_
    | with_reducible refine Keeps.foldl ?_ ?_
    | with_reducible refine Keeps.foldl_fst ?_ ?_
    | intro _
    | split
    | dsimp only
    | rfl
    | refine Keeps.upd ?_
    | simp only [updAt_length, List.length_map]

theorem State.slotWrite_keeps {r s : State} (h : Keeps r s) (n : Nat) (k : Nat) (ready : Bool) (withdraw : Bool) :
    Keeps r (State.slotWrite s n k ready withdraw) := by
  unfold State.slotWrite
  repeat' first
    | with_reducible assumption
    | with_reducible apply State.put_keeps
    | with_reducible refine Keeps.ite ?_ ?_
    | with_reducible refine Keeps.foldl ?_ ?_
    | with_reducible refine Keeps.foldl_fst ?_ ?_
    | intro _
    | split
    | dsimp only
    | rfl
    | refine Keeps.upd ?_
    | simp only [updAt_length, List.length_map]

end Sys2Proof.Machine
end

