-- ==== Sys2Proof/Laws/Keeps/Picture.lean ====
section
/-!
SUPPORT. What the operations of Machine/Picture.lean keep.
-/

set_option Elab.async false
set_option linter.all false

namespace Sys2Proof.Machine

theorem State.setTbl_keeps {r s : State} (h : Keeps r s) (n type table bank idx v : Nat) :
    Keeps r (s.setTbl n type table bank idx v) :=
  h.setTables fun w => sparseWf_set (f := fun _ => 0) _ _ w

theorem State.clearTables_keeps {r s : State} (h : Keeps r s) (n type : Nat) : Keeps r (s.clearTables n type) :=
  h.setTables fun w => sparseWf_filter _ w

theorem State.scalLand_keeps {r s : State} (h : Keeps r s) (n : Nat) :
    Keeps r (State.scalLand s n) := by
  unfold State.scalLand
  repeat' first
    | with_reducible assumption
    | with_reducible apply State.putAct_keeps
    | with_reducible apply State.puts_keeps
    | with_reducible apply State.raiseIf_keeps
    | with_reducible refine Keeps.ite ?_ ?_
    | with_reducible refine Keeps.foldl ?_ ?_
    | with_reducible refine Keeps.foldl_fst ?_ ?_
    | intro _
    | split
    | dsimp only
    | rfl
    | refine Keeps.upd ?_
    | simp only [updAt_length, List.length_map]

theorem State.colrLand_keeps {r s : State} (h : Keeps r s) (n : Nat) :
    Keeps r (State.colrLand s n) := by
  unfold State.colrLand
  repeat' first
    | with_reducible assumption
    | with_reducible apply State.put_keeps
    | with_reducible refine Keeps.ite ?_ ?_
    | with_reducible refine Keeps.foldl ?_ ?_
    | with_reducible refine Keeps.foldl_fst ?_ ?_
    | intro _
    | split
    | dsimp only
    | rfl
    | refine Keeps.upd ?_
    | simp only [updAt_length, List.length_map]

theorem State.dualLand_keeps {r s : State} (h : Keeps r s) (n : Nat) (total : Nat) :
    Keeps r (State.dualLand s n total) := by
  unfold State.dualLand
  repeat' first
    | with_reducible assumption
    | with_reducible apply State.puts_keeps
    | with_reducible apply State.raiseIf_keeps
    | with_reducible refine Keeps.ite ?_ ?_
    | with_reducible refine Keeps.foldl ?_ ?_
    | with_reducible refine Keeps.foldl_fst ?_ ?_
    | intro _
    | split
    | dsimp only
    | rfl
    | refine Keeps.upd ?_
    | simp only [updAt_length, List.length_map]

theorem State.dualFieldLand_keeps {r s : State} (h : Keeps r s) (n : Nat) :
    Keeps r (State.dualFieldLand s n) := by
  unfold State.dualFieldLand
  repeat' first
    | with_reducible assumption
    | with_reducible apply State.putAct_keeps
    | with_reducible apply State.setLanded_keeps
    | with_reducible apply State.raise_keeps
    | with_reducible refine Keeps.ite ?_ ?_
    | with_reducible refine Keeps.foldl ?_ ?_
    | with_reducible refine Keeps.foldl_fst ?_ ?_
    | intro _
    | split
    | dsimp only
    | rfl
    | refine Keeps.upd ?_
    | simp only [updAt_length, List.length_map]

theorem State.dualStore_keeps {r s : State} (h : Keeps r s) (n : Nat) (v : Nat) (codes : List Nat) :
    Keeps r (State.dualStore s n v codes) := by
  unfold State.dualStore
  repeat' first
    | with_reducible assumption
    | with_reducible apply State.storeAs_keeps
    | with_reducible refine Keeps.ite ?_ ?_
    | with_reducible refine Keeps.foldl ?_ ?_
    | with_reducible refine Keeps.foldl_fst ?_ ?_
    | intro _
    | split
    | dsimp only
    | rfl
    | refine Keeps.upd ?_
    | simp only [updAt_length, List.length_map]

end Sys2Proof.Machine
end

