-- ==== Sys2Proof/Laws/Keeps/Maps.lean ====
section
/-!
SUPPORT. What the operations of Machine/Maps.lean keep.
-/

set_option Elab.async false
set_option linter.all false

namespace Sys2Proof.Machine

theorem State.setMapUse_keeps {r s : State} (h : Keeps r s) (n : Nat) (field : Bool) (f : MapUse → MapUse) :
    Keeps r (State.setMapUse s n field f) := by
  unfold State.setMapUse
  repeat' first
    | with_reducible assumption
    | with_reducible apply State.setOut_keeps
    | with_reducible refine Keeps.ite ?_ ?_
    | with_reducible refine Keeps.foldl ?_ ?_
    | with_reducible refine Keeps.foldl_fst ?_ ?_
    | intro _
    | split
    | dsimp only
    | rfl
    | refine Keeps.upd ?_
    | simp only [updAt_length, List.length_map]

theorem State.showApplied_keeps {r s : State} (h : Keeps r s) (n : Nat) (field : Bool) :
    Keeps r (State.showApplied s n field) := by
  unfold State.showApplied
  repeat' first
    | with_reducible assumption
    | with_reducible apply State.put_keeps
    | with_reducible refine Keeps.ite ?_ ?_
    | with_reducible refine Keeps.foldl ?_ ?_
    | with_reducible refine Keeps.foldl_fst ?_ ?_
    | intro _
    | split
    | dsimp only
    | rfl
    | refine Keeps.upd ?_
    | simp only [updAt_length, List.length_map]

theorem State.mapAddrLand_keeps {r s : State} (h : Keeps r s) (n : Nat) (field : Bool) :
    Keeps r (State.mapAddrLand s n field) := by
  unfold State.mapAddrLand
  repeat' first
    | with_reducible assumption
    | with_reducible apply State.putAct_keeps
    | with_reducible apply State.setLanded_keeps
    | with_reducible apply State.setMapUse_keeps
    | with_reducible apply State.raise_keeps
    | with_reducible refine Keeps.ite ?_ ?_
    | with_reducible refine Keeps.foldl ?_ ?_
    | with_reducible refine Keeps.foldl_fst ?_ ?_
    | intro _
    | split
    | dsimp only
    | rfl
    | refine Keeps.upd ?_
    | simp only [updAt_length, List.length_map]

theorem State.mapRasterLand_keeps {r s : State} (h : Keeps r s) (n : Nat) (field : Bool) :
    Keeps r (State.mapRasterLand s n field) := by
  unfold State.mapRasterLand
  repeat' first
    | with_reducible assumption
    | with_reducible apply State.put_keeps
    | with_reducible apply State.setMapUse_keeps
    | with_reducible apply State.raise_keeps
    | with_reducible refine Keeps.ite ?_ ?_
    | with_reducible refine Keeps.foldl ?_ ?_
    | with_reducible refine Keeps.foldl_fst ?_ ?_
    | intro _
    | split
    | dsimp only
    | rfl
    | refine Keeps.upd ?_
    | simp only [updAt_length, List.length_map]

theorem State.unifLand_keeps {r s : State} (h : Keeps r s) (n : Nat) :
    Keeps r (State.unifLand s n) := by
  unfold State.unifLand
  repeat' first
    | with_reducible assumption
    | with_reducible apply State.mapAddrLand_keeps
    | with_reducible apply State.mapRasterLand_keeps
    | with_reducible apply State.showApplied_keeps
    | with_reducible refine Keeps.ite ?_ ?_
    | with_reducible refine Keeps.foldl ?_ ?_
    | with_reducible refine Keeps.foldl_fst ?_ ?_
    | intro _
    | split
    | dsimp only
    | rfl
    | refine Keeps.upd ?_
    | simp only [updAt_length, List.length_map]

theorem State.readRecord_keeps {r s : State} (h : Keeps r s) (m : Nat) (a : Nat) (h' : MapHead) (g : Nat) (per : Nat) :
    Keeps r (State.readRecord s m a h' g per).2 := by
  unfold State.readRecord
  repeat' first
    | with_reducible assumption
    | with_reducible apply State.readAs_keeps
    | with_reducible refine Keeps.ite ?_ ?_
    | with_reducible refine Keeps.foldl ?_ ?_
    | with_reducible refine Keeps.foldl_fst ?_ ?_
    | intro _
    | split
    | dsimp only
    | rfl
    | refine Keeps.upd ?_
    | simp only [updAt_length, List.length_map]

theorem State.readGrid_keeps {r s : State} (h : Keeps r s) (m : Nat) (a : Nat) (h' : MapHead) (g : Nat) :
    Keeps r (State.readGrid s m a h' g).2 := by
  unfold State.readGrid
  repeat' first
    | with_reducible assumption
    | with_reducible apply State.readAs_keeps
    | with_reducible refine Keeps.ite ?_ ?_
    | with_reducible refine Keeps.foldl ?_ ?_
    | with_reducible refine Keeps.foldl_fst ?_ ?_
    | intro _
    | split
    | dsimp only
    | rfl
    | refine Keeps.upd ?_
    | simp only [updAt_length, List.length_map]

theorem State.noteDecodeErr_keeps {r s : State} (h : Keeps r s) (n : Nat) :
    Keeps r (State.noteDecodeErr s n) := by
  unfold State.noteDecodeErr
  repeat' first
    | with_reducible assumption
    | with_reducible apply State.count_keeps
    | with_reducible apply State.raise_keeps
    | with_reducible refine Keeps.ite ?_ ?_
    | with_reducible refine Keeps.foldl ?_ ?_
    | with_reducible refine Keeps.foldl_fst ?_ ?_
    | intro _
    | split
    | dsimp only
    | rfl
    | refine Keeps.upd ?_
    | simp only [updAt_length, List.length_map]

theorem State.loadLayer_keeps {r s : State} (h : Keeps r s) (n : Nat) (field : Bool) (g : Nat) :
    Keeps r (State.loadLayer s n field g) := by
  unfold State.loadLayer
  repeat' first
    | with_reducible assumption
    | with_reducible apply State.readAs_keeps
    | with_reducible apply State.setMapUse_keeps
    | with_reducible apply State.readRecord_keeps
    | with_reducible apply State.readGrid_keeps
    | with_reducible apply State.noteDecodeErr_keeps
    | with_reducible refine Keeps.ite ?_ ?_
    | with_reducible refine Keeps.foldl ?_ ?_
    | with_reducible refine Keeps.foldl_fst ?_ ?_
    | intro _
    | split
    | dsimp only
    | rfl
    | refine Keeps.upd ?_
    | simp only [updAt_length, List.length_map]

theorem State.unifRow_keeps {r s : State} (h : Keeps r s) (n : Nat) (y : Nat) (r' : Row) :
    Keeps r (State.unifRow s n y r').2 := by
  unfold State.unifRow
  repeat' first
    | with_reducible assumption
    | with_reducible apply State.loadLayer_keeps
    | with_reducible refine Keeps.ite ?_ ?_
    | with_reducible refine Keeps.foldl ?_ ?_
    | with_reducible refine Keeps.foldl_fst ?_ ?_
    | intro _
    | split
    | dsimp only
    | rfl
    | refine Keeps.upd ?_
    | simp only [updAt_length, List.length_map]

theorem State.setLocked_keeps {r s : State} (h : Keeps r s) (first : Nat) (count : Nat) (b : Bool) :
    Keeps r (State.setLocked s first count b) := by
  unfold State.setLocked
  repeat' first
    | with_reducible assumption
    | with_reducible apply State.put_keeps
    | with_reducible refine Keeps.ite ?_ ?_
    | with_reducible refine Keeps.foldl ?_ ?_
    | with_reducible refine Keeps.foldl_fst ?_ ?_
    | intro _
    | split
    | dsimp only
    | rfl
    | refine Keeps.upd ?_
    | simp only [updAt_length, List.length_map]

theorem State.lockBase_keeps {r s : State} (h : Keeps r s) (n : Nat) :
    Keeps r (State.lockBase s n) := by
  unfold State.lockBase
  repeat' first
    | with_reducible assumption
    | with_reducible apply State.puts_keeps
    | with_reducible apply State.setLocked_keeps
    | with_reducible refine Keeps.ite ?_ ?_
    | with_reducible refine Keeps.foldl ?_ ?_
    | with_reducible refine Keeps.foldl_fst ?_ ?_
    | intro _
    | split
    | dsimp only
    | rfl
    | refine Keeps.upd ?_
    | simp only [updAt_length, List.length_map]

theorem State.unlockBase_keeps {r s : State} (h : Keeps r s) (n : Nat) :
    Keeps r (State.unlockBase s n) := by
  unfold State.unlockBase
  repeat' first
    | with_reducible assumption
    | with_reducible apply State.setLocked_keeps
    | with_reducible apply State.puts_keeps
    | with_reducible apply State.setMapUse_keeps
    | with_reducible apply State.showApplied_keeps
    | with_reducible refine Keeps.ite ?_ ?_
    | with_reducible refine Keeps.foldl ?_ ?_
    | with_reducible refine Keeps.foldl_fst ?_ ?_
    | intro _
    | split
    | dsimp only
    | rfl
    | refine Keeps.upd ?_
    | simp only [updAt_length, List.length_map]

theorem State.setWear_keeps {r s : State} (h : Keeps r s) (n : Nat) (f : WearState → WearState) :
    Keeps r (State.setWear s n f) := by
  unfold State.setWear
  repeat' first
    | with_reducible assumption
    | with_reducible apply State.setOut_keeps
    | with_reducible refine Keeps.ite ?_ ?_
    | with_reducible refine Keeps.foldl ?_ ?_
    | with_reducible refine Keeps.foldl_fst ?_ ?_
    | intro _
    | split
    | dsimp only
    | rfl
    | refine Keeps.upd ?_
    | simp only [updAt_length, List.length_map]

theorem State.loadWear_keeps {r s : State} (h : Keeps r s) (n : Nat) (g : Nat) :
    Keeps r (State.loadWear s n g) := by
  unfold State.loadWear
  repeat' first
    | with_reducible assumption
    | with_reducible apply State.setWear_keeps
    | with_reducible apply State.readAs_keeps
    | with_reducible apply State.readRecord_keeps
    | with_reducible apply State.noteDecodeErr_keeps
    | with_reducible refine Keeps.ite ?_ ?_
    | with_reducible refine Keeps.foldl ?_ ?_
    | with_reducible refine Keeps.foldl_fst ?_ ?_
    | intro _
    | split
    | dsimp only
    | rfl
    | refine Keeps.upd ?_
    | simp only [updAt_length, List.length_map]

theorem State.wearRow_keeps {r s : State} (h : Keeps r s) (n : Nat) (y : Nat) (r' : Row) :
    Keeps r (State.wearRow s n y r').2 := by
  unfold State.wearRow
  repeat' first
    | with_reducible assumption
    | with_reducible apply State.loadWear_keeps
    | with_reducible apply State.count_keeps
    | with_reducible apply State.setWear_keeps
    | with_reducible refine Keeps.ite ?_ ?_
    | with_reducible refine Keeps.foldl ?_ ?_
    | with_reducible refine Keeps.foldl_fst ?_ ?_
    | intro _
    | split
    | dsimp only
    | rfl
    | refine Keeps.upd ?_
    | simp only [updAt_length, List.length_map]

theorem State.mapsFrame_keeps {r s : State} (h : Keeps r s) (n : Nat) :
    Keeps r (State.mapsFrame s n) := by
  unfold State.mapsFrame
  repeat' first
    | with_reducible assumption
    | with_reducible apply State.setOut_keeps
    | with_reducible refine Keeps.ite ?_ ?_
    | with_reducible refine Keeps.foldl ?_ ?_
    | with_reducible refine Keeps.foldl_fst ?_ ?_
    | intro _
    | split
    | dsimp only
    | rfl
    | refine Keeps.upd ?_
    | simp only [updAt_length, List.length_map]

theorem State.wearStop_keeps {r s : State} (h : Keeps r s) (n : Nat) :
    Keeps r (State.wearStop s n) := by
  unfold State.wearStop
  repeat' first
    | with_reducible assumption
    | with_reducible apply State.raiseIf_keeps
    | with_reducible apply State.setWear_keeps
    | with_reducible refine Keeps.ite ?_ ?_
    | with_reducible refine Keeps.foldl ?_ ?_
    | with_reducible refine Keeps.foldl_fst ?_ ?_
    | intro _
    | split
    | dsimp only
    | rfl
    | refine Keeps.upd ?_
    | simp only [updAt_length, List.length_map]

theorem State.holdChannel_keeps {r s : State} (h : Keeps r s) (ch : Nat) :
    Keeps r (State.holdChannel s ch) := by
  unfold State.holdChannel
  repeat' first
    | with_reducible assumption
    | with_reducible apply State.put_keeps
    | with_reducible refine Keeps.ite ?_ ?_
    | with_reducible refine Keeps.foldl ?_ ?_
    | with_reducible refine Keeps.foldl_fst ?_ ?_
    | intro _
    | split
    | dsimp only
    | rfl
    | refine Keeps.upd ?_
    | simp only [updAt_length, List.length_map]

theorem State.holdChannels_keeps {r s : State} (h : Keeps r s) :
    Keeps r (State.holdChannels s) := by
  unfold State.holdChannels
  repeat' first
    | with_reducible assumption
    | with_reducible apply State.holdChannel_keeps
    | with_reducible refine Keeps.ite ?_ ?_
    | with_reducible refine Keeps.foldl ?_ ?_
    | with_reducible refine Keeps.foldl_fst ?_ ?_
    | intro _
    | split
    | dsimp only
    | rfl
    | refine Keeps.upd ?_
    | simp only [updAt_length, List.length_map]

theorem State.showLedger_keeps {r s : State} (h : Keeps r s) (n : Nat) :
    Keeps r (State.showLedger s n) := by
  unfold State.showLedger
  repeat' first
    | with_reducible assumption
    | with_reducible apply State.put_keeps
    | with_reducible refine Keeps.ite ?_ ?_
    | with_reducible refine Keeps.foldl ?_ ?_
    | with_reducible refine Keeps.foldl_fst ?_ ?_
    | intro _
    | split
    | dsimp only
    | rfl
    | refine Keeps.upd ?_
    | simp only [updAt_length, List.length_map]

theorem State.dropReads_keeps {r s : State} (h : Keeps r s) (n : Nat) (sel : LedgerRead → Bool) :
    Keeps r (State.dropReads s n sel) := by
  unfold State.dropReads
  repeat' first
    | with_reducible assumption
    | with_reducible apply State.setChan_keeps
    | with_reducible apply State.setWear_keeps
    | with_reducible refine Keeps.ite ?_ ?_
    | with_reducible refine Keeps.foldl ?_ ?_
    | with_reducible refine Keeps.foldl_fst ?_ ?_
    | intro _
    | split
    | dsimp only
    | rfl
    | refine Keeps.upd ?_
    | simp only [updAt_length, List.length_map]

theorem State.wearHalt_keeps {r s : State} (h : Keeps r s) (n : Nat) (tell : Bool) :
    Keeps r (State.wearHalt s n tell) := by
  unfold State.wearHalt
  repeat' first
    | with_reducible assumption
    | with_reducible apply State.put_keeps
    | with_reducible apply State.count_keeps
    | with_reducible apply State.dropReads_keeps
    | with_reducible apply State.setWear_keeps
    | with_reducible apply State.showLedger_keeps
    | with_reducible apply State.raiseIf_keeps
    | with_reducible refine Keeps.ite ?_ ?_
    | with_reducible refine Keeps.foldl ?_ ?_
    | with_reducible refine Keeps.foldl_fst ?_ ?_
    | intro _
    | split
    | dsimp only
    | rfl
    | refine Keeps.upd ?_
    | simp only [updAt_length, List.length_map]

theorem State.ledgerStop_keeps {r s : State} (h : Keeps r s) (ch : Nat) :
    Keeps r (State.ledgerStop s ch) := by
  unfold State.ledgerStop
  repeat' first
    | with_reducible assumption
    | with_reducible apply State.wearHalt_keeps
    | with_reducible refine Keeps.ite ?_ ?_
    | with_reducible refine Keeps.foldl ?_ ?_
    | with_reducible refine Keeps.foldl_fst ?_ ?_
    | intro _
    | split
    | dsimp only
    | rfl
    | refine Keeps.upd ?_
    | simp only [updAt_length, List.length_map]

theorem State.stageRequest_keeps {r s : State} (h : Keeps r s) (ch : Nat) (a : Nat) (n : Nat) (write : Bool) (k : State → State) (hk : ∀ t, Keeps r t → Keeps r (k t)) :
    Keeps r (State.stageRequest s ch a n write k) := by
  unfold State.stageRequest
  repeat' first
    | with_reducible assumption
    | apply hk
    | with_reducible apply State.chanRequest_keeps
    | with_reducible apply State.ledgerStop_keeps
    | with_reducible refine Keeps.ite ?_ ?_
    | with_reducible refine Keeps.foldl ?_ ?_
    | with_reducible refine Keeps.foldl_fst ?_ ?_
    | intro _
    | split
    | dsimp only
    | rfl
    | refine Keeps.upd ?_
    | simp only [updAt_length, List.length_map]

theorem State.ledgerNext_keeps {r s : State} (h : Keeps r s) (n : Nat) :
    KeepsOpt r (State.ledgerNext s n) := by
  unfold State.ledgerNext
  repeat' first
    | with_reducible assumption
    | exact KeepsOpt.none
    | refine KeepsOpt.some ?_
    | with_reducible refine KeepsOpt.ite ?_ ?_
    | with_reducible apply State.stageRequest_keeps
    | with_reducible apply State.npIssue_keeps
    | with_reducible apply State.setWear_keeps
    | with_reducible apply State.charge_keeps
    | dsimp only
    | split
    | with_reducible refine Keeps.ite ?_ ?_
    | with_reducible refine Keeps.foldl ?_ ?_
    | with_reducible refine Keeps.foldl_fst ?_ ?_
    | intro _
    | split
    | dsimp only
    | rfl
    | refine Keeps.upd ?_
    | simp only [updAt_length, List.length_map]

theorem State.ledgerRun_keeps {r s : State} (h : Keeps r s) (fuel n : Nat) : Keeps r (State.ledgerRun fuel s n) := by
  induction fuel generalizing s with
  | zero => exact h
  | succ k ih =>
    unfold State.ledgerRun
    split
    · next t e => exact ih (State.ledgerNext_keeps h n t e)
    · exact h

theorem State.askLedger_keeps {r s : State} (h : Keeps r s) (n : Nat) (y : Nat) :
    Keeps r (State.askLedger s n y) := by
  unfold State.askLedger
  repeat' first
    | with_reducible assumption
    | with_reducible apply State.setWear_keeps
    | with_reducible apply State.sendLtr_keeps
    | with_reducible refine Keeps.ite ?_ ?_
    | with_reducible refine Keeps.foldl ?_ ?_
    | with_reducible refine Keeps.foldl_fst ?_ ?_
    | intro _
    | split
    | dsimp only
    | rfl
    | refine Keeps.upd ?_
    | simp only [updAt_length, List.length_map]

theorem State.readLedger_keeps {r s : State} (h : Keeps r s) (n : Nat) (y : Nat) :
    Keeps r (State.readLedger s n y) := by
  unfold State.readLedger
  repeat' first
    | with_reducible assumption
    | with_reducible apply State.askLedger_keeps
    | with_reducible apply State.ledgerRun_keeps
    | with_reducible refine Keeps.ite ?_ ?_
    | with_reducible refine Keeps.foldl ?_ ?_
    | with_reducible refine Keeps.foldl_fst ?_ ?_
    | intro _
    | split
    | dsimp only
    | rfl
    | refine Keeps.upd ?_
    | simp only [updAt_length, List.length_map]

theorem State.ledgerError_keeps {r s : State} (h : Keeps r s) (n : Nat) (addr : Nat) (code : Nat) (flush : Bool) :
    Keeps r (State.ledgerError s n addr code flush) := by
  unfold State.ledgerError
  repeat' first
    | with_reducible assumption
    | with_reducible apply State.chanHalt_keeps
    | with_reducible apply State.ledgerStop_keeps
    | with_reducible refine Keeps.ite ?_ ?_
    | with_reducible refine Keeps.foldl ?_ ?_
    | with_reducible refine Keeps.foldl_fst ?_ ?_
    | intro _
    | split
    | dsimp only
    | rfl
    | refine Keeps.upd ?_
    | simp only [updAt_length, List.length_map]

theorem State.oweRow_keeps {r s : State} (h : Keeps r s) (n : Nat) (y : Nat) :
    Keeps r (State.oweRow s n y) := by
  unfold State.oweRow
  repeat' first
    | with_reducible assumption
    | with_reducible apply State.count_keeps
    | with_reducible apply State.setWear_keeps
    | with_reducible refine Keeps.ite ?_ ?_
    | with_reducible refine Keeps.foldl ?_ ?_
    | with_reducible refine Keeps.foldl_fst ?_ ?_
    | intro _
    | split
    | dsimp only
    | rfl
    | refine Keeps.upd ?_
    | simp only [updAt_length, List.length_map]

theorem State.wearFrame_keeps {r s : State} (h : Keeps r s) (n : Nat) (kind : Nat) (held : Bool) :
    Keeps r (State.wearFrame s n kind held) := by
  unfold State.wearFrame
  repeat' first
    | with_reducible assumption
    | with_reducible apply State.raiseIf_keeps
    | with_reducible apply State.setWear_keeps
    | with_reducible apply State.count_keeps
    | with_reducible apply State.bumpFree_keeps
    | with_reducible apply State.puts_keeps
    | with_reducible apply State.wearHalt_keeps
    | with_reducible apply State.oweRow_keeps
    | with_reducible apply State.readLedger_keeps
    | with_reducible apply State.showLedger_keeps
    | with_reducible refine Keeps.ite ?_ ?_
    | with_reducible refine Keeps.foldl ?_ ?_
    | with_reducible refine Keeps.foldl_fst ?_ ?_
    | intro _
    | split
    | dsimp only
    | rfl
    | refine Keeps.upd ?_
    | simp only [updAt_length, List.length_map]

theorem State.genStart_keeps {r s : State} (h : Keeps r s) (n : Nat) :
    Keeps r (State.genStart s n) := by
  unfold State.genStart
  repeat' first
    | with_reducible assumption
    | with_reducible apply State.storeAs_keeps
    | with_reducible apply State.dropReads_keeps
    | with_reducible apply State.setWear_keeps
    | with_reducible apply State.put_keeps
    | with_reducible refine Keeps.ite ?_ ?_
    | with_reducible refine Keeps.foldl ?_ ?_
    | with_reducible refine Keeps.foldl_fst ?_ ?_
    | intro _
    | split
    | dsimp only
    | rfl
    | refine Keeps.upd ?_
    | simp only [updAt_length, List.length_map]

theorem State.genEntries_keeps {r s : State} (h : Keeps r s) (n : Nat) :
    Keeps r (State.genEntries s n) := by
  unfold State.genEntries
  repeat' first
    | with_reducible assumption
    | with_reducible apply State.storeAs_keeps
    | with_reducible apply State.setWear_keeps
    | with_reducible refine Keeps.ite ?_ ?_
    | with_reducible refine Keeps.foldl ?_ ?_
    | with_reducible refine Keeps.foldl_fst ?_ ?_
    | intro _
    | split
    | dsimp only
    | rfl
    | refine Keeps.upd ?_
    | simp only [updAt_length, List.length_map]

theorem State.wearLand_keeps {r s : State} (h : Keeps r s) (n : Nat) :
    Keeps r (State.wearLand s n) := by
  unfold State.wearLand
  repeat' first
    | with_reducible assumption
    | with_reducible apply State.setLanded_keeps
    | with_reducible apply State.puts_keeps
    | with_reducible apply State.genEntries_keeps
    | with_reducible apply State.genStart_keeps
    | with_reducible refine Keeps.ite ?_ ?_
    | with_reducible refine Keeps.foldl ?_ ?_
    | with_reducible refine Keeps.foldl_fst ?_ ?_
    | intro _
    | split
    | dsimp only
    | rfl
    | refine Keeps.upd ?_
    | simp only [updAt_length, List.length_map]

end Sys2Proof.Machine
end

