-- ==== Sys2Proof/Laws/Keeps/Drive.lean ====
section
/-!
SUPPORT. What the operations of Machine/Drive.lean keep.
-/

set_option Elab.async false
set_option linter.all false

namespace Sys2Proof.Machine

theorem State.setOdrv_keeps {r s : State} (h : Keeps r s) (n : Nat) (f : OdrvState → OdrvState) :
    Keeps r (State.setOdrv s n f) := by
  unfold State.setOdrv
  repeat' first
    | with_reducible assumption
    | with_reducible apply State.setOut_keeps
    | with_reducible refine Keeps.ite ?_ ?_
    | with_reducible refine Keeps.foldl ?_ ?_
    | with_reducible refine Keeps.foldl_fst ?_ ?_
    | intro _
    | split
    | dsimp only
    | rfl
    | refine Keeps.upd ?_
    | simp only [updAt_length, List.length_map]

theorem State.histLand_keeps {r s : State} (h : Keeps r s) (n : Nat) (modeChanged : Bool) :
    Keeps r (State.histLand s n modeChanged) := by
  unfold State.histLand
  repeat' first
    | with_reducible assumption
    | with_reducible apply State.setActReg_keeps
    | with_reducible apply State.setLanded_keeps
    | with_reducible apply State.put_keeps
    | with_reducible apply State.setOdrv_keeps
    | with_reducible apply State.raise_keeps
    | with_reducible refine Keeps.ite ?_ ?_
    | with_reducible refine Keeps.foldl ?_ ?_
    | with_reducible refine Keeps.foldl_fst ?_ ?_
    | intro _
    | split
    | dsimp only
    | rfl
    | refine Keeps.upd ?_
    | simp only [updAt_length, List.length_map]

theorem State.bandsLand_keeps {r s : State} (h : Keeps r s) (n : Nat) :
    Keeps r (State.bandsLand s n) := by
  unfold State.bandsLand
  repeat' first
    | with_reducible assumption
    | with_reducible apply State.setActReg_keeps
    | with_reducible apply State.raise_keeps
    | with_reducible refine Keeps.ite ?_ ?_
    | with_reducible refine Keeps.foldl ?_ ?_
    | with_reducible refine Keeps.foldl_fst ?_ ?_
    | intro _
    | split
    | dsimp only
    | rfl
    | refine Keeps.upd ?_
    | simp only [updAt_length, List.length_map]

theorem State.latchTemp_keeps {r s : State} (h : Keeps r s) (n : Nat) :
    Keeps r (State.latchTemp s n) := by
  unfold State.latchTemp
  repeat' first
    | with_reducible assumption
    | with_reducible apply State.puts_keeps
    | with_reducible refine Keeps.ite ?_ ?_
    | with_reducible refine Keeps.foldl ?_ ?_
    | with_reducible refine Keeps.foldl_fst ?_ ?_
    | intro _
    | split
    | dsimp only
    | rfl
    | refine Keeps.upd ?_
    | simp only [updAt_length, List.length_map]

theorem State.acceptTemp_keeps {r s : State} (h : Keeps r s) (n : Nat) (v : Nat) :
    Keeps r (State.acceptTemp s n v) := by
  unfold State.acceptTemp
  repeat' first
    | with_reducible assumption
    | with_reducible apply State.setOdrv_keeps
    | with_reducible apply State.put_keeps
    | with_reducible refine Keeps.ite ?_ ?_
    | with_reducible refine Keeps.foldl ?_ ?_
    | with_reducible refine Keeps.foldl_fst ?_ ?_
    | intro _
    | split
    | dsimp only
    | rfl
    | refine Keeps.upd ?_
    | simp only [updAt_length, List.length_map]

theorem State.odrvLand_keeps {r s : State} (h : Keeps r s) (n : Nat) (wasOn : Bool) (wasMode : Nat) (raster : Bool) (thawed : Bool) :
    Keeps r (State.odrvLand s n wasOn wasMode raster thawed) := by
  unfold State.odrvLand
  repeat' first
    | with_reducible assumption
    | with_reducible apply State.bandsLand_keeps
    | with_reducible apply State.histLand_keeps
    | with_reducible apply State.put_keeps
    | with_reducible refine Keeps.ite ?_ ?_
    | with_reducible refine Keeps.foldl ?_ ?_
    | with_reducible refine Keeps.foldl_fst ?_ ?_
    | intro _
    | split
    | dsimp only
    | rfl
    | refine Keeps.upd ?_
    | simp only [updAt_length, List.length_map]

theorem State.readHist_keeps {r s : State} (h : Keeps r s) (n : Nat) (b : Nat) (y : Nat) :
    Keeps r (State.readHist s n b y).2 := by
  unfold State.readHist
  repeat' first
    | with_reducible assumption
    | with_reducible apply State.readAs_keeps
    | with_reducible refine Keeps.ite ?_ ?_
    | with_reducible refine Keeps.foldl ?_ ?_
    | with_reducible refine Keeps.foldl_fst ?_ ?_
    | intro _
    | split
    | dsimp only
    | rfl
    | refine Keeps.upd ?_
    | simp only [updAt_length, List.length_map]

theorem State.writeHist_keeps {r s : State} (h : Keeps r s) (n : Nat) (b : Nat) (y : Nat) (target : Row) :
    Keeps r (State.writeHist s n b y target) := by
  unfold State.writeHist
  repeat' first
    | with_reducible assumption
    | with_reducible apply State.storeAs_keeps
    | with_reducible refine Keeps.ite ?_ ?_
    | with_reducible refine Keeps.foldl ?_ ?_
    | with_reducible refine Keeps.foldl_fst ?_ ?_
    | intro _
    | split
    | dsimp only
    | rfl
    | refine Keeps.upd ?_
    | simp only [updAt_length, List.length_map]

theorem State.odrvRow_keeps {r s : State} (h : Keeps r s) (n : Nat) (y : Nat) (r' : Row) :
    Keeps r (State.odrvRow s n y r').2 := by
  unfold State.odrvRow
  repeat' first
    | with_reducible assumption
    | with_reducible apply State.readHist_keeps
    | with_reducible apply State.writeHist_keeps
    | with_reducible apply State.setOdrv_keeps
    | with_reducible refine Keeps.ite ?_ ?_
    | with_reducible refine Keeps.foldl ?_ ?_
    | with_reducible refine Keeps.foldl_fst ?_ ?_
    | intro _
    | split
    | dsimp only
    | rfl
    | refine Keeps.upd ?_
    | simp only [updAt_length, List.length_map]

theorem State.odrvFrameEnd_keeps {r s : State} (h : Keeps r s) (n : Nat) :
    Keeps r (State.odrvFrameEnd s n) := by
  unfold State.odrvFrameEnd
  repeat' first
    | with_reducible assumption
    | with_reducible apply State.setOdrv_keeps
    | with_reducible apply State.put_keeps
    | with_reducible refine Keeps.ite ?_ ?_
    | with_reducible refine Keeps.foldl ?_ ?_
    | with_reducible refine Keeps.foldl_fst ?_ ?_
    | intro _
    | split
    | dsimp only
    | rfl
    | refine Keeps.upd ?_
    | simp only [updAt_length, List.length_map]

theorem State.odrvForget_keeps {r s : State} (h : Keeps r s) (n : Nat) :
    Keeps r (State.odrvForget s n) := by
  unfold State.odrvForget
  repeat' first
    | with_reducible assumption
    | with_reducible apply State.setOdrv_keeps
    | with_reducible refine Keeps.ite ?_ ?_
    | with_reducible refine Keeps.foldl ?_ ?_
    | with_reducible refine Keeps.foldl_fst ?_ ?_
    | intro _
    | split
    | dsimp only
    | rfl
    | refine Keeps.upd ?_
    | simp only [updAt_length, List.length_map]

theorem State.odrvStop_keeps {r s : State} (h : Keeps r s) (n : Nat) :
    Keeps r (State.odrvStop s n) := by
  unfold State.odrvStop
  repeat' first
    | with_reducible assumption
    | with_reducible apply State.odrvForget_keeps
    | with_reducible apply State.odrvFrameEnd_keeps
    | with_reducible refine Keeps.ite ?_ ?_
    | with_reducible refine Keeps.foldl ?_ ?_
    | with_reducible refine Keeps.foldl_fst ?_ ?_
    | intro _
    | split
    | dsimp only
    | rfl
    | refine Keeps.upd ?_
    | simp only [updAt_length, List.length_map]

theorem State.dithFrame_keeps {r s : State} (h : Keeps r s) (n : Nat) :
    Keeps r (State.dithFrame s n) := by
  unfold State.dithFrame
  repeat' first
    | with_reducible assumption
    | with_reducible apply State.setOut_keeps
    | with_reducible apply State.puts_keeps
    | with_reducible apply State.raiseIf_keeps
    | with_reducible refine Keeps.ite ?_ ?_
    | with_reducible refine Keeps.foldl ?_ ?_
    | with_reducible refine Keeps.foldl_fst ?_ ?_
    | intro _
    | split
    | dsimp only
    | rfl
    | refine Keeps.upd ?_
    | simp only [updAt_length, List.length_map]

theorem State.setPix_keeps {r s : State} (h : Keeps r s) (n : Nat) (f : PixState → PixState) :
    Keeps r (State.setPix s n f) := by
  unfold State.setPix
  repeat' first
    | with_reducible assumption
    | with_reducible apply State.setOut_keeps
    | with_reducible refine Keeps.ite ?_ ?_
    | with_reducible refine Keeps.foldl ?_ ?_
    | with_reducible refine Keeps.foldl_fst ?_ ?_
    | intro _
    | split
    | dsimp only
    | rfl
    | refine Keeps.upd ?_
    | simp only [updAt_length, List.length_map]

theorem State.stageRow_keeps {r s : State} (h : Keeps r s) (n : Nat) (stage : Nat) (w : Nat) (f : State → Row × State) (hf : ∀ t, Keeps r t → Keeps r (f t).2) :
    Keeps r (State.stageRow s n stage w f).2 := by
  unfold State.stageRow
  repeat' first
    | with_reducible assumption
    | apply hf
    | with_reducible apply State.setPix_keeps
    | with_reducible refine Keeps.ite ?_ ?_
    | with_reducible refine Keeps.foldl ?_ ?_
    | with_reducible refine Keeps.foldl_fst ?_ ?_
    | intro _
    | split
    | dsimp only
    | rfl
    | refine Keeps.upd ?_
    | simp only [updAt_length, List.length_map]

theorem State.finishRow_keeps {r s : State} (h : Keeps r s) (n : Nat) (y : Nat) (r' : Row) :
    Keeps r (State.finishRow s n y r') := by
  unfold State.finishRow
  repeat' first
    | with_reducible assumption
    | with_reducible apply State.stageRow_keeps
    | with_reducible apply State.unifRow_keeps
    | with_reducible apply State.wearRow_keeps
    | with_reducible apply State.odrvRow_keeps
    | with_reducible apply State.setPix_keeps
    | with_reducible refine Keeps.ite ?_ ?_
    | with_reducible refine Keeps.foldl ?_ ?_
    | with_reducible refine Keeps.foldl_fst ?_ ?_
    | intro _
    | split
    | dsimp only
    | rfl
    | refine Keeps.upd ?_
    | simp only [updAt_length, List.length_map]

theorem State.backRow_keeps {r s : State} (h : Keeps r s) (n : Nat) (v : Nat) (field : Plane) :
    Keeps r (State.backRow s n v field) := by
  unfold State.backRow
  repeat' first
    | with_reducible assumption
    | with_reducible apply State.dualStore_keeps
    | with_reducible apply State.setPix_keeps
    | with_reducible refine Keeps.ite ?_ ?_
    | with_reducible refine Keeps.foldl ?_ ?_
    | with_reducible refine Keeps.foldl_fst ?_ ?_
    | intro _
    | split
    | dsimp only
    | rfl
    | refine Keeps.upd ?_
    | simp only [updAt_length, List.length_map]

theorem State.finishRows_keeps {r s : State} (h : Keeps r s) (n k : Nat) : Keeps r (s.finishRows n k) := by
  induction k generalizing s with
  | zero => exact h
  | succ k ih =>
    simp only [State.finishRows]
    split
    · exact h
    split
    · exact ih (State.finishRow_keeps h _ _ _)
    split
    · exact h
    refine ih (State.finishRow_keeps ?_ _ _ _)
    split
    · exact State.backRow_keeps (State.stageRow_keeps h _ _ _ _ fun _ k => State.count_keeps k _ _) _ _ _
    · exact State.stageRow_keeps h _ _ _ _ fun _ k => State.count_keeps k _ _

theorem State.colrTake_keeps {r s : State} (h : Keeps r s) (n : Nat) (more : List Row) :
    Keeps r (State.colrTake s n more) := by
  unfold State.colrTake
  repeat' first
    | with_reducible assumption
    | with_reducible apply State.stageRow_keeps
    | with_reducible apply State.setPix_keeps
    | with_reducible refine Keeps.ite ?_ ?_
    | with_reducible refine Keeps.foldl ?_ ?_
    | with_reducible refine Keeps.foldl_fst ?_ ?_
    | intro _
    | split
    | dsimp only
    | rfl
    | refine Keeps.upd ?_
    | simp only [updAt_length, List.length_map]

theorem State.takeGroup_keeps {r s : State} (h : Keeps r s) (n : Nat) (rows : List Row) :
    Keeps r (State.takeGroup s n rows) := by
  unfold State.takeGroup
  repeat' first
    | with_reducible assumption
    | with_reducible apply State.setPix_keeps
    | with_reducible apply State.colrTake_keeps
    | with_reducible apply State.finishRows_keeps
    | with_reducible refine Keeps.ite ?_ ?_
    | with_reducible refine Keeps.foldl ?_ ?_
    | with_reducible refine Keeps.foldl_fst ?_ ?_
    | intro _
    | split
    | dsimp only
    | rfl
    | refine Keeps.upd ?_
    | simp only [updAt_length, List.length_map]

theorem State.packRow_keeps {r s : State} (h : Keeps r s) (n : Nat) (y : Nat) :
    Keeps r (State.packRow s n y).2 := by
  unfold State.packRow
  repeat' first
    | with_reducible assumption
    | with_reducible apply State.stageRow_keeps
    | with_reducible refine Keeps.ite ?_ ?_
    | with_reducible refine Keeps.foldl ?_ ?_
    | with_reducible refine Keeps.foldl_fst ?_ ?_
    | intro _
    | split
    | dsimp only
    | rfl
    | refine Keeps.upd ?_
    | simp only [updAt_length, List.length_map]

theorem State.plrlPins_keeps {r s : State} (h : Keeps r s) (driven : Bool) :
    Keeps r (State.plrlPins s driven) := by
  unfold State.plrlPins
  repeat' first
    | with_reducible assumption
    | with_reducible apply State.emit_keeps
    | with_reducible refine Keeps.ite ?_ ?_
    | with_reducible refine Keeps.foldl ?_ ?_
    | with_reducible refine Keeps.foldl_fst ?_ ?_
    | intro _
    | split
    | dsimp only
    | rfl
    | refine Keeps.upd ?_
    | simp only [updAt_length, List.length_map]

end Sys2Proof.Machine
end

