-- ==== Sys2Proof/Laws/Keeps/Store.lean ====
section
/-!
SUPPORT. What the operations of Machine/Store.lean keep.
-/

set_option Elab.async false
set_option linter.all false

namespace Sys2Proof.Machine

theorem State.mboxDone_keeps {r s : State} (h : Keeps r s) (k : Nat) (result : Nat) (code : Nat) (args : List Nat) :
    Keeps r (State.mboxDone s k result code args) := by
  unfold State.mboxDone
  repeat' first
    | with_reducible assumption
    | with_reducible apply State.put_keeps
    | with_reducible apply State.puts_keeps
    | with_reducible apply State.raise_keeps
    | with_reducible refine Keeps.ite ?_ ?_
    | with_reducible refine Keeps.foldl ?_ ?_
    | with_reducible refine Keeps.foldl_fst ?_ ?_
    | intro _
    | split
    | dsimp only
    | rfl
    | refine Keeps.upd ?_
    | simp only [updAt_length, List.length_map]

theorem State.sstEnd_keeps {r s : State} (h : Keeps r s) (code : Nat) :
    Keeps r (State.sstEnd s code) := by
  unfold State.sstEnd
  repeat' first
    | with_reducible assumption
    | with_reducible apply State.puts_keeps
    | with_reducible apply State.npPart_keeps
    | with_reducible apply State.raiseIf_keeps
    | with_reducible refine Keeps.ite ?_ ?_
    | with_reducible refine Keeps.foldl ?_ ?_
    | with_reducible refine Keeps.foldl_fst ?_ ?_
    | intro _
    | split
    | dsimp only
    | rfl
    | refine Keeps.upd ?_
    | simp only [updAt_length, List.length_map]

theorem State.setCopy_keeps {r s : State} (h : Keeps r s) (k : Nat) (ab : Nat) (c : CalCopy) :
    Keeps r (State.setCopy s k ab c) := by
  unfold State.setCopy
  repeat' first
    | with_reducible assumption
    | with_reducible refine Keeps.ite ?_ ?_
    | with_reducible refine Keeps.foldl ?_ ?_
    | with_reducible refine Keeps.foldl_fst ?_ ?_
    | intro _
    | split
    | dsimp only
    | rfl
    | refine Keeps.upd ?_
    | simp only [updAt_length, List.length_map]

theorem State.showSeq_keeps {r s : State} (h : Keeps r s) (k : Nat) :
    Keeps r (State.showSeq s k) := by
  unfold State.showSeq
  repeat' first
    | with_reducible assumption
    | with_reducible apply State.put_keeps
    | with_reducible refine Keeps.ite ?_ ?_
    | with_reducible refine Keeps.foldl ?_ ?_
    | with_reducible refine Keeps.foldl_fst ?_ ?_
    | intro _
    | split
    | dsimp only
    | rfl
    | refine Keeps.upd ?_
    | simp only [updAt_length, List.length_map]

theorem State.blankKind_keeps {r s : State} (h : Keeps r s) (k : Nat) :
    Keeps r (State.blankKind s k) := by
  unfold State.blankKind
  repeat' first
    | with_reducible assumption
    | with_reducible apply State.setCopy_keeps
    | with_reducible apply State.showSeq_keeps
    | with_reducible refine Keeps.ite ?_ ?_
    | with_reducible refine Keeps.foldl ?_ ?_
    | with_reducible refine Keeps.foldl_fst ?_ ?_
    | intro _
    | split
    | dsimp only
    | rfl
    | refine Keeps.upd ?_
    | simp only [updAt_length, List.length_map]

theorem State.beginStore_keeps {r s : State} (h : Keeps r s) :
    Keeps r (State.beginStore s) := by
  unfold State.beginStore
  repeat' first
    | with_reducible assumption
    | with_reducible apply State.put_keeps
    | with_reducible apply State.setCopy_keeps
    | with_reducible apply State.showSeq_keeps
    | with_reducible refine Keeps.ite ?_ ?_
    | with_reducible refine Keeps.foldl ?_ ?_
    | with_reducible refine Keeps.foldl_fst ?_ ?_
    | intro _
    | split
    | dsimp only
    | rfl
    | refine Keeps.upd ?_
    | simp only [updAt_length, List.length_map]

theorem State.commitStore_keeps {r s : State} (h : Keeps r s) (j : StoreJob) :
    Keeps r (State.commitStore s j) := by
  unfold State.commitStore
  repeat' first
    | with_reducible assumption
    | with_reducible apply State.blankKind_keeps
    | with_reducible apply State.setCopy_keeps
    | with_reducible apply State.showSeq_keeps
    | with_reducible apply State.raise_keeps
    | with_reducible refine Keeps.ite ?_ ?_
    | with_reducible refine Keeps.foldl ?_ ?_
    | with_reducible refine Keeps.foldl_fst ?_ ?_
    | intro _
    | split
    | dsimp only
    | rfl
    | refine Keeps.upd ?_
    | simp only [updAt_length, List.length_map]

theorem State.tellStore_keeps {r s : State} (h : Keeps r s) (j : StoreJob) (code : Nat) :
    Keeps r (State.tellStore s j code) := by
  unfold State.tellStore
  repeat' first
    | with_reducible assumption
    | with_reducible apply State.put_keeps
    | with_reducible apply State.sstEnd_keeps
    | with_reducible apply State.mboxDone_keeps
    | with_reducible refine Keeps.ite ?_ ?_
    | with_reducible refine Keeps.foldl ?_ ?_
    | with_reducible refine Keeps.foldl_fst ?_ ?_
    | intro _
    | split
    | dsimp only
    | rfl
    | refine Keeps.upd ?_
    | simp only [updAt_length, List.length_map]

theorem State.queueStore_keeps {r s : State} (h : Keeps r s) (j : StoreJob) :
    Keeps r (State.queueStore s j) := by
  unfold State.queueStore
  repeat' first
    | with_reducible assumption
    | with_reducible apply State.tellStore_keeps
    | with_reducible apply State.beginStore_keeps
    | with_reducible refine Keeps.ite ?_ ?_
    | with_reducible refine Keeps.foldl ?_ ?_
    | with_reducible refine Keeps.foldl_fst ?_ ?_
    | intro _
    | split
    | dsimp only
    | rfl
    | refine Keeps.upd ?_
    | simp only [updAt_length, List.length_map]

theorem State.nextStore_keeps {r s : State} (h : Keeps r s) :
    Keeps r (State.nextStore s) := by
  unfold State.nextStore
  repeat' first
    | with_reducible assumption
    | with_reducible apply State.beginStore_keeps
    | with_reducible refine Keeps.ite ?_ ?_
    | with_reducible refine Keeps.foldl ?_ ?_
    | with_reducible refine Keeps.foldl_fst ?_ ?_
    | intro _
    | split
    | dsimp only
    | rfl
    | refine Keeps.upd ?_
    | simp only [updAt_length, List.length_map]

theorem State.abandonFirst_keeps {r s : State} (h : Keeps r s) (j : StoreJob) :
    Keeps r (State.abandonFirst s j) := by
  unfold State.abandonFirst
  repeat' first
    | with_reducible assumption
    | with_reducible apply State.bumpFree_keeps
    | with_reducible apply State.tellStore_keeps
    | with_reducible apply State.commitStore_keeps
    | with_reducible apply State.setCopy_keeps
    | with_reducible apply State.showSeq_keeps
    | with_reducible refine Keeps.ite ?_ ?_
    | with_reducible refine Keeps.foldl ?_ ?_
    | with_reducible refine Keeps.foldl_fst ?_ ?_
    | intro _
    | split
    | dsimp only
    | rfl
    | refine Keeps.upd ?_
    | simp only [updAt_length, List.length_map]

theorem State.abandonStores_keeps {r s : State} (h : Keeps r s) :
    Keeps r (State.abandonStores s) := by
  unfold State.abandonStores
  repeat' first
    | with_reducible assumption
    | with_reducible apply State.tellStore_keeps
    | with_reducible apply State.abandonFirst_keeps
    | with_reducible apply State.beginStore_keeps
    | with_reducible refine Keeps.ite ?_ ?_
    | with_reducible refine Keeps.foldl ?_ ?_
    | with_reducible refine Keeps.foldl_fst ?_ ?_
    | intro _
    | split
    | dsimp only
    | rfl
    | refine Keeps.upd ?_
    | simp only [updAt_length, List.length_map]

theorem State.storeOwn_keeps {r s : State} (h : Keeps r s) (kind : Nat) (payload : List Byte) :
    Keeps r (State.storeOwn s kind payload) := by
  unfold State.storeOwn
  repeat' first
    | with_reducible assumption
    | with_reducible apply State.queueStore_keeps
    | with_reducible refine Keeps.ite ?_ ?_
    | with_reducible refine Keeps.foldl ?_ ?_
    | with_reducible refine Keeps.foldl_fst ?_ ?_
    | intro _
    | split
    | dsimp only
    | rfl
    | refine Keeps.upd ?_
    | simp only [updAt_length, List.length_map]

theorem State.logSwap_keeps {r s : State} (h : Keeps r s) (kind : Nat) (result : Nat) (unit : Nat) (row : Nat) (spare : Nat) (cause : Nat) :
    Keeps r (State.logSwap s kind result unit row spare cause) := by
  unfold State.logSwap
  repeat' first
    | with_reducible assumption
    | with_reducible apply State.puts_keeps
    | with_reducible apply State.raiseIf_keeps
    | with_reducible apply State.queueStore_keeps
    | with_reducible refine Keeps.ite ?_ ?_
    | with_reducible refine Keeps.foldl ?_ ?_
    | with_reducible refine Keeps.foldl_fst ?_ ?_
    | intro _
    | split
    | dsimp only
    | rfl
    | refine Keeps.upd ?_
    | simp only [updAt_length, List.length_map]

theorem State.storeRepairs_keeps {r s : State} (h : Keeps r s) :
    Keeps r (State.storeRepairs s) := by
  unfold State.storeRepairs
  repeat' first
    | with_reducible assumption
    | with_reducible apply State.queueStore_keeps
    | with_reducible refine Keeps.ite ?_ ?_
    | with_reducible refine Keeps.foldl ?_ ?_
    | with_reducible refine Keeps.foldl_fst ?_ ?_
    | intro _
    | split
    | dsimp only
    | rfl
    | refine Keeps.upd ?_
    | simp only [updAt_length, List.length_map]

end Sys2Proof.Machine
end

