-- ==== Sys2Proof/Laws/Keeps/Lanes.lean ====
section
/-!
SUPPORT. What the operations of Machine/Lanes.lean keep.
-/

set_option Elab.async false
set_option linter.all false

namespace Sys2Proof.Machine

theorem State.showRoles_keeps {r s : State} (h : Keeps r s) (o : Nat) :
    Keeps r (State.showRoles s o) := by
  unfold State.showRoles
  repeat' first
    | with_reducible assumption
    | with_reducible apply State.puts_keeps
    | with_reducible apply State.setReg_keeps
    | with_reducible refine Keeps.ite ?_ ?_
    | with_reducible refine Keeps.foldl ?_ ?_
    | with_reducible refine Keeps.foldl_fst ?_ ?_
    | intro _
    | split
    | dsimp only
    | rfl
    | refine Keeps.upd ?_
    | simp only [updAt_length, List.length_map]

theorem State.sendBlock_keeps {r s : State} (h : Keeps r s) (n : Nat) (b : LaneBlock) :
    Keeps r (State.sendBlock s n b) := by
  unfold State.sendBlock
  repeat' first
    | with_reducible assumption
    | with_reducible apply State.setLane_keeps
    | with_reducible apply State.emit_keeps
    | with_reducible refine Keeps.ite ?_ ?_
    | with_reducible refine Keeps.foldl ?_ ?_
    | with_reducible refine Keeps.foldl_fst ?_ ?_
    | intro _
    | split
    | dsimp only
    | rfl
    | refine Keeps.upd ?_
    | simp only [updAt_length, List.length_map]

theorem State.sendNext_keeps {r s : State} (h : Keeps r s) (n : Nat) :
    Keeps r (State.sendNext s n) := by
  unfold State.sendNext
  repeat' first
    | with_reducible assumption
    | with_reducible apply State.setLane_keeps
    | with_reducible apply State.sendBlock_keeps
    | with_reducible refine Keeps.ite ?_ ?_
    | with_reducible refine Keeps.foldl ?_ ?_
    | with_reducible refine Keeps.foldl_fst ?_ ?_
    | intro _
    | split
    | dsimp only
    | rfl
    | refine Keeps.upd ?_
    | simp only [updAt_length, List.length_map]

theorem State.sendBlocks_keeps {r s : State} (h : Keeps r s) (n : Nat) (y0 : Nat) :
    Keeps r (State.sendBlocks s n y0) := by
  induction y0 generalizing s with
  | zero => first | exact h | (unfold State.sendBlocks; exact h) | (cases y1 <;> first | exact h | (unfold State.sendBlocks; exact h))
  | succ k ih =>
    unfold State.sendBlocks
    repeat' first
      | with_reducible assumption
      | with_reducible apply State.sendNext_keeps
      | with_reducible apply ih
      | with_reducible refine Keeps.ite ?_ ?_
      | with_reducible refine Keeps.foldl ?_ ?_
      | with_reducible refine Keeps.foldl_fst ?_ ?_
      | intro _
      | split
      | dsimp only
      | rfl
      | refine Keeps.upd ?_
      | simp only [updAt_length, List.length_map]

theorem State.laneTo_keeps {r s : State} (h : Keeps r s) (n : Nat) (t : Int) :
    Keeps r (State.laneTo s n t) := by
  unfold State.laneTo
  repeat' first
    | with_reducible assumption
    | with_reducible apply State.sendBlocks_keeps
    | with_reducible refine Keeps.ite ?_ ?_
    | with_reducible refine Keeps.foldl ?_ ?_
    | with_reducible refine Keeps.foldl_fst ?_ ?_
    | intro _
    | split
    | dsimp only
    | rfl
    | refine Keeps.upd ?_
    | simp only [updAt_length, List.length_map]

theorem State.laneClear_keeps {r s : State} (h : Keeps r s) (n : Nat) :
    Keeps r (State.laneClear s n) := by
  unfold State.laneClear
  repeat' first
    | with_reducible assumption
    | with_reducible apply State.laneTo_keeps
    | with_reducible apply State.sendBlocks_keeps
    | with_reducible refine Keeps.ite ?_ ?_
    | with_reducible refine Keeps.foldl ?_ ?_
    | with_reducible refine Keeps.foldl_fst ?_ ?_
    | intro _
    | split
    | dsimp only
    | rfl
    | refine Keeps.upd ?_
    | simp only [updAt_length, List.length_map]

theorem State.sendOrder_keeps {r s : State} (h : Keeps r s) (n : Nat) (opcode : Nat) (args : List Byte) :
    Keeps r (State.sendOrder s n opcode args) := by
  unfold State.sendOrder
  repeat' first
    | with_reducible assumption
    | with_reducible apply State.laneClear_keeps
    | with_reducible apply State.setLane_keeps
    | with_reducible apply State.sendBlock_keeps
    | with_reducible refine Keeps.ite ?_ ?_
    | with_reducible refine Keeps.foldl ?_ ?_
    | with_reducible refine Keeps.foldl_fst ?_ ?_
    | intro _
    | split
    | dsimp only
    | rfl
    | refine Keeps.upd ?_
    | simp only [updAt_length, List.length_map]

theorem State.startTraining_keeps {r s0 : State} (h : Keeps r s0) (n : Nat) :
    Keeps r (State.startTraining s0 n) := by
  unfold State.startTraining
  repeat' first
    | with_reducible assumption
    | with_reducible apply State.laneTo_keeps
    | with_reducible apply State.setLane_keeps
    | with_reducible apply State.bumpFree_keeps
    | with_reducible apply State.puts_keeps
    | with_reducible apply State.emit_keeps
    | with_reducible refine Keeps.ite ?_ ?_
    | with_reducible refine Keeps.foldl ?_ ?_
    | with_reducible refine Keeps.foldl_fst ?_ ?_
    | intro _
    | split
    | dsimp only
    | rfl
    | refine Keeps.upd ?_
    | simp only [updAt_length, List.length_map]

theorem State.beginService_keeps {r s : State} (h : Keeps r s) (n : Nat) :
    Keeps r (State.beginService s n) := by
  unfold State.beginService
  repeat' first
    | with_reducible assumption
    | with_reducible apply State.setLane_keeps
    | with_reducible apply State.puts_keeps
    | with_reducible apply State.startTraining_keeps
    | with_reducible refine Keeps.ite ?_ ?_
    | with_reducible refine Keeps.foldl ?_ ?_
    | with_reducible refine Keeps.foldl_fst ?_ ?_
    | intro _
    | split
    | dsimp only
    | rfl
    | refine Keeps.upd ?_
    | simp only [updAt_length, List.length_map]

theorem State.endTraining_keeps {r s : State} (h : Keeps r s) (n : Nat) :
    Keeps r (State.endTraining s n) := by
  unfold State.endTraining
  repeat' first
    | with_reducible assumption
    | with_reducible apply State.sendBlocks_keeps
    | with_reducible apply State.put_keeps
    | with_reducible refine Keeps.ite ?_ ?_
    | with_reducible refine Keeps.foldl ?_ ?_
    | with_reducible refine Keeps.foldl_fst ?_ ?_
    | intro _
    | split
    | dsimp only
    | rfl
    | refine Keeps.upd ?_
    | simp only [updAt_length, List.length_map]

theorem State.dropFrames_keeps {r s : State} (h : Keeps r s) (n : Nat) :
    Keeps r (State.dropFrames s n) := by
  unfold State.dropFrames
  repeat' first
    | with_reducible assumption
    | with_reducible refine Keeps.ite ?_ ?_
    | with_reducible refine Keeps.foldl ?_ ?_
    | with_reducible refine Keeps.foldl_fst ?_ ?_
    | intro _
    | split
    | dsimp only
    | rfl
    | refine Keeps.upd ?_
    | simp only [updAt_length, List.length_map]

theorem State.laneOff_keeps {r s : State} (h : Keeps r s) (n : Nat) :
    Keeps r (State.laneOff s n) := by
  unfold State.laneOff
  repeat' first
    | with_reducible assumption
    | with_reducible apply State.laneTo_keeps
    | with_reducible apply State.abortCal_keeps
    | with_reducible apply State.dropFrames_keeps
    | with_reducible apply State.setLane_keeps
    | with_reducible apply State.put_keeps
    | with_reducible apply State.emit_keeps
    | with_reducible refine Keeps.ite ?_ ?_
    | with_reducible refine Keeps.foldl ?_ ?_
    | with_reducible refine Keeps.foldl_fst ?_ ?_
    | intro _
    | split
    | dsimp only
    | rfl
    | refine Keeps.upd ?_
    | simp only [updAt_length, List.length_map]

theorem State.applyForced_keeps {r s : State} (h : Keeps r s) (n : Nat) :
    Keeps r (State.applyForced s n) := by
  unfold State.applyForced
  repeat' first
    | with_reducible assumption
    | with_reducible apply State.setLane_keeps
    | with_reducible apply State.setTaps_keeps
    | with_reducible refine Keeps.ite ?_ ?_
    | with_reducible refine Keeps.foldl ?_ ?_
    | with_reducible refine Keeps.foldl_fst ?_ ?_
    | intro _
    | split
    | dsimp only
    | rfl
    | refine Keeps.upd ?_
    | simp only [updAt_length, List.length_map]

theorem State.laneServe_keeps {r s : State} (h : Keeps r s) (n : Nat) :
    Keeps r (State.laneServe s n) := by
  unfold State.laneServe
  repeat' first
    | with_reducible assumption
    | with_reducible apply State.beginService_keeps
    | with_reducible refine Keeps.ite ?_ ?_
    | with_reducible refine Keeps.foldl ?_ ?_
    | with_reducible refine Keeps.foldl_fst ?_ ?_
    | intro _
    | split
    | dsimp only
    | rfl
    | refine Keeps.upd ?_
    | simp only [updAt_length, List.length_map]

theorem State.loseLane_keeps {r s : State} (h : Keeps r s) (n : Nat) (fault : Nat) :
    Keeps r (State.loseLane s n fault) := by
  unfold State.loseLane
  repeat' first
    | with_reducible assumption
    | with_reducible apply State.abortCal_keeps
    | with_reducible apply State.dropFrames_keeps
    | with_reducible apply State.raise_keeps
    | with_reducible apply State.beginService_keeps
    | with_reducible apply State.put_keeps
    | with_reducible refine Keeps.ite ?_ ?_
    | with_reducible refine Keeps.foldl ?_ ?_
    | with_reducible refine Keeps.foldl_fst ?_ ?_
    | intro _
    | split
    | dsimp only
    | rfl
    | refine Keeps.upd ?_
    | simp only [updAt_length, List.length_map]

theorem State.showRelief_keeps {r s : State} (h : Keeps r s) (g : Nat) :
    Keeps r (State.showRelief s g) := by
  unfold State.showRelief
  repeat' first
    | with_reducible assumption
    | with_reducible apply State.puts_keeps
    | with_reducible apply State.setReg_keeps
    | with_reducible refine Keeps.ite ?_ ?_
    | with_reducible refine Keeps.foldl ?_ ?_
    | with_reducible refine Keeps.foldl_fst ?_ ?_
    | intro _
    | split
    | dsimp only
    | rfl
    | refine Keeps.upd ?_
    | simp only [updAt_length, List.length_map]

theorem State.switchLane_keeps {r s : State} (h : Keeps r s) (n : Nat) (slice : Nat) :
    Keeps r (State.switchLane s n slice) := by
  unfold State.switchLane
  repeat' first
    | with_reducible assumption
    | with_reducible apply State.laneTo_keeps
    | with_reducible apply State.abortCal_keeps
    | with_reducible apply State.emit_keeps
    | with_reducible apply State.showRelief_keeps
    | with_reducible apply State.setLane_keeps
    | with_reducible apply State.put_keeps
    | with_reducible apply State.laneServe_keeps
    | with_reducible refine Keeps.ite ?_ ?_
    | with_reducible refine Keeps.foldl ?_ ?_
    | with_reducible refine Keeps.foldl_fst ?_ ?_
    | intro _
    | split
    | dsimp only
    | rfl
    | refine Keeps.upd ?_
    | simp only [updAt_length, List.length_map]

theorem State.setSwap_keeps {r s : State} (h : Keeps r s) (p : PendingSwap) (q : PendingSwap) :
    Keeps r (State.setSwap s p q) := by
  unfold State.setSwap
  repeat' first
    | with_reducible assumption
    | with_reducible refine Keeps.ite ?_ ?_
    | with_reducible refine Keeps.foldl ?_ ?_
    | with_reducible refine Keeps.foldl_fst ?_ ?_
    | intro _
    | split
    | dsimp only
    | rfl
    | refine Keeps.upd ?_
    | simp only [updAt_length, List.length_map]

theorem State.dropSwap_keeps {r s : State} (h : Keeps r s) (p : PendingSwap) :
    Keeps r (State.dropSwap s p) := by
  unfold State.dropSwap
  repeat' first
    | with_reducible assumption
    | with_reducible refine Keeps.ite ?_ ?_
    | with_reducible refine Keeps.foldl ?_ ?_
    | with_reducible refine Keeps.foldl_fst ?_ ?_
    | intro _
    | split
    | dsimp only
    | rfl
    | refine Keeps.upd ?_
    | simp only [updAt_length, List.length_map]

theorem State.endSwap_keeps {r s : State} (h : Keeps r s) (p : PendingSwap) (result : Nat) :
    Keeps r (State.endSwap s p result) := by
  unfold State.endSwap
  repeat' first
    | with_reducible assumption
    | with_reducible apply State.dropSwap_keeps
    | with_reducible apply State.logSwap_keeps
    | with_reducible apply State.mboxDone_keeps
    | with_reducible refine Keeps.ite ?_ ?_
    | with_reducible refine Keeps.foldl ?_ ?_
    | with_reducible refine Keeps.foldl_fst ?_ ?_
    | intro _
    | split
    | dsimp only
    | rfl
    | refine Keeps.upd ?_
    | simp only [updAt_length, List.length_map]

theorem State.idleSwap_keeps {r s : State} (h : Keeps r s) (p : PendingSwap) :
    Keeps r (State.idleSwap s p) := by
  unfold State.idleSwap
  repeat' first
    | with_reducible assumption
    | with_reducible apply State.endSwap_keeps
    | with_reducible apply State.showRelief_keeps
    | with_reducible apply State.setLane_keeps
    | with_reducible refine Keeps.ite ?_ ?_
    | with_reducible refine Keeps.foldl ?_ ?_
    | with_reducible refine Keeps.foldl_fst ?_ ?_
    | intro _
    | split
    | dsimp only
    | rfl
    | refine Keeps.upd ?_
    | simp only [updAt_length, List.length_map]

theorem State.settleLanes_keeps {r s : State} (h : Keeps r s) :
    Keeps r (State.settleLanes s) := by
  unfold State.settleLanes
  repeat' first
    | with_reducible assumption
    | with_reducible apply State.idleSwap_keeps
    | with_reducible refine Keeps.ite ?_ ?_
    | with_reducible refine Keeps.foldl ?_ ?_
    | with_reducible refine Keeps.foldl_fst ?_ ?_
    | intro _
    | split
    | dsimp only
    | rfl
    | refine Keeps.upd ?_
    | simp only [updAt_length, List.length_map]

theorem State.askLaneSwap_keeps {r s : State} (h : Keeps r s) (n : Nat) (cause : Nat) (slot : Option Nat) :
    Keeps r (State.askLaneSwap s n cause slot) := by
  unfold State.askLaneSwap
  repeat' first
    | with_reducible assumption
    | with_reducible apply State.idleSwap_keeps
    | with_reducible refine Keeps.ite ?_ ?_
    | with_reducible refine Keeps.foldl ?_ ?_
    | with_reducible refine Keeps.foldl_fst ?_ ?_
    | intro _
    | split
    | dsimp only
    | rfl
    | refine Keeps.upd ?_
    | simp only [updAt_length, List.length_map]

theorem State.laneWorn_keeps {r s : State} (h : Keeps r s) (n : Nat) (cause : Nat) :
    Keeps r (State.laneWorn s n cause) := by
  unfold State.laneWorn
  repeat' first
    | with_reducible assumption
    | with_reducible apply State.setLane_keeps
    | with_reducible apply State.raise_keeps
    | with_reducible apply State.askLaneSwap_keeps
    | with_reducible refine Keeps.ite ?_ ?_
    | with_reducible refine Keeps.foldl ?_ ?_
    | with_reducible refine Keeps.foldl_fst ?_ ?_
    | intro _
    | split
    | dsimp only
    | rfl
    | refine Keeps.upd ?_
    | simp only [updAt_length, List.length_map]

theorem State.setSideband_keeps {r s : State} (h : Keeps r s) (g : Nat) (f : SbState → SbState) :
    Keeps r (State.setSideband s g f) := by
  unfold State.setSideband
  repeat' first
    | with_reducible assumption
    | with_reducible refine Keeps.ite ?_ ?_
    | with_reducible refine Keeps.foldl ?_ ?_
    | with_reducible refine Keeps.foldl_fst ?_ ?_
    | intro _
    | split
    | dsimp only
    | rfl
    | refine Keeps.upd ?_
    | simp only [updAt_length, List.length_map]

theorem State.noteSbCollision_keeps {r s : State} (h : Keeps r s) (g : Nat) :
    Keeps r (State.noteSbCollision s g) := by
  unfold State.noteSbCollision
  repeat' first
    | with_reducible assumption
    | with_reducible apply State.count_keeps
    | with_reducible apply State.raise_keeps
    | with_reducible refine Keeps.ite ?_ ?_
    | with_reducible refine Keeps.foldl ?_ ?_
    | with_reducible refine Keeps.foldl_fst ?_ ?_
    | intro _
    | split
    | dsimp only
    | rfl
    | refine Keeps.upd ?_
    | simp only [updAt_length, List.length_map]

theorem State.pumpSideband_keeps {r s : State} (h : Keeps r s) (g : Nat) (low : BitVec 4) :
    Keeps r (State.pumpSideband s g low) := by
  unfold State.pumpSideband
  repeat' first
    | with_reducible assumption
    | with_reducible apply State.setSideband_keeps
    | with_reducible apply State.noteSbCollision_keeps
    | with_reducible apply State.emit_keeps
    | with_reducible refine Keeps.ite ?_ ?_
    | with_reducible refine Keeps.foldl ?_ ?_
    | with_reducible refine Keeps.foldl_fst ?_ ?_
    | intro _
    | split
    | dsimp only
    | rfl
    | refine Keeps.upd ?_
    | simp only [updAt_length, List.length_map]

theorem State.sbSend_keeps {r s : State} (h : Keeps r s) (f : SbFrame) (low : BitVec 4) :
    Keeps r (State.sbSend s f low) := by
  unfold State.sbSend
  repeat' first
    | with_reducible assumption
    | with_reducible apply State.setSideband_keeps
    | with_reducible apply State.pumpSideband_keeps
    | with_reducible refine Keeps.ite ?_ ?_
    | with_reducible refine Keeps.foldl ?_ ?_
    | with_reducible refine Keeps.foldl_fst ?_ ?_
    | intro _
    | split
    | dsimp only
    | rfl
    | refine Keeps.upd ?_
    | simp only [updAt_length, List.length_map]

theorem State.noteNoReply_keeps {r s : State} (h : Keeps r s) (f : SbFrame) (corrupt : Bool) :
    Keeps r (State.noteNoReply s f corrupt) := by
  unfold State.noteNoReply
  repeat' first
    | with_reducible assumption
    | with_reducible apply State.setLane_keeps
    | with_reducible apply State.loseLane_keeps
    | with_reducible apply State.setSideband_keeps
    | with_reducible refine Keeps.ite ?_ ?_
    | with_reducible refine Keeps.foldl ?_ ?_
    | with_reducible refine Keeps.foldl_fst ?_ ?_
    | intro _
    | split
    | dsimp only
    | rfl
    | refine Keeps.upd ?_
    | simp only [updAt_length, List.length_map]

theorem State.holdLanes_keeps {r s : State} (h : Keeps r s) (o : Nat) (limit : Nat) :
    Keeps r (State.holdLanes s o limit) := by
  unfold State.holdLanes
  repeat' first
    | with_reducible assumption
    | with_reducible apply State.sendOrder_keeps
    | with_reducible apply State.put_keeps
    | with_reducible apply State.setOut_keeps
    | with_reducible refine Keeps.ite ?_ ?_
    | with_reducible refine Keeps.foldl ?_ ?_
    | with_reducible refine Keeps.foldl_fst ?_ ?_
    | intro _
    | split
    | dsimp only
    | rfl
    | refine Keeps.upd ?_
    | simp only [updAt_length, List.length_map]

theorem State.resumeLanes_keeps {r s : State} (h : Keeps r s) (o : Nat) :
    Keeps r (State.resumeLanes s o) := by
  unfold State.resumeLanes
  repeat' first
    | with_reducible assumption
    | with_reducible apply State.sendOrder_keeps
    | with_reducible apply State.put_keeps
    | with_reducible apply State.setOut_keeps
    | with_reducible refine Keeps.ite ?_ ?_
    | with_reducible refine Keeps.foldl ?_ ?_
    | with_reducible refine Keeps.foldl_fst ?_ ?_
    | intro _
    | split
    | dsimp only
    | rfl
    | refine Keeps.upd ?_
    | simp only [updAt_length, List.length_map]

end Sys2Proof.Machine
end

