-- ==== Sys2Proof/Laws/Keeps/LaneCal.lean ====
section
/-!
SUPPORT. What the operations of Machine/LaneCal.lean keep.
-/

set_option Elab.async false
set_option linter.all false

namespace Sys2Proof.Machine

theorem State.setCal_keeps {r s : State} (h : Keeps r s) (n : Nat) (f : LaneCal → LaneCal) :
    Keeps r (State.setCal s n f) := by
  unfold State.setCal
  repeat' first
    | with_reducible assumption
    | with_reducible apply State.setLane_keeps
    | with_reducible refine Keeps.ite ?_ ?_
    | with_reducible refine Keeps.foldl ?_ ?_
    | with_reducible refine Keeps.foldl_fst ?_ ?_
    | intro _
    | split
    | dsimp only
    | rfl
    | refine Keeps.upd ?_
    | simp only [updAt_length, List.length_map]

theorem State.openWindow_keeps {r s : State} (h : Keeps r s) (n : Nat) (c : LaneCal) :
    Keeps r (State.openWindow s n c) := by
  unfold State.openWindow
  repeat' first
    | with_reducible assumption
    | with_reducible apply State.setCal_keeps
    | with_reducible apply State.laneTo_keeps
    | with_reducible apply State.setTaps_keeps
    | with_reducible apply State.setLane_keeps
    | with_reducible refine Keeps.ite ?_ ?_
    | with_reducible refine Keeps.foldl ?_ ?_
    | with_reducible refine Keeps.foldl_fst ?_ ?_
    | intro _
    | split
    | dsimp only
    | rfl
    | refine Keeps.upd ?_
    | simp only [updAt_length, List.length_map]

theorem State.beginTrial_keeps {r s : State} (h : Keeps r s) (n : Nat) (low : BitVec 4) :
    Keeps r (State.beginTrial s n low) := by
  unfold State.beginTrial
  repeat' first
    | with_reducible assumption
    | with_reducible apply State.setCal_keeps
    | with_reducible apply State.openWindow_keeps
    | with_reducible apply State.sbSend_keeps
    | with_reducible refine Keeps.ite ?_ ?_
    | with_reducible refine Keeps.foldl ?_ ?_
    | with_reducible refine Keeps.foldl_fst ?_ ?_
    | intro _
    | split
    | dsimp only
    | rfl
    | refine Keeps.upd ?_
    | simp only [updAt_length, List.length_map]

theorem State.calDone_keeps {r s : State} (h : Keeps r s) (n : Nat) (c : LaneCal) :
    Keeps r (State.calDone s n c) := by
  unfold State.calDone
  repeat' first
    | with_reducible assumption
    | with_reducible apply State.endCal_keeps
    | with_reducible apply State.setLane_keeps
    | with_reducible apply State.put_keeps
    | with_reducible apply State.raise_keeps
    | with_reducible apply State.laneWorn_keeps
    | with_reducible refine Keeps.ite ?_ ?_
    | with_reducible refine Keeps.foldl ?_ ?_
    | with_reducible refine Keeps.foldl_fst ?_ ?_
    | intro _
    | split
    | dsimp only
    | rfl
    | refine Keeps.upd ?_
    | simp only [updAt_length, List.length_map]

theorem State.calUnfinished_keeps {r s : State} (h : Keeps r s) (n : Nat) (c : LaneCal) :
    Keeps r (State.calUnfinished s n c) := by
  unfold State.calUnfinished
  repeat' first
    | with_reducible assumption
    | with_reducible apply State.endCal_keeps
    | with_reducible apply State.raise_keeps
    | with_reducible refine Keeps.ite ?_ ?_
    | with_reducible refine Keeps.foldl ?_ ?_
    | with_reducible refine Keeps.foldl_fst ?_ ?_
    | intro _
    | split
    | dsimp only
    | rfl
    | refine Keeps.upd ?_
    | simp only [updAt_length, List.length_map]

theorem State.nextTrial_keeps {r s : State} (h : Keeps r s) (n : Nat) (c : LaneCal) (done : Bool) (low : BitVec 4) :
    Keeps r (State.nextTrial s n c done low) := by
  unfold State.nextTrial
  repeat' first
    | with_reducible assumption
    | with_reducible apply State.setCal_keeps
    | with_reducible apply State.calDone_keeps
    | with_reducible apply State.setTaps_keeps
    | with_reducible apply State.beginTrial_keeps
    | with_reducible apply State.calUnfinished_keeps
    | with_reducible refine Keeps.ite ?_ ?_
    | with_reducible refine Keeps.foldl ?_ ?_
    | with_reducible refine Keeps.foldl_fst ?_ ?_
    | intro _
    | split
    | dsimp only
    | rfl
    | refine Keeps.upd ?_
    | simp only [updAt_length, List.length_map]

theorem State.startCal_keeps {r s : State} (h : Keeps r s) (n : Nat) (low : BitVec 4) :
    Keeps r (State.startCal s n low) := by
  unfold State.startCal
  repeat' first
    | with_reducible assumption
    | with_reducible apply State.setLane_keeps
    | with_reducible apply State.put_keeps
    | with_reducible apply State.beginTrial_keeps
    | with_reducible refine Keeps.ite ?_ ?_
    | with_reducible refine Keeps.foldl ?_ ?_
    | with_reducible refine Keeps.foldl_fst ?_ ?_
    | intro _
    | split
    | dsimp only
    | rfl
    | refine Keeps.upd ?_
    | simp only [updAt_length, List.length_map]

theorem State.watchTrials_keeps {r s : State} (h : Keeps r s) (o : Nat) (low : BitVec 4) :
    Keeps r (State.watchTrials s o low) := by
  unfold State.watchTrials
  repeat' first
    | with_reducible assumption
    | with_reducible apply State.beginTrial_keeps
    | with_reducible apply State.put_keeps
    | with_reducible apply State.startCal_keeps
    | with_reducible refine Keeps.ite ?_ ?_
    | with_reducible refine Keeps.foldl ?_ ?_
    | with_reducible refine Keeps.foldl_fst ?_ ?_
    | intro _
    | split
    | dsimp only
    | rfl
    | refine Keeps.upd ?_
    | simp only [updAt_length, List.length_map]

theorem State.quality_keeps {r s : State} (h : Keeps r s) (n : Nat) (l : List Byte) :
    Keeps r (State.quality s n l) := by
  unfold State.quality
  repeat' first
    | with_reducible assumption
    | with_reducible apply State.puts_keeps
    | with_reducible refine Keeps.ite ?_ ?_
    | with_reducible refine Keeps.foldl ?_ ?_
    | with_reducible refine Keeps.foldl_fst ?_ ?_
    | intro _
    | split
    | dsimp only
    | rfl
    | refine Keeps.upd ?_
    | simp only [updAt_length, List.length_map]

theorem State.judgeHist_keeps {r s : State} (h : Keeps r s) (n : Nat) (c : LaneCal) (l : List Byte) (low : BitVec 4) :
    Keeps r (State.judgeHist s n c l low) := by
  unfold State.judgeHist
  repeat' first
    | with_reducible assumption
    | with_reducible apply State.quality_keeps
    | with_reducible apply State.endCal_keeps
    | with_reducible apply State.nextTrial_keeps
    | with_reducible refine Keeps.ite ?_ ?_
    | with_reducible refine Keeps.foldl ?_ ?_
    | with_reducible refine Keeps.foldl_fst ?_ ?_
    | intro _
    | split
    | dsimp only
    | rfl
    | refine Keeps.upd ?_
    | simp only [updAt_length, List.length_map]

end Sys2Proof.Machine
end

