-- ==== Sys2Proof/Laws/Keeps/Routes.lean ====
section
/-!
SUPPORT. What the operations of Machine/Routes.lean keep.
-/

set_option Elab.async false
set_option linter.all false

namespace Sys2Proof.Machine

theorem State.setPort_keeps {r s : State} (h : Keeps r s) (p : Nat) (f : PortState → PortState) :
    Keeps r (State.setPort s p f) := by
  unfold State.setPort
  repeat' first
    | with_reducible assumption
    | with_reducible refine Keeps.ite ?_ ?_
    | with_reducible refine Keeps.foldl ?_ ?_
    | with_reducible refine Keeps.foldl_fst ?_ ?_
    | intro _
    | split
    | dsimp only
    | rfl
    | refine Keeps.upd ?_
    | simp only [updAt_length, List.length_map]

theorem State.showTimePort_keeps {r s : State} (h : Keeps r s) :
    Keeps r (State.showTimePort s) := by
  unfold State.showTimePort
  repeat' first
    | with_reducible assumption
    | with_reducible apply State.put_keeps
    | with_reducible refine Keeps.ite ?_ ?_
    | with_reducible refine Keeps.foldl ?_ ?_
    | with_reducible refine Keeps.foldl_fst ?_ ?_
    | intro _
    | split
    | dsimp only
    | rfl
    | refine Keeps.upd ?_
    | simp only [updAt_length, List.length_map]

end Sys2Proof.Machine
end

