-- ==== Sys2Proof/Laws/Keeps/Clock.lean ====
section
/-!
SUPPORT. What the operations of Machine/Clock.lean keep.
-/

set_option Elab.async false
set_option linter.all false

namespace Sys2Proof.Machine

theorem State.setTime_keeps {r s : State} (h : Keeps r s) (f : TimeState → TimeState) (hf : ∀ x, (f x).caps.length = x.caps.length) :
    Keeps r (s.setTime f) :=
  Keeps.upd h rfl (Nat.le_refl _) rfl rfl rfl rfl rfl rfl rfl rfl rfl (hf _) rfl rfl rfl

theorem State.setIncr_keeps {r s : State} (h : Keeps r s) (v : Int) :
    Keeps r (State.setIncr s v) := by
  unfold State.setIncr
  repeat' first
    | with_reducible assumption
    | with_reducible apply State.puts_keeps
    | with_reducible refine Keeps.ite ?_ ?_
    | with_reducible refine Keeps.foldl ?_ ?_
    | with_reducible refine Keeps.foldl_fst ?_ ?_
    | intro _
    | split
    | dsimp only
    | rfl
    | refine Keeps.upd ?_
    | simp only [updAt_length, List.length_map]

theorem State.checkWindows_keeps {r s : State} (h : Keeps r s) :
    Keeps r (State.checkWindows s) := by
  unfold State.checkWindows
  repeat' first
    | with_reducible assumption
    | with_reducible apply State.put_keeps
    | with_reducible apply State.raise_keeps
    | with_reducible refine Keeps.ite ?_ ?_
    | with_reducible refine Keeps.foldl ?_ ?_
    | with_reducible refine Keeps.foldl_fst ?_ ?_
    | intro _
    | split
    | dsimp only
    | rfl
    | refine Keeps.upd ?_
    | simp only [updAt_length, List.length_map]

theorem State.refPulse_keeps {r s : State} (h : Keeps r s) (mode : Nat) (out : Nat) (begun : Int) (period : Option Nat) :
    Keeps r (State.refPulse s mode out begun period) := by
  unfold State.refPulse
  repeat' first
    | with_reducible assumption
    | with_reducible apply State.emit_keeps
    | with_reducible refine Keeps.ite ?_ ?_
    | with_reducible refine Keeps.foldl ?_ ?_
    | with_reducible refine Keeps.foldl_fst ?_ ?_
    | intro _
    | split
    | dsimp only
    | rfl
    | refine Keeps.upd ?_
    | simp only [updAt_length, List.length_map]

theorem State.refDivide_keeps {r s : State} (h : Keeps r s) :
    Keeps r (State.refDivide s) := by
  unfold State.refDivide
  repeat' first
    | with_reducible assumption
    | with_reducible apply State.emit_keeps
    | with_reducible refine Keeps.ite ?_ ?_
    | with_reducible refine Keeps.foldl ?_ ?_
    | with_reducible refine Keeps.foldl_fst ?_ ?_
    | intro _
    | split
    | dsimp only
    | rfl
    | refine Keeps.upd ?_
    | simp only [updAt_length, List.length_map]

theorem State.noteJump_keeps {r s : State} (h : Keeps r s) (amount : Int) :
    Keeps r (State.noteJump s amount) := by
  unfold State.noteJump
  repeat' first
    | with_reducible assumption
    | with_reducible apply State.put_keeps
    | with_reducible apply State.raise_keeps
    | with_reducible refine Keeps.ite ?_ ?_
    | with_reducible refine Keeps.foldl ?_ ?_
    | with_reducible refine Keeps.foldl_fst ?_ ?_
    | intro _
    | split
    | dsimp only
    | rfl
    | refine Keeps.upd ?_
    | simp only [updAt_length, List.length_map]

theorem State.correct_keeps {r s : State} (h : Keeps r s) (o : Int) :
    Keeps r (State.correct s o) := by
  unfold State.correct
  repeat' first
    | with_reducible assumption
    | with_reducible apply State.setTime_keeps
    | with_reducible apply State.puts_keeps
    | with_reducible apply State.put_keeps
    | with_reducible refine Keeps.ite ?_ ?_
    | with_reducible refine Keeps.foldl ?_ ?_
    | with_reducible refine Keeps.foldl_fst ?_ ?_
    | intro _
    | split
    | dsimp only
    | rfl
    | refine Keeps.upd ?_
    | simp only [updAt_length, List.length_map]

theorem State.boundary_keeps {r s : State} (h : Keeps r s) :
    Keeps r (State.boundary s) := by
  unfold State.boundary
  repeat' first
    | with_reducible assumption
    | with_reducible apply State.setTime_keeps
    | with_reducible apply State.put_keeps
    | with_reducible apply State.noteJump_keeps
    | with_reducible apply State.puts_keeps
    | with_reducible apply State.checkWindows_keeps
    | with_reducible refine Keeps.ite ?_ ?_
    | with_reducible refine Keeps.foldl ?_ ?_
    | with_reducible refine Keeps.foldl_fst ?_ ?_
    | intro _
    | split
    | dsimp only
    | rfl
    | refine Keeps.upd ?_
    | simp only [updAt_length, List.length_map]

theorem State.showHoldover_keeps {r s : State} (h : Keeps r s) :
    Keeps r (State.showHoldover s) := by
  unfold State.showHoldover
  repeat' first
    | with_reducible assumption
    | with_reducible apply State.put_keeps
    | with_reducible apply State.setTime_keeps
    | with_reducible apply State.raiseIf_keeps
    | with_reducible refine Keeps.ite ?_ ?_
    | with_reducible refine Keeps.foldl ?_ ?_
    | with_reducible refine Keeps.foldl_fst ?_ ?_
    | intro _
    | split
    | dsimp only
    | rfl
    | refine Keeps.upd ?_
    | simp only [updAt_length, List.length_map]

theorem State.loseSource_keeps {r s : State} (h : Keeps r s) (code : Nat) :
    Keeps r (State.loseSource s code) := by
  unfold State.loseSource
  repeat' first
    | with_reducible assumption
    | with_reducible apply State.put_keeps
    | with_reducible apply State.setTime_keeps
    | with_reducible apply State.raise_keeps
    | with_reducible apply State.showHoldover_keeps
    | with_reducible refine Keeps.ite ?_ ?_
    | with_reducible refine Keeps.foldl ?_ ?_
    | with_reducible refine Keeps.foldl_fst ?_ ?_
    | intro _
    | split
    | dsimp only
    | rfl
    | refine Keeps.upd ?_
    | simp only [updAt_length, List.length_map]

theorem State.holdRoute_keeps {r s : State} (h : Keeps r s) :
    Keeps r (State.holdRoute s) := by
  unfold State.holdRoute
  repeat' first
    | with_reducible assumption
    | with_reducible apply State.showTimePort_keeps
    | with_reducible apply State.setTime_keeps
    | with_reducible apply State.showHoldover_keeps
    | with_reducible apply State.put_keeps
    | with_reducible refine Keeps.ite ?_ ?_
    | with_reducible refine Keeps.foldl ?_ ?_
    | with_reducible refine Keeps.foldl_fst ?_ ?_
    | intro _
    | split
    | dsimp only
    | rfl
    | refine Keeps.upd ?_
    | simp only [updAt_length, List.length_map]

theorem State.showRole_keeps {r s : State} (h : Keeps r s) :
    Keeps r (State.showRole s) := by
  unfold State.showRole
  repeat' first
    | with_reducible assumption
    | with_reducible apply State.put_keeps
    | with_reducible apply State.setTime_keeps
    | with_reducible apply State.showHoldover_keeps
    | with_reducible apply State.showTimePort_keeps
    | with_reducible refine Keeps.ite ?_ ?_
    | with_reducible refine Keeps.foldl ?_ ?_
    | with_reducible refine Keeps.foldl_fst ?_ ?_
    | intro _
    | split
    | dsimp only
    | rfl
    | refine Keeps.upd ?_
    | simp only [updAt_length, List.length_map]

theorem State.capture_keeps {r s : State} (h : Keeps r s) (k : Nat) (sub : Nat) :
    Keeps r (State.capture s k sub) := by
  unfold State.capture
  repeat' first
    | with_reducible assumption
    | with_reducible apply State.setTime_keeps
    | with_reducible apply State.put_keeps
    | with_reducible apply State.raise_keeps
    | with_reducible refine Keeps.ite ?_ ?_
    | with_reducible refine Keeps.foldl ?_ ?_
    | with_reducible refine Keeps.foldl_fst ?_ ?_
    | intro _
    | split
    | dsimp only
    | rfl
    | refine Keeps.upd ?_
    | simp only [updAt_length, List.length_map]

theorem State.showSwlog_keeps {r s : State} (h : Keeps r s) :
    Keeps r (State.showSwlog s) := by
  unfold State.showSwlog
  repeat' first
    | with_reducible assumption
    | with_reducible apply State.puts_keeps
    | with_reducible refine Keeps.ite ?_ ?_
    | with_reducible refine Keeps.foldl ?_ ?_
    | with_reducible refine Keeps.foldl_fst ?_ ?_
    | intro _
    | split
    | dsimp only
    | rfl
    | refine Keeps.upd ?_
    | simp only [updAt_length, List.length_map]

theorem State.showTxq_keeps {r s : State} (h : Keeps r s) :
    Keeps r (State.showTxq s) := by
  unfold State.showTxq
  repeat' first
    | with_reducible assumption
    | with_reducible apply State.puts_keeps
    | with_reducible refine Keeps.ite ?_ ?_
    | with_reducible refine Keeps.foldl ?_ ?_
    | with_reducible refine Keeps.foldl_fst ?_ ?_
    | intro _
    | split
    | dsimp only
    | rfl
    | refine Keeps.upd ?_
    | simp only [updAt_length, List.length_map]

theorem State.txStamp_keeps {r s : State} (h : Keeps r s) (seq : Nat) (sub : Nat) :
    Keeps r (State.txStamp s seq sub) := by
  unfold State.txStamp
  repeat' first
    | with_reducible assumption
    | with_reducible apply State.count_keeps
    | with_reducible apply State.raiseIf_keeps
    | with_reducible apply State.setTime_keeps
    | with_reducible apply State.showTxq_keeps
    | with_reducible refine Keeps.ite ?_ ?_
    | with_reducible refine Keeps.foldl ?_ ?_
    | with_reducible refine Keeps.foldl_fst ?_ ?_
    | intro _
    | split
    | dsimp only
    | rfl
    | refine Keeps.upd ?_
    | simp only [updAt_length, List.length_map]

theorem State.exchange_keeps {r s : State} (h : Keeps r s) (p : Nat) (t1 : Nat) (t2 : Nat) (t3 : Nat) (t4 : Nat) :
    Keeps r (State.exchange s p t1 t2 t3 t4) := by
  unfold State.exchange
  repeat' first
    | with_reducible assumption
    | with_reducible apply State.setTime_keeps
    | with_reducible apply State.put_keeps
    | with_reducible refine Keeps.ite ?_ ?_
    | with_reducible refine Keeps.foldl ?_ ?_
    | with_reducible refine Keeps.foldl_fst ?_ ?_
    | intro _
    | split
    | dsimp only
    | rfl
    | refine Keeps.upd ?_
    | simp only [updAt_length, List.length_map]

end Sys2Proof.Machine
end

