-- ==== Sys2Proof/Laws/Keeps/Streams.lean ====
section
/-!
SUPPORT. What the operations of Machine/Streams.lean keep.
-/

set_option Elab.async false
set_option linter.all false

namespace Sys2Proof.Machine

theorem State.setTx_keeps {r s : State} (h : Keeps r s) (n : Nat) (f : TxStream → TxStream) :
    Keeps r (State.setTx s n f) := by
  unfold State.setTx
  repeat' first
    | with_reducible assumption
    | with_reducible refine Keeps.ite ?_ ?_
    | with_reducible refine Keeps.foldl ?_ ?_
    | with_reducible refine Keeps.foldl_fst ?_ ?_
    | intro _
    | split
    | dsimp only
    | rfl
    | refine Keeps.upd ?_
    | simp only [updAt_length, List.length_map]

theorem State.abandonTx_keeps {r s : State} (h : Keeps r s) (n : Nat) :
    Keeps r (State.abandonTx s n) := by
  unfold State.abandonTx
  repeat' first
    | with_reducible assumption
    | with_reducible apply State.setTx_keeps
    | with_reducible apply State.count_keeps
    | with_reducible apply State.raise_keeps
    | with_reducible refine Keeps.ite ?_ ?_
    | with_reducible refine Keeps.foldl ?_ ?_
    | with_reducible refine Keeps.foldl_fst ?_ ?_
    | intro _
    | split
    | dsimp only
    | rfl
    | refine Keeps.upd ?_
    | simp only [updAt_length, List.length_map]

theorem State.txCheck_keeps {r s : State} (h : Keeps r s) (n : Nat) :
    Keeps r (State.txCheck s n) := by
  unfold State.txCheck
  repeat' first
    | with_reducible assumption
    | with_reducible apply State.put_keeps
    | with_reducible refine Keeps.ite ?_ ?_
    | with_reducible refine Keeps.foldl ?_ ?_
    | with_reducible refine Keeps.foldl_fst ?_ ?_
    | intro _
    | split
    | dsimp only
    | rfl
    | refine Keeps.upd ?_
    | simp only [updAt_length, List.length_map]

theorem State.txStop_keeps {r s : State} (h : Keeps r s) (n : Nat) :
    Keeps r (State.txStop s n) := by
  unfold State.txStop
  repeat' first
    | with_reducible assumption
    | with_reducible apply State.abandonTx_keeps
    | with_reducible apply State.txCheck_keeps
    | with_reducible refine Keeps.ite ?_ ?_
    | with_reducible refine Keeps.foldl ?_ ?_
    | with_reducible refine Keeps.foldl_fst ?_ ?_
    | intro _
    | split
    | dsimp only
    | rfl
    | refine Keeps.upd ?_
    | simp only [updAt_length, List.length_map]

theorem State.txLanding_keeps {r s : State} (h : Keeps r s) (n : Nat) (moved : Bool) :
    Keeps r (State.txLanding s n moved) := by
  unfold State.txLanding
  repeat' first
    | with_reducible assumption
    | with_reducible apply State.abandonTx_keeps
    | with_reducible apply State.txCheck_keeps
    | with_reducible apply State.setTx_keeps
    | with_reducible refine Keeps.ite ?_ ?_
    | with_reducible refine Keeps.foldl ?_ ?_
    | with_reducible refine Keeps.foldl_fst ?_ ?_
    | intro _
    | split
    | dsimp only
    | rfl
    | refine Keeps.upd ?_
    | simp only [updAt_length, List.length_map]

theorem State.nextRecord_keeps {r s : State} (h : Keeps r s) (n : Nat) (x : TxFrame) (p) (e : s.nextRecord n x = .ok p) : Keeps r p.1 := by
  unfold State.nextRecord at e
  dsimp only at e
  repeat' split at e
  all_goals cases e
  · exact h
  · exact h
  · exact Keeps.foldl h fun _ _ k => State.noteRun_keeps k _ _

theorem State.fillTx_keeps {r s : State} (h : Keeps r s) (n k : Nat) (x : TxFrame) (p) (e : s.fillTx n k x = .ok p) : Keeps r p.1 := by
  induction k generalizing s x with
  | zero => cases e; exact h
  | succ k ih =>
    simp only [State.fillTx] at e
    split at e
    · cases e; exact h
    split at e
    · cases e
    · rename_i q hq
      exact ih (State.nextRecord_keeps h n x q hq) _ e

theorem State.feedTx_keeps {r s : State} (h : Keeps r s) (n : Nat) (x : TxFrame) (rest : List TxFrame) : Keeps r (State.feedTx s n x rest) := by
  unfold State.feedTx
  split
  · rename_i q hq
    exact State.setTx_keeps (State.fillTx_keeps h n 12 x q hq) _ _
  · exact State.violate_keeps (State.abandonTx_keeps h n) _ _ _ _ _

theorem State.nextTxFlit_keeps {r s : State} (h : Keeps r s) (n : Nat) (p) (e : s.nextTxFlit n = some p) : Keeps r p.2.2 := by
  have h0 : Keeps r (if s.frozen (0xC0 + n) then s.abandonTx n else if (s.txs n).frames.isEmpty then s else s.txStop n) :=
    Keeps.ite (State.abandonTx_keeps h n) (Keeps.ite h (State.txStop_keeps h n))
  unfold State.nextTxFlit at e
  generalize (if s.frozen (0xC0 + n) then s.abandonTx n else if (s.txs n).frames.isEmpty then s else s.txStop n) = u at e h0
  dsimp only at e
  split at e
  · cases e
  · have h1 := fun x rest => State.feedTx_keeps h0 n x rest
    split at e
    · cases e
    · split at e
      · cases e
      · cases e
        dsimp only
        split
        · exact State.puts_keeps (State.setTx_keeps (h1 _ _) _ _) _
        · exact State.setTx_keeps (h1 _ _) _ _

theorem State.setRx_keeps {r s : State} (h : Keeps r s) (m : Nat) (f : Option RxFrame) :
    Keeps r (State.setRx s m f) := by
  unfold State.setRx
  repeat' first
    | with_reducible assumption
    | with_reducible refine Keeps.ite ?_ ?_
    | with_reducible refine Keeps.foldl ?_ ?_
    | with_reducible refine Keeps.foldl_fst ?_ ?_
    | intro _
    | split
    | dsimp only
    | rfl
    | refine Keeps.upd ?_
    | simp only [updAt_length, List.length_map]

theorem State.skipRx_keeps {r s : State} (h : Keeps r s) (m : Nat) (l : List Byte) :
    Keeps r (State.skipRx s m l) := by
  unfold State.skipRx
  repeat' first
    | with_reducible assumption
    | with_reducible refine Keeps.ite ?_ ?_
    | with_reducible refine Keeps.foldl ?_ ?_
    | with_reducible refine Keeps.foldl_fst ?_ ?_
    | intro _
    | split
    | dsimp only
    | rfl
    | refine Keeps.upd ?_
    | simp only [updAt_length, List.length_map]

theorem State.dropRx_keeps {r s : State} (h : Keeps r s) (m : Nat) (code : Nat) (left : List Byte) :
    Keeps r (State.dropRx s m code left) := by
  unfold State.dropRx
  repeat' first
    | with_reducible assumption
    | with_reducible apply State.setRx_keeps
    | with_reducible apply State.skipRx_keeps
    | with_reducible apply State.put_keeps
    | with_reducible apply State.count_keeps
    | with_reducible apply State.raise_keeps
    | with_reducible refine Keeps.ite ?_ ?_
    | with_reducible refine Keeps.foldl ?_ ?_
    | with_reducible refine Keeps.foldl_fst ?_ ?_
    | intro _
    | split
    | dsimp only
    | rfl
    | refine Keeps.upd ?_
    | simp only [updAt_length, List.length_map]

theorem State.rxStart_keeps {r s : State} (h : Keeps r s) (m : Nat) (x : RxFrame) (h' : List Byte) :
    Keeps r (State.rxStart s m x h') := by
  unfold State.rxStart
  repeat' first
    | with_reducible assumption
    | with_reducible apply State.dropRx_keeps
    | with_reducible apply State.put_keeps
    | with_reducible apply State.count_keeps
    | with_reducible apply State.setRx_keeps
    | with_reducible refine Keeps.ite ?_ ?_
    | with_reducible refine Keeps.foldl ?_ ?_
    | with_reducible refine Keeps.foldl_fst ?_ ?_
    | intro _
    | split
    | dsimp only
    | rfl
    | refine Keeps.upd ?_
    | simp only [updAt_length, List.length_map]

theorem State.rxWrite_keeps {r s : State} (h : Keeps r s) (m : Nat) (x : RxFrame) (p : Nat) (first : Nat) (f : SrcFormat) (rows : List (List Byte)) :
    Keeps r (State.rxWrite s m x p first f rows) := by
  unfold State.rxWrite
  repeat' first
    | with_reducible assumption
    | with_reducible apply State.storeNow_keeps
    | with_reducible refine Keeps.ite ?_ ?_
    | with_reducible refine Keeps.foldl ?_ ?_
    | with_reducible refine Keeps.foldl_fst ?_ ?_
    | intro _
    | split
    | dsimp only
    | rfl
    | refine Keeps.upd ?_
    | simp only [updAt_length, List.length_map]

theorem State.rxRecord_keeps {r s : State} (h : Keeps r s) (m : Nat) (x : RxFrame) : KeepsOpt r (s.rxRecord m x) := by
  unfold State.rxRecord
  dsimp only
  repeat' first
    | exact KeepsOpt.none
    | refine KeepsOpt.some ?_
    | with_reducible refine KeepsOpt.ite ?_ ?_
    | split
  all_goals repeat' first
    | with_reducible assumption
    | with_reducible refine Keeps.ite ?_ ?_
    | with_reducible apply State.dropRx_keeps
    | with_reducible apply State.rxStart_keeps
    | with_reducible apply State.setRx_keeps
    | with_reducible apply State.rxWrite_keeps
    | with_reducible apply State.puts_keeps
    | with_reducible apply State.put_keeps
    | with_reducible apply State.count_keeps

theorem State.rxRecords_keeps {r s : State} (h : Keeps r s) (m k : Nat) : Keeps r (s.rxRecords m k) := by
  induction k generalizing s with
  | zero => exact h
  | succ k ih =>
    simp only [State.rxRecords]
    split
    · exact h
    · split
      · exact h
      · next e => exact ih (State.rxRecord_keeps h _ _ _ e)

theorem State.rxUse_keeps {r s : State} (h : Keeps r s) (m : Nat) :
    Keeps r (State.rxUse s m) := by
  unfold State.rxUse
  repeat' first
    | with_reducible assumption
    | with_reducible apply State.rxRecords_keeps
    | with_reducible refine Keeps.ite ?_ ?_
    | with_reducible refine Keeps.foldl ?_ ?_
    | with_reducible refine Keeps.foldl_fst ?_ ?_
    | intro _
    | split
    | dsimp only
    | rfl
    | refine Keeps.upd ?_
    | simp only [updAt_length, List.length_map]

theorem State.streamGo_keeps {r s : State} (h : Keeps r s) (before : State) :
    Keeps r (State.streamGo s before) := by
  unfold State.streamGo
  repeat' first
    | with_reducible assumption
    | with_reducible apply State.conflict_keeps
    | with_reducible apply State.rxUse_keeps
    | with_reducible refine Keeps.ite ?_ ?_
    | with_reducible refine Keeps.foldl ?_ ?_
    | with_reducible refine Keeps.foldl_fst ?_ ?_
    | intro _
    | split
    | dsimp only
    | rfl
    | refine Keeps.upd ?_
    | simp only [updAt_length, List.length_map]

theorem State.rxBegin_keeps {r s : State} (h : Keeps r s) (m : Nat) (p : Nat) (flit : List Byte) :
    Keeps r (State.rxBegin s m p flit) := by
  unfold State.rxBegin
  repeat' first
    | with_reducible assumption
    | with_reducible apply State.setRx_keeps
    | with_reducible apply State.rxUse_keeps
    | with_reducible apply State.skipRx_keeps
    | with_reducible apply State.dropRx_keeps
    | with_reducible refine Keeps.ite ?_ ?_
    | with_reducible refine Keeps.foldl ?_ ?_
    | with_reducible refine Keeps.foldl_fst ?_ ?_
    | intro _
    | split
    | dsimp only
    | rfl
    | refine Keeps.upd ?_
    | simp only [updAt_length, List.length_map]

theorem State.rxFlit_keeps {r s : State} (h : Keeps r s) (m : Nat) (p : Nat) (flit : List Byte) :
    Keeps r (State.rxFlit s m p flit) := by
  unfold State.rxFlit
  repeat' first
    | with_reducible assumption
    | with_reducible apply State.dropRx_keeps
    | with_reducible apply State.rxBegin_keeps
    | with_reducible apply State.setRx_keeps
    | with_reducible apply State.rxUse_keeps
    | with_reducible refine Keeps.ite ?_ ?_
    | with_reducible refine Keeps.foldl ?_ ?_
    | with_reducible refine Keeps.foldl_fst ?_ ?_
    | intro _
    | split
    | dsimp only
    | rfl
    | refine Keeps.upd ?_
    | simp only [updAt_length, List.length_map]

end Sys2Proof.Machine
end

