-- ==== Sys2Proof/Laws/Keeps/Flits.lean ====
section
/-!
SUPPORT. What the operations of Machine/Flits.lean keep.
-/

set_option Elab.async false
set_option linter.all false

namespace Sys2Proof.Machine

theorem State.takeSeq_keeps {r s : State} (h : Keeps r s) (type : Nat) :
    Keeps r (State.takeSeq s type).2 := by
  unfold State.takeSeq
  repeat' first
    | with_reducible assumption
    | with_reducible refine Keeps.ite ?_ ?_
    | with_reducible refine Keeps.foldl ?_ ?_
    | with_reducible refine Keeps.foldl_fst ?_ ?_
    | intro _
    | split
    | dsimp only
    | rfl
    | refine Keeps.upd ?_
    | simp only [updAt_length, List.length_map]

theorem State.queueFlit_keeps {r s : State} (h : Keeps r s) (p : Nat) (cls : Nat) (host : Bool) (f : List Byte) :
    Keeps r (State.queueFlit s p cls host f) := by
  unfold State.queueFlit
  repeat' first
    | with_reducible assumption
    | with_reducible apply State.count_keeps
    | with_reducible apply State.setPort_keeps
    | with_reducible refine Keeps.ite ?_ ?_
    | with_reducible refine Keeps.foldl ?_ ?_
    | with_reducible refine Keeps.foldl_fst ?_ ?_
    | intro _
    | split
    | dsimp only
    | rfl
    | refine Keeps.upd ?_
    | simp only [updAt_length, List.length_map]

theorem State.sendOwn_keeps {r s : State} (h : Keeps r s) (ports : List Nat) (host : Bool) (f : List Byte) :
    Keeps r (State.sendOwn s ports host f) := by
  unfold State.sendOwn
  repeat' first
    | with_reducible assumption
    | with_reducible apply State.queueFlit_keeps
    | with_reducible refine Keeps.ite ?_ ?_
    | with_reducible refine Keeps.foldl ?_ ?_
    | with_reducible refine Keeps.foldl_fst ?_ ?_
    | intro _
    | split
    | dsimp only
    | rfl
    | refine Keeps.upd ?_
    | simp only [updAt_length, List.length_map]

theorem State.judgeViews_keeps {r s : State} (h : Keeps r s) (a : Nat) :
    Keeps r (State.judgeViews s a) := by
  unfold State.judgeViews
  repeat' first
    | with_reducible assumption
    | with_reducible apply State.count_keeps
    | with_reducible apply State.raise_keeps
    | with_reducible refine Keeps.ite ?_ ?_
    | with_reducible refine Keeps.foldl ?_ ?_
    | with_reducible refine Keeps.foldl_fst ?_ ?_
    | intro _
    | split
    | dsimp only
    | rfl
    | refine Keeps.upd ?_
    | simp only [updAt_length, List.length_map]

theorem State.noteData_keeps {r s : State} (h : Keeps r s) (a : Nat) (p : Nat) (hops : Nat) :
    Keeps r (State.noteData s a p hops) := by
  unfold State.noteData
  repeat' first
    | with_reducible assumption
    | with_reducible apply State.judgeViews_keeps
    | with_reducible refine Keeps.ite ?_ ?_
    | with_reducible refine Keeps.foldl ?_ ?_
    | with_reducible refine Keeps.foldl_fst ?_ ?_
    | intro _
    | split
    | dsimp only
    | rfl
    | refine Keeps.upd ?_
    | simp only [updAt_length, List.length_map]

theorem State.learn_keeps {r s : State} (h : Keeps r s) (a : Nat) (p : Nat) (hops : Nat) :
    Keeps r (State.learn s a p hops) := by
  unfold State.learn
  repeat' first
    | with_reducible assumption
    | with_reducible apply State.judgeViews_keeps
    | with_reducible refine Keeps.ite ?_ ?_
    | with_reducible refine Keeps.foldl ?_ ?_
    | with_reducible refine Keeps.foldl_fst ?_ ?_
    | intro _
    | split
    | dsimp only
    | rfl
    | refine Keeps.upd ?_
    | simp only [updAt_length, List.length_map]

theorem State.linkFlit_keeps {r s : State} (h : Keeps r s) (p : Nat) :
    Keeps r (State.linkFlit s p).2 := by
  unfold State.linkFlit
  repeat' first
    | with_reducible assumption
    | with_reducible apply State.takeSeq_keeps
    | with_reducible refine Keeps.ite ?_ ?_
    | with_reducible refine Keeps.foldl ?_ ?_
    | with_reducible refine Keeps.foldl_fst ?_ ?_
    | intro _
    | split
    | dsimp only
    | rfl
    | refine Keeps.upd ?_
    | simp only [updAt_length, List.length_map]

theorem State.timeFlit_keeps {r s : State} (h : Keeps r s) (p : Nat) (sub : Nat) :
    Keeps r (State.timeFlit s p sub).2 := by
  unfold State.timeFlit
  repeat' first
    | with_reducible assumption
    | with_reducible apply State.takeSeq_keeps
    | with_reducible apply State.setPort_keeps
    | with_reducible refine Keeps.ite ?_ ?_
    | with_reducible refine Keeps.foldl ?_ ?_
    | with_reducible refine Keeps.foldl_fst ?_ ?_
    | intro _
    | split
    | dsimp only
    | rfl
    | refine Keeps.upd ?_
    | simp only [updAt_length, List.length_map]

theorem State.showCredits_keeps {r s : State} (h : Keeps r s) (p : Nat) :
    Keeps r (State.showCredits s p) := by
  unfold State.showCredits
  repeat' first
    | with_reducible assumption
    | with_reducible apply State.put_keeps
    | with_reducible refine Keeps.ite ?_ ?_
    | with_reducible refine Keeps.foldl ?_ ?_
    | with_reducible refine Keeps.foldl_fst ?_ ?_
    | intro _
    | split
    | dsimp only
    | rfl
    | refine Keeps.upd ?_
    | simp only [updAt_length, List.length_map]

end Sys2Proof.Machine
end

