-- ==== Sys2Proof/Laws/Keeps/Board.lean ====
section
/-!
SUPPORT. What the operations of Machine/Board.lean keep.
-/

set_option Elab.async false
set_option linter.all false

namespace Sys2Proof.Machine

theorem State.linksDue_keeps {r s : State} (h : Keeps r s) :
    Keeps r (State.linksDue s) := by
  unfold State.linksDue
  repeat' first
    | with_reducible assumption
    | with_reducible refine Keeps.ite ?_ ?_
    | with_reducible refine Keeps.foldl ?_ ?_
    | with_reducible refine Keeps.foldl_fst ?_ ?_
    | intro _
    | split
    | dsimp only
    | rfl
    | refine Keeps.upd ?_
    | simp only [updAt_length, List.length_map]

theorem State.newEpoch_keeps {r s : State} (h : Keeps r s) (e : Nat) :
    Keeps r (State.newEpoch s e) := by
  unfold State.newEpoch
  repeat' first
    | with_reducible assumption
    | with_reducible apply State.puts_keeps
    | with_reducible apply State.linksDue_keeps
    | with_reducible refine Keeps.ite ?_ ?_
    | with_reducible refine Keeps.foldl ?_ ?_
    | with_reducible refine Keeps.foldl_fst ?_ ?_
    | intro _
    | split
    | dsimp only
    | rfl
    | refine Keeps.upd ?_
    | simp only [updAt_length, List.length_map]

theorem State.sendToken_keeps {r s : State} (h : Keeps r s) (p : Nat) (next : Nat) (ret : Bool) (full : Bool) :
    Keeps r (State.sendToken s p next ret full) := by
  unfold State.sendToken
  repeat' first
    | with_reducible assumption
    | with_reducible apply State.takeSeq_keeps
    | with_reducible apply State.queueFlit_keeps
    | with_reducible refine Keeps.ite ?_ ?_
    | with_reducible refine Keeps.foldl ?_ ?_
    | with_reducible refine Keeps.foldl_fst ?_ ?_
    | intro _
    | split
    | dsimp only
    | rfl
    | refine Keeps.upd ?_
    | simp only [updAt_length, List.length_map]

theorem State.boardEnd_keeps {r s : State} (h : Keeps r s) (code : Nat) :
    Keeps r (State.boardEnd s code) := by
  unfold State.boardEnd
  repeat' first
    | with_reducible assumption
    | with_reducible apply State.puts_keeps
    | with_reducible refine Keeps.ite ?_ ?_
    | with_reducible refine Keeps.foldl ?_ ?_
    | with_reducible refine Keeps.foldl_fst ?_ ?_
    | intro _
    | split
    | dsimp only
    | rfl
    | refine Keeps.upd ?_
    | simp only [updAt_length, List.length_map]

theorem State.ringViews_keeps {r s : State} (h : Keeps r s) (q : Nat) :
    Keeps r (State.ringViews s q) := by
  unfold State.ringViews
  repeat' first
    | with_reducible assumption
    | with_reducible apply State.learn_keeps
    | with_reducible refine Keeps.ite ?_ ?_
    | with_reducible refine Keeps.foldl ?_ ?_
    | with_reducible refine Keeps.foldl_fst ?_ ?_
    | intro _
    | split
    | dsimp only
    | rfl
    | refine Keeps.upd ?_
    | simp only [updAt_length, List.length_map]

theorem State.boardDone_keeps {r s : State} (h : Keeps r s) (next : Nat) (ring : Option Nat) :
    Keeps r (State.boardDone s next ring) := by
  unfold State.boardDone
  repeat' first
    | with_reducible assumption
    | with_reducible apply State.boardEnd_keeps
    | with_reducible apply State.puts_keeps
    | with_reducible apply State.raise_keeps
    | with_reducible apply State.ringViews_keeps
    | with_reducible apply State.linksDue_keeps
    | with_reducible refine Keeps.ite ?_ ?_
    | with_reducible refine Keeps.foldl ?_ ?_
    | with_reducible refine Keeps.foldl_fst ?_ ?_
    | intro _
    | split
    | dsimp only
    | rfl
    | refine Keeps.upd ?_
    | simp only [updAt_length, List.length_map]

theorem State.tokenDown_keeps {r s : State} (h : Keeps r s) (next : Nat) :
    Keeps r (State.tokenDown s next) := by
  unfold State.tokenDown
  repeat' first
    | with_reducible assumption
    | with_reducible apply State.put_keeps
    | with_reducible apply State.sendToken_keeps
    | with_reducible apply State.boardDone_keeps
    | with_reducible refine Keeps.ite ?_ ?_
    | with_reducible refine Keeps.foldl ?_ ?_
    | with_reducible refine Keeps.foldl_fst ?_ ?_
    | intro _
    | split
    | dsimp only
    | rfl
    | refine Keeps.upd ?_
    | simp only [updAt_length, List.length_map]

theorem State.tokenOn_keeps {r s : State} (h : Keeps r s) (next : Nat) :
    Keeps r (State.tokenOn s next) := by
  unfold State.tokenOn
  repeat' first
    | with_reducible assumption
    | with_reducible apply State.put_keeps
    | with_reducible apply State.sendToken_keeps
    | with_reducible apply State.tokenDown_keeps
    | with_reducible refine Keeps.ite ?_ ?_
    | with_reducible refine Keeps.foldl ?_ ?_
    | with_reducible refine Keeps.foldl_fst ?_ ?_
    | intro _
    | split
    | dsimp only
    | rfl
    | refine Keeps.upd ?_
    | simp only [updAt_length, List.length_map]

theorem State.takeAddress_keeps {r s : State} (h : Keeps r s) (p : Nat) (serial : Nat) (next : Nat) (from_ : Nat) :
    Keeps r (State.takeAddress s p serial next from_) := by
  unfold State.takeAddress
  repeat' first
    | with_reducible assumption
    | with_reducible apply State.sendToken_keeps
    | with_reducible apply State.puts_keeps
    | with_reducible apply State.takeSeq_keeps
    | with_reducible apply State.bumpFree_keeps
    | with_reducible apply State.queueFlit_keeps
    | with_reducible apply State.linksDue_keeps
    | with_reducible apply State.tokenOn_keeps
    | with_reducible refine Keeps.ite ?_ ?_
    | with_reducible refine Keeps.foldl ?_ ?_
    | with_reducible refine Keeps.foldl_fst ?_ ?_
    | intro _
    | split
    | dsimp only
    | rfl
    | refine Keeps.upd ?_
    | simp only [updAt_length, List.length_map]

theorem State.tokenBack_keeps {r s : State} (h : Keeps r s) (p : Nat) (next : Nat) (full : Bool) :
    Keeps r (State.tokenBack s p next full) := by
  unfold State.tokenBack
  repeat' first
    | with_reducible assumption
    | with_reducible apply State.boardEnd_keeps
    | with_reducible apply State.sendToken_keeps
    | with_reducible apply State.tokenDown_keeps
    | with_reducible apply State.boardDone_keeps
    | with_reducible refine Keeps.ite ?_ ?_
    | with_reducible refine Keeps.foldl ?_ ?_
    | with_reducible refine Keeps.foldl_fst ?_ ?_
    | intro _
    | split
    | dsimp only
    | rfl
    | refine Keeps.upd ?_
    | simp only [updAt_length, List.length_map]

theorem State.rxToken_keeps {r s : State} (h : Keeps r s) (p : Nat) (f : List Byte) :
    Keeps r (State.rxToken s p f) := by
  unfold State.rxToken
  repeat' first
    | with_reducible assumption
    | with_reducible apply State.newEpoch_keeps
    | with_reducible apply State.conflict_keeps
    | with_reducible apply State.puts_keeps
    | with_reducible apply State.takeAddress_keeps
    | with_reducible apply State.tokenBack_keeps
    | with_reducible apply State.boardDone_keeps
    | with_reducible refine Keeps.ite ?_ ?_
    | with_reducible refine Keeps.foldl ?_ ?_
    | with_reducible refine Keeps.foldl_fst ?_ ?_
    | intro _
    | split
    | dsimp only
    | rfl
    | refine Keeps.upd ?_
    | simp only [updAt_length, List.length_map]

theorem State.switchRoutes_keeps {r s : State} (h : Keeps r s) (p : Nat) (cross : Nat → Bool) :
    Keeps r (State.switchRoutes s p cross) := by
  unfold State.switchRoutes
  repeat' first
    | with_reducible assumption
    | with_reducible apply State.learn_keeps
    | with_reducible apply State.bumpFree_keeps
    | with_reducible refine Keeps.ite ?_ ?_
    | with_reducible refine Keeps.foldl ?_ ?_
    | with_reducible refine Keeps.foldl_fst ?_ ?_
    | intro _
    | split
    | dsimp only
    | rfl
    | refine Keeps.upd ?_
    | simp only [updAt_length, List.length_map]

theorem State.dropQueued_keeps {r s : State} (h : Keeps r s) (p : Nat) :
    Keeps r (State.dropQueued s p) := by
  unfold State.dropQueued
  repeat' first
    | with_reducible assumption
    | with_reducible apply State.setPort_keeps
    | with_reducible refine Keeps.ite ?_ ?_
    | with_reducible refine Keeps.foldl ?_ ?_
    | with_reducible refine Keeps.foldl_fst ?_ ?_
    | intro _
    | split
    | dsimp only
    | rfl
    | refine Keeps.upd ?_
    | simp only [updAt_length, List.length_map]

theorem State.openRing_keeps {r s : State} (h : Keeps r s) :
    Keeps r (State.openRing s) := by
  unfold State.openRing
  repeat' first
    | with_reducible assumption
    | with_reducible apply State.put_keeps
    | with_reducible apply State.raise_keeps
    | with_reducible refine Keeps.ite ?_ ?_
    | with_reducible refine Keeps.foldl ?_ ?_
    | with_reducible refine Keeps.foldl_fst ?_ ?_
    | intro _
    | split
    | dsimp only
    | rfl
    | refine Keeps.upd ?_
    | simp only [updAt_length, List.length_map]

theorem State.ringBreak_keeps {r s : State} (h : Keeps r s) (p : Nat) :
    Keeps r (State.ringBreak s p) := by
  unfold State.ringBreak
  repeat' first
    | with_reducible assumption
    | with_reducible apply State.openRing_keeps
    | with_reducible apply State.switchRoutes_keeps
    | with_reducible apply State.dropQueued_keeps
    | with_reducible apply State.raise_keeps
    | with_reducible apply State.takeSeq_keeps
    | with_reducible apply State.sendOwn_keeps
    | with_reducible apply State.holdRoute_keeps
    | with_reducible refine Keeps.ite ?_ ?_
    | with_reducible refine Keeps.foldl ?_ ?_
    | with_reducible refine Keeps.foldl_fst ?_ ?_
    | intro _
    | split
    | dsimp only
    | rfl
    | refine Keeps.upd ?_
    | simp only [updAt_length, List.length_map]

theorem State.rxBreak_keeps {r s : State} (h : Keeps r s) (p : Nat) (x : Nat) (y : Nat) :
    Keeps r (State.rxBreak s p x y) := by
  unfold State.rxBreak
  repeat' first
    | with_reducible assumption
    | with_reducible apply State.openRing_keeps
    | with_reducible apply State.switchRoutes_keeps
    | with_reducible apply State.raise_keeps
    | with_reducible apply State.holdRoute_keeps
    | with_reducible refine Keeps.ite ?_ ?_
    | with_reducible refine Keeps.foldl ?_ ?_
    | with_reducible refine Keeps.foldl_fst ?_ ?_
    | intro _
    | split
    | dsimp only
    | rfl
    | refine Keeps.upd ?_
    | simp only [updAt_length, List.length_map]

theorem State.closeRing_keeps {r s : State} (h : Keeps r s) :
    Keeps r (State.closeRing s) := by
  unfold State.closeRing
  repeat' first
    | with_reducible assumption
    | with_reducible apply State.put_keeps
    | with_reducible apply State.raise_keeps
    | with_reducible apply State.holdRoute_keeps
    | with_reducible refine Keeps.ite ?_ ?_
    | with_reducible refine Keeps.foldl ?_ ?_
    | with_reducible refine Keeps.foldl_fst ?_ ?_
    | intro _
    | split
    | dsimp only
    | rfl
    | refine Keeps.upd ?_
    | simp only [updAt_length, List.length_map]

theorem State.portComes_keeps {r s : State} (h : Keeps r s) (p : Nat) (skew : Nat) :
    Keeps r (State.portComes s p skew) := by
  unfold State.portComes
  repeat' first
    | with_reducible assumption
    | with_reducible apply State.put_keeps
    | with_reducible apply State.setPort_keeps
    | with_reducible apply State.raise_keeps
    | with_reducible apply State.showCredits_keeps
    | with_reducible refine Keeps.ite ?_ ?_
    | with_reducible refine Keeps.foldl ?_ ?_
    | with_reducible refine Keeps.foldl_fst ?_ ?_
    | intro _
    | split
    | dsimp only
    | rfl
    | refine Keeps.upd ?_
    | simp only [updAt_length, List.length_map]

theorem State.portSeeks_keeps {r s : State} (h : Keeps r s) (p : Nat) :
    Keeps r (State.portSeeks s p) := by
  unfold State.portSeeks
  repeat' first
    | with_reducible assumption
    | with_reducible apply State.put_keeps
    | with_reducible apply State.setPort_keeps
    | with_reducible refine Keeps.ite ?_ ?_
    | with_reducible refine Keeps.foldl ?_ ?_
    | with_reducible refine Keeps.foldl_fst ?_ ?_
    | intro _
    | split
    | dsimp only
    | rfl
    | refine Keeps.upd ?_
    | simp only [updAt_length, List.length_map]

theorem State.portFalls_keeps {r s : State} (h : Keeps r s) (p : Nat) :
    Keeps r (State.portFalls s p) := by
  unfold State.portFalls
  repeat' first
    | with_reducible assumption
    | with_reducible apply State.put_keeps
    | with_reducible apply State.portSeeks_keeps
    | with_reducible apply State.setPort_keeps
    | with_reducible apply State.count_keeps
    | with_reducible apply State.raise_keeps
    | with_reducible apply State.ringBreak_keeps
    | with_reducible apply State.loseSource_keeps
    | with_reducible refine Keeps.ite ?_ ?_
    | with_reducible refine Keeps.foldl ?_ ?_
    | with_reducible refine Keeps.foldl_fst ?_ ?_
    | intro _
    | split
    | dsimp only
    | rfl
    | refine Keeps.upd ?_
    | simp only [updAt_length, List.length_map]

end Sys2Proof.Machine
end

