-- ==== Sys2Proof/Laws/Keeps/March.lean ====
section
/-!
SUPPORT. What the operations of Machine/March.lean keep.
-/

set_option Elab.async false
set_option linter.all false

namespace Sys2Proof.Machine

theorem State.showFail_keeps {r s : State} (h : Keeps r s) (variant14 : Bool) (checker : Bool) (y0 : List MarchFail) :
    Keeps r (State.showFail s variant14 checker y0) := by
  unfold State.showFail
  repeat' first
    | with_reducible assumption
    | with_reducible apply State.puts_keeps
    | with_reducible apply State.put_keeps
    | with_reducible apply State.bumpFree_keeps
    | with_reducible refine Keeps.ite ?_ ?_
    | with_reducible refine Keeps.foldl ?_ ?_
    | with_reducible refine Keeps.foldl_fst ?_ ?_
    | intro _
    | split
    | dsimp only
    | rfl
    | refine Keeps.upd ?_
    | simp only [updAt_length, List.length_map]

theorem State.badSpare_keeps {r s : State} (h : Keeps r s) (y0 : MarchUnit) :
    Keeps r (State.badSpare s y0) := by
  unfold State.badSpare
  repeat' first
    | with_reducible assumption
    | with_reducible apply State.judgeBank_keeps
    | with_reducible apply State.put_keeps
    | with_reducible refine Keeps.ite ?_ ?_
    | with_reducible refine Keeps.foldl ?_ ?_
    | with_reducible refine Keeps.foldl_fst ?_ ?_
    | intro _
    | split
    | dsimp only
    | rfl
    | refine Keeps.upd ?_
    | simp only [updAt_length, List.length_map]

theorem State.noteFails_keeps {r s : State} (h : Keeps r s) (fails : List MarchFail) (preserving : Bool) (variant14 : Bool) (checker : Bool) :
    Keeps r (State.noteFails s fails preserving variant14 checker) := by
  unfold State.noteFails
  repeat' first
    | with_reducible assumption
    | with_reducible apply State.count_keeps
    | with_reducible apply State.loseWord_keeps
    | with_reducible apply State.rowWorn_keeps
    | with_reducible apply State.badSpare_keeps
    | with_reducible apply State.showFail_keeps
    | with_reducible refine Keeps.ite ?_ ?_
    | with_reducible refine Keeps.foldl ?_ ?_
    | with_reducible refine Keeps.foldl_fst ?_ ?_
    | intro _
    | split
    | dsimp only
    | rfl
    | refine Keeps.upd ?_
    | simp only [updAt_length, List.length_map]

theorem State.afterWindow_keeps {r s : State} (h : Keeps r s) (w : Option Nat) :
    Keeps r (State.afterWindow s w) := by
  unfold State.afterWindow
  repeat' first
    | with_reducible assumption
    | with_reducible apply State.releaseHeld_keeps
    | with_reducible refine Keeps.ite ?_ ?_
    | with_reducible refine Keeps.foldl ?_ ?_
    | with_reducible refine Keeps.foldl_fst ?_ ?_
    | intro _
    | split
    | dsimp only
    | rfl
    | refine Keeps.upd ?_
    | simp only [updAt_length, List.length_map]

theorem State.marchGo_keeps {r s : State} (h : Keeps r s) :
    Keeps r (State.marchGo s) := by
  unfold State.marchGo
  repeat' first
    | with_reducible assumption
    | with_reducible apply State.afterWindow_keeps
    | with_reducible refine Keeps.ite ?_ ?_
    | with_reducible refine Keeps.foldl ?_ ?_
    | with_reducible refine Keeps.foldl_fst ?_ ?_
    | intro _
    | split
    | dsimp only
    | rfl
    | refine Keeps.upd ?_
    | simp only [updAt_length, List.length_map]

end Sys2Proof.Machine
end

