-- ==== Sys2Proof/Laws/Keeps/HoldCmd.lean ====
section
/-!
SUPPORT. What the operations of Machine/HoldCmd.lean keep.
-/

set_option Elab.async false
set_option linter.all false

namespace Sys2Proof.Machine

theorem execHoldAccess_keeps {r s : State} (h : Keeps r s) (a : HoldAccess) (arb : Arbitration) :
    KeepsOut r (execHoldAccess a arb s) := by
  unfold execHoldAccess
  repeat' first
    | with_reducible assumption
    | refine KeepsOut.next ?_
    | with_reducible refine KeepsOut.ite ?_ ?_
    | with_reducible apply State.presentAccess_keeps
    | dsimp only
    | split
    | with_reducible refine Keeps.ite ?_ ?_
    | with_reducible refine Keeps.foldl ?_ ?_
    | with_reducible refine Keeps.foldl_fst ?_ ?_
    | intro _
    | split
    | dsimp only
    | rfl
    | refine Keeps.upd ?_
    | simp only [updAt_length, List.length_map]

theorem execHoldBusyNRelease_keeps {r s : State} (h : Keeps r s) :
    KeepsOut r (execHoldBusyNRelease s) := by
  unfold execHoldBusyNRelease
  repeat' first
    | with_reducible assumption
    | refine KeepsOut.next ?_
    | with_reducible refine KeepsOut.ite ?_ ?_
    | dsimp only
    | split
    | with_reducible refine Keeps.ite ?_ ?_
    | with_reducible refine Keeps.foldl ?_ ?_
    | with_reducible refine Keeps.foldl_fst ?_ ?_
    | intro _
    | split
    | dsimp only
    | rfl
    | refine Keeps.upd ?_
    | simp only [updAt_length, List.length_map]

theorem State.askFerry_keeps {r s : State} (h : Keeps r s) (bank : Nat) (target : Nat) :
    Keeps r (State.askFerry s bank target) := by
  unfold State.askFerry
  repeat' first
    | with_reducible assumption
    | with_reducible apply State.put_keeps
    | with_reducible apply State.ferryAtOnce_keeps
    | with_reducible apply State.beginFerry_keeps
    | with_reducible refine Keeps.ite ?_ ?_
    | with_reducible refine Keeps.foldl ?_ ?_
    | with_reducible refine Keeps.foldl_fst ?_ ?_
    | intro _
    | split
    | dsimp only
    | rfl
    | refine Keeps.upd ?_
    | simp only [updAt_length, List.length_map]

theorem execFerryStart_keeps {r s : State} (h : Keeps r s) (w : Writer) (bank : Fin 256) (target : BitVec 8) :
    KeepsOut r (execFerryStart w bank target s) := by
  unfold execFerryStart
  repeat' first
    | with_reducible assumption
    | refine KeepsOut.next ?_
    | with_reducible refine KeepsOut.ite ?_ ?_
    | with_reducible apply State.writeJudged_keeps
    | with_reducible apply State.askFerry_keeps
    | dsimp only
    | split
    | with_reducible refine Keeps.ite ?_ ?_
    | with_reducible refine Keeps.foldl ?_ ?_
    | with_reducible refine Keeps.foldl_fst ?_ ?_
    | intro _
    | split
    | dsimp only
    | rfl
    | refine Keeps.upd ?_
    | simp only [updAt_length, List.length_map]

theorem State.nextWindow_keeps {r s : State} (h : Keeps r s) :
    Keeps r (State.nextWindow s) := by
  unfold State.nextWindow
  repeat' first
    | with_reducible assumption
    | with_reducible apply State.puts_keeps
    | with_reducible refine Keeps.ite ?_ ?_
    | with_reducible refine Keeps.foldl ?_ ?_
    | with_reducible refine Keeps.foldl_fst ?_ ?_
    | intro _
    | split
    | dsimp only
    | rfl
    | refine Keeps.upd ?_
    | simp only [updAt_length, List.length_map]

theorem State.openBank_keeps {r s : State} (h : Keeps r s) (k : Nat) : KeepsOpt r (s.openBank k) := by
  induction k generalizing s with
  | zero => exact KeepsOpt.none
  | succ k ih =>
    simp only [State.openBank]
    split
    · exact ih (Keeps.upd (State.puts_keeps h _))
    · exact KeepsOpt.some h

theorem State.marchFields_keeps {r s : State} (h : Keeps r s) (preserving : Bool) (variant14 : Bool) (checker : Bool) :
    Keeps r (State.marchFields s preserving variant14 checker) := by
  unfold State.marchFields
  repeat' first
    | with_reducible assumption
    | with_reducible apply State.puts_keeps
    | with_reducible refine Keeps.ite ?_ ?_
    | with_reducible refine Keeps.foldl ?_ ?_
    | with_reducible refine Keeps.foldl_fst ?_ ?_
    | intro _
    | split
    | dsimp only
    | rfl
    | refine Keeps.upd ?_
    | simp only [updAt_length, List.length_map]

theorem State.startTest_keeps {r s : State} (h : Keeps r s) (preserving : Bool) (variant14 : Bool) (checker : Bool) :
    Keeps r (State.startTest s preserving variant14 checker) := by
  unfold State.startTest
  repeat' first
    | with_reducible assumption
    | with_reducible apply State.yieldWindow_keeps
    | with_reducible apply State.afterWindow_keeps
    | with_reducible apply State.put_keeps
    | with_reducible apply State.marchGo_keeps
    | with_reducible apply State.losebank_keeps
    | with_reducible refine Keeps.ite ?_ ?_
    | with_reducible refine Keeps.foldl ?_ ?_
    | with_reducible refine Keeps.foldl_fst ?_ ?_
    | intro _
    | split
    | dsimp only
    | rfl
    | refine Keeps.upd ?_
    | simp only [updAt_length, List.length_map]

theorem execMarchRequest_keeps {r s : State} (h : Keeps r s) (w : Writer) (preserving : Bool) (variant14 : Bool) (checker : Bool) :
    KeepsOut r (execMarchRequest w preserving variant14 checker s) := by
  unfold execMarchRequest
  repeat' first
    | with_reducible assumption
    | refine KeepsOut.next ?_
    | with_reducible refine KeepsOut.ite ?_ ?_
    | with_reducible apply State.writeBy_keeps
    | with_reducible apply State.marchFields_keeps
    | with_reducible apply State.put_keeps
    | with_reducible apply State.startTest_keeps
    | dsimp only
    | split
    | with_reducible refine Keeps.ite ?_ ?_
    | with_reducible refine Keeps.foldl ?_ ?_
    | with_reducible refine Keeps.foldl_fst ?_ ?_
    | intro _
    | split
    | dsimp only
    | rfl
    | refine Keeps.upd ?_
    | simp only [updAt_length, List.length_map]

theorem State.endTest_keeps {r s : State} (h : Keeps r s) (t : MarchTest) (fails : List MarchFail) (code : Nat) :
    Keeps r (State.endTest s t fails code) := by
  unfold State.endTest
  repeat' first
    | with_reducible assumption
    | with_reducible apply State.noteFails_keeps
    | with_reducible apply State.puts_keeps
    | with_reducible apply State.raise_keeps
    | with_reducible apply State.afterWindow_keeps
    | with_reducible refine Keeps.ite ?_ ?_
    | with_reducible refine Keeps.foldl ?_ ?_
    | with_reducible refine Keeps.foldl_fst ?_ ?_
    | intro _
    | split
    | dsimp only
    | rfl
    | refine Keeps.upd ?_
    | simp only [updAt_length, List.length_map]

theorem execMarchAbandon_keeps {r s : State} (h : Keeps r s) (w : Writer) (preserving : Bool) (variant14 : Bool) (checker : Bool) (fails : List MarchFail) :
    KeepsOut r (execMarchAbandon w preserving variant14 checker fails s) := by
  unfold execMarchAbandon
  repeat' first
    | with_reducible assumption
    | refine KeepsOut.next ?_
    | with_reducible refine KeepsOut.ite ?_ ?_
    | with_reducible apply State.writeBy_keeps
    | with_reducible apply State.marchFields_keeps
    | with_reducible apply State.endTest_keeps
    | dsimp only
    | split
    | with_reducible refine Keeps.ite ?_ ?_
    | with_reducible refine Keeps.foldl ?_ ?_
    | with_reducible refine Keeps.foldl_fst ?_ ?_
    | intro _
    | split
    | dsimp only
    | rfl
    | refine Keeps.upd ?_
    | simp only [updAt_length, List.length_map]

theorem execMarchBackgroundWindow_keeps {r s : State} (h : Keeps r s) : KeepsOut r (execMarchBackgroundWindow s) := by
  have h1 : Keeps r (if 8 ≤ s.hold.yieldsInRow then (s.count F.holdMarchSkipsCount 1).nextWindow else s) :=
    Keeps.ite (State.nextWindow_keeps (State.count_keeps h _ _)) h
  simp only [execMarchBackgroundWindow]
  generalize (if 8 ≤ s.hold.yieldsInRow then (s.count F.holdMarchSkipsCount 1).nextWindow else s) = s1 at h1 ⊢
  split
  · exact KeepsOut.next h
  · split
    · exact KeepsOut.next h1
    · next e => exact KeepsOut.next ((State.openBank_keeps h1 256 _ e).setHold fun w => w)

theorem execMarchTestEnd_keeps {r s : State} (h : Keeps r s) (fails : List MarchFail) :
    KeepsOut r (execMarchTestEnd fails s) := by
  unfold execMarchTestEnd
  repeat' first
    | with_reducible assumption
    | refine KeepsOut.next ?_
    | with_reducible refine KeepsOut.ite ?_ ?_
    | with_reducible apply State.count_keeps
    | with_reducible apply State.clearRange_keeps
    | with_reducible apply State.endTest_keeps
    | with_reducible apply State.noteFails_keeps
    | with_reducible apply State.put_keeps
    | with_reducible apply State.raise_keeps
    | with_reducible apply State.nextWindow_keeps
    | with_reducible apply State.afterWindow_keeps
    | dsimp only
    | split
    | with_reducible refine Keeps.ite ?_ ?_
    | with_reducible refine Keeps.foldl ?_ ?_
    | with_reducible refine Keeps.foldl_fst ?_ ?_
    | intro _
    | split
    | dsimp only
    | rfl
    | refine Keeps.upd ?_
    | simp only [updAt_length, List.length_map]

theorem State.repairFields_keeps {r s : State} (h : Keeps r s) (op : Nat) (bank : Nat) (row : Nat) :
    Keeps r (State.repairFields s op bank row) := by
  unfold State.repairFields
  repeat' first
    | with_reducible assumption
    | with_reducible apply State.puts_keeps
    | with_reducible refine Keeps.ite ?_ ?_
    | with_reducible refine Keeps.foldl ?_ ?_
    | with_reducible refine Keeps.foldl_fst ?_ ?_
    | intro _
    | split
    | dsimp only
    | rfl
    | refine Keeps.upd ?_
    | simp only [updAt_length, List.length_map]

theorem State.askRepair_keeps {r s : State} (h : Keeps r s) (r' : Repair) :
    Keeps r (State.askRepair s r') := by
  unfold State.askRepair
  repeat' first
    | with_reducible assumption
    | with_reducible apply State.put_keeps
    | with_reducible apply State.beginRepair_keeps
    | with_reducible refine Keeps.ite ?_ ?_
    | with_reducible refine Keeps.foldl ?_ ?_
    | with_reducible refine Keeps.foldl_fst ?_ ?_
    | intro _
    | split
    | dsimp only
    | rfl
    | refine Keeps.upd ?_
    | simp only [updAt_length, List.length_map]

theorem execRepairRow_keeps {r s : State} (h : Keeps r s) (w : Writer) (bank : Fin 256) (row : Fin 1024) :
    KeepsOut r (execRepairRow w bank row s) := by
  unfold execRepairRow
  repeat' first
    | with_reducible assumption
    | refine KeepsOut.next ?_
    | with_reducible refine KeepsOut.ite ?_ ?_
    | with_reducible apply State.writeBy_keeps
    | with_reducible apply State.repairFields_keeps
    | with_reducible apply State.askRepair_keeps
    | dsimp only
    | split
    | with_reducible refine Keeps.ite ?_ ?_
    | with_reducible refine Keeps.foldl ?_ ?_
    | with_reducible refine Keeps.foldl_fst ?_ ?_
    | intro _
    | split
    | dsimp only
    | rfl
    | refine Keeps.upd ?_
    | simp only [updAt_length, List.length_map]

theorem execRepairBank_keeps {r s : State} (h : Keeps r s) (w : Writer) (bank : Fin 256) (row : Fin 1024) :
    KeepsOut r (execRepairBank w bank row s) := by
  unfold execRepairBank
  repeat' first
    | with_reducible assumption
    | refine KeepsOut.next ?_
    | with_reducible refine KeepsOut.ite ?_ ?_
    | with_reducible apply State.writeBy_keeps
    | with_reducible apply State.repairFields_keeps
    | with_reducible apply State.askRepair_keeps
    | dsimp only
    | split
    | with_reducible refine Keeps.ite ?_ ?_
    | with_reducible refine Keeps.foldl ?_ ?_
    | with_reducible refine Keeps.foldl_fst ?_ ?_
    | intro _
    | split
    | dsimp only
    | rfl
    | refine Keeps.upd ?_
    | simp only [updAt_length, List.length_map]

theorem State.applyRepair_keeps {r s : State} (h : Keeps r s) (y0 : Repair) :
    Keeps r (State.applyRepair s y0) := by
  unfold State.applyRepair
  repeat' first
    | with_reducible assumption
    | with_reducible apply State.put_keeps
    | with_reducible apply State.puts_keeps
    | with_reducible refine Keeps.ite ?_ ?_
    | with_reducible refine Keeps.foldl ?_ ?_
    | with_reducible refine Keeps.foldl_fst ?_ ?_
    | intro _
    | split
    | dsimp only
    | rfl
    | refine Keeps.upd ?_
    | simp only [updAt_length, List.length_map]

theorem State.logRepair_keeps {r s : State} (h : Keeps r s) (r' : Repair) (spare : Nat) (cause : Nat) :
    Keeps r (State.logRepair s r' spare cause) := by
  unfold State.logRepair
  repeat' first
    | with_reducible assumption
    | with_reducible apply State.logSwap_keeps
    | with_reducible refine Keeps.ite ?_ ?_
    | with_reducible refine Keeps.foldl ?_ ?_
    | with_reducible refine Keeps.foldl_fst ?_ ?_
    | intro _
    | split
    | dsimp only
    | rfl
    | refine Keeps.upd ?_
    | simp only [updAt_length, List.length_map]

theorem State.finishRepair_keeps {r s : State} (h : Keeps r s) (r' : Repair) :
    Keeps r (State.finishRepair s r') := by
  unfold State.finishRepair
  repeat' first
    | with_reducible assumption
    | with_reducible apply State.applyRepair_keeps
    | with_reducible apply State.puts_keeps
    | with_reducible apply State.storeRepairs_keeps
    | with_reducible apply State.logRepair_keeps
    | with_reducible apply State.raise_keeps
    | with_reducible apply State.releaseHeld_keeps
    | with_reducible apply State.mboxDone_keeps
    | with_reducible apply State.judgeBank_keeps
    | with_reducible apply State.nextRepair_keeps
    | with_reducible refine Keeps.ite ?_ ?_
    | with_reducible refine Keeps.foldl ?_ ?_
    | with_reducible refine Keeps.foldl_fst ?_ ?_
    | intro _
    | split
    | dsimp only
    | rfl
    | refine Keeps.upd ?_
    | simp only [updAt_length, List.length_map]

theorem execRepairCopyDone_keeps {r s : State} (h : Keeps r s) :
    KeepsOut r (execRepairCopyDone s) := by
  unfold execRepairCopyDone
  repeat' first
    | with_reducible assumption
    | refine KeepsOut.next ?_
    | with_reducible refine KeepsOut.ite ?_ ?_
    | with_reducible apply State.finishRepair_keeps
    | dsimp only
    | split
    | with_reducible refine Keeps.ite ?_ ?_
    | with_reducible refine Keeps.foldl ?_ ?_
    | with_reducible refine Keeps.foldl_fst ?_ ?_
    | intro _
    | split
    | dsimp only
    | rfl
    | refine Keeps.upd ?_
    | simp only [updAt_length, List.length_map]

end Sys2Proof.Machine
end

