-- ==== Sys2Proof/Laws/Keeps/Chain.lean ====
section
/-!
SUPPORT. What the operations of Machine/Chain.lean keep.
-/

set_option Elab.async false
set_option linter.all false

namespace Sys2Proof.Machine

theorem State.raEnd_keeps {r s : State} (h : Keeps r s) (code : Nat) :
    Keeps r (State.raEnd s code) := by
  unfold State.raEnd
  repeat' first
    | with_reducible assumption
    | with_reducible apply State.puts_keeps
    | with_reducible apply State.raise_keeps
    | with_reducible refine Keeps.ite ?_ ?_
    | with_reducible refine Keeps.foldl ?_ ?_
    | with_reducible refine Keeps.foldl_fst ?_ ?_
    | intro _
    | split
    | dsimp only
    | rfl
    | refine Keeps.upd ?_
    | simp only [updAt_length, List.length_map]

theorem State.answerRemote_keeps {r s : State} (h : Keeps r s) (p : Nat) (f : List Byte) (code : Nat) (data : List Byte) :
    Keeps r (State.answerRemote s p f code data) := by
  unfold State.answerRemote
  repeat' first
    | with_reducible assumption
    | with_reducible apply State.takeSeq_keeps
    | with_reducible apply State.sendOwn_keeps
    | with_reducible refine Keeps.ite ?_ ?_
    | with_reducible refine Keeps.foldl ?_ ?_
    | with_reducible refine Keeps.foldl_fst ?_ ?_
    | intro _
    | split
    | dsimp only
    | rfl
    | refine Keeps.upd ?_
    | simp only [updAt_length, List.length_map]

theorem State.remoteHold_keeps {r s : State} (h : Keeps r s) (p : Nat) (f : List Byte) (write : Bool) :
    Keeps r (State.remoteHold s p f write) := by
  unfold State.remoteHold
  repeat' first
    | with_reducible assumption
    | with_reducible apply State.violate_keeps
    | with_reducible apply State.answerRemote_keeps
    | with_reducible apply State.storeRun_keeps
    | with_reducible apply State.noteUncorr_keeps
    | with_reducible refine Keeps.ite ?_ ?_
    | with_reducible refine Keeps.foldl ?_ ?_
    | with_reducible refine Keeps.foldl_fst ?_ ?_
    | intro _
    | split
    | dsimp only
    | rfl
    | refine Keeps.upd ?_
    | simp only [updAt_length, List.length_map]

theorem State.remoteGo_keeps {r s : State} (h : Keeps r s) (before : State) :
    Keeps r (State.remoteGo s before) := by
  unfold State.remoteGo
  repeat' first
    | with_reducible assumption
    | with_reducible apply State.conflict_keeps
    | with_reducible apply State.remoteHold_keeps
    | with_reducible refine Keeps.ite ?_ ?_
    | with_reducible refine Keeps.foldl ?_ ?_
    | with_reducible refine Keeps.foldl_fst ?_ ?_
    | intro _
    | split
    | dsimp only
    | rfl
    | refine Keeps.upd ?_
    | simp only [updAt_length, List.length_map]

theorem State.rxAnswer_keeps {r s : State} (h : Keeps r s) (f : List Byte) :
    Keeps r (State.rxAnswer s f) := by
  unfold State.rxAnswer
  repeat' first
    | with_reducible assumption
    | with_reducible apply State.put_keeps
    | with_reducible apply State.raEnd_keeps
    | with_reducible refine Keeps.ite ?_ ?_
    | with_reducible refine Keeps.foldl ?_ ?_
    | with_reducible refine Keeps.foldl_fst ?_ ?_
    | intro _
    | split
    | dsimp only
    | rfl
    | refine Keeps.upd ?_
    | simp only [updAt_length, List.length_map]

theorem State.rxSensor_keeps {r s : State} (h : Keeps r s) (f : List Byte) :
    Keeps r (State.rxSensor s f) := by
  unfold State.rxSensor
  repeat' first
    | with_reducible assumption
    | with_reducible apply State.acceptTemp_keeps
    | with_reducible refine Keeps.ite ?_ ?_
    | with_reducible refine Keeps.foldl ?_ ?_
    | with_reducible refine Keeps.foldl_fst ?_ ?_
    | intro _
    | split
    | dsimp only
    | rfl
    | refine Keeps.upd ?_
    | simp only [updAt_length, List.length_map]

theorem State.rxBoarded_keeps {r s : State} (h : Keeps r s) (p : Nat) (f : List Byte) :
    Keeps r (State.rxBoarded s p f) := by
  unfold State.rxBoarded
  repeat' first
    | with_reducible assumption
    | with_reducible apply State.learn_keeps
    | with_reducible refine Keeps.ite ?_ ?_
    | with_reducible refine Keeps.foldl ?_ ?_
    | with_reducible refine Keeps.foldl_fst ?_ ?_
    | intro _
    | split
    | dsimp only
    | rfl
    | refine Keeps.upd ?_
    | simp only [updAt_length, List.length_map]

theorem State.dropDown_keeps {r s : State} (h : Keeps r s) :
    Keeps r (State.dropDown s) := by
  unfold State.dropDown
  repeat' first
    | with_reducible assumption
    | with_reducible apply State.dropQueued_keeps
    | with_reducible refine Keeps.ite ?_ ?_
    | with_reducible refine Keeps.foldl ?_ ?_
    | with_reducible refine Keeps.foldl_fst ?_ ?_
    | intro _
    | split
    | dsimp only
    | rfl
    | refine Keeps.upd ?_
    | simp only [updAt_length, List.length_map]

theorem State.passFlit_keeps {r s : State} (h : Keeps r s) (p : Nat) (f : List Byte) :
    Keeps r (State.passFlit s p f) := by
  unfold State.passFlit
  repeat' first
    | with_reducible assumption
    | with_reducible apply State.rxBoarded_keeps
    | with_reducible apply State.noteData_keeps
    | with_reducible apply State.rxBreak_keeps
    | with_reducible apply State.dropDown_keeps
    | with_reducible apply State.closeRing_keeps
    | with_reducible apply State.remoteHold_keeps
    | with_reducible apply State.rxAnswer_keeps
    | with_reducible apply State.rxSensor_keeps
    | with_reducible apply State.queueFlit_keeps
    | with_reducible refine Keeps.ite ?_ ?_
    | with_reducible refine Keeps.foldl ?_ ?_
    | with_reducible refine Keeps.foldl_fst ?_ ?_
    | intro _
    | split
    | dsimp only
    | rfl
    | refine Keeps.upd ?_
    | simp only [updAt_length, List.length_map]

theorem State.rxTime_keeps {r s : State} (h : Keeps r s) (p : Nat) (f : List Byte) (sub : Nat) :
    Keeps r (State.rxTime s p f sub) := by
  unfold State.rxTime
  repeat' first
    | with_reducible assumption
    | with_reducible apply State.setPort_keeps
    | with_reducible apply State.exchange_keeps
    | with_reducible apply State.setTime_keeps
    | with_reducible refine Keeps.ite ?_ ?_
    | with_reducible refine Keeps.foldl ?_ ?_
    | with_reducible refine Keeps.foldl_fst ?_ ?_
    | intro _
    | split
    | dsimp only
    | rfl
    | refine Keeps.upd ?_
    | simp only [updAt_length, List.length_map]

theorem State.rxLink_keeps {r s : State} (h : Keeps r s) (p : Nat) (skew : Nat) (f : List Byte) :
    Keeps r (State.rxLink s p skew f) := by
  unfold State.rxLink
  repeat' first
    | with_reducible assumption
    | with_reducible apply State.put_keeps
    | with_reducible apply State.setPort_keeps
    | with_reducible apply State.newEpoch_keeps
    | with_reducible apply State.learn_keeps
    | with_reducible apply State.portComes_keeps
    | with_reducible apply State.showCredits_keeps
    | with_reducible refine Keeps.ite ?_ ?_
    | with_reducible refine Keeps.foldl ?_ ?_
    | with_reducible refine Keeps.foldl_fst ?_ ?_
    | intro _
    | split
    | dsimp only
    | rfl
    | refine Keeps.upd ?_
    | simp only [updAt_length, List.length_map]

theorem State.noteMarks_keeps {r s : State} (h : Keeps r s) (p : Nat) (marks : List (Option (BitVec 8))) :
    Keeps r (State.noteMarks s p marks) := by
  unfold State.noteMarks
  repeat' first
    | with_reducible assumption
    | with_reducible apply State.setPort_keeps
    | with_reducible refine Keeps.ite ?_ ?_
    | with_reducible refine Keeps.foldl ?_ ?_
    | with_reducible refine Keeps.foldl_fst ?_ ?_
    | intro _
    | split
    | dsimp only
    | rfl
    | refine Keeps.upd ?_
    | simp only [updAt_length, List.length_map]

theorem State.descramble_keeps {r s : State} (h : Keeps r s) (p : Nat) (raw : List Byte) :
    Keeps r (State.descramble s p raw).2 := by
  unfold State.descramble
  repeat' first
    | with_reducible assumption
    | with_reducible apply State.setPort_keeps
    | with_reducible refine Keeps.ite ?_ ?_
    | with_reducible refine Keeps.foldl ?_ ?_
    | with_reducible refine Keeps.foldl_fst ?_ ?_
    | intro _
    | split
    | dsimp only
    | rfl
    | refine Keeps.upd ?_
    | simp only [updAt_length, List.length_map]

theorem State.takeShort_keeps {r s : State} (h : Keeps r s) (p : Nat) (skew : Nat) (flit : List Byte) (sub : Nat) :
    Keeps r (State.takeShort s p skew flit sub) := by
  unfold State.takeShort
  repeat' first
    | with_reducible assumption
    | with_reducible apply State.count_keeps
    | with_reducible apply State.rxLink_keeps
    | with_reducible apply State.rxTime_keeps
    | with_reducible apply State.rxToken_keeps
    | with_reducible apply State.passFlit_keeps
    | with_reducible refine Keeps.ite ?_ ?_
    | with_reducible refine Keeps.foldl ?_ ?_
    | with_reducible refine Keeps.foldl_fst ?_ ?_
    | intro _
    | split
    | dsimp only
    | rfl
    | refine Keeps.upd ?_
    | simp only [updAt_length, List.length_map]

theorem execShortFlitReceived_keeps {r s : State} (h : Keeps r s) (p : Fin 3) (marks : List (Option (BitVec 8))) (skew : Nat) (flit : List Byte) (sub : BitVec 35) :
    KeepsOut r (execShortFlitReceived p marks skew flit sub s) := by
  unfold execShortFlitReceived
  repeat' first
    | with_reducible assumption
    | refine KeepsOut.next ?_
    | with_reducible refine KeepsOut.ite ?_ ?_
    | with_reducible apply State.noteMarks_keeps
    | with_reducible apply State.portComes_keeps
    | with_reducible apply State.descramble_keeps
    | with_reducible apply State.takeShort_keeps
    | with_reducible apply State.showTimePort_keeps
    | dsimp only
    | split
    | with_reducible refine Keeps.ite ?_ ?_
    | with_reducible refine Keeps.foldl ?_ ?_
    | with_reducible refine Keeps.foldl_fst ?_ ?_
    | intro _
    | split
    | dsimp only
    | rfl
    | refine Keeps.upd ?_
    | simp only [updAt_length, List.length_map]

theorem execLinkFlitDue_keeps {r s : State} (h : Keeps r s) (p : Fin 3) :
    KeepsOut r (execLinkFlitDue p s) := by
  unfold execLinkFlitDue
  repeat' first
    | with_reducible assumption
    | refine KeepsOut.next ?_
    | with_reducible refine KeepsOut.ite ?_ ?_
    | with_reducible apply State.setPort_keeps
    | dsimp only
    | split
    | with_reducible refine Keeps.ite ?_ ?_
    | with_reducible refine Keeps.foldl ?_ ?_
    | with_reducible refine Keeps.foldl_fst ?_ ?_
    | intro _
    | split
    | dsimp only
    | rfl
    | refine Keeps.upd ?_
    | simp only [updAt_length, List.length_map]

theorem execTimeFlitDue_keeps {r s : State} (h : Keeps r s) (p : Fin 3) :
    KeepsOut r (execTimeFlitDue p s) := by
  unfold execTimeFlitDue
  repeat' first
    | with_reducible assumption
    | refine KeepsOut.next ?_
    | with_reducible refine KeepsOut.ite ?_ ?_
    | with_reducible apply State.setPort_keeps
    | dsimp only
    | split
    | with_reducible refine Keeps.ite ?_ ?_
    | with_reducible refine Keeps.foldl ?_ ?_
    | with_reducible refine Keeps.foldl_fst ?_ ?_
    | intro _
    | split
    | dsimp only
    | rfl
    | refine Keeps.upd ?_
    | simp only [updAt_length, List.length_map]

theorem execMarkerLossTimeout_keeps {r s : State} (h : Keeps r s) (p : Fin 3) (met : Bool) :
    KeepsOut r (execMarkerLossTimeout p met s) := by
  unfold execMarkerLossTimeout
  repeat' first
    | with_reducible assumption
    | refine KeepsOut.next ?_
    | with_reducible refine KeepsOut.ite ?_ ?_
    | with_reducible apply State.portFalls_keeps
    | dsimp only
    | split
    | with_reducible refine Keeps.ite ?_ ?_
    | with_reducible refine Keeps.foldl ?_ ?_
    | with_reducible refine Keeps.foldl_fst ?_ ?_
    | intro _
    | split
    | dsimp only
    | rfl
    | refine Keeps.upd ?_
    | simp only [updAt_length, List.length_map]

theorem execLinkFlitTimeout_keeps {r s : State} (h : Keeps r s) (p : Fin 3) (met : Bool) :
    KeepsOut r (execLinkFlitTimeout p met s) := by
  unfold execLinkFlitTimeout
  repeat' first
    | with_reducible assumption
    | refine KeepsOut.next ?_
    | with_reducible refine KeepsOut.ite ?_ ?_
    | with_reducible apply State.portFalls_keeps
    | dsimp only
    | split
    | with_reducible refine Keeps.ite ?_ ?_
    | with_reducible refine Keeps.foldl ?_ ?_
    | with_reducible refine Keeps.foldl_fst ?_ ?_
    | intro _
    | split
    | dsimp only
    | rfl
    | refine Keeps.upd ?_
    | simp only [updAt_length, List.length_map]

theorem State.rxPixel_keeps {r s : State} (h : Keeps r s) (p : Nat) (f : List Byte) :
    Keeps r (State.rxPixel s p f) := by
  unfold State.rxPixel
  repeat' first
    | with_reducible assumption
    | with_reducible apply State.noteData_keeps
    | with_reducible apply State.rxFlit_keeps
    | with_reducible apply State.setPort_keeps
    | with_reducible refine Keeps.ite ?_ ?_
    | with_reducible refine Keeps.foldl ?_ ?_
    | with_reducible refine Keeps.foldl_fst ?_ ?_
    | intro _
    | split
    | dsimp only
    | rfl
    | refine Keeps.upd ?_
    | simp only [updAt_length, List.length_map]

theorem execPixelGroupReceived_keeps {r s : State} (h : Keeps r s) (p : Fin 3) (lanes : List (List (BitVec 10))) :
    KeepsOut r (execPixelGroupReceived p lanes s) := by
  unfold execPixelGroupReceived
  repeat' first
    | with_reducible assumption
    | refine KeepsOut.next ?_
    | with_reducible refine KeepsOut.ite ?_ ?_
    | with_reducible apply State.count_keeps
    | with_reducible apply State.rxPixel_keeps
    | with_reducible apply State.showTimePort_keeps
    | dsimp only
    | split
    | with_reducible refine Keeps.ite ?_ ?_
    | with_reducible refine Keeps.foldl ?_ ?_
    | with_reducible refine Keeps.foldl_fst ?_ ?_
    | intro _
    | split
    | dsimp only
    | rfl
    | refine Keeps.upd ?_
    | simp only [updAt_length, List.length_map]

theorem State.forwardPixel_keeps {r s : State} (h : Keeps r s) (p : Nat) (q) (e : s.forwardPixel p = some q) : Keeps r q.2 := by
  obtain ⟨i, -, hi⟩ := List.exists_of_findSome?_eq_some e
  dsimp only at hi
  split at hi
  · cases hi
  · cases hi
    exact State.setPort_keeps h _ _

theorem State.dropRouteless_keeps {r s : State} (h : Keeps r s) :
    Keeps r (State.dropRouteless s) := by
  unfold State.dropRouteless
  repeat' first
    | with_reducible assumption
    | with_reducible apply State.setTx_keeps
    | with_reducible apply State.put_keeps
    | with_reducible refine Keeps.ite ?_ ?_
    | with_reducible refine Keeps.foldl ?_ ?_
    | with_reducible refine Keeps.foldl_fst ?_ ?_
    | intro _
    | split
    | dsimp only
    | rfl
    | refine Keeps.upd ?_
    | simp only [updAt_length, List.length_map]

theorem State.localPixel_keeps {r s : State} (h : Keeps r s) (p : Nat) (q) (e : s.localPixel p = some q) : Keeps r q.2 := by
  unfold State.localPixel at e
  split at e
  · cases e
    exact Keeps.upd h
  · obtain ⟨n, -, hn⟩ := List.exists_of_findSome?_eq_some e
    split at hn
    · cases hn
    split at hn
    · cases hn
    split at hn
    · cases hn
    · next x rest _ y hy =>
      cases hn
      have h1 := State.nextTxFlit_keeps h _ _ hy
      dsimp only
      exact Keeps.ite h1 (Keeps.upd h1)

theorem State.fillGroup_keeps {r s : State} (h : Keeps r s) (p k : Nat) : Keeps r (s.fillGroup p k).2 := by
  induction k generalizing s with
  | zero => exact h
  | succ k ih =>
    simp only [State.fillGroup]
    split
    · next q e =>
      refine ih (State.setPort_keeps ?_ _ _)
      split at e
      · split at e
        · next e' => cases e; exact State.forwardPixel_keeps h _ _ e'
        · exact State.localPixel_keeps h _ _ e
      · cases e
    · exact ih h

theorem State.nextShort_keeps {r s : State} (h : Keeps r s) (p : Nat) (sub : Nat) :
    Keeps r (State.nextShort s p sub).2 := by
  unfold State.nextShort
  repeat' first
    | with_reducible assumption
    | with_reducible apply State.setPort_keeps
    | with_reducible apply State.timeFlit_keeps
    | with_reducible apply State.linkFlit_keeps
    | with_reducible apply State.txStamp_keeps
    | with_reducible refine Keeps.ite ?_ ?_
    | with_reducible refine Keeps.foldl ?_ ?_
    | with_reducible refine Keeps.foldl_fst ?_ ?_
    | intro _
    | split
    | dsimp only
    | rfl
    | refine Keeps.upd ?_
    | simp only [updAt_length, List.length_map]

theorem execChainSubRound_keeps {r s : State} (h : Keeps r s) (p : Fin 3) (sub : BitVec 35) :
    KeepsOut r (execChainSubRound p sub s) := by
  unfold execChainSubRound
  refine KeepsOut.ite (KeepsOut.next h) ?_
  extract_lets _ _ s1 f x lanes t
  have h1 : Keeps r s1 := Keeps.ite (State.emit_keeps (State.showCredits_keeps (State.setPort_keeps
    (State.fillGroup_keeps (State.dropRouteless_keeps h) _ _) _ _) _) _) h
  exact KeepsOut.next (State.setPort_keeps (State.emit_keeps (State.nextShort_keeps h1 _ _) _) _ _)

theorem execBoardStart_keeps {r s : State} (h : Keeps r s) (w : Writer) (timeoutMs : BitVec 16) :
    KeepsOut r (execBoardStart w timeoutMs s) := by
  unfold execBoardStart
  repeat' first
    | with_reducible assumption
    | refine KeepsOut.next ?_
    | with_reducible refine KeepsOut.ite ?_ ?_
    | with_reducible apply State.writeBy_keeps
    | with_reducible apply State.put_keeps
    | with_reducible apply State.newEpoch_keeps
    | with_reducible apply State.puts_keeps
    | with_reducible apply State.tokenOn_keeps
    | with_reducible apply State.showTimePort_keeps
    | dsimp only
    | split
    | with_reducible refine Keeps.ite ?_ ?_
    | with_reducible refine Keeps.foldl ?_ ?_
    | with_reducible refine Keeps.foldl_fst ?_ ?_
    | intro _
    | split
    | dsimp only
    | rfl
    | refine Keeps.upd ?_
    | simp only [updAt_length, List.length_map]

theorem execBoardTimeout_keeps {r s : State} (h : Keeps r s) (met : Bool) :
    KeepsOut r (execBoardTimeout met s) := by
  unfold execBoardTimeout
  repeat' first
    | with_reducible assumption
    | refine KeepsOut.next ?_
    | with_reducible refine KeepsOut.ite ?_ ?_
    | with_reducible apply State.boardEnd_keeps
    | with_reducible apply State.conflict_keeps
    | dsimp only
    | split
    | with_reducible refine Keeps.ite ?_ ?_
    | with_reducible refine Keeps.foldl ?_ ?_
    | with_reducible refine Keeps.foldl_fst ?_ ?_
    | intro _
    | split
    | dsimp only
    | rfl
    | refine Keeps.upd ?_
    | simp only [updAt_length, List.length_map]

theorem execRingRestore_keeps {r s : State} (h : Keeps r s) (w : Writer) :
    KeepsOut r (execRingRestore w s) := by
  unfold execRingRestore
  repeat' first
    | with_reducible assumption
    | refine KeepsOut.next ?_
    | with_reducible refine KeepsOut.ite ?_ ?_
    | with_reducible apply State.writeBy_keeps
    | with_reducible apply State.takeSeq_keeps
    | with_reducible apply State.sendOwn_keeps
    | with_reducible apply State.closeRing_keeps
    | dsimp only
    | split
    | with_reducible refine Keeps.ite ?_ ?_
    | with_reducible refine Keeps.foldl ?_ ?_
    | with_reducible refine Keeps.foldl_fst ?_ ?_
    | intro _
    | split
    | dsimp only
    | rfl
    | refine Keeps.upd ?_
    | simp only [updAt_length, List.length_map]

theorem execDataViewLapse_keeps {r s : State} (h : Keeps r s) (a : BitVec 16) (met : Bool) :
    KeepsOut r (execDataViewLapse a met s) := by
  unfold execDataViewLapse
  repeat' first
    | with_reducible assumption
    | refine KeepsOut.next ?_
    | with_reducible refine KeepsOut.ite ?_ ?_
    | with_reducible apply State.judgeViews_keeps
    | with_reducible apply State.showTimePort_keeps
    | dsimp only
    | split
    | with_reducible refine Keeps.ite ?_ ?_
    | with_reducible refine Keeps.foldl ?_ ?_
    | with_reducible refine Keeps.foldl_fst ?_ ?_
    | intro _
    | split
    | dsimp only
    | rfl
    | refine Keeps.upd ?_
    | simp only [updAt_length, List.length_map]

theorem State.raStart_keeps {r s : State} (h : Keeps r s) (w : Writer) (write : Bool) :
    Keeps r (State.raStart s w write) := by
  unfold State.raStart
  repeat' first
    | with_reducible assumption
    | with_reducible apply State.writeJudged_keeps
    | with_reducible apply State.put_keeps
    | with_reducible apply State.raEnd_keeps
    | with_reducible apply State.takeSeq_keeps
    | with_reducible apply State.puts_keeps
    | with_reducible apply State.sendOwn_keeps
    | with_reducible refine Keeps.ite ?_ ?_
    | with_reducible refine Keeps.foldl ?_ ?_
    | with_reducible refine Keeps.foldl_fst ?_ ?_
    | intro _
    | split
    | dsimp only
    | rfl
    | refine Keeps.upd ?_
    | simp only [updAt_length, List.length_map]

theorem execRaRead_keeps {r s : State} (h : Keeps r s) (w : Writer) :
    KeepsOut r (execRaRead w s) := by
  unfold execRaRead
  repeat' first
    | with_reducible assumption
    | refine KeepsOut.next ?_
    | with_reducible refine KeepsOut.ite ?_ ?_
    | with_reducible apply State.raStart_keeps
    | dsimp only
    | split
    | with_reducible refine Keeps.ite ?_ ?_
    | with_reducible refine Keeps.foldl ?_ ?_
    | with_reducible refine Keeps.foldl_fst ?_ ?_
    | intro _
    | split
    | dsimp only
    | rfl
    | refine Keeps.upd ?_
    | simp only [updAt_length, List.length_map]

theorem execRaWrite_keeps {r s : State} (h : Keeps r s) (w : Writer) :
    KeepsOut r (execRaWrite w s) := by
  unfold execRaWrite
  repeat' first
    | with_reducible assumption
    | refine KeepsOut.next ?_
    | with_reducible refine KeepsOut.ite ?_ ?_
    | with_reducible apply State.raStart_keeps
    | dsimp only
    | split
    | with_reducible refine Keeps.ite ?_ ?_
    | with_reducible refine Keeps.foldl ?_ ?_
    | with_reducible refine Keeps.foldl_fst ?_ ?_
    | intro _
    | split
    | dsimp only
    | rfl
    | refine Keeps.upd ?_
    | simp only [updAt_length, List.length_map]

theorem execRaTimeout_keeps {r s : State} (h : Keeps r s) (met : Bool) :
    KeepsOut r (execRaTimeout met s) := by
  unfold execRaTimeout
  repeat' first
    | with_reducible assumption
    | refine KeepsOut.next ?_
    | with_reducible refine KeepsOut.ite ?_ ?_
    | with_reducible apply State.raEnd_keeps
    | dsimp only
    | split
    | with_reducible refine Keeps.ite ?_ ?_
    | with_reducible refine Keeps.foldl ?_ ?_
    | with_reducible refine Keeps.foldl_fst ?_ ?_
    | intro _
    | split
    | dsimp only
    | rfl
    | refine Keeps.upd ?_
    | simp only [updAt_length, List.length_map]

theorem execSensorTx_keeps {r s : State} (h : Keeps r s) (w : Writer) (temp : BitVec 16) (sensor : BitVec 8) :
    KeepsOut r (execSensorTx w temp sensor s) := by
  unfold execSensorTx
  repeat' first
    | with_reducible assumption
    | refine KeepsOut.next ?_
    | with_reducible refine KeepsOut.ite ?_ ?_
    | with_reducible apply State.writeBy_keeps
    | with_reducible apply State.put_keeps
    | with_reducible apply State.takeSeq_keeps
    | with_reducible apply State.sendOwn_keeps
    | dsimp only
    | split
    | with_reducible refine Keeps.ite ?_ ?_
    | with_reducible refine Keeps.foldl ?_ ?_
    | with_reducible refine Keeps.foldl_fst ?_ ?_
    | intro _
    | split
    | dsimp only
    | rfl
    | refine Keeps.upd ?_
    | simp only [updAt_length, List.length_map]

theorem State.portEnable_keeps {r s : State} (h : Keeps r s) (p : Nat) (was : Bool) :
    Keeps r (State.portEnable s p was) := by
  unfold State.portEnable
  repeat' first
    | with_reducible assumption
    | with_reducible apply State.put_keeps
    | with_reducible apply State.portSeeks_keeps
    | with_reducible refine Keeps.ite ?_ ?_
    | with_reducible refine Keeps.foldl ?_ ?_
    | with_reducible refine Keeps.foldl_fst ?_ ?_
    | intro _
    | split
    | dsimp only
    | rfl
    | refine Keeps.upd ?_
    | simp only [updAt_length, List.length_map]

theorem State.portsStart_keeps {r s : State} (h : Keeps r s) :
    Keeps r (State.portsStart s) := by
  unfold State.portsStart
  repeat' first
    | with_reducible assumption
    | with_reducible apply State.put_keeps
    | with_reducible apply State.portSeeks_keeps
    | with_reducible refine Keeps.ite ?_ ?_
    | with_reducible refine Keeps.foldl ?_ ?_
    | with_reducible refine Keeps.foldl_fst ?_ ?_
    | intro _
    | split
    | dsimp only
    | rfl
    | refine Keeps.upd ?_
    | simp only [updAt_length, List.length_map]

theorem State.portsStop_keeps {r s : State} (h : Keeps r s) :
    Keeps r (State.portsStop s) := by
  unfold State.portsStop
  repeat' first
    | with_reducible assumption
    | with_reducible apply State.put_keeps
    | with_reducible refine Keeps.ite ?_ ?_
    | with_reducible refine Keeps.foldl ?_ ?_
    | with_reducible refine Keeps.foldl_fst ?_ ?_
    | intro _
    | split
    | dsimp only
    | rfl
    | refine Keeps.upd ?_
    | simp only [updAt_length, List.length_map]

end Sys2Proof.Machine
end

