-- ==== Sys2Proof/Laws/Keeps/Install.lean ====
section
/-!
SUPPORT. What the operations of Machine/Install.lean keep.
-/

set_option Elab.async false
set_option linter.all false

namespace Sys2Proof.Machine

theorem State.forgetStage_keeps {r s : State} (h : Keeps r s) (n : Nat) (type : Nat) :
    Keeps r (State.forgetStage s n type) := by
  unfold State.forgetStage
  repeat' first
    | with_reducible assumption
    | with_reducible apply State.setOut_keeps
    | with_reducible refine Keeps.ite ?_ ?_
    | with_reducible refine Keeps.foldl ?_ ?_
    | with_reducible refine Keeps.foldl_fst ?_ ?_
    | intro _
    | split
    | dsimp only
    | rfl
    | refine Keeps.upd ?_
    | simp only [updAt_length, List.length_map]

theorem State.clearStage_keeps {r s : State} (h : Keeps r s) (n type : Nat) : Keeps r (s.clearStage n type) := by
  unfold State.clearStage
  have ht := State.forgetStage_keeps h n type
  generalize s.forgetStage n type = t at ht ⊢
  have h1 := State.clearTables_keeps ht n type
  have h2 := h1.setRegs (m := t.regs.filter fun p => !(stageKey n type p.1 && !(s.baseLocked n && (lockKeys n).contains p.1)))
    fun w => sparseWf_filter _ w
  have h3 := h2.setActive (m := t.active.filter fun p => !(stageKey n type p.1 && !(s.baseLocked n && (lockKeys n).contains p.1)))
    fun w => sparseWf_filter _ w
  exact Keeps.upd h3 rfl (Nat.le_refl _) rfl rfl rfl rfl rfl rfl rfl rfl rfl rfl rfl rfl rfl

theorem State.introStage_keeps {r s : State} (h : Keeps r s) (n : Nat) (type : Nat) (c : OutConfig) :
    Keeps r (State.introStage s n type c) := by
  unfold State.introStage
  repeat' first
    | with_reducible assumption
    | with_reducible apply State.clearStage_keeps
    | with_reducible apply State.puts_keeps
    | with_reducible apply State.putAct_keeps
    | with_reducible refine Keeps.ite ?_ ?_
    | with_reducible refine Keeps.foldl ?_ ?_
    | with_reducible refine Keeps.foldl_fst ?_ ?_
    | intro _
    | split
    | dsimp only
    | rfl
    | refine Keeps.upd ?_
    | simp only [updAt_length, List.length_map]

theorem State.loadTiming_keeps {r s : State} (h : Keeps r s) (n : Nat) (c : OutConfig) :
    Keeps r (State.loadTiming s n c) := by
  unfold State.loadTiming
  repeat' first
    | with_reducible assumption
    | with_reducible apply State.puts_keeps
    | with_reducible refine Keeps.ite ?_ ?_
    | with_reducible refine Keeps.foldl ?_ ?_
    | with_reducible refine Keeps.foldl_fst ?_ ?_
    | intro _
    | split
    | dsimp only
    | rfl
    | refine Keeps.upd ?_
    | simp only [updAt_length, List.length_map]

theorem State.landBanks_keeps {r s : State} (h : Keeps r s) :
    Keeps r (State.landBanks s) := by
  unfold State.landBanks
  repeat' first
    | with_reducible assumption
    | with_reducible apply State.puts_keeps
    | with_reducible apply State.structFerry_keeps
    | with_reducible refine Keeps.ite ?_ ?_
    | with_reducible refine Keeps.foldl ?_ ?_
    | with_reducible refine Keeps.foldl_fst ?_ ?_
    | intro _
    | split
    | dsimp only
    | rfl
    | refine Keeps.upd ?_
    | simp only [updAt_length, List.length_map]

theorem State.landRights_keeps {r s : State} (h : Keeps r s) :
    Keeps r (State.landRights s) := by
  unfold State.landRights
  repeat' first
    | with_reducible assumption
    | with_reducible refine Keeps.ite ?_ ?_
    | with_reducible refine Keeps.foldl ?_ ?_
    | with_reducible refine Keeps.foldl_fst ?_ ?_
    | intro _
    | split
    | dsimp only
    | rfl
    | refine Keeps.upd ?_
    | simp only [updAt_length, List.length_map]

theorem State.completeApply_keeps {r s : State} (h : Keeps r s) : Keeps r s.completeApply := by
  unfold State.completeApply
  dsimp only
  refine Keeps.ite (State.raise_keeps (State.puts_keeps (Keeps.ite h (State.raise_keeps ?_ _)) _) _) h
  exact Keeps.upd (State.put_keeps h _ _) (hss := updAt_length _ _ _)

theorem State.showReaches_keeps {r s : State} (h : Keeps r s) :
    Keeps r (State.showReaches s) := by
  unfold State.showReaches
  repeat' first
    | with_reducible assumption
    | with_reducible apply State.puts_keeps
    | with_reducible apply State.setReg_keeps
    | with_reducible refine Keeps.ite ?_ ?_
    | with_reducible refine Keeps.foldl ?_ ?_
    | with_reducible refine Keeps.foldl_fst ?_ ?_
    | intro _
    | split
    | dsimp only
    | rfl
    | refine Keeps.upd ?_
    | simp only [updAt_length, List.length_map]

theorem State.installOut_keeps {r s : State} (h : Keeps r s) (n : Nat) :
    Keeps r (State.installOut s n) := by
  unfold State.installOut
  repeat' first
    | with_reducible assumption
    | with_reducible apply State.clearStage_keeps
    | with_reducible apply State.put_keeps
    | with_reducible apply State.landRights_keeps
    | with_reducible apply State.landBanks_keeps
    | with_reducible apply State.showReaches_keeps
    | with_reducible apply State.completeApply_keeps
    | with_reducible refine Keeps.ite ?_ ?_
    | with_reducible refine Keeps.foldl ?_ ?_
    | with_reducible refine Keeps.foldl_fst ?_ ?_
    | intro _
    | split
    | dsimp only
    | rfl
    | refine Keeps.upd ?_
    | simp only [updAt_length, List.length_map]

theorem State.switchReach_keeps {r s : State} (h : Keeps r s) (r' : Nat) (k : Nat) :
    Keeps r (State.switchReach s r' k) := by
  unfold State.switchReach
  repeat' first
    | with_reducible assumption
    | with_reducible apply State.puts_keeps
    | with_reducible refine Keeps.ite ?_ ?_
    | with_reducible refine Keeps.foldl ?_ ?_
    | with_reducible refine Keeps.foldl_fst ?_ ?_
    | intro _
    | split
    | dsimp only
    | rfl
    | refine Keeps.upd ?_
    | simp only [updAt_length, List.length_map]

theorem State.makeReachSwap_keeps {r s : State} (h : Keeps r s) (p : PendingSwap) :
    Keeps r (State.makeReachSwap s p) := by
  unfold State.makeReachSwap
  repeat' first
    | with_reducible assumption
    | with_reducible apply State.switchReach_keeps
    | with_reducible apply State.endSwap_keeps
    | with_reducible refine Keeps.ite ?_ ?_
    | with_reducible refine Keeps.foldl ?_ ?_
    | with_reducible refine Keeps.foldl_fst ?_ ?_
    | intro _
    | split
    | dsimp only
    | rfl
    | refine Keeps.upd ?_
    | simp only [updAt_length, List.length_map]

theorem State.swapOnFreeze_keeps {r s : State} (h : Keeps r s) (p : PendingSwap) :
    Keeps r (State.swapOnFreeze s p) := by
  unfold State.swapOnFreeze
  repeat' first
    | with_reducible assumption
    | with_reducible apply State.endSwap_keeps
    | with_reducible apply State.raise_keeps
    | with_reducible refine Keeps.ite ?_ ?_
    | with_reducible refine Keeps.foldl ?_ ?_
    | with_reducible refine Keeps.foldl_fst ?_ ?_
    | intro _
    | split
    | dsimp only
    | rfl
    | refine Keeps.upd ?_
    | simp only [updAt_length, List.length_map]

theorem State.settleReach_keeps {r s : State} (h : Keeps r s) (p : PendingSwap) :
    Keeps r (State.settleReach s p) := by
  unfold State.settleReach
  repeat' first
    | with_reducible assumption
    | with_reducible apply State.swapOnFreeze_keeps
    | with_reducible apply State.makeReachSwap_keeps
    | with_reducible refine Keeps.ite ?_ ?_
    | with_reducible refine Keeps.foldl ?_ ?_
    | with_reducible refine Keeps.foldl_fst ?_ ?_
    | intro _
    | split
    | dsimp only
    | rfl
    | refine Keeps.upd ?_
    | simp only [updAt_length, List.length_map]

theorem State.settleReaches_keeps {r s : State} (h : Keeps r s) :
    Keeps r (State.settleReaches s) := by
  unfold State.settleReaches
  repeat' first
    | with_reducible assumption
    | with_reducible apply State.settleReach_keeps
    | with_reducible refine Keeps.ite ?_ ?_
    | with_reducible refine Keeps.foldl ?_ ?_
    | with_reducible refine Keeps.foldl_fst ?_ ?_
    | intro _
    | split
    | dsimp only
    | rfl
    | refine Keeps.upd ?_
    | simp only [updAt_length, List.length_map]

theorem State.askReachSwap_keeps {r s : State} (h : Keeps r s) (r' : Nat) (k : Nat) (cause : Nat) (slot : Option Nat) :
    Keeps r (State.askReachSwap s r' k cause slot) := by
  unfold State.askReachSwap
  repeat' first
    | with_reducible assumption
    | with_reducible apply State.swapOnFreeze_keeps
    | with_reducible apply State.settleReach_keeps
    | with_reducible refine Keeps.ite ?_ ?_
    | with_reducible refine Keeps.foldl ?_ ?_
    | with_reducible refine Keeps.foldl_fst ?_ ?_
    | intro _
    | split
    | dsimp only
    | rfl
    | refine Keeps.upd ?_
    | simp only [updAt_length, List.length_map]

theorem State.landReachSwaps_keeps {r s : State} (h : Keeps r s) (n : Nat) :
    Keeps r (State.landReachSwaps s n) := by
  unfold State.landReachSwaps
  repeat' first
    | with_reducible assumption
    | with_reducible apply State.swapOnFreeze_keeps
    | with_reducible apply State.makeReachSwap_keeps
    | with_reducible apply State.settleReaches_keeps
    | with_reducible refine Keeps.ite ?_ ?_
    | with_reducible refine Keeps.foldl ?_ ?_
    | with_reducible refine Keeps.foldl_fst ?_ ?_
    | intro _
    | split
    | dsimp only
    | rfl
    | refine Keeps.upd ?_
    | simp only [updAt_length, List.length_map]

theorem State.askChainSwap_keeps {r s : State} (h : Keeps r s) (p : Nat) (k : Nat) (cause : Nat) (slot : Option Nat) :
    Keeps r (State.askChainSwap s p k cause slot) := by
  unfold State.askChainSwap
  repeat' first
    | with_reducible assumption
    | with_reducible refine Keeps.ite ?_ ?_
    | with_reducible refine Keeps.foldl ?_ ?_
    | with_reducible refine Keeps.foldl_fst ?_ ?_
    | intro _
    | split
    | dsimp only
    | rfl
    | refine Keeps.upd ?_
    | simp only [updAt_length, List.length_map]

end Sys2Proof.Machine
end

