-- ==== Sys2Proof/Laws/Keeps/Pacing.lean ====
section
/-!
SUPPORT. What the operations of Machine/Pacing.lean keep.
-/

set_option Elab.async false
set_option linter.all false

namespace Sys2Proof.Machine

theorem State.chooseLines_keeps {r s : State} (h : Keeps r s) (n : Nat) :
    Keeps r (State.chooseLines s n) := by
  unfold State.chooseLines
  repeat' first
    | with_reducible assumption
    | with_reducible apply State.setOut_keeps
    | with_reducible refine Keeps.ite ?_ ?_
    | with_reducible refine Keeps.foldl ?_ ?_
    | with_reducible refine Keeps.foldl_fst ?_ ?_
    | intro _
    | split
    | dsimp only
    | rfl
    | refine Keeps.upd ?_
    | simp only [updAt_length, List.length_map]

theorem State.choosePull_keeps {r s0 : State} (h : Keeps r s0) (n : Nat) :
    Keeps r (State.choosePull s0 n) := by
  unfold State.choosePull
  repeat' first
    | with_reducible assumption
    | with_reducible apply State.setOut_keeps
    | with_reducible refine Keeps.ite ?_ ?_
    | with_reducible refine Keeps.foldl ?_ ?_
    | with_reducible refine Keeps.foldl_fst ?_ ?_
    | intro _
    | split
    | dsimp only
    | rfl
    | refine Keeps.upd ?_
    | simp only [updAt_length, List.length_map]

theorem State.setLock_keeps {r s : State} (h : Keeps r s) (n : Nat) (st : Nat) :
    Keeps r (State.setLock s n st) := by
  unfold State.setLock
  repeat' first
    | with_reducible assumption
    | with_reducible apply State.put_keeps
    | with_reducible apply State.raise_keeps
    | with_reducible refine Keeps.ite ?_ ?_
    | with_reducible refine Keeps.foldl ?_ ?_
    | with_reducible refine Keeps.foldl_fst ?_ ?_
    | intro _
    | split
    | dsimp only
    | rfl
    | refine Keeps.upd ?_
    | simp only [updAt_length, List.length_map]

theorem State.holdEpochs_keeps {r s : State} (h : Keeps r s) :
    Keeps r (State.holdEpochs s) := by
  unfold State.holdEpochs
  repeat' first
    | with_reducible assumption
    | with_reducible apply State.setLock_keeps
    | with_reducible refine Keeps.ite ?_ ?_
    | with_reducible refine Keeps.foldl ?_ ?_
    | with_reducible refine Keeps.foldl_fst ?_ ?_
    | intro _
    | split
    | dsimp only
    | rfl
    | refine Keeps.upd ?_
    | simp only [updAt_length, List.length_map]

end Sys2Proof.Machine
end

