-- ==== Sys2Proof/Laws/Keeps/Landing.lean ====
section
/-!
SUPPORT. What the operations of Machine/Landing.lean keep.
-/

set_option Elab.async false
set_option linter.all false

namespace Sys2Proof.Machine

theorem State.landReg_keeps {r s : State} (h : Keeps r s) (a : Nat) :
    Keeps r (State.landReg s a) := by
  unfold State.landReg
  repeat' first
    | with_reducible assumption
    | with_reducible apply State.setActReg_keeps
    | with_reducible refine Keeps.ite ?_ ?_
    | with_reducible refine Keeps.foldl ?_ ?_
    | with_reducible refine Keeps.foldl_fst ?_ ?_
    | intro _
    | split
    | dsimp only
    | rfl
    | refine Keeps.upd ?_
    | simp only [updAt_length, List.length_map]

theorem State.landRegs_keeps {r s : State} (h : Keeps r s) (l : List Nat) :
    Keeps r (State.landRegs s l) := by
  unfold State.landRegs
  repeat' first
    | with_reducible assumption
    | with_reducible apply State.landReg_keeps
    | with_reducible refine Keeps.ite ?_ ?_
    | with_reducible refine Keeps.foldl ?_ ?_
    | with_reducible refine Keeps.foldl_fst ?_ ?_
    | intro _
    | split
    | dsimp only
    | rfl
    | refine Keeps.upd ?_
    | simp only [updAt_length, List.length_map]

theorem State.timingLand_keeps {r s : State} (h : Keeps r s) (n : Nat) (edges : Option (Int × Int)) :
    Keeps r (State.timingLand s n edges) := by
  unfold State.timingLand
  repeat' first
    | with_reducible assumption
    | with_reducible apply State.put_keeps
    | with_reducible apply State.setOut_keeps
    | with_reducible apply State.raise_keeps
    | with_reducible apply State.landRegs_keeps
    | with_reducible refine Keeps.ite ?_ ?_
    | with_reducible refine Keeps.foldl ?_ ?_
    | with_reducible refine Keeps.foldl_fst ?_ ?_
    | intro _
    | split
    | dsimp only
    | rfl
    | refine Keeps.upd ?_
    | simp only [updAt_length, List.length_map]

theorem State.ladderLand_keeps {r s : State} (h : Keeps r s) (n : Nat) :
    Keeps r (State.ladderLand s n) := by
  unfold State.ladderLand
  repeat' first
    | with_reducible assumption
    | with_reducible apply State.put_keeps
    | with_reducible apply State.raise_keeps
    | with_reducible apply State.landRegs_keeps
    | with_reducible apply State.puts_keeps
    | with_reducible apply State.setOut_keeps
    | with_reducible refine Keeps.ite ?_ ?_
    | with_reducible refine Keeps.foldl ?_ ?_
    | with_reducible refine Keeps.foldl_fst ?_ ?_
    | intro _
    | split
    | dsimp only
    | rfl
    | refine Keeps.upd ?_
    | simp only [updAt_length, List.length_map]

theorem State.copyShadows_keeps {r s : State} (h : Keeps r s) (n : Nat) :
    Keeps r (State.copyShadows s n) := by
  unfold State.copyShadows
  repeat' first
    | with_reducible assumption
    | with_reducible apply State.landRegs_keeps
    | with_reducible apply State.putAct_keeps
    | with_reducible refine Keeps.ite ?_ ?_
    | with_reducible refine Keeps.foldl ?_ ?_
    | with_reducible refine Keeps.foldl_fst ?_ ?_
    | intro _
    | split
    | dsimp only
    | rfl
    | refine Keeps.upd ?_
    | simp only [updAt_length, List.length_map]

theorem State.showClamped_keeps {r s : State} (h : Keeps r s) (n : Nat) :
    Keeps r (State.showClamped s n) := by
  unfold State.showClamped
  repeat' first
    | with_reducible assumption
    | with_reducible apply State.put_keeps
    | with_reducible refine Keeps.ite ?_ ?_
    | with_reducible refine Keeps.foldl ?_ ?_
    | with_reducible refine Keeps.foldl_fst ?_ ?_
    | intro _
    | split
    | dsimp only
    | rfl
    | refine Keeps.upd ?_
    | simp only [updAt_length, List.length_map]

theorem State.slotZero_keeps {r s : State} (h : Keeps r s) (n : Nat) :
    Keeps r (State.slotZero s n) := by
  unfold State.slotZero
  repeat' first
    | with_reducible assumption
    | with_reducible apply State.makeCurrent_keeps
    | with_reducible refine Keeps.ite ?_ ?_
    | with_reducible refine Keeps.foldl ?_ ?_
    | with_reducible refine Keeps.foldl_fst ?_ ?_
    | intro _
    | split
    | dsimp only
    | rfl
    | refine Keeps.upd ?_
    | simp only [updAt_length, List.length_map]

theorem State.sourceLand_keeps {r s : State} (h : Keeps r s) (n : Nat) (idle : Bool) :
    Keeps r (State.sourceLand s n idle) := by
  unfold State.sourceLand
  repeat' first
    | with_reducible assumption
    | with_reducible apply State.put_keeps
    | with_reducible apply State.raise_keeps
    | with_reducible apply State.landRegs_keeps
    | with_reducible apply State.setOut_keeps
    | with_reducible apply State.slotZero_keeps
    | with_reducible refine Keeps.ite ?_ ?_
    | with_reducible refine Keeps.foldl ?_ ?_
    | with_reducible refine Keeps.foldl_fst ?_ ?_
    | intro _
    | split
    | dsimp only
    | rfl
    | refine Keeps.upd ?_
    | simp only [updAt_length, List.length_map]

theorem State.moveSlot_keeps {r s : State} (h : Keeps r s) (n : Nat) (old : Nat) :
    Keeps r (State.moveSlot s n old).1 := by
  unfold State.moveSlot
  repeat' first
    | with_reducible assumption
    | with_reducible apply State.slotZero_keeps
    | with_reducible apply State.makeCurrent_keeps
    | with_reducible apply State.raise_keeps
    | with_reducible apply State.put_keeps
    | with_reducible refine Keeps.ite ?_ ?_
    | with_reducible refine Keeps.foldl ?_ ?_
    | with_reducible refine Keeps.foldl_fst ?_ ?_
    | intro _
    | split
    | dsimp only
    | rfl
    | refine Keeps.upd ?_
    | simp only [updAt_length, List.length_map]

theorem State.stagesLand_keeps {r s : State} (h : Keeps r s) (s0 : State) (n : Nat) (thawed : Bool) :
    Keeps r (State.stagesLand s s0 n thawed) := by
  unfold State.stagesLand
  repeat' first
    | with_reducible assumption
    | with_reducible apply State.scalLand_keeps
    | with_reducible apply State.colrLand_keeps
    | with_reducible apply State.dualFieldLand_keeps
    | with_reducible apply State.dualLand_keeps
    | with_reducible apply State.unifLand_keeps
    | with_reducible apply State.wearLand_keeps
    | with_reducible apply State.odrvLand_keeps
    | with_reducible apply State.put_keeps
    | with_reducible apply State.holdChannels_keeps
    | with_reducible refine Keeps.ite ?_ ?_
    | with_reducible refine Keeps.foldl ?_ ?_
    | with_reducible refine Keeps.foldl_fst ?_ ?_
    | intro _
    | split
    | dsimp only
    | rfl
    | refine Keeps.upd ?_
    | simp only [updAt_length, List.length_map]

theorem State.idleRung_keeps {r s : State} (h : Keeps r s) (n : Nat) :
    Keeps r (State.idleRung s n) := by
  unfold State.idleRung
  repeat' first
    | with_reducible assumption
    | with_reducible apply State.put_keeps
    | with_reducible refine Keeps.ite ?_ ?_
    | with_reducible refine Keeps.foldl ?_ ?_
    | with_reducible refine Keeps.foldl_fst ?_ ?_
    | intro _
    | split
    | dsimp only
    | rfl
    | refine Keeps.upd ?_
    | simp only [updAt_length, List.length_map]

theorem State.landAll_keeps {r s : State} (h : Keeps r s) (n : Nat) (edges : Option (Int × Int)) :
    Keeps r (State.landAll s n edges) := by
  unfold State.landAll
  repeat' first
    | with_reducible assumption
    | with_reducible apply State.copyShadows_keeps
    | with_reducible apply State.timingLand_keeps
    | with_reducible apply State.showClamped_keeps
    | with_reducible apply State.sourceLand_keeps
    | with_reducible apply State.ladderLand_keeps
    | with_reducible apply State.idleRung_keeps
    | with_reducible apply State.stagesLand_keeps
    | with_reducible apply State.setOut_keeps
    | with_reducible refine Keeps.ite ?_ ?_
    | with_reducible refine Keeps.foldl ?_ ?_
    | with_reducible refine Keeps.foldl_fst ?_ ?_
    | intro _
    | split
    | dsimp only
    | rfl
    | refine Keeps.upd ?_
    | simp only [updAt_length, List.length_map]

theorem State.idleLand_keeps {r s : State} (h : Keeps r s) (n : Nat) :
    Keeps r (State.idleLand s n) := by
  unfold State.idleLand
  repeat' first
    | with_reducible assumption
    | with_reducible apply State.landAll_keeps
    | with_reducible apply State.showRoles_keeps
    | with_reducible refine Keeps.ite ?_ ?_
    | with_reducible refine Keeps.foldl ?_ ?_
    | with_reducible refine Keeps.foldl_fst ?_ ?_
    | intro _
    | split
    | dsimp only
    | rfl
    | refine Keeps.upd ?_
    | simp only [updAt_length, List.length_map]

theorem State.ladderStep_keeps {r s : State} (h : Keeps r s) (n : Nat) (changed : Bool) (edge : Int) (blank : Bool) :
    Keeps r (State.ladderStep s n changed edge blank) := by
  unfold State.ladderStep
  repeat' first
    | with_reducible assumption
    | with_reducible apply State.puts_keeps
    | with_reducible apply State.setOut_keeps
    | with_reducible apply State.raiseIf_keeps
    | with_reducible apply State.put_keeps
    | with_reducible refine Keeps.ite ?_ ?_
    | with_reducible refine Keeps.foldl ?_ ?_
    | with_reducible refine Keeps.foldl_fst ?_ ?_
    | intro _
    | split
    | dsimp only
    | rfl
    | refine Keeps.upd ?_
    | simp only [updAt_length, List.length_map]

theorem State.rateLand_keeps {r s : State} (h : Keeps r s) (n : Nat) :
    Keeps r (State.rateLand s n) := by
  unfold State.rateLand
  repeat' first
    | with_reducible assumption
    | with_reducible apply State.setOdrv_keeps
    | with_reducible refine Keeps.ite ?_ ?_
    | with_reducible refine Keeps.foldl ?_ ?_
    | with_reducible refine Keeps.foldl_fst ?_ ?_
    | intro _
    | split
    | dsimp only
    | rfl
    | refine Keeps.upd ?_
    | simp only [updAt_length, List.length_map]

theorem State.regionReady_keeps {r s : State} (h : Keeps r s) (n : Nat) :
    Keeps r (State.regionReady s n) := by
  unfold State.regionReady
  repeat' first
    | with_reducible assumption
    | with_reducible apply State.put_keeps
    | with_reducible apply State.setOut_keeps
    | with_reducible refine Keeps.ite ?_ ?_
    | with_reducible refine Keeps.foldl ?_ ?_
    | with_reducible refine Keeps.foldl_fst ?_ ?_
    | intro _
    | split
    | dsimp only
    | rfl
    | refine Keeps.upd ?_
    | simp only [updAt_length, List.length_map]

theorem State.regionLanded_keeps {r s : State} (h : Keeps r s) (n : Nat) :
    Keeps r (State.regionLanded s n) := by
  unfold State.regionLanded
  repeat' first
    | with_reducible assumption
    | with_reducible apply State.setOut_keeps
    | with_reducible refine Keeps.ite ?_ ?_
    | with_reducible refine Keeps.foldl ?_ ?_
    | with_reducible refine Keeps.foldl_fst ?_ ?_
    | intro _
    | split
    | dsimp only
    | rfl
    | refine Keeps.upd ?_
    | simp only [updAt_length, List.length_map]

theorem State.setRegion_keeps {r s : State} (h : Keeps r s) (n : Nat) (f : RegionState → RegionState) :
    Keeps r (State.setRegion s n f) := by
  unfold State.setRegion
  repeat' first
    | with_reducible assumption
    | with_reducible apply State.setOut_keeps
    | with_reducible refine Keeps.ite ?_ ?_
    | with_reducible refine Keeps.foldl ?_ ?_
    | with_reducible refine Keeps.foldl_fst ?_ ?_
    | intro _
    | split
    | dsimp only
    | rfl
    | refine Keeps.upd ?_
    | simp only [updAt_length, List.length_map]

theorem State.regionGo_keeps {r s : State} (h : Keeps r s) (n : Nat) :
    Keeps r (State.regionGo s n) := by
  unfold State.regionGo
  repeat' first
    | with_reducible assumption
    | with_reducible apply State.setRegion_keeps
    | with_reducible refine Keeps.ite ?_ ?_
    | with_reducible refine Keeps.foldl ?_ ?_
    | with_reducible refine Keeps.foldl_fst ?_ ?_
    | intro _
    | split
    | dsimp only
    | rfl
    | refine Keeps.upd ?_
    | simp only [updAt_length, List.length_map]

theorem State.takeCal_keeps {r s : State} (h : Keeps r s) (n : Nat) (id : Nat) :
    Keeps r (State.takeCal s n id) := by
  unfold State.takeCal
  repeat' first
    | with_reducible assumption
    | with_reducible apply State.setOut_keeps
    | with_reducible apply State.raise_keeps
    | with_reducible apply State.count_keeps
    | with_reducible apply State.holdLanes_keeps
    | with_reducible refine Keeps.ite ?_ ?_
    | with_reducible refine Keeps.foldl ?_ ?_
    | with_reducible refine Keeps.foldl_fst ?_ ?_
    | intro _
    | split
    | dsimp only
    | rfl
    | refine Keeps.upd ?_
    | simp only [updAt_length, List.length_map]

theorem State.advanceFrame_keeps {r s : State} (h : Keeps r s) (n : Nat) :
    Keeps r (State.advanceFrame s n) := by
  unfold State.advanceFrame
  repeat' first
    | with_reducible assumption
    | with_reducible apply State.puts_keeps
    | with_reducible refine Keeps.ite ?_ ?_
    | with_reducible refine Keeps.foldl ?_ ?_
    | with_reducible refine Keeps.foldl_fst ?_ ?_
    | intro _
    | split
    | dsimp only
    | rfl
    | refine Keeps.upd ?_
    | simp only [updAt_length, List.length_map]

theorem State.closeCrc_keeps {r s : State} (h : Keeps r s) (n : Nat) :
    Keeps r (State.closeCrc s n) := by
  unfold State.closeCrc
  repeat' first
    | with_reducible assumption
    | with_reducible apply State.put_keeps
    | with_reducible apply State.setPix_keeps
    | with_reducible refine Keeps.ite ?_ ?_
    | with_reducible refine Keeps.foldl ?_ ?_
    | with_reducible refine Keeps.foldl_fst ?_ ?_
    | intro _
    | split
    | dsimp only
    | rfl
    | refine Keeps.upd ?_
    | simp only [updAt_length, List.length_map]

theorem State.beginRead_keeps {r s : State} (h : Keeps r s) (n : Nat) :
    Keeps r (State.beginRead s n) := by
  unfold State.beginRead
  repeat' first
    | with_reducible assumption
    | with_reducible apply State.mapsFrame_keeps
    | with_reducible apply State.setOut_keeps
    | with_reducible apply State.setPix_keeps
    | with_reducible refine Keeps.ite ?_ ?_
    | with_reducible refine Keeps.foldl ?_ ?_
    | with_reducible refine Keeps.foldl_fst ?_ ?_
    | intro _
    | split
    | dsimp only
    | rfl
    | refine Keeps.upd ?_
    | simp only [updAt_length, List.length_map]

theorem State.structureLand_keeps {r s : State} (h : Keeps r s) (n : Nat) (go : Bool) (landing : Bool) :
    Keeps r (State.structureLand s n go landing).1 := by
  unfold State.structureLand
  repeat' first
    | with_reducible assumption
    | with_reducible apply State.installOut_keeps
    | with_reducible refine Keeps.ite ?_ ?_
    | with_reducible refine Keeps.foldl ?_ ?_
    | with_reducible refine Keeps.foldl_fst ?_ ?_
    | intro _
    | split
    | dsimp only
    | rfl
    | refine Keeps.upd ?_
    | simp only [updAt_length, List.length_map]

theorem State.slackCheck_keeps {r s : State} (h : Keeps r s) :
    Keeps r (State.slackCheck s) := by
  unfold State.slackCheck
  repeat' first
    | with_reducible assumption
    | with_reducible apply State.put_keeps
    | with_reducible apply State.raise_keeps
    | with_reducible refine Keeps.ite ?_ ?_
    | with_reducible refine Keeps.foldl ?_ ?_
    | with_reducible refine Keeps.foldl_fst ?_ ?_
    | intro _
    | split
    | dsimp only
    | rfl
    | refine Keeps.upd ?_
    | simp only [updAt_length, List.length_map]

theorem State.slackStep_keeps {r s : State} (h : Keeps r s) (n : Nat) :
    Keeps r (State.slackStep s n) := by
  unfold State.slackStep
  repeat' first
    | with_reducible assumption
    | with_reducible apply State.setOut_keeps
    | with_reducible apply State.slackCheck_keeps
    | with_reducible refine Keeps.ite ?_ ?_
    | with_reducible refine Keeps.foldl ?_ ?_
    | with_reducible refine Keeps.foldl_fst ?_ ?_
    | intro _
    | split
    | dsimp only
    | rfl
    | refine Keeps.upd ?_
    | simp only [updAt_length, List.length_map]

theorem State.landingPoint_keeps {r s0 : State} (h : Keeps r s0) (n : Nat) :
    Keeps r (State.landingPoint s0 n) := by
  unfold State.landingPoint
  repeat' first
    | with_reducible assumption
    | with_reducible apply State.chooseLines_keeps
    | with_reducible apply State.odrvFrameEnd_keeps
    | with_reducible apply State.regionReady_keeps
    | with_reducible apply State.closeCrc_keeps
    | with_reducible apply State.structureLand_keeps
    | with_reducible apply State.landReachSwaps_keeps
    | with_reducible apply State.landAll_keeps
    | with_reducible apply State.timingLand_keeps
    | with_reducible apply State.showClamped_keeps
    | with_reducible apply State.moveSlot_keeps
    | with_reducible apply State.regionLanded_keeps
    | with_reducible apply State.count_keeps
    | with_reducible apply State.raiseIf_keeps
    | with_reducible apply State.advanceFrame_keeps
    | with_reducible apply State.txLanding_keeps
    | with_reducible apply State.puts_keeps
    | with_reducible apply State.raise_keeps
    | with_reducible apply State.latchTemp_keeps
    | with_reducible apply State.ladderStep_keeps
    | with_reducible apply State.rateLand_keeps
    | with_reducible apply State.setOut_keeps
    | with_reducible apply State.put_keeps
    | with_reducible apply State.takeCal_keeps
    | with_reducible apply State.regionGo_keeps
    | with_reducible apply State.beginRead_keeps
    | with_reducible apply State.slackStep_keeps
    | with_reducible refine Keeps.ite ?_ ?_
    | with_reducible refine Keeps.foldl ?_ ?_
    | with_reducible refine Keeps.foldl_fst ?_ ?_
    | intro _
    | split
    | dsimp only
    | rfl
    | refine Keeps.upd ?_
    | simp only [updAt_length, List.length_map]

end Sys2Proof.Machine
end

