-- ==== Sys2Proof/Laws/Keeps/Stage.lean ====
section
/-!
SUPPORT. What the operations of Machine/Stage.lean keep.
-/

set_option Elab.async false
set_option linter.all false

namespace Sys2Proof.Machine

theorem State.nextIndex_keeps {r s : State} (h : Keeps r s) (n : Nat) (type : Nat) :
    Keeps r (State.nextIndex s n type) := by
  unfold State.nextIndex
  repeat' first
    | with_reducible assumption
    | with_reducible apply State.put_keeps
    | with_reducible refine Keeps.ite ?_ ?_
    | with_reducible refine Keeps.foldl ?_ ?_
    | with_reducible refine Keeps.foldl_fst ?_ ?_
    | intro _
    | split
    | dsimp only
    | rfl
    | refine Keeps.upd ?_
    | simp only [updAt_length, List.length_map]

theorem State.tableWrite_keeps {r s : State} (h : Keeps r s) (n : Nat) (type : Nat) (v : Nat) :
    Keeps r (State.tableWrite s n type v) := by
  unfold State.tableWrite
  repeat' first
    | with_reducible assumption
    | with_reducible apply State.raise_keeps
    | with_reducible apply State.setTbl_keeps
    | with_reducible refine Keeps.ite ?_ ?_
    | with_reducible refine Keeps.foldl ?_ ?_
    | with_reducible refine Keeps.foldl_fst ?_ ?_
    | intro _
    | split
    | dsimp only
    | rfl
    | refine Keeps.upd ?_
    | simp only [updAt_length, List.length_map]

theorem execTableDataWrite_keeps {r s : State} (h : Keeps r s) (w : Writer) (addr : BitVec 26) (data : Word) :
    KeepsOut r (execTableDataWrite w addr data s) := by
  unfold execTableDataWrite
  repeat' first
    | with_reducible assumption
    | refine KeepsOut.next ?_
    | with_reducible refine KeepsOut.ite ?_ ?_
    | with_reducible apply State.writeBy_keeps
    | with_reducible apply State.tableWrite_keeps
    | with_reducible apply State.nextIndex_keeps
    | dsimp only
    | split
    | with_reducible refine Keeps.ite ?_ ?_
    | with_reducible refine Keeps.foldl ?_ ?_
    | with_reducible refine Keeps.foldl_fst ?_ ?_
    | intro _
    | split
    | dsimp only
    | rfl
    | refine Keeps.upd ?_
    | simp only [updAt_length, List.length_map]

theorem execTableDataRead_keeps {r s : State} (h : Keeps r s) (w : Writer) (addr : BitVec 26) :
    KeepsOut r (execTableDataRead w addr s) := by
  unfold execTableDataRead
  repeat' first
    | with_reducible assumption
    | refine KeepsOut.next ?_
    | with_reducible refine KeepsOut.ite ?_ ?_
    | with_reducible apply State.readBy_keeps
    | with_reducible apply State.nextIndex_keeps
    | dsimp only
    | split
    | with_reducible refine Keeps.ite ?_ ?_
    | with_reducible refine Keeps.foldl ?_ ?_
    | with_reducible refine Keeps.foldl_fst ?_ ?_
    | intro _
    | split
    | dsimp only
    | rfl
    | refine Keeps.upd ?_
    | simp only [updAt_length, List.length_map]

theorem State.dropCheck_keeps {r s : State} (h : Keeps r s) (n : Nat) (field : Bool) :
    Keeps r (State.dropCheck s n field) := by
  unfold State.dropCheck
  repeat' first
    | with_reducible assumption
    | with_reducible apply State.puts_keeps
    | with_reducible refine Keeps.ite ?_ ?_
    | with_reducible refine Keeps.foldl ?_ ?_
    | with_reducible refine Keeps.foldl_fst ?_ ?_
    | intro _
    | split
    | dsimp only
    | rfl
    | refine Keeps.upd ?_
    | simp only [updAt_length, List.length_map]

theorem State.writeMapAddr_keeps {r s : State} (h : Keeps r s) (n : Nat) (field : Bool) (data : Word) :
    Keeps r (State.writeMapAddr s n field data) := by
  unfold State.writeMapAddr
  repeat' first
    | with_reducible assumption
    | with_reducible apply State.put_keeps
    | with_reducible apply State.setWritten_keeps
    | with_reducible apply State.dropCheck_keeps
    | with_reducible refine Keeps.ite ?_ ?_
    | with_reducible refine Keeps.foldl ?_ ?_
    | with_reducible refine Keeps.foldl_fst ?_ ?_
    | intro _
    | split
    | dsimp only
    | rfl
    | refine Keeps.upd ?_
    | simp only [updAt_length, List.length_map]

theorem execUnifAddressWrite_keeps {r s : State} (h : Keeps r s) (w : Writer) (addr : BitVec 26) (data : Word) :
    KeepsOut r (execUnifAddressWrite w addr data s) := by
  unfold execUnifAddressWrite
  repeat' first
    | with_reducible assumption
    | refine KeepsOut.next ?_
    | with_reducible refine KeepsOut.ite ?_ ?_
    | with_reducible apply State.writeBy_keeps
    | with_reducible apply State.writeMapAddr_keeps
    | with_reducible apply State.idleLand_keeps
    | dsimp only
    | split
    | with_reducible refine Keeps.ite ?_ ?_
    | with_reducible refine Keeps.foldl ?_ ?_
    | with_reducible refine Keeps.foldl_fst ?_ ?_
    | intro _
    | split
    | dsimp only
    | rfl
    | refine Keeps.upd ?_
    | simp only [updAt_length, List.length_map]

theorem State.startCheck_keeps {r s : State} (h : Keeps r s) (n : Nat) (field : Bool) :
    Keeps r (State.startCheck s n field) := by
  unfold State.startCheck
  repeat' first
    | with_reducible assumption
    | with_reducible apply State.dropCheck_keeps
    | with_reducible apply State.put_keeps
    | with_reducible refine Keeps.ite ?_ ?_
    | with_reducible refine Keeps.foldl ?_ ?_
    | with_reducible refine Keeps.foldl_fst ?_ ?_
    | intro _
    | split
    | dsimp only
    | rfl
    | refine Keeps.upd ?_
    | simp only [updAt_length, List.length_map]

theorem execUnifCheckBase_keeps {r s : State} (h : Keeps r s) (w : Writer) (addr : BitVec 26) :
    KeepsOut r (execUnifCheckBase w addr s) := by
  unfold execUnifCheckBase
  repeat' first
    | with_reducible assumption
    | refine KeepsOut.next ?_
    | with_reducible refine KeepsOut.ite ?_ ?_
    | with_reducible apply State.writeBy_keeps
    | with_reducible apply State.startCheck_keeps
    | dsimp only
    | split
    | with_reducible refine Keeps.ite ?_ ?_
    | with_reducible refine Keeps.foldl ?_ ?_
    | with_reducible refine Keeps.foldl_fst ?_ ?_
    | intro _
    | split
    | dsimp only
    | rfl
    | refine Keeps.upd ?_
    | simp only [updAt_length, List.length_map]

theorem execUnifCheckField_keeps {r s : State} (h : Keeps r s) (w : Writer) (addr : BitVec 26) :
    KeepsOut r (execUnifCheckField w addr s) := by
  unfold execUnifCheckField
  repeat' first
    | with_reducible assumption
    | refine KeepsOut.next ?_
    | with_reducible refine KeepsOut.ite ?_ ?_
    | with_reducible apply State.writeBy_keeps
    | with_reducible apply State.startCheck_keeps
    | dsimp only
    | split
    | with_reducible refine Keeps.ite ?_ ?_
    | with_reducible refine Keeps.foldl ?_ ?_
    | with_reducible refine Keeps.foldl_fst ?_ ?_
    | intro _
    | split
    | dsimp only
    | rfl
    | refine Keeps.upd ?_
    | simp only [updAt_length, List.length_map]

theorem execUnifCheckComplete_keeps {r s : State} (h : Keeps r s) (n : Fin 4) (field : Bool) :
    KeepsOut r (execUnifCheckComplete n field s) := by
  unfold execUnifCheckComplete
  repeat' first
    | with_reducible assumption
    | refine KeepsOut.next ?_
    | with_reducible refine KeepsOut.ite ?_ ?_
    | with_reducible apply State.puts_keeps
    | with_reducible apply State.setMapUse_keeps
    | dsimp only
    | split
    | with_reducible refine Keeps.ite ?_ ?_
    | with_reducible refine Keeps.foldl ?_ ?_
    | with_reducible refine Keeps.foldl_fst ?_ ?_
    | intro _
    | split
    | dsimp only
    | rfl
    | refine Keeps.upd ?_
    | simp only [updAt_length, List.length_map]

theorem execBaseLock_keeps {r s : State} (h : Keeps r s) (w : Writer) (addr : BitVec 26) :
    KeepsOut r (execBaseLock w addr s) := by
  unfold execBaseLock
  repeat' first
    | with_reducible assumption
    | refine KeepsOut.next ?_
    | with_reducible refine KeepsOut.ite ?_ ?_
    | with_reducible apply State.writeBy_keeps
    | with_reducible apply State.lockBase_keeps
    | dsimp only
    | split
    | with_reducible refine Keeps.ite ?_ ?_
    | with_reducible refine Keeps.foldl ?_ ?_
    | with_reducible refine Keeps.foldl_fst ?_ ?_
    | intro _
    | split
    | dsimp only
    | rfl
    | refine Keeps.upd ?_
    | simp only [updAt_length, List.length_map]

theorem execBaseMapHashDone_keeps {r s : State} (h : Keeps r s) (n : Fin 4) :
    KeepsOut r (execBaseMapHashDone n s) := by
  unfold execBaseMapHashDone
  repeat' first
    | with_reducible assumption
    | refine KeepsOut.next ?_
    | with_reducible refine KeepsOut.ite ?_ ?_
    | with_reducible apply State.put_keeps
    | with_reducible apply State.showApplied_keeps
    | with_reducible apply State.raiseIf_keeps
    | dsimp only
    | split
    | with_reducible refine Keeps.ite ?_ ?_
    | with_reducible refine Keeps.foldl ?_ ?_
    | with_reducible refine Keeps.foldl_fst ?_ ?_
    | intro _
    | split
    | dsimp only
    | rfl
    | refine Keeps.upd ?_
    | simp only [updAt_length, List.length_map]

theorem State.sampleRow_keeps {r s : State} (h : Keeps r s) (n : Nat) (row : Nat) (old : List Byte) :
    Keeps r (State.sampleRow s n row old) := by
  unfold State.sampleRow
  repeat' first
    | with_reducible assumption
    | with_reducible apply State.count_keeps
    | with_reducible apply State.setWear_keeps
    | with_reducible apply State.stageRequest_keeps
    | with_reducible apply State.sendLtr_keeps
    | with_reducible apply State.hostWrites_keeps
    | with_reducible refine Keeps.ite ?_ ?_
    | with_reducible refine Keeps.foldl ?_ ?_
    | with_reducible refine Keeps.foldl_fst ?_ ?_
    | intro _
    | split
    | dsimp only
    | rfl
    | refine Keeps.upd ?_
    | simp only [updAt_length, List.length_map]

theorem State.skipRow_keeps {r s : State} (h : Keeps r s) (n : Nat) (row : Nat) :
    Keeps r (State.skipRow s n row) := by
  unfold State.skipRow
  repeat' first
    | with_reducible assumption
    | with_reducible apply State.count_keeps
    | with_reducible apply State.dropReads_keeps
    | with_reducible apply State.setWear_keeps
    | with_reducible apply State.oweRow_keeps
    | with_reducible apply State.raise_keeps
    | with_reducible refine Keeps.ite ?_ ?_
    | with_reducible refine Keeps.foldl ?_ ?_
    | with_reducible refine Keeps.foldl_fst ?_ ?_
    | intro _
    | split
    | dsimp only
    | rfl
    | refine Keeps.upd ?_
    | simp only [updAt_length, List.length_map]

theorem State.stallRow_keeps {r s : State} (h : Keeps r s) (n : Nat) (row : Nat) :
    Keeps r (State.stallRow s n row) := by
  unfold State.stallRow
  repeat' first
    | with_reducible assumption
    | with_reducible apply State.dropReads_keeps
    | with_reducible apply State.setWear_keeps
    | with_reducible apply State.oweRow_keeps
    | with_reducible refine Keeps.ite ?_ ?_
    | with_reducible refine Keeps.foldl ?_ ?_
    | with_reducible refine Keeps.foldl_fst ?_ ?_
    | intro _
    | split
    | dsimp only
    | rfl
    | refine Keeps.upd ?_
    | simp only [updAt_length, List.length_map]

theorem execWearRowStart_keeps {r s : State} (h : Keeps r s) (n : Fin 4) (row : Nat) (met : Bool) :
    KeepsOut r (execWearRowStart n row met s) := by
  unfold execWearRowStart
  repeat' first
    | with_reducible assumption
    | refine KeepsOut.next ?_
    | with_reducible refine KeepsOut.ite ?_ ?_
    | with_reducible apply State.stallRow_keeps
    | with_reducible apply State.showLedger_keeps
    | with_reducible apply State.sampleRow_keeps
    | with_reducible apply State.ledgerRun_keeps
    | with_reducible apply State.setWear_keeps
    | with_reducible apply State.skipRow_keeps
    | dsimp only
    | split
    | with_reducible refine Keeps.ite ?_ ?_
    | with_reducible refine Keeps.foldl ?_ ?_
    | with_reducible refine Keeps.foldl_fst ?_ ?_
    | intro _
    | split
    | dsimp only
    | rfl
    | refine Keeps.upd ?_
    | simp only [updAt_length, List.length_map]

theorem execOdrvPanelTempWrite_keeps {r s : State} (h : Keeps r s) (w : Writer) (addr : BitVec 26) (data : BitVec 16) :
    KeepsOut r (execOdrvPanelTempWrite w addr data s) := by
  unfold execOdrvPanelTempWrite
  repeat' first
    | with_reducible assumption
    | refine KeepsOut.next ?_
    | with_reducible refine KeepsOut.ite ?_ ?_
    | with_reducible apply State.writeBy_keeps
    | with_reducible apply State.put_keeps
    | with_reducible apply State.acceptTemp_keeps
    | dsimp only
    | split
    | with_reducible refine Keeps.ite ?_ ?_
    | with_reducible refine Keeps.foldl ?_ ?_
    | with_reducible refine Keeps.foldl_fst ?_ ?_
    | intro _
    | split
    | dsimp only
    | rfl
    | refine Keeps.upd ?_
    | simp only [updAt_length, List.length_map]

theorem execTemperatureTimerExpiry_keeps {r s : State} (h : Keeps r s) (n : Fin 4) (met : Bool) :
    KeepsOut r (execTemperatureTimerExpiry n met s) := by
  unfold execTemperatureTimerExpiry
  repeat' first
    | with_reducible assumption
    | refine KeepsOut.next ?_
    | with_reducible refine KeepsOut.ite ?_ ?_
    | with_reducible apply State.put_keeps
    | with_reducible apply State.raise_keeps
    | dsimp only
    | split
    | with_reducible refine Keeps.ite ?_ ?_
    | with_reducible refine Keeps.foldl ?_ ?_
    | with_reducible refine Keeps.foldl_fst ?_ ?_
    | intro _
    | split
    | dsimp only
    | rfl
    | refine Keeps.upd ?_
    | simp only [updAt_length, List.length_map]

end Sys2Proof.Machine
end

