-- ==== Sys2Proof/Laws/Keeps/Dma.lean ====
section
/-!
SUPPORT. What the operations of Machine/Dma.lean keep.
-/

set_option Elab.async false
set_option linter.all false

namespace Sys2Proof.Machine

theorem State.setCur_keeps {r s : State} (h : Keeps r s) (ch : Nat) (p : Nat × Bool) :
    Keeps r (State.setCur s ch p) := by
  unfold State.setCur
  repeat' first
    | with_reducible assumption
    | with_reducible apply State.puts_keeps
    | with_reducible refine Keeps.ite ?_ ?_
    | with_reducible refine Keeps.foldl ?_ ?_
    | with_reducible refine Keeps.foldl_fst ?_ ?_
    | intro _
    | split
    | dsimp only
    | rfl
    | refine Keeps.upd ?_
    | simp only [updAt_length, List.length_map]

theorem State.setXfer_keeps {r s : State} (h : Keeps r s) (ch : Nat) (f : DmaXfer → DmaXfer) :
    Keeps r (State.setXfer s ch f) := by
  unfold State.setXfer
  repeat' first
    | with_reducible assumption
    | with_reducible apply State.setChan_keeps
    | with_reducible refine Keeps.ite ?_ ?_
    | with_reducible refine Keeps.foldl ?_ ?_
    | with_reducible refine Keeps.foldl_fst ?_ ?_
    | intro _
    | split
    | dsimp only
    | rfl
    | refine Keeps.upd ?_
    | simp only [updAt_length, List.length_map]

theorem State.showResidue_keeps {r s : State} (h : Keeps r s) (ch : Nat) :
    Keeps r (State.showResidue s ch) := by
  unfold State.showResidue
  repeat' first
    | with_reducible assumption
    | with_reducible apply State.put_keeps
    | with_reducible refine Keeps.ite ?_ ?_
    | with_reducible refine Keeps.foldl ?_ ?_
    | with_reducible refine Keeps.foldl_fst ?_ ?_
    | intro _
    | split
    | dsimp only
    | rfl
    | refine Keeps.upd ?_
    | simp only [updAt_length, List.length_map]

theorem State.chanIdle_keeps {r s : State} (h : Keeps r s) (ch : Nat) :
    Keeps r (State.chanIdle s ch) := by
  unfold State.chanIdle
  repeat' first
    | with_reducible assumption
    | with_reducible apply State.puts_keeps
    | with_reducible apply State.setChan_keeps
    | with_reducible apply State.holdChannel_keeps
    | with_reducible refine Keeps.ite ?_ ?_
    | with_reducible refine Keeps.foldl ?_ ?_
    | with_reducible refine Keeps.foldl_fst ?_ ?_
    | intro _
    | split
    | dsimp only
    | rfl
    | refine Keeps.upd ?_
    | simp only [updAt_length, List.length_map]

theorem State.chanStop_keeps {r s : State} (h : Keeps r s) (ch : Nat) (code : Nat) :
    Keeps r (State.chanStop s ch code) := by
  unfold State.chanStop
  repeat' first
    | with_reducible assumption
    | with_reducible apply State.put_keeps
    | with_reducible apply State.chanIdle_keeps
    | with_reducible apply State.raise_keeps
    | with_reducible refine Keeps.ite ?_ ?_
    | with_reducible refine Keeps.foldl ?_ ?_
    | with_reducible refine Keeps.foldl_fst ?_ ?_
    | intro _
    | split
    | dsimp only
    | rfl
    | refine Keeps.upd ?_
    | simp only [updAt_length, List.length_map]

theorem State.xferEnd_keeps {r s : State} (h : Keeps r s) (ch : Nat) (x : DmaXfer) :
    Keeps r (State.xferEnd s ch x) := by
  unfold State.xferEnd
  repeat' first
    | with_reducible assumption
    | with_reducible apply State.puts_keeps
    | with_reducible apply State.chanIdle_keeps
    | with_reducible apply State.raise_keeps
    | with_reducible apply State.count_keeps
    | with_reducible apply State.raiseIf_keeps
    | with_reducible apply State.setChan_keeps
    | with_reducible apply State.put_keeps
    | with_reducible apply State.chanStop_keeps
    | with_reducible apply State.setCur_keeps
    | with_reducible refine Keeps.ite ?_ ?_
    | with_reducible refine Keeps.foldl ?_ ?_
    | with_reducible refine Keeps.foldl_fst ?_ ?_
    | intro _
    | split
    | dsimp only
    | rfl
    | refine Keeps.upd ?_
    | simp only [updAt_length, List.length_map]

theorem State.writeStatus_keeps {r s : State} (h : Keeps r s) (ch : Nat) (x : DmaXfer) :
    Keeps r (State.writeStatus s ch x) := by
  unfold State.writeStatus
  repeat' first
    | with_reducible assumption
    | with_reducible apply State.setXfer_keeps
    | with_reducible apply State.violate_keeps
    | with_reducible apply State.chanRequest_keeps
    | with_reducible apply State.toHost_keeps
    | with_reducible apply State.xferEnd_keeps
    | with_reducible refine Keeps.ite ?_ ?_
    | with_reducible refine Keeps.foldl ?_ ?_
    | with_reducible refine Keeps.foldl_fst ?_ ?_
    | intro _
    | split
    | dsimp only
    | rfl
    | refine Keeps.upd ?_
    | simp only [updAt_length, List.length_map]

theorem State.startXfer_keeps {r s : State} (h : Keeps r s) (ch : Nat) :
    Keeps r (State.startXfer s ch) := by
  unfold State.startXfer
  repeat' first
    | with_reducible assumption
    | with_reducible apply State.setXfer_keeps
    | with_reducible apply State.showResidue_keeps
    | with_reducible apply State.writeStatus_keeps
    | with_reducible apply State.violate_keeps
    | with_reducible apply State.puts_keeps
    | with_reducible refine Keeps.ite ?_ ?_
    | with_reducible refine Keeps.foldl ?_ ?_
    | with_reducible refine Keeps.foldl_fst ?_ ?_
    | intro _
    | split
    | dsimp only
    | rfl
    | refine Keeps.upd ?_
    | simp only [updAt_length, List.length_map]

theorem State.takeUp_keeps {r s : State} (h : Keeps r s) (ch : Nat) :
    Keeps r (State.takeUp s ch) := by
  unfold State.takeUp
  repeat' first
    | with_reducible assumption
    | with_reducible apply State.setCur_keeps
    | with_reducible apply State.setChan_keeps
    | with_reducible apply State.chanHalt_keeps
    | with_reducible apply State.startXfer_keeps
    | with_reducible refine Keeps.ite ?_ ?_
    | with_reducible refine Keeps.foldl ?_ ?_
    | with_reducible refine Keeps.foldl_fst ?_ ?_
    | intro _
    | split
    | dsimp only
    | rfl
    | refine Keeps.upd ?_
    | simp only [updAt_length, List.length_map]

theorem State.setChunk_keeps {r s : State} (h : Keeps r s) (ch : Nat) (i : Nat) (f : DmaChunk → DmaChunk) :
    Keeps r (State.setChunk s ch i f) := by
  unfold State.setChunk
  repeat' first
    | with_reducible assumption
    | with_reducible apply State.setXfer_keeps
    | with_reducible refine Keeps.ite ?_ ?_
    | with_reducible refine Keeps.foldl ?_ ?_
    | with_reducible refine Keeps.foldl_fst ?_ ?_
    | intro _
    | split
    | dsimp only
    | rfl
    | refine Keeps.upd ?_
    | simp only [updAt_length, List.length_map]

theorem State.advance_keeps {r s : State} (h : Keeps r s) (ch : Nat) :
    Keeps r (State.advance s ch) := by
  unfold State.advance
  repeat' first
    | with_reducible assumption
    | with_reducible apply State.setXfer_keeps
    | with_reducible apply State.showResidue_keeps
    | with_reducible refine Keeps.ite ?_ ?_
    | with_reducible refine Keeps.foldl ?_ ?_
    | with_reducible refine Keeps.foldl_fst ?_ ?_
    | intro _
    | split
    | dsimp only
    | rfl
    | refine Keeps.upd ?_
    | simp only [updAt_length, List.length_map]

theorem State.writeChunk_keeps {r s : State} (h : Keeps r s) (ch : Nat) (x : DmaXfer) (i : Nat) (c : DmaChunk) :
    Keeps r (State.writeChunk s ch x i c) := by
  unfold State.writeChunk
  repeat' first
    | with_reducible assumption
    | with_reducible apply State.violate_keeps
    | with_reducible apply State.setChunk_keeps
    | with_reducible apply State.chanRequest_keeps
    | with_reducible apply State.hostWrites_keeps
    | with_reducible apply State.setXfer_keeps
    | with_reducible apply State.advance_keeps
    | with_reducible refine Keeps.ite ?_ ?_
    | with_reducible refine Keeps.foldl ?_ ?_
    | with_reducible refine Keeps.foldl_fst ?_ ?_
    | intro _
    | split
    | dsimp only
    | rfl
    | refine Keeps.upd ?_
    | simp only [updAt_length, List.length_map]

theorem State.tryWrite_keeps {r s : State} (h : Keeps r s) (ch : Nat) (x : DmaXfer) :
    KeepsOpt r (State.tryWrite s ch x) := by
  unfold State.tryWrite
  repeat' first
    | with_reducible assumption
    | exact KeepsOpt.none
    | refine KeepsOpt.some ?_
    | with_reducible refine KeepsOpt.ite ?_ ?_
    | with_reducible apply State.writeChunk_keeps
    | dsimp only
    | split
    | with_reducible refine Keeps.ite ?_ ?_
    | with_reducible refine Keeps.foldl ?_ ?_
    | with_reducible refine Keeps.foldl_fst ?_ ?_
    | intro _
    | split
    | dsimp only
    | rfl
    | refine Keeps.upd ?_
    | simp only [updAt_length, List.length_map]

theorem State.tryStatus_keeps {r s : State} (h : Keeps r s) (ch : Nat) (x : DmaXfer) :
    KeepsOpt r (State.tryStatus s ch x) := by
  unfold State.tryStatus
  repeat' first
    | with_reducible assumption
    | exact KeepsOpt.none
    | refine KeepsOpt.some ?_
    | with_reducible refine KeepsOpt.ite ?_ ?_
    | with_reducible apply State.writeStatus_keeps
    | dsimp only
    | split
    | with_reducible refine Keeps.ite ?_ ?_
    | with_reducible refine Keeps.foldl ?_ ?_
    | with_reducible refine Keeps.foldl_fst ?_ ?_
    | intro _
    | split
    | dsimp only
    | rfl
    | refine Keeps.upd ?_
    | simp only [updAt_length, List.length_map]

theorem State.tryHalfHold_keeps {r s : State} (h : Keeps r s) (ch : Nat) (x : DmaXfer) :
    KeepsOpt r (State.tryHalfHold s ch x) := by
  unfold State.tryHalfHold
  repeat' first
    | with_reducible assumption
    | exact KeepsOpt.none
    | refine KeepsOpt.some ?_
    | with_reducible refine KeepsOpt.ite ?_ ?_
    | with_reducible apply State.setXfer_keeps
    | with_reducible apply State.raise_keeps
    | dsimp only
    | split
    | with_reducible refine Keeps.ite ?_ ?_
    | with_reducible refine Keeps.foldl ?_ ?_
    | with_reducible refine Keeps.foldl_fst ?_ ?_
    | intro _
    | split
    | dsimp only
    | rfl
    | refine Keeps.upd ?_
    | simp only [updAt_length, List.length_map]

theorem State.tryHalf_keeps {r s : State} (h : Keeps r s) (ch : Nat) (x : DmaXfer) :
    KeepsOpt r (State.tryHalf s ch x) := by
  unfold State.tryHalf
  repeat' first
    | with_reducible assumption
    | exact KeepsOpt.none
    | refine KeepsOpt.some ?_
    | with_reducible refine KeepsOpt.ite ?_ ?_
    | with_reducible apply State.chanRequest_keeps
    | with_reducible apply State.npIssue_keeps
    | with_reducible apply State.setXfer_keeps
    | dsimp only
    | split
    | with_reducible refine Keeps.ite ?_ ?_
    | with_reducible refine Keeps.foldl ?_ ?_
    | with_reducible refine Keeps.foldl_fst ?_ ?_
    | intro _
    | split
    | dsimp only
    | rfl
    | refine Keeps.upd ?_
    | simp only [updAt_length, List.length_map]

theorem State.tryEnd_keeps {r s : State} (h : Keeps r s) (ch : Nat) (x : DmaXfer) :
    KeepsOpt r (State.tryEnd s ch x) := by
  unfold State.tryEnd
  repeat' first
    | with_reducible assumption
    | exact KeepsOpt.none
    | refine KeepsOpt.some ?_
    | with_reducible refine KeepsOpt.ite ?_ ?_
    | with_reducible apply State.writeStatus_keeps
    | with_reducible apply State.chanRequest_keeps
    | with_reducible apply State.npIssue_keeps
    | with_reducible apply State.setXfer_keeps
    | dsimp only
    | split
    | with_reducible refine Keeps.ite ?_ ?_
    | with_reducible refine Keeps.foldl ?_ ?_
    | with_reducible refine Keeps.foldl_fst ?_ ?_
    | intro _
    | split
    | dsimp only
    | rfl
    | refine Keeps.upd ?_
    | simp only [updAt_length, List.length_map]

theorem State.tryRead_keeps {r s : State} (h : Keeps r s) (ch : Nat) (x : DmaXfer) :
    KeepsOpt r (State.tryRead s ch x) := by
  unfold State.tryRead
  repeat' first
    | with_reducible assumption
    | exact KeepsOpt.none
    | refine KeepsOpt.some ?_
    | with_reducible refine KeepsOpt.ite ?_ ?_
    | with_reducible apply State.charge_keeps
    | with_reducible apply State.setXfer_keeps
    | with_reducible apply State.violate_keeps
    | with_reducible apply State.chanRequest_keeps
    | with_reducible apply State.npIssue_keeps
    | dsimp only
    | split
    | with_reducible refine Keeps.ite ?_ ?_
    | with_reducible refine Keeps.foldl ?_ ?_
    | with_reducible refine Keeps.foldl_fst ?_ ?_
    | intro _
    | split
    | dsimp only
    | rfl
    | refine Keeps.upd ?_
    | simp only [updAt_length, List.length_map]

theorem State.tryFetch_keeps {r s : State} (h : Keeps r s) (ch : Nat) :
    KeepsOpt r (State.tryFetch s ch) := by
  unfold State.tryFetch
  repeat' first
    | with_reducible assumption
    | exact KeepsOpt.none
    | refine KeepsOpt.some ?_
    | with_reducible refine KeepsOpt.ite ?_ ?_
    | with_reducible apply State.violate_keeps
    | with_reducible apply State.setChan_keeps
    | with_reducible apply State.chanRequest_keeps
    | with_reducible apply State.npIssue_keeps
    | dsimp only
    | split
    | with_reducible refine Keeps.ite ?_ ?_
    | with_reducible refine Keeps.foldl ?_ ?_
    | with_reducible refine Keeps.foldl_fst ?_ ?_
    | intro _
    | split
    | dsimp only
    | rfl
    | refine Keeps.upd ?_
    | simp only [updAt_length, List.length_map]

theorem State.tryNext_keeps {r s : State} (h : Keeps r s) (ch : Nat) (x : DmaXfer) :
    KeepsOpt r (State.tryNext s ch x) := by
  unfold State.tryNext
  repeat' first
    | with_reducible assumption
    | exact KeepsOpt.none
    | refine KeepsOpt.some ?_
    | with_reducible refine KeepsOpt.ite ?_ ?_
    | with_reducible apply State.setChan_keeps
    | dsimp only
    | split
    | with_reducible refine Keeps.ite ?_ ?_
    | with_reducible refine Keeps.foldl ?_ ?_
    | with_reducible refine Keeps.foldl_fst ?_ ?_
    | intro _
    | split
    | dsimp only
    | rfl
    | refine Keeps.upd ?_
    | simp only [updAt_length, List.length_map]

theorem State.stageStep_keeps {r s : State} (h : Keeps r s) (ch : Nat) : KeepsOpt r (s.stageStep ch) := by
  intro t e
  obtain ⟨n, -, hn⟩ := List.exists_of_findSome?_eq_some e
  split at hn
  · exact State.ledgerNext_keeps h n t hn
  · cases hn

theorem State.dmaStep_keeps {r s : State} (h : Keeps r s) (ch : Nat) : KeepsOpt r (s.dmaStep ch) := by
  unfold State.dmaStep
  dsimp only
  split
  · refine KeepsOpt.orElse (State.tryWrite_keeps h _ _) (KeepsOpt.orElse (State.tryHalfHold_keeps h _ _) (KeepsOpt.ite ?_ KeepsOpt.none))
    exact KeepsOpt.orElse (State.tryStatus_keeps h _ _) (KeepsOpt.orElse (State.tryHalf_keeps h _ _) (KeepsOpt.orElse (State.tryEnd_keeps h _ _)
      (KeepsOpt.orElse (State.tryRead_keeps h _ _) (KeepsOpt.orElse (State.tryNext_keeps h _ _) (State.tryFetch_keeps h _)))))
  · exact KeepsOpt.ite (State.stageStep_keeps h _) (KeepsOpt.ite (KeepsOpt.some (State.takeUp_keeps h _)) (State.tryFetch_keeps h _))

theorem State.dmaRun_keeps {r s : State} (h : Keeps r s) (k : Nat) : Keeps r (State.dmaRun k s) := by
  induction k generalizing s with
  | zero => exact h
  | succ k ih =>
    simp only [State.dmaRun]
    split
    · next t e =>
      obtain ⟨i, -, hi⟩ := List.exists_of_findSome?_eq_some e
      obtain ⟨u, hu, rfl⟩ := Option.map_eq_some_iff.mp hi
      have k := State.dmaStep_keeps h _ _ hu
      exact ih (Keeps.ite (Keeps.upd k) k)
    · exact h

theorem State.dmaGo_keeps {r s : State} (h : Keeps r s) (before : State) : Keeps r (s.dmaGo before) :=
  State.idleLtr_keeps (State.dmaRun_keeps h _) _

theorem State.dmaRefuse_keeps {r s : State} (h : Keeps r s) (ch : Nat) (code : Nat) :
    Keeps r (State.dmaRefuse s ch code) := by
  unfold State.dmaRefuse
  repeat' first
    | with_reducible assumption
    | with_reducible apply State.put_keeps
    | with_reducible refine Keeps.ite ?_ ?_
    | with_reducible refine Keeps.foldl ?_ ?_
    | with_reducible refine Keeps.foldl_fst ?_ ?_
    | intro _
    | split
    | dsimp only
    | rfl
    | refine Keeps.upd ?_
    | simp only [updAt_length, List.length_map]

theorem State.dropChunks_keeps {r s : State} (h : Keeps r s) (ch : Nat) (x : DmaXfer) :
    Keeps r (State.dropChunks s ch x) := by
  unfold State.dropChunks
  repeat' first
    | with_reducible assumption
    | with_reducible apply State.storeRun_keeps
    | with_reducible apply State.setChan_keeps
    | with_reducible apply State.setXfer_keeps
    | with_reducible refine Keeps.ite ?_ ?_
    | with_reducible refine Keeps.foldl ?_ ?_
    | with_reducible refine Keeps.foldl_fst ?_ ?_
    | intro _
    | split
    | dsimp only
    | rfl
    | refine Keeps.upd ?_
    | simp only [updAt_length, List.length_map]

theorem State.abortRun_keeps {r s : State} (h : Keeps r s) (ch : Nat) :
    Keeps r (State.abortRun s ch) := by
  unfold State.abortRun
  repeat' first
    | with_reducible assumption
    | with_reducible apply State.put_keeps
    | with_reducible apply State.setChan_keeps
    | with_reducible apply State.chanStop_keeps
    | with_reducible refine Keeps.ite ?_ ?_
    | with_reducible refine Keeps.foldl ?_ ?_
    | with_reducible refine Keeps.foldl_fst ?_ ?_
    | intro _
    | split
    | dsimp only
    | rfl
    | refine Keeps.upd ?_
    | simp only [updAt_length, List.length_map]

theorem State.abortHalt_keeps {r s : State} (h : Keeps r s) (ch : Nat) :
    Keeps r (State.abortHalt s ch) := by
  unfold State.abortHalt
  repeat' first
    | with_reducible assumption
    | with_reducible apply State.dropChunks_keeps
    | with_reducible apply State.chanStop_keeps
    | with_reducible apply State.put_keeps
    | with_reducible apply State.writeStatus_keeps
    | with_reducible refine Keeps.ite ?_ ?_
    | with_reducible refine Keeps.foldl ?_ ?_
    | with_reducible refine Keeps.foldl_fst ?_ ?_
    | intro _
    | split
    | dsimp only
    | rfl
    | refine Keeps.upd ?_
    | simp only [updAt_length, List.length_map]

theorem State.resumeHalt_keeps {r s : State} (h : Keeps r s) (ch : Nat) :
    Keeps r (State.resumeHalt s ch) := by
  unfold State.resumeHalt
  repeat' first
    | with_reducible assumption
    | with_reducible apply State.put_keeps
    | with_reducible apply State.sendLtr_keeps
    | with_reducible apply State.setChan_keeps
    | with_reducible apply State.dropChunks_keeps
    | with_reducible apply State.startXfer_keeps
    | with_reducible refine Keeps.ite ?_ ?_
    | with_reducible refine Keeps.foldl ?_ ?_
    | with_reducible refine Keeps.foldl_fst ?_ ?_
    | intro _
    | split
    | dsimp only
    | rfl
    | refine Keeps.upd ?_
    | simp only [updAt_length, List.length_map]

theorem State.dmaStart_keeps {r s : State} (h : Keeps r s) (ch : Nat) :
    Keeps r (State.dmaStart s ch) := by
  unfold State.dmaStart
  repeat' first
    | with_reducible assumption
    | with_reducible apply State.dmaRefuse_keeps
    | with_reducible apply State.put_keeps
    | with_reducible apply State.setCur_keeps
    | with_reducible apply State.setChan_keeps
    | with_reducible apply State.sendLtr_keeps
    | with_reducible apply State.dmaGo_keeps
    | with_reducible refine Keeps.ite ?_ ?_
    | with_reducible refine Keeps.foldl ?_ ?_
    | with_reducible refine Keeps.foldl_fst ?_ ?_
    | intro _
    | split
    | dsimp only
    | rfl
    | refine Keeps.upd ?_
    | simp only [updAt_length, List.length_map]

theorem State.dmaAbort_keeps {r s : State} (h : Keeps r s) (ch : Nat) :
    Keeps r (State.dmaAbort s ch) := by
  unfold State.dmaAbort
  repeat' first
    | with_reducible assumption
    | with_reducible apply State.abortHalt_keeps
    | with_reducible apply State.dmaGo_keeps
    | with_reducible apply State.abortRun_keeps
    | with_reducible refine Keeps.ite ?_ ?_
    | with_reducible refine Keeps.foldl ?_ ?_
    | with_reducible refine Keeps.foldl_fst ?_ ?_
    | intro _
    | split
    | dsimp only
    | rfl
    | refine Keeps.upd ?_
    | simp only [updAt_length, List.length_map]

theorem State.dmaResume_keeps {r s : State} (h : Keeps r s) (ch : Nat) :
    Keeps r (State.dmaResume s ch) := by
  unfold State.dmaResume
  repeat' first
    | with_reducible assumption
    | with_reducible apply State.dmaRefuse_keeps
    | with_reducible apply State.resumeHalt_keeps
    | with_reducible apply State.dmaGo_keeps
    | with_reducible refine Keeps.ite ?_ ?_
    | with_reducible refine Keeps.foldl ?_ ?_
    | with_reducible refine Keeps.foldl_fst ?_ ?_
    | intro _
    | split
    | dsimp only
    | rfl
    | refine Keeps.upd ?_
    | simp only [updAt_length, List.length_map]

theorem State.dmaCtrl_keeps {r s : State} (h : Keeps r s) (w : Writer) (ch : Nat) (data : Word) :
    Keeps r (State.dmaCtrl s w ch data) := by
  unfold State.dmaCtrl
  repeat' first
    | with_reducible assumption
    | with_reducible apply State.writeBy_keeps
    | with_reducible apply State.dmaRefuse_keeps
    | with_reducible apply State.dmaAbort_keeps
    | with_reducible apply State.dmaResume_keeps
    | with_reducible apply State.dmaStart_keeps
    | with_reducible refine Keeps.ite ?_ ?_
    | with_reducible refine Keeps.foldl ?_ ?_
    | with_reducible refine Keeps.foldl_fst ?_ ?_
    | intro _
    | split
    | dsimp only
    | rfl
    | refine Keeps.upd ?_
    | simp only [updAt_length, List.length_map]

theorem execDmaStart_keeps {r s : State} (h : Keeps r s) (w : Writer) (ch : Fin 32) (data : Word) :
    KeepsOut r (execDmaStart w ch data s) := by
  unfold execDmaStart
  repeat' first
    | with_reducible assumption
    | refine KeepsOut.next ?_
    | with_reducible refine KeepsOut.ite ?_ ?_
    | with_reducible apply State.dmaCtrl_keeps
    | dsimp only
    | split
    | with_reducible refine Keeps.ite ?_ ?_
    | with_reducible refine Keeps.foldl ?_ ?_
    | with_reducible refine Keeps.foldl_fst ?_ ?_
    | intro _
    | split
    | dsimp only
    | rfl
    | refine Keeps.upd ?_
    | simp only [updAt_length, List.length_map]

theorem execDmaAbort_keeps {r s : State} (h : Keeps r s) (w : Writer) (ch : Fin 32) (data : Word) :
    KeepsOut r (execDmaAbort w ch data s) := by
  unfold execDmaAbort
  repeat' first
    | with_reducible assumption
    | refine KeepsOut.next ?_
    | with_reducible refine KeepsOut.ite ?_ ?_
    | with_reducible apply State.dmaCtrl_keeps
    | dsimp only
    | split
    | with_reducible refine Keeps.ite ?_ ?_
    | with_reducible refine Keeps.foldl ?_ ?_
    | with_reducible refine Keeps.foldl_fst ?_ ?_
    | intro _
    | split
    | dsimp only
    | rfl
    | refine Keeps.upd ?_
    | simp only [updAt_length, List.length_map]

theorem execDmaResume_keeps {r s : State} (h : Keeps r s) (w : Writer) (ch : Fin 32) (data : Word) :
    KeepsOut r (execDmaResume w ch data s) := by
  unfold execDmaResume
  repeat' first
    | with_reducible assumption
    | refine KeepsOut.next ?_
    | with_reducible refine KeepsOut.ite ?_ ?_
    | with_reducible apply State.dmaCtrl_keeps
    | dsimp only
    | split
    | with_reducible refine Keeps.ite ?_ ?_
    | with_reducible refine Keeps.foldl ?_ ?_
    | with_reducible refine Keeps.foldl_fst ?_ ?_
    | intro _
    | split
    | dsimp only
    | rfl
    | refine Keeps.upd ?_
    | simp only [updAt_length, List.length_map]

theorem State.dmaThaw_keeps {r s : State} (h : Keeps r s) (ch : Nat) :
    Keeps r (State.dmaThaw s ch) := by
  unfold State.dmaThaw
  repeat' first
    | with_reducible assumption
    | with_reducible apply State.puts_keeps
    | with_reducible apply State.setChan_keeps
    | with_reducible refine Keeps.ite ?_ ?_
    | with_reducible refine Keeps.foldl ?_ ?_
    | with_reducible refine Keeps.foldl_fst ?_ ?_
    | intro _
    | split
    | dsimp only
    | rfl
    | refine Keeps.upd ?_
    | simp only [updAt_length, List.length_map]

theorem State.fetchEnd_keeps {r s : State} (h : Keeps r s) (ch : Nat) (p : Nat × Bool) (code : Nat) (b : List Byte) :
    Keeps r (State.fetchEnd s ch p code b) := by
  unfold State.fetchEnd
  repeat' first
    | with_reducible assumption
    | with_reducible apply State.setChan_keeps
    | with_reducible apply State.chanStop_keeps
    | with_reducible apply State.chanHalt_keeps
    | with_reducible refine Keeps.ite ?_ ?_
    | with_reducible refine Keeps.foldl ?_ ?_
    | with_reducible refine Keeps.foldl_fst ?_ ?_
    | intro _
    | split
    | dsimp only
    | rfl
    | refine Keeps.upd ?_
    | simp only [updAt_length, List.length_map]

theorem State.metPort_keeps {r s : State} (h : Keeps r s) (ch : Nat) (port : HoldPort) (k : State → State) (hk : ∀ t, Keeps r t → Keeps r (k t)) :
    Keeps r (State.metPort s ch port k) := by
  unfold State.metPort
  repeat' first
    | with_reducible assumption
    | apply hk
    | with_reducible apply State.throughPort_keeps
    | with_reducible refine Keeps.ite ?_ ?_
    | with_reducible refine Keeps.foldl ?_ ?_
    | with_reducible refine Keeps.foldl_fst ?_ ?_
    | intro _
    | split
    | dsimp only
    | rfl
    | refine Keeps.upd ?_
    | simp only [updAt_length, List.length_map]

theorem execDescriptorFetched_keeps {r s : State} (h : Keeps r s) (ch : Fin 32) (reply : BusReply) (data : List Byte) (port : HoldPort) :
    KeepsOut r (execDescriptorFetched ch reply data port s) := by
  unfold execDescriptorFetched
  repeat' first
    | with_reducible assumption
    | refine KeepsOut.next ?_
    | with_reducible refine KeepsOut.ite ?_ ?_
    | with_reducible apply State.setChan_keeps
    | with_reducible apply State.aerReply_keeps
    | with_reducible apply State.npEnd_keeps
    | with_reducible apply State.dmaGo_keeps
    | with_reducible apply State.metPort_keeps
    | with_reducible apply State.readWhole_keeps
    | with_reducible apply State.fetchEnd_keeps
    | dsimp only
    | split
    | with_reducible refine Keeps.ite ?_ ?_
    | with_reducible refine Keeps.foldl ?_ ?_
    | with_reducible refine Keeps.foldl_fst ?_ ?_
    | intro _
    | split
    | dsimp only
    | rfl
    | refine Keeps.upd ?_
    | simp only [updAt_length, List.length_map]

theorem State.readEnd_keeps {r s : State} (h : Keeps r s) (ch : Nat) (i : Nat) (x : DmaXfer) (addr : Nat) (code : Nat) (data : List Byte) :
    Keeps r (State.readEnd s ch i x addr code data) := by
  unfold State.readEnd
  repeat' first
    | with_reducible assumption
    | with_reducible apply State.setChunk_keeps
    | with_reducible apply State.chanHalt_keeps
    | with_reducible refine Keeps.ite ?_ ?_
    | with_reducible refine Keeps.foldl ?_ ?_
    | with_reducible refine Keeps.foldl_fst ?_ ?_
    | intro _
    | split
    | dsimp only
    | rfl
    | refine Keeps.upd ?_
    | simp only [updAt_length, List.length_map]

theorem execDmaReadCompletion_keeps {r s : State} (h : Keeps r s) (ch : Fin 32) (i : Nat) (reply : BusReply) (data : List Byte) (port : HoldPort) :
    KeepsOut r (execDmaReadCompletion ch i reply data port s) := by
  unfold execDmaReadCompletion
  repeat' first
    | with_reducible assumption
    | refine KeepsOut.next ?_
    | with_reducible refine KeepsOut.ite ?_ ?_
    | with_reducible apply State.aerReply_keeps
    | with_reducible apply State.npEnd_keeps
    | with_reducible apply State.setChan_keeps
    | with_reducible apply State.dmaGo_keeps
    | with_reducible apply State.metPort_keeps
    | with_reducible apply State.readWhole_keeps
    | with_reducible apply State.readEnd_keeps
    | dsimp only
    | split
    | with_reducible refine Keeps.ite ?_ ?_
    | with_reducible refine Keeps.foldl ?_ ?_
    | with_reducible refine Keeps.foldl_fst ?_ ?_
    | intro _
    | split
    | dsimp only
    | rfl
    | refine Keeps.upd ?_
    | simp only [updAt_length, List.length_map]

theorem execDmaHoldResponse_keeps {r s : State} (h : Keeps r s) (ch : Fin 32) (i : Nat) (port : HoldPort) :
    KeepsOut r (execDmaHoldResponse ch i port s) := by
  unfold execDmaHoldResponse
  repeat' first
    | with_reducible assumption
    | refine KeepsOut.next ?_
    | with_reducible refine KeepsOut.ite ?_ ?_
    | with_reducible apply State.metPort_keeps
    | with_reducible apply State.setXfer_keeps
    | with_reducible apply State.chanHalt_keeps
    | with_reducible apply State.writeRun_keeps
    | with_reducible apply State.xferEnd_keeps
    | with_reducible apply State.dmaGo_keeps
    | with_reducible apply State.setChunk_keeps
    | with_reducible apply State.advance_keeps
    | dsimp only
    | split
    | with_reducible refine Keeps.ite ?_ ?_
    | with_reducible refine Keeps.foldl ?_ ?_
    | with_reducible refine Keeps.foldl_fst ?_ ?_
    | intro _
    | split
    | dsimp only
    | rfl
    | refine Keeps.upd ?_
    | simp only [updAt_length, List.length_map]

theorem State.flushEnd_keeps {r s : State} (h : Keeps r s) (ch : Nat) (x : DmaXfer) (code : Nat) :
    Keeps r (State.flushEnd s ch x code) := by
  unfold State.flushEnd
  repeat' first
    | with_reducible assumption
    | with_reducible apply State.npEnd_keeps
    | with_reducible apply State.setXfer_keeps
    | with_reducible apply State.chanHalt_keeps
    | with_reducible apply State.raise_keeps
    | with_reducible apply State.writeStatus_keeps
    | with_reducible refine Keeps.ite ?_ ?_
    | with_reducible refine Keeps.foldl ?_ ?_
    | with_reducible refine Keeps.foldl_fst ?_ ?_
    | intro _
    | split
    | dsimp only
    | rfl
    | refine Keeps.upd ?_
    | simp only [updAt_length, List.length_map]

theorem execFlushReadComplete_keeps {r s : State} (h : Keeps r s) (ch : Fin 32) (reply : BusReply) :
    KeepsOut r (execFlushReadComplete ch reply s) := by
  unfold execFlushReadComplete
  repeat' first
    | with_reducible assumption
    | refine KeepsOut.next ?_
    | with_reducible refine KeepsOut.ite ?_ ?_
    | with_reducible apply State.aerReply_keeps
    | with_reducible apply State.flushEnd_keeps
    | with_reducible apply State.dmaGo_keeps
    | dsimp only
    | split
    | with_reducible refine Keeps.ite ?_ ?_
    | with_reducible refine Keeps.foldl ?_ ?_
    | with_reducible refine Keeps.foldl_fst ?_ ?_
    | intro _
    | split
    | dsimp only
    | rfl
    | refine Keeps.upd ?_
    | simp only [updAt_length, List.length_map]

theorem State.ledgerTimeout_keeps {r s : State} (h : Keeps r s) (n : Nat) (y : Nat) (read : Option Bool) :
    Keeps r (State.ledgerTimeout s n y read) := by
  unfold State.ledgerTimeout
  repeat' first
    | with_reducible assumption
    | with_reducible apply State.npEnd_keeps
    | with_reducible apply State.setWear_keeps
    | with_reducible apply State.ledgerError_keeps
    | with_reducible apply State.dropReads_keeps
    | with_reducible refine Keeps.ite ?_ ?_
    | with_reducible refine Keeps.foldl ?_ ?_
    | with_reducible refine Keeps.foldl_fst ?_ ?_
    | intro _
    | split
    | dsimp only
    | rfl
    | refine Keeps.upd ?_
    | simp only [updAt_length, List.length_map]

theorem execCompletionTimeout_keeps {r s : State} (h : Keeps r s) (ch : Fin 32) (i : Nat) (met : Bool) :
    KeepsOut r (execCompletionTimeout ch i met s) := by
  unfold execCompletionTimeout
  repeat' first
    | with_reducible assumption
    | refine KeepsOut.next ?_
    | with_reducible refine KeepsOut.ite ?_ ?_
    | with_reducible apply State.timedOut_keeps
    | with_reducible apply State.npEnd_keeps
    | with_reducible apply State.setChan_keeps
    | with_reducible apply State.dmaGo_keeps
    | with_reducible apply State.fetchEnd_keeps
    | with_reducible apply State.readEnd_keeps
    | with_reducible apply State.flushEnd_keeps
    | with_reducible apply State.ledgerTimeout_keeps
    | dsimp only
    | split
    | with_reducible refine Keeps.ite ?_ ?_
    | with_reducible refine Keeps.foldl ?_ ?_
    | with_reducible refine Keeps.foldl_fst ?_ ?_
    | intro _
    | split
    | dsimp only
    | rfl
    | refine Keeps.upd ?_
    | simp only [updAt_length, List.length_map]

theorem State.fillBucket_keeps {r s : State} (h : Keeps r s) (ch : Nat) :
    Keeps r (State.fillBucket s ch) := by
  unfold State.fillBucket
  repeat' first
    | with_reducible assumption
    | with_reducible apply State.setChan_keeps
    | with_reducible refine Keeps.ite ?_ ?_
    | with_reducible refine Keeps.foldl ?_ ?_
    | with_reducible refine Keeps.foldl_fst ?_ ?_
    | intro _
    | split
    | dsimp only
    | rfl
    | refine Keeps.upd ?_
    | simp only [updAt_length, List.length_map]

theorem execRateWindow_keeps {r s : State} (h : Keeps r s) :
    KeepsOut r (execRateWindow s) := by
  unfold execRateWindow
  repeat' first
    | with_reducible assumption
    | refine KeepsOut.next ?_
    | with_reducible refine KeepsOut.ite ?_ ?_
    | with_reducible apply State.setChan_keeps
    | with_reducible apply State.dmaGo_keeps
    | dsimp only
    | split
    | with_reducible refine Keeps.ite ?_ ?_
    | with_reducible refine Keeps.foldl ?_ ?_
    | with_reducible refine Keeps.foldl_fst ?_ ?_
    | intro _
    | split
    | dsimp only
    | rfl
    | refine Keeps.upd ?_
    | simp only [updAt_length, List.length_map]

end Sys2Proof.Machine
end

