-- ==== Sys2Proof/Laws/Keeps/Eddy.lean ====
section
/-!
SUPPORT. What the operations of Machine/Eddy.lean keep.
-/

set_option Elab.async false
set_option linter.all false

namespace Sys2Proof.Machine

theorem State.setEddy_keeps {r s : State} (h : Keeps r s) (e : Nat) (f : EddyState → EddyState) :
    Keeps r (State.setEddy s e f) := by
  unfold State.setEddy
  repeat' first
    | with_reducible assumption
    | with_reducible refine Keeps.ite ?_ ?_
    | with_reducible refine Keeps.foldl ?_ ?_
    | with_reducible refine Keeps.foldl_fst ?_ ?_
    | intro _
    | split
    | dsimp only
    | rfl
    | refine Keeps.upd ?_
    | simp only [updAt_length, List.length_map]

theorem State.showInternal_keeps {r s : State} (h : Keeps r s) (e : Nat) :
    Keeps r (State.showInternal s e) := by
  unfold State.showInternal
  repeat' first
    | with_reducible assumption
    | with_reducible apply State.put_keeps
    | with_reducible refine Keeps.ite ?_ ?_
    | with_reducible refine Keeps.foldl ?_ ?_
    | with_reducible refine Keeps.foldl_fst ?_ ?_
    | intro _
    | split
    | dsimp only
    | rfl
    | refine Keeps.upd ?_
    | simp only [updAt_length, List.length_map]

theorem State.eddyRead_keeps {r s : State} (h : Keeps r s) (e : Nat) (j : EddyJob) :
    Keeps r (State.eddyRead s e j).2 := by
  unfold State.eddyRead
  repeat' first
    | with_reducible assumption
    | with_reducible apply State.readRun_keeps
    | with_reducible apply readView_keeps
    | with_reducible refine Keeps.ite ?_ ?_
    | with_reducible refine Keeps.foldl ?_ ?_
    | with_reducible refine Keeps.foldl_fst ?_ ?_
    | intro _
    | split
    | dsimp only
    | rfl
    | refine Keeps.upd ?_
    | simp only [updAt_length, List.length_map]

theorem State.eddyFail_keeps {r s : State} (h : Keeps r s) (e : Nat) (code : Nat) :
    Keeps r (State.eddyFail s e code) := by
  unfold State.eddyFail
  repeat' first
    | with_reducible assumption
    | with_reducible apply State.puts_keeps
    | with_reducible apply State.setEddy_keeps
    | with_reducible apply State.showInternal_keeps
    | with_reducible apply State.raise_keeps
    | with_reducible refine Keeps.ite ?_ ?_
    | with_reducible refine Keeps.foldl ?_ ?_
    | with_reducible refine Keeps.foldl_fst ?_ ?_
    | intro _
    | split
    | dsimp only
    | rfl
    | refine Keeps.upd ?_
    | simp only [updAt_length, List.length_map]

theorem State.eddyWrite_keeps {r s : State} (h : Keeps r s) (e : Nat) (j : EddyJob) (out : List Byte) :
    Keeps r (State.eddyWrite s e j out) := by
  unfold State.eddyWrite
  repeat' first
    | with_reducible assumption
    | with_reducible apply State.storeAs_keeps
    | with_reducible apply State.put_keeps
    | with_reducible refine Keeps.ite ?_ ?_
    | with_reducible refine Keeps.foldl ?_ ?_
    | with_reducible refine Keeps.foldl_fst ?_ ?_
    | intro _
    | split
    | dsimp only
    | rfl
    | refine Keeps.upd ?_
    | simp only [updAt_length, List.length_map]

theorem State.eddyPartial_keeps {r s : State} (h : Keeps r s) (e : Nat) (j : EddyJob) (out : List Byte) :
    Keeps r (State.eddyPartial s e j out) := by
  unfold State.eddyPartial
  repeat' first
    | with_reducible assumption
    | with_reducible apply State.bumpFree_keeps
    | with_reducible apply State.eddyWrite_keeps
    | with_reducible refine Keeps.ite ?_ ?_
    | with_reducible refine Keeps.foldl ?_ ?_
    | with_reducible refine Keeps.foldl_fst ?_ ?_
    | intro _
    | split
    | dsimp only
    | rfl
    | refine Keeps.upd ?_
    | simp only [updAt_length, List.length_map]

theorem State.eddyFailUnless_keeps {r s : State} (h : Keeps r s) (e : Nat) (code : Nat) :
    Keeps r (State.eddyFailUnless s e code) := by
  unfold State.eddyFailUnless
  repeat' first
    | with_reducible assumption
    | with_reducible apply State.eddyFail_keeps
    | with_reducible refine Keeps.ite ?_ ?_
    | with_reducible refine Keeps.foldl ?_ ?_
    | with_reducible refine Keeps.foldl_fst ?_ ?_
    | intro _
    | split
    | dsimp only
    | rfl
    | refine Keeps.upd ?_
    | simp only [updAt_length, List.length_map]

theorem State.put_counts (s : State) (f : Field) (v : Nat) : (s.put f v).freeCount = s.freeCount := rfl

theorem State.eddyDone_keeps {r s : State} (h : Keeps r s) (e : Nat) (j : EddyJob) (out : List Byte) (bits : Nat) (ctx : EddyCtx)
    (raw : Option Bool) : Keeps r (s.eddyDone e j out bits ctx raw) := by
  have h1 := State.storeAs_keeps h (eddyMaster e) j.outAddr out
  unfold State.eddyDone
  generalize s.storeAs (eddyMaster e) j.outAddr out = t at h1 ⊢
  refine Keeps.ite h1 (State.raise_keeps (State.showInternal_keeps (State.count_keeps (State.setEddy_keeps ?_ _ _) _ _) _) _)
  split
  · exact Keeps.upd (State.put_keeps (State.puts_keeps h1 _) _ _)
      (hf := Nat.le_trans (Nat.le_of_eq (State.put_counts _ _ _)) (Nat.le_add_right _ _))
  · exact State.puts_keeps h1 _

theorem State.eddyFull_keeps {r s : State} (h : Keeps r s) (e : Nat) (j : EddyJob) (words : Nat) (out : List Byte) (held : List Bool) (inBits : Nat) :
    Keeps r (State.eddyFull s e j words out held inBits) := by
  unfold State.eddyFull
  repeat' first
    | with_reducible assumption
    | with_reducible apply State.storeAs_keeps
    | with_reducible apply State.puts_keeps
    | with_reducible apply State.setEddy_keeps
    | with_reducible apply State.showInternal_keeps
    | with_reducible apply State.raise_keeps
    | with_reducible refine Keeps.ite ?_ ?_
    | with_reducible refine Keeps.foldl ?_ ?_
    | with_reducible refine Keeps.foldl_fst ?_ ?_
    | intro _
    | split
    | dsimp only
    | rfl
    | refine Keeps.upd ?_
    | simp only [updAt_length, List.length_map]

theorem State.eddyBarred_keeps {r s : State} (h : Keeps r s) (e : Nat) (x : Nat) :
    Keeps r (State.eddyBarred s e x) := by
  unfold State.eddyBarred
  repeat' first
    | with_reducible assumption
    | with_reducible apply State.violate_keeps
    | with_reducible refine Keeps.ite ?_ ?_
    | with_reducible refine Keeps.foldl ?_ ?_
    | with_reducible refine Keeps.foldl_fst ?_ ?_
    | intro _
    | split
    | dsimp only
    | rfl
    | refine Keeps.upd ?_
    | simp only [updAt_length, List.length_map]

theorem State.eddyMeets_keeps {r s : State} (h : Keeps r s) (e : Nat) (port : HoldPort) (k : EddyJob → EddyOutcome → State → State) (hk : ∀ x0 x1 t, Keeps r t → Keeps r (k x0 x1 t)) :
    Keeps r (State.eddyMeets s e port k) := by
  unfold State.eddyMeets
  repeat' first
    | with_reducible assumption
    | apply hk
    | with_reducible apply State.throughPort_keeps
    | with_reducible apply State.eddyRead_keeps
    | with_reducible apply State.eddyBarred_keeps
    | with_reducible refine Keeps.ite ?_ ?_
    | with_reducible refine Keeps.foldl ?_ ?_
    | with_reducible refine Keeps.foldl_fst ?_ ?_
    | intro _
    | split
    | dsimp only
    | rfl
    | refine Keeps.upd ?_
    | simp only [updAt_length, List.length_map]

theorem execEddyJobComplete_keeps {r s : State} (h : Keeps r s) (e : Fin 4) (port : HoldPort) :
    KeepsOut r (execEddyJobComplete e port s) := by
  unfold execEddyJobComplete
  repeat' first
    | with_reducible assumption
    | refine KeepsOut.next ?_
    | with_reducible refine KeepsOut.ite ?_ ?_
    | with_reducible apply State.eddyMeets_keeps
    | with_reducible apply State.eddyDone_keeps
    | dsimp only
    | split
    | with_reducible refine Keeps.ite ?_ ?_
    | with_reducible refine Keeps.foldl ?_ ?_
    | with_reducible refine Keeps.foldl_fst ?_ ?_
    | intro _
    | split
    | dsimp only
    | rfl
    | refine Keeps.upd ?_
    | simp only [updAt_length, List.length_map]

theorem execEddyOutputExhausted_keeps {r s : State} (h : Keeps r s) (e : Fin 4) (port : HoldPort) :
    KeepsOut r (execEddyOutputExhausted e port s) := by
  unfold execEddyOutputExhausted
  repeat' first
    | with_reducible assumption
    | refine KeepsOut.next ?_
    | with_reducible refine KeepsOut.ite ?_ ?_
    | with_reducible apply State.eddyMeets_keeps
    | with_reducible apply State.eddyFull_keeps
    | dsimp only
    | split
    | with_reducible refine Keeps.ite ?_ ?_
    | with_reducible refine Keeps.foldl ?_ ?_
    | with_reducible refine Keeps.foldl_fst ?_ ?_
    | intro _
    | split
    | dsimp only
    | rfl
    | refine Keeps.upd ?_
    | simp only [updAt_length, List.length_map]

theorem State.eddyFault_keeps {r s : State} (h : Keeps r s) (e : Nat) (j : EddyJob) (out : List Byte) (a : Nat) :
    Keeps r (State.eddyFault s e j out a) := by
  unfold State.eddyFault
  repeat' first
    | with_reducible assumption
    | with_reducible apply State.eddyPartial_keeps
    | with_reducible apply State.put_keeps
    | with_reducible apply State.eddyFailUnless_keeps
    | with_reducible refine Keeps.ite ?_ ?_
    | with_reducible refine Keeps.foldl ?_ ?_
    | with_reducible refine Keeps.foldl_fst ?_ ?_
    | intro _
    | split
    | dsimp only
    | rfl
    | refine Keeps.upd ?_
    | simp only [updAt_length, List.length_map]

theorem execEddyJobError_keeps {r s : State} (h : Keeps r s) (e : Fin 4) (cut : Option (BitVec 30)) (port : HoldPort) :
    KeepsOut r (execEddyJobError e cut port s) := by
  unfold execEddyJobError
  repeat' first
    | with_reducible assumption
    | refine KeepsOut.next ?_
    | with_reducible refine KeepsOut.ite ?_ ?_
    | with_reducible apply State.eddyMeets_keeps
    | with_reducible apply State.eddyFault_keeps
    | with_reducible apply State.noteUncorr_keeps
    | with_reducible apply State.eddyWrite_keeps
    | with_reducible apply State.eddyFailUnless_keeps
    | dsimp only
    | split
    | with_reducible refine Keeps.ite ?_ ?_
    | with_reducible refine Keeps.foldl ?_ ?_
    | with_reducible refine Keeps.foldl_fst ?_ ?_
    | intro _
    | split
    | dsimp only
    | rfl
    | refine Keeps.upd ?_
    | simp only [updAt_length, List.length_map]

theorem State.eddyRefuse_keeps {r s : State} (h : Keeps r s) (e : Nat) :
    Keeps r (State.eddyRefuse s e) := by
  unfold State.eddyRefuse
  repeat' first
    | with_reducible assumption
    | with_reducible apply State.put_keeps
    | with_reducible refine Keeps.ite ?_ ?_
    | with_reducible refine Keeps.foldl ?_ ?_
    | with_reducible refine Keeps.foldl_fst ?_ ?_
    | intro _
    | split
    | dsimp only
    | rfl
    | refine Keeps.upd ?_
    | simp only [updAt_length, List.length_map]

theorem execEddyStart_keeps {r s : State} (h : Keeps r s) (w : Writer) (e : Fin 4) :
    KeepsOut r (execEddyStart w e s) := by
  unfold execEddyStart
  repeat' first
    | with_reducible assumption
    | refine KeepsOut.next ?_
    | with_reducible refine KeepsOut.ite ?_ ?_
    | with_reducible apply State.writeBy_keeps
    | with_reducible apply State.eddyRefuse_keeps
    | with_reducible apply State.puts_keeps
    | with_reducible apply State.raise_keeps
    | with_reducible apply State.setEddy_keeps
    | with_reducible apply State.showInternal_keeps
    | dsimp only
    | split
    | with_reducible refine Keeps.ite ?_ ?_
    | with_reducible refine Keeps.foldl ?_ ?_
    | with_reducible refine Keeps.foldl_fst ?_ ?_
    | intro _
    | split
    | dsimp only
    | rfl
    | refine Keeps.upd ?_
    | simp only [updAt_length, List.length_map]

theorem execEddyResume_keeps {r s : State} (h : Keeps r s) (w : Writer) (e : Fin 4) :
    KeepsOut r (execEddyResume w e s) := by
  unfold execEddyResume
  repeat' first
    | with_reducible assumption
    | refine KeepsOut.next ?_
    | with_reducible refine KeepsOut.ite ?_ ?_
    | with_reducible apply State.writeBy_keeps
    | with_reducible apply State.puts_keeps
    | with_reducible apply State.setEddy_keeps
    | with_reducible apply State.showInternal_keeps
    | with_reducible apply State.eddyFull_keeps
    | with_reducible apply State.eddyRefuse_keeps
    | dsimp only
    | split
    | with_reducible refine Keeps.ite ?_ ?_
    | with_reducible refine Keeps.foldl ?_ ?_
    | with_reducible refine Keeps.foldl_fst ?_ ?_
    | intro _
    | split
    | dsimp only
    | rfl
    | refine Keeps.upd ?_
    | simp only [updAt_length, List.length_map]

theorem execEddyAbort_keeps {r s : State} (h : Keeps r s) (w : Writer) (e : Fin 4) :
    KeepsOut r (execEddyAbort w e s) := by
  unfold execEddyAbort
  repeat' first
    | with_reducible assumption
    | refine KeepsOut.next ?_
    | with_reducible refine KeepsOut.ite ?_ ?_
    | with_reducible apply State.writeBy_keeps
    | with_reducible apply State.eddyPartial_keeps
    | with_reducible apply State.eddyFail_keeps
    | with_reducible apply State.eddyRefuse_keeps
    | dsimp only
    | split
    | with_reducible refine Keeps.ite ?_ ?_
    | with_reducible refine Keeps.foldl ?_ ?_
    | with_reducible refine Keeps.foldl_fst ?_ ?_
    | intro _
    | split
    | dsimp only
    | rfl
    | refine Keeps.upd ?_
    | simp only [updAt_length, List.length_map]

theorem State.eddyCtxCmd_keeps {r s : State} (h : Keeps r s) (e : Nat) (op : Nat) :
    Keeps r (State.eddyCtxCmd s e op) := by
  unfold State.eddyCtxCmd
  repeat' first
    | with_reducible assumption
    | with_reducible apply State.eddyRefuse_keeps
    | with_reducible apply State.put_keeps
    | with_reducible apply State.setEddy_keeps
    | with_reducible apply State.showInternal_keeps
    | with_reducible refine Keeps.ite ?_ ?_
    | with_reducible refine Keeps.foldl ?_ ?_
    | with_reducible refine Keeps.foldl_fst ?_ ?_
    | intro _
    | split
    | dsimp only
    | rfl
    | refine Keeps.upd ?_
    | simp only [updAt_length, List.length_map]

theorem execCtxSave_keeps {r s : State} (h : Keeps r s) (w : Writer) (e : Fin 4) :
    KeepsOut r (execCtxSave w e s) := by
  unfold execCtxSave
  repeat' first
    | with_reducible assumption
    | refine KeepsOut.next ?_
    | with_reducible refine KeepsOut.ite ?_ ?_
    | with_reducible apply State.writeBy_keeps
    | with_reducible apply State.eddyCtxCmd_keeps
    | dsimp only
    | split
    | with_reducible refine Keeps.ite ?_ ?_
    | with_reducible refine Keeps.foldl ?_ ?_
    | with_reducible refine Keeps.foldl_fst ?_ ?_
    | intro _
    | split
    | dsimp only
    | rfl
    | refine Keeps.upd ?_
    | simp only [updAt_length, List.length_map]

theorem execCtxRestore_keeps {r s : State} (h : Keeps r s) (w : Writer) (e : Fin 4) :
    KeepsOut r (execCtxRestore w e s) := by
  unfold execCtxRestore
  repeat' first
    | with_reducible assumption
    | refine KeepsOut.next ?_
    | with_reducible refine KeepsOut.ite ?_ ?_
    | with_reducible apply State.writeBy_keeps
    | with_reducible apply State.eddyCtxCmd_keeps
    | dsimp only
    | split
    | with_reducible refine Keeps.ite ?_ ?_
    | with_reducible refine Keeps.foldl ?_ ?_
    | with_reducible refine Keeps.foldl_fst ?_ ?_
    | intro _
    | split
    | dsimp only
    | rfl
    | refine Keeps.upd ?_
    | simp only [updAt_length, List.length_map]

theorem State.endCtx_keeps {r s : State} (h : Keeps r s) (e : Nat) (st : Nat) :
    Keeps r (State.endCtx s e st) := by
  unfold State.endCtx
  repeat' first
    | with_reducible assumption
    | with_reducible apply State.put_keeps
    | with_reducible apply State.setEddy_keeps
    | with_reducible apply State.showInternal_keeps
    | with_reducible apply State.raise_keeps
    | with_reducible refine Keeps.ite ?_ ?_
    | with_reducible refine Keeps.foldl ?_ ?_
    | with_reducible refine Keeps.foldl_fst ?_ ?_
    | intro _
    | split
    | dsimp only
    | rfl
    | refine Keeps.upd ?_
    | simp only [updAt_length, List.length_map]

theorem State.failCtx_keeps {r s : State} (h : Keeps r s) (e : Nat) (code : Nat) :
    Keeps r (State.failCtx s e code) := by
  unfold State.failCtx
  repeat' first
    | with_reducible assumption
    | with_reducible apply State.eddyFail_keeps
    | with_reducible apply State.raise_keeps
    | with_reducible refine Keeps.ite ?_ ?_
    | with_reducible refine Keeps.foldl ?_ ?_
    | with_reducible refine Keeps.foldl_fst ?_ ?_
    | intro _
    | split
    | dsimp only
    | rfl
    | refine Keeps.upd ?_
    | simp only [updAt_length, List.length_map]

theorem State.saveCtx_keeps {r s : State} (h : Keeps r s) (e : Nat) (st : Nat) :
    Keeps r (State.saveCtx s e st) := by
  unfold State.saveCtx
  repeat' first
    | with_reducible assumption
    | with_reducible apply State.storeAs_keeps
    | with_reducible apply State.endCtx_keeps
    | with_reducible refine Keeps.ite ?_ ?_
    | with_reducible refine Keeps.foldl ?_ ?_
    | with_reducible refine Keeps.foldl_fst ?_ ?_
    | intro _
    | split
    | dsimp only
    | rfl
    | refine Keeps.upd ?_
    | simp only [updAt_length, List.length_map]

theorem State.installCtx_keeps {r s : State} (h : Keeps r s) (e st : Nat) (bytes : List Byte) : Keeps r (s.installCtx e st bytes) := by
  unfold State.installCtx
  generalize ctxOf bytes = o
  split
  · exact State.failCtx_keeps h _ _
  · exact State.endCtx_keeps (Keeps.ite (State.setEddy_keeps (State.puts_keeps (State.put_keeps h _ _) _) _ _)
      (State.setEddy_keeps (State.put_keeps h _ _) _ _)) _ _

theorem State.restoreCtx_keeps {r s : State} (h : Keeps r s) (e st : Nat) : Keeps r (s.restoreCtx e st) := by
  unfold State.restoreCtx
  have k := fun n => State.readWhole_keeps h (eddyMaster e) (32 * s.get (F.eddyCtxAddrAddr e)) n
  generalize 98304 = size
  dsimp only
  split
  · exact State.eddyBarred_keeps h _ _
  have k := k size
  generalize s.readWhole (eddyMaster e) (32 * s.get (F.eddyCtxAddrAddr e)) size = q at k ⊢
  obtain ⟨a, b⟩ := q
  cases a with
  | error w => exact State.failCtx_keeps (State.put_keeps k _ _) _ _
  | ok l => exact State.installCtx_keeps k _ _ _

theorem execEddyCtxComplete_keeps {r s : State} (h : Keeps r s) (e : Fin 4) (cut : Option (BitVec 30)) (port : HoldPort) :
    KeepsOut r (execEddyCtxComplete e cut port s) := by
  unfold execEddyCtxComplete
  repeat' first
    | with_reducible assumption
    | refine KeepsOut.next ?_
    | with_reducible refine KeepsOut.ite ?_ ?_
    | with_reducible apply State.put_keeps
    | with_reducible apply State.failCtx_keeps
    | with_reducible apply State.throughPort_keeps
    | with_reducible apply State.saveCtx_keeps
    | with_reducible apply State.restoreCtx_keeps
    | dsimp only
    | split
    | with_reducible refine Keeps.ite ?_ ?_
    | with_reducible refine Keeps.foldl ?_ ?_
    | with_reducible refine Keeps.foldl_fst ?_ ?_
    | intro _
    | split
    | dsimp only
    | rfl
    | refine Keeps.upd ?_
    | simp only [updAt_length, List.length_map]

theorem State.eddyThaw_keeps {r s : State} (h : Keeps r s) (e : Nat) :
    Keeps r (State.eddyThaw s e) := by
  unfold State.eddyThaw
  repeat' first
    | with_reducible assumption
    | with_reducible apply State.eddyFail_keeps
    | with_reducible apply State.showInternal_keeps
    | with_reducible refine Keeps.ite ?_ ?_
    | with_reducible refine Keeps.foldl ?_ ?_
    | with_reducible refine Keeps.foldl_fst ?_ ?_
    | intro _
    | split
    | dsimp only
    | rfl
    | refine Keeps.upd ?_
    | simp only [updAt_length, List.length_map]

theorem State.placeRecord_keeps {r s0 : State} (h : Keeps r s0) (n : Nat) (base : Nat) (j : EddyInternal) :
    Keeps r (State.placeRecord s0 n base j) := by
  unfold State.placeRecord
  repeat' first
    | with_reducible assumption
    | with_reducible apply State.readAs_keeps
    | with_reducible apply State.count_keeps
    | with_reducible apply State.storeAs_keeps
    | with_reducible apply State.setWear_keeps
    | with_reducible refine Keeps.ite ?_ ?_
    | with_reducible refine Keeps.foldl ?_ ?_
    | with_reducible refine Keeps.foldl_fst ?_ ?_
    | intro _
    | split
    | dsimp only
    | rfl
    | refine Keeps.upd ?_
    | simp only [updAt_length, List.length_map]

theorem State.endPass_keeps {r s : State} (h : Keeps r s) (n : Nat) :
    Keeps r (State.endPass s n) := by
  unfold State.endPass
  repeat' first
    | with_reducible assumption
    | with_reducible apply State.put_keeps
    | with_reducible apply State.setWear_keeps
    | with_reducible apply State.raise_keeps
    | with_reducible refine Keeps.ite ?_ ?_
    | with_reducible refine Keeps.foldl ?_ ?_
    | with_reducible refine Keeps.foldl_fst ?_ ?_
    | intro _
    | split
    | dsimp only
    | rfl
    | refine Keeps.upd ?_
    | simp only [updAt_length, List.length_map]

theorem execEddyInternalJobDone_keeps {r s : State} (h : Keeps r s) (e : Fin 4) (port : HoldPort) :
    KeepsOut r (execEddyInternalJobDone e port s) := by
  unfold execEddyInternalJobDone
  repeat' first
    | with_reducible assumption
    | refine KeepsOut.next ?_
    | with_reducible refine KeepsOut.ite ?_ ?_
    | with_reducible apply State.setEddy_keeps
    | with_reducible apply State.count_keeps
    | with_reducible apply State.showInternal_keeps
    | with_reducible apply State.throughPort_keeps
    | with_reducible apply State.placeRecord_keeps
    | with_reducible apply State.endPass_keeps
    | dsimp only
    | split
    | with_reducible refine Keeps.ite ?_ ?_
    | with_reducible refine Keeps.foldl ?_ ?_
    | with_reducible refine Keeps.foldl_fst ?_ ?_
    | intro _
    | split
    | dsimp only
    | rfl
    | refine Keeps.upd ?_
    | simp only [updAt_length, List.length_map]

end Sys2Proof.Machine
end

