-- ==== Sys2Proof/Laws/Keeps/Panel.lean ====
section
/-!
SUPPORT. What the operations of Machine/Panel.lean keep.
-/

set_option Elab.async false
set_option linter.all false

namespace Sys2Proof.Machine

theorem execTrainingSequenceEnd_keeps {r s : State} (h : Keeps r s) (lane : Fin 96) :
    KeepsOut r (execTrainingSequenceEnd lane s) := by
  unfold execTrainingSequenceEnd
  repeat' first
    | with_reducible assumption
    | refine KeepsOut.next ?_
    | with_reducible refine KeepsOut.ite ?_ ?_
    | with_reducible apply State.endTraining_keeps
    | dsimp only
    | split
    | with_reducible refine Keeps.ite ?_ ?_
    | with_reducible refine Keeps.foldl ?_ ?_
    | with_reducible refine Keeps.foldl_fst ?_ ?_
    | intro _
    | split
    | dsimp only
    | rfl
    | refine Keeps.upd ?_
    | simp only [updAt_length, List.length_map]

theorem State.listenEnds_keeps {r s : State} (h : Keeps r s) (n : Nat) :
    Keeps r (State.listenEnds s n) := by
  unfold State.listenEnds
  repeat' first
    | with_reducible assumption
    | with_reducible apply State.setLane_keeps
    | with_reducible apply State.put_keeps
    | with_reducible apply State.raise_keeps
    | with_reducible refine Keeps.ite ?_ ?_
    | with_reducible refine Keeps.foldl ?_ ?_
    | with_reducible refine Keeps.foldl_fst ?_ ?_
    | intro _
    | split
    | dsimp only
    | rfl
    | refine Keeps.upd ?_
    | simp only [updAt_length, List.length_map]

theorem execListenTimeout_keeps {r s : State} (h : Keeps r s) (lane : Fin 96) (met : Bool) :
    KeepsOut r (execListenTimeout lane met s) := by
  unfold execListenTimeout
  repeat' first
    | with_reducible assumption
    | refine KeepsOut.next ?_
    | with_reducible refine KeepsOut.ite ?_ ?_
    | with_reducible apply State.listenEnds_keeps
    | dsimp only
    | split
    | with_reducible refine Keeps.ite ?_ ?_
    | with_reducible refine Keeps.foldl ?_ ?_
    | with_reducible refine Keeps.foldl_fst ?_ ?_
    | intro _
    | split
    | dsimp only
    | rfl
    | refine Keeps.upd ?_
    | simp only [updAt_length, List.length_map]

theorem execRetryStart_keeps {r s : State} (h : Keeps r s) (lane : Fin 96) :
    KeepsOut r (execRetryStart lane s) := by
  unfold execRetryStart
  repeat' first
    | with_reducible assumption
    | refine KeepsOut.next ?_
    | with_reducible refine KeepsOut.ite ?_ ?_
    | with_reducible apply State.setLane_keeps
    | with_reducible apply State.count_keeps
    | with_reducible apply State.startTraining_keeps
    | dsimp only
    | split
    | with_reducible refine Keeps.ite ?_ ?_
    | with_reducible refine Keeps.foldl ?_ ?_
    | with_reducible refine Keeps.foldl_fst ?_ ?_
    | intro _
    | split
    | dsimp only
    | rfl
    | refine Keeps.upd ?_
    | simp only [updAt_length, List.length_map]

theorem State.breakTrial_keeps {r s : State} (h : Keeps r s) (n : Nat) :
    Keeps r (State.breakTrial s n) := by
  unfold State.breakTrial
  repeat' first
    | with_reducible assumption
    | with_reducible apply State.endCal_keeps
    | with_reducible apply State.raise_keeps
    | with_reducible refine Keeps.ite ?_ ?_
    | with_reducible refine Keeps.foldl ?_ ?_
    | with_reducible refine Keeps.foldl_fst ?_ ?_
    | intro _
    | split
    | dsimp only
    | rfl
    | refine Keeps.upd ?_
    | simp only [updAt_length, List.length_map]

theorem execRetrain_keeps {r s : State} (h : Keeps r s) (w : Writer) (lane : Fin 96) :
    KeepsOut r (execRetrain w lane s) := by
  unfold execRetrain
  repeat' first
    | with_reducible assumption
    | refine KeepsOut.next ?_
    | with_reducible refine KeepsOut.ite ?_ ?_
    | with_reducible apply State.writeBy_keeps
    | with_reducible apply State.breakTrial_keeps
    | with_reducible apply State.dropFrames_keeps
    | with_reducible apply State.beginService_keeps
    | dsimp only
    | split
    | with_reducible refine Keeps.ite ?_ ?_
    | with_reducible refine Keeps.foldl ?_ ?_
    | with_reducible refine Keeps.foldl_fst ?_ ?_
    | intro _
    | split
    | dsimp only
    | rfl
    | refine Keeps.upd ?_
    | simp only [updAt_length, List.length_map]

theorem execTxOff_keeps {r s : State} (h : Keeps r s) (w : Writer) (lane : Fin 96) (off : Bool) :
    KeepsOut r (execTxOff w lane off s) := by
  unfold execTxOff
  repeat' first
    | with_reducible assumption
    | refine KeepsOut.next ?_
    | with_reducible refine KeepsOut.ite ?_ ?_
    | with_reducible apply State.writeBy_keeps
    | with_reducible apply State.put_keeps
    | with_reducible apply State.laneOff_keeps
    | with_reducible apply State.beginService_keeps
    | dsimp only
    | split
    | with_reducible refine Keeps.ite ?_ ?_
    | with_reducible refine Keeps.foldl ?_ ?_
    | with_reducible refine Keeps.foldl_fst ?_ ?_
    | intro _
    | split
    | dsimp only
    | rfl
    | refine Keeps.upd ?_
    | simp only [updAt_length, List.length_map]

theorem execSidebandPoll_keeps {r s : State} (h : Keeps r s) (lane : Fin 96) (low : BitVec 4) :
    KeepsOut r (execSidebandPoll lane low s) := by
  unfold execSidebandPoll
  repeat' first
    | with_reducible assumption
    | refine KeepsOut.next ?_
    | with_reducible refine KeepsOut.ite ?_ ?_
    | with_reducible apply State.sbSend_keeps
    | dsimp only
    | split
    | with_reducible refine Keeps.ite ?_ ?_
    | with_reducible refine Keeps.foldl ?_ ?_
    | with_reducible refine Keeps.foldl_fst ?_ ?_
    | intro _
    | split
    | dsimp only
    | rfl
    | refine Keeps.upd ?_
    | simp only [updAt_length, List.length_map]

theorem State.statusCounts_keeps {r s : State} (h : Keeps r s) (n : Nat) (p : List Byte) :
    Keeps r (State.statusCounts s n p) := by
  unfold State.statusCounts
  repeat' first
    | with_reducible assumption
    | with_reducible apply State.puts_keeps
    | with_reducible apply State.count_keeps
    | with_reducible apply State.laneWorn_keeps
    | with_reducible refine Keeps.ite ?_ ?_
    | with_reducible refine Keeps.foldl ?_ ?_
    | with_reducible refine Keeps.foldl_fst ?_ ?_
    | intro _
    | split
    | dsimp only
    | rfl
    | refine Keeps.upd ?_
    | simp only [updAt_length, List.length_map]

theorem State.laneComesUp_keeps {r s : State} (h : Keeps r s) (n : Nat) :
    Keeps r (State.laneComesUp s n) := by
  unfold State.laneComesUp
  repeat' first
    | with_reducible assumption
    | with_reducible apply State.setLane_keeps
    | with_reducible apply State.puts_keeps
    | with_reducible apply State.raise_keeps
    | with_reducible apply State.endSwap_keeps
    | with_reducible refine Keeps.ite ?_ ?_
    | with_reducible refine Keeps.foldl ?_ ?_
    | with_reducible refine Keeps.foldl_fst ?_ ?_
    | intro _
    | split
    | dsimp only
    | rfl
    | refine Keeps.upd ?_
    | simp only [updAt_length, List.length_map]

theorem State.takeStatus_keeps {r s : State} (h : Keeps r s) (n : Nat) (p : List Byte) :
    Keeps r (State.takeStatus s n p) := by
  unfold State.takeStatus
  repeat' first
    | with_reducible assumption
    | with_reducible apply State.statusCounts_keeps
    | with_reducible apply State.setLane_keeps
    | with_reducible apply State.laneComesUp_keeps
    | with_reducible apply State.loseLane_keeps
    | with_reducible apply State.setCal_keeps
    | with_reducible refine Keeps.ite ?_ ?_
    | with_reducible refine Keeps.foldl ?_ ?_
    | with_reducible refine Keeps.foldl_fst ?_ ?_
    | intro _
    | split
    | dsimp only
    | rfl
    | refine Keeps.upd ?_
    | simp only [updAt_length, List.length_map]

theorem State.afterStatus_keeps {r s : State} (h : Keeps r s) (f : SbFrame) :
    Keeps r (State.afterStatus s f) := by
  unfold State.afterStatus
  repeat' first
    | with_reducible assumption
    | with_reducible apply State.openWindow_keeps
    | with_reducible apply State.setSideband_keeps
    | with_reducible refine Keeps.ite ?_ ?_
    | with_reducible refine Keeps.foldl ?_ ?_
    | with_reducible refine Keeps.foldl_fst ?_ ?_
    | intro _
    | split
    | dsimp only
    | rfl
    | refine Keeps.upd ?_
    | simp only [updAt_length, List.length_map]

theorem execSidebandReply_keeps {r s : State} (h : Keeps r s) (group : Fin 4) (frame : List Byte) (low : BitVec 4) :
    KeepsOut r (execSidebandReply group frame low s) := by
  unfold execSidebandReply
  repeat' first
    | with_reducible assumption
    | refine KeepsOut.next ?_
    | with_reducible refine KeepsOut.ite ?_ ?_
    | with_reducible apply State.setSideband_keeps
    | with_reducible apply State.count_keeps
    | with_reducible apply State.noteNoReply_keeps
    | with_reducible apply State.setLane_keeps
    | with_reducible apply State.setCal_keeps
    | with_reducible apply State.takeStatus_keeps
    | with_reducible apply State.afterStatus_keeps
    | with_reducible apply State.pumpSideband_keeps
    | dsimp only
    | split
    | with_reducible refine Keeps.ite ?_ ?_
    | with_reducible refine Keeps.foldl ?_ ?_
    | with_reducible refine Keeps.foldl_fst ?_ ?_
    | intro _
    | split
    | dsimp only
    | rfl
    | refine Keeps.upd ?_
    | simp only [updAt_length, List.length_map]

theorem execReplyTimeout_keeps {r s : State} (h : Keeps r s) (group : Fin 4) (met : Bool) (low : BitVec 4) :
    KeepsOut r (execReplyTimeout group met low s) := by
  unfold execReplyTimeout
  repeat' first
    | with_reducible assumption
    | refine KeepsOut.next ?_
    | with_reducible refine KeepsOut.ite ?_ ?_
    | with_reducible apply State.setSideband_keeps
    | with_reducible apply State.noteNoReply_keeps
    | with_reducible apply State.pumpSideband_keeps
    | dsimp only
    | split
    | with_reducible refine Keeps.ite ?_ ?_
    | with_reducible refine Keeps.foldl ?_ ?_
    | with_reducible refine Keeps.foldl_fst ?_ ?_
    | intro _
    | split
    | dsimp only
    | rfl
    | refine Keeps.upd ?_
    | simp only [updAt_length, List.length_map]

theorem execSidebandRepeat_keeps {r s : State} (h : Keeps r s) (group : Fin 4) (low : BitVec 4) :
    KeepsOut r (execSidebandRepeat group low s) := by
  unfold execSidebandRepeat
  repeat' first
    | with_reducible assumption
    | refine KeepsOut.next ?_
    | with_reducible refine KeepsOut.ite ?_ ?_
    | with_reducible apply State.setSideband_keeps
    | with_reducible apply State.noteSbCollision_keeps
    | with_reducible apply State.noteNoReply_keeps
    | with_reducible apply State.pumpSideband_keeps
    | with_reducible apply State.emit_keeps
    | dsimp only
    | split
    | with_reducible refine Keeps.ite ?_ ?_
    | with_reducible refine Keeps.foldl ?_ ?_
    | with_reducible refine Keeps.foldl_fst ?_ ?_
    | intro _
    | split
    | dsimp only
    | rfl
    | refine Keeps.upd ?_
    | simp only [updAt_length, List.length_map]

theorem execCalRequest_keeps {r s : State} (h : Keeps r s) (w : Writer) (lane : Fin 96) :
    KeepsOut r (execCalRequest w lane s) := by
  unfold execCalRequest
  repeat' first
    | with_reducible assumption
    | refine KeepsOut.next ?_
    | with_reducible refine KeepsOut.ite ?_ ?_
    | with_reducible apply State.writeBy_keeps
    | with_reducible apply State.put_keeps
    | with_reducible apply State.setLane_keeps
    | dsimp only
    | split
    | with_reducible refine Keeps.ite ?_ ?_
    | with_reducible refine Keeps.foldl ?_ ?_
    | with_reducible refine Keeps.foldl_fst ?_ ?_
    | intro _
    | split
    | dsimp only
    | rfl
    | refine Keeps.upd ?_
    | simp only [updAt_length, List.length_map]

theorem execCalMeasure_keeps {r s : State} (h : Keeps r s) (w : Writer) (lane : Fin 96) (low : BitVec 4) :
    KeepsOut r (execCalMeasure w lane low s) := by
  unfold execCalMeasure
  repeat' first
    | with_reducible assumption
    | refine KeepsOut.next ?_
    | with_reducible refine KeepsOut.ite ?_ ?_
    | with_reducible apply State.writeBy_keeps
    | with_reducible apply State.setLane_keeps
    | with_reducible apply State.beginTrial_keeps
    | dsimp only
    | split
    | with_reducible refine Keeps.ite ?_ ?_
    | with_reducible refine Keeps.foldl ?_ ?_
    | with_reducible refine Keeps.foldl_fst ?_ ?_
    | intro _
    | split
    | dsimp only
    | rfl
    | refine Keeps.upd ?_
    | simp only [updAt_length, List.length_map]

theorem execCalTrialWindowEnd_keeps {r s : State} (h : Keeps r s) (lane : Fin 96) (low : BitVec 4) :
    KeepsOut r (execCalTrialWindowEnd lane low s) := by
  unfold execCalTrialWindowEnd
  repeat' first
    | with_reducible assumption
    | refine KeepsOut.next ?_
    | with_reducible refine KeepsOut.ite ?_ ?_
    | with_reducible apply State.laneTo_keeps
    | with_reducible apply State.sendBlocks_keeps
    | with_reducible apply State.setCal_keeps
    | with_reducible apply State.setTaps_keeps
    | with_reducible apply State.sbSend_keeps
    | dsimp only
    | split
    | with_reducible refine Keeps.ite ?_ ?_
    | with_reducible refine Keeps.foldl ?_ ?_
    | with_reducible refine Keeps.foldl_fst ?_ ?_
    | intro _
    | split
    | dsimp only
    | rfl
    | refine Keeps.upd ?_
    | simp only [updAt_length, List.length_map]

theorem execCalHistogramReceived_keeps {r s : State} (h : Keeps r s) (lane : Fin 96) (low : BitVec 4) :
    KeepsOut r (execCalHistogramReceived lane low s) := by
  unfold execCalHistogramReceived
  repeat' first
    | with_reducible assumption
    | refine KeepsOut.next ?_
    | with_reducible refine KeepsOut.ite ?_ ?_
    | with_reducible apply State.endCal_keeps
    | with_reducible apply State.raise_keeps
    | with_reducible apply State.judgeHist_keeps
    | dsimp only
    | split
    | with_reducible refine Keeps.ite ?_ ?_
    | with_reducible refine Keeps.foldl ?_ ?_
    | with_reducible refine Keeps.foldl_fst ?_ ?_
    | intro _
    | split
    | dsimp only
    | rfl
    | refine Keeps.upd ?_
    | simp only [updAt_length, List.length_map]

theorem State.laneSpan_keeps {r s : State} (h : Keeps r s) (n : Nat) (count : Nat) (low : BitVec 4) :
    Keeps r (State.laneSpan s n count low) := by
  unfold State.laneSpan
  repeat' first
    | with_reducible assumption
    | with_reducible apply State.put_keeps
    | with_reducible apply State.raise_keeps
    | with_reducible apply State.setCal_keeps
    | with_reducible apply State.dropFrames_keeps
    | with_reducible apply State.setLane_keeps
    | with_reducible apply State.setTaps_keeps
    | with_reducible apply State.nextTrial_keeps
    | with_reducible refine Keeps.ite ?_ ?_
    | with_reducible refine Keeps.foldl ?_ ?_
    | with_reducible refine Keeps.foldl_fst ?_ ?_
    | intro _
    | split
    | dsimp only
    | rfl
    | refine Keeps.upd ?_
    | simp only [updAt_length, List.length_map]

theorem execFfeForce_keeps {r s : State} (h : Keeps r s) (w : Writer) (lane : Fin 96) (force : Bool) (cm1 : BitVec 8) (c1 : BitVec 8) (c2 : BitVec 8) :
    KeepsOut r (execFfeForce w lane force cm1 c1 c2 s) := by
  unfold execFfeForce
  repeat' first
    | with_reducible assumption
    | refine KeepsOut.next ?_
    | with_reducible refine KeepsOut.ite ?_ ?_
    | with_reducible apply State.writeBy_keeps
    | with_reducible apply State.puts_keeps
    | with_reducible apply State.put_keeps
    | with_reducible apply State.setLane_keeps
    | with_reducible apply State.raise_keeps
    | with_reducible apply State.abortCal_keeps
    | with_reducible apply State.setTaps_keeps
    | dsimp only
    | split
    | with_reducible refine Keeps.ite ?_ ?_
    | with_reducible refine Keeps.foldl ?_ ?_
    | with_reducible refine Keeps.foldl_fst ?_ ?_
    | intro _
    | split
    | dsimp only
    | rfl
    | refine Keeps.upd ?_
    | simp only [updAt_length, List.length_map]

end Sys2Proof.Machine
end

