-- ==== Sys2Proof/Laws/Keeps/Relief.lean ====
section
/-!
SUPPORT. What the operations of Machine/Relief.lean keep.
-/

set_option Elab.async false
set_option linter.all false

namespace Sys2Proof.Machine

theorem State.chainWorn_keeps {r s : State} (h : Keeps r s) (p : Nat) (k : Nat) (cause : Nat) :
    Keeps r (State.chainWorn s p k cause) := by
  unfold State.chainWorn
  repeat' first
    | with_reducible assumption
    | with_reducible apply State.raise_keeps
    | with_reducible apply State.askChainSwap_keeps
    | with_reducible refine Keeps.ite ?_ ?_
    | with_reducible refine Keeps.foldl ?_ ?_
    | with_reducible refine Keeps.foldl_fst ?_ ?_
    | intro _
    | split
    | dsimp only
    | rfl
    | refine Keeps.upd ?_
    | simp only [updAt_length, List.length_map]

theorem execChainSliceSwap_keeps {r s : State} (h : Keeps r s) (p : Fin 3) (k : Fin 4) :
    KeepsOut r (execChainSliceSwap p k s) := by
  unfold execChainSliceSwap
  repeat' first
    | with_reducible assumption
    | refine KeepsOut.next ?_
    | with_reducible refine KeepsOut.ite ?_ ?_
    | with_reducible apply State.put_keeps
    | with_reducible apply State.endSwap_keeps
    | dsimp only
    | split
    | with_reducible refine Keeps.ite ?_ ?_
    | with_reducible refine Keeps.foldl ?_ ?_
    | with_reducible refine Keeps.foldl_fst ?_ ?_
    | intro _
    | split
    | dsimp only
    | rfl
    | refine Keeps.upd ?_
    | simp only [updAt_length, List.length_map]

theorem State.showAdapting_keeps {r s : State} (h : Keeps r s) (p : Nat) (k : Nat) :
    Keeps r (State.showAdapting s p k) := by
  unfold State.showAdapting
  repeat' first
    | with_reducible assumption
    | with_reducible apply State.put_keeps
    | with_reducible refine Keeps.ite ?_ ?_
    | with_reducible refine Keeps.foldl ?_ ?_
    | with_reducible refine Keeps.foldl_fst ?_ ?_
    | intro _
    | split
    | dsimp only
    | rfl
    | refine Keeps.upd ?_
    | simp only [updAt_length, List.length_map]

theorem State.sliceCode_keeps {r s : State} (h : Keeps r s) (p : Nat) (k : Nat) (code : Nat) :
    Keeps r (State.sliceCode s p k code) := by
  unfold State.sliceCode
  repeat' first
    | with_reducible assumption
    | with_reducible apply State.put_keeps
    | with_reducible apply State.showAdapting_keeps
    | with_reducible apply State.raiseIf_keeps
    | with_reducible refine Keeps.ite ?_ ?_
    | with_reducible refine Keeps.foldl ?_ ?_
    | with_reducible refine Keeps.foldl_fst ?_ ?_
    | intro _
    | split
    | dsimp only
    | rfl
    | refine Keeps.upd ?_
    | simp only [updAt_length, List.length_map]

theorem State.sliceErrors_keeps {r s : State} (h : Keeps r s) (p : Nat) (k : Nat) (errors : Nat) :
    Keeps r (State.sliceErrors s p k errors) := by
  unfold State.sliceErrors
  repeat' first
    | with_reducible assumption
    | with_reducible apply State.count_keeps
    | with_reducible apply State.chainWorn_keeps
    | with_reducible refine Keeps.ite ?_ ?_
    | with_reducible refine Keeps.foldl ?_ ?_
    | with_reducible refine Keeps.foldl_fst ?_ ?_
    | intro _
    | split
    | dsimp only
    | rfl
    | refine Keeps.upd ?_
    | simp only [updAt_length, List.length_map]

theorem State.sliceSpan_keeps {r s : State} (h : Keeps r s) (p : Nat) (k : Nat) (count : Nat) (errors : Nat) :
    Keeps r (State.sliceSpan s p k count errors) := by
  unfold State.sliceSpan
  repeat' first
    | with_reducible assumption
    | with_reducible apply State.sliceCode_keeps
    | with_reducible apply State.put_keeps
    | with_reducible apply State.showAdapting_keeps
    | with_reducible apply State.raiseIf_keeps
    | with_reducible apply State.sliceErrors_keeps
    | with_reducible refine Keeps.ite ?_ ?_
    | with_reducible refine Keeps.foldl ?_ ?_
    | with_reducible refine Keeps.foldl_fst ?_ ?_
    | intro _
    | split
    | dsimp only
    | rfl
    | refine Keeps.upd ?_
    | simp only [updAt_length, List.length_map]

theorem State.judgeSpan_keeps {r s : State} (h : Keeps r s) (n : Nat) (low : BitVec 4) :
    Keeps r (State.judgeSpan s n low) := by
  unfold State.judgeSpan
  repeat' first
    | with_reducible assumption
    | with_reducible apply State.laneTo_keeps
    | with_reducible apply State.setLane_keeps
    | with_reducible apply State.laneSpan_keeps
    | with_reducible refine Keeps.ite ?_ ?_
    | with_reducible refine Keeps.foldl ?_ ?_
    | with_reducible refine Keeps.foldl_fst ?_ ?_
    | intro _
    | split
    | dsimp only
    | rfl
    | refine Keeps.upd ?_
    | simp only [updAt_length, List.length_map]

theorem execDensitySpanEnd_keeps {r s : State} (h : Keeps r s) (t : SpanOf) (low : BitVec 4) :
    KeepsOut r (execDensitySpanEnd t low s) := by
  unfold execDensitySpanEnd
  repeat' first
    | with_reducible assumption
    | refine KeepsOut.next ?_
    | with_reducible refine KeepsOut.ite ?_ ?_
    | with_reducible apply State.judgeSpan_keeps
    | with_reducible apply State.sliceSpan_keeps
    | dsimp only
    | split
    | with_reducible refine Keeps.ite ?_ ?_
    | with_reducible refine Keeps.foldl ?_ ?_
    | with_reducible refine Keeps.foldl_fst ?_ ?_
    | intro _
    | split
    | dsimp only
    | rfl
    | refine Keeps.upd ?_
    | simp only [updAt_length, List.length_map]

theorem State.setDfe_keeps {r s : State} (h : Keeps r s) (p : Nat) (k : Nat) (f : DfeState → DfeState) :
    Keeps r (State.setDfe s p k f) := by
  unfold State.setDfe
  repeat' first
    | with_reducible assumption
    | with_reducible refine Keeps.ite ?_ ?_
    | with_reducible refine Keeps.foldl ?_ ?_
    | with_reducible refine Keeps.foldl_fst ?_ ?_
    | intro _
    | split
    | dsimp only
    | rfl
    | refine Keeps.upd ?_
    | simp only [updAt_length, List.length_map]

theorem State.setCtle_keeps {r s : State} (h : Keeps r s) (p : Nat) (k : Nat) (v : Nat) :
    Keeps r (State.setCtle s p k v) := by
  unfold State.setCtle
  repeat' first
    | with_reducible assumption
    | with_reducible apply State.put_keeps
    | with_reducible apply State.setDfe_keeps
    | with_reducible refine Keeps.ite ?_ ?_
    | with_reducible refine Keeps.foldl ?_ ?_
    | with_reducible refine Keeps.foldl_fst ?_ ?_
    | intro _
    | split
    | dsimp only
    | rfl
    | refine Keeps.upd ?_
    | simp only [updAt_length, List.length_map]

theorem execChainRxForce_keeps {r s : State} (h : Keeps r s) (w : Writer) (p : Fin 3) (k : Fin 5) (force : Bool) (eq : BitVec 28) :
    KeepsOut r (execChainRxForce w p k force eq s) := by
  unfold execChainRxForce
  repeat' first
    | with_reducible assumption
    | refine KeepsOut.next ?_
    | with_reducible refine KeepsOut.ite ?_ ?_
    | with_reducible apply State.writeBy_keeps
    | with_reducible apply State.puts_keeps
    | with_reducible apply State.setCtle_keeps
    | with_reducible apply State.setReg_keeps
    | with_reducible apply State.showAdapting_keeps
    | dsimp only
    | split
    | with_reducible refine Keeps.ite ?_ ?_
    | with_reducible refine Keeps.foldl ?_ ?_
    | with_reducible refine Keeps.foldl_fst ?_ ?_
    | intro _
    | split
    | dsimp only
    | rfl
    | refine Keeps.upd ?_
    | simp only [updAt_length, List.length_map]

theorem execCtleInterval_keeps {r s : State} (h : Keeps r s) (p : Fin 3) (k : Fin 5) (hf : Nat) (lf : Nat) :
    KeepsOut r (execCtleInterval p k hf lf s) := by
  unfold execCtleInterval
  repeat' first
    | with_reducible assumption
    | refine KeepsOut.next ?_
    | with_reducible refine KeepsOut.ite ?_ ?_
    | with_reducible apply State.setCtle_keeps
    | dsimp only
    | split
    | with_reducible refine Keeps.ite ?_ ?_
    | with_reducible refine Keeps.foldl ?_ ?_
    | with_reducible refine Keeps.foldl_fst ?_ ?_
    | intro _
    | split
    | dsimp only
    | rfl
    | refine Keeps.upd ?_
    | simp only [updAt_length, List.length_map]

theorem State.dfeSymbol_keeps {r s : State} (h : Keeps r s) (p : Nat) (k : Nat) (e : Int) (d : Nat) :
    Keeps r (State.dfeSymbol s p k e d) := by
  unfold State.dfeSymbol
  repeat' first
    | with_reducible assumption
    | with_reducible apply State.put_keeps
    | with_reducible apply State.setDfe_keeps
    | with_reducible refine Keeps.ite ?_ ?_
    | with_reducible refine Keeps.foldl ?_ ?_
    | with_reducible refine Keeps.foldl_fst ?_ ?_
    | intro _
    | split
    | dsimp only
    | rfl
    | refine Keeps.upd ?_
    | simp only [updAt_length, List.length_map]

theorem execDfeStep_keeps {r s : State} (h : Keeps r s) (p : Fin 3) (k : Fin 5) (symbols : List (Option Bool × Fin 4)) :
    KeepsOut r (execDfeStep p k symbols s) := by
  unfold execDfeStep
  repeat' first
    | with_reducible assumption
    | refine KeepsOut.next ?_
    | with_reducible refine KeepsOut.ite ?_ ?_
    | with_reducible apply State.dfeSymbol_keeps
    | dsimp only
    | split
    | with_reducible refine Keeps.ite ?_ ?_
    | with_reducible refine Keeps.foldl ?_ ?_
    | with_reducible refine Keeps.foldl_fst ?_ ?_
    | intro _
    | split
    | dsimp only
    | rfl
    | refine Keeps.upd ?_
    | simp only [updAt_length, List.length_map]

theorem execChainStatsStarved_keeps {r s : State} (h : Keeps r s) (p : Fin 3) (k : Fin 5) (met : Bool) :
    KeepsOut r (execChainStatsStarved p k met s) := by
  unfold execChainStatsStarved
  repeat' first
    | with_reducible assumption
    | refine KeepsOut.next ?_
    | with_reducible refine KeepsOut.ite ?_ ?_
    | with_reducible apply State.sliceCode_keeps
    | dsimp only
    | split
    | with_reducible refine Keeps.ite ?_ ?_
    | with_reducible refine Keeps.foldl ?_ ?_
    | with_reducible refine Keeps.foldl_fst ?_ ?_
    | intro _
    | split
    | dsimp only
    | rfl
    | refine Keeps.upd ?_
    | simp only [updAt_length, List.length_map]

theorem execEyeScan_keeps {r s : State} (h : Keeps r s) (p : Fin 3) (k : Fin 5) (heights : List (BitVec 8)) (widths : List (BitVec 16)) :
    KeepsOut r (execEyeScan p k heights widths s) := by
  unfold execEyeScan
  repeat' first
    | with_reducible assumption
    | refine KeepsOut.next ?_
    | with_reducible refine KeepsOut.ite ?_ ?_
    | with_reducible apply State.puts_keeps
    | with_reducible apply State.chainWorn_keeps
    | dsimp only
    | split
    | with_reducible refine Keeps.ite ?_ ?_
    | with_reducible refine Keeps.foldl ?_ ?_
    | with_reducible refine Keeps.foldl_fst ?_ ?_
    | intro _
    | split
    | dsimp only
    | rfl
    | refine Keeps.upd ?_
    | simp only [updAt_length, List.length_map]

theorem State.reachWorn_keeps {r s : State} (h : Keeps r s) (n : Nat) :
    Keeps r (State.reachWorn s n) := by
  unfold State.reachWorn
  repeat' first
    | with_reducible assumption
    | with_reducible apply State.put_keeps
    | with_reducible apply State.raise_keeps
    | with_reducible apply State.raiseIf_keeps
    | with_reducible apply State.askReachSwap_keeps
    | with_reducible refine Keeps.ite ?_ ?_
    | with_reducible refine Keeps.foldl ?_ ?_
    | with_reducible refine Keeps.foldl_fst ?_ ?_
    | intro _
    | split
    | dsimp only
    | rfl
    | refine Keeps.upd ?_
    | simp only [updAt_length, List.length_map]

theorem execAgingMeasurement_keeps {r s : State} (h : Keeps r s) (reaches : List (BitVec 16)) (regions : List (BitVec 16)) :
    KeepsOut r (execAgingMeasurement reaches regions s) := by
  unfold execAgingMeasurement
  repeat' first
    | with_reducible assumption
    | refine KeepsOut.next ?_
    | with_reducible refine KeepsOut.ite ?_ ?_
    | with_reducible apply State.put_keeps
    | with_reducible apply State.reachWorn_keeps
    | with_reducible apply State.raiseIf_keeps
    | with_reducible apply State.storeOwn_keeps
    | dsimp only
    | split
    | with_reducible refine Keeps.ite ?_ ?_
    | with_reducible refine Keeps.foldl ?_ ?_
    | with_reducible refine Keeps.foldl_fst ?_ ?_
    | intro _
    | split
    | dsimp only
    | rfl
    | refine Keeps.upd ?_
    | simp only [updAt_length, List.length_map]

theorem execSwapLockTimeout_keeps {r s : State} (h : Keeps r s) (lane : Fin 96) (met : Bool) :
    KeepsOut r (execSwapLockTimeout lane met s) := by
  unfold execSwapLockTimeout
  repeat' first
    | with_reducible assumption
    | refine KeepsOut.next ?_
    | with_reducible refine KeepsOut.ite ?_ ?_
    | with_reducible apply State.listenEnds_keeps
    | with_reducible apply State.endSwap_keeps
    | dsimp only
    | split
    | with_reducible refine Keeps.ite ?_ ?_
    | with_reducible refine Keeps.foldl ?_ ?_
    | with_reducible refine Keeps.foldl_fst ?_ ?_
    | intro _
    | split
    | dsimp only
    | rfl
    | refine Keeps.upd ?_
    | simp only [updAt_length, List.length_map]

theorem execThermalThreshold_keeps {r s : State} (h : Keeps r s) (temp : BitVec 16) :
    KeepsOut r (execThermalThreshold temp s) := by
  unfold execThermalThreshold
  repeat' first
    | with_reducible assumption
    | refine KeepsOut.next ?_
    | with_reducible refine KeepsOut.ite ?_ ?_
    | with_reducible apply State.put_keeps
    | with_reducible apply State.raiseIf_keeps
    | dsimp only
    | split
    | with_reducible refine Keeps.ite ?_ ?_
    | with_reducible refine Keeps.foldl ?_ ?_
    | with_reducible refine Keeps.foldl_fst ?_ ?_
    | intro _
    | split
    | dsimp only
    | rfl
    | refine Keeps.upd ?_
    | simp only [updAt_length, List.length_map]

end Sys2Proof.Machine
end

