-- ==== Sys2Proof/Laws/Keeps/HostCmd.lean ====
section
/-!
SUPPORT. What the operations of Machine/HostCmd.lean keep.
-/

set_option Elab.async false
set_option linter.all false

namespace Sys2Proof.Machine

theorem State.setHost_keeps {r s : State} (h : Keeps r s) (f : HostState → HostState) (hf : ∀ x, (f x).fns.length = x.fns.length) :
    Keeps r (s.setHost f) :=
  Keeps.upd h rfl (Nat.le_refl _) rfl rfl rfl rfl rfl (hf _) rfl rfl rfl rfl rfl rfl rfl

theorem State.setFn_keeps {r s : State} (h : Keeps r s) (f : Nat) (g : FnConfig → FnConfig) :
    Keeps r (State.setFn s f g) := by
  unfold State.setFn
  repeat' first
    | with_reducible assumption
    | with_reducible apply State.setHost_keeps
    | with_reducible refine Keeps.ite ?_ ?_
    | with_reducible refine Keeps.foldl ?_ ?_
    | with_reducible refine Keeps.foldl_fst ?_ ?_
    | intro _
    | split
    | dsimp only
    | rfl
    | refine Keeps.upd ?_
    | simp only [updAt_length, List.length_map]

theorem State.wake_keeps {r s : State} (h : Keeps r s) (f : Nat) (before : Bool) :
    Keeps r (State.wake s f before) := by
  unfold State.wake
  repeat' first
    | with_reducible assumption
    | with_reducible apply State.sendWaiting_keeps
    | with_reducible refine Keeps.ite ?_ ?_
    | with_reducible refine Keeps.foldl ?_ ?_
    | with_reducible refine Keeps.foldl_fst ?_ ?_
    | intro _
    | split
    | dsimp only
    | rfl
    | refine Keeps.upd ?_
    | simp only [updAt_length, List.length_map]

theorem execLinkTrained_keeps {r s : State} (h : Keeps r s) (rate : Nat) (width : Nat) (flit : Bool) :
    KeepsOut r (execLinkTrained rate width flit s) := by
  unfold execLinkTrained
  repeat' first
    | with_reducible assumption
    | refine KeepsOut.next ?_
    | with_reducible refine KeepsOut.ite ?_ ?_
    | with_reducible apply State.setHost_keeps
    | with_reducible apply State.wake_keeps
    | with_reducible apply State.raise_keeps
    | with_reducible apply State.raiseIf_keeps
    | dsimp only
    | split
    | with_reducible refine Keeps.ite ?_ ?_
    | with_reducible refine Keeps.foldl ?_ ?_
    | with_reducible refine Keeps.foldl_fst ?_ ?_
    | intro _
    | split
    | dsimp only
    | rfl
    | refine Keeps.upd ?_
    | simp only [updAt_length, List.length_map]

theorem execLinkFailure_keeps {r s : State} (h : Keeps r s) :
    KeepsOut r (execLinkFailure s) := by
  unfold execLinkFailure
  repeat' first
    | with_reducible assumption
    | refine KeepsOut.next ?_
    | with_reducible refine KeepsOut.ite ?_ ?_
    | with_reducible apply State.setHost_keeps
    | with_reducible apply State.raise_keeps
    | dsimp only
    | split
    | with_reducible refine Keeps.ite ?_ ?_
    | with_reducible refine Keeps.foldl ?_ ?_
    | with_reducible refine Keeps.foldl_fst ?_ ?_
    | intro _
    | split
    | dsimp only
    | rfl
    | refine Keeps.upd ?_
    | simp only [updAt_length, List.length_map]

theorem execAspmL1Entry_keeps {r s : State} (h : Keeps r s) :
    KeepsOut r (execAspmL1Entry s) := by
  unfold execAspmL1Entry
  repeat' first
    | with_reducible assumption
    | refine KeepsOut.next ?_
    | with_reducible refine KeepsOut.ite ?_ ?_
    | with_reducible apply State.setHost_keeps
    | dsimp only
    | split
    | with_reducible refine Keeps.ite ?_ ?_
    | with_reducible refine Keeps.foldl ?_ ?_
    | with_reducible refine Keeps.foldl_fst ?_ ?_
    | intro _
    | split
    | dsimp only
    | rfl
    | refine Keeps.upd ?_
    | simp only [updAt_length, List.length_map]

theorem State.discardHost_keeps {r s : State} (h : Keeps r s) (f : Nat) (a : HoldAccess) (len : Nat) :
    Keeps r (State.discardHost s f a len) := by
  unfold State.discardHost
  repeat' first
    | with_reducible assumption
    | with_reducible apply State.completeRead_keeps
    | with_reducible refine Keeps.ite ?_ ?_
    | with_reducible refine Keeps.foldl ?_ ?_
    | with_reducible refine Keeps.foldl_fst ?_ ?_
    | intro _
    | split
    | dsimp only
    | rfl
    | refine Keeps.upd ?_
    | simp only [updAt_length, List.length_map]

theorem State.readBar_keeps {r s : State} (h : Keeps r s) (f : Nat) (a : HoldAccess) (arb : Arbitration) (len : Nat) (more : List Arbitration) :
    Keeps r (State.readBar s f a arb len more) := by
  unfold State.readBar
  repeat' first
    | with_reducible assumption
    | with_reducible apply State.setHost_keeps
    | with_reducible apply State.presentAccess_keeps
    | with_reducible refine Keeps.ite ?_ ?_
    | with_reducible refine Keeps.foldl ?_ ?_
    | with_reducible refine Keeps.foldl_fst ?_ ?_
    | intro _
    | split
    | dsimp only
    | rfl
    | refine Keeps.upd ?_
    | simp only [updAt_length, List.length_map]

theorem execBar2Access_keeps {r s : State} (h : Keeps r s) (f : Fin 32) (a : HoldAccess) (arb : Arbitration) (len : Fin 4097) (more : List Arbitration) :
    KeepsOut r (execBar2Access f a arb len more s) := by
  unfold execBar2Access
  repeat' first
    | with_reducible assumption
    | refine KeepsOut.next ?_
    | with_reducible refine KeepsOut.ite ?_ ?_
    | with_reducible apply State.setHost_keeps
    | with_reducible apply State.winterDrop_keeps
    | with_reducible apply State.discardHost_keeps
    | with_reducible apply State.violate_keeps
    | with_reducible apply State.presentAccess_keeps
    | with_reducible apply State.readBar_keeps
    | dsimp only
    | split
    | with_reducible refine Keeps.ite ?_ ?_
    | with_reducible refine Keeps.foldl ?_ ?_
    | with_reducible refine Keeps.foldl_fst ?_ ?_
    | intro _
    | split
    | dsimp only
    | rfl
    | refine Keeps.upd ?_
    | simp only [updAt_length, List.length_map]

theorem State.resetFn_keeps {r s : State} (h : Keeps r s) (f : Nat) :
    Keeps r (State.resetFn s f) := by
  unfold State.resetFn
  repeat' first
    | with_reducible assumption
    | with_reducible apply State.setFn_keeps
    | with_reducible apply State.setHost_keeps
    | with_reducible refine Keeps.ite ?_ ?_
    | with_reducible refine Keeps.foldl ?_ ?_
    | with_reducible refine Keeps.foldl_fst ?_ ?_
    | intro _
    | split
    | dsimp only
    | rfl
    | refine Keeps.upd ?_
    | simp only [updAt_length, List.length_map]

theorem State.dropVfs_keeps {r s : State} (h : Keeps r s) :
    Keeps r (State.dropVfs s) := by
  unfold State.dropVfs
  repeat' first
    | with_reducible assumption
    | with_reducible apply State.resetFn_keeps
    | with_reducible apply State.setHost_keeps
    | with_reducible refine Keeps.ite ?_ ?_
    | with_reducible refine Keeps.foldl ?_ ?_
    | with_reducible refine Keeps.foldl_fst ?_ ?_
    | intro _
    | split
    | dsimp only
    | rfl
    | refine Keeps.upd ?_
    | simp only [updAt_length, List.length_map]

theorem State.tableEntryWrite_keeps {r s : State} (h : Keeps r s) (f : Nat) (v : Nat) (k : State → State) (hk : ∀ t, Keeps r t → Keeps r (k t)) :
    Keeps r (State.tableEntryWrite s f v k) := by
  unfold State.tableEntryWrite
  repeat' first
    | with_reducible assumption
    | apply hk
    | with_reducible apply State.winterDrop_keeps
    | with_reducible refine Keeps.ite ?_ ?_
    | with_reducible refine Keeps.foldl ?_ ?_
    | with_reducible refine Keeps.foldl_fst ?_ ?_
    | intro _
    | split
    | dsimp only
    | rfl
    | refine Keeps.upd ?_
    | simp only [updAt_length, List.length_map]

theorem execConfigWrite_keeps {r s : State} (h : Keeps r s) (f : Fin 32) (c : ConfigChange) :
    KeepsOut r (execConfigWrite f c s) := by
  unfold execConfigWrite
  repeat' first
    | with_reducible assumption
    | refine KeepsOut.next ?_
    | with_reducible refine KeepsOut.ite ?_ ?_
    | with_reducible apply State.setFn_keeps
    | with_reducible apply State.wake_keeps
    | with_reducible apply State.sendHeld_keeps
    | with_reducible apply State.setHost_keeps
    | with_reducible apply State.dropVfs_keeps
    | with_reducible apply State.tableEntryWrite_keeps
    | dsimp only
    | split
    | with_reducible refine Keeps.ite ?_ ?_
    | with_reducible refine Keeps.foldl ?_ ?_
    | with_reducible refine Keeps.foldl_fst ?_ ?_
    | intro _
    | split
    | dsimp only
    | rfl
    | refine Keeps.upd ?_
    | simp only [updAt_length, List.length_map]

theorem execMsixVectorUnmask_keeps {r s : State} (h : Keeps r s) (v : Fin 2048) :
    KeepsOut r (execMsixVectorUnmask v s) := by
  unfold execMsixVectorUnmask
  repeat' first
    | with_reducible assumption
    | refine KeepsOut.next ?_
    | with_reducible refine KeepsOut.ite ?_ ?_
    | with_reducible apply State.tableEntryWrite_keeps
    | with_reducible apply State.setHost_keeps
    | with_reducible apply State.sendHeld_keeps
    | dsimp only
    | split
    | with_reducible refine Keeps.ite ?_ ?_
    | with_reducible refine Keeps.foldl ?_ ?_
    | with_reducible refine Keeps.foldl_fst ?_ ?_
    | intro _
    | split
    | dsimp only
    | rfl
    | refine Keeps.upd ?_
    | simp only [updAt_length, List.length_map]

theorem State.clearCause_keeps {r s : State} (h : Keeps r s) (m : Nat) :
    Keeps r (State.clearCause s m) := by
  unfold State.clearCause
  repeat' first
    | with_reducible assumption
    | with_reducible apply State.puts_keeps
    | with_reducible apply State.setReg_keeps
    | with_reducible refine Keeps.ite ?_ ?_
    | with_reducible refine Keeps.foldl ?_ ?_
    | with_reducible refine Keeps.foldl_fst ?_ ?_
    | intro _
    | split
    | dsimp only
    | rfl
    | refine Keeps.upd ?_
    | simp only [updAt_length, List.length_map]

theorem State.thawMaster_keeps {r s : State} (h : Keeps r s) (m : Nat) :
    Keeps r (State.thawMaster s m) := by
  unfold State.thawMaster
  repeat' first
    | with_reducible assumption
    | with_reducible apply State.setFrozen_keeps
    | with_reducible apply State.dmaThaw_keeps
    | with_reducible apply State.eddyThaw_keeps
    | with_reducible apply State.settleReaches_keeps
    | with_reducible refine Keeps.ite ?_ ?_
    | with_reducible refine Keeps.foldl ?_ ?_
    | with_reducible refine Keeps.foldl_fst ?_ ?_
    | intro _
    | split
    | dsimp only
    | rfl
    | refine Keeps.upd ?_
    | simp only [updAt_length, List.length_map]

theorem State.meetViolation_keeps {r s : State} (h : Keeps r s) (m : Nat) (v : Meeting) :
    Keeps r (State.meetViolation s m v) := by
  unfold State.meetViolation
  repeat' first
    | with_reducible assumption
    | with_reducible apply State.latchCause_keeps
    | with_reducible apply State.raise_keeps
    | with_reducible apply State.violate_keeps
    | with_reducible refine Keeps.ite ?_ ?_
    | with_reducible refine Keeps.foldl ?_ ?_
    | with_reducible refine Keeps.foldl_fst ?_ ?_
    | intro _
    | split
    | dsimp only
    | rfl
    | refine Keeps.upd ?_
    | simp only [updAt_length, List.length_map]

theorem execMstThaw_keeps {r s : State} (h : Keeps r s) (w : Writer) (id : BitVec 8) (meets : Option Meeting) :
    KeepsOut r (execMstThaw w id meets s) := by
  unfold execMstThaw
  repeat' first
    | with_reducible assumption
    | refine KeepsOut.next ?_
    | with_reducible refine KeepsOut.ite ?_ ?_
    | with_reducible apply State.writeBy_keeps
    | with_reducible apply State.puts_keeps
    | with_reducible apply State.put_keeps
    | with_reducible apply State.raise_keeps
    | with_reducible apply State.meetViolation_keeps
    | with_reducible apply State.violate_keeps
    | with_reducible apply State.thawMaster_keeps
    | dsimp only
    | split
    | with_reducible refine Keeps.ite ?_ ?_
    | with_reducible refine Keeps.foldl ?_ ?_
    | with_reducible refine Keeps.foldl_fst ?_ ?_
    | intro _
    | split
    | dsimp only
    | rfl
    | refine Keeps.upd ?_
    | simp only [updAt_length, List.length_map]

theorem execCauseAck_keeps {r s : State} (h : Keeps r s) (w : Writer) (m : BitVec 8) (meets : Option Meeting) :
    KeepsOut r (execCauseAck w m meets s) := by
  unfold execCauseAck
  repeat' first
    | with_reducible assumption
    | refine KeepsOut.next ?_
    | with_reducible refine KeepsOut.ite ?_ ?_
    | with_reducible apply State.writeBy_keeps
    | with_reducible apply State.meetViolation_keeps
    | with_reducible apply State.clearCause_keeps
    | dsimp only
    | split
    | with_reducible refine Keeps.ite ?_ ?_
    | with_reducible refine Keeps.foldl ?_ ?_
    | with_reducible refine Keeps.foldl_fst ?_ ?_
    | intro _
    | split
    | dsimp only
    | rfl
    | refine Keeps.upd ?_
    | simp only [updAt_length, List.length_map]

theorem State.resetFunction_keeps {r s : State} (h : Keeps r s) (n : Nat) :
    Keeps r (State.resetFunction s n) := by
  unfold State.resetFunction
  repeat' first
    | with_reducible assumption
    | with_reducible apply State.resetFn_keeps
    | with_reducible apply State.setFrozen_keeps
    | with_reducible apply State.clearCause_keeps
    | with_reducible apply State.abortRun_keeps
    | with_reducible apply State.dmaGo_keeps
    | with_reducible apply State.dropVfs_keeps
    | with_reducible apply State.setHost_keeps
    | with_reducible refine Keeps.ite ?_ ?_
    | with_reducible refine Keeps.foldl ?_ ?_
    | with_reducible refine Keeps.foldl_fst ?_ ?_
    | intro _
    | split
    | dsimp only
    | rfl
    | refine Keeps.upd ?_
    | simp only [updAt_length, List.length_map]

theorem execFunctionLevelReset_keeps {r s : State} (h : Keeps r s) (f : Fin 32) :
    KeepsOut r (execFunctionLevelReset f s) := by
  unfold execFunctionLevelReset
  repeat' first
    | with_reducible assumption
    | refine KeepsOut.next ?_
    | with_reducible refine KeepsOut.ite ?_ ?_
    | with_reducible apply State.resetFunction_keeps
    | with_reducible apply State.setFn_keeps
    | dsimp only
    | split
    | with_reducible refine Keeps.ite ?_ ?_
    | with_reducible refine Keeps.foldl ?_ ?_
    | with_reducible refine Keeps.foldl_fst ?_ ?_
    | intro _
    | split
    | dsimp only
    | rfl
    | refine Keeps.upd ?_
    | simp only [updAt_length, List.length_map]

theorem execFlrComplete_keeps {r s : State} (h : Keeps r s) (f : Fin 32) :
    KeepsOut r (execFlrComplete f s) := by
  unfold execFlrComplete
  repeat' first
    | with_reducible assumption
    | refine KeepsOut.next ?_
    | with_reducible refine KeepsOut.ite ?_ ?_
    | with_reducible apply State.setFn_keeps
    | with_reducible apply State.raise_keeps
    | dsimp only
    | split
    | with_reducible refine Keeps.ite ?_ ?_
    | with_reducible refine Keeps.foldl ?_ ?_
    | with_reducible refine Keeps.foldl_fst ?_ ?_
    | intro _
    | split
    | dsimp only
    | rfl
    | refine Keeps.upd ?_
    | simp only [updAt_length, List.length_map]

end Sys2Proof.Machine
end

