-- ==== Sys2Proof/Laws/Keeps/Purser.lean ====
section
/-!
SUPPORT. What the operations of Machine/Purser.lean keep.
-/

set_option Elab.async false
set_option linter.all false

namespace Sys2Proof.Machine

theorem State.setPurser_keeps {r s : State} (h : Keeps r s) (f : PurserState → PurserState) :
    Keeps r (State.setPurser s f) := by
  unfold State.setPurser
  repeat' first
    | with_reducible assumption
    | with_reducible refine Keeps.ite ?_ ?_
    | with_reducible refine Keeps.foldl ?_ ?_
    | with_reducible refine Keeps.foldl_fst ?_ ?_
    | intro _
    | split
    | dsimp only
    | rfl
    | refine Keeps.upd ?_
    | simp only [updAt_length, List.length_map]

theorem State.purserWrite_keeps {r s : State} (h : Keeps r s) (a : Nat) (l : List Byte) :
    Keeps r (State.purserWrite s a l) := by
  unfold State.purserWrite
  repeat' first
    | with_reducible assumption
    | with_reducible apply State.hostWrites_keeps
    | with_reducible apply State.toHost_keeps
    | with_reducible refine Keeps.ite ?_ ?_
    | with_reducible refine Keeps.foldl ?_ ?_
    | with_reducible refine Keeps.foldl_fst ?_ ?_
    | intro _
    | split
    | dsimp only
    | rfl
    | refine Keeps.upd ?_
    | simp only [updAt_length, List.length_map]

theorem State.manifestFail_keeps {r s : State} (h : Keeps r s) (result : Nat) :
    Keeps r (State.manifestFail s result) := by
  unfold State.manifestFail
  repeat' first
    | with_reducible assumption
    | with_reducible apply State.setPurser_keeps
    | with_reducible apply State.puts_keeps
    | with_reducible apply State.raise_keeps
    | with_reducible refine Keeps.ite ?_ ?_
    | with_reducible refine Keeps.foldl ?_ ?_
    | with_reducible refine Keeps.foldl_fst ?_ ?_
    | intro _
    | split
    | dsimp only
    | rfl
    | refine Keeps.upd ?_
    | simp only [updAt_length, List.length_map]

theorem State.gather_keeps {r s : State} (h : Keeps r s) :
    Keeps r (State.gather s) := by
  unfold State.gather
  repeat' first
    | with_reducible assumption
    | with_reducible apply State.manifestFail_keeps
    | with_reducible apply State.purserWrite_keeps
    | with_reducible apply State.npPart_keeps
    | with_reducible apply State.setPurser_keeps
    | with_reducible refine Keeps.ite ?_ ?_
    | with_reducible refine Keeps.foldl ?_ ?_
    | with_reducible refine Keeps.foldl_fst ?_ ?_
    | intro _
    | split
    | dsimp only
    | rfl
    | refine Keeps.upd ?_
    | simp only [updAt_length, List.length_map]

theorem State.takeManifest_keeps {r s : State} (h : Keeps r s) :
    Keeps r (State.takeManifest s) := by
  unfold State.takeManifest
  repeat' first
    | with_reducible assumption
    | with_reducible apply State.setPurser_keeps
    | with_reducible apply State.puts_keeps
    | with_reducible apply State.gather_keeps
    | with_reducible refine Keeps.ite ?_ ?_
    | with_reducible refine Keeps.foldl ?_ ?_
    | with_reducible refine Keeps.foldl_fst ?_ ?_
    | intro _
    | split
    | dsimp only
    | rfl
    | refine Keeps.upd ?_
    | simp only [updAt_length, List.length_map]

theorem execManifestRequest_keeps {r s : State} (h : Keeps r s) (w : Writer) (addr : BitVec 20) :
    KeepsOut r (execManifestRequest w addr s) := by
  unfold execManifestRequest
  repeat' first
    | with_reducible assumption
    | refine KeepsOut.next ?_
    | with_reducible refine KeepsOut.ite ?_ ?_
    | with_reducible apply State.writeBy_keeps
    | with_reducible apply State.put_keeps
    | with_reducible apply State.setPurser_keeps
    | with_reducible apply State.takeManifest_keeps
    | dsimp only
    | split
    | with_reducible refine Keeps.ite ?_ ?_
    | with_reducible refine Keeps.foldl ?_ ?_
    | with_reducible refine Keeps.foldl_fst ?_ ?_
    | intro _
    | split
    | dsimp only
    | rfl
    | refine Keeps.upd ?_
    | simp only [updAt_length, List.length_map]

theorem execManifestFlushComplete_keeps {r s : State} (h : Keeps r s) (ok : Bool) :
    KeepsOut r (execManifestFlushComplete ok s) := by
  unfold execManifestFlushComplete
  repeat' first
    | with_reducible assumption
    | refine KeepsOut.next ?_
    | with_reducible refine KeepsOut.ite ?_ ?_
    | with_reducible apply State.npPart_keeps
    | with_reducible apply State.setPurser_keeps
    | with_reducible apply State.puts_keeps
    | with_reducible apply State.raise_keeps
    | with_reducible apply State.manifestFail_keeps
    | with_reducible apply State.takeManifest_keeps
    | dsimp only
    | split
    | with_reducible refine Keeps.ite ?_ ?_
    | with_reducible refine Keeps.foldl ?_ ?_
    | with_reducible refine Keeps.foldl_fst ?_ ?_
    | intro _
    | split
    | dsimp only
    | rfl
    | refine Keeps.upd ?_
    | simp only [updAt_length, List.length_map]

theorem execDoorbellRing_keeps {r s : State} (h : Keeps r s) (w : Writer) (k : Fin 16) :
    KeepsOut r (execDoorbellRing w k s) := by
  unfold execDoorbellRing
  repeat' first
    | with_reducible assumption
    | refine KeepsOut.next ?_
    | with_reducible refine KeepsOut.ite ?_ ?_
    | with_reducible apply State.writeBy_keeps
    | with_reducible apply State.raise_keeps
    | with_reducible apply State.puts_keeps
    | with_reducible apply State.setPurser_keeps
    | dsimp only
    | split
    | with_reducible refine Keeps.ite ?_ ?_
    | with_reducible refine Keeps.foldl ?_ ?_
    | with_reducible refine Keeps.foldl_fst ?_ ?_
    | intro _
    | split
    | dsimp only
    | rfl
    | refine Keeps.upd ?_
    | simp only [updAt_length, List.length_map]

theorem execMailboxTakeUp_keeps {r s : State} (h : Keeps r s) :
    KeepsOut r (execMailboxTakeUp s) := by
  unfold execMailboxTakeUp
  repeat' first
    | with_reducible assumption
    | refine KeepsOut.next ?_
    | with_reducible refine KeepsOut.ite ?_ ?_
    | with_reducible apply State.put_keeps
    | with_reducible apply State.setPurser_keeps
    | dsimp only
    | split
    | with_reducible refine Keeps.ite ?_ ?_
    | with_reducible refine Keeps.foldl ?_ ?_
    | with_reducible refine Keeps.foldl_fst ?_ ?_
    | intro _
    | split
    | dsimp only
    | rfl
    | refine Keeps.upd ?_
    | simp only [updAt_length, List.length_map]

theorem State.detach_keeps {r s : State} (h : Keeps r s) (k : Nat) :
    Keeps r (State.detach s k) := by
  unfold State.detach
  repeat' first
    | with_reducible assumption
    | with_reducible refine Keeps.ite ?_ ?_
    | with_reducible refine Keeps.foldl ?_ ?_
    | with_reducible refine Keeps.foldl_fst ?_ ?_
    | intro _
    | split
    | dsimp only
    | rfl
    | refine Keeps.upd ?_
    | simp only [updAt_length, List.length_map]

theorem execMailboxTimeout_keeps {r s : State} (h : Keeps r s) (met : Bool) :
    KeepsOut r (execMailboxTimeout met s) := by
  unfold execMailboxTimeout
  repeat' first
    | with_reducible assumption
    | refine KeepsOut.next ?_
    | with_reducible refine KeepsOut.ite ?_ ?_
    | with_reducible apply State.detach_keeps
    | with_reducible apply State.raise_keeps
    | with_reducible apply State.mboxDone_keeps
    | dsimp only
    | split
    | with_reducible refine Keeps.ite ?_ ?_
    | with_reducible refine Keeps.foldl ?_ ?_
    | with_reducible refine Keeps.foldl_fst ?_ ?_
    | intro _
    | split
    | dsimp only
    | rfl
    | refine Keeps.upd ?_
    | simp only [updAt_length, List.length_map]

theorem execPurserWatchdog_keeps {r s : State} (h : Keeps r s) : KeepsOut r (execPurserWatchdog s) := by
  unfold execPurserWatchdog
  refine KeepsOut.ite (KeepsOut.next h) ?_
  extract_lets slots s1 s2 s3 s4 s5 _ s6
  have h1 : Keeps r s1 := h.foldl fun t k i => State.mboxDone_keeps (State.detach_keeps i _) _ _ _ _
  have h2 : Keeps r s2 := State.put_keeps (State.setPurser_keeps h1 _) _ _
  have h3 : Keeps r s3 := State.abandonStores_keeps (State.raise_keeps (State.count_keeps (Keeps.ite (State.npPart_keeps h2 _) h2) _ _) _)
  have h4 : Keeps r s4 := h3.foldl fun t k i => State.abortCal_keeps i _
  have h5 : Keeps r s5 := Keeps.ite (State.boardEnd_keeps h4 _) h4
  exact KeepsOut.next (State.setTime_keeps (Keeps.upd h5) _ fun _ => rfl)

theorem State.serve_keeps {r s : State} (h : Keeps r s) :
    Keeps r (State.serve s) := by
  unfold State.serve
  repeat' first
    | with_reducible assumption
    | with_reducible apply State.setPurser_keeps
    | with_reducible apply State.put_keeps
    | with_reducible apply State.gather_keeps
    | with_reducible apply State.takeManifest_keeps
    | with_reducible refine Keeps.ite ?_ ?_
    | with_reducible refine Keeps.foldl ?_ ?_
    | with_reducible refine Keeps.foldl_fst ?_ ?_
    | intro _
    | split
    | dsimp only
    | rfl
    | refine Keeps.upd ?_
    | simp only [updAt_length, List.length_map]

theorem execPurserRestartComplete_keeps {r s : State} (h : Keeps r s) :
    KeepsOut r (execPurserRestartComplete s) := by
  unfold execPurserRestartComplete
  repeat' first
    | with_reducible assumption
    | refine KeepsOut.next ?_
    | with_reducible refine KeepsOut.ite ?_ ?_
    | with_reducible apply State.serve_keeps
    | with_reducible apply State.storeOwn_keeps
    | dsimp only
    | split
    | with_reducible refine Keeps.ite ?_ ?_
    | with_reducible refine Keeps.foldl ?_ ?_
    | with_reducible refine Keeps.foldl_fst ?_ ?_
    | intro _
    | split
    | dsimp only
    | rfl
    | refine Keeps.upd ?_
    | simp only [updAt_length, List.length_map]

end Sys2Proof.Machine
end

