-- ==== Sys2Proof/Laws/Keeps/Tg.lean ====
section
/-!
SUPPORT. What the operations of Machine/Tg.lean keep.
-/

set_option Elab.async false
set_option linter.all false

namespace Sys2Proof.Machine

theorem State.setSync_keeps {r s : State} (h : Keeps r s) (n : Nat) (f : SyncState → SyncState) :
    Keeps r (State.setSync s n f) := by
  unfold State.setSync
  repeat' first
    | with_reducible assumption
    | with_reducible apply State.setOut_keeps
    | with_reducible refine Keeps.ite ?_ ?_
    | with_reducible refine Keeps.foldl ?_ ?_
    | with_reducible refine Keeps.foldl_fst ?_ ?_
    | intro _
    | split
    | dsimp only
    | rfl
    | refine Keeps.upd ?_
    | simp only [updAt_length, List.length_map]

theorem State.resetPacing_keeps {r s : State} (h : Keeps r s) (n : Nat) :
    Keeps r (State.resetPacing s n) := by
  unfold State.resetPacing
  repeat' first
    | with_reducible assumption
    | with_reducible apply State.setSync_keeps
    | with_reducible apply State.puts_keeps
    | with_reducible apply State.setLock_keeps
    | with_reducible refine Keeps.ite ?_ ?_
    | with_reducible refine Keeps.foldl ?_ ?_
    | with_reducible refine Keeps.foldl_fst ?_ ?_
    | intro _
    | split
    | dsimp only
    | rfl
    | refine Keeps.upd ?_
    | simp only [updAt_length, List.length_map]

theorem State.gatesOff_keeps {r s : State} (h : Keeps r s) (n : Nat) :
    Keeps r (State.gatesOff s n) := by
  unfold State.gatesOff
  repeat' first
    | with_reducible assumption
    | with_reducible apply State.emit_keeps
    | with_reducible apply State.setOut_keeps
    | with_reducible refine Keeps.ite ?_ ?_
    | with_reducible refine Keeps.foldl ?_ ?_
    | with_reducible refine Keeps.foldl_fst ?_ ?_
    | intro _
    | split
    | dsimp only
    | rfl
    | refine Keeps.upd ?_
    | simp only [updAt_length, List.length_map]

theorem State.gatesIdle_keeps {r s : State} (h : Keeps r s) (n : Nat) :
    Keeps r (State.gatesIdle s n) := by
  unfold State.gatesIdle
  repeat' first
    | with_reducible assumption
    | with_reducible apply State.emit_keeps
    | with_reducible apply State.setOut_keeps
    | with_reducible refine Keeps.ite ?_ ?_
    | with_reducible refine Keeps.foldl ?_ ?_
    | with_reducible refine Keeps.foldl_fst ?_ ?_
    | intro _
    | split
    | dsimp only
    | rfl
    | refine Keeps.upd ?_
    | simp only [updAt_length, List.length_map]

theorem State.turnGates_keeps {r s : State} (h : Keeps r s) (n : Nat) :
    Keeps r (State.turnGates s n) := by
  unfold State.turnGates
  repeat' first
    | with_reducible assumption
    | with_reducible apply State.emit_keeps
    | with_reducible apply State.setOut_keeps
    | with_reducible refine Keeps.ite ?_ ?_
    | with_reducible refine Keeps.foldl ?_ ?_
    | with_reducible refine Keeps.foldl_fst ?_ ?_
    | intro _
    | split
    | dsimp only
    | rfl
    | refine Keeps.upd ?_
    | simp only [updAt_length, List.length_map]

theorem State.gateLine_keeps {r s : State} (h : Keeps r s) (n : Nat) (y : Nat) (landed : Option (State × Nat)) :
    Keeps r (State.gateLine s n y landed) := by
  unfold State.gateLine
  repeat' first
    | with_reducible assumption
    | with_reducible apply State.emit_keeps
    | with_reducible apply State.setOut_keeps
    | with_reducible refine Keeps.ite ?_ ?_
    | with_reducible refine Keeps.foldl ?_ ?_
    | with_reducible refine Keeps.foldl_fst ?_ ?_
    | intro _
    | split
    | dsimp only
    | rfl
    | refine Keeps.upd ?_
    | simp only [updAt_length, List.length_map]

theorem State.switchPll_keeps {r s : State} (h : Keeps r s) (n : Nat) :
    Keeps r (State.switchPll s n) := by
  unfold State.switchPll
  repeat' first
    | with_reducible assumption
    | with_reducible apply State.put_keeps
    | with_reducible apply State.raise_keeps
    | with_reducible refine Keeps.ite ?_ ?_
    | with_reducible refine Keeps.foldl ?_ ?_
    | with_reducible refine Keeps.foldl_fst ?_ ?_
    | intro _
    | split
    | dsimp only
    | rfl
    | refine Keeps.upd ?_
    | simp only [updAt_length, List.length_map]

theorem State.pllAtStart_keeps {r s : State} (h : Keeps r s) (n : Nat) :
    Keeps r (State.pllAtStart s n) := by
  unfold State.pllAtStart
  repeat' first
    | with_reducible assumption
    | with_reducible apply State.switchPll_keeps
    | with_reducible apply State.endSwap_keeps
    | with_reducible apply State.logSwap_keeps
    | with_reducible refine Keeps.ite ?_ ?_
    | with_reducible refine Keeps.foldl ?_ ?_
    | with_reducible refine Keeps.foldl_fst ?_ ?_
    | intro _
    | split
    | dsimp only
    | rfl
    | refine Keeps.upd ?_
    | simp only [updAt_length, List.length_map]

theorem State.showPll_keeps {r s : State} (h : Keeps r s) (n : Nat) (lock : Bool) :
    Keeps r (State.showPll s n lock) := by
  unfold State.showPll
  repeat' first
    | with_reducible assumption
    | with_reducible apply State.put_keeps
    | with_reducible apply State.setBit_keeps
    | with_reducible refine Keeps.ite ?_ ?_
    | with_reducible refine Keeps.foldl ?_ ?_
    | with_reducible refine Keeps.foldl_fst ?_ ?_
    | intro _
    | split
    | dsimp only
    | rfl
    | refine Keeps.upd ?_
    | simp only [updAt_length, List.length_map]

theorem State.startOut_keeps {r s : State} (h : Keeps r s) (n : Nat) :
    Keeps r (State.startOut s n) := by
  unfold State.startOut
  repeat' first
    | with_reducible assumption
    | with_reducible apply State.pllAtStart_keeps
    | with_reducible apply State.showPll_keeps
    | with_reducible apply State.puts_keeps
    | with_reducible apply State.idleRung_keeps
    | with_reducible apply State.setOut_keeps
    | with_reducible apply State.resetPacing_keeps
    | with_reducible apply State.laneServe_keeps
    | with_reducible apply State.showRoles_keeps
    | with_reducible refine Keeps.ite ?_ ?_
    | with_reducible refine Keeps.foldl ?_ ?_
    | with_reducible refine Keeps.foldl_fst ?_ ?_
    | intro _
    | split
    | dsimp only
    | rfl
    | refine Keeps.upd ?_
    | simp only [updAt_length, List.length_map]

theorem State.stopOut_keeps {r s0 : State} (h : Keeps r s0) (n : Nat) :
    Keeps r (State.stopOut s0 n) := by
  unfold State.stopOut
  repeat' first
    | with_reducible assumption
    | with_reducible apply State.odrvStop_keeps
    | with_reducible apply State.wearStop_keeps
    | with_reducible apply State.laneOff_keeps
    | with_reducible apply State.gatesOff_keeps
    | with_reducible apply State.puts_keeps
    | with_reducible apply State.setLock_keeps
    | with_reducible apply State.setSync_keeps
    | with_reducible apply State.setOut_keeps
    | with_reducible apply State.installOut_keeps
    | with_reducible apply State.landAll_keeps
    | with_reducible apply State.applyForced_keeps
    | with_reducible apply State.showPll_keeps
    | with_reducible apply State.showRoles_keeps
    | with_reducible apply State.settleLanes_keeps
    | with_reducible apply State.settleReaches_keeps
    | with_reducible apply State.txStop_keeps
    | with_reducible apply State.slackStep_keeps
    | with_reducible refine Keeps.ite ?_ ?_
    | with_reducible refine Keeps.foldl ?_ ?_
    | with_reducible refine Keeps.foldl_fst ?_ ?_
    | intro _
    | split
    | dsimp only
    | rfl
    | refine Keeps.upd ?_
    | simp only [updAt_length, List.length_map]

theorem execTgEnable_keeps {r s : State} (h : Keeps r s) (w : Writer) (n : Fin 4) :
    KeepsOut r (execTgEnable w n s) := by
  unfold execTgEnable
  repeat' first
    | with_reducible assumption
    | refine KeepsOut.next ?_
    | with_reducible refine KeepsOut.ite ?_ ?_
    | with_reducible apply State.writeBy_keeps
    | with_reducible apply State.put_keeps
    | with_reducible apply State.setOut_keeps
    | with_reducible apply State.startOut_keeps
    | dsimp only
    | split
    | with_reducible refine Keeps.ite ?_ ?_
    | with_reducible refine Keeps.foldl ?_ ?_
    | with_reducible refine Keeps.foldl_fst ?_ ?_
    | intro _
    | split
    | dsimp only
    | rfl
    | refine Keeps.upd ?_
    | simp only [updAt_length, List.length_map]

theorem State.disable_keeps {r s : State} (h : Keeps r s) (n : Nat) :
    Keeps r (State.disable s n) := by
  unfold State.disable
  repeat' first
    | with_reducible assumption
    | with_reducible apply State.put_keeps
    | with_reducible apply State.setOut_keeps
    | with_reducible apply State.stopOut_keeps
    | with_reducible refine Keeps.ite ?_ ?_
    | with_reducible refine Keeps.foldl ?_ ?_
    | with_reducible refine Keeps.foldl_fst ?_ ?_
    | intro _
    | split
    | dsimp only
    | rfl
    | refine Keeps.upd ?_
    | simp only [updAt_length, List.length_map]

theorem execTgDisable_keeps {r s : State} (h : Keeps r s) (w : Writer) (n : Fin 4) :
    KeepsOut r (execTgDisable w n s) := by
  unfold execTgDisable
  repeat' first
    | with_reducible assumption
    | refine KeepsOut.next ?_
    | with_reducible refine KeepsOut.ite ?_ ?_
    | with_reducible apply State.writeBy_keeps
    | with_reducible apply State.disable_keeps
    | dsimp only
    | split
    | with_reducible refine Keeps.ite ?_ ?_
    | with_reducible refine Keeps.foldl ?_ ?_
    | with_reducible refine Keeps.foldl_fst ?_ ?_
    | intro _
    | split
    | dsimp only
    | rfl
    | refine Keeps.upd ?_
    | simp only [updAt_length, List.length_map]

theorem execTgStopped_keeps {r s : State} (h : Keeps r s) (n : Fin 4) :
    KeepsOut r (execTgStopped n s) := by
  unfold execTgStopped
  repeat' first
    | with_reducible assumption
    | refine KeepsOut.next ?_
    | with_reducible refine KeepsOut.ite ?_ ?_
    | with_reducible apply State.stopOut_keeps
    | dsimp only
    | split
    | with_reducible refine Keeps.ite ?_ ?_
    | with_reducible refine Keeps.foldl ?_ ?_
    | with_reducible refine Keeps.foldl_fst ?_ ?_
    | intro _
    | split
    | dsimp only
    | rfl
    | refine Keeps.upd ?_
    | simp only [updAt_length, List.length_map]

theorem execLandGo_keeps {r s : State} (h : Keeps r s) (w : Writer) (n : Fin 4) (copyCycle : Bool) :
    KeepsOut r (execLandGo w n copyCycle s) := by
  unfold execLandGo
  repeat' first
    | with_reducible assumption
    | refine KeepsOut.next ?_
    | with_reducible refine KeepsOut.ite ?_ ?_
    | with_reducible apply State.writeBy_keeps
    | with_reducible apply State.put_keeps
    | with_reducible apply State.count_keeps
    | with_reducible apply State.raise_keeps
    | dsimp only
    | split
    | with_reducible refine Keeps.ite ?_ ?_
    | with_reducible refine Keeps.foldl ?_ ?_
    | with_reducible refine Keeps.foldl_fst ?_ ?_
    | intro _
    | split
    | dsimp only
    | rfl
    | refine Keeps.upd ?_
    | simp only [updAt_length, List.length_map]

theorem execLandCancel_keeps {r s : State} (h : Keeps r s) (w : Writer) (n : Fin 4) :
    KeepsOut r (execLandCancel w n s) := by
  unfold execLandCancel
  repeat' first
    | with_reducible assumption
    | refine KeepsOut.next ?_
    | with_reducible refine KeepsOut.ite ?_ ?_
    | with_reducible apply State.writeBy_keeps
    | with_reducible apply State.put_keeps
    | dsimp only
    | split
    | with_reducible refine Keeps.ite ?_ ?_
    | with_reducible refine Keeps.foldl ?_ ?_
    | with_reducible refine Keeps.foldl_fst ?_ ?_
    | intro _
    | split
    | dsimp only
    | rfl
    | refine Keeps.upd ?_
    | simp only [updAt_length, List.length_map]

theorem execLandingPoint_keeps {r s : State} (h : Keeps r s) (n : Fin 4) :
    KeepsOut r (execLandingPoint n s) := by
  unfold execLandingPoint
  repeat' first
    | with_reducible assumption
    | refine KeepsOut.next ?_
    | with_reducible refine KeepsOut.ite ?_ ?_
    | with_reducible apply State.landingPoint_keeps
    | with_reducible apply State.gateLine_keeps
    | dsimp only
    | split
    | with_reducible refine Keeps.ite ?_ ?_
    | with_reducible refine Keeps.foldl ?_ ?_
    | with_reducible refine Keeps.foldl_fst ?_ ?_
    | intro _
    | split
    | dsimp only
    | rfl
    | refine Keeps.upd ?_
    | simp only [updAt_length, List.length_map]

theorem State.changeLanes_keeps {r s : State} (h : Keeps r s) (n : Nat) :
    Keeps r (State.changeLanes s n) := by
  unfold State.changeLanes
  repeat' first
    | with_reducible assumption
    | with_reducible apply State.laneTo_keeps
    | with_reducible apply State.laneOff_keeps
    | with_reducible apply State.applyForced_keeps
    | with_reducible apply State.showRoles_keeps
    | with_reducible apply State.settleLanes_keeps
    | with_reducible apply State.abortCal_keeps
    | with_reducible apply State.laneServe_keeps
    | with_reducible apply State.setLane_keeps
    | with_reducible refine Keeps.ite ?_ ?_
    | with_reducible refine Keeps.foldl ?_ ?_
    | with_reducible refine Keeps.foldl_fst ?_ ?_
    | intro _
    | split
    | dsimp only
    | rfl
    | refine Keeps.upd ?_
    | simp only [updAt_length, List.length_map]

theorem State.beginSwaps_keeps {r s : State} (h : Keeps r s) (n : Nat) (blank : Bool) :
    Keeps r (State.beginSwaps s n blank) := by
  unfold State.beginSwaps
  repeat' first
    | with_reducible assumption
    | with_reducible apply State.setSwap_keeps
    | with_reducible apply State.switchLane_keeps
    | with_reducible apply State.holdLanes_keeps
    | with_reducible refine Keeps.ite ?_ ?_
    | with_reducible refine Keeps.foldl ?_ ?_
    | with_reducible refine Keeps.foldl_fst ?_ ?_
    | intro _
    | split
    | dsimp only
    | rfl
    | refine Keeps.upd ?_
    | simp only [updAt_length, List.length_map]

theorem State.beginCals_keeps {r s : State} (h : Keeps r s) (n : Nat) (blank : Bool) (low : BitVec 4) :
    Keeps r (State.beginCals s n blank low) := by
  unfold State.beginCals
  repeat' first
    | with_reducible assumption
    | with_reducible apply State.beginSwaps_keeps
    | with_reducible apply State.startCal_keeps
    | with_reducible apply State.setOut_keeps
    | with_reducible refine Keeps.ite ?_ ?_
    | with_reducible refine Keeps.foldl ?_ ?_
    | with_reducible refine Keeps.foldl_fst ?_ ?_
    | intro _
    | split
    | dsimp only
    | rfl
    | refine Keeps.upd ?_
    | simp only [updAt_length, List.length_map]

theorem State.frameZero_keeps {r s : State} (h : Keeps r s) (n : Nat) :
    Keeps r (State.frameZero s n) := by
  unfold State.frameZero
  repeat' first
    | with_reducible assumption
    | with_reducible apply State.puts_keeps
    | with_reducible apply State.setOut_keeps
    | with_reducible apply State.emit_keeps
    | with_reducible apply State.put_keeps
    | with_reducible apply State.latchTemp_keeps
    | with_reducible apply State.rateLand_keeps
    | with_reducible apply State.beginRead_keeps
    | with_reducible refine Keeps.ite ?_ ?_
    | with_reducible refine Keeps.foldl ?_ ?_
    | with_reducible refine Keeps.foldl_fst ?_ ?_
    | intro _
    | split
    | dsimp only
    | rfl
    | refine Keeps.upd ?_
    | simp only [updAt_length, List.length_map]

theorem State.retimeEpochs_keeps {r s : State} (h : Keeps r s) (n : Nat) (epoch : Int) :
    Keeps r (State.retimeEpochs s n epoch) := by
  unfold State.retimeEpochs
  repeat' first
    | with_reducible assumption
    | with_reducible apply State.setSync_keeps
    | with_reducible refine Keeps.ite ?_ ?_
    | with_reducible refine Keeps.foldl ?_ ?_
    | with_reducible refine Keeps.foldl_fst ?_ ?_
    | intro _
    | split
    | dsimp only
    | rfl
    | refine Keeps.upd ?_
    | simp only [updAt_length, List.length_map]

theorem State.beginFrame_keeps {r s : State} (h : Keeps r s) (n : Nat) (kind : Nat) (edge : Int) :
    Keeps r (State.beginFrame s n kind edge) := by
  unfold State.beginFrame
  repeat' first
    | with_reducible assumption
    | with_reducible apply State.setOut_keeps
    | with_reducible apply State.put_keeps
    | with_reducible apply State.resetPacing_keeps
    | with_reducible apply State.retimeEpochs_keeps
    | with_reducible apply State.choosePull_keeps
    | with_reducible refine Keeps.ite ?_ ?_
    | with_reducible refine Keeps.foldl ?_ ?_
    | with_reducible refine Keeps.foldl_fst ?_ ?_
    | intro _
    | split
    | dsimp only
    | rfl
    | refine Keeps.upd ?_
    | simp only [updAt_length, List.length_map]

theorem State.startFrame_keeps {r s : State} (h : Keeps r s) (n : Nat) (edge : Int) (low : BitVec 4) :
    Keeps r (State.startFrame s n edge low) := by
  unfold State.startFrame
  repeat' first
    | with_reducible assumption
    | with_reducible apply State.frameZero_keeps
    | with_reducible apply State.beginFrame_keeps
    | with_reducible apply State.turnGates_keeps
    | with_reducible apply State.changeLanes_keeps
    | with_reducible apply State.gatesIdle_keeps
    | with_reducible apply State.beginCals_keeps
    | with_reducible apply State.chooseLines_keeps
    | with_reducible apply State.setLane_keeps
    | with_reducible apply State.beginRead_keeps
    | with_reducible apply State.odrvForget_keeps
    | with_reducible apply State.setOut_keeps
    | with_reducible apply State.dithFrame_keeps
    | with_reducible apply State.refPulse_keeps
    | with_reducible apply State.wearFrame_keeps
    | with_reducible refine Keeps.ite ?_ ?_
    | with_reducible refine Keeps.foldl ?_ ?_
    | with_reducible refine Keeps.foldl_fst ?_ ?_
    | intro _
    | split
    | dsimp only
    | rfl
    | refine Keeps.upd ?_
    | simp only [updAt_length, List.length_map]

theorem execFrameStart_keeps {r s : State} (h : Keeps r s) (n : Fin 4) (edge : Int) (low : BitVec 4) :
    KeepsOut r (execFrameStart n edge low s) := by
  unfold execFrameStart
  repeat' first
    | with_reducible assumption
    | refine KeepsOut.next ?_
    | with_reducible refine KeepsOut.ite ?_ ?_
    | with_reducible apply State.startFrame_keeps
    | with_reducible apply State.holdEpochs_keeps
    | dsimp only
    | split
    | with_reducible refine Keeps.ite ?_ ?_
    | with_reducible refine Keeps.foldl ?_ ?_
    | with_reducible refine Keeps.foldl_fst ?_ ?_
    | intro _
    | split
    | dsimp only
    | rfl
    | refine Keeps.upd ?_
    | simp only [updAt_length, List.length_map]

theorem State.sendMark_keeps {r s : State} (h : Keeps r s) (l : Nat) (ref : Int) (kind : Nat) (lineLo : Nat) (packet : List Byte) :
    Keeps r (State.sendMark s l ref kind lineLo packet) := by
  unfold State.sendMark
  repeat' first
    | with_reducible assumption
    | with_reducible apply State.sendBlocks_keeps
    | with_reducible apply State.count_keeps
    | with_reducible apply State.sendBlock_keeps
    | with_reducible apply State.setLane_keeps
    | with_reducible refine Keeps.ite ?_ ?_
    | with_reducible refine Keeps.foldl ?_ ?_
    | with_reducible refine Keeps.foldl_fst ?_ ?_
    | intro _
    | split
    | dsimp only
    | rfl
    | refine Keeps.upd ?_
    | simp only [updAt_length, List.length_map]

theorem State.sendBeacon_keeps {r s : State} (h : Keeps r s) (l : Nat) :
    Keeps r (State.sendBeacon s l) := by
  unfold State.sendBeacon
  repeat' first
    | with_reducible assumption
    | with_reducible apply State.setLane_keeps
    | with_reducible refine Keeps.ite ?_ ?_
    | with_reducible refine Keeps.foldl ?_ ?_
    | with_reducible refine Keeps.foldl_fst ?_ ?_
    | intro _
    | split
    | dsimp only
    | rfl
    | refine Keeps.upd ?_
    | simp only [updAt_length, List.length_map]

theorem State.frontLine_keeps {r s : State} (h : Keeps r s) (n : Nat) (l : Nat) (y : Nat) (ref : Int) (r' : Row) :
    Keeps r (State.frontLine s n l y ref r') := by
  unfold State.frontLine
  repeat' first
    | with_reducible assumption
    | with_reducible apply State.sendMark_keeps
    | with_reducible apply State.sendBeacon_keeps
    | with_reducible refine Keeps.ite ?_ ?_
    | with_reducible refine Keeps.foldl ?_ ?_
    | with_reducible refine Keeps.foldl_fst ?_ ?_
    | intro _
    | split
    | dsimp only
    | rfl
    | refine Keeps.upd ?_
    | simp only [updAt_length, List.length_map]

theorem State.backLine_keeps {r s : State} (h : Keeps r s) (n : Nat) (l : Nat) (y : Nat) (ref : Int) :
    Keeps r (State.backLine s n l y ref) := by
  unfold State.backLine
  repeat' first
    | with_reducible assumption
    | with_reducible apply State.sendMark_keeps
    | with_reducible apply State.sendBeacon_keeps
    | with_reducible refine Keeps.ite ?_ ?_
    | with_reducible refine Keeps.foldl ?_ ?_
    | with_reducible refine Keeps.foldl_fst ?_ ?_
    | intro _
    | split
    | dsimp only
    | rfl
    | refine Keeps.upd ?_
    | simp only [updAt_length, List.length_map]

theorem State.laneLine_keeps {r s : State} (h : Keeps r s) (n : Nat) (y : Nat) (driven : Bool) :
    Keeps r (State.laneLine s n y driven) := by
  unfold State.laneLine
  repeat' first
    | with_reducible assumption
    | with_reducible apply State.packRow_keeps
    | with_reducible apply State.laneTo_keeps
    | with_reducible apply State.backLine_keeps
    | with_reducible apply State.frontLine_keeps
    | with_reducible apply State.applyForced_keeps
    | with_reducible refine Keeps.ite ?_ ?_
    | with_reducible refine Keeps.foldl ?_ ?_
    | with_reducible refine Keeps.foldl_fst ?_ ?_
    | intro _
    | split
    | dsimp only
    | rfl
    | refine Keeps.upd ?_
    | simp only [updAt_length, List.length_map]

theorem State.endCalFrame_keeps {r s : State} (h : Keeps r s) (n : Nat) :
    Keeps r (State.endCalFrame s n) := by
  unfold State.endCalFrame
  repeat' first
    | with_reducible assumption
    | with_reducible apply State.takeCal_keeps
    | with_reducible apply State.resumeLanes_keeps
    | with_reducible refine Keeps.ite ?_ ?_
    | with_reducible refine Keeps.foldl ?_ ?_
    | with_reducible refine Keeps.foldl_fst ?_ ?_
    | intro _
    | split
    | dsimp only
    | rfl
    | refine Keeps.upd ?_
    | simp only [updAt_length, List.length_map]

theorem State.closeCals_keeps {r s : State} (h : Keeps r s) (n : Nat) :
    Keeps r (State.closeCals s n) := by
  unfold State.closeCals
  repeat' first
    | with_reducible assumption
    | with_reducible apply State.calUnfinished_keeps
    | with_reducible refine Keeps.ite ?_ ?_
    | with_reducible refine Keeps.foldl ?_ ?_
    | with_reducible refine Keeps.foldl_fst ?_ ?_
    | intro _
    | split
    | dsimp only
    | rfl
    | refine Keeps.upd ?_
    | simp only [updAt_length, List.length_map]

theorem execLineStart_keeps {r s : State} (h : Keeps r s) (n : Fin 4) (low : BitVec 4) :
    KeepsOut r (execLineStart n low s) := by
  unfold execLineStart
  repeat' first
    | with_reducible assumption
    | refine KeepsOut.next ?_
    | with_reducible refine KeepsOut.ite ?_ ?_
    | with_reducible apply State.setOut_keeps
    | with_reducible apply State.puts_keeps
    | with_reducible apply State.laneLine_keeps
    | with_reducible apply State.gateLine_keeps
    | with_reducible apply State.watchTrials_keeps
    | with_reducible apply State.refPulse_keeps
    | with_reducible apply State.closeCals_keeps
    | with_reducible apply State.endCalFrame_keeps
    | dsimp only
    | split
    | with_reducible refine Keeps.ite ?_ ?_
    | with_reducible refine Keeps.foldl ?_ ?_
    | with_reducible refine Keeps.foldl_fst ?_ ?_
    | intro _
    | split
    | dsimp only
    | rfl
    | refine Keeps.upd ?_
    | simp only [updAt_length, List.length_map]

theorem State.alignTo_keeps {r s : State} (h : Keeps r s) (n : Nat) (t : Int) :
    Keeps r (State.alignTo s n t) := by
  unfold State.alignTo
  repeat' first
    | with_reducible assumption
    | with_reducible apply State.setSync_keeps
    | with_reducible refine Keeps.ite ?_ ?_
    | with_reducible refine Keeps.foldl ?_ ?_
    | with_reducible refine Keeps.foldl_fst ?_ ?_
    | intro _
    | split
    | dsimp only
    | rfl
    | refine Keeps.upd ?_
    | simp only [updAt_length, List.length_map]

theorem State.judgePhase_keeps {r s : State} (h : Keeps r s) (n : Nat) (t : Int) :
    Keeps r (State.judgePhase s n t) := by
  unfold State.judgePhase
  repeat' first
    | with_reducible assumption
    | with_reducible apply State.setSync_keeps
    | with_reducible apply State.put_keeps
    | with_reducible apply State.setLock_keeps
    | with_reducible refine Keeps.ite ?_ ?_
    | with_reducible refine Keeps.foldl ?_ ?_
    | with_reducible refine Keeps.foldl_fst ?_ ?_
    | intro _
    | split
    | dsimp only
    | rfl
    | refine Keeps.upd ?_
    | simp only [updAt_length, List.length_map]

theorem State.refEdge_keeps {r s : State} (h : Keeps r s) (n : Nat) (t : Int) :
    Keeps r (State.refEdge s n t) := by
  unfold State.refEdge
  repeat' first
    | with_reducible assumption
    | with_reducible apply State.setSync_keeps
    | with_reducible apply State.alignTo_keeps
    | with_reducible apply State.put_keeps
    | with_reducible apply State.setLock_keeps
    | with_reducible apply State.puts_keeps
    | with_reducible apply State.judgePhase_keeps
    | with_reducible refine Keeps.ite ?_ ?_
    | with_reducible refine Keeps.foldl ?_ ?_
    | with_reducible refine Keeps.foldl_fst ?_ ?_
    | intro _
    | split
    | dsimp only
    | rfl
    | refine Keeps.upd ?_
    | simp only [updAt_length, List.length_map]

theorem execSyncWindowClose_keeps {r s : State} (h : Keeps r s) (n : Fin 4) (t : Int) (met : Bool) :
    KeepsOut r (execSyncWindowClose n t met s) := by
  unfold execSyncWindowClose
  repeat' first
    | with_reducible assumption
    | refine KeepsOut.next ?_
    | with_reducible refine KeepsOut.ite ?_ ?_
    | with_reducible apply State.setSync_keeps
    | with_reducible apply State.count_keeps
    | with_reducible apply State.setLock_keeps
    | dsimp only
    | split
    | with_reducible refine Keeps.ite ?_ ?_
    | with_reducible refine Keeps.foldl ?_ ?_
    | with_reducible refine Keeps.foldl_fst ?_ ?_
    | intro _
    | split
    | dsimp only
    | rfl
    | refine Keeps.upd ?_
    | simp only [updAt_length, List.length_map]

theorem execChainEpoch_keeps {r s : State} (h : Keeps r s) (n : Fin 4) (t : Int) :
    KeepsOut r (execChainEpoch n t s) := by
  unfold execChainEpoch
  repeat' first
    | with_reducible assumption
    | refine KeepsOut.next ?_
    | with_reducible refine KeepsOut.ite ?_ ?_
    | with_reducible apply State.setLock_keeps
    | with_reducible apply State.refEdge_keeps
    | dsimp only
    | split
    | with_reducible refine Keeps.ite ?_ ?_
    | with_reducible refine Keeps.foldl ?_ ?_
    | with_reducible refine Keeps.foldl_fst ?_ ?_
    | intro _
    | split
    | dsimp only
    | rfl
    | refine Keeps.upd ?_
    | simp only [updAt_length, List.length_map]

theorem execTeEdge_keeps {r s : State} (h : Keeps r s) (n : Fin 4) (falling : Bool) (t : Int) :
    KeepsOut r (execTeEdge n falling t s) := by
  unfold execTeEdge
  repeat' first
    | with_reducible assumption
    | refine KeepsOut.next ?_
    | with_reducible refine KeepsOut.ite ?_ ?_
    | with_reducible apply State.count_keeps
    | with_reducible apply State.setSync_keeps
    | with_reducible apply State.setLock_keeps
    | dsimp only
    | split
    | with_reducible refine Keeps.ite ?_ ?_
    | with_reducible refine Keeps.foldl ?_ ?_
    | with_reducible refine Keeps.foldl_fst ?_ ?_
    | intro _
    | split
    | dsimp only
    | rfl
    | refine Keeps.upd ?_
    | simp only [updAt_length, List.length_map]

theorem execTeTimeout_keeps {r s : State} (h : Keeps r s) (n : Fin 4) (met : Bool) (low : BitVec 4) :
    KeepsOut r (execTeTimeout n met low s) := by
  unfold execTeTimeout
  repeat' first
    | with_reducible assumption
    | refine KeepsOut.next ?_
    | with_reducible refine KeepsOut.ite ?_ ?_
    | with_reducible apply State.count_keeps
    | with_reducible apply State.setLock_keeps
    | with_reducible apply State.raise_keeps
    | with_reducible apply State.startFrame_keeps
    | with_reducible apply State.setSync_keeps
    | dsimp only
    | split
    | with_reducible refine Keeps.ite ?_ ?_
    | with_reducible refine Keeps.foldl ?_ ?_
    | with_reducible refine Keeps.foldl_fst ?_ ?_
    | intro _
    | split
    | dsimp only
    | rfl
    | refine Keeps.upd ?_
    | simp only [updAt_length, List.length_map]

end Sys2Proof.Machine
end

