-- ==== Sys2Proof/Laws/Keeps/Mailbox.lean ====
section
/-!
SUPPORT. What the operations of Machine/Mailbox.lean keep.
-/

set_option Elab.async false
set_option linter.all false

namespace Sys2Proof.Machine

theorem State.mailboxCmd_keeps {r s : State} (h : Keeps r s) (op : Nat → Bool) (pf0 : Bool) (run : Nat → State → State) (hrun : ∀ x0 t, Keeps r t → Keeps r (run x0 t)) :
    Keeps r (State.mailboxCmd s op pf0 run) := by
  unfold State.mailboxCmd
  repeat' first
    | with_reducible assumption
    | apply hrun
    | with_reducible apply State.setPurser_keeps
    | with_reducible apply State.mboxDone_keeps
    | with_reducible refine Keeps.ite ?_ ?_
    | with_reducible refine Keeps.foldl ?_ ?_
    | with_reducible refine Keeps.foldl_fst ?_ ?_
    | intro _
    | split
    | dsimp only
    | rfl
    | refine Keeps.upd ?_
    | simp only [updAt_length, List.length_map]

theorem execGetInfo_keeps {r s : State} (h : Keeps r s) :
    KeepsOut r (execGetInfo s) := by
  unfold execGetInfo
  repeat' first
    | with_reducible assumption
    | refine KeepsOut.next ?_
    | with_reducible refine KeepsOut.ite ?_ ?_
    | with_reducible apply State.mailboxCmd_keeps
    | with_reducible apply State.mboxDone_keeps
    | dsimp only
    | split
    | with_reducible refine Keeps.ite ?_ ?_
    | with_reducible refine Keeps.foldl ?_ ?_
    | with_reducible refine Keeps.foldl_fst ?_ ?_
    | intro _
    | split
    | dsimp only
    | rfl
    | refine Keeps.upd ?_
    | simp only [updAt_length, List.length_map]

theorem execEventTest_keeps {r s : State} (h : Keeps r s) :
    KeepsOut r (execEventTest s) := by
  unfold execEventTest
  repeat' first
    | with_reducible assumption
    | refine KeepsOut.next ?_
    | with_reducible refine KeepsOut.ite ?_ ?_
    | with_reducible apply State.mailboxCmd_keeps
    | with_reducible apply State.raise_keeps
    | with_reducible apply State.mboxDone_keeps
    | dsimp only
    | split
    | with_reducible refine Keeps.ite ?_ ?_
    | with_reducible refine Keeps.foldl ?_ ?_
    | with_reducible refine Keeps.foldl_fst ?_ ?_
    | intro _
    | split
    | dsimp only
    | rfl
    | refine Keeps.upd ?_
    | simp only [updAt_length, List.length_map]

theorem execUnknownOp_keeps {r s : State} (h : Keeps r s) :
    KeepsOut r (execUnknownOp s) := by
  unfold execUnknownOp
  repeat' first
    | with_reducible assumption
    | refine KeepsOut.next ?_
    | with_reducible refine KeepsOut.ite ?_ ?_
    | with_reducible apply State.mailboxCmd_keeps
    | with_reducible apply State.mboxDone_keeps
    | dsimp only
    | split
    | with_reducible refine Keeps.ite ?_ ?_
    | with_reducible refine Keeps.foldl ?_ ?_
    | with_reducible refine Keeps.foldl_fst ?_ ?_
    | intro _
    | split
    | dsimp only
    | rfl
    | refine Keeps.upd ?_
    | simp only [updAt_length, List.length_map]

theorem execEvtSoftRaise_keeps {r s : State} (h : Keeps r s) (w : Writer) :
    KeepsOut r (execEvtSoftRaise w s) := by
  unfold execEvtSoftRaise
  repeat' first
    | with_reducible assumption
    | refine KeepsOut.next ?_
    | with_reducible refine KeepsOut.ite ?_ ?_
    | with_reducible apply State.writeBy_keeps
    | with_reducible apply State.raise_keeps
    | dsimp only
    | split
    | with_reducible refine Keeps.ite ?_ ?_
    | with_reducible refine Keeps.foldl ?_ ?_
    | with_reducible refine Keeps.foldl_fst ?_ ?_
    | intro _
    | split
    | dsimp only
    | rfl
    | refine Keeps.upd ?_
    | simp only [updAt_length, List.length_map]

theorem execCalRead_keeps {r s : State} (h : Keeps r s) (ok : Bool) :
    KeepsOut r (execCalRead ok s) := by
  unfold execCalRead
  repeat' first
    | with_reducible assumption
    | refine KeepsOut.next ?_
    | with_reducible refine KeepsOut.ite ?_ ?_
    | with_reducible apply State.mailboxCmd_keeps
    | with_reducible apply State.mboxDone_keeps
    | with_reducible apply State.purserWrite_keeps
    | dsimp only
    | split
    | with_reducible refine Keeps.ite ?_ ?_
    | with_reducible refine Keeps.foldl ?_ ?_
    | with_reducible refine Keeps.foldl_fst ?_ ?_
    | intro _
    | split
    | dsimp only
    | rfl
    | refine Keeps.upd ?_
    | simp only [updAt_length, List.length_map]

theorem State.mailboxStore_keeps {r s : State} (h : Keeps r s) (k : Nat) (kind : Nat) (payload : List Byte) (digests : Nat) :
    Keeps r (State.mailboxStore s k kind payload digests) := by
  unfold State.mailboxStore
  repeat' first
    | with_reducible assumption
    | with_reducible apply State.mboxDone_keeps
    | with_reducible apply State.queueStore_keeps
    | with_reducible refine Keeps.ite ?_ ?_
    | with_reducible refine Keeps.foldl ?_ ?_
    | with_reducible refine Keeps.foldl_fst ?_ ?_
    | intro _
    | split
    | dsimp only
    | rfl
    | refine Keeps.upd ?_
    | simp only [updAt_length, List.length_map]

theorem execCalStore_keeps {r s : State} (h : Keeps r s) (data : Option (List Byte)) :
    KeepsOut r (execCalStore data s) := by
  unfold execCalStore
  repeat' first
    | with_reducible assumption
    | refine KeepsOut.next ?_
    | with_reducible refine KeepsOut.ite ?_ ?_
    | with_reducible apply State.mailboxCmd_keeps
    | with_reducible apply State.mboxDone_keeps
    | with_reducible apply State.mailboxStore_keeps
    | with_reducible apply State.hostReads_keeps
    | dsimp only
    | split
    | with_reducible refine Keeps.ite ?_ ?_
    | with_reducible refine Keeps.foldl ?_ ?_
    | with_reducible refine Keeps.foldl_fst ?_ ?_
    | intro _
    | split
    | dsimp only
    | rfl
    | refine Keeps.upd ?_
    | simp only [updAt_length, List.length_map]

theorem execCalClear_keeps {r s : State} (h : Keeps r s) :
    KeepsOut r (execCalClear s) := by
  unfold execCalClear
  repeat' first
    | with_reducible assumption
    | refine KeepsOut.next ?_
    | with_reducible refine KeepsOut.ite ?_ ?_
    | with_reducible apply State.mailboxCmd_keeps
    | with_reducible apply State.mboxDone_keeps
    | with_reducible apply State.queueStore_keeps
    | dsimp only
    | split
    | with_reducible refine Keeps.ite ?_ ?_
    | with_reducible refine Keeps.foldl ?_ ?_
    | with_reducible refine Keeps.foldl_fst ?_ ?_
    | intro _
    | split
    | dsimp only
    | rfl
    | refine Keeps.upd ?_
    | simp only [updAt_length, List.length_map]

theorem execCalSetDigest_keeps {r s : State} (h : Keeps r s) :
    KeepsOut r (execCalSetDigest s) := by
  unfold execCalSetDigest
  repeat' first
    | with_reducible assumption
    | refine KeepsOut.next ?_
    | with_reducible refine KeepsOut.ite ?_ ?_
    | with_reducible apply State.mailboxCmd_keeps
    | with_reducible apply State.mboxDone_keeps
    | with_reducible apply State.mailboxStore_keeps
    | dsimp only
    | split
    | with_reducible refine Keeps.ite ?_ ?_
    | with_reducible refine Keeps.foldl ?_ ?_
    | with_reducible refine Keeps.foldl_fst ?_ ?_
    | intro _
    | split
    | dsimp only
    | rfl
    | refine Keeps.upd ?_
    | simp only [updAt_length, List.length_map]

theorem execCalStatus_keeps {r s : State} (h : Keeps r s) :
    KeepsOut r (execCalStatus s) := by
  unfold execCalStatus
  repeat' first
    | with_reducible assumption
    | refine KeepsOut.next ?_
    | with_reducible refine KeepsOut.ite ?_ ?_
    | with_reducible apply State.mailboxCmd_keeps
    | with_reducible apply State.bumpFree_keeps
    | with_reducible apply State.mboxDone_keeps
    | dsimp only
    | split
    | with_reducible refine Keeps.ite ?_ ?_
    | with_reducible refine Keeps.foldl ?_ ?_
    | with_reducible refine Keeps.foldl_fst ?_ ?_
    | intro _
    | split
    | dsimp only
    | rfl
    | refine Keeps.upd ?_
    | simp only [updAt_length, List.length_map]

theorem OtpState.fuse_kept (o : OtpState) (sign : Bool) (key sub : Nat) : o.kept (o.fuse sign key sub) := by
  have pick : ∀ (c : Prop) [Decidable c] (x : OtpState), o.kept x → o.kept (if c then o else x) := fun c _ x k => by
    split
    · exact OtpState.kept_refl _
    · exact k
  refine pick _ _ ⟨?_, ?_, ?_, Nat.le_succ _⟩
  · intro e; simp [e]
  · intro k e; simp [e]
  · intro k e; simp [e]

theorem execOtpFuse_keeps {r s : State} (h : Keeps r s) : KeepsOut r (execOtpFuse s) := by
  refine KeepsOut.next (State.mailboxCmd_keeps h _ _ _ fun k t i => Keeps.ite (State.mboxDone_keeps i _ _ _ _) ?_)
  exact Keeps.ite (State.mboxDone_keeps (State.raiseIf_keeps (i.setOtp (OtpState.fuse_kept ..)) _ _) _ _ _ _)
    (State.mboxDone_keeps (State.raiseIf_keeps (i.setOtp (OtpState.fuse_kept ..)) _ _) _ _ _ _)

theorem State.swapRefused_keeps {r s : State} (h : Keeps r s) (k : Nat) (kind : Nat) (unit : Nat) (row : Nat) (result : Nat) :
    Keeps r (State.swapRefused s k kind unit row result) := by
  unfold State.swapRefused
  repeat' first
    | with_reducible assumption
    | with_reducible apply State.logSwap_keeps
    | with_reducible apply State.mboxDone_keeps
    | with_reducible refine Keeps.ite ?_ ?_
    | with_reducible refine Keeps.foldl ?_ ?_
    | with_reducible refine Keeps.foldl_fst ?_ ?_
    | intro _
    | split
    | dsimp only
    | rfl
    | refine Keeps.upd ?_
    | simp only [updAt_length, List.length_map]

theorem State.commandRepair_keeps {r s : State} (h : Keeps r s) (k : Nat) (kind : Nat) (unit : Nat) (row : Nat) (r' : Repair) (again : Bool) (free : Nat) :
    Keeps r (State.commandRepair s k kind unit row r' again free) := by
  unfold State.commandRepair
  repeat' first
    | with_reducible assumption
    | with_reducible apply State.swapRefused_keeps
    | with_reducible apply State.beginRepair_keeps
    | with_reducible refine Keeps.ite ?_ ?_
    | with_reducible refine Keeps.foldl ?_ ?_
    | with_reducible refine Keeps.foldl_fst ?_ ?_
    | intro _
    | split
    | dsimp only
    | rfl
    | refine Keeps.upd ?_
    | simp only [updAt_length, List.length_map]

theorem execReliefSwap_keeps {r s : State} (h : Keeps r s) :
    KeepsOut r (execReliefSwap s) := by
  unfold execReliefSwap
  repeat' first
    | with_reducible assumption
    | refine KeepsOut.next ?_
    | with_reducible refine KeepsOut.ite ?_ ?_
    | with_reducible apply State.mailboxCmd_keeps
    | with_reducible apply State.swapRefused_keeps
    | with_reducible apply State.askLaneSwap_keeps
    | with_reducible apply State.askChainSwap_keeps
    | with_reducible apply State.askReachSwap_keeps
    | with_reducible apply State.commandRepair_keeps
    | with_reducible apply State.mboxDone_keeps
    | dsimp only
    | split
    | with_reducible refine Keeps.ite ?_ ?_
    | with_reducible refine Keeps.foldl ?_ ?_
    | with_reducible refine Keeps.foldl_fst ?_ ?_
    | intro _
    | split
    | dsimp only
    | rfl
    | refine Keeps.upd ?_
    | simp only [updAt_length, List.length_map]

end Sys2Proof.Machine
end

