-- ==== Sys2Proof/Laws/Keeps/Sst.lean ====
section
/-!
SUPPORT. What the operations of Machine/Sst.lean keep.
-/

set_option Elab.async false
set_option linter.all false

namespace Sys2Proof.Machine

theorem State.sstCommand_keeps {r s : State} (h : Keeps r s) (w : Writer) (op : Nat) (slot : Nat) (hold : Bool) (k : State → State) (hk : ∀ t, Keeps r t → Keeps r (k t)) :
    Keeps r (State.sstCommand s w op slot hold k) := by
  unfold State.sstCommand
  repeat' first
    | with_reducible assumption
    | apply hk
    | with_reducible apply State.writeBy_keeps
    | with_reducible apply State.put_keeps
    | with_reducible apply State.raise_keeps
    | with_reducible apply State.puts_keeps
    | with_reducible refine Keeps.ite ?_ ?_
    | with_reducible refine Keeps.foldl ?_ ?_
    | with_reducible refine Keeps.foldl_fst ?_ ?_
    | intro _
    | split
    | dsimp only
    | rfl
    | refine Keeps.upd ?_
    | simp only [updAt_length, List.length_map]

theorem State.setSlot_keeps {r s : State} (h : Keeps r s) (k : Nat) (ws : List Word) :
    Keeps r (State.setSlot s k ws) := by
  unfold State.setSlot
  repeat' first
    | with_reducible assumption
    | with_reducible refine Keeps.ite ?_ ?_
    | with_reducible refine Keeps.foldl ?_ ?_
    | with_reducible refine Keeps.foldl_fst ?_ ?_
    | intro _
    | split
    | dsimp only
    | rfl
    | refine Keeps.upd ?_
    | simp only [updAt_length, List.length_map]

theorem State.sstVerdict_keeps {r s : State} (h : Keeps r s) (k : Nat) (ws : List Word) (v : Verdict) :
    Keeps r (State.sstVerdict s k ws v) := by
  unfold State.sstVerdict
  repeat' first
    | with_reducible assumption
    | with_reducible apply State.setSlot_keeps
    | with_reducible apply State.puts_keeps
    | with_reducible apply State.sstEnd_keeps
    | with_reducible apply State.raiseIf_keeps
    | with_reducible refine Keeps.ite ?_ ?_
    | with_reducible refine Keeps.foldl ?_ ?_
    | with_reducible refine Keeps.foldl_fst ?_ ?_
    | intro _
    | split
    | dsimp only
    | rfl
    | refine Keeps.upd ?_
    | simp only [updAt_length, List.length_map]

theorem State.sstReads_keeps {r s : State} (h : Keeps r s) (k : Nat) :
    Keeps r (State.sstReads s k) := by
  unfold State.sstReads
  repeat' first
    | with_reducible assumption
    | with_reducible apply State.npPart_keeps
    | with_reducible apply State.hostReads_keeps
    | with_reducible refine Keeps.ite ?_ ?_
    | with_reducible refine Keeps.foldl ?_ ?_
    | with_reducible refine Keeps.foldl_fst ?_ ?_
    | intro _
    | split
    | dsimp only
    | rfl
    | refine Keeps.upd ?_
    | simp only [updAt_length, List.length_map]

theorem execSstLoad_keeps {r s : State} (h : Keeps r s) (w : Writer) (slot : Fin 4) :
    KeepsOut r (execSstLoad w slot s) := by
  unfold execSstLoad
  repeat' first
    | with_reducible assumption
    | refine KeepsOut.next ?_
    | with_reducible refine KeepsOut.ite ?_ ?_
    | with_reducible apply State.sstCommand_keeps
    | with_reducible apply State.sstEnd_keeps
    | with_reducible apply State.sstVerdict_keeps
    | with_reducible apply State.setSlot_keeps
    | with_reducible apply State.put_keeps
    | with_reducible apply State.sstReads_keeps
    | dsimp only
    | split
    | with_reducible refine Keeps.ite ?_ ?_
    | with_reducible refine Keeps.foldl ?_ ?_
    | with_reducible refine Keeps.foldl_fst ?_ ?_
    | intro _
    | split
    | dsimp only
    | rfl
    | refine Keeps.upd ?_
    | simp only [updAt_length, List.length_map]

theorem execSstFetchComplete_keeps {r s : State} (h : Keeps r s) (ok : Bool) (words : List Word) :
    KeepsOut r (execSstFetchComplete ok words s) := by
  unfold execSstFetchComplete
  repeat' first
    | with_reducible assumption
    | refine KeepsOut.next ?_
    | with_reducible refine KeepsOut.ite ?_ ?_
    | with_reducible apply State.sstVerdict_keeps
    | dsimp only
    | split
    | with_reducible refine Keeps.ite ?_ ?_
    | with_reducible refine Keeps.foldl ?_ ?_
    | with_reducible refine Keeps.foldl_fst ?_ ?_
    | intro _
    | split
    | dsimp only
    | rfl
    | refine Keeps.upd ?_
    | simp only [updAt_length, List.length_map]

theorem execSstDiscard_keeps {r s : State} (h : Keeps r s) (w : Writer) (slot : Fin 4) :
    KeepsOut r (execSstDiscard w slot s) := by
  unfold execSstDiscard
  repeat' first
    | with_reducible assumption
    | refine KeepsOut.next ?_
    | with_reducible refine KeepsOut.ite ?_ ?_
    | with_reducible apply State.sstCommand_keeps
    | with_reducible apply State.sstEnd_keeps
    | with_reducible apply State.setSlot_keeps
    | with_reducible apply State.puts_keeps
    | dsimp only
    | split
    | with_reducible refine Keeps.ite ?_ ?_
    | with_reducible refine Keeps.foldl ?_ ?_
    | with_reducible refine Keeps.foldl_fst ?_ ?_
    | intro _
    | split
    | dsimp only
    | rfl
    | refine Keeps.upd ?_
    | simp only [updAt_length, List.length_map]

theorem execStoreBoot_keeps {r s : State} (h : Keeps r s) (w : Writer) (slot : Fin 4) :
    KeepsOut r (execStoreBoot w slot s) := by
  unfold execStoreBoot
  repeat' first
    | with_reducible assumption
    | refine KeepsOut.next ?_
    | with_reducible refine KeepsOut.ite ?_ ?_
    | with_reducible apply State.sstCommand_keeps
    | with_reducible apply State.sstEnd_keeps
    | with_reducible apply State.queueStore_keeps
    | dsimp only
    | split
    | with_reducible refine Keeps.ite ?_ ?_
    | with_reducible refine Keeps.foldl ?_ ?_
    | with_reducible refine Keeps.foldl_fst ?_ ?_
    | intro _
    | split
    | dsimp only
    | rfl
    | refine Keeps.upd ?_
    | simp only [updAt_length, List.length_map]

theorem execClearBoot_keeps {r s : State} (h : Keeps r s) (w : Writer) (slot : Fin 4) :
    KeepsOut r (execClearBoot w slot s) := by
  unfold execClearBoot
  repeat' first
    | with_reducible assumption
    | refine KeepsOut.next ?_
    | with_reducible refine KeepsOut.ite ?_ ?_
    | with_reducible apply State.sstCommand_keeps
    | with_reducible apply State.queueStore_keeps
    | dsimp only
    | split
    | with_reducible refine Keeps.ite ?_ ?_
    | with_reducible refine Keeps.foldl ?_ ?_
    | with_reducible refine Keeps.foldl_fst ?_ ?_
    | intro _
    | split
    | dsimp only
    | rfl
    | refine Keeps.upd ?_
    | simp only [updAt_length, List.length_map]

theorem execCmdInvalid_keeps {r s : State} (h : Keeps r s) (w : Writer) (op : Fin 16) (slot : Fin 4) :
    KeepsOut r (execCmdInvalid w op slot s) := by
  unfold execCmdInvalid
  repeat' first
    | with_reducible assumption
    | refine KeepsOut.next ?_
    | with_reducible refine KeepsOut.ite ?_ ?_
    | with_reducible apply State.sstCommand_keeps
    | with_reducible apply State.sstEnd_keeps
    | dsimp only
    | split
    | with_reducible refine Keeps.ite ?_ ?_
    | with_reducible refine Keeps.foldl ?_ ?_
    | with_reducible refine Keeps.foldl_fst ?_ ?_
    | intro _
    | split
    | dsimp only
    | rfl
    | refine Keeps.upd ?_
    | simp only [updAt_length, List.length_map]

theorem State.takeRole_keeps {r s : State} (h : Keeps r s) (l : List Word) :
    Keeps r (State.takeRole s l) := by
  unfold State.takeRole
  repeat' first
    | with_reducible assumption
    | with_reducible apply State.puts_keeps
    | with_reducible apply State.showRole_keeps
    | with_reducible apply State.holdEpochs_keeps
    | with_reducible refine Keeps.ite ?_ ?_
    | with_reducible refine Keeps.foldl ?_ ?_
    | with_reducible refine Keeps.foldl_fst ?_ ?_
    | intro _
    | split
    | dsimp only
    | rfl
    | refine Keeps.upd ?_
    | simp only [updAt_length, List.length_map]

theorem State.autoSwaps_keeps {r s : State} (h : Keeps r s) :
    Keeps r (State.autoSwaps s) := by
  unfold State.autoSwaps
  repeat' first
    | with_reducible assumption
    | with_reducible apply State.askLaneSwap_keeps
    | with_reducible apply State.askChainSwap_keeps
    | with_reducible apply State.askReachSwap_keeps
    | with_reducible apply State.wantRepair_keeps
    | with_reducible refine Keeps.ite ?_ ?_
    | with_reducible refine Keeps.foldl ?_ ?_
    | with_reducible refine Keeps.foldl_fst ?_ ?_
    | intro _
    | split
    | dsimp only
    | rfl
    | refine Keeps.upd ?_
    | simp only [updAt_length, List.length_map]

theorem State.takeGlobal_keeps {r s : State} (h : Keeps r s) (ws : List Word) :
    Keeps r (State.takeGlobal s ws) := by
  unfold State.takeGlobal
  repeat' first
    | with_reducible assumption
    | with_reducible apply State.takeRole_keeps
    | with_reducible apply State.autoSwaps_keeps
    | with_reducible refine Keeps.ite ?_ ?_
    | with_reducible refine Keeps.foldl ?_ ?_
    | with_reducible refine Keeps.foldl_fst ?_ ?_
    | intro _
    | split
    | dsimp only
    | rfl
    | refine Keeps.upd ?_
    | simp only [updAt_length, List.length_map]

theorem State.introOutput_keeps {r s : State} (h : Keeps r s) (n : Nat) (new : OutConfig) :
    Keeps r (State.introOutput s n new) := by
  unfold State.introOutput
  repeat' first
    | with_reducible assumption
    | with_reducible apply State.introStage_keeps
    | with_reducible apply State.loadTiming_keeps
    | with_reducible apply State.puts_keeps
    | with_reducible refine Keeps.ite ?_ ?_
    | with_reducible refine Keeps.foldl ?_ ?_
    | with_reducible refine Keeps.foldl_fst ?_ ?_
    | intro _
    | split
    | dsimp only
    | rfl
    | refine Keeps.upd ?_
    | simp only [updAt_length, List.length_map]

theorem State.applyGo_keeps {r s : State} (h : Keeps r s) (n : Nat) (late : Bool) :
    Keeps r (State.applyGo s n late) := by
  unfold State.applyGo
  repeat' first
    | with_reducible assumption
    | with_reducible apply State.put_keeps
    | with_reducible apply State.count_keeps
    | with_reducible apply State.raise_keeps
    | with_reducible refine Keeps.ite ?_ ?_
    | with_reducible refine Keeps.foldl ?_ ?_
    | with_reducible refine Keeps.foldl_fst ?_ ?_
    | intro _
    | split
    | dsimp only
    | rfl
    | refine Keeps.upd ?_
    | simp only [updAt_length, List.length_map]

theorem State.acceptApply_keeps {r s : State} (h : Keeps r s) (k : Nat) (hold : Bool) (copyCycle : BitVec 4) :
    Keeps r (State.acceptApply s k hold copyCycle) := by
  unfold State.acceptApply
  repeat' first
    | with_reducible assumption
    | with_reducible apply State.puts_keeps
    | with_reducible apply State.sstEnd_keeps
    | with_reducible apply State.takeGlobal_keeps
    | with_reducible apply State.landRights_keeps
    | with_reducible apply State.landBanks_keeps
    | with_reducible apply State.introOutput_keeps
    | with_reducible apply State.installOut_keeps
    | with_reducible apply State.landAll_keeps
    | with_reducible apply State.showRoles_keeps
    | with_reducible apply State.applyGo_keeps
    | with_reducible apply State.completeApply_keeps
    | with_reducible refine Keeps.ite ?_ ?_
    | with_reducible refine Keeps.foldl ?_ ?_
    | with_reducible refine Keeps.foldl_fst ?_ ?_
    | intro _
    | split
    | dsimp only
    | rfl
    | refine Keeps.upd ?_
    | simp only [updAt_length, List.length_map]

theorem execSstApply_keeps {r s : State} (h : Keeps r s) (w : Writer) (slot : Fin 4) (hold : Bool) (copyCycle : BitVec 4) :
    KeepsOut r (execSstApply w slot hold copyCycle s) := by
  unfold execSstApply
  repeat' first
    | with_reducible assumption
    | refine KeepsOut.next ?_
    | with_reducible refine KeepsOut.ite ?_ ?_
    | with_reducible apply State.sstCommand_keeps
    | with_reducible apply State.sstEnd_keeps
    | with_reducible apply State.puts_keeps
    | with_reducible apply State.acceptApply_keeps
    | dsimp only
    | split
    | with_reducible refine Keeps.ite ?_ ?_
    | with_reducible refine Keeps.foldl ?_ ?_
    | with_reducible refine Keeps.foldl_fst ?_ ?_
    | intro _
    | split
    | dsimp only
    | rfl
    | refine Keeps.upd ?_
    | simp only [updAt_length, List.length_map]

/-- The structures of the outputs replaced by as many. -/
theorem Keeps.setCfgs {r s : State} (h : Keeps r s) {l : List OutConfig} (hl : l.length = 4) :
    Keeps r { s with sst := { s.sst with outs := l } } :=
  ⟨h.queue, fun i => by
    have j := h.inv i
    refine ⟨j.1, ?_⟩
    have k := j.2
    simp only [State.shape, partShape, List.cons.injEq] at k ⊢
    simp [k, hl], h.fuses, h.sent, h.free⟩

theorem State.bootWith_keeps {r s : State} (h : Keeps r s) (ws : List Word) (null : Bool) : Keeps r (s.bootWith ws null) := by
  have h1 : Keeps r ((List.range 256).foldl (fun t b =>
      let e := (bankEntry (payOf (streamRecords ws) 4) b).getD 0
      t.puts [(F.holdOwnerOwner b, bits e 31 24), (F.holdOwnerNoBorrow b, bits e 17 17), (F.holdOwnerWinterKeep b, bits e 18 18)]) s) :=
    h.foldl fun t b k => State.puts_keeps k _
  unfold State.bootWith
  dsimp only at h1 ⊢
  generalize (List.range 256).foldl _ s = s1 at h1 ⊢
  refine State.puts_keeps (Keeps.foldl (State.showReaches_keeps (Keeps.setCfgs (Keeps.foldl (State.takeGlobal_keeps (Keeps.upd h1) ws)
    fun t n k => State.introOutput_keeps k _ _) (by simp))) fun t n k => Keeps.ite (State.put_keeps (State.showRoles_keeps
    (State.landAll_keeps k _ _) _) _ _) k) _

theorem State.bootStructure_keeps {r s : State} (h : Keeps r s) :
    Keeps r (State.bootStructure s) := by
  unfold State.bootStructure
  repeat' first
    | with_reducible assumption
    | with_reducible apply State.bootWith_keeps
    | with_reducible apply State.put_keeps
    | with_reducible apply State.raise_keeps
    | with_reducible refine Keeps.ite ?_ ?_
    | with_reducible refine Keeps.foldl ?_ ?_
    | with_reducible refine Keeps.foldl_fst ?_ ?_
    | intro _
    | split
    | dsimp only
    | rfl
    | refine Keeps.upd ?_
    | simp only [updAt_length, List.length_map]

end Sys2Proof.Machine
end

