-- ==== Sys2Proof/Laws/Keeps/FerryCmd.lean ====
section
/-!
SUPPORT. What the operations of Machine/FerryCmd.lean keep.
-/

set_option Elab.async false
set_option linter.all false

namespace Sys2Proof.Machine

theorem State.cutChan_keeps {r s : State} (h : Keeps r s) (ch : Nat) (bank : Nat) (oldOwner : Nat) :
    Keeps r (State.cutChan s ch bank oldOwner) := by
  unfold State.cutChan
  repeat' first
    | with_reducible assumption
    | with_reducible apply State.fetchEnd_keeps
    | with_reducible apply State.readEnd_keeps
    | with_reducible apply State.setChunk_keeps
    | with_reducible apply State.chanHalt_keeps
    | with_reducible apply State.storeRun_keeps
    | with_reducible apply State.advance_keeps
    | with_reducible apply State.setXfer_keeps
    | with_reducible apply State.xferEnd_keeps
    | with_reducible refine Keeps.ite ?_ ?_
    | with_reducible refine Keeps.foldl ?_ ?_
    | with_reducible refine Keeps.foldl_fst ?_ ?_
    | intro _
    | split
    | dsimp only
    | rfl
    | refine Keeps.upd ?_
    | simp only [updAt_length, List.length_map]

theorem execFerryDrained_keeps {r s : State} (h : Keeps r s) (bank : Fin 256) :
    KeepsOut r (execFerryDrained bank s) := by
  unfold execFerryDrained
  repeat' first
    | with_reducible assumption
    | refine KeepsOut.next ?_
    | with_reducible refine KeepsOut.ite ?_ ?_
    | with_reducible apply State.drainBank_keeps
    | with_reducible apply State.endFerry_keeps
    | with_reducible apply State.dmaGo_keeps
    | dsimp only
    | split
    | with_reducible refine Keeps.ite ?_ ?_
    | with_reducible refine Keeps.foldl ?_ ?_
    | with_reducible refine Keeps.foldl_fst ?_ ?_
    | intro _
    | split
    | dsimp only
    | rfl
    | refine Keeps.upd ?_
    | simp only [updAt_length, List.length_map]

theorem execFerryDrainLimit_keeps {r s : State} (h : Keeps r s) (bank : Fin 256) (met : Bool) :
    KeepsOut r (execFerryDrainLimit bank met s) := by
  unfold execFerryDrainLimit
  repeat' first
    | with_reducible assumption
    | refine KeepsOut.next ?_
    | with_reducible refine KeepsOut.ite ?_ ?_
    | with_reducible apply State.cutChan_keeps
    | with_reducible apply State.cutBank_keeps
    | with_reducible apply State.raise_keeps
    | with_reducible apply State.endFerry_keeps
    | with_reducible apply State.dmaGo_keeps
    | with_reducible apply State.drainBank_keeps
    | dsimp only
    | split
    | with_reducible refine Keeps.ite ?_ ?_
    | with_reducible refine Keeps.foldl ?_ ?_
    | with_reducible refine Keeps.foldl_fst ?_ ?_
    | intro _
    | split
    | dsimp only
    | rfl
    | refine Keeps.upd ?_
    | simp only [updAt_length, List.length_map]

theorem State.holdGo_keeps {r s : State} (h : Keeps r s) (before : State) :
    Keeps r (State.holdGo s before) := by
  unfold State.holdGo
  repeat' first
    | with_reducible assumption
    | with_reducible apply State.marchGo_keeps
    | with_reducible apply State.conflict_keeps
    | with_reducible apply State.dmaGo_keeps
    | with_reducible refine Keeps.ite ?_ ?_
    | with_reducible refine Keeps.foldl ?_ ?_
    | with_reducible refine Keeps.foldl_fst ?_ ?_
    | intro _
    | split
    | dsimp only
    | rfl
    | refine Keeps.upd ?_
    | simp only [updAt_length, List.length_map]

end Sys2Proof.Machine
end

