-- ==== Sys2Proof/Laws/Keeps/TimeCmd.lean ====
section
/-!
SUPPORT. What the operations of Machine/TimeCmd.lean keep.
-/

set_option Elab.async false
set_option linter.all false

namespace Sys2Proof.Machine

theorem State.pulseAt_keeps {r s : State} (h : Keeps r s) (mode : Nat) (period : Nat) (before : Nat) (now : Nat) :
    Keeps r (State.pulseAt s mode period before now) := by
  unfold State.pulseAt
  repeat' first
    | with_reducible assumption
    | with_reducible apply State.refPulse_keeps
    | with_reducible refine Keeps.ite ?_ ?_
    | with_reducible refine Keeps.foldl ?_ ?_
    | with_reducible refine Keeps.foldl_fst ?_ ?_
    | intro _
    | split
    | dsimp only
    | rfl
    | refine Keeps.upd ?_
    | simp only [updAt_length, List.length_map]

theorem State.tick_keeps {r s : State} (h : Keeps r s) (add : Int) (ticks : Nat) :
    Keeps r (State.tick s add ticks) := by
  unfold State.tick
  repeat' first
    | with_reducible assumption
    | with_reducible apply State.setTime_keeps
    | with_reducible apply State.checkWindows_keeps
    | with_reducible apply State.pulseAt_keeps
    | with_reducible apply State.refDivide_keeps
    | with_reducible refine Keeps.ite ?_ ?_
    | with_reducible refine Keeps.foldl ?_ ?_
    | with_reducible refine Keeps.foldl_fst ?_ ?_
    | intro _
    | split
    | dsimp only
    | rfl
    | refine Keeps.upd ?_
    | simp only [updAt_length, List.length_map]

theorem execTimeTick_keeps {r s : State} (h : Keeps r s) :
    KeepsOut r (execTimeTick s) := by
  unfold execTimeTick
  repeat' first
    | with_reducible assumption
    | refine KeepsOut.next ?_
    | with_reducible refine KeepsOut.ite ?_ ?_
    | with_reducible apply State.setTime_keeps
    | with_reducible apply State.tick_keeps
    | with_reducible apply State.holdGo_keeps
    | with_reducible apply State.remoteGo_keeps
    | with_reducible apply State.streamGo_keeps
    | dsimp only
    | split
    | with_reducible refine Keeps.ite ?_ ?_
    | with_reducible refine Keeps.foldl ?_ ?_
    | with_reducible refine Keeps.foldl_fst ?_ ?_
    | intro _
    | split
    | dsimp only
    | rfl
    | refine Keeps.upd ?_
    | simp only [updAt_length, List.length_map]

theorem execTimeBoundary_keeps {r s : State} (h : Keeps r s) :
    KeepsOut r (execTimeBoundary s) := by
  unfold execTimeBoundary
  repeat' first
    | with_reducible assumption
    | refine KeepsOut.next ?_
    | with_reducible refine KeepsOut.ite ?_ ?_
    | with_reducible apply State.boundary_keeps
    | dsimp only
    | split
    | with_reducible refine Keeps.ite ?_ ?_
    | with_reducible refine Keeps.foldl ?_ ?_
    | with_reducible refine Keeps.foldl_fst ?_ ?_
    | intro _
    | split
    | dsimp only
    | rfl
    | refine Keeps.upd ?_
    | simp only [updAt_length, List.length_map]

theorem State.unlessDisciplined_keeps {r s : State} (h : Keeps r s) (allow : Bool) (k : State → State) (hk : ∀ t, Keeps r t → Keeps r (k t)) :
    Keeps r (State.unlessDisciplined s allow k) := by
  unfold State.unlessDisciplined
  repeat' first
    | with_reducible assumption
    | apply hk
    | with_reducible apply State.put_keeps
    | with_reducible refine Keeps.ite ?_ ?_
    | with_reducible refine Keeps.foldl ?_ ?_
    | with_reducible refine Keeps.foldl_fst ?_ ?_
    | intro _
    | split
    | dsimp only
    | rfl
    | refine Keeps.upd ?_
    | simp only [updAt_length, List.length_map]

theorem execTimeIncrWrite_keeps {r s : State} (h : Keeps r s) (w : Writer) (data : Word) :
    KeepsOut r (execTimeIncrWrite w data s) := by
  unfold execTimeIncrWrite
  repeat' first
    | with_reducible assumption
    | refine KeepsOut.next ?_
    | with_reducible refine KeepsOut.ite ?_ ?_
    | with_reducible apply State.writeBy_keeps
    | with_reducible apply State.unlessDisciplined_keeps
    | with_reducible apply State.setIncr_keeps
    | dsimp only
    | split
    | with_reducible refine Keeps.ite ?_ ?_
    | with_reducible refine Keeps.foldl ?_ ?_
    | with_reducible refine Keeps.foldl_fst ?_ ?_
    | intro _
    | split
    | dsimp only
    | rfl
    | refine Keeps.upd ?_
    | simp only [updAt_length, List.length_map]

theorem execTimeSlewWrite_keeps {r s : State} (h : Keeps r s) (w : Writer) (data : Word) :
    KeepsOut r (execTimeSlewWrite w data s) := by
  unfold execTimeSlewWrite
  repeat' first
    | with_reducible assumption
    | refine KeepsOut.next ?_
    | with_reducible refine KeepsOut.ite ?_ ?_
    | with_reducible apply State.writeBy_keeps
    | with_reducible apply State.unlessDisciplined_keeps
    | with_reducible apply State.setTime_keeps
    | dsimp only
    | split
    | with_reducible refine Keeps.ite ?_ ?_
    | with_reducible refine Keeps.foldl ?_ ?_
    | with_reducible refine Keeps.foldl_fst ?_ ?_
    | intro _
    | split
    | dsimp only
    | rfl
    | refine Keeps.upd ?_
    | simp only [updAt_length, List.length_map]

theorem execTimeStepArm_keeps {r s : State} (h : Keeps r s) (w : Writer) (data : Word) :
    KeepsOut r (execTimeStepArm w data s) := by
  unfold execTimeStepArm
  repeat' first
    | with_reducible assumption
    | refine KeepsOut.next ?_
    | with_reducible refine KeepsOut.ite ?_ ?_
    | with_reducible apply State.writeBy_keeps
    | with_reducible apply State.unlessDisciplined_keeps
    | with_reducible apply State.setReg_keeps
    | with_reducible apply State.setTime_keeps
    | with_reducible apply State.put_keeps
    | dsimp only
    | split
    | with_reducible refine Keeps.ite ?_ ?_
    | with_reducible refine Keeps.foldl ?_ ?_
    | with_reducible refine Keeps.foldl_fst ?_ ?_
    | intro _
    | split
    | dsimp only
    | rfl
    | refine Keeps.upd ?_
    | simp only [updAt_length, List.length_map]

theorem State.judgeLock_keeps {r s : State} (h : Keeps r s) (o : Int) :
    Keeps r (State.judgeLock s o) := by
  unfold State.judgeLock
  repeat' first
    | with_reducible assumption
    | with_reducible apply State.setTime_keeps
    | with_reducible apply State.put_keeps
    | with_reducible apply State.raise_keeps
    | with_reducible refine Keeps.ite ?_ ?_
    | with_reducible refine Keeps.foldl ?_ ?_
    | with_reducible refine Keeps.foldl_fst ?_ ?_
    | intro _
    | split
    | dsimp only
    | rfl
    | refine Keeps.upd ?_
    | simp only [updAt_length, List.length_map]

theorem State.takeInterval_keeps {r s : State} (h : Keeps r s) :
    Keeps r (State.takeInterval s) := by
  unfold State.takeInterval
  repeat' first
    | with_reducible assumption
    | with_reducible apply State.setTime_keeps
    | with_reducible apply State.put_keeps
    | with_reducible refine Keeps.ite ?_ ?_
    | with_reducible refine Keeps.foldl ?_ ?_
    | with_reducible refine Keeps.foldl_fst ?_ ?_
    | intro _
    | split
    | dsimp only
    | rfl
    | refine Keeps.upd ?_
    | simp only [updAt_length, List.length_map]

theorem execDisciplineIntervalEnd_keeps {r s : State} (h : Keeps r s) :
    KeepsOut r (execDisciplineIntervalEnd s) := by
  unfold execDisciplineIntervalEnd
  repeat' first
    | with_reducible assumption
    | refine KeepsOut.next ?_
    | with_reducible refine KeepsOut.ite ?_ ?_
    | with_reducible apply State.takeInterval_keeps
    | with_reducible apply State.holdRoute_keeps
    | with_reducible apply State.setTime_keeps
    | with_reducible apply State.showHoldover_keeps
    | with_reducible apply State.correct_keeps
    | with_reducible apply State.judgeLock_keeps
    | dsimp only
    | split
    | with_reducible refine Keeps.ite ?_ ?_
    | with_reducible refine Keeps.foldl ?_ ?_
    | with_reducible refine Keeps.foldl_fst ?_ ?_
    | intro _
    | split
    | dsimp only
    | rfl
    | refine Keeps.upd ?_
    | simp only [updAt_length, List.length_map]

theorem execIncrCorrection_keeps {r s : State} (h : Keeps r s) :
    KeepsOut r (execIncrCorrection s) := by
  unfold execIncrCorrection
  repeat' first
    | with_reducible assumption
    | refine KeepsOut.next ?_
    | with_reducible refine KeepsOut.ite ?_ ?_
    | with_reducible apply State.setTime_keeps
    | with_reducible apply State.setIncr_keeps
    | dsimp only
    | split
    | with_reducible refine Keeps.ite ?_ ?_
    | with_reducible refine Keeps.foldl ?_ ?_
    | with_reducible refine Keeps.foldl_fst ?_ ?_
    | intro _
    | split
    | dsimp only
    | rfl
    | refine Keeps.upd ?_
    | simp only [updAt_length, List.length_map]

theorem execHoldoverEnd_keeps {r s : State} (h : Keeps r s) (met : Bool) :
    KeepsOut r (execHoldoverEnd met s) := by
  unfold execHoldoverEnd
  repeat' first
    | with_reducible assumption
    | refine KeepsOut.next ?_
    | with_reducible refine KeepsOut.ite ?_ ?_
    | with_reducible apply State.holdRoute_keeps
    | with_reducible apply State.takeInterval_keeps
    | with_reducible apply State.setTime_keeps
    | with_reducible apply State.showHoldover_keeps
    | with_reducible apply State.correct_keeps
    | dsimp only
    | split
    | with_reducible refine Keeps.ite ?_ ?_
    | with_reducible refine Keeps.foldl ?_ ?_
    | with_reducible refine Keeps.foldl_fst ?_ ?_
    | intro _
    | split
    | dsimp only
    | rfl
    | refine Keeps.upd ?_
    | simp only [updAt_length, List.length_map]

theorem State.sample_keeps {r s : State} (h : Keeps r s) (o : Int) :
    Keeps r (State.sample s o) := by
  unfold State.sample
  repeat' first
    | with_reducible assumption
    | with_reducible apply State.setTime_keeps
    | with_reducible refine Keeps.ite ?_ ?_
    | with_reducible refine Keeps.foldl ?_ ?_
    | with_reducible refine Keeps.foldl_fst ?_ ?_
    | intro _
    | split
    | dsimp only
    | rfl
    | refine Keeps.upd ?_
    | simp only [updAt_length, List.length_map]

theorem State.ptmFailed_keeps {r s : State} (h : Keeps r s) :
    Keeps r (State.ptmFailed s) := by
  unfold State.ptmFailed
  repeat' first
    | with_reducible assumption
    | with_reducible apply State.setTime_keeps
    | with_reducible apply State.loseSource_keeps
    | with_reducible refine Keeps.ite ?_ ?_
    | with_reducible refine Keeps.foldl ?_ ?_
    | with_reducible refine Keeps.foldl_fst ?_ ?_
    | intro _
    | split
    | dsimp only
    | rfl
    | refine Keeps.upd ?_
    | simp only [updAt_length, List.length_map]

theorem execPtmDialog_keeps {r s : State} (h : Keeps r s) :
    KeepsOut r (execPtmDialog s) := by
  unfold execPtmDialog
  repeat' first
    | with_reducible assumption
    | refine KeepsOut.next ?_
    | with_reducible refine KeepsOut.ite ?_ ?_
    | with_reducible apply State.setTime_keeps
    | with_reducible apply State.toHost_keeps
    | with_reducible apply State.ptmFailed_keeps
    | dsimp only
    | split
    | with_reducible refine Keeps.ite ?_ ?_
    | with_reducible refine Keeps.foldl ?_ ?_
    | with_reducible refine Keeps.foldl_fst ?_ ?_
    | intro _
    | split
    | dsimp only
    | rfl
    | refine Keeps.upd ?_
    | simp only [updAt_length, List.length_map]

theorem execPtmDialogComplete_keeps {r s : State} (h : Keeps r s) (r' : Option (BitVec 96 × BitVec 96 × BitVec 64 × Word)) :
    KeepsOut r (execPtmDialogComplete r' s) := by
  unfold execPtmDialogComplete
  repeat' first
    | with_reducible assumption
    | refine KeepsOut.next ?_
    | with_reducible refine KeepsOut.ite ?_ ?_
    | with_reducible apply State.setTime_keeps
    | with_reducible apply State.sample_keeps
    | with_reducible apply State.ptmFailed_keeps
    | dsimp only
    | split
    | with_reducible refine Keeps.ite ?_ ?_
    | with_reducible refine Keeps.foldl ?_ ?_
    | with_reducible refine Keeps.foldl_fst ?_ ?_
    | intro _
    | split
    | dsimp only
    | rfl
    | refine Keeps.upd ?_
    | simp only [updAt_length, List.length_map]

theorem State.sourceFails_keeps {r s : State} (h : Keeps r s) (k : Nat) :
    Keeps r (State.sourceFails s k) := by
  unfold State.sourceFails
  repeat' first
    | with_reducible assumption
    | with_reducible apply State.loseSource_keeps
    | with_reducible refine Keeps.ite ?_ ?_
    | with_reducible refine Keeps.foldl ?_ ?_
    | with_reducible refine Keeps.foldl_fst ?_ ?_
    | intro _
    | split
    | dsimp only
    | rfl
    | refine Keeps.upd ?_
    | simp only [updAt_length, List.length_map]

theorem execPpsLoss_keeps {r s : State} (h : Keeps r s) (met : Bool) :
    KeepsOut r (execPpsLoss met s) := by
  unfold execPpsLoss
  repeat' first
    | with_reducible assumption
    | refine KeepsOut.next ?_
    | with_reducible refine KeepsOut.ite ?_ ?_
    | with_reducible apply State.sourceFails_keeps
    | dsimp only
    | split
    | with_reducible refine Keeps.ite ?_ ?_
    | with_reducible refine Keeps.foldl ?_ ?_
    | with_reducible refine Keeps.foldl_fst ?_ ?_
    | intro _
    | split
    | dsimp only
    | rfl
    | refine Keeps.upd ?_
    | simp only [updAt_length, List.length_map]

theorem State.tickRefBack_keeps {r s : State} (h : Keeps r s) :
    Keeps r (State.tickRefBack s) := by
  unfold State.tickRefBack
  repeat' first
    | with_reducible assumption
    | with_reducible apply State.setTime_keeps
    | with_reducible apply State.showHoldover_keeps
    | with_reducible refine Keeps.ite ?_ ?_
    | with_reducible refine Keeps.foldl ?_ ?_
    | with_reducible refine Keeps.foldl_fst ?_ ?_
    | intro _
    | split
    | dsimp only
    | rfl
    | refine Keeps.upd ?_
    | simp only [updAt_length, List.length_map]

theorem execRefinLoss_keeps {r s : State} (h : Keeps r s) (met : Bool) :
    KeepsOut r (execRefinLoss met s) := by
  unfold execRefinLoss
  repeat' first
    | with_reducible assumption
    | refine KeepsOut.next ?_
    | with_reducible refine KeepsOut.ite ?_ ?_
    | with_reducible apply State.setTime_keeps
    | with_reducible apply State.put_keeps
    | with_reducible apply State.count_keeps
    | with_reducible apply State.raise_keeps
    | with_reducible apply State.loseSource_keeps
    | dsimp only
    | split
    | with_reducible refine Keeps.ite ?_ ?_
    | with_reducible refine Keeps.foldl ?_ ?_
    | with_reducible refine Keeps.foldl_fst ?_ ?_
    | intro _
    | split
    | dsimp only
    | rfl
    | refine Keeps.upd ?_
    | simp only [updAt_length, List.length_map]

theorem execRefinRestore_keeps {r s : State} (h : Keeps r s) :
    KeepsOut r (execRefinRestore s) := by
  unfold execRefinRestore
  repeat' first
    | with_reducible assumption
    | refine KeepsOut.next ?_
    | with_reducible refine KeepsOut.ite ?_ ?_
    | with_reducible apply State.setTime_keeps
    | with_reducible apply State.put_keeps
    | with_reducible apply State.raise_keeps
    | with_reducible apply State.tickRefBack_keeps
    | dsimp only
    | split
    | with_reducible refine Keeps.ite ?_ ?_
    | with_reducible refine Keeps.foldl ?_ ?_
    | with_reducible refine Keeps.foldl_fst ?_ ?_
    | intro _
    | split
    | dsimp only
    | rfl
    | refine Keeps.upd ?_
    | simp only [updAt_length, List.length_map]

theorem State.timeWinter_keeps {r s : State} (h : Keeps r s) :
    Keeps r (State.timeWinter s) := by
  unfold State.timeWinter
  repeat' first
    | with_reducible assumption
    | with_reducible apply State.put_keeps
    | with_reducible apply State.raise_keeps
    | with_reducible refine Keeps.ite ?_ ?_
    | with_reducible refine Keeps.foldl ?_ ?_
    | with_reducible refine Keeps.foldl_fst ?_ ?_
    | intro _
    | split
    | dsimp only
    | rfl
    | refine Keeps.upd ?_
    | simp only [updAt_length, List.length_map]

theorem execSyncInEdge_keeps {r s : State} (h : Keeps r s) (pin : Fin 4) (rising : Bool) (t : Int) (sub : BitVec 35) :
    KeepsOut r (execSyncInEdge pin rising t sub s) := by
  unfold execSyncInEdge
  repeat' first
    | with_reducible assumption
    | refine KeepsOut.next ?_
    | with_reducible refine KeepsOut.ite ?_ ?_
    | with_reducible apply State.capture_keeps
    | with_reducible apply State.sample_keeps
    | with_reducible apply State.refEdge_keeps
    | dsimp only
    | split
    | with_reducible refine Keeps.ite ?_ ?_
    | with_reducible refine Keeps.foldl ?_ ?_
    | with_reducible refine Keeps.foldl_fst ?_ ?_
    | intro _
    | split
    | dsimp only
    | rfl
    | refine Keeps.upd ?_
    | simp only [updAt_length, List.length_map]

theorem execCaptureLoRead_keeps {r s : State} (h : Keeps r s) (w : Writer) (k : Fin 5) :
    KeepsOut r (execCaptureLoRead w k s) := by
  unfold execCaptureLoRead
  repeat' first
    | with_reducible assumption
    | refine KeepsOut.next ?_
    | with_reducible refine KeepsOut.ite ?_ ?_
    | with_reducible apply State.readBy_keeps
    | with_reducible apply State.puts_keeps
    | with_reducible apply State.setTime_keeps
    | dsimp only
    | split
    | with_reducible refine Keeps.ite ?_ ?_
    | with_reducible refine Keeps.foldl ?_ ?_
    | with_reducible refine Keeps.foldl_fst ?_ ?_
    | intro _
    | split
    | dsimp only
    | rfl
    | refine Keeps.upd ?_
    | simp only [updAt_length, List.length_map]

theorem execCaptureMetaRead_keeps {r s : State} (h : Keeps r s) (w : Writer) (k : Fin 5) :
    KeepsOut r (execCaptureMetaRead w k s) := by
  unfold execCaptureMetaRead
  repeat' first
    | with_reducible assumption
    | refine KeepsOut.next ?_
    | with_reducible refine KeepsOut.ite ?_ ?_
    | with_reducible apply State.readBy_keeps
    | with_reducible apply State.setTime_keeps
    | dsimp only
    | split
    | with_reducible refine Keeps.ite ?_ ?_
    | with_reducible refine Keeps.foldl ?_ ?_
    | with_reducible refine Keeps.foldl_fst ?_ ?_
    | intro _
    | split
    | dsimp only
    | rfl
    | refine Keeps.upd ?_
    | simp only [updAt_length, List.length_map]

theorem execPurserStampRead_keeps {r s : State} (h : Keeps r s) (sub : BitVec 35) :
    KeepsOut r (execPurserStampRead sub s) := by
  unfold execPurserStampRead
  repeat' first
    | with_reducible assumption
    | refine KeepsOut.next ?_
    | with_reducible refine KeepsOut.ite ?_ ?_
    | with_reducible apply State.count_keeps
    | with_reducible apply State.raise_keeps
    | with_reducible apply State.setTime_keeps
    | with_reducible apply State.showSwlog_keeps
    | dsimp only
    | split
    | with_reducible refine Keeps.ite ?_ ?_
    | with_reducible refine Keeps.foldl ?_ ?_
    | with_reducible refine Keeps.foldl_fst ?_ ?_
    | intro _
    | split
    | dsimp only
    | rfl
    | refine Keeps.upd ?_
    | simp only [updAt_length, List.length_map]

theorem execSwlogPop_keeps {r s : State} (h : Keeps r s) (w : Writer) :
    KeepsOut r (execSwlogPop w s) := by
  unfold execSwlogPop
  repeat' first
    | with_reducible assumption
    | refine KeepsOut.next ?_
    | with_reducible refine KeepsOut.ite ?_ ?_
    | with_reducible apply State.writeBy_keeps
    | with_reducible apply State.setTime_keeps
    | with_reducible apply State.showSwlog_keeps
    | dsimp only
    | split
    | with_reducible refine Keeps.ite ?_ ?_
    | with_reducible refine Keeps.foldl ?_ ?_
    | with_reducible refine Keeps.foldl_fst ?_ ?_
    | intro _
    | split
    | dsimp only
    | rfl
    | refine Keeps.upd ?_
    | simp only [updAt_length, List.length_map]

theorem execTxqPop_keeps {r s : State} (h : Keeps r s) (w : Writer) :
    KeepsOut r (execTxqPop w s) := by
  unfold execTxqPop
  repeat' first
    | with_reducible assumption
    | refine KeepsOut.next ?_
    | with_reducible refine KeepsOut.ite ?_ ?_
    | with_reducible apply State.writeBy_keeps
    | with_reducible apply State.setTime_keeps
    | with_reducible apply State.showTxq_keeps
    | dsimp only
    | split
    | with_reducible refine Keeps.ite ?_ ?_
    | with_reducible refine Keeps.foldl ?_ ?_
    | with_reducible refine Keeps.foldl_fst ?_ ?_
    | intro _
    | split
    | dsimp only
    | rfl
    | refine Keeps.upd ?_
    | simp only [updAt_length, List.length_map]

theorem execWindowArm_keeps {r s : State} (h : Keeps r s) (w : Writer) (k : Fin 4) (epoch : BitVec 16) :
    KeepsOut r (execWindowArm w k epoch s) := by
  unfold execWindowArm
  repeat' first
    | with_reducible assumption
    | refine KeepsOut.next ?_
    | with_reducible refine KeepsOut.ite ?_ ?_
    | with_reducible apply State.writeBy_keeps
    | with_reducible apply State.put_keeps
    | with_reducible apply State.checkWindows_keeps
    | dsimp only
    | split
    | with_reducible refine Keeps.ite ?_ ?_
    | with_reducible refine Keeps.foldl ?_ ?_
    | with_reducible refine Keeps.foldl_fst ?_ ?_
    | intro _
    | split
    | dsimp only
    | rfl
    | refine Keeps.upd ?_
    | simp only [updAt_length, List.length_map]

theorem State.ltcCheck_keeps {r s : State} (h : Keeps r s) (k : Nat) :
    Keeps r (State.ltcCheck s k) := by
  unfold State.ltcCheck
  repeat' first
    | with_reducible assumption
    | with_reducible apply State.put_keeps
    | with_reducible refine Keeps.ite ?_ ?_
    | with_reducible refine Keeps.foldl ?_ ?_
    | with_reducible refine Keeps.foldl_fst ?_ ?_
    | intro _
    | split
    | dsimp only
    | rfl
    | refine Keeps.upd ?_
    | simp only [updAt_length, List.length_map]

theorem execLtcWordStart_keeps {r s : State} (h : Keeps r s) (k : Fin 2) :
    KeepsOut r (execLtcWordStart k s) := by
  unfold execLtcWordStart
  repeat' first
    | with_reducible assumption
    | refine KeepsOut.next ?_
    | with_reducible refine KeepsOut.ite ?_ ?_
    | with_reducible apply State.put_keeps
    | with_reducible apply State.setReg_keeps
    | with_reducible apply State.emit_keeps
    | dsimp only
    | split
    | with_reducible refine Keeps.ite ?_ ?_
    | with_reducible refine Keeps.foldl ?_ ?_
    | with_reducible refine Keeps.foldl_fst ?_ ?_
    | intro _
    | split
    | dsimp only
    | rfl
    | refine Keeps.upd ?_
    | simp only [updAt_length, List.length_map]

theorem execLtcInWord_keeps {r s : State} (h : Keeps r s) (word : BitVec 80) (rate : Fin 6) (sub : BitVec 35) :
    KeepsOut r (execLtcInWord word rate sub s) := by
  unfold execLtcInWord
  repeat' first
    | with_reducible assumption
    | refine KeepsOut.next ?_
    | with_reducible refine KeepsOut.ite ?_ ?_
    | with_reducible apply State.setTime_keeps
    | with_reducible apply State.capture_keeps
    | with_reducible apply State.setReg_keeps
    | with_reducible apply State.puts_keeps
    | with_reducible apply State.put_keeps
    | with_reducible apply State.raise_keeps
    | with_reducible apply State.sample_keeps
    | dsimp only
    | split
    | with_reducible refine Keeps.ite ?_ ?_
    | with_reducible refine Keeps.foldl ?_ ?_
    | with_reducible refine Keeps.foldl_fst ?_ ?_
    | intro _
    | split
    | dsimp only
    | rfl
    | refine Keeps.upd ?_
    | simp only [updAt_length, List.length_map]

theorem execLtcInWordMissing_keeps {r s : State} (h : Keeps r s) (met : Bool) :
    KeepsOut r (execLtcInWordMissing met s) := by
  unfold execLtcInWordMissing
  repeat' first
    | with_reducible assumption
    | refine KeepsOut.next ?_
    | with_reducible refine KeepsOut.ite ?_ ?_
    | with_reducible apply State.setTime_keeps
    | with_reducible apply State.put_keeps
    | with_reducible apply State.raise_keeps
    | with_reducible apply State.sourceFails_keeps
    | dsimp only
    | split
    | with_reducible refine Keeps.ite ?_ ?_
    | with_reducible refine Keeps.foldl ?_ ?_
    | with_reducible refine Keeps.foldl_fst ?_ ?_
    | intro _
    | split
    | dsimp only
    | rfl
    | refine Keeps.upd ?_
    | simp only [updAt_length, List.length_map]

theorem execLtcJam_keeps {r s : State} (h : Keeps r s) (w : Writer) (k : Fin 2) (en : Bool) (rate : BitVec 4) :
    KeepsOut r (execLtcJam w k en rate s) := by
  unfold execLtcJam
  repeat' first
    | with_reducible assumption
    | refine KeepsOut.next ?_
    | with_reducible refine KeepsOut.ite ?_ ?_
    | with_reducible apply State.writeBy_keeps
    | with_reducible apply State.puts_keeps
    | with_reducible apply State.ltcCheck_keeps
    | dsimp only
    | split
    | with_reducible refine Keeps.ite ?_ ?_
    | with_reducible refine Keeps.foldl ?_ ?_
    | with_reducible refine Keeps.foldl_fst ?_ ?_
    | intro _
    | split
    | dsimp only
    | rfl
    | refine Keeps.upd ?_
    | simp only [updAt_length, List.length_map]

end Sys2Proof.Machine
end

