-- ==== Sys2Proof/Laws/Keeps/Restart.lean ====
section
/-!
SUPPORT. What the operations of Machine/Restart.lean keep.
-/

set_option Elab.async false
set_option linter.all false

namespace Sys2Proof.Machine

theorem State.setPower_keeps {r s : State} (h : Keeps r s) (f : PowerState → PowerState) :
    Keeps r (State.setPower s f) := by
  unfold State.setPower
  repeat' first
    | with_reducible assumption
    | with_reducible refine Keeps.ite ?_ ?_
    | with_reducible refine Keeps.foldl ?_ ?_
    | with_reducible refine Keeps.foldl_fst ?_ ?_
    | intro _
    | split
    | dsimp only
    | rfl
    | refine Keeps.upd ?_
    | simp only [updAt_length, List.length_map]

theorem State.applyTrims_keeps {r s : State} (h : Keeps r s) :
    Keeps r (State.applyTrims s) := by
  unfold State.applyTrims
  repeat' first
    | with_reducible assumption
    | with_reducible apply State.puts_keeps
    | with_reducible apply State.raiseIf_keeps
    | with_reducible refine Keeps.ite ?_ ?_
    | with_reducible refine Keeps.foldl ?_ ?_
    | with_reducible refine Keeps.foldl_fst ?_ ?_
    | intro _
    | split
    | dsimp only
    | rfl
    | refine Keeps.upd ?_
    | simp only [updAt_length, List.length_map]

theorem State.reapply_keeps {r s : State} (h : Keeps r s) (e : SwapEntry) :
    Keeps r (State.reapply s e) := by
  unfold State.reapply
  repeat' first
    | with_reducible assumption
    | with_reducible apply State.showRelief_keeps
    | with_reducible apply State.put_keeps
    | with_reducible apply State.switchReach_keeps
    | with_reducible refine Keeps.ite ?_ ?_
    | with_reducible refine Keeps.foldl ?_ ?_
    | with_reducible refine Keeps.foldl_fst ?_ ?_
    | intro _
    | split
    | dsimp only
    | rfl
    | refine Keeps.upd ?_
    | simp only [updAt_length, List.length_map]

theorem State.reapplySwaps_keeps {r s : State} (h : Keeps r s) :
    Keeps r (State.reapplySwaps s) := by
  unfold State.reapplySwaps
  repeat' first
    | with_reducible assumption
    | with_reducible apply State.reapply_keeps
    | with_reducible apply State.puts_keeps
    | with_reducible refine Keeps.ite ?_ ?_
    | with_reducible refine Keeps.foldl ?_ ?_
    | with_reducible refine Keeps.foldl_fst ?_ ?_
    | intro _
    | split
    | dsimp only
    | rfl
    | refine Keeps.upd ?_
    | simp only [updAt_length, List.length_map]

theorem State.timeDefaults_keeps {r s : State} (h : Keeps r s) :
    Keeps r (State.timeDefaults s) := by
  unfold State.timeDefaults
  repeat' first
    | with_reducible assumption
    | with_reducible apply State.put_keeps
    | with_reducible apply State.puts_keeps
    | with_reducible refine Keeps.ite ?_ ?_
    | with_reducible refine Keeps.foldl ?_ ?_
    | with_reducible refine Keeps.foldl_fst ?_ ?_
    | intro _
    | split
    | dsimp only
    | rfl
    | refine Keeps.upd ?_
    | simp only [updAt_length, List.length_map]

theorem State.scanCopy_keeps {r s : State} (h : Keeps r s) (k : Nat) (c : CalCopy) :
    Keeps r (State.scanCopy s k c) := by
  unfold State.scanCopy
  repeat' first
    | with_reducible assumption
    | with_reducible apply State.put_keeps
    | with_reducible apply State.raise_keeps
    | with_reducible refine Keeps.ite ?_ ?_
    | with_reducible refine Keeps.foldl ?_ ?_
    | with_reducible refine Keeps.foldl_fst ?_ ?_
    | intro _
    | split
    | dsimp only
    | rfl
    | refine Keeps.upd ?_
    | simp only [updAt_length, List.length_map]

theorem State.scanStore_keeps {r s : State} (h : Keeps r s) :
    Keeps r (State.scanStore s) := by
  unfold State.scanStore
  repeat' first
    | with_reducible assumption
    | with_reducible apply State.scanCopy_keeps
    | with_reducible apply State.showSeq_keeps
    | with_reducible apply State.setPower_keeps
    | with_reducible refine Keeps.ite ?_ ?_
    | with_reducible refine Keeps.foldl ?_ ?_
    | with_reducible refine Keeps.foldl_fst ?_ ?_
    | intro _
    | split
    | dsimp only
    | rfl
    | refine Keeps.upd ?_
    | simp only [updAt_length, List.length_map]

theorem State.releasePins_keeps {r s : State} (h : Keeps r s) :
    Keeps r (State.releasePins s) := by
  unfold State.releasePins
  repeat' first
    | with_reducible assumption
    | with_reducible apply State.emit_keeps
    | with_reducible apply State.plrlPins_keeps
    | with_reducible apply State.gatesOff_keeps
    | with_reducible refine Keeps.ite ?_ ?_
    | with_reducible refine Keeps.foldl ?_ ?_
    | with_reducible refine Keeps.foldl_fst ?_ ?_
    | intro _
    | split
    | dsimp only
    | rfl
    | refine Keeps.upd ?_
    | simp only [updAt_length, List.length_map]

theorem State.keepReg_keeps {r s : State} (h : Keeps r s) (old : State) (a : Nat) :
    Keeps r (State.keepReg s old a) := by
  unfold State.keepReg
  repeat' first
    | with_reducible assumption
    | with_reducible apply State.setReg_keeps
    | with_reducible refine Keeps.ite ?_ ?_
    | with_reducible refine Keeps.foldl ?_ ?_
    | with_reducible refine Keeps.foldl_fst ?_ ?_
    | intro _
    | split
    | dsimp only
    | rfl
    | refine Keeps.upd ?_
    | simp only [updAt_length, List.length_map]

theorem State.keepLock_keeps {r s : State} (h : Keeps r s) (old : State) (n : Nat) :
    Keeps r (State.keepLock s old n) := by
  unfold State.keepLock
  repeat' first
    | with_reducible assumption
    | with_reducible apply State.keepReg_keeps
    | with_reducible apply State.setActReg_keeps
    | with_reducible apply State.setWritten_keeps
    | with_reducible apply State.setLanded_keeps
    | with_reducible apply State.setLocked_keeps
    | with_reducible apply State.setOut_keeps
    | with_reducible refine Keeps.ite ?_ ?_
    | with_reducible refine Keeps.foldl ?_ ?_
    | with_reducible refine Keeps.foldl_fst ?_ ?_
    | intro _
    | split
    | dsimp only
    | rfl
    | refine Keeps.upd ?_
    | simp only [updAt_length, List.length_map]

/-- A state with the stores and units of a reset but for records, fuses, messages and commands, which are another state's. -/
theorem Keeps.reset {r s : State} (h : Keeps r s) (cal : CalState) (hc : cal.copies.length = s.cal.copies.length) (host : HostState)
    (hh : host.fns.length = 32) (power : PowerState) (t : State)
    (e : t = { State.reset with
      cal := cal, otp := s.otp, host := host, power := power, freeCount := s.freeCount, out := s.out, pending := s.pending }) :
    Keeps r t := by
  subst e
  refine ⟨h.queue, fun i => ⟨?_, ?_⟩, h.fuses, h.sent, h.free⟩
  · show State.reset.canonical = true
    decide
  · have j := (h.inv i).2
    simp only [State.shape, partShape, List.cons.injEq] at j ⊢
    have k := hc.trans j.2.2.2.2.2.2.2.2.1
    simp only [State.reset, List.length_replicate, hh, k, SstState.reset, TimeState.reset, ChainState.reset, List.length_map, List.length_range, and_self]

theorem State.coldState_keeps {r s : State} (h : Keeps r s) : Keeps r s.coldState := by
  have h1 : ∀ l, (∃ new, l = new ++ r.out) → Keeps r { s with out := l } := fun l k => ⟨h.queue, h.inv, h.fuses, k, h.free⟩
  replace h1 := h1 _ (State.releasePins_keeps h).sent
  refine Keeps.reset h1 { s.cal with jobs := [], retried := false, trimDue := false, sectors := [] } rfl
    { HostState.reset with perst := s.host.perst, ids := fnIds s.otp.subsys } (List.length_replicate ..)
    { PowerState.reset with pfailLow := s.power.pfailLow, pfail := s.power.pfail } _ ?_
  unfold State.coldState
  dsimp only

theorem State.warmState_keeps {r s : State} (h : Keeps r s) : Keeps r s.warmState := by
  have hc := State.coldState_keeps h
  have hb : r.Inv → Memory.wf s.hold.bytes = true := fun i => by
    have j := (h.inv i).1
    simp only [State.canonical, Bool.and_eq_true] at j
    exact j.2
  unfold State.warmState
  dsimp only
  refine Keeps.foldl (Keeps.foldl (State.put_keeps (Keeps.foldl ?_ fun t a k => State.keepReg_keeps k _ _) _ _)
    fun t x k => State.applyRepair_keeps k _) fun t n k => State.keepLock_keeps k _ _
  have hx := hc.setHoldTo (x := { HoldState.reset with
    bytes := s.hold.bytes, uncorr := s.hold.uncorr, unknownBanks := s.hold.unknownBanks, knownWords := s.hold.knownWords,
    badRows := s.hold.badRows, badBanks := s.hold.badBanks }) hb
  have ht : s.coldState.time.caps.length = 5 := rfl
  have hl : s.coldState.lanes.length = 96 := rfl
  generalize s.coldState = c at hx ht hl ⊢
  exact Keeps.upd hx (hl := by simp [hl]) (ht := by simp [ht, TimeState.reset])

theorem State.loseGroups_keeps {r s : State} (h : Keeps r s) :
    Keeps r (State.loseGroups s) := by
  unfold State.loseGroups
  repeat' first
    | with_reducible assumption
    | with_reducible apply State.losebank_keeps
    | with_reducible refine Keeps.ite ?_ ?_
    | with_reducible refine Keeps.foldl ?_ ?_
    | with_reducible refine Keeps.foldl_fst ?_ ?_
    | intro _
    | split
    | dsimp only
    | rfl
    | refine Keeps.upd ?_
    | simp only [updAt_length, List.length_map]

theorem State.loseHold_keeps {r s : State} (h : Keeps r s) :
    Keeps r (State.loseHold s) := by
  unfold State.loseHold
  repeat' first
    | with_reducible assumption
    | with_reducible apply State.losebank_keeps
    | with_reducible apply State.unlockBase_keeps
    | with_reducible refine Keeps.ite ?_ ?_
    | with_reducible refine Keeps.foldl ?_ ?_
    | with_reducible refine Keeps.foldl_fst ?_ ?_
    | intro _
    | split
    | dsimp only
    | rfl
    | refine Keeps.upd ?_
    | simp only [updAt_length, List.length_map]

theorem State.doReset_keeps {r s : State} (h : Keeps r s) :
    Keeps r (State.doReset s) := by
  unfold State.doReset
  repeat' first
    | with_reducible assumption
    | with_reducible apply State.loseHold_keeps
    | with_reducible apply State.loseGroups_keeps
    | with_reducible apply State.warmState_keeps
    | with_reducible apply State.raiseIf_keeps
    | with_reducible refine Keeps.ite ?_ ?_
    | with_reducible refine Keeps.foldl ?_ ?_
    | with_reducible refine Keeps.foldl_fst ?_ ?_
    | intro _
    | split
    | dsimp only
    | rfl
    | refine Keeps.upd ?_
    | simp only [updAt_length, List.length_map]

theorem State.cutOut_keeps {r s : State} (h : Keeps r s) (n : Nat) :
    Keeps r (State.cutOut s n) := by
  unfold State.cutOut
  repeat' first
    | with_reducible assumption
    | with_reducible apply State.put_keeps
    | with_reducible apply State.setOut_keeps
    | with_reducible refine Keeps.ite ?_ ?_
    | with_reducible refine Keeps.foldl ?_ ?_
    | with_reducible refine Keeps.foldl_fst ?_ ?_
    | intro _
    | split
    | dsimp only
    | rfl
    | refine Keeps.upd ?_
    | simp only [updAt_length, List.length_map]

theorem State.uncut_keeps {r s : State} (h : Keeps r s) (n : Nat) :
    Keeps r (State.uncut s n) := by
  unfold State.uncut
  repeat' first
    | with_reducible assumption
    | with_reducible apply State.setOut_keeps
    | with_reducible apply State.doReset_keeps
    | with_reducible refine Keeps.ite ?_ ?_
    | with_reducible refine Keeps.foldl ?_ ?_
    | with_reducible refine Keeps.foldl_fst ?_ ?_
    | intro _
    | split
    | dsimp only
    | rfl
    | refine Keeps.upd ?_
    | simp only [updAt_length, List.length_map]

theorem State.beginReset_keeps {r s : State} (h : Keeps r s) (thermal : Bool) :
    Keeps r (State.beginReset s thermal) := by
  unfold State.beginReset
  repeat' first
    | with_reducible assumption
    | with_reducible apply State.abandonStores_keeps
    | with_reducible apply State.setPower_keeps
    | with_reducible apply State.cutOut_keeps
    | with_reducible apply State.doReset_keeps
    | with_reducible refine Keeps.ite ?_ ?_
    | with_reducible refine Keeps.foldl ?_ ?_
    | with_reducible refine Keeps.foldl_fst ?_ ?_
    | intro _
    | split
    | dsimp only
    | rfl
    | refine Keeps.upd ?_
    | simp only [updAt_length, List.length_map]

theorem State.lockPlls_keeps {r s : State} (h : Keeps r s) :
    Keeps r (State.lockPlls s) := by
  unfold State.lockPlls
  repeat' first
    | with_reducible assumption
    | with_reducible apply State.puts_keeps
    | with_reducible refine Keeps.ite ?_ ?_
    | with_reducible refine Keeps.foldl ?_ ?_
    | with_reducible refine Keeps.foldl_fst ?_ ?_
    | intro _
    | split
    | dsimp only
    | rfl
    | refine Keeps.upd ?_
    | simp only [updAt_length, List.length_map]

theorem State.pinsUp_keeps {r s : State} (h : Keeps r s) :
    Keeps r (State.pinsUp s) := by
  unfold State.pinsUp
  repeat' first
    | with_reducible assumption
    | with_reducible apply State.emit_keeps
    | with_reducible apply State.plrlPins_keeps
    | with_reducible apply State.gatesOff_keeps
    | with_reducible refine Keeps.ite ?_ ?_
    | with_reducible refine Keeps.foldl ?_ ?_
    | with_reducible refine Keeps.foldl_fst ?_ ?_
    | intro _
    | split
    | dsimp only
    | rfl
    | refine Keeps.upd ?_
    | simp only [updAt_length, List.length_map]

theorem execPowerOn_keeps {r s : State} (h : Keeps r s) :
    KeepsOut r (execPowerOn s) := by
  unfold execPowerOn
  repeat' first
    | with_reducible assumption
    | refine KeepsOut.next ?_
    | with_reducible refine KeepsOut.ite ?_ ?_
    | with_reducible apply State.applyRepair_keeps
    | with_reducible apply State.pinsUp_keeps
    | with_reducible apply State.coldState_keeps
    | dsimp only
    | split
    | with_reducible refine Keeps.ite ?_ ?_
    | with_reducible refine Keeps.foldl ?_ ?_
    | with_reducible refine Keeps.foldl_fst ?_ ?_
    | intro _
    | split
    | dsimp only
    | rfl
    | refine Keeps.upd ?_
    | simp only [updAt_length, List.length_map]

theorem State.repairAtStart_keeps {r s : State} (h : Keeps r s) (moved : List Nat) (b : Nat) (r' : Nat) :
    Keeps r (State.repairAtStart s moved b r').1 := by
  unfold State.repairAtStart
  repeat' first
    | with_reducible assumption
    | with_reducible apply State.raise_keeps
    | with_reducible apply State.applyRepair_keeps
    | with_reducible refine Keeps.ite ?_ ?_
    | with_reducible refine Keeps.foldl ?_ ?_
    | with_reducible refine Keeps.foldl_fst ?_ ?_
    | intro _
    | split
    | dsimp only
    | rfl
    | refine Keeps.upd ?_
    | simp only [updAt_length, List.length_map]

theorem execStartupMarchComplete_keeps {r s : State} (h : Keeps r s) (fails : List MarchFail) :
    KeepsOut r (execStartupMarchComplete fails s) := by
  unfold execStartupMarchComplete
  repeat' first
    | with_reducible assumption
    | refine KeepsOut.next ?_
    | with_reducible refine KeepsOut.ite ?_ ?_
    | with_reducible apply State.showFail_keeps
    | with_reducible apply State.put_keeps
    | with_reducible apply State.raise_keeps
    | with_reducible apply State.count_keeps
    | with_reducible apply State.badSpare_keeps
    | with_reducible apply State.repairAtStart_keeps
    | with_reducible apply State.clearRange_keeps
    | with_reducible apply State.lockPlls_keeps
    | with_reducible apply State.setPower_keeps
    | dsimp only
    | split
    | with_reducible refine Keeps.ite ?_ ?_
    | with_reducible refine Keeps.foldl ?_ ?_
    | with_reducible refine Keeps.foldl_fst ?_ ?_
    | intro _
    | split
    | dsimp only
    | rfl
    | refine Keeps.upd ?_
    | simp only [updAt_length, List.length_map]

theorem State.logNew_keeps {r s : State} (h : Keeps r s) (y0 : List Repair) :
    Keeps r (State.logNew s y0) := by
  induction y0 generalizing s with
  | nil => first | exact h | (unfold State.logNew; exact h) | (cases y1 <;> first | exact h | (unfold State.logNew; exact h))
  | cons a l ih =>
    unfold State.logNew
    repeat' first
      | with_reducible assumption
      | with_reducible apply State.logRepair_keeps
      | with_reducible apply ih
      | with_reducible refine Keeps.ite ?_ ?_
      | with_reducible refine Keeps.foldl ?_ ?_
      | with_reducible refine Keeps.foldl_fst ?_ ?_
      | intro _
      | split
      | dsimp only
      | rfl
      | refine Keeps.upd ?_
      | simp only [updAt_length, List.length_map]

theorem State.storeNewRepairs_keeps {r s : State} (h : Keeps r s) :
    Keeps r (State.storeNewRepairs s) := by
  unfold State.storeNewRepairs
  repeat' first
    | with_reducible assumption
    | with_reducible apply State.storeRepairs_keeps
    | with_reducible apply State.logNew_keeps
    | with_reducible refine Keeps.ite ?_ ?_
    | with_reducible refine Keeps.foldl ?_ ?_
    | with_reducible refine Keeps.foldl_fst ?_ ?_
    | intro _
    | split
    | dsimp only
    | rfl
    | refine Keeps.upd ?_
    | simp only [updAt_length, List.length_map]

theorem State.finishStart_keeps {r s : State} (h : Keeps r s) :
    Keeps r (State.finishStart s) := by
  unfold State.finishStart
  repeat' first
    | with_reducible assumption
    | with_reducible apply State.put_keeps
    | with_reducible apply State.raise_keeps
    | with_reducible apply State.raiseIf_keeps
    | with_reducible apply State.setPower_keeps
    | with_reducible apply State.startOut_keeps
    | with_reducible apply State.portsStart_keeps
    | with_reducible refine Keeps.ite ?_ ?_
    | with_reducible refine Keeps.foldl ?_ ?_
    | with_reducible refine Keeps.foldl_fst ?_ ?_
    | intro _
    | split
    | dsimp only
    | rfl
    | refine Keeps.upd ?_
    | simp only [updAt_length, List.length_map]

theorem execStartupComplete_keeps {r s : State} (h : Keeps r s) (refclk : Bool) (refin : Bool) (otpError : Bool) :
    KeepsOut r (execStartupComplete refclk refin otpError s) := by
  unfold execStartupComplete
  repeat' first
    | with_reducible assumption
    | refine KeepsOut.next ?_
    | with_reducible refine KeepsOut.ite ?_ ?_
    | with_reducible apply State.lockPlls_keeps
    | with_reducible apply State.raiseIf_keeps
    | with_reducible apply State.puts_keeps
    | with_reducible apply State.reapplySwaps_keeps
    | with_reducible apply State.scanStore_keeps
    | with_reducible apply State.applyTrims_keeps
    | with_reducible apply State.storeNewRepairs_keeps
    | with_reducible apply State.bootStructure_keeps
    | with_reducible apply State.timeDefaults_keeps
    | with_reducible apply State.put_keeps
    | with_reducible apply State.setPower_keeps
    | with_reducible apply State.serve_keeps
    | with_reducible apply State.finishStart_keeps
    | dsimp only
    | split
    | with_reducible refine Keeps.ite ?_ ?_
    | with_reducible refine Keeps.foldl ?_ ?_
    | with_reducible refine Keeps.foldl_fst ?_ ?_
    | intro _
    | split
    | dsimp only
    | rfl
    | refine Keeps.upd ?_
    | simp only [updAt_length, List.length_map]

end Sys2Proof.Machine
end

