-- ==== Sys2Proof/Laws/Keeps/Pfail.lean ====
section
/-!
SUPPORT. What the operations of Machine/Pfail.lean keep.
-/

set_option Elab.async false
set_option linter.all false

namespace Sys2Proof.Machine

theorem execPfailNFall_keeps {r s : State} (h : Keeps r s) :
    KeepsOut r (execPfailNFall s) := by
  unfold execPfailNFall
  repeat' first
    | with_reducible assumption
    | refine KeepsOut.next ?_
    | with_reducible refine KeepsOut.ite ?_ ?_
    | with_reducible apply State.setPower_keeps
    | dsimp only
    | split
    | with_reducible refine Keeps.ite ?_ ?_
    | with_reducible refine Keeps.foldl ?_ ?_
    | with_reducible refine Keeps.foldl_fst ?_ ?_
    | intro _
    | split
    | dsimp only
    | rfl
    | refine Keeps.upd ?_
    | simp only [updAt_length, List.length_map]

theorem State.abandonEntry_keeps {r s : State} (h : Keeps r s) :
    Keeps r (State.abandonEntry s) := by
  unfold State.abandonEntry
  repeat' first
    | with_reducible assumption
    | with_reducible apply State.puts_keeps
    | with_reducible apply State.raise_keeps
    | with_reducible refine Keeps.ite ?_ ?_
    | with_reducible refine Keeps.foldl ?_ ?_
    | with_reducible refine Keeps.foldl_fst ?_ ?_
    | intro _
    | split
    | dsimp only
    | rfl
    | refine Keeps.upd ?_
    | simp only [updAt_length, List.length_map]

theorem State.discharge_keeps {r s : State} (h : Keeps r s) (idle : Bool) :
    Keeps r (State.discharge s idle) := by
  unfold State.discharge
  repeat' first
    | with_reducible assumption
    | with_reducible apply State.abortCal_keeps
    | with_reducible apply State.abandonStores_keeps
    | with_reducible apply State.cutOut_keeps
    | with_reducible refine Keeps.ite ?_ ?_
    | with_reducible refine Keeps.foldl ?_ ?_
    | with_reducible refine Keeps.foldl_fst ?_ ?_
    | intro _
    | split
    | dsimp only
    | rfl
    | refine Keeps.upd ?_
    | simp only [updAt_length, List.length_map]

theorem execPfailRecognised_keeps {r s : State} (h : Keeps r s) :
    KeepsOut r (execPfailRecognised s) := by
  unfold execPfailRecognised
  repeat' first
    | with_reducible assumption
    | refine KeepsOut.next ?_
    | with_reducible refine KeepsOut.ite ?_ ?_
    | with_reducible apply State.setPower_keeps
    | with_reducible apply State.put_keeps
    | with_reducible apply State.discharge_keeps
    | with_reducible apply State.abandonEntry_keeps
    | with_reducible apply State.raise_keeps
    | dsimp only
    | split
    | with_reducible refine Keeps.ite ?_ ?_
    | with_reducible refine Keeps.foldl ?_ ?_
    | with_reducible refine Keeps.foldl_fst ?_ ?_
    | intro _
    | split
    | dsimp only
    | rfl
    | refine Keeps.upd ?_
    | simp only [updAt_length, List.length_map]

theorem execPfailNRise_keeps {r s : State} (h : Keeps r s) :
    KeepsOut r (execPfailNRise s) := by
  unfold execPfailNRise
  repeat' first
    | with_reducible assumption
    | refine KeepsOut.next ?_
    | with_reducible refine KeepsOut.ite ?_ ?_
    | with_reducible apply State.setPower_keeps
    | with_reducible apply State.raise_keeps
    | with_reducible apply State.finishStart_keeps
    | dsimp only
    | split
    | with_reducible refine Keeps.ite ?_ ?_
    | with_reducible refine Keeps.foldl ?_ ?_
    | with_reducible refine Keeps.foldl_fst ?_ ?_
    | intro _
    | split
    | dsimp only
    | rfl
    | refine Keeps.upd ?_
    | simp only [updAt_length, List.length_map]

theorem State.gatePattern_keeps {r s : State} (h : Keeps r s) (n : Nat) :
    Keeps r (State.gatePattern s n) := by
  unfold State.gatePattern
  repeat' first
    | with_reducible assumption
    | with_reducible apply State.emit_keeps
    | with_reducible apply State.setOut_keeps
    | with_reducible refine Keeps.ite ?_ ?_
    | with_reducible refine Keeps.foldl ?_ ?_
    | with_reducible refine Keeps.foldl_fst ?_ ?_
    | intro _
    | split
    | dsimp only
    | rfl
    | refine Keeps.upd ?_
    | simp only [updAt_length, List.length_map]

theorem State.closePacket_keeps {r s : State} (h : Keeps r s) (n : Nat) (l : Nat) :
    Keeps r (State.closePacket s n l) := by
  unfold State.closePacket
  repeat' first
    | with_reducible assumption
    | with_reducible apply State.sendBlocks_keeps
    | with_reducible apply State.setLane_keeps
    | with_reducible apply State.laneTo_keeps
    | with_reducible refine Keeps.ite ?_ ?_
    | with_reducible refine Keeps.foldl ?_ ?_
    | with_reducible refine Keeps.foldl_fst ?_ ?_
    | intro _
    | split
    | dsimp only
    | rfl
    | refine Keeps.upd ?_
    | simp only [updAt_length, List.length_map]

theorem State.orderLanes_keeps {r s : State} (h : Keeps r s) (n : Nat) :
    Keeps r (State.orderLanes s n) := by
  unfold State.orderLanes
  repeat' first
    | with_reducible assumption
    | with_reducible apply State.dropFrames_keeps
    | with_reducible apply State.closePacket_keeps
    | with_reducible apply State.setLane_keeps
    | with_reducible apply State.sendNext_keeps
    | with_reducible apply State.put_keeps
    | with_reducible refine Keeps.ite ?_ ?_
    | with_reducible refine Keeps.foldl ?_ ?_
    | with_reducible refine Keeps.foldl_fst ?_ ?_
    | intro _
    | split
    | dsimp only
    | rfl
    | refine Keeps.upd ?_
    | simp only [updAt_length, List.length_map]

theorem execDischargeCut_keeps {r s : State} (h : Keeps r s) (n : Fin 4) :
    KeepsOut r (execDischargeCut n s) := by
  unfold execDischargeCut
  repeat' first
    | with_reducible assumption
    | refine KeepsOut.next ?_
    | with_reducible refine KeepsOut.ite ?_ ?_
    | with_reducible apply State.stopOut_keeps
    | with_reducible apply State.uncut_keeps
    | with_reducible apply State.orderLanes_keeps
    | with_reducible apply State.gatePattern_keeps
    | with_reducible apply State.setOut_keeps
    | with_reducible apply State.put_keeps
    | with_reducible apply State.emit_keeps
    | dsimp only
    | split
    | with_reducible refine Keeps.ite ?_ ?_
    | with_reducible refine Keeps.foldl ?_ ?_
    | with_reducible refine Keeps.foldl_fst ?_ ?_
    | intro _
    | split
    | dsimp only
    | rfl
    | refine Keeps.upd ?_
    | simp only [updAt_length, List.length_map]

theorem execDischargeHoldExpiry_keeps {r s : State} (h : Keeps r s) (n : Fin 4) :
    KeepsOut r (execDischargeHoldExpiry n s) := by
  unfold execDischargeHoldExpiry
  repeat' first
    | with_reducible assumption
    | refine KeepsOut.next ?_
    | with_reducible refine KeepsOut.ite ?_ ?_
    | with_reducible apply State.laneOff_keeps
    | with_reducible apply State.gatesOff_keeps
    | with_reducible apply State.put_keeps
    | dsimp only
    | split
    | with_reducible refine Keeps.ite ?_ ?_
    | with_reducible refine Keeps.foldl ?_ ?_
    | with_reducible refine Keeps.foldl_fst ?_ ?_
    | intro _
    | split
    | dsimp only
    | rfl
    | refine Keeps.upd ?_
    | simp only [updAt_length, List.length_map]

theorem execDischargeComplete_keeps {r s : State} (h : Keeps r s) (n : Fin 4) :
    KeepsOut r (execDischargeComplete n s) := by
  unfold execDischargeComplete
  repeat' first
    | with_reducible assumption
    | refine KeepsOut.next ?_
    | with_reducible refine KeepsOut.ite ?_ ?_
    | with_reducible apply State.stopOut_keeps
    | with_reducible apply State.put_keeps
    | with_reducible apply State.uncut_keeps
    | dsimp only
    | split
    | with_reducible refine Keeps.ite ?_ ?_
    | with_reducible refine Keeps.foldl ?_ ?_
    | with_reducible refine Keeps.foldl_fst ?_ ?_
    | intro _
    | split
    | dsimp only
    | rfl
    | refine Keeps.upd ?_
    | simp only [updAt_length, List.length_map]

end Sys2Proof.Machine
end

