-- ==== Sys2Proof/Laws/Keeps/Winter.lean ====
section
/-!
SUPPORT. What the operations of Machine/Winter.lean keep.
-/

set_option Elab.async false
set_option linter.all false

namespace Sys2Proof.Machine

theorem State.powerRequest_keeps {r s : State} (h : Keeps r s) (w : Writer) (req : Nat) (k : State → State) (hk : ∀ t, Keeps r t → Keeps r (k t)) :
    Keeps r (State.powerRequest s w req k) := by
  unfold State.powerRequest
  repeat' first
    | with_reducible assumption
    | apply hk
    | with_reducible apply State.writeBy_keeps
    | with_reducible apply State.put_keeps
    | with_reducible apply State.raise_keeps
    | with_reducible refine Keeps.ite ?_ ?_
    | with_reducible refine Keeps.foldl ?_ ?_
    | with_reducible refine Keeps.foldl_fst ?_ ?_
    | intro _
    | split
    | dsimp only
    | rfl
    | refine Keeps.upd ?_
    | simp only [updAt_length, List.length_map]

theorem State.beginSlack_keeps {r s : State} (h : Keeps r s) (enter : Bool) :
    Keeps r (State.beginSlack s enter) := by
  unfold State.beginSlack
  repeat' first
    | with_reducible assumption
    | with_reducible apply State.put_keeps
    | with_reducible apply State.setOut_keeps
    | with_reducible apply State.slackCheck_keeps
    | with_reducible refine Keeps.ite ?_ ?_
    | with_reducible refine Keeps.foldl ?_ ?_
    | with_reducible refine Keeps.foldl_fst ?_ ?_
    | intro _
    | split
    | dsimp only
    | rfl
    | refine Keeps.upd ?_
    | simp only [updAt_length, List.length_map]

theorem State.beginThaw_keeps {r s : State} (h : Keeps r s) (target : Nat) :
    Keeps r (State.beginThaw s target) := by
  unfold State.beginThaw
  repeat' first
    | with_reducible assumption
    | with_reducible apply State.put_keeps
    | with_reducible apply State.setPower_keeps
    | with_reducible refine Keeps.ite ?_ ?_
    | with_reducible refine Keeps.foldl ?_ ?_
    | with_reducible refine Keeps.foldl_fst ?_ ?_
    | intro _
    | split
    | dsimp only
    | rfl
    | refine Keeps.upd ?_
    | simp only [updAt_length, List.length_map]

theorem execPowerRequestRun_keeps {r s : State} (h : Keeps r s) (w : Writer) :
    KeepsOut r (execPowerRequestRun w s) := by
  unfold execPowerRequestRun
  repeat' first
    | with_reducible assumption
    | refine KeepsOut.next ?_
    | with_reducible refine KeepsOut.ite ?_ ?_
    | with_reducible apply State.powerRequest_keeps
    | with_reducible apply State.beginSlack_keeps
    | with_reducible apply State.beginThaw_keeps
    | dsimp only
    | split
    | with_reducible refine Keeps.ite ?_ ?_
    | with_reducible refine Keeps.foldl ?_ ?_
    | with_reducible refine Keeps.foldl_fst ?_ ?_
    | intro _
    | split
    | dsimp only
    | rfl
    | refine Keeps.upd ?_
    | simp only [updAt_length, List.length_map]

theorem execPowerRequestSlack_keeps {r s : State} (h : Keeps r s) (w : Writer) :
    KeepsOut r (execPowerRequestSlack w s) := by
  unfold execPowerRequestSlack
  repeat' first
    | with_reducible assumption
    | refine KeepsOut.next ?_
    | with_reducible refine KeepsOut.ite ?_ ?_
    | with_reducible apply State.powerRequest_keeps
    | with_reducible apply State.beginSlack_keeps
    | with_reducible apply State.beginThaw_keeps
    | dsimp only
    | split
    | with_reducible refine Keeps.ite ?_ ?_
    | with_reducible refine Keeps.foldl ?_ ?_
    | with_reducible refine Keeps.foldl_fst ?_ ?_
    | intro _
    | split
    | dsimp only
    | rfl
    | refine Keeps.upd ?_
    | simp only [updAt_length, List.length_map]

theorem execPowerRequestWinter_keeps {r s : State} (h : Keeps r s) (w : Writer) :
    KeepsOut r (execPowerRequestWinter w s) := by
  unfold execPowerRequestWinter
  repeat' first
    | with_reducible assumption
    | refine KeepsOut.next ?_
    | with_reducible refine KeepsOut.ite ?_ ?_
    | with_reducible apply State.powerRequest_keeps
    | with_reducible apply State.puts_keeps
    | with_reducible apply State.setPower_keeps
    | with_reducible apply State.disable_keeps
    | dsimp only
    | split
    | with_reducible refine Keeps.ite ?_ ?_
    | with_reducible refine Keeps.foldl ?_ ?_
    | with_reducible refine Keeps.foldl_fst ?_ ?_
    | intro _
    | split
    | dsimp only
    | rfl
    | refine Keeps.upd ?_
    | simp only [updAt_length, List.length_map]

theorem execPowerRequestInvalid_keeps {r s : State} (h : Keeps r s) (w : Writer) (req : Fin 4) :
    KeepsOut r (execPowerRequestInvalid w req s) := by
  unfold execPowerRequestInvalid
  repeat' first
    | with_reducible assumption
    | refine KeepsOut.next ?_
    | with_reducible refine KeepsOut.ite ?_ ?_
    | with_reducible apply State.powerRequest_keeps
    | dsimp only
    | split
    | with_reducible refine Keeps.ite ?_ ?_
    | with_reducible refine Keeps.foldl ?_ ?_
    | with_reducible refine Keeps.foldl_fst ?_ ?_
    | intro _
    | split
    | dsimp only
    | rfl
    | refine Keeps.upd ?_
    | simp only [updAt_length, List.length_map]

theorem execSlackExitDeadline_keeps {r s : State} (h : Keeps r s) :
    KeepsOut r (execSlackExitDeadline s) := by
  unfold execSlackExitDeadline
  repeat' first
    | with_reducible assumption
    | refine KeepsOut.next ?_
    | with_reducible refine KeepsOut.ite ?_ ?_
    | with_reducible apply State.setOut_keeps
    | with_reducible apply State.slackCheck_keeps
    | dsimp only
    | split
    | with_reducible refine Keeps.ite ?_ ?_
    | with_reducible refine Keeps.foldl ?_ ?_
    | with_reducible refine Keeps.foldl_fst ?_ ?_
    | intro _
    | split
    | dsimp only
    | rfl
    | refine Keeps.upd ?_
    | simp only [updAt_length, List.length_map]

theorem State.loseCtx_keeps {r s : State} (h : Keeps r s) (e : Nat) :
    Keeps r (State.loseCtx s e) := by
  unfold State.loseCtx
  repeat' first
    | with_reducible assumption
    | with_reducible apply State.setEddy_keeps
    | with_reducible apply State.put_keeps
    | with_reducible refine Keeps.ite ?_ ?_
    | with_reducible refine Keeps.foldl ?_ ?_
    | with_reducible refine Keeps.foldl_fst ?_ ?_
    | intro _
    | split
    | dsimp only
    | rfl
    | refine Keeps.upd ?_
    | simp only [updAt_length, List.length_map]

theorem State.lapseViews_keeps {r s : State} (h : Keeps r s) :
    Keeps r (State.lapseViews s) := by
  unfold State.lapseViews
  repeat' first
    | with_reducible assumption
    | with_reducible apply State.judgeViews_keeps
    | with_reducible refine Keeps.ite ?_ ?_
    | with_reducible refine Keeps.foldl ?_ ?_
    | with_reducible refine Keeps.foldl_fst ?_ ?_
    | intro _
    | split
    | dsimp only
    | rfl
    | refine Keeps.upd ?_
    | simp only [updAt_length, List.length_map]

theorem State.fabricDown_keeps {r s : State} (h : Keeps r s) :
    Keeps r (State.fabricDown s) := by
  unfold State.fabricDown
  repeat' first
    | with_reducible assumption
    | with_reducible apply State.setPurser_keeps
    | with_reducible apply State.puts_keeps
    | with_reducible apply State.setPower_keeps
    | with_reducible refine Keeps.ite ?_ ?_
    | with_reducible refine Keeps.foldl ?_ ?_
    | with_reducible refine Keeps.foldl_fst ?_ ?_
    | intro _
    | split
    | dsimp only
    | rfl
    | refine Keeps.upd ?_
    | simp only [updAt_length, List.length_map]

theorem State.intoWinter_keeps {r s : State} (h : Keeps r s) :
    Keeps r (State.intoWinter s) := by
  unfold State.intoWinter
  repeat' first
    | with_reducible assumption
    | with_reducible apply State.yieldWindow_keeps
    | with_reducible apply State.afterWindow_keeps
    | with_reducible apply State.portsStop_keeps
    | with_reducible apply State.timeWinter_keeps
    | with_reducible apply State.puts_keeps
    | with_reducible apply State.unlockBase_keeps
    | with_reducible apply State.loseCtx_keeps
    | with_reducible apply State.plrlPins_keeps
    | with_reducible apply State.lapseViews_keeps
    | with_reducible apply State.fabricDown_keeps
    | with_reducible apply State.setPower_keeps
    | with_reducible apply State.put_keeps
    | with_reducible refine Keeps.ite ?_ ?_
    | with_reducible refine Keeps.foldl ?_ ?_
    | with_reducible refine Keeps.foldl_fst ?_ ?_
    | intro _
    | split
    | dsimp only
    | rfl
    | refine Keeps.upd ?_
    | simp only [updAt_length, List.length_map]

theorem execWinterQuiesced_keeps {r s : State} (h : Keeps r s) :
    KeepsOut r (execWinterQuiesced s) := by
  unfold execWinterQuiesced
  repeat' first
    | with_reducible assumption
    | refine KeepsOut.next ?_
    | with_reducible refine KeepsOut.ite ?_ ?_
    | with_reducible apply State.intoWinter_keeps
    | dsimp only
    | split
    | with_reducible refine Keeps.ite ?_ ?_
    | with_reducible refine Keeps.foldl ?_ ?_
    | with_reducible refine Keeps.foldl_fst ?_ ?_
    | intro _
    | split
    | dsimp only
    | rfl
    | refine Keeps.upd ?_
    | simp only [updAt_length, List.length_map]

theorem State.wakeOutputs_keeps {r s : State} (h : Keeps r s) :
    Keeps r (State.wakeOutputs s) := by
  unfold State.wakeOutputs
  repeat' first
    | with_reducible assumption
    | with_reducible apply State.put_keeps
    | with_reducible apply State.setOut_keeps
    | with_reducible apply State.startOut_keeps
    | with_reducible refine Keeps.ite ?_ ?_
    | with_reducible refine Keeps.foldl ?_ ?_
    | with_reducible refine Keeps.foldl_fst ?_ ?_
    | intro _
    | split
    | dsimp only
    | rfl
    | refine Keeps.upd ?_
    | simp only [updAt_length, List.length_map]

theorem execWinterEntryTimeout_keeps {r s : State} (h : Keeps r s) (met : Bool) :
    KeepsOut r (execWinterEntryTimeout met s) := by
  unfold execWinterEntryTimeout
  repeat' first
    | with_reducible assumption
    | refine KeepsOut.next ?_
    | with_reducible refine KeepsOut.ite ?_ ?_
    | with_reducible apply State.abandonEntry_keeps
    | with_reducible apply State.wakeOutputs_keeps
    | dsimp only
    | split
    | with_reducible refine Keeps.ite ?_ ?_
    | with_reducible refine Keeps.foldl ?_ ?_
    | with_reducible refine Keeps.foldl_fst ?_ ?_
    | intro _
    | split
    | dsimp only
    | rfl
    | refine Keeps.upd ?_
    | simp only [updAt_length, List.length_map]

theorem execVddHoldLate_keeps {r s : State} (h : Keeps r s) (met : Bool) :
    KeepsOut r (execVddHoldLate met s) := by
  unfold execVddHoldLate
  repeat' first
    | with_reducible assumption
    | refine KeepsOut.next ?_
    | with_reducible refine KeepsOut.ite ?_ ?_
    | with_reducible apply State.setPower_keeps
    | with_reducible apply State.raise_keeps
    | dsimp only
    | split
    | with_reducible refine Keeps.ite ?_ ?_
    | with_reducible refine Keeps.foldl ?_ ?_
    | with_reducible refine Keeps.foldl_fst ?_ ?_
    | intro _
    | split
    | dsimp only
    | rfl
    | refine Keeps.upd ?_
    | simp only [updAt_length, List.length_map]

theorem execThawSwitchesClose_keeps {r s : State} (h : Keeps r s) (lost : Bool) :
    KeepsOut r (execThawSwitchesClose lost s) := by
  unfold execThawSwitchesClose
  repeat' first
    | with_reducible assumption
    | refine KeepsOut.next ?_
    | with_reducible refine KeepsOut.ite ?_ ?_
    | with_reducible apply State.losebank_keeps
    | with_reducible apply State.plrlPins_keeps
    | with_reducible apply State.setPower_keeps
    | dsimp only
    | split
    | with_reducible refine Keeps.ite ?_ ?_
    | with_reducible refine Keeps.foldl ?_ ?_
    | with_reducible refine Keeps.foldl_fst ?_ ?_
    | intro _
    | split
    | dsimp only
    | rfl
    | refine Keeps.upd ?_
    | simp only [updAt_length, List.length_map]

theorem State.beginWave_keeps {r s : State} (h : Keeps r s) :
    Keeps r (State.beginWave s) := by
  unfold State.beginWave
  repeat' first
    | with_reducible assumption
    | with_reducible refine Keeps.ite ?_ ?_
    | with_reducible refine Keeps.foldl ?_ ?_
    | with_reducible refine Keeps.foldl_fst ?_ ?_
    | intro _
    | split
    | dsimp only
    | rfl
    | refine Keeps.upd ?_
    | simp only [updAt_length, List.length_map]

theorem execThawPllsLocked_keeps {r s : State} (h : Keeps r s) :
    KeepsOut r (execThawPllsLocked s) := by
  unfold execThawPllsLocked
  repeat' first
    | with_reducible assumption
    | refine KeepsOut.next ?_
    | with_reducible refine KeepsOut.ite ?_ ?_
    | with_reducible apply State.setPower_keeps
    | with_reducible apply State.lockPlls_keeps
    | with_reducible apply State.serve_keeps
    | with_reducible apply State.beginWave_keeps
    | dsimp only
    | split
    | with_reducible refine Keeps.ite ?_ ?_
    | with_reducible refine Keeps.foldl ?_ ?_
    | with_reducible refine Keeps.foldl_fst ?_ ?_
    | intro _
    | split
    | dsimp only
    | rfl
    | refine Keeps.upd ?_
    | simp only [updAt_length, List.length_map]

theorem execHoldGroupReady_keeps {r s : State} (h : Keeps r s) (group : Fin 16) :
    KeepsOut r (execHoldGroupReady group s) := by
  unfold execHoldGroupReady
  repeat' first
    | with_reducible assumption
    | refine KeepsOut.next ?_
    | with_reducible refine KeepsOut.ite ?_ ?_
    | with_reducible apply State.clearRange_keeps
    | with_reducible apply State.beginWave_keeps
    | with_reducible apply State.releaseHeld_keeps
    | with_reducible apply State.raise_keeps
    | with_reducible apply State.raiseIf_keeps
    | with_reducible apply State.portsStart_keeps
    | dsimp only
    | split
    | with_reducible refine Keeps.ite ?_ ?_
    | with_reducible refine Keeps.foldl ?_ ?_
    | with_reducible refine Keeps.foldl_fst ?_ ?_
    | intro _
    | split
    | dsimp only
    | rfl
    | refine Keeps.upd ?_
    | simp only [updAt_length, List.length_map]

theorem execThawComplete_keeps {r s : State} (h : Keeps r s) :
    KeepsOut r (execThawComplete s) := by
  unfold execThawComplete
  repeat' first
    | with_reducible assumption
    | refine KeepsOut.next ?_
    | with_reducible refine KeepsOut.ite ?_ ?_
    | with_reducible apply State.setOut_keeps
    | with_reducible apply State.sendWaiting_keeps
    | with_reducible apply State.put_keeps
    | with_reducible apply State.setPower_keeps
    | with_reducible apply State.startOut_keeps
    | with_reducible apply State.wakeOutputs_keeps
    | with_reducible apply State.raise_keeps
    | with_reducible apply State.raiseIf_keeps
    | dsimp only
    | split
    | with_reducible refine Keeps.ite ?_ ?_
    | with_reducible refine Keeps.foldl ?_ ?_
    | with_reducible refine Keeps.foldl_fst ?_ ?_
    | intro _
    | split
    | dsimp only
    | rfl
    | refine Keeps.upd ?_
    | simp only [updAt_length, List.length_map]

end Sys2Proof.Machine
end

