-- ==== Sys2Proof/Laws/Keeps/Clocks.lean ====
section
/-!
SUPPORT. What the operations of Machine/Clocks.lean keep.
-/

set_option Elab.async false
set_option linter.all false

namespace Sys2Proof.Machine

theorem execRefclkLoss_keeps {r s : State} (h : Keeps r s) :
    KeepsOut r (execRefclkLoss s) := by
  unfold execRefclkLoss
  repeat' first
    | with_reducible assumption
    | refine KeepsOut.next ?_
    | with_reducible refine KeepsOut.ite ?_ ?_
    | with_reducible apply State.setTime_keeps
    | with_reducible apply State.put_keeps
    | with_reducible apply State.count_keeps
    | with_reducible apply State.raise_keeps
    | with_reducible apply State.loseSource_keeps
    | dsimp only
    | split
    | with_reducible refine Keeps.ite ?_ ?_
    | with_reducible refine Keeps.foldl ?_ ?_
    | with_reducible refine Keeps.foldl_fst ?_ ?_
    | intro _
    | split
    | dsimp only
    | rfl
    | refine Keeps.upd ?_
    | simp only [updAt_length, List.length_map]

theorem execRefclkRestore_keeps {r s : State} (h : Keeps r s) :
    KeepsOut r (execRefclkRestore s) := by
  unfold execRefclkRestore
  repeat' first
    | with_reducible assumption
    | refine KeepsOut.next ?_
    | with_reducible refine KeepsOut.ite ?_ ?_
    | with_reducible apply State.setTime_keeps
    | with_reducible apply State.put_keeps
    | with_reducible apply State.raise_keeps
    | with_reducible apply State.tickRefBack_keeps
    | dsimp only
    | split
    | with_reducible refine Keeps.ite ?_ ?_
    | with_reducible refine Keeps.foldl ?_ ?_
    | with_reducible refine Keeps.foldl_fst ?_ ?_
    | intro _
    | split
    | dsimp only
    | rfl
    | refine Keeps.upd ?_
    | simp only [updAt_length, List.length_map]

theorem execAonCrystalStop_keeps {r s : State} (h : Keeps r s) :
    KeepsOut r (execAonCrystalStop s) := by
  unfold execAonCrystalStop
  repeat' first
    | with_reducible assumption
    | refine KeepsOut.next ?_
    | with_reducible refine KeepsOut.ite ?_ ?_
    | with_reducible apply State.put_keeps
    | with_reducible apply State.raise_keeps
    | dsimp only
    | split
    | with_reducible refine Keeps.ite ?_ ?_
    | with_reducible refine Keeps.foldl ?_ ?_
    | with_reducible refine Keeps.foldl_fst ?_ ?_
    | intro _
    | split
    | dsimp only
    | rfl
    | refine Keeps.upd ?_
    | simp only [updAt_length, List.length_map]

theorem execPllLossOfLock_keeps {r s : State} (h : Keeps r s) (p : Pll) :
    KeepsOut r (execPllLossOfLock p s) := by
  unfold execPllLossOfLock
  repeat' first
    | with_reducible assumption
    | refine KeepsOut.next ?_
    | with_reducible refine KeepsOut.ite ?_ ?_
    | with_reducible apply State.setBit_keeps
    | with_reducible apply State.raise_keeps
    | dsimp only
    | split
    | with_reducible refine Keeps.ite ?_ ?_
    | with_reducible refine Keeps.foldl ?_ ?_
    | with_reducible refine Keeps.foldl_fst ?_ ?_
    | intro _
    | split
    | dsimp only
    | rfl
    | refine Keeps.upd ?_
    | simp only [updAt_length, List.length_map]

theorem State.restartOut_keeps {r s : State} (h : Keeps r s) (n : Nat) :
    Keeps r (State.restartOut s n) := by
  unfold State.restartOut
  repeat' first
    | with_reducible assumption
    | with_reducible apply State.startOut_keeps
    | with_reducible refine Keeps.ite ?_ ?_
    | with_reducible refine Keeps.foldl ?_ ?_
    | with_reducible refine Keeps.foldl_fst ?_ ?_
    | intro _
    | split
    | dsimp only
    | rfl
    | refine Keeps.upd ?_
    | simp only [updAt_length, List.length_map]

theorem execPllLockRegained_keeps {r s : State} (h : Keeps r s) (p : Pll) :
    KeepsOut r (execPllLockRegained p s) := by
  unfold execPllLockRegained
  repeat' first
    | with_reducible assumption
    | refine KeepsOut.next ?_
    | with_reducible refine KeepsOut.ite ?_ ?_
    | with_reducible apply State.setBit_keeps
    | with_reducible apply State.raise_keeps
    | with_reducible apply State.restartOut_keeps
    | dsimp only
    | split
    | with_reducible refine Keeps.ite ?_ ?_
    | with_reducible refine Keeps.foldl ?_ ?_
    | with_reducible refine Keeps.foldl_fst ?_ ?_
    | intro _
    | split
    | dsimp only
    | rfl
    | refine Keeps.upd ?_
    | simp only [updAt_length, List.length_map]

theorem execOutputPllRelockTimeout_keeps {r s : State} (h : Keeps r s) (n : Fin 4) (met : Bool) :
    KeepsOut r (execOutputPllRelockTimeout n met s) := by
  unfold execOutputPllRelockTimeout
  repeat' first
    | with_reducible assumption
    | refine KeepsOut.next ?_
    | with_reducible refine KeepsOut.ite ?_ ?_
    | with_reducible apply State.stopOut_keeps
    | with_reducible apply State.put_keeps
    | with_reducible apply State.startOut_keeps
    | with_reducible apply State.raiseIf_keeps
    | with_reducible apply State.setOut_keeps
    | dsimp only
    | split
    | with_reducible refine Keeps.ite ?_ ?_
    | with_reducible refine Keeps.foldl ?_ ?_
    | with_reducible refine Keeps.foldl_fst ?_ ?_
    | intro _
    | split
    | dsimp only
    | rfl
    | refine Keeps.upd ?_
    | simp only [updAt_length, List.length_map]

theorem execSupplyOutOfRange_keeps {r s : State} (h : Keeps r s) :
    KeepsOut r (execSupplyOutOfRange s) := by
  unfold execSupplyOutOfRange
  repeat' first
    | with_reducible assumption
    | refine KeepsOut.next ?_
    | with_reducible refine KeepsOut.ite ?_ ?_
    | with_reducible apply State.raise_keeps
    | dsimp only
    | split
    | with_reducible refine Keeps.ite ?_ ?_
    | with_reducible refine Keeps.foldl ?_ ?_
    | with_reducible refine Keeps.foldl_fst ?_ ?_
    | intro _
    | split
    | dsimp only
    | rfl
    | refine Keeps.upd ?_
    | simp only [updAt_length, List.length_map]

theorem execSupplyCollapse_keeps {r s : State} (h : Keeps r s) : KeepsOut r (execSupplyCollapse s) :=
  KeepsOut.ite (KeepsOut.next h) (KeepsOut.next (Keeps.reset (State.emit_keeps (State.abandonStores_keeps h) .float)
    { s.abandonStores.cal with sectors := [] } rfl
    { HostState.reset with perst := s.abandonStores.host.perst } (List.length_replicate ..)
    { PowerState.reset with off := true, pfailLow := s.abandonStores.power.pfailLow } _ rfl))

end Sys2Proof.Machine
end

