-- ==== Sys2Proof/Laws/Keeps/Scan.lean ====
section
/-!
SUPPORT. What the operations of Machine/Scan.lean keep.
-/

set_option Elab.async false
set_option linter.all false

namespace Sys2Proof.Machine

theorem execSlotReady_keeps {r s : State} (h : Keeps r s) (w : Writer) (n : Fin 4) (k : Fin 4) :
    KeepsOut r (execSlotReady w n k s) := by
  unfold execSlotReady
  repeat' first
    | with_reducible assumption
    | refine KeepsOut.next ?_
    | with_reducible refine KeepsOut.ite ?_ ?_
    | with_reducible apply State.writeBy_keeps
    | with_reducible apply State.slotWrite_keeps
    | dsimp only
    | split
    | with_reducible refine Keeps.ite ?_ ?_
    | with_reducible refine Keeps.foldl ?_ ?_
    | with_reducible refine Keeps.foldl_fst ?_ ?_
    | intro _
    | split
    | dsimp only
    | rfl
    | refine Keeps.upd ?_
    | simp only [updAt_length, List.length_map]

theorem execSlotWithdraw_keeps {r s : State} (h : Keeps r s) (w : Writer) (n : Fin 4) (k : Fin 4) :
    KeepsOut r (execSlotWithdraw w n k s) := by
  unfold execSlotWithdraw
  repeat' first
    | with_reducible assumption
    | refine KeepsOut.next ?_
    | with_reducible refine KeepsOut.ite ?_ ?_
    | with_reducible apply State.writeBy_keeps
    | with_reducible apply State.slotWrite_keeps
    | dsimp only
    | split
    | with_reducible refine Keeps.ite ?_ ?_
    | with_reducible refine Keeps.foldl ?_ ?_
    | with_reducible refine Keeps.foldl_fst ?_ ?_
    | intro _
    | split
    | dsimp only
    | rfl
    | refine Keeps.upd ?_
    | simp only [updAt_length, List.length_map]

theorem State.clearRead_keeps {r s : State} (h : Keeps r s) (n : Nat) (g : Nat) :
    Keeps r (State.clearRead s n g) := by
  unfold State.clearRead
  repeat' first
    | with_reducible assumption
    | with_reducible apply State.setOut_keeps
    | with_reducible refine Keeps.ite ?_ ?_
    | with_reducible refine Keeps.foldl ?_ ?_
    | with_reducible refine Keeps.foldl_fst ?_ ?_
    | intro _
    | split
    | dsimp only
    | rfl
    | refine Keeps.upd ?_
    | simp only [updAt_length, List.length_map]

theorem State.repeatGroup_keeps {r s : State} (h : Keeps r s) (n : Nat) (g : Nat) :
    Keeps r (State.repeatGroup s n g) := by
  unfold State.repeatGroup
  repeat' first
    | with_reducible assumption
    | with_reducible apply State.takeGroup_keeps
    | with_reducible refine Keeps.ite ?_ ?_
    | with_reducible refine Keeps.foldl ?_ ?_
    | with_reducible refine Keeps.foldl_fst ?_ ?_
    | intro _
    | split
    | dsimp only
    | rfl
    | refine Keeps.upd ?_
    | simp only [updAt_length, List.length_map]

theorem State.readGroup_keeps {r s : State} (h : Keeps r s) (view : State) (n : Nat) (g : Nat) :
    Keeps r (State.readGroup s view n g) := by
  unfold State.readGroup
  repeat' first
    | with_reducible assumption
    | with_reducible apply State.setPix_keeps
    | with_reducible apply State.clearRead_keeps
    | with_reducible apply State.takeGroup_keeps
    | with_reducible refine Keeps.ite ?_ ?_
    | with_reducible refine Keeps.foldl ?_ ?_
    | with_reducible refine Keeps.foldl_fst ?_ ?_
    | intro _
    | split
    | dsimp only
    | rfl
    | refine Keeps.upd ?_
    | simp only [updAt_length, List.length_map]

theorem State.underrun_keeps {r s : State} (h : Keeps r s) (n : Nat) (g : Nat) :
    Keeps r (State.underrun s n g) := by
  unfold State.underrun
  repeat' first
    | with_reducible assumption
    | with_reducible apply State.count_keeps
    | with_reducible apply State.raise_keeps
    | with_reducible apply State.repeatGroup_keeps
    | with_reducible refine Keeps.ite ?_ ?_
    | with_reducible refine Keeps.foldl ?_ ?_
    | with_reducible refine Keeps.foldl_fst ?_ ?_
    | intro _
    | split
    | dsimp only
    | rfl
    | refine Keeps.upd ?_
    | simp only [updAt_length, List.length_map]

theorem State.scanGroup_keeps {r s : State} (h : Keeps r s) (n : Nat) (g : Nat) (late : Bool) :
    Keeps r (State.scanGroup s n g late) := by
  unfold State.scanGroup
  repeat' first
    | with_reducible assumption
    | with_reducible apply State.underrun_keeps
    | with_reducible apply State.violate_keeps
    | with_reducible apply State.readRuns_keeps
    | with_reducible apply State.noteRun_keeps
    | with_reducible apply State.readGroup_keeps
    | with_reducible apply readView_keeps
    | with_reducible refine Keeps.ite ?_ ?_
    | with_reducible refine Keeps.foldl ?_ ?_
    | with_reducible refine Keeps.foldl_fst ?_ ?_
    | intro _
    | split
    | dsimp only
    | rfl
    | refine Keeps.upd ?_
    | simp only [updAt_length, List.length_map]

theorem execLineGroupRead_keeps {r s : State} (h : Keeps r s) (n : Fin 4) (late : Bool) (port : HoldPort) :
    KeepsOut r (execLineGroupRead n late port s) := by
  unfold execLineGroupRead
  repeat' first
    | with_reducible assumption
    | refine KeepsOut.next ?_
    | with_reducible refine KeepsOut.ite ?_ ?_
    | with_reducible apply State.throughPort_keeps
    | with_reducible apply State.takeGroup_keeps
    | with_reducible apply State.underrun_keeps
    | with_reducible apply State.count_keeps
    | with_reducible apply State.raise_keeps
    | with_reducible apply State.repeatGroup_keeps
    | with_reducible apply State.scanGroup_keeps
    | dsimp only
    | split
    | with_reducible refine Keeps.ite ?_ ?_
    | with_reducible refine Keeps.foldl ?_ ?_
    | with_reducible refine Keeps.foldl_fst ?_ ?_
    | intro _
    | split
    | dsimp only
    | rfl
    | refine Keeps.upd ?_
    | simp only [updAt_length, List.length_map]

theorem State.regionPush_keeps {r s : State} (h : Keeps r s) (n : Nat) :
    Keeps r (State.regionPush s n) := by
  unfold State.regionPush
  repeat' first
    | with_reducible assumption
    | with_reducible apply State.put_keeps
    | with_reducible apply State.raiseIf_keeps
    | with_reducible apply State.puts_keeps
    | with_reducible apply State.setRegion_keeps
    | with_reducible apply State.regionGo_keeps
    | with_reducible refine Keeps.ite ?_ ?_
    | with_reducible refine Keeps.foldl ?_ ?_
    | with_reducible refine Keeps.foldl_fst ?_ ?_
    | intro _
    | split
    | dsimp only
    | rfl
    | refine Keeps.upd ?_
    | simp only [updAt_length, List.length_map]

theorem State.regionFlush_keeps {r s : State} (h : Keeps r s) (n : Nat) :
    Keeps r (State.regionFlush s n) := by
  unfold State.regionFlush
  repeat' first
    | with_reducible assumption
    | with_reducible apply State.put_keeps
    | with_reducible apply State.setRegion_keeps
    | with_reducible refine Keeps.ite ?_ ?_
    | with_reducible refine Keeps.foldl ?_ ?_
    | with_reducible refine Keeps.foldl_fst ?_ ?_
    | intro _
    | split
    | dsimp only
    | rfl
    | refine Keeps.upd ?_
    | simp only [updAt_length, List.length_map]

theorem execRgnPush_keeps {r s : State} (h : Keeps r s) (w : Writer) (n : Fin 4) (flush : Bool) :
    KeepsOut r (execRgnPush w n flush s) := by
  unfold execRgnPush
  repeat' first
    | with_reducible assumption
    | refine KeepsOut.next ?_
    | with_reducible refine KeepsOut.ite ?_ ?_
    | with_reducible apply State.writeBy_keeps
    | with_reducible apply State.regionFlush_keeps
    | with_reducible apply State.regionPush_keeps
    | dsimp only
    | split
    | with_reducible refine Keeps.ite ?_ ?_
    | with_reducible refine Keeps.foldl ?_ ?_
    | with_reducible refine Keeps.foldl_fst ?_ ?_
    | intro _
    | split
    | dsimp only
    | rfl
    | refine Keeps.upd ?_
    | simp only [updAt_length, List.length_map]

theorem execRgnFlush_keeps {r s : State} (h : Keeps r s) (w : Writer) (n : Fin 4) :
    KeepsOut r (execRgnFlush w n s) := by
  unfold execRgnFlush
  repeat' first
    | with_reducible assumption
    | refine KeepsOut.next ?_
    | with_reducible refine KeepsOut.ite ?_ ?_
    | with_reducible apply State.writeBy_keeps
    | with_reducible apply State.regionFlush_keeps
    | dsimp only
    | split
    | with_reducible refine Keeps.ite ?_ ?_
    | with_reducible refine Keeps.foldl ?_ ?_
    | with_reducible refine Keeps.foldl_fst ?_ ?_
    | intro _
    | split
    | dsimp only
    | rfl
    | refine Keeps.upd ?_
    | simp only [updAt_length, List.length_map]

theorem State.copyRun_keeps {r s : State} (h : Keeps r s) (m : Nat) (src : Nat) (dst : Nat) (len : Nat) :
    Keeps r (State.copyRun s m src dst len) := by
  unfold State.copyRun
  repeat' first
    | with_reducible assumption
    | with_reducible apply State.violate_keeps
    | with_reducible apply State.readRun_keeps
    | with_reducible apply State.noteRun_keeps
    | with_reducible apply State.storeAs_keeps
    | with_reducible apply readView_keeps
    | with_reducible refine Keeps.ite ?_ ?_
    | with_reducible refine Keeps.foldl ?_ ?_
    | with_reducible refine Keeps.foldl_fst ?_ ?_
    | intro _
    | split
    | dsimp only
    | rfl
    | refine Keeps.upd ?_
    | simp only [updAt_length, List.length_map]

theorem State.copyRuns_keeps {r s : State} (h : Keeps r s) (m : Nat) (a b : List (Nat × Nat)) : Keeps r (s.copyRuns m a b) := by
  induction a generalizing s b with
  | nil => unfold State.copyRuns; exact h
  | cons x a ih =>
    cases b with
    | nil => unfold State.copyRuns; exact h
    | cons y b => exact ih (State.copyRun_keeps h _ _ _ _) _

theorem State.copyStage_keeps {r s : State} (h : Keeps r s) (n : Nat) (k : Nat) (r' : Region) :
    Keeps r (State.copyStage s n k r') := by
  unfold State.copyStage
  repeat' first
    | with_reducible assumption
    | with_reducible apply State.copyRuns_keeps
    | with_reducible refine Keeps.ite ?_ ?_
    | with_reducible refine Keeps.foldl ?_ ?_
    | with_reducible refine Keeps.foldl_fst ?_ ?_
    | intro _
    | split
    | dsimp only
    | rfl
    | refine Keeps.upd ?_
    | simp only [updAt_length, List.length_map]

theorem State.copySlots_keeps {r s : State} (h : Keeps r s) (n : Nat) (a : Nat) (b : Nat) (r' : Region) :
    Keeps r (State.copySlots s n a b r') := by
  unfold State.copySlots
  repeat' first
    | with_reducible assumption
    | with_reducible apply State.copyRuns_keeps
    | with_reducible refine Keeps.ite ?_ ?_
    | with_reducible refine Keeps.foldl ?_ ?_
    | with_reducible refine Keeps.foldl_fst ?_ ?_
    | intro _
    | split
    | dsimp only
    | rfl
    | refine Keeps.upd ?_
    | simp only [updAt_length, List.length_map]

theorem execRegionSeedDone_keeps {r s : State} (h : Keeps r s) (n : Fin 4) (port : HoldPort) :
    KeepsOut r (execRegionSeedDone n port s) := by
  unfold execRegionSeedDone
  repeat' first
    | with_reducible assumption
    | refine KeepsOut.next ?_
    | with_reducible refine KeepsOut.ite ?_ ?_
    | with_reducible apply State.throughPort_keeps
    | with_reducible apply State.copySlots_keeps
    | with_reducible apply State.put_keeps
    | with_reducible apply State.setRegion_keeps
    | with_reducible apply State.regionGo_keeps
    | dsimp only
    | split
    | with_reducible refine Keeps.ite ?_ ?_
    | with_reducible refine Keeps.foldl ?_ ?_
    | with_reducible refine Keeps.foldl_fst ?_ ?_
    | intro _
    | split
    | dsimp only
    | rfl
    | refine Keeps.upd ?_
    | simp only [updAt_length, List.length_map]

theorem execRegionCopyDone_keeps {r s : State} (h : Keeps r s) (n : Fin 4) (port : HoldPort) :
    KeepsOut r (execRegionCopyDone n port s) := by
  unfold execRegionCopyDone
  repeat' first
    | with_reducible assumption
    | refine KeepsOut.next ?_
    | with_reducible refine KeepsOut.ite ?_ ?_
    | with_reducible apply State.throughPort_keeps
    | with_reducible apply State.copyStage_keeps
    | with_reducible apply State.put_keeps
    | with_reducible apply State.setRegion_keeps
    | with_reducible apply State.regionGo_keeps
    | dsimp only
    | split
    | with_reducible refine Keeps.ite ?_ ?_
    | with_reducible refine Keeps.foldl ?_ ?_
    | with_reducible refine Keeps.foldl_fst ?_ ?_
    | intro _
    | split
    | dsimp only
    | rfl
    | refine Keeps.upd ?_
    | simp only [updAt_length, List.length_map]

theorem execRegionMergeDone_keeps {r s : State} (h : Keeps r s) (n : Fin 4) (port : HoldPort) :
    KeepsOut r (execRegionMergeDone n port s) := by
  unfold execRegionMergeDone
  repeat' first
    | with_reducible assumption
    | refine KeepsOut.next ?_
    | with_reducible refine KeepsOut.ite ?_ ?_
    | with_reducible apply State.throughPort_keeps
    | with_reducible apply State.copySlots_keeps
    | with_reducible apply State.puts_keeps
    | with_reducible apply State.setRegion_keeps
    | with_reducible apply State.regionGo_keeps
    | with_reducible apply State.raise_keeps
    | dsimp only
    | split
    | with_reducible refine Keeps.ite ?_ ?_
    | with_reducible refine Keeps.foldl ?_ ?_
    | with_reducible refine Keeps.foldl_fst ?_ ?_
    | intro _
    | split
    | dsimp only
    | rfl
    | refine Keeps.upd ?_
    | simp only [updAt_length, List.length_map]

end Sys2Proof.Machine
end

