-- ==== Sys2Proof/Laws/Keeps/Gate.lean ====
section
/-!
SUPPORT. What the operations of Machine/Gate.lean keep.
-/

set_option Elab.async false
set_option linter.all false

namespace Sys2Proof.Machine

theorem execMarchHoldLimit_keeps {r s : State} (h : Keeps r s) (met : Bool) :
    KeepsOut r (execMarchHoldLimit met s) := by
  unfold execMarchHoldLimit
  repeat' first
    | with_reducible assumption
    | refine KeepsOut.next ?_
    | with_reducible refine KeepsOut.ite ?_ ?_
    | with_reducible apply State.yieldWindow_keeps
    | with_reducible apply State.afterWindow_keeps
    | dsimp only
    | split
    | with_reducible refine Keeps.ite ?_ ?_
    | with_reducible refine Keeps.foldl ?_ ?_
    | with_reducible refine Keeps.foldl_fst ?_ ?_
    | intro _
    | split
    | dsimp only
    | rfl
    | refine Keeps.upd ?_
    | simp only [updAt_length, List.length_map]

end Sys2Proof.Machine
end

