-- ==== Sys2Proof/Laws/Keeps/Ledger.lean ====
section
/-!
SUPPORT. What the operations of Machine/Ledger.lean keep.
-/

set_option Elab.async false
set_option linter.all false

namespace Sys2Proof.Machine

theorem State.rowAnswered_keeps {r s : State} (h : Keeps r s) (n : Nat) (row : Nat) (gen : Bool) (data : List Byte) :
    Keeps r (State.rowAnswered s n row gen data) := by
  unfold State.rowAnswered
  repeat' first
    | with_reducible assumption
    | with_reducible apply State.setWear_keeps
    | with_reducible refine Keeps.ite ?_ ?_
    | with_reducible refine Keeps.foldl ?_ ?_
    | with_reducible refine Keeps.foldl_fst ?_ ?_
    | intro _
    | split
    | dsimp only
    | rfl
    | refine Keeps.upd ?_
    | simp only [updAt_length, List.length_map]

theorem State.genAsk_keeps {r s : State} (h : Keeps r s) (n : Nat) (g : Nat) :
    Keeps r (State.genAsk s n g) := by
  unfold State.genAsk
  repeat' first
    | with_reducible assumption
    | with_reducible apply State.setWear_keeps
    | with_reducible apply State.sendLtr_keeps
    | with_reducible refine Keeps.ite ?_ ?_
    | with_reducible refine Keeps.foldl ?_ ?_
    | with_reducible refine Keeps.foldl_fst ?_ ?_
    | intro _
    | split
    | dsimp only
    | rfl
    | refine Keeps.upd ?_
    | simp only [updAt_length, List.length_map]

theorem State.genReady_keeps {r s : State} (h : Keeps r s) (n : Nat) :
    Keeps r (State.genReady s n) := by
  unfold State.genReady
  repeat' first
    | with_reducible assumption
    | with_reducible apply State.setWear_keeps
    | with_reducible apply State.count_keeps
    | with_reducible apply State.put_keeps
    | with_reducible apply State.setEddy_keeps
    | with_reducible apply State.showInternal_keeps
    | with_reducible refine Keeps.ite ?_ ?_
    | with_reducible refine Keeps.foldl ?_ ?_
    | with_reducible refine Keeps.foldl_fst ?_ ?_
    | intro _
    | split
    | dsimp only
    | rfl
    | refine Keeps.upd ?_
    | simp only [updAt_length, List.length_map]

theorem State.rowCame_keeps {r s : State} (h : Keeps r s) (n : Nat) (row : Nat) (gen : Bool) (l : List Byte) :
    Keeps r (State.rowCame s n row gen l) := by
  unfold State.rowCame
  repeat' first
    | with_reducible assumption
    | with_reducible apply State.setWear_keeps
    | with_reducible apply State.genReady_keeps
    | with_reducible apply State.sampleRow_keeps
    | with_reducible refine Keeps.ite ?_ ?_
    | with_reducible refine Keeps.foldl ?_ ?_
    | with_reducible refine Keeps.foldl_fst ?_ ?_
    | intro _
    | split
    | dsimp only
    | rfl
    | refine Keeps.upd ?_
    | simp only [updAt_length, List.length_map]

theorem execWearLedgerReadDone_keeps {r s : State} (h : Keeps r s) (n : Fin 4) (row : Nat) (gen : Bool) (data : List Byte) (reply : BusReply) :
    KeepsOut r (execWearLedgerReadDone n row gen data reply s) := by
  unfold execWearLedgerReadDone
  repeat' first
    | with_reducible assumption
    | refine KeepsOut.next ?_
    | with_reducible refine KeepsOut.ite ?_ ?_
    | with_reducible apply State.npEnd_keeps
    | with_reducible apply State.aerReply_keeps
    | with_reducible apply State.rowAnswered_keeps
    | with_reducible apply State.dropReads_keeps
    | with_reducible apply State.ledgerError_keeps
    | with_reducible apply State.skipRow_keeps
    | with_reducible apply State.rowCame_keeps
    | with_reducible apply State.showLedger_keeps
    | with_reducible apply State.dmaGo_keeps
    | dsimp only
    | split
    | with_reducible refine Keeps.ite ?_ ?_
    | with_reducible refine Keeps.foldl ?_ ?_
    | with_reducible refine Keeps.foldl_fst ?_ ?_
    | intro _
    | split
    | dsimp only
    | rfl
    | refine Keeps.upd ?_
    | simp only [updAt_length, List.length_map]

theorem execWearLedgerWriteDone_keeps {r s : State} (h : Keeps r s) (n : Fin 4) (row : Nat) (reply : BusReply) :
    KeepsOut r (execWearLedgerWriteDone n row reply s) := by
  unfold execWearLedgerWriteDone
  repeat' first
    | with_reducible assumption
    | refine KeepsOut.next ?_
    | with_reducible refine KeepsOut.ite ?_ ?_
    | with_reducible apply State.npEnd_keeps
    | with_reducible apply State.aerReply_keeps
    | with_reducible apply State.setWear_keeps
    | with_reducible apply State.ledgerError_keeps
    | with_reducible apply State.askLedger_keeps
    | with_reducible apply State.showLedger_keeps
    | with_reducible apply State.dmaGo_keeps
    | dsimp only
    | split
    | with_reducible refine Keeps.ite ?_ ?_
    | with_reducible refine Keeps.foldl ?_ ?_
    | with_reducible refine Keeps.foldl_fst ?_ ?_
    | intro _
    | split
    | dsimp only
    | rfl
    | refine Keeps.upd ?_
    | simp only [updAt_length, List.length_map]

theorem execWearGenGroup_keeps {r s : State} (h : Keeps r s) (n : Fin 4) :
    KeepsOut r (execWearGenGroup n s) := by
  unfold execWearGenGroup
  repeat' first
    | with_reducible assumption
    | refine KeepsOut.next ?_
    | with_reducible refine KeepsOut.ite ?_ ?_
    | with_reducible apply State.genAsk_keeps
    | with_reducible apply State.showLedger_keeps
    | with_reducible apply State.dmaGo_keeps
    | dsimp only
    | split
    | with_reducible refine Keeps.ite ?_ ?_
    | with_reducible refine Keeps.foldl ?_ ?_
    | with_reducible refine Keeps.foldl_fst ?_ ?_
    | intro _
    | split
    | dsimp only
    | rfl
    | refine Keeps.upd ?_
    | simp only [updAt_length, List.length_map]

end Sys2Proof.Machine
end

