-- ==== Sys2Proof/Laws/Keeps/Registers.lean ====
section
/-!
SUPPORT. What the operations of Machine/Registers.lean keep.
-/

set_option Elab.async false
set_option linter.all false

namespace Sys2Proof.Machine

theorem State.writePending_keeps {r s : State} (h : Keeps r s) (g : Nat) (data : Word) (hwSet : Word) :
    Keeps r (State.writePending s g data hwSet) := by
  unfold State.writePending
  repeat' first
    | with_reducible assumption
    | with_reducible apply State.raiseWith_keeps
    | with_reducible apply State.plainWrite_keeps
    | with_reducible apply State.settlePba_keeps
    | with_reducible refine Keeps.ite ?_ ?_
    | with_reducible refine Keeps.foldl ?_ ?_
    | with_reducible refine Keeps.foldl_fst ?_ ?_
    | intro _
    | split
    | dsimp only
    | rfl
    | refine Keeps.upd ?_
    | simp only [updAt_length, List.length_map]

theorem State.writeEnable_keeps {r s : State} (h : Keeps r s) (g : Nat) (data : Word) :
    Keeps r (State.writeEnable s g data) := by
  unfold State.writeEnable
  repeat' first
    | with_reducible assumption
    | with_reducible apply State.messageDue_keeps
    | with_reducible apply State.plainWrite_keeps
    | with_reducible refine Keeps.ite ?_ ?_
    | with_reducible refine Keeps.foldl ?_ ?_
    | with_reducible refine Keeps.foldl_fst ?_ ?_
    | intro _
    | split
    | dsimp only
    | rfl
    | refine Keeps.upd ?_
    | simp only [updAt_length, List.length_map]

theorem State.writeRoute_keeps {r s : State} (h : Keeps r s) (src : Nat) (data : Word) :
    Keeps r (State.writeRoute s src data) := by
  unfold State.writeRoute
  repeat' first
    | with_reducible assumption
    | with_reducible apply State.plainWrite_keeps
    | with_reducible apply State.messageDue_keeps
    | with_reducible refine Keeps.ite ?_ ?_
    | with_reducible refine Keeps.foldl ?_ ?_
    | with_reducible refine Keeps.foldl_fst ?_ ?_
    | intro _
    | split
    | dsimp only
    | rfl
    | refine Keeps.upd ?_
    | simp only [updAt_length, List.length_map]

theorem State.writeSlot_keeps {r s : State} (h : Keeps r s) (k : Nat) (key : Nat) (data : Word) :
    Keeps r (State.writeSlot s k key data) := by
  unfold State.writeSlot
  repeat' first
    | with_reducible assumption
    | with_reducible apply State.raise_keeps
    | with_reducible apply State.plainWrite_keeps
    | with_reducible refine Keeps.ite ?_ ?_
    | with_reducible refine Keeps.foldl ?_ ?_
    | with_reducible refine Keeps.foldl_fst ?_ ?_
    | intro _
    | split
    | dsimp only
    | rfl
    | refine Keeps.upd ?_
    | simp only [updAt_length, List.length_map]

theorem State.writeWindow_keeps {r s : State} (h : Keeps r s) (k : Nat) (data : Word) :
    Keeps r (State.writeWindow s k data) := by
  unfold State.writeWindow
  repeat' first
    | with_reducible assumption
    | with_reducible apply State.plainWrite_keeps
    | with_reducible apply State.checkWindows_keeps
    | with_reducible refine Keeps.ite ?_ ?_
    | with_reducible refine Keeps.foldl ?_ ?_
    | with_reducible refine Keeps.foldl_fst ?_ ?_
    | intro _
    | split
    | dsimp only
    | rfl
    | refine Keeps.upd ?_
    | simp only [updAt_length, List.length_map]

theorem State.writeFields_keeps {r s : State} (h : Keeps r s) (key : Nat) (data : Word) (mask : Nat) :
    Keeps r (State.writeFields s key data mask) := by
  unfold State.writeFields
  repeat' first
    | with_reducible assumption
    | with_reducible apply State.setReg_keeps
    | with_reducible refine Keeps.ite ?_ ?_
    | with_reducible refine Keeps.foldl ?_ ?_
    | with_reducible refine Keeps.foldl_fst ?_ ?_
    | intro _
    | split
    | dsimp only
    | rfl
    | refine Keeps.upd ?_
    | simp only [updAt_length, List.length_map]

theorem State.specialWrite_keeps {r s : State} (h : Keeps r s) (key : Nat) (data : Word) (hwSet : Word) :
    KeepsOpt r (State.specialWrite s key data hwSet) := by
  unfold State.specialWrite
  refine KeepsOpt.ite ?_ ?_
  · exact KeepsOpt.some (State.setTime_keeps h _ fun _ => rfl)
  refine KeepsOpt.ite ?_ ?_
  · exact KeepsOpt.some (Keeps.ite (State.writeFields_keeps h _ _ _) h)
  refine KeepsOpt.ite ?_ ?_
  · exact KeepsOpt.some (Keeps.ite (State.writeFields_keeps h _ _ _) h)
  refine KeepsOpt.ite ?_ ?_
  · exact KeepsOpt.some (Keeps.ite h (State.writeFields_keeps h _ _ _))
  refine KeepsOpt.ite ?_ ?_
  · exact KeepsOpt.some (State.writePending_keeps h _ _ _)
  refine KeepsOpt.ite ?_ ?_
  · exact KeepsOpt.some (State.writeEnable_keeps h _ _)
  refine KeepsOpt.ite ?_ ?_
  · exact KeepsOpt.some (State.writeRoute_keeps h _ _)
  generalize indexIn R.timeWinCtrl 4 key = o
  cases o with
  | some k => exact KeepsOpt.some (State.writeWindow_keeps h _ _)
  | none =>
    dsimp only
    generalize List.find? _ _ = q
    cases q with
    | some k => exact KeepsOpt.some (State.writeSlot_keeps h _ _ _)
    | none => exact KeepsOpt.none

theorem State.afterWrite_keeps {r s : State} (h : Keeps r s) (old : State) (key : Nat) :
    Keeps r (State.afterWrite s old key) := by
  unfold State.afterWrite
  repeat' first
    | with_reducible assumption
    | with_reducible apply State.setOdrv_keeps
    | with_reducible apply State.idleLand_keeps
    | with_reducible apply State.fillBucket_keeps
    | with_reducible apply State.txCheck_keeps
    | with_reducible apply State.portEnable_keeps
    | with_reducible apply State.ltcCheck_keeps
    | with_reducible refine Keeps.ite ?_ ?_
    | with_reducible refine Keeps.foldl ?_ ?_
    | with_reducible refine Keeps.foldl_fst ?_ ?_
    | intro _
    | split
    | dsimp only
    | rfl
    | refine Keeps.upd ?_
    | simp only [updAt_length, List.length_map]

theorem State.registerWrite_keeps {r s : State} (h : Keeps r s) (key : Nat) (data : Word) (hwSet : Word) :
    Keeps r (State.registerWrite s key data hwSet) := by
  have k := State.specialWrite_keeps h key data hwSet
  unfold State.registerWrite
  generalize s.specialWrite key data hwSet = o at k ⊢
  cases o with
  | some t => exact k t rfl
  | none => exact State.afterWrite_keeps (State.plainWrite_keeps h _ _ _) _ _

theorem execRegisterWrite_keeps {r s : State} (h : Keeps r s) (w : Writer) (addr : BitVec 26) (data : Word) (hwSet : Word) :
    KeepsOut r (execRegisterWrite w addr data hwSet s) := by
  refine KeepsOut.ite (KeepsOut.next h) (KeepsOut.next (State.writeBy_keeps h _ _ _ fun t k => ?_))
  split
  · exact State.registerWrite_keeps k _ _ _
  · exact k

theorem execMisalignedBar0Access_keeps {r s : State} (h : Keeps r s) (w : Writer) (addr : BitVec 26) (size : Nat) (write : Bool) :
    KeepsOut r (execMisalignedBar0Access w addr size write s) := by
  unfold execMisalignedBar0Access
  repeat' first
    | with_reducible assumption
    | refine KeepsOut.next ?_
    | with_reducible refine KeepsOut.ite ?_ ?_
    | with_reducible apply State.winterDrop_keeps
    | with_reducible apply State.raise_keeps
    | with_reducible apply State.emit_keeps
    | dsimp only
    | split
    | with_reducible refine Keeps.ite ?_ ?_
    | with_reducible refine Keeps.foldl ?_ ?_
    | with_reducible refine Keeps.foldl_fst ?_ ?_
    | intro _
    | split
    | dsimp only
    | rfl
    | refine Keeps.upd ?_
    | simp only [updAt_length, List.length_map]

theorem execLowWordRead_keeps {r s : State} (h : Keeps r s) (w : Writer) (addr : BitVec 26) :
    KeepsOut r (execLowWordRead w addr s) := by
  refine KeepsOut.next (State.readBy_keeps h _ _ _ fun t k => ?_)
  split
  · split
    · exact k.setHigh fun i => sparseWf_set (f := fun _ => 0) _ _ (sparseWf_set (f := fun _ => 0) _ _ i)
    · split
      · exact k.setHigh fun i => sparseWf_set (f := fun _ => 0) _ _ i
      · exact k
  · exact k

theorem execRcRead_keeps {r s : State} (h : Keeps r s) (w : Writer) (addr : BitVec 26) (increments : Word) :
    KeepsOut r (execRcRead w addr increments s) := by
  unfold execRcRead
  repeat' first
    | with_reducible assumption
    | refine KeepsOut.next ?_
    | with_reducible refine KeepsOut.ite ?_ ?_
    | with_reducible apply State.readBy_keeps
    | with_reducible apply State.setReg_keeps
    | dsimp only
    | split
    | with_reducible refine Keeps.ite ?_ ?_
    | with_reducible refine Keeps.foldl ?_ ?_
    | with_reducible refine Keeps.foldl_fst ?_ ?_
    | intro _
    | split
    | dsimp only
    | rfl
    | refine Keeps.upd ?_
    | simp only [updAt_length, List.length_map]

end Sys2Proof.Machine
end

