-- ==== Sys2Proof/Laws/Stages.lean ====
section
/-! SUPPORT. What the stages, the structure slots, the stores and the channels do. -/

set_option Elab.async false
set_option linter.all false

open Sys2Proof

namespace Sys2Proof.Machine

theorem chanStopped_of {T : List Field} {P : List Part} {s t : State} (h : Frame T P s t) (ch : Nat)
    (h1 : ∀ f ∈ T, Apart f (F.mstFreezeCauseFrozen (0x10 + ch))) (h2 : ∀ f ∈ T, Apart f (F.dmaStatusState ch)) : t.chanStopped ch = s.chanStopped ch := by
  unfold State.chanStopped State.frozen
  rw [on_eq, on_eq, h.get (by ((first | unfold Apart | unfold InWord | skip); (try dsimp only [F.mstFreezeCauseFrozen, R.mstFreezeCause, F.dmaStatusState, R.dmaStatus]); (try dsimp only [evOut]); (first | decide | omega | (simp only [ne_eq]; omega) | (simp; omega)))) h1, h.get (by ((first | unfold Apart | unfold InWord | skip); (try dsimp only [F.mstFreezeCauseFrozen, R.mstFreezeCause, F.dmaStatusState, R.dmaStatus]); (try dsimp only [evOut]); (first | decide | omega | (simp only [ne_eq]; omega) | (simp; omega)))) h2]

theorem Issues_of {T : List Field} {P : List Part} {s t : State} (h : Frame T P s t) (hh : .host ∉ P) {ch a l : Nat}
    (hT : ∀ f ∈ T, f.addr ≠ R.mstFreezeCause (0x10 + ch) ∧ f.addr ≠ R.dmaStatus ch ∧ f.addr ≠ R.dmaWinBaseLo ch ∧ f.addr ≠ R.dmaWinBaseHi ch ∧
      f.addr ≠ R.dmaWinLimitLo ch ∧ f.addr ≠ R.dmaWinLimitHi ch ∧ f.addr ≠ R.dmaFunc ch) (hi : State.Issues s ch a l) :
    State.Issues t ch a l ∧ t.chanFn ch = s.chanFn ch := by
  have g (f : Field) (hf : InWord f) (hx : ∀ g ∈ T, g.addr ≠ f.addr) : t.get f = s.get f := h.get hf fun g m => Or.inl (hx g m)
  have hhost : t.host = s.host := h.rest .host hh
  unfold State.Issues at *
  have e1 : t.chanFn ch = s.chanFn ch := g _ (by ((first | unfold Apart | unfold InWord | skip); (try dsimp only [F.dmaFuncFunc, R.dmaFunc, F.dmaStatusHeld, R.dmaStatus, F.mstFreezeCauseFrozen, R.mstFreezeCause, F.dmaStatusState, F.dmaWinBaseLoAddr, R.dmaWinBaseLo, F.dmaWinBaseHiAddr, R.dmaWinBaseHi, F.dmaWinLimitLoAddr, R.dmaWinLimitLo, F.dmaWinLimitHiAddr, R.dmaWinLimitHi]); (try dsimp only [evOut]); (first | decide | omega | (simp only [ne_eq]; omega) | (simp; omega)))) (fun f m => (hT f m).2.2.2.2.2.2)
  refine ⟨⟨?_, ?_, ?_, ?_⟩, e1⟩
  · rw [g _ (by ((first | unfold Apart | unfold InWord | skip); (try dsimp only [F.dmaFuncFunc, R.dmaFunc, F.dmaStatusHeld, R.dmaStatus, F.mstFreezeCauseFrozen, R.mstFreezeCause, F.dmaStatusState, F.dmaWinBaseLoAddr, R.dmaWinBaseLo, F.dmaWinBaseHiAddr, R.dmaWinBaseHi, F.dmaWinLimitLoAddr, R.dmaWinLimitLo, F.dmaWinLimitHiAddr, R.dmaWinLimitHi]); (try dsimp only [evOut]); (first | decide | omega | (simp only [ne_eq]; omega) | (simp; omega)))) (fun f m => (hT f m).2.1)]; exact hi.1
  · rw [← hi.2.1]; unfold State.chanStopped State.frozen
    rw [on_eq, on_eq, g _ (by ((first | unfold Apart | unfold InWord | skip); (try dsimp only [F.dmaFuncFunc, R.dmaFunc, F.dmaStatusHeld, R.dmaStatus, F.mstFreezeCauseFrozen, R.mstFreezeCause, F.dmaStatusState, F.dmaWinBaseLoAddr, R.dmaWinBaseLo, F.dmaWinBaseHiAddr, R.dmaWinBaseHi, F.dmaWinLimitLoAddr, R.dmaWinLimitLo, F.dmaWinLimitHiAddr, R.dmaWinLimitHi]); (try dsimp only [evOut]); (first | decide | omega | (simp only [ne_eq]; omega) | (simp; omega)))) (fun f m => (hT f m).1), g _ (by ((first | unfold Apart | unfold InWord | skip); (try dsimp only [F.dmaFuncFunc, R.dmaFunc, F.dmaStatusHeld, R.dmaStatus, F.mstFreezeCauseFrozen, R.mstFreezeCause, F.dmaStatusState, F.dmaWinBaseLoAddr, R.dmaWinBaseLo, F.dmaWinBaseHiAddr, R.dmaWinBaseHi, F.dmaWinLimitLoAddr, R.dmaWinLimitLo, F.dmaWinLimitHiAddr, R.dmaWinLimitHi]); (try dsimp only [evOut]); (first | decide | omega | (simp only [ne_eq]; omega) | (simp; omega)))) (fun f m => (hT f m).2.1)]
  · rw [← hi.2.2.1]; unfold State.outsideWindow State.winBase State.winLimit
    rw [g _ (by ((first | unfold Apart | unfold InWord | skip); (try dsimp only [F.dmaFuncFunc, R.dmaFunc, F.dmaStatusHeld, R.dmaStatus, F.mstFreezeCauseFrozen, R.mstFreezeCause, F.dmaStatusState, F.dmaWinBaseLoAddr, R.dmaWinBaseLo, F.dmaWinBaseHiAddr, R.dmaWinBaseHi, F.dmaWinLimitLoAddr, R.dmaWinLimitLo, F.dmaWinLimitHiAddr, R.dmaWinLimitHi]); (try dsimp only [evOut]); (first | decide | omega | (simp only [ne_eq]; omega) | (simp; omega)))) (fun f m => (hT f m).2.2.1), g _ (by ((first | unfold Apart | unfold InWord | skip); (try dsimp only [F.dmaFuncFunc, R.dmaFunc, F.dmaStatusHeld, R.dmaStatus, F.mstFreezeCauseFrozen, R.mstFreezeCause, F.dmaStatusState, F.dmaWinBaseLoAddr, R.dmaWinBaseLo, F.dmaWinBaseHiAddr, R.dmaWinBaseHi, F.dmaWinLimitLoAddr, R.dmaWinLimitLo, F.dmaWinLimitHiAddr, R.dmaWinLimitHi]); (try dsimp only [evOut]); (first | decide | omega | (simp only [ne_eq]; omega) | (simp; omega)))) (fun f m => (hT f m).2.2.2.1),
      g _ (by ((first | unfold Apart | unfold InWord | skip); (try dsimp only [F.dmaFuncFunc, R.dmaFunc, F.dmaStatusHeld, R.dmaStatus, F.mstFreezeCauseFrozen, R.mstFreezeCause, F.dmaStatusState, F.dmaWinBaseLoAddr, R.dmaWinBaseLo, F.dmaWinBaseHiAddr, R.dmaWinBaseHi, F.dmaWinLimitLoAddr, R.dmaWinLimitLo, F.dmaWinLimitHiAddr, R.dmaWinLimitHi]); (try dsimp only [evOut]); (first | decide | omega | (simp only [ne_eq]; omega) | (simp; omega)))) (fun f m => (hT f m).2.2.2.2.1), g _ (by ((first | unfold Apart | unfold InWord | skip); (try dsimp only [F.dmaFuncFunc, R.dmaFunc, F.dmaStatusHeld, R.dmaStatus, F.mstFreezeCauseFrozen, R.mstFreezeCause, F.dmaStatusState, F.dmaWinBaseLoAddr, R.dmaWinBaseLo, F.dmaWinBaseHiAddr, R.dmaWinBaseHi, F.dmaWinLimitLoAddr, R.dmaWinLimitLo, F.dmaWinLimitHiAddr, R.dmaWinLimitHi]); (try dsimp only [evOut]); (first | decide | omega | (simp only [ne_eq]; omega) | (simp; omega)))) (fun f m => (hT f m).2.2.2.2.2.1)]
  · rw [← hi.2.2.2]; unfold State.chanMay
    rw [e1]; unfold State.fnExists State.fnCfg; rw [hhost]

theorem stageRequest_issues {s : State} {ch a l : Nat} {write : Bool} {k : State → State} (hi : State.Issues s ch a l)
   (hk : (k s).chanStopped ch = false) : s.stageRequest ch a l write k = k s := by
  unfold State.stageRequest State.chanRequest State.ledgerStop
  simp only [on_eq, hi.1, hi.2.1, hi.2.2.1, hi.2.2.2]
  simp [hk]

theorem State.showSeq_frame {T : List Field} {P : List Part} {s t : State} (h : Frame T P s t) (k : Nat) (m : F.calSeqSequence k ∈ T) :
    Frame T P s (t.showSeq k) := h.put m

theorem State.seqOf_put (s : State) (f : Field) (v k : Nat) : (s.put f v).seqOf k = s.seqOf k := rfl

theorem State.queueStore_begins (s : State) (j : StoreJob) (h : s.cal.jobs = []) (hn : j.clear = true ∨ s.nextSeq j.kind ≤ 0xFFFFFFFE)
    {T : List Field} {P : List Part} {r : State} (hf : Frame T P r s) (hT : ∀ f ∈ storeFields j.kind, f ∈ T) (hP : .cal ∈ P) :
    Frame T P r (s.queueStore j) ∧ StoreBegins j s (s.queueStore j) := by
  have h0 : (!j.clear && decide (0xFFFFFFFE < s.nextSeq j.kind + (s.cal.jobs.filter fun q => q.kind == j.kind && !q.clear).length)) = false := by
    rw [h]
    rcases hn with hn | hn
    · simp [hn]
    · simp; omega
  have hT1 : F.calStatusBusy ∈ T := hT _ (by simp [storeFields])
  have hT2 : F.calSeqSequence j.kind ∈ T := hT _ (by simp [storeFields])
  have e : s.queueStore j = ({ s with cal := { s.cal with jobs := [j] } } : State).beginStore := by
    unfold State.queueStore
    dsimp only
    rw [h0, if_neg (by simp)]
    simp [h]
  rw [e]
  have hf1 : Frame T P r ({ s with cal := { s.cal with jobs := [j] } } : State) :=
    Frame.fields hf fun p hp => by cases p <;> first | rfl | exact absurd hP hp
  have hb : ({ s with cal := { s.cal with jobs := [j] } } : State).beginStore =
      let t := ({ s with cal := { s.cal with jobs := [j] } } : State).put F.calStatusBusy 1
      if j.clear then t else (t.setCopy j.kind (t.target j.kind) { t.copy j.kind (t.target j.kind) with magic := magicBlank }).showSeq j.kind := rfl
  rw [hb]
  dsimp only
  cases hc : j.clear
  · simp only [Bool.false_eq_true, if_false]
    refine ⟨State.showSeq_frame (State.setCopy_frame (hf1.put hT1) _ _ _ hP) _ hT2, ?_, ?_⟩
    · unfold State.showSeq
      rw [State.get_put_other _ (by ((first | unfold Apart | unfold InWord | skip); (try dsimp only [F.calSeqSequence, F.calStatusBusy, R.calSeq, R.calStatus]); (try dsimp only [evOut]); (first | decide | omega | (simp only [ne_eq]; omega) | (simp; omega)))) (by ((first | unfold Apart | unfold InWord | skip); (try dsimp only [F.calSeqSequence, F.calStatusBusy, R.calSeq, R.calStatus]); (try dsimp only [evOut]); (first | decide | omega | (simp only [ne_eq]; omega) | (simp; omega)))), State.setCopy_get, State.get_put_same _ (by ((first | unfold Apart | unfold InWord | skip); (try dsimp only [F.calSeqSequence, F.calStatusBusy, R.calSeq, R.calStatus]); (try dsimp only [evOut]); (first | decide | omega | (simp only [ne_eq]; omega) | (simp; omega))))]
      rfl
    · refine ⟨rfl, rfl, rfl, rfl, by rw [hc]; rfl, ?_⟩
      intro _
      unfold State.showSeq
      rw [State.get_put_same _ (by ((first | unfold Apart | unfold InWord | skip); (try dsimp only [F.calSeqSequence, F.calStatusBusy, R.calSeq, R.calStatus]); (try dsimp only [evOut]); (first | decide | omega | (simp only [ne_eq]; omega) | (simp; omega)))), State.seqOf_put]
      rfl
  · simp only [if_true]
    refine ⟨hf1.put hT1, ?_, ?_⟩
    · rw [State.get_put_same _ (by ((first | unfold Apart | unfold InWord | skip); (try dsimp only [F.calSeqSequence, F.calStatusBusy, R.calSeq, R.calStatus]); (try dsimp only [evOut]); (first | decide | omega | (simp only [ne_eq]; omega) | (simp; omega))))]; rfl
    · exact ⟨rfl, rfl, rfl, rfl, by rw [hc]; rfl, by simp [hc]⟩

theorem sstCommand_free {s : State} {w : Writer} {op slot : Nat} {hold : Bool} {k : State → State}
    (h : s.accepts w R.sstCmd = true) (hb : s.get F.sstStatusBusy = 0) :
    s.sstCommand w op slot hold k = k (s.sstNoted op slot hold) := by
  unfold State.sstCommand
  rw [State.writeBy_accepts h, on_eq, hb, if_neg (by decide)]
  unfold State.sstNoted
  rfl

theorem sstEnd_ok (s : State) : s.sstEnd 0 = State.sstOver s 0 := by
  unfold State.sstEnd State.raiseIf; rfl

theorem sstEnd_bad (s : State) (c : Nat) (h : c ≠ 0) : s.sstEnd c = State.raise (State.sstOver s c) 241 := by
  unfold State.sstEnd State.raiseIf
  rw [if_pos (by simp [h])]
  rfl

theorem sstOver_frame {T P} {s t : State} (h : Frame T P s t) (c : Nat) (h1 : F.sstStatusBusy ∈ T) (h2 : F.sstStatusLastCode ∈ T)
    (h4 : F.dmaNpTotalCount ∈ T) (h3 : .sst ∈ P) : Frame T P s (State.sstOver t c) := by
  unfold State.sstOver State.npPart
  simp only [State.puts_cons, State.puts_nil]
  refine Frame.put ?_ h4
  have h := (h.put h1 (v := 0)).put h2 (v := c)
  generalize (t.put _ _).put _ _ = u at *
  refine Frame.fields h ?_
  intro p hp; cases p <;> first | rfl | exact absurd h3 hp

/-- ending a command leaves its code and clears BUSY -/
theorem sstOver_code (s : State) (c : Nat) (h : c < 4096) :
    (State.sstOver s c).get F.sstStatusBusy = 0 ∧ (State.sstOver s c).get F.sstStatusLastCode = c := by
  unfold State.sstOver State.npPart
  simp (disch := first | (unfold Apart; decide) | (unfold InWord; decide)) only
    [State.puts_cons, State.puts_nil, State.get_put_other, State.get_put_same, State.get_mk]
  exact ⟨rfl, Nat.mod_eq_of_lt h⟩

@[simp] theorem sstOver_sst (s : State) (c : Nat) : (State.sstOver s c).sst = { s.sst with running := none } := rfl

theorem sstNoted_frame {T P} {s t : State} (h : Frame T P s t) (op slot : Nat) (hold : Bool) (h1 : ∀ f ∈ sstFields, f ∈ T) (h3 : .sst ∈ P) :
    Frame T P s (t.sstNoted op slot hold) := by
  unfold State.sstNoted
  have h : Frame T P s (t.puts [(F.sstCmdApplyHold, hold.toNat), (F.sstCmdSlot, slot), (F.sstCmdOp, op), (F.sstStatusLastOp, op),
    (F.sstStatusLastSlot, slot), (F.sstStatusBusy, 1)]) := h.puts (by simp [sstFields] at h1; simp [h1])
  dsimp only
  generalize (t.puts _) = u at *
  refine Frame.fields h ?_
  intro p hp; cases p <;> first | rfl | exact absurd h3 hp

theorem sstNoted_get (s : State) (op slot : Nat) (hold : Bool) (f : Field) : (s.sstNoted op slot hold).get f =
   ((((((s.put F.sstCmdApplyHold hold.toNat).put F.sstCmdSlot slot).put F.sstCmdOp op).put F.sstStatusLastOp op).put F.sstStatusLastSlot slot).put F.sstStatusBusy 1).get f := by
  unfold State.sstNoted; simp only [State.get_mk, State.puts_cons, State.puts_nil]

@[simp] theorem sstNoted_sst (s : State) (op slot : Nat) (hold : Bool) : (s.sstNoted op slot hold).sst = { s.sst with running := some ⟨op, slot, 0⟩ } := rfl

theorem setSlot_get (s : State) (k : Nat) (ws) (f : Field) : (s.setSlot k ws).get f = s.get f := by
  unfold State.setSlot; simp only [State.get_mk]

@[simp] theorem setSlot_sst (s : State) (k : Nat) (ws) : (s.setSlot k ws).sst = { s.sst with slots := updAt s.sst.slots k fun _ => ws } := rfl

@[simp] theorem setSlot_out (s : State) (k : Nat) (ws) : (s.setSlot k ws).out = s.out := rfl

@[simp] theorem sstNoted_out (s : State) (op slot : Nat) (hold : Bool) : (s.sstNoted op slot hold).out = s.out := rfl

theorem setSlot_frame {T P} {s t : State} (h : Frame T P s t) (k : Nat) (ws) (h3 : .sst ∈ P) : Frame T P s (t.setSlot k ws) := by
  refine Frame.fields h ?_
  intro p hp; cases p <;> first | rfl | exact absurd h3 hp

theorem npEnd_answered (s : State) (ch : Fin 32) (P : List Part) : s.answered ch P (s.npEnd ch) := by
  unfold State.answered State.npEnd
  have h1 : s.get (F.dmaNpInflightCount ch) < 2 ^ ((F.dmaNpInflightCount ch).hi + 1 - (F.dmaNpInflightCount ch).lo) := get_lt _ _
  have h2 : s.get F.dmaNpTotalCount < 2 ^ (F.dmaNpTotalCount.hi + 1 - F.dmaNpTotalCount.lo) := get_lt _ _
  refine ⟨by (repeat' (first | with_reducible exact Frame.refl _ _ _ | with_reducible assumption | (with_reducible refine Frame.puts ?_ ?hm; case hm => (simp; done)) | (with_reducible refine Frame.put ?_ ?hm; case hm => (simp; done)) | (with_reducible refine Frame.count ?_ ?hm; case hm => (simp; done)) | (with_reducible refine Frame.emit ?_ ?hm; case hm => (simp; done)) | (with_reducible refine Frame.setActReg ?_ ?hm; case hm => (simp; done)) | (with_reducible refine Frame.putAct ?_ ?hm; case hm => (simp; done)) | (with_reducible refine Frame.setWritten ?_ ?hm; case hm => (simp; done)) | (with_reducible refine Frame.setReg ?_ ?hm; case hm => (simp [whole]; done)) | (with_reducible refine State.setChan_frame ?_ _ _ ?hm; case hm => (simp; done)) | (with_reducible refine State.setOut_frame ?_ _ _ ?hm; case hm => (simp; done)) | (with_reducible refine State.setTime_frame ?_ _ ?hm; case hm => (simp; done)) | (with_reducible refine State.setEddy_frame ?_ _ _ ?hm; case hm => (simp; done)) | (with_reducible refine State.setHost_frame ?_ _ ?hm; case hm => (simp; done)) | (with_reducible refine State.setLane_frame ?_ _ _ ?hm; case hm => (simp; done)) | (with_reducible refine State.setSideband_frame ?_ _ _ ?hm; case hm => (simp; done)) | (with_reducible refine State.setPurser_frame ?_ _ ?hm; case hm => (simp; done)) | (with_reducible refine State.setPower_frame ?_ _ ?hm; case hm => (simp; done)) | (with_reducible refine State.setSlot_frame ?_ _ _ ?hm; case hm => (simp; done)) | (with_reducible refine State.setCopy_frame ?_ _ _ _ ?hm; case hm => (simp; done)) | (with_reducible refine State.setPort_frame ?_ _ _ ?hm; case hm => (simp; done)) | (with_reducible refine State.setTx_frame ?_ _ _ ?hm; case hm => (simp; done)) | (with_reducible refine State.setRx_frame ?_ _ _ ?hm; case hm => (simp; done)) | (with_reducible refine State.setSwap_frame ?_ _ _ ?hm; case hm => (simp; done)) | (with_reducible refine State.setHoldByte_frame ?_ _ _ ?hm; case hm => (simp; done)) | (with_reducible refine State.setTbl_frame ?_ _ _ _ _ _ _ ?hm; case hm => (simp; done)) | (with_reducible refine State.setXfer_frame ?_ _ _ ?hm; case hm => (simp; done)) | (with_reducible refine State.setChunk_frame ?_ _ _ _ ?hm; case hm => (simp; done)) | (with_reducible refine State.setOdrv_frame ?_ _ _ ?hm; case hm => (simp; done)) | (with_reducible refine State.setPix_frame ?_ _ _ ?hm; case hm => (simp; done)) | (with_reducible refine State.setRegion_frame ?_ _ _ ?hm; case hm => (simp; done)) | (with_reducible refine State.setMapUse_frame ?_ _ _ _ ?hm; case hm => (simp; done)) | (with_reducible refine State.setWear_frame ?_ _ _ ?hm; case hm => (simp; done)) | (with_reducible refine State.setSync_frame ?_ _ _ ?hm; case hm => (simp; done)) | (with_reducible refine State.setFn_frame ?_ _ _ ?hm; case hm => (simp; done)) | (with_reducible refine State.setCal_frame ?_ _ _ ?hm; case hm => (simp; done)) | (refine Frame.fields ?_ ?hm; case hm => (intro p hp; cases p <;> first | (with_reducible rfl) | (refine absurd ?_ hp; simp; done) | rfl | (simp only [List.mem_cons, List.not_mem_nil, not_or, or_false, Part.output.injEq, Part.lane.injEq, Part.sideband.injEq, Part.channel.injEq, Part.engine.injEq, reduceCtorEq, not_false_eq_true, true_and, and_true] at hp; simp only [Part.same]; first | exact updAt_other _ _ _ _ (Ne.symm hp) | (simp [Ne.symm hp]; done)))))), ?_, ?_⟩
  · ((try simp only [on_eq]); (try simp (disch := ((first | unfold Apart | unfold InWord | skip); (try dsimp only [F.dmaNpTotalCount, F.dmaNpInflightCount, R.dmaNpTotal, R.dmaNpInflight]); (try dsimp only [evOut]); (first | decide | omega | (simp only [ne_eq]; omega) | (simp; omega)))) only [State.get_put_same, State.get_put_other, State.get_mk, State.get_emit, State.get_bumpFree, State.get_setActReg, State.get_putAct, State.get_setWritten, State.get_setLanded, State.get_clearWritten, State.setChan_get, State.setOut_get, State.setTime_get, State.setEddy_get, State.setHost_get, State.setLane_get, State.setSideband_get, State.setPurser_get, State.setPower_get, State.setSlot_get, State.setCopy_get, State.setPort_get, State.setTx_get, State.setRx_get, State.setSwap_get, State.setHoldByte_get, State.setTbl_get, State.setXfer_get, State.setChunk_get, State.setOdrv_get, State.setPix_get, State.setRegion_get, State.setMapUse_get, State.setWear_get, State.setSync_get, State.setFn_get, State.setCal_get, State.puts_cons, State.puts_nil])); apply Nat.mod_eq_of_lt; omega
  · ((try simp only [on_eq]); (try simp (disch := ((first | unfold Apart | unfold InWord | skip); (try dsimp only [F.dmaNpTotalCount, F.dmaNpInflightCount, R.dmaNpTotal, R.dmaNpInflight]); (try dsimp only [evOut]); (first | decide | omega | (simp only [ne_eq]; omega) | (simp; omega)))) only [State.get_put_same, State.get_put_other, State.get_mk, State.get_emit, State.get_bumpFree, State.get_setActReg, State.get_putAct, State.get_setWritten, State.get_setLanded, State.get_clearWritten, State.setChan_get, State.setOut_get, State.setTime_get, State.setEddy_get, State.setHost_get, State.setLane_get, State.setSideband_get, State.setPurser_get, State.setPower_get, State.setSlot_get, State.setCopy_get, State.setPort_get, State.setTx_get, State.setRx_get, State.setSwap_get, State.setHoldByte_get, State.setTbl_get, State.setXfer_get, State.setChunk_get, State.setOdrv_get, State.setPix_get, State.setRegion_get, State.setMapUse_get, State.setWear_get, State.setSync_get, State.setFn_get, State.setCal_get, State.puts_cons, State.puts_nil])); apply Nat.mod_eq_of_lt; omega

theorem npEnd_dma (s : State) (ch : Nat) : (s.npEnd ch).dma = s.dma := by unfold State.npEnd; simp

theorem answered_setChan {s t : State} {ch : Fin 32} (h : s.answered ch [.channel ch] t) (g : DmaState → DmaState) : s.answered ch [.channel ch] (t.setChan ch g) := by
  obtain ⟨h1, h2, h3⟩ := h
  refine ⟨State.setChan_frame h1 _ _ (by simp), ?_, ?_⟩
  · rw [State.setChan_get]; exact h2
  · rw [State.setChan_get]; exact h3

theorem fetchEnd_ends {s t : State} {ch : Fin 32} {c : DmaState} (hc : t.dma[ch.val]? = some c) (p : Nat × Bool) (code : Nat) (b : List Byte) :
    t.fetchEnds ch c p code b (t.fetchEnd ch p code b) := by
  have h := chan_of hc
  refine ⟨t.setChan ch fun c => { c with fetch := none, fetching := false }, by (repeat' (first | with_reducible exact Frame.refl _ _ _ | with_reducible assumption | (with_reducible refine Frame.puts ?_ ?hm; case hm => (simp; done)) | (with_reducible refine Frame.put ?_ ?hm; case hm => (simp; done)) | (with_reducible refine Frame.count ?_ ?hm; case hm => (simp; done)) | (with_reducible refine Frame.emit ?_ ?hm; case hm => (simp; done)) | (with_reducible refine Frame.setActReg ?_ ?hm; case hm => (simp; done)) | (with_reducible refine Frame.putAct ?_ ?hm; case hm => (simp; done)) | (with_reducible refine Frame.setWritten ?_ ?hm; case hm => (simp; done)) | (with_reducible refine Frame.setReg ?_ ?hm; case hm => (simp [whole]; done)) | (with_reducible refine State.setChan_frame ?_ _ _ ?hm; case hm => (simp; done)) | (with_reducible refine State.setOut_frame ?_ _ _ ?hm; case hm => (simp; done)) | (with_reducible refine State.setTime_frame ?_ _ ?hm; case hm => (simp; done)) | (with_reducible refine State.setEddy_frame ?_ _ _ ?hm; case hm => (simp; done)) | (with_reducible refine State.setHost_frame ?_ _ ?hm; case hm => (simp; done)) | (with_reducible refine State.setLane_frame ?_ _ _ ?hm; case hm => (simp; done)) | (with_reducible refine State.setSideband_frame ?_ _ _ ?hm; case hm => (simp; done)) | (with_reducible refine State.setPurser_frame ?_ _ ?hm; case hm => (simp; done)) | (with_reducible refine State.setPower_frame ?_ _ ?hm; case hm => (simp; done)) | (with_reducible refine State.setSlot_frame ?_ _ _ ?hm; case hm => (simp; done)) | (with_reducible refine State.setCopy_frame ?_ _ _ _ ?hm; case hm => (simp; done)) | (with_reducible refine State.setPort_frame ?_ _ _ ?hm; case hm => (simp; done)) | (with_reducible refine State.setTx_frame ?_ _ _ ?hm; case hm => (simp; done)) | (with_reducible refine State.setRx_frame ?_ _ _ ?hm; case hm => (simp; done)) | (with_reducible refine State.setSwap_frame ?_ _ _ ?hm; case hm => (simp; done)) | (with_reducible refine State.setHoldByte_frame ?_ _ _ ?hm; case hm => (simp; done)) | (with_reducible refine State.setTbl_frame ?_ _ _ _ _ _ _ ?hm; case hm => (simp; done)) | (with_reducible refine State.setXfer_frame ?_ _ _ ?hm; case hm => (simp; done)) | (with_reducible refine State.setChunk_frame ?_ _ _ _ ?hm; case hm => (simp; done)) | (with_reducible refine State.setOdrv_frame ?_ _ _ ?hm; case hm => (simp; done)) | (with_reducible refine State.setPix_frame ?_ _ _ ?hm; case hm => (simp; done)) | (with_reducible refine State.setRegion_frame ?_ _ _ ?hm; case hm => (simp; done)) | (with_reducible refine State.setMapUse_frame ?_ _ _ _ ?hm; case hm => (simp; done)) | (with_reducible refine State.setWear_frame ?_ _ _ ?hm; case hm => (simp; done)) | (with_reducible refine State.setSync_frame ?_ _ _ ?hm; case hm => (simp; done)) | (with_reducible refine State.setFn_frame ?_ _ _ ?hm; case hm => (simp; done)) | (with_reducible refine State.setCal_frame ?_ _ _ ?hm; case hm => (simp; done)) | (refine Frame.fields ?_ ?hm; case hm => (intro p hp; cases p <;> first | (with_reducible rfl) | (refine absurd ?_ hp; simp; done) | rfl | (simp only [List.mem_cons, List.not_mem_nil, not_or, or_false, Part.output.injEq, Part.lane.injEq, Part.sideband.injEq, Part.channel.injEq, Part.engine.injEq, reduceCtorEq, not_false_eq_true, true_and, and_true] at hp; simp only [Part.same]; first | exact updAt_other _ _ _ _ (Ne.symm hp) | (simp [Ne.symm hp]; done)))))), by simp [hc], ?_⟩
  unfold State.fetchEnd
  rw [h]
  refine ⟨?_, ?_, ?_, ?_, ?_⟩
  · intro h1 h2; simp [h1, h2]
  · intro h1 h2 h3; simp [h1, h2, h3]
  · intro h1 h2 h3; simp [h1, h2, h3]
  · intro h1 h2; obtain ⟨x, hx⟩ := Option.ne_none_iff_exists'.1 h1; simp [hx, h2]
  · intro h1 h2; obtain ⟨x, hx⟩ := Option.ne_none_iff_exists'.1 h1; simp [hx, h2]

theorem raise_dma (s : State) (k n : Nat) : (s.raise k).dma[n]? = s.dma[n]? := (raiseF s k).rest (.channel n) (by simp)

theorem noteUncorr_dma (s : State) (w n : Nat) : (s.noteUncorr w).dma[n]? = s.dma[n]? := by
  unfold State.noteUncorr; rw [raise_dma]; simp [State.count]

theorem answered_setXfer {s t : State} {ch : Fin 32} (h : s.answered ch [.channel ch] t) (g : DmaXfer → DmaXfer) : s.answered ch [.channel ch] (t.setXfer ch g) := by
  unfold State.setXfer; exact answered_setChan h _

theorem rate_fold (s : State) (n : Nat) (hn : n ≤ 32) :
    let t := (List.range n).foldl (fun t ch =>
      if t.on (F.dmaRateEn ch) then t.setChan ch fun c => { c with tokens := min (s.bucketMax ch) (c.tokens + s.bucketGain ch) } else t) s
    Frame [] ((List.range 32).map .channel) s t ∧ ∀ k, (k < n → t.dma[k]? = (s.dma[k]?).map fun c => if s.on (F.dmaRateEn k) then { c with tokens := min (s.bucketMax k) (c.tokens + s.bucketGain k) } else c) ∧
      (n ≤ k → t.dma[k]? = s.dma[k]?) := by
  induction n with
  | zero => exact ⟨Frame.refl _ _ _, fun k => ⟨fun h => absurd h (by omega), fun _ => rfl⟩⟩
  | succ n ih =>
    obtain ⟨h1, h2⟩ := ih (by omega)
    dsimp only
    rw [show List.range (n + 1) = List.range n ++ [n] from List.range_succ, List.foldl_append]
    set t := (List.range n).foldl _ s with ht
    have hon : t.on (F.dmaRateEn n) = s.on (F.dmaRateEn n) := by unfold State.on; rw [h1.get (by ((first | unfold Apart | unfold InWord | skip); (try dsimp only [F.dmaRateEn, R.dmaRate]); (try dsimp only [evOut]); (first | decide | omega | (simp only [ne_eq]; omega) | (simp; omega)))) (by simp)]
    simp only [List.foldl_cons, List.foldl_nil, hon]
    refine ⟨?_, ?_⟩
    · split
      · exact State.setChan_frame h1 _ _ (by simp; omega)
      · exact h1
    · intro k
      refine ⟨?_, ?_⟩
      · intro hk
        by_cases hkn : k = n
        · subst hkn
          split
          · next h => simp [(h2 k).2 (Nat.le_refl _)]
          · next h => rw [(h2 k).2 (Nat.le_refl _)]; cases s.dma[k]? <;> simp
        · have := (h2 k).1 (by omega)
          split
          · rw [State.setChan_dma, updAt_other _ _ _ _ (Ne.symm hkn)]; exact this
          · exact this
      · intro hk
        have := (h2 k).2 (by omega)
        split
        · rw [State.setChan_dma, updAt_other _ _ _ _ (by omega)]; exact this
        · exact this

theorem queueStore_sst (s : State) (j : StoreJob) (h : s.cal.jobs = []) (hn : j.clear = true ∨ s.nextSeq j.kind ≤ 0xFFFFFFFE) : (s.queueStore j).sst = s.sst := by
  have f := (State.queueStore_begins s j h hn (T := storeFields j.kind) (P := [.cal]) (Frame.refl _ _ _) (by simp) (by simp)).1
  exact f.rest .sst (by simp)

/-- a slice that fails stops adapting, told once -/
theorem sliceCode_fails (s : State) (p k : Nat) :
   let u := (s.put (F.chnrxStatusLastCode p k) 0x522).put (F.chnrxStatusAdapting p k) 0
   s.sliceCode p k 0x522 = (if s.get (F.chnrxStatusLastCode p k) = 0x522 then [] else [484]).foldl State.raise u := by
  intro u
  unfold State.sliceCode
  rw [showAdapting_eq]
  have : (s.put (F.chnrxStatusLastCode p k) 0x522).get (F.chnrxStatusLastCode p k) = 0x522 := by
    simp (disch := (unfold InWord; dsimp only [F.chnrxStatusLastCode]; decide)) only [State.get_put_same]
    rfl
  rw [this, State.raiseIf_eq]
  by_cases h : s.get (F.chnrxStatusLastCode p k) = 0x522 <;> simp [h, u]

theorem trims (s : State) (c v : Nat → Int) (n : Nat) (hn : n ≤ 13) :
    let r := (List.range n).foldl (fun (p : State × Bool) i =>
      (p.1.puts [(F.calTrimValue i, ofSval 16 (c i)), (F.calTrimSat i, (decide (c i ≠ v i)).toNat)], p.2 || decide (c i ≠ v i))) (s, false)
    Frame ((List.range n).flatMap fun i => [F.calTrimValue i, F.calTrimSat i]) [] s r.1 ∧ r.1.cal = s.cal ∧
    (r.2 = true ↔ ∃ i, i < n ∧ c i ≠ v i) ∧
    ∀ i, i < n → r.1.get (F.calTrimValue i) = ofSval 16 (c i) % 65536 ∧ r.1.get (F.calTrimSat i) = (if c i = v i then 0 else 1) := by
  induction n with
  | zero => exact ⟨Frame.refl _ _ _, rfl, by simp, fun i h => by omega⟩
  | succ n ih =>
    obtain ⟨a, b, d, e⟩ := ih (by omega)
    simp only
    rw [List.range_succ, List.foldl_append, List.foldl_cons, List.foldl_nil]
    generalize (List.range n).foldl (fun (p : State × Bool) i =>
      (p.1.puts [(F.calTrimValue i, ofSval 16 (c i)), (F.calTrimSat i, (decide (c i ≠ v i)).toNat)], p.2 || decide (c i ≠ v i))) (s, false) = r at a b d e
    refine ⟨?_, ?_, ?_, ?_⟩
    · rw [List.flatMap_append]
      exact (a.mono (fun f h => List.mem_append.2 (.inl h)) (fun _ h => h)).puts (by simp)
    · simp only [State.puts_cons, State.puts_nil, State.put_cal]; exact b
    · rw [Bool.or_eq_true, d, decide_eq_true_eq]
      constructor
      · rintro (⟨i, h1, h2⟩ | h)
        · exact ⟨i, by omega, h2⟩
        · exact ⟨n, by omega, h⟩
      · rintro ⟨i, h1, h2⟩
        by_cases hin : i = n
        · subst hin; exact .inr h2
        · exact .inl ⟨i, by omega, h2⟩
    · intro i hi
      by_cases hin : i = n
      · subst hin
        have hm : (decide (c i ≠ v i)).toNat = (if c i = v i then 0 else 1) := by by_cases q : c i = v i <;> simp [q]
        rw [hm]
        have hl : (if c i = v i then 0 else 1) < 2 := by split <;> omega
        generalize (if c i = v i then 0 else 1) = z at hl ⊢
        generalize ofSval 16 (c i) = y
        refine ⟨by ((try simp only [on_eq]); (try simp (disch := ((first | unfold Apart | unfold InWord | skip); (try dsimp only [F.calTrimSat, F.calTrimValue, R.calTrim]); (try dsimp only [evOut]); (first | decide | omega | (simp only [ne_eq]; omega) | (simp; omega)))) only [State.get_put_same, State.get_put_other, State.get_mk, State.get_emit, State.get_bumpFree, State.get_setActReg, State.get_putAct, State.get_setWritten, State.get_setLanded, State.get_clearWritten, State.setChan_get, State.setOut_get, State.setTime_get, State.setEddy_get, State.setHost_get, State.setLane_get, State.setSideband_get, State.setPurser_get, State.setPower_get, State.setSlot_get, State.setCopy_get, State.setPort_get, State.setTx_get, State.setRx_get, State.setSwap_get, State.setHoldByte_get, State.setTbl_get, State.setXfer_get, State.setChunk_get, State.setOdrv_get, State.setPix_get, State.setRegion_get, State.setMapUse_get, State.setWear_get, State.setSync_get, State.setFn_get, State.setCal_get, State.puts_cons, State.puts_nil])); rfl, by ((try simp only [on_eq]); (try simp (disch := ((first | unfold Apart | unfold InWord | skip); (try dsimp only [F.calTrimSat, F.calTrimValue, R.calTrim]); (try dsimp only [evOut]); (first | decide | omega | (simp only [ne_eq]; omega) | (simp; omega)))) only [State.get_put_same, State.get_put_other, State.get_mk, State.get_emit, State.get_bumpFree, State.get_setActReg, State.get_putAct, State.get_setWritten, State.get_setLanded, State.get_clearWritten, State.setChan_get, State.setOut_get, State.setTime_get, State.setEddy_get, State.setHost_get, State.setLane_get, State.setSideband_get, State.setPurser_get, State.setPower_get, State.setSlot_get, State.setCopy_get, State.setPort_get, State.setTx_get, State.setRx_get, State.setSwap_get, State.setHoldByte_get, State.setTbl_get, State.setXfer_get, State.setChunk_get, State.setOdrv_get, State.setPix_get, State.setRegion_get, State.setMapUse_get, State.setWear_get, State.setSync_get, State.setFn_get, State.setCal_get, State.puts_cons, State.puts_nil])); exact Nat.mod_eq_of_lt hl⟩
      · obtain ⟨e1, e2⟩ := e i (by omega)
        refine ⟨?_, ?_⟩
        · simp only [State.puts_cons, State.puts_nil]; rw [State.get_put_other _ (by ((first | unfold Apart | unfold InWord | skip); (try dsimp only [F.calTrimSat, F.calTrimValue, R.calTrim]); (try dsimp only [evOut]); (first | decide | omega | (simp only [ne_eq]; omega) | (simp; omega)))) (by ((first | unfold Apart | unfold InWord | skip); (try dsimp only [F.calTrimSat, F.calTrimValue, R.calTrim]); (try dsimp only [evOut]); (first | decide | omega | (simp only [ne_eq]; omega) | (simp; omega)))), State.get_put_other _ (by ((first | unfold Apart | unfold InWord | skip); (try dsimp only [F.calTrimSat, F.calTrimValue, R.calTrim]); (try dsimp only [evOut]); (first | decide | omega | (simp only [ne_eq]; omega) | (simp; omega)))) (by ((first | unfold Apart | unfold InWord | skip); (try dsimp only [F.calTrimSat, F.calTrimValue, R.calTrim]); (try dsimp only [evOut]); (first | decide | omega | (simp only [ne_eq]; omega) | (simp; omega)))), e1]
        · simp only [State.puts_cons, State.puts_nil]; rw [State.get_put_other _ (by ((first | unfold Apart | unfold InWord | skip); (try dsimp only [F.calTrimSat, F.calTrimValue, R.calTrim]); (try dsimp only [evOut]); (first | decide | omega | (simp only [ne_eq]; omega) | (simp; omega)))) (by ((first | unfold Apart | unfold InWord | skip); (try dsimp only [F.calTrimSat, F.calTrimValue, R.calTrim]); (try dsimp only [evOut]); (first | decide | omega | (simp only [ne_eq]; omega) | (simp; omega)))), State.get_put_other _ (by ((first | unfold Apart | unfold InWord | skip); (try dsimp only [F.calTrimSat, F.calTrimValue, R.calTrim]); (try dsimp only [evOut]); (first | decide | omega | (simp only [ne_eq]; omega) | (simp; omega)))) (by ((first | unfold Apart | unfold InWord | skip); (try dsimp only [F.calTrimSat, F.calTrimValue, R.calTrim]); (try dsimp only [evOut]); (first | decide | omega | (simp only [ne_eq]; omega) | (simp; omega)))), e2]

theorem mailboxCmd_ready {s : State} {k : Nat} (h1 : s.purser.current = some k) (h2 : s.purser.serving = true) (h3 : s.purser.begun = false)
    (op : Nat → Bool) (ho : op (s.get (F.pursmCmdOpcode k)) = true) (pf0 : Bool) (run : Nat → State → State) :
    s.mailboxCmd op pf0 run = if pf0 && s.purser.caller != 0x40 then (s.setPurser fun p => { p with begun := true }).mboxDone k 6 0 []
      else run k (s.setPurser fun p => { p with begun := true }) := by
  unfold State.mailboxCmd; rw [h1]; dsimp only; rw [if_neg (by rw [h2, h3, ho]; decide)]

theorem mailboxCmd_idle {s : State} (h : s.purser.current = none ∨ s.purser.serving = false ∨ s.purser.begun = true) (op : Nat → Bool) (pf0 : Bool)
    (run : Nat → State → State) : s.mailboxCmd op pf0 run = s := by
  unfold State.mailboxCmd
  split
  · rfl
  · next k hk =>
    rw [if_pos]
    rcases h with h | h | h
    · rw [hk] at h; cases h
    · simp [h]
    · simp [h]

theorem args_fold (k : Nat) (args : List Nat) (n : Nat) (s : State) (hn : n ≤ 14) (hk : k < 16) :
    Frame ((List.range n).map (F.pursmArgValue k)) [] s ((List.range n).foldl (fun t i => t.put (F.pursmArgValue k i) (args.getD i 0)) s) ∧
    (∀ i, i < n → ((List.range n).foldl (fun t i => t.put (F.pursmArgValue k i) (args.getD i 0)) s).get (F.pursmArgValue k i) = args.getD i 0 % 2 ^ 32) ∧
    ((List.range n).foldl (fun t i => t.put (F.pursmArgValue k i) (args.getD i 0)) s).purser = s.purser := by
  induction n with
  | zero => exact ⟨Frame.refl _ _ _, fun i h => by omega, rfl⟩
  | succ n ih =>
    obtain ⟨a, b, c⟩ := ih (by omega)
    rw [List.range_succ, List.foldl_append, List.foldl_cons, List.foldl_nil, List.map_append]
    refine ⟨?_, ?_, ?_⟩
    · exact (a.mono (fun f h => List.mem_append.2 (.inl h)) (fun _ h => h)).put (by simp)
    · intro i hi
      by_cases hin : i = n
      · subst hin; generalize args.getD i 0 = v; ((try simp only [on_eq]); (try simp (disch := ((first | unfold Apart | unfold InWord | skip); (try dsimp only [F.pursmArgValue, R.pursmArg]); (try dsimp only [evOut]); (first | decide | omega | (simp only [ne_eq]; omega) | (simp; omega)))) only [State.get_put_same, State.get_put_other, State.get_mk, State.get_emit, State.get_bumpFree, State.get_setActReg, State.get_putAct, State.get_setWritten, State.get_setLanded, State.get_clearWritten, State.setChan_get, State.setOut_get, State.setTime_get, State.setEddy_get, State.setHost_get, State.setLane_get, State.setSideband_get, State.setPurser_get, State.setPower_get, State.setSlot_get, State.setCopy_get, State.setPort_get, State.setTx_get, State.setRx_get, State.setSwap_get, State.setHoldByte_get, State.setTbl_get, State.setXfer_get, State.setChunk_get, State.setOdrv_get, State.setPix_get, State.setRegion_get, State.setMapUse_get, State.setWear_get, State.setSync_get, State.setFn_get, State.setCal_get, State.puts_cons, State.puts_nil])); rfl
      · rw [State.get_put_other _ (by ((first | unfold Apart | unfold InWord | skip); (try dsimp only [F.pursmArgValue, R.pursmArg]); (try dsimp only [evOut]); (first | decide | omega | (simp only [ne_eq]; omega) | (simp; omega)))) (by ((first | unfold Apart | unfold InWord | skip); (try dsimp only [F.pursmArgValue, R.pursmArg]); (try dsimp only [evOut]); (first | decide | omega | (simp only [ne_eq]; omega) | (simp; omega)))), b i (by omega)]
    · rw [State.put_purser, c]

theorem raEnd_yields (s : State) (c : Instr) (code : Nat) (hc : code < 4096) (h : exec c s = .next (s.raEnd code)) :
    Yields c s [518] [F.chnRaStatusBusy, F.chnRaStatusCode] [.chain] fun u =>
          u.get F.chnRaStatusBusy = 0 ∧ u.get F.chnRaStatusCode = code ∧ u.chain = { s.chain with access := none } := by
  apply Yields.intro (u := (({ s with chain := { s.chain with access := none } } : State).puts [(F.chnRaStatusBusy, 0), (F.chnRaStatusCode, code)]))
  · rw [h]; rfl
  · refine Frame.puts ?_ (by simp); exact chainPart (Frame.refl _ _ _) _ (by simp)
  · refine ⟨by (((try simp only [on_eq]); (try simp (disch := ((first | unfold Apart | unfold InWord | skip); (try dsimp only [F.chnRaStatusCode, F.chnRaStatusBusy, R.chnRaStatus]); (try dsimp only [evOut]); (first | decide | omega | (simp only [ne_eq]; omega) | (simp; omega)))) only [State.get_put_same, State.get_put_other, State.get_mk, State.get_emit, State.get_bumpFree, State.get_setActReg, State.get_putAct, State.get_setWritten, State.get_setLanded, State.get_clearWritten, State.setChan_get, State.setOut_get, State.setTime_get, State.setEddy_get, State.setHost_get, State.setLane_get, State.setSideband_get, State.setPurser_get, State.setPower_get, State.setSlot_get, State.setCopy_get, State.setPort_get, State.setTx_get, State.setRx_get, State.setSwap_get, State.setHoldByte_get, State.setTbl_get, State.setXfer_get, State.setChunk_get, State.setOdrv_get, State.setPix_get, State.setRegion_get, State.setMapUse_get, State.setWear_get, State.setSync_get, State.setFn_get, State.setCal_get, State.puts_cons, State.puts_nil])); (try dsimp only [F.chnRaStatusCode, F.chnRaStatusBusy, R.chnRaStatus]); first | done | rfl | decide | omega | (simp; done) | (simp; omega)), ?_, by simp⟩
    ((try simp only [on_eq]); (try simp (disch := ((first | unfold Apart | unfold InWord | skip); (try dsimp only [F.chnRaStatusCode, F.chnRaStatusBusy, R.chnRaStatus]); (try dsimp only [evOut]); (first | decide | omega | (simp only [ne_eq]; omega) | (simp; omega)))) only [State.get_put_same, State.get_put_other, State.get_mk, State.get_emit, State.get_bumpFree, State.get_setActReg, State.get_putAct, State.get_setWritten, State.get_setLanded, State.get_clearWritten, State.setChan_get, State.setOut_get, State.setTime_get, State.setEddy_get, State.setHost_get, State.setLane_get, State.setSideband_get, State.setPurser_get, State.setPower_get, State.setSlot_get, State.setCopy_get, State.setPort_get, State.setTx_get, State.setRx_get, State.setSwap_get, State.setHoldByte_get, State.setTbl_get, State.setXfer_get, State.setChunk_get, State.setOdrv_get, State.setPix_get, State.setRegion_get, State.setMapUse_get, State.setWear_get, State.setSync_get, State.setFn_get, State.setCal_get, State.puts_cons, State.puts_nil])); exact Nat.mod_eq_of_lt (show _ < 2 ^ 12 by omega)

theorem newEpoch_spec (t : State) (e : Nat) :
    Frame [F.chnAddrAddr, F.chnAddrRoot, F.chnTopoUpstream, F.chnTopoTopology, F.chnTopoRingState, F.chnpStatusRole 0, F.chnpStatusRole 1, F.chnpStatusRole 2] [.chain] t (t.newEpoch e) ∧
    (t.newEpoch e).get F.chnTopoUpstream = 3 ∧ (t.newEpoch e).get F.chnTopoRingState = 0 ∧
    (t.newEpoch e).chain = { t.chain with epoch := e, root := 0, onC := false, branches := false, mgmt := [], closed := [], data := [], disagree := [], broken := [], heldRoot := if t.chain.onC || t.on F.chnBoardStatusBusy && t.on F.chnAddrRoot then some t.chain.root else t.chain.heldRoot, ports := t.chain.ports.map fun x => { x with linkDue := true } } := by
  unfold State.newEpoch State.linksDue
  refine ⟨?_, ?_, ?_, ?_⟩
  · apply chainPart _ _ (by simp)
    refine Frame.puts ?_ (by simp)
    exact chainPart (Frame.refl _ _ _) _ (by simp)
  · (((try simp only [on_eq]); (try simp (disch := ((first | unfold Apart | unfold InWord | skip); (try dsimp only [F.chnpStatusRole, F.chnTopoUpstream, R.chnpStatus, R.chnTopo, F.chnTopoRingState, F.chnTopoTopology]); (try dsimp only [evOut]); (first | decide | omega | (simp only [ne_eq]; omega) | (simp; omega)))) only [State.get_put_same, State.get_put_other, State.get_mk, State.get_emit, State.get_bumpFree, State.get_setActReg, State.get_putAct, State.get_setWritten, State.get_setLanded, State.get_clearWritten, State.setChan_get, State.setOut_get, State.setTime_get, State.setEddy_get, State.setHost_get, State.setLane_get, State.setSideband_get, State.setPurser_get, State.setPower_get, State.setSlot_get, State.setCopy_get, State.setPort_get, State.setTx_get, State.setRx_get, State.setSwap_get, State.setHoldByte_get, State.setTbl_get, State.setXfer_get, State.setChunk_get, State.setOdrv_get, State.setPix_get, State.setRegion_get, State.setMapUse_get, State.setWear_get, State.setSync_get, State.setFn_get, State.setCal_get, State.puts_cons, State.puts_nil])); (try dsimp only [F.chnpStatusRole, F.chnTopoUpstream, R.chnpStatus, R.chnTopo, F.chnTopoRingState, F.chnTopoTopology]); first | done | rfl | decide | omega | (simp; done) | (simp; omega))
  · (((try simp only [on_eq]); (try simp (disch := ((first | unfold Apart | unfold InWord | skip); (try dsimp only [F.chnpStatusRole, F.chnTopoUpstream, R.chnpStatus, R.chnTopo, F.chnTopoRingState, F.chnTopoTopology]); (try dsimp only [evOut]); (first | decide | omega | (simp only [ne_eq]; omega) | (simp; omega)))) only [State.get_put_same, State.get_put_other, State.get_mk, State.get_emit, State.get_bumpFree, State.get_setActReg, State.get_putAct, State.get_setWritten, State.get_setLanded, State.get_clearWritten, State.setChan_get, State.setOut_get, State.setTime_get, State.setEddy_get, State.setHost_get, State.setLane_get, State.setSideband_get, State.setPurser_get, State.setPower_get, State.setSlot_get, State.setCopy_get, State.setPort_get, State.setTx_get, State.setRx_get, State.setSwap_get, State.setHoldByte_get, State.setTbl_get, State.setXfer_get, State.setChunk_get, State.setOdrv_get, State.setPix_get, State.setRegion_get, State.setMapUse_get, State.setWear_get, State.setSync_get, State.setFn_get, State.setCal_get, State.puts_cons, State.puts_nil])); (try dsimp only [F.chnpStatusRole, F.chnTopoUpstream, R.chnpStatus, R.chnTopo, F.chnTopoRingState, F.chnTopoTopology]); first | done | rfl | decide | omega | (simp; done) | (simp; omega))
  · simp

end Sys2Proof.Machine
end

