-- ==== Sys2Proof/Laws/Time.lean ====
section
/-! SUPPORT. What the time commands do. -/

set_option Elab.async false
set_option linter.all false

open Sys2Proof

namespace Sys2Proof.Machine

theorem emit_fold {T : List Field} {P : List Part} {s t : State} (h : Frame T P s t) (m : .out ∈ P) (f : State → Nat → State) (l : List Nat)
    (hf : ∀ t k, f t k = t ∨ ∃ x, f t k = t.emit x) : Frame T P s (l.foldl f t) ∧ (l.foldl f t).time = t.time := by
  have := foldl_inv (fun u => Frame T P s u ∧ u.time = t.time) f l t ⟨h, rfl⟩ (by
    intro u k _ hu
    rcases hf u k with e | ⟨x, e⟩
    · rw [e]; exact hu
    · rw [e]; exact ⟨hu.1.emit m, hu.2⟩)
  exact this

theorem refPulse_spec {T : List Field} {P : List Part} {s t : State} (h : Frame T P s t) (m : .out ∈ P) (a b : Nat) (d : Int) (c : Option Nat) :
    Frame T P s (t.refPulse a b d c) ∧ (t.refPulse a b d c).time = t.time := by
  unfold State.refPulse
  split
  · exact ⟨h, rfl⟩
  apply emit_fold h m
  intro t k; split
  · exact Or.inr ⟨_, rfl⟩
  · exact Or.inl rfl

theorem refDivide_spec {T : List Field} {P : List Part} {s t : State} (h : Frame T P s t) (m : .out ∈ P) :
    Frame T P s t.refDivide ∧ t.refDivide.time = t.time := by
  unfold State.refDivide
  split
  · exact ⟨h, rfl⟩
  apply emit_fold h m
  intro t k; dsimp only; split
  · exact Or.inr ⟨_, rfl⟩
  · exact Or.inl rfl

def winStep (t : State) (k : Nat) : State :=
  let now := t.inWindow k t.time.now t.epoch
    if now = t.on (F.timeWinCtrlOpen k) then t
    else (t.put (F.timeWinCtrlOpen k) now.toNat).raise (if now then 551 else 552)

theorem winStep_frame {T : List Field} {P : List Part} {s t : State} (h : Frame T P s t) (k : Nat) (hk : k < 4) (hT : ∀ f ∈ windowFields, f ∈ T)
    (hP : ∀ p ∈ [Part.purser, .host, .out], p ∈ P) : Frame T P s (winStep t k) := by
  unfold winStep; dsimp only; split
  · exact h
  · have hw : F.timeWinCtrlOpen k ∈ T := hT _ (by
      unfold windowFields
      have : k = 0 ∨ k = 1 ∨ k = 2 ∨ k = 3 := by omega
      rcases this with rfl | rfl | rfl | rfl <;> simp)
    split
    · exact State.raise_frame (h.put hw) _ (hT _ (by simp [windowFields])) (hP _ (by simp)) (hP _ (by simp)) (hP _ (by simp))
    · exact State.raise_frame (h.put hw) _ (hT _ (by simp [windowFields])) (hP _ (by simp)) (hP _ (by simp)) (hP _ (by simp))

theorem winStep_time (t : State) (k : Nat) : (winStep t k).time = t.time := by
  unfold winStep; dsimp only; split
  · rfl
  · rw [raise_time]; rfl

theorem wf_apart {g : Field} (h1 : ∀ k, k < 4 → Apart (F.timeWinCtrlOpen k) g) (h2 : Apart (pendingField 551) g) (h3 : Apart (pendingField 552) g) :
    ∀ f ∈ windowFields, Apart f g := by
  unfold windowFields
  simp only [List.mem_cons, List.not_mem_nil, or_false]
  rintro f (rfl | rfl | rfl | rfl | rfl | rfl)
  · exact h1 0 (by omega)
  · exact h1 1 (by omega)
  · exact h1 2 (by omega)
  · exact h1 3 (by omega)
  · exact h2
  · exact h3

theorem inWindow_frame {P : List Part} {s t : State} (h : Frame windowFields P s t) (k now e : Nat) (hk : k < 4) :
    t.inWindow k now e = s.inWindow k now e ∧ t.epoch = s.epoch := by
  have g : ∀ f, InWord f → (∀ k, k < 4 → Apart (F.timeWinCtrlOpen k) f) → Apart (pendingField 551) f → Apart (pendingField 552) f → t.get f = s.get f :=
    fun f i a b c => h.get i (wf_apart a b c)
  refine ⟨?_, ?_⟩
  · unfold State.inWindow State.winOpen State.winClose State.on
    rw [g (F.timeWinCtrlEn k) (by ((first | unfold Apart | unfold InWord | skip); (try dsimp only [F.timeWinCtrlEn, R.timeWinCtrl, F.timeWinCtrlOpen, R.evtStatus, F.timeWinCtrlEpoch, F.timeWinOpenLoNs, R.timeWinOpenLo, F.timeWinOpenHiNs, R.timeWinOpenHi, F.timeWinCloseLoNs, R.timeWinCloseLo, F.timeWinCloseHiNs, R.timeWinCloseHi, F.timeEpochEpoch, R.timeEpoch]); (try dsimp only [evOut]); (first | decide | omega | (simp only [ne_eq]; omega) | (simp; omega)))) (by intro k hk; ((first | unfold Apart | unfold InWord | skip); (try dsimp only [F.timeWinCtrlEn, R.timeWinCtrl, F.timeWinCtrlOpen, R.evtStatus, F.timeWinCtrlEpoch, F.timeWinOpenLoNs, R.timeWinOpenLo, F.timeWinOpenHiNs, R.timeWinOpenHi, F.timeWinCloseLoNs, R.timeWinCloseLo, F.timeWinCloseHiNs, R.timeWinCloseHi, F.timeEpochEpoch, R.timeEpoch]); (try dsimp only [evOut]); (first | decide | omega | (simp only [ne_eq]; omega) | (simp; omega)))) (by unfold pendingField; ((first | unfold Apart | unfold InWord | skip); (try dsimp only [F.timeWinCtrlEn, R.timeWinCtrl, F.timeWinCtrlOpen, R.evtStatus, F.timeWinCtrlEpoch, F.timeWinOpenLoNs, R.timeWinOpenLo, F.timeWinOpenHiNs, R.timeWinOpenHi, F.timeWinCloseLoNs, R.timeWinCloseLo, F.timeWinCloseHiNs, R.timeWinCloseHi, F.timeEpochEpoch, R.timeEpoch]); (try dsimp only [evOut]); (first | decide | omega | (simp only [ne_eq]; omega) | (simp; omega)))) (by unfold pendingField; ((first | unfold Apart | unfold InWord | skip); (try dsimp only [F.timeWinCtrlEn, R.timeWinCtrl, F.timeWinCtrlOpen, R.evtStatus, F.timeWinCtrlEpoch, F.timeWinOpenLoNs, R.timeWinOpenLo, F.timeWinOpenHiNs, R.timeWinOpenHi, F.timeWinCloseLoNs, R.timeWinCloseLo, F.timeWinCloseHiNs, R.timeWinCloseHi, F.timeEpochEpoch, R.timeEpoch]); (try dsimp only [evOut]); (first | decide | omega | (simp only [ne_eq]; omega) | (simp; omega)))),
      g (F.timeWinCtrlEpoch k) (by ((first | unfold Apart | unfold InWord | skip); (try dsimp only [F.timeWinCtrlEn, R.timeWinCtrl, F.timeWinCtrlOpen, R.evtStatus, F.timeWinCtrlEpoch, F.timeWinOpenLoNs, R.timeWinOpenLo, F.timeWinOpenHiNs, R.timeWinOpenHi, F.timeWinCloseLoNs, R.timeWinCloseLo, F.timeWinCloseHiNs, R.timeWinCloseHi, F.timeEpochEpoch, R.timeEpoch]); (try dsimp only [evOut]); (first | decide | omega | (simp only [ne_eq]; omega) | (simp; omega)))) (by intro k hk; ((first | unfold Apart | unfold InWord | skip); (try dsimp only [F.timeWinCtrlEn, R.timeWinCtrl, F.timeWinCtrlOpen, R.evtStatus, F.timeWinCtrlEpoch, F.timeWinOpenLoNs, R.timeWinOpenLo, F.timeWinOpenHiNs, R.timeWinOpenHi, F.timeWinCloseLoNs, R.timeWinCloseLo, F.timeWinCloseHiNs, R.timeWinCloseHi, F.timeEpochEpoch, R.timeEpoch]); (try dsimp only [evOut]); (first | decide | omega | (simp only [ne_eq]; omega) | (simp; omega)))) (by unfold pendingField; ((first | unfold Apart | unfold InWord | skip); (try dsimp only [F.timeWinCtrlEn, R.timeWinCtrl, F.timeWinCtrlOpen, R.evtStatus, F.timeWinCtrlEpoch, F.timeWinOpenLoNs, R.timeWinOpenLo, F.timeWinOpenHiNs, R.timeWinOpenHi, F.timeWinCloseLoNs, R.timeWinCloseLo, F.timeWinCloseHiNs, R.timeWinCloseHi, F.timeEpochEpoch, R.timeEpoch]); (try dsimp only [evOut]); (first | decide | omega | (simp only [ne_eq]; omega) | (simp; omega)))) (by unfold pendingField; ((first | unfold Apart | unfold InWord | skip); (try dsimp only [F.timeWinCtrlEn, R.timeWinCtrl, F.timeWinCtrlOpen, R.evtStatus, F.timeWinCtrlEpoch, F.timeWinOpenLoNs, R.timeWinOpenLo, F.timeWinOpenHiNs, R.timeWinOpenHi, F.timeWinCloseLoNs, R.timeWinCloseLo, F.timeWinCloseHiNs, R.timeWinCloseHi, F.timeEpochEpoch, R.timeEpoch]); (try dsimp only [evOut]); (first | decide | omega | (simp only [ne_eq]; omega) | (simp; omega)))),
      g (F.timeWinOpenLoNs k) (by ((first | unfold Apart | unfold InWord | skip); (try dsimp only [F.timeWinCtrlEn, R.timeWinCtrl, F.timeWinCtrlOpen, R.evtStatus, F.timeWinCtrlEpoch, F.timeWinOpenLoNs, R.timeWinOpenLo, F.timeWinOpenHiNs, R.timeWinOpenHi, F.timeWinCloseLoNs, R.timeWinCloseLo, F.timeWinCloseHiNs, R.timeWinCloseHi, F.timeEpochEpoch, R.timeEpoch]); (try dsimp only [evOut]); (first | decide | omega | (simp only [ne_eq]; omega) | (simp; omega)))) (by intro k hk; ((first | unfold Apart | unfold InWord | skip); (try dsimp only [F.timeWinCtrlEn, R.timeWinCtrl, F.timeWinCtrlOpen, R.evtStatus, F.timeWinCtrlEpoch, F.timeWinOpenLoNs, R.timeWinOpenLo, F.timeWinOpenHiNs, R.timeWinOpenHi, F.timeWinCloseLoNs, R.timeWinCloseLo, F.timeWinCloseHiNs, R.timeWinCloseHi, F.timeEpochEpoch, R.timeEpoch]); (try dsimp only [evOut]); (first | decide | omega | (simp only [ne_eq]; omega) | (simp; omega)))) (by unfold pendingField; ((first | unfold Apart | unfold InWord | skip); (try dsimp only [F.timeWinCtrlEn, R.timeWinCtrl, F.timeWinCtrlOpen, R.evtStatus, F.timeWinCtrlEpoch, F.timeWinOpenLoNs, R.timeWinOpenLo, F.timeWinOpenHiNs, R.timeWinOpenHi, F.timeWinCloseLoNs, R.timeWinCloseLo, F.timeWinCloseHiNs, R.timeWinCloseHi, F.timeEpochEpoch, R.timeEpoch]); (try dsimp only [evOut]); (first | decide | omega | (simp only [ne_eq]; omega) | (simp; omega)))) (by unfold pendingField; ((first | unfold Apart | unfold InWord | skip); (try dsimp only [F.timeWinCtrlEn, R.timeWinCtrl, F.timeWinCtrlOpen, R.evtStatus, F.timeWinCtrlEpoch, F.timeWinOpenLoNs, R.timeWinOpenLo, F.timeWinOpenHiNs, R.timeWinOpenHi, F.timeWinCloseLoNs, R.timeWinCloseLo, F.timeWinCloseHiNs, R.timeWinCloseHi, F.timeEpochEpoch, R.timeEpoch]); (try dsimp only [evOut]); (first | decide | omega | (simp only [ne_eq]; omega) | (simp; omega)))),
      g (F.timeWinOpenHiNs k) (by ((first | unfold Apart | unfold InWord | skip); (try dsimp only [F.timeWinCtrlEn, R.timeWinCtrl, F.timeWinCtrlOpen, R.evtStatus, F.timeWinCtrlEpoch, F.timeWinOpenLoNs, R.timeWinOpenLo, F.timeWinOpenHiNs, R.timeWinOpenHi, F.timeWinCloseLoNs, R.timeWinCloseLo, F.timeWinCloseHiNs, R.timeWinCloseHi, F.timeEpochEpoch, R.timeEpoch]); (try dsimp only [evOut]); (first | decide | omega | (simp only [ne_eq]; omega) | (simp; omega)))) (by intro k hk; ((first | unfold Apart | unfold InWord | skip); (try dsimp only [F.timeWinCtrlEn, R.timeWinCtrl, F.timeWinCtrlOpen, R.evtStatus, F.timeWinCtrlEpoch, F.timeWinOpenLoNs, R.timeWinOpenLo, F.timeWinOpenHiNs, R.timeWinOpenHi, F.timeWinCloseLoNs, R.timeWinCloseLo, F.timeWinCloseHiNs, R.timeWinCloseHi, F.timeEpochEpoch, R.timeEpoch]); (try dsimp only [evOut]); (first | decide | omega | (simp only [ne_eq]; omega) | (simp; omega)))) (by unfold pendingField; ((first | unfold Apart | unfold InWord | skip); (try dsimp only [F.timeWinCtrlEn, R.timeWinCtrl, F.timeWinCtrlOpen, R.evtStatus, F.timeWinCtrlEpoch, F.timeWinOpenLoNs, R.timeWinOpenLo, F.timeWinOpenHiNs, R.timeWinOpenHi, F.timeWinCloseLoNs, R.timeWinCloseLo, F.timeWinCloseHiNs, R.timeWinCloseHi, F.timeEpochEpoch, R.timeEpoch]); (try dsimp only [evOut]); (first | decide | omega | (simp only [ne_eq]; omega) | (simp; omega)))) (by unfold pendingField; ((first | unfold Apart | unfold InWord | skip); (try dsimp only [F.timeWinCtrlEn, R.timeWinCtrl, F.timeWinCtrlOpen, R.evtStatus, F.timeWinCtrlEpoch, F.timeWinOpenLoNs, R.timeWinOpenLo, F.timeWinOpenHiNs, R.timeWinOpenHi, F.timeWinCloseLoNs, R.timeWinCloseLo, F.timeWinCloseHiNs, R.timeWinCloseHi, F.timeEpochEpoch, R.timeEpoch]); (try dsimp only [evOut]); (first | decide | omega | (simp only [ne_eq]; omega) | (simp; omega)))),
      g (F.timeWinCloseLoNs k) (by ((first | unfold Apart | unfold InWord | skip); (try dsimp only [F.timeWinCtrlEn, R.timeWinCtrl, F.timeWinCtrlOpen, R.evtStatus, F.timeWinCtrlEpoch, F.timeWinOpenLoNs, R.timeWinOpenLo, F.timeWinOpenHiNs, R.timeWinOpenHi, F.timeWinCloseLoNs, R.timeWinCloseLo, F.timeWinCloseHiNs, R.timeWinCloseHi, F.timeEpochEpoch, R.timeEpoch]); (try dsimp only [evOut]); (first | decide | omega | (simp only [ne_eq]; omega) | (simp; omega)))) (by intro k hk; ((first | unfold Apart | unfold InWord | skip); (try dsimp only [F.timeWinCtrlEn, R.timeWinCtrl, F.timeWinCtrlOpen, R.evtStatus, F.timeWinCtrlEpoch, F.timeWinOpenLoNs, R.timeWinOpenLo, F.timeWinOpenHiNs, R.timeWinOpenHi, F.timeWinCloseLoNs, R.timeWinCloseLo, F.timeWinCloseHiNs, R.timeWinCloseHi, F.timeEpochEpoch, R.timeEpoch]); (try dsimp only [evOut]); (first | decide | omega | (simp only [ne_eq]; omega) | (simp; omega)))) (by unfold pendingField; ((first | unfold Apart | unfold InWord | skip); (try dsimp only [F.timeWinCtrlEn, R.timeWinCtrl, F.timeWinCtrlOpen, R.evtStatus, F.timeWinCtrlEpoch, F.timeWinOpenLoNs, R.timeWinOpenLo, F.timeWinOpenHiNs, R.timeWinOpenHi, F.timeWinCloseLoNs, R.timeWinCloseLo, F.timeWinCloseHiNs, R.timeWinCloseHi, F.timeEpochEpoch, R.timeEpoch]); (try dsimp only [evOut]); (first | decide | omega | (simp only [ne_eq]; omega) | (simp; omega)))) (by unfold pendingField; ((first | unfold Apart | unfold InWord | skip); (try dsimp only [F.timeWinCtrlEn, R.timeWinCtrl, F.timeWinCtrlOpen, R.evtStatus, F.timeWinCtrlEpoch, F.timeWinOpenLoNs, R.timeWinOpenLo, F.timeWinOpenHiNs, R.timeWinOpenHi, F.timeWinCloseLoNs, R.timeWinCloseLo, F.timeWinCloseHiNs, R.timeWinCloseHi, F.timeEpochEpoch, R.timeEpoch]); (try dsimp only [evOut]); (first | decide | omega | (simp only [ne_eq]; omega) | (simp; omega)))),
      g (F.timeWinCloseHiNs k) (by ((first | unfold Apart | unfold InWord | skip); (try dsimp only [F.timeWinCtrlEn, R.timeWinCtrl, F.timeWinCtrlOpen, R.evtStatus, F.timeWinCtrlEpoch, F.timeWinOpenLoNs, R.timeWinOpenLo, F.timeWinOpenHiNs, R.timeWinOpenHi, F.timeWinCloseLoNs, R.timeWinCloseLo, F.timeWinCloseHiNs, R.timeWinCloseHi, F.timeEpochEpoch, R.timeEpoch]); (try dsimp only [evOut]); (first | decide | omega | (simp only [ne_eq]; omega) | (simp; omega)))) (by intro k hk; ((first | unfold Apart | unfold InWord | skip); (try dsimp only [F.timeWinCtrlEn, R.timeWinCtrl, F.timeWinCtrlOpen, R.evtStatus, F.timeWinCtrlEpoch, F.timeWinOpenLoNs, R.timeWinOpenLo, F.timeWinOpenHiNs, R.timeWinOpenHi, F.timeWinCloseLoNs, R.timeWinCloseLo, F.timeWinCloseHiNs, R.timeWinCloseHi, F.timeEpochEpoch, R.timeEpoch]); (try dsimp only [evOut]); (first | decide | omega | (simp only [ne_eq]; omega) | (simp; omega)))) (by unfold pendingField; ((first | unfold Apart | unfold InWord | skip); (try dsimp only [F.timeWinCtrlEn, R.timeWinCtrl, F.timeWinCtrlOpen, R.evtStatus, F.timeWinCtrlEpoch, F.timeWinOpenLoNs, R.timeWinOpenLo, F.timeWinOpenHiNs, R.timeWinOpenHi, F.timeWinCloseLoNs, R.timeWinCloseLo, F.timeWinCloseHiNs, R.timeWinCloseHi, F.timeEpochEpoch, R.timeEpoch]); (try dsimp only [evOut]); (first | decide | omega | (simp only [ne_eq]; omega) | (simp; omega)))) (by unfold pendingField; ((first | unfold Apart | unfold InWord | skip); (try dsimp only [F.timeWinCtrlEn, R.timeWinCtrl, F.timeWinCtrlOpen, R.evtStatus, F.timeWinCtrlEpoch, F.timeWinOpenLoNs, R.timeWinOpenLo, F.timeWinOpenHiNs, R.timeWinOpenHi, F.timeWinCloseLoNs, R.timeWinCloseLo, F.timeWinCloseHiNs, R.timeWinCloseHi, F.timeEpochEpoch, R.timeEpoch]); (try dsimp only [evOut]); (first | decide | omega | (simp only [ne_eq]; omega) | (simp; omega))))]
  · exact g _ (by ((first | unfold Apart | unfold InWord | skip); (try dsimp only [F.timeWinCtrlEn, R.timeWinCtrl, F.timeWinCtrlOpen, R.evtStatus, F.timeWinCtrlEpoch, F.timeWinOpenLoNs, R.timeWinOpenLo, F.timeWinOpenHiNs, R.timeWinOpenHi, F.timeWinCloseLoNs, R.timeWinCloseLo, F.timeWinCloseHiNs, R.timeWinCloseHi, F.timeEpochEpoch, R.timeEpoch]); (try dsimp only [evOut]); (first | decide | omega | (simp only [ne_eq]; omega) | (simp; omega)))) (by intro k hk; ((first | unfold Apart | unfold InWord | skip); (try dsimp only [F.timeWinCtrlEn, R.timeWinCtrl, F.timeWinCtrlOpen, R.evtStatus, F.timeWinCtrlEpoch, F.timeWinOpenLoNs, R.timeWinOpenLo, F.timeWinOpenHiNs, R.timeWinOpenHi, F.timeWinCloseLoNs, R.timeWinCloseLo, F.timeWinCloseHiNs, R.timeWinCloseHi, F.timeEpochEpoch, R.timeEpoch]); (try dsimp only [evOut]); (first | decide | omega | (simp only [ne_eq]; omega) | (simp; omega)))) (by unfold pendingField; ((first | unfold Apart | unfold InWord | skip); (try dsimp only [F.timeWinCtrlEn, R.timeWinCtrl, F.timeWinCtrlOpen, R.evtStatus, F.timeWinCtrlEpoch, F.timeWinOpenLoNs, R.timeWinOpenLo, F.timeWinOpenHiNs, R.timeWinOpenHi, F.timeWinCloseLoNs, R.timeWinCloseLo, F.timeWinCloseHiNs, R.timeWinCloseHi, F.timeEpochEpoch, R.timeEpoch]); (try dsimp only [evOut]); (first | decide | omega | (simp only [ne_eq]; omega) | (simp; omega)))) (by unfold pendingField; ((first | unfold Apart | unfold InWord | skip); (try dsimp only [F.timeWinCtrlEn, R.timeWinCtrl, F.timeWinCtrlOpen, R.evtStatus, F.timeWinCtrlEpoch, F.timeWinOpenLoNs, R.timeWinOpenLo, F.timeWinOpenHiNs, R.timeWinOpenHi, F.timeWinCloseLoNs, R.timeWinCloseLo, F.timeWinCloseHiNs, R.timeWinCloseHi, F.timeEpochEpoch, R.timeEpoch]); (try dsimp only [evOut]); (first | decide | omega | (simp only [ne_eq]; omega) | (simp; omega))))

theorem winStep_get (t : State) (k : Nat) (hk : k < 4) : ((winStep t k).get (F.timeWinCtrlOpen k) = 1 ↔ t.inWindow k t.time.now t.epoch = true) := by
  unfold winStep; dsimp only
  split
  · next h => rw [h]; simp [on_eq]
  · next h =>
    rw [raise_get _ _ (by ((first | unfold Apart | unfold InWord | skip); (try dsimp only [F.timeWinCtrlOpen, R.timeWinCtrl, R.evtStatus]); (try dsimp only [evOut]); (first | decide | omega | (simp only [ne_eq]; omega) | (simp; omega)))) (by split <;> (unfold pendingField; ((first | unfold Apart | unfold InWord | skip); (try dsimp only [F.timeWinCtrlOpen, R.timeWinCtrl, R.evtStatus]); (try dsimp only [evOut]); (first | decide | omega | (simp only [ne_eq]; omega) | (simp; omega))))), State.get_put_same _ (by ((first | unfold Apart | unfold InWord | skip); (try dsimp only [F.timeWinCtrlOpen, R.timeWinCtrl, R.evtStatus]); (try dsimp only [evOut]); (first | decide | omega | (simp only [ne_eq]; omega) | (simp; omega))))]
    cases t.inWindow k t.time.now t.epoch <;> simp [F.timeWinCtrlOpen]

theorem winStep_other (t : State) (k j : Nat) (hk : k < 4) (hj : j < 4) (hn : k ≠ j) : (winStep t k).get (F.timeWinCtrlOpen j) = t.get (F.timeWinCtrlOpen j) := by
  unfold winStep; dsimp only
  split
  · rfl
  · rw [raise_get _ _ (by ((first | unfold Apart | unfold InWord | skip); (try dsimp only [F.timeWinCtrlOpen, R.timeWinCtrl, R.evtStatus]); (try dsimp only [evOut]); (first | decide | omega | (simp only [ne_eq]; omega) | (simp; omega)))) (by split <;> (unfold pendingField; ((first | unfold Apart | unfold InWord | skip); (try dsimp only [F.timeWinCtrlOpen, R.timeWinCtrl, R.evtStatus]); (try dsimp only [evOut]); (first | decide | omega | (simp only [ne_eq]; omega) | (simp; omega))))), State.get_put_other _ (by ((first | unfold Apart | unfold InWord | skip); (try dsimp only [F.timeWinCtrlOpen, R.timeWinCtrl, R.evtStatus]); (try dsimp only [evOut]); (first | decide | omega | (simp only [ne_eq]; omega) | (simp; omega)))) (by ((first | unfold Apart | unfold InWord | skip); (try dsimp only [F.timeWinCtrlOpen, R.timeWinCtrl, R.evtStatus]); (try dsimp only [evOut]); (first | decide | omega | (simp only [ne_eq]; omega) | (simp; omega))))]

theorem checkWindows_eq (t : State) : t.checkWindows = winStep (winStep (winStep (winStep t 0) 1) 2) 3 := by
  have : t.checkWindows = (List.range 4).foldl winStep t := by unfold State.checkWindows winStep; rfl
  rw [this, show List.range 4 = [0, 1, 2, 3] from rfl]; simp only [List.foldl_cons, List.foldl_nil]

theorem checkWindows_spec (t : State) : Frame windowFields [.purser, .host, .out] t t.checkWindows ∧ t.checkWindows.time = t.time ∧
    ∀ k, k < 4 → (t.checkWindows.get (F.timeWinCtrlOpen k) = 1 ↔ t.inWindow k t.time.now t.epoch = true) := by
  rw [checkWindows_eq]
  have f0 := winStep_frame (Frame.refl windowFields [.purser, .host, .out] t) 0 (by omega) (fun _ h => h) (fun _ h => h)
  have f1 := winStep_frame f0 1 (by omega) (fun _ h => h) (fun _ h => h)
  have f2 := winStep_frame f1 2 (by omega) (fun _ h => h) (fun _ h => h)
  have f3 := winStep_frame f2 3 (by omega) (fun _ h => h) (fun _ h => h)
  refine ⟨f3, by simp only [winStep_time], ?_⟩
  have t0 : (winStep t 0).time = t.time := winStep_time _ _
  have t1 : (winStep (winStep t 0) 1).time = t.time := by rw [winStep_time, t0]
  have t2 : (winStep (winStep (winStep t 0) 1) 2).time = t.time := by rw [winStep_time, t1]
  intro k hk
  have : k = 0 ∨ k = 1 ∨ k = 2 ∨ k = 3 := by omega
  rcases this with rfl | rfl | rfl | rfl
  · rw [winStep_other _ _ _ (by omega) (by omega) (by omega), winStep_other _ _ _ (by omega) (by omega) (by omega), winStep_other _ _ _ (by omega) (by omega) (by omega),
      winStep_get _ _ (by omega)]
  · rw [winStep_other _ _ _ (by omega) (by omega) (by omega), winStep_other _ _ _ (by omega) (by omega) (by omega), winStep_get _ _ (by omega), t0,
      (inWindow_frame f0 1 t.time.now _ (by omega)).1, (inWindow_frame f0 1 t.time.now 0 (by omega)).2]
  · rw [winStep_other _ _ _ (by omega) (by omega) (by omega), winStep_get _ _ (by omega), t1,
      (inWindow_frame f1 2 t.time.now _ (by omega)).1, (inWindow_frame f1 2 t.time.now 0 (by omega)).2]
  · rw [winStep_get _ _ (by omega), t2,
      (inWindow_frame f2 3 t.time.now _ (by omega)).1, (inWindow_frame f2 3 t.time.now 0 (by omega)).2]

theorem clampI_abs (l : Nat) (v : Int) : (clampI (-(l : Int)) l v).natAbs ≤ l ∧ (v.natAbs ≤ l → clampI (-(l : Int)) l v = v) := by
  unfold clampI
  split
  · constructor
    · omega
    · intro h; omega
  · split
    · constructor
      · omega
      · intro h; omega
    · constructor
      · omega
      · intro _; rfl

def bStep (s : State) : State := match s.time.step with
    | none => s
    | some d =>
      let t := (s.setTime fun x => { x with step := none, now := addTime x.now (d * (nsUnit : Int)) }).put
        F.timeStatusStepPending 0
      (if t.on F.timeStatusDisciplined then t else t.put F.timeStatusDegraded 0).noteJump (d * (nsUnit : Int))

def bJump (s1 : State) : State := match s1.time.jump with
    | none => s1
    | some d =>
      let t := (s1.setTime fun x =>
        if s1.jumpSlews then { x with jump := none, slew := d, samples := [], secondOffset := none }
        else { x with jump := none, samples := [], secondOffset := none, now := addTime x.now d }).puts
          [(F.timeStatusJumpPending, 0), (F.timeStatusDegraded, 0)]
      t.noteJump d

def bEpoch (s2 : State) : State := match s2.time.epochNext with
    | none => s2
    | some e => (s2.setTime fun x => { x with epochNext := none }).put F.timeEpochEpoch e

theorem boundary_eq (s : State) : s.boundary = (bEpoch (bJump (bStep s))).checkWindows := by
  unfold State.boundary bEpoch bJump bStep
  rfl

theorem bStep_none {s : State} (h : s.time.step = none) : bStep s = s := by unfold bStep; rw [h]

theorem bJump_none {s : State} (h : s.time.jump = none) : bJump s = s := by unfold bJump; rw [h]

theorem bEpoch_none {s : State} (h : s.time.epochNext = none) : bEpoch s = s := by unfold bEpoch; rw [h]

theorem ltcCheck_spec (t : State) (k : Fin 2) {en : Bool} {rate : Nat} (h1 : t.get (F.timeLtcoCfgEn k) = en.toNat) (h2 : t.get (F.timeLtcoCfgRate k) = rate) :
    t.ltcCheck k = if en = true ∧ ltcRateOf rate = none then t.put F.timeStatusLastCode 0x608 else t := by
  unfold State.ltcCheck
  rw [on_eq, h1, h2]
  cases en <;> cases ltcRateOf rate <;> rfl

end Sys2Proof.Machine
end

