-- ==== Sys2Proof/WellFormed.lean ====
section
/-!
DEFINITION. Which commands the outside world can bring: the operands that no command row allows are refused here. A command is well formed
when its own data has the form that the rules give it; whether the part can take it up at this moment is the command's meaning.
-/

namespace Sys2Proof

/-- A register access is naturally aligned (R6): any other is MISALIGNED_BAR0_ACCESS's. -/
def aligned (addr : BitVec 26) : Bool := addr.toNat % 4 == 0

/-- An access to the Hold names a whole word (R234), and the accesses of its cycle name words of its bank (R235). -/
def holdAccessOk (a : HoldAccess) (arb : Arbitration) : Bool :=
  a.addr.toNat % 32 == 0 && arb.others.all fun p =>
    p.acc.addr.toNat % 32 == 0 && p.acc.addr.toNat / 0x400000 == a.addr.toNat / 0x400000

/-- A host read asks for bytes of one 4 KiB page, and brings an arbitration for each word after its first (R352). -/
def barReadOk (a : HoldAccess) (len more : Nat) : Bool :=
  a.write || (decide (1 ≤ len) && decide (a.addr.toNat % 4096 + a.rotate.val + len ≤ 4096) && (a.rotate.val + len + 31) / 32 == more + 1)

/-- What a march test read is of whole words (R245). -/
def failsOk (l : List MarchFail) : Bool :=
  l.all fun f => match f.unit with
    | .word a => a.toNat % 32 == 0
    | .reliefRow .. | .reliefBank .. => true

/-- An answer brings data when it is good or poisoned, and no more than was asked for (R274). -/
def replyOk (r : BusReply) (data : List Byte) (most : Nat) : Bool :=
  decide (data.length ≤ most) && (r == .ok || r == .poisoned || data.isEmpty)

/-- The errors of a span are of its 2^16 symbols (R224, R229). -/
def spanOk : SpanOf → Bool
  | .lane _ => true
  | .slice _ _ count errors => decide (count.toNat ≤ 65536) && decide (errors.toNat ≤ 65536)

/-- A row of the link table (R351): a rate in MT/s, a width, flit mode required at 64 GT/s. -/
def linkOk (rate width : Nat) (flit : Bool) : Bool :=
  [2500, 5000, 8000, 16000, 32000, 64000].contains rate && [1, 2, 4, 8].contains width && (rate != 64000 || flit)

/-- At most 31 VFs are enabled, and the System Page Size is one of those supported (R356). -/
def configOk : ConfigChange → Bool
  | .sriov _ n => decide (n.toNat ≤ 31)
  | .pageSize n => n == 0x1 || n == 0x10
  | .command .. | .power .. | .msix .. | .sizes .. | .tags .. | .ltr .. | .aspm .. | .l0p .. | .bar .. | .vfBar .. | .bus .. | .aer ..
  | .maskVector .. | .entry .. => true

/-- Whether a command is one that a row of the table gives. -/
def Instr.wellFormed : Instr → Bool
  | .registerWrite _ addr _ _ => aligned addr
  | .misalignedBar0Access _ addr size _ => decide (0 < size) && !(size == 4 && aligned addr)
  | .lowWordRead _ addr => aligned addr
  | .rcRead _ addr _ => aligned addr
  | .sstFetchComplete ok words => ok || words.isEmpty
  | .cmdInvalid _ op _ => decide (6 ≤ op.val)
  | .holdAccess a arb => holdAccessOk a arb
  | .marchAbandon _ _ _ _ fails => failsOk fails
  | .marchTestEnd fails => failsOk fails
  | .sidebandReply _ frame _ => decide (frame.length ≤ 260)
  | .tableDataWrite _ addr _ => aligned addr
  | .tableDataRead _ addr => aligned addr
  | .unifAddressWrite _ addr _ => aligned addr
  | .unifCheckBase _ addr => aligned addr
  | .unifCheckField _ addr => aligned addr
  | .baseLock _ addr => aligned addr
  | .wearLedgerReadDone _ _ _ data reply => reply == .ok || data.isEmpty
  | .odrvPanelTempWrite _ addr _ => aligned addr
  | .dmaStart _ _ data => data.getLsbD 0
  | .dmaAbort _ _ data => data.getLsbD 1
  | .dmaResume _ _ data => data.getLsbD 2
  | .descriptorFetched _ reply data _ => replyOk reply data 64
  | .dmaReadCompletion _ _ reply data _ => replyOk reply data 4096
  | .shortFlitReceived _ marks _ flit _ => marks.length == 4 && flit.length == 48
  | .pixelGroupReceived _ lanes => lanes.length == 4 && lanes.all fun l => l.length == 272
  | .densitySpanEnd t _ => spanOk t
  | .eyeScan _ _ heights widths => heights.length == 3 && widths.length == 3
  | .agingMeasurement reaches regions => reaches.length == 68 && regions.length == 16
  | .linkTrained rate width flit => linkOk rate width flit
  | .bar2Access _ a arb len more => holdAccessOk a arb && more.all (holdAccessOk a) && barReadOk a len more.length
  | .configWrite _ c => configOk c
  | .startupMarchComplete fails => failsOk fails
  | .recordStoreComplete bad => decide bad.Nodup
  | .sstLoad .. | .sstApply .. | .sstDiscard .. | .storeBoot .. | .clearBoot .. | .holdBusyNRelease .. | .ferryStart ..
  | .ferryDrained .. | .ferryDrainLimit .. | .holdGroupReady .. | .marchRequest .. | .marchBackgroundWindow .. | .marchHoldLimit ..
  | .repairRow .. | .repairBank .. | .repairCopyDone .. | .trainingSequenceEnd .. | .listenTimeout .. | .retryStart ..
  | .retrain .. | .txOff .. | .sidebandPoll .. | .replyTimeout .. | .sidebandRepeat .. | .calRequest .. | .calMeasure ..
  | .calTrialWindowEnd .. | .calHistogramReceived .. | .ffeForce .. | .tgEnable .. | .tgDisable .. | .tgStopped .. | .landGo ..
  | .landCancel .. | .landingPoint .. | .frameStart .. | .lineStart .. | .syncWindowClose .. | .chainEpoch .. | .teEdge ..
  | .teTimeout .. | .unifCheckComplete .. | .baseMapHashDone .. | .wearRowStart .. | .wearLedgerWriteDone .. | .wearGenGroup ..
  | .eddyInternalJobDone .. | .temperatureTimerExpiry .. | .slotReady .. | .slotWithdraw .. | .lineGroupRead .. | .rgnPush ..
  | .rgnFlush .. | .regionSeedDone .. | .regionCopyDone .. | .regionMergeDone .. | .eddyStart .. | .eddyResume .. | .eddyAbort ..
  | .ctxSave .. | .ctxRestore .. | .eddyJobComplete .. | .eddyOutputExhausted .. | .eddyJobError .. | .eddyCtxComplete ..
  | .dmaHoldResponse .. | .flushReadComplete .. | .completionTimeout ..
  | .rateWindow .. | .linkFlitDue .. | .timeFlitDue .. | .markerLossTimeout .. | .linkFlitTimeout .. | .boardStart ..
  | .boardTimeout .. | .ringRestore .. | .dataViewLapse .. | .raRead .. | .raWrite .. | .raTimeout .. | .sensorTx ..
  | .chainSubRound .. | .chainRxForce .. | .ctleInterval .. | .dfeStep .. | .chainStatsStarved .. | .chainSliceSwap ..
  | .swapLockTimeout .. | .thermalThreshold .. | .syncInEdge .. | .timeTick .. | .timeBoundary .. | .timeIncrWrite ..
  | .timeSlewWrite .. | .timeStepArm .. | .disciplineIntervalEnd .. | .incrCorrection .. | .ptmDialog .. | .ptmDialogComplete ..
  | .ltcInWord .. | .ltcInWordMissing .. | .ltcWordStart .. | .ltcJam .. | .holdoverEnd .. | .captureLoRead ..
  | .captureMetaRead .. | .purserStampRead .. | .swlogPop .. | .txqPop .. | .windowArm .. | .refinLoss .. | .refinRestore ..
  | .ppsLoss .. | .linkFailure .. | .aspmL1Entry .. | .msixVectorUnmask .. | .functionLevelReset .. | .flrComplete .. | .mstThaw ..
  | .causeAck .. | .purserWatchdog .. | .purserRestartComplete .. | .doorbellRing .. | .mailboxTakeUp .. | .mailboxTimeout ..
  | .manifestRequest .. | .manifestFlushComplete .. | .getInfo .. | .eventTest .. | .unknownOp .. | .evtSoftRaise .. | .calRead ..
  | .calStore .. | .calClear .. | .calSetDigest .. | .calStatus .. | .otpFuse .. | .reliefSwap .. | .pfailNFall ..
  | .pfailRecognised .. | .pfailNRise .. | .dischargeCut .. | .dischargeHoldExpiry .. | .dischargeComplete ..
  | .slackExitDeadline .. | .powerRequestRun .. | .powerRequestSlack .. | .powerRequestWinter .. | .powerRequestInvalid ..
  | .winterQuiesced .. | .winterEntryTimeout .. | .thawSwitchesClose .. | .thawPllsLocked .. | .thawComplete .. | .vddHoldLate ..
  | .refclkLoss .. | .refclkRestore .. | .aonCrystalStop .. | .pllLossOfLock .. | .pllLockRegained .. | .outputPllRelockTimeout ..
  | .powerOn .. | .startupComplete .. | .perstAssert .. | .perstRelease .. | .warmReset .. | .thermalOvertemp ..
  | .thermalCooldown .. | .stateRequest .. | .trimEffective .. | .supplyOutOfRange .. | .supplyCollapse .. => true

end Sys2Proof
end

