-- ==== Sys2Proof/Tests/Slice0.lean ====
section
/-!
SUPPORT. The model's own tests: what WellFormed refuses, worked examples of the spec, and for each obligation with hypotheses the states and
operands that meet them, clause by clause, at the ends of their ranges.
-/

set_option Elab.async false
set_option linter.all false

open Sys2Proof Sys2Proof.Machine

namespace Sys2Proof.Tests

/-! Ill-formed commands: one for each check. -/

def anAccess : HoldAccess := ⟨0x10, 0x400000, 0, 0xFFFFFFFF, false, 0⟩
def anArb : Arbitration := ⟨0, 0, false, []⟩
/-- A HoldPort of accesses that meet nothing. -/
def noPort : HoldPort := ⟨[], 0, [], [], []⟩

def aFail (a : BitVec 30) : MarchFail := ⟨.word a, 1, 0, 0, false⟩

theorem test_wellFormed_alignment :
    (Instr.registerWrite .purser 2 0 0).wellFormed = false ∧ (Instr.lowWordRead .purser 1).wellFormed = false ∧
    (Instr.rcRead .purser 3 0).wellFormed = false ∧ (Instr.tableDataWrite .purser 2 0).wellFormed = false ∧
    (Instr.tableDataRead .purser 1).wellFormed = false ∧ (Instr.unifAddressWrite .purser 1 0).wellFormed = false ∧
    (Instr.unifCheckBase .purser 1).wellFormed = false ∧ (Instr.unifCheckField .purser 1).wellFormed = false ∧
    (Instr.baseLock .purser 2).wellFormed = false ∧ (Instr.odrvPanelTempWrite .purser 2 0).wellFormed = false ∧
    (Instr.misalignedBar0Access .purser 4 4 true).wellFormed = false ∧ (Instr.misalignedBar0Access .purser 4 0 true).wellFormed = false ∧
    (Instr.misalignedBar0Access .purser 2 4 true).wellFormed = true := by decide +kernel

theorem test_wellFormed_hold :
    (Instr.holdAccess { anAccess with addr := 0x400001 } anArb).wellFormed = false ∧
    (Instr.holdAccess anAccess { anArb with others := [⟨{ anAccess with addr := 0x800000 }, 0, 0, false⟩] }).wellFormed = false ∧
    (Instr.holdAccess anAccess { anArb with others := [⟨{ anAccess with addr := 0x400010 }, 0, 0, false⟩] }).wellFormed = false ∧
    (Instr.bar2Access 0 anAccess anArb 0 []).wellFormed = false ∧ (Instr.bar2Access 0 anAccess anArb 64 []).wellFormed = false ∧
    (Instr.bar2Access 0 { anAccess with addr := 0x400FE0 } anArb 64 [anArb]).wellFormed = false ∧
    (Instr.bar2Access 0 anAccess anArb 64 [anArb]).wellFormed = true ∧
    (Instr.marchTestEnd [aFail 1]).wellFormed = false ∧ (Instr.startupMarchComplete [aFail 1]).wellFormed = false ∧
    (Instr.marchAbandon .purser true true true [aFail 1]).wellFormed = false := by decide +kernel

theorem test_wellFormed_data :
    (Instr.sstFetchComplete false [0]).wellFormed = false ∧ (Instr.cmdInvalid .purser 5 0).wellFormed = false ∧
    (Instr.sidebandReply 0 (List.replicate 261 0) 0).wellFormed = false ∧ (Instr.wearLedgerReadDone 0 0 false [0] .completer).wellFormed = false ∧
    (Instr.dmaStart .purser 0 6).wellFormed = false ∧ (Instr.dmaAbort .purser 0 5).wellFormed = false ∧
    (Instr.dmaResume .purser 0 3).wellFormed = false ∧ (Instr.descriptorFetched 0 .completer [0] noPort).wellFormed = false ∧
    (Instr.descriptorFetched 0 .ok (List.replicate 65 0) noPort).wellFormed = false ∧
    (Instr.dmaReadCompletion 0 0 .unsupported [0] noPort).wellFormed = false ∧
    (Instr.shortFlitReceived 0 [] 0 (List.replicate 48 0) 0).wellFormed = false ∧
    (Instr.shortFlitReceived 0 (List.replicate 4 none) 0 [] 0).wellFormed = false ∧ (Instr.pixelGroupReceived 0 []).wellFormed = false ∧
    (Instr.pixelGroupReceived 0 (List.replicate 4 [])).wellFormed = false ∧
    (Instr.densitySpanEnd (.slice 0 0 65537 0) 0).wellFormed = false ∧ (Instr.densitySpanEnd (.slice 0 0 0 65537) 0).wellFormed = false ∧
    (Instr.eyeScan 0 0 [0] [0, 0, 0]).wellFormed = false ∧ (Instr.eyeScan 0 0 [0, 0, 0] []).wellFormed = false ∧
    (Instr.agingMeasurement [] []).wellFormed = false ∧ (Instr.linkTrained 64000 4 false).wellFormed = false ∧
    (Instr.linkTrained 3000 4 true).wellFormed = false ∧ (Instr.linkTrained 8000 3 true).wellFormed = false ∧
    (Instr.configWrite 0 (.sriov true 32)).wellFormed = false ∧
    (Instr.configWrite 0 (.pageSize 2)).wellFormed = false ∧ (Instr.configWrite 0 (.pageSize 0x10)).wellFormed = true ∧ (Instr.recordStoreComplete [3, 3]).wellFormed = false := by decide +kernel

/-! What meets the hypotheses of the obligations. -/

/-- The reset state with fields written. -/
def at0 (l : List (Field × Nat)) : State := State.reset.puts l

/-- The reset state with PF0 able to reach the part and to master the bus, the link up. -/
def linked : State := { State.reset with host := { State.reset.host with
  linkUp := true, fns := updAt State.reset.host.fns 0 fun x => { x with memSpace := true, busMaster := true, msixEnable := true } } }

/-- Output 0 running, with a change of its own state. -/
def ran (l : List (Field × Nat)) (f : OutState → OutState) : State := (at0 ((F.tgStatusRun 0, 1) :: l)).setOut 0 f

/-- The Purser serving, with a change of its own state. -/
def served (l : List (Field × Nat)) (f : PurserState → PurserState) : State :=
  let s := at0 l
  { s with purser := f { s.purser with serving := true } }

/-- VF 1 enabled and reachable. -/
def withVf : State := { linked with host := { linked.host with
  vfEnable := true, numVfs := 1, fns := updAt linked.host.fns 1 fun x => { x with memSpace := true } } }

theorem witness_StepServesTheFront : ({ State.reset with pending := [.timeTick, .ptmDialog] }).pending = [.timeTick, .ptmDialog] ∧
    State.reset.pending = [] := by decide +kernel

theorem witness_StepKeepsTheInvariant : State.reset.canonical = true ∧ State.reset.shape = partShape ∧
    ∀ c ∈ [Instr.timeTick, .pfailNFall, .thermalThreshold 2000], (match step { State.reset with pending := [c] } with
      | .next t => t.canonical && t.shape == partShape
      | _ => false) = true := by decide +kernel

theorem witness_WhatNoStepUndoes : (match step { State.reset with pending := [.timeTick] } with
    | .next t => t.time.ticks == 1
    | _ => false) = true := by decide +kernel

theorem witness_StoresReadBack : (F.tgLandGo 3).lo ≤ (F.tgLandGo 3).hi ∧ (F.tgLandGo 3).hi < 32 ∧ ¬((F.tgLandGo 3).addr = R.sstCmd) ∧
    State.reset.unknownAt 0x3FFFFFFF = none ∧ Memory.wf [(0, 1), (0x3FFFFFFF, 255)] = true ∧
    tableKey 3 1 0 1 5 ≠ tableKey 3 1 0 1 6 := by decide +kernel

theorem witness_AccessesTurnedAway : State.reset.answers (.fn 0) = false ∧
    (Instr.evtSoftRaise (.fn 0)).writes = some (.fn 0, R.evtSoft) ∧ (Instr.captureLoRead (.fn 0) 4).reads = some (.fn 0, R.timeCapLo 4) ∧
    linked.answers (.fn 0) = true ∧ (linked.put F.glbPowerStatusState 5).winterDrops (.fn 0) 0x10000 = true ∧
    (linked.put F.glbPowerStatusState 5).winterDrops (.fn 0) 0xFFFC = false ∧
    (linked.put (F.mstFreezeCauseFrozen 0x40) 1).frozen 0x40 = true ∧ recoveryAddr R.evtSoft = false ∧ recoveryAddr R.mstThaw = true ∧
    withVf.answers (.fn 1) = true ∧ withVf.writeViolates (.fn 1) R.evtSoft = true ∧ withVf.inPartition (.fn 1) R.evtSoft false = false := by
  decide +kernel

theorem witness_EventSources : implemented 0 = true ∧ implemented 767 = false ∧ State.reset.routed 0 = false ∧
    (let s := linked.puts [(F.evtEnableEn 0, 1), (F.evtRouteMsixEn 0, 1), (F.evtRouteVector 0, 5)];
      s.get (pendingField 0) = 0 ∧ s.routed 0 = true ∧ s.fnSends (vectorFn (s.get (F.evtRouteVector 0))) = true ∧
      s.maskedVec (s.get (F.evtRouteVector 0)) = true ∧ ({ s with host := { s.host with unmasked := [5] } }).maskedVec 5 = false) := by
  decide +kernel

theorem witness_RegisterWriteByAccessType : State.reset.accepts .purser R.rlfTemp = true ∧
    State.reset.keyOf R.rlfTemp = some R.rlfTemp ∧ (rowOf R.rlfTemp).isSome = true ∧
    State.reset.specialWrite R.rlfTemp 0xFFFFFFFF 0 = none := by decide +kernel

theorem witness_WritesWithRulesOfTheirOwn :
    (∀ k ∈ [R.timeIncrLo, R.sstCmd, R.holdRepairCmd, R.glbManifestReq, R.evtStatus 23, R.evtEnable 23, R.evtRoute 767, R.timeWinCtrl 3,
      R.pursmCmd 15, R.pursmArg 15 13], k % 4 = 0 ∧ State.reset.accepts .purser k = true ∧ State.reset.keyOf k = some k) ∧
    (at0 [(F.pursmStatusBusy 15, 1)]).get (F.pursmStatusBusy 15) = 1 ∧ State.reset.get (F.pursmStatusBusy 0) = 0 := by decide +kernel

theorem witness_RegisterReads :
    (∀ k ∈ [R.tgFrameIdLo 3, R.timeNsLo, R.rlfTemp], State.reset.readAllowed .purser k = true ∧ State.reset.keyOf k = some k) ∧
    ((rowOf R.rlfTemp).any fun r => BitVec.ofNat 32 r.masks.rc == 0) = true ∧
    ((rowOf R.holdEccCorr).any fun r => BitVec.ofNat 32 r.masks.rc != 0) = true := by decide +kernel

theorem witness_UnlistedOffsets : State.reset.keyOf 0x3FFFFFC = none ∧ State.reset.winterDrops .purser 0x3FFFFFC = false ∧
    State.reset.inPartition .purser 0x3FFFFFC true = true ∧ State.reset.frozen 1 = false ∧ withVf.keyOf 0x3FFFFFC = none ∧
    withVf.inPartition (.fn 1) 0x3FFFFFC true = false ∧ withVf.inPartition (.fn 1) 0x3FFFFFC false = false := by decide +kernel

theorem witness_MisalignedAccesses : ¬(4 = 4 ∧ (0x10001 : Nat) % 4 = 0) ∧ linked.answers (.fn 0) = true ∧
    linked.winterDrops (.fn 0) 0x10001 = false ∧ (linked.put F.glbPowerStatusState 5).winterDrops (.fn 0) 0x10001 = true := by decide +kernel

/-- Slot 0's registers written: 304 bytes at host address 32. -/
def slotAsked : State := { (linked.puts [(F.sstslotAddrLoAddr 0, 1), (F.sstslotLenBytes 0, 304)]) with
  written := [R.sstslotAddrLo 0, R.sstslotAddrHi 0, R.sstslotLen 0] }

theorem witness_SstSlotCommands : slotAsked.accepts .purser R.sstCmd = true ∧ slotAsked.get F.sstStatusBusy = 0 ∧
    slotAsked.slotSt 0 ≠ 4 ∧ slotAsked.slotSt 0 ≠ 5 ∧ slotAsked.fetchOk 0 = true ∧ (slotAsked.fnCfg 0).busMaster = true := by decide +kernel

/-- The example stream of the spec, its CRC word and its first word of front lanes as given. -/
def sampleWords (crc lanes : Word) : List Word := [0x53534E4C, 0x100, 0x4C, 1, 18, crc, 8, 0,
  0x000A0001, 0x100, 0x08700F00, 0x08CA1130, 0x3C, 1, 0x11940898, 0x12C00FA0, 0x5DC0, 0xEA60, 0x000C000A,
  0x00160002, 0x700, 0x01001001, 1, 0, 0x02001001, 2, 0, 0x03000001, 4, 0, 0x05000001, 8, 0, 0x06000001, 0x10, 0, 0x08000001, 0x20, 0,
  0x09000001, 0x40, 0] ++ [
  0x000A0003, 0x00200000, lanes, 0, 0, 0, 0, 0, 0, 0, 0, 0x00050004, 4, 0xC0041200, 0x63040412, 0x64040116, 0x010604F8,
  0x00070005, 2, 0x10030000, 0x1200, 0, 0x11030000, 0x0512, 0, 0x00020006, 0x0102, 0, 0x00010007, 0xF,
  0x00030008, 0x1000, 0x000186A0, 0x4E20]

/-- CRC-32C with its register a literal at each byte, as the kernel evaluates it well. -/
def crcBytes : List Byte → Nat → Nat
  | [], c => c
  | b :: l, 0 => crcBytes l (crcStep 0x82F63B78 8 (0 ^^^ b.toNat))
  | b :: l, c + 1 => crcBytes l (crcStep 0x82F63B78 8 ((c + 1) ^^^ b.toNat))

theorem crcBytes_eq (l : List Byte) : ∀ c, l.foldl (fun c b => crcStep 0x82F63B78 8 (c ^^^ b.toNat)) c = crcBytes l c := by
  induction l with
  | nil => intro c; cases c <;> rfl
  | cons b l ih => intro c; cases c <;> simp only [List.foldl_cons, crcBytes, ih]

theorem sample_crc (lanes crc : Word) (c : Nat) (h : crcBytes (bytesOfWords (sampleWords 0 lanes)) 0xFFFFFFFF = c) :
    streamCrc (sampleWords crc lanes) = c ^^^ 0xFFFFFFFF := by
  have w : (sampleWords crc lanes).set 5 0 = sampleWords 0 lanes := rfl
  rw [streamCrc, w, crc32c, crcBytes_eq, h]

/-- The example stream, its CRC filled in (R23). -/
def sampleStream : List Word := sampleWords 4091720061 3

theorem sampleStream_crc : streamCrc sampleStream = 4091720061 :=
  (sample_crc 3 _ 203247234 (by decide +kernel)).trans (by decide +kernel)

/-- The example stream loads. -/
theorem test_example_stream : State.reset.loadVerdict 304 sampleStream = none := by
  rw [State.loadVerdict, formVerdict, sampleStream_crc]
  decide +kernel

/-- Had it named lane 0 alone, it would be rejected with 0x11B at word 42. -/
theorem test_example_stream_lanes : State.reset.contentVerdict (sampleWords 0 1) = some (0x11B, 42) := by decide +kernel

/-- The example stream staged in slot 0. -/
def staged : State :=
  let s := at0 [(F.sstslotStateState 0, 2), (F.sstslotSeqSeq 0, 18), (F.sstslotTargetMask 0, 1)]
  { s with sst := { s.sst with slots := updAt s.sst.slots 0 fun _ => sampleStream } }

theorem witness_SstVerdicts : ({ State.reset with sst := { State.reset.sst with running := some ⟨1, 3, 13⟩ } }).sst.running = some ⟨1, 3, 13⟩ ∧
    State.reset.loadVerdict 304 [] = some (0x101, 0) := by decide +kernel

theorem witness_SstStoreAndApply : staged.accepts .purser R.sstCmd = true ∧ staged.get F.sstStatusBusy = 0 ∧ staged.slotSt 0 = 2 ∧
    4 * (staged.sst.slots.getD 0 []).length ≤ 65536 ∧ staged.cal.jobs = [] ∧ staged.nextSeq 0 ≤ 0xFFFFFFFE ∧ staged.applyPending = false ∧
    (staged.sstNoted 2 0 false).applyVerdict sampleStream = none ∧ staged.running 0 = false ∧ pw sampleStream 3 = 1 ∧
    (let s := { staged.put (F.tgStatusRun 0) 1 with sst := { staged.sst with clocks := 0x102 } };
      (s.sstNoted 2 0 false).applyVerdict sampleStream = none ∧ s.running 0 = true) := by decide +kernel

/-- The reset state with landed values. -/
def landed0 (s : State) (l : List (Field × Nat)) : State := l.foldl (fun t p => t.putAct p.1 p.2) s

/-- Output 0 with the OUTPUT and ROUTE records of the example stream, in a visible frame of a 3840 by 2160 source in a ring of two slots. -/
def showing : State :=
  let s := landed0 (ran [] fun o => { o with waiting := false, srcLanded := true, frameLines := 2250 })
    [(F.scnSlotCfgSlotCount 0, 2), (F.unpkSrcSizeSrcWidth 0, 3840), (F.unpkSrcSizeSrcHeight 0, 2160), (F.tgHrasterHActive 0, 3840),
      (F.tgVrasterVActive 0, 2160), (F.tgHrasterHTotal 0, 4400), (F.tgVrasterVTotal 0, 2250)]
  { s with sst := { s.sst with outs := updAt s.sst.outs 0 fun c => { c with
    output := (sampleStream.drop 9).take 10, route := (sampleStream.drop 20).take 22, lanemap := (sampleStream.drop 43).take 10 } } }

theorem witness_FrameSlotsAndLineGroups : showing.accepts .purser (R.scnSlotCtrl 0 0) = true ∧ showing.get (F.scnRgnStatusDepth 0) = 0 ∧
    showing.act (F.scnSlotCfgSlotCount 0) ≠ 1 ∧ showing.curSlot 0 = 0 ∧ (showing.put (F.scnRgnStatusDepth 0) 1).get (F.scnRgnStatusDepth 0) ≠ 0 ∧
    showing.groupDue 0 = true ∧ (showing.outp 0).srcLanded = true ∧
    ((showing.setOut 0 fun o => { o with srcLanded := false }).groupDue 0 = true) ∧ (showing.outp 0).stall = 0 ∧ (showing.setOut 0 fun o => { o with stall := 1 }).groupDue 0 = true ∧
    (showing.setOut 0 fun o => { o with pix := { o.pix with lastGroup := [zeroRow 3840] } }).groupDue 0 = true ∧ (zeroRow 3840).c2.length = 3840 ∧
    showing.chaseOn 0 = false ∧ (let c := landed0 showing [(F.scnSlotCfgChaseEn 0, 1), (F.scnSlotCfgSlotCount 0, 1)]; c.chaseOn 0 = true ∧ c.chaseMet 0 0 = false) := by
  decide +kernel

/-- The owner of banks 0 to 1 is scan-out engine 0. -/
def mine : State := showing.puts [(F.holdOwnerOwner 0, 0xC0), (F.holdOwnerOwner 1, 0xC0)]

/-- The same with a picture of one line of 32 pixels. -/
def small : State := landed0 mine [(F.unpkSrcSizeSrcWidth 0, 32), (F.unpkSrcSizeSrcHeight 0, 1), (F.unpkFormatDepth 0, 0), (F.tgHrasterHActive 0, 32), (F.tgVrasterVActive 0, 1)]

theorem witness_FrameSlotsAndLineGroups_read : small.groupDue 0 = true ∧
    (let runs := small.groupRuns 0 0 ++ small.neighbourRuns 0 0;
      runs ≠ [] ∧ small.runsHeld (scanMaster 0) (runs.map fun (r : Nat × Nat × Nat) => r.2) = false ∧
      (runs.all fun (r : Nat × Nat × Nat) => (small.firstBarred (scanMaster 0) r.2.1 r.2.2 false).isNone && (small.runFault r.2.1 r.2.2).isNone) = true ∧
      ({ small with hold := { small.hold with unready := List.range 16 } }).runsHeld (scanMaster 0) (runs.map fun (r : Nat × Nat × Nat) => r.2) = true) := by decide +kernel

/-- A picture that the engine may not read, one with an uncorrectable word, one whose history row the gate holds. -/
theorem witness_FrameSlotsAndLineGroups_faults :
    (let t := (small.put (F.holdOwnerOwner 0) 0x10).openPort ((small.put (F.holdOwnerOwner 0) 0x10).routeActs 0) noPort;
      (t.groupRuns 0 0 ++ t.neighbourRuns 0 0).findSome? (fun r => t.firstBarred (scanMaster 0) r.2.1 r.2.2 false) = some 0) ∧
    (let s := { small with hold := { small.hold with uncorr := [0] } };
      let t := s.openPort (s.routeActs 0) noPort;
      let runs := t.groupRuns 0 0 ++ t.neighbourRuns 0 0;
      runs.findSome? (fun r => t.firstBarred (scanMaster 0) r.2.1 r.2.2 false) = none ∧
      (runs.any fun q => ((t.readRuns (scanMaster 0) (runs.map (·.2))).1.runFault q.2.1 q.2.2).isSome) = true) ∧
    small.reachesHeld small 0 = false := by decide +kernel

def aRegion : Region := ⟨1, [0x400000, 0x400000, 0x400000], 32, 32, 0, 0, 32, 1⟩

theorem witness_RegionUpdates : small.accepts .purser (R.scnRgnCmd 0) = true ∧ small.pushResult 0 ≠ 0 ∧ small.pushResult 0 < 8 ∧
    (let p := { small.puts [(F.scnRgnSizeW 0, 32), (F.scnRgnSizeH 0, 1), (F.scnRgnStride0Bytes 0, 3), (F.scnRgnStride12Bytes 0, 3),
        (F.scnRgnSrcAddr 0 0, 0x20000), (F.scnRgnSrcAddr 0 1, 0x20000), (F.scnRgnSrcAddr 0 2, 0x20000)] with written := [R.scnRgnSrc 0 0, R.scnRgnSrc 0 1, R.scnRgnSrc 0 2, R.scnRgnStride0 0, R.scnRgnStride12 0, R.scnRgnPos 0, R.scnRgnSize 0] };
      p.pushResult 0 = 0) ∧
    small.frozen (scanMaster 0) = false ∧
    (let d := small.setOut 0 fun o => { o with region := { o.region with seeding := true, copying := some aRegion, merging := [aRegion] } };
      (d.outp 0).region.seeding = true ∧ (d.outp 0).region.copying = some aRegion ∧ (d.outp 0).region.merging = [] ++ [aRegion] ∧
      d.copyHeld 0 [aRegion] (fun r f p => r.stageRuns f p) (d.backSlot 0) = false ∧
      d.copyHeld 0 [wholeRegion (srcFormat d.act 0)] (fun r f p => d.slotRuns 0 (d.curSlot 0) r f p) (d.backSlot 0) = false ∧
      ({ d with hold := { d.hold with unready := List.range 16 } }).copyHeld 0 [aRegion] (fun r f p => r.stageRuns f p) (d.backSlot 0) = true ∧
      (let v := d.openPort (· == scanMaster 0) noPort;
        (v.copyStage 0 (v.backSlot 0) aRegion).frozen (scanMaster 0) = false ∧
        (v.copySlots 0 (v.curSlot 0) (v.backSlot 0) aRegion).frozen (scanMaster 0) = false)) := by
  decide +kernel

/-- Output 0 with SCAL, UNIF, WEAR and ODRV stages on reaches 0 to 3. -/
def withStages : State := { State.reset with sst := { State.reset.sst with outs := updAt State.reset.sst.outs 0 fun c =>
  { c with route := [0x500, 0x02001001, 1, 0, 0x05000001, 2, 0, 0x06000001, 4, 0, 0x07000001, 8, 0, 0x09000001, 0x10, 0] } } }

theorem witness_TablesAndPanelTemperature : withStages.tableAt 0x20022C = some (0, 2) ∧ withStages.accepts .purser 0x20022C = true ∧
    State.reset.get (tblIndexF 0 2) < tableSize 2 (State.reset.get (tblTableF 0 2)) ∧
    State.reset.get (tblBankF 0 2) = State.reset.activeBank 0 2 ∧ (at0 [(tblBankF 0 2, 1)]).get (tblBankF 0 2) ≠ (at0 [(tblBankF 0 2, 1)]).activeBank 0 2 ∧
    (let s := at0 [(tblIndexF 0 2, 262143)];
      tableSize 2 (s.get (tblTableF 0 2)) ≤ s.get (tblIndexF 0 2)) ∧
    withStages.readAllowed .purser 0x20022C = true ∧ withStages.keyOf 0x203720 = some (R.odrvPanelTemp 0) ∧
    State.reset.act (F.odrvCtrlTempSrc 0) = 0 ∧ (State.reset.putAct (F.odrvCtrlTempSrc 0) 1).act (F.odrvCtrlTempSrc 0) ≠ 0 := by decide +kernel

theorem witness_TemperatureTimer : (withStages.cfg 0).has 7 = true ∧ (withStages.cfg 0).has 6 = true ∧
    (withStages.put (F.odrvTempTimeoutMs 0) 1).get (F.odrvTempTimeoutMs 0) ≠ 0 ∧ withStages.get (F.odrvTempUsedStale 0) = 0 := by decide +kernel

theorem witness_MapChecksAndBaseLock : withStages.keyOf 0x201508 = some (mapAddrF 0 true).addr ∧ withStages.keyOf 0x201504 = some (mapAddrF 0 false).addr ∧
    withStages.accepts .purser 0x20150C = true ∧ withStages.keyOf 0x20150C = some (R.unifCheck 0) ∧ withStages.keyOf 0x201518 = some (R.unifBaseLock 0) ∧
    (let s := (at0 [(F.unifBaseStatusValid 0, 1)]).setLanded (R.unifBaseAddr 0);
      s.get (F.unifBaseLockState 0) = 0 ∧ s.get (F.unifBaseStatusValid 0) = 1 ∧ s.hasLanded (R.unifBaseAddr 0) = true ∧
      s.act (F.unifBaseAddrAddr 0) = s.get (F.unifBaseAddrAddr 0)) ∧
    State.reset.get (mapBusyF 0 true) ≠ 1 ∧ (at0 [(mapBusyF 0 true, 1)]).get (mapBusyF 0 true) = 1 ∧
    (at0 [(F.unifBaseLockState 0, 1)]).get (F.unifBaseLockState 0) = 1 := by decide +kernel

/-- WEAR of output 0 with one ledger row of 32 columns in each state, through channel 0 held by it. -/
def ledger (f : WearState → WearState) : State :=
  let s := landed0 withStages [(F.tgHrasterHActive 0, 32), (F.tgVrasterVActive 0, 32), (F.wearCtrlGenEn 0, 1)]
  let t := { s.puts [(F.dmaStatusHeld 0, 1), (F.dmaWinLimitHiAddr 0, 1)] with
    host := linked.host, written := [R.wearLedgerLo 0, R.wearLedgerHi 0, R.wearLedgerStride 0, R.wearMapBase 0, R.wearMapBytes 0] }
  t.setOut 0 fun o => { o with wear := f { o.wear with rowsLeft := [0], base := some 0 }, pix := { o.pix with drive := [zeroRow 32] } }

def oldRow : List Byte := List.replicate ((ledger id).ledgerBytes 0) 0

theorem witness_WearLedgerRows :
    (let s := ledger fun w => { w with ready := [(0, oldRow)] };
      let o := s.outp 0;
      0 ∈ o.wear.rowsLeft ∧ 0 < o.pix.drive.length ∧ o.stall < 6 ∧ o.wear.ready.find? (·.1 == 0) = some (0, oldRow) ∧
      (let r := s.ledgerAdd 0 oldRow (o.pix.drive.getD 0 (zeroRow 0)) false;
        s.get (F.dmaStatusHeld (s.wearCh 0)) = 1 ∧ s.chanStopped (s.wearCh 0) = false ∧
        s.outsideWindow (s.wearCh 0) (s.ledgerRow 0 0) r.1.length = none ∧ s.chanMay (s.wearCh 0) = true)) ∧
    ((ledger id).outp 0).wear.ready.find? (·.1 == 0) = none ∧ ((ledger id).outp 0).wear.reading = [] ∧
    6 ≤ (((ledger id).setOut 0 fun o => { o with stall := 6 }).outp 0).stall ∧
    (∀ gen ∈ [false, true], let s := ledger fun w => { w with reading := [⟨0, gen, oldRow.length, 1, []⟩] };
      (s.outp 0).wear.reading.find? (fun r => r.row == 0 && r.gen == gen) = some ⟨0, gen, oldRow.length, 1, []⟩ ∧
      oldRow.length ≤ s.ledgerBytes 0 ∧ replyCode false .ok = 0 ∧ replyCode false .completer ≠ 0 ∧
      ((linkPieces (s.readMost (s.chanFn (s.wearCh 0))) (s.ledgerBytes 0) (s.ledgerRow 0 0) (s.ledgerBytes 0)).headD (0, 0)).2 = oldRow.length) ∧
    (let s := ledger fun w => { w with writing := [(0, true)], wanted := [0] };
      (0, true) ∈ (s.outp 0).wear.writing ∧ 0 ∈ (s.outp 0).wear.wanted) := by decide +kernel

theorem witness_WearGenerator : ((ledger id).cfg 0).has 6 = true ∧ (ledger id).actOn (F.wearCtrlGenEn 0) = true ∧ (ledger id).wearReady 0 = true ∧
    ((ledger id).wearOf 0).base ≠ none ∧ (ledger id).get (F.dmaStatusHeld 0) = 1 ∧ (ledger id).chanStopped 0 = false ∧
    (ledger id).get (F.wearStatusHalted 0) ≠ 1 ∧ (ledger id).slackStops 0 = false ∧
    (ledger id).get (F.wearGenStatusNextGroup 0) < (ledger id).wearGroups 0 ∧ (ledger id).genMissing 0 0 = List.range 16 ∧
    (ledger fun w => { w with reading := (List.range 16).map fun y => ⟨y, true, 0, 0, []⟩ }).genMissing 0 0 = [] ∧
    (let s := ledger fun w => { w with genRows := (List.range 16).map fun y => (y, oldRow) };
      s.genMissing 0 0 = [] ∧ (s.wearOf 0).genRows ≠ [] ∧ (s.wearOf 0).reading = []) ∧
    (let j : EddyInternal := ⟨0, 1, 32, []⟩;
      let s := (ledger id).puts [(F.eddyStatusInternal 0, 1)];
      let t := s.setEddy 0 fun x => { x with internal := [j] };
      (t.eddy 0).internal = [j] ∧ t.get (F.eddyStatusInternal 0) = 1 ∧ t.frozen (eddyMaster 0) = false ∧ j.group + 1 = t.wearGroups 0 ∧
      (t.wearOf 0).base = some 0 ∧ t.runHeld (t.wearMaster 0) 0 (32 * t.act (F.wearMapBytesBytes 0)) = false ∧
      (let u := t.putAct (F.wearMapBytesBytes 0) 1;
        ({ u with hold := { u.hold with unready := [0] } }).runHeld (u.wearMaster 0) 0 (32 * u.act (F.wearMapBytesBytes 0)) = true)) := by
  decide +kernel

/-- A raw pixel job of 4 samples of 8 bits in bank 0, whose owner is engine 0. -/
def aJob : EddyJob := ⟨true, true, false, true, true, 0, 4, 1, 0, 4, 0x100, 32, 0, [], none⟩

def engine (st : Nat) (j : Option EddyJob) : State :=
  (at0 [(F.eddyStatusState 0, st), (F.holdOwnerOwner 0, 8)]).setEddy 0 fun x => { x with job := j }

theorem witness_EddyCommands : State.reset.accepts .purser (R.eddyCmd 3) = true ∧ State.reset.eddySt 0 = 0 ∧
    State.reset.eddyInvalid 0 (State.reset.eddyAsked 0) = true ∧
    (let s := { (at0 [(F.holdOwnerOwner 0, 8), (F.eddyInLenBytes 0, 4), (F.eddyOutLenBytes 0, 32), (F.eddyGeomWidth 0, 4), (F.eddyGeomRows 0, 1),
        (F.eddyCfgDir 0, 1), (F.eddyCfgRawIn 0, 1)]) with written := [R.eddyInAddr 0, R.eddyInLen 0, R.eddyOutAddr 0, R.eddyOutLen 0, R.eddyGeom 0, R.eddyCtxAddr 0] };
      s.eddyInvalid 0 (s.eddyAsked 0) = false ∧ s.isWritten (R.eddyCtxAddr 0) = true) ∧
    State.reset.isWritten (R.eddyCtxAddr 0) = false ∧ (engine 3 none).eddySt 0 = 3 ∧ (engine 2 (some aJob)).eddySt 0 = 2 ∧ ((engine 2 (some aJob)).eddy 0).job = some aJob ∧
    (engine 1 (some aJob)).eddyRuns 0 = some aJob ∧ ((engine 1 (some aJob)).setEddy 0 fun x => { x with waits := some 1 }).eddyRuns 0 = none := by decide +kernel

theorem witness_EddyEnds :
    (match (engine 1 (some aJob)).eddyOutcome 0 aJob with
      | .done .. => true
      | _ => false) = true ∧
    (match (engine 1 (some aJob)).eddyOutcome 0 { aJob with pixel := false, outLen := 0 } with
      | .full .. => true
      | _ => false) = true ∧
    (match (engine 1 (some aJob)).eddyOutcome 0 { aJob with rawIn := false, inLen := 1 } with
      | .err .. => true
      | _ => false) = true ∧
    (match ({ engine 1 (some aJob) with hold := { HoldState.reset with uncorr := [0] } }).eddyOutcome 0 aJob with
      | .fault .. => true
      | _ => false) = true ∧
    (engine 1 (some aJob)).frozen (eddyMaster 0) = false ∧
    (let s := (engine 4 none).setEddy 0 fun x => { x with ctxCmd := some (4, 0) };
      s.runHeld (eddyMaster 0) (32 * s.get (F.eddyCtxAddrAddr 0)) 98304 = false ∧ (s.eddy 0).ctxCmd = some (4, 0)) := by decide +kernel

theorem witness_EddyEnds_port :
    (let s := engine 1 (some aJob);
      s.eddyRuns 0 = some aJob ∧
      (match ((s.openPort (· == eddyMaster 0) noPort).eddyRead 0 aJob) with
        | (.done out .., v) => !(v.storeAs 8 aJob.outAddr out).frozen 8
        | _ => false) = true ∧
      (match (((s.put (F.holdOwnerOwner 0) 9).openPort (· == eddyMaster 0) noPort).eddyRead 0 aJob).1 with
        | .barred x => x == 0
        | _ => false) = true ∧
      (let t := { s with sst := { s.sst with rights := [[0x08010000, 0x100, 0]] } };
        match (((t.put (F.holdOwnerOwner 0) 9).openPort (· == eddyMaster 0) noPort).eddyRead 0 aJob) with
        | (.done out .., v) => (v.storeAs 8 aJob.outAddr out).frozen 8
        | _ => false) = true) ∧
    (engine 0 none).eddyRuns 0 = none ∧
    (let s := (engine 4 none).setEddy 0 fun x => { x with ctxCmd := some (5, 0) };
      let t := s.openPort (· == eddyMaster 0) noPort;
      (t.eddy 0).ctxCmd = some (5, 0) ∧ t.firstBarred (eddyMaster 0) 0 98304 false = none ∧ t.runFault 0 98304 = none) := by decide +kernel

theorem witness_OutputStartStop : State.reset.accepts .purser (R.tgCtrl 0) = true ∧ showing.mayEnable 0 = true ∧ State.reset.mayEnable 0 = false ∧
    showing.running 0 = true ∧ (showing.put (F.tgStatusRun 0) 0).running 0 = false ∧ (showing.outp 0).waiting = false ∧
    ((ran [] fun o => { o with waiting := true }).outp 0).waiting = true ∧
    (let s := ran [] fun o => { o with waiting := false, stopping := true, line := 2250, frameLines := 2250 };
      (s.outp 0).line = (s.outp 0).frameLines ∧ (s.outp 0).stopping = true ∧ (s.outp 0).cut = false) := by decide +kernel

theorem witness_Landings : State.reset.accepts .purser (R.tgLand 3) = true ∧ showing.running 0 = true ∧ State.reset.running 0 = false ∧
    (let s := showing.setOut 0 fun o => { o with landLine := 2200, line := 2201 };
      (s.outp 0).waiting = false ∧ (s.outp 0).kind = 0 ∧ (s.outp 0).landed = false ∧ (s.outp 0).line = (s.outp 0).landLine + 1 ∧
      (s.outp 0).cut = false ∧ (s.outp 0).routeHeld = false) := by decide +kernel

theorem witness_FramesAndLines :
    (let s := showing.setOut 0 fun o => { o with waiting := true };
      s.act (F.tgCtrlPace 0) = 0 ∧ s.edgeDue 0 50000000 = true ∧ s.edgeDue 0 50004000 = true ∧ s.edgeDue 0 49999999 = false ∧
      s.edgeDue 0 50004001 = false) ∧
    (let s := (showing.putAct (F.tgRateNumNum 0) 60).setOut 0 fun o => { o with
        line := 2250, rate := (60, 1), timing := { o.timing with vTotal := 2250, hTotal := 4400 } };
      s.edgeDue 0 16666666667 = true ∧ s.edgeDue 0 16666668667 = false) ∧
    (showing.outp 0).line < (showing.outp 0).frameLines ∧ showing.lineReady 0 0 = true ∧
    (showing.setOut 0 fun o => { o with kind := 1 }).running 0 = true := by decide +kernel

theorem witness_Genlock : State.reset.inWinter = false ∧ State.reset.power.off = false ∧
    (let s := ran [(F.tgLockStatusState 0, 2)] fun o => { o with sync := { o.sync with periodKnown := true, predicted := 1000 } };
      (s.outp 0).sync.periodKnown = true ∧ s.get (F.tgLockStatusState 0) = 2 ∧ (s.outp 0).sync.predicted + s.refWindow 0 ≤ 100000000000) ∧
    (let s := ran [(F.timeStatusDegraded, 0)] fun o => { o with timing := { o.timing with pace := 2 } };
      s.paceOf 0 = 2 ∧ s.timeUsable = true ∧ (s.put F.timeStatusDegraded 1).timeUsable = false ∧ s.get (F.tgLockStatusState 0) ≠ 3) ∧
    (let s := (ran [] fun o => { o with timing := { o.timing with pace := 3 }, landed := true, line := 10, frameLines := 10 }).putAct (F.tgTeCfgTimeout 0) 1;
      s.paceOf 0 = 3 ∧ (s.outp 0).landed = true ∧ (s.outp 0).sync.scheduled = none ∧ (s.teDeadline 0).isSome = true ∧ s.frameReady 0 = true ∧
      s.actOn (F.tgPolarityTeEdge 0) = false) := by decide +kernel

theorem witness_PowerFailDischarge : State.reset.power.off = false ∧
    (let s := State.reset.setPower fun p => { p with pfailLow := true };
      s.power.pfailLow = true ∧ s.power.pfail = false ∧ s.powerState = 0 ∧ (s.put F.glbPowerStatusState 4).powerState = 4 ∧
      (s.put F.glbPowerStatusState 5).powerState = 5) ∧
    (State.reset.setPower fun p => { p with halted := true, pfail := true }).power.halted = true ∧
    (let s := ran [(F.scnDchgStatusState 0, 1)] fun o => { o with cut := true, dchgRan := true };
      (s.outp 0).cut = true ∧ s.get (F.scnDchgStatusState 0) = 1 ∧ (s.put (F.scnDchgStatusState 0) 2).get (F.scnDchgStatusState 0) = 2 ∧
      (s.put (F.scnDchgStatusState 0) 3).get (F.scnDchgStatusState 0) = 3) := by decide +kernel

theorem witness_LaneService : (at0 [(F.plnStatusState 95, 1)]).laneSt 95 = 1 ∧ (at0 [(F.plnStatusState 95, 2)]).laneSt 95 = 2 ∧
    (at0 [(F.plnStatusState 95, 4)]).laneSt 95 = 4 ∧ State.reset.accepts .purser (R.plnCtrl 95) = true ∧
    (ran [(F.plnRoleRole 0, 1)] id).inService 0 = true ∧ State.reset.inService 0 = false ∧ State.reset.get (F.plnCtrlTxOff 0) = 0 ∧
    (at0 [(F.plnCtrlTxOff 0, 1)]).get (F.plnCtrlTxOff 0) = 1 := by decide +kernel

theorem witness_SidebandExchange : (let s := at0 [(F.plgSbCtrlSbEn (laneGroup 95), 1), (F.plnStatusState 95, 3)];
      s.get (F.plgSbCtrlSbEn (laneGroup 95)) = 1 ∧ s.laneSt 95 = 3 ∧ s.sidebands[laneGroup 95]? = some ⟨none, none, []⟩) ∧
    laneGroup 95 = 3 ∧ (5 : BitVec 4).getLsbD 3 = false ∧ (8 : BitVec 4).getLsbD 3 = true ∧
    (let f : SbFrame := ⟨0, 1, []⟩;
      let r : List Byte := [0x80, 0x81, 0];
      let r := r ++ leBytes 2 (crc16 r);
      f.answeredBy r = true ∧ f.answeredBy (r.take 4) = false ∧ f.answeredBy (0x81 :: r.drop 1) = false) := by decide +kernel

theorem witness_LaneCalibration : State.reset.accepts .purser (R.plnCalCmd 95) = true ∧ (at0 [(F.plnFfeForceForce 0, 1)]).forced 0 = true ∧
    State.reset.forced 0 = false ∧ State.reset.calMode 0 ≠ 2 ∧ (at0 [(F.ploCalCtrlMode 0, 3)]).calMode 0 = 2 ∧
    (at0 [(F.plnStatusState 0, 3)]).laneUp 0 = true ∧ (State.reset.lane 0).cal = none ∧
    (let c := { State.reset.newCal 0 true with phase := 3, sparse := true };
      c.phase = 3 ∧ histCode c c.hist ≠ 0) ∧
    (⟨0, 0, 0⟩ : Taps).ok = true ∧ (⟨127, 127, 127⟩ : Taps).ok = false ∧
    256 * State.reset.get (F.ploCalCtrlTdMin 0) < 65536 ∧ (0 : Nat) ≤ 256 * State.reset.get (F.ploCalCtrlTdMin 0) := by decide +kernel

theorem witness_ChainReceivers : State.reset.chain.dfe.length = 15 ∧ State.reset.accepts .purser (R.chnrxForce 2 4) = true ∧
    (let s := at0 [(F.chnrxStatusAdapting 2 4, 1), (F.chnpStatusState 2, 2)];
      s.get (F.chnrxStatusAdapting 2 4) = 1 ∧ s.portSt 2 ≠ 0 ∧ s.get (F.chnrxStatusLastCode 2 4) ≠ 0x524) ∧
    (at0 [(F.chnrxStatusLastCode 2 4, 0x524)]).get (F.chnrxStatusLastCode 2 4) = 0x524 ∧ 65536 < (257 : BitVec 17).toNat * 256 ∧
    ¬ 65536 < (256 : BitVec 17).toNat * 256 := by decide +kernel

theorem witness_AgingSwapsAndTemperature :
    (let p : PendingSwap := ⟨0, 95, 0, 0, 0, none, 1, false⟩;
      let s := at0 [(F.plnStatusState 95, 1)];
      let s := { s with relief := { s.relief with waiting := [p] } };
      s.laneSwap 95 = some p ∧ s.laneSt 95 = 1 ∧ s.laneUp 95 = false ∧ s.laneSwap 94 = none) ∧
    (let p : PendingSwap := ⟨1, chainUnit 2 3, 0, 0, 0, none, 0, false⟩;
      [p].find? (fun x => x.kind == 1 && x.unit == chainUnit 2 3) = some p) ∧
    (served [] id).inWinter = false ∧ (served [] id).purser.serving = true ∧ (State.reset.get F.rlfAgeSwap : Int) ≤ (32767 : BitVec 16).toInt ∧
    (32768 : BitVec 16).toInt < State.reset.get F.rlfAgeSwap ∧ (State.reset.get F.rlfAgeWarn : Int) ≤ (32767 : BitVec 16).toInt ∧
    0 ∉ State.reset.relief.warned := by decide +kernel

/-- Banks 0 and 1 of channel 0 and of PF0. -/
def owned : State := at0 [(F.holdOwnerOwner 0, 0x10), (F.holdOwnerOwner 1, 0x40)]

theorem witness_HoldAccessAtGate : owned.inWinter = false ∧ owned.power.off = false ∧ owned.power.fabricOff = false ∧
    (let a := { anAccess with addr := 0 };
      owned.gateHolds a = false ∧ owned.mayHold 0x10 0 false = true ∧ owned.frozen 0x10 = false ∧ owned.mayHold 0x10 1 false = false ∧
      (owned.put (F.mstFreezeCauseFrozen 0x10) 1).frozen 0x10 = true ∧
      ({ owned with hold := { owned.hold with unready := [0] } }).gateHolds a = true ∧ wordOf a.addr.toNat ∉ owned.hold.uncorr ∧
      0 ∈ ({ owned with hold := { owned.hold with uncorr := [0] } }).hold.uncorr) ∧
    (let p : Peer := ⟨{ anAccess with addr := 0, master := 0xC0 }, 0, 0, false⟩;
      let q : Peer := ⟨{ anAccess with addr := 32, master := 0x60 }, 0, 0, false⟩;
      let s := { owned with sst := { owned.sst with rights := [[0xC0010000, 1, 0], [0x60010000, 1, 0]] } };
      portA 0xC0 = portA 0x60 ∧ s.portTurn p < s.portTurn q) := by decide +kernel

theorem witness_HoldCollisions : ∀ wx ∈ [false, true], ∀ wy ∈ [false, true], (wx || wy) = true → ∀ bad ∈ [[], [0]],
    let s := { owned.put (F.holdOwnerOwner 0) 0xC0 with
      sst := { owned.sst with rights := [[0x10030000, 0x100, 0]] }, hold := { owned.hold with uncorr := bad } };
    let x : Peer := ⟨{ anAccess with addr := 0, master := 0xC0, write := wx }, 5, 0, false⟩;
    let y : Peer := ⟨{ anAccess with addr := 0, write := wy }, 5, 0, false⟩;
    portA 0xC0 = true ∧ portA 0x10 = false ∧ collides x.acc y.acc = true ∧ s.hold.window = none ∧ s.inWinter = false ∧ s.power.off = false ∧
      s.power.fabricOff = false ∧ ¬ (0x40 ≤ x.acc.master.toNat ∧ x.acc.master.toNat < 0x60) ∧ ¬ (0x40 ≤ y.acc.master.toNat ∧ y.acc.master.toNat < 0x60) ∧
      ∀ p ∈ [x, y], s.gateHolds p.acc = false ∧ s.mayHold p.acc.master.toNat (bankOf p.acc.addr.toNat) p.acc.write = true ∧
        s.frozen p.acc.master.toNat = false ∧ p.stalled = false := by decide +kernel

theorem witness_Ferries : State.reset.accepts .purser (R.holdFerry 255) = true ∧ privileged .purser = true ∧ privileged (.fn 1) = false ∧
    withVf.owner 0 ≠ masterOf (.fn 1) ∧ ownerOk 0x10 = true ∧ ownerOk 0xFF = false ∧ State.reset.get (F.holdFerryPending 0) = 0 ∧
    (at0 [(F.holdFerryPending 0, 1)]).get (F.holdFerryPending 0) = 1 ∧ State.reset.owner 0 ≠ 0x10 ∧
    (let s := { State.reset with hold := { HoldState.reset with ferries := [⟨0, 2, 0x10⟩] } };
      s.hold.ferries.find? (·.bank == 0) = some ⟨0, 2, 0x10⟩ ∧ (∀ ch < 32, s.dmaAt ch 0 = false)) := by decide +kernel

/-- Channel 0 RUNNING, with a change of its own state. -/
def channel0 (f : DmaState → DmaState) : State := (at0 [(F.dmaStatusState 0, 1)]).setChan 0 f

theorem witness_MarchTests : State.reset.accepts .purser R.holdMarchCtrl = true ∧
    (let s := at0 [(F.holdMarchRangeCount, 1), (F.holdMarchRangeFirst, 255)];
      s.get F.holdMarchStatusBusy = 0 ∧ s.get F.holdMarchRangeFirst + s.get F.holdMarchRangeCount ≤ 256 ∧ s.owner 255 ≠ 2 ∧
      (s.put (F.holdOwnerOwner 255) 2).owner 255 = 2 ∧ (s.put (F.holdOwnerLocked 255) 1).get (F.holdOwnerLocked 255) = 1 ∧ s.get (F.holdOwnerLocked 255) ≠ 1 ∧ (s.put (F.holdOwnerNoBorrow 255) 1).get (F.holdOwnerNoBorrow 255) = 1 ∧ s.hold.window = none) ∧
    (at0 [(F.holdMarchStatusBusy, 1)]).get F.holdMarchStatusBusy = 1 ∧
    (let s := at0 [(F.holdMarchBkgEn, 1)];
      s.get F.holdMarchBkgEn = 1 ∧ s.hold.test = none ∧ s.hold.window = none ∧ s.hold.yieldsInRow < 8 ∧
      s.get (F.holdOwnerNoBorrow (s.get F.holdMarchPosBank)) = 0 ∧ ((s.put (F.holdOwnerNoBorrow 0) 1).openBank 256).isSome = true) ∧
    (let s := { State.reset with hold := { HoldState.reset with window := some 0, held := [⟨⟨{ anAccess with addr := 0 }, 0, 0, false⟩, 0⟩] } };
      s.windowHolds 0x10 0 32 = true ∧ s.windowWaited = true ∧ s.hold.test = none) ∧
    ({ State.reset with hold := { HoldState.reset with window := some 0 } }).windowWaited = false ∧
    (let s := { channel0 fun c => { c with fetch := some (0, true) } with hold := { HoldState.reset with window := some 0 } };
      (0, 64) ∈ s.dmaRuns 0 ∧ s.windowHolds 0x10 0 64 = true ∧ s.windowWaited = true) ∧
    (let m : MarchTest := ⟨true, false, false, 0, 1, 2048, 0⟩;
      m.last ≤ m.at_ ∧ m.fails [] = [] ∧ m.fails [{ aFail 0 with element := 2, read := 1 }] ≠ [] ∧ ({ m with at_ := 0 }).at_ < m.last) ∧
    orderFails false false false [{ aFail 0 with element := 2, read := 1 }] ≠ [] := by decide +kernel

theorem witness_Repairs : State.reset.accepts .purser R.holdRepairCmd = true ∧ State.reset.hold.repair = none ∧
    (at0 [(F.holdOwnerRowsUsed 255, 16)]).get (F.holdOwnerRowsUsed 255) = 16 ∧ State.reset.get F.holdRepairStatusBanksFree ≠ 0 ∧
    (at0 [(F.holdRepairStatusBanksFree, 0)]).get F.holdRepairStatusBanksFree = 0 ∧ State.reset.get (F.holdOwnerRowsUsed 255) < 16 ∧
    (∀ r ∈ [Repair.row 255 1023, .bank 255], ({ State.reset with hold := { HoldState.reset with repair := some r } }).hold.repair = some r) := by
  decide +kernel

theorem witness_DmaCommands : State.reset.accepts .purser (R.dmaCtrl 31) = true ∧ (2 : Word).getLsbD 1 = true ∧ (4 : Word).getLsbD 2 = true ∧
    State.reset.frozen 0x10 = false ∧ State.reset.get (F.dmaStatusHeld 0) = 0 ∧ State.reset.get (F.dmaStatusState 0) = 0 ∧
    ({ State.reset with written := [R.dmaDescLo 0, R.dmaDescHi 0] }).isWritten (R.dmaDescHi 0) = true ∧
    (channel0 fun c => { c with fetching := true }).get (F.dmaStatusState 0) = 1 ∧ ((channel0 fun c => { c with fetching := true }).chan 0).xfer = none ∧
    (at0 [(F.dmaStatusState 0, 3)]).get (F.dmaStatusState 0) = 3 ∧ (at0 [(F.dmaStatusHeld 0, 1)]).get (F.dmaStatusHeld 0) = 1 := by decide +kernel

theorem witness_DmaAnswers :
    (let c := (channel0 fun c => { c with fetch := some (64, false), fetching := true }).chan 0;
      c.lost = [] ∧ c.fetch = some (64, false) ∧ c.fetching = true) ∧
    (let c := (channel0 fun c => { c with fetch := some (0, true), fetching := true, lost := [true, false], orphans := 1 }).chan 0;
      c.lost = true :: [false] ∧ 0 < c.orphans ∧ c.lost.countP (!·) = 1) ∧
    State.reset.runFault 0 64 = none ∧ ({ State.reset with hold := { HoldState.reset with uncorr := [32] } }).runFault 0 64 = some 32 ∧
    State.reset.firstBarred 0x10 0 12 true ≠ none ∧ owned.firstBarred 0x10 0 12 true = none := by decide +kernel

/-- A descriptor of 64 bytes from the host or the Hold to the Hold, with one chunk in the phase given. -/
def xferAt (hold : Bool) (phase : Nat) : DmaXfer :=
  ⟨leBytes 4 (if hold then 0x18 else 0x10) ++ List.replicate 60 0, true, true, 64, 0, [⟨0, 64, phase, List.replicate 64 0⟩], [], 0, 0, 0, 0, 0, 0⟩

theorem witness_DmaAnswers_chunks :
    (xferAt true 0).srcHold = true ∧ (xferAt false 0).srcHold = false ∧
    (∀ ph ∈ [0, 2], ((xferAt false ph).inPhase ph)[0]? = some 0 ∧ ((xferAt false ph).chunks[0]?).isSome = true) ∧
    (xferAt false 2).phase ≠ 2 ∧ ({ xferAt false 2 with phase := 2 }).phase = 2 ∧ ({ xferAt true 3 with half := 1 }).half = 1 ∧
    ({ xferAt true 3 with phase := 1 }).half ≠ 1 ∧ ({ xferAt true 3 with phase := 1 }).phase = 1 ∧
    (match ((owned.openPort (· == 0x10) noPort).readWhole 0x10 0 64).1 with
      | .ok b => b.length == 64
      | .error _ => false) = true ∧
    (match ((({ owned with hold := { owned.hold with uncorr := [32] } }).openPort (· == 0x10) noPort).readWhole 0x10 0 64).1 with
      | .ok _ => false
      | .error w => w == 32) = true ∧
    (owned.openPort (· == 0x10) noPort).firstBarred 0x10 0 64 true = none ∧ (owned.openPort (· == 0x10) noPort).firstBarred 0x10 0x400000 64 true ≠ none ∧
    (channel0 fun c => { c with xfer := some (xferAt false 0) }).chanStopped 0 = false ∧
    ((channel0 fun c => { c with xfer := some (xferAt false 0) }).put (F.mstFreezeCauseFrozen 0x10) 1).chanStopped 0 = true ∧
    ((ledger fun w => { w with reading := [⟨0, true, 64, 1, []⟩] }).ledgerOut 0)[0]? = some (0, 0, some true) := by decide +kernel

theorem witness_ChainPortsAndBoarding : State.reset.portSt 0 = 0 ∧ (at0 [(F.chnpStatusState 2, 2)]).portSt 2 = 2 ∧
    (at0 [(F.chnpStatusState 2, 3)]).portSt 2 = 3 ∧ State.reset.accepts .purser R.chnBoard = true ∧
    (at0 [(F.chnBoardStatusBusy, 1)]).get F.chnBoardStatusBusy = 1 ∧ State.reset.accepts .purser R.chnRing = true ∧
    (let s := at0 [(F.chnpStatusState 1, 3)];
      let s := { s with chain := { s.chain with broken := [1], data := [⟨5, 1, 2, 0⟩] }, time := { s.time with ticks := 250000000 } };
      s.chain.broken.find? (fun p => s.portSt p == 3) = some 1 ∧ s.dataView 5 = some ⟨5, 1, 2, 0⟩ ∧ 0 + 250000000 ≤ s.time.ticks) := by
  decide +kernel

theorem witness_ChainSubRounds : State.reset.chain.ports.length = 3 ∧
    (let s := at0 [(F.chnpStatusState 0, 2)];
      s.portSt 0 = 2 ∧ (s.chain.ports.all fun x => !x.rxOk) = true) ∧
    flitGood idleFlit = true ∧ flitType idleFlit = 0 ∧ flitGood (0xFF :: idleFlit.drop 1) = false ∧
    flitGood (shortFlit 10 0 0xFFFF 1 0 []) = true ∧ flitType (shortFlit 10 0 0xFFFF 1 0 []) = 10 := by decide +kernel

theorem witness_RemoteAccessAndSensors :
    (let s := at0 [(F.chnRaDstDst, 7)];
      let s := { s with sst := { s.sst with rights := [[0x01230000, 7, 0xFFFF0001]] }, chain := { s.chain with data := [⟨7, 0, 1, 0⟩] } };
      s.accepts .purser R.chnRaCmd = true ∧ s.inChainRange 1 7 true = true ∧ s.inChainRange 1 7 false = true ∧ s.routeTo 7 = some 0 ∧
      s.mayChain 1 0 7 true = true ∧ ({ s with sst := { s.sst with rights := [[0x01230000, 0, 0xFFFF0001]] } }).mayChain 1 0 7 true = false ∧
      s.streamPorts 7 ≠ []) ∧
    State.reset.inChainRange 1 7 true = false ∧ State.reset.routeTo 7 = none ∧ State.reset.streamPorts 7 = [] ∧
    (at0 [(F.chnRaStatusBusy, 1)]).get F.chnRaStatusBusy = 1 := by decide +kernel

theorem witness_TimeTicksAndCorrections : State.reset.power.off = false ∧ State.reset.anyChanBusy = false ∧ State.reset.time.now % secUnit < 5 * nsUnit ∧
    ¬ (State.reset.setTime fun x => { x with now := 5 * nsUnit }).time.now % secUnit < 5 * nsUnit ∧
    (State.reset.setTime fun x => { x with step := some (-1) }).time.step = some (-1) ∧
    State.reset.jumpLimit < (-(2 : Int) ^ 95).natAbs ∧ (0 : Int).natAbs ≤ State.reset.jumpLimit ∧ State.reset.timeRole ≠ 2 ∧
    State.reset.accepts .purser R.timeIncrHi = true ∧ State.reset.accepts .purser R.timeSlew = true ∧ State.reset.accepts .purser R.timeStepHi = true ∧
    (at0 [(F.timeStatusDisciplined, 1)]).get F.timeStatusDisciplined = 1 := by decide +kernel

theorem witness_TimeTicks_quiet : State.reset.hold.test = none ∧ State.reset.chain.remote = [] ∧
    (∀ n < 4, State.reset.txWaits n = false ∧ State.reset.rxWaits n = false) ∧ State.reset.power.fabricOff = false ∧
    (at0 [(F.glbPowerStatusState, 5)]).inWinter = true := by decide +kernel

theorem witness_TimeDiscipline :
    (let s := at0 [(F.timeStatusDisciplined, 1)];
      let s := { s with sst := { s.sst with timerole := [0x1100, 0x186A0, 0x4E20] } };
      s.intervalSize ≠ 0 ∧ s.intervalSize ≤ (List.replicate s.intervalSize (0 : Int)).length ∧ s.timeRole < 2 ∧
      s.get F.timeStatusHoldover = 0) ∧
    (State.reset.setTime fun x => { x with ptmOpen := true, ptmFails := 2 }).time.ptmOpen = true ∧
    bits ({ State.reset.sst with clocks := 0x102 }).clocks.toNat 1 0 ≠ 0 := by decide +kernel

theorem witness_TimeDiscipline_ptm :
    (let s := at0 [(F.timePtmCtrlEn, 1)];
      let s := { s with sst := { s.sst with timerole := [0x0101, 0x186A0, 0x4E20] } };
      s.timeRole < 2 ∧ s.timeSource = 1 ∧ s.get F.timePtmCtrlEn = 1 ∧ s.time.ptmOpen = false ∧ s.inWinter = false ∧ s.host.linkUp = false ∧
      ({ s with host := linked.host }).host.linkUp = true) ∧
    State.reset.time.holdRoute = false ∧ (State.reset.setTime fun x => { x with holdRoute := true }).time.holdRoute = true ∧
    (let s := { State.reset with sst := { State.reset.sst with timerole := [0x1100, 0x186A0, 0x4E20] } };
      (s.setTime fun x => { x with samples := List.replicate s.intervalSize 0 }).intervalFull = true) ∧
    State.reset.tickRefLost = false := by decide +kernel

theorem witness_StampsAndWindows : (State.reset.time.caps[4]?).isSome = true ∧ linked.answers (.fn 0) = true ∧
    State.reset.readAllowed .purser (R.timeCapLo 4) = true ∧ State.reset.readAllowed .purser (R.timeCapMeta 4) = true ∧
    (served [] fun p => { p with stamps := [767] }).purser.stamps = [767] ∧ State.reset.time.swlog.length < 32 ∧
    State.reset.accepts .purser R.timeSwlogPop = true ∧ State.reset.accepts .purser R.timeTxqPop = true ∧
    State.reset.accepts .purser (R.timeWinCtrl 3) = true ∧ State.reset.winClose 3 ≤ State.reset.winOpen 3 ∧
    (at0 [(F.timeWinCloseLoNs 3, 1)]).winOpen 3 < (at0 [(F.timeWinCloseLoNs 3, 1)]).winClose 3 := by decide +kernel

theorem witness_Timecode : (at0 [(F.timeLtcoCfgEn 1, 1), (F.timeLtcoCfgRate 1, 15)]).get (F.timeLtcoCfgEn 1) = 1 ∧ ltcRateOf 15 = none ∧
    (ltcRateOf 5).isSome = true ∧ State.reset.accepts .purser (R.timeLtcoCfg 1) = true ∧
    (at0 [(F.timeLtciStatusLocked, 1)]).get F.timeLtciStatusLocked = 1 ∧
    (at0 [(F.glbStateState, 1), (F.timeLtcoCfgEn 1, 1)]).get F.glbStateState ≠ 0 ∧ (at0 [(F.glbStateState, 1)]).inWinter = false := by decide +kernel

/-- The first dropped label of a minute under drop-frame: 00:00:59:29 is followed by 00:01:00:02 (R345). -/
theorem test_drop_frame : ltcDisplayed 4 1799 = 1799 ∧ ltcDisplayed 4 1800 = 1802 ∧ ltcDisplayed 4 17982 = 18000 ∧
    ltcLabel 4 1802 = 1800 := by decide +kernel

theorem witness_LabelsComeBack : ltcRateOf 4 = some (30000, 1001, 30, 2589408) ∧ ltcRateOf 0 = some (24000, 1001, 24, 2073600) := by decide +kernel

theorem witness_PowerRequests : State.reset.accepts .purser R.glbPowerCtrl = true ∧
    (∀ st ∈ [2, 3, 4, 6], (at0 [(F.glbPowerStatusState, st)]).powerState = st) ∧ (at0 [(F.glbPowerStatusState, 5)]).powerState = 5 ∧
    (at0 [(F.glbPowerStatusState, 1)]).powerState = 1 := by decide +kernel

theorem witness_WinterAndThaw : (at0 [(F.glbPowerStatusState, 4)]).powerState = 4 ∧ (at0 [(F.glbPowerStatusState, 4)]).quiesced = true ∧
    (let s := (at0 [(F.glbPowerStatusState, 6)]).setPower fun p => { p with switchesClosed := true, fabricOff := true };
      s.powerState = 6 ∧ s.power.switchesClosed = true ∧ s.power.fabricOff = true) ∧
    (let s := (at0 [(F.glbPowerStatusState, 6), (F.holdGroupStatusKept, 0x8000), (F.glbStateState, 2)]);
      s.powerState = 6 ∧ s.power.switchesClosed = false ∧ s.power.vddHoldLate = false ∧ bit (s.get F.holdGroupStatusKept) (255 / 16) = true) ∧
    (15 : Nat) ∈ ({ HoldState.reset with wave := [15], unready := [15] }).wave ∧ State.reset.hold.unready = [] := by decide +kernel

theorem witness_LinkAndConfiguration : State.reset.host.perst = true ∧ linked.host.linkUp = true ∧ withVf.fnExists 1 = true ∧
    State.reset.fnExists 1 = false ∧ vectorFn 2047 = 31 ∧ vectorFn 1055 = 0 ∧ vectorFn 1056 = 1 ∧
    (wordsTouched 31 33).length = 2 := by decide +kernel

theorem witness_LinkAndConfiguration_fields :
    (let s := { linked with host := { linked.host with aspm := ⟨true, true, true, 20000⟩, flitMode := true } };
      s.host.linkUp = true ∧ s.host.aspm.l1 = true ∧ (s.fnCfg 0).ltrEnable = false ∧ s.host.flitMode = true) ∧
    State.reset.host.aspm.l1 = false ∧ State.reset.host.flitMode = false ∧
    linked.answers (.fn 0) = true ∧ vectorFn 0 = 0 ∧ linked.inWinter = false ∧ (linked.put F.glbPowerStatusState 5).inWinter = true ∧
    (linked.put F.glbPowerStatusState 5).answers (.fn 0) = true ∧ withVf.answers (.fn 1) = true ∧ vectorFn 1087 = 1 ∧ vectorFn 1088 = 2 ∧
    State.reset.answers (.fn 1) = false := by decide +kernel

theorem witness_FreezeAndThaw : State.reset.frozen 0x10 = false ∧ (at0 [(F.mstFreezeCauseFrozen 0x10, 1)]).frozen 0x10 = true ∧
    State.reset.accepts .purser R.mstThaw = true ∧ thawable 0x10 = true ∧ thawable 0x03 = false ∧
    (at0 [(F.mstFreezeCauseFrozen 0x10, 1), (F.mstFreezeCauseCode 0x10, 0x205)]).get (F.mstFreezeCauseCode 0x10) ≠ 0 ∧
    State.reset.accepts .purser (R.mstFreezeCause 0xFF) = true ∧ withVf.fnExists 1 = true ∧
    (∀ ch < 32, State.reset.get (F.dmaStatusState ch) ≠ 1) ∧ ((withVf.setFn 1 fun x => { x with flrBusy := true }).fnCfg 1).flrBusy = true := by
  decide +kernel

theorem witness_FreezeAndThaw_stall : thawable 0x10 = true ∧ (1 ≤ 3 ∧ 3 ≤ 3) ∧ thawable 0x3F = false ∧ ¬ (1 ≤ 0x3F ∧ 0x3F ≤ 3) ∧
    withStages.stallNow 0 = 0 ∧ (withStages.put (F.mstFreezeCauseFrozen 0x62) 1).stallNow 0 = 6 ∧
    (withStages.put (F.mstFreezeCauseFrozen 0xC0) 1).stallNow 0 = 1 ∧ State.reset.fnExists 0 = true := by decide +kernel

/-- Slot 15 taken up, its command not begun. -/
def taken (op caller : Nat) : State := served [(F.pursmCmdOpcode 15, op)] fun p => { p with current := some 15, caller := caller, begun := false }

theorem witness_MailboxSlots : State.reset.accepts .purser (R.pursmDoorbell 15) = true ∧ (taken 2 0x40).purser.current = some 15 ∧
    (taken 2 0x40).purser.serving = true ∧ (taken 2 0x40).purser.begun = false ∧ (taken 2 0x41).purser.caller ≠ 0x40 ∧
    (taken 2 0x40).get (F.pursmCmdOpcode 15) = 2 ∧ 3 ∉ [1, 2, 0x10, 0x11, 0x12, 0x13, 0x14, 0x15, 0x20] ∧
    0x2F ∉ [1, 2, 0x10, 0x11, 0x12, 0x13, 0x14, 0x15, 0x20] ∧ (taken 0x2F 0x41).get (F.pursmCmdOpcode 15) = 0x2F ∧
    (served [] fun p => { p with queue := [(15, 0x40)], current := none }).purser.queue = [(15, 0x40)] ∧
    State.reset.accepts .purser R.evtSoft = true := by decide +kernel

theorem witness_MailboxStoreCommands : (taken 0x20 0x40).get (F.pursmCmdOpcode 15) = 0x20 ∧ (taken 0x20 0x40).arg 15 0 = 0 ∧
    kindWritable 11 = true ∧ kindWritable 12 = false ∧ (taken 0x10 0x40).inForce 11 = none ∧ bit (taken 0x13 0x40).digests 3 = false ∧ (taken 0x13 0x40).nextSeq 2 ≤ 0xFFFFFFFE ∧ (taken 0x11 0x40).nextSeq 11 ≤ 0xFFFFFFFE ∧
    ((taken 0x20 0x40).put (F.plnRoleRole 0) 1).freeSlices (laneGroup 0) ≠ [] ∧ (taken 0x20 0x40).freeReaches ≠ [] ∧
    (taken 0x20 0x40).rowsFree 255 ≠ 0 ∧ (taken 0x20 0x40).hold.repair = none ∧ (taken 0x20 0x40).relief.pll = none ∧
    (taken 0x20 0x40).chainSwap 2 = none ∧ (taken 0x20 0x40).chainRelieved 2 = none := by decide +kernel

theorem witness_PurserAndManifest : (served [] fun p => { p with manifestWaiting := some 0, manifest := none }).purser.manifestWaiting = some 0 ∧
    State.reset.purser.serving = false ∧ (served [] fun p => { p with manifest := some 0, flushing := true }).purser.flushing = true ∧
    State.reset.accepts .purser R.glbManifestReq = true ∧ (linked.fnCfg 0).busMaster = true ∧ (State.reset.fnCfg 0).busMaster = false ∧
    (let s := at0 [(F.glbStateState, 1)]; s.purser.serving = false ∧ s.power.off = false ∧ s.power.fabricOff = false ∧ s.get F.glbStateState ≠ 0) := by decide +kernel

theorem witness_RecordStores : State.reset.cal.jobs = [] ∧ (StoreJob.mk 11 true [] [] [] 0 .part).clear = true ∧
    [(3 : Fin 58)] ≠ [] ∧ State.reset.power.off = false := by decide +kernel

theorem witness_ClocksAndSupplies : State.reset.power.off = false ∧ State.reset.get F.clkStatusAonFault = 0 ∧ State.reset.pllOn .fabric = true ∧
    State.reset.get (lockField .fabric) = 0 ∧ (at0 [(lockField .fabric, 1)]).get (lockField .fabric) = 1 ∧
    (ran [] id).pllOn (.out 0) = true ∧ (ran [] id).pllLocked 0 = false ∧ (ran [] id).running 0 = true ∧ ((ran [] id).outp 0).cut = false := by decide +kernel

theorem witness_Resets : State.reset.accepts .purser R.glbReset = true ∧ State.reset.power.warmPending = false ∧ State.reset.host.perst = true ∧
    (at0 [(F.glbResetCfgPerstFull, 1)]).get F.glbResetCfgPerstFull = 1 ∧ (at0 [(F.glbStateState, 1)]).get F.glbStateState ≠ 0 ∧
    State.reset.accepts .purser R.glbStateReq = true ∧ State.reset.power.thermal = false ∧
    (let s := State.reset.setPower fun p => { p with warmPending := true }; s.power.warmPending = true ∧ s.accepts .purser R.glbReset = true) := by decide +kernel

theorem witness_StartUp : State.reset.power.off = false ∧ State.reset.get F.glbStateState = 0 ∧ State.reset.power.warmStart = false ∧
    State.reset.power.coldMarchDone = false ∧ State.reset.power.fabricOff = false ∧ State.reset.power.halted = false ∧
    (State.reset.setPower fun p => { p with coldMarchDone := true }).power.coldMarchDone = true ∧ State.reset.rowsFree 255 ≠ 0 ∧
    (at0 [(F.holdOwnerRowsUsed 255, 16)]).rowsFree 255 = 0 ∧
    (State.reset.setPower fun p => { p with off := true }).power.off = true := by decide +kernel

/-! Worked examples of the spec. -/

/-- R197: the check value over "123456789". -/
theorem test_crc16 : crc16 [0x31, 0x32, 0x33, 0x34, 0x35, 0x36, 0x37, 0x38, 0x39] = 0x29B1 := by decide +kernel

/-- 03: the packed-10 line of five bytes holds the samples 512, 18, 516 and 130. -/
theorem test_packed10 : (⟨0, 0, 1, 1, 0, 0, 4, 1⟩ : SrcFormat).decodeLine 4 [0x00, 0x4A, 0x40, 0xA0, 0x20] = [512, 18, 516, 130].map (unpkInt 10) := by
  decide +kernel

/-- 03: 4:2:2 linear, co-sited and interstitial. -/
theorem test_chroma422 : chromaAt 1 false (fun i => clampAt [131200, 132225] i) 0 = 131200 ∧
    chromaAt 1 false (fun i => clampAt [131200, 132225] i) 1 = 131712 ∧ chromaAt 1 true (fun i => clampAt [131200, 132225] i) 0 = 131200 ∧
    chromaAt 1 true (fun i => clampAt [131200, 132225] i) 1 = 131456 := by decide +kernel

/-- 03, 04: 940 and 512 of 10 bits, and the code 1,023 of 262,142. -/
theorem test_depth10 : unpkInt 10 940 = 240875 ∧ unpkInt 10 512 = 131200 ∧ unpkInt 10 64 = 16400 ∧ packCode 10 262142 = 1023 := by decide +kernel

/-- 04: output columns 1,000 and 1,001 of 7680 to 3840. -/
theorem test_scalPos : (posInt (scalPos 0x8000 0x20000 1000), posPhase (scalPos 0x8000 0x20000 1000)) = (2000, 32) ∧
    (posInt (scalPos 0x8000 0x20000 1001), posPhase (scalPos 0x8000 0x20000 1001)) = (2002, 32) := by decide +kernel

/-- 06: the rate factor of 60 Hz on a 120 Hz output, and of 48 Hz (08). -/
theorem test_rateFactor : rheDiv (32768 * 60) 120 = 16384 ∧ rheDiv (32768 * 48) 120 = 13107 := by decide +kernel

/-- 13: length 12 and distance 300. -/
theorem test_codes : lengthCode 12 = (8, 1, 1) ∧ distCode 300 = (16, 7, 43) := by decide +kernel

/-- 20: COLR_M11 of the stage on reaches 20 and 21. -/
theorem test_stage_address :
    let s := { State.reset with sst := { State.reset.sst with outs := updAt State.reset.sst.outs 3 fun c => { c with route := [0x10300, 0x03000001, 0x300000, 0] } } };
    s.keyOf 0x214314 = some (R.colrM 3 4) ∧ s.keyOf 0x215314 = some (R.colrM 3 4) := by decide +kernel

/-- 00: 0.75 in u2.18 by 1.5, and codes of 10 bits: above 1.0, exact, and a tie. -/
theorem test_rounding : rhe 16 (0x30000 * 0x18000) = 0x48000 ∧ packCode 10 0x48000 = 1023 ∧ rhe 8 0x600 = 6 ∧ rhe 8 0x680 = 6 := by decide +kernel

end Sys2Proof.Tests
end

section
/-! Facts that several proofs below share: commands that raise no event, arrays of registers, fields set in order. -/

open Sys2Proof Sys2Proof.Machine

namespace Sys2Proof.Machine

/-! Commands that raise no event. -/

/-- A command that raises no event. -/
theorem Yields.quiet {c : Instr} {s u : State} {T : List Field} {P : List Part} {post : State → Prop} (h : exec c s = .next u)
    (hf : Frame T P s u) (hp : post u) : Yields c s [] T P post := ⟨u, h, hf, hp⟩

/-- A command that sets one field alone. -/
theorem put_yields {c : Instr} {s : State} {f : Field} {v : Nat} (h : exec c s = .next (s.put f v)) (hf : InWord f)
    (hv : v < 2 ^ (f.hi + 1 - f.lo)) : Yields c s [] [f] [] fun u => u.get f = v :=
  .quiet h ((Frame.refl _ _ s).put (by simp)) (by rw [State.get_put_same _ hf, Nat.mod_eq_of_lt hv])

/-! Arrays of registers. -/

/-- A register that is no member of an array of registers has no index in it. -/
theorem indexIn_none {f : Nat → Nat} {n key : Nat} (h : ∀ i < n, key ≠ f i) : indexIn f n key = none :=
  List.find?_eq_none.2 fun i hi => by simpa using (h i (by simpa using hi)).symm

/-- A register of an array of distinct ones has the index that it is made with. -/
theorem indexIn_some {f : Nat → Nat} {n k : Nat} (hk : k < n) (inj : ∀ j < n, f j = f k → j = k) : indexIn f n (f k) = some k :=
  find_unique hk (by simp) fun j hj e => inj j hj (by simpa using e)

/-! What several fields set in order read as. -/

theorem get_puts_apart (s : State) {g : Field} (hg : InWord g) {l : List (Field × Nat)} (h : ∀ p ∈ l, Apart p.1 g) :
    (s.puts l).get g = s.get g := by
  induction l generalizing s with
  | nil => rfl
  | cons p l ih =>
    rw [State.puts_cons, ih _ fun q hq => h q (List.mem_cons_of_mem _ hq), State.get_put_other _ (h p (List.mem_cons_self ..)) hg]

/-- A field set first, and none of those set after it sharing a bit with it. -/
theorem get_puts_head (s : State) {f : Field} (hf : InWord f) (v : Nat) {l : List (Field × Nat)} (h : ∀ p ∈ l, Apart p.1 f) :
    (s.puts ((f, v) :: l)).get f = v % 2 ^ (f.hi + 1 - f.lo) := by
  rw [State.puts_cons, get_puts_apart _ hf h, State.get_put_same _ hf]

theorem reg_puts_other (s : State) {a : Nat} {l : List (Field × Nat)} (h : ∀ p ∈ l, a ≠ p.1.addr) : (s.puts l).reg a = s.reg a := by
  induction l generalizing s with
  | nil => rfl
  | cons p l ih =>
    rw [State.puts_cons, ih _ fun q hq => h q (List.mem_cons_of_mem _ hq), State.reg_put_other _ (h p (List.mem_cons_self ..))]

/-! Bits. -/

/-- A one-bit field that is not 0 is 1. -/
theorem get_bit (s : State) {f : Field} (hf : f.hi = f.lo) : s.get f = 0 ∨ s.get f = 1 := by
  have h := State.get_lt s f
  rw [hf, Nat.add_sub_cancel_left] at h
  omega

/-- A register word with the bits of a mask taken from another word. -/
theorem maskedWord_bit (old new : Word) (m : Nat) {b : Nat} (hb : b < 32) :
    ((old &&& ~~~(BitVec.ofNat 32 m)) ||| (new &&& BitVec.ofNat 32 m)).getLsbD b = if bit m b then new.getLsbD b else old.getLsbD b := by
  simp only [bit, BitVec.getLsbD_or, BitVec.getLsbD_and, BitVec.getLsbD_not, BitVec.getLsbD_ofNat, hb, decide_true, Bool.true_and]
  by_cases h : m.testBit b = true <;> simp [h]

end Sys2Proof.Machine
end

section
/-! Misaligned accesses and the reset state (R6, R11, R12). -/

open Sys2Proof Sys2Proof.Machine

namespace Sys2Proof.Machine

/-- MISALIGNED_BAR0_ACCESS of an access that is its own: dropped in Winter, told otherwise; a read completes with all ones. -/
theorem exec_misalignedBar0Access {s : State} {w : Writer} {addr : BitVec 26} {size : Nat} (h : ¬(size = 4 ∧ addr.toNat % 4 = 0))
    (ha : s.answers w = true) (write : Bool) : exec (.misalignedBar0Access w addr size write) s =
      let t := if s.winterDrops w addr.toNat then s.winterDrop else s.raise 35
      .next (if write then t else t.emit (.completion allOnes)) :=
  if_neg (not_or.2 ⟨h, by simp [ha]⟩)

/-- An aligned access of 32 bits, and one of a function that does not answer, is none of MISALIGNED_BAR0_ACCESS's. -/
theorem exec_misalignedBar0Access_idle {s : State} {w : Writer} {addr : BitVec 26} {size : Nat} (write : Bool)
    (h : (size = 4 ∧ addr.toNat % 4 = 0) ∨ s.answers w = false) : exec (.misalignedBar0Access w addr size write) s = .next s :=
  if_pos (h.imp_right fun k => by simp [k])

/-- Settles O13: Winter or not decides what is told, write or read what is answered. -/
theorem misalignedAccesses : Obligations.MisalignedAccesses := by
  unfold Obligations.MisalignedAccesses
  intro s w addr size write
  refine ⟨fun h ha hw => ?_, fun h ha hw => ?_, exec_misalignedBar0Access_idle write⟩
  · constructor <;> simp [exec_misalignedBar0Access h ha, hw, allOnes]
  · constructor <;> simp [exec_misalignedBar0Access h ha, hw, allOnes]

/-- The reset state lists one register: HOLD_REPAIR_STATUS. -/
theorem reset_reg {a : Nat} (h : a ≠ R.holdRepairStatus) : State.reset.reg a = resetOf a := if_neg h

/-- A field of any other register has at reset what the register map gives. -/
theorem reset_get {f : Field} (h : f.addr ≠ R.holdRepairStatus) : State.reset.get f = fieldOf f (resetOf f.addr) :=
  congrArg (fieldOf f) (reset_reg h)

/-- Every EVT_STATUS register resets to 0. -/
theorem resetOf_evtStatus : ∀ g < 24, resetOf (R.evtStatus g) = 0 := by decide +kernel

theorem reset_not_pending {src : Nat} (h : src < 768) : State.reset.get (pendingField src) = 0 := by
  have hg : src / 32 < 24 := by omega
  have ne : (pendingField src).addr ≠ R.holdRepairStatus := by
    simp only [pendingField, R.evtStatus, R.holdRepairStatus]; omega
  rw [reset_get ne]
  simp [pendingField, resetOf_evtStatus _ hg, fieldOf, bits]

/-- Settles O2: the reset state lists no register but HOLD_REPAIR_STATUS, so each claim about a register is one about the register map. -/
theorem resetState : Obligations.ResetState := by
  unfold Obligations.ResetState
  refine ⟨⟨?_, ?_⟩, rfl, rfl, fun _ h => reset_reg h, ?_, ?_, ?_, fun _ h => reset_not_pending h, ?_, ?_, ?_, fun _ => ⟨rfl, rfl⟩⟩
  all_goals decide +kernel

end Sys2Proof.Machine
end

section
/-! Register reads (R8 to R10, R326). -/

open Sys2Proof Sys2Proof.Machine

namespace Sys2Proof.Machine

theorem readAt_of_keyOf {s : State} {a key : Nat} (h : s.keyOf a = some key) : s.readAt a = s.readReg key := by
  unfold State.readAt; rw [h]

/-- The change that a low word's read makes to the holding registers (R8). -/
def State.heldBy (s : State) (key : Nat) : List (Nat × Word) :=
  if key = R.timeNsLo then
    sparseSet 0 (sparseSet 0 s.high R.timeNsHi (BitVec.ofNat 32 (s.time.now / 2 ^ 64))) R.timeFrac (BitVec.ofNat 32 s.time.now)
  else match indexIn R.tgFrameIdLo 4 key with
    | some n => sparseSet 0 s.high (R.tgFrameIdHi n) (s.reg (R.tgFrameIdHi n))
    | none => s.high

/-- LOW_WORD_READ of a register that may be read: its value answered, the holding registers of its high word set. -/
theorem exec_lowWordRead {s : State} {w : Writer} {addr : BitVec 26} {key : Nat} (ha : s.answers w = true)
    (hr : s.readAllowed w addr.toNat = true) (hk : s.keyOf addr.toNat = some key) :
    exec (.lowWordRead w addr) s = .next (({ s with high := s.heldBy key } : State).emit (.completion (s.readReg key))) := by
  show execLowWordRead w addr s = _
  unfold execLowWordRead State.heldBy
  rw [readBy_allowed ha hr]
  simp only [hk, readAt_of_keyOf hk]
  by_cases ht : key = R.timeNsLo
  · simp only [if_pos ht]
  · simp only [if_neg ht]
    cases indexIn R.tgFrameIdLo 4 key <;> rfl

/-- RC_READ of a register that may be read: its value answered, its RC bits left with what the part counts in that clock. -/
theorem exec_rcRead {s : State} {w : Writer} {addr : BitVec 26} {inc : Word} {key : Nat} {r : RegRow} (ha : s.answers w = true)
    (hr : s.readAllowed w addr.toNat = true) (hk : s.keyOf addr.toNat = some key) (hw : rowOf key = some r) :
    exec (.rcRead w addr inc) s = .next ((if BitVec.ofNat 32 r.masks.rc = 0 then s
      else s.setReg key ((s.reg key &&& ~~~(BitVec.ofNat 32 r.masks.rc)) ||| (inc &&& BitVec.ofNat 32 r.masks.rc))).emit
        (.completion (s.readReg key))) := by
  show execRcRead w addr inc s = _
  unfold execRcRead
  rw [readBy_allowed ha hr]
  simp only [hk, hw, readAt_of_keyOf hk]

theorem readReg_timeNsHi (s : State) : s.readReg R.timeNsHi = sparseGet 0 s.high R.timeNsHi := rfl

theorem readReg_timeFrac (s : State) : s.readReg R.timeFrac = sparseGet 0 s.high R.timeFrac := rfl

/-- The holding registers and the messages put out are all that changes. -/
theorem held_frame (s : State) (h : List (Nat × Word)) (m : Out) : Frame [] [.high, .out] s (({ s with high := h } : State).emit m) :=
  Frame.emit ((Frame.refl _ _ s).fields fun p hp => by cases p <;> first | rfl | exact absurd (by simp) hp) (by simp)

theorem heldBy_tgFrameIdLo (s : State) (n : Fin 4) :
    s.heldBy (R.tgFrameIdLo n) = sparseSet 0 s.high (R.tgFrameIdHi n) (s.reg (R.tgFrameIdHi n)) := by
  unfold State.heldBy
  rw [if_neg (by simp only [R.tgFrameIdLo, R.timeNsLo]; omega),
    indexIn_some n.isLt fun j _ e => by simp only [R.tgFrameIdLo] at e; omega]

theorem heldBy_other {s : State} {key : Nat} (h1 : key ≠ R.timeNsLo) (h2 : ∀ n < 4, key ≠ R.tgFrameIdLo n) : s.heldBy key = s.high := by
  unfold State.heldBy; rw [if_neg h1, indexIn_none h2]

/-- Settles O11: what a read allowed answers is the register; what it changes is the holding registers of a low word, the RC bits of a
read-to-clear register, or nothing. -/
theorem registerReads : Obligations.RegisterReads := by
  unfold Obligations.RegisterReads
  refine ⟨fun s w n addr ha hr hn => ?_, fun s w addr ha hr ht => ?_, fun s w addr inc key r ha hr hk hw => ⟨fun h0 => ?_, fun h0 => ?_⟩,
    fun s w addr key ha hr hk h1 h2 => ?_⟩
  · have e := exec_lowWordRead ha hr (by rw [hn]; exact keyOf_tgFrameIdLo s n)
    rw [readReg_tgFrameIdLo, heldBy_tgFrameIdLo] at e
    exact .quiet e (held_frame _ _ _) ⟨by rw [hn]; rfl, rfl, by rw [readReg_tgFrameIdHi]; exact sparseGet_set_same ..⟩
  · have e := exec_lowWordRead ha hr (by rw [ht]; exact keyOf_timeNsLo s)
    refine .quiet e (held_frame _ _ _) ⟨rfl, ?_, ?_⟩
    · rw [readReg_timeNsHi]
      show sparseGet 0 (sparseSet 0 (sparseSet 0 _ _ _) _ _) _ = _
      rw [sparseGet_set_other _ _ _ _ (by decide), sparseGet_set_same]
    · rw [readReg_timeFrac]; exact sparseGet_set_same ..
  · rw [exec_rcRead ha hr hk hw, if_pos h0]
  · have e := exec_rcRead (inc := inc) ha hr hk hw
    rw [if_neg h0] at e
    refine .quiet e (((Frame.refl _ _ s).setReg (by simp)).emit (by simp)) ⟨rfl, fun b hb => ?_⟩
    rw [State.reg_emit, State.reg_setReg_same, maskedWord_bit _ _ _ hb]
  · rw [exec_lowWordRead ha hr hk, heldBy_other h1 h2]

end Sys2Proof.Machine
end

section
/-! Register writes (R9, R10, R12, R326, R342, R377, R381 to R383). -/

open Sys2Proof Sys2Proof.Machine

namespace Sys2Proof.Machine

theorem exec_registerWrite_unaligned {s : State} {w : Writer} {addr : BitVec 26} {data hw : Word} (h : addr.toNat % 4 ≠ 0) :
    exec (.registerWrite w addr data hw) s = .next s := if_pos h

/-- An accepted REGISTER_WRITE of a register is the write at its key. -/
theorem exec_registerWrite {s : State} {w : Writer} {addr : BitVec 26} {data hw : Word} {key : Nat} (h4 : addr.toNat % 4 = 0)
    (ha : s.accepts w addr.toNat = true) (hk : s.keyOf addr.toNat = some key) :
    exec (.registerWrite w addr data hw) s = .next (s.registerWrite key data hw) := by
  show execRegisterWrite w addr data hw s = _
  unfold execRegisterWrite
  rw [if_neg (not_not.2 h4), State.writeBy_accepts ha, hk]

theorem registerWrite_plain {s : State} {key : Nat} {data hw : Word} (h : s.specialWrite key data hw = none) :
    s.registerWrite key data hw = (s.plainWrite key data hw).afterWrite s key := by
  unfold State.registerWrite; rw [h]

theorem registerWrite_special {s t : State} {key : Nat} {data hw : Word} (h : s.specialWrite key data hw = some t) :
    s.registerWrite key data hw = t := by
  unfold State.registerWrite; rw [h]

/-! A plain write, bit by bit (R9, R10). -/

/-- One bit of a plain write: what its field takes of the data, keeps, clears, sets. -/
theorem writeWord_bit (m : Masks) (old data hw : Word) {b : Nat} (hb : b < 32) :
    (writeWord m old data hw).getLsbD b =
      let own := bit m.own b
      let takes := (bit m.rw b || bit m.rwp b || bit m.rwl b) && !own
      let clears := bit m.w1c b && !own
      let o := old.getLsbD b
      let d := data.getLsbD b
      ((o && !takes && !(clears && d)) || (d && takes) || (d && (bit m.w1s b && !own))) || (hw.getLsbD b && clears) := by
  simp only [writeWord, bit, BitVec.getLsbD_or, BitVec.getLsbD_and, BitVec.getLsbD_not, BitVec.getLsbD_ofNat, Nat.testBit_or, hb,
    decide_true, Bool.true_and]

/-- Settles O9: a plain write changes its register and the written flags alone, and each bit as its access type says. -/
theorem registerWriteByAccessType : Obligations.RegisterWriteByAccessType := by
  unfold Obligations.RegisterWriteByAccessType
  refine ⟨fun s w addr data hw h => exec_registerWrite_unaligned h, fun s w addr data hw key r h4 ha hk hr hs => ?_⟩
  refine ⟨s.plainWrite key data hw, ?_, plainWrite_frame (Frame.refl _ _ _) (by simp) (by simp), plainWrite_written hr, fun b hb => ?_⟩
  · rw [exec_registerWrite h4 ha hk, registerWrite_plain hs]
  · rw [plainWrite_reg hr, writeWord_bit _ _ _ _ hb]
    dsimp only
    refine ⟨fun ht hc hs => ?_, fun ht hc ho hs => ?_, fun ht hs ho hc => ?_, fun ht h => ?_⟩ <;> rw [ht]
    · simp [hc, hs]
    · simp [hc, ho, hs]
    · simp [hc, ho, hs]
    · rcases h with ⟨hc, hs⟩ | ho
      · simp [hc, hs]
      · simp [ho]

/-! The registers that have rules of their own. -/

theorem specialWrite_timeIncrLo (s : State) (data hw : Word) :
    s.specialWrite R.timeIncrLo data hw = some (s.setTime fun x => { x with incrLo := data }) := rfl

theorem specialWrite_sstCmd (s : State) (data hw : Word) : s.specialWrite R.sstCmd data hw =
    some (if bits data.toNat 3 0 = 0 then s.writeFields R.sstCmd data 0x13F else s) := rfl

theorem specialWrite_holdRepairCmd (s : State) (data hw : Word) : s.specialWrite R.holdRepairCmd data hw =
    some (if bits data.toNat 1 0 = 0 ∨ bits data.toNat 1 0 = 3 then s.writeFields R.holdRepairCmd data 0xFFFFF else s) := rfl

theorem specialWrite_glbManifestReq (s : State) (data hw : Word) : s.specialWrite R.glbManifestReq data hw =
    some (if bit data.toNat 0 then s else s.writeFields R.glbManifestReq data 0xFFFFF000) := rfl

theorem specialWrite_evtStatus (s : State) (data hw : Word) {g : Nat} (hg : g < 24) :
    s.specialWrite (R.evtStatus g) data hw = some (s.writePending g data hw) := by
  have e : (R.evtStatus g - R.evtStatus 0) / 4 = g := by simp only [R.evtStatus]; omega
  unfold State.specialWrite
  rw [if_neg, if_neg, if_neg, if_neg, if_pos, e]
  all_goals simp only [R.evtStatus, R.timeIncrLo, R.sstCmd, R.holdRepairCmd, R.glbManifestReq]; omega

theorem specialWrite_evtEnable (s : State) (data hw : Word) {g : Nat} (hg : g < 24) :
    s.specialWrite (R.evtEnable g) data hw = some (s.writeEnable g data) := by
  have e : (R.evtEnable g - R.evtEnable 0) / 4 = g := by simp only [R.evtEnable]; omega
  unfold State.specialWrite
  rw [if_neg, if_neg, if_neg, if_neg, if_neg, if_pos, e]
  all_goals simp only [R.evtEnable, R.evtStatus, R.timeIncrLo, R.sstCmd, R.holdRepairCmd, R.glbManifestReq]; omega

theorem specialWrite_evtRoute (s : State) (data hw : Word) {src : Nat} (hg : src < 768) :
    s.specialWrite (R.evtRoute src) data hw = some (s.writeRoute src data) := by
  have e : (R.evtRoute src - R.evtRoute 0) / 4 = src := by simp only [R.evtRoute]; omega
  unfold State.specialWrite
  rw [if_neg, if_neg, if_neg, if_neg, if_neg, if_neg, if_pos, e]
  all_goals simp only [R.evtRoute, R.evtEnable, R.evtStatus, R.timeIncrLo, R.sstCmd, R.holdRepairCmd, R.glbManifestReq]; omega

/-- The mailbox slot whose CMD or ARG register lies at a key. -/
def mailboxIn (key : Nat) : Option Nat :=
  (List.range 16).find? fun k => key == R.pursmCmd k || (List.range 14).any fun i => key == R.pursmArg k i

/-- Behind the event registers the windows' control registers have a rule of their own, and the mailbox slots. -/
theorem specialWrite_behind (s : State) (data hw : Word) {key : Nat}
    (h : 0x20000 ≤ key ∧ key ≠ R.timeIncrLo ∧ key ≠ R.sstCmd ∧ key ≠ R.holdRepairCmd) :
    s.specialWrite key data hw = (indexIn R.timeWinCtrl 4 key).elim ((mailboxIn key).map fun k => s.writeSlot k key data)
      fun k => some (s.writeWindow k data) := by
  obtain ⟨h1, h2, h3, h4⟩ := h
  have h5 : ¬ key = R.glbManifestReq ∧ ¬ (R.evtStatus 0 ≤ key ∧ key < R.evtStatus 24) ∧ ¬ (R.evtEnable 0 ≤ key ∧ key < R.evtEnable 24) ∧
      ¬ (R.evtRoute 0 ≤ key ∧ key < R.evtRoute 768) := by
    simp only [R.evtRoute, R.evtEnable, R.evtStatus, R.glbManifestReq]; omega
  obtain ⟨h5, h6, h7, h8⟩ := h5
  unfold State.specialWrite
  rw [if_neg h2, if_neg h3, if_neg h4, if_neg h5, if_neg h6, if_neg h7, if_neg h8]
  change _ = Option.elim _ ((mailboxIn key).map _) _
  cases indexIn R.timeWinCtrl 4 key with
  | some k => rfl
  | none => cases hm : mailboxIn key <;> (unfold mailboxIn at hm; simp only [hm]; rfl)

theorem specialWrite_timeWinCtrl (s : State) (data hw : Word) {k : Nat} (hk : k < 4) :
    s.specialWrite (R.timeWinCtrl k) data hw = some (s.writeWindow k data) := by
  rw [specialWrite_behind, indexIn_some hk, Option.elim_some]
  · intro j _ e; simp only [R.timeWinCtrl] at e; omega
  · simp only [R.timeWinCtrl, R.timeIncrLo, R.sstCmd, R.holdRepairCmd]; omega

/-- The CMD and ARG registers of mailbox slot k (R376). -/
def MailboxKey (k key : Nat) : Prop := key = R.pursmCmd k ∨ ∃ i < 14, key = R.pursmArg k i

/-- A slot's registers lie in a page of their own. -/
theorem MailboxKey.page {k key : Nat} (h : MailboxKey k key) : key / 0x1000 = 0x30 + k := by
  rcases h with rfl | ⟨i, hi, rfl⟩
  · simp only [R.pursmCmd]; omega
  · simp only [R.pursmArg]; omega

theorem mailboxKey_iff (k key : Nat) :
    (key == R.pursmCmd k || (List.range 14).any fun i => key == R.pursmArg k i) = true ↔ MailboxKey k key := by
  simp [MailboxKey]

theorem mailboxIn_of {k key : Nat} (hk : k < 16) (h : MailboxKey k key) : mailboxIn key = some k :=
  find_unique hk ((mailboxKey_iff k key).2 h) fun j _ hj => by
    have := ((mailboxKey_iff j key).1 hj).page
    have := h.page
    omega

theorem specialWrite_mailbox (s : State) (data hw : Word) {k key : Nat} (hk : k < 16) (h : MailboxKey k key) :
    s.specialWrite key data hw = some (s.writeSlot k key data) := by
  have hp := h.page
  have hn : indexIn R.timeWinCtrl 4 key = none := indexIn_none fun i _ => by simp only [R.timeWinCtrl]; omega
  rw [specialWrite_behind _ _ _ (by simp only [R.timeIncrLo, R.sstCmd, R.holdRepairCmd]; omega), hn, Option.elim_none,
    mailboxIn_of hk h, Option.map_some]

/-- A register whose command fields take an operation that is none: its fields take the data, nothing else changes. -/
theorem writeFields_yields {c : Instr} {s : State} {key mask : Nat} {data : Word} (h : exec c s = .next (s.writeFields key data mask)) :
    Yields c s [] [whole key] [] fun u => u.reg key = data &&& BitVec.ofNat 32 mask :=
  .quiet h ((Frame.refl _ _ _).setReg (by simp)) (State.reg_setReg_same ..)

/-- Settles O10: each register named has its equation of `specialWrite`. -/
theorem writesWithRulesOfTheirOwn : Obligations.WritesWithRulesOfTheirOwn := by
  unfold Obligations.WritesWithRulesOfTheirOwn
  intro s w addr data hw key h4 ha hk
  dsimp only
  have special {t : State} (h : s.specialWrite key data hw = some t) : exec (.registerWrite w addr data hw) s = .next t := by
    rw [exec_registerWrite h4 ha hk, registerWrite_special h]
  refine ⟨?_, ?_, ?_, ?_, ?_, ?_, ?_, ?_, ?_⟩
  case refine_1 =>
    rintro rfl
    exact .quiet (special (specialWrite_timeIncrLo ..)) (State.setTime_frame (Frame.refl _ _ _) _ (by simp)) rfl
  case refine_2 =>
    rintro rfl
    have e := special (specialWrite_sstCmd ..)
    exact ⟨fun h => writeFields_yields (by rw [e, if_pos h]), fun h => by rw [e, if_neg h]⟩
  case refine_3 =>
    rintro rfl
    have e := special (specialWrite_holdRepairCmd ..)
    exact ⟨fun h => writeFields_yields (by rw [e, if_pos h]), fun h h' => by rw [e, if_neg (not_or.2 ⟨h, h'⟩)]⟩
  case refine_4 =>
    rintro rfl
    have e := special (specialWrite_glbManifestReq ..)
    exact ⟨fun h => writeFields_yields (by rw [e, if_neg (by simp [h])]), fun h => by rw [e, if_pos h]⟩
  case refine_5 =>
    rintro g hg rfl
    exact special (specialWrite_evtStatus _ _ _ hg)
  case refine_6 =>
    rintro g hg rfl
    rw [special (specialWrite_evtEnable _ _ _ hg)]
    simp only [State.writeEnable, Bool.and_eq_true, Bool.not_eq_true', and_assoc]
  case refine_7 =>
    rintro src hsrc rfl
    rw [special (specialWrite_evtRoute _ _ _ hsrc)]
    unfold State.writeRoute
    refine ⟨fun hi => by rw [if_pos (by rw [hi]; rfl)], fun hi => ?_⟩
    rw [if_neg (by rw [hi]; decide)]
    refine ⟨fun hp hr => ?_, fun h => ?_⟩
    · dsimp only; rw [hp, hr]; rfl
    · dsimp only; rcases h with h | h <;> simp only [h, Bool.false_and, Bool.and_false, Bool.false_eq_true, if_false]
  case refine_8 =>
    rintro k hk4 rfl
    rw [special (specialWrite_timeWinCtrl _ _ _ hk4)]
    unfold State.writeWindow
    exact ⟨fun h => by rw [if_pos h], fun h => by rw [if_neg (by simp [h])]⟩
  case refine_9 =>
    intro k hk16 h
    rw [special (specialWrite_mailbox _ _ _ hk16 h)]
    unfold State.writeSlot
    exact ⟨fun hb => by rw [if_pos (on_of _ _ hb)], fun hb => by rw [if_neg (by simp [on_off _ _ hb])]⟩

end Sys2Proof.Machine
end

section
/-! Frame slots (R61, R63) and the read of a line group (R58, R65, R66, R169, R234). -/

open Sys2Proof Sys2Proof.Machine

namespace Sys2Proof.Machine

/-! READY and WITHDRAW. -/

theorem exec_slotReady {s : State} {w : Writer} {n k : Fin 4} (h : s.accepts w (R.scnSlotCtrl n k) = true) :
    exec (.slotReady w n k) s = .next (s.slotWrite n k true false) := congrArg _ (State.writeBy_accepts h)

theorem exec_slotWithdraw {s : State} {w : Writer} {n k : Fin 4} (h : s.accepts w (R.scnSlotCtrl n k) = true) :
    exec (.slotWithdraw w n k) s = .next (s.slotWrite n k false true) := congrArg _ (State.writeBy_accepts h)

/-- The ring of one slot, and the one that the region engine owns, take no READY and no WITHDRAW. -/
theorem slotWrite_closed {s : State} {n : Nat} (h : s.get (F.scnRgnStatusDepth n) ≠ 0 ∨ s.act (F.scnSlotCfgSlotCount n) = 1) (k : Nat)
    (ready withdraw : Bool) : s.slotWrite n k ready withdraw = s := if_pos h

theorem slotWrite_open {s : State} {n : Nat} (h0 : s.get (F.scnRgnStatusDepth n) = 0) (h1 : s.act (F.scnSlotCfgSlotCount n) ≠ 1) (k : Nat)
    (ready withdraw : Bool) : s.slotWrite n k ready withdraw =
      if ready then (if s.curSlot n = k then s else s.put (F.scnSlotCtrlReady n k) 1)
      else if withdraw then s.put (F.scnSlotCtrlReady n k) 0 else s := if_neg (not_or.2 ⟨not_not.2 h0, h1⟩)

/-! A read whose accesses meet nothing at the ports of the Hold. -/

theorem takePeers_quiet {s : State} (h : s.hold.port.others = []) (m a n : Nat) (write : Bool) : s.takePeers m a n write = (s, []) := by
  unfold State.takePeers
  simp only [h, List.filter_nil, List.foldl_nil]
  rw [← h]

theorem holdPort_quiet {q : HoldPort} (hc : q.corrected = []) (hl : q.lost = []) : { q with corrected := [], lost := [] } = q := by
  cases q; subst hc hl; rfl

theorem eccRun_quiet {s : State} (hc : s.hold.port.corrected = []) (hl : s.hold.port.lost = []) (a n : Nat) : s.eccRun a n = s := by
  unfold State.eccRun
  simp only [hc, hl, List.filter_nil, List.foldl_nil]
  rw [holdPort_quiet hc hl]

theorem readRun_quiet {s : State} (h : s.hold.port.others = []) (hc : s.hold.port.corrected = []) (hl : s.hold.port.lost = [])
    (m a n : Nat) : s.readRun m a n = (s, []) := by
  unfold State.readRun
  simp only [takePeers_quiet h, eccRun_quiet hc hl, List.filter_nil, List.foldl_nil]

theorem readRuns_quiet {s : State} (h : s.hold.port.others = []) (hc : s.hold.port.corrected = []) (hl : s.hold.port.lost = [])
    (m : Nat) (l : List (Nat × Nat)) : s.readRuns m l = (s, []) := by
  unfold State.readRuns
  induction l with
  | nil => rfl
  | cons r l ih => simpa only [List.foldl_cons, readRun_quiet h hc hl, List.append_nil] using ih

/-! The group sent last, again. -/

theorem map_getD_range (l : List Nat) (d : Nat → Nat) : ((List.range l.length).map fun x => l.getD x (d x)) = l :=
  List.ext_getElem (by simp) fun i h1 h2 => by simp [h2]

/-- A row of the picture's width is repeated as it is. -/
theorem fitRow_of_width {w : Nat} (free : Nat) {r : Row} (h0 : r.c0.length = w) (h1 : r.c1.length = w) (h2 : r.c2.length = w) :
    fitRow w free r = r := by
  obtain ⟨c0, c1, c2⟩ := r
  unfold fitRow mkRow
  congr 1
  · subst h0; exact map_getD_range _ _
  · subst h1; exact map_getD_range _ _
  · subst h2; exact map_getD_range _ _

/-- The rows handed on where group g cannot be: those of the group sent last, or zeros before any (R66). -/
def State.lastRows (s : State) (n g : Nat) : List Row :=
  let f := s.pictureFormat n
  let last := (s.outp n).pix.lastGroup
  let lines := min 16 (f.height - 16 * g)
  if last.isEmpty then List.replicate lines (zeroRow f.width)
  else (List.range lines).map fun i => fitRow f.width (s.freeCount + 3 * f.width * i) (last.getD i ⟨[], [], []⟩)

/-- A row of the group sent last that has the picture's width comes again unchanged. -/
theorem lastRows_same {s : State} {n g i : Nat} {r : Row} (hi : i < min 16 ((s.pictureFormat n).height - 16 * g))
    (hr : (s.outp n).pix.lastGroup[i]? = some r) (h0 : r.c0.length = (s.pictureFormat n).width)
    (h1 : r.c1.length = (s.pictureFormat n).width) (h2 : r.c2.length = (s.pictureFormat n).width) : (s.lastRows n g)[i]? = some r := by
  have hne : (s.outp n).pix.lastGroup.isEmpty = false := by
    cases h : (s.outp n).pix.lastGroup with
    | nil => simp [h] at hr
    | cons => rfl
  unfold State.lastRows
  simp only [hne, Bool.false_eq_true, if_false, List.getElem?_map, List.getElem?_range hi, Option.map_some, List.getD_eq_getElem?_getD, hr,
    Option.getD_some, fitRow_of_width _ h0 h1 h2]

/-- A count one up and its event raised. -/
def Counted (f : Field) (event : Nat) (u v : State) : Prop :=
  ∃ w, v = w.raise event ∧ Frame [f] [] u w ∧ w.get f = min (fieldMax f) (u.get f + 1)

theorem counted_raise (u : State) {f : Field} (hf : InWord f) (event : Nat) : Counted f event u ((u.count f 1).raise event) :=
  ⟨_, rfl, count_frame u f, count_get u f 1 hf⟩

/-- Group g of output n handed on from the group sent last (R66): its rows, those of the picture's width as they were; the free
components that stand for others counted. -/
def SentAgain (n g : Nat) (u x : State) : Prop :=
  let f := u.pictureFormat n
  let lines := min 16 (f.height - 16 * g)
  x = ({ u with freeCount := u.freeCount + 3 * f.width * lines } : State).takeGroup n (u.lastRows n g) ∧
    ∀ (i : Nat) (r : Row), i < lines → (u.outp n).pix.lastGroup[i]? = some r → r.c0.length = f.width → r.c1.length = f.width →
      r.c2.length = f.width → (u.lastRows n g)[i]? = some r

theorem sentAgain_repeatGroup (n g : Nat) (u : State) : SentAgain n g u (u.repeatGroup n g) :=
  ⟨rfl, fun _ _ hi hr h0 h1 h2 => lastRows_same hi hr h0 h1 h2⟩

/-- What an underrun of group g leaves: the count and the event, then the group sent last again (R169). -/
theorem underrun_spec (u : State) (n g : Nat) :
    ∃ v, Counted (F.scnUnderrunsCount n) (evOut n 8) u v ∧ SentAgain n g v (u.underrun n g) :=
  ⟨_, counted_raise u ⟨Nat.zero_le _, (by decide : 31 < 32)⟩ _, sentAgain_repeatGroup n g _⟩

/-! The engine's read of a group. -/

/-- The runs of bytes that the engine reads for group g: its own and those of its neighbours. -/
def State.scanRuns (s : State) (n g : Nat) : List (Nat × Nat × Nat) := s.groupRuns n g ++ s.neighbourRuns n g

section
variable {t : State} {n g : Nat} {late : Bool}

theorem scanGroup_held (h : t.runsHeld (scanMaster n) ((t.scanRuns n g).map (·.2)) = true) :
    t.scanGroup n g late = if late then t.underrun n g else t := if_pos h

variable (h : t.runsHeld (scanMaster n) ((t.scanRuns n g).map (·.2)) = false)
include h

theorem scanGroup_barred {x : Nat} (hx : (t.scanRuns n g).findSome? (fun r => t.firstBarred (scanMaster n) r.2.1 r.2.2 false) = some x) :
    t.scanGroup n g late = (t.violate (scanMaster n) (t.barCode (scanMaster n) x false) x false).underrun n g := by
  unfold State.scanGroup
  unfold State.scanRuns at h hx
  simp only [h, hx, Bool.false_eq_true, if_false]

variable (hb : (t.scanRuns n g).findSome? (fun r => t.firstBarred (scanMaster n) r.2.1 r.2.2 false) = none)
include hb

theorem scanGroup_uncorrectable
    (hf : ∃ q ∈ t.scanRuns n g, (t.readRuns (scanMaster n) ((t.scanRuns n g).map (·.2))).1.runFault q.2.1 q.2.2 ≠ none) :
    t.scanGroup n g late = ((t.scanRuns n g).foldl (fun u q => u.noteRun q.2.1 q.2.2)
      (t.readRuns (scanMaster n) ((t.scanRuns n g).map (·.2))).1).underrun n g := by
  obtain ⟨q, hq, hf⟩ := hf
  cases hs : (t.scanRuns n g).findSome? fun q => (t.readRuns (scanMaster n) ((t.scanRuns n g).map (·.2))).1.runFault q.2.1 q.2.2 with
  | none => exact absurd (List.findSome?_eq_none_iff.1 hs q hq) hf
  | some w =>
    unfold State.scanGroup
    unfold State.scanRuns at *
    simp only [h, hb, hs, Bool.false_eq_true, if_false]

theorem scanGroup_readable
    (hf : ∀ q ∈ t.scanRuns n g, (t.readRuns (scanMaster n) ((t.scanRuns n g).map (·.2))).1.runFault q.2.1 q.2.2 = none) :
    t.scanGroup n g late =
      let r := t.readRuns (scanMaster n) ((t.scanRuns n g).map (·.2))
      if late then r.1.underrun n g
      else if t.reachesHeld (r.1.readGroup (readView r) n g) n then t else r.1.readGroup (readView r) n g := by
  have hs := List.findSome?_eq_none_iff.2 hf
  unfold State.scanGroup
  unfold State.scanRuns at *
  simp only [h, hb, hs, Bool.false_eq_true, if_false]

end

/-- A group read is taken with its own lines, its bytes noted for the frame's CRC and its lines no longer complete. -/
theorem readGroup_spec (s view : State) (n g : Nat) : ∃ u, Frame [] [.output n] s u ∧ s.readGroup view n g = u.takeGroup n
    ((List.range (min 16 ((srcFormat s.act n).height - 16 * g))).map fun i => view.unpkLine n (16 * g + i)) :=
  ⟨_, State.setOut_frame (State.setPix_frame (Frame.refl _ _ s) _ _ (by simp)) _ _ (by simp), rfl⟩

/-- LINE_GROUP_READ of a group that is due. -/
theorem exec_lineGroupRead {s : State} {n : Fin 4} {late : Bool} {port : HoldPort} (h : s.groupDue n = true) :
    exec (.lineGroupRead n late port) s = .next (
      let t := s.openPort (s.routeActs n) port
      let g := (s.outp n).pix.groups
      State.closePort (if !(s.outp n).srcLanded then t.takeGroup n (List.replicate (min 16 (s.vActive n - 16 * g)) (zeroRow (s.hActive n)))
        else if (s.outp n).stall ≠ 0 then t.underrun n g
        else if s.chaseOn n && !s.chaseMet n g then ((t.count (F.scnChaseSlipsCount n) 1).raise (evOut n 16)).repeatGroup n g
        else t.scanGroup n g late)) := if_neg (by simp [h])

theorem exec_lineGroupRead_idle {s : State} {n : Fin 4} (late : Bool) (port : HoldPort) (h : s.groupDue n = false) :
    exec (.lineGroupRead n late port) s = .next s := if_pos (by simp [h])

/-- Settles O17: the slots' writes by the state of the ring; the read of a line group by what it meets first. -/
theorem frameSlotsAndLineGroups : Obligations.FrameSlotsAndLineGroups := by
  unfold Obligations.FrameSlotsAndLineGroups
  refine ⟨fun s w n k ha => ?_, fun s n late port => ?_⟩
  · have inWord : InWord (F.scnSlotCtrlReady n k) := by simp [InWord, F.scnSlotCtrlReady]
    refine ⟨fun h0 h1 => ⟨fun hc => ?_, fun hc => ?_, ?_⟩, fun h => ⟨?_, ?_⟩⟩
    · exact put_yields (by rw [exec_slotReady ha, slotWrite_open h0 h1, if_pos rfl, if_neg hc]) inWord (by simp [F.scnSlotCtrlReady])
    · rw [exec_slotReady ha, slotWrite_open h0 h1, if_pos rfl, if_pos hc]
    · exact put_yields (by rw [exec_slotWithdraw ha, slotWrite_open h0 h1]; rfl) inWord (by simp [F.scnSlotCtrlReady])
    · rw [exec_slotReady ha, slotWrite_closed h]
    · rw [exec_slotWithdraw ha, slotWrite_closed h]
  intro c g t runs m again counted answers underrun
  have toUnderrun {u : State} (h : answers (u.underrun n g)) : underrun u := by
    obtain ⟨v, hv, hx⟩ := underrun_spec u n g
    exact ⟨v, _, hv, hx, h⟩
  refine ⟨exec_lineGroupRead_idle late port, fun hd hl => ?_, fun hd hl hs => ?_, fun hd hl hs => ⟨fun hc hm => ?_, fun hc => ?_⟩⟩
  · show exec c s = _
    rw [exec_lineGroupRead hd]; dsimp only; rw [if_pos (by rw [hl]; rfl)]
  · apply toUnderrun
    show exec c s = _
    rw [exec_lineGroupRead hd]; dsimp only; rw [if_neg (by rw [hl]; decide), if_pos hs]
  · refine ⟨_, _, counted_raise t ⟨Nat.zero_le _, (by decide : 31 < 32)⟩ _, sentAgain_repeatGroup n g _, ?_⟩
    show exec c s = _
    rw [exec_lineGroupRead hd]; dsimp only
    rw [if_neg (by rw [hl]; decide), if_neg (not_not.2 hs), if_pos (by rw [hc, hm]; rfl)]
  · have scans {x : State} (h : t.scanGroup n g late = x) : answers x := by
      show exec c s = _
      rw [exec_lineGroupRead hd, ← h]; dsimp only
      rw [if_neg (by rw [hl]; decide), if_neg (not_not.2 hs), if_neg (by rcases hc with hc | hc <;> rw [hc] <;> simp)]
    refine ⟨fun hh => ⟨fun e => ?_, fun e => ?_⟩, fun hh => ⟨fun x hx => ?_, fun hb => ?_⟩⟩
    · exact scans (by rw [scanGroup_held hh, e]; rfl)
    · exact toUnderrun (scans (by rw [scanGroup_held hh, e]; rfl))
    · exact toUnderrun (scans (scanGroup_barred hh hx))
    · refine ⟨fun hf => ?_, fun hf => ⟨fun e => ?_, fun e => ?_⟩, fun ho hc hl => readRuns_quiet ho hc hl m _⟩
      · exact toUnderrun (scans (scanGroup_uncorrectable hh hb hf))
      · exact toUnderrun (scans (by rw [scanGroup_readable hh hb hf, e]; rfl))
      · obtain ⟨u, hu, hx⟩ := readGroup_spec (t.readRuns m (runs.map (·.2))).1 (readView (t.readRuns m (runs.map (·.2)))) n g
        refine ⟨u, _, rfl, hu, fun hr => ?_, fun hr => ?_⟩
        · rw [← hx] at hr ⊢
          refine scans ?_
          rw [scanGroup_readable hh hb hf, e]; exact if_neg (Bool.eq_false_iff.1 hr)
        · rw [← hx] at hr
          refine scans ?_
          rw [scanGroup_readable hh hb hf, e]; exact if_pos hr

end Sys2Proof.Machine
end

section
/-! Timecode (R344 to R346). -/

open Sys2Proof Sys2Proof.Machine

namespace Sys2Proof.Machine

/-! A word sent. -/

/-- No word starts on an output that is off, in Winter, or in start-up. -/
theorem exec_ltcWordStart_idle {s : State} {k : Fin 2}
    (h : s.get (F.timeLtcoCfgEn k) = 0 ∨ s.inWinter = true ∨ s.get F.glbStateState = 0) : exec (.ltcWordStart k) s = .next s := by
  refine if_pos ?_
  rcases h with h | h | h
  · exact .inl (by simp [on_off _ _ h])
  · exact .inr (by simp [State.pinsDrive, h])
  · exact .inr (by simp [State.pinsDrive, h])

section
variable {s : State} {k : Fin 2} (he : s.get (F.timeLtcoCfgEn k) = 1) (hw : s.inWinter = false) (hs : s.get F.glbStateState ≠ 0)
include he hw hs

theorem ltcWord_starts : ¬ ((!s.on (F.timeLtcoCfgEn k)) = true ∨ (!s.pinsDrive) = true) := by
  simp [on_of _ _ he, State.pinsDrive, hw, hs]

theorem exec_ltcWordStart_badRate (hr : ltcRateOf (s.get (F.timeLtcoCfgRate k)) = none) :
    exec (.ltcWordStart k) s = .next (s.put F.timeStatusLastCode 0x608) :=
  (if_neg (ltcWord_starts he hw hs)).trans (by rw [hr])

theorem exec_ltcWordStart {num den per day : Nat} (hr : ltcRateOf (s.get (F.timeLtcoCfgRate k)) = some (num, den, per, day)) :
    exec (.ltcWordStart k) s =
      let rate := s.get (F.timeLtcoCfgRate k)
      let f := ((s.time.now : Int) - (s.ltcBase k * nsUnit : Nat)) * (num : Int) / ((den * secUnit : Nat) : Int)
      let label := (((s.get (F.timeLtcoBaseFramesFrames k) : Int) + f) % (day : Int)).toNat
      let tc := ltcTc rate per (ltcDisplayed rate label)
      .next ((s.setReg (R.timeLtcoTc k) (BitVec.ofNat 32 tc)).emit (.ltc k (ltcWord rate tc (s.get (F.timeLtcoUserUser k))))) :=
  (if_neg (ltcWord_starts he hw hs)).trans (by rw [hr])

end

/-! A word received. -/

/-- The binary groups of a word, the first lowest. -/
def ltcUserOf (w : Nat) : Nat := (List.range 8).foldl (fun acc i => acc + 2 ^ (4 * i) * bits w (8 * i + 7) (8 * i + 4)) 0

/-- A word shown: its count, binary groups, label and rate. -/
def State.ltcShown (t : State) (w rate label : Nat) : State :=
  (t.setReg R.timeLtciTc (BitVec.ofNat 32 (ltcTcOf w))).puts
    [(F.timeLtciUserUser, ltcUserOf w), (F.timeLtciFramesFrames, label), (F.timeLtciStatusRate, rate)]

/-- The registers of a word shown, all but the lock of LTC_IN. -/
def ltciFields : List Field := [whole R.timeLtciTc, F.timeLtciUserUser, F.timeLtciFramesFrames, F.timeLtciStatusRate]

theorem ltcShown_frame (t : State) (w rate label : Nat) : Frame ltciFields [] t (t.ltcShown w rate label) :=
  ((Frame.refl _ _ t).setReg (by simp [ltciFields])).puts (by simp [ltciFields])

theorem ltcShown_tc (t : State) (w rate label : Nat) : (t.ltcShown w rate label).reg R.timeLtciTc = BitVec.ofNat 32 (ltcTcOf w) := by
  unfold State.ltcShown
  rw [reg_puts_other, State.reg_setReg_same]
  simp [F.timeLtciUserUser, F.timeLtciFramesFrames, F.timeLtciStatusRate, R.timeLtciTc, R.timeLtciUser, R.timeLtciFrames, R.timeLtciStatus]

theorem ltcShown_label (t : State) (w rate label : Nat) : (t.ltcShown w rate label).get F.timeLtciFramesFrames = label % 2 ^ 32 := by
  unfold State.ltcShown
  rw [State.puts_cons]
  exact get_puts_head _ (by simp [InWord, F.timeLtciFramesFrames]) _
    (by simp [Apart, F.timeLtciStatusRate, F.timeLtciFramesFrames, R.timeLtciFrames, R.timeLtciStatus])

theorem ltcShown_rate (t : State) (w : Nat) (rate : Fin 6) (label : Nat) :
    (t.ltcShown w rate label).get F.timeLtciStatusRate = rate := by
  unfold State.ltcShown
  rw [State.puts_cons, State.puts_cons, get_puts_head _ (by simp [InWord, F.timeLtciStatusRate]) _ (by simp)]
  exact Nat.mod_eq_of_lt (by simp only [F.timeLtciStatusRate]; omega)

/-- What a word shows is apart from the lock of LTC_IN. -/
theorem ltcShown_locked (t : State) (w rate label : Nat) :
    (t.ltcShown w rate label).get F.timeLtciStatusLocked = t.get F.timeLtciStatusLocked :=
  (ltcShown_frame t w rate label).get (by simp [InWord, F.timeLtciStatusLocked])
    (by simp [ltciFields, whole, Apart, F.timeLtciUserUser, F.timeLtciFramesFrames, F.timeLtciStatusRate, F.timeLtciStatusLocked, R.timeLtciTc,
      R.timeLtciUser, R.timeLtciFrames, R.timeLtciStatus])

/-- LOCKED set, once four good words of a rate have come. -/
def State.ltcLock (t : State) (good : Nat) : State :=
  if 4 ≤ good ∧ t.get F.timeLtciStatusLocked = 0 then t.put F.timeLtciStatusLocked 1 else t

theorem ltcLock_locked (t : State) (good : Nat) :
    (t.ltcLock good).get F.timeLtciStatusLocked = if 4 ≤ good then 1 else t.get F.timeLtciStatusLocked := by
  unfold State.ltcLock
  by_cases hg : 4 ≤ good
  · rcases get_bit t (f := F.timeLtciStatusLocked) rfl with h | h
    · rw [if_pos ⟨hg, h⟩, if_pos hg, State.get_put_same _ (by simp [InWord, F.timeLtciStatusLocked])]; rfl
    · rw [if_neg (by simp [h]), if_pos hg, h]
  · rw [if_neg (by simp [hg]), if_neg hg]

/-- Setting LOCKED changes no other field. -/
theorem ltcLock_get (t : State) (good : Nat) {g : Field} (hg : InWord g) (h : Apart F.timeLtciStatusLocked g) :
    (t.ltcLock good).get g = t.get g := by
  unfold State.ltcLock; split
  · exact State.get_put_other _ h hg _
  · rfl

theorem ltcLock_reg (t : State) (good : Nat) {a : Nat} (h : a ≠ R.timeLtciStatus) : (t.ltcLock good).reg a = t.reg a := by
  unfold State.ltcLock; split
  · exact State.reg_put_other _ h _
  · rfl

theorem ltcLock_frame {T : List Field} {P : List Part} {s t : State} (h : Frame T P s t) (good : Nat) (m : F.timeLtciStatusLocked ∈ T) :
    Frame T P s (t.ltcLock good) := by
  unfold State.ltcLock; split
  · exact h.put m
  · exact h

/-- A word weighed as a sample: taken when LTC is the source and output 0 runs at its rate, else 0x605 told; of no account for another source. -/
def State.ltcWeighed (v : State) (num den day label rate : Nat) : State :=
  if !v.hasSource 2 then v
  else if v.on (F.timeLtcoCfgEn 0) && v.get (F.timeLtcoCfgRate 0) == rate then v.sample (v.ltcOffset num den day label (v.cap 4).time)
  else v.put F.timeStatusLastCode 0x605

theorem ltcWeighed_other {v : State} (h : v.hasSource 2 = false) (num den day label rate : Nat) :
    v.ltcWeighed num den day label rate = v := if_pos (by rw [h]; rfl)

theorem ltcWeighed_sample {v : State} {rate : Nat} (h : v.hasSource 2 = true) (he : v.get (F.timeLtcoCfgEn 0) = 1)
    (hr : v.get (F.timeLtcoCfgRate 0) = rate) (num den day label : Nat) :
    v.ltcWeighed num den day label rate = v.sample (v.ltcOffset num den day label (v.cap 4).time) :=
  (if_neg (by rw [h]; decide)).trans (if_pos (by rw [on_of _ _ he, hr]; simp))

theorem ltcWeighed_refused {v : State} {rate : Nat} (h : v.hasSource 2 = true)
    (hn : ¬ (v.get (F.timeLtcoCfgEn 0) = 1 ∧ v.get (F.timeLtcoCfgRate 0) = rate)) (num den day label : Nat) :
    v.ltcWeighed num den day label rate = v.put F.timeStatusLastCode 0x605 :=
  (if_neg (by rw [h]; decide)).trans (if_neg (by rw [on_eq]; simpa using hn))

theorem hasSource_iff (s : State) (k : Nat) : s.hasSource k = true ↔ s.timeRole < 2 ∧ s.timeSource = k := by simp [State.hasSource]

theorem hasSource_of_sst {s t : State} (h : t.sst = s.sst) (k : Nat) : t.hasSource k = s.hasSource k := by
  unfold State.hasSource State.timeRole State.timeSource; rw [h]

/-- The state in which a word received is captured, its run of good words counted. -/
def State.ltcCaptured (s : State) (rate good sub : Nat) : State :=
  (s.setTime fun x => { x with ltcGood := min 4 good, ltcBad := 0, ltcRate := rate }).capture 4 sub

/-- LOCK told when it is new. -/
def State.tellLock (u t : State) (good : Nat) : State :=
  if 4 ≤ good ∧ t.get F.timeLtciStatusLocked = 0 then u.raise 554 else u

theorem tellLock_ltcLock (t : State) (good : Nat) : (t.ltcLock good).tellLock t good =
    if (decide (4 ≤ good) && !t.on F.timeLtciStatusLocked) = true then (t.put F.timeLtciStatusLocked 1).raise 554 else t := by
  have locks : (decide (4 ≤ good) && !t.on F.timeLtciStatusLocked) = true ↔ 4 ≤ good ∧ t.get F.timeLtciStatusLocked = 0 := by
    rcases get_bit t (f := F.timeLtciStatusLocked) rfl with h | h <;> simp [on_eq, h]
  unfold State.tellLock State.ltcLock
  by_cases h : 4 ≤ good ∧ t.get F.timeLtciStatusLocked = 0
  · rw [if_pos h, if_pos h, if_pos (locks.2 h)]
  · rw [if_neg h, if_neg h, if_neg fun c => h (locks.1 c)]

theorem tellLock_of_get {t t' : State} (h : t'.get F.timeLtciStatusLocked = t.get F.timeLtciStatusLocked) (u : State) (good : Nat) :
    u.tellLock t' good = u.tellLock t good := by
  unfold State.tellLock; rw [h]

/-- A good word received, from its capture on: shown, LTC_IN locked by the fourth, weighed as a sample. -/
theorem exec_ltcInWord {s : State} (hw : s.inWinter = false) (ho : s.power.off = false) (word : BitVec 80) (rate : Fin 6) (sub : BitVec 35)
    {num den per day : Nat} (hr : ltcRateOf rate = some (num, den, per, day)) :
    exec (.ltcInWord word rate sub) s =
      let good := if s.time.ltcRate = rate.val then s.time.ltcGood + 1 else 1
      let label := ltcLabelOf word.toNat rate per
      let t := s.ltcCaptured rate good sub.toNat
      .next ((((t.ltcShown word.toNat rate label).ltcLock good).tellLock t good).ltcWeighed num den day label rate) := by
  dsimp only
  rw [← tellLock_of_get (ltcShown_locked ..), tellLock_ltcLock]
  refine (if_neg (by simp [hw, ho])).trans ?_
  rw [hr]
  rfl

/-- What a word received shows and does, as R346 words it. -/
theorem ltcInWord_spec {s : State} (hw : s.inWinter = false) (ho : s.power.off = false) (word : BitVec 80) (rate : Fin 6) (sub : BitVec 35)
    {num den per day : Nat} (hr : ltcRateOf rate = some (num, den, per, day)) :
    let good := if s.time.ltcRate = rate.val then s.time.ltcGood + 1 else 1
    let t := s.ltcCaptured rate good sub.toNat
    let label := ltcLabelOf word.toNat rate per
    ∃ u, Frame [whole R.timeLtciTc, F.timeLtciUserUser, F.timeLtciFramesFrames, F.timeLtciStatusRate, F.timeLtciStatusLocked] [] t u ∧
      u.reg R.timeLtciTc = BitVec.ofNat 32 (ltcTcOf word.toNat) ∧ u.get F.timeLtciFramesFrames = label % 2 ^ 32 ∧
      u.get F.timeLtciStatusRate = rate.val ∧ u.get F.timeLtciStatusLocked = (if 4 ≤ good then 1 else t.get F.timeLtciStatusLocked) ∧
      exec (.ltcInWord word rate sub) s = .next ((u.tellLock t good).ltcWeighed num den day label rate) := by
  intro good t label
  refine ⟨(t.ltcShown word.toNat rate label).ltcLock good, ?_, ?_, ?_, ?_, ?_, ?_⟩
  · exact ltcLock_frame ((ltcShown_frame ..).mono (by simp [ltciFields]) (by simp)) _ (by simp)
  · rw [ltcLock_reg _ _ (by decide), ltcShown_tc]
  · rw [ltcLock_get _ _ (by simp [InWord, F.timeLtciFramesFrames])
      (by simp [Apart, F.timeLtciStatusLocked, F.timeLtciFramesFrames, R.timeLtciStatus, R.timeLtciFrames]), ltcShown_label]
  · rw [ltcLock_get _ _ (by simp [InWord, F.timeLtciStatusRate]) (by simp [Apart, F.timeLtciStatusLocked, F.timeLtciStatusRate]), ltcShown_rate]
  · rw [ltcLock_locked, ltcShown_locked]
  · exact exec_ltcInWord hw ho word rate sub hr

/-- The structure, and with it the source of time, is the same through a word received. -/
theorem tellLock_hasSource {s u : State} {rate good sub : Nat} {T : List Field} (h : Frame T [] (s.ltcCaptured rate good sub) u) (k : Nat) :
    (u.tellLock (s.ltcCaptured rate good sub) good).hasSource k = s.hasSource k := by
  have hc : (s.ltcCaptured rate good sub).sst = s.sst := raise_sst _ _
  have hu : u.sst = s.sst := (h.rest .sst (by simp)).trans hc
  unfold State.tellLock
  split
  · exact hasSource_of_sst ((raise_sst _ _).trans hu) k
  · exact hasSource_of_sst hu k

/-! A word missing. -/

/-- The state in which a word is missing: the run of good words at an end, a missing one more. -/
def State.ltcMissed (s : State) : State := s.setTime fun x => { x with ltcGood := 0, ltcBad := min 2 (x.ltcBad + 1) }

theorem exec_ltcInWordMissing (s : State) : exec (.ltcInWordMissing false) s =
    .next (if s.ltcMissed.time.ltcBad = 2 ∧ s.ltcMissed.on F.timeLtciStatusLocked then
      ((s.ltcMissed.put F.timeLtciStatusLocked 0).raise 554).sourceFails 2 else s.ltcMissed) := rfl

/-- The second missing word in a row unlocks what was locked. -/
theorem ltcInWordMissing_spec (s : State) :
    ∃ u, Frame [F.timeLtciStatusLocked] [.time] s u ∧ u.time = { s.time with ltcGood := 0, ltcBad := min 2 (s.time.ltcBad + 1) } ∧
      (s.time.ltcBad = 0 ∨ s.get F.timeLtciStatusLocked = 0 →
        exec (.ltcInWordMissing false) s = .next u ∧ u.get F.timeLtciStatusLocked = s.get F.timeLtciStatusLocked) ∧
      (s.time.ltcBad ≠ 0 → s.get F.timeLtciStatusLocked = 1 →
        exec (.ltcInWordMissing false) s = .next ((u.raise 554).sourceFails 2) ∧ u.get F.timeLtciStatusLocked = 0) := by
  have hf : Frame [F.timeLtciStatusLocked] [.time] s s.ltcMissed := State.setTime_frame (Frame.refl _ _ _) _ (by simp)
  have hbad : s.ltcMissed.time.ltcBad = min 2 (s.time.ltcBad + 1) := rfl
  have hlock : s.ltcMissed.get F.timeLtciStatusLocked = s.get F.timeLtciStatusLocked := State.setTime_get _ _ _
  rw [exec_ltcInWordMissing, on_eq, hbad, hlock]
  by_cases h : s.time.ltcBad ≠ 0 ∧ s.get F.timeLtciStatusLocked = 1
  · obtain ⟨hb, hl⟩ := h
    refine ⟨s.ltcMissed.put F.timeLtciStatusLocked 0, hf.put (by simp), rfl, fun c => by omega, fun _ _ => ⟨?_, ?_⟩⟩
    · rw [if_pos ⟨by omega, by simp [hl]⟩]
    · rw [State.get_put_same _ (by simp [InWord, F.timeLtciStatusLocked])]; rfl
  · refine ⟨s.ltcMissed, hf, rfl, fun c => ⟨?_, hlock⟩, fun hb hl => absurd ⟨hb, hl⟩ h⟩
    rw [if_neg]
    rintro ⟨h2, hl⟩
    exact h ⟨by omega, by simpa using hl⟩

/-! JAM. -/

section
variable (s : State) (k : Fin 2) (en : Bool) (rate : BitVec 4)

/-- EN and RATE of TIME_LTCOk_CFG written. -/
def State.ltcPut : State := s.puts [(F.timeLtcoCfgEn k, en.toNat), (F.timeLtcoCfgRate k, rate.toNat)]

theorem ltcPut_frame : Frame [F.timeLtcoCfgEn k, F.timeLtcoCfgRate k] [] s (s.ltcPut k en rate) := (Frame.refl _ _ s).puts (by simp)

theorem ltcPut_en : (s.ltcPut k en rate).get (F.timeLtcoCfgEn k) = en.toNat := by
  unfold State.ltcPut
  rw [get_puts_head _ (by simp [InWord, F.timeLtcoCfgEn]) _ (by simp [Apart, F.timeLtcoCfgEn, F.timeLtcoCfgRate])]
  exact Nat.mod_eq_of_lt (Bool.toNat_lt en)

theorem ltcPut_rate : (s.ltcPut k en rate).get (F.timeLtcoCfgRate k) = rate.toNat := by
  unfold State.ltcPut
  rw [State.puts_cons, get_puts_head _ (by simp [InWord, F.timeLtcoCfgRate]) _ (by simp)]
  exact Nat.mod_eq_of_lt rate.isLt

/-- TIME_LTCOk_CFG written, an invalid rate told. -/
def State.ltcSet : State := (s.ltcPut k en rate).ltcCheck k

theorem ltcSet_eq : s.ltcSet k en rate = if en = true ∧ ltcRateOf rate.toNat = none
    then (s.ltcPut k en rate).put F.timeStatusLastCode 0x608 else s.ltcPut k en rate :=
  ltcCheck_spec _ k (ltcPut_en s k en rate) (ltcPut_rate s k en rate)

theorem ltcSet_frame : Frame [F.timeLtcoCfgEn k, F.timeLtcoCfgRate k, F.timeStatusLastCode] [] s (s.ltcSet k en rate) := by
  have h := (ltcPut_frame s k en rate).mono (T' := [F.timeLtcoCfgEn k, F.timeLtcoCfgRate k, F.timeStatusLastCode]) (P' := []) (by simp) (by simp)
  rw [ltcSet_eq]
  split
  · exact h.put (by simp)
  · exact h

/-- LAST_CODE aside, the invalid rate changes no field. -/
theorem ltcSet_get {g : Field} (hg : InWord g) (h : Apart F.timeStatusLastCode g) : (s.ltcSet k en rate).get g = (s.ltcPut k en rate).get g := by
  rw [ltcSet_eq]
  split
  · exact State.get_put_other _ h hg _
  · rfl

theorem ltcSet_en : (s.ltcSet k en rate).get (F.timeLtcoCfgEn k) = en.toNat := by
  rw [ltcSet_get _ _ _ _ (by simp [InWord, F.timeLtcoCfgEn])
    (.inl (by simp only [F.timeStatusLastCode, F.timeLtcoCfgEn, R.timeStatus, R.timeLtcoCfg]; omega)), ltcPut_en]

theorem ltcSet_rate : (s.ltcSet k en rate).get (F.timeLtcoCfgRate k) = rate.toNat := by
  rw [ltcSet_get _ _ _ _ (by simp [InWord, F.timeLtcoCfgRate])
    (.inl (by simp only [F.timeStatusLastCode, F.timeLtcoCfgRate, R.timeStatus, R.timeLtcoCfg]; omega)), ltcPut_rate]

theorem ltcSet_code : (s.ltcSet k en rate).get F.timeStatusLastCode =
    if en = true ∧ ltcRateOf rate.toNat = none then 0x608 else s.get F.timeStatusLastCode := by
  have inWord : InWord F.timeStatusLastCode := by simp [InWord, F.timeStatusLastCode]
  rw [ltcSet_eq]
  split
  · rw [State.get_put_same _ inWord]; rfl
  · refine (ltcPut_frame s k en rate).get inWord fun f hf => .inl ?_
    have : f.addr = R.timeLtcoCfg k := by
      simp only [List.mem_cons, List.not_mem_nil, or_false] at hf
      rcases hf with rfl | rfl <;> rfl
    rw [this]; simp only [F.timeStatusLastCode, R.timeStatus, R.timeLtcoCfg]; omega

/-- A register of LTC_IN reads as before through a write of an LTC output's configuration. -/
theorem ltcSet_ltci {g : Field} (hg : InWord g) (ha : R.timeLtciStatus ≤ g.addr) : (s.ltcSet k en rate).get g = s.get g := by
  refine (ltcSet_frame s k en rate).get hg fun f hf => .inl ?_
  have : f.addr = R.timeLtcoCfg k ∨ f.addr = R.timeStatus := by
    simp only [List.mem_cons, List.not_mem_nil, or_false] at hf
    rcases hf with rfl | rfl | rfl
    · exact .inl rfl
    · exact .inl rfl
    · exact .inr rfl
  simp only [R.timeLtcoCfg, R.timeStatus, R.timeLtciStatus] at this ha
  omega

/-- The base and the label of LTC_OUTk taken from the last word. -/
def State.ltcBased : State :=
  let ns := (rhe 32 ((s.cap 4).time : Int)).toNat
  s.puts [(F.timeLtcoBaseNsLoNs k, ns), (F.timeLtcoBaseNsHiNs k, ns / 2 ^ 32), (F.timeLtcoBaseFramesFrames k, s.get F.timeLtciFramesFrames)]

theorem exec_ltcJam {w : Writer} (ha : s.accepts w (R.timeLtcoCfg k) = true) : exec (.ltcJam w k en rate) s =
    .next (if !(s.ltcSet k en rate).on F.timeLtciStatusLocked then s.ltcSet k en rate else (s.ltcSet k en rate).ltcBased k) :=
  congrArg _ (State.writeBy_accepts ha)

theorem ltcBased_frame :
    Frame [F.timeLtcoBaseNsLoNs k, F.timeLtcoBaseNsHiNs k, F.timeLtcoBaseFramesFrames k] [] s (s.ltcBased k) :=
  (Frame.refl _ _ s).puts (by simp)

theorem ltcBased_base : (s.ltcBased k).ltcBase k = (rhe 32 ((s.cap 4).time : Int)).toNat % 2 ^ 64 := by
  unfold State.ltcBase State.ltcBased
  dsimp only
  rw [get_puts_head _ (by simp [InWord, F.timeLtcoBaseNsLoNs]) _ (by
      simp [Apart, F.timeLtcoBaseNsLoNs, F.timeLtcoBaseNsHiNs, F.timeLtcoBaseFramesFrames, R.timeLtcoBaseNsLo, R.timeLtcoBaseNsHi, R.timeLtcoBaseFrames]),
    State.puts_cons, get_puts_head _ (by simp [InWord, F.timeLtcoBaseNsHiNs]) _ (by
      simp [Apart, F.timeLtcoBaseNsHiNs, F.timeLtcoBaseFramesFrames, R.timeLtcoBaseNsHi, R.timeLtcoBaseFrames])]
  have low64 (v : Nat) : v % 2 ^ 32 + 2 ^ 32 * (v / 2 ^ 32 % 2 ^ 32) = v % 2 ^ 64 := by omega
  exact low64 _

/-- The base and the label of an output share no register with its configuration, nor with LAST_CODE. -/
theorem ltcBased_get {g : Field} (hg : InWord g) (ha : g.addr = R.timeLtcoCfg k ∨ g.addr = R.timeStatus) : (s.ltcBased k).get g = s.get g := by
  refine (ltcBased_frame s k).get hg fun f hf => .inl ?_
  have : f.addr = R.timeLtcoBaseNsLo k ∨ f.addr = R.timeLtcoBaseNsHi k ∨ f.addr = R.timeLtcoBaseFrames k := by
    simp only [List.mem_cons, List.not_mem_nil, or_false] at hf
    rcases hf with rfl | rfl | rfl
    · exact .inl rfl
    · exact .inr (.inl rfl)
    · exact .inr (.inr rfl)
  simp only [R.timeLtcoCfg, R.timeStatus, R.timeLtcoBaseNsLo, R.timeLtcoBaseNsHi, R.timeLtcoBaseFrames] at this ha
  omega

theorem ltcBased_frames : (s.ltcBased k).get (F.timeLtcoBaseFramesFrames k) = s.get F.timeLtciFramesFrames := by
  unfold State.ltcBased
  dsimp only
  rw [State.puts_cons, State.puts_cons, get_puts_head _ (by simp [InWord, F.timeLtcoBaseFramesFrames]) _ (by simp)]
  exact Nat.mod_eq_of_lt (State.get_lt s F.timeLtciFramesFrames)

/-- What JAM leaves where LTC_IN is not locked: the configuration written. -/
theorem ltcJam_unlocked {w : Writer} (ha : s.accepts w (R.timeLtcoCfg k) = true) (hl : s.get F.timeLtciStatusLocked = 0) :
    exec (.ltcJam w k en rate) s = .next (s.ltcSet k en rate) := by
  rw [exec_ltcJam s k en rate ha, on_off, if_pos (by decide)]
  rw [ltcSet_ltci _ _ _ _ (by simp [InWord, F.timeLtciStatusLocked]) (by decide), hl]

/-- What JAM leaves where LTC_IN is locked: the base and the label of its last word too. -/
theorem ltcJam_locked {w : Writer} (ha : s.accepts w (R.timeLtcoCfg k) = true) (hl : s.get F.timeLtciStatusLocked = 1) :
    exec (.ltcJam w k en rate) s = .next ((s.ltcSet k en rate).ltcBased k) := by
  rw [exec_ltcJam s k en rate ha, on_of, if_neg (by decide)]
  rw [ltcSet_ltci _ _ _ _ (by simp [InWord, F.timeLtciStatusLocked]) (by decide), hl]

end

/-- Settles O48: a word sent, a word received, a word missing and JAM, each by its equation of `exec`. -/
theorem timecode : Obligations.Timecode := by
  unfold Obligations.Timecode
  refine fun s => ⟨fun k => ⟨exec_ltcWordStart_idle, fun he hw hs => ⟨fun hr => ?_, fun num den per day hr => ?_⟩⟩,
    fun word rate sub => ⟨fun h => if_pos h, fun hw ho num den per day hr => ?_⟩, rfl, ltcInWordMissing_spec s,
    fun w k en rate ha => ⟨fun hl => ?_, fun hl => ?_⟩⟩
  · exact put_yields (exec_ltcWordStart_badRate he hw hs hr) (by simp [InWord, F.timeStatusLastCode]) (by simp [F.timeStatusLastCode])
  · exact .quiet (exec_ltcWordStart he hw hs hr) (((Frame.refl _ _ s).setReg (by simp)).emit (by simp))
      ⟨by rw [State.reg_emit, State.reg_setReg_same], rfl⟩
  · obtain ⟨u, hf, htc, hlabel, hrate, hlock, hexec⟩ := ltcInWord_spec hw ho word rate sub hr
    refine ⟨u, hf, htc, hlabel, hrate, hlock, ?_⟩
    intro v
    have hsrc : v.hasSource 2 = s.hasSource 2 := tellLock_hasSource hf 2
    have source : s.timeRole < 2 ∧ s.timeSource = 2 → v.hasSource 2 = true := fun h => hsrc.trans ((hasSource_iff s 2).2 h)
    refine ⟨fun hn => ?_, fun h he hr => ?_, fun h hn => ?_⟩ <;> refine hexec.trans (congrArg _ ?_)
    · exact ltcWeighed_other (Bool.eq_false_iff.2 fun h => hn ((hasSource_iff s 2).1 (hsrc.symm.trans h))) ..
    · exact ltcWeighed_sample (source h) he hr ..
    · exact ltcWeighed_refused (source h) hn ..
  · refine .quiet (ltcJam_unlocked s k en rate ha hl) (ltcSet_frame ..) ⟨ltcSet_en .., ltcSet_rate .., fun hb => ?_, fun hb => ?_⟩
    · rw [ltcSet_code, if_pos hb]
    · rw [ltcSet_code, if_neg hb]
  · have hf := ltcSet_frame s k en rate
    have code := ltcBased_get (s.ltcSet k en rate) k (g := F.timeStatusLastCode) (by simp [InWord, F.timeStatusLastCode]) (.inr rfl)
    refine .quiet (ltcJam_locked s k en rate ha hl) ?_ ⟨?_, ?_, ?_, ?_, fun hb => ?_, fun hb => ?_⟩
    · exact (hf.mono (by simp) (by simp)).trans ((ltcBased_frame _ k).mono (by simp) (by simp))
    · rw [ltcBased_get _ _ (by simp [InWord, F.timeLtcoCfgEn]) (.inl rfl), ltcSet_en]
    · rw [ltcBased_get _ _ (by simp [InWord, F.timeLtcoCfgRate]) (.inl rfl), ltcSet_rate]
    · rw [ltcBased_frames, ltcSet_ltci _ _ _ _ (by simp [InWord, F.timeLtciFramesFrames]) (by decide)]
    · have ht : (s.ltcSet k en rate).time = s.time := hf.rest .time (by simp)
      rw [ltcBased_base]; unfold State.cap; rw [ht]
    · rw [code, ltcSet_code, if_pos hb]
    · rw [code, ltcSet_code, if_neg hb]

end Sys2Proof.Machine
end


section
/-! Facts that the proofs below share: fields side by side in a register, bits shown by fields, frames of states written out. -/

open Sys2Proof Sys2Proof.Machine

namespace Sys2Proof.Machine

/-! Fields. -/

/-- Two fields whose bit ranges do not meet share no bit, in whatever registers they lie. -/
theorem Apart.ofBits {f g : Field} (h : (Nat.blt f.hi g.lo || Nat.blt g.hi f.lo) = true) : Apart f g := by
  simp only [Bool.or_eq_true, Nat.blt_eq] at h
  exact .inr h

/-- Two fields in registers at different offsets. -/
theorem Apart.ofRegs {f g : Field} (h : Nat.beq f.addr g.addr = false) : Apart f g :=
  .inl fun e => by rw [e, Nat.beq_refl] at h; cases h

theorem Apart.symm {f g : Field} (h : Apart f g) : Apart g f := h.imp Ne.symm Or.symm

/-- Two fields in registers of one array of units, at different offsets from the unit's first. -/
theorem Apart.ofBases {f g : Field} {a b m : Nat} (hf : f.addr = a + m) (hg : g.addr = b + m) (h : Nat.beq a b = false) : Apart f g := by
  refine .inl fun e => ?_
  rw [hf, hg, Nat.add_right_cancel_iff] at e
  rw [e, Nat.beq_refl] at h
  cases h

/-- Bits in rising order below bit 32 are a field. -/
theorem InWord.ofBits {f : Field} (h : (Nat.ble f.lo f.hi && Nat.blt f.hi 32) = true) : InWord f := by
  simp only [Bool.and_eq_true, Nat.ble_eq, Nat.blt_eq] at h
  exact h

/-- A bit of a register, as the field of that bit shows it. -/
theorem bit_reg (s : State) (a b : Nat) : bit (s.reg a).toNat b = s.on ⟨a, b, b⟩ := by
  simp only [State.on, State.get, fieldOf, bits, bit]
  rw [Nat.add_sub_cancel_left, Nat.shiftRight_eq_div_pow, Nat.testBit_eq_decide_div_mod_eq]
  rfl

theorem on_false_iff (s : State) {f : Field} (hf : f.hi = f.lo) : s.on f = false ↔ s.get f = 0 := by
  rcases get_bit s hf with h | h <;> simp [on_eq, h]

theorem on_true_iff (s : State) (f : Field) : s.on f = true ↔ s.get f = 1 := by simp [on_eq]

/-- A field set reads as a value that fits it. -/
theorem get_put_of_lt (s : State) {f : Field} (hf : InWord f) {v : Nat} (hv : v < 2 ^ (f.hi + 1 - f.lo)) : (s.put f v).get f = v := by
  rw [State.get_put_same _ hf, Nat.mod_eq_of_lt hv]

theorem powerPart {T : List Field} {P : List Part} {s t : State} (h : Frame T P s t) (x : PowerState) (hm : .power ∈ P) :
    Frame T P s { t with power := x } :=
  h.fields fun p hp => by cases p <;> first | rfl | exact absurd hm hp

theorem reliefPart {T : List Field} {P : List Part} {s t : State} (h : Frame T P s t) (x : ReliefState) (hm : .relief ∈ P) :
    Frame T P s { t with relief := x } :=
  h.fields fun p hp => by cases p <;> first | rfl | exact absurd hm hp

theorem purserPart {T : List Field} {P : List Part} {s t : State} (h : Frame T P s t) (x : PurserState) (hm : .purser ∈ P) :
    Frame T P s { t with purser := x } :=
  h.fields fun p hp => by cases p <;> first | rfl | exact absurd hm hp

end Sys2Proof.Machine
end

section
/-! Clocks, PLLs and supplies (R347, R397 to R399, R414, R417, R432). -/

open Sys2Proof Sys2Proof.Machine

namespace Sys2Proof.Machine

/-! The references. -/

/-- Which reference of the tick is lost rests on the structure and on the losses noted. -/
theorem tickRefLost_of {s t : State} (hs : t.sst = s.sst) (ht : t.time = s.time) : t.tickRefLost = s.tickRefLost := by
  unfold State.tickRefLost; rw [hs, ht]

theorem raise_tickRefLost (s : State) (k : Nat) : (s.raise k).tickRefLost = s.tickRefLost :=
  tickRefLost_of (raise_sst s k) (raise_time s k)

/-- The state in which REFCLK is noted as lost, and the loss counted. -/
def State.refclkGone (s : State) : State :=
  ((s.setTime fun x => { x with refclkLost := true }).put F.clkStatusRefclkOk 0).count F.clkRefLossesRefclk 1

theorem refclkGone_frame (s : State) : Frame [F.clkStatusRefclkOk, F.clkRefLossesRefclk] [.time] s s.refclkGone :=
  ((State.setTime_frame (Frame.refl _ _ s) _ (by simp)).put (by simp)).count (by simp)

theorem refclkGone_ok (s : State) : s.refclkGone.get F.clkStatusRefclkOk = 0 :=
  (count_get_other _ _ (.ofBits rfl) (.ofBits rfl)).trans (get_put_of_lt _ (.ofBits rfl) (by decide))

theorem refclkGone_losses (s : State) : s.refclkGone.get F.clkRefLossesRefclk = min 65535 (s.get F.clkRefLossesRefclk + 1) := by
  unfold State.refclkGone
  rw [count_get _ _ _ (.ofBits rfl), State.get_put_other _ (.inl (by decide)) (.ofBits rfl), State.setTime_get]
  rfl

theorem exec_refclkLoss {s : State} (hl : s.time.refclkLost = false) (ho : s.power.off = false) : exec .refclkLoss s =
    .next (if s.refclkGone.tickRefLost then (s.refclkGone.raise 10).loseSource 0x602 else s.refclkGone.raise 10) := by
  rw [← raise_tickRefLost _ 10]
  exact if_neg (by simp [hl, ho])

/-- With REFCLK lost the tick has a reference left where it runs on REFIN. -/
theorem refclkGone_tickRefLost (s : State) :
    s.refclkGone.tickRefLost = if bit s.sst.clocks.toNat 8 then s.time.refinLost else true := rfl

/-- The state in which REFCLK is noted as in range. -/
def State.refclkThere (s : State) : State := (s.setTime fun x => { x with refclkLost := false }).put F.clkStatusRefclkOk 1

theorem exec_refclkRestore {s : State} (ho : s.power.off = false) : exec .refclkRestore s =
    .next (if s.time.refclkLost then (s.refclkThere.raise 11).tickRefBack else s.refclkThere) :=
  if_neg (by simp [ho])

theorem exec_aonCrystalStop (s : State) : exec .aonCrystalStop s =
    .next (if s.on F.clkStatusAonFault || s.power.off then s else (s.put F.clkStatusAonFault 1).raise 14) := rfl

/-! PLLs. -/

theorem lockField_inWord (p : Pll) : InWord (lockField p) :=
  ⟨Nat.le_refl _, by cases p <;> simp only [lockField, pllBit] <;> omega⟩

theorem lock_get_put (s : State) (p : Pll) (v : Bool) : (s.put (lockField p) v.toNat).get (lockField p) = v.toNat :=
  get_put_of_lt _ (lockField_inWord p) (by simp only [lockField]; rw [Nat.add_sub_cancel_left]; exact Bool.toNat_lt v)

theorem exec_pllLossOfLock (s : State) (p : Pll) : exec (.pllLossOfLock p) s =
    .next (if s.pllOn p && s.on (lockField p) then (s.put (lockField p) 0).raise 12 else s) := by
  rw [show s.on (lockField p) = bit (s.reg R.clkStatus).toNat (pllBit p) from (bit_reg s _ _).symm]
  rfl

/-- What waits for PLL p goes on, now that it is locked. -/
def State.pllServes (s : State) : Pll → State
  | .out n => s.restartOut n
  | .relief => (List.range 4).foldl (fun t n => if t.relief.pll = some n then t.restartOut n else t) s
  | _ => s

theorem exec_pllLockRegained (s : State) (p : Pll) : exec (.pllLockRegained p) s =
    if !s.pllOn p || s.on (lockField p) then .next s else .next (((s.put (lockField p) 1).raise 13).pllServes p) := by
  rw [show s.on (lockField p) = bit (s.reg R.clkStatus).toNat (pllBit p) from (bit_reg s _ _).symm]
  cases p <;> rfl

theorem exec_outputPllRelockTimeout_idle {s : State} {n : Fin 4}
    (h : s.running n = false ∨ (s.outp n).cut = true ∨ s.pllLocked n = true) : exec (.outputPllRelockTimeout n false) s = .next s :=
  if_pos (by rcases h with h | h | h <;> simp [h])

/-- The state in which a stopped output's PLL is worn and the output is to start again. -/
def State.pllWorn (t : State) (n : Nat) : State :=
  { t.put (F.tgCtrlEn n) 1 with relief := { t.relief with wornPlls := keyInsert t.relief.wornPlls n } }

theorem pllWorn_frame (t : State) (n : Nat) : Frame [F.tgCtrlEn n] [.relief] t (t.pllWorn n) :=
  reliefPart ((Frame.refl _ _ t).put (by simp)) _ (by simp)

theorem pllWorn_en (t : State) (n : Nat) : (t.pllWorn n).get (F.tgCtrlEn n) = 1 :=
  (State.get_mk (t.put (F.tgCtrlEn n) 1) _).trans (get_put_of_lt _ (.ofBits rfl) (by simp [F.tgCtrlEn]))

/-- The output waits for its PLL, no relief PLL being free for it. -/
def State.awaitPll (u : State) (n : Nat) : State := (u.raiseIf u.relief.pll.isSome 728).setOut n fun o => { o with restart := true }

theorem exec_outputPllRelockTimeout {s : State} {n : Fin 4} (hr : s.running n = true) (hc : (s.outp n).cut = false)
    (hl : s.pllLocked n = false) : exec (.outputPllRelockTimeout n false) s =
      let t := s.stopOut n
      let u := t.pllWorn n
      if (s.outp n).stopping then .next t
      else .next (if t.sst.relief.testBit 3 && t.relief.pll.isNone && u.mayEnable n then u.startOut n else u.awaitPll n) := by
  refine (if_neg (by simp [hr, hc, hl])).trans ?_
  generalize s.stopOut n = t
  rfl

theorem awaitPll_spec (u : State) (n : Nat) :
    let w := if u.relief.pll ≠ none then u.raise 728 else u
    Frame [] [.output n] w (u.awaitPll n) ∧
      ∀ o, w.outs[n]? = some o → (u.awaitPll n).outs[n]? = some { o with restart := true } := by
  intro w
  have hw : u.awaitPll n = w.setOut n fun o => { o with restart := true } := by
    simp only [State.awaitPll, State.raiseIf, ← Option.isSome_iff_ne_none, w]
  rw [hw]
  exact ⟨State.setOut_frame (Frame.refl _ _ w) _ _ (by simp), fun o ho => updAt_some ho⟩

/-- An output whose PLL is worn starts again with the relief PLL, or waits. -/
theorem pllWorn_restarts (t : State) (n : Fin 4) {r : Host.Outcome State Fault Refusal}
    (hr : r = .next (if t.sst.relief.testBit 3 && t.relief.pll.isNone && (t.pllWorn n).mayEnable n then (t.pllWorn n).startOut n
      else (t.pllWorn n).awaitPll n)) :
    ∃ u, Frame [F.tgCtrlEn n] [.relief] t u ∧ u.get (F.tgCtrlEn n) = 1 ∧
      u.relief = { t.relief with wornPlls := keyInsert t.relief.wornPlls n } ∧
      let auto := t.sst.relief.testBit 3
      (auto = true → t.relief.pll = none → u.mayEnable n = true → r = .next (u.startOut n)) ∧
      (auto = false ∨ t.relief.pll ≠ none ∨ u.mayEnable n = false → ∃ v, r = .next v ∧
        let w := if t.relief.pll ≠ none then u.raise 728 else u
        Frame [] [.output n] w v ∧ ∀ o, w.outs[n.val]? = some o → v.outs[n.val]? = some { o with restart := true }) := by
  refine ⟨t.pllWorn n, pllWorn_frame t n, pllWorn_en t n, rfl, fun ha hp hm => ?_, fun h => ⟨(t.pllWorn n).awaitPll n, ?_, awaitPll_spec (t.pllWorn n) n⟩⟩
  · rw [hr, ha, hp, hm]; rfl
  · rw [hr, if_neg]
    rcases h with h | h | h
    · simp [h]
    · simp [h]
    · simp [h]

/-! Supplies. -/

/-- The part without its supplies: the stores, the fuses and PERST# are what they were. -/
def State.collapsed (t : State) : State :=
  { State.reset with
    cal := { t.cal with sectors := [] }
    otp := t.otp
    host := { HostState.reset with perst := t.host.perst }
    power := { PowerState.reset with off := true, pfailLow := t.power.pfailLow }
    freeCount := t.freeCount
    out := .float :: t.out
    pending := t.pending }

theorem exec_supplyCollapse {s : State} (ho : s.power.off = false) :
    exec .supplyCollapse s = .next s.abandonStores.collapsed := by
  refine (if_neg (by simp [ho])).trans ?_
  generalize s.abandonStores = t
  rfl

/-! The settlement. -/

/-- Settles O58: each loss and return is an equation of `exec`; which branch it takes is what the clauses distinguish. -/
theorem clocksAndSupplies : Obligations.ClocksAndSupplies := by
  unfold Obligations.ClocksAndSupplies
  intro s
  refine ⟨fun h => if_pos (by simpa using h), fun hl ho => ?_, fun ho => if_pos ho, fun ho => ?_, fun ha ho => ?_, fun h => ?_,
    fun p => ⟨fun hon hl => ?_, fun h => ?_, fun h => ?_, fun hon hl => ?_⟩, fun n => ⟨rfl, exec_outputPllRelockTimeout_idle, fun hr hc hl => ?_⟩,
    fun ho => ⟨congrArg _ (if_pos ho), if_pos ho⟩, fun ho => congrArg _ (if_neg (by simp [ho])), fun ho => ?_⟩
  · have e := exec_refclkLoss hl ho
    rw [refclkGone_tickRefLost] at e
    refine ⟨s.refclkGone, refclkGone_frame s, refclkGone_ok s, refclkGone_losses s, rfl, fun hb hr => ?_, fun h => ?_⟩
    · rw [e, hb, hr]; rfl
    · refine e.trans (congrArg _ (if_pos ?_))
      rcases h with h | h <;> simp [h]
  · have e := exec_refclkRestore ho
    refine ⟨s.refclkThere, (State.setTime_frame (Frame.refl _ _ s) _ (by simp)).put (by simp), ?_, rfl, fun hl => ?_, fun hl => ?_⟩
    · exact get_put_of_lt _ (.ofBits rfl) (by decide)
    · rw [e, hl]; rfl
    · rw [e, hl]; rfl
  · refine ⟨s.put F.clkStatusAonFault 1, ?_, (Frame.refl _ _ s).put (by simp), get_put_of_lt _ (.ofBits rfl) (by decide)⟩
    rw [exec_aonCrystalStop, on_off _ _ ha, ho]; rfl
  · rw [exec_aonCrystalStop, if_pos]
    rcases h with h | h <;> simp [on_eq, h]
  · refine ⟨s.put (lockField p) 0, ?_, (Frame.refl _ _ s).put (by simp), lock_get_put s p false⟩
    rw [exec_pllLossOfLock, hon, on_of _ _ hl]; rfl
  · rw [exec_pllLossOfLock, if_neg]
    rcases h with h | h <;> simp [on_eq, h]
  · rw [exec_pllLockRegained, if_pos]
    rcases h with h | h <;> simp [on_eq, h]
  · have e : exec (.pllLockRegained p) s = .next (((s.put (lockField p) 1).raise 13).pllServes p) := by
      rw [exec_pllLockRegained, hon, on_off _ _ hl]; rfl
    refine ⟨s.put (lockField p) 1, (Frame.refl _ _ s).put (by simp), lock_get_put s p true, fun n hp => ?_, fun n _ hp _ => ⟨_, e, ?_⟩, fun hp => ?_⟩
    · rw [e, hp]; rfl
    · rw [hp]; rfl
    · rw [e]; rcases hp with rfl | rfl | rfl <;> rfl
  · have e := exec_outputPllRelockTimeout hr hc hl
    exact ⟨fun hs => e.trans (if_pos hs), fun hs => pllWorn_restarts _ n (e.trans (if_neg (by simp [hs])))⟩
  · exact ⟨_, exec_supplyCollapse ho, rfl, rfl, rfl, rfl, rfl, rfl, rfl, fun _ => rfl, rfl, rfl, rfl⟩

end Sys2Proof.Machine
end

section
/-! Mailbox slots (R376 to R380, R386). -/

open Sys2Proof Sys2Proof.Machine

namespace Sys2Proof.Machine

/-! A completion. -/

/-- The results of a command in its argument registers. -/
def State.mboxArgs (s : State) (k : Nat) (args : List Nat) : State :=
  (List.range args.length).foldl (fun t i => t.put (F.pursmArgValue k i) (args.getD i 0)) s

/-- The response and the status of a slot whose command has completed. -/
def mboxEnd (k result code tag : Nat) : List (Field × Nat) :=
  [(F.pursmRespCode k, code), (F.pursmRespTag k, tag), (F.pursmRespResult k, result), (F.pursmStatusQueued k, 0), (F.pursmStatusDone k, 1),
    (F.pursmStatusBusy k, 0)]

/-- A completion but for its event. -/
def State.mboxShown (s : State) (k result code : Nat) (args : List Nat) : State :=
  let s1 := (s.mboxArgs k args).puts (mboxEnd k result code (s.get (F.pursmCmdTag k)))
  { s1 with purser := { s1.purser with
      current := if s1.purser.current = some k then none else s1.purser.current
      begun := s1.purser.begun && s1.purser.current != some k } }

theorem mboxDone_eq (s : State) (k result code : Nat) (args : List Nat) :
    s.mboxDone k result code args = (s.mboxShown k result code args).raise (576 + k) := rfl

theorem puts_purser (s : State) (l : List (Field × Nat)) : (s.puts l).purser = s.purser := by
  induction l generalizing s with
  | nil => rfl
  | cons p l ih => exact ih _

theorem mboxShown_frame {s : State} {k : Nat} (hk : k < 16) (result code : Nat) {args : List Nat} (hl : args.length ≤ 14) :
    Frame (mailboxFields k args.length) [.purser] s (s.mboxShown k result code args) := by
  refine purserPart (Frame.puts ?_ (by simp [mboxEnd, mailboxFields])) _ (by simp)
  exact (args_fold k args args.length s hl hk).1.mono (fun f hf => List.mem_append_left _ hf) (by simp)

theorem mboxShown_get (s : State) (k result code : Nat) (args : List Nat) (f : Field) : (s.mboxShown k result code args).get f =
    ((s.mboxArgs k args).puts (mboxEnd k result code (s.get (F.pursmCmdTag k)))).get f := State.get_mk _ _

/-- A result lies in no register of the response or the status. -/
theorem mboxShown_arg {s : State} {k : Nat} (hk : k < 16) (result code : Nat) {args : List Nat} (hl : args.length ≤ 14) {i v : Nat}
    (hi : args[i]? = some v) : (s.mboxShown k result code args).get (F.pursmArgValue k i) = v % 2 ^ 32 := by
  obtain ⟨hlt, rfl⟩ := List.getElem?_eq_some_iff.1 hi
  rw [mboxShown_get, get_puts_apart _ (.ofBits rfl), State.mboxArgs, (args_fold k args args.length s hl hk).2.1 i hlt]
  · simp [hlt]
  · have resp : R.pursmResp k ≠ R.pursmArg k i := by simp only [R.pursmResp, R.pursmArg]; omega
    have status : R.pursmStatus k ≠ R.pursmArg k i := by simp only [R.pursmStatus, R.pursmArg]; omega
    simp only [mboxEnd, List.forall_mem_cons, List.not_mem_nil, false_implies, implies_true, and_true]
    exact ⟨.inl resp, .inl resp, .inl resp, .inl status, .inl status, .inl status⟩

/-- The registers of the response and the status read as the list of them says. -/
theorem mboxEnd_get (t : State) (k result code tag : Nat) : let u := t.puts (mboxEnd k result code tag)
    u.get (F.pursmRespCode k) = code % 2 ^ 12 ∧ u.get (F.pursmRespTag k) = tag % 2 ^ 8 ∧ u.get (F.pursmRespResult k) = result % 8 ∧
      u.get (F.pursmStatusBusy k) = 0 ∧ u.get (F.pursmStatusDone k) = 1 ∧ u.get (F.pursmStatusQueued k) = 0 := by
  simp (disch := first | exact .ofBits rfl | exact .ofBases rfl rfl rfl) only
    [mboxEnd, State.puts_cons, State.puts_nil, State.get_put_same, State.get_put_other]
  exact ⟨rfl, rfl, rfl, rfl, rfl, rfl⟩

theorem mboxShown_purser {s : State} {k : Nat} (hk : k < 16) (result code : Nat) {args : List Nat} (hl : args.length ≤ 14)
    (hc : s.purser.current = some k) : (s.mboxShown k result code args).purser = { s.purser with current := none, begun := false } := by
  have hp : ((s.mboxArgs k args).puts (mboxEnd k result code (s.get (F.pursmCmdTag k)))).purser = s.purser :=
    (puts_purser _ _).trans (args_fold k args args.length s hl hk).2.2
  simp [State.mboxShown, hp, hc]

/-! The doorbell, the queue, the time limit. -/

theorem exec_doorbellRing {s : State} {w : Writer} {k : Fin 16} (ha : s.accepts w (R.pursmDoorbell k) = true) :
    exec (.doorbellRing w k) s = .next (if s.on (F.pursmStatusBusy k) then s.raise 594
      else (s.puts [(F.pursmStatusBusy k, 1), (F.pursmStatusDone k, 0), (F.pursmStatusQueued k, 1)]).setPurser fun p =>
        { p with queue := p.queue ++ [(k.val, masterOf w)] }) :=
  congrArg _ (State.writeBy_accepts ha)

theorem exec_mailboxTakeUp {s : State} {k m : Nat} {rest : List (Nat × Nat)} (hq : s.purser.queue = (k, m) :: rest) :
    exec .mailboxTakeUp s = .next (if !s.purser.serving || s.purser.current.isSome then s
      else (s.put (F.pursmStatusQueued k) 0).setPurser fun p => { p with queue := rest, current := some k, caller := m, begun := false }) := by
  show execMailboxTakeUp s = _
  unfold execMailboxTakeUp
  rw [hq]

theorem exec_mailboxTakeUp_idle {s : State} (h : s.purser.queue = [] ∨ s.purser.serving = false ∨ s.purser.current ≠ none) :
    exec .mailboxTakeUp s = .next s := by
  cases hq : s.purser.queue with
  | nil => show execMailboxTakeUp s = _; unfold execMailboxTakeUp; rw [hq]
  | cons p rest =>
    rw [exec_mailboxTakeUp hq, if_pos]
    rcases h with h | h | h
    · rw [hq] at h; cases h
    · simp [h]
    · simp [Option.isSome_iff_ne_none.2 h]

theorem exec_mailboxTimeout (s : State) : exec (.mailboxTimeout false) s = match s.purser.current with
    | none => .next s
    | some k => .next (((s.detach k).raise 595).mboxDone k 4 0 []) := rfl

/-- A command that completes in the clock of its time limit is in time (R19). -/
theorem exec_mailboxTimeout_met (s : State) : exec (.mailboxTimeout true) s = .next s := by
  show execMailboxTimeout true s = _
  unfold execMailboxTimeout
  split <;> rfl

theorem detach_frame (s : State) (k : Nat) : Frame [] [.cal, .hold, .relief] s (s.detach k) :=
  (Frame.refl _ _ s).fields fun p hp => by cases p <;> first | rfl | simp at hp

/-! The commands that begin. -/

/-- A command begins once, while the Purser serves: each of the ten does nothing otherwise. -/
theorem mailboxCommands_idle {s : State} (h : s.purser.current = none ∨ s.purser.serving = false ∨ s.purser.begun = true) {ok : Bool}
    {data : Option (List Byte)} {c : Instr} (hc : c ∈ mailboxCommands ok data) : exec c s = .next s := by
  simp only [mailboxCommands, List.mem_cons, List.not_mem_nil, or_false] at hc
  rcases hc with rfl | rfl | rfl | rfl | rfl | rfl | rfl | rfl | rfl | rfl <;> exact congrArg _ (mailboxCmd_idle h ..)

/-- The state in which a command has begun. -/
def State.mboxBegun (s : State) : State := s.setPurser fun p => { p with begun := true }

section
variable {s : State} {k : Nat} (hc : s.purser.current = some k) (hs : s.purser.serving = true) (hb : s.purser.begun = false)
include hc hs hb

theorem mboxBegun_begins : s.begins k s.mboxBegun := ⟨hc, hs, hb, purserPart (Frame.refl _ _ s) _ (by simp), rfl⟩

theorem exec_getInfo (ho : s.get (F.pursmCmdOpcode k) = 1) : exec .getInfo s = .next (s.mboxBegun.mboxDone k 0 0
    [s.word R.pursInfo, 0xC2, s.word R.pursStatus, s.word R.chnSerialLo, s.word R.chnSerialHi]) :=
  congrArg _ (mailboxCmd_ready hc hs hb _ (by simp [ho]) ..)

theorem exec_eventTest (ho : s.get (F.pursmCmdOpcode k) = 2) (hp : s.purser.caller = 0x40) :
    let src := s.arg k 0 % 1024
    exec .eventTest s = .next (if src < 768 && implemented src then (s.mboxBegun.raise src).mboxDone k 0 0 [] else s.mboxBegun.mboxDone k 2 0 []) := by
  refine congrArg Host.Outcome.next ((mailboxCmd_ready hc hs hb _ (by simp [ho]) ..).trans ?_)
  rw [if_neg (by simp [hp])]
  rfl

theorem exec_unknownOp (ho : listedOp (s.get (F.pursmCmdOpcode k)) = false) : exec .unknownOp s =
    .next (if pf0Range (s.get (F.pursmCmdOpcode k)) && s.purser.caller != 0x40 then s.mboxBegun.mboxDone k 6 0 []
      else s.mboxBegun.mboxDone k 1 0 []) :=
  congrArg _ (mailboxCmd_ready hc hs hb _ (by simp [ho]) ..)

/-- A command of PF0's is refused to any other master. -/
theorem pf0Command_refused (hp : s.purser.caller ≠ 0x40) {op : Nat → Bool} (ho : op (s.get (F.pursmCmdOpcode k)) = true) (run : Nat → State → State) :
    s.mailboxCmd op true run = s.mboxBegun.mboxDone k 6 0 [] :=
  (mailboxCmd_ready hc hs hb op ho ..).trans (if_pos (by simpa using hp))

end

/-! The settlement. -/

/-- Settles O54: a slot's way from its doorbell through the queue to its completion, and what each command begun answers. -/
theorem mailboxSlots : Obligations.MailboxSlots := by
  unfold Obligations.MailboxSlots
  refine ⟨fun s k result code args hk hl => ?_, fun s w k ha => ⟨fun hb => ?_, fun hb => ?_⟩,
    fun s => ⟨exec_mailboxTakeUp_idle, fun k m rest _ hq hs hc => ?_, ?_, fun hc => ?_, fun k hc => ?_⟩,
    fun s h ok data c hm => mailboxCommands_idle h hm,
    fun s k hc hs hb => ⟨s.mboxBegun, mboxBegun_begins hc hs hb, exec_getInfo hc hs hb, fun ho hp => ⟨fun h1 h2 => ?_, fun h => ?_⟩, fun ho => ⟨fun h => ?_, fun h => ?_⟩, ?_⟩,
    fun s w ha => congrArg _ (State.writeBy_accepts ha)⟩
  · obtain ⟨hcode, htag, hresult, hbusy, hdone, hqueued⟩ := mboxEnd_get (s.mboxArgs k args) k result code (s.get (F.pursmCmdTag k))
    refine ⟨s.mboxShown k result code args, mboxDone_eq .., mboxShown_frame hk _ _ hl, fun i v hi => mboxShown_arg hk _ _ hl hi, ?_, ?_, ?_, ?_, ?_, ?_,
      mboxShown_purser hk _ _ hl⟩
    all_goals rw [mboxShown_get]
    · exact hcode
    · exact htag.trans (Nat.mod_eq_of_lt (get_lt s (F.pursmCmdTag k)))
    · exact hresult
    · exact hbusy
    · exact hdone
    · exact hqueued
  · rw [exec_doorbellRing ha, on_of _ _ hb]; rfl
  · have e := exec_doorbellRing ha
    rw [on_off _ _ hb, if_neg (by decide)] at e
    refine .quiet e (State.setPurser_frame (Frame.puts (Frame.refl _ _ s) (by simp)) _ (by simp)) ⟨?_, ?_, ?_, rfl⟩
    all_goals
      simp (disch := exact .ofBits rfl) only [State.setPurser_get, State.puts_cons, State.puts_nil, State.get_put_same, State.get_put_other]
      rfl
  · have e := exec_mailboxTakeUp hq
    rw [hs, hc, if_neg (by decide)] at e
    refine .quiet e (State.setPurser_frame ((Frame.refl _ _ s).put (by simp)) _ (by simp)) ⟨?_, rfl⟩
    exact (State.setPurser_get ..).trans (get_put_of_lt _ (.ofBits rfl) (by simp [F.pursmStatusQueued]))
  · exact exec_mailboxTimeout_met s
  · rw [exec_mailboxTimeout, hc]
  · refine ⟨s.detach k, by rw [exec_mailboxTimeout, hc], detach_frame s k, ?_, ?_, ?_⟩ <;> simp [State.detach]
  · rw [exec_eventTest hc hs hb ho hp, if_pos (by simp [h1, h2])]
  · rw [exec_eventTest hc hs hb ho hp, if_neg (by rcases h with h | h <;> simp [h])]
  · rw [exec_unknownOp hc hs hb (by simpa [listedOp] using ho), if_neg (by simpa [pf0Range] using h)]
  · rw [exec_unknownOp hc hs hb (by simpa [listedOp] using ho), if_pos (by simpa [pf0Range, and_assoc] using h)]
  · intro hp ok data p hm ho
    simp only [List.mem_cons, List.not_mem_nil, or_false] at hm
    rcases hm with rfl | rfl | rfl | rfl | rfl | rfl | rfl | rfl <;>
      exact congrArg _ (pf0Command_refused hc hs hb hp (by simp [ho]) _)

end Sys2Proof.Machine
end

section
/-! Remote accesses and sensor flits (R304, R308, R316 to R318, R323). -/

open Sys2Proof Sys2Proof.Machine

namespace Sys2Proof.Machine

theorem takeSeq_frame (s : State) (type : Nat) : Frame [] [.chain] s (s.takeSeq type).2 := chainPart (Frame.refl _ _ s) _ (by simp)

/-- The sequence numbers of a type go up by one, modulo 65,536. -/
theorem takeSeq_takeSeq (s : State) (type : Nat) : ((s.takeSeq type).2.takeSeq type).1 = ((s.takeSeq type).1 + 1) % 65536 := by
  simp [State.takeSeq]

/-- A sequence number taken changes no route. -/
theorem takeSeq_streamPorts (s : State) (type dst : Nat) : (s.takeSeq type).2.streamPorts dst = s.streamPorts dst := rfl

/-- The flit of a remote access. -/
def State.raFlit (s : State) (write : Bool) (dst seq : Nat) : List Byte :=
  shortFlit (if write then 8 else 7) 0 dst s.chainAddr seq (leBytes 4 (32 * s.get F.chnRaHoldAddr) ++
    (if write then ((List.range 8).map fun k => leBytes 4 (s.get (F.chnRaDataData k))).flatten else []))

/-- The state in which a remote access waits for its answer. -/
def State.raWaits (s : State) (write : Bool) (dst : Nat) : State :=
  let u := (s.takeSeq (if write then 8 else 7)).2.put F.chnRaStatusBusy 1
  { u with chain := { u.chain with access := some ⟨if write then 2 else 1, dst⟩ } }

theorem raWaits_frame (s : State) (write : Bool) (dst : Nat) : Frame [F.chnRaStatusBusy] [.chain] s (s.raWaits write dst) :=
  chainPart (((takeSeq_frame s _).mono (by simp) (by simp)).put (by simp)) _ (by simp)

theorem raWaits_busy (s : State) (write : Bool) (dst : Nat) : (s.raWaits write dst).get F.chnRaStatusBusy = 1 :=
  (State.get_mk _ _).trans (get_put_of_lt _ (.ofBits rfl) (by decide))

section
variable {s : State} {w : Writer} (ha : s.accepts w R.chnRaCmd = true) (write : Bool)
include ha

/-- A remote access judged: its address by the rights of the master, BUSY, its route, the port's right. -/
theorem raStart_eq : s.raStart w write =
    let m := masterOf w
    let dst := s.get F.chnRaDstDst
    if s.inChainRange m dst write = false then s.violate m 0x206 dst true
    else if s.on F.chnRaStatusBusy then s.put F.chnRaStatusCode 0x549
    else match (if dst = s.chainAddr then none else s.routeTo dst) with
      | none => s.raEnd 0x545
      | some p => if s.mayChain m p dst write = false then s.raEnd 0x547
        else (s.raWaits write dst).sendOwn [p] (w != .purser) (s.raFlit write dst (s.takeSeq (if write then 8 else 7)).1) := by
  unfold State.raStart
  rw [writeJudged_accepts ha (by decide)]
  simp only [Bool.not_eq_true']
  rfl

theorem raStart_outside (hr : s.inChainRange (masterOf w) (s.get F.chnRaDstDst) write = false) :
    s.raStart w write = s.violate (masterOf w) 0x206 (s.get F.chnRaDstDst) true := by
  rw [raStart_eq ha]; exact if_pos hr

variable (hr : s.inChainRange (masterOf w) (s.get F.chnRaDstDst) write = true)
include hr

theorem raStart_busy (hb : s.get F.chnRaStatusBusy = 1) : s.raStart w write = s.put F.chnRaStatusCode 0x549 := by
  rw [raStart_eq ha]
  exact (if_neg (by simp [hr])).trans (if_pos (on_of _ _ hb))

variable (hb : s.get F.chnRaStatusBusy = 0)
include hb

theorem raStart_routeless (hp : (if s.get F.chnRaDstDst = s.chainAddr then none else s.routeTo (s.get F.chnRaDstDst)) = none) :
    s.raStart w write = s.raEnd 0x545 := by
  rw [raStart_eq ha]
  refine (if_neg (by simp [hr])).trans ((if_neg (by simp [on_off _ _ hb])).trans ?_)
  rw [hp]

theorem raStart_routed {p : Nat} (hp : (if s.get F.chnRaDstDst = s.chainAddr then none else s.routeTo (s.get F.chnRaDstDst)) = some p) :
    s.raStart w write = if s.mayChain (masterOf w) p (s.get F.chnRaDstDst) write = false then s.raEnd 0x547
      else (s.raWaits write (s.get F.chnRaDstDst)).sendOwn [p] (w != .purser)
        (s.raFlit write (s.get F.chnRaDstDst) (s.takeSeq (if write then 8 else 7)).1) := by
  rw [raStart_eq ha]
  refine (if_neg (by simp [hr])).trans ((if_neg (by simp [on_off _ _ hb])).trans ?_)
  rw [hp]

end

/-- READ and WRITE are the two remote accesses. -/
theorem exec_ra {s : State} {w : Writer} {c : Instr × Bool} (hc : c ∈ [(Instr.raRead w, false), (Instr.raWrite w, true)]) :
    exec c.1 s = .next (s.raStart w c.2) := by
  simp only [List.mem_cons, List.not_mem_nil, or_false] at hc
  rcases hc with rfl | rfl <;> rfl

theorem exec_raTimeout (s : State) : exec (.raTimeout false) s = .next (if s.on F.chnRaStatusBusy then s.raEnd 0x546 else s) := rfl

theorem exec_sensorTx {s : State} {w : Writer} (ha : s.accepts w R.chnSensorTx = true) (temp : BitVec 16) (sensor : BitVec 8) :
    exec (.sensorTx w temp sensor) s = .next (if (s.streamPorts (s.get F.chnSensorDstDst)).isEmpty then s.put F.chnRaStatusCode 0x545
      else (s.takeSeq 10).2.sendOwn (s.streamPorts (s.get F.chnSensorDstDst)) (w != .purser) (shortFlit 10 0 (s.get F.chnSensorDstDst) s.chainAddr
        (s.takeSeq 10).1 (leBytes 1 sensor.toNat ++ leBytes 2 temp.toNat))) := by
  rw [← takeSeq_streamPorts s 10]
  exact congrArg _ (State.writeBy_accepts ha)

/-- Settles O44: a remote access ends where its judgement fails and goes out where it does not; a sensor flit likewise. -/
theorem remoteAccessAndSensors : Obligations.RemoteAccessAndSensors := by
  unfold Obligations.RemoteAccessAndSensors
  refine fun s w => ⟨fun ha c hc => ⟨fun hr => ?_, fun hr hb => ?_, fun hr hb => ⟨fun hp => ?_, fun p hp hm => ?_, fun p hp hm => ?_⟩⟩, rfl,
    fun hb => ?_, fun hb => ?_, fun ha temp sensor => ⟨fun hd => ?_, fun hd => ?_⟩, takeSeq_takeSeq s⟩
  · rw [exec_ra hc, raStart_outside ha _ hr]
  · exact put_yields ((exec_ra hc).trans (congrArg _ (raStart_busy ha _ hr hb))) (.ofBits rfl) (by decide)
  · exact raEnd_yields s c.1 0x545 (by decide) ((exec_ra hc).trans (congrArg _ (raStart_routeless ha _ hr hb hp)))
  · refine raEnd_yields s c.1 0x547 (by decide) ((exec_ra hc).trans (congrArg _ ?_))
    rw [raStart_routed ha _ hr hb hp, if_pos hm]
  · refine ⟨s.raWaits c.2 (s.get F.chnRaDstDst), (s.takeSeq (if c.2 then 8 else 7)).1, _, ?_, raWaits_frame .., raWaits_busy .., rfl, rfl, rfl, rfl⟩
    rw [exec_ra hc, raStart_routed ha _ hr hb hp, if_neg (by simp [hm])]
    rfl
  · exact raEnd_yields s _ 0x546 (by decide) ((exec_raTimeout s).trans (congrArg _ (if_pos (on_of _ _ hb))))
  · rw [exec_raTimeout, on_off _ _ hb]; rfl
  · exact put_yields ((exec_sensorTx ha temp sensor).trans (congrArg _ (if_pos (by simp [hd])))) (.ofBits rfl) (by decide)
  · exact ⟨(s.takeSeq 10).2, takeSeq_frame s 10, (exec_sensorTx ha temp sensor).trans (congrArg _ (if_neg (by simp [hd]))), rfl⟩

end Sys2Proof.Machine
end

section
/-! Lane service (R192, R199 to R204, R217). -/

open Sys2Proof Sys2Proof.Machine

namespace Sys2Proof.Machine

/-! Blocks sent. -/

/-- What k blocks sent leave of a lane beside its block stream. -/
structure LaneState.Sends (l l' : LaneState) (k : Nat) : Prop where
  sent : l'.sent = l.sent + k
  retry : l'.retry = l.retry
  train : l'.train = l.train
  tseq : l'.tseq = l.tseq

/-- A lane with nothing due but the TRAIN blocks of stage B and IDLE behind them. -/
structure LaneState.Plain (l : LaneState) : Prop where
  queue : l.queue = []
  histAt : l.histAt = none
  fill : l.fill = none

theorem LaneState.Sends.trans {a b c : LaneState} {j k : Nat} (h : a.Sends b j) (g : b.Sends c k) : a.Sends c (j + k) :=
  ⟨by rw [g.sent, h.sent, Nat.add_assoc], g.retry.trans h.retry, g.train.trans h.train, g.tseq.trans h.tseq⟩

/-- A lane after a block: its span counted on, its scrambler and its last level as the block leaves them. -/
def LaneState.afterBlock (l : LaneState) (precode : Bool) (b : LaneBlock) : LaneState :=
  let r := blockLevels precode l.scr l.last b
  { l.spanOver l.last r.1 with scr := r.2.1, last := r.2.2, sent := l.sent + 1 }

theorem afterBlock_sends (l : LaneState) (precode : Bool) (b : LaneBlock) : l.Sends (l.afterBlock precode b) 1 := by
  unfold LaneState.afterBlock LaneState.spanOver
  dsimp only
  split <;> exact ⟨rfl, rfl, rfl, rfl⟩

theorem afterBlock_plain {l : LaneState} (h : l.Plain) (precode : Bool) (b : LaneBlock) : (l.afterBlock precode b).Plain := by
  unfold LaneState.afterBlock LaneState.spanOver
  dsimp only
  split <;> exact ⟨h.queue, h.histAt, h.fill⟩

/-- One block sent on lane n: what the block is, what it leaves. -/
structure State.SendsOne (s : State) (n : Nat) (l : LaneState) (t : State) (l' : LaneState) (b : LaneBlock) (levels : List Nat) : Prop where
  frame : Frame [] [.lane n, .out] s t
  lane : t.lanes[n]? = some l'
  sends : l.Sends l' 1
  out : t.out = .lane n b levels :: s.out

theorem sendBlock_sends {s : State} {n : Nat} {l : LaneState} (h : s.lanes[n]? = some l) (b : LaneBlock) :
    s.SendsOne n l (s.sendBlock n b) (l.afterBlock (s.on (F.plnRolePrecode n)) b) b
      (blockLevels (s.on (F.plnRolePrecode n)) l.scr l.last b).1 := by
  unfold State.sendBlock
  rw [lane_of h]
  exact ⟨(State.setLane_frame (Frame.refl _ _ s) _ _ (by simp)).emit (by simp), updAt_some h, afterBlock_sends .., rfl⟩

/-- A block sent from a lane that was changed without a block sent. -/
theorem setLane_sendBlock {s : State} {n : Nat} {l : LaneState} (h : s.lanes[n]? = some l) (g : LaneState → LaneState)
    (hg : l.Sends (g l) 0) (b : LaneBlock) : ∃ l' levels, s.SendsOne n l ((s.setLane n g).sendBlock n b) l' b levels := by
  have k := sendBlock_sends (s := s.setLane n g) (n := n) (updAt_some h) b
  exact ⟨_, _, (State.setLane_frame (Frame.refl _ _ s) _ _ (by simp)).trans k.frame, k.lane, by simpa using hg.trans k.sends, k.out⟩

theorem sendNext_sends {s : State} {n : Nat} {l : LaneState} (h : s.lanes[n]? = some l) :
    ∃ l' b levels, s.SendsOne n l (s.sendNext n) l' b levels := by
  unfold State.sendNext
  rw [lane_of h]
  dsimp only
  split
  · next b rest _ =>
    obtain ⟨l', levels, k⟩ := setLane_sendBlock h (fun l => { l with queue := rest }) ⟨rfl, rfl, rfl, rfl⟩ b
    exact ⟨l', b, levels, k⟩
  · split
    · obtain ⟨l', levels, k⟩ := setLane_sendBlock h (fun l => { l with histAt := none, orderSeq := l.nextSeq }) ⟨rfl, rfl, rfl, rfl⟩
        (orderBlock 4 l.nextSeq [])
      exact ⟨l', _, levels, k⟩
    · split
      · next b _ => exact ⟨_, _, _, sendBlock_sends h b⟩
      · exact ⟨_, _, _, sendBlock_sends h _⟩

/-- A plain lane in stage B sends a TRAIN block, and stays plain. -/
theorem sendNext_train {s : State} {n : Nat} {l : LaneState} (h : s.lanes[n]? = some l) (hp : l.Plain) (hl : l.sent < 2048) :
    ∃ l' levels, s.SendsOne n l (s.sendNext n) l' ⟨hTrain, l.train⟩ levels ∧ l'.Plain := by
  have e : s.sendNext n = s.sendBlock n ⟨hTrain, l.train⟩ := by
    unfold State.sendNext
    simp [lane_of h, hp.queue, hp.histAt, hp.fill, hl]
  rw [e]
  exact ⟨_, _, sendBlock_sends h _, afterBlock_plain hp _ _⟩

/-- So many blocks sent on a lane. -/
theorem sendBlocks_sends {s : State} {n : Nat} {l : LaneState} (h : s.lanes[n]? = some l) (k : Nat) :
    ∃ l' new, Frame [] [.lane n, .out] s (s.sendBlocks n k) ∧ (s.sendBlocks n k).lanes[n]? = some l' ∧ l.Sends l' k ∧
      (s.sendBlocks n k).out = new ++ s.out ∧ new.length = k ∧
      (l.Plain → l.sent + k ≤ 2048 → ∀ m ∈ new, ∃ levels, m = .lane n ⟨hTrain, l.train⟩ levels) := by
  induction k generalizing s l with
  | zero => exact ⟨l, [], Frame.refl _ _ s, h, ⟨rfl, rfl, rfl, rfl⟩, rfl, rfl, fun _ _ m hm => nomatch hm⟩
  | succ k ih =>
    by_cases hp : l.Plain ∧ l.sent < 2048
    · obtain ⟨l1, levels, h1, p1⟩ := sendNext_train h hp.1 hp.2
      obtain ⟨l', new, hf, hl, hs, ho, hn, ht⟩ := ih h1.lane
      refine ⟨l', new ++ [.lane n ⟨hTrain, l.train⟩ levels], h1.frame.trans hf, hl, ?_, ?_, by simp [hn], fun _ hk m hm => ?_⟩
      · simpa [Nat.add_comm] using h1.sends.trans hs
      · show ((s.sendNext n).sendBlocks n k).out = _
        rw [ho, h1.out, List.append_assoc]; rfl
      · rcases List.mem_append.1 hm with hm | hm
        · rw [← h1.sends.train]; exact ht p1 (by rw [h1.sends.sent]; omega) m hm
        · exact ⟨levels, by simpa using hm⟩
    · obtain ⟨l1, b, levels, h1⟩ := sendNext_sends h
      obtain ⟨l', new, hf, hl, hs, ho, hn, -⟩ := ih h1.lane
      refine ⟨l', new ++ [.lane n b levels], h1.frame.trans hf, hl, ?_, ?_, by simp [hn], fun hq hk => absurd ⟨hq, by omega⟩ hp⟩
      · simpa [Nat.add_comm] using h1.sends.trans hs
      · show ((s.sendNext n).sendBlocks n k).out = _
        rw [ho, h1.out, List.append_assoc]; rfl

/-! Training. -/

/-- STATE of a lane set. -/
theorem laneSt_put (s : State) (n v : Nat) (hv : v < 16) : (s.put (F.plnStatusState n) v).laneSt n = v :=
  get_put_of_lt _ (.ofBits rfl) hv

theorem exec_trainingSequenceEnd (s : State) (n : Fin 96) : exec (.trainingSequenceEnd n) s =
    .next (if s.laneSt n = 1 then s.endTraining n else s) := rfl

/-- The TRAIN payload rests on the lane's role and segment, the structures and the landed raster. -/
theorem trainPayload_of {s t : State} {n : Nat} (hr : t.reg (R.plnRole n) = s.reg (R.plnRole n))
    (hg : t.reg (R.plnSegment n) = s.reg (R.plnSegment n)) (ha : t.active = s.active) (hs : t.sst = s.sst) (q : Nat) :
    t.trainPayload n q = s.trainPayload n q := by
  have role (f : Field) (hf : f.addr = R.plnRole n) : t.get f = s.get f := State.get_of_reg (by rw [hf, hr])
  have segment (f : Field) (hf : f.addr = R.plnSegment n) : t.get f = s.get f := State.get_of_reg (by rw [hf, hg])
  have active (f : Field) : t.act f = s.act f := by unfold State.act State.actReg; rw [ha]
  unfold State.trainPayload State.backRows State.vActive State.cfg
  rw [role (F.plnRoleOutput n) rfl, role (F.plnRoleRole n) rfl, role (F.plnRolePrecode n) rfl, role (F.plnRoleBaud n) rfl,
    segment (F.plnSegmentFirst n) rfl, segment (F.plnSegmentColumns n) rfl, hs]
  simp only [active]

/-- A training sequence from the instant of the state on. -/
def State.trains (s : State) (n : Nat) : State :=
  let q := ((s.lane n).tseq + 1) % 256
  let pre := s.on (F.plnRolePrecode n)
  ((((s.setLane n fun l => { l with
    tseq := q, train := s.trainPayload n q, fill := none, silent := 0, corrupt := 0, retryAt := none, scr := laneSeed n, last := if pre then 0 else 3,
    base := s.nowPs + ((s.free % 4000 : Nat) : Int), sent := 0, queue := [], histAt := none, spanAt := 0, spanCount := 0,
    spans := [stageATransitions pre], spansDone := 0 }).bumpFree).puts [(F.plnStatusState n, 1), (F.plnResidCount n, 0)])).emit (.stageA n (stageA pre))

theorem startTraining_eq (s : State) (n : Nat) : s.startTraining n = (if s.laneSt n = 0 then s else s.laneTo n s.nowPs).trains n := rfl

theorem trains_frame (s : State) (n : Nat) : Frame [F.plnStatusState n, F.plnResidCount n] [.lane n, .out, .free] s (s.trains n) := by
  have free {T : List Field} {u : State} (h : Frame T [.lane n, .out, .free] s u) : Frame T [.lane n, .out, .free] s u.bumpFree :=
    h.upd rfl (fun p hp => by cases p <;> first | rfl | simp at hp) rfl
  exact ((free (State.setLane_frame (Frame.refl _ _ s) n _ (by simp))).puts (by simp)).emit (by simp)

theorem trains_state (s : State) (n : Nat) : (s.trains n).laneSt n = 1 ∧ (s.trains n).get (F.plnResidCount n) = 0 := by
  unfold State.laneSt State.trains
  simp (disch := first | exact .ofBits rfl | exact .ofBases rfl rfl rfl) only
    [State.get_emit, State.puts_cons, State.puts_nil, State.get_put_same, State.get_put_other]
  exact ⟨rfl, rfl⟩

/-- A lane as a training sequence begins. -/
theorem trains_lane {s : State} {n : Nat} {l : LaneState} (h : s.lanes[n]? = some l) :
    let q := (l.tseq + 1) % 256
    ∃ l', (s.trains n).lanes[n]? = some l' ∧ l'.retry = l.retry ∧ l'.tseq = q ∧ l'.train = s.trainPayload n q ∧ l'.silent = 0 ∧ l'.corrupt = 0 ∧
      l'.retryAt = none ∧ l'.sent = 0 ∧ l'.queue = [] ∧ l'.fill = none ∧ l'.scr = laneSeed n ∧
      l'.last = (if s.get (F.plnRolePrecode n) = 1 then 0 else 3) ∧ s.nowPs ≤ l'.base ∧ l'.base < s.nowPs + 4000 := by
  intro q
  refine ⟨_, updAt_some h, rfl, ?_, ?_, rfl, rfl, rfl, rfl, rfl, rfl, rfl, ?_, ?_, ?_⟩
  · rw [lane_of h]
  · rw [lane_of h]
  · simp [on_eq]
  · show s.nowPs ≤ s.nowPs + ((s.free % 4000 : Nat) : Int); omega
  · show s.nowPs + ((s.free % 4000 : Nat) : Int) < s.nowPs + 4000; omega

/-! A retry. -/

/-- The state in which a retry is counted. -/
def State.retryNoted (s : State) (n : Nat) : State :=
  (s.setLane n fun l => { l with retry := min 16 (l.retry + 1) }).count (F.plnStatusRetries n) 1

theorem retryNoted_frame (s : State) (n : Nat) : Frame [F.plnStatusRetries n] [.lane n] s (s.retryNoted n) :=
  (State.setLane_frame (Frame.refl _ _ s) n _ (by simp)).count (by simp)

theorem exec_retryStart (s : State) (n : Fin 96) : exec (.retryStart n) s =
    .next (if s.laneSt n = 4 then (s.retryNoted n).startTraining n else s) := rfl

/-- A retry puts out the blocks before it and stage A of its sequence. -/
theorem retryStart_spec {s : State} {n : Fin 96} {l : LaneState} (h : s.lanes[n.val]? = some l) (h4 : s.laneSt n = 4) :
    let q := (l.tseq + 1) % 256
    ∃ u l' new, exec (.retryStart n) s = .next u ∧
      Frame [F.plnStatusRetries n, F.plnStatusState n, F.plnResidCount n] [.lane n, .out, .free] s u ∧
      u.laneSt n = 1 ∧ u.get (F.plnResidCount n) = 0 ∧
      u.get (F.plnStatusRetries n) = min (fieldMax (F.plnStatusRetries n)) (s.get (F.plnStatusRetries n) + 1) ∧
      u.out = .stageA n (stageA (s.on (F.plnRolePrecode n))) :: (new ++ s.out) ∧
      u.lanes[n.val]? = some l' ∧ l'.retry = min 16 (l.retry + 1) ∧ l'.tseq = q ∧ l'.train = s.trainPayload n q ∧
      l'.silent = 0 ∧ l'.corrupt = 0 ∧ l'.retryAt = none ∧ l'.sent = 0 ∧ l'.queue = [] ∧ l'.fill = none ∧
      l'.scr = laneSeed n ∧ l'.last = (if s.get (F.plnRolePrecode n) = 1 then 0 else 3) ∧ s.nowPs ≤ l'.base ∧ l'.base < s.nowPs + 4000 := by
  intro q
  have hr := retryNoted_frame s n
  have hst : (s.retryNoted n).laneSt n = 4 := (hr.get (.ofBits rfl) (by simpa using .ofBits rfl)).trans h4
  have hlane : (s.retryNoted n).lanes[n.val]? = some { l with retry := min 16 (l.retry + 1) } := updAt_some h
  obtain ⟨l1, new, hf, h1, hs, ho, -, -⟩ := sendBlocks_sends hlane
    ((s.retryNoted n).blocksTo n ((s.retryNoted n).symbolAt n (s.retryNoted n).nowPs))
  have e : (s.retryNoted n).startTraining n = ((s.retryNoted n).laneTo n (s.retryNoted n).nowPs).trains n := by
    rw [startTraining_eq, if_neg (by rw [hst]; decide)]
  change Frame _ _ _ (State.laneTo _ _ _) at hf
  change (State.laneTo _ _ _).lanes[n.val]? = _ at h1
  change (State.laneTo _ _ _).out = _ at ho
  generalize (s.retryNoted n).laneTo n (s.retryNoted n).nowPs = t at e hf h1 ho
  have hall : Frame [F.plnStatusRetries n] [.lane n, .out] s t := (hr.mono (by simp) (by simp)).trans (hf.mono (by simp) (by simp))
  have hpre : t.get (F.plnRolePrecode n) = s.get (F.plnRolePrecode n) := hall.get (.ofBits rfl) (by simpa using .ofBases rfl rfl rfl)
  have hnow : t.nowPs = s.nowPs := by unfold State.nowPs; rw [hall.rest .time (by simp)]
  have htrain (q : Nat) : t.trainPayload n q = s.trainPayload n q := trainPayload_of (hall.reg (by simp [F.plnStatusRetries, R.plnStatus, R.plnRole]))
    (hall.reg (by simp [F.plnStatusRetries, R.plnStatus, R.plnSegment])) (hall.rest .active (by simp)) (hall.rest .sst (by simp)) q
  obtain ⟨l', hl', ha, hq, ht, hz⟩ := trains_lane h1
  rw [hs.tseq, htrain] at ht
  rw [hs.tseq] at hq
  rw [hnow, hpre] at hz
  refine ⟨t.trains n, l', new, ?_, ?_, (trains_state t n).1, (trains_state t n).2, ?_, ?_, hl', ha.trans hs.retry, hq, ht, hz⟩
  · rw [exec_retryStart, if_pos h4, e]
  · exact (hall.mono (by simp) (by simp)).trans ((trains_frame t n).mono (by simp) (by simp))
  · rw [(trains_frame t n).get (.ofBits rfl) (by simpa using ⟨.ofBits rfl, .ofBases rfl rfl rfl⟩), hf.get (.ofBits rfl) (by simp)]
    exact (count_get _ _ _ (.ofBits rfl)).trans (by rw [State.setLane_get])
  · show _ :: t.out = _
    rw [ho, on_eq, on_eq, hpre]
    rfl

/-! The listen window. -/

/-- The state in which a lane is ABSENT, its next retry due: told at the first time. -/
def State.laneAbsent (s : State) (n : Nat) : State :=
  let k := (s.lane n).retry
  let t := (s.setLane n fun l => { l with retryAt := some (s.time.ticks + min 1280 (20 * 2 ^ k) * 250000) }).put (F.plnStatusState n) 4
  if k = 0 then t.put (F.plnStatusFault n) 1 else t

theorem listenEnds_eq {s : State} {n : Nat} (h : s.laneSt n = 1 ∨ s.laneSt n = 2) :
    s.listenEnds n = if (s.lane n).retry = 0 then (s.laneAbsent n).raise (evLane n) else s.laneAbsent n := by
  unfold State.listenEnds State.laneAbsent
  rw [if_neg (by omega)]
  dsimp only
  split <;> rfl

/-- A lane that is not listening has no window to end. -/
theorem listenEnds_idle {s : State} {n : Nat} (h1 : s.laneSt n ≠ 1) (h2 : s.laneSt n ≠ 2) : s.listenEnds n = s := if_pos ⟨h2, h1⟩

theorem laneAbsent_frame (s : State) (n : Nat) :
    Frame (F.plnStatusState n :: (if (s.lane n).retry = 0 then [F.plnStatusFault n] else [])) [.lane n] s (s.laneAbsent n) := by
  have h := (State.setLane_frame (Frame.refl (F.plnStatusState n :: (if (s.lane n).retry = 0 then [F.plnStatusFault n] else [])) [.lane n] s) n
    (fun l => { l with retryAt := some (s.time.ticks + min 1280 (20 * 2 ^ (s.lane n).retry) * 250000) }) (by simp)).put
      (f := F.plnStatusState n) (v := 4) (by simp)
  unfold State.laneAbsent
  by_cases hk : (s.lane n).retry = 0
  · simp only [if_pos hk] at h ⊢
    exact h.put (by simp)
  · simp only [if_neg hk] at h ⊢
    exact h

theorem laneAbsent_state (s : State) (n : Nat) : (s.laneAbsent n).laneSt n = 4 := by
  unfold State.laneAbsent
  dsimp only
  split
  · exact (State.get_put_other _ (.ofBits rfl) (.ofBits rfl) _).trans (laneSt_put _ _ _ (by decide))
  · exact laneSt_put _ _ _ (by decide)

theorem laneAbsent_fault {s : State} {n : Nat} (h : (s.lane n).retry = 0) : (s.laneAbsent n).get (F.plnStatusFault n) = 1 := by
  unfold State.laneAbsent
  rw [if_pos h]
  exact get_put_of_lt _ (.ofBits rfl) (by simp [F.plnStatusFault])

theorem laneAbsent_lane {s : State} {n : Nat} {l : LaneState} (h : s.lanes[n]? = some l) :
    (s.laneAbsent n).lanes[n]? = some { l with retryAt := some (s.time.ticks + min 1280 (20 * 2 ^ l.retry) * 250000) } := by
  unfold State.laneAbsent
  rw [lane_of h]
  dsimp only
  split <;> exact updAt_some h

theorem exec_listenTimeout (s : State) (n : Fin 96) : exec (.listenTimeout n false) s = .next (s.listenEnds n) := rfl

/-! RETRAIN and TX_OFF. -/

section
variable {s : State} {w : Writer} {n : Fin 96} (ha : s.accepts w (R.plnCtrl n) = true)
include ha

theorem exec_retrain : exec (.retrain w n) s =
    .next (if s.inService n then ((s.breakTrial n).dropFrames n).beginService n else s) :=
  congrArg _ (State.writeBy_accepts ha)

theorem exec_txOff (off : Bool) : exec (.txOff w n off) s =
    let u := s.put (F.plnCtrlTxOff n) off.toNat
    .next (if off && !s.on (F.plnCtrlTxOff n) then u.laneOff n
      else if s.on (F.plnCtrlTxOff n) && !off && u.inService n then u.beginService n else u) :=
  congrArg _ (State.writeBy_accepts ha)

end

/-- Settles O30: what the end of a training sequence, of a listen window and of a back-off do to a lane, and its two commands. -/
theorem laneService : Obligations.LaneService := by
  unfold Obligations.LaneService
  refine fun s n l h => ⟨fun h1 => ?_, fun h1 => ?_, fun h12 => ?_, rfl, retryStart_spec h, fun h4 => ?_,
    fun w ha => ⟨fun hi => ?_, fun hi => ?_, fun off ho => ?_, fun ho => ?_, fun ho => ?_⟩⟩
  · obtain ⟨l', new, hf, hl, hs, ho, hn, ht⟩ := sendBlocks_sends h (2048 - l.sent)
    refine ⟨(s.sendBlocks n (2048 - l.sent)).put (F.plnStatusState n) 2, l', new, ?_, (hf.mono (by simp) (by simp)).put (by simp),
      laneSt_put _ _ _ (by decide), hl, hs.sent, hs.retry, hs.train, ho, hn, fun hq hh hfill m hm => ?_⟩
    · rw [exec_trainingSequenceEnd, if_pos h1, State.endTraining, lane_of h]
    · by_cases hlt : l.sent ≤ 2048
      · exact ht ⟨hq, hh, hfill⟩ (by omega) m hm
      · rw [List.eq_nil_of_length_eq_zero (hn.trans (by omega))] at hm; cases hm
  · rw [exec_trainingSequenceEnd, if_neg h1]
  · have e := exec_listenTimeout s n
    rw [listenEnds_eq h12, lane_of h] at e
    have hf := laneAbsent_frame s n
    rw [lane_of h] at hf
    refine ⟨s.laneAbsent n, ?_, hf, laneAbsent_state s n, fun hr => laneAbsent_fault (by rw [lane_of h]; exact hr), laneAbsent_lane h⟩
    rw [e]; split <;> rfl
  · rw [exec_retryStart, if_neg h4]
  · rw [exec_retrain ha, if_pos hi]
  · rw [exec_retrain ha, if_neg (by simp [hi])]
  · rw [exec_txOff ha, on_eq, ho]; cases off <;> rfl
  · rw [exec_txOff ha, on_off _ _ ho]; rfl
  · rw [exec_txOff ha, on_of _ _ ho]; rfl

end Sys2Proof.Machine
end

section
/-! The sideband (R204 to R207). -/

open Sys2Proof Sys2Proof.Machine

namespace Sys2Proof.Machine

/-! A frame given to a group. -/

theorem exec_sidebandPoll (s : State) (n : Fin 96) (low : BitVec 4) : exec (.sidebandPoll n low) s =
    .next (if s.on (F.plgSbCtrlSbEn (laneGroup n)) ∧ (s.laneSt n = 2 ∨ s.laneSt n = 3 ∨ s.laneSt n = 5) then s.sbSend (sbPoll n) low else s) := rfl

/-- A frame of lane n on a group with nothing under way goes out, or is abandoned at once. -/
theorem sbSend_free {s : State} {f : SbFrame} (h : s.sidebands[laneGroup f.lane]? = some ⟨none, none, []⟩) (low : BitVec 4) :
    let g := laneGroup f.lane
    let q := s.setSideband g fun b => { b with queue := b.queue ++ [f] }
    s.sbSend f low = if low.getLsbD g then (q.setSideband g fun b => { b with abandoned := some f, queue := [] }).noteSbCollision g
      else (q.setSideband g fun b => { b with sent := some f, queue := [] }).emit (.sideband g (sbBytes f.lane f.type f.payload)) := by
  intro g q
  have hq : q.sideband g = ⟨none, none, [f]⟩ := sideband_of (updAt_some h)
  show q.pumpSideband g low = _
  unfold State.pumpSideband
  rw [hq]
  rfl

theorem setSideband_twice {s : State} {g : Nat} {b : SbState} (h : s.sidebands[g]? = some b) (p q : SbState → SbState) :
    ((s.setSideband g p).setSideband g q).sidebands[g]? = some (q (p b)) := updAt_some (updAt_some h)

theorem setSideband_twice_frame (s : State) (g : Nat) (T : List Field) (p q : SbState → SbState) :
    Frame T [.sideband g] s ((s.setSideband g p).setSideband g q) :=
  State.setSideband_frame (State.setSideband_frame (Frame.refl _ _ s) _ _ (by simp)) _ _ (by simp)

/-! A frame that awaits its reply. -/

theorem exec_replyTimeout_met (s : State) (g : Fin 4) (low : BitVec 4) : exec (.replyTimeout g true low) s = .next s := by
  show execReplyTimeout g true low s = _
  unfold execReplyTimeout
  split <;> rfl

section
variable {s : State} {g : Fin 4} {b : SbState} (h : s.sidebands[g.val]? = some b)
include h

theorem exec_replyTimeout_idle (hs : b.sent = none) (low : BitVec 4) : exec (.replyTimeout g false low) s = .next s := by
  show execReplyTimeout g false low s = _
  unfold execReplyTimeout
  rw [sideband_of h, hs]

theorem exec_sidebandReply_idle (hs : b.sent = none) (r : List Byte) (low : BitVec 4) : exec (.sidebandReply g r low) s = .next s := by
  show execSidebandReply g r low s = _
  unfold execSidebandReply
  dsimp only
  rw [sideband_of h, hs]

theorem exec_sidebandRepeat_idle (ha : b.abandoned = none) (low : BitVec 4) : exec (.sidebandRepeat g low) s = .next s := by
  show execSidebandRepeat g low s = _
  unfold execSidebandRepeat
  dsimp only
  rw [sideband_of h, ha]

variable {f : SbFrame}

theorem exec_replyTimeout (hs : b.sent = some f) (low : BitVec 4) : exec (.replyTimeout g false low) s =
    .next (((s.setSideband g fun b => { b with sent := none }).noteNoReply f false).pumpSideband g low) := by
  show execReplyTimeout g false low s = _
  unfold execReplyTimeout
  rw [sideband_of h, hs]
  rfl

/-- A reply judged: damaged or foreign, a histogram, or a status. -/
theorem exec_sidebandReply (hs : b.sent = some f) (r : List Byte) (low : BitVec 4) : exec (.sidebandReply g r low) s =
    let t := s.setSideband g fun b => { b with sent := none }
    let p := (r.drop 3).take (leAt r 2 1)
    .next ((if f.answeredBy r = false then (t.count (F.plgSbErrsCrc g) 1).noteNoReply f true
      else if leAt r 1 1 = 0x82 then (t.setLane f.lane fun l => { l with silent := 0, corrupt := 0 }).setCal f.lane
        fun c => if c.phase = 2 then { c with phase := 3, hist := p } else c
      else (t.takeStatus f.lane p).afterStatus f).pumpSideband g low) := by
  have good : f.answeredBy r = (decide (r.length = leAt r 2 1 + 5) && (leAt r (leAt r 2 1 + 3) 2 == crc16 (r.take (leAt r 2 1 + 3))) &&
    (leAt r 0 1 == 0x80 + f.lane)) := rfl
  show execSidebandReply g r low s = _
  unfold execSidebandReply
  dsimp only
  rw [sideband_of h, hs]
  dsimp only
  simp only [good, Bool.not_eq_true']

theorem exec_sidebandRepeat (ha : b.abandoned = some f) (low : BitVec 4) : exec (.sidebandRepeat g low) s =
    let t := s.setSideband g fun b => { b with abandoned := none }
    .next (if low.getLsbD g then ((t.noteSbCollision g).noteNoReply f false).pumpSideband g low
      else (t.setSideband g fun b => { b with sent := some f }).emit (.sideband g (sbBytes f.lane f.type f.payload))) := by
  show execSidebandRepeat g low s = _
  unfold execSidebandRepeat
  dsimp only
  rw [sideband_of h, ha]

end

/-- Settles O31: a poll goes out on its group, and a frame that is out meets its reply, its timeout or its repeat. -/
theorem sidebandExchange : Obligations.SidebandExchange := by
  unfold Obligations.SidebandExchange
  refine ⟨fun s n b low h => ⟨fun he hs => ?_, fun he => ?_⟩, fun s g b f low h => ⟨fun hs => ?_, exec_replyTimeout_met s g low,
    fun hs => ⟨exec_replyTimeout_idle h hs low, fun r => exec_sidebandReply_idle h hs r low⟩, fun ha => ⟨fun hl => ?_, fun hl => ?_⟩,
    fun ha => exec_sidebandRepeat_idle h ha low⟩⟩
  · have e : exec (.sidebandPoll n low) s = .next (s.sbSend (sbPoll n) low) := by
      rw [exec_sidebandPoll, if_pos ⟨on_of _ _ he, hs⟩]
    refine ⟨e, fun hb hl => ?_, fun hb hl => ?_⟩
    · subst hb
      have e := e.trans (congrArg _ (sbSend_free (f := sbPoll n) h low))
      rw [if_neg (by simp [sbPoll, hl])] at e
      exact .quiet e ((setSideband_twice_frame _ _ [] _ _).mono (by simp) (by simp [sbPoll]) |>.emit (by simp)) ⟨setSideband_twice h _ _, rfl⟩
    · subst hb
      have e := e.trans (congrArg _ (sbSend_free (f := sbPoll n) h low))
      rw [if_pos (by simpa [sbPoll] using hl)] at e
      exact .intro e ((setSideband_twice_frame _ _ _ _ _).count (by simp [sbPoll])) ⟨setSideband_twice h _ _, count_get _ _ _ (.ofBits rfl)⟩
  · rw [exec_sidebandPoll, if_neg (by simp [on_off _ _ he])]
  · refine ⟨s.setSideband g fun b => { b with sent := none }, State.setSideband_frame (Frame.refl _ _ s) _ _ (by simp), updAt_some h,
      exec_replyTimeout h hs low, fun r hr => ?_, fun r hr ht => ?_, fun r hr ht => ?_⟩
    · rw [exec_sidebandReply h hs]; dsimp only; rw [if_pos hr]
    · rw [exec_sidebandReply h hs]; dsimp only; rw [if_neg (by simp [hr]), if_pos ht]
    · rw [exec_sidebandReply h hs]; dsimp only; rw [if_neg (by simp [hr]), if_neg ht]
  · have e := exec_sidebandRepeat h ha low
    rw [hl] at e
    exact .quiet e ((setSideband_twice_frame _ _ [] _ _).mono (by simp) (by simp) |>.emit (by simp)) ⟨setSideband_twice h _ _, rfl⟩
  · refine ⟨s.setSideband g fun b => { b with abandoned := none }, State.setSideband_frame (Frame.refl _ _ s) _ _ (by simp), updAt_some h, ?_⟩
    rw [exec_sidebandRepeat h ha, hl]
    rfl

end Sys2Proof.Machine
end

section
/-! Temperature, the ends of swaps and aging (R203, R411 to R416, R420). -/

open Sys2Proof Sys2Proof.Machine

namespace Sys2Proof.Machine

/-! Temperature. -/

theorem exec_thermalThreshold (s : State) (temp : BitVec 16) : exec (.thermalThreshold temp) s =
    let warn := decide (sval 16 (s.get F.rlfTempWarn) ≤ temp.toInt)
    let crit := decide ((2000 : Int) ≤ temp.toInt)
    let t := { s.put F.rlfTempNow temp.toNat with relief := { s.relief with thermalWarn := warn, thermalCrit := crit } }
    .next ((t.raiseIf (warn && !s.relief.thermalWarn) 720).raiseIf (crit && !s.relief.thermalCrit) 721) := rfl

/-- Two events raised, each on its condition. -/
theorem raiseIf_raiseIf (s : State) (b c : Bool) (i j : Nat) :
    (s.raiseIf b i).raiseIf c j = ((if b then [i] else []) ++ (if c then [j] else [])).foldl State.raise s := by
  cases b <;> cases c <;> rfl

/-! A lane swap's lock window. -/

theorem exec_swapLockTimeout_idle {s : State} {lane : Fin 96} (h : s.laneSwap lane = none) (met : Bool) :
    exec (.swapLockTimeout lane met) s = .next s := by
  show execSwapLockTimeout lane met s = _
  unfold execSwapLockTimeout
  rw [h]

theorem exec_swapLockTimeout {s : State} {lane : Fin 96} {p : PendingSwap} (h : s.laneSwap lane = some p) (met : Bool) :
    exec (.swapLockTimeout lane met) s = .next (if met ∨ p.stage = 0 ∨ s.laneUp lane then s else (s.listenEnds lane).endSwap p 3) := by
  show execSwapLockTimeout lane met s = _
  unfold execSwapLockTimeout
  rw [h]

theorem exec_swapLockTimeout_met (s : State) (lane : Fin 96) : exec (.swapLockTimeout lane true) s = .next s := by
  cases h : s.laneSwap lane with
  | none => exact exec_swapLockTimeout_idle h true
  | some p => rw [exec_swapLockTimeout h, if_pos (.inl rfl)]

theorem exec_swapLockTimeout_late {s : State} {lane : Fin 96} {p : PendingSwap} (h : s.laneSwap lane = some p) (hp : p.stage ≠ 0)
    (hu : s.laneUp lane = false) : exec (.swapLockTimeout lane false) s = .next ((s.listenEnds lane).endSwap p 3) := by
  rw [exec_swapLockTimeout h, if_neg (by simp [hp, hu])]

/-- A lane that listens is not up. -/
theorem laneUp_of_listening {s : State} {n : Nat} (h : s.laneSt n = 1 ∨ s.laneSt n = 2) : s.laneUp n = false := by
  unfold State.laneUp
  rcases h with h | h <;> rw [h] <;> rfl

/-! A chain slice swap. -/

theorem exec_chainSliceSwap_idle {s : State} {p : Fin 3} {k : Fin 4}
    (h : (s.relief.waiting.find? fun x => x.kind == 1 && x.unit == chainUnit p k) = none) : exec (.chainSliceSwap p k) s = .next s := by
  show execChainSliceSwap p k s = _
  unfold execChainSliceSwap
  rw [h]

/-- The relief part with slice k of port p relieved. -/
def ReliefState.withChain (r : ReliefState) (p k : Nat) : ReliefState :=
  { r with chain := r.chain ++ [(p, k)], wornChain := r.wornChain.filter (· != 5 * p + k) }

theorem exec_chainSliceSwap {s : State} {p : Fin 3} {k : Fin 4} {x : PendingSwap}
    (h : (s.relief.waiting.find? fun x => x.kind == 1 && x.unit == chainUnit p k) = some x) : exec (.chainSliceSwap p k) s =
    .next ((({ s with relief := s.relief.withChain p k }).put (F.chnpStatusRelief p) 1).endSwap x 0) := by
  show execChainSliceSwap p k s = _
  unfold execChainSliceSwap
  rw [h]
  rfl

/-! Aging measurements. -/

/-- The reach oscillators taken, in order. -/
def State.agedReaches (s : State) (reaches : List (BitVec 16)) : State :=
  (List.range (min 68 reaches.length)).foldl (fun t n =>
    let u := t.put (F.rlfReachSlow n) (reaches.getD n 0).toNat
    if (u.get F.rlfAgeSwap : Int) ≤ (reaches.getD n 0).toInt then u.reachWorn n else u) s

section
variable {s : State} (hw : s.inWinter = false) (hp : s.purser.serving = true)
include hw hp

theorem exec_agingMeasurement_reaches (reaches : List (BitVec 16)) : exec (.agingMeasurement reaches []) s =
    let t := s.agedReaches reaches
    .next (if t.agedSince s then t.storeOwn 5 (Config.agingRecord (reaches.map (·.toNat))) else t) := by
  show execAgingMeasurement reaches [] s = _
  unfold execAgingMeasurement
  rw [if_neg (by simp [hw, hp]), List.append_nil]
  rfl

/-- One region oscillator measured. -/
theorem exec_agingMeasurement_region (v : BitVec 16) : exec (.agingMeasurement [] [v]) s =
    let u := s.put (F.rlfRoSlow 0) v.toNat
    let high := decide ((u.get F.rlfAgeWarn : Int) ≤ v.toInt)
    let w := if high then keyInsert u.relief.warned 0 else u.relief.warned.filter (· != 0)
    let t := ({ u with relief := { u.relief with warned := w } }).raiseIf (high && !u.relief.warned.contains 0) 704
    .next (if t.agedSince s then t.storeOwn 5 (Config.agingRecord [v.toNat]) else t) := by
  show execAgingMeasurement [] [v] s = _
  unfold execAgingMeasurement
  rw [if_neg (by simp [hw, hp])]
  rfl

end

/-- One reach oscillator measured: its reach wears when it is at the swap limit. -/
theorem agedReaches_singleton (s : State) (v : BitVec 16) : s.agedReaches [v] =
    if (s.get F.rlfAgeSwap : Int) ≤ v.toInt then (s.put (F.rlfReachSlow 0) v.toNat).reachWorn 0 else s.put (F.rlfReachSlow 0) v.toNat := by
  have h : (s.put (F.rlfReachSlow 0) v.toNat).get F.rlfAgeSwap = s.get F.rlfAgeSwap :=
    State.get_put_other _ (.inl (by decide)) (.ofBits rfl) _
  rw [← h]
  rfl

/-- No reach becomes WORN and no region begins to warn when the registers of the reaches' WORN and the regions that warn stay. -/
theorem agedSince_false {s t : State} (hr : ∀ n, t.get (F.rlfReachWorn n) = s.get (F.rlfReachWorn n)) (hw : t.relief.warned = s.relief.warned) :
    t.agedSince s = false := by
  unfold State.agedSince
  simp only [on_eq, hr, hw]
  simp

theorem agedSince_of_warned {s t : State} {r : Nat} (ht : r ∈ t.relief.warned) (hs : r ∉ s.relief.warned) : t.agedSince s = true := by
  unfold State.agedSince
  simp only [Bool.or_eq_true]
  exact .inr (List.any_eq_true.2 ⟨r, ht, by simpa using hs⟩)

/-- Settles O34: temperature samples, the windows and ends of swaps, and what an aging measurement keeps, wears and stores. -/
theorem agingSwapsAndTemperature : Obligations.AgingSwapsAndTemperature := by
  unfold Obligations.AgingSwapsAndTemperature
  refine fun s => ⟨fun temp => ?_, fun lane p h => ⟨fun hp hl => ?_, fun hp hu h1 h2 => ?_, fun hp => ?_⟩,
    fun lane h => exec_swapLockTimeout_idle h false, fun lane => exec_swapLockTimeout_met s lane, fun p k => ⟨fun x hx => ?_, exec_chainSliceSwap_idle⟩,
    fun hw hp => ⟨exec_agingMeasurement_reaches hw hp, fun v hv => ?_, fun v hv => ?_, fun v hv hn => ?_⟩⟩
  · have e := exec_thermalThreshold s temp
    dsimp only at e
    rw [raiseIf_raiseIf] at e
    exact .intro e (reliefPart ((Frame.refl _ _ s).put (by simp)) _ (by simp)) ⟨get_put_of_lt _ (.ofBits rfl) temp.isLt, rfl⟩
  · refine ⟨s.laneAbsent lane, ?_, laneAbsent_frame s lane, laneAbsent_state s lane, laneAbsent_fault⟩
    rw [exec_swapLockTimeout_late h hp (laneUp_of_listening hl), listenEnds_eq hl]
  · rw [exec_swapLockTimeout_late h hp hu, listenEnds_idle h1 h2]
  · rw [exec_swapLockTimeout h, if_pos (.inr hp)]
  · exact ⟨_, exec_chainSliceSwap hx, (reliefPart (Frame.refl _ _ s) _ (by simp)).put (by simp), get_put_of_lt _ (.ofBits rfl) (by simp [F.chnpStatusRelief]), rfl, rfl⟩
  · have e := exec_agingMeasurement_reaches hw hp [v]
    dsimp only at e
    rw [agedReaches_singleton, if_neg (show ¬ (s.get F.rlfAgeSwap : Int) ≤ v.toInt by omega), agedSince_false (t := s.put (F.rlfReachSlow 0) v.toNat) (fun n => State.get_put_other _ (.ofBits rfl) (.ofBits rfl) _) rfl] at e
    exact .quiet e ((Frame.refl _ _ s).put (by simp)) (get_put_of_lt _ (.ofBits rfl) v.isLt)
  · rw [exec_agingMeasurement_reaches hw hp, agedReaches_singleton, if_pos hv]
    rfl
  · have hg : (s.put (F.rlfRoSlow 0) v.toNat).get F.rlfAgeWarn = s.get F.rlfAgeWarn := State.get_put_other _ (.inl (by decide)) (.ofBits rfl) _
    have e := exec_agingMeasurement_region hw hp v
    dsimp only [State.put_relief] at e
    simp only [hg, decide_eq_true hv, ite_true, show s.relief.warned.contains 0 = false by simpa using hn] at e
    refine ⟨{ s.put (F.rlfRoSlow 0) v.toNat with relief := { s.relief with warned := keyInsert s.relief.warned 0 } }, ?_,
      reliefPart ((Frame.refl _ _ s).put (by simp)) _ (by simp), get_put_of_lt _ (.ofBits rfl) v.isLt, rfl⟩
    refine e.trans ?_
    rw [if_pos (agedSince_of_warned (r := 0) ?_ hn)]
    · rfl
    · show 0 ∈ (State.raise _ 704).relief.warned
      rw [raise_relief]
      exact (keyInsert_mem _ _ _).2 (.inl rfl)

end Sys2Proof.Machine
end

section
/-! The equalizers of the chain receivers (R224, R228 to R230). -/

open Sys2Proof Sys2Proof.Machine

namespace Sys2Proof.Machine

/-- A frame stated with whole registers in place of fields of them. -/
theorem Frame.widen {T T' : List Field} {P : List Part} {s t : State} (h : Frame T P s t) (hT : ∀ f ∈ T, f ∈ T' ∨ whole f.addr ∈ T') : Frame T' P s t := by
  refine ⟨fun a b hb hc => h.regs a b hb fun ⟨f, hf, ha, hl, hh⟩ => hc ?_, h.rest, h.queue⟩
  rcases hT f hf with hm | hm
  · exact ⟨f, hm, ha, hl, hh⟩
  · exact ⟨whole f.addr, hm, ha, Nat.zero_le _, Nat.le_of_lt_succ hb⟩

/-- Two fields in registers of one doubly indexed array of units, at different offsets from the unit's first. -/
theorem Apart.ofGrid {f g : Field} {a b x y : Nat} (hf : f.addr = a + x + y) (hg : g.addr = b + x + y) (h : Nat.beq a b = false) : Apart f g :=
  .ofBases (hf.trans (Nat.add_assoc ..)) (hg.trans (Nat.add_assoc ..)) h

/-- A change of one element depends on its value there alone. -/
theorem updAt_congr {α : Type} {l : List α} {i : Nat} {f g : α → α} {x : α} (h : l[i]? = some x) (hx : f x = g x) : updAt l i f = updAt l i g := by
  refine List.ext_getElem? fun j => ?_
  by_cases hj : i = j
  · subst hj; rw [updAt_some h, updAt_some h, hx]
  · rw [updAt_other _ _ _ _ hj, updAt_other _ _ _ _ hj]

theorem setDfe_frame {T : List Field} {P : List Part} {s t : State} (h : Frame T P s t) (p k : Nat) (f : DfeState → DfeState) (m : .chain ∈ P) :
    Frame T P s (t.setDfe p k f) := chainPart h _ m

/-! ADAPTING and the code of a slice. -/

theorem showAdapting_frame {T : List Field} {P : List Part} {s t : State} (h : Frame T P s t) (p k : Nat) (m : F.chnrxStatusAdapting p k ∈ T) :
    Frame T P s (t.showAdapting p k) := h.put m

theorem showAdapting_get (s : State) (p k : Nat) : (s.showAdapting p k).get (F.chnrxStatusAdapting p k) =
    (!s.on (F.chnrxStatusFrozen p k) && !s.on (F.chnrxStatusForced p k) && s.get (F.chnrxStatusLastCode p k) != 0x522).toNat := by
  rw [showAdapting_eq]
  exact get_put_of_lt _ (.ofBits rfl) (Bool.toNat_lt _)

/-- A slice adapts unless it is frozen, forced, or its idle content failed. -/
theorem showAdapting_on_iff (s : State) (p k : Nat) : (s.showAdapting p k).get (F.chnrxStatusAdapting p k) = 1 ↔
    s.get (F.chnrxStatusFrozen p k) = 0 ∧ s.get (F.chnrxStatusForced p k) = 0 ∧ s.get (F.chnrxStatusLastCode p k) ≠ 0x522 := by
  rw [showAdapting_get, ← on_false_iff s (f := F.chnrxStatusFrozen p k) rfl, ← on_false_iff s (f := F.chnrxStatusForced p k) rfl,
    Bool.toNat_eq_one, Bool.and_eq_true, Bool.and_eq_true, Bool.not_eq_true', Bool.not_eq_true', bne_iff_ne, and_assoc]

theorem showAdapting_off {s : State} {p k : Nat} (h : s.get (F.chnrxStatusForced p k) = 1 ∨ s.get (F.chnrxStatusLastCode p k) = 0x522) :
    (s.showAdapting p k).get (F.chnrxStatusAdapting p k) = 0 := by
  rw [showAdapting_get]
  rcases h with h | h
  · rw [on_of _ _ h]; simp
  · rw [h]; simp

theorem showAdapting_get_other (s : State) {p k : Nat} {f : Field} (hf : InWord f) (h : Apart (F.chnrxStatusAdapting p k) f) :
    (s.showAdapting p k).get f = s.get f := State.get_put_other _ h hf _

/-- The state in which slice k of port p shows a code. -/
def State.sliceCoded (s : State) (p k code : Nat) : State := (s.put (F.chnrxStatusLastCode p k) code).showAdapting p k

theorem sliceCode_eq (s : State) (p k code : Nat) : s.sliceCode p k code =
    (if code = 0 ∨ s.get (F.chnrxStatusLastCode p k) = code then [] else [484]).foldl State.raise (s.sliceCoded p k code) := by
  unfold State.sliceCode State.sliceCoded
  rw [State.raiseIf_eq]
  by_cases h : code = 0
  · simp [h]
  · by_cases hw : s.get (F.chnrxStatusLastCode p k) = code <;> simp [h, hw]

theorem sliceCoded_frame (s : State) (p k code : Nat) : Frame [F.chnrxStatusLastCode p k, F.chnrxStatusAdapting p k] [] s (s.sliceCoded p k code) :=
  showAdapting_frame ((Frame.refl _ _ s).put (by simp)) p k (by simp)

theorem sliceCoded_code (s : State) (p k : Nat) {code : Nat} (h : code < 4096) : (s.sliceCoded p k code).get (F.chnrxStatusLastCode p k) = code :=
  (showAdapting_get_other _ (.ofBits rfl) (.ofBits rfl)).trans (get_put_of_lt _ (.ofBits rfl) h)

theorem sliceCoded_adapting_iff (s : State) (p k : Nat) {code : Nat} (h : code < 4096) : (s.sliceCoded p k code).get (F.chnrxStatusAdapting p k) = 1 ↔
    s.get (F.chnrxStatusFrozen p k) = 0 ∧ s.get (F.chnrxStatusForced p k) = 0 ∧ code ≠ 0x522 := by
  unfold State.sliceCoded
  rw [showAdapting_on_iff, State.get_put_other _ (.ofBits rfl) (.ofBits rfl), State.get_put_other _ (.ofBits rfl) (.ofBits rfl),
    get_put_of_lt _ (.ofBits rfl) h]

theorem exec_chainStatsStarved (s : State) (p : Fin 3) (k : Fin 5) (met : Bool) : exec (.chainStatsStarved p k met) s =
    .next (if met ∨ s.portSt p = 0 then s else s.sliceCode p k 0x524) := rfl

theorem exec_densitySpanEnd_slice {s : State} {p : Fin 3} (h : s.portSt p ≠ 0) (k : Fin 5) (count errors : BitVec 17) (low : BitVec 4) :
    exec (.densitySpanEnd (.slice p k count errors) low) s = .next (s.sliceSpan p k count.toNat errors.toNat) := by
  show Host.Outcome.next (if s.portSt p = 0 then _ else _) = _
  rw [if_neg h]

/-- The state after a span without errors that is dense enough. -/
def State.sliceDense (s : State) (p k count : Nat) : State :=
  (((s.sliceCoded p k 0).put (F.chnrxDensity p k) (min 255 (rhe 8 (count : Int)).toNat)).put (F.chnrxStatusFrozen p k) 0).showAdapting p k

theorem sliceSpan_dense {s : State} {p k count : Nat} (h : 256 * s.get (F.ploCalCtrlTdMin 0) < count) :
    s.sliceSpan p k count 0 = s.sliceDense p k count := by
  unfold State.sliceSpan State.sliceErrors
  rw [if_neg (by decide), if_pos rfl, sliceCode_eq, if_pos (.inl rfl), List.foldl_nil, decide_eq_false (by omega)]
  rfl

theorem sliceDense_frame (s : State) (p k count : Nat) : Frame [F.chnrxStatusLastCode p k, F.chnrxStatusAdapting p k, F.chnrxStatusFrozen p k,
    F.chnrxDensity p k] [] s (s.sliceDense p k count) :=
  showAdapting_frame ((((sliceCoded_frame s p k 0).mono (by simp) (by simp)).put (by simp)).put (by simp)) p k (by simp)

theorem sliceDense_get (s : State) (p k count : Nat) : (s.sliceDense p k count).get (F.chnrxStatusLastCode p k) = 0 ∧
    (s.sliceDense p k count).get (F.chnrxStatusFrozen p k) = 0 ∧
    (s.sliceDense p k count).get (F.chnrxDensity p k) = min 255 (rhe 8 (count : Int)).toNat := by
  unfold State.sliceDense
  refine ⟨?_, ?_, ?_⟩
  · rw [showAdapting_get_other _ (.ofBits rfl) (.ofBits rfl), State.get_put_other _ (.ofBits rfl) (.ofBits rfl),
      State.get_put_other _ (.ofGrid rfl rfl rfl) (.ofBits rfl), sliceCoded_code _ _ _ (by decide)]
  · rw [showAdapting_get_other _ (.ofBits rfl) (.ofBits rfl)]
    exact get_put_of_lt _ (.ofBits rfl) (by simp [F.chnrxStatusFrozen])
  · rw [showAdapting_get_other _ (.ofBits rfl) (.ofGrid rfl rfl rfl), State.get_put_other _ (.ofGrid rfl rfl rfl) (.ofBits rfl)]
    exact get_put_of_lt _ (.ofBits rfl) (by simp [F.chnrxDensity])

/-! FORCE. -/

theorem setCtle_frame {T : List Field} {P : List Part} {s t : State} (h : Frame T P s t) (p k v : Nat) (m : F.chnrxEqCtle p k ∈ T) (hm : .chain ∈ P) :
    Frame T P s (t.setCtle p k v) := by
  unfold State.setCtle
  split
  · exact h
  · exact setDfe_frame (h.put m) p k _ hm

theorem exec_chainRxForce {s : State} {w : Writer} {p : Fin 3} {k : Fin 5} (ha : s.accepts w (R.chnrxForce p k) = true) (force : Bool) (eq : BitVec 28) :
    exec (.chainRxForce w p k force eq) s =
    let u := s.puts [(F.chnrxForceForce p k, force.toNat), (F.chnrxForceEq p k, eq.toNat), (F.chnrxStatusForced p k, force.toNat)]
    .next ((if force then (u.setCtle p k (fieldOf (F.chnrxEqCtle p k) (eq.setWidth 32))).setReg (R.chnrxEq p k) (eq.setWidth 32)
      else u).showAdapting p k) := congrArg _ (State.writeBy_accepts ha)

/-- The three fields that FORCE writes. -/
theorem forced_get (s : State) (p k : Nat) (force : Bool) (eq : BitVec 28) :
    let u := s.puts [(F.chnrxForceForce p k, force.toNat), (F.chnrxForceEq p k, eq.toNat), (F.chnrxStatusForced p k, force.toNat)]
    u.get (F.chnrxForceForce p k) = force.toNat ∧ u.get (F.chnrxForceEq p k) = eq.toNat ∧ u.get (F.chnrxStatusForced p k) = force.toNat := by
  intro u
  have hb : force.toNat < 2 := Bool.toNat_lt _
  have he := eq.isLt
  refine ⟨?_, ?_, ?_⟩ <;>
    simp (disch := first | exact .ofBits rfl | exact .ofGrid rfl rfl rfl) only [u, State.puts_cons, State.puts_nil, State.get_put_same, State.get_put_other]
  · exact Nat.mod_eq_of_lt hb
  · exact Nat.mod_eq_of_lt he
  · exact Nat.mod_eq_of_lt hb

/-- FORCE on: the equalizer takes the values given, and the slice adapts no more. -/
theorem chainRxForce_on {s : State} {w : Writer} {p : Fin 3} {k : Fin 5} (ha : s.accepts w (R.chnrxForce p k) = true) (eq : BitVec 28) :
    Yields (.chainRxForce w p k true eq) s [] [F.chnrxForceForce p k, F.chnrxForceEq p k, F.chnrxStatusForced p k,
      F.chnrxStatusAdapting p k, whole (R.chnrxEq p k)] [.chain] fun u =>
      u.get (F.chnrxForceForce p k) = 1 ∧ u.get (F.chnrxForceEq p k) = eq.toNat ∧ u.get (F.chnrxStatusForced p k) = 1 ∧
      u.get (F.chnrxStatusAdapting p k) = 0 ∧ u.reg (R.chnrxEq p k) = eq.setWidth 32 := by
  have e := exec_chainRxForce ha true eq
  have hf := (Frame.refl [F.chnrxForceForce p k, F.chnrxForceEq p k, F.chnrxStatusForced p k] [.chain] s).puts
    (l := [(F.chnrxForceForce p k, true.toNat), (F.chnrxForceEq p k, eq.toNat), (F.chnrxStatusForced p k, true.toNat)]) (by simp)
  obtain ⟨h1, h2, h3⟩ := forced_get s p k true eq
  dsimp only at e h1 h2 h3
  generalize s.puts _ = u at e hf h1 h2 h3
  rw [if_pos rfl] at e
  have hc := setCtle_frame (Frame.refl [F.chnrxEqCtle p k] [.chain] u) p k (fieldOf (F.chnrxEqCtle p k) (eq.setWidth 32)) (by simp) (by simp)
  generalize u.setCtle p k (fieldOf (F.chnrxEqCtle p k) (eq.setWidth 32)) = v at e hc
  have read (f : Field) (hi : InWord f) (hn : f.addr ≠ R.chnrxEq p k) (hs : Apart (F.chnrxStatusAdapting p k) f) :
      ((v.setReg (R.chnrxEq p k) (eq.setWidth 32)).showAdapting p k).get f = u.get f := by
    rw [showAdapting_get_other _ hi hs, State.get_of_reg (State.reg_setReg_other _ _ hn)]
    exact hc.get hi (by simpa using .inl hn.symm)
  have n1 : R.chnrxForce p k ≠ R.chnrxEq p k := by simp [R.chnrxForce, R.chnrxEq]
  have n2 : R.chnrxStatus p k ≠ R.chnrxEq p k := by simp [R.chnrxStatus, R.chnrxEq]
  refine .quiet e (showAdapting_frame (Frame.setReg ?_ (by simp)) p k (by simp)) ⟨?_, ?_, ?_, showAdapting_off (.inl ?_), ?_⟩
  · refine ((hf.mono (by simp) (by simp)).trans (hc.mono (T' := F.chnrxEqCtle p k :: [F.chnrxForceForce p k, F.chnrxForceEq p k,
      F.chnrxStatusForced p k]) (by simp) (by simp))).widen ?_
    simp [F.chnrxEqCtle]
  · exact (read _ (.ofBits rfl) n1 (.ofBits rfl)).trans h1
  · exact (read _ (.ofBits rfl) n1 (.ofGrid rfl rfl rfl)).trans h2
  · exact (read _ (.ofBits rfl) n2 (.ofBits rfl)).trans h3
  · rw [State.get_of_reg (State.reg_setReg_other _ _ n2), hc.get (.ofBits rfl) (by simpa using .inl n2.symm)]
    exact h3
  · rw [showAdapting_eq, State.reg_put_other _ n2.symm, State.reg_setReg_same]

/-- FORCE off: the slice adapts on unless it is frozen or its idle content failed. -/
theorem chainRxForce_off {s : State} {w : Writer} {p : Fin 3} {k : Fin 5} (ha : s.accepts w (R.chnrxForce p k) = true) (eq : BitVec 28) :
    Yields (.chainRxForce w p k false eq) s [] [F.chnrxForceForce p k, F.chnrxForceEq p k, F.chnrxStatusForced p k,
      F.chnrxStatusAdapting p k] [] fun u =>
      u.get (F.chnrxForceForce p k) = 0 ∧ u.get (F.chnrxForceEq p k) = eq.toNat ∧ u.get (F.chnrxStatusForced p k) = 0 ∧
      (u.get (F.chnrxStatusAdapting p k) = 1 ↔ s.get (F.chnrxStatusFrozen p k) = 0 ∧ s.get (F.chnrxStatusLastCode p k) ≠ 0x522) := by
  have e := exec_chainRxForce ha false eq
  have hf := (Frame.refl [F.chnrxForceForce p k, F.chnrxForceEq p k, F.chnrxStatusForced p k] [] s).puts
    (l := [(F.chnrxForceForce p k, false.toNat), (F.chnrxForceEq p k, eq.toNat), (F.chnrxStatusForced p k, false.toNat)]) (by simp)
  obtain ⟨h1, h2, h3⟩ := forced_get s p k false eq
  dsimp only at e h1 h2 h3
  generalize s.puts _ = u at e hf h1 h2 h3
  rw [if_neg (by decide)] at e
  refine .quiet e (showAdapting_frame (hf.mono (by simp) (by simp)) p k (by simp)) ⟨?_, ?_, ?_, ?_⟩
  · exact (showAdapting_get_other _ (.ofBits rfl) (.ofBits rfl)).trans h1
  · exact (showAdapting_get_other _ (.ofBits rfl) (.ofGrid rfl rfl rfl)).trans h2
  · exact (showAdapting_get_other _ (.ofBits rfl) (.ofBits rfl)).trans h3
  · rw [showAdapting_on_iff, h3, hf.get (.ofBits rfl) (by simpa using ⟨.ofBits rfl, .ofGrid rfl rfl rfl, .ofBits rfl⟩),
      hf.get (.ofBits rfl) (by simpa using ⟨.ofGrid rfl rfl rfl, .ofGrid rfl rfl rfl, .ofBits rfl⟩)]
    simp

/-! The CTLE. -/

theorem exec_ctleInterval_idle {s : State} {p : Fin 3} {k : Fin 5}
    (h : s.get (F.chnrxStatusAdapting p k) = 0 ∨ s.portSt p = 0 ∨ s.get (F.chnrxStatusLastCode p k) = 0x524) (hf lf : Nat) :
    exec (.ctleInterval p k hf lf) s = .next s := by
  refine if_pos ?_
  rcases h with h | h | h
  · exact .inl (by rw [on_off _ _ h]; rfl)
  · exact .inr (.inl h)
  · exact .inr (.inr h)

/-- The CTLE after a comparison of the two energies. -/
def ctleNext (now hf lf : Nat) : Nat := if hf * 32 < lf * 31 then min 15 (now + 1) else if lf * 33 < hf * 32 then now - 1 else now

theorem exec_ctleInterval {s : State} {p : Fin 3} {k : Fin 5} (ha : s.get (F.chnrxStatusAdapting p k) = 1) (hp : s.portSt p ≠ 0)
    (hc : s.get (F.chnrxStatusLastCode p k) ≠ 0x524) (hf lf : Nat) :
    exec (.ctleInterval p k hf lf) s = .next (s.setCtle p k (ctleNext (s.get (F.chnrxEqCtle p k)) hf lf)) := by
  show execCtleInterval p k hf lf s = _
  unfold execCtleInterval ctleNext
  rw [if_neg (by simp [on_of _ _ ha, hp, hc])]
  dsimp only
  split
  · rfl
  · split
    · rfl
    · unfold State.setCtle; rw [if_pos rfl]

theorem setCtle_get (s : State) (p k : Nat) {v : Nat} (hv : v < 16) : (s.setCtle p k v).get (F.chnrxEqCtle p k) = v := by
  unfold State.setCtle
  split
  · next h => exact h
  · exact get_put_of_lt _ (.ofBits rfl) hv

/-- A CTLE that changes restarts the accumulators. -/
theorem setCtle_chain (s : State) (p k v : Nat) : (s.setCtle p k v).chain = { s.chain with dfe := updAt s.chain.dfe (5 * p + k) (fun x =>
    if v = s.get (F.chnrxEqCtle p k) then x else { x with acc := [0, 0, 0] }) } := by
  unfold State.setCtle
  by_cases h : s.get (F.chnrxEqCtle p k) = v
  · rw [if_pos h]
    simp only [if_pos h.symm, updAt]
    rw [show (fun x : DfeState => x) = id from rfl, List.modify_id]
  · rw [if_neg h]
    simp only [if_neg (Ne.symm h)]
    rfl

theorem ctleNext_lt {now : Nat} (h : now < 16) (hf lf : Nat) : ctleNext now hf lf < 16 := by
  unfold ctleNext
  split
  · omega
  · split <;> omega

/-! The DFE. -/

theorem exec_dfeStep_idle {s : State} {p : Fin 3} {k : Fin 5} (h : s.get (F.chnrxStatusAdapting p k) = 0 ∨ s.portSt p = 0)
    (l : List (Option Bool × Fin 4)) : exec (.dfeStep p k l) s = .next s :=
  if_pos (h.imp_left fun h => by rw [on_off _ _ h]; rfl)

/-- The sign of an idle symbol's error. -/
def errorSign : Option Bool → Int
  | none => 0
  | some up => if up then 1 else -1

theorem exec_dfeStep {s : State} {p : Fin 3} {k : Fin 5} (ha : s.get (F.chnrxStatusAdapting p k) = 1) (hp : s.portSt p ≠ 0)
    (l : List (Option Bool × Fin 4)) : exec (.dfeStep p k l) s = .next (l.foldl (fun t x => t.dfeSymbol p k (errorSign x.1) x.2) s) := by
  show execDfeStep p k l s = _
  unfold execDfeStep
  rw [if_neg (by simp [on_of _ _ ha, hp])]
  rfl

/-- Tap i stepped when its accumulator a is at its limit. -/
def State.stepTap (s : State) (p k i : Nat) (a : Int) : State :=
  if a.natAbs < 1024 then s else s.put (dfeTap p k i) (ofSval 8 (clampI (-128) 127 (sval 8 (s.get (dfeTap p k i)) + a.sign)))

theorem stepTap_frame {T : List Field} {P : List Part} {s t : State} (h : Frame T P s t) {p k i : Nat} (a : Int) (m : dfeTap p k i ∈ T) :
    Frame T P s (t.stepTap p k i a) := by
  unfold State.stepTap
  split
  · exact h
  · exact h.put m

theorem stepTap_chain (s : State) (p k i : Nat) (a : Int) : (s.stepTap p k i a).chain = s.chain := by
  unfold State.stepTap
  split <;> rfl

theorem dfeTap_inWord (p k i : Nat) : InWord (dfeTap p k i) := by
  unfold dfeTap
  split
  · exact .ofBits rfl
  · split <;> exact .ofBits rfl

theorem dfeTap_apart {p k i j : Nat} (hi : i < 3) (hj : j < 3) (h : i ≠ j) : Apart (dfeTap p k i) (dfeTap p k j) := by
  interval_cases i <;> interval_cases j <;> first | exact absurd rfl h | exact .ofBits rfl

theorem clampI_bounds {l u : Int} (h : l ≤ u) (v : Int) : l ≤ clampI l u v ∧ clampI l u v ≤ u := by
  unfold clampI
  split
  · omega
  · split <;> omega

/-- A tap after its step. -/
theorem stepTap_same (s : State) (p k i : Nat) (a : Int) : sval 8 ((s.stepTap p k i a).get (dfeTap p k i)) =
    if a.natAbs < 1024 then sval 8 (s.get (dfeTap p k i)) else clampI (-128) 127 (sval 8 (s.get (dfeTap p k i)) + a.sign) := by
  unfold State.stepTap
  split
  · rfl
  · have hw : (dfeTap p k i).hi + 1 - (dfeTap p k i).lo = 8 := by
      unfold dfeTap
      split
      · rfl
      · split <;> rfl
    obtain ⟨h1, h2⟩ := clampI_bounds (l := -128) (u := 127) (by decide) (sval 8 (s.get (dfeTap p k i)) + a.sign)
    rw [State.get_put_same _ (dfeTap_inWord ..), hw]
    exact sval8 _ h1 h2

theorem stepTap_other (s : State) {p k i j : Nat} (a : Int) (hi : i < 3) (hj : j < 3) (h : i ≠ j) :
    (s.stepTap p k i a).get (dfeTap p k j) = s.get (dfeTap p k j) :=
  (stepTap_frame (Frame.refl [dfeTap p k i] [] s) a (by simp)).get (dfeTap_inWord ..) (by simpa using dfeTap_apart hi hj h)

/-- Accumulator i with a symbol added. -/
def DfeState.sum (x : DfeState) (e : Int) (i : Nat) : Int := x.acc.getD i 0 + e * levelSign (x.past.getD i 0)

/-- The three taps stepped by a symbol. -/
def State.stepTaps (s : State) (p k : Nat) (a : Nat → Int) : State := ((s.stepTap p k 0 (a 0)).stepTap p k 1 (a 1)).stepTap p k 2 (a 2)

theorem dfeSymbol_eq {s : State} {p k : Nat} {x : DfeState} (h : s.chain.dfe[5 * p + k]? = some x) (e : Int) (d : Nat) :
    s.dfeSymbol p k e d = (s.stepTaps p k (x.sum e)).setDfe p k
      fun y => ⟨(List.range 3).map fun i => if (x.sum e i).natAbs < 1024 then x.sum e i else 0, d :: y.past.take 2⟩ := by
  unfold State.dfeSymbol
  rw [show s.chain.dfe.getD (5 * p + k) ⟨[0, 0, 0], [0, 0, 0]⟩ = x by simp [List.getD, h]]
  rfl

theorem stepTaps_frame {T : List Field} {P : List Part} {s t : State} (h : Frame T P s t) (p k : Nat) (a : Nat → Int)
    (m : ∀ f ∈ [F.chnrxEqH1 p k, F.chnrxEqH2 p k, F.chnrxEqH3 p k], f ∈ T) : Frame T P s (t.stepTaps p k a) :=
  stepTap_frame (stepTap_frame (stepTap_frame h _ (m _ (by simp [dfeTap]))) _ (m _ (by simp [dfeTap]))) _ (m _ (by simp [dfeTap]))

theorem stepTaps_get (s : State) (p k : Nat) (a : Nat → Int) {i : Nat} (hi : i < 3) : sval 8 ((s.stepTaps p k a).get (dfeTap p k i)) =
    if (a i).natAbs < 1024 then sval 8 (s.get (dfeTap p k i)) else clampI (-128) 127 (sval 8 (s.get (dfeTap p k i)) + (a i).sign) := by
  unfold State.stepTaps
  interval_cases i
  · rw [stepTap_other _ _ (by decide) (by decide) (by decide), stepTap_other _ _ (by decide) (by decide) (by decide), stepTap_same]
  · rw [stepTap_other _ _ (by decide) (by decide) (by decide), stepTap_same, stepTap_other _ _ (by decide) (by decide) (by decide)]
  · rw [stepTap_same, stepTap_other _ _ (by decide) (by decide) (by decide), stepTap_other _ _ (by decide) (by decide) (by decide)]

theorem stepTaps_chain (s : State) (p k : Nat) (a : Nat → Int) : (s.stepTaps p k a).chain = s.chain := by
  unfold State.stepTaps
  rw [stepTap_chain, stepTap_chain, stepTap_chain]

theorem dfeSymbol_frame {s : State} {p k : Nat} {x : DfeState} (h : s.chain.dfe[5 * p + k]? = some x) (e : Int) (d : Nat) :
    Frame [F.chnrxEqH1 p k, F.chnrxEqH2 p k, F.chnrxEqH3 p k] [.chain] s (s.dfeSymbol p k e d) := by
  rw [dfeSymbol_eq h]
  exact setDfe_frame (stepTaps_frame (Frame.refl _ _ s) p k _ fun _ hf => hf) p k _ (by simp)

theorem dfeSymbol_chain {s : State} {p k : Nat} {x : DfeState} (h : s.chain.dfe[5 * p + k]? = some x) (e : Int) (d : Nat) :
    (s.dfeSymbol p k e d).chain = { s.chain with dfe := updAt s.chain.dfe (5 * p + k) fun _ =>
      ⟨(List.range 3).map fun i => if (x.sum e i).natAbs < 1024 then x.sum e i else 0, d :: x.past.take 2⟩ } := by
  rw [dfeSymbol_eq h]
  unfold State.setDfe
  simp only [stepTaps_chain]
  rw [updAt_congr h]
  rfl

/-- A symbol leaves the slice adapting and its port as it was. -/
theorem dfeSymbol_adapts {s : State} {p : Fin 3} {k : Fin 5} {x : DfeState} (h : s.chain.dfe[5 * p.val + k.val]? = some x) (e : Int) (d : Nat) :
    (s.dfeSymbol p k e d).get (F.chnrxStatusAdapting p k) = s.get (F.chnrxStatusAdapting p k) ∧ (s.dfeSymbol p k e d).portSt p = s.portSt p := by
  have hf := dfeSymbol_frame h e d
  have hp : R.chnrxEq p k ≠ R.chnpStatus p := by simp [R.chnrxEq, R.chnpStatus]; omega
  exact ⟨hf.get (.ofBits rfl) (by simpa using ⟨.ofGrid rfl rfl rfl, .ofGrid rfl rfl rfl, .ofGrid rfl rfl rfl⟩),
    hf.get (.ofBits rfl) (by simpa using ⟨.inl hp, .inl hp, .inl hp⟩)⟩

/-! The eye. -/

theorem exec_eyeScan {s : State} {p : Fin 3} (h : s.portSt p ≠ 0) (k : Fin 5) (heights : List (BitVec 8)) (widths : List (BitVec 16)) :
    exec (.eyeScan p k heights widths) s =
    let h := fun i => (heights.getD i 0).toNat
    let v := fun i => (widths.getD i 0).toNat
    let t := s.puts [(F.chnrxQEye p k, h 0 * 2 ^ 8 + h 1 * 2 ^ 16 + h 2 * 2 ^ 24), (F.chnrxQWidth p k, v 0 + v 1 * 2 ^ 16), (F.chnrxQWidthUp p k, v 2)]
    .next (if h 1 < t.get F.rlfLaneEyeMin then t.chainWorn p k 2 else t) := if_neg h

/-- The three registers of an eye. -/
theorem eye_get (s : State) (p k : Nat) {a b c : Nat} (ha : a < 2 ^ 32) (hb : b < 2 ^ 32) (hc : c < 2 ^ 32) :
    let t := s.puts [(F.chnrxQEye p k, a), (F.chnrxQWidth p k, b), (F.chnrxQWidthUp p k, c)]
    t.get (F.chnrxQEye p k) = a ∧ t.get (F.chnrxQWidth p k) = b ∧ t.get (F.chnrxQWidthUp p k) = c := by
  intro t
  refine ⟨?_, ?_, ?_⟩ <;>
    simp (disch := first | exact .ofBits rfl | exact .ofGrid rfl rfl rfl) only [t, State.puts_cons, State.puts_nil, State.get_put_same, State.get_put_other]
  · exact Nat.mod_eq_of_lt ha
  · exact Nat.mod_eq_of_lt hb
  · exact Nat.mod_eq_of_lt hc

theorem eyeScan_spec {s : State} {p : Fin 3} (hp : s.portSt p ≠ 0) (k : Fin 5) (heights : List (BitVec 8)) (widths : List (BitVec 16)) :
    let h (i : Nat) : Nat := (heights.getD i (0 : BitVec 8)).toNat
    let v (i : Nat) : Nat := (widths.getD i (0 : BitVec 16)).toNat
    ∃ u, exec (.eyeScan p k heights widths) s = .next (if h 1 < s.get F.rlfLaneEyeMin then u.chainWorn p k 2 else u) ∧
      Frame [F.chnrxQEye p k, F.chnrxQWidth p k, F.chnrxQWidthUp p k] [] s u ∧
      u.get (F.chnrxQEye p k) = h 0 * 2 ^ 8 + h 1 * 2 ^ 16 + h 2 * 2 ^ 24 ∧
      u.get (F.chnrxQWidth p k) = v 0 + v 1 * 2 ^ 16 ∧ u.get (F.chnrxQWidthUp p k) = v 2 := by
  intro h v
  have e := exec_eyeScan hp k heights widths
  have bh (i : Nat) : h i < 256 := (heights.getD i (0 : BitVec 8)).isLt
  have bv (i : Nat) : v i < 65536 := (widths.getD i (0 : BitVec 16)).isLt
  have hf := (Frame.refl [F.chnrxQEye p k, F.chnrxQWidth p k, F.chnrxQWidthUp p k] [] s).puts
    (l := [(F.chnrxQEye p k, h 0 * 2 ^ 8 + h 1 * 2 ^ 16 + h 2 * 2 ^ 24), (F.chnrxQWidth p k, v 0 + v 1 * 2 ^ 16), (F.chnrxQWidthUp p k, v 2)]) (by simp)
  refine ⟨_, ?_, hf, eye_get s p k ?_ ?_ ?_⟩
  · rw [e]
    dsimp only
    rw [hf.get (.ofBits rfl) ?_]
    · simp [Apart, F.chnrxQEye, R.chnrxQEye, F.chnrxQWidth, R.chnrxQWidth, F.chnrxQWidthUp, R.chnrxQWidthUp, F.rlfLaneEyeMin, R.rlfLane]; omega
  · have := bh 0; have := bh 1; have := bh 2; omega
  · have := bv 0; have := bv 1; omega
  · have := bv 2; omega

/-- Settles O33: FORCE, the CTLE, the DFE symbol by symbol, the codes of a slice, its spans and its eye. -/
theorem chainReceivers : Obligations.ChainReceivers := by
  unfold Obligations.ChainReceivers
  refine fun s p k x hx => ⟨fun w eq ha => ⟨chainRxForce_on ha eq, chainRxForce_off ha eq⟩,
    fun ha hp => ⟨fun hc hf lf => ?_, fun e d => ?_, fun symbol rest => ?_⟩,
    fun h => ⟨exec_ctleInterval_idle (by tauto), exec_dfeStep_idle h⟩, fun h => exec_ctleInterval_idle (.inr (.inr h)), ?_,
    fun hp => ⟨?_, eyeScan_spec hp k, fun count errors low => ⟨fun he => ?_, fun he hc => ?_⟩⟩⟩
  · exact .quiet (exec_ctleInterval ha hp hc hf lf) (setCtle_frame (Frame.refl _ _ s) p k _ (by simp) (by simp))
      ⟨setCtle_get _ _ _ (ctleNext_lt (get_lt s (F.chnrxEqCtle p k)) _ _), setCtle_chain _ _ _ _⟩
  · refine .quiet (exec_dfeStep ha hp [(e, d)]) (dfeSymbol_frame hx _ _) ⟨fun i hi => ?_, dfeSymbol_chain hx _ _⟩
    show sval 8 ((s.dfeSymbol p k (errorSign e) d).get _) = _
    rw [dfeSymbol_eq hx]
    exact stepTaps_get s p k (x.sum (errorSign e)) hi
  · obtain ⟨h1, h2⟩ := dfeSymbol_adapts hx (errorSign symbol.1) symbol.2
    refine ⟨_, exec_dfeStep ha hp [symbol], ?_⟩
    rw [exec_dfeStep ha hp]
    exact (exec_dfeStep (h1.trans ha) (fun h => hp (h2.symm.trans h)) rest).symm
  · rw [exec_chainStatsStarved, if_pos (.inl rfl)]
  · have e := exec_chainStatsStarved s p k false
    rw [if_neg (by simp [hp]), sliceCode_eq] at e
    refine .intro (by simpa using e) (sliceCoded_frame s p k 0x524) ⟨sliceCoded_code s p k (by decide), ?_⟩
    rw [sliceCoded_adapting_iff s p k (by decide)]
    simp
  · have e := exec_densitySpanEnd_slice hp k count errors low
    unfold State.sliceSpan at e
    rw [if_pos he, sliceCode_eq] at e
    have hoff := sliceCoded_code s p k (show 0x522 < 4096 by decide)
    exact .intro (by simpa using e) (sliceCoded_frame s p k 0x522) ⟨hoff, showAdapting_off (.inr (get_put_of_lt _ (.ofBits rfl) (by simp [F.chnrxStatusLastCode])))⟩
  · have e := exec_densitySpanEnd_slice hp k count errors low
    rw [he] at e ⊢
    rw [show (0 : BitVec 17).toNat = 0 from rfl, sliceSpan_dense hc] at e
    exact .quiet e (sliceDense_frame s p k _) (sliceDense_get s p k _)

end Sys2Proof.Machine
end

section
/-! Genlock and panel pacing (R148 to R159, R339). -/

open Sys2Proof Sys2Proof.Machine

namespace Sys2Proof.Machine

/-! Events raised in a row. -/

theorem raises_outp (l : List Nat) (s : State) (n : Nat) : (l.foldl State.raise s).outp n = s.outp n := by
  induction l generalizing s with
  | nil => rfl
  | cons k l ih => rw [List.foldl_cons, ih, raise_outp]

theorem raises_get (l : List Nat) (s : State) {f : Field} (hf : InWord f) (h : ∀ k ∈ l, Apart (pendingField k) f) :
    (l.foldl State.raise s).get f = s.get f := by
  induction l generalizing s with
  | nil => rfl
  | cons k l ih =>
    rw [List.foldl_cons, ih _ fun j hj => h j (List.mem_cons_of_mem _ hj), raise_get _ _ hf (h k (List.mem_cons_self ..))]

/-! What reads an output's state alone. -/

theorem frameEnd_of {s t : State} {n : Nat} (h : t.outp n = s.outp n) : t.frameEnd n = s.frameEnd n := by
  unfold State.frameEnd State.framePs
  rw [h]

theorem frameReady_of {s t : State} {n : Nat} (h : t.outp n = s.outp n) (hr : t.get (F.tgStatusRun n) = s.get (F.tgStatusRun n)) :
    t.frameReady n = s.frameReady n := by
  unfold State.frameReady State.running
  rw [h, on_eq, on_eq, hr]

theorem setSync_outs {s : State} {n : Nat} {o : OutState} (h : s.outs[n]? = some o) (f : SyncState → SyncState) :
    (s.setSync n f).outs[n]? = some { o with sync := f o.sync } := updAt_some h

/-! The lock state. -/

theorem setLock_same {s : State} {n st : Nat} (h : s.get (F.tgLockStatusState n) = st) : s.setLock n st = s := if_pos h

theorem setLock_new {s : State} {n st : Nat} (h : s.get (F.tgLockStatusState n) ≠ st) :
    s.setLock n st = (s.put (F.tgLockStatusState n) st).raise (evOut n 3) := if_neg h

theorem lockState_put (s : State) (n : Nat) {v : Nat} (hv : v < 8) : (s.put (F.tgLockStatusState n) v).get (F.tgLockStatusState n) = v :=
  get_put_of_lt _ (.ofBits rfl) hv

/-! SYNC_IN edges. -/

theorem exec_syncInEdge {s : State} (hw : s.inWinter = false) (hp : s.power.off = false) (pin : Fin 4) (rising : Bool) (t : Int) (sub : BitVec 35) :
    let s1 := if s.syncEdgeCounts pin rising then s.capture pin sub.toNat else s
    let now := s1.stampNow sub.toNat
    let s2 := if pin = 0 ∧ rising ∧ s1.hasSource 3 then s1.sample (2 * ((now : Int) - (((now + secUnit / 2) / secUnit * secUnit : Nat) : Int))) else s1
    exec (.syncInEdge pin rising t sub) s = .next ((List.range 4).foldl (fun u n =>
      if u.running n && u.paceOf n == 1 && u.act (F.tgSyncCfgPin n) == pin.val && rising != u.actOn (F.tgPolaritySyncEdge n) then
        u.refEdge n t else u) s2) :=
  if_neg (by simp [hw, hp])

/-! A window of a known period. -/

/-- The state in which a window without an edge is counted and the next edge predicted. -/
def State.windowMissed (s : State) (n : Nat) : State :=
  let r := s.refPeriod n
  let per := r - rheDiv (r * sval 32 (s.get (F.tgFreqTrimTrim n))) 1000000000
  (s.setSync n fun y => { y with predicted := y.predicted + per, good := 0 }).count (F.tgLockStatusMissed n) 1

theorem windowMissed_frame (s : State) (n : Nat) : Frame [F.tgLockStatusMissed n] [.output n] s (s.windowMissed n) :=
  (State.setSync_frame (Frame.refl _ _ s) n _ (by simp)).count (by simp)

theorem windowMissed_missed (s : State) (n : Nat) : (s.windowMissed n).get (F.tgLockStatusMissed n) =
    min (fieldMax (F.tgLockStatusMissed n)) (s.get (F.tgLockStatusMissed n) + 1) := count_get _ _ _ (.ofBits rfl)

theorem windowMissed_state (s : State) (n : Nat) : (s.windowMissed n).get (F.tgLockStatusState n) = s.get (F.tgLockStatusState n) :=
  count_get_other _ _ (.ofBits rfl) (.ofBits rfl)

theorem windowMissed_outs {s : State} {n : Nat} {o : OutState} (h : s.outs[n]? = some o) :
    (s.windowMissed n).outs[n]? = some { o with sync := { o.sync with
      predicted := o.sync.predicted + (s.refPeriod n - rheDiv (s.refPeriod n * sval 32 (s.get (F.tgFreqTrimTrim n))) 1000000000), good := 0 } } := by
  unfold State.windowMissed State.count
  rw [State.put_outs]
  exact setSync_outs h _

section
variable {s : State} {n : Fin 4} {o : OutState} (h : s.outs[n.val]? = some o)
include h

theorem exec_syncWindowClose (hr : s.running n = true) (hk : o.sync.periodKnown = true)
    (hs : s.get (F.tgLockStatusState n) = 1 ∨ s.get (F.tgLockStatusState n) = 2) {t : Int} (ht : o.sync.predicted + s.refWindow n ≤ t) :
    exec (.syncWindowClose n t false) s = .next (if 2 ≤ (s.windowMissed n).get (F.tgLockStatusMissed n) then (s.windowMissed n).setLock n 3
      else s.windowMissed n) := by
  have e := outp_of h
  exact if_pos ⟨hr, by rw [e]; exact hk, hs, by rw [e]; exact ht, rfl⟩

theorem exec_syncWindowClose_early {t : Int} (ht : t < o.sync.predicted + s.refWindow n) : exec (.syncWindowClose n t false) s = .next s := by
  show execSyncWindowClose n t false s = _
  unfold execSyncWindowClose
  dsimp only
  rw [outp_of h]
  refine if_neg ?_
  rintro ⟨-, -, -, hp, -⟩
  exact absurd ht (Int.not_lt.2 hp)

/-- A window that closes without an edge: MISSED counted, the next edge predicted, the lock lost at the second miss. -/
theorem syncWindowClose_missed (hr : s.running n = true) (hk : o.sync.periodKnown = true)
    (hs : s.get (F.tgLockStatusState n) = 1 ∨ s.get (F.tgLockStatusState n) = 2) {t : Int} (ht : o.sync.predicted + s.refWindow n ≤ t) :
    let missed := min (fieldMax (F.tgLockStatusMissed n)) (s.get (F.tgLockStatusMissed n) + 1)
    Yields (.syncWindowClose n t false) s (if 2 ≤ missed then [evOut n 3] else []) [F.tgLockStatusMissed n, F.tgLockStatusState n]
      [.output n] fun u => u.get (F.tgLockStatusMissed n) = missed ∧
        u.get (F.tgLockStatusState n) = (if 2 ≤ missed then 3 else s.get (F.tgLockStatusState n)) ∧
        u.outs[n.val]? = some { o with sync := { o.sync with
          predicted := o.sync.predicted + (s.refPeriod n - rheDiv (s.refPeriod n * sval 32 (s.get (F.tgFreqTrimTrim n))) 1000000000), good := 0 } } := by
  intro missed
  have e := exec_syncWindowClose h hr hk hs ht
  have hf := (windowMissed_frame s n).mono (T' := [F.tgLockStatusMissed n, F.tgLockStatusState n]) (by simp) fun _ hp => hp
  have hst := windowMissed_state s n
  have hm : (s.windowMissed n).get (F.tgLockStatusMissed n) = missed := windowMissed_missed s n
  have ho := windowMissed_outs h
  rw [hm] at e
  by_cases hl : 2 ≤ missed
  · rw [if_pos hl, setLock_new (by rw [hst]; omega)] at e
    simp only [if_pos hl]
    exact .intro e (hf.put (by simp)) ⟨(State.get_put_other _ (.ofBits rfl) (.ofBits rfl) _).trans hm, lockState_put _ _ (by decide), by rw [State.put_outs]; exact ho⟩
  · rw [if_neg hl] at e
    simp only [if_neg hl]
    exact .quiet e hf ⟨hm, hst, ho⟩

end

theorem exec_syncWindowClose_met (s : State) (n : Fin 4) (t : Int) : exec (.syncWindowClose n t true) s = .next s :=
  if_neg fun ⟨_, _, _, _, hm⟩ => nomatch hm

/-! Epochs. -/

theorem exec_chainEpoch {s : State} {n : Fin 4} (hr : s.running n = true) (hp : s.paceOf n = 2) (t : Int) : exec (.chainEpoch n t) s =
    .next (if !s.timeUsable then s.setLock n 3 else if onEpoch (s.sinceEpoch n t) (s.rateNow n) then s.refEdge n t else s) := by
  show Host.Outcome.next (if !s.running n ∨ s.paceOf n ≠ 2 then s else _) = _
  rw [if_neg (by simp [hr, hp])]

/-! TE. -/

section
variable {s : State} {n : Fin 4} {o : OutState} (h : s.outs[n.val]? = some o) (hr : s.running n = true) (hp : s.paceOf n = 3)
include h hr hp

theorem exec_teEdge {falling : Bool} (hf : s.actOn (F.tgPolarityTeEdge n) = falling) (t : Int) : exec (.teEdge n falling t) s =
    .next (if !o.waiting ∧ !o.landed ∧ (o.kind = 0 ∨ o.line ≤ o.landLine) then s.count (F.tgTeCountsEarly n) 1
      else if o.sync.scheduled.isSome ∨ (o.waiting ∧ t < o.sync.startAt + 50000000) then s
      else (s.setSync n fun y => { y with scheduled := some (s.teEdgeAt n t) }).setLock n 2) := by
  have e : exec (.teEdge n falling t) s = execTeEdge n falling t s := rfl
  unfold execTeEdge at e
  rw [outp_of h] at e
  exact e.trans (congrArg _ (if_neg (by simp [hr, hp, hf])))

theorem exec_teTimeout (hs : o.sync.scheduled = none) {d : Int} (hd : s.teDeadline n = some d) (low : BitVec 4) :
    let u := ((s.count (F.tgTeCountsMissed n) 1).setLock n 3).raise (evOut n 4)
    exec (.teTimeout n false low) s = .next (if u.frameReady n then u.startFrame n (if o.waiting then d else max d (s.frameEnd n)) low
      else u.setSync n fun y => { y with scheduled := some d }) := by
  intro u
  have e : exec (.teTimeout n false low) s = execTeTimeout n false low s := rfl
  unfold execTeTimeout at e
  rw [hd, outp_of h] at e
  exact e.trans (if_neg (by simp [hr, hp, hs]))

end

theorem exec_teTimeout_met (s : State) (n : Fin 4) (low : BitVec 4) : exec (.teTimeout n true low) s = .next s := by
  show execTeTimeout n true low s = _
  unfold execTeTimeout
  split
  · rfl
  · exact if_pos (.inl rfl)

/-- A TE edge schedules the frame TE_DELAY after it when that is not before its recognition. -/
theorem teEdgeAt_of {s : State} {n : Nat} (h : 5 ≤ s.act (F.tgTeCfgDelay n)) (t : Int) :
    s.teEdgeAt n t = t + (s.act (F.tgTeCfgDelay n) : Int) * 1000 := by
  unfold State.teEdgeAt
  exact if_neg (by omega)

/-- The state in which a TE timeout is counted, the lock lost. -/
def State.teMissed (s : State) (n : Nat) : State :=
  let t := s.count (F.tgTeCountsMissed n) 1
  if s.get (F.tgLockStatusState n) = 3 then t else t.put (F.tgLockStatusState n) 3

/-- The events of a TE timeout. -/
def State.teMissedEvents (s : State) (n : Nat) : List Nat := if s.get (F.tgLockStatusState n) = 3 then [evOut n 4] else [evOut n 3, evOut n 4]

theorem teCounted_state (s : State) (n : Nat) : (s.count (F.tgTeCountsMissed n) 1).get (F.tgLockStatusState n) = s.get (F.tgLockStatusState n) :=
  count_get_other _ _ (.ofBases rfl rfl rfl) (.ofBits rfl)

theorem teMissed_eq (s : State) (n : Nat) : ((s.count (F.tgTeCountsMissed n) 1).setLock n 3).raise (evOut n 4) =
    (s.teMissedEvents n).foldl State.raise (s.teMissed n) := by
  have h := teCounted_state s n
  unfold State.teMissed State.teMissedEvents
  by_cases h3 : s.get (F.tgLockStatusState n) = 3
  · rw [setLock_same (h.trans h3), if_pos h3, if_pos h3]; rfl
  · rw [setLock_new (by rw [h]; exact h3), if_neg h3, if_neg h3]; rfl

theorem teMissed_frame (s : State) (n : Nat) : Frame [F.tgTeCountsMissed n, F.tgLockStatusState n] [] s (s.teMissed n) := by
  have h := (Frame.refl [F.tgTeCountsMissed n, F.tgLockStatusState n] [] s).count (n := 1) (f := F.tgTeCountsMissed n) (by simp)
  unfold State.teMissed
  dsimp only
  split
  · exact h
  · exact h.put (by simp)

theorem teMissed_missed (s : State) (n : Nat) : (s.teMissed n).get (F.tgTeCountsMissed n) =
    min (fieldMax (F.tgTeCountsMissed n)) (s.get (F.tgTeCountsMissed n) + 1) := by
  have h := count_get s (F.tgTeCountsMissed n) 1 (.ofBits rfl)
  unfold State.teMissed
  dsimp only
  split
  · exact h
  · exact (State.get_put_other _ (.ofBases rfl rfl rfl) (.ofBits rfl) _).trans h

theorem teMissed_state (s : State) (n : Nat) : (s.teMissed n).get (F.tgLockStatusState n) = 3 := by
  unfold State.teMissed
  dsimp only
  split
  · next h => rw [teCounted_state, h]
  · exact lockState_put _ _ (by decide)

/-- A TE timeout's count, lock and events leave the output's frame as it was. -/
theorem teMissed_output (s : State) (n : Fin 4) :
    let v := (s.teMissedEvents n).foldl State.raise (s.teMissed n)
    v.outp n = s.outp n ∧ v.get (F.tgStatusRun n) = s.get (F.tgStatusRun n) := by
  intro v
  have hf := teMissed_frame s n
  have ho : (s.teMissed n).outs = s.outs := by unfold State.teMissed; dsimp only; split <;> rfl
  have hout : (s.teMissed n).outp n = s.outp n := by unfold State.outp; rw [ho]
  have hrun : (s.teMissed n).get (F.tgStatusRun n) = s.get (F.tgStatusRun n) :=
    hf.get (.ofBits rfl) (by simpa using ⟨.ofBases rfl rfl rfl, .ofBases rfl rfl rfl⟩)
  have far (b : Nat) (hb : b < 32) : Apart (pendingField (evOut n b)) (F.tgStatusRun n) :=
    .inl (by simp [pendingField, evOut, F.tgStatusRun, R.tgStatus, R.evtStatus]; omega)
  refine ⟨(raises_outp _ _ _).trans hout, (raises_get _ _ (.ofBits rfl) fun k hk => ?_).trans hrun⟩
  unfold State.teMissedEvents at hk
  split at hk
  · rw [List.mem_singleton.1 hk]; exact far 4 (by decide)
  · rcases List.mem_cons.1 hk with rfl | hk
    · exact far 3 (by decide)
    · rw [List.mem_singleton.1 hk]; exact far 4 (by decide)

/-- Settles O28: reference edges and epochs, windows without one, and TE edges and timeouts. -/
theorem genlock : Obligations.Genlock := by
  unfold Obligations.Genlock
  refine ⟨fun s pin rising t sub hw hp => exec_syncInEdge hw hp pin rising t sub, fun s n o h hr => ⟨fun t hk hs => ⟨syncWindowClose_missed h hr hk hs,
    exec_syncWindowClose_early h⟩, exec_syncWindowClose_met s n, fun hp t => ?_, fun hp => ⟨fun falling t hf => ⟨fun hc hs hw => ?_, fun h1 h2 h3 => ?_⟩,
    fun d low hs hd => ?_⟩, exec_teTimeout_met s n⟩⟩
  · have e := exec_chainEpoch hr hp t
    refine ⟨fun hu he => ?_, fun hu he => ?_, fun hu h3 => ?_, fun hu h3 => ?_⟩
    · rw [e, hu, he]; rfl
    · rw [e, hu, he]; rfl
    · rw [hu, if_pos (by decide), setLock_new h3] at e
      exact .intro e ((Frame.refl _ _ s).put (by simp)) (lockState_put _ _ (by decide))
    · rw [e, hu, if_pos (by decide), setLock_same h3]
  · refine ⟨s.setSync n fun y => { y with scheduled := some (s.teEdgeAt n t) }, s.teEdgeAt n t, ?_, State.setSync_frame (Frame.refl _ _ s) n _ (by simp),
      fun hd => teEdgeAt_of hd t, setSync_outs h _⟩
    rw [exec_teEdge h hr hp hf, if_neg, if_neg]
    · rintro (h1 | ⟨h1, h2⟩)
      · rw [hs] at h1; cases h1
      · have := hw h1; omega
    · rintro ⟨h1, h2, h3⟩
      rcases hc with hc | hc | ⟨hk, hl⟩
      · rw [hc] at h1; cases h1
      · rw [hc] at h2; cases h2
      · omega
  · have e := exec_teEdge h hr hp hf t
    rw [if_pos ⟨by rw [h1]; rfl, by rw [h2]; rfl, h3⟩] at e
    exact .quiet e (count_frame _ _) (count_get _ _ _ (.ofBits rfl))
  · refine ⟨s.teMissed n, teMissed_frame s n, teMissed_missed s n, teMissed_state s n, ?_⟩
    have e := exec_teTimeout h hr hp hs hd low
    obtain ⟨hout, hrun⟩ := teMissed_output s n
    rw [teMissed_eq] at e
    dsimp only at e hout hrun
    rw [frameReady_of hout hrun, ← frameEnd_of hout] at e
    exact ⟨fun hy => e.trans (congrArg _ (if_pos hy)), fun hn => e.trans (congrArg _ (if_neg (by rw [hn]; decide)))⟩

end Sys2Proof.Machine
end

section
/-! Ferries of a bank (R241, R242). -/

open Sys2Proof Sys2Proof.Machine

namespace Sys2Proof.Machine

/-! A ferry asked for. -/

/-- The targets that a ferry may name. -/
def ferryTarget (target : Nat) : Prop := target = 0 ∨ target = 2 ∨ ownerOk target = true

theorem askFerry_invalid {s : State} {bank target : Nat} (h : ¬ ferryTarget target) : s.askFerry bank target = s.put (F.holdFerryLastCode bank) 0x403 :=
  if_pos (by simpa [ferryTarget, not_or, and_assoc] using h)

/-- A ferry to a target that is valid, by the one that is under way and the present owner. -/
theorem askFerry_valid {s : State} {bank target : Nat} (h : ferryTarget target) : s.askFerry bank target =
    if s.on (F.holdFerryPending bank) then s.put (F.holdFerryLastCode bank) 0x402
    else if s.owner bank = target then (s.put (F.holdFerryTarget bank) target).ferryAtOnce bank
    else (s.put (F.holdFerryTarget bank) target).beginFerry bank target := by
  have ho : (s.put (F.holdFerryTarget bank) target).owner bank = s.owner bank :=
    State.get_put_other _ (.ofBases rfl rfl rfl) (.ofBits rfl) _
  unfold State.askFerry
  rw [if_neg (by simp only [Bool.not_eq_true', Bool.or_eq_false_iff]; rintro ⟨⟨h0, h2⟩, hk⟩; simp [ferryTarget, hk] at h h0 h2; omega)]
  dsimp only
  rw [ho]

/-- HOLD_FERRYn is no register of the recovery path. -/
theorem ferry_notRecovery (bank : Nat) : recoveryAddr (R.holdFerry bank) = false := by
  have h : 0x22000 < R.holdFerry bank := by unfold R.holdFerry; omega
  have other {a : Nat} (ha : a ≤ 0x22000) : (R.holdFerry bank == a) = false := beq_false_of_ne (by omega)
  unfold recoveryAddr
  rw [decide_eq_false (show ¬ R.holdFerry bank < 0x22000 by omega), Bool.and_false, Bool.false_and, Bool.or_false, other (by decide),
    other (by decide), other (by decide)]
  rfl

theorem exec_ferryStart {s : State} {w : Writer} {bank : Fin 256} (ha : s.accepts w (R.holdFerry bank) = true) (target : BitVec 8) :
    exec (.ferryStart w bank target) s = .next (if !(privileged w || s.owner bank == masterOf w) then s.violate (masterOf w) 0x208 bank true
      else s.askFerry bank target.toNat) :=
  congrArg _ (writeJudged_accepts ha (ferry_notRecovery bank))

theorem beginFerry_hold (s : State) (bank target : Nat) :
    (s.beginFerry bank target).hold = { s.hold with ferries := s.hold.ferries ++ [⟨bank, s.owner bank, target⟩] } := rfl

theorem beginFerry_frame {T : List Field} {P : List Part} {s t : State} (h : Frame T P s t) (bank target : Nat) (m : F.holdFerryPending bank ∈ T)
    (hm : .hold ∈ P) : Frame T P s (t.beginFerry bank target) := holdPart (h.put m) _ hm

theorem beginFerry_get (s : State) (bank target : Nat) (f : Field) : (s.beginFerry bank target).get f = (s.put (F.holdFerryPending bank) 1).get f :=
  State.get_of_reg rfl

/-! The end of a ferry. -/

section
variable {s : State} {bank : Fin 256} {f : Ferry} (h : s.hold.ferries.find? (·.bank == bank.val) = some f)
include h

/-- A bank that channels have accesses in flight at has not drained. -/
theorem exec_ferryDrained : exec (.ferryDrained bank) s =
    if (List.range 32).any fun ch => s.dmaAt ch bank then .next s else .next (((s.drainBank bank).endFerry f 0).dmaGo s) := by
  show execFerryDrained bank s = _
  unfold execFerryDrained
  rw [h]

theorem exec_ferryDrainLimit (met : Bool) : exec (.ferryDrainLimit bank met) s =
    if !met && (s.hold.outstanding.any (fun p => bankOf p.acc.addr.toNat == bank.val) || (List.range 32).any fun ch => s.dmaAt ch bank) then
      .next (((((List.range 32).foldl (fun t ch => t.cutChan ch bank f.oldOwner) (s.cutBank bank f.oldOwner)).raise 193).endFerry f 0x404).dmaGo s)
    else .next (((s.drainBank bank).endFerry f 0).dmaGo s) := by
  show execFerryDrainLimit bank met s = _
  unfold execFerryDrainLimit
  rw [h]

end

section
variable {s : State} {bank : Fin 256} (h : s.hold.ferries.find? (·.bank == bank.val) = none)
include h

theorem exec_ferryDrained_none : exec (.ferryDrained bank) s = .next s := by
  show execFerryDrained bank s = _
  unfold execFerryDrained
  rw [h]

theorem exec_ferryDrainLimit_none (met : Bool) : exec (.ferryDrainLimit bank met) s = .next s := by
  show execFerryDrainLimit bank met s = _
  unfold execFerryDrainLimit
  rw [h]

end

/-- Whether channels have accesses in flight at a bank, as the commands ask it. -/
theorem dmaBusy_iff (s : State) (bank : Nat) : ((List.range 32).any fun ch => s.dmaAt ch bank) = true ↔ ∃ ch < 32, s.dmaAt ch bank = true := by
  simp

theorem holdBusy_iff (s : State) (bank : Nat) : (s.hold.outstanding.any fun p => bankOf p.acc.addr.toNat == bank) = true ↔
    ∃ p ∈ s.hold.outstanding, bankOf p.acc.addr.toNat = bank := by simp

/-- The state in which bank has its new owner, its ferry no more pending, with a code. -/
def State.ferryOver (s : State) (f : Ferry) (bank code : Nat) (x : State) : Prop := ∃ u,
  Frame [F.holdOwnerOwner bank, F.holdFerryPending bank, F.holdFerryLastCode bank] [] s u ∧
  u.owner bank = f.target ∧ u.get (F.holdFerryPending bank) = 0 ∧ u.get (F.holdFerryLastCode bank) = code ∧
  let r := u.raise 192
  let v := { r with hold := { r.hold with ferries := r.hold.ferries.filter (· != f) } }
  (s.hold.structFerries.find? (·.1 == bank) = none → x = v.releaseHeld fun a => bankOf a.addr.toNat == bank) ∧
  (∀ q, s.hold.structFerries.find? (·.1 == bank) = some q →
    let y := ({ v with hold := { v.hold with structFerries := v.hold.structFerries.erase q } }).releaseHeld fun a => bankOf a.addr.toNat == bank
    x = if y.owner bank = q.2 then y.ferryAtOnce bank else y.beginFerry bank q.2)

theorem endFerry_over (s : State) {f : Ferry} {bank : Fin 256} {code : Nat} (hb : f.bank = bank.val) (ht : f.target < 256) (hc : code < 4096) :
    s.ferryOver f bank code (s.endFerry f code) := ends s f bank code hb ht hc

/-- The three ways in which a ferry under way ends, and the one in which it does not. -/
theorem ferry_ends {s : State} {bank : Fin 256} {f : Ferry} (h : s.hold.ferries.find? (·.bank == bank.val) = some f) (ht : f.target < 256) :
    let busy := ∃ p ∈ s.hold.outstanding, bankOf p.acc.addr.toNat = bank.val
    let dma := ∃ ch < 32, s.dmaAt ch bank = true
    (¬ dma → ∃ x, exec (.ferryDrained bank) s = .next (x.dmaGo s) ∧ (s.drainBank bank).ferryOver f bank 0 x) ∧
    (dma → exec (.ferryDrained bank) s = .next s) ∧
    (busy ∨ dma → ∃ x, exec (.ferryDrainLimit bank false) s = .next (x.dmaGo s) ∧
      State.ferryOver (((List.range 32).foldl (fun t ch => t.cutChan ch bank f.oldOwner) (s.cutBank bank f.oldOwner)).raise 193) f bank 0x404 x) ∧
    (¬ busy → ¬ dma → ∃ x, exec (.ferryDrainLimit bank false) s = .next (x.dmaGo s) ∧ (s.drainBank bank).ferryOver f bank 0 x) ∧
    (∃ x, exec (.ferryDrainLimit bank true) s = .next (x.dmaGo s) ∧ (s.drainBank bank).ferryOver f bank 0 x) := by
  intro busy dma
  have hb : f.bank = bank.val := by simpa using List.find?_some h
  have drained := endFerry_over (s.drainBank bank) hb ht (code := 0) (by decide)
  refine ⟨fun hd => ⟨_, ?_, drained⟩, fun hd => ?_, fun hd => ⟨_, ?_, endFerry_over _ hb ht (by decide)⟩, fun h1 h2 => ⟨_, ?_, drained⟩,
    ⟨_, ?_, drained⟩⟩
  · rw [exec_ferryDrained h, if_neg (by rwa [dmaBusy_iff])]
  · rw [exec_ferryDrained h, if_pos (by rwa [dmaBusy_iff])]
  · rw [exec_ferryDrainLimit h, if_pos]
    rw [Bool.not_false, Bool.true_and, Bool.or_eq_true, dmaBusy_iff, holdBusy_iff]
    exact hd
  · rw [exec_ferryDrainLimit h, if_neg]
    rw [Bool.not_false, Bool.true_and, Bool.or_eq_true, dmaBusy_iff, holdBusy_iff]
    exact not_or.2 ⟨h1, h2⟩
  · rw [exec_ferryDrainLimit h, if_neg (by simp)]

/-! A ferry asked for by a master that may. -/

section
variable {s : State} {w : Writer} {bank : Fin 256} (ha : s.accepts w (R.holdFerry bank) = true)
  (hr : privileged w = true ∨ s.owner bank = masterOf w) {target : BitVec 8}
include ha hr

theorem exec_ferryStart_allowed (target : BitVec 8) : exec (.ferryStart w bank target) s = .next (s.askFerry bank target.toNat) := by
  rw [exec_ferryStart ha, if_neg (by rcases hr with h | h <;> simp [h])]

theorem ferryStart_invalid (hv : ¬ ferryTarget target.toNat) :
    Yields (.ferryStart w bank target) s [] [F.holdFerryLastCode bank] [] fun u => u.get (F.holdFerryLastCode bank) = 0x403 := by
  have e := exec_ferryStart_allowed ha hr target
  rw [askFerry_invalid hv] at e
  exact put_yields e (.ofBits rfl) (by simp [F.holdFerryLastCode])

theorem ferryStart_pending (hv : ferryTarget target.toNat) (hk : s.get (F.holdFerryPending bank) = 1) :
    Yields (.ferryStart w bank target) s [] [F.holdFerryLastCode bank] [] fun u => u.get (F.holdFerryLastCode bank) = 0x402 := by
  have e := exec_ferryStart_allowed ha hr target
  rw [askFerry_valid hv, if_pos (on_of _ _ hk)] at e
  exact put_yields e (.ofBits rfl) (by simp [F.holdFerryLastCode])

variable (hv : ferryTarget target.toNat) (hk : s.get (F.holdFerryPending bank) = 0)
include hv hk

theorem ferryStart_owner (ho : s.owner bank = target.toNat) :
    Yields (.ferryStart w bank target) s [192] [F.holdFerryTarget bank, F.holdFerryLastCode bank] [] fun u =>
      u.get (F.holdFerryTarget bank) = target.toNat ∧ u.get (F.holdFerryLastCode bank) = 0 := by
  have e := exec_ferryStart_allowed ha hr target
  rw [askFerry_valid hv, if_neg (by simp [on_off _ _ hk]), if_pos ho] at e
  exact .intro e (((Frame.refl _ _ s).put (by simp)).put (by simp))
    ⟨(State.get_put_other _ (.ofBits rfl) (.ofBits rfl) _).trans (get_put_of_lt _ (.ofBits rfl) target.isLt),
      get_put_of_lt _ (.ofBits rfl) (by simp [F.holdFerryLastCode])⟩

theorem ferryStart_begins (ho : s.owner bank ≠ target.toNat) :
    Yields (.ferryStart w bank target) s [] [F.holdFerryTarget bank, F.holdFerryPending bank] [.hold] fun u =>
      u.get (F.holdFerryTarget bank) = target.toNat ∧ u.get (F.holdFerryPending bank) = 1 ∧
      u.hold = { s.hold with ferries := s.hold.ferries ++ [⟨bank, s.owner bank, target.toNat⟩] } := by
  have e := exec_ferryStart_allowed ha hr target
  rw [askFerry_valid hv, if_neg (by simp [on_off _ _ hk]), if_neg ho] at e
  refine .quiet e (beginFerry_frame ((Frame.refl _ _ s).put (by simp)) _ _ (by simp) (by simp))
    ⟨?_, ?_, ?_⟩
  · rw [beginFerry_get, State.get_put_other _ (.ofBits rfl) (.ofBits rfl)]
    exact get_put_of_lt _ (.ofBits rfl) target.isLt
  · rw [beginFerry_get]
    exact get_put_of_lt _ (.ofBits rfl) (by simp [F.holdFerryPending])
  · rw [beginFerry_hold, show (s.put (F.holdFerryTarget bank) target.toNat).owner bank = s.owner bank from
      State.get_put_other _ (.ofBases rfl rfl rfl) (.ofBits rfl) _, State.put_hold]

end

/-- Settles O37: what starts a ferry, what ends it, and what it leaves alone. -/
theorem ferries : Obligations.Ferries := by
  unfold Obligations.Ferries
  refine fun s bank => ⟨fun w target ha => ⟨fun hp ho => ?_, fun hr => ⟨ferryStart_invalid ha hr, ferryStart_pending ha hr,
    fun hv hk => ⟨ferryStart_owner ha hr hv hk, ferryStart_begins ha hr hv hk⟩⟩⟩,
    fun f hf ht => ferry_ends hf ht, fun hn => ⟨exec_ferryDrained_none hn, exec_ferryDrainLimit_none hn⟩⟩
  rw [exec_ferryStart ha, if_pos (by simp [hp, ho])]

end Sys2Proof.Machine
end

section
/-! Chain ports, Boarding, RESTORE and data views (R301 to R314). -/

open Sys2Proof Sys2Proof.Machine

namespace Sys2Proof.Machine

/-! Flits due. -/

theorem exec_linkFlitDue (s : State) (p : Fin 3) : exec (.linkFlitDue p) s =
    .next (if s.portSt p = 0 then s else s.setPort p fun x => { x with linkDue := true }) := rfl

theorem exec_timeFlitDue (s : State) (p : Fin 3) : exec (.timeFlitDue p) s =
    .next (if s.portSt p = 2 ∨ s.portSt p = 3 then s.setPort p fun x => { x with timeDue := true } else s) := rfl

/-! A port that falls. -/

/-- The counts of the residual errors of a port's slices. -/
def residues (p : Nat) : List Field := (List.range 5).map fun k => F.chnrxResidCount p k

/-- The counts of the first slices cleared. -/
def State.clearResidues (s : State) (p n : Nat) : State := (List.range n).foldl (fun t k => t.put (F.chnrxResidCount p k) 0) s

theorem clearResidues_succ (s : State) (p n : Nat) : s.clearResidues p (n + 1) = (s.clearResidues p n).put (F.chnrxResidCount p n) 0 := by
  unfold State.clearResidues
  rw [List.range_succ, List.foldl_append]
  rfl

theorem clearResidues_frame {T : List Field} {P : List Part} {s t : State} (h : Frame T P s t) (p n : Nat) (m : ∀ k < n, F.chnrxResidCount p k ∈ T) :
    Frame T P s (t.clearResidues p n) := by
  induction n with
  | zero => exact h
  | succ n ih =>
    rw [clearResidues_succ]
    exact (ih fun k hk => m k (Nat.lt_succ_of_lt hk)).put (m n (Nat.lt_succ_self n))

theorem clearResidues_get (s : State) (p : Nat) {k n : Nat} (hk : k < n) : (s.clearResidues p n).get (F.chnrxResidCount p k) = 0 := by
  induction n with
  | zero => exact absurd hk (Nat.not_lt_zero k)
  | succ n ih =>
    rw [clearResidues_succ]
    by_cases h : k = n
    · rw [h]
      exact get_put_of_lt _ (.ofBits rfl) (Nat.two_pow_pos _)
    · rw [State.get_put_other _ (.inl fun e => h ?_) (.ofBits rfl)]
      · exact ih (by omega)
      · simp only [F.chnrxResidCount, R.chnrxResid] at e
        omega

theorem clearResidues_chain (s : State) (p n : Nat) : (s.clearResidues p n).chain = s.chain := by
  induction n with
  | zero => rfl
  | succ n ih => rw [clearResidues_succ, State.put_chain, ih]

/-- A port's state register is none of its slices' counts. -/
theorem residues_apart_state (p : Nat) {f : Field} (hf : f ∈ residues p) : Apart f (F.chnpStatusState p) := by
  obtain ⟨k, -, rfl⟩ := List.mem_map.1 hf
  refine .inl ?_
  simp only [F.chnrxResidCount, R.chnrxResid, F.chnpStatusState, R.chnpStatus]
  omega

theorem residues_apart_downs (p : Nat) {f : Field} (hf : f ∈ residues p) : Apart (F.chnpDownsCount p) f := by
  obtain ⟨k, -, rfl⟩ := List.mem_map.1 hf
  refine .inl ?_
  simp only [F.chnrxResidCount, R.chnrxResid, F.chnpDownsCount, R.chnpDowns]
  omega

/-- A port as it looks for its partner after it went DOWN. -/
def PortState.fallen (x : PortState) : PortState := { x with
  goodMarks := 0, lastMark := none, linkSeen := false, rxGen := List.replicate 4 none, rxOk := false, rxKeys := [], linkDue := true,
  seen := none, sentTimes := [] }

/-- The state in which port p is DOWN. -/
def State.portDown (s : State) (p : Nat) : State := ((s.put (F.chnpStatusState p) 4).portSeeks p).setPort p fun x => { x with seen := none, sentTimes := [] }

theorem portDown_frame (s : State) (p : Nat) : Frame (F.chnpStatusState p :: residues p) [.chain] s (s.portDown p) :=
  State.setPort_frame (clearResidues_frame (State.setPort_frame ((Frame.refl _ _ s).put (by simp)) _ _ (by simp)) p 5
    fun k hk => List.mem_cons_of_mem _ (List.mem_map.2 ⟨k, List.mem_range.2 hk, rfl⟩)) _ _ (by simp)

theorem portDown_chain (s : State) (p : Nat) : (s.portDown p).chain = { s.chain with ports := updAt s.chain.ports p PortState.fallen } := by
  unfold State.portDown State.portSeeks State.setPort
  dsimp only
  rw [← State.clearResidues, clearResidues_chain]
  simp only [State.put_chain, updAt, List.modify_modify_eq]
  rfl

theorem portDown_residues (s : State) (p : Nat) {f : Field} (hf : f ∈ residues p) : (s.portDown p).get f = 0 := by
  obtain ⟨k, hk, rfl⟩ := List.mem_map.1 hf
  unfold State.portDown State.portSeeks
  rw [State.setPort_get]
  exact clearResidues_get _ p (List.mem_range.1 hk)

theorem portDown_state (s : State) (p : Nat) : (s.portDown p).portSt p = 4 := by
  have h := clearResidues_frame (Frame.refl (residues p) [.chain] ((s.put (F.chnpStatusState p) 4).setPort p fun x => { x with
    goodMarks := 0, lastMark := none, linkSeen := false, rxGen := List.replicate 4 none, rxOk := false, rxKeys := [], linkDue := true })) p 5
    fun k hk => List.mem_map.2 ⟨k, List.mem_range.2 hk, rfl⟩
  unfold State.portDown State.portSeeks State.portSt
  rw [State.setPort_get]
  refine (h.get (.ofBits rfl) fun f hf => residues_apart_state p hf).trans ?_
  rw [State.setPort_get]
  exact get_put_of_lt _ (.ofBits rfl) (by simp [F.chnpStatusState])

theorem portFalls_idle {s : State} {p : Nat} (h2 : s.portSt p ≠ 2) (h3 : s.portSt p ≠ 3) : s.portFalls p = s := if_pos ⟨h2, h3⟩

theorem portFalls_standby {s : State} {p : Nat} (h : s.portSt p = 3) : s.portFalls p = s.portDown p := by
  unfold State.portFalls
  rw [if_neg (by omega)]
  change (let x := if s.portSt p = 2 then (((s.portDown p).count (F.chnpDownsCount p) 1).raise 513).ringBreak p else s.portDown p
    if s.portSt p = 2 ∧ s.timeRole = 2 ∧ s.timePort = p ∧ x.portSt x.timePort ≠ 2 then x.loseSource 0x603 else x) = _
  dsimp only
  rw [if_neg (show ¬ s.portSt p = 2 by omega), if_neg (fun h2 => absurd h2.1 (by omega))]

theorem portFalls_up {s : State} {p : Nat} (h : s.portSt p = 2) : s.portFalls p =
    let x := (((s.portDown p).count (F.chnpDownsCount p) 1).raise 513).ringBreak p
    if s.timeRole = 2 ∧ s.timePort = p ∧ x.portSt x.timePort ≠ 2 then x.loseSource 0x603 else x := by
  unfold State.portFalls
  rw [if_neg (by omega)]
  change (let x := if s.portSt p = 2 then (((s.portDown p).count (F.chnpDownsCount p) 1).raise 513).ringBreak p else s.portDown p
    if s.portSt p = 2 ∧ s.timeRole = 2 ∧ s.timePort = p ∧ x.portSt x.timePort ≠ 2 then x.loseSource 0x603 else x) = _
  dsimp only
  rw [if_pos h]
  exact if_congr (by simp only [h, true_and]) rfl rfl

/-- What the loss of its partner makes of an enabled port, whatever tells it. -/
theorem portFalls_spec {s : State} {p : Fin 3} {c : Bool → Instr} (hc : ∀ met, exec (c met) s = .next (if met then s else s.portFalls p)) :
    let seeks (u : State) : Prop := u.portSt p = 4 ∧ u.chain = { s.chain with ports := updAt s.chain.ports p PortState.fallen } ∧
      ∀ f ∈ residues p, u.get f = 0
    exec (c true) s = .next s ∧
    (s.portSt p = 2 → ∃ u, Frame (F.chnpStatusState p :: F.chnpDownsCount p :: residues p) [.chain] s u ∧ seeks u ∧
      u.get (F.chnpDownsCount p) = min (fieldMax (F.chnpDownsCount p)) (s.get (F.chnpDownsCount p) + 1) ∧
      let x := (u.raise 513).ringBreak p
      exec (c false) s = .next (if s.timeRole = 2 ∧ s.timePort = p ∧ x.portSt x.timePort ≠ 2 then x.loseSource 0x603 else x)) ∧
    (s.portSt p = 3 → Yields (c false) s [] (F.chnpStatusState p :: residues p) [.chain] seeks) ∧
    (s.portSt p ≠ 2 → s.portSt p ≠ 3 → exec (c false) s = .next s) := by
  intro seeks
  have hf := portDown_frame s p
  have hd : seeks (s.portDown p) := ⟨portDown_state s p, portDown_chain s p, fun f hf => portDown_residues s p hf⟩
  have e := hc false
  rw [if_neg (by decide)] at e
  refine ⟨hc true, fun h2 => ?_, fun h3 => ?_, fun h2 h3 => ?_⟩
  · rw [portFalls_up h2] at e
    obtain ⟨h4, hch, hres⟩ := hd
    refine ⟨(s.portDown p).count (F.chnpDownsCount p) 1, ((hf.mono ?_ fun _ h => h).count (by simp)), ⟨?_, hch, fun f hf => ?_⟩, ?_, e⟩
    · intro f hf
      rcases List.mem_cons.1 hf with rfl | hf
      · exact List.mem_cons_self ..
      · exact List.mem_cons_of_mem _ (List.mem_cons_of_mem _ hf)
    · exact (count_get_other _ _ (.ofBases rfl rfl rfl) (.ofBits rfl)).trans h4
    · refine (count_get_other _ _ (residues_apart_downs p hf) ?_).trans (hres f hf)
      obtain ⟨k, -, rfl⟩ := List.mem_map.1 hf
      exact .ofBits rfl
    · rw [count_get _ _ _ (.ofBits rfl), hf.get (.ofBits rfl)]
      intro f hf
      rcases List.mem_cons.1 hf with rfl | hf
      · exact .ofBases rfl rfl rfl
      · exact Apart.symm (residues_apart_downs p hf)
  · rw [portFalls_standby h3] at e
    exact .quiet e hf hd
  · rw [portFalls_idle h2 h3] at e
    exact e

/-! Boarding. -/

theorem exec_boardStart {s : State} {w : Writer} (ha : s.accepts w R.chnBoard = true) (ms : BitVec 16) : exec (.boardStart w ms) s =
    let t := s.put F.chnBoardTimeoutMs ms.toNat
    .next (if t.on F.chnBoardStatusBusy then t.put F.chnBoardStatusLastCode 0x542
    else
      let u := t.newEpoch ((t.chain.epoch + 1) % 65536)
      let v := { u with chain := { u.chain with root := Config.serial.toNat, conflict := false, heldRoot := none } }
      ((v.puts [(F.chnAddrAddr, 1), (F.chnAddrRoot, 1), (F.chnBoardStatusBusy, 1), (F.chnBoardStatusUnits, 0)]).tokenOn 2).showTimePort) :=
  congrArg _ (State.writeBy_accepts ha)

theorem boardTimeout_busy (s : State) (ms : Nat) : (s.put F.chnBoardTimeoutMs ms).get F.chnBoardStatusBusy = s.get F.chnBoardStatusBusy :=
  State.get_put_other _ (.ofRegs rfl) (.ofBits rfl) _

/-- The unit as the root of a new epoch, not yet shown in its registers. -/
def State.rootOf (s : State) (epoch : Nat) : State :=
  let u := s.newEpoch epoch
  { u with chain := { u.chain with root := Config.serial.toNat, conflict := false, heldRoot := none } }

theorem rootOf_frame (s : State) (e : Nat) : Frame [F.chnAddrAddr, F.chnAddrRoot, F.chnTopoUpstream, F.chnTopoTopology, F.chnTopoRingState,
    F.chnpStatusRole 0, F.chnpStatusRole 1, F.chnpStatusRole 2] [.chain] s (s.rootOf e) :=
  chainPart (newEpoch_spec s e).1 _ (by simp)

theorem rootOf_get (s : State) (e : Nat) (f : Field) : (s.rootOf e).get f = (s.newEpoch e).get f := by
  unfold State.rootOf
  rw [State.get_mk]

theorem rootOf_upstream (s : State) (e : Nat) : (s.rootOf e).get F.chnTopoUpstream = 3 := (rootOf_get s e _).trans (newEpoch_spec s e).2.1

theorem rootOf_ringState (s : State) (e : Nat) : (s.rootOf e).get F.chnTopoRingState = 0 := (rootOf_get s e _).trans (newEpoch_spec s e).2.2.1

theorem rootOf_chain (s : State) (e : Nat) : (s.rootOf e).chain = { s.chain with
    epoch := e, root := Config.serial.toNat, onC := false, branches := false, mgmt := [], closed := [], data := [], disagree := [], broken := [],
    heldRoot := none, conflict := false, ports := s.chain.ports.map fun x => { x with linkDue := true } } := by
  unfold State.rootOf
  dsimp only
  rw [(newEpoch_spec s e).2.2.2]

/-- The unit as the root of a new epoch. -/
def State.boards (s : State) (ms : Nat) : State :=
  ((s.put F.chnBoardTimeoutMs ms).rootOf ((s.chain.epoch + 1) % 65536)).puts
    [(F.chnAddrAddr, 1), (F.chnAddrRoot, 1), (F.chnBoardStatusBusy, 1), (F.chnBoardStatusUnits, 0)]

theorem boards_frame (s : State) (ms : Nat) : Frame [F.chnBoardTimeoutMs, F.chnAddrAddr, F.chnAddrRoot, F.chnTopoUpstream, F.chnTopoTopology,
    F.chnTopoRingState, F.chnpStatusRole 0, F.chnpStatusRole 1, F.chnpStatusRole 2, F.chnBoardStatusBusy, F.chnBoardStatusUnits] [.chain] s (s.boards ms) :=
  (((Frame.refl _ _ s).put (by simp)).trans ((rootOf_frame _ _).mono (by simp +contextual) (by simp))).puts (by simp)

/-- A field outside the four that the root shows itself in. -/
theorem boards_get_other (s : State) (ms : Nat) {f : Field} (hf : InWord f)
    (h : ∀ g ∈ [F.chnAddrAddr, F.chnAddrRoot, F.chnBoardStatusBusy, F.chnBoardStatusUnits], Apart g f) :
    (s.boards ms).get f = ((s.put F.chnBoardTimeoutMs ms).rootOf ((s.chain.epoch + 1) % 65536)).get f :=
  get_puts_apart _ hf (by simpa using h)

theorem boards_get (s : State) {ms : Nat} (hm : ms < 65536) : (s.boards ms).get F.chnBoardTimeoutMs = ms ∧ (s.boards ms).chainAddr = 1 ∧
    (s.boards ms).get F.chnAddrRoot = 1 ∧ (s.boards ms).get F.chnBoardStatusBusy = 1 ∧ (s.boards ms).get F.chnBoardStatusUnits = 0 ∧
    (s.boards ms).get F.chnTopoUpstream = 3 ∧ (s.boards ms).get F.chnTopoRingState = 0 := by
  refine ⟨?_, ?_, ?_, ?_, ?_, ?_, ?_⟩
  · rw [boards_get_other _ _ (.ofBits rfl) (by simpa using ⟨.ofRegs rfl, .ofRegs rfl, .ofRegs rfl, .ofRegs rfl⟩),
      (rootOf_frame _ _).get (.ofBits rfl) (by simpa using ⟨.ofRegs rfl, .ofRegs rfl, .ofRegs rfl, .ofRegs rfl, .ofRegs rfl,
        .ofRegs rfl, .ofRegs rfl, .ofRegs rfl⟩)]
    exact get_put_of_lt _ (.ofBits rfl) hm
  iterate 4
    unfold State.boards
    simp (disch := first | exact .ofBits rfl | exact .ofRegs rfl) only [State.chainAddr, State.puts_cons, State.puts_nil, State.get_put_same,
      State.get_put_other]
    rfl
  · rw [boards_get_other _ _ (.ofBits rfl) (by simpa using ⟨.ofRegs rfl, .ofRegs rfl, .ofRegs rfl, .ofRegs rfl⟩), rootOf_upstream]
  · rw [boards_get_other _ _ (.ofBits rfl) (by simpa using ⟨.ofRegs rfl, .ofRegs rfl, .ofRegs rfl, .ofRegs rfl⟩), rootOf_ringState]

theorem boards_chain (s : State) (ms : Nat) : (s.boards ms).chain = { s.chain with
    epoch := (s.chain.epoch + 1) % 65536, root := Config.serial.toNat, onC := false, branches := false, mgmt := [], closed := [], data := [],
    disagree := [], broken := [], heldRoot := none, conflict := false, ports := s.chain.ports.map fun x => { x with linkDue := true } } := by
  have h := rootOf_chain (s.put F.chnBoardTimeoutMs ms) ((s.chain.epoch + 1) % 65536)
  rw [State.put_chain] at h
  unfold State.boards
  rw [State.puts_cons, State.puts_cons, State.puts_cons, State.puts_cons, State.puts_nil, State.put_chain, State.put_chain, State.put_chain,
    State.put_chain, h]

/-- The end of a Boarding at its timeout. -/
theorem exec_boardTimeout {s : State} (h : s.get F.chnBoardStatusBusy = 1) : exec (.boardTimeout false) s =
    let t := s.puts [(F.chnBoardStatusBusy, 0), (F.chnBoardStatusLastCode, if s.chain.conflict then 0x544 else 0x541)]
    .next { t with chain := { t.chain with conflict := false, onC := false, heldRoot := none } } := by
  refine if_neg ?_
  rw [on_of _ _ h]
  decide

theorem exec_boardTimeout_idle {s : State} {met : Bool} (h : met = true ∨ s.get F.chnBoardStatusBusy = 0) : exec (.boardTimeout met) s = .next s := by
  refine if_pos ?_
  rcases h with h | h
  · rw [h]; rfl
  · rw [on_off _ _ h]; exact Bool.or_true _

/-! RESTORE. -/

section
variable {s : State} {w : Writer} (ha : s.accepts w R.chnRing = true)
include ha

theorem exec_ringRestore_none (h : s.chain.broken.find? (fun p => s.portSt p == 3) = none) : exec (.ringRestore w) s = .next s := by
  refine (congrArg Host.Outcome.next (State.writeBy_accepts ha)).trans ?_
  rw [h]

theorem exec_ringRestore {p : Nat} (h : s.chain.broken.find? (fun p => s.portSt p == 3) = some p) : exec (.ringRestore w) s =
    let q := s.takeSeq 6
    .next ((q.2.sendOwn [1 - p] false (shortFlit 6 0 0xFFFF s.chainAddr q.1
      (leBytes 2 s.chainAddr ++ leBytes 2 (s.get (F.chnpStatusPeer p))))).closeRing) := by
  refine (congrArg Host.Outcome.next (State.writeBy_accepts ha)).trans ?_
  rw [h]

end

/-! Data views. -/

theorem exec_dataViewLapse_none {s : State} {a : BitVec 16} (h : s.dataView a.toNat = none) (met : Bool) : exec (.dataViewLapse a met) s = .next s := by
  show execDataViewLapse a met s = _
  unfold execDataViewLapse
  rw [h]

theorem exec_dataViewLapse {s : State} {a : BitVec 16} {d : ChainSeen} (h : s.dataView a.toNat = some d) (met : Bool) : exec (.dataViewLapse a met) s =
    if met ∨ s.time.ticks < d.at_ + 250000000 then .next s
    else .next ((({ s with chain := { s.chain with data := s.chain.data.filter fun x => x.addr != a.toNat } }).judgeViews a.toNat).showTimePort) := by
  show execDataViewLapse a met s = _
  unfold execDataViewLapse
  rw [h]

/-- Settles O42: flits due, the loss of a partner, Boarding, RESTORE and the end of a data view. -/
theorem chainPortsAndBoarding : Obligations.ChainPortsAndBoarding := by
  unfold Obligations.ChainPortsAndBoarding
  refine fun s => ⟨fun p => ⟨fun h => ?_, fun h => ?_, fun h => ?_, fun h2 h3 => ?_, fun c hc => ?_⟩, fun w ms ha => ⟨fun hb => ?_, fun hb => ?_⟩,
    exec_boardTimeout_idle (.inl rfl), fun hb => ?_, fun hb => exec_boardTimeout_idle (.inr hb), fun w ha => ⟨fun h => ?_, fun p => exec_ringRestore ha⟩,
    fun a => ⟨?_, fun h => exec_dataViewLapse_none h false, fun d h => ⟨fun ht => ?_, fun ht => ?_⟩⟩⟩
  · have e := exec_linkFlitDue s p
    rw [if_neg h] at e
    exact .quiet e (State.setPort_frame (Frame.refl _ _ s) _ _ (by simp)) rfl
  · rw [exec_linkFlitDue, if_pos h]
  · have e := exec_timeFlitDue s p
    rw [if_pos h] at e
    exact .quiet e (State.setPort_frame (Frame.refl _ _ s) _ _ (by simp)) rfl
  · rw [exec_timeFlitDue, if_neg (by simp [h2, h3])]
  · refine portFalls_spec fun met => ?_
    rcases List.mem_cons.1 hc with rfl | hc
    · rfl
    · rw [List.mem_singleton.1 hc]; rfl
  · have e := exec_boardStart ha ms
    dsimp only at e
    rw [on_of _ _ ((boardTimeout_busy s _).trans hb), if_pos rfl] at e
    exact .quiet e (((Frame.refl _ _ s).put (by simp)).put (by simp))
      ⟨(State.get_put_other _ (.ofRegs rfl) (.ofBits rfl) _).trans (get_put_of_lt _ (.ofBits rfl) ms.isLt),
        get_put_of_lt _ (.ofBits rfl) (by simp [F.chnBoardStatusLastCode])⟩
  · have e := exec_boardStart ha ms
    dsimp only at e
    rw [on_off _ _ ((boardTimeout_busy s _).trans hb), if_neg (by decide)] at e
    obtain ⟨h1, h2, h3, h4, h5, h6, h7⟩ := boards_get s ms.isLt
    have hc := boards_chain s ms.toNat
    refine ⟨s.boards ms.toNat, e, boards_frame s _, h1, h2, h3, h4, h5, h6, h7, ?_⟩
    rw [hc]
    exact ⟨rfl, rfl, rfl, rfl, rfl, rfl, rfl, rfl⟩
  · refine .quiet (exec_boardTimeout hb) (chainPart ((Frame.refl _ _ s).puts (by simp)) _ (by simp)) ⟨?_, ?_, rfl⟩
    · simp (disch := exact .ofBits rfl) only [State.get_mk, State.puts_cons, State.puts_nil, State.get_put_same, State.get_put_other]
      exact Nat.zero_mod _
    · have hv : (if s.chain.conflict then 0x544 else 0x541) < 2 ^ 12 := by split <;> decide
      simp (disch := exact .ofBits rfl) only [State.get_mk, State.puts_cons, State.puts_nil, State.get_put_same]
      exact Nat.mod_eq_of_lt hv
  · exact exec_ringRestore_none ha (List.find?_eq_none.2 fun p hp => by simpa using h p hp)
  · cases h : s.dataView a.toNat with
    | none => exact exec_dataViewLapse_none h true
    | some d => rw [exec_dataViewLapse h, if_pos (.inl rfl)]
  · rw [exec_dataViewLapse h, if_pos (.inr ht)]
  · refine ⟨{ s with chain := { s.chain with data := s.chain.data.filter fun x => x.addr != a.toNat } }, chainPart (Frame.refl _ _ s) _ (by simp), ?_, rfl, ?_⟩
    · rw [exec_dataViewLapse h, if_neg (by simp [ht])]
    · exact List.find?_eq_none.2 fun x hx => by simpa using (List.mem_filter.1 hx).2

end Sys2Proof.Machine
end

section
/-! Discipline of the time (R332, R333, R337, R338, R347). -/

open Sys2Proof Sys2Proof.Machine

namespace Sys2Proof.Machine

/-! Intervals. -/

theorem takeInterval_frame {T : List Field} {P : List Part} {s t : State} (h : Frame T P s t) (m : F.timeOffsetOffset ∈ T) (hm : .time ∈ P) :
    Frame T P s t.takeInterval := (State.setTime_frame h _ hm).put m

theorem takeInterval_get (s : State) : s.takeInterval.get F.timeOffsetOffset =
    ofSval 32 (clampI (-2147483648) 2147483647 (rhe 24 s.takeInterval.time.offset)) % 2 ^ 32 :=
  State.get_put_same _ (.ofBits rfl) _

theorem intervalFull_iff (s : State) : s.intervalFull = true ↔ s.intervalSize ≠ 0 ∧ s.intervalSize ≤ s.time.samples.length := by
  simp [State.intervalFull]

theorem exec_disciplineIntervalEnd_short {s : State} (h : s.intervalFull = false) : exec .disciplineIntervalEnd s = .next s :=
  if_pos (by simp [h])

/-- An interval that is complete, and whether it is acted on. -/
theorem exec_disciplineIntervalEnd {s : State} (h : s.intervalFull = true) : exec .disciplineIntervalEnd s =
    let t := s.takeInterval
    if s.time.holdRoute || t.tickRefLost then .next t
    else
      let v := ((t.setTime fun x => { x with holdSource := false }).showHoldover).correct t.time.offset
      .next (if v.on F.timeStatusHoldover then v else v.judgeLock t.time.offset) :=
  if_neg (by simp [h])

theorem disciplineIntervalEnd_spec {s : State} (h0 : s.intervalSize ≠ 0) (hl : s.intervalSize ≤ s.time.samples.length) :
    let n := s.intervalSize
    let o := rheDiv ((s.time.samples.take n).foldl (· + ·) 0) (2 * n)
    ∃ u, Frame [F.timeOffsetOffset] [.time] s u ∧
      u.get F.timeOffsetOffset = ofSval 32 (clampI (-2147483648) 2147483647 (rhe 24 o)) % 2 ^ 32 ∧
      u.time = { s.time with offset := o, samples := s.time.samples.drop n, fresh := true } ∧ u = s.takeInterval ∧
      (s.time.holdRoute = true ∨ u.tickRefLost = true → exec .disciplineIntervalEnd s = .next u) ∧
      (s.time.holdRoute = false → u.tickRefLost = false →
        let v := ((u.setTime fun x => { x with holdSource := false }).showHoldover).correct o
        exec .disciplineIntervalEnd s = .next (if v.on F.timeStatusHoldover then v else v.judgeLock o)) := by
  intro n o
  have e := exec_disciplineIntervalEnd ((intervalFull_iff s).2 ⟨h0, hl⟩)
  refine ⟨s.takeInterval, takeInterval_frame (Frame.refl _ _ s) (by simp) (by simp), takeInterval_get s, rfl, rfl, fun h => ?_, fun h1 h2 => ?_⟩
  · exact e.trans (if_pos (by simpa using h))
  · exact e.trans (if_neg (by simp [h1, h2]))

/-! An offset acted on. -/

theorem correct_small {s : State} {o : Int} (h : o.natAbs ≤ s.jumpLimit) : s.correct o =
    (s.setTime fun x => { x with slew := -o, jump := none }).puts [(F.timeStatusDegraded, 0), (F.timeStatusJumpPending, 0)] := if_pos h

theorem correct_large {s : State} {o : Int} (h : s.jumpLimit < o.natAbs) : s.correct o =
    (s.setTime fun x => { x with jump := some (-o) }).put F.timeStatusJumpPending 1 := if_neg (by omega)

theorem correct_frame (s : State) (o : Int) : Frame [F.timeStatusDegraded, F.timeStatusJumpPending] [.time] s (s.correct o) := by
  rcases Nat.lt_or_ge s.jumpLimit o.natAbs with h | h
  · rw [correct_large h]; exact (State.setTime_frame (Frame.refl _ _ s) _ (by simp)).put (by simp)
  · rw [correct_small h]; exact (State.setTime_frame (Frame.refl _ _ s) _ (by simp)).puts (by simp)

theorem correct_small_reads {s : State} {o : Int} (h : o.natAbs ≤ s.jumpLimit) : (s.correct o).get F.timeStatusDegraded = 0 ∧
    (s.correct o).get F.timeStatusJumpPending = 0 ∧ (s.correct o).time = { s.time with slew := -o, jump := none } := by
  rw [correct_small h]
  refine ⟨?_, ?_, rfl⟩
  · simp (disch := exact .ofBits rfl) only [State.puts_cons, State.puts_nil, State.get_put_same, State.get_put_other]
    rfl
  · exact get_put_of_lt _ (.ofBits rfl) (by decide)

theorem correct_large_reads {s : State} {o : Int} (h : s.jumpLimit < o.natAbs) :
    (s.correct o).get F.timeStatusDegraded = s.get F.timeStatusDegraded ∧ (s.correct o).get F.timeStatusJumpPending = 1 ∧
      (s.correct o).time = { s.time with jump := some (-o) } := by
  rw [correct_large h]
  exact ⟨(State.get_put_other _ (.ofBits rfl) (.ofBits rfl) _).trans (State.setTime_get _ _ _), get_put_of_lt _ (.ofBits rfl) (by decide), rfl⟩

/-! LOCKED. -/

/-- Good intervals after one of offset o. -/
def State.goodAfter (s : State) (o : Int) : Nat := if o.natAbs ≤ 4 * nsUnit then s.time.good + 1 else 0

/-- The state in which an interval of offset o is counted. -/
def State.goodNoted (s : State) (o : Int) : State := s.setTime fun x => { x with good := s.goodAfter o }

theorem judgeLock_eq (s : State) (o : Int) : s.judgeLock o =
    if 20 * nsUnit < o.natAbs then (s.goodNoted o).put F.timeStatusLocked 0
    else if 16 ≤ s.goodAfter o ∧ !s.on F.timeStatusLocked then
      (((s.goodNoted o).put F.timeStatusLocked 1).setTime fun x => { x with everLocked := true }).raise 544
    else s.goodNoted o := rfl

theorem goodNoted_frame {T : List Field} {P : List Part} (s : State) (o : Int) (hm : .time ∈ P) : Frame T P s (s.goodNoted o) :=
  State.setTime_frame (Frame.refl _ _ s) _ hm

theorem goodNoted_get (s : State) (o : Int) (f : Field) : (s.goodNoted o).get f = s.get f := State.setTime_get _ _ _

theorem judgeLock_spec (s : State) (o : Int) :
    ∃ u, Frame [F.timeStatusLocked] [.time] s u ∧ u.time.good = s.goodAfter o ∧
      (20 * nsUnit < o.natAbs → s.judgeLock o = u ∧ u.get F.timeStatusLocked = 0) ∧
      (o.natAbs ≤ 20 * nsUnit → 16 ≤ s.goodAfter o → s.get F.timeStatusLocked = 0 → s.judgeLock o = u.raise 544 ∧ u.get F.timeStatusLocked = 1) ∧
      (o.natAbs ≤ 20 * nsUnit → s.goodAfter o < 16 ∨ s.get F.timeStatusLocked = 1 →
        s.judgeLock o = u ∧ u.get F.timeStatusLocked = s.get F.timeStatusLocked) := by
  have e := judgeLock_eq s o
  have hf := goodNoted_frame (T := [F.timeStatusLocked]) (P := [.time]) s o (by simp)
  rcases Nat.lt_or_ge (20 * nsUnit) o.natAbs with h | h
  · rw [if_pos h] at e
    exact ⟨_, hf.put (by simp), rfl, fun _ => ⟨e, get_put_of_lt _ (.ofBits rfl) (by decide)⟩, fun h' => absurd h (by omega), fun h' => absurd h (by omega)⟩
  · rw [if_neg (by omega)] at e
    by_cases hg : 16 ≤ s.goodAfter o ∧ s.get F.timeStatusLocked = 0
    · rw [if_pos ⟨hg.1, by rw [on_off _ _ hg.2]; rfl⟩] at e
      refine ⟨_, State.setTime_frame (hf.put (by simp)) _ (by simp), rfl, fun h' => absurd h (by omega), fun _ _ _ => ⟨e, ?_⟩, fun _ h' => absurd hg (by omega)⟩
      rw [State.setTime_get]
      exact get_put_of_lt _ (.ofBits rfl) (by decide)
    · rw [if_neg fun h' => hg ⟨h'.1, (on_false_iff s rfl).1 (by simpa using h'.2)⟩] at e
      exact ⟨_, hf, rfl, fun h' => absurd h (by omega), fun _ h1 h2 => absurd ⟨h1, h2⟩ hg, fun _ _ => ⟨e, goodNoted_get s o _⟩⟩

/-! Holdover. -/

/-- Whether a reason holds the unit over. -/
def State.heldOver (s : State) : Bool := s.time.holdSource || s.time.holdRoute

theorem showHoldover_off {s : State} (h : s.heldOver = false) : s.showHoldover = s.put F.timeStatusHoldover 0 := by
  unfold State.showHoldover
  rw [show (s.time.holdSource || s.time.holdRoute) = false from h]
  rfl

/-- HOLDOVER shown, LOCKED lost. -/
def State.holdoverShown (s : State) : State :=
  ((s.put F.timeStatusHoldover 1).put F.timeStatusLocked 0).setTime fun x => { x with good := 0 }

theorem showHoldover_on {s : State} (h : s.heldOver = true) : s.showHoldover = s.holdoverShown.raiseIf (!s.on F.timeStatusHoldover) 545 := by
  unfold State.showHoldover
  rw [show (s.time.holdSource || s.time.holdRoute) = true from h]
  rfl

theorem holdoverShown_get (s : State) : s.holdoverShown.get F.timeStatusHoldover = 1 ∧ s.holdoverShown.get F.timeStatusLocked = 0 := by
  unfold State.holdoverShown
  rw [State.setTime_get, State.setTime_get, State.get_put_other _ (.ofBits rfl) (.ofBits rfl)]
  exact ⟨get_put_of_lt _ (.ofBits rfl) (by decide), get_put_of_lt _ (.ofBits rfl) (by decide)⟩

theorem showHoldover_spec (s : State) :
    ∃ u, Frame [F.timeStatusHoldover, F.timeStatusLocked] [.time] s u ∧ u.get F.timeStatusHoldover = s.heldOver.toNat ∧
      (s.heldOver = false → s.showHoldover = u ∧ u.get F.timeStatusLocked = s.get F.timeStatusLocked ∧ u.time = s.time) ∧
      (s.heldOver = true → u.get F.timeStatusLocked = 0 ∧ u.time = { s.time with good := 0 } ∧
        (s.get F.timeStatusHoldover = 0 → s.showHoldover = u.raise 545) ∧ (s.get F.timeStatusHoldover = 1 → s.showHoldover = u)) := by
  cases h : s.heldOver with
  | false =>
    refine ⟨_, (Frame.refl _ _ s).put (by simp), get_put_of_lt _ (.ofBits rfl) (by decide), fun _ => ⟨showHoldover_off h, ?_, rfl⟩, nofun⟩
    exact State.get_put_other _ (.ofBits rfl) (.ofBits rfl) _
  | true =>
    obtain ⟨h1, h2⟩ := holdoverShown_get s
    have e := showHoldover_on h
    refine ⟨s.holdoverShown, State.setTime_frame (((Frame.refl _ _ s).put (by simp)).put (by simp)) _ (by simp), h1, nofun, fun _ => ⟨h2, rfl, fun h0 => ?_, fun h1 => ?_⟩⟩
    · rw [e, on_off _ _ h0]; rfl
    · rw [e, on_of _ _ h1]; rfl

/-- The state in which a lost source is noted with a code. -/
def State.sourceLost (s : State) (code : Nat) : State :=
  (s.put F.timeStatusLastCode code).setTime fun x => { x with holdSource := true, samples := [] }

theorem loseSource_eq (s : State) (code : Nat) : s.loseSource code = ((s.sourceLost code).raise 547).showHoldover := rfl

theorem sourceLost_get (s : State) (code : Nat) : (s.sourceLost code).get F.timeStatusLastCode = code % 2 ^ 12 := by
  unfold State.sourceLost
  rw [State.setTime_get]
  exact State.get_put_same _ (.ofBits rfl) _

/-! The correction of INCR. -/

theorem exec_incrCorrection_held {s : State} (h : s.get F.timeStatusDisciplined = 0 ∨ s.get F.timeStatusHoldover = 1) : exec .incrCorrection s =
    .next (s.setTime fun x => { x with secondOffset := none, slewed := 0 }) := by
  refine if_pos (h.imp (fun h => ?_) fun h => ?_)
  · rw [on_off _ _ h]; rfl
  · exact on_of _ _ h

/-- INCR corrected by the change of the offset since the last second. -/
def State.incrCorrected (s : State) : State := match s.time.secondOffset with
  | none => s
  | some p => s.setIncr ((s.timeIncr : Int) - rheDiv (s.time.offset - p - s.time.slewed) 250000000)

theorem exec_incrCorrection {s : State} (hd : s.get F.timeStatusDisciplined = 1) (hh : s.get F.timeStatusHoldover = 0) : exec .incrCorrection s =
    .next (s.incrCorrected.setTime fun x => { x with secondOffset := some s.time.offset, slewed := 0 }) :=
  if_neg (by rw [on_of _ _ hd, on_off _ _ hh]; decide)

theorem incrCorrected_none {s : State} (h : s.time.secondOffset = none) : s.incrCorrected = s := by
  unfold State.incrCorrected
  rw [h]

theorem incrCorrected_some {s : State} {p : Int} (h : s.time.secondOffset = some p) :
    s.incrCorrected = s.setIncr ((s.timeIncr : Int) - rheDiv (s.time.offset - p - s.time.slewed) 250000000) := by
  unfold State.incrCorrected
  rw [h]

theorem setIncr_frame {T : List Field} {P : List Part} {s t : State} (h : Frame T P s t) (v : Int) (m1 : F.timeIncrHiNs ∈ T) (m2 : F.timeIncrLoFrac ∈ T) :
    Frame T P s (t.setIncr v) := h.puts (by simp [m1, m2])

theorem setIncr_time (s : State) (v : Int) : (s.setIncr v).time = s.time := rfl

theorem incrCorrected_frame (s : State) : Frame [F.timeIncrHiNs, F.timeIncrLoFrac] [.time] s s.incrCorrected := by
  unfold State.incrCorrected
  split
  · exact Frame.refl _ _ s
  · exact setIncr_frame (Frame.refl _ _ s) _ (by simp) (by simp)

theorem incrCorrected_time (s : State) : s.incrCorrected.time = s.time := by
  unfold State.incrCorrected
  split
  · rfl
  · exact setIncr_time _ _

/-- The two halves of TIME_INCR set to those of a value that fits them. -/
theorem incr_puts (s : State) {c : Nat} (hc : c < 2 ^ 64) : (s.puts [(F.timeIncrHiNs, c / 2 ^ 32), (F.timeIncrLoFrac, c)]).timeIncr = c := by
  have hh : c / 2 ^ 32 < 2 ^ (F.timeIncrHiNs.hi + 1 - F.timeIncrHiNs.lo) := Nat.div_lt_of_lt_mul hc
  have ha : Apart F.timeIncrLoFrac F.timeIncrHiNs := .ofRegs rfl
  unfold State.timeIncr
  rw [State.puts_cons, State.puts_cons, State.puts_nil, State.get_put_other _ ha (.ofBits rfl), get_put_of_lt _ (.ofBits rfl) hh,
    State.get_put_same _ (.ofBits rfl)]
  exact Nat.div_add_mod' c (2 ^ 32)

/-- TIME_INCR reads as it was set, within its bounds. -/
theorem setIncr_timeIncr (s : State) (v : Int) : ((s.setIncr v).timeIncr : Int) = clampI 17162689315 17197049053 v := by
  have hb : 17162689315 ≤ clampI 17162689315 17197049053 v ∧ clampI 17162689315 17197049053 v ≤ 17197049053 := by
    unfold clampI
    split
    · decide
    · split
      · decide
      · omega
  unfold State.setIncr
  rw [incr_puts s (by omega)]
  omega

/-! PTM. -/

theorem exec_ptmDialog (s : State) : exec .ptmDialog s =
    if s.hasSource 1 && s.on F.timePtmCtrlEn && !s.time.ptmOpen && !s.inWinter then
      .next (if s.host.linkUp then (s.setTime fun x => { x with ptmOpen := true }).toHost .ptmRequest else s.ptmFailed)
    else .next s := rfl

/-- When a PTM dialog is due, as the command asks it. -/
theorem ptmDue_iff (s : State) : (s.hasSource 1 && s.on F.timePtmCtrlEn && !s.time.ptmOpen && !s.inWinter) = true ↔
    s.timeRole < 2 ∧ s.timeSource = 1 ∧ s.get F.timePtmCtrlEn = 1 ∧ s.time.ptmOpen = false ∧ s.inWinter = false := by
  simp only [State.hasSource, Bool.and_eq_true, on_true_iff, decide_eq_true_eq, beq_iff_eq, Bool.not_eq_true', and_assoc]

theorem ptmFailed_eq (s : State) : s.ptmFailed =
    let u := s.setTime fun x => { x with ptmFails := min 3 (x.ptmFails + 1), ptmPrev := none }
    if s.time.ptmFails = 2 then u.loseSource 0x604 else u := rfl

theorem exec_ptmDialogComplete_closed {s : State} (h : s.time.ptmOpen = false) (r : Option (BitVec 96 × BitVec 96 × BitVec 64 × Word)) :
    exec (.ptmDialogComplete r) s = .next s := if_pos (by simp [h])

theorem exec_ptmDialogComplete_failed {s : State} (h : s.time.ptmOpen = true) : exec (.ptmDialogComplete none) s =
    .next (s.setTime fun x => { x with ptmOpen := false }).ptmFailed := if_neg (by simp [h])

theorem exec_ptmDialogComplete {s : State} (h : s.time.ptmOpen = true) (t1 t4 : BitVec 96) (master : BitVec 64) (delay : Word) :
    let m := addTime (master.toNat * nsUnit) (sval 64 (s.get F.timePtmOffsetLoNs + 2 ^ 32 * s.get F.timePtmOffsetHiNs) * (nsUnit : Int))
    let u := s.setTime fun x => { x with ptmOpen := false, ptmFails := 0, ptmPrev := some (t1, t4) }
    exec (.ptmDialogComplete (some (t1, t4, master, delay))) s = .next (match s.time.ptmPrev with
      | some (p1, p4) => u.sample (2 * stampDiff t1.toNat m + (stampDiff p4.toNat p1.toNat - (delay.toNat * nsUnit : Nat)))
      | none => u) := if_neg (by simp [h])

theorem ptmDialogComplete_sample {s : State} (h : s.time.ptmOpen = true) (t1 t4 : BitVec 96) (master : BitVec 64) (delay : Word) :
    let m := addTime (master.toNat * nsUnit) (sval 64 (s.get F.timePtmOffsetLoNs + 2 ^ 32 * s.get F.timePtmOffsetHiNs) * (nsUnit : Int))
    let o (p : BitVec 96 × BitVec 96) : Int := 2 * stampDiff t1.toNat m + (stampDiff p.2.toNat p.1.toNat - (delay.toNat * nsUnit : Nat))
    Yields (.ptmDialogComplete (some (t1, t4, master, delay))) s [] [] [.time] fun u =>
      u.time = { s.time with
        ptmOpen := false, ptmFails := 0, ptmPrev := some (t1, t4),
        samples := s.time.samples ++ (match s.time.ptmPrev with | some p => [o p] | none => []) } := by
  intro m o
  have e := exec_ptmDialogComplete h t1 t4 master delay
  have hf := State.setTime_frame (Frame.refl [] [.time] s) (fun x => { x with ptmOpen := false, ptmFails := 0, ptmPrev := some (t1, t4) }) (by simp)
  dsimp only at e
  cases hp : s.time.ptmPrev with
  | none =>
    rw [hp] at e
    refine .quiet e hf ?_
    rw [State.setTime_time]
    simp
  | some p =>
    rw [hp] at e
    exact .quiet e (State.setTime_frame hf _ (by simp)) rfl

/-! The end of a holdover. -/

theorem exec_holdoverEnd_none {s : State} (h : s.time.holdRoute = false) (met : Bool) : exec (.holdoverEnd met) s = .next s := if_pos (by simp [h])

theorem exec_holdoverEnd {s : State} (h : s.time.holdRoute = true) (met : Bool) : exec (.holdoverEnd met) s =
    let w := if met = true ∧ s.intervalFull = true then s.takeInterval else s
    let t := (w.setTime fun x => { x with holdRoute := false }).showHoldover
    .next (if t.time.fresh && t.on F.timeStatusDisciplined && !t.time.holdSource then t.correct t.time.offset else t) := by
  have hw : (if (met && s.intervalFull) = true then s.takeInterval else s) = if met = true ∧ s.intervalFull = true then s.takeInterval else s :=
    if_congr (Bool.and_eq_true _ _ ▸ Iff.rfl) rfl rfl
  show execHoldoverEnd met s = _
  unfold execHoldoverEnd
  rw [if_neg (by simp [h])]
  dsimp only
  rw [hw]

theorem exec_ppsLoss (s : State) : exec (.ppsLoss false) s =
    .next (if s.timeRole < 2 ∧ s.timeSource = 3 ∧ s.time.holdSource = false then s.loseSource 0x602 else s) := by
  show Host.Outcome.next (s.sourceFails 3) = _
  unfold State.sourceFails State.hasSource
  refine congrArg _ (if_congr ?_ rfl rfl)
  simp [and_assoc]

/-! REFIN. -/

/-- The state in which REFIN is noted as lost, and the loss counted. -/
def State.refinGone (s : State) : State := ((s.setTime fun x => { x with refinLost := true }).put F.clkStatusRefinOk 0).count F.clkRefLossesRefin 1

theorem refinGone_frame (s : State) : Frame [F.clkStatusRefinOk, F.clkRefLossesRefin] [.time] s s.refinGone :=
  ((State.setTime_frame (Frame.refl _ _ s) _ (by simp)).put (by simp)).count (by simp)

theorem refinGone_ok (s : State) : s.refinGone.get F.clkStatusRefinOk = 0 :=
  (count_get_other _ _ (.ofRegs rfl) (.ofBits rfl)).trans (get_put_of_lt _ (.ofBits rfl) (by decide))

theorem refinGone_losses (s : State) : s.refinGone.get F.clkRefLossesRefin = min 65535 (s.get F.clkRefLossesRefin + 1) := by
  refine (count_get _ _ _ (.ofBits rfl)).trans ?_
  rw [State.get_put_other _ (.ofRegs rfl) (.ofBits rfl), State.setTime_get]
  rfl

theorem refinGone_tickRefLost (s : State) : s.refinGone.tickRefLost = if bit s.sst.clocks.toNat 8 then true else s.time.refclkLost := rfl

/-- REFIN is not in use, or the part is off or in Winter. -/
def State.refinAbsent (s : State) : Prop := bits s.sst.clocks.toNat 1 0 = 0 ∨ s.power.off = true ∨ s.inWinter = true

theorem exec_refinLoss_idle {s : State} {met : Bool} (h : met = true ∨ s.refinAbsent ∨ s.time.refinLost = true) : exec (.refinLoss met) s = .next s := by
  refine if_pos ?_
  unfold State.refinAbsent at h
  tauto

theorem exec_refinLoss {s : State} (ha : ¬ s.refinAbsent) (hl : s.time.refinLost = false) : exec (.refinLoss false) s =
    .next (if s.refinGone.tickRefLost then (s.refinGone.raise 548).loseSource 0x602 else s.refinGone.raise 548) := by
  rw [← raise_tickRefLost _ 548]
  refine if_neg ?_
  unfold State.refinAbsent at ha
  simp only [hl, Bool.false_eq_true, false_or]
  exact ha

/-- The loss of REFIN leaves the tick without a reference where it runs on REFIN, or REFCLK is lost too. -/
theorem refinGone_tickRefLost_iff {s : State} (hl : s.time.refinLost = false) :
    s.refinGone.tickRefLost = true ↔ s.tickRefLost = true ∨ bit s.sst.clocks.toNat 8 = true := by
  rw [refinGone_tickRefLost, State.tickRefLost]
  split <;> simp_all

/-- The state in which REFIN is noted as in range. -/
def State.refinThere (s : State) : State := (s.setTime fun x => { x with refinLost := false }).put F.clkStatusRefinOk 1

theorem exec_refinRestore {s : State} (ha : ¬ s.refinAbsent) : exec .refinRestore s =
    .next (if s.time.refinLost then (s.refinThere.raise 11).tickRefBack else s.refinThere) := if_neg ha

/-- Settles O46: intervals, lock, holdover, the correction of INCR, PTM, and the losses of the references. -/
theorem timeDiscipline : Obligations.TimeDiscipline := by
  unfold Obligations.TimeDiscipline
  refine fun s => ⟨⟨fun h => ?_, disciplineIntervalEnd_spec⟩, fun o => ⟨_, rfl, correct_frame s o, correct_small_reads, correct_large_reads⟩,
    judgeLock_spec s, showHoldover_spec s, fun code => ⟨s.sourceLost code, loseSource_eq s code, State.setTime_frame ((Frame.refl _ _ s).put (by simp)) _ (by simp),
      sourceLost_get s code, rfl⟩, fun h => .quiet (exec_incrCorrection_held h) (State.setTime_frame (Frame.refl _ _ s) _ (by simp)) rfl, fun hd hh => ?_,
    ⟨fun ho hl => ?_, fun ho hl => ?_, fun hn => ?_⟩, fun r h => exec_ptmDialogComplete_closed h r, fun t1 t4 m d h => ptmDialogComplete_sample h t1 t4 m d,
    fun h => ⟨s.setTime fun x => { x with ptmOpen := false, ptmFails := min 3 (x.ptmFails + 1), ptmPrev := none },
      State.setTime_frame (Frame.refl _ _ s) _ (by simp), rfl, exec_ptmDialogComplete_failed h⟩,
    fun h met => exec_holdoverEnd_none h met, fun h met => ?_, rfl, exec_ppsLoss s,
    ⟨exec_refinLoss_idle (.inl rfl), fun h => exec_refinLoss_idle (.inr h), fun ha hl => ?_, fun h => if_pos h, fun ha => ?_⟩⟩
  · refine exec_disciplineIntervalEnd_short (Bool.eq_false_iff.2 fun hf => ?_)
    obtain ⟨h0, h1⟩ := (intervalFull_iff s).1 hf
    omega
  · refine .quiet (exec_incrCorrection hd hh) (State.setTime_frame (incrCorrected_frame s) _ (by simp)) ⟨?_, fun hn => ?_, fun p hp => ?_⟩
    · rw [State.setTime_time, incrCorrected_time]
    · rw [incrCorrected_none hn]; rfl
    · rw [incrCorrected_some hp]
      exact setIncr_timeIncr _ _
  · have e := exec_ptmDialog s
    rw [if_pos ((ptmDue_iff s).2 ho), hl, if_neg (by decide), ptmFailed_eq] at e
    exact ⟨_, State.setTime_frame (Frame.refl _ _ s) _ (by simp), rfl, e⟩
  · have e := exec_ptmDialog s
    rw [if_pos ((ptmDue_iff s).2 ho), hl, if_pos rfl] at e
    exact ⟨_, e, State.setTime_frame (Frame.refl _ _ s) _ (by simp), rfl⟩
  · rw [exec_ptmDialog, if_neg (mt (ptmDue_iff s).1 hn)]
  · exact ⟨_, _, rfl, State.setTime_frame (Frame.refl _ _ _) _ (by simp), State.setTime_time _ (fun x => { x with holdRoute := false }),
      exec_holdoverEnd h met⟩
  · refine ⟨s.refinGone, refinGone_frame s, refinGone_ok s, refinGone_losses s, rfl, (exec_refinLoss ha hl).trans (congrArg _ ?_)⟩
    exact if_congr (refinGone_tickRefLost_iff hl) rfl rfl
  · have e := exec_refinRestore ha
    refine ⟨s.refinThere, (State.setTime_frame (Frame.refl _ _ s) _ (by simp)).put (by simp), get_put_of_lt _ (.ofBits rfl) (by decide), rfl, fun hl => ?_, fun hl => ?_⟩
    · rw [e, hl]; rfl
    · rw [e, hl]; rfl

end Sys2Proof.Machine
end

section
/-! Winter and Thaw (R393 to R396, R243, R244, R433, R442). -/

open Sys2Proof Sys2Proof.Machine

namespace Sys2Proof.Machine

/-- An event raised where a count is not 0. -/
theorem raiseIf_ne_zero (s : State) (n k : Nat) : s.raiseIf (n != 0) k = if n = 0 then s else s.raise k := by
  unfold State.raiseIf
  by_cases h : n = 0 <;> simp [h]

/-! Entry. -/

theorem exec_winterQuiesced (s : State) : exec .winterQuiesced s = .next (if s.powerState = 4 && s.quiesced then s.intoWinter else s) := rfl

/-- The state of the part once it is in Winter. -/
theorem intoWinter_spec (s : State) : s.intoWinter.powerState = 5 ∧ s.intoWinter.hold.unready = List.range 16 ∧ s.intoWinter.hold.wave = [] ∧
    s.intoWinter.power.fabricOff = true ∧ s.intoWinter.power.pwrRetLow = true := by
  unfold State.intoWinter
  dsimp only
  generalize State.lapseViews _ = t
  refine ⟨get_put_of_lt _ (.ofBits rfl) (by decide), by rw [State.put_hold], by rw [State.put_hold], ?_, ?_⟩
  · rw [State.put_power]
    show t.fabricDown.power.fabricOff = true
    rw [fabricDown_power]
  · rw [State.put_power]
    rfl

theorem exec_winterEntryTimeout (s : State) (met : Bool) : exec (.winterEntryTimeout met) s =
    .next (if s.powerState = 4 && !met then s.abandonEntry.wakeOutputs else s) := rfl

/-! The switches. -/

theorem exec_vddHoldLate (s : State) (met : Bool) : exec (.vddHoldLate met) s =
    .next (if met = false && s.powerState = 6 && !s.power.switchesClosed && !s.power.vddHoldLate then
      (s.setPower fun p => { p with vddHoldLate := true }).raise 28 else s) := rfl

theorem setPower_frame {T : List Field} {P : List Part} {s t : State} (h : Frame T P s t) (f : PowerState → PowerState) (m : .power ∈ P) :
    Frame T P s (t.setPower f) := powerPart h _ m

/-- Messages sent in a row. -/
theorem emits_out (f : Nat → Out) (l : List Nat) (s : State) : (l.foldl (fun t i => t.emit (f i)) s).out = (l.map f).reverse ++ s.out := by
  induction l generalizing s with
  | nil => rfl
  | cons i l ih =>
    rw [List.foldl_cons, ih, List.map_cons, List.reverse_cons, List.append_assoc]
    rfl

theorem emits_frame {T : List Field} {P : List Part} {s t : State} (h : Frame T P s t) (f : Nat → Out) (l : List Nat) (m : .out ∈ P) :
    Frame T P s (l.foldl (fun t i => t.emit (f i)) t) := by
  induction l generalizing t with
  | nil => exact h
  | cons i l ih => exact ih (h.emit m)

theorem losebank_frame {T : List Field} {P : List Part} {s t : State} (h : Frame T P s t) (b : Nat) (m1 : .hold ∈ P) (m2 : .free ∈ P) :
    Frame T P s (t.losebank b) :=
  h.fields fun p hp => by cases p <;> first | rfl | exact absurd m1 hp | exact absurd m2 hp

theorem losebanks_frame {T : List Field} {P : List Part} {s t : State} (h : Frame T P s t) (l : List Nat) (m1 : .hold ∈ P) (m2 : .free ∈ P) :
    Frame T P s (l.foldl State.losebank t) := by
  induction l generalizing t with
  | nil => exact h
  | cons b l ih => exact ih (losebank_frame h b m1 m2)

/-- The banks of the groups that Winter keeps. -/
def State.keptBanks (s : State) : List Nat := (List.range 256).filter fun b => bit (s.get F.holdGroupStatusKept) (b / 16)

/-- The state in which retention has lost the kept groups or not. -/
def State.retained (s : State) (lost : Bool) : State := if lost then s.keptBanks.foldl State.losebank s else s

theorem retained_frame (s : State) (lost : Bool) : Frame [] [.hold, .free] s (s.retained lost) := by
  unfold State.retained
  split
  · exact losebanks_frame (Frame.refl _ _ s) _ (by simp) (by simp)
  · exact Frame.refl _ _ s

theorem exec_thawSwitchesClose {s : State} (h6 : s.powerState = 6) (hc : s.power.switchesClosed = false) (lost : Bool) :
    exec (.thawSwitchesClose lost) s = .next ((if (s.retained lost).get F.glbStateState = 2 then (s.retained lost).plrlPins true
      else s.retained lost).setPower fun p => { p with switchesClosed := true }) :=
  congrArg _ (if_neg (by simp [h6, hc]))

theorem exec_thawSwitchesClose_idle {s : State} (h : s.powerState ≠ 6 ∨ s.power.switchesClosed = true) (lost : Bool) :
    exec (.thawSwitchesClose lost) s = .next s :=
  congrArg _ (if_pos (by simpa using h))

theorem thawSwitchesClose_spec {s : State} (h6 : s.powerState = 6) (hc : s.power.switchesClosed = false) (lost : Bool) :
    ∃ u, exec (.thawSwitchesClose lost) s = .next u ∧ Frame [] [.power, .out] (s.retained lost) u ∧ u.power = { s.power with switchesClosed := true } ∧
      u.out = (if s.get F.glbStateState = 2 then ((List.range 16).map fun i => Out.plrl (i / 4) (i % 4) true).reverse else []) ++ s.out := by
  have e := exec_thawSwitchesClose h6 hc lost
  have hr := retained_frame s lost
  have hg : (s.retained lost).get F.glbStateState = s.get F.glbStateState := hr.get (.ofBits rfl) (by simp)
  have hp : (s.retained lost).power = s.power := hr.rest .power (by simp)
  have ho : (s.retained lost).out = s.out := hr.rest .out (by simp)
  rw [hg] at e
  generalize s.retained lost = t at e hp ho ⊢
  refine ⟨_, e, ?_⟩
  by_cases h2 : s.get F.glbStateState = 2
  · simp only [if_pos h2]
    have hf : Frame [] [.power, .out] t (t.plrlPins true) := emits_frame (Frame.refl _ _ t) _ _ (by simp)
    have hpp : (t.plrlPins true).power = t.power := (emits_frame (Frame.refl [] [.out] t) _ _ (by simp)).rest .power (by simp)
    refine ⟨setPower_frame hf _ (by simp), ?_, ?_⟩
    · unfold State.setPower; rw [hpp, hp]
    · exact (emits_out _ _ _).trans (by rw [ho])
  · simp only [if_neg h2]
    refine ⟨setPower_frame (Frame.refl _ _ t) _ (by simp), ?_, ?_⟩
    · unfold State.setPower; rw [hp]
    · exact ho

/-! The PLLs and the waves of groups. -/

/-- The groups that wake together next, of those that are not ready. -/
def State.waveOf (s : State) (l : List Nat) : List Nat :=
  let kept := l.filter fun g => bit (s.get F.holdGroupStatusKept) g
  (if kept.isEmpty then l else kept).take 4

theorem beginWave_hold (s : State) : s.beginWave.hold = { s.hold with wave := s.waveOf s.hold.unready } := rfl

theorem beginWave_frame {T : List Field} {P : List Part} {s t : State} (h : Frame T P s t) (m : .hold ∈ P) : Frame T P s t.beginWave := holdPart h _ m

/-- The state in which the PLLs of the switched domains are locked. -/
def State.pllsLocked (s : State) : State := (s.setPower fun p => { p with fabricOff := false }).lockPlls

theorem pllsLocked_frame (s : State) : Frame [F.clkStatusFabricLock, F.clkStatusPurserLock, F.clkStatusTickLock] [.power] s s.pllsLocked :=
  (setPower_frame (Frame.refl _ _ s) _ (by simp)).puts (by simp)

theorem pllsLocked_get (s : State) : s.pllsLocked.get F.clkStatusFabricLock = 1 ∧ s.pllsLocked.get F.clkStatusPurserLock = 1 ∧
    s.pllsLocked.get F.clkStatusTickLock = 1 := by
  unfold State.pllsLocked State.lockPlls
  refine ⟨?_, ?_, ?_⟩ <;>
    simp (disch := exact .ofBits rfl) only [State.puts_cons, State.puts_nil, State.get_put_same, State.get_put_other] <;> rfl

theorem pllsLocked_power (s : State) : s.pllsLocked.power = { s.power with fabricOff := false } := by
  unfold State.pllsLocked State.lockPlls
  simp only [State.puts_cons, State.puts_nil, State.put_power]
  rfl

theorem exec_thawPllsLocked {s : State} (h6 : s.powerState = 6) (hc : s.power.switchesClosed = true) (hf : s.power.fabricOff = true) :
    exec .thawPllsLocked s = .next s.pllsLocked.serve.beginWave := congrArg _ (if_pos (by simp [h6, hc, hf]))

theorem exec_thawPllsLocked_idle {s : State} (h : s.powerState ≠ 6 ∨ s.power.switchesClosed = false ∨ s.power.fabricOff = false) :
    exec .thawPllsLocked s = .next s := by
  refine congrArg _ (if_neg ?_)
  rcases h with h | h | h <;> simp [h]

/-! A group that is ready. -/

/-- The state in which group g is cleared when Winter lost it. -/
def State.groupCleared (s : State) (g : Nat) : State :=
  if s.get F.holdGroupStatusLost / 2 ^ g % 2 = 1 then s.clearRange (g * 0x4000000) ((g + 1) * 0x4000000) else s

theorem groupCleared_hold (s : State) (g : Nat) : (s.groupCleared g).hold.unready = s.hold.unready ∧ (s.groupCleared g).hold.wave = s.hold.wave ∧
    (s.groupCleared g).hold.held = s.hold.held := by
  unfold State.groupCleared
  split <;> exact ⟨rfl, rfl, rfl⟩

theorem groupCleared_frame (s : State) (g : Nat) : Frame [] [.hold] s (s.groupCleared g) := by
  unfold State.groupCleared
  split
  · exact holdPart (Frame.refl _ _ s) _ (by simp)
  · exact Frame.refl _ _ s

/-- A lost group reads 0 afterwards. -/
theorem groupCleared_byte (s : State) (g a : Nat) : (s.groupCleared g).holdByte a =
    if s.get F.holdGroupStatusLost / 2 ^ g % 2 = 1 ∧ g * 0x4000000 ≤ a ∧ a < (g + 1) * 0x4000000 then 0 else s.holdByte a := by
  unfold State.groupCleared
  by_cases h : s.get F.holdGroupStatusLost / 2 ^ g % 2 = 1
  · rw [if_pos h, show g * 0x4000000 = (16 * g) * 0x400000 by omega, show (g + 1) * 0x4000000 = (16 * (g + 1)) * 0x400000 by omega, clear_byte]
    exact if_congr (by simp only [h, true_and]) rfl rfl
  · rw [if_neg h, if_neg fun h' => h h'.1]

/-- The state in which group g is ready, the next wave begun when it was the last of its own. -/
def State.groupUp (s : State) (g : Nat) : State :=
  let t := s.groupCleared g
  let u := { t with hold := { t.hold with unready := t.hold.unready.filter (· != g), wave := t.hold.wave.filter (· != g) } }
  if u.hold.wave.isEmpty then u.beginWave else u

/-- A state whose Hold differs in the groups awaited and the wave alone has the same bytes. -/
theorem holdByte_groups (s : State) (x y : List Nat) (a : Nat) :
    State.holdByte { s with hold := { s.hold with unready := x, wave := y } } a = s.holdByte a := rfl

theorem groupUp_eq (s : State) (g : Nat) : s.groupUp g =
    let rest := s.hold.wave.filter (· != g)
    let left := s.hold.unready.filter (· != g)
    { s.groupCleared g with hold := { (s.groupCleared g).hold with unready := left, wave := if rest.isEmpty then s.waveOf left else rest } } := by
  obtain ⟨hu, hw, -⟩ := groupCleared_hold s g
  have hk : (s.groupCleared g).get F.holdGroupStatusKept = s.get F.holdGroupStatusKept := (groupCleared_frame s g).get (.ofBits rfl) (by simp)
  unfold State.groupUp State.waveOf
  dsimp only
  rw [hu, hw]
  generalize s.groupCleared g = t at hk
  split
  · unfold State.beginWave State.nextWave
    simp only [State.get_mk, hk]
  · rfl

theorem groupUp_frame (s : State) (g : Nat) : Frame [] [.hold] s (s.groupUp g) := by
  rw [groupUp_eq]
  exact holdPart (groupCleared_frame s g) _ (by simp)

theorem exec_holdGroupReady {s : State} {g : Fin 16} (hw : g.val ∈ s.hold.wave) (hf : s.power.fabricOff = false) : exec (.holdGroupReady g) s =
    let v := (s.groupUp g).releaseHeld fun a => bankOf a.addr.toNat / 16 == g.val
    .next (if v.hold.unready.isEmpty then ((v.raise 198).raiseIf (v.get F.holdGroupStatusLost != 0) 199).portsStart else v) :=
  if_pos (by simp [hw, hf])

theorem exec_holdGroupReady_idle {s : State} {g : Fin 16} (h : g.val ∉ s.hold.wave ∨ s.power.fabricOff = true) : exec (.holdGroupReady g) s = .next s := by
  refine if_neg ?_
  rcases h with h | h <;> simp [h]

theorem holdGroupReady_spec {s : State} {g : Fin 16} (hw : g.val ∈ s.hold.wave) (hf : s.power.fabricOff = false) :
    ∃ u, Frame [] [.hold] s u ∧ u.hold.unready = s.hold.unready.filter (· != g.val) ∧ u.hold.held = s.hold.held ∧
      u.hold.wave = (let rest := s.hold.wave.filter (· != g.val); if rest.isEmpty then s.waveOf u.hold.unready else rest) ∧
      (∀ a, u.holdByte a = if s.get F.holdGroupStatusLost / 2 ^ g.val % 2 = 1 ∧ g.val * 0x4000000 ≤ a ∧ a < (g.val + 1) * 0x4000000
        then 0 else s.holdByte a) ∧
      let v := u.releaseHeld fun a => bankOf a.addr.toNat / 16 == g.val
      (v.hold.unready ≠ [] → exec (.holdGroupReady g) s = .next v) ∧
      (v.hold.unready = [] → exec (.holdGroupReady g) s =
        .next ((if v.get F.holdGroupStatusLost = 0 then v.raise 198 else (v.raise 198).raise 199).portsStart)) := by
  have e := exec_holdGroupReady hw hf
  have hu := groupUp_eq s g
  refine ⟨s.groupUp g, groupUp_frame s g, by rw [hu], by rw [hu]; exact (groupCleared_hold s g).2.2, by rw [hu], fun a => ?_, ?_⟩
  · rw [hu]
    exact (holdByte_groups _ _ _ a).trans (groupCleared_byte s g a)
  · dsimp only at e ⊢
    generalize (s.groupUp g).releaseHeld _ = v at e
    refine ⟨fun h => e.trans (congrArg _ (if_neg (by simpa using h))), fun h => e.trans ?_⟩
    rw [if_pos (by simpa using h), raiseIf_ne_zero]

/-! The end of a Thaw. -/

/-- The outputs' gating as Slack has it or not. -/
def State.gated (s : State) (slack : Bool) : State := (List.range 4).foldl (fun t n => t.setOut n fun o => { o with inSlack := slack }) s

theorem gated_frame (s : State) (slack : Bool) : Frame [] [.output 0, .output 1, .output 2, .output 3] s (s.gated slack) :=
  State.setOut_frame (State.setOut_frame (State.setOut_frame (State.setOut_frame (Frame.refl _ _ s) 0 _ (by simp)) 1 _ (by simp)) 2 _ (by simp)) 3 _ (by simp)

theorem gated_outs {s : State} {n : Nat} {o : OutState} (hn : n < 4) (h : s.outs[n]? = some o) (slack : Bool) :
    (s.gated slack).outs[n]? = some { o with inSlack := slack } := by
  show (updAt (updAt (updAt (updAt s.outs 0 _) 1 _) 2 _) 3 _)[n]? = _
  interval_cases n <;> simp [h]

/-- The state in which the state asked for is in force. -/
def State.thawed (s : State) : State :=
  ((s.gated (decide (s.power.thawTarget = 1))).put F.glbPowerStatusState s.power.thawTarget).setPower fun p => { p with pfailThaw := false }

theorem gated_power (s : State) (slack : Bool) : (s.gated slack).power = s.power := (gated_frame s slack).rest .power (by simp)

/-- The outputs that a Thaw starts again. -/
def State.outputsBack (s : State) : State :=
  (List.range 4).foldl (fun t n => if t.on (F.tgCtrlEn n) && !t.running n && t.mayEnable n then t.startOut n else t) s.wakeOutputs

theorem exec_thawComplete {s : State} (h6 : s.powerState = 6) (hf : s.power.fabricOff = false) (hu : s.hold.unready = []) : exec .thawComplete s =
    let w := (List.range 32).foldl State.sendWaiting s.thawed
    let v := if s.power.pfailThaw then w else w.outputsBack
    .next ((v.raise 4).raiseIf (v.get F.glbWinterDropsCount != 0) 6) :=
  if_neg (by simp [h6, hf, hu])

theorem exec_thawComplete_idle {s : State} (h : s.powerState ≠ 6 ∨ s.power.fabricOff = true ∨ s.hold.unready ≠ []) : exec .thawComplete s = .next s :=
  if_pos (by simpa using h)

theorem thawComplete_spec {s : State} (h6 : s.powerState = 6) (hf : s.power.fabricOff = false) (hu : s.hold.unready = []) :
    ∃ u, Frame [F.glbPowerStatusState] [.output 0, .output 1, .output 2, .output 3, .power] s u ∧
      u.get F.glbPowerStatusState = s.power.thawTarget % 8 ∧ u.power = { s.power with pfailThaw := false } ∧
      (∀ n o, n < 4 → s.outs[n]? = some o → u.outs[n]? = some { o with inSlack := decide (s.power.thawTarget = 1) }) ∧
      let w := (List.range 32).foldl State.sendWaiting u
      let v := if s.power.pfailThaw then w else w.outputsBack
      exec .thawComplete s = .next (if v.get F.glbWinterDropsCount = 0 then v.raise 4 else (v.raise 4).raise 6) := by
  have e := exec_thawComplete h6 hf hu
  refine ⟨s.thawed, setPower_frame (((gated_frame s _).mono (by simp) (by simp +contextual)).put (by simp)) _ (by simp), ?_, ?_, fun n o hn ho => ?_, ?_⟩
  · unfold State.thawed State.setPower
    rw [State.get_mk]
    exact State.get_put_same _ (.ofBits rfl) _
  · unfold State.thawed State.setPower
    rw [State.put_power, gated_power]
  · exact gated_outs hn ho _
  · dsimp only at e ⊢
    generalize (if s.power.pfailThaw = true then _ else _ : State) = v at e ⊢
    rw [e, raiseIf_ne_zero]

/-- Settles O51: the entry into Winter and its timeout, and the steps of a Thaw. -/
theorem winterAndThaw : Obligations.WinterAndThaw := by
  unfold Obligations.WinterAndThaw
  refine fun s => ⟨fun h4 hq => ?_, fun h => ?_, intoWinter_spec s, ?_, fun h4 => ?_, fun h4 => ?_,
    ⟨s.puts [(F.glbPowerStatusLastCode, 0x712), (F.glbPowerStatusState, s.power.thawTarget)], rfl, (Frame.refl _ _ s).puts (by simp), ?_, ?_⟩, rfl,
    fun h6 hc hl => ?_, fun h => ?_, thawSwitchesClose_spec, exec_thawSwitchesClose_idle, fun b => ⟨losebank_frame (Frame.refl _ _ s) b (by simp) (by simp), rfl⟩,
    fun h6 hc hf => ?_, exec_thawPllsLocked_idle, fun g => ⟨exec_holdGroupReady_idle, holdGroupReady_spec⟩, exec_thawComplete_idle, thawComplete_spec⟩
  · rw [exec_winterQuiesced, if_pos (by simp [h4, hq])]
  · rw [exec_winterQuiesced, if_neg]
    rcases h with h | h <;> simp [h]
  · rw [exec_winterEntryTimeout, if_neg (by simp)]
  · rw [exec_winterEntryTimeout, if_pos (by simp [h4])]
  · rw [exec_winterEntryTimeout, if_neg (by simp [h4])]
  · simp (disch := exact .ofBits rfl) only [State.puts_cons, State.puts_nil, State.get_put_same, State.get_put_other]
    rfl
  · exact State.get_put_same _ (.ofBits rfl) _
  · have e := exec_vddHoldLate s false
    rw [if_pos (by simp [h6, hc, hl])] at e
    exact .intro e (setPower_frame (Frame.refl _ _ s) _ (by simp)) rfl
  · rw [exec_vddHoldLate, if_neg]
    rcases h with h | h | h <;> simp [h]
  · obtain ⟨h1, h2, h3⟩ := pllsLocked_get s
    exact ⟨s.pllsLocked, _, exec_thawPllsLocked h6 hc hf, beginWave_frame (Frame.refl _ _ _) (by simp), beginWave_hold _, pllsLocked_frame s, h1, h2, h3,
      pllsLocked_power s⟩

end Sys2Proof.Machine
end

section
/-! March tests (R245 to R251). -/

open Sys2Proof Sys2Proof.Machine

namespace Sys2Proof.Machine

/-! What a request writes, and the code that refuses it. -/

/-- The control fields of a request as it wrote them. -/
def State.marchSet (u : State) (pres alg bg : Bool) : Prop :=
  u.get F.holdMarchCtrlMode = pres.toNat ∧ u.get F.holdMarchCtrlAlg = alg.toNat ∧ u.get F.holdMarchCtrlBg = bg.toNat

theorem marchFields_frame {T : List Field} {P : List Part} {s t : State} (h : Frame T P s t) (pres alg bg : Bool)
    (m : ∀ f ∈ [F.holdMarchCtrlMode, F.holdMarchCtrlAlg, F.holdMarchCtrlBg], f ∈ T) : Frame T P s (t.marchFields pres alg bg) :=
  h.puts (by simpa using m)

theorem marchFields_set (s : State) (pres alg bg : Bool) : (s.marchFields pres alg bg).marchSet pres alg bg := by
  have b (x : Bool) : x.toNat % 2 = x.toNat := Nat.mod_eq_of_lt (Bool.toNat_lt x)
  unfold State.marchFields
  refine ⟨?_, ?_, ?_⟩ <;>
    simp (disch := exact .ofBits rfl) only [State.puts_cons, State.puts_nil, State.get_put_same, State.get_put_other] <;> exact b _

/-- A field of another register reads as before a request's fields are written. -/
theorem marchFields_get (s : State) (pres alg bg : Bool) {f : Field} (hf : InWord f) (h : f.addr ≠ R.holdMarchCtrl) :
    (s.marchFields pres alg bg).get f = s.get f :=
  (marchFields_frame (Frame.refl _ [] s) pres alg bg fun _ m => m).get hf (by simpa [Apart, F.holdMarchCtrlMode, F.holdMarchCtrlAlg, F.holdMarchCtrlBg] using
    ⟨.inl (Ne.symm h), .inl (Ne.symm h), .inl (Ne.symm h)⟩)

theorem marchFields_hold (s : State) (pres alg bg : Bool) : (s.marchFields pres alg bg).hold = s.hold := rfl

/-- A field of another register set leaves what a request wrote. -/
theorem marchSet_put {u : State} {pres alg bg : Bool} (h : u.marchSet pres alg bg) {f : Field} (hf : f.addr ≠ R.holdMarchCtrl) (v : Nat) :
    (u.put f v).marchSet pres alg bg := by
  obtain ⟨h1, h2, h3⟩ := h
  exact ⟨(State.get_put_other _ (.inl hf) (.ofBits rfl) _).trans h1, (State.get_put_other _ (.inl hf) (.ofBits rfl) _).trans h2,
    (State.get_put_other _ (.inl hf) (.ofBits rfl) _).trans h3⟩

/-- A bank's register of rights is none of the march engine's. -/
theorem owner_ne {a : Nat} (h : a < 0xa1000) (b : Nat) : R.holdOwner b ≠ a := by
  unfold R.holdOwner
  omega

theorem range_any_iff (a n : Nat) (p : Nat → Bool) : ((List.range n).map (a + ·)).any p = true ↔ ∃ b, (a ≤ b ∧ b < a + n) ∧ p b = true := by
  simp only [List.any_eq_true, List.mem_map, List.mem_range]
  constructor
  · rintro ⟨_, ⟨i, hi, rfl⟩, hb⟩
    exact ⟨a + i, by omega, hb⟩
  · rintro ⟨b, hb, hp⟩
    exact ⟨b, ⟨b - a, by omega, by omega⟩, hp⟩

/-- A bank that a march test may not work on: of a destructive test, one that the engine does not own or that is locked; of a preserving test, one
that NO_BORROW shuts out. -/
def State.marchBars (s : State) (pres : Bool) (b : Nat) : Prop :=
  if pres then s.get (F.holdOwnerNoBorrow b) = 1 else s.owner b ≠ 2 ∨ s.get (F.holdOwnerLocked b) = 1

section
variable (s : State) (pres : Bool)

/-- The refusals in their order. -/
theorem marchRefusal_eq : s.marchRefusal pres =
    let first := s.get F.holdMarchRangeFirst
    let count := s.get F.holdMarchRangeCount
    let banks := (List.range count).map (first + ·)
    if s.on F.holdMarchStatusBusy then 0x410
    else if count = 0 ∨ 256 < first + count then 0x411
    else if !pres && banks.any (fun b => s.owner b != 2 || s.on (F.holdOwnerLocked b)) then 0x412
    else if pres && banks.any (fun b => s.on (F.holdOwnerNoBorrow b)) then 0x413
    else 0 := rfl

/-- What a request is judged by stays as it writes its fields. -/
theorem marchFields_refusal (alg bg : Bool) : (s.marchFields pres alg bg).marchRefusal pres = s.marchRefusal pres := by
  have far (f : Field) (hf : InWord f) (h : f.addr ≠ R.holdMarchCtrl) := marchFields_get s pres alg bg hf h
  have own (b : Nat) : (s.marchFields pres alg bg).owner b = s.owner b := far (F.holdOwnerOwner b) (.ofBits rfl) (owner_ne (by decide) b)
  rw [marchRefusal_eq, marchRefusal_eq]
  simp only [on_eq, own, far F.holdMarchRangeFirst (.ofBits rfl) (by decide), far F.holdMarchRangeCount (.ofBits rfl) (by decide),
    far F.holdMarchStatusBusy (.ofBits rfl) (by decide), fun b => far (F.holdOwnerLocked b) (.ofBits rfl) (owner_ne (by decide) b),
    fun b => far (F.holdOwnerNoBorrow b) (.ofBits rfl) (owner_ne (by decide) b)]
  rfl

variable {s} {pres}

theorem marchRefusal_busy (h : s.get F.holdMarchStatusBusy = 1) : s.marchRefusal pres = 0x410 := by
  rw [marchRefusal_eq]
  exact if_pos (on_of _ _ h)

variable (hb : s.get F.holdMarchStatusBusy = 0)
include hb

theorem marchRefusal_range (h : ¬ (0 < s.get F.holdMarchRangeCount ∧ s.get F.holdMarchRangeFirst + s.get F.holdMarchRangeCount ≤ 256)) :
    s.marchRefusal pres = 0x411 := by
  rw [marchRefusal_eq]
  dsimp only
  rw [on_off _ _ hb, if_neg (by decide), if_pos (by omega)]

/-- A request with a sound range is refused when a bank of it bars the test. -/
theorem marchRefusal_sound (h : 0 < s.get F.holdMarchRangeCount ∧ s.get F.holdMarchRangeFirst + s.get F.holdMarchRangeCount ≤ 256) :
    ((∃ b, (s.get F.holdMarchRangeFirst ≤ b ∧ b < s.get F.holdMarchRangeFirst + s.get F.holdMarchRangeCount) ∧ s.marchBars pres b) →
      s.marchRefusal pres = if pres then 0x413 else 0x412) ∧
    ((∀ b, s.get F.holdMarchRangeFirst ≤ b ∧ b < s.get F.holdMarchRangeFirst + s.get F.holdMarchRangeCount → ¬ s.marchBars pres b) →
      s.marchRefusal pres = 0) := by
  have e := marchRefusal_eq s pres
  dsimp only at e
  rw [on_off _ _ hb, if_neg (by decide), if_neg (by omega)] at e
  cases pres with
  | false =>
    rw [Bool.not_false, Bool.true_and, Bool.false_and, if_neg Bool.false_ne_true] at e
    have bars (b : Nat) : (s.owner b != 2 || s.on (F.holdOwnerLocked b)) = true ↔ s.marchBars false b := by simp [State.marchBars, on_eq]
    refine ⟨fun ⟨b, hr, hx⟩ => e.trans (if_pos ?_), fun hn => e.trans (if_neg fun hx => ?_)⟩
    · exact (range_any_iff ..).2 ⟨b, hr, (bars b).2 hx⟩
    · obtain ⟨b, hr, hx⟩ := (range_any_iff ..).1 hx
      exact hn b hr ((bars b).1 hx)
  | true =>
    rw [Bool.not_true, Bool.false_and, Bool.true_and, if_neg Bool.false_ne_true] at e
    have bars (b : Nat) : s.on (F.holdOwnerNoBorrow b) = true ↔ s.marchBars true b := by simp [State.marchBars, on_eq]
    refine ⟨fun ⟨b, hr, hx⟩ => e.trans (if_pos ?_), fun hn => e.trans (if_neg fun hx => ?_)⟩
    · exact (range_any_iff ..).2 ⟨b, hr, (bars b).2 hx⟩
    · obtain ⟨b, hr, hx⟩ := (range_any_iff ..).1 hx
      exact hn b hr ((bars b).1 hx)

end

/-! Requests. -/

section
variable {s : State} {w : Writer} (ha : s.accepts w R.holdMarchCtrl = true) (pres alg bg : Bool)
include ha

theorem exec_marchRequest : exec (.marchRequest w pres alg bg) s = .next (
    if s.marchRefusal pres ≠ 0 then (s.marchFields pres alg bg).put F.holdMarchStatusLastCode (s.marchRefusal pres)
    else (s.marchFields pres alg bg).startTest pres alg bg) := by
  rw [← marchFields_refusal s pres alg bg]
  exact congrArg _ (State.writeBy_accepts ha)

/-- A request that is refused with a code. -/
theorem marchRequest_refused {c : Nat} (hc : s.marchRefusal pres = c) (h0 : c ≠ 0) (h1 : c < 4096) :
    Yields (.marchRequest w pres alg bg) s [] (F.holdMarchStatusLastCode :: [F.holdMarchCtrlMode, F.holdMarchCtrlAlg, F.holdMarchCtrlBg]) [] fun u =>
      u.marchSet pres alg bg ∧ u.get F.holdMarchStatusLastCode = c := by
  have e := exec_marchRequest ha pres alg bg
  rw [hc, if_pos h0] at e
  exact .quiet e ((marchFields_frame (Frame.refl _ _ s) _ _ _ (by simp)).put (by simp))
    ⟨marchSet_put (marchFields_set s pres alg bg) (by decide) _, get_put_of_lt _ (.ofBits rfl) h1⟩

theorem exec_marchRequest_starts (h : s.marchRefusal pres = 0) :
    exec (.marchRequest w pres alg bg) s = .next ((s.marchFields pres alg bg).startTest pres alg bg) := by
  rw [exec_marchRequest ha, if_neg (by simp [h])]

theorem exec_marchAbandon (fails : List MarchFail) : exec (.marchAbandon w pres alg bg fails) s =
    .next (match s.hold.test with
      | some m => (s.marchFields pres alg bg).endTest m fails 0x415
      | none => s.marchFields pres alg bg) := congrArg _ (State.writeBy_accepts ha)

end

/-- A test begun once the background window under way has yielded to it. -/
theorem startTest_eq (s u : State) (pres alg bg : Bool) (hu : u = s.marchFields pres alg bg) : u.startTest pres alg bg =
    let first := s.get F.holdMarchRangeFirst
    let count := s.get F.holdMarchRangeCount
    let v := if s.hold.window.isSome then (u.yieldWindow).afterWindow s.hold.window else u
    let x := v.put F.holdMarchStatusBusy 1
    let y := { x with hold := { x.hold with test := some ⟨pres, alg, bg, first, count, 2048 * first, x.cycleNow⟩ } }
    if pres then y.marchGo else (List.range count).foldl (fun t i => t.losebank (first + i)) y := by
  have h1 : u.get F.holdMarchRangeFirst = s.get F.holdMarchRangeFirst := by rw [hu]; exact marchFields_get _ _ _ _ (.ofBits rfl) (by decide)
  have h2 : u.get F.holdMarchRangeCount = s.get F.holdMarchRangeCount := by rw [hu]; exact marchFields_get _ _ _ _ (.ofBits rfl) (by decide)
  have h3 : u.hold.window = s.hold.window := by rw [hu]; rfl
  unfold State.startTest
  rw [h1, h2, h3]

/-- A preserving test takes its next window when none is under way. -/
theorem marchGo_window {s : State} {m : MarchTest} (ht : s.hold.test = some m) (hp : m.preserving = true) (hw : s.hold.window = none) (hl : m.at_ < m.last) :
    s.marchGo = { s with hold := { s.hold with window := some m.at_, test := some { m with since := s.cycleNow } } } := by
  unfold State.marchGo
  rw [ht]
  dsimp only
  rw [hp, hw]
  dsimp only
  rw [if_neg (by decide), if_pos hl]

/-- The state in which a preserving test without a background window in its way is begun. -/
def State.marchBegun (s : State) (alg bg : Bool) : State :=
  let first := s.get F.holdMarchRangeFirst
  let u := (s.marchFields true alg bg).put F.holdMarchStatusBusy 1
  { u with hold := { s.hold with
    window := some (2048 * first), test := some ⟨true, alg, bg, first, s.get F.holdMarchRangeCount, 2048 * first, s.cycleNow⟩ } }

theorem startTest_preserving {s : State} (alg bg : Bool) (hw : s.hold.window = none) (hc : 0 < s.get F.holdMarchRangeCount) :
    (s.marchFields true alg bg).startTest true alg bg = s.marchBegun alg bg := by
  rw [startTest_eq s _ true alg bg rfl, hw]
  dsimp only
  rw [if_pos rfl, if_neg (by decide), marchGo_window rfl rfl (by exact hw) (by simp only [MarchTest.last]; omega)]
  rfl

theorem marchBegun_frame (s : State) (alg bg : Bool) : Frame (F.holdMarchStatusBusy :: [F.holdMarchCtrlMode, F.holdMarchCtrlAlg, F.holdMarchCtrlBg]) [.hold] s
    (s.marchBegun alg bg) := holdPart ((marchFields_frame (Frame.refl _ _ s) _ _ _ (by simp)).put (by simp)) _ (by simp)

theorem marchBegun_get (s : State) (alg bg : Bool) (f : Field) :
    (s.marchBegun alg bg).get f = ((s.marchFields true alg bg).put F.holdMarchStatusBusy 1).get f := by
  unfold State.marchBegun
  rw [State.get_mk]

theorem marchBegun_set (s : State) (alg bg : Bool) : (s.marchBegun alg bg).marchSet true alg bg := by
  have h := marchSet_put (marchFields_set s true alg bg) (f := F.holdMarchStatusBusy) (by decide) 1
  unfold State.marchSet at h ⊢
  simpa only [marchBegun_get] using h

/-! Background windows. -/

/-- The window of the background position taken. -/
def State.takeWindow (s : State) : State :=
  { s with hold := { s.hold with window := some (s.get F.holdMarchPosBank * 2048 + s.get F.holdMarchPosWindow) } }

/-- The background window under way, skipped for this pass after eight yields in a row. -/
def State.skipWindow (s : State) : State := if 8 ≤ s.hold.yieldsInRow then (s.count F.holdMarchSkipsCount 1).nextWindow else s

theorem exec_marchBackgroundWindow {s : State} (hi : s.inWinter = false) (he : s.get F.holdMarchBkgEn = 1) (ht : s.hold.test = none)
    (hw : s.hold.window = none) : exec .marchBackgroundWindow s = match s.skipWindow.openBank 256 with
      | none => .next s.skipWindow
      | some t => .next t.takeWindow := by
  show execMarchBackgroundWindow s = _
  unfold execMarchBackgroundWindow
  rw [if_neg (by simp [on_of _ _ he, ht, hw, hi])]
  rfl

theorem exec_marchBackgroundWindow_idle {s : State} (h : s.get F.holdMarchBkgEn = 0 ∨ s.hold.test ≠ none ∨ s.hold.window ≠ none) :
    exec .marchBackgroundWindow s = .next s := by
  refine if_pos ?_
  rcases h with h | h | h
  · simp [on_off _ _ h]
  · simp [Option.isSome_iff_ne_none.2 h]
  · simp [Option.isSome_iff_ne_none.2 h]

theorem skipWindow_stays {s : State} (h : s.hold.yieldsInRow < 8) : s.skipWindow = s := if_neg (by omega)

theorem skipWindow_skips {s : State} (h : 8 ≤ s.hold.yieldsInRow) : s.skipWindow = (s.count F.holdMarchSkipsCount 1).nextWindow := if_pos h

theorem takeWindow_frame {T : List Field} {P : List Part} {s t : State} (h : Frame T P s t) (m : .hold ∈ P) : Frame T P s t.takeWindow := holdPart h _ m

theorem takeWindow_get (s : State) (f : Field) : s.takeWindow.get f = s.get f := by
  unfold State.takeWindow
  rw [State.get_mk]

theorem takeWindow_hold (s : State) : s.takeWindow.hold = { s.hold with
    window := some (s.takeWindow.get F.holdMarchPosBank * 2048 + s.takeWindow.get F.holdMarchPosWindow) } := by
  rw [takeWindow_get, takeWindow_get]
  rfl

theorem nextWindow_frame {T : List Field} {P : List Part} {s t : State} (h : Frame T P s t) (m1 : F.holdMarchPosWindow ∈ T) (m2 : F.holdMarchPosBank ∈ T)
    (m : .hold ∈ P) : Frame T P s t.nextWindow := holdPart (h.puts (by simp [m1, m2])) _ m

theorem nextWindow_hold (s : State) : s.nextWindow.hold = { s.hold with yieldsInRow := 0 } := rfl

theorem nextWindow_get (s : State) (f : Field) : s.nextWindow.get f =
    (s.puts [(F.holdMarchPosWindow, (s.get F.holdMarchPosWindow + 1) % 2048),
      (F.holdMarchPosBank, if s.get F.holdMarchPosWindow = 2047 then (s.get F.holdMarchPosBank + 1) % 256 else s.get F.holdMarchPosBank)]).get f := by
  unfold State.nextWindow
  dsimp only
  rw [State.get_mk]

theorem nextWindow_window (s : State) : s.nextWindow.get F.holdMarchPosWindow = (s.get F.holdMarchPosWindow + 1) % 2048 := by
  rw [nextWindow_get, State.puts_cons, State.puts_cons, State.puts_nil, State.get_put_other _ (.ofBits rfl) (.ofBits rfl)]
  exact get_put_of_lt _ (.ofBits rfl) (Nat.mod_lt _ (by decide))

theorem nextWindow_bank (s : State) : s.nextWindow.get F.holdMarchPosBank =
    if s.get F.holdMarchPosWindow = 2047 then (s.get F.holdMarchPosBank + 1) % 256 else s.get F.holdMarchPosBank := by
  have h := get_lt s F.holdMarchPosBank
  rw [nextWindow_get, State.puts_cons, State.puts_cons, State.puts_nil]
  exact get_put_of_lt _ (.ofBits rfl) (ite_lt (Nat.mod_lt _ (by decide)) h)

theorem nextWindow_get_other (s : State) {f : Field} (hf : InWord f) (h : f.addr ≠ R.holdMarchPos) : s.nextWindow.get f = s.get f := by
  rw [nextWindow_get]
  exact get_puts_apart _ hf (by simpa [Apart, F.holdMarchPosWindow, F.holdMarchPosBank] using ⟨.inl (Ne.symm h), .inl (Ne.symm h)⟩)

/-- A background position in a bank that NO_BORROW shuts out moves past it. -/
theorem openBank_past {s : State} (hb : s.get (F.holdOwnerNoBorrow (s.get F.holdMarchPosBank)) = 1) {t : State} {n : Nat} (h : s.openBank (n + 1) = some t) :
    t.hold = { s.hold with yieldsInRow := 0 } := by
  rw [State.openBank] at h
  dsimp only at h
  rw [if_pos (on_of _ _ hb)] at h
  exact (openBank_hold _ n t h).elim id id

section
variable {s : State} (hi : s.inWinter = false) (he : s.get F.holdMarchBkgEn = 1) (ht : s.hold.test = none) (hw : s.hold.window = none)
include hi he ht hw

theorem marchBackgroundWindow_here (hb : s.get (F.holdOwnerNoBorrow (s.get F.holdMarchPosBank)) = 0) (hy : s.hold.yieldsInRow < 8) :
    Yields .marchBackgroundWindow s [] [] [.hold] fun u => u.hold = { s.hold with
      yieldsInRow := s.hold.yieldsInRow, window := some (u.get F.holdMarchPosBank * 2048 + u.get F.holdMarchPosWindow) } := by
  have e := exec_marchBackgroundWindow hi he ht hw
  rw [skipWindow_stays hy, openBank_here _ 255 hb] at e
  exact .quiet e (takeWindow_frame (Frame.refl _ _ s) (by simp)) (takeWindow_hold s)

theorem marchBackgroundWindow_skip (hb : s.get (F.holdOwnerNoBorrow (s.get F.holdMarchPosBank)) = 0) (hy : 8 ≤ s.hold.yieldsInRow)
    (hl : s.get F.holdMarchPosWindow < 2047) :
    Yields .marchBackgroundWindow s [] [F.holdMarchSkipsCount, F.holdMarchPosWindow, F.holdMarchPosBank] [.hold] fun u =>
      u.get F.holdMarchSkipsCount = min (fieldMax F.holdMarchSkipsCount) (s.get F.holdMarchSkipsCount + 1) ∧
      u.get F.holdMarchPosWindow = s.get F.holdMarchPosWindow + 1 ∧ u.get F.holdMarchPosBank = s.get F.holdMarchPosBank ∧
      u.hold = { s.hold with yieldsInRow := 0, window := some (u.get F.holdMarchPosBank * 2048 + u.get F.holdMarchPosWindow) } := by
  have e := exec_marchBackgroundWindow hi he ht hw
  rw [skipWindow_skips hy] at e
  have hf := nextWindow_frame (count_frame s F.holdMarchSkipsCount |>.mono (T' := [F.holdMarchSkipsCount, F.holdMarchPosWindow, F.holdMarchPosBank])
    (P' := [.hold]) (by simp) (by simp)) (by simp) (by simp) (by simp)
  have h1 : (s.count F.holdMarchSkipsCount 1).get F.holdMarchPosWindow = s.get F.holdMarchPosWindow := count_get_other _ _ (.ofRegs rfl) (.ofBits rfl)
  have h2 : (s.count F.holdMarchSkipsCount 1).get F.holdMarchPosBank = s.get F.holdMarchPosBank := count_get_other _ _ (.ofRegs rfl) (.ofBits rfl)
  have w1 := nextWindow_window (s.count F.holdMarchSkipsCount 1)
  have w2 := nextWindow_bank (s.count F.holdMarchSkipsCount 1)
  have w3 : (s.count F.holdMarchSkipsCount 1).nextWindow.get F.holdMarchSkipsCount = min (fieldMax F.holdMarchSkipsCount) (s.get F.holdMarchSkipsCount + 1) := by
    rw [nextWindow_get_other _ (.ofBits rfl) (by decide)]
    exact count_get _ _ _ (.ofBits rfl)
  rw [h1, Nat.mod_eq_of_lt (by omega)] at w1
  rw [h1, h2, if_neg (by omega)] at w2
  have w4 : (s.count F.holdMarchSkipsCount 1).nextWindow.get (F.holdOwnerNoBorrow (s.get F.holdMarchPosBank)) =
      s.get (F.holdOwnerNoBorrow (s.get F.holdMarchPosBank)) := by
    rw [nextWindow_get_other _ (.ofBits rfl) (owner_ne (by decide) _)]
    exact count_get_other _ _ (.inl (owner_ne (by decide) _).symm) (.ofBits rfl)
  have hh : (s.count F.holdMarchSkipsCount 1).nextWindow.hold = { s.hold with yieldsInRow := 0 } := nextWindow_hold _
  generalize (s.count F.holdMarchSkipsCount 1).nextWindow = t at e hf w1 w2 w3 w4 hh
  rw [openBank_here t 255 (by rw [w2, w4, hb])] at e
  refine .quiet e (takeWindow_frame hf (by simp)) ⟨(takeWindow_get _ _).trans w3, (takeWindow_get _ _).trans w1, (takeWindow_get _ _).trans w2, ?_⟩
  rw [takeWindow_hold, hh]

theorem marchBackgroundWindow_past (hb : s.get (F.holdOwnerNoBorrow (s.get F.holdMarchPosBank)) = 1) (hy : s.hold.yieldsInRow < 8) {t : State}
    (h : s.openBank 256 = some t) :
    Yields .marchBackgroundWindow s [] [F.holdMarchPosWindow, F.holdMarchPosBank] [.hold] fun u =>
      u.on (F.holdOwnerNoBorrow (u.get F.holdMarchPosBank)) = false ∧
      u.hold = { s.hold with yieldsInRow := 0, window := some (u.get F.holdMarchPosBank * 2048 + u.get F.holdMarchPosWindow) } := by
  have e := exec_marchBackgroundWindow hi he ht hw
  rw [skipWindow_stays hy, h] at e
  obtain ⟨hf, hn⟩ := openBank_spec s 256 t h
  refine .quiet e (takeWindow_frame hf (by simp)) ⟨?_, ?_⟩
  · rw [on_eq, takeWindow_get, takeWindow_get, ← on_eq, hn]
  · rw [takeWindow_hold, openBank_past hb h]

theorem exec_marchBackgroundWindow_shut (hy : s.hold.yieldsInRow < 8) (h : s.openBank 256 = none) : exec .marchBackgroundWindow s = .next s := by
  rw [exec_marchBackgroundWindow hi he ht hw, skipWindow_stays hy, h]

end

/-! Yields. -/

theorem exec_marchHoldLimit {s : State} {w : Nat} (hw : s.hold.window = some w) : exec (.marchHoldLimit false) s =
    .next (if s.windowWaited then (s.yieldWindow).afterWindow (some w) else s) := by
  show execMarchHoldLimit false s = _
  unfold execMarchHoldLimit
  rw [hw]
  cases s.windowWaited <;> rfl

theorem exec_marchHoldLimit_met (s : State) : exec (.marchHoldLimit true) s = .next s := by
  show execMarchHoldLimit true s = _
  unfold execMarchHoldLimit
  split <;> rfl

theorem windowWaited_held {s : State} {h : HeldAccess} (hh : h ∈ s.hold.held)
    (hw : s.windowHolds h.peer.acc.master.toNat h.peer.acc.addr.toNat 32 = true) : s.windowWaited = true := by
  unfold State.windowWaited
  refine List.any_eq_true.2 ⟨(h.peer.acc.master.toNat, h.peer.acc.addr.toNat, 32), ?_, hw⟩
  simp only [List.mem_append]
  refine .inl (.inl (.inl (.inl ?_)))
  exact List.mem_append.2 (.inl (List.mem_append.2 (.inl (List.mem_map.2 ⟨h, hh, rfl⟩))))

theorem windowWaited_dma {s : State} {ch : Nat} (hc : ch < 32) {r : Nat × Nat} (hr : r ∈ s.dmaRuns ch) (hw : s.windowHolds (0x10 + ch) r.1 r.2 = true) :
    s.windowWaited = true := by
  unfold State.windowWaited
  refine List.any_eq_true.2 ⟨(0x10 + ch, r), ?_, hw⟩
  simp only [List.mem_append]
  refine .inl (.inl (.inl (.inr ?_)))
  exact List.mem_flatMap.2 ⟨ch, List.mem_range.2 hc, List.mem_map.2 ⟨r, hr, rfl⟩⟩

theorem yieldWindow_frame (s : State) : Frame [F.holdMarchYieldsCount] [.hold] s s.yieldWindow :=
  holdPart ((Frame.refl _ _ s).count (by simp)) _ (by simp)

theorem yieldWindow_count (s : State) : s.yieldWindow.get F.holdMarchYieldsCount =
    min (fieldMax F.holdMarchYieldsCount) (s.get F.holdMarchYieldsCount + 1) := by
  unfold State.yieldWindow
  dsimp only
  rw [State.get_mk]
  exact count_get _ _ _ (.ofBits rfl)

theorem yieldWindow_hold (s : State) : s.yieldWindow.hold = { s.hold with
    window := none, yieldsInRow := s.hold.yieldsInRow + (if s.hold.test = none then 1 else 0) } := by
  show ({ s.hold with window := none, yieldsInRow := s.hold.yieldsInRow + if s.hold.test.isNone then 1 else 0 } : HoldState) = _
  cases s.hold.test <;> rfl

/-! What a test found. -/

theorem noteFails_nil (s : State) (pres alg bg : Bool) : s.noteFails [] pres alg bg = s := rfl

theorem failBit_lt {f : MarchFail} {alg bg : Bool} : (failBit f alg bg).getD 0 < 2 ^ 9 := by
  unfold failBit
  split
  · split
    · cases h : List.find? _ (List.range 266) with
      | none => decide
      | some b =>
        have := List.mem_range.1 (List.mem_of_find?_eq_some h)
        exact Nat.lt_trans this (by decide)
    · decide
  · decide

/-- A read that is what the algorithm wrote is no failure. -/
theorem failBit_expected {f : MarchFail} {alg bg : Bool} {op : MarchOp} (ho : (marchElement alg f.element).2[f.op.val]? = some op)
    (he : op.expects bg (unitRow f.unit) = some f.read) : failBit f alg bg = none := by
  unfold failBit
  rw [ho]
  dsimp only
  rw [he]
  simp

/-- The first failure shown, of an addressed word. -/
def State.showWord (s : State) (f : MarchFail) (a : BitVec 30) (alg bg : Bool) : State :=
  (s.puts [(F.holdMarchFailBitElement, f.element.val), (F.holdMarchFailBitBit, (failBit f alg bg).getD 0)]).put F.holdMarchFailAddr (a.toNat / 32)

theorem showFail_word (s : State) {f : MarchFail} {a : BitVec 30} (h : f.unit = .word a) (alg bg : Bool) (rest : List MarchFail) :
    s.showFail alg bg (f :: rest) = s.showWord f a alg bg := by
  unfold State.showFail
  dsimp only
  rw [h]
  rfl

theorem showWord_frame (s : State) (f : MarchFail) (a : BitVec 30) (alg bg : Bool) :
    Frame [F.holdMarchFailAddr, F.holdMarchFailBitElement, F.holdMarchFailBitBit] [] s (s.showWord f a alg bg) :=
  ((Frame.refl _ _ s).puts (by simp)).put (by simp)

theorem showWord_get (s : State) (f : MarchFail) (a : BitVec 30) (alg bg : Bool) :
    (s.showWord f a alg bg).get F.holdMarchFailAddr = a.toNat / 32 ∧ (s.showWord f a alg bg).get F.holdMarchFailBitElement = f.element ∧
    (s.showWord f a alg bg).get F.holdMarchFailBitBit = (failBit f alg bg).getD 0 := by
  have ha : a.toNat / 32 < 2 ^ 25 := Nat.div_lt_of_lt_mul a.isLt
  have far1 : Apart F.holdMarchFailAddr F.holdMarchFailBitElement := .ofRegs rfl
  have far2 : Apart F.holdMarchFailAddr F.holdMarchFailBitBit := .ofRegs rfl
  unfold State.showWord
  rw [State.puts_cons, State.puts_cons, State.puts_nil]
  refine ⟨get_put_of_lt _ (.ofBits rfl) ha, ?_, ?_⟩
  · rw [State.get_put_other _ far1 (.ofBits rfl), State.get_put_other _ (.ofBits rfl) (.ofBits rfl)]
    exact get_put_of_lt _ (.ofBits rfl) f.element.isLt
  · rw [State.get_put_other _ far2 (.ofBits rfl)]
    exact get_put_of_lt _ (.ofBits rfl) failBit_lt

/-! Ends. -/

section
variable {s : State} (hi : s.inWinter = false) (ho : s.power.off = false) (hf : s.power.fabricOff = false) (fails : List MarchFail)

/-- The failing reads of the window `w` of a background test. -/
def State.windowFails (s : State) (w : Nat) (fails : List MarchFail) : List MarchFail :=
  orderFails true (s.on F.holdMarchCtrlAlg) (s.on F.holdMarchCtrlBg) (failsIn false (2048 * w) (2048 * (w + 1)) fails)

/-- The background window under way left. -/
def State.leaveWindow (s : State) : State := { s with hold := { s.hold with window := none } }

/-- The background position after a clean window. -/
def State.cleanWindow (s : State) : State := (s.leaveWindow.put F.holdMarchStatusLastCode 0).nextWindow

theorem leaveWindow_get (s : State) (f : Field) : s.leaveWindow.get f = s.get f := by
  unfold State.leaveWindow
  rw [State.get_mk]

include hi ho hf

theorem exec_marchTestEnd_window {w : Nat} (ht : s.hold.test = none) (hw : s.hold.window = some w) :
    (s.windowFails w fails = [] → exec (.marchTestEnd fails) s = .next (s.cleanWindow.afterWindow (some w))) ∧
    (s.windowFails w fails ≠ [] → exec (.marchTestEnd fails) s = .next (((((s.leaveWindow.noteFails (s.windowFails w fails) true
      (s.on F.holdMarchCtrlAlg) (s.on F.holdMarchCtrlBg)).put F.holdMarchStatusLastCode 0x414).raise 197).nextWindow).afterWindow (some w))) := by
  have e : exec (.marchTestEnd fails) s = .next (((if (s.windowFails w fails).isEmpty
      then (s.leaveWindow.noteFails (s.windowFails w fails) true (s.on F.holdMarchCtrlAlg) (s.on F.holdMarchCtrlBg)).put F.holdMarchStatusLastCode 0
      else ((s.leaveWindow.noteFails (s.windowFails w fails) true (s.on F.holdMarchCtrlAlg) (s.on F.holdMarchCtrlBg)).put
        F.holdMarchStatusLastCode 0x414).raise 197).nextWindow).afterWindow (some w)) := by
    show execMarchTestEnd fails s = _
    unfold execMarchTestEnd
    rw [hi, ho, hf, if_neg (by decide), ht, hw]
    rfl
  constructor
  · intro hn
    rw [hn, noteFails_nil, if_pos List.isEmpty_nil] at e
    exact e
  · intro hn
    rw [if_neg (by simpa using hn)] at e
    exact e

omit hi ho hf in
theorem cleanWindow_frame (s : State) : Frame [F.holdMarchPosWindow, F.holdMarchPosBank, F.holdMarchStatusLastCode] [.hold] s s.cleanWindow :=
  nextWindow_frame ((holdPart (Frame.refl _ _ s) _ (by simp)).put (by simp)) (by simp) (by simp) (by simp)

omit hi ho hf in
theorem cleanWindow_get (s : State) : s.cleanWindow.get F.holdMarchPosWindow = (s.get F.holdMarchPosWindow + 1) % 2048 ∧
    s.cleanWindow.get F.holdMarchPosBank = (if s.get F.holdMarchPosWindow = 2047 then (s.get F.holdMarchPosBank + 1) % 256 else s.get F.holdMarchPosBank) ∧
    s.cleanWindow.get F.holdMarchStatusLastCode = 0 := by
  have a1 : Apart F.holdMarchStatusLastCode F.holdMarchPosWindow := .ofRegs rfl
  have a2 : Apart F.holdMarchStatusLastCode F.holdMarchPosBank := .ofRegs rfl
  have h1 : (s.leaveWindow.put F.holdMarchStatusLastCode 0).get F.holdMarchPosWindow = s.get F.holdMarchPosWindow :=
    (State.get_put_other _ a1 (.ofBits rfl) _).trans (leaveWindow_get _ _)
  have h2 : (s.leaveWindow.put F.holdMarchStatusLastCode 0).get F.holdMarchPosBank = s.get F.holdMarchPosBank :=
    (State.get_put_other _ a2 (.ofBits rfl) _).trans (leaveWindow_get _ _)
  unfold State.cleanWindow
  refine ⟨?_, ?_, ?_⟩
  · rw [nextWindow_window, h1]
  · rw [nextWindow_bank, h1, h2]
  · rw [nextWindow_get_other _ (.ofBits rfl) (by decide)]
    exact get_put_of_lt _ (.ofBits rfl) (by decide)

omit hi ho hf in
theorem cleanWindow_hold (s : State) : s.cleanWindow.hold = { s.hold with window := none, yieldsInRow := 0 } := by
  unfold State.cleanWindow
  rw [nextWindow_hold, State.put_hold]
  rfl

end

/-! The banks that a destructive test clears. -/

/-- The banks of a range that are not locked, cleared. -/
def State.clearBanks (s : State) (first count : Nat) : State :=
  (List.range count).foldl (fun u i => if u.on (F.holdOwnerLocked (first + i)) then u
    else u.clearRange ((first + i) * 0x400000) ((first + i + 1) * 0x400000)) s

theorem clearRange_get (s : State) (lo hi : Nat) (f : Field) : (s.clearRange lo hi).get f = s.get f := by
  unfold State.clearRange
  rw [State.get_mk]

theorem clearBanks_succ (s : State) (first n : Nat) : s.clearBanks first (n + 1) =
    if (s.clearBanks first n).on (F.holdOwnerLocked (first + n)) then s.clearBanks first n
    else (s.clearBanks first n).clearRange ((first + n) * 0x400000) ((first + n + 1) * 0x400000) := by
  unfold State.clearBanks
  rw [List.range_succ, List.foldl_append, List.foldl_cons, List.foldl_nil]

theorem clearBanks_frame (s : State) (first n : Nat) : Frame [] [.hold] s (s.clearBanks first n) := by
  induction n with
  | zero => exact Frame.refl _ _ s
  | succ n ih =>
    rw [clearBanks_succ]
    split
    · exact ih
    · exact holdPart ih _ (by simp)

theorem clearBanks_get (s : State) (first n : Nat) (f : Field) : (s.clearBanks first n).get f = s.get f := by
  induction n with
  | zero => rfl
  | succ n ih =>
    rw [clearBanks_succ]
    split
    · exact ih
    · rw [clearRange_get, ih]

theorem clearBanks_march (s : State) (first n : Nat) : (s.clearBanks first n).hold.test = s.hold.test ∧ (s.clearBanks first n).hold.window = s.hold.window := by
  induction n with
  | zero => exact ⟨rfl, rfl⟩
  | succ n ih =>
    rw [clearBanks_succ]
    split <;> exact ih

theorem clearBanks_byte (s : State) (first n a : Nat) : (s.clearBanks first n).holdByte a =
    if first * 0x400000 ≤ a ∧ a < (first + n) * 0x400000 ∧ s.get (F.holdOwnerLocked (a / 0x400000)) ≠ 1 then 0 else s.holdByte a := by
  induction n with
  | zero => rw [if_neg (by omega)]; rfl
  | succ n ih =>
    rw [clearBanks_succ, on_eq, clearBanks_get]
    by_cases ha : (first + n) * 0x400000 ≤ a ∧ a < (first + n + 1) * 0x400000
    · have hb : a / 0x400000 = first + n := by omega
      rw [hb] at ih ⊢
      by_cases hl : s.get (F.holdOwnerLocked (first + n)) = 1
      · rw [if_pos (by simpa using hl), ih, if_neg (by simp [hl]), if_neg (by simp [hl])]
      · rw [if_neg (by simpa using hl), clear_byte, if_pos ha, if_pos ⟨by omega, by omega, hl⟩]
    · have hx : (if s.get (F.holdOwnerLocked (first + n)) == 1 then s.clearBanks first n
          else (s.clearBanks first n).clearRange ((first + n) * 0x400000) ((first + n + 1) * 0x400000)).holdByte a = (s.clearBanks first n).holdByte a := by
        split
        · rfl
        · rw [clear_byte, if_neg ha]
      rw [hx, ih]
      exact if_congr (and_congr_right fun h1 => and_congr_left fun _ => by omega) rfl rfl

/-! The end of a requested test. -/

/-- A test that found nothing, over. -/
def State.cleanTest (s : State) : State :=
  let t := s.puts [(F.holdMarchStatusBusy, 0), (F.holdMarchStatusLastCode, 0)]
  { t with hold := { t.hold with test := none, window := none } }

theorem endTest_clean (s : State) {m : MarchTest} {fails : List MarchFail} (h : m.fails fails = []) :
    s.endTest m fails 0 = (s.cleanTest.raise 196).afterWindow s.hold.window := by
  unfold State.endTest
  rw [h]
  dsimp only
  rw [noteFails_nil, List.isEmpty_nil, if_pos rfl]
  rfl

theorem cleanTest_frame {T : List Field} {P : List Part} {s t : State} (h : Frame T P s t) (m1 : F.holdMarchStatusBusy ∈ T)
    (m2 : F.holdMarchStatusLastCode ∈ T) (m : .hold ∈ P) : Frame T P s t.cleanTest := holdPart (h.puts (by simp [m1, m2])) _ m

theorem cleanTest_get (s : State) : s.cleanTest.get F.holdMarchStatusBusy = 0 ∧ s.cleanTest.get F.holdMarchStatusLastCode = 0 := by
  unfold State.cleanTest
  dsimp only
  rw [State.get_mk, State.get_mk, State.puts_cons, State.puts_cons, State.puts_nil]
  refine ⟨?_, get_put_of_lt _ (.ofBits rfl) (by decide)⟩
  rw [State.get_put_other _ (.ofBits rfl) (.ofBits rfl)]
  exact get_put_of_lt _ (.ofBits rfl) (by decide)

theorem cleanTest_hold (s : State) : s.cleanTest.hold = { s.hold with test := none, window := none } := rfl

theorem cleanTest_byte (s : State) (a : Nat) : s.cleanTest.holdByte a = s.holdByte a := rfl

section
variable {s : State} (hi : s.inWinter = false) (ho : s.power.off = false) (hf : s.power.fabricOff = false) {m : MarchTest} (hm : s.hold.test = some m)
  (fails : List MarchFail)
include hi ho hf hm

theorem exec_marchTestEnd_test : exec (.marchTestEnd fails) s =
    if m.preserving && decide (m.at_ < m.last) then .next s
    else .next ((if m.preserving then s else s.clearBanks m.first m.count).endTest m fails (if (m.fails fails).isEmpty then 0 else 0x414)) := by
  show execMarchTestEnd fails s = _
  unfold execMarchTestEnd
  rw [hi, ho, hf, if_neg (by decide), hm]
  rfl

theorem exec_marchTestEnd_early (hp : m.preserving = true) (hl : m.at_ < m.last) : exec (.marchTestEnd fails) s = .next s := by
  rw [exec_marchTestEnd_test hi ho hf hm, if_pos (by simp [hp, hl])]

theorem exec_marchTestEnd_over (hl : m.preserving = false ∨ m.last ≤ m.at_) : exec (.marchTestEnd fails) s =
    .next ((if m.preserving then s else s.clearBanks m.first m.count).endTest m fails (if (m.fails fails).isEmpty then 0 else 0x414)) := by
  rw [exec_marchTestEnd_test hi ho hf hm, if_neg]
  rcases hl with hl | hl
  · simp [hl]
  · simp [Nat.not_lt.2 hl]

/-- A requested test that found nothing. -/
theorem marchTestEnd_clean (hl : m.preserving = false ∨ m.last ≤ m.at_) (hn : m.fails fails = []) :
    ∃ u, exec (.marchTestEnd fails) s = .next ((u.raise 196).afterWindow s.hold.window) ∧
      Frame [F.holdMarchStatusBusy, F.holdMarchStatusLastCode] [.hold] s u ∧
      u.get F.holdMarchStatusBusy = 0 ∧ u.get F.holdMarchStatusLastCode = 0 ∧ u.hold.test = none ∧ u.hold.window = none ∧
      (m.preserving = true → u.hold = { s.hold with test := none, window := none }) ∧
      ∀ a, u.holdByte a = if m.preserving = false ∧ m.first * 0x400000 ≤ a ∧ a < (m.first + m.count) * 0x400000 ∧
        s.get (F.holdOwnerLocked (a / 0x400000)) ≠ 1 then 0 else s.holdByte a := by
  have e := exec_marchTestEnd_over hi ho hf hm fails hl
  rw [hn, List.isEmpty_nil, if_pos rfl, endTest_clean _ hn] at e
  cases hp : m.preserving with
  | true =>
    rw [hp, if_pos rfl] at e
    refine ⟨_, e, cleanTest_frame (Frame.refl _ _ s) (by simp) (by simp) (by simp), (cleanTest_get s).1, (cleanTest_get s).2, rfl, rfl, fun _ => rfl, fun a => ?_⟩
    rw [cleanTest_byte, if_neg (fun h => Bool.noConfusion h.1)]
  | false =>
    rw [hp, if_neg Bool.false_ne_true, (clearBanks_march s m.first m.count).2] at e
    refine ⟨_, e, cleanTest_frame ((clearBanks_frame s m.first m.count).mono (by simp) (by simp)) (by simp) (by simp) (by simp),
      (cleanTest_get _).1, (cleanTest_get _).2, rfl, rfl, fun h => Bool.noConfusion h, fun a => ?_⟩
    rw [cleanTest_byte, clearBanks_byte]
    exact if_congr (by simp) rfl rfl

end

theorem marchFields_frame' (s : State) (pres alg bg : Bool) :
    Frame [F.holdMarchCtrlMode, F.holdMarchCtrlAlg, F.holdMarchCtrlBg] [] s (s.marchFields pres alg bg) :=
  marchFields_frame (Frame.refl _ _ s) pres alg bg fun _ h => h

/-- A preserving test begun with no window in its way. -/
theorem marchRequest_preserving {s : State} {w : Writer} (ha : s.accepts w R.holdMarchCtrl = true) (alg bg : Bool) (h : s.marchRefusal true = 0)
    (hw : s.hold.window = none) (hc : 0 < s.get F.holdMarchRangeCount) :
    Yields (.marchRequest w true alg bg) s [] (F.holdMarchStatusBusy :: [F.holdMarchCtrlMode, F.holdMarchCtrlAlg, F.holdMarchCtrlBg]) [.hold] fun u =>
      u.marchSet true alg bg ∧ u.get F.holdMarchStatusBusy = 1 ∧ u.hold = { s.hold with
        window := some (2048 * s.get F.holdMarchRangeFirst),
        test := some ⟨true, alg, bg, s.get F.holdMarchRangeFirst, s.get F.holdMarchRangeCount, 2048 * s.get F.holdMarchRangeFirst, s.cycleNow⟩ } := by
  have e := exec_marchRequest_starts ha true alg bg h
  rw [startTest_preserving alg bg hw hc] at e
  refine .quiet e (marchBegun_frame s alg bg) ⟨marchBegun_set s alg bg, ?_, rfl⟩
  rw [marchBegun_get]
  exact get_put_of_lt _ (.ofBits rfl) (by decide)

/-- Settles O38: requests by their refusals in order, a test's start behind the window that yields, background windows by their position, yields to an
access that waits, and ends by whether a read failed. -/
theorem marchTests : Obligations.MarchTests := by
  unfold Obligations.MarchTests
  intro s
  refine ⟨fun w pres alg bg ha => ⟨fun hb => ?_, fun hb => ⟨fun hr => ?_, ?_, ?_, ?_⟩, fun fails => ?_⟩, fun hi he ht hw => ⟨fun hb => ⟨?_, ?_⟩, ?_, ?_⟩,
    exec_marchBackgroundWindow_idle, fun w hw => ⟨fun ⟨h, hh, hx⟩ => windowWaited_held hh hx, fun ch hc ⟨r, hr, hx⟩ => windowWaited_dma hc hr hx, ?_, ?_⟩,
    exec_marchHoldLimit_met s, fun hi ho hf fails => ⟨fun w ht hw => ⟨fun hl => ?_, fun hl => ?_⟩, fun m hm => ⟨?_, ?_, ?_, ?_⟩⟩,
    fun fails pres alg bg f rest a hl hu => ?_, fun f alg bg op ho he => failBit_expected ho he, by decide, by decide⟩
  -- requests
  · exact marchRequest_refused ha pres alg bg (marchRefusal_busy hb) (by decide) (by decide)
  · exact marchRequest_refused ha pres alg bg (marchRefusal_range hb hr) (by decide) (by decide)
  · rintro hr rfl hx
    exact marchRequest_refused ha false alg bg ((marchRefusal_sound hb hr).1 hx) (by decide) (by decide)
  · rintro hr rfl hx
    exact marchRequest_refused ha true alg bg ((marchRefusal_sound hb hr).1 hx) (by decide) (by decide)
  · intro hr hd hp
    have hz : s.marchRefusal pres = 0 := (marchRefusal_sound hb hr).2 fun b hx => by
      cases pres with
      | false => simpa [State.marchBars] using hd rfl b hx
      | true => simp [State.marchBars, hp rfl b hx]
    refine ⟨⟨_, marchFields_frame' s pres alg bg, marchFields_set s pres alg bg, ?_⟩, ?_⟩
    · exact (exec_marchRequest_starts ha pres alg bg hz).trans (congrArg _ (startTest_eq s _ pres alg bg rfl))
    · rintro rfl hw
      exact marchRequest_preserving ha alg bg hz hw hr.1
  · refine ⟨_, marchFields_frame' s pres alg bg, marchFields_set s pres alg bg, fun ht => ?_, fun m ht => ?_⟩ <;>
      rw [exec_marchAbandon ha, ht]
  -- background windows
  · exact marchBackgroundWindow_here hi he ht hw hb
  · exact marchBackgroundWindow_skip hi he ht hw hb
  · exact fun hy hb t h => marchBackgroundWindow_past hi he ht hw hb hy h
  · exact exec_marchBackgroundWindow_shut hi he ht hw
  -- yields
  · intro hx
    refine ⟨_, yieldWindow_frame s, yieldWindow_count s, yieldWindow_hold s, ?_⟩
    rw [exec_marchHoldLimit hw, if_pos hx]
  · intro hx
    rw [exec_marchHoldLimit hw, if_neg hx]
  -- ends
  · exact ⟨_, cleanWindow_frame s, (cleanWindow_get s).1, (cleanWindow_get s).2.1, (cleanWindow_get s).2.2, cleanWindow_hold s,
      (exec_marchTestEnd_window hi ho hf fails ht hw).1 hl⟩
  · exact (exec_marchTestEnd_window hi ho hf fails ht hw).2 hl
  · exact exec_marchTestEnd_early hi ho hf hm fails
  · exact marchTestEnd_clean hi ho hf hm fails
  · intro hp hl hn
    rw [exec_marchTestEnd_over hi ho hf hm fails (.inr hl), if_pos hp, if_neg (by simpa using hn)]
  · intro hp hn
    rw [exec_marchTestEnd_over hi ho hf hm fails (.inl hp), if_neg (by simp [hp]), if_neg (by simpa using hn)]
    rfl
  -- what a test found
  · obtain ⟨h1, h2, h3⟩ := showWord_get s f a alg bg
    refine ⟨_, showWord_frame s f a alg bg, h1, h2, fun b hb => by rw [h3, hb]; rfl, ?_⟩
    unfold State.noteFails
    rw [hl]
    dsimp only
    rw [showFail_word s hu] <;> rfl

end Sys2Proof.Machine
end

section
/-! What reaches a DMA channel (R260 to R277). -/

open Sys2Proof Sys2Proof.Machine

namespace Sys2Proof.Machine

/-! The channels stay as they are while the Hold is read (R234 to R238): by the operations that a read is made of. -/

theorem put_dma (s : State) (f : Field) (v : Nat) : (s.put f v).dma = s.dma := rfl

theorem count_dma (s : State) (f : Field) (n : Nat) : (s.count f n).dma = s.dma := rfl

section
variable (n : Nat)

/-- A fold of steps that leave a channel as it is. -/
theorem foldl_dma {α : Type} {g : State → α → State} (h : ∀ t x, (g t x).dma[n]? = t.dma[n]?) (l : List α) (s : State) :
    (l.foldl g s).dma[n]? = s.dma[n]? :=
  foldl_inv (fun t : State => t.dma[n]? = s.dma[n]?) g l s rfl fun t x _ ht => (h t x).trans ht

theorem raiseIf_dma (s : State) (c : Bool) (k : Nat) : (s.raiseIf c k).dma[n]? = s.dma[n]? := by
  rw [State.raiseIf_eq]
  cases c
  · rfl
  · exact raise_dma s k n

theorem setHoldBytes_dma (s : State) (a : Nat) (l : List Byte) : (s.setHoldBytes a l).dma[n]? = s.dma[n]? :=
  (setHoldBytes_frame (T := []) (P := [.hold]) (Frame.refl _ _ s) (by simp) a l).rest (.channel n) (by simp)

theorem knowWord_dma (s : State) (w : Nat) : (s.knowWord w).dma[n]? = s.dma[n]? :=
  (knowWord_frame (T := []) (P := [.hold]) (Frame.refl _ _ s) (by simp) w).rest (.channel n) (by simp)

theorem loseWord_dma (s : State) (w : Nat) : (s.loseWord w).dma[n]? = s.dma[n]? := by
  unfold State.loseWord State.setUncorr
  dsimp only
  rw [setHoldBytes_dma, knowWord_dma]

theorem performWrite_dma (s : State) (a : HoldAccess) : (s.performWrite a).dma[n]? = s.dma[n]? :=
  (performWrite_frame (T := chaseFields) (P := .hold :: chaseParts) (Frame.refl _ _ s) (by simp) (fun _ h => h)
    (fun _ h => by simp [h]) a).rest (.channel n) (by simp [chaseParts])

theorem respond_dma (s : State) (a : HoldAccess) (c : Nat) (b : Bool) (d : List Byte) : (s.respond a c b d).dma[n]? = s.dma[n]? :=
  (respond_frame (T := aerFields) (P := [.out, .host, .purser]) (Frame.refl _ _ s) (fun _ h => h) (by simp) (by simp) (by simp) a c b d).rest
    (.channel n) (by simp)

theorem noteCollision_dma (s : State) (w e l : Nat) : (s.noteCollision w e l).dma[n]? = s.dma[n]? := by
  rw [noteCollision_eq, raise_dma]
  rfl

theorem nextRepair_dma (s : State) : s.nextRepair.dma[n]? = s.dma[n]? := by
  unfold State.nextRepair
  split
  · rfl
  · split
    · rfl
    · split <;> split <;> first | exact raise_dma _ _ n | rfl

theorem wantRepair_dma (s : State) (r : Repair) (c : Nat) : (s.wantRepair r c).dma[n]? = s.dma[n]? := by
  unfold State.wantRepair
  split
  · exact nextRepair_dma n _
  · rfl

theorem judgeBank_dma (s : State) (b c : Nat) : (s.judgeBank b c).dma[n]? = s.dma[n]? := by
  unfold State.judgeBank
  split
  · rfl
  · dsimp only
    split
    · rw [raise_dma, raise_dma]
    · rw [wantRepair_dma, raise_dma]

theorem rowWorn_dma (s : State) (b r c : Nat) : (s.rowWorn b r c).dma[n]? = s.dma[n]? := by
  unfold State.rowWorn
  split
  · rfl
  · dsimp only
    split
    · rw [judgeBank_dma, raise_dma]
    · split
      · rw [raise_dma, judgeBank_dma, raise_dma]
      · rw [wantRepair_dma, judgeBank_dma, raise_dma]

theorem noteCorrected_dma (s : State) (w : Nat) : (s.noteCorrected w).dma[n]? = s.dma[n]? := by
  unfold State.noteCorrected
  dsimp only
  split
  · exact rowWorn_dma n _ _ _ _
  · rfl

theorem eccRead_dma (s : State) (a : HoldAccess) (ecc : Nat) : (s.eccRead a ecc).1.dma[n]? = s.dma[n]? := by
  have h : (if ecc = 2 ∧ !s.hold.uncorr.contains (wordOf a.addr.toNat) then s.loseWord (wordOf a.addr.toNat) else s).dma[n]? = s.dma[n]? := by
    split
    · exact loseWord_dma n s _
    · rfl
  unfold State.eccRead
  dsimp only
  generalize (if ecc = 2 ∧ !s.hold.uncorr.contains (wordOf a.addr.toNat) then s.loseWord (wordOf a.addr.toNat) else s) = u at h ⊢
  rw [← h]
  split
  · exact noteUncorr_dma u _ n
  · split
    · exact noteCorrected_dma n u _
    · rfl

theorem performOne_dma (s : State) (a : HoldAccess) (ecc : Nat) (busy : Bool) : (s.performOne a ecc busy).dma[n]? = s.dma[n]? := by
  unfold State.performOne
  split
  · rw [respond_dma, performWrite_dma]
  · rw [respond_dma, eccRead_dma]

theorem abortCal_dma (s : State) (l : Nat) : (s.abortCal l).dma[n]? = s.dma[n]? := by
  unfold State.abortCal
  split
  · rfl
  · unfold State.endCal
    split
    · rfl
    · dsimp only
      split
      · split <;> rfl
      · rfl

theorem abortRoute_dma (s : State) (r : Nat) : (s.abortRoute r).dma[n]? = s.dma[n]? := by
  refine foldl_dma n (fun t o => ?_) _ s
  split
  · exact foldl_dma n (abortCal_dma n) _ t
  · rfl

theorem noteStall_dma (s : State) (k : Nat) : (s.noteStall k).dma[n]? = s.dma[n]? := rfl

theorem setFrozen_dma (s : State) (m : Nat) (b : Bool) : (s.setFrozen m b).dma[n]? = s.dma[n]? := by
  unfold State.setFrozen
  have e : ((s.put (F.mstFreezeCauseFrozen m) b.toNat).setBit (R.mstFrozen (m / 32)) (m % 32) b).dma = s.dma := rfl
  generalize (s.put (F.mstFreezeCauseFrozen m) b.toNat).setBit (R.mstFrozen (m / 32)) (m % 32) b = t at e ⊢
  rw [← e]
  dsimp only
  split_ifs
  · rw [put_dma]
  · rw [put_dma]
  · rw [put_dma]
  · rw [foldl_dma n (noteStall_dma n), abortRoute_dma]
  · rw [noteStall_dma]
  · rfl

theorem violate_dma (s : State) (m c a : Nat) (w : Bool) (x : Nat) : (s.violate m c a w x).dma[n]? = s.dma[n]? := by
  have l : (s.latchCause m c a w x).dma = s.dma := rfl
  unfold State.violate
  split
  · split
    · rw [put_dma]
    · rw [raise_dma, l]
  · split
    · rw [put_dma]
    · rw [raise_dma, setFrozen_dma, l]

theorem passGate_dma (s : State) (p : Peer) : (s.passGate p).1.dma[n]? = s.dma[n]? := by
  unfold State.passGate
  dsimp only
  split
  · rfl
  · split
    · dsimp only
      split
      · rw [respond_dma, violate_dma]
      · exact violate_dma ..
    · split
      · dsimp only
        split
        · exact respond_dma ..
        · rfl
      · rfl

theorem takePeers_dma (s : State) (m a k : Nat) (w : Bool) : (s.takePeers m a k w).1.dma[n]? = s.dma[n]? := by
  unfold State.takePeers
  refine foldl_inv (fun q : State × List Peer => q.1.dma[n]? = s.dma[n]?) _ _ _ rfl fun q p _ hq => ?_
  exact (passGate_dma n q.1 p).trans hq

theorem eccRun_dma (s : State) (a k : Nat) : (s.eccRun a k).dma[n]? = s.dma[n]? := by
  unfold State.eccRun
  dsimp only
  rw [foldl_dma n, foldl_dma n]
  · intro t x
    split
    · rfl
    · exact loseWord_dma n t _
  · intro t x
    split
    · rfl
    · exact noteCorrected_dma n t _

theorem mixedRead_dma (r : State × List (Nat × List Byte)) (m : Nat) (p : Peer) : (State.mixedRead r m p).1.dma[n]? = r.1.dma[n]? := by
  unfold State.mixedRead
  dsimp only
  rw [noteCollision_dma, respond_dma]
  exact performWrite_dma n r.1 _

theorem readRun_dma (s : State) (m a k : Nat) : (s.readRun m a k).1.dma[n]? = s.dma[n]? := by
  unfold State.readRun
  refine foldl_inv (fun q : State × List (Nat × List Byte) => q.1.dma[n]? = s.dma[n]?) _ _ _ ?_ fun q p _ hq => (mixedRead_dma n q m p).trans hq
  refine (foldl_dma n (fun t p => ?_) _ _).trans ((eccRun_dma n _ a k).trans (takePeers_dma n s m a k false))
  rw [noteCollision_dma, performOne_dma]

theorem noteRun_dma (s : State) (a k : Nat) : (s.noteRun a k).dma[n]? = s.dma[n]? := foldl_dma n (fun t w => noteUncorr_dma t w n) _ s

theorem readWhole_dma (s : State) (m a k : Nat) : (s.readWhole m a k).2.dma[n]? = s.dma[n]? := by
  unfold State.readWhole
  dsimp only
  split
  · rw [noteRun_dma, readRun_dma]
  · exact readRun_dma n s m a k

theorem openPort_dma (s : State) (acts : Nat → Bool) (port : HoldPort) : (s.openPort acts port).dma[n]? = s.dma[n]? := by
  unfold State.openPort
  dsimp only
  refine foldl_dma n (fun t p => ?_) _ s
  unfold State.conflict
  rw [count_dma]

end

/-! Answers of the host link, logged and counted. -/

theorem logAer_dma (s : State) (f cor unc n : Nat) : (s.logAer f cor unc).dma[n]? = s.dma[n]? := by
  unfold State.logAer
  dsimp only
  rw [raiseIf_dma, raiseIf_dma]

theorem aerReply_dma (s : State) (f : Nat) (r : BusReply) (n : Nat) : (s.aerReply f r).dma[n]? = s.dma[n]? := by
  unfold State.aerReply
  split
  · exact logAer_dma ..
  · rfl

theorem timedOut_dma (s : State) (ch n : Nat) : (s.timedOut ch).dma[n]? = s.dma[n]? := logAer_dma ..

theorem aerReply_frame (s : State) (f : Nat) (r : BusReply) : Frame aerFields [.host, .purser, .out] s (s.aerReply f r) := by
  unfold State.aerReply
  split
  · unfold State.logAer
    exact raiseIf_frame (raiseIf_frame (hostPart (Frame.refl _ _ s) _ (by simp)) _ _ (by simp [aerFields]) (by simp) (by simp) (by simp)) _ _
      (by simp [aerFields]) (by simp) (by simp) (by simp)
  · exact Frame.refl _ _ s

theorem setChan_dma {s : State} {ch : Nat} {c : DmaState} (hc : s.dma[ch]? = some c) (g : DmaState → DmaState) :
    (s.setChan ch g).dma[ch]? = some (g c) := by
  simp [hc]

section
variable {s : State} {ch : Fin 32} {c : DmaState} (hc : s.dma[ch.val]? = some c)
include hc

theorem answer_dma (reply : BusReply) : ((s.aerReply (s.chanFn ch) reply).npEnd ch).dma[ch.val]? = some c := by
  rw [npEnd_dma, aerReply_dma, hc]

theorem late_dma : ((s.timedOut ch).npEnd ch).dma[ch.val]? = some c := by
  rw [npEnd_dma, timedOut_dma, hc]

/-! Descriptors. -/

theorem exec_descriptorFetched_lost {hold : Bool} {rest : List Bool} (hl : c.lost = hold :: rest) (reply : BusReply) (data : List Byte) (port : HoldPort) :
    exec (.descriptorFetched ch reply data port) s =
      .next (((if hold then s else (s.aerReply (s.chanFn ch) reply).npEnd ch).setChan ch fun c => { c with lost := rest }).dmaGo s) := by
  show execDescriptorFetched ch reply data port s = _
  unfold execDescriptorFetched
  rw [chan_of hc, hl]

theorem exec_descriptorFetched_host {a : Nat} (hl : c.lost = []) (hf : c.fetch = some (a, false)) (hg : c.fetching = true) (reply : BusReply)
    (data : List Byte) (port : HoldPort) : exec (.descriptorFetched ch reply data port) s =
      .next ((((s.aerReply (s.chanFn ch) reply).npEnd ch).fetchEnd ch (a, false)
        (if replyCode false reply = 0 ∧ data.length ≠ 64 then 0x310 else replyCode false reply) data).dmaGo s) := by
  show execDescriptorFetched ch reply data port s = _
  unfold execDescriptorFetched
  rw [chan_of hc, hl, hf, hg]
  rfl

/-- A fetch from the Hold ends with what its read gives. -/
theorem exec_descriptorFetched_hold {a : Nat} (hl : c.lost = []) (hf : c.fetch = some (a, true)) (hg : c.fetching = true) (reply : BusReply)
    (data : List Byte) (port : HoldPort) :
    let r := (s.openPort (· == 0x10 + ch.val) port).readWhole (0x10 + ch.val) a 64
    exec (.descriptorFetched ch reply data port) s = .next (((match r.1 with
      | .error w => r.2.fetchEnd ch (w, true) 0x314 []
      | .ok b => r.2.fetchEnd ch (a, true) 0 b).closePort).dmaGo s) := by
  intro r
  show execDescriptorFetched ch reply data port s = _
  unfold execDescriptorFetched
  rw [chan_of hc, hl, hf, hg]
  rfl

omit hc in
theorem holdRead_dma (m a n : Nat) (port : HoldPort) (acts : Nat → Bool) :
    ((s.openPort acts port).readWhole m a n).2.dma[ch.val]? = s.dma[ch.val]? := by
  rw [readWhole_dma, openPort_dma]

/-! Reads. -/

theorem exec_dmaReadCompletion_orphan {i : Nat} (hi : i < c.orphans) (reply : BusReply) (data : List Byte) (port : HoldPort) :
    exec (.dmaReadCompletion ch i reply data port) s =
      .next ((((s.aerReply (s.chanFn ch) reply).npEnd ch).setChan ch fun c => { c with orphans := c.orphans - 1 }).dmaGo s) := by
  show execDmaReadCompletion ch i reply data port s = _
  unfold execDmaReadCompletion
  rw [chan_of hc, if_pos hi]

omit hc in
theorem setChunk_dma {t : State} {x : DmaXfer} (ht : t.dma[ch.val]? = some c) (hx : c.xfer = some x) (j : Nat) (g : DmaChunk → DmaChunk) :
    (t.setChunk ch j g).dma[ch.val]? = some { c with xfer := some { x with chunks := updAt x.chunks j g } } := setXfer_dma ht hx _

section
variable {x : DmaXfer} (hx : c.xfer = some x)
include hx

section
variable {i j : Nat} {k : DmaChunk} (hi : c.orphans ≤ i) (hj : (x.inPhase 0)[i - c.orphans]? = some j) (hk : x.chunks[j]? = some k) (reply : BusReply)
  (data : List Byte) (port : HoldPort)
include hi hj hk

theorem exec_dmaReadCompletion_host (hs : x.srcHold = false) : exec (.dmaReadCompletion ch i reply data port) s =
    .next ((((s.aerReply (s.chanFn ch) reply).npEnd ch).readEnd ch j x (x.srcAt (x.place k.off k.len))
      (if replyCode false reply = 0 ∧ data.length ≠ k.len then 0x310 else replyCode false reply) data).dmaGo s) := by
  show execDmaReadCompletion ch i reply data port s = _
  unfold execDmaReadCompletion
  dsimp only
  rw [chan_of hc, if_neg (Nat.not_lt.2 hi), hx]
  dsimp only
  rw [hj]
  dsimp only
  rw [hk]
  dsimp only
  rw [if_neg (by simp [hs])]

/-- A read of the Hold ends with what the Hold gives. -/
theorem exec_dmaReadCompletion_hold (hs : x.srcHold = true) :
    let a := x.srcAt (x.place k.off k.len)
    let r := (s.openPort (· == 0x10 + ch.val) port).readWhole (0x10 + ch.val) a k.len
    exec (.dmaReadCompletion ch i reply data port) s = .next (((match r.1 with
      | .error w => r.2.readEnd ch j x (max a w) 0x314 []
      | .ok b => r.2.readEnd ch j x a 0 b).closePort).dmaGo s) := by
  intro a r
  show execDmaReadCompletion ch i reply data port s = _
  unfold execDmaReadCompletion
  dsimp only
  rw [chan_of hc, if_neg (Nat.not_lt.2 hi), hx]
  dsimp only
  rw [hj]
  dsimp only
  rw [hk]
  dsimp only
  rw [if_pos hs]
  rfl

end

omit hc hx in
theorem readEnd_good (s : State) (ch j : Nat) (x : DmaXfer) (a : Nat) (b : List Byte) :
    s.readEnd ch j x a 0 b = s.setChunk ch j fun k => { k with phase := 1, data := b } := if_neg (by decide)

omit hc hx in
theorem readEnd_bad (s : State) (ch j : Nat) (x : DmaXfer) (a : Nat) {code : Nat} (h : code ≠ 0) (b : List Byte) :
    s.readEnd ch j x a code b = (s.setChunk ch j fun k => { k with phase := 4 }).chanHalt ch code a false x.srcHold false := if_pos h

/-! Responses to writes. -/

omit hc hx in
/-- The waits counted as a port opens leave the status of a descriptor as it is. -/
theorem openPort_statusBytes (s : State) (acts : Nat → Bool) (port : HoldPort) (x : DmaXfer) :
    (s.openPort acts port).statusBytes ch x = s.statusBytes ch x := by
  have h : (s.openPort acts port).get (F.dmaResidueBytes ch) = s.get (F.dmaResidueBytes ch) := by
    unfold State.openPort
    dsimp only
    rw [State.get_mk]
    refine foldl_inv (fun t : State => t.get (F.dmaResidueBytes ch) = s.get (F.dmaResidueBytes ch)) _ _ _ rfl fun t p _ ht => ?_
    refine (count_get_other _ _ (.inl ?_) (.ofBits rfl)).trans ht
    have := p.1.isLt
    simp [F.holdConflictCount, R.holdConflict, F.dmaResidueBytes, R.dmaResidue]
    omega
  unfold State.statusBytes
  rw [h]

theorem exec_dmaHoldResponse_status (hp : x.phase = 2) (i : Nat) (port : HoldPort) :
    let a := (s.curPtr ch).1 + 0x30
    let t := s.openPort (· == 0x10 + ch.val) port
    exec (.dmaHoldResponse ch i port) s = .next (((if (t.firstBarred (0x10 + ch.val) a 12 true).isSome then
      (t.setXfer ch fun y => { y with phase := 0 }).chanHalt ch 0x314 a true true true
      else (t.writeRun (0x10 + ch.val) a (t.statusBytes ch x)).xferEnd ch x).closePort).dmaGo s) := by
  intro a t
  show execDmaHoldResponse ch i port s = _
  unfold execDmaHoldResponse
  rw [chan_of hc, hx]
  dsimp only
  rw [if_pos hp]
  rfl

theorem exec_dmaHoldResponse_chunk {i j : Nat} {k : DmaChunk} (hp : x.phase ≠ 2) (hj : (x.inPhase 2)[i]? = some j) (hk : x.chunks[j]? = some k)
    (port : HoldPort) :
    let a := x.dstAt (x.place k.off k.len)
    let t := s.openPort (· == 0x10 + ch.val) port
    exec (.dmaHoldResponse ch i port) s = .next (((if (t.firstBarred (0x10 + ch.val) a k.len true).isSome then
      (t.setChunk ch j fun k => { k with phase := 4 }).chanHalt ch 0x314 a true true false
      else ((t.writeRun (0x10 + ch.val) a k.data).setChunk ch j fun k => { k with phase := 3 }).advance ch).closePort).dmaGo s) := by
  intro a t
  show execDmaHoldResponse ch i port s = _
  unfold execDmaHoldResponse
  rw [chan_of hc, hx]
  dsimp only
  rw [if_neg hp, hj]
  dsimp only
  rw [hk]
  rfl

/-! Flush reads. -/

theorem exec_flushReadComplete (reply : BusReply) : exec (.flushReadComplete ch reply) s =
    if x.half = 1 ∨ x.phase = 1 then .next (((s.aerReply (s.chanFn ch) reply).flushEnd ch x (replyCode false reply)).dmaGo s) else .next s := by
  show execFlushReadComplete ch reply s = _
  unfold execFlushReadComplete
  rw [chan_of hc, hx]

end

omit hc in
/-- The flush read of the half point answered. -/
theorem flushEnd_half (t : State) {x : DmaXfer} (h : x.half = 1) (code : Nat) : t.flushEnd ch x code =
    if code ≠ 0 then ((t.npEnd ch).setXfer ch fun y => { y with half := 0 }).chanHalt ch code x.halfFlush false false true
    else ((t.npEnd ch).setXfer ch fun y => { y with half := 2 }).raise (128 + ch) := by
  unfold State.flushEnd
  rw [h]
  rfl

omit hc in
/-- The flush read of the end answered. -/
theorem flushEnd_end (t : State) {x : DmaXfer} (h : x.half ≠ 1) (code : Nat) : t.flushEnd ch x code =
    if code ≠ 0 then ((t.npEnd ch).setXfer ch fun y => { y with phase := 0 }).chanHalt ch code x.flush false false true
    else if t.chanStopped ch then (t.npEnd ch).setXfer ch fun y => { y with phase := 0 }
    else ((t.npEnd ch).setXfer ch fun y => { y with phase := 0 }).writeStatus ch x := by
  unfold State.flushEnd
  rw [beq_false_of_ne h]
  rfl

omit hc in
theorem aerReply_stopped (s : State) (f : Nat) (r : BusReply) : (s.aerReply f r).chanStopped ch = s.chanStopped ch := by
  have far (g : Field) (h : 0x10010 ≤ g.addr) : ∀ p ∈ aerFields, Apart p g := by
    simp [aerFields, Apart, pendingField, R.evtStatus]
    omega
  exact chanStopped_of (aerReply_frame s f r) ch
    (far (F.mstFreezeCauseFrozen (0x10 + ch)) (by simp [F.mstFreezeCauseFrozen, R.mstFreezeCause]; omega))
    (far (F.dmaStatusState ch) (by simp [F.dmaStatusState, R.dmaStatus]; omega))

/-! Timeouts. -/

omit hc in
theorem exec_completionTimeout_met (i : Nat) : exec (.completionTimeout ch i true) s = .next s := by
  show execCompletionTimeout ch i true s = _
  unfold execCompletionTimeout
  rw [if_pos rfl]

theorem exec_completionTimeout_lost {i : Nat} (hi : i < c.lost.countP (!·)) : exec (.completionTimeout ch i false) s =
    .next ((((s.timedOut ch).npEnd ch).setChan ch fun k => { k with lost := k.lost.erase false }).dmaGo s) := by
  show execCompletionTimeout ch i false s = _
  unfold execCompletionTimeout
  dsimp only
  rw [if_neg Bool.false_ne_true, chan_of hc, if_pos hi]

theorem exec_completionTimeout_fetch {a : Nat} (hl : c.lost.countP (!·) = 0) (hf : c.fetch = some (a, false)) (hg : c.fetching = true) :
    exec (.completionTimeout ch 0 false) s = .next ((((s.timedOut ch).npEnd ch).fetchEnd ch (a, false) 0x312 []).dmaGo s) := by
  show execCompletionTimeout ch 0 false s = _
  unfold execCompletionTimeout
  dsimp only
  rw [if_neg Bool.false_ne_true, chan_of hc, hl, if_neg (by decide), hf, hg]
  rfl

section
variable (hl : c.lost.countP (!·) = 0) (hg : c.fetching = false)
include hl hg

/-- With no fetch in flight the reads given up come first, then the data reads, the flush read and the ledger's transfers. -/
theorem exec_completionTimeout_rest (i : Nat) : exec (.completionTimeout ch i false) s =
    if i < c.orphans then .next ((((s.timedOut ch).npEnd ch).setChan ch fun k => { k with orphans := k.orphans - 1 }).dmaGo s)
    else
      let reads := match c.xfer with
        | some x => if x.srcHold then [] else x.inPhase 0
        | none => []
      let flushes := match c.xfer with
        | some x => (x.half == 1).toNat + (x.phase == 1).toNat
        | none => 0
      match c.xfer, reads[i - c.orphans]? with
      | some x, some j =>
        match x.chunks[j]? with
        | some k => .next ((((s.timedOut ch).npEnd ch).readEnd ch j x (x.srcAt (x.place k.off k.len)) 0x312 []).dmaGo s)
        | none => .next s
      | x, _ =>
        match x with
        | some x => if i - c.orphans - reads.length < flushes then .next (((s.timedOut ch).flushEnd ch x 0x312).dmaGo s) else .next s
        | none =>
          match (s.ledgerOut ch)[i - c.orphans - reads.length]? with
          | some (n, y, read) => .next (((s.timedOut ch).ledgerTimeout n y read).dmaGo s)
          | none => .next s := by
  show execCompletionTimeout ch i false s = _
  unfold execCompletionTimeout
  dsimp only
  rw [if_neg Bool.false_ne_true, chan_of hc, hl, hg, if_neg (Nat.not_lt_zero _)]
  cases c.fetch <;> simp only [Bool.false_and, Bool.false_eq_true, if_false, Nat.add_zero, Nat.not_lt_zero, Nat.zero_add, Nat.sub_zero] <;> rfl

theorem exec_completionTimeout_orphan {i : Nat} (hi : i < c.orphans) : exec (.completionTimeout ch i false) s =
    .next ((((s.timedOut ch).npEnd ch).setChan ch fun k => { k with orphans := k.orphans - 1 }).dmaGo s) := by
  rw [exec_completionTimeout_rest hc hl hg, if_pos hi]

theorem exec_completionTimeout_read {i j : Nat} {x : DmaXfer} {k : DmaChunk} (hi : c.orphans ≤ i) (hx : c.xfer = some x) (hs : x.srcHold = false)
    (hj : (x.inPhase 0)[i - c.orphans]? = some j) (hk : x.chunks[j]? = some k) : exec (.completionTimeout ch i false) s =
    .next ((((s.timedOut ch).npEnd ch).readEnd ch j x (x.srcAt (x.place k.off k.len)) 0x312 []).dmaGo s) := by
  rw [exec_completionTimeout_rest hc hl hg, if_neg (Nat.not_lt.2 hi), hx]
  dsimp only
  rw [hs, if_neg Bool.false_ne_true, hj]
  dsimp only
  rw [hk]

/-- The flush read of the half point, which no data read of the host link is in flight beside. -/
theorem exec_completionTimeout_half {x : DmaXfer} (ho : c.orphans = 0) (hx : c.xfer = some x) (hs : x.srcHold = true) (hh : x.half = 1) :
    exec (.completionTimeout ch 0 false) s = .next (((s.timedOut ch).flushEnd ch x 0x312).dmaGo s) := by
  rw [exec_completionTimeout_rest hc hl hg, ho, if_neg (Nat.not_lt_zero _), hx]
  dsimp only
  rw [if_pos hs, hh]
  exact if_pos (Nat.lt_of_lt_of_le (by decide) (Nat.le_add_right 1 _))

theorem exec_completionTimeout_ledger {i n y : Nat} {read : Option Bool} (hi : c.orphans ≤ i) (hx : c.xfer = none)
    (hr : (s.ledgerOut ch)[i - c.orphans]? = some (n, y, read)) :
    exec (.completionTimeout ch i false) s = .next (((s.timedOut ch).ledgerTimeout n y read).dmaGo s) := by
  rw [exec_completionTimeout_rest hc hl hg, if_neg (Nat.not_lt.2 hi), hx]
  dsimp only
  rw [List.length_nil, Nat.sub_zero, hr]

end

end

/-! The rate limiter. -/

theorem rateWindow_fold (s : State) {n : Nat} (hn : n < 32) {c : DmaState} (hc : s.dma[n]? = some c) :
    ∃ t, Frame [] ((List.range 32).map .channel) s t ∧ exec .rateWindow s = .next (t.dmaGo s) ∧
      t.dma[n]? = some (if s.on (F.dmaRateEn n) then { c with tokens := min (s.bucketMax n) (c.tokens + s.bucketGain n) } else c) := by
  obtain ⟨hf, hd⟩ := rate_fold s 32 (Nat.le_refl _)
  refine ⟨_, hf, rfl, ?_⟩
  rw [(hd n).1 hn, hc]
  rfl

section
variable {s : State} {ch : Fin 32} {c : DmaState} (hc : s.dma[ch.val]? = some c)
include hc

/-! The cases of the obligation, each from the equation of its command. -/

theorem descriptorFetched_lost (reply : BusReply) (data : List Byte) (port : HoldPort) (hold : Bool) {rest : List Bool} (hl : c.lost = hold :: rest) :
    ∃ u, (if hold then Frame [] [.channel ch] s u else (s.aerReply (s.chanFn ch) reply).answered ch [.channel ch] u) ∧
      u.dma[ch.val]? = some { c with lost := rest } ∧ exec (.descriptorFetched ch reply data port) s = .next (u.dmaGo s) := by
  have e := exec_descriptorFetched_lost hc hl reply data port
  cases hold with
  | true => exact ⟨_, State.setChan_frame (Frame.refl _ _ s) _ _ (by simp), setChan_dma hc _, e⟩
  | false => exact ⟨_, answered_setChan (npEnd_answered _ ch _) _, setChan_dma (answer_dma hc reply) _, e⟩

/-- A fetch from the Hold: by what its read gives. -/
theorem descriptorFetched_hold (reply : BusReply) (data : List Byte) (port : HoldPort) {a : Nat} (hl : c.lost = []) (hf : c.fetch = some (a, true))
    (hg : c.fetching = true) :
    let cmd := Instr.descriptorFetched ch reply data port
    let r := (s.openPort (· == 0x10 + ch.val) port).readWhole (0x10 + ch.val) a 64
    (∀ b, r.1 = .ok b → ∃ x, r.2.fetchEnds ch c (a, true) 0 b x ∧ exec cmd s = .next (x.closePort.dmaGo s)) ∧
    (∀ w, r.1 = .error w → ∃ x, r.2.fetchEnds ch c (w, true) 0x314 [] x ∧ exec cmd s = .next (x.closePort.dmaGo s)) := by
  intro cmd r
  have hd : r.2.dma[ch.val]? = some c := (holdRead_dma ..).trans hc
  have e : exec cmd s = _ := exec_descriptorFetched_hold hc hl hf hg reply data port
  refine ⟨fun b hb => ⟨_, fetchEnd_ends (s := s) hd (a, true) 0 b, ?_⟩, fun w hw => ⟨_, fetchEnd_ends (s := s) hd (w, true) 0x314 [], ?_⟩⟩
  · rw [e, hb]
  · rw [e, hw]

section
variable {i j : Nat} {x : DmaXfer} {k : DmaChunk} (hi : c.orphans ≤ i) (hx : c.xfer = some x) (hj : (x.inPhase 0)[i - c.orphans]? = some j)
  (hk : x.chunks[j]? = some k) (reply : BusReply) (data : List Byte) (port : HoldPort)
include hi hx hj hk

theorem dmaReadCompletion_host (hs : x.srcHold = false) :
    let cmd := Instr.dmaReadCompletion ch i reply data port
    let code := if replyCode false reply = 0 ∧ data.length ≠ k.len then 0x310 else replyCode false reply
    ∃ u, (s.aerReply (s.chanFn ch) reply).answered ch [.channel ch] u ∧
      (code = 0 → u.dma[ch.val]? = some { c with xfer := some { x with chunks := updAt x.chunks j fun k => { k with phase := 1, data := data } } } ∧
        exec cmd s = .next (u.dmaGo s)) ∧
      (code ≠ 0 → u.dma[ch.val]? = some { c with xfer := some { x with chunks := updAt x.chunks j fun k => { k with phase := 4 } } } ∧
        exec cmd s = .next ((u.chanHalt ch code (x.srcAt (x.place k.off k.len)) false false false).dmaGo s)) := by
  intro cmd code
  have e : exec cmd s = .next ((((s.aerReply (s.chanFn ch) reply).npEnd ch).readEnd ch j x (x.srcAt (x.place k.off k.len)) code data).dmaGo s) :=
    exec_dmaReadCompletion_host hc hx hi hj hk reply data port hs
  have a (g : DmaChunk → DmaChunk) : (s.aerReply (s.chanFn ch) reply).answered ch [.channel ch]
      (((s.aerReply (s.chanFn ch) reply).npEnd ch).setChunk ch j g) := answered_setXfer (npEnd_answered _ ch _) _
  by_cases hz : code = 0
  · rw [hz, readEnd_good] at e
    exact ⟨_, a _, fun _ => ⟨setChunk_dma (answer_dma hc reply) hx j _, e⟩, fun h => absurd hz h⟩
  · rw [readEnd_bad _ _ _ _ _ hz, hs] at e
    exact ⟨_, a _, fun h => absurd h hz, fun _ => ⟨setChunk_dma (answer_dma hc reply) hx j _, e⟩⟩

theorem dmaReadCompletion_hold (hs : x.srcHold = true) :
    let cmd := Instr.dmaReadCompletion ch i reply data port
    let a := x.srcAt (x.place k.off k.len)
    let r := (s.openPort (· == 0x10 + ch.val) port).readWhole (0x10 + ch.val) a k.len
    (∀ b, r.1 = .ok b → ∃ u, Frame [] [.channel ch] r.2 u ∧
      u.dma[ch.val]? = some { c with xfer := some { x with chunks := updAt x.chunks j fun y => { y with phase := 1, data := b } } } ∧
      exec cmd s = .next (u.closePort.dmaGo s)) ∧
    (∀ w, r.1 = .error w → ∃ u, Frame [] [.channel ch] r.2 u ∧
      u.dma[ch.val]? = some { c with xfer := some { x with chunks := updAt x.chunks j fun k => { k with phase := 4 } } } ∧
      exec cmd s = .next ((u.chanHalt ch 0x314 (max a w) false true false).closePort.dmaGo s)) := by
  intro cmd a r
  have hd : r.2.dma[ch.val]? = some c := (holdRead_dma ..).trans hc
  have e : exec cmd s = _ := exec_dmaReadCompletion_hold hc hx hi hj hk reply data port hs
  have f (g : DmaChunk → DmaChunk) : Frame [] [.channel ch] r.2 (r.2.setChunk ch j g) := State.setChunk_frame (Frame.refl _ _ _) _ _ _ (by simp)
  refine ⟨fun b hb => ⟨_, f _, setChunk_dma hd hx j _, ?_⟩, fun w hw => ⟨_, f _, setChunk_dma hd hx j _, ?_⟩⟩
  · rw [e, hb]
    dsimp only
    rw [readEnd_good]
  · rw [e, hw]
    dsimp only
    rw [readEnd_bad _ _ _ _ _ (by decide), hs]

end

section
variable {x : DmaXfer} (hx : c.xfer = some x)
include hx

theorem dmaHoldResponse_status (i : Nat) (port : HoldPort) (hp : x.phase = 2) :
    let cmd := Instr.dmaHoldResponse ch i port
    let t := s.openPort (· == 0x10 + ch.val) port
    let a := (s.curPtr ch).1 + 0x30
    (t.firstBarred (0x10 + ch.val) a 12 true ≠ none → ∃ u, Frame [] [.channel ch] t u ∧
      u.dma[ch.val]? = some { c with xfer := some { x with phase := 0 } } ∧
      exec cmd s = .next ((u.chanHalt ch 0x314 a true true true).closePort.dmaGo s)) ∧
    (¬ t.firstBarred (0x10 + ch.val) a 12 true ≠ none →
      exec cmd s = .next (((t.writeRun (0x10 + ch.val) a (s.statusBytes ch x)).xferEnd ch x).closePort.dmaGo s)) := by
  intro cmd t a
  have e : exec cmd s = _ := exec_dmaHoldResponse_status hc hx hp i port
  have ht : t.dma[ch.val]? = some c := (openPort_dma ..).trans hc
  refine ⟨fun hb => ⟨_, State.setXfer_frame (Frame.refl _ _ t) ch (fun y => { y with phase := 0 }) (by simp), setXfer_dma ht hx _, ?_⟩, fun hb => ?_⟩
  · rw [e, if_pos (Option.isSome_iff_ne_none.2 hb)]
  · rw [e, if_neg (mt Option.isSome_iff_ne_none.1 hb), openPort_statusBytes]

theorem dmaHoldResponse_chunk {i j : Nat} {k : DmaChunk} (port : HoldPort) (hp : x.phase ≠ 2) (hj : (x.inPhase 2)[i]? = some j)
    (hk : x.chunks[j]? = some k) :
    let cmd := Instr.dmaHoldResponse ch i port
    let t := s.openPort (· == 0x10 + ch.val) port
    let a := x.dstAt (x.place k.off k.len)
    (t.firstBarred (0x10 + ch.val) a k.len true ≠ none → ∃ u, Frame [] [.channel ch] t u ∧
      u.dma[ch.val]? = some { c with xfer := some { x with chunks := updAt x.chunks j fun k => { k with phase := 4 } } } ∧
      exec cmd s = .next ((u.chanHalt ch 0x314 a true true false).closePort.dmaGo s)) ∧
    (¬ t.firstBarred (0x10 + ch.val) a k.len true ≠ none → exec cmd s =
      .next ((((t.writeRun (0x10 + ch.val) a k.data).setChunk ch j fun k => { k with phase := 3 }).advance ch).closePort.dmaGo s)) := by
  intro cmd t a
  have e : exec cmd s = _ := exec_dmaHoldResponse_chunk hc hx hp hj hk port
  have ht : t.dma[ch.val]? = some c := (openPort_dma ..).trans hc
  refine ⟨fun hb => ⟨_, State.setChunk_frame (Frame.refl _ _ t) _ _ _ (by simp), setChunk_dma ht hx j _, ?_⟩, fun hb => ?_⟩
  · rw [e, if_pos (Option.isSome_iff_ne_none.2 hb)]
  · rw [e, if_neg (mt Option.isSome_iff_ne_none.1 hb)]

/-- A change of the transfer under way as a flush read is answered. -/
theorem flushed (reply : BusReply) (g : DmaXfer → DmaXfer) :
    (s.aerReply (s.chanFn ch) reply).answered ch [.channel ch] (((s.aerReply (s.chanFn ch) reply).npEnd ch).setXfer ch g) ∧
    (((s.aerReply (s.chanFn ch) reply).npEnd ch).setXfer ch g).dma[ch.val]? = some { c with xfer := some (g x) } :=
  ⟨answered_setXfer (npEnd_answered _ ch _) g, setXfer_dma (answer_dma hc reply) hx g⟩

theorem flushReadComplete_half (reply : BusReply) (h : x.half = 1) :
    let cmd := Instr.flushReadComplete ch reply
    let code := replyCode false reply
    ∃ u, (s.aerReply (s.chanFn ch) reply).answered ch [.channel ch] u ∧
      (code = 0 → u.dma[ch.val]? = some { c with xfer := some { x with half := 2 } } ∧ exec cmd s = .next ((u.raise (128 + ch)).dmaGo s)) ∧
      (code ≠ 0 → u.dma[ch.val]? = some { c with xfer := some { x with half := 0 } } ∧
        exec cmd s = .next ((u.chanHalt ch code x.halfFlush false false true).dmaGo s)) := by
  intro cmd code
  have e := exec_flushReadComplete hc hx reply
  rw [if_pos (.inl h), flushEnd_half _ h] at e
  by_cases hz : code = 0
  · rw [if_neg (not_not.2 hz)] at e
    have hu := flushed hc hx reply fun y => { y with half := 2 }
    exact ⟨_, hu.1, fun _ => ⟨hu.2, e⟩, fun k => absurd hz k⟩
  · rw [if_pos hz] at e
    have hu := flushed hc hx reply fun y => { y with half := 0 }
    exact ⟨_, hu.1, fun k => absurd k hz, fun _ => ⟨hu.2, e⟩⟩

theorem flushReadComplete_end (reply : BusReply) (h : x.half ≠ 1) (hp : x.phase = 1) :
    let cmd := Instr.flushReadComplete ch reply
    let code := replyCode false reply
    ∃ u, (s.aerReply (s.chanFn ch) reply).answered ch [.channel ch] u ∧ u.dma[ch.val]? = some { c with xfer := some { x with phase := 0 } } ∧
      (code = 0 → s.chanStopped ch = false → exec cmd s = .next ((u.writeStatus ch x).dmaGo s)) ∧
      (code = 0 → s.chanStopped ch = true → exec cmd s = .next (u.dmaGo s)) ∧
      (code ≠ 0 → exec cmd s = .next ((u.chanHalt ch code x.flush false false true).dmaGo s)) := by
  intro cmd code
  have e := exec_flushReadComplete hc hx reply
  rw [if_pos (.inr hp), flushEnd_end _ h, aerReply_stopped] at e
  have hu := flushed hc hx reply fun y => { y with phase := 0 }
  refine ⟨_, hu.1, hu.2, fun hz hs => ?_, fun hz hs => ?_, fun hz => ?_⟩
  · rw [if_neg (not_not.2 hz), hs, if_neg Bool.false_ne_true] at e
    exact e
  · rw [if_neg (not_not.2 hz), hs, if_pos rfl] at e
    exact e
  · rw [if_pos hz] at e
    exact e

theorem completionTimeout_read {i j : Nat} {k : DmaChunk} (hl : c.lost.countP (!·) = 0) (hg : c.fetching = false) (hi : c.orphans ≤ i)
    (hs : x.srcHold = false) (hj : (x.inPhase 0)[i - c.orphans]? = some j) (hk : x.chunks[j]? = some k) :
    ∃ u, (s.timedOut ch).answered ch [.channel ch] u ∧
      u.dma[ch.val]? = some { c with xfer := some { x with chunks := updAt x.chunks j fun k => { k with phase := 4 } } } ∧
      exec (.completionTimeout ch i false) s = .next ((u.chanHalt ch 0x312 (x.srcAt (x.place k.off k.len)) false false false).dmaGo s) := by
  have e := exec_completionTimeout_read hc hl hg hi hx hs hj hk
  rw [readEnd_bad _ _ _ _ _ (by decide), hs] at e
  exact ⟨_, answered_setXfer (npEnd_answered _ ch _) _, setChunk_dma (late_dma hc) hx j _, e⟩

theorem completionTimeout_half (hl : c.lost.countP (!·) = 0) (hg : c.fetching = false) (ho : c.orphans = 0) (hs : x.srcHold = true) (hh : x.half = 1) :
    ∃ u, (s.timedOut ch).answered ch [.channel ch] u ∧ u.dma[ch.val]? = some { c with xfer := some { x with half := 0 } } ∧
      exec (.completionTimeout ch 0 false) s = .next ((u.chanHalt ch 0x312 x.halfFlush false false true).dmaGo s) := by
  have e := exec_completionTimeout_half hc hl hg ho hx hs hh
  rw [flushEnd_half _ hh, if_pos (by decide)] at e
  exact ⟨_, answered_setXfer (npEnd_answered _ ch _) _, setXfer_dma (late_dma hc) hx _, e⟩

end

end

/-- Settles O41: what a channel waits for decides which of its answers comes, a read of the Hold by the Hold's own verdict. -/
theorem dmaAnswers : Obligations.DmaAnswers := by
  unfold Obligations.DmaAnswers
  intro s ch c hc
  refine ⟨fun reply data port hold rest hl => descriptorFetched_lost hc reply data port hold hl, fun reply data port a hl hf hg => ?_,
    fun reply data port a hl hf hg => descriptorFetched_hold hc reply data port hl hf hg, fun i reply data port hi => ?_,
    fun i reply data port x j k hi hx hj hk => ⟨dmaReadCompletion_host hc hi hx hj hk reply data port,
      dmaReadCompletion_hold hc hi hx hj hk reply data port⟩,
    fun i port x hx => ⟨dmaHoldResponse_status hc hx i port, fun j k hp hj hk => dmaHoldResponse_chunk hc hx port hp hj hk⟩,
    fun reply x hx => ⟨flushReadComplete_half hc hx reply, flushReadComplete_end hc hx reply, fun h1 h2 => ?_⟩,
    exec_completionTimeout_met, fun i hi => ?_, fun a hl hf hg => ?_, fun i hl hg => ⟨fun hi => ?_, ?_, ?_, ?_⟩,
    rateWindow_fold s ch.isLt hc, fun a l b => storeRun_byte s a l b⟩
  · exact ⟨_, _, npEnd_answered _ ch _, fetchEnd_ends (s := s) (answer_dma hc reply) _ _ _, exec_descriptorFetched_host hc hl hf hg reply data port⟩
  · exact ⟨_, answered_setChan (npEnd_answered _ ch _) _, setChan_dma (answer_dma hc reply) _, exec_dmaReadCompletion_orphan hc hi reply data port⟩
  · rw [exec_flushReadComplete hc hx, if_neg (by simp [h1, h2])]
  · exact ⟨_, answered_setChan (npEnd_answered _ ch _) _, setChan_dma (late_dma hc) _, exec_completionTimeout_lost hc hi⟩
  · exact ⟨_, _, npEnd_answered _ ch _, fetchEnd_ends (s := s) (late_dma hc) _ _ _, exec_completionTimeout_fetch hc hl hf hg⟩
  · exact ⟨_, answered_setChan (npEnd_answered _ ch _) _, setChan_dma (late_dma hc) _, exec_completionTimeout_orphan hc hl hg hi⟩
  · exact fun x j k hi hx hs hj hk => completionTimeout_read hc hx hl hg hi hs hj hk
  · rintro x rfl ho hx hs hh
    exact completionTimeout_half hc hx hl hg ho hs hh
  · exact fun n y read hx hi hr => exec_completionTimeout_ledger hc hl hg hi hx hr

end Sys2Proof.Machine
end

section
/-! Rows of the wear ledger (R118 to R125). -/

open Sys2Proof Sys2Proof.Machine

namespace Sys2Proof.Machine

/-! The stage's state. -/

section
variable {s : State} {n : Nat} {o : OutState} (ho : s.outs[n]? = some o)
include ho

theorem setWear_outs (g : WearState → WearState) : (s.setWear n g).outs[n]? = some { o with wear := g o.wear } := by
  unfold State.setWear
  rw [State.setOut_outs]
  simp [updAt, ho]

theorem dropReads_outs (sel : LedgerRead → Bool) :
    (s.dropReads n sel).outs[n]? = some { o with wear := { o.wear with reading := o.wear.reading.filter fun r => !sel r } } := by
  unfold State.dropReads
  exact setWear_outs (s := s.setChan _ _) ho _

theorem oweRow_outs (y : Nat) : (s.oweRow n y).outs[n]? = some { o with wear := { o.wear with
    owed := if y ∈ o.wear.owed then o.wear.owed else keyInsert o.wear.owed y } } := by
  unfold State.oweRow
  rw [wearOf_of ho]
  by_cases h : y ∈ o.wear.owed
  · rw [if_pos (by simpa using h), if_pos h]
    exact ho
  · rw [if_neg (by simpa using h), if_neg h]
    exact setWear_outs ho _

/-- A row owed twice counts as lost. -/
theorem oweRow_lost (y : Nat) : (s.oweRow n y).get (F.wearLedgerLostCount n) = if y ∈ o.wear.owed
    then min (fieldMax (F.wearLedgerLostCount n)) (s.get (F.wearLedgerLostCount n) + 1) else s.get (F.wearLedgerLostCount n) := by
  unfold State.oweRow
  rw [wearOf_of ho]
  by_cases h : y ∈ o.wear.owed
  · rw [if_pos (by simpa using h), if_pos h]
    exact count_get _ _ _ (.ofBits rfl)
  · rw [if_neg (by simpa using h), if_neg h, State.setWear_get]

end

/-- The landed fields are those of the active set. -/
theorem act_of_active {s t : State} (h : t.active = s.active) (f : Field) : t.act f = s.act f := by
  unfold State.act State.actReg
  rw [h]

theorem dropReads_frame {T : List Field} {P : List Part} {s t : State} (h : Frame T P s t) (n : Nat) (sel : LedgerRead → Bool)
    (m1 : .channel (t.wearCh n) ∈ P) (m2 : .output n ∈ P) : Frame T P s (t.dropReads n sel) := by
  unfold State.dropReads
  exact State.setWear_frame (State.setChan_frame h _ _ m1) _ _ m2

theorem dropReads_get (s : State) (n : Nat) (sel : LedgerRead → Bool) (f : Field) : (s.dropReads n sel).get f = s.get f := by
  unfold State.dropReads
  dsimp only
  rw [State.setWear_get, State.setChan_get]

theorem oweRow_frame {T : List Field} {P : List Part} {s t : State} (h : Frame T P s t) (n y : Nat) (m1 : F.wearLedgerLostCount n ∈ T)
    (m2 : .output n ∈ P) : Frame T P s (t.oweRow n y) := by
  unfold State.oweRow
  split
  · exact h.count m1
  · exact State.setWear_frame h _ _ m2

theorem oweRow_get_other (s : State) (n y : Nat) {f : Field} (h : Apart (F.wearLedgerLostCount n) f) (hf : InWord f) : (s.oweRow n y).get f = s.get f :=
  (oweRow_frame (T := [F.wearLedgerLostCount n]) (P := [.output n]) (Frame.refl _ _ s) n y (by simp) (by simp)).get hf (by simpa using h)

/-! Rows that are not sampled. -/

/-- Whether a read is that of a row for a frame. -/
def rowRead (row : Nat) (r : LedgerRead) : Bool := r.row == row && !r.gen

/-- A stage whose row is not sampled: its read and its bytes given up, the row owed. -/
def WearState.passed (w : WearState) (row : Nat) : WearState :=
  { w with
    reading := w.reading.filter (fun r => !rowRead row r), rowsLeft := w.rowsLeft.filter (· != row), wanted := w.wanted.filter (· != row),
    begun := w.begun.filter (· != row), ready := w.ready.filter (·.1 != row), owed := if row ∈ w.owed then w.owed else keyInsert w.owed row }

/-- A row that goes by without a sample is owed, or lost when it was owed before. -/
def State.owes (s : State) (n row : Nat) (o : OutState) (u : State) : Prop :=
  u.get (F.wearLedgerLostCount n) = (if row ∈ o.wear.owed then min (fieldMax (F.wearLedgerLostCount n)) (s.get (F.wearLedgerLostCount n) + 1)
    else s.get (F.wearLedgerLostCount n)) ∧
  u.outs[n]? = some { o with wear := o.wear.passed row }

section
variable {s : State} {n row : Nat} {o : OutState} (ho : s.outs[n]? = some o)

theorem stallRow_frame (s : State) (n row : Nat) :
    Frame [F.wearLedgerLostCount n] [.output n, .channel (s.wearCh n)] s (s.stallRow n row) :=
  oweRow_frame (State.setWear_frame (dropReads_frame (Frame.refl _ _ s) n _ (by simp) (by simp)) _ _ (by simp)) n row (by simp) (by simp)

theorem stallRow_owes (ho : s.outs[n]? = some o) : s.owes n row o (s.stallRow n row) := by
  unfold State.stallRow
  have h := setWear_outs (dropReads_outs ho (rowRead row)) fun w => { w with
    ready := w.ready.filter (·.1 != row), rowsLeft := w.rowsLeft.filter (· != row), wanted := w.wanted.filter (· != row),
    begun := w.begun.filter (· != row) }
  refine ⟨(oweRow_lost h row).trans ?_, oweRow_outs h row⟩
  rw [State.setWear_get, dropReads_get]

/-- A row skipped, before its event. -/
def State.skipped (s : State) (n row : Nat) : State :=
  (((s.count (F.wearLedgerSkipsCount n) 1).dropReads n (rowRead row)).setWear n fun w => { w with
    rowsLeft := w.rowsLeft.filter (· != row), wanted := w.wanted.filter (· != row), begun := w.begun.filter (· != row) }).oweRow n row

theorem skipRow_eq (s : State) (n row : Nat) : s.skipRow n row = (s.skipped n row).raise (evOut n 29) := rfl

theorem skipped_frame (s : State) (n row : Nat) :
    Frame [F.wearLedgerSkipsCount n, F.wearLedgerLostCount n] [.output n, .channel (s.wearCh n)] s (s.skipped n row) := by
  refine oweRow_frame (State.setWear_frame (dropReads_frame ((Frame.refl _ _ s).count (by simp)) n _ ?_ (by simp)) _ _ (by simp)) n row (by simp) (by simp)
  have h : (s.count (F.wearLedgerSkipsCount n) 1).wearCh n = s.wearCh n := act_of_active rfl _
  simp [h]

theorem skipped_count (s : State) (n row : Nat) : (s.skipped n row).get (F.wearLedgerSkipsCount n) =
    min (fieldMax (F.wearLedgerSkipsCount n)) (s.get (F.wearLedgerSkipsCount n) + 1) := by
  unfold State.skipped
  rw [oweRow_get_other _ _ _ (.ofBases rfl rfl rfl) (.ofBits rfl), State.setWear_get, dropReads_get]
  exact count_get _ _ _ (.ofBits rfl)

theorem skipped_owes (ho : s.outs[n]? = some o) (hr : o.wear.ready.find? (·.1 == row) = none) : s.owes n row o (s.skipped n row) := by
  unfold State.skipped
  have h := setWear_outs (dropReads_outs (s := s.count (F.wearLedgerSkipsCount n) 1) ho (rowRead row)) fun w => { w with
    rowsLeft := w.rowsLeft.filter (· != row), wanted := w.wanted.filter (· != row), begun := w.begun.filter (· != row) }
  have hk : o.wear.ready.filter (·.1 != row) = o.wear.ready := List.filter_eq_self.2 fun p hp => by
    simpa using List.find?_eq_none.1 hr p hp
  refine ⟨(oweRow_lost h row).trans ?_, (oweRow_outs h row).trans ?_⟩
  · rw [State.setWear_get, dropReads_get, count_get_other _ _ (.ofBases rfl rfl rfl) (.ofBits rfl)]
  · unfold WearState.passed
    rw [hk]

end

/-! Rows that are sampled. -/

theorem foldl_toHost_out {α : Type} (g : α → Out) (l : List α) (s : State) :
    (l.foldl (fun t p => t.toHost (g p)) s).out = (l.map g).reverse ++ s.out := by
  induction l generalizing s with
  | nil => rfl
  | cons x l ih =>
    rw [List.foldl_cons, ih, List.map_cons, List.reverse_cons, List.append_assoc]
    rfl

theorem hostWrites_out (s : State) (f a : Nat) (l : List Byte) : (s.hostWrites f a l).out =
    ((linkPieces (s.writeMost f) l.length a l.length).map fun p => Out.hostWrite f p.1 ((l.drop (p.1 - a)).take p.2)).reverse ++ s.out :=
  foldl_toHost_out (fun p : Nat × Nat => Out.hostWrite f p.1 ((l.drop (p.1 - a)).take p.2)) _ s

theorem hostWrites_frame {T : List Field} {P : List Part} {s t : State} (h : Frame T P s t) (f a : Nat) (l : List Byte) (m1 : .out ∈ P) (m2 : .host ∈ P) :
    Frame T P s (t.hostWrites f a l) :=
  foldl_inv (fun u : State => Frame T P s u) _ _ _ h fun _ _ _ hu => toHost_frame hu _ m1 m2

theorem hostWrites_outs (s : State) (f a : Nat) (l : List Byte) : (s.hostWrites f a l).outs = s.outs :=
  foldl_inv (fun u : State => u.outs = s.outs) _ _ _ rfl fun _ _ _ hu => hu

theorem sendLtr_host (s : State) (k : Nat) : (s.sendLtr k).host = s.host := by unfold State.sendLtr; split <;> rfl

theorem writeMost_of {s t : State} (hh : t.host = s.host) (f : Nat) : t.writeMost f = s.writeMost f := by
  unfold State.writeMost State.fnCfg
  rw [hh]

/-- The stage once a row is sampled. -/
def WearState.sampled (w : WearState) (row : Nat) : WearState :=
  { w with
    owed := w.owed.filter (· != row), ready := w.ready.filter (·.1 != row), rowsLeft := w.rowsLeft.filter (· != row),
    begun := w.begun.filter (· != row) }

/-- The saturations of a sampled row counted, the row no longer awaited. -/
def State.sampleNoted (s : State) (n row sats : Nat) : State := (s.count (F.wearLedgerSatsCount n) sats).setWear n (·.sampled row)

/-- A sampled row whose write-back is to come. -/
def State.sampleQueued (s : State) (n row sats : Nat) : State :=
  (s.sampleNoted n row sats).setWear n fun w => { w with writing := w.writing ++ [(row, false)] }

/-- A sampled row written back. -/
def State.sampleWritten (s : State) (n row sats f a : Nat) (l : List Byte) : State :=
  ((s.sampleQueued n row sats).sendLtr 20000).hostWrites f a l

section
variable (s : State) (n row sats : Nat)

theorem sampleNoted_frame : Frame [F.wearLedgerSatsCount n] [.output n] s (s.sampleNoted n row sats) :=
  State.setWear_frame ((Frame.refl _ _ s).count (by simp)) _ _ (by simp)

theorem sampleQueued_frame : Frame [F.wearLedgerSatsCount n] [.output n] s (s.sampleQueued n row sats) :=
  State.setWear_frame (sampleNoted_frame s n row sats) _ _ (by simp)

theorem sampleQueued_count : (s.sampleQueued n row sats).get (F.wearLedgerSatsCount n) =
    min (fieldMax (F.wearLedgerSatsCount n)) (s.get (F.wearLedgerSatsCount n) + sats) := by
  unfold State.sampleQueued State.sampleNoted
  rw [State.setWear_get, State.setWear_get]
  exact count_get _ _ _ (.ofBits rfl)

theorem sampleQueued_host : (s.sampleQueued n row sats).host = s.host := rfl

theorem sampleQueued_out : (s.sampleQueued n row sats).out = s.out := rfl

theorem sampleQueued_outs {o : OutState} (ho : s.outs[n]? = some o) : (s.sampleQueued n row sats).outs[n]? = some { o with
    wear := { o.wear.sampled row with writing := o.wear.writing ++ [(row, false)] } } := by
  have h : (s.count (F.wearLedgerSatsCount n) sats).outs[n]? = some o := ho
  exact setWear_outs (setWear_outs h _) _

variable (f a : Nat) (l : List Byte)

theorem sampleWritten_frame : Frame [F.wearLedgerSatsCount n] [.output n, .host, .out] s (s.sampleWritten n row sats f a l) :=
  hostWrites_frame (sendLtr_frame ((sampleQueued_frame s n row sats).mono (by simp) (by simp)) _ (by simp)) _ _ _ (by simp) (by simp)

theorem sampleWritten_count : (s.sampleWritten n row sats f a l).get (F.wearLedgerSatsCount n) =
    min (fieldMax (F.wearLedgerSatsCount n)) (s.get (F.wearLedgerSatsCount n) + sats) := by
  have h : Frame [] [.host, .out] (s.sampleQueued n row sats) (s.sampleWritten n row sats f a l) :=
    hostWrites_frame (sendLtr_frame (Frame.refl _ _ _) _ (by simp)) _ _ _ (by simp) (by simp)
  exact (h.get (.ofBits rfl) (by simp)).trans (sampleQueued_count s n row sats)

theorem sampleWritten_out : (s.sampleWritten n row sats f a l).out =
    ((linkPieces (s.writeMost f) l.length a l.length).map fun p => Out.hostWrite f p.1 ((l.drop (p.1 - a)).take p.2)).reverse ++
      (s.sendLtr 20000).out := by
  have h := writeMost_of ((sendLtr_host _ 20000).trans (sampleQueued_host s n row sats)) f
  unfold State.sampleWritten
  rw [hostWrites_out, h, sendLtr_out_of (sampleQueued_host s n row sats) (sampleQueued_out s n row sats)]

theorem sampleWritten_outs {o : OutState} (ho : s.outs[n]? = some o) : (s.sampleWritten n row sats f a l).outs[n]? = some { o with
    wear := { o.wear.sampled row with writing := o.wear.writing ++ [(row, false)] } } := by
  unfold State.sampleWritten
  rw [hostWrites_outs, sendLtr_outs, sampleQueued_outs s n row sats ho]

end

theorem wearCh_lt (s : State) (n : Nat) : s.wearCh n < 32 := Nat.mod_lt _ (Nat.two_pow_pos 5)

/-- A row whose channel may write it is written back at once. -/
theorem sampleRow_issues {s : State} {n row : Nat} {o : OutState} (ho : s.outs[n]? = some o) (old : List Byte) :
    let r := s.ledgerAdd n old (o.pix.drive.getD row (zeroRow 0)) (o.wear.owed.contains row)
    State.Issues s (s.wearCh n) (s.ledgerRow n row) r.1.length →
    s.sampleRow n row old = s.sampleWritten n row r.2 (s.chanFn (s.wearCh n)) (s.ledgerRow n row) r.1 := by
  intro r hi
  have low (m : Nat) (h : m < 0x4000000) : (F.wearLedgerSatsCount n).addr ≠ m := by
    simp [F.wearLedgerSatsCount, R.wearLedgerSats]
    omega
  have hw := wearCh_lt s n
  have hq := sampleNoted_frame s n row r.2
  have hi' := (Issues_of hq (by simp) (fun f hf => by
    obtain rfl : f = F.wearLedgerSatsCount n := by simpa using hf
    refine ⟨low _ ?_, low _ ?_, low _ ?_, low _ ?_, low _ ?_, low _ ?_, low _ ?_⟩ <;>
      simp only [R.mstFreezeCause, R.dmaStatus, R.dmaWinBaseLo, R.dmaWinBaseHi, R.dmaWinLimitLo, R.dmaWinLimitHi, R.dmaFunc] <;> omega) hi).1
  have hs := chanStopped_of (sampleWritten_frame s n row r.2 (s.chanFn (s.wearCh n)) (s.ledgerRow n row) r.1) (s.wearCh n)
    (fun f hf => by
      obtain rfl : f = F.wearLedgerSatsCount n := by simpa using hf
      exact .inl (low _ (by simp only [F.mstFreezeCauseFrozen, R.mstFreezeCause]; omega)))
    (fun f hf => by
      obtain rfl : f = F.wearLedgerSatsCount n := by simpa using hf
      exact .inl (low _ (by simp only [F.dmaStatusState, R.dmaStatus]; omega)))
  unfold State.sampleRow
  rw [wearOf_of ho, outp_of ho]
  exact stageRequest_issues hi' (hs.trans hi.2.1)

section
variable {s : State} {n : Fin 4} {o : OutState} (ho : s.outs[n.val]? = some o) {row : Nat}
include ho

theorem exec_wearRowStart (met : Bool) (hr : row ∈ o.wear.rowsLeft) (hd : row < o.pix.drive.length) : exec (.wearRowStart n row met) s =
    if 6 ≤ o.stall then .next ((s.stallRow n row).showLedger n)
    else match o.wear.ready.find? (·.1 == row) with
      | some p => .next (((s.sampleRow n row p.2).ledgerRun 4096 n).showLedger n)
      | none =>
        if met && o.wear.reading.any (rowRead row) then .next (s.setWear n fun w => { w with begun := keyInsert w.begun row })
        else .next ((s.skipRow n row).showLedger n) := by
  show execWearRowStart n row met s = _
  unfold execWearRowStart
  dsimp only
  rw [wearOf_of ho, outp_of ho, if_neg (by simpa using ⟨hr, hd⟩)]
  rfl

end

/-! Answers. -/

/-- The channel of a stage is that of its active set. -/
theorem wearCh_of {T : List Field} {P : List Part} {s t : State} (h : Frame T P s t) (hP : .active ∉ P) (n : Nat) : t.wearCh n = s.wearCh n :=
  act_of_active (h.rest .active hP) _

theorem answered_setWear {s t : State} {ch n : Nat} (h : s.answered ch [.output n] t) (g : WearState → WearState) :
    s.answered ch [.output n] (t.setWear n g) := by
  obtain ⟨h1, h2, h3⟩ := h
  refine ⟨State.setWear_frame h1 _ _ (by simp), ?_, ?_⟩
  · rw [State.setWear_get]
    exact h2
  · rw [State.setWear_get]
    exact h3

theorem npEnd_wear (s : State) (n : Nat) (P : List Part) : s.answered (s.wearCh n) P (s.npEnd (s.wearCh n)) :=
  npEnd_answered s ⟨s.wearCh n, wearCh_lt s n⟩ P

theorem npEnd_outs (s : State) (ch : Nat) : (s.npEnd ch).outs = s.outs := by
  unfold State.npEnd
  simp

theorem replyCode_ok {reply : BusReply} (h : replyCode false reply = 0) : reply = .ok := by
  cases reply <;> first | rfl | cases h

theorem aerReply_ok (s : State) (f : Nat) : s.aerReply f .ok = s := rfl

/-- The reads of a row, for a frame or for the generator. -/
def readOf (row : Nat) (gen : Bool) (q : LedgerRead) : Bool := q.row == row && q.gen == gen

theorem readOf_iff (row : Nat) (gen : Bool) (q : LedgerRead) : readOf row gen q = true ↔ q.row = row ∧ q.gen = gen := by simp [readOf]

/-- A read once a request of it is answered. -/
def LedgerRead.took (q : LedgerRead) (row : Nat) (gen : Bool) (data : List Byte) : LedgerRead :=
  if q.row = row ∧ q.gen = gen then { q with out := q.out - 1, got := q.got ++ data } else q

theorem took_row (q : LedgerRead) (row : Nat) (gen : Bool) (data : List Byte) (row' : Nat) (gen' : Bool) :
    readOf row' gen' (q.took row gen data) = readOf row' gen' q := by
  unfold LedgerRead.took
  split <;> rfl

/-- The other reads are as they were. -/
theorem filter_took (l : List LedgerRead) (row : Nat) (gen : Bool) (data : List Byte) :
    (l.map (·.took row gen data)).filter (fun q => !readOf row gen q) = l.filter fun q => !readOf row gen q := by
  induction l with
  | nil => rfl
  | cons q l ih =>
    rw [List.map_cons, List.filter_cons, took_row, List.filter_cons, ih]
    split
    next h =>
      have : ¬ (q.row = row ∧ q.gen = gen) := fun hq => by simp [(readOf_iff row gen q).2 hq] at h
      rw [LedgerRead.took, if_neg this]
    next => rfl

theorem rowAnswered_outs {s : State} {n : Nat} {o : OutState} (ho : s.outs[n]? = some o) (row : Nat) (gen : Bool) (data : List Byte) :
    (s.rowAnswered n row gen data).outs[n]? = some { o with wear := { o.wear with reading := o.wear.reading.map (·.took row gen data) } } :=
  setWear_outs ho _

/-- A row of a frame that is there: kept while the frame still awaits it. -/
def State.rowReady (s : State) (n row : Nat) (l : List Byte) : State :=
  let t := s.setWear n fun w => { w with reading := w.reading.filter fun r => !readOf row false r }
  if (s.wearOf n).rowsLeft.contains row then t.setWear n fun w => { w with ready := w.ready ++ [(row, l)] } else t

/-- A row of the generator that is there. -/
def State.rowGen (s : State) (n row : Nat) (l : List Byte) : State :=
  (s.setWear n fun w => { w with reading := w.reading.filter fun r => !readOf row true r }).setWear n fun w =>
    { w with genRows := w.genRows.filter (·.1 != row) ++ [(row, l)] }

theorem rowCame_frame (s : State) (n row : Nat) (l : List Byte) : s.rowCame n row false l =
    if (s.wearOf n).begun.contains row then (s.rowReady n row l).sampleRow n row l else s.rowReady n row l := rfl

theorem rowCame_gen (s : State) (n row : Nat) (l : List Byte) : s.rowCame n row true l = (s.rowGen n row l).genReady n := rfl

theorem rowReady_outs {s : State} {n : Nat} {o : OutState} (ho : s.outs[n]? = some o) (row : Nat) (l : List Byte) :
    (s.rowReady n row l).outs[n]? = some { o with wear := { o.wear with
      reading := o.wear.reading.filter (fun q => !readOf row false q),
      ready := if row ∈ o.wear.rowsLeft then o.wear.ready ++ [(row, l)] else o.wear.ready } } := by
  have h := setWear_outs ho fun w => { w with reading := w.reading.filter fun r => !readOf row false r }
  unfold State.rowReady
  rw [wearOf_of ho]
  by_cases hm : row ∈ o.wear.rowsLeft
  · rw [if_pos hm, if_pos (by simpa using hm)]
    exact setWear_outs h _
  · rw [if_neg hm, if_neg (by simpa using hm)]
    exact h

theorem rowGen_outs {s : State} {n : Nat} {o : OutState} (ho : s.outs[n]? = some o) (row : Nat) (l : List Byte) :
    (s.rowGen n row l).outs[n]? = some { o with wear := { o.wear with
      reading := o.wear.reading.filter (fun q => !readOf row true q), genRows := o.wear.genRows.filter (·.1 != row) ++ [(row, l)] } } :=
  setWear_outs (setWear_outs ho _) _

theorem answered_rowReady {s t : State} {ch n : Nat} (h : s.answered ch [.output n] t) (row : Nat) (l : List Byte) :
    s.answered ch [.output n] (t.rowReady n row l) := by
  unfold State.rowReady
  dsimp only
  split
  · exact answered_setWear (answered_setWear h _) _
  · exact answered_setWear h _

/-- The bytes that the oldest request in flight of a row's read asked for. -/
def State.ledgerAsked (s : State) (n row : Nat) (r : LedgerRead) : Nat :=
  ((linkPieces (s.readMost (s.chanFn (s.wearCh n))) (s.ledgerBytes n) (s.ledgerRow n row + r.got.length)
    (s.ledgerBytes n - r.got.length)).headD (s.ledgerRow n row + r.got.length, 0)).2

/-- The code of an answer to a row's read. -/
def State.ledgerCode (s : State) (n row : Nat) (r : LedgerRead) (data : List Byte) (reply : BusReply) : Nat :=
  if replyCode false reply = 0 ∧ data.length ≠ s.ledgerAsked n row r then 0x310 else replyCode false reply

/-- The answer of the oldest request of a row's read, logged and taken. -/
def State.rowTaken (s : State) (n row : Nat) (gen : Bool) (data : List Byte) (reply : BusReply) : State :=
  ((s.npEnd (s.wearCh n)).aerReply (s.chanFn (s.wearCh n)) reply).rowAnswered n row gen data

section
variable {s : State} {n : Fin 4} {o : OutState} (ho : s.outs[n.val]? = some o) {row : Nat} {gen : Bool}
include ho

theorem answer_outs (reply : BusReply) : ((s.npEnd (s.wearCh n)).aerReply (s.chanFn (s.wearCh n)) reply).outs[n.val]? = some o := by
  rw [(aerReply_frame _ _ reply).rest (.output n) (by simp), npEnd_outs, ho]

theorem rowTaken_outs (data : List Byte) (reply : BusReply) : (s.rowTaken n row gen data reply).outs[n.val]? = some { o with
    wear := { o.wear with reading := o.wear.reading.map (·.took row gen data) } } := rowAnswered_outs (answer_outs ho reply) row gen data

section
variable {r : LedgerRead} (hr : o.wear.reading.find? (readOf row gen) = some r) (hp : 0 < r.out) (data : List Byte) (reply : BusReply)
include hr hp

theorem exec_wearLedgerReadDone : exec (.wearLedgerReadDone n row gen data reply) s =
    let code := s.ledgerCode n row r data reply
    let s1 := s.rowTaken n row gen data reply
    let s2 :=
      if code ≠ 0 then (s1.dropReads n (readOf row gen)).ledgerError n (s.ledgerRow n row + r.got.length) code false
      else if (r.got ++ data).length < s.ledgerBytes n then (if !gen && o.wear.begun.contains row then s1.skipRow n row else s1)
      else s1.rowCame n row gen (r.got ++ data)
    .next ((s2.showLedger n).dmaGo s) := by
  have hr' : (o.wear.reading.find? fun r => r.row == row && r.gen == gen) = some r := hr
  show execWearLedgerReadDone n row gen data reply s = _
  unfold execWearLedgerReadDone
  rw [wearOf_of ho, hr']
  dsimp only
  rw [if_neg (Nat.pos_iff_ne_zero.1 hp)]
  rfl

theorem wearLedgerReadDone_bad (hc : s.ledgerCode n row r data reply ≠ 0) :
    ∃ v u, s.answered (s.wearCh n) [] v ∧ Frame [] [.output n, .channel (s.wearCh n)] (v.aerReply (s.chanFn (s.wearCh n)) reply) u ∧
      u.outs[n.val]? = some { o with wear := { o.wear with reading := o.wear.reading.filter fun q => !readOf row gen q } } ∧
      exec (.wearLedgerReadDone n row gen data reply) s =
        .next (((u.ledgerError n (s.ledgerRow n row + r.got.length) (s.ledgerCode n row r data reply) false).showLedger n).dmaGo s) := by
  have e := exec_wearLedgerReadDone ho hr hp data reply
  dsimp only at e
  rw [if_pos hc] at e
  have hd := dropReads_outs (rowTaken_outs ho (row := row) (gen := gen) data reply) (readOf row gen)
  have hf : Frame [] [.output n.val, .channel (s.wearCh n)] ((s.npEnd (s.wearCh n)).aerReply (s.chanFn (s.wearCh n)) reply)
      (s.rowTaken n row gen data reply) := by
    unfold State.rowTaken State.rowAnswered
    exact State.setWear_frame (Frame.refl _ _ _) _ _ (by simp)
  have hw : (s.rowTaken n row gen data reply).wearCh n = s.wearCh n :=
    (wearCh_of hf (by simp) n).trans ((wearCh_of (aerReply_frame _ _ reply) (by simp) n).trans (wearCh_of (npEnd_wear s n []).1 List.not_mem_nil n))
  have hm : Part.channel ((s.rowTaken n row gen data reply).wearCh n) ∈ [Part.output n.val, .channel (s.wearCh n)] := by
    rw [hw]
    simp
  refine ⟨_, _, npEnd_wear s n [], dropReads_frame hf n _ hm (by simp), hd.trans ?_, e⟩
  rw [filter_took]

section
variable (hk : replyCode false reply = 0) (hl : data.length = s.ledgerAsked n row r)
include hk hl

omit ho hr hp in
theorem ledgerCode_zero : s.ledgerCode n row r data reply = 0 := by
  unfold State.ledgerCode
  rw [if_neg (by simp [hl]), hk]

omit ho hr hp hk hl in
/-- An answer with an error, or of another length than asked. -/
theorem ledgerCode_bad {data : List Byte} {reply : BusReply} (hx : replyCode false reply ≠ 0 ∨ data.length ≠ s.ledgerAsked n row r) :
    s.ledgerCode n row r data reply = (if replyCode false reply = 0 then 0x310 else replyCode false reply) ∧ s.ledgerCode n row r data reply ≠ 0 := by
  unfold State.ledgerCode
  by_cases h : replyCode false reply = 0
  · rw [if_pos ⟨h, hx.resolve_left (not_not.2 h)⟩, if_pos h]
    exact ⟨rfl, by decide⟩
  · rw [if_neg fun k => h k.1, if_neg h]
    exact ⟨rfl, h⟩

omit ho hr hp hl in
theorem rowTaken_answered : s.answered (s.wearCh n) [.output n] (s.rowTaken n row gen data reply) := by
  rw [replyCode_ok hk]
  unfold State.rowTaken State.rowAnswered
  rw [aerReply_ok]
  exact answered_setWear (npEnd_wear s n _) _

theorem wearLedgerReadDone_part (hs : (r.got ++ data).length < s.ledgerBytes n) : exec (.wearLedgerReadDone n row gen data reply) s =
    .next (((if gen = false ∧ row ∈ o.wear.begun then (s.rowTaken n row gen data reply).skipRow n row
      else s.rowTaken n row gen data reply).showLedger n).dmaGo s) := by
  rw [exec_wearLedgerReadDone ho hr hp, ledgerCode_zero data reply hk hl]
  dsimp only
  rw [if_neg (not_not.2 rfl), if_pos hs]
  congr 3
  exact if_congr (by cases gen <;> simp) rfl rfl

theorem exec_wearLedgerReadDone_whole (hs : s.ledgerBytes n ≤ (r.got ++ data).length) : exec (.wearLedgerReadDone n row gen data reply) s =
    .next ((((s.rowTaken n row gen data reply).rowCame n row gen (r.got ++ data)).showLedger n).dmaGo s) := by
  rw [exec_wearLedgerReadDone ho hr hp, ledgerCode_zero data reply hk hl]
  dsimp only
  rw [if_neg (not_not.2 rfl), if_neg (Nat.not_lt.2 hs)]

end

end

section
variable {r : LedgerRead} (data : List Byte) (reply : BusReply) (hp : 0 < r.out) (hk : replyCode false reply = 0)
  (hl : data.length = s.ledgerAsked n row r) (hs : s.ledgerBytes n ≤ (r.got ++ data).length)
include hp hk hl hs

/-- The last bytes of a frame's row: sampled now where the row has begun in this clock. -/
theorem wearLedgerReadDone_row (hr : o.wear.reading.find? (readOf row false) = some r) :
    ∃ u, s.answered (s.wearCh n) [.output n] u ∧
      u.outs[n.val]? = some { o with wear := { o.wear with
        reading := o.wear.reading.filter (fun q => !readOf row false q),
        ready := if row ∈ o.wear.rowsLeft then o.wear.ready ++ [(row, r.got ++ data)] else o.wear.ready } } ∧
      exec (.wearLedgerReadDone n row false data reply) s =
        .next (((if row ∈ o.wear.begun then u.sampleRow n row (r.got ++ data) else u).showLedger n).dmaGo s) := by
  have ht := rowTaken_outs ho (row := row) (gen := false) data reply
  have e := exec_wearLedgerReadDone_whole ho hr hp data reply hk hl hs
  refine ⟨_, answered_rowReady (rowTaken_answered data reply hk) row (r.got ++ data), (rowReady_outs ht row _).trans ?_, e.trans ?_⟩
  · rw [filter_took]
  · rw [rowCame_frame, wearOf_of ht]
    congr 3
    exact if_congr (by simp) rfl rfl

/-- The last bytes of a row of the generator. -/
theorem wearLedgerReadDone_gen (hr : o.wear.reading.find? (readOf row true) = some r) :
    ∃ u, s.answered (s.wearCh n) [.output n] u ∧
      u.outs[n.val]? = some { o with wear := { o.wear with
        reading := o.wear.reading.filter (fun q => !readOf row true q),
        genRows := o.wear.genRows.filter (·.1 != row) ++ [(row, r.got ++ data)] } } ∧
      exec (.wearLedgerReadDone n row true data reply) s = .next (((u.genReady n).showLedger n).dmaGo s) := by
  have ht := rowTaken_outs ho (row := row) (gen := true) data reply
  have e := exec_wearLedgerReadDone_whole ho hr hp data reply hk hl hs
  rw [rowCame_gen] at e
  refine ⟨_, answered_setWear (answered_setWear (rowTaken_answered data reply hk) _) _, (rowGen_outs ht row _).trans ?_, e⟩
  rw [filter_took]

end

/-! The cases of the obligation. -/

theorem exec_wearLedgerReadDone_none {data : List Byte} {reply : BusReply}
    (h : ∀ r, o.wear.reading.find? (readOf row gen) = some r → r.out = 0) : exec (.wearLedgerReadDone n row gen data reply) s = .next s := by
  show execWearLedgerReadDone n row gen data reply s = _
  unfold execWearLedgerReadDone
  rw [wearOf_of ho]
  split
  next => rfl
  next r hr => exact if_pos (h r hr)

section
variable (reply : BusReply)

/-- The stage once the flush read of a row's write is answered. -/
def State.rowWritten (s : State) (n row : Nat) (reply : BusReply) : State :=
  ((s.npEnd (s.wearCh n)).aerReply (s.chanFn (s.wearCh n)) reply).setWear n fun w => { w with writing := w.writing.erase (row, true) }

theorem rowWritten_outs : (s.rowWritten n row reply).outs[n.val]? = some { o with
    wear := { o.wear with writing := o.wear.writing.erase (row, true) } } := setWear_outs (answer_outs ho reply) _

omit ho in
theorem rowWritten_answered (hk : replyCode false reply = 0) : s.answered (s.wearCh n) [.output n] (s.rowWritten n row reply) := by
  rw [replyCode_ok hk]
  unfold State.rowWritten
  rw [aerReply_ok]
  exact answered_setWear (npEnd_wear s n _) _

theorem exec_wearLedgerWriteDone_none (h : (row, true) ∉ o.wear.writing) : exec (.wearLedgerWriteDone n row reply) s = .next s := by
  show execWearLedgerWriteDone n row reply s = _
  unfold execWearLedgerWriteDone
  rw [wearOf_of ho, if_pos (by simpa using h)]

theorem exec_wearLedgerWriteDone (h : (row, true) ∈ o.wear.writing) : exec (.wearLedgerWriteDone n row reply) s =
    let t := s.rowWritten n row reply
    let u :=
      if replyCode false reply ≠ 0 then t.ledgerError n ((s.ledgerRow n row + s.ledgerBytes n - 1) / 4 * 4) (replyCode false reply) true
      else if o.wear.wanted.contains row then (t.setWear n fun w => { w with wanted := w.wanted.filter (· != row) }).askLedger n row else t
    .next ((u.showLedger n).dmaGo s) := by
  show execWearLedgerWriteDone n row reply s = _
  unfold execWearLedgerWriteDone
  rw [wearOf_of ho, if_neg (by simpa using h)]
  rfl

theorem wearLedgerWriteDone_bad (h : (row, true) ∈ o.wear.writing) (hk : replyCode false reply ≠ 0) :
    ∃ v u, s.answered (s.wearCh n) [] v ∧ Frame [] [.output n] (v.aerReply (s.chanFn (s.wearCh n)) reply) u ∧
      u.outs[n.val]? = some { o with wear := { o.wear with writing := o.wear.writing.erase (row, true) } } ∧
      exec (.wearLedgerWriteDone n row reply) s =
        .next (((u.ledgerError n ((s.ledgerRow n row + s.ledgerBytes n - 1) / 4 * 4) (replyCode false reply) true).showLedger n).dmaGo s) := by
  have e := exec_wearLedgerWriteDone ho reply h
  dsimp only at e
  rw [if_pos hk] at e
  exact ⟨_, _, npEnd_wear s n [], State.setWear_frame (Frame.refl _ _ _) n _ (by simp), rowWritten_outs ho reply, e⟩

theorem wearLedgerWriteDone_good (h : (row, true) ∈ o.wear.writing) (hk : replyCode false reply = 0) (hw : row ∉ o.wear.wanted) :
    ∃ u, exec (.wearLedgerWriteDone n row reply) s = .next ((u.showLedger n).dmaGo s) ∧ s.answered (s.wearCh n) [.output n] u ∧
      u.outs[n.val]? = some { o with wear := { o.wear with writing := o.wear.writing.erase (row, true) } } := by
  have e := exec_wearLedgerWriteDone ho reply h
  dsimp only at e
  rw [if_neg (not_not.2 hk), if_neg (by simpa using hw)] at e
  exact ⟨_, e, rowWritten_answered reply hk, rowWritten_outs ho reply⟩

/-- A reread that waited for the write goes out. -/
theorem wearLedgerWriteDone_asks (h : (row, true) ∈ o.wear.writing) (hk : replyCode false reply = 0) (hw : row ∈ o.wear.wanted) :
    ∃ u, exec (.wearLedgerWriteDone n row reply) s = .next (((u.askLedger n row).showLedger n).dmaGo s) ∧ s.answered (s.wearCh n) [.output n] u ∧
      u.outs[n.val]? = some { o with wear := { o.wear with
        writing := o.wear.writing.erase (row, true), wanted := o.wear.wanted.filter (· != row) } } := by
  have e := exec_wearLedgerWriteDone ho reply h
  dsimp only at e
  rw [if_neg (not_not.2 hk), if_pos (by simpa using hw)] at e
  exact ⟨_, e, answered_setWear (rowWritten_answered reply hk) _, setWear_outs (rowWritten_outs ho reply) _⟩

end

section
variable (met : Bool) (hr : row ∈ o.wear.rowsLeft) (hd : row < o.pix.drive.length)
include hr hd

/-- A row of a stalled route. -/
theorem wearRowStart_stalled (h : 6 ≤ o.stall) : ∃ u, exec (.wearRowStart n row met) s = .next (u.showLedger n) ∧
    Frame [F.wearLedgerLostCount n] [.output n, .channel (s.wearCh n)] s u ∧ s.owes n row o u := by
  refine ⟨_, ?_, stallRow_frame s n row, stallRow_owes ho⟩
  rw [exec_wearRowStart ho met hr hd, if_pos h]

theorem wearRowStart_sampled (h : o.stall < 6) {old : List Byte} (hf : o.wear.ready.find? (·.1 == row) = some (row, old)) :
    let r := s.ledgerAdd n old (o.pix.drive.getD row (zeroRow 0)) (o.wear.owed.contains row)
    State.Issues s (s.wearCh n) (s.ledgerRow n row) r.1.length →
    exec (.wearRowStart n row met) s =
      .next (((s.sampleWritten n row r.2 (s.chanFn (s.wearCh n)) (s.ledgerRow n row) r.1).ledgerRun 4096 n).showLedger n) := by
  intro r hi
  rw [exec_wearRowStart ho met hr hd, if_neg (Nat.not_le.2 h), hf]
  dsimp only
  rw [sampleRow_issues ho old hi]

variable (h : o.stall < 6) (hf : o.wear.ready.find? (·.1 == row) = none)
include h hf

theorem exec_wearRowStart_unread : exec (.wearRowStart n row met) s =
    if met && o.wear.reading.any (rowRead row) then .next (s.setWear n fun w => { w with begun := keyInsert w.begun row })
    else .next ((s.skipRow n row).showLedger n) := by
  rw [exec_wearRowStart ho met hr hd, if_neg (Nat.not_le.2 h), hf]

/-- A row whose read completes in the very clock waits for its bytes. -/
theorem wearRowStart_begun (hm : met = true) (hx : ∃ r ∈ o.wear.reading, rowRead row r = true) :
    Yields (.wearRowStart n row met) s [] [] [.output n] fun u =>
      u.outs[n.val]? = some { o with wear := { o.wear with begun := keyInsert o.wear.begun row } } := by
  have e := exec_wearRowStart_unread ho met hr hd h hf
  rw [if_pos (by rw [hm, Bool.true_and]; exact List.any_eq_true.2 hx)] at e
  exact .quiet e (State.setWear_frame (Frame.refl _ _ s) n _ (by simp)) (setWear_outs ho _)

theorem wearRowStart_skipped (hx : met = false ∨ ∀ r ∈ o.wear.reading, rowRead row r = false) :
    ∃ u, exec (.wearRowStart n row met) s = .next ((u.raise (evOut n 29)).showLedger n) ∧
      Frame [F.wearLedgerSkipsCount n, F.wearLedgerLostCount n] [.output n, .channel (s.wearCh n)] s u ∧ s.owes n row o u ∧
      u.get (F.wearLedgerSkipsCount n) = min (fieldMax (F.wearLedgerSkipsCount n)) (s.get (F.wearLedgerSkipsCount n) + 1) := by
  have e := exec_wearRowStart_unread ho met hr hd h hf
  rw [if_neg, skipRow_eq] at e
  · exact ⟨_, e, skipped_frame s n row, skipped_owes ho hf, skipped_count s n row⟩
  · rcases hx with rfl | hx
    · simp
    · simpa using fun _ => hx

end

end

/-- Settles O21: a row by whether its old bytes are there, an answer by whether it is good and the row's last, a write's end by its reply. -/
theorem wearLedgerRows : Obligations.WearLedgerRows := by
  unfold Obligations.WearLedgerRows
  intro s n o ho
  refine ⟨fun row met hr hd => ⟨fun h old hf hi => ?_, fun h hf => ⟨wearRowStart_begun ho met hr hd h hf, wearRowStart_skipped ho met hr hd h hf⟩,
      wearRowStart_stalled ho met hr hd⟩,
    fun row gen data reply r hr hp => ⟨fun hk hl => ?_, fun hx => ?_⟩,
    fun row reply hm => ⟨wearLedgerWriteDone_bad ho reply hm, wearLedgerWriteDone_good ho reply hm, wearLedgerWriteDone_asks ho reply hm⟩,
    fun row gen data reply h => exec_wearLedgerReadDone_none ho h, fun row reply h => exec_wearLedgerWriteDone_none ho reply h⟩
  · exact ⟨_, wearRowStart_sampled ho met hr hd h hf hi, sampleWritten_frame .., sampleWritten_count .., sampleWritten_out .., sampleWritten_outs _ _ _ _ _ _ _ ho⟩
  · rcases Nat.lt_or_ge (r.got ++ data).length (s.ledgerBytes n) with hs | hs
    · exact ⟨_, rowTaken_answered data reply hk, fun _ => ⟨rowTaken_outs ho data reply, wearLedgerReadDone_part ho hr hp data reply hk hl hs⟩,
        fun h => absurd hs (Nat.not_lt.2 h), fun h => absurd hs (Nat.not_lt.2 h)⟩
    · cases gen with
      | false =>
        obtain ⟨u, h1, h2, h3⟩ := wearLedgerReadDone_row ho data reply hp hk hl hs hr
        exact ⟨u, h1, fun h => absurd h (Nat.not_lt.2 hs), fun _ _ => ⟨h2, h3⟩, fun _ h => Bool.noConfusion h⟩
      | true =>
        obtain ⟨u, h1, h2, h3⟩ := wearLedgerReadDone_gen ho data reply hp hk hl hs hr
        exact ⟨u, h1, fun h => absurd h (Nat.not_lt.2 hs), fun _ h => Bool.noConfusion h, fun _ _ => ⟨h2, h3⟩⟩
  · obtain ⟨hc, hz⟩ := ledgerCode_bad hx
    have h := wearLedgerReadDone_bad ho hr hp data reply hz
    rw [hc] at h
    exact h

end Sys2Proof.Machine
end

section
/-! The commands of SST_CMD (R41 to R43): how a command is noted and ends, what it does to its staging slot. -/

open Sys2Proof Sys2Proof.Machine

namespace Sys2Proof.Machine

/-! What a command under way shows, and what its end leaves. -/

theorem sstNoted_get_apart (s : State) (op slot : Nat) (hold : Bool) {f : Field} (hf : InWord f) (h : ∀ g ∈ sstFields, Apart g f) :
    (s.sstNoted op slot hold).get f = s.get f :=
  (sstNoted_frame (T := sstFields) (P := [.sst]) (Frame.refl _ _ s) op slot hold (fun _ m => m) (by simp)).get hf h

theorem sstFields_apart_reads : ∀ f ∈ sstFields, Apart f F.dmaNpTotalCount := fun f hf => .ofRegs (by revert f; decide)

theorem sstNoted_busy (s : State) (op slot : Nat) (hold : Bool) : (s.sstNoted op slot hold).get F.sstStatusBusy = 1 := by
  rw [sstNoted_get, State.get_put_same _ (.ofBits rfl)]
  rfl

theorem sstNoted_lastSlot (s : State) (op : Nat) (slot : Fin 4) (hold : Bool) :
    (s.sstNoted op slot hold).get F.sstStatusLastSlot = slot := by
  rw [sstNoted_get, State.get_put_other _ (.ofBits rfl) (.ofBits rfl), State.get_put_same _ (.ofBits rfl)]
  exact Nat.mod_eq_of_lt slot.isLt

theorem sstNoted_lastOp (s : State) {op : Nat} (ho : op < 16) (slot : Nat) (hold : Bool) :
    (s.sstNoted op slot hold).get F.sstStatusLastOp = op := by
  rw [sstNoted_get, State.get_put_other _ (.ofBits rfl) (.ofBits rfl), State.get_put_other _ (.ofBits rfl) (.ofBits rfl),
    State.get_put_same _ (.ofBits rfl)]
  exact Nat.mod_eq_of_lt ho

/-- What the end of a command sets. -/
def sstOverFields : List Field := [F.sstStatusBusy, F.sstStatusLastCode, F.dmaNpTotalCount]

theorem sstOver_get_apart (s : State) (code : Nat) {f : Field} (hf : InWord f) (h : ∀ g ∈ sstOverFields, Apart g f) :
    (s.sstOver code).get f = s.get f :=
  (sstOver_frame (T := sstOverFields) (P := [.sst]) (Frame.refl _ _ s) code (by simp [sstOverFields]) (by simp [sstOverFields])
    (by simp [sstOverFields]) (by simp)).get hf h

/-- The reads of the command under way are no longer counted in flight (R266). -/
theorem sstOver_reads (s : State) (code : Nat) :
    (s.sstOver code).get F.dmaNpTotalCount = s.get F.dmaNpTotalCount - (s.sst.running.map (·.reads)).getD 0 := by
  have hlt : s.get F.dmaNpTotalCount < 2 ^ 12 := State.get_lt s F.dmaNpTotalCount
  unfold State.sstOver State.npPart
  dsimp only
  rw [State.get_put_same _ (.ofBits rfl), State.get_mk, State.puts_cons, State.puts_cons, State.puts_nil,
    State.get_put_other _ (.ofRegs rfl) (.ofBits rfl), State.get_put_other _ (.ofRegs rfl) (.ofBits rfl)]
  exact (Nat.mod_eq_of_lt (show _ < 2 ^ 12 by omega)).trans (by omega)

/-! The registers of a staging slot. -/

/-- What a slot shows of its stream. -/
def slotFields (k : Nat) : List Field :=
  [F.sstslotStateState k, F.sstslotStateCode k, F.sstslotErrOffsetWord k, F.sstslotSeqSeq k, F.sstslotTargetMask k]

/-- What a slot shows is no part of what a command notes or its end sets. -/
theorem slotFields_apart {k : Nat} (hk : k < 4) {f : Field} (hf : f ∈ slotFields k) :
    InWord f ∧ (∀ g ∈ sstFields, Apart g f) ∧ ∀ g ∈ sstOverFields, Apart g f := by
  have h : ∀ k < 4, ∀ f ∈ slotFields k, InWord f ∧ (∀ g ∈ sstFields, Apart g f) ∧ ∀ g ∈ sstOverFields, Apart g f := by
    unfold InWord Apart
    decide
  exact h k hk f hf

theorem mem_slotFields_state (k : Nat) : F.sstslotStateState k ∈ slotFields k := by simp [slotFields]

theorem sstNoted_slot (s : State) (op slot : Nat) (hold : Bool) {k : Nat} (hk : k < 4) {f : Field} (hf : f ∈ slotFields k) :
    (s.sstNoted op slot hold).get f = s.get f :=
  sstNoted_get_apart _ _ _ _ (slotFields_apart hk hf).1 (slotFields_apart hk hf).2.1

theorem sstNoted_slotSt (s : State) (op slot : Nat) (hold : Bool) {k : Nat} (hk : k < 4) :
    (s.sstNoted op slot hold).slotSt k = s.slotSt k := sstNoted_slot s op slot hold hk (mem_slotFields_state k)

theorem sstOver_slot (s : State) (code : Nat) {k : Nat} (hk : k < 4) {f : Field} (hf : f ∈ slotFields k) :
    (s.sstOver code).get f = s.get f :=
  sstOver_get_apart _ _ (slotFields_apart hk hf).1 (slotFields_apart hk hf).2.2

/-- A field of SST_STATUS stays while a command works on the registers of its slot. -/
theorem slotWork_get {k : Nat} (hk : k < 4) {P : List Part} {s t : State} (h : Frame (slotFields k) P s t) {g : Field} (hg : InWord g)
    (hm : g ∈ F.dmaNpTotalCount :: sstFields) : t.get g = s.get g := by
  refine h.get hg fun f hf => ?_
  obtain ⟨-, hs, ho⟩ := slotFields_apart hk hf
  rcases List.mem_cons.1 hm with rfl | hm
  · exact (ho _ (by simp [sstOverFields])).symm
  · exact (hs g hm).symm

section
variable {s v : State} {op : Nat} {slot : Fin 4} {hold : Bool} {P : List Part}

/-- What SST_STATUS shows of a command that worked on its slot and then ended with a code. -/
theorem sstOver_shows (h : Frame (slotFields slot) P (s.sstNoted op slot hold) v) (ho : op < 16) (hr : v.sst.running = some ⟨op, slot, 0⟩)
    {code : Nat} (hc : code < 4096) :
    (v.sstOver code).get F.sstStatusLastCode = code ∧ (v.sstOver code).get F.sstStatusBusy = 0 ∧
      (v.sstOver code).get F.sstStatusLastOp = op ∧ (v.sstOver code).get F.sstStatusLastSlot = slot ∧
      (v.sstOver code).get F.dmaNpTotalCount = s.get F.dmaNpTotalCount := by
  obtain ⟨hbusy, hcode⟩ := sstOver_code v code hc
  have hend {g : Field} (hg : g ∈ [F.sstStatusLastOp, F.sstStatusLastSlot]) : (v.sstOver code).get g = (s.sstNoted op slot hold).get g := by
    have hw : InWord g ∧ (∀ f ∈ sstOverFields, Apart f g) ∧ g ∈ F.dmaNpTotalCount :: sstFields := by
      unfold InWord Apart
      revert g
      decide
    exact (sstOver_get_apart v code hw.1 hw.2.1).trans (slotWork_get slot.isLt h hw.1 hw.2.2)
  refine ⟨hcode, hbusy, (hend (by simp)).trans (sstNoted_lastOp s ho slot hold), (hend (by simp)).trans (sstNoted_lastSlot s op slot hold), ?_⟩
  rw [sstOver_reads, hr, slotWork_get slot.isLt h (.ofBits rfl) (by simp)]
  exact sstNoted_get_apart s op slot hold (.ofBits rfl) sstFields_apart_reads

end

/-! Operations that are none (R41). -/

theorem exec_cmdInvalid {s : State} {w : Writer} {op : Fin 16} {slot : Fin 4} (ha : s.accepts w R.sstCmd = true)
    (hb : s.get F.sstStatusBusy = 0) (ho : 6 ≤ op.val) :
    exec (.cmdInvalid w op slot) s = .next (((s.sstNoted op slot false).sstOver 0x12B).raise 241) := by
  show Host.Outcome.next (if op.val < 6 then s else s.sstCommand w op slot false fun t => t.sstEnd 0x12B) = _
  rw [if_neg (by omega), sstCommand_free ha hb, sstEnd_bad _ _ (by decide)]

theorem cmdInvalid_yields {s : State} {w : Writer} {op : Fin 16} {slot : Fin 4} (ha : s.accepts w R.sstCmd = true)
    (hb : s.get F.sstStatusBusy = 0) (ho : 6 ≤ op.val) :
    Yields (.cmdInvalid w op slot) s [241] (F.dmaNpTotalCount :: sstFields) [.sst] fun u =>
      u.get F.sstStatusLastCode = 0x12B ∧ u.get F.sstStatusBusy = 0 ∧ u.get F.sstStatusLastOp = op ∧
      u.get F.sstStatusLastSlot = slot ∧ u.get F.dmaNpTotalCount = s.get F.dmaNpTotalCount ∧
      u.sst = { s.sst with running := none } := by
  obtain ⟨hcode, hbusy, hop, hslot, hreads⟩ := sstOver_shows (Frame.refl _ [] (s.sstNoted op slot false)) op.isLt rfl (code := 0x12B) (by decide)
  refine .intro (exec_cmdInvalid ha hb ho) ?_ ⟨hcode, hbusy, hop, hslot, hreads, rfl⟩
  exact sstOver_frame (sstNoted_frame (Frame.refl _ _ s) _ _ _ (fun f h => .tail _ h) (by simp)) _
    (by simp [sstFields]) (by simp [sstFields]) (by simp) (by simp)

/-! DISCARD (R41). -/

/-- The slot of a DISCARD, emptied. -/
def State.slotEmptied (s : State) (k : Nat) : State :=
  (s.setSlot k []).puts [(F.sstslotStateState k, 0), (F.sstslotSeqSeq k, 0), (F.sstslotTargetMask k, 0)]

theorem exec_sstDiscard {s : State} {w : Writer} {slot : Fin 4} (ha : s.accepts w R.sstCmd = true) (hb : s.get F.sstStatusBusy = 0)
    (h4 : s.slotSt slot ≠ 4) (h5 : s.slotSt slot ≠ 5) :
    exec (.sstDiscard w slot) s = .next (((s.sstNoted 3 slot false).slotEmptied slot).sstOver 0) := by
  show Host.Outcome.next (s.sstCommand w 3 slot false fun t => if t.slotSt slot = 4 ∨ t.slotSt slot = 5 then t.sstEnd 0x124
    else (t.slotEmptied slot).sstEnd 0) = _
  rw [sstCommand_free ha hb, sstNoted_slotSt _ _ _ _ slot.isLt, if_neg (not_or.2 ⟨h4, h5⟩), sstEnd_ok]

theorem slotEmptied_frame {T : List Field} {P : List Part} {s t : State} (h : Frame T P s t) (k : Nat) (hT : F.sstslotStateState k ∈ T)
    (hT1 : F.sstslotSeqSeq k ∈ T) (hT2 : F.sstslotTargetMask k ∈ T) (hP : .sst ∈ P) : Frame T P s (t.slotEmptied k) :=
  (setSlot_frame h k [] hP).puts (by simp [hT, hT1, hT2])

theorem slotEmptied_get (s : State) (k : Nat) : (s.slotEmptied k).get (F.sstslotStateState k) = 0 ∧
    (s.slotEmptied k).get (F.sstslotSeqSeq k) = 0 ∧ (s.slotEmptied k).get (F.sstslotTargetMask k) = 0 := by
  unfold State.slotEmptied
  simp only [State.puts_cons, State.puts_nil]
  refine ⟨?_, ?_, ?_⟩
  · rw [State.get_put_other _ (.ofBases rfl rfl rfl) (.ofBits rfl), State.get_put_other _ (.ofBases rfl rfl rfl) (.ofBits rfl),
      State.get_put_same _ (.ofBits rfl), Nat.zero_mod]
  · rw [State.get_put_other _ (.ofBases rfl rfl rfl) (.ofBits rfl), State.get_put_same _ (.ofBits rfl), Nat.zero_mod]
  · rw [State.get_put_same _ (.ofBits rfl), Nat.zero_mod]

theorem sstDiscard_yields {s : State} {w : Writer} {slot : Fin 4} (ha : s.accepts w R.sstCmd = true) (hb : s.get F.sstStatusBusy = 0)
    (h4 : s.slotSt slot ≠ 4) (h5 : s.slotSt slot ≠ 5) :
    Yields (.sstDiscard w slot) s []
      (F.sstslotStateState slot :: F.sstslotSeqSeq slot :: F.sstslotTargetMask slot :: F.dmaNpTotalCount :: sstFields) [.sst] fun u =>
      u.slotSt slot = 0 ∧ u.get (F.sstslotSeqSeq slot) = 0 ∧ u.get (F.sstslotTargetMask slot) = 0 ∧
      u.get F.sstStatusLastCode = 0 ∧ u.get F.sstStatusBusy = 0 ∧ u.get F.sstStatusLastOp = 3 ∧
      u.get F.sstStatusLastSlot = slot ∧ u.get F.dmaNpTotalCount = s.get F.dmaNpTotalCount ∧
      u.sst = { s.sst with running := none, slots := updAt s.sst.slots slot fun _ => [] } := by
  have hwork : Frame (slotFields slot) [.sst] (s.sstNoted 3 slot false) ((s.sstNoted 3 slot false).slotEmptied slot) :=
    slotEmptied_frame (Frame.refl _ _ _) slot (by simp [slotFields]) (by simp [slotFields]) (by simp [slotFields]) (by simp)
  obtain ⟨hst, hseq, htarget⟩ := slotEmptied_get (s.sstNoted 3 slot false) slot
  obtain ⟨hcode, hbusy, hop, hslot, hreads⟩ := sstOver_shows hwork (by decide) rfl (code := 0) (by decide)
  refine .quiet (exec_sstDiscard ha hb h4 h5) ?_ ⟨?_, ?_, ?_, hcode, hbusy, hop, hslot, hreads, rfl⟩
  · exact sstOver_frame (slotEmptied_frame (sstNoted_frame (Frame.refl _ _ s) _ _ _ (fun f h => by simp [h]) (by simp)) slot
      (by simp) (by simp) (by simp) (by simp)) _ (by simp [sstFields]) (by simp [sstFields]) (by simp) (by simp)
  · exact (sstOver_slot _ _ slot.isLt (by simp [slotFields])).trans hst
  · exact (sstOver_slot _ _ slot.isLt (by simp [slotFields])).trans hseq
  · exact (sstOver_slot _ _ slot.isLt (by simp [slotFields])).trans htarget

/-! LOAD (R41, R42, R352, R353). -/

theorem linkPieces_ne_nil (most a : Nat) {fuel n : Nat} (hf : fuel ≠ 0) (hn : n ≠ 0) : linkPieces most fuel a n ≠ [] := by
  obtain ⟨k, rfl⟩ := Nat.exists_eq_succ_of_ne_zero hf
  rw [linkPieces, if_neg hn]
  exact List.cons_ne_nil _ _

theorem hostReads_out (s : State) (f a n : Nat) :
    (s.hostReads f a n).out = ((linkPieces (s.readMost f) n a n).map fun p => Out.hostRead f p.1 p.2).reverse ++ s.out :=
  foldl_toHost_out (fun p : Nat × Nat => Out.hostRead f p.1 p.2) _ s

theorem foldl_toHost_host {α : Type} (g : α → Out) {l : List α} (hl : l ≠ []) (s : State) :
    (l.foldl (fun t p => t.toHost (g p)) s).host = { s.host with inL1 := false } := by
  obtain ⟨x, l, rfl⟩ := List.exists_cons_of_ne_nil hl
  rw [List.foldl_cons]
  exact foldl_inv (fun u : State => u.host = { s.host with inL1 := false }) _ l _ rfl fun u _ _ hu =>
    congrArg (fun h : HostState => { h with inL1 := false }) hu

theorem hostReads_host (s : State) (f a : Nat) {n : Nat} (hn : n ≠ 0) : (s.hostReads f a n).host = { s.host with inL1 := false } :=
  foldl_toHost_host _ (linkPieces_ne_nil _ _ hn hn) s

theorem hostReads_frame {T : List Field} {P : List Part} {s t : State} (h : Frame T P s t) (f a n : Nat) (m1 : .out ∈ P) (m2 : .host ∈ P) :
    Frame T P s (t.hostReads f a n) :=
  foldl_inv (fun u : State => Frame T P s u) _ _ _ h fun _ _ _ hu => toHost_frame hu _ m1 m2

/-- The registers that say what a LOAD of a slot fetches. -/
def askFields (k : Nat) : List Field := [F.sstslotAddrLoAddr k, F.sstslotAddrHiAddr k, F.sstslotLenBytes k]

theorem askFields_apart {k : Nat} (hk : k < 4) {f : Field} (hf : f ∈ askFields k) :
    InWord f ∧ (∀ g ∈ sstFields, Apart g f) ∧ Apart (F.sstslotStateState k) f := by
  have h : ∀ k < 4, ∀ f ∈ askFields k, InWord f ∧ (∀ g ∈ sstFields, Apart g f) ∧ Apart (F.sstslotStateState k) f := by
    unfold InWord Apart
    decide
  exact h k hk f hf

/-- The host address a LOAD of a slot fetches from. -/
def State.loadAddr (s : State) (k : Nat) : Nat := 32 * s.get (F.sstslotAddrLoAddr k) + 2 ^ 32 * s.get (F.sstslotAddrHiAddr k)

/-- The read requests of a LOAD. -/
def State.loadRequests (s : State) (k : Nat) : List (Nat × Nat) :=
  linkPieces (s.readMost 0) (s.get (F.sstslotLenBytes k)) (s.loadAddr k) (s.get (F.sstslotLenBytes k))

/-- How many of them count as in flight. -/
def State.loadReads (s : State) (k : Nat) : Nat := min (min 13 (3072 - s.get F.dmaNpTotalCount)) (s.loadRequests k).length

/-- The reads of a LOAD noted as in flight. -/
def State.readsNoted (s : State) (k : Nat) : State :=
  { s with sst := { s.sst with running := some ⟨1, k, s.loadReads k⟩ } }.npPart (s.loadReads k)

theorem sstReads_eq (s : State) (k : Nat) : s.sstReads k = (s.readsNoted k).hostReads 0 (s.loadAddr k) (s.get (F.sstslotLenBytes k)) := rfl

theorem readsNoted_count (s : State) (k : Nat) : (s.readsNoted k).get F.dmaNpTotalCount = s.get F.dmaNpTotalCount + s.loadReads k := by
  have hlt : s.get F.dmaNpTotalCount < 2 ^ 12 := State.get_lt s F.dmaNpTotalCount
  have hn : s.loadReads k ≤ 3072 - s.get F.dmaNpTotalCount := (Nat.min_le_left ..).trans (Nat.min_le_right ..)
  unfold State.readsNoted State.npPart
  rw [State.get_put_same _ (.ofBits rfl), State.get_mk]
  exact (Nat.mod_eq_of_lt (show _ < 2 ^ 12 by omega)).trans (by omega)

theorem readsNoted_frame {T : List Field} {P : List Part} {s t : State} (h : Frame T P s t) (k : Nat) (hT : F.dmaNpTotalCount ∈ T)
    (hP : .sst ∈ P) : Frame T P s (t.readsNoted k) :=
  Frame.put (h.fields fun p hp => by cases p <;> first | rfl | exact absurd hP hp) hT

/-- The slot of a LOAD as its fetch begins. -/
def State.slotLoading (s : State) (k : Nat) : State := (s.setSlot k []).put (F.sstslotStateState k) 1

theorem slotLoading_frame {T : List Field} {P : List Part} {s t : State} (h : Frame T P s t) (k : Nat) (hT : F.sstslotStateState k ∈ T)
    (hP : .sst ∈ P) : Frame T P s (t.slotLoading k) := (setSlot_frame h k [] hP).put hT

theorem sstNoted_fetchOk (s : State) (op slot : Nat) (hold : Bool) {k : Nat} (hk : k < 4) :
    (s.sstNoted op slot hold).fetchOk k = s.fetchOk k := by
  obtain ⟨hw, hs, -⟩ := askFields_apart hk (f := F.sstslotLenBytes k) (by simp [askFields])
  unfold State.fetchOk
  rw [sstNoted_get_apart s op slot hold hw hs]
  rfl

section
variable (s : State) (slot : Fin 4)

/-- The state in which a LOAD's requests go out. -/
def State.loadNoted : State := (s.sstNoted 1 slot false).slotLoading slot

theorem loadNoted_frame : Frame (F.sstslotStateState slot :: sstFields) [.sst] s (s.loadNoted slot) :=
  slotLoading_frame (sstNoted_frame (Frame.refl _ _ s) _ _ _ (fun _ h => .tail _ h) (by simp)) _ (by simp) (by simp)

theorem loadNoted_get {f : Field} (hf : f ∈ F.dmaNpTotalCount :: askFields slot) : (s.loadNoted slot).get f = s.get f := by
  rcases List.mem_cons.1 hf with rfl | hf
  · have hst := (slotFields_apart slot.isLt (mem_slotFields_state slot)).2.2 F.dmaNpTotalCount (by simp [sstOverFields])
    exact (loadNoted_frame s slot).get (.ofBits rfl) (List.forall_mem_cons.2 ⟨hst.symm, sstFields_apart_reads⟩)
  · obtain ⟨hw, hs, hst⟩ := askFields_apart slot.isLt hf
    exact (loadNoted_frame s slot).get hw (List.forall_mem_cons.2 ⟨hst, hs⟩)

theorem loadNoted_fetch : (s.loadNoted slot).loadRequests slot = s.loadRequests slot ∧ (s.loadNoted slot).loadReads slot = s.loadReads slot ∧
    (s.loadNoted slot).loadAddr slot = s.loadAddr slot ∧ (s.loadNoted slot).get (F.sstslotLenBytes slot) = s.get (F.sstslotLenBytes slot) := by
  have hlen := loadNoted_get s slot (f := F.sstslotLenBytes slot) (by simp [askFields])
  have haddr : (s.loadNoted slot).loadAddr slot = s.loadAddr slot := by
    unfold State.loadAddr
    rw [loadNoted_get s slot (by simp [askFields]), loadNoted_get s slot (by simp [askFields])]
  have hreq : (s.loadNoted slot).loadRequests slot = s.loadRequests slot := by
    unfold State.loadRequests
    rw [hlen, haddr]
    rfl
  refine ⟨hreq, ?_, haddr, hlen⟩
  unfold State.loadReads
  rw [hreq, loadNoted_get s slot (by simp)]

/-- What a LOAD shows as its requests go out. -/
theorem loadNoted_shows : (s.loadNoted slot).slotSt slot = 1 ∧ (s.loadNoted slot).get F.sstStatusBusy = 1 ∧
    (s.loadNoted slot).get F.sstStatusLastOp = 1 ∧ (s.loadNoted slot).get F.sstStatusLastSlot = slot := by
  have hwork : Frame (slotFields slot) [.sst] (s.sstNoted 1 slot false) (s.loadNoted slot) :=
    slotLoading_frame (Frame.refl _ _ _) slot (mem_slotFields_state slot) (by simp)
  refine ⟨State.get_put_same _ (.ofBits rfl) 1, ?_, ?_, ?_⟩
  · exact (slotWork_get slot.isLt hwork (.ofBits rfl) (by simp [sstFields])).trans (sstNoted_busy ..)
  · exact (slotWork_get slot.isLt hwork (.ofBits rfl) (by simp [sstFields])).trans (sstNoted_lastOp s (by decide) ..)
  · exact (slotWork_get slot.isLt hwork (.ofBits rfl) (by simp [sstFields])).trans (sstNoted_lastSlot ..)

/-- A LOAD with its reads noted, the requests not yet out. -/
def State.loadBegun : State := (s.loadNoted slot).readsNoted slot

theorem loadBegun_frame : Frame (F.sstslotStateState slot :: F.dmaNpTotalCount :: sstFields) [.sst] s (s.loadBegun slot) :=
  readsNoted_frame ((loadNoted_frame s slot).mono (List.forall_mem_cons.2 ⟨by simp, fun _ h => by simp [h]⟩) (fun _ h => h)) slot (by simp)
    (by simp)

theorem loadBegun_get {f : Field} (hf : InWord f) (h : Apart F.dmaNpTotalCount f) : (s.loadBegun slot).get f = (s.loadNoted slot).get f :=
  (readsNoted_frame (T := [F.dmaNpTotalCount]) (P := [.sst]) (Frame.refl _ _ _) slot (by simp) (by simp)).get hf (by simpa using h)

theorem loadBegun_count : (s.loadBegun slot).get F.dmaNpTotalCount = s.get F.dmaNpTotalCount + s.loadReads slot := by
  obtain ⟨-, hreads, -, -⟩ := loadNoted_fetch s slot
  unfold State.loadBegun
  rw [readsNoted_count, hreads, loadNoted_get s slot (by simp)]

theorem loadBegun_sst : (s.loadBegun slot).sst =
    { s.sst with running := some ⟨1, slot, s.loadReads slot⟩, slots := updAt s.sst.slots slot fun _ => [] } := by
  rw [← (loadNoted_fetch s slot).2.1]
  rfl

theorem exec_sstLoad {s : State} {w : Writer} {slot : Fin 4} (ha : s.accepts w R.sstCmd = true) (hb : s.get F.sstStatusBusy = 0)
    (h4 : s.slotSt slot ≠ 4) (h5 : s.slotSt slot ≠ 5) (hf : s.fetchOk slot = true) (hm : (s.fnCfg 0).busMaster = true) :
    exec (.sstLoad w slot) s = .next ((s.loadBegun slot).hostReads 0 (s.loadAddr slot) (s.get (F.sstslotLenBytes slot))) := by
  obtain ⟨-, -, haddr, hlen⟩ := loadNoted_fetch s slot
  have hm' : ((s.sstNoted 1 slot false).fnCfg 0).busMaster = true := hm
  show Host.Outcome.next (s.sstCommand w 1 slot false fun t => if t.slotSt slot = 4 ∨ t.slotSt slot = 5 then t.sstEnd 0x124
    else if !t.fetchOk slot then t.sstVerdict slot [] (some (0x101, 0))
    else if !(t.fnCfg 0).busMaster then t.sstVerdict slot [] (some (0x126, 0)) else (t.slotLoading slot).sstReads slot) = _
  rw [sstCommand_free ha hb, sstNoted_slotSt _ _ _ _ slot.isLt, if_neg (not_or.2 ⟨h4, h5⟩), sstNoted_fetchOk _ _ _ _ slot.isLt,
    if_neg (by simp [hf]), if_neg (by simp [hm']), sstReads_eq, ← haddr, ← hlen]
  rfl

end

theorem sstLoad_yields {s : State} {w : Writer} {slot : Fin 4} (ha : s.accepts w R.sstCmd = true) (hb : s.get F.sstStatusBusy = 0)
    (h4 : s.slotSt slot ≠ 4) (h5 : s.slotSt slot ≠ 5) (hf : s.fetchOk slot = true) (hm : (s.fnCfg 0).busMaster = true) :
    Yields (.sstLoad w slot) s [] (F.sstslotStateState slot :: F.dmaNpTotalCount :: sstFields) [.sst, .host, .out] fun u =>
      u.slotSt slot = 1 ∧ u.get F.sstStatusBusy = 1 ∧ u.get F.sstStatusLastOp = 1 ∧ u.get F.sstStatusLastSlot = slot ∧
      u.get F.dmaNpTotalCount = s.get F.dmaNpTotalCount + s.loadReads slot ∧
      u.sst = { s.sst with running := some ⟨1, slot, s.loadReads slot⟩, slots := updAt s.sst.slots slot fun _ => [] } ∧
      u.host = { s.host with inL1 := false } ∧
      u.out = ((s.loadRequests slot).map fun p => Out.hostRead 0 p.1 p.2).reverse ++ s.out := by
  have hlen : s.get (F.sstslotLenBytes slot) ≠ 0 := by
    unfold State.fetchOk at hf
    simp only [Bool.and_eq_true, decide_eq_true_eq] at hf
    omega
  have hreads := hostReads_frame (T := []) (P := [.host, .out]) (Frame.refl _ _ (s.loadBegun slot)) 0 (s.loadAddr slot)
    (s.get (F.sstslotLenBytes slot)) (by simp) (by simp)
  have hget {f : Field} (hf : InWord f) (h : Apart F.dmaNpTotalCount f) := (hreads.get hf (by simp)).trans (loadBegun_get s slot hf h)
  obtain ⟨hst, hbusy, hop, hslot⟩ := loadNoted_shows s slot
  refine .quiet (exec_sstLoad ha hb h4 h5 hf hm) ?_ ⟨?_, ?_, ?_, ?_, ?_, ?_, ?_, ?_⟩
  · exact ((loadBegun_frame s slot).mono (fun _ h => h) (by simp)).trans (hreads.mono (by simp) (by simp))
  · exact (hget (.ofBits rfl) ((slotFields_apart slot.isLt (mem_slotFields_state slot)).2.2 _ (by simp [sstOverFields]))).trans hst
  · exact (hget (.ofBits rfl) (.ofRegs rfl)).trans hbusy
  · exact (hget (.ofBits rfl) (.ofRegs rfl)).trans hop
  · exact (hget (.ofBits rfl) (.ofRegs rfl)).trans hslot
  · exact (hreads.get (.ofBits rfl) (by simp)).trans (loadBegun_count s slot)
  · exact (hreads.rest .sst (by simp)).trans (loadBegun_sst s slot)
  · exact hostReads_host _ _ _ hlen
  · exact hostReads_out _ _ _ _

/-- Settles O14: each command noted, its slot's registers set, and it goes on or ends. -/
theorem sstSlotCommands : Obligations.SstSlotCommands := by
  unfold Obligations.SstSlotCommands
  intro s w slot ha hb
  exact ⟨sstLoad_yields ha hb, sstDiscard_yields ha hb, fun _ => cmdInvalid_yields ha hb⟩

end Sys2Proof.Machine
end

section
/-! The end of a LOAD's fetch (R42, R43). -/

open Sys2Proof Sys2Proof.Machine

namespace Sys2Proof.Machine

/-- What a LOAD's verdict shows in the slot's registers. -/
def State.verdictShown (s : State) (k : Nat) (words : List Word) (state code off : Nat) : State :=
  (s.setSlot k words).puts [(F.sstslotStateState k, state), (F.sstslotStateCode k, code), (F.sstslotErrOffsetWord k, off),
    (F.sstslotSeqSeq k, pw words 4), (F.sstslotTargetMask k, pw words 3)]

theorem sstVerdict_valid (s : State) (k : Nat) (words : List Word) :
    s.sstVerdict k words none = ((s.verdictShown k words 2 0 0).sstOver 0).raise 240 := by
  show ((s.verdictShown k words 2 0 0).sstEnd 0).raiseIf true 240 = _
  rw [sstEnd_ok]
  rfl

theorem sstVerdict_rejected (s : State) (k : Nat) (words : List Word) {code : Nat} (hc : code ≠ 0) (off : Nat) :
    s.sstVerdict k words (some (code, off)) = ((s.verdictShown k words 3 code off).sstOver code).raise 241 := by
  show (((s.setSlot k words).puts ((_, if code = 0 then 2 else 3) :: _)).sstEnd code).raiseIf (code == 0) 240 = _
  rw [if_neg hc, beq_false_of_ne hc, sstEnd_bad _ _ hc]
  rfl

theorem exec_sstFetchComplete {s : State} {k reads : Nat} (hr : s.sst.running = some ⟨1, k, reads⟩) (ok : Bool) (words : List Word) :
    exec (.sstFetchComplete ok words) s = .next (if ok then s.sstVerdict k words (s.loadVerdict (s.get (F.sstslotLenBytes k)) words)
      else s.sstVerdict k [] (some (0x126, 0))) := by
  show execSstFetchComplete ok words s = _
  unfold execSstFetchComplete
  rw [hr]
  rfl

theorem pw_lt (l : List Word) (i : Nat) : pw l i < 2 ^ 32 := (l.getD i 0).isLt

/-- The fields that the end of a LOAD changes. -/
def verdictFields (k : Nat) : List Field := slotFields k ++ F.dmaNpTotalCount :: sstFields

section
variable (s : State) (k : Nat) (words : List Word) (state code off : Nat)

theorem verdictShown_frame : Frame (slotFields k) [.sst] s (s.verdictShown k words state code off) :=
  (setSlot_frame (Frame.refl _ _ s) k words (by simp)).puts (by simp [slotFields])

theorem verdictShown_get (hs : state < 8) (hc : code < 0x1000) (ho : off < 0x10000) :
    (s.verdictShown k words state code off).get (F.sstslotStateState k) = state ∧
      (s.verdictShown k words state code off).get (F.sstslotStateCode k) = code ∧
      (s.verdictShown k words state code off).get (F.sstslotErrOffsetWord k) = off ∧
      (s.verdictShown k words state code off).get (F.sstslotSeqSeq k) = pw words 4 ∧
      (s.verdictShown k words state code off).get (F.sstslotTargetMask k) = pw words 3 % 16 := by
  unfold State.verdictShown
  simp (disch := first | exact .ofBits rfl | exact .ofBases rfl rfl rfl) only [State.puts_cons, State.puts_nil, State.get_put_same,
    State.get_put_other]
  exact ⟨Nat.mod_eq_of_lt hs, Nat.mod_eq_of_lt hc, Nat.mod_eq_of_lt ho, Nat.mod_eq_of_lt (pw_lt words 4), rfl⟩

/-- What the slot and SST_STATUS show of a LOAD that has ended with a verdict. -/
theorem verdictOver_spec (hk : k < 4) {reads : Nat} (hr : s.sst.running = some ⟨1, k, reads⟩) (hs : state < 8) (hc : code < 0x1000)
    (ho : off < 0x10000) :
    let u := (s.verdictShown k words state code off).sstOver code
    Frame (verdictFields k) [.sst] s u ∧
    (u.slotSt k = state ∧ u.get (F.sstslotStateCode k) = code ∧ u.get (F.sstslotErrOffsetWord k) = off ∧
      u.get (F.sstslotSeqSeq k) = pw words 4 ∧ u.get (F.sstslotTargetMask k) = pw words 3 % 16) ∧
    u.get F.sstStatusLastCode = code ∧ u.get F.sstStatusBusy = 0 ∧ u.get F.dmaNpTotalCount = s.get F.dmaNpTotalCount - reads ∧
      u.sst = { s.sst with running := none, slots := updAt s.sst.slots k fun _ => words } := by
  intro u
  have hv := verdictShown_frame s k words state code off
  obtain ⟨h1, h2, h3, h4, h5⟩ := verdictShown_get s k words state code off hs hc ho
  obtain ⟨hbusy, hcode⟩ := sstOver_code (s.verdictShown k words state code off) code hc
  have hslot {f : Field} (hf : f ∈ slotFields k) : u.get f = (s.verdictShown k words state code off).get f := sstOver_slot _ _ hk hf
  refine ⟨?_, ⟨(hslot (by simp [slotFields])).trans h1, (hslot (by simp [slotFields])).trans h2, (hslot (by simp [slotFields])).trans h3,
    (hslot (by simp [slotFields])).trans h4, (hslot (by simp [slotFields])).trans h5⟩, hcode, hbusy, ?_, rfl⟩
  · exact sstOver_frame (hv.mono (by simp +contextual [verdictFields]) (fun _ h => h)) _ (by simp [verdictFields, sstFields])
      (by simp [verdictFields, sstFields]) (by simp [verdictFields]) (by simp)
  · have hrun : (s.verdictShown k words state code off).sst.running = some ⟨1, k, reads⟩ := hr
    show (State.sstOver _ _).get _ = _
    rw [sstOver_reads, hrun, slotWork_get hk hv (.ofBits rfl) (by simp)]
    rfl

end

/-- Settles O15: a verdict's way through the checks, its slot's registers, the end of the command. -/
theorem sstVerdicts : Obligations.SstVerdicts := by
  unfold Obligations.SstVerdicts
  intro s k reads hk hr
  refine ⟨fun words hv => ?_, fun words code off hv hc0 hc ho => ?_, fun words => ?_⟩
  · obtain ⟨hf, ⟨hst, hcode, hoff, hseq, hmask⟩, hend⟩ := verdictOver_spec s k words 2 0 0 hk hr (by decide) (by decide) (by decide)
    refine .intro ((exec_sstFetchComplete hr true words).trans ?_) hf ⟨hst, hcode, hoff, hseq, hmask, hend⟩
    rw [if_pos rfl, hv, sstVerdict_valid]
    rfl
  · obtain ⟨hf, ⟨hst, hcode, hoff, -⟩, hend⟩ := verdictOver_spec s k words 3 code off hk hr (by decide) hc ho
    refine .intro ((exec_sstFetchComplete hr true words).trans ?_) hf ⟨hst, hcode, hoff, hend⟩
    rw [if_pos rfl, hv, sstVerdict_rejected _ _ _ hc0]
    rfl
  · obtain ⟨hf, ⟨hst, hcode, -⟩, hend⟩ := verdictOver_spec s k [] 3 0x126 0 hk hr (by decide) (by decide) (by decide)
    refine .intro ((exec_sstFetchComplete hr false words).trans ?_) hf ⟨hst, hcode, hend⟩
    rw [if_neg Bool.false_ne_true, sstVerdict_rejected _ _ _ (by decide)]
    rfl

end Sys2Proof.Machine
end

section
/-! STORE_BOOT and CLEAR_BOOT (R41, R404, R406). -/

open Sys2Proof Sys2Proof.Machine

namespace Sys2Proof.Machine

theorem exec_storeBoot {s : State} {w : Writer} {slot : Fin 4} (ha : s.accepts w R.sstCmd = true) (hb : s.get F.sstStatusBusy = 0)
    (hst : s.slotSt slot = 2 ∨ s.slotSt slot = 5) (hlen : 4 * (s.sst.slots.getD slot []).length ≤ 65536) :
    exec (.storeBoot w slot) s =
      .next ((s.sstNoted 4 slot false).queueStore ⟨0, false, bytesOfWords (s.sst.slots.getD slot []), [], [], 0, .sst⟩) := by
  show Host.Outcome.next (s.sstCommand w 4 slot false fun t => if t.slotSt slot ≠ 2 ∧ t.slotSt slot ≠ 5 then t.sstEnd 0x124
    else if 65536 < 4 * (t.sst.slots.getD slot []).length then t.sstEnd 0x129
    else t.queueStore ⟨0, false, bytesOfWords (t.sst.slots.getD slot []), [], [], 0, .sst⟩) = _
  rw [sstCommand_free ha hb, sstNoted_slotSt _ _ _ _ slot.isLt, if_neg (by omega), sstNoted_sst, if_neg (Nat.not_lt.2 hlen)]

theorem exec_clearBoot {s : State} {w : Writer} {slot : Fin 4} (ha : s.accepts w R.sstCmd = true) (hb : s.get F.sstStatusBusy = 0) :
    exec (.clearBoot w slot) s = .next ((s.sstNoted 5 slot false).queueStore ⟨0, true, [], [], [], 0, .sst⟩) := by
  show Host.Outcome.next (s.sstCommand w 5 slot false fun t => t.queueStore ⟨0, true, [], [], [], 0, .sst⟩) = _
  rw [sstCommand_free ha hb]

/-- A job for the boot record, handed by a command to an idle store, begins; the command stays under way. -/
theorem bootStore_begins {s : State} {c : Instr} {op : Nat} {slot : Fin 4} (j : StoreJob)
    (he : exec c s = .next ((s.sstNoted op slot false).queueStore j)) (hj : s.cal.jobs = [])
    (hn : j.clear = true ∨ s.nextSeq j.kind ≤ 0xFFFFFFFE) (hk : j.kind = 0) (ho : op < 16) :
    Yields c s [] (sstFields ++ storeFields 0) [.sst, .cal] fun u =>
      StoreBegins j s u ∧ u.get F.sstStatusBusy = 1 ∧ u.get F.sstStatusLastOp = op ∧ u.get F.sstStatusLastSlot = slot ∧
      u.sst = { s.sst with running := some ⟨op, slot, 0⟩ } := by
  obtain ⟨hf, hbegins⟩ := State.queueStore_begins (s.sstNoted op slot false) j hj hn (T := storeFields 0) (P := [.cal]) (Frame.refl _ _ _)
    (by rw [hk]; exact fun _ h => h) (by simp)
  have hget {f : Field} (hw : f ∈ [F.sstStatusBusy, F.sstStatusLastOp, F.sstStatusLastSlot]) :
      ((s.sstNoted op slot false).queueStore j).get f = (s.sstNoted op slot false).get f := by
    have h : ∀ f ∈ [F.sstStatusBusy, F.sstStatusLastOp, F.sstStatusLastSlot], InWord f ∧ ∀ g ∈ storeFields 0, Apart g f := by
      unfold InWord Apart
      decide
    exact hf.get (h f hw).1 (h f hw).2
  refine .quiet he ?_ ⟨hbegins, (hget (by simp)).trans (sstNoted_busy ..), (hget (by simp)).trans (sstNoted_lastOp s ho ..),
    (hget (by simp)).trans (sstNoted_lastSlot ..), queueStore_sst _ j hj hn⟩
  exact (sstNoted_frame (Frame.refl _ _ s) _ _ _ (fun _ h => List.mem_append_left _ h) (by simp)).trans
    (hf.mono (fun _ h => List.mem_append_right _ h) (by simp))

end Sys2Proof.Machine
end

section
/-! What an APPLY's progress is read from: the SST block's registers, which outputs run, the SST command under way, APPLY_HOLD.
Everything else that an accepted APPLY does leaves these alone. -/

open Sys2Proof Sys2Proof.Machine

namespace Sys2Proof.Machine

/-- The SST block's registers, the RUN bits, the SST command under way and APPLY_HOLD. -/
def State.applyView (s : State) : (Fin 0x200 → Word) × (Fin 4 → Bool) × Option SstRun × Bool :=
  (fun i => s.reg (R.sstCmd + i), fun n => s.running n, s.sst.running, s.sst.applyHold)

/-- A field outside the SST block that is no RUN bit. -/
def aside (f : Field) : Bool :=
  (decide (f.addr < R.sstCmd) || decide (R.sstCmd + 0x200 ≤ f.addr)) &&
    (decide (f.addr < R.tgStatus 0) || decide (R.tgStatus 3 < f.addr) || decide (f.addr % 0x10000 ≠ R.tgStatus 0 % 0x10000) || decide (0 < f.lo))

theorem aside_iff (f : Field) : aside f = true ↔ (f.addr < R.sstCmd ∨ R.sstCmd + 0x200 ≤ f.addr) ∧
    (f.addr < R.tgStatus 0 ∨ R.tgStatus 3 < f.addr ∨ f.addr % 0x10000 ≠ R.tgStatus 0 % 0x10000 ∨ 0 < f.lo) := by
  simp only [aside, Bool.and_eq_true, Bool.or_eq_true, decide_eq_true_eq, or_assoc]

/-- A field of a register array that begins above the timing generators. -/
theorem aside_above {f : Field} {b m : Nat} (h : f.addr = b + m) (hb : Nat.blt (R.tgStatus 3) b = true) : aside f = true := by
  have hb := Nat.le_of_ble_eq_true hb
  unfold R.tgStatus at hb
  refine (aside_iff f).2 ⟨.inr ?_, .inr (.inl ?_)⟩ <;> simp only [R.sstCmd, R.tgStatus] <;> omega

/-- The same for an array of two indices. -/
theorem aside_above_grid {f : Field} {b m j : Nat} (h : f.addr = b + m + j) (hb : Nat.blt (R.tgStatus 3) b = true) : aside f = true :=
  aside_above (h.trans (Nat.add_assoc ..)) hb

/-- A field of one of a few units, checked unit by unit. -/
theorem aside_at {F : Nat → Field} {n b : Nat} (hn : n < b) (h : ∀ i < b, aside (F i) = true) : aside (F n) = true := h n hn

theorem aside_apart_run {f : Field} (h : aside f = true) {n : Nat} (hn : n < 4) : Apart f (F.tgStatusRun n) := by
  obtain ⟨-, h⟩ := (aside_iff f).1 h
  unfold Apart
  simp only [F.tgStatusRun, R.tgStatus] at h ⊢
  omega

/-! How the view is read. -/

section
variable {s t : State}

theorem applyView_reg (h : t.applyView = s.applyView) {a : Nat} (h1 : R.sstCmd ≤ a) (h2 : a < R.sstCmd + 0x200) : t.reg a = s.reg a := by
  have h := congrFun (congrArg Prod.fst h) ⟨a - R.sstCmd, by omega⟩
  simp only [State.applyView, Nat.add_sub_cancel' h1] at h
  exact h

theorem applyView_get (h : t.applyView = s.applyView) {f : Field} (h1 : Nat.ble R.sstCmd f.addr = true)
    (h2 : Nat.blt f.addr (R.sstCmd + 0x200) = true) : t.get f = s.get f :=
  State.get_of_reg (applyView_reg h (Nat.le_of_ble_eq_true h1) (Nat.le_of_ble_eq_true h2))

theorem applyView_running (h : t.applyView = s.applyView) {n : Nat} (hn : n < 4) : t.running n = s.running n :=
  congrFun (congrArg (fun v => v.2.1) h) ⟨n, hn⟩

/-- What keeps the structure and touches fields aside alone keeps the view. -/
theorem Frame.applyView {T : List Field} {P : List Part} (h : Frame T P s t) (hT : ∀ f ∈ T, aside f = true) (hP : .sst ∉ P) :
    t.applyView = s.applyView := by
  have hsst : t.sst = s.sst := h.rest .sst hP
  have hrun (n : Fin 4) : t.running n = s.running n := by
    unfold State.running
    rw [on_eq, on_eq, h.get (.ofBits rfl) fun f hf => aside_apart_run (hT f hf) n.isLt]
  have hreg (i : Fin 0x200) : t.reg (R.sstCmd + i) = s.reg (R.sstCmd + i) :=
    h.reg fun f hf e => by
      have := ((aside_iff f).1 (hT f hf)).1
      omega
  unfold State.applyView
  rw [hsst]
  simp only [hrun, hreg]

end

/-! Updates of one piece. -/

section
variable (s : State)

theorem put_applyView {f : Field} (h : aside f = true) (v : Nat) : (s.put f v).applyView = s.applyView :=
  ((Frame.refl [f] [] s).put (by simp)).applyView (by simpa using h) (by simp)

theorem count_applyView {f : Field} (h : aside f = true) (n : Nat) : (s.count f n).applyView = s.applyView := put_applyView s h _

theorem setReg_applyView {a : Nat} (h : aside (whole a) = true) (w : Word) : (s.setReg a w).applyView = s.applyView :=
  ((Frame.refl [whole a] [] s).setReg (by simp)).applyView (by simpa using h) (by simp)

theorem raise_applyView {k : Nat} (h : aside (pendingField k) = true) : (s.raise k).applyView = s.applyView :=
  (raiseF s k).applyView (by simpa using h) (by simp)

theorem raiseIf_applyView {k : Nat} (h : aside (pendingField k) = true) (c : Bool) : (s.raiseIf c k).applyView = s.applyView := by
  unfold State.raiseIf
  split
  · exact raise_applyView s h
  · rfl

/-- The events of the outputs are aside. -/
theorem aside_evOut {n b : Nat} (hn : n < 4) (hb : b < 32) : aside (pendingField (evOut n b)) = true := by
  refine (aside_iff _).2 ⟨.inl ?_, .inl ?_⟩ <;> simp only [pendingField, evOut, R.evtStatus, R.sstCmd, R.tgStatus] <;> omega

/-- A state written out in its fields. -/
theorem mk_applyView {active : List (Nat × Word)} {written landed : List Nat} {high : List (Nat × Word)} {tables : List (Nat × Nat)}
    {hold : HoldState} {host : HostState} {purser : PurserState} {outs : List OutState} {lanes : List LaneState}
    {sidebands : List SbState} {dma : List DmaState} {dmaTurn : Nat} {eddys : List EddyState} {cal : CalState} {otp : OtpState}
    {relief : ReliefState} {power : PowerState} {time : TimeState} {chain : ChainState} {freeCount : Nat} {out : List Out}
    {pending : List Instr} : State.applyView ⟨s.regs, active, written, landed, high, tables, hold, s.sst, host, purser, outs, lanes, sidebands,
      dma, dmaTurn, eddys, cal, otp, relief, power, time, chain, freeCount, out, pending⟩ = s.applyView := rfl

theorem foldl_applyView {α : Type} {g : State → α → State} {l : List α} (h : ∀ t, ∀ x ∈ l, (g t x).applyView = t.applyView) :
    (l.foldl g s).applyView = s.applyView :=
  foldl_inv (fun t : State => t.applyView = s.applyView) g l s rfl fun t x hx ht => (h t x hx).trans ht

end

/-! Records stored for the part itself, and swaps (R404, R412 to R419). -/

section
variable (s : State)

theorem showSeq_applyView (k : Nat) : (s.showSeq k).applyView = s.applyView := put_applyView s (aside_above rfl rfl) _

theorem setCopy_applyView (k ab : Nat) (c : CalCopy) : (s.setCopy k ab c).applyView = s.applyView := rfl

theorem beginStore_applyView : s.beginStore.applyView = s.applyView := by
  have hbusy : (s.put F.calStatusBusy 1).applyView = s.applyView := put_applyView s (by decide) 1
  unfold State.beginStore
  split
  · exact put_applyView s (by decide) 0
  · dsimp only
    split
    · exact hbusy
    · rw [showSeq_applyView, setCopy_applyView, hbusy]

theorem queueStore_applyView {j : StoreJob} (hj : j.origin = .part) : (s.queueStore j).applyView = s.applyView := by
  unfold State.queueStore
  dsimp only
  split
  · unfold State.tellStore
    rw [hj]
    exact put_applyView s (by decide) _
  · split
    · exact beginStore_applyView _
    · rfl

theorem logSwap_applyView (kind result unit row spare cause : Nat) : (s.logSwap kind result unit row spare cause).applyView = s.applyView := by
  unfold State.logSwap
  dsimp only
  rw [queueStore_applyView _ rfl, raiseIf_applyView _ (by decide), raiseIf_applyView _ (by decide), raiseIf_applyView _ (by decide)]
  simp (disch := decide) only [State.puts_cons, State.puts_nil, put_applyView, mk_applyView]

theorem endSwap_applyView {p : PendingSwap} (hp : p.slot = none) (result : Nat) : (s.endSwap p result).applyView = s.applyView := by
  unfold State.endSwap
  rw [hp]
  exact logSwap_applyView _ _ _ _ _ _ _

theorem showRelief_applyView (g : Nat) : (s.showRelief g).applyView = s.applyView := by
  unfold State.showRelief
  refine (foldl_applyView _ fun t i _ => ?_).trans (setReg_applyView s (aside_above rfl rfl) _)
  dsimp only
  split
  · simp (disch := exact aside_above rfl rfl) only [State.puts_cons, State.puts_nil, put_applyView]
  · rfl

theorem idleSwap_applyView {p : PendingSwap} (hp : p.slot = none) : (s.idleSwap p).applyView = s.applyView := by
  unfold State.idleSwap
  split
  · exact endSwap_applyView s hp 0
  · exact (endSwap_applyView _ hp 0).trans (showRelief_applyView _ _)

theorem askLaneSwap_applyView (n cause : Nat) : (s.askLaneSwap n cause none).applyView = s.applyView := by
  unfold State.askLaneSwap
  split
  · rfl
  · dsimp only
    split
    · exact idleSwap_applyView _ rfl
    · rfl

theorem askChainSwap_applyView (p k cause : Nat) (slot : Option Nat) : (s.askChainSwap p k cause slot).applyView = s.applyView := rfl

theorem switchReach_applyView (r k : Nat) : (s.switchReach r k).applyView = s.applyView := by
  unfold State.switchReach
  generalize 64 + k = n
  rw [mk_applyView, State.puts_cons, State.puts_cons, State.puts_cons, State.puts_nil, put_applyView _ (aside_above rfl rfl),
    put_applyView _ (aside_above rfl rfl), put_applyView _ (aside_above rfl rfl)]

theorem makeReachSwap_applyView {p : PendingSwap} (hp : p.slot = none) : (s.makeReachSwap p).applyView = s.applyView := by
  unfold State.makeReachSwap
  rw [endSwap_applyView _ hp, switchReach_applyView]

theorem swapOnFreeze_applyView {p : PendingSwap} (hp : p.slot = none) : (s.swapOnFreeze p).applyView = s.applyView := by
  unfold State.swapOnFreeze
  split
  · rfl
  · exact (raise_applyView _ (by decide)).trans (endSwap_applyView s hp 4)

theorem settleReach_applyView {p : PendingSwap} (hp : p.slot = none) : (s.settleReach p).applyView = s.applyView := by
  unfold State.settleReach
  split
  · rfl
  · split
    · exact swapOnFreeze_applyView s hp
    · exact makeReachSwap_applyView s hp

theorem askReachSwap_applyView (r k cause : Nat) : (s.askReachSwap r k cause none).applyView = s.applyView := by
  unfold State.askReachSwap
  dsimp only
  split
  · exact swapOnFreeze_applyView _ rfl
  · exact settleReach_applyView _ rfl

theorem beginRepair_applyView (r : Repair) (cause : Nat) (slot : Option Nat) : (s.beginRepair r cause slot).applyView = s.applyView :=
  put_applyView s (by decide) 1

theorem nextRepair_applyView : s.nextRepair.applyView = s.applyView := by
  unfold State.nextRepair
  split
  · rfl
  · split
    · rfl
    · split
      · split
        · exact raise_applyView _ (by decide)
        · exact beginRepair_applyView _ _ _ _
      · split
        · exact raise_applyView _ (by decide)
        · exact beginRepair_applyView _ _ _ _

theorem wantRepair_applyView (r : Repair) (cause : Nat) : (s.wantRepair r cause).applyView = s.applyView := by
  unfold State.wantRepair
  split
  · exact nextRepair_applyView _
  · rfl

end

end Sys2Proof.Machine
end

section
/-! An accepted APPLY's parts that belong to no output (R46). -/

open Sys2Proof Sys2Proof.Machine

namespace Sys2Proof.Machine

section
variable (s : State)

/-! Swaps that RELIEF makes automatic (R414). -/

theorem autoSwaps_applyView : s.autoSwaps.applyView = s.applyView := by
  unfold State.autoSwaps
  dsimp only
  rw [foldl_applyView, foldl_applyView, foldl_applyView, foldl_applyView, foldl_applyView]
  · intro t n _
    split
    · rfl
    · exact askLaneSwap_applyView t _ _
  · intro t id _
    split
    · rfl
    · exact askChainSwap_applyView t _ _ _ _
  · intro t n _
    split
    · rfl
    · split
      · rfl
      · exact askReachSwap_applyView t _ _ _
  · intro t b _
    split
    · exact wantRepair_applyView t _ _
    · rfl
  · intro t p _
    split
    · rfl
    · exact wantRepair_applyView t _ _

/-! The role in time (R38, R330). -/

theorem showTimePort_applyView : s.showTimePort.applyView = s.applyView := by
  unfold State.showTimePort
  dsimp only
  split
  · rfl
  · exact put_applyView s (by decide) _

theorem showHoldover_applyView : s.showHoldover.applyView = s.applyView := by
  have hput (b : Nat) : (s.put F.timeStatusHoldover b).applyView = s.applyView := put_applyView s (by decide) b
  unfold State.showHoldover
  dsimp only
  split
  · rw [raiseIf_applyView _ (by decide)]
    exact (put_applyView _ (by decide) 0).trans (hput _)
  · exact hput _

theorem setTime_applyView (f : TimeState → TimeState) : (s.setTime f).applyView = s.applyView := rfl

theorem showRole_applyView : s.showRole.applyView = s.applyView := by
  unfold State.showRole
  dsimp only
  rw [showTimePort_applyView]
  have ht (v : Nat) : (s.put F.timeStatusDisciplined v).applyView = s.applyView := put_applyView s (by decide) v
  by_cases h : s.timeRole = 2 ∨ s.timeRole < 2 ∧ s.timeSource ≠ 0
  · rw [if_pos h, if_pos h, ht]
  · rw [if_neg h, if_neg h, showHoldover_applyView, put_applyView _ (by decide), put_applyView _ (by decide), setTime_applyView, ht]

theorem setLock_applyView {n : Nat} (hn : n < 4) (st : Nat) : (s.setLock n st).applyView = s.applyView := by
  unfold State.setLock
  split
  · rfl
  · exact (raise_applyView _ (aside_evOut hn (by decide))).trans (put_applyView s (aside_at hn (by decide)) st)

theorem holdEpochs_applyView : s.holdEpochs.applyView = s.applyView := by
  unfold State.holdEpochs
  split
  · rfl
  · refine foldl_applyView s fun t n hn => ?_
    split
    · exact setLock_applyView t (List.mem_range.1 hn) 3
    · rfl

theorem takeRole_applyView (l : List Word) : (s.takeRole l).applyView = s.applyView := by
  unfold State.takeRole
  rw [holdEpochs_applyView, showRole_applyView]
  simp (disch := decide) only [State.puts_cons, State.puts_nil, put_applyView]
  rfl

theorem takeGlobal_applyView (ws : List Word) : (s.takeGlobal ws).applyView = s.applyView := by
  unfold State.takeGlobal
  dsimp only
  rw [autoSwaps_applyView, takeRole_applyView]
  rfl

/-! Rights, owners and ferries (R46). -/

theorem landRights_applyView : s.landRights.applyView = s.applyView := rfl

/-- A bit of a bank's owner or ferry register other than bit 0 is no RUN bit, whatever the bank. -/
theorem aside_bank {f : Field} {b m : Nat} (h : f.addr = b + m) (hb : Nat.ble (R.sstCmd + 0x200) b = true) (hf : Nat.blt 0 f.lo = true) :
    aside f = true := by
  have hb := Nat.le_of_ble_eq_true hb
  exact (aside_iff f).2 ⟨.inr (by omega), .inr (.inr (.inr (Nat.le_of_ble_eq_true hf)))⟩

theorem structFerry_applyView (bank target : Nat) : (s.structFerry bank target).applyView = s.applyView := by
  unfold State.structFerry
  split
  · rfl
  · split
    · unfold State.ferryAtOnce
      rw [raise_applyView _ (by decide), put_applyView _ (aside_bank rfl rfl rfl)]
    · unfold State.beginFerry
      rw [mk_applyView, put_applyView _ (aside_bank rfl rfl rfl)]

theorem landBanks_applyView : s.landBanks.applyView = s.applyView := by
  unfold State.landBanks
  refine foldl_applyView s fun t b _ => ?_
  have hu (l : List Nat) (x y : Nat) : (({ t with sst := { t.sst with banksLeft := l } } : State).puts
      [(F.holdOwnerNoBorrow b, x), (F.holdOwnerWinterKeep b, y)]).applyView = t.applyView := by
    rw [State.puts_cons, State.puts_cons, State.puts_nil, put_applyView _ (aside_bank rfl rfl rfl), put_applyView _ (aside_bank rfl rfl rfl)]
    rfl
  dsimp only
  split
  · rfl
  · split
    · exact hu _ _ _
    · rw [structFerry_applyView]
      exact hu _ _ _

end

end Sys2Proof.Machine
end

section
/-! A store into the Hold, with the accesses of other masters that it collides with (R234 to R240, R364, R365). -/

open Sys2Proof Sys2Proof.Machine

namespace Sys2Proof.Machine

/-- A field of one of few units, in a register below the SST block. -/
theorem aside_below {f : Field} {b k m c : Nat} (h : f.addr = b + k * m) (hm : m < c) (hc : Nat.blt (b + k * c) R.sstCmd = true) :
    aside f = true := by
  have hc := Nat.le_of_ble_eq_true hc
  have hle : k * m ≤ k * c := Nat.mul_le_mul_left k hm.le
  refine (aside_iff f).2 ⟨.inl (by omega), .inl ?_⟩
  simp only [R.sstCmd, R.tgStatus] at hc ⊢
  omega

/-- A field of one of few units, in a register between the SST block and the timing generators. -/
theorem aside_between {f : Field} {b k m c : Nat} (h : f.addr = b + k * m) (hm : m < c) (hb : Nat.ble (R.sstCmd + 0x200) b = true)
    (hc : Nat.blt (b + k * c) (R.tgStatus 0) = true) : aside f = true := by
  have hb := Nat.le_of_ble_eq_true hb
  have hc := Nat.le_of_ble_eq_true hc
  have hle : k * m ≤ k * c := Nat.mul_le_mul_left k hm.le
  exact (aside_iff f).2 ⟨.inr (by omega), .inl (by omega)⟩

section
variable (s : State)

/-! Violations (R364, R365). -/

theorem latchCause_applyView {m : Nat} (hm : m < 256) (code addr : Nat) (write : Bool) (src : Nat) :
    (s.latchCause m code addr write src).applyView = s.applyView := by
  unfold State.latchCause
  dsimp only
  rw [count_applyView _ (by decide), put_applyView _ (aside_below rfl hm rfl), put_applyView _ (aside_below rfl hm rfl),
    put_applyView _ (aside_below rfl hm rfl), setReg_applyView (a := R.mstCauseAddrHi m) _ (aside_below rfl hm rfl),
    setReg_applyView (a := R.mstCauseAddrLo m) _ (aside_below rfl hm rfl),
    put_applyView _ (aside_below rfl hm rfl)]

theorem abortCal_applyView (n : Nat) : (s.abortCal n).applyView = s.applyView := by
  unfold State.abortCal
  split
  · rfl
  · unfold State.endCal
    split
    · rfl
    · dsimp only
      split
      · split
        · rfl
        · exact put_applyView _ (aside_above rfl rfl) _
      · unfold State.setTaps
        simp (disch := exact aside_above rfl rfl) only [State.puts_cons, State.puts_nil, put_applyView]
        rfl

theorem abortRoute_applyView (r : Nat) : (s.abortRoute r).applyView = s.applyView := by
  refine foldl_applyView s fun t o _ => ?_
  split
  · exact foldl_applyView t fun u n _ => abortCal_applyView u n
  · rfl

theorem noteStall_applyView (n : Nat) : (s.noteStall n).applyView = s.applyView := rfl

theorem setFrozen_applyView {m : Nat} (hm : m < 256) (b : Bool) : (s.setFrozen m b).applyView = s.applyView := by
  unfold State.setFrozen State.setBit
  have hflags : ((s.put (F.mstFreezeCauseFrozen m) b.toNat).put ⟨R.mstFrozen (m / 32), m % 32, m % 32⟩ b.toNat).applyView = s.applyView := by
    rw [put_applyView _ (aside_below rfl (Nat.div_lt_of_lt_mul hm : m / 32 < 8) rfl), put_applyView _ (aside_below rfl hm rfl)]
  generalize (s.put (F.mstFreezeCauseFrozen m) b.toNat).put ⟨R.mstFrozen (m / 32), m % 32, m % 32⟩ b.toNat = t at hflags ⊢
  rw [← hflags]
  dsimp only
  split_ifs with hdma heddy hport
  · exact put_applyView _ (aside_between rfl (show m - 0x10 < 0x20 by omega) rfl rfl) _
  · exact put_applyView _ (aside_between rfl (show m - 0x08 < 4 by omega) rfl rfl) _
  · exact put_applyView _ (aside_above rfl rfl) _
  · exact (foldl_applyView _ fun u n _ => noteStall_applyView u n).trans (abortRoute_applyView t _)
  · exact noteStall_applyView t _
  · rfl

theorem freezeEvent_aside (m : Nat) : aside (pendingField (freezeEvent m)) = true := by
  unfold freezeEvent
  split_ifs <;> decide

theorem violate_applyView {m : Nat} (hm : m < 256) (code addr : Nat) (write : Bool) (src : Nat) :
    (s.violate m code addr write src).applyView = s.applyView := by
  unfold State.violate
  split
  · split
    · exact put_applyView _ (aside_below rfl hm rfl) _
    · exact (raise_applyView _ (by decide)).trans (latchCause_applyView s hm _ _ _ _)
  · split
    · exact put_applyView _ (aside_below rfl hm rfl) _
    · rw [raise_applyView _ (freezeEvent_aside m), setFrozen_applyView _ hm, latchCause_applyView _ hm]

/-! Single accesses. -/

theorem respond_applyView (a : HoldAccess) (code : Nat) (busy : Bool) (data : List Byte) : (s.respond a code busy data).applyView = s.applyView :=
  (respond_frame (T := aerFields) (P := [.out, .host, .purser]) (Frame.refl _ _ s) (fun _ h => h) (by simp) (by simp) (by simp) a code busy
    data).applyView (by decide) (by simp)

theorem performWrite_applyView (a : HoldAccess) : (s.performWrite a).applyView = s.applyView :=
  (performWrite_frame (T := chaseFields) (P := .hold :: chaseParts) (Frame.refl _ _ s) (by simp) (fun _ h => h)
    (fun _ h => by simp [h]) a).applyView (by decide) (by simp [chaseParts])

theorem setHoldBytes_applyView (a : Nat) (l : List Byte) : (s.setHoldBytes a l).applyView = s.applyView :=
  (setHoldBytes_frame (T := []) (P := [.hold]) (Frame.refl _ _ s) (by simp) a l).applyView (by simp) (by simp)

theorem knowWord_applyView (w : Nat) : (s.knowWord w).applyView = s.applyView :=
  (knowWord_frame (T := []) (P := [.hold]) (Frame.refl _ _ s) (by simp) w).applyView (by simp) (by simp)

theorem setUncorr_applyView (w : Nat) (b : Bool) : (s.setUncorr w b).applyView = s.applyView := rfl

theorem loseWord_applyView (w : Nat) : (s.loseWord w).applyView = s.applyView := by
  unfold State.loseWord
  dsimp only
  rw [setUncorr_applyView, mk_applyView, setHoldBytes_applyView, knowWord_applyView]

theorem noteUncorr_applyView (w : Nat) : (s.noteUncorr w).applyView = s.applyView := by
  unfold State.noteUncorr
  rw [raise_applyView _ (by decide), count_applyView _ (by decide), put_applyView _ (by decide)]

theorem judgeBank_applyView (b cause : Nat) : (s.judgeBank b cause).applyView = s.applyView := by
  unfold State.judgeBank
  split
  · rfl
  · have hworn (l : List Nat) : (({ s with relief := { s.relief with wornBanks := l } } : State).raise 724).applyView = s.applyView :=
      raise_applyView _ (by decide)
    dsimp only
    split
    · exact (raise_applyView _ (by decide)).trans (hworn _)
    · exact (wantRepair_applyView _ _ _).trans (hworn _)

theorem rowWorn_applyView (b r cause : Nat) : (s.rowWorn b r cause).applyView = s.applyView := by
  unfold State.rowWorn
  split
  · rfl
  · have hworn (l : List (Nat × Nat)) : ((({ s with relief := { s.relief with wornRows := l } } : State).raise 724).judgeBank b cause).applyView =
        s.applyView := (judgeBank_applyView _ _ _).trans (raise_applyView _ (by decide))
    dsimp only
    split
    · exact hworn _
    · split
      · exact (raise_applyView _ (by decide)).trans (hworn _)
      · exact (wantRepair_applyView _ _ _).trans (hworn _)

theorem noteCorrected_applyView (w : Nat) : (s.noteCorrected w).applyView = s.applyView := by
  have hcount : (s.count F.holdEccCorrCount 1).applyView = s.applyView := count_applyView s (by decide) 1
  unfold State.noteCorrected
  dsimp only
  split
  · exact (rowWorn_applyView _ _ _ _).trans hcount
  · exact hcount

theorem eccRead_applyView (a : HoldAccess) (ecc : Nat) : (s.eccRead a ecc).1.applyView = s.applyView := by
  have hlost : (if ecc = 2 ∧ !s.hold.uncorr.contains (wordOf a.addr.toNat) then s.loseWord (wordOf a.addr.toNat) else s).applyView =
      s.applyView := by
    split
    · exact loseWord_applyView s _
    · rfl
  unfold State.eccRead
  dsimp only
  generalize (if ecc = 2 ∧ !s.hold.uncorr.contains (wordOf a.addr.toNat) then s.loseWord (wordOf a.addr.toNat) else s) = u at hlost ⊢
  rw [← hlost]
  split
  · exact noteUncorr_applyView u _
  · split
    · exact noteCorrected_applyView u _
    · rfl

theorem performOne_applyView (a : HoldAccess) (ecc : Nat) (busy : Bool) : (s.performOne a ecc busy).applyView = s.applyView := by
  unfold State.performOne
  split
  · rw [respond_applyView, performWrite_applyView]
  · rw [respond_applyView, eccRead_applyView]

theorem peerRead_applyView (before : State) (p : Peer) (first : Bool) : (s.peerRead before p first).applyView = s.applyView := by
  have hread (c : Nat) (b : Bool) (d : List Byte) (n : Nat) :
      (({ (s.eccRead p.acc p.ecc.val).1 with freeCount := n } : State).respond p.acc c b d).applyView = s.applyView :=
    (respond_applyView _ _ _ _ _).trans (eccRead_applyView s _ _)
  unfold State.peerRead
  dsimp only
  split
  · exact hread _ _ _ _
  · exact (performOne_applyView _ _ _ _).trans (hread _ _ _ _)

/-! Runs, and what they collide with (R236). -/

theorem noteCollision_applyView (w earlier : Nat) {later : Nat} (hl : later < 256) :
    (s.noteCollision w earlier later).applyView = s.applyView := by
  rw [noteCollision_eq, raise_applyView _ (by decide)]
  unfold State.collisionNoted State.conflict
  dsimp only
  rw [mk_applyView, count_applyView _ (aside_between rfl hl rfl rfl), put_applyView _ (by decide), put_applyView _ (by decide),
    put_applyView _ (by decide), count_applyView _ (by decide)]

theorem passGate_applyView (p : Peer) : (s.passGate p).1.applyView = s.applyView := by
  have hviolate (code addr : Nat) (write : Bool) : (s.violate p.acc.master.toNat code addr write).applyView = s.applyView :=
    violate_applyView s p.acc.master.isLt _ _ _ _
  unfold State.passGate
  dsimp only
  split
  · rfl
  · split
    · dsimp only
      split
      · exact (respond_applyView _ _ _ _ _).trans (hviolate _ _ _)
      · exact hviolate _ _ _
    · split
      · dsimp only
        split
        · exact respond_applyView _ _ _ _ _
        · rfl
      · rfl

theorem takePeers_applyView (m a n : Nat) (write : Bool) : (s.takePeers m a n write).1.applyView = s.applyView :=
  foldl_inv (fun q : State × List Peer => q.1.applyView = s.applyView) _ _ _ rfl fun q p _ hq => (passGate_applyView q.1 p).trans hq

theorem storeRun_applyView (a : Nat) (l : List Byte) : (s.storeRun a l).applyView = s.applyView := by
  have hchase (t : State) (w : Nat) (hit : Nat → Bool) : (t.chaseWrite w hit).applyView = t.applyView :=
    (chaseWrite_frame (T := chaseFields) (P := chaseParts) (Frame.refl _ _ t) w hit (fun _ h => h) (fun _ h => h)).applyView (by decide)
      (by simp [chaseParts])
  unfold State.storeRun
  dsimp only
  rw [foldl_applyView, setHoldBytes_applyView, foldl_applyView]
  · exact fun t w _ => knowWord_applyView t w
  · intro t w _
    rw [hchase]
    split <;> rfl

theorem writeRun_applyView {m : Nat} (hm : m < 256) (a : Nat) (l : List Byte) : (s.writeRun m a l).applyView = s.applyView := by
  have hnote (t : State) (p : Peer) (e : Bool) : (if e then t.noteCollision (wordOf p.acc.addr.toNat) p.acc.master.toNat m
      else t.noteCollision (wordOf p.acc.addr.toNat) m p.acc.master.toNat).applyView = t.applyView := by
    split
    · exact noteCollision_applyView t _ _ hm
    · exact noteCollision_applyView t _ _ p.acc.master.isLt
  unfold State.writeRun
  dsimp only
  rw [foldl_applyView, foldl_applyView, storeRun_applyView, foldl_applyView, takePeers_applyView]
  · exact fun t p _ => (hnote _ p true).trans (performOne_applyView t _ _ _)
  · exact fun t p _ => (hnote _ p true).trans (peerRead_applyView t _ _ _)
  · intro t p _
    refine (hnote _ p false).trans ?_
    split
    · exact performOne_applyView t _ _ _
    · exact peerRead_applyView t _ _ _

theorem storeAs_applyView {m : Nat} (hm : m < 256) (a : Nat) (l : List Byte) : (s.storeAs m a l).applyView = s.applyView := by
  unfold State.storeAs
  split
  · rfl
  · unfold State.storeNow
    split
    · rfl
    · split
      · rw [violate_applyView _ hm, writeRun_applyView _ hm]
      · exact writeRun_applyView s hm a l

end

end Sys2Proof.Machine
end

section
/-! The Landing of an idle output and its lanes (R48, R163, R188): all of it beside the SST block. -/

open Sys2Proof Sys2Proof.Machine

namespace Sys2Proof.Machine

section
variable (s : State) {n : Nat} (hn : n < 4)

/-! Landed values, timing, the source group, the ladder. -/

theorem landRegs_applyView (l : List Nat) : (s.landRegs l).applyView = s.applyView := foldl_applyView s fun _ _ _ => rfl

theorem setOut_applyView (n : Nat) (f : OutState → OutState) : (s.setOut n f).applyView = s.applyView := rfl

theorem putAct_applyView (f : Field) (v : Nat) : (s.putAct f v).applyView = s.applyView := rfl

theorem copyShadows_applyView (n : Nat) : (s.copyShadows n).applyView = s.applyView := by
  unfold State.copyShadows
  exact landRegs_applyView s _

include hn

theorem timingLand_applyView (edges : Option (Int × Int)) : (s.timingLand n edges).applyView = s.applyView := by
  have hcause (t : State) (v : Nat) : (t.put (F.tgStatusModeCause n) v).applyView = t.applyView := put_applyView t (aside_at hn (by decide)) v
  unfold State.timingLand
  extract_lets t old meets cause waits
  split
  · rfl
  · split
    · exact (raise_applyView _ (aside_evOut hn (by decide))).trans (hcause s _)
    · split
      · rfl
      · exact (hcause _ 0).trans (landRegs_applyView s _)

theorem showClamped_applyView : (s.showClamped n).applyView = s.applyView := put_applyView s (aside_at hn (by decide)) _

/-! SCN's registers lie above the timing generators'. -/

theorem makeCurrent_applyView (k : Nat) : (s.makeCurrent n k).applyView = s.applyView := by
  have hslots (old : Nat) : ((((s.put (F.scnSlotCtrlCurrent n old) 0).put (F.scnSlotCtrlCurrent n k) 1).put (F.scnSlotCtrlReady n k) 0).put
      (F.scnSrcStatusCurSlot n) k).applyView = s.applyView := by
    rw [put_applyView _ (aside_above rfl rfl), put_applyView _ (aside_above_grid rfl rfl), put_applyView _ (aside_above_grid rfl rfl),
      put_applyView _ (aside_above_grid rfl rfl)]
  unfold State.makeCurrent
  dsimp only
  rw [raiseIf_applyView _ (aside_evOut hn (by decide))]
  split
  · exact (count_applyView _ (aside_above rfl rfl) 1).trans (hslots _)
  · exact hslots _

theorem slotZero_applyView : (s.slotZero n).applyView = s.applyView := by
  unfold State.slotZero
  split
  · rfl
  · exact makeCurrent_applyView s hn 0

theorem sourceLand_applyView (idle : Bool) : (s.sourceLand n idle).applyView = s.applyView := by
  have hcause (t : State) (v : Nat) : (t.put (F.scnSrcStatusCause n) v).applyView = t.applyView := put_applyView t (aside_above rfl rfl) v
  have hlands (l : List Nat) (f : OutState → OutState) : (((s.landRegs l).put (F.scnSrcStatusCause n) 0).setOut n f).applyView = s.applyView :=
    (hcause _ 0).trans (landRegs_applyView s l)
  unfold State.sourceLand
  extract_lets count cur stays slots cause t u
  have hu : u.applyView = s.applyView := by
    unfold u
    split
    · exact (put_applyView _ (aside_above rfl rfl) 0).trans (hlands _ _)
    · exact hlands _ _
  split
  · exact (raise_applyView _ (aside_evOut hn (by decide))).trans (hcause s _)
  · split
    · exact (slotZero_applyView u hn).trans hu
    · exact hu

theorem ladderLand_applyView : (s.ladderLand n).applyView = s.applyView := by
  have hcause (t : State) (v : Nat) : (t.put (F.scnLadderStatusCause n) v).applyView = t.applyView := put_applyView t (aside_above rfl rfl) v
  unfold State.ladderLand
  extract_lets cause t
  have ht : t.applyView = s.applyView := (hcause _ 0).trans (landRegs_applyView s _)
  split
  · exact (raise_applyView _ (aside_evOut hn (by decide))).trans (hcause s _)
  · split
    · rw [setOut_applyView, State.puts_cons, State.puts_cons, State.puts_nil, put_applyView _ (aside_above rfl rfl),
        put_applyView _ (aside_above rfl rfl), ht]
    · exact ht

omit hn in
theorem idleRung_applyView (n : Nat) : (s.idleRung n).applyView = s.applyView := put_applyView s (aside_above rfl rfl) _

/-! The stages. -/

theorem scalLand_applyView : (s.scalLand n).applyView = s.applyView := by
  unfold State.scalLand
  extract_lets c hs vs clampStep x y w h adjusted t
  split
  · rfl
  · rw [raiseIf_applyView _ (aside_evOut hn (by decide)), State.puts_cons, State.puts_cons, State.puts_nil,
      put_applyView _ (aside_above rfl rfl), put_applyView _ (aside_above rfl rfl)]
    rfl

omit hn in
theorem colrLand_applyView (n : Nat) : (s.colrLand n).applyView = s.applyView := by
  unfold State.colrLand
  split
  · exact put_applyView s (aside_above rfl rfl) _
  · rfl

theorem dualLand_applyView (total : Nat) : (s.dualLand n total).applyView = s.applyView := by
  unfold State.dualLand
  extract_lets c want rows e
  split
  · rfl
  · rw [raiseIf_applyView _ (aside_evOut hn (by decide))]
    simp (disch := exact aside_above rfl rfl) only [State.puts_cons, State.puts_nil, put_applyView]

theorem dualFieldLand_applyView : (s.dualFieldLand n).applyView = s.applyView := by
  unfold State.dualFieldLand
  split
  · rfl
  · split
    · rfl
    · exact raise_applyView s (aside_evOut hn (by decide))

theorem mapAddrLand_applyView (field : Bool) : (s.mapAddrLand n field).applyView = s.applyView := by
  unfold State.mapAddrLand
  extract_lets f
  split
  · rfl
  · split
    · rfl
    · split
      · rfl
      · exact raise_applyView s (aside_evOut hn (by decide))

theorem mapRasterLand_applyView (field : Bool) : (s.mapRasterLand n field).applyView = s.applyView := by
  have hvalid : (s.put (mapValidF n field) 0).applyView = s.applyView := by
    cases field <;> exact put_applyView s (aside_above rfl rfl) 0
  unfold State.mapRasterLand
  extract_lets m
  split
  · exact (raise_applyView _ (aside_evOut hn (by decide))).trans hvalid
  · rfl

omit hn in
theorem showApplied_applyView (n : Nat) (field : Bool) : (s.showApplied n field).applyView = s.applyView := by
  cases field <;> exact put_applyView s (aside_above rfl rfl) _

theorem unifLand_applyView : (s.unifLand n).applyView = s.applyView := by
  unfold State.unifLand
  split
  · rfl
  · rw [showApplied_applyView, showApplied_applyView, mapRasterLand_applyView _ hn, mapRasterLand_applyView _ hn, mapAddrLand_applyView _ hn,
      mapAddrLand_applyView _ hn]

omit hn in
theorem stageReaches_lt (n type : Nat) : ∀ r ∈ s.stageReaches n type, r < 64 := by
  unfold State.stageReaches
  split
  · next st hst =>
    obtain ⟨k, -, rfl⟩ := List.mem_map.1 (List.mem_of_find?_eq_some hst)
    exact fun r hr => List.mem_range.1 (List.mem_filter.1 hr).1
  · simp

omit hn in
theorem wearMaster_lt (n : Nat) : s.wearMaster n < 256 := by
  have hreach : (s.stageReaches n 6).headD 0 < 64 := by
    cases h : s.stageReaches n 6 with
    | nil => decide
    | cons r l => exact stageReaches_lt s n 6 r (by simp [h])
  unfold State.wearMaster
  omega

omit hn in
theorem genEntries_applyView (n : Nat) : (s.genEntries n).applyView = s.applyView := by
  unfold State.genEntries
  split
  · rfl
  · split
    · rfl
    · exact foldl_applyView s fun t e _ => storeAs_applyView t (wearMaster_lt s n) _ _

omit hn in
theorem genStart_applyView (n : Nat) : (s.genStart n).applyView = s.applyView := by
  unfold State.genStart
  extract_lets base g head index
  split
  · rfl
  · exact (put_applyView _ (aside_above rfl rfl) 0).trans (storeAs_applyView s (wearMaster_lt s n) _ _)

omit hn in
theorem wearLand_applyView (n : Nat) : (s.wearLand n).applyView = s.applyView := by
  unfold State.wearLand
  extract_lets ch wants off s0 s1
  have hs0 : s0.applyView = s.applyView := by
    unfold s0
    split <;> rfl
  split
  · rfl
  · unfold s1
    rw [genStart_applyView, genEntries_applyView, State.puts_cons, State.puts_cons, State.puts_nil, put_applyView _ (aside_above rfl rfl),
      put_applyView _ (aside_above rfl rfl), hs0]

theorem bandsLand_applyView : (s.bandsLand n).applyView = s.applyView := by
  unfold State.bandsLand
  split
  · rfl
  · split
    · exact foldl_applyView s fun _ _ _ => rfl
    · exact raise_applyView s (aside_evOut hn (by decide))

theorem histLand_applyView (modeChanged : Bool) : (s.histLand n modeChanged).applyView = s.applyView := by
  unfold State.histLand
  extract_lets mode used differs stride ok t
  have ht : t.applyView = s.applyView := by
    refine foldl_applyView s fun u k _ => ?_
    dsimp only
    split <;> rfl
  split
  · rfl
  · split
    · rfl
    · split
      · split
        · exact ht
        · exact (put_applyView _ (aside_above rfl rfl) 0).trans ht
      · split
        · rfl
        · exact raise_applyView _ (aside_evOut hn (by decide))

theorem odrvLand_applyView (wasOn : Bool) (wasMode : Nat) (raster thawed : Bool) :
    (s.odrvLand n wasOn wasMode raster thawed).applyView = s.applyView := by
  unfold State.odrvLand
  extract_lets modeChanged fresh s1 s2
  have hs1 : s1.applyView = s.applyView := (histLand_applyView _ hn _).trans (bandsLand_applyView s hn)
  split
  · rfl
  · refine (put_applyView _ (aside_above rfl rfl) _).trans ?_
    unfold s2
    split
    · exact (put_applyView _ (aside_above rfl rfl) 0).trans hs1
    · exact hs1

omit hn in
theorem holdChannels_applyView : s.holdChannels.applyView = s.applyView := by
  refine foldl_applyView s fun t ch hch => ?_
  have hheld (v : Nat) : (t.put (F.dmaStatusHeld ch) v).applyView = t.applyView :=
    put_applyView t (aside_between rfl (List.mem_range.1 hch) rfl rfl) v
  unfold State.holdChannel
  split
  · split
    · exact hheld 1
    · rfl
  · exact hheld 0

theorem stagesLand_applyView (s0 : State) (thawed : Bool) : (s.stagesLand s0 n thawed).applyView = s.applyView := by
  unfold State.stagesLand
  extract_lets raster t u v
  have ht : t.applyView = s.applyView := by
    unfold t
    rw [dualLand_applyView _ hn, dualFieldLand_applyView _ hn, colrLand_applyView, scalLand_applyView _ hn]
  have hu : u.applyView = t.applyView := by
    unfold u
    rw [odrvLand_applyView _ hn, wearLand_applyView, unifLand_applyView _ hn]
  rw [holdChannels_applyView]
  unfold v
  split
  · exact (put_applyView u (aside_above rfl rfl) _).trans (hu.trans ht)
  · exact hu.trans ht

theorem landAll_applyView (edges : Option (Int × Int)) : (s.landAll n edges).applyView = s.applyView := by
  unfold State.landAll
  extract_lets t u thawed
  have ht : t.applyView = s.applyView := by
    unfold t
    rw [showClamped_applyView _ hn, timingLand_applyView _ hn, copyShadows_applyView]
  have hu : u.applyView = s.applyView := by
    unfold u
    rw [ladderLand_applyView _ hn, sourceLand_applyView _ hn, ht]
  rw [setOut_applyView, stagesLand_applyView _ hn]
  split
  · exact (idleRung_applyView u n).trans hu
  · exact hu

/-! The lanes' roles. -/

omit hn in
theorem showRoles_applyView (o : Nat) : (s.showRoles o).applyView = s.applyView := by
  refine foldl_applyView s fun t l _ => ?_
  split
  · simp (disch := exact aside_above rfl rfl) only [State.puts_cons, State.puts_nil, put_applyView]
  · split
    · exact (setReg_applyView _ (aside_above rfl rfl) 0).trans (setReg_applyView _ (aside_above rfl rfl) 0)
    · rfl

end

end Sys2Proof.Machine
end

section
/-! What an accepted APPLY gives an output before it lands (R46, R48): stages cleared, timing loaded, reaches shown. -/

open Sys2Proof Sys2Proof.Machine

namespace Sys2Proof.Machine

section
variable (s : State)

/-- What keeps the structure and every register below the stages' keeps the view. -/
theorem applyView_of_low {s t : State} (h : ∀ a < 0x4000000, t.reg a = s.reg a) (hsst : t.sst = s.sst) : t.applyView = s.applyView := by
  have hrun (n : Fin 4) : t.running n = s.running n := by
    unfold State.running
    rw [on_eq, on_eq, State.get_of_reg (h _ _)]
    simp only [F.tgStatusRun, R.tgStatus]
    omega
  have hreg (i : Fin 0x200) : t.reg (R.sstCmd + i) = s.reg (R.sstCmd + i) := h _ (by simp only [R.sstCmd]; omega)
  unfold State.applyView
  rw [hsst]
  simp only [hrun, hreg]

theorem clearStage_reg (n type : Nat) {a : Nat} (ha : a < 0x4000000) : (s.clearStage n type).reg a = s.reg a := by
  have hkey : stageKey n type a = false := by
    simp only [stageKey, Bool.and_eq_false_iff, decide_eq_false_iff_not]
    omega
  have hregs : (s.forgetStage n type).regs = s.regs := by
    unfold State.forgetStage
    split
    · rfl
    · split <;> rfl
  unfold State.clearStage State.reg
  dsimp only
  rw [sparseGet_filter_other _ _ _ _ (by simp [hkey]), hregs]

theorem clearStage_applyView (n type : Nat) : (s.clearStage n type).applyView = s.applyView := by
  refine applyView_of_low (fun a ha => clearStage_reg s n type ha) ?_
  show (s.forgetStage n type).sst = s.sst
  unfold State.forgetStage
  split
  · rfl
  · split <;> rfl

theorem introStage_applyView (n type : Nat) (c : OutConfig) : (s.introStage n type c).applyView = s.applyView := by
  unfold State.introStage
  extract_lets t
  split
  · rw [putAct_applyView, putAct_applyView, State.puts_cons, State.puts_cons, State.puts_nil, put_applyView _ (aside_above rfl rfl),
      put_applyView _ (aside_above rfl rfl)]
    exact clearStage_applyView s n type
  · exact clearStage_applyView s n type

theorem loadTiming_applyView {n : Nat} (hn : n < 4) (c : OutConfig) : (s.loadTiming n c).applyView = s.applyView := by
  unfold State.loadTiming
  simp (disch := exact aside_at hn (by decide)) only [State.puts_cons, State.puts_nil, put_applyView]

theorem introOutput_applyView {n : Nat} (hn : n < 4) (new : OutConfig) : (s.introOutput n new).applyView = s.applyView := by
  unfold State.introOutput
  extract_lets old t u
  have ht : t.applyView = s.applyView := by
    refine foldl_applyView s fun v ty _ => ?_
    split
    · exact introStage_applyView v n ty new
    · rfl
  have hu : u.applyView = s.applyView := (loadTiming_applyView t hn new).trans ht
  split
  · exact ht
  · split
    · exact hu
    · simp (disch := exact aside_at hn (by decide)) only [State.puts_cons, State.puts_nil, put_applyView, hu]

theorem showReaches_applyView : s.showReaches.applyView = s.applyView := by
  refine foldl_applyView s fun t r _ => ?_
  split
  · simp (disch := exact aside_above rfl rfl) only [State.puts_cons, State.puts_nil, put_applyView]
  · exact setReg_applyView t (aside_above rfl rfl) 0

theorem applyGo_applyView {n : Nat} (hn : n < 4) (late : Bool) : (s.applyGo n late).applyView = s.applyView := by
  have hgo : (s.put (F.tgLandGo n) 1).applyView = s.applyView := put_applyView s (aside_at hn (by decide)) 1
  unfold State.applyGo
  dsimp only
  split
  · exact (raise_applyView _ (aside_evOut hn (by decide))).trans ((count_applyView _ (aside_at hn (by decide)) 1).trans hgo)
  · exact hgo

end

end Sys2Proof.Machine
end

section
/-! An APPLY's acceptance and its end (R45 to R50): what is left to land, and the slot that becomes ACTIVE. -/

open Sys2Proof Sys2Proof.Machine

namespace Sys2Proof.Machine

/-! SST_STATUS, the outputs that run, the command and APPLY_HOLD stay through the whole of an acceptance. -/

/-- SST_STATUS, the RUN bits, the SST command under way and APPLY_HOLD. -/
def State.statusView (s : State) : Word × (Fin 4 → Bool) × Option SstRun × Bool := (s.reg R.sstStatus, s.applyView.2)

theorem statusView_of {s t : State} (h : t.applyView = s.applyView) : t.statusView = s.statusView := by
  unfold State.statusView
  rw [h, applyView_reg h (by decide) (by decide)]

theorem statusView_get {s t : State} (h : t.statusView = s.statusView) {f : Field} (hf : f.addr = R.sstStatus) : t.get f = s.get f :=
  State.get_of_reg (hf ▸ congrArg Prod.fst h)

theorem statusView_running {s t : State} (h : t.statusView = s.statusView) {n : Nat} (hn : n < 4) : t.running n = s.running n :=
  congrFun (congrArg (fun v => v.2.1) h) ⟨n, hn⟩

/-- A field below the timing generators, in another register than SST_STATUS, set. -/
theorem put_statusView (s : State) {f : Field} (h1 : f.addr ≠ R.sstStatus) (h2 : f.addr < R.tgStatus 0) (v : Nat) :
    (s.put f v).statusView = s.statusView := by
  have hrun (n : Fin 4) : (s.put f v).running n = s.running n := by
    unfold State.running
    rw [on_eq, on_eq, State.get_put_other _ (.inl _) (.ofBits rfl)]
    simp only [F.tgStatusRun, R.tgStatus] at h2 ⊢
    omega
  unfold State.statusView State.applyView
  rw [State.reg_put_other _ h1.symm]
  simp only [hrun, State.put_sst]

theorem puts_statusView (s : State) {l : List (Field × Nat)} (h : ∀ p ∈ l, p.1.addr ≠ R.sstStatus ∧ p.1.addr < R.tgStatus 0) :
    (s.puts l).statusView = s.statusView := by
  induction l generalizing s with
  | nil => rfl
  | cons p l ih =>
    obtain ⟨h1, h2⟩ := h p (List.mem_cons_self ..)
    rw [State.puts_cons, ih _ fun q hq => h q (List.mem_cons_of_mem _ hq), put_statusView s h1 h2]

/-! How far an APPLY has come. -/

/-- The APPLY of a slot under way: PENDING, so many outputs left. -/
def State.PendingAt (s : State) (slot left : Nat) : Prop :=
  s.get F.sstPendingPending = 1 ∧ s.get F.sstPendingSlot = slot ∧ s.get F.sstPendingOutputsLeft = left ∧ s.slotSt slot = 4

/-- The APPLY of a slot complete: ACTIVE. -/
def State.ActiveAt (s : State) (slot : Nat) : Prop :=
  s.get F.sstPendingPending = 0 ∧ s.get F.sstActiveSlot = slot ∧ s.slotSt slot = 5

/-- The APPLY of a slot with so many outputs left, complete already or not when none is. -/
def State.ApplyAt (s : State) (slot left : Nat) : Prop := s.PendingAt slot left ∨ (left = 0 ∧ s.ActiveAt slot)

section
variable {s t : State} {slot : Nat} (hs : slot < 4)
include hs

theorem slotState_addr : Nat.ble R.sstCmd (F.sstslotStateState slot).addr = true ∧
    Nat.blt (F.sstslotStateState slot).addr (R.sstCmd + 0x200) = true := by
  revert slot
  decide

theorem applyAt_of {left : Nat} (h : t.applyView = s.applyView) (ha : s.ApplyAt slot left) : t.ApplyAt slot left := by
  have hst : t.slotSt slot = s.slotSt slot := applyView_get h (slotState_addr hs).1 (slotState_addr hs).2
  unfold State.ApplyAt State.PendingAt State.ActiveAt at *
  rwa [hst, applyView_get h rfl rfl, applyView_get h rfl rfl, applyView_get h rfl rfl, applyView_get h rfl rfl]

end

/-- A field below the slots' registers. -/
theorem before_slotState {f : Field} (hf : Nat.blt f.addr (R.sstslotState 0) = true) {k : Nat} : Apart f (F.sstslotStateState k) := by
  have hf := Nat.le_of_ble_eq_true hf
  exact .inl (by simp only [F.sstslotStateState, R.sstslotState] at hf ⊢; omega)

/-- The registers of a completed APPLY. -/
def State.activated (s : State) (k : Nat) (seq : Nat) : State :=
  (s.puts [(F.sstPendingPending, 0), (F.sstPendingSlot, 0), (F.sstslotStateState k, 5), (F.sstActiveSlot, k), (F.sstActiveBoot, 0),
    (F.sstActiveNull, 0), (F.sstActiveSeqSeq, seq)]).raise 242

section
variable (s : State) {k : Nat}

theorem activated_active (hk : k < 4) (seq : Nat) : (s.activated k seq).ActiveAt k := by
  have hraise (t : State) {f : Field} (hw : InWord f) (hf : Nat.ble R.sstCmd f.addr = true) : (t.raise 242).get f = t.get f := by
    have hf := Nat.le_of_ble_eq_true hf
    exact raise_get t 242 hw (.inl (by simp only [pendingField, R.evtStatus, R.sstCmd] at hf ⊢; omega))
  have hslot : Nat.ble R.sstCmd (F.sstslotStateState k).addr = true := (slotState_addr hk).1
  unfold State.ActiveAt State.slotSt State.activated
  rw [hraise _ (.ofBits rfl) rfl, hraise _ (.ofBits rfl) rfl, hraise _ (.ofBits rfl) hslot]
  simp (disch := first | exact .ofBits rfl | exact .ofRegs rfl | exact before_slotState rfl | exact (before_slotState rfl).symm) only
    [State.puts_cons, State.puts_nil, State.get_put_same, State.get_put_other]
  exact ⟨rfl, Nat.mod_eq_of_lt hk, rfl⟩

theorem raise_statusView {n : Nat} (h : aside (pendingField n) = true) : (s.raise n).statusView = s.statusView :=
  statusView_of (raise_applyView s h)

theorem activated_statusView (hk : k < 4) (seq : Nat) : (s.activated k seq).statusView = s.statusView := by
  unfold State.activated
  rw [raise_statusView _ (by decide), puts_statusView]
  have h : ∀ k < 4, ∀ f ∈ [F.sstPendingPending, F.sstPendingSlot, F.sstslotStateState k, F.sstActiveSlot, F.sstActiveBoot, F.sstActiveNull,
    F.sstActiveSeqSeq], f.addr ≠ R.sstStatus ∧ f.addr < R.tgStatus 0 := by decide
  exact fun p hp => h k hk p.1 (List.mem_map_of_mem (f := Prod.fst) hp)

end

/-! The end of an APPLY (R50). -/

section
variable {s : State} {slot left : Nat}

theorem completeApply_waits (h : s.PendingAt slot left) (hl : left ≠ 0) : s.completeApply = s := by
  obtain ⟨-, -, hleft, -⟩ := h
  unfold State.completeApply
  rw [if_neg (by simp [hleft, hl])]

theorem completeApply_over (h : s.ActiveAt slot) : s.completeApply = s := by
  obtain ⟨hp, -, -⟩ := h
  unfold State.completeApply State.applyPending
  rw [on_off s _ hp]
  rfl

/-- The slot that was ACTIVE before empties, if a slot was. -/
def State.activeEmptied (s : State) : State :=
  if s.on F.sstActiveBoot ∨ s.on F.sstActiveNull ∨ s.get (F.sstslotStateState (s.get F.sstActiveSlot)) ≠ 5 then s
  else ({ (s.put (F.sstslotStateState (s.get F.sstActiveSlot)) 0) with
    sst := { s.sst with slots := updAt s.sst.slots (s.get F.sstActiveSlot) fun _ => [] } }).raise 243

theorem activeEmptied_statusView (s : State) : s.activeEmptied.statusView = s.statusView := by
  have hold : s.get F.sstActiveSlot < 4 := State.get_lt s F.sstActiveSlot
  unfold State.activeEmptied
  split
  · rfl
  · refine (raise_statusView _ (by decide)).trans ?_
    show (s.put _ 0).statusView = _
    exact put_statusView s (by simp only [F.sstslotStateState, R.sstslotState, R.sstStatus]; omega)
      (by simp only [F.sstslotStateState, R.sstslotState, R.tgStatus]; omega) 0

theorem completeApply_ends (h : s.PendingAt slot 0) :
    s.completeApply = s.activeEmptied.activated slot (s.get (F.sstslotSeqSeq slot)) := by
  obtain ⟨hp, hslot, hleft, -⟩ := h
  unfold State.completeApply State.applyPending
  rw [on_of s _ hp, hleft, hslot]
  rfl

theorem completeApply_spec (hs : slot < 4) (h : s.ApplyAt slot left) :
    s.completeApply.statusView = s.statusView ∧ s.completeApply.ApplyAt slot left ∧ (left = 0 → s.completeApply.ActiveAt slot) := by
  rcases h with h | ⟨rfl, h⟩
  · rcases Nat.eq_zero_or_pos left with rfl | hl
    · have hactive := activated_active s.activeEmptied hs (s.get (F.sstslotSeqSeq slot))
      rw [completeApply_ends h]
      exact ⟨(activated_statusView _ hs _).trans (activeEmptied_statusView s), .inr ⟨rfl, hactive⟩, fun _ => hactive⟩
    · rw [completeApply_waits h hl.ne']
      exact ⟨rfl, .inl h, fun e => absurd e hl.ne'⟩
  · rw [completeApply_over h]
    exact ⟨rfl, .inr ⟨rfl, h⟩, fun _ => h⟩

end

/-! An output takes its structure (R48). -/

/-- The outputs left once output n has taken its structure. -/
def leftWithout (left n : Nat) : Nat := left - left / 2 ^ n % 2 * 2 ^ n

section
variable {s : State} {slot left : Nat}

/-- The outputs left set, in an APPLY under way or over. -/
theorem putLeft_spec (h : s.ApplyAt slot left) (n : Nat) :
    (s.put F.sstPendingOutputsLeft (leftWithout (s.get F.sstPendingOutputsLeft) n)).ApplyAt slot (leftWithout left n) := by
  have hget (v : Nat) {f : Field} (hw : InWord f) (hf : Apart F.sstPendingOutputsLeft f) : (s.put F.sstPendingOutputsLeft v).get f = s.get f :=
    State.get_put_other s hf hw v
  have hslot (v : Nat) : (s.put F.sstPendingOutputsLeft v).slotSt slot = s.slotSt slot :=
    hget v (.ofBits rfl) (before_slotState rfl)
  rcases h with ⟨hp, hsl, hleft, hst⟩ | ⟨rfl, hp, hsl, hst⟩
  · have hlt : left < 16 := hleft ▸ State.get_lt s F.sstPendingOutputsLeft
    refine .inl ⟨(hget _ (.ofBits rfl) (.ofBits rfl)).trans hp, (hget _ (.ofBits rfl) (.ofBits rfl)).trans hsl, ?_, (hslot _).trans hst⟩
    rw [State.get_put_same _ (.ofBits rfl), hleft]
    exact Nat.mod_eq_of_lt ((Nat.sub_le ..).trans_lt hlt)
  · exact .inr ⟨by simp [leftWithout], (hget _ (.ofBits rfl) (.ofBits rfl)).trans hp, (hget _ (.ofBits rfl) (.ofRegs rfl)).trans hsl,
      (hslot _).trans hst⟩

theorem installOut_spec (hs : slot < 4) (h : s.ApplyAt slot left) (n : Nat) :
    (s.installOut n).statusView = s.statusView ∧ (s.installOut n).ApplyAt slot (leftWithout left n) := by
  unfold State.installOut
  extract_lets new old s1 x src s2
  have h1 : s1.applyView = s.applyView := by
    refine foldl_applyView s fun t ty _ => ?_
    split
    · exact clearStage_applyView t n ty
    · rfl
  have houts : ({ s1 with sst := { s1.sst with outs := updAt s1.sst.outs n fun _ => new } } : State).applyView = s.applyView := h1
  have h2 : s2.ApplyAt slot (leftWithout left n) := putLeft_spec (applyAt_of hs houts h) n
  have hstatus2 : s2.statusView = s.statusView := (put_statusView _ (by decide) (by decide) _).trans (statusView_of houts)
  have h3 : (s2.landRights).landBanks.showReaches.applyView = s2.applyView := by
    rw [showReaches_applyView, landBanks_applyView, landRights_applyView]
  obtain ⟨hstatus, hat, -⟩ := completeApply_spec hs (applyAt_of hs h3 h2)
  exact ⟨hstatus.trans ((statusView_of h3).trans hstatus2), hat⟩

end

end Sys2Proof.Machine
end

section
/-! APPLY (R41, R45, R46, R50): from the acceptance to the slot PENDING or ACTIVE. -/

open Sys2Proof Sys2Proof.Machine

namespace Sys2Proof.Machine

/-! The outputs left. -/

/-- The outputs left once the idle ones of a list have taken their structure. -/
def leftAfter (runs : Nat → Bool) (l : List Nat) (left : Nat) : Nat :=
  l.foldl (fun x n => if runs n then x else leftWithout x n) left

theorem leftWithout_bits : ∀ x < 16, ∀ n < 4, leftWithout x n < 16 ∧
    ∀ m < 4, (leftWithout x n).testBit m = (x.testBit m && decide (m ≠ n)) := by
  decide

theorem leftAfter_bits (runs : Nat → Bool) {l : List Nat} (hl : ∀ n ∈ l, n < 4) {left : Nat} (hleft : left < 16) :
    leftAfter runs l left < 16 ∧ ∀ m < 4, (leftAfter runs l left).testBit m = (left.testBit m && (runs m || decide (m ∉ l))) := by
  induction l generalizing left with
  | nil => exact ⟨hleft, fun m _ => by simp [leftAfter]⟩
  | cons n l ih =>
    have hl' : ∀ n ∈ l, n < 4 := fun k hk => hl k (List.mem_cons_of_mem _ hk)
    obtain ⟨hlt, hbits⟩ := leftWithout_bits left hleft n (hl n (List.mem_cons_self ..))
    unfold leftAfter
    rw [List.foldl_cons]
    by_cases hr : runs n = true
    · rw [if_pos hr]
      refine ⟨(ih hl' hleft).1, fun m hm => ((ih hl' hleft).2 m hm).trans ?_⟩
      by_cases hmn : m = n
      · simp [hmn, hr]
      · simp [hmn]
    · rw [if_neg hr]
      refine ⟨(ih hl' hlt).1, fun m hm => ((ih hl' hlt).2 m hm).trans ?_⟩
      rw [hbits m hm]
      by_cases hmn : m = n
      · simp [hmn, hr]
      · simp [hmn]

theorem mem_setBits {n v m : Nat} : m ∈ setBits n v ↔ m < n ∧ v.testBit m = true := by
  rw [setBits, List.mem_filter, List.mem_range]

/-- Of the outputs targeted those that run are left. -/
theorem leftAfter_targets (runs : Nat → Bool) {mask : Nat} (h : mask < 16) {m : Nat} (hm : m < 4) :
    (leftAfter runs (setBits 4 mask) mask).testBit m = (mask.testBit m && runs m) := by
  rw [(leftAfter_bits runs (fun n hn => (mem_setBits.1 hn).1) h).2 m hm]
  cases hb : mask.testBit m <;> simp [mem_setBits, hb, hm]

theorem eq_zero_of_bits : ∀ x < 16, (∀ m < 4, x.testBit m = false) → x = 0 := by decide

/-! The idle outputs take their structure at once. -/

/-- A targeted output at an acceptance: an idle one takes its structure and lands. -/
def State.landIdle (s : State) (n : Nat) : State := if s.running n then s else ((s.installOut n).landAll n none).showRoles n

section
variable {s : State} {slot left : Nat}

theorem landIdle_spec (hs : slot < 4) (h : s.ApplyAt slot left) {n : Nat} (hn : n < 4) :
    (s.landIdle n).statusView = s.statusView ∧ (s.landIdle n).ApplyAt slot (if s.running n then left else leftWithout left n) := by
  unfold State.landIdle
  split
  · exact ⟨rfl, h⟩
  · obtain ⟨hstatus, hat⟩ := installOut_spec hs h n
    have hland : (((s.installOut n).landAll n none).showRoles n).applyView = (s.installOut n).applyView := by
      rw [showRoles_applyView, landAll_applyView _ hn]
    exact ⟨(statusView_of hland).trans hstatus, applyAt_of hs hland hat⟩

theorem landIdles_spec (hs : slot < 4) {l : List Nat} (hl : ∀ n ∈ l, n < 4) (h : s.ApplyAt slot left) :
    (l.foldl State.landIdle s).statusView = s.statusView ∧ (l.foldl State.landIdle s).ApplyAt slot (leftAfter s.running l left) := by
  induction l generalizing s left with
  | nil => exact ⟨rfl, h⟩
  | cons n l ih =>
    have hl' : ∀ n ∈ l, n < 4 := fun k hk => hl k (List.mem_cons_of_mem _ hk)
    obtain ⟨hstatus, hat⟩ := landIdle_spec hs h (hl n (List.mem_cons_self ..))
    obtain ⟨hstatus', hat'⟩ := ih hl' hat
    refine ⟨hstatus'.trans hstatus, ?_⟩
    have hruns (x : Nat) : leftAfter (s.landIdle n).running l x = leftAfter s.running l x :=
      List.foldl_ext _ _ _ fun y m hm => by rw [statusView_running hstatus (hl' m hm)]
    rw [hruns] at hat'
    exact hat'

end

/-! The acceptance. -/

/-- What an acceptance sets of the slot and of SST_PENDING. -/
def acceptPuts (k mask : Nat) : List (Field × Nat) :=
  [(F.sstslotStateState k, 4), (F.sstslotStateCode k, 0), (F.sstslotErrOffsetWord k, 0), (F.sstPendingPending, 1),
    (F.sstPendingSlot, k), (F.sstPendingOutputsLeft, mask)]

/-- An APPLY accepted, its parts not yet in force: the slot PENDING, the command over. -/
def State.applyNoted (s : State) (k mask : Nat) : State := (s.puts (acceptPuts k mask)).sstEnd 0

theorem applyNoted_eq (s : State) (k mask : Nat) : s.applyNoted k mask = (s.puts (acceptPuts k mask)).sstOver 0 := sstEnd_ok _

/-- The same with APPLY_HOLD kept and every bank's owner due. -/
def State.applyBegun (s : State) (k mask : Nat) (hold : Bool) : State :=
  { s.applyNoted k mask with sst := { (s.applyNoted k mask).sst with applyHold := hold, banksLeft := List.range 256 } }

theorem applyBegun_get (s : State) (k mask : Nat) (hold : Bool) (f : Field) : (s.applyBegun k mask hold).get f = (s.applyNoted k mask).get f := by
  unfold State.applyBegun
  exact State.get_mk _ f

theorem acceptApply_eq (s : State) (k : Nat) (hold : Bool) (copyCycle : BitVec 4) : s.acceptApply k hold copyCycle =
    let ws := s.sst.slots.getD k []
    let mask := bits (pw ws 3) 3 0
    let targets := setBits 4 mask
    let s3 := ((s.applyBegun k mask hold).takeGlobal ws).landRights.landBanks
    let s4 := targets.foldl (fun t n => t.introOutput n (streamCfg ws n)) s3
    let s5 := targets.foldl State.landIdle s4
    (targets.foldl (fun t n => if t.running n && !hold then t.applyGo n (copyCycle.getLsbD n) else t) s5).completeApply := rfl

section
variable (s : State) {slot : Nat} (hs : slot < 4) {mask : Nat} (hm : mask < 16)
include hs hm

theorem applyNoted_pending : (s.applyNoted slot mask).PendingAt slot mask := by
  have hpend {f : Field} (hf : f ∈ [F.sstPendingPending, F.sstPendingSlot, F.sstPendingOutputsLeft]) (t : State) :
      (t.sstOver 0).get f = t.get f := by
    have h : ∀ f ∈ [F.sstPendingPending, F.sstPendingSlot, F.sstPendingOutputsLeft], InWord f ∧ ∀ g ∈ sstOverFields, Apart g f := by
      unfold InWord Apart
      decide
    exact sstOver_get_apart t 0 (h f hf).1 (h f hf).2
  unfold State.PendingAt State.slotSt
  rw [applyNoted_eq, hpend (by simp), hpend (by simp), hpend (by simp), sstOver_slot _ _ hs (mem_slotFields_state slot)]
  simp (disch := first | exact .ofBits rfl | exact .ofBases rfl rfl rfl | exact before_slotState rfl) only
    [acceptPuts, State.puts_cons, State.puts_nil, State.get_put_same, State.get_put_other]
  exact ⟨rfl, Nat.mod_eq_of_lt hs, Nat.mod_eq_of_lt hm, rfl⟩

theorem applyBegun_pending (hold : Bool) : (s.applyBegun slot mask hold).PendingAt slot mask := by
  have h := applyNoted_pending s hs hm
  unfold State.PendingAt State.slotSt at *
  simpa only [applyBegun_get] using h

end

section
variable (s : State) (slot : Fin 4) (mask : Nat) (hold : Bool)

theorem sstNoted_running (op : Nat) {n : Nat} (hn : n < 4) : (s.sstNoted op slot hold).running n = s.running n := by
  have h : ∀ n < 4, ∀ g ∈ sstFields, Apart g (F.tgStatusRun n) := by
    unfold Apart
    decide
  unfold State.running
  rw [on_eq, on_eq, sstNoted_get_apart s op slot hold (.ofBits rfl) (h n hn)]

theorem sstOver_running (code : Nat) {n : Nat} (hn : n < 4) : (s.sstOver code).running n = s.running n := by
  have h : ∀ n < 4, ∀ g ∈ sstOverFields, Apart g (F.tgStatusRun n) := by
    unfold Apart
    decide
  unfold State.running
  rw [on_eq, on_eq, sstOver_get_apart s code (.ofBits rfl) (h n hn)]

/-- The registers of the slot and of SST_PENDING are set with SST_STATUS as it is. -/
theorem acceptPuts_statusView {k : Nat} (hk : k < 4) : (s.puts (acceptPuts k mask)).statusView = s.statusView := by
  have h : ∀ k < 4, ∀ f ∈ [F.sstslotStateState k, F.sstslotStateCode k, F.sstslotErrOffsetWord k, F.sstPendingPending, F.sstPendingSlot,
    F.sstPendingOutputsLeft], f.addr ≠ R.sstStatus ∧ f.addr < R.tgStatus 0 := by decide
  exact puts_statusView s fun p hp => h k hk p.1 (List.mem_map_of_mem (f := Prod.fst) hp)

/-- What SST_STATUS shows of an accepted APPLY. -/
theorem applyBegun_status : let b := (s.sstNoted 2 slot hold).applyBegun slot mask hold
    b.get F.sstStatusBusy = 0 ∧ b.get F.sstStatusLastCode = 0 ∧ b.get F.sstStatusLastOp = 2 ∧ b.get F.sstStatusLastSlot = slot ∧
      ∀ n < 4, b.running n = s.running n := by
  have hputs := acceptPuts_statusView (s.sstNoted 2 slot hold) mask slot.isLt
  have hstatus {f : Field} (hf : f ∈ [F.sstStatusLastOp, F.sstStatusLastSlot]) :
      ((s.sstNoted 2 slot hold).applyNoted slot mask).get f = (s.sstNoted 2 slot hold).get f := by
    have h : ∀ f ∈ [F.sstStatusLastOp, F.sstStatusLastSlot], f.addr = R.sstStatus ∧ InWord f ∧ ∀ g ∈ sstOverFields, Apart g f := by
      unfold InWord Apart
      decide
    obtain ⟨haddr, hw, hover⟩ := h f hf
    rw [applyNoted_eq, sstOver_get_apart _ _ hw hover, statusView_get hputs haddr]
  obtain ⟨hbusy, hcode⟩ := sstOver_code ((s.sstNoted 2 slot hold).puts (acceptPuts slot mask)) 0 (by decide)
  rw [← applyNoted_eq] at hbusy hcode
  simp only [State.running, on_eq, applyBegun_get]
  refine ⟨hbusy, hcode, (hstatus (by simp)).trans (sstNoted_lastOp s (by decide) _ _), (hstatus (by simp)).trans (sstNoted_lastSlot ..),
    fun n hn => ?_⟩
  show ((s.sstNoted 2 slot hold).applyNoted slot mask).running n = s.running n
  rw [applyNoted_eq, sstOver_running _ _ hn, statusView_running hputs hn, sstNoted_running s slot hold 2 hn]

end

/-- From the acceptance on: SST_STATUS and the outputs that run stay, and the outputs targeted are left that run. -/
theorem acceptApply_spec (s : State) (slot : Fin 4) (hold : Bool) (copyCycle : BitVec 4) :
    let mask := bits (pw (s.sst.slots.getD slot []) 3) 3 0
    let b := s.applyBegun slot mask hold
    let left := leftAfter b.running (setBits 4 mask) mask
    let u := s.acceptApply slot hold copyCycle
    u.statusView = b.statusView ∧ u.ApplyAt slot left ∧ (left = 0 → u.ActiveAt slot) := by
  intro mask b left u
  have hmask : mask < 16 := Nat.mod_lt _ (by decide)
  have htarget : ∀ n ∈ setBits 4 mask, n < 4 := fun n hn => (mem_setBits.1 hn).1
  have hu : u = _ := acceptApply_eq s slot hold copyCycle
  extract_lets ws m targets s3 s4 s5 at hu
  have h4 : s4.applyView = b.applyView := by
    refine (foldl_applyView s3 fun t n hn => introOutput_applyView t (htarget n hn) _).trans ?_
    exact (landBanks_applyView _).trans ((landRights_applyView _).trans (takeGlobal_applyView b ws))
  obtain ⟨hstatus, hat⟩ := landIdles_spec slot.isLt htarget (applyAt_of slot.isLt h4 (.inl (applyBegun_pending s slot.isLt hmask hold)))
  have hgo (t : State) : (targets.foldl (fun t n => if t.running n && !hold then t.applyGo n (copyCycle.getLsbD n) else t) t).applyView =
      t.applyView := by
    refine foldl_applyView t fun v n hn => ?_
    split
    · exact applyGo_applyView v (htarget n hn) _
    · rfl
  have hleft : leftAfter s4.running (setBits 4 mask) mask = left :=
    List.foldl_ext _ _ _ fun y n hn => by rw [applyView_running h4 (htarget n hn)]
  rw [hleft] at hat
  obtain ⟨hstatus', hat', hends⟩ := completeApply_spec slot.isLt (applyAt_of slot.isLt (hgo _) hat)
  rw [hu]
  exact ⟨hstatus'.trans ((statusView_of (hgo _)).trans (hstatus.trans (statusView_of h4))), hat', hends⟩

end Sys2Proof.Machine
end

section
/-! An accepted APPLY told from SST_CMD (R41, R45, R46, R50). -/

open Sys2Proof Sys2Proof.Machine

namespace Sys2Proof.Machine

theorem exec_sstApply {s : State} {w : Writer} {slot : Fin 4} {hold : Bool} (copyCycle : BitVec 4) (ha : s.accepts w R.sstCmd = true)
    (hb : s.get F.sstStatusBusy = 0) (hst : s.slotSt slot = 2) (hp : s.applyPending = false)
    (hv : (s.sstNoted 2 slot hold).applyVerdict (s.sst.slots.getD slot []) = none) :
    exec (.sstApply w slot hold copyCycle) s = .next ((s.sstNoted 2 slot hold).acceptApply slot hold copyCycle) := by
  have hpending : (s.sstNoted 2 slot hold).applyPending = false := by
    unfold State.applyPending at *
    rwa [on_eq, sstNoted_get_apart s 2 slot hold (.ofBits rfl) fun g hg => .ofRegs (by revert g; decide), ← on_eq]
  have hv' : (s.sstNoted 2 slot hold).applyVerdict ((s.sstNoted 2 slot hold).sst.slots.getD slot []) = none := hv
  show execSstApply w slot hold copyCycle s = _
  unfold execSstApply
  rw [sstCommand_free ha hb]
  dsimp only
  rw [sstNoted_slotSt _ _ _ _ slot.isLt, if_neg (not_not.2 hst), hpending, hv']
  rfl

theorem applyBegun_command (s : State) (k mask : Nat) (hold : Bool) :
    (s.applyBegun k mask hold).sst.running = none ∧ (s.applyBegun k mask hold).sst.applyHold = hold := by
  unfold State.applyBegun
  rw [applyNoted_eq]
  exact ⟨rfl, rfl⟩

theorem mask_testBit (x : Nat) {n : Nat} (hn : n < 4) : (bits x 3 0).testBit n = decide (x / 2 ^ n % 2 = 1) := by
  rw [bits, Nat.testBit_mod_two_pow, decide_eq_true hn, Bool.true_and, Nat.shiftRight_zero, Nat.testBit_eq_decide_div_mod_eq]

/-- With no output targeted that runs the slot is ACTIVE, else PENDING. -/
theorem acceptApply_slot (s : State) (slot : Fin 4) (hold : Bool) (copyCycle : BitVec 4) {target : Nat}
    (ht : pw (s.sst.slots.getD slot []) 3 = target) :
    let u := (s.sstNoted 2 slot hold).acceptApply slot hold copyCycle
    ((∀ n < 4, target / 2 ^ n % 2 = 1 → s.running n = false) → u.ActiveAt slot) ∧
    ((∃ n < 4, target / 2 ^ n % 2 = 1 ∧ s.running n = true) → ∃ left, u.PendingAt slot left) := by
  intro u
  obtain ⟨-, hat, hends⟩ := acceptApply_spec (s.sstNoted 2 slot hold) slot hold copyCycle
  obtain ⟨-, -, -, -, hrun⟩ := applyBegun_status s slot (bits target 3 0) hold
  rw [sstNoted_sst, ht] at hat hends
  generalize ((s.sstNoted 2 slot hold).applyBegun slot (bits target 3 0) hold).running = runs at hat hends hrun
  have hmask : bits target 3 0 < 16 := Nat.mod_lt _ (by decide)
  have hlt := (leftAfter_bits runs (l := setBits 4 (bits target 3 0)) (fun n hn => (mem_setBits.1 hn).1) hmask).1
  have hbits {m : Nat} (hm : m < 4) : (leftAfter runs (setBits 4 (bits target 3 0)) (bits target 3 0)).testBit m =
      (decide (target / 2 ^ m % 2 = 1) && s.running m) := by
    rw [leftAfter_targets runs hmask hm, mask_testBit target hm, hrun m hm]
  refine ⟨fun hidle => hends (eq_zero_of_bits _ hlt fun m hm => ?_), fun ⟨n, hn, htn, hrn⟩ => ?_⟩
  · rw [hbits hm]
    by_cases h : target / 2 ^ m % 2 = 1
    · simp [hidle m hm h]
    · simp [h]
  · rcases hat with hat | ⟨hzero, -⟩
    · exact ⟨_, hat⟩
    · have h := hbits hn
      simp [hzero, htn, hrn] at h

/-- An accepted APPLY has ended with 0x000. -/
theorem acceptApply_status (s : State) (slot : Fin 4) (hold : Bool) (copyCycle : BitVec 4) :
    let u := (s.sstNoted 2 slot hold).acceptApply slot hold copyCycle
    u.get F.sstStatusBusy = 0 ∧ u.get F.sstStatusLastCode = 0 ∧ u.get F.sstStatusLastOp = 2 ∧ u.get F.sstStatusLastSlot = slot ∧
      u.sst.running = none ∧ u.sst.applyHold = hold := by
  intro u
  obtain ⟨hview, -, -⟩ := acceptApply_spec (s.sstNoted 2 slot hold) slot hold copyCycle
  generalize bits (pw ((s.sstNoted 2 slot hold).sst.slots.getD slot []) 3) 3 0 = mask at hview
  obtain ⟨hbusy, hcode, hop, hslot, -⟩ := applyBegun_status s slot mask hold
  obtain ⟨hcommand, hhold⟩ := applyBegun_command (s.sstNoted 2 slot hold) slot mask hold
  have hget {f : Field} (hf : f.addr = R.sstStatus) : u.get f = ((s.sstNoted 2 slot hold).applyBegun slot mask hold).get f :=
    statusView_get hview hf
  exact ⟨(hget rfl).trans hbusy, (hget rfl).trans hcode, (hget rfl).trans hop, (hget rfl).trans hslot,
    (congrArg (fun v => v.2.2.1) hview).trans hcommand, (congrArg (fun v => v.2.2.2) hview).trans hhold⟩

/-- Settles O16: a store or a clearing begins with the command under way; an acceptance ends its command and leaves the outputs that run. -/
theorem sstStoreAndApply : Obligations.SstStoreAndApply := by
  unfold Obligations.SstStoreAndApply
  intro s w slot ha hb
  refine ⟨fun hst hlen hfree => ?_, fun hj => ?_, fun hold copyCycle hst hp => ?_⟩
  · obtain ⟨hj, hn⟩ := hfree
    exact bootStore_begins _ (exec_storeBoot ha hb hst hlen) hj (.inr hn) rfl (by decide)
  · exact bootStore_begins _ (exec_clearBoot ha hb) hj (.inl rfl) rfl (by decide)
  · intro ws hv
    obtain ⟨hbusy, hcode, hop, hslot, hcommand, hhold⟩ := acceptApply_status s slot hold copyCycle
    obtain ⟨hactive, hpending⟩ := acceptApply_slot s slot hold copyCycle (target := pw ws 3) rfl
    refine ⟨_, exec_sstApply copyCycle ha hb hst hp hv, rfl, hbusy, hcode, hop, hslot, hcommand, hhold, fun hidle => ?_, fun hrun => ?_⟩
    · obtain ⟨h0, hsl, h5⟩ := hactive hidle
      exact ⟨h5, hsl, h0⟩
    · obtain ⟨left, h1, hsl, -, h4⟩ := hpending hrun
      exact ⟨h4, hsl, h1⟩

end Sys2Proof.Machine
end

section
/-! Stores read back: registers, fields, table entries and bytes of the Hold (R9, R78). -/

open Sys2Proof Sys2Proof.Machine

namespace Sys2Proof.Machine

theorem reg_setReg (s : State) (a b : Nat) (v : Word) : (s.setReg a v).reg b = if b = a then v else s.reg b := by
  split
  · next h => rw [h, State.reg_setReg_same]
  · next h => exact State.reg_setReg_other s v h

theorem put_bit_outside (s : State) {f : Field} (v : Nat) {a b : Nat} (hb : b < 32) (h : ¬(f.addr = a ∧ f.lo ≤ b ∧ b ≤ f.hi)) :
    ((s.put f v).reg a).getLsbD b = (s.reg a).getLsbD b :=
  ((Frame.refl [f] [] s).put (by simp)).regs a b hb (by simpa [Covers] using h)

theorem holdByte_setHoldByte {s : State} {a : Nat} (v : Byte) (h : s.unknownAt a = none) (b : Nat) :
    (s.setHoldByte a v).holdByte b = if b = a then v else s.holdByte b := by
  split
  · next hb => rw [hb, setHoldByte_same h]
  · next hb => exact setHoldByte_other s v hb

theorem setHoldByte_wf {s : State} (a : Nat) (v : Byte) (h : Memory.wf s.hold.bytes = true) : Memory.wf (s.setHoldByte a v).hold.bytes = true :=
  sparseWf_set (f := fun _ => 0) v a h

/-- Settles O6: each store by the law of its sparse list, a field by the bits of its word. -/
theorem storesReadBack : Obligations.StoresReadBack := by
  unfold Obligations.StoresReadBack
  refine ⟨reg_setReg, fun s f v h1 h2 => State.get_put_same s ⟨h1, h2⟩ v, fun s f v a b hb h => put_bit_outside s v hb h, ?_, ?_, ?_⟩
  · exact fun s n type table bank idx k v => ⟨tbl_setTbl_same .., tbl_setTbl_other s⟩
  · exact fun s a b v h => holdByte_setHoldByte v h b
  · exact fun s a v h => setHoldByte_wf a v h

end Sys2Proof.Machine
end

section
/-! The table data registers (R77, R78) and the panel temperature (R133, R134). -/

open Sys2Proof Sys2Proof.Machine

namespace Sys2Proof.Machine

section
variable {s : State} {w : Writer} {addr : BitVec 26}

/-! Tables. -/

theorem exec_tableDataWrite {n type : Nat} (data : Word) (ha : s.accepts w addr.toNat = true) (ht : s.tableAt addr.toNat = some (n, type)) :
    exec (.tableDataWrite w addr data) s = .next ((s.tableWrite n type data.toNat).nextIndex n type) := by
  refine (congrArg Host.Outcome.next (State.writeBy_accepts ha)).trans ?_
  rw [ht]

theorem exec_tableDataRead {n type : Nat} (ha : s.answers w = true) (hr : s.readAllowed w addr.toNat = true)
    (ht : s.tableAt addr.toNat = some (n, type)) :
    exec (.tableDataRead w addr) s = .next ((s.nextIndex n type).emit (.completion (BitVec.ofNat 32 (s.tableRead n type)))) := by
  refine (congrArg Host.Outcome.next (readBy_allowed ha hr)).trans ?_
  rw [ht]

theorem tableWrite_beyond {n type : Nat} (v : Nat) (h : tableSize type (s.get (tblTableF n type)) ≤ s.get (tblIndexF n type)) :
    s.tableWrite n type v = s := if_pos h

theorem tableWrite_active {n type : Nat} (v : Nat) (h : s.get (tblIndexF n type) < tableSize type (s.get (tblTableF n type)))
    (hb : s.get (tblBankF n type) = s.activeBank n type) : s.tableWrite n type v = s.raise (evOut n 22) :=
  (if_neg (Nat.not_le.2 h)).trans (if_pos hb)

theorem tableWrite_other_bank {n type : Nat} (v : Nat) (h : s.get (tblIndexF n type) < tableSize type (s.get (tblTableF n type)))
    (hb : s.get (tblBankF n type) ≠ s.activeBank n type) :
    s.tableWrite n type v =
      s.setTbl n type (s.get (tblTableF n type)) (s.get (tblBankF n type)) (s.get (tblIndexF n type)) (v % 2 ^ tableBits type) :=
  (if_neg (Nat.not_le.2 h)).trans (if_neg hb)

theorem nextIndex_frame {T : List Field} {P : List Part} {t : State} (h : Frame T P s t) {n type : Nat} (m : tblIndexF n type ∈ T) :
    Frame T P s (t.nextIndex n type) := h.put m

/-- A table write, by where the pointer stands. -/
theorem tableDataWrite_cases {n type : Nat} (data : Word) (ha : s.accepts w addr.toNat = true) (ht : s.tableAt addr.toNat = some (n, type)) :
    let table := s.get (tblTableF n type)
    let bank := s.get (tblBankF n type)
    let idx := s.get (tblIndexF n type)
    (tableSize type table ≤ idx →
      Yields (.tableDataWrite w addr data) s [] [tblIndexF n type] [] fun u => u.get (tblIndexF n type) = (idx + 1) % 2 ^ 18) ∧
    (idx < tableSize type table → bank = s.activeBank n type →
      exec (.tableDataWrite w addr data) s = .next ((s.raise (evOut n 22)).nextIndex n type)) ∧
    (idx < tableSize type table → bank ≠ s.activeBank n type →
      Yields (.tableDataWrite w addr data) s [] [tblIndexF n type] [.tables] fun u =>
        u.get (tblIndexF n type) = (idx + 1) % 2 ^ 18 ∧ u.tbl n type table bank idx = data.toNat % 2 ^ tableBits type ∧
        ∀ n' type' table' bank' idx', tableKey n' type' table' bank' idx' ≠ tableKey n type table bank idx →
          u.tbl n' type' table' bank' idx' = s.tbl n' type' table' bank' idx') := by
  have he := exec_tableDataWrite data ha ht
  refine ⟨fun h => ?_, fun h hb => ?_, fun h hb => ?_⟩
  · rw [tableWrite_beyond _ h] at he
    exact .quiet he (nextIndex_frame (.refl _ _ s) (by simp)) (nextIndex_get ..)
  · rw [he, tableWrite_active _ h hb]
  · rw [tableWrite_other_bank _ h hb] at he
    refine .quiet he (nextIndex_frame (State.setTbl_frame (.refl _ _ s) _ _ _ _ _ _ (by simp)) (by simp)) ⟨?_, ?_, ?_⟩
    · rw [nextIndex_get, State.setTbl_get]
    · rw [tbl_nextIndex, tbl_setTbl_same]
    · intro n' type' table' bank' idx' hk
      rw [tbl_nextIndex, tbl_setTbl_other s hk]

theorem tableDataRead_yields {n type : Nat} (ha : s.answers w = true) (hr : s.readAllowed w addr.toNat = true)
    (ht : s.tableAt addr.toNat = some (n, type)) :
    Yields (.tableDataRead w addr) s [] [tblIndexF n type] [.out] fun u =>
      u.get (tblIndexF n type) = (s.get (tblIndexF n type) + 1) % 2 ^ 18 ∧
      u.out = .completion (BitVec.ofNat 32 (s.tableRead n type)) :: s.out := by
  refine .quiet (exec_tableDataRead ha hr ht) ((nextIndex_frame (.refl _ _ s) (by simp)).emit (by simp)) ⟨?_, rfl⟩
  rw [State.get_emit, nextIndex_get]

/-! The panel temperature. -/

theorem keyOut_odrvPanelTemp (n : Fin 4) : keyOut (R.odrvPanelTemp n) = n := by
  unfold keyOut R.odrvPanelTemp
  omega

theorem exec_odrvPanelTempWrite {n : Fin 4} (data : BitVec 16) (ha : s.accepts w addr.toNat = true)
    (hk : s.keyOf addr.toNat = some (R.odrvPanelTemp n)) :
    exec (.odrvPanelTempWrite w addr data) s =
      .next (if s.act (F.odrvCtrlTempSrc n) = 0 then (s.put (F.odrvPanelTempTemp n) data.toNat).acceptTemp n data.toNat
        else s.put (F.odrvPanelTempTemp n) data.toNat) := by
  refine (congrArg Host.Outcome.next (State.writeBy_accepts ha)).trans ?_
  rw [outAt_of hk (keyOut_odrvPanelTemp n)]
  rfl

theorem acceptTemp_frame {T : List Field} {P : List Part} {t : State} (h : Frame T P s t) (n v : Nat) (m : F.odrvTempUsedStale n ∈ T)
    (mo : .output n ∈ P) : Frame T P s (t.acceptTemp n v) := (State.setOdrv_frame h n _ mo).put m

theorem acceptTemp_stale (s : State) (n v : Nat) : (s.acceptTemp n v).get (F.odrvTempUsedStale n) = 0 :=
  get_put_of_lt _ (.ofBits rfl) (by simp)

theorem acceptTemp_get_other (s : State) (n v : Nat) {f : Field} (h : Apart (F.odrvTempUsedStale n) f) (hf : InWord f) :
    (s.acceptTemp n v).get f = s.get f :=
  (State.get_put_other _ h hf _).trans (State.setOdrv_get ..)

theorem acceptTemp_outs {n v : Nat} {o : OutState} (h : s.outs[n]? = some o) (hv : v < 65536) :
    (s.acceptTemp n v).outs[n]? = some { o with odrv := { o.odrv with temp := v } } := by
  have hm : (s.acceptTemp n v).outs[n]? = some { o with odrv := { o.odrv with temp := v % 65536 } } := updAt_some h
  rw [hm, Nat.mod_eq_of_lt hv]

theorem panelTemp_put (s : State) (n : Nat) (data : BitVec 16) :
    (s.put (F.odrvPanelTempTemp n) data.toNat).get (F.odrvPanelTempTemp n) = data.toNat :=
  get_put_of_lt s (.ofBits rfl) data.isLt

/-- An ODRV stage's temperature timer that expires out of time makes the temperature stale. -/
theorem exec_temperatureTimerExpiry {n : Fin 4} (hc : (s.cfg n).has 7 = true) (ht : s.get (F.odrvTempTimeoutMs n) ≠ 0)
    (hs : s.get (F.odrvTempUsedStale n) = 0) :
    exec (.temperatureTimerExpiry n false) s = .next ((s.put (F.odrvTempUsedStale n) 1).raise (evOut n 12)) :=
  if_pos ⟨rfl, hc, ht, by simp [on_off s _ hs]⟩

theorem exec_temperatureTimerExpiry_met (n : Fin 4) : exec (.temperatureTimerExpiry n true) s = .next s := by
  change execTemperatureTimerExpiry n true s = _
  unfold execTemperatureTimerExpiry
  rw [if_neg (by simp)]

end

/-- Settles O19: a table access by where its pointer stands, a temperature by its source and by whether it comes in time. -/
theorem tablesAndPanelTemperature : Obligations.TablesAndPanelTemperature := by
  unfold Obligations.TablesAndPanelTemperature
  refine ⟨fun s w addr n type _ ht => ⟨fun data ha => tableDataWrite_cases data ha ht, fun ha hr => tableDataRead_yields ha hr ht⟩,
    fun s w n addr data ha hk => ?_, fun s n hc ht hs => ?_, fun s n => exec_temperatureTimerExpiry_met n⟩
  · have he := exec_odrvPanelTempWrite data ha hk
    refine ⟨fun h => ?_, fun h => ?_⟩
    · rw [if_pos h] at he
      refine .quiet he (acceptTemp_frame ((Frame.refl _ _ s).put (by simp)) _ _ (by simp) (by simp)) ⟨?_, acceptTemp_stale .., ?_⟩
      · exact (acceptTemp_get_other _ _ _ (.ofBits rfl) (.ofBits rfl)).trans (panelTemp_put s n data)
      · exact fun o ho => acceptTemp_outs ho data.isLt
    · rw [if_neg h] at he
      exact .quiet he ((Frame.refl _ _ s).put (by simp)) (panelTemp_put s n data)
  · exact .intro (exec_temperatureTimerExpiry hc ht hs) ((Frame.refl _ _ s).put (by simp)) (get_put_of_lt s (.ofBits rfl) (by simp [F.odrvTempUsedStale]))

end Sys2Proof.Machine
end

section
/-! Map addresses, map checks and the base lock (R108, R112, R113). -/

open Sys2Proof Sys2Proof.Machine

namespace Sys2Proof.Machine

/-! The registers of a map. -/

/-- A stage's register names its output. -/
theorem keyOut_stage {k m n : Nat} (h : k = 0x4000000 + m + 0x10000 * n) (hm : m < 0x10000) : keyOut k = n := by
  unfold keyOut
  omega

theorem outAt_none {s : State} {a k : Nat} {key : Nat → Nat} (hk : s.keyOf a = some k) (h : k ≠ key (keyOut k)) : s.outAt a key = none := by
  unfold State.outAt
  rw [hk]
  exact if_neg h

section
variable (n : Nat) (field : Bool)

theorem mapAddrF_inWord : InWord (mapAddrF n field) := by cases field <;> exact .ofBits rfl

theorem mapValidF_inWord : InWord (mapValidF n field) := by cases field <;> exact .ofBits rfl

theorem mapBusyF_inWord : InWord (mapBusyF n field) := by cases field <;> exact .ofBits rfl

theorem mapCauseF_inWord : InWord (mapCauseF n field) := by cases field <;> exact .ofBits rfl

theorem mapValidF_fits (b : Bool) : b.toNat < 2 ^ ((mapValidF n field).hi + 1 - (mapValidF n field).lo) := by
  cases field <;> exact Bool.toNat_lt b

theorem mapBusyF_fits (b : Bool) : b.toNat < 2 ^ ((mapBusyF n field).hi + 1 - (mapBusyF n field).lo) := by
  cases field <;> exact Bool.toNat_lt b

theorem mapValidF_apart_addr : Apart (mapValidF n field) (mapAddrF n field) := by cases field <;> exact .ofBases rfl rfl rfl

theorem mapBusyF_apart_addr : Apart (mapBusyF n field) (mapAddrF n field) := by cases field <;> exact .ofBits rfl

theorem mapBusyF_apart_valid : Apart (mapBusyF n field) (mapValidF n field) := by cases field <;> exact .ofBits rfl

theorem mapCauseF_apart_busy : Apart (mapCauseF n field) (mapBusyF n field) := by cases field <;> exact .ofBits rfl

theorem mapValidF_apart_cause : Apart (mapValidF n field) (mapCauseF n field) := by cases field <;> exact .ofBits rfl

end

theorem setMapUse_outs {s : State} {n : Nat} {o : OutState} (ho : s.outs[n]? = some o) (field : Bool) (g : MapUse → MapUse) :
    (s.setMapUse n field g).outs[n]? = some (if field then { o with field := g o.field } else { o with base := g o.base }) := by
  unfold State.setMapUse
  rw [State.setOut_outs]
  exact updAt_some ho

/-! A map address written. -/

section
variable (s : State) (n : Nat) (field : Bool)

theorem dropCheck_valid : (s.dropCheck n field).get (mapValidF n field) = 0 :=
  (get_puts_head s (mapValidF_inWord n field) 0 (by simpa using mapBusyF_apart_valid n field)).trans (Nat.zero_mod _)

theorem dropCheck_busy : (s.dropCheck n field).get (mapBusyF n field) = 0 :=
  (get_puts_head (s.put (mapValidF n field) 0) (mapBusyF_inWord n field) 0 (by simp)).trans (Nat.zero_mod _)

theorem dropCheck_addr : (s.dropCheck n field).get (mapAddrF n field) = s.get (mapAddrF n field) :=
  get_puts_apart s (mapAddrF_inWord n field) (by simpa using ⟨mapValidF_apart_addr n field, mapBusyF_apart_addr n field⟩)

theorem dropCheck_frame {T : List Field} {P : List Part} {t : State} (h : Frame T P s t) (mv : mapValidF n field ∈ T) (mb : mapBusyF n field ∈ T) :
    Frame T P s (t.dropCheck n field) := h.puts (by simpa using ⟨mv, mb⟩)

variable (data : Word)

theorem writeMapAddr_frame :
    Frame [whole (mapAddrF n field).addr, mapValidF n field, mapBusyF n field] [.written] s (s.writeMapAddr n field data) :=
  dropCheck_frame s n field (((Frame.refl _ _ s).setReg (by simp)).setWritten (by simp)) (by simp) (by simp)

theorem writeMapAddr_addr : (s.writeMapAddr n field data).get (mapAddrF n field) = fieldOf (mapAddrF n field) data :=
  (dropCheck_addr _ n field).trans (get_put_of_lt s (mapAddrF_inWord n field) (Nat.mod_lt _ (Nat.two_pow_pos _)))

theorem writeMapAddr_running : (s.writeMapAddr n field data).running n = s.running n := by
  unfold State.running State.on
  rw [(writeMapAddr_frame s n field data).get (.ofBits rfl)]
  cases field <;> simp only [List.forall_mem_cons] <;>
    exact ⟨.ofBases rfl rfl rfl, .ofBases rfl rfl rfl, .ofBases rfl rfl rfl, fun _ h => absurd h List.not_mem_nil⟩

end

theorem idleLand_running {s : State} {n : Nat} (h : s.running n = true) : s.idleLand n = s := if_pos h

section
variable {s : State} {n : Fin 4} {w : Writer} {addr : BitVec 26} (ha : s.accepts w addr.toNat = true)
include ha

theorem exec_unifAddressWrite {field : Bool} (data : Word) (hk : s.keyOf addr.toNat = some (mapAddrF n field).addr) :
    exec (.unifAddressWrite w addr data) s = .next ((s.writeMapAddr n field data).idleLand n) := by
  refine (congrArg Host.Outcome.next (State.writeBy_accepts ha)).trans ?_
  cases field with
  | false => rw [outAt_of (key := R.unifBaseAddr) hk (keyOut_stage (m := 0x504) rfl (by decide))]
  | true =>
    have hn : keyOut (R.unifFieldAddr n) = n := keyOut_stage (m := 0x508) rfl (by decide)
    have hb : R.unifFieldAddr n ≠ R.unifBaseAddr (keyOut (R.unifFieldAddr n)) := by
      rw [hn]
      unfold R.unifFieldAddr R.unifBaseAddr
      omega
    rw [outAt_none hk hb, outAt_of (key := R.unifFieldAddr) hk hn]

/-- A map address written: the check dropped; on an idle output the address lands at once. -/
theorem unifAddressWrite_drops {field : Bool} (data : Word) (hk : s.keyOf addr.toNat = some (mapAddrF n field).addr) :
    ∃ u, exec (.unifAddressWrite w addr data) s = .next (u.idleLand n) ∧
      Frame [whole (mapAddrF n field).addr, mapValidF n field, mapBusyF n field] [.written] s u ∧
      u.get (mapAddrF n field) = fieldOf (mapAddrF n field) data ∧ u.written = keyInsert s.written (mapAddrF n field).addr ∧
      u.get (mapValidF n field) = 0 ∧ u.get (mapBusyF n field) = 0 ∧ (s.running n = true → u.idleLand n = u) :=
  ⟨_, exec_unifAddressWrite ha data hk, writeMapAddr_frame s n field data, writeMapAddr_addr s n field data, rfl, dropCheck_valid _ n field,
    dropCheck_busy _ n field, fun h => idleLand_running ((writeMapAddr_running s n field data).trans h)⟩

/-! A check started. -/

theorem exec_unifCheckBase (hk : s.keyOf addr.toNat = some (R.unifCheck n)) :
    exec (.unifCheckBase w addr) s = .next (s.startCheck n false) := by
  refine (congrArg Host.Outcome.next (State.writeBy_accepts ha)).trans ?_
  rw [outAt_of hk (keyOut_stage (m := 0x50c) rfl (by decide))]

theorem exec_unifCheckField (hk : s.keyOf addr.toNat = some (R.unifCheck n)) :
    exec (.unifCheckField w addr) s = .next (s.startCheck n true) := by
  refine (congrArg Host.Outcome.next (State.writeBy_accepts ha)).trans ?_
  rw [outAt_of hk (keyOut_stage (m := 0x50c) rfl (by decide))]

end

theorem startCheck_busy (s : State) (n : Nat) (field : Bool) :
    (s.startCheck n field).get (mapBusyF n field) = (s.isWritten (mapAddrF n field).addr).toNat :=
  get_put_of_lt _ (mapBusyF_inWord n field) (mapBusyF_fits n field _)

theorem startCheck_yields {c : Instr} {s : State} {n : Nat} {field : Bool} (h : exec c s = .next (s.startCheck n field)) :
    Yields c s [] [mapValidF n field, mapBusyF n field] [] fun u =>
      u.get (mapValidF n field) = 0 ∧ u.get (mapBusyF n field) = (s.isWritten (mapAddrF n field).addr).toNat :=
  .quiet h ((dropCheck_frame s n field (.refl _ _ s) (by simp) (by simp)).put (by simp))
    ⟨(State.get_put_other _ (mapBusyF_apart_valid n field) (mapValidF_inWord n field) _).trans (dropCheck_valid s n field), startCheck_busy s n field⟩

/-! A check's end. -/

/-- A cause fits CAUSE. -/
theorem mapCause_lt (s : State) (n : Nat) (field : Bool) : s.mapCause n field < 16 := by
  unfold State.mapCause
  iterate 13 refine ite_lt (by decide) ?_
  decide

/-- What a map's status shows once its check has ended. -/
def State.checkShown (s : State) (n : Nat) (field : Bool) : State :=
  s.puts [(mapBusyF n field, 0), (mapCauseF n field, s.mapCause n field), (mapValidF n field, (decide (s.mapCause n field = 0)).toNat)]

section
variable (s : State) (n : Nat) (field : Bool)

theorem checkShown_frame : Frame [mapBusyF n field, mapCauseF n field, mapValidF n field] [] s (s.checkShown n field) :=
  (Frame.refl _ _ s).puts (by simp)

theorem checkShown_busy : (s.checkShown n field).get (mapBusyF n field) = 0 :=
  (get_puts_head s (mapBusyF_inWord n field) 0
    (by simpa using ⟨mapCauseF_apart_busy n field, (mapBusyF_apart_valid n field).symm⟩)).trans (Nat.zero_mod _)

theorem checkShown_cause : (s.checkShown n field).get (mapCauseF n field) = s.mapCause n field := by
  have hw : 2 ^ ((mapCauseF n field).hi + 1 - (mapCauseF n field).lo) = 16 := by cases field <;> rfl
  have hc := mapCause_lt s n field
  unfold State.checkShown
  rw [State.puts_cons, get_puts_head _ (mapCauseF_inWord n field) _ (by simpa using mapValidF_apart_cause n field), hw, Nat.mod_eq_of_lt hc]

theorem checkShown_valid : (s.checkShown n field).get (mapValidF n field) = (decide (s.mapCause n field = 0)).toNat :=
  get_put_of_lt _ (mapValidF_inWord n field) (mapValidF_fits n field _)

theorem checkShown_outs : (s.checkShown n field).outs = s.outs := rfl

end

section
variable {s : State} {n : Fin 4} {field : Bool}

theorem exec_unifCheckComplete (hb : s.get (mapBusyF n field) = 1) : exec (.unifCheckComplete n field) s =
    let h := s.mapHead (32 * s.get (mapAddrF n field))
    .next ((s.checkShown n field).setMapUse n field fun m => { m with checked := (h.width, h.height) }) := if_pos (on_of s _ hb)

theorem exec_unifCheckComplete_idle (hb : s.get (mapBusyF n field) ≠ 1) : exec (.unifCheckComplete n field) s = .next s :=
  if_neg (by rwa [on_true_iff])

theorem unifCheckComplete_yields (hb : s.get (mapBusyF n field) = 1) :
    Yields (.unifCheckComplete n field) s [] [mapBusyF n field, mapCauseF n field, mapValidF n field] [.output n] fun u =>
      u.get (mapBusyF n field) = 0 ∧ u.get (mapCauseF n field) = s.mapCause n field ∧
      (u.get (mapValidF n field) = 1 ↔ s.mapCause n field = 0) ∧
      ∀ o, s.outs[n.val]? = some o → u.outs[n.val]? = some (
        let h := s.mapHead (32 * s.get (mapAddrF n field))
        if field then { o with field := { o.field with checked := (h.width, h.height) } }
        else { o with base := { o.base with checked := (h.width, h.height) } }) := by
  refine .quiet (exec_unifCheckComplete hb) (State.setMapUse_frame ((checkShown_frame s n field).mono (fun _ h => h) (by simp)) _ _ _ (by simp))
    ⟨?_, ?_, ?_, fun o ho => setMapUse_outs ((congrArg (·[n.val]?) (checkShown_outs s n field)).trans ho) field _⟩
  · rw [State.setMapUse_get, checkShown_busy]
  · rw [State.setMapUse_get, checkShown_cause]
  · rw [State.setMapUse_get, checkShown_valid, Bool.toNat_eq_one, decide_eq_true_iff]

end

/-! The base lock. -/

section
variable {s : State} {n : Fin 4} {w : Writer} {addr : BitVec 26}

theorem exec_baseLock (ha : s.accepts w addr.toNat = true) (hk : s.keyOf addr.toNat = some (R.unifBaseLock n)) : exec (.baseLock w addr) s =
    .next (if s.get (F.unifBaseLockState n) = 0 ∧ s.on (F.unifBaseStatusValid n) = true ∧ s.hasLanded (R.unifBaseAddr n) = true ∧
      s.act (F.unifBaseAddrAddr n) = s.get (F.unifBaseAddrAddr n) then s.lockBase n else s) := by
  refine (congrArg Host.Outcome.next (State.writeBy_accepts ha)).trans ?_
  rw [outAt_of hk (keyOut_stage (m := 0x518) rfl (by decide))]

/-- What the lock of a range of banks shows. -/
def State.lockShown (s : State) (n first count : Nat) : State :=
  s.puts [(F.unifBaseLockState n, 1), (F.unifBaseLockLock n, 1), (F.unifLockRangeFirstBank n, first), (F.unifLockRangeBankCount n, count)]

theorem lockShown_frame (s : State) (n first count : Nat) :
    Frame [F.unifBaseLockState n, F.unifBaseLockLock n, F.unifLockRangeFirstBank n, F.unifLockRangeBankCount n] [] s (s.lockShown n first count) :=
  (Frame.refl _ _ s).puts (by simp)

theorem lockShown_state (s : State) (n first count : Nat) : (s.lockShown n first count).get (F.unifBaseLockState n) = 1 :=
  (get_puts_head s (.ofBits rfl) 1 (by
    simp only [List.forall_mem_cons]
    exact ⟨.ofBits rfl, .ofBases rfl rfl rfl, .ofBases rfl rfl rfl, fun _ h => absurd h List.not_mem_nil⟩)).trans rfl

/-- The base map's lock sets the bank locks of its container. -/
theorem lockBase_eq (s : State) (n : Nat) : s.lockBase n =
    let a := 32 * s.act (F.unifBaseAddrAddr n)
    let count := bankOf (a + (s.mapHead a).total - 1) - bankOf a + 1
    (s.lockShown n (bankOf a) count).setLocked (bankOf a) count true := rfl

/-! The hash of a locked map. -/

/-- STATE once the hash of a locked map is compared with the digest stored. -/
def hashVerdict (digest : Option Nat) (hash : Nat) : Nat := if digest = none then 3 else if digest = some hash then 2 else 4

theorem hashVerdict_lt (d : Option Nat) (hash : Nat) : hashVerdict d hash < 8 := ite_lt (by decide) (ite_lt (by decide) (by decide))

theorem hashVerdict_bad (d : Option Nat) (hash : Nat) : hashVerdict d hash = 4 ↔ d ≠ none ∧ ¬ d = some hash := by
  unfold hashVerdict
  by_cases h1 : d = none
  · simp [h1]
  · by_cases h2 : d = some hash <;> simp [h1, h2]

theorem exec_baseMapHashDone_idle (h : s.get (F.unifBaseLockState n) ≠ 1) : exec (.baseMapHashDone n) s = .next s := if_neg h

theorem exec_baseMapHashDone (h : s.get (F.unifBaseLockState n) = 1) : exec (.baseMapHashDone n) s =
    let a := 32 * s.act (F.unifBaseAddrAddr n)
    let st := hashVerdict (s.baseDigest n) (sha256 (s.holdBytes a (s.mapHead a).total))
    .next (((s.put (F.unifBaseLockState n) st).showApplied n false).raiseIf (st == 4) (evOut n 27)) := by
  refine (if_pos h).trans ?_
  dsimp only
  generalize s.baseDigest n = d
  generalize sha256 (s.holdBytes _ _) = hash
  cases d with
  | none => rfl
  | some x => simp only [hashVerdict, reduceCtorEq, if_false, Option.some.injEq]

theorem mapApplies_put {f : Field} (s : State) (n v : Nat) (field : Bool) (h : Apart f (F.unifBaseLockState n)) :
    (s.put f v).mapApplies n field = s.mapApplies n field := by
  unfold State.mapApplies
  rw [State.get_put_other _ h (.ofBits rfl)]
  rfl

theorem showApplied_base (s : State) (n : Nat) :
    (s.showApplied n false).get (F.unifBaseStatusApplied n) = ((s.showApplied n false).mapApplies n false).toNat := by
  rw [State.showApplied, mapApplies_put _ _ _ _ (.ofBases rfl rfl rfl)]
  exact get_put_of_lt _ (.ofBits rfl) (Bool.toNat_lt _)

theorem baseMapHashDone_yields (h : s.get (F.unifBaseLockState n) = 1) :
    let a := 32 * s.act (F.unifBaseAddrAddr n)
    let hash := sha256 (s.holdBytes a (s.mapHead a).total)
    Yields (.baseMapHashDone n) s (if s.baseDigest n ≠ none ∧ ¬ s.baseDigest n = some hash then [evOut n 27] else [])
      [F.unifBaseLockState n, F.unifBaseStatusApplied n] [] fun u =>
      u.get (F.unifBaseLockState n) = hashVerdict (s.baseDigest n) hash ∧ u.get (F.unifBaseStatusApplied n) = (u.mapApplies n false).toNat := by
  intro a hash
  have he := exec_baseMapHashDone h
  dsimp only at he
  rw [State.raiseIf_eq] at he
  simp only [beq_iff_eq, hashVerdict_bad] at he
  refine .intro he (((Frame.refl _ _ s).put (by simp)).put (by simp [mapAppliedF])) ⟨?_, showApplied_base _ n⟩
  exact (State.get_put_other _ (.ofBases rfl rfl rfl) (.ofBits rfl) _).trans (get_put_of_lt s (.ofBits rfl) (hashVerdict_lt ..))

end

/-- Settles O20: a write by the register it meets, an end by whether its check or hash runs. -/
theorem mapChecksAndBaseLock : Obligations.MapChecksAndBaseLock := by
  unfold Obligations.MapChecksAndBaseLock
  intro s n
  refine ⟨fun w addr ha => ⟨fun data field hk => unifAddressWrite_drops ha data hk,
      fun hk => ⟨startCheck_yields (exec_unifCheckBase ha hk), startCheck_yields (exec_unifCheckField ha hk)⟩,
      fun hk => ⟨fun h0 hv hl hs => ?_, fun hn => ?_⟩⟩,
    fun field => exec_unifCheckComplete_idle, exec_baseMapHashDone_idle, fun field => unifCheckComplete_yields, baseMapHashDone_yields⟩
  · have he := exec_baseLock ha hk
    rw [if_pos ⟨h0, on_of s _ hv, hl, hs⟩, lockBase_eq] at he
    exact ⟨_, he, lockShown_frame .., lockShown_state ..⟩
  · rw [exec_baseLock ha hk, if_neg (by rwa [on_true_iff])]

end Sys2Proof.Machine
end

section
/-! The wear map generator (R120, R122 to R126, R277, R295). -/

open Sys2Proof Sys2Proof.Machine

namespace Sys2Proof.Machine

/-! A group is due. -/

/-- The stage with the rows of a group asked for by the generator, rows of other groups or of another size given up. -/
def State.genAsked (s : State) (n g : Nat) : State :=
  s.setWear n fun w => { w with
    genRows := w.genRows.filter fun p => p.1 / 16 == g && p.2.length == s.ledgerBytes n
    reading := w.reading ++ (s.genMissing n g).map fun y => ⟨y, true, 0, 0, []⟩ }

theorem genAsk_none {s : State} {n g : Nat} (h : s.genMissing n g = []) : s.genAsk n g = s := if_pos (by simp [h])

theorem genAsk_some {s : State} {n g : Nat} (h : s.genMissing n g ≠ []) : s.genAsk n g = (s.genAsked n g).sendLtr 20000 :=
  if_neg (by simpa using h)

theorem genOn_iff {s : State} {n : Nat} {o : OutState} (ho : s.outs[n]? = some o) : s.genOn n = true ↔
    ((s.cfg n).has 6 = true ∧ s.actOn (F.wearCtrlGenEn n) = true ∧ s.wearReady n = true ∧ o.wear.base ≠ none ∧
      s.get (F.dmaStatusHeld (s.wearCh n)) = 1 ∧ s.chanStopped (s.wearCh n) = false ∧ s.get (F.wearStatusHalted n) ≠ 1 ∧ s.slackStops n = false) := by
  unfold State.genOn
  rw [wearOf_of ho]
  simp only [Bool.and_eq_true, Bool.not_eq_true', Option.isSome_iff_ne_none, on_true_iff, ← Bool.not_eq_true, and_assoc]

section
variable {s : State} {n : Fin 4}

theorem exec_wearGenGroup (h : s.genOn n = true) (hg : s.get (F.wearGenStatusNextGroup n) < s.wearGroups n) : exec (.wearGenGroup n) s =
    .next (((s.genAsk n (s.get (F.wearGenStatusNextGroup n))).showLedger n).dmaGo s) := if_neg (by simp [h, hg])

theorem exec_wearGenGroup_idle (h : ¬ s.genOn n = true ∨ s.wearGroups n ≤ s.get (F.wearGenStatusNextGroup n)) :
    exec (.wearGenGroup n) s = .next s := if_pos (by simpa using h)

end

/-! A group whose rows are there. -/

/-- A group's rows taken by the generator: its saturated entries counted, the next group to follow. -/
def State.genTaken (s : State) (n sats : Nat) : State :=
  ((s.setWear n fun w => { w with genRows := [] }).count (F.wearMapSatsCount n) sats).put (F.wearGenStatusNextGroup n)
    ((s.get (F.wearGenStatusNextGroup n) + 1) % max 1 (s.wearGroups n))

/-- An internal job given to engine e. -/
def State.giveInternal (s : State) (e : Nat) (j : EddyInternal) : State :=
  (s.setEddy e fun x => { x with internal := x.internal ++ [j] }).showInternal e

/-- The rows of lift codes of a group, from the ledger rows that the generator has read, and the count of codes that saturate. -/
def State.genLifted (s : State) (n : Nat) (w : WearState) : List (List Nat) × Nat :=
  let g := s.get (F.wearGenStatusNextGroup n)
  s.liftRows n ((List.range (s.groupLines n g)).map fun i => ((w.genRows.find? (·.1 == 16 * g + i)).map (·.2)).getD [])

theorem genReady_whole {s : State} {n : Nat} {o : OutState} (ho : s.outs[n]? = some o) (hb : o.wear.base ≠ none) (hw : o.wear.genRows ≠ [])
    (hr : ∀ r ∈ o.wear.reading, r.gen = false) (hm : s.genMissing n (s.get (F.wearGenStatusNextGroup n)) = []) : s.genReady n =
    (s.genTaken n (s.genLifted n o.wear).2).giveInternal (s.act (F.wearCtrlEddy n))
      ⟨n, s.get (F.wearGenStatusNextGroup n), s.hActive n, (s.genLifted n o.wear).1⟩ := by
  unfold State.genReady
  rw [wearOf_of ho]
  exact if_neg (by simpa [hm, hb, hw] using hr)

section
variable (s : State) (n sats : Nat)

theorem genTaken_frame : Frame [F.wearMapSatsCount n, F.wearGenStatusNextGroup n] [.output n] s (s.genTaken n sats) :=
  ((State.setWear_frame (Frame.refl _ _ s) n _ (by simp)).count (by simp)).put (by simp)

theorem genTaken_sats : (s.genTaken n sats).get (F.wearMapSatsCount n) =
    min (fieldMax (F.wearMapSatsCount n)) (s.get (F.wearMapSatsCount n) + sats) :=
  (State.get_put_other _ (.ofBases rfl rfl rfl) (.ofBits rfl) _).trans (count_get _ _ _ (.ofBits rfl))

theorem genTaken_next : (s.genTaken n sats).get (F.wearGenStatusNextGroup n) =
    (s.get (F.wearGenStatusNextGroup n) + 1) % max 1 (s.wearGroups n) % (fieldMax (F.wearGenStatusNextGroup n) + 1) := by
  unfold State.genTaken fieldMax
  rw [State.get_put_same _ (.ofBits rfl), Nat.sub_add_cancel (Nat.two_pow_pos _)]

theorem genTaken_outs {o : OutState} (ho : s.outs[n]? = some o) :
    (s.genTaken n sats).outs[n]? = some { o with wear := { o.wear with genRows := [] } } :=
  setWear_outs ho fun w => { w with genRows := [] }

end

section
variable (s : State) (e : Nat) (j : EddyInternal)

theorem giveInternal_frame {T : List Field} {P : List Part} {t : State} (h : Frame T P s t) (m : F.eddyStatusInternal e ∈ T) (me : .engine e ∈ P) :
    Frame T P s (t.giveInternal e j) := (State.setEddy_frame h e _ me).put m

theorem giveInternal_get {f : Field} (h : Apart (F.eddyStatusInternal e) f) (hf : InWord f) : (s.giveInternal e j).get f = s.get f :=
  (State.get_put_other _ h hf _).trans (State.setEddy_get ..)

theorem giveInternal_outs : (s.giveInternal e j).outs = s.outs := rfl

theorem giveInternal_eddys {x : EddyState} (hx : s.eddys[e]? = some x) :
    (s.giveInternal e j).eddys[e]? = some { x with internal := x.internal ++ [j] } := updAt_some hx

end

theorem wearCtrlEddy_lt (s : State) (n : Nat) : s.act (F.wearCtrlEddy n) < 4 := Nat.mod_lt _ (Nat.two_pow_pos 2)

/-- The engines' registers lie below those of the stages. -/
theorem eddyInternal_apart_stage {e : Nat} (he : e < 4) {f : Field} (hf : 0x4000000 ≤ f.addr) : Apart (F.eddyStatusInternal e) f := by
  refine .inl fun h => ?_
  rw [← h] at hf
  simp only [F.eddyStatusInternal, R.eddyStatus] at hf
  omega

section
variable (s : State) {n e : Nat} (he : e < 4) (sats : Nat) (j : EddyInternal)

theorem genGiven_frame : Frame [F.wearMapSatsCount n, F.wearGenStatusNextGroup n, F.eddyStatusInternal e] [.output n, .engine e] s
    ((s.genTaken n sats).giveInternal e j) :=
  giveInternal_frame s e j ((genTaken_frame s n sats).mono (by simp) (by simp)) (by simp) (by simp)

include he

theorem genGiven_sats : ((s.genTaken n sats).giveInternal e j).get (F.wearMapSatsCount n) =
    min (fieldMax (F.wearMapSatsCount n)) (s.get (F.wearMapSatsCount n) + sats) :=
  (giveInternal_get _ e j (eddyInternal_apart_stage he (by simp only [F.wearMapSatsCount, R.wearMapSats]; omega)) (.ofBits rfl)).trans
    (genTaken_sats s n sats)

theorem genGiven_next : ((s.genTaken n sats).giveInternal e j).get (F.wearGenStatusNextGroup n) =
    (s.get (F.wearGenStatusNextGroup n) + 1) % max 1 (s.wearGroups n) % (fieldMax (F.wearGenStatusNextGroup n) + 1) :=
  (giveInternal_get _ e j (eddyInternal_apart_stage he (by simp only [F.wearGenStatusNextGroup, R.wearGenStatus]; omega)) (.ofBits rfl)).trans
    (genTaken_next s n sats)

end

/-- A group all of whose rows are there goes to the engine as an internal job. -/
theorem genReady_gives {s : State} {n : Nat} {o : OutState} (ho : s.outs[n]? = some o) (hb : o.wear.base ≠ none) (hw : o.wear.genRows ≠ [])
    (hr : ∀ r ∈ o.wear.reading, r.gen = false) (hm : s.genMissing n (s.get (F.wearGenStatusNextGroup n)) = []) :
    Frame [F.wearMapSatsCount n, F.wearGenStatusNextGroup n, F.eddyStatusInternal (s.act (F.wearCtrlEddy n))]
        [.output n, .engine (s.act (F.wearCtrlEddy n))] s (s.genReady n) ∧
      (s.genReady n).get (F.wearMapSatsCount n) =
        min (fieldMax (F.wearMapSatsCount n)) (s.get (F.wearMapSatsCount n) + (s.genLifted n o.wear).2) ∧
      (s.genReady n).get (F.wearGenStatusNextGroup n) =
        (s.get (F.wearGenStatusNextGroup n) + 1) % max 1 (s.wearGroups n) % (fieldMax (F.wearGenStatusNextGroup n) + 1) ∧
      (s.genReady n).outs[n]? = some { o with wear := { o.wear with genRows := [] } } ∧
      ∀ x, s.eddys[s.act (F.wearCtrlEddy n)]? = some x → (s.genReady n).eddys[s.act (F.wearCtrlEddy n)]? =
        some { x with internal := x.internal ++ [⟨n, s.get (F.wearGenStatusNextGroup n), s.hActive n, (s.genLifted n o.wear).1⟩] } := by
  rw [genReady_whole ho hb hw hr hm]
  refine ⟨genGiven_frame s _ _, genGiven_sats s (wearCtrlEddy_lt s n) _ _,
    genGiven_next s (wearCtrlEddy_lt s n) _ _, ?_, fun x hx => giveInternal_eddys _ _ _ hx⟩
  rw [giveInternal_outs, genTaken_outs s n _ ho]

/-! An internal job done. -/

/-- The engine with its internal job done: the job gone from its queue and counted. -/
def State.internalEnded (s : State) (e : Nat) (rest : List EddyInternal) : State :=
  ((s.setEddy e fun x => { x with internal := rest, waits := none }).count (F.eddyJobsCount e) 1).showInternal e

section
variable (s : State) (e : Nat) (rest : List EddyInternal)

theorem internalEnded_frame : Frame [F.eddyJobsCount e, F.eddyStatusInternal e] [.engine e] s (s.internalEnded e rest) :=
  ((State.setEddy_frame (Frame.refl _ _ s) e _ (by simp)).count (by simp)).put (by simp)

theorem internalEnded_jobs : (s.internalEnded e rest).get (F.eddyJobsCount e) = min (fieldMax (F.eddyJobsCount e)) (s.get (F.eddyJobsCount e) + 1) :=
  (State.get_put_other _ (.ofBases rfl rfl rfl) (.ofBits rfl) _).trans (count_get _ _ _ (.ofBits rfl))

theorem internalEnded_eddys {x : EddyState} (hx : s.eddys[e]? = some x) :
    (s.internalEnded e rest).eddys[e]? = some { x with internal := rest, waits := none } := updAt_some hx

end

/-- A generated record placed through the ports of the Hold. -/
def State.recordPlaced (t : State) (base : Nat) (j : EddyInternal) (m : Nat) (port : HoldPort) : State :=
  ((t.openPort (· == m) port).placeRecord j.output base j).closePort

/-- The record of an internal job placed, when the wear map has a base in use. -/
def State.internalPlaced (t : State) (base : Option Nat) (j : EddyInternal) (m : Nat) (port : HoldPort) : State :=
  match base with
  | some b => t.recordPlaced b j m port
  | none => t

section
variable {s : State} {e : Fin 4} {x : EddyState} {j : EddyInternal} {rest : List EddyInternal} (hx : s.eddys[e.val]? = some x)
  (hj : x.internal = j :: rest) (hi : s.get (F.eddyStatusInternal e) = 1) (hf : s.frozen (eddyMaster e) = false)
  {base : Nat} (hb : (s.wearOf j.output).base = some base) (port : HoldPort)
include hx hj hi hf hb

/-- The job's accesses held at the gate, the job goes on; let through, its record is placed. -/
theorem exec_eddyInternalJobDone : exec (.eddyInternalJobDone e port) s =
    let m := s.wearMaster j.output
    let u := (s.internalEnded e rest).recordPlaced base j m port
    if s.runHeld m base (32 * s.act (F.wearMapBytesBytes j.output)) = true then .next s
    else .next (if j.group + 1 = u.wearGroups j.output then u.endPass j.output else u) := by
  have ht : ((s.internalEnded e rest).wearOf j.output).base = some base := hb
  show execEddyInternalJobDone e port s = _
  unfold execEddyInternalJobDone
  rw [eddy_of hx, hj]
  dsimp only
  rw [hb, on_of s _ hi, hf]
  change (let u := (s.internalEnded e rest).internalPlaced ((s.internalEnded e rest).wearOf j.output).base j (s.wearMaster j.output) port
    if s.runHeld (s.wearMaster j.output) base (32 * s.act (F.wearMapBytesBytes j.output)) = true then Host.Outcome.next s
    else .next (if j.group + 1 = u.wearGroups j.output then u.endPass j.output else u)) = _
  rw [ht]
  rfl

end

/-- Settles O24: a group due by whether rows are missing, a group whose rows are there, an internal job by whether its accesses are let through. -/
theorem wearGenerator : Obligations.WearGenerator := by
  unfold Obligations.WearGenerator
  refine ⟨fun s n o ho => ?_, fun s e port x j rest hx hj hi hf => ?_⟩
  · refine ⟨fun h hg hm => ?_, fun h hg hm => ?_, fun h => exec_wearGenGroup_idle (h.imp_left (not_congr (genOn_iff ho)).2),
      genReady_gives ho⟩
    · rw [exec_wearGenGroup ((genOn_iff ho).2 h) hg, genAsk_none hm]
    · have he := exec_wearGenGroup ((genOn_iff ho).2 h) hg
      rw [genAsk_some hm] at he
      exact ⟨_, he, State.setWear_frame (.refl _ _ s) n _ (by simp), setWear_outs ho _⟩
  · refine ⟨fun base hb hh => ?_, s.internalEnded e rest, internalEnded_frame s e rest, internalEnded_jobs s e rest, internalEnded_eddys s e rest hx,
      fun base hb hh => ?_⟩
    · exact (exec_eddyInternalJobDone hx hj hi hf hb port).trans (if_pos hh)
    · have he := (exec_eddyInternalJobDone hx hj hi hf hb port).trans (if_neg (by simp [hh]))
      exact ⟨fun hg => he.trans (congrArg _ (if_neg hg)), fun hg => he.trans (congrArg _ (if_pos hg))⟩

end Sys2Proof.Machine
end

section
/-! The start of a frame and of a line (R145 to R147, R160, R166, R175, R195). -/

open Sys2Proof Sys2Proof.Machine

namespace Sys2Proof.Machine

/-! What a frame begun changes of its output. -/

/-- An output x that differs from o in its pacing alone, and counts on from the same multiple of the period (R145). -/
structure Repaced (o x : OutState) : Prop where
  rest : x = { o with sync := x.sync }
  origin : x.sync.origin = o.sync.origin
  frames : x.sync.frames = o.sync.frames

theorem Repaced.refl (o : OutState) : Repaced o o := ⟨rfl, rfl, rfl⟩

theorem Repaced.trans {o x y : OutState} (h : Repaced o x) (k : Repaced x y) : Repaced o y :=
  ⟨by rw [k.rest, h.rest], k.origin.trans h.origin, k.frames.trans h.frames⟩

/-- A change of output n that repaces it. -/
def Repaces (n : Nat) (s t : State) : Prop := ∃ g, t = s.setOut n g ∧ ∀ o, Repaced o (g o)

theorem setOut_setOut (s : State) (n : Nat) (f g : OutState → OutState) : (s.setOut n f).setOut n g = s.setOut n fun o => g (f o) := by
  unfold State.setOut updAt
  rw [List.modify_modify_eq]
  rfl

theorem setOut_id (s : State) (n : Nat) : s.setOut n id = s := by
  unfold State.setOut updAt
  rw [List.modify_id]

theorem Repaces.refl (n : Nat) (s : State) : Repaces n s s := ⟨id, (setOut_id s n).symm, .refl⟩

section
variable {n : Nat} {s t : State} (h : Repaces n s t)
include h

theorem Repaces.setOut {g : OutState → OutState} (hg : ∀ o, Repaced o (g o)) : Repaces n s (t.setOut n g) := by
  obtain ⟨f, rfl, hf⟩ := h
  exact ⟨_, setOut_setOut s n f g, fun o => (hf o).trans (hg _)⟩

theorem Repaces.choosePull : Repaces n s (t.choosePull n) := by
  unfold State.choosePull
  dsimp only
  split
  · exact h.setOut fun _ => ⟨rfl, rfl, rfl⟩
  · split
    · exact h.setOut fun _ => ⟨rfl, rfl, rfl⟩
    · refine (h.setOut ?_).setOut ?_ <;> exact fun _ => ⟨rfl, rfl, rfl⟩

theorem Repaces.retimeEpochs (epoch : Int) : Repaces n s (t.retimeEpochs n epoch) := h.setOut fun _ => ⟨rfl, rfl, rfl⟩

end

theorem Repaces.ite {n : Nat} {s t u : State} {c : Prop} [Decidable c] (ht : Repaces n s t) (hu : Repaces n s u) :
    Repaces n s (if c then t else u) := by
  split
  · exact ht
  · exact hu

theorem Repaces.frame {n : Nat} {s t : State} (h : Repaces n s t) {T : List Field} {P : List Part} {r : State} (hf : Frame T P r s)
    (m : .output n ∈ P) : Frame T P r t := by
  obtain ⟨g, rfl, -⟩ := h
  exact State.setOut_frame hf n g m

theorem Repaces.get {n : Nat} {s t : State} (h : Repaces n s t) (f : Field) : t.get f = s.get f := by
  obtain ⟨g, rfl, -⟩ := h
  rfl

theorem Repaces.outs {n : Nat} {s t : State} (h : Repaces n s t) {o : OutState} (ho : s.outs[n]? = some o) :
    ∃ x, t.outs[n]? = some x ∧ Repaced o x := by
  obtain ⟨g, rfl, hg⟩ := h
  exact ⟨g o, updAt_some ho, hg o⟩

/-- The timing that a frame of a kind runs under: a blank frame keeps the one of the frame before it (R166). -/
def State.timingBegun (s : State) (n kind : Nat) (o : OutState) : Timing := if kind = 1 then o.timing else timingOf s.act n

/-- The refresh that it has: the one before it where it is blank or a rung waits for its edge (R173). -/
def State.rateBegun (s : State) (n kind : Nat) (o : OutState) : Nat × Nat :=
  let t := s.timingBegun n kind o
  if !o.waiting && (kind == 1 || (o.rungPending.isSome && t.num == o.timing.num && t.den == o.timing.den)) then o.rate else s.rateAt n t

theorem rateBegun_kept {s : State} {n kind : Nat} {o : OutState} (hw : o.waiting = false)
    (h : kind = 1 ∨ s.rateAt n (s.timingBegun n kind o) = o.rate) : s.rateBegun n kind o = o.rate := by
  unfold State.rateBegun
  rcases h with h | h
  · exact if_pos (by simp [hw, h])
  · exact (ite_congr rfl (fun _ => rfl) fun _ => h).trans (ite_self _)

/-- What a frame begun at an edge makes of its output o (R145, R146, R160, R166). -/
def FrameBegun (s : State) (n kind : Nat) (edge : Int) (o x : OutState) : Prop :=
  let t := s.timingBegun n kind o
  x.waiting = false ∧ x.timing = t ∧ x.frameLines = t.vTotal ∧ x.line = 0 ∧ x.landed = false ∧ x.landLine = s.landQ n ∧ x.kind = kind ∧
    x.edge = edge ∧ x.frameZero = o.waiting ∧ x.routeHeld = (o.routeHeld || decide (o.stall ≠ 0)) ∧
    (o.waiting = false → o.timing.pace = 0 → t.pace = 0 → (kind = 1 ∨ s.rateAt n t = o.rate) →
      x.sync.origin = o.sync.origin ∧ x.sync.frames = o.sync.frames + 1)

theorem FrameBegun.repaced {s : State} {n kind : Nat} {edge : Int} {o x y : OutState} (b : FrameBegun s n kind edge o x) (h : Repaced x y) :
    FrameBegun s n kind edge o y := by
  obtain ⟨hy, ho, hf⟩ := h
  unfold FrameBegun at b ⊢
  rw [ho, hf, hy]
  exact b

section
variable {s : State} {n : Fin 4} {o : OutState} (h : s.outs[n.val]? = some o)
include h

/-- A frame begun changes its output, shows whether it is blank and fits the pacing, which is not begun anew where the frame before was no blank
frame or PACE is what it was. -/
theorem beginFrame_eq {kind : Nat} (hp : o.kind ≠ 1 ∨ kind = 1 ∨ o.timing.pace = (timingOf s.act n).pace) (edge : Int) :
    ∃ g, Repaces n ((s.setOut n g).put (F.tgStatusBlankFrame n) (decide (kind = 1)).toNat) (s.beginFrame n kind edge) ∧
      FrameBegun s n kind edge o (g o) := by
  have hnew : ¬ (o.kind == 1 && kind != 1 && o.timing.pace != (s.timingBegun n kind o).pace) = true := by
    unfold State.timingBegun
    rcases hp with hp | hp | hp
    · simp [hp]
    · simp [hp]
    · split <;> simp [hp]
  unfold State.timingBegun at hnew
  unfold State.beginFrame
  dsimp only
  rw [outp_of h, if_neg hnew]
  refine ⟨_, (Repaces.ite ((Repaces.refl n _).retimeEpochs _) (.refl n _)).choosePull, ?_⟩
  refine ⟨rfl, rfl, rfl, rfl, rfl, rfl, rfl, rfl, rfl, rfl, fun hw ho ht hr => ?_⟩
  have hcount : (!o.waiting && o.timing.pace == 0 && (s.timingBegun n kind o).pace == 0 && s.rateBegun n kind o == o.rate) = true := by
    simp [hw, ho, ht, rateBegun_kept hw hr]
  exact ⟨if_pos hcount, if_pos hcount⟩

/-- A frame begun changes BLANK_FRAME and its output alone (R166). -/
theorem beginFrame_spec {kind : Nat} (hp : o.kind ≠ 1 ∨ kind = 1 ∨ o.timing.pace = (timingOf s.act n).pace) (edge : Int) :
    let b := s.beginFrame n kind edge
    Frame [F.tgStatusBlankFrame n] [.output n] s b ∧ (b.get (F.tgStatusBlankFrame n) = 1 ↔ kind = 1) ∧
      ∃ x, b.outs[n.val]? = some x ∧ FrameBegun s n kind edge o x := by
  obtain ⟨g, hr, hg⟩ := beginFrame_eq h hp edge
  obtain ⟨x, hx, hpx⟩ := hr.outs (updAt_some h)
  refine ⟨hr.frame ((State.setOut_frame (.refl _ _ s) n g (by simp)).put (by simp)) (by simp), ?_, x, hx, hg.repaced hpx⟩
  rw [hr.get, get_put_of_lt _ (.ofBits rfl) (Bool.toNat_lt _)]
  by_cases hk : kind = 1 <;> simp [hk]

end

/-! Where a free-running output's frame edge is due. -/

theorem edgeDue_iff {s : State} {n : Nat} {x a b : Int} (hp : s.paceOf n = 0) (hx : s.nextEdge n = some x) (hs : s.edgeSlack n = (a, b)) (t : Int) :
    s.edgeDue n t = true ↔ x - a ≤ t ∧ t ≤ x + b := by
  unfold State.edgeDue
  simp [hp, hx, hs]

section
variable {s : State} {n : Nat} {o : OutState} (h : s.outs[n]? = some o)
include h

theorem paceOf_eq : s.paceOf n = if o.waiting then s.act (F.tgCtrlPace n) else o.timing.pace := by
  unfold State.paceOf State.timingNow
  rw [outp_of h]
  split <;> rfl

/-- Frame 0 begins 50 µs after the write, within a tick. -/
theorem edgeDue_first (hw : o.waiting = true) (hp : s.act (F.tgCtrlPace n) = 0) (edge : Int) :
    s.edgeDue n edge = true ↔ o.sync.startAt + 50000000 ≤ edge ∧ edge ≤ o.sync.startAt + 50000000 + 4000 := by
  have hpace : s.paceOf n = 0 := by rw [paceOf_eq h, if_pos hw, hp]
  have hnext : s.nextEdge n = some (o.sync.startAt + 50000000) := by
    unfold State.nextEdge
    simp [outp_of h, hw, hpace]
  have hslack : s.edgeSlack n = (0, 4000) := by
    unfold State.edgeSlack
    simp [outp_of h, hw, hpace]
  rw [edgeDue_iff hpace hnext hslack, Int.sub_zero]

/-- The end of a frame under way is the next multiple of the period. -/
theorem frameEnd_free (hp : o.timing.pace = 0) :
    s.frameEnd n = o.sync.origin + rheDiv (((o.sync.frames + 1) * (s.framePs n).1 : Nat) : Int) (s.framePs n).2 := by
  unfold State.frameEnd
  rw [outp_of h]
  exact if_pos hp

/-- A later frame begins within a pixel of that end. -/
theorem edgeDue_next (hw : o.waiting = false) (hp : o.timing.pace = 0) {edge : Int} (hd : s.edgeDue n edge = true) :
    (edge - (o.sync.origin + rheDiv (((o.sync.frames + 1) * (s.framePs n).1 : Nat) : Int) (s.framePs n).2)).natAbs ≤
      ceilDiv (s.framePs n).1 ((s.framePs n).2 * max 1 (o.timing.vTotal * o.timing.hTotal)) := by
  have hpace : s.paceOf n = 0 := by rw [paceOf_eq h, hw, ← hp]; rfl
  have hnext : s.nextEdge n = some (s.frameEnd n) := by
    unfold State.nextEdge
    simp [outp_of h, hw, hpace]
  have hslack : s.edgeSlack n =
      (let px : Int := ceilDiv (s.framePs n).1 ((s.framePs n).2 * max 1 (o.timing.vTotal * o.timing.hTotal)); (px, px)) := by
    unfold State.edgeSlack
    simp [outp_of h, hw, hpace]
  obtain ⟨hlow, hhigh⟩ := (edgeDue_iff hpace hnext hslack edge).1 hd
  rw [← frameEnd_free h hp]
  omega

end

/-! The start of a frame. -/

/-- The kind of the frame that is next. -/
def OutState.kindNext (o : OutState) : Nat := if o.waiting then 0 else o.nextKind

/-- The state in which the next frame of output n is begun, its gates those of the structure in force. -/
def State.begun (s : State) (n : Nat) (o : OutState) (edge : Int) : State :=
  ((if o.waiting then s.frameZero n else s).beginFrame n o.kindNext edge).turnGates n

/-- The structure noted that the frame begun runs under, and its dither frame begun. -/
def State.framed (t : State) (n : Nat) : State := (t.setOut n fun x => { x with prev := t.cfg n }).dithFrame n

/-- The frame pulse begun at an edge. -/
def State.framePulse (t : State) (n : Nat) (edge : Int) : State :=
  t.refPulse 0 n (t.timeAt edge) (some (rheDiv ((t.framePs n).1 : Nat) (max 1 (t.framePs n).2 * 1000)).toNat)

/-- A visible frame begun: one that follows a frame of another kind reads the picture again and ends the lanes' patterns. -/
def State.shown (b : State) (n : Nat) (o : OutState) : State :=
  if o.kind ≠ 0 then ((b.cfg n).lanes).foldl (fun t l => t.setLane l fun x => { x with fill := none }) (b.beginRead n) else b

/-- The gates of a visible frame: idle under a held route and in frame 0. -/
def State.shownGates (t : State) (n : Nat) (held waiting : Bool) : State :=
  if held then (t.gatesIdle n).odrvForget n else if waiting then t.gatesIdle n else t

/-- A frame start begins the frame that is awaited where its edge is due. -/
theorem exec_frameStart (s : State) (n : Fin 4) (edge : Int) (low : BitVec 4) : exec (.frameStart n edge low) s =
    .next (if s.frameReady n && s.edgeDue n edge then (s.startFrame n edge low).holdEpochs else s) := rfl

section
variable {s : State} {n : Nat} {o : OutState} (h : s.outs[n]? = some o)
include h

theorem frameReady_eq (hr : s.running n = true) (hc : o.cut = false) :
    s.frameReady n = (o.waiting || (!o.stopping && o.line == o.frameLines)) := by
  unfold State.frameReady
  simp [outp_of h, hr, hc]

/-- The next frame by its kind, begun in state b. -/
theorem startFrame_eq (edge : Int) (low : BitVec 4) :
    let b := s.begun n o edge
    let held := (b.outp n).routeHeld
    s.startFrame n edge low =
      let t :=
        if o.kindNext = 1 then ((b.changeLanes n).gatesIdle n).beginCals n true low
        else if o.kindNext = 2 then ((b.chooseLines n).gatesIdle n).beginCals n false low
        else (b.shown n o).shownGates n held o.waiting
      (if o.kindNext = 1 then t.framed n else (t.framed n).framePulse n edge).wearFrame n o.kindNext held := by
  unfold State.startFrame
  rw [outp_of h]
  rfl

theorem startFrame_blank (hk : o.kindNext = 1) (edge : Int) (low : BitVec 4) :
    let b := s.begun n o edge
    s.startFrame n edge low = ((((b.changeLanes n).gatesIdle n).beginCals n true low).framed n).wearFrame n 1 (b.outp n).routeHeld := by
  rw [startFrame_eq h]
  dsimp only
  rw [if_pos hk, if_pos hk, hk]

theorem startFrame_calibration (hk : o.kindNext = 2) (edge : Int) (low : BitVec 4) :
    let b := s.begun n o edge
    s.startFrame n edge low =
      (((((b.chooseLines n).gatesIdle n).beginCals n false low).framed n).framePulse n edge).wearFrame n 2 (b.outp n).routeHeld := by
  rw [startFrame_eq h]
  dsimp only
  rw [hk]
  rfl

theorem startFrame_visible (hk : o.kindNext = 0) (edge : Int) (low : BitVec 4) :
    let b := s.begun n o edge
    s.startFrame n edge low =
      ((((b.shown n o).shownGates n (b.outp n).routeHeld o.waiting).framed n).framePulse n edge).wearFrame n 0 (b.outp n).routeHeld := by
  rw [startFrame_eq h]
  dsimp only
  rw [hk]
  rfl

end

/-! The start of a line. -/

/-- Whether a line of a frame is driven. -/
def OutState.driven (o : OutState) : Bool := o.kind == 0 && !o.routeHeld

/-- A line of output n begun: counted, its position noted, its lane words sent. -/
def State.lineBegun (s : State) (n : Nat) (o : OutState) : State :=
  ((s.setOut n fun x => { x with line := o.line + 1 }).puts [(F.tgPositionLine n, o.line), (F.tgPositionPixel n, 0)]).laneLine n o.line o.driven

/-- The watch lanes' trials where the blanking begins, and the line pulse. -/
def State.linePulse (g : State) (n : Nat) (o : OutState) (low : BitVec 4) : State :=
  (if o.driven && o.line == o.timing.vActive then g.watchTrials n low else g).refPulse 1 n (g.timeAt (g.lineAt n o.line))
    (some (rheDiv ((g.framePs n).1 : Nat) (max 1 (g.framePs n).2 * 1000 * max 1 o.timing.vTotal)).toNat)

/-- The gates of a line begun, driven but for the landing line's (R176). -/
def State.lineGates (b : State) (n : Nat) (o : OutState) : State :=
  if o.driven && !(!o.landed && o.line == o.landLine) then b.gateLine n o.line none else b

/-- The calibrations closed that a calibration or blank frame has no time left for (R222). -/
def State.calsClosed (v : State) (n : Nat) (o : OutState) : State := if o.kind ≠ 0 ∧ !v.trialTime n then v.closeCals n else v

/-- What keeps a line from its start: no frame under way with a line to come, a Landing that is due first, or no picture. -/
def State.noLine (s : State) (n : Nat) (o : OutState) : Bool :=
  !s.running n || o.waiting || o.cut || decide (o.frameLines ≤ o.line) || (o.kind == 0 && !o.landed && decide (o.landLine < o.line)) ||
    (o.driven && !s.lineReady n o.line)

theorem calsClosed_eq (v : State) (n : Nat) (o : OutState) :
    v.calsClosed n o = if o.kind ≠ 0 ∧ v.trialTime n = false then v.closeCals n else v := if_congr (by simp) rfl rfl

/-- A line of a frame under way that has it, past the Landing line only once landed, with its picture where it is driven, is kept by nothing. -/
theorem noLine_false {s : State} {n : Nat} {o : OutState} (hr : s.running n = true) (hc : o.cut = false) (hw : o.waiting = false)
    (hl : o.line < o.frameLines) (hq : o.kind = 0 → o.landed = true ∨ o.line ≤ o.landLine)
    (hy : o.kind = 0 → o.routeHeld = false → s.lineReady n o.line = true) :
    s.noLine n o = false := by
  have hland : (o.kind == 0 && !o.landed && decide (o.landLine < o.line)) = false := by
    by_cases hk : o.kind = 0
    · rcases hq hk with hd | hle
      · simp [hd]
      · simp [Nat.not_lt.2 hle]
    · simp [hk]
  have hpicture : (o.driven && !s.lineReady n o.line) = false := by
    unfold OutState.driven
    by_cases hk : o.kind = 0
    · cases hh : o.routeHeld
      · simp [hy hk hh]
      · simp
    · simp [hk]
  unfold State.noLine
  simp [hr, hc, hw, hl, hland, hpicture]

theorem noLine_true {s : State} {n : Nat} {o : OutState} (hi : o.waiting = true ∨ o.frameLines ≤ o.line ∨
    (o.kind = 0 ∧ o.landed = false ∧ o.landLine < o.line) ∨ (o.kind = 0 ∧ o.routeHeld = false ∧ s.lineReady n o.line = false)) :
    s.noLine n o = true := by
  unfold State.noLine OutState.driven
  rcases hi with hw | hl | ⟨hk, hn, hl⟩ | ⟨hk, hh, hy⟩
  · simp [hw]
  · simp [hl]
  · simp [hk, hn, hl]
  · simp [hk, hh, hy]

/-- A line start: the last line of a frame under HOLD ends it (R221). -/
theorem exec_lineStart {s : State} {n : Fin 4} {o : OutState} (h : s.outs[n.val]? = some o) (low : BitVec 4) : exec (.lineStart n low) s =
    if s.noLine n o then .next s
    else
      let c := (((s.lineBegun n o).lineGates n o).linePulse n o low).calsClosed n o
      .next (if o.kind ≠ 0 ∧ o.heldLanes ∧ o.line + 1 = o.frameLines then c.endCalFrame n else c) := by
  have hland : (o.driven && !(!o.landed && o.line == o.landLine)) = (o.driven && !(o.kind == 0 && !o.landed && o.line == o.landLine)) := by
    unfold OutState.driven
    cases o.kind == 0 <;> rfl
  unfold State.lineGates
  rw [hland]
  show execLineStart n low s = _
  unfold execLineStart
  rw [outp_of h]
  rfl

/-- Settles O27: a frame start by whether it is due and of which kind, the edges of a free-running output, what a frame begun changes, and a line
start by whether the frame has that line and its picture. -/
theorem framesAndLines : Obligations.FramesAndLines := by
  unfold Obligations.FramesAndLines
  intro s n o h hr hc
  refine ⟨fun edge low hn hd => ?_, fun edge low hi => ?_, fun hw hp edge => edgeDue_first h hw hp edge, fun hw hp _ hd => edgeDue_next h hw hp hd,
    fun kind edge hp => beginFrame_spec h hp edge, fun low hw hl hq hy => ?_, fun low hi => ?_⟩
  · have hready : (s.frameReady n && s.edgeDue n edge) = true := by
      rw [frameReady_eq h hr hc, hd]
      rcases hn with hw | ⟨hs, hl⟩
      · simp [hw]
      · simp [hs, hl]
    have e : exec (.frameStart n edge low) s = .next (s.startFrame n edge low).holdEpochs := by rw [exec_frameStart, if_pos hready]
    refine ⟨fun hk => ?_, fun hk => ?_, fun hk => ?_⟩
    · rw [e, startFrame_blank h hk]
      rfl
    · rw [e, startFrame_calibration h hk]
      rfl
    · rw [e, startFrame_visible h hk]
      rfl
  · have hidle : ¬ (s.frameReady n && s.edgeDue n edge) = true := by
      rw [frameReady_eq h hr hc]
      rcases hi with ⟨hw, hs | hl⟩ | hd
      · simp [hw, hs]
      · simp [hw, hl]
      · simp [hd]
    rw [exec_frameStart, if_neg hidle]
  · have e := exec_lineStart h low
    rw [noLine_false hr hc hw hl hq hy, if_neg Bool.false_ne_true, calsClosed_eq] at e
    refine ⟨fun hk hh hlast => e.trans (congrArg _ (if_pos ⟨hk, hh, hlast⟩)), fun hn => e.trans (congrArg _ (if_neg ?_))⟩
    rintro ⟨hk, hh, hlast⟩
    simp [hk, hh, hlast] at hn
  · rw [exec_lineStart h, if_pos (noLine_true hi)]

end Sys2Proof.Machine
end

section
/-! The power-fail discharge (R183 to R185, R395, R396). -/

open Sys2Proof Sys2Proof.Machine

namespace Sys2Proof.Machine

/-! PFAIL_N. -/

theorem exec_pfailRecognised_idle {s : State} (h : s.power.pfailLow = false ∨ s.power.pfail = true) : exec .pfailRecognised s = .next s :=
  if_pos (by rcases h with h | h <;> simp [h])

section
variable {s : State} (ho : s.power.off = false)
include ho

theorem exec_pfailRecognised (hl : s.power.pfailLow = true) (hp : s.power.pfail = false) : exec .pfailRecognised s =
    let t := s.setPower fun p => { p with pfail := true }
    .next (if s.powerState = 5 ∨ s.powerState = 6 then ((t.put F.glbPowerStatusPfailSeen 1).setPower fun p => { p with pfailThaw := true }).discharge false
      else if s.powerState = 4 then (t.abandonEntry.raise 8).discharge false
      else (t.raise 8).discharge true) :=
  if_neg (by simp [hl, hp, ho])

/-- PFAIL_N is high again: the event where the failure had been recognised, and a start-up that it halted goes on. -/
theorem exec_pfailNRise : exec .pfailNRise s =
    let t := s.setPower fun p => { p with pfailLow := false, pfail := false }
    let u := (if s.power.pfail then [9] else []).foldl State.raise t
    .next (if s.power.halted then u.finishStart else u) := by
  have e : exec .pfailNRise s =
      let t := s.setPower fun p => { p with pfailLow := false, pfail := false }
      let u := if s.power.pfail && !s.power.off then t.raise 9 else t
      .next (if u.power.halted && !u.power.off then u.finishStart else u) := rfl
  rw [e]
  cases s.power.pfail <;> simp [ho, raise_power]

end

/-! The states of an output's discharge. -/

/-- The state in which DCHGn_N is low, in state 2 of the sequence. -/
def State.dchgHeld (t : State) (n : Nat) : State := (t.setOut n fun o => { o with dchgN := false }).put (F.scnDchgStatusState n) 2

section
variable {s : State} {n : Fin 4} {o : OutState} (h : s.outs[n.val]? = some o)
include h

theorem exec_discharge_uncut (hc : o.cut = false) :
    exec (.dischargeCut n) s = .next s ∧ exec (.dischargeHoldExpiry n) s = .next s ∧ exec (.dischargeComplete n) s = .next s := by
  have hs : (s.outp n).cut = false := by rw [outp_of h, hc]
  exact ⟨if_pos (by simp [hs]), if_pos (by simp [hs]), if_pos (by simp [hs])⟩

variable (hc : o.cut = true)
include hc

theorem exec_dischargeCut : exec (.dischargeCut n) s =
    if o.dchgRan = false then .next ((s.stopOut n).uncut n)
    else if s.get (F.scnDchgStatusState n) ≠ 1 then .next s
    else
      let u := ((s.orderLanes n).gatePattern n).dchgHeld n
      .next (if o.dchgN then u.emit (.dchg n false) else u) := by
  rw [← outp_of h] at hc ⊢
  refine (if_neg (by simp [hc])).trans (if_congr (by simp) rfl rfl)

theorem exec_dischargeHoldExpiry (hs : s.get (F.scnDchgStatusState n) = 2) : exec (.dischargeHoldExpiry n) s =
    .next (((s.drivenLanes n).foldl State.laneOff (s.gatesOff n)).put (F.scnDchgStatusState n) 3) := by
  rw [← outp_of h] at hc
  exact if_neg (by simp [hc, hs])

theorem exec_dischargeComplete (hr : o.dchgRan = true) (hs : s.get (F.scnDchgStatusState n) = 3) : exec (.dischargeComplete n) s =
    .next ((if s.running n then s.stopOut n else s.put (F.tgCtrlEn n) 0).uncut n) := by
  rw [← outp_of h] at hc hr
  exact if_neg (by simp [hc, hr, hs])

end

/-- DCHGn_N low changes STATE and the pin's output alone (R184). -/
theorem dchgHeld_spec (t : State) (n : Nat) : Frame [F.scnDchgStatusState n] [.output n] t (t.dchgHeld n) ∧
    (t.dchgHeld n).get (F.scnDchgStatusState n) = 2 ∧
    ∀ x, t.outs[n]? = some x → (t.dchgHeld n).outs[n]? = some { x with dchgN := false } :=
  ⟨(State.setOut_frame (.refl _ _ t) n _ (by simp)).put (by simp), get_put_of_lt _ (.ofBits rfl) (by simp [F.scnDchgStatusState]),
    fun _ hx => updAt_some hx⟩

/-- Settles O29: each command is an equation of `exec`; which branch it takes is what the clauses distinguish. -/
theorem powerFailDischarge : Obligations.PowerFailDischarge := by
  unfold Obligations.PowerFailDischarge
  refine fun s => ⟨.quiet rfl (setPower_frame (.refl _ _ s) _ (by simp)) rfl, fun ho => ⟨fun hl hp => ?_, exec_pfailRecognised_idle, fun hh => ?_,
    fun hh hp => ?_⟩, fun n o h => ⟨exec_discharge_uncut h, fun hc => ⟨fun hr => ?_, fun hr hs => ?_, fun hs => ?_, exec_dischargeComplete h hc⟩⟩⟩
  · have e := exec_pfailRecognised ho hl hp
    refine ⟨fun h => ⟨_, e.trans (congrArg _ (if_pos h)), ?_, ?_, rfl⟩, fun h4 => e.trans (congrArg _ ?_), fun h4 h5 h6 => e.trans (congrArg _ ?_)⟩
    · exact setPower_frame ((setPower_frame (.refl _ _ s) _ (by simp)).put (by simp)) _ (by simp)
    · exact get_put_of_lt _ (.ofBits rfl) (by decide)
    · rw [if_neg (by simp [h4]), if_pos h4]
    · rw [if_neg (by simp [h5, h6]), if_neg h4]
  · have e := exec_pfailNRise ho
    rw [hh] at e
    exact .intro e (setPower_frame (.refl _ _ s) _ (by simp)) rfl
  · have e := exec_pfailNRise ho
    rw [hh, hp] at e
    exact ⟨_, e, setPower_frame (.refl _ _ s) _ (by simp), rfl⟩
  · rw [exec_dischargeCut h hc, if_pos hr]
  · have e := exec_dischargeCut h hc
    rw [if_neg (by simp [hr]), if_neg (by simp [hs])] at e
    exact ⟨_, e, dchgHeld_spec _ n⟩
  · exact ⟨_, exec_dischargeHoldExpiry h hc hs, (Frame.refl _ _ _).put (by simp), get_put_of_lt _ (.ofBits rfl) (by simp [F.scnDchgStatusState])⟩

end Sys2Proof.Machine
end

section
/-! Resets, PERST# and the service states (R184, R399, R401, R405, R442). -/

open Sys2Proof Sys2Proof.Machine

namespace Sys2Proof.Machine

/-! PERST#. -/

/-- The state in which PERST# is asserted and its cause noted. -/
def State.perstNoted (s : State) : State := (s.setHost fun h => { h with perst := true }).put F.glbResetCausePerst 1

theorem perstNoted_frame (s : State) : Frame [F.glbResetCausePerst] [.host] s s.perstNoted :=
  (State.setHost_frame (.refl _ _ s) _ (by simp)).put (by simp)

/-- The state in which every function is reset and the link is down. -/
def State.coreReset (s : State) : State :=
  ((List.range 32).reverse.foldl (fun t f => if t.fnExists f then t.resetFunction f else t) s).setHost fun h =>
    { h with linkUp := false, inL1 := false, trainedBefore := false, reads := [] }

theorem exec_perstAssert {s : State} (hp : s.host.perst = false) (ho : s.power.off = false) : exec .perstAssert s =
    let t := s.perstNoted
    .next (if s.power.warmPending then t else if s.on F.glbResetCfgPerstFull then t.beginReset false
      else t.coreReset.raiseIf s.host.linkUp 33) := by
  have hc : s.perstNoted.on F.glbResetCfgPerstFull = s.on F.glbResetCfgPerstFull := by
    rw [on_eq, on_eq, (perstNoted_frame s).get (.ofBits rfl) (by simpa using .ofRegs rfl)]
  rw [← hc]
  exact (if_neg (by simp [hp])).trans (if_neg (by simp [ho]))

/-- PERST# released: the event where outputs ran on. -/
theorem exec_perstRelease {s : State} (hp : s.host.perst = true) : exec .perstRelease s =
    .next ((if s.power.off = false ∧ (s.running 0 ∨ s.running 1 ∨ s.running 2 ∨ s.running 3) then [15] else []).foldl State.raise
      (s.setHost fun h => { h with perst := false })) := by
  refine (if_neg (by simp [hp])).trans (congrArg _ ?_)
  rw [State.raiseIf_eq, show List.range 4 = [0, 1, 2, 3] from rfl]
  refine congrArg (List.foldl _ _) (if_congr ?_ rfl rfl)
  simp only [List.any_cons, List.any_nil, Bool.or_false, Bool.and_eq_true, Bool.or_eq_true, Bool.not_eq_true', and_comm]

/-! The causes of a reset. -/

theorem exec_warmReset {s : State} {w : Writer} (ha : s.accepts w R.glbReset = true) : exec (.warmReset w) s =
    let u := s.put F.glbResetCauseWarm 1
    .next (if s.power.warmPending then u else u.beginReset false) := congrArg _ (State.writeBy_accepts ha)

theorem exec_thermalCooldown (s : State) : exec .thermalCooldown s =
    .next (if s.power.thermal && s.power.fabricOff then s.setPower fun p => { p with fabricOff := false } else s) := rfl

/-- The running outputs are discharged first, and the reset is made at once where none is cut (R184, R399, R405). -/
theorem beginReset_spec (s : State) (thermal : Bool) : ∃ t, Frame [] [.power] s.abandonStores t ∧
    t.power = { s.abandonStores.power with warmPending := true, thermal := thermal } ∧
    let u := (List.range 4).foldl (fun t n => if t.running n then t.cutOut n else t) t
    ((∃ o ∈ u.outs, o.cut = true) → s.beginReset thermal = u) ∧ ((∀ o ∈ u.outs, o.cut = false) → s.beginReset thermal = u.doReset) := by
  refine ⟨_, State.setPower_frame (.refl _ _ _) _ (by simp), rfl, fun h => if_pos (List.any_eq_true.2 h), fun h => if_neg ?_⟩
  rw [List.any_eq_true]
  rintro ⟨o, ho, hc⟩
  simp [h o ho] at hc

/-! GLB_STATE. -/

/-- The state in which a state of service is asked for and entered. -/
def State.stateEntered (s : State) (req : Nat) : State := s.puts [(F.glbStateReqState, req), (F.glbStateState, req)]

section
variable {s : State} {w : Writer} {req : Fin 4}

theorem exec_stateRequest (ha : s.accepts w R.glbStateReq = true) : exec (.stateRequest w req) s =
    let u := s.put F.glbStateReqState req
    let v := (if req = 3 then [1, 23] else [1]).foldl State.raise (s.stateEntered req)
    .next (if s.get F.glbStateState = 0 ∨ req = 0 then u.put F.glbPowerStatusLastCode 0x713
      else if s.get F.glbStateState = req then u
      else if s.get F.glbStateState = 2 ∨ req = 2 then v.plrlPins (req == 2) else v) := by
  have hs : (s.put F.glbStateReqState req).get F.glbStateState = s.get F.glbStateState := State.get_put_other _ (.ofRegs rfl) (.ofBits rfl) _
  have hv : ((s.stateEntered req).raise 1).raiseIf (req == 3) 23 = (if req = 3 then [1, 23] else [1]).foldl State.raise (s.stateEntered req) := by
    by_cases h : req = 3 <;> simp [h, State.raiseIf]
  dsimp only
  rw [← hs, ← hv]
  exact congrArg _ (State.writeBy_accepts ha)

theorem stateReq_get (s : State) (req : Fin 4) : (s.put F.glbStateReqState req).get F.glbStateReqState = req :=
  get_put_of_lt _ (.ofBits rfl) req.isLt

theorem stateEntered_spec (s : State) (req : Fin 4) : Frame [F.glbStateReqState, F.glbStateState] [] s (s.stateEntered req) ∧
    (s.stateEntered req).get F.glbStateReqState = req ∧ (s.stateEntered req).get F.glbStateState = req :=
  ⟨(Frame.refl _ _ s).puts (by simp), (State.get_put_other _ (.ofRegs rfl) (.ofBits rfl) _).trans (stateReq_get s req),
    get_put_of_lt _ (.ofBits rfl) req.isLt⟩

/-- Start-up leaves for no request, and no state is left for Start-up (R401). -/
theorem stateRequest_refused (ha : s.accepts w R.glbStateReq = true) (h : s.get F.glbStateState = 0 ∨ req = 0) :
    Yields (.stateRequest w req) s [] [F.glbStateReqState, F.glbPowerStatusLastCode] [] fun u =>
      u.get F.glbStateReqState = req ∧ u.get F.glbPowerStatusLastCode = 0x713 ∧ u.get F.glbStateState = s.get F.glbStateState := by
  have hf : Frame [F.glbStateReqState, F.glbPowerStatusLastCode] [] s ((s.put F.glbStateReqState req).put F.glbPowerStatusLastCode 0x713) :=
    ((Frame.refl _ _ s).put (by simp)).put (by simp)
  refine .quiet ((exec_stateRequest ha).trans (congrArg _ (if_pos h))) hf ⟨?_, get_put_of_lt _ (.ofBits rfl) (by decide), hf.get (.ofBits rfl) ?_⟩
  · exact (State.get_put_other _ (.ofRegs rfl) (.ofBits rfl) _).trans (stateReq_get s req)
  · simp only [List.forall_mem_cons]
    exact ⟨.ofRegs rfl, .ofRegs rfl, fun _ h => absurd h List.not_mem_nil⟩

/-- Another state of service entered; the PLRL outputs are driven in Test alone (R401, R442). -/
theorem stateRequest_enters (ha : s.accepts w R.glbStateReq = true) (h0 : s.get F.glbStateState ≠ 0) (hr : req ≠ 0)
    (hn : s.get F.glbStateState ≠ req) :
    (s.get F.glbStateState ≠ 2 → req ≠ 2 →
      Yields (.stateRequest w req) s (if req = 3 then [1, 23] else [1]) [F.glbStateReqState, F.glbStateState] [] fun u =>
        u.get F.glbStateReqState = req ∧ u.get F.glbStateState = req) ∧
    (s.get F.glbStateState = 2 ∨ req = 2 → ∃ u, Frame [F.glbStateReqState, F.glbStateState] [] s u ∧ u.get F.glbStateReqState = req ∧
      u.get F.glbStateState = req ∧
      exec (.stateRequest w req) s = .next ((if req = 3 then (u.raise 1).raise 23 else u.raise 1).plrlPins (req == 2))) := by
  have e := (exec_stateRequest ha).trans (congrArg _ ((if_neg (by simp [h0, hr])).trans (if_neg hn)))
  obtain ⟨hf, hq, hs⟩ := stateEntered_spec s req
  refine ⟨fun h2 hr2 => .intro (e.trans (congrArg _ (if_neg (by simp [h2, hr2])))) hf ⟨hq, hs⟩, fun h => ⟨_, hf, hq, hs, e.trans ?_⟩⟩
  refine congrArg _ ((if_pos h).trans (congrArg (State.plrlPins · _) ?_))
  split <;> rfl

end

/-! The contents of the Hold lost. -/

theorem losebank_unknown (s : State) (b c : Nat) :
    (∃ k, (b, k) ∈ (s.losebank c).hold.unknownBanks) ↔ b = c ∨ ∃ k, (b, k) ∈ s.hold.unknownBanks := by
  simp only [State.losebank, State.clearRange, List.mem_cons, List.mem_filter, Prod.mk.injEq, Bool.or_eq_true, decide_eq_true_eq]
  constructor
  · rintro ⟨k, ⟨h, -⟩ | ⟨h, -⟩⟩
    · exact .inl h
    · exact .inr ⟨k, h⟩
  · rintro (h | ⟨k, h⟩)
    · exact ⟨_, .inl ⟨h, rfl⟩⟩
    · by_cases e : b = c
      · exact ⟨_, .inl ⟨e, rfl⟩⟩
      · exact ⟨k, .inr ⟨h, by omega⟩⟩

/-- A bank lost has contents that are not known. -/
theorem losebanks_unknown {b : Nat} {l : List Nat} (hb : b ∈ l) (s : State) : ∃ k, (b, k) ∈ (l.foldl State.losebank s).hold.unknownBanks := by
  induction l using List.reverseRecOn with
  | nil => exact absurd hb List.not_mem_nil
  | append_singleton l c ih =>
    rw [List.foldl_append, List.foldl_cons, List.foldl_nil, losebank_unknown]
    rcases List.mem_append.1 hb with h | h
    · exact .inr (ih h)
    · exact .inl (List.mem_singleton.1 h)

theorem losebank_bytes {s : State} {b : Nat} {c : Host.Cell} (h : c ∈ (s.losebank b).hold.bytes) : c ∈ s.hold.bytes ∧ bankOf c.1 ≠ b := by
  simp only [State.losebank, State.clearRange, List.mem_filter, Bool.or_eq_true, decide_eq_true_eq] at h
  refine ⟨h.1, ?_⟩
  unfold bankOf
  omega

/-- A bank lost has no byte listed. -/
theorem losebanks_bytes {l : List Nat} {s : State} {c : Host.Cell} (h : c ∈ (l.foldl State.losebank s).hold.bytes) : bankOf c.1 ∉ l := by
  induction l using List.reverseRecOn with
  | nil => exact List.not_mem_nil
  | append_singleton l b ih =>
    rw [List.foldl_append, List.foldl_cons, List.foldl_nil] at h
    obtain ⟨hl, hb⟩ := losebank_bytes h
    simp [ih hl, hb]

theorem loseHold_contents (s : State) :
    (∀ b, b < 256 → ∃ k, (b, k) ∈ s.loseHold.hold.unknownBanks) ∧ ∀ c ∈ s.loseHold.hold.bytes, 0x40000000 ≤ c.1 := by
  refine ⟨fun b hb => losebanks_unknown (List.mem_range.2 hb) _, fun c hc => ?_⟩
  have h := losebanks_bytes hc
  rw [List.mem_range] at h
  unfold bankOf at h
  omega

/-! The state that a reset leaves. -/

/-- The state that a reset leaves before any register, repair or base lock is kept. -/
def State.warmBlank (s : State) : State :=
  { s.coldState with
    hold := { HoldState.reset with
      bytes := s.hold.bytes
      uncorr := s.hold.uncorr
      unknownBanks := s.hold.unknownBanks
      knownWords := s.hold.knownWords
      badRows := s.hold.badRows
      badBanks := s.hold.badBanks }
    lanes := List.replicate 96 { LaneState.reset with lastCal := s.time.ticks }
    time := { TimeState.reset with
      now := s.time.now
      ticks := s.time.ticks
      refinLost := s.time.refinLost
      refclkLost := s.time.refclkLost }
    power := { s.coldState.power with warmStart := true, thermal := s.power.thermal, fabricOff := s.power.thermal } }

/-- The registers, repairs and base locks kept leave every other part alone. -/
theorem warmState_alike (s : State) : Alike s.warmBlank s.warmState :=
  (((Alike.foldl (fun t a => .setReg t a _) [R.glbResetCfg, R.glbResetCause] _).trans (.put _ _ _)).trans (Alike.foldl .repair _ _)).trans
    (Alike.foldl (fun t n => .lock t s n) _ _)

/-- The spares that march tests found failing stay noted. -/
def SparesKept (s t : State) : Prop := t.hold.badRows = s.hold.badRows ∧ t.hold.badBanks = s.hold.badBanks

theorem SparesKept.repair {s t : State} (h : SparesKept s t) (r : Repair) : SparesKept s (t.applyRepair r) := by cases r <;> exact h

theorem keepLock_hold (s old : State) (n : Nat) : (s.keepLock old n).hold = s.hold := by
  unfold State.keepLock
  split
  · rfl
  · dsimp only
    refine foldl_inv (fun t : State => t.hold = s.hold) _ _ _ (foldl_inv (fun t : State => t.hold = s.hold) _ _ _ rfl ?_) fun t k _ h => h
    intro t a _ h
    split <;> split <;> exact h

theorem SparesKept.lock {s t : State} (h : SparesKept s t) (old : State) (n : Nat) : SparesKept s (t.keepLock old n) := by
  unfold SparesKept
  rw [keepLock_hold]
  exact h

theorem warmState_sparesKept (s : State) : SparesKept s s.warmState :=
  foldl_inv (SparesKept s) _ _ _ (foldl_inv (SparesKept s) _ _ _ ⟨rfl, rfl⟩ fun _ r _ h => h.repair r) fun _ n _ h => h.lock s n

/-- A reset leaves the contents of the Hold as they were. -/
theorem warmState_holdByte (s : State) (a : Nat) : s.warmState.holdByte a = s.holdByte a := by
  have h := warmState_alike s
  unfold State.holdByte State.unknownAt
  rw [h.bytes, h.unk, h.known]
  rfl

/-- Settles O59: each cause and each request is an equation of `exec`; a reset's state is alike to the blank one but for registers, repairs and locks. -/
theorem resets : Obligations.Resets := by
  unfold Obligations.Resets
  refine ⟨fun s w ha => ?_, fun s => ⟨fun h => if_pos h, fun hp ho => ?_, fun hp ho => ?_, fun hp => if_pos (by simp [hp]), fun hp => ?_, fun h => ?_,
    fun ho ht => ?_, fun ht hf => ?_, fun h => ?_⟩, fun s w req ha => ⟨stateRequest_refused ha, fun h0 hr he => ?_, stateRequest_enters ha⟩,
    fun s driven => ⟨emits_frame (.refl _ _ s) _ _ (by simp), emits_out _ _ s⟩, beginReset_spec, fun s => ⟨raiseIf_ne_zero _ _ _, loseHold_contents s⟩,
    fun s => ?_⟩
  · have e := exec_warmReset ha
    refine ⟨s.put F.glbResetCauseWarm 1, (Frame.refl _ _ s).put (by simp), get_put_of_lt _ (.ofBits rfl) (by decide), fun hw => ?_, fun hw => ?_⟩
    · exact e.trans (congrArg _ (if_pos hw))
    · exact e.trans (congrArg _ (if_neg (by simp [hw])))
  · exact .quiet ((if_neg (by simp [hp])).trans (if_pos ho)) (State.setHost_frame (.refl _ _ s) _ (by simp)) rfl
  · have e := exec_perstAssert hp ho
    refine ⟨s.perstNoted, perstNoted_frame s, get_put_of_lt _ (.ofBits rfl) (by decide), rfl, fun hw => ?_, fun hw hc => ?_, fun hw hc => ?_⟩
    · exact e.trans (congrArg _ (if_pos hw))
    · exact e.trans (congrArg _ ((if_neg (by simp [hw])).trans (if_pos (on_of _ _ hc))))
    · exact ⟨_, State.setHost_frame (.refl _ _ _) _ (by simp), rfl, e.trans (congrArg _ ((if_neg (by simp [hw])).trans (if_neg (by simp [on_off _ _ hc]))))⟩
  · exact .intro (exec_perstRelease hp) (State.setHost_frame (.refl _ _ s) _ (by simp)) rfl
  · exact if_pos (by simpa using h)
  · exact ⟨_, if_neg (by simp [ho, ht]), (Frame.refl _ _ s).put (by simp), get_put_of_lt _ (.ofBits rfl) (by decide)⟩
  · exact .quiet ((exec_thermalCooldown s).trans (congrArg _ (if_pos (by simp [ht, hf])))) (State.setPower_frame (.refl _ _ s) _ (by simp)) rfl
  · exact (exec_thermalCooldown s).trans (congrArg _ (if_neg (by rcases h with h | h <;> simp [h])))
  · exact .quiet ((exec_stateRequest ha).trans (congrArg _ ((if_neg (by simp [h0, hr])).trans (if_pos he)))) ((Frame.refl _ _ s).put (by simp))
      (stateReq_get s req)
  · have h := warmState_alike s
    have hp := h.power
    exact ⟨h.time, h.cal, h.otp, h.pending, h.host, h.purser, h.sst, h.chain, h.dma, h.eddys, h.lanes, warmState_holdByte s, (warmState_sparesKept s).1,
      (warmState_sparesKept s).2, by rw [hp]; rfl, by rw [hp]; rfl, by rw [hp]; rfl⟩

end Sys2Proof.Machine
end

section
/-! Region updates (R179 to R182): PUSH and FLUSH, the ends of seeding, of a copy and of a merge. -/

open Sys2Proof Sys2Proof.Machine

namespace Sys2Proof.Machine

/-! PUSH. -/

section
variable (s : State) (n : Nat)

/-- RESULT is beside the registers that describe the region. -/
theorem regionAsked_put_result (v tag : Nat) : (s.put (F.scnRgnResultResult n) v).regionAsked n tag = s.regionAsked n tag := by
  have hsrc : ∀ p ∈ List.range 3, 32 * (s.put (F.scnRgnResultResult n) v).get (F.scnRgnSrcAddr n p) = 32 * s.get (F.scnRgnSrcAddr n p) := by
    intro p hp
    rw [State.get_put_other _ (.inl ?_) (.ofBits rfl)]
    simp only [F.scnRgnResultResult, F.scnRgnSrcAddr, R.scnRgnResult, R.scnRgnSrc]
    rw [List.mem_range] at hp
    omega
  have e {g : Field} (h : Apart (F.scnRgnResultResult n) g) (hg : InWord g) := State.get_put_other s h hg v
  simp only [State.regionAsked, Region.mk.injEq, true_and]
  exact ⟨List.map_congr_left hsrc, congrArg _ (e (.ofBases rfl rfl rfl) (.ofBits rfl)), congrArg _ (e (.ofBases rfl rfl rfl) (.ofBits rfl)),
    e (.ofBases rfl rfl rfl) (.ofBits rfl), e (.ofBases rfl rfl rfl) (.ofBits rfl), e (.ofBases rfl rfl rfl) (.ofBits rfl),
    e (.ofBases rfl rfl rfl) (.ofBits rfl)⟩

/-- What the registers show of a region taken. -/
def State.pushShown (s : State) (n : Nat) : State :=
  s.puts [(F.scnRgnResultResult n, 0), (F.scnRgnStatusLastTag n, (s.get (F.scnRgnStatusLastTag n) + 1) % 256),
    (F.scnRgnStatusDepth n, s.get (F.scnRgnStatusDepth n) + 1)]

/-- The state in which a PUSH has queued its region; the first one seeds the back slot where it is not in step. -/
def State.regionQueued (s : State) (n : Nat) : State :=
  (s.pushShown n).setRegion n fun r => { r with
    queue := r.queue ++ [s.regionAsked n ((s.get (F.scnRgnStatusLastTag n) + 1) % 256)]
    seeding := r.seeding || (s.get (F.scnRgnStatusDepth n) == 0 && !s.on (F.scnRgnStatusSynced n)) }

theorem regionQueued_frame : Frame [F.scnRgnResultResult n, F.scnRgnStatusLastTag n, F.scnRgnStatusDepth n] [.output n] s (s.regionQueued n) :=
  State.setRegion_frame ((Frame.refl _ _ s).puts (by simp)) n _ (by simp)

theorem regionQueued_get (f : Field) : (s.regionQueued n).get f = (s.pushShown n).get f := State.setRegion_get ..

theorem pushShown_result : (s.pushShown n).get (F.scnRgnResultResult n) = 0 :=
  get_puts_head s (.ofBits rfl) 0 (by
    simp only [List.forall_mem_cons]
    exact ⟨.ofBases rfl rfl rfl, .ofBases rfl rfl rfl, fun _ h => absurd h List.not_mem_nil⟩)

theorem pushShown_lastTag : (s.pushShown n).get (F.scnRgnStatusLastTag n) = (s.get (F.scnRgnStatusLastTag n) + 1) % 256 := by
  unfold State.pushShown
  rw [State.puts_cons, get_puts_head _ (.ofBits rfl) _ (by simpa using .ofBits rfl)]
  exact Nat.mod_mod _ 256

theorem pushShown_depth (h : s.get (F.scnRgnStatusDepth n) < 16) :
    (s.pushShown n).get (F.scnRgnStatusDepth n) = s.get (F.scnRgnStatusDepth n) + 1 := by
  unfold State.pushShown
  rw [State.puts_cons, State.puts_cons, get_puts_head _ (.ofBits rfl) _ (by simp)]
  exact Nat.mod_eq_of_lt (show _ < 32 by omega)

end

section
variable {s : State} {n : Nat}

theorem depth_lt_of_pushResult (h : s.pushResult n = 0) : s.get (F.scnRgnStatusDepth n) < 16 := by
  by_contra hd
  unfold State.pushResult at h
  dsimp only at h
  split at h
  · cases h
  · rw [if_pos (Nat.le_of_not_lt hd)] at h
    cases h

theorem regionQueued_outs {o : OutState} (ho : s.outs[n]? = some o) : ∃ o', (s.regionQueued n).outs[n]? = some o' ∧
    o'.region.queue = o.region.queue ++ [s.regionAsked n ((s.get (F.scnRgnStatusLastTag n) + 1) % 256)] ∧ o'.region.copying = o.region.copying :=
  ⟨_, updAt_some ho, rfl, rfl⟩

/-- A PUSH that passes queues its region, and the next copy begins. -/
theorem regionPush_taken (h : s.pushResult n = 0) : s.regionPush n = (s.regionQueued n).regionGo n := by
  have e {g : Field} (h : Apart (F.scnRgnResultResult n) g) (hg : InWord g) := State.get_put_other s h hg 0
  unfold State.regionPush State.regionQueued State.pushShown
  dsimp only
  rw [h, if_neg (by simp), regionAsked_put_result, on_eq, on_eq, State.puts_cons,
    e (g := F.scnRgnStatusLastTag n) (.ofBases rfl rfl rfl) (.ofBits rfl),
    e (g := F.scnRgnStatusDepth n) (.ofBases rfl rfl rfl) (.ofBits rfl), e (g := F.scnRgnStatusSynced n) (.ofBases rfl rfl rfl) (.ofBits rfl)]
  rfl

theorem regionPush_failed (h : s.pushResult n ≠ 0) : s.regionPush n =
    (if s.pushResult n = 2 then [evOut n 10] else []).foldl State.raise (s.put (F.scnRgnResultResult n) (s.pushResult n)) := by
  unfold State.regionPush
  dsimp only
  rw [if_pos h, State.raiseIf_eq]
  simp only [beq_iff_eq]

end

/-! FLUSH, and the writes of the command register. -/

/-- FLUSH discards the regions whose copy has not begun (R182). -/
theorem regionFlush_spec (s : State) (n : Nat) : Frame [F.scnRgnStatusDepth n] [.output n] s (s.regionFlush n) ∧
    (s.regionFlush n).get (F.scnRgnStatusDepth n) = s.get (F.scnRgnStatusDepth n) - (s.outp n).region.queue.length ∧
    ∀ o, s.outs[n]? = some o → ∃ o', (s.regionFlush n).outs[n]? = some o' ∧ o'.region = { o.region with queue := [] } := by
  unfold State.regionFlush
  dsimp only
  refine ⟨State.setRegion_frame ((Frame.refl _ _ s).put (by simp)) n _ (by simp), ?_, fun o ho => ⟨_, updAt_some ho, rfl⟩⟩
  rw [State.setRegion_get]
  exact get_put_of_lt _ (.ofBits rfl) (Nat.lt_of_le_of_lt (Nat.sub_le _ _) (State.get_lt s _))

section
variable {s : State} {n : Fin 4} {w : Writer} (ha : s.accepts w (R.scnRgnCmd n) = true)
include ha

theorem exec_rgnPush (flush : Bool) : exec (.rgnPush w n flush) s = .next ((if flush then s.regionFlush n else s).regionPush n) :=
  congrArg _ (State.writeBy_accepts ha)

theorem exec_rgnFlush : exec (.rgnFlush w n) s = .next (s.regionFlush n) := congrArg _ (State.writeBy_accepts ha)

end

/-! The ends of seeding, of a copy, of a merge. -/

section
variable {s : State} {n : Fin 4} {port : HoldPort} (hf : s.frozen (scanMaster n) = false)

theorem exec_regionSeedDone_held (h : s.copyHeld n [wholeRegion (srcFormat s.act n)] (fun r f p => s.slotRuns n (s.curSlot n) r f p) (s.backSlot n) = true) :
    exec (.regionSeedDone n port) s = .next s := if_pos (by simp [h])

theorem exec_regionCopyDone_held {e : Region} (hc : (s.outp n).region.copying = some e)
    (h : s.copyHeld n [e] (fun r f p => r.stageRuns f p) (s.backSlot n) = true) : exec (.regionCopyDone n port) s = .next s := by
  show execRegionCopyDone n port s = _
  unfold execRegionCopyDone
  rw [hc]
  exact if_pos (by simp [h])

theorem exec_regionMergeDone_held
    (h : s.copyHeld n (s.outp n).region.merging (fun r f p => s.slotRuns n (s.curSlot n) r f p) (s.backSlot n) = true) :
    exec (.regionMergeDone n port) s = .next s := if_pos (by simp [h])

include hf

theorem exec_regionSeedDone (hs : (s.outp n).region.seeding = true)
    (h : s.copyHeld n [wholeRegion (srcFormat s.act n)] (fun r f p => s.slotRuns n (s.curSlot n) r f p) (s.backSlot n) = false) :
    exec (.regionSeedDone n port) s =
      let v := s.openPort (· == scanMaster n) port
      let t := v.copySlots n (v.curSlot n) (v.backSlot n) (wholeRegion (srcFormat v.act n))
      .next (if t.frozen (scanMaster n) then t else
        ((t.put (F.scnRgnStatusSynced n) 1).setRegion n fun r => { r with seeding := false }).regionGo n).closePort :=
  if_neg (by simp [hs, hf, h])

theorem exec_regionCopyDone {e : Region} (hc : (s.outp n).region.copying = some e)
    (h : s.copyHeld n [e] (fun r f p => r.stageRuns f p) (s.backSlot n) = false) : exec (.regionCopyDone n port) s =
      let v := s.openPort (· == scanMaster n) port
      let t := v.copyStage n (v.backSlot n) e
      .next (if t.frozen (scanMaster n) then t else ((t.put (F.scnRgnStatusCopiedTag n) e.tag).setRegion n fun r =>
        { r with copying := none, copied := r.copied ++ [e] }).regionGo n).closePort := by
  show execRegionCopyDone n port s = _
  unfold execRegionCopyDone
  rw [hc]
  exact if_neg (by simp [hf, h])

theorem exec_regionMergeDone {e : Region} {batch : List Region} (hm : (s.outp n).region.merging = batch ++ [e])
    (h : s.copyHeld n (batch ++ [e]) (fun r f p => s.slotRuns n (s.curSlot n) r f p) (s.backSlot n) = false) : exec (.regionMergeDone n port) s =
      let v := s.openPort (· == scanMaster n) port
      let t := (batch ++ [e]).foldl (fun t r => t.copySlots n (v.curSlot n) (v.backSlot n) r) v
      .next (if t.frozen (scanMaster n) then t else (((t.puts [(F.scnRgnStatusMergedTag n, e.tag),
        (F.scnRgnStatusDepth n, t.get (F.scnRgnStatusDepth n) - (batch ++ [e]).length)]).setRegion n fun r =>
          { r with merging := [] }).regionGo n).raise (evOut n 9)).closePort := by
  show execRegionMergeDone n port s = _
  unfold execRegionMergeDone
  rw [hm]
  refine (if_neg (by simp [hf, h])).trans ?_
  simp only [List.getLast?_concat, Option.map_some, Option.getD_some]
  rfl

end

/-- A copy that left its master free to go on ends as it should. -/
theorem copyEnd_of_free {m : Nat} {t x : State} (ht : t.frozen m = false) :
    (.next (if t.frozen m then t else x).closePort : Result) = .next x.closePort := by rw [ht, if_neg Bool.false_ne_true]

/-- Settles O18: PUSH by its RESULT; each end of a copy by the gate of the Hold and by whether the copy froze its master. -/
theorem regionUpdates : Obligations.RegionUpdates := by
  unfold Obligations.RegionUpdates
  refine fun s n => ⟨fun w ha h => ⟨s.regionQueued n, ?_, regionQueued_frame s n, ?_, ?_, ?_, fun _ => regionQueued_outs⟩, fun w ha h h8 => ?_,
    fun w ha => ⟨exec_rgnPush ha true, (regionFlush_spec s n).elim (.quiet (exec_rgnFlush ha))⟩,
    fun port hf => ⟨fun _ => exec_regionSeedDone_held, fun hs h ht => ?_, fun e => exec_regionCopyDone_held, fun e hc h ht => ?_,
      fun e batch hm h => ?_, fun e batch hm h ht => ?_⟩⟩
  · exact (exec_rgnPush ha false).trans (congrArg _ (regionPush_taken h))
  · rw [regionQueued_get, pushShown_result]
  · rw [regionQueued_get, pushShown_lastTag]
  · rw [regionQueued_get, pushShown_depth _ _ (depth_lt_of_pushResult h)]
  · exact .intro ((exec_rgnPush ha false).trans (congrArg _ (regionPush_failed h))) ((Frame.refl _ _ s).put (by simp)) (get_put_of_lt _ (.ofBits rfl) h8)
  · refine ⟨_, (exec_regionSeedDone hf hs h).trans (copyEnd_of_free ht), ?_, ?_⟩
    · exact State.setRegion_frame ((Frame.refl _ _ _).put (by simp)) n _ (by simp)
    · rw [State.setRegion_get]
      exact get_put_of_lt _ (.ofBits rfl) (by simp [F.scnRgnStatusSynced])
  · refine ⟨_, (exec_regionCopyDone hf hc h).trans (copyEnd_of_free ht), ?_, ?_⟩
    · exact State.setRegion_frame ((Frame.refl _ _ _).put (by simp)) n _ (by simp)
    · rw [State.setRegion_get]
      exact State.get_put_same _ (.ofBits rfl) _
  · exact exec_regionMergeDone_held (hm ▸ h)
  · refine ⟨_, (exec_regionMergeDone hf hm h).trans (copyEnd_of_free ht), ?_, ?_⟩
    · exact State.setRegion_frame ((Frame.refl _ _ _).puts (by simp)) n _ (by simp)
    · rw [State.setRegion_get]
      exact get_puts_head _ (.ofBits rfl) _ (by simpa using .ofBits rfl)

end Sys2Proof.Machine
end

section
/-! Lane calibration (R214 to R227). -/

open Sys2Proof Sys2Proof.Machine

namespace Sys2Proof.Machine

/-! REQUEST and MEASURE. -/

section
variable {s : State} {w : Writer} {n : Fin 96} (ha : s.accepts w (R.plnCalCmd n) = true)
include ha

theorem exec_calRequest : exec (.calRequest w n) s = .next (
    if s.forced n then s.put (F.plnCalStatusLastCode n) 0x525
    else if s.calMode (s.get (F.plnRoleOutput n)) = 2 then s
    else s.setLane n fun l => { l with dueReq := true }) := congrArg _ (State.writeBy_accepts ha)

theorem exec_calMeasure (low : BitVec 4) : exec (.calMeasure w n low) s = .next (
    if s.laneUp n ∧ (s.lane n).cal.isNone then
      (s.setLane n fun l => { l with cal := some (s.newCal n true) }).beginTrial n low
    else s) := congrArg _ (State.writeBy_accepts ha)

end

/-- A measurement opens no trial window: it asks for its histogram at once (R227). -/
theorem beginTrial_measure {s : State} {n : Nat} {l : LaneState} {c : LaneCal} (h : s.lanes[n]? = some l) (hc : l.cal = some c)
    (hm : c.measure = true) (low : BitVec 4) : s.beginTrial n low =
      (s.setCal n fun c => { c with phase := 1, sparse := false, unlocked := false, hist := [] }).sbSend (sbHistReq n c.window false) low := by
  unfold State.beginTrial
  rw [lane_of h, hc]
  simp [hm]

/-- The state in which a measurement of lane n has asked for its histogram. -/
def State.measuring (s : State) (n : Nat) : State :=
  (s.setLane n fun l => { l with cal := some (s.newCal n true) }).setCal n
    fun c => { c with phase := 1, sparse := false, unlocked := false, hist := [] }

theorem measuring_frame (s : State) (n : Nat) : Frame [] [.lane n] s (s.measuring n) :=
  State.setCal_frame (State.setLane_frame (Frame.refl _ _ s) n _ (by simp)) n _ (by simp)

theorem measuring_lane {s : State} {n : Nat} {l : LaneState} (h : s.lanes[n]? = some l) :
    (s.measuring n).lanes[n]? = some { l with cal := some { s.newCal n true with phase := 1 } } := updAt_some (updAt_some h)

theorem exec_calMeasure_up {s : State} {w : Writer} {n : Fin 96} {l : LaneState} (ha : s.accepts w (R.plnCalCmd n) = true)
    (h : s.lanes[n.val]? = some l) (hu : s.laneUp n = true) (hc : l.cal = none) (low : BitVec 4) : exec (.calMeasure w n low) s =
      .next ((s.measuring n).sbSend (sbHistReq n (s.calWindow (s.get (F.plnRoleOutput n))) false) low) := by
  rw [exec_calMeasure ha, if_pos ⟨hu, by rw [lane_of h, hc]; rfl⟩, beginTrial_measure (updAt_some h) rfl rfl]
  rfl

/-! What waits on a lane as its blocks go out: the calibration stands, and a HIST_START goes out in its turn (R219). -/

/-- The blocks of a lane up to the HIST_START that waits on it, 0 when none waits. -/
def LaneState.histBlocks (l : LaneState) : Nat :=
  match l.histAt with
  | some k => l.queue.length + max 1 (k + 1 - (l.sent + l.queue.length))
  | none => 0

theorem histBlocks_none {l : LaneState} (h : l.histAt = none) : l.histBlocks = 0 := by simp [LaneState.histBlocks, h]

theorem histBlocks_some {l : LaneState} {k : Nat} (h : l.histAt = some k) :
    l.histBlocks = l.queue.length + max 1 (k + 1 - (l.sent + l.queue.length)) := by simp [LaneState.histBlocks, h]

theorem histAt_of_histBlocks {l : LaneState} (h : l.histBlocks = 0) : l.histAt = none := by
  cases hh : l.histAt with
  | none => rfl
  | some k => have e := histBlocks_some hh; omega

/-- What one block sent leaves of a lane's calibration, of its queue and of a HIST_START that waits behind it. -/
structure LaneState.Passes (l l' : LaneState) : Prop where
  cal : l'.cal = l.cal
  sent : l'.sent = l.sent + 1
  queue : l'.queue = l.queue.tail
  histAt : l'.histAt = if l.queue = [] ∧ (l.histAt.any fun k => decide (k ≤ l.sent)) = true then none else l.histAt

/-- A block sent brings a HIST_START that waits one block nearer. -/
theorem LaneState.Passes.histBlocks {l l' : LaneState} (h : l.Passes l') : l'.histBlocks = l.histBlocks - 1 := by
  obtain ⟨-, hs, hq, hh⟩ := h
  cases hk : l.histAt with
  | none => rw [histBlocks_none hk, histBlocks_none (by rw [hh, hk, ite_self])]
  | some k =>
    rw [histBlocks_some hk]
    by_cases hd : l.queue = [] ∧ k ≤ l.sent
    · obtain ⟨hnil, hdue⟩ := hd
      rw [histBlocks_none (by rw [hh, if_pos (by simp [hk, hnil, hdue])]), hnil, List.length_nil]
      omega
    · have later : l.queue.length = 0 → l.sent < k := fun hz => by
        by_contra hlt
        exact hd ⟨List.eq_nil_of_length_eq_zero hz, by omega⟩
      rw [histBlocks_some (k := k) (by rw [hh, if_neg (by simpa [hk] using hd), hk]), hs, hq, List.length_tail]
      omega

/-- A block placed on a lane leaves what waits on it. -/
theorem sendBlock_waits {s : State} {n : Nat} {l : LaneState} (h : s.lanes[n]? = some l) (b : LaneBlock) :
    ∃ l', (s.sendBlock n b).lanes[n]? = some l' ∧ l'.cal = l.cal ∧ l'.sent = l.sent + 1 ∧ l'.queue = l.queue ∧ l'.histAt = l.histAt := by
  refine ⟨_, (sendBlock_sends h b).lane, ?_⟩
  unfold LaneState.afterBlock LaneState.spanOver
  dsimp only
  split <;> exact ⟨rfl, rfl, rfl, rfl⟩

theorem sendNext_passes {s : State} {n : Nat} {l : LaneState} (h : s.lanes[n]? = some l) :
    ∃ l', (s.sendNext n).lanes[n]? = some l' ∧ l.Passes l' := by
  unfold State.sendNext
  rw [lane_of h]
  dsimp only
  split
  · next b rest hq =>
    obtain ⟨l', hl, hc, hs, hr, hh⟩ := sendBlock_waits (s := s.setLane n fun l => { l with queue := rest }) (updAt_some h) b
    exact ⟨l', hl, hc, hs, by rw [hr, hq]; rfl, by rw [hh]; simp [hq]⟩
  · next hq =>
    split
    · next hd =>
      obtain ⟨l', hl, hc, hs, hr, hh⟩ := sendBlock_waits
        (s := s.setLane n fun l => { l with histAt := none, orderSeq := l.nextSeq }) (updAt_some h) (orderBlock 4 l.nextSeq [])
      exact ⟨l', hl, hc, hs, by rw [hr, hq]; rfl, by rw [hh, if_pos ⟨hq, hd⟩]⟩
    · next hd =>
      have keep (b : LaneBlock) : ∃ l', (s.sendBlock n b).lanes[n]? = some l' ∧ l.Passes l' := by
        obtain ⟨l', hl, hc, hs, hr, hh⟩ := sendBlock_waits h b
        exact ⟨l', hl, hc, hs, by rw [hr, hq]; rfl, by rw [hh, if_neg fun k => hd k.2]⟩
      split <;> exact keep _

theorem sendBlocks_histBlocks {s : State} {n : Nat} {l : LaneState} (h : s.lanes[n]? = some l) (k : Nat) :
    ∃ l', (s.sendBlocks n k).lanes[n]? = some l' ∧ l'.cal = l.cal ∧ l'.histBlocks = l.histBlocks - k := by
  induction k generalizing s l with
  | zero => exact ⟨l, h, rfl, rfl⟩
  | succ k ih =>
    obtain ⟨l1, h1, p⟩ := sendNext_passes h
    obtain ⟨l', hl, hc, hh⟩ := ih h1
    exact ⟨l', hl, hc.trans p.cal, by rw [hh, p.histBlocks]; omega⟩

theorem sendBlocks_frame {s : State} {n : Nat} {l : LaneState} (h : s.lanes[n]? = some l) (k : Nat) :
    Frame [] [.lane n, .out] s (s.sendBlocks n k) := by
  obtain ⟨-, -, hf, -⟩ := sendBlocks_sends h k
  exact hf

/-! The end of a trial window. -/

/-- The state in which the blocks of a lane have gone out up to now, and up to the HIST_START that waits. -/
def State.histSent (s : State) (n : Nat) : State :=
  let t := s.laneTo n s.nowPs
  t.sendBlocks n (t.lane n).histBlocks

theorem histSent_spec {s : State} {n : Nat} {l : LaneState} (h : s.lanes[n]? = some l) :
    Frame [] [.lane n, .out] s (s.histSent n) ∧ ∃ l', (s.histSent n).lanes[n]? = some l' ∧ l'.cal = l.cal ∧ l'.histAt = none := by
  obtain ⟨l1, h1, hc1, -⟩ := sendBlocks_histBlocks h (s.blocksTo n (s.symbolAt n s.nowPs))
  change (s.laneTo n s.nowPs).lanes[n]? = _ at h1
  obtain ⟨l', hl, hc, hh⟩ := sendBlocks_histBlocks h1 ((s.laneTo n s.nowPs).lane n).histBlocks
  have hf := (sendBlocks_frame h (s.blocksTo n (s.symbolAt n s.nowPs))).trans
    (sendBlocks_frame h1 ((s.laneTo n s.nowPs).lane n).histBlocks)
  exact ⟨hf, l', hl, hc.trans hc1, histAt_of_histBlocks (by rw [hh, lane_of h1, Nat.sub_self])⟩

section
variable {s : State} {n : Fin 96} {l : LaneState} {c : LaneCal} (h : s.lanes[n.val]? = some l) (hc : l.cal = some c)
include h hc

theorem exec_calTrialWindowEnd (low : BitVec 4) : exec (.calTrialWindowEnd n low) s = .next (if c.phase ≠ 4 then s else
    let u := s.histSent n
    let v := u.setCal n fun c => { c with phase := 2, endAt := (u.lane n).sent }
    (if c.measure then v else v.setTaps n c.best).sbSend (sbHistRead n) low) := by
  show execCalTrialWindowEnd n low s = _
  unfold execCalTrialWindowEnd
  rw [lane_of h, hc]
  dsimp only
  split <;> rfl

theorem exec_calHistogramReceived (h3 : c.phase = 3) (low : BitVec 4) : exec (.calHistogramReceived n low) s =
    .next (if histCode c c.hist ≠ 0 then (s.endCal n (histCode c c.hist) c.start).raise 484 else s.judgeHist n c c.hist low) := by
  show execCalHistogramReceived n low s = _
  unfold execCalHistogramReceived
  rw [lane_of h, hc]
  dsimp only
  rw [if_neg (not_not_intro h3)]

/-- A window that ends: HIST_START has gone out, the calibration asks for its histogram. -/
theorem calTrialWindowEnd_spec (h4 : c.phase = 4) (low : BitVec 4) :
    ∃ u l', Frame [] [.lane n, .out] s u ∧ u.lanes[n.val]? = some l' ∧ l'.cal = some c ∧ l'.histAt = none ∧
      let v := u.setLane n fun x => { x with cal := some { c with phase := 2, endAt := l'.sent } }
      exec (.calTrialWindowEnd n low) s = .next ((if c.measure then v else v.setTaps n c.best).sbSend (sbHistRead n) low) := by
  obtain ⟨hf, l', hl, hc', hh⟩ := histSent_spec h
  refine ⟨s.histSent n, l', hf, hl, hc'.trans hc, hh, ?_⟩
  have e : ((s.histSent n).setCal n fun c => { c with phase := 2, endAt := l'.sent }) =
      (s.histSent n).setLane n fun x => { x with cal := some { c with phase := 2, endAt := l'.sent } } :=
    congrArg (fun lanes => { s.histSent n with lanes := lanes }) (updAt_congr hl (by rw [hc', hc]; rfl))
  rw [exec_calTrialWindowEnd h hc, if_neg (not_not_intro h4)]
  dsimp only
  rw [lane_of hl, e]

end

/-! FFE_FORCE (R225). -/

/-- PLNn_FFE_FORCE holds what was written. -/
def State.ffeHeld (u : State) (n : Nat) (force : Bool) (cm1 c1 c2 : BitVec 8) : Prop :=
  u.get (F.plnFfeForceForce n) = force.toNat ∧ u.get (F.plnFfeForceCm1 n) = cm1.toNat ∧ u.get (F.plnFfeForceC1 n) = c1.toNat ∧
    u.get (F.plnFfeForceC2 n) = c2.toNat

/-- The state in which the fields of PLNn_FFE_FORCE are written. -/
def State.ffeWritten (s : State) (n : Nat) (force : Bool) (cm1 c1 c2 : BitVec 8) : State :=
  s.puts [(F.plnFfeForceForce n, force.toNat), (F.plnFfeForceCm1 n, cm1.toNat), (F.plnFfeForceC1 n, c1.toNat), (F.plnFfeForceC2 n, c2.toNat)]

/-- The fields that a write of PLNn_FFE_FORCE sets, with its FORCE_REFUSED. -/
def ffeFields (n : Nat) : List Field :=
  [F.plnFfeForceForce n, F.plnFfeForceCm1 n, F.plnFfeForceC1 n, F.plnFfeForceC2 n, F.plnCalStatusForceRefused n]

section
variable (s : State) (n : Nat) (force : Bool) (cm1 c1 c2 : BitVec 8)

theorem ffeWritten_frame {T : List Field} {P : List Part} (hT : ∀ f ∈ ffeFields n, f ∈ T) : Frame T P s (s.ffeWritten n force cm1 c1 c2) :=
  ((Frame.refl (ffeFields n) P s).puts (by simp [ffeFields])).mono hT fun _ h => h

theorem ffeWritten_held : (s.ffeWritten n force cm1 c1 c2).ffeHeld n force cm1 c1 c2 := by
  have hb : force.toNat < 2 := Bool.toNat_lt _
  refine ⟨?_, ?_, ?_, ?_⟩ <;> unfold State.ffeWritten <;>
    simp (disch := exact .ofBits rfl) only [State.puts_cons, State.puts_nil, State.get_put_same, State.get_put_other]
  · exact Nat.mod_eq_of_lt hb
  · exact Nat.mod_eq_of_lt cm1.isLt
  · exact Nat.mod_eq_of_lt c1.isLt
  · exact Nat.mod_eq_of_lt c2.isLt

end

theorem State.ffeHeld.of_reg {u v : State} {n : Nat} {force : Bool} {cm1 c1 c2 : BitVec 8} (h : u.ffeHeld n force cm1 c1 c2)
    (hr : v.reg (R.plnFfeForce n) = u.reg (R.plnFfeForce n)) : v.ffeHeld n force cm1 c1 c2 := by
  obtain ⟨hf, hm, h1, h2⟩ := h
  exact ⟨(State.get_of_reg hr).trans hf, (State.get_of_reg hr).trans hm, (State.get_of_reg hr).trans h1, (State.get_of_reg hr).trans h2⟩

/-- CAL_STATUS is another register than FFE_FORCE. -/
theorem State.ffeHeld.put {u : State} {n : Nat} {force : Bool} {cm1 c1 c2 : BitVec 8} (h : u.ffeHeld n force cm1 c1 c2) {f : Field}
    (hf : f.addr = R.plnCalStatus n) (v : Nat) : (u.put f v).ffeHeld n force cm1 c1 c2 :=
  h.of_reg (State.reg_put_other _ (by rw [hf]; simp [R.plnFfeForce, R.plnCalStatus]) _)

section
variable {s : State} {w : Writer} {n : Fin 96} (ha : s.accepts w (R.plnFfeForce n) = true) (cm1 c1 c2 : BitVec 8)
include ha

theorem exec_ffeForce_off : exec (.ffeForce w n false cm1 c1 c2) s =
    .next (((s.ffeWritten n false cm1 c1 c2).put (F.plnCalStatusForceRefused n) 0).setLane n fun l =>
      { l with forceWaits := none, dueAuto := l.dueAuto || s.forced n }) := congrArg _ (State.writeBy_accepts ha)

theorem exec_ffeForce_refused (hk : Taps.ok ⟨cm1.toInt, c1.toInt, c2.toInt⟩ = false) : exec (.ffeForce w n true cm1 c1 c2) s =
    .next ((((s.ffeWritten n true cm1 c1 c2).put (F.plnCalStatusForceRefused n) 1).put (F.plnCalStatusLastCode n) 0x526).raise 486) := by
  show Host.Outcome.next (s.writeBy w _ _) = _
  rw [State.writeBy_accepts ha]
  dsimp only
  rw [if_neg (by decide), if_pos (by rw [hk]; rfl)]
  rfl

theorem exec_ffeForce_taken (hk : Taps.ok ⟨cm1.toInt, c1.toInt, c2.toInt⟩ = true) : exec (.ffeForce w n true cm1 c1 c2) s =
    .next (
      let v := ((s.ffeWritten n true cm1 c1 c2).put (F.plnCalStatusForceRefused n) 0).abortCal n
      if v.get (F.plnRoleRole n) ≠ 0 ∧ v.running (v.get (F.plnRoleOutput n)) then
        v.setLane n fun l => { l with forceWaits := some ⟨cm1.toInt, c1.toInt, c2.toInt⟩ }
      else v.setTaps n ⟨cm1.toInt, c1.toInt, c2.toInt⟩) := by
  show Host.Outcome.next (s.writeBy w _ _) = _
  rw [State.writeBy_accepts ha]
  dsimp only
  rw [if_neg (by decide), if_neg (by rw [hk]; decide)]
  rfl

theorem ffeForce_off {l : LaneState} (h : s.lanes[n.val]? = some l) :
    Yields (.ffeForce w n false cm1 c1 c2) s [] (ffeFields n) [.lane n] fun u => u.ffeHeld n false cm1 c1 c2 ∧
      u.get (F.plnCalStatusForceRefused n) = 0 ∧
      u.lanes[n.val]? = some { l with forceWaits := none, dueAuto := l.dueAuto || s.forced n } := by
  refine .quiet (exec_ffeForce_off ha cm1 c1 c2) (State.setLane_frame ((ffeWritten_frame s n false cm1 c1 c2 fun _ h => h).put ?_) _ _ ?_)
    ⟨?_, ?_, updAt_some h⟩
  · simp [ffeFields]
  · simp
  · exact ((ffeWritten_held s n false cm1 c1 c2).put rfl 0).of_reg (State.setLane_reg ..)
  · rw [State.setLane_get]
    exact get_put_of_lt _ (.ofBits rfl) (Nat.two_pow_pos _)

theorem ffeForce_refused (hk : Taps.ok ⟨cm1.toInt, c1.toInt, c2.toInt⟩ = false) :
    Yields (.ffeForce w n true cm1 c1 c2) s [486] (F.plnCalStatusLastCode n :: ffeFields n) [] fun u => u.ffeHeld n true cm1 c1 c2 ∧
      u.get (F.plnCalStatusForceRefused n) = 1 ∧ u.get (F.plnCalStatusLastCode n) = 0x526 := by
  refine .intro (exec_ffeForce_refused ha cm1 c1 c2 hk)
    (((ffeWritten_frame s n true cm1 c1 c2 fun _ h => List.mem_cons_of_mem _ h).put ?_).put ?_) ⟨?_, ?_, ?_⟩
  · simp [ffeFields]
  · simp
  · exact ((ffeWritten_held s n true cm1 c1 c2).put rfl 1).put rfl 0x526
  · exact (State.get_put_other _ (.ofBits rfl) (.ofBits rfl) _).trans (get_put_of_lt _ (.ofBits rfl) (by simp [F.plnCalStatusForceRefused]))
  · exact get_put_of_lt _ (.ofBits rfl) (by simp [F.plnCalStatusLastCode])

end

/-! A span of the symbols sent (R224). -/

/-- The state in which a lane's span of so many transitions is shown. -/
def State.densityShown (s : State) (n count : Nat) : State := s.put (F.plnDensityDensity n) (min 255 (rhe 8 (count : Int)).toNat)

theorem densityShown_get (s : State) (n count : Nat) :
    (s.densityShown n count).get (F.plnDensityDensity n) = min 255 (rhe 8 (count : Int)).toNat :=
  get_put_of_lt _ (.ofBits rfl) (Nat.lt_succ_of_le (Nat.min_le_left ..))

section
variable {s : State} {n count : Nat} (hf : s.get (F.plnCalStatusFrozen n) = 0) (low : BitVec 4)
include hf

theorem laneSpan_dense (hd : 256 * s.get (F.ploCalCtrlTdMin (s.get (F.plnRoleOutput n))) < count) :
    s.laneSpan n count low = s.densityShown n count := by
  unfold State.laneSpan
  dsimp only
  rw [if_neg (by omega), on_off _ _ hf, if_neg Bool.false_ne_true]
  rfl

theorem laneSpan_sparse (hd : count ≤ 256 * s.get (F.ploCalCtrlTdMin (s.get (F.plnRoleOutput n)))) (hc : (s.lane n).cal = none) :
    s.laneSpan n count low = ((s.densityShown n count).put (F.plnCalStatusFrozen n) 1).raise 483 := by
  unfold State.laneSpan
  dsimp only
  have hl : ((((s.densityShown n count).put (F.plnCalStatusFrozen n) 1).raise 483).lane n).cal = none := by rw [raise_lane]; exact hc
  rw [if_pos (by omega), on_off _ _ hf, if_neg Bool.false_ne_true]
  split
  · rfl
  · next hs => exact nomatch hl.symm.trans hs

end

/-- The state in which the blocks of a lane that have begun have gone out. -/
def State.spanReached (s : State) (n : Nat) : State := if s.laneSt n = 0 then s else s.laneTo n s.nowPs

/-- The state in which the oldest span of a lane is taken up. -/
def State.spanTaken (s : State) (n : Nat) (rest : List Nat) : State :=
  s.setLane n fun l => { l with spans := rest, spansDone := l.spansDone + 1 }

theorem spanReached_frame {s : State} {n : Nat} {l : LaneState} (h : s.lanes[n]? = some l) :
    Frame [] [.lane n, .out] s (s.spanReached n) := by
  unfold State.spanReached
  split
  · exact Frame.refl _ _ s
  · exact sendBlocks_frame h _

theorem spanTaken_frame {T : List Field} (s : State) (n : Nat) (rest : List Nat) : Frame T [.lane n] s (s.spanTaken n rest) :=
  State.setLane_frame (Frame.refl _ _ s) n _ (by simp)

/-- No field changes as a lane's blocks go out and its oldest span is taken up. -/
theorem spanTaken_get {s : State} {n : Nat} {l : LaneState} (h : s.lanes[n]? = some l) (rest : List Nat) {f : Field} (hf : InWord f) :
    ((s.spanReached n).spanTaken n rest).get f = s.get f :=
  (State.setLane_get ..).trans ((spanReached_frame h).get hf (by simp))

section
variable {s : State} {n : Fin 96} {l : LaneState} (h : (s.spanReached n).lanes[n.val]? = some l) (low : BitVec 4)
include h

theorem exec_densitySpanEnd_lane_none (hs : l.spans = []) :
    exec (.densitySpanEnd (.lane n) low) s = .next (s.spanReached n) := by
  show Host.Outcome.next (s.judgeSpan n low) = _
  unfold State.spanReached at h
  unfold State.judgeSpan
  dsimp only
  rw [lane_of h, hs]
  rfl

theorem exec_densitySpanEnd_lane_cons {count : Nat} {rest : List Nat} (hs : l.spans = count :: rest) :
    exec (.densitySpanEnd (.lane n) low) s = .next (((s.spanReached n).spanTaken n rest).laneSpan n count low) := by
  show Host.Outcome.next (s.judgeSpan n low) = _
  unfold State.spanReached at h
  unfold State.judgeSpan
  dsimp only
  rw [lane_of h, hs]
  rfl

end

/-- Settles O32: each command of a lane's calibration through what it does to the lane, the equalizer's fields and its sideband. -/
theorem laneCalibration : Obligations.LaneCalibration := by
  unfold Obligations.LaneCalibration
  refine fun s n l low h => ⟨fun w ha => ⟨fun hf => ?_, fun hf hm => ?_, fun hf hm => ?_, fun hu hc => ?_, fun hn => ?_⟩,
    fun c hc => ⟨fun h4 => calTrialWindowEnd_spec h hc h4 low, fun h4 => ?_, fun h3 hk => ?_, fun h3 hk => ?_⟩,
    fun w cm1 c1 c2 ha => ⟨ffeForce_off ha cm1 c1 c2 h, ffeForce_refused ha cm1 c1 c2, fun hk => ?_⟩, ?_⟩
  · exact put_yields (by rw [exec_calRequest ha, if_pos hf]) (.ofBits rfl) (by simp [F.plnCalStatusLastCode])
  · exact .quiet ((exec_calRequest ha).trans (by rw [if_neg (by simp [hf]), if_neg hm]))
      (State.setLane_frame (Frame.refl _ _ s) n (fun l => { l with dueReq := true }) (by simp)) (updAt_some h)
  · rw [exec_calRequest ha, if_neg (by simp [hf]), if_pos hm]
  · exact ⟨s.measuring n, measuring_frame s n, measuring_lane h, exec_calMeasure_up ha h hu hc low⟩
  · rw [exec_calMeasure ha, if_neg]
    rintro ⟨hu, hc⟩
    rw [lane_of h, Option.isNone_iff_eq_none] at hc
    rcases hn with hn | hn
    · rw [hn] at hu; cases hu
    · exact hn hc
  · rw [exec_calTrialWindowEnd h hc, if_pos h4]
  · rw [exec_calHistogramReceived h hc h3, if_pos hk]
  · rw [exec_calHistogramReceived h hc h3, if_neg (not_not_intro hk)]
  · refine ⟨_, (ffeWritten_frame s n true cm1 c1 c2 fun _ h => h).put ?_, (ffeWritten_held s n true cm1 c1 c2).put rfl 0,
      get_put_of_lt _ (.ofBits rfl) (Nat.two_pow_pos _), exec_ffeForce_taken ha cm1 c1 c2 hk⟩
    simp [ffeFields]
  · have hr := spanReached_frame h
    refine ⟨s.spanReached n, rfl, hr, fun l' hl => ⟨exec_densitySpanEnd_lane_none hl low, fun count rest hs => ?_⟩⟩
    have e := exec_densitySpanEnd_lane_cons hl low hs
    have hfroz := spanTaken_get h rest (f := F.plnCalStatusFrozen n) (.ofBits rfl)
    have hmin : ((s.spanReached n).spanTaken n rest).get (F.ploCalCtrlTdMin (((s.spanReached n).spanTaken n rest).get (F.plnRoleOutput n))) =
        s.get (F.ploCalCtrlTdMin (s.get (F.plnRoleOutput n))) := by
      rw [spanTaken_get h rest (f := F.plnRoleOutput n) (.ofBits rfl), spanTaken_get h rest (.ofBits rfl)]
    refine ⟨fun hd hf => ?_, fun hd hf hc => ?_⟩
    · refine ⟨_, e.trans (congrArg _ (laneSpan_dense (hfroz.trans hf) low (by rwa [hmin]))),
        (spanTaken_frame _ _ _).put (by simp), updAt_some hl, densityShown_get _ _ _⟩
    · refine ⟨_, e.trans (congrArg _ (laneSpan_sparse (hfroz.trans hf) low (by rwa [hmin]) ?_)),
        ((spanTaken_frame _ _ _).put (by simp)).put (by simp), updAt_some hl, ?_, get_put_of_lt _ (.ofBits rfl) (by simp [F.plnCalStatusFrozen])⟩
      · rw [lane_of (updAt_some hl)]; exact hc
      · exact (State.get_put_other _ (.ofBases rfl rfl rfl) (.ofBits rfl) _).trans (densityShown_get _ _ _)

end Sys2Proof.Machine
end

section
/-! Repairs of the Hold (R252 to R254, R414). -/

open Sys2Proof Sys2Proof.Machine

namespace Sys2Proof.Machine

/-! A repair asked for. -/

/-- The fields of HOLD_REPAIR_CMD that a repair command writes. -/
def repairCmdFields : List Field := [F.holdRepairCmdOp, F.holdRepairCmdBank, F.holdRepairCmdRow]

/-- HOLD_REPAIR_CMD names an operation, a bank and a row. -/
def State.namesRepair (u : State) (op bank row : Nat) : Prop :=
  u.get F.holdRepairCmdOp = op ∧ u.get F.holdRepairCmdBank = bank ∧ u.get F.holdRepairCmdRow = row

theorem exec_repairRow {s : State} {w : Writer} (h : s.accepts w R.holdRepairCmd = true) (bank : Fin 256) (row : Fin 1024) :
    exec (.repairRow w bank row) s = .next ((s.repairFields 1 bank row).askRepair (.row bank row)) :=
  congrArg _ (State.writeBy_accepts h)

theorem exec_repairBank {s : State} {w : Writer} (h : s.accepts w R.holdRepairCmd = true) (bank : Fin 256) (row : Fin 1024) :
    exec (.repairBank w bank row) s = .next ((s.repairFields 2 bank row).askRepair (.bank bank)) :=
  congrArg _ (State.writeBy_accepts h)

section
variable (s : State) (op : Fin 4) (bank : Fin 256) (row : Fin 1024)

theorem repairFields_frame (P : List Part) : Frame repairCmdFields P s (s.repairFields op bank row) :=
  (Frame.refl _ _ s).puts (by simp [repairCmdFields])

theorem repairFields_get {f : Field} (hf : InWord f) (h : f.addr ≠ R.holdRepairCmd) : (s.repairFields op bank row).get f = s.get f :=
  (repairFields_frame s op bank row []).get hf (by simpa [repairCmdFields, Apart] using ⟨.inl h.symm, .inl h.symm, .inl h.symm⟩)

theorem repairFields_names : (s.repairFields op bank row).namesRepair op bank row := by
  refine ⟨?_, ?_, ?_⟩ <;>
    simp (disch := exact .ofBits rfl) only [State.repairFields, State.puts_cons, State.puts_nil, State.get_put_same, State.get_put_other]
  · exact Nat.mod_eq_of_lt op.isLt
  · exact Nat.mod_eq_of_lt bank.isLt
  · exact Nat.mod_eq_of_lt row.isLt

/-- Whether a repair is refused, and why, rests on no field of the command. -/
theorem repairFields_refusal (r : Repair) : (s.repairFields op bank row).repairRefusal r = s.repairRefusal r := by
  cases r with
  | row b k =>
    have h : (s.repairFields op bank row).get (F.holdOwnerRowsUsed b) = s.get (F.holdOwnerRowsUsed b) :=
      repairFields_get s op bank row (.ofBits rfl) (by simp only [F.holdOwnerRowsUsed, R.holdOwner, R.holdRepairCmd]; omega)
    unfold State.repairRefusal State.rowsFree
    dsimp only
    rw [h]
    rfl
  | bank b =>
    have h : (s.repairFields op bank row).get F.holdRepairStatusBanksFree = s.get F.holdRepairStatusBanksFree :=
      repairFields_get s op bank row (.ofBits rfl) (by decide)
    unfold State.repairRefusal
    dsimp only
    rw [h]
    rfl

end

theorem beginRepair_get (s : State) (r : Repair) (cause : Nat) (slot : Option Nat) (f : Field) :
    (s.beginRepair r cause slot).get f = (s.put F.holdRepairStatusBusy 1).get f := State.get_of_reg rfl

section
variable {s : State} {c : Instr} {op : Fin 4} {bank : Fin 256} {row : Fin 1024} {r : Repair}
  (he : exec c s = .next ((s.repairFields op bank row).askRepair r))
include he

/-- A repair refused with a code: the fields of the command and LAST_CODE. -/
theorem repair_refused {code : Nat} (hc : s.repairRefusal r = code) (h0 : code ≠ 0) (hlt : code < 2 ^ 12) :
    Yields c s [] (F.holdRepairStatusLastCode :: repairCmdFields) [] fun u =>
      u.namesRepair op bank row ∧ u.get F.holdRepairStatusLastCode = code := by
  have e : (s.repairFields op bank row).askRepair r = (s.repairFields op bank row).put F.holdRepairStatusLastCode code := by
    unfold State.askRepair
    rw [repairFields_refusal, hc, if_pos h0]
  refine .quiet (he.trans (congrArg _ e)) (Frame.put ((repairFields_frame s op bank row []).mono (by simp_all) (by simp)) (by simp)) ⟨?_, ?_⟩
  · obtain ⟨hop, hbank, hrow⟩ := repairFields_names s op bank row
    exact ⟨(State.get_put_other _ (.ofRegs rfl) (.ofBits rfl) _).trans hop, (State.get_put_other _ (.ofRegs rfl) (.ofBits rfl) _).trans hbank,
      (State.get_put_other _ (.ofRegs rfl) (.ofBits rfl) _).trans hrow⟩
  · exact get_put_of_lt _ (.ofBits rfl) hlt

/-- A repair begun: noted, and BUSY shown. -/
theorem repair_begins (hc : s.repairRefusal r = 0) :
    Yields c s [] (F.holdRepairStatusBusy :: repairCmdFields) [.hold] fun u => u.namesRepair op bank row ∧
      u.get F.holdRepairStatusBusy = 1 ∧ u.hold = { s.hold with repair := some r, repairCause := 0, repairSlot := none } := by
  have e : (s.repairFields op bank row).askRepair r = (s.repairFields op bank row).beginRepair r 0 none := by
    unfold State.askRepair
    rw [repairFields_refusal, hc, if_neg (by simp)]
  refine .quiet (he.trans (congrArg _ e))
    (holdPart (Frame.put ((repairFields_frame s op bank row [.hold]).mono (by simp_all) (by simp)) (by simp)) _ (by simp)) ⟨?_, ?_, rfl⟩
  · obtain ⟨hop, hbank, hrow⟩ := repairFields_names s op bank row
    unfold State.namesRepair
    rw [beginRepair_get, beginRepair_get, beginRepair_get, State.get_put_other _ (.ofRegs rfl) (.ofBits rfl),
      State.get_put_other _ (.ofRegs rfl) (.ofBits rfl), State.get_put_other _ (.ofRegs rfl) (.ofBits rfl)]
    exact ⟨hop, hbank, hrow⟩
  · rw [beginRepair_get]
    exact get_put_of_lt _ (.ofBits rfl) (by decide)

end

theorem repairRefusal_running {s : State} (h : s.hold.repair ≠ none) (r : Repair) : s.repairRefusal r = 0x422 := by
  have h := Option.isSome_iff_ne_none.2 h
  cases r with
  | row b k => exact if_pos h
  | bank b => exact if_pos h

/-- With no repair under way the spares left decide. -/
theorem repairRefusal_idle {s : State} (h : s.hold.repair = none) :
    (∀ b k, s.repairRefusal (.row b k) = if s.rowsFree b = 0 then 0x420 else 0) ∧
    ∀ b, s.repairRefusal (.bank b) = if s.get F.holdRepairStatusBanksFree = 0 then 0x421 else 0 := by
  simp [State.repairRefusal, h]

/-! The end of the copy. -/

theorem exec_repairCopyDone {s : State} {r : Repair} (h : s.hold.repair = some r) : exec .repairCopyDone s = .next (s.finishRepair r) := by
  show execRepairCopyDone s = _
  unfold execRepairCopyDone
  rw [h]

theorem exec_repairCopyDone_none {s : State} (h : s.hold.repair = none) : exec .repairCopyDone s = .next s := by
  show execRepairCopyDone s = _
  unfold execRepairCopyDone
  rw [h]

/-- The relief row or bank in service, BUSY clear and code 0, no repair under way. -/
def State.repairEnded (s : State) (r : Repair) : State :=
  let t := (s.applyRepair r).puts [(F.holdRepairStatusBusy, 0), (F.holdRepairStatusLastCode, 0)]
  { t with hold := { t.hold with repair := none, repairSlot := none } }

/-- The mailbox command that waits for a repair is answered. -/
def State.answerRepair (t : State) (slot : Option Nat) : State :=
  match slot with
  | some k => if t.purser.current = some k then t.mboxDone k 0 0 [0] else t
  | none => t

theorem finishRepair_row (s : State) (b k : Nat) : s.finishRepair (.row b k) =
    (State.judgeBank (State.answerRepair ((((s.repairEnded (.row b k)).storeRepairs.logRepair (.row b k)
      (goodSpare (s.badRowsOf b) (s.get (F.holdOwnerRowsUsed b))) s.hold.repairCause).raise 200).releaseHeld fun a =>
        bankOf a.addr.toNat == b && rowOfAddr a.addr.toNat == k) s.hold.repairSlot) b s.hold.repairCause).nextRepair := rfl

theorem finishRepair_bank (s : State) (b : Nat) : s.finishRepair (.bank b) =
    (State.answerRepair ((((s.repairEnded (.bank b)).storeRepairs.logRepair (.bank b)
      (goodSpare s.hold.badBanks s.hold.reliefBanks.length) s.hold.repairCause).raise 200).releaseHeld fun _ => false) s.hold.repairSlot).nextRepair := rfl

/-- HOLD_OWNERn and HOLD_REPAIR_STATUS are different registers. -/
theorem Apart.repairStatus_owner {f g : Field} (b : Nat) (hf : f.addr = R.holdRepairStatus) (hg : g.addr = R.holdOwner b) : Apart f g := by
  refine .inl ?_
  rw [hf, hg]
  unfold R.holdRepairStatus R.holdOwner
  omega

theorem applyRepair_row_get (s : State) (b k : Nat) (f : Field) :
    (s.applyRepair (.row b k)).get f = (s.put (F.holdOwnerRowsUsed b) (s.get (F.holdOwnerRowsUsed b) + 1)).get f := State.get_of_reg rfl

theorem applyRepair_bank_get (s : State) (b : Nat) (f : Field) : (s.applyRepair (.bank b)).get f =
    ((s.put (F.holdOwnerReliefBank b) 1).put F.holdRepairStatusBanksFree (s.get F.holdRepairStatusBanksFree - 1)).get f := State.get_of_reg rfl

theorem holdReliefPart {T : List Field} {s t : State} (h : Frame T [.hold, .relief] s t) (x : HoldState) (y : ReliefState) :
    Frame T [.hold, .relief] s { t with hold := x, relief := y } :=
  h.fields fun p hp => by cases p <;> first | rfl | exact absurd (by simp) hp

theorem applyRepair_row_frame (s : State) (b k : Nat) : Frame [F.holdOwnerRowsUsed b] [.hold, .relief] s (s.applyRepair (.row b k)) := by
  have h := (Frame.refl [F.holdOwnerRowsUsed b] [.hold, .relief] s).put (v := s.get (F.holdOwnerRowsUsed b) + 1) (List.mem_singleton_self _)
  exact holdReliefPart h _ _

theorem applyRepair_bank_frame (s : State) (b : Nat) :
    Frame [F.holdOwnerReliefBank b, F.holdRepairStatusBanksFree] [.hold, .relief] s (s.applyRepair (.bank b)) := by
  have h := (Frame.refl [F.holdOwnerReliefBank b, F.holdRepairStatusBanksFree] [.hold, .relief] s).puts
    (l := [(F.holdOwnerReliefBank b, 1), (F.holdRepairStatusBanksFree, s.get F.holdRepairStatusBanksFree - 1)]) (by simp)
  exact holdReliefPart h _ _

section
variable (s : State) (r : Repair)

theorem repairEnded_get (f : Field) : (s.repairEnded r).get f =
    (((s.applyRepair r).put F.holdRepairStatusBusy 0).put F.holdRepairStatusLastCode 0).get f := State.get_of_reg rfl

theorem repairEnded_get_apart {f : Field} (hf : InWord f) (hb : Apart F.holdRepairStatusBusy f) (hc : Apart F.holdRepairStatusLastCode f) :
    (s.repairEnded r).get f = (s.applyRepair r).get f := by
  rw [repairEnded_get, State.get_put_other _ hc hf, State.get_put_other _ hb hf]

theorem repairEnded_status : (s.repairEnded r).get F.holdRepairStatusBusy = 0 ∧ (s.repairEnded r).get F.holdRepairStatusLastCode = 0 := by
  rw [repairEnded_get, repairEnded_get, State.get_put_other _ (.ofBits rfl) (.ofBits rfl)]
  exact ⟨get_put_of_lt _ (.ofBits rfl) (by decide), get_put_of_lt _ (.ofBits rfl) (by decide)⟩

theorem repairEnded_frame {T : List Field} (h : Frame T [.hold, .relief] s (s.applyRepair r)) :
    Frame (T ++ [F.holdRepairStatusBusy, F.holdRepairStatusLastCode]) [.hold, .relief] s (s.repairEnded r) :=
  holdPart (((h.mono (T' := T ++ [F.holdRepairStatusBusy, F.holdRepairStatusLastCode]) (by simp_all) (by simp)).put (by simp)).put (by simp))
    _ (by simp)

end

theorem repairEnded_rowsUsed (s : State) (b k : Nat) (h : s.get (F.holdOwnerRowsUsed b) < 16) :
    (s.repairEnded (.row b k)).get (F.holdOwnerRowsUsed b) = s.get (F.holdOwnerRowsUsed b) + 1 := by
  rw [repairEnded_get_apart _ _ (.ofBits rfl) (.repairStatus_owner b rfl rfl) (.repairStatus_owner b rfl rfl), applyRepair_row_get]
  refine get_put_of_lt s (.ofBits rfl) (Nat.lt_of_le_of_lt h ?_)
  simp [F.holdOwnerRowsUsed]

theorem repairEnded_reliefBank (s : State) (b : Nat) : (s.repairEnded (.bank b)).get (F.holdOwnerReliefBank b) = 1 ∧
    (s.repairEnded (.bank b)).get F.holdRepairStatusBanksFree = s.get F.holdRepairStatusBanksFree - 1 := by
  constructor
  · rw [repairEnded_get_apart _ _ (.ofBits rfl) (.repairStatus_owner b rfl rfl) (.repairStatus_owner b rfl rfl), applyRepair_bank_get,
      State.get_put_other _ (.repairStatus_owner b rfl rfl) (.ofBits rfl)]
    exact get_put_of_lt s (.ofBits rfl) (by simp [F.holdOwnerReliefBank])
  · rw [repairEnded_get_apart _ _ (.ofBits rfl) (.ofBits rfl) (.ofBits rfl), applyRepair_bank_get]
    exact get_put_of_lt _ (.ofBits rfl) (Nat.lt_of_le_of_lt (Nat.sub_le _ _) (s.get_lt _))

/-- Settles O39: a command by what refuses it, the end of the copy by the kind of the repair. -/
theorem repairs : Obligations.Repairs := by
  unfold Obligations.Repairs
  refine fun s => ⟨fun w bank row ha => ?_, exec_repairCopyDone_none, fun r hr => ?_⟩
  · have hrow := exec_repairRow ha bank row
    have hbank := exec_repairBank ha bank row
    refine ⟨fun h => ⟨?_, ?_⟩, fun h => ?_⟩
    · exact repair_refused (op := 1) hrow (repairRefusal_running h _) (by decide) (by decide)
    · exact repair_refused (op := 2) hbank (repairRefusal_running h _) (by decide) (by decide)
    · obtain ⟨idleRow, idleBank⟩ := repairRefusal_idle h
      refine ⟨fun h0 => ?_, fun h0 => ?_, fun h0 => ?_, fun h0 => ?_⟩
      · exact repair_refused (op := 1) hrow ((idleRow _ _).trans (if_pos h0)) (by decide) (by decide)
      · exact repair_begins (op := 1) hrow ((idleRow _ _).trans (if_neg (Nat.ne_of_gt h0)))
      · exact repair_refused (op := 2) hbank ((idleBank _).trans (if_pos h0)) (by decide) (by decide)
      · exact repair_begins (op := 2) hbank ((idleBank _).trans (if_neg h0))
  · have e := exec_repairCopyDone hr
    refine ⟨fun b row hb hu => ?_, fun b hb hu => ?_⟩
    · subst hb
      exact ⟨s.repairEnded (.row b row), repairEnded_frame s _ (applyRepair_row_frame s b row), repairEnded_status s _,
        repairEnded_rowsUsed s b row hu, rfl, rfl, e.trans (congrArg _ (finishRepair_row s b row))⟩
    · subst hb
      obtain ⟨hin, hfree⟩ := repairEnded_reliefBank s b
      exact ⟨s.repairEnded (.bank b), repairEnded_frame s _ (applyRepair_bank_frame s b), repairEnded_status s _, hin, hfree, rfl, rfl,
        e.trans (congrArg _ (finishRepair_bank s b))⟩

end Sys2Proof.Machine
end

section
/-! Accesses at a bank gate of the Hold, alone and two of one port (R234, R235, R238 to R240). -/

open Sys2Proof Sys2Proof.Machine

namespace Sys2Proof.Machine

/-! What the gate makes of an access. -/

/-- An access with what its cycle says of it. -/
abbrev peerOf (a : HoldAccess) (arb : Arbitration) : Peer := ⟨a, arb.issued, arb.ecc, arb.stalled⟩

/-- All ones, for a host function alone. -/
def State.onesToHost (s : State) (a : HoldAccess) : State :=
  if decide (0x40 ≤ a.master.toNat) && decide (a.master.toNat < 0x60) then s.respond a 0 false (List.replicate 32 0xFF) else s

theorem onesToHost_host {a : HoldAccess} (h : hostAccess a) (s : State) : s.onesToHost a = s.respond a 0 false (List.replicate 32 0xFF) :=
  if_pos (by simpa [hostAccess] using h)

theorem onesToHost_other {a : HoldAccess} (h : ¬ hostAccess a) (s : State) : s.onesToHost a = s :=
  if_neg (by simpa [hostAccess] using h)

theorem onesToHost_hold (s : State) (a : HoldAccess) : (s.onesToHost a).hold = s.hold := by
  unfold State.onesToHost
  split
  · exact respond_hold _ _ _ _ _
  · rfl

/-- An access has the right that its gate asks for (R240). -/
abbrev State.hasRight (s : State) (a : HoldAccess) : Prop := s.mayHold a.master.toNat (bankOf a.addr.toNat) a.write = true

section
variable {s : State} {p : Peer}

theorem passGate_held (h : s.gateHolds p.acc = true) :
    s.passGate p = ({ s with hold := { s.hold with held := s.hold.held ++ [⟨p, s.cycleNow⟩] } }, []) := if_pos h

theorem passGate_barred (h : s.gateHolds p.acc = false) (hr : ¬ s.hasRight p.acc) : s.passGate p =
    ((s.violate p.acc.master.toNat (s.barCode p.acc.master.toNat p.acc.addr.toNat p.acc.write) p.acc.addr.toNat p.acc.write).onesToHost p.acc, []) := by
  unfold State.passGate
  dsimp only
  rw [if_neg (by simp [h]), if_pos (by simpa [State.hasRight] using hr)]
  rfl

theorem passGate_frozen (h : s.gateHolds p.acc = false) (hr : s.hasRight p.acc) (hf : s.frozen p.acc.master.toNat = true) :
    s.passGate p = (s.onesToHost p.acc, []) := by
  unfold State.passGate
  dsimp only
  rw [if_neg (by simp [h]), if_neg (by simpa using hr), if_pos hf]
  rfl

theorem passGate_admitted (h : s.gateHolds p.acc = false) (hr : s.hasRight p.acc) (hf : s.frozen p.acc.master.toNat = false) :
    s.passGate p = (s, [p]) := by
  unfold State.passGate
  dsimp only
  rw [if_neg (by simp [h]), if_neg (by simpa using hr), if_neg (by simp [hf])]

end

/-! One access in its cycle. -/

section
variable {s : State} {a : HoldAccess} {arb : Arbitration} (h1 : s.inWinter = false) (h2 : s.power.off = false)
  (h3 : s.power.fabricOff = false) (ho : arb.others = [])
include h1 h2 h3 ho

/-- An access that leaves the march window as it is: no other is let go. -/
theorem holdAccess_alone {t : State} (ht : s.presentAll [peerOf a arb] = t) (hw : t.hold.window = s.hold.window) :
    exec (.holdAccess a arb) s = .next t := by
  rw [exec_holdAccess h1 h2 h3]
  unfold State.presentAccess
  rw [ho, ht]
  dsimp only
  rw [hw, if_neg (by cases s.hold.window <;> simp)]

variable (hp : s.plainAt a)
include hp

theorem holdAccess_stopped {t : State} (ht : s.passGate (peerOf a arb) = (t, [])) (hw : t.hold.window = s.hold.window) :
    exec (.holdAccess a arb) s = .next t :=
  holdAccess_alone h1 h2 h3 ho (by rw [present_alone hp, ht]) hw

variable (hg : s.gateHolds a = false)
include hg

theorem holdAccess_barred (hr : ¬ s.hasRight a) : exec (.holdAccess a arb) s = .next ((s.violate a.master.toNat
    (s.barCode a.master.toNat a.addr.toNat a.write) a.addr.toNat a.write).onesToHost a) :=
  holdAccess_stopped h1 h2 h3 ho hp (passGate_barred hg hr) (by rw [onesToHost_hold, violate_hold])

variable (hr : s.hasRight a)
include hr

theorem holdAccess_frozen (hf : s.frozen a.master.toNat = true) : exec (.holdAccess a arb) s = .next (s.onesToHost a) :=
  holdAccess_stopped h1 h2 h3 ho hp (passGate_frozen hg hr hf) (by rw [onesToHost_hold])

variable (hf : s.frozen a.master.toNat = false)
include hf

theorem holdAccess_served {t : State} (ht : s.servePeer (peerOf a arb) = t) (hw : t.hold.window = s.hold.window) :
    exec (.holdAccess a arb) s = .next t :=
  holdAccess_alone h1 h2 h3 ho (by rw [present_alone hp, passGate_admitted (p := peerOf a arb) hg hr hf]; exact ht) hw

end

/-! An access served. -/

/-- The round robin moved on changes no byte. -/
theorem servedNow_byte (s : State) (p : Peer) (b : Nat) : (s.servedNow p).holdByte b = s.holdByte b := rfl

theorem servedNow_frame (s : State) (p : Peer) (T : List Field) {P : List Part} (m : .hold ∈ P) : Frame T P s (s.servedNow p) :=
  holdPart (Frame.refl _ _ _) _ m

theorem readResult_length (s : State) (a : HoldAccess) : (s.readResult a).length = 32 := by simp [State.readResult]

/-- Result byte i of a read is word byte i + r of the word (R239). -/
theorem readResult_get (s : State) (a : HoldAccess) {i : Nat} (h : i < 32) :
    (s.readResult a).getD i 0 = s.holdByte (wordOf a.addr.toNat + (i + a.rotate.val) % 32) := by
  simp [State.readResult, List.getD, h]

section
variable {s : State} {p : Peer}

theorem servePeer_stalled (h : p.stalled = true) : s.servePeer p =
    { s.servedNow p with hold := { (s.servedNow p).hold with outstanding := s.hold.outstanding ++ [p] } } := if_pos h

variable (h : p.stalled = false)
include h

theorem servePeer_write (hw : p.acc.write = true) : s.servePeer p = ((s.servedNow p).performWrite p.acc).respond p.acc 0 false [] := by
  unfold State.servePeer State.performOne
  dsimp only
  rw [if_neg (by simp [h]), if_pos hw]

theorem servePeer_read (hw : p.acc.write = false) : s.servePeer p =
    let r := (s.servedNow p).eccRead p.acc p.ecc.val
    r.1.respond p.acc r.2 false (r.1.readResult p.acc) := by
  unfold State.servePeer State.performOne
  dsimp only
  rw [if_neg (by simp [h]), if_neg (by simp [hw])]

theorem servePeer_clean (hw : p.acc.write = false) (he : p.ecc = 0) (hu : wordOf p.acc.addr.toNat ∉ s.hold.uncorr) :
    s.servePeer p = (s.servedNow p).respond p.acc 0 false ((s.servedNow p).readResult p.acc) := by
  have e : (s.servedNow p).eccRead p.acc 0 = (s.servedNow p, 0) := eccRead_clean hu
  rw [servePeer_read h hw, he]
  dsimp only [Fin.val_zero]
  rw [e]

end

/-- A read of an uncorrectable word noted, before its event (R234). -/
def State.uncorrNoted (s : State) (w : Nat) : State := (s.put F.holdEccAddrAddr (w / 32)).count F.holdEccUncorrCount 1

theorem noteUncorr_eq (s : State) (w : Nat) : s.noteUncorr w = (s.uncorrNoted w).raise 195 := rfl

theorem servePeer_uncorrectable {s : State} {p : Peer} (h : p.stalled = false) (hw : p.acc.write = false)
    (hu : wordOf p.acc.addr.toNat ∈ s.hold.uncorr) : s.servePeer p =
      (((s.servedNow p).uncorrNoted (wordOf p.acc.addr.toNat)).raise 195).respond p.acc 0x401 false ((s.servedNow p).readResult p.acc) := by
  have e : (s.servedNow p).eccRead p.acc p.ecc.val = ((s.servedNow p).noteUncorr (wordOf p.acc.addr.toNat), 0x401) := eccRead_bad _ hu
  have hb : ((s.servedNow p).noteUncorr (wordOf p.acc.addr.toNat)).readResult p.acc = (s.servedNow p).readResult p.acc := by
    unfold State.readResult
    simp only [noteUncorr_eq, holdByte_of (raise_hold _ _)]
    rfl
  rw [servePeer_read h hw]
  dsimp only
  rw [e]
  dsimp only
  rw [hb, noteUncorr_eq]

theorem uncorrNoted_frame {T : List Field} {P : List Part} {s t : State} (h : Frame T P s t) (w : Nat) (m1 : F.holdEccAddrAddr ∈ T)
    (m2 : F.holdEccUncorrCount ∈ T) : Frame T P s (t.uncorrNoted w) := (h.put m1).count m2

/-- A word's address fits HOLD_ECC_ADDR. -/
theorem wordOf_div_lt (a : BitVec 30) : wordOf a.toNat / 32 < 2 ^ 25 := by
  have := a.isLt
  unfold wordOf
  omega

theorem uncorrNoted_shows (s : State) (a : BitVec 30) : (s.uncorrNoted (wordOf a.toNat)).get F.holdEccAddrAddr = wordOf a.toNat / 32 ∧
    (s.uncorrNoted (wordOf a.toNat)).get F.holdEccUncorrCount = min (fieldMax F.holdEccUncorrCount) (s.get F.holdEccUncorrCount + 1) := by
  unfold State.uncorrNoted
  constructor
  · rw [count_get_other _ _ (.ofRegs rfl) (.ofBits rfl)]
    exact get_put_of_lt _ (.ofBits rfl) (wordOf_div_lt a)
  · rw [count_get _ _ _ (.ofBits rfl), State.get_put_other _ (.ofRegs rfl) (.ofBits rfl)]

/-! Two admitted accesses of one port. -/

/-- The better class comes first, whoever's turn it is. -/
theorem portTurn_class (s : State) {p q : Peer} (h : portClass p.acc.master.toNat < portClass q.acc.master.toNat) :
    s.portTurn p < s.portTurn q := by
  unfold State.portTurn
  dsimp only
  omega

/-- A port takes the one of two accesses whose turn comes first. -/
theorem portWinner_pair (s : State) {p q first second : Peer} (hpq : first = p ∧ second = q ∨ first = q ∧ second = p)
    (hport : portA first.acc.master.toNat = portA second.acc.master.toNat) (ht : s.portTurn first < s.portTurn second) (c : Bool) :
    s.portWinner c [p, q] = if portA first.acc.master.toNat = c then some first else none := by
  unfold State.portWinner
  rcases hpq with ⟨rfl, rfl⟩ | ⟨rfl, rfl⟩
  · by_cases hc : portA first.acc.master.toNat = c
    · simp [hc, ← hport, Nat.le_of_lt ht]
    · simp [hc, ← hport]
  · by_cases hc : portA first.acc.master.toNat = c
    · simp [hc, ← hport, ht]
    · simp [hc, ← hport]

theorem portWinner_single (s : State) (p : Peer) (c : Bool) : s.portWinner c [p] = if portA p.acc.master.toNat = c then some p else none := by
  unfold State.portWinner
  by_cases hc : portA p.acc.master.toNat = c <;> simp [hc]

theorem contend_single (n : Nat) (s : State) (p : Peer) : State.contend (n + 1) [p] s = State.contend n [] (s.servePeer p) := by
  rw [State.contend, portWinner_single, portWinner_single]
  cases portA p.acc.master.toNat <;> simp

/-- Two accesses of one port: the one whose turn it is is served, the other waits one cycle (R235, R238). -/
theorem contend_onePort {s : State} {p q first second : Peer} (hpq : first = p ∧ second = q ∨ first = q ∧ second = p)
    (hport : portA first.acc.master.toNat = portA second.acc.master.toNat) (ht : s.portTurn first < s.portTurn second) :
    State.contend 2 [p, q] s = ((s.conflict second.acc.master.toNat 1).servePeer first).servePeer second := by
  have hne : first ≠ second := by rintro rfl; exact absurd ht (Nat.lt_irrefl _)
  have herase : [p, q].erase first = [second] := by
    rcases hpq with ⟨rfl, rfl⟩ | ⟨rfl, rfl⟩
    · simp
    · simp [Ne.symm hne]
  have hstep : State.contend 2 [p, q] s = State.contend 1 [second] ((s.conflict second.acc.master.toNat 1).servePeer first) := by
    rw [State.contend, portWinner_pair s hpq hport ht, portWinner_pair s hpq hport ht]
    cases portA first.acc.master.toNat <;> simp [herase]
  rw [hstep, contend_single]
  rfl

/-- With no march window under test every access is an ordinary one. -/
theorem plainAt_of_noWindow {s : State} (h : s.hold.window = none) (a : HoldAccess) : s.plainAt a :=
  fun _ w hw => by rw [h] at hw; cases hw

/-- Two accesses that pass their gates, with no march window under test, contend for their ports. -/
theorem holdAccess_pair {s : State} {a : HoldAccess} {arb : Arbitration} {q : Peer} (h1 : s.inWinter = false) (h2 : s.power.off = false)
    (h3 : s.power.fabricOff = false) (hw : s.hold.window = none) (ho : arb.others = [q])
    (hadmit : ∀ x ∈ [peerOf a arb, q], s.passGate x = (s, [x])) :
    exec (.holdAccess a arb) s = .next (State.contend 2 [peerOf a arb, q] s) := by
  have e : s.presentAll [peerOf a arb, q] = State.contend 2 [peerOf a arb, q] s := by
    unfold State.presentAll
    simp only [List.foldl_cons, List.foldl_nil, purserMeets_plain (plainAt_of_noWindow hw _), hadmit (peerOf a arb) (by simp),
      hadmit q (by simp)]
    rfl
  rw [exec_holdAccess h1 h2 h3]
  unfold State.presentAccess
  rw [ho, e]
  dsimp only
  rw [hw, if_neg (by simp)]

/-- Settles O35: one access by what its gate and its bank make of it, two of one port by whose turn comes first. -/
theorem holdAccessAtGate : Obligations.HoldAccessAtGate := by
  unfold Obligations.HoldAccessAtGate
  refine ⟨fun s a arb h => ?_, fun s a arb h1 h2 h3 hp ho => ⟨fun hg => ?_, fun hg => ⟨fun hr => ⟨fun hh => ?_, fun hh => ?_⟩,
    fun hr hf => ⟨fun hh => ?_, fun hh => ?_⟩, fun hr hf => ⟨fun hs => ?_, fun hs => ⟨fun hw => ?_, fun hw he hu => ?_, fun hw hu => ?_⟩⟩⟩⟩,
    fun s a arb q first second h1 h2 h3 hw ho hpq hadmit hport ht => ?_, fun s p q h => portTurn_class s h⟩
  · exact if_pos (by simpa [or_assoc] using h)
  · exact .quiet (holdAccess_stopped h1 h2 h3 ho hp (passGate_held hg) rfl) (holdPart (Frame.refl _ _ s) _ (by simp)) rfl
  · rw [holdAccess_barred h1 h2 h3 ho hp hg hr, onesToHost_host hh]
  · rw [holdAccess_barred h1 h2 h3 ho hp hg hr, onesToHost_other hh]
  · rw [holdAccess_frozen h1 h2 h3 ho hp hg hr hf, onesToHost_host hh]
  · rw [holdAccess_frozen h1 h2 h3 ho hp hg hr hf, onesToHost_other hh]
  · exact .quiet (holdAccess_served h1 h2 h3 ho hp hg hr hf (servePeer_stalled (p := peerOf a arb) hs) rfl)
      (holdPart (servedNow_frame s _ [] (by simp)) _ (by simp)) rfl
  · refine ⟨_, holdAccess_served h1 h2 h3 ho hp hg hr hf (servePeer_write (p := peerOf a arb) hs hw) ?_,
      performWrite_frame (servedNow_frame s _ _ (by simp)) (by simp) (by simp) (fun p hp => List.mem_cons_of_mem _ hp) a,
      storedBy_congr (servedNow_byte s (peerOf a arb)) (fun _ => rfl) (performWrite_stored (s.servedNow (peerOf a arb)) a)⟩
    rw [respond_hold, performWrite_window]
    rfl
  · refine ⟨_, _, holdAccess_served h1 h2 h3 ho hp hg hr hf (servePeer_clean (p := peerOf a arb) hs hw he hu) ?_, servedNow_frame s _ [] (by simp),
      readResult_length _ _, fun i hi => readResult_get _ a hi⟩
    rw [respond_hold]
    rfl
  · obtain ⟨haddr, hcount⟩ := uncorrNoted_shows (s.servedNow (peerOf a arb)) a.addr
    refine ⟨_, _, holdAccess_served h1 h2 h3 ho hp hg hr hf (servePeer_uncorrectable (p := peerOf a arb) hs hw hu) ?_,
      uncorrNoted_frame (servedNow_frame s _ _ (by simp)) _ (by simp) (by simp), haddr, hcount, readResult_length _ _,
      fun i hi => readResult_get _ a hi⟩
    rw [respond_hold, raise_hold]
    rfl
  · rw [holdAccess_pair h1 h2 h3 hw ho fun x hx => ?_, contend_onePort hpq hport ht]
    obtain ⟨hg, hr, hf⟩ := hadmit x hx
    exact passGate_admitted hg hr hf

end Sys2Proof.Machine
end

section
/-! A collision that completes a host function's read (R236, R359, R373): what the statement of collisions leaves out. -/

open Sys2Proof Sys2Proof.Machine

namespace Sys2Proof.Machine

/-- Bank 0 of output 0's scan-out engine, with a right of PF0's to it. PF0 reads 64 bytes through BAR2, whose second word a drain limit has cut off
already (0x404, R242). -/
def halfCut : State := { State.reset.put (F.holdOwnerOwner 0) 0xC0 with
  sst := { SstState.reset with rights := [[0x40030000, 0x100, 0]] }
  host := { HostState.reset with linkUp := true, reads := [⟨0, 0, 64, [(32, 0x404, [])]⟩] } }

/-- The scan-out engine's write of word 0, issued in cycle 1. -/
def cutWriter : Peer := ⟨⟨0xC0, 0, 0, 0, true, 0⟩, 1, 0, false⟩

/-- PF0's read of word 0, issued in cycle 0. -/
def cutReader : Peer := ⟨⟨0x40, 0, 0, 0, false, 0⟩, 0, 0, false⟩

/-- The two come to the bank in one cycle. -/
def cutMeeting : Instr := .holdAccess cutWriter.acc ⟨1, 0, false, [cutReader]⟩

/-- The read is answered, which completes PF0's request as Completer Abort: the function logs it, source 36 (R373). -/
theorem cutMeeting_logs : (match exec cutMeeting halfCut with
    | .next t => t.get (pendingField 36)
    | _ => 0) = 1 := by decide +kernel

theorem halfCut_notLogged : halfCut.get (pendingField 36) = 0 := by decide +kernel

/-- Refutes O36: an earlier read of a host function's, its word clean, may be the last word of a request that is Completer Abort for another word,
cut off at a drain limit. The collision then raises source 36 too, which is no field that the statement lets it touch. -/
theorem not_holdCollisions : ¬ Obligations.HoldCollisions := by
  unfold Obligations.HoldCollisions
  intro h
  obtain ⟨u, he, -, -, -, -, -, -, -, -, hclean, -⟩ := (h halfCut).2 cutWriter.acc ⟨1, 0, false, [cutReader]⟩ cutWriter cutReader
    (by decide +kernel) rfl rfl rfl (.inl rfl) rfl rfl (by decide +kernel) rfl
  have hframe := (hclean rfl rfl (by decide)).1
  have he : exec cutMeeting halfCut = .next (u.raise 194) := he
  have hlogged := cutMeeting_logs
  rw [he] at hlogged
  have hu : u.get (pendingField 36) = 1 := (raise_get u 194 (.ofBits rfl) (.ofRegs rfl)).symm.trans hlogged
  have hs : u.get (pendingField 36) = halfCut.get (pendingField 36) := hframe.get (.ofBits rfl) (by unfold Apart; decide)
  rw [hu, halfCut_notLogged] at hs
  exact absurd hs (by decide)

end Sys2Proof.Machine
end

section
/-! Start-up: power-on, the start-up march, the end of start-up (R246, R252, R400, R407, R411). -/

open Sys2Proof Sys2Proof.Machine

namespace Sys2Proof.Machine

/-! Messages of operations in a row. -/

/-- A message that is out stays out. -/
theorem Keeps.mem {r s : State} (h : Keeps r s) {x : Out} (hx : x ∈ r.out) : x ∈ s.out := by
  obtain ⟨new, e⟩ := h.sent
  rw [e]
  exact List.mem_append_right _ hx

theorem foldl_keeps {α : Type} {f : State → α → State} (hf : ∀ t a, Keeps t (f t a)) (l : List α) (s : State) : Keeps s (l.foldl f s) :=
  foldl_inv (Keeps s) _ _ _ (.refl s) fun t a _ h => h.trans (hf t a)

/-- Operations in a row have put out the messages of them all. -/
theorem foldl_puts_out {α : Type} {f : State → α → State} {g : α → Out} (hf : ∀ t a, Keeps t (f t a)) (hg : ∀ t a, g a ∈ (f t a).out)
    {l : List α} {a : α} (ha : a ∈ l) (s : State) : g a ∈ (l.foldl f s).out := by
  induction l generalizing s with
  | nil => cases ha
  | cons b l ih =>
    rcases List.mem_cons.1 ha with rfl | ha
    · exact (foldl_keeps hf l _).mem (hg s a)
    · exact ih ha _

/-! The outputs of a part that was Off (R430, R441). -/

theorem gatesOff_frame {T : List Field} {P : List Part} {s t : State} (h : Frame T P s t) (n : Nat) (m : .output n ∈ P) (mo : .out ∈ P) :
    Frame T P s (t.gatesOff n) :=
  emits_frame (State.setOut_frame h n (fun o => { o with pulses := [] }) m) (fun k => .gate n k false 0 0) _ mo

/-- Output n's gate outputs off, its discharge input high. -/
def State.gatesUp (s : State) (n : Nat) : State := (s.gatesOff n).emit (.dchg n true)

theorem gatesUp_keeps (s : State) (n : Nat) : Keeps s (s.gatesUp n) := State.emit_keeps (State.gatesOff_keeps (.refl s) n) _

/-- Lanes and PLRL outputs in electrical idle. -/
def State.lanesUp (s : State) : State := ((List.range 96).foldl (fun t l => t.emit (.laneIdle l)) s).plrlPins false

theorem pinsUp_on {s : State} (h : s.power.off = false) : s.pinsUp = s := if_pos (by simp [h])

theorem pinsUp_off {s : State} (h : s.power.off = true) : s.pinsUp = (List.range 4).foldl State.gatesUp s.lanesUp := if_neg (by simp [h])

theorem lanesUp_out (s : State) : s.lanesUp.out =
    ((List.range 16).map fun i => .plrl (i / 4) (i % 4) false).reverse ++ (((List.range 96).map .laneIdle).reverse ++ s.out) :=
  (emits_out _ _ _).trans (congrArg _ (emits_out _ _ _))

/-- What the outputs are driven with. -/
theorem pinsUp_drives {s : State} (h : s.power.off = true) : (∀ n, n < 4 → Out.dchg n true ∈ s.pinsUp.out) ∧
    (∀ l, l < 96 → Out.laneIdle l ∈ s.pinsUp.out) ∧ (∀ i, i < 16 → Out.plrl (i / 4) (i % 4) false ∈ s.pinsUp.out) ∧
    ∀ x ∈ s.out, x ∈ s.pinsUp.out := by
  have hk : Keeps s.lanesUp ((List.range 4).foldl State.gatesUp s.lanesUp) := foldl_keeps gatesUp_keeps _ _
  rw [pinsUp_off h]
  refine ⟨fun n hn => ?_, fun l hl => hk.mem ?_, fun i hi => hk.mem ?_, fun x hx => hk.mem ?_⟩
  · exact foldl_puts_out (g := fun n => Out.dchg n true) gatesUp_keeps (fun t n => List.mem_cons_self ..) (List.mem_range.2 hn) _
  · rw [lanesUp_out]
    simp [hl]
  · rw [lanesUp_out]
    exact List.mem_append_left _ (List.mem_reverse.2 (List.mem_map.2 ⟨i, List.mem_range.2 hi, rfl⟩))
  · rw [lanesUp_out]
    simp [hx]

/-- Driving the outputs is messages, and the pulses of the gate outputs. -/
theorem pinsUp_frame (s : State) : Frame [] [.output 0, .output 1, .output 2, .output 3, .out] s s.pinsUp := by
  cases h : s.power.off with
  | false => rw [pinsUp_on h]; exact .refl _ _ s
  | true =>
    rw [pinsUp_off h]
    refine foldl_inv (Frame [] [.output 0, .output 1, .output 2, .output 3, .out] s) _ _ _
      (emits_frame (emits_frame (.refl _ _ s) _ _ (by simp)) _ _ (by simp)) fun t n hn ht => (gatesOff_frame ht n ?_ (by simp)).emit (by simp)
    have hn : n < 4 := List.mem_range.1 hn
    interval_cases n <;> simp

/-! Power-on. -/

theorem applyRepair_out (s : State) (r : Repair) : (s.applyRepair r).out = s.out := by cases r <;> rfl

/-- The repairs known are applied to the blank state. -/
theorem exec_powerOn (s : State) :
    exec .powerOn s = .next ((s.otp.repairs ++ s.recordRepairs).foldl State.applyRepair s.pinsUp.coldState) := rfl

theorem repairs_out (l : List Repair) (s : State) : (l.foldl State.applyRepair s).out = s.out :=
  foldl_inv (fun t => State.out t = s.out) _ _ _ rfl fun t r _ h => (applyRepair_out t r).trans h

section
variable (s : State)

theorem coldState_out : s.coldState.out = s.releasePins.out := by
  unfold State.coldState
  dsimp only

theorem coldState_cal : s.coldState.cal = { s.cal with jobs := [], retried := false, trimDue := false, sectors := [] } := rfl

theorem coldState_host : s.coldState.host = { HostState.reset with perst := s.host.perst, ids := fnIds s.otp.subsys } := rfl

theorem coldState_power : s.coldState.power = { PowerState.reset with pfailLow := s.power.pfailLow, pfail := s.power.pfail } := rfl

end

theorem powerOn_sent (s : State) {x : Out} (hx : x ∈ s.pinsUp.out) :
    x ∈ ((s.otp.repairs ++ s.recordRepairs).foldl State.applyRepair s.pinsUp.coldState).out := by
  rw [repairs_out, coldState_out]
  exact (State.releasePins_keeps (.refl s.pinsUp)).mem hx

/-! The start-up march (R246). -/

theorem exec_startupMarch_idle {s : State} (h : s.power.off = true ∨ s.get F.glbStateState ≠ 0 ∨ s.power.warmStart = true ∨
    s.power.coldMarchDone = true) (fails : List MarchFail) : exec (.startupMarchComplete fails) s = .next s :=
  if_pos (by simpa [or_assoc] using h)

/-- The first failure of a start-up march shown, its code. -/
def State.marchFailed (s : State) (l : List MarchFail) : State := (s.showFail false false l).put F.holdMarchStatusLastCode 0x414

/-- A start-up march whose failures are noted: the first of them shown. -/
def State.marchNoted (s : State) (l : List MarchFail) : State := if l = [] then s else (s.marchFailed l).raise 197

/-- Failing words counted, spares that fail not free. -/
def State.marchCounted (s : State) (l : List MarchFail) : State :=
  (failWords l).foldl (fun t x => (t.count F.holdMarchFaultsCount 1).badSpare x) s

/-- The rows that fail repaired. -/
def State.marchRepaired (s : State) (l : List MarchFail) : State :=
  ((failRows (failWords l)).foldl (fun (q : State × List Nat) p => q.1.repairAtStart q.2 p.1 p.2) (s, [])).1

/-- The Hold zero, the PLLs of the switched domains locked, the march done. -/
def State.marchOver (s : State) : State :=
  ((s.clearRange 0 0x40000000).lockPlls).setPower fun p => { p with coldMarchDone := true }

theorem exec_startupMarch {s : State} (h1 : s.power.off = false) (h2 : s.get F.glbStateState = 0) (h3 : s.power.warmStart = false)
    (h4 : s.power.coldMarchDone = false) (fails : List MarchFail) : exec (.startupMarchComplete fails) s =
      .next ((((s.marchNoted (orderFails false false false fails)).marchCounted (orderFails false false false fails)).marchRepaired
        (orderFails false false false fails)).marchOver) := by
  have e : (s.power.off || s.get F.glbStateState != 0 || s.power.warmStart || s.power.coldMarchDone) ≠ true := by simp [h1, h2, h3, h4]
  refine (if_neg e).trans ?_
  cases orderFails false false false fails <;> rfl

theorem showFail_frame (s : State) (a b : Bool) (l : List MarchFail) :
    Frame [F.holdMarchFailAddr, F.holdMarchFailBitElement, F.holdMarchFailBitBit] [.free] s (s.showFail a b l) := by
  cases l with
  | nil => exact .refl _ _ s
  | cons f rest =>
    unfold State.showFail
    dsimp only
    split
    · exact ((Frame.refl _ _ s).puts (by simp)).put (by simp)
    · exact (((Frame.refl _ _ s).puts (by simp)).put (by simp)).fields fun p hp => by cases p <;> first | rfl | exact absurd (by simp) hp
    · exact (((Frame.refl _ _ s).puts (by simp)).put (by simp)).fields fun p hp => by cases p <;> first | rfl | exact absurd (by simp) hp

theorem marchFailed_frame (s : State) (l : List MarchFail) :
    Frame [F.holdMarchFailAddr, F.holdMarchFailBitElement, F.holdMarchFailBitBit, F.holdMarchStatusLastCode] [.free] s (s.marchFailed l) :=
  Frame.put ((showFail_frame s false false l).mono (by simp) (by simp)) (by simp)

section
variable (s : State) (f : MarchFail) (rest : List MarchFail)

/-- Where the failing bit is shown, the address is not. -/
theorem showFail_bit {g : Field} (hg : InWord g) (ha : g.addr = R.holdMarchFailBit) (a b : Bool) : (s.showFail a b (f :: rest)).get g =
    (s.puts [(F.holdMarchFailBitElement, f.element), (F.holdMarchFailBitBit, (failBit f a b).getD 0)]).get g := by
  have hapart : Apart F.holdMarchFailAddr g := .inl (by rw [ha]; decide)
  unfold State.showFail
  dsimp only
  split
  · exact State.get_put_other _ hapart hg _
  · exact (State.get_bumpFree _ _).trans (State.get_put_other _ hapart hg _)
  · exact (State.get_bumpFree _ _).trans (State.get_put_other _ hapart hg _)

theorem marchFailed_get {g : Field} (hg : InWord g) (h : g.addr ≠ R.holdMarchStatus) :
    (s.marchFailed (f :: rest)).get g = (s.showFail false false (f :: rest)).get g := State.get_put_other _ (.inl h.symm) hg _

theorem marchFailed_element : (s.marchFailed (f :: rest)).get F.holdMarchFailBitElement = f.element.val := by
  rw [marchFailed_get s f rest (.ofBits rfl) (by decide), showFail_bit s f rest (.ofBits rfl) rfl, State.puts_cons, State.puts_cons, State.puts_nil,
    State.get_put_other _ (.ofBits rfl) (.ofBits rfl)]
  exact get_put_of_lt _ (.ofBits rfl) f.element.isLt

theorem marchFailed_bit {b : Nat} (h : failBit f false false = some b) : (s.marchFailed (f :: rest)).get F.holdMarchFailBitBit = b % 2 ^ 9 := by
  rw [marchFailed_get s f rest (.ofBits rfl) (by decide), showFail_bit s f rest (.ofBits rfl) rfl, State.puts_cons, State.puts_cons, State.puts_nil,
    State.get_put_same _ (.ofBits rfl), h]
  rfl

theorem marchFailed_addr {a : BitVec 30} (h : f.unit = .word a) : (s.marchFailed (f :: rest)).get F.holdMarchFailAddr = a.toNat / 32 := by
  rw [marchFailed_get s f rest (.ofBits rfl) (by decide)]
  unfold State.showFail
  dsimp only
  rw [h]
  refine get_put_of_lt _ (.ofBits rfl) ?_
  have := a.isLt
  simp only [F.holdMarchFailAddr]
  omega

end

theorem lockPlls_locks (s : State) : s.lockPlls.get F.clkStatusFabricLock = 1 ∧ s.lockPlls.get F.clkStatusPurserLock = 1 ∧
    s.lockPlls.get F.clkStatusTickLock = 1 := by
  unfold State.lockPlls
  refine ⟨?_, ?_, ?_⟩ <;>
    simp (disch := exact .ofBits rfl) only [State.puts_cons, State.puts_nil, State.get_put_same, State.get_put_other] <;> rfl

/-- The fields that show the PLLs of the switched domains. -/
def switchedLocks : List Field := [F.clkStatusFabricLock, F.clkStatusPurserLock, F.clkStatusTickLock]

theorem lockPlls_frame {P : List Part} {s t : State} (h : Frame switchedLocks P s t) : Frame switchedLocks P s t.lockPlls :=
  h.puts (by simp [switchedLocks])

theorem marchOver_frame (s : State) : Frame switchedLocks [.hold, .power] s s.marchOver :=
  State.setPower_frame (lockPlls_frame (holdPart (.refl _ _ s) _ (by simp))) _ (by simp)

theorem marchOver_locks (s : State) : s.marchOver.get F.clkStatusFabricLock = 1 ∧ s.marchOver.get F.clkStatusPurserLock = 1 ∧
    s.marchOver.get F.clkStatusTickLock = 1 := by
  unfold State.marchOver
  rw [State.setPower_get, State.setPower_get, State.setPower_get]
  exact lockPlls_locks _

theorem marchOver_holdByte (s : State) (a : Nat) : s.marchOver.holdByte a = if a < 0x40000000 then 0 else s.holdByte a := by
  have e : s.marchOver.holdByte a = (s.clearRange (0 * 0x400000) (256 * 0x400000)).holdByte a := holdByte_of rfl a
  rw [e, clear_byte]
  simp

/-! Rows that fail at start-up (R246, R414). -/

theorem repairAtStart_moved {s : State} {moved : List Nat} {b : Nat} (h : b ∈ moved) (r : Nat) : s.repairAtStart moved b r = (s, moved) :=
  if_pos (by simpa using h)

theorem repairAtStart_unmoved {s : State} {moved : List Nat} {b : Nat} (h : b ∉ moved) (r : Nat) : s.repairAtStart moved b r =
    if (s.raise 724).rowsFree b ≠ 0 then (((s.raise 724).applyRepair (.row b r)).raise 200, moved)
    else if (s.raise 724).get F.holdRepairStatusBanksFree ≠ 0 then (((s.raise 724).applyRepair (.bank b)).raise 200, moved ++ [b])
    else ((s.raise 724).raise 728, moved) :=
  if_neg (by simpa using h)

/-! The end of start-up (R400, R407). -/

/-- The fuses and the reference shown, an error of the OTP read told. -/
def State.fusesShown (s : State) (refclk otpError : Bool) : State :=
  ((s.lockPlls).raiseIf otpError 21).puts [(F.sstStatusSignRequired, s.otp.signRequired.toNat),
    (F.sstStatusKeyHashFused, s.otp.keyHash.isSome.toNat), (F.clkStatusRefclkOk, refclk.toNat)]

/-- REFIN shown, and whether the part must recover. -/
def State.startChecked (d : State) (refin bootFails otpError : Bool) : State :=
  (d.put F.clkStatusRefinOk (refin && bits d.sst.clocks.toNat 1 0 != 0).toNat).setPower fun p =>
    { p with recoverNeeded := p.recoverNeeded || bootFails || otpError }

section
variable {s : State}

theorem exec_startupComplete_idle (h : s.power.off = true ∨ s.power.fabricOff = true ∨ s.power.halted = true ∨ s.get F.glbStateState ≠ 0 ∨
    (s.power.warmStart = false ∧ s.power.coldMarchDone = false) ∨ s.power.warmPending = true) (refclk refin otpError : Bool) :
    exec (.startupComplete refclk refin otpError) s = .next s :=
  if_pos (by simpa [or_assoc] using h)

variable (h1 : s.power.off = false) (h2 : s.power.fabricOff = false) (h3 : s.power.halted = false) (h4 : s.get F.glbStateState = 0)
  (h5 : s.power.warmStart = true ∨ s.power.coldMarchDone = true) (h6 : s.power.warmPending = false)
include h1 h2 h3 h4 h5 h6

theorem exec_startupComplete (refclk refin otpError : Bool) : exec (.startupComplete refclk refin otpError) s =
    let b := s.fusesShown refclk otpError
    let t := (((b.reapplySwaps.scanStore.applyTrims).storeNewRepairs.bootStructure).timeDefaults.startChecked refin b.bootFails otpError).serve
    .next (if t.power.pfailLow then t.setPower fun p => { p with halted := true } else t.finishStart) := by
  have e : (s.power.off || s.power.fabricOff || s.power.halted || s.get F.glbStateState != 0 ||
      !(s.power.warmStart || s.power.coldMarchDone) || s.power.warmPending) ≠ true := by
    rcases h5 with h5 | h5 <;> simp [h1, h2, h3, h4, h5, h6]
  refine (if_neg e).trans ?_
  unfold State.fusesShown State.startChecked
  rfl

end

section
variable (s : State) (refclk otpError : Bool)

theorem fusesShown_frame : Frame [F.sstStatusSignRequired, F.sstStatusKeyHashFused, F.clkStatusRefclkOk] []
    (if otpError then s.lockPlls.raise 21 else s.lockPlls) (s.fusesShown refclk otpError) :=
  (Frame.refl _ _ _).puts (by simp)

theorem fusesShown_shows : (s.fusesShown refclk otpError).get F.sstStatusSignRequired = s.otp.signRequired.toNat ∧
    (s.fusesShown refclk otpError).get F.sstStatusKeyHashFused = s.otp.keyHash.isSome.toNat ∧
    (s.fusesShown refclk otpError).get F.clkStatusRefclkOk = refclk.toNat := by
  have bit (c : Bool) : c.toNat % 2 = c.toNat := by cases c <;> rfl
  unfold State.fusesShown
  refine ⟨?_, ?_, ?_⟩ <;>
    simp (disch := exact .ofBits rfl) only [State.puts_cons, State.puts_nil, State.get_put_same, State.get_put_other]
  · exact bit _
  · exact bit _
  · exact bit _

end

theorem startChecked_frame (d : State) (refin bootFails otpError : Bool) : Frame [F.clkStatusRefinOk] [.power] d (d.startChecked refin bootFails otpError) :=
  State.setPower_frame ((Frame.refl _ _ d).put (by simp)) _ (by simp)

theorem startChecked_refin (d : State) (refin bootFails otpError : Bool) : (d.startChecked refin bootFails otpError).get F.clkStatusRefinOk =
    (refin && bits d.sst.clocks.toNat 1 0 != 0).toNat := by
  unfold State.startChecked
  rw [State.setPower_get]
  exact get_put_of_lt _ (.ofBits rfl) (Bool.toNat_lt _)

theorem startChecked_power (d : State) (refin bootFails otpError : Bool) :
    (d.startChecked refin bootFails otpError).power = { d.power with recoverNeeded := d.power.recoverNeeded || bootFails || otpError } := by
  unfold State.startChecked
  rw [State.setPower_power, State.put_power]

/-- With PFAIL_N low the part halts, else it leaves Start-up. -/
theorem startChecked_ends {t u : State} {r : Result}
    (e : r = .next (if t.power.pfailLow then t.setPower fun p => { p with halted := true } else u)) :
    (t.power.pfailLow = true → ∃ v, r = .next v ∧ Frame [] [.power] t v ∧ v.power = { t.power with halted := true }) ∧
    (t.power.pfailLow = false → r = .next u) := by
  subst e
  refine ⟨fun h => ⟨t.setPower fun p => { p with halted := true }, congrArg _ (if_pos h), State.setPower_frame (.refl _ _ t) _ (by simp), rfl⟩,
    fun h => congrArg _ (if_neg (by simp [h]))⟩

/-! GLB_STATE leaves Start-up (R400, step 8). -/

theorem raiseIf_power (s : State) (c : Bool) (k : Nat) : (s.raiseIf c k).power = s.power := by
  cases c with
  | false => rfl
  | true => exact raise_power s k

/-- GLB_STATE Service or Recovery, told. -/
def State.leftStart (s : State) : State :=
  (((s.put F.glbStateState (if s.power.recoverNeeded then 3 else 1)).raise 0).raise 1).raiseIf s.power.recoverNeeded 23

/-- A WARM start and a THERMAL reset told, nothing of them left. -/
def State.startTold (u : State) (p : PowerState) : State :=
  ((u.raiseIf (p.warmStart && !p.recoverNeeded) 24).raiseIf p.thermal 26).setPower fun p =>
    { p with halted := false, thermal := false, warmStart := false }

theorem leftStart_power (s : State) : s.leftStart.power = s.power := by
  unfold State.leftStart
  rw [raiseIf_power, raise_power, raise_power, State.put_power]

theorem startTold_power (s : State) : (s.leftStart.startTold s.power).power =
    { s.power with halted := false, thermal := false, warmStart := false } := by
  unfold State.startTold
  rw [State.setPower_power, raiseIf_power, raiseIf_power, leftStart_power]

/-- The outputs with EN start where they may. -/
theorem finishStart_eq (s : State) : s.finishStart = ((List.range 4).foldl (fun t n =>
    if t.get (F.tgCtrlEn n) = 1 ∧ t.running n = false ∧ t.mayEnable n = true then t.startOut n else t)
      (s.leftStart.startTold s.power)).portsStart := by
  have hf : (fun (t : State) n => if t.on (F.tgCtrlEn n) && !t.running n && t.mayEnable n then t.startOut n else t) =
      fun t n => if t.get (F.tgCtrlEn n) = 1 ∧ t.running n = false ∧ t.mayEnable n = true then t.startOut n else t := by
    funext t n
    exact if_congr (by simp [on_true_iff, and_assoc]) rfl rfl
  have hr (c : Bool) : ((if c then 3 else 1) == 3) = c := by cases c <;> rfl
  have hs (c : Bool) : ((if c then 3 else 1) == 1) = !c := by cases c <;> rfl
  have hl := leftStart_power s
  unfold State.finishStart
  dsimp only
  rw [hf, hr, hs]
  change (List.foldl _ (((s.leftStart.raiseIf (s.power.warmStart && !s.power.recoverNeeded) 24).raiseIf
    (s.leftStart.raiseIf (s.power.warmStart && !s.power.recoverNeeded) 24).power.thermal 26).setPower _) _).portsStart = _
  rw [raiseIf_power, hl]
  rfl

/-- Settles O60: power-on by what it drives and keeps, the march by its failures, the end of start-up step by step. -/
theorem startUp : Obligations.StartUp := by
  unfold Obligations.StartUp
  refine ⟨fun s => ⟨pinsUp_on, pinsUp_drives⟩, fun s => ?_, fun s fails => ⟨fun h => exec_startupMarch_idle h fails, fun h1 h2 h3 h4 => ?_⟩,
    fun s moved b r => ?_, fun s refclk refin otpError => ⟨fun h => exec_startupComplete_idle h _ _ _, fun h1 h2 h3 h4 h5 h6 => ?_⟩, fun s => ?_⟩
  · have h : Alike s.pinsUp.coldState ((s.otp.repairs ++ s.recordRepairs).foldl State.applyRepair s.pinsUp.coldState) := .foldl .repair _ _
    have hp := pinsUp_frame s
    have hcal : s.pinsUp.cal = s.cal := hp.rest .cal (by simp)
    have hotp : s.pinsUp.otp = s.otp := hp.rest .otp (by simp)
    have hhost : s.pinsUp.host = s.host := hp.rest .host (by simp)
    have hpower : s.pinsUp.power = s.power := hp.rest .power (by simp)
    refine ⟨_, exec_powerOn s, rfl, fun x hx => powerOn_sent s hx, h.cal.trans ?_, h.otp.trans hotp, h.pending.trans hp.queue, h.host.trans ?_,
      h.purser, h.sst, h.chain, h.dma, h.eddys, h.lanes, h.time, h.power.trans ?_⟩
    · rw [coldState_cal, hcal]
    · rw [coldState_host, hhost, hotp]
    · rw [coldState_power, hpower]
  · refine ⟨_, _, exec_startupMarch h1 h2 h3 h4 fails, fun hl => if_pos hl, fun f rest hl => ⟨s.marchFailed (f :: rest), ?_, marchFailed_frame s _,
      get_put_of_lt _ (.ofBits rfl) (by decide), marchFailed_element s f rest, fun b => marchFailed_bit s f rest,
      fun a => marchFailed_addr s f rest⟩, marchOver_frame _, ?_⟩
    · rw [hl]
      exact if_neg (by simp)
    · obtain ⟨hfab, hpur, htick⟩ := marchOver_locks (((s.marchNoted (orderFails false false false fails)).marchCounted
        (orderFails false false false fails)).marchRepaired (orderFails false false false fails))
      exact ⟨hfab, hpur, htick, rfl, marchOver_holdByte _⟩
  · refine ⟨fun h => repairAtStart_moved h r, fun h hr => ?_, fun h hr hb => ?_, fun h hr hb => ?_⟩
    · rw [repairAtStart_unmoved h, if_pos hr]
    · rw [repairAtStart_unmoved h, if_neg (not_not_intro hr), if_pos hb]
    · rw [repairAtStart_unmoved h, if_neg (not_not_intro hr), if_neg (not_not_intro hb)]
  · obtain ⟨hfab, hpur, htick⟩ := lockPlls_locks s
    obtain ⟨hsign, hkey, hclk⟩ := fusesShown_shows s refclk otpError
    have e := exec_startupComplete h1 h2 h3 h4 h5 h6 refclk refin otpError
    refine ⟨s.lockPlls, s.fusesShown refclk otpError, _, lockPlls_frame (.refl _ _ s), hfab, hpur, htick, fusesShown_frame s refclk otpError,
      hsign, hkey, hclk, startChecked_frame _ refin (s.fusesShown refclk otpError).bootFails otpError, startChecked_refin _ _ _ _,
      startChecked_power _ _ _ _, startChecked_ends e⟩
  · exact ⟨s.put F.glbStateState (if s.power.recoverNeeded then 3 else 1), s.leftStart, s.leftStart.startTold s.power,
      (Frame.refl _ _ s).put (by simp), get_put_of_lt _ (.ofBits rfl) (by split <;> decide), rfl,
      State.setPower_frame (.refl _ _ _) _ (by simp), startTold_power s, finishStart_eq s⟩

end Sys2Proof.Machine
end

section
/-! How an Eddy job and a context command end (R281, R292, R294, R297). -/

open Sys2Proof Sys2Proof.Machine

namespace Sys2Proof.Machine

/-! The reads of an engine where nothing meets them at the ports. -/

section
variable {s : State} (ho : s.hold.port.others = []) (hc : s.hold.port.corrected = []) (hl : s.hold.port.lost = [])
include ho hc hl

/-- A job's reads return the Hold as it stands. -/
theorem eddyRead_quiet (e : Nat) (j : EddyJob) : s.eddyRead e j = (s.eddyOutcome e j, s) := by
  unfold State.eddyRead
  simp only [readRun_quiet ho hc hl]
  exact ite_self _

/-- A whole run without an uncorrectable word is read as the Hold holds it. -/
theorem readWhole_quiet {m a n : Nat} (hf : s.runFault a n = none) : s.readWhole m a n = (.ok (s.holdBytes a n), s) := by
  unfold State.readWhole
  rw [readRun_quiet ho hc hl]
  dsimp only
  rw [hf]
  rfl

end

/-! A job that ends as due. -/

section
variable (t : State) (e : Nat)

/-- The registers of a job completed after `len` bytes of output. -/
def State.eddyCounted (j : EddyJob) (len bits : Nat) : State :=
  t.puts [(F.eddyStatusState e, 0), (F.eddyStatusCtxValid e, 1), (F.eddyStatusPending e, 0), (F.eddyInDoneBytes e, j.inLen),
    (F.eddyOutDoneBytes e, t.get (F.eddyOutDoneBytes e) + len), (F.eddyBitsInBits e, 0), (F.eddyBitsOutBits e, bits)]

/-- RAW shown, where the job has a raw bit. -/
def State.eddyRawShown (raw : Option Bool) : State :=
  match raw with
  | some b => { t.put (F.eddyStatusRaw e) b.toNat with freeCount := t.freeCount + 2 }
  | none => t

/-- The engine without its job, the job counted. -/
def State.eddyIdle (ctx : EddyCtx) : State :=
  ((t.setEddy e fun x => { x with job := none, ctx := ctx }).count (F.eddyJobsCount e) 1).showInternal e

/-- A job completed, but for its event. -/
def State.eddyEnded (j : EddyJob) (len bits : Nat) (ctx : EddyCtx) (raw : Option Bool) : State :=
  ((t.eddyCounted e j len bits).eddyRawShown e raw).eddyIdle e ctx

/-- The engine stopped for output space, but for its event: `n` bits of its input used, `held` kept. -/
def State.eddyStopped (j : EddyJob) (n len words : Nat) (held : List Bool) : State :=
  let u := t.puts [(F.eddyStatusState e, 2), (F.eddyStatusPending e, 1), (F.eddyInDoneBytes e, n / 8), (F.eddyBitsInBits e, n % 8),
    (F.eddyOutDoneBytes e, t.get (F.eddyOutDoneBytes e) + len), (F.eddyBitsOutBits e, held.length)]
  (u.setEddy e fun x => { x with job := some { j with words := words, held := held } }).showInternal e

/-- A context command ended, but for its event. -/
def State.ctxEnded (st : Nat) : State :=
  ((t.put (F.eddyStatusState e) st).setEddy e fun x => { x with ctxCmd := none }).showInternal e

end

section
variable {t : State} {e : Nat}

theorem eddyRawShown_frame {T : List Field} {P : List Part} {s : State} (h : Frame T P s t) (raw : Option Bool)
    (m : F.eddyStatusRaw e ∈ T) (mf : .free ∈ P) : Frame T P s (t.eddyRawShown e raw) := by
  cases raw with
  | none => exact h
  | some b =>
    refine (h.put m).fields fun p hp => ?_
    cases p with
    | free => exact absurd mf hp
    | _ => trivial

theorem eddyRawShown_get (raw : Option Bool) {f : Field} (h : Apart (F.eddyStatusRaw e) f) (hf : InWord f) :
    (t.eddyRawShown e raw).get f = t.get f := by
  cases raw with
  | none => rfl
  | some b => exact (State.get_of_reg rfl).trans (State.get_put_other t h hf b.toNat)

theorem eddyRawShown_raw (b : Bool) : (t.eddyRawShown e (some b)).get (F.eddyStatusRaw e) = b.toNat :=
  (State.get_of_reg (s := t.put (F.eddyStatusRaw e) b.toNat) rfl).trans
    ((State.get_put_same t (.ofBits rfl) _).trans (Nat.mod_eq_of_lt (Bool.toNat_lt b)))

theorem eddyRawShown_eddys (raw : Option Bool) : (t.eddyRawShown e raw).eddys = t.eddys := by
  cases raw <;> rfl

theorem eddyIdle_get (ctx : EddyCtx) {f : Field} (hi : Apart (F.eddyStatusInternal e) f) (hj : Apart (F.eddyJobsCount e) f) (hf : InWord f) :
    (t.eddyIdle e ctx).get f = t.get f :=
  ((State.get_put_other _ hi hf _).trans (count_get_other _ _ hj hf)).trans (State.setEddy_get ..)

theorem eddyEnded_frame (j : EddyJob) (len bits : Nat) (ctx : EddyCtx) (raw : Option Bool) :
    Frame [F.eddyStatusState e, F.eddyStatusCtxValid e, F.eddyStatusPending e, F.eddyStatusRaw e, F.eddyStatusInternal e,
      F.eddyInDoneBytes e, F.eddyOutDoneBytes e, F.eddyBitsInBits e, F.eddyBitsOutBits e, F.eddyJobsCount e] [.engine e, .free]
      t (t.eddyEnded e j len bits ctx raw) :=
  ((State.setEddy_frame (eddyRawShown_frame ((Frame.refl _ _ t).puts (by simp)) raw (by simp) (by simp)) e _ (by simp)).count
    (by simp)).put (by simp)

theorem eddyEnded_get (j : EddyJob) (len bits : Nat) (ctx : EddyCtx) (raw : Option Bool) {f : Field} (hr : Apart (F.eddyStatusRaw e) f)
    (hi : Apart (F.eddyStatusInternal e) f) (hj : Apart (F.eddyJobsCount e) f) (hf : InWord f) :
    (t.eddyEnded e j len bits ctx raw).get f = (t.eddyCounted e j len bits).get f :=
  (eddyIdle_get ctx hi hj hf).trans (eddyRawShown_get raw hr hf)

theorem eddyEnded_bytes (j : EddyJob) (len bits : Nat) (ctx : EddyCtx) (raw : Option Bool) :
    (t.eddyEnded e j len bits ctx raw).get (F.eddyInDoneBytes e) = j.inLen % 2 ^ 32 ∧
    (t.eddyEnded e j len bits ctx raw).get (F.eddyOutDoneBytes e) = (t.get (F.eddyOutDoneBytes e) + len) % 2 ^ 32 ∧
    (t.eddyEnded e j len bits ctx raw).get (F.eddyBitsInBits e) = 0 ∧
    (t.eddyEnded e j len bits ctx raw).get (F.eddyBitsOutBits e) = bits % 8 := by
  simp (disch := first | exact .ofBits rfl | exact .ofBases rfl rfl rfl) only [eddyEnded_get]
  unfold State.eddyCounted
  simp (disch := first | exact .ofBits rfl | exact .ofBases rfl rfl rfl) only [State.puts_cons, State.puts_nil, State.get_put_same,
    State.get_put_other]
  exact ⟨rfl, rfl, rfl, rfl⟩

theorem eddyEnded_status (j : EddyJob) (len bits : Nat) (ctx : EddyCtx) (raw : Option Bool) :
    (t.eddyEnded e j len bits ctx raw).get (F.eddyStatusState e) = 0 ∧
    (t.eddyEnded e j len bits ctx raw).get (F.eddyStatusCtxValid e) = 1 ∧
    (t.eddyEnded e j len bits ctx raw).get (F.eddyStatusPending e) = 0 := by
  simp (disch := first | exact .ofBits rfl | exact .ofBases rfl rfl rfl) only [eddyEnded_get]
  unfold State.eddyCounted
  simp (disch := first | exact .ofBits rfl | exact .ofBases rfl rfl rfl) only [State.puts_cons, State.puts_nil, State.get_put_same,
    State.get_put_other]
  exact ⟨rfl, rfl, rfl⟩

theorem eddyEnded_jobs (j : EddyJob) (len bits : Nat) (ctx : EddyCtx) (raw : Option Bool) :
    (t.eddyEnded e j len bits ctx raw).get (F.eddyJobsCount e) = min (fieldMax (F.eddyJobsCount e)) (t.get (F.eddyJobsCount e) + 1) := by
  have h : (t.eddyCounted e j len bits).get (F.eddyJobsCount e) = t.get (F.eddyJobsCount e) := by
    unfold State.eddyCounted
    simp (disch := first | exact .ofBits rfl | exact .ofBases rfl rfl rfl) only [State.puts_cons, State.puts_nil, State.get_put_other]
  refine ((State.get_put_other _ (.ofBases rfl rfl rfl) (.ofBits rfl) _).trans (count_get _ _ _ (.ofBits rfl))).trans ?_
  rw [State.setEddy_get, eddyRawShown_get raw (.ofBases rfl rfl rfl) (.ofBits rfl), h]

theorem eddyEnded_raw (j : EddyJob) (len bits : Nat) (ctx : EddyCtx) (b : Bool) :
    (t.eddyEnded e j len bits ctx (some b)).get (F.eddyStatusRaw e) = b.toNat :=
  (eddyIdle_get ctx (.ofBits rfl) (.ofBases rfl rfl rfl) (.ofBits rfl)).trans (eddyRawShown_raw b)

theorem eddyEnded_eddys (j : EddyJob) (len bits : Nat) (ctx : EddyCtx) (raw : Option Bool) {x : EddyState} (hx : t.eddys[e]? = some x) :
    (t.eddyEnded e j len bits ctx raw).eddys[e]? = some { x with job := none, ctx := ctx } := by
  have h : ((t.eddyCounted e j len bits).eddyRawShown e raw).eddys = t.eddys := eddyRawShown_eddys raw
  exact updAt_some (h.symm ▸ hx)

theorem eddyStopped_frame (j : EddyJob) (n len words : Nat) (held : List Bool) :
    Frame [F.eddyStatusState e, F.eddyStatusPending e, F.eddyStatusInternal e, F.eddyInDoneBytes e, F.eddyOutDoneBytes e,
      F.eddyBitsInBits e, F.eddyBitsOutBits e] [.engine e] t (t.eddyStopped e j n len words held) :=
  (State.setEddy_frame ((Frame.refl _ _ t).puts (by simp)) e _ (by simp)).put (by simp)

/-- What the registers of a job stopped for output space show. -/
theorem eddyStopped_shows (j : EddyJob) (n len words : Nat) (held : List Bool) :
    (t.eddyStopped e j n len words held).get (F.eddyStatusState e) = 2 ∧
    (t.eddyStopped e j n len words held).get (F.eddyStatusPending e) = 1 ∧
    (t.eddyStopped e j n len words held).get (F.eddyOutDoneBytes e) = (t.get (F.eddyOutDoneBytes e) + len) % 2 ^ 32 ∧
    (t.eddyStopped e j n len words held).get (F.eddyInDoneBytes e) = n / 8 % 2 ^ 32 ∧
    (t.eddyStopped e j n len words held).get (F.eddyBitsInBits e) = n % 8 ∧
    (t.eddyStopped e j n len words held).get (F.eddyBitsOutBits e) = held.length % 8 := by
  unfold State.eddyStopped State.showInternal
  simp (disch := first | exact .ofBits rfl | exact .ofBases rfl rfl rfl) only [State.puts_cons, State.puts_nil, State.get_put_same,
    State.get_put_other, State.setEddy_get]
  exact ⟨rfl, rfl, rfl, rfl, Nat.mod_mod n 8, rfl⟩

theorem eddyStopped_eddys (j : EddyJob) (n len words : Nat) (held : List Bool) {x : EddyState} (hx : t.eddys[e]? = some x) :
    (t.eddyStopped e j n len words held).eddys[e]? = some { x with job := some { j with words := words, held := held } } :=
  updAt_some hx

theorem ctxEnded_frame {T : List Field} {P : List Part} {s : State} (h : Frame T P s t) (st : Nat) (ms : F.eddyStatusState e ∈ T)
    (mi : F.eddyStatusInternal e ∈ T) (me : .engine e ∈ P) : Frame T P s (t.ctxEnded e st) :=
  (State.setEddy_frame (h.put ms) e _ me).put mi

theorem ctxEnded_get (st : Nat) {f : Field} (hs : Apart (F.eddyStatusState e) f) (hi : Apart (F.eddyStatusInternal e) f) (hf : InWord f) :
    (t.ctxEnded e st).get f = t.get f :=
  ((State.get_put_other _ hi hf _).trans (State.setEddy_get ..)).trans (State.get_put_other _ hs hf _)

theorem ctxEnded_state (st : Nat) : (t.ctxEnded e st).get (F.eddyStatusState e) = st % 8 :=
  ((State.get_put_other _ (.ofBits rfl) (.ofBits rfl) _).trans (State.setEddy_get ..)).trans (State.get_put_same _ (.ofBits rfl) _)

theorem ctxEnded_eddys (st : Nat) {x : EddyState} (hx : t.eddys[e]? = some x) :
    (t.ctxEnded e st).eddys[e]? = some { x with ctxCmd := none } :=
  updAt_some hx

end

/-! The ends of the model as these. -/

section
variable {s : State} {e : Nat} {j : EddyJob}

theorem eddyDone_frozen {out : List Byte} (h : (s.storeAs (eddyMaster e) j.outAddr out).frozen (eddyMaster e) = true) (bits : Nat)
    (ctx : EddyCtx) (raw : Option Bool) : s.eddyDone e j out bits ctx raw = s.storeAs (eddyMaster e) j.outAddr out :=
  if_pos h

theorem eddyDone_open {out : List Byte} (h : (s.storeAs (eddyMaster e) j.outAddr out).frozen (eddyMaster e) = false) (bits : Nat)
    (ctx : EddyCtx) (raw : Option Bool) : s.eddyDone e j out bits ctx raw =
      ((s.storeAs (eddyMaster e) j.outAddr out).eddyEnded e j out.length bits ctx raw).raise (evEddy e 0) :=
  if_neg (Bool.eq_false_iff.1 h)

theorem eddyFull_frozen {out : List Byte} (h : (s.storeAs (eddyMaster e) j.outAddr out).frozen (eddyMaster e) = true) (words : Nat)
    (held : List Bool) (n : Nat) : s.eddyFull e j words out held n = s.storeAs (eddyMaster e) j.outAddr out :=
  if_pos h

theorem eddyFull_open {out : List Byte} (h : (s.storeAs (eddyMaster e) j.outAddr out).frozen (eddyMaster e) = false) (words : Nat)
    (held : List Bool) (n : Nat) : s.eddyFull e j words out held n =
      ((s.storeAs (eddyMaster e) j.outAddr out).eddyStopped e j (j.usedBefore + n - j.heldIn (s.eddy e).ctx) out.length words held).raise
        (evEddy e 1) :=
  if_neg (Bool.eq_false_iff.1 h)

theorem eddyFailUnless_open (h : s.frozen (eddyMaster e) = false) (code : Nat) : s.eddyFailUnless e code = s.eddyFail e code :=
  if_neg (Bool.eq_false_iff.1 h)

theorem eddyFailUnless_frozen (h : s.frozen (eddyMaster e) = true) (code : Nat) : s.eddyFailUnless e code = s := if_pos h

theorem saveCtx_open (st : Nat) (h : (s.storeAs (eddyMaster e) (32 * s.get (F.eddyCtxAddrAddr e))
      (ctxBytes (s.eddyPosition e) (s.get (F.eddyInDoneBytes e)) (s.get (F.eddyOutDoneBytes e))
        (256 * s.get (F.eddyBitsOutBits e) + s.get (F.eddyBitsInBits e)))).frozen (eddyMaster e) = false) :
    s.saveCtx e st = ((s.storeAs (eddyMaster e) (32 * s.get (F.eddyCtxAddrAddr e))
      (ctxBytes (s.eddyPosition e) (s.get (F.eddyInDoneBytes e)) (s.get (F.eddyOutDoneBytes e))
        (256 * s.get (F.eddyBitsOutBits e) + s.get (F.eddyBitsInBits e)))).ctxEnded e st).raise (evEddy e 3) :=
  if_neg (Bool.eq_false_iff.1 h)

end

/-! A command of an engine whose job runs. -/

/-- What engine e's job has with its reads made through the ports, and the state after them. -/
def State.eddyMade (s : State) (e : Nat) (port : HoldPort) (j : EddyJob) : EddyOutcome × State :=
  (s.openPort (· == eddyMaster e) port).eddyRead e j

section
variable {s : State} {e : Nat} {port : HoldPort}

theorem eddyMeets_none (h : s.eddyRuns e = none) (k : EddyJob → EddyOutcome → State → State) : s.eddyMeets e port k = s := by
  unfold State.eddyMeets
  rw [h]

variable {j : EddyJob} (hj : s.eddyRuns e = some j)
include hj

theorem eddyMeets_barred {x : Nat} (h : (s.eddyMade e port j).1 = .barred x) (k : EddyJob → EddyOutcome → State → State) :
    s.eddyMeets e port k = ((s.eddyMade e port j).2.eddyBarred e x).closePort := by
  unfold State.eddyMade at h ⊢
  unfold State.eddyMeets State.throughPort
  rw [hj]
  dsimp only
  rw [h]

/-- An outcome that is no barred read goes on. -/
theorem eddyMeets_read {o : EddyOutcome} (h : (s.eddyMade e port j).1 = o) (hb : ∀ x, o ≠ .barred x)
    (k : EddyJob → EddyOutcome → State → State) : s.eddyMeets e port k = (k j o (s.eddyMade e port j).2).closePort := by
  unfold State.eddyMade at h ⊢
  unfold State.eddyMeets State.throughPort
  rw [hj]
  dsimp only
  rw [h]
  cases o with
  | barred x => exact absurd rfl (hb x)
  | _ => rfl

end

/-! The commands by the outcome. -/

section
variable {s : State} {e : Fin 4} {port : HoldPort}

theorem eddyEnds_idle (h : s.eddyRuns e = none) : exec (.eddyJobComplete e port) s = .next s ∧
    exec (.eddyOutputExhausted e port) s = .next s ∧ ∀ cut, exec (.eddyJobError e cut port) s = .next s :=
  ⟨congrArg Host.Outcome.next (eddyMeets_none h _), congrArg Host.Outcome.next (eddyMeets_none h _),
    fun _ => congrArg Host.Outcome.next (eddyMeets_none h _)⟩

variable {j : EddyJob} (hj : s.eddyRuns e = some j)
include hj

theorem eddyEnds_barred {x : Nat} (h : (s.eddyMade e port j).1 = .barred x) (cut : Option (BitVec 30)) :
    exec (.eddyJobComplete e port) s = .next ((s.eddyMade e port j).2.eddyBarred e x).closePort ∧
    exec (.eddyOutputExhausted e port) s = .next ((s.eddyMade e port j).2.eddyBarred e x).closePort ∧
    exec (.eddyJobError e cut port) s = .next ((s.eddyMade e port j).2.eddyBarred e x).closePort :=
  ⟨congrArg Host.Outcome.next (eddyMeets_barred hj h _), congrArg Host.Outcome.next (eddyMeets_barred hj h _),
    congrArg Host.Outcome.next (eddyMeets_barred hj h _)⟩

theorem exec_eddyJobComplete {out : List Byte} {bits : Nat} {ctx : EddyCtx} {raw : Option Bool}
    (h : (s.eddyMade e port j).1 = .done out bits ctx raw) :
    exec (.eddyJobComplete e port) s = .next ((s.eddyMade e port j).2.eddyDone e j out bits ctx raw).closePort :=
  congrArg Host.Outcome.next (eddyMeets_read hj h (by simp) _)

theorem exec_eddyOutputExhausted {words : Nat} {out : List Byte} {held : List Bool} {n need : Nat}
    (h : (s.eddyMade e port j).1 = .full words out held n need) :
    exec (.eddyOutputExhausted e port) s = .next ((s.eddyMade e port j).2.eddyFull e j words out held n).closePort :=
  congrArg Host.Outcome.next (eddyMeets_read hj h (by simp) _)

theorem exec_eddyJobError_code {code : Nat} {out : List Byte} (h : (s.eddyMade e port j).1 = .err code out) :
    exec (.eddyJobError e none port) s = .next (((s.eddyMade e port j).2.eddyWrite e j out).eddyFailUnless e code).closePort :=
  congrArg Host.Outcome.next (eddyMeets_read hj h (by simp) _)

theorem exec_eddyJobError_cut (a : BitVec 30) {out : List Byte}
    (h : (∃ bits ctx raw, (s.eddyMade e port j).1 = .done out bits ctx raw) ∨
      (∃ words held n need, (s.eddyMade e port j).1 = .full words out held n need) ∨ ∃ code, (s.eddyMade e port j).1 = .err code out) :
    exec (.eddyJobError e (some a) port) s = .next ((s.eddyMade e port j).2.eddyFault e j out a.toNat).closePort := by
  obtain ⟨bits, ctx, raw, h⟩ | ⟨words, held, n, need, h⟩ | ⟨code, h⟩ := h
  · exact congrArg Host.Outcome.next (eddyMeets_read hj h (by simp) _)
  · exact congrArg Host.Outcome.next (eddyMeets_read hj h (by simp) _)
  · exact congrArg Host.Outcome.next (eddyMeets_read hj h (by simp) _)

theorem exec_eddyJobError_fault (cut : Option (BitVec 30)) {w : Nat} {out : List Byte} (h : (s.eddyMade e port j).1 = .fault w out) :
    exec (.eddyJobError e cut port) s = .next (((s.eddyMade e port j).2.noteUncorr w).eddyFault e j out w).closePort := by
  cases cut <;> exact congrArg Host.Outcome.next (eddyMeets_read hj h (by simp) _)

end

/-- A command that ends in a failure unless its last write was barred, by whether it was. -/
theorem failUnless_cases {r : Result} {t : State} {e code : Nat} (h : r = .next (t.eddyFailUnless e code).closePort) :
    (t.frozen (eddyMaster e) = false → r = .next (t.eddyFail e code).closePort) ∧
    (t.frozen (eddyMaster e) = true → r = .next t.closePort) :=
  ⟨fun hf => by rw [h, eddyFailUnless_open hf], fun hf => by rw [h, eddyFailUnless_frozen hf]⟩

/-! A context command. -/

section
variable {s : State} {e : Fin 4} {port : HoldPort} (hf : s.frozen (eddyMaster e) = false)
  (hh : s.runHeld (eddyMaster e) (32 * s.get (F.eddyCtxAddrAddr e)) 98304 = false)
include hf hh

/-- A context command let through is a save or a restore. -/
theorem exec_eddyCtxComplete {op st : Nat} (hx : (s.eddy e).ctxCmd = some (op, st)) : exec (.eddyCtxComplete e none port) s =
    .next (if op = 4 then (s.openPort (· == eddyMaster e) port).saveCtx e st else (s.openPort (· == eddyMaster e) port).restoreCtx e st).closePort := by
  show execEddyCtxComplete e none port s = _
  unfold execEddyCtxComplete
  rw [hf, hh, hx]
  rfl

theorem exec_ctxSave_complete {st : Nat} (hx : (s.eddy e).ctxCmd = some (4, st)) :
    exec (.eddyCtxComplete e none port) s = .next ((s.openPort (· == eddyMaster e) port).saveCtx e st).closePort := by
  rw [exec_eddyCtxComplete hf hh hx, if_pos rfl]

theorem exec_ctxRestore_complete {st : Nat} (hx : (s.eddy e).ctxCmd = some (5, st)) :
    exec (.eddyCtxComplete e none port) s = .next ((s.openPort (· == eddyMaster e) port).restoreCtx e st).closePort := by
  rw [exec_eddyCtxComplete hf hh hx, if_neg (by decide)]

end

section
variable {s : State} {e st : Nat} {c : EddyCtx}

/-- A context taken by an engine that is not stopped in a job. -/
def State.ctxTaken (s : State) (e : Nat) (c : EddyCtx) : State := (s.put (F.eddyStatusCtxValid e) 1).setEddy e fun x => { x with ctx := c }

theorem installCtx_taken {bytes : List Byte} {inDone outDone bits : Nat} (h : ctxOf bytes = some (c, inDone, outDone, bits)) (hst : st ≠ 2) :
    s.installCtx e st bytes = ((s.ctxTaken e c).ctxEnded e st).raise (evEddy e 3) := by
  unfold State.installCtx
  rw [h]
  dsimp only
  rw [if_neg hst]
  rfl

/-- A restore installs what it read whole. -/
theorem restoreCtx_read (hb : s.firstBarred (eddyMaster e) (32 * s.get (F.eddyCtxAddrAddr e)) 98304 false = none) {l : List Byte} {t : State}
    (h : s.readWhole (eddyMaster e) (32 * s.get (F.eddyCtxAddrAddr e)) 98304 = (.ok l, t)) : s.restoreCtx e st = t.installCtx e st l := by
  unfold State.restoreCtx
  dsimp only
  rw [hb, h]

theorem restoreCtx_taken (ho : s.hold.port.others = []) (hc : s.hold.port.corrected = []) (hl : s.hold.port.lost = [])
    (hb : s.firstBarred (eddyMaster e) (32 * s.get (F.eddyCtxAddrAddr e)) 98304 false = none)
    (hf : s.runFault (32 * s.get (F.eddyCtxAddrAddr e)) 98304 = none) {inDone outDone bits : Nat}
    (h : ctxOf (s.holdBytes (32 * s.get (F.eddyCtxAddrAddr e)) 98304) = some (c, inDone, outDone, bits)) (hst : st ≠ 2) :
    s.restoreCtx e st = ((s.ctxTaken e c).ctxEnded e st).raise (evEddy e 3) := by
  rw [restoreCtx_read hb (readWhole_quiet ho hc hl hf), installCtx_taken h hst]

theorem ctxTaken_frame : Frame [F.eddyStatusCtxValid e, F.eddyStatusState e, F.eddyStatusInternal e] [.engine e] s (s.ctxTaken e c) :=
  State.setEddy_frame ((Frame.refl _ _ s).put (by simp)) e _ (by simp)

theorem ctxTaken_valid : (s.ctxTaken e c).get (F.eddyStatusCtxValid e) = 1 :=
  (State.setEddy_get ..).trans (State.get_put_same _ (.ofBits rfl) _)

theorem ctxTaken_eddys {x : EddyState} (hx : s.eddys[e]? = some x) : (s.ctxTaken e c).eddys[e]? = some { x with ctx := c } :=
  updAt_some hx

end

/-! The clauses. -/

section
variable {s : State} {e : Fin 4} {port : HoldPort} {j : EddyJob} (hj : s.eddyRuns e = some j)
include hj

theorem eddyEnds_done {out : List Byte} {bits : Nat} {ctx : EddyCtx} {raw : Option Bool}
    (h : (s.eddyMade e port j).1 = .done out bits ctx raw) :
    let t := (s.eddyMade e port j).2.storeAs (eddyMaster e) j.outAddr out
    (t.frozen (eddyMaster e) = true → exec (.eddyJobComplete e port) s = .next t.closePort) ∧
    (t.frozen (eddyMaster e) = false →
      exec (.eddyJobComplete e port) s = .next ((t.eddyEnded e j out.length bits ctx raw).raise (evEddy e 0)).closePort) :=
  ⟨fun hf => by rw [exec_eddyJobComplete hj h, eddyDone_frozen hf], fun hf => by rw [exec_eddyJobComplete hj h, eddyDone_open hf]⟩

theorem eddyEnds_full {words : Nat} {out : List Byte} {held : List Bool} {n need : Nat}
    (h : (s.eddyMade e port j).1 = .full words out held n need) :
    let v := (s.eddyMade e port j).2
    let t := v.storeAs (eddyMaster e) j.outAddr out
    (t.frozen (eddyMaster e) = true → exec (.eddyOutputExhausted e port) s = .next t.closePort) ∧
    (t.frozen (eddyMaster e) = false → exec (.eddyOutputExhausted e port) s = .next
      ((t.eddyStopped e j (j.usedBefore + n - j.heldIn (v.eddy e).ctx) out.length words held).raise (evEddy e 1)).closePort) :=
  ⟨fun hf => by rw [exec_eddyOutputExhausted hj h, eddyFull_frozen hf], fun hf => by rw [exec_eddyOutputExhausted hj h, eddyFull_open hf]⟩

end

/-- Settles O23: a running job by the outcome of its reads, a context command by whether it saves or restores. -/
theorem eddyEnds : Obligations.EddyEnds := by
  unfold Obligations.EddyEnds
  refine fun s e port => ⟨fun j hj => ⟨?quiet, ?done, ?full, ?err, ?cut, ?fault, ?barred⟩, eddyEnds_idle, fun hf hh => ⟨?save, ?restore⟩⟩
  case quiet => exact fun ⟨ho, hc, hl⟩ => eddyRead_quiet ho hc hl e j
  case done =>
    intro out bits ctx raw h t
    obtain ⟨hfrozen, hopen⟩ := eddyEnds_done hj h
    obtain ⟨hin, hout, hbi, hbo⟩ := eddyEnded_bytes (t := t) (e := e) j out.length bits ctx raw
    obtain ⟨hst, hcv, hp⟩ := eddyEnded_status (t := t) (e := e) j out.length bits ctx raw
    exact ⟨hfrozen, fun hf => ⟨t.eddyEnded e j out.length bits ctx raw, hopen hf, eddyEnded_frame j out.length bits ctx raw, hst, hcv, hp,
      hin, hout, hbi, hbo, eddyEnded_jobs j out.length bits ctx raw, fun b hb => hb ▸ eddyEnded_raw j out.length bits ctx b,
      fun x hx => eddyEnded_eddys j out.length bits ctx raw hx⟩⟩
  case full =>
    intro words out held n need h t used
    obtain ⟨hfrozen, hopen⟩ := eddyEnds_full hj h
    obtain ⟨hst, hp, hout, hin, hbi, hbo⟩ := eddyStopped_shows (t := t) (e := e) j used out.length words held
    exact ⟨hfrozen, fun hf => ⟨t.eddyStopped e j used out.length words held, hopen hf, eddyStopped_frame j used out.length words held,
      hst, hp, hout, hin, hbi, hbo, fun x hx => eddyStopped_eddys j used out.length words held hx⟩⟩
  case err => exact fun code out h => failUnless_cases (exec_eddyJobError_code hj h)
  case cut => exact fun a out h => failUnless_cases (exec_eddyJobError_cut hj a h)
  case fault => exact fun w out cut h => failUnless_cases (exec_eddyJobError_fault hj cut h)
  case barred => exact fun x cut h => eddyEnds_barred hj h cut
  case save =>
    intro st hx t ht
    refine ⟨t.ctxEnded e st, ?_, ctxEnded_frame (.refl _ _ t) st (by simp) (by simp) (by simp), ctxEnded_state st,
      fun x hx => ctxEnded_eddys st hx⟩
    rw [exec_ctxSave_complete hf hh hx, saveCtx_open st ht]
  case restore =>
    intro st c inDone outDone bits ⟨ho, hc, hl⟩ hx hst hb hr h
    refine ⟨((s.openPort (· == eddyMaster e) port).ctxTaken e c).ctxEnded e st, ?_,
      ctxEnded_frame ctxTaken_frame st (by simp) (by simp) (by simp),
      (ctxEnded_get st (.ofBits rfl) (.ofBits rfl) (.ofBits rfl)).trans ctxTaken_valid, ctxEnded_state st,
      fun x hx => ctxEnded_eddys st (ctxTaken_eddys hx)⟩
    rw [exec_ctxRestore_complete hf hh hx]
    exact congrArg (fun t : State => Host.Outcome.next t.closePort) (restoreCtx_taken ho hc hl hb hr h hst)

end Sys2Proof.Machine
end

section
/-! START, ABORT and RESUME of a DMA channel (R257, R259, R273 to R278). -/

open Sys2Proof Sys2Proof.Machine

namespace Sys2Proof.Machine

/-! Which command a write of DMAn_CTRL gives (R259, R276). -/

/-- A command bit set is one that the write obeys. -/
theorem ctrlBits_ne_zero {d : Word} {k : Nat} (hk : k < 3) (h : d.getLsbD k = true) : d.toNat % 8 ≠ 0 := fun hz => by
  have e := Nat.testBit_mod_two_pow d.toNat 3 k
  rw [show 2 ^ 3 = 8 from rfl, hz, BitVec.testBit_toNat, h] at e
  simp [hk] at e

section
variable {s : State} {w : Writer} {ch : Fin 32} (ha : s.accepts w (R.dmaCtrl ch) = true)
include ha

theorem dmaCtrl_accepts {d : Word} (hd : d.toNat % 8 ≠ 0) : s.dmaCtrl w ch d =
    if s.frozen (0x10 + ch.val) then s.dmaRefuse ch 0x323
    else if d.getLsbD 1 then s.dmaAbort ch else if d.getLsbD 2 then s.dmaResume ch else s.dmaStart ch := by
  unfold State.dmaCtrl
  rw [State.writeBy_accepts ha, if_neg hd]

theorem exec_dmaStart (data : Word) : exec (.dmaStart w ch data) s = .next
    (if s.frozen (0x10 + ch.val) then s.dmaRefuse ch 0x323
    else if data.getLsbD 1 then s.dmaAbort ch else if data.getLsbD 2 then s.dmaResume ch else s.dmaStart ch) := by
  show execDmaStart w ch data s = _
  unfold execDmaStart
  rw [dmaCtrl_accepts ha (ctrlBits_ne_zero (k := 0) (by decide) (by simp))]
  simp

theorem exec_dmaAbort (data : Word) : exec (.dmaAbort w ch data) s = .next
    (if s.frozen (0x10 + ch.val) then s.dmaRefuse ch 0x323 else s.dmaAbort ch) := by
  show execDmaAbort w ch data s = _
  unfold execDmaAbort
  rw [dmaCtrl_accepts ha (ctrlBits_ne_zero (k := 1) (by decide) (by simp))]
  simp

theorem exec_dmaResume (data : Word) : exec (.dmaResume w ch data) s = .next
    (if s.frozen (0x10 + ch.val) then s.dmaRefuse ch 0x323 else if data.getLsbD 1 then s.dmaAbort ch else s.dmaResume ch) := by
  show execDmaResume w ch data s = _
  unfold execDmaResume
  rw [dmaCtrl_accepts ha (ctrlBits_ne_zero (k := 2) (by decide) (by simp))]
  simp

end

/-- A command refused shows its code and does nothing else (R278). -/
theorem dmaRefuse_yields {i : Instr} {s : State} {ch code : Nat} (h : exec i s = .next (s.dmaRefuse ch code)) (hc : code < 2 ^ 12) :
    Yields i s [] [F.dmaStatusLastCode ch] [] fun u => u.get (F.dmaStatusLastCode ch) = code := put_yields h (.ofBits rfl) hc

/-! The state of a channel, and its current descriptor. -/

section
variable (s : State) (ch : Nat)

theorem chanState_frame {v : Nat} : Frame [F.dmaStatusState ch] [] s (s.put (F.dmaStatusState ch) v) := (Frame.refl _ _ s).put (by simp)

theorem chanState_get {v : Nat} (hv : v < 8) : (s.put (F.dmaStatusState ch) v).get (F.dmaStatusState ch) = v := get_put_of_lt s (.ofBits rfl) hv

theorem setCur_get (p : Nat × Bool) : (s.setCur ch p).get (F.dmaCurLoAddr ch) = p.1 / 64 % 2 ^ 26 ∧
    (s.setCur ch p).get (F.dmaCurHiAddr ch) = p.1 / 2 ^ 32 % 2 ^ 32 ∧ (s.setCur ch p).get (F.dmaCurLoSpace ch) = p.2.toNat := by
  have hlo : Apart (F.dmaCurHiAddr ch) (F.dmaCurLoAddr ch) := .ofBases rfl rfl rfl
  have hsp : Apart (F.dmaCurLoSpace ch) (F.dmaCurLoAddr ch) := .ofBits rfl
  have hhi : Apart (F.dmaCurLoSpace ch) (F.dmaCurHiAddr ch) := .ofBases rfl rfl rfl
  unfold State.setCur
  refine ⟨?_, ?_, ?_⟩
  · rw [get_puts_head s (.ofBits rfl) _ (by simp [hlo, hsp])]
    rfl
  · rw [State.puts_cons, get_puts_head _ (.ofBits rfl) _ (by simp [hhi])]
    rfl
  · exact get_put_of_lt _ (.ofBits rfl) (Bool.toNat_lt _)

theorem setCur_get_state (p : Nat × Bool) : (s.setCur ch p).get (F.dmaStatusState ch) = s.get (F.dmaStatusState ch) := by
  have hlo : Apart (F.dmaCurLoAddr ch) (F.dmaStatusState ch) := .ofBases rfl rfl rfl
  have hhi : Apart (F.dmaCurHiAddr ch) (F.dmaStatusState ch) := .ofBases rfl rfl rfl
  have hsp : Apart (F.dmaCurLoSpace ch) (F.dmaStatusState ch) := .ofBases rfl rfl rfl
  exact get_puts_apart s (.ofBits rfl) (by simp [hlo, hhi, hsp])

/-! START (R259). -/

/-- The descriptor pointer written in DMAn_DESC: address and space. -/
def State.descPtr : Nat × Bool :=
  (64 * s.get (F.dmaDescLoAddr ch) + 2 ^ 32 * s.get (F.dmaDescHiAddr ch), s.on (F.dmaDescLoSpace ch))

/-- A chain begun: the channel RUNNING at DMAn_DESC, its fetch wanted. -/
def State.chainBegun : State :=
  (((s.put (F.dmaStatusState ch) 1).setCur ch (s.descPtr ch)).setChan ch fun c => { c with fetch := some (s.descPtr ch) }).sendLtr 20000

theorem dmaStart_held (h : s.get (F.dmaStatusHeld ch) = 1) : s.dmaStart ch = s.dmaRefuse ch 0x321 := if_pos (on_of s _ h)

section
variable {s ch} (hh : s.get (F.dmaStatusHeld ch) = 0)
include hh

theorem dmaStart_busy (hs : s.get (F.dmaStatusState ch) ≠ 0) : s.dmaStart ch = s.dmaRefuse ch 0x320 := by
  unfold State.dmaStart
  rw [on_off s _ hh, if_neg Bool.false_ne_true, if_pos hs]

theorem dmaStart_unwritten (hs : s.get (F.dmaStatusState ch) = 0)
    (hw : ¬ (s.isWritten (R.dmaDescLo ch) = true ∧ s.isWritten (R.dmaDescHi ch) = true)) : s.dmaStart ch = s.dmaRefuse ch 0x302 := by
  unfold State.dmaStart
  rw [on_off s _ hh, if_neg Bool.false_ne_true, if_neg (not_not_intro hs), if_pos]
  simpa [imp_iff_not_or] using hw

theorem dmaStart_ready (hs : s.get (F.dmaStatusState ch) = 0)
    (hw : s.isWritten (R.dmaDescLo ch) = true ∧ s.isWritten (R.dmaDescHi ch) = true) : s.dmaStart ch = (s.chainBegun ch).dmaGo s := by
  unfold State.dmaStart
  rw [on_off s _ hh, if_neg Bool.false_ne_true, if_neg (not_not_intro hs), if_neg (by simp [hw.1, hw.2])]
  rfl

end

theorem chainBegun_frame : Frame [F.dmaStatusState ch, F.dmaCurLoAddr ch, F.dmaCurHiAddr ch, F.dmaCurLoSpace ch] [.channel ch, .out] s
    (s.chainBegun ch) :=
  sendLtr_frame (State.setChan_frame (((Frame.refl _ _ s).put (by simp)).puts (by simp)) _ _ (by simp)) _ (by simp)

theorem chainBegun_get (f : Field) : (s.chainBegun ch).get f = ((s.put (F.dmaStatusState ch) 1).setCur ch (s.descPtr ch)).get f :=
  (sendLtr_get _ _ f).trans (State.setChan_get ..)

theorem chainBegun_running : (s.chainBegun ch).get (F.dmaStatusState ch) = 1 := by
  rw [chainBegun_get, setCur_get_state, chanState_get s ch (by decide)]

/-- DMAn_CUR shows the pointer written in DMAn_DESC. -/
theorem chainBegun_cur : (s.chainBegun ch).get (F.dmaCurLoAddr ch) = s.get (F.dmaDescLoAddr ch) ∧
    (s.chainBegun ch).get (F.dmaCurHiAddr ch) = s.get (F.dmaDescHiAddr ch) ∧
    (s.chainBegun ch).get (F.dmaCurLoSpace ch) = s.get (F.dmaDescLoSpace ch) := by
  obtain ⟨hlo, hhi, hsp⟩ := setCur_get (s.put (F.dmaStatusState ch) 1) ch (s.descPtr ch)
  have llo : s.get (F.dmaDescLoAddr ch) < 2 ^ 26 := State.get_lt s _
  have lhi : s.get (F.dmaDescHiAddr ch) < 2 ^ 32 := State.get_lt s _
  rw [chainBegun_get, chainBegun_get, chainBegun_get, hlo, hhi, hsp]
  unfold State.descPtr
  refine ⟨by omega, by omega, ?_⟩
  rcases get_bit s (f := F.dmaDescLoSpace ch) rfl with h | h <;> simp [on_eq, h]

theorem chainBegun_dma {s : State} {ch : Nat} {c : DmaState} (hc : s.dma[ch]? = some c) :
    (s.chainBegun ch).dma[ch]? = some { c with fetch := some (s.descPtr ch) } := by
  unfold State.chainBegun
  rw [sendLtr_dma]
  exact setChan_dma (s := (s.put _ _).setCur _ _) hc _

/-! ABORT (R273, R275). -/

section
variable {s ch}

theorem dmaAbort_done (h : s.get (F.dmaStatusState ch) = 0 ∨ s.get (F.dmaStatusState ch) = 2) : s.dmaAbort ch = s := by
  unfold State.dmaAbort
  rcases h with h | h <;> simp [h]

theorem dmaAbort_running (h : s.get (F.dmaStatusState ch) = 1) : s.dmaAbort ch = (s.abortRun ch).dmaGo s := by
  unfold State.dmaAbort
  simp [h]

theorem dmaAbort_halted (h : s.get (F.dmaStatusState ch) = 3) : s.dmaAbort ch = (s.abortHalt ch).dmaGo s := if_pos h

end

end

section
variable {s : State} {ch : Nat} {c : DmaState} (hc : s.dma[ch]? = some c)
include hc

/-- Between descriptors an abort stops the chain, when no fetch is in flight. -/
theorem abortRun_stops (hx : c.xfer = none) (hg : c.fetching = false) :
    s.abortRun ch = (s.put (F.dmaStatusState ch) 2).chanStop ch 0x301 := by
  unfold State.abortRun
  rw [chan_of hc, hx]
  exact if_neg (by simp [hg])

/-- An abort waits for the fetch in flight. -/
theorem abortRun_fetching (hx : c.xfer = none) (hg : c.fetching = true) :
    s.abortRun ch = (s.put (F.dmaStatusState ch) 2).put (F.dmaStatusLastCode ch) 0x301 := by
  unfold State.abortRun
  rw [chan_of hc, hx]
  exact if_pos hg

/-- A transfer told to abort: one whose reads have all been issued ends, and the chain stops after it. -/
theorem abortRun_xfer {x : DmaXfer} (hx : c.xfer = some x) : Frame [F.dmaStatusState ch] [.channel ch] s (s.abortRun ch) ∧
    (s.abortRun ch).get (F.dmaStatusState ch) = 2 ∧ (s.abortRun ch).dma[ch]? = some (if x.started = true ∧ x.next = x.total
      then { c with stopAfter := true, got := none, fetch := if c.fetching then c.fetch else none } else c) := by
  have hf : Frame [F.dmaStatusState ch] [.channel ch] s (s.put (F.dmaStatusState ch) 2) := (chanState_frame s ch).mono (by simp) (by simp)
  have hg := chanState_get s ch (v := 2) (by decide)
  have e : s.abortRun ch = if x.started && x.next == x.total then (s.put (F.dmaStatusState ch) 2).setChan ch fun c =>
      { c with stopAfter := true, got := none, fetch := if c.fetching then c.fetch else none } else s.put (F.dmaStatusState ch) 2 := by
    unfold State.abortRun
    rw [chan_of hc, hx]
  rw [e]
  by_cases h : x.started = true ∧ x.next = x.total
  · rw [if_pos (by simp [h]), if_pos h]
    exact ⟨State.setChan_frame hf _ _ (by simp), hg, setChan_dma (s := s.put _ _) hc _⟩
  · rw [if_neg (by simpa using h), if_neg h]
    exact ⟨hf, hg, hc⟩

theorem abortHalt_stops (hx : c.xfer = none) : s.abortHalt ch = s.chanStop ch c.halt := by
  unfold State.abortHalt
  rw [chan_of hc, hx]

section
variable {x : DmaXfer} (hx : c.xfer = some x)
include hx

theorem abortHalt_descriptor (hd : s.get (F.dmaFaultDirDesc ch) = 1) : s.abortHalt ch = (s.dropChunks ch x).chanStop ch c.halt := by
  unfold State.abortHalt
  rw [chan_of hc, hx]
  exact if_pos (on_of s _ hd)

theorem abortHalt_transfer (hd : s.get (F.dmaFaultDirDesc ch) = 0) :
    s.abortHalt ch = ((s.put (F.dmaStatusState ch) 2).dropChunks ch x).writeStatus ch { x with code := c.halt } := by
  unfold State.abortHalt
  rw [chan_of hc, hx]
  exact if_neg (by simp [on_off s _ hd])

end

end

/-! What a channel is left with once its requests and its fetch are given up. -/

theorem storeRun_dma (s : State) (a : Nat) (l : List Byte) (n : Nat) : (s.storeRun a l).dma[n]? = s.dma[n]? := by
  unfold State.storeRun
  dsimp only
  rw [foldl_dma n, setHoldBytes_dma, foldl_dma n]
  · exact fun t w => knowWord_dma n t w
  · intro t w
    refine ((chaseWrite_frame (T := chaseFields) (P := chaseParts) (.refl _ _ _) _ _ (fun _ h => h) (fun _ h => h)).rest (.channel n)
      (by simp [chaseParts])).trans ?_
    split <;> rfl

/-- The transfer goes back to what it has written, and its host reads come back for nothing. -/
theorem dropChunks_dma {s : State} {ch : Nat} {c : DmaState} {x : DmaXfer} (hc : s.dma[ch]? = some c) (hx : c.xfer = some x) :
    (s.dropChunks ch x).dma[ch]? = some { c with
      orphans := c.orphans + x.readsOut
      xfer := some { x with chunks := [], next := x.moved, half := if x.half = 1 then 0 else x.half, phase := 0 } } := by
  unfold State.dropChunks
  refine setXfer_dma (setChan_dma ?_ _) hx _
  rw [foldl_dma ch, hc]
  intro t k
  dsimp only
  split
  · exact storeRun_dma ..
  · rfl

/-- A fetch given up while in flight is one that comes back for nothing. -/
theorem dropFetch_lost (c : DmaState) : c.dropFetch.lost = c.lost ++ (if c.fetching then c.fetch.elim [] fun p => [p.2] else []) := by
  unfold DmaState.dropFetch
  cases c.fetch <;> cases c.fetching <;> simp

/-! RESUME (R275, R276). -/

/-- A channel RUNNING again. -/
def State.chanRerun (s : State) (ch : Nat) : State := (s.put (F.dmaStatusState ch) 1).sendLtr 20000

/-- The descriptor at a pointer fetched again, with nothing kept of what was fetched. -/
def State.fetchAgain (s : State) (ch : Nat) (p : Nat × Bool) : State :=
  s.setChan ch fun c => { c.dropFetch with xfer := none, got := none, fetch := some p }

section
variable (s : State) (ch : Nat)

theorem chanRerun_frame : Frame [F.dmaStatusState ch] [.out] s (s.chanRerun ch) :=
  sendLtr_frame ((chanState_frame s ch).mono (by simp) (by simp)) _ (by simp)

theorem chanRerun_get : (s.chanRerun ch).get (F.dmaStatusState ch) = 1 := (sendLtr_get _ _ _).trans (chanState_get s ch (by decide))

theorem chanRerun_out : (s.chanRerun ch).out = (s.sendLtr 20000).out := sendLtr_out_of (s := s) (t := s.put _ _) rfl rfl _

theorem chanRerun_dma : (s.chanRerun ch).dma = s.dma := sendLtr_dma ..

theorem fetchAgain_frame (p : Nat × Bool) : Frame [] [.channel ch] s (s.fetchAgain ch p) := State.setChan_frame (.refl _ _ s) _ _ (by simp)

end

theorem fetchAgain_dma {s : State} {ch : Nat} {k : DmaState} (hk : s.dma[ch]? = some k) {l : List Bool} (hl : k.dropFetch.lost = l)
    (p : Nat × Bool) :
    (s.fetchAgain ch p).dma[ch]? = some { k with xfer := none, got := none, fetch := some p, fetching := false, lost := l } := by
  subst hl
  exact setChan_dma hk _

section
variable {s : State} {ch : Nat} {c : DmaState} (hc : s.dma[ch]? = some c)
include hc

theorem dmaResume_refused (h : s.get (F.dmaStatusState ch) ≠ 3 ∨ ∃ x, c.xfer = some x ∧ x.started = true ∧ x.descends = true) :
    s.dmaResume ch = s.dmaRefuse ch 0x322 := by
  unfold State.dmaResume
  rw [chan_of hc]
  rcases h with h | ⟨x, hx, hs, hd⟩
  · exact if_pos (by simp [h])
  · exact if_pos (by simp [hx, hs, hd])

theorem dmaResume_halted (hs : s.get (F.dmaStatusState ch) = 3) (hd : ¬ ∃ x, c.xfer = some x ∧ x.started = true ∧ x.descends = true) :
    s.dmaResume ch = (s.resumeHalt ch).dmaGo s := by
  unfold State.dmaResume
  rw [chan_of hc]
  refine if_neg ?_
  cases hx : c.xfer with
  | none => simp [hs]
  | some x =>
    have : ¬ (x.started = true ∧ x.descends = true) := fun h => hd ⟨x, hx, h⟩
    simpa [hs] using this

omit hc in
theorem resumeHalt_held (hh : s.get (F.dmaStatusHeld ch) = 1) : s.resumeHalt ch = s.put (F.dmaStatusState ch) 0 := if_pos (on_of s _ hh)

section
variable (hh : s.get (F.dmaStatusHeld ch) = 0)
include hh

theorem resumeHalt_fetching (hx : c.xfer = none) (hg : c.fetching = true) : s.resumeHalt ch = s.chanRerun ch := by
  unfold State.resumeHalt
  rw [on_off s _ hh, if_neg Bool.false_ne_true, chan_of hc, hx]
  exact if_pos hg

theorem resumeHalt_between (hx : c.xfer = none) (hg : c.fetching = false) : s.resumeHalt ch = (s.chanRerun ch).fetchAgain ch (s.curPtr ch) := by
  unfold State.resumeHalt
  rw [on_off s _ hh, if_neg Bool.false_ne_true, chan_of hc, hx]
  exact if_neg (by simp [hg])

variable {x : DmaXfer} (hx : c.xfer = some x)
include hx

theorem resumeHalt_descriptor (hd : s.get (F.dmaFaultDirDesc ch) = 1) :
    s.resumeHalt ch = ((s.chanRerun ch).dropChunks ch x).fetchAgain ch (s.curPtr ch) := by
  unfold State.resumeHalt
  rw [on_off s _ hh, if_neg Bool.false_ne_true, chan_of hc, hx]
  exact if_pos (on_of s _ hd)

/-- A halt on the data goes back to the residue, or to the checks of a transfer not started. -/
theorem resumeHalt_transfer (hd : s.get (F.dmaFaultDirDesc ch) = 0) :
    s.resumeHalt ch = if x.started then (s.chanRerun ch).dropChunks ch x else (s.chanRerun ch).startXfer ch := by
  unfold State.resumeHalt
  rw [on_off s _ hh, if_neg Bool.false_ne_true, chan_of hc, hx]
  refine (if_neg (by simp [on_off s _ hd])).trans ?_
  cases x.started <;> rfl

end

end

/-- Settles O40: the command that a write obeys, then the channel's state, then what the channel holds. -/
theorem dmaCommands : Obligations.DmaCommands := by
  unfold Obligations.DmaCommands
  intro s w ch c data ha hc start abort resume refused ready descends state dropped
  refine ⟨fun h1 => ?abortWins, fun h2 => ?resumeWins, fun hf => ?frozen, fun hf => ?open_⟩
  case abortWins =>
    simp only [start, abort, resume, exec_dmaStart ha, exec_dmaAbort ha, exec_dmaResume ha, h1, if_true, and_self]
  case resumeWins =>
    simp only [start, resume, exec_dmaStart ha, exec_dmaResume ha, h2, if_true]
  case frozen =>
    refine ⟨dmaRefuse_yields ?_ (by decide), dmaRefuse_yields ?_ (by decide), dmaRefuse_yields ?_ (by decide)⟩
    · rw [exec_dmaStart ha, if_pos hf]
    · rw [exec_dmaAbort ha, if_pos hf]
    · rw [exec_dmaResume ha, if_pos hf]
  case open_ =>
    have hopen : ¬ s.frozen (0x10 + ch.val) = true := by simp [hf]
    have eAbort : exec abort s = .next (s.dmaAbort ch) := by rw [exec_dmaAbort ha, if_neg hopen]
    refine ⟨fun h1 h2 => ?start, fun h => ?done, fun h => ?running, fun h => ?halted, fun h1 => ?resume⟩
    case start =>
      have e : exec start s = .next (s.dmaStart ch) := by
        rw [exec_dmaStart ha, if_neg hopen, h1, h2, if_neg Bool.false_ne_true, if_neg Bool.false_ne_true]
      refine ⟨fun hh => dmaRefuse_yields (by rw [e, dmaStart_held s ch hh]) (by decide), fun hh => ⟨fun hs => ?_, fun hs hw => ?_, fun hs hw => ?_⟩⟩
      · exact dmaRefuse_yields (by rw [e, dmaStart_busy hh hs]) (by decide)
      · exact dmaRefuse_yields (by rw [e, dmaStart_unwritten hh hs hw]) (by decide)
      · obtain ⟨hlo, hhi, hsp⟩ := chainBegun_cur s ch
        exact ⟨_, by rw [e, dmaStart_ready hh hs hw], chainBegun_frame s ch, chainBegun_running s ch, hlo, hhi, hsp, chainBegun_dma hc⟩
    case done => rw [eAbort, dmaAbort_done h]
    case running =>
      rw [dmaAbort_running h] at eAbort
      refine ⟨fun hx hg => ⟨_, eAbort, _, chanState_frame s ch, chanState_get s ch (by decide), abortRun_stops hc hx hg⟩,
        fun hx hg => ⟨_, eAbort, ?_⟩, fun x hx => ⟨_, eAbort, abortRun_xfer hc hx⟩⟩
      rw [abortRun_fetching hc hx hg]
      refine ⟨((Frame.refl _ _ s).put (by simp)).put (by simp), ?_, get_put_of_lt _ (.ofBits rfl) (show 0x301 < 2 ^ 12 by decide)⟩
      rw [State.get_put_other _ (.ofBits rfl) (.ofBits rfl), chanState_get s ch (by decide)]
    case halted =>
      rw [dmaAbort_halted h] at eAbort
      refine ⟨fun hx => ?_, fun x hx hd => ?_, fun x hx hd => ⟨_, chanState_frame s ch, chanState_get s ch (by decide), ?_⟩⟩
      · rw [eAbort, abortHalt_stops hc hx]
      · rw [eAbort, abortHalt_descriptor hc hx hd]
      · rw [eAbort, abortHalt_transfer hc hx hd]
    case resume =>
      have e : exec resume s = .next (s.dmaResume ch) := by rw [exec_dmaResume ha, if_neg hopen, h1, if_neg Bool.false_ne_true]
      refine ⟨fun h => dmaRefuse_yields (by rw [e, dmaResume_refused hc h]) (by decide), fun hs hd => ?_⟩
      rw [dmaResume_halted hc hs hd] at e
      refine ⟨fun hh => ⟨_, e, ?_⟩, fun hh => ⟨_, chanRerun_frame s ch, chanRerun_get s ch, chanRerun_out s ch, ?_⟩⟩
      · rw [resumeHalt_held hh]
        exact ⟨chanState_frame s ch, chanState_get s ch (by decide)⟩
      · have ht : (s.chanRerun ch).dma[ch.val]? = some c := by rw [chanRerun_dma, hc]
        have hl : c.dropFetch.lost = dropped.lost := by
          rw [dropFetch_lost]
          cases h : c.fetch <;> simp [dropped, h]
        refine ⟨fun hx hg => ?_, fun hx hg => ⟨_, ⟨fetchAgain_frame _ ch (s.curPtr ch), c, ht, fetchAgain_dma ht hl _⟩, ?_⟩, fun x hx hd => ⟨_,
          ⟨fetchAgain_frame _ ch (s.curPtr ch), _, dropChunks_dma ht hx, fetchAgain_dma (dropChunks_dma ht hx) hl _⟩, ?_⟩, fun x hx hd => ?_⟩
        · rw [e, resumeHalt_fetching hc hh hx hg]
        · rw [e, resumeHalt_between hc hh hx hg]
        · rw [e, resumeHalt_descriptor hc hh hx hd]
        · rw [e, resumeHalt_transfer hc hh hx hd]

end Sys2Proof.Machine
end

section
/-! The commands of an Eddy engine (R281, R293, R294, R297). -/

open Sys2Proof Sys2Proof.Machine

namespace Sys2Proof.Machine

/-- A command refused shows its code and does nothing else (R281). -/
theorem eddyRefuse_yields {c : Instr} {s : State} {e : Nat} (h : exec c s = .next (s.eddyRefuse e)) :
    Yields c s [] [F.eddyStatusErr e] [] fun u => u.get (F.eddyStatusErr e) = 7 := put_yields h (.ofBits rfl) (show 7 < 2 ^ 4 by decide)

/-! The states that accepted commands lead to, but for their events. -/

section
variable (s : State) (e : Nat)

/-- The counts of a job cleared. -/
def State.eddyCleared : State :=
  s.puts [(F.eddyInDoneBytes e, 0), (F.eddyOutDoneBytes e, 0), (F.eddyBitsInBits e, 0), (F.eddyBitsOutBits e, 0)]

/-- What a job given to the engine waits for: the internal job under way, if there is one. -/
def State.eddyWaits (k : Nat) : Option Nat := if s.on (F.eddyStatusInternal e) then some k else none

/-- The engine with a job given to it. -/
def State.eddyGiven (j : EddyJob) (waits : Option Nat) : State :=
  (s.setEddy e fun x => { x with job := some j, waits := waits }).showInternal e

/-- The job asked for, with the bits that the context holds for it. -/
def State.eddyTaken : EddyJob :=
  { s.eddyAsked e with
    held := if !(s.eddyAsked e).pixel && !(s.eddyAsked e).decompress && (s.eddyAsked e).carry then (s.eddy e).ctx.held else [] }

/-- A job begun (R281). -/
def State.eddyBegun : State :=
  ((s.eddyCleared e).puts [(F.eddyStatusState e, 1), (F.eddyStatusErr e, 0), (F.eddyStatusPending e, 0)]).eddyGiven e
    (s.eddyTaken e) (s.eddyWaits e 1)

/-- An invalid START in ERROR 0x1 (R281). -/
def State.eddyMisasked : State := (s.eddyCleared e).puts [(F.eddyStatusState e, 3), (F.eddyStatusErr e, 1)]

/-- A stopped job with the output space that the registers describe (R293). -/
def State.eddyWidened (j : EddyJob) : EddyJob :=
  { j with outAddr := s.get (F.eddyOutAddrAddr e), outLen := s.get (F.eddyOutLenBytes e) }

/-- A stopped job goes on with new output space (R293). -/
def State.eddyResumed (j : EddyJob) : State :=
  (s.puts [(F.eddyStatusState e, 1), (F.eddyStatusErr e, 0)]).eddyGiven e (s.eddyWidened e j) (s.eddyWaits e 2)

/-- A resumed job whose space is too small for its pending code word stops again at once (R293). -/
def State.eddyTried (j : EddyJob) : State :=
  match s.eddyOutcome e j with
  | .full words out held n _ => if words = j.words then s.eddyFull e j words out held n else s
  | _ => s

/-- A job or a context command ended in ERROR with a code (R297). -/
def State.eddyFailed (code : Nat) : State :=
  ((s.puts [(F.eddyStatusState e, 3), (F.eddyStatusErr e, code), (F.eddyStatusPending e, 0), (F.eddyStatusCtxValid e, 0)]).setEddy e
    fun x => { x with job := none, waits := none, ctxCmd := none }).showInternal e

/-- A context command begun (R294). -/
def State.ctxBegun (op : Nat) : State :=
  ((s.put (F.eddyStatusState e) 4).setEddy e fun x => { x with ctxCmd := some (op, s.eddySt e) }).showInternal e

end

/-! What these states show. -/

section
variable (s : State) (e : Nat)

theorem eddyGiven_frame {T : List Field} {P : List Part} {t : State} (h : Frame T P s t) (mi : F.eddyStatusInternal e ∈ T)
    (me : .engine e ∈ P) (j : EddyJob) (waits : Option Nat) : Frame T P s (t.eddyGiven e j waits) :=
  (State.setEddy_frame h e _ me).put mi

theorem eddyGiven_get (j : EddyJob) (waits : Option Nat) {f : Field} (h : Apart (F.eddyStatusInternal e) f) (hf : InWord f) :
    (s.eddyGiven e j waits).get f = s.get f := (State.get_put_other _ h hf _).trans (State.setEddy_get ..)

theorem eddyBegun_frame : Frame [F.eddyInDoneBytes e, F.eddyOutDoneBytes e, F.eddyBitsInBits e, F.eddyBitsOutBits e, F.eddyStatusState e,
    F.eddyStatusErr e, F.eddyStatusPending e, F.eddyStatusInternal e] [.engine e] s (s.eddyBegun e) :=
  eddyGiven_frame s e (((Frame.refl _ _ s).puts (by simp)).puts (by simp)) (by simp) (by simp) _ _

/-- What the registers of a job begun show. -/
theorem eddyBegun_shows : (s.eddyBegun e).get (F.eddyInDoneBytes e) = 0 ∧ (s.eddyBegun e).get (F.eddyOutDoneBytes e) = 0 ∧
    (s.eddyBegun e).get (F.eddyBitsInBits e) = 0 ∧ (s.eddyBegun e).get (F.eddyBitsOutBits e) = 0 ∧
    (s.eddyBegun e).get (F.eddyStatusState e) = 1 ∧ (s.eddyBegun e).get (F.eddyStatusErr e) = 0 ∧
    (s.eddyBegun e).get (F.eddyStatusPending e) = 0 := by
  unfold State.eddyBegun State.eddyCleared
  simp (disch := first | exact .ofBits rfl | exact .ofBases rfl rfl rfl) only [eddyGiven_get, State.puts_cons, State.puts_nil,
    State.get_put_same, State.get_put_other]
  exact ⟨rfl, rfl, rfl, rfl, rfl, rfl, rfl⟩

theorem eddyMisasked_frame : Frame [F.eddyInDoneBytes e, F.eddyOutDoneBytes e, F.eddyBitsInBits e, F.eddyBitsOutBits e,
    F.eddyStatusState e, F.eddyStatusErr e] [] s (s.eddyMisasked e) :=
  ((Frame.refl _ _ s).puts (by simp)).puts (by simp)

/-- What the registers show after an invalid START. -/
theorem eddyMisasked_shows : (s.eddyMisasked e).get (F.eddyInDoneBytes e) = 0 ∧ (s.eddyMisasked e).get (F.eddyOutDoneBytes e) = 0 ∧
    (s.eddyMisasked e).get (F.eddyBitsInBits e) = 0 ∧ (s.eddyMisasked e).get (F.eddyBitsOutBits e) = 0 ∧
    (s.eddyMisasked e).get (F.eddyStatusState e) = 3 ∧ (s.eddyMisasked e).get (F.eddyStatusErr e) = 1 := by
  unfold State.eddyMisasked State.eddyCleared
  simp (disch := first | exact .ofBits rfl | exact .ofBases rfl rfl rfl) only [State.puts_cons, State.puts_nil, State.get_put_same,
    State.get_put_other]
  exact ⟨rfl, rfl, rfl, rfl, rfl, rfl⟩

theorem eddyResumed_frame (j : EddyJob) :
    Frame [F.eddyStatusState e, F.eddyStatusErr e, F.eddyStatusInternal e] [.engine e] s (s.eddyResumed e j) :=
  eddyGiven_frame s e ((Frame.refl _ _ s).puts (by simp)) (by simp) (by simp) _ _

theorem eddyResumed_status (j : EddyJob) :
    (s.eddyResumed e j).get (F.eddyStatusState e) = 1 ∧ (s.eddyResumed e j).get (F.eddyStatusErr e) = 0 := by
  unfold State.eddyResumed
  simp (disch := exact .ofBits rfl) only [eddyGiven_get, State.puts_cons, State.puts_nil, State.get_put_same, State.get_put_other]
  exact ⟨rfl, rfl⟩

/-- RESUME freezes no master and thaws none. -/
theorem eddyResumed_frozen (j : EddyJob) (m : Nat) : (s.eddyResumed e j).frozen m = s.frozen m :=
  congrArg (· == 1) ((eddyResumed_frame s e j).get (.ofBits rfl) (by simpa using ⟨.ofBits rfl, .ofBits rfl, .ofBits rfl⟩))

theorem eddyFailed_frame (code : Nat) : Frame [F.eddyStatusState e, F.eddyStatusErr e, F.eddyStatusPending e, F.eddyStatusCtxValid e,
    F.eddyStatusInternal e] [.engine e] s (s.eddyFailed e code) :=
  (State.setEddy_frame ((Frame.refl _ _ s).puts (by simp)) e _ (by simp)).put (by simp)

theorem eddyFailed_status (code : Nat) : (s.eddyFailed e code).get (F.eddyStatusState e) = 3 ∧
    (s.eddyFailed e code).get (F.eddyStatusErr e) = code % 16 ∧ (s.eddyFailed e code).get (F.eddyStatusPending e) = 0 ∧
    (s.eddyFailed e code).get (F.eddyStatusCtxValid e) = 0 := by
  unfold State.eddyFailed State.showInternal
  simp (disch := exact .ofBits rfl) only [State.puts_cons, State.puts_nil, State.get_put_same, State.get_put_other, State.setEddy_get]
  exact ⟨rfl, rfl, rfl, rfl⟩

theorem ctxBegun_frame (op : Nat) : Frame [F.eddyStatusState e, F.eddyStatusInternal e] [.engine e] s (s.ctxBegun e op) :=
  (State.setEddy_frame ((Frame.refl _ _ s).put (by simp)) e _ (by simp)).put (by simp)

theorem ctxBegun_state (op : Nat) : (s.ctxBegun e op).get (F.eddyStatusState e) = 4 :=
  ((State.get_put_other _ (.ofBits rfl) (.ofBits rfl) _).trans (State.setEddy_get ..)).trans
    (get_put_of_lt s (.ofBits rfl) (show 4 < 2 ^ 3 by decide))

end

/-! What the engine then holds. -/

section
variable {s : State} {e : Nat} {x : EddyState} (hx : s.eddys[e]? = some x)
include hx

theorem eddyGiven_eddys (j : EddyJob) (waits : Option Nat) :
    (s.eddyGiven e j waits).eddys[e]? = some { x with job := some j, waits := waits } := updAt_some hx

theorem eddyTaken_of : s.eddyTaken e = { s.eddyAsked e with
    held := if !(s.eddyAsked e).pixel && !(s.eddyAsked e).decompress && (s.eddyAsked e).carry then x.ctx.held else [] } := by
  unfold State.eddyTaken
  rw [eddy_of hx]

theorem eddyBegun_eddys :
    (s.eddyBegun e).eddys[e]? = some { x with job := some (s.eddyTaken e), waits := s.eddyWaits e 1 } :=
  eddyGiven_eddys (s := (s.eddyCleared e).puts _) hx _ _

theorem eddyResumed_eddys (j : EddyJob) :
    (s.eddyResumed e j).eddys[e]? = some { x with job := some (s.eddyWidened e j), waits := s.eddyWaits e 2 } :=
  eddyGiven_eddys (s := s.puts _) hx _ _

theorem eddyFailed_eddys (code : Nat) :
    (s.eddyFailed e code).eddys[e]? = some { x with job := none, waits := none, ctxCmd := none } := updAt_some hx

theorem ctxBegun_eddys (op : Nat) : (s.ctxBegun e op).eddys[e]? = some { x with ctxCmd := some (op, s.eddySt e) } := updAt_some hx

theorem showInternal_get : (s.showInternal e).get (F.eddyStatusInternal e) =
    (!x.internal.isEmpty && (x.waits.isSome || (s.eddySt e != 1 && s.eddySt e != 4))).toNat := by
  rw [← eddy_of hx]
  exact get_put_of_lt s (.ofBits rfl) (Bool.toNat_lt _)

/-- In CTX_BUSY an internal job runs only where a driver job waits for it (R295). -/
theorem ctxBegun_internal (op : Nat) :
    (s.ctxBegun e op).get (F.eddyStatusInternal e) = (!x.internal.isEmpty && x.waits.isSome).toNat := by
  have hst (g : EddyState → EddyState) : ((s.put (F.eddyStatusState e) 4).setEddy e g).eddySt e = 4 :=
    get_put_of_lt s (.ofBits rfl) (show 4 < 2 ^ 3 by decide)
  exact (showInternal_get (updAt_some hx)).trans (by rw [hst]; simp)

end

/-! A job runs only in RUNNING. -/

theorem eddyRuns_none {s : State} {e : Nat} (h : s.eddySt e ≠ 1) : s.eddyRuns e = none := by
  unfold State.eddyRuns
  cases (s.eddy e).job with
  | none => rfl
  | some j => exact if_neg fun hr => h hr.1

/-! The commands by the state of the engine. -/

section
variable {s : State} {w : Writer} {e : Fin 4} (ha : s.accepts w (R.eddyCmd e) = true)
include ha

theorem exec_eddyStart_refused (h0 : s.eddySt e ≠ 0) (h3 : s.eddySt e ≠ 3) : exec (.eddyStart w e) s = .next (s.eddyRefuse e) := by
  show execEddyStart w e s = _
  unfold execEddyStart
  rw [State.writeBy_accepts ha, if_pos ⟨h0, h3⟩]

theorem exec_eddyStart (h : s.eddySt e = 0 ∨ s.eddySt e = 3) : exec (.eddyStart w e) s =
    .next (if s.eddyInvalid e (s.eddyAsked e) = true then (s.eddyMisasked e).raise (evEddy e 2) else s.eddyBegun e) := by
  show execEddyStart w e s = _
  unfold execEddyStart
  rw [State.writeBy_accepts ha, if_neg (by omega)]
  rfl

theorem exec_eddyResume_refused (h : s.eddySt e ≠ 2) : exec (.eddyResume w e) s = .next (s.eddyRefuse e) := by
  show execEddyResume w e s = _
  unfold execEddyResume
  rw [State.writeBy_accepts ha]
  split
  · contradiction
  · rfl

/-- A resumed job goes on at once unless an internal job runs or its master is frozen. -/
theorem exec_eddyResume (h : s.eddySt e = 2) {j : EddyJob} (hj : (s.eddy e).job = some j) : exec (.eddyResume w e) s =
    .next (if ((s.eddyWaits e 2).isSome || s.frozen (eddyMaster e)) = true then s.eddyResumed e j
      else (s.eddyResumed e j).eddyTried e (s.eddyWidened e j)) := by
  rw [← eddyResumed_frozen s e j]
  show execEddyResume w e s = _
  unfold execEddyResume
  rw [State.writeBy_accepts ha, h, hj]
  rfl

theorem exec_eddyAbort_refused (h1 : s.eddySt e ≠ 1) (h2 : s.eddySt e ≠ 2) : exec (.eddyAbort w e) s = .next (s.eddyRefuse e) := by
  show execEddyAbort w e s = _
  unfold execEddyAbort
  rw [State.writeBy_accepts ha, if_neg (by omega)]

theorem exec_eddyAbort_still (h : s.eddySt e = 1 ∨ s.eddySt e = 2) (hr : s.eddyRuns e = none) :
    exec (.eddyAbort w e) s = .next ((s.eddyFailed e 6).raise (evEddy e 2)) := by
  show execEddyAbort w e s = _
  unfold execEddyAbort
  rw [State.writeBy_accepts ha, if_pos h, hr]
  rfl

/-- A job that runs and is aborted keeps a free part of the output it was to have (R297). -/
theorem exec_eddyAbort_runs (h : s.eddySt e = 1) {j : EddyJob} (hr : s.eddyRuns e = some j) {out : List Byte}
    (ho : (∃ bits ctx raw, s.eddyOutcome e j = .done out bits ctx raw) ∨ (∃ words held n need, s.eddyOutcome e j = .full words out held n need) ∨
      ∃ code, s.eddyOutcome e j = .err code out) :
    exec (.eddyAbort w e) s = .next ((s.eddyPartial e j out).eddyFail e 6) := by
  show execEddyAbort w e s = _
  unfold execEddyAbort
  rw [State.writeBy_accepts ha, if_pos (.inl h), hr]
  dsimp only
  obtain ⟨bits, ctx, raw, ho⟩ | ⟨words, held, n, need, ho⟩ | ⟨code, ho⟩ := ho <;> rw [ho]

/-- The two context commands are accepted alike. -/
theorem exec_ctxCmd : exec (.ctxSave w e) s = .next (s.eddyCtxCmd e 4) ∧ exec (.ctxRestore w e) s = .next (s.eddyCtxCmd e 5) :=
  ⟨congrArg Host.Outcome.next (State.writeBy_accepts ha), congrArg Host.Outcome.next (State.writeBy_accepts ha)⟩

end

section
variable {s : State} {e : Nat}

theorem eddyCtxCmd_refused (h : s.eddySt e = 1 ∨ s.eddySt e = 4) (op : Nat) : s.eddyCtxCmd e op = s.eddyRefuse e := if_pos (by omega)

variable (h : s.eddySt e = 0 ∨ s.eddySt e = 2 ∨ s.eddySt e = 3)
include h

theorem eddyCtxCmd_unwritten (hw : s.isWritten (R.eddyCtxAddr e) = false) (op : Nat) : s.eddyCtxCmd e op = s.put (F.eddyStatusErr e) 1 := by
  unfold State.eddyCtxCmd
  rw [if_neg (by omega), hw]
  rfl

theorem eddyCtxCmd_begins (hw : s.isWritten (R.eddyCtxAddr e) = true) (op : Nat) : s.eddyCtxCmd e op = s.ctxBegun e op := by
  unfold State.eddyCtxCmd
  rw [if_neg (by omega), hw]
  rfl

end

/-- Settles O22: each command by the state of the engine, START also by whether what it asks for is valid, RESUME by what holds the job back,
ABORT by whether the job runs. -/
theorem eddyCommands : Obligations.EddyCommands := by
  unfold Obligations.EddyCommands
  intro s w e x ha hx refused waits
  obtain ⟨hsave, hrestore⟩ := exec_ctxCmd ha
  refine ⟨fun h => ⟨fun hv => ?begin, fun hv => ?invalid⟩, fun h0 h3 => eddyRefuse_yields (exec_eddyStart_refused ha h0 h3), ?resume,
    fun h => eddyRefuse_yields (exec_eddyResume_refused ha h), fun h => ?abort, fun j out h hr ho => exec_eddyAbort_runs ha h hr ho,
    fun h1 h2 => eddyRefuse_yields (exec_eddyAbort_refused ha h1 h2), fun h => ⟨fun hw op hop => ?context, fun hw => ?noAddress⟩, fun h => ?busy⟩
  case begin =>
    obtain ⟨hin, hout, hbi, hbo, hst, herr, hp⟩ := eddyBegun_shows s e
    rw [← eddyTaken_of hx]
    refine .quiet ?_ (eddyBegun_frame s e) ⟨hin, hout, hbi, hbo, hst, herr, hp, eddyBegun_eddys hx⟩
    rw [exec_eddyStart ha h, hv, if_neg Bool.false_ne_true]
  case invalid =>
    refine ⟨s.eddyMisasked e, ?_, eddyMisasked_frame s e, eddyMisasked_shows s e⟩
    rw [exec_eddyStart ha h, if_pos hv]
    rfl
  case resume =>
    intro j h hj j'
    have he := exec_eddyResume ha h ((congrArg EddyState.job (eddy_of hx)).trans hj)
    obtain ⟨hst, herr⟩ := eddyResumed_status s e j
    refine ⟨s.eddyResumed e j, eddyResumed_frame s e j, hst, herr, eddyResumed_eddys hx j, fun hh => ?_, fun hi hf => ?_⟩
    · rw [he, if_pos]
      rcases hh with hi | hf
      · simp [State.eddyWaits, on_of s _ hi]
      · simp [hf]
    · rw [he, if_neg (by simp [State.eddyWaits, on_off s _ hi, hf])]
      rfl
  case abort =>
    obtain ⟨hst, herr, hp, hcv⟩ := eddyFailed_status s e 6
    refine ⟨s.eddyFailed e 6, exec_eddyAbort_still ha ?_ ?_, eddyFailed_frame s e 6, hst, herr, hp, hcv, eddyFailed_eddys hx 6⟩
    · omega
    · rcases h with h | ⟨-, hr⟩
      · exact eddyRuns_none (by omega)
      · exact hr
  case context =>
    have hexec : exec (if op = 4 then .ctxSave w e else .ctxRestore w e) s = .next (s.ctxBegun e op) := by
      rw [← eddyCtxCmd_begins h hw]
      rcases hop with rfl | rfl
      · exact hsave
      · exact hrestore
    exact .quiet hexec (ctxBegun_frame s e op) ⟨ctxBegun_state s e op, ctxBegun_internal hx op, ctxBegun_eddys hx op⟩
  case noAddress =>
    rw [eddyCtxCmd_unwritten h hw] at hsave hrestore
    exact ⟨put_yields hsave (.ofBits rfl) (show 1 < 2 ^ 4 by decide), put_yields hrestore (.ofBits rfl) (show 1 < 2 ^ 4 by decide)⟩
  case busy =>
    rw [eddyCtxCmd_refused h] at hsave hrestore
    exact ⟨eddyRefuse_yields hsave, eddyRefuse_yields hrestore⟩

end Sys2Proof.Machine
end

section
/-! A step: the front command run on the rest of the queue, and what every command keeps. -/

open Sys2Proof Sys2Proof.Machine

namespace Sys2Proof.Machine

/-- Every command answers a next state that keeps what `Keeps` names: the operations' own lemmas, one per command. -/
theorem exec_keeps {r s : State} (h : Keeps r s) (c : Instr) : KeepsOut r (exec c s) := by
  cases c with
  | registerWrite => exact execRegisterWrite_keeps h ..
  | misalignedBar0Access => exact execMisalignedBar0Access_keeps h ..
  | lowWordRead => exact execLowWordRead_keeps h ..
  | rcRead => exact execRcRead_keeps h ..
  | sstLoad => exact execSstLoad_keeps h ..
  | sstFetchComplete => exact execSstFetchComplete_keeps h ..
  | sstApply => exact execSstApply_keeps h ..
  | sstDiscard => exact execSstDiscard_keeps h ..
  | storeBoot => exact execStoreBoot_keeps h ..
  | clearBoot => exact execClearBoot_keeps h ..
  | cmdInvalid => exact execCmdInvalid_keeps h ..
  | slotReady => exact execSlotReady_keeps h ..
  | slotWithdraw => exact execSlotWithdraw_keeps h ..
  | lineGroupRead => exact execLineGroupRead_keeps h ..
  | landingPoint => exact execLandingPoint_keeps h ..
  | landGo => exact execLandGo_keeps h ..
  | landCancel => exact execLandCancel_keeps h ..
  | frameStart => exact execFrameStart_keeps h ..
  | lineStart => exact execLineStart_keeps h ..
  | tableDataWrite => exact execTableDataWrite_keeps h ..
  | tableDataRead => exact execTableDataRead_keeps h ..
  | unifAddressWrite => exact execUnifAddressWrite_keeps h ..
  | unifCheckBase => exact execUnifCheckBase_keeps h ..
  | unifCheckField => exact execUnifCheckField_keeps h ..
  | unifCheckComplete => exact execUnifCheckComplete_keeps h ..
  | baseLock => exact execBaseLock_keeps h ..
  | baseMapHashDone => exact execBaseMapHashDone_keeps h ..
  | wearRowStart => exact execWearRowStart_keeps h ..
  | wearLedgerReadDone => exact execWearLedgerReadDone_keeps h ..
  | wearLedgerWriteDone => exact execWearLedgerWriteDone_keeps h ..
  | wearGenGroup => exact execWearGenGroup_keeps h ..
  | eddyInternalJobDone => exact execEddyInternalJobDone_keeps h ..
  | odrvPanelTempWrite => exact execOdrvPanelTempWrite_keeps h ..
  | temperatureTimerExpiry => exact execTemperatureTimerExpiry_keeps h ..
  | tgEnable => exact execTgEnable_keeps h ..
  | tgDisable => exact execTgDisable_keeps h ..
  | tgStopped => exact execTgStopped_keeps h ..
  | syncInEdge => exact execSyncInEdge_keeps h ..
  | syncWindowClose => exact execSyncWindowClose_keeps h ..
  | teEdge => exact execTeEdge_keeps h ..
  | teTimeout => exact execTeTimeout_keeps h ..
  | chainEpoch => exact execChainEpoch_keeps h ..
  | rgnPush => exact execRgnPush_keeps h ..
  | rgnFlush => exact execRgnFlush_keeps h ..
  | regionSeedDone => exact execRegionSeedDone_keeps h ..
  | regionCopyDone => exact execRegionCopyDone_keeps h ..
  | regionMergeDone => exact execRegionMergeDone_keeps h ..
  | pfailNFall => exact execPfailNFall_keeps h ..
  | pfailRecognised => exact execPfailRecognised_keeps h ..
  | pfailNRise => exact execPfailNRise_keeps h ..
  | dischargeCut => exact execDischargeCut_keeps h ..
  | dischargeHoldExpiry => exact execDischargeHoldExpiry_keeps h ..
  | dischargeComplete => exact execDischargeComplete_keeps h ..
  | trainingSequenceEnd => exact execTrainingSequenceEnd_keeps h ..
  | sidebandPoll => exact execSidebandPoll_keeps h ..
  | sidebandReply => exact execSidebandReply_keeps h ..
  | replyTimeout => exact execReplyTimeout_keeps h ..
  | sidebandRepeat => exact execSidebandRepeat_keeps h ..
  | listenTimeout => exact execListenTimeout_keeps h ..
  | retryStart => exact execRetryStart_keeps h ..
  | retrain => exact execRetrain_keeps h ..
  | txOff => exact execTxOff_keeps h ..
  | calRequest => exact execCalRequest_keeps h ..
  | calMeasure => exact execCalMeasure_keeps h ..
  | calTrialWindowEnd => exact execCalTrialWindowEnd_keeps h ..
  | calHistogramReceived => exact execCalHistogramReceived_keeps h ..
  | densitySpanEnd => exact execDensitySpanEnd_keeps h ..
  | ffeForce => exact execFfeForce_keeps h ..
  | chainRxForce => exact execChainRxForce_keeps h ..
  | ctleInterval => exact execCtleInterval_keeps h ..
  | dfeStep => exact execDfeStep_keeps h ..
  | chainStatsStarved => exact execChainStatsStarved_keeps h ..
  | eyeScan => exact execEyeScan_keeps h ..
  | holdAccess => exact execHoldAccess_keeps h ..
  | holdBusyNRelease => exact execHoldBusyNRelease_keeps h ..
  | ferryStart => exact execFerryStart_keeps h ..
  | ferryDrained => exact execFerryDrained_keeps h ..
  | ferryDrainLimit => exact execFerryDrainLimit_keeps h ..
  | holdGroupReady => exact execHoldGroupReady_keeps h ..
  | marchRequest => exact execMarchRequest_keeps h ..
  | marchAbandon => exact execMarchAbandon_keeps h ..
  | marchBackgroundWindow => exact execMarchBackgroundWindow_keeps h ..
  | marchHoldLimit => exact execMarchHoldLimit_keeps h ..
  | marchTestEnd => exact execMarchTestEnd_keeps h ..
  | repairRow => exact execRepairRow_keeps h ..
  | repairBank => exact execRepairBank_keeps h ..
  | repairCopyDone => exact execRepairCopyDone_keeps h ..
  | dmaStart => exact execDmaStart_keeps h ..
  | dmaAbort => exact execDmaAbort_keeps h ..
  | dmaResume => exact execDmaResume_keeps h ..
  | descriptorFetched => exact execDescriptorFetched_keeps h ..
  | dmaReadCompletion => exact execDmaReadCompletion_keeps h ..
  | dmaHoldResponse => exact execDmaHoldResponse_keeps h ..
  | flushReadComplete => exact execFlushReadComplete_keeps h ..
  | completionTimeout => exact execCompletionTimeout_keeps h ..
  | rateWindow => exact execRateWindow_keeps h ..
  | eddyStart => exact execEddyStart_keeps h ..
  | eddyResume => exact execEddyResume_keeps h ..
  | eddyAbort => exact execEddyAbort_keeps h ..
  | ctxSave => exact execCtxSave_keeps h ..
  | ctxRestore => exact execCtxRestore_keeps h ..
  | eddyJobComplete => exact execEddyJobComplete_keeps h ..
  | eddyOutputExhausted => exact execEddyOutputExhausted_keeps h ..
  | eddyJobError => exact execEddyJobError_keeps h ..
  | eddyCtxComplete => exact execEddyCtxComplete_keeps h ..
  | linkFlitDue => exact execLinkFlitDue_keeps h ..
  | timeFlitDue => exact execTimeFlitDue_keeps h ..
  | shortFlitReceived => exact execShortFlitReceived_keeps h ..
  | pixelGroupReceived => exact execPixelGroupReceived_keeps h ..
  | markerLossTimeout => exact execMarkerLossTimeout_keeps h ..
  | linkFlitTimeout => exact execLinkFlitTimeout_keeps h ..
  | boardStart => exact execBoardStart_keeps h ..
  | boardTimeout => exact execBoardTimeout_keeps h ..
  | ringRestore => exact execRingRestore_keeps h ..
  | dataViewLapse => exact execDataViewLapse_keeps h ..
  | raRead => exact execRaRead_keeps h ..
  | raWrite => exact execRaWrite_keeps h ..
  | raTimeout => exact execRaTimeout_keeps h ..
  | sensorTx => exact execSensorTx_keeps h ..
  | chainSliceSwap => exact execChainSliceSwap_keeps h ..
  | timeTick => exact execTimeTick_keeps h ..
  | timeBoundary => exact execTimeBoundary_keeps h ..
  | timeIncrWrite => exact execTimeIncrWrite_keeps h ..
  | timeSlewWrite => exact execTimeSlewWrite_keeps h ..
  | timeStepArm => exact execTimeStepArm_keeps h ..
  | disciplineIntervalEnd => exact execDisciplineIntervalEnd_keeps h ..
  | incrCorrection => exact execIncrCorrection_keeps h ..
  | ptmDialog => exact execPtmDialog_keeps h ..
  | ptmDialogComplete => exact execPtmDialogComplete_keeps h ..
  | ltcInWord => exact execLtcInWord_keeps h ..
  | ltcInWordMissing => exact execLtcInWordMissing_keeps h ..
  | ltcWordStart => exact execLtcWordStart_keeps h ..
  | ltcJam => exact execLtcJam_keeps h ..
  | holdoverEnd => exact execHoldoverEnd_keeps h ..
  | captureLoRead => exact execCaptureLoRead_keeps h ..
  | captureMetaRead => exact execCaptureMetaRead_keeps h ..
  | purserStampRead => exact execPurserStampRead_keeps h ..
  | swlogPop => exact execSwlogPop_keeps h ..
  | txqPop => exact execTxqPop_keeps h ..
  | windowArm => exact execWindowArm_keeps h ..
  | refinLoss => exact execRefinLoss_keeps h ..
  | refinRestore => exact execRefinRestore_keeps h ..
  | linkTrained => exact execLinkTrained_keeps h ..
  | linkFailure => exact execLinkFailure_keeps h ..
  | aspmL1Entry => exact execAspmL1Entry_keeps h ..
  | bar2Access => exact execBar2Access_keeps h ..
  | configWrite => exact execConfigWrite_keeps h ..
  | msixVectorUnmask => exact execMsixVectorUnmask_keeps h ..
  | functionLevelReset => exact execFunctionLevelReset_keeps h ..
  | flrComplete => exact execFlrComplete_keeps h ..
  | mstThaw => exact execMstThaw_keeps h ..
  | causeAck => exact execCauseAck_keeps h ..
  | purserWatchdog => exact execPurserWatchdog_keeps h ..
  | doorbellRing => exact execDoorbellRing_keeps h ..
  | mailboxTakeUp => exact execMailboxTakeUp_keeps h ..
  | getInfo => exact execGetInfo_keeps h ..
  | eventTest => exact execEventTest_keeps h ..
  | unknownOp => exact execUnknownOp_keeps h ..
  | calRead => exact execCalRead_keeps h ..
  | calStore => exact execCalStore_keeps h ..
  | calClear => exact execCalClear_keeps h ..
  | calSetDigest => exact execCalSetDigest_keeps h ..
  | calStatus => exact execCalStatus_keeps h ..
  | otpFuse => exact execOtpFuse_keeps h ..
  | reliefSwap => exact execReliefSwap_keeps h ..
  | mailboxTimeout => exact execMailboxTimeout_keeps h ..
  | evtSoftRaise => exact execEvtSoftRaise_keeps h ..
  | manifestRequest => exact execManifestRequest_keeps h ..
  | manifestFlushComplete => exact execManifestFlushComplete_keeps h ..
  | powerRequestRun => exact execPowerRequestRun_keeps h ..
  | powerRequestSlack => exact execPowerRequestSlack_keeps h ..
  | powerRequestWinter => exact execPowerRequestWinter_keeps h ..
  | powerRequestInvalid => exact execPowerRequestInvalid_keeps h ..
  | winterQuiesced => exact execWinterQuiesced_keeps h ..
  | winterEntryTimeout => exact execWinterEntryTimeout_keeps h ..
  | thawSwitchesClose => exact execThawSwitchesClose_keeps h ..
  | thawPllsLocked => exact execThawPllsLocked_keeps h ..
  | thawComplete => exact execThawComplete_keeps h ..
  | vddHoldLate => exact execVddHoldLate_keeps h ..
  | refclkLoss => exact execRefclkLoss_keeps h ..
  | refclkRestore => exact execRefclkRestore_keeps h ..
  | aonCrystalStop => exact execAonCrystalStop_keeps h ..
  | pllLossOfLock => exact execPllLossOfLock_keeps h ..
  | pllLockRegained => exact execPllLockRegained_keeps h ..
  | outputPllRelockTimeout => exact execOutputPllRelockTimeout_keeps h ..
  | powerOn => exact execPowerOn_keeps h ..
  | startupMarchComplete => exact execStartupMarchComplete_keeps h ..
  | startupComplete => exact execStartupComplete_keeps h ..
  | perstAssert => exact execPerstAssert_keeps h ..
  | perstRelease => exact execPerstRelease_keeps h ..
  | warmReset => exact execWarmReset_keeps h ..
  | thermalOvertemp => exact execThermalOvertemp_keeps h ..
  | thermalCooldown => exact execThermalCooldown_keeps h ..
  | stateRequest => exact execStateRequest_keeps h ..
  | recordStoreComplete => exact execRecordStoreComplete_keeps h ..
  | trimEffective => exact execTrimEffective_keeps h ..
  | supplyOutOfRange => exact execSupplyOutOfRange_keeps h ..
  | supplyCollapse => exact execSupplyCollapse_keeps h ..
  | agingMeasurement => exact execAgingMeasurement_keeps h ..
  | swapLockTimeout => exact execSwapLockTimeout_keeps h ..
  | thermalThreshold => exact execThermalThreshold_keeps h ..
  | slackExitDeadline => exact execSlackExitDeadline_keeps h ..
  | chainSubRound => exact execChainSubRound_keeps h ..
  | ppsLoss => exact execPpsLoss_keeps h ..
  | purserRestartComplete => exact execPurserRestartComplete_keeps h ..

theorem step_cons {s : State} {c : Instr} {rest : List Instr} (h : s.pending = c :: rest) : step s = exec c { s with pending := rest } := by
  unfold step; rw [h]

theorem step_nil {s : State} (h : s.pending = []) : step s = .next s := by
  unfold step; rw [h]

/-- A step answers a next state, which keeps everything but the front of the queue. -/
theorem step_keeps (s : State) : KeepsOut { s with pending := s.pending.tail } (step s) := by
  cases h : s.pending with
  | nil =>
    rw [step_nil h]
    exact .next (by rw [List.tail_nil, ← h]; exact .refl s)
  | cons c rest =>
    rw [step_cons h]
    exact exec_keeps (.refl _) c

/-- The invariant says nothing of the queue. -/
theorem State.Inv.withQueue {s : State} (h : s.Inv) (q : List Instr) : State.Inv { s with pending := q } := h

/-- What a step that answers a next state keeps. -/
theorem keeps_of_step {s t : State} (h : step s = .next t) : Keeps { s with pending := s.pending.tail } t := by
  obtain ⟨u, hu, k⟩ := step_keeps s
  rw [h] at hu
  cases hu
  exact k

/-- Settles O1: by the definition of a step. -/
theorem stepServesTheFront : Obligations.StepServesTheFront := by
  unfold Obligations.StepServesTheFront
  exact ⟨fun _ _ _ => step_cons, fun _ => step_nil⟩

/-- Settles O3: every command keeps the queue, and a step is a command or idles. -/
theorem everyCommandCompletes : Obligations.EveryCommandCompletes := by
  unfold Obligations.EveryCommandCompletes
  refine ⟨fun c s => ?_, fun s => ?_⟩
  · obtain ⟨t, ht, k⟩ := exec_keeps (.refl s) c
    exact ⟨t, ht, k.queue⟩
  · obtain ⟨t, ht, _⟩ := step_keeps s
    exact ⟨t, ht⟩

/-- Settles O4: every command keeps the invariant, which does not see the queue. -/
theorem stepKeepsTheInvariant : Obligations.StepKeepsTheInvariant := by
  unfold Obligations.StepKeepsTheInvariant
  exact fun s t hs h => (keeps_of_step h).inv (hs.withQueue _)

/-- Settles O5: the queue, the fuses, the messages and the free values are what every command keeps. -/
theorem whatNoStepUndoes : Obligations.WhatNoStepUndoes := by
  unfold Obligations.WhatNoStepUndoes
  intro s t h
  have k := keeps_of_step h
  exact ⟨k.queue, k.fuses, k.sent, k.free⟩

end Sys2Proof.Machine
end

section
/-! Register accesses that are not accepted (R356, R358, R364, R365, R367, R369, R394), and offsets that no table lists (R423). -/

open Sys2Proof Sys2Proof.Machine

namespace Sys2Proof.Machine

/-- An outcome that is a register write's by w at an offset, whatever its effect when accepted, or one judged further. -/
def WritesAt (s : State) (w : Writer) (a : Nat) (r : Host.Outcome State Fault Refusal) : Prop :=
  (∃ k, r = .next (s.writeBy w a k)) ∨ ∃ bad code latch k, r = .next (s.writeJudged w a bad code latch k)

theorem WritesAt.turnsAway {s : State} {w : Writer} {a : Nat} {r : Host.Outcome State Fault Refusal} (h : WritesAt s w a r) :
    s.turnsAway w a r := by
  rcases h with ⟨k, rfl⟩ | ⟨bad, code, latch, k, rfl⟩
  · exact writeBy_turns ..
  · exact writeJudged_turns ..

/-- Every command that writes a register passes the one judgement of writes; a ferry and a remote access are judged further. -/
theorem exec_writesAt {c : Instr} {w : Writer} {a : Nat} (s : State) (h : c.writes = some (w, a)) : WritesAt s w a (exec c s) := by
  cases c
  case registerWrite w' addr data hw =>
    simp only [Instr.writes, Option.ite_none_right_eq_some, Option.some.injEq, Prod.mk.injEq] at h
    obtain ⟨h4, rfl, rfl⟩ := h
    exact .inl ⟨_, if_neg (not_not.2 h4)⟩
  case cmdInvalid w' op slot =>
    simp only [Instr.writes, Option.ite_none_right_eq_some, Option.some.injEq, Prod.mk.injEq] at h
    obtain ⟨h6, rfl, rfl⟩ := h
    exact .inl ⟨_, congrArg _ (if_neg (Nat.not_lt.2 h6))⟩
  case powerRequestInvalid w' req =>
    simp only [Instr.writes, Option.ite_none_right_eq_some, Option.some.injEq, Prod.mk.injEq] at h
    obtain ⟨rfl, rfl, rfl⟩ := h
    exact .inl ⟨_, congrArg _ (if_pos rfl)⟩
  case ferryStart => cases h; exact .inr ⟨_, _, _, _, rfl⟩
  case raRead | raWrite => cases h; exact .inr ⟨_, _, _, _, congrArg _ (State.raStart.eq_1 ..)⟩
  case sstLoad | sstApply | sstDiscard | storeBoot | clearBoot | slotReady | slotWithdraw | landGo | landCancel | tableDataWrite |
      unifAddressWrite | unifCheckBase | unifCheckField | baseLock | odrvPanelTempWrite | tgEnable | tgDisable | rgnPush | rgnFlush |
      retrain | txOff | calRequest | calMeasure | ffeForce | chainRxForce | marchRequest | marchAbandon | repairRow | repairBank |
      dmaStart | dmaAbort | dmaResume | eddyStart | eddyResume | eddyAbort | ctxSave | ctxRestore | boardStart | ringRestore |
      sensorTx | timeIncrWrite | timeSlewWrite | timeStepArm | ltcJam | swlogPop | txqPop | windowArm | mstThaw | causeAck |
      doorbellRing | evtSoftRaise | manifestRequest | powerRequestRun | powerRequestSlack | powerRequestWinter | warmReset |
      stateRequest =>
    cases h; exact .inl ⟨_, rfl⟩
  all_goals cases h

/-- Every command that reads a register passes the one judgement of reads. -/
theorem exec_readsAt {c : Instr} {w : Writer} {a : Nat} (s : State) (h : c.reads = some (w, a)) :
    ∃ k, exec c s = .next (s.readBy w a k) := by
  cases c
  case lowWordRead | rcRead | tableDataRead | captureLoRead | captureMetaRead => cases h; exact ⟨_, rfl⟩
  all_goals cases h

/-- Settles O7: each command that accesses a register is judged as the register's access is. -/
theorem accessesTurnedAway : Obligations.AccessesTurnedAway := by
  unfold Obligations.AccessesTurnedAway
  refine ⟨fun c w a s h => (exec_writesAt s h).turnsAway, fun c w a s h => ?_⟩
  obtain ⟨k, e⟩ := exec_readsAt s h
  obtain ⟨absent, winter, barred⟩ := readBy_turns s w a k
  simp only [e]
  exact ⟨fun h => by rw [absent h], fun h1 h2 => by rw [winter h1 h2], fun h1 h2 h3 => by rw [barred h1 h2 h3]⟩

/-! Offsets that no table lists. -/

/-- A register that is none has no RWP field, so that a write there is a violation outside the partition alone. -/
theorem writeViolates_unlisted {s : State} {w : Writer} {a : Nat} (h : s.keyOf a = none) :
    s.writeViolates w a = !s.inPartition w a true := by
  simp [State.writeViolates, State.isRwp, h]

/-- A write that is no violation and whose effect is none changes nothing, whether its function is frozen or not. -/
theorem writeBy_idle {s : State} {w : Writer} {a : Nat} {k : State → State} (hw : s.winterDrops w a = false)
    (hv : s.writeViolates w a = false) (hk : k s = s) : s.writeBy w a k = s := by
  simp [State.writeBy, hw, hv, hk]

/-- A read of an offset in no register answers 0 and changes nothing. -/
theorem readBy_unlisted {s : State} {w : Writer} {a : Nat} {k : State → Word × State} (ha : s.answers w = true)
    (hr : s.readAllowed w a = true) (hk : k s = (0, s)) : s.readBy w a k = s.emit (.completion 0) := by
  rw [readBy_allowed ha hr, hk]

/-- Settles O12: the judgement of writes and of reads, where there is no register to write or read. -/
theorem unlistedOffsets : Obligations.UnlistedOffsets := by
  unfold Obligations.UnlistedOffsets
  intro s w addr hk ha hw
  refine ⟨fun data hwSet h4 hp => ?_, fun inc hf hp => ?_, fun data hwSet h4 hp => ?_, fun inc hp => ?_⟩
  · refine (if_neg (not_not.2 h4)).trans (congrArg _ (writeBy_idle hw ?_ ?_))
    · rw [writeViolates_unlisted hk, hp]; rfl
    · rw [hk]
  · have hr : s.readAllowed w addr.toNat = true := by simp [State.readAllowed, hw, hf, hp]
    refine ⟨congrArg _ (readBy_unlisted ha hr ?_), congrArg _ (readBy_unlisted ha hr ?_)⟩
    · dsimp only [State.readAt]; rw [hk]
    · dsimp only [State.readAt]; rw [hk]
  · have hv : s.writeViolates w addr.toNat = true := by rw [writeViolates_unlisted hk, hp]; rfl
    obtain ⟨_, _, violation, _⟩ :=
      (exec_writesAt (c := .registerWrite w addr data hwSet) s (if_pos h4)).turnsAway
    exact violation ha hw hv
  · obtain ⟨k, low⟩ := exec_readsAt (c := .lowWordRead w addr) s rfl
    obtain ⟨k', rc⟩ := exec_readsAt (c := .rcRead w addr inc) s rfl
    rw [low, rc, (readBy_turns s w _ k).2.2 ha hw (.inr hp), (readBy_turns s w _ k').2.2 ha hw (.inr hp)]
    exact ⟨rfl, rfl⟩

end Sys2Proof.Machine
end

section
/-! Event sources: the pending bit, the stamp, the message (R360, R381 to R385). -/

open Sys2Proof Sys2Proof.Machine

namespace Sys2Proof.Machine

theorem pendingField_inWord (src : Nat) : InWord (pendingField src) :=
  ⟨Nat.le_refl _, Nat.mod_lt _ (by decide)⟩

/-- The pending bits of the 768 sources lie below the registers of their routes. -/
theorem pendingField_apart_route {src : Nat} (h : src < 768) {f : Field} (hf : f.addr = R.evtRoute src) : Apart (pendingField src) f :=
  .inl (by simp only [pendingField, hf, R.evtStatus, R.evtRoute]; omega)

/-- The state in which a source is pending and its stamp is asked for where it is routed to the Purser. -/
def State.pended (s : State) (src : Nat) : State :=
  let t := s.put (pendingField src) 1
  { t with purser := { s.purser with stamps := if s.get (F.evtRoutePurser src) = 1 then s.purser.stamps ++ [src] else s.purser.stamps } }

section
variable (s : State) {src : Nat} (h : src < 768)

theorem pended_get_pending (src : Nat) : (s.pended src).get (pendingField src) = 1 := (State.get_mk _ _).trans (psame s src 1)

theorem pended_frame (src : Nat) : Frame [pendingField src] [.purser] s (s.pended src) :=
  purserPart ((Frame.refl _ _ s).put (by simp)) _ (by simp)

/-- Messages can be sent or not whichever sources are pending. -/
theorem pended_fnSends (src f : Nat) : (s.pended src).fnSends f = s.fnSends f := by
  have hp : (s.pended src).get F.glbPowerStatusState = s.get F.glbPowerStatusState :=
    (pended_frame s src).get (.ofBits rfl) (by
      simp only [List.mem_singleton, forall_eq]
      exact .inl (by simp only [pendingField, R.evtStatus, F.glbPowerStatusState, R.glbPowerStatus]; omega))
  unfold State.fnSends
  rw [hp]
  rfl

include h

theorem pended_get {f : Field} (hf : f.addr = R.evtRoute src) (hw : InWord f) : (s.pended src).get f = s.get f :=
  (State.get_mk _ _).trans (State.get_put_other _ (pendingField_apart_route h hf) hw _)

theorem pended_routed : (s.pended src).routed src = s.routed src := by
  have he : (s.pended src).reg (R.evtEnable (src / 32)) = s.reg (R.evtEnable (src / 32)) :=
    (pended_frame s src).reg (by simp only [List.mem_singleton, forall_eq, pendingField, R.evtStatus, R.evtEnable]; omega)
  simp only [State.routed, State.enabledSrc, on_eq, he, pended_get s h (f := F.evtRouteMsixEn src) rfl (.ofBits rfl)]

end

/-- The stamp asked for once the bit is set, as `raise` has it. -/
theorem pended_eq (s : State) {src : Nat} (h : src < 768) : s.pended src =
    let t := s.setBit (R.evtStatus (src / 32)) (src % 32) true
    if t.on (F.evtRoutePurser src) then { t with purser := { t.purser with stamps := t.purser.stamps ++ [src] } } else t := by
  have hp : (s.put (pendingField src) 1).get (F.evtRoutePurser src) = s.get (F.evtRoutePurser src) :=
    State.get_put_other _ (pendingField_apart_route h rfl) (.ofBits rfl) 1
  show _ = if (s.put (pendingField src) 1).on (F.evtRoutePurser src) then _ else _
  rw [on_eq, hp]
  unfold State.pended
  by_cases c : s.get (F.evtRoutePurser src) = 1
  · rw [if_pos c, c]; rfl
  · rw [if_neg c, if_neg (by simpa using c)]; rfl

/-- An implemented source raised is pending, and its message is due where it was not pending and its messages are let through. -/
theorem raise_eq (s : State) {src : Nat} (h : src < 768) (hi : implemented src = true) : s.raise src =
    if s.get (pendingField src) = 0 ∧ s.routed src = true then (s.pended src).messageDue src else s.pended src := by
  have e : s.raise src = if (s.pended src).routed src && (!s.pendingSrc src || false) then (s.pended src).messageDue src else s.pended src := by
    rw [pended_eq s h]
    exact if_neg (by simp [hi])
  rw [e, pended_routed s h, pendingSrc_eq]
  refine if_congr ?_ rfl rfl
  rcases get_bit s (f := pendingField src) rfl with c | c <;> simp [c]

/-! The message that is due. -/

section
variable {t : State} {src : Nat}

theorem messageDue_unsent (h : t.fnSends (vectorFn (t.get (F.evtRouteVector src))) = false) : t.messageDue src = t := if_pos (by simp [h])

variable (h : t.fnSends (vectorFn (t.get (F.evtRouteVector src))) = true)
include h

theorem messageDue_masked (hm : t.maskedVec (t.get (F.evtRouteVector src)) = true) :
    t.messageDue src = t.setPba (t.get (F.evtRouteVector src)) true :=
  (if_neg (by simp [h])).trans (if_pos hm)

theorem messageDue_sent (hm : t.maskedVec (t.get (F.evtRouteVector src)) = false) :
    t.messageDue src =
      let u := (t.setPba (t.get (F.evtRouteVector src)) false).emit (t.msixOut (t.get (F.evtRouteVector src)))
      if t.get (F.evtRouteAutoclr src) = 1 then u.put (pendingField src) 0 else u := by
  refine (if_neg (by simp [h])).trans ((if_neg (by simp [hm])).trans (if_congr ?_ rfl rfl))
  exact on_true_iff t _

end

/-- The message of a vector goes to its entry in the vector table, where it has one. -/
theorem msixOut_entry (s : State) (v : Nat) : ∃ addr data, s.msixOut v = .msix v (vectorFn v) addr data ∧
    ∀ e, s.host.entries.find? (·.vector == v) = some e → addr = e.addr ∧ data = e.data :=
  ⟨_, _, rfl, fun e he => by rw [he]; exact ⟨rfl, rfl⟩⟩

/-- Settles O8: a raised source is pending, and what becomes of its message rests on its route, its function and the vector's mask. -/
theorem eventSources : Obligations.EventSources := by
  unfold Obligations.EventSources
  refine fun s src h => ⟨fun hi => if_pos (by simp [hi]), fun hi => ?_⟩
  intro u v due
  have hu : u = _ := raise_eq s h hi
  have hv : (s.pended src).get (F.evtRouteVector src) = v := pended_get s h rfl (.ofBits rfl)
  have hf := pended_fnSends s src (vectorFn v)
  have ha : (s.pended src).get (F.evtRouteAutoclr src) = s.get (F.evtRouteAutoclr src) := pended_get s h rfl (.ofBits rfl)
  have purser : u.purser = (s.pended src).purser := by
    rw [hu]
    split
    · exact (State.messageDue_frame (Frame.refl _ _ _) src (by simp) (by simp) (by simp)
        : Frame [pendingField src] [.host, .out] _ _).rest .purser (by simp)
    · rfl
  have sends (hd : due) : u = (s.pended src).messageDue src := by
    obtain ⟨hp, hr, _⟩ := hd
    rw [hu, if_pos ⟨hp, hr⟩]
  refine ⟨raiseF s src, purser, fun hd => ?_, fun hd hm => ?_, fun hd hm => ?_⟩
  · have e : u = s.pended src := by
      rw [hu]
      split
      case isTrue c =>
        refine messageDue_unsent ?_
        rw [hv, hf]
        exact Bool.eq_false_iff.2 fun hs => hd ⟨c.1, c.2, hs⟩
      case isFalse => rfl
    rw [e]
    exact ⟨pended_get_pending s src, rfl, rfl⟩
  · have e := messageDue_masked (t := s.pended src) (src := src) (by rw [hv, hf]; exact hd.2.2) (by rw [hv]; exact hm)
    rw [sends hd, e, hv]
    exact ⟨(State.get_mk _ _).trans (pended_get_pending s src), rfl, rfl⟩
  · have e := messageDue_sent (t := s.pended src) (src := src) (by rw [hv, hf]; exact hd.2.2) (by rw [hv]; exact hm)
    obtain ⟨addr, data, hx, entry⟩ := msixOut_entry s v
    rw [sends hd, e, hv, ha]
    dsimp only
    split
    · exact ⟨psame _ src 0, rfl, addr, data, congrArg (· :: s.out) hx, entry⟩
    · exact ⟨(State.get_emit _ _ _).trans ((State.get_mk _ _).trans (pended_get_pending s src)), rfl, addr, data, congrArg (· :: s.out) hx, entry⟩

end Sys2Proof.Machine
end

section
/-! Drop-frame labels (R344, R345). -/

open Sys2Proof Sys2Proof.Machine

namespace Sys2Proof.Machine

/-- At a rate that drops no labels a label is displayed as it is. -/
theorem ltcDisplayed_nondrop {rate : Nat} (h : rate ≠ 4) (label : Nat) : ltcDisplayed rate label = label := if_pos h

theorem ltcLabel_nondrop {rate : Nat} (h : rate ≠ 4) (shown : Nat) : ltcLabel rate shown = shown := if_pos h

/-- Ten minutes hold 17,982 labels. The drops of label m of them are two for each whole minute, the first excepted, and its displayed
count then lies in that minute. -/
theorem dropped_minute {m : Nat} (h : m < 17982) :
    let dropped := if 2 ≤ m then 2 * ((m - 2) / 1798) else 0
    ∃ k ≤ 9, dropped = 2 * k ∧ (m + dropped) / 1800 = k := by
  intro dropped
  refine ⟨(m - 2) / 1798, by omega, ?_, ?_⟩
  · simp only [dropped]; split <;> omega
  · simp only [dropped]; split <;> omega

/-- A drop-frame label is displayed in its minute: the d-th ten minutes, minute k of them. -/
theorem ltcDisplayed_drop (label : Nat) : ∃ k ≤ 9, ltcDisplayed 4 label = label + 18 * (label / 17982) + 2 * k ∧
    ltcDisplayed 4 label / 1800 = 10 * (label / 17982) + k := by
  obtain ⟨k, hk, dropped, minute⟩ := dropped_minute (m := label % 17982) (Nat.mod_lt _ (by decide))
  have e : ltcDisplayed 4 label = label + 18 * (label / 17982) + 2 * k := by rw [← dropped]; rfl
  rw [dropped] at minute
  exact ⟨k, hk, e, by omega⟩

/-- A drop-frame label comes back from its displayed count, which lies in the day. -/
theorem ltcLabel_ltcDisplayed_drop {label : Nat} (h : label < 2589408) :
    ltcLabel 4 (ltcDisplayed 4 label) = label ∧ ltcDisplayed 4 label / 30 < 86400 := by
  obtain ⟨k, hk, e, minute⟩ := ltcDisplayed_drop label
  have l : ltcLabel 4 (ltcDisplayed 4 label) =
      ltcDisplayed 4 label - 2 * (ltcDisplayed 4 label / 1800 - ltcDisplayed 4 label / 1800 / 10) := rfl
  rw [l, minute]
  omega

/-- Settles O49: drop-frame is the one rate at which labels are displayed otherwise; there the minute of the displayed count tells what
was dropped. -/
theorem labelsComeBack : Obligations.LabelsComeBack := by
  unfold Obligations.LabelsComeBack
  intro rate num den per day hr label hl
  have hlt : rate < 6 := (List.getElem?_eq_some_iff.1 hr).1
  by_cases h4 : rate = 4
  · subst h4
    cases hr
    exact ltcLabel_ltcDisplayed_drop hl
  · rw [ltcDisplayed_nondrop h4, ltcLabel_nondrop h4]
    refine ⟨rfl, ?_⟩
    interval_cases rate <;> cases hr <;> omega

end Sys2Proof.Machine
end

section
/-! Power requests and the transitions of Slack (R177, R391 to R393, R395). -/

open Sys2Proof Sys2Proof.Machine

namespace Sys2Proof.Machine

/-! A request judged. -/

/-- A power transition is under way: into or out of Slack, into Winter, or a Thaw. -/
def State.InTransition (s : State) : Prop := s.powerState = 2 ∨ s.powerState = 3 ∨ s.powerState = 4 ∨ s.powerState = 6

theorem powerRefuses_iff (s : State) (r : Nat) : s.powerRefuses r = true ↔ s.InTransition ∨ r = 3 := by
  simp only [State.powerRefuses, State.InTransition, Bool.or_eq_true, beq_iff_eq]
  tauto

/-- The state in which a request is noted with its code. -/
def State.powerAsked (s : State) (r code : Nat) : State := (s.put F.glbPowerCtrlReq r).put F.glbPowerStatusLastCode code

theorem powerAsked_frame (s : State) (r code : Nat) : Frame [F.glbPowerCtrlReq, F.glbPowerStatusLastCode] [] s (s.powerAsked r code) :=
  ((Frame.refl _ _ s).put (by simp)).put (by simp)

theorem powerAsked_req (s : State) {r : Nat} (hr : r < 4) (code : Nat) : (s.powerAsked r code).get F.glbPowerCtrlReq = r :=
  (State.get_put_other _ (.ofRegs rfl) (.ofBits rfl) _).trans (get_put_of_lt _ (.ofBits rfl) hr)

theorem powerAsked_code (s : State) (r : Nat) {code : Nat} (hc : code < 4096) : (s.powerAsked r code).get F.glbPowerStatusLastCode = code :=
  get_put_of_lt _ (.ofBits rfl) hc

theorem powerAsked_powerState (s : State) (r code : Nat) : (s.powerAsked r code).powerState = s.powerState :=
  (powerAsked_frame s r code).get (.ofBits rfl) (by
    simp only [List.forall_mem_cons, List.not_mem_nil, false_implies, implies_true, and_true]
    exact ⟨.ofRegs rfl, .ofBits rfl⟩)

theorem powerAsked_inWinter (s : State) (r code : Nat) : (s.powerAsked r code).inWinter = (s.powerState == 5) := by
  unfold State.inWinter
  rw [powerAsked_powerState]

theorem powerAsked_running (s : State) (r code n : Nat) : (s.powerAsked r code).running n = s.running n := by
  have h := (powerAsked_frame s r code).get (g := F.tgStatusRun n) (.ofBits rfl) (by
    simp only [List.forall_mem_cons, List.not_mem_nil, false_implies, implies_true, and_true]
    constructor <;> exact .inl (by simp only [F.glbPowerCtrlReq, R.glbPowerCtrl, F.glbPowerStatusLastCode, R.glbPowerStatus, F.tgStatusRun, R.tgStatus]; omega))
  simp only [State.running, on_eq, h]

/-- An accepted request: refused with its event, or taken up with code 0. -/
theorem powerRequest_accepts {s : State} {w : Writer} (h : s.accepts w R.glbPowerCtrl = true) (r : Nat) (k : State → State) :
    s.powerRequest w r k = if s.powerRefuses r then (s.powerAsked r 0x711).raise 7 else k (s.powerAsked r 0) := by
  have hp : (s.put F.glbPowerCtrlReq r).powerState = s.powerState := State.get_put_other _ (.ofRegs rfl) (.ofBits rfl) _
  have hr : (s.put F.glbPowerCtrlReq r).powerRefuses r = s.powerRefuses r := by
    unfold State.powerRefuses
    rw [hp]
  refine (State.writeBy_accepts h).trans ?_
  dsimp only
  rw [hr]
  rfl

/-- A refused request: noted with 0x711 and its event, nothing else. -/
theorem powerRefused_yields {c : Instr} {s : State} {r : Nat} (hr : r < 4) (h : exec c s = .next ((s.powerAsked r 0x711).raise 7)) :
    Yields c s [7] [F.glbPowerCtrlReq, F.glbPowerStatusLastCode] [] fun u =>
      u.get F.glbPowerCtrlReq = r ∧ u.get F.glbPowerStatusLastCode = 0x711 :=
  .intro h (powerAsked_frame s r _) ⟨powerAsked_req s hr _, powerAsked_code s r (by decide)⟩

/-! The entry into Winter. -/

/-- The state in which Winter is ENTERING, the running outputs kept to be woken. -/
def State.entering (u : State) : State :=
  (u.puts [(F.glbPowerStatusWakeOutputs, ofBits ((List.range 4).map u.running)), (F.glbPowerStatusState, 4)]).setPower fun p =>
    { p with thawTarget := u.powerState }

theorem entering_frame (u : State) : Frame [F.glbPowerStatusWakeOutputs, F.glbPowerStatusState] [.power] u u.entering :=
  setPower_frame ((Frame.refl _ _ u).puts (by simp)) _ (by simp)

theorem entering_state (u : State) : u.entering.get F.glbPowerStatusState = 4 :=
  (State.get_mk _ _).trans (get_put_of_lt _ (.ofBits rfl) (by decide))

theorem entering_wake (u : State) {n : Nat} (hn : n < 4) : bit (u.entering.get F.glbPowerStatusWakeOutputs) n = u.running n := by
  obtain ⟨small, bits⟩ := ofBits4 u.running
  have e : u.entering.get F.glbPowerStatusWakeOutputs = ofBits ((List.range 4).map u.running) :=
    (State.get_mk _ _).trans ((State.get_put_other _ (.ofBits rfl) (.ofBits rfl) _).trans (get_put_of_lt _ (.ofBits rfl) small))
  rw [e, bits n hn]

/-! The commands. -/

section
variable {s : State} {w : Writer} (h : s.accepts w R.glbPowerCtrl = true)
include h

theorem exec_powerRequestRun : exec (.powerRequestRun w) s = .next (if s.powerRefuses 0 then (s.powerAsked 0 0x711).raise 7
    else if s.powerState = 1 then (s.powerAsked 0 0).beginSlack false
    else if s.powerState = 5 then (s.powerAsked 0 0).beginThaw 0 else s.powerAsked 0 0) := by
  refine congrArg _ ((powerRequest_accepts h 0 _).trans ?_)
  simp only [powerAsked_powerState, powerAsked_inWinter, beq_iff_eq]

theorem exec_powerRequestSlack : exec (.powerRequestSlack w) s = .next (if s.powerRefuses 1 then (s.powerAsked 1 0x711).raise 7
    else if s.powerState = 0 then (s.powerAsked 1 0).beginSlack true
    else if s.powerState = 5 then (s.powerAsked 1 0).beginThaw 1 else s.powerAsked 1 0) := by
  refine congrArg _ ((powerRequest_accepts h 1 _).trans ?_)
  simp only [powerAsked_powerState, powerAsked_inWinter, beq_iff_eq]

theorem exec_powerRequestWinter : exec (.powerRequestWinter w) s = .next (if s.powerRefuses 2 then (s.powerAsked 2 0x711).raise 7
    else if s.powerState = 5 then s.powerAsked 2 0
    else (List.range 4).foldl (fun x n => if x.running n then x.disable n else x) (s.powerAsked 2 0).entering) := by
  refine congrArg _ ((powerRequest_accepts h 2 _).trans ?_)
  simp only [powerAsked_inWinter, beq_iff_eq]
  rfl

theorem exec_powerRequestInvalid (r : Fin 4) :
    exec (.powerRequestInvalid w r) s = .next (if s.powerRefuses r then (s.powerAsked r 0x711).raise 7 else s) := by
  refine congrArg _ (ite_congr rfl (fun hr => ?_) fun _ => rfl)
  rw [powerRequest_accepts h, if_pos hr]

end

/-! The transitions of Slack. -/

theorem beginThaw_spec (s : State) (target : Nat) : Frame [F.glbPowerStatusState] [.power] s (s.beginThaw target) ∧
    (s.beginThaw target).get F.glbPowerStatusState = 6 :=
  ⟨setPower_frame ((Frame.refl _ _ s).put (by simp)) _ (by simp), (State.get_mk _ _).trans (get_put_of_lt _ (.ofBits rfl) (by decide))⟩

/-- Every output is in Slack, or none is, by the list of the outputs' states. -/
theorem slackCheck_eq (s : State) : s.slackCheck =
    if s.powerState = 2 ∧ ∀ o ∈ s.outs, o.inSlack = true then (s.put F.glbPowerStatusState 1).raise 2
    else if s.powerState = 3 ∧ ∀ o ∈ s.outs, o.inSlack = false then (s.put F.glbPowerStatusState 0).raise 3
    else s := by
  unfold State.slackCheck
  simp only [List.all_eq_true, Bool.not_eq_true', List.any_eq_false, Bool.not_eq_true]

/-- A transition of Slack begun: the idle outputs make it at once. -/
theorem beginSlack_spec (s : State) (enter : Bool) : ∃ u, s.beginSlack enter = u.slackCheck ∧
    Frame [F.glbPowerStatusState] [.output 0, .output 1, .output 2, .output 3] s u ∧ u.get F.glbPowerStatusState = (if enter then 2 else 3) ∧
    ∀ n o, n < 4 → s.outs[n]? = some o → u.outs[n]? = some (if s.running n then o else { o with inSlack := enter }) := by
  obtain ⟨u, e, frame, outs⟩ := slackFold enter (s.put F.glbPowerStatusState (if enter then 2 else 3))
  refine ⟨u, congrArg State.slackCheck e, .trans ((Frame.refl _ _ s).put (by simp)) (frame.mono (by simp) fun _ h => h), ?_, fun n o hn ho => ?_⟩
  · rw [frame.get (.ofBits rfl) (by simp)]
    exact get_put_of_lt _ (.ofBits rfl) (by cases enter <;> decide)
  · have running : (s.put F.glbPowerStatusState (if enter then 2 else 3)).running n = s.running n := by
      simp only [State.running, on_eq]
      rw [State.get_put_other _ (.inl (by simp only [F.glbPowerStatusState, R.glbPowerStatus, F.tgStatusRun, R.tgStatus]; omega)) (.ofBits rfl)]
    rw [← running]
    exact outs n o hn ho

/-- Gating ends on every output. -/
def State.slackLeft (s : State) : State := (List.range 4).foldl (fun t n => t.setOut n fun o => { o with inSlack := false }) s

theorem slackLeft_spec (s : State) : Frame [] [.output 0, .output 1, .output 2, .output 3] s s.slackLeft ∧
    ∀ n o, n < 4 → s.outs[n]? = some o → s.slackLeft.outs[n]? = some { o with inSlack := false } := by
  refine ⟨?_, fun n o hn ho => ?_⟩
  · exact State.setOut_frame (State.setOut_frame (State.setOut_frame (State.setOut_frame (Frame.refl _ _ s) 0 _ (by simp)) 1 _ (by simp))
      2 _ (by simp)) 3 _ (by simp)
  · have e : s.slackLeft.outs = updAt (updAt (updAt (updAt s.outs 0 _) 1 _) 2 _) 3 _ := rfl
    rw [e]
    interval_cases n <;> simp [ho]

/-- Settles O50: a request by the power state, and the ends of the transitions by what the outputs show. -/
theorem powerRequests : Obligations.PowerRequests := by
  unfold Obligations.PowerRequests
  refine ⟨fun s w h => ?_, fun s target => ⟨_, rfl, (beginThaw_spec s target).1, (beginThaw_spec s target).2, rfl⟩, fun s enter => ?_, fun s => ⟨fun h => ?_, fun h => ?_, ?_⟩⟩
  · intro request inTransition refusedBy
    refine ⟨fun r hr => ?_, fun r hr => ?_, fun r ht h3 => ?_, fun ht r => ?_⟩
    · refine powerRefused_yields r.isLt ?_
      rw [exec_powerRequestInvalid h, if_pos ((powerRefuses_iff s r).2 hr)]
    · have refuses (r : Nat) : s.powerRefuses r = true := (powerRefuses_iff s r).2 (.inl hr)
      match r with
      | 0 => exact powerRefused_yields (by decide) ((exec_powerRequestRun h).trans (congrArg _ (if_pos (refuses 0))))
      | 1 => exact powerRefused_yields (by decide) ((exec_powerRequestSlack h).trans (congrArg _ (if_pos (refuses 1))))
      | 2 => exact powerRefused_yields (by decide) ((exec_powerRequestWinter h).trans (congrArg _ (if_pos (refuses 2))))
    · rw [exec_powerRequestInvalid h, if_neg]
      rw [powerRefuses_iff]
      exact not_or.2 ⟨ht, h3⟩
    · have takes {r : Nat} (hr : r < 3) : ¬ s.powerRefuses r = true := by
        rw [powerRefuses_iff]
        exact not_or.2 ⟨ht, by omega⟩
      refine ⟨s.powerAsked r 0, powerAsked_frame s r 0, powerAsked_req s (by omega) 0, powerAsked_code s r (by decide), ?_⟩
      match r with
      | 0 =>
        have e := (exec_powerRequestRun h).trans (congrArg _ (if_neg (takes (by decide))))
        refine ⟨fun hp => ?_, fun hp _ => ?_, nofun, fun hp _ => ?_, nofun⟩
        · rcases hp with hp | ⟨_, hp⟩
          · exact e.trans (by rw [if_neg (by rw [hp]; decide), if_neg (by rw [hp]; decide)]; rfl)
          · cases hp
        · exact e.trans (by rw [if_pos hp]; rfl)
        · exact e.trans (by rw [if_neg (by rw [hp]; decide), if_pos hp]; rfl)
      | 1 =>
        have e := (exec_powerRequestSlack h).trans (congrArg _ (if_neg (takes (by decide))))
        refine ⟨fun hp => ?_, nofun, fun hp _ => ?_, fun hp _ => ?_, nofun⟩
        · rcases hp with hp | ⟨_, hp⟩
          · exact e.trans (by rw [if_neg (by rw [hp]; decide), if_neg (by rw [hp]; decide)]; rfl)
          · cases hp
        · exact e.trans (by rw [if_pos hp]; rfl)
        · exact e.trans (by rw [if_neg (by rw [hp]; decide), if_pos hp]; rfl)
      | 2 =>
        have e := (exec_powerRequestWinter h).trans (congrArg _ (if_neg (takes (by decide))))
        refine ⟨fun hp => ?_, nofun, nofun, nofun, fun hp _ => ⟨(s.powerAsked 2 0).entering, entering_frame _, entering_state _, ?_, ?_, ?_⟩⟩
        · rcases hp with hp | ⟨hp, _⟩
          · exact absurd (.inl hp) ht
          · exact e.trans (by rw [if_pos hp]; rfl)
        · show { s.power with thawTarget := (s.powerAsked 2 0).powerState } = _
          rw [powerAsked_powerState]
        · exact fun n hn => (entering_wake _ hn).trans (powerAsked_running s 2 0 n)
        · exact e.trans (by rw [if_neg (by omega)])
  · exact beginSlack_spec s enter
  · exact congrArg _ (if_neg h)
  · exact ⟨s.slackLeft, congrArg _ (if_pos h), slackLeft_spec s⟩
  · intro all none'
    rw [slackCheck_eq]
    refine ⟨fun h2 ha => ⟨_, if_pos ⟨h2, ha⟩, (Frame.refl _ _ s).put (by simp), get_put_of_lt _ (.ofBits rfl) (by decide)⟩,
      fun h3 hn => ⟨s.put F.glbPowerStatusState 0, ?_, (Frame.refl _ _ s).put (by simp), get_put_of_lt _ (.ofBits rfl) (by decide)⟩, fun h2 h3 => ?_⟩
    · rw [if_neg (by rw [h3]; simp), if_pos ⟨h3, hn⟩]
    · rw [if_neg h2, if_neg h3]

end Sys2Proof.Machine
end

section
/-! Captures, stamps, the two stamp queues and the windows (R339 to R342). -/

open Sys2Proof Sys2Proof.Machine

namespace Sys2Proof.Machine

/-! Captures (R339). -/

theorem cap_of {s : State} {k : Nat} {c : Capture} (h : s.time.caps[k]? = some c) : s.cap k = c := by
  simp [State.cap, h]

/-- The registers that a read of a capture's low word copies the rest into. -/
def State.capShown (s : State) (k : Nat) (c : Capture) : State :=
  s.puts [(F.timeCapHiNs k, c.time / 2 ^ 64), (F.timeCapFracFrac k, c.time), (F.timeCapMetaEpoch k, c.epoch),
    (F.timeCapMetaInWin k, c.inWin), (F.timeCapMetaNew k, c.isNew.toNat)]

theorem capShown_get (s : State) (k : Nat) (c : Capture) :
    let u := s.capShown k c
    u.get (F.timeCapHiNs k) = c.time / 2 ^ 64 % 2 ^ 32 ∧ u.get (F.timeCapFracFrac k) = c.time % 2 ^ 32 ∧
      u.get (F.timeCapMetaEpoch k) = c.epoch % 2 ^ 16 ∧ u.get (F.timeCapMetaInWin k) = c.inWin % 2 ^ 4 ∧
      u.get (F.timeCapMetaNew k) = c.isNew.toNat := by
  simp (disch := first | exact .ofBits rfl | exact .ofBases rfl rfl rfl) only
    [State.capShown, State.puts_cons, State.puts_nil, State.get_put_same, State.get_put_other]
  exact ⟨rfl, rfl, rfl, rfl, Nat.mod_eq_of_lt (Bool.toNat_lt _)⟩

theorem exec_captureLoRead {s : State} {w : Writer} {k : Fin 5} {c : Capture} (ha : s.answers w = true)
    (hr : s.readAllowed w (R.timeCapLo k) = true) (hc : s.time.caps[k.val]? = some c) :
    exec (.captureLoRead w k) s = .next (((s.capShown k c).setTime fun x =>
      { x with caps := updAt x.caps k fun c => { c with since := false } }).emit (.completion (s.reg (R.timeCapLo k)))) := by
  rw [← cap_of hc]
  exact congrArg _ (readBy_allowed ha hr)

theorem exec_captureMetaRead {s : State} {w : Writer} {k : Fin 5} (ha : s.answers w = true)
    (hr : s.readAllowed w (R.timeCapMeta k) = true) :
    exec (.captureMetaRead w k) s = .next ((s.setTime fun x =>
      { x with caps := updAt x.caps k fun c => if c.since then c else { c with isNew := false } }).emit
        (.completion (s.reg (R.timeCapMeta k)))) :=
  congrArg _ (readBy_allowed ha hr)

/-! The Purser's stamps and the two queues (R340, R341). -/

theorem exec_purserStampRead_idle {s : State} (h : s.purser.stamps = [] ∨ s.purser.serving = false) (sub : BitVec 35) :
    exec (.purserStampRead sub) s = .next s := by
  show execPurserStampRead sub s = _
  unfold execPurserStampRead
  cases hs : s.purser.stamps with
  | nil => rfl
  | cons src rest =>
    refine if_pos ?_
    rcases h with h | h
    · rw [hs] at h; cases h
    · simp [h]

/-- The oldest stamp asked for is taken. -/
def State.stampTaken (s : State) (rest : List Nat) : State := { s with purser := { s.purser with stamps := rest } }

theorem exec_purserStampRead {s : State} {src : Nat} {rest : List Nat} (hs : s.purser.stamps = src :: rest) (hv : s.purser.serving = true)
    (sub : BitVec 35) : exec (.purserStampRead sub) s = .next (
      if 32 ≤ s.time.swlog.length then ((s.stampTaken rest).count F.timeSwlogDropsCount 1).raise 550
      else ((s.stampTaken rest).setTime fun x => { x with swlog := x.swlog ++
        [⟨addTime (s.stampNow sub.toNat) (-(30 * (nsUnit : Int))), s.epoch, src⟩] }).showSwlog) := by
  show execPurserStampRead sub s = _
  unfold execPurserStampRead
  rw [hs]
  exact if_neg (by simp [hv])

theorem showSwlog_spec (s : State) :
    Frame [F.timeSwlogHeadEpoch, F.timeSwlogHeadSource, F.timeSwlogLoNs, F.timeSwlogHiNs, F.timeSwlogFracFrac, F.timeSwlogCountCount] []
      s s.showSwlog ∧ s.showSwlog.get F.timeSwlogCountCount = s.time.swlog.length % 2 ^ 6 ∧
    ∀ e rest, s.time.swlog = e :: rest → s.showSwlog.get F.timeSwlogHeadEpoch = e.epoch % 2 ^ 16 ∧
      s.showSwlog.get F.timeSwlogHeadSource = e.id % 2 ^ 10 ∧ s.showSwlog.get F.timeSwlogLoNs = e.time / nsUnit % 2 ^ 32 ∧
      s.showSwlog.get F.timeSwlogHiNs = e.time / 2 ^ 64 % 2 ^ 32 ∧ s.showSwlog.get F.timeSwlogFracFrac = e.time % 2 ^ 32 := by
  refine ⟨(Frame.refl _ _ s).puts (by simp), State.get_put_same _ (.ofBits rfl) _, fun e rest h => ?_⟩
  simp (disch := first | exact .ofBits rfl | exact .ofRegs rfl) only
    [State.showSwlog, h, List.headD_cons, State.puts_cons, State.puts_nil, State.get_put_same, State.get_put_other]
  exact ⟨rfl, rfl, rfl, rfl, rfl⟩

theorem showTxq_spec (s : State) :
    Frame [F.timeTxqHeadEpoch, F.timeTxqHeadId, F.timeTxqLoNs, F.timeTxqHiNs, F.timeTxqFracFrac, F.timeTxqCtrlCount] [] s s.showTxq ∧
    s.showTxq.get F.timeTxqCtrlCount = s.time.txq.length % 2 ^ 5 ∧
    ∀ e rest, s.time.txq = e :: rest → s.showTxq.get F.timeTxqHeadEpoch = e.epoch % 2 ^ 16 ∧
      s.showTxq.get F.timeTxqHeadId = e.id % 2 ^ 16 ∧ s.showTxq.get F.timeTxqLoNs = e.time / nsUnit % 2 ^ 32 ∧
      s.showTxq.get F.timeTxqHiNs = e.time / 2 ^ 64 % 2 ^ 32 ∧ s.showTxq.get F.timeTxqFracFrac = e.time % 2 ^ 32 := by
  refine ⟨(Frame.refl _ _ s).puts (by simp), State.get_put_same _ (.ofBits rfl) _, fun e rest h => ?_⟩
  simp (disch := first | exact .ofBits rfl | exact .ofRegs rfl) only
    [State.showTxq, h, List.headD_cons, State.puts_cons, State.puts_nil, State.get_put_same, State.get_put_other]
  exact ⟨rfl, rfl, rfl, rfl, rfl⟩

theorem exec_swlogPop {s : State} {w : Writer} (h : s.accepts w R.timeSwlogPop = true) :
    exec (.swlogPop w) s = .next (s.setTime fun x => { x with swlog := x.swlog.drop 1 }).showSwlog := congrArg _ (State.writeBy_accepts h)

theorem exec_txqPop {s : State} {w : Writer} (h : s.accepts w R.timeTxqPop = true) :
    exec (.txqPop w) s = .next (s.setTime fun x => { x with txq := x.txq.drop 1, txqTold := false }).showTxq :=
  congrArg _ (State.writeBy_accepts h)

/-! Windows (R342). -/

/-- The bounds of a window are not in the register that arms it. -/
theorem winBounds_put_epoch (s : State) (k v : Nat) : (s.put (F.timeWinCtrlEpoch k) v).winOpen k = s.winOpen k ∧
    (s.put (F.timeWinCtrlEpoch k) v).winClose k = s.winClose k := by
  unfold State.winOpen State.winClose
  constructor <;> rw [State.get_put_other _ (.ofBases rfl rfl rfl) (.ofBits rfl), State.get_put_other _ (.ofBases rfl rfl rfl) (.ofBits rfl)]

theorem exec_windowArm {s : State} {w : Writer} {k : Fin 4} (h : s.accepts w (R.timeWinCtrl k) = true) (e : BitVec 16) :
    exec (.windowArm w k e) s = .next (
      let u := s.put (F.timeWinCtrlEpoch k) e.toNat
      if s.winClose k ≤ s.winOpen k then u.put F.timeStatusLastCode 0x606 else (u.put (F.timeWinCtrlEn k) 1).checkWindows) := by
  obtain ⟨opens, closes⟩ := winBounds_put_epoch s k e.toNat
  refine congrArg _ ((State.writeBy_accepts h).trans ?_)
  dsimp only
  rw [opens, closes]

theorem timeWinCtrlEpoch_put (s : State) (k : Nat) (e : BitVec 16) : (s.put (F.timeWinCtrlEpoch k) e.toNat).get (F.timeWinCtrlEpoch k) = e.toNat :=
  get_put_of_lt _ (.ofBits rfl) (by simp only [F.timeWinCtrlEpoch]; exact e.isLt)

/-- Settles O47: each stamp, read and queue by its equation of `exec`; a window by its bounds. -/
theorem stampsAndWindows : Obligations.StampsAndWindows := by
  unfold Obligations.StampsAndWindows
  refine fun s => ⟨fun k sub => ?_, fun w k c ha hr hc => ?_, fun w k c ha hr hc => ?_, fun sub h => exec_purserStampRead_idle h sub,
    fun sub src rest hs hv => ⟨fun hl => ?_, fun hl => ?_⟩, ⟨_, rfl, showSwlog_spec s⟩, ⟨_, rfl, showTxq_spec s⟩, fun w h => ?_, fun w h => ?_,
    fun w k e h => ⟨fun hb => ?_, fun hb => ?_⟩⟩
  · exact ⟨_, rfl, (State.setTime_frame (Frame.refl _ _ s) _ (by simp)).put (by simp), State.get_put_same _ (.ofBits rfl) _, rfl⟩
  · refine .quiet (exec_captureLoRead ha hr hc) ?_ ⟨rfl, updAt_some hc, ?_⟩
    · exact (State.setTime_frame ((Frame.refl _ _ s).puts (by simp)) _ (by simp)).emit (by simp)
    · simp only [State.get_emit, State.setTime_get]
      exact capShown_get s k c
  · exact .quiet (exec_captureMetaRead ha hr) ((State.setTime_frame (Frame.refl _ _ s) _ (by simp)).emit (by simp)) ⟨rfl, updAt_some hc⟩
  · refine ⟨_, (exec_purserStampRead hs hv sub).trans (congrArg _ (if_neg (by omega))), ?_, rfl, rfl⟩
    exact State.setTime_frame (purserPart (Frame.refl _ _ s) _ (by simp)) _ (by simp)
  · refine .intro ((exec_purserStampRead hs hv sub).trans (congrArg _ (if_pos hl))) ?_ ⟨rfl, ?_⟩
    · exact (purserPart (Frame.refl _ _ s) _ (by simp)).count (by simp)
    · rw [count_get _ _ 1 (.ofBits rfl)]; rfl
  · exact ⟨_, exec_swlogPop h, State.setTime_frame (Frame.refl _ _ s) _ (by simp), rfl⟩
  · exact ⟨_, exec_txqPop h, State.setTime_frame (Frame.refl _ _ s) _ (by simp), rfl⟩
  · refine .quiet ((exec_windowArm h e).trans (congrArg _ (if_pos hb))) (((Frame.refl _ _ s).put (by simp)).put (by simp)) ⟨?_, ?_⟩
    · rw [State.get_put_other _ (.inl (by simp only [F.timeStatusLastCode, R.timeStatus, F.timeWinCtrlEpoch, R.timeWinCtrl]; omega)) (.ofBits rfl)]
      exact timeWinCtrlEpoch_put s k e
    · exact get_put_of_lt _ (.ofBits rfl) (by decide)
  · refine ⟨_, (exec_windowArm h e).trans (congrArg _ (if_neg (by omega))), ((Frame.refl _ _ s).put (by simp)).put (by simp), ?_, ?_⟩
    · rw [State.get_put_other _ (.ofBits rfl) (.ofBits rfl)]
      exact timeWinCtrlEpoch_put s k e
    · exact get_put_of_lt _ (.ofBits rfl) (by simp [F.timeWinCtrlEn])

end Sys2Proof.Machine
end

section
/-! Ticks, the time boundary, and the writes of INCR, SLEW and STEP (R326 to R332, R342, R348). -/

open Sys2Proof Sys2Proof.Machine

namespace Sys2Proof.Machine

/-! Ticks. -/

theorem exec_timeTick_off {s : State} (h : s.power.off = true) : exec .timeTick s = .next s := if_pos h

theorem exec_timeTick_winter {s : State} (ho : s.power.off = false) (h : s.inWinter = true ∨ s.power.fabricOff = true) :
    exec .timeTick s = .next (s.setTime fun x => { x with now := addTime x.now winterStep, ticks := x.ticks + 7629 }) :=
  (if_neg (by simp [ho])).trans (if_pos (by simpa using h))

theorem setTime_inWindow (s : State) (f : TimeState → TimeState) (k now e : Nat) : (s.setTime f).inWindow k now e = s.inWindow k now e := rfl

theorem setTime_epoch (s : State) (f : TimeState → TimeState) : (s.setTime f).epoch = s.epoch := rfl

/-- The state after a tick but for what waits at the gate: the time moved on, its windows and pulses met, the slew reduced. -/
def State.ticked (s : State) : State :=
  (s.tick ((s.timeIncr : Int) + s.slewStep) 1).setTime fun x => { x with slew := x.slew - s.slewStep, slewed := x.slewed + s.slewStep }

theorem exec_timeTick {s : State} (ho : s.power.off = false) (hw : s.inWinter = false) (hf : s.power.fabricOff = false) :
    exec .timeTick s = .next (((s.ticked.holdGo s).remoteGo s).streamGo s) :=
  (if_neg (by simp [ho])).trans (if_neg (by simp [hw, hf]))

theorem pulseAt_spec {T : List Field} {P : List Part} {s t : State} (h : Frame T P s t) (m : .out ∈ P) (mode period before now : Nat) :
    Frame T P s (t.pulseAt mode period before now) ∧ (t.pulseAt mode period before now).time = t.time := by
  unfold State.pulseAt
  split
  · exact ⟨h, rfl⟩
  · exact refPulse_spec h m ..

/-- The pulses and cycles that a tick meets are messages, nothing else. -/
theorem tick_pulses (s : State) (add : Int) (ticks : Nat) :
    let t := (s.setTime fun x => { x with now := addTime x.now add, ticks := x.ticks + ticks }).checkWindows
    Frame [] [.out] t (s.tick add ticks) ∧ (s.tick add ticks).time = t.time := by
  intro t
  have second := pulseAt_spec (Frame.refl [] [.out] t) (by simp) 2 secUnit s.time.now (addTime s.time.now add)
  have short := pulseAt_spec second.1 (by simp) 3 (100 * nsUnit) s.time.now (addTime s.time.now add)
  have cycles := refDivide_spec short.1 (by simp)
  exact ⟨cycles.1, cycles.2.trans (short.2.trans second.2)⟩

theorem ticked_frame (s : State) : Frame windowFields [.time, .purser, .host, .out] s s.ticked := by
  refine State.setTime_frame (.trans ?_ ((tick_pulses s _ 1).1.mono (by simp) (by simp))) _ (by simp)
  exact (State.setTime_frame (Frame.refl _ _ s) _ (by simp)).trans ((checkWindows_spec _).1.mono (fun _ h => h) (by simp))

theorem ticked_time (s : State) : s.ticked.time = { s.time with
    now := addTime s.time.now (s.timeIncr + s.slewStep), ticks := s.time.ticks + 1,
    slew := s.time.slew - s.slewStep, slewed := s.time.slewed + s.slewStep } := by
  have h := (tick_pulses s ((s.timeIncr : Int) + s.slewStep) 1).2
  rw [(checkWindows_spec _).2.1] at h
  unfold State.ticked
  rw [State.setTime_time, h, State.setTime_time]

theorem ticked_windows (s : State) {k : Nat} (hk : k < 4) :
    s.ticked.get (F.timeWinCtrlOpen k) = 1 ↔ s.inWindow k s.ticked.time.now s.epoch = true := by
  have h := (tick_pulses s ((s.timeIncr : Int) + s.slewStep) 1).1.get (g := F.timeWinCtrlOpen k) (.ofBits rfl) (by simp)
  rw [ticked_time]
  unfold State.ticked
  rw [State.setTime_get, h]
  have w := (checkWindows_spec (s.setTime fun x => { x with now := addTime x.now ((s.timeIncr : Int) + s.slewStep), ticks := x.ticks + 1 })).2.2 k hk
  rw [setTime_inWindow, setTime_epoch, State.setTime_time] at w
  exact w

/-- With no test under way, no channel at work and nothing waiting at the gate a tick is its time alone. -/
theorem tickGo_idle {u s : State} (ht : u.hold.test = none) (hb : s.anyChanBusy = false) (hr : u.chain.remote = [])
    (hw : ∀ n, n < 4 → s.txWaits n = false ∧ s.rxWaits n = false) : ((u.holdGo s).remoteGo s).streamGo s = u := by
  have march : u.marchGo = u := by unfold State.marchGo; rw [ht]
  have hold : u.holdGo s = u := by simp [State.holdGo, hb, march]
  have remote : u.remoteGo s = u := by
    unfold State.remoteGo
    rw [hr, List.foldl_nil, ← hr]
  rw [hold, remote]
  unfold State.streamGo
  simp only [show List.range 4 = [0, 1, 2, 3] from rfl, List.foldl_cons, List.foldl_nil, (hw 0 (by decide)).1, (hw 0 (by decide)).2,
    (hw 1 (by decide)).1, (hw 1 (by decide)).2, (hw 2 (by decide)).1, (hw 2 (by decide)).2, (hw 3 (by decide)).1, (hw 3 (by decide)).2,
    Bool.false_eq_true, if_false]

/-! The time boundary. -/

theorem exec_timeBoundary (s : State) : exec .timeBoundary s =
    if (s.get F.timeCtrlSecond = 0 ∧ s.running (s.get F.timeCtrlFrameOut) = true) ∨ s.time.now % secUnit < 5 * nsUnit then .next s.boundary
    else .next s := by
  refine if_congr ?_ rfl rfl
  simp only [Bool.or_eq_true, Bool.and_eq_true, Bool.not_eq_true', decide_eq_true_eq, on_false_iff s (f := F.timeCtrlSecond) rfl]

theorem noteJump_time (s : State) (d : Int) : (s.noteJump d).time = s.time := by
  unfold State.noteJump
  split
  · rw [raise_time]; split <;> rfl
  · rfl

theorem noteJump_small {s : State} {d : Int} (h : d.natAbs ≤ s.jumpLimit) : s.noteJump d = s := if_neg (Nat.not_lt.2 h)

theorem noteJump_large {s : State} {d : Int} (h : s.jumpLimit < d.natAbs) :
    s.noteJump d = (if d < 0 ∧ s.timeRole ≠ 2 then s.put F.timeEpochEpoch (s.epoch + 1) else s).raise 546 := if_pos h

/-- A waiting step applied, but for what it says of a jump. -/
def State.stepApplied (s : State) (d : Int) : State :=
  let t := (s.setTime fun x => { x with step := none, now := addTime x.now (d * (nsUnit : Int)) }).put F.timeStatusStepPending 0
  if s.on F.timeStatusDisciplined then t else t.put F.timeStatusDegraded 0

theorem bStep_some {s : State} {d : Int} (h : s.time.step = some d) : bStep s = (s.stepApplied d).noteJump (d * (nsUnit : Int)) := by
  unfold bStep
  rw [h]
  dsimp only
  rw [on_eq, State.get_put_other _ (.ofBits rfl) (.ofBits rfl), State.setTime_get]
  rfl

theorem stepApplied_frame (s : State) (d : Int) :
    Frame [F.timeStatusStepPending, F.timeStatusDegraded] [.time] s (s.stepApplied d) := by
  have h : Frame [F.timeStatusStepPending, F.timeStatusDegraded] [.time] s _ :=
    (State.setTime_frame (Frame.refl _ _ s) (fun x => { x with step := none, now := addTime x.now (d * (nsUnit : Int)) }) (by simp)).put
      (f := F.timeStatusStepPending) (v := 0) (by simp)
  unfold State.stepApplied
  dsimp only
  split
  · exact h
  · exact h.put (by simp)

theorem stepApplied_time (s : State) (d : Int) :
    (s.stepApplied d).time = { s.time with step := none, now := addTime s.time.now (d * (nsUnit : Int)) } := by
  unfold State.stepApplied
  dsimp only
  split
  · rw [State.put_time, State.setTime_time]
  · rw [State.put_time, State.put_time, State.setTime_time]

theorem stepApplied_get (s : State) (d : Int) : (s.stepApplied d).get F.timeStatusStepPending = 0 ∧
    (s.stepApplied d).get F.timeStatusDegraded = (if s.on F.timeStatusDisciplined then s.get F.timeStatusDegraded else 0) := by
  unfold State.stepApplied
  cases s.on F.timeStatusDisciplined
  · simp (disch := exact .ofBits rfl) only [Bool.false_eq_true, if_false, State.get_put_same, State.get_put_other]
    exact ⟨rfl, rfl⟩
  · simp (disch := exact .ofBits rfl) only [if_true, State.get_put_same, State.get_put_other, State.setTime_get]
    exact ⟨rfl, trivial⟩

/-- A waiting jump applied, but for what it says of itself: slewed out, or the time moved. -/
def State.jumpApplied (s : State) (d : Int) : State :=
  (s.setTime fun x =>
    if s.jumpSlews then { x with jump := none, slew := d, samples := [], secondOffset := none }
    else { x with jump := none, samples := [], secondOffset := none, now := addTime x.now d }).puts
      [(F.timeStatusJumpPending, 0), (F.timeStatusDegraded, 0)]

theorem bJump_some {s : State} {d : Int} (h : s.time.jump = some d) : bJump s = (s.jumpApplied d).noteJump d := by
  unfold bJump
  rw [h]
  rfl

theorem jumpApplied_frame (s : State) (d : Int) : Frame [F.timeStatusJumpPending, F.timeStatusDegraded] [.time] s (s.jumpApplied d) :=
  (State.setTime_frame (Frame.refl _ _ s) _ (by simp)).puts (by simp)

theorem jumpApplied_time (s : State) (d : Int) : (s.jumpApplied d).time =
    if s.jumpSlews then { s.time with jump := none, slew := d, samples := [], secondOffset := none }
    else { s.time with jump := none, samples := [], secondOffset := none, now := addTime s.time.now d } := rfl

theorem jumpApplied_get (s : State) (d : Int) :
    (s.jumpApplied d).get F.timeStatusJumpPending = 0 ∧ (s.jumpApplied d).get F.timeStatusDegraded = 0 := by
  simp (disch := exact .ofBits rfl) only [State.jumpApplied, State.puts_cons, State.puts_nil, State.get_put_same, State.get_put_other]
  exact ⟨rfl, rfl⟩

theorem jumpApplied_epochNext (s : State) (d : Int) : (s.jumpApplied d).time.epochNext = s.time.epochNext := by
  rw [jumpApplied_time]; split <;> rfl

/-- An epoch that waits applied. -/
def State.epochApplied (s : State) (e : Nat) : State := (s.setTime fun x => { x with epochNext := none }).put F.timeEpochEpoch e

theorem bEpoch_some {s : State} {e : Nat} (h : s.time.epochNext = some e) : bEpoch s = s.epochApplied e := by
  unfold bEpoch
  rw [h]
  rfl

/-- At the boundary one of a step, a jump and an epoch that waits is applied. -/
theorem boundary_step {s : State} {d : Int} (hs : s.time.step = some d) (hj : s.time.jump = none) (he : s.time.epochNext = none) :
    s.boundary = ((s.stepApplied d).noteJump (d * (nsUnit : Int))).checkWindows := by
  have ht := (noteJump_time (s.stepApplied d) (d * (nsUnit : Int))).trans (stepApplied_time s d)
  rw [boundary_eq, bStep_some hs, bJump_none (by rw [ht]; exact hj), bEpoch_none (by rw [ht]; exact he)]

theorem boundary_jump {s : State} {d : Int} (hs : s.time.step = none) (hj : s.time.jump = some d) (he : s.time.epochNext = none) :
    s.boundary = ((s.jumpApplied d).noteJump d).checkWindows := by
  rw [boundary_eq, bStep_none hs, bJump_some hj, bEpoch_none (by rw [noteJump_time, jumpApplied_epochNext]; exact he)]

theorem boundary_epoch {s : State} (hs : s.time.step = none) (hj : s.time.jump = none) : s.boundary = (bEpoch s).checkWindows := by
  rw [boundary_eq, bStep_none hs, bJump_none hj]

/-! The writes. -/

/-- A write of time is discarded with 0x601 on a disciplined unit that allows it no exemption. -/
theorem unlessDisciplined_refused {c : Instr} {s : State} {allow : Bool} {k : State → State} (h : exec c s = .next (s.unlessDisciplined allow k))
    (hd : s.get F.timeStatusDisciplined = 1) (ha : allow = false) : s.timeRefuses c :=
  put_yields (h.trans (congrArg _ (if_pos (by simp [on_of _ _ hd, ha])))) (.ofBits rfl) (by decide)

theorem unlessDisciplined_allowed {s : State} {allow : Bool} (k : State → State) (h : s.get F.timeStatusDisciplined = 0 ∨ allow = true) :
    s.unlessDisciplined allow k = k s :=
  if_neg (by rcases h with h | h <;> simp [on_eq, h])

theorem exec_timeIncrWrite {s : State} {w : Writer} (h : s.accepts w R.timeIncrHi = true) (data : Word) : exec (.timeIncrWrite w data) s =
    .next (s.unlessDisciplined false fun t => t.setIncr (data.toNat * 2 ^ 32 + t.time.incrLo.toNat : Nat)) :=
  congrArg _ (State.writeBy_accepts h)

theorem exec_timeSlewWrite {s : State} {w : Writer} (h : s.accepts w R.timeSlew = true) (data : Word) : exec (.timeSlewWrite w data) s =
    .next (s.unlessDisciplined false fun t => t.setTime fun x => { x with slew := data.toInt * (nsUnit : Int) }) :=
  congrArg _ (State.writeBy_accepts h)

/-- The state in which a step waits. -/
def State.stepArmed (s : State) (data : Word) : State :=
  ((s.setReg R.timeStepHi data).setTime fun x => { x with
    step := some (sval 64 (data.toNat * 2 ^ 32 + (s.reg R.timeStepLo).toNat)) }).put F.timeStatusStepPending 1

theorem exec_timeStepArm {s : State} {w : Writer} (h : s.accepts w R.timeStepHi = true) (data : Word) : exec (.timeStepArm w data) s =
    .next (s.unlessDisciplined (s.timeRole != 2 && s.timeSource == 3 && !s.on F.timeStatusLocked) fun t => t.stepArmed data) := by
  refine congrArg _ ((State.writeBy_accepts h).trans ?_)
  dsimp only
  congr 1
  funext t
  rw [State.reg_setReg_other _ _ (by decide)]
  rfl

theorem stepArmed_frame (s : State) (data : Word) : Frame [whole R.timeStepHi, F.timeStatusStepPending] [.time] s (s.stepArmed data) :=
  (State.setTime_frame ((Frame.refl _ _ s).setReg (by simp)) _ (by simp)).put (by simp)

theorem stepArmed_shows (s : State) (data : Word) :
    (s.stepArmed data).get F.timeStatusStepPending = 1 ∧ (s.stepArmed data).reg R.timeStepHi = data := by
  refine ⟨get_put_of_lt _ (.ofBits rfl) (by decide), ?_⟩
  exact (State.reg_put_other _ (by decide) _).trans (State.reg_setReg_same ..)

/-- Settles O45: a tick by the power state, the boundary by what waits, a correction by its size and sign, a write by the discipline. -/
theorem timeTicksAndCorrections : Obligations.TimeTicksAndCorrections := by
  unfold Obligations.TimeTicksAndCorrections
  refine fun s => ⟨exec_timeTick_off, fun ho h => ?_, fun ho hw hf => ?_, ?_, fun d => ⟨noteJump_small, fun h hd => ?_, fun h hd hr => ?_⟩,
    fun w data h => ⟨fun hd => ?_, fun hd => ?_⟩, fun w data h => ⟨fun hd => ?_, fun hd => ?_⟩, fun w data h => ?_⟩
  · exact .quiet (exec_timeTick_winter ho h) (State.setTime_frame (Frame.refl _ _ s) _ (by simp)) rfl
  · obtain ⟨small, exact'⟩ := clampI_abs s.slewLimit s.time.slew
    have frame := ticked_frame s
    refine ⟨s.ticked, exec_timeTick ho hw hf, frame, fun ht hb hr hg => ?_, ticked_time s, small, exact', fun k hk => ticked_windows s hk⟩
    have hold : s.ticked.hold = s.hold := frame.rest .hold (by simp)
    have chain : s.ticked.chain = s.chain := frame.rest .chain (by simp)
    rw [exec_timeTick ho hw hf, tickGo_idle (by rw [hold]; exact ht) hb (by rw [chain]; exact hr) hg]
  · intro due
    have e (h : due) : exec .timeBoundary s = .next s.boundary := (exec_timeBoundary s).trans (if_pos h)
    refine ⟨fun h => (exec_timeBoundary s).trans (if_neg h), fun h hs hj he => ?_, fun h d hs hj he => ?_, fun h d hs hj he => ?_,
      fun h e' hs hj he => ?_⟩
    · rw [e h, boundary_epoch hs hj, bEpoch_none he]
    · obtain ⟨pending, degraded⟩ := stepApplied_get s d
      exact ⟨s.stepApplied d, by rw [e h, boundary_step hs hj he], stepApplied_frame s d, pending, degraded, stepApplied_time s d⟩
    · obtain ⟨pending, degraded⟩ := jumpApplied_get s d
      exact ⟨s.jumpApplied d, by rw [e h, boundary_jump hs hj he], jumpApplied_frame s d, pending, degraded, jumpApplied_time s d⟩
    · refine ⟨s.epochApplied e', by rw [e h, boundary_epoch hs hj, bEpoch_some he], ?_, State.get_put_same _ (.ofBits rfl) _, rfl⟩
      exact (State.setTime_frame (Frame.refl _ _ s) _ (by simp)).put (by simp)
  · rw [noteJump_large h, if_neg (by omega)]
  · exact ⟨s.put F.timeEpochEpoch (s.epoch + 1), by rw [noteJump_large h, if_pos ⟨hd, hr⟩], (Frame.refl _ _ s).put (by simp),
      State.get_put_same _ (.ofBits rfl) _⟩
  · exact unlessDisciplined_refused (exec_timeIncrWrite h data) hd rfl
  · refine .quiet ((exec_timeIncrWrite h data).trans (congrArg _ (unlessDisciplined_allowed _ (.inl hd)))) ?_ (setIncr_timeIncr ..)
    exact setIncr_frame (Frame.refl _ _ s) _ (by simp) (by simp)
  · exact unlessDisciplined_refused (exec_timeSlewWrite h data) hd rfl
  · exact .quiet ((exec_timeSlewWrite h data).trans (congrArg _ (unlessDisciplined_allowed _ (.inl hd))))
      (State.setTime_frame (Frame.refl _ _ s) _ (by simp)) rfl
  · intro exempt
    have allows : (s.timeRole != 2 && s.timeSource == 3 && !s.on F.timeStatusLocked) = true ↔ exempt := by
      simp only [Bool.and_eq_true, bne_iff_ne, beq_iff_eq, Bool.not_eq_true', on_false_iff s (f := F.timeStatusLocked) rfl, and_assoc, exempt]
    refine ⟨fun hd hx => ?_, fun hd => ?_⟩
    · exact unlessDisciplined_refused (exec_timeStepArm h data) hd (Bool.eq_false_iff.2 fun c => hx (allows.1 c))
    · obtain ⟨pending, reg⟩ := stepArmed_shows s data
      exact .quiet ((exec_timeStepArm h data).trans (congrArg _ (unlessDisciplined_allowed _ (hd.imp_right allows.2))))
        (stepArmed_frame s data) ⟨pending, reg, rfl⟩

end Sys2Proof.Machine
end

section
/-! The calibration store: a record committed or cleared, a read-back that fails, and the trims (R402 to R408, R418). -/

open Sys2Proof Sys2Proof.Machine

namespace Sys2Proof.Machine

/-! A record committed. -/

/-- The trims fall due when the kind is USER_TRIM. -/
def State.trimsAsked (s : State) (kind : Nat) : State :=
  if kind = 1 then { s with cal := { s.cal with trimDue := true } } else s

theorem trimsAsked_cal (s : State) (kind : Nat) : (s.trimsAsked kind).cal = { s.cal with trimDue := s.cal.trimDue || kind == 1 } := by
  unfold State.trimsAsked
  split
  · next h => simp [h]
  · next h => rw [beq_false_of_ne h, Bool.or_false]

theorem trimsAsked_frame {T : List Field} {P : List Part} {s t : State} (h : Frame T P s t) (kind : Nat) (m : .cal ∈ P) :
    Frame T P s (t.trimsAsked kind) := by
  unfold State.trimsAsked
  split
  · exact calPart h _ m
  · exact h

theorem trimsAsked_get (s : State) (kind : Nat) (f : Field) : (s.trimsAsked kind).get f = s.get f := by
  unfold State.trimsAsked
  split
  · exact State.get_mk _ f
  · rfl

theorem trimsAsked_seqOf (s : State) (kind k : Nat) : (s.trimsAsked kind).seqOf k = s.seqOf k := by
  unfold State.trimsAsked
  split <;> rfl

/-- The sequence shown is the one of the store. -/
theorem showSeq_get (s : State) {k : Nat} : (s.showSeq k).get (F.calSeqSequence k) = (s.showSeq k).seqOf k % 2 ^ 32 :=
  State.get_put_same (s := s) (.ofBits rfl) _

theorem commitStore_written (s : State) {j : StoreJob} (hc : j.clear = false) :
    s.commitStore j = (((s.setCopy j.kind (s.target j.kind) (recordCopy j (s.nextSeq j.kind))).showSeq j.kind).trimsAsked j.kind).raise 16 := by
  unfold State.commitStore
  rw [if_neg (by rw [hc]; decide)]
  rfl

theorem commitStore_cleared (s : State) {j : StoreJob} (hc : j.clear = true) : s.commitStore j = (s.blankKind j.kind).trimsAsked j.kind := by
  unfold State.commitStore
  rw [if_pos hc]
  rfl

theorem blankKind_frame (s : State) (k : Nat) : Frame [F.calSeqSequence k] [.cal] s (s.blankKind k) :=
  State.showSeq_frame (State.setCopy_frame (State.setCopy_frame (Frame.refl _ _ s) _ _ _ (by simp)) _ _ _ (by simp)) k (by simp)

theorem blankKind_copies (s : State) (k : Nat) : (s.blankKind k).cal.copies =
    updAt (updAt s.cal.copies (2 * k) fun _ => { s.copy k 0 with magic := magicBlank }) (2 * k + 1) fun _ => { s.copy k 1 with magic := magicBlank } := rfl

theorem blankKind_blanks (s : State) {k ab : Nat} {c : CalCopy} (hab : ab < 2) (hc : s.cal.copies[2 * k + ab]? = some c) :
    (s.blankKind k).cal.copies[2 * k + ab]? = some { c with magic := magicBlank } := by
  have old : s.copy k ab = c := by simp [State.copy, List.getD_eq_getElem?_getD, hc]
  rw [blankKind_copies, ← old]
  interval_cases ab
  · rw [updAt_other _ _ _ _ (by omega)]
    exact updAt_some (f := fun _ => { s.copy k 0 with magic := magicBlank }) hc
  · refine updAt_some (f := fun _ => { s.copy k 1 with magic := magicBlank }) (x := c) ?_
    rw [updAt_other _ _ _ _ (by omega)]
    exact hc

theorem blankKind_others (s : State) {k i : Nat} (hi : i / 2 ≠ k) : (s.blankKind k).cal.copies[i]? = s.cal.copies[i]? := by
  rw [blankKind_copies, updAt_other _ _ _ _ (by omega), updAt_other _ _ _ _ (by omega)]

/-! The read-back. -/

section
variable {s : State} {j : StoreJob} {rest : List StoreJob} (hj : s.cal.jobs = j :: rest) (bad : List (Fin 58))
include hj

/-- The sectors that mismatched, each once. -/
theorem exec_recordStoreComplete : exec (.recordStoreComplete bad) s = .next (
    let l := (bad.map fun b : Fin 58 => b.val).foldl keyInsert []
    let t := s.storeFault j
    if l.isEmpty || j.clear then ((s.commitStore j).tellStore j 0).nextStore
    else if s.cal.retried = false ∧ l.length ≤ 6 - t.cal.sectors.length then
      { t.mapSectors l with cal := { (t.mapSectors l).cal with retried := true } }.beginStore
    else ((t.raiseIf (!s.cal.retried) 728).tellStore j 0x705).nextStore) := by
  show execRecordStoreComplete bad s = _
  simp only [execRecordStoreComplete, hj]
  split
  · rfl
  · simp only [Bool.and_eq_true, Bool.not_eq_true', decide_eq_true_eq]

end

theorem badSectors_mem (bad : List (Fin 58)) (x : Nat) :
    x ∈ (bad.map fun b : Fin 58 => b.val).foldl keyInsert [] ↔ ∃ b ∈ bad, b.val = x := by
  simp [fold_mem]

theorem badSectors_length_pos {bad : List (Fin 58)} (h : bad ≠ []) : 0 < ((bad.map fun b : Fin 58 => b.val).foldl keyInsert []).length := by
  obtain ⟨b, l, rfl⟩ := List.exists_cons_of_ne_nil h
  exact List.length_pos_of_mem ((badSectors_mem _ b.val).2 ⟨b, by simp, rfl⟩)

/-! The trims. -/

/-- The trims in force and whether one was clamped, register after register. -/
theorem applyTrims_eq (s : State) :
    let trim := fun i => sval 16 (Config.factoryTrim i).toNat + sval 16 (leAt ((s.recordOf 1).getD []) (2 * i) 2)
    let clamped := fun i => clampI (-(if i < 12 then 2000 else 160)) (if i < 12 then 2000 else 160) (trim i)
    let r := (List.range 13).foldl (fun (p : State × Bool) i =>
      (p.1.puts [(F.calTrimValue i, ofSval 16 (clamped i)), (F.calTrimSat i, (decide (clamped i ≠ trim i)).toNat)],
        p.2 || decide (clamped i ≠ trim i))) (s, false)
    s.applyTrims = r.1.raiseIf r.2 20 := rfl

/-- Settles O57: the commit and the clear by what they write of the copies, the failed read-back by whether it is the first and sectors are free. -/
theorem recordStores : Obligations.RecordStores := by
  unfold Obligations.RecordStores
  intro s
  refine ⟨fun bad h => ?_, fun bad j rest hj h => ?_, fun bad j rest hj hb hc => ?_, fun j hk hc => ?_, fun j hk hc => ?_, fun h => ?_, fun h => ?_⟩
  · show execRecordStoreComplete bad s = _
    simp only [execRecordStoreComplete, h]
  · rw [exec_recordStoreComplete hj]
    refine congrArg _ (if_pos ?_)
    rcases h with rfl | h
    · rfl
    · rw [h, Bool.or_true]
  · intro l t
    have pos : 0 < l.length := badSectors_length_pos hb
    have e : exec (.recordStoreComplete bad) s = .next (if s.cal.retried = false ∧ l.length ≤ 6 - t.cal.sectors.length then
        { t.mapSectors l with cal := { (t.mapSectors l).cal with retried := true } }.beginStore
        else ((t.raiseIf (!s.cal.retried) 728).tellStore j 0x705).nextStore) := by
      rw [exec_recordStoreComplete hj]
      refine congrArg _ (if_neg ?_)
      rw [hc, Bool.or_false, List.isEmpty_iff]
      exact List.ne_nil_of_length_pos pos
    refine ⟨badSectors_mem bad, fun hr hl => ⟨_, e.trans (congrArg _ (if_pos ⟨hr, by omega⟩)), calPart (Frame.refl _ _ _) _ (by simp), rfl⟩,
      fun hr hl => e.trans ?_, fun hr => e.trans ?_⟩
    · rw [if_neg fun h => absurd h.2 (by omega), hr]
      rfl
    · rw [if_neg fun h => absurd h.1 (by rw [hr]; decide), hr]
      rfl
  · refine ⟨_, commitStore_written s hc, trimsAsked_frame (State.showSeq_frame (State.setCopy_frame (Frame.refl _ _ s) _ _ _ (by simp)) _ (by simp)) _ (by simp),
      trimsAsked_cal _ _, ?_⟩
    rw [trimsAsked_get, trimsAsked_seqOf]
    exact showSeq_get _
  · refine ⟨_, commitStore_cleared s hc, trimsAsked_frame (blankKind_frame s _) _ (by simp), ?_, ?_, ?_, ?_⟩
    · intro ab c hab h
      rw [trimsAsked_cal]
      exact blankKind_blanks s hab h
    · intro i hi
      rw [trimsAsked_cal]
      exact blankKind_others s hi
    all_goals
      rw [trimsAsked_cal]
      rfl
  · exact congrArg _ (if_neg (by rw [h]; decide))
  · intro trim limit clamped
    obtain ⟨frame, cal, some', values⟩ := trims { s with cal := { s.cal with trimDue := false } } clamped trim 13 (Nat.le_refl _)
    have e : exec .trimEffective s = .next (State.raiseIf _ _ 20) :=
      congrArg Host.Outcome.next ((if_pos h).trans (applyTrims_eq { s with cal := { s.cal with trimDue := false } }))
    refine ⟨_, fun hn => e.trans ?_, fun hs => e.trans ?_, .trans (calPart (Frame.refl _ _ s) _ (by simp)) (frame.mono (fun _ h => h) (by simp)), cal, values⟩
    · refine congrArg _ (if_neg fun h => ?_)
      obtain ⟨i, hi, hne⟩ := some'.1 h
      exact hne (hn i hi)
    · exact congrArg _ (if_pos (some'.2 hs))

end Sys2Proof.Machine
end

section
/-! The Purser's restart and the Manifest (R374, R375, R387 to R389). -/

open Sys2Proof Sys2Proof.Machine

namespace Sys2Proof.Machine

/-! Reads in flight. -/

theorem npPart_begun (s : State) : (s.npPart 1).get F.dmaNpTotalCount = (s.get F.dmaNpTotalCount + 1) % (fieldMax F.dmaNpTotalCount + 1) := by
  have h : ((s.get F.dmaNpTotalCount : Int) + 1).toNat = s.get F.dmaNpTotalCount + 1 := by omega
  unfold State.npPart
  rw [h]
  exact State.get_put_same _ (.ofBits rfl) _

theorem npPart_ended (s : State) : (s.npPart (-1)).get F.dmaNpTotalCount = s.get F.dmaNpTotalCount - 1 := by
  have h : ((s.get F.dmaNpTotalCount : Int) + -1).toNat = s.get F.dmaNpTotalCount - 1 := by omega
  unfold State.npPart
  rw [h]
  exact get_put_of_lt _ (.ofBits rfl) (Nat.lt_of_le_of_lt (Nat.sub_le _ _) (State.get_lt s _))

theorem npPart_frame {T : List Field} {P : List Part} {s t : State} (h : Frame T P s t) (n : Int) (m : F.dmaNpTotalCount ∈ T) :
    Frame T P s (t.npPart n) := h.put m

theorem npPart_get (s : State) (n : Int) {f : Field} (hf : Apart F.dmaNpTotalCount f) (hw : InWord f) : (s.npPart n).get f = s.get f :=
  State.get_put_other _ hf hw _

/-! The restart. -/

/-- The Purser stopped: its queue and its flush read gone, the restart counted. -/
def State.purserDown (s : State) (flushing : Bool) : State :=
  let t := (s.setPurser fun p => { p with serving := false, queue := [], current := none, begun := false, flushing := false }).put F.pursStatusRunning 0
  (if flushing then t.npPart (-1) else t).count F.pursStatusRestarts 1

theorem purserDown_frame (s : State) (flushing : Bool) :
    Frame [F.pursStatusRunning, F.pursStatusRestarts, F.dmaNpTotalCount] [.purser] s (s.purserDown flushing) := by
  have h : Frame [F.pursStatusRunning, F.pursStatusRestarts, F.dmaNpTotalCount] [.purser] s
      ((s.setPurser fun p => { p with serving := false, queue := [], current := none, begun := false, flushing := false }).put F.pursStatusRunning 0) :=
    (State.setPurser_frame (Frame.refl _ _ s) _ (by simp)).put (by simp)
  cases flushing
  · exact h.count (by simp)
  · exact (npPart_frame h _ (by simp)).count (by simp)

theorem purserDown_running (s : State) (flushing : Bool) : (s.purserDown flushing).get F.pursStatusRunning = 0 := by
  unfold State.purserDown
  rw [count_get_other _ _ (.ofBits rfl) (.ofBits rfl)]
  cases flushing
  · exact get_put_of_lt _ (.ofBits rfl) (by decide)
  · exact (npPart_get _ _ (.ofRegs rfl) (.ofBits rfl)).trans (get_put_of_lt _ (.ofBits rfl) (by decide))

theorem purserDown_restarts (s : State) (flushing : Bool) :
    (s.purserDown flushing).get F.pursStatusRestarts = min 255 (s.get F.pursStatusRestarts + 1) := by
  have h : ((s.setPurser fun p => { p with serving := false, queue := [], current := none, begun := false, flushing := false }).put
      F.pursStatusRunning 0).get F.pursStatusRestarts = s.get F.pursStatusRestarts :=
    (State.get_put_other _ (.ofBits rfl) (.ofBits rfl) _).trans (State.setPurser_get _ _ _)
  unfold State.purserDown
  rw [count_get _ _ _ (.ofBits rfl), ← h]
  cases flushing
  · rfl
  · exact congrArg (fun n => min 255 (n + 1)) (npPart_get _ _ (.ofRegs rfl) (.ofBits rfl))

theorem purserDown_inFlight (s : State) (flushing : Bool) : (s.purserDown flushing).get F.dmaNpTotalCount =
    if flushing then s.get F.dmaNpTotalCount - 1 else s.get F.dmaNpTotalCount := by
  have h : ((s.setPurser fun p => { p with serving := false, queue := [], current := none, begun := false, flushing := false }).put
      F.pursStatusRunning 0).get F.dmaNpTotalCount = s.get F.dmaNpTotalCount :=
    (State.get_put_other _ (.ofRegs rfl) (.ofBits rfl) _).trans (State.setPurser_get _ _ _)
  unfold State.purserDown
  rw [count_get_other _ _ (.ofRegs rfl) (.ofBits rfl), ← h]
  cases flushing
  · rfl
  · exact npPart_ended _

theorem purserDown_purser (s : State) (flushing : Bool) :
    (s.purserDown flushing).purser = { s.purser with serving := false, queue := [], current := none, begun := false, flushing := false } := by
  cases flushing <;> rfl

/-- A Boarding under way given up, its conflict told by the code. -/
def State.boardGivenUp (s : State) : State :=
  if s.on F.chnBoardStatusBusy then s.boardEnd (if s.chain.conflict then 0x544 else 0x541) else s

theorem boardGivenUp_frame (s : State) : Frame [F.chnBoardStatusBusy, F.chnBoardStatusLastCode] [] s s.boardGivenUp := by
  unfold State.boardGivenUp
  split
  · exact (Frame.refl _ _ s).puts (by simp)
  · exact Frame.refl _ _ s

theorem boardGivenUp_idle (s : State) : s.boardGivenUp.get F.chnBoardStatusBusy = 0 := by
  unfold State.boardGivenUp
  split
  · exact get_puts_head _ (.ofBits rfl) _ (by
      simp only [List.forall_mem_cons, List.not_mem_nil, false_implies, implies_true, and_true]
      exact .ofBits rfl)
  · next h => exact (on_false_iff s rfl).1 (Bool.not_eq_true _ ▸ h)

theorem boardGivenUp_code (s : State) : s.boardGivenUp.get F.chnBoardStatusLastCode =
    if s.get F.chnBoardStatusBusy = 1 then (if s.chain.conflict then 0x544 else 0x541) else s.get F.chnBoardStatusLastCode := by
  unfold State.boardGivenUp
  refine (apply_ite (fun t : State => t.get F.chnBoardStatusLastCode) _ _ _).trans (ite_congr (propext (on_true_iff _ _)) (fun _ => ?_) fun _ => rfl)
  exact get_put_of_lt _ (.ofBits rfl) (by split <;> decide)

theorem boardGivenUp_chain (s : State) : s.boardGivenUp.chain = s.chain := by unfold State.boardGivenUp; split <;> rfl

theorem boardGivenUp_time (s : State) : s.boardGivenUp.time = s.time := by unfold State.boardGivenUp; split <;> rfl

/-- The chain's and the time discipline's part of a restart. -/
def State.chainDown (s : State) : State :=
  ({ s.boardGivenUp with chain := { s.boardGivenUp.chain with conflict := false, onC := false, heldRoot := none } }).setTime fun x =>
    { x with samples := [], ptmOpen := false, ptmPrev := none }

theorem chainDown_frame (s : State) : Frame [F.chnBoardStatusBusy, F.chnBoardStatusLastCode] [.chain, .time] s s.chainDown :=
  State.setTime_frame (chainPart ((boardGivenUp_frame s).mono (fun _ h => h) (by simp)) _ (by simp)) _ (by simp)

theorem chainDown_get (s : State) (f : Field) : s.chainDown.get f = s.boardGivenUp.get f := by
  unfold State.chainDown
  rw [State.setTime_get]
  exact State.get_mk _ f

theorem chainDown_chain (s : State) : s.chainDown.chain = { s.chain with conflict := false, onC := false, heldRoot := none } :=
  congrArg (fun x : ChainState => { x with conflict := false, onC := false, heldRoot := none }) (boardGivenUp_chain s)

theorem chainDown_time (s : State) : s.chainDown.time = { s.time with samples := [], ptmOpen := false, ptmPrev := none } :=
  congrArg (fun x : TimeState => { x with samples := [], ptmOpen := false, ptmPrev := none }) (boardGivenUp_time s)

theorem exec_purserWatchdog {s : State} (h : s.purser.serving = true) : exec .purserWatchdog s = .next
    (((List.range 96).foldl State.abortCal ((((s.purser.current.toList ++ s.purser.queue.map (·.1)).foldl
      (fun t k => (t.detach k).mboxDone k 5 0 []) s).purserDown s.purser.flushing).raise 596).abandonStores).chainDown) := by
  show execPurserWatchdog s = _
  unfold execPurserWatchdog
  rw [if_neg (by rw [h]; decide)]
  extract_lets slots s1 s2 s3 s4 s5 chain s6
  have down : s3 = ((s1.purserDown s.purser.flushing).raise 596).abandonStores := by
    clear_value s1
    rfl
  have last : (s6.setTime fun x => { x with samples := [], ptmOpen := false, ptmPrev := none }) = s4.chainDown := by
    clear_value s4
    rfl
  rw [last]
  exact congrArg (fun t => Host.Outcome.next ((List.range 96).foldl State.abortCal t).chainDown) down

theorem exec_purserRestartComplete (s : State) : exec .purserRestartComplete s = .next
    (if s.purser.serving = true ∨ s.power.off = true ∨ s.power.fabricOff = true ∨ s.get F.glbStateState = 0 then s
      else s.serve.storeOwn 7 (Config.purserLog (s.get F.pursStatusRestarts))) := by
  show execPurserRestartComplete s = _
  simp only [execPurserRestartComplete, Bool.or_eq_true, or_assoc, beq_iff_eq]

/-! The Manifest. -/

theorem leBytes_length (n v : Nat) : (leBytes n v).length = n := by
  induction n generalizing v with
  | zero => rfl
  | succ n ih => exact congrArg (· + 1) (ih _)

theorem padTo_length (n : Nat) (l : List Byte) : (padTo n l).length = n := by
  unfold padTo
  rw [List.length_take, List.length_append, List.length_replicate]
  omega

theorem manifestBytes_length (s : State) : s.manifestBytes.length = 4096 := by
  unfold State.manifestBytes State.manifestBody
  rw [List.length_append, padTo_length, leBytes_length]

/-- A Manifest that ended with a result, its flush no longer awaited. -/
def State.manifestOver (s : State) (result : Nat) : State :=
  (s.setPurser fun p => { p with manifest := none, flushing := false }).puts [(F.glbManifestStatusBusy, 0), (F.glbManifestStatusResult, result)]

theorem manifestOver_frame (s : State) (result : Nat) :
    Frame [F.glbManifestStatusBusy, F.glbManifestStatusResult] [.purser] s (s.manifestOver result) :=
  (State.setPurser_frame (Frame.refl _ _ s) _ (by simp)).puts (by simp)

theorem manifestOver_busy (s : State) (result : Nat) : (s.manifestOver result).get F.glbManifestStatusBusy = 0 :=
  get_puts_head _ (.ofBits rfl) _ (by
    simp only [List.forall_mem_cons, List.not_mem_nil, false_implies, implies_true, and_true]
    exact .ofBits rfl)

theorem manifestOver_result (s : State) (result : Nat) : (s.manifestOver result).get F.glbManifestStatusResult = result % 4 :=
  State.get_put_same _ (.ofBits rfl) _

/-- A Manifest that reached the host: its sequence number moves on. -/
def State.manifestSent (s : State) : State := (s.manifestOver 0).put F.glbManifestStatusSeq (s.get F.glbManifestStatusSeq + 1)

theorem manifestSent_seq (s : State) : s.manifestSent.get F.glbManifestStatusSeq = (s.get F.glbManifestStatusSeq + 1) % 65536 :=
  State.get_put_same _ (.ofBits rfl) _

theorem manifestSent_get (s : State) {f : Field} (hf : Apart F.glbManifestStatusSeq f) (hw : InWord f) :
    s.manifestSent.get f = (s.manifestOver 0).get f := State.get_put_other _ hf hw _

theorem takeManifest_takes {s : State} {a : Nat} (hw : s.purser.manifestWaiting = some a) (hs : s.purser.serving = true) (hm : s.purser.manifest = none) :
    s.takeManifest = ((s.setPurser fun p => { p with manifest := some a, manifestWaiting := none }).puts
      [(F.glbManifestStatusWaiting, 0), (F.glbManifestStatusBusy, 1)]).gather := by
  simp only [State.takeManifest, hw]
  rw [if_neg (by rw [hs, hm]; decide)]

theorem takeManifest_waits {s : State} (h : s.purser.manifestWaiting = none ∨ s.purser.serving = false ∨ s.purser.manifest ≠ none) :
    s.takeManifest = s := by
  unfold State.takeManifest
  split
  · rfl
  · next a ha =>
    refine if_pos ?_
    rcases h with h | h | h
    · rw [h] at ha; cases ha
    · rw [h]; rfl
    · rw [Option.isSome_iff_ne_none.2 h, Bool.or_true]

theorem purserWrite_get (s : State) (a : Nat) (l : List Byte) {f : Field} (hf : InWord f) : (s.purserWrite a l).get f = s.get f := by
  have h : Frame [] [.out, .host] s (s.purserWrite a l) := by
    unfold State.purserWrite
    split
    · exact Frame.refl _ _ s
    · exact toHost_frame (hostWrites_frame (Frame.refl _ _ s) _ _ _ (by simp) (by simp)) _ (by simp) (by simp)
  exact h.get hf (by simp)

/-- Settles O56: the restart as the Purser's part, then the chain's and the discipline's; the Manifest by its states. -/
theorem purserAndManifest : Obligations.PurserAndManifest := by
  unfold Obligations.PurserAndManifest
  refine fun s => ⟨fun h => ?_, fun h => ?_, ⟨fun h => ?_, fun h => ?_⟩, ?_, fun w addr h => ?_, takeManifest_waits, fun a hw hs hm => ?_, fun a ha => ⟨fun hb => ?_, fun hb => ?_⟩,
    manifestBytes_length s, fun r => ?_, fun ok h => ?_, fun h => ⟨?_, ?_⟩⟩
  · exact if_pos (by rw [h]; rfl)
  · intro slots t
    refine ⟨t.purserDown s.purser.flushing, purserDown_frame t _, purserDown_running t _, purserDown_inFlight t _, purserDown_restarts t _,
      purserDown_purser t _, ?_⟩
    intro v
    exact ⟨v.chainDown, exec_purserWatchdog h, chainDown_frame v, (chainDown_get v _).trans (boardGivenUp_idle v),
      (chainDown_get v _).trans (boardGivenUp_code v), chainDown_chain v, chainDown_time v⟩
  · rw [exec_purserRestartComplete, if_pos h]
  · rw [exec_purserRestartComplete, if_neg h]
  · exact ⟨_, rfl, (State.setPurser_frame (Frame.refl _ _ s) _ (by simp)).put (by simp), get_put_of_lt _ (.ofBits rfl) (by decide), rfl⟩
  · refine ⟨_, congrArg _ (State.writeBy_accepts h), ((State.setPurser_frame ((Frame.refl _ _ s).put (by simp)) _ (by simp)).put (by simp)), ?_,
      get_put_of_lt _ (.ofBits rfl) (by decide), ?_⟩
    · rw [State.get_put_other _ (.ofRegs rfl) (.ofBits rfl), State.setPurser_get]
      exact get_put_of_lt _ (.ofBits rfl) addr.isLt
    · rw [State.put_purser, State.setPurser_purser, State.get_put_other _ (.ofRegs rfl) (.ofBits rfl), State.put_purser]
  · refine ⟨_, takeManifest_takes hw hs hm, (State.setPurser_frame (Frame.refl _ _ s) _ (by simp)).puts (by simp), ?_, get_put_of_lt _ (.ofBits rfl) (by decide),
      puts_purser _ _⟩
    exact get_puts_head _ (.ofBits rfl) _ (by
      simp only [List.forall_mem_cons, List.not_mem_nil, false_implies, implies_true, and_true]
      exact .ofBits rfl)
  · simp only [State.gather, ha, hb, Bool.not_false, if_true]
  · refine ⟨_, rfl, ?_⟩
    have e : s.gather = ((s.purserWrite a s.manifestBytes).npPart 1).setPurser fun p => { p with flushing := true } := by
      simp only [State.gather, ha, hb, Bool.not_true, Bool.false_eq_true, if_false]
    rw [e]
    have kept : (s.purserWrite a s.manifestBytes).get F.dmaNpTotalCount = s.get F.dmaNpTotalCount := purserWrite_get _ _ _ (.ofBits rfl)
    rw [← kept]
    generalize s.purserWrite a s.manifestBytes = t
    refine ⟨State.setPurser_frame (npPart_frame (Frame.refl _ _ _) 1 (by simp)) _ (by simp), ?_, rfl⟩
    rw [State.setPurser_get, npPart_begun]
  · exact ⟨s.manifestOver r, rfl, manifestOver_frame s r, manifestOver_busy s r, manifestOver_result s r, puts_purser _ _⟩
  · exact if_pos (by rw [h]; rfl)
  · exact ⟨s.npPart (-1), npPart_frame (Frame.refl _ _ s) _ (by simp), npPart_ended s, if_neg (by rw [h]; decide)⟩
  · refine ⟨(s.npPart (-1)).manifestSent, if_neg (by rw [h]; decide), ?_, ?_, ?_, ?_, ?_, puts_purser _ _⟩
    · exact .trans (npPart_frame (Frame.refl _ _ s) _ (by simp)) (((manifestOver_frame _ 0).mono (by simp) fun _ h => h).put (by simp))
    · rw [manifestSent_get _ (.ofRegs rfl) (.ofBits rfl), (manifestOver_frame _ 0).get (.ofBits rfl) (by
        simp only [List.forall_mem_cons, List.not_mem_nil, false_implies, implies_true, and_true]
        exact ⟨.ofRegs rfl, .ofRegs rfl⟩)]
      exact npPart_ended s
    · rw [manifestSent_get _ (.ofBits rfl) (.ofBits rfl)]
      exact manifestOver_busy _ 0
    · rw [manifestSent_get _ (.ofBits rfl) (.ofBits rfl)]
      exact manifestOver_result _ 0
    · rw [manifestSent_seq, npPart_get _ _ (.ofRegs rfl) (.ofBits rfl)]

end Sys2Proof.Machine
end

section
/-! The mailbox commands of the calibration store, the OTP and the relief swaps (R352, R380, R401, R406, R411, R419). -/

open Sys2Proof Sys2Proof.Machine

namespace Sys2Proof.Machine

/-! Requests on the link. -/

/-- The pieces of a request add up to it, none is empty, longer than the limit or across a page. -/
theorem linkPieces_spec (most : Nat) {fuel a n : Nat} (hn : n ≤ fuel) : ((linkPieces most fuel a n).map (·.2)).sum = n ∧
    ∀ p ∈ linkPieces most fuel a n, 1 ≤ p.2 ∧ p.2 ≤ max 1 most ∧ p.1 % 4096 + p.2 ≤ 4096 := by
  induction fuel generalizing a n with
  | zero =>
    obtain rfl : n = 0 := by omega
    exact ⟨rfl, by simp [linkPieces]⟩
  | succ fuel ih =>
    unfold linkPieces
    split
    · next h => exact ⟨h.symm, by simp⟩
    · next h =>
      dsimp only
      generalize hk : min (min n (max 1 most)) (4096 - a % 4096) = k
      obtain ⟨hpos, hle, hmost, hpage⟩ : 1 ≤ k ∧ k ≤ n ∧ k ≤ max 1 most ∧ a % 4096 + k ≤ 4096 := by omega
      obtain ⟨sum, pieces⟩ := ih (a := a + k) (n := n - k) (by omega)
      refine ⟨?_, ?_⟩
      · rw [List.map_cons, List.sum_cons, sum]
        omega
      · rw [List.forall_mem_cons]
        exact ⟨⟨hpos, hmost, hpage⟩, pieces⟩

/-! Lists of bits, and of 12 kinds. -/

theorem ofBits_testBit (l : List Bool) (i : Nat) : (ofBits l).testBit i = l.getD i false := by
  induction l generalizing i with
  | nil => exact Nat.zero_testBit i
  | cons b l ih =>
    have e : ofBits (b :: l) = b.toNat + 2 * ofBits l := rfl
    rw [e]
    cases i with
    | zero =>
      rw [Nat.testBit_zero]
      cases b <;> simp [Nat.add_mod]
    | succ i =>
      rw [Nat.testBit_succ, show (b.toNat + 2 * ofBits l) / 2 = ofBits l by have := Bool.toNat_lt b; omega]
      exact ih i

theorem bit_ofBits_range {n i : Nat} (f : Nat → Bool) (h : i < n) : bit (ofBits ((List.range n).map f)) i = f i := by
  rw [bit, ofBits_testBit]
  simp [List.getD_eq_getElem?_getD, h]

theorem kindWritable_lt {kind : Nat} (h : kindWritable kind = true) : kind < 16 := by
  simp only [kindWritable, Bool.or_eq_true, Bool.and_eq_true, beq_iff_eq, decide_eq_true_eq] at h
  omega

/-! The fuses. -/

theorem otpPart {T : List Field} {P : List Part} {s t : State} (h : Frame T P s t) (x : OtpState) (hm : .otp ∈ P) : Frame T P s { t with otp := x } :=
  h.fields fun p hp => by cases p <;> first | rfl | exact absurd hm hp

/-- Something asked for that is blown already. -/
def OtpState.refuses (o : OtpState) (sign : Bool) (key sub : Nat) : Prop :=
  (sign = true ∧ o.signRequired = true) ∨ (key ≠ 0 ∧ o.keyHash ≠ none) ∨ (sub ≠ 0 ∧ o.subsys ≠ none)

/-- Something asked for that is not blown yet. -/
def OtpState.blows (o : OtpState) (sign : Bool) (key sub : Nat) : Prop :=
  (sign = true ∧ o.signRequired = false) ∨ (key ≠ 0 ∧ o.keyHash = none) ∨ (sub ≠ 0 ∧ o.subsys = none)

theorem orElse_fuse (x : Option Nat) (n : Nat) : (x <|> if n = 0 then none else some n) = if x = none ∧ n ≠ 0 then some n else x := by
  cases x <;> by_cases h : n = 0 <;> simp [h]

theorem fuse_signRequired (o : OtpState) (sign : Bool) (key sub : Nat) : (o.fuse sign key sub).signRequired = (o.signRequired || sign) := by
  unfold OtpState.fuse
  extract_lets new
  split
  · next h => exact congrArg OtpState.signRequired h.symm
  · rfl

theorem fuse_keyHash (o : OtpState) (sign : Bool) (key sub : Nat) :
    (o.fuse sign key sub).keyHash = if o.keyHash = none ∧ key ≠ 0 then some key else o.keyHash := by
  rw [← orElse_fuse]
  unfold OtpState.fuse
  extract_lets new
  split
  · next h => exact congrArg OtpState.keyHash h.symm
  · rfl

theorem fuse_subsys (o : OtpState) (sign : Bool) (key sub : Nat) :
    (o.fuse sign key sub).subsys = if o.subsys = none ∧ sub ≠ 0 then some sub else o.subsys := by
  rw [← orElse_fuse]
  unfold OtpState.fuse
  extract_lets new
  split
  · next h => exact congrArg OtpState.subsys h.symm
  · rfl

/-- A fusing changes the fuses exactly when something asked for was not blown. -/
theorem fuse_ne_iff (o : OtpState) (sign : Bool) (key sub : Nat) : o.fuse sign key sub ≠ o ↔ o.blows sign key sub := by
  constructor
  · intro h
    by_contra hn
    simp only [OtpState.blows, not_or, not_and] at hn
    obtain ⟨hsign, hkey, hsub⟩ := hn
    refine h (if_pos ?_)
    rw [orElse_fuse, orElse_fuse, if_neg fun h => hkey h.2 h.1, if_neg fun h => hsub h.2 h.1]
    cases hs : sign
    · rw [Bool.or_false]
    · exact congrArg (fun b => OtpState.mk b _ _ _ _) ((Bool.or_true _).trans (Bool.eq_true_of_not_eq_false (hsign hs)).symm)
  · rintro (⟨hs, ho⟩ | ⟨hk, ho⟩ | ⟨hk, ho⟩) h
    · have := congrArg OtpState.signRequired h
      rw [fuse_signRequired, hs, ho] at this
      cases this
    · have := congrArg OtpState.keyHash h
      rw [fuse_keyHash, if_pos ⟨ho, hk⟩, ho] at this
      cases this
    · have := congrArg OtpState.subsys h
      rw [fuse_subsys, if_pos ⟨ho, hk⟩, ho] at this
      cases this

/-! The commands. -/

section
variable {s : State} {k : Nat} (hc : s.purser.current = some k) (hs : s.purser.serving = true) (hb : s.purser.begun = false) (hp : s.purser.caller = 0x40)
include hc hs hb hp

/-- A command of PF0's that PF0 rang runs. -/
theorem pf0Command_runs {op : Nat → Bool} (ho : op (s.get (F.pursmCmdOpcode k)) = true) (run : Nat → State → State) :
    s.mailboxCmd op true run = run k s.mboxBegun :=
  (mailboxCmd_ready hc hs hb op ho ..).trans (if_neg (by simp [hp]))

theorem exec_calRead (ho : s.get (F.pursmCmdOpcode k) = 0x10) (ok : Bool) :
    let t := s.mboxBegun
    let kind := s.arg k 0
    exec (.calRead ok) s = .next (if 16 ≤ kind then t.mboxDone k 2 0 []
      else match s.inForce kind with
      | none => t.mboxDone k 3 0x708 []
      | some ab =>
        if !(s.fnCfg 0).busMaster then t.mboxDone k 3 0x703 []
        else
          let u := t.purserWrite (s.argAddr k 1) ((s.copy kind ab).payload.take (s.arg k 3))
          if ok then u.mboxDone k 0 0 [(s.copy kind ab).length, (s.copy kind ab).seq, ab] else u.mboxDone k 3 0x703 []) :=
  congrArg Host.Outcome.next (pf0Command_runs hc hs hb hp (by simp [ho]) _)

theorem exec_calStore (ho : s.get (F.pursmCmdOpcode k) = 0x11) (data : Option (List Byte)) :
    let t := s.mboxBegun
    let kind := s.arg k 0
    let len := s.arg k 3
    exec (.calStore data) s = .next (if 16 ≤ kind then t.mboxDone k 2 0 []
      else if !kindWritable kind then t.mboxDone k 3 0x701 []
      else if maxPayload kind < len then t.mboxDone k 3 0x702 []
      else if 0xFFFFFFFE < s.nextSeq kind then t.mboxDone k 3 0x707 []
      else if len = 0 then t.mailboxStore k kind []
      else if !(s.fnCfg 0).busMaster then t.mboxDone k 3 0x703 []
      else
        let u := t.hostReads 0 (s.argAddr k 1) len
        match data with
        | some l => if l.length = len then u.mailboxStore k kind l else u.mboxDone k 3 0x703 []
        | none => u.mboxDone k 3 0x703 []) :=
  congrArg Host.Outcome.next (pf0Command_runs hc hs hb hp (by simp [ho]) _)

theorem exec_calClear (ho : s.get (F.pursmCmdOpcode k) = 0x12) :
    let t := s.mboxBegun
    let kind := s.arg k 0
    exec .calClear s = .next (if 16 ≤ kind then t.mboxDone k 2 0 []
      else if !kindWritable kind then t.mboxDone k 3 0x701 []
      else t.queueStore ⟨kind, true, [], [], [], 0, .mailbox k⟩) :=
  congrArg Host.Outcome.next (pf0Command_runs hc hs hb hp (by simp [ho]) _)

theorem exec_calSetDigest (ho : s.get (F.pursmCmdOpcode k) = 0x13) :
    let t := s.mboxBegun
    let n := s.arg k 0
    let old := padTo 128 ((s.recordOf 2).getD [])
    let digest := ((List.range 8).map fun i => leBytes 4 (s.arg k (1 + i))).flatten
    exec .calSetDigest s = .next (if 4 ≤ n then t.mboxDone k 2 0 []
      else if bit s.digests n then t.mboxDone k 3 0x704 []
      else t.mailboxStore k 2 (old.take (32 * n) ++ digest ++ old.drop (32 * n + 32)) (s.digests ||| 2 ^ n)) :=
  congrArg Host.Outcome.next (pf0Command_runs hc hs hb hp (by simp [ho]) _)

theorem exec_calStatus (ho : s.get (F.pursmCmdOpcode k) = 0x14) :
    exec .calStatus s = .next (s.mboxBegun.bumpFree.mboxDone k 0 0 ((List.range 12).map s.seqOf ++
      [ofBits ((List.range 12).map fun kind => match s.inForce kind with
        | some c => c == 1
        | none => s.mboxBegun.free.testBit kind), s.word R.calStatus])) :=
  congrArg Host.Outcome.next (pf0Command_runs hc hs hb hp (by simp [ho]) _)

/-- OTP_FUSE outside Test, and in Test by what is blown already. -/
theorem exec_otpFuse (ho : s.get (F.pursmCmdOpcode k) = 0x15) :
    let t := s.mboxBegun
    let sign := s.arg k 0 % 2 == 1
    let key := ofBe (((List.range 8).map fun i => leBytes 4 (s.arg k (1 + i))).flatten)
    let sub := s.arg k 9
    let again := (sign && s.otp.signRequired) || (decide (key ≠ 0) && s.otp.keyHash.isSome) || (decide (sub ≠ 0) && s.otp.subsys.isSome)
    let new := s.otp.fuse sign key sub
    let u := ({ t with otp := new }).raiseIf (!again || decide (new ≠ s.otp)) 22
    exec .otpFuse s = .next (if s.get F.glbStateState ≠ 2 then t.mboxDone k 3 0 []
      else if again then u.mboxDone k 3 0x704 [] else u.mboxDone k 0 0 []) :=
  congrArg Host.Outcome.next (pf0Command_runs hc hs hb hp (by simp [ho]) _)

/-! RELIEF_SWAP, kind by kind. -/

section
variable (ho : s.get (F.pursmCmdOpcode k) = 0x20) {kind unit row : Nat} (hkind : s.arg k 0 = kind) (hu : s.arg k 1 = unit) (hr : s.arg k 2 = row)
include ho hkind hu hr

theorem exec_reliefSwap_lane (hk : kind = 0) :
    let t := s.mboxBegun
    let no := t.swapRefused k kind unit row
    exec .reliefSwap s = .next (if 96 ≤ unit ∨ s.get (F.plnRoleRole unit) = 0 then no 2
      else if (s.laneSwap unit).isSome || (s.sliceOf unit).isSome then no 5
      else if (s.freeSlices (laneGroup unit)).isEmpty then no 1
      else t.askLaneSwap unit 0 (some k)) := by
  subst hu hr
  refine congrArg Host.Outcome.next ((pf0Command_runs hc hs hb hp (by simp [ho]) _).trans ?_)
  simp only [show s.mboxBegun.arg k 0 = kind from hkind, hk]
  rfl

theorem exec_reliefSwap_chain (hk : kind = 1) :
    let t := s.mboxBegun
    let no := t.swapRefused k kind unit row
    exec .reliefSwap s = .next (if 12 ≤ unit then no 2
      else if s.chainRelieved (unit / 4) = some (unit % 4) then no 5
      else if (s.chainRelieved (unit / 4)).isSome || (s.chainSwap (unit / 4)).isSome then no 1
      else t.askChainSwap (unit / 4) (unit % 4) 0 (some k)) := by
  subst hu hr
  refine congrArg Host.Outcome.next ((pf0Command_runs hc hs hb hp (by simp [ho]) _).trans ?_)
  simp only [show s.mboxBegun.arg k 0 = kind from hkind, hk]
  rfl

theorem exec_reliefSwap_reach (hk : kind = 2) :
    let t := s.mboxBegun
    let no := t.swapRefused k kind unit row
    exec .reliefSwap s = .next (if 64 ≤ unit then no 2
      else if s.on (F.rlfReachReplaced unit) || s.relief.waiting.any (fun p => p.kind == 2 && p.unit == unit) then no 5
      else match s.freeReaches with
        | [] => no 1
        | r :: _ => t.askReachSwap unit r 0 (some k)) := by
  subst hu hr
  refine congrArg Host.Outcome.next ((pf0Command_runs hc hs hb hp (by simp [ho]) _).trans ?_)
  simp only [show s.mboxBegun.arg k 0 = kind from hkind, hk]
  rfl

theorem exec_reliefSwap_row (hk : kind = 3) :
    let t := s.mboxBegun
    exec .reliefSwap s = .next (if 256 ≤ unit ∨ 1024 ≤ row then t.swapRefused k kind unit row 2
      else t.commandRepair k kind unit row (.row unit row) (s.hold.reliefRows.contains (unit, row)) (s.rowsFree unit)) := by
  subst hu hr
  refine congrArg Host.Outcome.next ((pf0Command_runs hc hs hb hp (by simp [ho]) _).trans ?_)
  simp only [show s.mboxBegun.arg k 0 = kind from hkind, hk]
  rfl

theorem exec_reliefSwap_bank (hk : kind = 4) :
    let t := s.mboxBegun
    exec .reliefSwap s = .next (if 256 ≤ unit then t.swapRefused k kind unit row 2
      else t.commandRepair k kind unit row (.bank unit) (s.hold.reliefBanks.contains unit) (s.get F.holdRepairStatusBanksFree)) := by
  subst hu hr
  refine congrArg Host.Outcome.next ((pf0Command_runs hc hs hb hp (by simp [ho]) _).trans ?_)
  simp only [show s.mboxBegun.arg k 0 = kind from hkind, hk]
  rfl

theorem exec_reliefSwap_pll (hk : kind = 5) :
    let t := s.mboxBegun
    let no := t.swapRefused k kind unit row
    exec .reliefSwap s = .next (if 4 ≤ unit then no 2
      else if s.relief.pll = some unit then no 5
      else if s.relief.pll.isSome then no 1
      else { t with relief := { s.relief with waiting := s.relief.waiting ++ [⟨5, unit, 0, 0, 0, some k, 0, false⟩] } }) := by
  subst hu hr
  refine congrArg Host.Outcome.next ((pf0Command_runs hc hs hb hp (by simp [ho]) _).trans ?_)
  simp only [show s.mboxBegun.arg k 0 = kind from hkind, hk]
  rfl

omit hu hr in
theorem exec_reliefSwap_unknown (hk : 6 ≤ kind) : exec .reliefSwap s = .next (s.mboxBegun.mboxDone k 2 0 []) := by
  refine congrArg Host.Outcome.next ((pf0Command_runs hc hs hb hp (by simp [ho]) _).trans ?_)
  obtain ⟨n, hn⟩ := Nat.exists_eq_add_of_le' hk
  simp only [show s.mboxBegun.arg k 0 = n + 6 from hkind.trans hn]

end

end

section
variable {s : State} {k kind unit row : Nat} {r : Repair} {again : Bool} {free : Nat}

/-- A commanded repair by what is repaired, free and under way. -/
theorem commandRepair_cases : (again = true → s.commandRepair k kind unit row r again free = s.swapRefused k kind unit row 5) ∧
    (again = false → free = 0 → s.commandRepair k kind unit row r again free = s.swapRefused k kind unit row 1) ∧
    (again = false → free ≠ 0 → s.hold.repair ≠ none → s.commandRepair k kind unit row r again free = s.swapRefused k kind unit row 3) ∧
    (again = false → free ≠ 0 → s.hold.repair = none → s.commandRepair k kind unit row r again free = s.beginRepair r 0 (some k)) := by
  unfold State.commandRepair
  refine ⟨fun h => if_pos h, fun h h0 => ?_, fun h h0 hr => ?_, fun h h0 hr => ?_⟩
  · rw [if_neg (by rw [h]; decide), if_pos h0]
  · rw [if_neg (by rw [h]; decide), if_neg h0, if_pos (Option.isSome_iff_ne_none.2 hr)]
  · rw [if_neg (by rw [h]; decide), if_neg h0, if_neg (by rw [hr]; decide)]

end

theorem mailboxStore_queues {s : State} {kind : Nat} (h : s.nextSeq kind ≤ 0xFFFFFFFE) (k : Nat) (payload : List Byte) (digests : Nat) :
    s.mailboxStore k kind payload digests = s.queueStore ⟨kind, false, payload, [], [], digests, .mailbox k⟩ := if_neg (by omega)

theorem mailboxStore_exhausted {s : State} {kind : Nat} (h : 0xFFFFFFFE < s.nextSeq kind) (k : Nat) (payload : List Byte) (digests : Nat) :
    s.mailboxStore k kind payload digests = s.mboxDone k 3 0x707 [] := if_pos h

theorem hostReads_nextSeq (s : State) (f a n kind : Nat) : (s.hostReads f a n).nextSeq kind = s.nextSeq kind := by
  have h : (s.hostReads f a n).cal = s.cal := (hostReads_frame (P := [.host, .out]) (Frame.refl [] _ s) f a n (by simp) (by simp)).rest .cal (by simp)
  exact congrArg (fun x => ({ s with cal := x } : State).nextSeq kind) h

/-- Settles O55: the answer of each command by the tests of its table in their order. -/
theorem mailboxStoreCommands : Obligations.MailboxStoreCommands := by
  unfold Obligations.MailboxStoreCommands
  intro s k hc hs hb hp
  refine ⟨fun t f a n => ⟨hostReads_frame (Frame.refl _ _ t) f a n (by simp) (by simp), hostReads_out t f a n⟩,
    fun most fuel a n hn => linkPieces_spec most hn, s.mboxBegun, mboxBegun_begins hc hs hb, ?_⟩
  intro op kind ends
  refine ⟨fun ho => ?_, fun ho data => ?_, fun ho => ?_, fun ho => ?_, fun ho => ?_, fun ho => ?_, fun ho => ?_⟩
  · have e := exec_calRead hc hs hb hp ho
    refine ⟨fun ok h => (e ok).trans ?_, fun ok h hn => (e ok).trans ?_, fun ok ab h hf hm => (e ok).trans ?_, fun ab h hf hm => ?_⟩
    · rw [if_pos h]
    · rw [if_neg (Nat.not_le.2 h), hn]
    · rw [if_neg (Nat.not_le.2 h), hf, hm]
      rfl
    · refine ⟨(e true).trans ?_, (e false).trans ?_⟩
      all_goals
        rw [if_neg (Nat.not_le.2 h), hf, hm]
        rfl
  · have e := exec_calStore hc hs hb hp ho data
    have writes (h : kindWritable kind = true) := e.trans (congrArg _ ((if_neg (Nat.not_le.2 (kindWritable_lt h))).trans (if_neg (by rw [h]; decide))))
    refine ⟨fun h => e.trans ?_, fun h hw => e.trans ?_, fun hw hl => (writes hw).trans ?_, fun hw hl hn => (writes hw).trans ?_, fun hw hl hn => ?_⟩
    · rw [if_pos h]
    · rw [if_neg (Nat.not_le.2 h), if_pos (by rw [hw]; rfl)]
    · rw [if_pos hl]
    · rw [if_neg (Nat.not_lt.2 hl), if_pos hn]
    · have fetches := (writes hw).trans (congrArg _ ((if_neg (Nat.not_lt.2 hl)).trans (if_neg (Nat.not_lt.2 hn))))
      refine ⟨fun h0 => fetches.trans ?_, fun h0 hm => fetches.trans ?_, fun h0 hm => ⟨fun l hd hlen => fetches.trans ?_, fun hd => fetches.trans ?_⟩⟩
      · rw [if_pos h0]
        exact congrArg _ (mailboxStore_queues (s := s.mboxBegun) hn ..)
      · rw [if_neg h0, if_pos (by rw [hm]; rfl)]
      · rw [if_neg h0, if_neg (by rw [hm]; decide), hd]
        exact congrArg _ ((if_pos hlen).trans (mailboxStore_queues (by rw [hostReads_nextSeq]; exact hn) ..))
      · rw [if_neg h0, if_neg (by rw [hm]; decide), hd]
  · have e := exec_calClear hc hs hb hp ho
    refine ⟨fun h => e.trans ?_, fun h hw => e.trans ?_, fun hw => e.trans ?_⟩
    · rw [if_pos h]
    · rw [if_neg (Nat.not_le.2 h), if_pos (by rw [hw]; rfl)]
    · rw [if_neg (Nat.not_le.2 (kindWritable_lt hw)), if_neg (by rw [hw]; decide)]
  · intro old digest
    have e := exec_calSetDigest hc hs hb hp ho
    refine ⟨fun h => e.trans ?_, fun h hd => e.trans ?_, fun h hd hn => e.trans ?_, fun h hd hn => e.trans ?_⟩
    · rw [if_pos h]
    · rw [if_neg (Nat.not_le.2 h), if_pos hd]
    · rw [if_neg (Nat.not_le.2 h), if_neg (by rw [hd]; decide)]
      exact congrArg _ (mailboxStore_exhausted (s := s.mboxBegun) hn ..)
    · rw [if_neg (Nat.not_le.2 h), if_neg (by rw [hd]; decide)]
      exact congrArg _ (mailboxStore_queues (s := s.mboxBegun) hn ..)
  · refine ⟨_, s.mboxBegun.bumpFree, exec_calStatus hc hs hb hp ho, ?_, rfl, fun kind c hk hf => ?_⟩
    · exact Frame.fields (Frame.refl _ _ _) fun p hm => by cases p <;> first | rfl | exact absurd (by simp) hm
    · rw [bit_ofBits_range _ hk, hf]
  · have e := exec_otpFuse hc hs hb hp ho
    refine ⟨fun h => e.trans (by rw [if_pos h]), fun h => ?_⟩
    intro sign key sub again new
    let b := s.arg k 0 % 2 == 1
    have hb' : b = true ↔ sign := beq_iff_eq
    have hagain : (b && s.otp.signRequired || decide (key ≠ 0) && s.otp.keyHash.isSome || decide (sub ≠ 0) && s.otp.subsys.isSome) = true ↔ again := by
      simp only [Bool.or_eq_true, Bool.and_eq_true, decide_eq_true_eq, Option.isSome_iff_ne_none, hb', or_assoc, again]
    have hnew : s.otp.fuse b key sub ≠ s.otp ↔ new := by
      rw [fuse_ne_iff, OtpState.blows, hb']
    have e := e.trans (congrArg _ (if_neg (not_not.2 h)))
    have raised : State.raiseIf { s.mboxBegun with otp := s.otp.fuse b key sub } (!(b && s.otp.signRequired || decide (key ≠ 0) && s.otp.keyHash.isSome ||
        decide (sub ≠ 0) && s.otp.subsys.isSome) || decide (s.otp.fuse b key sub ≠ s.otp)) 22 =
        if new ∨ ¬ again then State.raise { s.mboxBegun with otp := s.otp.fuse b key sub } 22 else { s.mboxBegun with otp := s.otp.fuse b key sub } := by
      refine if_congr ?_ rfl rfl
      rw [Bool.or_eq_true, decide_eq_true_eq, hnew, Bool.not_eq_true', ← Bool.not_eq_true, hagain, or_comm]
    refine ⟨{ s.mboxBegun with otp := s.otp.fuse b key sub }, otpPart (Frame.refl _ _ _) _ (by simp), ?_, fuse_keyHash .., fuse_subsys .., ?_⟩
    · rw [fuse_signRequired, Bool.or_eq_true, hb', or_comm]
    · intro v
      refine ⟨fun ha => e.trans ?_, fun ha => e.trans ?_⟩
      · exact congrArg _ ((if_pos (hagain.2 ha)).trans (congrArg (State.mboxDone · k 3 0x704 []) raised))
      · exact congrArg _ ((if_neg (mt hagain.1 ha)).trans (congrArg (State.mboxDone · k 0 0 []) raised))
  · intro unit row refused
    have hkind : s.arg k 0 = kind := rfl
    have hunit : s.arg k 1 = unit := rfl
    have hrow : s.arg k 2 = row := rfl
    clear_value kind unit row
    refine ⟨fun hk => ?_, fun hk => ?_, fun hk hu => ?_, fun hk hu => ?_, fun hk hu => ?_, fun hk hu hr => ?_, fun hk hu => ?_, fun hk hu => ?_, fun hk => ?_,
      exec_reliefSwap_unknown hc hs hb hp ho hkind⟩
    · have e := exec_reliefSwap_lane hc hs hb hp ho hkind hunit hrow hk
      refine ⟨fun h => e.trans ?_, fun hu hr hw hl hf => e.trans ?_, fun hu hr h => e.trans ?_, fun hu hr hw hl hf => e.trans ?_⟩
      · rw [if_pos h]
        rfl
      all_goals rw [if_neg (not_or.2 ⟨Nat.not_le.2 hu, hr⟩)]
      · rw [if_neg (by simp [hw, hl]), if_pos (by simp [hf])]
        rfl
      · rw [if_pos (by simpa [Option.isSome_iff_ne_none] using h)]
        rfl
      · rw [if_neg (by simp [hw, hl]), if_neg (by simpa using hf)]
    · have e := exec_reliefSwap_chain hc hs hb hp ho hkind hunit hrow hk
      refine ⟨fun h => e.trans ?_, fun hu h => e.trans ?_, fun hu h hw => e.trans ?_, fun hu h hw => e.trans ?_⟩
      · rw [if_pos h]
        rfl
      all_goals rw [if_neg (Nat.not_le.2 hu)]
      · rw [if_pos h]
        rfl
      · rw [if_neg h, if_pos (by simpa [Option.isSome_iff_ne_none] using hw)]
        rfl
      · rw [if_neg (by simp [h]), if_neg (by simp [h, hw])]
    · exact (exec_reliefSwap_reach hc hs hb hp ho hkind hunit hrow hk).trans (congrArg _ (if_pos hu))
    · intro taken
      have e := exec_reliefSwap_reach hc hs hb hp ho hkind hunit hrow hk
      have htaken : (s.on (F.rlfReachReplaced unit) || s.relief.waiting.any fun p => p.kind == 2 && p.unit == unit) = true ↔ taken := by
        simp only [Bool.or_eq_true, on_true_iff, List.any_eq_true, Bool.and_eq_true, beq_iff_eq, taken]
      have e := e.trans (congrArg _ (if_neg (Nat.not_le.2 hu)))
      refine ⟨fun h => e.trans ?_, fun h hf => e.trans ?_, fun r rest h hf => e.trans ?_⟩
      · exact congrArg _ (if_pos (htaken.2 h))
      · refine congrArg _ ((if_neg (mt htaken.1 h)).trans ?_)
        rw [hf]
        rfl
      · refine congrArg _ ((if_neg (mt htaken.1 h)).trans ?_)
        rw [hf]
    · exact (exec_reliefSwap_row hc hs hb hp ho hkind hunit hrow hk).trans (congrArg _ (if_pos hu))
    · have e := exec_reliefSwap_row hc hs hb hp ho hkind hunit hrow hk
      have e := e.trans (congrArg _ (if_neg (not_or.2 ⟨Nat.not_le.2 hu, Nat.not_le.2 hr⟩)))
      obtain ⟨again, none', busy, begins⟩ := commandRepair_cases (s := s.mboxBegun) (k := k) (kind := kind) (unit := unit) (row := row)
        (r := .row unit row) (again := s.hold.reliefRows.contains (unit, row)) (free := s.rowsFree unit)
      simp only [List.contains_eq_mem, decide_eq_true_eq, decide_eq_false_iff_not] at again none' busy begins e
      exact ⟨fun h => e.trans (congrArg _ (again h)), fun h h0 => e.trans (congrArg _ (none' h h0)), fun h h0 hr => e.trans (congrArg _ (busy h h0 hr)),
        fun h h0 hr => e.trans (congrArg _ (begins h h0 hr))⟩
    · exact (exec_reliefSwap_bank hc hs hb hp ho hkind hunit hrow hk).trans (congrArg _ (if_pos hu))
    · intro free
      have e := exec_reliefSwap_bank hc hs hb hp ho hkind hunit hrow hk
      have e := e.trans (congrArg _ (if_neg (Nat.not_le.2 hu)))
      obtain ⟨again, none', busy, begins⟩ := commandRepair_cases (s := s.mboxBegun) (k := k) (kind := kind) (unit := unit) (row := row)
        (r := .bank unit) (again := s.hold.reliefBanks.contains unit) (free := free)
      simp only [List.contains_eq_mem, decide_eq_true_eq, decide_eq_false_iff_not] at again none' busy begins e
      exact ⟨fun h => e.trans (congrArg _ (again h)), fun h h0 => e.trans (congrArg _ (none' h h0)), fun h h0 hr => e.trans (congrArg _ (busy h h0 hr)),
        fun h h0 hr => e.trans (congrArg _ (begins h h0 hr))⟩
    · have e := exec_reliefSwap_pll hc hs hb hp ho hkind hunit hrow hk
      refine ⟨fun h => e.trans ?_, fun hu h => e.trans ?_, fun hu h hn => e.trans ?_, fun hu h => ⟨_, e.trans ?_, reliefPart (Frame.refl _ _ s.mboxBegun) _ (by simp), rfl⟩⟩
      · rw [if_pos h]
        rfl
      all_goals rw [if_neg (Nat.not_le.2 hu)]
      · rw [if_pos h]
        rfl
      · rw [if_neg h, if_pos (Option.isSome_iff_ne_none.2 hn)]
        rfl
      · rw [if_neg (by simp [h]), if_neg (by simp [h])]

end Sys2Proof.Machine
end

section
/-! Violations, freezing and thawing, acknowledging a cause, and the Function Level Reset (R363 to R372). -/

open Sys2Proof Sys2Proof.Machine

namespace Sys2Proof.Machine

/-! Freezing a reach or a scan-out engine. -/

/-- The two flags that say of any master that it is frozen. -/
def State.marked (s : State) (m : Nat) : State := (s.put (F.mstFreezeCauseFrozen m) 1).put ⟨R.mstFrozen (m / 32), m % 32, m % 32⟩ 1

theorem frozenBit_inWord (m : Nat) : InWord ⟨R.mstFrozen (m / 32), m % 32, m % 32⟩ := ⟨Nat.le_refl _, Nat.mod_lt _ (by decide)⟩

theorem marked_frame (s : State) (m : Nat) : Frame (frozenFields m) [] s (s.marked m) :=
  ((Frame.refl _ _ s).put (by simp [frozenFields])).put (by simp [frozenFields])

theorem marked_frozen (s : State) (m : Nat) : (s.marked m).frozen m = true := by
  refine on_of _ _ ?_
  unfold State.marked
  rw [State.get_put_other _ (.inl (by simp only [F.mstFreezeCauseFrozen, R.mstFreezeCause, R.mstFrozen]; omega)) (.ofBits rfl)]
  exact get_put_of_lt _ (.ofBits rfl) (show 1 < 2 ^ 1 by decide)

theorem marked_bit (s : State) (m : Nat) : (s.marked m).get ⟨R.mstFrozen (m / 32), m % 32, m % 32⟩ = 1 :=
  get_put_of_lt _ (frozenBit_inWord m) (by simp)

theorem setFrozen_reach (s : State) {m : Nat} (h : 0x60 ≤ m ∧ m < 0xA4) :
    s.setFrozen m true = (List.range 4).foldl State.noteStall ((s.marked m).abortRoute (m - 0x60)) := by
  unfold State.setFrozen
  dsimp only
  rw [if_neg (by omega), if_neg (by omega), if_neg (by omega), if_pos ⟨h.1, h.2, rfl⟩]
  rfl

theorem setFrozen_scanOut (s : State) {m : Nat} (h : 0xC0 ≤ m ∧ m < 0xC4) : s.setFrozen m true = (s.marked m).noteStall (m - 0xC0) := by
  unfold State.setFrozen
  dsimp only
  rw [if_neg (by omega), if_neg (by omega), if_neg (by omega), if_neg (by omega), if_pos ⟨h.1, h.2, rfl⟩]
  rfl

/-! The stall of a route. -/

/-- A running maximum over the stages that satisfy a condition is at least its start and each of their types. -/
theorem stallFold_le (p : RouteStage → Bool) (l : List RouteStage) (k : Nat) : k ≤ l.foldl (fun k st => if p st then max k st.type else k) k ∧
    ∀ st ∈ l, p st = true → st.type ≤ l.foldl (fun k st => if p st then max k st.type else k) k := by
  induction l generalizing k with
  | nil => exact ⟨Nat.le_refl _, by simp⟩
  | cons x l ih =>
    rw [List.foldl_cons]
    obtain ⟨start, stages⟩ := ih (if p x then max k x.type else k)
    refine ⟨Nat.le_trans ?_ start, ?_⟩
    · split
      · exact Nat.le_max_left ..
      · exact Nat.le_refl _
    · rw [List.forall_mem_cons]
      refine ⟨fun h => Nat.le_trans ?_ start, stages⟩
      rw [if_pos h]
      exact Nat.le_max_right ..

theorem stallNow_scanOut (s : State) {n : Nat} (h : s.frozen (0xC0 + n) = true) : 1 ≤ s.stallNow n := by
  have := (stallFold_le (fun st => st.reaches.any fun r => s.frozen (0x60 + r)) (s.cfg n).stages (if s.frozen (0xC0 + n) then 1 else 0)).1
  rw [if_pos h] at this
  unfold State.stallNow
  rw [if_pos h]
  exact this

theorem stallNow_stage (s : State) {n r : Nat} {x : RouteStage} (hx : x ∈ (s.cfg n).stages) (hr : r ∈ x.reaches) (h : s.frozen (0x60 + r) = true) :
    x.type ≤ s.stallNow n :=
  (stallFold_le (fun st => st.reaches.any fun r => s.frozen (0x60 + r)) _ _).2 x hx (List.any_eq_true.2 ⟨r, hr, h⟩)

theorem stallNow_zero (s : State) {n : Nat} (h : s.stallNow n = 0) : s.frozen (0xC0 + n) = false ∧
    ∀ x ∈ (s.cfg n).stages, x.type ≠ 0 → ∀ r ∈ x.reaches, s.frozen (0x60 + r) = false := by
  refine ⟨?_, fun x hx ht r hr => ?_⟩
  · by_contra hf
    have := stallNow_scanOut s (Bool.eq_true_of_not_eq_false hf)
    omega
  · by_contra hf
    have := stallNow_stage s hx hr (Bool.eq_true_of_not_eq_false hf)
    omega

theorem noteStall_frame (s : State) (n : Nat) : Frame [] [.output n] s (s.noteStall n) := State.setOut_frame (Frame.refl _ _ s) n _ (by simp)

/-! Violations. -/

section
variable (s : State) {m : Nat} (code addr : Nat) (write : Bool) (src : Nat)

theorem violate_trusted (h : 1 ≤ m ∧ m ≤ 3) : s.violate m code addr write src =
    if s.get (F.mstFreezeCauseCode m) ≠ 0 then s.put (F.mstFreezeCauseMore m) 1 else (s.latchCause m code addr write src).raise 70 := if_pos h

theorem violate_frozen (h : ¬ (1 ≤ m ∧ m ≤ 3)) (hf : s.frozen m = true) : s.violate m code addr write src = s.put (F.mstFreezeCauseMore m) 1 :=
  (if_neg h).trans (if_pos hf)

theorem violate_freezes (h : ¬ (1 ≤ m ∧ m ≤ 3)) (hf : s.frozen m = false) :
    s.violate m code addr write src = ((s.latchCause m code addr write src).setFrozen m true).raise (freezeEvent m) :=
  (if_neg h).trans (if_neg (by rw [hf]; decide))

theorem moreSet_frame : Frame [F.mstFreezeCauseMore m] [] s (s.put (F.mstFreezeCauseMore m) 1) := (Frame.refl _ _ s).put (by simp)

theorem moreSet_get : (s.put (F.mstFreezeCauseMore m) 1).get (F.mstFreezeCauseMore m) = 1 :=
  get_put_of_lt _ (.ofBits rfl) (show 1 < 2 ^ 1 by decide)

end

/-! Thaw and acknowledgement. -/

section
variable {s : State} {w : Writer} {id : BitVec 8} (h : s.accepts w R.mstThaw = true)
include h

theorem exec_mstThaw (meets : Option Meeting) : exec (.mstThaw w id meets) s = .next (
    let m := id.toNat
    let t := s.puts [(F.mstThawId, m), (F.mstThawStatusLastId, m)]
    let refuse := fun (u : State) (code : Nat) => (u.put F.mstThawStatusLastCode code).raise 72
    match meets with
      | some v =>
        if thawable m then refuse (t.meetViolation m v) 0x212
        else refuse (if 1 ≤ m ∧ m ≤ 3 then t.violate m v.code.toNat v.addr.toNat v.write v.src.toNat else t) 0x213
      | none =>
        if !thawable m then refuse t 0x213
        else if !t.frozen m then refuse t 0x211
        else if t.get (F.mstFreezeCauseCode m) ≠ 0 then refuse t 0x210
        else ((t.thawMaster m).put F.mstThawStatusLastCode 0).raise 71) :=
  congrArg _ (State.writeBy_accepts h)

end

theorem exec_causeAck {s : State} {w : Writer} {m : BitVec 8} (h : s.accepts w (R.mstFreezeCause m.toNat) = true) (meets : Option Meeting) :
    exec (.causeAck w m meets) s = .next (match meets with
      | some v => if thawable m.toNat || (decide (1 ≤ m.toNat) && decide (m.toNat ≤ 3)) then s.meetViolation m.toNat v else s.clearCause m.toNat
      | none => s.clearCause m.toNat) :=
  congrArg Host.Outcome.next (State.writeBy_accepts h)

/-- A thaw asked for leaves the causes and the flags of the masters as they are. -/
theorem thawAsked_get (s : State) (m n : Nat) {f : Field} (hf : f.addr = R.mstFreezeCause n) (hw : InWord f) :
    (s.puts [(F.mstThawId, m), (F.mstThawStatusLastId, m)]).get f = s.get f := by
  refine get_puts_apart _ hw ?_
  simp only [List.forall_mem_cons, List.not_mem_nil, false_implies, implies_true, and_true]
  constructor <;> exact .inl (by simp only [hf, F.mstThawId, R.mstThaw, F.mstThawStatusLastId, R.mstThawStatus, R.mstFreezeCause]; omega)

theorem thawAsked_frozen (s : State) (m n : Nat) : (s.puts [(F.mstThawId, m), (F.mstThawStatusLastId, m)]).frozen n = s.frozen n :=
  congrArg (· == 1) (thawAsked_get s m n (f := F.mstFreezeCauseFrozen n) rfl (.ofBits rfl))

/-! The Function Level Reset. -/

/-- A function's part of a reset: its configuration and vectors, its freeze and its cause. -/
def State.functionCleared (s : State) (n : Nat) : State :=
  if (s.resetFn n).frozen (0x40 + n) then ((s.resetFn n).setFrozen (0x40 + n) false).clearCause (0x40 + n)
  else (s.resetFn n).clearCause (0x40 + n)

section
variable (s : State) {n : Nat} (hn : n < 32)

theorem resetFn_frame : Frame [] [.host] s (s.resetFn n) := State.setHost_frame (State.setFn_frame (Frame.refl _ _ s) n _ (by simp)) _ (by simp)

include hn

theorem functionCleared_after : Frame (frozenFields (0x40 + n) ++ causeFields (0x40 + n)) [] (s.resetFn n) (s.functionCleared n) := by
  have cause (t : State) : Frame (frozenFields (0x40 + n) ++ causeFields (0x40 + n)) [] t (t.clearCause (0x40 + n)) :=
    (clearCause_spec t _).1.mono (fun _ h => List.mem_append_right _ h) (by simp)
  unfold State.functionCleared
  split
  · exact .trans ((setFrozen_spec _ (0x40 + n) false (by omega) (by simp) (by simp)).1.mono (fun _ h => List.mem_append_left _ h) (by simp)) (cause _)
  · exact cause _

theorem functionCleared_host : (s.functionCleared n).host = (s.resetFn n).host := (functionCleared_after s hn).rest .host (by simp)

theorem functionCleared_frame : Frame (frozenFields (0x40 + n) ++ causeFields (0x40 + n)) [.host] s (s.functionCleared n) :=
  .trans ((resetFn_frame s).mono (by simp) fun _ h => h) ((functionCleared_after s hn).mono (fun _ h => h) (by simp))

/-- The registers of a function's freeze and cause are no channel's. -/
theorem functionFields_apart {g : Field} (hg : 0x80000 ≤ g.addr) : ∀ f ∈ frozenFields (0x40 + n) ++ causeFields (0x40 + n), Apart f g := by
  unfold frozenFields causeFields
  rw [if_neg (by omega), if_neg (by omega), if_neg (by omega)]
  simp only [List.append_nil, List.cons_append, List.nil_append, List.forall_mem_cons, List.not_mem_nil, false_implies, implies_true, and_true]
  refine ⟨?_, ?_, ?_, ?_, ?_, ?_, ?_⟩
  all_goals exact .inl (by simp only [F.mstFreezeCauseFrozen, R.mstFreezeCause, R.mstFrozen, F.mstFreezeCauseCode, F.mstFreezeCauseMore, whole, R.mstCauseAddrLo,
    R.mstCauseAddrHi, R.mstCauseDetail]; omega)

omit hn in
theorem clearCause_frozen (t : State) (m : Nat) : (t.clearCause m).frozen m = t.frozen m := by
  refine congrArg (· == 1) ((clearCause_spec t m).1.get (.ofBits rfl) ?_)
  unfold causeFields
  simp only [List.forall_mem_cons, List.not_mem_nil, false_implies, implies_true, and_true]
  refine ⟨.ofBits rfl, .ofBits rfl, ?_, ?_, ?_⟩
  all_goals exact .inl (by simp only [whole, F.mstFreezeCauseFrozen, R.mstFreezeCause, R.mstCauseAddrLo, R.mstCauseAddrHi, R.mstCauseDetail]; omega)

theorem functionCleared_frozen : (s.functionCleared n).frozen (0x40 + n) = false := by
  unfold State.functionCleared
  split
  · exact (clearCause_frozen _ _).trans (setFrozen_spec _ (0x40 + n) false (by omega) (by simp) (by simp)).2.1
  · next h => exact (clearCause_frozen _ _).trans (Bool.eq_false_of_not_eq_true h)

omit hn in
theorem functionCleared_cause : (s.functionCleared n).get (F.mstFreezeCauseCode (0x40 + n)) = 0 ∧
    (s.functionCleared n).get (F.mstFreezeCauseMore (0x40 + n)) = 0 := by
  unfold State.functionCleared
  split
  · exact ⟨(clearCause_spec _ _).2.1, (clearCause_spec _ _).2.2.1⟩
  · exact ⟨(clearCause_spec _ _).2.1, (clearCause_spec _ _).2.2.1⟩

/-- Without a running channel of its own the reset of a VF is its own part alone. -/
theorem resetFunction_quiet (h0 : n ≠ 0) (hq : ∀ ch, ch < 32 → ¬ (s.get (F.dmaFuncFunc ch) = n ∧ s.get (F.dmaStatusState ch) = 1)) :
    s.resetFunction n = s.functionCleared n := by
  have quiet (ch : Nat) (hch : ch < 32) (t : State) (ht : t = s.functionCleared n) :
      (if t.get (F.dmaFuncFunc ch) == n && t.get (F.dmaStatusState ch) == 1 then (t.abortRun ch).dmaGo t else t) = s.functionCleared n := by
    have frame := functionCleared_frame s hn
    rw [ht, frame.get (g := F.dmaFuncFunc ch) (.ofBits rfl) (functionFields_apart hn (by simp only [F.dmaFuncFunc, R.dmaFunc]; omega)),
      frame.get (g := F.dmaStatusState ch) (.ofBits rfl) (functionFields_apart hn (by simp only [F.dmaStatusState, R.dmaStatus]; omega))]
    exact if_neg (by simpa only [Bool.and_eq_true, beq_iff_eq] using hq ch hch)
  refine (if_neg h0).trans ?_
  exact foldl_inv (fun t : State => t = s.functionCleared n) _ _ _ rfl fun t ch hm ht => quiet ch (List.mem_range.1 hm) t ht

end

theorem fnCfg_of_host {s t : State} (h : t.host = s.host) (n : Nat) : t.fnCfg n = s.fnCfg n :=
  congrArg (fun x : HostState => x.fns.getD n FnConfig.reset) h

theorem setFn_fnCfg (s : State) (n k : Nat) (g : FnConfig → FnConfig) (h : k ≠ n) : (s.setFn n g).fnCfg k = s.fnCfg k := by
  show (updAt s.host.fns n g).getD k FnConfig.reset = s.host.fns.getD k FnConfig.reset
  rw [List.getD_eq_getElem?_getD, updAt_other _ _ _ _ (Ne.symm h), List.getD_eq_getElem?_getD]

theorem setFn_fnCfg_same (s : State) {n : Nat} (g : FnConfig → FnConfig) (h : n < s.host.fns.length) : (s.setFn n g).fnCfg n = g (s.fnCfg n) := by
  show (updAt s.host.fns n g).getD n FnConfig.reset = g (s.host.fns.getD n FnConfig.reset)
  rw [List.getD_eq_getElem?_getD, updAt_same, List.getElem?_eq_getElem h, List.getD_eq_getElem?_getD, List.getElem?_eq_getElem h]
  rfl

/-- Settles O53: a violation by whether its master is frozen or trusted, thaw and acknowledgement by the tests of their commands, the reset by
its function's part. -/
theorem freezeAndThaw : Obligations.FreezeAndThaw := by
  unfold Obligations.FreezeAndThaw
  refine ⟨fun s m code addr write src hm ht => ⟨fun hf => ?_, fun hf => ⟨_, violate_frozen s code addr write src ht hf, moreSet_frame s, moreSet_get s⟩⟩,
    fun s m code addr write src h1 h3 => ⟨fun h => ?_, fun h => ?_⟩, fun s m code addr write src hm => latch_spec s m code addr write src hm,
    fun s n o hn ho => ?_, fun s r => ?_, fun s l => ⟨fun h => ?_, fun c h => ?_⟩, fun s w id h => ?_, fun s w m h => ⟨?_, ?_⟩, fun s m v => ?_, fun s f => ?_⟩
  · rw [violate_freezes s code addr write src ht hf]
    by_cases reach : 0x60 ≤ m ∧ m < 0xA4
    · refine ⟨_, (s.latchCause m code addr write src).marked m, ?_, rfl, marked_frame _ m, marked_frozen _ m, marked_bit _ m, by omega, by omega, by omega⟩
      rw [setFrozen_reach _ reach, if_pos reach]
    · by_cases scanOut : 0xC0 ≤ m ∧ m < 0xC4
      · refine ⟨_, (s.latchCause m code addr write src).marked m, ?_, rfl, marked_frame _ m, marked_frozen _ m, marked_bit _ m, by omega, by omega, by omega⟩
        rw [setFrozen_scanOut _ scanOut, if_neg reach, if_pos scanOut]
      · refine ⟨_, _, ?_, rfl, setFrozen_spec _ m true hm (fun h => reach ⟨h.1, h.2.1⟩) fun h => scanOut ⟨h.1, h.2.1⟩⟩
        rw [if_neg reach, if_neg scanOut]
  · exact (violate_trusted s code addr write src ⟨h1, h3⟩).trans (if_neg (not_not.2 h))
  · exact ⟨_, (violate_trusted s code addr write src ⟨h1, h3⟩).trans (if_pos h), moreSet_frame s, moreSet_get s⟩
  · exact ⟨_, _, rfl, noteStall_frame s n, updAt_some ho, rfl, stallNow_zero s, fun x hx r hr hf => stallNow_stage s hx hr hf, stallNow_scanOut s⟩
  · simp only [State.abortRoute, List.contains_iff_mem]
  · simp only [State.abortCal, h]
  · simp only [State.abortCal, h]
  · intro m
    have e := exec_mstThaw (id := id) h
    refine ⟨s.puts [(F.mstThawId, m), (F.mstThawStatusLastId, m)], (Frame.refl _ _ s).puts (by simp), ?_, get_put_of_lt _ (.ofBits rfl) id.isLt, ?_⟩
    · exact (State.get_put_other _ (.ofRegs rfl) (.ofBits rfl) _).trans (get_put_of_lt _ (.ofBits rfl) id.isLt)
    intro refused
    refine ⟨fun ht => (e none).trans ?_, fun v ht => (e (some v)).trans ?_, fun v ht => (e (some v)).trans ?_, fun ht hf => (e none).trans ?_,
      fun ht hf hc => (e none).trans ?_, fun ht hf hc => (e none).trans ?_⟩
    · exact congrArg _ (if_pos (by rw [ht]; rfl))
    · exact congrArg _ (if_neg (by rw [ht]; decide))
    · exact congrArg _ (if_pos ht)
    all_goals refine congrArg _ ((if_neg (by rw [ht]; decide)).trans ?_)
    · exact if_pos (by rw [thawAsked_frozen, hf]; rfl)
    all_goals refine (if_neg (by rw [thawAsked_frozen, hf]; decide)).trans ?_
    · exact if_pos (by rw [thawAsked_get s _ _ rfl (.ofBits rfl)]; exact hc)
    · exact if_neg (not_not.2 ((thawAsked_get s _ _ rfl (.ofBits rfl)).trans hc))
  · exact .quiet (exec_causeAck h none) (clearCause_spec s _).1 (clearCause_spec s _).2
  · intro trusted v
    have known : (thawable m.toNat || (decide (1 ≤ m.toNat) && decide (m.toNat ≤ 3))) = true ↔ thawable m.toNat = true ∨ trusted := by
      simp only [Bool.or_eq_true, Bool.and_eq_true, decide_eq_true_eq, trusted]
    refine ⟨fun hm => (exec_causeAck h (some v)).trans (congrArg _ (if_pos (known.2 hm))), fun hm ht => ?_⟩
    rw [exec_causeAck h none]
    refine (exec_causeAck h (some v)).trans (congrArg _ (if_neg (mt known.1 (not_or.2 ⟨?_, ht⟩))))
    rw [hm]
    decide
  · exact ⟨fun h1 h3 => if_pos ⟨h1, h3⟩, fun ht hf => (if_neg ht).trans (if_pos hf), fun ht hf => (if_neg ht).trans (if_neg (by rw [hf]; decide))⟩
  · have e (he : s.fnExists f = true) (hp : s.power.off = false) :
        exec (.functionLevelReset f) s = .next ((s.resetFunction f).setFn f fun x => { x with flrBusy := true }) :=
      if_neg (by rw [he, hp]; decide)
    refine ⟨fun h => ?_, e, fun he hp h0 hq => ?_, fun h => if_pos (by rw [h]; rfl), fun h => ?_⟩
    · refine if_pos ?_
      rcases h with h | h
      · exact .inl (by rw [h]; rfl)
      · exact .inr h
    · have e := e he hp
      rw [resetFunction_quiet s f.isLt h0 hq] at e
      obtain ⟨code, more⟩ := functionCleared_cause s (n := f.val)
      have host := functionCleared_host s f.isLt
      refine .quiet e (State.setFn_frame (functionCleared_frame s f.isLt) _ _ (by simp)) ⟨?_, ?_, ?_, fun hl => ?_, fun g hg => ?_, fun v => ?_, fun v => ?_, fun v => ?_⟩
      · exact (congrArg (· == 1) (State.setFn_get ..)).trans (functionCleared_frozen s f.isLt)
      · exact (State.setFn_get ..).trans code
      · exact (State.setFn_get ..).trans more
      · have e : ((s.functionCleared f).fnCfg f) = FnConfig.reset :=
          (fnCfg_of_host host f).trans (setFn_fnCfg_same s (fun _ => FnConfig.reset) hl)
        rw [setFn_fnCfg_same _ _ (by rw [host]; exact (List.length_modify ..).trans_gt hl), e]
      · exact (setFn_fnCfg _ _ g _ hg).trans ((fnCfg_of_host host g).trans (setFn_fnCfg s f g _ hg))
      · show v ∈ (s.functionCleared f).host.unmasked ↔ _
        rw [host]
        exact List.mem_filter.trans (and_congr_right' bne_iff_ne)
      · show v ∈ (s.functionCleared f).host.entries ↔ _
        rw [host]
        exact List.mem_filter.trans (and_congr_right' bne_iff_ne)
      · show v ∈ (s.functionCleared f).host.pba ↔ _
        rw [host]
        exact List.mem_filter.trans (and_congr_right' bne_iff_ne)
    · refine .intro (if_neg (by rw [h]; decide)) (State.setFn_frame (Frame.refl _ _ s) _ _ (by simp)) rfl

end Sys2Proof.Machine
end

section
/-! The host link, accesses through BAR2, and configuration writes (R351 to R362, R384, R394). -/

open Sys2Proof Sys2Proof.Machine

namespace Sys2Proof.Machine

/-! The completions of a read. -/

/-- The pieces of a completion add up to it; each ends at a 64-byte boundary or with the bytes. -/
theorem completionPieces_spec (most : Nat) {fuel a n : Nat} (hn : n ≤ fuel) : ((completionPieces most fuel a n).map (·.2)).sum = n ∧
    ∀ p ∈ completionPieces most fuel a n, 1 ≤ p.2 ∧ p.2 ≤ max 64 most ∧ ((p.1 + p.2) % 64 = 0 ∨ p.1 + p.2 = a + n) := by
  induction fuel generalizing a n with
  | zero =>
    obtain rfl : n = 0 := by omega
    exact ⟨rfl, by simp [completionPieces]⟩
  | succ fuel ih =>
    unfold completionPieces
    split
    · next h => exact ⟨h.symm, by simp⟩
    · next h =>
      dsimp only
      have hm : 64 ≤ max 64 most := Nat.le_max_left ..
      generalize max 64 most = m at hm ih ⊢
      generalize hk : min n ((a + m) / 64 * 64 - a) = k
      obtain ⟨hpos, hle, hmost, hend⟩ : 1 ≤ k ∧ k ≤ n ∧ k ≤ m ∧ ((a + k) % 64 = 0 ∨ a + k = a + n) := by omega
      obtain ⟨sum, pieces⟩ := ih (a := a + k) (n := n - k) (by omega)
      refine ⟨?_, ?_⟩
      · rw [List.map_cons, List.sum_cons, sum]
        omega
      · rw [List.forall_mem_cons, show a + n = a + k + (n - k) by omega]
        exact ⟨⟨hpos, hmost, by omega⟩, pieces⟩

/-- The pieces of a completion lie within its bytes. -/
theorem completionPieces_within (most : Nat) {fuel a n : Nat} : ∀ p ∈ completionPieces most fuel a n, a ≤ p.1 ∧ p.1 + p.2 ≤ a + n := by
  induction fuel generalizing a n with
  | zero => simp [completionPieces]
  | succ fuel ih =>
    unfold completionPieces
    split
    · simp
    · next h =>
      dsimp only
      generalize hk : min n ((a + max 64 most) / 64 * 64 - a) = k
      rw [List.forall_mem_cons]
      refine ⟨⟨Nat.le_refl _, by dsimp only; omega⟩, fun p hp => ?_⟩
      have := ih p hp
      omega

/-! A read discarded: all ones. -/

/-- A read whose words are all answered with ones. -/
def BarRead.ones (r : BarRead) : BarRead := { r with got := (wordsTouched r.start r.len).map fun w => (w, 0, List.replicate 32 0xFF) }

theorem ones_code (r : BarRead) (w : Nat) : r.ones.code w = 0 := by
  unfold BarRead.code BarRead.ones
  cases h : ((wordsTouched r.start r.len).map fun w => (w, 0, List.replicate 32 (0xFF : Byte))).find? (·.1 == w) with
  | none => rfl
  | some x =>
    obtain ⟨v, _, rfl⟩ := List.mem_map.1 (List.mem_of_find?_eq_some h)
    rfl

theorem ones_word (r : BarRead) {w : Nat} (h : w ∈ wordsTouched r.start r.len) :
    ((r.ones.got.find? (·.1 == w)).map (·.2.2)).getD [] = List.replicate 32 0xFF := by
  cases hf : r.ones.got.find? (·.1 == w) with
  | none =>
    have := List.find?_eq_none.1 hf (w, 0, List.replicate 32 0xFF) (List.mem_map.2 ⟨w, h, rfl⟩)
    simp at this
  | some x =>
    obtain ⟨v, _, rfl⟩ := List.mem_map.1 (List.mem_of_find?_eq_some hf)
    rfl

/-- The words that bytes touch hold them all. -/
theorem wordsTouched_covers (a n : Nat) : n ≤ ((wordsTouched a n).map fun w => min (32 - (a - w)) 32).sum := by
  unfold wordsTouched
  split
  · omega
  · next h =>
    have later (k : Nat) : (((List.range k).map fun i => wordOf a + 32 * i).map fun w => min (32 - (a - w)) 32).sum + (if k = 0 then 0 else a % 32) = 32 * k := by
      induction k with
      | zero => rfl
      | succ k ih =>
        rw [List.range_succ, List.map_append, List.map_append, List.sum_append]
        simp only [List.map_cons, List.map_nil, List.sum_cons, List.sum_nil]
        rw [if_neg (Nat.succ_ne_zero k)]
        unfold wordOf at ih ⊢
        split at ih
        · omega
        · omega
    have := later ((a + n - 1) / 32 - a / 32 + 1)
    rw [if_neg (by omega)] at this
    omega

theorem ones_data (r : BarRead) : r.ones.data = List.replicate r.len 0xFF := by
  have words : r.ones.data = (((wordsTouched r.start r.len).map fun w => List.replicate (min (32 - (r.start - w)) 32) (0xFF : Byte)).flatten).take r.len := by
    unfold BarRead.data
    refine congrArg (fun l : List (List Byte) => l.flatten.take r.len) (List.map_congr_left fun w hw => ?_)
    rw [ones_word r hw]
    exact List.take_replicate ..
  rw [words, List.eq_replicate_iff]
  constructor
  · rw [List.length_take, List.length_flatten, List.map_map, Nat.min_eq_left]
    simpa [Function.comp_def] using wordsTouched_covers r.start r.len
  · intro b hb
    obtain ⟨l, hl, hbl⟩ := List.mem_flatten.1 (List.mem_of_mem_take hb)
    obtain ⟨w, _, rfl⟩ := List.mem_map.1 hl
    exact List.eq_of_mem_replicate hbl

theorem discardHost_write (s : State) (f : Nat) {a : HoldAccess} (len : Nat) (h : a.write = true) : s.discardHost f a len = s := if_pos h

/-- The completions of a discarded read: all ones, clean. -/
theorem discardHost_read (s : State) (f : Nat) {a : HoldAccess} (len : Nat) (h : a.write = false) : s.discardHost f a len =
    (completionPieces (s.fnCfg f).maxPayload len (wordOf a.addr.toNat + a.rotate.val) len).foldl (fun t p =>
      t.emit (.bar2 f (List.replicate p.2 0xFF) false false)) s := by
  have e : s.discardHost f a len = s.completeRead (barReadOf f a len).ones := if_neg (by rw [h]; decide)
  have clean (p : Nat × Nat) {c : Nat} (hc : c ≠ 0) : ((wordsTouched p.1 p.2).any fun w => (barReadOf f a len).ones.code w == c) = false := by
    refine List.any_eq_false.2 fun w _ => ?_
    rw [ones_code]
    simpa using Ne.symm hc
  have all : ((completionPieces (s.fnCfg f).maxPayload len (wordOf a.addr.toNat + a.rotate.val) len).takeWhile fun p =>
      !(wordsTouched p.1 p.2).any fun w => (barReadOf f a len).ones.code w == 0x404) =
      completionPieces (s.fnCfg f).maxPayload len (wordOf a.addr.toNat + a.rotate.val) len :=
    List.takeWhile_eq_self_iff.2 fun p _ => by rw [clean p (by decide)]; rfl
  rw [e]
  unfold State.completeRead
  dsimp only [BarRead.ones, barReadOf] at all ⊢
  rw [all, if_neg (Nat.lt_irrefl _)]
  refine List.foldl_ext _ _ _ fun t p hp => ?_
  obtain ⟨hstart, hend⟩ := completionPieces_within _ p hp
  have data : (barReadOf f a len).ones.data = List.replicate len 0xFF := ones_data _
  have poisoned := clean p (c := 0x401) (by decide)
  dsimp only [BarRead.ones, barReadOf] at data poisoned
  rw [data, poisoned, List.drop_replicate, List.take_replicate, Nat.min_eq_left (by omega)]

theorem foldl_emit_out {α : Type} (g : α → Out) (l : List α) (s : State) : (l.foldl (fun t p => t.emit (g p)) s).out = (l.map g).reverse ++ s.out := by
  induction l generalizing s with
  | nil => rfl
  | cons x l ih =>
    rw [List.foldl_cons, ih]
    simp [State.emit]

/-! The link. -/

theorem wake_eq_woken (s u : State) (f : Nat) : u.wake f (s.fnSends f) = s.woken u f := by
  unfold State.wake State.woken
  simp only [Bool.and_eq_true, Bool.not_eq_true']

theorem linkRowOk_iff (rate width : Nat) (flit : Bool) : linkRowOk rate width flit = true ↔
    (rate = 2500 ∨ rate = 5000 ∨ rate = 8000 ∨ rate = 16000 ∨ rate = 32000 ∨ rate = 64000) ∧
      (width = 1 ∨ width = 2 ∨ width = 4 ∨ width = 8) ∧ (rate = 64000 → flit = true) := by
  simp only [linkRowOk, Bool.and_eq_true, List.contains_eq_mem, decide_eq_true_eq, List.mem_cons, List.not_mem_nil, or_false, Bool.or_eq_true, bne_iff_ne,
    and_assoc, ← imp_iff_not_or, ne_eq]

/-- The link trained. -/
def State.linkedUp (s : State) (rate width : Nat) (flit : Bool) : State := s.setHost fun h =>
  { h with linkUp := true, rate := rate, width := width, active := width, flitMode := flit, trainedBefore := true, inL1 := false }

theorem exec_linkTrained {s : State} {rate width : Nat} {flit : Bool} (hrow : linkRowOk rate width flit = true) (hp : s.host.perst = false)
    (ho : s.power.off = false) : exec (.linkTrained rate width flit) s = .next (
      (((List.range 32).foldl (fun t f => s.woken t f) (s.linkedUp rate width flit)).raise 32).raiseIf
        (s.host.trainedBefore && (s.host.rate != rate || s.host.width != width || s.host.flitMode != flit)) 34) := by
  show execLinkTrained rate width flit s = _
  unfold execLinkTrained
  rw [if_neg (by rw [hrow, hp, ho]; decide)]
  simp only [wake_eq_woken]
  rfl

theorem exec_linkTrained_idle {s : State} {rate width : Nat} {flit : Bool} (h : ¬ linkRowOk rate width flit = true ∨ s.host.perst = true ∨ s.power.off = true) :
    exec (.linkTrained rate width flit) s = .next s :=
  if_pos (h.imp_left fun h => by rw [Bool.eq_false_of_not_eq_true h]; rfl)

theorem l1Substate_eq (s : State) : s.l1Substate =
    if s.host.aspm.l12 = true ∧ ((s.fnCfg 0).ltrEnable = false ∨ s.host.aspm.threshold ≤ if s.anyChanBusy then 20000 else 1000000) then 2
    else if s.host.aspm.l11 = true then 1 else 0 := by
  unfold State.l1Substate State.tolerance
  simp only [Bool.and_eq_true, Bool.or_eq_true, Bool.not_eq_true', decide_eq_true_eq]

/-! Capabilities and vectors. -/

theorem capAt_absent {n offset : Nat} (h : n ≠ 0) (ho : offset ∉ [0x40, 0x50, 0xA0, 0x100, 0x190, 0x3A0]) : capAt n offset = none := by
  unfold capAt capabilities
  rw [if_neg h, List.append_nil, Option.map_eq_none_iff, List.find?_eq_none]
  intro c hc heq
  have offsets : (commonCaps n).map (·.1) = [0x40, 0x50, 0xA0, 0x100, 0x190, 0x3A0] := rfl
  exact ho (offsets ▸ (beq_iff_eq.1 heq ▸ List.mem_map_of_mem hc))

theorem vectorRange_mem {f v : Nat} (hv : v < 2048) :
    (vectorRange f).1 ≤ v ∧ v < (vectorRange f).1 + (vectorRange f).2 ↔ vectorFn v = f := by
  unfold vectorRange vectorFn
  split <;> split <;> dsimp only <;> omega

theorem barSize_eq (b : Fin 3) (none' : Nat) : ((bars[b.val]?).map (·.size)).getD none' = [2 ^ 26, 2 ^ 30, 2 ^ 16].getD b 1 := by
  match b with
  | 0 | 1 | 2 => rfl

/-! Accesses through BAR2. -/

section
variable {s : State} {f : Fin 32} {a : HoldAccess} {arb : Arbitration} {len : Fin 4097} {more : List Arbitration}

theorem exec_bar2Access_idle (h : s.answers (.fn f) = false ∨ s.host.linkUp = false) : exec (.bar2Access f a arb len more) s = .next s :=
  if_pos (h.imp (fun h => by rw [h]; rfl) fun h => by rw [h]; rfl)

/-- The state in which an access has woken the link. -/
def State.linkAwake (s : State) : State := s.setHost fun h => { h with inL1 := false }

variable (ha : s.answers (.fn f) = true) (hl : s.host.linkUp = true)
include ha hl

theorem exec_bar2Access : exec (.bar2Access f a arb len more) s =
    if s.inWinter || s.hold.unready.contains (bankOf a.addr.toNat / 16) then .next ((s.linkAwake.winterDrop).discardHost f a len)
    else if s.frozen (0x40 + f.val) then
      .next ((if s.mayHold (0x40 + f.val) (bankOf a.addr.toNat) a.write then s.linkAwake
        else s.linkAwake.violate (0x40 + f.val) (s.barCode (0x40 + f.val) a.addr.toNat a.write) a.addr.toNat a.write).discardHost f a len)
    else .next (if a.write then s.linkAwake.presentAccess { a with master := BitVec.ofNat 8 (0x40 + f.val) } arb
      else s.linkAwake.readBar f { a with master := BitVec.ofNat 8 (0x40 + f.val) } arb len more) :=
  if_neg (by rw [ha, hl]; decide)

end

/-! Configuration writes. -/

theorem exec_configWrite_idle {s : State} {f : Fin 32} {c : ConfigChange} (h : s.fnExists f = false ∨ s.power.off = true ∨ s.host.perst = true) :
    exec (.configWrite f c) s = .next s :=
  if_pos (h.imp_left fun h => by rw [h]; rfl)

theorem setFn_withFn (s : State) (f : Nat) (g : FnConfig → FnConfig) : s.withFn f g (s.setFn f g) :=
  ⟨State.setFn_frame (Frame.refl _ _ s) f g (by simp), rfl⟩

theorem setHost_yields {c : Instr} {s : State} {g : HostState → HostState} (h : exec c s = .next (s.setHost g)) :
    Yields c s [] [] [.host] fun u => u.host = g s.host := .quiet h (State.setHost_frame (Frame.refl _ _ s) g (by simp)) rfl

section
variable {s : State} {f : Fin 32} (he : s.fnExists f = true) (ho : s.power.off = false) (hp : s.host.perst = false)
include he ho hp

/-- The function exists and the host reaches it: a configuration write is taken. -/
theorem configWrite_taken : ¬ ((!s.fnExists f) = true ∨ s.power.off = true ∨ s.host.perst = true) := by
  rw [he, ho, hp]
  decide

theorem exec_config_command (m b : Bool) : exec (.configWrite f (.command m b)) s =
    .next (s.woken (s.setFn f fun x => { x with memSpace := m, busMaster := b }) f) :=
  (if_neg (configWrite_taken he ho hp)).trans (congrArg _ (wake_eq_woken ..))

theorem exec_config_power (d : Bool) : exec (.configWrite f (.power d)) s = .next (s.woken (s.setFn f fun x => { x with d3hot := d }) f) :=
  (if_neg (configWrite_taken he ho hp)).trans (congrArg _ (wake_eq_woken ..))

theorem exec_config_msix (e k : Bool) : exec (.configWrite f (.msix e k)) s =
    let u := s.woken (s.setFn f fun x => { x with msixEnable := e, fnMask := k }) f
    .next (if k then u else u.sendHeld (fnVectors f)) := by
  dsimp only
  rw [← wake_eq_woken]
  exact if_neg (configWrite_taken he ho hp)

theorem exec_config_tableEntry (v : Fin 2048) : (exec (.configWrite f (.maskVector v)) s =
    .next (s.tableEntryWrite f v fun t => t.setHost fun h => { h with unmasked := h.unmasked.filter (· != v.val) })) ∧
    ∀ a d, exec (.configWrite f (.entry v a d)) s =
      .next (s.tableEntryWrite f v fun t => t.setHost fun h => { h with entries := putEntry h.entries ⟨v, a.toNat, d.toNat⟩ }) :=
  ⟨if_neg (configWrite_taken he ho hp), fun _ _ => if_neg (configWrite_taken he ho hp)⟩

/-- A VF has none of the registers that PF0 alone has. -/
theorem exec_config_absent (hf : f.val ≠ 0) (e l1 l11 l12 : Bool) (t : Nat) (k : BitVec 16) (w : Fin 4) (b : Fin 3) (a : BitVec 64) (p : Word) (n : BitVec 8) :
    ∀ c ∈ [ConfigChange.ltr e, .aspm l1 l11 l12 t, .sriov e k, .l0p w, .bar b a, .vfBar b a, .pageSize p, .bus n], exec (.configWrite f c) s = .next s := by
  have none' (offset : Nat) (h : offset ∉ [0x40, 0x50, 0xA0, 0x100, 0x190, 0x3A0]) : (capAt f offset).isNone = true := by rw [capAt_absent hf h]; rfl
  have taken := configWrite_taken he ho hp
  simp only [List.forall_mem_cons, List.not_mem_nil, false_implies, implies_true, and_true]
  exact ⟨(if_neg taken).trans (congrArg _ (if_pos (none' _ (by decide)))), (if_neg taken).trans (congrArg _ (if_pos (none' _ (by decide)))),
    (if_neg taken).trans (congrArg _ (if_pos (none' _ (by decide)))), (if_neg taken).trans (congrArg _ (if_pos (.inl hf))),
    (if_neg taken).trans (congrArg _ (if_pos hf)), (if_neg taken).trans (congrArg _ (if_pos hf)),
    (if_neg taken).trans (congrArg _ (if_pos hf)), (if_neg taken).trans (congrArg _ (if_pos hf))⟩

end

/-! Configuration writes to PF0. -/

section
variable {s : State} (he : s.fnExists (0 : Fin 32) = true) (ho : s.power.off = false) (hp : s.host.perst = false)
include he ho hp

theorem exec_config_ltr (e : Bool) : exec (.configWrite 0 (.ltr e)) s = .next (s.setFn 0 fun x => { x with ltrEnable := e }) :=
  (if_neg (configWrite_taken he ho hp)).trans (congrArg _ (if_neg (by decide)))

theorem exec_config_aspm (l1 l11 l12 : Bool) (k : Nat) :
    exec (.configWrite 0 (.aspm l1 l11 l12 k)) s = .next (s.setHost fun h => { h with aspm := ⟨l1, l11, l12, k⟩ }) :=
  (if_neg (configWrite_taken he ho hp)).trans (congrArg _ (if_neg (by decide)))

theorem exec_config_l0p (w : Fin 4) : exec (.configWrite 0 (.l0p w)) s =
    .next (if (0 : Fin 32).val ≠ 0 ∨ !s.host.flitMode then s else s.setHost fun h => { h with active := min h.width (2 ^ w.val) }) :=
  if_neg (configWrite_taken he ho hp)

theorem exec_config_bar (b : Fin 3) (a : BitVec 64) :
    exec (.configWrite 0 (.bar b a)) s = .next (s.setHost fun h => { h with pfBars := updAt h.pfBars b fun _ => barBase b a.toNat }) :=
  (if_neg (configWrite_taken he ho hp)).trans (congrArg _ (if_neg (by decide)))

theorem exec_config_vfBar (b : Fin 3) (a : BitVec 64) :
    exec (.configWrite 0 (.vfBar b a)) s = .next (s.setHost fun h => { h with vfBars := updAt h.vfBars b fun _ => barBase b a.toNat }) :=
  (if_neg (configWrite_taken he ho hp)).trans (congrArg _ (if_neg (by decide)))

theorem exec_config_pageSize (p : Word) : exec (.configWrite 0 (.pageSize p)) s = .next (s.setHost fun h => { h with pageSize := p.toNat }) :=
  (if_neg (configWrite_taken he ho hp)).trans (congrArg _ (if_neg (by decide)))

theorem exec_config_bus (n : BitVec 8) : exec (.configWrite 0 (.bus n)) s = .next (s.setHost fun h => { h with bus := n.toNat }) :=
  (if_neg (configWrite_taken he ho hp)).trans (congrArg _ (if_neg (by decide)))

theorem exec_config_vfsOn (k : BitVec 16) :
    exec (.configWrite 0 (.sriov true k)) s = .next (s.setHost fun h => { h with vfEnable := true, numVfs := min 31 k.toNat }) :=
  (if_neg (configWrite_taken he ho hp)).trans (congrArg _ (if_neg (by decide)))

theorem exec_config_vfsOff (k : BitVec 16) :
    exec (.configWrite 0 (.sriov false k)) s = .next (s.dropVfs.setHost fun h => { h with numVfs := min 31 k.toNat }) :=
  (if_neg (configWrite_taken he ho hp)).trans (congrArg _ (if_neg (by decide)))

end

/-! The MSI-X table. -/

section
variable {s : State} {f v : Nat}

theorem tableEntryWrite_idle (k : State → State) (h : s.answers (.fn (Fin.ofNat 32 f)) = false ∨ vectorFn v ≠ f) : s.tableEntryWrite f v k = s := by
  refine if_pos ?_
  rcases h with h | h
  · rw [h]
    rfl
  · rw [bne_iff_ne.2 h, Bool.or_true]

theorem tableEntryWrite_taken (k : State → State) (h : s.answers (.fn (Fin.ofNat 32 f)) = true) (hv : vectorFn v = f) :
    s.tableEntryWrite f v k = if s.inWinter then s.winterDrop else k s := by
  refine if_neg ?_
  rw [h, hv, bne_self_eq_false]
  decide

end

theorem putEntry_msixOut (s : State) (v a d : Nat) :
    (s.setHost fun h => { h with entries := putEntry h.entries ⟨v, a, d⟩ }).msixOut v = .msix v (vectorFn v) a d := by
  have found : ((s.setHost fun h => { h with entries := putEntry h.entries ⟨v, a, d⟩ }).host.entries.find? (·.vector == v)) = some ⟨v, a, d⟩ :=
    List.find?_cons_of_pos (beq_self_eq_true v)
  unfold State.msixOut
  rw [found]
  rfl

/-- The VFs removed: their configurations reset, their vectors masked. -/
theorem dropVfs_spec (s : State) : Frame [] [.host] s s.dropVfs ∧ s.dropVfs.fnCfg 0 = s.fnCfg 0 ∧ (∀ n, 1 ≤ n → n < 32 → s.dropVfs.fnCfg n = FnConfig.reset) ∧
    s.dropVfs.host.linkUp = s.host.linkUp ∧ s.dropVfs.host.vfEnable = false ∧
    ∀ v, v ∈ s.dropVfs.host.unmasked ↔ v ∈ s.host.unmasked ∧ (vectorFn v = 0 ∨ 32 ≤ vectorFn v) := by
  obtain ⟨h, e, link, fns, unmasked⟩ := resetFns s (List.range 31)
  have mem (n : Nat) : n ∈ (List.range 31).map (· + 1) ↔ 1 ≤ n ∧ n < 32 := by
    simp only [List.mem_map, List.mem_range]
    exact ⟨fun ⟨i, hi, hn⟩ => by omega, fun hn => ⟨n - 1, by omega, by omega⟩⟩
  have host : s.dropVfs = { s with host := { h with vfEnable := false } } := congrArg (State.setHost · fun h => { h with vfEnable := false }) e
  rw [host]
  refine ⟨hostPart (Frame.refl _ _ s) _ (by simp), (fns 0).trans (if_neg ?_), fun n h1 h2 => (fns n).trans (if_pos ((mem n).2 ⟨h1, h2⟩)), link, rfl, fun v => ?_⟩
  · rw [mem]
    omega
  · refine (unmasked v).trans (and_congr_right' ?_)
    rw [mem]
    omega

/-- Settles O52: the link by its row and its state, an access by what it meets, a configuration write by its field. -/
theorem linkAndConfiguration : Obligations.LinkAndConfiguration := by
  unfold Obligations.LinkAndConfiguration
  refine ⟨fun s rate width flit => ?_, fun s => ⟨fun h => if_pos (by rw [h]; rfl), fun h => ?_, ?_, fun h => ?_⟩, fun s f a arb len more => ?_,
    fun most fuel a n hn => completionPieces_spec most hn, fun s f c h => exec_configWrite_idle h, fun s f he ho hp => ?_, fun s v f hv => ?_, fun f hf => ?_⟩
  · intro row
    refine ⟨fun h => exec_linkTrained_idle (h.imp_left (mt (linkRowOk_iff ..).1)), fun hrow hp ho => ?_⟩
    refine ⟨s.linkedUp rate width flit, State.setHost_frame (Frame.refl _ _ s) _ (by simp), rfl, ?_⟩
    refine (exec_linkTrained ((linkRowOk_iff ..).2 hrow) hp ho).trans (congrArg _ (if_congr ?_ rfl rfl))
    simp only [Bool.and_eq_true, Bool.or_eq_true, bne_iff_ne, ne_eq, not_and_or, or_assoc]
  · exact .intro (if_neg (by rw [h]; decide)) (State.setHost_frame (Frame.refl _ _ s) _ (by simp)) rfl
  · intro a low hl h1
    have e : exec .aspmL1Entry s = .next (s.setHost fun h => { h with inL1 := true, sub := s.l1Substate }) := congrArg _ (if_pos (by rw [hl, h1]; rfl))
    rw [l1Substate_eq] at e
    exact setHost_yields e
  · refine congrArg _ (if_neg fun both => ?_)
    obtain ⟨up, on'⟩ := Bool.and_eq_true_iff.1 both
    rcases h with h | h
    · rw [h] at up
      cases up
    · rw [h] at on'
      cases on'
  · intro cmd x start
    refine ⟨exec_bar2Access_idle, fun ha hl => ?_, discardHost_write s f len, fun hw => ?_⟩
    · intro dropped
      have e := exec_bar2Access (a := a) (arb := arb) (len := len) (more := more) ha hl
      have hdropped : (s.inWinter || s.hold.unready.contains (bankOf a.addr.toNat / 16)) = true ↔ dropped := by
        rw [Bool.or_eq_true, List.contains_iff_mem]
      have running (h : s.get (F.mstFreezeCauseFrozen (0x40 + f)) = 0) : ¬ s.frozen (0x40 + f.val) = true := by
        rw [show s.frozen (0x40 + f.val) = false from on_off _ _ h]
        decide
      refine ⟨s.linkAwake, State.setHost_frame (Frame.refl _ _ s) _ (by simp), rfl, fun h => e.trans (if_pos (hdropped.2 h)), fun h hf hw => ?_,
        fun h hf hw => ?_, fun h hf => ?_⟩
      all_goals have e := e.trans (if_neg (mt hdropped.1 h))
      · exact e.trans ((if_neg (running hf)).trans (congrArg _ (if_pos hw)))
      · refine ⟨s.linkAwake.setHost fun h => { h with reads := h.reads ++ [barReadOf f x len] }, State.setHost_frame (Frame.refl _ _ _) _ (by simp), rfl, ?_⟩
        exact e.trans ((if_neg (running hf)).trans (congrArg _ (if_neg (by rw [hw]; decide))))
      · exact e.trans (if_pos (on_of _ _ hf))
    · rw [discardHost_read s f len hw]
      exact ⟨foldl_inv (fun u : State => Frame [] [.out] s u) _ _ _ (Frame.refl _ _ s) fun u p _ hu => hu.emit (by simp),
        foldl_emit_out (fun p : Nat × Nat => Out.bar2 f (List.replicate p.2 0xFF) false false) _ s⟩
  · have taken := configWrite_taken he ho hp
    refine ⟨fun m b => ⟨_, setFn_withFn s f _, exec_config_command he ho hp m b⟩, fun d => ⟨_, setFn_withFn s f _, exec_config_power he ho hp d⟩,
      fun e k => ⟨_, setFn_withFn s f _, exec_config_msix he ho hp e k⟩, fun p r => ⟨_, setFn_withFn s f _, if_neg taken⟩,
      fun m => ⟨_, setFn_withFn s f _, if_neg taken⟩, fun e hf => ?_, fun l1 l11 l12 k i w b a p n => ?_, fun c u => ⟨_, setFn_withFn s f _, if_neg taken⟩,
      fun e l1 l11 l12 t k w b a p n hf => exec_config_absent he ho hp hf e l1 l11 l12 t k w b a p n, fun k hf => ?_, fun k hf => ?_, fun v a d => ?_⟩
    · obtain rfl : f = 0 := Fin.ext hf
      exact ⟨_, setFn_withFn s 0 _, exec_config_ltr he ho hp e⟩
    · intro host based hf
      obtain rfl : f = 0 := Fin.ext hf
      have base : barBase b a.toNat = a.toNat / [2 ^ 26, 2 ^ 30, 2 ^ 16].getD b 1 * [2 ^ 26, 2 ^ 30, 2 ^ 16].getD b 1 := by
        unfold barBase
        rw [barSize_eq]
      have bar := exec_config_bar he ho hp b a
      have vfBar := exec_config_vfBar he ho hp b a
      rw [base] at bar vfBar
      refine ⟨setHost_yields (exec_config_aspm he ho hp l1 l11 l12 k), fun hm => setHost_yields ((exec_config_l0p he ho hp w).trans (congrArg _ (if_neg (by rw [hm]; decide)))),
        fun hm => (exec_config_l0p he ho hp w).trans (congrArg _ (if_pos (.inr (by rw [hm]; rfl)))), setHost_yields bar, setHost_yields vfBar,
        setHost_yields (exec_config_pageSize he ho hp p), setHost_yields (exec_config_bus he ho hp n), fun g hg => ?_, rfl⟩
      refine (if_neg (by omega)).trans ?_
      rw [barSize_eq]
    · obtain rfl : f = 0 := Fin.ext hf
      exact setHost_yields (exec_config_vfsOn he ho hp k)
    · obtain rfl : f = 0 := Fin.ext hf
      obtain ⟨frame, fn0, fns, link, enable, unmasked⟩ := dropVfs_spec s
      have e := exec_config_vfsOff he ho hp k
      generalize s.dropVfs = t at *
      exact .quiet e (State.setHost_frame frame _ (by simp)) ⟨enable, rfl, fn0, fns, link, unmasked⟩
    · obtain ⟨mask, entry⟩ := exec_config_tableEntry he ho hp v
      have answers : s.answers (.fn (Fin.ofNat 32 f)) = s.answers (.fn f) := by rw [Fin.ofNat_val_eq_self]
      simp only [List.forall_mem_cons, List.not_mem_nil, false_implies, implies_true, and_true]
      have idle (k : State → State) (h : s.answers (.fn f) = false ∨ vectorFn v.val ≠ f.val) : s.tableEntryWrite f v k = s :=
        tableEntryWrite_idle k (h.imp_left answers.trans)
      have runs (k : State → State) (ha : s.answers (.fn f) = true) (hv : vectorFn v.val = f.val) :
          s.tableEntryWrite f v k = if s.inWinter then s.winterDrop else k s := tableEntryWrite_taken k (answers.trans ha) hv
      refine ⟨⟨fun h => mask.trans (congrArg _ (idle _ h)), fun ha hv hw => mask.trans (congrArg _ ((runs _ ha hv).trans (if_pos hw))), fun ha hv hw => ?_⟩,
        fun h => (entry a d).trans (congrArg _ (idle _ h)), fun ha hv hw => (entry a d).trans (congrArg _ ((runs _ ha hv).trans (if_pos hw))), fun ha hv hw => ?_⟩
      all_goals
        refine ⟨setHost_yields (mask.trans (congrArg _ ((runs _ ha hv).trans (if_neg (by rw [hw]; decide))))), ?_⟩
        refine .quiet ((entry a d).trans (congrArg _ ((runs _ ha hv).trans (if_neg (by rw [hw]; decide))))) (State.setHost_frame (Frame.refl _ _ s) _ (by simp))
          ⟨rfl, ?_⟩
        rw [putEntry_msixOut, hv]
  · have fn : Fin.ofNat 32 (vectorFn v.val) = f := by rw [hv, Fin.ofNat_val_eq_self]
    have answers : s.answers (.fn (Fin.ofNat 32 (vectorFn v.val))) = s.answers (.fn f) := by rw [fn]
    refine ⟨fun h => congrArg _ (tableEntryWrite_idle _ (.inl (answers.trans h))), fun ha hw => congrArg _ ((tableEntryWrite_taken _ (answers.trans ha) rfl).trans (if_pos hw)),
      fun ha hw => ⟨s.setHost fun h => { h with unmasked := keyInsert h.unmasked v }, ?_, State.setHost_frame (Frame.refl _ _ s) _ (by simp), rfl⟩⟩
    exact congrArg _ ((tableEntryWrite_taken _ (answers.trans ha) rfl).trans (if_neg (by rw [hw]; decide)))
  · refine ⟨_, _, rfl, fun v hv => vectorRange_mem hv, rfl, fun c hc h0 => ?_⟩
    unfold capabilities at hc
    rw [if_neg h0, List.append_nil] at hc
    exact List.mem_map_of_mem (f := (·.1)) hc

end Sys2Proof.Machine
end

section
/-! Sub-rounds of the chain: short flits and pixel groups received, and what a port sends (R299 to R308). -/

open Sys2Proof Sys2Proof.Machine

namespace Sys2Proof.Machine

/-! The scrambler. -/

/-- Bits scrambled twice from one state of the generator are the bits again, and the generator moves on alike. -/
theorem additive_additive (g : Nat) (l : List Bool) : additive g (additive g l).1 = (l, (additive g l).2) := by
  induction l generalizing g with
  | nil => rfl
  | cons d l ih =>
    simp only [additive, ih]
    refine congrArg (fun b => (b :: l, _)) ?_
    cases d <;> cases (g.testBit 57 != g.testBit 38) <;> rfl

/-! A short flit received. -/

section
variable {s : State} {p : Nat} {x : PortState} (hp : s.chain.ports[p]? = some x)
include hp

theorem descramble_lost (raw : List Byte) (h : x.rxOk = false) : (s.descramble p raw).1 = none := by
  simp [State.descramble, port_of hp, h]

/-- Confirmed generators give the plain bytes of the four lanes. -/
theorem descramble_plain (raw : List Byte) {gens : List Nat} (hl : gens.length = 4) (hk : x.rxOk = true) (hg : x.rxGen = gens.map some) :
    (s.descramble p raw).1 = some ((List.range 4).map fun l => bytesOfBits 12 (additive (gens.getD l 0) (shortBits raw l)).1).flatten := by
  have lane (l : Nat) (h : l < 4) : ((x.rxGen.getD l none).map fun g => additive g (((List.range 4).map fun l => shortBits raw l).getD l [])) =
      some (additive (gens.getD l 0) (shortBits raw l)) := by
    have hgen : x.rxGen.getD l none = some (gens.getD l 0) := by
      rw [hg, List.getD_eq_getElem?_getD, List.getElem?_map, List.getD_eq_getElem?_getD, List.getElem?_eq_getElem (by omega)]
      rfl
    have hlane : ((List.range 4).map fun l => shortBits raw l).getD l [] = shortBits raw l := by
      rw [List.getD_eq_getElem?_getD, List.getElem?_map, List.getElem?_range h]
      rfl
    rw [hgen, hlane]
    rfl
  simp only [State.descramble, port_of hp, hk, if_true, List.map_map]
  refine congrArg (fun l : List (List Byte) => some l.flatten) (List.map_congr_left fun l h => ?_)
  simp only [Function.comp_apply, lane l (List.mem_range.1 h)]

omit hp in
theorem descramble_frame (s : State) (p : Nat) (raw : List Byte) : Frame [] [.chain] s (s.descramble p raw).2 :=
  State.setPort_frame (Frame.refl _ _ s) p _ (by simp)

theorem noteMarks_port (marks : List (Option (BitVec 8))) : (s.noteMarks p marks).chain.ports[p]? = some (match markPlace marks with
    | none => { x with goodMarks := 0, lastMark := none }
    | some k =>
      let next := x.lastMark.any fun l => (l + 1) % 40 == k
      { x with goodMarks := if next then min 64 (x.goodMarks + 1) else 1, lastMark := some k }) := by
  refine (setPort_get' hp _).trans (congrArg some ?_)
  cases markPlace marks with
  | none => rfl
  | some k => cases x.lastMark <;> rfl

end

/-- A port that is not OFF, on a part that is powered and out of Winter, takes part in its sub-rounds. -/
theorem port_active {s : State} {p : Fin 3} (hs : s.portSt p ≠ 0) (ho : s.power.off = false) (hw : s.inWinter = false) :
    ¬ (s.portSt p = 0 ∨ s.power.off = true ∨ s.inWinter = true) := by
  rw [ho, hw]
  simpa using hs

theorem exec_shortFlitReceived {s : State} {p : Fin 3} (hs : s.portSt p ≠ 0) (ho : s.power.off = false) (hw : s.inWinter = false)
    (marks : List (Option (BitVec 8))) (skew : Nat) (raw : List Byte) (sub : BitVec 35) :
    let r := ((s.noteMarks p marks).portComes p skew).descramble p raw
    exec (.shortFlitReceived p marks skew raw sub) s = .next (match r.1 with
      | none => r.2
      | some plain => (r.2.takeShort p skew plain sub.toNat).showTimePort) := if_neg (port_active hs ho hw)

section
variable (s : State) (p skew : Nat) {flit : List Byte} (sub : Nat)

theorem takeShort_bad (h : flitGood flit = false) : s.takeShort p skew flit sub = s.count (F.chnpShortErrsCrc p) 1 := if_pos (by rw [h]; rfl)

/-- A good flit by its type, and whether its port is UP. -/
theorem takeShort_good (h : flitGood flit = true) : s.takeShort p skew flit sub =
    if flitType flit = 2 then s.rxLink p skew flit
    else if flitType flit = 1 then (if s.portSt p = 2 ∨ s.portSt p = 3 then s.rxTime p flit sub else s)
    else if s.portSt p ≠ 2 then s
    else if flitType flit = 3 then s.rxToken p flit
    else if 4 ≤ flitType flit ∧ flitType flit ≤ 10 then s.passFlit p flit
    else s := by
  refine (if_neg (by rw [h]; decide)).trans ?_
  simp only [Bool.not_eq_true', decide_eq_false_iff_not]

end

/-! A pixel group received. -/

theorem fecCorr_apart_uncorr (p : Nat) : Apart (F.chnpFecCorrCount p) (F.chnpFecUncorrCount p) :=
  .inl (by simp only [F.chnpFecCorrCount, R.chnpFecCorr, F.chnpFecUncorrCount, R.chnpFecUncorr]; omega)

theorem exec_pixelGroupReceived {s : State} {p : Fin 3} {x : PortState} (hp : s.chain.ports[p.val]? = some x) (hs : s.portSt p = 2)
    (ho : s.power.off = false) (hw : s.inWinter = false) (lanes : List (List (BitVec 10))) :
    let r := groupDecode ((List.range 4).map fun l => descrambleSlots (x.rxKeys.map (·.getD l 0)) ((lanes.getD l []).map (·.toNat)))
    let t := (s.count (F.chnpFecCorrCount p) r.2.1).count (F.chnpFecUncorrCount p) r.2.2
    exec (.pixelGroupReceived p lanes) s = .next (match r.1 with
      | none => t
      | some flits => ((flits.filter fun f => leAt f 0 2 != 0).foldl (fun t f => t.rxPixel p f) t).showTimePort) := by
  show execPixelGroupReceived p lanes s = _
  unfold execPixelGroupReceived
  rw [if_neg (by rw [hs, ho, hw]; decide), port_of hp]
  extract_lets keys r t
  cases r.1 with
  | none => rfl
  | some flits =>
    refine congrArg (fun u : State => Host.Outcome.next u.showTimePort) ?_
    rw [List.foldl_filter]
    refine List.foldl_ext _ _ _ fun u f _ => ?_
    by_cases h : leAt f 0 2 = 0 <;> simp [h]

/-! A sub-round sent. -/

/-- The levels of a port's lanes put out for a short flit, the scramblers and the round moved on. -/
def State.subRoundSent (s : State) (p : Nat) (f : List Byte) : State :=
  let x := s.port p
  let lanes := (List.range 4).map fun l => subRoundLevels f l x.sub x.round (x.scr.getD l 0) (x.group.getD l [])
  (s.emit (.subRound p f (lanes.map (·.1)))).setPort p fun x =>
    { x with scr := lanes.map (·.2), sub := (x.sub + 1) % 5, round := if x.sub = 4 then (x.round + 1) % 8 else x.round }

theorem subRoundSent_frame {T : List Field} {P : List Part} {s t : State} (h : Frame T P s t) (p : Nat) (f : List Byte) (m1 : .chain ∈ P) (m2 : .out ∈ P) :
    Frame T P s (t.subRoundSent p f) := State.setPort_frame (h.emit m2) p _ m1

theorem subRoundSent_spec {s : State} {p : Nat} {y : PortState} (hy : s.chain.ports[p]? = some y) (f : List Byte) :
    (s.subRoundSent p f).out = .subRound p f ((List.range 4).map fun l =>
      (subRoundLevels f l y.sub y.round (y.scr.getD l 0) (y.group.getD l [])).1) :: s.out ∧
    (s.subRoundSent p f).chain.ports[p]? = some { y with
      scr := (List.range 4).map fun l => (subRoundLevels f l y.sub y.round (y.scr.getD l 0) (y.group.getD l [])).2
      sub := (y.sub + 1) % 5, round := if y.sub = 4 then (y.round + 1) % 8 else y.round } := by
  unfold State.subRoundSent
  rw [port_of hy]
  simp only [List.map_map]
  exact ⟨rfl, setPort_get' (s := s.emit _) hy _⟩

/-- The group of a round's first sub-round taken. -/
def State.roundBegun (s : State) (p : Nat) : State :=
  let g := s.dropRouteless.fillGroup p 5
  let slots := lanesOfWords (groupWords g.1)
  ((g.2.setPort p fun x => { x with group := slots }).showCredits p).emit (.pixelGroup p g.1)

theorem exec_chainSubRound {s : State} {p : Fin 3} {x : PortState} (hp : s.chain.ports[p.val]? = some x) (hs : s.portSt p ≠ 0)
    (ho : s.power.off = false) (hw : s.inWinter = false) (sub : BitVec 35) : exec (.chainSubRound p sub) s =
    .next (((if x.sub = 0 then s.roundBegun p else s).nextShort p sub.toNat).2.subRoundSent p
      ((if x.sub = 0 then s.roundBegun p else s).nextShort p sub.toNat).1) := by
  show execChainSubRound p sub s = _
  unfold execChainSubRound
  rw [if_neg (port_active hs ho hw), port_of hp]
  rfl

section
variable {s : State} {p : Nat} {x : PortState} (hp : s.chain.ports[p]? = some x) (hl : x.linkDue = false) (sub : Nat)
include hp hl

/-- With no TIME and no LINK flit due the queue decides. -/
theorem nextShort_queued (ht : ¬ (x.timeDue = true ∧ (s.portSt p = 2 ∨ s.portSt p = 3))) : s.nextShort p sub =
    if s.portSt p ≠ 2 then (idleFlit, s)
    else match (List.range 3).findSome? fun c => x.queue.findIdx? (·.cls == c) with
    | none => (idleFlit, s)
    | some i =>
      let q := x.queue.getD i ⟨0, false, []⟩
      let t := s.setPort p fun x => { x with queue := x.queue.eraseIdx i }
      (q.bytes, if q.host then t.txStamp (flitSeq q.bytes) sub else t) := by
  unfold State.nextShort
  rw [port_of hp]
  dsimp only
  rw [if_neg ht, hl, if_neg Bool.false_ne_true] <;> rfl

theorem nextShort_idle_notUp (h2 : s.portSt p ≠ 2) (ht : x.timeDue = false ∨ s.portSt p ≠ 3) : s.nextShort p sub = (idleFlit, s) := by
  rw [nextShort_queued hp hl sub (by rcases ht with h | h <;> simp [h, h2]), if_pos h2]

theorem nextShort_idle_empty (ht : x.timeDue = false) (hq : x.queue = []) : s.nextShort p sub = (idleFlit, s) := by
  rw [nextShort_queued hp hl sub (by simp [ht]), hq]
  exact ite_self _

/-- A flit of the first class at the head of the queue goes out. -/
theorem nextShort_head (ht : x.timeDue = false) (h2 : s.portSt p = 2) {q : QueuedFlit} {rest : List QueuedFlit} (hq : x.queue = q :: rest) (hc : q.cls = 0)
    (hh : q.host = false) : s.nextShort p sub = (q.bytes, s.setPort p fun x => { x with queue := x.queue.eraseIdx 0 }) := by
  have best : ((List.range 3).findSome? fun c => (q :: rest).findIdx? (·.cls == c)) = some 0 := by
    have first : (q :: rest).findIdx? (·.cls == 0) = some 0 := by simp [List.findIdx?_cons, hc]
    have range : List.range 3 = [0, 1, 2] := rfl
    rw [range, List.findSome?_cons, first]
  rw [nextShort_queued hp hl sub (by simp [ht]), if_neg (not_not.2 h2), hq, best]
  exact congrArg (Prod.mk q.bytes) (if_neg (show ¬ q.host = true by rw [hh]; decide))

end

theorem dropRouteless_quiet {s : State} (h : ∀ n, n < 4 → (s.txs n).frames = []) : s.dropRouteless = s := by
  refine foldl_inv (fun t : State => t = s) _ _ _ rfl fun t n hn ht => ?_
  subst ht
  refine if_neg ?_
  rw [h n (List.mem_range.1 hn)]
  exact Bool.false_ne_true

/-- A port that is not UP fills its group with IDLE flits. -/
theorem fillGroup_idle {s : State} {p : Nat} (h : s.portSt p ≠ 2) (k : Nat) : s.fillGroup p k = (List.replicate k (List.replicate 256 0), s) := by
  have up : s.portUp p = false := beq_false_of_ne h
  induction k with
  | zero => rfl
  | succ k ih =>
    unfold State.fillGroup
    simp only [up, Bool.false_and, Bool.false_eq_true, if_false, ih]
    rfl

/-- A port's group replaced for a round, its credits shown, the flits of the group put out. -/
def State.groupTaken (s : State) (p : Nat) (slots : List (List Nat)) (flits : List (List Byte)) : State :=
  ((s.setPort p fun x => { x with group := slots }).showCredits p).emit (.pixelGroup p flits)

theorem roundBegun_idle {s : State} {p : Nat} (h : s.portSt p ≠ 2) (hf : ∀ n, n < 4 → (s.txs n).frames = []) : s.roundBegun p =
    s.groupTaken p (lanesOfWords (groupWords (List.replicate 5 (List.replicate 256 0)))) (List.replicate 5 (List.replicate 256 0)) := by
  unfold State.roundBegun
  rw [dropRouteless_quiet hf, fillGroup_idle h]
  rfl

section
variable (s : State) (p : Nat) (slots : List (List Nat)) (flits : List (List Byte))

theorem groupTaken_frame : Frame [F.chnpCreditsOutstanding p] [.chain, .out] s (s.groupTaken p slots flits) :=
  ((State.setPort_frame (Frame.refl _ _ s) p _ (by simp)).put (by simp)).emit (by simp)

theorem groupTaken_portSt : (s.groupTaken p slots flits).portSt p = s.portSt p := by
  refine (groupTaken_frame s p slots flits).get (.ofBits rfl) ?_
  simp only [List.forall_mem_cons, List.not_mem_nil, false_implies, implies_true, and_true]
  exact .inl (by simp only [F.chnpCreditsOutstanding, R.chnpCredits, F.chnpStatusState, R.chnpStatus]; omega)

theorem groupTaken_out : (s.groupTaken p slots flits).out = .pixelGroup p flits :: s.out := rfl

variable {s p} in
theorem groupTaken_port {x : PortState} (hp : s.chain.ports[p]? = some x) :
    (s.groupTaken p slots flits).chain.ports[p]? = some { x with group := slots } := setPort_get' hp _

end

/-- Settles O43: a received slot by its flit's soundness and type, a group by its decoding, a sent sub-round by what is due. -/
theorem chainSubRounds : Obligations.ChainSubRounds := by
  unfold Obligations.ChainSubRounds
  refine ⟨additive_additive, fun s p x ho hw hp => ⟨fun raw => ⟨descramble_lost hp raw, fun gens hl hk hg => descramble_plain hp raw hl hk hg,
    descramble_frame s p raw⟩, fun marks skew raw sub => ?_, fun lanes => ?_, fun sub => ?_⟩⟩
  · intro cmd
    refine ⟨fun h => if_pos (.inl h), fun hs => ⟨s.noteMarks p marks, State.setPort_frame (Frame.refl _ _ s) p _ (by simp), noteMarks_port hp marks, ?_⟩⟩
    intro r
    have e := exec_shortFlitReceived hs ho hw marks skew raw sub
    refine ⟨fun h => e.trans ?_, fun flit h => ?_⟩
    · rw [h]
    · intro t type leaves
      have e : exec cmd s = .next (t.takeShort p skew flit sub.toNat).showTimePort := by
        refine e.trans ?_
        rw [h]
      refine ⟨fun hb => ⟨t.count (F.chnpShortErrsCrc p) 1, count_frame t _, ?_, count_get _ _ _ (.ofBits rfl)⟩, fun hg => ?_⟩
      · rw [← takeShort_bad t p skew sub.toNat hb]
        exact e
      · have left {u : State} (hu : t.takeShort p skew flit sub.toNat = u) : leaves u := hu ▸ e
        have good := takeShort_good t p skew sub.toNat hg
        refine ⟨fun h2 => left ?_, fun h1 hst => left ?_, fun h3 hst => left ?_, fun h4 h10 hst => left ?_, fun h => left ?_, fun h1 h2 hst => left ?_⟩
        · rw [good, if_pos h2]
        · rw [good, if_neg (by omega), if_pos h1, if_pos hst]
        · rw [good, if_neg (by omega), if_neg (by omega), if_neg (not_not.2 hst), if_pos h3]
        · rw [good, if_neg (by omega), if_neg (by omega), if_neg (not_not.2 hst), if_neg (by omega), if_pos ⟨h4, h10⟩]
        · rw [good, if_neg (by omega), if_neg (by omega), if_neg (show flitType flit ≠ 3 by omega),
            if_neg (show ¬ (4 ≤ flitType flit ∧ flitType flit ≤ 10) by omega), ite_self]
        · rw [good, if_neg h2, if_neg h1, if_pos hst]
  · intro cmd plain r
    refine ⟨fun h => if_pos (.inl h), fun hs => ?_⟩
    have e := exec_pixelGroupReceived hp hs ho hw lanes
    refine ⟨(s.count (F.chnpFecCorrCount p) r.2.1).count (F.chnpFecUncorrCount p) r.2.2, ((Frame.refl _ _ s).count (by simp)).count (by simp), ?_, ?_,
      fun h => e.trans ?_, fun l h hempty => e.trans ?_, fun l h => e.trans ?_⟩
    · rw [count_get_other _ _ (fecCorr_apart_uncorr p).symm (.ofBits rfl)]
      exact count_get _ _ _ (.ofBits rfl)
    · rw [count_get _ _ _ (.ofBits rfl), count_get_other _ _ (fecCorr_apart_uncorr p) (.ofBits rfl)]
    · rw [h]
    · rw [h]
      dsimp only
      rw [List.filter_eq_nil_iff.2 fun f hf => by simp [hempty f hf]]
      rfl
    · rw [h]
  · intro cmd levels sent empty
    refine ⟨fun h => if_pos (.inl h), fun hs hsub => ⟨fun hl h2 h3 => ?_, fun hl ht hq => ?_, fun hl ht h2 q rest hq hc hh => ?_⟩, fun hs h2 hsub hl ht hf => ?_⟩
    all_goals have e := exec_chainSubRound hp hs ho hw sub
    · rw [if_neg hsub, nextShort_idle_notUp hp hl _ h2 (.inr h3)] at e
      exact .quiet e (subRoundSent_frame (Frame.refl _ _ s) p _ (by simp) (by simp)) (subRoundSent_spec hp _)
    · rw [if_neg hsub, nextShort_idle_empty hp hl _ ht hq] at e
      exact .quiet e (subRoundSent_frame (Frame.refl _ _ s) p _ (by simp) (by simp)) (subRoundSent_spec hp _)
    · rw [if_neg hsub, nextShort_head hp hl _ ht h2 hq hc hh] at e
      have hp' : (s.setPort p fun x => { x with queue := x.queue.eraseIdx 0 }).chain.ports[p.val]? = some { x with queue := rest } := by
        rw [setPort_get' hp, hq]
        rfl
      exact .quiet e (subRoundSent_frame (State.setPort_frame (Frame.refl _ _ s) p _ (by simp)) p _ (by simp) (by simp)) (subRoundSent_spec hp' _)
    · have taken := groupTaken_port (lanesOfWords (groupWords empty)) empty hp
      rw [if_pos hsub, roundBegun_idle h2 hf, nextShort_idle_notUp taken hl _ (by rw [groupTaken_portSt]; exact h2) (.inl ht)] at e
      have spec := subRoundSent_spec taken idleFlit
      rw [groupTaken_out] at spec
      exact .quiet e (subRoundSent_frame (groupTaken_frame s p _ _) p _ (by simp) (by simp)) spec

end Sys2Proof.Machine
end
